-- ==== Sys2Proof/Word.lean ====
section
/-! DEFINITION. The word types of the device: bytes of memory and 32-bit registers (spec 00_scope, "Registers"). -/

namespace Sys2Proof

/-- One byte of memory. -/
abbrev Byte := BitVec 8

/-- One 32-bit register or engine word (R6). -/
abbrev Word := BitVec 32

end Sys2Proof
end

