-- ==== Sys2Proof/Machine/Reg.lean ====
section
/-! DEFINITION. The registers of the register tables of spec (00_scope "Registers", R21; tables of R65, R84, R110, R111,
R187, R188, R189, R205, R234 to R236, R272 to R275, R300, R325, R349, R372, R373, R444, R468, R483, R484, R499, R500):
one name per table row, and the types that describe a row. -/

namespace Sys2Proof.Machine

/-- One register of the register tables; its number of copies stands in `Reg.info`. -/
inductive Reg where
  | BOOT_STRAP
  | BOOT_STATUS
  | BOOT_CAUSE
  | BOOT_TIME
  | BOOT_CTRL
  | BOOT_XSPI_CFG
  | BOOT_FAILOVER_CNT
  | BOOT_REC_DENY_CNT
  | BOOT_SKIP_CNT
  | BOOT_MISUSE_CNT
  | VLT_STATUS
  | VLT_ROLLBACK
  | VLT_TAMPER_EN
  | VLT_TAMPER_SRC
  | VLT_DBG_FAIL_CNT
  | VLT_WIN_DENY_CNT
  | VLT_PROV_REFUSE_CNT
  | VLT_MISUSE_CNT
  | SMF_JOBROUTE
  | SMF_JOBDROP_CNT
  | RNK_STATUS
  | RNK_CFG
  | RNK_FWMASK
  | RNK_TLB_INV
  | RNK_TLB_STATUS
  | RNK_FAULT_CFG
  | RNK_FAULT_PEND
  | RNK_LFAULT_PEND
  | RNK_PUSH
  | RNK_ENG_CFG
  | RNK_ENG_STATUS
  | RNK_SPACE_ROOT_LOW
  | RNK_SPACE_ROOT_HIGH
  | RNK_CTX_FLT
  | RNK_CTX_VA
  | RNK_CTX_CTRL
  | RNK_PUSH_REFUSE_CNT
  | RNK_QWAIT_CNT
  | RNK_STEAL_CNT
  | RNK_XSTEAL_CNT
  | RNK_XSTEAL_MISS_CNT
  | RNK_PSTEAL_CNT
  | RNK_FAULT_CNT
  | RNK_LIFT_HOLD_CNT
  | RNK_JOBLOST_CNT
  | RNK_PAIR_CONFLICT_CNT
  | RNK_LMEM_CE_CNT
  | RNK_MISUSE_CNT
  | SMF_CFG
  | SMF_STATUS
  | SMF_ERR_ADDR_LOW
  | SMF_ERR_ADDR_HIGH
  | SMF_ERR_INFO
  | SMF_BANK_STAT
  | SMF_PART_MAP
  | SMF_CONF_CNT
  | SMF_CE_CNT
  | SMF_UE_CNT
  | SMF_BANK_DENY_CNT
  | SMF_MISUSE_CNT
  | GRM_CMD
  | GRM_STATUS
  | GRM_DB_CFG
  | GRM_SCRUB_CFG
  | GRM_SCRUB_POS
  | GRM_SCRUB_CE_CNT
  | GRM_SCRUB_UE_CNT
  | GRM_REPAIR_CNT
  | GRM_REFUSE_CNT
  | GRM_PASS_CNT
  | GRM_MISUSE_CNT
  | GRM_BANK
  | LFT_DESC_LOW
  | LFT_DESC_HIGH
  | LFT_CTRL
  | LFT_STATUS
  | LFT_PROG
  | LFT_CUR_LOW
  | LFT_CUR_HIGH
  | LFT_FLT
  | LFT_FLT_VA
  | LFT_CFG
  | LFT_DROOT_LOW
  | LFT_DROOT_HIGH
  | LFT_DONE_CNT
  | LFT_FAULT_CNT
  | LFT_ABORT_CNT
  | LFT_REFUSE_CNT
  | LFT_MISUSE_CNT
  | MBX_NOTICE_LOW
  | MBX_NOTICE_HIGH
  | MBX_STATUS
  | MBX_CFG
  | MBX_DB
  | MBX_DB_SET
  | MBX_LOCK
  | MBX_LOCK_FORCE
  | MBX_FLUSH
  | MBX_POSTRES
  | MBX_POST_CNT
  | MBX_POST_REFUSE_CNT
  | MBX_DB_COAL_CNT
  | MBX_LOCK_REFUSE_CNT
  | MBX_FORCE_CNT
  | MBX_MISUSE_CNT
  | MAC_CFG
  | MAC_CTRL
  | MAC_STATUS
  | MAC_LINK_DB
  | MAC_SA_LOW
  | MAC_SA_HIGH
  | MAC_FC_CFG
  | MAC_FC_TIME
  | MAC_TRAV
  | MAC_TRAV_JOB
  | MAC_PM_ADDR_LO
  | MAC_PM_CTL
  | MAC_PM_JOB0
  | MAC_PM_TAG
  | MAC_SEC_CFG
  | MAC_SEC_WIN
  | MAC_SEC_SCI_LOW
  | MAC_SEC_SCI_HIGH
  | MAC_SEC_RXSCI_LOW
  | MAC_SEC_RXSCI_HIGH
  | MAC_SEC_TXPN_LOW
  | MAC_SEC_TXPN_HIGH
  | MAC_SEC_STATUS
  | MAC_SEC_SSCI
  | MAC_SEC_RXSSCI
  | MAC_RX_OK_CNT
  | MAC_TX_OK_CNT
  | MAC_RUNT_CNT
  | MAC_GIANT_CNT
  | MAC_FCS_CNT
  | MAC_LEN_CNT
  | MAC_TX_GIANT_CNT
  | MAC_RX_PAUSE_CNT
  | MAC_TX_PAUSE_CNT
  | MAC_CTL_UNK_CNT
  | MAC_LINK_CHG_CNT
  | MAC_LOCAL_DROP_CNT
  | MAC_TRAV_BAD_CNT
  | MAC_TRAV_LATE_CNT
  | MAC_SEC_AUTH_CNT
  | MAC_SEC_REPLAY_CNT
  | MAC_SEC_UNTAG_CNT
  | MAC_SEC_TXDROP_CNT
  | MAC_MISUSE_CNT
  | SDS_CFG
  | SDS_CTRL
  | SDS_STATUS
  | SDS_CODE_ERR_CNT
  | SDS_LOCK_LOSS_CNT
  | SDS_MISUSE_CNT
  | TPHY_CFG
  | TPHY_CTRL
  | TPHY_STATUS
  | TPHY_LINK_LOSS_CNT
  | TPHY_SYMERR_CNT
  | TPHY_MISUSE_CNT
  | SWC_CFG
  | SWC_BUF_STATUS
  | SWC_POOL_SIZE
  | SWC_POOL_FREE
  | SWC_POOL_CFG
  | SWC_PCP_MAP
  | SWC_AGE_CFG
  | SWC_TXCFG
  | SWC_TBL_CMD
  | SWC_TBL_STATUS
  | SWC_TBL_DATA
  | SWC_RED
  | SWC_RED_SEQ
  | SWC_CAP_BASE_LOW
  | SWC_CAP_BASE_HIGH
  | SWC_CAP_CFG
  | SWC_CAP_WR
  | SWC_CAP_RD
  | SWC_CAP_DB
  | SWC_CAPR
  | SWC_CAPR_ETYPE
  | SWC_LEARN_CNT
  | SWC_LEARN_FULL_CNT
  | SWC_FLOOD_CNT
  | SWC_TBL_REFUSE_CNT
  | SWC_DUPTBL_OVF_CNT
  | SWC_CAP_CNT
  | SWC_CAP_LOST_CNT
  | SWC_INJ_ERR_CNT
  | SWC_FREE_BAD_CNT
  | SWC_MISUSE_CNT
  | SWC_PORTCFG
  | SWC_PORTTH
  | SWC_PORTRSV
  | SWC_PORTMODE
  | SWC_PORTUSE
  | SWC_PORTUSE2
  | SWC_PORTQ
  | SWC_PORTBP
  | SWC_IPORT
  | SWC_IJOB0
  | SWC_IJOBTAG
  | SWC_INJ_DB
  | SWC_IN_CNT
  | SWC_OUT_CNT
  | SWC_SKIP_CNT
  | SWC_MC_DROP_CNT
  | SWC_SCHED_DROP_CNT
  | SWC_HDRM_DROP_CNT
  | SWC_POLICY_DROP_CNT
  | SWC_SF_DROP_CNT
  | SWC_DUP_CNT
  | SWC_XOFF_CNT
  | SWC_FLUSH_CNT
  | SWC_GCL_OVERSIZE_CNT
  | SWC_TX_LATE_CNT
  | SWC_CELL_UE_CNT
  | SWC_GCL_SKIP_CNT
  | SWC_INJ_REFUSE_CNT
  | SWC_GCL_CFG
  | SWC_GCL_STAT
  | SWC_GCL_SW
  | SWC_GCL_CYCLE
  | SWC_GCL_BASE
  | SWC_GCL_LEN
  | SWC_CBS_SLOPE
  | SWC_CBS_LIM
  | SWC_GCE
  | SWC_GCE_GATES
  | SWC_FREE
  | SWC_INJ
  | SWC_INJRES
  | TMU_TB_LOW
  | TMU_TB_HIGH
  | TMU_TB_NOM
  | TMU_TB_INCR
  | TMU_TB_STEP_LOW
  | TMU_TB_STEP_HIGH
  | TMU_TB_OFS
  | TMU_SRV_CFG
  | TMU_SRV_KP
  | TMU_SRV_KI
  | TMU_SRV_LIM
  | TMU_SRV_THR
  | TMU_SRV_STAT
  | TMU_SRV_LAST
  | TMU_SRV_INTEG
  | TMU_TB_DB
  | TMU_TB_PPSEXP
  | TMU_TB_PPSPER
  | TMU_TB_PTP
  | TMU_SAMPLE_CNT
  | TMU_STEP_CNT
  | TMU_OUTLIER_CNT
  | TMU_CLAMP_CNT
  | TMU_OFS_REFUSE_CNT
  | TMU_EVT_CFG
  | TMU_EVT_LOW
  | TMU_EVT_HIGH
  | TMU_EVT_OVF_CNT
  | TMU_OUT_CFG
  | TMU_OUT_START
  | TMU_OUT_PER
  | TMU_OUT_PERF
  | TMU_OUT_HIGH
  | TMU_OUT_SKIP_CNT
  | TMU_TXTS_LOW
  | TMU_TXTS_HIGH
  | TMU_TXTS_CFG
  | TMU_TXTS_OVF_CNT
  | TMU_PORT_LAT
  | TMU_PORT_TC
  | TMU_PORT_LINKDLY
  | TMU_STATUS
  | TMU_REF10_ERR
  | TMU_TC_SKIP_CNT
  | TMU_MISUSE_CNT
  | SLM_CFG
  | SLM_NODE
  | SLM_VLAN
  | SLM_DA_LOW
  | SLM_DA_HIGH
  | SLM_RXWIN
  | SLM_SYNC
  | SLM_LISTEN
  | SLM_STATUS
  | SLM_THETA
  | SLM_SYNC_STAT
  | SLM_CSTART
  | SLM_SW
  | SLM_DB
  | SLM_RXJOB0
  | SLM_DCB_BASE_LOW
  | SLM_DCB_BASE_HIGH
  | SLM_DCB_CFG
  | SLM_BANK_CYCLE
  | SLM_BANK_INFO
  | SLM_BANK_SYNC
  | SLM_GATE_W0
  | SLM_GATE_OFF_A
  | SLM_GATE_OFF_B
  | SLM_GATE_W3
  | SLM_DCB
  | SLM_DCB_CMD
  | SLM_TX_CNT
  | SLM_NULL_TX_CNT
  | SLM_TX_LATE_CNT
  | SLM_RX_OK_CNT
  | SLM_NULL_RX_CNT
  | SLM_FWD_CNT
  | SLM_DUP_CNT
  | SLM_EARLY_CNT
  | SLM_LATE_CNT
  | SLM_FORMAT_CNT
  | SLM_SCHED_CNT
  | SLM_GATE_CNT
  | SLM_CYCLE_CNT
  | SLM_CLASH_CNT
  | SLM_COLD_RX_CNT
  | SLM_SYNC_LOW_CNT
  | SLM_MUTE_CNT
  | SLM_COLLIDE_CNT
  | SLM_SW_REFUSE_CNT
  | SLM_JOB_DROP_CNT
  | SLM_MISUSE_CNT
  | CAN_CFG
  | CAN_CTRL
  | CAN_ARB_TIMING
  | CAN_FAST_TIMING
  | CAN_SSP
  | CAN_LAT
  | CAN_STATUS
  | CAN_DB
  | CAN_RING_BASE_LOW
  | CAN_RING_BASE_HIGH
  | CAN_RING_CFG
  | CAN_RING_WR
  | CAN_RING_RD
  | CAN_RXJOB0
  | CAN_TXREQ
  | CAN_TXCANCEL
  | CAN_TXDONE
  | CAN_TXMISS
  | CAN_MX_CFG
  | CAN_MX_BASE
  | CAN_MX_BC
  | CAN_MX_STAT
  | CAN_MX_START
  | CAN_MX_LEN
  | CAN_MX_CELL
  | CAN_RX_OK_CNT
  | CAN_TX_OK_CNT
  | CAN_RX_OVF_CNT
  | CAN_JOB_DROP_CNT
  | CAN_ARB_LOST_CNT
  | CAN_BIT_ERR_CNT
  | CAN_STUFF_ERR_CNT
  | CAN_FORM_ERR_CNT
  | CAN_CRC_ERR_CNT
  | CAN_ACK_ERR_CNT
  | CAN_PXE_CNT
  | CAN_BUSOFF_CNT
  | CAN_MISSED_CNT
  | CAN_MX_SKIP_CNT
  | CAN_TX_REFUSE_CNT
  | CAN_MISUSE_CNT
  | BLD_GCFG
  | BLD_CTRL
  | BLD_RESTART
  | BLD_RESTART_T
  | BLD_RESTART_STAT
  | BLD_FLAGS
  | BLD_FLAGS_SET
  | BLD_JOB0
  | BLD_FLAG_CFG
  | BLD_PINSTATE
  | BLD_PROG
  | BLD_ILLEGAL_CNT
  | BLD_ILLEGAL_PC
  | BLD_JOB_DROP_CNT
  | BLD_MISUSE_CNT
  | BLD_CLK
  | BLD_LANES
  | BLD_FORM
  | BLD_PCFG
  | BLD_STATUS
  | BLD_TXHOLD
  | BLD_RXHOLD
  | BLD_G
  | BLD_C
  | BLD_T
  | BLD_DB
  | BLD_ATSTEP
  | BLD_UNDERRUN_CNT
  | BLD_OVERRUN_CNT
  | BLD_LATE_CNT
  | BLD_TXREFUSE_CNT
  | PIN_CFG
  | PIN_LEVEL_LOW
  | PIN_LEVEL_HIGH
  | PIN_BANK
  | PIN_BANK_CHG_CNT
  | PIN_MISUSE_CNT
  | CTL_CFG
  | CTL_STATUS
  | CTL_PI_BASE_LOW
  | CTL_PI_BASE_HIGH
  | CTL_COMMIT
  | CTL_LOSS
  | CTL_FORCE
  | CTL_ARITH
  | CTL_DB
  | CTL_TASK_CFG
  | CTL_TASK_PERIOD
  | CTL_TASK_BASE
  | CTL_TASK_OFFSET
  | CTL_TASK_DEADLINE
  | CTL_TASK_HOLD
  | CTL_TASK_JOB0
  | CTL_TASK_STACK
  | CTL_TASK_CODE_LOW
  | CTL_TASK_CODE_HIGH
  | CTL_TASK_STAT
  | CTL_TASK_T0
  | CTL_XCHG_ADDR_LOW
  | CTL_XCHG_ADDR_HIGH
  | CTL_XCHG_AT
  | CTL_TASK_CTRL
  | CTL_SLOT
  | CTL_COMMIT_REFUSE_CNT
  | CTL_JOB_DROP_CNT
  | CTL_XCHG_REFUSE_CNT
  | CTL_MISUSE_CNT
  | CTL_RUN_CNT
  | CTL_OVR_CNT
  | CTL_SKIP_CNT
  | CTL_ARITH_CNT
  | CTL_STOP_CNT
  | PAR_CFG
  | PAR_ID
  | PAR_NODE
  | PAR_START
  | PAR_PAIR_MAC_LOW
  | PAR_PAIR_MAC_HIGH
  | PAR_NETHB
  | PAR_COPY_CFG
  | PAR_COPY_WIN
  | PAR_TRACK_LOW
  | PAR_TRACK_HIGH
  | PAR_STATUS
  | PAR_CTRL
  | PAR_COPY_BYTES
  | PAR_COPY_TIME
  | PAR_DIV_SLOT
  | PAR_DB
  | PAR_SEQREC
  | PAR_HB_BAD_CNT
  | PAR_TMISS_CNT
  | PAR_NMISS_CNT
  | PAR_TAKEOVER_CNT
  | PAR_YIELD_CNT
  | PAR_RANK_CLASH_CNT
  | PAR_COPY_LATE_CNT
  | PAR_DIV_CNT
  | PAR_CMP_SKIP_CNT
  | PAR_IMG_MISMATCH_CNT
  | PAR_PROG_MISMATCH_CNT
  | PAR_AUTH_CNT
  | PAR_LANE_LOSS_CNT
  | PAR_MISUSE_CNT
  | PAT_STATUS
  | PAT_LOAD
  | PAT_WDOG_CFG
  | PAT_WDOG_KICK
  | PAT_WDOG_LEFT
  | PAT_FAULT_PEND
  | PAT_FAULT_CFG
  | PAT_SQ_PUSH
  | PAT_SQ_STATUS
  | PAT_SPACE_ROOT_LOW
  | PAT_SPACE_ROOT_HIGH
  | PAT_CTX_FLT
  | PAT_CTX_VA
  | PAT_CTX_CTRL
  | PAT_SQ_REFUSE_CNT
  | PAT_KICK_BAD_CNT
  | PAT_FAULT_CNT
  | PAT_PAIR_CONFLICT_CNT
  | PAT_SHED_CNT
  | PAT_LOCKSTEP_CNT
  | PAT_MISUSE_CNT
  | HST_STATUS
  | HST_CFG
  | HST_WIN_STAT
  | HST_MSIX_TGT
  | HST_MSIX_MASK
  | HST_UE_CNT
  | HST_SPI_FRAME_CNT
  | HST_SPI_NOTREADY_CNT
  | HST_MSIX_CNT
  | HST_LINK_DOWN_CNT
  | HST_MISUSE_CNT
  | PWR_DOM_CTRL
  | PWR_DOM_STAT
  | PWR_BANK_REQ
  | PWR_SLEEP
  | PWR_WAKE_AT
  | PWR_WAKE_WRAPS
  | PWR_WAKE_CAUSE
  | PWR_KEEP
  | PWR_REFUSE_CNT
  | PWR_MISUSE_CNT
  | SYS_ID
  | SYS_SERIAL_LOW
  | SYS_SERIAL_HIGH
  | SYS_MODE
  | SYS_MODE_CTRL
  | SYS_DEGRADED
  | SYS_RESET
  | SYS_RINK_RST
  | SYS_RESET_CAUSE
  | SYS_DB
  | SYS_DECODE_CNT
  | SYS_DENY_CNT
  | SYS_DOMAIN_OFF_CNT
  | SYS_MISUSE_CNT
  /-- Word w of transmit buffer b (R333). -/
  | CAN_BUF
deriving DecidableEq, Repr, Inhabited

/-- The blocks of R21. -/
inductive Block where
  | SYS | PWR | VLT | BOOT | SMF | GRM | LFT | MBX | TMU | SLM | PAR | CTL | PAT | HST | RNK | SWC | MAC | SDS | TPHY
  | CAN | BLD | PIN
deriving DecidableEq, Repr, Inhabited

/-- The access types of the register tables ("Registers"). -/
inductive Acc where
  | rw | ro | wo | w1s | w1c | cnt
deriving DecidableEq, Repr, Inhabited

/-- Which values a field's description leaves legal (R11). -/
inductive Legal where
  | any
  | le (m : Nat)
  | ge (m : Nat)
  | rng (a b : Nat)
  | mult (a b m : Nat)
  | capPort
  | masterId
deriving DecidableEq, Repr, Inhabited

/-- A field of a register: its bits, access type, reset value, the reset kinds that keep it (bit 0 PIN, 1 TAMP, 2 WDOG,
3 SOFT, 4 RINK, 5 PORT) and its legal values. -/
structure FieldInfo where
  hi : Nat
  lo : Nat
  acc : Acc
  rst : Nat
  kept : Nat
  legal : Legal
deriving DecidableEq, Repr, Inhabited

/-- A register: its block, its offset from 0x10_0000_0000, the strides and counts of its indices, its fields. -/
structure RegInfo where
  blk : Block
  off : Nat
  strides : List (Nat × Nat)
  fields : List FieldInfo
deriving DecidableEq, Repr, Inhabited

/-- A field by register and bits. -/
structure Fld where
  reg : Reg
  hi : Nat
  lo : Nat
deriving DecidableEq, Repr, Inhabited

end Sys2Proof.Machine
end

