-- ==== Sys2Proof/Machine/Sparse.lean ====
section
/-! DEFINITION. Sparse tables: a list of (key, value) pairs in one canonical form, keys strictly rising and no entry
equal to what an unlisted key reads as. Memory, the register file and every indexed unit of the device use it. -/

namespace Sys2Proof.Machine

namespace Sparse

variable {β : Type}

/-- The value at a key: the listed one, or the default `d` of the key. -/
def get (d : Nat → β) : List (Nat × β) → Nat → β
  | [], k => d k
  | (a, v) :: t, k => if k = a then v else get d t k

/-- The table without the key `k`. -/
def erase (k : Nat) : List (Nat × β) → List (Nat × β)
  | [] => []
  | (a, v) :: t => if k = a then erase k t else (a, v) :: erase k t

/-- Insert a key that is not listed, in rising order. -/
def insert (k : Nat) (v : β) : List (Nat × β) → List (Nat × β)
  | [] => [(k, v)]
  | (a, w) :: t => if k < a then (k, v) :: (a, w) :: t else (a, w) :: insert k v t

/-- Write a value; writing the default removes the entry, so that equal tables are equal data. -/
def set [DecidableEq β] (d : Nat → β) (t : List (Nat × β)) (k : Nat) (v : β) : List (Nat × β) :=
  if v = d k then erase k t else insert k v (erase k t)

/-- Every key of the table is above `k`. -/
def above (k : Nat) : List (Nat × β) → Bool
  | [] => true
  | (a, _) :: _ => decide (k < a)

/-- The canonical form: strictly rising keys, no entry equal to its default. -/
def wf [DecidableEq β] (d : Nat → β) : List (Nat × β) → Bool
  | [] => true
  | (a, v) :: t => decide (v ≠ d a) && above a t && wf d t

end Sparse

/-- A table of units indexed by number; an unlisted unit is in its initial (all zero) state. -/
abbrev Tab (β : Type) := List (Nat × β)

namespace Tab

variable {β : Type}

/-- Unit `k` of the table. -/
def get [Inhabited β] (t : Tab β) (k : Nat) : β := Sparse.get (fun _ => default) t k

/-- The table with unit `k` replaced. -/
def set [DecidableEq β] [Inhabited β] (t : Tab β) (k : Nat) (v : β) : Tab β :=
  Sparse.set (fun _ => default) t k v

/-- The table with unit `k` changed by `f`. -/
def upd [DecidableEq β] [Inhabited β] (t : Tab β) (k : Nat) (f : β → β) : Tab β := set t k (f (get t k))

/-- The table with every key that `p` selects back in its initial state. -/
def clear (p : Nat → Bool) (t : Tab β) : Tab β := t.filter fun e => !p e.1

end Tab

end Sys2Proof.Machine
end

