-- ==== Sys2Proof/Machine/Types.lean ====
section
/-! DEFINITION. The data that commands carry and that several blocks share: images, frames, jobs, agents. -/

namespace Sys2Proof.Machine

/-- What the flash of one chip select holds, as it is read: whether SFDP answers, and its bytes from address 0 up. -/
structure Flash where
  sfdp : Bool
  bytes : List Byte
deriving DecidableEq, Repr, Inhabited

/-- A flash as a sender can give it: no byte where it gives no SFDP response, and no more bytes than the longest image (R51). -/
def Flash.wellFormed (f : Flash) : Bool := (f.sfdp || f.bytes.isEmpty) && f.bytes.length ≤ 0x2000000

/-- A section of an image: the fields of its table entry (R51) and its bytes as the flash holds them. -/
structure Section where
  type : Nat
  flags : Nat
  offset : Nat
  length : Nat
  target : Nat
  data : List Byte
deriving DecidableEq, Repr, Inhabited

/-- An image as it is read from the flash: the header fields of R51, the sections, the digest of R52 and the signature. -/
structure Image where
  sfdp : Bool
  magic : Nat
  format : Nat
  imageLen : Nat
  secCount : Nat
  rollback : Nat
  targetMode : Nat
  buildId : Nat
  reservedZero : Bool
  sections : List Section
  digest : Nat
  sig : Nat
deriving DecidableEq, Repr, Inhabited

/-- One REGSEQ record (R59). -/
structure RegRec where
  op : Nat
  addr : Nat
  param : Nat
  value : Nat
  mask : Nat
deriving DecidableEq, Repr, Inhabited

/-- A job descriptor: words 0 to 7 (R89). -/
abbrev Job := List Word

/-- One context of the device: contexts 0 to 255 are rink × 32 + engine × 4 + context; 256 to 259 are Patrol's. -/
abbrev CtxId := Fin 260

/-- Who makes an access to register space or to the mailbox block: an engine's context, one of Patrol's contexts, or the host
(R17). -/
inductive Agent where
  | engine (e : Fin 64) (ctx : Fin 4)
  | patrol (ctx : Fin 4)
  | host
deriving DecidableEq, Repr, Inhabited

/-- The master ID of an agent (R17). -/
def Agent.mid : Agent → Nat
  | .engine e _ => e
  | .patrol _ => 0x40
  | .host => 0x41

/-- The engine whose store buffer the agent's stores pass through: 64 is Patrol (R121). -/
def Agent.eng : Agent → Option Nat
  | .engine e _ => some e
  | .patrol _ => some 64
  | .host => none

/-- The context number that an access of the agent carries. -/
def Agent.ctx : Agent → Nat
  | .engine _ c => c
  | .patrol c => c
  | .host => 0

/-- What takes an engine offline, or does not (R108): a write of OFFLINE, an uncorrectable error in its local memory, or a correctable
one, which is corrected and counted. -/
inductive EngineLoss where
  | offline (who : Agent)
  | uncorrectable
  | correctable
deriving DecidableEq, Repr, Inhabited

/-- A Provisioning request of R72 with its contents: the slot and its public key, the sender's public key with K_IMG as it is sent under the
ephemeral key, the debug key, SENSOR_EN and TAMPER_LIMIT. -/
inductive VltReq where
  | getEphemeral
  | setKeySlot (n : Fin 4) (key : BitVec 768)
  | revokeSlot (n : Fin 4)
  | setImgKey (sent : BitVec 768 × BitVec 480)
  | setDebugKey (key : BitVec 768)
  | setSensors (en : BitVec 5) (limit : BitVec 6)
  | setOwned
  | scrap
deriving DecidableEq, Repr, Inhabited

/-- How an SPI write ends (R480): whole, within its last word, or it is no write because its CMD is unknown. -/
inductive SpiEnd where
  | whole | cut | unknown
deriving DecidableEq, Repr, Inhabited

/-- What the debugger reads or writes (R79): the registers of a context, its engine control registers, the units CP0 and CP1, the state of
the context, what its engine has buffered and queued, the translations held for it, local memory, and the register pages. -/
inductive DbgTarget where
  | wreg (who : CtxId) (r : Fin 32)
  | pc (who : CtxId)
  | flags (who : CtxId)
  | space (who : CtxId)
  | creg (who : CtxId) (i : BitVec 8)
  /-- CRC unit: 0 ACC, 1 POLY, 2 CFG. Bit stuffing: 3 CFG, 4 bits held, 5 to 8 the buffer, 9 the run. -/
  | cp0 (who : CtxId) (i : Fin 10)
  /-- Pregaef binding: 0 the task + 1, 1 code pointer, 2 stack pointer, 3 handler base. -/
  | cp1 (who : CtxId) (i : Fin 4)
  /-- 0 the state as CTX_STATE shows it, 1 the running priority, 2 whether the context runs a job, 3 the kind of its stall, 4 the address or the
  word that is stalled, 5 its accesses made so far, 6 the steal window over, 7 Patrol's last reply empty, 8 ABORT waits, 9 FENCE waits, 10 the
  register of WAITEV, 11 the task of its job. -/
  | state (who : CtxId) (i : Fin 12)
  /-- Word `w` of the `i`-th walk that runs: owner, rink, SPACE and whether its result is dead; the virtual address. -/
  | walk (i : Fin 64) (w : Fin 2)
  /-- Word `w` of entry `i` of the micro-TLB: SPACE and rights, page, physical address low and high. -/
  | microTlb (who : CtxId) (i : Fin 8) (w : Fin 4)
  | secondTlb (n : Fin 8) (i : Fin 1024) (w : Fin 4)
  /-- Word `w` of the `i`-th job of the queue of engine `e`; 64 is Patrol's stealable queue. -/
  | queue (e : Fin 65) (i : Fin 64) (w : Fin 8)
  /-- Word `w` of the `i`-th buffered store of engine `e`: address low and high, value low and high. -/
  | store (e : Fin 65) (i : Fin 32) (w : Fin 4)
  | mem (who : CtxId) (off : Nat)
  | register (off : Nat)
deriving DecidableEq, Repr, Inhabited

/-- The signal balls that boundary scan reaches (R503, R522): all but the SerDes, PCI Express and MDI balls, and those of the TAP itself. -/
inductive ScanPin where
  | bp (i : Fin 64)
  | canTx (n : Fin 8)
  | canRx (n : Fin 8)
  | xspi (i : Fin 13)
  | spi (i : Fin 4)
  | resetN | tamperN
  | tpOut (n : Fin 4)
  | pairRank | wake
  | bootSel (i : Fin 2)
  | tpIn (n : Fin 4)
  | ref10 | ref25
deriving DecidableEq, Repr, Inhabited

/-- What reaches the device over the test access port (R79, R522): a level of TRST_N, a rising edge of TCK with TMS, a boundary scan that
drives pins or samples one, the end of a scan's drive, and an access of the debugger. -/
inductive TapOp where
  | trst (high : Bool)
  | tck (tms : Bool)
  | drive (l : List (ScanPin × Bool))
  | sample (p : ScanPin)
  | undrive
  | access (t : DbgTarget)
deriving DecidableEq, Repr, Inhabited

/-- The SecTAG and ICV of a received frame (R229, R230): SCI, association number, PN and the ICV. -/
structure SecRx where
  sci : BitVec 64
  an : Fin 4
  pn : BitVec 32
  icv : BitVec 128
deriving DecidableEq, Repr, Inhabited

/-- What a 10BASE-T1L PHY reports with its link: the partner offers 2.4 Vpp, the PHY took the leader role, SQI, symbol
errors since the last report. -/
structure TphyLine where
  offers24 : Bool
  leader : Bool
  sqi : Fin 8
  symErrs : Nat
deriving DecidableEq, Repr, Inhabited

/-- A word access as a master presents it to a bank. -/
inductive BankOp where
  | read
  /-- A write of the bytes that the mask selects. -/
  | write (mask : BitVec 8) (data : BitVec 64)
deriving DecidableEq, Repr, Inhabited

end Sys2Proof.Machine
end

