-- ==== Sys2Proof/Machine/StCan.lean ====
section
/-! DEFINITION. State of the CAN controllers beside their registers, and what happens on their buses (12_can). -/

namespace Sys2Proof.Machine

/-- A frame on a CAN bus (R332): a base identifier stands in bits 28 to 18 of `id`, the other fields as on the bus;
`resRecessive`: the res bit of an FD frame is recessive. -/
structure CanFrame where
  id : Nat
  ide : Bool
  rtr : Bool
  fdf : Bool
  brs : Bool
  esi : Bool
  dlc : Nat
  data : List Byte
  resRecessive : Bool
deriving DecidableEq, Repr, Inhabited

/-- Data bytes of a DLC (R332). -/
def dlcLen (fdf : Bool) (dlc : Nat) : Nat :=
  if dlc ≤ 8 then dlc
  else if !fdf then 8
  else [12, 16, 20, 24, 32, 48, 64].getD (dlc - 9) 64

/-- A frame as the controller reads it from the bus: fields of their widths, ID[17:0] of a base identifier 0, as many bytes as the DLC says,
and no BRS, ESI or res in a classical frame (R332). -/
def CanFrame.asRead (f : CanFrame) : CanFrame :=
  let rtr := f.rtr && !f.fdf
  let dlc := f.dlc % 16
  let len := if rtr then 0 else dlcLen f.fdf dlc
  { f with id := if f.ide then f.id % 2 ^ 29 else f.id % 2 ^ 29 / 2 ^ 18 * 2 ^ 18, rtr := rtr, dlc := dlc, brs := f.fdf && f.brs,
           esi := f.fdf && f.esi, resRecessive := f.fdf && f.resRecessive,
           data := (f.data ++ List.replicate (len - f.data.length) 0#8).take len }

/-- A frame as a bus can carry it (R332): the identifier, the DLC and as many bytes as it says; FD frames have no remote form, and
only they have the bits BRS, ESI and res. -/
def CanFrame.wellFormed (f : CanFrame) : Bool :=
  f.id < 2 ^ 29 && (f.ide || f.id % 2 ^ 18 == 0) && f.dlc < 16 && (if f.fdf then !f.rtr else !f.brs && !f.esi && !f.resRecessive)
    && f.data.length == (if f.rtr then 0 else if f.dlc ≤ 8 then f.dlc else if f.fdf then [12, 16, 20, 24, 32, 48, 64].getD (f.dlc - 9) 64 else 8)

/-- Kinds of errors (R345). -/
inductive CanErr where
  | bit | stuff | form | crc | ack
deriving DecidableEq, Repr, Inhabited

/-- The course of an attempt (R335): its SOF leaves, and it ends. `special` marks the exceptions of the fault confinement rules; `edge`: the
frame has come past its FDF-to-res edge. -/
inductive CanOut where
  | start
  | sent
  | lost
  | error (k : CanErr) (special edge : Bool)
deriving DecidableEq, Repr, Inhabited

/-- An entry of the ring in progress, whose writes are not acknowledged yet (R344): index, stamp in 2^-8 ns, time base, its bytes. -/
structure RingE where
  idx : Nat
  ts : Nat
  tb : Nat
  bytes : List Byte
deriving DecidableEq, Repr, Inhabited

/-- The SOF of a frame: the copy of TB in 2^-8 ns, and the matrix then, as word 3 of an entry shows it (R343). -/
structure CanSof where
  at_ : Nat
  mx : Nat
deriving DecidableEq, Repr, Inhabited

/-- A gate that waits for the bus (R340): column, basic cycle index, start of its window. -/
structure CanGate where
  col : Nat
  bc : Nat
  start : Nat
deriving DecidableEq, Repr, Inhabited

/-- A frame in transmission: its buffer, the frame, its SOF, whether it goes in a gate (R340), and whether a cancel has met it (R334). -/
structure CanTx where
  buf : Nat
  frame : CanFrame
  sof : CanSof
  gate : Bool
  cancelled : Bool
deriving DecidableEq, Repr, Inhabited

/-- A CAN controller (R326 to R348). -/
structure CanSt where
  /-- The frame in transmission; the SOF of the frame in reception. -/
  tx : Option CanTx
  rx : Option CanSof
  /-- EN = 0 was written while a frame was on the bus: the controller enters STOPPED at its end (R331). -/
  leaving : Bool
  /-- After a protocol exception the controller waits for 11 recessive bits (R332). -/
  waits : Bool
  /-- Ring entries in progress, oldest first. -/
  ring : List RingE
  /-- The matrix (R336, R337): a cycle has begun, its start, the next start and its index, windows opened in this cycle, gates that wait for the bus. -/
  started : Bool
  start : Nat
  next : Nat
  nextIdx : Nat
  opened : List Nat
  gates : List CanGate
deriving DecidableEq, Repr, Inhabited

end Sys2Proof.Machine
end

