-- ==== Sys2Proof/Config.lean ====
section
/-! DEFINITION. The values the manual leaves open. Each is opaque: nothing in Lean can evaluate it, so a statement holds
for every value of it. A state counter (`freeCnt`) picks a fresh one at each use. -/

namespace Sys2Proof

/-- The PUF root: the response of the SRAM PUF of this silicon, corrected with the helper data that the OTP holds (R66; DESIGN CHOICE, log
entry 31). -/
opaque Config.pufRoot : Nat → Nat

/-- The KDF key of the derivation of DUK, from PUF root and OTP_SEED (R66 names both and not how they go together; DESIGN CHOICE, log entry 31). -/
opaque Config.rootKey : Nat → Nat → Nat

/-- The bytes of a number in an input of the KDF of R66 or of a signature of R79, whose encodings the manual does not give, by its use: 0 the
KDF's counter, 1 its length, 2 a section table index, 3 a serial number, 4 a node number (DESIGN CHOICE, log entry 31). -/
opaque Config.numBytes : Nat → Nat → List Byte

/-- The labels of R66 that the manual does not spell: 0 DUK, 1 SAK_TDM, 2 the key under which SET_IMG_KEY sends K_IMG (DESIGN CHOICE, log
entry 31). -/
opaque Config.kdfLabel : Nat → List Byte

/-- The link label that the image gives backbone port `n`: it stands in no section that the manual lays out (R66; DESIGN CHOICE, log entry 31). -/
opaque Config.linkLabel : Nat → List Byte

/-- The bytes of a Provisioning request that its signature covers, by its place in the table of R72 and its contents (R71; DESIGN CHOICE, log entry 31). -/
opaque Config.requestBytes : Nat → List Nat → List Byte

/-- The bytes of a tandem frame by its fields and data, which R447 lays out no further than their number (DESIGN CHOICE, log entry 26). -/
opaque Config.tandemBytes : List Nat → List Byte → List Byte

/-- The 30 bytes of a network heartbeat's fields, and what its GMAC tag covers (R449; DESIGN CHOICE, log entry 26). -/
opaque Config.heartbeatBytes : List Nat → List Byte
opaque Config.heartbeatCover : List Nat → List Byte

/-- The IV of 96 bits of a frame: of a tandem frame by the sender's node number and its packet number (R77), and of a network heartbeat by the
sender's node number and COUNT (R449; DESIGN CHOICE, log entry 26). -/
opaque Config.tandemIv : Nat → Nat → Nat
opaque Config.heartbeatIv : Nat → Nat → Nat

/-- The n-th value the manual does not state (DESIGN CHOICE, log entry 9). -/
opaque Config.free : Nat → Nat

/-- Whether tininess of a floating-point result is detected before rounding (IEEE 754-2019 leaves it to the
implementation, and R157 does not say; DESIGN CHOICE, log entry 10). -/
opaque Config.tinyBeforeRounding : Bool

/-- Whether FCMP signals the invalid operation for a quiet NaN (IEEE 754-2019 has both comparisons, and R157 names neither; DESIGN CHOICE, log entry
10). -/
opaque Config.fcmpSignals : Bool

/-- Whether FMA of 0 × ∞ with a quiet NaN addend signals the invalid operation (IEEE 754-2019 7.2 leaves it open;
DESIGN CHOICE, log entry 10). -/
opaque Config.fmaInvalidOnQuiet : Bool

/-- The set of the second-level TLB that a translation belongs to, from its SPACE, page number and size (R99 gives 4 ways and no hash;
DESIGN CHOICE, log entry 9). -/
opaque Config.tlbSet : Nat → Nat → Bool → Nat

/-- The hash that gives an address and VID their bucket in the forwarding database (R244 gives none; DESIGN CHOICE, log entry 9). -/
opaque Config.fdbHash : Nat → Nat

/-- The rink to which a producer with a job word of its own but no rink field pushes, by its SRC code: SLM 0x50,
CAN controllers 0x40 and up, Blade groups 0x60 and up (R311, R344, R366 name none; DESIGN CHOICE, log entry 15). -/
opaque Config.jobRink : Nat → Nat

/-- How the words that a host request returns stand in its result block, by request code (R482 names the contents and no layout;
DESIGN CHOICE, log entry 9). -/
opaque Config.hostResult : Nat → List Nat → List Nat

/-- Whether the network of a personality carries a value of several bytes with its most significant byte first (R383 and R432 name the
network's order and state none; DESIGN CHOICE, log entry 20). -/
opaque Config.netBig : Nat → Bool

/-- The IPv4 address of a port, which the image gives at a place that R380 does not state (DESIGN CHOICE, log entry 9). -/
opaque Config.ipOf : Nat → BitVec 32

/-- The netmask, default gateway and VLAN of a port, and the multicast groups from which the device receives, which the image gives at places that R380
does not state (DESIGN CHOICE, log entry 9). -/
opaque Config.ipMask : Nat → BitVec 32
opaque Config.ipGateway : Nat → BitVec 32
opaque Config.ipVlan : Nat → Option (BitVec 12)
opaque Config.ipGroups : List (BitVec 32)

/-- The first word of the job that a personality pushes for a gateway station where the handler's is not given (R385 names none; DESIGN CHOICE, log
entry 9). -/
opaque Config.notifyWord : Nat → Nat

/-- What a station's configuration fixes at places that the manual does not state (DESIGN CHOICE, log entry 9): the configuration revision or version that
a reader expects (R400, R410), the working counter that a main device expects (R388), the reduction ratio (R390), the retry limit and the
diagnostic interval in nanoseconds (R398), the samples per second of a stream (R399), and the loss time in nanoseconds where its network
derives it from a timeout or interval of its own (R392, R404 to R410). -/
opaque Config.confRev : Nat → Nat
opaque Config.expectWkc : Nat → Nat
opaque Config.reduction : Nat → Nat
opaque Config.retryLimit : Nat → Nat
opaque Config.diagTime : Nat → Nat
opaque Config.sampleRate : Nat → Nat
opaque Config.lossTime : Nat → Nat

/-- The seconds of the origin that the own bytes of an IEC 61162 instance record give (R401 states no place; DESIGN CHOICE, log entry 9). -/
opaque Config.recOrigin : List Byte → Int

end Sys2Proof
end

