-- ==== Sys2Proof/Machine/Sha.lean ====
section
/-! DEFINITION. SHA-384 (FIPS 180-4), HMAC-SHA-384 (FIPS 198-1) and the counter-mode KDF of NIST SP 800-108 (R66). -/

namespace Sys2Proof.Machine

/-- A number from its rows of 512 bits, the first one most significant. -/
def bigNat (l : List Nat) : Nat := l.foldl (fun n w => n * 2 ^ 512 + w) 0

/-- The 80 round constants of FIPS 180-4, 64 bits each, the first one most significant. -/
def shaConst : Nat := bigNat
  [0x428A2F98D728AE227137449123EF65CDB5C0FBCFEC4D3B2FE9B5DBA58189DBBC3956C25BF348B53859F111F1B605D019923F82A4AF194F9BAB1C5ED5DA6D8118,
   0xD807AA98A303024212835B0145706FBE243185BE4EE4B28C550C7DC3D5FFB4E272BE5D74F27B896F80DEB1FE3B1696B19BDC06A725C71235C19BF174CF692694,
   0xE49B69C19EF14AD2EFBE4786384F25E30FC19DC68B8CD5B5240CA1CC77AC9C652DE92C6F592B02754A7484AA6EA6E4835CB0A9DCBD41FBD476F988DA831153B5,
   0x983E5152EE66DFABA831C66D2DB43210B00327C898FB213FBF597FC7BEEF0EE4C6E00BF33DA88FC2D5A79147930AA72506CA6351E003826F142929670A0E6E70,
   0x27B70A8546D22FFC2E1B21385C26C9264D2C6DFC5AC42AED53380D139D95B3DF650A73548BAF63DE766A0ABB3C77B2A881C2C92E47EDAEE692722C851482353B,
   0xA2BFE8A14CF10364A81A664BBC423001C24B8B70D0F89791C76C51A30654BE30D192E819D6EF5218D69906245565A910F40E35855771202A106AA07032BBD1B8,
   0x19A4C116B8D2D0C81E376C085141AB532748774CDF8EEB9934B0BCB5E19B48A8391C0CB3C5C95A634ED8AA4AE3418ACB5B9CCA4F7763E373682E6FF3D6B2B8A3,
   0x748F82EE5DEFB2FC78A5636F43172F6084C87814A1F0AB728CC702081A6439EC90BEFFFA23631E28A4506CEBDE82BDE9BEF9A3F7B2C67915C67178F2E372532B,
   0xCA273ECEEA26619CD186B8C721C0C207EADA7DD6CDE0EB1EF57D4F7FEE6ED17806F067AA72176FBA0A637DC5A2C898A6113F9804BEF90DAE1B710B35131C471B,
   0x28DB77F523047D8432CAAB7B40C724933C9EBE0A15C9BEBC431D67C49C100D4C4CC5D4BECB3E42B6597F299CFC657E2A5FCB6FAB3AD6FAEC6C44198C4A475817]

/-- The initial hash value of SHA-384, 64 bits each, the first word most significant. -/
def shaInit : Nat := bigNat
  [0xCBBB9D5DC1059ED8629A292A367CD5079159015A3070DD17152FECD8F70E593967332667FFC00B318EB44A8768581511DB0C2E0D64F98FA747B5481DBEFA4FA4]

/-- Word `i` of `n` words of 64 bits, the first one most significant. -/
def word64 (n i x : Nat) : Nat := x >>> (64 * (n - 1 - i)) % 2 ^ 64

/-- A rotation to the right by `n` of 64 bits. -/
def rotr64 (n x : Nat) : Nat := x >>> n ||| x <<< (64 - n) % 2 ^ 64

/-- The functions of FIPS 180-4 over 64-bit words: three rotations, or two and a shift. -/
def shaSigma (a b c x : Nat) : Nat := rotr64 a x ^^^ rotr64 b x ^^^ rotr64 c x
def shaMix (a b c x : Nat) : Nat := rotr64 a x ^^^ rotr64 b x ^^^ x >>> c

/-- The message schedule from its last 16 words on. -/
def shaWords : Nat → List Nat → List Nat
  | 0, _ => []
  | n + 1, w =>
    let next := (shaMix 19 61 6 (w.getD 14 0) + w.getD 9 0 + shaMix 1 8 7 (w.getD 1 0) + w.headD 0) % 2 ^ 64
    w.headD 0 :: shaWords n (w.drop 1 ++ [next])

/-- The eight working variables. -/
structure ShaVar where
  a : Nat
  b : Nat
  c : Nat
  d : Nat
  e : Nat
  f : Nat
  g : Nat
  h : Nat
deriving DecidableEq, Repr, Inhabited

/-- One round with its constant and word of the schedule. -/
def ShaVar.round (v : ShaVar) (k w : Nat) : ShaVar :=
  let t1 := v.h + shaSigma 14 18 41 v.e + (v.e &&& v.f ^^^ (2 ^ 64 - 1 - v.e) &&& v.g) + k + w
  let t2 := shaSigma 28 34 39 v.a + (v.a &&& v.b ^^^ v.a &&& v.c ^^^ v.b &&& v.c)
  ⟨(t1 + t2) % 2 ^ 64, v.a, v.b, v.c, (v.d + t1) % 2 ^ 64, v.e, v.f, v.g⟩

/-- The working variables from a hash value of eight words, and their sum with another set. -/
def ShaVar.ofNat (x : Nat) : ShaVar :=
  ⟨word64 8 0 x, word64 8 1 x, word64 8 2 x, word64 8 3 x, word64 8 4 x, word64 8 5 x, word64 8 6 x, word64 8 7 x⟩
def ShaVar.toNat (v : ShaVar) : Nat := [v.a, v.b, v.c, v.d, v.e, v.f, v.g, v.h].foldl (fun n w => n * 2 ^ 64 + w % 2 ^ 64) 0
def ShaVar.plus (v w : ShaVar) : ShaVar := ⟨v.a + w.a, v.b + w.b, v.c + w.c, v.d + w.d, v.e + w.e, v.f + w.f, v.g + w.g, v.h + w.h⟩

/-- One block of 128 bytes. -/
def shaBlock (x : Nat) (l : List Byte) : Nat :=
  let v := ShaVar.ofNat x
  let m := beVal l
  let w := shaWords 80 ((List.range 16).map fun i => word64 16 i m)
  ((w.zipIdx.foldl (fun v p => v.round (word64 80 p.2 shaConst) p.1) v).plus v).toNat

/-- `n` blocks. -/
def shaBlocks : Nat → List Byte → Nat → Nat
  | 0, _, x => x
  | n + 1, l, x => shaBlocks n (l.drop 128) (shaBlock x (l.take 128))

/-- A message with its padding and length. -/
def shaPad (l : List Byte) : List Byte :=
  l ++ 0x80#8 :: List.replicate ((239 - l.length % 128) % 128) 0#8 ++ beBytes 16 (8 * l.length)

/-- SHA-384: the first 48 bytes of the result. -/
def sha384 (l : List Byte) : Nat :=
  let m := shaPad l
  shaBlocks (m.length / 128) m shaInit >>> 128

/-- A key or a byte sequence of `n` bytes with each byte exclusive or `x`. -/
def xorAll (x : Nat) (l : List Byte) : List Byte := l.map (· ^^^ BitVec.ofNat 8 x)

/-- HMAC-SHA-384 with a key of at most 128 bytes. -/
def hmac384 (key msg : List Byte) : Nat :=
  let k := key ++ List.replicate (128 - key.length) 0#8
  sha384 (xorAll 0x5C k ++ beBytes 48 (sha384 (xorAll 0x36 k ++ msg)))

/-- The KDF of SP 800-108 in counter mode for a key of 256 bits, from a key of `len` bytes: one round, whose input is the counter 1, the label, a
zero byte, the context and the length in bits (R66). -/
def kdf384 (len key : Nat) (label context : List Byte) : Nat :=
  hmac384 (beBytes len key) (Config.numBytes 0 1 ++ label ++ 0#8 :: context ++ Config.numBytes 1 256) >>> 128

/-- A key derived from one of 256 bits. -/
def kdfKey (key : Nat) : List Byte → List Byte → Nat := kdf384 32 key

end Sys2Proof.Machine
end

