-- ==== Sys2Proof/Machine/Aes.lean ====
section
/-! DEFINITION. AES-256 (FIPS 197) and its Galois/counter mode (NIST SP 800-38D), by which the Vault wraps keys and decrypts sections and the
MACs protect frames (R66, R69, R72, R77, R229). -/

namespace Sys2Proof.Machine

/-- The S-box of FIPS 197, a byte for each input, the first one most significant. -/
def aesBox : Nat := bigNat
  [0x637C777BF26B6FC53001672BFED7AB76CA82C97DFA5947F0ADD4A2AF9CA472C0B7FD9326363FF7CC34A5E5F171D8311504C723C31896059A071280E2EB27B275,
   0x09832C1A1B6E5AA0523BD6B329E32F8453D100ED20FCB15B6ACBBE394A4C58CFD0EFAAFB434D338545F9027F503C9FA851A3408F929D38F5BCB6DA2110FFF3D2,
   0xCD0C13EC5F974417C4A77E3D645D197360814FDC222A908846EEB814DE5E0BDBE0323A0A4906245CC2D3AC629195E479E7C8376D8DD54EA96C56F4EA657AAE08,
   0xBA78252E1CA6B4C6E8DD741F4BBD8B8A703EB5664803F60E613557B986C11D9EE1F8981169D98E949B1E87E9CE5528DF8CA1890DBFE6426841992D0FB054BB16]

/-- The S-box at a byte. -/
def subByte (x : Nat) : Nat := aesBox >>> (8 * (255 - x)) % 256

/-- Multiplication by x in the field of FIPS 197. -/
def xtime (x : Nat) : Nat := if x < 128 then 2 * x else (2 * x) % 256 ^^^ 0x1B

/-- The key schedule from its last eight words on: `i` words stand, `n` more follow. -/
def aesWords : Nat → Nat → Nat → List (List Nat) → List (List Nat)
  | 0, _, _, _ => []
  | n + 1, i, rcon, w =>
    let last := w.getD 7 []
    let t := if i % 8 = 0 then match (last.drop 1 ++ last.take 1).map subByte with
        | a :: l => (a ^^^ rcon) :: l
        | [] => []
      else if i % 8 = 4 then last.map subByte else last
    let next := List.zipWith (· ^^^ ·) (w.headD []) t
    next :: aesWords n (i + 1) (if i % 8 = 0 then xtime rcon else rcon) (w.drop 1 ++ [next])

/-- The round keys of a 256-bit key: 15 of 16 bytes. -/
def aesKeys (key : Nat) : List (List Nat) :=
  let w := (List.range 8).map fun i => (beBytes 4 (key >>> (32 * (7 - i)))).map BitVec.toNat
  let all := w ++ aesWords 52 8 1 w
  (List.range 15).map fun r => (List.range 4).flatMap fun c => all.getD (4 * r + c) []

/-- SubBytes and ShiftRows. -/
def aesShift (st : List Nat) : List Nat := (List.range 16).map fun i => subByte (st.getD ((i + 4 * (i % 4)) % 16) 0)

/-- MixColumns. -/
def aesMix (st : List Nat) : List Nat :=
  (List.range 16).map fun i =>
    let at_ (k : Nat) : Nat := st.getD (i / 4 * 4 + (i + k) % 4) 0
    xtime (at_ 0) ^^^ xtime (at_ 1) ^^^ at_ 1 ^^^ at_ 2 ^^^ at_ 3

/-- The rounds with the round keys that are left; the last has no MixColumns. -/
def aesRounds : List (List Nat) → List Nat → List Nat
  | [], st => st
  | [k], st => List.zipWith (· ^^^ ·) (aesShift st) k
  | k :: t, st => aesRounds t (List.zipWith (· ^^^ ·) (aesMix (aesShift st)) k)

/-- AES-256 of a block of 16 bytes under expanded round keys, blocks as numbers with the first byte most significant. -/
def aesBlock (ks : List (List Nat)) (x : Nat) : Nat :=
  let st := List.zipWith (· ^^^ ·) ((beBytes 16 x).map BitVec.toNat) (ks.headD [])
  (aesRounds (ks.drop 1) st).foldl (fun n b => n * 256 + b) 0

/-- Multiplication in the field of GCM; bit 127 is the coefficient of 1. -/
def ghashMul : Nat → Nat → Nat → Nat → Nat
  | 0, _, _, z => z
  | i + 1, x, v, z =>
    ghashMul i x (if v.testBit 0 then v >>> 1 ^^^ 0xE1000000000000000000000000000000 else v >>> 1) (if x.testBit i then z ^^^ v else z)

/-- GHASH over `n` blocks. -/
def ghash (h : Nat) : Nat → List Byte → Nat → Nat
  | 0, _, y => y
  | n + 1, l, y => ghash h n (l.drop 16) (ghashMul 128 (y ^^^ beVal (l.take 16)) h 0)

/-- A byte sequence filled with zeros to whole blocks. -/
def fill16 (l : List Byte) : List Byte := l ++ List.replicate ((16 - l.length % 16) % 16) 0#8

/-- The key stream of counter mode exclusive or a text, from counter block `ctr` on, for `n` blocks. -/
def gcmStream (ks : List (List Nat)) : Nat → Nat → List Byte → List Byte
  | 0, _, _ => []
  | n + 1, ctr, l => List.zipWith (· ^^^ ·) (l.take 16) (beBytes 16 (aesBlock ks ctr)) ++ gcmStream ks n (ctr + 1) (l.drop 16)

/-- A text encrypted, or decrypted, with an IV of 96 bits. -/
def gcmCrypt (key iv : Nat) (l : List Byte) : List Byte := gcmStream (aesKeys key) ((l.length + 15) / 16) (iv * 2 ^ 32 + 2) l

/-- The tag over additional data and a ciphertext. -/
def gcmTag (key iv : Nat) (aad text : List Byte) : Nat :=
  let ks := aesKeys key
  let l := fill16 aad ++ fill16 text ++ beBytes 8 (8 * aad.length) ++ beBytes 8 (8 * text.length)
  (ghash (aesBlock ks 0) (l.length / 16) l 0 ^^^ aesBlock ks (iv * 2 ^ 32 + 1)) % 2 ^ 128

/-- What is behind an IV of 12 bytes and before a tag of 16, decrypted where the tag verifies (R51, R66). -/
def gcmOpen (key : Nat) (l : List Byte) : Option (List Byte) :=
  let iv := beVal (l.take 12)
  let text := (l.drop 12).take (l.length - 28)
  if 28 ≤ l.length ∧ gcmTag key iv [] text = beVal (l.drop (l.length - 16)) then some (gcmCrypt key iv text) else none

/-- A text between its IV and its tag. -/
def gcmSeal (key iv : Nat) (l : List Byte) : List Byte :=
  let text := gcmCrypt key iv l
  beBytes 12 iv ++ text ++ beBytes 16 (gcmTag key iv [] text)

end Sys2Proof.Machine
end

