-- ==== Sys2Proof/Machine/StPar.lean ====
section
/-! DEFINITION. State of the pairs unit beside its registers (16_pairs). -/

namespace Sys2Proof.Machine

/-- The fields of a heartbeat (R449). -/
structure Heartbeat where
  pairId : Nat
  node : Nat
  state : Nat
  rank : Bool
  sync : Nat
  unfit : Bool
  yield : Bool
  count : Nat
deriving DecidableEq, Repr, Inhabited

/-- A heartbeat as it is read from a frame: fields of the widths of R449. -/
def Heartbeat.asRead (h : Heartbeat) : Heartbeat :=
  { h with pairId := h.pairId % 2 ^ 16, node := h.node % 2 ^ 11, state := h.state % 4, sync := h.sync % 4, count := h.count % 2 ^ 64 }

/-- The fields have the widths of R449. -/
def Heartbeat.wellFormed (h : Heartbeat) : Bool :=
  h.pairId < 2 ^ 16 && h.node < 2 ^ 11 && h.state < 4 && h.sync < 4 && h.count < 2 ^ 64

/-- The fields of a heartbeat in the order of R449. -/
def Heartbeat.fields (h : Heartbeat) : List Nat := [h.pairId, h.node, h.state, b2n h.rank, h.sync, b2n h.unfit, b2n h.yield, h.count]

/-- The START frame (R446, R447): BUILD_ID, ROLLBACK, the first 16 bytes of the image's digest, the rank strap. -/
structure StartF where
  buildId : BitVec 64
  rollback : BitVec 32
  digest : BitVec 128
  rank : Bool
deriving DecidableEq, Repr, Inhabited

/-- Packet number and tag of a tandem frame (R77, R450). -/
structure TdmTag where
  pn : BitVec 64
  tag : BitVec 128
deriving DecidableEq, Repr, Inhabited

/-- The SEQ frame (R447): cycle count of COPY_TASK, SWC_RED sequence numbers 0 to 3, programs of the tasks in TASKS. -/
structure SeqF where
  cycle : Nat
  reds : List Nat
  codes : List (Nat × Nat)
deriving DecidableEq, Repr, Inhabited

/-- Frames of the copy (R447). -/
inductive CopyF where
  | seq (q : SeqF)
  | out (slot : Nat) (data : List Byte)
  | page (addr : Nat) (data : List Byte)
  | fin (frames : Nat)
deriving DecidableEq, Repr, Inhabited

/-- The bytes of a frame of the copy (R447). -/
def CopyF.bytes : CopyF → List Byte
  | .seq q => Config.tandemBytes (2 :: q.cycle :: q.reds ++ q.codes.flatMap fun c => [c.1, c.2]) []
  | .out n d => Config.tandemBytes [3, n] d
  | .page a d => Config.tandemBytes [4, a] d
  | .fin k => Config.tandemBytes [5, k] []

/-- The bytes of a heartbeat, and of a START frame with its sender's nonce. -/
def Heartbeat.tandem (h : Heartbeat) : List Byte := Config.tandemBytes (1 :: h.fields) []
def StartF.bytes (f : StartF) (nonce : Nat) : List Byte :=
  Config.tandemBytes [0, nonce, f.buildId.toNat, f.rollback.toNat, f.digest.toNat, b2n f.rank] []

/-- A frame as the tandem link carries it: the lanes on which it goes (bit l: lane 8 + l), packet number, what is encrypted, tag. -/
structure TdmFrame where
  lanes : Nat
  pn : Nat
  text : List Byte
  tag : Nat
deriving DecidableEq, Repr, Inhabited

/-- The pairs unit (R445 to R466). -/
structure ParSt where
  /-- COUNT of the own heartbeats and the heartbeat sent last; last COUNT accepted on the network path. -/
  count : Nat
  hbSent : Option Heartbeat
  netCount : Option Nat
  /-- SYNC in the partner's last valid heartbeat; its last tandem heartbeat showed SYNCED and UNFIT = 0. -/
  partnerSync : Nat
  tandemFit : Bool
  /-- A valid heartbeat has come since EN (R452). -/
  heard : Bool
  /-- YIELD follows from the END of the next copy; YIELD is set in the heartbeats; the standby takes over at the next T0 (R452, R453). -/
  yieldNext : Bool
  yielding : Bool
  /-- A heartbeat with YIELD has left on the tandem link (R452). -/
  yieldSent : Bool
  takeNext : Bool
  /-- The partner's START frame has authenticated at the last link start: without it the link is down (R77). -/
  linked : Bool
  /-- The images of the units differ (R446). -/
  imgDiffers : Bool
  /-- Packet number of the frame sent last and of the one taken last on the tandem link; the frames sent last, as the link carries them. -/
  txPn : Nat
  rxPn : Nat
  wire : List TdmFrame
  /-- Frames of the last copy that the active unit sent. -/
  sent : List CopyF
  /-- Number among the tracked pages at which the bulk transfer goes on (R456). -/
  bulk : Nat
  /-- The standby's window of the running cycle is open: the deadline of COPY_TASK has passed. -/
  window : Bool
  /-- The copy that arrives: its SEQ frame, slots received with their data, their commit done, END received, R461 applies, the
  window closed before its END. -/
  seq : Option SeqF
  outs : List (Nat × List Byte)
  outsDone : Bool
  ended : Bool
  progDiffers : Bool
  late : Bool
  /-- Pages that have arrived since SYNCING began (R460). -/
  arrived : List Nat
  /-- Tasks in TASKS whose run of this cycle ended in time (R458, R465). -/
  inTime : List Nat
  /-- For each IEC 62439-3 instance, the sequence number of the first frame of the cycle, and the frames that the standby's personalities have sent in it
  (R463); a take-over has rung the doorbell, and no personality has acted on it yet. -/
  seqBase : Tab Nat
  seqUsed : Tab Nat
  took : Bool
deriving DecidableEq, Repr, Inhabited

end Sys2Proof.Machine
end

