-- ==== Sys2Proof/Machine/StPers.lean ====
section
/-! DEFINITION. State that the firmware of the personalities holds (14_personalities). -/

namespace Sys2Proof.Machine

/-- An entry of the STATION section (R382). -/
structure Station where
  pers : Nat
  inst : Nat
  flags : Nat
  addr : Nat
  inLen : Nat
  outLen : Nat
  src : Nat
  inTask : Nat
  outTask : Nat
  lossUs : Nat
  param : Nat
deriving DecidableEq, Repr, Inhabited

/-- An instance record: the bytes 0x00 to 0x1F that are common to all personalities, and the 32 bytes behind them (R376). -/
structure InstRec where
  pers : Nat
  inst : Nat
  role : Nat
  flags : Nat
  port0 : Nat
  port1 : Nat
  blades : Nat
  eng : Nat
  rink : Nat
  tb : Nat
  task : Nat
  cycle : Nat
  cntBase : Nat
  addr : Nat
  own : List Byte
deriving DecidableEq, Repr, Inhabited

/-- What the ADDR and PARAM of a station name on its network (R387 to R409). -/
inductive Dest where
  /-- Type 12: configured station address, logical start address of the process data. -/
  | subdevice (addr start : Nat)
  /-- Type 10: frame identifier of the cyclic frame. -/
  | frameId (id : Nat)
  /-- Type 2: assembly instances for output and input. -/
  | assemblies (out inp : Nat)
  /-- Type 13: node number, multiplex slot with 0 for every cycle. -/
  | node (addr mux : Nat)
  /-- Type 15: unit identifier, function code, first register. -/
  | registers (unit fc first : Nat)
  /-- Type 3: slave address. -/
  | slave (addr : Nat)
  /-- IEC 61850: APPID, dataset size in members. -/
  | app (id members : Nat)
  /-- IEC 61162: talker, formatter. -/
  | sentence (talker formatter : Nat)
  /-- IEC 61162-3: lower half of the NAME, PGN. -/
  | nameGroup (name pgn : Nat)
  /-- CiA 301: COB-ID, whether FD frames carry the PDO. -/
  | pdo (cob : Nat) (fd : Bool)
  /-- SAE J1939: source address, PGN. -/
  | saeGroup (sa pgn : Nat)
  /-- IEC 62541-14: writer group, dataset writer. -/
  | dataset (group writer : Nat)
  | nowhere
deriving DecidableEq, Repr, Inhabited

/-- The tag block of a UdPbC datagram (R401): source, seconds, line count. -/
structure TagBlock where
  s : Nat
  c : Int
  n : Nat
deriving DecidableEq, Repr, Inhabited

/-- What a response table has a personality send (R388 to R410). -/
inductive Answer where
  /-- Type 10: the connection is aborted with an alarm (R390). -/
  | alarm
  /-- Type 2: connection closed; session closed and TCP connection reset; refusal with the general status (R392). -/
  | close | reset | refusal
  /-- Type 15: exception response 0x01 or 0x02 (R396). -/
  | exception
  /-- Type 3: the master retries (R398). -/
  | retry
  /-- An address claim; cannot-claim (R404, R408). -/
  | claim | cannotClaim
  /-- Abort of a transport protocol connection (R404, R408). -/
  | abort
  /-- CiA 301: error control procedure; SDO abort with its code (R406). -/
  | errorControl | sdoAbort
deriving DecidableEq, Repr, Inhabited

/-- How a gateway station expresses the quality of its source (R386): not at all, as provider status, in the run/idle header, as validity with
its detail, or as status code. -/
inductive Express where
  | plain
  | provider (good : Bool)
  | header (run : Bool)
  | validGood | questionableOld | invalid | substituted
  | statusGood | statusUncertain | statusBad
deriving DecidableEq, Repr, Inhabited

/-- What a personality has sent last: a station's data from its output slot or its source, under the own address, with the quality they express (R383,
R385, R386), as UdPbC datagram with its tag block (R401), a GOOSE message (R399); an ICMP echo reply, a TCP reset, the answer to a TCP connection
request, an ARP reply or request (R380, R381); the answer to a violation, or an address claim (R403, R407). -/
inductive PersTx where
  | data (station own : Nat) (dest : Dest) (data : List Byte) (quality : Express)
  | udpbc (station : Nat) (dest : Dest) (tag : TagBlock) (data : List Byte)
  | goose (station stNum sqNum : Nat) (data : List Byte) (quality : Express)
  | echo (datagram : List Byte)
  | rst (src dst srcPort dstPort : Nat)
  | synAck (src dst srcPort dstPort : Nat)
  | arp (port ip : Nat)
  | arpAsk (port ip : Nat)
  | answer (pers inst : Nat) (what : Answer) (arg : Nat)
deriving DecidableEq, Repr, Inhabited

/-- A violation of a partner as the handler finds it: the row of the personality's response table; a condition that the row leaves to the standard (the
protocol requires an abort, the NAME allows no other address, an address is not served, a poll or a frame got no answer in its cycle); what the
answer carries (abort code, general status, next free address, TCP connection). -/
structure Viol where
  row : Nat
  cond : Bool
  arg : Nat
deriving DecidableEq, Repr, Inhabited

/-- What the handler reads in a message beside its data, which the standards lay out: its counter (cycle counter, sequence count, stNum and sqNum,
smpCnt, line count, sequence number, working counter); its configuration (confRev and members, or configured version); how long it stays valid. -/
structure MsgInfo where
  seq : Nat × Nat
  conf : Nat × Nat
  ttl : Nat
deriving DecidableEq, Repr, Inhabited

/-- Where the data of a station's input and their capture timestamp come from (R39, R378, R383): the bytes from `off` on of the frame that a rink's port
holds at a cell; of the frame that passes a traverse port, whose job is loaded in a context of the engine; the data bytes of entries of a
receive ring; of a message that a Blade has delivered, as its last byte comes. -/
inductive PersSrc where
  | frame (cell off : Nat)
  | traverse (ctx off : Nat)
  | can (n : Nat) (entries : List Nat)
  | blade (raw : List Byte) (off : Nat)
deriving DecidableEq, Repr, Inhabited

/-- The limit of a record that a personality cannot meet (R376): one of the bytes whose place R376 gives, of the stations or of the device; or what the
personality's own bytes give: the speed of a line in baud (R395, R397, R401), a packet interval in microseconds (R391), frames per cycle and logical
mappings (R387), a reduction ratio and submodules (R389), cycles of a multiplexed slot (R393), ASDUs per frame and samples per second (R399). -/
inductive Limit where
  | stated
  | speed (baud : Nat)
  | interval (us : Nat)
  | frames (n : Nat)
  | mappings (n : Nat)
  | ratio (n : Nat)
  | submodules (n : Nat)
  | multiplex (n : Nat)
  | samples (asdus rate : Nat)
deriving DecidableEq, Repr, Inhabited

/-- What the firmware knows of a station's partner: when its last valid input came (extended nanoseconds of the instance's time base), the counter in
it, how long it stays valid, polls without an answer since, whether it has been reported lost (R384); the last transmit instant, and whether a
version of its source waits to be sent (R385). -/
structure Partner where
  heard : Int
  seq : Option (Nat × Nat)
  ttl : Nat
  misses : Nat
  lost : Bool
  mark : Option Int
  notified : Bool
deriving DecidableEq, Repr, Inhabited

/-- A TCP connection of the IPv4 service (R380): MAC, partner address, partner port, own port. -/
structure Conn where
  mac : Nat
  ip : Nat
  there : Nat
  here : Nat
deriving DecidableEq, Repr, Inhabited

/-- A GOOSE publication (R399): data sent last and their quality, stNum, sqNum, step of the retransmission, and the NS of its instance's time base at which the
next retransmission is due. -/
structure Pub where
  last : List Byte
  quality : Express
  stNum : Nat
  sqNum : Nat
  step : Nat
  due : Nat
deriving DecidableEq, Repr, Inhabited

/-- Under which source address a pair's personality has sent its last frame, and its sequence number on a standby (R463). -/
structure SentAs where
  source : Nat
  seq : Option Nat
deriving DecidableEq, Repr, Inhabited

/-- The personalities (R374 to R412). -/
structure PersSt where
  stations : Tab Station
  /-- The instance records of the image, in order (R376). -/
  insts : List InstRec
  /-- The partners of the stations. -/
  partners : Tab Partner
  sent : Option PersTx
  sentAs : Option SentAs
  /-- Records of personalities that the image does not load and that have been counted (R376). -/
  skipped : List Nat
  /-- Counters read whose write is still to come: master ID, address, new value (R377). -/
  counts : List (Nat × Nat × Nat)
  /-- Addresses that instances have claimed in place of their record's (R404, R408), by record. -/
  claimed : Tab (Option Nat)
  /-- Extended nanoseconds of each time base, the NS they were formed from, and the line count of each instance (R281, R401). -/
  ext : Tab Int
  extLast : Tab Nat
  lines : Tab Nat
  /-- The ARP table of the IPv4 service: address and MAC address (R380). -/
  arp : List (Nat × Nat)
  /-- Instances refused (R376) and instances that have stopped sending: personality code × 256 + instance. -/
  refused : List Nat
  silent : List Nat
  conns : List Conn
  pubs : Tab Pub
deriving DecidableEq, Repr, Inhabited

end Sys2Proof.Machine
end

