-- ==== Sys2Proof/Syntax.lean ====
section
/-! DEFINITION. The commands of the block: one constructor per row of the operation table. -/

namespace Sys2Proof

open Machine

/-- A command: an operation or event of the device, with what the outside world or the command's sender supplies. -/
inductive Instr where
  /-- A read of the low word of a 64-bit register returns it and latches the high word for the reading master. (R8) The offset counts
  from 0x10_0000_0000. -/
  | reg64LowRead (who : Agent) (off : BitVec 24)
  /-- A read of the high word returns and releases the master's latch, or the current high word when no latch is held. (R8) -/
  | reg64HighRead (who : Agent) (off : BitVec 24)
  /-- A write of the low word stages the value for the writing master without changing the register. (R8) -/
  | reg64LowWrite (who : Agent) (off : BitVec 24) (v : Word)
  /-- A write of the high word commits the staged low word, or the current low word, together with the new high word. (R8) -/
  | reg64HighWrite (who : Agent) (off : BitVec 24) (v : Word)
  /-- A write to a register that has no row of its own takes effect field by field as it reaches its block, under R6 to R12. (R63) A
  register with a row of its own does what that row says. -/
  | registerWrite (who : Agent) (off : BitVec 24) (v : Word)
  /-- A write to a _CNT counter clears it when the value is zero; any other value is refused and counted in MISUSE_CNT. (R13) -/
  | counterWrite (who : Agent) (off : BitVec 24) (v : Word)
  /-- An access to an unmapped physical address reads 0, writes nothing and increments SYS_DECODE_CNT. (R35) A write of `w`, or a read.
  -/
  | unmappedAccess (who : Agent) (pa : BitVec 40) (w : Option Word)
  /-- An access to the page of a block whose power domain is off reads 0, writes nothing and increments SYS_DOMAIN_OFF_CNT. (R22) A write
  of `w`, or a read. -/
  | domainOffAccess (who : Agent) (off : BitVec 24) (w : Option Word)
  /-- A supply ramp or brown-out of VDD_AON starts a POR of the whole device. (R490) -/
  | powerOnReset
  /-- RESET_N held low for 200 ns or longer starts a PIN reset of the whole device. (R490) -/
  | pinReset
  /-- A write of 0x0000_A5C3 to SYS_RESET.KEY by Patrol starts a SOFT reset of every domain but PD_AON. (R490) -/
  | softReset (who : Agent) (v : Word)
  /-- A write of SYS_RINK_RST by Patrol, or PD_RINKn switching on, resets rink n, drops its jobs and reloads its records and firmware.
  (R109) A bit of `fails` names an engine that fails the self-checks. A rink that PD_RINKn switches on is reset by DOMAIN_SWITCH_DONE. -/
  | rinkReset (who : Agent) (v : Word) (fails : BitVec 8)
  /-- The rink reset ends with READY = 1 when the rink passes, or with READY = 0 when it fails or a kept POLL times out. (R527) -/
  | rinkResetEnd (n : Fin 8) (timeout : Bool)
  /-- A write of 1 to MAC_CTRL.RESET starts a 1 µs PORT reset of one MAC. (R221) -/
  | portReset (who : Agent) (n : Fin 28)
  /-- After 1 µs the PORT reset of the MAC completes and RESET reads 0. (R221) -/
  | portResetEnd (n : Fin 28)
  /-- The end of a POR, PIN, WDOG or SOFT reset latches straps where due and starts the boot at phase 0. (R490) The operands are the
  levels of the BOOT_SEL and PAIR_RANK pins. -/
  | resetEnd (sel : Fin 4) (rank : Bool)
  /-- The Vault completes key derivation and sets VLT_STATUS.KEYS_READY, which lets phase 2 start. (R45) -/
  | keyDerivationDone
  /-- Boot phase 1 runs March C− over all banks, repairs them and maps out banks beyond repair. (R178) `fails` lists the failing cells of
  each bank. -/
  | marchCSelfTest (fails : List (Fin 256 × List (Fin 1024 × Fin 72)))
  /-- Boot phase 2 reads, authenticates, decrypts and checks an image, rejecting it with a cause code or falling back to the other image.
  (R49) The image is what the flash of the chip select holds. -/
  | imageRead (flash : Flash)
  /-- Boot phase 3 checks rinks, lanes and PHYs against the RESOURCE minimums and sets DEGRADED or rejects the image. (R58) A set bit
  names an engine, lane or PHY that fails. -/
  | resourceCheck (engFail : BitVec 64) (laneFail : BitVec 10) (phyFail : BitVec 8)
  /-- Boot phase 4 assigns banks to partitions, applies the DOMAIN section and computes the process image layout. (R168) -/
  | partitionApply
  /-- Boot phase 6 loads firmware, overlays, Pregaef programs and data sections and keeps the ENGINE_FW reload copies. (R55) -/
  | sectionLoad
  /-- Boot phase 7 applies the STATION, SLALOM, CANMATRIX, BLADE, SAFE, WINDOW and GRANT sections and lays out the process image. (R54)
  -/
  | sectionApply
  /-- Boot phase 9 releases the boot output hold, enters the target mode and starts the management firmware. (R46) The operand is
  BOOT_TIME. -/
  | bootRelease (us : BitVec 32)
  /-- A REGSEQ WRITE record writes VALUE to ADDR once the previous record's write has reached its block. (R59) The record is the boot's,
  or one kept for a rink in RINK reset. -/
  | regseqWrite (rink : Option (Fin 8))
  /-- A REGSEQ MODIFY record reads ADDR and writes the masked merge of the read value and VALUE. (R59) -/
  | regseqModify (rink : Option (Fin 8))
  /-- A REGSEQ POLL record reads ADDR until the masked value matches VALUE, for at most PARAM µs. (R59) One read of the POLL. -/
  | regseqPoll (rink : Option (Fin 8))
  /-- A REGSEQ DELAY record waits PARAM µs before the next record. (R59) PARAM microseconds are over. -/
  | regseqDelay (rink : Option (Fin 8))
  /-- A REGSEQ END record ends the section; later records are not read. (R59) -/
  | regseqEnd (rink : Option (Fin 8))
  /-- A POLL that reaches PARAM µs without a match stops the boot and enters Hold with RESULT = 4. (R62) -/
  | pollTimeout
  /-- A write of 1 to BOOT_CTRL.CONFIRM clears UNCONF and advances the OTP anti-rollback counter to the image's ROLLBACK. (R70) -/
  | bootConfirm (who : Agent)
  /-- The Vault returns a fresh ECDH P-384 public key for the next SET_IMG_KEY. (R72) `sig`: the signature over the request
  and the Vault's nonce, which counts in OWNED. -/
  | getEphemeral (sig : BitVec 768)
  /-- The Vault programs key slot n unless it is not empty. (R72) The slot, and its public key. -/
  | setKeySlot (sig : BitVec 768) (slot : Fin 4 × BitVec 768)
  /-- The Vault sets KEY_REVOKE bit n unless no unrevoked programmed slot would remain. (R72) -/
  | revokeSlot (sig : BitVec 768) (n : Fin 4)
  /-- The Vault unwraps K_IMG sent under the ephemeral key and programs OTP_WIMG, unless already programmed. (R72) The sender's public
  key, and K_IMG under the key that the two derive. -/
  | setImgKey (sig : BitVec 768) (sent : BitVec 768 × BitVec 480)
  /-- The Vault programs DEBUG_KEY unless already programmed. (R72) The signature, as for GET_EPHEMERAL, and the key. -/
  | setDebugKey (req : BitVec 768 × BitVec 768)
  /-- The Vault programs SENSOR_EN bits and TAMPER_LIMIT unless a programmed bit would be cleared. (R72) -/
  | setSensors (sig : BitVec 768) (en : BitVec 5) (limit : BitVec 6)
  /-- The Vault advances LIFECYCLE to OWNED when slot 0 and OTP_WIMG are programmed. (R72) -/
  | setOwned (sig : BitVec 768)
  /-- The Vault advances LIFECYCLE to SCRAPPED. (R72) -/
  | scrap (sig : BitVec 768)
  /-- The Vault issues a 32-byte nonce with the serial number for a debug challenge, unless 8 failures since POR have occurred. (R79) -/
  | debugChallenge
  /-- A debugger's signature by DEBUG_KEY opens debug, or increments VLT_DBG_FAIL_CNT on failure. (R79) `sig`: the signature over
  the nonce and the serial number. -/
  | debugResponse (sig : BitVec 768)
  /-- An enabled tamper sensor trips, latching the source, zeroising keys, asserting TAMP reset and starting the zero-fill of memories.
  (R81) A set bit names a sensor whose condition holds. -/
  | tamperResponse (src : BitVec 5)
  /-- The zero-fill of the tamper response completes and the device is in Lockdown. (R81) -/
  | lockdownEntry
  /-- One further TAMPER_COUNT bit is programmed 90 µs after the trip. (R531) -/
  | tamperCountProgram
  /-- At each tandem link start the units exchange nonces and the Vaults derive and install SAK_TDM. (R77) The partner's nonce and its START
  frame, protected under its SAK_TDM. -/
  | tandemLinkStart (nonce : BitVec 256) (f : StartF) (t : TdmTag)
  /-- The Vault installs a MACsec SAK into the key slot of a backbone MAC at the firmware's request. (R78) -/
  | sakInstall (n an : Fin 4)
  /-- A paired word reads all operands, translates both halves and executes its two short operations first half first. (R122) -/
  | pairedWord (who : CtxId)
  /-- An illegal word executes as a no-operation, records SKZ_ILLEGAL_PC and increments SKZ_ILLEGAL_CNT. (R152) -/
  | illegalWord (who : CtxId)
  /-- A long ALU operation computes rd from ra and rb by FUNC, writing non-compare flags only with S = 1. (R132) -/
  | alu (who : CtxId)
  /-- rd takes ra + IMM15, or in the short form rd + signed IMM6. (R131) The short form takes place in PAIRED_WORD. -/
  | addi (who : CtxId)
  /-- rd takes ra AND the zero-extended IMM15, or rd AND IMM6 in the short form. (R131) The short form takes place in PAIRED_WORD. -/
  | andi (who : CtxId)
  /-- rd takes ra OR the zero-extended IMM15. (R131) -/
  | ori (who : CtxId)
  /-- rd takes ra XOR the zero-extended IMM15. (R131) -/
  | xori (who : CtxId)
  /-- Flags are set from ra − IMM15, or rd − IMM6 in the short form. (R131) The short form takes place in PAIRED_WORD. -/
  | cmpi (who : CtxId)
  /-- ra is shifted or rotated by an immediate amount of the KIND given in IMM15. (R134) -/
  | shifti (who : CtxId)
  /-- rd takes IMM20 shifted left by 12. (R133) -/
  | lui (who : CtxId)
  /-- rd takes the low 32 bits of ra × IMM15. (R131) -/
  | muli (who : CtxId)
  /-- Signed division writes the quotient to rd and the remainder to w(rd + 1), with fl.DZ on a zero divisor. (R135) -/
  | dvs (who : CtxId)
  /-- Unsigned division writes the quotient and remainder, with fl.DZ on a zero divisor. (R135) -/
  | dvu (who : CtxId)
  /-- rt, or rt and w(rt + 1), take memory at base + DISP12. (R136) -/
  | load (who : CtxId)
  /-- Memory at base + DISP12 takes rt, or rt and w(rt + 1). (R136) -/
  | store (who : CtxId)
  /-- A load at the base address updates the base by MODE. (R136) -/
  | loadm (who : CtxId)
  /-- A store at the base address updates the base by MODE. (R136) -/
  | storem (who : CtxId)
  /-- The data or error of a stalled shared-memory or register load returns, completing or faulting the word. (R103) -/
  | loadDataReturn (who : CtxId)
  /-- A buffered store leaves through the rink's master port and is acknowledged by its bank. (R121) The oldest buffered store of the
  context leaves. -/
  | storeBufferDrain (who : CtxId)
  /-- The context branches to PC + OFF14 when COND holds. (R137) -/
  | bc (who : CtxId)
  /-- rd takes the next word index and the context jumps to PC + OFF14. (R137) -/
  | jal (who : CtxId)
  /-- The context jumps to ra[13:0], or ra[18:0] on Patrol. (R137) -/
  | jr (who : CtxId)
  /-- ra is decremented and the context branches when the result is not 0. (R137) -/
  | dbnz (who : CtxId)
  /-- The context arms the events of MASK and leaves RUN for IDLE or WAIT, or returns at once when an armed event is pending. (R147) -/
  | waitev (who : CtxId)
  /-- An armed event wakes a waiting or idle context, which resumes after WAITEV with the pending events in rd. (R147) -/
  | eventWake (who : CtxId)
  /-- rd takes the engine control register INDEX. (R150) -/
  | rdcr (who : CtxId)
  /-- The engine control register INDEX takes ra, with the register's own effects such as a SOFT latch or timer target. (R150) -/
  | wrcr (who : CtxId)
  /-- rd takes the five flags. (R139) -/
  | mffl (who : CtxId)
  /-- The five flags take ra[4:0], which alone can clear fl.DZ. (R139) -/
  | mtfl (who : CtxId)
  /-- The context is not ready until every store of the engine has been acknowledged. (R121) -/
  | fence (who : CtxId)
  /-- The engine's round-robin pointer moves past this context. (R139) As every word that issues does (R88). -/
  | yield (who : CtxId)
  /-- A Patrol context sets its SPACE and invalidates its micro-TLB. (R153) -/
  | setspace (who : CtxId)
  /-- The CRC polynomial and configuration are set. (R155) -/
  | crcCfg (who : CtxId)
  /-- The CRC accumulator is set. (R155) -/
  | crcSet (who : CtxId)
  /-- rd takes the CRC accumulator, reflected when REFOUT = 1. (R155) -/
  | crcGet (who : CtxId)
  /-- The accumulator processes one byte. (R155) -/
  | crcUb (who : CtxId)
  /-- The accumulator processes two bytes. (R155) -/
  | crcUh (who : CtxId)
  /-- The accumulator processes four bytes. (R155) -/
  | crcUw (who : CtxId)
  /-- The bit stuffer's run length, mode and direction are set and its buffer emptied. (R155) -/
  | stfCfg (who : CtxId)
  /-- Bits are fed through the stuffer or destuffer into its buffer, with destuff violations flagged. (R155) -/
  | stfPut (who : CtxId)
  /-- n bits are taken from the stuffer buffer when enough are held. (R155) -/
  | stfGet (who : CtxId)
  /-- rd takes the number of bits held. (R155) -/
  | stfCnt (who : CtxId)
  /-- The context binds to a control task and loads its code pointer, stack pointer and handler base from CTL. (R156) -/
  | pgfBind (who : CtxId)
  /-- The next Pregaef instruction is decoded and the context jumps to its handler, or the run ends when CTL has raised STOP. (R156) With
  the first instruction of a run TT advances, and on the first run after an exchange state migrates (R437, R441). -/
  | pgfNext (who : CtxId)
  /-- rd takes the top of the Pregaef stack, which is popped. (R156) -/
  | pgfPop (who : CtxId)
  /-- ra is pushed onto the Pregaef stack. (R156) -/
  | pgfPush (who : CtxId)
  /-- A 64-bit value is popped into rd and w(rd + 1). (R156) -/
  | pgfPop2 (who : CtxId)
  /-- ra and w(ra + 1) are pushed as a 64-bit value. (R156) -/
  | pgfPush2 (who : CtxId)
  /-- The Pregaef code pointer takes ra. (R156) -/
  | pgfJmp (who : CtxId)
  /-- The task's run ends for this cycle and its report reaches CTL after the slot writes. (R427) It waits until the stores of the
  context have left (R27). -/
  | pgfEnd (who : CtxId)
  /-- Floating-point addition. (R157) -/
  | fadd (who : CtxId)
  /-- Floating-point subtraction. (R157) -/
  | fsub (who : CtxId)
  /-- Floating-point multiplication. (R157) -/
  | fmul (who : CtxId)
  /-- Floating-point division. (R157) -/
  | fdiv (who : CtxId)
  /-- Floating-point square root. (R157) -/
  | fsqrt (who : CtxId)
  /-- Floating-point minimumNumber. (R157) -/
  | fmin (who : CtxId)
  /-- Floating-point maximumNumber. (R157) -/
  | fmax (who : CtxId)
  /-- Fused multiply-add rounded once. (R157) -/
  | fma (who : CtxId)
  /-- Floating-point comparison that writes fl.Z, fl.N, fl.C and fl.V. (R157) -/
  | fcmp (who : CtxId)
  /-- The sign bit is cleared. (R157) -/
  | fabs (who : CtxId)
  /-- The sign bit is inverted. (R157) -/
  | fneg (who : CtxId)
  /-- Conversion to a signed 32-bit integer, saturating. (R157) -/
  | fcvtW (who : CtxId)
  /-- Conversion to an unsigned 32-bit integer, saturating. (R157) -/
  | fcvtWu (who : CtxId)
  /-- Conversion from a signed integer. (R157) -/
  | fcvtFw (who : CtxId)
  /-- Conversion from an unsigned integer. (R157) -/
  | fcvtFwu (who : CtxId)
  /-- Conversion between binary32 and binary64. (R157) -/
  | fcvtX (who : CtxId)
  /-- A context's enabled timer reaches its target on the rink's copy of the time base and latches TIMER. (R149) -/
  | timerExpiry (who : CtxId)
  /-- A write of RNK_PUSH word 7 commits the staged descriptor to the target engine's queue through the job router, or is refused. (R90)
  The window is that of rink `n`. -/
  | pushCommit (who : Agent) (n : Fin 8) (v : Word)
  /-- A hardware push that waited at a full queue enters it when an entry frees, incrementing RNK_QWAIT_CNT. (R90) -/
  | queueRoomPush (e : Fin 64)
  /-- An idle context takes the highest-priority oldest acceptable job from its own queue and loads its descriptor. (R92) Engine 64 is
  Patrol with its stealable queue. -/
  | jobTake (e : Fin 65)
  /-- An idle context takes the oldest stealable acceptable job from another engine of its rink. (R93) -/
  | localSteal (who : Fin 256)
  /-- The steal window of an idle context expires and cross-rink and Patrol stealing may begin. (R93) -/
  | stealWindowExpiry (who : Fin 256)
  /-- A steal request reaches the victim rink, which answers with its oldest matching stealable job or an empty reply. (R94) -/
  | stealRequest (who : Fin 256)
  /-- A steal reply reaches the thief: the context takes the job, the job joins the engine's queue, or the miss is counted. (R94) -/
  | stealReply (who : Fin 256)
  /-- A steal request reaches Patrol's stealable queue, which answers with its oldest matching job or an empty reply. (R95) -/
  | patrolStealRequest (who : Fin 256)
  /-- A write of RESUME to RNK_CTX_CTRL re-executes the faulting word of a FAULTED context. (R104) For a context of Patrol the register
  is PAT_CTX_CTRL (R471). -/
  | contextResume (who : Agent) (c : CtxId)
  /-- A write of ABORT to RNK_CTX_CTRL abandons the job of a FAULTED context and aborts its lifts. (R87) For a context of Patrol the
  register is PAT_CTX_CTRL (R471). -/
  | contextAbort (who : Agent) (c : CtxId)
  /-- An uncorrectable local-memory error or a write of OFFLINE stops an engine's contexts and moves or discards its jobs. (R108)
  A correctable memory error is counted. -/
  | engineOffline (by_ : EngineLoss) (n e : Fin 8)
  /-- A TLB miss starts a page-table walk through the rink's master port. (R99) -/
  | tableWalk (who : CtxId)
  /-- A walk completes, filling the TLBs or raising a translation fault for the access it served. (R99) -/
  | walkComplete (who : CtxId)
  /-- A write to RNK_TLB_INV removes selected translations from the rink's TLBs and discards earlier walks. (R101) -/
  | tlbInvalidate (who : Agent) (n : Fin 8) (v : Word)
  /-- INV_BUSY falls once the translations are gone and every earlier walk has ended. (R101) -/
  | tlbInvalidateDone (n : Fin 8)
  /-- A bank arbiter grants one word access, correcting or reporting ECC errors. (R158) The word number counts over all banks. `upset`:
  0, 1, 2 or more bits of the word have been struck; the masks name the ports that wait, those of them that the same clock has counted at another bank (R163),
  and those that count in the second clock. -/
  | bankGrant (mid : BitVec 8) (w : BitVec 24) (op : BankOp) (upset : Fin 4) (waits : BitVec 15 × BitVec 15) (waits2 : BitVec 15)
  /-- A write of PWR_BANK_REQ requests a bank power transition under R164, or is refused. (R495) -/
  | bankRequest (who : Agent) (v : Word)
  /-- A bank completes its transition to retention, on, off or zero-filled on. (R164) -/
  | bankStateChangeDone (b : Fin 256)
  /-- A write of the high word of LFT_DESC starts an idle lift and records its owner, or is refused. (R171) -/
  | liftStart (who : Agent) (l : Fin 40) (v : Word)
  /-- A lift fetches a descriptor, faulting on an uncorrectable error or an illegal descriptor. (R175) -/
  | liftDescriptorFetch (l : Fin 40)
  /-- A lift translates, reads and writes one block up to a 64-byte destination boundary. (R173) -/
  | liftBlock (l : Fin 40)
  /-- After its last writes are acknowledged, a lift becomes idle, sets DONE and rings its doorbell. (R174) -/
  | liftChainDone (l : Fin 40)
  /-- A write of RESUME refetches the current descriptor of a faulted lift and continues from LFT_PROG. (R176) -/
  | liftResume (who : Agent) (l : Fin 40)
  /-- A write of ABORT stops a faulted or running lift at the end of the block in progress. (R176) -/
  | liftAbort (who : Agent) (l : Fin 40)
  /-- A GRM_CMD with TEST = 1 tests a reserve bank whole, repairs or maps it out and zero-fills it. (R182) The test ends with
  GROOMER_COMMAND_DONE. -/
  | destructiveMarchSs (who : Agent) (b : Fin 256)
  /-- A GRM_CMD with TEST = 2 starts a row-by-row test that keeps the bank's contents. (R183) -/
  | preservingMarchSs (who : Agent) (b : Fin 256)
  /-- The Groomer parks, tests and restores one row, repairing it with a spare row when it fails. (R183) Whether it fails,
  and the ports that count for each clock of the row lock in which some wait (R163). -/
  | groomerRow (row : Bool × List (BitVec 15))
  /-- A Groomer command ends, sets RESULT, clears BUSY and rings its doorbell. (R185) The failing cells of a destructive test. -/
  | groomerCommandDone (fails : List (Fin 1024 × Fin 72))
  /-- Every STEP + 1 fabric clocks the Groomer reads the next word of a bank that is on and writes back a corrected word. (R186) Operands
  as for BANK_GRANT. -/
  | scrubRead (upset : Fin 4) (waits : BitVec 15 × BitVec 15) (waits2 : BitVec 15)
  /-- A write of the low word of MBX_NOTICE stages it for the master ID and context. (R192) -/
  | noticeLowWrite (who : Agent) (m : Fin 256) (v : Word)
  /-- A write of the high word of MBX_NOTICE commits a notice to the mailbox, or is refused as full or with LEN 0. (R192) -/
  | postCommit (who : Agent) (m : Fin 256) (v : Word)
  /-- The receiver's read of the low word returns it and makes a snapshot of the notice. (R194) -/
  | noticeSnapshot (who : Agent) (m : Fin 256)
  /-- The receiver's read of the high word takes the snapshotted notice, clears FULL and rings the TAKEN doorbell. (R194) -/
  | noticeTake (who : Agent) (m : Fin 256)
  /-- A write of MBX_FLUSH by Patrol discards the notice in a mailbox. (R198) -/
  | mailboxFlush (who : Agent) (m : Fin 256)
  /-- A write to MBX_DB_SET, or a hardware ring, sets doorbell bits and counts coalesced rings. (R199) Hardware rings take place within
  the rows that cause them. -/
  | doorbellSet (who : Agent) (t : Fin 32) (v : Word)
  /-- A write to MBX_DB clears doorbell bits. (R199) -/
  | doorbellClear (who : Agent) (t : Fin 32) (v : Word)
  /-- Unmasking a vector sends its pending message or clears a pending bit whose condition is false. (R479) Without a vector: the
  function mask. -/
  | msixUnmask (v : Option (Fin 32))
  /-- A read of MBX_LOCK takes a free lock for the reader or returns the owner with bit 31 set. (R201) -/
  | lockAcquire (who : Agent) (n : Fin 256)
  /-- A write of 0 by the owner frees the lock; any other write is ignored and counted. (R203) -/
  | lockRelease (who : Agent) (n : Fin 256) (v : Word)
  /-- A write of MBX_LOCK_FORCE by Patrol frees a held lock. (R204) -/
  | lockForce (who : Agent) (n : Fin 256)
  /-- A MAC receives a frame, stamps it, checks length and FCS, and the switch core delivers, filters and forwards it. (R211) The bytes
  from the destination address to the FCS; `cut`: lost link or a code error ends it; SecTAG and ICV stand beside them; how long ago, in
  2^-8 ns, its reference point passed; nanoseconds since the stream's meter was last looked at. -/
  | frameReceive (n : Fin 28) (f : List Byte) (cut : Bool) (sec : Option SecRx) (ago gap : BitVec 32)
  /-- A received EtherType 0x8808 frame is consumed and, with RX_EN, a PAUSE or PFC is honoured. (R217) -/
  | macControlFrame (n : Fin 28) (f : List Byte) (ago : BitVec 32)
  /-- The pause time of a port or class runs out and data frames resume. (R218) Of the port, or of a class. -/
  | pauseExpiry (n : Fin 28) (c : Option (Fin 8))
  /-- Every REFRESH quanta while an assertion holds, the MAC repeats its PAUSE or PFC frame. (R219) -/
  | pauseRefresh (n : Fin 28)
  /-- The switch core selects the highest eligible class's oldest copy for the next start of a MAC. (R259) Nanoseconds until the start,
  and since the credits were last looked at. -/
  | egressSelection (n : Fin 28) (lead dt : BitVec 32)
  /-- A MAC starts transmitting a selected copy it holds whole, stamping its egress and correcting PTP residence. (R216) `late`: the copy
  is not held whole by its start. -/
  | frameTransmit (n : Fin 28) (late : Bool) (dt : BitVec 32)
  /-- The last byte of a copy leaves the MAC, ending the copy and freeing the cells after the last copy. (R241) -/
  | frameTransmitDone (n : Fin 28) (dt : BitVec 32)
  /-- MAC_STATUS.LINK changes, counting and ringing the link doorbell. (R220) The speed negotiated and what a 10BASE-T1L PHY reports. -/
  | linkChange (n : Fin 28) (up : Bool) (speed : Fin 8) (t : TphyLine)
  /-- A SerDes lane gains or loses LOCK or SYNC. (R448) -/
  | laneLockChange (l : Fin 10) (lock sync an : Bool) (errs : BitVec 32)
  /-- A write of TPHY_CTRL.RESTART restarts negotiation and training of a 10BASE-T1L PHY. (R236) -/
  | tphyRestart (who : Agent) (k : Fin 8)
  /-- A frame received on a traverse-bound port passes byte by byte through the engine's ring to the other port, with a job pushed at its
  SFD. (R223) What happens there next, in this order: its SFD, `sfd` × 2^-8 ns ago; bytes `rx` arrive in the ring; k bytes are sampled; the
  frame `ends`, whole or `cut` short by link loss or a code error. -/
  | traverseFrame (n : Fin 28) (sfd : Option (BitVec 32)) (rx : List Byte) (k : BitVec 12) (ends cut : Bool)
  /-- A MAC whose link stays down for DOWN_FLUSH_MS has every queued copy ended. (R246) -/
  | downFlush (n : Fin 28)
  /-- A dynamic FDB entry not relearned for AGE_S to 2 × AGE_S seconds is removed. (R244) The entry of this index. -/
  | fdbAging (i : BitVec 15)
  /-- A redundancy duplicate-table entry is forgotten after FORGET_MS. (R266) -/
  | dupEntryForget (r : Fin 4) (src : BitVec 48) (seq : BitVec 16)
  /-- A stream's vector recovery is reset after CB_RESET_MS without a frame. (R265) The stream of this index. -/
  | seqRecoveryReset (k : BitVec 10)
  /-- SWC_TBL_CMD OP 0 reads a table entry by index. (R245) -/
  | tblRead (who : Agent) (v : Word)
  /-- SWC_TBL_CMD OP 1 writes a table entry by index. (R245) -/
  | tblWrite (who : Agent) (v : Word)
  /-- SWC_TBL_CMD OP 2 looks up an FDB or stream entry by key. (R245) -/
  | tblLookup (who : Agent) (v : Word)
  /-- SWC_TBL_CMD OP 3 inserts an FDB or stream entry by key. (R245) -/
  | tblInsert (who : Agent) (v : Word)
  /-- SWC_TBL_CMD OP 4 deletes an FDB or stream entry by key. (R245) -/
  | tblDelete (who : Agent) (v : Word)
  /-- A table command completes, clears BUSY and sets RESULT. (R245) -/
  | tblDone
  /-- A copy for an internal port is delivered as a job push to a rink, or as a notice to Patrol or the host, when room allows. (R248)
  Internal port 28 + p: rinks 0 to 7, Patrol, host. -/
  | copyDelivery (p : Fin 10) (cls : Fin 8)
  /-- A write to SWC_FREE releases a copy held by the writer's internal port. (R248) -/
  | copyRelease (who : Agent) (v : Word)
  /-- A write of SWC_INJ word 3 commits an injection descriptor to the port's queue, or is refused. (R250) -/
  | injectCommit (who : Agent) (v : Word)
  /-- When credit allows, the core takes the next injection descriptor, reads the source and enqueues the frame. (R254) Internal port 28
  + p; the gap as for FRAME_RECEIVE. -/
  | injectionStart (p : Fin 10) (gap : BitVec 32)
  /-- A gate control list cycle starts, or past starts are skipped and counted. (R260) -/
  | gclCycleStart (n : Fin 28)
  /-- A gate list entry's interval ends and the next entry's gates apply. (R260) -/
  | gclEntryChange (n : Fin 28)
  /-- A write of SWC_GCL_SW arms a switch to the other gate list bank. (R262) -/
  | gclSwitchArm (who : Agent) (n : Fin 28) (v : Word)
  /-- At the first start of the armed bank's cycles after the running cycle, OPER_BANK changes and PENDING clears. (R262) -/
  | gclSwitch (n : Fin 28)
  /-- A tick carries a time base's NS from 0xFFFF_FFFF to 0 and raises WRAP. (R280) A tick that does not carry is what a step on the
  empty queue makes (log entry 1). -/
  | tbWrap (n : Fin 4)
  /-- A write of the high word of TMU_TB sets the time base to the staged value. (R279) -/
  | tbSet (who : Agent) (n : Fin 4) (v : Word)
  /-- A write of the high word of TMU_TB_STEP steps the time base by the signed value. (R279) -/
  | tbStep (who : Agent) (n : Fin 4) (v : Word)
  /-- A read of the low word of TMU_TB returns NS and latches FRAC of the same tick. (R278) -/
  | tbRead (who : Agent) (n : Fin 4)
  /-- A set, step or INCR change reaches a time base copy after the crossing. (R283) Islands 0 to 7 are the rinks, 8 the switch, 9 the
  Blades, 10 the CAN kernel. -/
  | tbCopyUpdate (isl : Fin 11) (n : Fin 4)
  /-- A write of TMU_TB_OFS gives the servo one engine sample, or is refused. (R284) -/
  | offsetSample (who : Agent) (n : Fin 4) (v : Word)
  /-- The servo handles a sample by stepping, discarding it, or updating INCR and its state. (R285) θ in 2^-8 ns from a source of R284.
  -/
  | servoSample (n : Fin 4) (src : Fin 8) (theta : BitVec 40)
  /-- No accepted sample for HOLD_MS moves the servo into HOLDOVER. (R529) -/
  | holdTimeout (n : Fin 4)
  /-- An edge on a time input is captured into its queue and may serve as a PPS servo sample. (R296) The edge and the length of its pulse
  in ticks. -/
  | timeInputEdge (k : Fin 4) (rise : Bool) (width : BitVec 32)
  /-- A window of 1,000,000 periods of TP_REF10 ends and yields a sample for time bases with SRC = 4. (R299) -/
  | ref10WindowEnd
  /-- A time output's edge target is reached and the edge leaves the TMU, or passed targets are skipped. (R297) -/
  | timeOutputEdge (j : Fin 4)
  /-- A read of the low word of TMU_TXTS removes the oldest transmit time-stamp entry. (R291) -/
  | txtsRead (who : Agent) (n : Fin 28)
  /-- A read of the low word of TMU_EVT removes the oldest capture of a time input. (R296) -/
  | evtRead (who : Agent) (k : Fin 4)
  /-- A write of SLM_CFG.EN = 1 moves the SLM from OFF to LISTEN and starts the listen timer. (R315) A write of SLM_CFG with EN = 1. -/
  | slmEnable (who : Agent) (v : Word)
  /-- A write of EN = 0 moves the SLM to OFF, stopping own gates and forwarding. (R315) A write of SLM_CFG with EN = 0. -/
  | slmDisable (who : Agent) (v : Word)
  /-- The listen timer expires and the SLM coldstarts or restarts the timer with a new attempt. (R316) -/
  | listenTimeout
  /-- A Slalom cycle starts on the SLM's copy of the time base, applying an armed schedule switch. (R304) -/
  | slalomCycleStart
  /-- A write of SLM_SW arms a schedule bank switch at AT_CYCLE, or is refused. (R323) -/
  | scheduleSwitchArm (who : Agent) (v : Word)
  /-- 1 µs before an own gate the SLM picks up the output slot or decoupling buffer to send. (R305) -/
  | gatePickup (g : Fin 256)
  /-- An own Slalom frame, data or null, leaves on each ring port at its offset. (R305) On PORT_A, or on PORT_B. -/
  | gateSend (g : Fin 256) (dir : Bool)
  /-- A claimed Slalom frame is checked against the schedule and window, forwarded, and delivered when accepted. (R310) Operands as for
  FRAME_RECEIVE. -/
  | slalomFrameReceive (n : Fin 28) (f : List Byte) (sec : Option SecRx) (ago : BitVec 32)
  /-- At the sync point the SLM forms θ from fault-tolerant deviations, feeds the servo and judges validity and muting. (R313) -/
  | syncPoint
  /-- SLM_DCB_CMD COMMIT swaps WBUF and NBUF and sets NEW and VALID. (R307) -/
  | dcbCommit (who : Agent) (i : Fin 256)
  /-- SLM_DCB_CMD TAKE swaps RBUF and NBUF and clears NEW when NEW is 1. (R307) -/
  | dcbTake (who : Agent) (i : Fin 256)
  /-- A write of CAN_CFG.EN = 1 puts the controller into INTEGRATING. (R331) A write of CAN_CFG with EN = 1. -/
  | canEnable (who : Agent) (n : Fin 8) (v : Word)
  /-- A write of EN = 0 lets the current frame complete and stops the controller. (R331) A write of CAN_CFG with EN = 0. -/
  | canDisable (who : Agent) (n : Fin 8) (v : Word)
  /-- After 11 consecutive recessive bits the controller becomes error-active or error-passive. (R331) -/
  | canIntegrationDone (n : Fin 8)
  /-- A write of 1 to a CAN_TXREQ bit requests a transmit buffer, or is refused. (R334) Word k holds buffers 32k to 32k + 31. -/
  | txRequest (who : Agent) (n : Fin 8) (k : Fin 2) (v : Word)
  /-- A write of 1 to a CAN_TXCANCEL bit clears a pending request that has not started. (R334) -/
  | txCancel (who : Agent) (n : Fin 8) (k : Fin 2) (v : Word)
  /-- A transmit attempt ends sent, with arbitration lost or with an error, updating RESULT and the request. (R335) The SOF leaves, or
  how the attempt ends on the bus. -/
  | canFrameTransmit (n : Fin 8) (o : CanOut)
  /-- A CAN frame received without error is stamped and written to the receive ring, or counted as overflow. (R343) `sof`: the SOF edge
  of frame f; else f as it ends. -/
  | canFrameReceive (n : Fin 8) (f : CanFrame) (sof : Bool)
  /-- After a ring entry is acknowledged, WR advances, the doorbell rings and a job is pushed. (R344) -/
  | ringEntryWrite (n : Fin 8)
  /-- Enabling the CAN ring makes lift 39 the ring writer; disabling it on every controller frees the lift. (R342) A write of
  CAN_RING_CFG. -/
  | ringEnable (who : Agent) (n : Fin 8) (v : Word)
  /-- A detected bus error updates TEC and REC, counts the error and may change the error state. (R345) As transmitter or receiver;
  `special`: an exception of ISO 11898-1 applies. -/
  | canError (n : Fin 8) (k : CanErr) (tx : Bool) (special : Bool × Bool)
  /-- A write of CAN_CTRL.RECOVER in bus-off starts recovery. (R346) -/
  | busOffRecover (who : Agent) (n : Fin 8)
  /-- At the 128th sequence of 11 recessive bits the controller becomes error-active with TEC = REC = 0. (R346) -/
  | recoveryDone (n : Fin 8)
  /-- A schedule-matrix basic cycle starts, or starts passed by a forward step are skipped. (R337) -/
  | basicCycleStart (n : Fin 8)
  /-- A matrix window opens and the controller makes one attempt for the gate's pending buffer or records a miss. (R340) The gate of
  column c in basic cycle bc; CAN_FRAME_TRANSMIT says how the attempt ends. -/
  | canGate (n : Fin 8) (c : Fin 32) (bc : Fin 64)
  /-- A Blade jumps on its condition, decrementing C for the counter condition. (R356) One step of Blade b of group g with the levels of
  the group's pins. -/
  | bladeJmp (g : Fin 8) (b : Fin 4) (levels : BitVec 8)
  /-- A Blade stalls until a lane, flag or group pin equals POL. (R356) -/
  | bladeWait (g : Fin 8) (b : Fin 4) (levels : BitVec 8)
  /-- A Blade collects n bits into RSR from a lane, G or zeros. (R357) -/
  | bladeIn (g : Fin 8) (b : Fin 4) (levels : BitVec 8)
  /-- A Blade takes n bits from TSR to a lane, G, nowhere or PC. (R357) -/
  | bladeOut (g : Fin 8) (b : Fin 4) (levels : BitVec 8)
  /-- A Blade moves RSR to RXHOLD, stalling or overrunning when RXHOLD is full. (R364) -/
  | bladePush (g : Fin 8) (b : Fin 4) (levels : BitVec 8)
  /-- A Blade loads TSR from TXHOLD, stalling or underrunning when TXHOLD is empty. (R363) -/
  | bladePull (g : Fin 8) (b : Fin 4) (levels : BitVec 8)
  /-- A Blade moves a source to a destination after an optional bit operation. (R356) -/
  | bladeMov (g : Fin 8) (b : Fin 4) (levels : BitVec 8)
  /-- A Blade sets or clears a group flag, or sets it and stalls until it clears. (R356) -/
  | bladeIrq (g : Fin 8) (b : Fin 4) (levels : BitVec 8)
  /-- A Blade writes a lane's level and drive, or loads C or G. (R356) -/
  | bladeSet (g : Fin 8) (b : Fin 4) (levels : BitVec 8)
  /-- A Blade sets its AT target T and waits for it on its time base. (R361) -/
  | bladeAt (g : Fin 8) (b : Fin 4) (levels : BitVec 8)
  /-- The Blade's time base reaches T, or T lies in the past, and the AT instruction completes. (R361) -/
  | atFire (g : Fin 8) (b : Fin 4)
  /-- An illegal Blade word takes one step, changes nothing and is counted. (R358) -/
  | bladeIllegal (g : Fin 8) (b : Fin 4)
  /-- A write of BLD_TXHOLD loads the word and sets TX_FULL, or is refused when full. (R362) -/
  | txholdWrite (who : Agent) (g : Fin 8) (b : Fin 4) (v : Word)
  /-- A read of BLD_RXHOLD returns the word and clears RX_FULL, or returns 0 when empty. (R364) -/
  | rxholdRead (who : Agent) (g : Fin 8) (b : Fin 4)
  /-- A flag rises by IRQ or BLD_FLAGS_SET, ringing its doorbell and pushing its job. (R366) A Blade's IRQ sets a flag in BLADE_IRQ. -/
  | flagSet (who : Agent) (g : Fin 8) (v : Word)
  /-- A write to BLD_FLAGS clears group flags. (R366) -/
  | flagClear (who : Agent) (g : Fin 8) (v : Word)
  /-- Clearing a BLD_CTRL.EN bit stops a Blade before its next step, keeping its state. (R367) The other EN bits stay. -/
  | bladeStop (who : Agent) (g : Fin 8) (b : Fin 4)
  /-- Setting a BLD_CTRL.EN bit resumes a stopped Blade where it stopped. (R367) The other EN bits stay. -/
  | bladeResume (who : Agent) (g : Fin 8) (b : Fin 4)
  /-- A write to BLD_PROG changes only later fetches of that word. (R369) -/
  | programWordWrite (who : Agent) (g : Fin 8) (i : Fin 48) (v : Word)
  /-- A write of BLD_RESTART arms an immediate or timed restart of the Blades in MASK. (R370) -/
  | restartArm (who : Agent) (g : Fin 8) (v : Word)
  /-- The armed restart applies staged program settings, clears Blade state, writes idle lane levels and sets EN. (R370) -/
  | bladeRestart (g : Fin 8)
  /-- The detected supply level of a Blade bank changes. (R351) The level, as DET codes it, and the levels at the bank's pins. -/
  | bankLevelChange (k : Fin 4) (pins : Fin 4 × BitVec 16)
  /-- The receive dispatcher branches a delivered frame to the personality registered for its EtherType, or releases and counts it.
  (R379) By the firmware on engine e for the frame at a cell; a violation that the handler finds for the instance of a record. -/
  | receiveDispatch (e : Fin 64) (cell : BitVec 27) (viol : Option (BitVec 12 × Viol))
  /-- The IPv4 service checks a datagram or segment and pushes it to the owning personality, or answers its violation. (R380) `owner`:
  the first word of its handler's job, and the number of the record whose own bytes give the port, where the manual fixes none. -/
  | ipv4Datagram (e : Fin 64) (cell : BitVec 27) (owner : Word × Option (BitVec 12))
  /-- A personality writes a station's input data into the back copy of its slot and commits it. (R383) `len`: the bytes of data,
  and `src`: where they came; `m`: what the message says beside them; `viol`: the violation that the handler finds; `jobs`: the first
  job word for each gateway station that is notified. -/
  | stationInput (e : Fin 64) (i : BitVec 12) (len : Nat) (src : PersSrc) (m : MsgInfo) (viol : Option Viol) (jobs : List Word)
  /-- A network's loss criterion or LOSS_US without valid input makes the personality report the station lost. (R384) -/
  | stationLoss (e : Fin 64) (i : BitVec 12) (v : Viol)
  /-- At a transmit instant or notify job, a gateway station sends the newest version of its source input slot. (R385) Any other station
  sends its output slot at its transmit instant (R383). -/
  | gatewayTransmit (e : Fin 64) (i : BitVec 12)
  /-- A personality refuses an instance record whose limits it cannot meet and counts it. (R376) The number of the instance record,
  and the limit. -/
  | instanceRefuse (e : Fin 64) (rec_ : BitVec 12 × Limit)
  /-- Every 100 µs scan, a changed publication is sent at once with a new stNum. (R399) -/
  | goosePublish (e : Fin 64) (i : BitVec 12)
  /-- A publication is retransmitted at 1, 2, 4 and 8 ms and every 1 s after a change. (R399) -/
  | gooseRetransmit (i : BitVec 12)
  /-- A write to CTL_COMMIT commits an input slot, or rotates an unowned output slot, or is refused for an owned output slot. (R417) -/
  | slotCommit (who : Agent) (n : BitVec 13)
  /-- A write of a station to CTL_LOSS sets LOST on its input slot. (R421) -/
  | lossReport (who : Agent) (i : BitVec 12)
  /-- A write of CTL_FORCE with EN = 1 by Patrol forces an input slot. (R422) -/
  | slotForce (who : Agent) (n : BitVec 13)
  /-- A write of CTL_FORCE with EN = 0 by Patrol releases a forced slot. (R422) -/
  | slotRelease (who : Agent) (n : BitVec 13)
  /-- A write of a task number to CTL_ARITH sets ARITH and counts an integer division by zero. (R436) -/
  | arithReport (who : Agent) (t : Fin 16)
  /-- At T0 CTL latches the task's input slots, sets qualities, applies an armed exchange and writes the latch table. (R418) -/
  | inputLatch (t : Fin 16)
  /-- Once the latch table writes are acknowledged, CTL pushes the task's job to its engine. (R426) -/
  | taskRelease (t : Fin 16)
  /-- At T0 + DEADLINE CTL commits the task's output slots when its run ended in time, or records an overrun. (R427) -/
  | outputDeadline (t : Fin 16)
  /-- A write of CTL_TASK_CTRL.ARM by Patrol arms a program exchange for a task, or is refused. (R440) -/
  | arm (who : Agent) (t : Fin 16)
  /-- A write of CTL_TASK_CTRL.CLR_SAFE takes a task out of SAFE. (R429) -/
  | clrSafe (who : Agent) (t : Fin 16)
  /-- Pregaef NOP does nothing. (R433) -/
  | pregaefNop (who : CtxId)
  /-- Pushes the sign-extended operand. (R433) -/
  | pregaefLit (who : CtxId)
  /-- Pushes constant word k. (R433) -/
  | pregaefLitc (who : CtxId)
  /-- Pushes constant words k and k + 1. (R433) -/
  | pregaefLitc2 (who : CtxId)
  /-- Pushes data word k. (R433) -/
  | pregaefLd (who : CtxId)
  /-- Pops into data word k. (R433) -/
  | pregaefSt (who : CtxId)
  /-- Pushes data words k and k + 1. (R433) -/
  | pregaefLd2 (who : CtxId)
  /-- Pops into data words k and k + 1. (R433) -/
  | pregaefSt2 (who : CtxId)
  /-- Pushes the value of input entry k from the latched slot. (R433) -/
  | pregaefIn (who : CtxId)
  /-- Pops a value, converted to its type, to output entry k. (R433) -/
  | pregaefOut (who : CtxId)
  /-- Pushes the latch table entry of entry k's slot. (R423) -/
  | pregaefStat (who : CtxId)
  /-- Pushes the task time TT. (R437) -/
  | pregaefTime (who : CtxId)
  /-- Duplicates the top stack word. (R433) -/
  | pregaefDup (who : CtxId)
  /-- Drops the top stack word. (R433) -/
  | pregaefDrop (who : CtxId)
  /-- Swaps the top two stack words. (R433) -/
  | pregaefSwap (who : CtxId)
  /-- Duplicates the top two stack words. (R433) -/
  | pregaefDup2 (who : CtxId)
  /-- Typed addition, wrapping. (R436) -/
  | pregaefAdd (who : CtxId)
  /-- Typed subtraction, wrapping. (R436) -/
  | pregaefSub (who : CtxId)
  /-- Typed multiplication, wrapping. (R436) -/
  | pregaefMul (who : CtxId)
  /-- Typed division toward zero; division by zero gives 0 and reports ARITH. (R436) -/
  | pregaefDiv (who : CtxId)
  /-- Typed remainder with the dividend's sign; by zero gives 0 and reports ARITH. (R436) -/
  | pregaefMod (who : CtxId)
  /-- Typed negation. (R436) -/
  | pregaefNeg (who : CtxId)
  /-- Typed absolute value. (R436) -/
  | pregaefAbs (who : CtxId)
  /-- Typed minimum. (R433) -/
  | pregaefMin (who : CtxId)
  /-- Typed maximum. (R433) -/
  | pregaefMax (who : CtxId)
  /-- Bitwise or logical AND. (R433) -/
  | pregaefAnd (who : CtxId)
  /-- Bitwise or logical OR. (R433) -/
  | pregaefOr (who : CtxId)
  /-- Bitwise or logical XOR. (R433) -/
  | pregaefXor (who : CtxId)
  /-- Bitwise or logical NOT. (R433) -/
  | pregaefNot (who : CtxId)
  /-- Typed shift left; w or more gives 0. (R436) -/
  | pregaefShl (who : CtxId)
  /-- Typed logical shift right; w or more gives 0. (R436) -/
  | pregaefShr (who : CtxId)
  /-- Typed rotate left by the amount modulo w. (R436) -/
  | pregaefRol (who : CtxId)
  /-- Typed rotate right by the amount modulo w. (R436) -/
  | pregaefRor (who : CtxId)
  /-- Pushes BOOL of equality. (R433) -/
  | pregaefEq (who : CtxId)
  /-- Pushes BOOL of inequality. (R433) -/
  | pregaefNe (who : CtxId)
  /-- Pushes BOOL of less-than. (R433) -/
  | pregaefLt (who : CtxId)
  /-- Pushes BOOL of less-or-equal. (R433) -/
  | pregaefLe (who : CtxId)
  /-- Pushes BOOL of greater-than. (R433) -/
  | pregaefGt (who : CtxId)
  /-- Pushes BOOL of greater-or-equal. (R433) -/
  | pregaefGe (who : CtxId)
  /-- Converts between types with rounding and saturation. (R436) -/
  | pregaefCvt (who : CtxId)
  /-- REAL or LREAL square root. (R433) -/
  | pregaefSqrt (who : CtxId)
  /-- Truncates REAL or LREAL toward zero to an integer type. (R433) -/
  | pregaefTrunc (who : CtxId)
  /-- Jumps to the current word + k. (R433) -/
  | pregaefJmp (who : CtxId)
  /-- Pops BOOL and jumps if TRUE. (R433) -/
  | pregaefJmpc (who : CtxId)
  /-- Pops BOOL and jumps if FALSE. (R433) -/
  | pregaefJmpcn (who : CtxId)
  /-- Calls function k of the function table. (R433) -/
  | pregaefCall (who : CtxId)
  /-- Returns from a function. (R433) -/
  | pregaefRet (who : CtxId)
  /-- Ends the program body; the runtime writes the output slots and executes PGF.END. (R427) -/
  | pregaefEnd (who : CtxId)
  /-- Executes the function block instance of symbol k against TT. (R438) -/
  | pregaefFb (who : CtxId)
  /-- A write of PAR_CFG.EN = 1 moves PAR from OFF to LISTEN and starts the start timer. (R452) A write of PAR_CFG with EN = 1. -/
  | parEnable (who : Agent) (v : Word)
  /-- The start timer of START_WAIT_MS expires without a valid heartbeat and PAR becomes ACTIVE. (R452) -/
  | startWaitExpiry
  /-- Every HB_PERIOD_US PAR sends a heartbeat on the tandem link and on the network path. (R449) -/
  | heartbeatSend
  /-- A tandem heartbeat is received, validated and may change the role. (R450) `t`: its packet number and tag. -/
  | tandemHeartbeat (h : Heartbeat) (t : TdmTag)
  /-- A claimed network heartbeat is validated, resetting the network miss count, or counted as bad. (R450) Its GMAC tag. -/
  | networkHeartbeat (h : Heartbeat) (tag : BitVec 128)
  /-- HB_PERIOD_US passes without a valid heartbeat on a path; when neither path is alive the standby takes over or enters OFF. (R451) -/
  | heartbeatMiss (network : Bool)
  /-- A write of PAR_CTRL.RELINQUISH on an ACTIVE unit sets YIELD from the next copy, or is refused. (R453) -/
  | relinquish (who : Agent)
  /-- A write of PAR_CTRL.RESYNC moves an unsynced standby to SYNCING. (R460) -/
  | resync (who : Agent)
  /-- A write of PAR_CTRL.CLR_UNFIT by Patrol clears UNFIT and CONSEC and unsyncs the standby. (R466) -/
  | clrUnfit (who : Agent)
  /-- The standby receives the SEQ frame and checks program identity. (R461) `t` as for TANDEM_HEARTBEAT. -/
  | seqFrameReceive (q : SeqF) (t : TdmTag)
  /-- At the last OUT frame the standby compares, writes and commits the output slots and loads PAR_SEQREC. (R457) -/
  | outFrameReceive (slot : BitVec 13) (data : List Byte) (t : TdmTag)
  /-- The standby writes a received tracked page to the same physical address. (R457) The page of this number. -/
  | pageFrameReceive (page : BitVec 28) (data : List Byte) (t : TdmTag)
  /-- The END frame completes a copy and may make a SYNCING standby SYNCED. (R460) The number of frames that it names. -/
  | endFrameReceive (e : BitVec 32 × TdmTag)
  /-- At the deadline plus WINDOW_NS without the copy, the standby commits its own results or nothing and unsyncs. (R458) -/
  | copyWindowClose
  /-- The Patrol comparator finds a mismatch, or a fetch is uncorrectable, and a WDOG reset starts at once. (R469) `fetch`: the
  uncorrectable fetch. -/
  | lockstepMismatch (fetch : Bool)
  /-- A write of 0x0000_5A5A to PAT_WDOG_KICK restarts the watchdog count; another value is counted as bad. (R472) -/
  | watchdogKick (who : Agent) (v : Word)
  /-- The watchdog count reaches 0 and a WDOG reset starts. (R472) -/
  | watchdogExpiry
  /-- At the end of each 1 ms window the load monitor updates BUSY_PCT and raises or lowers LEVEL. (R473) The share of the window in
  which a context issued, in percent. -/
  | loadWindowEnd (busy : Fin 101)
  /-- A write of PAT_SQ_PUSH word 7 commits a housekeeping job to Patrol's stealable queue, or is refused. (R475) -/
  | patrolQueuePush (who : Agent) (v : Word)
  /-- Patrol firmware writes an event log record and then WR. (R476) -/
  | eventLogRecord (source : BitVec 8) (code : BitVec 16) (data : List Word)
  /-- A PCI Express memory read through BAR0 is checked against the windows and completed. (R478) `n` words upward from a physical
  address. -/
  | pcieRead (a : BitVec 40) (n : Fin 1025)
  /-- A PCI Express memory write through BAR0 is checked against the windows and applied. (R478) -/
  | pcieWrite (a : BitVec 40) (l : List Word)
  /-- PCIE_PERST_N holds the endpoint in reset; its rise starts link training within 20 ms. (R521) The level of the pin. -/
  | pciePerst (high : Bool)
  /-- An SPI transaction with CMD 0x02 writes 1 to 64 words from ADDR upward. (R480) -/
  | spiWrite (a : BitVec 40) (l : List Word) (how : SpiEnd)
  /-- An SPI transaction with CMD 0x0B returns STATUS and 1 to 64 words from ADDR upward. (R480) n + 1 words; `late`: the first
  word is not ready after the dummy bytes. -/
  | spiRead (a : BitVec 40) (n : Fin 64) (late : Bool)
  /-- Patrol answers with identity, mode and BOOT registers. (R482) The request waits in the request mailbox; so for the rows that follow
  (R481). -/
  | getInfo
  /-- Patrol answers with a named block's counters, or BUSY while shed. (R482) -/
  | getCounters (b : Block)
  /-- Patrol answers with event log records from a given SEQ. (R482) -/
  | readLog (seq : Word)
  /-- Patrol writes an image into the chip select the running image did not come from. (R482) The request is taken, or its work is done.
  -/
  | flashWrite (done : Bool)
  /-- Patrol checks that image under R49 without booting it. (R482) What the chip select holds. -/
  | flashVerify (flash : Flash)
  /-- Patrol places an exchange package in partition 7 and has it checked. (R439) The package, its place in partition 7 and the
  place of each program in partition 1, in units of 64 bytes, which Patrol chooses. -/
  | exchangeLoad (p : Flash) (places : BitVec 21 × List (BitVec 21))
  /-- Patrol arms tasks for a program exchange under R440. (R482) Tasks with the places of their programs, and the switch instant. -/
  | exchangeArm (l : List (Fin 16 × BitVec 21)) (at_ : Word)
  /-- Patrol forces or releases an input slot for the host. (R482) -/
  | force (n : BitVec 13) (vals : Option (List Byte))
  /-- Patrol carries one Provisioning request to the Vault. (R482) -/
  | provision (q : VltReq) (sig : BitVec 768)
  /-- Patrol answers OK and writes SYS_RESET. (R482) -/
  | reset
  /-- HOLD set to 1 by Patrol or hardware puts the device into Hold with outputs at safe values. (R487) Hardware enters Hold within the
  rows that cause it. -/
  | holdEntry (who : Agent)
  /-- A write of HOLD = 0 returns the device from Hold, or is refused. (R488) -/
  | holdExit (who : Agent)
  /-- A write of SYS_MODE_CTRL.FWX by Patrol enters or leaves Exchange for a firmware exchange. (R485) HOLD stays as it is. -/
  | fwx (who : Agent) (on : Bool)
  /-- A write of PWR_DOM_CTRL requests one power domain on or off, or is refused. (R494) -/
  | domainRequest (who : Agent) (v : Word)
  /-- A domain is off 1 µs or on 20 µs after its request, starting a RINK reset for a rink. (R494) The engines that fail the self-checks
  of a rink that comes on. -/
  | domainSwitchDone (fails : BitVec 8)
  /-- A write of PWR_SLEEP.ENTER by Patrol switches domains off, puts kept banks in retention and zeroises keys, or is refused. (R496) -/
  | retentionEntry (who : Agent) (v : Word)
  /-- The WAKE pin high for 1 µs in Retention wakes the device. (R497) -/
  | wakePin
  /-- After PWR_WAKE_WRAPS wraps the time base reaches PWR_WAKE_AT and wakes the device. (R497) -/
  | wakeTime
  /-- A wake switches on PD_FAB and starts a boot that keeps the banks in retention. (R498) -/
  | resumeBoot
  /-- The PCI Express link comes up after training or is lost, changing HST_STATUS.LINK_UP, WIDTH and SPEED and counting losses in
  HST_LINK_DOWN_CNT. (R484) As WIDTH and SPEED code them. -/
  | pcieLinkChange (up : Bool) (width speed : Fin 4)
  /-- Edges on TP_REF10 start or stop arriving at 10 MHz ± 1 %, setting or clearing TMU_STATUS.REF10_PRESENT and voiding the window in
  progress. (R299) -/
  | ref10PresenceChange (on : Bool)
  /-- With debug open, the debugger on the TAP reads or writes engine or Patrol state or a register page other than VLT; the
  same port carries boundary scan. (R79, R83, R522) `w`: the word that an access writes, none where it reads. -/
  | debugAccess (op : TapOp) (w : Option Word)
deriving DecidableEq, Repr

end Sys2Proof
end

