-- ==== Sys2Proof/Decode.lean ====
section
/-! DEFINITION. Words of the operation table: the table gives no row any bits. -/

namespace Sys2Proof

/-- The command that a word of the table's bits spells: none, since no row of the table has bits (DESIGN CHOICE, log entry 1). -/
def decodeTableWord (_nbits _w : Nat) : Option Instr := none

end Sys2Proof
end

