-- ==== Sys2Proof/Machine/Fld.lean ====
section
/-! DEFINITION. The fields of the registers, by the manual's names BLOCK_REG.FIELD. -/

namespace Sys2Proof.Machine

def Fld.BOOT_STRAP_BOOT_SEL : Fld := ⟨.BOOT_STRAP, 1, 0⟩
def Fld.BOOT_STRAP_PAIR_RANK : Fld := ⟨.BOOT_STRAP, 4, 4⟩
def Fld.BOOT_STATUS_PHASE : Fld := ⟨.BOOT_STATUS, 3, 0⟩
def Fld.BOOT_STATUS_IMAGE : Fld := ⟨.BOOT_STATUS, 5, 4⟩
def Fld.BOOT_STATUS_UNCONF : Fld := ⟨.BOOT_STATUS, 9, 8⟩
def Fld.BOOT_STATUS_DEGRADED : Fld := ⟨.BOOT_STATUS, 12, 12⟩
def Fld.BOOT_STATUS_RESULT : Fld := ⟨.BOOT_STATUS, 19, 16⟩
def Fld.BOOT_STATUS_XBUSY : Fld := ⟨.BOOT_STATUS, 20, 20⟩
def Fld.BOOT_CAUSE_CAUSE_A : Fld := ⟨.BOOT_CAUSE, 3, 0⟩
def Fld.BOOT_CAUSE_CAUSE_B : Fld := ⟨.BOOT_CAUSE, 7, 4⟩
def Fld.BOOT_TIME_US : Fld := ⟨.BOOT_TIME, 31, 0⟩
def Fld.BOOT_CTRL_CONFIRM : Fld := ⟨.BOOT_CTRL, 0, 0⟩
def Fld.BOOT_XSPI_CFG_MODE : Fld := ⟨.BOOT_XSPI_CFG, 2, 0⟩
def Fld.BOOT_XSPI_CFG_DIV : Fld := ⟨.BOOT_XSPI_CFG, 7, 4⟩
def Fld.BOOT_XSPI_CFG_CS : Fld := ⟨.BOOT_XSPI_CFG, 8, 8⟩
def Fld.BOOT_XSPI_CFG_DUMMY : Fld := ⟨.BOOT_XSPI_CFG, 15, 12⟩
def Fld.BOOT_FAILOVER_CNT_COUNT : Fld := ⟨.BOOT_FAILOVER_CNT, 31, 0⟩
def Fld.BOOT_REC_DENY_CNT_COUNT : Fld := ⟨.BOOT_REC_DENY_CNT, 31, 0⟩
def Fld.BOOT_SKIP_CNT_COUNT : Fld := ⟨.BOOT_SKIP_CNT, 31, 0⟩
def Fld.BOOT_MISUSE_CNT_COUNT : Fld := ⟨.BOOT_MISUSE_CNT, 31, 0⟩
def Fld.VLT_STATUS_LIFECYCLE : Fld := ⟨.VLT_STATUS, 1, 0⟩
def Fld.VLT_STATUS_KEYS_READY : Fld := ⟨.VLT_STATUS, 2, 2⟩
def Fld.VLT_STATUS_KEY_SLOT : Fld := ⟨.VLT_STATUS, 5, 4⟩
def Fld.VLT_STATUS_DEBUG_OPEN : Fld := ⟨.VLT_STATUS, 6, 6⟩
def Fld.VLT_STATUS_LOCKDOWN : Fld := ⟨.VLT_STATUS, 7, 7⟩
def Fld.VLT_ROLLBACK_COUNTER : Fld := ⟨.VLT_ROLLBACK, 7, 0⟩
def Fld.VLT_TAMPER_EN_EN : Fld := ⟨.VLT_TAMPER_EN, 4, 0⟩
def Fld.VLT_TAMPER_SRC_SRC : Fld := ⟨.VLT_TAMPER_SRC, 4, 0⟩
def Fld.VLT_TAMPER_SRC_COUNT : Fld := ⟨.VLT_TAMPER_SRC, 13, 8⟩
def Fld.VLT_DBG_FAIL_CNT_COUNT : Fld := ⟨.VLT_DBG_FAIL_CNT, 31, 0⟩
def Fld.VLT_WIN_DENY_CNT_COUNT : Fld := ⟨.VLT_WIN_DENY_CNT, 31, 0⟩
def Fld.VLT_PROV_REFUSE_CNT_COUNT : Fld := ⟨.VLT_PROV_REFUSE_CNT, 31, 0⟩
def Fld.VLT_MISUSE_CNT_COUNT : Fld := ⟨.VLT_MISUSE_CNT, 31, 0⟩
def Fld.SMF_JOBROUTE_ALT_RINK : Fld := ⟨.SMF_JOBROUTE, 2, 0⟩
def Fld.SMF_JOBROUTE_ALT_EN : Fld := ⟨.SMF_JOBROUTE, 3, 3⟩
def Fld.SMF_JOBROUTE_ACTIVE : Fld := ⟨.SMF_JOBROUTE, 4, 4⟩
def Fld.SMF_JOBDROP_CNT_COUNT : Fld := ⟨.SMF_JOBDROP_CNT, 31, 0⟩
def Fld.RNK_STATUS_READY : Fld := ⟨.RNK_STATUS, 0, 0⟩
def Fld.RNK_STATUS_ENG_ONLINE : Fld := ⟨.RNK_STATUS, 15, 8⟩
def Fld.RNK_STATUS_CLK_MHZ : Fld := ⟨.RNK_STATUS, 26, 16⟩
def Fld.RNK_CFG_STEAL_GROUP : Fld := ⟨.RNK_CFG, 7, 0⟩
def Fld.RNK_CFG_STEAL_WIN : Fld := ⟨.RNK_CFG, 15, 8⟩
def Fld.RNK_CFG_STEAL_EN : Fld := ⟨.RNK_CFG, 16, 16⟩
def Fld.RNK_CFG_XSTEAL_EN : Fld := ⟨.RNK_CFG, 17, 17⟩
def Fld.RNK_CFG_PAT_STEAL_EN : Fld := ⟨.RNK_CFG, 18, 18⟩
def Fld.RNK_FWMASK_FW : Fld := ⟨.RNK_FWMASK, 15, 0⟩
def Fld.RNK_TLB_INV_SPACE : Fld := ⟨.RNK_TLB_INV, 3, 0⟩
def Fld.RNK_TLB_INV_SCOPE_SPACE : Fld := ⟨.RNK_TLB_INV, 4, 4⟩
def Fld.RNK_TLB_INV_SCOPE_ALL : Fld := ⟨.RNK_TLB_INV, 5, 5⟩
def Fld.RNK_TLB_INV_VPN : Fld := ⟨.RNK_TLB_INV, 31, 12⟩
def Fld.RNK_TLB_STATUS_INV_BUSY : Fld := ⟨.RNK_TLB_STATUS, 0, 0⟩
def Fld.RNK_FAULT_CFG_DB_TARGET : Fld := ⟨.RNK_FAULT_CFG, 4, 0⟩
def Fld.RNK_FAULT_CFG_DB_BIT : Fld := ⟨.RNK_FAULT_CFG, 9, 5⟩
def Fld.RNK_FAULT_CFG_DB_EN : Fld := ⟨.RNK_FAULT_CFG, 10, 10⟩
def Fld.RNK_FAULT_PEND_CTX : Fld := ⟨.RNK_FAULT_PEND, 31, 0⟩
def Fld.RNK_LFAULT_PEND_LIFT : Fld := ⟨.RNK_LFAULT_PEND, 3, 0⟩
def Fld.RNK_PUSH_WORD : Fld := ⟨.RNK_PUSH, 31, 0⟩
def Fld.RNK_ENG_CFG_ACCEPT : Fld := ⟨.RNK_ENG_CFG, 15, 0⟩
def Fld.RNK_ENG_CFG_ALT_ENG : Fld := ⟨.RNK_ENG_CFG, 18, 16⟩
def Fld.RNK_ENG_CFG_ALT_EN : Fld := ⟨.RNK_ENG_CFG, 19, 19⟩
def Fld.RNK_ENG_CFG_OFFLINE : Fld := ⟨.RNK_ENG_CFG, 20, 20⟩
def Fld.RNK_ENG_STATUS_CTX_STATE : Fld := ⟨.RNK_ENG_STATUS, 15, 0⟩
def Fld.RNK_ENG_STATUS_QDEPTH : Fld := ⟨.RNK_ENG_STATUS, 22, 16⟩
def Fld.RNK_ENG_STATUS_OFFLINE : Fld := ⟨.RNK_ENG_STATUS, 24, 24⟩
def Fld.RNK_ENG_STATUS_SELF_FAIL : Fld := ⟨.RNK_ENG_STATUS, 25, 25⟩
def Fld.RNK_ENG_STATUS_LMEM_UE : Fld := ⟨.RNK_ENG_STATUS, 26, 26⟩
def Fld.RNK_SPACE_ROOT_LOW_PA_LO : Fld := ⟨.RNK_SPACE_ROOT_LOW, 31, 12⟩
def Fld.RNK_SPACE_ROOT_HIGH_PA_HI : Fld := ⟨.RNK_SPACE_ROOT_HIGH, 7, 0⟩
def Fld.RNK_SPACE_ROOT_HIGH_EN : Fld := ⟨.RNK_SPACE_ROOT_HIGH, 8, 8⟩
def Fld.RNK_CTX_FLT_CODE : Fld := ⟨.RNK_CTX_FLT, 3, 0⟩
def Fld.RNK_CTX_FLT_HALF : Fld := ⟨.RNK_CTX_FLT, 5, 4⟩
def Fld.RNK_CTX_FLT_STORES_DONE : Fld := ⟨.RNK_CTX_FLT, 6, 6⟩
def Fld.RNK_CTX_FLT_KIND : Fld := ⟨.RNK_CTX_FLT, 7, 7⟩
def Fld.RNK_CTX_FLT_PC : Fld := ⟨.RNK_CTX_FLT, 29, 16⟩
def Fld.RNK_CTX_VA_VA : Fld := ⟨.RNK_CTX_VA, 31, 0⟩
def Fld.RNK_CTX_CTRL_RESUME : Fld := ⟨.RNK_CTX_CTRL, 0, 0⟩
def Fld.RNK_CTX_CTRL_ABORT : Fld := ⟨.RNK_CTX_CTRL, 1, 1⟩
def Fld.RNK_PUSH_REFUSE_CNT_COUNT : Fld := ⟨.RNK_PUSH_REFUSE_CNT, 31, 0⟩
def Fld.RNK_QWAIT_CNT_COUNT : Fld := ⟨.RNK_QWAIT_CNT, 31, 0⟩
def Fld.RNK_STEAL_CNT_COUNT : Fld := ⟨.RNK_STEAL_CNT, 31, 0⟩
def Fld.RNK_XSTEAL_CNT_COUNT : Fld := ⟨.RNK_XSTEAL_CNT, 31, 0⟩
def Fld.RNK_XSTEAL_MISS_CNT_COUNT : Fld := ⟨.RNK_XSTEAL_MISS_CNT, 31, 0⟩
def Fld.RNK_PSTEAL_CNT_COUNT : Fld := ⟨.RNK_PSTEAL_CNT, 31, 0⟩
def Fld.RNK_FAULT_CNT_COUNT : Fld := ⟨.RNK_FAULT_CNT, 31, 0⟩
def Fld.RNK_LIFT_HOLD_CNT_COUNT : Fld := ⟨.RNK_LIFT_HOLD_CNT, 31, 0⟩
def Fld.RNK_JOBLOST_CNT_COUNT : Fld := ⟨.RNK_JOBLOST_CNT, 31, 0⟩
def Fld.RNK_PAIR_CONFLICT_CNT_COUNT : Fld := ⟨.RNK_PAIR_CONFLICT_CNT, 31, 0⟩
def Fld.RNK_LMEM_CE_CNT_COUNT : Fld := ⟨.RNK_LMEM_CE_CNT, 31, 0⟩
def Fld.RNK_MISUSE_CNT_COUNT : Fld := ⟨.RNK_MISUSE_CNT, 31, 0⟩
def Fld.SMF_CFG_CE_WB : Fld := ⟨.SMF_CFG, 0, 0⟩
def Fld.SMF_STATUS_WORKING : Fld := ⟨.SMF_STATUS, 8, 0⟩
def Fld.SMF_ERR_ADDR_LOW_ADDR_LO : Fld := ⟨.SMF_ERR_ADDR_LOW, 31, 0⟩
def Fld.SMF_ERR_ADDR_HIGH_ADDR_HI : Fld := ⟨.SMF_ERR_ADDR_HIGH, 7, 0⟩
def Fld.SMF_ERR_INFO_MID : Fld := ⟨.SMF_ERR_INFO, 7, 0⟩
def Fld.SMF_ERR_INFO_KIND : Fld := ⟨.SMF_ERR_INFO, 9, 8⟩
def Fld.SMF_ERR_INFO_VALID : Fld := ⟨.SMF_ERR_INFO, 31, 31⟩
def Fld.SMF_BANK_STAT_STATE_0 : Fld := ⟨.SMF_BANK_STAT, 3, 0⟩
def Fld.SMF_BANK_STAT_STATE_1 : Fld := ⟨.SMF_BANK_STAT, 7, 4⟩
def Fld.SMF_BANK_STAT_STATE_2 : Fld := ⟨.SMF_BANK_STAT, 11, 8⟩
def Fld.SMF_BANK_STAT_STATE_3 : Fld := ⟨.SMF_BANK_STAT, 15, 12⟩
def Fld.SMF_BANK_STAT_STATE_4 : Fld := ⟨.SMF_BANK_STAT, 19, 16⟩
def Fld.SMF_BANK_STAT_STATE_5 : Fld := ⟨.SMF_BANK_STAT, 23, 20⟩
def Fld.SMF_BANK_STAT_STATE_6 : Fld := ⟨.SMF_BANK_STAT, 27, 24⟩
def Fld.SMF_BANK_STAT_STATE_7 : Fld := ⟨.SMF_BANK_STAT, 31, 28⟩
def Fld.SMF_PART_MAP_PART_0 : Fld := ⟨.SMF_PART_MAP, 3, 0⟩
def Fld.SMF_PART_MAP_PART_1 : Fld := ⟨.SMF_PART_MAP, 7, 4⟩
def Fld.SMF_PART_MAP_PART_2 : Fld := ⟨.SMF_PART_MAP, 11, 8⟩
def Fld.SMF_PART_MAP_PART_3 : Fld := ⟨.SMF_PART_MAP, 15, 12⟩
def Fld.SMF_PART_MAP_PART_4 : Fld := ⟨.SMF_PART_MAP, 19, 16⟩
def Fld.SMF_PART_MAP_PART_5 : Fld := ⟨.SMF_PART_MAP, 23, 20⟩
def Fld.SMF_PART_MAP_PART_6 : Fld := ⟨.SMF_PART_MAP, 27, 24⟩
def Fld.SMF_PART_MAP_PART_7 : Fld := ⟨.SMF_PART_MAP, 31, 28⟩
def Fld.SMF_CONF_CNT_COUNT : Fld := ⟨.SMF_CONF_CNT, 31, 0⟩
def Fld.SMF_CE_CNT_COUNT : Fld := ⟨.SMF_CE_CNT, 31, 0⟩
def Fld.SMF_UE_CNT_COUNT : Fld := ⟨.SMF_UE_CNT, 31, 0⟩
def Fld.SMF_BANK_DENY_CNT_COUNT : Fld := ⟨.SMF_BANK_DENY_CNT, 31, 0⟩
def Fld.SMF_MISUSE_CNT_COUNT : Fld := ⟨.SMF_MISUSE_CNT, 31, 0⟩
def Fld.GRM_CMD_BANK : Fld := ⟨.GRM_CMD, 7, 0⟩
def Fld.GRM_CMD_TEST : Fld := ⟨.GRM_CMD, 9, 8⟩
def Fld.GRM_STATUS_BUSY : Fld := ⟨.GRM_STATUS, 0, 0⟩
def Fld.GRM_STATUS_BANK : Fld := ⟨.GRM_STATUS, 15, 8⟩
def Fld.GRM_STATUS_ROW : Fld := ⟨.GRM_STATUS, 25, 16⟩
def Fld.GRM_STATUS_RESULT : Fld := ⟨.GRM_STATUS, 28, 26⟩
def Fld.GRM_DB_CFG_TARGET : Fld := ⟨.GRM_DB_CFG, 4, 0⟩
def Fld.GRM_DB_CFG_BIT : Fld := ⟨.GRM_DB_CFG, 9, 5⟩
def Fld.GRM_DB_CFG_EN : Fld := ⟨.GRM_DB_CFG, 10, 10⟩
def Fld.GRM_SCRUB_CFG_EN : Fld := ⟨.GRM_SCRUB_CFG, 0, 0⟩
def Fld.GRM_SCRUB_CFG_STEP : Fld := ⟨.GRM_SCRUB_CFG, 15, 8⟩
def Fld.GRM_SCRUB_POS_WORD : Fld := ⟨.GRM_SCRUB_POS, 15, 0⟩
def Fld.GRM_SCRUB_POS_BANK : Fld := ⟨.GRM_SCRUB_POS, 23, 16⟩
def Fld.GRM_SCRUB_CE_CNT_COUNT : Fld := ⟨.GRM_SCRUB_CE_CNT, 31, 0⟩
def Fld.GRM_SCRUB_UE_CNT_COUNT : Fld := ⟨.GRM_SCRUB_UE_CNT, 31, 0⟩
def Fld.GRM_REPAIR_CNT_COUNT : Fld := ⟨.GRM_REPAIR_CNT, 31, 0⟩
def Fld.GRM_REFUSE_CNT_COUNT : Fld := ⟨.GRM_REFUSE_CNT, 31, 0⟩
def Fld.GRM_PASS_CNT_COUNT : Fld := ⟨.GRM_PASS_CNT, 31, 0⟩
def Fld.GRM_MISUSE_CNT_COUNT : Fld := ⟨.GRM_MISUSE_CNT, 31, 0⟩
def Fld.GRM_BANK_ROWS_USED : Fld := ⟨.GRM_BANK, 3, 0⟩
def Fld.GRM_BANK_COLS_USED : Fld := ⟨.GRM_BANK, 5, 4⟩
def Fld.GRM_BANK_FACT_ROWS : Fld := ⟨.GRM_BANK, 9, 6⟩
def Fld.GRM_BANK_FACT_COLS : Fld := ⟨.GRM_BANK, 11, 10⟩
def Fld.GRM_BANK_UNREPAIRED : Fld := ⟨.GRM_BANK, 12, 12⟩
def Fld.GRM_BANK_MAPPED : Fld := ⟨.GRM_BANK, 13, 13⟩
def Fld.LFT_DESC_LOW_PA_LO : Fld := ⟨.LFT_DESC_LOW, 31, 5⟩
def Fld.LFT_DESC_HIGH_PA_HI : Fld := ⟨.LFT_DESC_HIGH, 7, 0⟩
def Fld.LFT_CTRL_RESUME : Fld := ⟨.LFT_CTRL, 0, 0⟩
def Fld.LFT_CTRL_ABORT : Fld := ⟨.LFT_CTRL, 1, 1⟩
def Fld.LFT_STATUS_STATE : Fld := ⟨.LFT_STATUS, 1, 0⟩
def Fld.LFT_STATUS_RING : Fld := ⟨.LFT_STATUS, 2, 2⟩
def Fld.LFT_STATUS_OWNER_CTX : Fld := ⟨.LFT_STATUS, 9, 8⟩
def Fld.LFT_STATUS_OWNER_MID : Fld := ⟨.LFT_STATUS, 23, 16⟩
def Fld.LFT_PROG_BYTES : Fld := ⟨.LFT_PROG, 23, 0⟩
def Fld.LFT_CUR_LOW_PA_LO : Fld := ⟨.LFT_CUR_LOW, 31, 5⟩
def Fld.LFT_CUR_HIGH_PA_HI : Fld := ⟨.LFT_CUR_HIGH, 7, 0⟩
def Fld.LFT_FLT_CODE : Fld := ⟨.LFT_FLT, 3, 0⟩
def Fld.LFT_FLT_SIDE : Fld := ⟨.LFT_FLT, 5, 4⟩
def Fld.LFT_FLT_VA_VA : Fld := ⟨.LFT_FLT_VA, 31, 0⟩
def Fld.LFT_CFG_PHYS_EN : Fld := ⟨.LFT_CFG, 7, 0⟩
def Fld.LFT_DROOT_LOW_PA_LO : Fld := ⟨.LFT_DROOT_LOW, 31, 12⟩
def Fld.LFT_DROOT_HIGH_PA_HI : Fld := ⟨.LFT_DROOT_HIGH, 7, 0⟩
def Fld.LFT_DROOT_HIGH_EN : Fld := ⟨.LFT_DROOT_HIGH, 8, 8⟩
def Fld.LFT_DONE_CNT_COUNT : Fld := ⟨.LFT_DONE_CNT, 31, 0⟩
def Fld.LFT_FAULT_CNT_COUNT : Fld := ⟨.LFT_FAULT_CNT, 31, 0⟩
def Fld.LFT_ABORT_CNT_COUNT : Fld := ⟨.LFT_ABORT_CNT, 31, 0⟩
def Fld.LFT_REFUSE_CNT_COUNT : Fld := ⟨.LFT_REFUSE_CNT, 31, 0⟩
def Fld.LFT_MISUSE_CNT_COUNT : Fld := ⟨.LFT_MISUSE_CNT, 31, 0⟩
def Fld.MBX_NOTICE_LOW_LO : Fld := ⟨.MBX_NOTICE_LOW, 31, 0⟩
def Fld.MBX_NOTICE_HIGH_HI : Fld := ⟨.MBX_NOTICE_HIGH, 31, 0⟩
def Fld.MBX_STATUS_FULL : Fld := ⟨.MBX_STATUS, 0, 0⟩
def Fld.MBX_STATUS_SENDER_CTX : Fld := ⟨.MBX_STATUS, 9, 8⟩
def Fld.MBX_STATUS_SENDER_MID : Fld := ⟨.MBX_STATUS, 23, 16⟩
def Fld.MBX_CFG_RECV_MID : Fld := ⟨.MBX_CFG, 7, 0⟩
def Fld.MBX_CFG_RECV_CTX : Fld := ⟨.MBX_CFG, 9, 8⟩
def Fld.MBX_CFG_TKN_TARGET : Fld := ⟨.MBX_CFG, 14, 10⟩
def Fld.MBX_CFG_TKN_BIT : Fld := ⟨.MBX_CFG, 19, 15⟩
def Fld.MBX_CFG_TKN_EN : Fld := ⟨.MBX_CFG, 20, 20⟩
def Fld.MBX_DB_BITS : Fld := ⟨.MBX_DB, 31, 0⟩
def Fld.MBX_DB_SET_BITS : Fld := ⟨.MBX_DB_SET, 31, 0⟩
def Fld.MBX_LOCK_OWNER : Fld := ⟨.MBX_LOCK, 7, 0⟩
def Fld.MBX_LOCK_HELD : Fld := ⟨.MBX_LOCK, 31, 31⟩
def Fld.MBX_LOCK_FORCE_LOCK : Fld := ⟨.MBX_LOCK_FORCE, 7, 0⟩
def Fld.MBX_FLUSH_MBOX : Fld := ⟨.MBX_FLUSH, 7, 0⟩
def Fld.MBX_POSTRES_RESULT : Fld := ⟨.MBX_POSTRES, 1, 0⟩
def Fld.MBX_POST_CNT_COUNT : Fld := ⟨.MBX_POST_CNT, 31, 0⟩
def Fld.MBX_POST_REFUSE_CNT_COUNT : Fld := ⟨.MBX_POST_REFUSE_CNT, 31, 0⟩
def Fld.MBX_DB_COAL_CNT_COUNT : Fld := ⟨.MBX_DB_COAL_CNT, 31, 0⟩
def Fld.MBX_LOCK_REFUSE_CNT_COUNT : Fld := ⟨.MBX_LOCK_REFUSE_CNT, 31, 0⟩
def Fld.MBX_FORCE_CNT_COUNT : Fld := ⟨.MBX_FORCE_CNT, 31, 0⟩
def Fld.MBX_MISUSE_CNT_COUNT : Fld := ⟨.MBX_MISUSE_CNT, 31, 0⟩
def Fld.MAC_CFG_EN_RX : Fld := ⟨.MAC_CFG, 0, 0⟩
def Fld.MAC_CFG_EN_TX : Fld := ⟨.MAC_CFG, 1, 1⟩
def Fld.MAC_CFG_LEN_CHK : Fld := ⟨.MAC_CFG, 2, 2⟩
def Fld.MAC_CFG_TB : Fld := ⟨.MAC_CFG, 5, 4⟩
def Fld.MAC_CFG_MAXLEN : Fld := ⟨.MAC_CFG, 29, 16⟩
def Fld.MAC_CTRL_RESET : Fld := ⟨.MAC_CTRL, 0, 0⟩
def Fld.MAC_STATUS_LINK : Fld := ⟨.MAC_STATUS, 0, 0⟩
def Fld.MAC_STATUS_SPEED : Fld := ⟨.MAC_STATUS, 3, 1⟩
def Fld.MAC_STATUS_RX_IDLE : Fld := ⟨.MAC_STATUS, 4, 4⟩
def Fld.MAC_STATUS_TX_IDLE : Fld := ⟨.MAC_STATUS, 5, 5⟩
def Fld.MAC_STATUS_PAUSED : Fld := ⟨.MAC_STATUS, 6, 6⟩
def Fld.MAC_STATUS_TRAV_ACTIVE : Fld := ⟨.MAC_STATUS, 7, 7⟩
def Fld.MAC_STATUS_PFC_PAUSED : Fld := ⟨.MAC_STATUS, 15, 8⟩
def Fld.MAC_LINK_DB_TARGET : Fld := ⟨.MAC_LINK_DB, 4, 0⟩
def Fld.MAC_LINK_DB_BIT : Fld := ⟨.MAC_LINK_DB, 9, 5⟩
def Fld.MAC_LINK_DB_EN : Fld := ⟨.MAC_LINK_DB, 10, 10⟩
def Fld.MAC_SA_LOW_SA_LO : Fld := ⟨.MAC_SA_LOW, 31, 0⟩
def Fld.MAC_SA_HIGH_SA_HI : Fld := ⟨.MAC_SA_HIGH, 15, 0⟩
def Fld.MAC_FC_CFG_MODE : Fld := ⟨.MAC_FC_CFG, 1, 0⟩
def Fld.MAC_FC_CFG_RX_EN : Fld := ⟨.MAC_FC_CFG, 2, 2⟩
def Fld.MAC_FC_CFG_EXEMPT : Fld := ⟨.MAC_FC_CFG, 15, 8⟩
def Fld.MAC_FC_TIME_QUANTA : Fld := ⟨.MAC_FC_TIME, 15, 0⟩
def Fld.MAC_FC_TIME_REFRESH : Fld := ⟨.MAC_FC_TIME, 31, 16⟩
def Fld.MAC_TRAV_EN : Fld := ⟨.MAC_TRAV, 0, 0⟩
def Fld.MAC_TRAV_LOOP_EN : Fld := ⟨.MAC_TRAV, 1, 1⟩
def Fld.MAC_TRAV_FCS_REGEN : Fld := ⟨.MAC_TRAV, 2, 2⟩
def Fld.MAC_TRAV_MID : Fld := ⟨.MAC_TRAV, 15, 8⟩
def Fld.MAC_TRAV_WIN : Fld := ⟨.MAC_TRAV, 19, 16⟩
def Fld.MAC_TRAV_JOB_WORD0 : Fld := ⟨.MAC_TRAV_JOB, 31, 0⟩
def Fld.MAC_PM_ADDR_LO_ADDR_LO : Fld := ⟨.MAC_PM_ADDR_LO, 31, 0⟩
def Fld.MAC_PM_CTL_ADDR_HI : Fld := ⟨.MAC_PM_CTL, 15, 0⟩
def Fld.MAC_PM_CTL_EN : Fld := ⟨.MAC_PM_CTL, 16, 16⟩
def Fld.MAC_PM_CTL_FWD : Fld := ⟨.MAC_PM_CTL, 17, 17⟩
def Fld.MAC_PM_CTL_RINK : Fld := ⟨.MAC_PM_CTL, 20, 18⟩
def Fld.MAC_PM_JOB0_WORD0 : Fld := ⟨.MAC_PM_JOB0, 31, 0⟩
def Fld.MAC_PM_TAG_TAG : Fld := ⟨.MAC_PM_TAG, 31, 0⟩
def Fld.MAC_SEC_CFG_EN : Fld := ⟨.MAC_SEC_CFG, 0, 0⟩
def Fld.MAC_SEC_CFG_CIPHER : Fld := ⟨.MAC_SEC_CFG, 1, 1⟩
def Fld.MAC_SEC_CFG_VALIDATE : Fld := ⟨.MAC_SEC_CFG, 3, 2⟩
def Fld.MAC_SEC_CFG_REPLAY_EN : Fld := ⟨.MAC_SEC_CFG, 4, 4⟩
def Fld.MAC_SEC_CFG_TX_AN : Fld := ⟨.MAC_SEC_CFG, 7, 6⟩
def Fld.MAC_SEC_WIN_WIN : Fld := ⟨.MAC_SEC_WIN, 31, 0⟩
def Fld.MAC_SEC_SCI_LOW_SCI_LO : Fld := ⟨.MAC_SEC_SCI_LOW, 31, 0⟩
def Fld.MAC_SEC_SCI_HIGH_SCI_HI : Fld := ⟨.MAC_SEC_SCI_HIGH, 31, 0⟩
def Fld.MAC_SEC_RXSCI_LOW_SCI_LO : Fld := ⟨.MAC_SEC_RXSCI_LOW, 31, 0⟩
def Fld.MAC_SEC_RXSCI_HIGH_SCI_HI : Fld := ⟨.MAC_SEC_RXSCI_HIGH, 31, 0⟩
def Fld.MAC_SEC_TXPN_LOW_PN_LO : Fld := ⟨.MAC_SEC_TXPN_LOW, 31, 0⟩
def Fld.MAC_SEC_TXPN_HIGH_PN_HI : Fld := ⟨.MAC_SEC_TXPN_HIGH, 31, 0⟩
def Fld.MAC_SEC_STATUS_KEY_VALID : Fld := ⟨.MAC_SEC_STATUS, 3, 0⟩
def Fld.MAC_SEC_STATUS_PN_NEAR : Fld := ⟨.MAC_SEC_STATUS, 4, 4⟩
def Fld.MAC_SEC_SSCI_SSCI : Fld := ⟨.MAC_SEC_SSCI, 31, 0⟩
def Fld.MAC_SEC_RXSSCI_SSCI : Fld := ⟨.MAC_SEC_RXSSCI, 31, 0⟩
def Fld.MAC_RX_OK_CNT_COUNT : Fld := ⟨.MAC_RX_OK_CNT, 31, 0⟩
def Fld.MAC_TX_OK_CNT_COUNT : Fld := ⟨.MAC_TX_OK_CNT, 31, 0⟩
def Fld.MAC_RUNT_CNT_COUNT : Fld := ⟨.MAC_RUNT_CNT, 31, 0⟩
def Fld.MAC_GIANT_CNT_COUNT : Fld := ⟨.MAC_GIANT_CNT, 31, 0⟩
def Fld.MAC_FCS_CNT_COUNT : Fld := ⟨.MAC_FCS_CNT, 31, 0⟩
def Fld.MAC_LEN_CNT_COUNT : Fld := ⟨.MAC_LEN_CNT, 31, 0⟩
def Fld.MAC_TX_GIANT_CNT_COUNT : Fld := ⟨.MAC_TX_GIANT_CNT, 31, 0⟩
def Fld.MAC_RX_PAUSE_CNT_COUNT : Fld := ⟨.MAC_RX_PAUSE_CNT, 31, 0⟩
def Fld.MAC_TX_PAUSE_CNT_COUNT : Fld := ⟨.MAC_TX_PAUSE_CNT, 31, 0⟩
def Fld.MAC_CTL_UNK_CNT_COUNT : Fld := ⟨.MAC_CTL_UNK_CNT, 31, 0⟩
def Fld.MAC_LINK_CHG_CNT_COUNT : Fld := ⟨.MAC_LINK_CHG_CNT, 31, 0⟩
def Fld.MAC_LOCAL_DROP_CNT_COUNT : Fld := ⟨.MAC_LOCAL_DROP_CNT, 31, 0⟩
def Fld.MAC_TRAV_BAD_CNT_COUNT : Fld := ⟨.MAC_TRAV_BAD_CNT, 31, 0⟩
def Fld.MAC_TRAV_LATE_CNT_COUNT : Fld := ⟨.MAC_TRAV_LATE_CNT, 31, 0⟩
def Fld.MAC_SEC_AUTH_CNT_COUNT : Fld := ⟨.MAC_SEC_AUTH_CNT, 31, 0⟩
def Fld.MAC_SEC_REPLAY_CNT_COUNT : Fld := ⟨.MAC_SEC_REPLAY_CNT, 31, 0⟩
def Fld.MAC_SEC_UNTAG_CNT_COUNT : Fld := ⟨.MAC_SEC_UNTAG_CNT, 31, 0⟩
def Fld.MAC_SEC_TXDROP_CNT_COUNT : Fld := ⟨.MAC_SEC_TXDROP_CNT, 31, 0⟩
def Fld.MAC_MISUSE_CNT_COUNT : Fld := ⟨.MAC_MISUSE_CNT, 31, 0⟩
def Fld.SDS_CFG_MODE : Fld := ⟨.SDS_CFG, 3, 0⟩
def Fld.SDS_CFG_REFSEL : Fld := ⟨.SDS_CFG, 4, 4⟩
def Fld.SDS_CFG_AN_EN : Fld := ⟨.SDS_CFG, 5, 5⟩
def Fld.SDS_CFG_TX_POL : Fld := ⟨.SDS_CFG, 6, 6⟩
def Fld.SDS_CFG_RX_POL : Fld := ⟨.SDS_CFG, 7, 7⟩
def Fld.SDS_CFG_TX_SWING : Fld := ⟨.SDS_CFG, 11, 8⟩
def Fld.SDS_CFG_TX_DEEMPH : Fld := ⟨.SDS_CFG, 15, 12⟩
def Fld.SDS_CFG_FEC : Fld := ⟨.SDS_CFG, 17, 16⟩
def Fld.SDS_CTRL_RESET : Fld := ⟨.SDS_CTRL, 0, 0⟩
def Fld.SDS_CTRL_LOOP : Fld := ⟨.SDS_CTRL, 1, 1⟩
def Fld.SDS_STATUS_LOCK : Fld := ⟨.SDS_STATUS, 0, 0⟩
def Fld.SDS_STATUS_SYNC : Fld := ⟨.SDS_STATUS, 1, 1⟩
def Fld.SDS_STATUS_AN_DONE : Fld := ⟨.SDS_STATUS, 2, 2⟩
def Fld.SDS_CODE_ERR_CNT_COUNT : Fld := ⟨.SDS_CODE_ERR_CNT, 31, 0⟩
def Fld.SDS_LOCK_LOSS_CNT_COUNT : Fld := ⟨.SDS_LOCK_LOSS_CNT, 31, 0⟩
def Fld.SDS_MISUSE_CNT_COUNT : Fld := ⟨.SDS_MISUSE_CNT, 31, 0⟩
def Fld.TPHY_CFG_AMP : Fld := ⟨.TPHY_CFG, 1, 0⟩
def Fld.TPHY_CFG_ROLE : Fld := ⟨.TPHY_CFG, 3, 2⟩
def Fld.TPHY_CFG_AN_EN : Fld := ⟨.TPHY_CFG, 4, 4⟩
def Fld.TPHY_CFG_EN : Fld := ⟨.TPHY_CFG, 5, 5⟩
def Fld.TPHY_CTRL_RESTART : Fld := ⟨.TPHY_CTRL, 0, 0⟩
def Fld.TPHY_STATUS_LINK : Fld := ⟨.TPHY_STATUS, 0, 0⟩
def Fld.TPHY_STATUS_AMP_ACTIVE : Fld := ⟨.TPHY_STATUS, 1, 1⟩
def Fld.TPHY_STATUS_ROLE_ACTIVE : Fld := ⟨.TPHY_STATUS, 2, 2⟩
def Fld.TPHY_STATUS_SQI : Fld := ⟨.TPHY_STATUS, 5, 3⟩
def Fld.TPHY_STATUS_AN_DONE : Fld := ⟨.TPHY_STATUS, 6, 6⟩
def Fld.TPHY_LINK_LOSS_CNT_COUNT : Fld := ⟨.TPHY_LINK_LOSS_CNT, 31, 0⟩
def Fld.TPHY_SYMERR_CNT_COUNT : Fld := ⟨.TPHY_SYMERR_CNT, 31, 0⟩
def Fld.TPHY_MISUSE_CNT_COUNT : Fld := ⟨.TPHY_MISUSE_CNT, 31, 0⟩
def Fld.SWC_CFG_SCHED : Fld := ⟨.SWC_CFG, 15, 8⟩
def Fld.SWC_CFG_DOWN_FLUSH_MS : Fld := ⟨.SWC_CFG, 31, 16⟩
def Fld.SWC_BUF_STATUS_TOTAL : Fld := ⟨.SWC_BUF_STATUS, 17, 0⟩
def Fld.SWC_POOL_SIZE_SIZE : Fld := ⟨.SWC_POOL_SIZE, 17, 0⟩
def Fld.SWC_POOL_FREE_FREE : Fld := ⟨.SWC_POOL_FREE, 17, 0⟩
def Fld.SWC_POOL_CFG_XOFF_FREE : Fld := ⟨.SWC_POOL_CFG, 15, 0⟩
def Fld.SWC_POOL_CFG_XON_FREE : Fld := ⟨.SWC_POOL_CFG, 31, 16⟩
def Fld.SWC_PCP_MAP_CLASS_0 : Fld := ⟨.SWC_PCP_MAP, 2, 0⟩
def Fld.SWC_PCP_MAP_CLASS_1 : Fld := ⟨.SWC_PCP_MAP, 5, 3⟩
def Fld.SWC_PCP_MAP_CLASS_2 : Fld := ⟨.SWC_PCP_MAP, 8, 6⟩
def Fld.SWC_PCP_MAP_CLASS_3 : Fld := ⟨.SWC_PCP_MAP, 11, 9⟩
def Fld.SWC_PCP_MAP_CLASS_4 : Fld := ⟨.SWC_PCP_MAP, 14, 12⟩
def Fld.SWC_PCP_MAP_CLASS_5 : Fld := ⟨.SWC_PCP_MAP, 17, 15⟩
def Fld.SWC_PCP_MAP_CLASS_6 : Fld := ⟨.SWC_PCP_MAP, 20, 18⟩
def Fld.SWC_PCP_MAP_CLASS_7 : Fld := ⟨.SWC_PCP_MAP, 23, 21⟩
def Fld.SWC_AGE_CFG_AGE_S : Fld := ⟨.SWC_AGE_CFG, 15, 0⟩
def Fld.SWC_AGE_CFG_CB_RESET_MS : Fld := ⟨.SWC_AGE_CFG, 31, 16⟩
def Fld.SWC_TXCFG_LEAD_NS : Fld := ⟨.SWC_TXCFG, 15, 0⟩
def Fld.SWC_TBL_CMD_TABLE : Fld := ⟨.SWC_TBL_CMD, 2, 0⟩
def Fld.SWC_TBL_CMD_OP : Fld := ⟨.SWC_TBL_CMD, 5, 3⟩
def Fld.SWC_TBL_CMD_INDEX : Fld := ⟨.SWC_TBL_CMD, 31, 16⟩
def Fld.SWC_TBL_STATUS_BUSY : Fld := ⟨.SWC_TBL_STATUS, 0, 0⟩
def Fld.SWC_TBL_STATUS_RESULT : Fld := ⟨.SWC_TBL_STATUS, 3, 1⟩
def Fld.SWC_TBL_STATUS_INDEX : Fld := ⟨.SWC_TBL_STATUS, 31, 16⟩
def Fld.SWC_TBL_DATA_DATA : Fld := ⟨.SWC_TBL_DATA, 31, 0⟩
def Fld.SWC_RED_PORT_A : Fld := ⟨.SWC_RED, 4, 0⟩
def Fld.SWC_RED_PORT_B : Fld := ⟨.SWC_RED, 9, 5⟩
def Fld.SWC_RED_MODE : Fld := ⟨.SWC_RED, 11, 10⟩
def Fld.SWC_RED_FORGET_MS : Fld := ⟨.SWC_RED, 31, 16⟩
def Fld.SWC_RED_SEQ_SEQ : Fld := ⟨.SWC_RED_SEQ, 15, 0⟩
def Fld.SWC_CAP_BASE_LOW_PA_LO : Fld := ⟨.SWC_CAP_BASE_LOW, 31, 3⟩
def Fld.SWC_CAP_BASE_HIGH_PA_HI : Fld := ⟨.SWC_CAP_BASE_HIGH, 7, 0⟩
def Fld.SWC_CAP_CFG_RECORDS : Fld := ⟨.SWC_CAP_CFG, 17, 0⟩
def Fld.SWC_CAP_CFG_EN : Fld := ⟨.SWC_CAP_CFG, 31, 31⟩
def Fld.SWC_CAP_WR_INDEX : Fld := ⟨.SWC_CAP_WR, 17, 0⟩
def Fld.SWC_CAP_RD_INDEX : Fld := ⟨.SWC_CAP_RD, 17, 0⟩
def Fld.SWC_CAP_DB_TARGET : Fld := ⟨.SWC_CAP_DB, 4, 0⟩
def Fld.SWC_CAP_DB_BIT : Fld := ⟨.SWC_CAP_DB, 9, 5⟩
def Fld.SWC_CAP_DB_EN : Fld := ⟨.SWC_CAP_DB, 10, 10⟩
def Fld.SWC_CAPR_PORT : Fld := ⟨.SWC_CAPR, 5, 0⟩
def Fld.SWC_CAPR_DIR : Fld := ⟨.SWC_CAPR, 7, 6⟩
def Fld.SWC_CAPR_CLASSES : Fld := ⟨.SWC_CAPR, 15, 8⟩
def Fld.SWC_CAPR_SAMPLE : Fld := ⟨.SWC_CAPR, 31, 16⟩
def Fld.SWC_CAPR_ETYPE_ETYPE : Fld := ⟨.SWC_CAPR_ETYPE, 15, 0⟩
def Fld.SWC_CAPR_ETYPE_ETYPE_EN : Fld := ⟨.SWC_CAPR_ETYPE, 16, 16⟩
def Fld.SWC_LEARN_CNT_COUNT : Fld := ⟨.SWC_LEARN_CNT, 31, 0⟩
def Fld.SWC_LEARN_FULL_CNT_COUNT : Fld := ⟨.SWC_LEARN_FULL_CNT, 31, 0⟩
def Fld.SWC_FLOOD_CNT_COUNT : Fld := ⟨.SWC_FLOOD_CNT, 31, 0⟩
def Fld.SWC_TBL_REFUSE_CNT_COUNT : Fld := ⟨.SWC_TBL_REFUSE_CNT, 31, 0⟩
def Fld.SWC_DUPTBL_OVF_CNT_COUNT : Fld := ⟨.SWC_DUPTBL_OVF_CNT, 31, 0⟩
def Fld.SWC_CAP_CNT_COUNT : Fld := ⟨.SWC_CAP_CNT, 31, 0⟩
def Fld.SWC_CAP_LOST_CNT_COUNT : Fld := ⟨.SWC_CAP_LOST_CNT, 31, 0⟩
def Fld.SWC_INJ_ERR_CNT_COUNT : Fld := ⟨.SWC_INJ_ERR_CNT, 31, 0⟩
def Fld.SWC_FREE_BAD_CNT_COUNT : Fld := ⟨.SWC_FREE_BAD_CNT, 31, 0⟩
def Fld.SWC_MISUSE_CNT_COUNT : Fld := ⟨.SWC_MISUSE_CNT, 31, 0⟩
def Fld.SWC_PORTCFG_GUAR_CELLS : Fld := ⟨.SWC_PORTCFG, 15, 0⟩
def Fld.SWC_PORTCFG_HDRM_CELLS : Fld := ⟨.SWC_PORTCFG, 31, 16⟩
def Fld.SWC_PORTTH_XOFF_CELLS : Fld := ⟨.SWC_PORTTH, 15, 0⟩
def Fld.SWC_PORTTH_XON_CELLS : Fld := ⟨.SWC_PORTTH, 31, 16⟩
def Fld.SWC_PORTRSV_SCHED_RSV : Fld := ⟨.SWC_PORTRSV, 15, 0⟩
def Fld.SWC_PORTRSV_MC_LIMIT : Fld := ⟨.SWC_PORTRSV, 31, 16⟩
def Fld.SWC_PORTMODE_STATE : Fld := ⟨.SWC_PORTMODE, 1, 0⟩
def Fld.SWC_PORTMODE_LEARN_EN : Fld := ⟨.SWC_PORTMODE, 2, 2⟩
def Fld.SWC_PORTMODE_FLOOD_EN : Fld := ⟨.SWC_PORTMODE, 3, 3⟩
def Fld.SWC_PORTMODE_ING_FILTER : Fld := ⟨.SWC_PORTMODE, 4, 4⟩
def Fld.SWC_PORTMODE_DEF_PCP : Fld := ⟨.SWC_PORTMODE, 7, 5⟩
def Fld.SWC_PORTMODE_PVID : Fld := ⟨.SWC_PORTMODE, 19, 8⟩
def Fld.SWC_PORTUSE_CELLS : Fld := ⟨.SWC_PORTUSE, 17, 0⟩
def Fld.SWC_PORTUSE2_HDRM_USED : Fld := ⟨.SWC_PORTUSE2, 15, 0⟩
def Fld.SWC_PORTUSE2_SCHED_USED : Fld := ⟨.SWC_PORTUSE2, 31, 16⟩
def Fld.SWC_PORTQ_EGR_CELLS : Fld := ⟨.SWC_PORTQ, 17, 0⟩
def Fld.SWC_PORTBP_XOFF : Fld := ⟨.SWC_PORTBP, 0, 0⟩
def Fld.SWC_PORTBP_XOFF_CLASS : Fld := ⟨.SWC_PORTBP, 15, 8⟩
def Fld.SWC_PORTBP_DOWN : Fld := ⟨.SWC_PORTBP, 16, 16⟩
def Fld.SWC_IPORT_HOLD_MAX : Fld := ⟨.SWC_IPORT, 15, 0⟩
def Fld.SWC_IPORT_MBOX : Fld := ⟨.SWC_IPORT, 23, 16⟩
def Fld.SWC_IPORT_MBOX_CNT : Fld := ⟨.SWC_IPORT, 27, 24⟩
def Fld.SWC_IJOB0_WORD0 : Fld := ⟨.SWC_IJOB0, 31, 0⟩
def Fld.SWC_IJOBTAG_TAG : Fld := ⟨.SWC_IJOBTAG, 31, 0⟩
def Fld.SWC_INJ_DB_TARGET : Fld := ⟨.SWC_INJ_DB, 4, 0⟩
def Fld.SWC_INJ_DB_BIT : Fld := ⟨.SWC_INJ_DB, 9, 5⟩
def Fld.SWC_IN_CNT_COUNT : Fld := ⟨.SWC_IN_CNT, 31, 0⟩
def Fld.SWC_OUT_CNT_COUNT : Fld := ⟨.SWC_OUT_CNT, 31, 0⟩
def Fld.SWC_SKIP_CNT_COUNT : Fld := ⟨.SWC_SKIP_CNT, 31, 0⟩
def Fld.SWC_MC_DROP_CNT_COUNT : Fld := ⟨.SWC_MC_DROP_CNT, 31, 0⟩
def Fld.SWC_SCHED_DROP_CNT_COUNT : Fld := ⟨.SWC_SCHED_DROP_CNT, 31, 0⟩
def Fld.SWC_HDRM_DROP_CNT_COUNT : Fld := ⟨.SWC_HDRM_DROP_CNT, 31, 0⟩
def Fld.SWC_POLICY_DROP_CNT_COUNT : Fld := ⟨.SWC_POLICY_DROP_CNT, 31, 0⟩
def Fld.SWC_SF_DROP_CNT_COUNT : Fld := ⟨.SWC_SF_DROP_CNT, 31, 0⟩
def Fld.SWC_DUP_CNT_COUNT : Fld := ⟨.SWC_DUP_CNT, 31, 0⟩
def Fld.SWC_XOFF_CNT_COUNT : Fld := ⟨.SWC_XOFF_CNT, 31, 0⟩
def Fld.SWC_FLUSH_CNT_COUNT : Fld := ⟨.SWC_FLUSH_CNT, 31, 0⟩
def Fld.SWC_GCL_OVERSIZE_CNT_COUNT : Fld := ⟨.SWC_GCL_OVERSIZE_CNT, 31, 0⟩
def Fld.SWC_TX_LATE_CNT_COUNT : Fld := ⟨.SWC_TX_LATE_CNT, 31, 0⟩
def Fld.SWC_CELL_UE_CNT_COUNT : Fld := ⟨.SWC_CELL_UE_CNT, 31, 0⟩
def Fld.SWC_GCL_SKIP_CNT_COUNT : Fld := ⟨.SWC_GCL_SKIP_CNT, 31, 0⟩
def Fld.SWC_INJ_REFUSE_CNT_COUNT : Fld := ⟨.SWC_INJ_REFUSE_CNT, 31, 0⟩
def Fld.SWC_GCL_CFG_EN : Fld := ⟨.SWC_GCL_CFG, 0, 0⟩
def Fld.SWC_GCL_CFG_TB : Fld := ⟨.SWC_GCL_CFG, 2, 1⟩
def Fld.SWC_GCL_CFG_CBS_EN : Fld := ⟨.SWC_GCL_CFG, 15, 8⟩
def Fld.SWC_GCL_STAT_OPER_BANK : Fld := ⟨.SWC_GCL_STAT, 0, 0⟩
def Fld.SWC_GCL_STAT_PENDING : Fld := ⟨.SWC_GCL_STAT, 1, 1⟩
def Fld.SWC_GCL_STAT_GATES : Fld := ⟨.SWC_GCL_STAT, 15, 8⟩
def Fld.SWC_GCL_STAT_ENTRY : Fld := ⟨.SWC_GCL_STAT, 21, 16⟩
def Fld.SWC_GCL_SW_BANK : Fld := ⟨.SWC_GCL_SW, 0, 0⟩
def Fld.SWC_GCL_CYCLE_NS : Fld := ⟨.SWC_GCL_CYCLE, 31, 0⟩
def Fld.SWC_GCL_BASE_NS : Fld := ⟨.SWC_GCL_BASE, 31, 0⟩
def Fld.SWC_GCL_LEN_LEN : Fld := ⟨.SWC_GCL_LEN, 6, 0⟩
def Fld.SWC_CBS_SLOPE_IDLE_KBPS : Fld := ⟨.SWC_CBS_SLOPE, 24, 0⟩
def Fld.SWC_CBS_LIM_HI_BYTES : Fld := ⟨.SWC_CBS_LIM, 15, 0⟩
def Fld.SWC_CBS_LIM_LO_BYTES : Fld := ⟨.SWC_CBS_LIM, 31, 16⟩
def Fld.SWC_GCE_INTERVAL_NS : Fld := ⟨.SWC_GCE, 23, 0⟩
def Fld.SWC_GCE_GATES_GATES : Fld := ⟨.SWC_GCE_GATES, 7, 0⟩
def Fld.SWC_FREE_CELL : Fld := ⟨.SWC_FREE, 26, 0⟩
def Fld.SWC_INJ_WORD : Fld := ⟨.SWC_INJ, 31, 0⟩
def Fld.SWC_INJRES_RESULT : Fld := ⟨.SWC_INJRES, 1, 0⟩
def Fld.TMU_TB_LOW_NS : Fld := ⟨.TMU_TB_LOW, 31, 0⟩
def Fld.TMU_TB_HIGH_FRAC : Fld := ⟨.TMU_TB_HIGH, 7, 0⟩
def Fld.TMU_TB_NOM_NOM : Fld := ⟨.TMU_TB_NOM, 31, 0⟩
def Fld.TMU_TB_INCR_INCR : Fld := ⟨.TMU_TB_INCR, 31, 0⟩
def Fld.TMU_TB_STEP_LOW_NS : Fld := ⟨.TMU_TB_STEP_LOW, 31, 0⟩
def Fld.TMU_TB_STEP_HIGH_FRAC : Fld := ⟨.TMU_TB_STEP_HIGH, 7, 0⟩
def Fld.TMU_TB_OFS_THETA : Fld := ⟨.TMU_TB_OFS, 31, 0⟩
def Fld.TMU_SRV_CFG_EN : Fld := ⟨.TMU_SRV_CFG, 0, 0⟩
def Fld.TMU_SRV_CFG_SRC : Fld := ⟨.TMU_SRV_CFG, 3, 1⟩
def Fld.TMU_SRV_CFG_PPS_IN : Fld := ⟨.TMU_SRV_CFG, 5, 4⟩
def Fld.TMU_SRV_CFG_STEP_EN : Fld := ⟨.TMU_SRV_CFG, 6, 6⟩
def Fld.TMU_SRV_CFG_HOLD_MS : Fld := ⟨.TMU_SRV_CFG, 31, 16⟩
def Fld.TMU_SRV_KP_M : Fld := ⟨.TMU_SRV_KP, 15, 0⟩
def Fld.TMU_SRV_KP_S : Fld := ⟨.TMU_SRV_KP, 20, 16⟩
def Fld.TMU_SRV_KI_M : Fld := ⟨.TMU_SRV_KI, 15, 0⟩
def Fld.TMU_SRV_KI_S : Fld := ⟨.TMU_SRV_KI, 20, 16⟩
def Fld.TMU_SRV_LIM_LIM : Fld := ⟨.TMU_SRV_LIM, 23, 0⟩
def Fld.TMU_SRV_THR_LOCK_THR : Fld := ⟨.TMU_SRV_THR, 15, 0⟩
def Fld.TMU_SRV_THR_STEP_THR : Fld := ⟨.TMU_SRV_THR, 31, 16⟩
def Fld.TMU_SRV_STAT_STATE : Fld := ⟨.TMU_SRV_STAT, 1, 0⟩
def Fld.TMU_SRV_STAT_GOOD : Fld := ⟨.TMU_SRV_STAT, 5, 2⟩
def Fld.TMU_SRV_LAST_THETA : Fld := ⟨.TMU_SRV_LAST, 31, 0⟩
def Fld.TMU_SRV_INTEG_INTEG : Fld := ⟨.TMU_SRV_INTEG, 31, 0⟩
def Fld.TMU_TB_DB_TARGET : Fld := ⟨.TMU_TB_DB, 4, 0⟩
def Fld.TMU_TB_DB_BIT : Fld := ⟨.TMU_TB_DB, 9, 5⟩
def Fld.TMU_TB_DB_EV_WRAP : Fld := ⟨.TMU_TB_DB, 10, 10⟩
def Fld.TMU_TB_DB_EV_STEP : Fld := ⟨.TMU_TB_DB, 11, 11⟩
def Fld.TMU_TB_DB_EV_LOCK : Fld := ⟨.TMU_TB_DB, 12, 12⟩
def Fld.TMU_TB_PPSEXP_NS : Fld := ⟨.TMU_TB_PPSEXP, 31, 0⟩
def Fld.TMU_TB_PPSPER_NS : Fld := ⟨.TMU_TB_PPSPER, 31, 0⟩
def Fld.TMU_TB_PTP_DOMAIN : Fld := ⟨.TMU_TB_PTP, 7, 0⟩
def Fld.TMU_TB_PTP_SDOID : Fld := ⟨.TMU_TB_PTP, 11, 8⟩
def Fld.TMU_TB_PTP_ANY : Fld := ⟨.TMU_TB_PTP, 12, 12⟩
def Fld.TMU_SAMPLE_CNT_COUNT : Fld := ⟨.TMU_SAMPLE_CNT, 31, 0⟩
def Fld.TMU_STEP_CNT_COUNT : Fld := ⟨.TMU_STEP_CNT, 31, 0⟩
def Fld.TMU_OUTLIER_CNT_COUNT : Fld := ⟨.TMU_OUTLIER_CNT, 31, 0⟩
def Fld.TMU_CLAMP_CNT_COUNT : Fld := ⟨.TMU_CLAMP_CNT, 31, 0⟩
def Fld.TMU_OFS_REFUSE_CNT_COUNT : Fld := ⟨.TMU_OFS_REFUSE_CNT, 31, 0⟩
def Fld.TMU_EVT_CFG_EDGE : Fld := ⟨.TMU_EVT_CFG, 1, 0⟩
def Fld.TMU_EVT_CFG_TB : Fld := ⟨.TMU_EVT_CFG, 3, 2⟩
def Fld.TMU_EVT_CFG_MINW : Fld := ⟨.TMU_EVT_CFG, 15, 8⟩
def Fld.TMU_EVT_CFG_TARGET : Fld := ⟨.TMU_EVT_CFG, 20, 16⟩
def Fld.TMU_EVT_CFG_BIT : Fld := ⟨.TMU_EVT_CFG, 25, 21⟩
def Fld.TMU_EVT_CFG_DB_EN : Fld := ⟨.TMU_EVT_CFG, 26, 26⟩
def Fld.TMU_EVT_LOW_NS : Fld := ⟨.TMU_EVT_LOW, 31, 0⟩
def Fld.TMU_EVT_HIGH_FRAC : Fld := ⟨.TMU_EVT_HIGH, 7, 0⟩
def Fld.TMU_EVT_HIGH_RISE : Fld := ⟨.TMU_EVT_HIGH, 8, 8⟩
def Fld.TMU_EVT_HIGH_VALID : Fld := ⟨.TMU_EVT_HIGH, 31, 31⟩
def Fld.TMU_EVT_OVF_CNT_COUNT : Fld := ⟨.TMU_EVT_OVF_CNT, 31, 0⟩
def Fld.TMU_OUT_CFG_EN : Fld := ⟨.TMU_OUT_CFG, 0, 0⟩
def Fld.TMU_OUT_CFG_TB : Fld := ⟨.TMU_OUT_CFG, 2, 1⟩
def Fld.TMU_OUT_CFG_POL : Fld := ⟨.TMU_OUT_CFG, 3, 3⟩
def Fld.TMU_OUT_START_NS : Fld := ⟨.TMU_OUT_START, 31, 0⟩
def Fld.TMU_OUT_PER_NS : Fld := ⟨.TMU_OUT_PER, 31, 0⟩
def Fld.TMU_OUT_PERF_FRAC : Fld := ⟨.TMU_OUT_PERF, 7, 0⟩
def Fld.TMU_OUT_HIGH_NS : Fld := ⟨.TMU_OUT_HIGH, 31, 0⟩
def Fld.TMU_OUT_SKIP_CNT_COUNT : Fld := ⟨.TMU_OUT_SKIP_CNT, 31, 0⟩
def Fld.TMU_TXTS_LOW_NS : Fld := ⟨.TMU_TXTS_LOW, 31, 0⟩
def Fld.TMU_TXTS_HIGH_ID : Fld := ⟨.TMU_TXTS_HIGH, 15, 0⟩
def Fld.TMU_TXTS_HIGH_FRAC : Fld := ⟨.TMU_TXTS_HIGH, 23, 16⟩
def Fld.TMU_TXTS_HIGH_TB : Fld := ⟨.TMU_TXTS_HIGH, 25, 24⟩
def Fld.TMU_TXTS_HIGH_NOTSENT : Fld := ⟨.TMU_TXTS_HIGH, 26, 26⟩
def Fld.TMU_TXTS_HIGH_VALID : Fld := ⟨.TMU_TXTS_HIGH, 31, 31⟩
def Fld.TMU_TXTS_CFG_TARGET : Fld := ⟨.TMU_TXTS_CFG, 4, 0⟩
def Fld.TMU_TXTS_CFG_BIT : Fld := ⟨.TMU_TXTS_CFG, 9, 5⟩
def Fld.TMU_TXTS_CFG_DB_EN : Fld := ⟨.TMU_TXTS_CFG, 10, 10⟩
def Fld.TMU_TXTS_CFG_LEVEL : Fld := ⟨.TMU_TXTS_CFG, 22, 16⟩
def Fld.TMU_TXTS_OVF_CNT_COUNT : Fld := ⟨.TMU_TXTS_OVF_CNT, 31, 0⟩
def Fld.TMU_PORT_LAT_ING_LAT : Fld := ⟨.TMU_PORT_LAT, 15, 0⟩
def Fld.TMU_PORT_LAT_EGR_LAT : Fld := ⟨.TMU_PORT_LAT, 31, 16⟩
def Fld.TMU_PORT_TC_MODE : Fld := ⟨.TMU_PORT_TC, 1, 0⟩
def Fld.TMU_PORT_TC_IPV4_EN : Fld := ⟨.TMU_PORT_TC, 2, 2⟩
def Fld.TMU_PORT_LINKDLY_DLY : Fld := ⟨.TMU_PORT_LINKDLY, 31, 0⟩
def Fld.TMU_STATUS_PLL_LOCK : Fld := ⟨.TMU_STATUS, 0, 0⟩
def Fld.TMU_STATUS_DESKEW_DONE : Fld := ⟨.TMU_STATUS, 1, 1⟩
def Fld.TMU_STATUS_REF10_PRESENT : Fld := ⟨.TMU_STATUS, 2, 2⟩
def Fld.TMU_REF10_ERR_ERR : Fld := ⟨.TMU_REF10_ERR, 31, 0⟩
def Fld.TMU_TC_SKIP_CNT_COUNT : Fld := ⟨.TMU_TC_SKIP_CNT, 31, 0⟩
def Fld.TMU_MISUSE_CNT_COUNT : Fld := ⟨.TMU_MISUSE_CNT, 31, 0⟩
def Fld.SLM_CFG_EN : Fld := ⟨.SLM_CFG, 0, 0⟩
def Fld.SLM_CFG_COLD_EN : Fld := ⟨.SLM_CFG, 1, 1⟩
def Fld.SLM_CFG_SYNC_IN : Fld := ⟨.SLM_CFG, 2, 2⟩
def Fld.SLM_CFG_HOLD_TX : Fld := ⟨.SLM_CFG, 3, 3⟩
def Fld.SLM_CFG_TB : Fld := ⟨.SLM_CFG, 5, 4⟩
def Fld.SLM_CFG_PORT_A : Fld := ⟨.SLM_CFG, 10, 6⟩
def Fld.SLM_CFG_PORT_B : Fld := ⟨.SLM_CFG, 15, 11⟩
def Fld.SLM_CFG_HOPS : Fld := ⟨.SLM_CFG, 21, 16⟩
def Fld.SLM_NODE_NODE : Fld := ⟨.SLM_NODE, 10, 0⟩
def Fld.SLM_VLAN_VID : Fld := ⟨.SLM_VLAN, 11, 0⟩
def Fld.SLM_VLAN_PCP : Fld := ⟨.SLM_VLAN, 15, 13⟩
def Fld.SLM_VLAN_ETYPE : Fld := ⟨.SLM_VLAN, 31, 16⟩
def Fld.SLM_DA_LOW_DA_LO : Fld := ⟨.SLM_DA_LOW, 31, 0⟩
def Fld.SLM_DA_HIGH_DA_HI : Fld := ⟨.SLM_DA_HIGH, 15, 0⟩
def Fld.SLM_RXWIN_WIN_NS : Fld := ⟨.SLM_RXWIN, 15, 0⟩
def Fld.SLM_RXWIN_PREC_NS : Fld := ⟨.SLM_RXWIN, 31, 16⟩
def Fld.SLM_SYNC_K : Fld := ⟨.SLM_SYNC, 1, 0⟩
def Fld.SLM_SYNC_MIN_FRAMES : Fld := ⟨.SLM_SYNC, 13, 8⟩
def Fld.SLM_SYNC_LOSS_CYCLES : Fld := ⟨.SLM_SYNC, 23, 16⟩
def Fld.SLM_LISTEN_LSTEP_US : Fld := ⟨.SLM_LISTEN, 19, 0⟩
def Fld.SLM_STATUS_STATE : Fld := ⟨.SLM_STATUS, 2, 0⟩
def Fld.SLM_STATUS_OPER_BANK : Fld := ⟨.SLM_STATUS, 3, 3⟩
def Fld.SLM_STATUS_PENDING : Fld := ⟨.SLM_STATUS, 4, 4⟩
def Fld.SLM_STATUS_MUTE_CAUSE : Fld := ⟨.SLM_STATUS, 6, 5⟩
def Fld.SLM_STATUS_ATTEMPT : Fld := ⟨.SLM_STATUS, 11, 8⟩
def Fld.SLM_STATUS_CYCLE : Fld := ⟨.SLM_STATUS, 31, 16⟩
def Fld.SLM_THETA_THETA : Fld := ⟨.SLM_THETA, 31, 0⟩
def Fld.SLM_SYNC_STAT_USED : Fld := ⟨.SLM_SYNC_STAT, 5, 0⟩
def Fld.SLM_SYNC_STAT_SEEN : Fld := ⟨.SLM_SYNC_STAT, 13, 8⟩
def Fld.SLM_CSTART_NS : Fld := ⟨.SLM_CSTART, 31, 0⟩
def Fld.SLM_SW_BANK : Fld := ⟨.SLM_SW, 0, 0⟩
def Fld.SLM_SW_AT_CYCLE : Fld := ⟨.SLM_SW, 31, 16⟩
def Fld.SLM_DB_TARGET : Fld := ⟨.SLM_DB, 4, 0⟩
def Fld.SLM_DB_BIT : Fld := ⟨.SLM_DB, 9, 5⟩
def Fld.SLM_DB_EV_STATE : Fld := ⟨.SLM_DB, 10, 10⟩
def Fld.SLM_DB_EV_CYCLE : Fld := ⟨.SLM_DB, 11, 11⟩
def Fld.SLM_RXJOB0_WORD0 : Fld := ⟨.SLM_RXJOB0, 31, 0⟩
def Fld.SLM_DCB_BASE_LOW_PA_LO : Fld := ⟨.SLM_DCB_BASE_LOW, 31, 6⟩
def Fld.SLM_DCB_BASE_HIGH_PA_HI : Fld := ⟨.SLM_DCB_BASE_HIGH, 7, 0⟩
def Fld.SLM_DCB_CFG_STRIDE : Fld := ⟨.SLM_DCB_CFG, 15, 0⟩
def Fld.SLM_BANK_CYCLE_CYCLE_NS : Fld := ⟨.SLM_BANK_CYCLE, 29, 0⟩
def Fld.SLM_BANK_INFO_GATES : Fld := ⟨.SLM_BANK_INFO, 8, 0⟩
def Fld.SLM_BANK_INFO_SCHED_ID : Fld := ⟨.SLM_BANK_INFO, 22, 16⟩
def Fld.SLM_BANK_SYNC_SYNC_POINT_NS : Fld := ⟨.SLM_BANK_SYNC, 31, 0⟩
def Fld.SLM_GATE_W0_NODE : Fld := ⟨.SLM_GATE_W0, 10, 0⟩
def Fld.SLM_GATE_W0_SYNC : Fld := ⟨.SLM_GATE_W0, 11, 11⟩
def Fld.SLM_GATE_W0_RX_EN : Fld := ⟨.SLM_GATE_W0, 12, 12⟩
def Fld.SLM_GATE_W0_FRESH : Fld := ⟨.SLM_GATE_W0, 13, 13⟩
def Fld.SLM_GATE_W0_KIND : Fld := ⟨.SLM_GATE_W0, 14, 14⟩
def Fld.SLM_GATE_W0_JOB : Fld := ⟨.SLM_GATE_W0, 15, 15⟩
def Fld.SLM_GATE_W0_LEN : Fld := ⟨.SLM_GATE_W0, 26, 16⟩
def Fld.SLM_GATE_OFF_A_NS : Fld := ⟨.SLM_GATE_OFF_A, 31, 0⟩
def Fld.SLM_GATE_OFF_B_NS : Fld := ⟨.SLM_GATE_OFF_B, 31, 0⟩
def Fld.SLM_GATE_W3_BUF : Fld := ⟨.SLM_GATE_W3, 11, 0⟩
def Fld.SLM_DCB_WBUF : Fld := ⟨.SLM_DCB, 1, 0⟩
def Fld.SLM_DCB_NBUF : Fld := ⟨.SLM_DCB, 3, 2⟩
def Fld.SLM_DCB_RBUF : Fld := ⟨.SLM_DCB, 5, 4⟩
def Fld.SLM_DCB_NEW : Fld := ⟨.SLM_DCB, 6, 6⟩
def Fld.SLM_DCB_VALID : Fld := ⟨.SLM_DCB, 7, 7⟩
def Fld.SLM_DCB_CMD_COMMIT : Fld := ⟨.SLM_DCB_CMD, 0, 0⟩
def Fld.SLM_DCB_CMD_TAKE : Fld := ⟨.SLM_DCB_CMD, 1, 1⟩
def Fld.SLM_TX_CNT_COUNT : Fld := ⟨.SLM_TX_CNT, 31, 0⟩
def Fld.SLM_NULL_TX_CNT_COUNT : Fld := ⟨.SLM_NULL_TX_CNT, 31, 0⟩
def Fld.SLM_TX_LATE_CNT_COUNT : Fld := ⟨.SLM_TX_LATE_CNT, 31, 0⟩
def Fld.SLM_RX_OK_CNT_COUNT : Fld := ⟨.SLM_RX_OK_CNT, 31, 0⟩
def Fld.SLM_NULL_RX_CNT_COUNT : Fld := ⟨.SLM_NULL_RX_CNT, 31, 0⟩
def Fld.SLM_FWD_CNT_COUNT : Fld := ⟨.SLM_FWD_CNT, 31, 0⟩
def Fld.SLM_DUP_CNT_COUNT : Fld := ⟨.SLM_DUP_CNT, 31, 0⟩
def Fld.SLM_EARLY_CNT_COUNT : Fld := ⟨.SLM_EARLY_CNT, 31, 0⟩
def Fld.SLM_LATE_CNT_COUNT : Fld := ⟨.SLM_LATE_CNT, 31, 0⟩
def Fld.SLM_FORMAT_CNT_COUNT : Fld := ⟨.SLM_FORMAT_CNT, 31, 0⟩
def Fld.SLM_SCHED_CNT_COUNT : Fld := ⟨.SLM_SCHED_CNT, 31, 0⟩
def Fld.SLM_GATE_CNT_COUNT : Fld := ⟨.SLM_GATE_CNT, 31, 0⟩
def Fld.SLM_CYCLE_CNT_COUNT : Fld := ⟨.SLM_CYCLE_CNT, 31, 0⟩
def Fld.SLM_CLASH_CNT_COUNT : Fld := ⟨.SLM_CLASH_CNT, 31, 0⟩
def Fld.SLM_COLD_RX_CNT_COUNT : Fld := ⟨.SLM_COLD_RX_CNT, 31, 0⟩
def Fld.SLM_SYNC_LOW_CNT_COUNT : Fld := ⟨.SLM_SYNC_LOW_CNT, 31, 0⟩
def Fld.SLM_MUTE_CNT_COUNT : Fld := ⟨.SLM_MUTE_CNT, 31, 0⟩
def Fld.SLM_COLLIDE_CNT_COUNT : Fld := ⟨.SLM_COLLIDE_CNT, 31, 0⟩
def Fld.SLM_SW_REFUSE_CNT_COUNT : Fld := ⟨.SLM_SW_REFUSE_CNT, 31, 0⟩
def Fld.SLM_JOB_DROP_CNT_COUNT : Fld := ⟨.SLM_JOB_DROP_CNT, 31, 0⟩
def Fld.SLM_MISUSE_CNT_COUNT : Fld := ⟨.SLM_MISUSE_CNT, 31, 0⟩
def Fld.CAN_CFG_EN : Fld := ⟨.CAN_CFG, 0, 0⟩
def Fld.CAN_CFG_MODE : Fld := ⟨.CAN_CFG, 2, 1⟩
def Fld.CAN_CFG_FD_EN : Fld := ⟨.CAN_CFG, 3, 3⟩
def Fld.CAN_CFG_PXE_EN : Fld := ⟨.CAN_CFG, 4, 4⟩
def Fld.CAN_CFG_ONESHOT : Fld := ⟨.CAN_CFG, 5, 5⟩
def Fld.CAN_CFG_TXECHO : Fld := ⟨.CAN_CFG, 6, 6⟩
def Fld.CAN_CFG_HOLD_TX : Fld := ⟨.CAN_CFG, 7, 7⟩
def Fld.CAN_CFG_TB : Fld := ⟨.CAN_CFG, 9, 8⟩
def Fld.CAN_CTRL_RECOVER : Fld := ⟨.CAN_CTRL, 0, 0⟩
def Fld.CAN_ARB_TIMING_SEG_A : Fld := ⟨.CAN_ARB_TIMING, 7, 0⟩
def Fld.CAN_ARB_TIMING_SEG_B : Fld := ⟨.CAN_ARB_TIMING, 14, 8⟩
def Fld.CAN_ARB_TIMING_JUMP : Fld := ⟨.CAN_ARB_TIMING, 22, 16⟩
def Fld.CAN_ARB_TIMING_PRESC : Fld := ⟨.CAN_ARB_TIMING, 31, 24⟩
def Fld.CAN_FAST_TIMING_FSEG_A : Fld := ⟨.CAN_FAST_TIMING, 4, 0⟩
def Fld.CAN_FAST_TIMING_FSEG_B : Fld := ⟨.CAN_FAST_TIMING, 11, 8⟩
def Fld.CAN_FAST_TIMING_FJUMP : Fld := ⟨.CAN_FAST_TIMING, 15, 12⟩
def Fld.CAN_FAST_TIMING_FPRESC : Fld := ⟨.CAN_FAST_TIMING, 20, 16⟩
def Fld.CAN_SSP_EN : Fld := ⟨.CAN_SSP, 0, 0⟩
def Fld.CAN_SSP_OFS : Fld := ⟨.CAN_SSP, 14, 8⟩
def Fld.CAN_SSP_MEAS : Fld := ⟨.CAN_SSP, 22, 16⟩
def Fld.CAN_LAT_RX_NS : Fld := ⟨.CAN_LAT, 15, 0⟩
def Fld.CAN_STATUS_STATE : Fld := ⟨.CAN_STATUS, 2, 0⟩
def Fld.CAN_STATUS_BUSY : Fld := ⟨.CAN_STATUS, 3, 3⟩
def Fld.CAN_STATUS_TEC : Fld := ⟨.CAN_STATUS, 16, 8⟩
def Fld.CAN_STATUS_REC : Fld := ⟨.CAN_STATUS, 24, 17⟩
def Fld.CAN_DB_TARGET : Fld := ⟨.CAN_DB, 4, 0⟩
def Fld.CAN_DB_BIT : Fld := ⟨.CAN_DB, 9, 5⟩
def Fld.CAN_DB_EV_RX : Fld := ⟨.CAN_DB, 10, 10⟩
def Fld.CAN_DB_EV_TX : Fld := ⟨.CAN_DB, 11, 11⟩
def Fld.CAN_DB_EV_STATE : Fld := ⟨.CAN_DB, 12, 12⟩
def Fld.CAN_RING_BASE_LOW_PA_LO : Fld := ⟨.CAN_RING_BASE_LOW, 31, 4⟩
def Fld.CAN_RING_BASE_HIGH_PA_HI : Fld := ⟨.CAN_RING_BASE_HIGH, 7, 0⟩
def Fld.CAN_RING_CFG_SIZE_M1 : Fld := ⟨.CAN_RING_CFG, 15, 0⟩
def Fld.CAN_RING_CFG_JOB_EN : Fld := ⟨.CAN_RING_CFG, 30, 30⟩
def Fld.CAN_RING_CFG_EN : Fld := ⟨.CAN_RING_CFG, 31, 31⟩
def Fld.CAN_RING_WR_INDEX : Fld := ⟨.CAN_RING_WR, 15, 0⟩
def Fld.CAN_RING_RD_INDEX : Fld := ⟨.CAN_RING_RD, 15, 0⟩
def Fld.CAN_RXJOB0_WORD0 : Fld := ⟨.CAN_RXJOB0, 31, 0⟩
def Fld.CAN_TXREQ_REQ : Fld := ⟨.CAN_TXREQ, 31, 0⟩
def Fld.CAN_TXCANCEL_CANCEL : Fld := ⟨.CAN_TXCANCEL, 31, 0⟩
def Fld.CAN_TXDONE_DONE : Fld := ⟨.CAN_TXDONE, 31, 0⟩
def Fld.CAN_TXMISS_MISS : Fld := ⟨.CAN_TXMISS, 31, 0⟩
def Fld.CAN_MX_CFG_EN : Fld := ⟨.CAN_MX_CFG, 0, 0⟩
def Fld.CAN_MX_CFG_CYC_LOG2 : Fld := ⟨.CAN_MX_CFG, 3, 1⟩
def Fld.CAN_MX_CFG_COLS : Fld := ⟨.CAN_MX_CFG, 13, 8⟩
def Fld.CAN_MX_CFG_SLACK_NS : Fld := ⟨.CAN_MX_CFG, 31, 16⟩
def Fld.CAN_MX_BASE_NS : Fld := ⟨.CAN_MX_BASE, 31, 0⟩
def Fld.CAN_MX_BC_BC_NS : Fld := ⟨.CAN_MX_BC, 31, 0⟩
def Fld.CAN_MX_STAT_BC : Fld := ⟨.CAN_MX_STAT, 5, 0⟩
def Fld.CAN_MX_STAT_COL : Fld := ⟨.CAN_MX_STAT, 12, 8⟩
def Fld.CAN_MX_STAT_INWIN : Fld := ⟨.CAN_MX_STAT, 13, 13⟩
def Fld.CAN_MX_START_NS : Fld := ⟨.CAN_MX_START, 31, 0⟩
def Fld.CAN_MX_LEN_NS : Fld := ⟨.CAN_MX_LEN, 31, 0⟩
def Fld.CAN_MX_CELL_CELLS : Fld := ⟨.CAN_MX_CELL, 31, 0⟩
def Fld.CAN_RX_OK_CNT_COUNT : Fld := ⟨.CAN_RX_OK_CNT, 31, 0⟩
def Fld.CAN_TX_OK_CNT_COUNT : Fld := ⟨.CAN_TX_OK_CNT, 31, 0⟩
def Fld.CAN_RX_OVF_CNT_COUNT : Fld := ⟨.CAN_RX_OVF_CNT, 31, 0⟩
def Fld.CAN_JOB_DROP_CNT_COUNT : Fld := ⟨.CAN_JOB_DROP_CNT, 31, 0⟩
def Fld.CAN_ARB_LOST_CNT_COUNT : Fld := ⟨.CAN_ARB_LOST_CNT, 31, 0⟩
def Fld.CAN_BIT_ERR_CNT_COUNT : Fld := ⟨.CAN_BIT_ERR_CNT, 31, 0⟩
def Fld.CAN_STUFF_ERR_CNT_COUNT : Fld := ⟨.CAN_STUFF_ERR_CNT, 31, 0⟩
def Fld.CAN_FORM_ERR_CNT_COUNT : Fld := ⟨.CAN_FORM_ERR_CNT, 31, 0⟩
def Fld.CAN_CRC_ERR_CNT_COUNT : Fld := ⟨.CAN_CRC_ERR_CNT, 31, 0⟩
def Fld.CAN_ACK_ERR_CNT_COUNT : Fld := ⟨.CAN_ACK_ERR_CNT, 31, 0⟩
def Fld.CAN_PXE_CNT_COUNT : Fld := ⟨.CAN_PXE_CNT, 31, 0⟩
def Fld.CAN_BUSOFF_CNT_COUNT : Fld := ⟨.CAN_BUSOFF_CNT, 31, 0⟩
def Fld.CAN_MISSED_CNT_COUNT : Fld := ⟨.CAN_MISSED_CNT, 31, 0⟩
def Fld.CAN_MX_SKIP_CNT_COUNT : Fld := ⟨.CAN_MX_SKIP_CNT, 31, 0⟩
def Fld.CAN_TX_REFUSE_CNT_COUNT : Fld := ⟨.CAN_TX_REFUSE_CNT, 31, 0⟩
def Fld.CAN_MISUSE_CNT_COUNT : Fld := ⟨.CAN_MISUSE_CNT, 31, 0⟩
def Fld.BLD_GCFG_HOLD_RUN : Fld := ⟨.BLD_GCFG, 0, 0⟩
def Fld.BLD_CTRL_EN : Fld := ⟨.BLD_CTRL, 3, 0⟩
def Fld.BLD_RESTART_MASK : Fld := ⟨.BLD_RESTART, 3, 0⟩
def Fld.BLD_RESTART_TIMED : Fld := ⟨.BLD_RESTART, 4, 4⟩
def Fld.BLD_RESTART_TB : Fld := ⟨.BLD_RESTART, 6, 5⟩
def Fld.BLD_RESTART_T_NS : Fld := ⟨.BLD_RESTART_T, 31, 0⟩
def Fld.BLD_RESTART_STAT_PENDING : Fld := ⟨.BLD_RESTART_STAT, 0, 0⟩
def Fld.BLD_RESTART_STAT_MASK : Fld := ⟨.BLD_RESTART_STAT, 7, 4⟩
def Fld.BLD_FLAGS_FLAG : Fld := ⟨.BLD_FLAGS, 7, 0⟩
def Fld.BLD_FLAGS_SET_FLAG : Fld := ⟨.BLD_FLAGS_SET, 7, 0⟩
def Fld.BLD_JOB0_WORD0 : Fld := ⟨.BLD_JOB0, 31, 0⟩
def Fld.BLD_FLAG_CFG_TARGET : Fld := ⟨.BLD_FLAG_CFG, 4, 0⟩
def Fld.BLD_FLAG_CFG_BIT : Fld := ⟨.BLD_FLAG_CFG, 9, 5⟩
def Fld.BLD_FLAG_CFG_DB_EN : Fld := ⟨.BLD_FLAG_CFG, 10, 10⟩
def Fld.BLD_FLAG_CFG_JOB_EN : Fld := ⟨.BLD_FLAG_CFG, 11, 11⟩
def Fld.BLD_PINSTATE_LEVEL : Fld := ⟨.BLD_PINSTATE, 7, 0⟩
def Fld.BLD_PINSTATE_DRIVE : Fld := ⟨.BLD_PINSTATE, 15, 8⟩
def Fld.BLD_PROG_WORD : Fld := ⟨.BLD_PROG, 15, 0⟩
def Fld.BLD_ILLEGAL_CNT_COUNT : Fld := ⟨.BLD_ILLEGAL_CNT, 31, 0⟩
def Fld.BLD_ILLEGAL_PC_PC : Fld := ⟨.BLD_ILLEGAL_PC, 5, 0⟩
def Fld.BLD_ILLEGAL_PC_BLADE : Fld := ⟨.BLD_ILLEGAL_PC, 7, 6⟩
def Fld.BLD_JOB_DROP_CNT_COUNT : Fld := ⟨.BLD_JOB_DROP_CNT, 31, 0⟩
def Fld.BLD_MISUSE_CNT_COUNT : Fld := ⟨.BLD_MISUSE_CNT, 31, 0⟩
def Fld.BLD_CLK_INT : Fld := ⟨.BLD_CLK, 15, 0⟩
def Fld.BLD_CLK_FRAC : Fld := ⟨.BLD_CLK, 23, 16⟩
def Fld.BLD_CLK_MODE : Fld := ⟨.BLD_CLK, 24, 24⟩
def Fld.BLD_CLK_TB : Fld := ⟨.BLD_CLK, 26, 25⟩
def Fld.BLD_LANES_PIN_0 : Fld := ⟨.BLD_LANES, 2, 0⟩
def Fld.BLD_LANES_PIN_1 : Fld := ⟨.BLD_LANES, 10, 8⟩
def Fld.BLD_LANES_PIN_2 : Fld := ⟨.BLD_LANES, 18, 16⟩
def Fld.BLD_LANES_PIN_3 : Fld := ⟨.BLD_LANES, 26, 24⟩
def Fld.BLD_LANES_KIND_0 : Fld := ⟨.BLD_LANES, 4, 3⟩
def Fld.BLD_LANES_KIND_1 : Fld := ⟨.BLD_LANES, 12, 11⟩
def Fld.BLD_LANES_KIND_2 : Fld := ⟨.BLD_LANES, 20, 19⟩
def Fld.BLD_LANES_KIND_3 : Fld := ⟨.BLD_LANES, 28, 27⟩
def Fld.BLD_LANES_IDLE_0 : Fld := ⟨.BLD_LANES, 5, 5⟩
def Fld.BLD_LANES_IDLE_1 : Fld := ⟨.BLD_LANES, 13, 13⟩
def Fld.BLD_LANES_IDLE_2 : Fld := ⟨.BLD_LANES, 21, 21⟩
def Fld.BLD_LANES_IDLE_3 : Fld := ⟨.BLD_LANES, 29, 29⟩
def Fld.BLD_FORM_TXBITS : Fld := ⟨.BLD_FORM, 4, 0⟩
def Fld.BLD_FORM_TX_MSB : Fld := ⟨.BLD_FORM, 5, 5⟩
def Fld.BLD_FORM_RXBITS : Fld := ⟨.BLD_FORM, 12, 8⟩
def Fld.BLD_FORM_RX_MSB : Fld := ⟨.BLD_FORM, 13, 13⟩
def Fld.BLD_FORM_BITSTEPS : Fld := ⟨.BLD_FORM, 19, 16⟩
def Fld.BLD_FORM_OUT_LANE : Fld := ⟨.BLD_FORM, 21, 20⟩
def Fld.BLD_FORM_IN_LANE : Fld := ⟨.BLD_FORM, 23, 22⟩
def Fld.BLD_FORM_TEST_LANE : Fld := ⟨.BLD_FORM, 25, 24⟩
def Fld.BLD_FORM_FLAG_OFS : Fld := ⟨.BLD_FORM, 28, 26⟩
def Fld.BLD_PCFG_START : Fld := ⟨.BLD_PCFG, 5, 0⟩
def Fld.BLD_PCFG_LOOP : Fld := ⟨.BLD_PCFG, 13, 8⟩
def Fld.BLD_PCFG_START_CUR : Fld := ⟨.BLD_PCFG, 21, 16⟩
def Fld.BLD_PCFG_LOOP_CUR : Fld := ⟨.BLD_PCFG, 29, 24⟩
def Fld.BLD_STATUS_PC : Fld := ⟨.BLD_STATUS, 5, 0⟩
def Fld.BLD_STATUS_STATE : Fld := ⟨.BLD_STATUS, 10, 8⟩
def Fld.BLD_STATUS_STALL : Fld := ⟨.BLD_STATUS, 14, 11⟩
def Fld.BLD_STATUS_TX_FULL : Fld := ⟨.BLD_STATUS, 15, 15⟩
def Fld.BLD_STATUS_RX_FULL : Fld := ⟨.BLD_STATUS, 16, 16⟩
def Fld.BLD_STATUS_RCNT : Fld := ⟨.BLD_STATUS, 22, 17⟩
def Fld.BLD_STATUS_TCNT : Fld := ⟨.BLD_STATUS, 28, 23⟩
def Fld.BLD_TXHOLD_DATA : Fld := ⟨.BLD_TXHOLD, 31, 0⟩
def Fld.BLD_RXHOLD_DATA : Fld := ⟨.BLD_RXHOLD, 31, 0⟩
def Fld.BLD_G_G : Fld := ⟨.BLD_G, 31, 0⟩
def Fld.BLD_C_C : Fld := ⟨.BLD_C, 15, 0⟩
def Fld.BLD_T_T : Fld := ⟨.BLD_T, 31, 0⟩
def Fld.BLD_DB_TARGET : Fld := ⟨.BLD_DB, 4, 0⟩
def Fld.BLD_DB_BIT : Fld := ⟨.BLD_DB, 9, 5⟩
def Fld.BLD_DB_EV_TX : Fld := ⟨.BLD_DB, 10, 10⟩
def Fld.BLD_DB_EV_RX : Fld := ⟨.BLD_DB, 11, 11⟩
def Fld.BLD_ATSTEP_NS : Fld := ⟨.BLD_ATSTEP, 31, 0⟩
def Fld.BLD_UNDERRUN_CNT_COUNT : Fld := ⟨.BLD_UNDERRUN_CNT, 31, 0⟩
def Fld.BLD_OVERRUN_CNT_COUNT : Fld := ⟨.BLD_OVERRUN_CNT, 31, 0⟩
def Fld.BLD_LATE_CNT_COUNT : Fld := ⟨.BLD_LATE_CNT, 31, 0⟩
def Fld.BLD_TXREFUSE_CNT_COUNT : Fld := ⟨.BLD_TXREFUSE_CNT, 31, 0⟩
def Fld.PIN_CFG_FUNC : Fld := ⟨.PIN_CFG, 0, 0⟩
def Fld.PIN_CFG_PULL : Fld := ⟨.PIN_CFG, 2, 1⟩
def Fld.PIN_CFG_DRIVE : Fld := ⟨.PIN_CFG, 3, 3⟩
def Fld.PIN_CFG_SAFE : Fld := ⟨.PIN_CFG, 5, 4⟩
def Fld.PIN_LEVEL_LOW_LEVEL : Fld := ⟨.PIN_LEVEL_LOW, 31, 0⟩
def Fld.PIN_LEVEL_HIGH_LEVEL : Fld := ⟨.PIN_LEVEL_HIGH, 31, 0⟩
def Fld.PIN_BANK_DET : Fld := ⟨.PIN_BANK, 1, 0⟩
def Fld.PIN_BANK_CHG_CNT_COUNT : Fld := ⟨.PIN_BANK_CHG_CNT, 31, 0⟩
def Fld.PIN_MISUSE_CNT_COUNT : Fld := ⟨.PIN_MISUSE_CNT, 31, 0⟩
def Fld.CTL_CFG_HBASE : Fld := ⟨.CTL_CFG, 13, 0⟩
def Fld.CTL_STATUS_HOLD : Fld := ⟨.CTL_STATUS, 0, 0⟩
def Fld.CTL_PI_BASE_LOW_PA_LO : Fld := ⟨.CTL_PI_BASE_LOW, 31, 0⟩
def Fld.CTL_PI_BASE_HIGH_PA_HI : Fld := ⟨.CTL_PI_BASE_HIGH, 7, 0⟩
def Fld.CTL_COMMIT_SLOT : Fld := ⟨.CTL_COMMIT, 12, 0⟩
def Fld.CTL_LOSS_STATION : Fld := ⟨.CTL_LOSS, 11, 0⟩
def Fld.CTL_FORCE_SLOT : Fld := ⟨.CTL_FORCE, 12, 0⟩
def Fld.CTL_FORCE_EN : Fld := ⟨.CTL_FORCE, 13, 13⟩
def Fld.CTL_ARITH_TASK : Fld := ⟨.CTL_ARITH, 3, 0⟩
def Fld.CTL_DB_TARGET : Fld := ⟨.CTL_DB, 4, 0⟩
def Fld.CTL_DB_BIT : Fld := ⟨.CTL_DB, 9, 5⟩
def Fld.CTL_DB_EV_OVR : Fld := ⟨.CTL_DB, 10, 10⟩
def Fld.CTL_DB_EV_SAFE : Fld := ⟨.CTL_DB, 11, 11⟩
def Fld.CTL_DB_EV_XCHG : Fld := ⟨.CTL_DB, 12, 12⟩
def Fld.CTL_TASK_CFG_EN : Fld := ⟨.CTL_TASK_CFG, 0, 0⟩
def Fld.CTL_TASK_CFG_SRC : Fld := ⟨.CTL_TASK_CFG, 2, 1⟩
def Fld.CTL_TASK_CFG_TB : Fld := ⟨.CTL_TASK_CFG, 4, 3⟩
def Fld.CTL_TASK_CFG_MAC : Fld := ⟨.CTL_TASK_CFG, 9, 5⟩
def Fld.CTL_TASK_CFG_SAFE_EXIT : Fld := ⟨.CTL_TASK_CFG, 10, 10⟩
def Fld.CTL_TASK_CFG_DIV : Fld := ⟨.CTL_TASK_CFG, 23, 16⟩
def Fld.CTL_TASK_CFG_OVR_LIMIT : Fld := ⟨.CTL_TASK_CFG, 31, 24⟩
def Fld.CTL_TASK_PERIOD_NS : Fld := ⟨.CTL_TASK_PERIOD, 31, 0⟩
def Fld.CTL_TASK_BASE_NS : Fld := ⟨.CTL_TASK_BASE, 31, 0⟩
def Fld.CTL_TASK_OFFSET_NS : Fld := ⟨.CTL_TASK_OFFSET, 31, 0⟩
def Fld.CTL_TASK_DEADLINE_NS : Fld := ⟨.CTL_TASK_DEADLINE, 31, 0⟩
def Fld.CTL_TASK_HOLD_HOLD_CYC : Fld := ⟨.CTL_TASK_HOLD, 3, 0⟩
def Fld.CTL_TASK_JOB0_WORD0 : Fld := ⟨.CTL_TASK_JOB0, 31, 0⟩
def Fld.CTL_TASK_STACK_OFFSET : Fld := ⟨.CTL_TASK_STACK, 15, 0⟩
def Fld.CTL_TASK_STACK_SIZE : Fld := ⟨.CTL_TASK_STACK, 31, 16⟩
def Fld.CTL_TASK_CODE_LOW_PA_LO : Fld := ⟨.CTL_TASK_CODE_LOW, 31, 0⟩
def Fld.CTL_TASK_CODE_HIGH_PA_HI : Fld := ⟨.CTL_TASK_CODE_HIGH, 7, 0⟩
def Fld.CTL_TASK_STAT_RUN : Fld := ⟨.CTL_TASK_STAT, 1, 0⟩
def Fld.CTL_TASK_STAT_SAFE : Fld := ⟨.CTL_TASK_STAT, 2, 2⟩
def Fld.CTL_TASK_STAT_ARITH : Fld := ⟨.CTL_TASK_STAT, 3, 3⟩
def Fld.CTL_TASK_STAT_CONSEC : Fld := ⟨.CTL_TASK_STAT, 15, 8⟩
def Fld.CTL_TASK_STAT_ENG : Fld := ⟨.CTL_TASK_STAT, 21, 16⟩
def Fld.CTL_TASK_T0_NS : Fld := ⟨.CTL_TASK_T0, 31, 0⟩
def Fld.CTL_XCHG_ADDR_LOW_PA_LO : Fld := ⟨.CTL_XCHG_ADDR_LOW, 31, 0⟩
def Fld.CTL_XCHG_ADDR_HIGH_PA_HI : Fld := ⟨.CTL_XCHG_ADDR_HIGH, 7, 0⟩
def Fld.CTL_XCHG_AT_NS : Fld := ⟨.CTL_XCHG_AT, 31, 0⟩
def Fld.CTL_TASK_CTRL_ARM : Fld := ⟨.CTL_TASK_CTRL, 0, 0⟩
def Fld.CTL_TASK_CTRL_CLR_SAFE : Fld := ⟨.CTL_TASK_CTRL, 1, 1⟩
def Fld.CTL_TASK_CTRL_PENDING : Fld := ⟨.CTL_TASK_CTRL, 2, 2⟩
def Fld.CTL_SLOT_F : Fld := ⟨.CTL_SLOT, 1, 0⟩
def Fld.CTL_SLOT_N : Fld := ⟨.CTL_SLOT, 3, 2⟩
def Fld.CTL_SLOT_B : Fld := ⟨.CTL_SLOT, 5, 4⟩
def Fld.CTL_SLOT_PEND : Fld := ⟨.CTL_SLOT, 6, 6⟩
def Fld.CTL_SLOT_LOST : Fld := ⟨.CTL_SLOT, 7, 7⟩
def Fld.CTL_SLOT_QUAL : Fld := ⟨.CTL_SLOT, 9, 8⟩
def Fld.CTL_SLOT_FORCED : Fld := ⟨.CTL_SLOT, 10, 10⟩
def Fld.CTL_SLOT_STALE_N : Fld := ⟨.CTL_SLOT, 14, 11⟩
def Fld.CTL_SLOT_SEQ : Fld := ⟨.CTL_SLOT, 23, 16⟩
def Fld.CTL_SLOT_LAST : Fld := ⟨.CTL_SLOT, 25, 24⟩
def Fld.CTL_COMMIT_REFUSE_CNT_COUNT : Fld := ⟨.CTL_COMMIT_REFUSE_CNT, 31, 0⟩
def Fld.CTL_JOB_DROP_CNT_COUNT : Fld := ⟨.CTL_JOB_DROP_CNT, 31, 0⟩
def Fld.CTL_XCHG_REFUSE_CNT_COUNT : Fld := ⟨.CTL_XCHG_REFUSE_CNT, 31, 0⟩
def Fld.CTL_MISUSE_CNT_COUNT : Fld := ⟨.CTL_MISUSE_CNT, 31, 0⟩
def Fld.CTL_RUN_CNT_COUNT : Fld := ⟨.CTL_RUN_CNT, 31, 0⟩
def Fld.CTL_OVR_CNT_COUNT : Fld := ⟨.CTL_OVR_CNT, 31, 0⟩
def Fld.CTL_SKIP_CNT_COUNT : Fld := ⟨.CTL_SKIP_CNT, 31, 0⟩
def Fld.CTL_ARITH_CNT_COUNT : Fld := ⟨.CTL_ARITH_CNT, 31, 0⟩
def Fld.CTL_STOP_CNT_COUNT : Fld := ⟨.CTL_STOP_CNT, 31, 0⟩
def Fld.PAR_CFG_EN : Fld := ⟨.PAR_CFG, 0, 0⟩
def Fld.PAR_CFG_CMP_EN : Fld := ⟨.PAR_CFG, 1, 1⟩
def Fld.PAR_CFG_AUTO_YIELD : Fld := ⟨.PAR_CFG, 2, 2⟩
def Fld.PAR_CFG_MISS_LIMIT : Fld := ⟨.PAR_CFG, 11, 8⟩
def Fld.PAR_CFG_HB_PERIOD_US : Fld := ⟨.PAR_CFG, 31, 16⟩
def Fld.PAR_ID_PAIR_ID : Fld := ⟨.PAR_ID, 15, 0⟩
def Fld.PAR_NODE_NODE : Fld := ⟨.PAR_NODE, 10, 0⟩
def Fld.PAR_NODE_PARTNER : Fld := ⟨.PAR_NODE, 26, 16⟩
def Fld.PAR_START_START_WAIT_MS : Fld := ⟨.PAR_START, 15, 0⟩
def Fld.PAR_START_DIV_LIMIT : Fld := ⟨.PAR_START, 23, 16⟩
def Fld.PAR_PAIR_MAC_LOW_MAC_LO : Fld := ⟨.PAR_PAIR_MAC_LOW, 31, 0⟩
def Fld.PAR_PAIR_MAC_HIGH_MAC_HI : Fld := ⟨.PAR_PAIR_MAC_HIGH, 15, 0⟩
def Fld.PAR_NETHB_PORT : Fld := ⟨.PAR_NETHB, 4, 0⟩
def Fld.PAR_NETHB_EN : Fld := ⟨.PAR_NETHB, 5, 5⟩
def Fld.PAR_NETHB_ETYPE : Fld := ⟨.PAR_NETHB, 31, 16⟩
def Fld.PAR_COPY_CFG_COPY_TASK : Fld := ⟨.PAR_COPY_CFG, 3, 0⟩
def Fld.PAR_COPY_CFG_BULK_PAGES : Fld := ⟨.PAR_COPY_CFG, 15, 8⟩
def Fld.PAR_COPY_CFG_TASKS : Fld := ⟨.PAR_COPY_CFG, 31, 16⟩
def Fld.PAR_COPY_WIN_WINDOW_NS : Fld := ⟨.PAR_COPY_WIN, 31, 0⟩
def Fld.PAR_TRACK_LOW_PA_LO : Fld := ⟨.PAR_TRACK_LOW, 31, 12⟩
def Fld.PAR_TRACK_HIGH_PA_HI : Fld := ⟨.PAR_TRACK_HIGH, 7, 0⟩
def Fld.PAR_TRACK_HIGH_PAGES : Fld := ⟨.PAR_TRACK_HIGH, 20, 8⟩
def Fld.PAR_STATUS_STATE : Fld := ⟨.PAR_STATUS, 1, 0⟩
def Fld.PAR_STATUS_SYNC : Fld := ⟨.PAR_STATUS, 3, 2⟩
def Fld.PAR_STATUS_UNFIT : Fld := ⟨.PAR_STATUS, 4, 4⟩
def Fld.PAR_STATUS_DETACHED : Fld := ⟨.PAR_STATUS, 5, 5⟩
def Fld.PAR_STATUS_COLD : Fld := ⟨.PAR_STATUS, 6, 6⟩
def Fld.PAR_STATUS_RANK : Fld := ⟨.PAR_STATUS, 7, 7⟩
def Fld.PAR_STATUS_LANES : Fld := ⟨.PAR_STATUS, 9, 8⟩
def Fld.PAR_STATUS_PATH_T : Fld := ⟨.PAR_STATUS, 10, 10⟩
def Fld.PAR_STATUS_PATH_N : Fld := ⟨.PAR_STATUS, 11, 11⟩
def Fld.PAR_STATUS_PARTNER_STATE : Fld := ⟨.PAR_STATUS, 13, 12⟩
def Fld.PAR_STATUS_PARTNER_UNFIT : Fld := ⟨.PAR_STATUS, 14, 14⟩
def Fld.PAR_STATUS_TMISS : Fld := ⟨.PAR_STATUS, 19, 16⟩
def Fld.PAR_STATUS_NMISS : Fld := ⟨.PAR_STATUS, 23, 20⟩
def Fld.PAR_CTRL_RELINQUISH : Fld := ⟨.PAR_CTRL, 0, 0⟩
def Fld.PAR_CTRL_RESYNC : Fld := ⟨.PAR_CTRL, 1, 1⟩
def Fld.PAR_CTRL_CLR_UNFIT : Fld := ⟨.PAR_CTRL, 2, 2⟩
def Fld.PAR_COPY_BYTES_BYTES : Fld := ⟨.PAR_COPY_BYTES, 31, 0⟩
def Fld.PAR_COPY_TIME_NS : Fld := ⟨.PAR_COPY_TIME, 31, 0⟩
def Fld.PAR_DIV_SLOT_SLOT : Fld := ⟨.PAR_DIV_SLOT, 12, 0⟩
def Fld.PAR_DIV_SLOT_CONSEC : Fld := ⟨.PAR_DIV_SLOT, 23, 16⟩
def Fld.PAR_DB_TARGET : Fld := ⟨.PAR_DB, 4, 0⟩
def Fld.PAR_DB_BIT : Fld := ⟨.PAR_DB, 9, 5⟩
def Fld.PAR_DB_EV_ROLE : Fld := ⟨.PAR_DB, 10, 10⟩
def Fld.PAR_DB_EV_DIV : Fld := ⟨.PAR_DB, 11, 11⟩
def Fld.PAR_DB_EV_LINK : Fld := ⟨.PAR_DB, 12, 12⟩
def Fld.PAR_SEQREC_SEQ : Fld := ⟨.PAR_SEQREC, 15, 0⟩
def Fld.PAR_SEQREC_VALID : Fld := ⟨.PAR_SEQREC, 16, 16⟩
def Fld.PAR_HB_BAD_CNT_COUNT : Fld := ⟨.PAR_HB_BAD_CNT, 31, 0⟩
def Fld.PAR_TMISS_CNT_COUNT : Fld := ⟨.PAR_TMISS_CNT, 31, 0⟩
def Fld.PAR_NMISS_CNT_COUNT : Fld := ⟨.PAR_NMISS_CNT, 31, 0⟩
def Fld.PAR_TAKEOVER_CNT_COUNT : Fld := ⟨.PAR_TAKEOVER_CNT, 31, 0⟩
def Fld.PAR_YIELD_CNT_COUNT : Fld := ⟨.PAR_YIELD_CNT, 31, 0⟩
def Fld.PAR_RANK_CLASH_CNT_COUNT : Fld := ⟨.PAR_RANK_CLASH_CNT, 31, 0⟩
def Fld.PAR_COPY_LATE_CNT_COUNT : Fld := ⟨.PAR_COPY_LATE_CNT, 31, 0⟩
def Fld.PAR_DIV_CNT_COUNT : Fld := ⟨.PAR_DIV_CNT, 31, 0⟩
def Fld.PAR_CMP_SKIP_CNT_COUNT : Fld := ⟨.PAR_CMP_SKIP_CNT, 31, 0⟩
def Fld.PAR_IMG_MISMATCH_CNT_COUNT : Fld := ⟨.PAR_IMG_MISMATCH_CNT, 31, 0⟩
def Fld.PAR_PROG_MISMATCH_CNT_COUNT : Fld := ⟨.PAR_PROG_MISMATCH_CNT, 31, 0⟩
def Fld.PAR_AUTH_CNT_COUNT : Fld := ⟨.PAR_AUTH_CNT, 31, 0⟩
def Fld.PAR_LANE_LOSS_CNT_COUNT : Fld := ⟨.PAR_LANE_LOSS_CNT, 31, 0⟩
def Fld.PAR_MISUSE_CNT_COUNT : Fld := ⟨.PAR_MISUSE_CNT, 31, 0⟩
def Fld.PAT_STATUS_CAUSE : Fld := ⟨.PAT_STATUS, 2, 0⟩
def Fld.PAT_LOAD_BUSY_PCT : Fld := ⟨.PAT_LOAD, 7, 0⟩
def Fld.PAT_LOAD_LEVEL : Fld := ⟨.PAT_LOAD, 10, 8⟩
def Fld.PAT_LOAD_SHED_HI : Fld := ⟨.PAT_LOAD, 23, 16⟩
def Fld.PAT_LOAD_SHED_LO : Fld := ⟨.PAT_LOAD, 31, 24⟩
def Fld.PAT_WDOG_CFG_EN : Fld := ⟨.PAT_WDOG_CFG, 0, 0⟩
def Fld.PAT_WDOG_CFG_TIMEOUT_MS : Fld := ⟨.PAT_WDOG_CFG, 31, 16⟩
def Fld.PAT_WDOG_KICK_KEY : Fld := ⟨.PAT_WDOG_KICK, 31, 0⟩
def Fld.PAT_WDOG_LEFT_MS : Fld := ⟨.PAT_WDOG_LEFT, 15, 0⟩
def Fld.PAT_FAULT_PEND_CTX : Fld := ⟨.PAT_FAULT_PEND, 3, 0⟩
def Fld.PAT_FAULT_CFG_DB_TARGET : Fld := ⟨.PAT_FAULT_CFG, 4, 0⟩
def Fld.PAT_FAULT_CFG_DB_BIT : Fld := ⟨.PAT_FAULT_CFG, 9, 5⟩
def Fld.PAT_FAULT_CFG_DB_EN : Fld := ⟨.PAT_FAULT_CFG, 10, 10⟩
def Fld.PAT_SQ_PUSH_WORD : Fld := ⟨.PAT_SQ_PUSH, 31, 0⟩
def Fld.PAT_SQ_STATUS_DEPTH : Fld := ⟨.PAT_SQ_STATUS, 6, 0⟩
def Fld.PAT_SPACE_ROOT_LOW_PA_LO : Fld := ⟨.PAT_SPACE_ROOT_LOW, 31, 12⟩
def Fld.PAT_SPACE_ROOT_HIGH_PA_HI : Fld := ⟨.PAT_SPACE_ROOT_HIGH, 7, 0⟩
def Fld.PAT_SPACE_ROOT_HIGH_EN : Fld := ⟨.PAT_SPACE_ROOT_HIGH, 8, 8⟩
def Fld.PAT_CTX_FLT_CODE : Fld := ⟨.PAT_CTX_FLT, 3, 0⟩
def Fld.PAT_CTX_FLT_HALF : Fld := ⟨.PAT_CTX_FLT, 5, 4⟩
def Fld.PAT_CTX_FLT_STORES_DONE : Fld := ⟨.PAT_CTX_FLT, 6, 6⟩
def Fld.PAT_CTX_FLT_KIND : Fld := ⟨.PAT_CTX_FLT, 7, 7⟩
def Fld.PAT_CTX_FLT_PC : Fld := ⟨.PAT_CTX_FLT, 31, 13⟩
def Fld.PAT_CTX_VA_VA : Fld := ⟨.PAT_CTX_VA, 31, 0⟩
def Fld.PAT_CTX_CTRL_RESUME : Fld := ⟨.PAT_CTX_CTRL, 0, 0⟩
def Fld.PAT_CTX_CTRL_ABORT : Fld := ⟨.PAT_CTX_CTRL, 1, 1⟩
def Fld.PAT_SQ_REFUSE_CNT_COUNT : Fld := ⟨.PAT_SQ_REFUSE_CNT, 31, 0⟩
def Fld.PAT_KICK_BAD_CNT_COUNT : Fld := ⟨.PAT_KICK_BAD_CNT, 31, 0⟩
def Fld.PAT_FAULT_CNT_COUNT : Fld := ⟨.PAT_FAULT_CNT, 31, 0⟩
def Fld.PAT_PAIR_CONFLICT_CNT_COUNT : Fld := ⟨.PAT_PAIR_CONFLICT_CNT, 31, 0⟩
def Fld.PAT_SHED_CNT_COUNT : Fld := ⟨.PAT_SHED_CNT, 31, 0⟩
def Fld.PAT_LOCKSTEP_CNT_COUNT : Fld := ⟨.PAT_LOCKSTEP_CNT, 31, 0⟩
def Fld.PAT_MISUSE_CNT_COUNT : Fld := ⟨.PAT_MISUSE_CNT, 31, 0⟩
def Fld.HST_STATUS_LINK_UP : Fld := ⟨.HST_STATUS, 0, 0⟩
def Fld.HST_STATUS_WIDTH : Fld := ⟨.HST_STATUS, 2, 1⟩
def Fld.HST_STATUS_SPEED : Fld := ⟨.HST_STATUS, 4, 3⟩
def Fld.HST_STATUS_SPI_ACTIVE : Fld := ⟨.HST_STATUS, 5, 5⟩
def Fld.HST_CFG_PCIE_EN : Fld := ⟨.HST_CFG, 0, 0⟩
def Fld.HST_CFG_SPI_EN : Fld := ⟨.HST_CFG, 1, 1⟩
def Fld.HST_CFG_REQ_MBOX : Fld := ⟨.HST_CFG, 15, 8⟩
def Fld.HST_CFG_RSP_MBOX : Fld := ⟨.HST_CFG, 23, 16⟩
def Fld.HST_WIN_STAT_APPLIED : Fld := ⟨.HST_WIN_STAT, 15, 0⟩
def Fld.HST_MSIX_TGT_TARGET : Fld := ⟨.HST_MSIX_TGT, 4, 0⟩
def Fld.HST_MSIX_TGT_EN : Fld := ⟨.HST_MSIX_TGT, 5, 5⟩
def Fld.HST_MSIX_MASK_MASK : Fld := ⟨.HST_MSIX_MASK, 31, 0⟩
def Fld.HST_UE_CNT_COUNT : Fld := ⟨.HST_UE_CNT, 31, 0⟩
def Fld.HST_SPI_FRAME_CNT_COUNT : Fld := ⟨.HST_SPI_FRAME_CNT, 31, 0⟩
def Fld.HST_SPI_NOTREADY_CNT_COUNT : Fld := ⟨.HST_SPI_NOTREADY_CNT, 31, 0⟩
def Fld.HST_MSIX_CNT_COUNT : Fld := ⟨.HST_MSIX_CNT, 31, 0⟩
def Fld.HST_LINK_DOWN_CNT_COUNT : Fld := ⟨.HST_LINK_DOWN_CNT, 31, 0⟩
def Fld.HST_MISUSE_CNT_COUNT : Fld := ⟨.HST_MISUSE_CNT, 31, 0⟩
def Fld.PWR_DOM_CTRL_RINK : Fld := ⟨.PWR_DOM_CTRL, 7, 0⟩
def Fld.PWR_DOM_CTRL_SWC : Fld := ⟨.PWR_DOM_CTRL, 8, 8⟩
def Fld.PWR_DOM_CTRL_SDS : Fld := ⟨.PWR_DOM_CTRL, 9, 9⟩
def Fld.PWR_DOM_CTRL_TPHY : Fld := ⟨.PWR_DOM_CTRL, 10, 10⟩
def Fld.PWR_DOM_CTRL_HOST : Fld := ⟨.PWR_DOM_CTRL, 11, 11⟩
def Fld.PWR_DOM_CTRL_PIO : Fld := ⟨.PWR_DOM_CTRL, 12, 12⟩
def Fld.PWR_DOM_STAT_ON : Fld := ⟨.PWR_DOM_STAT, 12, 0⟩
def Fld.PWR_DOM_STAT_BUSY : Fld := ⟨.PWR_DOM_STAT, 16, 16⟩
def Fld.PWR_BANK_REQ_BANK : Fld := ⟨.PWR_BANK_REQ, 7, 0⟩
def Fld.PWR_BANK_REQ_STATE : Fld := ⟨.PWR_BANK_REQ, 9, 8⟩
def Fld.PWR_SLEEP_ENTER : Fld := ⟨.PWR_SLEEP, 0, 0⟩
def Fld.PWR_SLEEP_WAKE_PIN : Fld := ⟨.PWR_SLEEP, 1, 1⟩
def Fld.PWR_SLEEP_WAKE_TIME : Fld := ⟨.PWR_SLEEP, 2, 2⟩
def Fld.PWR_SLEEP_WAKE_TB : Fld := ⟨.PWR_SLEEP, 4, 3⟩
def Fld.PWR_WAKE_AT_NS : Fld := ⟨.PWR_WAKE_AT, 31, 0⟩
def Fld.PWR_WAKE_WRAPS_WRAPS : Fld := ⟨.PWR_WAKE_WRAPS, 15, 0⟩
def Fld.PWR_WAKE_CAUSE_CAUSE : Fld := ⟨.PWR_WAKE_CAUSE, 1, 0⟩
def Fld.PWR_KEEP_KEEP : Fld := ⟨.PWR_KEEP, 31, 0⟩
def Fld.PWR_REFUSE_CNT_COUNT : Fld := ⟨.PWR_REFUSE_CNT, 31, 0⟩
def Fld.PWR_MISUSE_CNT_COUNT : Fld := ⟨.PWR_MISUSE_CNT, 31, 0⟩
def Fld.SYS_ID_PART : Fld := ⟨.SYS_ID, 15, 0⟩
def Fld.SYS_ID_STEPPING : Fld := ⟨.SYS_ID, 23, 16⟩
def Fld.SYS_SERIAL_LOW_SN_LO : Fld := ⟨.SYS_SERIAL_LOW, 31, 0⟩
def Fld.SYS_SERIAL_HIGH_SN_HI : Fld := ⟨.SYS_SERIAL_HIGH, 31, 0⟩
def Fld.SYS_MODE_MODE : Fld := ⟨.SYS_MODE, 3, 0⟩
def Fld.SYS_MODE_RETURN : Fld := ⟨.SYS_MODE, 7, 4⟩
def Fld.SYS_MODE_CTRL_HOLD : Fld := ⟨.SYS_MODE_CTRL, 0, 0⟩
def Fld.SYS_MODE_CTRL_FWX : Fld := ⟨.SYS_MODE_CTRL, 1, 1⟩
def Fld.SYS_DEGRADED_BOOT : Fld := ⟨.SYS_DEGRADED, 0, 0⟩
def Fld.SYS_DEGRADED_ENGINE : Fld := ⟨.SYS_DEGRADED, 1, 1⟩
def Fld.SYS_DEGRADED_RINK : Fld := ⟨.SYS_DEGRADED, 2, 2⟩
def Fld.SYS_DEGRADED_BANK : Fld := ⟨.SYS_DEGRADED, 3, 3⟩
def Fld.SYS_RESET_KEY : Fld := ⟨.SYS_RESET, 31, 0⟩
def Fld.SYS_RINK_RST_RINK : Fld := ⟨.SYS_RINK_RST, 2, 0⟩
def Fld.SYS_RESET_CAUSE_CAUSE : Fld := ⟨.SYS_RESET_CAUSE, 2, 0⟩
def Fld.SYS_DB_TARGET : Fld := ⟨.SYS_DB, 4, 0⟩
def Fld.SYS_DB_BIT : Fld := ⟨.SYS_DB, 9, 5⟩
def Fld.SYS_DB_EV_MODE : Fld := ⟨.SYS_DB, 10, 10⟩
def Fld.SYS_DB_EV_DEG : Fld := ⟨.SYS_DB, 11, 11⟩
def Fld.SYS_DECODE_CNT_COUNT : Fld := ⟨.SYS_DECODE_CNT, 31, 0⟩
def Fld.SYS_DENY_CNT_COUNT : Fld := ⟨.SYS_DENY_CNT, 31, 0⟩
def Fld.SYS_DOMAIN_OFF_CNT_COUNT : Fld := ⟨.SYS_DOMAIN_OFF_CNT, 31, 0⟩
def Fld.SYS_MISUSE_CNT_COUNT : Fld := ⟨.SYS_MISUSE_CNT, 31, 0⟩

end Sys2Proof.Machine
end

