-- ==== Sys2Proof/Machine/RegTab.lean ====
section
/-! DEFINITION. The register tables as data: for every register its place, its fields, their access types, reset values
and Kept-by columns, as the tables of the manual print them. -/

namespace Sys2Proof.Machine

/-- The table row of a register. -/
def Reg.info : Reg → RegInfo
  | .BOOT_STRAP => ⟨.BOOT, 0x30000, [], [⟨1, 0, .ro, 0, 62, .any⟩, ⟨4, 4, .ro, 0, 62, .any⟩]⟩
  | .BOOT_STATUS => ⟨.BOOT, 0x30004, [], [⟨3, 0, .ro, 0, 48, .any⟩, ⟨5, 4, .ro, 0, 48, .any⟩, ⟨9, 8, .ro, 0, 60, .any⟩, ⟨12, 12, .ro, 0, 48, .any⟩, ⟨19, 16, .ro, 0, 48, .any⟩, ⟨20, 20, .ro, 0, 48, .any⟩]⟩
  | .BOOT_CAUSE => ⟨.BOOT, 0x30008, [], [⟨3, 0, .ro, 9, 48, .any⟩, ⟨7, 4, .ro, 9, 48, .any⟩]⟩
  | .BOOT_TIME => ⟨.BOOT, 0x3000C, [], [⟨31, 0, .ro, 0, 48, .any⟩]⟩
  | .BOOT_CTRL => ⟨.BOOT, 0x30010, [], [⟨0, 0, .w1s, 0, 48, .any⟩]⟩
  | .BOOT_XSPI_CFG => ⟨.BOOT, 0x30014, [], [⟨2, 0, .rw, 0, 48, (.le 2)⟩, ⟨7, 4, .rw, 15, 48, (.ge 4)⟩, ⟨8, 8, .rw, 0, 48, .any⟩, ⟨15, 12, .rw, 8, 48, .any⟩]⟩
  | .BOOT_FAILOVER_CNT => ⟨.BOOT, 0x30018, [], [⟨31, 0, .cnt, 0, 60, .any⟩]⟩
  | .BOOT_REC_DENY_CNT => ⟨.BOOT, 0x3001C, [], [⟨31, 0, .cnt, 0, 48, .any⟩]⟩
  | .BOOT_SKIP_CNT => ⟨.BOOT, 0x30020, [], [⟨31, 0, .cnt, 0, 48, .any⟩]⟩
  | .BOOT_MISUSE_CNT => ⟨.BOOT, 0x30024, [], [⟨31, 0, .cnt, 0, 48, .any⟩]⟩
  | .VLT_STATUS => ⟨.VLT, 0x20000, [], [⟨1, 0, .ro, 0, 0, .any⟩, ⟨2, 2, .ro, 0, 48, .any⟩, ⟨5, 4, .ro, 0, 48, .any⟩, ⟨6, 6, .ro, 0, 48, .any⟩, ⟨7, 7, .ro, 0, 48, .any⟩]⟩
  | .VLT_ROLLBACK => ⟨.VLT, 0x20004, [], [⟨7, 0, .ro, 0, 0, .any⟩]⟩
  | .VLT_TAMPER_EN => ⟨.VLT, 0x20008, [], [⟨4, 0, .w1s, 1, 48, .any⟩]⟩
  | .VLT_TAMPER_SRC => ⟨.VLT, 0x2000C, [], [⟨4, 0, .ro, 0, 63, .any⟩, ⟨13, 8, .ro, 0, 0, .any⟩]⟩
  | .VLT_DBG_FAIL_CNT => ⟨.VLT, 0x20010, [], [⟨31, 0, .cnt, 0, 63, .any⟩]⟩
  | .VLT_WIN_DENY_CNT => ⟨.VLT, 0x20014, [], [⟨31, 0, .cnt, 0, 48, .any⟩]⟩
  | .VLT_PROV_REFUSE_CNT => ⟨.VLT, 0x20018, [], [⟨31, 0, .cnt, 0, 48, .any⟩]⟩
  | .VLT_MISUSE_CNT => ⟨.VLT, 0x2001C, [], [⟨31, 0, .cnt, 0, 48, .any⟩]⟩
  | .SMF_JOBROUTE => ⟨.SMF, 0x40800, [(0x4, 8)], [⟨2, 0, .rw, 0, 48, .any⟩, ⟨3, 3, .rw, 0, 48, .any⟩, ⟨4, 4, .ro, 0, 48, .any⟩]⟩
  | .SMF_JOBDROP_CNT => ⟨.SMF, 0x40820, [], [⟨31, 0, .cnt, 0, 48, .any⟩]⟩
  | .RNK_STATUS => ⟨.RNK, 0x100000, [(0x10000, 8)], [⟨0, 0, .ro, 0, 32, .any⟩, ⟨15, 8, .ro, 0, 32, .any⟩, ⟨26, 16, .ro, 0, 32, .any⟩]⟩
  | .RNK_CFG => ⟨.RNK, 0x100004, [(0x10000, 8)], [⟨7, 0, .rw, 0, 32, .any⟩, ⟨15, 8, .rw, 20, 32, .any⟩, ⟨16, 16, .rw, 1, 32, .any⟩, ⟨17, 17, .rw, 0, 32, .any⟩, ⟨18, 18, .rw, 0, 32, .any⟩]⟩
  | .RNK_FWMASK => ⟨.RNK, 0x100008, [(0x10000, 8)], [⟨15, 0, .ro, 0, 48, .any⟩]⟩
  | .RNK_TLB_INV => ⟨.RNK, 0x10000C, [(0x10000, 8)], [⟨3, 0, .wo, 0, 0, .any⟩, ⟨4, 4, .wo, 0, 0, .any⟩, ⟨5, 5, .wo, 0, 0, .any⟩, ⟨31, 12, .wo, 0, 0, .any⟩]⟩
  | .RNK_TLB_STATUS => ⟨.RNK, 0x100010, [(0x10000, 8)], [⟨0, 0, .ro, 0, 32, .any⟩]⟩
  | .RNK_FAULT_CFG => ⟨.RNK, 0x100014, [(0x10000, 8)], [⟨4, 0, .rw, 0, 32, .any⟩, ⟨9, 5, .rw, 0, 32, .any⟩, ⟨10, 10, .rw, 0, 32, .any⟩]⟩
  | .RNK_FAULT_PEND => ⟨.RNK, 0x100018, [(0x10000, 8)], [⟨31, 0, .w1c, 0, 32, .any⟩]⟩
  | .RNK_LFAULT_PEND => ⟨.RNK, 0x10001C, [(0x10000, 8)], [⟨3, 0, .w1c, 0, 32, .any⟩]⟩
  | .RNK_PUSH => ⟨.RNK, 0x100020, [(0x10000, 8), (0x4, 8)], [⟨31, 0, .wo, 0, 0, .any⟩]⟩
  | .RNK_ENG_CFG => ⟨.RNK, 0x100040, [(0x10000, 8), (0x4, 8)], [⟨15, 0, .rw, 65528, 32, .any⟩, ⟨18, 16, .rw, 0, 32, .any⟩, ⟨19, 19, .rw, 0, 32, .any⟩, ⟨20, 20, .w1s, 0, 32, .any⟩]⟩
  | .RNK_ENG_STATUS => ⟨.RNK, 0x100060, [(0x10000, 8), (0x4, 8)], [⟨15, 0, .ro, 0, 32, .any⟩, ⟨22, 16, .ro, 0, 32, .any⟩, ⟨24, 24, .ro, 0, 32, .any⟩, ⟨25, 25, .ro, 0, 32, .any⟩, ⟨26, 26, .ro, 0, 32, .any⟩]⟩
  | .RNK_SPACE_ROOT_LOW => ⟨.RNK, 0x100100, [(0x10000, 8), (0x8, 16)], [⟨31, 12, .rw, 0, 32, (.mult 0 1048575 2)⟩]⟩
  | .RNK_SPACE_ROOT_HIGH => ⟨.RNK, 0x100104, [(0x10000, 8), (0x8, 16)], [⟨7, 0, .rw, 0, 32, .any⟩, ⟨8, 8, .rw, 0, 32, .any⟩]⟩
  | .RNK_CTX_FLT => ⟨.RNK, 0x100200, [(0x10000, 8), (0x10, 32)], [⟨3, 0, .ro, 0, 32, .any⟩, ⟨5, 4, .ro, 0, 32, .any⟩, ⟨6, 6, .ro, 0, 32, .any⟩, ⟨7, 7, .ro, 0, 32, .any⟩, ⟨29, 16, .ro, 0, 32, .any⟩]⟩
  | .RNK_CTX_VA => ⟨.RNK, 0x100204, [(0x10000, 8), (0x10, 32)], [⟨31, 0, .ro, 0, 32, .any⟩]⟩
  | .RNK_CTX_CTRL => ⟨.RNK, 0x100208, [(0x10000, 8), (0x10, 32)], [⟨0, 0, .wo, 0, 0, .any⟩, ⟨1, 1, .wo, 0, 0, .any⟩]⟩
  | .RNK_PUSH_REFUSE_CNT => ⟨.RNK, 0x100080, [(0x10000, 8)], [⟨31, 0, .cnt, 0, 32, .any⟩]⟩
  | .RNK_QWAIT_CNT => ⟨.RNK, 0x100084, [(0x10000, 8)], [⟨31, 0, .cnt, 0, 32, .any⟩]⟩
  | .RNK_STEAL_CNT => ⟨.RNK, 0x100088, [(0x10000, 8)], [⟨31, 0, .cnt, 0, 32, .any⟩]⟩
  | .RNK_XSTEAL_CNT => ⟨.RNK, 0x10008C, [(0x10000, 8)], [⟨31, 0, .cnt, 0, 32, .any⟩]⟩
  | .RNK_XSTEAL_MISS_CNT => ⟨.RNK, 0x100090, [(0x10000, 8)], [⟨31, 0, .cnt, 0, 32, .any⟩]⟩
  | .RNK_PSTEAL_CNT => ⟨.RNK, 0x100094, [(0x10000, 8)], [⟨31, 0, .cnt, 0, 32, .any⟩]⟩
  | .RNK_FAULT_CNT => ⟨.RNK, 0x100098, [(0x10000, 8)], [⟨31, 0, .cnt, 0, 32, .any⟩]⟩
  | .RNK_LIFT_HOLD_CNT => ⟨.RNK, 0x10009C, [(0x10000, 8)], [⟨31, 0, .cnt, 0, 32, .any⟩]⟩
  | .RNK_JOBLOST_CNT => ⟨.RNK, 0x1000A0, [(0x10000, 8)], [⟨31, 0, .cnt, 0, 32, .any⟩]⟩
  | .RNK_PAIR_CONFLICT_CNT => ⟨.RNK, 0x1000A4, [(0x10000, 8)], [⟨31, 0, .cnt, 0, 32, .any⟩]⟩
  | .RNK_LMEM_CE_CNT => ⟨.RNK, 0x1000A8, [(0x10000, 8)], [⟨31, 0, .cnt, 0, 32, .any⟩]⟩
  | .RNK_MISUSE_CNT => ⟨.RNK, 0x1000AC, [(0x10000, 8)], [⟨31, 0, .cnt, 0, 32, .any⟩]⟩
  | .SMF_CFG => ⟨.SMF, 0x40000, [], [⟨0, 0, .rw, 1, 48, .any⟩]⟩
  | .SMF_STATUS => ⟨.SMF, 0x40004, [], [⟨8, 0, .ro, 0, 48, .any⟩]⟩
  | .SMF_ERR_ADDR_LOW => ⟨.SMF, 0x40008, [], [⟨31, 0, .ro, 0, 48, .any⟩]⟩
  | .SMF_ERR_ADDR_HIGH => ⟨.SMF, 0x4000C, [], [⟨7, 0, .ro, 0, 48, .any⟩]⟩
  | .SMF_ERR_INFO => ⟨.SMF, 0x40010, [], [⟨7, 0, .ro, 0, 48, .any⟩, ⟨9, 8, .ro, 0, 48, .any⟩, ⟨31, 31, .w1c, 0, 48, .any⟩]⟩
  | .SMF_BANK_STAT => ⟨.SMF, 0x40040, [(0x4, 32)], [⟨3, 0, .ro, 0, 48, .any⟩, ⟨7, 4, .ro, 0, 48, .any⟩, ⟨11, 8, .ro, 0, 48, .any⟩, ⟨15, 12, .ro, 0, 48, .any⟩, ⟨19, 16, .ro, 0, 48, .any⟩, ⟨23, 20, .ro, 0, 48, .any⟩, ⟨27, 24, .ro, 0, 48, .any⟩, ⟨31, 28, .ro, 0, 48, .any⟩]⟩
  | .SMF_PART_MAP => ⟨.SMF, 0x400C0, [(0x4, 32)], [⟨3, 0, .ro, 15, 48, .any⟩, ⟨7, 4, .ro, 15, 48, .any⟩, ⟨11, 8, .ro, 15, 48, .any⟩, ⟨15, 12, .ro, 15, 48, .any⟩, ⟨19, 16, .ro, 15, 48, .any⟩, ⟨23, 20, .ro, 15, 48, .any⟩, ⟨27, 24, .ro, 15, 48, .any⟩, ⟨31, 28, .ro, 15, 48, .any⟩]⟩
  | .SMF_CONF_CNT => ⟨.SMF, 0x40140, [(0x4, 15)], [⟨31, 0, .cnt, 0, 48, .any⟩]⟩
  | .SMF_CE_CNT => ⟨.SMF, 0x40180, [], [⟨31, 0, .cnt, 0, 48, .any⟩]⟩
  | .SMF_UE_CNT => ⟨.SMF, 0x40184, [], [⟨31, 0, .cnt, 0, 48, .any⟩]⟩
  | .SMF_BANK_DENY_CNT => ⟨.SMF, 0x40188, [], [⟨31, 0, .cnt, 0, 48, .any⟩]⟩
  | .SMF_MISUSE_CNT => ⟨.SMF, 0x4018C, [], [⟨31, 0, .cnt, 0, 48, .any⟩]⟩
  | .GRM_CMD => ⟨.GRM, 0x50000, [], [⟨7, 0, .wo, 0, 0, .any⟩, ⟨9, 8, .wo, 0, 0, (.rng 1 2)⟩]⟩
  | .GRM_STATUS => ⟨.GRM, 0x50004, [], [⟨0, 0, .ro, 0, 48, .any⟩, ⟨15, 8, .ro, 0, 48, .any⟩, ⟨25, 16, .ro, 0, 48, .any⟩, ⟨28, 26, .ro, 0, 48, .any⟩]⟩
  | .GRM_DB_CFG => ⟨.GRM, 0x50008, [], [⟨4, 0, .rw, 0, 48, .any⟩, ⟨9, 5, .rw, 0, 48, .any⟩, ⟨10, 10, .rw, 0, 48, .any⟩]⟩
  | .GRM_SCRUB_CFG => ⟨.GRM, 0x5000C, [], [⟨0, 0, .rw, 1, 48, .any⟩, ⟨15, 8, .rw, 255, 48, (.ge 3)⟩]⟩
  | .GRM_SCRUB_POS => ⟨.GRM, 0x50010, [], [⟨15, 0, .ro, 0, 48, .any⟩, ⟨23, 16, .ro, 0, 48, .any⟩]⟩
  | .GRM_SCRUB_CE_CNT => ⟨.GRM, 0x50020, [], [⟨31, 0, .cnt, 0, 48, .any⟩]⟩
  | .GRM_SCRUB_UE_CNT => ⟨.GRM, 0x50024, [], [⟨31, 0, .cnt, 0, 48, .any⟩]⟩
  | .GRM_REPAIR_CNT => ⟨.GRM, 0x50028, [], [⟨31, 0, .cnt, 0, 48, .any⟩]⟩
  | .GRM_REFUSE_CNT => ⟨.GRM, 0x5002C, [], [⟨31, 0, .cnt, 0, 48, .any⟩]⟩
  | .GRM_PASS_CNT => ⟨.GRM, 0x50030, [], [⟨31, 0, .cnt, 0, 48, .any⟩]⟩
  | .GRM_MISUSE_CNT => ⟨.GRM, 0x50034, [], [⟨31, 0, .cnt, 0, 48, .any⟩]⟩
  | .GRM_BANK => ⟨.GRM, 0x50400, [(0x4, 256)], [⟨3, 0, .ro, 0, 48, .any⟩, ⟨5, 4, .ro, 0, 48, .any⟩, ⟨9, 6, .ro, 0, 48, .any⟩, ⟨11, 10, .ro, 0, 48, .any⟩, ⟨12, 12, .ro, 0, 48, .any⟩, ⟨13, 13, .ro, 0, 48, .any⟩]⟩
  | .LFT_DESC_LOW => ⟨.LFT, 0x60000, [(0x40, 40)], [⟨31, 5, .wo, 0, 0, .any⟩]⟩
  | .LFT_DESC_HIGH => ⟨.LFT, 0x60004, [(0x40, 40)], [⟨7, 0, .wo, 0, 0, .any⟩]⟩
  | .LFT_CTRL => ⟨.LFT, 0x60008, [(0x40, 40)], [⟨0, 0, .wo, 0, 0, .any⟩, ⟨1, 1, .wo, 0, 0, .any⟩]⟩
  | .LFT_STATUS => ⟨.LFT, 0x6000C, [(0x40, 40)], [⟨1, 0, .ro, 0, 32, .any⟩, ⟨2, 2, .ro, 0, 32, .any⟩, ⟨9, 8, .ro, 0, 32, .any⟩, ⟨23, 16, .ro, 0, 32, .any⟩]⟩
  | .LFT_PROG => ⟨.LFT, 0x60010, [(0x40, 40)], [⟨23, 0, .ro, 0, 32, .any⟩]⟩
  | .LFT_CUR_LOW => ⟨.LFT, 0x60014, [(0x40, 40)], [⟨31, 5, .ro, 0, 32, .any⟩]⟩
  | .LFT_CUR_HIGH => ⟨.LFT, 0x60018, [(0x40, 40)], [⟨7, 0, .ro, 0, 32, .any⟩]⟩
  | .LFT_FLT => ⟨.LFT, 0x6001C, [(0x40, 40)], [⟨3, 0, .ro, 0, 32, .any⟩, ⟨5, 4, .ro, 0, 32, .any⟩]⟩
  | .LFT_FLT_VA => ⟨.LFT, 0x60020, [(0x40, 40)], [⟨31, 0, .ro, 0, 32, .any⟩]⟩
  | .LFT_CFG => ⟨.LFT, 0x60A00, [], [⟨7, 0, .rw, 0, 48, .any⟩]⟩
  | .LFT_DROOT_LOW => ⟨.LFT, 0x60A80, [(0x8, 16)], [⟨31, 12, .rw, 0, 48, (.mult 0 1048575 2)⟩]⟩
  | .LFT_DROOT_HIGH => ⟨.LFT, 0x60A84, [(0x8, 16)], [⟨7, 0, .rw, 0, 48, .any⟩, ⟨8, 8, .rw, 0, 48, .any⟩]⟩
  | .LFT_DONE_CNT => ⟨.LFT, 0x60B00, [], [⟨31, 0, .cnt, 0, 48, .any⟩]⟩
  | .LFT_FAULT_CNT => ⟨.LFT, 0x60B04, [], [⟨31, 0, .cnt, 0, 48, .any⟩]⟩
  | .LFT_ABORT_CNT => ⟨.LFT, 0x60B08, [], [⟨31, 0, .cnt, 0, 48, .any⟩]⟩
  | .LFT_REFUSE_CNT => ⟨.LFT, 0x60B0C, [], [⟨31, 0, .cnt, 0, 48, .any⟩]⟩
  | .LFT_MISUSE_CNT => ⟨.LFT, 0x60B10, [], [⟨31, 0, .cnt, 0, 48, .any⟩]⟩
  | .MBX_NOTICE_LOW => ⟨.MBX, 0x70000, [(0x10, 256)], [⟨31, 0, .rw, 0, 48, .any⟩]⟩
  | .MBX_NOTICE_HIGH => ⟨.MBX, 0x70004, [(0x10, 256)], [⟨31, 0, .rw, 0, 48, .any⟩]⟩
  | .MBX_STATUS => ⟨.MBX, 0x70008, [(0x10, 256)], [⟨0, 0, .ro, 0, 48, .any⟩, ⟨9, 8, .ro, 0, 48, .any⟩, ⟨23, 16, .ro, 0, 48, .any⟩]⟩
  | .MBX_CFG => ⟨.MBX, 0x7000C, [(0x10, 256)], [⟨7, 0, .rw, 0, 48, .masterId⟩, ⟨9, 8, .rw, 0, 48, .any⟩, ⟨14, 10, .rw, 0, 48, .any⟩, ⟨19, 15, .rw, 0, 48, .any⟩, ⟨20, 20, .rw, 0, 48, .any⟩]⟩
  | .MBX_DB => ⟨.MBX, 0x71000, [(0x4, 32)], [⟨31, 0, .w1c, 0, 48, .any⟩]⟩
  | .MBX_DB_SET => ⟨.MBX, 0x71080, [(0x4, 32)], [⟨31, 0, .w1s, 0, 48, .any⟩]⟩
  | .MBX_LOCK => ⟨.MBX, 0x72000, [(0x4, 256)], [⟨7, 0, .rw, 0, 48, .any⟩, ⟨31, 31, .ro, 0, 48, .any⟩]⟩
  | .MBX_LOCK_FORCE => ⟨.MBX, 0x72400, [], [⟨7, 0, .wo, 0, 0, .any⟩]⟩
  | .MBX_FLUSH => ⟨.MBX, 0x72404, [], [⟨7, 0, .wo, 0, 0, .any⟩]⟩
  | .MBX_POSTRES => ⟨.MBX, 0x72408, [], [⟨1, 0, .ro, 0, 48, .any⟩]⟩
  | .MBX_POST_CNT => ⟨.MBX, 0x72500, [], [⟨31, 0, .cnt, 0, 48, .any⟩]⟩
  | .MBX_POST_REFUSE_CNT => ⟨.MBX, 0x72504, [], [⟨31, 0, .cnt, 0, 48, .any⟩]⟩
  | .MBX_DB_COAL_CNT => ⟨.MBX, 0x72508, [], [⟨31, 0, .cnt, 0, 48, .any⟩]⟩
  | .MBX_LOCK_REFUSE_CNT => ⟨.MBX, 0x7250C, [], [⟨31, 0, .cnt, 0, 48, .any⟩]⟩
  | .MBX_FORCE_CNT => ⟨.MBX, 0x72510, [], [⟨31, 0, .cnt, 0, 48, .any⟩]⟩
  | .MBX_MISUSE_CNT => ⟨.MBX, 0x72514, [], [⟨31, 0, .cnt, 0, 48, .any⟩]⟩
  | .MAC_CFG => ⟨.MAC, 0x300000, [(0x10000, 28)], [⟨0, 0, .rw, 0, 48, .any⟩, ⟨1, 1, .rw, 0, 48, .any⟩, ⟨2, 2, .rw, 0, 48, .any⟩, ⟨5, 4, .rw, 0, 48, .any⟩, ⟨29, 16, .rw, 1522, 48, (.rng 64 9216)⟩]⟩
  | .MAC_CTRL => ⟨.MAC, 0x300004, [(0x10000, 28)], [⟨0, 0, .w1s, 0, 16, .any⟩]⟩
  | .MAC_STATUS => ⟨.MAC, 0x300008, [(0x10000, 28)], [⟨0, 0, .ro, 0, 16, .any⟩, ⟨3, 1, .ro, 0, 16, .any⟩, ⟨4, 4, .ro, 1, 16, .any⟩, ⟨5, 5, .ro, 1, 16, .any⟩, ⟨6, 6, .ro, 0, 16, .any⟩, ⟨7, 7, .ro, 0, 16, .any⟩, ⟨15, 8, .ro, 0, 16, .any⟩]⟩
  | .MAC_LINK_DB => ⟨.MAC, 0x30000C, [(0x10000, 28)], [⟨4, 0, .rw, 0, 48, .any⟩, ⟨9, 5, .rw, 0, 48, .any⟩, ⟨10, 10, .rw, 0, 48, .any⟩]⟩
  | .MAC_SA_LOW => ⟨.MAC, 0x300010, [(0x10000, 28)], [⟨31, 0, .rw, 0, 48, .any⟩]⟩
  | .MAC_SA_HIGH => ⟨.MAC, 0x300014, [(0x10000, 28)], [⟨15, 0, .rw, 0, 48, .any⟩]⟩
  | .MAC_FC_CFG => ⟨.MAC, 0x300020, [(0x10000, 28)], [⟨1, 0, .rw, 0, 48, (.le 2)⟩, ⟨2, 2, .rw, 0, 48, .any⟩, ⟨15, 8, .rw, 0, 48, .any⟩]⟩
  | .MAC_FC_TIME => ⟨.MAC, 0x300024, [(0x10000, 28)], [⟨15, 0, .rw, 65535, 48, .any⟩, ⟨31, 16, .rw, 32767, 48, (.ge 1)⟩]⟩
  | .MAC_TRAV => ⟨.MAC, 0x300040, [(0x10000, 28)], [⟨0, 0, .rw, 0, 48, .any⟩, ⟨1, 1, .rw, 1, 48, .any⟩, ⟨2, 2, .rw, 1, 48, .any⟩, ⟨15, 8, .rw, 0, 48, (.le 63)⟩, ⟨19, 16, .rw, 0, 48, .any⟩]⟩
  | .MAC_TRAV_JOB => ⟨.MAC, 0x300044, [(0x10000, 28)], [⟨31, 0, .rw, 0, 48, .any⟩]⟩
  | .MAC_PM_ADDR_LO => ⟨.MAC, 0x300100, [(0x10000, 28), (0x10, 16)], [⟨31, 0, .rw, 0, 48, .any⟩]⟩
  | .MAC_PM_CTL => ⟨.MAC, 0x300104, [(0x10000, 28), (0x10, 16)], [⟨15, 0, .rw, 0, 48, .any⟩, ⟨16, 16, .rw, 0, 48, .any⟩, ⟨17, 17, .rw, 0, 48, .any⟩, ⟨20, 18, .rw, 0, 48, .any⟩]⟩
  | .MAC_PM_JOB0 => ⟨.MAC, 0x300108, [(0x10000, 28), (0x10, 16)], [⟨31, 0, .rw, 0, 48, .any⟩]⟩
  | .MAC_PM_TAG => ⟨.MAC, 0x30010C, [(0x10000, 28), (0x10, 16)], [⟨31, 0, .rw, 0, 48, .any⟩]⟩
  | .MAC_SEC_CFG => ⟨.MAC, 0x300200, [(0x10000, 28)], [⟨0, 0, .rw, 0, 48, .any⟩, ⟨1, 1, .rw, 0, 48, .any⟩, ⟨3, 2, .rw, 2, 48, (.le 2)⟩, ⟨4, 4, .rw, 1, 48, .any⟩, ⟨7, 6, .rw, 0, 48, .any⟩]⟩
  | .MAC_SEC_WIN => ⟨.MAC, 0x300204, [(0x10000, 28)], [⟨31, 0, .rw, 0, 48, .any⟩]⟩
  | .MAC_SEC_SCI_LOW => ⟨.MAC, 0x300208, [(0x10000, 28)], [⟨31, 0, .rw, 0, 48, .any⟩]⟩
  | .MAC_SEC_SCI_HIGH => ⟨.MAC, 0x30020C, [(0x10000, 28)], [⟨31, 0, .rw, 0, 48, .any⟩]⟩
  | .MAC_SEC_RXSCI_LOW => ⟨.MAC, 0x300210, [(0x10000, 28)], [⟨31, 0, .rw, 0, 48, .any⟩]⟩
  | .MAC_SEC_RXSCI_HIGH => ⟨.MAC, 0x300214, [(0x10000, 28)], [⟨31, 0, .rw, 0, 48, .any⟩]⟩
  | .MAC_SEC_TXPN_LOW => ⟨.MAC, 0x300218, [(0x10000, 28)], [⟨31, 0, .ro, 1, 16, .any⟩]⟩
  | .MAC_SEC_TXPN_HIGH => ⟨.MAC, 0x30021C, [(0x10000, 28)], [⟨31, 0, .ro, 0, 16, .any⟩]⟩
  | .MAC_SEC_STATUS => ⟨.MAC, 0x300220, [(0x10000, 28)], [⟨3, 0, .ro, 0, 16, .any⟩, ⟨4, 4, .ro, 0, 16, .any⟩]⟩
  | .MAC_SEC_SSCI => ⟨.MAC, 0x300224, [(0x10000, 28)], [⟨31, 0, .rw, 0, 48, .any⟩]⟩
  | .MAC_SEC_RXSSCI => ⟨.MAC, 0x300228, [(0x10000, 28)], [⟨31, 0, .rw, 0, 48, .any⟩]⟩
  | .MAC_RX_OK_CNT => ⟨.MAC, 0x300080, [(0x10000, 28)], [⟨31, 0, .cnt, 0, 48, .any⟩]⟩
  | .MAC_TX_OK_CNT => ⟨.MAC, 0x300084, [(0x10000, 28)], [⟨31, 0, .cnt, 0, 48, .any⟩]⟩
  | .MAC_RUNT_CNT => ⟨.MAC, 0x300088, [(0x10000, 28)], [⟨31, 0, .cnt, 0, 48, .any⟩]⟩
  | .MAC_GIANT_CNT => ⟨.MAC, 0x30008C, [(0x10000, 28)], [⟨31, 0, .cnt, 0, 48, .any⟩]⟩
  | .MAC_FCS_CNT => ⟨.MAC, 0x300090, [(0x10000, 28)], [⟨31, 0, .cnt, 0, 48, .any⟩]⟩
  | .MAC_LEN_CNT => ⟨.MAC, 0x300094, [(0x10000, 28)], [⟨31, 0, .cnt, 0, 48, .any⟩]⟩
  | .MAC_TX_GIANT_CNT => ⟨.MAC, 0x300098, [(0x10000, 28)], [⟨31, 0, .cnt, 0, 48, .any⟩]⟩
  | .MAC_RX_PAUSE_CNT => ⟨.MAC, 0x30009C, [(0x10000, 28)], [⟨31, 0, .cnt, 0, 48, .any⟩]⟩
  | .MAC_TX_PAUSE_CNT => ⟨.MAC, 0x3000A0, [(0x10000, 28)], [⟨31, 0, .cnt, 0, 48, .any⟩]⟩
  | .MAC_CTL_UNK_CNT => ⟨.MAC, 0x3000A4, [(0x10000, 28)], [⟨31, 0, .cnt, 0, 48, .any⟩]⟩
  | .MAC_LINK_CHG_CNT => ⟨.MAC, 0x3000A8, [(0x10000, 28)], [⟨31, 0, .cnt, 0, 48, .any⟩]⟩
  | .MAC_LOCAL_DROP_CNT => ⟨.MAC, 0x3000AC, [(0x10000, 28)], [⟨31, 0, .cnt, 0, 48, .any⟩]⟩
  | .MAC_TRAV_BAD_CNT => ⟨.MAC, 0x3000B0, [(0x10000, 28)], [⟨31, 0, .cnt, 0, 48, .any⟩]⟩
  | .MAC_TRAV_LATE_CNT => ⟨.MAC, 0x3000B4, [(0x10000, 28)], [⟨31, 0, .cnt, 0, 48, .any⟩]⟩
  | .MAC_SEC_AUTH_CNT => ⟨.MAC, 0x3000B8, [(0x10000, 28)], [⟨31, 0, .cnt, 0, 48, .any⟩]⟩
  | .MAC_SEC_REPLAY_CNT => ⟨.MAC, 0x3000BC, [(0x10000, 28)], [⟨31, 0, .cnt, 0, 48, .any⟩]⟩
  | .MAC_SEC_UNTAG_CNT => ⟨.MAC, 0x3000C0, [(0x10000, 28)], [⟨31, 0, .cnt, 0, 48, .any⟩]⟩
  | .MAC_SEC_TXDROP_CNT => ⟨.MAC, 0x3000C4, [(0x10000, 28)], [⟨31, 0, .cnt, 0, 48, .any⟩]⟩
  | .MAC_MISUSE_CNT => ⟨.MAC, 0x3000C8, [(0x10000, 28)], [⟨31, 0, .cnt, 0, 48, .any⟩]⟩
  | .SDS_CFG => ⟨.SDS, 0x500000, [(0x10000, 10)], [⟨3, 0, .rw, 0, 48, .any⟩, ⟨4, 4, .rw, 0, 48, .any⟩, ⟨5, 5, .rw, 1, 48, .any⟩, ⟨6, 6, .rw, 0, 48, .any⟩, ⟨7, 7, .rw, 0, 48, .any⟩, ⟨11, 8, .rw, 8, 48, .any⟩, ⟨15, 12, .rw, 4, 48, .any⟩, ⟨17, 16, .rw, 0, 48, .any⟩]⟩
  | .SDS_CTRL => ⟨.SDS, 0x500004, [(0x10000, 10)], [⟨0, 0, .rw, 0, 48, .any⟩, ⟨1, 1, .rw, 0, 48, .any⟩]⟩
  | .SDS_STATUS => ⟨.SDS, 0x500008, [(0x10000, 10)], [⟨0, 0, .ro, 0, 48, .any⟩, ⟨1, 1, .ro, 0, 48, .any⟩, ⟨2, 2, .ro, 0, 48, .any⟩]⟩
  | .SDS_CODE_ERR_CNT => ⟨.SDS, 0x500010, [(0x10000, 10)], [⟨31, 0, .cnt, 0, 48, .any⟩]⟩
  | .SDS_LOCK_LOSS_CNT => ⟨.SDS, 0x500014, [(0x10000, 10)], [⟨31, 0, .cnt, 0, 48, .any⟩]⟩
  | .SDS_MISUSE_CNT => ⟨.SDS, 0x500018, [(0x10000, 10)], [⟨31, 0, .cnt, 0, 48, .any⟩]⟩
  | .TPHY_CFG => ⟨.TPHY, 0x600000, [(0x10000, 8)], [⟨1, 0, .rw, 0, 48, (.le 2)⟩, ⟨3, 2, .rw, 0, 48, (.le 2)⟩, ⟨4, 4, .rw, 1, 48, .any⟩, ⟨5, 5, .rw, 0, 48, .any⟩]⟩
  | .TPHY_CTRL => ⟨.TPHY, 0x600004, [(0x10000, 8)], [⟨0, 0, .wo, 0, 0, .any⟩]⟩
  | .TPHY_STATUS => ⟨.TPHY, 0x600008, [(0x10000, 8)], [⟨0, 0, .ro, 0, 48, .any⟩, ⟨1, 1, .ro, 0, 48, .any⟩, ⟨2, 2, .ro, 0, 48, .any⟩, ⟨5, 3, .ro, 0, 48, .any⟩, ⟨6, 6, .ro, 0, 48, .any⟩]⟩
  | .TPHY_LINK_LOSS_CNT => ⟨.TPHY, 0x600010, [(0x10000, 8)], [⟨31, 0, .cnt, 0, 48, .any⟩]⟩
  | .TPHY_SYMERR_CNT => ⟨.TPHY, 0x600014, [(0x10000, 8)], [⟨31, 0, .cnt, 0, 48, .any⟩]⟩
  | .TPHY_MISUSE_CNT => ⟨.TPHY, 0x600018, [(0x10000, 8)], [⟨31, 0, .cnt, 0, 48, .any⟩]⟩
  | .SWC_CFG => ⟨.SWC, 0x200000, [], [⟨15, 8, .rw, 0, 48, .any⟩, ⟨31, 16, .rw, 100, 48, .any⟩]⟩
  | .SWC_BUF_STATUS => ⟨.SWC, 0x200004, [], [⟨17, 0, .ro, 0, 48, .any⟩]⟩
  | .SWC_POOL_SIZE => ⟨.SWC, 0x200008, [], [⟨17, 0, .ro, 0, 48, .any⟩]⟩
  | .SWC_POOL_FREE => ⟨.SWC, 0x20000C, [], [⟨17, 0, .ro, 0, 48, .any⟩]⟩
  | .SWC_POOL_CFG => ⟨.SWC, 0x200010, [], [⟨15, 0, .rw, 0, 48, .any⟩, ⟨31, 16, .rw, 1, 48, .any⟩]⟩
  | .SWC_PCP_MAP => ⟨.SWC, 0x200014, [], [⟨2, 0, .rw, 1, 48, .any⟩, ⟨5, 3, .rw, 0, 48, .any⟩, ⟨8, 6, .rw, 2, 48, .any⟩, ⟨11, 9, .rw, 3, 48, .any⟩, ⟨14, 12, .rw, 4, 48, .any⟩, ⟨17, 15, .rw, 5, 48, .any⟩, ⟨20, 18, .rw, 6, 48, .any⟩, ⟨23, 21, .rw, 7, 48, .any⟩]⟩
  | .SWC_AGE_CFG => ⟨.SWC, 0x200018, [], [⟨15, 0, .rw, 300, 48, .any⟩, ⟨31, 16, .rw, 100, 48, .any⟩]⟩
  | .SWC_TXCFG => ⟨.SWC, 0x20001C, [], [⟨15, 0, .rw, 2000, 48, (.ge 1500)⟩]⟩
  | .SWC_TBL_CMD => ⟨.SWC, 0x200020, [], [⟨2, 0, .wo, 0, 0, (.le 3)⟩, ⟨5, 3, .wo, 0, 0, .any⟩, ⟨31, 16, .wo, 0, 0, .any⟩]⟩
  | .SWC_TBL_STATUS => ⟨.SWC, 0x200024, [], [⟨0, 0, .ro, 0, 48, .any⟩, ⟨3, 1, .ro, 0, 48, .any⟩, ⟨31, 16, .ro, 0, 48, .any⟩]⟩
  | .SWC_TBL_DATA => ⟨.SWC, 0x200030, [(0x4, 4)], [⟨31, 0, .rw, 0, 48, .any⟩]⟩
  | .SWC_RED => ⟨.SWC, 0x200100, [(0x10, 4)], [⟨4, 0, .rw, 0, 48, (.le 27)⟩, ⟨9, 5, .rw, 0, 48, (.le 27)⟩, ⟨11, 10, .rw, 0, 48, (.le 2)⟩, ⟨31, 16, .rw, 400, 48, .any⟩]⟩
  | .SWC_RED_SEQ => ⟨.SWC, 0x200104, [(0x10, 4)], [⟨15, 0, .rw, 0, 48, .any⟩]⟩
  | .SWC_CAP_BASE_LOW => ⟨.SWC, 0x200200, [], [⟨31, 3, .rw, 0, 48, .any⟩]⟩
  | .SWC_CAP_BASE_HIGH => ⟨.SWC, 0x200204, [], [⟨7, 0, .rw, 0, 48, .any⟩]⟩
  | .SWC_CAP_CFG => ⟨.SWC, 0x200208, [], [⟨17, 0, .rw, 0, 48, .any⟩, ⟨31, 31, .rw, 0, 48, .any⟩]⟩
  | .SWC_CAP_WR => ⟨.SWC, 0x20020C, [], [⟨17, 0, .ro, 0, 48, .any⟩]⟩
  | .SWC_CAP_RD => ⟨.SWC, 0x200210, [], [⟨17, 0, .rw, 0, 48, .any⟩]⟩
  | .SWC_CAP_DB => ⟨.SWC, 0x200214, [], [⟨4, 0, .rw, 0, 48, .any⟩, ⟨9, 5, .rw, 0, 48, .any⟩, ⟨10, 10, .rw, 0, 48, .any⟩]⟩
  | .SWC_CAPR => ⟨.SWC, 0x200240, [(0x8, 8)], [⟨5, 0, .rw, 63, 48, .capPort⟩, ⟨7, 6, .rw, 0, 48, .any⟩, ⟨15, 8, .rw, 255, 48, .any⟩, ⟨31, 16, .rw, 1, 48, .any⟩]⟩
  | .SWC_CAPR_ETYPE => ⟨.SWC, 0x200244, [(0x8, 8)], [⟨15, 0, .rw, 0, 48, .any⟩, ⟨16, 16, .rw, 0, 48, .any⟩]⟩
  | .SWC_LEARN_CNT => ⟨.SWC, 0x200400, [], [⟨31, 0, .cnt, 0, 48, .any⟩]⟩
  | .SWC_LEARN_FULL_CNT => ⟨.SWC, 0x200404, [], [⟨31, 0, .cnt, 0, 48, .any⟩]⟩
  | .SWC_FLOOD_CNT => ⟨.SWC, 0x200408, [], [⟨31, 0, .cnt, 0, 48, .any⟩]⟩
  | .SWC_TBL_REFUSE_CNT => ⟨.SWC, 0x20040C, [], [⟨31, 0, .cnt, 0, 48, .any⟩]⟩
  | .SWC_DUPTBL_OVF_CNT => ⟨.SWC, 0x200410, [], [⟨31, 0, .cnt, 0, 48, .any⟩]⟩
  | .SWC_CAP_CNT => ⟨.SWC, 0x200414, [], [⟨31, 0, .cnt, 0, 48, .any⟩]⟩
  | .SWC_CAP_LOST_CNT => ⟨.SWC, 0x200418, [], [⟨31, 0, .cnt, 0, 48, .any⟩]⟩
  | .SWC_INJ_ERR_CNT => ⟨.SWC, 0x20041C, [], [⟨31, 0, .cnt, 0, 48, .any⟩]⟩
  | .SWC_FREE_BAD_CNT => ⟨.SWC, 0x200420, [], [⟨31, 0, .cnt, 0, 48, .any⟩]⟩
  | .SWC_MISUSE_CNT => ⟨.SWC, 0x200424, [], [⟨31, 0, .cnt, 0, 48, .any⟩]⟩
  | .SWC_PORTCFG => ⟨.SWC, 0x210000, [(0x40, 38)], [⟨15, 0, .rw, 0, 48, .any⟩, ⟨31, 16, .rw, 0, 48, .any⟩]⟩
  | .SWC_PORTTH => ⟨.SWC, 0x210004, [(0x40, 38)], [⟨15, 0, .rw, 65535, 48, .any⟩, ⟨31, 16, .rw, 32768, 48, .any⟩]⟩
  | .SWC_PORTRSV => ⟨.SWC, 0x210008, [(0x40, 38)], [⟨15, 0, .rw, 0, 48, .any⟩, ⟨31, 16, .rw, 65535, 48, .any⟩]⟩
  | .SWC_PORTMODE => ⟨.SWC, 0x21000C, [(0x40, 38)], [⟨1, 0, .rw, 0, 48, (.le 2)⟩, ⟨2, 2, .rw, 0, 48, .any⟩, ⟨3, 3, .rw, 1, 48, .any⟩, ⟨4, 4, .rw, 1, 48, .any⟩, ⟨7, 5, .rw, 0, 48, .any⟩, ⟨19, 8, .rw, 1, 48, (.rng 1 4094)⟩]⟩
  | .SWC_PORTUSE => ⟨.SWC, 0x210010, [(0x40, 38)], [⟨17, 0, .ro, 0, 48, .any⟩]⟩
  | .SWC_PORTUSE2 => ⟨.SWC, 0x210014, [(0x40, 38)], [⟨15, 0, .ro, 0, 48, .any⟩, ⟨31, 16, .ro, 0, 48, .any⟩]⟩
  | .SWC_PORTQ => ⟨.SWC, 0x210018, [(0x40, 38)], [⟨17, 0, .ro, 0, 48, .any⟩]⟩
  | .SWC_PORTBP => ⟨.SWC, 0x21001C, [(0x40, 38)], [⟨0, 0, .ro, 0, 48, .any⟩, ⟨15, 8, .ro, 0, 48, .any⟩, ⟨16, 16, .ro, 1, 48, .any⟩]⟩
  | .SWC_IPORT => ⟨.SWC, 0x210C00, [(0x10, 10)], [⟨15, 0, .rw, 65535, 48, .any⟩, ⟨23, 16, .rw, 0, 48, .any⟩, ⟨27, 24, .rw, 1, 48, (.rng 1 8)⟩]⟩
  | .SWC_IJOB0 => ⟨.SWC, 0x210C04, [(0x10, 10)], [⟨31, 0, .rw, 0, 48, .any⟩]⟩
  | .SWC_IJOBTAG => ⟨.SWC, 0x210C08, [(0x10, 10)], [⟨31, 0, .rw, 0, 48, .any⟩]⟩
  | .SWC_INJ_DB => ⟨.SWC, 0x210C0C, [(0x10, 10)], [⟨4, 0, .rw, 0, 48, .any⟩, ⟨9, 5, .rw, 0, 48, .any⟩]⟩
  | .SWC_IN_CNT => ⟨.SWC, 0x211000, [(0x40, 38)], [⟨31, 0, .cnt, 0, 48, .any⟩]⟩
  | .SWC_OUT_CNT => ⟨.SWC, 0x211004, [(0x40, 38)], [⟨31, 0, .cnt, 0, 48, .any⟩]⟩
  | .SWC_SKIP_CNT => ⟨.SWC, 0x211008, [(0x40, 38)], [⟨31, 0, .cnt, 0, 48, .any⟩]⟩
  | .SWC_MC_DROP_CNT => ⟨.SWC, 0x21100C, [(0x40, 38)], [⟨31, 0, .cnt, 0, 48, .any⟩]⟩
  | .SWC_SCHED_DROP_CNT => ⟨.SWC, 0x211010, [(0x40, 38)], [⟨31, 0, .cnt, 0, 48, .any⟩]⟩
  | .SWC_HDRM_DROP_CNT => ⟨.SWC, 0x211014, [(0x40, 38)], [⟨31, 0, .cnt, 0, 48, .any⟩]⟩
  | .SWC_POLICY_DROP_CNT => ⟨.SWC, 0x211018, [(0x40, 38)], [⟨31, 0, .cnt, 0, 48, .any⟩]⟩
  | .SWC_SF_DROP_CNT => ⟨.SWC, 0x21101C, [(0x40, 38)], [⟨31, 0, .cnt, 0, 48, .any⟩]⟩
  | .SWC_DUP_CNT => ⟨.SWC, 0x211020, [(0x40, 38)], [⟨31, 0, .cnt, 0, 48, .any⟩]⟩
  | .SWC_XOFF_CNT => ⟨.SWC, 0x211024, [(0x40, 38)], [⟨31, 0, .cnt, 0, 48, .any⟩]⟩
  | .SWC_FLUSH_CNT => ⟨.SWC, 0x211028, [(0x40, 38)], [⟨31, 0, .cnt, 0, 48, .any⟩]⟩
  | .SWC_GCL_OVERSIZE_CNT => ⟨.SWC, 0x21102C, [(0x40, 38)], [⟨31, 0, .cnt, 0, 48, .any⟩]⟩
  | .SWC_TX_LATE_CNT => ⟨.SWC, 0x211030, [(0x40, 38)], [⟨31, 0, .cnt, 0, 48, .any⟩]⟩
  | .SWC_CELL_UE_CNT => ⟨.SWC, 0x211034, [(0x40, 38)], [⟨31, 0, .cnt, 0, 48, .any⟩]⟩
  | .SWC_GCL_SKIP_CNT => ⟨.SWC, 0x211038, [(0x40, 38)], [⟨31, 0, .cnt, 0, 48, .any⟩]⟩
  | .SWC_INJ_REFUSE_CNT => ⟨.SWC, 0x21103C, [(0x40, 38)], [⟨31, 0, .cnt, 0, 48, .any⟩]⟩
  | .SWC_GCL_CFG => ⟨.SWC, 0x220000, [(0x1000, 28)], [⟨0, 0, .rw, 0, 48, .any⟩, ⟨2, 1, .rw, 0, 48, .any⟩, ⟨15, 8, .rw, 0, 48, .any⟩]⟩
  | .SWC_GCL_STAT => ⟨.SWC, 0x220004, [(0x1000, 28)], [⟨0, 0, .ro, 0, 48, .any⟩, ⟨1, 1, .ro, 0, 48, .any⟩, ⟨15, 8, .ro, 255, 48, .any⟩, ⟨21, 16, .ro, 0, 48, .any⟩]⟩
  | .SWC_GCL_SW => ⟨.SWC, 0x220008, [(0x1000, 28)], [⟨0, 0, .wo, 0, 0, .any⟩]⟩
  | .SWC_GCL_CYCLE => ⟨.SWC, 0x220010, [(0x1000, 28), (0x10, 2)], [⟨31, 0, .rw, 1000000, 48, (.ge 1)⟩]⟩
  | .SWC_GCL_BASE => ⟨.SWC, 0x220014, [(0x1000, 28), (0x10, 2)], [⟨31, 0, .rw, 0, 48, .any⟩]⟩
  | .SWC_GCL_LEN => ⟨.SWC, 0x220018, [(0x1000, 28), (0x10, 2)], [⟨6, 0, .rw, 1, 48, (.rng 1 64)⟩]⟩
  | .SWC_CBS_SLOPE => ⟨.SWC, 0x220040, [(0x1000, 28), (0x8, 8)], [⟨24, 0, .rw, 0, 48, .any⟩]⟩
  | .SWC_CBS_LIM => ⟨.SWC, 0x220044, [(0x1000, 28), (0x8, 8)], [⟨15, 0, .rw, 0, 48, .any⟩, ⟨31, 16, .rw, 0, 48, .any⟩]⟩
  | .SWC_GCE => ⟨.SWC, 0x220400, [(0x1000, 28), (0x200, 2), (0x8, 64)], [⟨23, 0, .rw, 0, 48, .any⟩]⟩
  | .SWC_GCE_GATES => ⟨.SWC, 0x220404, [(0x1000, 28), (0x200, 2), (0x8, 64)], [⟨7, 0, .rw, 255, 48, .any⟩]⟩
  | .SWC_FREE => ⟨.SWC, 0x2F0000, [], [⟨26, 0, .wo, 0, 0, .any⟩]⟩
  | .SWC_INJ => ⟨.SWC, 0x2F0010, [(0x4, 4)], [⟨31, 0, .wo, 0, 0, .any⟩]⟩
  | .SWC_INJRES => ⟨.SWC, 0x2F0020, [], [⟨1, 0, .ro, 0, 48, .any⟩]⟩
  | .TMU_TB_LOW => ⟨.TMU, 0x80000, [(0x80, 4)], [⟨31, 0, .rw, 0, 62, .any⟩]⟩
  | .TMU_TB_HIGH => ⟨.TMU, 0x80004, [(0x80, 4)], [⟨7, 0, .rw, 0, 62, .any⟩]⟩
  | .TMU_TB_NOM => ⟨.TMU, 0x80008, [(0x80, 4)], [⟨31, 0, .rw, 536870912, 62, (.rng 402653184 671088640)⟩]⟩
  | .TMU_TB_INCR => ⟨.TMU, 0x8000C, [(0x80, 4)], [⟨31, 0, .ro, 536870912, 62, .any⟩]⟩
  | .TMU_TB_STEP_LOW => ⟨.TMU, 0x80010, [(0x80, 4)], [⟨31, 0, .wo, 0, 0, .any⟩]⟩
  | .TMU_TB_STEP_HIGH => ⟨.TMU, 0x80014, [(0x80, 4)], [⟨7, 0, .wo, 0, 0, .any⟩]⟩
  | .TMU_TB_OFS => ⟨.TMU, 0x80018, [(0x80, 4)], [⟨31, 0, .wo, 0, 0, .any⟩]⟩
  | .TMU_SRV_CFG => ⟨.TMU, 0x8001C, [(0x80, 4)], [⟨0, 0, .rw, 0, 62, .any⟩, ⟨3, 1, .rw, 0, 62, (.le 4)⟩, ⟨5, 4, .rw, 0, 62, .any⟩, ⟨6, 6, .rw, 1, 62, .any⟩, ⟨31, 16, .rw, 3000, 62, (.ge 1)⟩]⟩
  | .TMU_SRV_KP => ⟨.TMU, 0x80020, [(0x80, 4)], [⟨15, 0, .rw, 0, 62, .any⟩, ⟨20, 16, .rw, 0, 62, .any⟩]⟩
  | .TMU_SRV_KI => ⟨.TMU, 0x80024, [(0x80, 4)], [⟨15, 0, .rw, 0, 62, .any⟩, ⟨20, 16, .rw, 0, 62, .any⟩]⟩
  | .TMU_SRV_LIM => ⟨.TMU, 0x80028, [(0x80, 4)], [⟨23, 0, .rw, 53687, 62, .any⟩]⟩
  | .TMU_SRV_THR => ⟨.TMU, 0x8002C, [(0x80, 4)], [⟨15, 0, .rw, 100, 62, .any⟩, ⟨31, 16, .rw, 1000, 62, (.ge 1)⟩]⟩
  | .TMU_SRV_STAT => ⟨.TMU, 0x80030, [(0x80, 4)], [⟨1, 0, .ro, 0, 62, .any⟩, ⟨5, 2, .ro, 0, 62, .any⟩]⟩
  | .TMU_SRV_LAST => ⟨.TMU, 0x80034, [(0x80, 4)], [⟨31, 0, .ro, 0, 62, .any⟩]⟩
  | .TMU_SRV_INTEG => ⟨.TMU, 0x80038, [(0x80, 4)], [⟨31, 0, .ro, 0, 62, .any⟩]⟩
  | .TMU_TB_DB => ⟨.TMU, 0x8003C, [(0x80, 4)], [⟨4, 0, .rw, 0, 62, .any⟩, ⟨9, 5, .rw, 0, 62, .any⟩, ⟨10, 10, .rw, 0, 62, .any⟩, ⟨11, 11, .rw, 0, 62, .any⟩, ⟨12, 12, .rw, 0, 62, .any⟩]⟩
  | .TMU_TB_PPSEXP => ⟨.TMU, 0x80040, [(0x80, 4)], [⟨31, 0, .rw, 0, 62, .any⟩]⟩
  | .TMU_TB_PPSPER => ⟨.TMU, 0x80044, [(0x80, 4)], [⟨31, 0, .rw, 1000000000, 62, (.ge 1000)⟩]⟩
  | .TMU_TB_PTP => ⟨.TMU, 0x80048, [(0x80, 4)], [⟨7, 0, .rw, 0, 62, .any⟩, ⟨11, 8, .rw, 0, 62, .any⟩, ⟨12, 12, .rw, 0, 62, .any⟩]⟩
  | .TMU_SAMPLE_CNT => ⟨.TMU, 0x80060, [(0x80, 4)], [⟨31, 0, .cnt, 0, 62, .any⟩]⟩
  | .TMU_STEP_CNT => ⟨.TMU, 0x80064, [(0x80, 4)], [⟨31, 0, .cnt, 0, 62, .any⟩]⟩
  | .TMU_OUTLIER_CNT => ⟨.TMU, 0x80068, [(0x80, 4)], [⟨31, 0, .cnt, 0, 62, .any⟩]⟩
  | .TMU_CLAMP_CNT => ⟨.TMU, 0x8006C, [(0x80, 4)], [⟨31, 0, .cnt, 0, 62, .any⟩]⟩
  | .TMU_OFS_REFUSE_CNT => ⟨.TMU, 0x80070, [(0x80, 4)], [⟨31, 0, .cnt, 0, 62, .any⟩]⟩
  | .TMU_EVT_CFG => ⟨.TMU, 0x80200, [(0x20, 4)], [⟨1, 0, .rw, 0, 62, .any⟩, ⟨3, 2, .rw, 0, 62, .any⟩, ⟨15, 8, .rw, 4, 62, .any⟩, ⟨20, 16, .rw, 0, 62, .any⟩, ⟨25, 21, .rw, 0, 62, .any⟩, ⟨26, 26, .rw, 0, 62, .any⟩]⟩
  | .TMU_EVT_LOW => ⟨.TMU, 0x80204, [(0x20, 4)], [⟨31, 0, .ro, 0, 48, .any⟩]⟩
  | .TMU_EVT_HIGH => ⟨.TMU, 0x80208, [(0x20, 4)], [⟨7, 0, .ro, 0, 48, .any⟩, ⟨8, 8, .ro, 0, 48, .any⟩, ⟨31, 31, .ro, 0, 48, .any⟩]⟩
  | .TMU_EVT_OVF_CNT => ⟨.TMU, 0x8020C, [(0x20, 4)], [⟨31, 0, .cnt, 0, 62, .any⟩]⟩
  | .TMU_OUT_CFG => ⟨.TMU, 0x80300, [(0x20, 4)], [⟨0, 0, .rw, 0, 62, .any⟩, ⟨2, 1, .rw, 0, 62, .any⟩, ⟨3, 3, .rw, 0, 62, .any⟩]⟩
  | .TMU_OUT_START => ⟨.TMU, 0x80304, [(0x20, 4)], [⟨31, 0, .rw, 0, 62, .any⟩]⟩
  | .TMU_OUT_PER => ⟨.TMU, 0x80308, [(0x20, 4)], [⟨31, 0, .rw, 1000000000, 62, .any⟩]⟩
  | .TMU_OUT_PERF => ⟨.TMU, 0x8030C, [(0x20, 4)], [⟨7, 0, .rw, 0, 62, .any⟩]⟩
  | .TMU_OUT_HIGH => ⟨.TMU, 0x80310, [(0x20, 4)], [⟨31, 0, .rw, 100000000, 62, .any⟩]⟩
  | .TMU_OUT_SKIP_CNT => ⟨.TMU, 0x80314, [(0x20, 4)], [⟨31, 0, .cnt, 0, 62, .any⟩]⟩
  | .TMU_TXTS_LOW => ⟨.TMU, 0x80400, [(0x8, 28)], [⟨31, 0, .ro, 0, 48, .any⟩]⟩
  | .TMU_TXTS_HIGH => ⟨.TMU, 0x80404, [(0x8, 28)], [⟨15, 0, .ro, 0, 48, .any⟩, ⟨23, 16, .ro, 0, 48, .any⟩, ⟨25, 24, .ro, 0, 48, .any⟩, ⟨26, 26, .ro, 0, 48, .any⟩, ⟨31, 31, .ro, 0, 48, .any⟩]⟩
  | .TMU_TXTS_CFG => ⟨.TMU, 0x80500, [(0x4, 28)], [⟨4, 0, .rw, 0, 62, .any⟩, ⟨9, 5, .rw, 0, 62, .any⟩, ⟨10, 10, .rw, 0, 62, .any⟩, ⟨22, 16, .ro, 0, 48, .any⟩]⟩
  | .TMU_TXTS_OVF_CNT => ⟨.TMU, 0x80580, [(0x4, 28)], [⟨31, 0, .cnt, 0, 62, .any⟩]⟩
  | .TMU_PORT_LAT => ⟨.TMU, 0x80600, [(0x10, 28)], [⟨15, 0, .rw, 0, 62, .any⟩, ⟨31, 16, .rw, 0, 62, .any⟩]⟩
  | .TMU_PORT_TC => ⟨.TMU, 0x80604, [(0x10, 28)], [⟨1, 0, .rw, 0, 62, (.le 2)⟩, ⟨2, 2, .rw, 0, 62, .any⟩]⟩
  | .TMU_PORT_LINKDLY => ⟨.TMU, 0x80608, [(0x10, 28)], [⟨31, 0, .rw, 0, 62, .any⟩]⟩
  | .TMU_STATUS => ⟨.TMU, 0x80F00, [], [⟨0, 0, .ro, 0, 62, .any⟩, ⟨1, 1, .ro, 0, 62, .any⟩, ⟨2, 2, .ro, 0, 62, .any⟩]⟩
  | .TMU_REF10_ERR => ⟨.TMU, 0x80F04, [], [⟨31, 0, .ro, 0, 62, .any⟩]⟩
  | .TMU_TC_SKIP_CNT => ⟨.TMU, 0x80F10, [], [⟨31, 0, .cnt, 0, 62, .any⟩]⟩
  | .TMU_MISUSE_CNT => ⟨.TMU, 0x80F14, [], [⟨31, 0, .cnt, 0, 62, .any⟩]⟩
  | .SLM_CFG => ⟨.SLM, 0x90000, [], [⟨0, 0, .rw, 0, 48, .any⟩, ⟨1, 1, .rw, 0, 48, .any⟩, ⟨2, 2, .rw, 0, 48, .any⟩, ⟨3, 3, .rw, 0, 48, .any⟩, ⟨5, 4, .rw, 0, 48, .any⟩, ⟨10, 6, .rw, 0, 48, (.le 27)⟩, ⟨15, 11, .rw, 1, 48, (.le 27)⟩, ⟨21, 16, .rw, 63, 48, .any⟩]⟩
  | .SLM_NODE => ⟨.SLM, 0x90004, [], [⟨10, 0, .rw, 0, 48, .any⟩]⟩
  | .SLM_VLAN => ⟨.SLM, 0x90008, [], [⟨11, 0, .rw, 1, 48, (.rng 1 4094)⟩, ⟨15, 13, .rw, 6, 48, .any⟩, ⟨31, 16, .rw, 34997, 48, .any⟩]⟩
  | .SLM_DA_LOW => ⟨.SLM, 0x90010, [], [⟨31, 0, .rw, 21324, 48, .any⟩]⟩
  | .SLM_DA_HIGH => ⟨.SLM, 0x90014, [], [⟨15, 0, .rw, 768, 48, .any⟩]⟩
  | .SLM_RXWIN => ⟨.SLM, 0x90018, [], [⟨15, 0, .rw, 250, 48, (.ge 1)⟩, ⟨31, 16, .rw, 200, 48, (.ge 1)⟩]⟩
  | .SLM_SYNC => ⟨.SLM, 0x9001C, [], [⟨1, 0, .rw, 1, 48, .any⟩, ⟨13, 8, .rw, 1, 48, (.ge 1)⟩, ⟨23, 16, .rw, 4, 48, (.ge 1)⟩]⟩
  | .SLM_LISTEN => ⟨.SLM, 0x90020, [], [⟨19, 0, .rw, 2000, 48, (.ge 1)⟩]⟩
  | .SLM_STATUS => ⟨.SLM, 0x90030, [], [⟨2, 0, .ro, 0, 48, .any⟩, ⟨3, 3, .ro, 0, 48, .any⟩, ⟨4, 4, .ro, 0, 48, .any⟩, ⟨6, 5, .ro, 0, 48, .any⟩, ⟨11, 8, .ro, 0, 48, .any⟩, ⟨31, 16, .ro, 0, 48, .any⟩]⟩
  | .SLM_THETA => ⟨.SLM, 0x90034, [], [⟨31, 0, .ro, 0, 48, .any⟩]⟩
  | .SLM_SYNC_STAT => ⟨.SLM, 0x90038, [], [⟨5, 0, .ro, 0, 48, .any⟩, ⟨13, 8, .ro, 0, 48, .any⟩]⟩
  | .SLM_CSTART => ⟨.SLM, 0x9003C, [], [⟨31, 0, .ro, 0, 48, .any⟩]⟩
  | .SLM_SW => ⟨.SLM, 0x90040, [], [⟨0, 0, .wo, 0, 0, .any⟩, ⟨31, 16, .wo, 0, 0, .any⟩]⟩
  | .SLM_DB => ⟨.SLM, 0x90044, [], [⟨4, 0, .rw, 0, 48, .any⟩, ⟨9, 5, .rw, 0, 48, .any⟩, ⟨10, 10, .rw, 0, 48, .any⟩, ⟨11, 11, .rw, 0, 48, .any⟩]⟩
  | .SLM_RXJOB0 => ⟨.SLM, 0x90048, [], [⟨31, 0, .rw, 0, 48, .any⟩]⟩
  | .SLM_DCB_BASE_LOW => ⟨.SLM, 0x90050, [], [⟨31, 6, .rw, 0, 48, .any⟩]⟩
  | .SLM_DCB_BASE_HIGH => ⟨.SLM, 0x90054, [], [⟨7, 0, .rw, 0, 48, .any⟩]⟩
  | .SLM_DCB_CFG => ⟨.SLM, 0x90058, [], [⟨15, 0, .rw, 24, 48, (.ge 1)⟩]⟩
  | .SLM_BANK_CYCLE => ⟨.SLM, 0x90100, [(0x10, 2)], [⟨29, 0, .rw, 1000000, 48, (.mult 32000 1000000000 1000)⟩]⟩
  | .SLM_BANK_INFO => ⟨.SLM, 0x90104, [(0x10, 2)], [⟨8, 0, .rw, 1, 48, (.rng 1 256)⟩, ⟨22, 16, .rw, 0, 48, .any⟩]⟩
  | .SLM_BANK_SYNC => ⟨.SLM, 0x90108, [(0x10, 2)], [⟨31, 0, .rw, 4294967295, 48, .any⟩]⟩
  | .SLM_GATE_W0 => ⟨.SLM, 0x91000, [(0x1000, 2), (0x10, 256)], [⟨10, 0, .rw, 0, 48, .any⟩, ⟨11, 11, .rw, 0, 48, .any⟩, ⟨12, 12, .rw, 0, 48, .any⟩, ⟨13, 13, .rw, 0, 48, .any⟩, ⟨14, 14, .rw, 0, 48, .any⟩, ⟨15, 15, .rw, 0, 48, .any⟩, ⟨26, 16, .rw, 0, 48, (.le 1480)⟩]⟩
  | .SLM_GATE_OFF_A => ⟨.SLM, 0x91004, [(0x1000, 2), (0x10, 256)], [⟨31, 0, .rw, 4294967295, 48, .any⟩]⟩
  | .SLM_GATE_OFF_B => ⟨.SLM, 0x91008, [(0x1000, 2), (0x10, 256)], [⟨31, 0, .rw, 4294967295, 48, .any⟩]⟩
  | .SLM_GATE_W3 => ⟨.SLM, 0x9100C, [(0x1000, 2), (0x10, 256)], [⟨11, 0, .rw, 0, 48, .any⟩]⟩
  | .SLM_DCB => ⟨.SLM, 0x93000, [(0x4, 256)], [⟨1, 0, .ro, 0, 48, .any⟩, ⟨3, 2, .ro, 1, 48, .any⟩, ⟨5, 4, .ro, 2, 48, .any⟩, ⟨6, 6, .ro, 0, 48, .any⟩, ⟨7, 7, .ro, 0, 48, .any⟩]⟩
  | .SLM_DCB_CMD => ⟨.SLM, 0x93400, [(0x4, 256)], [⟨0, 0, .wo, 0, 0, .any⟩, ⟨1, 1, .wo, 0, 0, .any⟩]⟩
  | .SLM_TX_CNT => ⟨.SLM, 0x90080, [], [⟨31, 0, .cnt, 0, 48, .any⟩]⟩
  | .SLM_NULL_TX_CNT => ⟨.SLM, 0x90084, [], [⟨31, 0, .cnt, 0, 48, .any⟩]⟩
  | .SLM_TX_LATE_CNT => ⟨.SLM, 0x90088, [], [⟨31, 0, .cnt, 0, 48, .any⟩]⟩
  | .SLM_RX_OK_CNT => ⟨.SLM, 0x9008C, [], [⟨31, 0, .cnt, 0, 48, .any⟩]⟩
  | .SLM_NULL_RX_CNT => ⟨.SLM, 0x90090, [], [⟨31, 0, .cnt, 0, 48, .any⟩]⟩
  | .SLM_FWD_CNT => ⟨.SLM, 0x90094, [], [⟨31, 0, .cnt, 0, 48, .any⟩]⟩
  | .SLM_DUP_CNT => ⟨.SLM, 0x90098, [], [⟨31, 0, .cnt, 0, 48, .any⟩]⟩
  | .SLM_EARLY_CNT => ⟨.SLM, 0x9009C, [], [⟨31, 0, .cnt, 0, 48, .any⟩]⟩
  | .SLM_LATE_CNT => ⟨.SLM, 0x900A0, [], [⟨31, 0, .cnt, 0, 48, .any⟩]⟩
  | .SLM_FORMAT_CNT => ⟨.SLM, 0x900A4, [], [⟨31, 0, .cnt, 0, 48, .any⟩]⟩
  | .SLM_SCHED_CNT => ⟨.SLM, 0x900A8, [], [⟨31, 0, .cnt, 0, 48, .any⟩]⟩
  | .SLM_GATE_CNT => ⟨.SLM, 0x900AC, [], [⟨31, 0, .cnt, 0, 48, .any⟩]⟩
  | .SLM_CYCLE_CNT => ⟨.SLM, 0x900B0, [], [⟨31, 0, .cnt, 0, 48, .any⟩]⟩
  | .SLM_CLASH_CNT => ⟨.SLM, 0x900B4, [], [⟨31, 0, .cnt, 0, 48, .any⟩]⟩
  | .SLM_COLD_RX_CNT => ⟨.SLM, 0x900B8, [], [⟨31, 0, .cnt, 0, 48, .any⟩]⟩
  | .SLM_SYNC_LOW_CNT => ⟨.SLM, 0x900BC, [], [⟨31, 0, .cnt, 0, 48, .any⟩]⟩
  | .SLM_MUTE_CNT => ⟨.SLM, 0x900C0, [], [⟨31, 0, .cnt, 0, 48, .any⟩]⟩
  | .SLM_COLLIDE_CNT => ⟨.SLM, 0x900C4, [], [⟨31, 0, .cnt, 0, 48, .any⟩]⟩
  | .SLM_SW_REFUSE_CNT => ⟨.SLM, 0x900C8, [], [⟨31, 0, .cnt, 0, 48, .any⟩]⟩
  | .SLM_JOB_DROP_CNT => ⟨.SLM, 0x900CC, [], [⟨31, 0, .cnt, 0, 48, .any⟩]⟩
  | .SLM_MISUSE_CNT => ⟨.SLM, 0x900D0, [], [⟨31, 0, .cnt, 0, 48, .any⟩]⟩
  | .CAN_CFG => ⟨.CAN, 0x700000, [(0x10000, 8)], [⟨0, 0, .rw, 0, 48, .any⟩, ⟨2, 1, .rw, 0, 48, (.le 2)⟩, ⟨3, 3, .rw, 0, 48, .any⟩, ⟨4, 4, .rw, 1, 48, .any⟩, ⟨5, 5, .rw, 0, 48, .any⟩, ⟨6, 6, .rw, 0, 48, .any⟩, ⟨7, 7, .rw, 0, 48, .any⟩, ⟨9, 8, .rw, 0, 48, .any⟩]⟩
  | .CAN_CTRL => ⟨.CAN, 0x700004, [(0x10000, 8)], [⟨0, 0, .wo, 0, 0, .any⟩]⟩
  | .CAN_ARB_TIMING => ⟨.CAN, 0x700008, [(0x10000, 8)], [⟨7, 0, .rw, 63, 48, (.ge 1)⟩, ⟨14, 8, .rw, 16, 48, (.ge 1)⟩, ⟨22, 16, .rw, 16, 48, (.ge 1)⟩, ⟨31, 24, .rw, 1, 48, (.ge 1)⟩]⟩
  | .CAN_FAST_TIMING => ⟨.CAN, 0x70000C, [(0x10000, 8)], [⟨4, 0, .rw, 7, 48, (.ge 1)⟩, ⟨11, 8, .rw, 2, 48, (.ge 1)⟩, ⟨15, 12, .rw, 2, 48, (.ge 1)⟩, ⟨20, 16, .rw, 1, 48, (.ge 1)⟩]⟩
  | .CAN_SSP => ⟨.CAN, 0x700010, [(0x10000, 8)], [⟨0, 0, .rw, 0, 48, .any⟩, ⟨14, 8, .rw, 0, 48, .any⟩, ⟨22, 16, .ro, 0, 48, .any⟩]⟩
  | .CAN_LAT => ⟨.CAN, 0x700014, [(0x10000, 8)], [⟨15, 0, .rw, 0, 48, .any⟩]⟩
  | .CAN_STATUS => ⟨.CAN, 0x700018, [(0x10000, 8)], [⟨2, 0, .ro, 0, 48, .any⟩, ⟨3, 3, .ro, 0, 48, .any⟩, ⟨16, 8, .ro, 0, 48, .any⟩, ⟨24, 17, .ro, 0, 48, .any⟩]⟩
  | .CAN_DB => ⟨.CAN, 0x70001C, [(0x10000, 8)], [⟨4, 0, .rw, 0, 48, .any⟩, ⟨9, 5, .rw, 0, 48, .any⟩, ⟨10, 10, .rw, 0, 48, .any⟩, ⟨11, 11, .rw, 0, 48, .any⟩, ⟨12, 12, .rw, 0, 48, .any⟩]⟩
  | .CAN_RING_BASE_LOW => ⟨.CAN, 0x700020, [(0x10000, 8)], [⟨31, 4, .rw, 0, 48, .any⟩]⟩
  | .CAN_RING_BASE_HIGH => ⟨.CAN, 0x700024, [(0x10000, 8)], [⟨7, 0, .rw, 0, 48, .any⟩]⟩
  | .CAN_RING_CFG => ⟨.CAN, 0x700028, [(0x10000, 8)], [⟨15, 0, .rw, 0, 48, .any⟩, ⟨30, 30, .rw, 0, 48, .any⟩, ⟨31, 31, .rw, 0, 48, .any⟩]⟩
  | .CAN_RING_WR => ⟨.CAN, 0x70002C, [(0x10000, 8)], [⟨15, 0, .ro, 0, 48, .any⟩]⟩
  | .CAN_RING_RD => ⟨.CAN, 0x700030, [(0x10000, 8)], [⟨15, 0, .rw, 0, 48, .any⟩]⟩
  | .CAN_RXJOB0 => ⟨.CAN, 0x700034, [(0x10000, 8)], [⟨31, 0, .rw, 0, 48, .any⟩]⟩
  | .CAN_TXREQ => ⟨.CAN, 0x700040, [(0x10000, 8), (0x4, 2)], [⟨31, 0, .w1s, 0, 48, .any⟩]⟩
  | .CAN_TXCANCEL => ⟨.CAN, 0x700048, [(0x10000, 8), (0x4, 2)], [⟨31, 0, .wo, 0, 0, .any⟩]⟩
  | .CAN_TXDONE => ⟨.CAN, 0x700050, [(0x10000, 8), (0x4, 2)], [⟨31, 0, .w1c, 0, 48, .any⟩]⟩
  | .CAN_TXMISS => ⟨.CAN, 0x700058, [(0x10000, 8), (0x4, 2)], [⟨31, 0, .w1c, 0, 48, .any⟩]⟩
  | .CAN_MX_CFG => ⟨.CAN, 0x700060, [(0x10000, 8)], [⟨0, 0, .rw, 0, 48, .any⟩, ⟨3, 1, .rw, 0, 48, (.le 6)⟩, ⟨13, 8, .rw, 1, 48, (.rng 1 32)⟩, ⟨31, 16, .rw, 0, 48, .any⟩]⟩
  | .CAN_MX_BASE => ⟨.CAN, 0x700064, [(0x10000, 8)], [⟨31, 0, .rw, 0, 48, .any⟩]⟩
  | .CAN_MX_BC => ⟨.CAN, 0x700068, [(0x10000, 8)], [⟨31, 0, .rw, 1000000, 48, (.ge 10000)⟩]⟩
  | .CAN_MX_STAT => ⟨.CAN, 0x70006C, [(0x10000, 8)], [⟨5, 0, .ro, 0, 48, .any⟩, ⟨12, 8, .ro, 0, 48, .any⟩, ⟨13, 13, .ro, 0, 48, .any⟩]⟩
  | .CAN_MX_START => ⟨.CAN, 0x700100, [(0x10000, 8), (0x8, 32)], [⟨31, 0, .rw, 0, 48, .any⟩]⟩
  | .CAN_MX_LEN => ⟨.CAN, 0x700104, [(0x10000, 8), (0x8, 32)], [⟨31, 0, .rw, 0, 48, .any⟩]⟩
  | .CAN_MX_CELL => ⟨.CAN, 0x703000, [(0x10000, 8), (0x40, 64), (0x4, 8)], [⟨31, 0, .rw, 0, 48, .any⟩]⟩
  | .CAN_RX_OK_CNT => ⟨.CAN, 0x700200, [(0x10000, 8)], [⟨31, 0, .cnt, 0, 48, .any⟩]⟩
  | .CAN_TX_OK_CNT => ⟨.CAN, 0x700204, [(0x10000, 8)], [⟨31, 0, .cnt, 0, 48, .any⟩]⟩
  | .CAN_RX_OVF_CNT => ⟨.CAN, 0x700208, [(0x10000, 8)], [⟨31, 0, .cnt, 0, 48, .any⟩]⟩
  | .CAN_JOB_DROP_CNT => ⟨.CAN, 0x70020C, [(0x10000, 8)], [⟨31, 0, .cnt, 0, 48, .any⟩]⟩
  | .CAN_ARB_LOST_CNT => ⟨.CAN, 0x700210, [(0x10000, 8)], [⟨31, 0, .cnt, 0, 48, .any⟩]⟩
  | .CAN_BIT_ERR_CNT => ⟨.CAN, 0x700214, [(0x10000, 8)], [⟨31, 0, .cnt, 0, 48, .any⟩]⟩
  | .CAN_STUFF_ERR_CNT => ⟨.CAN, 0x700218, [(0x10000, 8)], [⟨31, 0, .cnt, 0, 48, .any⟩]⟩
  | .CAN_FORM_ERR_CNT => ⟨.CAN, 0x70021C, [(0x10000, 8)], [⟨31, 0, .cnt, 0, 48, .any⟩]⟩
  | .CAN_CRC_ERR_CNT => ⟨.CAN, 0x700220, [(0x10000, 8)], [⟨31, 0, .cnt, 0, 48, .any⟩]⟩
  | .CAN_ACK_ERR_CNT => ⟨.CAN, 0x700224, [(0x10000, 8)], [⟨31, 0, .cnt, 0, 48, .any⟩]⟩
  | .CAN_PXE_CNT => ⟨.CAN, 0x700228, [(0x10000, 8)], [⟨31, 0, .cnt, 0, 48, .any⟩]⟩
  | .CAN_BUSOFF_CNT => ⟨.CAN, 0x70022C, [(0x10000, 8)], [⟨31, 0, .cnt, 0, 48, .any⟩]⟩
  | .CAN_MISSED_CNT => ⟨.CAN, 0x700230, [(0x10000, 8)], [⟨31, 0, .cnt, 0, 48, .any⟩]⟩
  | .CAN_MX_SKIP_CNT => ⟨.CAN, 0x700234, [(0x10000, 8)], [⟨31, 0, .cnt, 0, 48, .any⟩]⟩
  | .CAN_TX_REFUSE_CNT => ⟨.CAN, 0x700238, [(0x10000, 8)], [⟨31, 0, .cnt, 0, 48, .any⟩]⟩
  | .CAN_MISUSE_CNT => ⟨.CAN, 0x70023C, [(0x10000, 8)], [⟨31, 0, .cnt, 0, 48, .any⟩]⟩
  | .BLD_GCFG => ⟨.BLD, 0x800000, [(0x10000, 8)], [⟨0, 0, .rw, 0, 48, .any⟩]⟩
  | .BLD_CTRL => ⟨.BLD, 0x800004, [(0x10000, 8)], [⟨3, 0, .rw, 0, 48, .any⟩]⟩
  | .BLD_RESTART => ⟨.BLD, 0x800008, [(0x10000, 8)], [⟨3, 0, .wo, 0, 0, .any⟩, ⟨4, 4, .wo, 0, 0, .any⟩, ⟨6, 5, .wo, 0, 0, .any⟩]⟩
  | .BLD_RESTART_T => ⟨.BLD, 0x80000C, [(0x10000, 8)], [⟨31, 0, .rw, 0, 48, .any⟩]⟩
  | .BLD_RESTART_STAT => ⟨.BLD, 0x800010, [(0x10000, 8)], [⟨0, 0, .ro, 0, 48, .any⟩, ⟨7, 4, .ro, 0, 48, .any⟩]⟩
  | .BLD_FLAGS => ⟨.BLD, 0x800014, [(0x10000, 8)], [⟨7, 0, .w1c, 0, 48, .any⟩]⟩
  | .BLD_FLAGS_SET => ⟨.BLD, 0x800018, [(0x10000, 8)], [⟨7, 0, .w1s, 0, 48, .any⟩]⟩
  | .BLD_JOB0 => ⟨.BLD, 0x80001C, [(0x10000, 8)], [⟨31, 0, .rw, 0, 48, .any⟩]⟩
  | .BLD_FLAG_CFG => ⟨.BLD, 0x800020, [(0x10000, 8), (0x4, 8)], [⟨4, 0, .rw, 0, 48, .any⟩, ⟨9, 5, .rw, 0, 48, .any⟩, ⟨10, 10, .rw, 0, 48, .any⟩, ⟨11, 11, .rw, 0, 48, .any⟩]⟩
  | .BLD_PINSTATE => ⟨.BLD, 0x800040, [(0x10000, 8)], [⟨7, 0, .ro, 0, 48, .any⟩, ⟨15, 8, .ro, 0, 48, .any⟩]⟩
  | .BLD_PROG => ⟨.BLD, 0x800080, [(0x10000, 8), (0x4, 48)], [⟨15, 0, .rw, 0, 48, .any⟩]⟩
  | .BLD_ILLEGAL_CNT => ⟨.BLD, 0x800300, [(0x10000, 8)], [⟨31, 0, .cnt, 0, 48, .any⟩]⟩
  | .BLD_ILLEGAL_PC => ⟨.BLD, 0x800304, [(0x10000, 8)], [⟨5, 0, .ro, 0, 48, .any⟩, ⟨7, 6, .ro, 0, 48, .any⟩]⟩
  | .BLD_JOB_DROP_CNT => ⟨.BLD, 0x800308, [(0x10000, 8)], [⟨31, 0, .cnt, 0, 48, .any⟩]⟩
  | .BLD_MISUSE_CNT => ⟨.BLD, 0x80030C, [(0x10000, 8)], [⟨31, 0, .cnt, 0, 48, .any⟩]⟩
  | .BLD_CLK => ⟨.BLD, 0x800200, [(0x10000, 8), (0x40, 4)], [⟨15, 0, .rw, 1, 48, (.ge 1)⟩, ⟨23, 16, .rw, 0, 48, .any⟩, ⟨24, 24, .rw, 0, 48, .any⟩, ⟨26, 25, .rw, 0, 48, .any⟩]⟩
  | .BLD_LANES => ⟨.BLD, 0x800204, [(0x10000, 8), (0x40, 4)], [⟨2, 0, .rw, 0, 48, .any⟩, ⟨10, 8, .rw, 0, 48, .any⟩, ⟨18, 16, .rw, 0, 48, .any⟩, ⟨26, 24, .rw, 0, 48, .any⟩, ⟨4, 3, .rw, 0, 48, .any⟩, ⟨12, 11, .rw, 0, 48, .any⟩, ⟨20, 19, .rw, 0, 48, .any⟩, ⟨28, 27, .rw, 0, 48, .any⟩, ⟨5, 5, .rw, 0, 48, .any⟩, ⟨13, 13, .rw, 0, 48, .any⟩, ⟨21, 21, .rw, 0, 48, .any⟩, ⟨29, 29, .rw, 0, 48, .any⟩]⟩
  | .BLD_FORM => ⟨.BLD, 0x800208, [(0x10000, 8), (0x40, 4)], [⟨4, 0, .rw, 0, 48, .any⟩, ⟨5, 5, .rw, 0, 48, .any⟩, ⟨12, 8, .rw, 0, 48, .any⟩, ⟨13, 13, .rw, 0, 48, .any⟩, ⟨19, 16, .rw, 1, 48, (.ge 1)⟩, ⟨21, 20, .rw, 0, 48, .any⟩, ⟨23, 22, .rw, 0, 48, .any⟩, ⟨25, 24, .rw, 0, 48, .any⟩, ⟨28, 26, .rw, 0, 48, .any⟩]⟩
  | .BLD_PCFG => ⟨.BLD, 0x80020C, [(0x10000, 8), (0x40, 4)], [⟨5, 0, .rw, 0, 48, (.le 47)⟩, ⟨13, 8, .rw, 0, 48, (.le 47)⟩, ⟨21, 16, .ro, 0, 48, .any⟩, ⟨29, 24, .ro, 0, 48, .any⟩]⟩
  | .BLD_STATUS => ⟨.BLD, 0x800210, [(0x10000, 8), (0x40, 4)], [⟨5, 0, .ro, 0, 48, .any⟩, ⟨10, 8, .ro, 0, 48, .any⟩, ⟨14, 11, .ro, 0, 48, .any⟩, ⟨15, 15, .ro, 0, 48, .any⟩, ⟨16, 16, .ro, 0, 48, .any⟩, ⟨22, 17, .ro, 0, 48, .any⟩, ⟨28, 23, .ro, 0, 48, .any⟩]⟩
  | .BLD_TXHOLD => ⟨.BLD, 0x800214, [(0x10000, 8), (0x40, 4)], [⟨31, 0, .rw, 0, 48, .any⟩]⟩
  | .BLD_RXHOLD => ⟨.BLD, 0x800218, [(0x10000, 8), (0x40, 4)], [⟨31, 0, .ro, 0, 48, .any⟩]⟩
  | .BLD_G => ⟨.BLD, 0x80021C, [(0x10000, 8), (0x40, 4)], [⟨31, 0, .ro, 0, 48, .any⟩]⟩
  | .BLD_C => ⟨.BLD, 0x800220, [(0x10000, 8), (0x40, 4)], [⟨15, 0, .ro, 0, 48, .any⟩]⟩
  | .BLD_T => ⟨.BLD, 0x800224, [(0x10000, 8), (0x40, 4)], [⟨31, 0, .ro, 0, 48, .any⟩]⟩
  | .BLD_DB => ⟨.BLD, 0x800228, [(0x10000, 8), (0x40, 4)], [⟨4, 0, .rw, 0, 48, .any⟩, ⟨9, 5, .rw, 0, 48, .any⟩, ⟨10, 10, .rw, 0, 48, .any⟩, ⟨11, 11, .rw, 0, 48, .any⟩]⟩
  | .BLD_ATSTEP => ⟨.BLD, 0x80022C, [(0x10000, 8), (0x40, 4)], [⟨31, 0, .rw, 0, 48, .any⟩]⟩
  | .BLD_UNDERRUN_CNT => ⟨.BLD, 0x800230, [(0x10000, 8), (0x40, 4)], [⟨31, 0, .cnt, 0, 48, .any⟩]⟩
  | .BLD_OVERRUN_CNT => ⟨.BLD, 0x800234, [(0x10000, 8), (0x40, 4)], [⟨31, 0, .cnt, 0, 48, .any⟩]⟩
  | .BLD_LATE_CNT => ⟨.BLD, 0x800238, [(0x10000, 8), (0x40, 4)], [⟨31, 0, .cnt, 0, 48, .any⟩]⟩
  | .BLD_TXREFUSE_CNT => ⟨.BLD, 0x80023C, [(0x10000, 8), (0x40, 4)], [⟨31, 0, .cnt, 0, 48, .any⟩]⟩
  | .PIN_CFG => ⟨.PIN, 0x900000, [(0x4, 64)], [⟨0, 0, .rw, 0, 48, .any⟩, ⟨2, 1, .rw, 0, 48, (.le 2)⟩, ⟨3, 3, .rw, 0, 48, .any⟩, ⟨5, 4, .rw, 0, 48, .any⟩]⟩
  | .PIN_LEVEL_LOW => ⟨.PIN, 0x900100, [], [⟨31, 0, .ro, 0, 48, .any⟩]⟩
  | .PIN_LEVEL_HIGH => ⟨.PIN, 0x900104, [], [⟨31, 0, .ro, 0, 48, .any⟩]⟩
  | .PIN_BANK => ⟨.PIN, 0x900200, [(0x4, 4)], [⟨1, 0, .ro, 0, 48, .any⟩]⟩
  | .PIN_BANK_CHG_CNT => ⟨.PIN, 0x900300, [], [⟨31, 0, .cnt, 0, 48, .any⟩]⟩
  | .PIN_MISUSE_CNT => ⟨.PIN, 0x900304, [], [⟨31, 0, .cnt, 0, 48, .any⟩]⟩
  | .CTL_CFG => ⟨.CTL, 0xB0000, [], [⟨13, 0, .rw, 0, 48, .any⟩]⟩
  | .CTL_STATUS => ⟨.CTL, 0xB0004, [], [⟨0, 0, .ro, 0, 48, .any⟩]⟩
  | .CTL_PI_BASE_LOW => ⟨.CTL, 0xB0008, [], [⟨31, 0, .ro, 0, 48, .any⟩]⟩
  | .CTL_PI_BASE_HIGH => ⟨.CTL, 0xB000C, [], [⟨7, 0, .ro, 0, 48, .any⟩]⟩
  | .CTL_COMMIT => ⟨.CTL, 0xB0010, [], [⟨12, 0, .wo, 0, 0, .any⟩]⟩
  | .CTL_LOSS => ⟨.CTL, 0xB0014, [], [⟨11, 0, .wo, 0, 0, .any⟩]⟩
  | .CTL_FORCE => ⟨.CTL, 0xB0018, [], [⟨12, 0, .wo, 0, 0, .any⟩, ⟨13, 13, .wo, 0, 0, .any⟩]⟩
  | .CTL_ARITH => ⟨.CTL, 0xB001C, [], [⟨3, 0, .wo, 0, 0, .any⟩]⟩
  | .CTL_DB => ⟨.CTL, 0xB0020, [], [⟨4, 0, .rw, 0, 48, .any⟩, ⟨9, 5, .rw, 0, 48, .any⟩, ⟨10, 10, .rw, 0, 48, .any⟩, ⟨11, 11, .rw, 0, 48, .any⟩, ⟨12, 12, .rw, 0, 48, .any⟩]⟩
  | .CTL_TASK_CFG => ⟨.CTL, 0xB0100, [(0x40, 16)], [⟨0, 0, .rw, 0, 48, .any⟩, ⟨2, 1, .rw, 0, 48, .any⟩, ⟨4, 3, .rw, 0, 48, .any⟩, ⟨9, 5, .rw, 0, 48, (.le 27)⟩, ⟨10, 10, .rw, 0, 48, .any⟩, ⟨23, 16, .rw, 1, 48, (.ge 1)⟩, ⟨31, 24, .rw, 3, 48, (.ge 1)⟩]⟩
  | .CTL_TASK_PERIOD => ⟨.CTL, 0xB0104, [(0x40, 16)], [⟨31, 0, .rw, 1000000, 48, (.ge 10000)⟩]⟩
  | .CTL_TASK_BASE => ⟨.CTL, 0xB0108, [(0x40, 16)], [⟨31, 0, .rw, 0, 48, .any⟩]⟩
  | .CTL_TASK_OFFSET => ⟨.CTL, 0xB010C, [(0x40, 16)], [⟨31, 0, .rw, 0, 48, .any⟩]⟩
  | .CTL_TASK_DEADLINE => ⟨.CTL, 0xB0110, [(0x40, 16)], [⟨31, 0, .rw, 500000, 48, .any⟩]⟩
  | .CTL_TASK_HOLD => ⟨.CTL, 0xB0114, [(0x40, 16)], [⟨3, 0, .rw, 3, 48, .any⟩]⟩
  | .CTL_TASK_JOB0 => ⟨.CTL, 0xB0118, [(0x40, 16)], [⟨31, 0, .rw, 0, 48, .any⟩]⟩
  | .CTL_TASK_STACK => ⟨.CTL, 0xB011C, [(0x40, 16)], [⟨15, 0, .rw, 0, 48, (.mult 0 65535 4)⟩, ⟨31, 16, .rw, 0, 48, .any⟩]⟩
  | .CTL_TASK_CODE_LOW => ⟨.CTL, 0xB0120, [(0x40, 16)], [⟨31, 0, .ro, 0, 48, .any⟩]⟩
  | .CTL_TASK_CODE_HIGH => ⟨.CTL, 0xB0124, [(0x40, 16)], [⟨7, 0, .ro, 0, 48, .any⟩]⟩
  | .CTL_TASK_STAT => ⟨.CTL, 0xB0128, [(0x40, 16)], [⟨1, 0, .ro, 0, 48, .any⟩, ⟨2, 2, .ro, 0, 48, .any⟩, ⟨3, 3, .w1c, 0, 48, .any⟩, ⟨15, 8, .ro, 0, 48, .any⟩, ⟨21, 16, .ro, 0, 48, .any⟩]⟩
  | .CTL_TASK_T0 => ⟨.CTL, 0xB012C, [(0x40, 16)], [⟨31, 0, .ro, 0, 48, .any⟩]⟩
  | .CTL_XCHG_ADDR_LOW => ⟨.CTL, 0xB0130, [(0x40, 16)], [⟨31, 0, .rw, 0, 48, .any⟩]⟩
  | .CTL_XCHG_ADDR_HIGH => ⟨.CTL, 0xB0134, [(0x40, 16)], [⟨7, 0, .rw, 0, 48, .any⟩]⟩
  | .CTL_XCHG_AT => ⟨.CTL, 0xB0138, [(0x40, 16)], [⟨31, 0, .rw, 0, 48, .any⟩]⟩
  | .CTL_TASK_CTRL => ⟨.CTL, 0xB013C, [(0x40, 16)], [⟨0, 0, .w1s, 0, 48, .any⟩, ⟨1, 1, .wo, 0, 0, .any⟩, ⟨2, 2, .ro, 0, 48, .any⟩]⟩
  | .CTL_SLOT => ⟨.CTL, 0xB8000, [(0x4, 8192)], [⟨1, 0, .ro, 0, 48, .any⟩, ⟨3, 2, .ro, 1, 48, .any⟩, ⟨5, 4, .ro, 2, 48, .any⟩, ⟨6, 6, .ro, 0, 48, .any⟩, ⟨7, 7, .ro, 1, 48, .any⟩, ⟨9, 8, .ro, 2, 48, .any⟩, ⟨10, 10, .ro, 0, 48, .any⟩, ⟨14, 11, .ro, 15, 48, .any⟩, ⟨23, 16, .ro, 0, 48, .any⟩, ⟨25, 24, .ro, 0, 48, .any⟩]⟩
  | .CTL_COMMIT_REFUSE_CNT => ⟨.CTL, 0xB0040, [], [⟨31, 0, .cnt, 0, 48, .any⟩]⟩
  | .CTL_JOB_DROP_CNT => ⟨.CTL, 0xB0044, [], [⟨31, 0, .cnt, 0, 48, .any⟩]⟩
  | .CTL_XCHG_REFUSE_CNT => ⟨.CTL, 0xB0048, [], [⟨31, 0, .cnt, 0, 48, .any⟩]⟩
  | .CTL_MISUSE_CNT => ⟨.CTL, 0xB004C, [], [⟨31, 0, .cnt, 0, 48, .any⟩]⟩
  | .CTL_RUN_CNT => ⟨.CTL, 0xB0600, [(0x20, 16)], [⟨31, 0, .cnt, 0, 48, .any⟩]⟩
  | .CTL_OVR_CNT => ⟨.CTL, 0xB0604, [(0x20, 16)], [⟨31, 0, .cnt, 0, 48, .any⟩]⟩
  | .CTL_SKIP_CNT => ⟨.CTL, 0xB0608, [(0x20, 16)], [⟨31, 0, .cnt, 0, 48, .any⟩]⟩
  | .CTL_ARITH_CNT => ⟨.CTL, 0xB060C, [(0x20, 16)], [⟨31, 0, .cnt, 0, 48, .any⟩]⟩
  | .CTL_STOP_CNT => ⟨.CTL, 0xB0610, [(0x20, 16)], [⟨31, 0, .cnt, 0, 48, .any⟩]⟩
  | .PAR_CFG => ⟨.PAR, 0xA0000, [], [⟨0, 0, .rw, 0, 48, .any⟩, ⟨1, 1, .rw, 1, 48, .any⟩, ⟨2, 2, .rw, 0, 48, .any⟩, ⟨11, 8, .rw, 3, 48, (.ge 1)⟩, ⟨31, 16, .rw, 50, 48, (.rng 10 10000)⟩]⟩
  | .PAR_ID => ⟨.PAR, 0xA0004, [], [⟨15, 0, .rw, 0, 48, .any⟩]⟩
  | .PAR_NODE => ⟨.PAR, 0xA0008, [], [⟨10, 0, .rw, 0, 48, .any⟩, ⟨26, 16, .rw, 0, 48, .any⟩]⟩
  | .PAR_START => ⟨.PAR, 0xA000C, [], [⟨15, 0, .rw, 20, 48, (.ge 1)⟩, ⟨23, 16, .rw, 3, 48, (.ge 1)⟩]⟩
  | .PAR_PAIR_MAC_LOW => ⟨.PAR, 0xA0010, [], [⟨31, 0, .rw, 0, 48, .any⟩]⟩
  | .PAR_PAIR_MAC_HIGH => ⟨.PAR, 0xA0014, [], [⟨15, 0, .rw, 0, 48, .any⟩]⟩
  | .PAR_NETHB => ⟨.PAR, 0xA0018, [], [⟨4, 0, .rw, 0, 48, .any⟩, ⟨5, 5, .rw, 0, 48, .any⟩, ⟨31, 16, .rw, 34998, 48, .any⟩]⟩
  | .PAR_COPY_CFG => ⟨.PAR, 0xA0020, [], [⟨3, 0, .rw, 0, 48, .any⟩, ⟨15, 8, .rw, 4, 48, .any⟩, ⟨31, 16, .rw, 0, 48, .any⟩]⟩
  | .PAR_COPY_WIN => ⟨.PAR, 0xA0024, [], [⟨31, 0, .rw, 100000, 48, (.ge 1)⟩]⟩
  | .PAR_TRACK_LOW => ⟨.PAR, 0xA0040, [(0x8, 8)], [⟨31, 12, .rw, 0, 48, .any⟩]⟩
  | .PAR_TRACK_HIGH => ⟨.PAR, 0xA0044, [(0x8, 8)], [⟨7, 0, .rw, 0, 48, .any⟩, ⟨20, 8, .rw, 0, 48, .any⟩]⟩
  | .PAR_STATUS => ⟨.PAR, 0xA0080, [], [⟨1, 0, .ro, 0, 48, .any⟩, ⟨3, 2, .ro, 0, 48, .any⟩, ⟨4, 4, .ro, 0, 48, .any⟩, ⟨5, 5, .ro, 0, 48, .any⟩, ⟨6, 6, .ro, 0, 48, .any⟩, ⟨7, 7, .ro, 0, 48, .any⟩, ⟨9, 8, .ro, 0, 48, .any⟩, ⟨10, 10, .ro, 0, 48, .any⟩, ⟨11, 11, .ro, 0, 48, .any⟩, ⟨13, 12, .ro, 0, 48, .any⟩, ⟨14, 14, .ro, 0, 48, .any⟩, ⟨19, 16, .ro, 0, 48, .any⟩, ⟨23, 20, .ro, 0, 48, .any⟩]⟩
  | .PAR_CTRL => ⟨.PAR, 0xA0084, [], [⟨0, 0, .wo, 0, 0, .any⟩, ⟨1, 1, .wo, 0, 0, .any⟩, ⟨2, 2, .wo, 0, 0, .any⟩]⟩
  | .PAR_COPY_BYTES => ⟨.PAR, 0xA0088, [], [⟨31, 0, .ro, 0, 48, .any⟩]⟩
  | .PAR_COPY_TIME => ⟨.PAR, 0xA008C, [], [⟨31, 0, .ro, 0, 48, .any⟩]⟩
  | .PAR_DIV_SLOT => ⟨.PAR, 0xA0090, [], [⟨12, 0, .ro, 0, 48, .any⟩, ⟨23, 16, .ro, 0, 48, .any⟩]⟩
  | .PAR_DB => ⟨.PAR, 0xA0094, [], [⟨4, 0, .rw, 0, 48, .any⟩, ⟨9, 5, .rw, 0, 48, .any⟩, ⟨10, 10, .rw, 0, 48, .any⟩, ⟨11, 11, .rw, 0, 48, .any⟩, ⟨12, 12, .rw, 0, 48, .any⟩]⟩
  | .PAR_SEQREC => ⟨.PAR, 0xA00A0, [(0x4, 4)], [⟨15, 0, .ro, 0, 48, .any⟩, ⟨16, 16, .ro, 0, 48, .any⟩]⟩
  | .PAR_HB_BAD_CNT => ⟨.PAR, 0xA0100, [], [⟨31, 0, .cnt, 0, 48, .any⟩]⟩
  | .PAR_TMISS_CNT => ⟨.PAR, 0xA0104, [], [⟨31, 0, .cnt, 0, 48, .any⟩]⟩
  | .PAR_NMISS_CNT => ⟨.PAR, 0xA0108, [], [⟨31, 0, .cnt, 0, 48, .any⟩]⟩
  | .PAR_TAKEOVER_CNT => ⟨.PAR, 0xA010C, [], [⟨31, 0, .cnt, 0, 48, .any⟩]⟩
  | .PAR_YIELD_CNT => ⟨.PAR, 0xA0110, [], [⟨31, 0, .cnt, 0, 48, .any⟩]⟩
  | .PAR_RANK_CLASH_CNT => ⟨.PAR, 0xA0114, [], [⟨31, 0, .cnt, 0, 48, .any⟩]⟩
  | .PAR_COPY_LATE_CNT => ⟨.PAR, 0xA0118, [], [⟨31, 0, .cnt, 0, 48, .any⟩]⟩
  | .PAR_DIV_CNT => ⟨.PAR, 0xA011C, [], [⟨31, 0, .cnt, 0, 48, .any⟩]⟩
  | .PAR_CMP_SKIP_CNT => ⟨.PAR, 0xA0120, [], [⟨31, 0, .cnt, 0, 48, .any⟩]⟩
  | .PAR_IMG_MISMATCH_CNT => ⟨.PAR, 0xA0124, [], [⟨31, 0, .cnt, 0, 48, .any⟩]⟩
  | .PAR_PROG_MISMATCH_CNT => ⟨.PAR, 0xA0128, [], [⟨31, 0, .cnt, 0, 48, .any⟩]⟩
  | .PAR_AUTH_CNT => ⟨.PAR, 0xA012C, [], [⟨31, 0, .cnt, 0, 48, .any⟩]⟩
  | .PAR_LANE_LOSS_CNT => ⟨.PAR, 0xA0130, [], [⟨31, 0, .cnt, 0, 48, .any⟩]⟩
  | .PAR_MISUSE_CNT => ⟨.PAR, 0xA0134, [], [⟨31, 0, .cnt, 0, 48, .any⟩]⟩
  | .PAT_STATUS => ⟨.PAT, 0xC0000, [], [⟨2, 0, .ro, 0, 48, .any⟩]⟩
  | .PAT_LOAD => ⟨.PAT, 0xC0004, [], [⟨7, 0, .ro, 0, 48, .any⟩, ⟨10, 8, .ro, 0, 48, .any⟩, ⟨23, 16, .rw, 90, 48, (.le 100)⟩, ⟨31, 24, .rw, 60, 48, .any⟩]⟩
  | .PAT_WDOG_CFG => ⟨.PAT, 0xC0008, [], [⟨0, 0, .w1s, 0, 48, .any⟩, ⟨31, 16, .rw, 1000, 48, (.ge 1)⟩]⟩
  | .PAT_WDOG_KICK => ⟨.PAT, 0xC000C, [], [⟨31, 0, .wo, 0, 0, .any⟩]⟩
  | .PAT_WDOG_LEFT => ⟨.PAT, 0xC0010, [], [⟨15, 0, .ro, 0, 48, .any⟩]⟩
  | .PAT_FAULT_PEND => ⟨.PAT, 0xC0014, [], [⟨3, 0, .w1c, 0, 48, .any⟩]⟩
  | .PAT_FAULT_CFG => ⟨.PAT, 0xC0018, [], [⟨4, 0, .rw, 0, 48, .any⟩, ⟨9, 5, .rw, 0, 48, .any⟩, ⟨10, 10, .rw, 0, 48, .any⟩]⟩
  | .PAT_SQ_PUSH => ⟨.PAT, 0xC0020, [(0x4, 8)], [⟨31, 0, .wo, 0, 0, .any⟩]⟩
  | .PAT_SQ_STATUS => ⟨.PAT, 0xC0040, [], [⟨6, 0, .ro, 0, 48, .any⟩]⟩
  | .PAT_SPACE_ROOT_LOW => ⟨.PAT, 0xC0080, [(0x8, 16)], [⟨31, 12, .rw, 0, 48, (.mult 0 1048575 2)⟩]⟩
  | .PAT_SPACE_ROOT_HIGH => ⟨.PAT, 0xC0084, [(0x8, 16)], [⟨7, 0, .rw, 0, 48, .any⟩, ⟨8, 8, .rw, 0, 48, .any⟩]⟩
  | .PAT_CTX_FLT => ⟨.PAT, 0xC0100, [(0x10, 4)], [⟨3, 0, .ro, 0, 48, .any⟩, ⟨5, 4, .ro, 0, 48, .any⟩, ⟨6, 6, .ro, 0, 48, .any⟩, ⟨7, 7, .ro, 0, 48, .any⟩, ⟨31, 13, .ro, 0, 48, .any⟩]⟩
  | .PAT_CTX_VA => ⟨.PAT, 0xC0104, [(0x10, 4)], [⟨31, 0, .ro, 0, 48, .any⟩]⟩
  | .PAT_CTX_CTRL => ⟨.PAT, 0xC0108, [(0x10, 4)], [⟨0, 0, .wo, 0, 0, .any⟩, ⟨1, 1, .wo, 0, 0, .any⟩]⟩
  | .PAT_SQ_REFUSE_CNT => ⟨.PAT, 0xC0200, [], [⟨31, 0, .cnt, 0, 48, .any⟩]⟩
  | .PAT_KICK_BAD_CNT => ⟨.PAT, 0xC0204, [], [⟨31, 0, .cnt, 0, 48, .any⟩]⟩
  | .PAT_FAULT_CNT => ⟨.PAT, 0xC0208, [], [⟨31, 0, .cnt, 0, 48, .any⟩]⟩
  | .PAT_PAIR_CONFLICT_CNT => ⟨.PAT, 0xC020C, [], [⟨31, 0, .cnt, 0, 48, .any⟩]⟩
  | .PAT_SHED_CNT => ⟨.PAT, 0xC0210, [], [⟨31, 0, .cnt, 0, 48, .any⟩]⟩
  | .PAT_LOCKSTEP_CNT => ⟨.PAT, 0xC0214, [], [⟨31, 0, .cnt, 0, 60, .any⟩]⟩
  | .PAT_MISUSE_CNT => ⟨.PAT, 0xC0218, [], [⟨31, 0, .cnt, 0, 48, .any⟩]⟩
  | .HST_STATUS => ⟨.HST, 0xD0000, [], [⟨0, 0, .ro, 0, 48, .any⟩, ⟨2, 1, .ro, 0, 48, .any⟩, ⟨4, 3, .ro, 0, 48, .any⟩, ⟨5, 5, .ro, 0, 48, .any⟩]⟩
  | .HST_CFG => ⟨.HST, 0xD0004, [], [⟨0, 0, .rw, 1, 48, .any⟩, ⟨1, 1, .rw, 1, 48, .any⟩, ⟨15, 8, .rw, 0, 48, .any⟩, ⟨23, 16, .rw, 0, 48, .any⟩]⟩
  | .HST_WIN_STAT => ⟨.HST, 0xD0008, [], [⟨15, 0, .ro, 0, 48, .any⟩]⟩
  | .HST_MSIX_TGT => ⟨.HST, 0xD0100, [(0x8, 32)], [⟨4, 0, .rw, 0, 48, .any⟩, ⟨5, 5, .rw, 0, 48, .any⟩]⟩
  | .HST_MSIX_MASK => ⟨.HST, 0xD0104, [(0x8, 32)], [⟨31, 0, .rw, 0, 48, .any⟩]⟩
  | .HST_UE_CNT => ⟨.HST, 0xD0300, [], [⟨31, 0, .cnt, 0, 48, .any⟩]⟩
  | .HST_SPI_FRAME_CNT => ⟨.HST, 0xD0304, [], [⟨31, 0, .cnt, 0, 48, .any⟩]⟩
  | .HST_SPI_NOTREADY_CNT => ⟨.HST, 0xD0308, [], [⟨31, 0, .cnt, 0, 48, .any⟩]⟩
  | .HST_MSIX_CNT => ⟨.HST, 0xD030C, [], [⟨31, 0, .cnt, 0, 48, .any⟩]⟩
  | .HST_LINK_DOWN_CNT => ⟨.HST, 0xD0310, [], [⟨31, 0, .cnt, 0, 48, .any⟩]⟩
  | .HST_MISUSE_CNT => ⟨.HST, 0xD0314, [], [⟨31, 0, .cnt, 0, 48, .any⟩]⟩
  | .PWR_DOM_CTRL => ⟨.PWR, 0x10000, [], [⟨7, 0, .rw, 0, 48, .any⟩, ⟨8, 8, .rw, 0, 48, .any⟩, ⟨9, 9, .rw, 0, 48, .any⟩, ⟨10, 10, .rw, 0, 48, .any⟩, ⟨11, 11, .rw, 0, 48, .any⟩, ⟨12, 12, .rw, 0, 48, .any⟩]⟩
  | .PWR_DOM_STAT => ⟨.PWR, 0x10004, [], [⟨12, 0, .ro, 0, 48, .any⟩, ⟨16, 16, .ro, 0, 48, .any⟩]⟩
  | .PWR_BANK_REQ => ⟨.PWR, 0x10008, [], [⟨7, 0, .wo, 0, 0, .any⟩, ⟨9, 8, .wo, 0, 0, (.le 2)⟩]⟩
  | .PWR_SLEEP => ⟨.PWR, 0x1000C, [], [⟨0, 0, .wo, 0, 0, .any⟩, ⟨1, 1, .rw, 0, 62, .any⟩, ⟨2, 2, .rw, 0, 62, .any⟩, ⟨4, 3, .rw, 0, 62, .any⟩]⟩
  | .PWR_WAKE_AT => ⟨.PWR, 0x10010, [], [⟨31, 0, .rw, 0, 62, .any⟩]⟩
  | .PWR_WAKE_WRAPS => ⟨.PWR, 0x10014, [], [⟨15, 0, .rw, 0, 62, .any⟩]⟩
  | .PWR_WAKE_CAUSE => ⟨.PWR, 0x10018, [], [⟨1, 0, .ro, 0, 62, .any⟩]⟩
  | .PWR_KEEP => ⟨.PWR, 0x10020, [(0x4, 8)], [⟨31, 0, .rw, 0, 62, .any⟩]⟩
  | .PWR_REFUSE_CNT => ⟨.PWR, 0x10040, [], [⟨31, 0, .cnt, 0, 48, .any⟩]⟩
  | .PWR_MISUSE_CNT => ⟨.PWR, 0x10044, [], [⟨31, 0, .cnt, 0, 48, .any⟩]⟩
  | .SYS_ID => ⟨.SYS, 0x0, [], [⟨15, 0, .ro, 37910, 0, .any⟩, ⟨23, 16, .ro, 16, 0, .any⟩]⟩
  | .SYS_SERIAL_LOW => ⟨.SYS, 0x8, [], [⟨31, 0, .ro, 0, 0, .any⟩]⟩
  | .SYS_SERIAL_HIGH => ⟨.SYS, 0xC, [], [⟨31, 0, .ro, 0, 0, .any⟩]⟩
  | .SYS_MODE => ⟨.SYS, 0x10, [], [⟨3, 0, .ro, 0, 0, .any⟩, ⟨7, 4, .ro, 0, 0, .any⟩]⟩
  | .SYS_MODE_CTRL => ⟨.SYS, 0x14, [], [⟨0, 0, .rw, 0, 48, .any⟩, ⟨1, 1, .rw, 0, 48, .any⟩]⟩
  | .SYS_DEGRADED => ⟨.SYS, 0x18, [], [⟨0, 0, .ro, 0, 48, .any⟩, ⟨1, 1, .ro, 0, 48, .any⟩, ⟨2, 2, .ro, 0, 48, .any⟩, ⟨3, 3, .ro, 0, 48, .any⟩]⟩
  | .SYS_RESET => ⟨.SYS, 0x1C, [], [⟨31, 0, .wo, 0, 0, .any⟩]⟩
  | .SYS_RINK_RST => ⟨.SYS, 0x20, [], [⟨2, 0, .wo, 0, 0, .any⟩]⟩
  | .SYS_RESET_CAUSE => ⟨.SYS, 0x24, [], [⟨2, 0, .ro, 0, 50, .any⟩]⟩
  | .SYS_DB => ⟨.SYS, 0x28, [], [⟨4, 0, .rw, 0, 48, .any⟩, ⟨9, 5, .rw, 0, 48, .any⟩, ⟨10, 10, .rw, 0, 48, .any⟩, ⟨11, 11, .rw, 0, 48, .any⟩]⟩
  | .SYS_DECODE_CNT => ⟨.SYS, 0x40, [], [⟨31, 0, .cnt, 0, 48, .any⟩]⟩
  | .SYS_DENY_CNT => ⟨.SYS, 0x44, [], [⟨31, 0, .cnt, 0, 48, .any⟩]⟩
  | .SYS_DOMAIN_OFF_CNT => ⟨.SYS, 0x48, [], [⟨31, 0, .cnt, 0, 48, .any⟩]⟩
  | .SYS_MISUSE_CNT => ⟨.SYS, 0x4C, [], [⟨31, 0, .cnt, 0, 48, .any⟩]⟩
  | .CAN_BUF => ⟨.CAN, 0x701000, [(0x10000, 8), (0x80, 64), (0x4, 20)], [⟨31, 0, .rw, 0, 48, .any⟩]⟩

/-- The registers of each block, in table order. -/
def Block.regs : Block → List Reg
  | .BOOT => [.BOOT_STRAP, .BOOT_STATUS, .BOOT_CAUSE, .BOOT_TIME, .BOOT_CTRL, .BOOT_XSPI_CFG, .BOOT_FAILOVER_CNT, .BOOT_REC_DENY_CNT, .BOOT_SKIP_CNT, .BOOT_MISUSE_CNT]
  | .VLT => [.VLT_STATUS, .VLT_ROLLBACK, .VLT_TAMPER_EN, .VLT_TAMPER_SRC, .VLT_DBG_FAIL_CNT, .VLT_WIN_DENY_CNT, .VLT_PROV_REFUSE_CNT, .VLT_MISUSE_CNT]
  | .SMF => [.SMF_JOBROUTE, .SMF_JOBDROP_CNT, .SMF_CFG, .SMF_STATUS, .SMF_ERR_ADDR_LOW, .SMF_ERR_ADDR_HIGH, .SMF_ERR_INFO, .SMF_BANK_STAT, .SMF_PART_MAP, .SMF_CONF_CNT, .SMF_CE_CNT, .SMF_UE_CNT, .SMF_BANK_DENY_CNT, .SMF_MISUSE_CNT]
  | .RNK => [.RNK_STATUS, .RNK_CFG, .RNK_FWMASK, .RNK_TLB_INV, .RNK_TLB_STATUS, .RNK_FAULT_CFG, .RNK_FAULT_PEND, .RNK_LFAULT_PEND, .RNK_PUSH, .RNK_ENG_CFG, .RNK_ENG_STATUS, .RNK_SPACE_ROOT_LOW, .RNK_SPACE_ROOT_HIGH, .RNK_CTX_FLT, .RNK_CTX_VA, .RNK_CTX_CTRL, .RNK_PUSH_REFUSE_CNT, .RNK_QWAIT_CNT, .RNK_STEAL_CNT, .RNK_XSTEAL_CNT, .RNK_XSTEAL_MISS_CNT, .RNK_PSTEAL_CNT, .RNK_FAULT_CNT, .RNK_LIFT_HOLD_CNT, .RNK_JOBLOST_CNT, .RNK_PAIR_CONFLICT_CNT, .RNK_LMEM_CE_CNT, .RNK_MISUSE_CNT]
  | .GRM => [.GRM_CMD, .GRM_STATUS, .GRM_DB_CFG, .GRM_SCRUB_CFG, .GRM_SCRUB_POS, .GRM_SCRUB_CE_CNT, .GRM_SCRUB_UE_CNT, .GRM_REPAIR_CNT, .GRM_REFUSE_CNT, .GRM_PASS_CNT, .GRM_MISUSE_CNT, .GRM_BANK]
  | .LFT => [.LFT_DESC_LOW, .LFT_DESC_HIGH, .LFT_CTRL, .LFT_STATUS, .LFT_PROG, .LFT_CUR_LOW, .LFT_CUR_HIGH, .LFT_FLT, .LFT_FLT_VA, .LFT_CFG, .LFT_DROOT_LOW, .LFT_DROOT_HIGH, .LFT_DONE_CNT, .LFT_FAULT_CNT, .LFT_ABORT_CNT, .LFT_REFUSE_CNT, .LFT_MISUSE_CNT]
  | .MBX => [.MBX_NOTICE_LOW, .MBX_NOTICE_HIGH, .MBX_STATUS, .MBX_CFG, .MBX_DB, .MBX_DB_SET, .MBX_LOCK, .MBX_LOCK_FORCE, .MBX_FLUSH, .MBX_POSTRES, .MBX_POST_CNT, .MBX_POST_REFUSE_CNT, .MBX_DB_COAL_CNT, .MBX_LOCK_REFUSE_CNT, .MBX_FORCE_CNT, .MBX_MISUSE_CNT]
  | .MAC => [.MAC_CFG, .MAC_CTRL, .MAC_STATUS, .MAC_LINK_DB, .MAC_SA_LOW, .MAC_SA_HIGH, .MAC_FC_CFG, .MAC_FC_TIME, .MAC_TRAV, .MAC_TRAV_JOB, .MAC_PM_ADDR_LO, .MAC_PM_CTL, .MAC_PM_JOB0, .MAC_PM_TAG, .MAC_SEC_CFG, .MAC_SEC_WIN, .MAC_SEC_SCI_LOW, .MAC_SEC_SCI_HIGH, .MAC_SEC_RXSCI_LOW, .MAC_SEC_RXSCI_HIGH, .MAC_SEC_TXPN_LOW, .MAC_SEC_TXPN_HIGH, .MAC_SEC_STATUS, .MAC_SEC_SSCI, .MAC_SEC_RXSSCI, .MAC_RX_OK_CNT, .MAC_TX_OK_CNT, .MAC_RUNT_CNT, .MAC_GIANT_CNT, .MAC_FCS_CNT, .MAC_LEN_CNT, .MAC_TX_GIANT_CNT, .MAC_RX_PAUSE_CNT, .MAC_TX_PAUSE_CNT, .MAC_CTL_UNK_CNT, .MAC_LINK_CHG_CNT, .MAC_LOCAL_DROP_CNT, .MAC_TRAV_BAD_CNT, .MAC_TRAV_LATE_CNT, .MAC_SEC_AUTH_CNT, .MAC_SEC_REPLAY_CNT, .MAC_SEC_UNTAG_CNT, .MAC_SEC_TXDROP_CNT, .MAC_MISUSE_CNT]
  | .SDS => [.SDS_CFG, .SDS_CTRL, .SDS_STATUS, .SDS_CODE_ERR_CNT, .SDS_LOCK_LOSS_CNT, .SDS_MISUSE_CNT]
  | .TPHY => [.TPHY_CFG, .TPHY_CTRL, .TPHY_STATUS, .TPHY_LINK_LOSS_CNT, .TPHY_SYMERR_CNT, .TPHY_MISUSE_CNT]
  | .SWC => [.SWC_CFG, .SWC_BUF_STATUS, .SWC_POOL_SIZE, .SWC_POOL_FREE, .SWC_POOL_CFG, .SWC_PCP_MAP, .SWC_AGE_CFG, .SWC_TXCFG, .SWC_TBL_CMD, .SWC_TBL_STATUS, .SWC_TBL_DATA, .SWC_RED, .SWC_RED_SEQ, .SWC_CAP_BASE_LOW, .SWC_CAP_BASE_HIGH, .SWC_CAP_CFG, .SWC_CAP_WR, .SWC_CAP_RD, .SWC_CAP_DB, .SWC_CAPR, .SWC_CAPR_ETYPE, .SWC_LEARN_CNT, .SWC_LEARN_FULL_CNT, .SWC_FLOOD_CNT, .SWC_TBL_REFUSE_CNT, .SWC_DUPTBL_OVF_CNT, .SWC_CAP_CNT, .SWC_CAP_LOST_CNT, .SWC_INJ_ERR_CNT, .SWC_FREE_BAD_CNT, .SWC_MISUSE_CNT, .SWC_PORTCFG, .SWC_PORTTH, .SWC_PORTRSV, .SWC_PORTMODE, .SWC_PORTUSE, .SWC_PORTUSE2, .SWC_PORTQ, .SWC_PORTBP, .SWC_IPORT, .SWC_IJOB0, .SWC_IJOBTAG, .SWC_INJ_DB, .SWC_IN_CNT, .SWC_OUT_CNT, .SWC_SKIP_CNT, .SWC_MC_DROP_CNT, .SWC_SCHED_DROP_CNT, .SWC_HDRM_DROP_CNT, .SWC_POLICY_DROP_CNT, .SWC_SF_DROP_CNT, .SWC_DUP_CNT, .SWC_XOFF_CNT, .SWC_FLUSH_CNT, .SWC_GCL_OVERSIZE_CNT, .SWC_TX_LATE_CNT, .SWC_CELL_UE_CNT, .SWC_GCL_SKIP_CNT, .SWC_INJ_REFUSE_CNT, .SWC_GCL_CFG, .SWC_GCL_STAT, .SWC_GCL_SW, .SWC_GCL_CYCLE, .SWC_GCL_BASE, .SWC_GCL_LEN, .SWC_CBS_SLOPE, .SWC_CBS_LIM, .SWC_GCE, .SWC_GCE_GATES, .SWC_FREE, .SWC_INJ, .SWC_INJRES]
  | .TMU => [.TMU_TB_LOW, .TMU_TB_HIGH, .TMU_TB_NOM, .TMU_TB_INCR, .TMU_TB_STEP_LOW, .TMU_TB_STEP_HIGH, .TMU_TB_OFS, .TMU_SRV_CFG, .TMU_SRV_KP, .TMU_SRV_KI, .TMU_SRV_LIM, .TMU_SRV_THR, .TMU_SRV_STAT, .TMU_SRV_LAST, .TMU_SRV_INTEG, .TMU_TB_DB, .TMU_TB_PPSEXP, .TMU_TB_PPSPER, .TMU_TB_PTP, .TMU_SAMPLE_CNT, .TMU_STEP_CNT, .TMU_OUTLIER_CNT, .TMU_CLAMP_CNT, .TMU_OFS_REFUSE_CNT, .TMU_EVT_CFG, .TMU_EVT_LOW, .TMU_EVT_HIGH, .TMU_EVT_OVF_CNT, .TMU_OUT_CFG, .TMU_OUT_START, .TMU_OUT_PER, .TMU_OUT_PERF, .TMU_OUT_HIGH, .TMU_OUT_SKIP_CNT, .TMU_TXTS_LOW, .TMU_TXTS_HIGH, .TMU_TXTS_CFG, .TMU_TXTS_OVF_CNT, .TMU_PORT_LAT, .TMU_PORT_TC, .TMU_PORT_LINKDLY, .TMU_STATUS, .TMU_REF10_ERR, .TMU_TC_SKIP_CNT, .TMU_MISUSE_CNT]
  | .SLM => [.SLM_CFG, .SLM_NODE, .SLM_VLAN, .SLM_DA_LOW, .SLM_DA_HIGH, .SLM_RXWIN, .SLM_SYNC, .SLM_LISTEN, .SLM_STATUS, .SLM_THETA, .SLM_SYNC_STAT, .SLM_CSTART, .SLM_SW, .SLM_DB, .SLM_RXJOB0, .SLM_DCB_BASE_LOW, .SLM_DCB_BASE_HIGH, .SLM_DCB_CFG, .SLM_BANK_CYCLE, .SLM_BANK_INFO, .SLM_BANK_SYNC, .SLM_GATE_W0, .SLM_GATE_OFF_A, .SLM_GATE_OFF_B, .SLM_GATE_W3, .SLM_DCB, .SLM_DCB_CMD, .SLM_TX_CNT, .SLM_NULL_TX_CNT, .SLM_TX_LATE_CNT, .SLM_RX_OK_CNT, .SLM_NULL_RX_CNT, .SLM_FWD_CNT, .SLM_DUP_CNT, .SLM_EARLY_CNT, .SLM_LATE_CNT, .SLM_FORMAT_CNT, .SLM_SCHED_CNT, .SLM_GATE_CNT, .SLM_CYCLE_CNT, .SLM_CLASH_CNT, .SLM_COLD_RX_CNT, .SLM_SYNC_LOW_CNT, .SLM_MUTE_CNT, .SLM_COLLIDE_CNT, .SLM_SW_REFUSE_CNT, .SLM_JOB_DROP_CNT, .SLM_MISUSE_CNT]
  | .CAN => [.CAN_CFG, .CAN_CTRL, .CAN_ARB_TIMING, .CAN_FAST_TIMING, .CAN_SSP, .CAN_LAT, .CAN_STATUS, .CAN_DB, .CAN_RING_BASE_LOW, .CAN_RING_BASE_HIGH, .CAN_RING_CFG, .CAN_RING_WR, .CAN_RING_RD, .CAN_RXJOB0, .CAN_TXREQ, .CAN_TXCANCEL, .CAN_TXDONE, .CAN_TXMISS, .CAN_MX_CFG, .CAN_MX_BASE, .CAN_MX_BC, .CAN_MX_STAT, .CAN_MX_START, .CAN_MX_LEN, .CAN_MX_CELL, .CAN_RX_OK_CNT, .CAN_TX_OK_CNT, .CAN_RX_OVF_CNT, .CAN_JOB_DROP_CNT, .CAN_ARB_LOST_CNT, .CAN_BIT_ERR_CNT, .CAN_STUFF_ERR_CNT, .CAN_FORM_ERR_CNT, .CAN_CRC_ERR_CNT, .CAN_ACK_ERR_CNT, .CAN_PXE_CNT, .CAN_BUSOFF_CNT, .CAN_MISSED_CNT, .CAN_MX_SKIP_CNT, .CAN_TX_REFUSE_CNT, .CAN_MISUSE_CNT, .CAN_BUF]
  | .BLD => [.BLD_GCFG, .BLD_CTRL, .BLD_RESTART, .BLD_RESTART_T, .BLD_RESTART_STAT, .BLD_FLAGS, .BLD_FLAGS_SET, .BLD_JOB0, .BLD_FLAG_CFG, .BLD_PINSTATE, .BLD_PROG, .BLD_ILLEGAL_CNT, .BLD_ILLEGAL_PC, .BLD_JOB_DROP_CNT, .BLD_MISUSE_CNT, .BLD_CLK, .BLD_LANES, .BLD_FORM, .BLD_PCFG, .BLD_STATUS, .BLD_TXHOLD, .BLD_RXHOLD, .BLD_G, .BLD_C, .BLD_T, .BLD_DB, .BLD_ATSTEP, .BLD_UNDERRUN_CNT, .BLD_OVERRUN_CNT, .BLD_LATE_CNT, .BLD_TXREFUSE_CNT]
  | .PIN => [.PIN_CFG, .PIN_LEVEL_LOW, .PIN_LEVEL_HIGH, .PIN_BANK, .PIN_BANK_CHG_CNT, .PIN_MISUSE_CNT]
  | .CTL => [.CTL_CFG, .CTL_STATUS, .CTL_PI_BASE_LOW, .CTL_PI_BASE_HIGH, .CTL_COMMIT, .CTL_LOSS, .CTL_FORCE, .CTL_ARITH, .CTL_DB, .CTL_TASK_CFG, .CTL_TASK_PERIOD, .CTL_TASK_BASE, .CTL_TASK_OFFSET, .CTL_TASK_DEADLINE, .CTL_TASK_HOLD, .CTL_TASK_JOB0, .CTL_TASK_STACK, .CTL_TASK_CODE_LOW, .CTL_TASK_CODE_HIGH, .CTL_TASK_STAT, .CTL_TASK_T0, .CTL_XCHG_ADDR_LOW, .CTL_XCHG_ADDR_HIGH, .CTL_XCHG_AT, .CTL_TASK_CTRL, .CTL_SLOT, .CTL_COMMIT_REFUSE_CNT, .CTL_JOB_DROP_CNT, .CTL_XCHG_REFUSE_CNT, .CTL_MISUSE_CNT, .CTL_RUN_CNT, .CTL_OVR_CNT, .CTL_SKIP_CNT, .CTL_ARITH_CNT, .CTL_STOP_CNT]
  | .PAR => [.PAR_CFG, .PAR_ID, .PAR_NODE, .PAR_START, .PAR_PAIR_MAC_LOW, .PAR_PAIR_MAC_HIGH, .PAR_NETHB, .PAR_COPY_CFG, .PAR_COPY_WIN, .PAR_TRACK_LOW, .PAR_TRACK_HIGH, .PAR_STATUS, .PAR_CTRL, .PAR_COPY_BYTES, .PAR_COPY_TIME, .PAR_DIV_SLOT, .PAR_DB, .PAR_SEQREC, .PAR_HB_BAD_CNT, .PAR_TMISS_CNT, .PAR_NMISS_CNT, .PAR_TAKEOVER_CNT, .PAR_YIELD_CNT, .PAR_RANK_CLASH_CNT, .PAR_COPY_LATE_CNT, .PAR_DIV_CNT, .PAR_CMP_SKIP_CNT, .PAR_IMG_MISMATCH_CNT, .PAR_PROG_MISMATCH_CNT, .PAR_AUTH_CNT, .PAR_LANE_LOSS_CNT, .PAR_MISUSE_CNT]
  | .PAT => [.PAT_STATUS, .PAT_LOAD, .PAT_WDOG_CFG, .PAT_WDOG_KICK, .PAT_WDOG_LEFT, .PAT_FAULT_PEND, .PAT_FAULT_CFG, .PAT_SQ_PUSH, .PAT_SQ_STATUS, .PAT_SPACE_ROOT_LOW, .PAT_SPACE_ROOT_HIGH, .PAT_CTX_FLT, .PAT_CTX_VA, .PAT_CTX_CTRL, .PAT_SQ_REFUSE_CNT, .PAT_KICK_BAD_CNT, .PAT_FAULT_CNT, .PAT_PAIR_CONFLICT_CNT, .PAT_SHED_CNT, .PAT_LOCKSTEP_CNT, .PAT_MISUSE_CNT]
  | .HST => [.HST_STATUS, .HST_CFG, .HST_WIN_STAT, .HST_MSIX_TGT, .HST_MSIX_MASK, .HST_UE_CNT, .HST_SPI_FRAME_CNT, .HST_SPI_NOTREADY_CNT, .HST_MSIX_CNT, .HST_LINK_DOWN_CNT, .HST_MISUSE_CNT]
  | .PWR => [.PWR_DOM_CTRL, .PWR_DOM_STAT, .PWR_BANK_REQ, .PWR_SLEEP, .PWR_WAKE_AT, .PWR_WAKE_WRAPS, .PWR_WAKE_CAUSE, .PWR_KEEP, .PWR_REFUSE_CNT, .PWR_MISUSE_CNT]
  | .SYS => [.SYS_ID, .SYS_SERIAL_LOW, .SYS_SERIAL_HIGH, .SYS_MODE, .SYS_MODE_CTRL, .SYS_DEGRADED, .SYS_RESET, .SYS_RINK_RST, .SYS_RESET_CAUSE, .SYS_DB, .SYS_DECODE_CNT, .SYS_DENY_CNT, .SYS_DOMAIN_OFF_CNT, .SYS_MISUSE_CNT]

end Sys2Proof.Machine
end

