-- ==== Sys2Proof/Machine/RegFile.lean ====
section
/-! DEFINITION. The register file: every register of the register tables at its word address, and the field rules of
00_scope R9, R10, R11, R13 and R15 over a word. -/

namespace Sys2Proof.Machine

/-- The register space starts at 0x10_0000_0000 (R32); register offsets count from it. -/
def regBase : Nat := 0x1000000000

/-- The offset of a register copy in register space. -/
def Reg.addr (r : Reg) (i j k : Nat := 0) : Nat :=
  r.info.off + ((r.info.strides.zip [i, j, k]).map fun (p, x) => p.1 * x).sum

/-- Split a distance into the indices of the strides; `none` where the distance names no copy. -/
def splitIdx : List (Nat × Nat) → Nat → Option (List Nat)
  | [], d => if d = 0 then some [] else none
  | (st, c) :: t, d =>
    if d / st < c then
      match splitIdx t (d % st) with
      | some l => some (d / st :: l)
      | none => none
    else none

/-- The copy of register `r` at offset `off`, as its three indices (0 where it has fewer). -/
def Reg.copyAt (r : Reg) (off : Nat) : Option (Nat × Nat × Nat) :=
  if off < r.info.off then none
  else match splitIdx r.info.strides (off - r.info.off) with
    | some l => some (l.getD 0 0, l.getD 1 0, l.getD 2 0)
    | none => none

/-- The block whose page holds an offset of register space, R21, with the number of its page. -/
def blockAt (off : Nat) : Option (Block × Nat) :=
  let p := off / 0x10000
  if p < 0x10 then
    match [Block.SYS, .PWR, .VLT, .BOOT, .SMF, .GRM, .LFT, .MBX, .TMU, .SLM, .PAR, .CTL, .PAT, .HST][p]? with
    | some b => some (b, 0)
    | none => none
  else if p < 0x18 then some (.RNK, p - 0x10)
  else if 0x20 ≤ p ∧ p < 0x30 then some (.SWC, 0)
  else if 0x30 ≤ p ∧ p < 0x4C then some (.MAC, p - 0x30)
  else if 0x50 ≤ p ∧ p < 0x5A then some (.SDS, p - 0x50)
  else if 0x60 ≤ p ∧ p < 0x68 then some (.TPHY, p - 0x60)
  else if 0x70 ≤ p ∧ p < 0x78 then some (.CAN, p - 0x70)
  else if 0x80 ≤ p ∧ p < 0x88 then some (.BLD, p - 0x80)
  else if p = 0x90 then some (.PIN, 0)
  else none

/-- Whether the tables give this copy: MAC_TRAV and MAC_SEC stand in some MAC pages only (R234), PAT_SPACE_ROOT starts
at 1 (R483), SWC_INJ_REFUSE_CNT stands for internal ports only (R273). -/
def Reg.present (r : Reg) (i j : Nat) : Bool :=
  match r with
  | .MAC_TRAV | .MAC_TRAV_JOB => i % 2 == 0 && 4 ≤ i && i ≤ 18
  | .MAC_SEC_CFG | .MAC_SEC_WIN | .MAC_SEC_SCI_LOW | .MAC_SEC_SCI_HIGH | .MAC_SEC_RXSCI_LOW | .MAC_SEC_RXSCI_HIGH
  | .MAC_SEC_TXPN_LOW | .MAC_SEC_TXPN_HIGH | .MAC_SEC_STATUS | .MAC_SEC_SSCI | .MAC_SEC_RXSSCI => i < 4
  | .PAT_SPACE_ROOT_LOW | .PAT_SPACE_ROOT_HIGH => i != 0
  | .SWC_INJ_REFUSE_CNT => 28 ≤ i
  | _ => j == j

/-- First register of a list that has a copy at the offset. -/
def findReg : List Reg → Nat → Option (Reg × Nat × Nat × Nat)
  | [], _ => none
  | r :: t, off =>
    match r.copyAt off with
    | some (i, j, k) => if r.present i j then some (r, i, j, k) else findReg t off
    | none => findReg t off

/-- The register at an offset of register space, with its indices. -/
def regAt (off : Nat) : Option (Reg × Nat × Nat × Nat) :=
  match blockAt off with
  | some (b, _) => findReg b.regs off
  | none => none

/-- The word a list of fields holds after a reset that keeps none of them. -/
def resetFields (l : List FieldInfo) : Nat := (l.map fun f => f.rst * 2 ^ f.lo).sum

/-- The reset value of a register copy. MBX_CFG m resets to receiver m ÷ 4, context m mod 4 (R205); CTL_SLOT s of an
output slot (s odd) reads LOST = 0, QUAL = 0, STALE_N = 0 and LAST = 3 (R444). -/
def Reg.resetWord (r : Reg) (i : Nat) : Word :=
  match r with
  | .MBX_CFG => word (i / 4 + i % 4 * 256)
  | .CTL_SLOT => if i % 2 = 1 then 0x3000024#32 else word (resetFields r.info.fields)
  | r => word (resetFields r.info.fields)

/-- The reset value of the register at an offset; 0 where there is no register. -/
def resetAt (off : Nat) : Word :=
  match regAt off with
  | some (r, i, _, _) => r.resetWord i
  | none => 0#32

/-- Reset kinds (R15), with the bit of the Kept-by mask of `FieldInfo`. -/
inductive ResetKind where
  | POR | PIN | TAMP | WDOG | SOFT | RINK | PORT
deriving DecidableEq, Repr, Inhabited

/-- Whether the Kept-by mask lists the reset kind. -/
def ResetKind.keeps : ResetKind → Nat → Bool
  | .POR, _ => false
  | .PIN, m => bit m 0
  | .TAMP, m => bit m 1
  | .WDOG, m => bit m 2
  | .SOFT, m => bit m 3
  | .RINK, m => bit m 4
  | .PORT, m => bit m 5

/-- The word after a reset of kind `q`: every field that the kind does not keep returns to its reset value (R15). -/
def resetFieldsBy (q : ResetKind) (rst : Nat) : List FieldInfo → Nat → Nat
  | [], w => w
  | f :: t, w => resetFieldsBy q rst t (if q.keeps f.kept then w else putBits w f.hi f.lo (bits rst f.hi f.lo))

/-- Whether a value is legal for a field by its description (R11); master IDs by R17, capture ports by R272. -/
def Legal.ok : Legal → Nat → Bool
  | .any, _ => true
  | .le m, v => v ≤ m
  | .ge m, v => m ≤ v
  | .rng a b, v => a ≤ v && v ≤ b
  | .mult a b m, v => a ≤ v && v ≤ b && v % m == 0
  | .capPort, v => v ≤ 37 || v == 63
  | .masterId, v => v ≤ 0x42 || (0x48 ≤ v && v ≤ 0x70)

/-- Bits that the fields of a register cover. -/
def fieldMask : List FieldInfo → Nat
  | [] => 0
  | f :: t => (2 ^ (f.hi + 1 - f.lo) - 1) * 2 ^ f.lo + fieldMask t

/-- The effect of a write on one field: its new value, and whether the write breaks R11 or R13. -/
def FieldInfo.write (f : FieldInfo) (old v : Nat) (ill : Bool) : Nat × Bool :=
  match f.acc with
  | .rw => if f.legal.ok v && !ill then (v, false) else (old, true)
  | .ro => (old, false)
  | .wo => (0, !(f.legal.ok v && !ill))
  | .w1s => if ill && v != 0 then (old, true) else (old ||| v, false)
  | .w1c => (old &&& (2 ^ (f.hi + 1 - f.lo) - 1 - v), false)
  | .cnt => if v = 0 then (0, false) else (old, true)

/-- The effect of a write on all fields of a word, with the violation flag of R12. -/
def writeFields (ill : FieldInfo → Bool) (v : Nat) : List FieldInfo → Nat → Nat × Bool
  | [], w => (w, false)
  | f :: t, w =>
    let p := f.write (bits w f.hi f.lo) (bits v f.hi f.lo) (ill f)
    let q := writeFields ill v t (putBits w f.hi f.lo p.1)
    (q.1, p.2 || q.2)

/-- The whole effect of a write of `v` on a word that holds `w`: R9 (reserved bits), R10 (read-only registers), R11, R13. (DEDUCED: log entry 12.) -/
def writeWord (fs : List FieldInfo) (ill : FieldInfo → Bool) (w v : Nat) : Nat × Bool :=
  if fs.all fun f => f.acc == .ro then (w, true)
  else
    let q := writeFields ill v fs w
    (q.1, q.2 || (v &&& (2 ^ 32 - 1 - fieldMask fs)) != 0)

/-- Whether a register is the MISUSE_CNT of its block: a non-zero write to it is not counted (R13). (DEDUCED: log entry 12.) -/
def Block.misuse : Block → Reg
  | .SYS => .SYS_MISUSE_CNT
  | .PWR => .PWR_MISUSE_CNT
  | .VLT => .VLT_MISUSE_CNT
  | .BOOT => .BOOT_MISUSE_CNT
  | .SMF => .SMF_MISUSE_CNT
  | .GRM => .GRM_MISUSE_CNT
  | .LFT => .LFT_MISUSE_CNT
  | .MBX => .MBX_MISUSE_CNT
  | .TMU => .TMU_MISUSE_CNT
  | .SLM => .SLM_MISUSE_CNT
  | .PAR => .PAR_MISUSE_CNT
  | .CTL => .CTL_MISUSE_CNT
  | .PAT => .PAT_MISUSE_CNT
  | .HST => .HST_MISUSE_CNT
  | .RNK => .RNK_MISUSE_CNT
  | .SWC => .SWC_MISUSE_CNT
  | .MAC => .MAC_MISUSE_CNT
  | .SDS => .SDS_MISUSE_CNT
  | .TPHY => .TPHY_MISUSE_CNT
  | .CAN => .CAN_MISUSE_CNT
  | .BLD => .BLD_MISUSE_CNT
  | .PIN => .PIN_MISUSE_CNT

/-- The word pairs that follow R8 (low word at the lower address), by the chapters' statements. -/
def Reg.high? : Reg → Option Reg
  | .RNK_SPACE_ROOT_LOW => some .RNK_SPACE_ROOT_HIGH
  | .SMF_ERR_ADDR_LOW => some .SMF_ERR_ADDR_HIGH
  | .LFT_DESC_LOW => some .LFT_DESC_HIGH
  | .LFT_CUR_LOW => some .LFT_CUR_HIGH
  | .LFT_DROOT_LOW => some .LFT_DROOT_HIGH
  | .MAC_SA_LOW => some .MAC_SA_HIGH
  | .MAC_SEC_SCI_LOW => some .MAC_SEC_SCI_HIGH
  | .MAC_SEC_RXSCI_LOW => some .MAC_SEC_RXSCI_HIGH
  | .MAC_SEC_TXPN_LOW => some .MAC_SEC_TXPN_HIGH
  | .SWC_CAP_BASE_LOW => some .SWC_CAP_BASE_HIGH
  | .TMU_TB_LOW => some .TMU_TB_HIGH
  | .TMU_TB_STEP_LOW => some .TMU_TB_STEP_HIGH
  | .TMU_EVT_LOW => some .TMU_EVT_HIGH
  | .TMU_TXTS_LOW => some .TMU_TXTS_HIGH
  | .SLM_DA_LOW => some .SLM_DA_HIGH
  | .SLM_DCB_BASE_LOW => some .SLM_DCB_BASE_HIGH
  | .CAN_RING_BASE_LOW => some .CAN_RING_BASE_HIGH
  | .CTL_PI_BASE_LOW => some .CTL_PI_BASE_HIGH
  | .CTL_TASK_CODE_LOW => some .CTL_TASK_CODE_HIGH
  | .CTL_XCHG_ADDR_LOW => some .CTL_XCHG_ADDR_HIGH
  | .PAR_PAIR_MAC_LOW => some .PAR_PAIR_MAC_HIGH
  | .PAR_TRACK_LOW => some .PAR_TRACK_HIGH
  | .PAT_SPACE_ROOT_LOW => some .PAT_SPACE_ROOT_HIGH
  | .SYS_SERIAL_LOW => some .SYS_SERIAL_HIGH
  | .MBX_NOTICE_LOW => some .MBX_NOTICE_HIGH
  | _ => none

/-- The low word of a pair, from its high word. -/
def Reg.low? : Reg → Option Reg
  | .RNK_SPACE_ROOT_HIGH => some .RNK_SPACE_ROOT_LOW
  | .SMF_ERR_ADDR_HIGH => some .SMF_ERR_ADDR_LOW
  | .LFT_DESC_HIGH => some .LFT_DESC_LOW
  | .LFT_CUR_HIGH => some .LFT_CUR_LOW
  | .LFT_DROOT_HIGH => some .LFT_DROOT_LOW
  | .MAC_SA_HIGH => some .MAC_SA_LOW
  | .MAC_SEC_SCI_HIGH => some .MAC_SEC_SCI_LOW
  | .MAC_SEC_RXSCI_HIGH => some .MAC_SEC_RXSCI_LOW
  | .MAC_SEC_TXPN_HIGH => some .MAC_SEC_TXPN_LOW
  | .SWC_CAP_BASE_HIGH => some .SWC_CAP_BASE_LOW
  | .TMU_TB_HIGH => some .TMU_TB_LOW
  | .TMU_TB_STEP_HIGH => some .TMU_TB_STEP_LOW
  | .TMU_EVT_HIGH => some .TMU_EVT_LOW
  | .TMU_TXTS_HIGH => some .TMU_TXTS_LOW
  | .SLM_DA_HIGH => some .SLM_DA_LOW
  | .SLM_DCB_BASE_HIGH => some .SLM_DCB_BASE_LOW
  | .CAN_RING_BASE_HIGH => some .CAN_RING_BASE_LOW
  | .CTL_PI_BASE_HIGH => some .CTL_PI_BASE_LOW
  | .CTL_TASK_CODE_HIGH => some .CTL_TASK_CODE_LOW
  | .CTL_XCHG_ADDR_HIGH => some .CTL_XCHG_ADDR_LOW
  | .PAR_PAIR_MAC_HIGH => some .PAR_PAIR_MAC_LOW
  | .PAR_TRACK_HIGH => some .PAR_TRACK_LOW
  | .PAT_SPACE_ROOT_HIGH => some .PAT_SPACE_ROOT_LOW
  | .SYS_SERIAL_HIGH => some .SYS_SERIAL_LOW
  | .MBX_NOTICE_HIGH => some .MBX_NOTICE_LOW
  | _ => none

end Sys2Proof.Machine
end

