-- ==== Sys2Proof/Machine/StBld.lean ====
section
/-! DEFINITION. State of the Blades beside their registers (13_blades). -/

namespace Sys2Proof.Machine

/-- A Blade (R354): the word in progress, its remaining lead, bits that a serial IN or OUT has moved and steps to its next bit,
the shifters, whether the word has acted (IRQ with ACT 2, AT). -/
structure BldSt where
  word : Option Nat
  lead : Nat
  moved : Nat
  gap : Nat
  tsr : Nat
  rsr : Nat
  acted : Bool
deriving DecidableEq, Repr, Inhabited

/-- A group: pins that hold their SAFE behaviour (R353, R488), the armed restart (R370). -/
structure BldGrp where
  safe : Nat
  timed : Bool
  tb : Nat
deriving DecidableEq, Repr, Inhabited

/-- The operations of a Blade word (R355). -/
inductive BldOp where
  | jmp | wait | in_ | out | push | pull | mov | irq | set | at_
deriving DecidableEq, Repr, Inhabited

/-- The OP code of an operation. -/
def BldOp.code : BldOp → Nat
  | .jmp => 0
  | .wait => 1
  | .in_ => 2
  | .out => 3
  | .push => 4
  | .pull => 5
  | .mov => 6
  | .irq => 7
  | .set => 8
  | .at_ => 9

end Sys2Proof.Machine
end

