-- ==== Sys2Proof/Machine/StCtl.lean ====
section
/-! DEFINITION. State of cyclic control beside its registers (15_control). -/

namespace Sys2Proof.Machine

/-- A control task (R424 to R429, R440). -/
structure TaskSt where
  /-- T0 instants to come, in order (R424). -/
  due : List Nat
  /-- Cycles since EN, for the T0 of SRC 2. -/
  gates : Nat
  /-- Cycle count modulo 2^16 (R425). -/
  cycle : Nat
  /-- A cycle is open: its deadline has not passed; the run of it has reported in time. -/
  isOpen : Bool
  inTime : Bool
  /-- Consecutive cycles that ended in time (R429). -/
  streak : Nat
  /-- CTL raises STOP for the run that executes. -/
  stop : Bool
  /-- A run has been released since boot or exchange (R426: FIRST is 1 until then). -/
  ran : Bool
  /-- Program before the last exchange, for USER0 and USER1 of the first run after it. -/
  prev : Nat
  /-- The latch has been made and its job is to be pushed: size of the latch table in bytes. -/
  release : Option Nat
  /-- Words of the latch table that CTL has still to write: its writes wait for a bank that is leaving retention (R165, R423). -/
  table : List Nat
  /-- Latch table of the task (R415): its address. -/
  latch : Nat
  /-- The run released last (R426, R437, R441): its T0, the program before an exchange, and whether it has not yet begun. -/
  runT0 : Nat
  mig : Nat
  fresh : Bool
  /-- What the runtime keeps of a run beside the stack words (R433): return points of open calls, innermost first, and the type of each
  stack word, top first; none for a word without one. -/
  frames : List Nat
  tys : List (Option Nat)
  /-- The T0 that came last since EN was set, skipped or not (R425), and whether a cycle has opened since. -/
  lastT0 : Option Nat
  had : Bool
  /-- A run of the task has begun since boot (R437). -/
  began : Bool
deriving DecidableEq, Repr, Inhabited

/-- Cyclic control. -/
structure CtlSt where
  task : Tab TaskSt
  /-- Output slots whose copy N pick-ups read: committed since boot and since the last SAFE (R420, R429). -/
  live : Tab Bool
  /-- Commits of each slot since boot (R306 asks whether one has happened). -/
  commits : Tab Nat
deriving DecidableEq, Repr, Inhabited

end Sys2Proof.Machine
end

