-- ==== Sys2Proof/Machine/StEng.lean ====
section
/-! DEFINITION. State of the engines: contexts (R85, R151, R155, R156), job queues (R89, R90), steals (R94), TLBs and walks
(R99). -/

namespace Sys2Proof.Machine

/-- Context states (R87), numbered as RNK_ENG_STATUS.CTX_STATE shows them. -/
inductive CtxSt where
  | idle | run | wait | faulted | stopped
deriving DecidableEq, Repr, Inhabited

/-- The number CTX_STATE shows. -/
def CtxSt.code : CtxSt → Nat
  | .idle => 0
  | .run => 1
  | .wait => 2
  | .faulted => 3
  | .stopped => 4

/-- A translation held in a TLB (R99): a 4 KiB page, or a 4 MiB page where `big`. -/
structure TlbE where
  space : Nat
  vpn : Nat
  big : Bool
  pa : Nat
  r : Bool
  w : Bool
deriving DecidableEq, Repr, Inhabited

/-- A walk in progress; `dead` once an invalidation discards its result (R101). -/
structure Walk where
  /-- The context whose access it serves. -/
  owner : Nat
  rink : Nat
  space : Nat
  va : Nat
  dead : Bool
deriving DecidableEq, Repr, Inhabited

/-- Why the current word of a context has not completed (R103, R120): the translation of a virtual address is missing, its walk runs,
or loads from outside the engine are outstanding: the word, the physical addresses of its accesses in order, and how many of
them, stores of the first half, have been made (R125), and their place among the requests of the engine (R24). -/
inductive Stall where
  | none
  | walk (va : Nat)
  | walking
  | data (word : Nat) (pas : List Nat) (made seq : Nat)
deriving DecidableEq, Repr, Inhabited

/-- Bit-stuffing unit (R155): settings, bits held (oldest first), run length and last bit. -/
structure Stf where
  k : Nat
  mode : Bool
  dir : Bool
  buf : List Bool
  run : Nat
  last : Bool
deriving DecidableEq, Repr, Inhabited

/-- CRC unit (R155). -/
structure Crc where
  acc : Nat
  poly : Nat
  width : Nat
  refIn : Bool
  refOut : Bool
deriving DecidableEq, Repr, Inhabited

/-- The five flags (R118). -/
structure FlagSet where
  z : Bool
  n : Bool
  c : Bool
  v : Bool
  dz : Bool
deriving DecidableEq, Repr, Inhabited

/-- Engine control registers that stand per context (R151). -/
structure Skz where
  armed : Nat
  dbsel : Nat
  dbmask : Nat
  tmrCfg : Nat
  tmrNs : Nat
  liftEv : Nat
  fpcsr : Nat
  timer : Bool
  /-- The timer has reached its target since it was enabled or its target was set (R149). -/
  fired : Bool
  soft : Bool
deriving DecidableEq, Repr, Inhabited

/-- One hardware context (R85). -/
structure Ctx where
  w : Tab Word
  fl : FlagSet
  pc : Nat
  space : Nat
  prio : Nat
  st : CtxSt
  /-- The context runs a job it took. -/
  hasJob : Bool
  micro : List TlbE
  skz : Skz
  /-- rd of the WAITEV in progress (R147). -/
  evRd : Nat
  stall : Stall
  /-- Virtual addresses of the current word whose walks have failed, with the fault code (R103, R105). -/
  walkFlt : List (Nat × Nat)
  /-- The steal window has expired (R93); the last Patrol reply was empty and the summary bit has not been set anew since
  (R95). -/
  window : Bool
  patEmpty : Bool
  /-- ABORT waits for the owned lifts to stop (R87). -/
  aborting : Bool
  /-- FENCE waits (R121). -/
  fence : Bool
  crc : Crc
  stf : Stf
  /-- Pregaef binding (R156): task + 1, or 0; code pointer, stack pointer as an offset in the data memory, handler base. -/
  bound : Nat
  pgPc : Nat
  pgSp : Nat
  pgBase : Nat
  /-- Control task whose run the context executes, from its job (R426): task + 1, or 0. -/
  task : Nat
deriving DecidableEq, Repr, Inhabited

/-- A store that has left a context and not yet reached its target (R121), with its place among the requests of the engine (R24). -/
structure StoreE where
  ctx : Nat
  pa : Nat
  size : Nat
  value : Nat
  seq : Nat
deriving DecidableEq, Repr, Inhabited

/-- State shared by the four contexts of an engine (R88, R121, R151); engine 64 is Patrol. -/
structure Eng where
  rr : Nat
  illegalPc : Nat
  illegalCnt : Nat
  misuseCnt : Nat
  stores : List StoreE
  /-- Requests made so far, which order the accesses of the four contexts (R24, R27). -/
  seq : Nat
  /-- SKZ_CYCLE (R151). -/
  cycle : Nat
  /-- Control engine: SKZ_VERSION.PGF (R156). -/
  pgf : Bool
deriving DecidableEq, Repr, Inhabited

/-- The producer of a hardware push (R89 SRC); for the switch core the internal port, and whether the copy is one of R214. -/
inductive Producer where
  | swc (port : Nat) (pm : Bool)
  | mac (n : Nat)
  | can (n : Nat)
  | slm
  | ctl (task : Nat)
  | par
  | bld (g : Nat)
  | steal
deriving DecidableEq, Repr, Inhabited

/-- A steal request on its way to the victim, a rink or 8 for Patrol, with the priorities that the thief context accepts (R94, R95); not `sent`: one that
the context has sent or not, by whether a summary bit that was set for a moment reached its rink in that time. -/
structure Ask where
  thief : Nat
  victim : Nat
  prios : List Nat
  sent : Bool
deriving DecidableEq, Repr, Inhabited

/-- The answer to a steal request on its way to the thief context (R94, R95): the rink that answered, or 8 for Patrol, and
the job, or an empty reply. -/
structure Steal where
  thief : Nat
  victim : Nat
  reply : Option Job
deriving DecidableEq, Repr, Inhabited

/-- Engines, queues and TLBs of the device. -/
structure EngSt where
  ctx : Tab Ctx
  eng : Tab Eng
  /-- Queue of engine rink × 8 + e, oldest first (R90), each job with the number of its arrival. -/
  queue : Tab (List (Nat × Job))
  /-- Arrivals so far, which order the jobs of different queues of a rink (R94). -/
  arrivals : Nat
  /-- Hardware pushes waiting at a full queue (R90), each with whether the router has redirected it (R110). -/
  waiting : Tab (List (Producer × Job × Bool))
  /-- Staged push words; key (window × 256 + master ID) × 4 + context, window 8 is PAT_SQ_PUSH (R90, R475). -/
  staged : Tab (List Word)
  /-- Patrol's stealable queue (R95). -/
  patQ : List (Nat × Job)
  asks : List Ask
  steals : List Steal
  /-- Second-level TLB of each rink (R99). -/
  tlb : Tab (List TlbE)
  walks : List Walk
deriving DecidableEq, Repr, Inhabited

end Sys2Proof.Machine
end

