-- ==== Sys2Proof/Machine/StHost.lean ====
section
/-! DEFINITION. State of the mailbox block and of the host interface beside their registers. -/

namespace Sys2Proof.Machine

/-- The snapshot a receiver holds of a mailbox (R194). -/
inductive Snap where
  | none
  | empty (mid ctx : Nat)
  | notice (mid ctx : Nat)
deriving DecidableEq, Repr, Inhabited

/-- Mailbox block (R192, R194): snapshots per mailbox; per master ID and context the staged low word and the outcome of
the last commit. The key of a master ID and context is mid × 4 + ctx. -/
structure MbxSt where
  snap : Tab Snap
  low : Tab (Option Word)
  postRes : Tab Nat
deriving DecidableEq, Repr, Inhabited

/-- Host request that Patrol serves (R481, R482). -/
structure HostSt where
  /-- MSI-X vectors whose condition holds (R479), one bit per vector. -/
  asserted : Nat
  /-- Pending bit array. -/
  pba : Nat
  /-- Vectors whose mask bit is clear. -/
  unmasked : Nat
  /-- Function mask of the MSI-X capability. -/
  fnMask : Bool
  /-- PCIE_PERST_N holds the endpoint in reset (R521). -/
  perst : Bool
  /-- Number of the next event log record since boot (R476). -/
  logSeq : Nat
  /-- Data word and completion of the last PCI Express read: value, error-poisoned. -/
  pcieData : List Word
  pcieEP : Bool
  /-- STATUS and words of the last SPI read (R480). -/
  spiStatus : Nat
  spiData : List Word
  /-- A FLASH_WRITE or FLASH_VERIFY request runs (R482). -/
  flashBusy : Bool
  /-- An exchange package is pending, has passed its checks (R439). -/
  package : Bool
  packageOk : Bool
deriving DecidableEq, Repr, Inhabited

end Sys2Proof.Machine
end

