-- ==== Sys2Proof/Machine/StMem.lean ====
section
/-! DEFINITION. State of the shared memory, the Groomer and the lifts beside their registers. -/

namespace Sys2Proof.Machine

/-- Shared memory (R159 to R161, R179): errors held by words, the reply to the last granted read, repair registers. -/
structure SmfSt where
  /-- Errors of the words of shared memory: address ÷ 8 to 0 none, 1 one bit, 2 uncorrectable. -/
  errs : Tab Nat
  /-- What the last granted read told its reader: the data and whether the error was uncorrectable. -/
  rdata : Nat
  rerr : Bool
  /-- The round-robin pointer of each bank's arbiter over the 15 master ports (R25). -/
  rr : Tab Nat
  /-- Accesses other than single granted words have been made since SMF_CONF_CNT was last read, of which no command says who waited meanwhile (R163). -/
  crowd : Bool
  /-- Rows and bit positions that spares replace, per bank. -/
  rows : Tab (List Nat)
  cols : Tab (List Nat)
  /-- Dirty bits of tracked 4 KiB pages, by page number (R455). -/
  dirty : Tab Bool
deriving DecidableEq, Repr, Inhabited

/-- The command that the Groomer runs (R181). -/
inductive GrmCmd where
  | none
  | destructive
  /-- A preserving test: rows done, whether a row was repaired, whether a row stayed unrepaired. -/
  | preserving (done : Nat) (repaired unrepaired : Bool)
deriving DecidableEq, Repr, Inhabited

/-- Where a lift stands within its chain (R173, R174): the descriptor is to be fetched, its blocks are moved, or the
last block is done and the writes are being acknowledged. -/
inductive LiftStage where
  | fetch | blocks | ended
deriving DecidableEq, Repr, Inhabited

/-- A translation that a device-level lift holds (R172): SPACE, virtual page, physical page, rights. -/
structure HeldTr where
  space : Nat
  vpn : Nat
  pa : Nat
  r : Bool
  w : Bool
deriving DecidableEq, Repr, Inhabited

/-- A lift beside its registers (R170 to R176): the SPACE of the owner at the start, the stage, the descriptor fetched,
the translations held for source and destination. -/
structure LiftSt where
  space : Nat
  stage : LiftStage
  desc : List Word
  src : Option HeldTr
  dst : Option HeldTr
deriving DecidableEq, Repr, Inhabited

end Sys2Proof.Machine
end

