-- ==== Sys2Proof/Machine/StSlm.lean ====
section
/-! DEFINITION. State of the Slalom controller beside its registers (11_slalom). -/

namespace Sys2Proof.Machine

/-- What a pick-up took for a gate (R305, R306): the cycle it is for, whether a null frame goes, the payload, the ports on
which it has been sent. -/
structure Pick where
  cycle : Nat
  null : Bool
  data : List Byte
  sentA : Bool
  sentB : Bool
deriving DecidableEq, Repr, Inhabited

/-- How often every slot and every decoupling buffer had been committed when a gate was picked up (R306). -/
structure Picked where
  slots : Tab Nat
  bufs : Tab Nat
deriving DecidableEq, Repr, Inhabited

/-- The Slalom controller (R304 to R323). -/
structure SlmSt where
  /-- Start of the current cycle in 2^-8 ns; SLM_CSTART shows its nanoseconds. -/
  start : Nat
  /-- The previous cycle: whether there was one, its start and bank. -/
  prevOk : Bool
  prevStart : Nat
  prevBank : Nat
  /-- Gates accepted in the current and in the previous cycle (R310). -/
  acc : List Nat
  accPrev : List Nat
  /-- Deviations for the sync point of this cycle: first accepted frame of each origin (R313). -/
  devs : List (Nat × Int)
  /-- Distinct nodes of the frames accepted in the running cycle; a node that sends TYPE 2 was heard; a frame was early or late; a TYPE 0 or 1
  frame was accepted (R315, R318). -/
  nodes : List Nat
  cold : Bool
  bad : Bool
  data : Bool
  /-- The sync point of this cycle is past. -/
  synced : Bool
  /-- Consecutive cycles with too few nodes (R320); a full cycle has begun since integration (R315). -/
  low : Nat
  full : Bool
  /-- The device sends in its own gates. -/
  own : Bool
  /-- Cycle of the armed switch (R323). -/
  swAt : Nat
  /-- The step of the SLM's last alignment in 2^-8 ns, and the ticks since it has reached the switch island copy (R317). -/
  corr : Option (Nat × Option Nat)
  /-- Pick-ups per gate: of the running cycle, and of the next. -/
  picks : Tab (List Pick)
  /-- Commits at the previous pick-up of each gate, key bank × 256 + gate (R306), and commits of each decoupling buffer. -/
  pickedAt : Tab Picked
  dcbCommits : Tab Nat
deriving DecidableEq, Repr, Inhabited

end Sys2Proof.Machine
end

