-- ==== Sys2Proof/Machine/Frame.lean ====
section
/-! DEFINITION. Ethernet frames as byte lists: fields, tags, FCS (R211, R240, R243, R245, R265, R266, R292). A frame of
the model stands from the first byte of the destination address; a received one includes its FCS. -/

namespace Sys2Proof.Machine

/-- A frame, from the destination address on. -/
abbrev Frame := List Byte

/-- `n` bytes from byte `i` as a number, first byte most significant. -/
def Frame.be (f : Frame) (i n : Nat) : Nat := beVal ((f.drop i).take n)

/-- Destination and source address. (DEDUCED: log entry 22.) -/
def Frame.da (f : Frame) : Nat := f.be 0 6
def Frame.sa (f : Frame) : Nat := f.be 6 6

/-- An address with the group bit (the broadcast address among them). -/
def isGroup (a : Nat) : Bool := bit a 40

/-- The broadcast address. -/
def broadcast : Nat := 2 ^ 48 - 1

/-- The first EtherType is 0x8100 (R243). -/
def Frame.tagged (f : Frame) : Bool := f.be 12 2 == 0x8100

/-- PCP and VID of the tag. -/
def Frame.tagPcp (f : Frame) : Nat := bits (f.be 14 2) 15 13
def Frame.tagVid (f : Frame) : Nat := bits (f.be 14 2) 11 0

/-- Offset of the EtherType behind at most one tag, and that EtherType. -/
def Frame.typeAt (f : Frame) : Nat := if f.tagged then 16 else 12
def Frame.etype (f : Frame) : Nat := f.be f.typeAt 2

/-- One byte through the CRC of the FCS. -/
def crc32Bits : Nat → Nat → Nat
  | 0, c => c
  | k + 1, c => crc32Bits k (if c % 2 = 1 then Nat.xor (c / 2) 0xEDB88320 else c / 2)

/-- The FCS over a list of bytes, as a number. -/
def crc32 (l : List Byte) : Nat := Nat.xor (l.foldl (fun c b => crc32Bits 8 (Nat.xor c b.toNat)) 0xFFFFFFFF) 0xFFFFFFFF

/-- A frame without FCS with its FCS appended. -/
def Frame.withFcs (f : Frame) : Frame := f ++ leBytes 4 (crc32 f)

/-- A frame without its last four bytes. -/
def Frame.body (f : Frame) : Frame := f.take (f.length - 4)

/-- Whether the FCS of a received frame is correct. -/
def Frame.fcsOk (f : Frame) : Bool := 4 ≤ f.length && f.drop (f.length - 4) == leBytes 4 (crc32 f.body)

/-- Zero padding up to `n` bytes. -/
def Frame.padTo (f : Frame) (n : Nat) : Frame := f ++ List.replicate (n - f.length) 0#8

/-- A received frame whose length/type field is a length that does not match its payload, allowing for padding to 64
bytes (R212). -/
def Frame.lenError (f : Frame) : Bool :=
  let t := f.etype
  let pay := f.length - 4 - (f.typeAt + 2)
  t < 0x600 && !(t == pay || (t < pay && f.length == 64))

/-- The frame with `l` inserted at byte `i`. -/
def Frame.insertAt (f : Frame) (i : Nat) (l : List Byte) : Frame := f.take i ++ l ++ f.drop i

/-- The VLAN tag of a PCP and VID. -/
def vlanTag (pcp vid : Nat) : List Byte := beBytes 2 0x8100 ++ beBytes 2 (pcp * 0x2000 + vid)

/-- A body with or without a tag of PCP and VID; a tag that stays keeps its bit 12. -/
def Frame.retag (f : Frame) (tag : Bool) (pcp vid : Nat) : Frame :=
  let bare := if f.tagged then f.take 12 ++ f.drop 16 else f
  let dei := if f.tagged then bits (f.be 14 2) 12 12 * 0x1000 else 0
  if tag then Frame.insertAt bare 12 (vlanTag pcp (vid + dei)) else bare

/-- The sequence number of an R-TAG after any VLAN tag (R265). -/
def Frame.rtag (f : Frame) : Option Nat := if f.etype = 0xF1C1 then some (f.be (f.typeAt + 4) 2) else none

/-- The sequence number of a valid PRP trailer of a received frame (R266): suffix 0x88FB and a matching LSDUsize. (PRESUMED: log entry 16.) -/
def Frame.prpSeq (f : Frame) : Option Nat :=
  let b := f.body
  let n := b.length
  if f.typeAt + 8 ≤ n && b.be (n - 2) 2 == 0x88FB && bits (b.be (n - 4) 2) 11 0 == n - (f.typeAt + 2) then some (b.be (n - 6) 2)
  else none

/-- The sequence number of the HSR tag (R266). (PRESUMED: log entry 16.) -/
def Frame.hsrSeq (f : Frame) : Option Nat := if f.etype = 0x892F then some (f.be (f.typeAt + 4) 2) else none

/-- A body with the PRP trailer of a LAN (PRESUMED, log entry 16: layout by IEC 62439-3, which R266 names). -/
def Frame.addPrp (f : Frame) (lan seq : Nat) : Frame :=
  let b := f.padTo 54
  b ++ beBytes 2 seq ++ beBytes 2 (lan * 0x1000 + bits (b.length + 6 - (f.typeAt + 2)) 11 0) ++ beBytes 2 0x88FB

/-- A body with the HSR tag of a port inserted (PRESUMED, log entry 16). -/
def Frame.addHsr (f : Frame) (path seq : Nat) : Frame :=
  f.insertAt f.typeAt (beBytes 2 0x892F ++ beBytes 2 (path * 0x1000 + bits (f.length + 6 - (f.typeAt + 2)) 11 0)
    ++ beBytes 2 seq)

/-- The frame with `n` bytes from byte `i` replaced. -/
def Frame.put (f : Frame) (i : Nat) (l : List Byte) : Frame := f.take i ++ l ++ f.drop (i + l.length)

/-! ### PTP (R292, R293) -/

/-- Where the PTP message of a body lies: layer 2, or UDP to port 319 over IPv4 with a 20-byte header; `none` otherwise. -/
inductive PtpAt where
  | none
  | l2 (at_ : Nat)
  | udp (at_ : Nat)
  /-- UDP to port 319 over IPv6, or over IPv4 with options. -/
  | other (at_ : Nat)
deriving DecidableEq, Repr, Inhabited

/-- Finds the PTP message of a body; `ipv4` is IPV4_EN of the port. -/
def Frame.ptp (f : Frame) (ipv4 : Bool) : PtpAt :=
  let p := f.typeAt + 2
  if f.etype = 0x88F7 then .l2 p
  else if !ipv4 then .none
  else if f.etype = 0x0800 ∧ f.be (p + 9) 1 = 17 ∧ f.be p 1 / 16 = 4 then
    let h := f.be p 1 % 16 * 4
    if f.be (p + h + 2) 2 ≠ 319 then .none
    else if h = 20 then .udp (p + 28)
    else .other (p + h + 8)
  else if f.etype = 0x86DD ∧ f.be (p + 6) 1 = 17 ∧ f.be (p + 42) 2 = 319 then .other (p + 48)
  else .none

end Sys2Proof.Machine
end

