-- ==== Sys2Proof/Machine/StSwc.lean ====
section
/-! DEFINITION. State of the MACs and the switch core beside their registers (08_ports_macs, 09_switch_core). -/

namespace Sys2Proof.Machine

/-- How a copy leaves through a redundancy instance (R266): the kind with LAN or path, and the sequence number. -/
inductive RedTx where
  | none
  | prp (lan seq : Nat)
  | hsr (path seq : Nat)
  /-- An own Slalom frame with its scheduled send instant in 2^-8 ns (R305), and a forwarded one (R308). -/
  | slmOwn (at_ : Nat)
  | slmFwd
deriving DecidableEq, Repr, Inhabited

/-- A copy of a stored frame in an egress queue (R241): first cell, class, whether it is a multicast copy, its redundancy
handling, and the perfect-match entry of a copy made under R214 (MAC × 16 + entry). -/
structure Copy where
  cell : Nat
  cls : Nat
  mc : Bool
  red : RedTx
  pm : Option Nat
deriving DecidableEq, Repr, Inhabited

/-- A stored frame (R239 to R241, R252): cells, copies that remain, what its source and header are. -/
structure FrameSt where
  cells : List Nat
  refs : Nat
  flen : Nat
  noFcs : Bool
  port : Nat
  cls : Nat
  sched : Bool
  tagged : Bool
  /-- The egress MAC handles tags by the VLAN (R245); false for a DIRECT injection. -/
  retag : Bool
  vid : Nat
  pcp : Nat
  seq : Nat
  /-- Ingress time-stamp in 2^-8 ns, and its time base. -/
  ts : Nat
  tb : Nat
  /-- Identifier for the transmit time-stamp queue (R250). -/
  tsId : Option Nat
  /-- Its EtherType is 0x888E: it leaves unprotected (R229). -/
  eapol : Bool
deriving DecidableEq, Repr, Inhabited

/-- What a MAC has sent: the bytes on the line but for SecTAG and ICV, and these where the frame is protected (R229). -/
structure Sent where
  bytes : Frame
  sec : Option SecRx
  /-- The frame ends with a transmit error. -/
  err : Bool
deriving DecidableEq, Repr, Inhabited

/-- A frame that passes in traverse mode (R224, R225): the position of its byte 0 in the stream, its bytes received so far, and those of them
that have been sampled, as they were then. -/
structure Trav where
  start : Nat
  /-- Its ingress time-stamp (R224), and MAXLEN at its SFD (R211). -/
  ts : Nat
  maxlen : Nat
  rx : List Byte
  out : List Byte
  /-- Whether its transmission has begun, and the MAC on which it leaves (R216, R227). -/
  begun : Bool
  port : Option Nat
deriving DecidableEq, Repr, Inhabited

/-- A MAC (R216 to R231). -/
structure MacSt where
  /-- Copy selected for the next start, and copy in transmission. -/
  sel : Option Copy
  tx : Option Copy
  /-- Flow-control frames that follow the frame in transmission, oldest first (R219). -/
  ctl : List Frame
  last : Option Sent
  /-- Frames on their way back through the near-end loopback of the lane, oldest first (R235). -/
  loop : List Sent
  /-- Quanta of the last honoured PAUSE, and per class of the last honoured PFC (R218). -/
  quanta : Nat
  pfcQuanta : Tab Nat
  /-- Highest PN accepted per association number (R230). -/
  rxPn : Tab Nat
  /-- Shaper credit per class in 10^-6 bit (R263). -/
  credit : Tab Int
  /-- Position of the continuous byte stream in the traverse ring (R224), and how many bytes of the ring hold bytes of frames; the frame that passes
  or has passed last, and whether it passes. -/
  ringPos : Nat
  ringUsed : Nat
  trav : Option Trav
  travOn : Bool
deriving DecidableEq, Repr, Inhabited

/-- Cells that a port holds from each source, and per class (R252, R253). -/
structure PortUse where
  guar : Nat
  pool : Nat
  hdrm : Nat
  sched : Nat
  cls : Tab Nat
  /-- Cells of the pool per class (R253). -/
  clsPool : Tab Nat
deriving DecidableEq, Repr, Inhabited

/-- A copy that an internal port holds (R248): first cell; made by a perfect-match entry or not (R378); the handler that the dispatcher or the IPv4
service has given the frame to: 0 the IPv4 service, else a personality (R379, R380); stations that have taken their input from it. -/
structure Held where
  cell : Nat
  pm : Bool
  pers : Option Nat
  served : List Nat
deriving DecidableEq, Repr, Inhabited

/-- An entry of a software table as its four words (R245). -/
structure TblE where
  d0 : Nat
  d1 : Nat
  d2 : Nat
  d3 : Nat
deriving DecidableEq, Repr, Inhabited

/-- Injection descriptor (R250) with the stamp of its acceptance. -/
structure InjD where
  w0 : Nat
  w1 : Nat
  w2 : Nat
  w3 : Nat
  ts : Nat
deriving DecidableEq, Repr, Inhabited

/-- A gate control list that runs (R260): first start reached, start of the running cycle, next start, start at which the
armed bank takes over. -/
structure GclSt where
  started : Bool
  start : Nat
  next : Nat
  switchAt : Nat
deriving DecidableEq, Repr, Inhabited

/-- Vector recovery of a stream (IEEE 802.1CB): whether a frame has been taken, last sequence number, history bits (bit i:
number recSeq − i was received). -/
structure SeqRec where
  taken : Bool
  recSeq : Nat
  hist : Nat
deriving DecidableEq, Repr, Inhabited

/-- The switch core (R237 to R271). -/
structure SwcSt where
  frames : Tab FrameSt
  use : Tab PortUse
  /-- Copies queued per switch port, oldest first, and copies held by internal ports. -/
  egr : Tab (List Copy)
  held : Tab (List Held)
  fdb : Tab TblE
  vlan : Tab TblE
  mcg : Tab TblE
  stream : Tab TblE
  /-- Result and index that TBL_DONE shows (R245). -/
  tblRes : Nat
  tblIdx : Nat
  /-- Injection queues, staged words by master ID × 4 + context, outcomes (R250). -/
  inj : Tab (List InjD)
  injStage : Tab (List Nat)
  injRes : Tab Nat
  gcl : Tab GclSt
  /-- Meter tokens of each stream in 10^-6 bit missing from a full bucket (R264), and its sequence recovery (R265). -/
  meter : Tab Nat
  rec_ : Tab SeqRec
  /-- Duplicate tables of the redundancy instances: source × 2^16 + sequence, oldest first (R266). -/
  dup : Tab (List Nat)
  /-- Matches of each capture rule since EN was set; next record number; captures lost since the last record (R268). -/
  capMatch : Tab Nat
  capSeq : Nat
  capLost : Nat
  /-- Records that wait to be written, oldest first (R270). -/
  capQ : List (List Byte)
  /-- Mailbox that each internal port tries next (R249). -/
  mboxNext : Tab Nat
deriving DecidableEq, Repr, Inhabited

end Sys2Proof.Machine
end

