-- ==== Sys2Proof/Machine/P384.lean ====
section
/-! DEFINITION. The curve P-384 (NIST SP 800-186): ECDSA signatures (FIPS 186-5) and ECDH (NIST SP 800-56A) of the Vault (R52, R68, R71, R72,
R79). -/

namespace Sys2Proof.Machine

/-- The prime of the field, the order of the base point, and the coefficient b; a is -3. -/
def ecP : Nat := 2 ^ 384 - 2 ^ 128 - 2 ^ 96 + 2 ^ 32 - 1
def ecN : Nat := 0xFFFFFFFFFFFFFFFFFFFFFFFFFFFFFFFFFFFFFFFFFFFFFFFFC7634D81F4372DDF581A0DB248B0A77AECEC196ACCC52973
def ecB : Nat := 0xB3312FA7E23EE7E4988E056BE3F82D19181D9C6EFE8141120314088F5013875AC656398D8A2ED19D2A85C8EDD3EC2AEF

/-- A point in Jacobian coordinates: x / z², y / z³; the neutral element where z is 0. -/
structure EcPoint where
  x : Nat
  y : Nat
  z : Nat
deriving DecidableEq, Repr, Inhabited

/-- The base point. -/
def ecG : EcPoint :=
  ⟨0xAA87CA22BE8B05378EB1C71EF320AD746E1D3B628BA79B9859F741E082542A385502F25DBF55296C3A545E3872760AB7,
   0x3617DE4A96262C6F5D9E98BF9292DC29F8F41DBD289A147CE9DA3113B5F0B8C00A60B1CE1D7E819D7A431D7C90EA0E5F, 1⟩

/-- `r` × a^e mod `m`, for an exponent of at most `f` bits. -/
def powMod (m : Nat) : Nat → Nat → Nat → Nat → Nat
  | 0, _, _, r => r
  | f + 1, a, e, r => powMod m f (a * a % m) (e / 2) (if e % 2 = 1 then r * a % m else r)

/-- The inverse modulo a prime of 384 bits. -/
def invMod (m a : Nat) : Nat := powMod m 384 (a % m) (m - 2) 1

/-- A point doubled. -/
def EcPoint.double (q : EcPoint) : EcPoint :=
  let d := q.z * q.z % ecP
  let g := q.y * q.y % ecP
  let b := q.x * g % ecP
  let a := 3 * ((q.x + ecP - d) * (q.x + d)) % ecP
  let x := (a * a + 8 * (ecP - b)) % ecP
  ⟨x, (a * ((4 * b + ecP - x) % ecP) + 8 * (ecP * ecP - g * g)) % ecP, 2 * (q.y * q.z) % ecP⟩

/-- The sum of two points. -/
def EcPoint.add (q r : EcPoint) : EcPoint :=
  if q.z = 0 then r
  else if r.z = 0 then q
  else
    let z1 := q.z * q.z % ecP
    let z2 := r.z * r.z % ecP
    let u1 := q.x * z2 % ecP
    let u2 := r.x * z1 % ecP
    let s1 := q.y * (r.z * z2 % ecP) % ecP
    let s2 := r.y * (q.z * z1 % ecP) % ecP
    if u1 = u2 then if s1 = s2 then q.double else ⟨1, 1, 0⟩
    else
      let h := (u2 + ecP - u1) % ecP
      let t := (s2 + ecP - s1) % ecP
      let h2 := h * h % ecP
      let h3 := h * h2 % ecP
      let v := u1 * h2 % ecP
      let x := (t * t + 3 * ecP - h3 - 2 * v) % ecP
      ⟨x, (t * ((v + ecP - x) % ecP) + (ecP - s1) * h3) % ecP, h * (q.z * r.z % ecP) % ecP⟩

/-- u × g + v × q from bit `i` - 1 down, onto what stands; `gq` is g + q. -/
def ecSum (g q gq : EcPoint) (u v : Nat) : Nat → EcPoint → EcPoint
  | 0, a => a
  | i + 1, a =>
    let a := a.double
    ecSum g q gq u v i (match u.testBit i, v.testBit i with
      | true, true => a.add gq
      | true, false => a.add g
      | false, true => a.add q
      | false, false => a)

/-- A public key of 96 bytes as a point: x, then y. -/
def ecKey (key : Nat) : EcPoint := ⟨key / 2 ^ 384, key % 2 ^ 384, 1⟩

/-- Whether a public key is a point of the curve. -/
def ecValid (key : Nat) : Bool :=
  let q := ecKey key
  q.x < ecP && q.y < ecP && q.y * q.y % ecP == (q.x * q.x * q.x + (ecP - 3) * q.x + ecB) % ecP

/-- A point as 96 bytes. -/
def EcPoint.out (q : EcPoint) : Nat :=
  let w := invMod ecP q.z
  let w2 := w * w % ecP
  q.x * w2 % ecP * 2 ^ 384 + q.y * (w2 * w % ecP) % ecP

/-- k × q. -/
def EcPoint.times (k : Nat) (q : EcPoint) : EcPoint := ecSum q q q k 0 384 ⟨1, 1, 0⟩

/-- Whether a signature of 96 bytes, r then s, verifies under a public key over a digest of 384 bits. -/
def ecdsaOk (key digest sig : Nat) : Bool :=
  let r := sig / 2 ^ 384
  let s := sig % 2 ^ 384
  if r = 0 ∨ s = 0 ∨ ecN ≤ r ∨ ecN ≤ s ∨ !ecValid key then false
  else
    let w := invMod ecN s
    let q := ecKey key
    let a := ecSum ecG q (ecG.add q) (digest * w % ecN) (r * w % ecN) 384 ⟨1, 1, 0⟩
    a.z ≠ 0 && a.out / 2 ^ 384 % ecN == r

/-- The shared secret of ECDH: the x coordinate of d × q. -/
def ecdh (d key : Nat) : Nat := ((ecKey key).times d).out / 2 ^ 384

end Sys2Proof.Machine
end

