-- ==== Sys2Proof/Machine/StSys.lean ====
section
/-! DEFINITION. State of the reset controller, power, boot and Vault beside their registers. -/

namespace Sys2Proof.Machine

/-- Which of the boot's modes applies (R45, R485 entry 3). -/
inductive BootMode where
  | start | selfTest | provisioning | done
deriving DecidableEq, Repr, Inhabited

/-- Reset controller, modes and power (R485 to R498). -/
structure SysSt where
  /-- The serial number in OTP (R500), and per bank the spare rows and columns that factory fuses use (R178, R188). -/
  serial : Nat
  fuses : Tab (Nat × Nat)
  /-- The levels that stand on the Blade pins of each group, bit p for group pin p, as the last row that saw them brought them (R373). -/
  pads : Tab Nat
  /-- PD_FAB and PD_PAT are on (R493); PD_AON is always on, the other domains stand in PWR_DOM_STAT. -/
  fabOn : Bool
  patOn : Bool
  /-- A reset of the device that has started and not ended (R490). -/
  resetRun : Option ResetKind
  /-- Rinks in RINK reset and MACs in PORT reset, one bit each. -/
  rinkRst : Nat
  portRst : Nat
  /-- The domain change that runs: bit of PWR_DOM_CTRL and the new state (R494). -/
  domReq : Option (Nat × Bool)
  /-- Boot output hold (R46). -/
  bootHold : Bool
  bootMode : BootMode
  /-- The tamper response has started (R485 entry 1); its zero-fill runs; its count bit is due (R81). -/
  lockdown : Bool
  filling : Bool
  countDue : Bool
  /-- Retention entered (R496), wraps of WAKE_TB counted (R497). -/
  retention : Bool
  wraps : Nat
  /-- A resume boot runs (R498); banks kept by it, and banks mapped out before it. -/
  resume : Bool
  keptBanks : List Nat
  mappedBefore : List Nat
  /-- TMU ticks since the last whole millisecond of the watchdog (R472). -/
  msTicks : Nat
  /-- Reason of the WDOG reset that runs, for PAT_STATUS.CAUSE (R469, R472). -/
  wdogCause : Nat
  /-- Lanes and PHYs that the boot keeps powered off, one bit each (R58). -/
  deadLanes : Nat
  deadPhys : Nat
  /-- Phase 9 was reached, for UNCONF (R50). -/
  phase9 : Bool
deriving DecidableEq, Repr, Inhabited

/-- The boot (R43 to R62). -/
structure BootSt where
  /-- Images rejected in this boot. -/
  rejected : Nat
  /-- Chip select tried now or accepted: 1 A, 2 B, 0 none. -/
  cur : Nat
  image : Option Image
  /-- Phases whose work is complete: the next phase is this number. -/
  next : Nat
  /-- REGSEQ sections still to apply, records in order (phases 5 and 8). -/
  seq : List (List RegRec)
  /-- Per rink: kept records still to reapply in its RINK reset (R109). -/
  rinkSeq : Tab (List RegRec)
  /-- The running image: TARGET_MODE, ROLLBACK, BUILD_ID, digest, RESOURCE, DOMAIN, ENGINE_FW sections kept for reload (R55),
  REGSEQ records kept for rink resets (R109). -/
  target : Nat
  rollback : Nat
  buildId : Nat
  digest : Nat
  minEngines : List Nat
  domOn : Nat
  fw : List Section
  kept : List RegRec
  /-- The WINDOW section has been applied (R47). -/
  windowsOn : Bool
  /-- Applied windows: base, size, rights (R73). -/
  windows : List (Nat × Nat × Nat)
  /-- Register pages granted to each rink, one bit per page (R76). -/
  grants : List Nat
deriving DecidableEq, Repr, Inhabited

/-- The fields of the OTP that are read as a whole, each protected by its own check bits (R67). -/
inductive OtpField where
  | lifecycle | seed
  | keySlot (n : Nat)
  | keyRevoke | wimg | debugKey | sensorEn | tamperLimit
deriving DecidableEq, Repr, Inhabited

/-- The programming of the OTP that a loss of power would cut short (R67, R531): a field; bits of ROLLBACK from one count up to another;
the bit of TAMPER_COUNT that is due. -/
inductive OtpProg where
  | none
  | field (f : OtpField)
  /-- SENSOR_EN, then TAMPER_LIMIT, which held this value. -/
  | sensors (limit : Nat)
  | rollback (lo hi : Nat)
  | tamper (bit : Nat)
deriving DecidableEq, Repr, Inhabited

/-- The contents of the OTP (R67). -/
structure OtpSt where
  /-- LIFECYCLE as programmed: 0 BLANK, 1 OWNED, 2 SCRAPPED. -/
  stage : Nat
  /-- OTP_SEED and the PUF helper data. -/
  seed : Nat
  helper : Nat
  /-- Key slots that are programmed, one bit each, and their public keys; KEY_REVOKE. -/
  slots : Nat
  slotKeys : Tab Nat
  revoke : Nat
  /-- OTP_WIMG: the 60 bytes of K_IMG wrapped with DUK, as a number whose first byte is the most significant: IV, what is encrypted, tag. -/
  wimg : Option Nat
  debugKey : Option Nat
  sensors : Nat
  limit : Nat
  /-- Bits of ROLLBACK and TAMPER_COUNT that are set, and those whose check fails (R531). -/
  rollSet : Nat
  rollBad : Nat
  tampSet : Nat
  tampBad : Nat
  /-- The other fields whose check fails. -/
  bad : List OtpField
  /-- The programming that a loss of power cuts short. -/
  prog : OtpProg
deriving DecidableEq, Repr, Inhabited

/-- The key registers of the Vault (R66): PUF root, DUK, K_IMG where OTP_WIMG gives it, the section keys by table index, K_TDM, and CAK_BB
by backbone port. -/
structure KeyRegs where
  puf : Nat
  duk : Nat
  img : Option Nat
  sec : Tab Nat
  tdm : Option Nat
  cak : Tab Nat
deriving DecidableEq, Repr, Inhabited

/-- What a key slot of a MAC holds: a SAK and its salt (R78, R229). -/
structure MacKey where
  key : Nat
  salt : Nat
deriving DecidableEq, Repr, Inhabited

/-- Vault (R66 to R81). -/
structure VltSt where
  otp : OtpSt
  keyRegs : Option KeyRegs
  /-- The private part of the ephemeral key that waits for SET_IMG_KEY (R72). -/
  ephemeral : Option Nat
  /-- The nonce that the next Provisioning request of an OWNED device must carry (R71). -/
  nonce : Option Nat
  /-- The nonce of the debug challenge that is open (R79). -/
  challenge : Option Nat
  /-- Debug failures since the last POR (R79). -/
  dbgFails : Nat
  /-- The value the Vault returned last: public key, or nonce with the serial number above it. -/
  answer : Nat
  /-- Data of the last debug read. -/
  dbgData : Word
  /-- Keys in the key slots of the MACs, MAC × 4 + AN, and in the tandem slot; the nonce sent at the last tandem link start (R77, R78). -/
  sak : Tab (Option MacKey)
  tandemSak : Option Nat
  tandemNonce : Nat
deriving DecidableEq, Repr, Inhabited

/-! ### What the OTP counts as (R67, R531) -/

/-- The count of a thermometer field: the position of its highest bit that is set or fails, plus 1. -/
def thermo (set bad : Nat) : Nat := if set ||| bad = 0 then 0 else Nat.log2 (set ||| bad) + 1

/-- Whether the check of a field fails. -/
def OtpSt.fails (o : OtpSt) (f : OtpField) : Bool := o.bad.contains f

/-- LIFECYCLE: SCRAPPED where its check fails. -/
def VltSt.lifecycle (v : VltSt) : Nat := if v.otp.fails .lifecycle then 2 else v.otp.stage

/-- OTP_SEED or PUF helper fails its check. -/
def VltSt.seedBad (v : VltSt) : Bool := v.otp.fails .seed

/-- Slots that are revoked: all where KEY_REVOKE fails its check, and a slot that fails its own. -/
def VltSt.revoked (v : VltSt) : Nat :=
  if v.otp.fails .keyRevoke then 15
  else (List.range 4).foldl (fun m n => if v.otp.fails (.keySlot n) then m ||| 2 ^ n else m) v.otp.revoke

/-- Slots that are programmed, and neither revoked nor in the mask `r`. -/
def VltSt.live (v : VltSt) (r : Nat) : Nat := v.otp.slots &&& (15 - (v.revoked ||| r) % 16)

/-- OTP_WIMG, where its check holds. -/
def VltSt.wimg (v : VltSt) : Option Nat := if v.otp.fails .wimg then none else v.otp.wimg

/-- DEBUG_KEY, where its check holds. -/
def VltSt.debugKey (v : VltSt) : Option Nat := if v.otp.fails .debugKey then none else v.otp.debugKey

/-- SENSOR_EN: all sensors where its check fails. -/
def VltSt.sensorEn (v : VltSt) : Nat := if v.otp.fails .sensorEn then 31 else v.otp.sensors

/-- TAMPER_LIMIT: 1 where its check fails. -/
def VltSt.tamperLimit (v : VltSt) : Nat := if v.otp.fails .tamperLimit then 1 else v.otp.limit

/-- The anti-rollback counter and the count of tamper responses. -/
def VltSt.rollback (v : VltSt) : Nat := thermo v.otp.rollSet v.otp.rollBad
def VltSt.tamperCount (v : VltSt) : Nat := thermo v.otp.tampSet v.otp.tampBad

/-- The first key slot, programmed and not revoked, under which a signature over a digest verifies (R68, R71). -/
def VltSt.verifier (v : VltSt) (digest sig : Nat) : Option Nat :=
  (List.range 4).find? fun k => bit (v.live 0) k && ecdsaOk (v.otp.slotKeys.get k) digest sig

/-- Keys stand in the key registers; K_IMG among them. -/
def VltSt.keys (v : VltSt) : Bool := v.keyRegs.isSome
def VltSt.kImg (v : VltSt) : Option Nat := v.keyRegs.bind KeyRegs.img

/-- The Vault without keys, nonces and answers: what zeroisation and the resets of the Vault leave (R66, R81). -/
def VltSt.cleared (v : VltSt) : VltSt :=
  { v with keyRegs := none, ephemeral := none, nonce := none, challenge := none, answer := 0, dbgData := 0#32, sak := [], tandemSak := none,
           tandemNonce := 0 }

end Sys2Proof.Machine
end

