-- ==== Sys2Proof/Machine/StTap.lean ====
section
/-! DEFINITION. State of the test access port (R79, R83, R522). -/

namespace Sys2Proof.Machine

/-- The states of the TAP controller of IEEE 1149.1 (R522). -/
inductive TapState where
  | reset | idle
  | selDr | capDr | shDr | ex1Dr | pauDr | ex2Dr | updDr
  | selIr | capIr | shIr | ex1Ir | pauIr | ex2Ir | updIr
deriving DecidableEq, Repr, Inhabited

/-- The next state for TMS at a rising edge of TCK. -/
def TapState.next (tms : Bool) : TapState → TapState
  | .reset => if tms then .reset else .idle
  | .idle | .updDr | .updIr => if tms then .selDr else .idle
  | .selDr => if tms then .selIr else .capDr
  | .capDr | .shDr => if tms then .ex1Dr else .shDr
  | .ex1Dr => if tms then .updDr else .pauDr
  | .pauDr => if tms then .ex2Dr else .pauDr
  | .ex2Dr => if tms then .updDr else .shDr
  | .selIr => if tms then .reset else .capIr
  | .capIr | .shIr => if tms then .ex1Ir else .shIr
  | .ex1Ir => if tms then .updIr else .pauIr
  | .pauIr => if tms then .ex2Ir else .pauIr
  | .ex2Ir => if tms then .updIr else .shIr

/-- The test access port: the level of TRST_N, which its pull holds low, the state of the controller, the levels that boundary scan drives
onto pins, and the level that it sampled last. -/
structure TapSt where
  trst : Bool
  state : TapState
  drives : List (ScanPin × Bool)
  sampled : Bool
deriving DecidableEq, Repr, Inhabited

end Sys2Proof.Machine
end

