-- ==== Sys2Proof/Machine/StTmu.lean ====
section
/-! DEFINITION. State of the time unit beside its registers. -/

namespace Sys2Proof.Machine

/-- An adjustment of a time base (R279) or a servo sample (R284) that reaches the TMU. -/
inductive Adj where
  | set (ns frac : Nat)
  | step (ns frac : Nat)
  /-- The step by which the SLM aligns its time base (R317). -/
  | align (ns frac : Nat)
  | sample (src : Nat) (theta : Int)
deriving DecidableEq, Repr, Inhabited

/-- A clock that goes on as a time base was before a change that a copy has not received yet (R283): its count and increment, and whether
the change is the SLM's alignment (R317). -/
structure TimeCopy where
  v : Nat
  incr : Nat
  slm : Bool
deriving DecidableEq, Repr, Inhabited

/-- A change that a copy has received: ticks since then, by how much its count jumped, and the increment at which it ran before. -/
structure PastTime where
  ticks : Nat
  jump : Nat
  incr : Nat
deriving DecidableEq, Repr, Inhabited

/-- An entry of a time input's queue (R296). -/
structure EvtE where
  ns : Nat
  frac : Nat
  rise : Bool
deriving DecidableEq, Repr, Inhabited

/-- An entry of a transmit time-stamp queue (R290). -/
structure TxtsE where
  id : Nat
  ns : Nat
  frac : Nat
  tb : Nat
  notSent : Bool
deriving DecidableEq, Repr, Inhabited

/-- A time output (R297): the number of the next edge, whether a pulse lasts, and how far the time base is from the target of the next edge
and of the return to the idle level, in 2^-8 ns. -/
structure OutSt where
  k : Nat
  pulse : Bool
  next : Int
  fall : Int
  /-- Targets behind that of the next edge that a forward step has passed. -/
  skips : Nat
deriving DecidableEq, Repr, Inhabited

/-- The time unit (R276 to R299). -/
structure TmuSt where
  /-- Counts: NS × 2^28 + fraction. -/
  tb : Tab Nat
  /-- The current tick's advance has already been made, by an adjustment or sample that took effect in it. -/
  adv : Tab Bool
  /-- Adjustments and samples that R279 defers to the next tick, in order. -/
  defer : List (Nat × Adj)
  /-- Copies that lag, key island × 4 + time base: islands 0 to 7 rinks, 8 switch, 9 Blades, 10 CAN kernel: the clock that the copy shows, then
  one for each further change that is on its way but the last, after which the copy follows the time base. -/
  copies : Tab (List TimeCopy)
  /-- The changes that the switch island copies have received, latest first. A frame whose reference point passed before one carries the stamp of the
  old clock (R283). Kept as long as a frame can last. -/
  past : Tab (List PastTime)
  /-- Ticks on the hold timer of each servo (R529). -/
  hold : Tab Nat
  evt : Tab (List EvtE)
  txts : Tab (List TxtsE)
  outs : Tab OutSt
  /-- Counts of the time bases at the start of the running TP_REF10 window, whether one runs, and ticks until the edge that starts the next
  one (R299). -/
  refStart : Tab Nat
  refRuns : Bool
  refWait : Nat
deriving DecidableEq, Repr, Inhabited

end Sys2Proof.Machine
end

