-- ==== Sys2Proof/Machine/Dev.lean ====
section
/-! DEFINITION. Everything the device holds but the queue of waiting commands. -/

namespace Sys2Proof.Machine

/-- The device. Register-visible state stands in `regs`, one word per register copy of the register tables; the other
fields hold the state that the manual gives the blocks beside their registers. -/
structure Dev where
  /-- Register file: word by offset in register space; an unlisted register holds its reset value. -/
  regs : List (Nat × Word)
  /-- Bytes by physical address (R32): shared memory, rink local memories, Patrol SRAM; an unlisted byte is 0. -/
  mem : List Host.Cell
  /-- High words latched per master ID and register (R8); key mid × 2^24 + offset. -/
  hiLatch : Tab (Option Word)
  /-- Low words staged per master ID and register (R8). -/
  loStage : Tab (Option Word)
  /-- Free values used so far (the model's own field, not the manual's). -/
  freeCnt : Nat
  /-- The word that the last register read of a command returned to its agent. -/
  rd : Word
  sys : SysSt
  boot : BootSt
  vlt : VltSt
  eng : EngSt
  smf : SmfSt
  grm : GrmCmd
  /-- Lifts 0 to 39. -/
  lft : Tab LiftSt
  tmu : TmuSt
  mac : Tab MacSt
  swc : SwcSt
  ctl : CtlSt
  slm : SlmSt
  par : ParSt
  can : Tab CanSt
  /-- Blades, group × 4 + Blade, and groups. -/
  bld : Tab BldSt
  grp : Tab BldGrp
  pers : PersSt
  mbx : MbxSt
  host : HostSt
  tap : TapSt
deriving DecidableEq, Repr, Inhabited

end Sys2Proof.Machine
end

