-- ==== Sys2Proof/Machine/Ops.lean ====
section
/-! DEFINITION. The named operations over registers, memory, power domains and doorbells that every block uses. -/

namespace Sys2Proof.Machine

variable (s : Dev)

/-! ### Registers -/

/-- The word at an offset of register space. -/
def Dev.regWord (off : Nat) : Word := Sparse.get resetAt s.regs off

/-- The device with the word at an offset of register space replaced. -/
def Dev.setRegWord (off : Nat) (v : Word) : Dev := { s with regs := Sparse.set resetAt s.regs off v }

/-- A register copy as a number. -/
def Dev.reg (r : Reg) (i j k : Nat := 0) : Nat := (s.regWord (r.addr i j k)).toNat

/-- The device with a register copy replaced. -/
def Dev.setReg (r : Reg) (v : Nat) (i j k : Nat := 0) : Dev := s.setRegWord (r.addr i j k) (word v)

/-- A field as a number. -/
def Dev.fld (f : Fld) (i j k : Nat := 0) : Nat := bits (s.reg f.reg i j k) f.hi f.lo

/-- A one-bit field as a Boolean. -/
def Dev.flag (f : Fld) (i j k : Nat := 0) : Bool := s.fld f i j k != 0

/-- The device with a field replaced. -/
def Dev.setFld (f : Fld) (v : Nat) (i j k : Nat := 0) : Dev :=
  s.setReg f.reg (putBits (s.reg f.reg i j k) f.hi f.lo v) i j k

/-- The device with a one-bit field replaced. -/
def Dev.setFlag (f : Fld) (b : Bool) (i j k : Nat := 0) : Dev := s.setFld f (b2n b) i j k

/-- A counter goes up by `n`, saturating at 0xFFFF_FFFF (R13). -/
def Dev.countBy (n : Nat) (r : Reg) (i j k : Nat := 0) : Dev :=
  s.setReg r (min (s.reg r i j k + n) (2 ^ 32 - 1)) i j k

/-- A counter increments (R13). -/
def Dev.count (r : Reg) (i j k : Nat := 0) : Dev := s.countBy 1 r i j k

/-- A violation is counted in the block's MISUSE_CNT; page `n` of a block that has several (R12). -/
def Dev.misuse (b : Block) (n : Nat := 0) : Dev := s.count b.misuse n

/-- A 64-bit register as a number, from its low and high word. -/
def Dev.reg64 (lo hi : Reg) (i j k : Nat := 0) : Nat := s.reg lo i j k + 2 ^ 32 * s.reg hi i j k

/-- A value the manual leaves open, and the device that has used it up (DESIGN CHOICE, log entry 9). -/
def Dev.fresh : Nat × Dev := (Config.free s.freeCnt, { s with freeCnt := s.freeCnt + 1 })

/-- The page of a block that an access to copy `i` of a register reaches: the first index of a block with several. -/
def Block.pageOf (b : Block) (i : Nat) : Nat :=
  match b with
  | .RNK | .MAC | .SDS | .TPHY | .CAN | .BLD => i
  | _ => 0

/-- A write to a register copy by the field rules alone (R9 to R11, R13); `ill` marks fields whose written value is
illegal at this moment by the description of the chapter. -/
def Dev.plainIf (ill : FieldInfo → Bool) (r : Reg) (v : Nat) (i j k : Nat := 0) : Dev :=
  let q := writeWord r.info.fields ill (s.reg r i j k) v
  let s' := s.setReg r q.1 i j k
  if q.2 && r != r.info.blk.misuse then s'.misuse r.info.blk (r.info.blk.pageOf i) else s'

/-- A write to a register copy by the field rules alone. -/
def Dev.plain (r : Reg) (v : Nat) (i j k : Nat := 0) : Dev := s.plainIf (fun _ => false) r v i j k

/-- A write refused whole: nothing but the violation counter changes. -/
def Dev.refuseWrite (r : Reg) (i : Nat := 0) : Dev := s.misuse r.info.blk (r.info.blk.pageOf i)

/-- Whether a field of a register table row is the field `f`. -/
def FieldInfo.is (fi : FieldInfo) (f : Fld) : Bool := fi.hi == f.hi && fi.lo == f.lo

/-! ### Control -/

/-- Apply `f` when `b` holds. -/
def Dev.when (b : Bool) (f : Dev → Dev) : Dev := if b then f s else s

/-- Apply `f` for each element of a list, in order. -/
def Dev.each {α : Type} (l : List α) (f : α → Dev → Dev) : Dev := l.foldl (fun s a => f a s) s

/-! ### Memory -/

/-- The byte at a physical address. -/
def Dev.byte (a : Nat) : Byte := Sparse.get (fun _ => 0#8) s.mem a

/-- The device with a byte written. -/
def Dev.setByte (a : Nat) (b : Byte) : Dev := { s with mem := Sparse.set (fun _ => 0#8) s.mem a b }

/-- `n` bytes from a physical address. -/
def Dev.bytes : Dev → Nat → Nat → List Byte
  | _, _, 0 => []
  | s, a, n + 1 => s.byte a :: s.bytes (a + 1) n

/-- The device with a list of bytes written from a physical address up. -/
def Dev.setBytes : Dev → Nat → List Byte → Dev
  | s, _, [] => s
  | s, a, b :: t => (s.setByte a b).setBytes (a + 1) t

/-- A little-endian value of `n` bytes in memory. -/
def Dev.load (a n : Nat) : Nat := leVal (s.bytes a n)

/-- A little-endian value of `n` bytes stored in memory. -/
def Dev.store (a n v : Nat) : Dev := s.setBytes a (leBytes n v)

/-- The memory with every byte from `a` up to `b` back at 0. -/
def Dev.zeroRange (a b : Nat) : Dev := { s with mem := s.mem.filter fun e => !(a ≤ e.1 && e.1 < b) }

/-! ### Physical address map (R32 to R34) -/

/-- Where a physical address lies. -/
inductive Range where
  | shared
  | local (rink off : Nat)
  | sram
  | regs
  | unmapped
deriving DecidableEq, Repr, Inhabited

/-- The range of a physical address (R32). -/
def rangeOf (a : Nat) : Range :=
  if a < 0x8000000 then .shared
  else if 0x100000000 ≤ a ∧ a < 0x108000000 then
    if (a - 0x100000000) % 0x1000000 < 0x100000 then .local ((a - 0x100000000) / 0x1000000) ((a - 0x100000000) % 0x1000000)
    else .unmapped
  else if 0x200000000 ≤ a ∧ a < 0x200200000 then .sram
  else if 0x1000000000 ≤ a ∧ a < 0x1001000000 then .regs
  else .unmapped

/-- Instruction memory of engine `e` of rink `r` (R34). -/
def imemBase (r e : Nat) : Nat := 0x100000000 + r * 0x1000000 + e * 0x20000

/-- Data memory of engine `e` of rink `r` (R34). -/
def dmemBase (r e : Nat) : Nat := imemBase r e + 0x10000

/-- The bank of a shared-memory address (R33). -/
def bankOf (a : Nat) : Nat := a / 0x80000

/-! ### Doorbells and MSI-X (R199, R479) -/

/-- Whether the condition of MSI-X vector `v` holds. -/
def Dev.msixCond (v : Nat) : Bool :=
  s.flag .HST_MSIX_TGT_EN v &&
    (s.reg .MBX_DB (s.fld .HST_MSIX_TGT_TARGET v) &&& s.reg .HST_MSIX_MASK v) != 0

/-- Vector `v` becomes asserted or not: a message, or the pending bit while it is masked (MSIX_MESSAGE, R479). -/
def Dev.msixVector (v : Nat) (s : Dev) : Dev :=
  let now := s.msixCond v
  if now == bit s.host.asserted v then s
  else
    let s' := { s with host := { s.host with asserted := putBit s.host.asserted v now } }
    if !now then s'
    else if bit s.host.unmasked v && !s.host.fnMask then s'.count .HST_MSIX_CNT
    else { s' with host := { s'.host with pba := putBit s'.host.pba v true } }

/-- Every vector follows its condition. -/
def Dev.msixUpdate : Dev := s.each (List.range 32) Dev.msixVector

/-- The doorbell bits of `mask` at target `t` are rung: bits already 1 count as coalesced (R199). -/
def Dev.ringMask (t mask : Nat) : Dev :=
  let old := s.reg .MBX_DB t
  let coal := ((List.range 32).filter fun b => bit mask b && bit old b).length
  ((s.countBy coal .MBX_DB_COAL_CNT).setReg .MBX_DB (old ||| mask) t).msixUpdate

/-! ### Power domains (R28) -/

/-- The switchable domains by their bit of PWR_DOM_CTRL; bits 0 to 7 are PD_RINK0 to PD_RINK7. -/
inductive Dom where
  | aon | fab | pat | rink (n : Nat) | swc | sds | tphy | hst | pio
deriving DecidableEq, Repr, Inhabited

/-- The bit of a domain in PWR_DOM_CTRL and PWR_DOM_STAT. -/
def Dom.bit : Dom → Nat
  | .rink n => n
  | .swc => 8
  | .sds => 9
  | .tphy => 10
  | .hst => 11
  | .pio => 12
  | _ => 31

end Sys2Proof.Machine
end

