-- ==== Sys2Proof/Machine/MemOps.lean ====
section
/-! DEFINITION. Physical memory: banks, ECC, access rights (R32 to R37, R158 to R165, R525), and the Groomer (R178 to
R186). -/

namespace Sys2Proof.Machine

/-! ### Bank states -/

/-- The state of a bank as SMF_BANK_STAT shows it. -/
def Dev.bankState (s : Dev) (b : Nat) : Nat := bits (s.reg .SMF_BANK_STAT (b / 8)) (b % 8 * 4 + 3) (b % 8 * 4)

/-- The device with a bank in another state. -/
def Dev.setBankState (b st : Nat) (s : Dev) : Dev :=
  s.setReg .SMF_BANK_STAT (putBits (s.reg .SMF_BANK_STAT (b / 8)) (b % 8 * 4 + 3) (b % 8 * 4) st) (b / 8)

/-- The partition of a bank as SMF_PART_MAP shows it. -/
def Dev.partOf (s : Dev) (b : Nat) : Nat := bits (s.reg .SMF_PART_MAP (b / 8)) (b % 8 * 4 + 3) (b % 8 * 4)

/-- The device with a bank in another partition. -/
def Dev.setPart (b p : Nat) (s : Dev) : Dev :=
  s.setReg .SMF_PART_MAP (putBits (s.reg .SMF_PART_MAP (b / 8)) (b % 8 * 4 + 3) (b % 8 * 4) p) (b / 8)

/-- Whether an access to the bank is made: on, or leaving retention, where it waits until the bank is on (R165; `Dev.bankWaits`). A bank
under a preserving test stays in service and serves the row under test from the park buffer (R183). -/
def Dev.bankServes (s : Dev) (b : Nat) : Bool :=
  match s.bankState b with
  | 1 | 4 => true
  | 7 => match s.grm with
    | .preserving _ _ _ => true
    | _ => false
  | _ => false

/-- Whether `n` bytes from an address touch a bank that is leaving retention, where an access waits until the bank is on (R165). -/
def Dev.bankWaits (s : Dev) (a n : Nat) : Bool :=
  [a, a + n - 1].any fun a => rangeOf a == .shared && s.bankState (bankOf a) == 4

/-- The banks of a partition, lowest first (R168). -/
def Dev.partBanks (s : Dev) (p : Nat) : List Nat := (List.range 256).filter fun b => s.partOf b == p

/-- The bank's contents are lost: every byte 0, every word without error (R164). -/
def Dev.zeroBank (b : Nat) (s : Dev) : Dev :=
  let s := s.zeroRange (b * 0x80000) (b * 0x80000 + 0x80000)
  { s with smf := { s.smf with errs := Tab.clear (fun w => w / 0x10000 == b) s.smf.errs } }

/-! ### Words with ECC -/

/-- The error that a word of shared memory holds: 0 none, 1 one bit, 2 uncorrectable. -/
def Dev.errOf (s : Dev) (a : Nat) : Nat := s.smf.errs.get (a / 8)

/-- The device with a word's error replaced. -/
def Dev.setErr (a e : Nat) (s : Dev) : Dev := { s with smf := { s.smf with errs := s.smf.errs.set (a / 8) e } }

/-- The first uncorrectable error is latched (R160). -/
def Dev.latchUe (a mid kind : Nat) (s : Dev) : Dev :=
  if s.flag .SMF_ERR_INFO_VALID then s
  else
    (((((s.setReg .SMF_ERR_ADDR_LOW (bits a 31 0)).setReg .SMF_ERR_ADDR_HIGH (bits a 39 32)).setFld .SMF_ERR_INFO_MID
      mid).setFld .SMF_ERR_INFO_KIND kind).setFlag .SMF_ERR_INFO_VALID true)

/-- An uncorrectable error is met: counted and latched (R160). -/
def Dev.meetUe (a mid kind : Nat) (s : Dev) : Dev := (s.count .SMF_UE_CNT).latchUe a mid kind

/-- An access to a bank that does not serve it (R165). -/
def Dev.bankDeny (s : Dev) : Dev := s.count .SMF_BANK_DENY_CNT

/-- What a read of memory tells its reader. -/
structure RdRes where
  data : List Byte
  ue : Bool
deriving DecidableEq, Repr, Inhabited

/-- Whether a master ID is an engine, a rink lift, a device-level lift, with the rink of the first two (R17). -/
def midRink (mid : Nat) : Option Nat :=
  if mid < 0x40 then some (mid / 8)
  else if 0x48 ≤ mid ∧ mid < 0x68 then some ((mid - 0x48) / 4)
  else none

/-- The master port of a master ID at a bank (R17, R162). -/
def portOf (mid b : Nat) : Option Nat :=
  match midRink mid with
  | some n => some n
  | none =>
    if mid = 0x40 ∨ (0x68 ≤ mid ∧ mid ≤ 0x6F) then some 12
    else if mid = 0x41 then some 13
    else if mid = 0x42 then some 14
    else if mid = 0x70 then some (8 + b % 4)
    else none

/-- The pointer of a bank moves past the port that it granted. -/
def Dev.grantPass (b p : Nat) (s : Dev) : Dev :=
  if 15 ≤ p then s else { s with smf := { s.smf with rr := s.smf.rr.set b ((p + 1) % 15) } }

/-- A bank grants an access of a master among those of a command that names no waiting ports: its pointer moves past the port (R25, R162). -/
def Dev.granted (mid b : Nat) (s : Dev) : Dev :=
  let s := s.grantPass b ((portOf mid b).getD 15)
  { s with smf := { s.smf with crowd := true } }

/-- A read of `n` bytes within one word of shared memory (R160, R165). -/
def Dev.wordRead (mid a n : Nat) (s : Dev) : RdRes × Dev :=
  if !s.bankServes (bankOf a) then (⟨leBytes n 0, false⟩, s.bankDeny)
  else
    let s := s.granted mid (bankOf a)
    match s.errOf a with
    | 0 => (⟨s.bytes a n, false⟩, s)
    | 1 =>
      let s := s.count .SMF_CE_CNT
      (⟨s.bytes a n, false⟩, if s.flag .SMF_CFG_CE_WB then s.setErr a 0 else s)
    | _ => (⟨s.bytes a n, true⟩, s.meetUe a mid 0)

/-- First page and number of pages of tracked range `r` (R455, R468). -/
def Dev.trackRange (s : Dev) (r : Nat) : Nat × Nat :=
  (s.fld .PAR_TRACK_LOW_PA_LO r + s.fld .PAR_TRACK_HIGH_PA_HI r * 2 ^ 20, s.fld .PAR_TRACK_HIGH_PAGES r)

/-- Whether a page is tracked. -/
def Dev.tracked (s : Dev) (pg : Nat) : Bool :=
  (List.range 8).any fun r => (s.trackRange r).1 ≤ pg && pg < (s.trackRange r).1 + (s.trackRange r).2

/-- The bytes that a reader sees: 0 where a bank does not serve it (R165). -/
def Dev.viewBytes (s : Dev) (a n : Nat) : List Byte :=
  if rangeOf a == .shared && !s.bankServes (bankOf a) then leBytes n 0 else s.bytes a n

/-- The number that those bytes make. -/
def Dev.view (s : Dev) (a n : Nat) : Nat := leVal (s.viewBytes a n)

/-- A write to a tracked page sets its dirty bit (R455). -/
def Dev.markDirty (a : Nat) (s : Dev) : Dev :=
  if s.tracked (a / 4096) then { s with smf := { s.smf with dirty := s.smf.dirty.set (a / 4096) true } } else s

/-- A write of bytes within one word of shared memory: of a whole word, or a read-modify-write (R159 to R161, R165). -/
def Dev.wordWrite (mid a : Nat) (l : List Byte) (s : Dev) : Dev :=
  if !s.bankServes (bankOf a) then s.bankDeny
  else
  let s := s.granted mid (bankOf a)
  if l.length = 8 ∧ a % 8 = 0 then ((s.setBytes a l).setErr a 0).markDirty a
  else match s.errOf a with
    | 0 => (s.setBytes a l).markDirty a
    | 1 => (((s.count .SMF_CE_CNT).setBytes a l).setErr a 0).markDirty a
    | _ => s.meetUe a mid 1

/-- The pieces of `n` bytes from `a` that lie within one word each: address and length. `f` bounds the pieces. -/
def wordPieces : Nat → Nat → Nat → List (Nat × Nat)
  | 0, _, _ => []
  | _, _, 0 => []
  | f + 1, a, n => (a, min n (8 - a % 8)) :: wordPieces f (a + min n (8 - a % 8)) (n - min n (8 - a % 8))

/-- A read of bytes of shared memory, word after word. -/
def Dev.sharedRead (mid a n : Nat) (s : Dev) : RdRes × Dev :=
  (wordPieces n a n).foldl (fun (r, s) (p, k) =>
    let (q, s) := s.wordRead mid p k
    (⟨r.data ++ q.data, r.ue || q.ue⟩, s)) (⟨[], false⟩, s)

/-- A write of bytes to shared memory, word after word. -/
def Dev.sharedWrite (mid a : Nat) (l : List Byte) (s : Dev) : Dev :=
  ((wordPieces l.length a l.length).foldl (fun (s, l) (p, k) => (s.wordWrite mid p (l.take k), l.drop k)) (s, l)).1

/-! ### Access by physical address (R32 to R37, R525) -/

/-- The table of R36 for memory; register space is checked where register accesses are made. The windows of the host
(R73) are checked before its requests come here. -/
def mayReach (mid : Nat) : Range → Bool
  | .shared | .unmapped => true
  | .local n _ => midRink mid == some n || (0x68 ≤ mid && mid ≤ 0x6F) || mid == 0x40
  | .sram => mid == 0x40
  | .regs => mid < 0x40 || mid == 0x40 || mid == 0x41

/-- Whether PD_RINKn is on. -/
def Dev.rinkOn (s : Dev) (n : Nat) : Bool := bit (s.reg .PWR_DOM_STAT) n

/-- A read of memory by physical address; register space is served elsewhere and reads 0 here. A read that its master makes in pieces, as a lift does
at the edges of a page, counts in SYS_DECODE_CNT or SYS_DENY_CNT once for each piece (DESIGN CHOICE: log entry 39). -/
def Dev.physRead (mid a n : Nat) (s : Dev) : RdRes × Dev :=
  let r := rangeOf a
  let z : RdRes := ⟨leBytes n 0, false⟩
  if r = .unmapped then (z, s.count .SYS_DECODE_CNT)
  else if !mayReach mid r then (z, s.count .SYS_DENY_CNT)
  else match r with
    | .shared => s.sharedRead mid a n
    | .local k _ => if s.rinkOn k then (⟨s.bytes a n, false⟩, s) else (z, s.count .SYS_DOMAIN_OFF_CNT)
    | .sram => (⟨s.bytes a n, false⟩, s)
    | _ => (z, s)

/-- Reads of runs of memory made for what R160 and R165 count of them; their bytes are those that `view` shows. -/
def Dev.touch (mid : Nat) (l : List (Nat × Nat)) (s : Dev) : Dev := s.each l fun p s => (s.physRead mid p.1 p.2).2

/-- Whether one of several accesses waits for a bank that is leaving retention (R165). -/
def Dev.anyWaits (s : Dev) (l : List (Nat × Nat)) : Bool := l.any fun p => s.bankWaits p.1 p.2

/-- A write to memory by physical address; register space is served elsewhere. -/
def Dev.physWrite (mid a : Nat) (l : List Byte) (s : Dev) : Dev :=
  let r := rangeOf a
  if r = .unmapped then s.count .SYS_DECODE_CNT
  else if !mayReach mid r then s.count .SYS_DENY_CNT
  else match r with
    | .shared => s.sharedWrite mid a l
    | .local k _ => if s.rinkOn k then s.setBytes a l else s.count .SYS_DOMAIN_OFF_CNT
    | .sram => s.setBytes a l
    | _ => s

/-! ### Granted word accesses (R158 to R163) -/

/-- The clocks in which a port waited behind accesses of commands that name no waiting ports are open: they come to light when the counters are read
(R163; DESIGN CHOICE: log entry 11). -/
def Dev.crowdCount (s : Dev) : Dev :=
  if !s.smf.crowd then s
  else
    let s := { s with smf := { s.smf with crowd := false } }
    s.each (List.range 15) fun p s =>
      let (v, s) := s.fresh
      s.countBy v .SMF_CONF_CNT p

/-- One clock in which the ports of the mask wait (R163). -/
def Dev.conflicts (mask : Nat) (s : Dev) : Dev :=
  s.each ((List.range 15).filter (bit mask)) fun p s => s.count .SMF_CONF_CNT p

/-- The bytes of a masked write, as runs of address and bytes within the word. -/
def maskedWrite (mask : Nat) (old new : List Byte) : List Byte :=
  (List.range 8).map fun i => if bit mask i then new.getD i 0#8 else old.getD i 0#8

/-- Errors that have struck a word since it was last written come to light at an access: 0 none, 1 in one bit, 2 in two
bits, 3 in three or more, of which R159 leaves open whether the code reports them, corrects the word to a wrong value or
lets them pass. (DESIGN CHOICE: log entry 9.) -/
def Dev.strike (a n : Nat) (s : Dev) : Dev :=
  if n = 0 then s
  else if n < 3 then s.setErr a (min 2 (max (s.errOf a) n))
  else
    let (x, s) := s.fresh
    (s.setBytes a (leBytes 8 (x / 3))).setErr a (x % 3)

/-- The ports of a mask but for the port that is granted. -/
def othersOf (p m : Nat) : Nat := m - m % 2 ^ (p + 1) + m % 2 ^ p

/-- Whether the round-robin pointer of a bank grants port `p` where the ports of the mask wait too (R25, R162). -/
def Dev.grantTurn (s : Dev) (b p waits : Nat) : Bool :=
  15 ≤ p || ((List.range 15).map fun k => (s.smf.rr.get b + k) % 15).find? (fun q => q == p || bit waits q) == some p

/-- A bank grants one word access, to the port whose turn it is. `upset` is as for `Dev.strike`; `waits` are the ports that wait meanwhile, of which those
of `told` have been counted in the same clock at another bank (R163), `waits2` those that count in the second clock of a read-modify-write or a
write-back. An access to a bank that is leaving retention waits (R165). -/
def Dev.bankGrant (mid w : Nat) (op : BankOp) (upset waits told waits2 : Nat) (s : Dev) : Dev :=
  let a := w * 8
  let p := (portOf mid (bankOf a)).getD 15
  if s.bankWaits a 8 then s
  else if !s.bankServes (bankOf a) then s.bankDeny
  else if !s.grantTurn (bankOf a) p waits then s
  else
    let s := (s.grantPass (bankOf a) p).strike a upset
    let wb := s.errOf a == 1 && s.flag .SMF_CFG_CE_WB
    let s := s.conflicts (othersOf p waits &&& (2 ^ 15 - 1 - told % 2 ^ 15))
    let crowd := s.smf.crowd
    match op with
    | .read =>
      let (r, s) := s.wordRead mid a 8
      let s := { s with smf := { s.smf with rdata := leVal r.data, rerr := r.ue, crowd := crowd } }
      s.when wb fun s => s.conflicts waits2
    | .write m d =>
      if m = 255#8 then
        let s := s.wordWrite mid a (leBytes 8 d.toNat)
        { s with smf := { s.smf with crowd := crowd } }
      else
        let s := s.conflicts waits2
        match s.errOf a with
        | 0 => (s.setBytes a (maskedWrite m.toNat (s.bytes a 8) (leBytes 8 d.toNat))).markDirty a
        | 1 => (((s.count .SMF_CE_CNT).setBytes a (maskedWrite m.toNat (s.bytes a 8) (leBytes 8 d.toNat))).setErr a 0).markDirty a
        | _ => s.meetUe a mid 1

/-! ### Repair (R179, R180, R530) -/

/-- What a March test finds in a bank: the failing cells, as row and bit position. -/
abbrev Fails := List (Nat × Nat)

/-- Rows in which a bit position fails. -/
def failRows (f : Fails) (b : Nat) : Nat := ((f.filter fun c => c.2 == b).map (·.1)).eraseDups.length

/-- Insert a bit position by descending number of failing rows, lower position first among equals. -/
def insCol (f : Fails) (b : Nat) : List Nat → List Nat
  | [] => [b]
  | c :: t => if failRows f b > failRows f c ∨ (failRows f b = failRows f c ∧ b < c) then b :: c :: t else c :: insCol f b t

/-- Bit positions that fail in three or more rows, in the order in which they receive columns (R179). -/
def colOrder (f : Fails) : List Nat :=
  ((List.range 72).filter fun b => failRows f b ≥ 3).foldl (fun l b => insCol f b l) []

/-- The spares that the order of R179 needs: columns and rows. -/
def needed (f : Fails) (freeCols : Nat) : List Nat × List Nat :=
  let cols := (colOrder f).take freeCols
  (cols, ((f.filter fun c => !cols.contains c.2).map (·.1)).eraseDups)

/-- A bank is mapped out (R180). -/
def Dev.mapOut (b : Nat) (s : Dev) : Dev :=
  let s := (((s.setBankState b 0xF).setPart b 0xF).setFlag .GRM_BANK_MAPPED true b).zeroBank b
  s.setFld .SMF_STATUS_WORKING (s.fld .SMF_STATUS_WORKING - 1)

/-- The Groomer repairs a bank after a test, or maps it out: 1 passed, 2 repaired, 4 mapped out (R179, R180, R530). -/
def Dev.repair (b : Nat) (f : Fails) (s : Dev) : Nat × Dev :=
  let (cols, rows) := needed f (2 - s.fld .GRM_BANK_COLS_USED b)
  if f = [] then (1, s)
  else if rows.length > 8 - s.fld .GRM_BANK_ROWS_USED b then (4, s.mapOut b)
  else
    let s := s.setFld .GRM_BANK_ROWS_USED (s.fld .GRM_BANK_ROWS_USED b + rows.length) b
    let s := s.setFld .GRM_BANK_COLS_USED (s.fld .GRM_BANK_COLS_USED b + cols.length) b
    let s := { s with smf := { s.smf with rows := s.smf.rows.upd b (· ++ rows), cols := s.smf.cols.upd b (· ++ cols) } }
    (2, s.countBy (rows.length + cols.length) .GRM_REPAIR_CNT)

end Sys2Proof.Machine
end

