-- ==== Sys2Proof/Machine/SysOps.lean ====
section
/-! DEFINITION. The operating mode (R485, R486), the Degraded condition (R489) and which domains are on (R28). -/

namespace Sys2Proof.Machine

/-- The operating modes, in the order of their codes in SYS_MODE (R500). -/
inductive Mode where
  | start | selfTest | provisioning | standalone | hosted | pairActive | pairStandby | listen | exchange | hold
  | retention | lockdown
deriving DecidableEq, Repr, Inhabited

/-- The code of a mode in SYS_MODE. -/
def Mode.code : Mode → Nat
  | .start => 0
  | .selfTest => 1
  | .provisioning => 2
  | .standalone => 3
  | .hosted => 4
  | .pairActive => 5
  | .pairStandby => 6
  | .listen => 7
  | .exchange => 8
  | .hold => 9
  | .retention => 10
  | .lockdown => 11

/-- PAR_STATUS.STATE codes. -/
def parOff : Nat := 0
def parListen : Nat := 1
def parActive : Nat := 2
def parStandby : Nat := 3

/-- An armed exchange is pending, or a firmware exchange is under way (R485 entry 5). -/
def Dev.exchanging (s : Dev) : Bool :=
  s.flag .SYS_MODE_CTRL_FWX || (List.range 16).any fun t => s.flag .CTL_TASK_CTRL_PENDING t

/-- The first entry of R485 that applies; without entries 4 and 5 where `ret` (SYS_MODE.RETURN). A boot that has ended
without an image leaves no entry but 4, so RETURN then shows Hold. (DEDUCED: log entry 30.) -/
def Dev.modeNow (ret : Bool) (s : Dev) : Mode :=
  if s.sys.lockdown then .lockdown
  else if s.sys.retention then .retention
  else match s.sys.bootMode with
    | .start => .start
    | .selfTest => .selfTest
    | .provisioning => .provisioning
    | .done =>
      if !ret && s.flag .SYS_MODE_CTRL_HOLD then .hold
      else if !ret && s.exchanging then .exchange
      else if s.fld .BOOT_STRAP_BOOT_SEL = 3 then .listen
      else match s.boot.target with
        | 1 => .standalone
        | 2 => .hosted
        | 3 => if s.fld .PAR_STATUS_STATE = parActive then .pairActive else .pairStandby
        | _ => .hold

/-- SYS_MODE follows R485; a change of MODE rings the doorbell of SYS_DB when EV_MODE is 1. -/
def Dev.modeUpdate (s : Dev) : Dev :=
  let old := s.fld .SYS_MODE_MODE
  let s := (s.setFld .SYS_MODE_MODE (s.modeNow false).code).setFld .SYS_MODE_RETURN (s.modeNow true).code
  s.when (s.fld .SYS_MODE_MODE != old && s.flag .SYS_DB_EV_MODE) fun s =>
    s.ringMask (s.fld .SYS_DB_TARGET) (2 ^ s.fld .SYS_DB_BIT)

/-- The mode that SYS_MODE shows. -/
def Dev.inMode (s : Dev) (l : List Mode) : Bool := l.any fun m => m.code == s.fld .SYS_MODE_MODE

/-- A cause of the Degraded condition arises (R489). -/
def Dev.degrade (f : Fld) (s : Dev) : Dev :=
  if s.flag f then s
  else (s.setFlag f true).when (s.flag .SYS_DB_EV_DEG) fun s =>
    s.ringMask (s.fld .SYS_DB_TARGET) (2 ^ s.fld .SYS_DB_BIT)

/-- Whether a domain is on. -/
def Dev.domOn (s : Dev) : Dom → Bool
  | .aon => true
  | .fab => s.sys.fabOn
  | .pat => s.sys.patOn
  | d => bit (s.reg .PWR_DOM_STAT) d.bit

/-- The domain of a block (R21), `n` the number of its page; the LFT page by R30. -/
def Block.dom (b : Block) (n : Nat) : Dom :=
  match b with
  | .SYS | .PWR | .VLT | .TMU => .aon
  | .BOOT | .HST => .hst
  | .SMF | .GRM | .LFT | .MBX | .PAR | .CTL => .fab
  | .PAT => .pat
  | .RNK => .rink n
  | .SLM | .SWC | .MAC => .swc
  | .SDS => .sds
  | .TPHY => .tphy
  | .CAN | .BLD | .PIN => .pio

/-- The domain that a domain needs beside PD_AON (R28). -/
def Dom.needs : Dom → Dom
  | .aon | .fab => .aon
  | .sds | .tphy => .swc
  | _ => .fab

/-- The domains of PWR_DOM_CTRL by bit. -/
def domOfBit : Nat → Dom
  | 8 => .swc
  | 9 => .sds
  | 10 => .tphy
  | 11 => .hst
  | 12 => .pio
  | n => .rink n

/-- Whether rink `n` is in RINK reset. -/
def Dev.inRinkReset (s : Dev) (n : Nat) : Bool := bit s.sys.rinkRst n

/-- The boot output hold (R46) or Listen keeps every transmitter idle. (DEDUCED: log entry 29.) -/
def Dev.txHeld (s : Dev) : Bool := s.sys.bootHold || s.fld .BOOT_STRAP_BOOT_SEL == 3

end Sys2Proof.Machine
end

