-- ==== Sys2Proof/Machine/GrmOps.lean ====
section
/-! DEFINITION. Bank power states (R164, R495), the Groomer's commands and scrubbing (R178 to R186). -/

namespace Sys2Proof.Machine

/-! ### Bank power (R164) -/

/-- The state shown while a bank changes from one state to another, or `none` where R164 lists no such transition.
Requests carry 0 off, 1 on, 2 retention. -/
def bankChange : Nat → Nat → Option Nat
  | 1, 2 => some 3
  | 2, 1 => some 4
  | 1, 0 => some 5
  | 2, 0 => some 5
  | 0, 1 => some 6
  | _, _ => none

/-- A request for a bank's state (R164). -/
def Dev.bankRequest (b st : Nat) (s : Dev) : Dev :=
  match bankChange (s.bankState b) st with
  | some c => s.setBankState b c
  | none => s.count .PWR_REFUSE_CNT

/-- A bank completes its change of state (R164). -/
def Dev.bankDone (b : Nat) (s : Dev) : Dev :=
  match s.bankState b with
  | 3 => s.setBankState b 2
  | 4 => s.setBankState b 1
  | 5 => (s.zeroBank b).setBankState b 0
  | 6 => (s.zeroBank b).setBankState b 1
  | _ => s

/-! ### Commands (R181 to R185) -/

/-- A write of GRM_CMD starts a test, or is refused (R181). -/
def Dev.grmCmd (v : Nat) (s : Dev) : Dev :=
  let s := s.plain .GRM_CMD v
  let b := bits v 7 0
  let test := bits v 9 8
  if test = 0 ∨ test = 3 then s
  else if s.flag .GRM_STATUS_BUSY ∨ s.bankState b ≠ 1 ∨ (test = 1 ∧ s.partOf b ≠ 7) then s.count .GRM_REFUSE_CNT
  else
    let s := ((s.setFlag .GRM_STATUS_BUSY true).setFld .GRM_STATUS_BANK b).setFld .GRM_STATUS_ROW 0
    let s := s.setBankState b 7
    { s with grm := if test = 1 then .destructive else .preserving 0 false false }

/-- One row of a preserving test is parked, tested and restored (R183, R184): contents are kept. `waits`: the ports that wait at the
bank, for each clock in which some wait while it holds the row lock (R163). (DESIGN CHOICE: log entry 11.) -/
def Dev.grmRow (fails : Bool) (waits : List Nat) (s : Dev) : Dev :=
  match s.grm with
  | .preserving done rep unrep =>
    if 1024 ≤ done then s
    else
      let b := s.fld .GRM_STATUS_BANK
      let s := s.each waits fun m s => s.conflicts (othersOf 14 m)
      let s := s.setFld .GRM_STATUS_ROW done
      if !fails then { s with grm := .preserving (done + 1) rep unrep }
      else if s.fld .GRM_BANK_ROWS_USED b < 8 then
        let s := (s.setFld .GRM_BANK_ROWS_USED (s.fld .GRM_BANK_ROWS_USED b + 1) b).count .GRM_REPAIR_CNT
        { s with grm := .preserving (done + 1) true unrep, smf := { s.smf with rows := s.smf.rows.upd b (· ++ [done]) } }
      else { s.setFlag .GRM_BANK_UNREPAIRED true b with grm := .preserving (done + 1) rep true }
  | _ => s

/-- A command ends with a result (R185). -/
def Dev.grmEnd (res : Nat) (s : Dev) : Dev :=
  let s := { (s.setFld .GRM_STATUS_RESULT res).setFlag .GRM_STATUS_BUSY false with grm := .none }
  s.when (s.flag .GRM_DB_CFG_EN) fun s => s.ringMask (s.fld .GRM_DB_CFG_TARGET) (2 ^ s.fld .GRM_DB_CFG_BIT)

/-- The command that runs ends: a destructive test with the cells it found failing, a preserving test after row 1,023
(R182 to R185). -/
def Dev.grmDone (f : Fails) (s : Dev) : Dev :=
  let b := s.fld .GRM_STATUS_BANK
  match s.grm with
  | .none => s
  | .destructive =>
    let (res, s) := s.repair b f
    if res = 4 then (s.degrade .SYS_DEGRADED_BANK).grmEnd res
    else ((s.zeroBank b).setBankState b 1).grmEnd res
  | .preserving done rep unrep =>
    if done < 1024 then s
    else (s.setBankState b 1).grmEnd (if unrep then 3 else if rep then 2 else 1)

/-! ### Scrubbing (R186) -/

/-- The next bank that is on after `b`, and whether the position wraps to reach it. -/
def Dev.nextOn (s : Dev) (b : Nat) : Option (Nat × Bool) :=
  match (List.range 256).find? fun k => b < k && s.bankState k == 1 with
  | some k => some (k, false)
  | none => ((List.range 256).find? fun k => s.bankState k == 1).map fun k => (k, true)

/-- The scrub position moves to the next bank that is on; a wrap ends a pass. -/
def Dev.scrubBank (s : Dev) : Dev :=
  match s.nextOn (s.fld .GRM_SCRUB_POS_BANK) with
  | none => s
  | some (k, wrap) =>
    let s := (s.setFld .GRM_SCRUB_POS_BANK k).setFld .GRM_SCRUB_POS_WORD 0
    if wrap then s.count .GRM_PASS_CNT else s

/-- One scrub read; `upset` and the waiting ports as for `Dev.bankGrant`. (DESIGN CHOICE: log entry 11.) -/
def Dev.scrubRead (upset waits told waits2 : Nat) (s : Dev) : Dev :=
  if !s.flag .GRM_SCRUB_CFG_EN || s.flag .GRM_STATUS_BUSY || (s.nextOn 256).isNone then s
  else
    let s := if s.bankState (s.fld .GRM_SCRUB_POS_BANK) = 1 then s else s.scrubBank
    let w := s.fld .GRM_SCRUB_POS_WORD
    let b := s.fld .GRM_SCRUB_POS_BANK
    let a := b * 0x80000 + w * 8
    if !s.grantTurn b 14 waits then s
    else
    let s := ((s.grantPass b 14).strike a upset).conflicts (othersOf 14 waits &&& (2 ^ 15 - 1 - told % 2 ^ 15))
    let s :=
      match s.errOf a with
      | 0 => s
      | 1 => (((s.count .SMF_CE_CNT).count .GRM_SCRUB_CE_CNT).setErr a 0).conflicts waits2
      | _ => (s.meetUe a 0x42 2).count .GRM_SCRUB_UE_CNT
    if w = 65535 then s.scrubBank else s.setFld .GRM_SCRUB_POS_WORD (w + 1)

/-- A write to the GRM page. -/
def Dev.grmWrite (r : Reg) (i v : Nat) (s : Dev) : Dev :=
  match r with
  | .GRM_CMD => s.grmCmd v
  | r => s.plain r v i

/-- A read of the SMF page. (DESIGN CHOICE: log entry 11.) -/
def Dev.smfRead (r : Reg) (i : Nat) (active : Bool) (s : Dev) : Nat × Dev :=
  match r with
  | .SMF_JOBROUTE => (putBit (s.reg r i) 4 active, s)
  | .SMF_CONF_CNT =>
    let s := s.crowdCount
    (s.reg r i, s)
  | r => (s.reg r i, s)

end Sys2Proof.Machine
end

