-- ==== Sys2Proof/Machine/TmuOps.lean ====
section
/-! DEFINITION. Time bases, servos, time-stamps and time pins (R276 to R299). -/

namespace Sys2Proof.Machine

/-- One whole nanosecond of a count. -/
def nsUnit : Nat := 2 ^ 28

/-- Counts wrap at 2^60 (R276). -/
def tbMod : Nat := 2 ^ 60

/-- Islands that hold a copy of every time base (R282). -/
def islSwitch : Nat := 8
def islBlades : Nat := 9
def islCan : Nat := 10

/-- The count of a time base. -/
def Dev.tbVal (s : Dev) (n : Nat) : Nat := s.tmu.tb.get n

/-- The 40-bit value {NS, FRAC} of a count, in 2^-8 ns. -/
def tb40 (v : Nat) : Nat := v / 2 ^ 20

/-- How far a time base moves between two counts, in 2^-8 ns: forward or backward by less than half of its range. -/
def tbMoved (a b : Nat) : Int := signed 40 (tb40 b + 2 ^ 40 - tb40 a % 2 ^ 40)

/-- The time outputs on time base `n` come nearer to their targets by `d` (R297). -/
def Dev.outMove (n : Nat) (d : Int) (s : Dev) : Dev :=
  s.each (List.range 4) fun j s =>
    if !s.flag .TMU_OUT_CFG_EN j || s.fld .TMU_OUT_CFG_TB j != n then s
    else { s with tmu := { s.tmu with outs := s.tmu.outs.upd j fun o => { o with next := o.next - d, fall := o.fall - d } } }

/-- The device with the count of a time base replaced. -/
def Dev.setTb (n v : Nat) (s : Dev) : Dev :=
  ({ s with tmu := { s.tmu with tb := s.tmu.tb.set n (v % tbMod) } }).outMove n (tbMoved (s.tbVal n) (v % tbMod))

/-- NS of a count. -/
def tbNs (v : Nat) : Nat := v / nsUnit

/-- FRAC of a count. -/
def tbFrac (v : Nat) : Nat := bits v 27 20

/-- The count that a copy shows. -/
def Dev.copyVal (s : Dev) (isl n : Nat) : Nat :=
  match s.tmu.copies.get (isl * 4 + n) with
  | c :: _ => c.v
  | [] => s.tbVal n

/-- The increment at which a copy runs. -/
def Dev.copyIncr (s : Dev) (isl n : Nat) : Nat :=
  match s.tmu.copies.get (isl * 4 + n) with
  | c :: _ => c.incr
  | [] => s.reg .TMU_TB_INCR n

/-- A set, step or change of INCR of time base `n` has not reached the copies: for each a clock goes on from `v` as it was (R283). -/
def Dev.copiesLag (n v incr : Nat) (slm : Bool) (s : Dev) : Dev :=
  { s with tmu := { s.tmu with copies := (List.range 11).foldl (fun t i => t.upd (i * 4 + n) (· ++ [⟨v, incr, slm⟩])) s.tmu.copies } }

/-- Distance from `a` forward to `b` modulo 2^40. -/
def sub40 (b a : Nat) : Nat := (b + 2 ^ 40 - a % 2 ^ 40) % 2 ^ 40

/-- The oldest change on its way reaches a copy after the crossing (TB_COPY_UPDATE, R283); the SLM notes its own alignment (R317). -/
def Dev.copyUpdate (isl n : Nat) (s : Dev) : Dev :=
  match s.tmu.copies.get (isl * 4 + n) with
  | [] => s
  | c :: rest =>
    let s := { s with tmu := { s.tmu with copies := s.tmu.copies.set (isl * 4 + n) rest } }
    if isl ≠ islSwitch then s
    else
      let jump := (s.copyVal isl n + tbMod - c.v % tbMod) % tbMod
      let s := { s with tmu := { s.tmu with past := s.tmu.past.upd n ((⟨0, jump, c.incr⟩ : PastTime) :: ·) } }
      if c.slm then { s with slm := { s.slm with corr := s.slm.corr.map fun (d, _) => (d, some 0) } } else s

/-- TMU ticks for which a change of a copy is kept: longer than the 2^24 ns by which a reference point can lie back. -/
def pastTicks : Nat := 2 ^ 23

/-- One tick of the records of changes that the switch island copy of a time base has received, the SLM's alignment among them. -/
def Dev.pastTick (n : Nat) (s : Dev) : Dev :=
  let s := { s with tmu := { s.tmu with
    past := s.tmu.past.upd n fun l => (l.filter fun p => p.ticks < pastTicks).map fun p => { p with ticks := p.ticks + 1 } } }
  if s.fld .SLM_CFG_TB = n then
    { s with slm := { s.slm with corr := s.slm.corr.map fun (d, k) => (d, k.map fun k => min pastTicks (k + 1)) } }
  else s

/-- Whether an instant `ago` × 2^-8 ns ago lies before `k` ticks of 2 ns ago. -/
def beforeTicks (ago k : Nat) : Bool := k * 512 < ago

/-- Whether an instant `t` lies in the past or is now, both 32-bit nanoseconds (R149). -/
def reached (t now : Nat) : Bool := sub32 t now == 0 || 2 ^ 31 ≤ sub32 t now

/-- Whether an instant lies in the past (R260). -/
def inPast (t now : Nat) : Bool := 2 ^ 31 ≤ sub32 t now

/-- The doorbell of TMU_TB_DB for an event that is enabled (R280). -/
def Dev.tbBell (n : Nat) (f : Fld) (s : Dev) : Dev :=
  s.when (s.flag f n) fun s => s.ringMask (s.fld .TMU_TB_DB_TARGET n) (2 ^ s.fld .TMU_TB_DB_BIT n)

/-- Time base `n` advances by INCR; a carry out of NS raises WRAP (R276, R280). -/
def Dev.tbAdvance (n : Nat) (s : Dev) : Dev :=
  let v := s.tbVal n + s.reg .TMU_TB_INCR n
  (s.setTb n v).when (tbMod ≤ v) fun s =>
    let s := if s.sys.retention ∧ s.fld .PWR_SLEEP_WAKE_TB = n then
      { s with sys := { s.sys with wraps := s.sys.wraps + 1 } } else s
    s.tbBell n .TMU_TB_DB_EV_WRAP

/-! ### Time outputs (R297, R298) -/

/-- PER of output `j` with its fraction, in 2^-8 ns. -/
def Dev.outPer (s : Dev) (j : Nat) : Nat := s.reg .TMU_OUT_PER j * 256 + s.fld .TMU_OUT_PERF_FRAC j

/-- The device with a time output changed. -/
def Dev.updOut (j : Nat) (f : OutSt → OutSt) (s : Dev) : Dev := { s with tmu := { s.tmu with outs := s.tmu.outs.upd j f } }

/-- A forward step of time base `n` by `d`, made beside its advance, skips the edges whose targets it passes (R297); behind an edge that was due
already, and has yet to leave, it skips those that follow. -/
def Dev.outSkip (n : Nat) (d : Int) (s : Dev) : Dev :=
  s.each (List.range 4) fun j s =>
    let o := s.tmu.outs.get j
    let per := max 1 (s.outPer j)
    let due := o.next + d ≤ 0
    let t : Int := if due then o.next + (1 + o.skips) * per else o.next
    if !s.flag .TMU_OUT_CFG_EN j || s.fld .TMU_OUT_CFG_TB j != n || !(t < 0 && 0 < t + d) then s
    else
      let c := ((-t).toNat + per - 1) / per
      (s.updOut j fun o => if due then { o with skips := o.skips + c } else { o with k := o.k + c, next := o.next + c * per }).countBy c
        .TMU_OUT_SKIP_CNT j

/-- EN of an output is set: the first edge is the first target that is not in the past (R297). -/
def Dev.outStart (j : Nat) (s : Dev) : Dev :=
  let d : Int := signed 40 (s.reg .TMU_OUT_START j * 256 + 2 ^ 40 - tb40 (s.tbVal (s.fld .TMU_OUT_CFG_TB j)))
  let per := max 1 (s.outPer j)
  let k := if 0 ≤ d then 0 else ((-d).toNat + per - 1) / per
  s.updOut j fun _ => ⟨k, false, d + k * per, 0, 0⟩

/-- An edge of output `j` leaves once its target is reached (R297). -/
def Dev.outEdge (j : Nat) (s : Dev) : Dev :=
  let o := s.tmu.outs.get j
  if !s.flag .TMU_OUT_CFG_EN j then s
  else if o.pulse then
    if o.fall ≤ 0 then s.updOut j fun o => { o with pulse := false } else s
  else if o.next ≤ 0 then
    s.updOut j fun o => ⟨o.k + 1 + o.skips, true, o.next + (1 + o.skips) * s.outPer j, o.next + s.reg .TMU_OUT_HIGH j * 256, 0⟩
  else s

/-- The level of pin TP_OUTj: the pulse train behind the boot output hold (R298). -/
def Dev.outLevel (s : Dev) (j : Nat) : Bool :=
  if s.txHeld then false
  else if s.flag .TMU_OUT_CFG_EN j then (s.tmu.outs.get j).pulse != s.flag .TMU_OUT_CFG_POL j
  else s.flag .TMU_OUT_CFG_POL j

/-! ### Adjustments and servos (R279, R285, R286) -/

/-- SRV_STAT.STATE codes. -/
def srvFree : Nat := 0
def srvAcq : Nat := 1
def srvLocked : Nat := 2
def srvHold : Nat := 3

/-- The servo state and good count. -/
def Dev.setSrv (n st good : Nat) (s : Dev) : Dev := (s.setFld .TMU_SRV_STAT_STATE st n).setFld .TMU_SRV_STAT_GOOD good n

/-- The hold timer of a servo starts anew (R529). -/
def Dev.holdStart (n : Nat) (s : Dev) : Dev := { s with tmu := { s.tmu with hold := s.tmu.hold.set n 0 } }

/-- A set or step counts in the servo's table (R286); a LOCKED servo enters ACQUIRING, from where the hold timer measures (R529). -/
def Dev.srvStep (n : Nat) (s : Dev) : Dev :=
  let st := s.fld .TMU_SRV_STAT_STATE n
  if st = srvAcq then s.setSrv n srvAcq 0
  else if st = srvLocked then (s.setSrv n srvAcq 0).holdStart n
  else s

/-- What every set and step does beside the count (R279, R283); `slm`: it is the SLM's alignment. -/
def Dev.adjusted (n v0 : Nat) (v : Nat) (slm : Bool) (s : Dev) : Dev :=
  let incr := s.reg .TMU_TB_INCR n
  let s := (s.copiesLag n v0 incr slm).setTb n v
  let s := s.outSkip n (tbMoved ((v0 + incr) % tbMod) (v % tbMod))
  ((s.count .TMU_STEP_CNT n).srvStep n).tbBell n .TMU_TB_DB_EV_STEP

/-- The LOCKED, ACQUIRING and HOLDOVER rows of R286 for an accepted sample, at which the hold timer starts anew (R529). -/
def Dev.srvAccept (n : Nat) (good : Bool) (s : Dev) : Dev :=
  let s := s.holdStart n
  let st := s.fld .TMU_SRV_STAT_STATE n
  let g := s.fld .TMU_SRV_STAT_GOOD n
  if st = srvAcq then
    if !good then s.setSrv n srvAcq 0
    else if g < 7 then s.setSrv n srvAcq (g + 1)
    else (s.setSrv n srvLocked 8).tbBell n .TMU_TB_DB_EV_LOCK
  else if st = srvLocked then (if good then s else s.setSrv n srvAcq 0)
  else if st = srvHold then s.setSrv n srvAcq (b2n good)
  else s

/-- Limit to ±lim. -/
def clampI (x lim : Int) : Int := max (-lim) (min lim x)

/-- INCR becomes a new value; the copies follow after the crossing (R283). `v0`: the count before the advance of the tick that runs. -/
def Dev.setIncr (n : Nat) (i : Int) (v0 : Nat) (s : Dev) : Dev :=
  let old := s.reg .TMU_TB_INCR n
  let new := unsign 32 i
  if new = old then s else (s.copiesLag n v0 old false).setReg .TMU_TB_INCR new n

/-- The count of a time base before the advance of the tick that runs, which an adjustment may have made already. -/
def Dev.tbBefore (s : Dev) (n : Nat) : Nat :=
  if s.tmu.adv.get n then (s.tbVal n + tbMod - s.reg .TMU_TB_INCR n % tbMod) % tbMod else s.tbVal n

/-- The servo handles a sample (R285); the tick's own advance is made here. -/
def Dev.srvSample (n src : Nat) (th : Int) (s : Dev) : Dev :=
  let v0 := s.tbVal n
  let s := s.count .TMU_SAMPLE_CNT n
  let thr : Int := s.fld .TMU_SRV_THR_STEP_THR n * 256000
  let a : Int := if th < 0 then -th else th
  if src ≠ 4 ∧ thr < a then
    if s.flag .TMU_SRV_CFG_STEP_EN n then
      let v : Int := v0 + s.reg .TMU_TB_INCR n - th * 2 ^ 20
      let s := (s.setReg .TMU_SRV_LAST (unsign 32 th) n).adjusted n v0 (unsign 60 v) false
      s.srvAccept n false
    else (s.count .TMU_OUTLIER_CNT n).tbAdvance n
  else
    let lim : Int := s.fld .TMU_SRV_LIM_LIM n
    let p : Int := if src = 4 then 0 else (th * s.fld .TMU_SRV_KP_M n) / 2 ^ s.fld .TMU_SRV_KP_S n
    let raw : Int := signed 32 (s.reg .TMU_SRV_INTEG n) + (th * s.fld .TMU_SRV_KI_M n) / 2 ^ s.fld .TMU_SRV_KI_S n
    let integ := clampI raw lim
    let adj := clampI (-(p + integ)) lim
    let s := s.when (integ != raw || adj != -(p + integ)) fun s => s.count .TMU_CLAMP_CNT n
    let s := (s.setReg .TMU_SRV_LAST (unsign 32 th) n).setReg .TMU_SRV_INTEG (unsign 32 integ) n
    let s := s.tbAdvance n
    let s := s.setIncr n (s.reg .TMU_TB_NOM n + adj) v0
    s.srvAccept n (a ≤ s.fld .TMU_SRV_THR_LOCK_THR n * 256)

/-- Whether the settings take a sample of a source (R284); source 0 gives none. -/
def Dev.srvTakes (s : Dev) (n src : Nat) : Bool := src != 0 && s.flag .TMU_SRV_CFG_EN n && s.fld .TMU_SRV_CFG_SRC n == src

/-- An adjustment or sample takes effect in the current tick. -/
def Dev.adjApply (n : Nat) (a : Adj) (s : Dev) : Dev :=
  let v0 := s.tbVal n
  let done (s : Dev) : Dev := { s with tmu := { s.tmu with adv := s.tmu.adv.set n true } }
  match a with
  | .set ns frac => done (s.adjusted n v0 (ns * nsUnit + frac * 2 ^ 20) false)
  | .step ns frac => done (s.adjusted n v0 (v0 + s.reg .TMU_TB_INCR n + ns * nsUnit + frac * 2 ^ 20) false)
  | .align ns frac => done (s.adjusted n v0 (v0 + s.reg .TMU_TB_INCR n + ns * nsUnit + frac * 2 ^ 20) true)
  | .sample src th =>
    if s.srvTakes n src then done (s.srvSample n src th)
    else if src = 1 then s.count .TMU_OFS_REFUSE_CNT n
    else s

/-- An adjustment or sample reaches the TMU: the first of a tick takes effect in it, a further one in the next (R279). -/
def Dev.adjust (n : Nat) (a : Adj) (s : Dev) : Dev :=
  if s.tmu.adv.get n then { s with tmu := { s.tmu with defer := s.tmu.defer ++ [(n, a)] } } else s.adjApply n a

/-- The first deferred adjustment of a time base, and the others. -/
def takeDefer (n : Nat) : List (Nat × Adj) → Option (Adj × List (Nat × Adj))
  | [] => none
  | (m, a) :: t => if m = n then some (a, t) else
    match takeDefer n t with
    | some (b, r) => some (b, (m, a) :: r)
    | none => none

/-- TMU ticks of 2 ns in a millisecond (R472, R276). -/
def ticksPerMs : Nat := 500000

/-- The servo enters HOLDOVER once no sample has been accepted for HOLD_MS (R286, R529). -/
def Dev.holdTimeout (n : Nat) (s : Dev) : Dev :=
  let st := s.fld .TMU_SRV_STAT_STATE n
  if (st = srvAcq ∨ st = srvLocked) ∧ s.fld .TMU_SRV_CFG_HOLD_MS n * ticksPerMs ≤ s.tmu.hold.get n then
    let lim : Int := s.fld .TMU_SRV_LIM_LIM n
    let adj := clampI (-(signed 32 (s.reg .TMU_SRV_INTEG n))) lim
    (s.setFld .TMU_SRV_STAT_STATE srvHold n).setIncr n (s.reg .TMU_TB_NOM n + adj) (s.tbBefore n)
  else s

/-- One tick of the hold timer of an ACQUIRING or LOCKED servo, compared with HOLD_MS (R529). -/
def Dev.holdTick (n : Nat) (s : Dev) : Dev :=
  let st := s.fld .TMU_SRV_STAT_STATE n
  if st = srvAcq ∨ st = srvLocked then ({ s with tmu := { s.tmu with hold := s.tmu.hold.upd n (· + 1) } }).holdTimeout n else s

/-- One tick of a clock that a copy shows or will show. -/
def TimeCopy.tick (c : TimeCopy) : TimeCopy := { c with v := (c.v + c.incr) % tbMod }

/-- One tick of time base `n`, of its copies that lag, of its servo's hold timer, and what the tick before deferred. -/
def Dev.tbTick (n : Nat) (s : Dev) : Dev :=
  let s := if s.tmu.adv.get n then { s with tmu := { s.tmu with adv := s.tmu.adv.set n false } } else s.tbAdvance n
  let s := { s with tmu := { s.tmu with
    copies := (List.range 11).foldl (fun t i => t.upd (i * 4 + n) (List.map TimeCopy.tick)) s.tmu.copies } }
  let s := (s.pastTick n).holdTick n
  match takeDefer n s.tmu.defer with
  | some (a, r) => ({ s with tmu := { s.tmu with defer := r } }).adjApply n a
  | none => s

/-- The FREE rows of R286 after a write of TMU_SRV_CFG. -/
def Dev.srvSettings (n : Nat) (s : Dev) : Dev :=
  let on := s.flag .TMU_SRV_CFG_EN n && s.fld .TMU_SRV_CFG_SRC n != 0
  let free := s.fld .TMU_SRV_STAT_STATE n == srvFree
  if on && free then ((s.setSrv n srvAcq 0).setReg .TMU_SRV_INTEG 0 n).holdStart n
  else if !on && !free then
    ((s.setFld .TMU_SRV_STAT_STATE srvFree n).setReg .TMU_SRV_INTEG 0 n).setIncr n (s.reg .TMU_TB_NOM n) (s.tbBefore n)
  else s

/-! ### Queues and pins (R290, R291, R296, R299) -/

/-- LEVEL shows the entries of a transmit queue (R300). -/
def Dev.setTxts (n : Nat) (l : List TxtsE) (s : Dev) : Dev :=
  ({ s with tmu := { s.tmu with txts := s.tmu.txts.set n l } }).setFld .TMU_TXTS_CFG_LEVEL l.length n

/-- An entry joins the transmit queue of MAC `n` (R290, R291). -/
def Dev.txtsAdd (n : Nat) (e : TxtsE) (s : Dev) : Dev :=
  let l := s.tmu.txts.get n
  if 64 ≤ l.length then s.count .TMU_TXTS_OVF_CNT n
  else (s.setTxts n (l ++ [e])).when (s.flag .TMU_TXTS_CFG_DB_EN n) fun s =>
    s.ringMask (s.fld .TMU_TXTS_CFG_TARGET n) (2 ^ s.fld .TMU_TXTS_CFG_BIT n)

/-- The high word of a transmit entry. -/
def TxtsE.high (e : TxtsE) : Nat := e.id + e.frac * 2 ^ 16 + e.tb * 2 ^ 24 + b2n e.notSent * 2 ^ 26 + 2 ^ 31

/-- The high word of a capture. -/
def EvtE.high (e : EvtE) : Nat := e.frac + b2n e.rise * 256 + 2 ^ 31

/-- A read of the low word of TMU_TXTS: the oldest entry leaves; its NS, and its high word for the latch. -/
def Dev.txtsPop (n : Nat) (s : Dev) : Nat × Nat × Dev :=
  match s.tmu.txts.get n with
  | [] => (0, 0, s)
  | e :: t => (e.ns, e.high, s.setTxts n t)

/-- A read of the low word of TMU_EVT (R296). -/
def Dev.evtPop (k : Nat) (s : Dev) : Nat × Nat × Dev :=
  match s.tmu.evt.get k with
  | [] => (0, 0, s)
  | e :: t => (e.ns, e.high, { s with tmu := { s.tmu with evt := s.tmu.evt.set k t } })

/-- The offset that a measured difference gives: a signed 32-bit value (R284). For a difference outside it the manual states
none (DESIGN CHOICE, log entry 9). -/
def Dev.theta (d : Int) (s : Dev) : Int × Dev :=
  if -(2 ^ 31) ≤ d ∧ d < 2 ^ 31 then (d, s)
  else
    let (x, s) := s.fresh
    (signed 32 x, s)

/-- PPS samples of an edge captured on input `k` (R284). -/
def Dev.ppsSamples (k : Nat) (s : Dev) : Dev :=
  s.each (List.range 4) fun n s =>
    if s.flag .TMU_SRV_CFG_EN n && s.fld .TMU_SRV_CFG_SRC n == 3 && s.fld .TMU_SRV_CFG_PPS_IN n == k then
      let d := sub40 (tb40 (s.tbVal n)) (s.reg .TMU_TB_PPSEXP n * 256)
      let s := s.setReg .TMU_TB_PPSEXP ((s.reg .TMU_TB_PPSEXP n + s.reg .TMU_TB_PPSPER n) % 2 ^ 32) n
      let (th, s) := s.theta (signed 40 d)
      s.adjust n (.sample 3 th)
    else s

/-- An edge on time input `k` with a pulse of `width` ticks (R296). -/
def Dev.inputEdge (k : Nat) (rise : Bool) (width : Nat) (s : Dev) : Dev :=
  let sel := s.fld .TMU_EVT_CFG_EDGE k
  if width < s.fld .TMU_EVT_CFG_MINW k ∨ !(if rise then bit sel 0 else bit sel 1) then s
  else
    let v := s.tbVal (s.fld .TMU_EVT_CFG_TB k)
    let l := s.tmu.evt.get k
    let s :=
      if 8 ≤ l.length then s.count .TMU_EVT_OVF_CNT k
      else
        ({ s with tmu := { s.tmu with evt := s.tmu.evt.set k (l ++ [(⟨tbNs v, tbFrac v, rise⟩ : EvtE)]) } }).when
          (s.flag .TMU_EVT_CFG_DB_EN k) fun s =>
            s.ringMask (s.fld .TMU_EVT_CFG_TARGET k) (2 ^ s.fld .TMU_EVT_CFG_BIT k)
    s.ppsSamples k

/-- The next window of TP_REF10 starts (R299). -/
def Dev.refWindow (s : Dev) : Dev :=
  { s with tmu := { s.tmu with refStart := (List.range 4).foldl (fun t n => t.set n (s.tbVal n)) s.tmu.refStart, refRuns := true } }

/-- TMU ticks of a period of TP_REF10 at 10 MHz. -/
def ref10Period : Nat := 50

/-- One tick towards the edge that starts the next window. -/
def Dev.refTick (s : Dev) : Dev :=
  match s.tmu.refWait with
  | 0 => s
  | 1 => ({ s with tmu := { s.tmu with refWait := 0 } }).refWindow
  | k + 1 => { s with tmu := { s.tmu with refWait := k } }

/-- A window of TP_REF10 ends; the next starts with the next edge, a period later, which the model takes as 100 ns (R284, R299; DESIGN CHOICE,
log entry 25). -/
def Dev.refEnd (s : Dev) : Dev :=
  if !s.tmu.refRuns || !s.flag .TMU_STATUS_REF10_PRESENT then s
  else
    let sample (n : Nat) (s : Dev) : Dev :=
      if s.fld .TMU_SRV_CFG_SRC n = 4 then
        let d := sub40 (tb40 (s.tbVal n)) (tb40 (s.tmu.refStart.get n))
        let (th, s) := s.theta (d - 100000000 * 256)
        (s.setReg .TMU_REF10_ERR (unsign 32 th)).adjust n (.sample 4 th)
      else s
    let s := s.each (List.range 4) sample
    { s with tmu := { s.tmu with refRuns := false, refWait := ref10Period } }

/-- Edges on TP_REF10 start or stop arriving at 10 MHz ± 1 % (R299). -/
def Dev.refPresence (on : Bool) (s : Dev) : Dev :=
  let s := s.setFlag .TMU_STATUS_REF10_PRESENT on
  if on then s.refWindow else { s with tmu := { s.tmu with refRuns := false, refWait := 0 } }

/-! ### Stamps (R287) -/

/-- A signed 16-bit latency in 2^-4 ns as 2^-8 ns modulo 2^40. -/
def latency (x : Nat) : Nat := unsign 40 (signed 16 x * 16)

/-- How far a copy has moved since an instant `ago` × 2^-8 ns ago, of which `done` are accounted for, in 1 ÷ 512 of a count: it has run at `incr` per
2 ns since the last change, and at each change jumped and run at another increment before (R283). -/
def movedSince (ago : Nat) : Nat → Nat → List PastTime → Nat
  | incr, done, [] => (ago - done) * incr
  | incr, done, p :: t =>
    if beforeTicks ago p.ticks then (p.ticks * 512 - done) * incr + p.jump * 512 + movedSince ago p.incr (p.ticks * 512) t
    else (ago - done) * incr

/-- The value of the switch island copy of a time base `ago` × 2^-8 ns ago, in 2^-8 ns (R283, R287). -/
def Dev.copyThen (s : Dev) (tb ago : Nat) : Nat :=
  let m := tbMod * 512
  (s.copyVal islSwitch tb * 512 + m - movedSince ago (s.copyIncr islSwitch tb) 0 (s.tmu.past.get tb) % m) % m / 2 ^ 29

/-- The ingress stamp of MAC `n` for a frame whose reference point passed `ago` × 2^-8 ns ago: the switch island copy of its time base then, minus
ING_LAT (R213, R287). -/
def Dev.ingressStamp (s : Dev) (n ago : Nat) : Nat :=
  sub40 (s.copyThen (s.fld .MAC_CFG_TB n) ago) (latency (s.fld .TMU_PORT_LAT_ING_LAT n))

/-- The egress stamp of MAC `n` now: the switch island copy of its time base plus EGR_LAT. -/
def Dev.egressStamp (s : Dev) (n : Nat) : Nat :=
  (tb40 (s.copyVal islSwitch (s.fld .MAC_CFG_TB n)) + latency (s.fld .TMU_PORT_LAT_EGR_LAT n)) % 2 ^ 40

/-! ### Register accesses -/

/-- A read of a TMU register. -/
def Dev.tmuRead (r : Reg) (i : Nat) (s : Dev) : Nat × Dev :=
  match r with
  | .TMU_TB_LOW => (tbNs (s.tbVal i), s)
  | .TMU_TB_HIGH => (tbFrac (s.tbVal i), s)
  | .TMU_EVT_HIGH => (((s.tmu.evt.get i).head?.map EvtE.high).getD 0, s)
  | .TMU_TXTS_HIGH => (((s.tmu.txts.get i).head?.map TxtsE.high).getD 0, s)
  | r => (s.reg r i, s)

/-- A write to a TMU register beside the pairs. -/
def Dev.tmuWrite (r : Reg) (i v : Nat) (s : Dev) : Dev :=
  match r with
  | .TMU_TB_OFS =>
    if s.srvTakes i 1 then s.adjust i (.sample 1 (signed 32 v)) else s.count .TMU_OFS_REFUSE_CNT i
  | .TMU_SRV_CFG =>
    let on := s.flag .TMU_SRV_CFG_EN i
    let old := s.reg .TMU_SRV_CFG i
    let ill (fi : FieldInfo) : Bool :=
      on && (fi.is .TMU_SRV_CFG_SRC || fi.is .TMU_SRV_CFG_PPS_IN) && bits v fi.hi fi.lo != bits old fi.hi fi.lo
    (s.plainIf ill r v i).srvSettings i
  | .TMU_TB_NOM =>
    let adj : Int := s.reg .TMU_TB_INCR i - s.reg .TMU_TB_NOM i
    let s := s.plain r v i
    s.setIncr i (s.reg .TMU_TB_NOM i + adj) (s.tbBefore i)
  | .TMU_OUT_START | .TMU_OUT_PER | .TMU_OUT_PERF | .TMU_OUT_HIGH =>
    if s.flag .TMU_OUT_CFG_EN i then s.misuse .TMU else s.plain r v i
  | .TMU_OUT_CFG =>
    let on := s.flag .TMU_OUT_CFG_EN i
    let bad := s.reg .TMU_OUT_PER i < 8 || s.reg .TMU_OUT_HIGH i == 0 || s.reg .TMU_OUT_PER i ≤ s.reg .TMU_OUT_HIGH i
    let ill (fi : FieldInfo) : Bool :=
      (on && fi.is .TMU_OUT_CFG_TB) || (fi.is .TMU_OUT_CFG_EN && bit v 0 && bad)
    let s := s.plainIf ill r v i
    if !on && s.flag .TMU_OUT_CFG_EN i then s.outStart i else s
  | r => s.plain r v i

end Sys2Proof.Machine
end

