-- ==== Sys2Proof/Machine/LogOps.lean ====
section
/-! DEFINITION. Partitions as address ranges (R56, R168) and the event log (R476). -/

namespace Sys2Proof.Machine

/-- The address at an offset of a partition, counted over its banks in the order of SMF_PART_MAP (R56). -/
def Dev.partAddr (s : Dev) (p off : Nat) : Option Nat :=
  ((s.partBanks p)[off / 0x80000]?).map fun b => b * 0x80000 + off % 0x80000

/-- Bytes written from an offset of a partition on, byte by byte of the boot's own write: bytes beyond the partition are
not written. `n` counts the pieces of one bank. -/
def Dev.partFill : Nat → Nat → Nat → List Byte → Dev → Dev
  | 0, _, _, _, s => s
  | _, _, _, [], s => s
  | n + 1, p, off, l, s =>
    let k := 0x80000 - off % 0x80000
    match s.partAddr p off with
    | none => s
    | some a => (s.setBytes a (l.take k)).partFill n p (off + k) (l.drop k)

/-- A master reads `n` bytes from an offset of a partition on; beyond the partition there are none. `f` counts the pieces of one bank. -/
def Dev.partRead : Nat → Nat → Nat → Nat → Nat → Dev → RdRes × Dev
  | 0, _, _, _, _, s => (⟨[], false⟩, s)
  | _, _, _, _, 0, s => (⟨[], false⟩, s)
  | f + 1, mid, p, off, n, s =>
    let k := min n (0x80000 - off % 0x80000)
    match s.partAddr p off with
    | none => (⟨leBytes n 0, false⟩, s)
    | some a =>
      let (r, s) := s.physRead mid a k
      let (q, s) := Dev.partRead f mid p (off + k) (n - k) s
      (⟨r.data ++ q.data, r.ue || q.ue⟩, s)

/-- A word at an offset of a partition as its reader sees it. -/
def Dev.partView (s : Dev) (p off : Nat) : Nat := ((s.partAddr p off).map fun a => s.view a 4).getD 0

/-- Words of memory as bytes. -/
def wordBytes (l : List Nat) : List Byte := l.flatMap (leBytes 4)

/-- Patrol firmware appends a record, and then moves WR (R476). CAP is written with the first record of a boot: the records
that fit into the partition behind the header. (DESIGN CHOICE: log entry 35.) -/
def Dev.logRecord (source code : Nat) (data : List Nat) (s : Dev) : Dev :=
  let cap := (s.partBanks 5).length * 0x2000 - 1
  match s.partAddr 5 0 with
  | none => s
  | some h =>
    let first := s.host.logSeq = 0
    let s := if first then s.physWrite 0x40 (h + 4) (leBytes 4 cap) else s
    let (r, s) := s.physRead 0x40 h 4
    let wr := leVal r.data % cap
    let data := if first then [s.reg .BOOT_STATUS, s.reg .BOOT_CAUSE] ++ data.drop 2 else data
    let v := s.tbVal 0
    let words := [tbNs v, tbFrac v + source % 256 * 2 ^ 8 + code % 65536 * 2 ^ 16, s.host.logSeq % 2 ^ 32]
      ++ (data ++ List.replicate (13 - data.length) 0).take 13
    match s.partAddr 5 (64 + 64 * wr) with
    | none => s
    | some a =>
      let s := s.physWrite 0x40 a (wordBytes words)
      let s := s.physWrite 0x40 h (leBytes 4 ((wr + 1) % cap))
      { s with host := { s.host with logSeq := s.host.logSeq + 1 } }

/-- Patrol's firmware runs: the boot has ended, or serves Provisioning. -/
def Dev.patrolRuns (s : Dev) : Bool :=
  s.sys.patOn && s.sys.resetRun.isNone && !s.sys.lockdown && (s.sys.bootMode == .done || s.sys.bootMode == .provisioning)

/-- Patrol firmware writes an event log record (R476). -/
def Dev.eventLog (source code : Nat) (data : List Nat) (s : Dev) : Dev := if s.patrolRuns then s.logRecord source code data else s

end Sys2Proof.Machine
end

