-- ==== Sys2Proof/Machine/MbxOps.lean ====
section
/-! DEFINITION. The mailbox block (07_mailboxes): posts, takes, flushes, doorbells and locks. -/

namespace Sys2Proof.Machine

/-- Key of a master ID and context in the staging tables of the mailbox block (R192). -/
def mbxKey (mid ctx : Nat) : Nat := mid * 4 + ctx

/-- Whether a master and context is the receiver of mailbox `m` (R191). -/
def Dev.isReceiver (s : Dev) (m mid ctx : Nat) : Bool :=
  s.fld .MBX_CFG_RECV_MID m == mid && s.fld .MBX_CFG_RECV_CTX m == ctx

/-- The high word of a notice from pointer, LEN and tag (R190). -/
def noticeHigh (ptr len tag : Nat) : Nat := bits ptr 39 32 + len % 2 ^ 16 * 2 ^ 8 + tag * 2 ^ 24

/-- Stage the low word of a notice (R192). -/
def Dev.mbxStage (mid ctx v : Nat) (s : Dev) : Dev :=
  { s with mbx := { s.mbx with low := s.mbx.low.set (mbxKey mid ctx) (some (word v)) } }

/-- The outcome of a commit for its master and context; the staged low word is spent (R193). -/
def Dev.mbxResult (mid ctx r : Nat) (s : Dev) : Dev :=
  { s with mbx := { s.mbx with postRes := s.mbx.postRes.set (mbxKey mid ctx) r,
                               low := s.mbx.low.set (mbxKey mid ctx) none } }

/-- Store a notice with its poster (R192). -/
def Dev.mbxStore (m mid ctx lo hi : Nat) (s : Dev) : Dev :=
  ((((s.setReg .MBX_NOTICE_LOW lo m).setReg .MBX_NOTICE_HIGH hi m).setFlag .MBX_STATUS_FULL true m).setFld
    .MBX_STATUS_SENDER_MID mid m).setFld .MBX_STATUS_SENDER_CTX ctx m

/-- A write of the high word of mailbox `m`: the post commits or is refused (R192, R193). -/
def Dev.mbxCommit (m mid ctx hi : Nat) (s : Dev) : Dev :=
  if bits hi 23 8 = 0 then (s.misuse .MBX).mbxResult mid ctx 3
  else if s.flag .MBX_STATUS_FULL m then (s.count .MBX_POST_REFUSE_CNT).mbxResult mid ctx 2
  else
    let lo := ((s.mbx.low.get (mbxKey mid ctx)).getD 0#32).toNat
    ((s.mbxStore m mid ctx lo hi).count .MBX_POST_CNT).mbxResult mid ctx 1

/-- The snapshot of mailbox `m` becomes `x` (R194). -/
def Dev.mbxSnap (m : Nat) (x : Snap) (s : Dev) : Dev := { s with mbx := { s.mbx with snap := s.mbx.snap.set m x } }

/-- A read of the low word of mailbox `m` (R194). -/
def Dev.mbxReadLow (m mid ctx : Nat) (s : Dev) : Nat × Dev :=
  if !s.isReceiver m mid ctx then (0, s.misuse .MBX)
  else if s.flag .MBX_STATUS_FULL m then (s.reg .MBX_NOTICE_LOW m, s.mbxSnap m (.notice mid ctx))
  else (0, s.mbxSnap m (.empty mid ctx))

/-- The TAKEN doorbell of mailbox `m` (R195). -/
def Dev.takenRing (m : Nat) (s : Dev) : Dev :=
  s.when (s.flag .MBX_CFG_TKN_EN m) fun s =>
    s.ringMask (s.fld .MBX_CFG_TKN_TARGET m) (2 ^ s.fld .MBX_CFG_TKN_BIT m)

/-- A read of the high word of mailbox `m`: the take (R194). -/
def Dev.mbxReadHigh (m mid ctx : Nat) (s : Dev) : Nat × Dev :=
  if !s.isReceiver m mid ctx then (0, s.misuse .MBX)
  else match s.mbx.snap.get m with
    | .notice a b =>
      if a = mid ∧ b = ctx then
        (s.reg .MBX_NOTICE_HIGH m, ((s.setFlag .MBX_STATUS_FULL false m).mbxSnap m .none).takenRing m)
      else (0, s.misuse .MBX)
    | .empty a b => if a = mid ∧ b = ctx then (0, s.mbxSnap m .none) else (0, s.misuse .MBX)
    | .none => (0, s.misuse .MBX)

/-- Patrol's flush of mailbox `m` (R198). -/
def Dev.mbxFlush (m : Nat) (s : Dev) : Dev :=
  let s := s.mbxSnap m .none
  if s.flag .MBX_STATUS_FULL m then (s.setFlag .MBX_STATUS_FULL false m).count .MBX_FORCE_CNT else s

/-- A read of lock `n`: acquire it where it is free (R201). -/
def Dev.lockRead (n mid : Nat) (s : Dev) : Nat × Dev :=
  if s.flag .MBX_LOCK_HELD n then (0x80000000 + s.fld .MBX_LOCK_OWNER n, s)
  else (0, s.setReg .MBX_LOCK (0x80000000 + mid) n)

/-- A write to lock `n`: release by its owner (R203). -/
def Dev.lockWrite (n mid v : Nat) (s : Dev) : Dev :=
  if v = 0 ∧ s.flag .MBX_LOCK_HELD n ∧ s.fld .MBX_LOCK_OWNER n = mid then s.setReg .MBX_LOCK 0 n
  else s.count .MBX_LOCK_REFUSE_CNT

/-- Patrol's forced release of lock `n` (R204). -/
def Dev.lockForce (n : Nat) (s : Dev) : Dev :=
  if s.flag .MBX_LOCK_HELD n then (s.setReg .MBX_LOCK 0 n).count .MBX_FORCE_CNT else s

/-- A read of the MBX page. -/
def Dev.mbxRead (r : Reg) (i mid ctx : Nat) (s : Dev) : Nat × Dev :=
  match r with
  | .MBX_NOTICE_LOW => s.mbxReadLow i mid ctx
  | .MBX_NOTICE_HIGH => s.mbxReadHigh i mid ctx
  | .MBX_LOCK => s.lockRead i mid
  | .MBX_DB_SET => (s.reg .MBX_DB i, s)
  | .MBX_POSTRES => (s.mbx.postRes.get (mbxKey mid ctx), s)
  | r => (s.reg r i, s)

/-- A write to the MBX page. -/
def Dev.mbxWrite (r : Reg) (i mid ctx v : Nat) (s : Dev) : Dev :=
  match r with
  | .MBX_NOTICE_LOW => s.mbxStage mid ctx v
  | .MBX_NOTICE_HIGH => s.mbxCommit i mid ctx v
  | .MBX_LOCK => s.lockWrite i mid v
  | .MBX_DB => (s.plain .MBX_DB v i).msixUpdate
  | .MBX_DB_SET => s.ringMask i v
  | .MBX_LOCK_FORCE => if mid = 0x40 then (s.plain r v).lockForce (bits v 7 0) else s.refuseWrite r
  | .MBX_FLUSH => if mid = 0x40 then (s.plain r v).mbxFlush (bits v 7 0) else s.refuseWrite r
  | r => s.plain r v i

/-- The INBOX event of a context: a mailbox of its inbox is full (R191). -/
def Dev.inboxPending (s : Dev) (mid ctx : Nat) : Bool :=
  (List.range 256).any fun m => s.isReceiver m mid ctx && s.flag .MBX_STATUS_FULL m

end Sys2Proof.Machine
end

