-- ==== Sys2Proof/Machine/EngBase.lean ====
section
/-! DEFINITION. Contexts, registers, events and fault records (R85 to R88, R103, R104, R146, R471). -/

namespace Sys2Proof.Machine

/-! ### Numbers -/

/-- The rink of a context; 8 for Patrol. -/
def rinkOf (c : Nat) : Nat := if c < 256 then c / 32 else 8

/-- The engine of a context: rink × 8 + engine, 64 for Patrol. -/
def engOf (c : Nat) : Nat := c / 4

/-- The master ID of a context (R17, R18). -/
def midOf (c : Nat) : Nat := if c < 256 then c / 4 else 0x40

/-- The number of a context within its engine. -/
def ctxIn (c : Nat) : Nat := c % 4

/-- Whether a context is Patrol's. -/
def isPatrol (c : Nat) : Bool := 256 ≤ c

/-- The context of a master ID and context number, for engines and Patrol. -/
def ctxOf (mid ctx : Nat) : Nat := mid * 4 + ctx

/-- Words of the instruction memory of a context (R119). -/
def imemWords (c : Nat) : Nat := if isPatrol c then 0x80000 else 0x4000

/-! ### Access to contexts and engines -/

/-- A context. -/
def Dev.ctx (s : Dev) (c : Nat) : Ctx := s.eng.ctx.get c

/-- The device with a context changed. -/
def Dev.updCtx (c : Nat) (f : Ctx → Ctx) (s : Dev) : Dev := { s with eng := { s.eng with ctx := s.eng.ctx.upd c f } }

/-- An engine. -/
def Dev.engine (s : Dev) (e : Nat) : Eng := s.eng.eng.get e

/-- The device with an engine changed. -/
def Dev.updEng (e : Nat) (f : Eng → Eng) (s : Dev) : Dev := { s with eng := { s.eng with eng := s.eng.eng.upd e f } }

/-- A register of a context; w0 reads 0 (R117). -/
def Ctx.rd (x : Ctx) (r : Nat) : Word := if r = 0 then 0#32 else x.w.get r

/-- The context with a register written; a write to w0 is discarded (R117). -/
def Ctx.wr (x : Ctx) (r : Nat) (v : Word) : Ctx := if r = 0 then x else { x with w := x.w.set r v }

/-- A violation in the engine control registers (R150). -/
def Dev.skzMisuse (c : Nat) (s : Dev) : Dev :=
  s.updEng (engOf c) fun e => { e with misuseCnt := min (e.misuseCnt + 1) (2 ^ 32 - 1) }

/-! ### Engines online, rinks -/

/-- Whether engine `e` of rink `n` is online. -/
def Dev.engOnline (s : Dev) (n e : Nat) : Bool := bit (s.fld .RNK_STATUS_ENG_ONLINE n) e

/-- The device with an engine online or not, in both status registers. -/
def Dev.setOnline (n e : Nat) (b : Bool) (s : Dev) : Dev :=
  (s.setFld .RNK_STATUS_ENG_ONLINE (putBit (s.fld .RNK_STATUS_ENG_ONLINE n) e b) n).setFlag .RNK_ENG_STATUS_OFFLINE (!b) n e

/-- Whether a context can act at all: its engine is online in a rink that is on and not in reset, or Patrol is on. -/
def Dev.alive (s : Dev) (c : Nat) : Bool :=
  if isPatrol c then s.sys.patOn
  else s.rinkOn (rinkOf c) && !s.inRinkReset (rinkOf c) && s.engOnline (rinkOf c) (c / 4 % 8)

/-! ### Jobs -/

/-- A word of a descriptor; a missing word is 0. -/
def Job.word (j : Job) (i : Nat) : Nat := (List.getD j i 0#32).toNat

/-- ENTRY, PRIO, PIN, ENG, FWID, SPACE (R89). -/
def Job.entry (j : Job) : Nat := bits (j.word 0) 13 0
def Job.prio (j : Job) : Nat := bits (j.word 0) 15 14
def Job.pinned (j : Job) : Bool := bit (j.word 0) 16
def Job.engine (j : Job) : Nat := bits (j.word 0) 20 18
def Job.fwid (j : Job) : Nat := bits (j.word 0) 27 24
def Job.space (j : Job) : Nat := bits (j.word 0) 31 28

/-- A descriptor from its parts (R89): word 0, ARG, LEN, SRC, STATION, stamp in 2^-8 ns, time base, TAG. -/
def jobWords (w0 arg len src station ts tb tag : Nat) : Job :=
  [Sys2Proof.Machine.word w0, Sys2Proof.Machine.word arg,
   Sys2Proof.Machine.word (bits arg 39 32 + len % 65536 * 2 ^ 8 + src * 2 ^ 24), Sys2Proof.Machine.word (ts / 256),
   Sys2Proof.Machine.word (ts % 256 + tb * 2 ^ 8 + station * 2 ^ 12), Sys2Proof.Machine.word tag, 0#32, 0#32]

/-- Whether context `c` accepts jobs of priority `p` (R92). Patrol's contexts take jobs of every priority (R475 names no
ACCEPT register; DEDUCED, log entry 13). -/
def Dev.accepts (s : Dev) (c p : Nat) : Bool :=
  isPatrol c || bit (s.fld .RNK_ENG_CFG_ACCEPT (rinkOf c) (c / 4 % 8)) (4 * ctxIn c + p)

/-- The queue of an engine. -/
def Dev.queue (s : Dev) (ge : Nat) : List (Nat × Job) := if ge = 64 then s.eng.patQ else s.eng.queue.get ge

/-- The device with a queue replaced; PAT_SQ_STATUS and QDEPTH show its depth. -/
def Dev.setQueue (ge : Nat) (q : List (Nat × Job)) (s : Dev) : Dev :=
  if ge = 64 then ({ s with eng := { s.eng with patQ := q } }).setFld .PAT_SQ_STATUS_DEPTH q.length
  else ({ s with eng := { s.eng with queue := s.eng.queue.set ge q } }).setFld .RNK_ENG_STATUS_QDEPTH q.length (ge / 8) (ge % 8)

/-- A job joins the end of a queue. -/
def Dev.enqueue (ge : Nat) (j : Job) (s : Dev) : Dev :=
  let q := s.queue ge ++ [(s.eng.arrivals, j)]
  ({ s with eng := { s.eng with arrivals := s.eng.arrivals + 1 } }).setQueue ge q

/-- The control task whose run a job starts (R426): task + 1, or 0. -/
def Job.taskOf (j : Job) : Nat := if bits (j.word 2) 31 24 = 0x51 then bits (j.word 5) 3 0 + 1 else 0

/-- The context with a job loaded (R91); it is bound to no task (DESIGN CHOICE: log entry 33). -/
def Ctx.load (x : Ctx) (j : Job) : Ctx :=
  let x := (List.range 8).foldl (fun x i => x.wr (24 + i) (word (j.word i))) x
  { x with pc := j.entry, space := j.space, prio := j.prio, st := .run, hasJob := true, window := false,
           patEmpty := false, stall := .none, walkFlt := [], bound := 0, task := j.taskOf }

/-- CTX_STATE shows the state of a context. -/
def Dev.showState (c : Nat) (s : Dev) : Dev :=
  if isPatrol c then s
  else
    let n := rinkOf c
    let e := c / 4 % 8
    let v := s.fld .RNK_ENG_STATUS_CTX_STATE n e
    s.setFld .RNK_ENG_STATUS_CTX_STATE (putBits v (4 * ctxIn c + 3) (4 * ctxIn c) (s.ctx c).st.code) n e

/-- The device with the state of a context changed. -/
def Dev.setSt (c : Nat) (t : CtxSt) (s : Dev) : Dev := (s.updCtx c fun x => { x with st := t }).showState c

/-- A context takes a job (R91). -/
def Dev.loadJob (c : Nat) (j : Job) (s : Dev) : Dev := (s.updCtx c fun x => x.load j).showState c

/-- The jobs that one more job is lost (R87, R108). -/
def Dev.jobLost (n k : Nat) (s : Dev) : Dev := s.countBy k .RNK_JOBLOST_CNT n

/-! ### Lift ownership -/

/-- The lifts that a context can own: the four of its rink, or the eight of the device. -/
def liftsOf (c : Nat) : List Nat :=
  if isPatrol c then (List.range 8).map (· + 32) else (List.range 4).map (· + rinkOf c * 4)

/-- LFT_STATUS.STATE codes (R189). -/
def liftIdle : Nat := 0
def liftRunning : Nat := 1
def liftFaulted : Nat := 2
def liftStopping : Nat := 3

/-- Whether context `c` owns lift `l` while it is not idle. -/
def Dev.ownsLift (s : Dev) (c l : Nat) : Bool :=
  s.fld .LFT_STATUS_STATE l != liftIdle && !s.flag .LFT_STATUS_RING l && s.fld .LFT_STATUS_OWNER_MID l == midOf c
    && s.fld .LFT_STATUS_OWNER_CTX l == ctxIn c

/-- Whether a context owns an unfinished or faulted lift (R106). -/
def Dev.hasLift (s : Dev) (c : Nat) : Bool := (liftsOf c).any fun l => s.ownsLift c l

/-! ### Events (R146) -/

/-- The DB event of a context. -/
def Dev.dbPending (s : Dev) (c : Nat) : Bool :=
  let k := (s.ctx c).skz
  bit k.dbsel 8 && (s.reg .MBX_DB (bits k.dbsel 4 0) &&& k.dbmask) != 0

/-- Whether a queue holds a job that context `c` accepts. -/
def Dev.ownJob (s : Dev) (c : Nat) : Bool := (s.queue (engOf c)).any fun j => s.accepts c j.2.prio

/-- A job that a context may steal locally: stealable and accepted. -/
def Dev.stealable (s : Dev) (c : Nat) (j : Nat × Job) : Bool := !j.2.pinned && s.accepts c j.2.prio

/-- The engines of the rink in ring order from the next one (R93). -/
def ringFrom (n e : Nat) : List Nat := (List.range (n - 1)).map fun i => (e + 1 + i) % n

/-- Whether a context ever steals: not on Patrol, nor on a control engine (R413). -/
def Dev.thief (s : Dev) (c : Nat) : Bool := !isPatrol c && !(s.engine (engOf c)).pgf

/-- The first engine of the rink whose queue holds a job that the context may steal. -/
def Dev.localVictim (s : Dev) (c : Nat) : Option Nat :=
  if !s.thief c || !s.flag .RNK_CFG_STEAL_EN (rinkOf c) then none
  else (ringFrom 8 (c / 4 % 8)).find? fun e => (s.queue (rinkOf c * 8 + e)).any (s.stealable c)

/-- The summary bit of rink `v` at rink `n` (R94): a stealable job whose firmware rink `n` has loaded. -/
def Dev.summary (s : Dev) (n v : Nat) : Bool :=
  s.rinkOn v && !s.inRinkReset v &&
    (List.range 8).any fun e => (s.queue (v * 8 + e)).any fun j => !j.2.pinned && bit (s.reg .RNK_FWMASK n) j.2.fwid

/-- The rink that a cross-rink steal asks first (R93, R94). -/
def Dev.crossVictim (s : Dev) (c : Nat) : Option Nat :=
  if !s.thief c || !(s.ctx c).window || !s.flag .RNK_CFG_XSTEAL_EN (rinkOf c) then none
  else (ringFrom 8 (rinkOf c)).find? fun v => bit (s.fld .RNK_CFG_STEAL_GROUP (rinkOf c)) v && s.summary (rinkOf c) v

/-- Whether the Patrol stage of R93 is open to the context (R95). -/
def Dev.patrolStage (s : Dev) (c : Nat) : Bool :=
  s.thief c && (s.ctx c).window && s.flag .RNK_CFG_PAT_STEAL_EN (rinkOf c) && bit (s.reg .RNK_FWMASK (rinkOf c)) 15
    && !s.eng.patQ.isEmpty && !(s.ctx c).patEmpty

/-- The pending events of a context as SKZ_EVPEND shows them. -/
def Dev.evPend (s : Dev) (c : Nat) : Nat :=
  let k := (s.ctx c).skz
  let job := s.ownJob c || (s.localVictim c).isSome || (s.crossVictim c).isSome || s.patrolStage c
  b2n job + 2 * b2n (s.inboxPending (midOf c) (ctxIn c)) + 4 * b2n (s.dbPending c) + 8 * b2n (k.liftEv != 0)
    + 16 * b2n k.timer + 32 * b2n k.soft

/-- The pending armed events other than JOB. -/
def Dev.evReady (s : Dev) (c : Nat) : Nat :=
  let m := s.evPend c &&& (s.ctx c).skz.armed
  m - m % 2

/-- The context returns to RUN after WAITEV with the events in rd (R147). -/
def Dev.wake (c : Nat) (s : Dev) : Dev :=
  let m := s.evReady c
  (s.updCtx c fun x =>
    let x := x.wr x.evRd (word m)
    { x with st := .run, window := false, patEmpty := false,
             skz := { x.skz with timer := x.skz.timer && !bit m 4, soft := x.skz.soft && !bit m 5 } }).showState c

/-! ### Choice of the context that issues (R88) -/

/-- Stores of a context that wait in its buffer (R121). -/
def Dev.buffered (s : Dev) (c : Nat) : Nat := ((s.engine (engOf c)).stores.filter fun x => x.ctx == c).length

/-- Whether a context is ready (R88, R121). -/
def Dev.ready (s : Dev) (c : Nat) : Bool :=
  let x := s.ctx c
  s.alive c && x.st == .run && x.stall == .none && s.buffered c < 8 && (!x.fence || (s.engine (engOf c)).stores.isEmpty)

/-- The context that an engine chooses: highest running priority, then the round-robin pointer (R88). -/
def Dev.chosen (s : Dev) (ge : Nat) : Option Nat :=
  let rr := (s.engine ge).rr
  let l := ((List.range 4).map fun i => ge * 4 + (rr + i) % 4).filter s.ready
  match l with
  | [] => none
  | a :: t => some (t.foldl (fun b c => if (s.ctx b).prio < (s.ctx c).prio then c else b) a)

/-- The engine issues a word of context `c` in one clock: its pointer moves past the context (R88, R151). -/
def Dev.issued (c : Nat) (s : Dev) : Dev :=
  (s.updEng (engOf c) fun e => { e with rr := (ctxIn c + 1) % 4, cycle := (e.cycle + 1) % 2 ^ 32 }).updCtx c fun x => { x with fence := false }

/-! ### Faults (R103, R104, R471) -/

/-- Which half of a word faults, as HALF shows it. -/
inductive Half where
  | long | first | second | both
deriving DecidableEq, Repr, Inhabited

/-- The code of HALF. -/
def Half.code : Half → Nat
  | .long => 0
  | .first => 1
  | .second => 2
  | .both => 3

/-- The doorbell of RNK_FAULT_CFG or PAT_FAULT_CFG. -/
def Dev.faultBell (n : Nat) (s : Dev) : Dev :=
  if n = 8 then
    s.when (s.flag .PAT_FAULT_CFG_DB_EN) fun s => s.ringMask (s.fld .PAT_FAULT_CFG_DB_TARGET) (2 ^ s.fld .PAT_FAULT_CFG_DB_BIT)
  else
    s.when (s.flag .RNK_FAULT_CFG_DB_EN n) fun s =>
      s.ringMask (s.fld .RNK_FAULT_CFG_DB_TARGET n) (2 ^ s.fld .RNK_FAULT_CFG_DB_BIT n)

/-- The context's word faults: record, state, pending bit, count and doorbell. -/
def Dev.faultCtx (c code : Nat) (half : Half) (done store : Bool) (va : Nat) (s : Dev) : Dev :=
  let rec0 := code + 16 * half.code + 64 * b2n done + 128 * b2n store
  let pc := (s.ctx c).pc
  let s := (s.updCtx c fun x => { x with stall := .none, walkFlt := [] }).setSt c .faulted
  let n := rinkOf c
  if isPatrol c then
    let k := ctxIn c
    ((((s.setReg .PAT_CTX_FLT (rec0 + pc * 2 ^ 13) k).setReg .PAT_CTX_VA va k).setReg .PAT_FAULT_PEND
      (putBit (s.reg .PAT_FAULT_PEND) k true)).count .PAT_FAULT_CNT).faultBell n
  else
    let k := c % 32
    ((((s.setReg .RNK_CTX_FLT (rec0 + pc * 2 ^ 16) n k).setReg .RNK_CTX_VA va n k).setReg .RNK_FAULT_PEND
      (putBit (s.reg .RNK_FAULT_PEND n) k true) n).count .RNK_FAULT_CNT n).faultBell n

end Sys2Proof.Machine
end

