-- ==== Sys2Proof/Machine/Mmu.lean ====
section
/-! DEFINITION. Address translation (R86, R98 to R102, R470, R526). -/

namespace Sys2Proof.Machine

/-- The fault codes of R102. -/
def fltTrans : Nat := 1
def fltPermR : Nat := 2
def fltPermW : Nat := 3
def fltRsvd : Nat := 4
def fltAlign : Nat := 5
def fltShortReg : Nat := 6
def fltData : Nat := 7
def fltWalk : Nat := 8

/-- The root of a SPACE: level-1 table address and EN. -/
structure Root where
  pa : Nat
  en : Bool
deriving DecidableEq, Repr, Inhabited

/-- A root register pair as a root. -/
def mkRoot (lo hi : Nat) : Root := ⟨bits lo 31 12 * 4096 + bits hi 7 0 * 2 ^ 32, bit hi 8⟩

/-- The root of a SPACE for rink `n`, or for Patrol (8). -/
def Dev.rootOf (s : Dev) (n space : Nat) : Root :=
  if n = 8 then mkRoot (s.reg .PAT_SPACE_ROOT_LOW space) (s.reg .PAT_SPACE_ROOT_HIGH space)
  else mkRoot (s.reg .RNK_SPACE_ROOT_LOW n space) (s.reg .RNK_SPACE_ROOT_HIGH n space)

/-- The root of a SPACE for the device-level lifts. -/
def Dev.drootOf (s : Dev) (space : Nat) : Root :=
  mkRoot (s.reg .LFT_DROOT_LOW space) (s.reg .LFT_DROOT_HIGH space)

/-- The outcome of reading tables: a fault code, or a translation. -/
abbrev WalkRes := Except Nat TlbE

/-- A table entry as read for a master: a walk error where its address lies outside shared memory or the read is
uncorrectable (R102 code 0x8). -/
def Dev.readEntry (mid pa : Nat) (s : Dev) : Option Nat × Dev :=
  if rangeOf pa != .shared then (none, s)
  else
    let (r, s) := s.sharedRead mid pa 8
    (if r.ue then none else some (leVal r.data), s)

/-- The two reads of a walk (R98, R526). -/
def Dev.walk (mid space va : Nat) (root : Root) (s : Dev) : WalkRes × Dev :=
  if !root.en then (.error fltTrans, s)
  else
    let (e1, s) := s.readEntry mid (root.pa + bits va 31 22 * 8)
    match e1 with
    | none => (.error fltWalk, s)
    | some e =>
      if !bit e 0 then (.error fltTrans, s)
      else if bits e 11 4 != 0 || bits e 63 40 != 0 then (.error fltRsvd, s)
      else if bit e 3 then
        if bits e 21 12 != 0 then (.error fltRsvd, s)
        else (.ok ⟨space, bits va 31 22 * 1024, true, bits e 39 12 * 4096, bit e 1, bit e 2⟩, s)
      else if bit e 12 then (.error fltRsvd, s)
      else
        let (e2, s) := s.readEntry mid (bits e 39 12 * 4096 + bits va 21 12 * 8)
        match e2 with
        | none => (.error fltWalk, s)
        | some f =>
          if !bit f 0 then (.error fltTrans, s)
          else if bits f 11 4 != 0 || bits f 63 40 != 0 || bit f 3 then (.error fltRsvd, s)
          else (.ok ⟨space, bits va 31 12, false, bits f 39 12 * 4096, bit e 1 && bit f 1, bit e 2 && bit f 2⟩, s)

/-- Whether a read of a walk waits for a bank that is leaving retention (R165). -/
def Dev.walkWaits (s : Dev) (va : Nat) (root : Root) : Bool :=
  let a := root.pa + bits va 31 22 * 8
  let e := s.view a 8
  root.en && (s.bankWaits a 8 || (bit e 0 && !bit e 3 && s.bankWaits (bits e 39 12 * 4096 + bits va 21 12 * 8) 8))

/-- Whether an entry translates an address of a SPACE. -/
def TlbE.hits (e : TlbE) (space va : Nat) : Bool :=
  e.space == space && (if e.big then e.vpn / 1024 == bits va 31 22 else e.vpn == bits va 31 12)

/-- The physical address that an entry gives. -/
def TlbE.addr (e : TlbE) (va : Nat) : Nat := if e.big then e.pa + va % 0x400000 else e.pa + va % 4096

/-- The fault of an access that an entry does not allow. -/
def TlbE.perm (e : TlbE) (store : Bool) : Option Nat :=
  if store then (if e.w then none else some fltPermW) else (if e.r then none else some fltPermR)

/-- A TLB with one more translation, which shares `n` places with those of its set; the one it displaces there is open (DESIGN CHOICE, log
entry 9). -/
def tlbInsert (n victim : Nat) (set : TlbE → Nat) (e : TlbE) (l : List TlbE) : List TlbE :=
  let l := l.filter (· != e)
  let k := l.filter fun x => set x == set e
  if k.length < n then e :: l else e :: l.erase (k.getD (victim % n) e)

/-- The set of the second-level TLB, of 256 with 4 ways each, that holds a translation (R99). -/
def TlbE.set (e : TlbE) : Nat := Config.tlbSet e.space e.vpn e.big % 256

/-- A translation fills the micro-TLB of a context (R99). -/
def Dev.fillMicro (c : Nat) (e : TlbE) (s : Dev) : Dev :=
  let (v, s) := s.fresh
  s.updCtx c fun x => { x with micro := tlbInsert 8 v (fun _ => 0) e x.micro }

/-- A translation fills the second-level TLB of a rink (R99). -/
def Dev.fillL2 (n : Nat) (e : TlbE) (s : Dev) : Dev :=
  let (v, s) := s.fresh
  { s with eng := { s.eng with tlb := s.eng.tlb.upd n (tlbInsert 4 v TlbE.set e) } }

/-- The answer to a translation without a walk. -/
inductive Look where
  | ok (pa : Nat)
  | fault (code : Nat)
  | miss
deriving DecidableEq, Repr, Inhabited

/-- An entry found: its address, or the fault of its rights. -/
def TlbE.answer (e : TlbE) (va : Nat) (store : Bool) : Look :=
  match e.perm store with
  | some k => .fault k
  | none => .ok (e.addr va)

/-- Where an address of Patrol's SPACE 0 lies (R470); an address outside the table is unmapped. -/
def patrolMap (a : Nat) : Nat :=
  if a < 0x200000 then 0x200000000 + a
  else if 0x10000000 ≤ a ∧ a < 0x11000000 then regBase + (a - 0x10000000)
  else if 0x20000000 ≤ a ∧ a < 0x28000000 then a - 0x20000000
  else if 0x30000000 ≤ a ∧ a < 0x38000000 then 0x100000000 + (a - 0x30000000)
  else 0xF000000000

/-- The translation of a data address of a context from its TLBs (R86, R99, R470, R526). -/
def Dev.translate (c va : Nat) (store : Bool) (s : Dev) : Look × Dev :=
  let x := s.ctx c
  if isPatrol c && x.space == 0 then (.ok (patrolMap va), s)
  else if !isPatrol c && va < 0x10000 then (.ok (dmemBase (rinkOf c) (c / 4 % 8) + va), s)
  else if !(s.rootOf (rinkOf c) x.space).en then (.fault fltTrans, s)
  else match x.micro.find? (·.hits x.space va) with
    | some e => (e.answer va store, s)
    | none =>
      if isPatrol c then (.miss, s)
      else match (s.eng.tlb.get (rinkOf c)).find? (·.hits x.space va) with
        | some e => (e.answer va store, s.fillMicro c e)
        | none => (.miss, s)

/-- Whether rink `n` runs the four walks that it runs at once (R99). -/
def Dev.walksFull (s : Dev) (n : Nat) : Bool := 4 ≤ (s.eng.walks.filter (·.rink == n)).length

/-- Whether a rink lift's access needs a walk that waits for one of the four to end (R99), or for a bank (R165). -/
def Dev.liftWalkWaits (s : Dev) (n space va : Nat) : Bool :=
  (s.rootOf n space).en && ((s.eng.tlb.get n).find? (·.hits space va)).isNone && (s.walksFull n || s.walkWaits va (s.rootOf n space))

/-- The translation of a virtual address of a rink lift: the second-level TLB, or a walk that fills it (R99, R172). -/
def Dev.liftTranslate (n mid space va : Nat) (store : Bool) (s : Dev) : Except Nat Nat × Dev :=
  let root := s.rootOf n space
  if !root.en then (.error fltTrans, s)
  else
    let use (e : TlbE) (s : Dev) : Except Nat Nat × Dev :=
      match e.perm store with
      | some k => (.error k, s)
      | none => (.ok (e.addr va), s)
    match (s.eng.tlb.get n).find? (·.hits space va) with
    | some e => use e s
    | none =>
      match s.walk mid space va root with
      | (.error k, s) => (.error k, s)
      | (.ok e, s) =>
        match e.perm store with
        | some k => (.error k, s)
        | none => (.ok (e.addr va), s.fillL2 n e)

/-- Whether an invalidation selects a translation (R101, R111): `v` is the word written to RNK_TLB_INV. -/
def invSelects (v : Nat) (e : TlbE) : Bool :=
  bit v 5 || (e.space == bits v 3 0 && (bit v 4 ||
    (if e.big then e.vpn / 1024 == bits v 31 22 else e.vpn == bits v 31 12)))

/-- A write to RNK_TLB_INV of rink `n`: the selected translations go, the results of earlier walks are discarded, those too that a word holds while its
other half still walks, and INV_BUSY reads 1 until TLB_INVALIDATE_DONE (R101). -/
def Dev.tlbInvalidate (n v : Nat) (s : Dev) : Dev :=
  let eng := { s.eng with
    tlb := s.eng.tlb.upd n (·.filter (!invSelects v ·)),
    walks := s.eng.walks.map fun w => if w.rink = n then { w with dead := true } else w }
  let s := { s with eng := eng }
  let s := s.each (List.range 32) fun k s =>
    s.updCtx (n * 32 + k) fun x => { x with micro := x.micro.filter (!invSelects v ·), walkFlt := [] }
  s.setFlag .RNK_TLB_STATUS_INV_BUSY true n

/-- INV_BUSY falls once every walk that began before the write has ended (R101). -/
def Dev.tlbInvDone (n : Nat) (s : Dev) : Dev :=
  if s.eng.walks.any fun w => w.rink == n && w.dead then s else s.setFlag .RNK_TLB_STATUS_INV_BUSY false n

/-- The walk for a context whose access missed both TLBs starts; a rink walks four at once, Patrol one per context
(R99). -/
def Dev.walkStart (c : Nat) (s : Dev) : Dev :=
  let n := rinkOf c
  match (s.ctx c).stall with
  | .walk va =>
    if isPatrol c || !s.walksFull n then
      let w : Walk := ⟨c, n, (s.ctx c).space, va, false⟩
      ({ s with eng := { s.eng with walks := s.eng.walks ++ [w] } }).updCtx c fun x => { x with stall := .walking }
    else s
  | _ => s

end Sys2Proof.Machine
end

