-- ==== Sys2Proof/Machine/LiftOps.lean ====
section
/-! DEFINITION. Lifts (R106, R170 to R177). -/

namespace Sys2Proof.Machine

/-- A lift beside its registers. -/
def Dev.lift (s : Dev) (l : Nat) : LiftSt := s.lft.get l

/-- The device with a lift changed. -/
def Dev.updLift (l : Nat) (f : LiftSt → LiftSt) (s : Dev) : Dev := { s with lft := s.lft.upd l f }

/-- The master ID of a lift (R170). -/
def liftMid (l : Nat) : Nat := 0x48 + l

/-- The owner of a lift as a context. -/
def Dev.liftOwner (s : Dev) (l : Nat) : Nat := ctxOf (s.fld .LFT_STATUS_OWNER_MID l) (s.fld .LFT_STATUS_OWNER_CTX l)

/-- The bit of a lift in SKZ_LIFTEV (R174, R151). -/
def liftBit (l : Nat) : Nat := if l < 32 then l % 4 else l - 32

/-- Set or clear a bit of the owner's SKZ_LIFTEV. -/
def Dev.liftEvent (l i : Nat) (b : Bool) (s : Dev) : Dev :=
  s.updCtx (s.liftOwner l) fun x => { x with skz := { x.skz with liftEv := putBit x.skz.liftEv i b } }

/-- A context becomes IDLE: it holds no job, and its steal window starts (R87, R93). -/
def Dev.becomeIdle (c : Nat) (s : Dev) : Dev := (s.updCtx c fun x => { x with hasJob := false, window := false, patEmpty := false }).setSt c .idle

/-- What the end of an owned lift does to its owner (R87): a context that waits only for jobs becomes IDLE, an abort that
waited for the lifts completes. -/
def Dev.liftSettled (c : Nat) (s : Dev) : Dev :=
  if s.hasLift c then s
  else
    let x := s.ctx c
    if x.st == .faulted && x.aborting then
      (s.updCtx c fun x => { x with aborting := false, skz := { x.skz with armed := 1 } }).becomeIdle c
    else if x.st == .wait && bit x.skz.armed 0 && s.evReady c == 0 then s.becomeIdle c
    else s

/-- A write of the high word of LFT_DESC: the lift starts, or is refused (R171). -/
def Dev.liftStart (l mid ctx pa : Nat) (s : Dev) : Dev :=
  let foreign := if l < 32 then !(mid < 0x40 && mid / 8 == l / 4) else mid != 0x40
  if s.fld .LFT_STATUS_STATE l != liftIdle || s.flag .LFT_STATUS_RING l || foreign then s.count .LFT_REFUSE_CNT
  else
    let s := (((s.setFld .LFT_STATUS_STATE liftRunning l).setFld .LFT_STATUS_OWNER_MID mid l).setFld
      .LFT_STATUS_OWNER_CTX ctx l).setFld .LFT_PROG_BYTES 0 l
    let s := (s.setReg .LFT_CUR_LOW (bits pa 31 5 * 32) l).setReg .LFT_CUR_HIGH (bits pa 39 32) l
    let sp := if l < 32 then (s.ctx (ctxOf mid ctx)).space else 0
    s.updLift l fun _ => ⟨sp, .fetch, [], none, none⟩

/-- A lift becomes idle as aborted (R176). -/
def Dev.liftStopped (l : Nat) (s : Dev) : Dev :=
  let c := s.liftOwner l
  ((s.setFld .LFT_STATUS_STATE liftIdle l).count .LFT_ABORT_CNT).liftSettled c

/-- A lift faults (R175, R106). -/
def Dev.liftFault (l code side va : Nat) (s : Dev) : Dev :=
  let s := ((s.setReg .LFT_FLT (code + side * 16) l).setReg .LFT_FLT_VA (va % 2 ^ 32) l).setFld .LFT_STATUS_STATE liftFaulted l
  let s := (s.count .LFT_FAULT_CNT).liftEvent l (8 + liftBit l) true
  if l < 32 then
    (s.setReg .RNK_LFAULT_PEND (putBit (s.reg .RNK_LFAULT_PEND (l / 4)) (l % 4) true) (l / 4)).faultBell (l / 4)
  else s.faultBell 8

/-! ### Descriptors (R170) -/

/-- A word of the descriptor. -/
def LiftSt.word (x : LiftSt) (i : Nat) : Nat := (List.getD x.desc i 0#32).toNat

def LiftSt.src40 (x : LiftSt) : Nat := x.word 0 + bits (x.word 1) 7 0 * 2 ^ 32
def LiftSt.dst40 (x : LiftSt) : Nat := x.word 2 + bits (x.word 3) 7 0 * 2 ^ 32
def LiftSt.srcPhys (x : LiftSt) : Bool := bit (x.word 1) 8
def LiftSt.dstPhys (x : LiftSt) : Bool := bit (x.word 1) 9
def LiftSt.op (x : LiftSt) : Nat := bits (x.word 1) 11 10
def LiftSt.dspace (x : LiftSt) : Nat := bits (x.word 1) 15 12
def LiftSt.last (x : LiftSt) : Bool := bit (x.word 3) 8
def LiftSt.len (x : LiftSt) : Nat := bits (x.word 4) 23 0
def LiftSt.next40 (x : LiftSt) : Nat := x.word 6 + bits (x.word 7) 7 0 * 2 ^ 32

/-- Whether a descriptor is legal (R172, R175). -/
def Dev.descLegal (s : Dev) (l : Nat) (x : LiftSt) : Bool :=
  bits (x.word 1) 31 16 == 0 && bits (x.word 3) 31 20 == 0 && bits (x.word 4) 31 24 == 0 && bits (x.word 7) 31 8 == 0
    && x.op < 2 && (x.srcPhys || bits (x.word 1) 7 0 == 0) && (x.dstPhys || bits (x.word 3) 7 0 == 0)
    && (x.last || bits (x.word 6) 4 0 == 0)
    && (32 ≤ l || !(x.srcPhys || x.dstPhys) || bit (s.fld .LFT_CFG_PHYS_EN) (l / 4))

/-- The current descriptor of a lift has ended: the next one, or the end of the chain (R174). -/
def Dev.liftDescEnd (l : Nat) (s : Dev) : Dev :=
  let x := s.lift l
  if x.last then s.updLift l fun x => { x with stage := .ended }
  else
    let s := (s.setReg .LFT_CUR_LOW (bits x.next40 31 5 * 32) l).setReg .LFT_CUR_HIGH (bits x.next40 39 32) l
    (s.setFld .LFT_PROG_BYTES 0 l).updLift l fun x => { x with stage := .fetch }

/-- The little-endian words of a list of bytes. -/
def wordsOf : Nat → List Byte → List Word
  | 0, _ => []
  | n + 1, l => word (leVal (l.take 4)) :: wordsOf n (l.drop 4)

/-- A running lift fetches the descriptor at LFT_CUR (R170, R175, R176). R170 has descriptors in shared memory and does not say what an address elsewhere
does: the lift reads it where it lies, under R36 and R37 (DESIGN CHOICE: log entry 39). -/
def Dev.liftFetch (l : Nat) (s : Dev) : Dev :=
  let s0 := s
  let st := s.fld .LFT_STATUS_STATE l
  if st = liftStopping then s.liftStopped l
  else if st ≠ liftRunning ∨ (s.lift l).stage ≠ .fetch ∨ s.flag .LFT_STATUS_RING l then s
  else
    let pa := s.reg64 .LFT_CUR_LOW .LFT_CUR_HIGH l
    let (r, s) := s.physRead (liftMid l) pa 32
    if s.bankWaits pa 32 then s0
    else if r.ue then s.liftFault l fltData 2 pa
    else
      let s := s.updLift l fun x => { x with desc := wordsOf 8 r.data, stage := .blocks }
      let x := s.lift l
      if !s.descLegal l x then s.liftFault l fltRsvd 2 pa
      else if x.len ≤ s.fld .LFT_PROG_BYTES l then s.liftDescEnd l
      else s

/-! ### Blocks (R172, R173) -/

/-- A device-level lift translates an address of one side, with the translation it holds for that side. -/
def Dev.deviceTranslate (l space va : Nat) (store : Bool) (s : Dev) : Except Nat Nat × Dev :=
  let root := s.drootOf space
  let held := if store then (s.lift l).dst else (s.lift l).src
  let hold (h : HeldTr) (s : Dev) : Dev :=
    s.updLift l fun x => if store then { x with dst := some h } else { x with src := some h }
  let answer (h : HeldTr) : Except Nat Nat :=
    if store && !h.w then .error fltPermW else if !store && !h.r then .error fltPermR else .ok (h.pa + va % 4096)
  if !root.en then (.error fltTrans, s)
  else
    let walkNow : Except Nat Nat × Dev :=
      match s.walk (liftMid l) space va root with
      | (.error k, s) => (.error k, s)
      | (.ok e, s) =>
        let h : HeldTr := ⟨space, bits va 31 12, e.addr (bits va 31 12 * 4096), e.r, e.w⟩
        (answer h, hold h s)
    match held with
    | some h => if h.space = space ∧ h.vpn = bits va 31 12 then (answer h, s) else walkNow
    | none => walkNow

/-- One address of a lift's block: physical, or translated for the lift. -/
def Dev.liftAddr (l : Nat) (phys store : Bool) (va : Nat) (s : Dev) : Except Nat Nat × Dev :=
  if phys then (.ok va, s)
  else if l < 32 then s.liftTranslate (l / 4) (liftMid l) (s.lift l).space va store
  else s.deviceTranslate l (s.lift l).dspace va store

/-- Translate pieces in order; the first fault with its address, or the physical pieces. -/
def Dev.liftAddrs (l : Nat) (phys store : Bool) : List (Nat × Nat) → Dev → Except (Nat × Nat) (List (Nat × Nat)) × Dev
  | [], s => (.ok [], s)
  | (a, n) :: t, s =>
    match s.liftAddr l phys store a with
    | (.error k, s) => (.error (k, a), s)
    | (.ok p, s) =>
      match Dev.liftAddrs l phys store t s with
      | (.error e, s) => (.error e, s)
      | (.ok q, s) => (.ok ((p, n) :: q), s)

/-- The pieces of `n ≤ 64` bytes from `a` by 4 KiB page. -/
def pagePieces (a n : Nat) : List (Nat × Nat) :=
  if n = 0 then []
  else if a % 4096 + n ≤ 4096 then [(a, n)]
  else [(a, 4096 - a % 4096), (a + (4096 - a % 4096), n - (4096 - a % 4096))]

/-- The first word of a piece that holds an uncorrectable error, as a distance from the start of the piece. -/
def Dev.firstUe (s : Dev) (p n : Nat) : Nat :=
  match (wordPieces n p n).find? fun q => s.errOf q.1 == 2 with
  | some q => q.1 - p
  | none => 0

/-- Read the source pieces: the bytes, or the distance of the first uncorrectable word from the block's start. -/
def Dev.liftRead (mid : Nat) : List (Nat × Nat) → Nat → Dev → Except Nat (List Byte) × Dev
  | [], _, s => (.ok [], s)
  | (p, n) :: t, d, s =>
    let (r, s) := s.physRead mid p n
    if r.ue then (.error (d + s.firstUe p n), s)
    else match Dev.liftRead mid t (d + n) s with
      | (.error k, s) => (.error k, s)
      | (.ok l, s) => (.ok (r.data ++ l), s)

/-- Write the destination pieces. -/
def Dev.liftWrite (mid : Nat) : List (Nat × Nat) → List Byte → Dev → Dev
  | [], _, s => s
  | (p, n) :: t, l, s => Dev.liftWrite mid t (l.drop n) (s.physWrite mid p (l.take n))

/-- A running lift moves one block (R173): translate the source pages and then the destination pages, read, write. The block waits for a
walk of its rink to end (R99), and for a bank that is leaving retention (R165). (DESIGN CHOICE: log entry 11.) -/
def Dev.liftBlock (l : Nat) (s : Dev) : Dev :=
  let s0 := s
  let st := s.fld .LFT_STATUS_STATE l
  if st = liftStopping then s.liftStopped l
  else if st ≠ liftRunning ∨ (s.lift l).stage ≠ .blocks then s
  else
    let x := s.lift l
    let off := s.fld .LFT_PROG_BYTES l
    let wrap (phys : Bool) (a : Nat) : Nat := a % (if phys then 2 ^ 40 else 2 ^ 32)
    let da := wrap x.dstPhys (x.dst40 + off)
    let n := min (x.len - off) (64 - da % 64)
    let sa := wrap x.srcPhys (x.src40 + off)
    let srcs := if x.op = 1 then [] else pagePieces sa n
    let held (h : Option HeldTr) (va : Nat) : Bool := h.any fun h => h.space == x.dspace && h.vpn == bits va 31 12
    let walks (phys : Bool) (h : Option HeldTr) (va : Nat) : Bool :=
      !phys && if l < 32 then s.liftWalkWaits (l / 4) x.space va else !held h va && s.walkWaits va (s.drootOf x.dspace)
    if srcs.any (fun p => walks x.srcPhys x.src p.1) || walks x.dstPhys x.dst da then s
    else match s.liftAddrs l x.srcPhys false srcs with
    | (.error (k, a), s) => s.liftFault l k 0 a
    | (.ok sp, s) =>
      match s.liftAddrs l x.dstPhys true [(da, n)] with
      | (.error (k, a), s) => s.liftFault l k 1 a
      | (.ok dp, s) =>
        if (sp ++ dp).any fun p => s.bankWaits p.1 p.2 then s0
        else match s.liftRead (liftMid l) sp 0 with
        | (.error d, s) => s.liftFault l fltData 0 (sa + d)
        | (.ok data, s) =>
          let data := if x.op = 1 then
            (List.range n).map fun i => BitVec.ofNat 8 (x.word 5 / 256 ^ ((da + i) % 4)) else data
          let s := (s.liftWrite (liftMid l) dp data).setFld .LFT_PROG_BYTES (off + n) l
          if off + n = x.len then s.liftDescEnd l else s

/-- The last writes of a chain are acknowledged (R174). -/
def Dev.liftDone (l : Nat) (s : Dev) : Dev :=
  if s.fld .LFT_STATUS_STATE l ≠ liftRunning ∨ (s.lift l).stage ≠ .ended then s
  else
    let x := s.lift l
    let c := s.liftOwner l
    let s := ((s.setFld .LFT_STATUS_STATE liftIdle l).liftEvent l (liftBit l) true).count .LFT_DONE_CNT
    let s := s.when (bit (x.word 3) 9) fun s => s.ringMask (bits (x.word 3) 14 10) (2 ^ bits (x.word 3) 19 15)
    s.liftSettled c

/-! ### RESUME and ABORT (R176) -/

/-- Whether a writer may command a lift: its owner, or Patrol. -/
def Dev.liftMaster (s : Dev) (l mid ctx : Nat) : Bool :=
  !s.flag .LFT_STATUS_RING l &&
    (mid == 0x40 || (s.fld .LFT_STATUS_OWNER_MID l == mid && s.fld .LFT_STATUS_OWNER_CTX l == ctx))

/-- RESUME of a faulted lift. -/
def Dev.liftResume (l : Nat) (s : Dev) : Dev :=
  let s := (s.setFld .LFT_STATUS_STATE liftRunning l).liftEvent l (8 + liftBit l) false
  s.updLift l fun x => { x with stage := .fetch, src := none, dst := none }

/-- Whether ABORT serves a lift: faulted, or running until the last block of its chain is done. -/
def Dev.liftAbortable (s : Dev) (l : Nat) : Bool :=
  s.fld .LFT_STATUS_STATE l == liftFaulted
    || (s.fld .LFT_STATUS_STATE l == liftRunning && (s.lift l).stage != .ended)

/-- ABORT of a lift that it serves: a faulted lift is idle at once, a running one at the end of the block. -/
def Dev.liftAbort (l : Nat) (s : Dev) : Dev :=
  if s.fld .LFT_STATUS_STATE l = liftFaulted then s.liftStopped l
  else s.setFld .LFT_STATUS_STATE liftStopping l

/-- A write of LFT_CTRL by a master and context (R176). -/
def Dev.liftCtrl (l mid ctx v : Nat) (s : Dev) : Dev :=
  let resume := bit v 0
  let abort := bit v 1
  if !resume && !abort then s
  else if (resume && abort) || !s.liftMaster l mid ctx then s.count .LFT_REFUSE_CNT
  else if resume then
    if s.fld .LFT_STATUS_STATE l = liftFaulted then s.liftResume l else s.count .LFT_REFUSE_CNT
  else if s.liftAbortable l then s.liftAbort l
  else s.count .LFT_REFUSE_CNT

/-- ABORT of every lift that a context owns, as far as ABORT serves it (R87, R106). -/
def Dev.abortOwned (c : Nat) (s : Dev) : Dev :=
  s.each ((liftsOf c).filter (s.ownsLift c)) fun l s => if s.liftAbortable l then s.liftAbort l else s

/-- A write to the LFT page beside the pair registers. -/
def Dev.lftWrite (r : Reg) (i mid ctx v : Nat) (s : Dev) : Dev :=
  match r with
  | .LFT_CTRL => (s.plain r v i).liftCtrl i mid ctx v
  | r => s.plain r v i

end Sys2Proof.Machine
end

