-- ==== Sys2Proof/Machine/EngOps.lean ====
section
/-! DEFINITION. Job queues, the job router, stealing, ABORT and engine loss (R87 to R97, R104, R108 to R110, R475, R527). -/

namespace Sys2Proof.Machine

/-! ### Steal requests (R93 to R95) -/

/-- Whether a context may look for stolen work: idle, nothing of its own to take (R93, R148). -/
def Dev.seeks (s : Dev) (c : Nat) : Bool := s.alive c && (s.ctx c).st == .idle && s.evReady c == 0 && !s.ownJob c

/-- Whether a context may send a steal request: its rink offers nothing, and no request or reply of its own is on its way (R93, R94). -/
def Dev.asksNow (s : Dev) (c : Nat) : Bool :=
  s.seeks c && (s.localVictim c).isNone && !(s.eng.steals.any fun t => t.thief == c) && !(s.eng.asks.any fun t => t.thief == c && t.sent)

/-- The victim that a context asks: the first rink in ring order whose summary bit is set, else Patrol, where its stage is open (R93 to
R95). -/
def Dev.askTarget (s : Dev) (c : Nat) : Option Nat :=
  match s.crossVictim c with
  | some v => some v
  | none => if s.patrolStage c then some 8 else none

/-- The request that a context sends, with the priorities that it accepts. -/
def Dev.askOf (s : Dev) (c v : Nat) : Ask := ⟨c, v, [3, 2, 1, 0].filter (s.accepts c), true⟩

/-- A context that may ask, and has someone to ask, sends its request (R93, R94, R95). -/
def Dev.sendAsk (c : Nat) (s : Dev) : Dev :=
  match if s.asksNow c then s.askTarget c else none with
  | some v => { s with eng := { s.eng with asks := s.eng.asks.filter (·.thief != c) ++ [s.askOf c v] } }
  | none => s

/-- A job that may be stolen has reached a queue: a context that waits in the stage for it may send its request while the summary bit is set, and the job
may be gone when the request arrives (R94, R95). Whether the bit stays set for long enough is not modelled: such a request counts as sent where its
arrival is commanded (DESIGN CHOICE: log entry 39). -/
def Dev.noticed (s : Dev) : Dev :=
  let l := ((List.range 256).filter fun c => (s.ctx c).window && s.asksNow c && !(s.eng.asks.any (·.thief == c))).filterMap fun c =>
    (s.askTarget c).map fun v => { s.askOf c v with sent := false }
  { s with eng := { s.eng with asks := s.eng.asks ++ l } }

/-! ### Pushes (R90, R108, R110) -/

/-- What becomes of a push. -/
inductive PushRes where
  | accepted | waiting | refused
deriving DecidableEq, Repr, Inhabited

/-- Whether the router does not deliver pushes to rink `n` (R110). -/
def Dev.routeFails (s : Dev) (n : Nat) : Bool :=
  !s.rinkOn n || s.inRinkReset n || !s.flag .RNK_STATUS_READY n

/-- Rink `n` takes a push for its engine `e`; `hw` is the producer of a hardware push, `moved` whether the router has redirected it
(R90, R108, R110). A hardware push waits behind those that wait already, unless it is the `front` one of them. -/
def Dev.offer (n e : Nat) (j : Job) (hw : Option Producer) (s : Dev) (moved front : Bool := false) : PushRes × Dev :=
  let target : Option Nat :=
    if s.engOnline n e then some e
    else
      let a := s.fld .RNK_ENG_CFG_ALT_ENG n e
      if s.flag .RNK_ENG_CFG_ALT_EN n e && s.engOnline n a then some a else none
  match target with
  | none => (.refused, s.count .RNK_PUSH_REFUSE_CNT n)
  | some t =>
    if !bit (s.reg .RNK_FWMASK n) j.fwid then (.refused, s.count .RNK_PUSH_REFUSE_CNT n)
    else
      let ge := n * 8 + t
      let behind := hw.isSome && !front && !(s.eng.waiting.get ge).isEmpty
      if (s.queue ge).length < 64 && !behind then (.accepted, (s.enqueue ge j).noticed)
      else match hw with
        | none => (.refused, s.count .RNK_PUSH_REFUSE_CNT n)
        | some p => (.waiting, { s with eng := { s.eng with waiting := s.eng.waiting.upd ge (· ++ [(p, j, moved)]) } })

/-- A push to rink `n` through the job router, which redirects it once only (R110). RNK_PUSH_REFUSE_CNT of a rink that is off is lost with the rink. -/
def Dev.push (n : Nat) (j : Job) (hw : Option Producer) (s : Dev) (moved front : Bool := false) : PushRes × Dev :=
  if !s.routeFails n then s.offer n j.engine j hw moved front
  else
    let a := s.fld .SMF_JOBROUTE_ALT_RINK n
    if s.flag .SMF_JOBROUTE_ALT_EN n && !moved && a != n && !s.routeFails a && bit (s.reg .RNK_FWMASK a) j.fwid then
      s.offer a j.engine j hw true
    else
      let s := s.count .SMF_JOBDROP_CNT
      (.refused, if hw.isNone && s.rinkOn n then s.count .RNK_PUSH_REFUSE_CNT n else s)

/-- Key of the staged words of a push window (R90): window 0 to 7 RNK_PUSH of a rink, 8 PAT_SQ_PUSH. -/
def stageKey (win mid ctx : Nat) : Nat := (win * 256 + mid) * 4 + ctx

/-- A word of a push window is staged. -/
def Dev.stagePush (win i mid ctx v : Nat) (s : Dev) : Dev :=
  let k := stageKey win mid ctx
  let l := s.eng.staged.get k
  let l := (if l = [] then List.replicate 8 0#32 else l).set i (word v)
  { s with eng := { s.eng with staged := s.eng.staged.set k l } }

/-- The staged descriptor of a window; the staging is spent. -/
def Dev.takeStaged (win mid ctx : Nat) (s : Dev) : Job × Dev :=
  let k := stageKey win mid ctx
  (s.eng.staged.get k, { s with eng := { s.eng with staged := s.eng.staged.set k [] } })

/-- A write of word `i` of the RNK_PUSH window of rink `n`; word 7 commits (R90). -/
def Dev.pushWrite (n i mid ctx v : Nat) (s : Dev) : Dev :=
  let s := s.stagePush n i mid ctx v
  if i = 7 then
    let (j, s) := s.takeStaged n mid ctx
    (s.push n j none).2
  else s

/-- A write of word `i` of PAT_SQ_PUSH; word 7 commits (R475). -/
def Dev.patPushWrite (i mid ctx v : Nat) (s : Dev) : Dev :=
  let s := s.stagePush 8 i mid ctx v
  if i = 7 then
    let (j, s) := s.takeStaged 8 mid ctx
    if 64 ≤ s.eng.patQ.length ∨ j.pinned ∨ j.fwid ≠ 15 ∨ mid ≠ 0x40 then s.count .PAT_SQ_REFUSE_CNT
    else
      let first := s.eng.patQ.isEmpty
      let s := s.enqueue 64 j
      let s := s.when first fun s => s.each (List.range 256) fun c s =>
        if (s.ctx c).patEmpty then s.updCtx c fun x => { x with patEmpty := false } else s
      s.noticed
  else s

/-- A job whose field ENG names engine `e` and whose PIN is 0 (R94). -/
def Job.retarget (j : Job) (e : Nat) : Job :=
  Sys2Proof.Machine.word (putBits (putBit (j.word 0) 16 false) 20 18 e) :: List.tail j

/-! ### Taking jobs (R92, R93) -/

/-- A queue without the first job that `p` selects, and that job. -/
def takeFirst (p : Nat × Job → Bool) : List (Nat × Job) → Option (Job × List (Nat × Job))
  | [] => none
  | j :: t => if p j then some (j.2, t) else
    match takeFirst p t with
    | some (k, r) => some (k, j :: r)
    | none => none

/-- The idle contexts of an engine, lowest first. -/
def Dev.idleCtx (s : Dev) (ge : Nat) : List Nat :=
  ((List.range 4).map (ge * 4 + ·)).filter fun c => s.alive c && (s.ctx c).st == .idle && s.evReady c == 0

/-- The priorities, highest first, at which some idle context accepts. -/
def Dev.takePrio (s : Dev) (ge : Nat) (idle : List Nat) : Option Nat :=
  [3, 2, 1, 0].find? fun p => (s.queue ge).any (fun j => j.2.prio == p) && idle.any fun c => s.accepts c p

/-- An engine hands the selected job to the selected context (R92). -/
def Dev.jobTake (ge : Nat) (s : Dev) : Dev :=
  let idle := s.idleCtx ge
  match s.takePrio ge idle with
  | none => s
  | some p =>
    match takeFirst (fun j => j.2.prio == p) (s.queue ge), idle.find? fun c => s.accepts c p with
    | some (j, q), some c => (s.setQueue ge q).loadJob c j
    | _, _ => s

/-- A local steal (R93). -/
def Dev.localSteal (c : Nat) (s : Dev) : Dev :=
  if !s.seeks c then s
  else match s.localVictim c with
    | none => s
    | some e =>
      let ge := rinkOf c * 8 + e
      match takeFirst (s.stealable c) (s.queue ge) with
      | none => s
      | some (j, q) => ((s.setQueue ge q).loadJob c j).count .RNK_STEAL_CNT (rinkOf c)

/-- The engine of a rink whose queue holds the oldest job that `p` selects (R94). -/
def Dev.oldestOf (s : Dev) (v : Nat) (p : Nat × Job → Bool) : Option Nat :=
  let l := (List.range 8).filterMap fun e => ((s.queue (v * 8 + e)).find? p).map fun j => (j.1, e)
  match l with
  | [] => none
  | a :: t => some (t.foldl (fun b x => if x.1 < b.1 then x else b) a).2

/-- The oldest job over the queues of a rink that `p` selects leaves its queue (R94). -/
def Dev.rinkTake (v : Nat) (p : Nat × Job → Bool) (s : Dev) : Option Job × Dev :=
  match s.oldestOf v p with
  | none => (none, s)
  | some e =>
    match takeFirst p (s.queue (v * 8 + e)) with
    | none => (none, s)
    | some (j, q) => (some j, s.setQueue (v * 8 + e) q)

/-- An answer leaves the victim. -/
def Dev.answerSteal (c v : Nat) (j : Option Job) (s : Dev) : Dev :=
  { s with eng := { s.eng with steals := s.eng.steals ++ [⟨c, v, j⟩] } }

/-- A job that a request asks of a rink: stealable, of a priority that it carries, with firmware that the thief rink has loaded (R94). -/
def Dev.asked (s : Dev) (q : Ask) (j : Nat × Job) : Bool :=
  !j.2.pinned && q.prios.contains j.2.prio && bit (s.reg .RNK_FWMASK (q.thief / 32)) j.2.fwid

/-- A request reaches its victim, which answers with its oldest such job or with an empty reply (R94, R95). -/
def Dev.askArrives (q : Ask) (s : Dev) : Dev :=
  let s := { s with eng := { s.eng with asks := s.eng.asks.filter (·.thief != q.thief) } }
  if q.victim = 8 then
    match takeFirst (fun j => q.prios.contains j.2.prio) s.eng.patQ with
    | some (j, l) => (s.setQueue 64 l).answerSteal q.thief 8 (some j)
    | none => s.answerSteal q.thief 8 none
  else
    let (j, s) := s.rinkTake q.victim (s.asked q)
    s.answerSteal q.thief q.victim j

/-- The request of a context on its way to a victim that `p` selects, or the one that it sends now, or one that it may have sent before. -/
def Dev.askFor (s : Dev) (c : Nat) (p : Nat → Bool) : Option Ask :=
  match s.eng.asks.find? fun q => q.thief == c && q.sent with
  | some q => if p q.victim then some q else none
  | none =>
    match if s.asksNow c then s.askTarget c else none with
    | some v => if p v then some (s.askOf c v) else none
    | none => s.eng.asks.find? fun q => q.thief == c && p q.victim

/-- A cross-rink steal request reaches the victim, which answers (R94): one sent before, or one that the context sends as it does. -/
def Dev.stealRequest (c : Nat) (s : Dev) : Dev :=
  match s.askFor c (· < 8) with
  | some q => s.askArrives q
  | none => s

/-- A steal request reaches Patrol's stealable queue (R95). -/
def Dev.patStealRequest (c : Nat) (s : Dev) : Dev :=
  match s.askFor c (· == 8) with
  | some q => s.askArrives q
  | none => s

/-- The first answer on its way to a context, and the others. -/
def takeSteal (c : Nat) : List Steal → Option (Steal × List Steal)
  | [] => none
  | t :: l => if t.thief = c then some (t, l) else
    match takeSteal c l with
    | some (u, r) => some (u, t :: r)
    | none => none

/-- A steal reply reaches the thief (R94, R95). A stolen job that joins a queue and whose push R90 refuses there is counted as refused and lost: the
manual names no producer to which it could go back (DESIGN CHOICE: log entry 39). -/
def Dev.stealReply (c : Nat) (s : Dev) : Dev :=
  match takeSteal c s.eng.steals with
  | none => s
  | some (t, rest) =>
    let n := rinkOf c
    let s := { s with eng := { s.eng with steals := rest } }
    match t.reply with
    | none =>
      let s := s.count .RNK_XSTEAL_MISS_CNT n
      (if t.victim = 8 then s.updCtx c fun x => { x with patEmpty := true } else s).sendAsk c
    | some j =>
      let s := s.count (if t.victim = 8 then .RNK_PSTEAL_CNT else .RNK_XSTEAL_CNT) n
      if (s.ctx c).st == .idle && s.evReady c == 0 && s.accepts c j.prio then s.loadJob c j
      else (s.offer n (c / 4 % 8) (j.retarget (c / 4 % 8)) (some .steal)).2

/-- The steal window of an idle context expires: it asks where a summary bit is set (R93, R94). -/
def Dev.windowExpiry (c : Nat) (s : Dev) : Dev :=
  if (s.ctx c).st == .idle && !isPatrol c then (s.updCtx c fun x => { x with window := true }).sendAsk c else s

/-! ### RESUME, ABORT, engine loss (R87, R104, R108) -/

/-- RESUME of a FAULTED context: the faulting word is executed again from the start. -/
def Dev.ctxResume (c : Nat) (s : Dev) : Dev :=
  (s.updCtx c fun x => { x with stall := .none, walkFlt := [], aborting := false }).setSt c .run

/-- ABORT of a FAULTED context. -/
def Dev.ctxAbort (c : Nat) (s : Dev) : Dev :=
  let s := if isPatrol c then s else s.jobLost (rinkOf c) 1
  ((s.updCtx c fun x => { x with aborting := true }).abortOwned c).liftSettled c

/-- Whether a write of CTX_CTRL of a context is refused as a whole (R104, R471). -/
def Dev.ctxRefused (s : Dev) (c v : Nat) : Bool := (bit v 0 || bit v 1) && ((bit v 0 && bit v 1) || (s.ctx c).st != .faulted)

/-- A write of CTX_CTRL of a context that is not refused: RESUME or ABORT (R104, R471). -/
def Dev.ctxCtrl (c v : Nat) (s : Dev) : Dev := if bit v 0 then s.ctxResume c else if bit v 1 then s.ctxAbort c else s

/-- A context stops with its engine (R87, R108). -/
def Dev.ctxStop (c : Nat) (s : Dev) : Dev :=
  let s := if (s.ctx c).hasJob then s.jobLost (rinkOf c) 1 else s
  let s := s.abortOwned c
  (s.updCtx c fun x => { x with hasJob := false, stall := .none, walkFlt := [], aborting := false }).setSt c .stopped

/-- An engine goes offline (R108); the bit of R489 is set. -/
def Dev.engineOffline (n e : Nat) (s : Dev) : Dev :=
  if !s.engOnline n e then s
  else
    let s := s.setOnline n e false
    let s := s.each (List.range 4) fun i s => s.ctxStop (n * 32 + e * 4 + i)
    let ge := n * 8 + e
    let jobs := s.queue ge
    let a := s.fld .RNK_ENG_CFG_ALT_ENG n e
    let s := s.setQueue ge []
    let s :=
      if s.flag .RNK_ENG_CFG_ALT_EN n e && s.engOnline n a then
        let room := 64 - (s.queue (n * 8 + a)).length
        (s.setQueue (n * 8 + a) (s.queue (n * 8 + a) ++ jobs.take room)).jobLost n (jobs.length - room)
      else s.jobLost n jobs.length
    s.degrade .SYS_DEGRADED_ENGINE

/-! ### RINK reset (R109, R177, R527) -/

/-- The offsets of rink `n`: its page and the registers of its lifts. -/
def rinkRegs (n off : Nat) : Bool :=
  off / 0x10000 == 0x10 + n || (0x60000 + n * 0x100 ≤ off && off < 0x60000 + (n + 1) * 0x100)

/-- The registers that `p` selects after a reset of kind `q` (R15, R16). -/
def Dev.resetRegs (q : ResetKind) (p : Nat → Bool) (s : Dev) : Dev :=
  { s with regs := s.regs.filterMap fun (off, w) =>
      if !p off then some (off, w)
      else match regAt off with
        | none => none
        | some (r, i, _, _) =>
          let v := word (resetFieldsBy q (r.resetWord i).toNat r.info.fields w.toNat)
          if v = r.resetWord i then none else some (off, v) }

/-- What a RINK reset of rink `n`, or PD_RINKn switching off, does to its jobs, contexts, lifts, TLBs and data (R109, R177):
the jobs in its queues and the stolen jobs on their way to it are counted. The reset value of CLK_MHZ is the image's (R111). (DEDUCED: log entry 14.) -/
def Dev.rinkClear (n : Nat) (s : Dev) : Dev :=
  let queued := ((List.range 8).map fun e => (s.queue (n * 8 + e)).length).sum
  let coming := (s.eng.steals.filter fun t => t.thief / 32 == n && t.reply.isSome).length
  let s := s.countBy (queued + coming) .SMF_JOBDROP_CNT
  let inRink (k : Nat) : Bool := k / 8 == n
  let eng := { s.eng with
    ctx := Tab.clear (fun c => c / 32 == n && c < 256) s.eng.ctx,
    eng := (List.range 8).foldl (fun t e => t.upd (n * 8 + e) fun x => { (default : Eng) with pgf := x.pgf }) s.eng.eng,
    queue := Tab.clear inRink s.eng.queue,
    staged := Tab.clear (fun k => k / 1024 == n) s.eng.staged,
    asks := s.eng.asks.filter fun t => t.thief / 32 != n,
    steals := s.eng.steals.filter fun t => t.thief / 32 != n,
    tlb := Tab.clear (· == n) s.eng.tlb,
    walks := s.eng.walks.filter fun w => w.rink != n }
  let s := { s with eng := eng, lft := Tab.clear (fun l => l / 4 == n && l < 32) s.lft }
  let s := (s.resetRegs .RINK (rinkRegs n)).setFld .RNK_STATUS_CLK_MHZ (s.fld .RNK_STATUS_CLK_MHZ n) n
  s.each (List.range 32) fun k s => s.setSt (n * 32 + k) .stopped

/-- Every context of an online engine starts in RUN at word 0 (R87). -/
def Dev.rinkStart (n : Nat) (s : Dev) : Dev :=
  s.each (List.range 32) fun k s =>
    if s.engOnline n (k / 4) then
      let c := n * 32 + k
      (s.updCtx c fun x => { x with w := [], fl := default, pc := 0, hasJob := false, stall := .none, walkFlt := [] }).setSt c .run
    else s

/-- A write to the RNK page of rink `i` beside the pair registers. -/
def Dev.rnkWrite (r : Reg) (i j mid ctx v : Nat) (s : Dev) : Dev :=
  match r with
  | .RNK_PUSH => s.pushWrite i j mid ctx v
  | .RNK_TLB_INV => (s.plain r v i).tlbInvalidate i v
  | .RNK_CTX_CTRL => if s.ctxRefused (i * 32 + j) v then s.refuseWrite r i else (s.plain r v i j).ctxCtrl (i * 32 + j) v
  | .RNK_ENG_CFG =>
    let s := s.plain r v i j
    if bit v 20 then s.engineOffline i j else s
  | r => s.plain r v i j

end Sys2Proof.Machine
end

