-- ==== Sys2Proof/Machine/SwcOps.lean ====
section
/-! DEFINITION. The switch core: cells and their accounting, back-pressure, tables, the egress set, queues, internal
ports, gate lists and capture (R237 to R275). -/

namespace Sys2Proof.Machine

/-! ### Access -/

def Dev.macSt (s : Dev) (n : Nat) : MacSt := s.mac.get n

/-- The device with a MAC changed. -/
def Dev.updMac (n : Nat) (f : MacSt → MacSt) (s : Dev) : Dev := { s with mac := s.mac.upd n f }

/-- The device with the switch core changed. -/
def Dev.updSwc (f : SwcSt → SwcSt) (s : Dev) : Dev := { s with swc := f s.swc }

/-- The stored frame whose first cell stands at an address. -/
def Dev.frame (s : Dev) (cell : Nat) : FrameSt := s.swc.frames.get cell

/-- The device with a stored frame changed. -/
def Dev.updFrame (cell : Nat) (f : FrameSt → FrameSt) (s : Dev) : Dev :=
  s.updSwc fun x => { x with frames := x.frames.upd cell f }

/-- Ports of a 38-bit mask, lowest first. -/
def portsOf (mask : Nat) : List Nat := (List.range 38).filter (bit mask)

/-- Whether a port is external. -/
def isMac (p : Nat) : Bool := p < 28

/-- The even MAC of the pair of a field MAC (R222). -/
def travBase (n : Nat) : Nat := n - n % 2

/-- Whether MAC `n` is bound in traverse mode. -/
def Dev.traverse (s : Dev) (n : Nat) : Bool := 4 ≤ n && n < 20 && s.flag .MAC_TRAV_EN (travBase n)

/-- The lane of a MAC (R206). -/
def laneOf (n : Nat) : Option Nat := if n < 4 then some n else if n < 20 then some (n / 4 + 3) else none

/-- Whether the lane of a MAC loops its transmitter back to its receiver (R235). -/
def Dev.looped (s : Dev) (n : Nat) : Bool := match laneOf n with
  | some l => s.flag .SDS_CTRL_LOOP l
  | none => false

/-- A frame leaves MAC `n`; in near-end loopback it comes back to the MAC (DESIGN CHOICE: log entry 23). -/
def Dev.sends (n : Nat) (x : Sent) (s : Dev) : Dev :=
  s.updMac n fun m => { m with last := some x, loop := if s.looped n then m.loop ++ [x] else m.loop }

/-- Whether MAC `n` can send: enabled, its link up, not held idle. -/
def Dev.macSends (s : Dev) (n : Nat) : Bool :=
  s.flag .MAC_CFG_EN_TX n && s.flag .MAC_STATUS_LINK n && !s.txHeld && !s.flag .MAC_CTRL_RESET n

/-- Whether a class is scheduled (R252). -/
def Dev.schedClass (s : Dev) (c : Nat) : Bool := bit (s.fld .SWC_CFG_SCHED) c

/-! ### Cell accounting (R251 to R253) -/

/-- The cells of the buffer: 2,048 per bank of partition 0, at most 96 banks (R239). -/
def Dev.cellBanks (s : Dev) : List Nat := (s.partBanks 0).take 96

/-- The address of cell `i`. -/
def Dev.cellAddr (s : Dev) (i : Nat) : Nat := s.cellBanks.getD (i / 2048) 0 * 0x80000 + i % 2048 * 256

/-- Cells of the ports' guarantees, headrooms and reserves (R251). -/
def Dev.reserved (s : Dev) : Nat :=
  ((List.range 38).map fun p => s.fld .SWC_PORTCFG_GUAR_CELLS p + s.fld .SWC_PORTCFG_HDRM_CELLS p + s.fld .SWC_PORTRSV_SCHED_RSV p).sum

/-- Pool cells in use. -/
def Dev.poolUsed (s : Dev) : Nat := ((List.range 38).map fun p => (s.swc.use.get p).pool).sum

/-- SWC_POOL_SIZE and SWC_POOL_FREE follow the settings and the use (R251). -/
def Dev.poolShow (s : Dev) : Dev :=
  let size := s.fld .SWC_BUF_STATUS_TOTAL - s.reserved
  (s.setFld .SWC_POOL_SIZE_SIZE size).setFld .SWC_POOL_FREE_FREE (size - s.poolUsed)

/-- The cells that a port holds. -/
def PortUse.unsched (u : PortUse) : Nat := u.guar + u.pool + u.hdrm

/-- The use registers of a port follow its use. -/
def Dev.useShow (p : Nat) (s : Dev) : Dev :=
  let u := s.swc.use.get p
  (((s.setFld .SWC_PORTUSE_CELLS (u.unsched + u.sched) p).setFld .SWC_PORTUSE2_HDRM_USED u.hdrm p).setFld
    .SWC_PORTUSE2_SCHED_USED u.sched p).poolShow

/-- The device with the use of a port changed. -/
def Dev.updUse (p : Nat) (f : PortUse → PortUse) (s : Dev) : Dev :=
  (s.updSwc fun x => { x with use := x.use.upd p f }).useShow p

/-- The address to which flow-control frames go. -/
def fcAddr : Nat := 0x0180C2000001

/-- A flow-control frame leaves MAC `n`. -/
def Dev.controlOut (n : Nat) (f : Frame) (s : Dev) : Dev := (s.sends n ⟨f, none, false⟩).count .MAC_TX_PAUSE_CNT n

/-- A MAC sends a flow-control frame of opcode and parameters, behind the frame in transmission (R219); in traverse mode flow control is
inactive (R222). -/
def Dev.sendControl (n op : Nat) (params : List Byte) (s : Dev) : Dev :=
  if !s.macSends n || s.traverse n then s
  else
    let f : Frame := beBytes 6 fcAddr ++ beBytes 6 (s.reg64 .MAC_SA_LOW .MAC_SA_HIGH n) ++ beBytes 2 0x8808 ++ beBytes 2 op ++ params
    let f := (f.padTo 60).withFcs
    if (s.macSt n).tx.isSome then s.updMac n fun m => { m with ctl := m.ctl ++ [f] } else s.controlOut n f

/-- A PAUSE frame. -/
def Dev.sendPause (n quanta : Nat) (s : Dev) : Dev := s.sendControl n 1 (beBytes 2 quanta)

/-- A PFC frame that names one class; a class in EXEMPT is never named (R219). -/
def Dev.sendPfc (n c quanta : Nat) (s : Dev) : Dev :=
  if bit (s.fld .MAC_FC_CFG_EXEMPT n) c then s
  else s.sendControl n 0x101 (beBytes 2 (2 ^ c) ++ (List.range 8).flatMap fun i => beBytes 2 (if i = c then quanta else 0))

/-- The new state of an assertion from its count, its thresholds and the pool (R253); `draws`: cells come from the pool. -/
def Dev.bpNext (s : Dev) (p u : Nat) (draws now : Bool) : Bool :=
  let free := s.fld .SWC_POOL_FREE_FREE
  if s.fld .SWC_PORTTH_XOFF_CELLS p < u || (free < s.fld .SWC_POOL_CFG_XOFF_FREE && draws) then true
  else if u ≤ s.fld .SWC_PORTTH_XON_CELLS p && s.fld .SWC_POOL_CFG_XON_FREE ≤ free then false
  else now

/-- Back-pressure of external port `p` is evaluated (R253). -/
def Dev.bpUpdate (p : Nat) (s : Dev) : Dev :=
  if !isMac p then s
  else
    let u := s.swc.use.get p
    let mode := s.fld .MAC_FC_CFG_MODE p
    let quanta := s.fld .MAC_FC_TIME_QUANTA p
    let x := s.flag .SWC_PORTBP_XOFF p
    let x' := mode == 1 && s.bpNext p u.unsched (u.pool != 0) x
    let s := s.setFlag .SWC_PORTBP_XOFF x' p
    let s := if x' && !x then (s.count .SWC_XOFF_CNT p).sendPause p quanta
      else if x && !x' && mode == 1 then s.sendPause p 0 else s
    s.each (List.range 8) fun c s =>
      let k := s.fld .SWC_PORTBP_XOFF_CLASS p
      let x := bit k c
      let n := u.cls.get c
      let x' := mode == 2 && !s.schedClass c && s.bpNext p n (u.clsPool.get c != 0) x
      let s := s.setFld .SWC_PORTBP_XOFF_CLASS (putBit k c x') p
      if x' && !x then (s.count .SWC_XOFF_CNT p).sendPfc p c quanta
      else if x && !x' && mode == 2 then s.sendPfc p c 0 else s

/-- Every port's back-pressure is evaluated. -/
def Dev.bpAll (s : Dev) : Dev := s.each (List.range 28) Dev.bpUpdate

/-- Whether port and class are asserted (R252). -/
def Dev.asserted (s : Dev) (p c : Nat) : Bool := s.flag .SWC_PORTBP_XOFF p || bit (s.fld .SWC_PORTBP_XOFF_CLASS p) c

/-- A cell of port `p` and class `c` is charged to its source; `none` where no source gives it (R252, R255). (DEDUCED: log entry 22.) -/
def Dev.chargeCell (p c : Nat) (sched : Bool) (s : Dev) : Option Dev :=
  let u := s.swc.use.get p
  let cls := u.cls.set c (u.cls.get c + 1)
  if sched then
    if u.sched < s.fld .SWC_PORTRSV_SCHED_RSV p then some (s.updUse p fun u => { u with sched := u.sched + 1 }) else none
  else if u.guar < s.fld .SWC_PORTCFG_GUAR_CELLS p then some ((s.updUse p fun u => { u with guar := u.guar + 1, cls := cls }).bpUpdate p)
  else if !s.asserted p c && s.fld .SWC_POOL_FREE_FREE != 0 then
    some ((s.updUse p fun u => { u with pool := u.pool + 1, cls := cls, clsPool := u.clsPool.set c (u.clsPool.get c + 1) }).bpAll)
  else if u.hdrm < s.fld .SWC_PORTCFG_HDRM_CELLS p then some ((s.updUse p fun u => { u with hdrm := u.hdrm + 1, cls := cls }).bpUpdate p)
  else none

/-- The class whose pool cell a returned cell of class `c` counts as: its own where it holds one, else the lowest-numbered that does (DESIGN
CHOICE, log entry 22). -/
def PortUse.poolClass (u : PortUse) (c : Nat) : Nat :=
  if u.clsPool.get c ≠ 0 then c else ((List.range 8).find? fun k => u.clsPool.get k != 0).getD c

/-- A class that would hold more cells of the pool than cells hands one to the lowest-numbered class whose cells do not all count as the pool's: the
sources of a port's cells are its own, not a class's (DESIGN CHOICE, log entry 22). -/
def PortUse.poolFit (u : PortUse) (c : Nat) : PortUse :=
  if u.clsPool.get c ≤ u.cls.get c then u
  else match (List.range 8).find? fun k => u.clsPool.get k < u.cls.get k with
    | some k => { u with clsPool := (u.clsPool.set c (u.cls.get c)).set k (u.clsPool.get k + 1) }
    | none => { u with clsPool := u.clsPool.set c (u.cls.get c) }

/-- A cell of port `p` and class `c` returns: to headroom, then to the pool, then to guaranteed (R252). -/
def PortUse.freeCell (u : PortUse) (c : Nat) (sched : Bool) : PortUse :=
  if sched then { u with sched := u.sched - 1 }
  else
    let u := { u with cls := u.cls.set c (u.cls.get c - 1) }
    if u.hdrm ≠ 0 then { u with hdrm := u.hdrm - 1 }.poolFit c
    else if u.pool ≠ 0 then
      let k := u.poolClass c
      { u with pool := u.pool - 1, clsPool := u.clsPool.set k (u.clsPool.get k - 1) }
    else { u with guar := u.guar - 1 }.poolFit c

/-- `k` cells of a port and class return. -/
def PortUse.freeCells (c : Nat) (sched : Bool) : Nat → PortUse → PortUse
  | 0, u => u
  | k + 1, u => PortUse.freeCells c sched k (u.freeCell c sched)

/-- `k` cells return and every assertion is evaluated (R257). -/
def Dev.uncharge (p c : Nat) (sched : Bool) (k : Nat) (s : Dev) : Dev :=
  (s.updUse p fun u => PortUse.freeCells c sched k u).bpAll

/-- The first number from `i` on, cyclic below `n`, that `ok` takes. -/
def findCyclic (ok : Nat → Bool) (n : Nat) : Nat → Nat → Option Nat
  | 0, _ => none
  | k + 1, i => if ok (i % n) then some (i % n) else findCyclic ok n k (i + 1)

/-- Whether a cell holds part of a stored frame. -/
def Dev.cellUsed (s : Dev) (a : Nat) : Bool := s.swc.frames.any fun e => e.2.cells.contains a

/-- A free cell in another bank than the last cell of the frame where there is one; which is open (R239, DESIGN CHOICE, log entry 9). -/
def Dev.pickCell (cells : List Nat) (s : Dev) : Option Nat × Dev :=
  let (v, s) := s.fresh
  let n := s.fld .SWC_BUF_STATUS_TOTAL
  let free (i : Nat) : Bool := let a := s.cellAddr i; !cells.contains a && !s.cellUsed a
  let other (i : Nat) : Bool := match cells.getLast? with
    | some l => free i && bankOf (s.cellAddr i) != bankOf l
    | none => free i
  match findCyclic other n n (v % n) with
  | some i => (some (s.cellAddr i), s)
  | none => ((findCyclic free n n (v % n)).map s.cellAddr, s)

/-- `k` cells are allocated one after another; on failure all of them are freed (R252, R255). -/
def Dev.allocCells (p c : Nat) (sched : Bool) : Nat → List Nat → Dev → Option (List Nat) × Dev
  | 0, cells, s => (some cells, s)
  | k + 1, cells, s =>
    match s.chargeCell p c sched with
    | none => (none, s.uncharge p c sched cells.length)
    | some s' =>
      match s'.pickCell cells with
      | (some a, s') => s'.allocCells p c sched k (cells ++ [a])
      | (none, s') => (none, s'.uncharge p c sched (cells.length + 1))

/-- Cells of a frame of `n` stored bytes (R239). -/
def cellsFor (n : Nat) : Nat := (n + 239) / 240

/-! ### Capture (R268 to R270) -/

/-- What is captured: port, direction (0 ingress, 1 egress), REASON, class, EtherType, stored length, stamp, time base. -/
structure CapInfo where
  port : Nat
  dir : Nat
  reason : Nat
  cls : Nat
  ts : Nat
  tb : Nat
  flen : Nat
  first : Frame
deriving DecidableEq, Repr, Inhabited

/-- Whether a capture rule matches (R268). -/
def Dev.capRule (s : Dev) (x : CapInfo) (k : Nat) : Bool :=
  let dir := s.fld .SWC_CAPR_DIR k
  let port := s.fld .SWC_CAPR_PORT k
  (if x.reason = 0 then dir == x.dir + 1 else dir == 3)
    && (port == 63 || port == x.port) && bit (s.fld .SWC_CAPR_CLASSES k) x.cls
    && (!s.flag .SWC_CAPR_ETYPE_ETYPE_EN k || s.fld .SWC_CAPR_ETYPE_ETYPE k == x.first.etype)

/-- The words and bytes of a record (R269). -/
def CapInfo.record (x : CapInfo) (rule rseq lost : Nat) : List Byte :=
  leBytes 4 (x.ts / 256)
    ++ leBytes 4 (x.ts % 256 + x.tb * 2 ^ 8 + x.port * 2 ^ 10 + x.dir * 2 ^ 16 + x.cls * 2 ^ 17 + rule * 2 ^ 20
      + b2n (128 < x.flen) * 2 ^ 23 + x.reason * 2 ^ 24)
    ++ leBytes 4 (x.flen + rseq % 2 ^ 16 * 2 ^ 16) ++ leBytes 4 lost ++ (x.first.padTo 128).take 128

/-- A capture is lost. -/
def Dev.capLose (s : Dev) : Dev :=
  (s.updSwc fun w => { w with capSeq := w.capSeq + 1, capLost := w.capLost + 1 }).count .SWC_CAP_LOST_CNT

/-- The oldest record that waits is written to the ring (R269, R270). -/
def Dev.capWrite (s : Dev) : Dev :=
  match s.swc.capQ with
  | [] => s
  | r :: rest =>
    let wr := s.fld .SWC_CAP_WR_INDEX
    let s := s.physWrite 0x70 (s.reg64 .SWC_CAP_BASE_LOW .SWC_CAP_BASE_HIGH + 144 * wr) r
    let s := s.updSwc fun w => { w with capQ := rest }
    ((s.setFld .SWC_CAP_WR_INDEX ((wr + 1) % max 1 (s.fld .SWC_CAP_CFG_RECORDS))).count .SWC_CAP_CNT).when (s.flag .SWC_CAP_DB_EN) fun s =>
      s.ringMask (s.fld .SWC_CAP_DB_TARGET) (2 ^ s.fld .SWC_CAP_DB_BIT)

/-- A frame passes the capture rules; `ue` where its cells cannot be read (R268, R270, R271). Its record waits until the core writes it; a
ring that the records waiting will fill counts as full (DEDUCED: log entry 22). -/
def Dev.capture (x : CapInfo) (ue : Bool) (s : Dev) : Dev :=
  if !s.flag .SWC_CAP_CFG_EN then s
  else
    let hits := (List.range 8).filter (s.capRule x)
    let takes (k : Nat) : Bool := s.swc.capMatch.get k % max 1 (s.fld .SWC_CAPR_SAMPLE k) == 0
    let rule := hits.find? takes
    let s := s.updSwc fun w => { w with capMatch := hits.foldl (fun t k => t.upd k (· + 1)) w.capMatch }
    match rule with
    | none => s
    | some k =>
      if ue then s.capLose.count .SWC_CELL_UE_CNT x.port
      else
        let n := s.fld .SWC_CAP_CFG_RECORDS
        let nxt := (s.fld .SWC_CAP_WR_INDEX + s.swc.capQ.length + 1) % max 1 n
        if n = 0 ∨ nxt = s.fld .SWC_CAP_RD_INDEX ∨ 64 < s.swc.capQ.length then s.capLose
        else
          let r := x.record k s.swc.capSeq s.swc.capLost
          s.updSwc fun w => { w with capSeq := w.capSeq + 1, capLost := 0, capQ := w.capQ ++ [r] }

/-! ### Cells in memory (R240) -/

/-- The bytes of cell `i` of a frame: header and data. -/
def cellBytes (x : FrameSt) (stored : Frame) (i : Nat) : List Byte :=
  let next := x.cells.getD (i + 1) 0
  let hdr := if i = 0 then
      leBytes 2 (x.flen + b2n x.noFcs * 2 ^ 14) ++ leBytes 1 x.port ++ leBytes 1 (x.cls + b2n x.tagged * 8)
        ++ leBytes 2 (x.vid + x.pcp * 2 ^ 13) ++ leBytes 2 x.seq ++ leBytes 4 0
    else leBytes 12 0
  leBytes 4 next ++ hdr ++ (stored.drop (i * 240)).take 240

/-- The cells of a frame are written. -/
def Dev.writeCells (x : FrameSt) (stored : Frame) (s : Dev) : Dev :=
  s.each (List.range x.cells.length) fun i s => s.physWrite 0x70 (x.cells.getD i 0) (cellBytes x stored i)

/-- The stored bytes of a frame, read cell by cell by a master. -/
def Dev.readCellsBy (mid : Nat) : List Nat → Nat → Dev → RdRes × Dev
  | [], _, s => (⟨[], false⟩, s)
  | a :: t, n, s =>
    let (r, s) := s.physRead mid (a + 16) (min n 240)
    let (q, s) := Dev.readCellsBy mid t (n - min n 240) s
    (⟨r.data ++ q.data, r.ue || q.ue⟩, s)

/-- The stored bytes of a frame, read by the switch core. -/
def Dev.readCells (l : List Nat) (n : Nat) (s : Dev) : RdRes × Dev := Dev.readCellsBy 0x70 l n s

/-- A discard or ended copy of a stored frame passes the capture rules. -/
def Dev.captureCopy (cell port dir reason : Nat) (s : Dev) : Dev :=
  let x := s.frame cell
  if !s.flag .SWC_CAP_CFG_EN then s
  else
    let (r, s) := Dev.readCells (x.cells.take 1) (min x.flen 128) s
    s.capture ⟨port, dir, reason, x.cls, x.ts, x.tb, x.flen, r.data⟩ r.ue

/-! ### Copies (R241, R246, R256) -/

/-- EGR_CELLS of a port changes. -/
def Dev.egrCells (p : Nat) (f : Nat → Nat) (s : Dev) : Dev := s.setFld .SWC_PORTQ_EGR_CELLS (f (s.fld .SWC_PORTQ_EGR_CELLS p)) p

/-- A copy of a frame ends at port `p`; the frame's cells are freed after the last copy (R241). -/
def Dev.endCopy (cell p : Nat) (s : Dev) : Dev :=
  let x := s.frame cell
  let s := s.egrCells p (· - x.cells.length)
  if 1 < x.refs then s.updFrame cell fun x => { x with refs := x.refs - 1 }
  else (s.updFrame cell fun _ => default).uncharge x.port x.cls x.sched x.cells.length

/-- A copy ends untransmitted on MAC `n`: the entry of R290 with NOTSENT. -/
def Dev.notSent (n cell : Nat) (s : Dev) : Dev :=
  match (s.frame cell).tsId with
  | some id =>
    let tb := s.fld .MAC_CFG_TB n
    let v := s.copyVal islSwitch tb
    s.txtsAdd n ⟨id, tbNs v, tbFrac v, tb, true⟩
  | none => s

/-- A copy of port `p` ends untransmitted, with the entry of R290 on a MAC. -/
def Dev.dropCopy (cell p : Nat) (s : Dev) : Dev := (if isMac p then s.notSent p cell else s).endCopy cell p

/-- Whether the router of rink `n` shows ACTIVE (R110). -/
def Dev.routeActive (s : Dev) (n : Nat) : Bool := s.routeFails n

/-- Whether a port is down (R246). -/
def Dev.portDown (s : Dev) (p : Nat) : Bool :=
  if isMac p then !s.flag .MAC_STATUS_LINK p || s.traverse p
  else if p < 36 then s.routeActive (p - 28)
  else false

/-- Cells of multicast copies queued for a port (R256). -/
def Dev.mcCells (s : Dev) (q : Nat) : Nat :=
  (((s.swc.egr.get q).filter (·.mc)).map fun c => (s.frame c.cell).cells.length).sum

/-- Port rate in kb/s. -/
def rateKbps : Nat → Nat
  | 0 => 10000
  | 1 => 100000
  | 2 => 1000000
  | 3 => 2500000
  | 4 => 5000000
  | 5 => 10000000
  | _ => 25000000

/-- Whether copies of class `c` wait on MAC `n`, the selected one among them, and whether one is being transmitted. -/
def Dev.classWaits (s : Dev) (n c : Nat) : Bool := ((s.swc.egr.get n).any fun k => k.cls == c) || ((s.macSt n).sel.map (·.cls)) == some c
def Dev.classSends (s : Dev) (n c : Nat) : Bool := ((s.macSt n).tx.map (·.cls)) == some c

/-- A credit after `dt` nanoseconds in which the gate, the queue and the transmitter stay as given (R263): it is held while the gate is closed,
falls while the class transmits, rises while copies wait, and is 0 for an empty queue with positive credit. -/
def Dev.creditRun (s : Dev) (n c : Nat) (gate sends waits : Bool) (dt : Nat) (v : Int) : Int :=
  let slope : Int := s.fld .SWC_CBS_SLOPE_IDLE_KBPS n c
  let v := if !gate then v
    else if sends then v + (slope - rateKbps (s.fld .MAC_STATUS_SPEED n)) * dt
    else if waits then v + slope * dt
    else v
  let v := min v (s.fld .SWC_CBS_LIM_HI_BYTES n c * 8000000)
  let v := max v (-(s.fld .SWC_CBS_LIM_LO_BYTES n c * 8000000 : Nat))
  if !waits && !sends && 0 < v then 0 else v

/-- The credits of a MAC move on by `dt` nanoseconds of its present state; every tick moves them by its own time (R263; DESIGN CHOICE: log entry 11). -/
def Dev.creditStep (n dt : Nat) (s : Dev) : Dev :=
  if s.fld .SWC_GCL_CFG_CBS_EN n = 0 then s.updMac n fun m => { m with credit := [] }
  else s.updMac n fun m => { m with credit := (List.range 8).foldl (fun t c => t.set c
    (if bit (s.fld .SWC_GCL_CFG_CBS_EN n) c then
      s.creditRun n c (bit (s.fld .SWC_GCL_STAT_GATES n) c) (s.classSends n c) (s.classWaits n c) dt (m.credit.get c) else 0)) m.credit }

/-- Whether a class is stopped by PAUSE or PFC (R218). -/
def Dev.stopped (s : Dev) (n c : Nat) : Bool :=
  !bit (s.fld .MAC_FC_CFG_EXEMPT n) c && (s.flag .MAC_STATUS_PAUSED n || bit (s.fld .MAC_STATUS_PFC_PAUSED n) c)

/-- The copy selected on a MAC goes back to the head of its queue: its class has been stopped before its start (R218). -/
def Dev.unselect (n : Nat) (s : Dev) : Dev :=
  match (s.macSt n).sel with
  | none => s
  | some c => (s.updSwc fun w => { w with egr := w.egr.upd n (c :: ·) }).updMac n fun m => { m with sel := none }

/-- A copy joins the queue of port `q`. -/
def Dev.queueCopy (q : Nat) (c : Copy) (s : Dev) : Dev :=
  let s := s.when (isMac q) (Dev.creditStep q 0)
  let n := (s.frame c.cell).cells.length
  let s := (s.updFrame c.cell fun x => { x with refs := x.refs + 1 }).egrCells q (· + n)
  (s.updSwc fun w => { w with egr := w.egr.upd q (· ++ [c]) }).count .SWC_OUT_CNT q

/-- A copy is queued for port `q` under R246 and R256, or counted; a frame is queued at most once for a port (R241). -/
def Dev.enqueueCopy (q : Nat) (c : Copy) (s : Dev) : Dev :=
  if (s.swc.egr.get q).any (·.cell == c.cell) then s
  else if s.portDown q || s.fld .SWC_PORTMODE_STATE q != 2 then (s.count .SWC_SKIP_CNT q).captureCopy c.cell q 1 5
  else if c.mc && s.fld .SWC_PORTRSV_MC_LIMIT q ≤ s.mcCells q then (s.count .SWC_MC_DROP_CNT q).captureCopy c.cell q 1 6
  else s.queueCopy q c

/-- Every copy queued for a MAC ends (DOWN_FLUSH, R246); a copy in transmission goes on. -/
def Dev.flushPort (n : Nat) (s : Dev) : Dev :=
  let l := s.swc.egr.get n
  let sel := (s.macSt n).sel
  let s := (s.updSwc fun w => { w with egr := w.egr.set n [] }).updMac n fun m => { m with sel := none }
  s.each (sel.toList ++ l) fun c s => ((s.captureCopy c.cell n 1 7).dropCopy c.cell n).count .SWC_FLUSH_CNT n

/-- At a RINK reset of rink `n` every copy that port 28 + n holds ends (R248). -/
def Dev.flushHeld (n : Nat) (s : Dev) : Dev :=
  let l := s.swc.held.get (28 + n)
  let s := s.updSwc fun w => { w with held := w.held.set (28 + n) [] }
  s.each l fun h s => ((s.captureCopy h.cell (28 + n) 1 7).endCopy h.cell (28 + n)).count .SWC_FLUSH_CNT (28 + n)

/-! ### Tables (R244, R245, R264, R265) -/

/-- The bucket of an address and VID; the manual gives no hash (DESIGN CHOICE, log entry 9). -/
def fdbBucket (addr vid : Nat) : Nat := Config.fdbHash (addr * 4096 + vid) % 4096

/-- Fields of an FDB or STREAM entry. -/
def TblE.valid (e : TblE) : Bool := bit e.d1 28
def TblE.addr (e : TblE) : Nat := e.d0 + bits e.d1 15 0 * 2 ^ 32
def TblE.vid (e : TblE) : Nat := bits e.d1 27 16
def TblE.isStatic (e : TblE) : Bool := bit e.d1 29
def TblE.isMc (e : TblE) : Bool := bit e.d1 30
def TblE.dest (e : TblE) : Nat := bits e.d2 11 0

/-- CB_EN, METER_EN, MAX_SDU, CBS, CIR of a STREAM entry. -/
def TblE.cbEn (e : TblE) : Bool := bit e.d1 29
def TblE.meterEn (e : TblE) : Bool := bit e.d1 30
def TblE.maxSdu (e : TblE) : Nat := bits e.d2 13 0
def TblE.cbs (e : TblE) : Nat := bits e.d2 31 16
def TblE.cir (e : TblE) : Nat := bits e.d3 23 0

/-- Whether an entry is valid and has a key. (DEDUCED: log entry 22.) -/
def TblE.isKey (e : TblE) (addr vid : Nat) : Bool := e.valid && e.addr == addr && e.vid == vid

/-- Indices of a bucket. -/
def bucketIdx (addr vid : Nat) : List Nat := (List.range 8).map (fdbBucket addr vid * 8 + ·)

/-- The FDB entry of a key. -/
def Dev.fdbFind (s : Dev) (addr vid : Nat) : Option Nat := (bucketIdx addr vid).find? fun i => (s.swc.fdb.get i).isKey addr vid

/-- A free index of a bucket; which of several is open (DESIGN CHOICE, log entry 9). -/
def Dev.fdbFree (addr vid : Nat) (s : Dev) : Option Nat × Dev :=
  match (bucketIdx addr vid).filter fun i => !(s.swc.fdb.get i).valid with
  | [] => (none, s)
  | l =>
    let (v, s) := s.fresh
    (l[v % l.length]?, s)

/-- The device with an FDB entry. -/
def Dev.setFdb (i : Nat) (e : TblE) (s : Dev) : Dev := s.updSwc fun w => { w with fdb := w.fdb.set i e }

/-- Learning (R244): a static entry of the key stays; where the bucket then holds no free entry, the frame counts as not learned. (DEDUCED: log entry 22.) -/
def Dev.learn (addr vid port : Nat) (s : Dev) : Dev :=
  let e : TblE := ⟨addr % 2 ^ 32, addr / 2 ^ 32 + vid * 2 ^ 16 + 2 ^ 28, port, 0⟩
  match s.fdbFind addr vid with
  | some i =>
    if !(s.swc.fdb.get i).isStatic then (s.setFdb i e).count .SWC_LEARN_CNT
    else if (bucketIdx addr vid).all fun k => (s.swc.fdb.get k).valid then s.count .SWC_LEARN_FULL_CNT
    else s
  | none =>
    match s.fdbFree addr vid with
    | (some i, s) => (s.setFdb i e).count .SWC_LEARN_CNT
    | (none, s) => s.count .SWC_LEARN_FULL_CNT

/-- A dynamic entry is removed by aging (R244). -/
def Dev.fdbAge (i : Nat) (s : Dev) : Dev :=
  let e := s.swc.fdb.get i
  if e.valid && !e.isStatic && s.fld .SWC_AGE_CFG_AGE_S != 0 then s.setFdb i default else s

/-- Member ports of a VLAN, and whether its entry is valid. -/
def TblE.members (e : TblE) : Nat := e.d0 + bits e.d1 5 0 * 2 ^ 32
def TblE.untagged (e : TblE) : Nat := e.d2 + bits e.d3 5 0 * 2 ^ 32
def TblE.vlanValid (e : TblE) : Bool := bit e.d3 8

/-- The lookup result of R244 as a port mask, whether its copies are multicast copies, and whether the frame floods. (DEDUCED: log entry 22.) -/
def Dev.lookup (s : Dev) (addr vid : Nat) : Nat × Bool × Bool :=
  let flood := ((List.range 38).filter fun p => bit (s.swc.vlan.get vid).members p && s.flag .SWC_PORTMODE_FLOOD_EN p).foldl
    (fun m p => putBit m p true) 0
  if addr = broadcast then (flood, true, true)
  else match s.fdbFind addr vid with
    | some i =>
      let e := s.swc.fdb.get i
      if e.isMc then ((s.swc.mcg.get e.dest).members, true, false) else (2 ^ e.dest, false, false)
    | none => (flood, true, true)

/-- The stream of a destination and VID (R264). -/
def Dev.streamFind (s : Dev) (addr vid : Nat) : Option Nat :=
  (List.range 1024).find? fun i => (s.swc.stream.get i).isKey addr vid

/-- The meter of a stream takes a frame of `n` bytes, `gap` nanoseconds after it was looked at last; `none` where fewer
tokens are there (R264). Tokens count in 10^-6 bit. -/
def TblE.meterTake (e : TblE) (missing gap n : Nat) : Nat × Bool :=
  let full := e.cbs * 64 * 8 * 1000000
  let missing := missing - e.cir * 64 * gap
  let need := n * 8 * 1000000
  if missing + need ≤ full then (missing + need, true) else (missing, false)

/-- Vector recovery of IEEE 802.1CB with a history of 32 (R265): the new state, and whether the frame is taken. -/
def SeqRec.accept (r : SeqRec) (seq : Nat) : SeqRec × Bool :=
  if !r.taken then (⟨true, seq, 1⟩, true)
  else
    let up := (seq + 65536 - r.recSeq) % 65536
    if up = 0 then (r, false)
    else if up < 32 then (⟨true, seq, (r.hist * 2 ^ up + 1) % 2 ^ 32⟩, true)
    else
      let down := 65536 - up
      if 32 ≤ down then (r, false)
      else if bit r.hist down then (r, false)
      else ({ r with hist := putBit r.hist down true }, true)

/-- The table entry of a table number and index. -/
def Dev.tblGet (s : Dev) (t i : Nat) : TblE :=
  match t with
  | 0 => s.swc.fdb.get i
  | 1 => s.swc.vlan.get i
  | 2 => s.swc.mcg.get i
  | _ => s.swc.stream.get i

/-- Bits that an entry of a table has. -/
def tblMask : Nat → TblE
  | 0 => ⟨0xFFFFFFFF, 0x7FFFFFFF, 0xFFF, 0⟩
  | 1 => ⟨0xFFFFFFFF, 0x3F, 0xFFFFFFFF, 0x13F⟩
  | 2 => ⟨0xFFFFFFFF, 0x3F, 0, 0⟩
  | _ => ⟨0xFFFFFFFF, 0x7FFFFFFF, 0xFFFF3FFF, 0xFFFFFF⟩

/-- An entry of a table is written; a stream's meter is then full and its recovery starts anew (R264). -/
def Dev.tblSet (t i : Nat) (e : TblE) (s : Dev) : Dev :=
  let m := tblMask t
  let e : TblE := ⟨e.d0 &&& m.d0, e.d1 &&& m.d1, e.d2 &&& m.d2, e.d3 &&& m.d3⟩
  s.updSwc fun w =>
    match t with
    | 0 => { w with fdb := w.fdb.set i e }
    | 1 => { w with vlan := w.vlan.set i e }
    | 2 => { w with mcg := w.mcg.set i e }
    | _ => { w with stream := w.stream.set i e, meter := w.meter.set i 0, rec_ := w.rec_.set i default }

/-- Entries of a table. -/
def tblSize : Nat → Nat
  | 0 => 32768
  | 1 => 4096
  | 2 => 4096
  | _ => 1024

/-- The data words. -/
def Dev.tblData (s : Dev) : TblE := ⟨s.reg .SWC_TBL_DATA 0, s.reg .SWC_TBL_DATA 1, s.reg .SWC_TBL_DATA 2, s.reg .SWC_TBL_DATA 3⟩

/-- The data words take an entry. -/
def Dev.tblShow (e : TblE) (s : Dev) : Dev :=
  (((s.setReg .SWC_TBL_DATA e.d0 0).setReg .SWC_TBL_DATA e.d1 1).setReg .SWC_TBL_DATA e.d2 2).setReg .SWC_TBL_DATA e.d3 3

/-- The index of a key in table 0 or 3. -/
def Dev.tblFind (s : Dev) (t : Nat) (e : TblE) : Option Nat :=
  if t = 0 then s.fdbFind e.addr e.vid else s.streamFind e.addr e.vid

/-- A free index for a key in table 0 or 3; which of several is open (DESIGN CHOICE, log entry 9). -/
def Dev.tblFree (t : Nat) (e : TblE) (s : Dev) : Option Nat × Dev :=
  if t = 0 then s.fdbFree e.addr e.vid
  else
    let (v, s) := s.fresh
    (findCyclic (fun i => !(s.swc.stream.get i).valid) 1024 1024 (v % 1024), s)

/-- The command runs: BUSY, and what TBL_DONE will show. -/
def Dev.tblRun (res idx : Nat) (s : Dev) : Dev :=
  (s.updSwc fun w => { w with tblRes := res, tblIdx := idx }).setFlag .SWC_TBL_STATUS_BUSY true

/-- A legal command takes effect (R245). -/
def Dev.tblExec (t op i : Nat) (s : Dev) : Dev :=
  match op with
  | 0 => if i < tblSize t then (s.tblShow (s.tblGet t i)).tblRun 0 i else s.tblRun 3 i
  | 1 => if i < tblSize t then (s.tblSet t i s.tblData).tblRun 0 i else s.tblRun 3 i
  | 2 => match s.tblFind t s.tblData with
    | some k => (s.tblShow (s.tblGet t k)).tblRun 0 k
    | none => s.tblRun 1 0
  | 3 => match s.tblFind t s.tblData with
    | some k => (s.tblSet t k s.tblData).tblRun 0 k
    | none => match s.tblFree t s.tblData with
      | (some k, s) => (s.tblSet t k s.tblData).tblRun 0 k
      | (none, s) => s.tblRun 2 0
  | _ => match s.tblFind t s.tblData with
    | some k => (s.tblSet t k default).tblRun 0 k
    | none => s.tblRun 1 0

/-- A write of SWC_TBL_CMD (R245); the reserved bits of one that is refused while BUSY count under R9 beside the refusal.
(DEDUCED: log entry 22.) -/
def Dev.tblCmd (v : Nat) (s : Dev) : Dev :=
  if s.flag .SWC_TBL_STATUS_BUSY then
    let s := s.count .SWC_TBL_REFUSE_CNT
    if bits v 15 6 = 0 then s else s.refuseWrite .SWC_TBL_CMD
  else
    let t := bits v 2 0
    let op := bits v 5 3
    let ok := t ≤ 3 && (op ≤ 1 || (op ≤ 4 && (t == 0 || t == 3)))
    if ok then (s.plain .SWC_TBL_CMD v).tblExec t op (bits v 31 16)
    else (s.refuseWrite .SWC_TBL_CMD).setFld .SWC_TBL_STATUS_RESULT 3

/-- The command completes (R245). -/
def Dev.tblDone (s : Dev) : Dev :=
  if s.flag .SWC_TBL_STATUS_BUSY then
    ((s.setFlag .SWC_TBL_STATUS_BUSY false).setFld .SWC_TBL_STATUS_RESULT s.swc.tblRes).setFld .SWC_TBL_STATUS_INDEX s.swc.tblIdx
  else s

/-! ### Internal ports (R248 to R250, R254) -/

/-- The internal port of a master ID. -/
def portOfMid (mid : Nat) : Option Nat :=
  if mid < 0x40 then some (28 + mid / 8)
  else if mid = 0x40 then some 36
  else if mid = 0x41 then some 37
  else none

/-- The copy of a frame that an internal port holds. -/
def Dev.holds (s : Dev) (p cell : Nat) : Option Held := (s.swc.held.get p).find? fun h => h.cell == cell

/-- What is known of a held copy changes. -/
def Dev.updHeld (p cell : Nat) (f : Held → Held) (s : Dev) : Dev :=
  s.updSwc fun w => { w with held := w.held.upd p (List.map fun h => if h.cell == cell then f h else h) }

/-- Cells of the copies that an internal port holds. -/
def Dev.heldCells (s : Dev) (p : Nat) : Nat := ((s.swc.held.get p).map fun h => (s.frame h.cell).cells.length).sum

/-- The job of a copy for a rink (R214, R248). -/
def Dev.copyJob (s : Dev) (p : Nat) (c : Copy) : Job :=
  let x := s.frame c.cell
  let (w0, w5) := match c.pm with
    | some k => (s.reg .MAC_PM_JOB0 (k / 16) (k % 16), s.reg .MAC_PM_TAG (k / 16) (k % 16))
    | none => (s.reg .SWC_IJOB0 (p - 28), s.reg .SWC_IJOBTAG (p - 28))
  let src := if isMac x.port then x.port else 0xF0
  jobWords w0 c.cell x.flen src 0 x.ts x.tb w5

/-- The mailbox that takes the next notice of a port: MBOX to MBOX + MBOX_CNT − 1 in turn, FULL ones skipped (R249). -/
def Dev.freeMbox (s : Dev) (p : Nat) : Option Nat :=
  let m := s.fld .SWC_IPORT_MBOX (p - 28)
  let n := s.fld .SWC_IPORT_MBOX_CNT (p - 28)
  (findCyclic (fun i => !s.flag .MBX_STATUS_FULL ((m + i) % 256)) n n (s.swc.mboxNext.get p)).map fun i => (m + i) % 256

/-- The oldest copy of class `cls` in a queue, and the rest. -/
def takeCopy (cls : Nat) : List Copy → Option (Copy × List Copy)
  | [] => none
  | c :: t => if c.cls = cls then some (c, t) else
    match takeCopy cls t with
    | some (d, r) => some (d, c :: r)
    | none => none

/-- Whether a push of an internal port waits at a full queue: the copies behind it wait too, as one delivered past it would break the order of R247. -/
def Dev.portWaits (s : Dev) (p : Nat) : Bool :=
  (List.range 64).any fun e => (s.eng.waiting.get e).any fun x => match x.1 with
    | .swc q _ => q == p
    | _ => false

/-- The oldest copy of class `cls` for internal port `p` is delivered when room allows (R248, R249). A copy whose push waits (R90) has left the egress
queue and is held from the moment at which the push enters. (DEDUCED: log entry 23.) -/
def Dev.deliverCopy (p cls : Nat) (s : Dev) : Dev :=
  if s.fld .SWC_IPORT_HOLD_MAX (p - 28) ≤ s.heldCells p || s.portWaits p then s
  else match takeCopy cls (s.swc.egr.get p) with
    | none => s
    | some (c, rest) =>
      let hold (s : Dev) : Dev := s.updSwc fun w => { w with egr := w.egr.set p rest, held := w.held.upd p (· ++ [⟨c.cell, c.pm.isSome, none, []⟩]) }
      let x := s.frame c.cell
      if p < 36 then
        match s.push (p - 28) (s.copyJob p c) (some (.swc p c.pm.isSome)) with
        | (.waiting, s) => s.updSwc fun w => { w with egr := w.egr.set p rest }
        | (.refused, s) =>
          let s := s.updSwc fun w => { w with egr := w.egr.set p rest }
          let s := if c.pm.isSome then s.count .MAC_LOCAL_DROP_CNT x.port else s
          ((s.count .SWC_SKIP_CNT p).captureCopy c.cell p 1 5).endCopy c.cell p
        | (.accepted, s) => hold s
      else match s.freeMbox p with
        | none => s
        | some m =>
          let n := s.fld .SWC_IPORT_MBOX_CNT (p - 28)
          let i := (m + 256 - s.fld .SWC_IPORT_MBOX (p - 28)) % 256
          let s := (hold s).updSwc fun w => { w with mboxNext := w.mboxNext.set p ((i + 1) % n) }
          (s.mbxStage 0x70 0 c.cell).mbxCommit m 0x70 0 (noticeHigh c.cell ((16 + x.flen + 63) / 64) x.port)

/-- A write to SWC_FREE (R248). -/
def Dev.freeCopy (mid v : Nat) (s : Dev) : Dev :=
  let s := s.plain .SWC_FREE v
  let cell := bits v 26 0
  match portOfMid mid with
  | none => s.count .SWC_FREE_BAD_CNT
  | some p =>
    if (s.holds p cell).isSome then
      (s.updSwc fun w => { w with held := w.held.upd p (List.eraseP fun h => h.cell == cell) }).endCopy cell p
    else s.count .SWC_FREE_BAD_CNT

/-- Whether a descriptor is legal (R250). -/
def injLegal (p : Nat) (d : InjD) : Bool :=
  let len := bits d.w1 21 8
  14 ≤ len && len ≤ 9212 && (!bit d.w1 25 || (bits d.w1 31 26 ≤ 37 && bits d.w1 31 26 != p)) && bits d.w2 31 19 == 0
    && bits d.w3 31 16 == 0

/-- A write of word `i` of SWC_INJ; word 3 commits (R250). -/
def Dev.injWrite (i mid ctx v : Nat) (s : Dev) : Dev :=
  let k := mid * 4 + ctx
  let l := s.swc.injStage.get k
  let l := (if l = [] then [0, 0, 0, 0] else l).set i v
  if i ≠ 3 then s.updSwc fun w => { w with injStage := w.injStage.set k l }
  else
    let res (r : Nat) (s : Dev) : Dev :=
      s.updSwc fun w => { w with injStage := w.injStage.set k [], injRes := w.injRes.set k r }
    match portOfMid mid with
    | none => res 3 (s.refuseWrite .SWC_INJ)
    | some p =>
      let d : InjD := ⟨l.getD 0 0, l.getD 1 0, l.getD 2 0, l.getD 3 0, tb40 (s.copyVal islSwitch 0)⟩
      if !injLegal p d then res 3 (s.count .SWC_INJ_REFUSE_CNT p)
      else if 64 ≤ (s.swc.inj.get p).length then res 2 (s.count .SWC_INJ_REFUSE_CNT p)
      else res 1 (s.updSwc fun w => { w with inj := w.inj.upd p (· ++ [d]) })

/-- Whether the credit of an internal port allows a frame of `n` cells in class `c` (R254); scheduled frames are never
held back (R255). -/
def Dev.credit (s : Dev) (p c n : Nat) : Bool :=
  let u := s.swc.use.get p
  let g := min n (s.fld .SWC_PORTCFG_GUAR_CELLS p - u.guar)
  let fromPool := n - g
  let free := s.fld .SWC_POOL_FREE_FREE
  s.schedClass c || (fromPool ≤ free && u.unsched + n ≤ s.fld .SWC_PORTTH_XOFF_CELLS p
    && (u.pool + fromPool == 0 || s.fld .SWC_POOL_CFG_XOFF_FREE ≤ free - fromPool))

/-! ### Gate control lists (R260 to R262) -/

/-- The first start not in the past (R260, R304, R337, R425): base + k × cycle. (DEDUCED: log entry 25.) -/
def firstStart (base cycle now : Nat) : Nat :=
  if !inPast base now then base else (base + (sub32 now base + cycle - 1) / cycle * cycle) % 2 ^ 32

/-- Where a start at `t` (ns) stands against a copy of time base `tb`. -/
inductive Due where
  | ahead | due | passed
deriving DecidableEq, Repr, Inhabited

/-- A start is due in the tick that reaches it; a step that jumps over it passes it. -/
def Dev.dueAt (s : Dev) (isl tb t : Nat) : Due :=
  let d := (s.copyVal isl tb + tbMod - t * nsUnit % tbMod) % tbMod
  if tbMod / 2 ≤ d then .ahead
  else if d < max nsUnit (s.copyIncr isl tb) then .due
  else .passed

/-- Intervals and gates of the entries of a bank. -/
def Dev.gclEntries (s : Dev) (n b : Nat) : List (Nat × Nat) :=
  (List.range (s.fld .SWC_GCL_LEN_LEN n b)).map fun e => (s.fld .SWC_GCE_INTERVAL_NS n b e, s.fld .SWC_GCE_GATES_GATES n b e)

/-- The entry in force at an offset of the cycle: its index, gates and end; the last entry holds to the end. -/
def gclAt (cycle off : Nat) : List (Nat × Nat) → Nat → Nat → Nat × Nat × Nat → Nat × Nat × Nat
  | [], _, _, last => (last.1, last.2.1, cycle)
  | (iv, g) :: t, idx, start, _ =>
    if off < start + iv then (idx, g, if t = [] then cycle else min cycle (start + iv))
    else gclAt cycle off t (idx + 1) (start + iv) (idx, g, cycle)

/-- GATES and ENTRY show the entry in force at an offset of the running cycle. -/
def Dev.gclShow (n off : Nat) (s : Dev) : Dev :=
  let b := s.fld .SWC_GCL_STAT_OPER_BANK n
  let (i, g, _) := gclAt (s.reg .SWC_GCL_CYCLE n b) off (s.gclEntries n b) 0 0 (0, 0xFF, 0)
  (s.setFld .SWC_GCL_STAT_ENTRY i n).setFld .SWC_GCL_STAT_GATES g n

/-- NS of the MAC's copy of its gate list time base. -/
def Dev.gclNow (s : Dev) (n : Nat) : Nat := tbNs (s.copyVal islSwitch (s.fld .SWC_GCL_CFG_TB n))

/-- EN of a gate list is set. -/
def Dev.gclStart (n : Nat) (s : Dev) : Dev :=
  let b := s.fld .SWC_GCL_STAT_OPER_BANK n
  let first := firstStart (s.reg .SWC_GCL_BASE n b) (s.reg .SWC_GCL_CYCLE n b) (s.gclNow n)
  s.updSwc fun w => { w with gcl := w.gcl.set n ⟨false, 0, first, 0⟩ }

/-- EN of a gate list is cleared: every gate is open; an armed bank operates at once (R260, R262). -/
def Dev.gclStop (n : Nat) (s : Dev) : Dev :=
  let s := if s.flag .SWC_GCL_STAT_PENDING n then
    (s.setFld .SWC_GCL_STAT_OPER_BANK (1 - s.fld .SWC_GCL_STAT_OPER_BANK n) n).setFlag .SWC_GCL_STAT_PENDING false n else s
  ((s.setFld .SWC_GCL_STAT_ENTRY 0 n).setFld .SWC_GCL_STAT_GATES 0xFF n).updSwc fun w => { w with gcl := w.gcl.set n default }

/-- A start of the operating list is reached, or passed starts are skipped and counted (R260); at a start at which an armed list takes over, none of the
old list begins (R262). -/
def Dev.gclCycle (n : Nat) (s : Dev) : Dev :=
  let g := s.swc.gcl.get n
  if !s.flag .SWC_GCL_CFG_EN n || (s.flag .SWC_GCL_STAT_PENDING n && g.switchAt == g.next) then s
  else
    let b := s.fld .SWC_GCL_STAT_OPER_BANK n
    let cycle := s.reg .SWC_GCL_CYCLE n b
    match s.dueAt islSwitch (s.fld .SWC_GCL_CFG_TB n) g.next with
    | .ahead => s
    | .due =>
      (s.updSwc fun w => { w with gcl := w.gcl.set n { g with started := true, start := g.next, next := (g.next + cycle) % 2 ^ 32 } }).gclShow n 0
    | .passed =>
      let k := (sub32 (s.gclNow n) g.next + cycle - 1) / cycle
      (s.updSwc fun w => { w with gcl := w.gcl.set n { g with next := (g.next + k * cycle) % 2 ^ 32 } }).countBy k .SWC_GCL_SKIP_CNT n

/-- The interval of the entry in force ends (R260). -/
def Dev.gclEntry (n : Nat) (s : Dev) : Dev :=
  let g := s.swc.gcl.get n
  if !s.flag .SWC_GCL_CFG_EN n || !g.started then s
  else s.gclShow n (min (sub32 (s.gclNow n) g.start) (s.reg .SWC_GCL_CYCLE n (s.fld .SWC_GCL_STAT_OPER_BANK n) - 1))

/-- A write of SWC_GCL_SW (R262). -/
def Dev.gclArm (n v : Nat) (s : Dev) : Dev :=
  let b := bits v 0 0
  let en := s.flag .SWC_GCL_CFG_EN n
  if en && b == s.fld .SWC_GCL_STAT_OPER_BANK n then s.refuseWrite .SWC_GCL_SW
  else
    let s := s.plain .SWC_GCL_SW v n
    if !en then (s.setFld .SWC_GCL_STAT_OPER_BANK b n).setFlag .SWC_GCL_STAT_PENDING false n
    else
      let g := s.swc.gcl.get n
      let at_ := firstStart (s.reg .SWC_GCL_BASE n b) (s.reg .SWC_GCL_CYCLE n b) g.next
      (s.updSwc fun w => { w with gcl := w.gcl.set n { g with switchAt := at_ } }).setFlag .SWC_GCL_STAT_PENDING true n

/-- The armed bank takes over at its start (R262). (DEDUCED: log entry 22.) -/
def Dev.gclSwitch (n : Nat) (s : Dev) : Dev :=
  let g := s.swc.gcl.get n
  if !s.flag .SWC_GCL_CFG_EN n || !s.flag .SWC_GCL_STAT_PENDING n then s
  else
    let b := 1 - s.fld .SWC_GCL_STAT_OPER_BANK n
    let cycle := s.reg .SWC_GCL_CYCLE n b
    match s.dueAt islSwitch (s.fld .SWC_GCL_CFG_TB n) g.switchAt with
    | .ahead => s
    | .due =>
      let s := (s.setFld .SWC_GCL_STAT_OPER_BANK b n).setFlag .SWC_GCL_STAT_PENDING false n
      (s.updSwc fun w => { w with gcl := w.gcl.set n ⟨true, g.switchAt, (g.switchAt + cycle) % 2 ^ 32, 0⟩ }).gclShow n 0
    | .passed =>
      let k := (sub32 (s.gclNow n) g.switchAt + cycle - 1) / cycle
      (s.updSwc fun w => { w with gcl := w.gcl.set n { g with switchAt := (g.switchAt + k * cycle) % 2 ^ 32 } }).countBy k .SWC_GCL_SKIP_CNT n

/-- The gates of MAC `n` at `t` (ns), and for how many nanoseconds at least they stay so; the armed list counts from its first start on. -/
def Dev.gatesAt (s : Dev) (n t : Nat) : Nat × Nat :=
  let g := s.swc.gcl.get n
  if !g.started && inPast t g.next then (0xFF, sub32 g.next t)
  else
    let oper := s.fld .SWC_GCL_STAT_OPER_BANK n
    let pend := s.flag .SWC_GCL_STAT_PENDING n
    let sw := pend && !inPast t g.switchAt
    let b := if sw then 1 - oper else oper
    let cycle := s.reg .SWC_GCL_CYCLE n b
    let base := if sw then g.switchAt else if g.started then g.start else g.next
    let off := sub32 t base % max 1 cycle
    let (_, m, e) := gclAt cycle off (s.gclEntries n b) 0 0 (0, 0xFF, 0)
    (m, if pend && !sw then min (e - off) (sub32 g.switchAt t) else e - off)

/-- Whether gate `c` of MAC `n` stays open for `d` nanoseconds from `t` on; `k` bounds the changes looked at, of which each takes at least 1 ns. -/
def Dev.gateHolds (s : Dev) (n c t d : Nat) : Nat → Bool
  | 0 => d == 0
  | k + 1 =>
    let (m, len) := s.gatesAt n t
    d == 0 || (bit m c && len != 0 && s.gateHolds n c ((t + len) % 2 ^ 32) (d - len) k)

/-- The credit of class `c` after the next `left` nanoseconds from `t` on, in the first `tx` of which the copy in transmission goes on: gate changes
and the end of that copy are taken as they come (R259, R263). -/
def Dev.creditAhead (s : Dev) (n c t left tx : Nat) (v : Int) : Nat → Int
  | 0 => v
  | k + 1 =>
    if left = 0 then v
    else
      let (m, len) := if s.flag .SWC_GCL_CFG_EN n then s.gatesAt n t else (0xFF, left)
      let d := max 1 (min (min left len) (if tx = 0 then left else tx))
      let v := s.creditRun n c (bit m c) (tx != 0 && s.classSends n c) (s.classWaits n c) d v
      s.creditAhead n c ((t + d) % 2 ^ 32) (left - d) (tx - d) v k

/-- The spans of a list over two cycles, to find the longest open span of a gate counted across cycle boundaries (R261). -/
def longestOpen (c : Nat) : List (Nat × Nat) → Nat → Nat → Nat
  | [], run, best => max run best
  | (len, m) :: t, run, best => if bit m c then longestOpen c t (run + len) (max best (run + len)) else longestOpen c t 0 best

/-- The parts of one cycle: length and gates. -/
def gclParts (cycle : Nat) : List (Nat × Nat) → Nat → List (Nat × Nat)
  | [], _ => []
  | [(_, g)], start => [(cycle - start, g)]
  | (iv, g) :: t, start => (min iv (cycle - start), g) :: gclParts cycle t (start + min iv (cycle - start))

/-- The longest continuous open span of gate `c`; `none` where the gate never closes (R261). -/
def Dev.gateSpan (s : Dev) (n c : Nat) : Option Nat :=
  let b := s.fld .SWC_GCL_STAT_OPER_BANK n
  let parts := gclParts (s.reg .SWC_GCL_CYCLE n b) (s.gclEntries n b) 0
  if !s.flag .SWC_GCL_CFG_EN n || parts.all (fun p => p.1 == 0 || bit p.2 c) then none
  else some (longestOpen c ((parts ++ parts).filter fun p => p.1 != 0) 0 0)

end Sys2Proof.Machine
end

