-- ==== Sys2Proof/Machine/FwdOps.lean ====
section
/-! DEFINITION. From arrival to the egress queues, injection, egress selection and transmission (R216, R231, R242 to
R246, R250, R259 to R267, R290 to R294). -/

namespace Sys2Proof.Machine

/-! ### Redundancy (R266, R267) -/

/-- The active instance that binds a MAC: its number and mode (1 PRP, 2 HSR). -/
def Dev.redOf (s : Dev) (p : Nat) : Option Nat :=
  (List.range 4).find? fun r => s.fld .SWC_RED_MODE r != 0 && (s.fld .SWC_RED_PORT_A r == p || s.fld .SWC_RED_PORT_B r == p)

/-- The sequence number that an instance reads in a received frame. -/
def Dev.redSeq (s : Dev) (r : Nat) (f : Frame) : Option Nat :=
  if s.fld .SWC_RED_MODE r = 1 then f.prpSeq else f.hsrSeq

/-- Whether a frame returned by an HSR ring carries an own address (R266). -/
def Dev.ownSource (s : Dev) (r : Nat) (f : Frame) : Bool :=
  let a := s.fld .SWC_RED_PORT_A r
  s.fld .SWC_RED_MODE r == 2 && (List.range 16).any fun e =>
    s.flag .MAC_PM_CTL_EN a e && s.reg .MAC_PM_ADDR_LO a e + s.fld .MAC_PM_CTL_ADDR_HI a e * 2 ^ 32 == f.sa

/-- A frame of an instance is compared with the duplicate table: whether it is discarded (R266). (DEDUCED: log entry 22.) -/
def Dev.dupCheck (r : Nat) (f : Frame) (s : Dev) : Bool × Dev :=
  if s.ownSource r f then (true, s)
  else match s.redSeq r f with
    | none => (false, s)
    | some q =>
      let key := f.sa * 2 ^ 16 + q
      let t := s.swc.dup.get r
      if t.contains key then (true, s)
      else
        let s := if 1024 ≤ t.length then s.count .SWC_DUPTBL_OVF_CNT else s
        let t := if 1024 ≤ t.length then t.drop 1 else t
        (false, s.updSwc fun w => { w with dup := w.dup.set r (t ++ [key]) })

/-- A duplicate-table entry is forgotten after FORGET_MS (R266). -/
def Dev.dupForget (r key : Nat) (s : Dev) : Dev := s.updSwc fun w => { w with dup := w.dup.upd r (·.erase key) }

/-- The sequence number of a frame that is sent through instance `r` (R267). -/
def Dev.redNext (r : Nat) (given : Option Nat) (s : Dev) : Nat × Dev :=
  match given with
  | some q => (q, s)
  | none =>
    let q := s.fld .SWC_RED_SEQ_SEQ r
    (q, s.setFld .SWC_RED_SEQ_SEQ ((q + 1) % 65536) r)

/-- The duplicate check of a frame of an instance: not of one that another step has checked. -/
def Dev.dupOnce (inst : Option Nat) (seen : Option Bool) (f : Frame) (s : Dev) : Bool × Dev :=
  match inst, seen with
  | _, some b => (b, s)
  | some r, none => s.dupCheck r f
  | none, none => (false, s)

/-- The handling of a copy on a port of instance `r`. -/
def Dev.redTx (s : Dev) (r p seq : Nat) : RedTx :=
  let b := b2n (s.fld .SWC_RED_PORT_B r == p && s.fld .SWC_RED_PORT_A r != p)
  if s.fld .SWC_RED_MODE r = 1 then .prp (0xA + b) seq else .hsr b seq

/-! ### Enqueue (R242 step 7, R246) -/

/-- What is known of a frame on its way to the queues. -/
structure Fwd where
  cell : Nat
  port : Nat
  cls : Nat
  mc : Bool
  /-- The frame came in through this instance, and given number of R267. -/
  inst : Option Nat
  seq : Option Nat
  /-- Whether step 1 has found the frame a duplicate (R266). -/
  seen : Option Bool
deriving DecidableEq, Repr, Inhabited

/-- The copies of a frame are queued for the ports of a mask; a copy for a port of an active instance leaves on both ports
with one number, unless the frame came in through that instance (R266). -/
def Dev.enqueueAll (x : Fwd) (mask : Nat) (s : Dev) : Dev :=
  let red (p : Nat) : Option Nat := match s.redOf p with
    | some r => if x.inst = some r then none else some r
    | none => none
  let insts := ((portsOf mask).filterMap red).eraseDups
  let extra := insts.flatMap fun r => [s.fld .SWC_RED_PORT_A r, s.fld .SWC_RED_PORT_B r]
  let (seqs, s) := insts.foldl (fun (l, s) r => let (q, s) := s.redNext r x.seq; ((r, q) :: l, s)) (([] : List (Nat × Nat)), s)
  let all := (portsOf mask ++ extra).eraseDups.filter fun p => p != x.port
  s.each all fun p s =>
    let tx := match red p with
      | some r => match seqs.find? fun e => e.1 == r with
        | some e => s.redTx r p e.2
        | none => .none
      | none => .none
    s.enqueueCopy p ⟨x.cell, x.cls, x.mc, tx, none⟩

/-- A discard of an accepted frame counts under `r` and passes the capture rules under `reason` (R258, R268). -/
def Dev.discard (r : Reg) (reason : Nat) (x : CapInfo) (s : Dev) : Dev :=
  (s.count r x.port).capture { x with reason := reason } false

/-- VID of a frame by its tag or its port (R243). -/
def Dev.classVid (s : Dev) (p : Nat) (f : Frame) : Nat :=
  if f.tagged && f.tagVid != 0 then f.tagVid else s.fld .SWC_PORTMODE_PVID p

/-- PCP of a frame by its tag or its port (R243). -/
def Dev.classPcp (s : Dev) (p : Nat) (f : Frame) : Nat := if f.tagged then f.tagPcp else s.fld .SWC_PORTMODE_DEF_PCP p

/-- Class of a PCP (R243). -/
def Dev.classOf (s : Dev) (pcp : Nat) : Nat := bits (s.reg .SWC_PCP_MAP) (3 * pcp + 2) (3 * pcp)

/-- Steps 3 to 7 of R242 after the frame has entered; answers the number for the cell header too. `gap`: nanoseconds since
the meter of the frame's stream was looked at last; `len`: L. (DEDUCED: log entry 22.) -/
def Dev.steps (x : Fwd) (i : CapInfo) (f : Frame) (vid len gap : Nat) (s : Dev) : Dev :=
  let p := x.port
  let vl := s.swc.vlan.get vid
  if s.flag .SWC_PORTMODE_ING_FILTER p && !(vl.vlanValid && bit vl.members p) then s.discard .SWC_POLICY_DROP_CNT 1 i
  else
    let st := s.streamFind f.da vid
    let e := match st with
      | some k => s.swc.stream.get k
      | none => default
    let k := st.getD 0
    if st.isSome && e.maxSdu != 0 && e.maxSdu < len then s.discard .SWC_SF_DROP_CNT 2 i
    else
      let (m, ok) := if st.isSome && e.meterEn then e.meterTake (s.swc.meter.get k) gap len else (s.swc.meter.get k, true)
      let s := s.updSwc fun w => { w with meter := w.meter.set k m }
      if !ok then s.discard .SWC_SF_DROP_CNT 2 i
      else
        let (r, ok) := match f.rtag with
          | some q => if st.isSome && e.cbEn then (s.swc.rec_.get k).accept q else (s.swc.rec_.get k, true)
          | none => (s.swc.rec_.get k, true)
        let s := s.updSwc fun w => { w with rec_ := w.rec_.set k r }
        if !ok then s.discard .SWC_DUP_CNT 3 i
        else
        let (dup, s) := s.dupOnce x.inst x.seen f
        if dup then s.discard .SWC_DUP_CNT 3 i
        else
          let s := if s.flag .SWC_PORTMODE_LEARN_EN p && !isGroup f.sa then s.learn f.sa vid p else s
          let (mask, mc, flood) := s.lookup f.da vid
          let s := if flood then s.count .SWC_FLOOD_CNT else s
          let mask := mask &&& vl.members
          let mask := match x.inst with
            | some r =>
              let a := s.fld .SWC_RED_PORT_A r
              let b := s.fld .SWC_RED_PORT_B r
              if s.fld .SWC_RED_MODE r = 1 then putBit (putBit mask a false) b false
              else if !mc && mask % 2 ^ 28 = 0 && mask ≠ 0 then mask
              else putBit (putBit mask a (a != p)) b (b != p)
            | none => mask
          s.enqueueAll { x with mc := mc } (putBit mask p false)

/-- A stored frame without copies leaves (R241). -/
def Dev.releaseIdle (cell : Nat) (s : Dev) : Dev :=
  let x := s.frame cell
  if x.refs = 0 ∧ x.cells ≠ [] then (s.updFrame cell fun _ => default).uncharge x.port x.cls x.sched x.cells.length else s

/-- The lowest-numbered enabled perfect-match entry of MAC `n` for an address (R214). -/
def Dev.pmFind (s : Dev) (n addr : Nat) : Option Nat :=
  (List.range 16).find? fun e =>
    s.flag .MAC_PM_CTL_EN n e && s.reg .MAC_PM_ADDR_LO n e + s.fld .MAC_PM_CTL_ADDR_HI n e * 2 ^ 32 == addr

/-- Step 1 of R242: the copy for the rink of the matching entry. A redundancy instance delivers a frame for the device once (R266), so its
duplicates are found here already. (DEDUCED: log entry 22.) -/
def Dev.pmDeliver (x : Fwd) (pm : Option Nat) (f : Frame) (s : Dev) : Fwd × Dev :=
  match pm with
  | none => (x, s)
  | some e =>
    let (dup, s) := s.dupOnce x.inst none f
    ({ x with seen := some dup },
      if dup then s else s.queueCopy (28 + s.fld .MAC_PM_CTL_RINK x.port e) ⟨x.cell, x.cls, false, .none, some (x.port * 16 + e)⟩)

/-- Steps 1 and 2 of R242, then the others, for a stored frame. A duplicate that step 1 has not delivered is discarded there, and on a port that does
not forward by its state too: each counts (R242, R266; DEDUCED: log entry 22). -/
def Dev.forwardSteps (x : Fwd) (i : CapInfo) (f : Frame) (vid gap : Nat) (s : Dev) : Dev :=
  let p := x.port
  let pm := if isMac p then s.pmFind p f.da else none
  let (x, s) := s.pmDeliver x pm f
  let fwd := match pm with
    | some e => s.flag .MAC_PM_CTL_FWD p e
    | none => true
  let dup := x.seen == some true
  if !fwd then s.when dup (Dev.discard .SWC_DUP_CNT 3 i)
  else
    let s := s.count .SWC_IN_CNT p
    if s.fld .SWC_PORTMODE_STATE p = 2 then s.steps x i f vid f.length gap
    else if pm.isSome && !dup then s
    else (s.when dup (Dev.discard .SWC_DUP_CNT 3 i)).discard .SWC_POLICY_DROP_CNT 1 i

/-- A frame that a MAC accepts, or that an internal port injects, is stored and forwarded (R242, R252, R255). `stored` are
the stored bytes, `f` the frame as R242 reads it. (DESIGN CHOICE: log entry 11.) -/
def Dev.forward (p : Nat) (stored : Frame) (inj : Option InjD) (ts tb gap : Nat) (s : Dev) : Dev :=
  let vid := s.classVid p stored
  let pcp := s.classPcp p stored
  let cls := match inj with
    | some d => bits d.w1 24 22
    | none => s.classOf pcp
  let i : CapInfo := ⟨p, 0, 0, cls, ts, tb, stored.length, stored⟩
  match s.allocCells p cls (s.schedClass cls) (cellsFor stored.length) [] with
  | (none, s) => if s.schedClass cls then s.count .SWC_SCHED_DROP_CNT p else s.discard .SWC_HDRM_DROP_CNT 4 i
  | (some cells, s) =>
    let s := s.capture i false
    let inst := if isMac p then s.redOf p else none
    let given := match inj with
      | some d => if bit d.w2 17 then some (bits d.w3 15 0) else none
      | none => none
    let direct := match inj with
      | some d => bit d.w1 25
      | none => false
    let cb := (s.streamFind stored.da vid).any fun k => (s.swc.stream.get k).cbEn
    let hdrSeq := match (if cb then stored.rtag else none), inst with
      | some q, _ => q
      | none, some r => (s.redSeq r stored).getD 0
      | none, none => given.getD 0
    let cell := cells.headD 0
    let x : FrameSt := ⟨cells, 0, stored.length, inj.isSome, p, cls, s.schedClass cls, stored.tagged, !direct, vid, pcp, hdrSeq, ts, tb,
      match inj with
      | some d => if bit d.w2 16 then some (bits d.w2 15 0) else none
      | none => none, stored.etype == 0x888E⟩
    let s := s.updFrame cell fun _ => x
    let s := s.writeCells x stored
    let w : Fwd := ⟨cell, p, cls, false, inst, given, none⟩
    let s := match inj with
      | some d => if direct then s.enqueueAll w (2 ^ bits d.w1 31 26) else s.forwardSteps w i stored vid gap
      | none => s.forwardSteps w i stored vid gap
    s.releaseIdle cell

/-- The core takes the next descriptor of an internal port when its credit allows (R250, R254). -/
def Dev.injectStart (p gap : Nat) (s : Dev) : Dev :=
  match s.swc.inj.get p with
  | [] => s
  | d :: rest =>
    let len := bits d.w1 21 8
    let addr := d.w0 + bits d.w1 7 0 * 2 ^ 32
    if !s.credit p (bits d.w1 24 22) (cellsFor len) then s
    else
      let s := s.updSwc fun w => { w with inj := w.inj.set p rest }
      let inside := rangeOf addr == .shared && rangeOf (addr + len - 1) == .shared
      let bell (s : Dev) : Dev := s.when (bit d.w2 18) fun s =>
        s.ringMask (s.fld .SWC_INJ_DB_TARGET (p - 28)) (2 ^ s.fld .SWC_INJ_DB_BIT (p - 28))
      if !inside then
        let s := if rangeOf addr == .shared then s else (s.physRead 0x70 addr 8).2
        bell (s.count .SWC_INJ_ERR_CNT)
      else
        let (r, s) := s.physRead 0x70 addr len
        if r.ue then bell (s.count .SWC_INJ_ERR_CNT) else bell (s.forward p r.data (some d) d.ts 0 gap)

/-! ### Egress (R216, R259 to R263) -/

/-- Picoseconds per byte at a speed code of MAC_STATUS. -/
def psPerByte : Nat → Nat
  | 0 => 800000
  | 1 => 80000
  | 2 => 8000
  | 3 => 3200
  | 4 => 1600
  | 5 => 800
  | _ => 320

/-- A stored frame without its FCS as the egress MAC sends it on port `n`: VLAN tag, redundancy, padding (R216, R245,
R266). -/
def Dev.txBody (s : Dev) (n : Nat) (x : FrameSt) (red : RedTx) (stored : Frame) : Frame :=
  let b : Frame := if x.noFcs then stored else stored.body
  let b := if x.retag then Frame.retag b (!bit (s.swc.vlan.get x.vid).untagged n) x.pcp x.vid else b
  let b := match red with
    | .none => b
    | .prp lan q => b.addPrp lan q
    | .hsr path q => b.addHsr path q
    | _ => b
  b.padTo 60

/-- Whether a frame is sent protected by MACsec (R229). -/
def Dev.protects (s : Dev) (n : Nat) (b : Frame) : Bool := n < 4 && s.flag .MAC_SEC_CFG_EN n && b.etype != 0x888E

/-- Length of a copy as transmitted with FCS, without SecTAG and ICV (R216, R232). -/
def Dev.txLen (s : Dev) (n : Nat) (c : Copy) : Nat :=
  let x := s.frame c.cell
  let l := if x.noFcs then x.flen else x.flen - 4
  let tag := x.retag && !bit (s.swc.vlan.get x.vid).untagged n
  let l := if !x.retag then l else if tag && !x.tagged then l + 4 else if !tag && x.tagged then l - 4 else l
  let l := match c.red with
    | .prp _ _ => max l 54 + 6
    | .hsr _ _ => l + 6
    | _ => l
  max l 60 + 4

/-- Duration of a copy on the wire with preamble and SFD, in picoseconds (R259). -/
def Dev.txTime (s : Dev) (n : Nat) (c : Copy) : Nat :=
  let outer := match c.red with
    | .hsr _ _ => true
    | _ => !(s.frame c.cell).eapol
  let sec := if n < 4 && s.flag .MAC_SEC_CFG_EN n && outer then 32 else 0
  (s.txLen n c + sec + 8) * psPerByte (s.fld .MAC_STATUS_SPEED n)

/-- The oldest copy of a class in the queue of a MAC. -/
def Dev.headCopy (s : Dev) (n c : Nat) : Option Copy := (s.swc.egr.get n).find? fun k => k.cls == c

/-- The credit of a class `lead` nanoseconds from now, where the copy in transmission ends an inter-frame gap of 12 bytes before (R259, R263). -/
def Dev.creditAt (s : Dev) (n c lead : Nat) : Int :=
  if !bit (s.fld .SWC_GCL_CFG_CBS_EN n) c then 0
  else
    let gap := 12 * psPerByte (s.fld .MAC_STATUS_SPEED n) / 1000
    s.creditAhead n c (s.gclNow n) lead (if (s.macSt n).tx.isSome then lead - gap else 0) ((s.macSt n).credit.get c) lead

/-- Whether a class is eligible at an instant `lead` nanoseconds from now (R259). -/
def Dev.eligible (s : Dev) (n c lead : Nat) : Bool :=
  match s.headCopy n c with
  | none => false
  | some k =>
    let d := (s.txTime n k + 999) / 1000
    let open_ := !s.flag .SWC_GCL_CFG_EN n || s.gateHolds n c ((s.gclNow n + lead) % 2 ^ 32) d d
    open_ && !s.stopped n c && 0 ≤ s.creditAt n c lead

/-- A copy leaves the queue of a MAC. -/
def Dev.dequeue (n : Nat) (c : Copy) (s : Dev) : Dev := s.updSwc fun w => { w with egr := w.egr.upd n (·.erase c) }

/-- Copies that no gate window can carry end at selection (R261). -/
def Dev.oversize (n : Nat) (s : Dev) : Dev :=
  s.each (List.range 8) fun c s =>
    match s.headCopy n c, s.gateSpan n c with
    | some k, some span =>
      if span * 1000 < s.txTime n k then
        (((s.captureCopy k.cell n 1 8).dequeue n k).dropCopy k.cell n).count .SWC_GCL_OVERSIZE_CNT n
      else s
    | _, _ => s

/-- The core selects the copy that starts next on MAC `n`, `lead` nanoseconds ahead of its start and `dt` nanoseconds after
the credits were looked at last (R259); a copy above MAXLEN is not transmitted (R216). -/
def Dev.select (n lead dt : Nat) (s : Dev) : Dev :=
  let s := s.creditStep n dt
  if (s.macSt n).sel.isSome || !s.macSends n || s.traverse n || s.fld .SWC_TXCFG_LEAD_NS < lead then s
  else
    let s := s.oversize n
    match [7, 6, 5, 4, 3, 2, 1, 0].find? fun c => s.eligible n c lead with
    | none => s
    | some c =>
      match s.headCopy n c with
      | none => s
      | some k =>
        let s := s.dequeue n k
        if s.fld .MAC_CFG_MAXLEN n < s.txLen n k then (s.dropCopy k.cell n).count .MAC_TX_GIANT_CNT n
        else s.updMac n fun m => { m with sel := some k }

/-! ### Residence correction (R292 to R294) -/

/-- Whether a PTP message of a body is one that MAC `n` corrects: its messageType and domain (R292). -/
def Dev.tcSelects (s : Dev) (n at_ : Nat) (b : Frame) : Bool :=
  let mode := s.fld .TMU_PORT_TC_MODE n
  let ty := b.be at_ 1 % 16
  let tb := s.fld .MAC_CFG_TB n
  (ty == 0 || (mode == 1 && ty ≤ 3))
    && (s.flag .TMU_TB_PTP_ANY tb || (b.be (at_ + 4) 1 == s.fld .TMU_TB_PTP_DOMAIN tb && b.be at_ 1 / 16 == s.fld .TMU_TB_PTP_SDOID tb))

/-- The new body: the sum in 2^-16 ns is added to the correctionField, for UDP the checksum is 0 (R293). -/
def correctPtp (b : Frame) (at_ add : Nat) (udp : Bool) : Frame :=
  let b := b.put (at_ + 8) (beBytes 8 ((b.be (at_ + 8) 8 + add) % 2 ^ 64))
  if udp then b.put (at_ - 2) [0#8, 0#8] else b

/-- The residence correction of a body on MAC `n` with its egress stamp (R292 to R294). -/
def Dev.residence (n : Nat) (x : FrameSt) (stamp : Nat) (b : Frame) (s : Dev) : Frame × Dev :=
  let mode := s.fld .TMU_PORT_TC_MODE n
  if mode = 0 ∨ !isMac x.port ∨ x.noFcs then (b, s)
  else
    let fix (at_ : Nat) (udp : Bool) : Frame × Dev :=
      if !s.tcSelects n at_ b then (b, s)
      else
        let r := sub40 stamp x.ts
        if 2 ^ 39 ≤ r ∨ x.tb ≠ s.fld .MAC_CFG_TB n then (b, s.count .TMU_TC_SKIP_CNT n)
        else
          let link := if mode = 2 ∧ b.be at_ 1 % 16 = 0 then s.reg .TMU_PORT_LINKDLY x.port else 0
          (correctPtp b at_ ((r + link) * 256) udp, s)
    match b.ptp (s.flag .TMU_PORT_TC_IPV4_EN n) with
    | .none => (b, s)
    | .l2 a => fix a false
    | .udp a => fix a true
    | .other a => if s.tcSelects n a b then (b, s.count .TMU_TC_SKIP_CNT n) else (b, s)

/-! ### Transmission (R216, R231, R271, R290) -/

/-- The PN threshold and the end of the PN space (R231). -/
def Dev.pnNear (s : Dev) (n : Nat) : Nat := if s.flag .MAC_SEC_CFG_CIPHER n then 0xC000000000000000 else 0xC0000000
def Dev.pnEnd (s : Dev) (n : Nat) : Nat := if s.flag .MAC_SEC_CFG_CIPHER n then 2 ^ 64 else 2 ^ 32

/-- The doorbell of MAC_LINK_DB. -/
def Dev.linkBell (n : Nat) (s : Dev) : Dev :=
  s.when (s.flag .MAC_LINK_DB_EN n) fun s => s.ringMask (s.fld .MAC_LINK_DB_TARGET n) (2 ^ s.fld .MAC_LINK_DB_BIT n)

/-- The SecTAG of a frame with `len` bytes of secure data: EtherType, TCI with the SCI and encryption, association number, short length, PN, SCI.
(PRESUMED from IEEE 802.1AE, which R229 names: log entry 21.) -/
def SecRx.bytes (t : SecRx) (len : Nat) : List Byte :=
  beBytes 2 0x88E5 ++ beBytes 1 (0x2C + t.an) ++ beBytes 1 (if len < 48 then len else 0) ++ beBytes 4 t.pn.toNat ++ beBytes 8 t.sci.toNat

/-- The IV of a frame with the whole PN: SCI and PN, or SSCI and PN exclusive or the salt (PRESUMED: log entry 21). -/
def secIv (xpn : Bool) (sci ssci salt pn : Nat) : Nat :=
  if xpn then Nat.xor (ssci * 2 ^ 64 + pn) salt else sci * 2 ^ 32 + pn % 2 ^ 32

/-- The ICV over addresses, SecTAG and secure data. -/
def secIcv (key iv : Nat) (hdr : List Byte) (t : SecRx) (text : List Byte) : Nat := gcmTag key iv (hdr ++ t.bytes text.length) text

/-- The bytes on the line, without FCS, of a protected frame given by its addresses with the secure data, and its SecTAG with ICV. -/
def secLine (b : Frame) (t : SecRx) : Frame := b.take 12 ++ t.bytes (b.length - 12) ++ b.drop 12 ++ beBytes 16 t.icv.toNat

/-- The key slot of association number `an` of a MAC, where it holds a key (R78, R229). -/
def Dev.secKeyOf (s : Dev) (n an : Nat) : Option MacKey :=
  if bit (s.fld .MAC_SEC_STATUS_KEY_VALID n) an then s.vlt.sak.get (4 * n + an) else none

/-- A body as MAC `n` sends it protected, with a key and PN (R229, R231). -/
def Dev.secSeal (s : Dev) (n : Nat) (k : MacKey) (pn : Nat) (b : Frame) : Sent :=
  let xpn := s.flag .MAC_SEC_CFG_CIPHER n
  let sci := s.reg64 .MAC_SEC_SCI_LOW .MAC_SEC_SCI_HIGH n
  let iv := secIv xpn sci (s.reg .MAC_SEC_SSCI n) k.salt pn
  let text := gcmCrypt k.key iv (b.drop 12)
  let t : SecRx := ⟨BitVec.ofNat 64 sci, Fin.ofNat 4 (s.fld .MAC_SEC_CFG_TX_AN n), BitVec.ofNat 32 pn, 0#128⟩
  let t := { t with icv := BitVec.ofNat 128 (secIcv k.key iv (b.take 12) t text) }
  let out : Frame := b.take 12 ++ text
  ⟨out ++ leBytes 4 (crc32 (secLine out t)), some t, false⟩

/-- A protected frame takes the next PN (R231): its key and PN, or `none` where it cannot be protected. The
register cannot show the number after the last; the space is then exhausted at 0. (PRESUMED: log entry 21.) -/
def Dev.takePn (n : Nat) (s : Dev) : Option (MacKey × Nat) × Dev :=
  let pn := s.reg64 .MAC_SEC_TXPN_LOW .MAC_SEC_TXPN_HIGH n
  match (if pn = 0 then none else s.secKeyOf n (s.fld .MAC_SEC_CFG_TX_AN n)) with
  | none => (none, s.count .MAC_SEC_TXDROP_CNT n)
  | some k =>
    let next := (pn + 1) % s.pnEnd n
    let s := (s.setReg .MAC_SEC_TXPN_LOW (next % 2 ^ 32) n).setReg .MAC_SEC_TXPN_HIGH (next / 2 ^ 32) n
    let s := if next = s.pnNear n ∧ !s.flag .MAC_SEC_STATUS_PN_NEAR n then (s.setFlag .MAC_SEC_STATUS_PN_NEAR true n).linkBell n else s
    (some (k, pn), s)

/-- How much later than its scheduled instant an own Slalom frame leaves, in 2^-8 ns (R305). -/
def slmLate (stamp at_ : Nat) : Nat := if sub40 stamp at_ < 2 ^ 39 then sub40 stamp at_ else 0

/-- The header of a Slalom frame as it leaves: TRANSIT of an own frame is the lateness of its reference point (R305); a
forwarded one has HOPS decremented and its residence and the link delay added to TRANSIT (R308). -/
def Dev.slmLeave (s : Dev) (x : FrameSt) (red : RedTx) (stamp : Nat) (b : Frame) : Frame :=
  match red with
  | .slmOwn at_ => b.put 26 (beBytes 4 (slmLate stamp at_ % 2 ^ 32))
  | .slmFwd =>
    let w := b.be 18 4
    let w := putBits w 23 18 (bits w 23 18 - 1)
    let t := (b.be 26 4 + sub40 stamp x.ts + s.reg .TMU_PORT_LINKDLY x.port) % 2 ^ 32
    (b.put 18 (beBytes 4 w)).put 26 (beBytes 4 t)
  | _ => b

/-- A Slalom copy is sent: own ones, null frames among them, those more than 10 ns late, and forwarded ones (R305, R306, R308). -/
def Dev.slmSent (red : RedTx) (stamp : Nat) (b : Frame) (s : Dev) : Dev :=
  match red with
  | .slmOwn at_ =>
    let s := s.count .SLM_TX_CNT
    let s := if bits (b.be 18 4) 27 26 = 1 then s.count .SLM_NULL_TX_CNT else s
    if 2560 < slmLate stamp at_ then s.count .SLM_TX_LATE_CNT else s
  | .slmFwd => s.count .SLM_FWD_CNT
  | _ => s

/-- MAC `n` starts to transmit its selected copy; `late`: it was not held whole by its start (R216, R259). (DESIGN CHOICE: log entry 11.) -/
def Dev.transmit (n : Nat) (late : Bool) (dt : Nat) (s : Dev) : Dev :=
  let s := s.creditStep n dt
  match (s.macSt n).sel with
  | none => s
  | some c =>
    if (s.macSt n).tx.isSome || !s.macSends n || s.traverse n || s.stopped n c.cls then s
    else
      let s := s.updMac n fun m => { m with sel := none }
      let x := s.frame c.cell
      let (r, s) := Dev.readCells x.cells x.flen s
      if r.ue then ((s.captureCopy c.cell n 1 9).dropCopy c.cell n).count .SWC_CELL_UE_CNT n
      else
        let s := s.when late fun s => s.count .SWC_TX_LATE_CNT n
        let stamp := s.egressStamp n
        let (b, s) := s.residence n x stamp (s.txBody n x c.red r.data)
        let b := s.slmLeave x c.red stamp b
        let (out, s) := if s.protects n b then
            let (k, s) := s.takePn n
            (k.map fun p => s.secSeal n p.1 p.2 b, s)
          else (some ⟨b.withFcs, none, false⟩, s)
        match out with
        | none => s.dropCopy c.cell n
        | some out =>
          let tb := s.fld .MAC_CFG_TB n
          let s := s.slmSent c.red stamp b
          let s := match x.tsId with
            | some id => s.txtsAdd n ⟨id, stamp / 256, stamp % 256, tb, false⟩
            | none => s
          let s := s.capture ⟨n, 1, 0, c.cls, stamp, tb, x.flen, r.data⟩ false
          ((s.updMac n fun m => { m with tx := some c }).sends n out).setFlag .MAC_STATUS_TX_IDLE false n

/-- The flow-control frames that have waited for the frame in transmission go (R219), where the MAC still sends (R216, R222). -/
def Dev.controlGo (n : Nat) (s : Dev) : Dev :=
  let l := if s.macSends n && !s.traverse n then (s.macSt n).ctl else []
  (s.updMac n fun m => { m with ctl := [] }).each l (Dev.controlOut n)

/-- The copy in transmission ends truncated, with a line error for its receiver (R221, R233). -/
def Dev.truncate (n : Nat) (s : Dev) : Dev :=
  match (s.macSt n).tx with
  | none => s
  | some c =>
    ((s.updMac n fun m => { m with tx := none, ctl := [], last := m.last.map fun l => { l with err := true } }).setFlag
      .MAC_STATUS_TX_IDLE true n).endCopy c.cell n

/-- The last byte of the copy in transmission leaves MAC `n` (R241). -/
def Dev.transmitDone (n dt : Nat) (s : Dev) : Dev :=
  let s := s.creditStep n dt
  match (s.macSt n).tx with
  | none => s
  | some c =>
    let s := (s.updMac n fun m => { m with tx := none }).setFlag .MAC_STATUS_TX_IDLE true n
    ((s.endCopy c.cell n).count .MAC_TX_OK_CNT n).controlGo n

end Sys2Proof.Machine
end

