-- ==== Sys2Proof/Machine/MacOps.lean ====
section
/-! DEFINITION. Flow control, links, lanes, PHYs, PORT reset and traverse mode (R206 to R236), and the register pages of
MAC, SDS, TPHY and SWC. -/

namespace Sys2Proof.Machine

/-! ### Flow control (R217 to R219) -/

/-- The copy selected on a MAC waits again where its class is stopped (R218). -/
def Dev.selStopped (n : Nat) (s : Dev) : Dev := s.when ((s.macSt n).sel.any fun c => s.stopped n c.cls) (Dev.unselect n)

/-- A received frame of EtherType 0x8808 (R217, R218). A copy selected of a class that it stops has not started and waits again. (DEDUCED: log entry
22.) -/
def Dev.macControl (n : Nat) (f : Frame) (s : Dev) : Dev :=
  let at_ := f.typeAt + 2
  let op := f.be at_ 2
  let rx := s.flag .MAC_FC_CFG_RX_EN n
  if op = 1 then
    let s := s.count .MAC_RX_PAUSE_CNT n
    if !rx then s
    else
      let q := f.be (at_ + 2) 2
      ((s.updMac n fun m => { m with quanta := q }).setFlag .MAC_STATUS_PAUSED (q != 0) n).selStopped n
  else if op = 0x101 then
    let s := s.count .MAC_RX_PAUSE_CNT n
    if !rx then s
    else
      let s := s.each ((List.range 8).filter fun c => bit (f.be (at_ + 2) 2) c && !bit (s.fld .MAC_FC_CFG_EXEMPT n) c) fun c s =>
        let q := f.be (at_ + 4 + 2 * c) 2
        let v := s.fld .MAC_STATUS_PFC_PAUSED n
        (s.updMac n fun m => { m with pfcQuanta := m.pfcQuanta.set c q }).setFld .MAC_STATUS_PFC_PAUSED (putBit v c (q != 0)) n
      s.selStopped n
  else s.count .MAC_CTL_UNK_CNT n

/-- The pause time of the port, or of a class, runs out (R218). -/
def Dev.pauseExpiry (n : Nat) (c : Option Nat) (s : Dev) : Dev :=
  match c with
  | none => (s.updMac n fun m => { m with quanta := 0 }).setFlag .MAC_STATUS_PAUSED false n
  | some c =>
    (s.updMac n fun m => { m with pfcQuanta := m.pfcQuanta.set c 0 }).setFld .MAC_STATUS_PFC_PAUSED
      (putBit (s.fld .MAC_STATUS_PFC_PAUSED n) c false) n

/-- REFRESH quanta have passed while an assertion holds (R219). -/
def Dev.pauseRefresh (n : Nat) (s : Dev) : Dev :=
  let q := s.fld .MAC_FC_TIME_QUANTA n
  match s.fld .MAC_FC_CFG_MODE n with
  | 1 => if s.flag .SWC_PORTBP_XOFF n then s.sendPause n q else s
  | 2 => s.each ((List.range 8).filter (bit (s.fld .SWC_PORTBP_XOFF_CLASS n))) fun c s => s.sendPfc n c q
  | _ => s

/-! ### Links (R207 to R210, R220) -/

/-- Whether the lane or PHY of a MAC carries it (R208). -/
def Dev.laneServes (s : Dev) (n : Nat) : Bool :=
  match laneOf n with
  | some l =>
    let m := s.fld .SDS_CFG_MODE l
    m != 0 && !s.flag .SDS_CTRL_RESET l && (n < 4 || m == 4 || n % 4 == 0)
  | none => s.flag .TPHY_CFG_EN (n - 20)

/-- The speed code of a MAC by its lane's mode; modes 2 and 4 take the negotiated one (R207). -/
def Dev.lineSpeed (s : Dev) (n negotiated : Nat) : Nat :=
  match laneOf n with
  | none => 0
  | some l =>
    match s.fld .SDS_CFG_MODE l with
    | 1 => 2
    | 2 | 4 => min negotiated 2
    | 3 => 3
    | 5 => 4
    | 6 => 5
    | _ => 6

/-- LINK of a MAC changes (R220). -/
def Dev.setLink (n : Nat) (up : Bool) (s : Dev) : Dev :=
  if s.flag .MAC_STATUS_LINK n == up then s
  else ((s.setFlag .MAC_STATUS_LINK up n).count .MAC_LINK_CHG_CNT n).linkBell n

/-- The link of a PHY (R210, R236). -/
def Dev.tphyLink (k : Nat) (up : Bool) (t : TphyLine) (s : Dev) : Dev :=
  let was := s.flag .TPHY_STATUS_LINK k
  let s := s.countBy t.symErrs .TPHY_SYMERR_CNT k
  let s := if was && !up then s.count .TPHY_LINK_LOSS_CNT k else s
  let s := (s.setFlag .TPHY_STATUS_LINK up k).setFlag .TPHY_STATUS_AN_DONE (up && s.flag .TPHY_CFG_AN_EN k) k
  if !up then s
  else
    let amp := match s.fld .TPHY_CFG_AMP k with
      | 0 => false
      | 1 => true
      | _ => t.offers24
    let role := match s.fld .TPHY_CFG_ROLE k with
      | 1 => true
      | 2 => false
      | _ => t.leader
    ((s.setFlag .TPHY_STATUS_AMP_ACTIVE amp k).setFlag .TPHY_STATUS_ROLE_ACTIVE role k).setFld .TPHY_STATUS_SQI t.sqi k

/-- What the lane or PHY of a MAC says of its link (R209): block lock, or the end of the negotiation in mode 1 with AN_EN, else code-group
synchronisation; a PHY's own link. -/
def Dev.laneUp (s : Dev) (n : Nat) : Bool :=
  match laneOf n with
  | some l => s.laneServes n && s.flag .SDS_STATUS_SYNC l && !bit s.sys.deadLanes l
      && (s.fld .SDS_CFG_MODE l != 1 || !s.flag .SDS_CFG_AN_EN l || s.flag .SDS_STATUS_AN_DONE l)
  | none => s.flag .TPHY_STATUS_LINK (n - 20)

/-- Whether the link of a MAC comes with the in-band word of its port (R209). -/
def Dev.inBand (s : Dev) (n : Nat) : Bool := match laneOf n with
  | some l => s.fld .SDS_CFG_MODE l == 2 || s.fld .SDS_CFG_MODE l == 4
  | none => false

/-- LINK and SPEED follow the line (R207, R220); in PORT reset LINK is 0 (R221). -/
def Dev.lineLink (n : Nat) (up : Bool) (speed : Nat) (s : Dev) : Dev :=
  let up := up && !s.flag .MAC_CTRL_RESET n
  (s.when up fun s => s.setFld .MAC_STATUS_SPEED (s.lineSpeed n speed) n).setLink n up

/-- The line of a MAC comes up or goes down (R208 to R210, R220): by a PHY's report, by the in-band word, or as its lane says. -/
def Dev.linkChange (n : Nat) (up : Bool) (speed : Nat) (t : TphyLine) (s : Dev) : Dev :=
  let s := if 20 ≤ n then s.tphyLink (n - 20) (up && s.laneServes n && !bit s.sys.deadPhys (n - 20)) t else s
  s.lineLink n (s.laneUp n && (!s.inBand n || up)) speed

/-- The MACs of a lane. -/
def macsOf (l : Nat) : List Nat := if l < 4 then [l] else if l < 8 then (List.range 4).map (· + (l - 3) * 4) else []

/-- A lane gains or loses LOCK, SYNC and AN_DONE; `errs` line code errors came with it (R235, R448). LINK of its MACs follows (R209); in modes
2 and 4 it comes with the in-band word and goes with SYNC. -/
def Dev.laneChange (l : Nat) (lock sync an : Bool) (errs : Nat) (s : Dev) : Dev :=
  let run := s.fld .SDS_CFG_MODE l != 0 && !s.flag .SDS_CTRL_RESET l && !bit s.sys.deadLanes l
  let lostLock := s.flag .SDS_STATUS_LOCK l && !(lock && run)
  let lost := lostLock || (s.flag .SDS_STATUS_SYNC l && !(sync && run))
  let s := s.countBy errs .SDS_CODE_ERR_CNT l
  let s := if lost then s.count .SDS_LOCK_LOSS_CNT l else s
  let s := ((s.setFlag .SDS_STATUS_LOCK (lock && run) l).setFlag .SDS_STATUS_SYNC (sync && run) l).setFlag .SDS_STATUS_AN_DONE (an && run) l
  let s := if lostLock && 8 ≤ l then s.count .PAR_LANE_LOSS_CNT else s
  s.each (macsOf l) fun n s => if s.inBand n && s.laneUp n then s else s.lineLink n (s.laneUp n) 0

/-- The traverse frame that leaves on MAC `p` ends there with a line error (R221, R233). -/
def Dev.travBreak (p : Nat) (s : Dev) : Dev :=
  s.each [travBase p, travBase p + 1] fun n s =>
    match (s.macSt n).travOn, (s.macSt n).trav with
    | true, some t =>
      if t.port ≠ some p then s
      else
        ((s.updMac p fun m => { m with last := some ⟨t.out, none, true⟩ }).updMac n fun m => { m with trav := some { t with port := none } }).setFlag
          .MAC_STATUS_TX_IDLE true p
    | _, _ => s

/-- The traverse frame that MAC `n` is receiving is cut short: where it leaves, it ends with a line error (R221, R226). -/
def Dev.travCut (n : Nat) (s : Dev) : Dev :=
  let p := if (s.macSt n).travOn then (s.macSt n).trav.bind Trav.port else none
  (s.each p.toList Dev.travBreak).updMac n fun m => { m with travOn := false, trav := none }

/-- A write of the SDS page: MODE and FEC by R207 and R235. A change of MODE truncates the frames in flight (R233), and the lane locks anew; LINK
follows AN_EN (R209).
(DEDUCED: log entry 23.) -/
def Dev.sdsWrite (r : Reg) (l v : Nat) (s : Dev) : Dev :=
  match r with
  | .SDS_CFG =>
    let m := bits v 3 0
    let fec := bits v 17 16
    let modeOk := match m with
      | 0 => true
      | 1 | 3 => l ≤ 7
      | 2 | 4 => 4 ≤ l && l ≤ 7
      | 5 | 6 | 7 => l ≤ 3
      | 8 => 8 ≤ l
      | _ => false
    let m' := if modeOk then m else s.fld .SDS_CFG_MODE l
    let fecOk := fec == 0 || (fec == 1 && (m' == 6 || m' == 7)) || (fec == 2 && m' == 7)
    let ill (fi : FieldInfo) : Bool := (fi.is .SDS_CFG_MODE && !modeOk) || (fi.is .SDS_CFG_FEC && !fecOk)
    let old := s.fld .SDS_CFG_MODE l
    let an := s.flag .SDS_CFG_AN_EN l
    let s := s.plainIf ill r v l
    if s.fld .SDS_CFG_MODE l ≠ old then (s.each (macsOf l) fun n s => (s.truncate n).travBreak n).laneChange l false false false 0
    else if s.flag .SDS_CFG_AN_EN l ≠ an then s.each (macsOf l) fun n s => if s.inBand n then s else s.lineLink n (s.laneUp n) 0
    else s
  | .SDS_CTRL =>
    let s := s.plain r v l
    let s := if bit v 1 then s else s.each (macsOf l) fun n s => s.updMac n fun m => { m with loop := [] }
    if bit v 0 then s.laneChange l false false false 0 else s
  | r => s.plain r v l

/-- A write of the TPHY page; RESTART and clearing EN drop the link until it comes up again (R236). (DEDUCED: log entry 23.) -/
def Dev.tphyWrite (r : Reg) (k v : Nat) (s : Dev) : Dev :=
  let s := s.plain r v k
  let drop := match r with
    | .TPHY_CTRL => bit v 0 && s.flag .TPHY_CFG_EN k
    | .TPHY_CFG => !s.flag .TPHY_CFG_EN k
    | _ => false
  if drop then (s.tphyLink k false default).setLink (20 + k) false else s

/-! ### PORT reset (R221) -/

/-- The registers of the MAC page `n`. -/
def macRegs (n off : Nat) : Bool := off / 0x10000 == 0x30 + n

/-- A PORT reset of MAC `n` starts. (DEDUCED: log entry 23.) -/
def Dev.portReset (n : Nat) (s : Dev) : Dev :=
  let m := s.macSt n
  let s := s.setLink n false
  let s := (((s.truncate n).travBreak n).travCut n).unselect n
  let s := s.updMac n fun x => { (default : MacSt) with last := x.last, ringPos := m.ringPos, ringUsed := m.ringUsed }
  let s := if n < 4 then { s with vlt := { s.vlt with sak := Tab.clear (fun k => k / 4 == n) s.vlt.sak } } else s
  let s := (s.resetRegs .PORT (macRegs n)).setFlag .MAC_CTRL_RESET true n
  { s with sys := { s.sys with portRst := putBit s.sys.portRst n true } }

/-- The PORT reset is complete; TRAV_ACTIVE shows the binding again (R234). -/
def Dev.portResetEnd (n : Nat) (s : Dev) : Dev :=
  let s := (s.setFlag .MAC_CTRL_RESET false n).setFlag .MAC_STATUS_TRAV_ACTIVE (s.traverse n) n
  { s with sys := { s.sys with portRst := putBit s.sys.portRst n false } }

/-! ### Traverse mode (R222 to R227) -/

/-- Whether the port of a bound MAC is up for traverse: 100 Mb/s (R222). -/
def Dev.travUp (s : Dev) (n : Nat) : Bool := s.flag .MAC_STATUS_LINK n && s.fld .MAC_STATUS_SPEED n == 1

/-- What a bound MAC puts on the line for a received frame (R225, R226): bytes and whether a transmit error ends them. -/
def travOut (f sampled : Frame) (maxlen : Nat) (cut regen : Bool) : Frame × Bool :=
  if maxlen < f.length then (sampled.take (maxlen + 1), true)
  else if cut ∨ f.length < 64 then (sampled, true)
  else
    let b := sampled.take (f.length - 4)
    let fcs := if regen then leBytes 4 (crc32 b) else f.drop (f.length - 4)
    if f.fcsOk then (b ++ fcs, false) else (b ++ fcs.map (~~~ ·), false)

/-- The bytes written to a ring of 2,048 bytes from a stream position on (R224). -/
def Dev.ringFill (base : Nat) : Nat → List Byte → Dev → Dev
  | _, [], s => s
  | pos, b :: t, s => Dev.ringFill base (pos + 1) t (s.setByte (base + pos % 0x800) b)

/-- The engine of the binding of MAC `n`: its rink, number, and the base of the ring of the MAC in its data memory (R224). -/
def Dev.travRing (s : Dev) (n : Nat) : Nat × Nat × Nat :=
  let b := travBase n
  let mid := s.fld .MAC_TRAV_MID b
  (mid / 8, mid % 8, s.fld .MAC_TRAV_WIN b * 0x1000 + (if n = b then 0 else 0x800))

/-- Whether the bound engine runs: it is online, and its rink READY (R227). -/
def Dev.travRuns (s : Dev) (n : Nat) : Bool :=
  let (rink, e, _) := s.travRing n
  s.rinkOn rink && !s.inRinkReset rink && s.flag .RNK_STATUS_READY rink && s.engOnline rink e

/-- The SFD of a frame on MAC `n` of a bound pair: the job of R224, or its refusal by R227. -/
def Dev.travSfd (n ago : Nat) (s : Dev) : Dev :=
  if !s.traverse n || !s.flag .MAC_CFG_EN_RX n || !s.travUp n || s.flag .MAC_CTRL_RESET n || (s.macSt n).travOn then s
  else
    let b := travBase n
    let (rink, e, off) := s.travRing n
    let pos := (s.macSt n).ringPos
    let stamp := s.ingressStamp n ago
    let job0 := putBits (putBit (putBits (s.reg .MAC_TRAV_JOB b) 15 14 3) 16 true) 20 18 e
    let job := jobWords job0 (off + pos % 0x800) 0 n 0 stamp (s.fld .MAC_CFG_TB n) 0
    let s := (s.updMac n fun m => { m with trav := some ⟨pos, stamp, s.fld .MAC_CFG_MAXLEN n, [], [], false, none⟩, travOn := true }).setFlag
      .MAC_STATUS_RX_IDLE false n
    if s.travRuns n then
      match s.push rink job (some (.mac n)) with
      | (.refused, s) => s.count .MAC_LOCAL_DROP_CNT n
      | (_, s) => s
    else
      let s := if s.routeFails rink then s.count .SMF_JOBDROP_CNT else s.count .RNK_PUSH_REFUSE_CNT rink
      s.count .MAC_LOCAL_DROP_CNT n

/-- The next bytes of the frame reach the ring, up to byte MAXLEN + 1 (R224, R226). A rink that is off takes none, and each counts (R22, R525). -/
def Dev.travBytes (n : Nat) (l : List Byte) (s : Dev) : Dev :=
  match (s.macSt n).travOn, (s.macSt n).trav with
  | true, some t =>
    let (rink, e, off) := s.travRing n
    let l := l.take (t.maxlen + 1 - t.rx.length)
    let pos := t.start + t.rx.length
    let s := if s.rinkOn rink then Dev.ringFill (dmemBase rink e + off) pos l s else s.countBy l.length .SYS_DOMAIN_OFF_CNT
    s.updMac n fun m => { m with
      trav := some { t with rx := t.rx ++ l }, ringPos := (pos + l.length) % 0x800, ringUsed := min 0x800 (m.ringUsed + l.length) }
  | _, _ => s

/-- The MAC on which a frame of a bound MAC leaves: the other of the pair, or its own where that has no link and LOOP_EN is set; none where neither has
a link (R227), or where that one may not transmit (R216). -/
def Dev.travPort (s : Dev) (n : Nat) : Option Nat :=
  let b := travBase n
  let other := 2 * b + 1 - n
  let p := if s.travUp other then some other else if s.flag .MAC_TRAV_LOOP_EN b && s.travUp n then some n else none
  p.filter fun p => s.flag .MAC_CFG_EN_TX p && !s.txHeld && !s.flag .MAC_CTRL_RESET p

/-- The transmission of the frame begins before its first byte is sampled: what then changes lets it complete (R216, R223). -/
def Dev.travBegin (n : Nat) (s : Dev) : Dev :=
  match (s.macSt n).travOn, (s.macSt n).trav with
  | true, some t =>
    if t.begun then s
    else
      let p := s.travPort n
      (s.each p.toList fun p s => s.setFlag .MAC_STATUS_TX_IDLE false p).updMac n fun m => { m with trav := some { t with begun := true, port := p } }
  | _, _ => s

/-- The MAC samples the next `k` bytes for the other port: from the ring, or unchanged where the engine does not run (R225, R227). -/
def Dev.travSample (n k : Nat) (s : Dev) : Dev :=
  let s := s.travBegin n
  match (s.macSt n).travOn, (s.macSt n).trav with
  | true, some t =>
    let (rink, e, off) := s.travRing n
    let runs := s.travRuns n
    let i := t.out.length
    let byte (j : Nat) : Byte :=
      if runs then (s.bytes (dmemBase rink e + off + (t.start + i + j) % 0x800) 1).headD 0#8 else t.rx.getD (i + j) 0#8
    s.updMac n fun m => { m with trav := some { t with out := t.out ++ (List.range (min k (t.rx.length - i))).map byte } }
  | _, _ => s

/-- The counter of R211 for a frame that a bound MAC has received: an accepted one counts under R212 at most, as MAC_RX_OK_CNT is inactive (R222). -/
def Dev.travCount (n : Nat) (t : Trav) (cut : Bool) (s : Dev) : Dev :=
  if t.maxlen < t.rx.length then s.count .MAC_GIANT_CNT n
  else if t.rx.length < 64 then s.count .MAC_RUNT_CNT n
  else if cut || !Frame.fcsOk t.rx then s.count .MAC_FCS_CNT n
  else if Frame.lenError t.rx then s.count .MAC_LEN_CNT n
  else s

/-- The frame ends: what has not been sampled is sampled, and the frame is on the line of the MAC on which it leaves as R225 and R226 say, where that still
has its link. -/
def Dev.travEnd (n : Nat) (cut : Bool) (s : Dev) : Dev :=
  let s := s.travSample n 0x4000
  match (s.macSt n).travOn, (s.macSt n).trav with
  | true, some t =>
    let bad := cut || t.maxlen < t.rx.length || t.rx.length < 64 || !Frame.fcsOk t.rx
    let s := (s.updMac n fun m => { m with travOn := false }).setFlag .MAC_STATUS_RX_IDLE true n
    let s := (s.travCount n t cut).when bad fun s => s.count .MAC_TRAV_BAD_CNT n
    match t.port with
    | none => s
    | some p =>
      let (l, err) := travOut t.rx t.out t.maxlen cut (s.flag .MAC_TRAV_FCS_REGEN (travBase n))
      (s.when (s.travUp p) (Dev.sends p ⟨l, none, err⟩)).setFlag .MAC_STATUS_TX_IDLE true p
  | _, _ => s

/-- The course of a frame on a bound port (TRAVERSE_FRAME, R223 to R226): its SFD, `sfd` × 2^-8 ns ago; bytes that have arrived in the ring; `k`
bytes that are sampled next; its end, `cut` short by link loss or a code error or not. In near-end loopback the bytes are those of the oldest frame of
the MAC's own that has not come back (R235; DESIGN CHOICE: log entry 23). -/
def Dev.traverseFrame (n : Nat) (sfd : Option Nat) (rx : List Byte) (k : Nat) (ends cut : Bool) (s : Dev) : Dev :=
  let back := (s.macSt n).loop.head?
  let s := match sfd with
    | some ago => if s.looped n && back.isNone then s else s.travSfd n ago
    | none => s
  let x := back.getD ⟨[], none, true⟩
  let own := x.bytes.drop ((((s.macSt n).trav.map Trav.rx).getD []).length)
  let (rx, cut) := if s.looped n then (if ends then own else own.take rx.length, x.err) else (rx, cut)
  let s := s.when (s.looped n && ends && (s.macSt n).travOn) fun s => s.updMac n fun m => { m with loop := m.loop.drop 1 }
  let s := (s.when (!rx.isEmpty) (Dev.travBytes n rx)).when (k != 0) (Dev.travSample n k)
  s.when ends (Dev.travEnd n cut)

/-- A write to the own data memory of an engine that reaches a byte of a traverse frame after it has been sampled counts: a byte of the ring that holds
one, and is none of those that have arrived and are not sampled yet (R225). -/
def Dev.travWrote (pa size : Nat) (s : Dev) : Dev :=
  s.each ((List.range 16).map (· + 4)) fun n s =>
    if !s.traverse n then s
    else
      let m := s.macSt n
      let (rink, e, off) := s.travRing n
      let base := dmemBase rink e + off
      let waiting := match m.travOn, m.trav with
        | true, some t => t.rx.length - t.out.length
        | _, _ => 0
      let age (k : Nat) : Nat := (m.ringPos + 0xFFF - (pa + k - base)) % 0x800
      let hit (k : Nat) : Bool := base ≤ pa + k && pa + k < base + 0x800 && age k < m.ringUsed && waiting ≤ age k
      s.when ((List.range size).any hit) fun s => s.count .MAC_TRAV_LATE_CNT n

/-! ### Register pages -/

/-- The next PN of a secure association that begins to transmit is 1, as IEEE 802.1AE has it (PRESUMED, log entry 21). -/
def Dev.txpnRestart (n : Nat) (s : Dev) : Dev :=
  ((s.setReg .MAC_SEC_TXPN_LOW 1 n).setReg .MAC_SEC_TXPN_HIGH 0 n).setFlag .MAC_SEC_STATUS_PN_NEAR false n

/-- A write of a MAC page (R213, R222). -/
def Dev.macWrite (r : Reg) (n j v : Nat) (s : Dev) : Dev :=
  match r with
  | .MAC_CFG =>
    let ill (fi : FieldInfo) : Bool := fi.is .MAC_CFG_MAXLEN && s.traverse n && 1522 < bits v 29 16
    s.plainIf ill r v n
  | .MAC_CTRL => if bit v 0 && !s.flag .MAC_CTRL_RESET n then (s.plain r v n).portReset n else s.plain r v n
  | .MAC_TRAV =>
    let long := 1522 < s.fld .MAC_CFG_MAXLEN n || 1522 < s.fld .MAC_CFG_MAXLEN (n + 1)
    let ill (fi : FieldInfo) : Bool := fi.is .MAC_TRAV_EN && bit v 0 && long
    let ring (s : Dev) : Bool × Nat × Nat := (s.flag .MAC_TRAV_EN n, s.fld .MAC_TRAV_MID n, s.fld .MAC_TRAV_WIN n)
    let old := ring s
    let s := s.plainIf ill r v n
    let en := s.flag .MAC_TRAV_EN n
    let s := s.when (ring s != old) fun s => s.each [n, n + 1] fun n s => s.updMac n fun m => { m with ringUsed := 0 }
    (s.setFlag .MAC_STATUS_TRAV_ACTIVE en n).setFlag .MAC_STATUS_TRAV_ACTIVE en (n + 1)
  | .MAC_FC_CFG => (s.plain r v n).bpUpdate n
  | .MAC_SEC_CFG =>
    let an := s.fld .MAC_SEC_CFG_TX_AN n
    let s := s.plain r v n
    if s.fld .MAC_SEC_CFG_TX_AN n = an then s else s.txpnRestart n
  | r => s.plain r v n j

/-- A read of the SWC pages. -/
def Dev.swcRead (r : Reg) (i j k mid ctx : Nat) (s : Dev) : Nat :=
  match r with
  | .SWC_PORTBP => putBit (s.reg r i) 16 (s.portDown i)
  | .SWC_INJRES => s.swc.injRes.get (mid * 4 + ctx)
  | r => s.reg r i j k

/-- Whether a gate list register of a bank may not change (R262). -/
def Dev.gclLocked (s : Dev) (n b : Nat) : Bool :=
  s.flag .SWC_GCL_CFG_EN n && (b == s.fld .SWC_GCL_STAT_OPER_BANK n || s.flag .SWC_GCL_STAT_PENDING n)

/-- Whether the capture ring that a write of SWC_CAP_CFG enables lies inside partition 4 (R269). -/
def Dev.capInside (s : Dev) (records : Nat) : Bool :=
  let base := s.reg64 .SWC_CAP_BASE_LOW .SWC_CAP_BASE_HIGH
  let last := base + 144 * records - 1
  records != 0 && last < 0x8000000 && (List.range (bankOf last + 1 - bankOf base)).all fun b => s.partOf (bankOf base + b) == 4

/-- A write of the SWC pages (R251, R262, R269, R272, R273). -/
def Dev.swcWrite (r : Reg) (i j k mid ctx v : Nat) (s : Dev) : Dev :=
  match r with
  | .SWC_TBL_CMD => s.tblCmd v
  | .SWC_FREE => s.freeCopy mid v
  | .SWC_INJ => s.injWrite i mid ctx v
  | .SWC_GCL_SW => s.gclArm i v
  | .SWC_GCL_CFG =>
    let was := s.flag .SWC_GCL_CFG_EN i
    let s := s.plain r v i
    let on := s.flag .SWC_GCL_CFG_EN i
    if on && !was then s.gclStart i else if was && !on then s.gclStop i else s
  | .SWC_GCL_CYCLE | .SWC_GCL_BASE | .SWC_GCL_LEN | .SWC_GCE | .SWC_GCE_GATES =>
    if s.gclLocked i j then s.refuseWrite r else s.plain r v i j k
  | .SWC_CFG => (s.plain r v).bpAll
  | .SWC_POOL_CFG => (s.plainIf (fun fi => fi.is .SWC_POOL_CFG_XON_FREE && bits v 31 16 ≤ bits v 15 0) r v).bpAll
  | .SWC_PORTTH => (s.plainIf (fun _ => bits v 15 0 ≤ bits v 31 16) r v i).bpUpdate i
  | .SWC_PORTCFG =>
    let sum := s.reserved - s.fld .SWC_PORTCFG_GUAR_CELLS i - s.fld .SWC_PORTCFG_HDRM_CELLS i + bits v 15 0 + bits v 31 16
    ((s.plainIf (fun _ => s.fld .SWC_BUF_STATUS_TOTAL < sum) r v i).poolShow).bpAll
  | .SWC_PORTRSV =>
    let sum := s.reserved - s.fld .SWC_PORTRSV_SCHED_RSV i + bits v 15 0
    ((s.plainIf (fun fi => fi.is .SWC_PORTRSV_SCHED_RSV && s.fld .SWC_BUF_STATUS_TOTAL < sum) r v i).poolShow).bpAll
  | .SWC_CAP_CFG =>
    let was := s.flag .SWC_CAP_CFG_EN
    let s := s.plainIf (fun fi => fi.is .SWC_CAP_CFG_EN && bit v 31 && !s.capInside (bits v 17 0)) r v
    if s.flag .SWC_CAP_CFG_EN && !was then s.updSwc fun w => { w with capMatch := [] } else s
  | r => s.plain r v i j k

end Sys2Proof.Machine
end

