-- ==== Sys2Proof/Machine/CtlOps.lean ====
section
/-! DEFINITION. Cyclic control: the process image, latches, task cycles, overruns, safe outputs and program exchange (R413
to R430, R435, R436, R440, R444). -/

namespace Sys2Proof.Machine

/-- The master ID that the writes of CTL and of the SLM to shared memory carry (R17 lists no other; DESIGN CHOICE, log entry 17). -/
def ctlMid : Nat := 0x70

/-- A control task. -/
def Dev.task (s : Dev) (t : Nat) : TaskSt := s.ctl.task.get t

/-- The device with a task changed. -/
def Dev.updTask (t : Nat) (f : TaskSt → TaskSt) (s : Dev) : Dev := { s with ctl := { s.ctl with task := s.ctl.task.upd t f } }

/-! ### The process image (R415, R416) -/

/-- CTL_PI_BASE. -/
def Dev.piBase (s : Dev) : Nat := s.reg64 .CTL_PI_BASE_LOW .CTL_PI_BASE_HIGH

/-- The entry of a slot in the slot table. -/
def Dev.slotEnt (s : Dev) (n : Nat) : Nat := s.view (s.piBase + 4 * n) 4

/-- CTL reads the slot table entries of slots: errors that it meets count (R160). (DESIGN CHOICE: log entry 17.) -/
def Dev.readEnts (l : List Nat) (s : Dev) : Dev := s.touch ctlMid (l.map fun n => (s.piBase + 4 * n, 4))

/-- BASE, SIZE, TASK, OWNED and VALID of a slot. -/
def Dev.slotBase (s : Dev) (n : Nat) : Nat := bits (s.slotEnt n) 16 0
def Dev.slotSize (s : Dev) (n : Nat) : Nat := bits (s.slotEnt n) 21 17
def Dev.slotTask (s : Dev) (n : Nat) : Nat := bits (s.slotEnt n) 25 22
def Dev.slotOwned (s : Dev) (n : Nat) : Bool := bit (s.slotEnt n) 26
def Dev.slotValid (s : Dev) (n : Nat) : Bool := bit (s.slotEnt n) 27

/-- An output slot bears an odd number. -/
def isOut (n : Nat) : Bool := n % 2 == 1

/-- The address of a copy of a slot. -/
def Dev.copyAddr (s : Dev) (n c : Nat) : Nat := s.piBase + 64 * (s.slotBase n + c * s.slotSize n)

/-- The slots that a task latches (inputs) or commits (outputs). -/
def Dev.taskSlots (s : Dev) (t : Nat) (out : Bool) : List Nat :=
  (List.range 8192).filter fun n => isOut n == out && s.slotValid n && s.slotOwned n && s.slotTask n == t

/-- The bytes of a slot copy: header and data (R416); `ts` in 2^-8 ns. -/
def slotBytes (ts tb : Nat) (data : List Byte) : List Byte :=
  leBytes 4 (ts / 256) ++ leBytes 1 (ts % 256) ++ leBytes 1 tb ++ leBytes 2 data.length ++ leBytes 8 0 ++ data

/-! ### LAST and quality (R420, R421) -/

/-- LAST of a slot by the table of R420. -/
def Dev.lastOf (s : Dev) (n : Nat) : Nat :=
  if isOut n then
    if s.flag .CTL_STATUS_HOLD || !s.ctl.live.get n then 3 else s.fld .CTL_SLOT_N n
  else if s.flag .CTL_SLOT_FORCED n then 3
  else if s.flag .CTL_SLOT_PEND n || !s.slotOwned n then s.fld .CTL_SLOT_N n
  else s.fld .CTL_SLOT_F n

/-- LAST of a slot is brought up to date; the quality of an unowned input slot too, which shows FORCED, GOOD or ABSENT at
every moment (R421). -/
def Dev.slotShow (n : Nat) (s : Dev) : Dev :=
  let s := s.setFld .CTL_SLOT_LAST (s.lastOf n) n
  if isOut n || s.slotOwned n then s
  else s.setFld .CTL_SLOT_QUAL (if s.flag .CTL_SLOT_FORCED n then 3 else if s.flag .CTL_SLOT_LOST n then 2 else 0) n

/-- Every existing slot is brought up to date. -/
def Dev.slotsShow (s : Dev) : Dev := s.each ((List.range 8192).filter s.slotValid) Dev.slotShow

/-- The device enters or leaves Hold (R430). -/
def Dev.ctlHold (on : Bool) (s : Dev) : Dev :=
  (s.setFlag .CTL_STATUS_HOLD on).each ((List.range 8192).filter fun n => isOut n && s.slotValid n) Dev.slotShow

/-! ### Commits, loss, force (R417, R419, R421, R422) -/

/-- SEQ of a slot goes up modulo 256. -/
def Dev.slotSeq (n : Nat) (s : Dev) : Dev := s.setFld .CTL_SLOT_SEQ ((s.fld .CTL_SLOT_SEQ n + 1) % 256) n

/-- The commit of an input slot: B and N swap, PEND is set, LOST is cleared (R417). -/
def Dev.inCommit (n : Nat) (s : Dev) : Dev :=
  let b := s.fld .CTL_SLOT_B n
  let k := s.fld .CTL_SLOT_N n
  let s := { s with ctl := { s.ctl with commits := s.ctl.commits.upd n (· + 1) } }
  (((((s.setFld .CTL_SLOT_B k n).setFld .CTL_SLOT_N b n).setFlag .CTL_SLOT_PEND true n).setFlag .CTL_SLOT_LOST false n).slotSeq n).slotShow n

/-- The commit of an output slot: N to F, B to N, F to B (R419); `live` whether pick-ups then read copy N. -/
def Dev.outCommit (live : Bool) (n : Nat) (s : Dev) : Dev :=
  let f := s.fld .CTL_SLOT_F n
  let k := s.fld .CTL_SLOT_N n
  let b := s.fld .CTL_SLOT_B n
  let s := (((s.setFld .CTL_SLOT_F k n).setFld .CTL_SLOT_N b n).setFld .CTL_SLOT_B f n).slotSeq n
  ({ s with ctl := { s.ctl with live := s.ctl.live.set n live, commits := s.ctl.commits.upd n (· + 1) } }).slotShow n

/-- A write to CTL_COMMIT (R417, R419). -/
def Dev.slotCommit (n : Nat) (s : Dev) : Dev :=
  if !s.slotValid n then s.misuse .CTL
  else if !isOut n then s.inCommit n
  else if s.slotOwned n then s.count .CTL_COMMIT_REFUSE_CNT
  else s.outCommit true n

/-- A loss report of a station (R421): the latches count from the moment LOST is set. -/
def Dev.lossReport (i : Nat) (s : Dev) : Dev :=
  let n := 2 * i
  if !s.slotValid n then s.misuse .CTL
  else if s.flag .CTL_SLOT_LOST n then s
  else ((s.setFlag .CTL_SLOT_LOST true n).setFld .CTL_SLOT_STALE_N 0 n).slotShow n

/-- A write to CTL_FORCE (R422). -/
def Dev.slotForce (n mid : Nat) (en : Bool) (s : Dev) : Dev :=
  if mid ≠ 0x40 ∨ isOut n ∨ !s.slotValid n then s.misuse .CTL
  else (s.setFlag .CTL_SLOT_FORCED en n).slotShow n

/-- The ARITH report of a task (R436). -/
def Dev.arithReport (t : Nat) (s : Dev) : Dev := (s.setFlag .CTL_TASK_STAT_ARITH true t).count .CTL_ARITH_CNT t

/-! ### T0 (R424, R425) -/

/-- The doorbell of CTL_DB for an event that is enabled. -/
def Dev.ctlBell (f : Fld) (s : Dev) : Dev :=
  s.when (s.flag f) fun s => s.ringMask (s.fld .CTL_DB_TARGET) (2 ^ s.fld .CTL_DB_BIT)

/-- Whether the SLM gives cycles: COLDSTART, INTEGRATE or ACTIVE (R425). -/
def Dev.slmRuns (s : Dev) : Bool := 2 ≤ s.fld .SLM_STATUS_STATE && s.fld .SLM_STATUS_STATE ≤ 4

/-- The period of a task in force by its settings `cfg` (R424). -/
def Dev.taskPeriod (s : Dev) (t cfg : Nat) : Nat :=
  match bits cfg 2 1 with
  | 0 => s.reg .CTL_TASK_PERIOD t
  | 1 => bits cfg 23 16 * s.fld .SLM_BANK_CYCLE_CYCLE_NS (s.fld .SLM_STATUS_OPER_BANK)
  | _ =>
    let m := bits cfg 9 5
    bits cfg 23 16 * s.reg .SWC_GCL_CYCLE m (s.fld .SWC_GCL_STAT_OPER_BANK m)

/-- Whether a write of CTL_TASK_CFG may set EN (R424). -/
def Dev.taskLegal (s : Dev) (t v : Nat) : Bool :=
  let d := s.reg .CTL_TASK_DEADLINE t
  1000 ≤ d && d < s.taskPeriod t v
    && (bits v 2 1 != 1 || bits v 4 3 == s.fld .SLM_CFG_TB)
    && (bits v 2 1 != 2 || bits v 4 3 == s.fld .SWC_GCL_CFG_TB (bits v 9 5))

/-- NS of the switch-island copy of a task's time base. -/
def Dev.taskNow (s : Dev) (t : Nat) : Nat := tbNs (s.copyVal islSwitch (s.fld .CTL_TASK_CFG_TB t))

/-- A task that the SLM no longer leads continues with its last period from its last T0, skipped or not (R425); one that has had no T0 since EN was
set has none to continue from. -/
def Dev.taskCoast (t : Nat) (s : Dev) : Dev :=
  if s.flag .CTL_TASK_CFG_EN t && s.fld .CTL_TASK_CFG_SRC t == 1 && !s.slmRuns && (s.task t).due == [] then
    s.updTask t fun x => { x with due := x.lastT0.toList.map fun p => (p + s.taskPeriod t (s.reg .CTL_TASK_CFG t)) % 2 ^ 32 }
  else s

/-- Every task coasts that has to. -/
def Dev.tasksCoast (s : Dev) : Dev := s.each (List.range 16) Dev.taskCoast

/-- A Slalom cycle `num` starts at `c`: tasks of SRC 1 take their T0 from it (R424, R425). -/
def Dev.ctlSlalom (num c : Nat) (s : Dev) : Dev :=
  s.each (List.range 16) fun t s =>
    if s.flag .CTL_TASK_CFG_EN t && s.fld .CTL_TASK_CFG_SRC t == 1 && num % s.fld .CTL_TASK_CFG_DIV t == 0 then
      s.updTask t fun x => { x with due := x.due ++ [(c + s.reg .CTL_TASK_OFFSET t) % 2 ^ 32] }
    else s

/-- The SLM gives cycles again: tasks that coasted drop the T0 of their own (R425). -/
def Dev.ctlRelock (s : Dev) : Dev :=
  s.each (List.range 16) fun t s =>
    if s.fld .CTL_TASK_CFG_SRC t = 1 then s.updTask t fun x => { x with due := [] } else s

/-- A cycle of the gate list of MAC `m` starts at `c`: every DIV-th one is a T0 of tasks with SRC 2 (R424). (DEDUCED: log entry 25.) -/
def Dev.ctlGate (m c : Nat) (s : Dev) : Dev :=
  s.each (List.range 16) fun t s =>
    if s.flag .CTL_TASK_CFG_EN t && s.fld .CTL_TASK_CFG_SRC t == 2 && s.fld .CTL_TASK_CFG_MAC t == m then
      let k := (s.task t).gates
      let t0 := (c + s.reg .CTL_TASK_OFFSET t) % 2 ^ 32
      s.updTask t fun x => { x with gates := k + 1, due := if k % s.fld .CTL_TASK_CFG_DIV t = 0 then x.due ++ [t0] else x.due }
    else s

/-- The T0 instants to come by the settings as they stand (R424, R425): under SRC 0 the first of BASE + k × PERIOD that is not past and has not
come; under SRC 1, where the SLM gives no cycles, the first one periods after the last T0. -/
def Dev.taskTimes (s : Dev) (t : Nat) : List Nat :=
  let last := (s.task t).lastT0
  match s.fld .CTL_TASK_CFG_SRC t with
  | 0 =>
    let f := firstStart (s.reg .CTL_TASK_BASE t) (s.reg .CTL_TASK_PERIOD t) (s.taskNow t)
    [if last = some f then (f + s.reg .CTL_TASK_PERIOD t) % 2 ^ 32 else f]
  | 1 =>
    let p := s.taskPeriod t (s.reg .CTL_TASK_CFG t)
    if s.slmRuns then [] else last.toList.map fun l => firstStart ((l + p) % 2 ^ 32) p (s.taskNow t)
  | _ => []

/-- An enabled task takes its T0 instants anew. -/
def Dev.taskRetime (t : Nat) (s : Dev) : Dev :=
  let due := s.taskTimes t
  if s.flag .CTL_TASK_CFG_EN t then s.updTask t fun x => { x with due := due } else s

/-- EN of a task is set or cleared. -/
def Dev.taskEnable (t : Nat) (on : Bool) (s : Dev) : Dev :=
  let s := s.updTask t fun x => { x with due := [], gates := 0, lastT0 := none, had := false }
  if on then s.taskRetime t
  else s.updTask t fun x => { x with isOpen := false, inTime := false, release := none }

/-- PD_SWC is on again, and with it the trigger unit: no T0 has occurred while it was off (R444). -/
def Dev.ctlPower (s : Dev) : Dev := s.each (List.range 16) Dev.taskRetime

/-! ### Programs in partition 1 (R431, R432) -/

/-- The address of a task's program. -/
def Dev.taskCode (s : Dev) (t : Nat) : Nat := s.reg64 .CTL_TASK_CODE_LOW .CTL_TASK_CODE_HIGH t

/-- The I/O map of a program: address and entries. -/
def Dev.ioMap (s : Dev) (code : Nat) : Nat × Nat := (code + 0x20 + 4 * s.view (code + 0x1A) 2, s.view (code + 0x1C) 2)

/-- The slots of a program's I/O map, in the order of their first appearance (R423). -/
def Dev.mapSlots (s : Dev) (code : Nat) : List Nat :=
  let m := s.ioMap code
  ((List.range m.2).map fun k => bits (s.view (m.1 + 8 * k) 4) 12 0).eraseDups

/-! ### The latch (R418, R421, R423) -/

/-- An input slot is latched by a task: what its latch table entry says of it (R418, R421). -/
def Dev.latchSlot (t n : Nat) (s : Dev) : Bool × Dev :=
  let new := s.flag .CTL_SLOT_PEND n
  let s := if new then
      ((s.setFld .CTL_SLOT_F (s.fld .CTL_SLOT_N n) n).setFld .CTL_SLOT_N (s.fld .CTL_SLOT_F n) n).setFlag .CTL_SLOT_PEND false n
    else s
  let k := s.fld .CTL_SLOT_STALE_N n
  let lost := s.flag .CTL_SLOT_LOST n
  let q := if s.flag .CTL_SLOT_FORCED n then 3 else if !lost then 0
    else if k < s.fld .CTL_TASK_HOLD_HOLD_CYC t then 1 else 2
  let s := (s.setFld .CTL_SLOT_QUAL q n).setFld .CTL_SLOT_STALE_N (if lost then min 15 (k + 1) else k) n
  (new, s.slotShow n)

/-- The latch table entry of a slot (R423). -/
def Dev.latchEnt (s : Dev) (t n : Nat) (new : Bool) : Nat :=
  let c := if isOut n then s.fld .CTL_SLOT_B n else if s.flag .CTL_SLOT_FORCED n then 3 else s.fld .CTL_SLOT_F n
  let off := (s.slotBase n + c * s.slotSize n) % 2 ^ 17
  if isOut n then off + b2n (s.flag .CTL_TASK_STAT_SAFE t || s.flag .CTL_STATUS_HOLD) * 2 ^ 21
  else off + s.fld .CTL_SLOT_QUAL n * 2 ^ 17 + b2n (s.flag .CTL_SLOT_LOST n) * 2 ^ 19 + b2n new * 2 ^ 20

/-- Whether CTL leaves the outputs of a task to PAR: Pair-Standby and the task in TASKS (R454). -/
def Dev.parHolds (s : Dev) (t : Nat) : Bool :=
  (s.fld .PAR_STATUS_STATE == parListen || s.fld .PAR_STATUS_STATE == parStandby) && bit (s.fld .PAR_COPY_CFG_TASKS) t

/-- PAR records whether the run of a task in TASKS ended in time (R458, R465). -/
def Dev.parTimely (t : Nat) (on : Bool) (s : Dev) : Dev :=
  { s with par := { s.par with inTime := if on then t :: s.par.inTime.erase t else s.par.inTime.erase t } }

/-- Whether what CTL reads and writes for the latch table of a task waits for a bank that is leaving retention (R165). -/
def Dev.tableWaits (s : Dev) (t : Nat) : Bool :=
  let m := s.ioMap (s.taskCode t)
  s.anyWaits [(s.taskCode t, 32), (m.1, 8 * m.2), (s.piBase, 0x8000), ((s.task t).latch, 4 * (s.task t).table.length)]

/-- The words of the latch table that are still to be written are written, unless they wait (R423). -/
def Dev.tableWrite (t : Nat) (s : Dev) : Dev :=
  let x := s.task t
  if x.table.isEmpty || s.tableWaits t then s
  else
    let s := s.each (List.range x.table.length) fun i s => s.physWrite ctlMid (x.latch + 4 * i) (leBytes 4 (x.table.getD i 0))
    s.updTask t fun x => { x with table := [] }

/-- The latch of a task: its input slots, then its latch table (R418, R423). -/
def Dev.latchTask (t : Nat) (s : Dev) : Dev :=
  let (news, s) := (s.taskSlots t false).foldl (fun (l, s) n =>
    let (new, s) := s.latchSlot t n
    (if new then n :: l else l, s)) (([] : List Nat), s)
  let m := s.ioMap (s.taskCode t)
  let slots := s.mapSlots (s.taskCode t)
  let s := (s.touch ctlMid [(s.taskCode t, 32), (m.1, 8 * m.2)]).readEnts (s.taskSlots t false ++ slots).eraseDups
  let table := slots.map fun n => s.latchEnt t n (news.contains n)
  (s.updTask t fun x => { x with release := some (4 * slots.length), table := table }).tableWrite t

/-- An armed exchange takes place at a latch whose T0 is at or after its instant (R440); PROG_ID of the new program goes into the event log (R431). -/
def Dev.exchangeAt (t t0 : Nat) (s : Dev) : Dev :=
  if !s.flag .CTL_TASK_CTRL_PENDING t || !reached (s.reg .CTL_XCHG_AT t) t0 then s
  else
    let old := s.taskCode t
    let s := (s.setReg .CTL_TASK_CODE_LOW (s.reg .CTL_XCHG_ADDR_LOW t) t).setReg .CTL_TASK_CODE_HIGH (s.reg .CTL_XCHG_ADDR_HIGH t) t
    let s := (s.setFlag .CTL_TASK_CTRL_PENDING false t).setFlag .CTL_TASK_CTRL_ARM false t
    let s := ((s.updTask t fun x => { x with ran := false, prev := old }).ctlBell .CTL_DB_EV_XCHG).modeUpdate
    let (c, s) := s.fresh
    s.eventLog 0x40 c [s.view (s.taskCode t + 8) 4, t]

/-- Whether a T0 falls at or before the deadline of the previous cycle, open or over (R425). -/
def Dev.beforeDeadline (s : Dev) (t t0 : Nat) : Bool :=
  let x := s.task t
  let d := s.reg .CTL_TASK_DEADLINE t
  let p := s.reg .CTL_TASK_T0 t
  if x.isOpen then reached t0 ((p + d) % 2 ^ 32) else x.had && sub32 t0 p ≤ d

/-- T0 of a task arrives, or a T0 is skipped (R418, R425, R428). (DEDUCED: log entry 25.) -/
def Dev.inputLatch (t : Nat) (s : Dev) : Dev :=
  match (s.task t).due with
  | [] => s
  | t0 :: rest =>
    let cfg := s.reg .CTL_TASK_CFG t
    let tb := s.fld .CTL_TASK_CFG_TB t
    let at_ := s.dueAt islSwitch tb t0
    if at_ = .ahead || !s.flag .CTL_TASK_CFG_EN t || !s.domOn .swc then s
    else
      let next := if bits cfg 2 1 = 0 then [(t0 + s.reg .CTL_TASK_PERIOD t) % 2 ^ 32] else rest
      let skip := at_ = .passed || s.beforeDeadline t t0
      let s := s.updTask t fun x => { x with due := next, cycle := (x.cycle + 1) % 65536, lastT0 := some t0 }
      if skip then (s.count .CTL_SKIP_CNT t).taskCoast t
      else
        let s := (s.setReg .CTL_TASK_T0 t0 t).updTask t fun x => { x with isOpen := true, inTime := false, release := none, had := true }
        let s := (s.taskCoast t).parTimely t false
        if s.fld .CTL_TASK_STAT_RUN t ≠ 0 then s
        else (s.exchangeAt t t0).latchTask t

/-- The latch table writes are acknowledged: the task's job leaves (R426). -/
def Dev.taskRelease (t : Nat) (s : Dev) : Dev :=
  let s := s.tableWrite t
  match if (s.task t).table.isEmpty then (s.task t).release else none with
  | none => s
  | some size =>
    let x := s.task t
    let s := s.updTask t fun x => { x with release := none }
    let mid := s.fld .CTL_TASK_STAT_ENG t
    let w0 := putBits (putBit (putBits (s.reg .CTL_TASK_JOB0 t) 15 14 3) 16 true) 20 18 (mid % 8)
    let tag := t + b2n (!x.ran) * 16 + x.cycle * 2 ^ 16
    let j := jobWords w0 x.latch size 0x51 0 (s.reg .CTL_TASK_T0 t * 256) (s.fld .CTL_TASK_CFG_TB t) tag
    let j := (j.set 6 (word x.prev)).set 7 (word (x.prev / 2 ^ 32))
    match s.push (mid / 8) j (some (.ctl t)) with
    | (.refused, s) => s.count .CTL_JOB_DROP_CNT
    | (_, s) => (s.setFld .CTL_TASK_STAT_RUN 1 t).updTask t fun x =>
      { x with ran := true, prev := 0, runT0 := s.reg .CTL_TASK_T0 t, mig := x.prev, fresh := true, frames := [], tys := [] }

/-! ### The deadline (R419, R427 to R429) -/

/-- The report of PGF.END reaches CTL (R427, R428). -/
def Dev.runReport (t : Nat) (s : Dev) : Dev :=
  let run := s.fld .CTL_TASK_STAT_RUN t
  let s := s.setFld .CTL_TASK_STAT_RUN 0 t
  s.updTask t fun x => { x with inTime := x.inTime || (run == 1 && x.isOpen), stop := false }

/-- A run ends because CTL raised STOP: its report is discarded (R429). -/
def Dev.runStopped (t : Nat) (s : Dev) : Dev :=
  ((s.setFld .CTL_TASK_STAT_RUN 0 t).updTask t fun x => { x with stop := false }).count .CTL_STOP_CNT t

/-- The task enters SAFE (R429); for a task of R454 UNFIT is set in place of LAST = 3. -/
def Dev.enterSafe (t : Nat) (s : Dev) : Dev :=
  let slots := s.taskSlots t true
  let s := s.setFlag .CTL_TASK_STAT_SAFE true t
  let s := if s.parHolds t then s.setFlag .PAR_STATUS_UNFIT true
    else ({ s with ctl := { s.ctl with live := slots.foldl (fun l n => l.set n false) s.ctl.live } }).each slots Dev.slotShow
  let s := s.ctlBell .CTL_DB_EV_SAFE
  if s.fld .CTL_TASK_STAT_RUN t = 0 then s else s.updTask t fun x => { x with stop := true }

/-- The task leaves SAFE; pick-ups read copy N from the next commit on (R429). -/
def Dev.leaveSafe (t : Nat) (s : Dev) : Dev := (s.setFlag .CTL_TASK_STAT_SAFE false t).updTask t fun x => { x with streak := 0 }

/-- Whether the deadline of the open cycle of a task has come. -/
def Dev.deadlineDue (s : Dev) (t : Nat) : Bool :=
  (s.task t).isOpen && s.domOn .swc
    && s.dueAt islSwitch (s.fld .CTL_TASK_CFG_TB t) ((s.reg .CTL_TASK_T0 t + s.reg .CTL_TASK_DEADLINE t) % 2 ^ 32) != .ahead

/-- The output commit of a cycle that ended in time (R419, R428, R429). -/
def Dev.taskCommit (t : Nat) (s : Dev) : Dev :=
  let safe := s.flag .CTL_TASK_STAT_SAFE t
  let s := if s.parHolds t then s.parTimely t true else s.each (s.taskSlots t true) fun n s => s.outCommit (!safe) n
  let s := (s.count .CTL_RUN_CNT t).setFld .CTL_TASK_STAT_CONSEC 0 t
  let s := s.updTask t fun x => { x with streak := x.streak + 1 }
  if safe && s.flag .CTL_TASK_CFG_SAFE_EXIT t && s.fld .CTL_TASK_CFG_OVR_LIMIT t ≤ (s.task t).streak then s.leaveSafe t else s

/-- An overrun (R428, R429). -/
def Dev.taskOverrun (t : Nat) (s : Dev) : Dev :=
  let k := min 255 (s.fld .CTL_TASK_STAT_CONSEC t + 1)
  let s := s.parTimely t false
  let s := ((s.count .CTL_OVR_CNT t).setFld .CTL_TASK_STAT_CONSEC k t).ctlBell .CTL_DB_EV_OVR
  let s := s.updTask t fun x => { x with streak := 0 }
  let s := if s.fld .CTL_TASK_STAT_RUN t = 1 then s.setFld .CTL_TASK_STAT_RUN 2 t else s
  if k = s.fld .CTL_TASK_CFG_OVR_LIMIT t then s.enterSafe t else s

/-- T0 + DEADLINE of a task: the output commit, or an overrun. -/
def Dev.outputDeadline (t : Nat) (s : Dev) : Dev :=
  if !s.deadlineDue t then s
  else
    let inTime := (s.task t).inTime
    let s := s.updTask t fun x => { x with isOpen := false, inTime := false, release := none }
    if inTime then s.taskCommit t else s.taskOverrun t

/-- Runs that were lost never report and execute no more (R428, R435): no context executes them and no queue holds their
job. (DEDUCED: log entry 25.) -/
def Dev.reapRuns (s : Dev) : Dev :=
  s.each (List.range 16) fun t s =>
    if s.fld .CTL_TASK_STAT_RUN t = 0 then s
    else
      let here (j : Job) : Bool := j.taskOf == t + 1
      let queued := (List.range 64).any fun e => (s.queue e).any (fun j => here j.2) || (s.eng.waiting.get e).any fun j => here j.2.1
      let runs := (List.range 256).any fun c => (s.ctx c).task == t + 1 && (s.ctx c).hasJob
      if queued || runs then s else (s.setFld .CTL_TASK_STAT_RUN 0 t).updTask t fun x => { x with stop := false }

/-! ### Registers (R422, R429, R440, R444) -/

/-- A write of ARM (R440). -/
def Dev.taskArm (t mid : Nat) (s : Dev) : Dev :=
  let a := s.reg64 .CTL_XCHG_ADDR_LOW .CTL_XCHG_ADDR_HIGH t
  let s := s.touch ctlMid [(a + 6, 1)]
  if mid ≠ 0x40 ∨ s.flag .CTL_TASK_CTRL_PENDING t ∨ s.view (a + 6) 1 ≠ t then s.count .CTL_XCHG_REFUSE_CNT
  else ((s.setFlag .CTL_TASK_CTRL_ARM true t).setFlag .CTL_TASK_CTRL_PENDING true t).modeUpdate

/-- A write of the CTL page. -/
def Dev.ctlWrite (r : Reg) (i mid v : Nat) (s : Dev) : Dev :=
  let s := match r with
    | .CTL_COMMIT | .CTL_FORCE => s.readEnts [bits v 12 0]
    | .CTL_LOSS => s.readEnts [2 * bits v 11 0]
    | _ => s
  match r with
  | .CTL_COMMIT => if s.slotValid (bits v 12 0) then (s.plain r v).slotCommit (bits v 12 0) else s.refuseWrite r
  | .CTL_LOSS => if s.slotValid (2 * bits v 11 0) then (s.plain r v).lossReport (bits v 11 0) else s.refuseWrite r
  | .CTL_FORCE =>
    let n := bits v 12 0
    if mid ≠ 0x40 ∨ isOut n ∨ !s.slotValid n then s.refuseWrite r else (s.plain r v).slotForce n mid (bit v 13)
  | .CTL_ARITH => (s.plain r v).arithReport (bits v 3 0)
  | .CTL_TASK_CFG =>
    let was := s.flag .CTL_TASK_CFG_EN i
    let old := s.reg r i
    let src (fi : FieldInfo) : Bool := fi.is .CTL_TASK_CFG_SRC && bits v 2 1 == 3
    let w := (writeWord r.info.fields src (s.reg r i) v).1
    let ill (fi : FieldInfo) : Bool := src fi || (fi.is .CTL_TASK_CFG_EN && bit v 0 && !s.taskLegal i w)
    let s := s.plainIf ill r v i
    let on := s.flag .CTL_TASK_CFG_EN i
    let now := s.reg r i
    if on != was then s.taskEnable i on
    else if bits now 4 1 = bits old 4 1 ∧ bits now 9 5 = bits old 9 5 then s
    else (s.updTask i fun x => { x with gates := 0 }).taskRetime i
  | .CTL_TASK_PERIOD | .CTL_TASK_BASE =>
    let old := s.reg r i
    let s := s.plain r v i
    if s.fld .CTL_TASK_CFG_SRC i = 0 ∧ s.reg r i ≠ old then s.taskRetime i else s
  | .CTL_TASK_STACK => if s.flag .CTL_TASK_CFG_EN i then s.refuseWrite r else s.plain r v i
  | .CTL_TASK_CTRL =>
    let s := if v / 8 = 0 then s else s.misuse .CTL
    let s := if bit v 0 then s.taskArm i mid else s
    if bit v 1 then s.leaveSafe i else s
  | r => s.plain r v i

end Sys2Proof.Machine
end

