-- ==== Sys2Proof/Machine/SlmOps.lean ====
section
/-! DEFINITION. The Slalom controller: gates, decoupling buffers, forwarding, acceptance, synchronisation, states and
schedule switches (R301 to R323). -/

namespace Sys2Proof.Machine

/-! ### Access -/

/-- The device with the Slalom controller changed. -/
def Dev.updSlm (f : SlmSt → SlmSt) (s : Dev) : Dev := { s with slm := f s.slm }

/-- SLM_STATUS.STATE codes (R325). -/
def slmOff : Nat := 0
def slmListen : Nat := 1
def slmCold : Nat := 2
def slmIntegrate : Nat := 3
def slmActive : Nat := 4

/-- State, operating bank, current cycle number, own node and its segment. -/
def Dev.slmState (s : Dev) : Nat := s.fld .SLM_STATUS_STATE
def Dev.slmBank (s : Dev) : Nat := s.fld .SLM_STATUS_OPER_BANK
def Dev.slmCycle (s : Dev) : Nat := s.fld .SLM_STATUS_CYCLE
def Dev.slmNode (s : Dev) : Nat := s.fld .SLM_NODE_NODE

/-- Value of the SLM's copy of its time base, in 2^-8 ns. -/
def Dev.slmNow (s : Dev) : Nat := tb40 (s.copyVal islSwitch (s.fld .SLM_CFG_TB))

/-- Whether an instant in 2^-8 ns modulo 2^40 has come at `now`. -/
def come (t now : Nat) : Bool := sub40 now t < 2 ^ 39

/-- The ring port of a direction: DIR 0 PORT_A, 1 PORT_B. -/
def Dev.ringPort (s : Dev) (dir : Bool) : Nat := if dir then s.fld .SLM_CFG_PORT_B else s.fld .SLM_CFG_PORT_A

/-- CYCLE_NS of a bank in 2^-8 ns. -/
def Dev.bankLen (s : Dev) (b : Nat) : Nat := s.fld .SLM_BANK_CYCLE_CYCLE_NS b * 256

/-- OFF_A or OFF_B of a gate. -/
def Dev.gateOff (s : Dev) (b g : Nat) (dir : Bool) : Nat :=
  if dir then s.reg .SLM_GATE_OFF_B b g else s.reg .SLM_GATE_OFF_A b g

/-- Whether the origin of a gate sends in a direction (R304). -/
def Dev.gateHas (s : Dev) (b g : Nat) (dir : Bool) : Bool := s.gateOff b g dir < s.fld .SLM_BANK_CYCLE_CYCLE_NS b

/-! ### States (R315, R316, R323) -/

/-- An armed bank operates at once in OFF and LISTEN (R323). -/
def Dev.slmArmNow (s : Dev) : Dev :=
  if s.flag .SLM_STATUS_PENDING then
    (s.setFld .SLM_STATUS_OPER_BANK (1 - s.slmBank)).setFlag .SLM_STATUS_PENDING false
  else s

/-- The SLM changes state; each change rings the doorbell of SLM_DB when EV_STATE is 1, and the control tasks of SRC 1
follow (R315, R425). -/
def Dev.slmGo (st : Nat) (s : Dev) : Dev :=
  let old := s.slmState
  if old = st then s
  else
    let ran := s.slmRuns
    let s := s.setFld .SLM_STATUS_STATE st
    let s := s.when (s.flag .SLM_DB_EV_STATE) fun s => s.ringMask (s.fld .SLM_DB_TARGET) (2 ^ s.fld .SLM_DB_BIT)
    if s.slmRuns && !ran then s.ctlRelock else if ran && !s.slmRuns then s.tasksCoast else s

/-- The record of a cycle is cleared. -/
def SlmSt.newCycle (x : SlmSt) : SlmSt :=
  { x with devs := [], nodes := [], cold := false, bad := false, data := false, synced := false }

/-- The SLM enters LISTEN or OFF: own gates stop, cycles stop, an armed bank operates. -/
def Dev.slmStop (st : Nat) (s : Dev) : Dev :=
  let s := s.updSlm fun x => { x.newCycle with own := false, full := false, low := 0, prevOk := false, acc := [], accPrev := [], picks := [] }
  (s.slmGo st).slmArmNow

/-- ATTEMPT counts from 0 to 9 and returns to 0 (R316). -/
def Dev.slmAttempt (s : Dev) : Dev := s.setFld .SLM_STATUS_ATTEMPT ((s.fld .SLM_STATUS_ATTEMPT + 1) % 10)

/-- SLM_CFG.EN is set (SLM_ENABLE) or cleared (SLM_DISABLE). -/
def Dev.slmEnable (on : Bool) (s : Dev) : Dev :=
  if on then (s.setFld .SLM_STATUS_ATTEMPT 0).slmStop slmListen else s.slmStop slmOff

/-- An ACTIVE device mutes (R320). -/
def Dev.slmMute (cause : Nat) (s : Dev) : Dev :=
  ((s.count .SLM_MUTE_CNT).setFld .SLM_STATUS_MUTE_CAUSE cause).slmStop slmListen

/-- A coldstart is abandoned (R315, R319). -/
def Dev.slmCollide (again : Bool) (s : Dev) : Dev :=
  let s := s.count .SLM_COLLIDE_CNT
  (if again then s.slmAttempt else s).slmStop slmListen

/-- Cycle `num` starts at `c` (2^-8 ns). -/
def Dev.slmBegin (num c : Nat) (s : Dev) : Dev :=
  let s := s.updSlm fun x => { x.newCycle with start := c }
  ((s.setFld .SLM_STATUS_CYCLE num).setReg .SLM_CSTART (c / 256)).ctlSlalom num (c / 256)

/-- The listen timer expires (R315, R316). -/
def Dev.listenTimeout (s : Dev) : Dev :=
  if s.slmState ≠ slmListen then s
  else if s.flag .SLM_CFG_COLD_EN && !s.inMode [.listen] then
    let s := (s.slmGo slmCold).updSlm fun x => { x with own := true, prevOk := false }
    s.slmBegin 0 s.slmNow
  else s.slmAttempt

/-! ### Decoupling buffers (R307) -/

/-- COMMIT of buffer `d`. -/
def Dev.dcbCommit (d : Nat) (s : Dev) : Dev :=
  let w := s.fld .SLM_DCB_WBUF d
  let n := s.fld .SLM_DCB_NBUF d
  let s := ((s.setFld .SLM_DCB_WBUF n d).setFld .SLM_DCB_NBUF w d)
  let s := (s.setFlag .SLM_DCB_NEW true d).setFlag .SLM_DCB_VALID true d
  s.updSlm fun x => { x with dcbCommits := x.dcbCommits.upd d (· + 1) }

/-- TAKE of buffer `d`. -/
def Dev.dcbTake (d : Nat) (s : Dev) : Dev :=
  if s.flag .SLM_DCB_NEW d then
    let r := s.fld .SLM_DCB_RBUF d
    let n := s.fld .SLM_DCB_NBUF d
    ((s.setFld .SLM_DCB_RBUF n d).setFld .SLM_DCB_NBUF r d).setFlag .SLM_DCB_NEW false d
  else s

/-- The address of copy `i` of buffer `d`. -/
def Dev.dcbAddr (s : Dev) (d i : Nat) : Nat :=
  s.reg64 .SLM_DCB_BASE_LOW .SLM_DCB_BASE_HIGH + (3 * d + i) * 64 * s.fld .SLM_DCB_CFG_STRIDE

/-! ### Own gates (R305, R306, R321) -/

/-- Whether a gate is one of the device's own in a bank. -/
def Dev.ownGate (s : Dev) (b g : Nat) : Bool :=
  g < s.fld .SLM_BANK_INFO_GATES b && s.fld .SLM_GATE_W0_NODE b g == s.slmNode && (s.gateHas b g false || s.gateHas b g true)

/-- The payload of a gate: whether a null frame goes, and the data (R305, R306). (DEDUCED: log entry 24.) -/
def Dev.gatePayload (b g : Nat) (s : Dev) : Bool × List Byte × Dev :=
  let len := s.fld .SLM_GATE_W0_LEN b g
  let buf := s.fld .SLM_GATE_W3_BUF b g
  let fresh := s.flag .SLM_GATE_W0_FRESH b g
  let last := s.slm.pickedAt.get (b * 256 + g)
  let zero : List Byte := leBytes len 0
  let s := s.updSlm fun x => { x with pickedAt := x.pickedAt.set (b * 256 + g) ⟨s.ctl.commits, x.dcbCommits⟩ }
  if s.flag .SLM_GATE_W0_KIND b g then
    let d := buf % 256
    let s := s.dcbTake d
    if !s.flag .SLM_DCB_VALID d || (fresh && s.slm.dcbCommits.get d == last.bufs.get d) then (true, zero, s)
    else
      let (r, s) := s.physRead ctlMid (s.dcbAddr d (s.fld .SLM_DCB_RBUF d)) len
      if r.ue then (true, zero, s) else (false, r.data, s)
  else
    let n := 2 * buf + 1
    let k := s.ctl.commits.get n
    if k = 0 || (fresh && k == last.slots.get n) then (true, zero, s)
    else
      let (r, s) := s.physRead ctlMid (s.copyAddr n (s.lastOf n) + 16) len
      if r.ue then (true, zero, s) else (false, r.data, s)

/-- Whether the device sends in its own gates: COLDSTART or ACTIVE, not Listen, and in Hold only with HOLD_TX = 0. -/
def Dev.slmSends (s : Dev) : Bool :=
  (s.slmState == slmCold || s.slmState == slmActive) && !s.inMode [.listen]
    && !(s.flag .CTL_STATUS_HOLD && s.flag .SLM_CFG_HOLD_TX) && s.domOn .swc

/-- Bank, number and start of the current cycle and of the next: the pick-up for an offset below 1 µs comes before its cycle starts (R305). -/
def Dev.pickCycles (s : Dev) : List (Nat × Nat × Nat) :=
  let b := s.slmBank
  let next := (s.slmCycle + 1) % 65536
  [(b, s.slmCycle, s.slm.start),
    (if s.flag .SLM_STATUS_PENDING && s.slm.swAt == next then 1 - b else b, next, (s.slm.start + s.bankLen b) % 2 ^ 40)]

/-- Whether the pick-up of an own gate for a cycle is due: 1 µs before the earlier of its offsets, once. -/
def Dev.pickDue (s : Dev) (g : Nat) (w : Nat × Nat × Nat) : Bool :=
  let (b, num, c) := w
  let early := min (s.gateOff b g false) (s.gateOff b g true)
  s.ownGate b g && !((s.slm.picks.get g).any fun p => p.cycle == num) && come ((c + early * 256 + 2 ^ 40 - 256000) % 2 ^ 40) s.slmNow
    && (num != s.slmCycle || s.slm.own)

/-- The bank, cycle number and start for which a pick-up of a gate is due, the current cycle's before the next one's. -/
def Dev.pickFor (s : Dev) (g : Nat) : Option (Nat × Nat × Nat) := s.pickCycles.find? (s.pickDue g)

/-- The pick-up of gate `g` (R305); what was taken for the running cycle stays until it is sent. -/
def Dev.gatePickup (g : Nat) (s : Dev) : Dev :=
  if !s.slmSends then s
  else match s.pickFor g with
  | none => s
  | some (b, num, _) =>
    let (null, data, s) := s.gatePayload b g
    s.updSlm fun x => { x with picks := x.picks.upd g fun l => l.filter (fun p => p.cycle == s.slmCycle) ++ [⟨num, null, data, false, false⟩] }

/-- An own frame of gate `g` (R303). TRANSIT is written as the frame leaves. (DEDUCED: log entry 24.) -/
def Dev.slmFrame (s : Dev) (b g : Nat) (dir null : Bool) (data : List Byte) : Frame :=
  let p := s.ringPort dir
  let ty := if s.slmState = slmCold then 2 else if null then 1 else 0
  let w0 := 2 ^ 28 + ty * 2 ^ 26 + b2n dir * 2 ^ 25 + s.fld .SLM_CFG_HOPS * 2 ^ 18 + s.fld .SLM_BANK_INFO_SCHED_ID b * 2 ^ 11
    + s.slmNode
  beBytes 6 (s.reg64 .SLM_DA_LOW .SLM_DA_HIGH) ++ beBytes 6 (s.reg64 .MAC_SA_LOW .MAC_SA_HIGH p)
    ++ vlanTag (s.fld .SLM_VLAN_PCP) (s.fld .SLM_VLAN_VID) ++ beBytes 2 (s.fld .SLM_VLAN_ETYPE)
    ++ beBytes 4 w0 ++ beBytes 4 (g * 2 ^ 24 + s.slmCycle) ++ beBytes 4 0
    ++ beBytes 4 (s.fld .SLM_GATE_W0_LEN b g * 2 ^ 16) ++ beBytes 4 (s.slm.start / 256) ++ data

/-- A copy that has just been queued starts at once where the port is idle and the core selects it. (DEDUCED: log entry 23.) -/
def Dev.startNow (p : Nat) (c : Copy) (s : Dev) : Dev :=
  if (s.macSt p).tx.isSome then s
  else
    let t := s.select p 0 0
    if (t.macSt p).sel = some c then t.transmit p false 0 else s

/-- An own frame is stored and queued for its port, whatever the port's mode or link (R302, R305); its cells come from the port's scheduled
reserve. (DEDUCED: log entry 23.) -/
def Dev.slmQueue (p : Nat) (at_ : Nat) (f : Frame) (s : Dev) : Dev :=
  let cls := s.classOf (s.fld .SLM_VLAN_PCP)
  match s.allocCells p cls true (cellsFor f.length) [] with
  | (none, s) => s.count .SWC_SCHED_DROP_CNT p
  | (some cells, s) =>
    let cell := cells.headD 0
    let x : FrameSt := ⟨cells, 0, f.length, true, p, cls, true, true, false, s.fld .SLM_VLAN_VID, s.fld .SLM_VLAN_PCP, 0, 0,
      s.fld .SLM_CFG_TB, none, false⟩
    let s := (s.updFrame cell fun _ => x).writeCells x f
    let c : Copy := ⟨cell, cls, false, .slmOwn at_, none⟩
    ((s.queueCopy p c).startNow p c).releaseIdle cell

/-- An own frame leaves on a ring port at its offset (R305, R306, R321). -/
def Dev.gateSend (g : Nat) (dir : Bool) (s : Dev) : Dev :=
  let b := s.slmBank
  match (s.slm.picks.get g).find? fun k => k.cycle == s.slmCycle with
  | none => s
  | some k =>
    let at_ := (s.slm.start + s.gateOff b g dir * 256) % 2 ^ 40
    let p := s.ringPort dir
    let sent := if dir then k.sentB else k.sentA
    if sent || !s.slmSends || !s.slm.own || !s.ownGate b g || !s.gateHas b g dir
      || !come at_ (s.egressStamp p) then s
    else
      let null := k.null || s.flag .CTL_STATUS_HOLD
      let data : List Byte := if null then leBytes (s.fld .SLM_GATE_W0_LEN b g) 0 else k.data
      let k := if dir then { k with sentB := true } else { k with sentA := true }
      let s := s.updSlm fun x => { x with picks := x.picks.upd g (List.map fun p => if p.cycle == k.cycle then k else p) }
      s.slmQueue p at_ (s.slmFrame b g dir null data)

/-! ### Cycles (R304, R323) -/

/-- One cycle start. -/
def Dev.slmNext (s : Dev) : Dev :=
  let b := s.slmBank
  let c := (s.slm.start + s.bankLen b) % 2 ^ 40
  let num := (s.slmCycle + 1) % 65536
  let s := s.updSlm fun x => { x with prevOk := true, prevStart := x.start, prevBank := b, accPrev := x.acc, acc := [], full := true }
  let s := if s.flag .SLM_STATUS_PENDING && s.slm.swAt == num then
      (s.setFld .SLM_STATUS_OPER_BANK (1 - b)).setFlag .SLM_STATUS_PENDING false
    else s
  let s := if s.slmState = slmActive then s.updSlm fun x => { x with own := true } else s
  s.slmBegin num c

/-- A write of SLM_SW (SCHEDULE_SWITCH_ARM, R323). (DEDUCED: log entry 24.) -/
def Dev.slmArm (v : Nat) (s : Dev) : Dev :=
  let at_ := bits v 31 16
  let d := (at_ + 65536 - s.slmCycle) % 65536
  let s := s.plain .SLM_SW v
  if d = 0 ∨ 32768 ≤ d ∨ bits v 0 0 = s.slmBank ∨ s.flag .SLM_STATUS_PENDING then s.count .SLM_SW_REFUSE_CNT
  else
    let s := (s.setFlag .SLM_STATUS_PENDING true).updSlm fun x => { x with swAt := at_ }
    if s.slmState ≤ slmListen then s.slmArmNow else s

/-! ### Synchronisation (R313, R314, R318, R320) -/

/-- Insert in rising order. -/
def insInt (x : Int) : List Int → List Int
  | [] => [x]
  | y :: t => if x ≤ y then x :: y :: t else y :: insInt x t

/-- The mean without the `k` largest and smallest values, rounded toward zero; `none` where too few (R313). -/
def ftMean (k : Nat) (l : List Int) : Option (Int × Nat) :=
  if l.length < 2 * k + 1 then none
  else
    let m := ((l.foldr insInt []).drop k).take (l.length - 2 * k)
    some (m.sum.tdiv m.length, m.length)

/-- Magnitude against half the precision. -/
def Dev.thetaOk (s : Dev) (th : Option Int) : Bool :=
  match th with
  | some t => t.natAbs ≤ s.fld .SLM_RXWIN_PREC_NS * 128
  | none => true

/-- Whether the nodes accepted in the running cycle are fewer than MIN_FRAMES (R318, R320). -/
def Dev.slmFew (s : Dev) : Bool := s.slm.nodes.length < s.fld .SLM_SYNC_MIN_FRAMES

/-- The sync point of the running cycle. (DEDUCED: log entry 24.) -/
def Dev.slmSync (s : Dev) : Dev :=
  let x := s.slm
  let r := ftMean (s.fld .SLM_SYNC_K) (x.devs.map (·.2))
  let th := r.map (·.1)
  let s := s.updSlm fun x => { x with synced := true }
  let s := s.when (s.flag .SLM_DB_EV_CYCLE) fun s => s.ringMask (s.fld .SLM_DB_TARGET) (2 ^ s.fld .SLM_DB_BIT)
  let s := match r with
    | none => s.count .SLM_SYNC_LOW_CNT
    | some (t, n) =>
      let s := (s.setReg .SLM_THETA (unsign 32 t)).setFld .SLM_SYNC_STAT_USED n
      if s.flag .SLM_CFG_SYNC_IN then s.adjust (s.fld .SLM_CFG_TB) (.sample 2 t) else s
  match s.slmState with
  | 3 =>
    if !x.full then s
    else if (!s.slmFew || x.cold) && !x.bad && s.thetaOk th then
      if s.inMode [.listen] then s
      else ((s.setFld .SLM_STATUS_ATTEMPT 0).updSlm fun x => { x with own := false, low := 0 }).slmGo slmActive
    else s.slmStop slmListen
  | 2 => if x.data then ((s.setFld .SLM_STATUS_ATTEMPT 0).updSlm fun x => { x with low := 0 }).slmGo slmActive else s
  | 4 => if !s.thetaOk th then s.slmMute 1 else s
  | _ => s

/-- The end of a cycle: SEEN shows the distinct nodes accepted in it (R325), and an ACTIVE device counts the consecutive cycles with too few
of them (R320). (DEDUCED: log entry 24.) -/
def Dev.slmCycleEnd (s : Dev) : Dev :=
  let few := s.slmFew
  let s := s.setFld .SLM_SYNC_STAT_SEEN (min 63 s.slm.nodes.length)
  if s.slmState ≠ slmActive then s
  else
    let low := if few then s.slm.low + 1 else 0
    let s := s.updSlm fun x => { x with low := low }
    if few ∧ s.fld .SLM_SYNC_LOSS_CYCLES ≤ low then s.slmMute 2 else s

/-- SYNC_POINT: SYNC_POINT_NS into the cycle, or at the cycle end. -/
def Dev.syncPoint (s : Dev) : Dev :=
  let b := s.slmBank
  let off := min (s.reg .SLM_BANK_SYNC b * 256) (s.bankLen b)
  if !s.slmRuns || s.slm.synced || !s.domOn .swc || !come ((s.slm.start + off) % 2 ^ 40) s.slmNow then s else s.slmSync

/-- SLALOM_CYCLE_START; the sync point of a cycle comes at its end at the latest. -/
def Dev.slmCycleStart (s : Dev) : Dev :=
  if !s.slmRuns || !s.domOn .swc || !come ((s.slm.start + s.bankLen s.slmBank) % 2 ^ 40) s.slmNow then s
  else
    let s := if s.slm.synced then s else s.slmSync
    let s := if s.slmRuns then s.slmCycleEnd else s
    if s.slmRuns then s.slmNext else s

/-! ### Received frames (R302, R308, R310 to R312, R315, R317, R319) -/

/-- Header fields of a Slalom frame. -/
structure SlmHdr where
  ver : Nat
  ty : Nat
  dir : Bool
  hops : Nat
  sched : Nat
  node : Nat
  gate : Nat
  cycle : Nat
  transit : Nat
  len : Nat
  cstart : Nat
deriving DecidableEq, Repr, Inhabited

/-- The header of a tagged frame (R303). -/
def Frame.slmHdr (f : Frame) : SlmHdr :=
  let w := f.be 18 4
  ⟨bits w 31 28, bits w 27 26, bit w 25, bits w 23 18, bits w 17 11, bits w 10 0, f.be 22 1, f.be 24 2, f.be 26 4, f.be 30 2, f.be 34 4⟩

/-- Whether the SLM claims a frame accepted on MAC `n` (R302). -/
def Dev.slmClaims (s : Dev) (n : Nat) (f : Frame) : Bool :=
  s.flag .SLM_CFG_EN && (n == s.ringPort false || n == s.ringPort true) && f.tagged && f.etype == s.fld .SLM_VLAN_ETYPE
    && bits f.slmHdr.node 10 6 == bits s.slmNode 10 6

/-- The amount by which a stamp taken `ago` × 2^-8 ns ago is corrected: the step of the SLM's alignment while the copy had not received it (R317). -/
def Dev.stampCorr (s : Dev) (ago : Nat) : Nat :=
  match s.slm.corr with
  | some (d, none) => d
  | some (d, some k) => if beforeTicks ago k then d else 0
  | none => 0

/-- The send instant S (R310), in 2^-8 ns, of a frame stamped `ts` `ago` × 2^-8 ns ago. -/
def Dev.sendInstant (s : Dev) (n ts ago transit : Nat) : Nat :=
  sub40 (sub40 ((ts + s.stampCorr ago) % 2 ^ 40) (s.reg .TMU_PORT_LINKDLY n)) transit

/-- Signed value of a difference modulo 2^32 ns, in 2^-8 ns. -/
def dev40 (d : Nat) : Int := signed 40 d

/-- The own start of the cycle named by a number: current, previous, or extrapolated. (DEDUCED: log entry 24.) -/
def Dev.startOf (s : Dev) (cycle : Nat) : Nat :=
  if cycle = s.slmCycle then s.slm.start
  else if s.slm.prevOk && (cycle + 1) % 65536 == s.slmCycle then s.slm.prevStart
  else
    let k : Int := signed 16 (cycle + 65536 - s.slmCycle)
    unsign 40 (s.slm.start + k * s.bankLen s.slmBank)

/-- The deviation e of a frame against a bank (R310). (DEDUCED: log entry 24.) -/
def Dev.deviation (s : Dev) (b : Nat) (h : SlmHdr) (snd : Nat) : Int :=
  dev40 (sub40 (sub40 snd (s.gateOff b h.gate h.dir * 256)) (s.startOf h.cycle))

/-- What the checks of R310 and R312 find, in the order of R310. -/
inductive SlmVerdict where
  | ok (b : Nat) (e : Int)
  | format | cycle | sched | gate | early | late | dup
deriving DecidableEq, Repr, Inhabited

/-- The checks of a frame. -/
def Dev.slmCheck (s : Dev) (h : SlmHdr) (snd : Nat) : SlmVerdict :=
  let cur := h.cycle == s.slmCycle
  let prev := s.slm.prevOk && (h.cycle + 1) % 65536 == s.slmCycle
  let b := if cur then s.slmBank else s.slm.prevBank
  let win : Int := s.fld .SLM_RXWIN_WIN_NS * 256
  let e := s.deviation b h snd
  if 1480 < h.len then .format
  else if !cur && !prev then .cycle
  else if h.sched ≠ s.fld .SLM_BANK_INFO_SCHED_ID b then .sched
  else if s.fld .SLM_BANK_INFO_GATES b ≤ h.gate || s.fld .SLM_GATE_W0_NODE b h.gate != h.node then .gate
  else if h.len ≠ s.fld .SLM_GATE_W0_LEN b h.gate then .format
  else if e < -win then .early
  else if win < e then .late
  else if (if cur then s.slm.acc else s.slm.accPrev).contains h.gate then .dup
  else .ok b e

/-- An accepted data frame is delivered (R311). -/
def Dev.slmDeliver (b : Nat) (h : SlmHdr) (f : Frame) (ts tb : Nat) (s : Dev) : Dev :=
  let pay := (f.drop 38).take h.len
  let buf := s.fld .SLM_GATE_W3_BUF b h.gate
  let (addr, st, s) := if s.flag .SLM_GATE_W0_KIND b h.gate then
      let d := buf % 256
      let a := s.dcbAddr d (s.fld .SLM_DCB_WBUF d)
      (a, 0, (s.physWrite ctlMid a pay).dcbCommit d)
    else
      let n := 2 * buf
      let a := s.copyAddr n (s.fld .CTL_SLOT_B n)
      (a, buf, if s.slotValid n then (s.physWrite ctlMid a (slotBytes ts tb pay)).inCommit n else s)
  if !s.flag .SLM_GATE_W0_JOB b h.gate then s
  else
    match s.push (Config.jobRink 0x50 % 8) (jobWords (s.reg .SLM_RXJOB0) addr h.len 0x50 st ts tb (h.cycle + h.gate * 2 ^ 16)) (some .slm) with
    | (.refused, s) => s.count .SLM_JOB_DROP_CNT
    | (_, s) => s

/-- A frame is accepted. -/
def Dev.slmAccept (b : Nat) (e : Int) (h : SlmHdr) (f : Frame) (ts tb : Nat) (s : Dev) : Dev :=
  let cur := h.cycle == s.slmCycle
  let sync := cur && !s.slm.synced && s.flag .SLM_GATE_W0_SYNC b h.gate
  let s := s.updSlm fun x => { x with nodes := if x.nodes.contains h.node then x.nodes else h.node :: x.nodes }
  let s := s.updSlm fun x =>
    if cur then
      { x with acc := h.gate :: x.acc,
               devs := if sync && !x.devs.any (fun d => d.1 == h.node) then x.devs ++ [(h.node, e)] else x.devs, data := true }
    else { x with accPrev := h.gate :: x.accPrev }
  if h.ty = 1 then s.count .SLM_NULL_RX_CNT
  else
    let s := s.count .SLM_RX_OK_CNT
    if s.flag .SLM_GATE_W0_RX_EN b h.gate then s.slmDeliver b h f ts tb else s

/-- A TYPE 0 or 1 frame in INTEGRATE, COLDSTART or ACTIVE (R310, R312). -/
def Dev.slmTake (h : SlmHdr) (f : Frame) (snd ts tb : Nat) (s : Dev) : Dev :=
  match s.slmCheck h snd with
  | .ok b e => s.slmAccept b e h f ts tb
  | .format => s.count .SLM_FORMAT_CNT
  | .cycle => s.count .SLM_CYCLE_CNT
  | .sched => s.count .SLM_SCHED_CNT
  | .gate => s.count .SLM_GATE_CNT
  | .early => (s.count .SLM_EARLY_CNT).updSlm fun x => { x with bad := true }
  | .late => (s.count .SLM_LATE_CNT).updSlm fun x => { x with bad := true }
  | .dup => s.count .SLM_DUP_CNT

/-- Integration on a frame heard in LISTEN (R315, R317). (DEDUCED: log entry 24.) -/
def Dev.slmIntegrateOn (h : SlmHdr) (snd : Nat) (s : Dev) : Dev :=
  let tb := s.fld .SLM_CFG_TB
  let c := sub40 snd (s.gateOff s.slmBank h.gate h.dir * 256)
  let s := s.updSlm fun x => { x.newCycle with prevOk := false, acc := [], accPrev := [], full := false, own := false }
  let (c', s) := if s.flag .SLM_CFG_SYNC_IN then
      let st := sub40 (h.cstart * 256) c
      (h.cstart * 256, (s.updSlm fun x => { x with corr := some (st, none) }).adjust tb (.align (st / 256) (st % 256)))
    else (c, s)
  let s := s.updSlm fun x => { x with start := c' }
  ((s.setFld .SLM_STATUS_CYCLE h.cycle).setReg .SLM_CSTART (c' / 256)).slmGo slmIntegrate

/-- A TYPE 2 frame that a device ignores, or collides with, still breaks the rows of R312 on its header: LEN, SCHED_ID, NODE and CYCLE.
(DEDUCED: log entry 24.) -/
def Dev.slmColdHdr (h : SlmHdr) (snd : Nat) (s : Dev) : Dev :=
  match s.slmCheck h snd with
  | .format => s.count .SLM_FORMAT_CNT
  | .cycle => s.count .SLM_CYCLE_CNT
  | .sched => s.count .SLM_SCHED_CNT
  | .gate => s.count .SLM_GATE_CNT
  | _ => s

/-- What the states of the SLM make of a claimed frame of another node. R312 names no state for its rows. In LISTEN, where no cycle runs, a
frame that does not integrate is counted under LEN above 1,480, SCHED_ID or NODE, and the CYCLE, e and second-copy rows count nothing.
(DESIGN CHOICE: log entry 24.) -/
def Dev.slmByState (n : Nat) (h : SlmHdr) (f : Frame) (ts ago tb : Nat) (s : Dev) : Dev :=
  let snd := s.sendInstant n ts ago h.transit
  let b := if h.cycle ≠ s.slmCycle ∧ s.slm.prevOk ∧ (h.cycle + 1) % 65536 = s.slmCycle then s.slm.prevBank else s.slmBank
  let known := h.gate < s.fld .SLM_BANK_INFO_GATES b && s.fld .SLM_GATE_W0_NODE b h.gate == h.node
  let win : Int := s.fld .SLM_RXWIN_WIN_NS * 256
  match s.slmState with
  | 1 =>
    if known && h.sched == s.fld .SLM_BANK_INFO_SCHED_ID b then
      let s := s.slmIntegrateOn h snd
      if h.ty = 2 then (s.slmColdHdr h (s.sendInstant n ts ago h.transit)).updSlm fun x => { x with cold := true }
      else s.slmTake h f (s.sendInstant n ts ago h.transit) ts tb
    else if 1480 < h.len then s.count .SLM_FORMAT_CNT
    else if h.sched ≠ s.fld .SLM_BANK_INFO_SCHED_ID b then s.count .SLM_SCHED_CNT
    else s.count .SLM_GATE_CNT
  | 2 =>
    if h.ty = 2 then
      let s := s.slmColdHdr h snd
      if h.node ≤ s.slmNode then s.slmCollide true else s
    else
      let t := s.slmTake h f snd ts tb
      if !(-win ≤ s.deviation b h snd && s.deviation b h snd ≤ win) then t.slmCollide false else t
  | 3 =>
    if h.ty = 2 then
      let ok := match s.slmCheck h snd with
        | .ok _ _ => true
        | _ => false
      ((s.slmColdHdr h snd).count .SLM_COLD_RX_CNT).updSlm fun x => { x with cold := x.cold || ok }
    else s.slmTake h f snd ts tb
  | 4 => if h.ty = 2 then (s.slmColdHdr h snd).count .SLM_COLD_RX_CNT else s.slmTake h f snd ts tb
  | _ => s

/-- A claimed frame with the own node number (R308, R312, R319). -/
def Dev.slmOwnNode (h : SlmHdr) (f : Frame) (s : Dev) : Dev :=
  let own (p : Nat) : Bool := f.sa == s.reg64 .MAC_SA_LOW .MAC_SA_HIGH p
  if own (s.ringPort false) || own (s.ringPort true) then s
  else
    let s := s.count .SLM_CLASH_CNT
    if s.slmState = slmActive then s.slmMute 3
    else if s.slmState = slmCold ∧ h.ty = 2 then s.slmCollide true
    else s

/-- The forwarded copy of a claimed frame, whatever the mode or link of the other ring port (R302, R308). -/
def Dev.slmForward (n cell : Nat) (h : SlmHdr) (s : Dev) : Dev :=
  if h.hops = 0 ∨ s.slmState = slmOff ∨ s.inMode [.listen] then s
  else
    let p := s.ringPort (n == s.ringPort false)
    let c : Copy := ⟨cell, s.classOf (s.fld .SLM_VLAN_PCP), false, .slmFwd, none⟩
    (s.queueCopy p c).startNow p c

/-- A claimed frame is received on ring port `n` (SLALOM_FRAME_RECEIVE); `f` includes the FCS. -/
def Dev.slmReceive (n : Nat) (f : Frame) (ts ago : Nat) (s : Dev) : Dev :=
  let tb := s.fld .MAC_CFG_TB n
  let cls := s.classPcp n f
  let cls := s.classOf cls
  let h := f.slmHdr
  let i : CapInfo := ⟨n, 0, 0, cls, ts, tb, f.length, f⟩
  match s.allocCells n cls true (cellsFor f.length) [] with
  | (none, s) => s.count .SWC_SCHED_DROP_CNT n
  | (some cells, s) =>
    let s := s.capture i false
    let cell := cells.headD 0
    let x : FrameSt := ⟨cells, 0, f.length, false, n, cls, true, true, false, s.classVid n f, s.classPcp n f, 0, ts, tb, none, false⟩
    let s := (s.updFrame cell fun _ => x).writeCells x f
    let s := match s.pmFind n f.da with
      | some e => s.queueCopy (28 + s.fld .MAC_PM_CTL_RINK n e) ⟨cell, cls, false, .none, some (n * 16 + e)⟩
      | none => s
    let s :=
      if tb ≠ s.fld .SLM_CFG_TB then s.count .SLM_FORMAT_CNT
      else if h.ver ≠ 1 ∨ h.ty = 3 then s.count .SLM_FORMAT_CNT
      else if h.node = s.slmNode then s.slmOwnNode h f
      else (s.slmForward n cell h).slmByState n h f ts ago tb
    s.releaseIdle cell

/-! ### Registers (R322, R325) -/

/-- A write of the SLM page. (DEDUCED: log entry 12.) -/
def Dev.slmWrite (r : Reg) (i j v : Nat) (s : Dev) : Dev :=
  let en := s.flag .SLM_CFG_EN
  match r with
  | .SLM_CFG =>
    let a := bits v 10 6
    let b := bits v 15 11
    let a' := if 27 < a then s.fld .SLM_CFG_PORT_A else a
    let ill (fi : FieldInfo) : Bool :=
      (fi.is .SLM_CFG_PORT_A && (en || 27 < a)) || (fi.is .SLM_CFG_PORT_B && (en || 27 < b || b == a')) || (fi.is .SLM_CFG_TB && en)
    let s := s.plainIf ill r v
    let on := s.flag .SLM_CFG_EN
    if on == en then s else s.slmEnable on
  | .SLM_NODE => s.plainIf (fun _ => en) r v
  | .SLM_SW => s.slmArm v
  | .SLM_BANK_CYCLE | .SLM_BANK_INFO | .SLM_BANK_SYNC | .SLM_GATE_W0 | .SLM_GATE_OFF_A | .SLM_GATE_OFF_B | .SLM_GATE_W3 =>
    if en && (i == s.slmBank || s.flag .SLM_STATUS_PENDING) then s.refuseWrite r else s.plain r v i j
  | .SLM_DCB_CMD =>
    let both := bit v 0 && bit v 1
    let s := s.plainIf (fun _ => both) r v i
    if both then s else if bit v 0 then s.dcbCommit i else if bit v 1 then s.dcbTake i else s
  | r => s.plain r v i j

end Sys2Proof.Machine
end

