-- ==== Sys2Proof/Machine/CanOps.lean ====
section
/-! DEFINITION. The CAN controllers: buffers, arbitration, the schedule matrix, the receive ring, errors and bus-off (R326 to
R349). -/

namespace Sys2Proof.Machine

/-! ### Access -/

/-- A controller beside its registers. -/
def Dev.canSt (s : Dev) (n : Nat) : CanSt := s.can.get n

/-- The device with a controller changed. -/
def Dev.updCan (n : Nat) (f : CanSt → CanSt) (s : Dev) : Dev := { s with can := s.can.upd n f }

/-- A frame is on the bus, or none is: what is sent and what is received; BUSY shows it. -/
def Dev.canBus (n : Nat) (tx : Option CanTx) (rx : Option CanSof) (s : Dev) : Dev :=
  (s.updCan n fun x => { x with tx := tx, rx := rx }).setFlag .CAN_STATUS_BUSY (tx.isSome || rx.isSome) n

/-- No frame is on the bus. -/
def Dev.canIdle (s : Dev) (n : Nat) : Bool := (s.canSt n).tx.isNone && (s.canSt n).rx.isNone

/-- CAN_STATUS.STATE codes (R349). -/
def canStopped : Nat := 0
def canIntegrating : Nat := 1
def canActive : Nat := 2
def canPassive : Nat := 3
def canBusOff : Nat := 4
def canRecovering : Nat := 5

/-- State, transmit and receive error counts. -/
def Dev.canState (s : Dev) (n : Nat) : Nat := s.fld .CAN_STATUS_STATE n
def Dev.tec (s : Dev) (n : Nat) : Nat := s.fld .CAN_STATUS_TEC n
def Dev.rec_ (s : Dev) (n : Nat) : Nat := s.fld .CAN_STATUS_REC n

/-- The controller takes part in the bus: error-active or error-passive. -/
def Dev.canRuns (s : Dev) (n : Nat) : Bool := s.canState n == canActive || s.canState n == canPassive

/-- Cases in which no dominant bit is driven (R327). -/
def Dev.canMuted (s : Dev) (n : Nat) : Bool :=
  s.txHeld || (s.flag .CTL_STATUS_HOLD && !s.flag .CAN_CFG_HOLD_TX n)

/-- Listen-only behaviour (R327, R330). -/
def Dev.canListens (s : Dev) (n : Nat) : Bool := s.canMuted n || s.fld .CAN_CFG_MODE n == 1

/-- The doorbell of CAN_DB for an event that is enabled. -/
def Dev.canBell (n : Nat) (f : Fld) (s : Dev) : Dev :=
  s.when (s.flag f n) fun s => s.ringMask (s.fld .CAN_DB_TARGET n) (2 ^ s.fld .CAN_DB_BIT n)

/-- The controller changes state; each change rings. -/
def Dev.canGo (n st : Nat) (s : Dev) : Dev :=
  if s.canState n = st then s else (s.setFld .CAN_STATUS_STATE st n).canBell n .CAN_DB_EV_STATE

/-- Value of the CAN kernel copy of the controller's time base, in 2^-8 ns. -/
def Dev.canNow (s : Dev) (n : Nat) : Nat := tb40 (s.copyVal islCan (s.fld .CAN_CFG_TB n))

/-! ### Buffers (R332 to R334) -/

/-- Bit `b` of a pair of words. -/
def Dev.canBit (s : Dev) (r : Reg) (n b : Nat) : Bool := bit (s.reg r n (b / 32)) (b % 32)

/-- The device with bit `b` of a pair of words set to a value. -/
def Dev.setCanBit (r : Reg) (n b : Nat) (v : Bool) (s : Dev) : Dev := s.setReg r (putBit (s.reg r n (b / 32)) (b % 32) v) n (b / 32)

/-- Word `w` of buffer `b`. -/
def Dev.bufWord (s : Dev) (n b w : Nat) : Nat := s.reg .CAN_BUF n b w

/-- SCHED and OSHOT of a buffer. -/
def Dev.bufSched (s : Dev) (n b : Nat) : Bool := bit (s.bufWord n b 1) 6
def Dev.bufOshot (s : Dev) (n b : Nat) : Bool := bit (s.bufWord n b 1) 7

/-- RESULT of a buffer is set. -/
def Dev.bufResult (n b v : Nat) (s : Dev) : Dev := s.setReg .CAN_BUF v n b 2

/-- The frame of a buffer as the controller sends it; ESI is the controller's own state. -/
def Dev.bufFrame (s : Dev) (n b : Nat) : CanFrame :=
  let w0 := s.bufWord n b 0
  let w1 := s.bufWord n b 1
  let ide := bit w0 29
  let rtr := bit w0 30
  let fdf := bit w1 4
  let dlc := bits w1 3 0
  let len := if rtr then 0 else dlcLen fdf dlc
  let id := bits w0 28 0
  let words : List Byte := (List.range 16).flatMap fun i => leBytes 4 (s.bufWord n b (4 + i))
  ⟨if ide then id else id / 2 ^ 18 * 2 ^ 18, ide, rtr, fdf, bit w1 5, fdf && s.canState n == canPassive, dlc, words.take len, false⟩

/-- Whether a buffer's frame is one that the controller sends (R334). -/
def Dev.bufLegal (s : Dev) (n b : Nat) : Bool :=
  let f := s.bufFrame n b
  !(f.fdf && f.rtr) && !(f.brs && !f.fdf) && !(f.fdf && !s.flag .CAN_CFG_FD_EN n)

/-- A request of buffer `b` (R334). -/
def Dev.canRequest (n b : Nat) (s : Dev) : Dev :=
  if s.canBit .CAN_TXREQ n b then s
  else if s.bufLegal n b then s.setCanBit .CAN_TXREQ n b true
  else s.count .CAN_TX_REFUSE_CNT n

/-- A cancel of buffer `b`: a frame in transmission completes with its own RESULT (R334). -/
def Dev.canCancel (n b : Nat) (s : Dev) : Dev :=
  if !s.canBit .CAN_TXREQ n b then s
  else match (s.canSt n).tx with
    | some t =>
      if t.buf = b then s.updCan n fun x => { x with tx := some { t with cancelled := true } }
      else (s.setCanBit .CAN_TXREQ n b false).bufResult n b 4
    | none => (s.setCanBit .CAN_TXREQ n b false).bufResult n b 4

/-! ### The receive ring (R342 to R344) -/

/-- Whether any controller's ring is enabled. -/
def Dev.anyRing (s : Dev) : Bool := (List.range 8).any fun n => s.flag .CAN_RING_CFG_EN n

/-- Lift 39 acts as the ring writer, or becomes idle after the last entry (R342). (PRESUMED: log entry 18.) -/
def Dev.ringLift (s : Dev) : Dev :=
  if s.anyRing then
    if s.flag .LFT_STATUS_RING 39 then s
    else
      let s := (((s.setFld .LFT_STATUS_STATE liftRunning 39).setFlag .LFT_STATUS_RING true 39).setFld .LFT_STATUS_OWNER_MID 0xFF 39).setFld
        .LFT_STATUS_OWNER_CTX 0 39
      s.updLift 39 fun _ => default
  else if s.flag .LFT_STATUS_RING 39 && (List.range 8).all fun n => (s.canSt n).ring == [] then
    (s.setFld .LFT_STATUS_STATE liftIdle 39).setFlag .LFT_STATUS_RING false 39
  else s

/-- Whether the matrix runs and a cycle has begun. -/
def Dev.mxRuns (s : Dev) (n : Nat) : Bool := s.flag .CAN_MX_CFG_EN n && (s.canSt n).started

/-- Basic cycle index, column, and whether the column's window is open, now; before the first cycle and ahead of column 0 the column is the last one
(R349). -/
def Dev.mxAt (s : Dev) (n : Nat) : Nat × Nat × Bool :=
  let off := sub32 (s.canNow n / 256) (s.canSt n).start
  let idx := s.fld .CAN_MX_STAT_BC n
  if !s.mxRuns n || 2 ^ 31 ≤ off then (idx, s.fld .CAN_MX_STAT_COL n, false)
  else match ((List.range (s.fld .CAN_MX_CFG_COLS n)).filter fun c => s.reg .CAN_MX_START n c ≤ off).getLast? with
    | none => (idx, s.fld .CAN_MX_STAT_COL n, false)
    | some c => (idx, c, off < s.reg .CAN_MX_START n c + s.reg .CAN_MX_LEN n c)

/-- A SOF now: index, column and MXV are 0 while the matrix does not run (R343). -/
def Dev.sofNow (s : Dev) (n : Nat) : CanSof :=
  let (idx, col, inw) := s.mxAt n
  ⟨s.canNow n, if s.mxRuns n then idx * 2 ^ 16 + col * 2 ^ 24 + b2n inw * 2 ^ 29 else 0⟩

/-- The 20 words of an entry (R343). -/
def Dev.ringBytes (s : Dev) (n : Nat) (sof : CanSof) (echo : Option Nat) (f : CanFrame) : List Byte :=
  let ts := sub40 sof.at_ (s.fld .CAN_LAT_RX_NS n * 256)
  let w1 := ts % 256 + s.fld .CAN_CFG_TB n * 2 ^ 8 + b2n echo.isSome * 2 ^ 10 + b2n f.ide * 2 ^ 11 + b2n f.rtr * 2 ^ 12
    + b2n f.fdf * 2 ^ 13 + b2n f.brs * 2 ^ 14 + b2n f.esi * 2 ^ 15 + f.dlc * 2 ^ 16
  let id := if f.ide then f.id % 2 ^ 29 else bits f.id 28 18 * 2 ^ 18
  let len := min f.data.length 64
  leBytes 4 (ts / 256) ++ leBytes 4 w1 ++ leBytes 4 id ++ leBytes 4 (len + echo.getD 0 * 2 ^ 8 + sof.mx)
    ++ (f.data ++ List.replicate (64 - f.data.length) 0#8).take 64

/-- A frame enters the ring, or is lost where it is full (R343, R344). -/
def Dev.ringStore (n : Nat) (sof : CanSof) (echo : Option Nat) (f : CanFrame) (s : Dev) : Dev :=
  if !s.flag .CAN_RING_CFG_EN n then s
  else
    let size := s.fld .CAN_RING_CFG_SIZE_M1 n + 1
    let i := (s.fld .CAN_RING_WR_INDEX n + (s.canSt n).ring.length) % size
    if (i + 1) % size = s.fld .CAN_RING_RD_INDEX n then s.count .CAN_RX_OVF_CNT n
    else
      s.updCan n fun x => { x with
        ring := x.ring ++ [⟨i, sub40 sof.at_ (s.fld .CAN_LAT_RX_NS n * 256), s.fld .CAN_CFG_TB n, s.ringBytes n sof echo f⟩] }

/-- Pushes of a controller that wait (R344). -/
def Dev.canWaiting (s : Dev) (n : Nat) : Nat :=
  (s.eng.waiting.map fun e => (e.2.filter fun p => p.1 == .can n).length).sum

/-- The job of an entry (R344). -/
def Dev.ringPush (n : Nat) (e : RingE) (s : Dev) : Dev :=
  let addr := s.reg64 .CAN_RING_BASE_LOW .CAN_RING_BASE_HIGH n + 80 * e.idx
  let j := jobWords (s.reg .CAN_RXJOB0 n) addr 80 (0x40 + n) 0 e.ts e.tb e.idx
  let k := s.canWaiting n
  if 16 ≤ k then s.count .CAN_JOB_DROP_CNT n
  else if k ≠ 0 then
    let upd (l : List (Producer × Job × Bool)) : List (Producer × Job × Bool) :=
      match l.find? fun p => p.1 == .can n with
      | some p => l ++ [(.can n, j, p.2.2)]
      | none => l
    { s with eng := { s.eng with waiting := s.eng.waiting.map fun e => (e.1, upd e.2) } }
  else match s.push (Config.jobRink (0x40 + n) % 8) j (some (.can n)) with
    | (.refused, s) => s.count .CAN_JOB_DROP_CNT n
    | (_, s) => s

/-- The oldest entry in progress is written and its writes are acknowledged (RING_ENTRY_WRITE, R343, R344), once its banks serve (R165). -/
def Dev.ringAck (n : Nat) (s : Dev) : Dev :=
  match (s.canSt n).ring with
  | [] => s
  | e :: rest =>
    let size := s.fld .CAN_RING_CFG_SIZE_M1 n + 1
    let addr := s.reg64 .CAN_RING_BASE_LOW .CAN_RING_BASE_HIGH n + 80 * e.idx
    if s.bankWaits addr 80 then s
    else
    let s := (s.physWrite 0x6F addr e.bytes).updCan n fun x => { x with ring := rest }
    let s := (s.setFld .CAN_RING_WR_INDEX ((e.idx + 1) % size) n).count .CAN_RX_OK_CNT n
    let s := s.canBell n .CAN_DB_EV_RX
    let s := s.when (s.flag .CAN_RING_CFG_JOB_EN n) fun s => s.ringPush n e
    s.ringLift

/-! ### Errors (R345 to R347) -/

/-- Error-active, error-passive or bus-off by the counts (R345). (PRESUMED: log entry 18.) -/
def Dev.canConfine (n : Nat) (s : Dev) : Dev :=
  if !s.canRuns n then s
  else if 255 < s.tec n then (s.count .CAN_BUSOFF_CNT n).canGo n canBusOff
  else s.canGo n (if 128 ≤ s.tec n ∨ 128 ≤ s.rec_ n then canPassive else canActive)

/-- The counter of a kind of error. -/
def CanErr.counter : CanErr → Reg
  | .bit => .CAN_BIT_ERR_CNT
  | .stuff => .CAN_STUFF_ERR_CNT
  | .form => .CAN_FORM_ERR_CNT
  | .crc => .CAN_CRC_ERR_CNT
  | .ack => .CAN_ACK_ERR_CNT

/-- An error is detected (R345, R347). The counts follow ISO 11898-1: a transmitter's TEC rises by 8, a receiver's REC by 1.
`special`: for a transmitter, no dominant bit during the passive error flag of an acknowledgement error, or a stuff error
during arbitration (TEC stays); for a receiver, a case of the larger step of 8. (PRESUMED: log entry 18.) -/
def Dev.canError (n : Nat) (k : CanErr) (tx special : Bool) (s : Dev) : Dev :=
  if !s.canRuns n || (s.fld .CAN_CFG_MODE n == 2 && !s.canMuted n) then s
  else
    let s := s.count k.counter n
    if s.canListens n then s
    else
      let exempt := tx && special && ((k == .ack && s.canState n == canPassive) || k == .stuff)
      let s :=
        if tx then (if exempt then s else s.setFld .CAN_STATUS_TEC (min 511 (s.tec n + 8)) n)
        else s.setFld .CAN_STATUS_REC (min 255 (s.rec_ n + (if special then 8 else 1))) n
      s.canConfine n

/-- REC after a frame received without error: lowered by 1; from above 127 to a value in 119 to 127 that ISO 11898-1 leaves
open (DESIGN CHOICE, log entry 9). (PRESUMED: log entry 18.) -/
def Dev.recDown (n : Nat) (s : Dev) : Dev :=
  let r := s.rec_ n
  if 127 < r then
    let (v, s) := s.fresh
    (s.setFld .CAN_STATUS_REC (119 + v % 9) n).canConfine n
  else s.setFld .CAN_STATUS_REC (r - 1) n

/-! ### Transmission (R335, R338 to R340) -/

/-- The arbitration field of a frame as a number: the lower number wins. (PRESUMED: log entry 18.) -/
def CanFrame.arb (f : CanFrame) : Nat :=
  if f.ide then bits f.id 28 18 * 2 ^ 21 + 2 ^ 20 + 2 ^ 19 + bits f.id 17 0 * 2 + b2n f.rtr
  else bits f.id 28 18 * 2 ^ 21 + b2n f.rtr * 2 ^ 20

/-- Kernel clocks of a nominal and of a data bit (R328). -/
def Dev.nomBit (s : Dev) (n : Nat) : Nat :=
  s.fld .CAN_ARB_TIMING_PRESC n * (1 + s.fld .CAN_ARB_TIMING_SEG_A n + s.fld .CAN_ARB_TIMING_SEG_B n)
def Dev.fastBit (s : Dev) (n : Nat) : Nat :=
  s.fld .CAN_FAST_TIMING_FPRESC n * (1 + s.fld .CAN_FAST_TIMING_FSEG_A n + s.fld .CAN_FAST_TIMING_FSEG_B n)

/-- Worst-case duration of a frame in kernel clocks (R339): nominal bits from SOF on with maximum stuffing, ten bits from the
CRC delimiter on and the intermission; the data phase at the data bit rate with BRS. Frame formats by ISO 11898-1 (log
entry 18). (PRESUMED: log entry 18.) -/
def Dev.worstCase (s : Dev) (n : Nat) (f : CanFrame) : Nat :=
  let data := 8 * f.data.length
  if !f.fdf then
    let k := (if f.ide then 54 else 34) + data
    (k + (k - 1) / 4 + 13) * s.nomBit n
  else
    let arb := if f.ide then 36 else 17
    let dyn := arb + 5 + data
    let stuffArb := (arb - 1) / 4
    let stuffDat := (dyn - 1) / 4 - stuffArb
    let crc := if f.data.length ≤ 16 then 4 + 17 + 6 else 4 + 21 + 7
    (arb + stuffArb + 13) * s.nomBit n + (5 + data + stuffDat + crc) * (if f.brs then s.fastBit n else s.nomBit n)

/-- TYPE and BUF of cell (k, c). -/
def Dev.mxCell (s : Dev) (n k c : Nat) : Nat × Nat :=
  let b := bits (s.reg .CAN_MX_CELL n k (c / 4)) (8 * (c % 4) + 7) (8 * (c % 4))
  (b % 4, b / 4)

/-- Whether an event-triggered frame may start now (R339). (PRESUMED: log entry 18.) -/
def Dev.mayStart (s : Dev) (n : Nat) (f : CanFrame) : Bool :=
  if !s.flag .CAN_MX_CFG_EN n then true
  else
    let (k, c, inw) := s.mxAt n
    let off := sub32 (s.canNow n / 256) (s.canSt n).start
    s.mxRuns n && inw && off < 2 ^ 31 && (s.mxCell n k c).1 == 0
      && s.worstCase n f * 25 < 2 * (s.reg .CAN_MX_START n c + s.reg .CAN_MX_LEN n c - off)

/-- A frame may start: the controller is enabled and takes part in the bus, which is idle. -/
def Dev.canStarts (s : Dev) (n : Nat) : Bool :=
  s.flag .CAN_CFG_EN n && s.canRuns n && !s.canListens n && !(s.canSt n).waits && s.canIdle n

/-- Pending event-triggered buffers. -/
def Dev.eventBufs (s : Dev) (n : Nat) : List Nat :=
  (List.range 64).filter fun b => s.canBit .CAN_TXREQ n b && !s.bufSched n b

/-- The buffer that wins against the others, the lowest-numbered among equal ones (R335). -/
def Dev.eventPick (s : Dev) (n : Nat) : Option Nat :=
  match s.eventBufs n with
  | [] => none
  | b :: t => some (t.foldl (fun w b => if (s.bufFrame n b).arb < (s.bufFrame n w).arb then b else w) b)

/-- The SOF of buffer `b` leaves: TS_NS. -/
def Dev.canStart (n b : Nat) (gate : Bool) (s : Dev) : Dev :=
  (s.setReg .CAN_BUF (s.canNow n / 256) n b 3).canBus n (some ⟨b, s.bufFrame n b, s.sofNow n, gate, false⟩) none

/-- The FDF-to-res edge of a frame that is sent: with CAN_SSP.EN, MEAS is the measured loop delay, which is the transceiver's (R328; DESIGN
CHOICE, log entry 9). -/
def Dev.canEdge (n : Nat) (f : CanFrame) (s : Dev) : Dev :=
  if f.fdf && s.flag .CAN_SSP_EN n then
    let (v, s) := s.fresh
    s.setFld .CAN_SSP_MEAS v n
  else s

/-- The frame on the bus is over: a controller that is leaving stops, or integrates where EN is 1 again (R331). (DEDUCED: log entry 18.) -/
def Dev.canOver (n : Nat) (rx : Option CanSof) (s : Dev) : Dev :=
  let s := s.canBus n none rx
  if rx.isSome || !(s.canSt n).leaving then s
  else
    (s.updCan n fun x => { x with leaving := false, waits := false }).canGo n
      (if !s.flag .CAN_CFG_EN n then canStopped else if 255 < s.tec n then canBusOff else canIntegrating)

/-- A frame has been sent (R335). -/
def Dev.canSent (n b : Nat) (f : CanFrame) (sof : CanSof) (s : Dev) : Dev :=
  let s := (((s.canEdge n f).setCanBit .CAN_TXREQ n b false).bufResult n b 1).setCanBit .CAN_TXDONE n b true
  let s := (s.count .CAN_TX_OK_CNT n).canBell n .CAN_DB_EV_TX
  let s := (s.setFld .CAN_STATUS_TEC (s.tec n - 1) n).canConfine n
  let s := if s.fld .CAN_CFG_MODE n = 2 then s.ringStore n sof none f else s
  s.when (s.flag .CAN_CFG_TXECHO n) fun s => s.ringStore n sof (some b) f

/-- An attempt starts: that of the event-triggered buffer that is offered (R335, R339). -/
def Dev.canOffer (n : Nat) (s : Dev) : Dev :=
  match s.eventPick n with
  | none => s
  | some b => if s.canStarts n && s.mayStart n (s.bufFrame n b) then s.canStart n b false else s

/-- An attempt ends with RESULT `r` and was not sent: in a gate the request stays with that RESULT (R340); one attempt only, or a cancel
that met it, ends the request (R334, R335). -/
def Dev.canFailed (n : Nat) (t : CanTx) (r : Nat) (s : Dev) : Dev :=
  if t.cancelled || (!t.gate && (s.bufOshot n t.buf || s.flag .CAN_CFG_ONESHOT n)) then
    (s.setCanBit .CAN_TXREQ n t.buf false).bufResult n t.buf r
  else if t.gate then s.bufResult n t.buf r
  else s

/-- The attempt in progress ends; the winner of an arbitration goes on being received. -/
def Dev.canEnd (n : Nat) (t : CanTx) (o : CanOut) (s : Dev) : Dev :=
  if s.fld .CAN_CFG_MODE n = 2 then (s.canSent n t.buf t.frame t.sof).canOver n none
  else match o with
    | .start => s
    | .sent => (s.canSent n t.buf t.frame t.sof).canOver n none
    | .lost => (((s.count .CAN_ARB_LOST_CNT n).canFailed n t 2)).canOver n (some t.sof)
    | .error k special edge => (((s.when edge (Dev.canEdge n t.frame)).canError n k true special).canFailed n t 3).canOver n none

/-- A controller that may drive no dominant bit breaks off its frame in transmission, as after an error; listen-only, it counts none (R327, R335; DEDUCED:
log entry 18). -/
def Dev.canMute (n : Nat) (s : Dev) : Dev :=
  match (s.canSt n).tx with
  | some t => if s.canMuted n then (s.canFailed n t 3).canOver n none else s
  | none => s

/-- An attempt starts or ends (CAN_FRAME_TRANSMIT, R335, R339). -/
def Dev.canTransmit (n : Nat) (o : CanOut) (s : Dev) : Dev :=
  match o, (s.canSt n).tx with
  | .start, none => s.canOffer n
  | .start, some _ => s
  | o, some t => s.canEnd n t o
  | _, none => s

/-- A bus error is detected (CAN_ERROR, R345): as transmitter it ends the attempt in progress, as receiver the reception. -/
def Dev.canBusError (n : Nat) (k : CanErr) (tx special edge : Bool) (s : Dev) : Dev :=
  match tx, (s.canSt n).tx with
  | true, some t => s.canEnd n t (.error k special edge)
  | true, none => s.canError n k true special
  | false, t =>
    let s := s.canError n k false special
    if t.isSome || (s.canSt n).rx.isNone then s else s.canOver n none

/-- A gate is missed (R340). -/
def Dev.canMiss (n b : Nat) (s : Dev) : Dev :=
  ((s.bufResult n b 5).setCanBit .CAN_TXMISS n b true).count .CAN_MISSED_CNT n

/-- Whether the bus has kept the attempt of the gate at `t` waiting beyond the slack; a SOF leaves at a kernel clock, so up to 12.5 ns after
the window start, and the copy moves by its INCR (R340). -/
def Dev.canLate (s : Dev) (n t : Nat) : Bool :=
  let tb := s.fld .CAN_CFG_TB n
  let d := (s.copyVal islCan tb + tbMod - t * nsUnit % tbMod) % tbMod
  d < tbMod / 2 && s.fld .CAN_MX_CFG_SLACK_NS n * nsUnit + max (25 * nsUnit / 2) (s.reg .TMU_TB_INCR tb) ≤ d

/-- The gate of column `c` in basic cycle `bc` that waits for the bus, or else the one whose window has opened in the running cycle. -/
def Dev.gateOf (s : Dev) (n c bc : Nat) : Option CanGate :=
  let x := s.canSt n
  let t := (x.start + s.reg .CAN_MX_START n c) % 2 ^ 32
  match x.gates.find? fun g => g.col == c && g.bc == bc with
  | some g => some g
  | none =>
    if s.mxRuns n && bc == s.fld .CAN_MX_STAT_BC n && c < s.fld .CAN_MX_CFG_COLS n && !x.opened.contains c
        && s.dueAt islCan (s.fld .CAN_CFG_TB n) t != .ahead then some ⟨c, bc, t⟩ else none

/-- The window of column `c` has opened in basic cycle `bc`, and its gate makes its attempt, waits for the bus, over the start of the next cycle too, or is
missed (CAN_GATE, R338, R340). -/
def Dev.canGate (n c bc : Nat) (s : Dev) : Dev :=
  match s.gateOf n c bc with
  | none => s
  | some g =>
    let waits := (s.canSt n).gates.contains g
    let past := s.updCan n fun x => if waits then { x with gates := x.gates.erase g } else { x with opened := c :: x.opened }
    let (ty, b) := s.mxCell n bc c
    if ty = 0 || !s.bufSched n b || !s.canBit .CAN_TXREQ n b then past
    else if !s.canRuns n || s.canListens n || s.fld .CAN_CFG_MODE n != 0 || s.canLate n g.start then past.canMiss n b
    else if s.canStarts n then past.canStart n b true
    else past.updCan n fun x => { x with gates := x.gates ++ [g] }

/-! ### The matrix (R336, R337) -/

/-- EN of the matrix is set. -/
def Dev.mxStart (n : Nat) (s : Dev) : Dev :=
  let base := s.reg .CAN_MX_BASE n
  let bc := s.reg .CAN_MX_BC n
  let first := firstStart base bc (s.canNow n / 256)
  s.updCan n fun x => { x with started := false, start := 0, next := first, opened := [], gates := [],
                               nextIdx := sub32 first base / max 1 bc % 2 ^ s.fld .CAN_MX_CFG_CYC_LOG2 n }

/-- A basic cycle starts, or starts that were passed are skipped (BASIC_CYCLE_START). -/
def Dev.mxCycle (n : Nat) (s : Dev) : Dev :=
  if !s.flag .CAN_MX_CFG_EN n then s
  else
    let x := s.canSt n
    let bc := max 1 (s.reg .CAN_MX_BC n)
    let size := 2 ^ s.fld .CAN_MX_CFG_CYC_LOG2 n
    match s.dueAt islCan (s.fld .CAN_CFG_TB n) x.next with
    | .ahead => s
    | .due =>
      ((s.when x.started fun s => s.setFld .CAN_MX_STAT_COL (s.fld .CAN_MX_CFG_COLS n - 1) n).updCan n fun x =>
        { x with started := true, start := x.next, next := (x.next + bc) % 2 ^ 32, nextIdx := (x.nextIdx + 1) % size, opened := [] }).setFld
          .CAN_MX_STAT_BC x.nextIdx n
    | .passed =>
      let k := (sub32 (s.canNow n / 256) x.next + bc - 1) / bc
      (s.updCan n fun x => { x with next := (x.next + k * bc) % 2 ^ 32, nextIdx := (x.nextIdx + k) % size }).countBy k .CAN_MX_SKIP_CNT n

/-! ### Reception and states (R330 to R332, R346) -/

/-- The SOF edge of a frame on the bus. -/
def Dev.canSof (n : Nat) (s : Dev) : Dev :=
  if !s.canRuns n || (s.canSt n).waits || (s.fld .CAN_CFG_MODE n == 2 && !s.canMuted n) || !s.canIdle n then s
  else s.canBus n none (some (s.sofNow n))

/-- The frame in reception ends without error. -/
def Dev.canFrameEnd (n : Nat) (sof : CanSof) (f : CanFrame) (s : Dev) : Dev :=
  if f.fdf && (f.resRecessive || !s.flag .CAN_CFG_FD_EN n) then
    if s.flag .CAN_CFG_PXE_EN n then (s.updCan n fun x => { x with waits := true }).count .CAN_PXE_CNT n
    else s.canError n .form false false
  else
    let s := if s.canListens n then s else s.recDown n
    s.ringStore n sof none f

/-- A frame's SOF is received, or a frame has been received whole (CAN_FRAME_RECEIVE). -/
def Dev.canReceive (n : Nat) (f : CanFrame) (sof : Bool) (s : Dev) : Dev :=
  match sof, (s.canSt n).rx with
  | true, _ => s.canSof n
  | false, some t => (s.canFrameEnd n t f.asRead).canOver n none
  | false, none => s

/-- EN is set or cleared (R331): a frame on the bus completes first; a controller whose TEC exceeds 255 is still bus-off. (PRESUMED: log entry 18.) -/
def Dev.canEnable (n : Nat) (on : Bool) (s : Dev) : Dev :=
  if (s.canSt n).leaving then s
  else if !on then
    if s.canIdle n then (s.updCan n fun x => { x with waits := false }).canGo n canStopped
    else s.updCan n fun x => { x with leaving := true }
  else (s.updCan n fun x => { x with waits := false }).canGo n (if 255 < s.tec n then canBusOff else canIntegrating)

/-- The 128th sequence of 11 recessive bits (RECOVERY_DONE, R346). -/
def Dev.canRecovered (n : Nat) (s : Dev) : Dev :=
  if s.canState n = canRecovering ∧ 127 ≤ s.rec_ n then ((s.setFld .CAN_STATUS_TEC 0 n).setFld .CAN_STATUS_REC 0 n).canGo n canActive else s

/-- 11 consecutive recessive bits have been seen (CAN_INTEGRATION_DONE): while RECOVERING, REC counts their sequences (R346). -/
def Dev.canIntegrated (n : Nat) (s : Dev) : Dev :=
  let s := s.updCan n fun x => { x with waits := false }
  if s.canState n = canRecovering then if 127 ≤ s.rec_ n then s.canRecovered n else s.setFld .CAN_STATUS_REC (s.rec_ n + 1) n
  else if s.canState n ≠ canIntegrating then s
  else s.canGo n (if 128 ≤ s.tec n ∨ 128 ≤ s.rec_ n then canPassive else canActive)

/-- A write of RECOVER (R346). -/
def Dev.canRecover (n : Nat) (s : Dev) : Dev :=
  if s.canState n = canBusOff then (s.setFld .CAN_STATUS_REC 0 n).canGo n canRecovering else s.misuse .CAN n

/-! ### Registers (R329, R333, R334, R336, R341, R342, R349) -/

/-- Whether the bit timing allows EN = 1 (R329). -/
def Dev.canTimed (s : Dev) (n : Nat) : Bool :=
  80 ≤ s.nomBit n && 10 ≤ s.fastBit n && s.fld .CAN_ARB_TIMING_JUMP n ≤ s.fld .CAN_ARB_TIMING_SEG_B n
    && s.fld .CAN_FAST_TIMING_FJUMP n ≤ s.fld .CAN_FAST_TIMING_FSEG_B n

/-- Whether the columns are in order and inside the basic cycle (R336). -/
def Dev.mxOrdered (s : Dev) (n cols : Nat) : Bool :=
  let stop (c : Nat) : Nat := s.reg .CAN_MX_START n c + s.reg .CAN_MX_LEN n c
  (List.range cols).all fun c =>
    stop c ≤ s.reg .CAN_MX_BC n
      && (c + 1 == cols || (s.reg .CAN_MX_START n c < s.reg .CAN_MX_START n (c + 1) && stop c ≤ s.reg .CAN_MX_START n (c + 1)))

/-- A write of word `w` of buffer `b` (R333, R334). -/
def Dev.bufWrite (n b w v : Nat) (s : Dev) : Dev :=
  if s.canBit .CAN_TXREQ n b || w == 2 || w == 3 then s.misuse .CAN n
  else
    let m := if w = 0 then 2 ^ 31 else if w = 1 then 2 ^ 8 else 2 ^ 32
    let s := s.setReg .CAN_BUF (v % m) n b w
    if v < m then s else s.misuse .CAN n

/-- A read of the CAN page: COL and INWIN follow the time base. -/
def Dev.canRead (r : Reg) (i j k : Nat) (s : Dev) : Nat :=
  match r with
  | .CAN_MX_STAT => putBit (putBits (s.reg r i) 12 8 (s.mxAt i).2.1) 13 (s.mxAt i).2.2
  | r => s.reg r i j k

/-- A write of the CAN page. -/
def Dev.canWrite (r : Reg) (n j k v : Nat) (s : Dev) : Dev :=
  let en := s.flag .CAN_CFG_EN n
  let mx := s.flag .CAN_MX_CFG_EN n
  let old := s.reg r n j k
  let moved (fi : FieldInfo) : Bool := bits v fi.hi fi.lo != bits old fi.hi fi.lo
  match r with
  | .CAN_CFG =>
    let ill (fi : FieldInfo) : Bool :=
      (en && moved fi && (fi.is .CAN_CFG_MODE || fi.is .CAN_CFG_FD_EN || fi.is .CAN_CFG_PXE_EN || fi.is .CAN_CFG_TB))
        || (fi.is .CAN_CFG_EN && bit v 0 && !s.canTimed n)
    let s := s.plainIf ill r v n
    let on := s.flag .CAN_CFG_EN n
    (if on == en then s else s.canEnable n on).canMute n
  | .CAN_CTRL =>
    let bad := bit v 0 && s.canState n != canBusOff
    let s := if v / 2 = 0 || bad then s else s.misuse .CAN n
    if bit v 0 then s.canRecover n else s
  | .CAN_ARB_TIMING | .CAN_FAST_TIMING | .CAN_SSP | .CAN_LAT => s.plainIf (fun fi => en && moved fi) r v n
  | .CAN_TXREQ => s.each ((List.range 32).filter (bit v)) fun b s => s.canRequest n (32 * j + b)
  | .CAN_TXCANCEL => s.each ((List.range 32).filter (bit v)) fun b s => s.canCancel n (32 * j + b)
  | .CAN_BUF => s.bufWrite n j k v
  | .CAN_RING_CFG =>
    let base := s.reg64 .CAN_RING_BASE_LOW .CAN_RING_BASE_HIGH n
    let size := if s.flag .CAN_RING_CFG_EN n then s.fld .CAN_RING_CFG_SIZE_M1 n else bits v 15 0
    let outside := 0x8000000 < base + 80 * (size + 1)
    let ill (fi : FieldInfo) : Bool :=
      (fi.is .CAN_RING_CFG_SIZE_M1 && s.flag .CAN_RING_CFG_EN n && moved fi) || (fi.is .CAN_RING_CFG_EN && bit v 31 && outside)
    (s.plainIf ill r v n).ringLift
  | .CAN_RING_RD => s.plainIf (fun _ => s.fld .CAN_RING_CFG_SIZE_M1 n < bits v 15 0) r v n
  | .CAN_MX_CFG =>
    let cols := bits v 13 8
    let cols := if 1 ≤ cols ∧ cols ≤ 32 then cols else s.fld .CAN_MX_CFG_COLS n
    let ill (fi : FieldInfo) : Bool :=
      if fi.is .CAN_MX_CFG_EN then bit v 0 && !mx && !s.mxOrdered n cols else mx && moved fi
    let col := (s.mxAt n).2.1
    let s := s.plainIf ill r v n
    let on := s.flag .CAN_MX_CFG_EN n
    if on && !mx then s.mxStart n
    else if mx && !on then (s.updCan n fun x => { x with started := false, opened := [], gates := [] }).setFld .CAN_MX_STAT_COL col n
    else s
  | .CAN_MX_BASE | .CAN_MX_BC | .CAN_MX_START | .CAN_MX_LEN => s.plainIf (fun _ => mx) r v n j
  | .CAN_MX_CELL =>
    if mx then s.plainIf (fun _ => true) r v n j k
    else
      let bad := (List.range 4).filter fun i => bits v (8 * i + 1) (8 * i) == 3
      let w := bad.foldl (fun w i => putBits w (8 * i + 7) (8 * i) (bits (s.reg r n j k) (8 * i + 7) (8 * i))) v
      let s := s.plain r w n j k
      if bad.isEmpty then s else s.misuse .CAN n
  | r => s.plain r v n j k

end Sys2Proof.Machine
end

