-- ==== Sys2Proof/Machine/BldOps.lean ====
section
/-! DEFINITION. The Blades: program words, lanes and shifters, holding registers, flags, restarts and pins (R350 to R373). A
command of a Blade's operation is one step of the Blade (R359); the levels of the group's pins as the input synchroniser
shows them in that step come with it. -/

namespace Sys2Proof.Machine

/-! ### Access -/

/-- A Blade beside its registers; `g` group, `b` Blade. -/
def Dev.blade (s : Dev) (g b : Nat) : BldSt := s.bld.get (g * 4 + b)

/-- The device with a Blade changed. -/
def Dev.updBld (g b : Nat) (f : BldSt → BldSt) (s : Dev) : Dev := { s with bld := s.bld.upd (g * 4 + b) f }

/-- The device with a group changed. -/
def Dev.updGrp (g : Nat) (f : BldGrp → BldGrp) (s : Dev) : Dev := { s with grp := s.grp.upd g f }

/-- Whether a Blade runs: its EN bit. -/
def Dev.bldOn (s : Dev) (g b : Nat) : Bool := bit (s.fld .BLD_CTRL_EN g) b

/-- Stall codes of BLD_STATUS.STALL (R372). -/
def stWait : Nat := 1
def stPull : Nat := 2
def stPush : Nat := 3
def stIrq : Nat := 4
def stAt : Nat := 5
def stLead : Nat := 6
def stIn : Nat := 7
def stOut : Nat := 8

/-- STATE follows EN and STALL. -/
def Dev.bldShow (g b : Nat) (s : Dev) : Dev :=
  let k := s.fld .BLD_STATUS_STALL g b
  s.setFld .BLD_STATUS_STATE (if !s.bldOn g b then 0 else if k = 0 then 1 else if k ≤ 5 then 2 else 3) g b

/-- The Blade shows a stall. -/
def Dev.bldStall (g b k : Nat) (s : Dev) : Dev := (s.setFld .BLD_STATUS_STALL k g b).bldShow g b

/-- NS of the Blades island copy of a time base. -/
def Dev.bldNow (s : Dev) (tb : Nat) : Nat := tbNs (s.copyVal islBlades tb)

/-- The doorbell of BLD_DB for an event that is enabled. -/
def Dev.bldBell (g b : Nat) (f : Fld) (s : Dev) : Dev :=
  s.when (s.flag f g b) fun s => s.ringMask (s.fld .BLD_DB_TARGET g b) (2 ^ s.fld .BLD_DB_BIT g b)

/-! ### Pins and lanes (R350 to R353, R357) -/

/-- The detected supply of the bank of group `g`. -/
def Dev.bankDet (s : Dev) (g : Nat) : Nat := s.fld .PIN_BANK_DET (g / 2)

/-- The levels on the group's pins are seen. (DESIGN CHOICE: log entry 5.) -/
def Dev.seePins (g : Nat) (levels : Nat) (s : Dev) : Dev :=
  { s with sys := { s.sys with pads := s.sys.pads.set g (levels % 256) } }

/-- The levels of the pins of a group; those of an absent bank read 0 (R351). -/
def Dev.grpLevels (s : Dev) (g : Nat) : Nat := if s.bankDet g = 0 then 0 else s.sys.pads.get g

/-- The level of group pin `p`. -/
def Dev.pinLevel (s : Dev) (g p : Nat) : Bool := bit (s.grpLevels g) p

/-- A word of PIN_LEVEL: the levels of four groups from group `g` on (R373). -/
def Dev.pinWord (s : Dev) (g : Nat) : Nat :=
  s.grpLevels g + 2 ^ 8 * s.grpLevels (g + 1) + 2 ^ 16 * s.grpLevels (g + 2) + 2 ^ 24 * s.grpLevels (g + 3)

/-- A read of the PIN page: PIN_LEVEL shows the pins as they are, whether Blades run or not. -/
def Dev.pinRead (r : Reg) (i : Nat) (s : Dev) : Nat :=
  match r with
  | .PIN_LEVEL_LOW => s.pinWord 0
  | .PIN_LEVEL_HIGH => s.pinWord 4
  | r => s.reg r i

/-- PIN_i, KIND_i and IDLE_i of lane `i`. -/
def Dev.laneCfg (s : Dev) (g b i : Nat) : Nat × Nat × Bool :=
  let v := bits (s.reg .BLD_LANES g b) (8 * i + 7) (8 * i)
  (bits v 2 0, bits v 4 3, bit v 5)

/-- A read of a lane (R357). -/
def Dev.laneLevel (s : Dev) (g b i : Nat) : Bool :=
  let (p, k, _) := s.laneCfg g b i
  k != 0 && s.pinLevel g p

/-- A write of an output pin's latch, and of its drive bit where one is given; the pin leaves its SAFE behaviour (R488). -/
def Dev.pinWrite (g p : Nat) (v : Bool) (drv : Option Bool) (s : Dev) : Dev :=
  let s := s.setFld .BLD_PINSTATE_LEVEL (putBit (s.fld .BLD_PINSTATE_LEVEL g) p v) g
  let s := match drv with
    | some d => s.setFld .BLD_PINSTATE_DRIVE (putBit (s.fld .BLD_PINSTATE_DRIVE g) p d) g
    | none => s
  s.updGrp g fun x => { x with safe := putBit x.safe p false }

/-- A write of a lane; `drv` is given by SET alone (R357). -/
def Dev.laneWrite (g b i : Nat) (v : Bool) (drv : Option Bool) (s : Dev) : Dev :=
  let (p, k, _) := s.laneCfg g b i
  if k = 2 then s.pinWrite g p v (some true)
  else if k = 3 then s.pinWrite g p v drv
  else s

/-- What pin BPp drives: `none` high impedance (R46, R351 to R353). -/
def Dev.pinDrives (s : Dev) (p : Nat) : Option Bool :=
  let g := p / 8
  let i := p % 8
  let own := if bit (s.fld .BLD_PINSTATE_DRIVE g) i then some (bit (s.fld .BLD_PINSTATE_LEVEL g) i) else none
  if !s.flag .PIN_CFG_FUNC p || s.txHeld || s.bankDet g == 0 || !s.domOn .pio then none
  else if bit (s.grp.get g).safe i then
    match s.fld .PIN_CFG_SAFE p with
    | 0 => none
    | 1 => some false
    | 2 => some true
    | _ => own
  else own

/-- A bank's detected level, with the levels on its pins; a change of DET counts (R351). (DESIGN CHOICE: log entry 5.) -/
def Dev.bankLevel (k det levels : Nat) (s : Dev) : Dev :=
  let s := (s.seePins (2 * k) levels).seePins (2 * k + 1) (levels / 256)
  if s.fld .PIN_BANK_DET k = det then s else (s.setFld .PIN_BANK_DET det k).count .PIN_BANK_CHG_CNT

/-- Hold is entered: groups with HOLD_RUN = 0 stop and their pins take the SAFE behaviour (R353). -/
def Dev.bldHold (s : Dev) : Dev :=
  s.each (List.range 8) fun g s =>
    if s.flag .BLD_GCFG_HOLD_RUN g then s
    else
      let s := (s.setFld .BLD_CTRL_EN 0 g).updGrp g fun x => { x with safe := 0xFF }
      s.each (List.range 4) fun b s => s.bldShow g b

/-! ### Flags (R366) -/

/-- Flag `f` rises; `b` and `tb`: the setting Blade and its time base. -/
def Dev.flagRise (g f b tb : Nat) (s : Dev) : Dev :=
  if bit (s.fld .BLD_FLAGS_FLAG g) f then s
  else
    let s := s.setFld .BLD_FLAGS_FLAG (putBit (s.fld .BLD_FLAGS_FLAG g) f true) g
    let s := s.when (s.flag .BLD_FLAG_CFG_DB_EN g f) fun s => s.ringMask (s.fld .BLD_FLAG_CFG_TARGET g f) (2 ^ s.fld .BLD_FLAG_CFG_BIT g f)
    if !s.flag .BLD_FLAG_CFG_JOB_EN g f then s
    else
      let j := jobWords (s.reg .BLD_JOB0 g) 0 0 (0x60 + g) 0 (tb40 (s.copyVal islBlades tb)) tb (f + b * 2 ^ 8)
      match s.push (Config.jobRink (0x60 + g) % 8) j (some (.bld g)) with
      | (.refused, s) => s.count .BLD_JOB_DROP_CNT g
      | (_, s) => s

/-- Flags are cleared. -/
def Dev.flagClear (g mask : Nat) (s : Dev) : Dev :=
  s.setFld .BLD_FLAGS_FLAG (s.fld .BLD_FLAGS_FLAG g &&& (255 - mask % 256)) g

/-! ### Words (R354, R355, R358) -/

/-- Whether a word is legal on a Blade; `time`: MODE 1. -/
def bldLegal (w : Nat) (time : Bool) : Bool :=
  let a := bits w 7 6
  match bits w 15 12 with
  | 0 => bits w 5 0 ≤ 47
  | 1 => bits w 6 5 ≠ 3 && bits w 4 3 = 0 && (bits w 6 5 ≠ 0 || bits w 2 0 ≤ 3)
  | 2 => a ≠ 3 && bits w 5 0 ≤ 32
  | 3 => bits w 5 0 ≤ 32
  | 4 => bits w 5 0 = 0
  | 5 => bits w 5 0 = 0
  | 6 => bits w 7 5 ≠ 7 && bits w 2 0 ≠ 7
  | 7 => a ≠ 3 && bits w 5 3 = 0
  | 8 => a ≠ 3 && (a ≠ 0 || bits w 5 4 = 0)
  | 9 => a ≠ 3 && bits w 5 0 = 0 && time
  | _ => false

/-- The word in progress, or the one at PC, which the Blade latches (R369). -/
def Dev.bldWord (s : Dev) (g b : Nat) : Nat :=
  match (s.blade g b).word with
  | some w => w
  | none => s.fld .BLD_PROG_WORD g (s.fld .BLD_STATUS_PC g b)

/-- Whether the word in progress is legal. -/
def Dev.bldOk (s : Dev) (g b : Nat) : Bool := bldLegal (s.bldWord g b) (s.flag .BLD_CLK_MODE g b)

/-- The word is latched at its fetch with its lead. -/
def Dev.bldFetch (g b : Nat) (s : Dev) : Dev :=
  match (s.blade g b).word with
  | some _ => s
  | none =>
    let w := s.bldWord g b
    s.updBld g b fun x => { x with word := some w, lead := bits w 11 9, moved := 0, gap := 0, acted := false }

/-- PC of a Blade. -/
def Dev.setPc (g b v : Nat) (s : Dev) : Dev := s.setFld .BLD_STATUS_PC v g b

/-- The word completes; `pc` where it wrote PC (R354, R356). -/
def Dev.bldDone (g b : Nat) (pc : Option Nat) (s : Dev) : Dev :=
  let w := s.bldWord g b
  let s := match pc with
    | some v => if 48 ≤ v then (s.count .BLD_ILLEGAL_CNT g).setPc g b 0 else s.setPc g b v
    | none =>
      if bit w 8 then s.setPc g b (s.fld .BLD_PCFG_LOOP_CUR g b)
      else s.setPc g b ((s.fld .BLD_STATUS_PC g b + 1) % 48)
  (s.updBld g b fun x => { x with word := none, lead := 0, moved := 0, gap := 0, acted := false }).bldStall g b 0

/-! ### Shifters (R357) -/

/-- TXBITS and RXBITS, 0 meaning 32. -/
def Dev.txBits (s : Dev) (g b : Nat) : Nat := if s.fld .BLD_FORM_TXBITS g b = 0 then 32 else s.fld .BLD_FORM_TXBITS g b
def Dev.rxBits (s : Dev) (g b : Nat) : Nat := if s.fld .BLD_FORM_RXBITS g b = 0 then 32 else s.fld .BLD_FORM_RXBITS g b

/-- A bit is collected into RSR. -/
def Dev.bldCollect (g b : Nat) (v : Bool) (s : Dev) : Dev :=
  let k := s.fld .BLD_STATUS_RCNT g b
  let s := s.updBld g b fun x =>
    { x with rsr := if s.flag .BLD_FORM_RX_MSB g b then (x.rsr * 2 + b2n v) % 2 ^ 32 else if k < 32 then putBit x.rsr k v else x.rsr }
  s.setFld .BLD_STATUS_RCNT (min 32 (k + 1)) g b

/-- A bit is taken from TSR. -/
def Dev.bldTake (g b : Nat) (s : Dev) : Bool × Dev :=
  let t := (s.blade g b).tsr
  let msb := s.flag .BLD_FORM_TX_MSB g b
  let v := if msb then bit t (s.txBits g b - 1) else bit t 0
  let s := s.updBld g b fun x => { x with tsr := if msb then x.tsr * 2 % 2 ^ 32 else x.tsr / 2 }
  (v, s.setFld .BLD_STATUS_TCNT (s.fld .BLD_STATUS_TCNT g b - 1) g b)

/-- `n` bits are taken; their value, the first bit least significant. -/
def Dev.bldTakeN (g b : Nat) : Nat → Dev → Nat × Dev
  | 0, s => (0, s)
  | n + 1, s =>
    let (v, s) := s.bldTake g b
    let (r, s) := s.bldTakeN g b n
    (b2n v + 2 * r, s)

/-- COUNT of IN and OUT. -/
def bldCount (w : Nat) : Nat := if bits w 5 0 = 0 then 32 else bits w 5 0

/-- One step of a serial transfer of `n` bits: `move` moves a bit when its step has come. -/
def Dev.bldSerial (g b n stall : Nat) (move : Dev → Dev) (s : Dev) : Dev :=
  let x := s.blade g b
  if 1 < x.gap then (s.updBld g b fun x => { x with gap := x.gap - 1 }).bldStall g b stall
  else
    let s := move s
    if x.moved + 1 = n then s.bldDone g b none
    else (s.updBld g b fun y => { y with moved := x.moved + 1, gap := s.fld .BLD_FORM_BITSTEPS g b }).bldStall g b stall

/-! ### Actions (R356, R361, R363, R364) -/

/-- JMP. -/
def Dev.bldJmp (g b w : Nat) (s : Dev) : Dev :=
  let a := bits w 5 0
  let take (c : Bool) (s : Dev) : Dev := s.bldDone g b (if c then some a else none)
  match bits w 7 6 with
  | 0 => take true s
  | 1 => if s.reg .BLD_C g b = 0 then take false s else take true (s.setReg .BLD_C (s.reg .BLD_C g b - 1) g b)
  | 2 => take (s.laneLevel g b (s.fld .BLD_FORM_TEST_LANE g b)) s
  | _ => take (s.flag .BLD_STATUS_TX_FULL g b) s

/-- The flag that an INDEX names. -/
def Dev.flagOf (s : Dev) (g b w : Nat) : Nat := (bits w 2 0 + s.fld .BLD_FORM_FLAG_OFS g b) % 8

/-- WAIT. -/
def Dev.bldWait (g b w : Nat) (s : Dev) : Dev :=
  let pol := bit w 7
  let f := s.flagOf g b w
  let src := match bits w 6 5 with
    | 0 => s.laneLevel g b (bits w 2 0)
    | 1 => bit (s.fld .BLD_FLAGS_FLAG g) f
    | _ => s.pinLevel g (bits w 2 0)
  if src != pol then s.bldStall g b stWait
  else (if bits w 6 5 = 1 ∧ pol then s.flagClear g (2 ^ f) else s).bldDone g b none

/-- IN. -/
def Dev.bldIn (g b w : Nat) (s : Dev) : Dev :=
  let n := bldCount w
  match bits w 7 6 with
  | 0 => s.bldSerial g b n stIn fun s => s.bldCollect g b (s.laneLevel g b (s.fld .BLD_FORM_IN_LANE g b))
  | 1 =>
    let v := s.reg .BLD_G g b
    (s.each (List.range n) fun i s => s.bldCollect g b (bit v i)).bldDone g b none
  | _ => (s.each (List.range n) fun _ s => s.bldCollect g b false).bldDone g b none

/-- OUT. (DEDUCED: log entry 27.) -/
def Dev.bldOut (g b w : Nat) (s : Dev) : Dev :=
  let n := bldCount w
  match bits w 7 6 with
  | 0 => s.bldSerial g b n stOut fun s =>
      let (v, s) := s.bldTake g b
      s.laneWrite g b (s.fld .BLD_FORM_OUT_LANE g b) v none
  | 1 =>
    let (v, s) := s.bldTakeN g b n
    (s.setReg .BLD_G v g b).bldDone g b none
  | 2 => (s.bldTakeN g b n).2.bldDone g b none
  | _ =>
    let (v, s) := s.bldTakeN g b n
    s.bldDone g b (some (v % 64))

/-- PUSH. -/
def Dev.bldPush (g b w : Nat) (s : Dev) : Dev :=
  let full := s.flag .BLD_STATUS_RX_FULL g b
  if bit w 6 && s.fld .BLD_STATUS_RCNT g b < s.rxBits g b then s.bldDone g b none
  else if full && !bit w 7 then s.bldStall g b stPush
  else
    let s := if full then s.count .BLD_OVERRUN_CNT g b else s
    let s := (s.setReg .BLD_RXHOLD (s.blade g b).rsr g b).setFlag .BLD_STATUS_RX_FULL true g b
    let s := (s.updBld g b fun x => { x with rsr := 0 }).setFld .BLD_STATUS_RCNT 0 g b
    (if full then s else s.bldBell g b .BLD_DB_EV_RX).bldDone g b none

/-- PULL. -/
def Dev.bldPull (g b w : Nat) (s : Dev) : Dev :=
  let full := s.flag .BLD_STATUS_TX_FULL g b
  if bit w 6 && s.fld .BLD_STATUS_TCNT g b != 0 then s.bldDone g b none
  else if !full && !bit w 7 then s.bldStall g b stPull
  else
    let v := s.reg .BLD_TXHOLD g b
    let s := (s.updBld g b fun x => { x with tsr := v }).setFld .BLD_STATUS_TCNT (s.txBits g b) g b
    (if full then (s.setFlag .BLD_STATUS_TX_FULL false g b).bldBell g b .BLD_DB_EV_TX
     else s.count .BLD_UNDERRUN_CNT g b).bldDone g b none

/-- Bits of a 32-bit word reversed. -/
def revWord32 (v : Nat) : Nat := ((List.range 32).map fun i => b2n (bit v i) * 2 ^ (31 - i)).sum

/-- The operation of MOV. -/
def movOp (op v : Nat) : Nat :=
  match op with
  | 0 => v
  | 1 => 2 ^ 32 - 1 - v
  | 2 => revWord32 v
  | _ => beVal (leBytes 4 v)

/-- MOV. (DEDUCED: log entry 27.) -/
def Dev.bldMov (g b w : Nat) (s : Dev) : Dev :=
  let lane (i : Nat) : Nat := b2n (s.laneLevel g b i)
  let src := match bits w 2 0 with
    | 0 => s.reg .BLD_G g b
    | 1 => s.reg .BLD_C g b
    | 2 => (s.blade g b).tsr
    | 3 => (s.blade g b).rsr
    | 4 => s.bldNow (s.fld .BLD_CLK_TB g b)
    | 5 => lane 0 + 2 * lane 1 + 4 * lane 2 + 8 * lane 3
    | _ => 0
  let v := movOp (bits w 4 3) src
  match bits w 7 5 with
  | 0 => (s.setReg .BLD_G v g b).bldDone g b none
  | 1 => (s.setReg .BLD_C (v % 65536) g b).bldDone g b none
  | 2 => ((s.updBld g b fun x => { x with tsr := v }).setFld .BLD_STATUS_TCNT (s.txBits g b) g b).bldDone g b none
  | 3 => ((s.updBld g b fun x => { x with rsr := v }).setFld .BLD_STATUS_RCNT 0 g b).bldDone g b none
  | 4 => (s.setReg .BLD_T v g b).bldDone g b none
  | 5 => s.bldDone g b (some (v % 64))
  | _ => (s.each (List.range 4) fun i s => s.laneWrite g b i (bit v i) none).bldDone g b none

/-- IRQ. -/
def Dev.bldIrq (g b w : Nat) (s : Dev) : Dev :=
  let f := s.flagOf g b w
  let tb := s.fld .BLD_CLK_TB g b
  match bits w 7 6 with
  | 0 => (s.flagRise g f b tb).bldDone g b none
  | 1 => (s.flagClear g (2 ^ f)).bldDone g b none
  | _ =>
    if !(s.blade g b).acted then ((s.flagRise g f b tb).updBld g b fun x => { x with acted := true }).bldStall g b stIrq
    else if bit (s.fld .BLD_FLAGS_FLAG g) f then s.bldStall g b stIrq
    else s.bldDone g b none

/-- SET. -/
def Dev.bldSet (g b w : Nat) (s : Dev) : Dev :=
  let d := bits w 5 0
  match bits w 7 6 with
  | 0 => (s.laneWrite g b (bits d 1 0) (bit d 2) (some (bit d 3))).bldDone g b none
  | 1 => (s.setReg .BLD_C d g b).bldDone g b none
  | _ => (s.setReg .BLD_G d g b).bldDone g b none

/-- AT that has computed T completes once its time base has reached T (AT_FIRE, R361). -/
def Dev.bldFire (g b : Nat) (s : Dev) : Dev :=
  if s.bldOn g b && (s.blade g b).acted && bits (s.bldWord g b) 15 12 == 9
      && reached (s.reg .BLD_T g b) (s.bldNow (s.fld .BLD_CLK_TB g b)) then s.bldDone g b none
  else s

/-- AT. (DEDUCED: log entry 27.) -/
def Dev.bldAt (g b w : Nat) (s : Dev) : Dev :=
  if (s.blade g b).acted then s.bldFire g b
  else
    let t := s.reg .BLD_T g b
    let gv := s.reg .BLD_G g b
    let t := (match bits w 7 6 with
      | 0 => gv
      | 1 => t + gv
      | _ => t + s.reg .BLD_ATSTEP g b) % 2 ^ 32
    let now := s.bldNow (s.fld .BLD_CLK_TB g b)
    let s := s.setReg .BLD_T t g b
    if inPast t now then (s.count .BLD_LATE_CNT g b).bldDone g b none
    else if reached t now then s.bldDone g b none
    else (s.updBld g b fun x => { x with acted := true }).bldStall g b stAt

/-- One step of Blade `b` whose word in progress has operation `op`; `levels` are the group's pins as seen (R359, R360). (DEDUCED: log entry 27.) -/
def Dev.bldStep (g b : Nat) (op : BldOp) (levels : Nat) (s : Dev) : Dev :=
  if !s.bldOn g b || !s.domOn .pio || !s.bldOk g b || bits (s.bldWord g b) 15 12 != op.code then s
  else
    let s := (s.seePins g levels).bldFetch g b
    let w := s.bldWord g b
    let l := (s.blade g b).lead
    if l ≠ 0 then (s.updBld g b fun x => { x with lead := l - 1 }).bldStall g b stLead
    else match op with
      | .jmp => s.bldJmp g b w
      | .wait => s.bldWait g b w
      | .in_ => s.bldIn g b w
      | .out => s.bldOut g b w
      | .push => s.bldPush g b w
      | .pull => s.bldPull g b w
      | .mov => s.bldMov g b w
      | .irq => s.bldIrq g b w
      | .set => s.bldSet g b w
      | .at_ => s.bldAt g b w

/-- An illegal word takes one step (R358). -/
def Dev.bldIllegal (g b : Nat) (s : Dev) : Dev :=
  if !s.bldOn g b || !s.domOn .pio || s.bldOk g b then s
  else
    let pc := s.fld .BLD_STATUS_PC g b
    let s := ((s.count .BLD_ILLEGAL_CNT g).setFld .BLD_ILLEGAL_PC_PC pc g).setFld .BLD_ILLEGAL_PC_BLADE b g
    ((s.setPc g b ((pc + 1) % 48)).updBld g b fun x => { x with word := none, lead := 0, moved := 0, gap := 0, acted := false }).bldStall g b 0

/-! ### Holding registers (R362, R364) -/

/-- A write of BLD_TXHOLD. -/
def Dev.txholdWrite (g b v : Nat) (s : Dev) : Dev :=
  if s.flag .BLD_STATUS_TX_FULL g b then s.count .BLD_TXREFUSE_CNT g b
  else (s.setReg .BLD_TXHOLD v g b).setFlag .BLD_STATUS_TX_FULL true g b

/-- A read of BLD_RXHOLD. -/
def Dev.rxholdRead (g b : Nat) (s : Dev) : Nat × Dev :=
  if s.flag .BLD_STATUS_RX_FULL g b then (s.reg .BLD_RXHOLD g b, s.setFlag .BLD_STATUS_RX_FULL false g b) else (0, s)

/-! ### Restart (R370) -/

/-- A write of BLD_RESTART. -/
def Dev.restartArm (g v : Nat) (s : Dev) : Dev :=
  let mask := bits v 3 0
  if s.flag .BLD_RESTART_STAT_PENDING g || mask == 0 then s.refuseWrite .BLD_RESTART g
  else
    let s := s.plain .BLD_RESTART v g
    let tb := bits v 6 5
    let s := (s.setFlag .BLD_RESTART_STAT_PENDING true g).setFld .BLD_RESTART_STAT_MASK mask g
    let s := s.updGrp g fun x => { x with timed := bit v 4, tb := tb }
    if bit v 4 && inPast (s.reg .BLD_RESTART_T g) (s.bldNow tb) then
      (s.updGrp g fun x => { x with timed := false }).each ((List.range 4).filter (bit mask)) fun b s => s.count .BLD_LATE_CNT g b
    else s

/-- A Blade is restarted. -/
def Dev.bldRestartOne (g b : Nat) (s : Dev) : Dev :=
  let start := s.fld .BLD_PCFG_START g b
  let s := (s.setFld .BLD_PCFG_START_CUR start g b).setFld .BLD_PCFG_LOOP_CUR (s.fld .BLD_PCFG_LOOP g b) g b
  let s := (((s.setPc g b start).setReg .BLD_C 0 g b).setReg .BLD_G 0 g b).setReg .BLD_T 0 g b
  let s := ((s.setFld .BLD_STATUS_TCNT 0 g b).setFld .BLD_STATUS_RCNT 0 g b).updBld g b fun _ => default
  let s := s.each (List.range 4) fun i s =>
    let (_, k, idle) := s.laneCfg g b i
    s.laneWrite g b i idle (some (k == 2))
  (s.setFld .BLD_CTRL_EN (putBit (s.fld .BLD_CTRL_EN g) b true) g).bldStall g b 0

/-- The armed restart takes place (BLADE_RESTART). -/
def Dev.bldRestart (g : Nat) (s : Dev) : Dev :=
  let x := s.grp.get g
  if !s.flag .BLD_RESTART_STAT_PENDING g || !s.domOn .pio || (x.timed && !reached (s.reg .BLD_RESTART_T g) (s.bldNow x.tb)) then s
  else
    let mask := s.fld .BLD_RESTART_STAT_MASK g
    let s := (s.setFlag .BLD_RESTART_STAT_PENDING false g).setFld .BLD_RESTART_STAT_MASK 0 g
    s.each ((List.range 4).filter (bit mask)) fun b s => s.bldRestartOne g b

/-! ### Registers (R368, R372, R373) -/

/-- A read of the BLD page. -/
def Dev.bldRead (r : Reg) (i j : Nat) (s : Dev) : Nat × Dev :=
  match r with
  | .BLD_RXHOLD => s.rxholdRead i j
  | .BLD_FLAGS_SET => (s.reg .BLD_FLAGS i, s)
  | r => (s.reg r i j, s)

/-- A write of the BLD page. -/
def Dev.bldWrite (r : Reg) (g j v : Nat) (s : Dev) : Dev :=
  match r with
  | .BLD_CTRL => (s.plain r v g).each (List.range 4) fun b s => s.bldShow g b
  | .BLD_RESTART => s.restartArm g v
  | .BLD_FLAGS => if v < 256 then s.flagClear g v else (s.flagClear g v).misuse .BLD g
  | .BLD_FLAGS_SET =>
    let s := s.each ((List.range 8).filter (bit v)) fun f s => s.flagRise g f 0 0
    if v < 256 then s else s.misuse .BLD g
  | .BLD_CLK | .BLD_LANES | .BLD_FORM => s.plainIf (fun _ => s.bldOn g j) r v g j
  | .BLD_TXHOLD => s.txholdWrite g j v
  | r => s.plain r v g j

end Sys2Proof.Machine
end

