-- ==== Sys2Proof/Machine/HoldOps.lean ====
section
/-! DEFINITION. Hold (R487, R488) and the mode control register (R485). The SLM, the CAN controllers and the personalities
look at CTL_STATUS.HOLD themselves (R321, R327, R412). -/

namespace Sys2Proof.Machine

/-- HOLD becomes 1, or is found 1 by a boot that a wake has started (R492, R498): the units that see CTL_STATUS.HOLD follow. -/
def Dev.holdEnter (s : Dev) : Dev :=
  if s.flag .SYS_MODE_CTRL_HOLD && s.flag .CTL_STATUS_HOLD then s
  else ((((s.setFlag .SYS_MODE_CTRL_HOLD true).ctlHold true).each (List.range 8) Dev.canMute).bldHold).modeUpdate

/-- Whether a write of HOLD = 0 is refused (R487). -/
def Dev.holdKept (s : Dev) : Bool :=
  s.fld .BOOT_STATUS_RESULT == 2 || s.fld .BOOT_STATUS_RESULT == 4
    || (s.boot.target == 3 && s.fld .PAR_STATUS_STATE == parOff)

/-- A write of HOLD = 0 while HOLD is 1 (R488). -/
def Dev.holdLeave (s : Dev) : Dev :=
  if !s.flag .SYS_MODE_CTRL_HOLD then s
  else if s.holdKept then s.count .PWR_REFUSE_CNT
  else ((s.setFlag .SYS_MODE_CTRL_HOLD false).ctlHold false).modeUpdate

/-- FWX is written (R485). -/
def Dev.fwxSet (b : Bool) (s : Dev) : Dev := (s.setFlag .SYS_MODE_CTRL_FWX b).modeUpdate

/-- A write of SYS_MODE_CTRL (R485, R487): Patrol's alone. -/
def Dev.modeCtrlWrite (mid v : Nat) (s : Dev) : Dev :=
  if mid ≠ 0x40 then s.misuse .SYS
  else
    let s := if v / 4 = 0 then s else s.misuse .SYS
    let s := s.fwxSet (bit v 1)
    if bit v 0 then s.holdEnter else s.holdLeave

end Sys2Proof.Machine
end

