-- ==== Sys2Proof/Machine/ParOps.lean ====
section
/-! DEFINITION. The pairs unit: tandem link, heartbeats, roles, the copy and the divergence check (R445 to R468). -/

namespace Sys2Proof.Machine

/-! ### Access -/

/-- The device with the pairs unit changed. -/
def Dev.updPar (f : ParSt → ParSt) (s : Dev) : Dev := { s with par := f s.par }

/-- PAR_STATUS.STATE and SYNC; SYNC codes 0 UNSYNCED, 1 SYNCING, 2 SYNCED. -/
def Dev.parState (s : Dev) : Nat := s.fld .PAR_STATUS_STATE
def Dev.parSync (s : Dev) : Nat := s.fld .PAR_STATUS_SYNC

/-- The doorbell of PAR_DB for an event that is enabled. -/
def Dev.parBell (f : Fld) (s : Dev) : Dev :=
  s.when (s.flag f) fun s => s.ringMask (s.fld .PAR_DB_TARGET) (2 ^ s.fld .PAR_DB_BIT)

/-- SYNC becomes UNSYNCED or SYNCING; pages count from the start of SYNCING (R460). -/
def Dev.setSync (n : Nat) (s : Dev) : Dev :=
  (s.setFld .PAR_STATUS_SYNC n).updPar fun x => if n = 1 then { x with arrived := [] } else x

/-- COPY_TASK. -/
def Dev.copyTask (s : Dev) : Nat := s.fld .PAR_COPY_CFG_COPY_TASK

/-- Tasks of TASKS and their owned output slots. -/
def Dev.pairTasks (s : Dev) : List Nat := (List.range 16).filter (bit (s.fld .PAR_COPY_CFG_TASKS))
def Dev.pairSlots (s : Dev) : List Nat := s.pairTasks.flatMap fun t => s.taskSlots t true

/-- The tracked pages in the order of their ranges. -/
def Dev.trackedPages (s : Dev) : List Nat :=
  (List.range 8).flatMap fun r => (List.range (s.trackRange r).2).map (· + (s.trackRange r).1)

/-! ### Roles (R452) -/

/-- PAR changes state; the operating mode follows. -/
def Dev.parGo (st : Nat) (s : Dev) : Dev :=
  if s.parState = st then s
  else ((s.setFld .PAR_STATUS_STATE st).parBell .PAR_DB_EV_ROLE).modeUpdate

/-- The unit becomes STANDBY, UNSYNCED. -/
def Dev.parToStandby (s : Dev) : Dev :=
  ((s.setSync 0).updPar fun x =>
    { x with
      yieldNext := false, yielding := false, yieldSent := false, takeNext := false, took := false, window := false, seq := none, outs := [], outsDone := false,
      ended := false, late := false }).parGo parStandby

/-- The unit becomes ACTIVE; the doorbell of a take-over tells the personalities, where EV_ROLE is 1 (R452, R463). -/
def Dev.parToActive (s : Dev) : Dev :=
  (s.updPar fun x => { x with
    takeNext := false, yieldNext := false, yielding := false, yieldSent := false,
    took := s.parState == parStandby && s.flag .PAR_DB_EV_ROLE }).parGo parActive

/-- PAR enters OFF; after phase 9 the device enters Hold (R452, R487). (DEDUCED: log entry 26.) -/
def Dev.parToOff (s : Dev) : Dev :=
  let s := ((s.setFlag .PAR_CFG_EN false).updPar fun x => { x with yieldNext := false, yielding := false, yieldSent := false, takeNext := false, took := false }).parGo parOff
  let s := ((s.setFlag .PAR_STATUS_PATH_T false).setFlag .PAR_STATUS_PATH_N false).setFlag .PAR_STATUS_DETACHED false
  if s.sys.phase9 then s.holdEnter else s

/-- Paths and DETACHED follow the miss counts (R451, R458); a change rings. A network path at MISS_LIMIT has forgotten the COUNT accepted last (R451).
(DEDUCED: log entry 26.) -/
def Dev.parPaths (s : Dev) : Dev :=
  let lim := s.fld .PAR_CFG_MISS_LIMIT
  let s := if lim ≤ s.fld .PAR_STATUS_NMISS then s.updPar fun x => { x with netCount := none } else s
  let t := s.fld .PAR_STATUS_TMISS < lim
  let n := s.flag .PAR_NETHB_EN && s.fld .PAR_STATUS_NMISS < lim
  let d := if t then false else s.flag .PAR_STATUS_DETACHED || n
  let changed := t != s.flag .PAR_STATUS_PATH_T || n != s.flag .PAR_STATUS_PATH_N || d != s.flag .PAR_STATUS_DETACHED
  let s := ((s.setFlag .PAR_STATUS_PATH_T t).setFlag .PAR_STATUS_PATH_N n).setFlag .PAR_STATUS_DETACHED d
  let s := if d && s.parState == parStandby then s.setSync 0 else s
  if changed then s.parBell .PAR_DB_EV_LINK else s

/-- EN is set: LISTEN, with a COUNT whose upper half the Vault draws (R449, R452). -/
def Dev.parEnable (s : Dev) : Dev :=
  let (v, s) := s.fresh
  let s := s.updPar fun x => { x with count := v % 2 ^ 32 * 2 ^ 32, netCount := none, tandemFit := false, heard := false, partnerSync := 0 }
  let strap := s.flag .BOOT_STRAP_PAIR_RANK
  let s := if s.par.linked then s else s.setFlag .PAR_STATUS_RANK strap
  let s := ((s.setFld .PAR_STATUS_TMISS 0).setFld .PAR_STATUS_NMISS 0).setFlag .PAR_STATUS_DETACHED false
  (s.parGo parListen).parPaths

/-- The start timer expires (R452). -/
def Dev.startWait (s : Dev) : Dev := if s.parState == parListen && !s.par.heard then s.parToActive else s

/-- A standby without a live path takes over, or enters OFF where it is UNFIT (R452). -/
def Dev.parSilence (s : Dev) : Dev :=
  if s.parState ≠ parStandby || s.flag .PAR_STATUS_PATH_T || s.flag .PAR_STATUS_PATH_N then s
  else if s.flag .PAR_STATUS_UNFIT then s.parToOff
  else ((s.count .PAR_TAKEOVER_CNT).setFlag .PAR_STATUS_COLD (s.parSync != 2)).parToActive

/-! ### Tandem link (R445, R446, R448) -/

/-- K_TDM of the pair, lower node number first; its label is "TDM" (R66). -/
def Dev.tdmContext (s : Dev) : List Byte :=
  let a := s.fld .PAR_NODE_NODE
  let b := s.fld .PAR_NODE_PARTNER
  Config.numBytes 4 (min a b) ++ Config.numBytes 4 (max a b)
def Dev.kTdm (img : Nat) (s : Dev) : Nat := kdfKey img [0x54#8, 0x44#8, 0x4D#8] s.tdmContext

/-- K_HBN, derived from K_TDM with the label "HBN" and its context; none without K_IMG (R449). -/
def Dev.kHbn (s : Dev) : Option Nat := s.vlt.kImg.map fun img => kdfKey (s.kTdm img) [0x48#8, 0x42#8, 0x4E#8] s.tdmContext

/-- A lane of the tandem link is locked, in MODE 8 (R446). -/
def Dev.tandemLane (s : Dev) : Bool := [8, 9].any fun n => s.flag .SDS_STATUS_LOCK n && s.fld .SDS_CFG_MODE n == 8

/-- Every lane that serves the tandem link is in near-end loopback: the unit hears its own frames, whose tags do not verify as the partner's (R77, R235;
DESIGN CHOICE: log entry 23). -/
def Dev.tandemLoops (s : Dev) : Bool :=
  let l := [8, 9].filter fun n => s.flag .SDS_STATUS_LOCK n && s.fld .SDS_CFG_MODE n == 8
  l != [] && l.all fun n => s.flag .SDS_CTRL_LOOP n

/-- A frame under the tandem key: encrypted, and the tag over that (R77). -/
def tandemSeal (key node lanes pn : Nat) (b : List Byte) : TdmFrame :=
  let iv := Config.tandemIv node pn
  let text := gcmCrypt key iv b
  ⟨lanes, pn, text, gcmTag key iv [] text⟩

/-- Frames leave on the tandem link, each with the next packet number, where the tandem slot holds a key (R77): those of a copy on the lowest-numbered
locked lane, the others on both lanes (R448). -/
def Dev.tandemSend (copy : Bool) (l : List (List Byte)) (s : Dev) : Dev :=
  let up := s.fld .PAR_STATUS_LANES
  let lanes := if copy && bit up 0 then 1 else up
  match s.vlt.tandemSak with
  | none => s
  | some key => s.updPar fun x =>
    { x with txPn := x.txPn + l.length, wire := l.zipIdx.map fun p => tandemSeal key (s.fld .PAR_NODE_NODE) lanes (x.txPn + 1 + p.2) p.1 }

/-- Whether the tag of a frame with these bytes verifies under the tandem key (R77). -/
def Dev.tandemOk (b : List Byte) (t : TdmTag) (s : Dev) : Bool :=
  match s.vlt.tandemSak with
  | none => false
  | some key => (tandemSeal key (s.fld .PAR_NODE_PARTNER) 3 t.pn.toNat b).tag == t.tag.toNat

/-- The Vault draws its nonce and installs SAK_TDM, derived from K_TDM and both nonces, lower node number first (R66, R77). -/
def Dev.sakTdm (img nonce : Nat) (s : Dev) : Dev :=
  let k := s.kTdm img
  let (v, s) := s.fresh
  let own := v % 2 ^ 256
  let pair := if s.fld .PAR_NODE_NODE ≤ s.fld .PAR_NODE_PARTNER then beBytes 32 own ++ beBytes 32 nonce else beBytes 32 nonce ++ beBytes 32 own
  { s with
    vlt := { s.vlt with tandemNonce := own, tandemSak := some (kdfKey k (Config.kdfLabel 1) pair),
                        keyRegs := s.vlt.keyRegs.map fun r => { r with tdm := some k } }
    par := { s.par with txPn := 0, rxPn := 0, wire := [] } }

/-- The START frame of the running image (R446, R447). -/
def Dev.ownStart (s : Dev) : StartF :=
  ⟨BitVec.ofNat 64 s.boot.buildId, BitVec.ofNat 32 s.boot.rollback, BitVec.ofNat 128 (s.boot.digest / 2 ^ 256), s.flag .BOOT_STRAP_PAIR_RANK⟩

/-- The tandem link starts with the partner's nonce and START frame. A unit without K_IMG has no K_TDM, and its link stays down; so does that of units
whose keys differ, since the frame's tag does not verify (R77). (DEDUCED: log entry 26.) -/
def Dev.tandemStart (nonce : Nat) (f : StartF) (t : TdmTag) (s : Dev) : Dev :=
  if s.fld .PAR_STATUS_LANES = 0 || !s.tandemLane || s.sys.lockdown || s.sys.resetRun.isSome || s.txHeld then s
  else match s.vlt.kImg with
  | none => s.count .PAR_AUTH_CNT
  | some img =>
  let s := s.sakTdm img nonce
  let own := s.ownStart
  let s := s.tandemSend false [own.bytes s.vlt.tandemNonce]
  let ok := s.tandemOk (f.bytes nonce) t && !s.tandemLoops
  let s := s.updPar fun x => { x with linked := ok, rxPn := if ok then t.pn.toNat else 0 }
  if !ok then s.count .PAR_AUTH_CNT
  else
    let s := if f.rank = own.rank then
        (s.setFlag .PAR_STATUS_RANK (s.fld .PAR_NODE_PARTNER < s.fld .PAR_NODE_NODE)).count .PAR_RANK_CLASH_CNT
      else s.setFlag .PAR_STATUS_RANK own.rank
    let same := f.buildId == own.buildId && f.rollback == own.rollback && f.digest == own.digest
    let s := s.updPar fun x => { x with imgDiffers := !same }
    if same then s else (s.count .PAR_IMG_MISMATCH_CNT).setSync 0

/-- LANES follows the locks of lanes 8 and 9; without a lane the link is down until its next start. -/
def Dev.parLanes (s : Dev) : Dev :=
  let v := b2n (s.flag .SDS_STATUS_LOCK 8) + 2 * b2n (s.flag .SDS_STATUS_LOCK 9)
  if v = s.fld .PAR_STATUS_LANES then s
  else ((s.setFld .PAR_STATUS_LANES v).updPar fun x => { x with linked := x.linked && v != 0 }).parBell .PAR_DB_EV_LINK

/-- Whether a tandem frame with these bytes is taken: the link is up and the frame authenticates; a failure is counted (R446). A frame whose packet
number has been taken is discarded: the second of a heartbeat's two, or a replay (R448, R450; DEDUCED: log entry 26). -/
def Dev.tandemTakes (b : List Byte) (t : TdmTag) (s : Dev) : Bool × Dev :=
  if s.fld .PAR_STATUS_LANES = 0 then (false, s)
  else if !s.par.linked || s.tandemLoops || !s.tandemOk b t then (false, s.count .PAR_AUTH_CNT)
  else if t.pn.toNat ≤ s.par.rxPn then (false, s)
  else (true, s.updPar fun x => { x with rxPn := t.pn.toNat })

/-! ### Heartbeats (R449 to R451, R453) -/

/-- The own heartbeat with its next COUNT. -/
def Dev.ownHeartbeat (s : Dev) : Heartbeat :=
  let c := s.par.count / 2 ^ 32 * 2 ^ 32 + (s.par.count + 1) % 2 ^ 32
  ⟨s.fld .PAR_ID_PAIR_ID, s.fld .PAR_NODE_NODE, s.parState, s.flag .PAR_STATUS_RANK, s.parSync, s.flag .PAR_STATUS_UNFIT, s.par.yielding, c⟩

/-- The GMAC tag of a network heartbeat under K_HBN (R449). -/
def Dev.netTag (key : Nat) (h : Heartbeat) : Nat := gcmTag key (Config.heartbeatIv h.node h.count) (Config.heartbeatCover h.fields) []

/-- PAR sends its heartbeats; without K_HBN none leaves on the network path (DEDUCED: log entry 26). -/
def Dev.heartbeatSend (s : Dev) : Dev :=
  if s.parState = parOff || s.txHeld then s
  else
    let h := s.ownHeartbeat
    let s := s.updPar fun x => { x with count := h.count, hbSent := some h }
    let s := (s.when s.par.linked (Dev.tandemSend false [h.tandem])).updPar fun x => { x with yieldSent := x.yieldSent || (h.yield && x.linked) }
    let n := s.fld .PAR_NETHB_PORT
    match s.kHbn with
    | none => s
    | some key =>
    if !s.flag .PAR_NETHB_EN || !s.macSends n then s
    else
      let da := s.reg64 .PAR_PAIR_MAC_LOW .PAR_PAIR_MAC_HIGH
      let f : Frame := beBytes 6 (putBit da 40 true) ++ beBytes 6 (s.reg64 .MAC_SA_LOW .MAC_SA_HIGH n)
        ++ beBytes 2 (s.fld .PAR_NETHB_ETYPE) ++ fitTo 30 (Config.heartbeatBytes h.fields) ++ beBytes 16 (Dev.netTag key h)
      s.sends n ⟨f.withFcs, none, false⟩

/-- What every valid heartbeat does: PARTNER fields, and the rows of LISTEN (R452). -/
def Dev.heartbeatTaken (h : Heartbeat) (s : Dev) : Dev :=
  let s := (s.setFld .PAR_STATUS_PARTNER_STATE h.state).setFlag .PAR_STATUS_PARTNER_UNFIT h.unfit
  let s := s.updPar fun x => { x with heard := true, partnerSync := h.sync }
  if s.parState ≠ parListen then s
  else if h.state = parActive then s.parToStandby
  else if h.state = parListen && !s.flag .PAR_STATUS_RANK then s.parToActive
  else s

/-- A standby in UNSYNCED starts SYNCING (R460). (DEDUCED: log entry 26.) -/
def Dev.syncUp (s : Dev) : Dev :=
  if s.parState == parStandby && s.parSync == 0 && !s.par.imgDiffers then s.setSync 1 else s

/-- A tandem heartbeat is received (R450 to R453, R460). -/
def Dev.tandemHeartbeat (h : Heartbeat) (t : TdmTag) (s : Dev) : Dev :=
  let (ok, s) := s.tandemTakes h.tandem t
  if !ok || s.parState == parOff || h.pairId != s.fld .PAR_ID_PAIR_ID || h.node != s.fld .PAR_NODE_PARTNER then s
  else
    let s := (s.setFld .PAR_STATUS_TMISS 0).parPaths
    let s := (s.updPar fun x => { x with tandemFit := h.sync == 2 && !h.unfit }).heartbeatTaken h
    let s :=
      if s.parState == parStandby && h.yield && s.parSync == 2 && !s.flag .PAR_STATUS_UNFIT then
        s.updPar fun x => { x with takeNext := true }
      else if s.parState == parActive && h.state == parActive && s.flag .PAR_STATUS_RANK then
        (s.count .PAR_YIELD_CNT).parToStandby
      else s
    s.syncUp

/-- Whether the tag of a network heartbeat verifies (R450). -/
def Dev.netTagOk (h : Heartbeat) (tag : Nat) (s : Dev) : Bool :=
  match s.kHbn with
  | some key => Dev.netTag key h == tag
  | none => false

/-- A network heartbeat is received with its tag (R450, R451). -/
def Dev.networkHeartbeat (h : Heartbeat) (tag : Nat) (s : Dev) : Dev :=
  if s.parState == parOff || !s.flag .PAR_NETHB_EN then s
  else
    let newer := match s.par.netCount with
      | some c => c < h.count
      | none => true
    if !s.netTagOk h tag || h.pairId != s.fld .PAR_ID_PAIR_ID || h.node != s.fld .PAR_NODE_PARTNER || !newer then s.count .PAR_HB_BAD_CNT
    else
      let s := s.updPar fun x => { x with netCount := some h.count }
      ((s.setFld .PAR_STATUS_NMISS 0).parPaths).heartbeatTaken h

/-- HB_PERIOD_US has passed on a path without a valid heartbeat (R451, R452). -/
def Dev.heartbeatMiss (network : Bool) (s : Dev) : Dev :=
  if s.parState = parOff then s
  else
    let s :=
      if network then
        let k := min 15 (s.fld .PAR_STATUS_NMISS + 1)
        (s.count .PAR_NMISS_CNT).setFld .PAR_STATUS_NMISS k
      else (s.count .PAR_TMISS_CNT).setFld .PAR_STATUS_TMISS (min 15 (s.fld .PAR_STATUS_TMISS + 1))
    s.parPaths.parSilence

/-- Whether the active unit may give up its role (R453). -/
def Dev.mayYield (s : Dev) : Bool := s.parState == parActive && s.par.tandemFit

/-- An accepted write of RELINQUISH (R453). -/
def Dev.relinquish (s : Dev) : Dev := s.updPar fun x => { x with yieldNext := true }

/-- AUTO_YIELD: an engine has gone offline, or SMF_JOBROUTE n shows ACTIVE (R453). -/
def Dev.autoYield (s : Dev) : Dev :=
  if s.flag .PAR_CFG_AUTO_YIELD && s.mayYield then s.updPar fun x => { x with yieldNext := true } else s

/-- A write of RESYNC (R460). -/
def Dev.resync (s : Dev) : Dev := s.syncUp

/-- A write of CLR_UNFIT by Patrol (R466). -/
def Dev.clrUnfit (s : Dev) : Dev :=
  ((s.setFlag .PAR_STATUS_UNFIT false).setFld .PAR_DIV_SLOT_CONSEC 0).setSync 0

/-! ### The copy of the active unit (R456) -/

/-- Frame bytes (R447). -/
def CopyF.size : CopyF → Nat
  | .seq _ => 64
  | .out _ d => 16 + d.length
  | .page _ _ => 4112
  | .fin _ => 64

/-- The SEQ frame of the moment. -/
def Dev.seqFrame (s : Dev) : SeqF :=
  ⟨(s.task s.copyTask).cycle, (List.range 4).map fun r => s.fld .SWC_RED_SEQ_SEQ r, s.pairTasks.map fun t => (t, s.taskCode t)⟩

/-- The pages of a list are read, each with its dirty bit cleared first. -/
def Dev.readPages (l : List Nat) (s : Dev) : List CopyF × Dev :=
  l.foldl (fun (fs, s) pg =>
    let s := { s with smf := { s.smf with dirty := s.smf.dirty.set pg false } }
    let (r, s) := s.physRead ctlMid (pg * 4096) 4096
    (fs ++ [CopyF.page (pg * 4096) r.data], s)) (([] : List CopyF), s)

/-- The copy at the output commit of COPY_TASK; no frame leaves under the boot output hold and in Listen (R46). The time it takes is open (DESIGN CHOICE, log entry 9). -/
def Dev.sendCopy (s : Dev) : Dev :=
  if s.txHeld then s
  else
  let seq := CopyF.seq s.seqFrame
  let (outs, s) := s.pairSlots.foldl (fun (fs, s) n =>
    let a := s.copyAddr n (s.lastOf n)
    let (h, s) := s.physRead ctlMid (a + 6) 2
    let (r, s) := s.physRead ctlMid (a + 16) (min (leVal h.data) (64 * s.slotSize n - 16))
    (fs ++ [CopyF.out n r.data], s)) (([] : List CopyF), s)
  let all := s.trackedPages
  let (dirty, s) := s.readPages ((all.filter s.smf.dirty.get).eraseDups.mergeSort (· ≤ ·))
  let k := if s.par.partnerSync = 1 then min all.length (s.fld .PAR_COPY_CFG_BULK_PAGES) else 0
  let more := (List.range k).map fun i => all.getD ((s.par.bulk + i) % max 1 all.length) 0
  let (bulk, s) := s.readPages more
  let body := outs ++ dirty ++ bulk
  let l := seq :: body ++ [CopyF.fin body.length]
  let (v, s) := s.fresh
  let s := (s.setReg .PAR_COPY_BYTES ((l.map CopyF.size).sum)).setReg .PAR_COPY_TIME v
  let s := s.when s.par.linked (Dev.tandemSend true (l.map CopyF.bytes))
  s.updPar fun x => { x with sent := l, bulk := (x.bulk + k) % max 1 all.length, yielding := x.yielding || x.yieldNext, yieldNext := false }

/-- T0 + DEADLINE of a task (OUTPUT_DEADLINE): CTL's part, then the copy on the active unit, or the window on the standby. -/
def Dev.deadlineAll (t : Nat) (s : Dev) : Dev :=
  let due := s.deadlineDue t && t == s.copyTask
  let commits := (s.task t).inTime
  let s := s.outputDeadline t
  if !due then s
  else if s.parState = parActive then (if commits then s.sendCopy else s)
  else if s.parState = parStandby then s.updPar fun x => { x with window := true }
  else s

/-- T0 of a task (INPUT_LATCH): roles change at the T0 of COPY_TASK (R452), then CTL's part. -/
def Dev.latchAll (t : Nat) (s : Dev) : Dev :=
  let due := match (s.task t).due with
    | t0 :: _ => s.flag .CTL_TASK_CFG_EN t && s.domOn .swc && s.dueAt islSwitch (s.fld .CTL_TASK_CFG_TB t) t0 != .ahead
    | [] => false
  let s :=
    if !due || t != s.copyTask then s
    else if s.parState == parStandby && s.par.takeNext then s.parToActive
    else if s.parState == parActive && s.par.yieldSent then s.parToStandby.parSilence
    else s
  s.inputLatch t

/-! ### The copy on the standby (R457 to R461, R465) -/

/-- The slots of TASKS are committed by the standby. -/
def Dev.commitPair (l : List Nat) (s : Dev) : Dev := s.each l fun n s => s.outCommit true n

/-- SEQ: the programs are compared (R461); a copy that begins while no window is open belongs to the cycle that has closed
(R459). (DEDUCED: log entry 26.) -/
def Dev.seqReceive (q : SeqF) (t : TdmTag) (s : Dev) : Dev :=
  let (ok, s) := s.tandemTakes (CopyF.seq q).bytes t
  if !ok || s.parState != parStandby then s
  else
    let differs := q.codes.any fun c => s.taskCode c.1 != c.2
    let s := s.updPar fun x => { x with seq := some q, outs := [], outsDone := false, ended := false, progDiffers := differs, late := x.late && !x.window }
    if differs then (s.count .PAR_PROG_MISMATCH_CNT).setSync 0 else s

/-- The first slot whose received data differ from the own copy B, all of which are read (R160, R465). -/
def Dev.firstDiff (l : List (Nat × List Byte)) (s : Dev) : Option Nat × Dev :=
  l.foldl (fun (n, s) o =>
    let (r, s) := s.physRead ctlMid (s.copyAddr o.1 (s.fld .CTL_SLOT_B o.1) + 16) o.2.length
    (n <|> if r.data = o.2 then none else some o.1, s)) ((none : Option Nat), s)

/-- The runs of the tasks in TASKS have ended in time in this cycle (R465). -/
def Dev.pairTimely (s : Dev) : Bool := s.pairTasks.all fun t => s.par.inTime.contains t || (s.task t).inTime

/-- A cycle is compared (R465, R466); a cycle whose copy comes after its window has been counted as not compared when the window closed.
(DEDUCED: log entry 26.) -/
def Dev.compareCopy (l : List (Nat × List Byte)) (s : Dev) : Dev :=
  if !s.flag .PAR_CFG_CMP_EN then s
  else
    if s.par.progDiffers then s.count .PAR_CMP_SKIP_CNT
    else if !s.pairTimely then (if s.par.late then s else s.count .PAR_CMP_SKIP_CNT)
    else if s.parSync ≠ 2 then s
    else match s.firstDiff l with
      | (none, s) => s.setFld .PAR_DIV_SLOT_CONSEC 0
      | (some n, s) =>
        let k := min 255 (s.fld .PAR_DIV_SLOT_CONSEC + 1)
        let s := (((s.count .PAR_DIV_CNT).setFld .PAR_DIV_SLOT_SLOT n).setFld .PAR_DIV_SLOT_CONSEC k).parBell .PAR_DB_EV_DIV
        if s.fld .PAR_START_DIV_LIMIT ≤ k then s.setFlag .PAR_STATUS_UNFIT true else s

/-- The sequence records of a SEQ frame are loaded (R457). -/
def Dev.loadSeqrec (q : SeqF) (s : Dev) : Dev :=
  let s := s.updPar fun x => { x with seqBase := (List.range 4).foldl (fun b r => b.set r (q.reds.getD r 0)) x.seqBase, seqUsed := [] }
  s.each (List.range 4) fun r s => (s.setFld .PAR_SEQREC_SEQ (q.reds.getD r 0) r).setFlag .PAR_SEQREC_VALID true r

/-- An OUT frame; the last of the copy makes the commit (R457). (DEDUCED: log entry 26.) -/
def Dev.outReceive (slot : Nat) (data : List Byte) (t : TdmTag) (s : Dev) : Dev :=
  let (ok, s) := s.tandemTakes (CopyF.out slot data).bytes t
  match s.par.seq with
  | none => s
  | some q =>
    if !ok || s.parState != parStandby || !s.pairSlots.contains slot || s.par.outs.any (fun o => o.1 == slot) then s
    else
      let outs := s.par.outs ++ [(slot, data)]
      let s := s.updPar fun x => { x with outs := outs }
      if outs.length < s.pairSlots.length then s
      else
        let s := s.compareCopy outs
        let s := s.each outs fun o s => s.physWrite ctlMid (s.copyAddr o.1 (s.fld .CTL_SLOT_B o.1) + 16) o.2
        let s := (s.commitPair (outs.map (·.1))).loadSeqrec q
        s.updPar fun x => { x with outsDone := !x.late }

/-- A PAGE frame (R457, R459, R461). (DEDUCED: log entry 26.) -/
def Dev.pageReceive (addr : Nat) (data : List Byte) (t : TdmTag) (s : Dev) : Dev :=
  let (ok, s) := s.tandemTakes (CopyF.page addr data).bytes t
  if !ok || s.parState != parStandby || s.par.seq.isNone || s.par.late || s.par.progDiffers then s
  else
    let pg := addr / 4096
    (s.physWrite ctlMid (pg * 4096) data).updPar fun x =>
      { x with arrived := if x.arrived.contains pg then x.arrived else pg :: x.arrived }

/-- The END frame (R457, R460). -/
def Dev.endReceive (frames : Nat) (t : TdmTag) (s : Dev) : Dev :=
  let (ok, s) := s.tandemTakes (CopyF.fin frames).bytes t
  if !ok || s.parState != parStandby || s.par.seq.isNone then s
  else
    let whole := !s.par.late && !s.par.progDiffers
    let s := s.updPar fun x => { x with ended := !x.late, seq := none }
    if whole && s.parSync == 1 && s.trackedPages.all (s.par.arrived.contains ·) then s.setFld .PAR_STATUS_SYNC 2 else s

/-- A cycle that the standby has committed by itself: the records go on by the frames of the cycle (R463). -/
def Dev.seqOn (s : Dev) : Dev :=
  s.updPar fun x => { x with
    seqBase := (List.range 4).foldl (fun b r => b.set r ((x.seqBase.get r + x.seqUsed.get r) % 65536)) x.seqBase, seqUsed := [] }

/-- The window of a cycle of COPY_TASK closes on the standby (R458, R459); a cycle without a copy in which a run has not ended in time is counted
as not compared (R465). (DEDUCED: log entry 26.) -/
def Dev.windowClose (s : Dev) : Dev :=
  let t := s.copyTask
  let at_ := (s.reg .CTL_TASK_T0 t + s.reg .CTL_TASK_DEADLINE t + s.reg .PAR_COPY_WIN) % 2 ^ 32
  if s.parState ≠ parStandby || !s.par.window || s.dueAt islSwitch (s.fld .CTL_TASK_CFG_TB t) at_ == .ahead then s
  else
    let own := !s.par.outsDone && !s.flag .PAR_STATUS_DETACHED
    let ended := s.par.ended
    let s := if !s.par.outsDone && s.flag .PAR_CFG_CMP_EN && !s.pairTimely then s.count .PAR_CMP_SKIP_CNT else s
    let s := if own then
        ((s.commitPair (s.pairSlots.filter fun n => s.par.inTime.contains (s.slotTask n))).count .PAR_COPY_LATE_CNT).seqOn
      else s
    let s := if ended then s
      else
        let s := (s.setSync 0).updPar fun x => { x with late := true }
        if own then s else s.count .PAR_COPY_LATE_CNT
    s.updPar fun x => { x with window := false, outsDone := false, ended := false }

/-! ### Registers (R468) -/

/-- Whether the tracked ranges are legal with a new range (R468). -/
def Dev.trackLegal (s : Dev) (r base pages : Nat) : Bool :=
  let others := ((List.range 8).filter (· ≠ r)).map fun k => (s.trackRange k).2
  base + pages ≤ 0x8000 && others.sum + pages ≤ 4096

/-- A write of the PAR page. -/
def Dev.parWrite (r : Reg) (i mid v : Nat) (s : Dev) : Dev :=
  let en := s.flag .PAR_CFG_EN
  match r with
  | .PAR_CFG =>
    let s := s.plain r v
    let on := s.flag .PAR_CFG_EN
    if on && !en then s.parEnable else if en && !on then s.parToOff else if en then s.parPaths.parSilence else s
  | .PAR_ID | .PAR_NODE | .PAR_PAIR_MAC_LOW | .PAR_PAIR_MAC_HIGH | .PAR_NETHB => s.plainIf (fun _ => en) r v
  | .PAR_TRACK_LOW | .PAR_TRACK_HIGH => s.plainIf (fun _ => en) r v i
  | .PAR_CTRL =>
    let yields := bit v 0 && s.mayYield
    let clears := bit v 2 && mid == 0x40
    let s := if v / 8 = 0 && yields == bit v 0 && clears == bit v 2 then s else s.misuse .PAR
    let s := if yields then s.relinquish else s
    let s := if bit v 1 then s.resync else s
    if clears then s.clrUnfit else s
  | r => s.plain r v i

/-- A write of the pair PAR_TRACK `i` as a whole (R8, R468). -/
def Dev.trackWrite (i lo hi : Nat) (s : Dev) : Dev :=
  let base := bits lo 31 12 + bits hi 7 0 * 2 ^ 20
  let ok := !s.flag .PAR_CFG_EN && s.trackLegal i base (bits hi 20 8)
  if ok && bits lo 11 0 == 0 && bits hi 31 21 == 0 then (s.setReg .PAR_TRACK_LOW lo i).setReg .PAR_TRACK_HIGH hi i
  else if ok then ((s.setReg .PAR_TRACK_LOW (lo - bits lo 11 0) i).setReg .PAR_TRACK_HIGH (bits hi 20 0) i).misuse .PAR
  else s.misuse .PAR

end Sys2Proof.Machine
end

