-- ==== Sys2Proof/Machine/PersRec.lean ====
section
/-! DEFINITION. The personalities' roles, media, limits and addressing, and the instance records that are held to them (R374 to R377, R382,
R387 to R411). -/

namespace Sys2Proof.Machine

/-! ### Records and stations -/

/-- The device with the personalities changed. -/
def Dev.updPers (f : PersSt → PersSt) (s : Dev) : Dev := { s with pers := f s.pers }

/-- GATEWAY and NOTIFY of a station (R382). -/
def Station.gateway (x : Station) : Bool := bit x.flags 0
def Station.notify (x : Station) : Bool := bit x.flags 1

/-- EN and LOCK of an instance record (R376). -/
def InstRec.en (r : InstRec) : Bool := bit r.flags 0
def InstRec.lock (r : InstRec) : Bool := bit r.flags 1

/-- The number of an instance among all. -/
def instKey (pers inst : Nat) : Nat := pers * 256 + inst

/-- Personality code, FWID and rinks of an ENGINE_FW section (R375). -/
def Section.pers (x : Section) : Nat := bits x.target 23 16
def Section.fwid (x : Section) : Nat := bits x.target 11 8
def Section.rinks (x : Section) : Nat := bits x.target 7 0

/-- Whether the running image loads a personality, whether rink `n` holds it, and its FWID. -/
def Dev.persLoaded (s : Dev) (p : Nat) : Bool := p != 0 && s.boot.fw.any fun x => x.pers == p
def Dev.persIn (s : Dev) (p n : Nat) : Bool := s.boot.fw.any fun x => x.pers == p && bit x.rinks n
def Dev.persFwid (s : Dev) (p : Nat) : Nat := ((s.boot.fw.find? fun x => x.pers == p).map Section.fwid).getD 0

/-- Whether rink `n` holds the personality that comes first in section table order (R376). -/
def Dev.firstPersIn (s : Dev) (n : Nat) : Bool := ((s.boot.fw.find? fun x => x.pers != 0).map fun x => bit x.rinks n).getD false

/-- The record of an instance, with its index. -/
def Dev.instRec (s : Dev) (p i : Nat) : Option (Nat × InstRec) :=
  (s.pers.insts.zipIdx.find? fun e => e.1.pers == p && e.1.inst == i).map fun e => (e.2, e.1)

/-- The stations of an instance. -/
def Dev.stationsOf (s : Dev) (p i : Nat) : List Station := (s.pers.stations.map (·.2)).filter fun x => x.pers == p && x.inst == i

/-- The stations of all instances of a personality in a role. -/
def Dev.stationsIn (s : Dev) (p role : Nat) : List Station :=
  (s.pers.insts.filter fun r => r.pers == p && r.role == role).flatMap fun r => s.stationsOf p r.inst

/-! ### Roles and media (R374) -/

/-- The roles of a personality, as their codes (R387 to R409). -/
def persRoles (p : Nat) : List Nat :=
  if p = 5 then [1, 2, 3, 4] else if p = 9 ∨ p = 0xB then [1] else if 1 ≤ p ∧ p ≤ 0xC then [1, 2] else []

/-- A medium of R374. -/
inductive Medium where
  | mac | traverse | can | blade
deriving DecidableEq, Repr, Inhabited

/-- The media on which a role of a personality runs (R374, R387 to R409). -/
def persMedia (p role : Nat) : List Medium :=
  match p with
  | 1 => if role = 2 then [.traverse] else [.mac]
  | 5 => if role ≤ 2 then [.mac] else [.blade]
  | 6 => [.blade]
  | 8 => [.mac, .blade]
  | 9 | 0xA | 0xB => [.can]
  | _ => [.mac]

/-- Whether a producer code names a port of a medium (R89). -/
def portIs (m : Medium) (code : Nat) : Bool :=
  match m with
  | .mac => code < 28
  | .traverse => 4 ≤ code && code < 20
  | .can => 0x40 ≤ code && code < 0x48
  | .blade => 0x60 ≤ code && code < 0x68

/-- The Blades of a record: bit b is Blade b of the group that PORT0 names. -/
def InstRec.bladeList (r : InstRec) : List Nat := (List.range 4).filter (bit r.blades)

/-- Whether the ports of a record suit a medium: a field port pair for traverse mode (R387); two Blades of one group for a line of Type 15
or Type 3 (R395, R397), one and more for serial inputs and outputs of IEC 61162 (R401). -/
def InstRec.onMedium (r : InstRec) (m : Medium) : Bool :=
  match m with
  | .traverse => portIs .traverse r.port0 && r.port0 % 2 == 0 && r.port1 == r.port0 + 1
  | .blade => portIs .blade r.port0 && r.port1 == 0xFF && (if r.pers = 8 then r.bladeList != [] else r.bladeList.length == 2)
  | m => portIs m r.port0 && (r.port1 == 0xFF || portIs m r.port1)

/-- The medium of a record, where its ports suit one of its role's. -/
def InstRec.medium (r : InstRec) : Option Medium := (persMedia r.pers r.role).find? r.onMedium

/-- Whether an instance uses MAC `n`. -/
def InstRec.usesMac (r : InstRec) (n : Nat) : Bool := r.medium == some .mac && (r.port0 == n || r.port1 == n)

/-! ### Addressing (R387 to R409) -/

/-- What ADDR and PARAM of a station name. -/
def Station.dest (x : Station) : Dest :=
  let lo := bits x.param 15 0
  let hi := bits x.param 31 16
  match x.pers with
  | 1 => .subdevice x.addr lo
  | 2 => .frameId x.param
  | 3 => .assemblies lo hi
  | 4 => .node x.addr (bits x.param 5 0)
  | 5 => .registers x.addr (bits x.param 7 0) hi
  | 6 => .slave x.addr
  | 7 => .app lo hi
  | 8 => .sentence x.param (bits x.addr 23 0)
  | 9 => .nameGroup x.addr x.param
  | 0xA => .pdo x.addr (bit x.param 31)
  | 0xB => .saeGroup (bits x.addr 7 0) x.param
  | 0xC => .dataset lo hi
  | _ => .nowhere

/-- The CiA 301 node of a COB-ID: its low seven bits. (PRESUMED: log entry 28.) -/
def cobNode (cob : Nat) : Nat := cob % 128

/-! ### Limits (R387 to R409) -/

/-- The number of different values in a list. -/
def distinct (l : List Nat) : Nat := l.eraseDups.length

/-- Whether the number of an instance's stations is within its role's limit: subdevices, devices, connections, nodes, servers, slaves,
parameter groups. -/
def countOk (p role : Nat) (l : List Station) : Bool :=
  match p, role with
  | 1, 1 => l.length ≤ 1024
  | 1, _ => l.length ≤ 1
  | 2, 1 => l.length ≤ 256
  | 2, _ => l.length ≤ 64
  | 3, 1 => l.length ≤ 128
  | 3, _ => l.length ≤ 32
  | 4, 1 => l.length ≤ 239
  | 5, 1 => distinct (l.map Station.addr) ≤ 64
  | 5, 3 => l.length ≤ 247
  | 6, 1 => l.length ≤ 125
  | 6, _ => l.length ≤ 1
  | 0xA, _ => distinct (l.map fun x => cobNode x.addr) ≤ 127
  | 9, _ => l.length ≤ 256
  | 0xB, _ => l.length ≤ 256
  | _, _ => true

/-- Stations of a list that have inputs, and outputs. -/
def withIn (l : List Station) : List Station := l.filter fun x => x.inLen != 0
def withOut (l : List Station) : List Station := l.filter fun x => x.outLen != 0

/-- Whether a station of IEC 61850 is a sampled-value stream: its APPID lies in 0x4000 to 0x7FFF, where IEC 61850-9-2 has them. (PRESUMED: log entry
28.) -/
def Station.isSv (x : Station) : Bool := x.pers == 7 && bits x.param 15 14 == 1

/-- Whether the stations of a personality stay within its limits per device: 128 GOOSE and 8 sampled-value publications, 512 and 64
subscriptions (R399); 512 PDOs each way (R405); 64 writer groups and 256 dataset readers (R409). -/
def Dev.deviceOk (s : Dev) (p : Nat) : Bool :=
  let all := s.stationsIn p 1 ++ s.stationsIn p 2
  match p with
  | 7 =>
    let n (role : Nat) (sv : Bool) : Nat := ((s.stationsIn 7 role).filter fun x => x.isSv == sv).length
    n 1 false ≤ 128 && n 1 true ≤ 8 && n 2 false ≤ 512 && n 2 true ≤ 64
  | 0xA => (withIn all).length ≤ 512 && (withOut all).length ≤ 512
  | 0xC => (withIn all).length ≤ 256 && distinct ((withOut all).map fun x => bits x.param 15 0) ≤ 64
  | _ => true

/-- The longest message of a personality in bytes, for a role and a station. -/
def msgMax (p role : Nat) (x : Station) : Nat :=
  match p with
  | 1 => if role = 1 then 16384 else 256
  | 2 => 1440
  | 3 => 1444
  | 4 => 1490
  | 6 => 244
  | 8 => 82
  | 9 | 0xB => 1785
  | 0xA => if bit x.param 31 then 64 else 8
  | _ => 1480

/-- Whether the stations of an instance carry no more than its network does: 16 KiB of process data each way in all for a Type 12 main device
(R387), else each message by itself. -/
def lensOk (p role : Nat) (l : List Station) : Bool :=
  (l.all fun x => x.inLen ≤ msgMax p role x && x.outLen ≤ msgMax p role x)
    && (p != 1 || ((l.map Station.inLen).sum ≤ 16384 && (l.map Station.outLen).sum ≤ 16384))

/-- Whether the protocol address of a station is one of its network; only a managing node polls nodes 1 to 239 (R393). -/
def addrOk (p role : Nat) (x : Station) : Bool :=
  match p with
  | 4 => role != 1 || (1 ≤ x.addr && x.addr ≤ 239)
  | 8 => x.addr < 2 ^ 24
  | 0xB => x.addr < 2 ^ 8
  | _ => true

/-- Whether a bus cycle is one of the personality's; 0 is an acyclic instance (R376, R387, R389, R393). -/
def InstRec.cycleOk (r : InstRec) : Bool :=
  r.cycle == 0 ||
  match r.pers, r.role with
  | 1, 1 => 62500 ≤ r.cycle && r.cycle ≤ 100000000
  | 2, _ => (if r.lock then 125000 else 250000) ≤ r.cycle && r.cycle ≤ 128000000
  | 4, _ => 200000 ≤ r.cycle && r.cycle ≤ 100000000
  | _, _ => true

/-- The speed of a line in baud that a personality runs (R395, R397, R401). -/
def speedOk (p baud : Nat) : Bool :=
  match p with
  | 5 => 1200 ≤ baud && baud ≤ 115200
  | 6 => 9600 ≤ baud && baud ≤ 12000000
  | 8 => baud == 4800 || baud == 38400
  | _ => true

/-- Requested packet intervals in microseconds (R391). -/
def intervalOk (p us : Nat) : Bool := p != 3 || (500 ≤ us && us ≤ 3200000)

/-- Counters behind INST_REFUSE_CNT in a counter block: the rows of the response table (R377, R388 to R410). -/
def persRows (p : Nat) : Nat := if p = 7 then 6 else if p = 8 then 5 else 4

/-- The offset of an address in partition 3. -/
def Dev.part3Off (s : Dev) (a : Nat) : Option Nat :=
  (findCyclic (fun k => (s.partBanks 3).getD k 256 == bankOf a) (s.partBanks 3).length (s.partBanks 3).length 0).map
    fun k => k * 0x80000 + a % 0x80000

/-- The end of the room below the reload region of partition 3 (R56): the ENGINE_FW copies and the kept records at its top. -/
def Dev.reloadBase (s : Dev) : Nat :=
  let size := (s.partBanks 3).length * 0x80000
  let fw := (s.boot.fw.map fun x => x.data.length).sum
  size - fw - 16 * s.boot.kept.length

/-- Whether a counter block lies in partition 3, outside the common blocks and the reload region (R377). -/
def Dev.blockOk (s : Dev) (r : InstRec) : Bool :=
  match s.part3Off r.cntBase with
  | some off => 0x1000 ≤ off && off + 4 * (1 + persRows r.pers) ≤ s.reloadBase
  | none => false

/-- The producer codes of a record's ports, and whether it is one for traverse mode. -/
def InstRec.ports (r : InstRec) : List Nat := [r.port0, r.port1].filter (· != 0xFF)
def InstRec.traverses (r : InstRec) : Bool := (persMedia r.pers r.role).contains .traverse

/-- Whether two records name one CAN controller, one Blade, or a traverse pair that one of them binds (R411), be they otherwise in order or not. -/
def InstRec.shares (a b : InstRec) : Bool :=
  (a.ports.any fun c => portIs .can c && b.ports.contains c)
    || (portIs .blade a.port0 && a.port0 == b.port0 && a.bladeList.any b.bladeList.contains)
    || ((a.traverses || b.traverses) && a.ports.any fun c => portIs .traverse c && b.ports.any fun d => portIs .traverse d && c / 2 == d / 2)

/-- Whether an earlier record than number `k` of a loaded personality names what record `r` names. -/
def Dev.taken (s : Dev) (k : Nat) (r : InstRec) : Bool := (s.pers.insts.take k).any fun q => s.persLoaded q.pers && q.shares r

/-- Whether record `k` keeps the limits that the bytes of R376, its stations and the image decide. -/
def Dev.recordOk (s : Dev) (k : Nat) (r : InstRec) : Bool :=
  let l := s.stationsOf r.pers r.inst
  (persRoles r.pers).contains r.role && r.inst < 16 && r.medium.isSome && r.eng < 8 && s.persIn r.pers r.rink && r.tb < 4 && r.cycleOk
    && (!r.lock || r.task < 16) && s.blockOk r && !s.taken k r
    && countOk r.pers r.role l && lensOk r.pers r.role l && l.all (addrOk r.pers r.role) && s.deviceOk r.pers

/-- Engines that an instance needs (R387, R389, R391, R399, R401, R409). The intervals of Type 2 are judged by CYCLE_NS. (DEDUCED: log entry 28.) -/
def Dev.enginesFor (s : Dev) (r : InstRec) : Nat :=
  let n := (s.stationsOf r.pers r.inst).length
  let per (k : Nat) : Nat := max 1 ((n + k - 1) / k)
  match r.pers with
  | 1 => if r.role = 1 ∧ 0 < r.cycle ∧ r.cycle < 250000 then 2 else 1
  | 2 => per 64
  | 3 => if 0 < r.cycle ∧ r.cycle < 1000000 then per 16 else per 64
  | 7 => if r.role = 2 then max 1 ((((s.stationsOf 7 r.inst).filter Station.isSv).length + 7) / 8) else 1
  | 8 => per 64
  | 0xC => max 1 ((distinct ((withOut (s.stationsOf r.pers r.inst)).map fun x => bits x.param 15 0) + 31) / 32)
  | _ => 1

/-- Whether another enabled instance has its pinned jobs on the engine of a record. -/
def Dev.engineShared (s : Dev) (k : Nat) (r : InstRec) : Bool :=
  s.pers.insts.zipIdx.any fun e => e.2 != k && e.1.en && s.persLoaded e.1.pers && e.1.rink == r.rink && e.1.eng == r.eng

/-- Whether a MAC runs at one of some speeds, or has no link yet (R374, R387). -/
def Dev.speedOf (s : Dev) (n : Nat) (l : List Nat) : Bool := !s.flag .MAC_STATUS_LINK n || l.contains (s.fld .MAC_STATUS_SPEED n)

/-- Whether a port has a gate list that closes the gate of a scheduled class at times, as the isochronous class needs (R389). -/
def Dev.isochronous (s : Dev) (n : Nat) : Bool :=
  s.flag .SWC_GCL_CFG_EN n && (List.range 8).any fun c => s.schedClass c && (s.gateSpan n c).isSome

/-- Whether the device is set as record `k` needs it: engines in service; one MAC at 100 Mb/s or 1 Gb/s for a Type 12 main device, an engine of its
own for a subdevice (R387); the unicast address, the gate lists and the scheduled class of the isochronous class (R389); the bit rate (kernel
clocks of 12.5 ns to a bit) and FD_EN of the CAN controllers (R403, R405, R407), the matrix that carries a locked SYNC (R405). -/
def Dev.settingsOk (s : Dev) (k : Nat) (r : InstRec) : Bool :=
  let cans := r.ports.map (· - 0x40)
  s.enginesFor r ≤ ((List.range 8).filter (s.engOnline r.rink)).length &&
  match r.pers with
  | 1 =>
    if r.role = 1 then r.port1 == 0xFF && s.speedOf r.port0 [1, 2]
    else !(s.pers.insts.zipIdx.any fun e => e.2 != k && e.1.en && e.1.pers == 1 && e.1.role == 2 && e.1.rink == r.rink && e.1.eng == r.eng)
  | 2 =>
    ((List.range 16).any fun e => s.flag .MAC_PM_CTL_EN r.port0 e && s.fld .MAC_PM_CTL_RINK r.port0 e == r.rink
        && !bit (s.fld .MAC_PM_CTL_ADDR_HI r.port0 e) 8)
      && (!(r.lock && 125000 ≤ r.cycle && r.cycle ≤ 4000000) || r.ports.all s.isochronous)
  | 9 => cans.all fun c => s.nomBit c == 320 && !s.flag .CAN_CFG_FD_EN c
  | 0xA =>
    (!(r.role == 1 && r.lock) || cans.all fun c => s.flag .CAN_MX_CFG_EN c)
      && ((cans.all fun c => s.flag .CAN_CFG_FD_EN c) || (s.stationsOf 0xA r.inst).all fun x => !bit x.param 31)
  | 0xB => cans.all fun c => s.nomBit c == 320 || s.nomBit c == 160
  | _ => true

/-- Whether a personality cannot meet a limit of record `k` (R376). A Type 3 line at 12 Mbit/s needs an engine without other pinned jobs (R397). -/
def Dev.unmet (s : Dev) (k : Nat) (r : InstRec) (l : Limit) : Bool :=
  match l with
  | .stated => !s.recordOk k r || !s.settingsOk k r
  | .speed b => !speedOk r.pers b || (r.pers == 6 && b == 12000000 && s.engineShared k r)
  | .interval u => !intervalOk r.pers u
  | .frames n => r.pers == 1 && r.role == 1 && 8 < n
  | .mappings n => r.pers == 1 && r.role == 2 && 8 < n
  | .ratio n => r.pers == 2 && !(1 ≤ n && n ≤ 512)
  | .submodules n => r.pers == 2 && r.role == 2 && 64 < n
  | .multiplex n => r.pers == 4 && !(1 ≤ n && n ≤ 63)
  | .samples a n => r.pers == 7 && !(1 ≤ a && a ≤ 8 && (n == 4800 || n == 14400))

/-- Whether the instance of record `k` runs: the record is enabled, its personality loaded, the limits kept as the device is set, and it has not been refused. -/
def Dev.recRuns (s : Dev) (k : Nat) (r : InstRec) : Bool :=
  r.en && s.persLoaded r.pers && s.recordOk k r && s.settingsOk k r && !s.pers.refused.contains (instKey r.pers r.inst)

/-- Whether the instance of a station runs. -/
def Dev.instRuns (s : Dev) (x : Station) : Bool := (s.instRec x.pers x.inst).any fun e => s.recRuns e.1 e.2

/-- On a DETACHED standby the pair's personalities, whose instances follow a task of TASKS, send nothing (R467). (DEDUCED: log entry 28.) -/
def Dev.detachedMute (s : Dev) (r : InstRec) : Bool :=
  s.fld .PAR_STATUS_STATE == parStandby && s.flag .PAR_STATUS_DETACHED && r.lock && bit (s.fld .PAR_COPY_CFG_TASKS) r.task

/-- Whether it also sends. -/
def Dev.instSends (s : Dev) (x : Station) : Bool :=
  s.instRuns x && !s.pers.silent.contains (instKey x.pers x.inst) && !s.txHeld
    && !((s.instRec x.pers x.inst).any fun e => s.detachedMute e.2)

end Sys2Proof.Machine
end

