-- ==== Sys2Proof/Machine/PersOps.lean ====
section
/-! DEFINITION. The personalities' part in moving frames and cyclic data (14_personalities). What a standard decides about a
frame reaches the operations as their verdict (DESIGN CHOICE, log entry 3). -/

namespace Sys2Proof.Machine

/-- The personality whose handler the dispatcher of rink `n` has for an EtherType (R378, R379, R387 to R409). -/
def etypePers : Nat → Option Nat
  | 0x88A4 => some 1
  | 0x8892 => some 2
  | 0x88AB => some 4
  | 0x88B8 => some 7
  | 0x88BA => some 7
  | 0xB62C => some 0xC
  | _ => none

/-- The rink in which the IPv4 service runs: the lowest-numbered one that holds a personality that uses it (R380). -/
def Dev.ipRink (s : Dev) : Option Nat := (List.range 8).find? fun n => [3, 5, 8, 0xC].any fun p => s.persIn p n

/-! ### Counters (R377) -/

/-- A counter that firmware keeps in shared memory goes up: it is read, and its write is still to come (R377). -/
def Dev.persCount (mid a : Nat) (s : Dev) : Dev :=
  let (r, s) := s.physRead mid a 4
  s.updPers fun x => { x with counts := x.counts ++ [(mid, a, min (leVal r.data + 1) (2 ^ 32 - 1))] }

/-- The writes of counters that were read and not yet written: with the next tick, or ahead of what firmware does next. -/
def Dev.countsOut (s : Dev) : Dev :=
  (s.updPers fun x => { x with counts := [] }).each s.pers.counts fun (m, a, v) s => s.physWrite m a (leBytes 4 v)

/-- A counter of the common blocks: word `w` of the block at an offset of partition 3 (R379, R381). -/
def Dev.commonCount (mid off w : Nat) (s : Dev) : Dev :=
  match s.partAddr 3 (off + 4 * w) with
  | some a => s.persCount mid a
  | none => s

/-! ### Responses to violations (R388 to R410) -/

/-- Whether a row of a personality's response table is one for a role: those that the table gives to one of them, those about cyclic data for
the role that receives them, and those about polls for the role that polls (R388 to R410). (DEDUCED: log entry 28.) -/
def rowRole (p role row : Nat) : Bool :=
  match p with
  | 1 => if role = 1 then row ≤ 2 else 2 < row
  | 3 => row != 4 || role == 2
  | 4 => role == 1 || row == 2
  | 5 => if row = 4 then role == 2 || role == 4 else if row = 2 then 3 ≤ role else role == 1 || role == 3
  | 6 => role == 1 || row == 1
  | 7 | 8 | 0xC => role == 2
  | _ => true

/-- The row of the response table that a station's loss comes under, where a row says so for the role (R384, R388 to R410). -/
def lossRow (r : InstRec) (x : Station) : Option Nat :=
  let row := match r.pers with
    | 1 => 2 | 2 => 3 | 3 => 2 | 4 => 1 | 5 => 3 | 6 => 2
    | 7 => if x.isSv then 5 else 3
    | 8 => 5 | 9 => 4 | 0xA => 2 | 0xB => 4 | _ => 4
  if rowRole r.pers r.role row then some row else none

/-- Whether a row counts each frame or poll that gets no answer, before the station is lost (R388, R394). -/
def missRow (p row : Nat) : Bool := (p == 1 && row == 2) || (p == 4 && row == 1)

/-- What a personality sends at a row of its response table. -/
def answerOf (p role : Nat) (v : Viol) : Option Answer :=
  match p, v.row with
  | 2, 3 => some .alarm
  | 3, 2 => some .close
  | 3, 3 => some .reset
  | 3, 4 => some .refusal
  | 5, 4 => some .exception
  | 6, 1 => if role = 1 then some .retry else none
  | 9, 1 => some .claim
  | 9, 3 => if v.cond then some .abort else none
  | 0xA, 2 => if role = 1 then some .errorControl else none
  | 0xA, 4 => some .sdoAbort
  | 0xB, 1 => some (if v.cond then .cannotClaim else .claim)
  | 0xB, 2 => some .abort
  | _, _ => none

/-- What an answer carries: exception response 0x01 for a function, 0x02 for an address that is not served (R396). -/
def answerArg (a : Answer) (v : Viol) : Nat := match a with
  | .exception => if v.cond then 2 else 1
  | _ => v.arg

/-- Rows at which the input is committed all the same: a gap of the sample counter (R400). -/
def commitRow (p row : Nat) : Bool := p == 7 && row == 4

/-- Rows that end an instance's sending: a second managing node (R394), and a lost address claim where no other address is allowed (R408). -/
def stopRow (p : Nat) (v : Viol) : Bool := (p == 4 && v.row == 4) || (p == 0xB && v.row == 1 && v.cond)

/-- An answer leaves, unless the device or the instance sends nothing (R46, R412). -/
def Dev.answer (r : InstRec) (a : Answer) (arg : Nat) (s : Dev) : Dev :=
  if s.txHeld || s.pers.silent.contains (instKey r.pers r.inst) then s
  else s.updPers fun x => { x with sent := some (.answer r.pers r.inst a arg) }

/-- What an answer changes in the device: the address that the instance claims, and the TCP connection of its port that ends (R391, R392). -/
def Dev.answered (k : Nat) (a : Answer) (arg : Nat) (s : Dev) : Dev :=
  match a with
  | .claim => s.updPers fun x => { x with claimed := x.claimed.set k (some arg) }
  | .reset => s.updPers fun x => { x with conns := if (x.conns[arg]?).any fun c => c.here == 44818 then x.conns.eraseIdx arg else x.conns }
  | _ => s

/-- The address of an instance: that of its record, until it has claimed another (R404, R408). -/
def Dev.ownAddr (s : Dev) (k : Nat) (r : InstRec) : Nat := (s.pers.claimed.get k).getD r.addr

/-- A violation of a partner of instance `k` is answered: its counter, the event log for the rows that name it (R394, R404), what the row sends,
and the end of the instance's sending. The CODE of the log record is open (DESIGN CHOICE, log entry 9). (DEDUCED: log entry 28.) -/
def Dev.violation (mid k : Nat) (r : InstRec) (v : Viol) (s : Dev) : Dev :=
  if v.row = 0 ∨ persRows r.pers < v.row then s
  else
    let s := s.persCount mid (r.cntBase + 4 * v.row)
    let s := if (r.pers = 4 ∧ v.row = 4) ∨ (r.pers = 9 ∧ v.row = 1) then
        let (c, s) := s.fresh
        s.logRecord mid c [r.inst]
      else s
    let s := match answerOf r.pers r.role v with
      | some a => (s.answer r a (answerArg a v)).answered k a v.arg
      | none => s
    if stopRow r.pers v then
      s.updPers fun x => { x with silent := instKey r.pers r.inst :: x.silent.erase (instKey r.pers r.inst) }
    else s

/-- A violation of a partner that the handler finds in what it has received: of a row that belongs to the role, and is no loss. -/
def Dev.received (mid k : Nat) (r : InstRec) (x : Station) (v : Viol) (s : Dev) : Dev :=
  if !rowRole r.pers r.role v.row || lossRow r x == some v.row then s else s.violation mid k r v

/-! ### Received frames (R378 to R381) -/

/-- The port whose held copy of a frame an engine's firmware handles: that of its own rink, or, for a job that it has stolen, of one whose dispatcher's
firmware its rink holds too (R97, R379). -/
def Dev.handles (s : Dev) (mid cell : Nat) : Option (Nat × Held) :=
  let n := mid / 8
  let same (m : Nat) : Bool := m == n || (s.boot.fw.any fun x => x.fwid == bits (s.reg .SWC_IJOB0 m) 27 24 && bit x.rinks n && bit x.rinks m)
  (n :: (List.range 8).filter (· != n)).findSome? fun m => if same m then (s.holds (28 + m) cell).map fun h => (28 + m, h) else none

/-- The receive dispatcher on engine `mid` branches on a frame delivered to it (R379), not on one whose perfect-match entry names its handler (R378); a
violation that the handler finds for the instance of a record is answered and the frame released. (DEDUCED: log entry 28.) -/
def Dev.dispatchFrame (mid cell : Nat) (viol : Option (Nat × Viol)) (s : Dev) : Dev :=
  let n := mid / 8
  let s := s.countsOut
  match s.handles mid cell with
  | none => s
  | some (port, h) =>
    if h.pm || h.pers.isSome then s
    else
      let (r, s) := s.physRead mid (cell + 16) 18
      let f : Frame := r.data
      let p : Option Nat :=
        match etypePers f.etype with
        | some p => if s.persIn p n then some p else none
        | none => if (f.etype == 0x0800 || f.etype == 0x0806) && s.ipRink == some n then some 0 else none
      match p with
      | none => (s.commonCount mid 0 0).freeCopy mid cell
      | some p =>
        let s := s.updHeld port cell fun h => { h with pers := some p }
        match viol with
        | none => s
        | some (k, v) =>
          match s.pers.insts[k]? with
          | some r => if r.pers = p ∧ s.recRuns k r then (s.received mid k r default v).freeCopy mid cell else s
          | none => s

/-- The sum of the 16-bit words of an IPv4 header, folded; 0xFFFF where its checksum is right. -/
def ipSum (l : List Byte) : Nat :=
  let t := (List.range (l.length / 2)).foldl (fun a i => a + beVal ((l.drop (2 * i)).take 2)) 0
  let t := t % 65536 + t / 65536
  t % 65536 + t / 65536

/-- The address of byte `i` of a stored frame in its cells (R240). -/
def Dev.cellByteAddr (s : Dev) (cell i : Nat) : Nat := (s.frame cell).cells.getD (i / 240) 0 + 16 + i % 240

/-- A job for an instance: pushed by software to its ENG in its RINK, with the FWID of its personality (R380, R385). `w0` gives the handler. -/
def Dev.instPush (r : InstRec) (w0 arg len station ts tb : Nat) (s : Dev) : Dev :=
  let w := putBits (putBit (putBits w0 20 18 r.eng) 16 true) 27 24 (s.persFwid r.pers)
  (s.push r.rink (jobWords w arg len 0xF0 station ts tb 0) none).2

/-- The personality that owns a UDP or TCP port which the manual fixes (R391, R395, R409), and the role that serves it. -/
def portOwner (tcp : Bool) (port : Nat) : Option Nat :=
  if port = 44818 then some 3
  else if tcp then (if port = 502 then some 5 else none)
  else if port = 2222 then some 3
  else if port = 4840 then some 0xC
  else none

/-- Roles that accept connections on a port: a Type 15 server (R395); of the others every role. -/
def servesPort (p role : Nat) : Bool := p != 5 || role == 2

/-- The instance that owns the destination port of a datagram or segment which arrived on MAC `n`: one of the personality that the port
belongs to; else the instance of record `conf`, whose own bytes give the port (R380). (DEDUCED: log entry 28.) -/
def Dev.ipOwner (s : Dev) (n : Nat) (tcp : Bool) (port : Nat) (conf : Option Nat) : Option InstRec :=
  let l := s.pers.insts.zipIdx.filter fun e => s.recRuns e.2 e.1 && e.1.usesMac n
  let o : Option (InstRec × Nat) := match portOwner tcp port with
    | some p => l.find? fun e => e.1.pers == p && servesPort p e.1.role
    | none => l.find? fun e => conf == some e.2 && [2, 3, 5, 8, 0xC].contains e.1.pers
  o.map (·.1)

/-- The TCP connections that a port accepts: 16 to each Type 15 server (R395); 128 in all are another limit (R380). -/
def Dev.portFull (s : Dev) (n port : Nat) : Bool := port == 502 && 16 ≤ (s.pers.conns.filter fun c => c.mac == n && c.here == 502).length

/-- What the IPv4 service sends itself leaves, unless the device sends nothing (R46). -/
def Dev.ipOut (m : PersTx) (s : Dev) : Dev := if s.txHeld then s else s.updPers fun x => { x with sent := some m }

/-- A datagram of the IPv4 service leaves port `n` for an address: to its holder or to the default gateway by the netmask; one that the ARP table does
not know is asked for instead (R380). (PRESUMED: log entry 28.) -/
def Dev.ipSend (n dst : Nat) (m : PersTx) (s : Dev) : Dev :=
  let mask := (Config.ipMask n).toNat
  let hop := if dst &&& mask = (Config.ipOf n).toNat &&& mask then dst else (Config.ipGateway n).toNat
  s.ipOut (if s.pers.arp.any fun e => e.1 == hop then m else .arpAsk n hop)

/-- The ARP table learns a sender, while it has room for a new one; a request for the port's own address is answered (R380). -/
def Dev.arpTake (n : Nat) (f : Frame) (at_ : Nat) (s : Dev) : Dev :=
  let mac := f.be (at_ + 8) 6
  let ip := f.be (at_ + 14) 4
  let known := s.pers.arp.any fun e => e.1 == ip
  let s := s.updPers fun x => { x with
    arp := if known then x.arp.map fun e => if e.1 = ip then (ip, mac) else e
      else if x.arp.length < 512 then x.arp ++ [(ip, mac)] else x.arp }
  s.when (f.be (at_ + 6) 2 == 1 && f.be (at_ + 24) 4 == (Config.ipOf n).toNat) (Dev.ipOut (.arp n ip))

/-- Whether a datagram that came in on port `n` is for it: sent to its address, as broadcast, or to one of the 64 groups (R380). -/
def ipFor (n dst : Nat) : Bool :=
  let own := Config.ipOf n
  dst == own.toNat || dst == 0xFFFFFFFF || dst == (own ||| ~~~Config.ipMask n).toNat || (Config.ipGroups.take 64).any fun g => dst == g.toNat

/-- Whether a frame belongs to the VLAN of the IPv4 service on its port (R380). -/
def FrameSt.ipVlan (x : FrameSt) : Bool :=
  match Config.ipVlan x.port with
  | none => true
  | some v => x.tagged && x.vid == v.toNat

/-- The handler of the frame is known: a personality takes it from the IPv4 service. -/
def Dev.ipGive (port cell : Nat) (o : InstRec) (w0 off len : Nat) (s : Dev) : Dev :=
  let x := s.frame cell
  (s.updHeld port cell fun h => { h with pers := some o.pers }).instPush o w0 (s.cellByteAddr cell off) len 0 x.ts x.tb

/-- A TCP segment for the owner of its port: a connection request is accepted, or answered with RST where no connection is left; the answer to an own
request opens a connection; the rest goes to the owner, and FIN or RST ends the connection (R380, R381). (DEDUCED: log entry 28.) -/
def Dev.tcpTake (mid port cell w0 : Nat) (o : InstRec) (f : Frame) (h ihl total : Nat) (s : Dev) : Dev :=
  let n := (s.frame cell).port
  let src := f.be (h + 12) 4
  let dst := f.be (h + 16) 4
  let p := h + ihl
  let sp := f.be p 2
  let dp := f.be (p + 2) 2
  let fl := f.be (p + 13) 1
  let key : Conn := ⟨n, src, sp, dp⟩
  let q := f.be (p + 12) 1 / 16 * 4
  let fresh := bit fl 1 && !s.pers.conns.contains key
  let room := decide (s.pers.conns.length < 128)
  let rst (s : Dev) : Dev := s.ipSend n src (.rst dst src dp sp)
  let opened (s : Dev) : Dev := s.updPers fun x => { x with conns := x.conns ++ [key] }
  if fresh && !bit fl 4 then
    if !room then rst ((s.commonCount mid 64 4).freeCopy mid cell)
    else if s.portFull n dp then rst (s.freeCopy mid cell)
    else ((opened s).ipSend n src (.synAck dst src dp sp)).freeCopy mid cell
  else
    let s := s.when (fresh && room) opened
    let s := s.when (bit fl 0 || bit fl 2) fun s => s.updPers fun x => { x with conns := x.conns.erase key }
    s.ipGive port cell o w0 (p + q) (total - ihl - q)

/-- The IPv4 service on engine `mid` takes an ARP message or checks the datagram of a frame that the dispatcher or a perfect-match entry has given it
(R378, R380, R381). `w0`: the first word of the handler's job; `conf`: the record whose own bytes give the port, where the manual fixes none.
(DEDUCED: log entry 28.) -/
def Dev.ipDatagram (mid cell w0 : Nat) (conf : Option Nat) (s : Dev) : Dev :=
  let s := s.countsOut
  match s.handles mid cell with
  | none => s
  | some (port, held) =>
    if s.ipRink != some (mid / 8) || !(held.pers == some 0 || (held.pm && held.pers.isNone)) then s
    else
      let x := s.frame cell
      let (r, s) := Dev.readCellsBy mid x.cells x.flen s
      let f : Frame := r.data
      let h := f.typeAt + 2
      let drop (w : Nat) (s : Dev) : Dev := (s.commonCount mid 64 w).freeCopy mid cell
      let ihl := f.be h 1 % 16 * 4
      let total := f.be (h + 2) 2
      let frag := f.be (h + 6) 2
      let proto := f.be (h + 9) 1
      let src := f.be (h + 12) 4
      let dst := f.be (h + 16) 4
      let p := h + ihl
      let own := dst == (Config.ipOf x.port).toNat
      if (f.etype ≠ 0x0800 ∧ f.etype ≠ 0x0806) ∨ !x.ipVlan then s.freeCopy mid cell
      else if f.etype = 0x0806 then (s.arpTake x.port f h).freeCopy mid cell
      else if ipSum ((f.drop h).take ihl) ≠ 0xFFFF ∨ f.length < h + total then drop 0 s
      else if !ipFor x.port dst then s.freeCopy mid cell
      else if 20 < ihl ∨ bits frag 13 0 ≠ 0 then drop 1 s
      else if proto = 1 then
        (s.when (own && f.be p 1 == 8) (Dev.ipSend x.port src (.echo ((f.drop h).take total)))).freeCopy mid cell
      else if proto = 17 then
        match s.ipOwner x.port false (f.be (p + 2) 2) conf with
        | none => drop 2 s
        | some o => s.ipGive port cell o w0 (p + 8) (total - ihl - 8)
      else if proto = 6 ∧ own then
        match s.ipOwner x.port true (f.be (p + 2) 2) conf with
        | none => (drop 3 s).ipSend x.port src (.rst dst src (f.be (p + 2) 2) (f.be p 2))
        | some o => s.tcpTake mid port cell w0 o f h ihl total
      else s.freeCopy mid cell

/-! ### Station inputs (R382 to R385) -/

/-- Stations that take their outputs from a station's input slot and are notified of its commits (R385). -/
def Dev.gatewaysOf (s : Dev) (i : Nat) : List Nat :=
  (s.pers.stations.filter fun e => e.2.gateway && e.2.notify && e.2.src == i).map (·.1)

/-- The partner of a station. -/
def Dev.partner (s : Dev) (i : Nat) : Partner := s.pers.partners.get i
def Dev.updPartner (i : Nat) (f : Partner → Partner) (s : Dev) : Dev := s.updPers fun x => { x with partners := x.partners.upd i f }

/-- The signed nanoseconds of a time base, extended as firmware extends them (R281), and the device that keeps them. -/
def Dev.extNow (rink tb : Nat) (s : Dev) : Int × Dev :=
  let ns := tbNs (s.copyVal rink tb)
  let v := s.pers.ext.get tb + signed 32 (sub32 ns (s.pers.extLast.get tb))
  (v, s.updPers fun x => { x with ext := x.ext.set tb v, extLast := x.extLast.set tb ns })

/-- The data and the capture timestamp of an input: data bytes, stamp in 2^-8 ns, time base. -/
structure Captured where
  data : List Byte
  ts : Nat
  tb : Nat
deriving DecidableEq, Repr, Inhabited

/-- Whether a frame that a port holds is one for a station of a personality: given to its handler by the dispatcher or the IPv4 service, or by a
perfect-match entry, of the EtherType that its stations have; a GOOSE message or stream of the station's APPID (R378, R379, R387 to R409).
(DEDUCED: log entry 28.) -/
def frameFor (h : Held) (x : Station) (f : Frame) : Bool :=
  (h.pers == some x.pers || (h.pm && h.pers.isNone && etypePers f.etype == some x.pers))
    && (x.pers != 7 || ((f.etype == 0x88BA) == x.isSv && f.be (f.typeAt + 2) 2 == bits x.param 15 0))

/-- The bytes of one message from those of its frames on a CAN bus: a frame alone carries it whole; of a fast-packet message the first frame has two
and the others one byte ahead of their data, and a transport protocol frame has one (PRESUMED from ISO 11783-3: log entry 28). -/
def canJoin (p : Nat) (l : List (List Byte)) : List Byte :=
  match l with
  | [d] => d
  | d :: t => (d.drop (if p = 9 ∧ (d :: t).length ≤ 32 then 2 else 1)) ++ t.flatMap (List.drop 1)
  | [] => []

/-- An entry of a receive ring that firmware may read: written and not yet passed by RD (R343, R344). -/
def Dev.ringHas (s : Dev) (n k : Nat) : Bool :=
  let size := s.fld .CAN_RING_CFG_SIZE_M1 n + 1
  let rd := s.fld .CAN_RING_RD_INDEX n
  k < size && (k + size - rd) % size < (s.fld .CAN_RING_WR_INDEX n + size - rd) % size

/-- Whether the identifier of a received CAN frame is one for a station: the COB-ID of a PDO, the source address of a SAE J1939 group (R405, R407). -/
def canFor (x : Station) (w1 id : Nat) : Bool :=
  !bit w1 10 && (if x.pers = 0xA then (if bit w1 11 then id else id / 2 ^ 18) == x.addr else if x.pers = 0xB then bits id 7 0 == bits x.addr 7 0 else true)

/-- Entries of a receive ring are read by an engine: their data, and the words 0 and 1 of the last (R343). -/
def Dev.ringRead (mid n : Nat) (x : Station) : List Nat → Dev → Option (List (List Byte) × Nat × Nat) × Dev
  | [], s => (some ([], 0, 0), s)
  | k :: t, s =>
    let a := s.reg64 .CAN_RING_BASE_LOW .CAN_RING_BASE_HIGH n + 80 * k
    if !s.ringHas n k || s.bankWaits a 80 then (none, s)
    else
      let (r, s) := s.physRead mid a 80
      let w (i : Nat) : Nat := leVal ((r.data.drop (4 * i)).take 4)
      if r.ue || !canFor x (w 1) (w 2) then (none, s)
      else match Dev.ringRead mid n x t s with
        | (some (l, w0, w1), s) =>
          (some (((r.data.drop 16).take (bits (w 3) 6 0)) :: l, if t = [] then w 0 else w0, if t = [] then w 1 else w1), s)
        | (none, s) => (none, s)

/-- What a personality on engine `mid` takes as the input of station `i`, by the one route on which the data of its instance come: from a frame that no
input of the station has been taken from, from the ring of a traverse port with the stamp in the job descriptor, from entries of the receive ring,
or from a Blade with the rink's copy of the instance's time base (R39, R378, R383). None where nothing has come that way. (DEDUCED: log entry 28.) -/
def Dev.captureOf (mid i : Nat) (r : InstRec) (x : Station) (src : PersSrc) (len : Nat) (s : Dev) : Option Captured × Dev :=
  match r.medium, src with
  | some .mac, .frame cell off =>
    match s.handles mid cell with
    | none => (none, s)
    | some (port, h) =>
      let y := s.frame cell
      if h.served.contains i || y.cells.any fun a => s.bankWaits a 256 then (none, s)
      else
        let (m, s) := Dev.readCellsBy mid y.cells y.flen s
        if m.ue || !frameFor h x m.data || !r.usesMac y.port || y.flen < off + len then (none, s)
        else (some ⟨(m.data.drop off).take len, y.ts, y.tb⟩, s.updHeld port cell fun h => { h with served := h.served ++ [i] })
  | some .traverse, .traverse c off =>
    let k := mid * 4 + c % 4
    let w (i : Nat) : Nat := ((s.ctx k).rd (24 + i)).toNat
    let n := bits (w 2) 31 24
    if !(s.ctx k).hasJob || !r.ports.contains n then (none, s)
    else
      let base := dmemBase (mid / 8) (mid % 8) + w 1 / 0x800 * 0x800
      (some ⟨(List.range len).flatMap fun j => s.bytes (base + (w 1 + off + j) % 0x800) 1, w 3 * 256 + bits (w 4) 7 0, bits (w 4) 9 8⟩, s)
  | some .can, .can n entries =>
    if !r.ports.contains (0x40 + n) || entries = [] then (none, s)
    else match s.ringRead mid n x entries with
      | (some (l, w0, w1), s) => (some ⟨(canJoin x.pers l).take len, w0 * 256 + bits w1 7 0, bits w1 9 8⟩, s)
      | (none, s) => (none, s)
  | some .blade, .blade raw off =>
    (some ⟨(raw.drop off).take len, tb40 (s.copyVal (mid / 8) r.tb), r.tb⟩, s)
  | _, _ => (none, s)

/-- The value of a hexadecimal digit. -/
def hexDigit (b : Byte) : Nat :=
  let c := b.toNat
  if 0x30 ≤ c ∧ c ≤ 0x39 then c - 0x30 else if 0x41 ≤ c ∧ c ≤ 0x46 then c - 0x37 else if 0x61 ≤ c ∧ c ≤ 0x66 then c - 0x57 else 16

/-- The characters of a sentence between its first and its `*`, and those behind it. -/
def sentenceParts (l : List Byte) : List Byte × List Byte :=
  ((l.drop 1).takeWhile (· != 0x2A#8), ((l.drop 1).dropWhile (· != 0x2A#8)).drop 1)

/-- Whether a sentence has a checksum that is wrong: two hexadecimal digits behind `*`, against the exclusive or of the characters before it. -/
def sentenceSumBad (l : List Byte) : Bool :=
  let (body, t) := sentenceParts l
  match t with
  | a :: b :: _ => 16 * hexDigit a + hexDigit b != (body.foldl (· ^^^ ·) 0#8).toNat
  | [_] => true
  | [] => false

/-- The sentence in a run of characters: from the first $ or ! on; what stands before it is discarded (R402). -/
def sentenceOf (l : List Byte) : List Byte := l.dropWhile fun b => b != 0x24#8 && b != 0x21#8

/-- The CRC of an RTU frame over all its bytes, 0 where its own is right (R395, R396; PRESUMED from the Modbus serial line protocol: log entry 28). -/
def rtuCrc (l : List Byte) : Nat :=
  l.foldl (fun c b => (List.range 8).foldl (fun c _ => if c % 2 = 1 then Nat.xor (c / 2) 0xA001 else c / 2) (Nat.xor c b.toNat)) 0xFFFF

/-- The row of the response table that the data of an input break by themselves: an RTU frame with a wrong CRC (R396); a sentence above 82 characters
or without CR LF, or with a wrong checksum (R402); a fast-packet message above 223 bytes or out of sequence (R404); a PDO shorter than its
mapping (R406); a parameter group shorter than the 8 bytes it needs (R408). -/
def dataRow (x : Station) (src : PersSrc) (data : List Byte) : Option Nat :=
  match x.pers with
  | 5 => match src with
    | .blade raw _ => if raw ≠ [] ∧ rtuCrc raw ≠ 0 then some 2 else none
    | _ => none
  | 8 =>
    if 82 < data.length ∨ (data.drop (data.length - 2)) ≠ [0x0D#8, 0x0A#8] then some 2 else if sentenceSumBad data then some 1 else none
  | 0xA => if data.length < x.inLen then some 1 else none
  | 0xB => if x.inLen = 8 ∧ data.length < 8 then some 3 else none
  | _ => none

/-- Whether a counter of `w` bits has advanced from `a` to `b`. -/
def advanced (w a b : Nat) : Bool := 0 < (b + 2 ^ w - a) % 2 ^ w && (b + 2 ^ w - a) % 2 ^ w < 2 ^ (w - 1)

/-- The row that the message's counter or configuration breaks against what the partner sent last (R388, R390, R392, R400, R402, R410). Widths and
wraps of the counters are those of their standards. (PRESUMED: log entry 28.) -/
def Dev.infoRow (s : Dev) (i : Nat) (r : InstRec) (x : Station) (m : MsgInfo) : Option Nat :=
  let last := (s.partner i).seq
  let new (ok : Nat × Nat → Bool) : Bool := match last with
    | some q => ok q
    | none => true
  match x.pers with
  | 1 => if r.role = 1 ∧ m.seq.1 ≠ Config.expectWkc i then some 1 else none
  | 2 => if new fun q => advanced 16 q.1 m.seq.1 then none else some 1
  | 3 => if new fun q => advanced 16 q.1 m.seq.1 then none else some 1
  | 7 =>
    if x.isSv then (if new fun q => m.seq.1 == q.1 + 1 || m.seq.1 == 0 then none else some 4)
    else if m.conf ≠ (Config.confRev i, bits x.param 31 16) then some 1
    else if new fun q => q.1 < m.seq.1 || (m.seq.1 == q.1 && q.2 < m.seq.2) then none else some 2
  | 8 => if new fun q => m.seq.1 == 0 || m.seq.1 != q.1 then none else some 4
  | 0xC => if m.conf.1 ≠ Config.confRev i then some 3 else if new fun q => advanced 16 q.1 m.seq.1 then none else some 2
  | _ => none

/-- A station's input is written into the back copy of its slot and committed, and the gateway stations that it feeds are notified: `jobs`
are the first words of their handlers' jobs, in station order (R383, R385). -/
def Dev.inputCommit (mid i : Nat) (x : Station) (c : Captured) (jobs : List Nat) (s : Dev) : Dev :=
  let n := 2 * i
  if !s.slotValid n then s
  else
    let a := s.copyAddr n (s.fld .CTL_SLOT_B n)
    let l := c.data.take x.inLen
    let s := (s.physWrite mid a (slotBytes c.ts c.tb l)).slotCommit n
    s.each (s.gatewaysOf i).zipIdx fun (g, k) s =>
      let y := s.pers.stations.get g
      match s.instRec y.pers y.inst with
      | some (_, r) =>
        (s.updPartner g fun p => { p with notified := true }).instPush r (jobs.getD k (Config.notifyWord g)) a l.length g c.ts c.tb
      | none => s

/-- A valid input has come from a station's partner: it is no longer lost, and what it has sent is known (R384). -/
def Dev.heardFrom (mid i tb : Nat) (m : MsgInfo) (s : Dev) : Dev :=
  let (now, s) := s.extNow (mid / 8) tb
  s.updPartner i fun p => { p with heard := now, seq := some m.seq, ttl := m.ttl, misses := 0, lost := false }

/-- A personality on engine `mid` takes a station's input, or answers a violation: one that the data show, one against what the partner sent last, else
the one that the handler finds (R383, R385, R388 to R410). A message longer than its network carries is none. (DEDUCED: log entry 28.) -/
def Dev.stationInput (mid i len : Nat) (src : PersSrc) (m : MsgInfo) (viol : Option Viol) (jobs : List Nat) (s : Dev) : Dev :=
  let s := s.countsOut
  let x := s.pers.stations.get i
  match s.instRec x.pers x.inst with
  | none => s
  | some (k, r) =>
    if !s.instRuns x || !s.persIn x.pers (mid / 8) then s
    else match s.captureOf mid i r x src len with
    | (none, s) => s
    | (some c, s) =>
      let c := if x.pers = 8 then { c with data := sentenceOf c.data } else c
      let row := (dataRow x src c.data).or (s.infoRow i r x m)
      let viol := match row with
        | some row => some ⟨row, false, 0⟩
        | none => viol
      let take (s : Dev) : Dev := (s.heardFrom mid i r.tb m).inputCommit mid i x c jobs
      match viol with
      | some v =>
        let s := s.received mid k r x v
        if commitRow r.pers v.row then take s else s
      | none => if msgMax r.pers r.role x < c.data.length then s else take s

/-- The stations that a loss report concerns: with a missing heartbeat all of the node (R406). -/
def Dev.lostStations (s : Dev) (i : Nat) (x : Station) : List Nat :=
  if x.pers = 0xA then
    (s.pers.stations.filter fun e => e.2.pers == x.pers && e.2.inst == x.inst && cobNode e.2.addr == cobNode x.addr).map (·.1)
  else [i]

/-- Nanoseconds without valid input after which a station is lost: LOSS_US, else the personality's default, where that is a time (R384, R388 to R410):
3 cycles, 3 send clocks by the reduction ratio, timeAllowedToLive or 3 sample intervals, 3 s, or the station's own timeout. An acyclic instance has no
cycles to miss. -/
def Dev.lossAfter (s : Dev) (i : Nat) (r : InstRec) (x : Station) : Option Nat :=
  if x.lossUs ≠ 0 then some (x.lossUs * 1000)
  else match x.pers with
  | 1 => if r.cycle = 0 then none else some (3 * r.cycle)
  | 2 => if r.cycle = 0 then none else some (3 * r.cycle * Config.reduction i)
  | 4 | 5 | 6 => none
  | 7 => some (if x.isSv then 3 * 1000000000 / max 1 (Config.sampleRate i) else (s.partner i).ttl)
  | 8 => some 3000000000
  | _ => some (Config.lossTime i)

/-- Polls without an answer after which a station is lost: 3 where no LOSS_US is set (R394, R396), the retry limit (R398). -/
def missLimit (i : Nat) (x : Station) : Option Nat :=
  match x.pers with
  | 4 | 5 => if x.lossUs = 0 then some 3 else none
  | 6 => some (Config.retryLimit i)
  | _ => none

/-- Whether a station is lost now: by its network's own criterion, or as nothing valid has come from it for its loss time (R384). -/
def Dev.lossDue (s : Dev) (i : Nat) (r : InstRec) (x : Station) (now : Int) : Bool :=
  let p := s.partner i
  (match missLimit i x with
    | some n => n ≤ p.misses
    | none => false)
  || (match s.lossAfter i r x with
    | some t => p.heard + t ≤ now
    | none => false)

/-- A personality looks at a station's loss criterion: with `v.cond` a poll or frame has gone without its answer in the cycle, which the rows that say so
count; once the station is lost the loss is reported, counted in its row, and answered as the table says (R384, R388 to R410). (DEDUCED: log
entry 28.) -/
def Dev.stationLoss (mid i : Nat) (v : Viol) (s : Dev) : Dev :=
  let s := s.countsOut
  let x := s.pers.stations.get i
  match s.instRec x.pers x.inst with
  | none => s
  | some (k, r) =>
    if !s.instRuns x || !s.persIn x.pers (mid / 8) then s
    else
      let (now, s) := s.extNow (mid / 8) r.tb
      let row := (lossRow r x).getD 0
      let s := s.when v.cond fun s =>
        (s.updPartner i fun p => { p with misses := p.misses + 1 }).when (missRow x.pers row) (Dev.violation mid k r ⟨row, false, v.arg⟩)
      if (s.partner i).lost || !s.lossDue i r x now then s
      else
        let s := (s.updPartner i fun p => { p with lost := true }).when (!missRow x.pers row) (Dev.violation mid k r ⟨row, false, v.arg⟩)
        s.each (s.lostStations i x) fun j s => if s.slotValid (2 * j) then s.lossReport j else s

/-! ### Transmission (R385, R386, R399, R401) -/

/-- The first `n` bytes of a slot copy, filled up with zeros beyond the `len` bytes that the slot has (R385). -/
def Dev.slotData (mid slot c len n : Nat) (s : Dev) : List Byte × Dev :=
  let (r, s) := s.physRead mid (s.copyAddr slot c + 16) (min n len)
  (Frame.padTo r.data n, s)

/-- What a gateway station does for a quality of its source: `none` nothing is sent, `some true` the SAFE values (R386). -/
def gatewaySends (pers qual : Nat) : Option Bool :=
  if pers = 8 then if qual = 0 ∨ qual = 3 then some false else none
  else if qual = 2 ∧ [1, 4, 5, 6, 0xA].contains pers then some true
  else some false

/-- The tag block of a sentence that instance `k` sends on Ethernet: the talker, the seconds of the instance's time base with the record's origin,
and the next line count (R401). The count goes from 1 to 999. (PRESUMED: log entry 28.) -/
def Dev.tagBlock (mid k : Nat) (r : InstRec) (x : Station) (s : Dev) : TagBlock × Dev :=
  let (e, s) := s.extNow (mid / 8) r.tb
  let n := s.pers.lines.get k % 999 + 1
  (⟨x.param, Config.recOrigin r.own + e / 1000000000, n⟩, s.updPers fun y => { y with lines := y.lines.set k n })

/-- How the quality of the source is expressed on a personality's network (R386); a station's own outputs go as good. -/
def expressOf (pers qual : Nat) : Express :=
  match pers, qual with
  | 2, q => .provider (q != 2)
  | 3, q => .header (q != 2)
  | 7, 0 => .validGood
  | 7, 1 => .questionableOld
  | 7, 2 => .invalid
  | 7, _ => .substituted
  | 0xC, 1 => .statusUncertain
  | 0xC, 2 => .statusBad
  | 0xC, _ => .statusGood
  | _, _ => .plain

/-- What a station sends at a transmit instant, and the quality it expresses: a gateway station the version of its source that was committed last, the
SAFE values or all ones by the source's quality (R385, R386); any other the version of its output slot that CTL committed last (R41, R383), in Hold
the SAFE values (R412, R430). None where the station sends nothing, or its slot has none. -/
def Dev.outputOf (mid i : Nat) (x : Station) (s : Dev) : Option (List Byte × Express) × Dev :=
  let slot := if x.gateway then 2 * x.src else 2 * i + 1
  if !s.slotValid slot || s.bankWaits (s.copyAddr slot (s.fld .CTL_SLOT_LAST slot)) (16 + x.outLen) then (none, s)
  else if !x.gateway then
    let (d, s) := s.slotData mid slot (s.fld .CTL_SLOT_LAST slot) x.outLen x.outLen
    (some (d, expressOf x.pers 0), s)
  else
    let q := s.fld .CTL_SLOT_QUAL slot
    match gatewaySends x.pers q with
    | none => (none, s)
    | some safe =>
      let (d, s) := if safe then (if s.slotValid (2 * i + 1) then s.slotData mid (2 * i + 1) 3 x.outLen x.outLen else (leBytes x.outLen 0, s))
        else s.slotData mid slot (s.fld .CTL_SLOT_LAST slot) (s.pers.stations.get x.src).inLen x.outLen
      (some (if q = 2 ∧ (x.pers = 9 ∨ x.pers = 0xB) then List.replicate x.outLen 255#8 else d, expressOf x.pers q), s)

/-- Whether it is a transmit instant of a station: a version of its source waits to be sent (R385); or, with LOCK, its task's cycle has begun anew, else
its bus cycle has passed since the last one, or the instance is acyclic (R376); a Type 3 slave that is lost is polled at the diagnostic interval (R398).
(DEDUCED: log entry 28.) -/
def Dev.txDue (s : Dev) (i : Nat) (r : InstRec) (x : Station) (now : Int) : Bool :=
  let p := s.partner i
  let cycle := if x.pers = 6 ∧ p.lost then max r.cycle (Config.diagTime i) else r.cycle
  p.notified ||
  (if r.lock then s.flag .CTL_TASK_CFG_EN r.task && p.mark != some (s.reg .CTL_TASK_T0 r.task : Int)
  else match p.mark with
    | some t => t + cycle ≤ now
    | none => true)

/-- The transmit instant is past. -/
def Dev.txMark (i : Nat) (r : InstRec) (now : Int) (s : Dev) : Dev :=
  let at_ : Int := if r.lock then s.reg .CTL_TASK_T0 r.task else now
  s.updPartner i fun p => { p with notified := false, mark := if p.notified && p.mark.isSome then p.mark else some at_ }

/-- Whether an instance claims an address before it sends (R403, R407) and has not yet. -/
def Dev.claims (s : Dev) (k : Nat) (r : InstRec) : Bool := (r.pers == 9 || r.pers == 0xB) && (s.pers.claimed.get k).isNone

/-- The instance claims its record's address. -/
def Dev.claim (k : Nat) (r : InstRec) (s : Dev) : Dev :=
  s.updPers fun y => { y with claimed := y.claimed.set k (some r.addr), sent := some (.answer r.pers r.inst .claim r.addr) }

/-- The next number of a GOOSE counter: 1 follows 2^32 − 1 (IEC 61850-8-1; PRESUMED, log entry 19). -/
def gooseNext (n : Nat) : Nat := if n + 1 = 2 ^ 32 then 1 else n + 1

/-- Whether the instance of a station sends as publisher (R399). -/
def Dev.publishes (s : Dev) (x : Station) : Bool := s.instSends x && (s.instRec x.pers x.inst).any fun e => e.2.role == 1

/-- NS of the time base of a station's instance. -/
def Dev.pubNow (s : Dev) (x : Station) : Nat := tbNs (s.tbVal (((s.instRec x.pers x.inst).map fun e => e.2.tb).getD 0))

/-- Nanoseconds from a retransmission to the next: those at 1, 2, 4 and 8 ms after the change, then every second (R399). -/
def retransmitGap (step : Nat) : Nat := [1000000, 2000000, 4000000].getD step 1000000000

/-- Whether an instance is one of the pair's: it follows a task of TASKS (R463, R467; DEDUCED: log entry 28). -/
def Dev.pairInst (s : Dev) (r : InstRec) : Bool := s.boot.target == 3 && r.lock && bit (s.fld .PAR_COPY_CFG_TASKS) r.task

/-- The first personality to act after the doorbell of a take-over writes the sequence numbers that the active unit goes on from (R463). -/
def Dev.takeOverSeq (s : Dev) : Dev :=
  if !s.par.took then s
  else (s.updPar fun x => { x with took := false }).each (List.range 4) fun r s =>
    s.when (s.flag .PAR_SEQREC_VALID r) fun s => s.setFld .SWC_RED_SEQ_SEQ ((s.par.seqBase.get r + s.par.seqUsed.get r) % 65536) r

/-- A personality sends for an instance: on Ethernet, as one of the pair's, from the pair's address, and on a standby, through an IEC 62439-3 instance, with
the number that the active unit gives the frame (R267, R463). -/
def Dev.persSend (r : InstRec) (t : PersTx) (s : Dev) : Dev :=
  let s := s.updPers fun y => { y with sent := some t, sentAs := none }
  if !s.pairInst r || r.medium != some .mac then s
  else
    let source := s.reg64 .PAR_PAIR_MAC_LOW .PAR_PAIR_MAC_HIGH
    match r.ports.findSome? s.redOf with
    | some q =>
      if s.fld .PAR_STATUS_STATE == parStandby && s.flag .PAR_SEQREC_VALID q then
        let n := (s.par.seqBase.get q + s.par.seqUsed.get q) % 65536
        (s.updPar fun x => { x with seqUsed := x.seqUsed.set q (x.seqUsed.get q + 1) }).updPers fun y => { y with sentAs := some ⟨source, some n⟩ }
      else s.updPers fun y => { y with sentAs := some ⟨source, none⟩ }
    | none => s.updPers fun y => { y with sentAs := some ⟨source, none⟩ }

/-- A GOOSE publication is scanned: where its data have changed, or the quality of its source, it is published at once (R385, R399). (PRESUMED: log
entry 19.) -/
def Dev.goosePublish (mid i : Nat) (s : Dev) : Dev :=
  let s := s.countsOut
  let x := s.pers.stations.get i
  if x.pers ≠ 7 ∨ x.isSv ∨ !s.publishes x then s
  else match s.outputOf mid i x with
  | (none, s) => s
  | (some (d, q), s) =>
    let p := s.pers.pubs.get i
    if d = Frame.padTo p.last x.outLen ∧ (q = p.quality ∨ p.stNum = 0) then s
    else
      let st := gooseNext p.stNum
      let s := s.updPers fun y => { y with pubs := y.pubs.set i ⟨d, q, st, 0, 0, (s.pubNow x + 1000000) % 2 ^ 32⟩ }
      match s.instRec x.pers x.inst with
      | some (_, r) => s.persSend r (.goose i st 0 d q)
      | none => s

/-- A publication is retransmitted: 1, 2, 4 and 8 ms after the change, then every second (R399). (PRESUMED: log entry 19.) -/
def Dev.gooseRetransmit (i : Nat) (s : Dev) : Dev :=
  let x := s.pers.stations.get i
  let p := s.pers.pubs.get i
  if x.pers ≠ 7 ∨ x.isSv ∨ !s.publishes x ∨ p.stNum = 0 ∨ !reached p.due (s.pubNow x) then s
  else
    let sq := gooseNext p.sqNum
    let s := s.updPers fun y =>
      { y with pubs := y.pubs.set i { p with sqNum := sq, step := min 4 (p.step + 1), due := (p.due + retransmitGap p.step) % 2 ^ 32 } }
    match s.instRec x.pers x.inst with
    | some (_, r) => s.persSend r (.goose i p.stNum sq p.last p.quality)
    | none => s

/-- A station transmits, a gateway station or another, at its transmit instant or for a notify job (R383, R385, R386, R401, R412); an instance that has to
claim an address claims it first (R403, R407); GOOSE messages go by their scan (R399). (DEDUCED: log entry 28.) -/
def Dev.stationTransmit (mid i : Nat) (s : Dev) : Dev :=
  let s := s.countsOut.takeOverSeq
  let x := s.pers.stations.get i
  match s.instRec x.pers x.inst with
  | none => s
  | some (k, r) =>
    if !s.instSends x || !s.persIn x.pers (mid / 8) then s
    else if s.claims k r then s.claim k r
    else if x.pers = 7 ∧ !x.isSv then s.goosePublish mid i
    else
      let (now, s) := s.extNow (mid / 8) r.tb
      if !s.txDue i r x now then s
      else
        let (o, s) := (s.txMark i r now).outputOf mid i x
        match o with
        | none => s
        | some (d, q) =>
          if x.pers = 8 ∧ r.medium = some .mac then
            let (t, s) := s.tagBlock mid k r x
            s.persSend r (.udpbc i x.dest t d)
          else s.persSend r (.data i (s.ownAddr k r) x.dest d q)

/-! ### Instance records (R376, R377) -/

/-- A personality on engine `mid` reads record `k` (R376): one of a personality that the image does not load is ignored, and the first personality
counts it once; one with a limit that it cannot meet is refused: logged, counted where its counter block is legal, and not run. -/
def Dev.instanceRefuse (mid k : Nat) (l : Limit) (s : Dev) : Dev :=
  let s := s.countsOut
  match s.pers.insts[k]? with
  | none => s
  | some r =>
    if !s.persLoaded r.pers then
      if s.firstPersIn (mid / 8) && !s.pers.skipped.contains k then
        (s.commonCount mid 0 1).updPers fun x => { x with skipped := k :: x.skipped }
      else s
    else if !s.persIn r.pers (mid / 8) || s.pers.refused.contains (instKey r.pers r.inst) || !s.unmet k r l then s
    else
      let (c, s) := s.fresh
      let s := s.logRecord mid c [r.inst]
      let s := s.updPers fun x => { x with refused := instKey r.pers r.inst :: x.refused }
      if s.blockOk r then s.persCount mid r.cntBase else s

end Sys2Proof.Machine
end

