-- ==== Sys2Proof/Machine/RxOps.lean ====
section
/-! DEFINITION. Reception of a frame on a MAC (R211 to R217, R229, R230): checks, MACsec, and who takes it. -/

namespace Sys2Proof.Machine

/-- The whole PN of a received frame: with extended numbers the upper half is that of the highest accepted, or one more where the lower half has
wrapped (PRESUMED from IEEE 802.1AE, which R229 names: log entry 21). -/
def fullPn (xpn : Bool) (top pn : Nat) : Nat :=
  if !xpn then pn
  else if 2 ^ 31 ≤ top % 2 ^ 32 ∧ pn < 2 ^ 31 then (top / 2 ^ 32 + 1) * 2 ^ 32 + pn
  else top / 2 ^ 32 * 2 ^ 32 + pn

/-- A protected frame decrypted, with its PN: none where its SCI is another, its association number holds no key, or its ICV fails (R229, R230). -/
def Dev.secOpen (s : Dev) (n : Nat) (f : Frame) (t : SecRx) : Option (Frame × Nat) :=
  let xpn := s.flag .MAC_SEC_CFG_CIPHER n
  if t.sci.toNat ≠ s.reg64 .MAC_SEC_RXSCI_LOW .MAC_SEC_RXSCI_HIGH n then none
  else match s.secKeyOf n t.an with
  | none => none
  | some k =>
    let b := f.body
    let pn := fullPn xpn ((s.macSt n).rxPn.get t.an) t.pn.toNat
    let iv := secIv xpn t.sci.toNat (s.reg .MAC_SEC_RXSSCI n) k.salt pn
    if secIcv k.key iv (b.take 12) t (b.drop 12) ≠ t.icv.toNat then none
    else some (Frame.withFcs (b.take 12 ++ gcmCrypt k.key iv (b.drop 12)), pn)

/-- MACsec on a received frame: the frame in clear where it is accepted (R229, R230). (PRESUMED: log entry 21.) -/
def Dev.secReceive (n : Nat) (f : Frame) (sec : Option SecRx) (s : Dev) : Option Frame × Dev :=
  match sec with
  | none =>
    if 4 ≤ n || !s.flag .MAC_SEC_CFG_EN n || f.etype == 0x888E then (some f, s)
    else match s.fld .MAC_SEC_CFG_VALIDATE n with
      | 0 => (some f, s)
      | 1 => (some f, s.count .MAC_SEC_UNTAG_CNT n)
      | _ => (none, s.count .MAC_SEC_UNTAG_CNT n)
  | some t =>
    match s.secOpen n f t with
    | none => (none, s.count .MAC_SEC_AUTH_CNT n)
    | some (g, pn) =>
      let top := (s.macSt n).rxPn.get t.an
      if s.flag .MAC_SEC_CFG_REPLAY_EN n ∧ pn + s.reg .MAC_SEC_WIN n < top then (none, s.count .MAC_SEC_REPLAY_CNT n)
      else (some g, s.updMac n fun m => { m with rxPn := m.rxPn.set t.an (max top pn) })

/-- Whether PAR claims a frame of MAC `n`: the EtherType of the heartbeats on the network path (R449, R450). -/
def Dev.parClaims (s : Dev) (n : Nat) (f : Frame) : Bool :=
  s.flag .PAR_CFG_EN && s.flag .PAR_NETHB_EN && s.fld .PAR_NETHB_PORT == n && s.fld .PAR_NETHB_ETYPE == f.etype

/-- A frame that has passed the checks of MAC `n` goes to the unit that takes it: the MAC itself (R217), the SLM (R302), PAR,
or the switch core. A frame with a SecTAG passes MACsec before its own EtherType counts; a control frame without one is the MAC's (R217, R230). -/
def Dev.macAccept (n : Nat) (f : Frame) (sec : Option SecRx) (stamp ago gap : Nat) (s : Dev) : Dev :=
  if sec.isNone && f.etype == 0x8808 then s.macControl n f
  else
    let (ok, s) := s.secReceive n f sec
    match ok with
    | none => s
    | some f =>
      if f.etype = 0x8808 then s.macControl n f
      else if s.parClaims n f then s
      else if s.slmClaims n f then s.slmReceive n f stamp ago
      else s.forward n f none stamp (s.fld .MAC_CFG_TB n) gap

/-- The frame that a receiver sees, and its SecTAG: MACs without MACsec take the bytes on the line as they are (R229, R230). -/
def Dev.secLook (s : Dev) (n : Nat) (f : Frame) (sec : Option SecRx) : Frame × Option SecRx :=
  match sec with
  | none => (f, none)
  | some t =>
    if 4 ≤ n || !s.flag .MAC_SEC_CFG_EN n then (secLine f.body t ++ f.drop (f.length - 4), none) else (f, some t)

/-- Whether the FCS of a received frame is correct, over the bytes on the line. -/
def lineFcsOk (f : Frame) : Option SecRx → Bool
  | none => f.fcsOk
  | some t => 4 ≤ f.length && f.drop (f.length - 4) == leBytes 4 (crc32 (secLine f.body t))

/-- Whether MAC `n` receives: enabled, its link up, powered, not in PORT reset, not bound. -/
def Dev.macReceives (s : Dev) (n : Nat) : Bool :=
  s.flag .MAC_CFG_EN_RX n && s.flag .MAC_STATUS_LINK n && s.domOn .swc && !s.flag .MAC_CTRL_RESET n && !s.traverse n

/-- A frame is received on MAC `n`: its bytes from the destination address to the FCS but for SecTAG and ICV, which stand in `sec`; `cut` where
loss of link or a code error ended it; its reference point passed `ago` × 2^-8 ns ago (R211 to R213). (DESIGN CHOICE: log entry 11.) -/
def Dev.macTake (n : Nat) (f : Frame) (cut : Bool) (sec : Option SecRx) (ago gap : Nat) (s : Dev) : Dev :=
  let (f, sec) := s.secLook n f sec
  if !s.macReceives n then s
  else if f.length < 64 then s.count .MAC_RUNT_CNT n
  else if s.fld .MAC_CFG_MAXLEN n < f.length then s.count .MAC_GIANT_CNT n
  else if cut ∨ !lineFcsOk f sec then s.count .MAC_FCS_CNT n
  else
    let stamp := s.ingressStamp n ago
    if sec.isNone && f.lenError then
      let s := s.count .MAC_LEN_CNT n
      if s.flag .MAC_CFG_LEN_CHK n then s else s.macAccept n f sec stamp ago gap
    else (s.count .MAC_RX_OK_CNT n).macAccept n f sec stamp ago gap

/-- A received frame in clear, where its SecTAG lets it be decrypted: what the rows that name a kind of frame look at. -/
def Dev.clearFrame (s : Dev) (n : Nat) (f : Frame) (sec : Option SecRx) : Frame :=
  match s.secLook n f sec with
  | (f, none) => f
  | (f, some t) => ((s.secOpen n f t).map (·.1)).getD f

/-- A frame is received on MAC `n`; in near-end loopback it is the oldest of the MAC's own that has not come back, whatever is on the line
(R235; DESIGN CHOICE: log entry 23). -/
def Dev.macReceive (n : Nat) (f : Frame) (cut : Bool) (sec : Option SecRx) (ago gap : Nat) (s : Dev) : Dev :=
  if !s.looped n then s.macTake n f cut sec ago gap
  else match (s.macSt n).loop with
    | [] => s
    | x :: rest => (s.updMac n fun m => { m with loop := rest }).macTake n x.bytes x.err x.sec ago gap

end Sys2Proof.Machine
end

