-- ==== Sys2Proof/Machine/ResetOps.lean ====
section
/-! DEFINITION. Resets (R43, R81, R82, R490 to R492, R109, R527) and the power domains (R28, R29, R493, R494). -/

namespace Sys2Proof.Machine

/-- The device with SYS and power state changed. -/
def Dev.updSys (f : SysSt → SysSt) (s : Dev) : Dev := { s with sys := f s.sys }

/-- The device with boot state changed. -/
def Dev.updBoot (f : BootSt → BootSt) (s : Dev) : Dev := { s with boot := f s.boot }

/-- The device with Vault state changed. -/
def Dev.updVlt (f : VltSt → VltSt) (s : Dev) : Dev := { s with vlt := f s.vlt }

/-! ### The whole device (R490 to R492) -/

/-- The precedence of a reset (R491). -/
def ResetKind.rank : ResetKind → Nat
  | .POR => 6
  | .PIN => 5
  | .TAMP => 4
  | .WDOG | .SOFT => 3
  | .RINK => 2
  | .PORT => 1

/-- Whether the reset lets PD_AON run on (R490). -/
def ResetKind.keepsAon : ResetKind → Bool
  | .POR | .PIN => false
  | _ => true

/-- The VLT page shows what the OTP holds (R67, R84); bit 0 of EN is always set (R80). (DESIGN CHOICE: log entry 4.) -/
def Dev.vltShow (s : Dev) : Dev :=
  (((s.setFld .VLT_STATUS_LIFECYCLE s.vlt.lifecycle).setFld .VLT_ROLLBACK_COUNTER s.vlt.rollback).setFld
    .VLT_TAMPER_SRC_COUNT s.vlt.tamperCount)

/-- VLT_TAMPER_EN is loaded from SENSOR_EN (R80). (DESIGN CHOICE: log entry 4.) -/
def Dev.sensorsLoad (s : Dev) : Dev := s.setFld .VLT_TAMPER_EN_EN (s.vlt.sensorEn ||| 1)

/-- A loss of power cuts the programming of the OTP that runs short: a field fails its check; of a thermometer field only bit `k`, up to
which the bits have been set, fails (R67, R81, R531). -/
def OtpSt.cut (k : Nat) (o : OtpSt) : OtpSt :=
  let o' := { o with prog := .none }
  match o.prog with
  | .none => o'
  | .field f => { o' with bad := f :: o.bad }
  | .sensors old => if k % 2 = 0 then { o' with bad := .sensorEn :: o.bad, limit := old } else { o' with bad := .tamperLimit :: o.bad }
  | .rollback lo hi => if lo ≤ k ∧ k < hi then { o' with rollSet := o.rollSet % 2 ^ k, rollBad := o.rollBad ||| 2 ^ k } else o'
  | .tamper b => { o' with tampBad := o.tampBad ||| 2 ^ b }

/-- Unconfirmed boots: a WDOG reset after phase 9 and before the confirmation counts (R50). -/
def Dev.unconfNext (s : Dev) : Nat :=
  let u := s.fld .BOOT_STATUS_UNCONF
  if s.sys.phase9 && !s.flag .BOOT_CTRL_CONFIRM then min 3 (u + 1) else u

/-- The time unit through a reset: kept with empty queues, or initial (R492). -/
def TmuSt.afterReset (x : TmuSt) (keep : Bool) : TmuSt :=
  if keep then { x with evt := [], txts := [], copies := [], past := [] } else default

/-- SYS_SERIAL and the FACT fields show what OTP and fuses hold (R500, R188). (DESIGN CHOICE: log entries 4, 6.) -/
def Dev.factoryShow (s : Dev) : Dev :=
  ((s.setReg .SYS_SERIAL_LOW (s.sys.serial % 2 ^ 32)).setReg .SYS_SERIAL_HIGH (s.sys.serial / 2 ^ 32)).each s.sys.fuses fun p s =>
    (s.setFld .GRM_BANK_FACT_ROWS p.2.1 p.1).setFld .GRM_BANK_FACT_COLS p.2.2 p.1

/-- The programming of the OTP after a time of the TMU clock has passed: what a command has started is complete, but for the TAMPER_COUNT bit, which
has its own instant (R67, R81; DESIGN CHOICE: log entry 30). -/
def OtpSt.done (o : OtpSt) : OtpSt :=
  match o.prog with
  | .tamper _ => o
  | _ => { o with prog := .none }

/-- The device right after a reset of kind `q` has been asserted (R492). `cause` is what PAT_STATUS.CAUSE will show. A TAMPER_COUNT bit that is due
stays due through every reset but a POR, which a loss of power brings (R81). -/
def Dev.deviceReset (q : ResetKind) (cause : Nat) (s : Dev) : Dev :=
  let unconf := s.unconfNext
  let s := if q = .WDOG then s.setFld .BOOT_STATUS_UNCONF unconf else s
  let s := s.resetRegs q fun _ => true
  let vlt := { s.vlt.cleared with otp := { s.vlt.otp with prog := if q = .POR then .none else s.vlt.otp.prog },
                                  dbgFails := if q = .POR then 0 else s.vlt.dbgFails }
  let sys := { (default : SysSt) with
    resetRun := some q, bootHold := true, lockdown := s.sys.lockdown, filling := s.sys.filling && q == .TAMP,
    countDue := s.sys.countDue && q != .POR, wdogCause := cause, serial := s.sys.serial, fuses := s.sys.fuses, pads := s.sys.pads }
  let d : Dev := { (default : Dev) with
    regs := s.regs, mem := if q = .TAMP then s.mem else [], freeCnt := s.freeCnt, sys := sys, vlt := vlt,
    tmu := s.tmu.afterReset q.keepsAon, host := { (default : HostSt) with perst := s.host.perst },
    tap := if q = .POR then { (default : TapSt) with trst := s.tap.trst } else s.tap }
  d.vltShow.sensorsLoad.factoryShow

/-- A reset of the device arrives at the reset controller (R491); in Lockdown only POR and PIN act (R82). (DEDUCED: log entry 30.) -/
def Dev.startReset (q : ResetKind) (cause : Nat) (s : Dev) : Dev :=
  match s.sys.resetRun with
  | some r => if r.rank < q.rank then s.deviceReset q cause else s
  | none => if s.sys.lockdown && q.rank < ResetKind.TAMP.rank then s else s.deviceReset q cause

/-- The mark that a loss of power leaves in the OTP while it is being programmed: a free value says whether it cuts the programming short, and at
which bit (R531; log entry 9). (DEDUCED: log entry 30.) -/
def Dev.otpCut (s : Dev) : Dev :=
  match s.vlt.otp.prog with
  | .none => s
  | _ =>
    let (k, s) := s.fresh
    if bit k 8 then s.updVlt fun v => { v with otp := v.otp.cut (k % 256) } else s

/-- A loss of power starts a POR (R490). -/
def Dev.powerLoss (s : Dev) : Dev := s.otpCut.startReset .POR 0

/-- The code of SYS_RESET_CAUSE. -/
def ResetKind.causeCode : ResetKind → Nat
  | .POR => 0
  | .PIN => 1
  | .WDOG => 2
  | _ => 3

/-- The device enters Lockdown at the end of phase 0 (R67, R71). -/
def Dev.lockedAtBoot (s : Dev) : Dev :=
  ((s.updSys fun x => { x with lockdown := true }).setFlag .VLT_STATUS_LOCKDOWN true).modeUpdate

/-- Phase 0 of a boot: PD_FAB and PD_PAT on, PLLs locked, OTP checked (R45). -/
def Dev.bootPhase0 (s : Dev) : Dev :=
  let s := s.updSys fun x => { x with fabOn := true, patOn := true, bootHold := true, bootMode := .start, phase9 := false }
  let s := (s.updBoot fun _ => { (default : BootSt) with next := 1 }).setFlag .TMU_STATUS_PLL_LOCK true
  let s := s.setFld .BOOT_STATUS_PHASE 0
  if s.vlt.lifecycle = 2 ∨ s.vlt.seedBad then s.lockedAtBoot else s.modeUpdate

/-- The straps are latched (R44). (DESIGN CHOICE: log entry 5.) -/
def Dev.latchStraps (sel : Nat) (rank : Bool) (s : Dev) : Dev :=
  (s.setFld .BOOT_STRAP_BOOT_SEL sel).setFlag .BOOT_STRAP_PAIR_RANK rank

/-- The end of Lockdown: TAMPER_LIMIT reached scraps the device (R82). (DEDUCED: log entry 30.) -/
def Dev.leaveLockdown (s : Dev) : Dev :=
  if !s.sys.lockdown then s
  else
    let s := s.updSys fun x => { x with lockdown := false, filling := false }
    if s.vlt.tamperLimit ≠ 0 ∧ s.vlt.tamperLimit ≤ s.vlt.tamperCount then
      (s.updVlt fun v => { v with otp := { v.otp with stage := 2, prog := .field .lifecycle } }).vltShow
    else s

/-- A POR, PIN, WDOG or SOFT reset ends and the boot starts at phase 0 (R43, R44, R82, R490). (DEDUCED: log entry 29.) -/
def Dev.resetEnd (sel : Nat) (rank : Bool) (s : Dev) : Dev :=
  match s.sys.resetRun with
  | none | some .TAMP | some .RINK | some .PORT => s
  | some q =>
    let s := s.updSys fun x => { x with resetRun := none }
    let s := if q.keepsAon then s else (s.latchStraps sel rank).leaveLockdown
    ((s.setFld .SYS_RESET_CAUSE_CAUSE q.causeCode).setFld .PAT_STATUS_CAUSE s.sys.wdogCause).bootPhase0

/-! ### Tamper response (R80, R81, R531) -/

/-- Enabled sensors trip; `src` holds the sensors whose condition holds, of which only sensor 0 trips in a POR (R80, R81, R507). The zero-fill of the
memories has started. A sensor that trips while a response fills memories, or in the Lockdown that follows it, starts no further response and latches
and programs nothing: R81 gives the response no second start before Lockdown ends (DESIGN CHOICE: log entry 30). -/
def Dev.tamperTrip (src : Nat) (s : Dev) : Dev :=
  let seen := if s.sys.resetRun = some .POR then src % 2 else src
  let trip := seen &&& s.fld .VLT_TAMPER_EN_EN
  if trip = 0 ∨ s.sys.filling ∨ (s.sys.lockdown ∧ s.sys.resetRun = some .TAMP) then s
  else
    let s := s.setFld .VLT_TAMPER_SRC_SRC trip
    let retained := (List.range 256).filter fun b => s.bankState b == 2
    let s := s.each retained Dev.zeroBank
    let s := s.updSys fun x => { x with lockdown := true, bootHold := true, countDue := true }
    let s := s.updVlt fun v => { v with keyRegs := none, sak := [], tandemSak := none,
                                        otp := { v.otp with prog := if v.tamperCount < 63 then .tamper v.tamperCount else .none } }
    let s := s.startReset .TAMP 0
    let s := s.updSys fun x => { x with filling := x.resetRun == some .TAMP }
    (s.setFlag .VLT_STATUS_KEYS_READY false).modeUpdate

/-- The zero-fill of the tamper response is complete (R81). -/
def Dev.lockdownEntry (s : Dev) : Dev :=
  if !s.sys.filling then s
  else ({ s with mem := [], sys := { s.sys with filling := false } }).setFlag .VLT_STATUS_LOCKDOWN true

/-- The bit above the highest bit of TAMPER_COUNT that counts is programmed (R531). -/
def OtpSt.tick (o : OtpSt) : OtpSt :=
  let c := thermo o.tampSet o.tampBad
  { o with tampSet := if c < 63 then o.tampSet ||| 2 ^ c else o.tampSet, prog := .none }

/-- One further TAMPER_COUNT bit is programmed (R81, R531). -/
def Dev.tamperCountBit (s : Dev) : Dev :=
  if !s.sys.countDue then s
  else ((s.updSys fun x => { x with countDue := false }).updVlt fun v => { v with otp := v.otp.tick }).vltShow

/-! ### RINK reset (R109, R527) -/

/-- The bits of a mask of eight. -/
def popMask (m : Nat) : Nat := ((List.range 8).filter (bit m)).length

/-- Whether rink `n` passes its self-checks with these engines online (R527). -/
def Dev.rinkPasses (s : Dev) (n : Nat) : Bool :=
  let k := popMask (s.fld .RNK_STATUS_ENG_ONLINE n)
  1 ≤ k && s.boot.minEngines.getD n 0 ≤ k

/-- The outcome of the self-check of engine `e`; the contexts of an engine that fails are stopped (R87, R107). -/
def Dev.selfCheck (n e : Nat) (fails : Bool) (s : Dev) : Dev :=
  ((s.setOnline n e (!fails)).setFlag .RNK_ENG_STATUS_SELF_FAIL fails n e).when fails fun s =>
    s.each (List.range 4) fun i s => s.setSt (n * 32 + e * 4 + i) .stopped

/-- The outcome of the self-checks: `fails` holds the engines that fail (R107, R527). -/
def Dev.selfChecks (n fails : Nat) (s : Dev) : Dev := s.each (List.range 8) fun e s => s.selfCheck n e (bit fails e)

/-! The reload region of partition 3 (R55, R56, R109) -/

/-- The offset of each firmware copy in partition 3: from the top downward in section table order (R56). (DESIGN CHOICE: log entry 20.) -/
def fwPlaces : Nat → List Section → List (Section × Nat)
  | _, [] => []
  | top, x :: t => (x, top - x.data.length) :: fwPlaces (top - x.data.length) t

/-- The firmware of the running image with the offsets of its copies. -/
def Dev.fwCopies (s : Dev) : List (Section × Nat) := fwPlaces ((s.partBanks 3).length * 0x80000) s.boot.fw

/-- One record from its 16 bytes (R59). -/
def recOf (l : List Byte) : RegRec :=
  let w0 := leVal (l.take 4)
  ⟨bits w0 7 0, bits w0 15 8 * 2 ^ 32 + leVal ((l.drop 4).take 4), bits w0 31 16, leVal ((l.drop 8).take 4), leVal ((l.drop 12).take 4)⟩

/-- The 16 bytes of a record. -/
def RegRec.bytes (r : RegRec) : List Byte :=
  leBytes 4 (r.op + bits r.addr 39 32 * 2 ^ 8 + r.param * 2 ^ 16) ++ leBytes 4 r.addr ++ leBytes 4 r.value ++ leBytes 4 r.mask

/-- The device reads `n` bytes from an offset of partition 3. The master of these reads is not stated: Patrol's ID stands for it (DESIGN
CHOICE: log entry 14). -/
def Dev.reloadRead (off n : Nat) (s : Dev) : List Byte × Dev :=
  let (r, s) := s.partRead (n / 0x80000 + 2) 0x40 3 off n
  (r.data, s)

/-- The records kept in the reload region, as they stand there. -/
def Dev.keptRecs (s : Dev) : List RegRec × Dev :=
  let k := s.boot.kept.length
  let (l, s) := s.reloadRead s.reloadBase (16 * k)
  ((List.range k).map fun i => recOf ((l.drop (16 * i)).take 16), s)

/-- The address of a record lies in the page of rink `n` (R109). -/
def RegRec.inRink (n : Nat) (r : RegRec) : Bool := r.addr / 0x10000 == (regBase + 0x100000) / 0x10000 + n

/-- The data memories of rink `n` hold zeros (R492). -/
def Dev.zeroDmem (n : Nat) (s : Dev) : Dev := s.each (List.range 8) fun e s => s.zeroRange (dmemBase n e) (dmemBase n e + 0x10000)

/-- A RINK reset of rink `n` runs: jobs, lifts and copies are dropped, the self-checks rerun with engines `fails` failing, and
the records kept for the rink wait to be reapplied (R109, R177, R248). (DEDUCED: log entry 14.) -/
def Dev.rinkResetStart (n fails : Nat) (s : Dev) : Dev :=
  let s := (((s.rinkClear n).flushHeld n).zeroDmem n).reapRuns
  let s := (s.updSys fun x => { x with rinkRst := putBit x.rinkRst n true }).setFlag .RNK_STATUS_READY false n
  let s := s.selfChecks n fails
  let s := if fails = 0 then s else (s.degrade .SYS_DEGRADED_ENGINE).autoYield
  if !s.rinkPasses n then s.updBoot fun b => { b with rinkSeq := b.rinkSeq.set n [] }
  else
    let (l, s) := s.keptRecs
    s.updBoot fun b => { b with rinkSeq := b.rinkSeq.set n (l.filter (RegRec.inRink n)) }

/-- The firmware of rink `n`, from the copies in partition 3, is placed one section behind the other in the instruction
memories of its engines, and its FWIDs are shown (R55, R96, R443). -/
def Dev.loadRink (n : Nat) : List (Section × Nat) → Nat → Dev → Dev
  | [], _, s => s
  | (x, src) :: t, off, s =>
    if bit x.rinks n then
      let (l, s) := s.reloadRead src x.data.length
      let s := s.each (List.range 8) fun e s => s.setBytes (imemBase n e + off) l
      let s := s.setReg .RNK_FWMASK (putBit (s.reg .RNK_FWMASK n) x.fwid true) n
      Dev.loadRink n t (off + l.length) s
    else Dev.loadRink n t off s

/-- The instruction memories of a rink hold zeros. -/
def Dev.zeroImem (n : Nat) (s : Dev) : Dev := s.each (List.range 8) fun e s => s.zeroRange (imemBase n e) (imemBase n e + 0x10000)

/-- The RINK reset of rink `n` ends; `timeout` where a kept POLL has reached PARAM µs without a match (R109, R527). -/
def Dev.rinkResetEnd (n : Nat) (timeout : Bool) (s : Dev) : Dev :=
  if !s.inRinkReset n then s
  else
    let waits := match s.boot.rinkSeq.get n with
      | r :: _ => r.op == 3
      | [] => false
    let stop := !s.rinkPasses n || (timeout && waits)
    if !stop && !(s.boot.rinkSeq.get n).isEmpty then s
    else
      let s := (s.updSys fun x => { x with rinkRst := putBit x.rinkRst n false }).updBoot fun b => { b with rinkSeq := b.rinkSeq.set n [] }
      if stop then s.degrade .SYS_DEGRADED_RINK
      else (((s.zeroImem n).loadRink n s.fwCopies 0).setFlag .RNK_STATUS_READY true n).rinkStart n

/-- A write of SYS_RINK_RST; reserved bits count beside a reset that starts (R9, R12, R490, R491). -/
def Dev.rinkReset (mid v fails : Nat) (s : Dev) : Dev :=
  let n := v % 8
  if mid ≠ 0x40 ∨ !s.rinkOn n ∨ s.inRinkReset n ∨ s.sys.bootMode ≠ .done then s.misuse .SYS
  else (if v / 8 = 0 then s else s.misuse .SYS).rinkResetStart n fails

/-! ### Power domains (R28, R29, R494) -/

/-- The switchable domains by bit. -/
def domBits : List Nat := List.range 13

/-- Whether a request to switch the domain of bit `b` breaks R29. -/
def Dev.domBreaks (s : Dev) (b : Nat) (on : Bool) : Bool :=
  if on then !s.domOn (domOfBit b).needs
  else domBits.any fun k => s.domOn (domOfBit k) && (domOfBit k).needs == domOfBit b

/-- A write of PWR_DOM_CTRL (R29, R494). -/
def Dev.domRequest (v : Nat) (s : Dev) : Dev :=
  let old := s.reg .PWR_DOM_CTRL
  let diff := domBits.filter fun b => bit v b != bit old b
  let s := if v / 2 ^ 13 = 0 && diff.length ≤ 1 then s else s.misuse .PWR
  match diff with
  | [] => s
  | [b] =>
    let on := bit v b
    if s.flag .PWR_DOM_STAT_BUSY || s.domBreaks b on || (b == 11 && !on && s.boot.target == 2) then s.count .PWR_REFUSE_CNT
    else
      ((s.setReg .PWR_DOM_CTRL (putBit old b on)).setFlag .PWR_DOM_STAT_BUSY true).updSys fun x => { x with domReq := some (b, on) }
  | _ => s

/-- The registers of a domain's pages. -/
def domRegs (d : Dom) (off : Nat) : Bool :=
  match blockAt off with
  | some (b, n) => b.dom n == d
  | none => false

/-- The registers of the HST and BOOT pages that PD_HOST holds: not the kept state of R65, nor the windows (R494). -/
def hostRegs (off : Nat) : Bool :=
  domRegs .hst off && match regAt off with
    | some (.BOOT_STRAP, _) | some (.BOOT_STATUS, _) | some (.BOOT_CAUSE, _) | some (.BOOT_TIME, _) | some (.BOOT_CTRL, _)
    | some (.BOOT_FAILOVER_CNT, _) | some (.HST_WIN_STAT, _) => false
    | _ => true

/-- The links of a list of MACs drop. -/
def Dev.dropLinks (l : List Nat) (s : Dev) : Dev := s.each l fun n s => s.setLink n false

/-- PD_RINKn is off: jobs, lifts and copies as at a RINK reset, registers at their reset values, local memories lost. (DEDUCED: log entry 14.) -/
def Dev.rinkLose (n : Nat) (s : Dev) : Dev :=
  let s := (((s.rinkClear n).flushHeld n).resetRegs .POR (rinkRegs n)).setFld .RNK_STATUS_CLK_MHZ (s.fld .RNK_STATUS_CLK_MHZ n) n
  let s := (s.zeroRange (imemBase n 0) (imemBase n 0 + 0x100000)).reapRuns
  let s := s.updSys fun x => { x with rinkRst := putBit x.rinkRst n false }
  let s := s.updBoot fun b => { b with rinkSeq := b.rinkSeq.set n [] }
  if bit s.boot.domOn n then s.degrade .SYS_DEGRADED_RINK else s

/-- What a domain that goes off loses (R494). (DEDUCED: log entry 14.) BOOT_STATUS.XBUSY is state that PD_AON keeps (R65): it stays 1 where PD_HOST goes
off during a FLASH_WRITE, whose transfer is lost, until the next reset (DESIGN CHOICE: log entry 29). -/
def Dev.domLose (d : Dom) (s : Dev) : Dev :=
  match d with
  | .rink n => s.rinkLose n
  | .swc => ({ s with swc := default, mac := [], slm := default, vlt := { s.vlt with sak := [] } }).resetRegs .POR (domRegs .swc)
  | .sds => ((s.dropLinks (List.range 20)).resetRegs .POR (domRegs .sds)).parLanes
  | .tphy => (s.dropLinks ((List.range 8).map (· + 20))).resetRegs .POR (domRegs .tphy)
  | .hst =>
    ({ s with host := { (default : HostSt) with perst := s.host.perst, logSeq := s.host.logSeq, package := s.host.package,
                                                packageOk := s.host.packageOk } }).resetRegs .POR hostRegs
  | .pio => (({ s with can := [], bld := [], grp := [] }).resetRegs .POR (domRegs .pio)).ringLift
  | _ => s

/-- The switch core shows its buffer: 2,048 cells of each bank of partition 0, of at most 96 (R238, R251). -/
def Dev.swcShow (s : Dev) : Dev := (s.setFld .SWC_BUF_STATUS_TOTAL (2048 * s.cellBanks.length)).poolShow

/-- The domain of bit `b` is on, without the RINK reset of a rink. -/
def Dev.domPower (b : Nat) (s : Dev) : Dev :=
  let s := s.setReg .PWR_DOM_STAT (putBit (s.reg .PWR_DOM_STAT) b true)
  if b = 8 then s.swcShow.ctlPower else s

/-- The domain of bit `b` is off. -/
def Dev.domDrop (b : Nat) (s : Dev) : Dev :=
  (s.domLose (domOfBit b)).setReg .PWR_DOM_STAT (putBit (s.reg .PWR_DOM_STAT) b false)

/-- A domain change is complete; `fails` are the engines that fail the self-checks of a rink that comes on (R494). -/
def Dev.domSwitchDone (fails : Nat) (s : Dev) : Dev :=
  match s.sys.domReq with
  | none => s
  | some (b, on) =>
    let s := (s.updSys fun x => { x with domReq := none }).setFlag .PWR_DOM_STAT_BUSY false
    if !on then s.domDrop b
    else
      let s := s.domPower b
      if b < 8 then s.rinkResetStart b fails else s

end Sys2Proof.Machine
end

