-- ==== Sys2Proof/Machine/PwrOps.lean ====
section
/-! DEFINITION. Retention and the wake from it (R496 to R498). -/

namespace Sys2Proof.Machine

/-- A bank of a byte address below the end of shared memory lies in the list. -/
def inBanks (l : List Nat) (a : Nat) : Bool := a < 0x8000000 && l.contains (bankOf a)

/-- The banks that go into retention: on, with their PWR_KEEP bit (R496). -/
def Dev.keepBanks (s : Dev) : List Nat := (List.range 256).filter fun b => s.bankState b == 1 && bit (s.reg .PWR_KEEP (b / 32)) (b % 32)

/-- Registers that Retention keeps: PD_AON's pages and the kept state of the BOOT page (R492, R65). -/
def retained (off : Nat) : Bool :=
  match blockAt off with
  | some (.SYS, _) | some (.PWR, _) | some (.VLT, _) | some (.TMU, _) => true
  | some (.BOOT, _) => !hostRegs off
  | _ => false

/-- GRM_BANK of a bank in a list (R492). -/
def keptRepair (l : List Nat) (off : Nat) : Bool :=
  match regAt off with
  | some (.GRM_BANK, i, _, _) => l.contains i
  | _ => false

/-- What Retention leaves (R492, R496). -/
def Dev.retain (s : Dev) : Dev :=
  let k := s.keepBanks
  let mapped := (List.range 256).filter fun b => s.flag .GRM_BANK_MAPPED b
  let s1 := s.resetRegs .POR fun off => !(retained off || keptRepair k off)
  let d : Dev := { (default : Dev) with
    regs := s1.regs, mem := s.mem.filter fun e => inBanks k e.1, freeCnt := s.freeCnt, vlt := s.vlt.cleared, tap := s.tap,
    tmu := { s.tmu with copies := [], past := [] },
    smf := { (default : SmfSt) with errs := s.smf.errs.filter fun e => inBanks k (e.1 * 8), rows := s.smf.rows.filter fun e => k.contains e.1,
                                    cols := s.smf.cols.filter fun e => k.contains e.1 },
    sys := { s.sys with fabOn := false, patOn := false, rinkRst := 0, portRst := 0, domReq := none, bootHold := true, retention := true,
                        wraps := 0, resume := false, keptBanks := k, mappedBefore := mapped, msTicks := 0, phase9 := false },
    host := { (default : HostSt) with perst := s.host.perst } }
  let d := (((d.setFld .PWR_DOM_STAT_ON 0).setFlag .PWR_DOM_STAT_BUSY false).setFlag .VLT_STATUS_DEBUG_OPEN false).setFlag .VLT_STATUS_KEYS_READY false
  let d := d.each (List.range 256) fun b s => s.setBankState b (if k.contains b then 2 else if mapped.contains b then 0xF else 0)
  d.factoryShow.modeUpdate

/-- Whether a Retention request is refused (R496). -/
def Dev.sleepRefused (s : Dev) : Bool :=
  !s.inMode [.standalone, .hosted, .listen, .hold] || s.flag .PAR_CFG_EN
    || ((List.range 16).any fun t => s.flag .CTL_TASK_CTRL_PENDING t) || !(s.flag .PWR_SLEEP_WAKE_PIN || s.flag .PWR_SLEEP_WAKE_TIME)

/-- A write of PWR_SLEEP (R496). -/
def Dev.sleepWrite (mid v : Nat) (s : Dev) : Dev :=
  let s := s.plainIf (fun fi => fi.is .PWR_SLEEP_ENTER && bit v 0 && mid != 0x40) .PWR_SLEEP v
  if !bit v 0 || mid != 0x40 then s
  else if s.sleepRefused then s.count .PWR_REFUSE_CNT
  else s.retain

/-- A source wakes the device: 1 the pin, 2 the time (R497). -/
def Dev.wakeUp (cause : Nat) (s : Dev) : Dev :=
  ((s.updSys fun x => { x with retention := false, resume := true, bootMode := .start }).setFld .PWR_WAKE_CAUSE_CAUSE cause).modeUpdate

/-- The WAKE pin is high for 1 µs (R497). -/
def Dev.wakePin (s : Dev) : Dev := if s.sys.retention && s.flag .PWR_SLEEP_WAKE_PIN then s.wakeUp 1 else s

/-- The wake time is reached (R497). -/
def Dev.wakeTime (s : Dev) : Dev :=
  if s.sys.retention && s.flag .PWR_SLEEP_WAKE_TIME && s.fld .PWR_WAKE_WRAPS_WRAPS ≤ s.sys.wraps
      && Machine.reached (s.reg .PWR_WAKE_AT) (tbNs (s.tbVal (s.fld .PWR_SLEEP_WAKE_TB))) then s.wakeUp 2
  else s

/-- The registers of the BOOT page. -/
def bootRegs (off : Nat) : Bool := off / 0x10000 == 3

/-- A wake starts a boot that keeps the banks in retention (R498). What PAT_STATUS.CAUSE shows after a wake the manual does
not say (DESIGN CHOICE, log entry 9). (DEDUCED: log entry 29.) -/
def Dev.resumeBoot (s : Dev) : Dev :=
  if !s.sys.resume || s.sys.fabOn then s
  else
    let sel := s.fld .BOOT_STRAP_BOOT_SEL
    let rank := s.flag .BOOT_STRAP_PAIR_RANK
    let unconf := s.fld .BOOT_STATUS_UNCONF
    let s := ((s.resetRegs .POR bootRegs).latchStraps sel rank).setFld .BOOT_STATUS_UNCONF unconf
    let (x, s) := s.fresh
    ((((s.setFld .SYS_RESET_CAUSE_CAUSE 4).setReg .SYS_DEGRADED 0).setFld .PAT_STATUS_CAUSE (x % 8))).bootPhase0

end Sys2Proof.Machine
end

