-- ==== Sys2Proof/Machine/Bus.lean ====
section
/-! DEFINITION. Accesses to register space: rights, pages, word pairs and the effects of writes (R6 to R13, R22, R30, R36,
R37, R47, R63, R73 to R76), and accesses by physical address to memory or registers. -/

namespace Sys2Proof.Machine

/-! ### Rights (R36, R47, R73 to R76) -/

/-- The registers that the host may read in every mode (R47, R74). -/
def hostAlways (off : Nat) : Bool :=
  match regAt off with
  | some (.SYS_ID, _) | some (.SYS_SERIAL_LOW, _) | some (.SYS_SERIAL_HIGH, _) | some (.BOOT_STRAP, _) | some (.BOOT_STATUS, _)
  | some (.BOOT_CAUSE, _) | some (.BOOT_TIME, _) => true
  | _ => false

/-- Whether an applied window with the right covers an address (R73); right 0 is R, 1 is W. -/
def Dev.window (s : Dev) (a right : Nat) : Bool :=
  s.boot.windowsOn && s.boot.windows.any fun w => w.1 ≤ a && a < w.1 + w.2.1 && bit w.2.2 right

/-- Whether the host may reach a word at a physical address. -/
def Dev.hostMay (s : Dev) (a : Nat) (write : Bool) : Bool :=
  s.window a (b2n write) || (!write && regBase ≤ a && hostAlways (a - regBase))

/-- Whether a master may reach an offset of register space (R36, R76). -/
def Dev.regMay (s : Dev) (mid off : Nat) (write : Bool) : Bool :=
  if mid < 0x40 then bit (s.boot.grants.getD (mid / 8) 0) (off / 0x10000) && off / 0x10000 != 2
  else if mid = 0x40 then true
  else mid == 0x41 && s.hostMay (regBase + off) write

/-! ### Pages (R7, R22, R30) -/

/-- The domain of an offset: that of its page, but of the rink for the registers of its lifts (R30). -/
def regDom (b : Block) (n off : Nat) : Dom :=
  if b = .LFT ∧ off % 0x10000 < 0x800 then .rink (off % 0x10000 / 0x100) else b.dom n

/-- What an access to register space comes to before it reaches its block. -/
inductive RegGate where
  | denied | decode | off
  | page (b : Block) (n : Nat)
deriving DecidableEq, Repr, Inhabited

/-- Rights first, then the page, then its domain (R37, R7, R22). (DEDUCED: log entry 12.) -/
def Dev.regGate (s : Dev) (mid off : Nat) (write : Bool) : RegGate :=
  if !s.regMay mid off write then .denied
  else match blockAt off with
    | none => .decode
    | some (b, n) => if s.domOn (regDom b n off) then .page b n else .off

/-- The counter of an access that does not reach a block. (DEDUCED: log entry 12.) -/
def Dev.gateCount (g : RegGate) (s : Dev) : Dev :=
  match g with
  | .denied => s.count .SYS_DENY_CNT
  | .decode => s.count .SYS_DECODE_CNT
  | .off => s.count .SYS_DOMAIN_OFF_CNT
  | .page b n => s.misuse b n

/-! ### Word pairs (R8) -/

/-- The key of a pair in the latch and staging tables: master ID and the offset of its low word. -/
def pairKey (mid off : Nat) : Nat := mid * 2 ^ 24 + off

/-- The latch of a master for a pair. -/
def Dev.setLatch (k : Nat) (v : Option Word) (s : Dev) : Dev := { s with hiLatch := s.hiLatch.set k v }

/-- The staged low word of a master for a pair. -/
def Dev.setStage (k : Nat) (v : Option Word) (s : Dev) : Dev := { s with loStage := s.loStage.set k v }

/-- A read of the low word of pair `r`: it returns the word and latches the high word of the same instant (R8, R278, R291,
R296). -/
def Dev.pairLow (r hi : Reg) (i j mid : Nat) (s : Dev) : Nat × Dev :=
  let k := pairKey mid (r.addr i j)
  match r with
  | .TMU_EVT_LOW =>
    let (lo, h, s) := s.evtPop i
    (lo, s.setLatch k (some (word h)))
  | .TMU_TXTS_LOW =>
    let (lo, h, s) := s.txtsPop i
    (lo, s.setLatch k (some (word h)))
  | .TMU_TB_LOW => (tbNs (s.tbVal i), s.setLatch k (some (word (tbFrac (s.tbVal i)))))
  | r => (s.reg r i j, s.setLatch k (some (word (s.reg hi i j))))

/-- A read of the high word of a pair whose low word is `lo` (R8). -/
def Dev.pairHigh (r lo : Reg) (i j mid : Nat) (s : Dev) : Nat × Dev :=
  let k := pairKey mid (lo.addr i j)
  match s.hiLatch.get k with
  | some v => (v.toNat, s.setLatch k none)
  | none =>
    match r with
    | .TMU_TB_HIGH | .TMU_EVT_HIGH | .TMU_TXTS_HIGH => s.tmuRead r i
    | r => (s.reg r i j, s)

/-- Whether every field of a register is read-only (R10). -/
def Reg.readOnly (r : Reg) : Bool := r.info.fields.all fun f => f.acc == .ro

/-- A pair written as a whole by the field rules, with one violation at most (R8, R9, R11, R12). -/
def Dev.pairPlain (ill : FieldInfo → Bool) (lo hi : Reg) (vl vh i j : Nat) (s : Dev) : Dev :=
  let a := writeWord lo.info.fields ill (s.reg lo i j) vl
  let b := writeWord hi.info.fields ill (s.reg hi i j) vh
  let s := (s.setReg lo a.1 i j).setReg hi b.1 i j
  if a.2 || b.2 then s.misuse lo.info.blk (lo.info.blk.pageOf i) else s

/-- Bits that no field of a register covers. -/
def Reg.strayBits (r : Reg) (v : Nat) : Bool := (v &&& (2 ^ 32 - 1 - fieldMask r.info.fields)) != 0

/-- A pair is committed with both words (R8); the chapters' own effects (R171, R279, R468). (DEDUCED: log entry 12.) -/
def Dev.pairCommit (lo hi : Reg) (vl vh i j mid ctx : Nat) (s : Dev) : Dev :=
  let s1 := if lo.strayBits vl || hi.strayBits vh then s.misuse lo.info.blk (lo.info.blk.pageOf i) else s
  match lo with
  | .LFT_DESC_LOW => s1.liftStart i mid ctx (vl + bits vh 7 0 * 2 ^ 32)
  | .TMU_TB_LOW => s1.adjust i (.set vl (bits vh 7 0))
  | .TMU_TB_STEP_LOW => s1.adjust i (.step vl (bits vh 7 0))
  | .PAR_TRACK_LOW => s.trackWrite i vl vh
  | .PAR_PAIR_MAC_LOW =>
    let en := s.flag .PAR_CFG_EN
    s.pairPlain (fun fi => en || (fi.hi == 15 && bit vh 8)) lo hi vl vh i j
  | .SLM_DA_LOW => s.pairPlain (fun fi => fi.hi == 15 && !bit vh 8) lo hi vl vh i j
  | lo => s.pairPlain (fun _ => false) lo hi vl vh i j

/-- A write of the low word of a pair: staged (R8). -/
def Dev.pairStage (r : Reg) (i j mid v : Nat) (s : Dev) : Dev :=
  if r.readOnly then s.misuse r.info.blk (r.info.blk.pageOf i) else s.setStage (pairKey mid (r.addr i j)) (some (word v))

/-- A write of the high word of a pair: the commit (R8, R10). -/
def Dev.pairWrite (r lo : Reg) (i j mid ctx v : Nat) (s : Dev) : Dev :=
  if r.readOnly then s.misuse r.info.blk (r.info.blk.pageOf i)
  else
    let k := pairKey mid (lo.addr i j)
    let vl := match s.loStage.get k with
      | some w => w.toNat
      | none => if lo = .TMU_TB_LOW then tbNs (s.tbVal i) else s.reg lo i j
    (s.setStage k none).pairCommit lo r vl v i j mid ctx

/-! ### Blocks whose pages have no operations of their own elsewhere -/

/-- The bit of ROLLBACK just above the highest bit that counts is programmed (R531). -/
def OtpSt.rollBit (o : OtpSt) : OtpSt := { o with rollSet := o.rollSet ||| 2 ^ thermo o.rollSet o.rollBad }

/-- `k` bits of ROLLBACK are programmed, one at a time in ascending order (R531). -/
def OtpSt.rollBits : Nat → OtpSt → OtpSt
  | 0, o => o
  | k + 1, o => OtpSt.rollBits k o.rollBit

/-- The anti-rollback counter is programmed up to `n` (R70, R531). -/
def OtpSt.raise (n : Nat) (o : OtpSt) : OtpSt :=
  let c := thermo o.rollSet o.rollBad
  if c < n then { OtpSt.rollBits (n - c) o with prog := .rollback c n } else o

/-- A write of BOOT_CTRL.CONFIRM (R50, R70): the counter follows ROLLBACK of the running image. -/
def Dev.bootConfirm (s : Dev) : Dev :=
  let s := (s.setFlag .BOOT_CTRL_CONFIRM true).setFld .BOOT_STATUS_UNCONF 0
  (s.updVlt fun v => { v with otp := v.otp.raise (min 255 s.boot.rollback) }).vltShow

/-- A write of the BOOT page. -/
def Dev.bootWrite (r : Reg) (v : Nat) (s : Dev) : Dev :=
  match r with
  | .BOOT_CTRL =>
    let s := s.plain r v
    if bit v 0 then s.bootConfirm else s
  | r => s.plain r v

/-- A write of SYS_RESET (R490). -/
def Dev.softReset (mid v : Nat) (s : Dev) : Dev :=
  if mid ≠ 0x40 ∨ v ≠ 0xA5C3 then s.misuse .SYS else s.startReset .SOFT 1

/-- A write of the SYS page. A rink that this write resets reruns its self-checks, whose outcome is free (DESIGN CHOICE, log entry 9). -/
def Dev.sysWrite (r : Reg) (mid v : Nat) (s : Dev) : Dev :=
  match r with
  | .SYS_RESET => s.softReset mid v
  | .SYS_RINK_RST =>
    let (x, s) := s.fresh
    s.rinkReset mid v (x % 256)
  | .SYS_MODE_CTRL => s.modeCtrlWrite mid v
  | r => s.plain r v

/-- A write of PWR_BANK_REQ (R495, R164). -/
def Dev.bankReqWrite (v : Nat) (s : Dev) : Dev :=
  let s := s.plainIf (fun fi => fi.is .PWR_BANK_REQ_STATE && bits v 9 8 == 3) .PWR_BANK_REQ v
  if bits v 9 8 = 3 then s else s.bankRequest (bits v 7 0) (bits v 9 8)

/-- A write of the PWR page. -/
def Dev.pwrWrite (r : Reg) (i mid v : Nat) (s : Dev) : Dev :=
  match r with
  | .PWR_DOM_CTRL => s.domRequest v
  | .PWR_BANK_REQ => s.bankReqWrite v
  | .PWR_SLEEP => s.sleepWrite mid v
  | r => s.plain r v i

/-- A write of PAT_WDOG_KICK (R472). -/
def Dev.wdogKick (v : Nat) (s : Dev) : Dev :=
  if v ≠ 0x5A5A then s.count .PAT_KICK_BAD_CNT
  else if s.flag .PAT_WDOG_CFG_EN then
    (s.setFld .PAT_WDOG_LEFT_MS (s.fld .PAT_WDOG_CFG_TIMEOUT_MS)).updSys fun x => { x with msTicks := 0 }
  else s

/-- A write of PAT_WDOG_CFG: TIMEOUT_MS does not change while EN is 1, and EN starts the count (R472). (DEDUCED: log entries 12, 30.) -/
def Dev.wdogCfg (v : Nat) (s : Dev) : Dev :=
  let on := s.flag .PAT_WDOG_CFG_EN
  let ill (fi : FieldInfo) : Bool := fi.is .PAT_WDOG_CFG_TIMEOUT_MS && on && bits v 31 16 != s.fld .PAT_WDOG_CFG_TIMEOUT_MS
  let s := s.plainIf ill .PAT_WDOG_CFG v
  if !on && s.flag .PAT_WDOG_CFG_EN then s.wdogKick 0x5A5A else s

/-- A write of PAT_LOAD (R473, R483): SHED_LO must be below the SHED_HI that is in force after the write. -/
def Dev.loadCfg (v : Nat) (s : Dev) : Dev :=
  let hi := if bits v 23 16 ≤ 100 then bits v 23 16 else s.fld .PAT_LOAD_SHED_HI
  s.plainIf (fun fi => fi.is .PAT_LOAD_SHED_LO && hi ≤ bits v 31 24) .PAT_LOAD v

/-- A write of the PAT page. -/
def Dev.patWrite (r : Reg) (i mid ctx v : Nat) (s : Dev) : Dev :=
  match r with
  | .PAT_WDOG_CFG => s.wdogCfg v
  | .PAT_WDOG_KICK => s.wdogKick v
  | .PAT_LOAD => s.loadCfg v
  | .PAT_SQ_PUSH => s.patPushWrite i mid ctx v
  | .PAT_CTX_CTRL => if s.ctxRefused (256 + i) v then s.refuseWrite r else (s.plain r v i).ctxCtrl (256 + i) v
  | r => s.plain r v i

/-- A write of the HST page. -/
def Dev.hstWrite (r : Reg) (i v : Nat) (s : Dev) : Dev :=
  match r with
  | .HST_MSIX_TGT | .HST_MSIX_MASK => (s.plain r v i).msixUpdate
  | r => s.plain r v i

/-- A write of RNK page registers; an engine that goes offline may end the unit's part as active (R453), and the runs that
were lost with it are over (R428). -/
def Dev.rnkWriteAll (r : Reg) (i j mid ctx v : Nat) (s : Dev) : Dev :=
  let was := s.fld .RNK_STATUS_ENG_ONLINE i
  let s := (s.rnkWrite r i j mid ctx v).reapRuns
  if s.fld .RNK_STATUS_ENG_ONLINE i = was then s else s.autoYield

/-- A write of a MAC page; a PORT reset is refused in boot phases 0 to 8 (R491), and the rest of the word is written (R9). -/
def Dev.macWriteAll (r : Reg) (i j v : Nat) (s : Dev) : Dev :=
  if r = .MAC_CTRL ∧ bit v 0 ∧ s.sys.bootMode ≠ .done then (s.misuse .SYS).macWrite r i j (v - 1) else s.macWrite r i j v

/-! ### Registers (R6 to R13, R63) -/

/-- A write reaches a register that is no word of a pair. -/
def Dev.regStore (r : Reg) (i j k mid ctx v : Nat) (s : Dev) : Dev :=
  match r.info.blk with
  | .SYS => s.sysWrite r mid v
  | .PWR => s.pwrWrite r i mid v
  | .BOOT => s.bootWrite r v
  | .GRM => s.grmWrite r i v
  | .LFT => (s.lftWrite r i mid ctx v).reapRuns
  | .MBX => s.mbxWrite r i mid ctx v
  | .TMU => s.tmuWrite r i v
  | .SLM => s.slmWrite r i j v
  | .PAR => s.parWrite r i mid v
  | .CTL => s.ctlWrite r i mid v
  | .PAT => s.patWrite r i mid ctx v
  | .HST => s.hstWrite r i v
  | .RNK => s.rnkWriteAll r i j mid ctx v
  | .SWC => s.swcWrite r i j k mid ctx v
  | .MAC => s.macWriteAll r i j v
  | .SDS => (s.sdsWrite r i v).parLanes
  | .TPHY => s.tphyWrite r i v
  | .CAN => s.canWrite r i j k v
  | .BLD => s.bldWrite r i j v
  | .VLT | .SMF | .PIN => s.plain r v i j k

/-- A read reaches a register that is no word of a pair. -/
def Dev.regLoad (r : Reg) (i j k mid ctx : Nat) (s : Dev) : Nat × Dev :=
  match r.info.blk with
  | .MBX => s.mbxRead r i mid ctx
  | .TMU => s.tmuRead r i
  | .SWC => (s.swcRead r i j k mid ctx, s)
  | .CAN => (s.canRead r i j k, s)
  | .BLD => s.bldRead r i j
  | .PIN => (s.pinRead r i, s)
  | .SMF => s.smfRead r i (s.routeActive i)
  | _ => (s.reg r i j k, s)

/-- Whether a register is a word of a mailbox, which follows R192 and R194 in place of R8. -/
def Reg.isNotice (r : Reg) : Bool := r == .MBX_NOTICE_LOW || r == .MBX_NOTICE_HIGH

/-- A word write to a register copy. -/
def Dev.copyStore (r : Reg) (i j k mid ctx v : Nat) (s : Dev) : Dev :=
  if r.isNotice then s.regStore r i j k mid ctx v
  else match r.high?, r.low? with
    | some _, _ => s.pairStage r i j mid v
    | none, some lo => s.pairWrite r lo i j mid ctx v
    | none, none => s.regStore r i j k mid ctx v

/-- A word read of a register copy. -/
def Dev.copyLoad (r : Reg) (i j k mid ctx : Nat) (s : Dev) : Nat × Dev :=
  if r.isNotice then s.regLoad r i j k mid ctx
  else match r.high?, r.low? with
    | some hi, _ => s.pairLow r hi i j mid
    | none, some lo => s.pairHigh r lo i j mid
    | none, none => s.regLoad r i j k mid ctx

/-- An aligned word write to register space at an offset. A push to a rink that is off goes to the job router in the fabric, as R110 has it for every
push, whatever R22 says of the page (DEDUCED: log entry 12). -/
def Dev.regWrite (mid ctx off v : Nat) (s : Dev) : Dev :=
  match s.regGate mid off true with
  | .page b n =>
    match findReg b.regs off with
    | none => s.misuse b n
    | some (r, i, j, k) => s.copyStore r i j k mid ctx v
  | .off =>
    match regAt off with
    | some (.RNK_PUSH, i, j, _) => s.pushWrite i j mid ctx v
    | _ => s.gateCount .off
  | g => s.gateCount g

/-- An aligned word read of register space at an offset; a reserved offset reads 0. -/
def Dev.regRead (mid ctx off : Nat) (s : Dev) : Nat × Dev :=
  match s.regGate mid off false with
  | .page b _ =>
    match findReg b.regs off with
    | none => (0, s)
    | some (r, i, j, k) => s.copyLoad r i j k mid ctx
  | g => (0, s.gateCount g)

/-- An access to register space that is no aligned word: refused at its block (R6). -/
def Dev.regBad (mid off : Nat) (write : Bool) (s : Dev) : Dev := s.gateCount (s.regGate mid off write)

/-! ### Accesses by physical address -/

/-- A read of `n` bytes. -/
def Dev.busRead (mid ctx a n : Nat) (s : Dev) : RdRes × Dev :=
  if rangeOf a = .regs then
    if n = 4 ∧ a % 4 = 0 then
      let (v, s) := s.regRead mid ctx (a - regBase)
      (⟨leBytes 4 v, false⟩, s)
    else (⟨leBytes n 0, false⟩, s.regBad mid (a - regBase) false)
  else s.physRead mid a n

/-- A write of bytes. -/
def Dev.busWrite (mid ctx a : Nat) (l : List Byte) (s : Dev) : Dev :=
  if rangeOf a = .regs then
    if l.length = 4 ∧ a % 4 = 0 then s.regWrite mid ctx (a - regBase) (leVal l)
    else s.regBad mid (a - regBase) true
  else s.physWrite mid a l

/-- A store that has waited in a buffer reaches its target, with the master ID and context of its maker. -/
def Dev.storeReach (c : Nat) (e : StoreE) (s : Dev) : Dev := s.busWrite (midOf c) (ctxIn c) e.pa (leBytes e.size e.value)

/-- The first `k` stores that engine `ge` has buffered leave in the order in which they were made (R24, R121). -/
def Dev.storesLeave (ge k : Nat) (s : Dev) : Dev :=
  let l := (s.engine ge).stores
  (s.updEng ge fun x => { x with stores := l.drop k }).each (l.take k) fun e s => s.storeReach e.ctx e

/-- Every store of an agent's engine has been acknowledged, as an access of the agent that follows them awaits (R24, R27, R121).
(DEDUCED: log entry 32.) -/
def Dev.settle (who : Agent) (s : Dev) : Dev :=
  match who.eng with
  | some ge => if (s.engine ge).stores.isEmpty then s else s.storesLeave ge (s.engine ge).stores.length
  | none => s

end Sys2Proof.Machine
end

