-- ==== Sys2Proof/Machine/PgfVer.lean ====
section
/-! DEFINITION. Pregaef programs: their layout (R431 to R433) and load-time verification (R434). -/

namespace Sys2Proof.Machine

/-- The list cut into pieces of `n` bytes; `fuel` bounds the pieces. -/
def chunks (n : Nat) : Nat → List Byte → List (List Byte)
  | 0, _ => []
  | _, [] => []
  | f + 1, l => l.take n :: chunks n f (l.drop n)

/-- Little-endian value of `n` bytes of a section from an offset. -/
def leAt (l : List Byte) (off n : Nat) : Nat := leVal ((l.drop off).take n)

/-- `n` words of a section from an offset. -/
def wordsAt (l : List Byte) (off n : Nat) : List Nat := (chunks 4 n (l.drop off)).map leVal

/-! ### Type codes (R432) -/

def tyBool : Nat := 0
def tyDint : Nat := 3
def tyUdint : Nat := 7
def tyReal : Nat := 13
def tyLreal : Nat := 14
def tyTime : Nat := 15

/-- Bits of an elementary type; BOOL counts as one bit (DESIGN CHOICE, log entry 20). -/
def tyBits (t : Nat) : Nat := [1, 8, 16, 32, 64, 8, 16, 32, 64, 8, 16, 32, 64, 32, 64, 64].getD t 32

/-- Whether an integer type is signed: SINT to LINT and TIME. -/
def tySigned (t : Nat) : Bool := (1 ≤ t && t ≤ 4) || t == tyTime

/-- Whether a type is REAL or LREAL. -/
def tyFloat (t : Nat) : Bool := t == tyReal || t == tyLreal

/-- Stack and data words of a type. -/
def tyWords (t : Nat) : Nat := if tyBits t = 64 then 2 else 1

/-- Bytes of a type in a slot. -/
def tyBytes (t : Nat) : Nat := (tyBits t + 7) / 8

/-- The function block codes. -/
def isFb (t : Nat) : Bool := 0x20 ≤ t && t ≤ 0x27

/-- Data words that an instance of a function block keeps: timers IN, Q, start time and ET; counters their previous count inputs and
CV; triggers M; and for the last two kinds whether the next execution is the first after a migration (DESIGN CHOICE, log entry 20). -/
def fbWords (t : Nat) : Nat :=
  match t with
  | 0x20 | 0x21 | 0x22 => 6
  | 0x23 | 0x24 => 3
  | 0x25 => 4
  | _ => 2

/-- Data words of one element of a symbol. -/
def symWords (t : Nat) : Nat := if isFb t then fbWords t else tyWords t

/-! ### Layout (R431, R432) -/

/-- A symbol entry. -/
structure Sym where
  id : Nat
  type : Nat
  zero : Nat
  count : Nat
  off : Nat
deriving DecidableEq, Repr, Inhabited

/-- The header of a program. -/
structure ProgHdr where
  magic : Nat
  version : Nat
  task : Nat
  zero : Nat
  progId : Nat
  codeWords : Nat
  constWords : Nat
  dataWords : Nat
  maxStack : Nat
  funcs : Nat
  iomap : Nat
  syms : Nat
deriving DecidableEq, Repr, Inhabited

/-- The header from its 32 bytes. -/
def progHdr (l : List Byte) : ProgHdr :=
  ⟨leAt l 0 4, leAt l 4 2, leAt l 6 1, leAt l 7 1, leAt l 8 4, leAt l 0xC 4, leAt l 0x10 4, leAt l 0x14 4, leAt l 0x18 2, leAt l 0x1A 2,
   leAt l 0x1C 2, leAt l 0x1E 2⟩

/-- Offsets of the tables in the program: I/O map, symbols, constants, code, end. -/
def ProgHdr.ioOff (h : ProgHdr) : Nat := 0x20 + 4 * h.funcs
def ProgHdr.symOff (h : ProgHdr) : Nat := h.ioOff + 8 * h.iomap
def ProgHdr.constOff (h : ProgHdr) : Nat := h.symOff + 12 * h.syms
def ProgHdr.codeOff (h : ProgHdr) : Nat := h.constOff + 4 * h.constWords
def ProgHdr.len (h : ProgHdr) : Nat := h.codeOff + 4 * h.codeWords

/-- The bytes that the program takes in partition 1: itself and, from the next multiple of 64 on, its data, with the four words that the runtime keeps
behind DATA_WORDS (DESIGN CHOICE, log entry 20): TT, the previous T0, and one unused (R437). -/
def ProgHdr.dataOff (h : ProgHdr) : Nat := roundUp h.len 64
def ProgHdr.span (h : ProgHdr) : Nat := roundUp (h.dataOff + 4 * h.dataWords + 16) 64

/-- One symbol entry from its 12 bytes. -/
def symOf (l : List Byte) : Sym := ⟨leAt l 0 4, leAt l 4 1, leAt l 5 1, leAt l 6 2, leAt l 8 4⟩

/-- Fields of an I/O map entry, from its word 0. -/
def ioSlot (w : Nat) : Nat := bits w 12 0
def ioOut (w : Nat) : Bool := bit w 13
def ioByte (w : Nat) : Nat := bits w 24 14
def ioBit (w : Nat) : Nat := bits w 27 25
def ioType (w : Nat) : Nat := bits w 31 28

/-- A program as the verifier reads it. -/
structure Prog where
  hdr : ProgHdr
  entries : List Nat
  io : List (Nat × Nat)
  syms : List Sym
  code : List Nat
deriving DecidableEq, Repr, Inhabited

/-- The program in a section. -/
def progOf (l : List Byte) : Prog :=
  let h := progHdr l
  { hdr := h, entries := wordsAt l 0x20 h.funcs,
    io := (chunks 8 h.iomap (l.drop h.ioOff)).map fun e => (leAt e 0 4, leAt e 4 4),
    syms := (chunks 12 h.syms (l.drop h.symOff)).map symOf, code := wordsAt l h.codeOff h.codeWords }

/-- The header is legal, and the tables lie within the section. -/
def Prog.hdrOk (p : Prog) (task len : Nat) : Bool :=
  let h := p.hdr
  h.magic == 0x31464750 && h.version == 1 && h.task == task && h.zero == 0 && 1 ≤ h.codeWords && h.codeWords ≤ 1048576
    && h.constWords ≤ 1048576 && 1 ≤ h.maxStack && h.maxStack ≤ 16384 && 1 ≤ h.funcs && h.funcs ≤ 1024 && h.iomap ≤ 16383 && h.len ≤ len

/-! ### One word (R433, R434 point 1) -/

/-- OPCODE and OPERAND of a word. -/
def pgOp (w : Nat) : Nat := w % 256
def pgArg (w : Nat) : Int := signed 24 (w / 256)

/-- Whether a type is legal for an operation marked "t" (DESIGN CHOICE, log entry 20: those for which R436 gives a result). -/
def tyLegal (op t : Nat) : Bool :=
  t < 16 && match op with
    | 0x14 => t != tyBool && !tyFloat t
    | 0x10 | 0x11 | 0x12 | 0x13 | 0x15 | 0x16 | 0x17 | 0x18 => t != tyBool
    | 0x19 | 0x1A | 0x1B | 0x1C => !tyFloat t
    | 0x1D | 0x1E | 0x1F | 0x20 => t != tyBool && !tyFloat t
    | 0x28 => tyFloat t
    | _ => true

/-- The operand lies below a limit. -/
def below (a : Int) (n : Nat) : Bool := 0 ≤ a && a < n

/-- A word is legal (R434 point 1): opcode listed, type legal, operand in range. -/
def Prog.wordOk (p : Prog) (w : Nat) : Bool :=
  let op := pgOp w
  let a := pgArg w
  let h := p.hdr
  let u := w / 256
  if op ≤ 1 ∨ (0xB ≤ op ∧ op ≤ 0xF) ∨ (0x30 ≤ op ∧ op ≤ 0x32) ∨ op = 0x34 ∨ op = 0x35 then true
  else if op = 2 then below a h.constWords
  else if op = 3 then below (a + 1) h.constWords && 0 ≤ a
  else if op = 4 ∨ op = 5 then below a h.dataWords
  else if op = 6 ∨ op = 7 then below (a + 1) h.dataWords && 0 ≤ a
  else if op = 8 then below a h.iomap && !ioOut (p.io.getD a.toNat (0, 0)).1
  else if op = 9 then below a h.iomap && ioOut (p.io.getD a.toNat (0, 0)).1
  else if op = 0xA then below a h.iomap
  else if (0x10 ≤ op ∧ op ≤ 0x26) ∨ op = 0x28 then tyLegal op (u % 256)
  else if op = 0x27 then u % 256 < 16 && u / 256 % 256 < 16
  else if op = 0x29 then tyFloat (u % 256) && u / 256 % 256 < 16 && u / 256 % 256 != tyBool && !tyFloat (u / 256 % 256)
  else if op = 0x33 then below a h.funcs
  else if op = 0x38 then below a h.syms && isFb (p.syms.getD a.toNat default).type
  else false

/-! ### The stack (R434 points 2 to 4) -/

/-- The type of a stack word: none for a word taken as it stands from constants or data. -/
abbrev Ty := Option Nat

/-- The stack words of a type. -/
def tyPush (t : Nat) : List Ty := List.replicate (tyWords t) (some t)

/-- Stack words that a function block pops, and what it pushes, last pushed first (R438). -/
def fbStack (t : Nat) : Nat × List Ty :=
  match t with
  | 0x20 | 0x21 | 0x22 => (3, tyPush tyTime ++ [some tyBool])
  | 0x23 | 0x24 => (3, [some tyDint, some tyBool])
  | 0x25 => (5, [some tyDint, some tyBool, some tyBool])
  | _ => (1, [some tyBool])

/-- The type that OUT converts from: that of the words on the stack, or that of the entry where they bear none. (DEDUCED: log entry 33.) -/
def outSrc (io : Nat) (st : List Ty) : Nat := (st.headD none).getD io

/-- What a word does to the stack: words popped, and words pushed in their place, from the stack as it stands, top first, by the types
of I/O entries and symbols. CALL, jumps and ends are followed elsewhere. -/
def wordEffect (ioTy symTy : Nat → Nat) (w : Nat) (st : List Ty) : Nat × List Ty :=
  let op := pgOp w
  let k := (pgArg w).toNat
  let t := w / 256 % 256
  let n := tyWords t
  match op with
  | 1 | 2 | 4 => (0, [none])
  | 3 | 6 => (0, [none, none])
  | 5 => (1, [])
  | 7 => (2, [])
  | 8 => (0, tyPush (ioTy k))
  | 9 => (tyWords (outSrc (ioTy k) st), [])
  | 0xA => (0, [none])
  | 0xB => (0, tyPush tyTime)
  | 0xC => (1, st.take 1 ++ st.take 1)
  | 0xD => (1, [])
  | 0xE => (2, (st.take 2).reverse)
  | 0xF => (2, st.take 2 ++ st.take 2)
  | 0x10 | 0x11 | 0x12 | 0x13 | 0x14 | 0x17 | 0x18 | 0x19 | 0x1A | 0x1B => (2 * n, tyPush t)
  | 0x15 | 0x16 | 0x1C | 0x28 => (n, tyPush t)
  | 0x1D | 0x1E | 0x1F | 0x20 => (n + 1, tyPush t)
  | 0x21 | 0x22 | 0x23 | 0x24 | 0x25 | 0x26 => (2 * n, [some tyBool])
  | 0x27 | 0x29 => (n, tyPush (w / 256 / 256 % 256))
  | 0x31 | 0x32 => (1, [])
  | 0x38 => fbStack (symTy k)
  | _ => (0, [])

/-- What a word of a program does to the stack. -/
def Prog.effect (p : Prog) (w : Nat) (st : List Ty) : Nat × List Ty :=
  wordEffect (fun k => ioType (p.io.getD k (0, 0)).1) (fun k => (p.syms.getD k default).type) w st

/-- The words of function `f`: from its entry word up to the next entry of the table (DESIGN CHOICE, log entry 20). -/
def Prog.extent (p : Prog) (f : Nat) : Nat × Nat :=
  let a := p.entries.getD f 0
  (a, (p.entries.filter (a < ·)).foldl min p.hdr.codeWords)

/-- Point 2 for the jump at word `i`, reached by some path or not: its target lies in the function that the word lies in. -/
def Prog.jumpOk (p : Prog) (i : Nat) : Bool :=
  let w := p.code.getD i 0
  let lo := (p.entries.filter (· ≤ i)).foldl max 0
  let hi := (p.entries.filter (i < ·)).foldl min p.hdr.codeWords
  !(0x30 ≤ pgOp w && pgOp w ≤ 0x32) || ((lo : Int) ≤ i + pgArg w && i + pgArg w < hi)

/-- What the verifier knows of a function: the words that it leaves on the stack, and the depth that it reaches. -/
abbrev FnRes := Option (List Ty × Nat)

/-- Where control goes from word `i` of a function with stack `st`: the words that follow with their stacks, the depth reached, and the
stack at an end. `none` refuses the program. -/
def Prog.follow (p : Prog) (f : Nat) (known : List FnRes) (i : Nat) (st : List Ty) : Option (List (Nat × List Ty) × Nat × Option (List Ty)) :=
  let w := p.code.getD i 0
  let op := pgOp w
  let (pop, push) := p.effect w st
  let st' := push ++ st.drop pop
  let (lo, hi) := p.extent f
  let tgt (j : Int) : Option Nat := if lo ≤ j ∧ j < hi then some j.toNat else none
  if st.length < pop then none
  else if op = 0x34 then if f = 0 then none else some ([], st.length, some st)
  else if op = 0x35 then if f = 0 then some ([], st.length, some st) else none
  else if op = 0x30 then (tgt (i + pgArg w)).map fun j => ([(j, st)], st.length, none)
  else
    match tgt (i + 1) with
    | none => none
    | some n =>
      if op = 0x31 ∨ op = 0x32 then (tgt (i + pgArg w)).map fun j => ([(j, st'), (n, st')], st.length, none)
      else if op = 0x33 then
        match known.getD (pgArg w).toNat none with
        | none => none
        | some (l, d) => some ([(n, l ++ st)], st.length + d, none)
      else some ([(n, st')], max st.length st'.length, none)

/-- The stacks found at the words of a function. -/
abbrev Seen := List (Nat × List Ty)

/-- Follows every path of a function. `fuel` bounds the steps: each word is entered once, from at most two others. -/
def Prog.paths (p : Prog) (f : Nat) (known : List FnRes) : Nat → List (Nat × List Ty) → Seen → Nat → Option (List Ty) → FnRes
  | 0, _, _, _, _ => none
  | _, [], _, d, r => r.map fun l => (l, d)
  | fuel + 1, (i, st) :: todo, seen, d, r =>
    match seen.lookup i with
    | some st0 => if st0 = st then p.paths f known fuel todo seen d r else none
    | none =>
      match p.follow f known i st with
      | none => none
      | some (next, k, ret) =>
        match r, ret with
        | some a, some b => if a = b then p.paths f known fuel (next ++ todo) ((i, st) :: seen) (max d k) r else none
        | none, some b => p.paths f known fuel (next ++ todo) ((i, st) :: seen) (max d k) (some b)
        | r, none => p.paths f known fuel (next ++ todo) ((i, st) :: seen) (max d k) r

/-- Functions that the words of function `f` call. -/
def Prog.calls (p : Prog) (f : Nat) : List Nat :=
  let (lo, hi) := p.extent f
  (((p.code.drop lo).take (hi - lo)).filter fun w => pgOp w == 0x33).map fun w => (pgArg w).toNat

/-- One function by what is known of the others. A function without an end on any path leaves nothing. -/
def Prog.fnRes (p : Prog) (known : List FnRes) (f : Nat) : FnRes :=
  let (lo, hi) := p.extent f
  if lo < hi then p.paths f known (4 * p.hdr.codeWords + 4) [(lo, [])] [] 0 none else none

/-- A round over all functions: those whose callees are known become known. -/
def Prog.round (p : Prog) (known : List FnRes) : List FnRes :=
  (List.range p.hdr.funcs).map fun f =>
    match known.getD f none with
    | some r => some r
    | none => if (p.calls f).all fun g => g != 0 && (known.getD g none).isSome then p.fnRes known f else none

/-- Everything known after `n` rounds. -/
def Prog.rounds (p : Prog) : Nat → List FnRes → List FnRes
  | 0, k => k
  | n + 1, k => p.rounds n (p.round k)

/-- Points 2 to 4: every function is followed to its end without a cycle of calls, within MAX_STACK. -/
def Prog.flowOk (p : Prog) : Bool :=
  (p.rounds p.hdr.funcs (List.replicate p.hdr.funcs none)).all fun r =>
    match r with
    | some (_, d) => d ≤ p.hdr.maxStack
    | none => false

/-! ### Entries and symbols (R434 points 5 and 6) -/

/-- What the verifier needs of a slot: OWNED, TASK, LEN; none where it does not exist. -/
abbrev SlotInfo := Nat → Option (Bool × Nat × Nat)

/-- Point 5 for one entry, and for an output the bound of point 1 on its data word. -/
def ioOk (slots : SlotInfo) (task dataWords : Nat) (e : Nat × Nat) : Bool :=
  let w := e.1
  (!ioOut w || e.2 + tyWords (ioType w) ≤ dataWords) && match slots (ioSlot w) with
  | none => false
  | some (owned, t, len) => owned && t == task && (ioSlot w % 2 == 1) == ioOut w && ioByte w + tyBytes (ioType w) ≤ len

/-- Point 6 for one symbol. -/
def symOk (dataWords : Nat) (y : Sym) : Bool :=
  y.zero == 0 && (y.type < 16 || isFb y.type) && 1 ≤ y.count && y.off + y.count * symWords y.type ≤ dataWords

/-- Whether the storage of two symbols overlaps. -/
def symMeet (x y : Sym) : Bool := x.off < y.off + y.count * symWords y.type && y.off < x.off + x.count * symWords x.type

/-- No two elements of a list meet. -/
def noMeet {α : Type} (meet : α → α → Bool) : List α → Bool
  | [] => true
  | x :: t => t.all (fun y => !meet x y) && noMeet meet t

/-- Load-time verification (R434): the section's bytes, its TARGET, the slots, and the stack that an exchange package must keep, as
OFFSET and SIZE. -/
def pgVerify (slots : SlotInfo) (keep : Option (Nat × Nat)) (target : Nat) (l : List Byte) : Bool :=
  let p := progOf l
  let off := 4 * bits target 29 16
  let size := 4 * p.hdr.maxStack
  p.hdrOk (target % 16) l.length && p.code.all p.wordOk && (List.range p.hdr.codeWords).all p.jumpOk && p.flowOk && off + size ≤ 0x10000 && (keep.all fun k => k == (off, size))
    && p.io.all (ioOk slots p.hdr.task p.hdr.dataWords) && p.syms.all (symOk p.hdr.dataWords) && noMeet symMeet p.syms && (p.syms.map Sym.id).Nodup

end Sys2Proof.Machine
end

