-- ==== Sys2Proof/Machine/ImgOps.lean ====
section
/-! DEFINITION. The Lamade image: its header, section table and structural checks (R49 to R57, R59, R73, R76, R96, R304, R371,
R375, R382, R413, R430, R493). -/

namespace Sys2Proof.Machine

/-! ### Bytes and fields -/

/-- The pieces of `n` bytes of a whole list. -/
def pieces (n : Nat) (l : List Byte) : List (List Byte) := chunks n l.length l

/-- The 32-bit words of a section. -/
def secWords (l : List Byte) : List Nat := (pieces 4 l).map leVal

/-- Section types of R53. -/
def tResource : Nat := 1
def tPartition : Nat := 2
def tDomain : Nat := 3
def tRegseq : Nat := 4
def tPatrolFw : Nat := 5
def tEngineFw : Nat := 6
def tOverlay : Nat := 7
def tPregaef : Nat := 8
def tStation : Nat := 9
def tSlalom : Nat := 0xA
def tCanmatrix : Nat := 0xB
def tBlade : Nat := 0xC
def tWindow : Nat := 0xD
def tSafe : Nat := 0xE
def tData : Nat := 0xF
def tGrant : Nat := 0x10

/-- ENC and OPTIONAL. -/
def Section.enc (x : Section) : Bool := bit x.flags 0
def Section.optional (x : Section) : Bool := bit x.flags 1

/-- `n` bytes of the flash from address `a` up; a byte beyond those given is that of an erased flash, 0xFF (DESIGN CHOICE: log entry 38). -/
def Flash.read (f : Flash) (a n : Nat) : List Byte :=
  let l := (f.bytes.drop a).take n
  l ++ List.replicate (n - l.length) 0xFF#8

/-- Entry `i` of the section table with the bytes that it names (R51); of an entry that reaches beyond the longest image none are read. -/
def Flash.sectionAt (f : Flash) (i : Nat) : Section :=
  let e := f.read (0x40 + 16 * i) 16
  let off := leAt e 4 4
  let len := leAt e 8 4
  ⟨leAt e 0 2, leAt e 2 2, off, len, leAt e 12 4, if off + len ≤ 0x2000000 then f.read off len else []⟩

/-- The image in a flash: header, section table, digest of what the signature covers, and signature (R51, R52). -/
def Flash.image (f : Flash) : Image :=
  let h := f.read 0 0x440
  let len := leAt h 8 4
  let count := leAt h 12 4
  { sfdp := f.sfdp, magic := leAt h 0 4, format := leAt h 4 2, imageLen := len, secCount := count, rollback := leAt h 0x10 4,
    targetMode := leAt h 0x14 1, buildId := leAt h 0x20 8,
    reservedZero := leAt h 6 2 == 0 && leAt h 0x15 11 == 0 && leAt h 0x28 24 == 0 && (h.drop (0x40 + 16 * count)).all (· == 0#8),
    sections := (List.range (min 64 count)).map f.sectionAt,
    digest := sha384 (f.read 0 (len - 96)), sig := beVal (f.read (len - 96) 96) }

/-- Bytes of the section in clear: without the IV and the tag of an encrypted section (R51). -/
def Section.clearLen (x : Section) : Nat := if x.enc then x.length - 28 else x.length

/-- The key of an encrypted section, from K_IMG and the section's table index (R66): the label is "SEC". -/
def secKey (img i : Nat) : Nat := kdfKey img [0x53#8, 0x45#8, 0x43#8] (Config.numBytes 2 i)

/-- A section in clear, where its tag verifies under its key (R51, R69); without a K_IMG no encrypted section has one (R67). -/
def Section.clear (img : Option Nat) (i : Nat) (x : Section) : Option Section :=
  if !x.enc then some x
  else match img with
    | none => none
    | some k => (gcmOpen (secKey k i) x.data).map fun l => { x with data := l }

/-- The sections in clear from table index `i` on, where every tag verifies. -/
def clearAll (img : Option Nat) : Nat → List Section → Option (List Section)
  | _, [] => some []
  | i, x :: t => (x.clear img i).bind fun y => (clearAll img (i + 1) t).map (y :: ·)

/-- An image in clear, where every tag verifies. -/
def Image.clear (img : Option Nat) (im : Image) : Option Image := (clearAll img 0 im.sections).map fun l => { im with sections := l }

/-- The sections of a type, in table order (R54). -/
def Image.ofType (im : Image) (t : Nat) : List Section := im.sections.filter fun x => x.type == t

/-- The bytes of the first section of a type. -/
def Image.dataOf (im : Image) (t : Nat) : List Byte := ((im.ofType t).head?.map fun x => x.data).getD []

/-! ### REGSEQ (R59) -/

/-- The records that are read: those up to the first END. -/
def recsRead : List RegRec → List RegRec
  | [] => []
  | r :: t => if r.op = 5 then [r] else r :: recsRead t

/-- The records of a REGSEQ section. -/
def Section.records (x : Section) : List RegRec := recsRead ((pieces 16 x.data).map recOf)

/-- Whether a record is legal: an opcode of R59, PARAM 1 to 65,535 for a POLL. -/
def RegRec.legal (r : RegRec) : Bool := 1 ≤ r.op && r.op ≤ 5 && (r.op != 3 || r.param != 0)

/-- The record is kept for the RINK resets of some rink (R109). -/
def RegRec.kept (r : RegRec) : Bool := r.op != 5 && (List.range 8).any fun n => r.inRink n

/-- The records that the image keeps. -/
def Image.keptRecs (im : Image) : List RegRec :=
  (im.ofType tRegseq).flatMap fun x => x.records.filter RegRec.kept

/-! ### Stations (R382) -/

/-- A station entry from its 32 bytes. -/
def stationOf (l : List Byte) : Station :=
  ⟨leAt l 0 1, leAt l 1 1, leAt l 2 2, leAt l 4 4, leAt l 8 2, leAt l 10 2, leAt l 12 2, leAt l 14 1, leAt l 15 1, leAt l 16 4, leAt l 20 4⟩

/-- The stations of an image, by index. -/
def Image.stations (im : Image) : List Station := (pieces 32 (im.dataOf tStation)).map stationOf

/-- An instance record from its 64 bytes (R376). -/
def instOf (l : List Byte) : InstRec :=
  ⟨leAt l 0 1, leAt l 1 1, leAt l 2 1, leAt l 3 1, leAt l 4 1, leAt l 5 1, leAt l 6 1, leAt l 7 1, leAt l 8 1, leAt l 9 1, leAt l 10 1,
   leAt l 12 4, leAt l 16 8, leAt l 24 4, (l.drop 32).take 32⟩

/-- The instance records of an image: those of the first DATA section that names partition 3 (R376). (DEDUCED: log entry 28.) -/
def Image.insts (im : Image) : List InstRec :=
  match (im.ofType tData).find? fun x => x.target % 8 == 3 with
  | some x => ((pieces 64 x.data).filter fun l => l.length == 64).map instOf
  | none => []

/-- Tasks for which the image holds a program (R413). -/
def Image.tasks (im : Image) : List Nat := (im.ofType tPregaef).map fun x => x.target % 16

/-- A task byte is legal for a slot of `len` bytes (R382). -/
def taskByteOk (tasks : List Nat) (b len : Nat) : Bool := !bit b 7 || (len != 0 && tasks.contains (b % 16))

/-- Whether a station entry is legal (R382). -/
def stationOk (all : List Station) (tasks : List Nat) (x : Station) : Bool :=
  x.inLen ≤ 1480 && x.outLen ≤ 1480 && (!x.gateway || ((all[x.src]?).map fun y => y.pers != 0).getD false)
    && taskByteOk tasks x.inTask x.inLen && taskByteOk tasks x.outTask x.outLen

/-! ### Register words of SLALOM sections (R304) -/

/-- Whether a word holds only legal values for a register. -/
def Reg.legalWord (r : Reg) (v : Nat) : Bool := r.info.fields.all fun f => f.legal.ok (bits v f.hi f.lo)

/-- The register to which word `k` of a SLALOM section belongs, and its gate. -/
def slalomReg (k : Nat) : Reg × Nat :=
  match k with
  | 0 => (.SLM_BANK_CYCLE, 0)
  | 1 => (.SLM_BANK_INFO, 0)
  | 2 => (.SLM_BANK_SYNC, 0)
  | k + 3 => ([Reg.SLM_GATE_W0, .SLM_GATE_OFF_A, .SLM_GATE_OFF_B, .SLM_GATE_W3].getD (k % 4) .SLM_GATE_W0, k / 4)

/-- The length rule of a SLALOM section (R304). -/
def slalomLen (l : List Byte) : Bool := 12 ≤ l.length && l.length == 12 + 16 * bits (leAt l 4 4) 8 0

/-- Every word of a SLALOM section is legal (R304). -/
def slalomLegal (l : List Byte) : Bool := (secWords l).zipIdx.all fun (v, k) => (slalomReg k).1.legalWord v

/-! ### Placement (R56, R96, R167, R493) -/

/-- BANKS_i of the PARTITION section (R167). -/
def Image.banks (im : Image) (i : Nat) : Nat := leAt (im.dataOf tPartition) (2 * i) 2

/-- Banks of partitions 0 to 6 together. -/
def Image.bankSum (im : Image) : Nat := ((List.range 7).map im.banks).sum

/-- Bytes of the reload region: firmware copies and kept records (R55, R56, R109). -/
def Image.reloadLen (im : Image) : Nat := ((im.ofType tEngineFw).map fun x => x.data.length).sum + 16 * im.keptRecs.length

/-- Partition and byte offset of an OVERLAY or DATA section (R56). -/
def Section.part (x : Section) : Nat := x.target % 8
def Section.place (x : Section) : Nat := bits x.target 28 8 * 64

/-- The size of a partition in bytes, with `working` banks (R167). -/
def Image.partSize (im : Image) (working p : Nat) : Nat := (if p = 7 then working - im.bankSum else im.banks p) * 0x80000

/-- Whether a placement is legal by itself (R56). -/
def Image.placeOk (im : Image) (working : Nat) (x : Section) : Bool :=
  let p := x.part
  let size := im.partSize working p
  let top := if p = 3 then size - im.reloadLen else size
  (p == 3 || (p == 7 && x.type == tData)) && bits x.target 7 3 == 0 && bits x.target 31 29 == 0
    && x.place + x.data.length ≤ top && (p != 3 || 0x1000 ≤ x.place)

/-- Whether two placements overlap. -/
def placeMeet (x y : Section) : Bool :=
  x.part == y.part && x.place < y.place + y.data.length && y.place < x.place + x.data.length

/-- Whether two intervals of the flash overlap. -/
def tableMeet (x y : Section) : Bool := x.offset < y.offset + y.length && y.offset < x.offset + x.length

/-- The placed sections. -/
def Image.placed (im : Image) : List Section := im.sections.filter fun x => x.type == tOverlay || x.type == tData

/-- The firmware of rink `n` fits its instruction memories (R96). -/
def Image.fwFits (im : Image) (n : Nat) : Bool :=
  (((im.ofType tEngineFw).filter fun x => bit x.rinks n).map fun x => x.data.length).sum ≤ 0x10000

/-- ON and CLK_MHZ of the DOMAIN section (R493). -/
def Image.domOn (im : Image) : Nat := leAt (im.dataOf tDomain) 0 2
def Image.clk (im : Image) (n : Nat) : Nat := leAt (im.dataOf tDomain) (4 + 2 * n) 2

/-- A domain of the ON mask has the domain it needs (R28). -/
def onNeeds (on b : Nat) : Bool :=
  !bit on b || match (domOfBit b).needs with
    | .swc => bit on 8
    | _ => true

/-- The DOMAIN section is legal (R493). -/
def Image.domainOk (im : Image) : Bool :=
  let l := im.dataOf tDomain
  l.length == 20 && im.domOn < 2 ^ 13 && leAt l 2 2 == 0 && (List.range 8).all (fun n => 100 ≤ im.clk n && im.clk n ≤ 1250)
    && (List.range 13).all (onNeeds im.domOn) && (im.targetMode != 2 || bit im.domOn 11)

/-- The RESOURCE section is legal (R57). A value out of range or a non-zero reserved byte is no structure of this format: cause 0x3 (DESIGN
CHOICE: log entry 29). -/
def Image.resourceOk (im : Image) : Bool :=
  let l := im.dataOf tResource
  l.length == 16 && leAt l 0 2 ≤ 256 && leAt l 3 1 == 0 && leAt l 15 1 == 0 && leAt l 12 2 < 2 ^ 10
    && (List.range 8).all fun n => leAt l (4 + n) 1 ≤ 8

/-- The PARTITION section is legal (R167). -/
def Image.partitionOk (im : Image) : Bool :=
  let l := im.dataOf tPartition
  l.length == 16 && leAt l 14 2 == 0 && (List.range 7).all fun i => im.banks i ≤ 256

/-- Targets whose reserved bits or range the tables fix (R53, R375, R413). -/
def targetOk (x : Section) : Bool :=
  if x.type = tEngineFw then bits x.target 31 24 == 0 && bits x.target 15 12 == 0
  else if x.type = tPregaef then bits x.target 7 4 == 0 && bits x.target 15 14 == 0 && bits x.target 31 30 == 0
  else if x.type = tCanmatrix ∨ x.type = tBlade then x.target < 8
  else true

/-- The lengths that the chapters fix. -/
def lengthOk (x : Section) : Bool :=
  if x.type = tSlalom then slalomLen x.data
  else if x.type = tBlade then x.data.length == 96
  else if x.type = tWindow then x.data.length % 16 == 0 && x.data.length ≤ 256
  else if x.type = tGrant then x.data.length == 256
  else if x.type = tStation then x.data.length % 32 == 0 && x.data.length ≤ 4096 * 32
  else if x.type = tPatrolFw then x.data.length ≤ 0x200000
  else true

/-! ### The checks in their order (R49, R68, R71) -/

/-- How many sections of each type an image may hold: least and most (R53). -/
def countRule : List (Nat × Nat × Nat) :=
  [(tResource, 1, 1), (tPartition, 1, 1), (tDomain, 1, 1), (tRegseq, 0, 16), (tPatrolFw, 1, 1), (tEngineFw, 0, 16), (tOverlay, 0, 32),
   (tPregaef, 0, 16), (tStation, 0, 1), (tSlalom, 0, 2), (tCanmatrix, 0, 8), (tBlade, 0, 8), (tWindow, 0, 1), (tSafe, 0, 1), (tData, 0, 32),
   (tGrant, 0, 1)]

/-- The counts hold (R53). -/
def Image.countsOk (im : Image) : Bool := countRule.all fun (t, lo, hi) => lo ≤ (im.ofType t).length && (im.ofType t).length ≤ hi

/-- One section per controller, group or task (R53, R413). -/
def Image.oncePer (im : Image) (t m : Nat) : Bool := ((im.ofType t).map fun x => x.target % m).Nodup

/-- The header is in range (R51). -/
def Image.headerOk (im : Image) : Bool :=
  im.imageLen % 64 == 0 && 4096 ≤ im.imageLen && im.imageLen ≤ 33554432 && 1 ≤ im.secCount && im.secCount ≤ 64
    && 1 ≤ im.targetMode && im.targetMode ≤ 3 && im.reservedZero

/-- The section table is in range, and no two sections overlap (R51). -/
def Image.tableOk (im : Image) : Bool :=
  im.sections.all (fun x => x.offset % 64 == 0 && 0x440 ≤ x.offset && x.offset + x.length ≤ im.imageLen - 96 && x.flags < 4
      && (!x.enc || 28 ≤ x.length)) && noMeet tableMeet im.sections

/-- Structural cause 0x7: an unknown type without OPTIONAL (R53). (DEDUCED: log entry 29.) -/
def Image.unknown (im : Image) : Bool := im.sections.any fun x => (x.type == 0 || tGrant < x.type) && !x.optional

/-- Structural cause 0x8 (R53, R59, R304, R375, R382, R413). (DEDUCED: log entry 29.) -/
def Image.structureOk (im : Image) : Bool :=
  let fw := im.ofType tEngineFw
  im.countsOk && im.oncePer tCanmatrix (2 ^ 32) && im.oncePer tBlade (2 ^ 32) && im.oncePer tPregaef 16
    && (fw.map Section.fwid).Nodup && ((fw.map Section.pers).filter (· != 0)).Nodup && fw.all (fun x => x.pers ≤ 0xC)
    && (im.ofType tRegseq).all (fun x => (x.target == 5 || x.target == 8) && x.data.length % 16 == 0 && x.records.all RegRec.legal)
    && im.stations.all (stationOk im.stations im.tasks)
    && (im.ofType tSlalom).all (fun x => !slalomLen x.data || slalomLegal x.data)

/-- Structural cause 0x3 (R56, R73, R76, R96, R167, R304, R371, R493). (DEDUCED: log entry 29.) -/
def Image.shapeOk (im : Image) (working : Nat) : Bool :=
  im.resourceOk && im.partitionOk && im.domainOk && im.sections.all targetOk && im.sections.all lengthOk
    && (List.range 8).all im.fwFits && im.placed.all (im.placeOk working) && noMeet placeMeet im.placed

/-- The slots by the STATION section, as the verifier asks for them (R382, R415, R434). -/
def Image.slotInfo (im : Image) (n : Nat) : Option (Bool × Nat × Nat) :=
  match im.stations[n / 2]? with
  | none => none
  | some x =>
    let len := if n % 2 = 1 then x.outLen else x.inLen
    let b := if n % 2 = 1 then x.outTask else x.inTask
    if x.pers = 0 ∨ len = 0 then none else some (bit b 7, b % 16, len)

/-- The first key slot, programmed and not revoked, against which the signature of an image verifies (R52, R68). -/
def Dev.keySlot (s : Dev) (im : Image) : Option Nat := s.vlt.verifier im.digest im.sig

/-- No image is accepted: the device is BLANK, or no key slot is unrevoked (R68, R71). -/
def VltSt.rejectsAll (v : VltSt) : Bool := v.lifecycle == 0 || v.live 0 == 0

/-- The cause for which an image, as read, is rejected in phase 2, or 0 (R49). (DEDUCED: log entry 29.) -/
def Dev.imageCause (s : Dev) (im : Image) : Nat :=
  if s.vlt.rejectsAll then 5
  else if !im.sfdp then 1
  else if im.magic ≠ 0x45444D4C ∨ im.format ≠ 3 then 2
  else if !im.headerOk || !im.tableOk then 3
  else if im.rollback < s.vlt.rollback then 4
  else match im.clear s.vlt.kImg with
  | none => 6
  | some c =>
    if (s.keySlot im).isNone then 5
    else if c.unknown then 7
    else if !c.structureOk then 8
    else if !c.shapeOk (s.fld .SMF_STATUS_WORKING) then 3
    else if (c.ofType tPregaef).any fun x => !pgVerify c.slotInfo none x.target x.data then 0xA
    else 0

end Sys2Proof.Machine
end

