-- ==== Sys2Proof/Machine/BootOps.lean ====
section
/-! DEFINITION. The boot phases (R45 to R62, R73 to R76, R107, R167, R168, R178, R304, R371, R413, R415, R430, R445, R493,
R498). -/

namespace Sys2Proof.Machine

/-- The boot stands before phase `n`. -/
def Dev.bootAt (s : Dev) (n : Nat) : Bool :=
  s.sys.fabOn && s.sys.resetRun.isNone && !s.sys.lockdown && s.sys.bootMode != .done && s.boot.next == n

/-- The phase that the boot runs, and the one that follows when it is complete. -/
def Dev.phase (n next : Nat) (s : Dev) : Dev :=
  let s := (s.setFld .BOOT_STATUS_PHASE n).updBoot fun b => { b with next := next }
  if s.sys.bootMode = .start then (s.updSys fun x => { x with bootMode := .selfTest }).modeUpdate else s

/-- The boot ends without a running mode: Hold with every transmitter idle (R48, R62). -/
def Dev.bootStop (result : Nat) (s : Dev) : Dev :=
  let s := (s.setFld .BOOT_STATUS_RESULT result).updBoot fun b => { b with next := 10, seq := [], rollback := 0 }
  (s.updSys fun x => { x with bootMode := .done }).holdEnter.modeUpdate

/-- A domain is switched on by the boot. -/
def Dev.domBoot (b : Nat) (s : Dev) : Dev := (s.setReg .PWR_DOM_CTRL (putBit (s.reg .PWR_DOM_CTRL) b true)).domPower b

/-- A domain is switched off by the boot. -/
def Dev.domUnboot (b : Nat) (s : Dev) : Dev :=
  (s.setReg .PWR_DOM_CTRL (putBit (s.reg .PWR_DOM_CTRL) b false)).when (bit (s.reg .PWR_DOM_STAT) b) (Dev.domDrop b)

/-! ### Phase 1 (R178 to R180, R498, R530) -/

/-- The test of one bank with its failing cells, on top of its factory fuses: repaired or mapped out, and zero-filled. (DESIGN CHOICE: log entry 6.) -/
def Dev.marchBank (b : Nat) (f : Fails) (s : Dev) : Dev :=
  let s := (s.setFld .GRM_BANK_ROWS_USED (s.sys.fuses.get b).1 b).setFld .GRM_BANK_COLS_USED (s.sys.fuses.get b).2 b
  let (res, s) := s.repair b f
  if res = 4 then s else (s.zeroBank b).setBankState b 1

/-- The failing cells that a report gives for a bank. -/
def failsOf (l : List (Nat × Fails)) (b : Nat) : Fails := (l.filter fun p => p.1 == b).flatMap (·.2)

/-- The Vault draws the nonce for the next Provisioning request (R71). -/
def Dev.newNonce (s : Dev) : Dev :=
  let (k, s) := s.fresh
  s.updVlt fun v => { v with nonce := some (k % 2 ^ 256) }

/-- Phase 1: banks kept by Retention are switched on untested; the others are tested, repaired or mapped out. A boot that enters Provisioning switches
PD_HOST on, since its requests come through the host interface; only phase 2, which it does not reach, is said to (DESIGN CHOICE: log entry 29). -/
def Dev.march (fails : List (Nat × Fails)) (s : Dev) : Dev :=
  if !s.bootAt 1 then s
  else
    let kept := if s.sys.resume then s.sys.keptBanks else []
    let s := (s.phase 1 2).setFld .SMF_STATUS_WORKING 256
    let s := s.each kept fun b s => s.setBankState b 1
    let s := s.each ((List.range 256).filter fun b => !kept.contains b) fun b s => s.marchBank b (failsOf fails b)
    let new := (List.range 256).any fun b => s.flag .GRM_BANK_MAPPED b && !s.sys.mappedBefore.contains b
    let s := if s.sys.resume && new then
        ((s.each kept fun b s => s.zeroBank b).setFld .SYS_RESET_CAUSE_CAUSE 5).updSys fun x => { x with resume := false }
      else s
    if s.fld .BOOT_STRAP_BOOT_SEL = 2 then
      let s := (s.domBoot 11).setFld .BOOT_STATUS_RESULT 3
      (((s.updBoot fun b => { b with next := 10 }).updSys fun x => { x with bootMode := .provisioning }).modeUpdate).newNonce
    else s

/-- K_IMG as OTP_WIMG holds it: 60 bytes, IV, what is encrypted, tag (R66, R67; their order is DEDUCED from R51: log entry 31). -/
def unwrapKey (duk wimg : Nat) : Option Nat := (gcmOpen duk (beBytes 60 wimg)).map beVal
def wrapKey (duk iv img : Nat) : Nat := beVal (gcmSeal duk iv (beBytes 32 img))

/-- The keys that the Vault derives at a boot (R66): DUK, whose context is the serial number, and K_IMG where OTP_WIMG unwraps (R67). -/
def Dev.bootKeys (s : Dev) : KeyRegs :=
  let puf := Config.pufRoot s.vlt.otp.helper
  let duk := kdfKey (Config.rootKey puf s.vlt.otp.seed) (Config.kdfLabel 0) (Config.numBytes 3 s.sys.serial)
  { puf := puf, duk := duk, img := s.vlt.wimg.bind (unwrapKey duk), sec := [], tdm := none, cak := [] }

/-- The Vault's keys are ready (R45, R66, R67). KEYS_READY is set too where OTP_WIMG is unprogrammed or fails its check and K_IMG is absent:
the boot goes on without K_IMG (DESIGN CHOICE: log entry 31). -/
def Dev.keysDone (s : Dev) : Dev :=
  if !s.sys.fabOn || s.sys.resetRun.isSome || s.sys.lockdown || s.vlt.seedBad then s
  else (s.updVlt fun v => { v with keyRegs := some s.bootKeys }).setFlag .VLT_STATUS_KEYS_READY true

/-! ### Phase 2 (R44, R48 to R53, R68) -/

/-- The chip select that this boot tries first, and whether unconfirmed boots chose it (R44, R50). -/
def Dev.firstChip (s : Dev) : Nat × Bool :=
  let strap := if s.fld .BOOT_STRAP_BOOT_SEL = 1 then 2 else 1
  if s.fld .BOOT_STATUS_UNCONF = 3 then (3 - strap, true) else (strap, false)

/-- The cause of an image is written: chip select 1 is A, 2 is B. -/
def Dev.setCause (chip code : Nat) (s : Dev) : Dev :=
  if chip = 1 then s.setFld .BOOT_CAUSE_CAUSE_A code else s.setFld .BOOT_CAUSE_CAUSE_B code

/-- The image tried now is rejected (R48, R49). IMAGE, which its acceptance in phase 2 has set, is 0 again: R65 gives its codes and not when
it changes (DESIGN CHOICE: log entry 29). -/
def Dev.reject (code : Nat) (s : Dev) : Dev :=
  let s := (((s.setCause s.boot.cur code).count .BOOT_FAILOVER_CNT).setFld .BOOT_STATUS_IMAGE 0).updBoot fun b =>
    { b with rejected := b.rejected + 1, image := none, next := 2, seq := [] }
  if s.boot.rejected < 2 then s else s.bootStop 2

/-- The section keys of an image stand in the key registers (R66). -/
def VltSt.secKeys (im : Image) (v : VltSt) : VltSt :=
  { v with keyRegs := v.keyRegs.map fun k =>
    { k with sec := im.sections.zipIdx.filterMap fun p => if p.1.enc then k.img.map fun m => (p.2, secKey m p.2) else none } }

/-- The image of the chip select whose turn it is, is checked (R48 to R53, R68, R69). Its optional sections of unknown type are
counted when phase 2 accepts it. Code 0xC of the image passed over stands until that image is tried in its turn, and is then replaced by the outcome.
BOOT_XSPI_CFG keeps its values through the read, whatever mode the interface is switched to and whichever chip select is read (DESIGN CHOICE: log
entry 29). -/
def Dev.imageTake (im : Image) (s : Dev) : Dev :=
  if !s.bootAt 2 || !s.vlt.keys then s
  else
    let s := (s.phase 2 2).domBoot 11
    let (first, swapped) := s.firstChip
    let chip := if s.boot.rejected = 0 then first else 3 - first
    let s := if swapped && s.boot.rejected == 0 then s.setCause (3 - first) 0xC else s
    let s := s.updBoot fun b => { b with cur := chip }
    let cause := s.imageCause im
    if cause ≠ 0 then s.reject cause
    else
      let s := (s.setCause chip 0).setFld .BOOT_STATUS_IMAGE chip
      let s := s.setFld .VLT_STATUS_KEY_SLOT ((s.keySlot im).getD 0)
      let s := s.countBy (im.sections.filter fun x => x.type == 0 || tGrant < x.type).length .BOOT_SKIP_CNT
      (s.updVlt (VltSt.secKeys im)).updBoot fun b => { b with image := im.clear s.vlt.kImg, next := 3 }

/-- The image of the chip select whose turn it is, is read from the flash and checked. -/
def Dev.imageRead (flash : Flash) : Dev → Dev := Dev.imageTake flash.image

/-! ### Phase 3 (R57, R58, R107, R282, R493) -/

/-- MIN_BANKS, REQ_RINKS, MIN_ENGINES, REQ_LANES and REQ_TPHY of an image (R57). -/
def Image.minBanks (im : Image) : Nat := leAt (im.dataOf tResource) 0 2
def Image.reqRinks (im : Image) : Nat := leAt (im.dataOf tResource) 2 1
def Image.minEngines (im : Image) (n : Nat) : Nat := leAt (im.dataOf tResource) (4 + n) 1
def Image.reqLanes (im : Image) : Nat := leAt (im.dataOf tResource) 0xC 2
def Image.reqPhys (im : Image) : Nat := leAt (im.dataOf tResource) 0xE 1

/-- Everything in phase 3 is powered and checked: `engFail` bit rink × 8 + e, `laneFail`, `phyFail` name what fails. -/
def Dev.resourcePower (im : Image) (engFail laneFail phyFail : Nat) (s : Dev) : Dev :=
  let s := s.each [8, 9, 10, 12, 0, 1, 2, 3, 4, 5, 6, 7] Dev.domBoot
  let s := s.each (List.range 8) fun n s => (s.setFld .RNK_STATUS_CLK_MHZ (im.clk n) n).selfChecks n (engFail / 256 ^ n % 256)
  (s.setFlag .TMU_STATUS_DESKEW_DONE true).updSys fun x => { x with deadLanes := laneFail, deadPhys := phyFail }

/-- Whether rink `n` passes in phase 3 (R58). -/
def Dev.rinkOk (s : Dev) (im : Image) (n : Nat) : Bool := im.minEngines n ≤ popMask (s.fld .RNK_STATUS_ENG_ONLINE n)

/-- The minimums are met (R58, R168). -/
def Dev.resourceMet (s : Dev) (im : Image) : Bool :=
  let working := s.fld .SMF_STATUS_WORKING
  im.minBanks ≤ working && (List.range 8).all (fun n => !bit im.reqRinks n || s.rinkOk im n)
    && im.reqLanes &&& s.sys.deadLanes == 0 && im.reqPhys &&& s.sys.deadPhys == 0
    && im.bankSum ≤ working && 0x1000 + im.reloadLen ≤ im.banks 3 * 0x80000

/-- Phase 3. Where the minimums are not met the image is rejected and every rink stays as it is, the failed ones on; the next image powers them anew,
and after two rejections they stay on in Hold (R48, R58; DESIGN CHOICE: log entry 29). -/
def Dev.resourceCheck (engFail laneFail phyFail : Nat) (s : Dev) : Dev :=
  match s.boot.image with
  | none => s
  | some im =>
    if !s.bootAt 3 then s
    else
      let s := (s.phase 3 4).resourcePower im engFail laneFail phyFail
      if !s.resourceMet im then s.reject 0xB
      else
        let off := (List.range 8).filter fun n => !s.rinkOk im n
        let bad := engFail != 0 || laneFail != 0 || phyFail != 0 || !off.isEmpty || s.fld .SMF_STATUS_WORKING != 256
        let s := s.each off Dev.domUnboot
        if bad then (s.degrade .SYS_DEGRADED_BOOT).setFlag .BOOT_STATUS_DEGRADED true else s

/-! ### Phase 4 (R168, R415, R493) -/

/-- Partitions 0 to 6 take the lowest working banks in ID order, the reserve takes the rest (R168). -/
def Dev.assignBanks (im : Image) (s : Dev) : Dev :=
  let working := (List.range 256).filter fun b => s.bankState b != 0xF
  let ids := (List.range 7).flatMap fun i => List.replicate (im.banks i) i
  s.each working.zipIdx fun p s => s.setPart p.1 (ids.getD p.2 7)

/-- Banks at the head of a list that follow one another. -/
def runLen : List Nat → Nat
  | a :: b :: t => if b = a + 1 then runLen (b :: t) + 1 else 1
  | l => l.length

/-- A program of the image: task, engine, STACK_W, bytes (R413). -/
structure TaskProg where
  task : Nat
  engine : Nat
  stack : Nat
  data : List Byte
deriving DecidableEq, Repr, Inhabited

/-- The programs of an image in table order. -/
def Image.progs (im : Image) : List TaskProg :=
  (im.ofType tPregaef).map fun x => ⟨x.target % 16, bits x.target 13 8, bits x.target 29 16, x.data⟩

/-- Bytes of the latch table of task `t`: 4 for each slot of its I/O map, rounded up to 64 (R415, R423). -/
def Image.latchLen (im : Image) (t : Nat) : Nat :=
  match im.progs.find? fun p => p.task == t with
  | none => 0
  | some p => roundUp (4 * ((progOf p.data).io.map fun e => ioSlot e.1).eraseDups.length) 64

/-- A slot of the layout: number, entry of the slot table. -/
structure SlotPlan where
  num : Nat
  base : Nat
  size : Nat
  task : Nat
  owned : Bool
deriving DecidableEq, Repr, Inhabited

/-- The entry of a slot table (R415). -/
def SlotPlan.entry (p : SlotPlan) : Nat :=
  p.base + p.size * 2 ^ 17 + p.task * 2 ^ 22 + b2n p.owned * 2 ^ 26 + 2 ^ 27

/-- The slots of the stations from index `i` on, the first at unit `u`. -/
def planSlots : List Station → Nat → Nat → List SlotPlan
  | [], _, _ => []
  | x :: t, i, u =>
    let plan (num len task u : Nat) : List SlotPlan :=
      if x.pers = 0 ∨ len = 0 then [] else [⟨num, u, (16 + len + 63) / 64, task % 16, bit task 7⟩]
    let a := plan (2 * i) x.inLen x.inTask u
    let u1 := u + 4 * (a.map SlotPlan.size).sum
    let b := plan (2 * i + 1) x.outLen x.outTask u1
    a ++ b ++ planSlots t (i + 1) (u1 + 4 * (b.map SlotPlan.size).sum)

/-- Units before the slots: slot table and latch tables. -/
def Image.headUnits (im : Image) : Nat := 512 + ((List.range 16).map fun t => im.latchLen t / 64).sum

/-- The slots of an image. -/
def Image.slots (im : Image) : List SlotPlan := planSlots im.stations 0 im.headUnits

/-- Units of the whole process image. -/
def Image.piUnits (im : Image) : Nat := im.headUnits + 4 * (im.slots.map SlotPlan.size).sum

/-- The process image fits in the first contiguous run of partition 2 (R415). -/
def Dev.piFits (s : Dev) (im : Image) : Bool := im.piUnits ≤ runLen (s.partBanks 2) * 0x2000 && im.piUnits ≤ 2 ^ 17

/-- The REGSEQ sections with a TARGET, as the records that are read; sections without one are passed over. -/
def Image.seqs (im : Image) (target : Nat) : List (List RegRec) :=
  (((im.ofType tRegseq).filter fun x => x.target == target).map Section.records).filter fun l => !l.isEmpty

/-- What the boot keeps of the image (R55, R57, R109). -/
def Dev.keepImage (im : Image) (s : Dev) : Dev :=
  s.updBoot fun b => { b with
    target := im.targetMode, rollback := im.rollback, buildId := im.buildId, digest := im.digest, minEngines := (List.range 8).map im.minEngines,
    domOn := im.domOn, fw := im.ofType tEngineFw, kept := im.keptRecs }

/-- Phase 4. An image whose process image does not fit is rejected before its DOMAIN section is applied, so that after two such rejections every domain
stays on: R45 lists DOMAIN before the check and does not say what a rejected image leaves (DESIGN CHOICE: log entry 29). -/
def Dev.partitionApply (s : Dev) : Dev :=
  match s.boot.image with
  | none => s
  | some im =>
    if !s.bootAt 4 then s
    else
      let s := (s.phase 4 5).assignBanks im
      if !s.piFits im then s.reject 0xB
      else
        let s := s.keepImage im
        let off := [12, 11, 10, 9, 8, 7, 6, 5, 4, 3, 2, 1, 0].filter fun b => !bit im.domOn b
        let s := s.each off Dev.domUnboot
        let s := if s.domOn .swc then s.swcShow else s
        s.updBoot fun b => { b with seq := im.seqs 5 }

/-! ### REGSEQ records (R59 to R62, R109) -/

/-- The register sequence that is applied: the boot's, or the records kept for a rink in RINK reset. -/
def Dev.seqHead (s : Dev) : Option Nat → Option RegRec
  | none => if s.bootAt 5 || s.bootAt 8 then s.boot.seq.head?.bind List.head? else none
  | some n => if s.inRinkReset n then (s.boot.rinkSeq.get n).head? else none

/-- The record at the front is done; END ends its section. -/
def Dev.seqNext (s : Dev) : Option Nat → Dev
  | none => s.updBoot fun b =>
    { b with seq := match b.seq with
      | (r :: l) :: t => if r.op = 5 ∨ l.isEmpty then t else l :: t
      | l => l.drop 1 }
  | some n => s.updBoot fun b => { b with rinkSeq := b.rinkSeq.upd n (List.drop 1) }

/-- A record is not applied: outside register space, in the VLT page, or at SYS_RESET (R61). -/
def RegRec.denied (r : RegRec) : Bool :=
  rangeOf r.addr != .regs || blockAt (r.addr - regBase) == some (.VLT, 0) || r.addr == regBase + Reg.SYS_RESET.addr

/-- PHASE shows the phase whose records are applied. -/
def Dev.seqPhase (s : Dev) : Option Nat → Dev
  | none => s.phase s.boot.next s.boot.next
  | some _ => s

/-- A REGSEQ record with the opcode `op` at the front is applied by `f`, unless it is denied. -/
def Dev.seqApply (who : Option Nat) (op : Nat) (f : RegRec → Dev → Dev) (s : Dev) : Dev :=
  match s.seqHead who with
  | none => s
  | some r =>
    if r.op ≠ op then s
    else
      let s := s.seqPhase who
      if op ≤ 3 ∧ r.denied then (s.when (s.domOn .hst) fun s => s.count .BOOT_REC_DENY_CNT).seqNext who else f r s

/-- A write to a register by the boot (R61): as Patrol's. -/
def Dev.bootStore (a v : Nat) (s : Dev) : Dev :=
  if a % 4 = 0 then s.regWrite 0x40 0 (a - regBase) v else s.regBad 0x40 (a - regBase) true

/-- A read of a register by the boot. -/
def Dev.bootLoad (a : Nat) (s : Dev) : Nat × Dev :=
  if a % 4 = 0 then s.regRead 0x40 0 (a - regBase) else (0, s.regBad 0x40 (a - regBase) false)

/-- WRITE. -/
def Dev.seqWrite (who : Option Nat) : Dev → Dev := Dev.seqApply who 1 fun r s => (s.bootStore r.addr r.value).seqNext who

/-- MODIFY. -/
def Dev.seqModify (who : Option Nat) : Dev → Dev := Dev.seqApply who 2 fun r s =>
  let (v, s) := s.bootLoad r.addr
  (s.bootStore r.addr ((v &&& (2 ^ 32 - 1 - r.mask)) ||| (r.value &&& r.mask))).seqNext who

/-- One read of a POLL. -/
def Dev.seqPoll (who : Option Nat) : Dev → Dev := Dev.seqApply who 3 fun r s =>
  let (v, s) := s.bootLoad r.addr
  if v &&& r.mask = r.value then s.seqNext who else s

/-- DELAY is over. -/
def Dev.seqDelay (who : Option Nat) : Dev → Dev := Dev.seqApply who 4 fun _ s => s.seqNext who

/-- END. -/
def Dev.seqEnd (who : Option Nat) : Dev → Dev := Dev.seqApply who 5 fun _ s => s.seqNext who

/-- A POLL of the boot reaches PARAM µs without a match (R62). -/
def Dev.pollTimeout (s : Dev) : Dev :=
  match s.seqHead none with
  | some r => if r.op = 3 && !r.denied then (s.seqPhase none).bootStop 4 else s
  | none => s

/-! ### Phase 6 (R55, R56, R96, R109, R413) -/

/-- Bytes of the boot at an offset of a partition. -/
def Dev.partPut (p off : Nat) (l : List Byte) (s : Dev) : Dev := s.partFill (l.length / 0x80000 + 2) p off l

/-- The reload region: the firmware copies, and below them the kept records, ascending (DESIGN CHOICE, log entry 20). -/
def Dev.reloadFill (s : Dev) : Dev :=
  let s := s.each s.fwCopies fun x s => s.partPut 3 x.2 x.1.data
  s.partPut 3 s.reloadBase (s.boot.kept.flatMap RegRec.bytes)

/-- The control programs are loaded one behind the other into partition 1, each at a multiple of 64 (R413, DESIGN CHOICE, log entry 20). -/
def Dev.progLoad : List TaskProg → Nat → Dev → Dev
  | [], _, s => s
  | p :: t, off, s =>
    let h := progHdr p.data
    let s := s.partPut 1 off p.data
    let a := (s.partAddr 1 off).getD 0
    let s := (s.setReg .CTL_TASK_CODE_LOW (a % 2 ^ 32) p.task).setReg .CTL_TASK_CODE_HIGH (a / 2 ^ 32) p.task
    let s := (s.setFld .CTL_TASK_STAT_ENG p.engine p.task).setReg .CTL_TASK_STACK (4 * p.stack % 65536 + 4 * h.maxStack % 65536 * 2 ^ 16) p.task
    Dev.progLoad t (off + h.span) (s.updEng p.engine fun e => { e with pgf := true })

/-- Phase 6. The bytes of partitions 3 and 7 that nothing covers are zero from phase 1: phase 6 writes them no more, so that in a bank that was in
retention, to which R498 lets the boot write no other location, they keep what they held (R56; DESIGN CHOICE: log entry 29). -/
def Dev.sectionLoad (s : Dev) : Dev :=
  match s.boot.image with
  | none => s
  | some im =>
    if !s.bootAt 5 || !s.boot.seq.isEmpty then s
    else
      let s := (s.phase 6 7).setBytes 0x200000000 (im.dataOf tPatrolFw)
      let s := (s.partPut 3 0 (List.replicate 0x1000 0#8)).reloadFill
      let s := s.each im.placed fun x s => s.partPut x.part x.place x.data
      let s := s.progLoad im.progs 0
      s.each ((List.range 8).filter s.rinkOn) fun n s => ((s.zeroImem n).loadRink n s.fwCopies 0).rinkStart n

/-! ### Phase 7 (R73 to R76, R304, R371, R382, R415, R430) -/

/-- The process image is laid out: slot table, latch tables and slots, with nothing in them yet. (DEDUCED: log entry 29.) -/
def Dev.piLay (im : Image) (s : Dev) : Dev :=
  let base := ((s.partBanks 2).head?.getD 0) * 0x80000
  let s := (s.setReg .CTL_PI_BASE_LOW base).setReg .CTL_PI_BASE_HIGH 0
  let s := s.zeroRange base (base + 64 * im.piUnits)
  let s := s.each im.slots fun p s => s.store (base + 4 * p.num) 4 p.entry
  s.each (List.range 16) fun t s =>
    s.updTask t fun x => { x with latch := base + 0x8000 + ((List.range t).map im.latchLen).sum }

/-- The SAFE section: each record into copy 3 of the station's output slot, from byte 16 on (R430). `fuel` bounds the records. (DEDUCED: log entry 29.) -/
def Dev.safeFill : Nat → List Byte → Dev → Dev
  | 0, _, s => s
  | _, [], s => s
  | f + 1, l, s =>
    let n := 2 * leAt l 0 2 + 1
    let len := leAt l 2 2
    let s := if s.slotValid n then s.setBytes (s.copyAddr n 3 + 16) (((l.drop 4).take len).take (64 * s.slotSize n - 16)) else s
    Dev.safeFill f (l.drop (4 + roundUp len 4)) s

/-- A window entry from its 16 bytes: base, size, rights; none where it is illegal or reaches what R74 keeps out. -/
def windowOf (l : List Byte) : Option (Nat × Nat × Nat) :=
  let base := leAt l 0 8
  let code := leAt l 8 1
  let rights := leAt l 9 1
  let size := 2 ^ (12 + code % 16)
  let meets (a b : Nat) : Bool := base < b && a < base + size
  let page (n : Nat) : Bool := meets (regBase + n * 0x10000) (regBase + (n + 1) * 0x10000)
  if base < 2 ^ 40 ∧ code < 16 ∧ base % size = 0 ∧ 1 ≤ rights ∧ rights < 4 ∧ leAt l 10 6 = 0 ∧ !meets 0x200000000 0x200200000
      ∧ (List.range 8).all (fun n => !meets (0x100000000 + n * 0x1000000) (0x100100000 + n * 0x1000000)) ∧ !page 0 ∧ !page 1 ∧ !page 2 ∧ !page 3 then some (base, size, rights)
  else none

/-- The WINDOW section (R73, R74). -/
def Dev.windowsApply (l : List Byte) (s : Dev) : Dev :=
  let w := (pieces 16 l).map windowOf
  let s := (s.countBy (w.filter Option.isNone).length .VLT_WIN_DENY_CNT).setReg .HST_WIN_STAT
    ((w.zipIdx.map fun p => b2n p.1.isSome * 2 ^ p.2).sum)
  s.updBoot fun b => { b with windowsOn := true, windows := w.filterMap id }

/-- The GRANT section (R75, R76). (DEDUCED: log entry 12.) -/
def Dev.grantsApply (l : List Byte) (s : Dev) : Dev :=
  let m := (List.range 8).map fun n => leAt l (32 * n) 32
  (s.countBy (m.filter fun v => bit v 2).length .VLT_WIN_DENY_CNT).updBoot fun b => { b with grants := m.map fun v => putBit v 2 false }

/-- Words of a section written to registers in turn. -/
def Dev.storeAll (l : List (Nat × Nat)) (s : Dev) : Dev := s.each l fun p s => s.bootStore (regBase + p.1) p.2

/-- A SLALOM section is written to bank `b` (R304). (DEDUCED: log entry 29.) -/
def Dev.slalomApply (l : List Byte) (b : Nat) (s : Dev) : Dev :=
  s.storeAll ((secWords l).zipIdx.map fun p => ((slalomReg p.2).1.addr b (slalomReg p.2).2, p.1))

/-- The registers of a matrix in the order of a CANMATRIX section. -/
def matrixRegs (n : Nat) : List Nat :=
  [Reg.CAN_MX_CFG.addr n, Reg.CAN_MX_BASE.addr n, Reg.CAN_MX_BC.addr n]
    ++ ((List.range 32).flatMap fun c => [Reg.CAN_MX_START.addr n c, Reg.CAN_MX_LEN.addr n c])
    ++ (List.range 64).flatMap fun k => (List.range 8).map fun w => Reg.CAN_MX_CELL.addr n k w

/-- A CANMATRIX section is written to its controller, CAN_MX_CFG with EN = 0. -/
def Dev.matrixApply (x : Section) (s : Dev) : Dev :=
  let w := secWords x.data
  s.storeAll ((matrixRegs x.target).zip (w.zipIdx.map fun p => if p.2 = 0 then p.1 - p.1 % 2 else p.1))

/-- A BLADE section is written to its group (R371). -/
def Dev.bladeApply (x : Section) (s : Dev) : Dev :=
  s.storeAll (((pieces 2 x.data).map leVal).zipIdx.map fun p => (Reg.BLD_PROG.addr x.target p.2, p.1))

/-- Phase 7. -/
def Dev.sectionApply (s : Dev) : Dev :=
  match s.boot.image with
  | none => s
  | some im =>
    if !s.bootAt 7 then s
    else
      let s := (s.phase 7 8).updPers fun x => { x with stations := im.stations.zipIdx.foldl (fun t p => t.set p.2 p.1) [] }
      let s := s.updPers fun x => { x with insts := im.insts }
      let s := s.each (im.ofType tSlalom).zipIdx fun p s => s.slalomApply p.1.data p.2
      let s := (s.each (im.ofType tCanmatrix) Dev.matrixApply).each (im.ofType tBlade) Dev.bladeApply
      let safe := im.dataOf tSafe
      let s := (s.piLay im).safeFill safe.length safe
      let s := ((s.windowsApply (im.dataOf tWindow)).grantsApply (im.dataOf tGrant)).slotsShow
      s.updBoot fun b => { b with seq := im.seqs 8 }

/-! ### Phase 9 (R45, R46, R64, R445) -/

/-- Patrol starts the management firmware. -/
def Dev.patrolStart (s : Dev) : Dev := s.each (List.range 4) fun k s => (s.updCtx (256 + k) fun x => { x with pc := 0 }).setSt (256 + k) .run

/-- Phase 9, `us` microseconds after the end of reset. (DEDUCED: log entry 29.) -/
def Dev.bootRelease (us : Nat) (s : Dev) : Dev :=
  if !s.bootAt 8 || !s.boot.seq.isEmpty then s
  else
    let listen := s.fld .BOOT_STRAP_BOOT_SEL == 3
    let s := (s.phase 9 10).setReg .BOOT_TIME us
    let s := s.each ((List.range 8).filter s.rinkOn) fun n s => s.setFlag .RNK_STATUS_READY true n
    let s := s.updSys fun x => { x with bootMode := .done, bootHold := false, phase9 := true, resume := false, keptBanks := [] }
    let s := s.setFld .BOOT_STATUS_RESULT (if listen then 5 else 1)
    let s := if s.boot.target = 3 then (s.setFlag .PAR_CFG_EN true).parEnable else s
    let s := if s.flag .SYS_MODE_CTRL_HOLD then s.holdEnter else s
    s.patrolStart.modeUpdate

end Sys2Proof.Machine
end

