-- ==== Sys2Proof/Machine/VltOps.lean ====
section
/-! DEFINITION. The Vault's requests, the debug challenge, boundary scan and key installation (R66, R71, R72, R77 to R79, R83, R522). -/

namespace Sys2Proof.Machine

/-- The Vault changes its OTP; the VLT page shows what it holds then. -/
def Dev.otp (f : OtpSt → OtpSt) (s : Dev) : Dev := (s.updVlt fun v => { v with otp := f v.otp }).vltShow

/-- The OTP with a field programmed, which a loss of power would cut short (R67). -/
def OtpSt.put (x : OtpField) (f : OtpSt → OtpSt) (o : OtpSt) : OtpSt := { f o with prog := .field x }

/-- A request is refused (R72). -/
def Dev.provRefuse (s : Dev) : Dev := s.count .VLT_PROV_REFUSE_CNT

/-- The place of a request in the table of R72, and its contents as numbers. -/
def VltReq.parts : VltReq → Nat × List Nat
  | .getEphemeral => (0, [])
  | .setKeySlot n key => (1, [n, key.toNat])
  | .revokeSlot n => (2, [n])
  | .setImgKey sent => (3, [sent.1.toNat, sent.2.toNat])
  | .setDebugKey key => (4, [key.toNat])
  | .setSensors e l => (5, [e.toNat, l.toNat])
  | .setOwned => (6, [])
  | .scrap => (7, [])

/-- The digest that the signature of a request covers: the request and the Vault's nonce (R71). -/
def VltReq.digest (q : VltReq) (nonce : Nat) : Nat := sha384 (Config.requestBytes q.parts.1 q.parts.2 ++ beBytes 32 nonce)

/-- A request may be served: in BLANK always, in OWNED where its signature verifies by an unrevoked slot over the request and the nonce (R71). -/
def VltSt.admits (v : VltSt) (q : VltReq) (sig : Nat) : Bool :=
  v.lifecycle == 0 || match v.nonce with
    | some k => (v.verifier (q.digest k) sig).isSome
    | none => false

/-- Whether key slot `n` is empty: a slot that fails its check is not (DEDUCED, log entry 31). -/
def OtpSt.slotEmpty (o : OtpSt) (n : Nat) : Bool := !bit o.slots n && !o.fails (.keySlot n)

/-- The key under which SET_IMG_KEY sends K_IMG: the KDF of R66 over the shared secret of the ephemeral key and the sender's (R72). -/
def sendKey (priv sender : Nat) : Nat := kdf384 48 (ecdh priv sender) (Config.kdfLabel 2) []

/-- K_IMG as it was sent: 60 bytes under the key that the ephemeral key and the sender's public key give. (DEDUCED: log entry 31.) -/
def VltSt.sentKey (v : VltSt) (sent : BitVec 768 × BitVec 480) : Option Nat :=
  match v.ephemeral with
  | some d => if ecValid sent.1.toNat then unwrapKey (sendKey d sent.1.toNat) sent.2.toNat else none
  | none => none

/-- Whether the table of R72 refuses a request, or its contents do not unwrap. (DEDUCED: log entry 31.) -/
def VltSt.refuses (v : VltSt) : VltReq → Bool
  | .getEphemeral | .scrap => false
  | .setKeySlot n _ => !v.otp.slotEmpty n
  | .revokeSlot n => v.live (2 ^ n.val) == 0
  | .setImgKey sent => v.otp.wimg.isSome || v.otp.fails .wimg || v.keyRegs.isNone || (v.sentKey sent).isNone
  | .setDebugKey _ => v.otp.debugKey.isSome || v.otp.fails .debugKey
  | .setSensors e l => e.toNat &&& v.otp.sensors != v.otp.sensors || l.toNat &&& v.otp.limit != v.otp.limit
  | .setOwned => !bit v.otp.slots 0 || v.otp.wimg.isNone

/-- GET_EPHEMERAL: a fresh private key, whose public key is the answer (DESIGN CHOICE, log entry 9). -/
def Dev.getEphemeral (s : Dev) : Dev :=
  let (k, s) := s.fresh
  let d := k % (ecN - 1) + 1
  s.updVlt fun v => { v with ephemeral := some d, answer := (ecG.times d).out }

/-- SET_KEY_SLOT n. -/
def Dev.setKeySlot (n key : Nat) (s : Dev) : Dev :=
  s.otp (OtpSt.put (.keySlot n) fun o => { o with slots := putBit o.slots n true, slotKeys := o.slotKeys.set n key })

/-- REVOKE_SLOT n. -/
def Dev.revokeSlot (n : Nat) (s : Dev) : Dev := s.otp (OtpSt.put .keyRevoke fun o => { o with revoke := putBit o.revoke n true })

/-- SET_IMG_KEY: the ephemeral key serves once; OTP_WIMG holds K_IMG wrapped with DUK under a fresh IV (DESIGN CHOICE, log entry 9). -/
def Dev.setImgKey (sent : BitVec 768 × BitVec 480) (s : Dev) : Dev :=
  let (iv, t) := s.fresh
  let duk := (s.vlt.keyRegs.map KeyRegs.duk).getD 0
  (t.updVlt fun v => { v with ephemeral := none }).otp
    (OtpSt.put .wimg fun o => { o with wimg := some (wrapKey duk (iv % 2 ^ 96) ((s.vlt.sentKey sent).getD 0)) })

/-- SET_DEBUG_KEY. -/
def Dev.setDebugKey (key : Nat) (s : Dev) : Dev := s.otp (OtpSt.put .debugKey fun o => { o with debugKey := some key })

/-- SENSOR_EN and TAMPER_LIMIT are programmed, each where it changes. -/
def OtpSt.setSensors (en limit : Nat) (o : OtpSt) : OtpSt :=
  let prog := if en = o.sensors then (if limit = o.limit then .none else .field .tamperLimit)
    else if limit = o.limit then .field .sensorEn else .sensors o.limit
  { o with sensors := en, limit := limit, prog := prog }

/-- SET_OWNED. -/
def Dev.setOwned (s : Dev) : Dev := s.otp (OtpSt.put .lifecycle fun o => { o with stage := max o.stage 1 })

/-- SCRAP. -/
def Dev.scrap (s : Dev) : Dev := s.otp (OtpSt.put .lifecycle fun o => { o with stage := 2 })

/-- The effect of one request of R72. -/
def Dev.provDo : VltReq → Dev → Dev
  | .getEphemeral => Dev.getEphemeral
  | .setKeySlot n key => Dev.setKeySlot n key.toNat
  | .revokeSlot n => Dev.revokeSlot n
  | .setImgKey sent => Dev.setImgKey sent
  | .setDebugKey key => Dev.setDebugKey key.toNat
  | .setSensors e l => Dev.otp (OtpSt.setSensors e.toNat l.toNat)
  | .setOwned => Dev.setOwned
  | .scrap => Dev.scrap

/-- The Vault serves a request in Provisioning: it refuses it, or executes it, and in OWNED draws the next nonce, since a nonce serves once (R71, R72). (DEDUCED: log entry 31.) -/
def Dev.provServed (q : VltReq) (sig : Nat) (s : Dev) : Dev :=
  if !s.inMode [.provisioning] then s
  else if !s.vlt.admits q sig || s.vlt.refuses q then s.provRefuse
  else if s.vlt.lifecycle = 0 then Dev.provDo q s
  else (Dev.provDo q s).newNonce

/-! ### Debug (R79) -/

/-- Debug does not open: in SCRAPPED, in Lockdown, while a device reset is asserted, and while TRST_N holds the TAP. -/
def Dev.debugBarred (s : Dev) : Bool := s.vlt.lifecycle == 2 || s.sys.lockdown || s.sys.resetRun.isSome || !s.tap.trst

/-- A challenge: a fresh nonce with the serial number above it, or open at once in BLANK. (DEDUCED: log entry 31.) -/
def Dev.debugChallenge (s : Dev) : Dev :=
  if s.debugBarred then s
  else if s.vlt.lifecycle = 0 then s.setFlag .VLT_STATUS_DEBUG_OPEN true
  else if 8 ≤ s.vlt.dbgFails then s
  else
    let (k, s) := s.fresh
    s.updVlt fun v => { v with challenge := some (k % 2 ^ 256), answer := k % 2 ^ 256 + s.sys.serial * 2 ^ 256 }

/-- The digest that the debugger's signature covers: nonce and serial number (R79). -/
def debugDigest (nonce serial : Nat) : Nat := sha384 (beBytes 32 nonce ++ Config.numBytes 3 serial)

/-- Whether a signature by DEBUG_KEY over nonce and serial number verifies (R79). -/
def Dev.debugOk (nonce sig : Nat) (s : Dev) : Bool :=
  match s.vlt.debugKey with
  | some key => ecdsaOk key (debugDigest nonce s.sys.serial) sig
  | none => false

/-- The debugger's response: a signature by DEBUG_KEY over nonce and serial number. -/
def Dev.debugResponse (sig : Nat) (s : Dev) : Dev :=
  match s.vlt.challenge with
  | none => s
  | some nonce =>
    let s := s.updVlt fun v => { v with challenge := none }
    if s.debugBarred then s
    else if s.debugOk nonce sig then s.setFlag .VLT_STATUS_DEBUG_OPEN true
    else (s.count .VLT_DBG_FAIL_CNT).updVlt fun v => { v with dbgFails := v.dbgFails + 1 }

/-! ### Test access port (R83, R522) -/

/-- The device with the TAP changed. -/
def Dev.updTap (f : TapSt → TapSt) (s : Dev) : Dev := { s with tap := f s.tap }

/-- TRST_N low holds the TAP in Test-Logic-Reset, and boundary scan drives nothing; the device runs on. -/
def TapSt.setTrst (high : Bool) (t : TapSt) : TapSt := if high then { t with trst := true } else { t with trst := false, state := .reset, drives := [] }

/-- A rising edge of TCK; in Test-Logic-Reset the pins are the device's. -/
def TapSt.clock (tms : Bool) (t : TapSt) : TapSt :=
  if !t.trst then t
  else
    let n := t.state.next tms
    { t with state := n, drives := if n = .reset then [] else t.drives }

/-- Boundary scan drives pins (R83): the levels count from the end of Update-DR on. -/
def TapSt.scanOut (l : List (ScanPin × Bool)) (t : TapSt) : TapSt := if t.trst && t.state != .reset then { t with drives := l } else t

/-- Boundary scan samples the level at a ball. -/
def TapSt.scanIn (level : Bool) (t : TapSt) : TapSt := if t.trst && t.state != .reset then { t with sampled := level } else t

/-! ### Keys of the MACs (R66, R78) -/

/-- CAK_BB of a backbone port: the label is "BB", the context the link label from the image (R66). -/
def cakBb (img n : Nat) : Nat := kdfKey img [0x42#8, 0x42#8] (Config.linkLabel n)

/-- The Vault installs a SAK for association number `an` of MAC `n`: MKA gives it a fresh value and a fresh salt (DESIGN CHOICE, log entry 9). -/
def Dev.sakInstall (n an : Nat) (s : Dev) : Dev :=
  match s.vlt.kImg with
  | none => s
  | some img =>
    if !s.domOn .swc || s.sys.lockdown || s.sys.resetRun.isSome then s
    else
      let (k, s) := s.fresh
      let (salt, s) := s.fresh
      let s := s.updVlt fun v =>
        { v with sak := v.sak.set (4 * n + an) (some ⟨k % 2 ^ 256, salt % 2 ^ 96⟩),
                 keyRegs := v.keyRegs.map fun r => { r with cak := r.cak.set n (cakBb img n) } }
      let s := s.setFld .MAC_SEC_STATUS_KEY_VALID (putBit (s.fld .MAC_SEC_STATUS_KEY_VALID n) an true) n
      let s := s.updMac n fun m => { m with rxPn := m.rxPn.set an 0 }
      if s.fld .MAC_SEC_CFG_TX_AN n = an then s.txpnRestart n else s

end Sys2Proof.Machine
end

