-- ==== Sys2Proof/Machine/HostOps.lean ====
section
/-! DEFINITION. Patrol's watchdog, lockstep, load monitor (R469, R472, R473) and the host interface (R477 to R482, R439, R521). -/

namespace Sys2Proof.Machine

/-- The device with the host interface changed. -/
def Dev.updHost (f : HostSt → HostSt) (s : Dev) : Dev := { s with host := f s.host }

/-! ### Patrol -/

/-- The watchdog count reaches 0 (R472). -/
def Dev.watchdogExpiry (s : Dev) : Dev :=
  if s.flag .PAT_WDOG_CFG_EN && s.fld .PAT_WDOG_LEFT_MS == 0 && s.sys.patOn && s.sys.resetRun.isNone then s.startReset .WDOG 2 else s

/-- A lockstep mismatch, or a fetch that meets an uncorrectable error (R469). -/
def Dev.lockstep (fetch : Bool) (s : Dev) : Dev :=
  if !s.sys.patOn || s.sys.resetRun.isSome || s.sys.lockdown then s
  else if fetch then s.startReset .WDOG 4
  else (s.count .PAT_LOCKSTEP_CNT).startReset .WDOG 3

/-- A load window ends with `busy` percent (R473). -/
def Dev.loadWindow (busy : Nat) (s : Dev) : Dev :=
  if !s.sys.patOn then s
  else
    let s := s.setFld .PAT_LOAD_BUSY_PCT busy
    let l := s.fld .PAT_LOAD_LEVEL
    if s.fld .PAT_LOAD_SHED_HI ≤ busy then
      if l < 4 then (s.setFld .PAT_LOAD_LEVEL (l + 1)).count .PAT_SHED_CNT else s
    else if busy ≤ s.fld .PAT_LOAD_SHED_LO then s.setFld .PAT_LOAD_LEVEL (l - 1)
    else s

/-! ### Accesses of the host (R47, R73, R478, R480) -/

/-- One word read by the host: whether it was denied or unmapped, and the answer. -/
def Dev.hostRead (a : Nat) (s : Dev) : Bool × RdRes × Dev :=
  if !s.hostMay a false then (true, ⟨leBytes 4 0, false⟩, s.count .SYS_DENY_CNT)
  else
    let none_ := rangeOf a == .unmapped || (rangeOf a == .regs && blockAt (a - regBase) == none)
    let (r, s) := s.busRead 0x41 0 a 4
    (none_, r, s)

/-- One word written by the host. -/
def Dev.hostWrite (a : Nat) (v : Word) (s : Dev) : Dev :=
  if !s.hostMay a true then s.count .SYS_DENY_CNT else s.busWrite 0x41 0 a (leBytes 4 v.toNat)

/-- Words read upward from an address, and whether one met an uncorrectable error; that word reads 0. (DEDUCED: log entry 31.) -/
def Dev.hostReads : Nat → Nat → Dev → List Word × Bool × Dev
  | 0, _, s => ([], false, s)
  | n + 1, a, s =>
    let (_, r, s) := s.hostRead a
    let (l, e, s) := Dev.hostReads n (a + 4) s
    ((if r.ue then 0#32 else word (leVal r.data)) :: l, r.ue || e, s)

/-- Words written upward from an address. -/
def Dev.hostWrites : List Word → Nat → Dev → Dev
  | [], _, s => s
  | v :: t, a, s => (s.hostWrite a v).hostWrites t (a + 4)

/-- The PCI Express endpoint takes requests. -/
def Dev.pcieUp (s : Dev) : Bool := s.domOn .hst && s.flag .HST_CFG_PCIE_EN && s.flag .HST_STATUS_LINK_UP && !s.host.perst

/-- A memory read of `n` words through BAR0 (R478): what the completion carries. (DESIGN CHOICE: log entry 11.) -/
def Dev.pcieRead (a n : Nat) (s : Dev) : Dev :=
  if !s.pcieUp then s
  else if a % 4 ≠ 0 then (s.misuse .HST).updHost fun h => { h with pcieData := List.replicate n 0#32, pcieEP := false }
  else
    let (l, ue, s) := s.hostReads n a
    let s := if ue then s.count .HST_UE_CNT else s
    s.updHost fun h => { h with pcieData := if ue then List.replicate n 0#32 else l, pcieEP := ue }

/-- A memory write through BAR0 (R478). -/
def Dev.pcieWrite (a : Nat) (l : List Word) (s : Dev) : Dev :=
  if !s.pcieUp then s else if a % 4 ≠ 0 then s.misuse .HST else s.hostWrites l a

/-- The SPI port takes transactions. -/
def Dev.spiUp (s : Dev) : Bool := s.domOn .hst && s.flag .HST_CFG_SPI_EN

/-- An SPI write (R480). -/
def Dev.spiWrite (a : Nat) (l : List Word) (how : SpiEnd) (s : Dev) : Dev :=
  if !s.spiUp then s
  else match how with
    | .unknown => s.count .HST_SPI_FRAME_CNT
    | .whole => if a % 4 ≠ 0 then s.misuse .HST else s.hostWrites l a
    | .cut =>
      let s := if a % 4 ≠ 0 then s.misuse .HST else s.hostWrites l.dropLast a
      s.count .HST_SPI_FRAME_CNT

/-- SPI_CS_N is low or high (R484). -/
def Dev.spiActive (on : Bool) (s : Dev) : Dev := s.setFlag .HST_STATUS_SPI_ACTIVE on

/-- The answer of an SPI read, at whose end SPI_CS_N rises. -/
def Dev.spiAnswer (status : Nat) (l : List Word) (s : Dev) : Dev :=
  (s.updHost fun h => { h with spiStatus := status, spiData := l }).spiActive false

/-- An SPI read of `n` words (R480); `late` where the first word is not ready after the dummy bytes. (DEDUCED: log entry 31.) -/
def Dev.spiRead (a n : Nat) (late : Bool) (s : Dev) : Dev :=
  if !s.spiUp then s
  else if a % 4 ≠ 0 then (s.misuse .HST).spiAnswer 1 (List.replicate n 0#32)
  else if late then (s.count .HST_SPI_NOTREADY_CNT).spiAnswer 2 (List.replicate n 0#32)
  else
    let (bad, r, s) := (s.spiActive true).hostRead a
    if bad then s.spiAnswer 1 (List.replicate n 0#32)
    else
      let (l, ue, s) := s.hostReads (n - 1) (a + 4)
      let l := (if r.ue then 0#32 else word (leVal r.data)) :: l
      if r.ue || ue then (s.count .HST_UE_CNT).spiAnswer 3 l else s.spiAnswer 0 l

/-- A vector or the function is unmasked (R479). -/
def Dev.msixRelease (s : Dev) : Dev :=
  s.each ((List.range 32).filter fun v => bit s.host.pba v && bit s.host.unmasked v && !s.host.fnMask) fun v s =>
    let s := s.updHost fun h => { h with pba := putBit h.pba v false }
    if s.msixCond v then s.count .HST_MSIX_CNT else s

/-- The mask bit of a vector, or of the function where none is named, is cleared. -/
def Dev.msixUnmask (v : Option Nat) (s : Dev) : Dev :=
  if !s.pcieUp then s
  else match v with
    | some n => (s.updHost fun h => { h with unmasked := putBit h.unmasked n true }).msixRelease
    | none => (s.updHost fun h => { h with fnMask := false }).msixRelease

/-- The PCI Express link comes up or is lost (R484). -/
def Dev.pcieLink (up : Bool) (width speed : Nat) (s : Dev) : Dev :=
  let was := s.flag .HST_STATUS_LINK_UP
  if !s.domOn .hst || up == was || (up && (s.host.perst || !s.flag .HST_CFG_PCIE_EN)) then s
  else
    let s := ((s.setFlag .HST_STATUS_LINK_UP up).setFld .HST_STATUS_WIDTH (if up then width else 0)).setFld .HST_STATUS_SPEED
      (if up then speed else 0)
    if up then s else s.count .HST_LINK_DOWN_CNT

/-- PCIE_PERST_N falls or rises (R521). (DESIGN CHOICE: log entry 5.) -/
def Dev.pciePerst (high : Bool) (s : Dev) : Dev :=
  if high then s.updHost fun h => { h with perst := false }
  else (s.pcieLink false 0 0).updHost fun h => { h with perst := true, pba := 0, unmasked := 0, fnMask := false }

/-! ### Host requests (R481, R482) -/

/-- The codes of R482. -/
def hostCodes : List Nat := [1, 2, 3, 0x10, 0x11, 0x20, 0x21, 0x30, 0x40, 0x50]

/-- Every byte of a range lies inside windows with both rights. -/
def Dev.windowRW (s : Dev) (a n : Nat) : Bool := (List.range n).all fun i => s.window (a + i) 0 && s.window (a + i) 1

/-- STATUS of a request. -/
def stOk : Nat := 0
def stBusy : Nat := 1
def stRefused : Nat := 2
def stBad : Nat := 3
def stUnknown : Nat := 4

/-- Patrol posts a notice to a mailbox that is not full; the outcome stands in its MBX_POSTRES (R192, R193). -/
def Dev.patrolPost (m ptr len tag : Nat) (s : Dev) : Dev :=
  ((s.mbxStore m 0x40 0 (bits ptr 31 0) (noticeHigh ptr len tag)).count .MBX_POST_CNT).mbxResult 0x40 0 1

/-- Patrol answers a request: STATUS, the result words behind the header as far as the payload has room, and the notice. (DEDUCED: log entry 31.) -/
def Dev.hostAnswer (ptr len tag payload status : Nat) (words : List Nat) (s : Dev) : Dev :=
  let l := (words.flatMap (leBytes 4)).take payload
  let s := if l.isEmpty then s else s.physWrite 0x40 (ptr + 16) l
  let s := s.physWrite 0x40 (ptr + 12) (leBytes 4 status)
  let m := s.fld .HST_CFG_RSP_MBOX
  s.patrolPost m ptr len tag

/-- Patrol takes the next request, where it has the code of the command: `serve` gives its STATUS and result. A block outside the
host's windows and an unknown code are answered whatever the command. In Provisioning no window is applied, and R71 has requests arrive all the same:
there the block is taken where it lies (DESIGN CHOICE: log entry 31). `after` happens once the answer is posted. (DEDUCED: log entry 31.) -/
def Dev.hostServe (code : Nat) (serve : Dev → (Nat × List Nat) × Dev) (s : Dev) (after : Dev → Dev := id) : Dev :=
  let m := s.fld .HST_CFG_REQ_MBOX
  let ctx := s.fld .MBX_CFG_RECV_CTX m
  let hi := s.reg .MBX_NOTICE_HIGH m
  let ptr := s.reg .MBX_NOTICE_LOW m + bits hi 7 0 * 2 ^ 32
  let len := bits hi 23 8
  let tag := bits hi 31 24
  let block := max 16 (64 * len)
  let inside := s.windowRW ptr block || s.inMode [.provisioning]
  let c := s.view ptr 4 % 65536
  let payload := min (s.view (ptr + 8) 4) (block - 16)
  let full := s.view (ptr + 8) 4 + 16 ≤ block
  if !s.patrolRuns || !s.flag .MBX_STATUS_FULL m || s.fld .MBX_CFG_RECV_MID m != 0x40 || s.flag .MBX_STATUS_FULL (s.fld .HST_CFG_RSP_MBOX) then s
  else if inside && c != code && hostCodes.contains c then s
  else
    let s := (s.mbxReadLow m 0x40 ctx).2
    let s := (s.mbxReadHigh m 0x40 ctx).2
    if !inside then
      if s.window (ptr + 12) 1 && s.window (ptr + 15) 1 then s.hostAnswer ptr len tag 0 stBad []
      else s.patrolPost (s.fld .HST_CFG_RSP_MBOX) ptr len tag
    else
    let (r, s) := s.physRead 0x40 ptr 12
    if r.ue || !full then s.hostAnswer ptr len tag 0 stBad []
    else if c ≠ code then s.hostAnswer ptr len tag 0 stUnknown []
    else
      let ((st, l), s) := serve s
      after (s.hostAnswer ptr len tag payload st (Config.hostResult code l))

/-- An informational request: BUSY from LEVEL 3 on (R474). `reads`: the runs of shared memory that Patrol reads for it. -/
def Dev.hostInfo (code : Nat) (words : Dev → List Nat) (s : Dev) (reads : Dev → List (Nat × Nat) := fun _ => []) : Dev :=
  s.hostServe code fun s =>
    if 3 ≤ s.fld .PAT_LOAD_LEVEL then ((stBusy, []), s)
    else ((stOk, words s), s.each (reads s) fun p s => (s.physRead 0x40 p.1 p.2).2)

/-- GET_INFO: identity, mode and BOOT registers. -/
def Dev.getInfo (s : Dev) : Dev :=
  s.hostInfo 1 fun s => [s.reg .SYS_ID, s.reg .SYS_SERIAL_LOW, s.reg .SYS_SERIAL_HIGH, s.reg .SYS_MODE, s.reg .BOOT_STRAP, s.reg .BOOT_STATUS,
    s.reg .BOOT_CAUSE, s.reg .BOOT_TIME, s.reg .BOOT_CTRL, s.reg .BOOT_FAILOVER_CNT]

/-- Every offset of a register, over its strides. -/
def strideOffs : List (Nat × Nat) → List Nat
  | [] => [0]
  | (st, n) :: t => (List.range n).flatMap fun i => (strideOffs t).map fun o => i * st + o

/-- GET_COUNTERS of a block: its counters in the order of the page; BUSY from LEVEL 3 on (R474). -/
def Dev.getCounters (b : Block) (s : Dev) : Dev :=
  s.hostServe 2 fun s =>
    if 3 ≤ s.fld .PAT_LOAD_LEVEL then ((stBusy, []), s)
    else
      let s := if b = .SMF then s.crowdCount else s
      let regs := b.regs.filter fun r => r.info.fields.any fun f => f.acc == .cnt
      ((stOk, regs.flatMap fun r => (strideOffs r.info.strides).map fun o => (s.regWord (r.info.off + o)).toNat), s)

/-- The records of the log that have a number from `seq` on, by their place in the ring. -/
def Dev.logFrom (s : Dev) (seq : Nat) : List Nat :=
  (List.range ((s.partBanks 5).length * 0x2000 - 1)).filter fun i =>
    let n := s.partView 5 (64 + 64 * i + 8)
    seq ≤ n && n < s.host.logSeq

/-- READ_LOG from a record number on: the records that the ring holds. -/
def Dev.readLog (seq : Nat) (s : Dev) : Dev :=
  s.hostInfo 3 (fun s => (s.logFrom seq).flatMap fun i => (List.range 16).map fun w => s.partView 5 (64 + 64 * i + 4 * w))
    fun s => (s.logFrom seq).filterMap fun i => (s.partAddr 5 (64 + 64 * i)).map fun a => (a, 64)

/-- The chip select that the running image did not come from. -/
def Dev.otherChip (s : Dev) : Nat := if s.fld .BOOT_STATUS_IMAGE = 2 then 0 else 1

/-- FLASH_WRITE is answered and begins, or ends (R482). (DEDUCED: log entry 31.) -/
def Dev.flashWrite (done : Bool) (s : Dev) : Dev :=
  if done then
    if s.host.flashBusy then (s.updHost fun h => { h with flashBusy := false }).setFlag .BOOT_STATUS_XBUSY false else s
  else s.hostServe 0x10 fun s =>
    if s.host.flashBusy then ((stRefused, []), s)
    else ((stOk, []), (((s.updHost fun h => { h with flashBusy := true }).setFld .BOOT_XSPI_CFG_CS s.otherChip).setFlag .BOOT_STATUS_XBUSY true))

/-- FLASH_VERIFY: the cause code of the image in that chip select (R49). (DESIGN CHOICE: log entry 11.) -/
def Dev.flashVerify (flash : Flash) (s : Dev) : Dev :=
  s.hostServe 0x11 fun s =>
    if s.host.flashBusy then ((stRefused, []), s) else ((stOk, [s.imageCause flash.image]), s.setFld .BOOT_XSPI_CFG_CS s.otherChip)

/-! ### Exchange packages (R439, R440) -/

/-- The slots as the running slot table gives them (R434). -/
def Dev.slotInfo (s : Dev) (n : Nat) : Option (Bool × Nat × Nat) :=
  if !s.slotValid n then none
  else
    let x := s.pers.stations.get (n / 2)
    some (s.slotOwned n, s.slotTask n, if isOut n then x.outLen else x.inLen)

/-- Structure of a package (R53, R439): its four types, their counts, one program per task and one firmware per FWID. -/
def Image.packageOk (p : Image) : Bool :=
  p.sections.all (fun x => [tPregaef, tEngineFw, tOverlay, tData].contains x.type)
    && countRule.all (fun (t, _, hi) => (p.ofType t).length ≤ hi) && p.oncePer tPregaef 16
    && ((p.ofType tEngineFw).map Section.fwid).Nodup

/-- The placement of a package's OVERLAY and DATA sections: what R56 asks of a section by itself and of two together (R439). The banks of a partition
are those that SMF_PART shows. -/
def Dev.packageFits (s : Dev) (p : Image) : Bool :=
  p.placed.all (fun x =>
    (x.part == 3 || (x.part == 7 && x.type == tData)) && bits x.target 7 3 == 0 && bits x.target 31 29 == 0
      && x.place + x.data.length ≤ (if x.part = 3 then s.reloadBase else (s.partBanks 7).length * 0x80000)
      && (x.part != 3 || 0x1000 ≤ x.place)) && noMeet placeMeet p.placed

/-- OFFSET and SIZE of the stack of the program that a task runs: SIZE of a stack of 16,384 words does not fit in its field, which then shows 0. -/
def Dev.stackOf (s : Dev) (t : Nat) : Nat × Nat :=
  let k := s.reg .CTL_TASK_STACK t
  (k % 65536, if k / 65536 = 0 ∧ s.taskCode t ≠ 0 then 65536 else k / 65536)

/-- The cause for which a package is rejected, or 0 (R439, R49). (DEDUCED: log entry 31.) -/
def Dev.packageCause (s : Dev) (p : Image) : Nat :=
  if s.vlt.rejectsAll then 5
  else if p.magic ≠ 0x45444D4C ∨ p.format ≠ 3 then 2
  else if p.targetMode ≠ 0 ∨ !({ p with targetMode := 1 } : Image).headerOk ∨ !p.tableOk then 3
  else if p.rollback < s.vlt.rollback then 4
  else match p.clear s.vlt.kImg with
  | none => 6
  | some c =>
    if (s.keySlot p).isNone then 5
    else if !c.packageOk then 8
    else if !c.sections.all targetOk || !s.packageFits c then 3
    else
      let ok (x : Section) : Bool :=
        pgVerify s.slotInfo (some (s.stackOf (x.target % 16))) x.target x.data
      if !(c.ofType tPregaef).all ok then 0xA else 0

/-- EXCHANGE_LOAD: Patrol places the package in partition 7 at the unit of 64 bytes that it has chosen and has it checked; each verified program then
goes to partition 1 at the place chosen for it. A package that is rejected changes nothing but the bytes of partition 7 where it was placed, which
come before the check (R439; DEDUCED: log entry 31). -/
def Dev.exchangeTake (p : Image) (bytes : List Byte) (at_ : Nat) (places : List Nat) (s : Dev) : Dev :=
  s.hostServe 0x20 fun s =>
    if s.host.package then ((stRefused, []), s)
    else
      let s := s.partPut 7 (64 * at_) bytes
      let cause := s.packageCause p
      if cause ≠ 0 then
        let (c, t) := s.fresh
        ((stRefused, [cause]), t.logRecord 0x40 c [cause])
      else
        let progs := (((p.clear s.vlt.kImg).map fun c => c.ofType tPregaef).getD []).zip places
        let s := s.each progs fun x s => s.partPut 1 (64 * x.2) x.1.data
        ((stOk, []), s.updHost fun h => { h with package := true, packageOk := true })

/-- EXCHANGE_LOAD of the package that these bytes are. -/
def Dev.exchangeLoad (flash : Flash) (at_ : Nat) (places : List Nat) : Dev → Dev :=
  Dev.exchangeTake flash.image (flash.read 0 (min flash.image.imageLen 0x2000000)) at_ places

/-- A task to arm: its number, the unit of 64 bytes of partition 1 at which its program lies, and the switch instant. -/
def Dev.armTask (t place at_ : Nat) (s : Dev) : Dev :=
  let a := (s.partAddr 1 (64 * place)).getD 0
  let s := (s.setReg .CTL_XCHG_ADDR_LOW (a % 2 ^ 32) t).setReg .CTL_XCHG_ADDR_HIGH (a / 2 ^ 32) t
  (s.setReg .CTL_XCHG_AT at_ t).taskArm t 0x40

/-- EXCHANGE_ARM: Patrol arms tasks for one instant. (DEDUCED: log entry 31.) -/
def Dev.exchangeArm (l : List (Nat × Nat)) (at_ : Nat) (s : Dev) : Dev :=
  s.hostServe 0x21 fun s =>
    if !s.host.packageOk then ((stRefused, []), s)
    else
      let s := s.each l fun p s => s.armTask p.1 p.2 at_
      ((stOk, []), s.updHost fun h => { h with package := false, packageOk := false })

/-- FORCE: an input slot is forced with these values, which Patrol first writes into copy 3, or released (R422). The stamp of that copy is open
(DESIGN CHOICE: log entry 9). -/
def Dev.hostForce (n : Nat) (vals : Option (List Byte)) (s : Dev) : Dev :=
  s.hostServe 0x30 fun s =>
    if isOut n then ((stRefused, []), s)
    else match vals with
      | none => ((stOk, []), s.slotForce n 0x40 false)
      | some l =>
        let (ts, s) := s.fresh
        let s := if s.slotValid n then s.physWrite 0x40 (s.copyAddr n 3) (slotBytes (ts % 2 ^ 40) (ts / 2 ^ 40 % 4) (l.take (s.pers.stations.get (n / 2)).inLen)) else s
        ((stOk, []), s.slotForce n 0x40 true)

/-- PROVISION: one request goes to the Vault; what it answers comes back with the nonce for the next one (R71). -/
def Dev.provision (q : VltReq) (sig : Nat) (s : Dev) : Dev :=
  s.hostServe 0x40 fun s =>
    if !s.inMode [.provisioning] then ((stRefused, []), s)
    else
      let t := s.provServed q sig
      ((if !s.vlt.admits q sig || s.vlt.refuses q then stRefused else stOk, [t.vlt.answer, t.vlt.nonce.getD 0]), t)

/-- RESET: OK is answered, then SYS_RESET is written. -/
def Dev.hostReset (s : Dev) : Dev := s.hostServe 0x50 (fun s => ((stOk, []), s)) (Dev.softReset 0x40 0xA5C3)

end Sys2Proof.Machine
end

