-- ==== Sys2Proof/Machine/JobOps.lean ====
section
/-! DEFINITION. Hardware pushes that have waited at a full queue (R90). -/

namespace Sys2Proof.Machine

/-- A refused hardware push returns to its producer, which counts it as its chapter says (R110, R214, R248, R311, R344, R366, R426). -/
def Dev.returned (p : Producer) (j : Job) (s : Dev) : Dev :=
  match p with
  | .swc port pm =>
    let cell := j.word 1
    let s := if pm then s.count .MAC_LOCAL_DROP_CNT (s.frame cell).port else s
    ((s.count .SWC_SKIP_CNT port).captureCopy cell port 1 5).endCopy cell port
  | .mac n => s.count .MAC_LOCAL_DROP_CNT n
  | .can n => s.count .CAN_JOB_DROP_CNT n
  | .slm => s.count .SLM_JOB_DROP_CNT
  | .ctl t =>
    ((s.count .CTL_JOB_DROP_CNT).setFld .CTL_TASK_STAT_RUN 0 t).updTask t fun x =>
      { x with ran := !bit (j.word 5) 4, prev := j.word 6 + 2 ^ 32 * j.word 7 }
  | .bld g => s.count .BLD_JOB_DROP_CNT g
  | .par | .steal => s

/-- A push that waited has entered: the port holds the copy that it announces (R248). -/
def Dev.entered (p : Producer) (j : Job) (s : Dev) : Dev :=
  match p with
  | .swc port pm => s.updSwc fun w => { w with held := w.held.upd port (· ++ [⟨j.word 1, pm, none, []⟩]) }
  | _ => s

/-- The oldest push that waits at the queue of engine `ge` is offered again: it enters and is counted once, is refused because its
engine, rink or firmware has gone, or goes on waiting. (DEDUCED: log entry 32.) -/
def Dev.queueRoom (ge : Nat) (s : Dev) : Dev :=
  match s.eng.waiting.get ge with
  | [] => s
  | (p, j, moved) :: rest =>
    let s' : Dev := { s with eng := { s.eng with waiting := s.eng.waiting.set ge rest } }
    match s'.push (ge / 8) j (some p) moved true with
    | (.accepted, s') => (s'.count .RNK_QWAIT_CNT (ge / 8)).entered p j
    | (.refused, s') => s'.returned p j
    | (.waiting, _) => s

end Sys2Proof.Machine
end

