-- ==== Sys2Proof/Machine/Float.lean ====
section
/-! DEFINITION. IEEE 754-2019 binary32 and binary64 arithmetic as R157 asks for it: exact integer arithmetic, one rounding
at the end, sticky exception flags, subnormals kept, NaN results canonical. -/

namespace Sys2Proof.Machine

/-- A binary format by its exponent and fraction widths. -/
structure Fmt where
  eb : Nat
  mb : Nat
deriving DecidableEq, Repr, Inhabited

def fmt32 : Fmt := ⟨8, 23⟩
def fmt64 : Fmt := ⟨11, 52⟩

def Fmt.width (f : Fmt) : Nat := 1 + f.eb + f.mb
def Fmt.bias (f : Fmt) : Int := (2 ^ (f.eb - 1) : Nat) - 1
/-- Exponent of the last place of subnormals. -/
def Fmt.qmin (f : Fmt) : Int := 1 - f.bias - f.mb
def Fmt.infBits (f : Fmt) : Nat := (2 ^ f.eb - 1) * 2 ^ f.mb
/-- The NaN every operation returns (R157). -/
def Fmt.nan (f : Fmt) : Nat := f.infBits + 2 ^ (f.mb - 1)
def Fmt.signBit (f : Fmt) (s : Bool) : Nat := b2n s * 2 ^ (f.eb + f.mb)

/-- A value taken apart: a finite value is (−1)^sign × m × 2^e. -/
inductive FVal where
  | nan (signalling : Bool)
  | inf (sign : Bool)
  | fin (sign : Bool) (m : Nat) (e : Int)
deriving DecidableEq, Repr, Inhabited

/-- The value of an encoding. -/
def Fmt.unpack (f : Fmt) (x : Nat) : FVal :=
  let s := bit x (f.eb + f.mb)
  let e := bits x (f.eb + f.mb - 1) f.mb
  let m := x % 2 ^ f.mb
  if e = 2 ^ f.eb - 1 then
    if m = 0 then .inf s else .nan (!bit m (f.mb - 1))
  else if e = 0 then .fin s m f.qmin
  else .fin s (2 ^ f.mb + m) (f.qmin + (e - 1 : Nat))

/-- Sticky flags of SKZ_FPCSR that an operation sets. -/
structure FFlags where
  nv : Bool := false
  dz : Bool := false
  of : Bool := false
  uf : Bool := false
  nx : Bool := false
deriving DecidableEq, Repr, Inhabited

/-- An encoding with the flags it raises. -/
structure FRes where
  val : Nat
  fl : FFlags
deriving DecidableEq, Repr, Inhabited

/-- A NaN result; `nv` where the operation is invalid. -/
def Fmt.nanRes (f : Fmt) (nv : Bool) : FRes := ⟨f.nan, { nv := nv }⟩

/-- Rounding modes of SKZ_FPCSR.RM: 0 nearest even, 1 toward zero, 2 toward +∞, 3 toward −∞. Whether the magnitude
`q + r / d` (0 ≤ r < d) rounds up. -/
def roundUpMag (rm : Nat) (sign : Bool) (q r d : Nat) : Bool :=
  match rm with
  | 0 => d < 2 * r || (2 * r == d && q % 2 == 1)
  | 1 => false
  | 2 => r != 0 && !sign
  | _ => r != 0 && sign

/-- m × 2^e rounded to a multiple of 2^q: the multiple, and whether it is inexact. -/
def roundTo (rm : Nat) (sign : Bool) (m : Nat) (e q : Int) : Nat × Bool :=
  if q ≤ e then (m * 2 ^ (e - q).toNat, false)
  else
    let d := 2 ^ (q - e).toNat
    (m / d + b2n (roundUpMag rm sign (m / d) (m % d) d), m % d != 0)

/-- The encoding of (−1)^sign × m × 2^e, m ≠ 0, with its flags. -/
def Fmt.round (f : Fmt) (rm : Nat) (sign : Bool) (m : Nat) (e : Int) : FRes :=
  let top : Int := e + (Nat.log2 m : Nat)
  let q0 : Int := top - f.mb
  let q := max q0 f.qmin
  let p := roundTo rm sign m e q
  let mag := ((q - f.qmin).toNat) * 2 ^ f.mb + p.1
  let tinyB : Bool := top < f.qmin + f.mb
  let p' := roundTo rm sign m e q0
  let tinyA : Bool := tinyB && !(top == f.qmin + f.mb - 1 && p'.1 == 2 ^ (f.mb + 1))
  if f.infBits ≤ mag then
    let inf := match rm with
      | 0 => true
      | 1 => false
      | 2 => !sign
      | _ => sign
    ⟨f.signBit sign + (if inf then f.infBits else f.infBits - 1), { of := true, nx := true }⟩
  else ⟨f.signBit sign + mag, { uf := p.2 && (if Config.tinyBeforeRounding then tinyB else tinyA), nx := p.2 }⟩

/-- An exact sum of signed magnitudes; a zero sum takes the sign IEEE 754 gives it. -/
def Fmt.sumRes (f : Fmt) (rm : Nat) (s1 : Bool) (m1 : Nat) (e1 : Int) (s2 : Bool) (m2 : Nat) (e2 : Int) : FRes :=
  let e := min e1 e2
  let a : Int := (m1 * 2 ^ (e1 - e).toNat : Nat)
  let b : Int := (m2 * 2 ^ (e2 - e).toNat : Nat)
  let t : Int := (if s1 then -a else a) + (if s2 then -b else b)
  if t = 0 then
    let s := if s1 = s2 ∧ m1 = 0 ∧ m2 = 0 then s1 else rm == 3
    ⟨f.signBit s, {}⟩
  else f.round rm (t < 0) t.natAbs e

/-- Sum of two values. -/
def Fmt.addV (f : Fmt) (rm : Nat) : FVal → FVal → FRes
  | .nan a, .nan b => f.nanRes (a || b)
  | .nan a, _ => f.nanRes a
  | _, .nan b => f.nanRes b
  | .inf a, .inf b => if a = b then ⟨f.signBit a + f.infBits, {}⟩ else f.nanRes true
  | .inf a, _ => ⟨f.signBit a + f.infBits, {}⟩
  | _, .inf b => ⟨f.signBit b + f.infBits, {}⟩
  | .fin a m e, .fin b n g => f.sumRes rm a m e b n g

/-- The value with its sign inverted. -/
def FVal.neg : FVal → FVal
  | .nan a => .nan a
  | .inf s => .inf (!s)
  | .fin s m e => .fin (!s) m e

def FVal.isZero : FVal → Bool
  | .fin _ 0 _ => true
  | _ => false

/-- Product of two values. -/
def Fmt.mulV (f : Fmt) (rm : Nat) : FVal → FVal → FRes
  | .nan a, .nan b => f.nanRes (a || b)
  | .nan a, _ => f.nanRes a
  | _, .nan b => f.nanRes b
  | .inf a, .inf b => ⟨f.signBit (a != b) + f.infBits, {}⟩
  | .inf a, .fin b n _ => if n = 0 then f.nanRes true else ⟨f.signBit (a != b) + f.infBits, {}⟩
  | .fin a m _, .inf b => if m = 0 then f.nanRes true else ⟨f.signBit (a != b) + f.infBits, {}⟩
  | .fin a m e, .fin b n g =>
    if m = 0 ∨ n = 0 then ⟨f.signBit (a != b), {}⟩ else f.round rm (a != b) (m * n) (e + g)

/-- Quotient of two values: the quotient is computed to more places than the format holds, with the remainder kept as a
sticky last bit. -/
def Fmt.divV (f : Fmt) (rm : Nat) : FVal → FVal → FRes
  | .nan a, .nan b => f.nanRes (a || b)
  | .nan a, _ => f.nanRes a
  | _, .nan b => f.nanRes b
  | .inf _, .inf _ => f.nanRes true
  | .inf a, .fin b _ _ => ⟨f.signBit (a != b) + f.infBits, {}⟩
  | .fin a _ _, .inf b => ⟨f.signBit (a != b), {}⟩
  | .fin a m e, .fin b n g =>
    if n = 0 then
      if m = 0 then f.nanRes true else ⟨f.signBit (a != b) + f.infBits, { dz := true }⟩
    else if m = 0 then ⟨f.signBit (a != b), {}⟩
    else
      let k := 2 * f.mb + 4
      let q := m * 2 ^ k / n
      f.round rm (a != b) (2 * q + b2n (m * 2 ^ k % n != 0)) (e - g - k - 1)

/-- The integer square root, bit by bit: `r` is its part above bit `k`. -/
def isqrtFrom (n : Nat) : Nat → Nat → Nat
  | 0, r => r
  | k + 1, r =>
    let t := r + 2 ^ k
    isqrtFrom n k (if t * t ≤ n then t else r)

/-- The integer square root of a number below 2^256. -/
def isqrt (n : Nat) : Nat := isqrtFrom n 128 0

/-- Square root. -/
def Fmt.sqrtV (f : Fmt) (rm : Nat) : FVal → FRes
  | .nan a => f.nanRes a
  | .inf s => if s then f.nanRes true else ⟨f.infBits, {}⟩
  | .fin s m e =>
    if m = 0 then ⟨f.signBit s, {}⟩
    else if s then f.nanRes true
    else
      let odd := e % 2 ≠ 0
      let m' := if odd then 2 * m else m
      let e' := if odd then e - 1 else e
      let k := f.mb + 3
      let n := m' * 2 ^ (2 * k)
      let r := isqrt n
      f.round rm false (2 * r + b2n (r * r != n)) (e' / 2 - k - 1)

/-- a × b + c, rounded once. -/
def Fmt.fmaV (f : Fmt) (rm : Nat) (a b c : FVal) : FRes :=
  let anySig := [a, b, c].any fun v => v == .nan true
  let zeroInf := match a, b with
    | .inf _, .fin _ 0 _ => true
    | .fin _ 0 _, .inf _ => true
    | _, _ => false
  match a, b, c with
  | .nan _, _, _ => f.nanRes anySig
  | _, .nan _, _ => f.nanRes anySig
  | _, _, .nan _ => f.nanRes (anySig || (zeroInf && Config.fmaInvalidOnQuiet))
  | .fin s m e, .fin t n g, c =>
    match c with
    | .fin u k h => f.sumRes rm (s != t) (m * n) (e + g) u k h
    | .inf u => ⟨f.signBit u + f.infBits, {}⟩
    | .nan _ => f.nanRes anySig
  | a, b, c =>
    if zeroInf then f.nanRes true
    else
      let sg := match a, b with
        | .inf s, .inf t => s != t
        | .inf s, .fin t _ _ => s != t
        | .fin s _ _, .inf t => s != t
        | _, _ => false
      match c with
      | .inf u => if u = sg then ⟨f.signBit sg + f.infBits, {}⟩ else f.nanRes true
      | _ => ⟨f.signBit sg + f.infBits, {}⟩

/-- Order of two values that are no NaN; −0 equals +0. -/
def FVal.cmp : FVal → FVal → Ordering
  | .inf a, .inf b => if a = b then .eq else if a then .lt else .gt
  | .inf a, _ => if a then .lt else .gt
  | _, .inf b => if b then .gt else .lt
  | .fin s m e, .fin t n g =>
    let q := min e g
    let x : Int := (m * 2 ^ (e - q).toNat : Nat)
    let y : Int := (n * 2 ^ (g - q).toNat : Nat)
    compare (if s then -x else x) (if t then -y else y)
  | _, _ => .eq

def FVal.isNaN : FVal → Bool
  | .nan _ => true
  | _ => false

def FVal.sign : FVal → Bool
  | .nan _ => false
  | .inf s => s
  | .fin s _ _ => s

/-- minimumNumber or maximumNumber: a NaN operand yields the other operand, −0 is below +0 (R157). -/
def Fmt.minMax (f : Fmt) (isMax : Bool) (x y : Nat) : FRes :=
  let a := f.unpack x
  let b := f.unpack y
  let nv := a == .nan true || b == .nan true
  if a.isNaN && b.isNaN then ⟨f.nan, { nv := nv }⟩
  else if a.isNaN then ⟨y, { nv := nv }⟩
  else if b.isNaN then ⟨x, { nv := nv }⟩
  else
    let aFirst := match a.cmp b with
      | .lt => true
      | .gt => false
      | .eq => a.sign || !b.sign
    ⟨if aFirst != isMax then x else y, {}⟩

/-- A value rounded to an integer by RM: the integer and whether it is inexact. -/
def roundInt (rm : Nat) (s : Bool) (m : Nat) (e : Int) : Int × Bool :=
  let p := roundTo rm s m e 0
  (if s then -(p.1 : Int) else p.1, p.2)

/-- Conversion to an integer of the range lo to hi: a NaN gives 0, a value out of range saturates, both with NV. -/
def FVal.toIntSat (rm : Nat) (lo hi : Int) : FVal → Int × FFlags
  | .nan _ => (0, { nv := true })
  | .inf s => (if s then lo else hi, { nv := true })
  | .fin s m e =>
    let p := roundInt rm s m e
    if p.1 < lo then (lo, { nv := true })
    else if hi < p.1 then (hi, { nv := true })
    else (p.1, { nx := p.2 })

/-- An integer as a value of the format. -/
def Fmt.ofInt (f : Fmt) (rm : Nat) (i : Int) : FRes :=
  if i = 0 then ⟨0, {}⟩ else f.round rm (i < 0) i.natAbs 0

/-- Conversion between formats. -/
def Fmt.convert (f : Fmt) (rm : Nat) : FVal → FRes
  | .nan a => f.nanRes a
  | .inf s => ⟨f.signBit s + f.infBits, {}⟩
  | .fin s m e => if m = 0 then ⟨f.signBit s, {}⟩ else f.round rm s m e

/-- FADD, FSUB, FMUL, FDIV by number 0 to 3. -/
def Fmt.arith (f : Fmt) (rm op x y : Nat) : FRes :=
  let a := f.unpack x
  let b := f.unpack y
  match op with
  | 0 => f.addV rm a b
  | 1 => f.addV rm a b.neg
  | 2 => f.mulV rm a b
  | _ => f.divV rm a b

/-- The sticky bits of SKZ_FPCSR after an operation (R151, R157). -/
def FFlags.sticky (g : FFlags) (csr : Nat) : Nat :=
  csr ||| (b2n g.nv * 16 + b2n g.dz * 32 + b2n g.of * 64 + b2n g.uf * 128 + b2n g.nx * 256)

end Sys2Proof.Machine
end

