-- ==== Sys2Proof/Machine/Flags.lean ====
section
/-! DEFINITION. Integer arithmetic of Skezia: results and flags of R127, R132, R135, R140, R141, and the CRC and bit-stuffing
units of R155. A result carries only the flags its table names. -/

namespace Sys2Proof.Machine

/-- A result with the flags it may write; `none` leaves a flag as it is (R118). -/
structure Res where
  val : Word
  z : Option Bool
  n : Option Bool
  c : Option Bool
  v : Option Bool
deriving DecidableEq, Repr, Inhabited

/-- Z and N from the value. -/
def resZN (x : Word) : Res := ⟨x, some (x == 0), some x.msb, none, none⟩

/-- Z, N, C and V. -/
def resZNCV (x : Word) (c v : Bool) : Res := ⟨x, some (x == 0), some x.msb, some c, some v⟩

/-- a + b + carry: C is the carry out, V the signed overflow (R118). -/
def addRes (a b : Word) (cin : Bool) : Res :=
  let t := a.toNat + b.toNat + b2n cin
  let i := a.toInt + b.toInt + b2n cin
  let x : Word := BitVec.ofNat 32 t
  resZNCV x (2 ^ 32 ≤ t) (i != x.toInt)

/-- a − b − borrow: C is no borrow (R118). -/
def subRes (a b : Word) (bin : Bool) : Res :=
  let i := a.toInt - b.toInt - b2n bin
  let x : Word := a - b - (if bin then 1#32 else 0#32)
  resZNCV x (b.toNat + b2n bin ≤ a.toNat) (i != x.toInt)

/-- Kinds of shift (R134). -/
inductive Shift where
  | shl | shr | sar | rol | ror
deriving DecidableEq, Repr, Inhabited

/-- A shift or rotate by the low 8 bits of the amount (R140). -/
def shiftRes (k : Shift) (a : Word) (amt : Nat) : Res :=
  let n := amt % 256
  let nat := a.toNat
  match k with
  | .shl =>
    let x : Word := BitVec.ofNat 32 (nat * 2 ^ n)
    ⟨x, some (x == 0), some x.msb, if n = 0 then none else some (n ≤ 32 && bit nat (32 - n)), none⟩
  | .shr =>
    let x : Word := BitVec.ofNat 32 (nat / 2 ^ n)
    ⟨x, some (x == 0), some x.msb, if n = 0 then none else some (n ≤ 32 && bit nat (n - 1)), none⟩
  | .sar =>
    let x : Word := a.sshiftRight n
    ⟨x, some (x == 0), some x.msb,
      if n = 0 then none else some (if n < 32 then bit nat (n - 1) else a.msb), none⟩
  | .rol =>
    let x : Word := a.rotateLeft (n % 32)
    ⟨x, some (x == 0), some x.msb, if n % 32 = 0 then none else some (bit x.toNat 0), none⟩
  | .ror =>
    let x : Word := a.rotateRight (n % 32)
    ⟨x, some (x == 0), some x.msb, if n % 32 = 0 then none else some x.msb, none⟩

/-- Low half of a product: C is unsigned overflow, V signed overflow (R127). -/
def mulRes (a b : Word) : Res :=
  let p := a.toNat * b.toNat
  let i := a.toInt * b.toInt
  let x : Word := BitVec.ofNat 32 p
  resZNCV x (2 ^ 32 ≤ p) (i != x.toInt)

/-- Leading zero bits of a number of `n` bits. -/
def clz : Nat → Nat → Nat
  | 0, _ => 0
  | n + 1, x => if bit x n then 0 else 1 + clz n x

/-- One bits of a number of `n` bits. -/
def popc : Nat → Nat → Nat
  | 0, _ => 0
  | n + 1, x => b2n (bit x n) + popc n x

/-- The four bytes of a word reversed. -/
def bswap (a : Word) : Word := word (leVal (leBytes 4 a.toNat).reverse)

/-- The functions of the SR table (R127), also those of the ALU major (R132); `none` for a function with no result of
its own (MOVFH, MOVTH and the undefined code). `a` is the first operand, `b` the second. -/
def aluRes (func : Nat) (a b : Word) (cin : Bool) : Option Res :=
  match func with
  | 0x00 => some (resZN b)
  | 0x01 => some (addRes a b false)
  | 0x02 => some (addRes a b cin)
  | 0x03 => some (subRes a b false)
  | 0x04 => some (subRes a b (!cin))
  | 0x05 => some (resZN (a &&& b))
  | 0x06 => some (resZN (a ||| b))
  | 0x07 => some (resZN (a ^^^ b))
  | 0x08 => some (resZN (a &&& ~~~b))
  | 0x09 => some (shiftRes .shl a b.toNat)
  | 0x0A => some (shiftRes .shr a b.toNat)
  | 0x0B => some (shiftRes .sar a b.toNat)
  | 0x0C => some (shiftRes .rol a b.toNat)
  | 0x0D => some (shiftRes .ror a b.toNat)
  | 0x0E => some (mulRes a b)
  | 0x0F => some (resZN (BitVec.ofNat 32 (a.toNat * b.toNat / 2 ^ 32)))
  | 0x10 => some (resZN (BitVec.ofInt 32 (a.toInt * b.toInt / 2 ^ 32)))
  | 0x11 => some (resZN (if a.toInt ≤ b.toInt then a else b))
  | 0x12 => some (resZN (if a.toInt ≤ b.toInt then b else a))
  | 0x13 => some (resZN (if a.toNat ≤ b.toNat then a else b))
  | 0x14 => some (resZN (if a.toNat ≤ b.toNat then b else a))
  | 0x15 => some (subRes a b false)
  | 0x16 => some (resZN (a &&& b))
  | 0x17 => some (subRes 0#32 b false)
  | 0x18 => some (resZN (~~~b))
  | 0x19 =>
    let x : Word := if b.msb then 0#32 - b else b
    some ⟨x, some (x == 0), some x.msb, none, some (b == 0x80000000#32)⟩
  | 0x1A => some (resZN (word (clz 32 b.toNat)))
  | 0x1B => some (resZN (word (popc 32 b.toNat)))
  | 0x1C => some (resZN (bswap b))
  | _ => none

/-- CMP, TST, NEG and ABS always write their flags (R124). -/
def aluAlways (func : Nat) : Bool := func == 0x15 || func == 0x16 || func == 0x17 || func == 0x19

/-- CMP and TST write no register. -/
def aluNoReg (func : Nat) : Bool := func == 0x15 || func == 0x16

/-- Flags after a result whose flag writes are enabled. -/
def FlagSet.put (f : FlagSet) (r : Res) : FlagSet :=
  { f with z := r.z.getD f.z, n := r.n.getD f.n, c := r.c.getD f.c, v := r.v.getD f.v }

/-- Division (R135, R141): quotient, remainder and V. -/
def divRes (signed : Bool) (a b : Word) : Word × Word × Bool :=
  if b = 0#32 then (0#32, a, false)
  else if signed then
    (BitVec.ofInt 32 (a.toInt.tdiv b.toInt), BitVec.ofInt 32 (a.toInt.tmod b.toInt),
      a == 0x80000000#32 && b == 0xFFFFFFFF#32)
  else (BitVec.ofNat 32 (a.toNat / b.toNat), BitVec.ofNat 32 (a.toNat % b.toNat), false)

/-- Branch conditions (R138). -/
def condHolds (cond : Nat) (f : FlagSet) : Bool :=
  match cond with
  | 0x0 => f.z
  | 0x1 => !f.z
  | 0x2 => f.c
  | 0x3 => !f.c
  | 0x4 => f.n
  | 0x5 => !f.n
  | 0x6 => f.v
  | 0x7 => !f.v
  | 0x8 => f.c && !f.z
  | 0x9 => !f.c || f.z
  | 0xA => f.n == f.v
  | 0xB => f.n != f.v
  | 0xC => !f.z && f.n == f.v
  | 0xD => f.z || f.n != f.v
  | 0xE => true
  | _ => f.dz

/-! ### CRC and bit stuffing (R155) -/

/-- A count field where 0 and values above 32 mean 32. -/
def count32 (n : Nat) : Nat := if n = 0 ∨ 32 < n then 32 else n

/-- WIDTH in force: 0, or above 32, means 32. -/
def Crc.wid (u : Crc) : Nat := count32 u.width

/-- One input bit of the CRC unit. -/
def Crc.bitIn (u : Crc) (b : Bool) : Crc :=
  let t := bit u.acc (u.wid - 1) != b
  let sh := u.acc * 2 % 2 ^ u.wid
  { u with acc := if t then Nat.xor sh (u.poly % 2 ^ u.wid) else sh }

/-- The bits of a byte in processing order. -/
def byteBits (lsbFirst : Bool) (x : Nat) : List Bool :=
  let l := (List.range 8).map (bit x)
  if lsbFirst then l else l.reverse

/-- One byte through the CRC unit. -/
def Crc.byteIn (u : Crc) (x : Nat) : Crc := (byteBits u.refIn x).foldl Crc.bitIn u

/-- Bit reversal over `n` bits. -/
def revBits : Nat → Nat → Nat
  | 0, _ => 0
  | n + 1, x => b2n (bit x 0) * 2 ^ n + revBits n (x / 2)

/-- CRC.GET. -/
def Crc.out (u : Crc) : Nat := if u.refOut then revBits u.wid u.acc else u.acc % 2 ^ u.wid

/-- CRC.CFG. -/
def Crc.config (u : Crc) (poly cfg : Nat) : Crc :=
  { u with poly := poly, width := bits cfg 5 0, refIn := bit cfg 8, refOut := bit cfg 9 }

/-- The run that a stuff bit starts: in MODE 1 it is the first of the next run of equal bits, but for K = 1, where a bit alone would be
a full run. R155 does not say whether a stuff bit counts in the next run (DESIGN CHOICE: log entry 39). -/
def Stf.stuffRun (u : Stf) : Nat := if u.mode && u.k != 1 then 1 else 0

/-- One bit through the stuffer: a run of K one bits (MODE 0) or of K equal bits (MODE 1) is followed by a stuff bit. -/
def Stf.stuffBit (u : Stf) (b : Bool) : Stf :=
  if u.k = 0 then { u with buf := u.buf ++ [b] }
  else
    let run := if u.mode then (if u.run != 0 && b == u.last then u.run + 1 else 1) else (if b then u.run + 1 else 0)
    if run = u.k then
      if u.mode then { u with buf := u.buf ++ [b, !b], run := u.stuffRun, last := !b }
      else { u with buf := u.buf ++ [b, false], run := 0, last := false }
    else { u with buf := u.buf ++ [b], run := run, last := b }

/-- One bit through the destuffer: the bit after a full run is dropped where it is the stuff bit; otherwise it is a
violation, kept as data, and the run restarts from it at length 1. -/
def Stf.destuffBit (u : Stf) (b : Bool) : Stf × Bool :=
  if u.k = 0 then ({ u with buf := u.buf ++ [b] }, false)
  else if u.run = u.k then
    let stuff := if u.mode then b != u.last else !b
    if stuff then ({ u with run := u.stuffRun, last := b }, false)
    else ({ u with buf := u.buf ++ [b], run := 1, last := b }, true)
  else
    let run := if u.mode then (if u.run != 0 && b == u.last then u.run + 1 else 1) else (if b then u.run + 1 else 0)
    ({ u with buf := u.buf ++ [b], run := run, last := b }, false)

/-- STF.PUT of a list of bits; the flag tells whether a violation occurred. -/
def Stf.put : Stf → List Bool → Stf × Bool
  | u, [] => (u, false)
  | u, b :: t =>
    if u.dir then
      let p := u.destuffBit b
      let q := p.1.put t
      (q.1, p.2 || q.2)
    else (u.stuffBit b).put t

/-- The lowest `n` bits of a number, lowest first. -/
def lowBits (n x : Nat) : List Bool := (List.range n).map (bit x)

/-- The number whose bit i is element i. -/
def fromBits : List Bool → Nat
  | [] => 0
  | b :: t => b2n b + 2 * fromBits t

end Sys2Proof.Machine
end

