-- ==== Sys2Proof/Machine/Operands.lean ====
section
/-! DEFINITION. Skezia words: fields, legality and which row of the operation table a word is (R112 to R116, R127 to R139, R152 to
R157). -/

namespace Sys2Proof.Machine

/-- The rows of long words, and the two of paired and illegal words. -/
inductive SkzOp where
  | paired | illegal
  | alu | addi | andi | ori | xori | cmpi | shifti | lui | muli | dvs | dvu | load | store | loadm | storem
  | bc | jal | jr | dbnz | waitev | rdcr | wrcr | mffl | mtfl | fence | yield | setspace
  | crcCfg | crcSet | crcGet | crcUb | crcUh | crcUw | stfCfg | stfPut | stfGet | stfCnt
  | pgfBind | pgfNext | pgfPop | pgfPush | pgfPop2 | pgfPush2 | pgfJmp | pgfEnd
  | fadd | fsub | fmul | fdiv | fsqrt | fmin | fmax | fma | fcmp | fabs | fneg | fcvtW | fcvtWu | fcvtFw | fcvtFwu | fcvtX
deriving DecidableEq, Repr, Inhabited

/-! ### Fields (R114, R115) -/

def fMajor (w : Nat) : Nat := bits w 30 25
def fRd (w : Nat) : Nat := bits w 24 20
def fRa (w : Nat) : Nat := bits w 19 15
def fRb (w : Nat) : Nat := bits w 14 10
def fS (w : Nat) : Bool := bit w 9
def fFunc5 (w : Nat) : Nat := bits w 4 0
def fFunc10 (w : Nat) : Nat := bits w 9 0
def fImm15 (w : Nat) : Nat := bits w 14 0
def fType (w : Nat) : Nat := bits w 14 12
def fMode (w : Nat) : Nat := bits w 11 10
def fIndex (w : Nat) : Nat := bits w 7 0

/-- OFF14 as a signed number. -/
def fOff14 (w : Nat) : Int := signed 14 w

/-- The halves of a paired word, first half first (R113). -/
def fH1 (w : Nat) : Nat := bits w 30 16
def fH2 (w : Nat) : Nat := bits w 14 0

/-- A register number is even. -/
def ev (r : Nat) : Bool := r % 2 == 0

/-! ### Legality (R116, R152) -/

/-- A short operation is legal (R127 to R130). -/
def shortOk (h : Nat) : Bool :=
  match bits h 14 13 with
  | 0 => bits h 12 8 != 0x1F
  | 1 => true
  | 2 => !(bit h 12 && bits h 11 10 == 3) && (bits h 9 8 < 2 || bits h 3 0 != 0)
  | _ => bits h 12 8 ≤ 0xA || (bits h 12 8 == 0xB && bits h 7 4 == 0)

/-- The reserved bits of the LA format are 0. -/
def laOk (w : Nat) : Bool := bits w 8 5 == 0

/-- An ALU word is legal (R132). -/
def aluOk (w : Nat) : Bool :=
  let f := fFunc5 w
  laOk w && f ≤ 0x1C && (!([0x00, 0x17, 0x18, 0x19, 0x1A, 0x1B, 0x1C].contains f) || fRa w == 0) && (!aluNoReg f || fRd w == 0)

/-- The base update of a LOADM or STOREM word is legal (R136). -/
def modeOk (w : Nat) : Bool :=
  match fMode w with
  | 0 => true
  | 1 => bits w 9 0 == 0
  | _ => bits w 9 0 == 0 && 1 ≤ fRa w && fRa w ≤ 15

/-- TYPE and rt of a load or store are legal (R136). -/
def typeOk (w : Nat) (store : Bool) : Bool := fType w ≤ (if store then 3 else 5) && (fType w != 3 || ev (fRd w))

/-- The register fields of a CP2 word that must be even, by major and FUNC (R157). -/
def cp2Even (w : Nat) : Bool :=
  let d := ev (fRd w)
  let a := ev (fRa w)
  let b := ev (fRb w)
  if fMajor w = 0x38 then fFunc10 w != 0xF || a
  else match fFunc10 w with
    | 0x04 | 0x09 | 0x0A => d && a
    | 0x08 => a && b
    | 0x0B | 0x0C => a
    | 0x0D | 0x0E | 0x0F => d
    | _ => d && a && b

/-- The row of a CP0, CP1 or CP2 function. -/
def cp0Op : Nat → SkzOp
  | 0 => .crcCfg
  | 1 => .crcSet
  | 2 => .crcGet
  | 3 => .crcUb
  | 4 => .crcUh
  | 5 => .crcUw
  | 6 => .stfCfg
  | 7 => .stfPut
  | 8 => .stfGet
  | 9 => .stfCnt
  | _ => .illegal

def cp1Op (w : Nat) : SkzOp :=
  match fFunc10 w with
  | 0 => .pgfBind
  | 1 => .pgfNext
  | 2 => .pgfPop
  | 3 => .pgfPush
  | 4 => if ev (fRd w) then .pgfPop2 else .illegal
  | 5 => if ev (fRa w) then .pgfPush2 else .illegal
  | 6 => .pgfJmp
  | 7 => .pgfEnd
  | _ => .illegal

def cp2Op (w : Nat) : SkzOp :=
  if !cp2Even w then .illegal
  else match fFunc10 w with
    | 0x0 => .fadd
    | 0x1 => .fsub
    | 0x2 => .fmul
    | 0x3 => .fdiv
    | 0x4 => .fsqrt
    | 0x5 => .fmin
    | 0x6 => .fmax
    | 0x7 => .fma
    | 0x8 => .fcmp
    | 0x9 => .fabs
    | 0xA => .fneg
    | 0xB => .fcvtW
    | 0xC => .fcvtWu
    | 0xD => .fcvtFw
    | 0xE => .fcvtFwu
    | 0xF => .fcvtX
    | _ => .illegal

/-- The row when a legality condition holds. -/
def opIf (ok : Bool) (op : SkzOp) : SkzOp := if ok then op else .illegal

/-- The row of a MISC word (R139). (DEDUCED: log entry 32.) -/
def miscOp (w : Nat) : SkzOp :=
  let zd := fRd w == 0
  let za := fRa w == 0
  let zb := fRb w == 0
  if !laOk w then .illegal
  else match fFunc5 w with
    | 0 => opIf (za && zb) .mffl
    | 1 => opIf (zd && zb) .mtfl
    | 2 => opIf (zd && za && zb) .fence
    | 3 => opIf (zd && za && zb) .yield
    | _ => .illegal

/-- The row of a long word for an engine (`pat`: Patrol; `pgf`: control engine) (R131). Bit 9 of a SETSPACE word, S, is ignored: no rule says that it
must be 0 there. (DEDUCED: log entry 32.) -/
def longOp (pat pgf : Bool) (w : Nat) : SkzOp :=
  match fMajor w with
  | 0x00 => opIf (aluOk w) .alu
  | 0x01 => .addi
  | 0x02 => .andi
  | 0x03 => .ori
  | 0x04 => .xori
  | 0x05 => opIf (fRd w == 0) .cmpi
  | 0x06 => opIf (fType w ≤ 4 && bits w 10 8 == 0) .shifti
  | 0x07 => .lui
  | 0x08 => .muli
  | 0x0A => opIf (laOk w && ev (fRd w) && fFunc5 w ≤ 1) (if fFunc5 w = 0 then .dvs else .dvu)
  | 0x0C => opIf (typeOk w false) .load
  | 0x0D => opIf (typeOk w true) .store
  | 0x0E => opIf (typeOk w false && modeOk w) .loadm
  | 0x0F => opIf (typeOk w true && modeOk w) .storem
  | 0x10 => opIf (bits w 20 14 == 0) .bc
  | 0x11 => opIf (bits w 19 14 == 0) .jal
  | 0x12 => opIf (fRd w == 0 && fImm15 w == 0) .jr
  | 0x13 => opIf (fRd w == 0 && !bit w 14) .dbnz
  | 0x18 => opIf (fRa w == 0 && bits w 14 6 == 0 && fIndex w != 0) .waitev
  | 0x19 => opIf (fRa w == 0 && bits w 14 8 == 0 && (pat || fIndex w < 0x80)) .rdcr
  | 0x1A => opIf (fRd w == 0 && bits w 14 8 == 0 && (pat || fIndex w < 0x80)) .wrcr
  | 0x1B => miscOp w
  | 0x1C => opIf (pat && laOk w && fRd w == 0 && fRb w == 0 && fFunc5 w == 0) .setspace
  | 0x30 => cp0Op (fFunc10 w)
  | 0x34 => opIf pgf (cp1Op w)
  | 0x38 | 0x39 => cp2Op w
  | _ => .illegal

/-- The row of a word. -/
def skzOp (pat pgf : Bool) (w : Nat) : SkzOp :=
  if bit w 31 then opIf (shortOk (fH1 w) && shortOk (fH2 w)) .paired else longOp pat pgf w

/-! ### Addressing (R143 to R145) -/

/-- The base after modulo addressing. -/
def modNext (b len size : Nat) : Nat :=
  let next := b + size
  let p := if len ≤ 1 then 1 else 2 ^ (Nat.log2 (len - 1) + 1)
  let base := b - b % p
  if len = 0 then next % 2 ^ 32 else if len ≤ (next - base) then (next + 2 ^ 32 - len) % 2 ^ 32 else next % 2 ^ 32

/-- `n` bits in reverse order. -/
def revField (n x : Nat) : Nat := revBits n x

/-- The base after bit-reversed addressing: 1 is added at bit k of the field [k:j], with the carry running downward. -/
def revNext (b inc size : Nat) : Nat :=
  if inc < size then (b + size) % 2 ^ 32
  else
    let k := Nat.log2 inc
    let j := Nat.log2 size
    let n := k + 1 - j
    putBits b k j (revField n ((revField n (bits b k j) + 1) % 2 ^ n))

end Sys2Proof.Machine
end

