-- ==== Sys2Proof/Machine/SkzOps.lean ====
section
/-! DEFINITION. The execution of Skezia words (R86, R103, R105, R117 to R157): a context that its engine has chosen fetches its word,
and the row that the word belongs to takes place. -/

namespace Sys2Proof.Machine

/-! ### Fetch and issue (R86, R88, R112) -/

/-- The base of the instruction memory of a context. -/
def imemOf (c : Nat) : Nat := if isPatrol c then 0x200000000 else imemBase (rinkOf c) (c / 4 % 8)

/-- The word at the program counter of a context. -/
def Dev.fetchWord (s : Dev) (c : Nat) : Nat := s.load (imemOf c + 4 * (s.ctx c).pc) 4

/-- The row of a word on the engine of a context. -/
def Dev.opOf (s : Dev) (c w : Nat) : SkzOp := skzOp (isPatrol c) (s.engine (engOf c)).pgf w

/-- The context's engine issues its word, which belongs to row `op`: `f` is what the word does. -/
def Dev.issue (c : Nat) (op : SkzOp) (f : Nat → Dev → Dev) (s : Dev) : Dev :=
  let w := s.fetchWord c
  if s.chosen (engOf c) = some c ∧ s.opOf c w = op then f w (s.issued c) else s

/-- The program counter moves to a word index, modulo the memory (R119). -/
def Dev.goto (c : Nat) (pc : Int) (s : Dev) : Dev := s.updCtx c fun x => { x with pc := (pc % (imemWords c : Int)).toNat }

/-- The program counter moves to the next word. -/
def Dev.nextWord (c : Nat) (s : Dev) : Dev := s.goto c ((s.ctx c).pc + 1)

/-- A word that changes the context only, and ends at the next word. -/
def Dev.simple (c : Nat) (f : Ctx → Ctx) (s : Dev) : Dev := (s.updCtx c f).nextWord c

/-- A result goes to a register, its flags where `fl` allows. -/
def Ctx.result (x : Ctx) (rd : Nat) (fl : Bool) (r : Res) : Ctx :=
  let x := x.wr rd r.val
  if fl then { x with fl := x.fl.put r } else x

/-- A number of `w` bits, sign-extended to a word. -/
def sxWord (w n : Nat) : Word := BitVec.ofInt 32 (signed w n)

/-! ### Integer operations (R127, R132 to R135) -/

/-- The ALU major. -/
def doAluWord (w : Nat) (x : Ctx) : Ctx :=
  let f := fFunc5 w
  match aluRes f (x.rd (fRa w)) (x.rd (fRb w)) x.fl.c with
  | some r => x.result (if aluNoReg f then 0 else fRd w) (fS w || aluAlways f) r
  | none => x

/-- A long immediate operation that writes no flag. -/
def immWord (g : Word → Word → Word) (sx : Bool) (w : Nat) (x : Ctx) : Ctx :=
  x.wr (fRd w) (g (x.rd (fRa w)) (if sx then sxWord 15 (fImm15 w) else word (fImm15 w)))

/-- CMPI. -/
def cmpiWord (w : Nat) (x : Ctx) : Ctx := x.result 0 true (subRes (x.rd (fRa w)) (sxWord 15 (fImm15 w)) false)

/-- The kind of shift of SHIFTI. -/
def shiftKind : Nat → Shift
  | 0 => .shl
  | 1 => .shr
  | 2 => .sar
  | 3 => .rol
  | _ => .ror

/-- SHIFTI. -/
def shiftiWord (w : Nat) (x : Ctx) : Ctx :=
  x.result (fRd w) (bit w 11) (shiftRes (shiftKind (fType w)) (x.rd (fRa w)) (bits w 7 0))

/-- DVS and DVU. -/
def divWord (sgn : Bool) (w : Nat) (x : Ctx) : Ctx :=
  let b := x.rd (fRb w)
  let (q, r, v) := divRes sgn (x.rd (fRa w)) b
  let x := (x.wr (fRd w) q).wr (fRd w + 1) r
  { x with fl := { x.fl with z := q == 0#32, n := q.msb, c := false, v := v, dz := x.fl.dz || b == 0#32 } }

/-! ### Branches (R137) -/

/-- BC. -/
def Dev.bcWord (c w : Nat) (s : Dev) : Dev :=
  let x := s.ctx c
  if condHolds (bits w 24 21) x.fl then s.goto c (x.pc + fOff14 w) else s.nextWord c

/-- JAL. -/
def Dev.jalWord (c w : Nat) (s : Dev) : Dev :=
  let pc := (s.ctx c).pc
  (s.updCtx c fun x => x.wr (fRd w) (word ((pc + 1) % imemWords c))).goto c (pc + fOff14 w)

/-- JR. -/
def Dev.jrWord (c w : Nat) (s : Dev) : Dev := s.goto c ((s.ctx c).rd (fRa w)).toNat

/-- DBNZ: with w0 the decrement is 0xFFFF_FFFF. -/
def Dev.dbnzWord (c w : Nat) (s : Dev) : Dev :=
  let x := s.ctx c
  let v := x.rd (fRa w) - 1#32
  let s := s.updCtx c fun x => x.wr (fRa w) v
  if v = 0#32 then s.nextWord c else s.goto c (x.pc + fOff14 w)

/-! ### Memory accesses (R102, R103, R105, R121, R125, R126, R142) -/

/-- A data access of a word: the half that makes it, its address, size and value, and how a loaded value is extended; `rt` receives it,
and `rt + 1` the high word of a double word. -/
structure MemAcc where
  half : Half
  store : Bool
  va : Nat
  size : Nat
  val : Nat
  rt : Nat
  sx : Bool
deriving DecidableEq, Repr, Inhabited

/-- What one operation of a word does: registers that it writes beside loaded ones, flags, its access, and a byte for the CRC unit. -/
structure OpOut where
  wr : List (Nat × Word)
  fl : Option Res
  acc : Option MemAcc
  crc : Option Nat
deriving DecidableEq, Repr, Inhabited

/-- The base register after an access by MODE 1 to 3 (R143 to R145). -/
def baseNext (x : Ctx) (mode b size : Nat) : Word :=
  let v := (x.rd b).toNat
  match mode with
  | 2 => word (modNext v ((x.rd (16 + b)).toNat % 65536) size)
  | 3 => word (revNext v ((x.rd (16 + b)).toNat % 65536) size)
  | _ => word (v + size)

/-- Bytes, and sign extension, of TYPE of a long load or store. -/
def typeSize (t : Nat) : Nat := [1, 2, 4, 8, 1, 2].getD t 1

/-- The value that a store writes: one register, or two. -/
def storeVal (x : Ctx) (rt size : Nat) : Nat := (x.rd rt).toNat % 2 ^ (8 * min size 4) + (if size = 8 then (x.rd (rt + 1)).toNat * 2 ^ 32 else 0)

/-- LOAD, STORE, LOADM and STOREM: `m` with a base update. -/
def longMem (store m : Bool) (w : Nat) (x : Ctx) : OpOut :=
  let size := typeSize (fType w)
  let b := fRa w
  let va := if m then x.rd b else x.rd b + sxWord 12 (bits w 11 0)
  let next := if fMode w = 0 then x.rd b + sxWord 10 (bits w 9 0) else baseNext x (fMode w) b size
  ⟨if m then [(b, next)] else [], none,
   some ⟨.long, store, va.toNat, size, if store then storeVal x (fRd w) size else 0, fRd w, 4 ≤ fType w⟩, none⟩

/-- A short operation of the SR class (R127). -/
def srOut (h : Nat) (f : Bool) (x : Ctx) : OpOut :=
  let func := bits h 12 8
  let d := bits h 7 4
  let r := bits h 3 0
  if func = 0x1D then ⟨[(d, x.rd (16 + r))], none, none, none⟩
  else if func = 0x1E then ⟨[(16 + d, x.rd r)], none, none, none⟩
  else match aluRes func (x.rd d) (x.rd r) x.fl.c with
    | some q => ⟨if aluNoReg func then [] else [(d, q.val)], if f || aluAlways func then some q else none, none, none⟩
    | none => ⟨[], none, none, none⟩

/-- A short operation of the SI class (R128). -/
def siOut (h : Nat) (f : Bool) (x : Ctx) : OpOut :=
  let imm := bits h 9 4
  let d := bits h 3 0
  let a := x.rd d
  let put (q : Res) : OpOut := ⟨[(d, q.val)], if f then some q else none, none, none⟩
  match bits h 12 10 with
  | 0 => put (resZN (word imm))
  | 1 => put (addRes a (sxWord 6 imm) false)
  | 2 => put (shiftRes .shl a imm)
  | 3 => put (shiftRes .shr a imm)
  | 4 => put (shiftRes .sar a imm)
  | 5 => ⟨[], some (subRes a (sxWord 6 imm) false), none, none⟩
  | 6 => put (resZN (a &&& word imm))
  | _ => ⟨[], some ⟨0#32, some (!(imm < 32 && bit a.toNat imm)), none, none, none⟩, none, none⟩

/-- A short operation of the SM class (R129). -/
def smOut (h : Nat) (half : Half) (x : Ctx) : OpOut :=
  let t := bits h 11 10
  let size := if t = 1 then 2 else if t = 2 then 4 else 1
  let rt := bits h 7 4
  let b := bits h 3 0
  let mode := bits h 9 8
  ⟨if mode = 0 then [] else [(b, baseNext x mode b size)], none,
   some ⟨half, bit h 12, (x.rd b).toNat, size, if bit h 12 then storeVal x rt size else 0, rt, t == 3⟩, none⟩

/-- A short operation of the SX class (R130). -/
def sxOut (h : Nat) (f : Bool) (x : Ctx) : OpOut :=
  let d := bits h 7 4
  let v := x.rd (bits h 3 0)
  let put (a : Word) : OpOut := ⟨[(d, a)], if f then some (resZN a) else none, none, none⟩
  let mov (ok : Bool) : OpOut := ⟨if ok then [(d, v)] else [], none, none, none⟩
  match bits h 12 8 with
  | 1 => put (word (v.toNat % 256))
  | 2 => put (word (v.toNat % 65536))
  | 3 => put (sxWord 8 v.toNat)
  | 4 => put (sxWord 16 v.toNat)
  | 5 => mov x.fl.z
  | 6 => mov !x.fl.z
  | 7 => mov x.fl.c
  | 8 => mov !x.fl.c
  | 9 => mov (x.fl.n != x.fl.v)
  | 10 => mov (x.fl.n == x.fl.v)
  | 11 => ⟨[], none, none, some (v.toNat % 256)⟩
  | _ => ⟨[], none, none, none⟩

/-- A short operation. -/
def shortOut (h : Nat) (f : Bool) (half : Half) (x : Ctx) : OpOut :=
  match bits h 14 13 with
  | 0 => srOut h f x
  | 1 => siOut h f x
  | 2 => smOut h half x
  | _ => sxOut h f x

/-- The operations of a paired word or of a long load or store, in order, from the registers before the word (R122). -/
def outsOf (w : Nat) (x : Ctx) : List OpOut :=
  if bit w 31 then [shortOut (fH1 w) (bit w 15) .first x, shortOut (fH2 w) (bit w 15) .second x]
  else [longMem (fMajor w % 2 == 1) (0xE ≤ fMajor w) w x]

/-- The value that a load gives to rt, and to rt + 1 of a double word. -/
def MemAcc.loaded (a : MemAcc) (v : Nat) : List (Nat × Word) :=
  if a.size = 8 then [(a.rt, word v), (a.rt + 1, word (v / 2 ^ 32))]
  else [(a.rt, if a.sx then sxWord (8 * a.size) v else word v)]

/-- Registers that one operation writes; w0 counts as none (R117). -/
def OpOut.regs (o : OpOut) : List Nat :=
  let l := o.wr.map (·.1) ++ match o.acc with
    | some a => if a.store then [] else if a.size = 8 then [a.rt, a.rt + 1] else [a.rt]
    | none => []
  l.filter (· != 0)

/-- An operation's results reach the context: base and registers, then the loaded value, then flags and the CRC unit. -/
def OpOut.apply (o : OpOut) (v : Nat) (x : Ctx) : Ctx :=
  let x := o.wr.foldl (fun x p => x.wr p.1 p.2) x
  let x := match o.acc with
    | some a => if a.store then x else (a.loaded v).foldl (fun x p => x.wr p.1 p.2) x
    | none => x
  let x := match o.fl with
    | some r => { x with fl := x.fl.put r }
    | none => x
  match o.crc with
  | some b => { x with crc := x.crc.byteIn b }
  | none => x

/-- Both halves write one register (R123). -/
def conflict : List OpOut → Bool
  | [a, b] => a.regs.any fun r => b.regs.contains r
  | _ => false

/-- The counter of paired words whose halves wrote one register. -/
def Dev.countConflict (c : Nat) (s : Dev) : Dev :=
  if isPatrol c then s.count .PAT_PAIR_CONFLICT_CNT else s.count .RNK_PAIR_CONFLICT_CNT (rinkOf c)

/-- The word completes with the loaded values of its operations (R122 to R126). -/
def Dev.complete (c : Nat) (outs : List OpOut) (vals : List Nat) (s : Dev) : Dev :=
  let s := s.updCtx c fun x => { (outs.zip vals).foldl (fun x p => p.1.apply p.2 x) x with stall := .none, walkFlt := [] }
  (s.when (conflict outs) (Dev.countConflict c)).nextWord c

/-- The memory of an address is the engine's own: it is reached at once. (DEDUCED: log entry 32.) -/
def localTo (c pa : Nat) : Bool :=
  if isPatrol c then rangeOf pa == .sram else dmemBase (rinkOf c) (c / 4 % 8) ≤ pa && pa < dmemBase (rinkOf c) (c / 4 % 8) + 0x10000

/-- A store: to the own memory at once, otherwise into the store buffer (R121). -/
def Dev.makeStore (c : Nat) (a : MemAcc) (pa : Nat) (s : Dev) : Dev :=
  if localTo c pa then (s.store pa a.size a.val).travWrote pa a.size
  else s.updEng (engOf c) fun e => { e with stores := e.stores ++ [⟨c, pa, a.size, a.val, e.seq⟩], seq := e.seq + 1 }

/-- What the translation of the accesses of a word comes to. -/
inductive Resolve where
  | ok (pas : List Nat)
  | miss (va : Nat)
  | fault (code : Nat) (half : Half) (store : Bool) (va : Nat)
deriving DecidableEq, Repr, Inhabited

/-- The translation of one access: alignment first, then a failed walk of this word, then the TLBs (R102, R142). -/
def Dev.lookAcc (c : Nat) (a : MemAcc) (s : Dev) : Look × Dev :=
  if a.va % a.size ≠ 0 then (.fault fltAlign, s)
  else match (s.ctx c).walkFlt.lookup a.va with
    | some k => (.fault k, s)
    | none =>
      match s.translate c a.va a.store with
      | (.ok pa, s) => (if a.half != .long && rangeOf pa == .regs then .fault fltShortReg else .ok pa, s)
      | q => q

/-- The accesses of a word, all translated (R105). -/
def Dev.resolve (c : Nat) (l : List MemAcc) (s : Dev) : Resolve × Dev :=
  match l with
  | [] => (.ok [], s)
  | [a] =>
    match s.lookAcc c a with
    | (.ok p, s) => (.ok [p], s)
    | (.miss, s) => (.miss a.va, s)
    | (.fault k, s) => (.fault k a.half a.store a.va, s)
  | a :: b :: _ =>
    let (p, s) := s.lookAcc c a
    let (q, s) := s.lookAcc c b
    match p, q with
    | .miss, _ => (.miss a.va, s)
    | _, .miss => (.miss b.va, s)
    | .ok x, .ok y => (.ok [x, y], s)
    | .fault k, .fault _ => (.fault k .both a.store a.va, s)
    | .fault k, _ => (.fault k a.half a.store a.va, s)
    | _, .fault k => (.fault k b.half b.store b.va, s)

/-- The value of a load from the own memory. -/
def Dev.ownLoad (s : Dev) (a : MemAcc) (pa : Nat) : Nat := s.load pa a.size

/-- Every access of the word in order; the values of loads. -/
def Dev.ownAll (c : Nat) : List (MemAcc × Nat) → Dev → List Nat × Dev
  | [], s => ([], s)
  | (a, pa) :: t, s =>
    if a.store then
      let (l, s) := Dev.ownAll c t (s.makeStore c a pa)
      (0 :: l, s)
    else
      let v := s.ownLoad a pa
      let (l, s) := Dev.ownAll c t s
      (v :: l, s)

/-- The values of the operations of a word, from those of its accesses. -/
def spread : List OpOut → List Nat → List Nat
  | [], _ => []
  | o :: t, l =>
    match o.acc with
    | some _ => l.headD 0 :: spread t l.tail
    | none => 0 :: spread t l

/-- A word with accesses: it faults, waits for a translation or for data, or completes. One with more stores than the buffer of its context has room for
waits, as the context does while its buffer is full (R121). (DEDUCED: log entry 32.) -/
def Dev.memWord (c w : Nat) (s : Dev) : Dev :=
  let outs := outsOf w (s.ctx c)
  let accs := outs.filterMap OpOut.acc
  match s.resolve c accs with
  | (.fault k h st va, s) => s.faultCtx c k h false st va
  | (.miss va, s) => s.updCtx c fun x => { x with stall := .walk va }
  | (.ok pas, s) =>
    let l := accs.zip pas
    let far := (l.filter fun p => p.1.store && !localTo c p.2).length
    if far ≠ 0 ∧ 8 < s.buffered c + far then s
    else if l.any fun p => !p.1.store && !localTo c p.2 then
      let made := (l.takeWhile fun p => p.1.store).length
      let s := s.each (l.take made) fun p s => s.makeStore c p.1 p.2
      let seq := (s.engine (engOf c)).seq
      (s.updEng (engOf c) fun e => { e with seq := seq + 1 }).updCtx c fun x => { x with stall := .data w pas made seq }
    else
      let (vals, s) := Dev.ownAll c l s
      s.complete c outs (spread outs vals)

/-- The loads from outside the engine that a context waits for, with their place among the requests of the engine: address and size. -/
def Dev.pendingLoads (s : Dev) (c : Nat) : Nat × List (Nat × Nat) :=
  match (s.ctx c).stall with
  | .data w pas made seq =>
    let l := (((outsOf w (s.ctx c)).filterMap OpOut.acc).zip pas).drop made
    (seq, (l.filter fun p => !p.1.store && !localTo c p.2).map fun p => (p.2, p.1.size))
  | _ => (0, [])

/-- Two addresses that one master's requests reach in the order in which it made them: in register space, in the local memories of one rink, or in one
bank (R24, R162). -/
def sameWay (a b : Nat) : Bool :=
  match rangeOf a, rangeOf b with
  | .regs, .regs => true
  | .local n _, .local m _ => n == m
  | .shared, .shared => bankOf a == bankOf b
  | _, _ => false

/-- A buffered store of the engine, made before request `seq`, covers a load (R121), or goes the same way as the load (R24, R162). -/
def Dev.covered (s : Dev) (c seq pa n : Nat) : Bool :=
  (s.engine (engOf c)).stores.any fun e => e.seq < seq && ((e.pa < pa + n && pa < e.pa + e.size) || sameWay e.pa pa)

/-- A load that another context of the engine made before request `seq` waits for an address that lies the same way. -/
def Dev.behindLoad (s : Dev) (c seq pa : Nat) : Bool :=
  (List.range 4).any fun i =>
    let (q, l) := s.pendingLoads (engOf c * 4 + i)
    q < seq && l.any fun p => sameWay p.1 pa

/-- Whether a store is a signal: a mailbox post, a push, a doorbell, a lock release, a slot
commit, or an invalidation (R27, R101, R417). -/
def isSignal (pa : Nat) : Bool :=
  rangeOf pa == .regs && match regAt (pa - regBase) with
    | some (.MBX_NOTICE_HIGH, _) | some (.RNK_PUSH, _) | some (.PAT_SQ_PUSH, _) | some (.MBX_DB_SET, _) | some (.MBX_LOCK, _)
    | some (.RNK_TLB_INV, _) | some (.CTL_COMMIT, _) => true
    | _ => false

/-- What holds a buffered store of context `c` (R24, R27, R101, R162, R165): before a signal, an earlier store of the engine that is not acknowledged;
before any store, an earlier one of the engine the same way; an earlier load the same way; a bank that is leaving retention. (DEDUCED: log entry 32.) -/
def Dev.storeHeld (c : Nat) (e : StoreE) (s : Dev) : Bool :=
  ((s.engine (engOf c)).stores.any fun x => x.seq < e.seq && (isSignal e.pa || sameWay e.pa x.pa))
    || s.behindLoad c e.seq e.pa || s.bankWaits e.pa e.size

/-- The accesses that remain are made in order: values of loads, and whether each returned an uncorrectable error. -/
def Dev.makeAll (c : Nat) : List (MemAcc × Nat) → Dev → List (Nat × Bool) × Dev
  | [], s => ([], s)
  | (a, pa) :: t, s =>
    if a.store then
      let (l, s) := Dev.makeAll c t (s.makeStore c a pa)
      ((0, false) :: l, s)
    else if localTo c pa then
      let v := s.ownLoad a pa
      let (l, s) := Dev.makeAll c t s
      ((v, false) :: l, s)
    else
      let (r, s) := s.busRead (midOf c) (ctxIn c) pa a.size
      let (l, s) := Dev.makeAll c t s
      ((leVal r.data, r.ue) :: l, s)

/-- The data of a stalled word returns: it completes, or faults (R103, R105). (DEDUCED: log entry 32.) -/
def Dev.dataReturn (c : Nat) (s : Dev) : Dev :=
  match (s.ctx c).stall with
  | .data w pas made seq =>
    let outs := outsOf w (s.ctx c)
    let accs := outs.filterMap OpOut.acc
    let l := (accs.zip pas).drop made
    let waits (p : Nat × Nat) : Bool :=
      s.covered c seq p.1 p.2 || s.behindLoad c seq p.1 || s.bankWaits p.1 p.2
    if !s.alive c || (s.pendingLoads c).2.any waits then s
    else
      let (vals, s) := s.makeAll c l
      let bad := ((l.zip vals).filter fun p => p.2.2).map fun p => p.1.1
      match bad with
      | [] => s.complete c outs (spread outs (List.replicate made 0 ++ vals.map (·.1)))
      | a :: t => s.faultCtx c fltData (if t.isEmpty then a.half else .both) (accs.any (·.store)) false a.va
  | _ => s

/-- A walk of a context completes, unless a bank that it reads is leaving retention (R165): it fills the TLBs, or its word faults, or it has been discarded (R99, R101, R103, R105). (DEDUCED: log entry 32.) -/
def Dev.walkComplete (c : Nat) (s : Dev) : Dev :=
  match s.eng.walks.find? fun w => midOf w.owner == midOf c with
  | none => s
  | some w =>
    if w.owner ≠ c || (!w.dead && (s.ctx c).stall == .walking && s.walkWaits w.va (s.rootOf w.rink w.space)) then s
    else
      let s := { s with eng := { s.eng with walks := s.eng.walks.erase w } }
      if (s.ctx c).stall ≠ .walking then s
      else if w.dead then s.updCtx c fun x => { x with stall := .walk w.va }
      else
        let s := s.updCtx c fun x => { x with stall := .none }
        match s.walk (midOf c) w.space w.va (s.rootOf w.rink w.space) with
        | (.error k, s) =>
          let s := s.updCtx c fun x => { x with walkFlt := (w.va, k) :: x.walkFlt }
          let accs := (outsOf (s.fetchWord c) (s.ctx c)).filterMap OpOut.acc
          match s.resolve c accs with
          | (.fault k h st va, s) => s.faultCtx c k h false st va
          | (.miss va, s) => s.updCtx c fun x => { x with stall := .walk va }
          | (.ok _, s) => s
        | (.ok e, s) => (if isPatrol c then s else s.fillL2 (rinkOf c) e).fillMicro c e

/-- The oldest buffered store of a context reaches its target, unless an earlier request of the engine holds it (R27, R121). -/
def Dev.storeDrain (c : Nat) (s : Dev) : Dev :=
  match (s.engine (engOf c)).stores.find? fun e => e.ctx == c with
  | none => s
  | some e =>
    if s.storeHeld c e then s
    else (s.updEng (engOf c) fun x => { x with stores := x.stores.erase e }).storeReach c e

/-- An illegal word (R152). -/
def Dev.illegalWord (c : Nat) (s : Dev) : Dev :=
  let pc := (s.ctx c).pc
  (s.updEng (engOf c) fun e => { e with illegalPc := pc, illegalCnt := min (e.illegalCnt + 1) (2 ^ 32 - 1) }).nextWord c

/-! ### Events (R146 to R149) -/

/-- WAITEV (R87, R106, R147). -/
def Dev.waitevWord (c w : Nat) (s : Dev) : Dev :=
  let mask := fIndex w
  let s := s.simple c fun x => { x with evRd := fRd w, skz := { x.skz with armed := mask } }
  let s :=
    if bit mask 0 && !s.hasLift c then (s.updCtx c fun x => { x with prio := 0 }).becomeIdle c
    else (s.when (bit mask 0 && !isPatrol c) fun s => s.count .RNK_LIFT_HOLD_CNT (rinkOf c)).setSt c .wait
  if s.evReady c ≠ 0 then s.wake c else s

/-- An armed event wakes a context (R87, R148). -/
def Dev.eventWake (c : Nat) (s : Dev) : Dev :=
  let st := (s.ctx c).st
  if s.alive c && (st == .idle || st == .wait) && s.evReady c != 0 then s.wake c else s

/-- The nanoseconds of a time base as a context sees them: the rink's copy, or on Patrol the TMU's value. (DEDUCED: log entry 32.) -/
def Dev.engNs (s : Dev) (c n : Nat) : Nat := tbNs (if isPatrol c then s.tbVal n else s.copyVal (rinkOf c) n)

/-- The timer of a context reaches its target: once for each enabling and each target (R149). (DEDUCED: log entry 25.) -/
def Dev.timerExpiry (c : Nat) (s : Dev) : Dev :=
  let k := (s.ctx c).skz
  if s.alive c && bit k.tmrCfg 8 && !k.fired && reached k.tmrNs (s.engNs c (k.tmrCfg % 4)) then
    s.updCtx c fun x => { x with skz := { x.skz with timer := true, fired := true } }
  else s

/-! ### Engine control registers (R150, R151, R471) -/

/-- A read of an engine control register. The clocks that have passed since the count last moved without an issue are open (DESIGN
CHOICE: log entry 9). -/
def Dev.crRead (c i : Nat) (s : Dev) : Nat × Dev :=
  let k := (s.ctx c).skz
  let e := s.engine (engOf c)
  match i with
  | 0x00 => (0x0D0201 + b2n e.pgf * 2 ^ 17, s)
  | 0x01 => (midOf c + ctxIn c * 2 ^ 8 + b2n (isPatrol c) * 2 ^ 10, s)
  | 0x02 => (s.evPend c, s)
  | 0x03 => (k.armed, s)
  | 0x04 => (k.dbsel, s)
  | 0x05 => (k.dbmask, s)
  | 0x06 => (k.tmrCfg, s)
  | 0x07 => (k.tmrNs, s)
  | 0x08 => (k.liftEv, s)
  | 0x0A => (k.fpcsr, s)
  | 0x0B => (e.illegalPc, s)
  | 0x0C => (e.illegalCnt, s)
  | 0x0D => (e.misuseCnt, s)
  | 0x0E =>
    let (v, s) := s.fresh
    let n := (e.cycle + v) % 2 ^ 32
    (n, s.updEng (engOf c) fun e => { e with cycle := n })
  | 0x09 | 0x0F => (0, s)
  | i =>
    if 0x10 ≤ i ∧ i ≤ 0x13 then (s.engNs c (i - 0x10), s)
    else if i = 0x80 then ((s.ctx c).space, s)
    else (0, s.skzMisuse c)

/-- RDCR. -/
def Dev.rdcrWord (c w : Nat) (s : Dev) : Dev :=
  let (v, s) := s.crRead c (fIndex w)
  s.simple c fun x => x.wr (fRd w) (word v)

/-- The device with an engine control register of a context written. -/
def Dev.updSkz (c : Nat) (f : Skz → Skz) (s : Dev) : Dev := s.updCtx c fun x => { x with skz := f x.skz }

/-- Reserved bits of a written word count as a violation (R9). -/
def Dev.strayCr (c v mask : Nat) (s : Dev) : Dev := if v &&& (2 ^ 32 - 1 - mask) = 0 then s else s.skzMisuse c

/-- A write of an engine control register. (DEDUCED: log entry 25.) -/
def Dev.crWrite (c i v : Nat) (s : Dev) : Dev :=
  match i with
  | 0x04 => (s.strayCr c v 0x11F).updSkz c fun k => { k with dbsel := v &&& 0x11F }
  | 0x05 => s.updSkz c fun k => { k with dbmask := v }
  | 0x06 => (s.strayCr c v 0x103).updSkz c fun k => { k with tmrCfg := v &&& 0x103, fired := k.fired && v &&& 0x103 == k.tmrCfg }
  | 0x07 => s.updSkz c fun k => { k with tmrNs := v, timer := false, fired := false }
  | 0x08 => (s.strayCr c v 0xFFFF).updSkz c fun k => { k with liftEv := k.liftEv &&& (0xFFFF - v % 65536) }
  | 0x09 =>
    (s.strayCr c v 0xF).each ((List.range 4).filter (bit v)) fun n s => s.updSkz (c - ctxIn c + n) fun k => { k with soft := true }
  | 0x0A => (s.strayCr c v 0x1F3).updSkz c fun k => { k with fpcsr := v % 4 + (k.fpcsr &&& (0x1F0 - (v &&& 0x1F0))) }
  | 0x0C => if v = 0 then s.updEng (engOf c) fun e => { e with illegalCnt := 0 } else s.skzMisuse c
  | 0x0D => if v = 0 then s.updEng (engOf c) fun e => { e with misuseCnt := 0 } else s
  | _ => s.skzMisuse c

/-- WRCR. -/
def Dev.wrcrWord (c w : Nat) (s : Dev) : Dev := (s.crWrite c (fIndex w) ((s.ctx c).rd (fRa w)).toNat).nextWord c

/-! ### Flags, FENCE, SETSPACE (R139, R153) -/

/-- The flags as MFFL gives them. -/
def FlagSet.code (f : FlagSet) : Nat := b2n f.z + 2 * b2n f.n + 4 * b2n f.c + 8 * b2n f.v + 16 * b2n f.dz

/-- The flags from a number. -/
def flagsOf (n : Nat) : FlagSet := ⟨bit n 0, bit n 1, bit n 2, bit n 3, bit n 4⟩

/-- SETSPACE. -/
def setspaceWord (w : Nat) (x : Ctx) : Ctx := { x with space := (x.rd (fRa w)).toNat % 16, micro := [] }

/-! ### CRC and bit stuffing (R155) -/

/-- Bytes of a register through the CRC unit, lowest first. -/
def crcBytes (n w : Nat) (x : Ctx) : Ctx :=
  { x with crc := (List.range n).foldl (fun u i => u.byteIn (bits (x.rd (fRa w)).toNat (8 * i + 7) (8 * i))) x.crc }

/-- STF.CFG. -/
def stfCfgWord (w : Nat) (x : Ctx) : Ctx :=
  let v := (x.rd (fRa w)).toNat
  { x with stf := ⟨v % 16, bit v 4, bit v 5, [], 0, false⟩ }

/-- STF.PUT. -/
def stfPutWord (w : Nat) (x : Ctx) : Ctx :=
  if 64 < x.stf.buf.length then { x with fl := { x.fl with c := false } }
  else
    let (u, viol) := x.stf.put (lowBits (count32 ((x.rd (fRb w)).toNat % 64)) (x.rd (fRa w)).toNat)
    { x with stf := u, fl := { x.fl with c := true, v := viol } }

/-- STF.GET. -/
def stfGetWord (w : Nat) (x : Ctx) : Ctx :=
  let n := count32 ((x.rd (fRb w)).toNat % 64)
  if x.stf.buf.length < n then { x with fl := { x.fl with c := false } }
  else
    let v := fromBits (x.stf.buf.take n)
    ({ x with stf := { x.stf with buf := x.stf.buf.drop n }, fl := { x.fl with c := true } }).wr (fRd w) (word v)

/-! ### Floating point (R157) -/

/-- The format of a CP2 word. -/
def fmtOf (w : Nat) : Fmt := if fMajor w = 0x39 then fmt64 else fmt32

/-- An operand: one register, or a pair. -/
def Ctx.frd (x : Ctx) (f : Fmt) (r : Nat) : Nat := (x.rd r).toNat + (if f = fmt64 then (x.rd (r + 1)).toNat * 2 ^ 32 else 0)

/-- A result into one register or a pair; w0 and w1 of a pair at 0 receive as any other. -/
def Ctx.fwr (x : Ctx) (f : Fmt) (r v : Nat) : Ctx :=
  let x := x.wr r (word v)
  if f = fmt64 then x.wr (r + 1) (word (v / 2 ^ 32)) else x

/-- RM. -/
def Ctx.rm (x : Ctx) : Nat := x.skz.fpcsr % 4

/-- The sticky flags are raised. -/
def Ctx.raise (x : Ctx) (g : FFlags) : Ctx := { x with skz := { x.skz with fpcsr := g.sticky x.skz.fpcsr } }

/-- A result with its flags. -/
def Ctx.fres (x : Ctx) (f : Fmt) (r : Nat) (q : FRes) : Ctx := (x.fwr f r q.val).raise q.fl

/-- FADD, FSUB, FMUL, FDIV. -/
def farithWord (op w : Nat) (x : Ctx) : Ctx :=
  let f := fmtOf w
  x.fres f (fRd w) (f.arith x.rm op (x.frd f (fRa w)) (x.frd f (fRb w)))

/-- FSQRT. -/
def fsqrtWord (w : Nat) (x : Ctx) : Ctx :=
  let f := fmtOf w
  x.fres f (fRd w) (f.sqrtV x.rm (f.unpack (x.frd f (fRa w))))

/-- FMIN, FMAX. -/
def fminmaxWord (max : Bool) (w : Nat) (x : Ctx) : Ctx :=
  let f := fmtOf w
  x.fres f (fRd w) (f.minMax max (x.frd f (fRa w)) (x.frd f (fRb w)))

/-- FMA. -/
def fmaWord (w : Nat) (x : Ctx) : Ctx :=
  let f := fmtOf w
  let v (r : Nat) : FVal := f.unpack (x.frd f r)
  x.fres f (fRd w) (f.fmaV x.rm (v (fRa w)) (v (fRb w)) (v (fRd w)))

/-- FCMP: an unordered comparison signals for a signalling NaN; whether for a quiet one too is open (DESIGN CHOICE: free, log entry 10). -/
def fcmpWord (w : Nat) (x : Ctx) : Ctx :=
  let f := fmtOf w
  let a := f.unpack (x.frd f (fRa w))
  let b := f.unpack (x.frd f (fRb w))
  let fl : FlagSet :=
    if a.isNaN || b.isNaN then { x.fl with z := false, n := false, c := false, v := true }
    else match a.cmp b with
      | .eq => { x.fl with z := true, n := false, c := true, v := false }
      | .lt => { x.fl with z := false, n := true, c := false, v := false }
      | .gt => { x.fl with z := false, n := false, c := true, v := false }
  ({ x with fl := fl }).raise { nv := a == FVal.nan true || b == FVal.nan true || (Config.fcmpSignals && (a.isNaN || b.isNaN)) }

/-- FABS, FNEG: the sign bit alone. -/
def fsignWord (neg : Bool) (w : Nat) (x : Ctx) : Ctx :=
  let f := fmtOf w
  let v := x.frd f (fRa w)
  let top := f.eb + f.mb
  x.fwr f (fRd w) (putBit v top (neg && !bit v top))

/-- FCVT.W, FCVT.WU. -/
def fcvtIntWord (sgn : Bool) (w : Nat) (x : Ctx) : Ctx :=
  let f := fmtOf w
  let (i, g) := (f.unpack (x.frd f (fRa w))).toIntSat x.rm (if sgn then -2147483648 else 0) (if sgn then 2147483647 else 4294967295)
  (x.wr (fRd w) (word (unsign 32 i))).raise g

/-- FCVT.FW, FCVT.FWU. -/
def fcvtFromWord (sgn : Bool) (w : Nat) (x : Ctx) : Ctx :=
  let f := fmtOf w
  let v := x.rd (fRa w)
  x.fres f (fRd w) (f.ofInt x.rm (if sgn then v.toInt else v.toNat))

/-- FCVT.X. -/
def fcvtXWord (w : Nat) (x : Ctx) : Ctx :=
  let to_ := fmtOf w
  let from_ := if to_ = fmt64 then fmt32 else fmt64
  x.fres to_ (fRd w) (to_.convert x.rm (from_.unpack (x.frd from_ (fRa w))))

end Sys2Proof.Machine
end

