-- ==== Sys2Proof/Machine/PgfOps.lean ====
section
/-! DEFINITION. Pregaef: the dispatch unit CP1 (R156), and the operations of a program as the runtime executes them (R414, R427, R433,
R435 to R438, R441). -/

namespace Sys2Proof.Machine

/-! ### Values on the stack (R432, R436) -/

/-- A typed value from the words that it occupies. -/
def tyVal (t n : Nat) : Int := if tySigned t then signed (tyBits t) n else (n % 2 ^ tyBits t : Nat)

/-- The words of a typed value as one number: sign-extended or zero-extended to 32 or 64 bits. -/
def tyRaw (t : Nat) (i : Int) : Nat :=
  let m := unsign (tyBits t) i
  if tySigned t then unsign (32 * tyWords t) (signed (tyBits t) m) else m

/-- The limits of a type that is no floating-point type. -/
def tyMin (t : Nat) : Int := if tySigned t then -((2 ^ (tyBits t - 1) : Nat) : Int) else 0
def tyMax (t : Nat) : Int := if tySigned t then ((2 ^ (tyBits t - 1) : Nat) : Int) - 1 else ((2 ^ tyBits t : Nat) : Int) - 1

/-- The format of REAL or LREAL. -/
def tyFmt (t : Nat) : Fmt := if t = tyLreal then fmt64 else fmt32

/-- A number taken from the top of a stack, low word below the high word; what remains. -/
def tyTake (t : Nat) (l : List Nat) : Nat × List Nat :=
  if tyWords t = 2 then (l.getD 1 0 + 2 ^ 32 * l.headD 0, l.drop 2) else (l.headD 0, l.drop 1)

/-- The words of a number, top first. -/
def tyPut (t n : Nat) : List Nat := if tyWords t = 2 then [n / 2 ^ 32 % 2 ^ 32, n % 2 ^ 32] else [n % 2 ^ 32]

/-- Conversion (R436). `rm` is the rounding of a conversion to an integer type: 0 nearest even, 1 toward zero. -/
def tyCvt (rm src dst n : Nat) : Nat :=
  if tyFloat dst then
    if tyFloat src then ((tyFmt dst).convert 0 ((tyFmt src).unpack n)).val else ((tyFmt dst).ofInt 0 (tyVal src n)).val
  else if tyFloat src then tyRaw dst (((tyFmt src).unpack n).toIntSat rm (tyMin dst) (tyMax dst)).1
  else tyRaw dst (max (tyMin dst) (min (tyMax dst) (tyVal src n)))

/-- ADD, SUB, MUL, DIV, MOD, MIN, MAX by opcode: the result, or `none` for a division of integers by zero (R436). -/
def tyArith (op t x y : Nat) : Option Nat :=
  if tyFloat t then
    let f := tyFmt t
    some <| match op with
      | 0x10 => (f.arith 0 0 x y).val
      | 0x11 => (f.arith 0 1 x y).val
      | 0x12 => (f.arith 0 2 x y).val
      | 0x13 => (f.arith 0 3 x y).val
      | 0x17 => (f.minMax false x y).val
      | _ => (f.minMax true x y).val
  else
    let a := tyVal t x
    let b := tyVal t y
    match op with
    | 0x10 => some (tyRaw t (a + b))
    | 0x11 => some (tyRaw t (a - b))
    | 0x12 => some (tyRaw t (a * b))
    | 0x13 => if b = 0 then none else some (tyRaw t (a.tdiv b))
    | 0x14 => if b = 0 then none else some (tyRaw t (a.tmod b))
    | 0x17 => some (tyRaw t (min a b))
    | _ => some (tyRaw t (max a b))

/-- NEG, ABS, NOT, SQRT. -/
def tyUnary (op t x : Nat) : Nat :=
  if tyFloat t then
    let f := tyFmt t
    let top := f.eb + f.mb
    match op with
    | 0x15 => putBit x top (!bit x top)
    | 0x16 => putBit x top false
    | _ => (f.sqrtV 0 (f.unpack x)).val
  else
    match op with
    | 0x15 => tyRaw t (-tyVal t x)
    | 0x16 => tyRaw t (tyVal t x).natAbs
    | _ => tyRaw t ((2 ^ tyBits t - 1 - x % 2 ^ tyBits t : Nat) : Int)

/-- AND, OR, XOR. -/
def tyLogic (op t x y : Nat) : Nat :=
  let a := x % 2 ^ tyBits t
  let b := y % 2 ^ tyBits t
  let v := match op with
    | 0x19 => a &&& b
    | 0x1A => a ||| b
    | _ => a ^^^ b
  tyRaw t (v : Int)

/-- SHL, SHR, ROL, ROR by an amount. -/
def tyShift (op t x n : Nat) : Nat :=
  let w := tyBits t
  let a := x % 2 ^ w
  let k := n % w
  let v := match op with
    | 0x1D => if w ≤ n then 0 else a * 2 ^ n
    | 0x1E => if w ≤ n then 0 else a / 2 ^ n
    | 0x1F => a * 2 ^ k + a / 2 ^ (w - k)
    | _ => a / 2 ^ k + a * 2 ^ (w - k)
  tyRaw t (v : Int)

/-- EQ, NE, LT, LE, GT, GE by the order of two values; `none` where a NaN takes part. -/
def cmpHolds (op : Nat) : Option Ordering → Bool
  | none => op == 0x22
  | some .eq => op == 0x21 || op == 0x24 || op == 0x26
  | some .lt => op == 0x22 || op == 0x23 || op == 0x24
  | some .gt => op == 0x22 || op == 0x25 || op == 0x26

/-- The order of two values of a type. -/
def tyOrder (t x y : Nat) : Option Ordering :=
  if tyFloat t then
    let a := (tyFmt t).unpack x
    let b := (tyFmt t).unpack y
    if a.isNaN || b.isNaN then none else some (a.cmp b)
  else some (compare (tyVal t x) (tyVal t y))

/-! ### Function blocks (R438) -/

/-- A signed 64-bit time from its words. -/
def timeOf (lo hi : Nat) : Int := signed 64 (lo + 2 ^ 32 * hi)

/-- The two words of a time, low first. -/
def timeWords (i : Int) : List Nat := [unsign 64 i % 2 ^ 32, unsign 64 i / 2 ^ 32]

/-- A timer: IN, PT, TT and its stored words give the new words, Q and ET. -/
def timerFb (kind : Nat) (inp : Bool) (pt tt : Int) (w : List Nat) : List Nat × Bool × Int :=
  let g (i : Nat) : Nat := w.getD i 0
  let in0 := g 0 != 0
  let q0 := g 1 != 0
  let st0 := timeOf (g 2) (g 3)
  let et0 := timeOf (g 4) (g 5)
  let out (q : Bool) (st et : Int) : List Nat × Bool × Int := ([b2n inp, b2n q] ++ timeWords st ++ timeWords et, q, et)
  match kind with
  | 0x20 =>
    if !inp then out false st0 0
    else
      let st := if in0 then st0 else tt
      out (pt ≤ tt - st) st (min (tt - st) pt)
  | 0x21 =>
    if inp then out true st0 0
    else if !q0 then out false st0 et0
    else
      let st := if in0 then tt else st0
      out (tt - st < pt) st (min (tt - st) pt)
  | _ =>
    if q0 || (inp && !in0) then
      let st := if q0 then st0 else tt
      out (tt - st < pt) st (min (tt - st) pt)
    else out false st0 (if inp then et0 else 0)

/-- One more, one less, within DINT. -/
def dintInc (i : Int) : Int := min (i + 1) (tyMax tyDint)
def dintDec (i : Int) : Int := max (i - 1) (tyMin tyDint)

/-- A function block: its kind, the words popped (top first) and the stored words give the new stored words and what is pushed (top
first). -/
def fbRun (kind : Nat) (tt : Int) (l w : List Nat) : List Nat × List Nat :=
  let p (i : Nat) : Bool := l.getD i 0 % 2 == 1
  let g (i : Nat) : Nat := w.getD i 0
  let dint (n : Nat) : Int := tyVal tyDint n
  let raw (i : Int) : Nat := tyRaw tyDint i
  match kind with
  | 0x20 | 0x21 | 0x22 =>
    let (w, q, et) := timerFb kind (p 2) (timeOf (l.getD 1 0) (l.getD 0 0)) tt w
    (w, (timeWords et).reverse ++ [b2n q])
  | 0x23 =>
    let pv := dint (l.getD 0 0)
    let cv := if p 1 then 0 else if p 2 && g 0 == 0 && g 2 == 0 then dintInc (dint (g 1)) else dint (g 1)
    ([b2n (p 2), raw cv, 0], [raw cv, b2n (decide (pv ≤ cv))])
  | 0x24 =>
    let pv := dint (l.getD 0 0)
    let cv := if p 1 then pv else if p 2 && g 0 == 0 && g 2 == 0 then dintDec (dint (g 1)) else dint (g 1)
    ([b2n (p 2), raw cv, 0], [raw cv, b2n (decide (cv ≤ 0))])
  | 0x25 =>
    let pv := dint (l.getD 0 0)
    let up := p 4 && g 0 == 0 && g 3 == 0
    let down := p 3 && g 1 == 0 && g 3 == 0
    let old := dint (g 2)
    let cv := if p 2 then 0 else if p 1 then pv else if up && !down then dintInc old else if down && !up then dintDec old else old
    ([b2n (p 4), b2n (p 3), raw cv, 0], [raw cv, b2n (decide (cv ≤ 0)), b2n (decide (pv ≤ cv))])
  | 0x26 => ([b2n (p 0), 0], [b2n (p 0 && g 0 == 0 && g 1 == 0)])
  | _ => ([b2n (p 0), 0], [b2n (!p 0 && g 0 != 0 && g 1 == 0)])

/-- The stored words of a new instance after a migration (R441). -/
def fbIdle (kind : Nat) : List Nat :=
  match kind with
  | 0x20 | 0x21 | 0x22 => [0, 0, 0, 0, 0, 0]
  | 0x23 | 0x24 => [0, 0, 1]
  | 0x25 => [0, 0, 0, 1]
  | _ => [0, 1]

/-! ### The stack in the engine's data memory (R156, R413) -/

/-- The address of a stack word. -/
def stackAt (c off : Nat) : Nat := dmemBase (rinkOf c) (c / 4 % 8) + off % 0x10000

/-- `n` words from the top of the stack, top first. -/
def Dev.stackTop (s : Dev) (c n : Nat) : List Nat :=
  (List.range n).map fun i => s.load (stackAt c ((s.ctx c).pgSp + 0x10000 - 4 * (i + 1))) 4

/-- The stack pointer moves down by `n` words, or up. -/
def Dev.stackDrop (c n : Nat) (s : Dev) : Dev := s.updCtx c fun x => { x with pgSp := (x.pgSp + 0x40000 - 4 * (n % 0x4000)) % 0x10000 }

/-- A word is pushed: the stack grows upward from its OFFSET, with the pointer at the next free word (R156 gives OFFSET and SIZE and no direction;
DESIGN CHOICE: log entry 33). -/
def Dev.stackPush (c v : Nat) (s : Dev) : Dev :=
  (s.store (stackAt c (s.ctx c).pgSp) 4 v).updCtx c fun x => { x with pgSp := (x.pgSp + 4) % 0x10000 }

/-- Words are pushed, given top first. -/
def Dev.stackPut (c : Nat) (l : List Nat) (s : Dev) : Dev := s.each l.reverse fun v s => s.stackPush c v

/-! ### A program in memory (R431, R432) -/

/-- Type of an I/O entry of the program at `a`; type, data word and count of a symbol. -/
def Dev.ioWord (s : Dev) (a k : Nat) : Nat := s.view ((s.ioMap a).1 + 8 * k) 4
def Dev.ioData (s : Dev) (a k : Nat) : Nat := s.view ((s.ioMap a).1 + 8 * k + 4) 4
def Dev.progHdr (s : Dev) (a : Nat) : ProgHdr := Sys2Proof.Machine.progHdr (s.viewBytes a 32)
def Dev.progSym (s : Dev) (a k : Nat) : Sym := symOf (s.viewBytes (a + (s.progHdr a).symOff + 12 * k) 12)

/-- The address of a data word of the program at `a`. -/
def Dev.dataAt (s : Dev) (a k : Nat) : Nat := a + (s.progHdr a).dataOff + 4 * k

/-- The address of the data of a slot as the latch table of the task gives it (R423). -/
def Dev.latchData (s : Dev) (t n : Nat) : Nat :=
  let i := (s.mapSlots (s.taskCode t)).findIdx (· == n)
  s.piBase + 64 * bits (s.view ((s.task t).latch + 4 * i) 4) 16 0 + 16

/-- The words of data of a program go to memory, in order. -/
def Dev.dataPut (c a k : Nat) (l : List Nat) (s : Dev) : Dev :=
  s.each (List.range l.length) fun i s => s.physWrite (midOf c) (s.dataAt a (k + i)) (leBytes 4 (l.getD i 0))

/-- Words of data of a program. -/
def Dev.dataGet (s : Dev) (a k n : Nat) : List Nat := (List.range n).map fun i => s.view (s.dataAt a (k + i)) 4

/-- Runs of bytes of the task's data and slots are read; whether one of them returns an uncorrectable error (R435). (DEDUCED: log entry 33.) -/
def Dev.pgReads (c : Nat) (l : List (Nat × Nat)) (s : Dev) : Bool × Dev :=
  l.foldl (fun (b, s) p =>
    let (r, s) := s.physRead (midOf c) p.1 p.2
    (b || r.ue, s)) (false, s)

/-- A value of a slot from its bytes in the order of its network, and back (R383, R432). -/
def netVal (big : Bool) (l : List Byte) : Nat := if big then beVal l else leVal l
def netBytes (big : Bool) (n v : Nat) : List Byte := if big then beBytes n v else leBytes n v

/-- The order of bytes of the network of a slot. -/
def Dev.slotBig (s : Dev) (n : Nat) : Bool := Config.netBig (s.pers.stations.get (n / 2)).pers

/-- The value that IN reads from a latched slot, from its bytes at `a`. -/
def Dev.slotValue (s : Dev) (e a : Nat) : Nat :=
  let t := ioType e
  if t = tyBool then b2n (bit (s.view (a + ioByte e) 1) (ioBit e))
  else
    let v := netVal (s.slotBig (ioSlot e)) (s.viewBytes (a + ioByte e) (tyBytes t))
    if tyFloat t then v else tyRaw t (v : Int)

/-! ### Runs (R427, R429, R437, R441) -/

/-- The migration of one symbol of the new program from the old one. -/
def Dev.migrateSym (c new old k : Nat) (s : Dev) : Dev :=
  let y := s.progSym new k
  let n := y.count * symWords y.type
  match ((List.range (s.progHdr old).syms).map (s.progSym old)).find? fun z => z.id == y.id && z.type == y.type && z.count == y.count with
  | some z => s.dataPut c new y.off (s.dataGet old z.off n)
  | none =>
    if isFb y.type then s.dataPut c new y.off (List.replicate y.count (fbIdle y.type)).flatten
    else s.each (List.range y.count) fun i s =>
      let (v, s) := s.fresh
      s.dataPut c new (y.off + i * tyWords y.type) (tyPut y.type (tyRaw y.type (v : Int))).reverse

/-- Where the runtime keeps TT and the previous T0 in the data of the program at `a` (R437; log entry 20). -/
def Dev.ttAt (s : Dev) (a : Nat) : Nat := s.dataAt a (s.progHdr a).dataWords

/-- TT as the data of the program at `a` hold it. -/
def Dev.ttOf (s : Dev) (a : Nat) : Int := timeOf (s.view (s.ttAt a) 4) (s.view (s.ttAt a + 4) 4)

/-- The header of a program, and its symbol table, as runs of bytes. -/
def Dev.hdrRun (a : Nat) : Nat × Nat := (a, 32)
def Dev.symRun (s : Dev) (a : Nat) : Nat × Nat := (a + (s.progHdr a).symOff, 12 * (s.progHdr a).syms)

/-- Bytes of the old program's data that a migration reads. -/
def Dev.migrateReads (s : Dev) (old : Nat) : List (Nat × Nat) :=
  (List.range (s.progHdr old).syms).map fun k =>
    let y := s.progSym old k
    (s.dataAt old y.off, 4 * (y.count * symWords y.type))

/-- An access of the runtime returns an uncorrectable error: the context faults (R435). The address that the runtime used is not
stated. (DEDUCED: log entry 33.) -/
def Dev.pgFault (c : Nat) (s : Dev) : Dev :=
  let (va, s) := s.fresh
  s.faultCtx c fltData .long false false (va % 2 ^ 32)

/-- The program whose data a run that begins reads: that of the task, or the one before an exchange (R441). -/
def Dev.beginFrom (s : Dev) (t : Nat) : Nat := if (s.task t).mig = 0 then s.taskCode t else (s.task t).mig

/-- What a run that begins reads from the task's data: TT, and what migrates; none where the run has begun. -/
def Dev.beginReads (s : Dev) (t : Nat) : List (Nat × Nat) :=
  if !(s.task t).fresh then []
  else (s.ttAt (s.beginFrom t), 12) :: (if (s.task t).mig = 0 then [] else s.migrateReads (s.task t).mig)

/-- What it reads of the programs themselves. -/
def Dev.beginWords (s : Dev) (t : Nat) : List (Nat × Nat) :=
  let a := s.taskCode t
  let m := (s.task t).mig
  if !(s.task t).fresh then [] else if m = 0 then [Dev.hdrRun a] else [Dev.hdrRun a, s.symRun a, Dev.hdrRun m, s.symRun m]

/-- A run begins with its first instruction: TT advances, and state migrates on the first run after an exchange (R437, R441). False when a load from
the task's data returns an uncorrectable error. -/
def Dev.runBegin (c t : Nat) (s : Dev) : Bool × Dev :=
  let x := s.task t
  if !x.fresh then (true, s)
  else
    let (bad, s) := (s.touch (midOf c) (s.beginWords t)).pgReads c (s.beginReads t)
    if bad then (false, s.pgFault c)
    else
      let a := s.taskCode t
      let src := s.beginFrom t
      let d := signed 32 (sub32 x.runT0 (s.view (s.ttAt src + 8) 4))
      let tt := if x.began then s.ttOf src + max 0 d else 0
      let s := s.updTask t fun x => { x with fresh := false, began := true }
      let s := s.physWrite (midOf c) (s.ttAt a) ((timeWords tt).flatMap (leBytes 4) ++ leBytes 4 x.runT0)
      (true, if x.mig = 0 then s else s.each (List.range (s.progHdr a).syms) fun k s => s.migrateSym c a x.mig k)

/-- The context leaves its task: at PGF.END and at a STOP; a job that a context takes ends a binding too (`Ctx.load`). R156 names no end but the
RINK reset (DESIGN CHOICE: log entry 33). -/
def Dev.unbind (c : Nat) (s : Dev) : Dev := s.updCtx c fun x => { x with bound := 0, task := 0 }

/-- The run ends because CTL has raised STOP (R429). -/
def Dev.stopRun (c t : Nat) (s : Dev) : Dev := (s.runStopped t).unbind c

/-- The run ends and reports (R427). (DEDUCED: log entry 33.) -/
def Dev.endRun (c t : Nat) (s : Dev) : Dev := (s.runReport t).unbind c

/-! ### The dispatch unit (R156) -/

/-- PGF.BIND. CTL holds only the program's address: the code pointer starts at the entry word of function 0, which the program header in memory
gives (R156 does not say where the code begins; DESIGN CHOICE: log entry 33). -/
def Dev.pgfBindWord (c w : Nat) (s : Dev) : Dev :=
  let t := ((s.ctx c).rd (fRa w)).toNat % 16
  let a := s.taskCode t
  if s.anyWaits [Dev.hdrRun a, (a + 0x20, 4)] then s
  else (s.touch (midOf c) [Dev.hdrRun a, (a + 0x20, 4)]).simple c fun x => { x with
    bound := t + 1
    pgPc := a + (s.progHdr a).codeOff + 4 * s.view (a + 0x20) 4
    pgSp := s.fld .CTL_TASK_STACK_OFFSET t
    pgBase := s.fld .CTL_CFG_HBASE }

/-- A word of CP1 other than PGF.BIND: on a context without a task it writes nothing and does not branch. -/
def Dev.cp1Word (c : Nat) (f : Nat → Dev → Dev) (s : Dev) : Dev :=
  if (s.ctx c).bound = 0 then (s.skzMisuse c).nextWord c else f ((s.ctx c).bound - 1) s

/-- PGF.NEXT: a coprocessor operation raises no fault of its own (R154); the runtime's loads with which a run begins may (R435). -/
def Dev.pgfNextWord (c w : Nat) (s : Dev) : Dev :=
  s.cp1Word c fun t s =>
    if (s.task t).stop then (s.stopRun c t).nextWord c
    else if s.anyWaits (((s.ctx c).pgPc, 4) :: s.beginReads t ++ s.beginWords t) then s
    else match s.runBegin c t with
      | (false, s) => s
      | (true, s) =>
        let s := s.touch (midOf c) [((s.ctx c).pgPc, 4)]
        let i := s.view (s.ctx c).pgPc 4
        (s.updCtx c fun x => { x.wr (fRd w) (BitVec.ofInt 32 (pgArg i)) with pgPc := x.pgPc + 4 }).goto c ((s.ctx c).pgBase + 4 * pgOp i)

/-- The types of the stack words follow words that the engine itself pops and pushes. -/
def Dev.retype (t pop push : Nat) (s : Dev) : Dev :=
  s.updTask t fun x => { x with tys := List.replicate push none ++ x.tys.drop pop }

/-- PGF.POP and PGF.POP2: `n` words. -/
def Dev.pgfPopWord (n c w : Nat) (s : Dev) : Dev :=
  s.cp1Word c fun t s =>
    let l := s.stackTop c n
    (((s.stackDrop c n).retype t n 0).updCtx c fun x =>
      (List.range n).foldl (fun x i => x.wr (fRd w + n - 1 - i) (word (l.getD i 0))) x).nextWord c

/-- PGF.PUSH and PGF.PUSH2: `n` words. -/
def Dev.pgfPushWord (n c w : Nat) (s : Dev) : Dev :=
  s.cp1Word c fun t s =>
    let x := s.ctx c
    ((s.each (List.range n) fun i s => s.stackPush c (x.rd (fRa w + i)).toNat).retype t 0 n).nextWord c

/-- PGF.JMP: ra holds a physical byte address (R156 names no unit for the code pointer; DESIGN CHOICE: log entry 33). -/
def Dev.pgfJmpWord (c w : Nat) (s : Dev) : Dev :=
  s.cp1Word c fun _ s => s.simple c fun x => { x with pgPc := (x.rd (fRa w)).toNat }

/-- PGF.END: the report reaches CTL after the stores of the context (R27, R427). -/
def Dev.pgfEndWord (c : Nat) (s : Dev) : Dev := s.cp1Word c fun t s => (s.endRun c t).nextWord c

/-! ### One operation of the program -/

/-- The bytes of an output slot: each of its entries takes its value from the output image (R427). -/
def Dev.slotImage (s : Dev) (a n : Nat) : List Byte :=
  let es := (List.range (s.ioMap a).2).filter fun k => ioSlot (s.ioWord a k) == n && ioOut (s.ioWord a k)
  es.foldl (fun (l : List Byte) k =>
    let e := s.ioWord a k
    let t := ioType e
    let v := s.view (s.dataAt a (s.ioData a k)) (4 * tyWords t)
    let old := (l.getD (ioByte e) 0#8).toNat
    let b := if t = tyBool then [BitVec.ofNat 8 (putBit old (ioBit e) (v % 2 == 1))] else netBytes (s.slotBig n) (tyBytes t) v
    (l.take (ioByte e) ++ b ++ l.drop (ioByte e + b.length)).take l.length)
    (List.replicate (s.pers.stations.get (n / 2)).outLen 0#8)

/-- The latch table entry of a slot. -/
def Dev.latchRun (s : Dev) (t n : Nat) : Nat × Nat := ((s.task t).latch + 4 * (s.mapSlots (s.taskCode t)).findIdx (· == n), 4)

/-- The output entries of a program's I/O map. -/
def Dev.outEnts (s : Dev) (a : Nat) : List Nat := (List.range (s.ioMap a).2).filter fun i => ioOut (s.ioWord a i)

/-- The runs of bytes that an operation reads of the program and of the latch table: its own word, constants, entries, symbols. An uncorrectable error
there is counted and latched, and faults no run (R160, R435). -/
def Dev.opWords (s : Dev) (c t w : Nat) : List (Nat × Nat) :=
  let a := s.taskCode t
  let k := (pgArg w).toNat
  let ent (k : Nat) : Nat × Nat := ((s.ioMap a).1 + 8 * k, 8)
  ((s.ctx c).pgPc, 4) :: match pgOp w with
  | 2 => [(a + (s.progHdr a).constOff + 4 * k, 4)]
  | 3 => [(a + (s.progHdr a).constOff + 4 * k, 8)]
  | 8 | 0xA => [ent k, s.latchRun t (ioSlot (s.ioWord a k))]
  | 9 => [ent k]
  | 0x33 => [(a + 0x20 + 4 * k, 4)]
  | 0x35 => (List.range (s.ioMap a).2).map ent
      ++ ((s.taskSlots t true).filter (s.mapSlots a).contains).map (s.latchRun t)
  | 0x38 => [(a + (s.progHdr a).symOff + 12 * k, 12)]
  | _ => []

/-- The runs of bytes that an operation reads of the task's data and slots, where an uncorrectable error faults the run (R435). -/
def Dev.opReads (s : Dev) (t w : Nat) : List (Nat × Nat) :=
  let a := s.taskCode t
  let k := (pgArg w).toNat
  match pgOp w with
  | 4 => [(s.dataAt a k, 4)]
  | 6 => [(s.dataAt a k, 8)]
  | 8 =>
    let e := s.ioWord a k
    [(s.latchData t (ioSlot e) + ioByte e, tyBytes (ioType e))]
  | 0xB => [(s.ttAt a, 8)]
  | 0x35 => (s.outEnts a).map fun i => (s.dataAt a (s.ioData a i), 4 * tyWords (ioType (s.ioWord a i)))
  | 0x38 =>
    let y := s.progSym a k
    [(s.dataAt a y.off, 4 * symWords y.type), (s.ttAt a, 8)]
  | _ => []

/-- Where the runtime writes an output slot at the end: copy B as the latch table gives it (R427). -/
def Dev.slotOutAt (s : Dev) (t n : Nat) : Nat :=
  if (s.mapSlots (s.taskCode t)).contains n then s.latchData t n - 16 else s.copyAddr n (s.fld .CTL_SLOT_B n)

/-- The runs of bytes that an operation writes. -/
def Dev.opStores (s : Dev) (t w : Nat) : List (Nat × Nat) :=
  let a := s.taskCode t
  let k := (pgArg w).toNat
  match pgOp w with
  | 5 => [(s.dataAt a k, 4)]
  | 7 => [(s.dataAt a k, 8)]
  | 9 => [(s.dataAt a (s.ioData a k), 4 * tyWords (ioType (s.ioWord a k)))]
  | 0x35 => (s.taskSlots t true).map fun n => (s.slotOutAt t n, 64 * s.slotSize n)
  | _ => []

/-- The runtime writes an output slot whole: into copy B as the latch table gives it (R427). (DEDUCED: log entry 33.) -/
def Dev.slotOut (c t n : Nat) (s : Dev) : Dev :=
  s.physWrite (midOf c) (s.slotOutAt t n) (slotBytes ((s.task t).runT0 * 256) (s.fld .CTL_TASK_CFG_TB t) (s.slotImage (s.taskCode t) n))

/-- What an operation that works on the stack alone pushes for the words popped, and whether it reports ARITH. -/
def stackOp (w : Nat) (l : List Nat) : List Nat × Bool :=
  let op := pgOp w
  let t := w / 256 % 256
  let (y, r) := tyTake t l
  let (x, _) := tyTake t r
  match op with
  | 0xC => ([l.headD 0, l.headD 0], false)
  | 0xE => ([l.getD 1 0, l.getD 0 0], false)
  | 0xF => ([l.getD 0 0, l.getD 1 0, l.getD 0 0, l.getD 1 0], false)
  | 0x10 | 0x11 | 0x12 | 0x13 | 0x14 | 0x17 | 0x18 =>
    match tyArith op t x y with
    | some v => (tyPut t v, false)
    | none => (tyPut t 0, true)
  | 0x15 | 0x16 | 0x1C | 0x28 => (tyPut t (tyUnary op t y), false)
  | 0x19 | 0x1A | 0x1B => (tyPut t (tyLogic op t x y), false)
  | 0x1D | 0x1E | 0x1F | 0x20 => (tyPut t (tyShift op t (tyTake t (l.drop 1)).1 (l.headD 0)), false)
  | 0x21 | 0x22 | 0x23 | 0x24 | 0x25 | 0x26 => ([b2n (cmpHolds op (tyOrder t x y))], false)
  | 0x27 => (tyPut (w / 65536 % 256) (tyCvt 0 t (w / 65536 % 256) y), false)
  | 0x29 => (tyPut (w / 65536 % 256) (tyCvt 1 t (w / 65536 % 256) y), false)
  | _ => ([], false)

/-- A timer with a negative PT, for which neither R438 nor the standard that it names states Q and ET. -/
def oddTimer (kind : Nat) (l : List Nat) : Bool := kind ≤ 0x22 && timeOf (l.getD 1 0) (l.getD 0 0) < 0

/-- The words that an operation pushes, with what else it does to data, for the words popped. Jumps, calls and ends are handled by
`doPregaef`. -/
def Dev.opWork (c t w : Nat) (tys : List Ty) (l : List Nat) (s : Dev) : List Nat × Dev :=
  let a := s.taskCode t
  let h := s.progHdr a
  let k := (pgArg w).toNat
  let const (i : Nat) : Nat := s.view (a + h.constOff + 4 * i) 4
  match pgOp w with
  | 1 => ([unsign 32 (pgArg w)], s)
  | 2 => ([const k], s)
  | 3 => ([const (k + 1), const k], s)
  | 4 => (s.dataGet a k 1, s)
  | 5 => ([], s.dataPut c a k l)
  | 6 => ((s.dataGet a k 2).reverse, s)
  | 7 => ([], s.dataPut c a k l.reverse)
  | 8 =>
    let e := s.ioWord a k
    (tyPut (ioType e) (s.slotValue e (s.latchData t (ioSlot e))), s)
  | 9 =>
    let dst := ioType (s.ioWord a k)
    let src := outSrc dst tys
    ([], s.dataPut c a (s.ioData a k) (tyPut dst (tyCvt 0 src dst (tyTake src l).1)).reverse)
  | 0xA => ([s.view ((s.task t).latch + 4 * (s.mapSlots a).findIdx (· == ioSlot (s.ioWord a k))) 4], s)
  | 0xB => (tyPut tyTime (unsign 64 (s.ttOf a)), s)
  | 0x38 =>
    let y := s.progSym a k
    if oddTimer y.type l then
      let (q, s) := s.fresh
      let (et, s) := s.fresh
      let (st, _) := fbRun y.type (s.ttOf a) l (s.dataGet a y.off (symWords y.type))
      let et := unsign 64 (et : Int)
      ((timeWords (et : Int)).reverse ++ [q % 2],
        s.dataPut c a y.off ([st.headD 0, q % 2] ++ (st.drop 2).take 2 ++ timeWords (et : Int)))
    else
      let (st, push) := fbRun y.type (s.ttOf a) l (s.dataGet a y.off (symWords y.type))
      (push, s.dataPut c a y.off st)
  | _ =>
    let (push, bad) := stackOp w l
    (push, if bad then s.arithReport t else s)

/-- Where the code pointer goes after an operation, for the top word popped, and the open calls. -/
def Dev.opNext (s : Dev) (t w pc : Nat) (l : List Nat) : Nat × List Nat :=
  let a := s.taskCode t
  let x := s.task t
  let rel : Nat := ((pc : Int) + 4 * pgArg w).toNat
  let on := l.headD 0 % 2 == 1
  match pgOp w with
  | 0x30 => (rel, x.frames)
  | 0x31 => (if on then rel else pc + 4, x.frames)
  | 0x32 => (if on then pc + 4 else rel, x.frames)
  | 0x33 => (a + (s.progHdr a).codeOff + 4 * s.view (a + 0x20 + 4 * (pgArg w).toNat) 4, (pc + 4) :: x.frames)
  | 0x34 => (x.frames.headD (pc + 4), x.frames.tail)
  | _ => (pc + 4, x.frames)

/-- One operation of the program of a bound context. (DEDUCED: log entry 33.) -/
def Dev.doPregaef (c t w : Nat) (s : Dev) : Dev :=
  match (s.touch (midOf c) (s.opWords c t w)).pgReads c (s.opReads t w) with
  | (true, s) => s.pgFault c
  | (false, s) =>
    let a := s.taskCode t
    let tys := (s.task t).tys
    let (pop, push) := wordEffect (fun k => ioType (s.ioWord a k)) (fun k => (s.progSym a k).type) w tys
    let l := s.stackTop c pop
    let (vals, s) := s.opWork c t w tys l
    let (pc, frames) := s.opNext t w (s.ctx c).pgPc l
    let s := ((s.stackDrop c pop).stackPut c vals).updCtx c fun x => { x with pgPc := pc }
    let s := s.updTask t fun x => { x with tys := push ++ x.tys.drop pop, frames := frames }
    if pgOp w = 0x35 then
      let s := s.each (s.taskSlots t true) fun n s => s.slotOut c t n
      s.endRun c t
    else s

/-- The runtime's accesses for an operation wait: for a bank that is leaving retention (R165), and at the end of a run, whose report is a signal, for
every store that the engine has made (R27, R427); otherwise for those of its own context. -/
def Dev.opWaits (s : Dev) (c t w : Nat) : Bool :=
  (if pgOp w = 0x35 then !(s.engine (engOf c)).stores.isEmpty else s.buffered c != 0)
    || s.anyWaits (s.beginReads t ++ s.beginWords t) || s.anyWaits (s.opWords c t w ++ s.opReads t w ++ s.opStores t w)

/-- The runtime on a context executes the operation at its code pointer, if that is one of opcode `op`. -/
def Dev.pregaef (c op : Nat) (s : Dev) : Dev :=
  let x := s.ctx c
  let t := x.bound - 1
  let w := s.view x.pgPc 4
  if !s.alive c || x.st != .run || x.stall != .none || x.bound == 0 || pgOp w != op || s.opWaits c t w then s
  else if (s.task t).stop then s.stopRun c t
  else match s.runBegin c t with
    | (false, s) => s
    | (true, s) => s.doPregaef c t (s.view x.pgPc 4)

end Sys2Proof.Machine
end

