-- ==== Sys2Proof/Machine/RowOps.lean ====
section
/-! DEFINITION. What the rows of the operation table share: a register access made by an agent, and the choice of the registers, words
and operations to which a row belongs. A row whose condition does not hold changes nothing (DESIGN CHOICE, log entry 2). -/

namespace Sys2Proof.Machine

/-- What an agent's access to a copy of register `r` comes to before it reaches its block: as `Dev.regGate` at its address. -/
def Dev.rowGate (s : Dev) (who : Agent) (r : Reg) (i j : Nat) (write : Bool) : RegGate :=
  let b := r.info.blk
  let n := b.pageOf i
  if !s.regMay who.mid (r.addr i j) write then .denied
  else if s.domOn (regDom b n (r.addr i j)) then .page b n else .off

/-- Whether an agent's access at `a` waits for what its engine has asked for before it: a load that goes the same way (R24), or a store that cannot be
acknowledged yet (R27, R165). -/
def Dev.rowWaits (s : Dev) (who : Agent) (a : Nat) : Bool :=
  match who.eng with
  | none => false
  | some ge => (List.range 4).any (fun i => (s.pendingLoads (ge * 4 + i)).2.any fun p => sameWay p.1 a)
      || (s.engine ge).stores.any fun e => s.behindLoad (ge * 4) e.seq e.pa || s.bankWaits e.pa e.size

/-- An agent's access is made once what its engine has asked for before it lets it (R24, R27). -/
def Dev.settled (who : Agent) (a : Nat) (f : Dev → Dev) (s : Dev) : Dev := if s.rowWaits who a then s else f (s.settle who)

/-- A signal that firmware of an engine gives within a command is held until the banks have acknowledged every store of the engine (R27). -/
def Dev.signalRow (ge : Nat) (f : Dev → Dev) (s : Dev) : Dev := if (s.engine ge).stores.isEmpty then f s else s

/-- An agent's register write as a command. -/
def Dev.agentWrite (who : Agent) (off v : Nat) : Dev → Dev := Dev.settled who (regBase + off) (Dev.regWrite who.mid who.ctx off v)

/-- An agent's register read as a command: the word returned is kept for the reader. -/
def Dev.agentRead (who : Agent) (off : Nat) : Dev → Dev :=
  Dev.settled who (regBase + off) fun s =>
    let (v, s) := s.regRead who.mid who.ctx off
    { s with rd := word v }

/-- An agent writes a register copy, once the stores that its engine has made before are acknowledged (R24, R27); a push to a rink that is off goes to
the job router (R110). -/
def Dev.rowWrite (who : Agent) (r : Reg) (v : Nat) (i j : Nat := 0) : Dev → Dev :=
  Dev.settled who (regBase + r.addr i j) fun s =>
    match s.rowGate who r i j true with
    | .page _ _ => s.copyStore r i j 0 who.mid who.ctx v
    | .off => if r = .RNK_PUSH then s.pushWrite i j who.mid who.ctx v else s.gateCount .off
    | g => s.gateCount g

/-- An agent reads a register copy, after the earlier stores of its engine (R24); the word returned is kept for the reader. -/
def Dev.rowRead (who : Agent) (r : Reg) (i j : Nat := 0) : Dev → Dev :=
  Dev.settled who (regBase + r.addr i j) fun s =>
    match s.rowGate who r i j false with
    | .page _ _ =>
      let (v, s) := s.copyLoad r i j 0 who.mid who.ctx
      { s with rd := word v }
    | g => { s.gateCount g with rd := 0#32 }

/-- The change `f`, where the offset names a register that `p` selects. -/
def Dev.onReg (off : Nat) (p : Reg → Bool) (f : Dev → Dev) (s : Dev) : Dev :=
  match regAt off with
  | some (r, _) => if p r then f s else s
  | none => s

/-- The words of 64-bit registers under R8, and the registers that are no such word. -/
def Reg.lowWord (r : Reg) : Bool := r.high?.isSome && !r.isNotice
def Reg.highWord (r : Reg) : Bool := r.low?.isSome && !r.isNotice
def Reg.single (r : Reg) : Bool := r.high?.isNone && r.low?.isNone

/-- A counter register (R13). -/
def Reg.counter (r : Reg) : Bool := r.info.fields.all fun f => f.acc == .cnt

/-- An access of a word by physical address: a write of `w`, or a read, which gives the reader 0 where nothing answers. -/
def Dev.rowAccess (who : Agent) (a : Nat) (w : Option Word) : Dev → Dev :=
  Dev.settled who a fun s =>
    match w with
    | some v => if who = .host then s.hostWrite a v else s.busWrite who.mid who.ctx a (leBytes 4 v.toNat)
    | none =>
      let (d, s) := if who = .host then (let (_, r, s) := s.hostRead a; (r.data, s)) else
        (let (r, s) := s.busRead who.mid who.ctx a 4; (r.data, s))
      { s with rd := word (leVal d) }

/-- The access reaches no page that is on. -/
def Dev.offPage (who : Agent) (off : Nat) (write : Bool) (s : Dev) : Bool := s.regGate who.mid off write == .off

/-- A write of SYS_RINK_RST whose self-checks have engines `fails` failing. (DEDUCED: log entry 14.) -/
def Dev.rinkRstRow (who : Agent) (v fails : Nat) : Dev → Dev :=
  Dev.settled who (regBase + Reg.SYS_RINK_RST.addr) fun s =>
    match s.rowGate who .SYS_RINK_RST 0 0 true with
    | .page _ _ => s.rinkReset who.mid v fails
    | g => s.gateCount g

/-- Failing cells of a bank as a March test reports them: row and bit position. -/
def cellsOf (l : List (Fin 1024 × Fin 72)) : Fails := l.map fun p => (p.1, p.2)

/-- The register with the RESUME and ABORT bits of a context. -/
def Dev.ctxCtrlRow (who : Agent) (c v : Nat) (s : Dev) : Dev :=
  if isPatrol c then s.rowWrite who .PAT_CTX_CTRL v (c % 4) else s.rowWrite who .RNK_CTX_CTRL v (rinkOf c) (c % 32)

/-- An uncorrectable error in the memory of an engine (R108). -/
def Dev.lmemRow (n e : Nat) (s : Dev) : Dev :=
  if !s.rinkOn n || !s.engOnline n e then s
  else (((s.setFlag .RNK_ENG_STATUS_LMEM_UE true n e).engineOffline n e).reapRuns).autoYield

/-- A correctable error in the memory of an engine is corrected and counted (R108). -/
def Dev.lmemCeRow (n e : Nat) (s : Dev) : Dev :=
  if !s.rinkOn n || s.inRinkReset n || !s.engOnline n e then s else s.count .RNK_LMEM_CE_CNT n

/-- A write of OFFLINE keeps the other fields of RNK_ENG_CFG. -/
def Dev.offlineRow (who : Agent) (n e : Nat) (s : Dev) : Dev := s.rowWrite who .RNK_ENG_CFG (s.reg .RNK_ENG_CFG n e ||| 2 ^ 20) n e

/-- A tick of a time base that carries its NS (R280). -/
def Dev.tbCarries (n : Nat) (s : Dev) : Bool := tbMod ≤ s.tbVal n + s.reg .TMU_TB_INCR n

/-- A command of the switch core's tables with operation `op`. -/
def Dev.tblRow (who : Agent) (op : Nat) (v : Nat) (s : Dev) : Dev :=
  if bits v 5 3 = op then s.rowWrite who .SWC_TBL_CMD v else s

/-- A gate list cycle starts; the control tasks that follow it take their T0 (R260, R424). -/
def Dev.gclRow (n : Nat) (s : Dev) : Dev :=
  let start := (s.swc.gcl.get n).next
  let due := s.dueAt islSwitch (s.fld .SWC_GCL_CFG_TB n) start == .due && s.flag .SWC_GCL_CFG_EN n && s.domOn .swc
  let s := s.gclCycle n
  if due then s.ctlGate n start else s

/-- An armed list takes over at a start of its own, which is a cycle of the operating list for the control tasks too (R262, R424). -/
def Dev.gclSwitchRow (n : Nat) (s : Dev) : Dev :=
  let start := (s.swc.gcl.get n).switchAt
  let due := s.dueAt islSwitch (s.fld .SWC_GCL_CFG_TB n) start == .due && s.flag .SWC_GCL_CFG_EN n && s.flag .SWC_GCL_STAT_PENDING n && s.domOn .swc
  let s := s.gclSwitch n
  if due then s.ctlGate n start else s

end Sys2Proof.Machine
end

