-- ==== Sys2Proof/Machine/Tick.lean ====
section
/-! DEFINITION. The device at power-on, and one tick of the TMU clock (R276, R472, R490). -/

namespace Sys2Proof.Machine

/-- The device with power-on reset asserted (R490, R492). The values that no reset gives (OTP contents, pin levels) are those of
DESIGN CHOICE, log entries 4 to 8. (DESIGN CHOICE: log entry 5.) -/
def Dev.reset : Dev := (default : Dev).deviceReset .POR 0

/-- The watchdog through one tick: a millisecond that ends takes one from the count, which stops while PD_PAT is off and in
Retention (R472). -/
def Dev.watchdogTick (s : Dev) : Dev :=
  let left := s.fld .PAT_WDOG_LEFT_MS
  if !s.flag .PAT_WDOG_CFG_EN || !s.sys.patOn || s.sys.retention || left == 0 then s
  else if s.sys.msTicks + 1 < ticksPerMs then s.updSys fun x => { x with msTicks := x.msTicks + 1 }
  else (s.setFld .PAT_WDOG_LEFT_MS (left - 1)).updSys fun x => { x with msTicks := 0 }

/-- One tick of the TMU clock: the four time bases with their servos, the watchdog and the wait for TP_REF10 advance (R276, R299, R472, R529), the credits of the shapers move (R263), a capture record is written (R270), firmware writes the counters it has read (R377), and the programming of the OTP that a command started is complete (R67); PD_AON rests in a POR or PIN reset (R490). (DEDUCED: log entry 25.) -/
def Dev.tick (s : Dev) : Dev :=
  match s.sys.resetRun with
  | some .POR | some .PIN => s
  | _ => (((s.each (List.range 4) Dev.tbTick).each (List.range 28) fun n s => s.when (s.fld .SWC_GCL_CFG_CBS_EN n != 0) (Dev.creditStep n 2)).refTick.watchdogTick.capWrite.countsOut).updVlt fun v => { v with otp := v.otp.done }

end Sys2Proof.Machine
end

