-- ==== Sys2Proof/Machine/State.lean ====
section
/-! DEFINITION. The state of the block: the device and the queue of commands that wait. -/

namespace Sys2Proof.Machine

/-- What stops the block: nothing. Every command has an effect, be it none but a count, in every state, so no meaning raises a fault. -/
inductive Fault where
deriving DecidableEq, Repr

/-- What the block has no meaning for. -/
inductive Refusal where
  /-- Raised by `exec` for a command that has no meaning yet: safe, the run stops. -/
  | notModelled (mnemonic : String)
deriving DecidableEq, Repr

/-- The device and the commands that wait, first in, first out. -/
structure State where
  dev : Dev
  pending : List Instr
deriving DecidableEq, Repr

/-- The state right after reset: the device with power-on reset asserted (R490), no command waiting. -/
def State.reset : State := { dev := Dev.reset, pending := [] }

/-- The shape of every meaning: a change of the device, the queue as it was. -/
def State.on (s : State) (f : Dev → Dev) : Host.Outcome State Fault Refusal := .next { s with dev := f s.dev }

end Sys2Proof.Machine
end

