-- ==== Sys2Proof/Machine/AluCmds.lean ====
section
/-! DEFINITION. Integer words of Skezia, and illegal words (R122, R131 to R135, R152). A row takes place where the engine has chosen the
context and the word at its program counter belongs to the row. -/

namespace Sys2Proof.Machine

/-- A paired word reads all operands, translates both halves and executes its two short operations first half first. (R122) -/
def execPairedWord (who : CtxId) (s : State) : Host.Outcome State Fault Refusal := s.on (Dev.issue who .paired (Dev.memWord who))

/-- An illegal word executes as a no-operation, records SKZ_ILLEGAL_PC and increments SKZ_ILLEGAL_CNT. (R152) -/
def execIllegalWord (who : CtxId) (s : State) : Host.Outcome State Fault Refusal :=
  s.on (Dev.issue who .illegal fun _ => Dev.illegalWord who)

/-- A long ALU operation computes rd from ra and rb by FUNC, writing non-compare flags only with S = 1. (R132) -/
def execAlu (who : CtxId) (s : State) : Host.Outcome State Fault Refusal :=
  s.on (Dev.issue who .alu fun w => Dev.simple who (doAluWord w))

/-- rd takes ra + IMM15, or in the short form rd + signed IMM6. (R131) The short form takes place in PAIRED_WORD. -/
def execAddi (who : CtxId) (s : State) : Host.Outcome State Fault Refusal :=
  s.on (Dev.issue who .addi fun w => Dev.simple who (immWord (· + ·) true w))

/-- rd takes ra AND the zero-extended IMM15, or rd AND IMM6 in the short form. (R131) The short form takes place in PAIRED_WORD. -/
def execAndi (who : CtxId) (s : State) : Host.Outcome State Fault Refusal :=
  s.on (Dev.issue who .andi fun w => Dev.simple who (immWord (· &&& ·) false w))

/-- rd takes ra OR the zero-extended IMM15. (R131) -/
def execOri (who : CtxId) (s : State) : Host.Outcome State Fault Refusal :=
  s.on (Dev.issue who .ori fun w => Dev.simple who (immWord (· ||| ·) false w))

/-- rd takes ra XOR the zero-extended IMM15. (R131) -/
def execXori (who : CtxId) (s : State) : Host.Outcome State Fault Refusal :=
  s.on (Dev.issue who .xori fun w => Dev.simple who (immWord (· ^^^ ·) false w))

/-- Flags are set from ra − IMM15, or rd − IMM6 in the short form. (R131) The short form takes place in PAIRED_WORD. -/
def execCmpi (who : CtxId) (s : State) : Host.Outcome State Fault Refusal :=
  s.on (Dev.issue who .cmpi fun w => Dev.simple who (cmpiWord w))

/-- ra is shifted or rotated by an immediate amount of the KIND given in IMM15. (R134) -/
def execShifti (who : CtxId) (s : State) : Host.Outcome State Fault Refusal :=
  s.on (Dev.issue who .shifti fun w => Dev.simple who (shiftiWord w))

/-- rd takes IMM20 shifted left by 12. (R133) -/
def execLui (who : CtxId) (s : State) : Host.Outcome State Fault Refusal :=
  s.on (Dev.issue who .lui fun w => Dev.simple who fun x => x.wr (fRd w) (word (bits w 19 0 * 4096)))

/-- rd takes the low 32 bits of ra × IMM15. (R131) -/
def execMuli (who : CtxId) (s : State) : Host.Outcome State Fault Refusal :=
  s.on (Dev.issue who .muli fun w => Dev.simple who (immWord (· * ·) true w))

/-- Signed division writes the quotient to rd and the remainder to w(rd + 1), with fl.DZ on a zero divisor. (R135) -/
def execDvs (who : CtxId) (s : State) : Host.Outcome State Fault Refusal :=
  s.on (Dev.issue who .dvs fun w => Dev.simple who (divWord true w))

/-- Unsigned division writes the quotient and remainder, with fl.DZ on a zero divisor. (R135) -/
def execDvu (who : CtxId) (s : State) : Host.Outcome State Fault Refusal :=
  s.on (Dev.issue who .dvu fun w => Dev.simple who (divWord false w))

end Sys2Proof.Machine
end

