-- ==== Sys2Proof/Machine/BladeCmds.lean ====
section
/-! DEFINITION. The Blades (R349 to R371). -/

namespace Sys2Proof.Machine

/-- A Blade jumps on its condition, decrementing C for the counter condition. (R356) One step of Blade b of group g with the levels of
the group's pins. -/
def execBladeJmp (g : Fin 8) (b : Fin 4) (levels : BitVec 8) (s : State) : Host.Outcome State Fault Refusal :=
  s.on (Dev.bldStep g b .jmp levels.toNat)

/-- A Blade stalls until a lane, flag or group pin equals POL. (R356) -/
def execBladeWait (g : Fin 8) (b : Fin 4) (levels : BitVec 8) (s : State) : Host.Outcome State Fault Refusal :=
  s.on (Dev.bldStep g b .wait levels.toNat)

/-- A Blade collects n bits into RSR from a lane, G or zeros. (R357) -/
def execBladeIn (g : Fin 8) (b : Fin 4) (levels : BitVec 8) (s : State) : Host.Outcome State Fault Refusal :=
  s.on (Dev.bldStep g b .in_ levels.toNat)

/-- A Blade takes n bits from TSR to a lane, G, nowhere or PC. (R357) -/
def execBladeOut (g : Fin 8) (b : Fin 4) (levels : BitVec 8) (s : State) : Host.Outcome State Fault Refusal :=
  s.on (Dev.bldStep g b .out levels.toNat)

/-- A Blade moves RSR to RXHOLD, stalling or overrunning when RXHOLD is full. (R364) -/
def execBladePush (g : Fin 8) (b : Fin 4) (levels : BitVec 8) (s : State) : Host.Outcome State Fault Refusal :=
  s.on (Dev.bldStep g b .push levels.toNat)

/-- A Blade loads TSR from TXHOLD, stalling or underrunning when TXHOLD is empty. (R363) -/
def execBladePull (g : Fin 8) (b : Fin 4) (levels : BitVec 8) (s : State) : Host.Outcome State Fault Refusal :=
  s.on (Dev.bldStep g b .pull levels.toNat)

/-- A Blade moves a source to a destination after an optional bit operation. (R356) -/
def execBladeMov (g : Fin 8) (b : Fin 4) (levels : BitVec 8) (s : State) : Host.Outcome State Fault Refusal :=
  s.on (Dev.bldStep g b .mov levels.toNat)

/-- A Blade sets or clears a group flag, or sets it and stalls until it clears. (R356) -/
def execBladeIrq (g : Fin 8) (b : Fin 4) (levels : BitVec 8) (s : State) : Host.Outcome State Fault Refusal :=
  s.on (Dev.bldStep g b .irq levels.toNat)

/-- A Blade writes a lane's level and drive, or loads C or G. (R356) -/
def execBladeSet (g : Fin 8) (b : Fin 4) (levels : BitVec 8) (s : State) : Host.Outcome State Fault Refusal :=
  s.on (Dev.bldStep g b .set levels.toNat)

/-- A Blade sets its AT target T and waits for it on its time base. (R361) -/
def execBladeAt (g : Fin 8) (b : Fin 4) (levels : BitVec 8) (s : State) : Host.Outcome State Fault Refusal :=
  s.on (Dev.bldStep g b .at_ levels.toNat)

/-- The Blade's time base reaches T, or T lies in the past, and the AT instruction completes. (R361) -/
def execAtFire (g : Fin 8) (b : Fin 4) (s : State) : Host.Outcome State Fault Refusal := s.on (Dev.bldFire g b)

/-- An illegal Blade word takes one step, changes nothing and is counted. (R358) -/
def execBladeIllegal (g : Fin 8) (b : Fin 4) (s : State) : Host.Outcome State Fault Refusal := s.on (Dev.bldIllegal g b)

/-- A write of BLD_TXHOLD loads the word and sets TX_FULL, or is refused when full. (R362) -/
def execTxholdWrite (who : Agent) (g : Fin 8) (b : Fin 4) (v : Word) (s : State) : Host.Outcome State Fault Refusal :=
  s.on (Dev.rowWrite who .BLD_TXHOLD v.toNat g b)

/-- A read of BLD_RXHOLD returns the word and clears RX_FULL, or returns 0 when empty. (R364) -/
def execRxholdRead (who : Agent) (g : Fin 8) (b : Fin 4) (s : State) : Host.Outcome State Fault Refusal :=
  s.on (Dev.rowRead who .BLD_RXHOLD g b)

/-- A flag rises by IRQ or BLD_FLAGS_SET, ringing its doorbell and pushing its job. (R366) A Blade's IRQ sets a flag in BLADE_IRQ. -/
def execFlagSet (who : Agent) (g : Fin 8) (v : Word) (s : State) : Host.Outcome State Fault Refusal :=
  s.on (Dev.rowWrite who .BLD_FLAGS_SET v.toNat g)

/-- A write to BLD_FLAGS clears group flags. (R366) -/
def execFlagClear (who : Agent) (g : Fin 8) (v : Word) (s : State) : Host.Outcome State Fault Refusal :=
  s.on (Dev.rowWrite who .BLD_FLAGS v.toNat g)

/-- Clearing a BLD_CTRL.EN bit stops a Blade before its next step, keeping its state. (R367) The other EN bits stay. -/
def execBladeStop (who : Agent) (g : Fin 8) (b : Fin 4) (s : State) : Host.Outcome State Fault Refusal :=
  s.on (fun d => d.rowWrite who .BLD_CTRL (putBit (d.reg .BLD_CTRL g) b false) g)

/-- Setting a BLD_CTRL.EN bit resumes a stopped Blade where it stopped. (R367) The other EN bits stay. -/
def execBladeResume (who : Agent) (g : Fin 8) (b : Fin 4) (s : State) : Host.Outcome State Fault Refusal :=
  s.on (fun d => d.rowWrite who .BLD_CTRL (putBit (d.reg .BLD_CTRL g) b true) g)

/-- A write to BLD_PROG changes only later fetches of that word. (R369) -/
def execProgramWordWrite (who : Agent) (g : Fin 8) (i : Fin 48) (v : Word) (s : State) : Host.Outcome State Fault Refusal :=
  s.on (Dev.rowWrite who .BLD_PROG v.toNat g i)

/-- A write of BLD_RESTART arms an immediate or timed restart of the Blades in MASK. (R370) -/
def execRestartArm (who : Agent) (g : Fin 8) (v : Word) (s : State) : Host.Outcome State Fault Refusal :=
  s.on (Dev.rowWrite who .BLD_RESTART v.toNat g)

/-- The armed restart applies staged program settings, clears Blade state, writes idle lane levels and sets EN. (R370) -/
def execBladeRestart (g : Fin 8) (s : State) : Host.Outcome State Fault Refusal := s.on (Dev.bldRestart g)

/-- The detected supply level of a Blade bank changes. (R351) `levels`: what stands on the bank's 16 pins; with the DET that the bank has, only
the pins change. -/
def execBankLevelChange (k : Fin 4) (pins : Fin 4 × BitVec 16) (s : State) : Host.Outcome State Fault Refusal :=
  s.on (Dev.bankLevel k pins.1 pins.2.toNat)

end Sys2Proof.Machine
end

