-- ==== Sys2Proof/Machine/BootCmds.lean ====
section
/-! DEFINITION. The boot phases (R43 to R62, R70, R168, R178). -/

namespace Sys2Proof.Machine

/-- The Vault completes key derivation and sets VLT_STATUS.KEYS_READY, which lets phase 2 start. (R45) -/
def execKeyDerivationDone (s : State) : Host.Outcome State Fault Refusal := s.on Dev.keysDone

/-- Boot phase 1 runs March C− over all banks, repairs them and maps out banks beyond repair. (R178) `fails` lists the failing cells of
each bank. -/
def execMarchCSelfTest (fails : List (Fin 256 × List (Fin 1024 × Fin 72))) (s : State) : Host.Outcome State Fault Refusal :=
  s.on (Dev.march (fails.map fun p => (p.1, cellsOf p.2)))

/-- Boot phase 2 reads, authenticates, decrypts and checks an image, rejecting it with a cause code or falling back to the other image.
(R49) The operand is what the flash of the chip select holds. -/
def execImageRead (flash : Flash) (s : State) : Host.Outcome State Fault Refusal := s.on (Dev.imageRead flash)

/-- Boot phase 3 checks rinks, lanes and PHYs against the RESOURCE minimums and sets DEGRADED or rejects the image. (R58) A set bit names
an engine, lane or PHY that fails. -/
def execResourceCheck (engFail : BitVec 64) (laneFail : BitVec 10) (phyFail : BitVec 8) (s : State) : Host.Outcome State Fault
    Refusal :=
  s.on (Dev.resourceCheck engFail.toNat laneFail.toNat phyFail.toNat)

/-- Boot phase 4 assigns banks to partitions, applies the DOMAIN section and computes the process image layout. (R168) -/
def execPartitionApply (s : State) : Host.Outcome State Fault Refusal := s.on Dev.partitionApply

/-- Boot phase 6 loads firmware, overlays, Pregaef programs and data sections and keeps the ENGINE_FW reload copies. (R55) -/
def execSectionLoad (s : State) : Host.Outcome State Fault Refusal := s.on Dev.sectionLoad

/-- Boot phase 7 applies the STATION, SLALOM, CANMATRIX, BLADE, SAFE, WINDOW and GRANT sections and lays out the process image. (R54) -/
def execSectionApply (s : State) : Host.Outcome State Fault Refusal := s.on Dev.sectionApply

/-- Boot phase 9 releases the boot output hold, enters the target mode and starts the management firmware. (R46) The operand is
BOOT_TIME. -/
def execBootRelease (us : BitVec 32) (s : State) : Host.Outcome State Fault Refusal := s.on (Dev.bootRelease us.toNat)

/-- A REGSEQ WRITE record writes VALUE to ADDR once the previous record's write has reached its block. (R59) The record is the boot's, or
one kept for a rink in RINK reset. -/
def execRegseqWrite (rink : Option (Fin 8)) (s : State) : Host.Outcome State Fault Refusal := s.on (Dev.seqWrite (rink.map Fin.val))

/-- A REGSEQ MODIFY record reads ADDR and writes the masked merge of the read value and VALUE. (R59) -/
def execRegseqModify (rink : Option (Fin 8)) (s : State) : Host.Outcome State Fault Refusal := s.on (Dev.seqModify (rink.map Fin.val))

/-- A REGSEQ POLL record reads ADDR until the masked value matches VALUE, for at most PARAM µs. (R59) One read of the POLL. -/
def execRegseqPoll (rink : Option (Fin 8)) (s : State) : Host.Outcome State Fault Refusal := s.on (Dev.seqPoll (rink.map Fin.val))

/-- A REGSEQ DELAY record waits PARAM µs before the next record. (R59) PARAM microseconds are over. -/
def execRegseqDelay (rink : Option (Fin 8)) (s : State) : Host.Outcome State Fault Refusal := s.on (Dev.seqDelay (rink.map Fin.val))

/-- A REGSEQ END record ends the section; later records are not read. (R59) -/
def execRegseqEnd (rink : Option (Fin 8)) (s : State) : Host.Outcome State Fault Refusal := s.on (Dev.seqEnd (rink.map Fin.val))

/-- A POLL that reaches PARAM µs without a match stops the boot and enters Hold with RESULT = 4. (R62) -/
def execPollTimeout (s : State) : Host.Outcome State Fault Refusal := s.on Dev.pollTimeout

/-- A write of 1 to BOOT_CTRL.CONFIRM clears UNCONF and advances the OTP anti-rollback counter to the image's ROLLBACK. (R70) -/
def execBootConfirm (who : Agent) (s : State) : Host.Outcome State Fault Refusal := s.on (Dev.rowWrite who .BOOT_CTRL 1)

end Sys2Proof.Machine
end

