-- ==== Sys2Proof/Machine/CanCmds.lean ====
section
/-! DEFINITION. The CAN controllers (R326 to R348). -/

namespace Sys2Proof.Machine

/-- A write of CAN_CFG.EN = 1 puts the controller into INTEGRATING. (R331) A write of CAN_CFG with EN = 1. -/
def execCanEnable (who : Agent) (n : Fin 8) (v : Word) (s : State) : Host.Outcome State Fault Refusal :=
  s.on (fun d => if bit v.toNat 0 then d.rowWrite who .CAN_CFG v.toNat n else d)

/-- A write of EN = 0 lets the current frame complete and stops the controller. (R331) A write of CAN_CFG with EN = 0. -/
def execCanDisable (who : Agent) (n : Fin 8) (v : Word) (s : State) : Host.Outcome State Fault Refusal :=
  s.on (fun d => if bit v.toNat 0 then d else d.rowWrite who .CAN_CFG v.toNat n)

/-- After 11 consecutive recessive bits the controller becomes error-active or error-passive. (R331) -/
def execCanIntegrationDone (n : Fin 8) (s : State) : Host.Outcome State Fault Refusal := s.on (Dev.canIntegrated n)

/-- A write of 1 to a CAN_TXREQ bit requests a transmit buffer, or is refused. (R334) Word k holds buffers 32k to 32k + 31. -/
def execTxRequest (who : Agent) (n : Fin 8) (k : Fin 2) (v : Word) (s : State) : Host.Outcome State Fault Refusal :=
  s.on (Dev.rowWrite who .CAN_TXREQ v.toNat n k)

/-- A write of 1 to a CAN_TXCANCEL bit clears a pending request that has not started. (R334) -/
def execTxCancel (who : Agent) (n : Fin 8) (k : Fin 2) (v : Word) (s : State) : Host.Outcome State Fault Refusal :=
  s.on (Dev.rowWrite who .CAN_TXCANCEL v.toNat n k)

/-- A transmit attempt ends sent, with arbitration lost or with an error, updating RESULT and the request. (R335) The SOF leaves, or how
the attempt ends on the bus. -/
def execCanFrameTransmit (n : Fin 8) (o : CanOut) (s : State) : Host.Outcome State Fault Refusal := s.on (Dev.canTransmit n o)

/-- A CAN frame received without error is stamped and written to the receive ring, or counted as overflow. (R343) The SOF edge of a
frame, or the frame as it ends. -/
def execCanFrameReceive (n : Fin 8) (f : CanFrame) (sof : Bool) (s : State) : Host.Outcome State Fault Refusal :=
  s.on (Dev.canReceive n f sof)

/-- After a ring entry is acknowledged, WR advances, the doorbell rings and a job is pushed. (R344) -/
def execRingEntryWrite (n : Fin 8) (s : State) : Host.Outcome State Fault Refusal := s.on (Dev.ringAck n)

/-- Enabling the CAN ring makes lift 39 the ring writer; disabling it on every controller frees the lift. (R342) A write of CAN_RING_CFG.
-/
def execRingEnable (who : Agent) (n : Fin 8) (v : Word) (s : State) : Host.Outcome State Fault Refusal :=
  s.on (Dev.rowWrite who .CAN_RING_CFG v.toNat n)

/-- A detected bus error updates TEC and REC, counts the error and may change the error state. (R345) As transmitter or receiver; whether
an exception of ISO 11898-1 applies, and whether a frame that is sent has come past its FDF-to-res edge. -/
def execCanError (n : Fin 8) (k : CanErr) (tx : Bool) (special : Bool × Bool) (s : State) : Host.Outcome State Fault Refusal :=
  s.on (Dev.canBusError n k tx special.1 special.2)

/-- A write of CAN_CTRL.RECOVER in bus-off starts recovery. (R346) -/
def execBusOffRecover (who : Agent) (n : Fin 8) (s : State) : Host.Outcome State Fault Refusal := s.on (Dev.rowWrite who .CAN_CTRL 1 n)

/-- At the 128th sequence of 11 recessive bits the controller becomes error-active with TEC = REC = 0. (R346) -/
def execRecoveryDone (n : Fin 8) (s : State) : Host.Outcome State Fault Refusal := s.on (Dev.canRecovered n)

/-- A schedule-matrix basic cycle starts, or starts passed by a forward step are skipped. (R337) -/
def execBasicCycleStart (n : Fin 8) (s : State) : Host.Outcome State Fault Refusal := s.on (Dev.mxCycle n)

/-- A matrix window opens and the controller makes one attempt for the gate's pending buffer or records a miss. (R340) The window of
column c; CAN_FRAME_TRANSMIT says how the attempt ends. -/
def execCanGate (n : Fin 8) (c : Fin 32) (bc : Fin 64) (s : State) : Host.Outcome State Fault Refusal := s.on (Dev.canGate n c bc)

end Sys2Proof.Machine
end

