-- ==== Sys2Proof/Machine/CopCmds.lean ====
section
/-! DEFINITION. CRC, bit stuffing and floating point (R155, R157). -/

namespace Sys2Proof.Machine

/-- The CRC polynomial and configuration are set. (R155) -/
def execCrcCfg (who : CtxId) (s : State) : Host.Outcome State Fault Refusal :=
  s.on (Dev.issue who .crcCfg fun w => Dev.simple who fun x => { x with crc := x.crc.config (x.rd (fRa w)).toNat (x.rd (fRb w)).toNat
    })

/-- The CRC accumulator is set. (R155) -/
def execCrcSet (who : CtxId) (s : State) : Host.Outcome State Fault Refusal :=
  s.on (Dev.issue who .crcSet fun w => Dev.simple who fun x => { x with crc := { x.crc with acc := (x.rd (fRa w)).toNat % 2 ^ x.crc.wid
    } })

/-- rd takes the CRC accumulator, reflected when REFOUT = 1. (R155) -/
def execCrcGet (who : CtxId) (s : State) : Host.Outcome State Fault Refusal :=
  s.on (Dev.issue who .crcGet fun w => Dev.simple who fun x => x.wr (fRd w) (word x.crc.out))

/-- The accumulator processes one byte. (R155) -/
def execCrcUb (who : CtxId) (s : State) : Host.Outcome State Fault Refusal :=
  s.on (Dev.issue who .crcUb fun w => Dev.simple who (crcBytes 1 w))

/-- The accumulator processes two bytes. (R155) -/
def execCrcUh (who : CtxId) (s : State) : Host.Outcome State Fault Refusal :=
  s.on (Dev.issue who .crcUh fun w => Dev.simple who (crcBytes 2 w))

/-- The accumulator processes four bytes. (R155) -/
def execCrcUw (who : CtxId) (s : State) : Host.Outcome State Fault Refusal :=
  s.on (Dev.issue who .crcUw fun w => Dev.simple who (crcBytes 4 w))

/-- The bit stuffer's run length, mode and direction are set and its buffer emptied. (R155) -/
def execStfCfg (who : CtxId) (s : State) : Host.Outcome State Fault Refusal :=
  s.on (Dev.issue who .stfCfg fun w => Dev.simple who (stfCfgWord w))

/-- Bits are fed through the stuffer or destuffer into its buffer, with destuff violations flagged. (R155) -/
def execStfPut (who : CtxId) (s : State) : Host.Outcome State Fault Refusal :=
  s.on (Dev.issue who .stfPut fun w => Dev.simple who (stfPutWord w))

/-- n bits are taken from the stuffer buffer when enough are held. (R155) -/
def execStfGet (who : CtxId) (s : State) : Host.Outcome State Fault Refusal :=
  s.on (Dev.issue who .stfGet fun w => Dev.simple who (stfGetWord w))

/-- rd takes the number of bits held. (R155) -/
def execStfCnt (who : CtxId) (s : State) : Host.Outcome State Fault Refusal :=
  s.on (Dev.issue who .stfCnt fun w => Dev.simple who fun x => x.wr (fRd w) (word x.stf.buf.length))

/-- Floating-point addition. (R157) -/
def execFadd (who : CtxId) (s : State) : Host.Outcome State Fault Refusal :=
  s.on (Dev.issue who .fadd fun w => Dev.simple who (farithWord 0 w))

/-- Floating-point subtraction. (R157) -/
def execFsub (who : CtxId) (s : State) : Host.Outcome State Fault Refusal :=
  s.on (Dev.issue who .fsub fun w => Dev.simple who (farithWord 1 w))

/-- Floating-point multiplication. (R157) -/
def execFmul (who : CtxId) (s : State) : Host.Outcome State Fault Refusal :=
  s.on (Dev.issue who .fmul fun w => Dev.simple who (farithWord 2 w))

/-- Floating-point division. (R157) -/
def execFdiv (who : CtxId) (s : State) : Host.Outcome State Fault Refusal :=
  s.on (Dev.issue who .fdiv fun w => Dev.simple who (farithWord 3 w))

/-- Floating-point square root. (R157) -/
def execFsqrt (who : CtxId) (s : State) : Host.Outcome State Fault Refusal :=
  s.on (Dev.issue who .fsqrt fun w => Dev.simple who (fsqrtWord w))

/-- Floating-point minimumNumber. (R157) -/
def execFmin (who : CtxId) (s : State) : Host.Outcome State Fault Refusal :=
  s.on (Dev.issue who .fmin fun w => Dev.simple who (fminmaxWord false w))

/-- Floating-point maximumNumber. (R157) -/
def execFmax (who : CtxId) (s : State) : Host.Outcome State Fault Refusal :=
  s.on (Dev.issue who .fmax fun w => Dev.simple who (fminmaxWord true w))

/-- Fused multiply-add rounded once. (R157) -/
def execFma (who : CtxId) (s : State) : Host.Outcome State Fault Refusal := s.on (Dev.issue who .fma fun w => Dev.simple who (fmaWord w))

/-- Floating-point comparison that writes fl.Z, fl.N, fl.C and fl.V. (R157) -/
def execFcmp (who : CtxId) (s : State) : Host.Outcome State Fault Refusal :=
  s.on (Dev.issue who .fcmp fun w => Dev.simple who (fcmpWord w))

/-- The sign bit is cleared. (R157) -/
def execFabs (who : CtxId) (s : State) : Host.Outcome State Fault Refusal :=
  s.on (Dev.issue who .fabs fun w => Dev.simple who (fsignWord false w))

/-- The sign bit is inverted. (R157) -/
def execFneg (who : CtxId) (s : State) : Host.Outcome State Fault Refusal :=
  s.on (Dev.issue who .fneg fun w => Dev.simple who (fsignWord true w))

/-- Conversion to a signed 32-bit integer, saturating. (R157) -/
def execFcvtW (who : CtxId) (s : State) : Host.Outcome State Fault Refusal :=
  s.on (Dev.issue who .fcvtW fun w => Dev.simple who (fcvtIntWord true w))

/-- Conversion to an unsigned 32-bit integer, saturating. (R157) -/
def execFcvtWu (who : CtxId) (s : State) : Host.Outcome State Fault Refusal :=
  s.on (Dev.issue who .fcvtWu fun w => Dev.simple who (fcvtIntWord false w))

/-- Conversion from a signed integer. (R157) -/
def execFcvtFw (who : CtxId) (s : State) : Host.Outcome State Fault Refusal :=
  s.on (Dev.issue who .fcvtFw fun w => Dev.simple who (fcvtFromWord true w))

/-- Conversion from an unsigned integer. (R157) -/
def execFcvtFwu (who : CtxId) (s : State) : Host.Outcome State Fault Refusal :=
  s.on (Dev.issue who .fcvtFwu fun w => Dev.simple who (fcvtFromWord false w))

/-- Conversion between binary32 and binary64. (R157) -/
def execFcvtX (who : CtxId) (s : State) : Host.Outcome State Fault Refusal :=
  s.on (Dev.issue who .fcvtX fun w => Dev.simple who (fcvtXWord w))

end Sys2Proof.Machine
end

