-- ==== Sys2Proof/Machine/CtlCmds.lean ====
section
/-! DEFINITION. Cyclic control (R413 to R430, R436, R440). -/

namespace Sys2Proof.Machine

/-- A write to CTL_COMMIT commits an input slot, or rotates an unowned output slot, or is refused for an owned output slot. (R417) -/
def execSlotCommit (who : Agent) (n : BitVec 13) (s : State) : Host.Outcome State Fault Refusal :=
  s.on (Dev.rowWrite who .CTL_COMMIT n.toNat)

/-- A write of a station to CTL_LOSS sets LOST on its input slot. (R421) -/
def execLossReport (who : Agent) (i : BitVec 12) (s : State) : Host.Outcome State Fault Refusal :=
  s.on (Dev.rowWrite who .CTL_LOSS i.toNat)

/-- A write of CTL_FORCE with EN = 1 by Patrol forces an input slot. (R422) -/
def execSlotForce (who : Agent) (n : BitVec 13) (s : State) : Host.Outcome State Fault Refusal :=
  s.on (Dev.rowWrite who .CTL_FORCE (n.toNat + 0x2000))

/-- A write of CTL_FORCE with EN = 0 by Patrol releases a forced slot. (R422) -/
def execSlotRelease (who : Agent) (n : BitVec 13) (s : State) : Host.Outcome State Fault Refusal :=
  s.on (Dev.rowWrite who .CTL_FORCE n.toNat)

/-- A write of a task number to CTL_ARITH sets ARITH and counts an integer division by zero. (R436) -/
def execArithReport (who : Agent) (t : Fin 16) (s : State) : Host.Outcome State Fault Refusal := s.on (Dev.rowWrite who .CTL_ARITH t)

/-- At T0 CTL latches the task's input slots, sets qualities, applies an armed exchange and writes the latch table. (R418) -/
def execInputLatch (t : Fin 16) (s : State) : Host.Outcome State Fault Refusal := s.on (Dev.latchAll t)

/-- Once the latch table writes are acknowledged, CTL pushes the task's job to its engine. (R426) -/
def execTaskRelease (t : Fin 16) (s : State) : Host.Outcome State Fault Refusal := s.on (Dev.taskRelease t)

/-- At T0 + DEADLINE CTL commits the task's output slots when its run ended in time, or records an overrun. (R427) -/
def execOutputDeadline (t : Fin 16) (s : State) : Host.Outcome State Fault Refusal := s.on (Dev.deadlineAll t)

/-- A write of CTL_TASK_CTRL.ARM by Patrol arms a program exchange for a task, or is refused. (R440) -/
def execArm (who : Agent) (t : Fin 16) (s : State) : Host.Outcome State Fault Refusal := s.on (Dev.rowWrite who .CTL_TASK_CTRL 1 t)

/-- A write of CTL_TASK_CTRL.CLR_SAFE takes a task out of SAFE. (R429) -/
def execClrSafe (who : Agent) (t : Fin 16) (s : State) : Host.Outcome State Fault Refusal := s.on (Dev.rowWrite who .CTL_TASK_CTRL 2 t)

end Sys2Proof.Machine
end

