-- ==== Sys2Proof/Machine/CtlWordCmds.lean ====
section
/-! DEFINITION. Branches, events, control registers, flags and FENCE (R121, R137, R139, R147 to R153). -/

namespace Sys2Proof.Machine

/-- The context branches to PC + OFF14 when COND holds. (R137) -/
def execBc (who : CtxId) (s : State) : Host.Outcome State Fault Refusal := s.on (Dev.issue who .bc (Dev.bcWord who))

/-- rd takes the next word index and the context jumps to PC + OFF14. (R137) -/
def execJal (who : CtxId) (s : State) : Host.Outcome State Fault Refusal := s.on (Dev.issue who .jal (Dev.jalWord who))

/-- The context jumps to ra[13:0], or ra[18:0] on Patrol. (R137) -/
def execJr (who : CtxId) (s : State) : Host.Outcome State Fault Refusal := s.on (Dev.issue who .jr (Dev.jrWord who))

/-- ra is decremented and the context branches when the result is not 0. (R137) -/
def execDbnz (who : CtxId) (s : State) : Host.Outcome State Fault Refusal := s.on (Dev.issue who .dbnz (Dev.dbnzWord who))

/-- The context arms the events of MASK and leaves RUN for IDLE or WAIT, or returns at once when an armed event is pending. (R147) -/
def execWaitev (who : CtxId) (s : State) : Host.Outcome State Fault Refusal := s.on (Dev.issue who .waitev (Dev.waitevWord who))

/-- An armed event wakes a waiting or idle context, which resumes after WAITEV with the pending events in rd. (R147) -/
def execEventWake (who : CtxId) (s : State) : Host.Outcome State Fault Refusal := s.on (Dev.eventWake who)

/-- rd takes the engine control register INDEX. (R150) -/
def execRdcr (who : CtxId) (s : State) : Host.Outcome State Fault Refusal := s.on (Dev.issue who .rdcr (Dev.rdcrWord who))

/-- The engine control register INDEX takes ra, with the register's own effects such as a SOFT latch or timer target. (R150) -/
def execWrcr (who : CtxId) (s : State) : Host.Outcome State Fault Refusal := s.on (Dev.issue who .wrcr (Dev.wrcrWord who))

/-- rd takes the five flags. (R139) -/
def execMffl (who : CtxId) (s : State) : Host.Outcome State Fault Refusal :=
  s.on (Dev.issue who .mffl fun w => Dev.simple who fun x => x.wr (fRd w) (word x.fl.code))

/-- The five flags take ra[4:0], which alone can clear fl.DZ. (R139) -/
def execMtfl (who : CtxId) (s : State) : Host.Outcome State Fault Refusal :=
  s.on (Dev.issue who .mtfl fun w => Dev.simple who fun x => { x with fl := flagsOf (x.rd (fRa w)).toNat })

/-- The context is not ready until every store of the engine has been acknowledged. (R121) -/
def execFence (who : CtxId) (s : State) : Host.Outcome State Fault Refusal :=
  s.on (Dev.issue who .fence fun _ => Dev.simple who fun x => { x with fence := true })

/-- The engine's round-robin pointer moves past this context. (R139) As every word that issues does (R88). -/
def execYield (who : CtxId) (s : State) : Host.Outcome State Fault Refusal := s.on (Dev.issue who .yield fun _ => Dev.simple who id)

/-- A Patrol context sets its SPACE and invalidates its micro-TLB. (R153) -/
def execSetspace (who : CtxId) (s : State) : Host.Outcome State Fault Refusal :=
  s.on (Dev.issue who .setspace fun w => Dev.simple who (setspaceWord w))

/-- A context's enabled timer reaches its target on the rink's copy of the time base and latches TIMER. (R149) -/
def execTimerExpiry (who : CtxId) (s : State) : Host.Outcome State Fault Refusal := s.on (Dev.timerExpiry who)

end Sys2Proof.Machine
end

