-- ==== Sys2Proof/Machine/EngCmds.lean ====
section
/-! DEFINITION. Job queues, stealing, faults, engine loss, TLBs (R87 to R110). -/

namespace Sys2Proof.Machine

/-- A write of RNK_PUSH word 7 commits the staged descriptor to the target engine's queue through the job router, or is refused. (R90)
The window is that of rink `n`. -/
def execPushCommit (who : Agent) (n : Fin 8) (v : Word) (s : State) : Host.Outcome State Fault Refusal :=
  s.on (Dev.rowWrite who .RNK_PUSH v.toNat n 7)

/-- A hardware push that waited at a full queue enters it when an entry frees, incrementing RNK_QWAIT_CNT. (R90) -/
def execQueueRoomPush (e : Fin 64) (s : State) : Host.Outcome State Fault Refusal := s.on (Dev.queueRoom e)

/-- An idle context takes the highest-priority oldest acceptable job from its own queue and loads its descriptor. (R92) Engine 64 is
Patrol with its stealable queue. -/
def execJobTake (e : Fin 65) (s : State) : Host.Outcome State Fault Refusal := s.on (Dev.jobTake e)

/-- An idle context takes the oldest stealable acceptable job from another engine of its rink. (R93) -/
def execLocalSteal (who : Fin 256) (s : State) : Host.Outcome State Fault Refusal := s.on (Dev.localSteal who)

/-- The steal window of an idle context expires and cross-rink and Patrol stealing may begin. (R93) -/
def execStealWindowExpiry (who : Fin 256) (s : State) : Host.Outcome State Fault Refusal := s.on (Dev.windowExpiry who)

/-- A steal request reaches the victim rink, which answers with its oldest matching stealable job or an empty reply. (R94) -/
def execStealRequest (who : Fin 256) (s : State) : Host.Outcome State Fault Refusal := s.on (Dev.stealRequest who)

/-- A steal reply reaches the thief: the context takes the job, the job joins the engine's queue, or the miss is counted. (R94) -/
def execStealReply (who : Fin 256) (s : State) : Host.Outcome State Fault Refusal := s.on (Dev.stealReply who)

/-- A steal request reaches Patrol's stealable queue, which answers with its oldest matching job or an empty reply. (R95) -/
def execPatrolStealRequest (who : Fin 256) (s : State) : Host.Outcome State Fault Refusal := s.on (Dev.patStealRequest who)

/-- A write of RESUME to RNK_CTX_CTRL re-executes the faulting word of a FAULTED context. (R104) For a context of Patrol the register is
PAT_CTX_CTRL (R471). -/
def execContextResume (who : Agent) (c : CtxId) (s : State) : Host.Outcome State Fault Refusal := s.on (Dev.ctxCtrlRow who c 1)

/-- A write of ABORT to RNK_CTX_CTRL abandons the job of a FAULTED context and aborts its lifts. (R87) For a context of Patrol the
register is PAT_CTX_CTRL (R471). -/
def execContextAbort (who : Agent) (c : CtxId) (s : State) : Host.Outcome State Fault Refusal := s.on (Dev.ctxCtrlRow who c 2)

/-- An uncorrectable local-memory error or a write of OFFLINE stops an engine's contexts and moves or discards its jobs. (R108) A
correctable memory error is counted. -/
def execEngineOffline (by_ : EngineLoss) (n e : Fin 8) (s : State) : Host.Outcome State Fault Refusal :=
  s.on (match by_ with | .offline who => Dev.offlineRow who n e | .uncorrectable => Dev.lmemRow n e | .correctable => Dev.lmemCeRow n e)

/-- A TLB miss starts a page-table walk through the rink's master port. (R99) -/
def execTableWalk (who : CtxId) (s : State) : Host.Outcome State Fault Refusal := s.on (Dev.walkStart who)

/-- A walk completes, filling the TLBs or raising a translation fault for the access it served. (R99) -/
def execWalkComplete (who : CtxId) (s : State) : Host.Outcome State Fault Refusal := s.on (Dev.walkComplete who)

/-- A write to RNK_TLB_INV removes selected translations from the rink's TLBs and discards earlier walks. (R101) -/
def execTlbInvalidate (who : Agent) (n : Fin 8) (v : Word) (s : State) : Host.Outcome State Fault Refusal :=
  s.on (Dev.rowWrite who .RNK_TLB_INV v.toNat n)

/-- INV_BUSY falls once the translations are gone and every earlier walk has ended. (R101) -/
def execTlbInvalidateDone (n : Fin 8) (s : State) : Host.Outcome State Fault Refusal := s.on (Dev.tlbInvDone n)

end Sys2Proof.Machine
end

