-- ==== Sys2Proof/Machine/HostCmds.lean ====
section
/-! DEFINITION. The host interface and the requests of the host (R477 to R484, R521). -/

namespace Sys2Proof.Machine

/-- A PCI Express memory read through BAR0 is checked against the windows and completed. (R478) `n` words upward from a physical
address, of which a request names at most 128 (R477; DESIGN CHOICE: log entry 38). -/
def execPcieRead (a : BitVec 40) (n : Fin 1025) (s : State) : Host.Outcome State Fault Refusal := s.on (Dev.pcieRead a.toNat (min n 128))

/-- A PCI Express memory write through BAR0 is checked against the windows and applied. (R478) Its payload is at most 64 words (R477; DESIGN CHOICE: log
entry 38). -/
def execPcieWrite (a : BitVec 40) (l : List Word) (s : State) : Host.Outcome State Fault Refusal :=
  s.on (Dev.pcieWrite a.toNat (l.take 64))

/-- PCIE_PERST_N holds the endpoint in reset; its rise starts link training within 20 ms. (R521) The level of the pin. -/
def execPciePerst (high : Bool) (s : State) : Host.Outcome State Fault Refusal := s.on (Dev.pciePerst high)

/-- An SPI transaction with CMD 0x02 writes 1 to 64 words from ADDR upward. (R480) Words beyond 64
are not taken (DESIGN CHOICE: log entry 38). -/
def execSpiWrite (a : BitVec 40) (l : List Word) (how : SpiEnd) (s : State) : Host.Outcome State Fault Refusal :=
  s.on (Dev.spiWrite a.toNat (l.take 64) how)

/-- An SPI transaction with CMD 0x0B returns STATUS and 1 to 64 words from ADDR upward. (R480) n + 1 words; `late`: the first word is
not ready after the dummy bytes. -/
def execSpiRead (a : BitVec 40) (n : Fin 64) (late : Bool) (s : State) : Host.Outcome State Fault Refusal :=
  s.on (Dev.spiRead a.toNat (n + 1) late)

/-- Patrol answers with identity, mode and BOOT registers. (R482) The request waits in the request mailbox; so for the rows that follow
(R481). -/
def execGetInfo (s : State) : Host.Outcome State Fault Refusal := s.on (Dev.signalRow 64 Dev.getInfo)

/-- Patrol answers with a named block's counters, or BUSY while shed. (R482) -/
def execGetCounters (b : Block) (s : State) : Host.Outcome State Fault Refusal := s.on (Dev.signalRow 64 (Dev.getCounters b))

/-- Patrol answers with event log records from a given SEQ. (R482) -/
def execReadLog (seq : Word) (s : State) : Host.Outcome State Fault Refusal := s.on (Dev.signalRow 64 (Dev.readLog seq.toNat))

/-- Patrol writes an image into the chip select the running image did not come from. (R482) The request is taken, or its work is done. -/
def execFlashWrite (done : Bool) (s : State) : Host.Outcome State Fault Refusal := s.on (Dev.signalRow 64 (Dev.flashWrite done))

/-- Patrol checks that image under R49 without booting it. (R482) What the chip select holds. -/
def execFlashVerify (flash : Flash) (s : State) : Host.Outcome State Fault Refusal :=
  s.on (Dev.signalRow 64 (Dev.flashVerify flash))

/-- Patrol places an exchange package in partition 7 and has it checked. (R439) The package, its place in partition 7 and the place
of each program in partition 1, in units of 64 bytes, which Patrol chooses. -/
def execExchangeLoad (p : Flash) (places : BitVec 21 × List (BitVec 21)) (s : State) : Host.Outcome State Fault Refusal :=
  s.on (Dev.signalRow 64 (Dev.exchangeLoad p places.1.toNat (places.2.map BitVec.toNat)))

/-- Patrol arms tasks for a program exchange under R440. (R482) Tasks with the places of their programs, and the switch instant. -/
def execExchangeArm (l : List (Fin 16 × BitVec 21)) (at_ : Word) (s : State) : Host.Outcome State Fault Refusal :=
  s.on (Dev.signalRow 64 (Dev.exchangeArm (l.map fun p => (p.1, p.2.toNat)) at_.toNat))

/-- Patrol forces an input slot with these values for the host, or releases it. (R482) -/
def execForce (n : BitVec 13) (vals : Option (List Byte)) (s : State) : Host.Outcome State Fault Refusal := s.on (Dev.signalRow 64 (Dev.hostForce n.toNat vals))

/-- Patrol carries one Provisioning request to the Vault. (R482) -/
def execProvision (q : VltReq) (sig : BitVec 768) (s : State) : Host.Outcome State Fault Refusal := s.on (Dev.signalRow 64 (Dev.provision q sig.toNat))

/-- Patrol answers OK and writes SYS_RESET. (R482) -/
def execReset (s : State) : Host.Outcome State Fault Refusal := s.on (Dev.signalRow 64 Dev.hostReset)

/-- The PCI Express link comes up after training or is lost, changing HST_STATUS.LINK_UP, WIDTH and SPEED and counting losses in
HST_LINK_DOWN_CNT. (R484) As WIDTH and SPEED code them; a code that they do not have is taken as the nearest that they
have (DESIGN CHOICE: log entry 38). -/
def execPcieLinkChange (up : Bool) (width speed : Fin 4) (s : State) : Host.Outcome State Fault Refusal :=
  s.on (Dev.pcieLink up (max 1 (min 2 width)) (max 1 speed))

end Sys2Proof.Machine
end

