-- ==== Sys2Proof/Machine/MbxCmds.lean ====
section
/-! DEFINITION. Mailboxes, doorbells, locks and MSI-X (R190 to R204, R479). -/

namespace Sys2Proof.Machine

/-- A write of the low word of MBX_NOTICE stages it for the master ID and context. (R192) -/
def execNoticeLowWrite (who : Agent) (m : Fin 256) (v : Word) (s : State) : Host.Outcome State Fault Refusal :=
  s.on (Dev.rowWrite who .MBX_NOTICE_LOW v.toNat m)

/-- A write of the high word of MBX_NOTICE commits a notice to the mailbox, or is refused as full or with LEN 0. (R192) -/
def execPostCommit (who : Agent) (m : Fin 256) (v : Word) (s : State) : Host.Outcome State Fault Refusal :=
  s.on (Dev.rowWrite who .MBX_NOTICE_HIGH v.toNat m)

/-- The receiver's read of the low word returns it and makes a snapshot of the notice. (R194) -/
def execNoticeSnapshot (who : Agent) (m : Fin 256) (s : State) : Host.Outcome State Fault Refusal :=
  s.on (Dev.rowRead who .MBX_NOTICE_LOW m)

/-- The receiver's read of the high word takes the snapshotted notice, clears FULL and rings the TAKEN doorbell. (R194) -/
def execNoticeTake (who : Agent) (m : Fin 256) (s : State) : Host.Outcome State Fault Refusal := s.on (Dev.rowRead who .MBX_NOTICE_HIGH m)

/-- A write of MBX_FLUSH by Patrol discards the notice in a mailbox. (R198) -/
def execMailboxFlush (who : Agent) (m : Fin 256) (s : State) : Host.Outcome State Fault Refusal := s.on (Dev.rowWrite who .MBX_FLUSH m)

/-- A write to MBX_DB_SET, or a hardware ring, sets doorbell bits and counts coalesced rings. (R199) Hardware rings take place within the
rows that cause them. -/
def execDoorbellSet (who : Agent) (t : Fin 32) (v : Word) (s : State) : Host.Outcome State Fault Refusal :=
  s.on (Dev.rowWrite who .MBX_DB_SET v.toNat t)

/-- A write to MBX_DB clears doorbell bits. (R199) -/
def execDoorbellClear (who : Agent) (t : Fin 32) (v : Word) (s : State) : Host.Outcome State Fault Refusal :=
  s.on (Dev.rowWrite who .MBX_DB v.toNat t)

/-- Unmasking a vector sends its pending message or clears a pending bit whose condition is false. (R479) Without a vector: the function
mask. -/
def execMsixUnmask (v : Option (Fin 32)) (s : State) : Host.Outcome State Fault Refusal := s.on (Dev.msixUnmask (v.map Fin.val))

/-- A read of MBX_LOCK takes a free lock for the reader or returns the owner with bit 31 set. (R201) -/
def execLockAcquire (who : Agent) (n : Fin 256) (s : State) : Host.Outcome State Fault Refusal := s.on (Dev.rowRead who .MBX_LOCK n)

/-- A write of 0 by the owner frees the lock; any other write is ignored and counted. (R203) -/
def execLockRelease (who : Agent) (n : Fin 256) (v : Word) (s : State) : Host.Outcome State Fault Refusal :=
  s.on (Dev.rowWrite who .MBX_LOCK v.toNat n)

/-- A write of MBX_LOCK_FORCE by Patrol frees a held lock. (R204) -/
def execLockForce (who : Agent) (n : Fin 256) (s : State) : Host.Outcome State Fault Refusal := s.on (Dev.rowWrite who .MBX_LOCK_FORCE n)

end Sys2Proof.Machine
end

