-- ==== Sys2Proof/Machine/MemCmds.lean ====
section
/-! DEFINITION. Shared memory, lifts and the Groomer (R158 to R187, R495). -/

namespace Sys2Proof.Machine

/-- A bank arbiter grants one word access, correcting or reporting ECC errors. (R158) The word number counts over all banks. `upset`: 0,
1, 2 or more bits of the word have been struck; the masks name ports that wait, those of them that the same clock has counted at another bank (R163), and those that count in the second clock. -/
def execBankGrant (mid : BitVec 8) (w : BitVec 24) (op : BankOp) (upset : Fin 4) (waits : BitVec 15 × BitVec 15) (waits2 : BitVec 15) (s : State) :
    Host.Outcome State Fault Refusal :=
  s.on (Dev.bankGrant mid.toNat w.toNat op upset waits.1.toNat waits.2.toNat waits2.toNat)

/-- A write of PWR_BANK_REQ requests a bank power transition under R164, or is refused. (R495) -/
def execBankRequest (who : Agent) (v : Word) (s : State) : Host.Outcome State Fault Refusal :=
  s.on (Dev.rowWrite who .PWR_BANK_REQ v.toNat)

/-- A bank completes its transition to retention, on, off or zero-filled on. (R164) -/
def execBankStateChangeDone (b : Fin 256) (s : State) : Host.Outcome State Fault Refusal := s.on (Dev.bankDone b)

/-- A write of the high word of LFT_DESC starts an idle lift and records its owner, or is refused. (R171) -/
def execLiftStart (who : Agent) (l : Fin 40) (v : Word) (s : State) : Host.Outcome State Fault Refusal :=
  s.on (Dev.rowWrite who .LFT_DESC_HIGH v.toNat l)

/-- A lift fetches a descriptor, faulting on an uncorrectable error or an illegal descriptor. (R175) -/
def execLiftDescriptorFetch (l : Fin 40) (s : State) : Host.Outcome State Fault Refusal := s.on (fun d => (d.liftFetch l).reapRuns)

/-- A lift translates, reads and writes one block up to a 64-byte destination boundary. (R173) -/
def execLiftBlock (l : Fin 40) (s : State) : Host.Outcome State Fault Refusal := s.on (fun d => (d.liftBlock l).reapRuns)

/-- After its last writes are acknowledged, a lift becomes idle, sets DONE and rings its doorbell. (R174) -/
def execLiftChainDone (l : Fin 40) (s : State) : Host.Outcome State Fault Refusal := s.on (fun d => (d.liftDone l).reapRuns)

/-- A write of RESUME refetches the current descriptor of a faulted lift and continues from LFT_PROG. (R176) -/
def execLiftResume (who : Agent) (l : Fin 40) (s : State) : Host.Outcome State Fault Refusal := s.on (Dev.rowWrite who .LFT_CTRL 1 l)

/-- A write of ABORT stops a faulted or running lift at the end of the block in progress. (R176) -/
def execLiftAbort (who : Agent) (l : Fin 40) (s : State) : Host.Outcome State Fault Refusal := s.on (Dev.rowWrite who .LFT_CTRL 2 l)

/-- A GRM_CMD with TEST = 1 tests a reserve bank whole, repairs or maps it out and zero-fills it. (R182) The test ends with
GROOMER_COMMAND_DONE. -/
def execDestructiveMarchSs (who : Agent) (b : Fin 256) (s : State) : Host.Outcome State Fault Refusal :=
  s.on (Dev.rowWrite who .GRM_CMD (b + 0x100))

/-- A GRM_CMD with TEST = 2 starts a row-by-row test that keeps the bank's contents. (R183) -/
def execPreservingMarchSs (who : Agent) (b : Fin 256) (s : State) : Host.Outcome State Fault Refusal :=
  s.on (Dev.rowWrite who .GRM_CMD (b + 0x200))

/-- The Groomer parks, tests and restores one row, repairing it with a spare row when it fails. (R183) `waits`: the ports that count
for each clock of the row lock in which some wait. -/
def execGroomerRow (row : Bool × List (BitVec 15)) (s : State) : Host.Outcome State Fault Refusal :=
  s.on (Dev.grmRow row.1 (row.2.map BitVec.toNat))

/-- A Groomer command ends, sets RESULT, clears BUSY and rings its doorbell. (R185) The failing cells of a destructive test. -/
def execGroomerCommandDone (fails : List (Fin 1024 × Fin 72)) (s : State) : Host.Outcome State Fault Refusal :=
  s.on (Dev.grmDone (cellsOf fails))

/-- Every STEP + 1 fabric clocks the Groomer reads the next word of a bank that is on and writes back a corrected word. (R186) Operands
as for BANK_GRANT. -/
def execScrubRead (upset : Fin 4) (waits : BitVec 15 × BitVec 15) (waits2 : BitVec 15) (s : State) : Host.Outcome State Fault Refusal :=
  s.on (Dev.scrubRead upset waits.1.toNat waits.2.toNat waits2.toNat)

end Sys2Proof.Machine
end

