-- ==== Sys2Proof/Machine/MemWordCmds.lean ====
section
/-! DEFINITION. Loads and stores of Skezia and the store buffer (R103, R121, R136). -/

namespace Sys2Proof.Machine

/-- rt, or rt and w(rt + 1), take memory at base + DISP12. (R136) -/
def execLoad (who : CtxId) (s : State) : Host.Outcome State Fault Refusal := s.on (Dev.issue who .load (Dev.memWord who))

/-- Memory at base + DISP12 takes rt, or rt and w(rt + 1). (R136) -/
def execStore (who : CtxId) (s : State) : Host.Outcome State Fault Refusal := s.on (Dev.issue who .store (Dev.memWord who))

/-- A load at the base address updates the base by MODE. (R136) -/
def execLoadm (who : CtxId) (s : State) : Host.Outcome State Fault Refusal := s.on (Dev.issue who .loadm (Dev.memWord who))

/-- A store at the base address updates the base by MODE. (R136) -/
def execStorem (who : CtxId) (s : State) : Host.Outcome State Fault Refusal := s.on (Dev.issue who .storem (Dev.memWord who))

/-- The data or error of a stalled shared-memory or register load returns, completing or faulting the word. (R103) -/
def execLoadDataReturn (who : CtxId) (s : State) : Host.Outcome State Fault Refusal := s.on (Dev.dataReturn who)

/-- A buffered store leaves through the rink's master port and is acknowledged by its bank. (R121) The oldest buffered store of the
context leaves. -/
def execStoreBufferDrain (who : CtxId) (s : State) : Host.Outcome State Fault Refusal := s.on (Dev.storeDrain who)

end Sys2Proof.Machine
end

