-- ==== Sys2Proof/Machine/PairCmds.lean ====
section
/-! DEFINITION. Pairs (R445 to R466). -/

namespace Sys2Proof.Machine

/-- A write of PAR_CFG.EN = 1 moves PAR from OFF to LISTEN and starts the start timer. (R452) A write of PAR_CFG with EN = 1. -/
def execParEnable (who : Agent) (v : Word) (s : State) : Host.Outcome State Fault Refusal :=
  s.on (fun d => if bit v.toNat 0 then d.rowWrite who .PAR_CFG v.toNat else d)

/-- The start timer of START_WAIT_MS expires without a valid heartbeat and PAR becomes ACTIVE. (R452) -/
def execStartWaitExpiry (s : State) : Host.Outcome State Fault Refusal := s.on Dev.startWait

/-- Every HB_PERIOD_US PAR sends a heartbeat on the tandem link and on the network path. (R449) -/
def execHeartbeatSend (s : State) : Host.Outcome State Fault Refusal := s.on Dev.heartbeatSend

/-- A tandem heartbeat is received, validated and may change the role. (R450) `t`: its packet number and tag. -/
def execTandemHeartbeat (h : Heartbeat) (t : TdmTag) (s : State) : Host.Outcome State Fault Refusal :=
  s.on (Dev.tandemHeartbeat h.asRead t)

/-- A claimed network heartbeat is validated, resetting the network miss count, or counted as bad. (R450) Its GMAC tag. -/
def execNetworkHeartbeat (h : Heartbeat) (tag : BitVec 128) (s : State) : Host.Outcome State Fault Refusal :=
  s.on (Dev.networkHeartbeat h.asRead tag.toNat)

/-- HB_PERIOD_US passes without a valid heartbeat on a path; when neither path is alive the standby takes over or enters OFF. (R451) -/
def execHeartbeatMiss (network : Bool) (s : State) : Host.Outcome State Fault Refusal := s.on (Dev.heartbeatMiss network)

/-- A write of PAR_CTRL.RELINQUISH on an ACTIVE unit sets YIELD from the next copy, or is refused. (R453) -/
def execRelinquish (who : Agent) (s : State) : Host.Outcome State Fault Refusal := s.on (Dev.rowWrite who .PAR_CTRL 1)

/-- A write of PAR_CTRL.RESYNC moves an unsynced standby to SYNCING. (R460) -/
def execResync (who : Agent) (s : State) : Host.Outcome State Fault Refusal := s.on (Dev.rowWrite who .PAR_CTRL 2)

/-- A write of PAR_CTRL.CLR_UNFIT by Patrol clears UNFIT and CONSEC and unsyncs the standby. (R466) -/
def execClrUnfit (who : Agent) (s : State) : Host.Outcome State Fault Refusal := s.on (Dev.rowWrite who .PAR_CTRL 4)

/-- The standby receives the SEQ frame and checks program identity. (R461) `t` as for TANDEM_HEARTBEAT. -/
def execSeqFrameReceive (q : SeqF) (t : TdmTag) (s : State) : Host.Outcome State Fault Refusal := s.on (Dev.seqReceive q t)

/-- At the last OUT frame the standby compares, writes and commits the output slots and loads PAR_SEQREC. (R457) Its data are
at most 1,520 bytes (DESIGN CHOICE: log entry 38). -/
def execOutFrameReceive (slot : BitVec 13) (data : List Byte) (t : TdmTag) (s : State) : Host.Outcome State Fault Refusal :=
  s.on (Dev.outReceive slot.toNat (data.take 1520) t)

/-- The standby writes a received tracked page to the same physical address. (R457) The page of this number;
its bytes are 4,096 (DESIGN CHOICE: log entry 38). -/
def execPageFrameReceive (page : BitVec 28) (data : List Byte) (t : TdmTag) (s : State) : Host.Outcome State Fault Refusal :=
  s.on (Dev.pageReceive (page.toNat * 4096) (fitTo 4096 data) t)

/-- The END frame completes a copy and may make a SYNCING standby SYNCED. (R460) The number of frames that it names.
-/
def execEndFrameReceive (e : BitVec 32 × TdmTag) (s : State) : Host.Outcome State Fault Refusal := s.on (Dev.endReceive e.1.toNat e.2)

/-- At the deadline plus WINDOW_NS without the copy, the standby commits its own results or nothing and unsyncs. (R458) -/
def execCopyWindowClose (s : State) : Host.Outcome State Fault Refusal := s.on Dev.windowClose

end Sys2Proof.Machine
end

