-- ==== Sys2Proof/Machine/PatrolCmds.lean ====
section
/-! DEFINITION. Patrol (R469 to R476). -/

namespace Sys2Proof.Machine

/-- The Patrol comparator finds a mismatch, or a fetch is uncorrectable, and a WDOG reset starts at once. (R469) `fetch`: the
uncorrectable fetch. -/
def execLockstepMismatch (fetch : Bool) (s : State) : Host.Outcome State Fault Refusal := s.on (Dev.lockstep fetch)

/-- A write of 0x0000_5A5A to PAT_WDOG_KICK restarts the watchdog count; another value is counted as bad. (R472) -/
def execWatchdogKick (who : Agent) (v : Word) (s : State) : Host.Outcome State Fault Refusal :=
  s.on (Dev.rowWrite who .PAT_WDOG_KICK v.toNat)

/-- The watchdog count reaches 0 and a WDOG reset starts. (R472) -/
def execWatchdogExpiry (s : State) : Host.Outcome State Fault Refusal := s.on Dev.watchdogExpiry

/-- At the end of each 1 ms window the load monitor updates BUSY_PCT and raises or lowers LEVEL. (R473) The share of the window in which
a context issued, in percent. -/
def execLoadWindowEnd (busy : Fin 101) (s : State) : Host.Outcome State Fault Refusal := s.on (Dev.loadWindow busy)

/-- A write of PAT_SQ_PUSH word 7 commits a housekeeping job to Patrol's stealable queue, or is refused. (R475) -/
def execPatrolQueuePush (who : Agent) (v : Word) (s : State) : Host.Outcome State Fault Refusal :=
  s.on (Dev.rowWrite who .PAT_SQ_PUSH v.toNat 7)

/-- Patrol firmware writes an event log record and then WR. (R476) -/
def execEventLogRecord (source : BitVec 8) (code : BitVec 16) (data : List Word) (s : State) : Host.Outcome State Fault Refusal :=
  s.on (Dev.eventLog source.toNat code.toNat (data.map BitVec.toNat))

end Sys2Proof.Machine
end

