-- ==== Sys2Proof/Machine/PersCmds.lean ====
section
/-! DEFINITION. The protocol personalities (R374 to R412). -/

namespace Sys2Proof.Machine

/-- The receive dispatcher branches a delivered frame to the personality registered for its EtherType, or releases and counts it. (R379)
By the firmware on engine e for the frame at a cell; a violation that the handler finds for the instance of a record. -/
def execReceiveDispatch (e : Fin 64) (cell : BitVec 27) (viol : Option (BitVec 12 × Viol)) (s : State) : Host.Outcome State Fault Refusal :=
  s.on (Dev.signalRow e (Dev.dispatchFrame e cell.toNat (viol.map fun p => (p.1.toNat, p.2))))

/-- The IPv4 service checks a datagram or segment and pushes it to the owning personality, or answers its violation. (R380) `w0`: the first
word of the handler's job; `conf`: the number of the record whose own bytes give the port, where the manual fixes none. -/
def execIpv4Datagram (e : Fin 64) (cell : BitVec 27) (owner : Word × Option (BitVec 12)) (s : State) : Host.Outcome State Fault
    Refusal :=
  s.on (Dev.signalRow e (Dev.ipDatagram e cell.toNat owner.1.toNat (owner.2.map BitVec.toNat)))

/-- A personality writes a station's input data into the back copy of its slot and commits it. (R383) How many bytes of data, and where they came;
what the message says beside them; `jobs`: the first job word for each gateway station that is notified. -/
def execStationInput (e : Fin 64) (i : BitVec 12) (len : Nat) (src : PersSrc) (m : MsgInfo) (viol : Option Viol) (jobs : List Word)
    (s : State) : Host.Outcome State Fault Refusal :=
  s.on (Dev.signalRow e (Dev.stationInput e i.toNat len src m viol (jobs.map BitVec.toNat)))

/-- A network's loss criterion or LOSS_US without valid input makes the personality report the station lost. (R384) -/
def execStationLoss (e : Fin 64) (i : BitVec 12) (v : Viol) (s : State) : Host.Outcome State Fault Refusal :=
  s.on (Dev.signalRow e (Dev.stationLoss e i.toNat v))

/-- At a transmit instant or notify job, a gateway station sends the newest version of its source input slot. (R385) Any other station sends its
output slot (R383). -/
def execGatewayTransmit (e : Fin 64) (i : BitVec 12) (s : State) : Host.Outcome State Fault Refusal :=
  s.on (Dev.signalRow e (Dev.stationTransmit e i.toNat))

/-- A personality refuses an instance record whose limits it cannot meet and counts it. (R376) The number of the instance record,
and the limit. -/
def execInstanceRefuse (e : Fin 64) (rec_ : BitVec 12 × Limit) (s : State) : Host.Outcome State Fault Refusal :=
  s.on (Dev.signalRow e (Dev.instanceRefuse e rec_.1.toNat rec_.2))

/-- Every 100 µs scan, a changed publication is sent at once with a new stNum. (R399) -/
def execGoosePublish (e : Fin 64) (i : BitVec 12) (s : State) : Host.Outcome State Fault Refusal := 
  s.on (Dev.signalRow e (Dev.goosePublish e i.toNat))

/-- A publication is retransmitted at 1, 2, 4 and 8 ms and every 1 s after a change. (R399) -/
def execGooseRetransmit (i : BitVec 12) (s : State) : Host.Outcome State Fault Refusal := s.on (Dev.gooseRetransmit i.toNat)

end Sys2Proof.Machine
end

