-- ==== Sys2Proof/Machine/PgfCmds.lean ====
section
/-! DEFINITION. The Pregaef dispatch unit CP1 (R156, R427). -/

namespace Sys2Proof.Machine

/-- The context binds to a control task and loads its code pointer, stack pointer and handler base from CTL. (R156) -/
def execPgfBind (who : CtxId) (s : State) : Host.Outcome State Fault Refusal := s.on (Dev.issue who .pgfBind (Dev.pgfBindWord who))

/-- The next Pregaef instruction is decoded and the context jumps to its handler, or the run ends when CTL has raised STOP. (R156) With
the first instruction of a run TT advances, and on the first run after an exchange state migrates (R437, R441). -/
def execPgfNext (who : CtxId) (s : State) : Host.Outcome State Fault Refusal := s.on (Dev.issue who .pgfNext (Dev.pgfNextWord who))

/-- rd takes the top of the Pregaef stack, which is popped. (R156) -/
def execPgfPop (who : CtxId) (s : State) : Host.Outcome State Fault Refusal := s.on (Dev.issue who .pgfPop (Dev.pgfPopWord 1 who))

/-- ra is pushed onto the Pregaef stack. (R156) -/
def execPgfPush (who : CtxId) (s : State) : Host.Outcome State Fault Refusal := s.on (Dev.issue who .pgfPush (Dev.pgfPushWord 1 who))

/-- A 64-bit value is popped into rd and w(rd + 1). (R156) -/
def execPgfPop2 (who : CtxId) (s : State) : Host.Outcome State Fault Refusal := s.on (Dev.issue who .pgfPop2 (Dev.pgfPopWord 2 who))

/-- ra and w(ra + 1) are pushed as a 64-bit value. (R156) -/
def execPgfPush2 (who : CtxId) (s : State) : Host.Outcome State Fault Refusal := s.on (Dev.issue who .pgfPush2 (Dev.pgfPushWord 2 who))

/-- The Pregaef code pointer takes ra. (R156) -/
def execPgfJmp (who : CtxId) (s : State) : Host.Outcome State Fault Refusal := s.on (Dev.issue who .pgfJmp (Dev.pgfJmpWord who))

/-- The task's run ends for this cycle and its report reaches CTL after the slot writes. (R427) It waits until every
earlier store of the engine has left (R27). -/
def execPgfEnd (who : CtxId) (s : State) : Host.Outcome State Fault Refusal :=
  s.on (fun d => if !(d.engine (engOf who)).stores.isEmpty then d else d.issue who .pgfEnd fun _ => Dev.pgfEndWord who)

end Sys2Proof.Machine
end

