-- ==== Sys2Proof/Machine/PortCmds.lean ====
section
/-! DEFINITION. MACs, lanes, PHYs and traverse (R205 to R236, R448). -/

namespace Sys2Proof.Machine

/-- A MAC receives a frame, stamps it, checks length and FCS, and the switch core delivers, filters and forwards it. (R211) The bytes
from the destination address to the FCS; `cut`: lost link or a code error ends it; SecTAG and ICV stand beside them; how long ago, in
2^-8 ns, its reference point passed; nanoseconds since the stream's meter was last looked at. -/
def execFrameReceive (n : Fin 28) (f : List Byte) (cut : Bool) (sec : Option SecRx) (ago gap : BitVec 32) (s : State)
    : Host.Outcome State Fault Refusal :=
  s.on (Dev.macReceive n f cut sec ago.toNat gap.toNat)

/-- A received EtherType 0x8808 frame is consumed and, with RX_EN, a PAUSE or PFC is honoured. (R217) -/
def execMacControlFrame (n : Fin 28) (f : List Byte) (ago : BitVec 32) (s : State) : Host.Outcome State Fault Refusal :=
  s.on (fun d => if Frame.etype f = 0x8808 then d.macReceive n f false none ago.toNat 0 else d)

/-- The pause time of a port or class runs out and data frames resume. (R218) Of the port, or of a class. -/
def execPauseExpiry (n : Fin 28) (c : Option (Fin 8)) (s : State) : Host.Outcome State Fault Refusal :=
  s.on (Dev.pauseExpiry n (c.map Fin.val))

/-- Every REFRESH quanta while an assertion holds, the MAC repeats its PAUSE or PFC frame. (R219) -/
def execPauseRefresh (n : Fin 28) (s : State) : Host.Outcome State Fault Refusal := s.on (Dev.pauseRefresh n)

/-- The switch core selects the highest eligible class's oldest copy for the next start of a MAC. (R259) Nanoseconds until the start, and
since the credits were last looked at. -/
def execEgressSelection (n : Fin 28) (lead dt : BitVec 32) (s : State) : Host.Outcome State Fault Refusal :=
  s.on (Dev.select n lead.toNat dt.toNat)

/-- A MAC starts transmitting a selected copy it holds whole, stamping its egress and correcting PTP residence. (R216) `late`: the copy
is not held whole by its start. -/
def execFrameTransmit (n : Fin 28) (late : Bool) (dt : BitVec 32) (s : State) : Host.Outcome State Fault Refusal :=
  s.on (Dev.transmit n late dt.toNat)

/-- The last byte of a copy leaves the MAC, ending the copy and freeing the cells after the last copy. (R241) -/
def execFrameTransmitDone (n : Fin 28) (dt : BitVec 32) (s : State) : Host.Outcome State Fault Refusal :=
  s.on (Dev.transmitDone n dt.toNat)

/-- MAC_STATUS.LINK changes, counting and ringing the link doorbell. (R220) The speed negotiated and what a 10BASE-T1L PHY reports. -/
def execLinkChange (n : Fin 28) (up : Bool) (speed : Fin 8) (t : TphyLine) (s : State) : Host.Outcome State Fault Refusal :=
  s.on (Dev.linkChange n up speed t)

/-- A SerDes lane gains or loses LOCK or SYNC. (R448) -/
def execLaneLockChange (l : Fin 10) (lock sync an : Bool) (errs : BitVec 32) (s : State) : Host.Outcome State Fault Refusal :=
  s.on (fun d => (d.laneChange l lock sync an errs.toNat).parLanes)

/-- A write of TPHY_CTRL.RESTART restarts negotiation and training of a 10BASE-T1L PHY. (R236) -/
def execTphyRestart (who : Agent) (k : Fin 8) (s : State) : Host.Outcome State Fault Refusal := s.on (Dev.rowWrite who .TPHY_CTRL 1 k)

/-- A frame received on a traverse-bound port passes byte by byte through the engine's ring to the other port, with a job pushed at its
SFD. (R223) -/
def execTraverseFrame (n : Fin 28) (sfd : Option (BitVec 32)) (rx : List Byte) (k : BitVec 12) (ends cut : Bool) (s : State) :
    Host.Outcome State Fault Refusal :=
  s.on (Dev.traverseFrame n (sfd.map BitVec.toNat) rx k.toNat ends cut)

end Sys2Proof.Machine
end

