-- ==== Sys2Proof/Machine/PowerCmds.lean ====
section
/-! DEFINITION. Modes, Hold, power domains and Retention (R485 to R498). -/

namespace Sys2Proof.Machine

/-- HOLD set to 1 by Patrol or hardware puts the device into Hold with outputs at safe values. (R487) Hardware enters Hold within the
rows that cause it. -/
def execHoldEntry (who : Agent) (s : State) : Host.Outcome State Fault Refusal :=
  s.on (fun d => d.rowWrite who .SYS_MODE_CTRL (d.reg .SYS_MODE_CTRL ||| 1))

/-- A write of HOLD = 0 returns the device from Hold, or is refused. (R488) -/
def execHoldExit (who : Agent) (s : State) : Host.Outcome State Fault Refusal :=
  s.on (fun d => d.rowWrite who .SYS_MODE_CTRL (putBit (d.reg .SYS_MODE_CTRL) 0 false))

/-- A write of SYS_MODE_CTRL.FWX by Patrol enters or leaves Exchange for a firmware exchange. (R485) HOLD stays as it is. -/
def execFwx (who : Agent) (on : Bool) (s : State) : Host.Outcome State Fault Refusal :=
  s.on (fun d => d.rowWrite who .SYS_MODE_CTRL (putBit (d.reg .SYS_MODE_CTRL) 1 on))

/-- A write of PWR_DOM_CTRL requests one power domain on or off, or is refused. (R494) -/
def execDomainRequest (who : Agent) (v : Word) (s : State) : Host.Outcome State Fault Refusal :=
  s.on (Dev.rowWrite who .PWR_DOM_CTRL v.toNat)

/-- A domain is off 1 µs or on 20 µs after its request, starting a RINK reset for a rink. (R494) The engines that fail the self-checks of
a rink that comes on. -/
def execDomainSwitchDone (fails : BitVec 8) (s : State) : Host.Outcome State Fault Refusal := s.on (Dev.domSwitchDone fails.toNat)

/-- A write of PWR_SLEEP.ENTER by Patrol switches domains off, puts kept banks in retention and zeroises keys, or is refused. (R496) -/
def execRetentionEntry (who : Agent) (v : Word) (s : State) : Host.Outcome State Fault Refusal :=
  s.on (Dev.rowWrite who .PWR_SLEEP v.toNat)

/-- The WAKE pin high for 1 µs in Retention wakes the device. (R497) -/
def execWakePin (s : State) : Host.Outcome State Fault Refusal := s.on Dev.wakePin

/-- After PWR_WAKE_WRAPS wraps the time base reaches PWR_WAKE_AT and wakes the device. (R497) -/
def execWakeTime (s : State) : Host.Outcome State Fault Refusal := s.on Dev.wakeTime

/-- A wake switches on PD_FAB and starts a boot that keeps the banks in retention. (R498) -/
def execResumeBoot (s : State) : Host.Outcome State Fault Refusal := s.on Dev.resumeBoot

end Sys2Proof.Machine
end

