-- ==== Sys2Proof/Machine/PregaefCmds.lean ====
section
/-! DEFINITION. The operations of a Pregaef program, each executed as a whole by the runtime on the context that is bound to the task,
where it stands at the code pointer (R427, R433 to R438). -/

namespace Sys2Proof.Machine

/-- Pregaef NOP does nothing. (R433) -/
def execPregaefNop (who : CtxId) (s : State) : Host.Outcome State Fault Refusal := s.on (Dev.pregaef who 0)

/-- Pushes the sign-extended operand. (R433) -/
def execPregaefLit (who : CtxId) (s : State) : Host.Outcome State Fault Refusal := s.on (Dev.pregaef who 1)

/-- Pushes constant word k. (R433) -/
def execPregaefLitc (who : CtxId) (s : State) : Host.Outcome State Fault Refusal := s.on (Dev.pregaef who 2)

/-- Pushes constant words k and k + 1. (R433) -/
def execPregaefLitc2 (who : CtxId) (s : State) : Host.Outcome State Fault Refusal := s.on (Dev.pregaef who 3)

/-- Pushes data word k. (R433) -/
def execPregaefLd (who : CtxId) (s : State) : Host.Outcome State Fault Refusal := s.on (Dev.pregaef who 4)

/-- Pops into data word k. (R433) -/
def execPregaefSt (who : CtxId) (s : State) : Host.Outcome State Fault Refusal := s.on (Dev.pregaef who 5)

/-- Pushes data words k and k + 1. (R433) -/
def execPregaefLd2 (who : CtxId) (s : State) : Host.Outcome State Fault Refusal := s.on (Dev.pregaef who 6)

/-- Pops into data words k and k + 1. (R433) -/
def execPregaefSt2 (who : CtxId) (s : State) : Host.Outcome State Fault Refusal := s.on (Dev.pregaef who 7)

/-- Pushes the value of input entry k from the latched slot. (R433) -/
def execPregaefIn (who : CtxId) (s : State) : Host.Outcome State Fault Refusal := s.on (Dev.pregaef who 8)

/-- Pops a value, converted to its type, to output entry k. (R433) -/
def execPregaefOut (who : CtxId) (s : State) : Host.Outcome State Fault Refusal := s.on (Dev.pregaef who 9)

/-- Pushes the latch table entry of entry k's slot. (R423) -/
def execPregaefStat (who : CtxId) (s : State) : Host.Outcome State Fault Refusal := s.on (Dev.pregaef who 0xA)

/-- Pushes the task time TT. (R437) -/
def execPregaefTime (who : CtxId) (s : State) : Host.Outcome State Fault Refusal := s.on (Dev.pregaef who 0xB)

/-- Duplicates the top stack word. (R433) -/
def execPregaefDup (who : CtxId) (s : State) : Host.Outcome State Fault Refusal := s.on (Dev.pregaef who 0xC)

/-- Drops the top stack word. (R433) -/
def execPregaefDrop (who : CtxId) (s : State) : Host.Outcome State Fault Refusal := s.on (Dev.pregaef who 0xD)

/-- Swaps the top two stack words. (R433) -/
def execPregaefSwap (who : CtxId) (s : State) : Host.Outcome State Fault Refusal := s.on (Dev.pregaef who 0xE)

/-- Duplicates the top two stack words. (R433) -/
def execPregaefDup2 (who : CtxId) (s : State) : Host.Outcome State Fault Refusal := s.on (Dev.pregaef who 0xF)

/-- Typed addition, wrapping. (R436) -/
def execPregaefAdd (who : CtxId) (s : State) : Host.Outcome State Fault Refusal := s.on (Dev.pregaef who 0x10)

/-- Typed subtraction, wrapping. (R436) -/
def execPregaefSub (who : CtxId) (s : State) : Host.Outcome State Fault Refusal := s.on (Dev.pregaef who 0x11)

/-- Typed multiplication, wrapping. (R436) -/
def execPregaefMul (who : CtxId) (s : State) : Host.Outcome State Fault Refusal := s.on (Dev.pregaef who 0x12)

/-- Typed division toward zero; division by zero gives 0 and reports ARITH. (R436) -/
def execPregaefDiv (who : CtxId) (s : State) : Host.Outcome State Fault Refusal := s.on (Dev.pregaef who 0x13)

/-- Typed remainder with the dividend's sign; by zero gives 0 and reports ARITH. (R436) -/
def execPregaefMod (who : CtxId) (s : State) : Host.Outcome State Fault Refusal := s.on (Dev.pregaef who 0x14)

/-- Typed negation. (R436) -/
def execPregaefNeg (who : CtxId) (s : State) : Host.Outcome State Fault Refusal := s.on (Dev.pregaef who 0x15)

/-- Typed absolute value. (R436) -/
def execPregaefAbs (who : CtxId) (s : State) : Host.Outcome State Fault Refusal := s.on (Dev.pregaef who 0x16)

/-- Typed minimum. (R433) -/
def execPregaefMin (who : CtxId) (s : State) : Host.Outcome State Fault Refusal := s.on (Dev.pregaef who 0x17)

/-- Typed maximum. (R433) -/
def execPregaefMax (who : CtxId) (s : State) : Host.Outcome State Fault Refusal := s.on (Dev.pregaef who 0x18)

/-- Bitwise or logical AND. (R433) -/
def execPregaefAnd (who : CtxId) (s : State) : Host.Outcome State Fault Refusal := s.on (Dev.pregaef who 0x19)

/-- Bitwise or logical OR. (R433) -/
def execPregaefOr (who : CtxId) (s : State) : Host.Outcome State Fault Refusal := s.on (Dev.pregaef who 0x1A)

/-- Bitwise or logical XOR. (R433) -/
def execPregaefXor (who : CtxId) (s : State) : Host.Outcome State Fault Refusal := s.on (Dev.pregaef who 0x1B)

/-- Bitwise or logical NOT. (R433) -/
def execPregaefNot (who : CtxId) (s : State) : Host.Outcome State Fault Refusal := s.on (Dev.pregaef who 0x1C)

/-- Typed shift left; w or more gives 0. (R436) -/
def execPregaefShl (who : CtxId) (s : State) : Host.Outcome State Fault Refusal := s.on (Dev.pregaef who 0x1D)

/-- Typed logical shift right; w or more gives 0. (R436) -/
def execPregaefShr (who : CtxId) (s : State) : Host.Outcome State Fault Refusal := s.on (Dev.pregaef who 0x1E)

/-- Typed rotate left by the amount modulo w. (R436) -/
def execPregaefRol (who : CtxId) (s : State) : Host.Outcome State Fault Refusal := s.on (Dev.pregaef who 0x1F)

/-- Typed rotate right by the amount modulo w. (R436) -/
def execPregaefRor (who : CtxId) (s : State) : Host.Outcome State Fault Refusal := s.on (Dev.pregaef who 0x20)

/-- Pushes BOOL of equality. (R433) -/
def execPregaefEq (who : CtxId) (s : State) : Host.Outcome State Fault Refusal := s.on (Dev.pregaef who 0x21)

/-- Pushes BOOL of inequality. (R433) -/
def execPregaefNe (who : CtxId) (s : State) : Host.Outcome State Fault Refusal := s.on (Dev.pregaef who 0x22)

/-- Pushes BOOL of less-than. (R433) -/
def execPregaefLt (who : CtxId) (s : State) : Host.Outcome State Fault Refusal := s.on (Dev.pregaef who 0x23)

/-- Pushes BOOL of less-or-equal. (R433) -/
def execPregaefLe (who : CtxId) (s : State) : Host.Outcome State Fault Refusal := s.on (Dev.pregaef who 0x24)

/-- Pushes BOOL of greater-than. (R433) -/
def execPregaefGt (who : CtxId) (s : State) : Host.Outcome State Fault Refusal := s.on (Dev.pregaef who 0x25)

/-- Pushes BOOL of greater-or-equal. (R433) -/
def execPregaefGe (who : CtxId) (s : State) : Host.Outcome State Fault Refusal := s.on (Dev.pregaef who 0x26)

/-- Converts between types with rounding and saturation. (R436) -/
def execPregaefCvt (who : CtxId) (s : State) : Host.Outcome State Fault Refusal := s.on (Dev.pregaef who 0x27)

/-- REAL or LREAL square root. (R433) -/
def execPregaefSqrt (who : CtxId) (s : State) : Host.Outcome State Fault Refusal := s.on (Dev.pregaef who 0x28)

/-- Truncates REAL or LREAL toward zero to an integer type. (R433) -/
def execPregaefTrunc (who : CtxId) (s : State) : Host.Outcome State Fault Refusal := s.on (Dev.pregaef who 0x29)

/-- Jumps to the current word + k. (R433) -/
def execPregaefJmp (who : CtxId) (s : State) : Host.Outcome State Fault Refusal := s.on (Dev.pregaef who 0x30)

/-- Pops BOOL and jumps if TRUE. (R433) -/
def execPregaefJmpc (who : CtxId) (s : State) : Host.Outcome State Fault Refusal := s.on (Dev.pregaef who 0x31)

/-- Pops BOOL and jumps if FALSE. (R433) -/
def execPregaefJmpcn (who : CtxId) (s : State) : Host.Outcome State Fault Refusal := s.on (Dev.pregaef who 0x32)

/-- Calls function k of the function table. (R433) -/
def execPregaefCall (who : CtxId) (s : State) : Host.Outcome State Fault Refusal := s.on (Dev.pregaef who 0x33)

/-- Returns from a function. (R433) -/
def execPregaefRet (who : CtxId) (s : State) : Host.Outcome State Fault Refusal := s.on (Dev.pregaef who 0x34)

/-- Ends the program body; the runtime writes the output slots and executes PGF.END. (R427) -/
def execPregaefEnd (who : CtxId) (s : State) : Host.Outcome State Fault Refusal := s.on (Dev.pregaef who 0x35)

/-- Executes the function block instance of symbol k against TT. (R438) -/
def execPregaefFb (who : CtxId) (s : State) : Host.Outcome State Fault Refusal := s.on (Dev.pregaef who 0x38)

end Sys2Proof.Machine
end

