-- ==== Sys2Proof/Machine/RegCmds.lean ====
section
/-! DEFINITION. Accesses to registers and to unmapped addresses (R6 to R13, R22, R35, R63). -/

namespace Sys2Proof.Machine

/-- A read of the low word of a 64-bit register returns it and latches the high word for the reading master. (R8) The offset counts from
0x10_0000_0000. -/
def execReg64LowRead (who : Agent) (off : BitVec 24) (s : State) : Host.Outcome State Fault Refusal :=
  s.on (Dev.onReg off.toNat Reg.lowWord (Dev.agentRead who off.toNat))

/-- A read of the high word returns and releases the master's latch, or the current high word when no latch is held. (R8) -/
def execReg64HighRead (who : Agent) (off : BitVec 24) (s : State) : Host.Outcome State Fault Refusal :=
  s.on (Dev.onReg off.toNat Reg.highWord (Dev.agentRead who off.toNat))

/-- A write of the low word stages the value for the writing master without changing the register. (R8) -/
def execReg64LowWrite (who : Agent) (off : BitVec 24) (v : Word) (s : State) : Host.Outcome State Fault Refusal :=
  s.on (Dev.onReg off.toNat Reg.lowWord (Dev.agentWrite who off.toNat v.toNat))

/-- A write of the high word commits the staged low word, or the current low word, together with the new high word. (R8) -/
def execReg64HighWrite (who : Agent) (off : BitVec 24) (v : Word) (s : State) : Host.Outcome State Fault Refusal :=
  s.on (Dev.onReg off.toNat Reg.highWord (Dev.agentWrite who off.toNat v.toNat))

/-- A write to a register that has no row of its own takes effect field by field as it reaches its block, under R6 to R12. (R63) A
register with a row of its own does what that row says. -/
def execRegisterWrite (who : Agent) (off : BitVec 24) (v : Word) (s : State) : Host.Outcome State Fault Refusal :=
  s.on (Dev.onReg off.toNat Reg.single (Dev.agentWrite who off.toNat v.toNat))

/-- A write to a _CNT counter clears it when the value is zero; any other value is refused and counted in MISUSE_CNT. (R13) -/
def execCounterWrite (who : Agent) (off : BitVec 24) (v : Word) (s : State) : Host.Outcome State Fault Refusal :=
  s.on (Dev.onReg off.toNat Reg.counter (Dev.agentWrite who off.toNat v.toNat))

/-- An access to an unmapped physical address reads 0, writes nothing and increments SYS_DECODE_CNT. (R35) A write of `w`, or a read. -/
def execUnmappedAccess (who : Agent) (pa : BitVec 40) (w : Option Word) (s : State) : Host.Outcome State Fault Refusal :=
  s.on (fun d => if rangeOf pa.toNat = .unmapped then d.rowAccess who pa.toNat w else d)

/-- An access to the page of a block whose power domain is off reads 0, writes nothing and increments SYS_DOMAIN_OFF_CNT. (R22) A write
of `w`, or a read. -/
def execDomainOffAccess (who : Agent) (off : BitVec 24) (w : Option Word) (s : State) : Host.Outcome State Fault Refusal :=
  s.on (fun d => if d.offPage who off.toNat w.isSome then d.rowAccess who (regBase + off.toNat / 4 * 4) w else d)

end Sys2Proof.Machine
end

