-- ==== Sys2Proof/Machine/ResetCmds.lean ====
section
/-! DEFINITION. Resets of the device, of a rink and of a port (R109, R221, R490 to R492, R527). -/

namespace Sys2Proof.Machine

/-- A supply ramp or brown-out of VDD_AON starts a POR of the whole device. (R490) `cut`: it has cut a programming of the OTP short, at a
bit of a thermometer field (R531). -/
def execPowerOnReset (s : State) : Host.Outcome State Fault Refusal := s.on Dev.powerLoss

/-- RESET_N held low for 200 ns or longer starts a PIN reset of the whole device. (R490) -/
def execPinReset (s : State) : Host.Outcome State Fault Refusal := s.on (Dev.startReset .PIN 0)

/-- A write of 0x0000_A5C3 to SYS_RESET.KEY by Patrol starts a SOFT reset of every domain but PD_AON. (R490) -/
def execSoftReset (who : Agent) (v : Word) (s : State) : Host.Outcome State Fault Refusal := s.on (Dev.rowWrite who .SYS_RESET v.toNat)

/-- A write of SYS_RINK_RST by Patrol, or PD_RINKn switching on, resets rink n, drops its jobs and reloads its records and firmware.
(R109) A bit of `fails` names an engine that fails the self-checks. A rink that PD_RINKn switches on is reset by DOMAIN_SWITCH_DONE. -/
def execRinkReset (who : Agent) (v : Word) (fails : BitVec 8) (s : State) : Host.Outcome State Fault Refusal :=
  s.on (Dev.rinkRstRow who v.toNat fails.toNat)

/-- The rink reset ends with READY = 1 when the rink passes, or with READY = 0 when it fails or a kept POLL times out. (R527) -/
def execRinkResetEnd (n : Fin 8) (timeout : Bool) (s : State) : Host.Outcome State Fault Refusal := s.on (Dev.rinkResetEnd n timeout)

/-- A write of 1 to MAC_CTRL.RESET starts a 1 µs PORT reset of one MAC. (R221) -/
def execPortReset (who : Agent) (n : Fin 28) (s : State) : Host.Outcome State Fault Refusal := s.on (Dev.rowWrite who .MAC_CTRL 1 n)

/-- After 1 µs the PORT reset of the MAC completes and RESET reads 0. (R221) -/
def execPortResetEnd (n : Fin 28) (s : State) : Host.Outcome State Fault Refusal := s.on (Dev.portResetEnd n)

/-- The end of a POR, PIN, WDOG or SOFT reset latches straps where due and starts the boot at phase 0. (R490) The operands are the levels
of the BOOT_SEL and PAIR_RANK pins. -/
def execResetEnd (sel : Fin 4) (rank : Bool) (s : State) : Host.Outcome State Fault Refusal := s.on (Dev.resetEnd sel rank)

end Sys2Proof.Machine
end

