-- ==== Sys2Proof/Machine/SlalomCmds.lean ====
section
/-! DEFINITION. The Slalom controller (R302 to R325). -/

namespace Sys2Proof.Machine

/-- A write of SLM_CFG.EN = 1 moves the SLM from OFF to LISTEN and starts the listen timer. (R315) A write of SLM_CFG with EN = 1. -/
def execSlmEnable (who : Agent) (v : Word) (s : State) : Host.Outcome State Fault Refusal :=
  s.on (fun d => if bit v.toNat 0 then d.rowWrite who .SLM_CFG v.toNat else d)

/-- A write of EN = 0 moves the SLM to OFF, stopping own gates and forwarding. (R315) A write of SLM_CFG with EN = 0. -/
def execSlmDisable (who : Agent) (v : Word) (s : State) : Host.Outcome State Fault Refusal :=
  s.on (fun d => if bit v.toNat 0 then d else d.rowWrite who .SLM_CFG v.toNat)

/-- The listen timer expires and the SLM coldstarts or restarts the timer with a new attempt. (R316) -/
def execListenTimeout (s : State) : Host.Outcome State Fault Refusal := s.on Dev.listenTimeout

/-- A Slalom cycle starts on the SLM's copy of the time base, applying an armed schedule switch. (R304) -/
def execSlalomCycleStart (s : State) : Host.Outcome State Fault Refusal := s.on Dev.slmCycleStart

/-- A write of SLM_SW arms a schedule bank switch at AT_CYCLE, or is refused. (R323) -/
def execScheduleSwitchArm (who : Agent) (v : Word) (s : State) : Host.Outcome State Fault Refusal :=
  s.on (Dev.rowWrite who .SLM_SW v.toNat)

/-- 1 µs before an own gate the SLM picks up the output slot or decoupling buffer to send. (R305) -/
def execGatePickup (g : Fin 256) (s : State) : Host.Outcome State Fault Refusal := s.on (Dev.gatePickup g)

/-- An own Slalom frame, data or null, leaves on each ring port at its offset. (R305) On PORT_A, or on PORT_B. -/
def execGateSend (g : Fin 256) (dir : Bool) (s : State) : Host.Outcome State Fault Refusal := s.on (Dev.gateSend g dir)

/-- A claimed Slalom frame is checked against the schedule and window, forwarded, and delivered when accepted. (R310) Operands as for
FRAME_RECEIVE. -/
def execSlalomFrameReceive (n : Fin 28) (f : List Byte) (sec : Option SecRx) (ago : BitVec 32) (s : State) : Host.Outcome State
    Fault Refusal :=
  s.on (fun d => if d.slmClaims n (d.clearFrame n f sec) then d.macReceive n f false sec ago.toNat 0 else d)

/-- At the sync point the SLM forms θ from fault-tolerant deviations, feeds the servo and judges validity and muting. (R313) -/
def execSyncPoint (s : State) : Host.Outcome State Fault Refusal := s.on Dev.syncPoint

/-- SLM_DCB_CMD COMMIT swaps WBUF and NBUF and sets NEW and VALID. (R307) -/
def execDcbCommit (who : Agent) (i : Fin 256) (s : State) : Host.Outcome State Fault Refusal := s.on (Dev.rowWrite who .SLM_DCB_CMD 1 i)

/-- SLM_DCB_CMD TAKE swaps RBUF and NBUF and clears NEW when NEW is 1. (R307) -/
def execDcbTake (who : Agent) (i : Fin 256) (s : State) : Host.Outcome State Fault Refusal := s.on (Dev.rowWrite who .SLM_DCB_CMD 2 i)

end Sys2Proof.Machine
end

