-- ==== Sys2Proof/Machine/SwitchCmds.lean ====
section
/-! DEFINITION. The switch core (R237 to R273). -/

namespace Sys2Proof.Machine

/-- A MAC whose link stays down for DOWN_FLUSH_MS has every queued copy ended. (R246) -/
def execDownFlush (n : Fin 28) (s : State) : Host.Outcome State Fault Refusal :=
  s.on (fun d => if !d.flag .MAC_STATUS_LINK n && d.fld .SWC_CFG_DOWN_FLUSH_MS != 0 then d.flushPort n else d)

/-- A dynamic FDB entry not relearned for AGE_S to 2 × AGE_S seconds is removed. (R244) The entry of this index. -/
def execFdbAging (i : BitVec 15) (s : State) : Host.Outcome State Fault Refusal := s.on (Dev.fdbAge i.toNat)

/-- A redundancy duplicate-table entry is forgotten after FORGET_MS. (R266) -/
def execDupEntryForget (r : Fin 4) (src : BitVec 48) (seq : BitVec 16) (s : State) : Host.Outcome State Fault Refusal :=
  s.on (Dev.dupForget r (src.toNat * 0x10000 + seq.toNat))

/-- A stream's vector recovery is reset after CB_RESET_MS without a frame. (R265) The stream of this index. -/
def execSeqRecoveryReset (k : BitVec 10) (s : State) : Host.Outcome State Fault Refusal :=
  s.on (fun d => d.updSwc fun w => { w with rec_ := w.rec_.set k.toNat default })

/-- SWC_TBL_CMD OP 0 reads a table entry by index. (R245) -/
def execTblRead (who : Agent) (v : Word) (s : State) : Host.Outcome State Fault Refusal := s.on (Dev.tblRow who 0 v.toNat)

/-- SWC_TBL_CMD OP 1 writes a table entry by index. (R245) -/
def execTblWrite (who : Agent) (v : Word) (s : State) : Host.Outcome State Fault Refusal := s.on (Dev.tblRow who 1 v.toNat)

/-- SWC_TBL_CMD OP 2 looks up an FDB or stream entry by key. (R245) -/
def execTblLookup (who : Agent) (v : Word) (s : State) : Host.Outcome State Fault Refusal := s.on (Dev.tblRow who 2 v.toNat)

/-- SWC_TBL_CMD OP 3 inserts an FDB or stream entry by key. (R245) -/
def execTblInsert (who : Agent) (v : Word) (s : State) : Host.Outcome State Fault Refusal := s.on (Dev.tblRow who 3 v.toNat)

/-- SWC_TBL_CMD OP 4 deletes an FDB or stream entry by key. (R245) -/
def execTblDelete (who : Agent) (v : Word) (s : State) : Host.Outcome State Fault Refusal := s.on (Dev.tblRow who 4 v.toNat)

/-- A table command completes, clears BUSY and sets RESULT. (R245) -/
def execTblDone (s : State) : Host.Outcome State Fault Refusal := s.on Dev.tblDone

/-- A copy for an internal port is delivered as a job push to a rink, or as a notice to Patrol or the host, when room allows. (R248)
Internal port 28 + p: rinks 0 to 7, Patrol, host. -/
def execCopyDelivery (p : Fin 10) (cls : Fin 8) (s : State) : Host.Outcome State Fault Refusal := s.on (Dev.deliverCopy (28 + p) cls)

/-- A write to SWC_FREE releases a copy held by the writer's internal port. (R248) -/
def execCopyRelease (who : Agent) (v : Word) (s : State) : Host.Outcome State Fault Refusal := s.on (Dev.rowWrite who .SWC_FREE v.toNat)

/-- A write of SWC_INJ word 3 commits an injection descriptor to the port's queue, or is refused. (R250) -/
def execInjectCommit (who : Agent) (v : Word) (s : State) : Host.Outcome State Fault Refusal := s.on (Dev.rowWrite who .SWC_INJ v.toNat 3)

/-- When credit allows, the core takes the next injection descriptor, reads the source and enqueues the frame. (R254) Internal port 28 +
p; the gap as for FRAME_RECEIVE. -/
def execInjectionStart (p : Fin 10) (gap : BitVec 32) (s : State) : Host.Outcome State Fault Refusal :=
  s.on (Dev.injectStart (28 + p) gap.toNat)

/-- A gate control list cycle starts, or past starts are skipped and counted. (R260) -/
def execGclCycleStart (n : Fin 28) (s : State) : Host.Outcome State Fault Refusal := s.on (Dev.gclRow n)

/-- A gate list entry's interval ends and the next entry's gates apply. (R260) -/
def execGclEntryChange (n : Fin 28) (s : State) : Host.Outcome State Fault Refusal := s.on (Dev.gclEntry n)

/-- A write of SWC_GCL_SW arms a switch to the other gate list bank. (R262) -/
def execGclSwitchArm (who : Agent) (n : Fin 28) (v : Word) (s : State) : Host.Outcome State Fault Refusal :=
  s.on (Dev.rowWrite who .SWC_GCL_SW v.toNat n)

/-- At the first start of the armed bank's cycles after the running cycle, OPER_BANK changes and PENDING clears. (R262) -/
def execGclSwitch (n : Fin 28) (s : State) : Host.Outcome State Fault Refusal := s.on (Dev.gclSwitchRow n)

end Sys2Proof.Machine
end

