-- ==== Sys2Proof/Machine/TimeCmds.lean ====
section
/-! DEFINITION. Time bases, servos, time inputs and outputs (R276 to R300, R529). -/

namespace Sys2Proof.Machine

/-- A tick carries a time base's NS from 0xFFFF_FFFF to 0 and raises WRAP. (R280) A tick that does not carry is what a step on the empty
queue makes (DESIGN CHOICE, log entry 1). -/
def execTbWrap (n : Fin 4) (s : State) : Host.Outcome State Fault Refusal := s.on (fun d => if d.tbCarries n then d.tick else d)

/-- A write of the high word of TMU_TB sets the time base to the staged value. (R279) -/
def execTbSet (who : Agent) (n : Fin 4) (v : Word) (s : State) : Host.Outcome State Fault Refusal :=
  s.on (Dev.rowWrite who .TMU_TB_HIGH v.toNat n)

/-- A write of the high word of TMU_TB_STEP steps the time base by the signed value. (R279) -/
def execTbStep (who : Agent) (n : Fin 4) (v : Word) (s : State) : Host.Outcome State Fault Refusal :=
  s.on (Dev.rowWrite who .TMU_TB_STEP_HIGH v.toNat n)

/-- A read of the low word of TMU_TB returns NS and latches FRAC of the same tick. (R278) -/
def execTbRead (who : Agent) (n : Fin 4) (s : State) : Host.Outcome State Fault Refusal := s.on (Dev.rowRead who .TMU_TB_LOW n)

/-- A set, step or INCR change reaches a time base copy after the crossing. (R283) Islands 0 to 7 are the rinks, 8 the switch, 9 the
Blades, 10 the CAN kernel. -/
def execTbCopyUpdate (isl : Fin 11) (n : Fin 4) (s : State) : Host.Outcome State Fault Refusal := s.on (Dev.copyUpdate isl n)

/-- A write of TMU_TB_OFS gives the servo one engine sample, or is refused. (R284) -/
def execOffsetSample (who : Agent) (n : Fin 4) (v : Word) (s : State) : Host.Outcome State Fault Refusal :=
  s.on (Dev.rowWrite who .TMU_TB_OFS v.toNat n)

/-- The servo handles a sample by stepping, discarding it, or updating INCR and its state. (R285) θ in 2^-8 ns from a source of R284. -/
def execServoSample (n : Fin 4) (src : Fin 8) (theta : BitVec 40) (s : State) : Host.Outcome State Fault Refusal :=
  s.on (fun d => if d.srvTakes n src then d.adjust n (.sample src theta.toInt) else d)

/-- No accepted sample for HOLD_MS moves the servo into HOLDOVER. (R529) -/
def execHoldTimeout (n : Fin 4) (s : State) : Host.Outcome State Fault Refusal := s.on (Dev.holdTimeout n)

/-- An edge on a time input is captured into its queue and may serve as a PPS servo sample. (R296) The edge and the length of its pulse
in ticks. -/
def execTimeInputEdge (k : Fin 4) (rise : Bool) (width : BitVec 32) (s : State) : Host.Outcome State Fault Refusal :=
  s.on (Dev.inputEdge k rise width.toNat)

/-- A window of 1,000,000 periods of TP_REF10 ends and yields a sample for time bases with SRC = 4. (R299) -/
def execRef10WindowEnd (s : State) : Host.Outcome State Fault Refusal := s.on Dev.refEnd

/-- A time output's edge target is reached and the edge leaves the TMU, or passed targets are skipped. (R297) -/
def execTimeOutputEdge (j : Fin 4) (s : State) : Host.Outcome State Fault Refusal := s.on (Dev.outEdge j)

/-- A read of the low word of TMU_TXTS removes the oldest transmit time-stamp entry. (R291) -/
def execTxtsRead (who : Agent) (n : Fin 28) (s : State) : Host.Outcome State Fault Refusal := s.on (Dev.rowRead who .TMU_TXTS_LOW n)

/-- A read of the low word of TMU_EVT removes the oldest capture of a time input. (R296) -/
def execEvtRead (who : Agent) (k : Fin 4) (s : State) : Host.Outcome State Fault Refusal := s.on (Dev.rowRead who .TMU_EVT_LOW k)

/-- Edges on TP_REF10 start or stop arriving at 10 MHz ± 1 %, setting or clearing TMU_STATUS.REF10_PRESENT and voiding the window in
progress. (R299) -/
def execRef10PresenceChange (on : Bool) (s : State) : Host.Outcome State Fault Refusal := s.on (Dev.refPresence on)

end Sys2Proof.Machine
end

