-- ==== Sys2Proof/Machine/DbgOps.lean ====
section
/-! DEFINITION. What the debugger reads and writes once debug is open, and the operations of the TAP (R79, R83, R522). -/

namespace Sys2Proof.Machine

/-- The debugger's read or write of a register of the device: as Patrol's, without the VLT page. (DEDUCED: log entry 31.) -/
def Dev.debugReg (off : Nat) (w : Option Word) (s : Dev) : Word × Dev :=
  if off / 0x10000 = 2 then (0#32, s.count .SYS_DENY_CNT)
  else match w with
    | some v => (v, s.regWrite 0x40 0 off v.toNat)
    | none =>
      let (v, s) := s.regRead 0x40 0 off
      (word v, s)

/-- The word in memory that the debugger reaches through a context: the instruction and data memory of its engine, or Patrol SRAM. -/
def debugAddr (c off : Nat) : Option Nat :=
  if isPatrol c then if off + 4 ≤ 0x200000 then some (0x200000000 + off) else none
  else if off + 4 ≤ 0x20000 then some (imemBase (rinkOf c) (c / 4 % 8) + off) else none

/-- The low or the high word of a value of 64 bits. -/
def half64 (v : Nat) (high : Bool) : Nat := if high then v / 2 ^ 32 % 2 ^ 32 else v % 2 ^ 32

/-- The words of a translation: SPACE with the size and the rights, page, physical address. -/
def TlbE.dbgWord (e : TlbE) : Nat → Nat
  | 0 => e.space + b2n e.big * 2 ^ 8 + b2n e.r * 2 ^ 9 + b2n e.w * 2 ^ 10 + 2 ^ 11
  | 1 => e.vpn
  | 2 => half64 e.pa false
  | _ => half64 e.pa true

/-- The translation that words 0 to 3 spell. -/
def TlbE.ofDbg (w : List Nat) : TlbE :=
  let a := w.getD 0 0
  ⟨a % 16, w.getD 1 0, bit a 8, w.getD 2 0 + w.getD 3 0 * 2 ^ 32, bit a 9, bit a 10⟩

/-- The words of a buffered store: address, value. -/
def StoreE.dbgWord (e : StoreE) : Nat → Nat
  | 0 => half64 e.pa false
  | 1 => half64 e.pa true
  | 2 => half64 e.value false
  | _ => half64 e.value true

/-- A buffered store with one of its words changed. -/
def StoreE.dbgPut (v : Nat) (e : StoreE) : Nat → StoreE
  | 0 => { e with pa := e.pa / 2 ^ 32 * 2 ^ 32 + v }
  | 1 => { e with pa := e.pa % 2 ^ 32 + v * 2 ^ 32 }
  | 2 => { e with value := e.value / 2 ^ 32 * 2 ^ 32 + v }
  | _ => { e with value := e.value % 2 ^ 32 + v * 2 ^ 32 }

/-- A list with its `i`-th entry changed. -/
def updAt {α : Type} (l : List α) (i : Nat) (f : α → α) : List α := (l.zipIdx).map fun p => if p.2 = i then f p.1 else p.1

/-- The registers of CP0 as the debugger numbers them: the CRC unit, and the bit-stuffing unit. -/
def Ctx.cp0 (x : Ctx) : Nat → Nat
  | 0 => x.crc.acc
  | 1 => x.crc.poly
  | 2 => x.crc.width + b2n x.crc.refIn * 2 ^ 8 + b2n x.crc.refOut * 2 ^ 9
  | 3 => x.stf.k + b2n x.stf.mode * 2 ^ 8 + b2n x.stf.dir * 2 ^ 9
  | 4 => x.stf.buf.length
  | 9 => x.stf.run + b2n x.stf.last * 2 ^ 8
  | i => (x.stf.buf.zipIdx.map fun p => if p.2 / 32 = i - 5 then b2n p.1 * 2 ^ (p.2 % 32) else 0).sum

/-- CP0 with a register changed: a new count of bits held keeps the first ones and adds zeros. -/
def Ctx.cp0Put (v : Nat) (x : Ctx) : Nat → Ctx
  | 0 => { x with crc := { x.crc with acc := v } }
  | 1 => { x with crc := { x.crc with poly := v } }
  | 2 => { x with crc := { x.crc with width := v % 256, refIn := bit v 8, refOut := bit v 9 } }
  | 3 => { x with stf := { x.stf with k := v % 256, mode := bit v 8, dir := bit v 9 } }
  | 4 => { x with stf := { x.stf with buf := (x.stf.buf ++ List.replicate (v % 128) false).take (v % 128) } }
  | 9 => { x with stf := { x.stf with run := v % 256, last := bit v 8 } }
  | i => { x with stf := { x.stf with buf := x.stf.buf.zipIdx.map fun p => if p.2 / 32 = i - 5 then bit v (p.2 % 32) else p.1 } }

/-- The Pregaef binding as the debugger numbers it. -/
def Ctx.cp1 (x : Ctx) : Nat → Nat
  | 0 => x.bound
  | 1 => x.pgPc
  | 2 => x.pgSp
  | _ => x.pgBase

/-- The Pregaef binding with a register changed. -/
def Ctx.cp1Put (v : Nat) (x : Ctx) : Nat → Ctx
  | 0 => { x with bound := v % 32 }
  | 1 => { x with pgPc := v }
  | 2 => { x with pgSp := v }
  | _ => { x with pgBase := v }

/-- The kind of a stall, what it waits for, and the accesses made. -/
def Stall.dbgWord : Stall → Nat → Nat
  | .none, _ => 0
  | .walk _, 3 => 1
  | .walk va, 4 => va
  | .walk _, _ => 0
  | .walking, i => if i = 3 then 2 else 0
  | .data _ _ _ _, 3 => 3
  | .data w _ _ _, 4 => w
  | .data _ _ made _, _ => made

/-- A stall with one of these changed; a new kind begins empty. -/
def Stall.dbgPut (v : Nat) : Stall → Nat → Stall
  | x, 3 => if x.dbgWord 3 = v % 4 then x else match v % 4 with
    | 0 => .none
    | 1 => .walk 0
    | 2 => .walking
    | _ => .data 0 [] 0 0
  | .walk _, 4 => .walk v
  | .data _ pas made q, 4 => .data v pas made q
  | .data w pas _ q, 5 => .data w pas v q
  | x, _ => x

/-- The state of a context as the debugger numbers it. -/
def Ctx.stateWord (x : Ctx) : Nat → Nat
  | 0 => x.st.code
  | 1 => x.prio
  | 2 => b2n x.hasJob
  | 6 => b2n x.window
  | 7 => b2n x.patEmpty
  | 8 => b2n x.aborting
  | 9 => b2n x.fence
  | 10 => x.evRd
  | 11 => x.task
  | i => x.stall.dbgWord i

/-- The state of a context with one of these changed; a new kind of stall forgets the walks that have failed. -/
def Ctx.statePut (v : Nat) (x : Ctx) : Nat → Ctx
  | 1 => { x with prio := v % 4 }
  | 2 => { x with hasJob := bit v 0 }
  | 6 => { x with window := bit v 0 }
  | 7 => { x with patEmpty := bit v 0 }
  | 8 => { x with aborting := bit v 0 }
  | 9 => { x with fence := bit v 0 }
  | 10 => { x with evRd := v % 32 }
  | 11 => { x with task := v % 32 }
  | i => { x with stall := x.stall.dbgPut v i, walkFlt := if i = 3 then [] else x.walkFlt }

/-- The words of a walk, and a walk with one of them changed. -/
def Walk.dbgWord (x : Walk) : Nat → Nat
  | 0 => x.owner % 512 + x.rink * 2 ^ 12 + x.space * 2 ^ 16 + b2n x.dead * 2 ^ 20
  | _ => x.va
def Walk.dbgPut (v : Nat) (x : Walk) : Nat → Walk
  | 0 => { x with owner := v % 512, rink := bits v 15 12, space := bits v 19 16, dead := bit v 20 }
  | _ => { x with va := v }

/-- The state with a number. -/
def ctxStOf : Nat → CtxSt
  | 0 => .idle
  | 1 => .run
  | 2 => .wait
  | 3 => .faulted
  | _ => .stopped

/-- The flags as a word. -/
def FlagSet.toNat (f : FlagSet) : Nat := b2n f.z + 2 * b2n f.n + 4 * b2n f.c + 8 * b2n f.v + 16 * b2n f.dz

/-- What the debugger reads of a target; the form of a word that R79 does not give is the model's (DESIGN CHOICE, log entry 31). -/
def Dev.debugValue (s : Dev) : DbgTarget → Nat
  | .wreg c r => ((s.ctx c).rd r).toNat
  | .pc c => (s.ctx c).pc
  | .flags c => (s.ctx c).fl.toNat
  | .space c => (s.ctx c).space
  | .creg c i => (s.crRead c i.toNat).1
  | .cp0 c i => (s.ctx c).cp0 i
  | .cp1 c i => (s.ctx c).cp1 i
  | .state c i => (s.ctx c).stateWord i
  | .walk i w => ((s.eng.walks[i.val]?).map fun x => x.dbgWord w).getD 0
  | .microTlb c i w => (((s.ctx c).micro[i.val]?).map fun e => e.dbgWord w).getD 0
  | .secondTlb n i w => (((s.eng.tlb.get n)[i.val]?).map fun e => e.dbgWord w).getD 0
  | .queue e i w => (((s.queue e)[i.val]?).map fun j => Job.word j.2 w).getD 0
  | .store e i w => (((s.engine e).stores[i.val]?).map fun x => x.dbgWord w).getD 0
  | .mem c off => ((debugAddr c off).map fun a => s.load a 4).getD 0
  | .register _ => 0

/-- The words of a translation with one changed. -/
def TlbE.dbgPut (v w : Nat) (e : TlbE) : TlbE := TlbE.ofDbg (((List.range 4).map e.dbgWord).set w v)

/-- What the debugger writes to a target: it changes what is there. -/
def Dev.debugPut (v : Nat) (s : Dev) : DbgTarget → Dev
  | .wreg c r => s.updCtx c fun x => x.wr r (word v)
  | .pc c => s.updCtx c fun x => { x with pc := v % imemWords c }
  | .flags c => s.updCtx c fun x => { x with fl := ⟨bit v 0, bit v 1, bit v 2, bit v 3, bit v 4⟩ }
  | .space c => s.updCtx c fun x => { x with space := v % 16 }
  | .creg c i => s.crWrite c i.toNat v
  | .cp0 c i => s.updCtx c fun x => x.cp0Put v i
  | .cp1 c i => s.updCtx c fun x => x.cp1Put v i
  | .state c i => match i.val with
    | 0 => s.setSt c (ctxStOf v)
    | k => s.updCtx c fun x => x.statePut v k
  | .walk i w => { s with eng := { s.eng with walks := updAt s.eng.walks i fun x => x.dbgPut v w } }
  | .microTlb c i w => s.updCtx c fun x => { x with micro := updAt x.micro i fun e => e.dbgPut v w }
  | .secondTlb n i w => { s with eng := { s.eng with tlb := s.eng.tlb.upd n fun l => updAt l i fun e => e.dbgPut v w } }
  | .queue e i w => s.setQueue e (updAt (s.queue e) i fun p => (p.1, p.2.set w (word v)))
  | .store e i w => s.updEng e fun x => { x with stores := updAt x.stores i fun y => y.dbgPut v w }
  | .mem c off => match debugAddr c off with
    | some a => s.store a 4 v
    | none => s
  | .register _ => s

/-- An access of the debugger (R79): it reads, or writes `w`. -/
def Dev.debugAccess (t : DbgTarget) (w : Option Word) (s : Dev) : Dev :=
  if !s.flag .VLT_STATUS_DEBUG_OPEN || !s.tap.trst || s.sys.resetRun.isSome then s
  else match t with
    | .register off =>
      let (v, s) := s.debugReg off w
      s.updVlt fun x => { x with dbgData := v }
    | t => match w with
      | some v => s.debugPut v.toNat t
      | none => s.updVlt fun x => { x with dbgData := word (s.debugValue t) }

/-- What the TAP does (R79, R83, R522); `w` is for an access of the debugger. The level that stands at a ball is outside the device: a sample takes a fresh value, but for a ball
that boundary scan itself drives (DESIGN CHOICE, log entry 9). -/
def Dev.tapOp (op : TapOp) (w : Option Word) (s : Dev) : Dev :=
  match op with
  | .trst high => s.updTap (TapSt.setTrst high)
  | .tck tms => s.updTap (TapSt.clock tms)
  | .drive l => s.updTap (TapSt.scanOut l)
  | .undrive => s.updTap (TapSt.scanOut [])
  | .sample p => match s.tap.drives.find? fun d => d.1 == p with
    | some d => s.updTap (TapSt.scanIn d.2)
    | none =>
      let (v, s) := s.fresh
      s.updTap (TapSt.scanIn (bit v 0))
  | .access t => s.debugAccess t w

end Sys2Proof.Machine
end

