-- ==== Sys2Proof/Machine/VaultCmds.lean ====
section
/-! DEFINITION. Provisioning, debug, tamper response and keys (R72, R77 to R82). -/

namespace Sys2Proof.Machine

/-- The Vault returns a fresh ECDH P-384 public key for the next SET_IMG_KEY. (R72) `sig`: the signature over the request and the Vault's
nonce, which counts in OWNED. -/
def execGetEphemeral (sig : BitVec 768) (s : State) : Host.Outcome State Fault Refusal := s.on (Dev.provServed .getEphemeral sig.toNat)

/-- The Vault programs key slot n unless it is not empty. (R72) -/
def execSetKeySlot (sig : BitVec 768) (slot : Fin 4 × BitVec 768) (s : State) : Host.Outcome State Fault Refusal :=
  s.on (Dev.provServed (.setKeySlot slot.1 slot.2) sig.toNat)

/-- The Vault sets KEY_REVOKE bit n unless no unrevoked programmed slot would remain. (R72) -/
def execRevokeSlot (sig : BitVec 768) (n : Fin 4) (s : State) : Host.Outcome State Fault Refusal :=
  s.on (Dev.provServed (.revokeSlot n) sig.toNat)

/-- The Vault unwraps K_IMG sent under the ephemeral key and programs OTP_WIMG, unless already programmed. (R72) The sender's public key,
and K_IMG under the key that the two give. -/
def execSetImgKey (sig : BitVec 768) (sent : BitVec 768 × BitVec 480) (s : State) : Host.Outcome State Fault Refusal :=
  s.on (Dev.provServed (.setImgKey sent) sig.toNat)

/-- The Vault programs DEBUG_KEY unless already programmed. (R72) -/
def execSetDebugKey (req : BitVec 768 × BitVec 768) (s : State) : Host.Outcome State Fault Refusal :=
  s.on (Dev.provServed (.setDebugKey req.2) req.1.toNat)

/-- The Vault programs SENSOR_EN bits and TAMPER_LIMIT unless a programmed bit would be cleared. (R72) -/
def execSetSensors (sig : BitVec 768) (en : BitVec 5) (limit : BitVec 6) (s : State) : Host.Outcome State Fault Refusal :=
  s.on (Dev.provServed (.setSensors en limit) sig.toNat)

/-- The Vault advances LIFECYCLE to OWNED when slot 0 and OTP_WIMG are programmed. (R72) -/
def execSetOwned (sig : BitVec 768) (s : State) : Host.Outcome State Fault Refusal := s.on (Dev.provServed .setOwned sig.toNat)

/-- The Vault advances LIFECYCLE to SCRAPPED. (R72) -/
def execScrap (sig : BitVec 768) (s : State) : Host.Outcome State Fault Refusal := s.on (Dev.provServed .scrap sig.toNat)

/-- The Vault issues a 32-byte nonce with the serial number for a debug challenge, unless 8 failures since POR have occurred. (R79) -/
def execDebugChallenge (s : State) : Host.Outcome State Fault Refusal := s.on Dev.debugChallenge

/-- A debugger's signature by DEBUG_KEY opens debug, or increments VLT_DBG_FAIL_CNT on failure. (R79) `sig`: the signature over the
nonce and the serial number. -/
def execDebugResponse (sig : BitVec 768) (s : State) : Host.Outcome State Fault Refusal := s.on (Dev.debugResponse sig.toNat)

/-- An enabled tamper sensor trips, latching the source, zeroising keys, asserting TAMP reset and starting the zero-fill of memories.
(R81) A set bit names a sensor whose condition holds. -/
def execTamperResponse (src : BitVec 5) (s : State) : Host.Outcome State Fault Refusal := s.on (Dev.tamperTrip src.toNat)

/-- The zero-fill of the tamper response completes and the device is in Lockdown. (R81) -/
def execLockdownEntry (s : State) : Host.Outcome State Fault Refusal := s.on Dev.lockdownEntry

/-- One further TAMPER_COUNT bit is programmed 90 µs after the trip. (R531) -/
def execTamperCountProgram (s : State) : Host.Outcome State Fault Refusal := s.on Dev.tamperCountBit

/-- At each tandem link start the units exchange nonces and the Vaults derive and install SAK_TDM. (R77) The partner's nonce, and its START frame
with packet number and tag. -/
def execTandemLinkStart (nonce : BitVec 256) (f : StartF) (t : TdmTag) (s : State) : Host.Outcome State Fault Refusal :=
  s.on (Dev.tandemStart nonce.toNat f t)

/-- The Vault installs a MACsec SAK into the key slot of a backbone MAC at the firmware's request. (R78) -/
def execSakInstall (n an : Fin 4) (s : State) : Host.Outcome State Fault Refusal := s.on (Dev.sakInstall n an)

/-- With debug open, the debugger on the TAP reads or writes engine or Patrol state or a register page other than VLT; the
same port carries boundary scan. (R79, R83, R522) -/
def execDebugAccess (op : TapOp) (w : Option Word) (s : State) : Host.Outcome State Fault Refusal := s.on (Dev.tapOp op w)

end Sys2Proof.Machine
end

