-- ==== Sys2Proof/Machine/Dispatch.lean ====
section
/-! DEFINITION. One arm per command: the meaning it calls. -/

namespace Sys2Proof.Machine

open Sys2Proof

/-- The effect of a command on everything but the queue. -/
def exec (i : Instr) (s : State) : Host.Outcome State Fault Refusal :=
  match i with
  | .reg64LowRead who off => Sys2Proof.Machine.execReg64LowRead who off s
  | .reg64HighRead who off => Sys2Proof.Machine.execReg64HighRead who off s
  | .reg64LowWrite who off v => Sys2Proof.Machine.execReg64LowWrite who off v s
  | .reg64HighWrite who off v => Sys2Proof.Machine.execReg64HighWrite who off v s
  | .registerWrite who off v => Sys2Proof.Machine.execRegisterWrite who off v s
  | .counterWrite who off v => Sys2Proof.Machine.execCounterWrite who off v s
  | .unmappedAccess who pa w => Sys2Proof.Machine.execUnmappedAccess who pa w s
  | .domainOffAccess who off w => Sys2Proof.Machine.execDomainOffAccess who off w s
  | .powerOnReset => Sys2Proof.Machine.execPowerOnReset s
  | .pinReset => Sys2Proof.Machine.execPinReset s
  | .softReset who v => Sys2Proof.Machine.execSoftReset who v s
  | .rinkReset who v fails => Sys2Proof.Machine.execRinkReset who v fails s
  | .rinkResetEnd n timeout => Sys2Proof.Machine.execRinkResetEnd n timeout s
  | .portReset who n => Sys2Proof.Machine.execPortReset who n s
  | .portResetEnd n => Sys2Proof.Machine.execPortResetEnd n s
  | .resetEnd sel rank => Sys2Proof.Machine.execResetEnd sel rank s
  | .keyDerivationDone => Sys2Proof.Machine.execKeyDerivationDone s
  | .marchCSelfTest fails => Sys2Proof.Machine.execMarchCSelfTest fails s
  | .imageRead flash => Sys2Proof.Machine.execImageRead flash s
  | .resourceCheck engFail laneFail phyFail => Sys2Proof.Machine.execResourceCheck engFail laneFail phyFail s
  | .partitionApply => Sys2Proof.Machine.execPartitionApply s
  | .sectionLoad => Sys2Proof.Machine.execSectionLoad s
  | .sectionApply => Sys2Proof.Machine.execSectionApply s
  | .bootRelease us => Sys2Proof.Machine.execBootRelease us s
  | .regseqWrite rink => Sys2Proof.Machine.execRegseqWrite rink s
  | .regseqModify rink => Sys2Proof.Machine.execRegseqModify rink s
  | .regseqPoll rink => Sys2Proof.Machine.execRegseqPoll rink s
  | .regseqDelay rink => Sys2Proof.Machine.execRegseqDelay rink s
  | .regseqEnd rink => Sys2Proof.Machine.execRegseqEnd rink s
  | .pollTimeout => Sys2Proof.Machine.execPollTimeout s
  | .bootConfirm who => Sys2Proof.Machine.execBootConfirm who s
  | .getEphemeral sig => Sys2Proof.Machine.execGetEphemeral sig s
  | .setKeySlot sig slot => Sys2Proof.Machine.execSetKeySlot sig slot s
  | .revokeSlot sig n => Sys2Proof.Machine.execRevokeSlot sig n s
  | .setImgKey sig key => Sys2Proof.Machine.execSetImgKey sig key s
  | .setDebugKey req => Sys2Proof.Machine.execSetDebugKey req s
  | .setSensors sig en limit => Sys2Proof.Machine.execSetSensors sig en limit s
  | .setOwned sig => Sys2Proof.Machine.execSetOwned sig s
  | .scrap sig => Sys2Proof.Machine.execScrap sig s
  | .debugChallenge => Sys2Proof.Machine.execDebugChallenge s
  | .debugResponse sig => Sys2Proof.Machine.execDebugResponse sig s
  | .tamperResponse src => Sys2Proof.Machine.execTamperResponse src s
  | .lockdownEntry => Sys2Proof.Machine.execLockdownEntry s
  | .tamperCountProgram => Sys2Proof.Machine.execTamperCountProgram s
  | .tandemLinkStart nonce f t => Sys2Proof.Machine.execTandemLinkStart nonce f t s
  | .sakInstall n an => Sys2Proof.Machine.execSakInstall n an s
  | .pairedWord who => Sys2Proof.Machine.execPairedWord who s
  | .illegalWord who => Sys2Proof.Machine.execIllegalWord who s
  | .alu who => Sys2Proof.Machine.execAlu who s
  | .addi who => Sys2Proof.Machine.execAddi who s
  | .andi who => Sys2Proof.Machine.execAndi who s
  | .ori who => Sys2Proof.Machine.execOri who s
  | .xori who => Sys2Proof.Machine.execXori who s
  | .cmpi who => Sys2Proof.Machine.execCmpi who s
  | .shifti who => Sys2Proof.Machine.execShifti who s
  | .lui who => Sys2Proof.Machine.execLui who s
  | .muli who => Sys2Proof.Machine.execMuli who s
  | .dvs who => Sys2Proof.Machine.execDvs who s
  | .dvu who => Sys2Proof.Machine.execDvu who s
  | .load who => Sys2Proof.Machine.execLoad who s
  | .store who => Sys2Proof.Machine.execStore who s
  | .loadm who => Sys2Proof.Machine.execLoadm who s
  | .storem who => Sys2Proof.Machine.execStorem who s
  | .loadDataReturn who => Sys2Proof.Machine.execLoadDataReturn who s
  | .storeBufferDrain who => Sys2Proof.Machine.execStoreBufferDrain who s
  | .bc who => Sys2Proof.Machine.execBc who s
  | .jal who => Sys2Proof.Machine.execJal who s
  | .jr who => Sys2Proof.Machine.execJr who s
  | .dbnz who => Sys2Proof.Machine.execDbnz who s
  | .waitev who => Sys2Proof.Machine.execWaitev who s
  | .eventWake who => Sys2Proof.Machine.execEventWake who s
  | .rdcr who => Sys2Proof.Machine.execRdcr who s
  | .wrcr who => Sys2Proof.Machine.execWrcr who s
  | .mffl who => Sys2Proof.Machine.execMffl who s
  | .mtfl who => Sys2Proof.Machine.execMtfl who s
  | .fence who => Sys2Proof.Machine.execFence who s
  | .yield who => Sys2Proof.Machine.execYield who s
  | .setspace who => Sys2Proof.Machine.execSetspace who s
  | .crcCfg who => Sys2Proof.Machine.execCrcCfg who s
  | .crcSet who => Sys2Proof.Machine.execCrcSet who s
  | .crcGet who => Sys2Proof.Machine.execCrcGet who s
  | .crcUb who => Sys2Proof.Machine.execCrcUb who s
  | .crcUh who => Sys2Proof.Machine.execCrcUh who s
  | .crcUw who => Sys2Proof.Machine.execCrcUw who s
  | .stfCfg who => Sys2Proof.Machine.execStfCfg who s
  | .stfPut who => Sys2Proof.Machine.execStfPut who s
  | .stfGet who => Sys2Proof.Machine.execStfGet who s
  | .stfCnt who => Sys2Proof.Machine.execStfCnt who s
  | .pgfBind who => Sys2Proof.Machine.execPgfBind who s
  | .pgfNext who => Sys2Proof.Machine.execPgfNext who s
  | .pgfPop who => Sys2Proof.Machine.execPgfPop who s
  | .pgfPush who => Sys2Proof.Machine.execPgfPush who s
  | .pgfPop2 who => Sys2Proof.Machine.execPgfPop2 who s
  | .pgfPush2 who => Sys2Proof.Machine.execPgfPush2 who s
  | .pgfJmp who => Sys2Proof.Machine.execPgfJmp who s
  | .pgfEnd who => Sys2Proof.Machine.execPgfEnd who s
  | .fadd who => Sys2Proof.Machine.execFadd who s
  | .fsub who => Sys2Proof.Machine.execFsub who s
  | .fmul who => Sys2Proof.Machine.execFmul who s
  | .fdiv who => Sys2Proof.Machine.execFdiv who s
  | .fsqrt who => Sys2Proof.Machine.execFsqrt who s
  | .fmin who => Sys2Proof.Machine.execFmin who s
  | .fmax who => Sys2Proof.Machine.execFmax who s
  | .fma who => Sys2Proof.Machine.execFma who s
  | .fcmp who => Sys2Proof.Machine.execFcmp who s
  | .fabs who => Sys2Proof.Machine.execFabs who s
  | .fneg who => Sys2Proof.Machine.execFneg who s
  | .fcvtW who => Sys2Proof.Machine.execFcvtW who s
  | .fcvtWu who => Sys2Proof.Machine.execFcvtWu who s
  | .fcvtFw who => Sys2Proof.Machine.execFcvtFw who s
  | .fcvtFwu who => Sys2Proof.Machine.execFcvtFwu who s
  | .fcvtX who => Sys2Proof.Machine.execFcvtX who s
  | .timerExpiry who => Sys2Proof.Machine.execTimerExpiry who s
  | .pushCommit who n v => Sys2Proof.Machine.execPushCommit who n v s
  | .queueRoomPush e => Sys2Proof.Machine.execQueueRoomPush e s
  | .jobTake e => Sys2Proof.Machine.execJobTake e s
  | .localSteal who => Sys2Proof.Machine.execLocalSteal who s
  | .stealWindowExpiry who => Sys2Proof.Machine.execStealWindowExpiry who s
  | .stealRequest who => Sys2Proof.Machine.execStealRequest who s
  | .stealReply who => Sys2Proof.Machine.execStealReply who s
  | .patrolStealRequest who => Sys2Proof.Machine.execPatrolStealRequest who s
  | .contextResume who c => Sys2Proof.Machine.execContextResume who c s
  | .contextAbort who c => Sys2Proof.Machine.execContextAbort who c s
  | .engineOffline by_ n e => Sys2Proof.Machine.execEngineOffline by_ n e s
  | .tableWalk who => Sys2Proof.Machine.execTableWalk who s
  | .walkComplete who => Sys2Proof.Machine.execWalkComplete who s
  | .tlbInvalidate who n v => Sys2Proof.Machine.execTlbInvalidate who n v s
  | .tlbInvalidateDone n => Sys2Proof.Machine.execTlbInvalidateDone n s
  | .bankGrant mid w op upset waits waits2 => Sys2Proof.Machine.execBankGrant mid w op upset waits waits2 s
  | .bankRequest who v => Sys2Proof.Machine.execBankRequest who v s
  | .bankStateChangeDone b => Sys2Proof.Machine.execBankStateChangeDone b s
  | .liftStart who l v => Sys2Proof.Machine.execLiftStart who l v s
  | .liftDescriptorFetch l => Sys2Proof.Machine.execLiftDescriptorFetch l s
  | .liftBlock l => Sys2Proof.Machine.execLiftBlock l s
  | .liftChainDone l => Sys2Proof.Machine.execLiftChainDone l s
  | .liftResume who l => Sys2Proof.Machine.execLiftResume who l s
  | .liftAbort who l => Sys2Proof.Machine.execLiftAbort who l s
  | .destructiveMarchSs who b => Sys2Proof.Machine.execDestructiveMarchSs who b s
  | .preservingMarchSs who b => Sys2Proof.Machine.execPreservingMarchSs who b s
  | .groomerRow row => Sys2Proof.Machine.execGroomerRow row s
  | .groomerCommandDone fails => Sys2Proof.Machine.execGroomerCommandDone fails s
  | .scrubRead upset waits waits2 => Sys2Proof.Machine.execScrubRead upset waits waits2 s
  | .noticeLowWrite who m v => Sys2Proof.Machine.execNoticeLowWrite who m v s
  | .postCommit who m v => Sys2Proof.Machine.execPostCommit who m v s
  | .noticeSnapshot who m => Sys2Proof.Machine.execNoticeSnapshot who m s
  | .noticeTake who m => Sys2Proof.Machine.execNoticeTake who m s
  | .mailboxFlush who m => Sys2Proof.Machine.execMailboxFlush who m s
  | .doorbellSet who t v => Sys2Proof.Machine.execDoorbellSet who t v s
  | .doorbellClear who t v => Sys2Proof.Machine.execDoorbellClear who t v s
  | .msixUnmask v => Sys2Proof.Machine.execMsixUnmask v s
  | .lockAcquire who n => Sys2Proof.Machine.execLockAcquire who n s
  | .lockRelease who n v => Sys2Proof.Machine.execLockRelease who n v s
  | .lockForce who n => Sys2Proof.Machine.execLockForce who n s
  | .frameReceive n f cut sec ago gap => Sys2Proof.Machine.execFrameReceive n f cut sec ago gap s
  | .macControlFrame n f ago => Sys2Proof.Machine.execMacControlFrame n f ago s
  | .pauseExpiry n c => Sys2Proof.Machine.execPauseExpiry n c s
  | .pauseRefresh n => Sys2Proof.Machine.execPauseRefresh n s
  | .egressSelection n lead dt => Sys2Proof.Machine.execEgressSelection n lead dt s
  | .frameTransmit n late dt => Sys2Proof.Machine.execFrameTransmit n late dt s
  | .frameTransmitDone n dt => Sys2Proof.Machine.execFrameTransmitDone n dt s
  | .linkChange n up speed t => Sys2Proof.Machine.execLinkChange n up speed t s
  | .laneLockChange l lock sync an errs => Sys2Proof.Machine.execLaneLockChange l lock sync an errs s
  | .tphyRestart who k => Sys2Proof.Machine.execTphyRestart who k s
  | .traverseFrame n sfd rx k ends cut => Sys2Proof.Machine.execTraverseFrame n sfd rx k ends cut s
  | .downFlush n => Sys2Proof.Machine.execDownFlush n s
  | .fdbAging k => Sys2Proof.Machine.execFdbAging k s
  | .dupEntryForget r src seq => Sys2Proof.Machine.execDupEntryForget r src seq s
  | .seqRecoveryReset k => Sys2Proof.Machine.execSeqRecoveryReset k s
  | .tblRead who v => Sys2Proof.Machine.execTblRead who v s
  | .tblWrite who v => Sys2Proof.Machine.execTblWrite who v s
  | .tblLookup who v => Sys2Proof.Machine.execTblLookup who v s
  | .tblInsert who v => Sys2Proof.Machine.execTblInsert who v s
  | .tblDelete who v => Sys2Proof.Machine.execTblDelete who v s
  | .tblDone => Sys2Proof.Machine.execTblDone s
  | .copyDelivery p cls => Sys2Proof.Machine.execCopyDelivery p cls s
  | .copyRelease who v => Sys2Proof.Machine.execCopyRelease who v s
  | .injectCommit who v => Sys2Proof.Machine.execInjectCommit who v s
  | .injectionStart p gap => Sys2Proof.Machine.execInjectionStart p gap s
  | .gclCycleStart n => Sys2Proof.Machine.execGclCycleStart n s
  | .gclEntryChange n => Sys2Proof.Machine.execGclEntryChange n s
  | .gclSwitchArm who n v => Sys2Proof.Machine.execGclSwitchArm who n v s
  | .gclSwitch n => Sys2Proof.Machine.execGclSwitch n s
  | .tbWrap n => Sys2Proof.Machine.execTbWrap n s
  | .tbSet who n v => Sys2Proof.Machine.execTbSet who n v s
  | .tbStep who n v => Sys2Proof.Machine.execTbStep who n v s
  | .tbRead who n => Sys2Proof.Machine.execTbRead who n s
  | .tbCopyUpdate isl n => Sys2Proof.Machine.execTbCopyUpdate isl n s
  | .offsetSample who n v => Sys2Proof.Machine.execOffsetSample who n v s
  | .servoSample n src theta => Sys2Proof.Machine.execServoSample n src theta s
  | .holdTimeout n => Sys2Proof.Machine.execHoldTimeout n s
  | .timeInputEdge k rise width => Sys2Proof.Machine.execTimeInputEdge k rise width s
  | .ref10WindowEnd => Sys2Proof.Machine.execRef10WindowEnd s
  | .timeOutputEdge j => Sys2Proof.Machine.execTimeOutputEdge j s
  | .txtsRead who n => Sys2Proof.Machine.execTxtsRead who n s
  | .evtRead who k => Sys2Proof.Machine.execEvtRead who k s
  | .slmEnable who v => Sys2Proof.Machine.execSlmEnable who v s
  | .slmDisable who v => Sys2Proof.Machine.execSlmDisable who v s
  | .listenTimeout => Sys2Proof.Machine.execListenTimeout s
  | .slalomCycleStart => Sys2Proof.Machine.execSlalomCycleStart s
  | .scheduleSwitchArm who v => Sys2Proof.Machine.execScheduleSwitchArm who v s
  | .gatePickup g => Sys2Proof.Machine.execGatePickup g s
  | .gateSend g dir => Sys2Proof.Machine.execGateSend g dir s
  | .slalomFrameReceive n f sec ago => Sys2Proof.Machine.execSlalomFrameReceive n f sec ago s
  | .syncPoint => Sys2Proof.Machine.execSyncPoint s
  | .dcbCommit who k => Sys2Proof.Machine.execDcbCommit who k s
  | .dcbTake who k => Sys2Proof.Machine.execDcbTake who k s
  | .canEnable who n v => Sys2Proof.Machine.execCanEnable who n v s
  | .canDisable who n v => Sys2Proof.Machine.execCanDisable who n v s
  | .canIntegrationDone n => Sys2Proof.Machine.execCanIntegrationDone n s
  | .txRequest who n k v => Sys2Proof.Machine.execTxRequest who n k v s
  | .txCancel who n k v => Sys2Proof.Machine.execTxCancel who n k v s
  | .canFrameTransmit n o => Sys2Proof.Machine.execCanFrameTransmit n o s
  | .canFrameReceive n f sof => Sys2Proof.Machine.execCanFrameReceive n f sof s
  | .ringEntryWrite n => Sys2Proof.Machine.execRingEntryWrite n s
  | .ringEnable who n v => Sys2Proof.Machine.execRingEnable who n v s
  | .canError n k tx special => Sys2Proof.Machine.execCanError n k tx special s
  | .busOffRecover who n => Sys2Proof.Machine.execBusOffRecover who n s
  | .recoveryDone n => Sys2Proof.Machine.execRecoveryDone n s
  | .basicCycleStart n => Sys2Proof.Machine.execBasicCycleStart n s
  | .canGate n c bc => Sys2Proof.Machine.execCanGate n c bc s
  | .bladeJmp g b levels => Sys2Proof.Machine.execBladeJmp g b levels s
  | .bladeWait g b levels => Sys2Proof.Machine.execBladeWait g b levels s
  | .bladeIn g b levels => Sys2Proof.Machine.execBladeIn g b levels s
  | .bladeOut g b levels => Sys2Proof.Machine.execBladeOut g b levels s
  | .bladePush g b levels => Sys2Proof.Machine.execBladePush g b levels s
  | .bladePull g b levels => Sys2Proof.Machine.execBladePull g b levels s
  | .bladeMov g b levels => Sys2Proof.Machine.execBladeMov g b levels s
  | .bladeIrq g b levels => Sys2Proof.Machine.execBladeIrq g b levels s
  | .bladeSet g b levels => Sys2Proof.Machine.execBladeSet g b levels s
  | .bladeAt g b levels => Sys2Proof.Machine.execBladeAt g b levels s
  | .atFire g b => Sys2Proof.Machine.execAtFire g b s
  | .bladeIllegal g b => Sys2Proof.Machine.execBladeIllegal g b s
  | .txholdWrite who g b v => Sys2Proof.Machine.execTxholdWrite who g b v s
  | .rxholdRead who g b => Sys2Proof.Machine.execRxholdRead who g b s
  | .flagSet who g v => Sys2Proof.Machine.execFlagSet who g v s
  | .flagClear who g v => Sys2Proof.Machine.execFlagClear who g v s
  | .bladeStop who g b => Sys2Proof.Machine.execBladeStop who g b s
  | .bladeResume who g b => Sys2Proof.Machine.execBladeResume who g b s
  | .programWordWrite who g k v => Sys2Proof.Machine.execProgramWordWrite who g k v s
  | .restartArm who g v => Sys2Proof.Machine.execRestartArm who g v s
  | .bladeRestart g => Sys2Proof.Machine.execBladeRestart g s
  | .bankLevelChange k pins => Sys2Proof.Machine.execBankLevelChange k pins s
  | .receiveDispatch e cell viol => Sys2Proof.Machine.execReceiveDispatch e cell viol s
  | .ipv4Datagram e cell owner => Sys2Proof.Machine.execIpv4Datagram e cell owner s
  | .stationInput e k len src m viol jobs => Sys2Proof.Machine.execStationInput e k len src m viol jobs s
  | .stationLoss e k v => Sys2Proof.Machine.execStationLoss e k v s
  | .gatewayTransmit e k => Sys2Proof.Machine.execGatewayTransmit e k s
  | .instanceRefuse e rec_ => Sys2Proof.Machine.execInstanceRefuse e rec_ s
  | .goosePublish e k => Sys2Proof.Machine.execGoosePublish e k s
  | .gooseRetransmit k => Sys2Proof.Machine.execGooseRetransmit k s
  | .slotCommit who n => Sys2Proof.Machine.execSlotCommit who n s
  | .lossReport who k => Sys2Proof.Machine.execLossReport who k s
  | .slotForce who n => Sys2Proof.Machine.execSlotForce who n s
  | .slotRelease who n => Sys2Proof.Machine.execSlotRelease who n s
  | .arithReport who t => Sys2Proof.Machine.execArithReport who t s
  | .inputLatch t => Sys2Proof.Machine.execInputLatch t s
  | .taskRelease t => Sys2Proof.Machine.execTaskRelease t s
  | .outputDeadline t => Sys2Proof.Machine.execOutputDeadline t s
  | .arm who t => Sys2Proof.Machine.execArm who t s
  | .clrSafe who t => Sys2Proof.Machine.execClrSafe who t s
  | .pregaefNop who => Sys2Proof.Machine.execPregaefNop who s
  | .pregaefLit who => Sys2Proof.Machine.execPregaefLit who s
  | .pregaefLitc who => Sys2Proof.Machine.execPregaefLitc who s
  | .pregaefLitc2 who => Sys2Proof.Machine.execPregaefLitc2 who s
  | .pregaefLd who => Sys2Proof.Machine.execPregaefLd who s
  | .pregaefSt who => Sys2Proof.Machine.execPregaefSt who s
  | .pregaefLd2 who => Sys2Proof.Machine.execPregaefLd2 who s
  | .pregaefSt2 who => Sys2Proof.Machine.execPregaefSt2 who s
  | .pregaefIn who => Sys2Proof.Machine.execPregaefIn who s
  | .pregaefOut who => Sys2Proof.Machine.execPregaefOut who s
  | .pregaefStat who => Sys2Proof.Machine.execPregaefStat who s
  | .pregaefTime who => Sys2Proof.Machine.execPregaefTime who s
  | .pregaefDup who => Sys2Proof.Machine.execPregaefDup who s
  | .pregaefDrop who => Sys2Proof.Machine.execPregaefDrop who s
  | .pregaefSwap who => Sys2Proof.Machine.execPregaefSwap who s
  | .pregaefDup2 who => Sys2Proof.Machine.execPregaefDup2 who s
  | .pregaefAdd who => Sys2Proof.Machine.execPregaefAdd who s
  | .pregaefSub who => Sys2Proof.Machine.execPregaefSub who s
  | .pregaefMul who => Sys2Proof.Machine.execPregaefMul who s
  | .pregaefDiv who => Sys2Proof.Machine.execPregaefDiv who s
  | .pregaefMod who => Sys2Proof.Machine.execPregaefMod who s
  | .pregaefNeg who => Sys2Proof.Machine.execPregaefNeg who s
  | .pregaefAbs who => Sys2Proof.Machine.execPregaefAbs who s
  | .pregaefMin who => Sys2Proof.Machine.execPregaefMin who s
  | .pregaefMax who => Sys2Proof.Machine.execPregaefMax who s
  | .pregaefAnd who => Sys2Proof.Machine.execPregaefAnd who s
  | .pregaefOr who => Sys2Proof.Machine.execPregaefOr who s
  | .pregaefXor who => Sys2Proof.Machine.execPregaefXor who s
  | .pregaefNot who => Sys2Proof.Machine.execPregaefNot who s
  | .pregaefShl who => Sys2Proof.Machine.execPregaefShl who s
  | .pregaefShr who => Sys2Proof.Machine.execPregaefShr who s
  | .pregaefRol who => Sys2Proof.Machine.execPregaefRol who s
  | .pregaefRor who => Sys2Proof.Machine.execPregaefRor who s
  | .pregaefEq who => Sys2Proof.Machine.execPregaefEq who s
  | .pregaefNe who => Sys2Proof.Machine.execPregaefNe who s
  | .pregaefLt who => Sys2Proof.Machine.execPregaefLt who s
  | .pregaefLe who => Sys2Proof.Machine.execPregaefLe who s
  | .pregaefGt who => Sys2Proof.Machine.execPregaefGt who s
  | .pregaefGe who => Sys2Proof.Machine.execPregaefGe who s
  | .pregaefCvt who => Sys2Proof.Machine.execPregaefCvt who s
  | .pregaefSqrt who => Sys2Proof.Machine.execPregaefSqrt who s
  | .pregaefTrunc who => Sys2Proof.Machine.execPregaefTrunc who s
  | .pregaefJmp who => Sys2Proof.Machine.execPregaefJmp who s
  | .pregaefJmpc who => Sys2Proof.Machine.execPregaefJmpc who s
  | .pregaefJmpcn who => Sys2Proof.Machine.execPregaefJmpcn who s
  | .pregaefCall who => Sys2Proof.Machine.execPregaefCall who s
  | .pregaefRet who => Sys2Proof.Machine.execPregaefRet who s
  | .pregaefEnd who => Sys2Proof.Machine.execPregaefEnd who s
  | .pregaefFb who => Sys2Proof.Machine.execPregaefFb who s
  | .parEnable who v => Sys2Proof.Machine.execParEnable who v s
  | .startWaitExpiry => Sys2Proof.Machine.execStartWaitExpiry s
  | .heartbeatSend => Sys2Proof.Machine.execHeartbeatSend s
  | .tandemHeartbeat h t => Sys2Proof.Machine.execTandemHeartbeat h t s
  | .networkHeartbeat h tag => Sys2Proof.Machine.execNetworkHeartbeat h tag s
  | .heartbeatMiss network => Sys2Proof.Machine.execHeartbeatMiss network s
  | .relinquish who => Sys2Proof.Machine.execRelinquish who s
  | .resync who => Sys2Proof.Machine.execResync who s
  | .clrUnfit who => Sys2Proof.Machine.execClrUnfit who s
  | .seqFrameReceive q t => Sys2Proof.Machine.execSeqFrameReceive q t s
  | .outFrameReceive slot data t => Sys2Proof.Machine.execOutFrameReceive slot data t s
  | .pageFrameReceive page data t => Sys2Proof.Machine.execPageFrameReceive page data t s
  | .endFrameReceive e => Sys2Proof.Machine.execEndFrameReceive e s
  | .copyWindowClose => Sys2Proof.Machine.execCopyWindowClose s
  | .lockstepMismatch fetch => Sys2Proof.Machine.execLockstepMismatch fetch s
  | .watchdogKick who v => Sys2Proof.Machine.execWatchdogKick who v s
  | .watchdogExpiry => Sys2Proof.Machine.execWatchdogExpiry s
  | .loadWindowEnd busy => Sys2Proof.Machine.execLoadWindowEnd busy s
  | .patrolQueuePush who v => Sys2Proof.Machine.execPatrolQueuePush who v s
  | .eventLogRecord source code data => Sys2Proof.Machine.execEventLogRecord source code data s
  | .pcieRead a n => Sys2Proof.Machine.execPcieRead a n s
  | .pcieWrite a l => Sys2Proof.Machine.execPcieWrite a l s
  | .pciePerst high => Sys2Proof.Machine.execPciePerst high s
  | .spiWrite a l how => Sys2Proof.Machine.execSpiWrite a l how s
  | .spiRead a n late => Sys2Proof.Machine.execSpiRead a n late s
  | .getInfo => Sys2Proof.Machine.execGetInfo s
  | .getCounters b => Sys2Proof.Machine.execGetCounters b s
  | .readLog seq => Sys2Proof.Machine.execReadLog seq s
  | .flashWrite done => Sys2Proof.Machine.execFlashWrite done s
  | .flashVerify flash => Sys2Proof.Machine.execFlashVerify flash s
  | .exchangeLoad p places => Sys2Proof.Machine.execExchangeLoad p places s
  | .exchangeArm l at_ => Sys2Proof.Machine.execExchangeArm l at_ s
  | .force n en => Sys2Proof.Machine.execForce n en s
  | .provision q sig => Sys2Proof.Machine.execProvision q sig s
  | .reset => Sys2Proof.Machine.execReset s
  | .holdEntry who => Sys2Proof.Machine.execHoldEntry who s
  | .holdExit who => Sys2Proof.Machine.execHoldExit who s
  | .fwx who on => Sys2Proof.Machine.execFwx who on s
  | .domainRequest who v => Sys2Proof.Machine.execDomainRequest who v s
  | .domainSwitchDone fails => Sys2Proof.Machine.execDomainSwitchDone fails s
  | .retentionEntry who v => Sys2Proof.Machine.execRetentionEntry who v s
  | .wakePin => Sys2Proof.Machine.execWakePin s
  | .wakeTime => Sys2Proof.Machine.execWakeTime s
  | .resumeBoot => Sys2Proof.Machine.execResumeBoot s
  | .pcieLinkChange up width speed => Sys2Proof.Machine.execPcieLinkChange up width speed s
  | .ref10PresenceChange on => Sys2Proof.Machine.execRef10PresenceChange on s
  | .debugAccess op w => Sys2Proof.Machine.execDebugAccess op w s

end Sys2Proof.Machine
end

