-- ==== Sys2Proof/WellFormed.lean ====
section
/-! DEFINITION. Which commands are well-formed: what the operand types leave to be checked. -/

namespace Sys2Proof

open Machine

/-- Whether a command's operands are such as a sender can produce. -/
def Instr.wellFormed : Instr → Bool
  | .reg64LowRead _ _ => true
  | .reg64HighRead _ _ => true
  | .reg64LowWrite _ _ _ => true
  | .reg64HighWrite _ _ _ => true
  | .registerWrite _ _ _ => true
  | .counterWrite _ _ _ => true
  | .unmappedAccess _ _ _ => true
  | .domainOffAccess _ _ _ => true
  | .powerOnReset => true
  | .pinReset => true
  | .softReset _ _ => true
  | .rinkReset _ _ _ => true
  | .rinkResetEnd _ _ => true
  | .portReset _ _ => true
  | .portResetEnd _ => true
  | .resetEnd _ _ => true
  | .keyDerivationDone => true
  | .marchCSelfTest _ => true
  | .imageRead flash => flash.wellFormed
  | .resourceCheck _ _ _ => true
  | .partitionApply => true
  | .sectionLoad => true
  | .sectionApply => true
  | .bootRelease _ => true
  | .regseqWrite _ => true
  | .regseqModify _ => true
  | .regseqPoll _ => true
  | .regseqDelay _ => true
  | .regseqEnd _ => true
  | .pollTimeout => true
  | .bootConfirm _ => true
  | .getEphemeral _ => true
  | .setKeySlot _ _ => true
  | .revokeSlot _ _ => true
  | .setImgKey _ _ => true
  | .setDebugKey _ => true
  | .setSensors _ _ _ => true
  | .setOwned _ => true
  | .scrap _ => true
  | .debugChallenge => true
  | .debugResponse _ => true
  | .tamperResponse _ => true
  | .lockdownEntry => true
  | .tamperCountProgram => true
  | .tandemLinkStart _ _ _ => true
  | .sakInstall _ _ => true
  | .pairedWord _ => true
  | .illegalWord _ => true
  | .alu _ => true
  | .addi _ => true
  | .andi _ => true
  | .ori _ => true
  | .xori _ => true
  | .cmpi _ => true
  | .shifti _ => true
  | .lui _ => true
  | .muli _ => true
  | .dvs _ => true
  | .dvu _ => true
  | .load _ => true
  | .store _ => true
  | .loadm _ => true
  | .storem _ => true
  | .loadDataReturn _ => true
  | .storeBufferDrain _ => true
  | .bc _ => true
  | .jal _ => true
  | .jr _ => true
  | .dbnz _ => true
  | .waitev _ => true
  | .eventWake _ => true
  | .rdcr _ => true
  | .wrcr _ => true
  | .mffl _ => true
  | .mtfl _ => true
  | .fence _ => true
  | .yield _ => true
  | .setspace _ => true
  | .crcCfg _ => true
  | .crcSet _ => true
  | .crcGet _ => true
  | .crcUb _ => true
  | .crcUh _ => true
  | .crcUw _ => true
  | .stfCfg _ => true
  | .stfPut _ => true
  | .stfGet _ => true
  | .stfCnt _ => true
  | .pgfBind _ => true
  | .pgfNext _ => true
  | .pgfPop _ => true
  | .pgfPush _ => true
  | .pgfPop2 _ => true
  | .pgfPush2 _ => true
  | .pgfJmp _ => true
  | .pgfEnd _ => true
  | .fadd _ => true
  | .fsub _ => true
  | .fmul _ => true
  | .fdiv _ => true
  | .fsqrt _ => true
  | .fmin _ => true
  | .fmax _ => true
  | .fma _ => true
  | .fcmp _ => true
  | .fabs _ => true
  | .fneg _ => true
  | .fcvtW _ => true
  | .fcvtWu _ => true
  | .fcvtFw _ => true
  | .fcvtFwu _ => true
  | .fcvtX _ => true
  | .timerExpiry _ => true
  | .pushCommit _ _ _ => true
  | .queueRoomPush _ => true
  | .jobTake _ => true
  | .localSteal _ => true
  | .stealWindowExpiry _ => true
  | .stealRequest _ => true
  | .stealReply _ => true
  | .patrolStealRequest _ => true
  | .contextResume _ _ => true
  | .contextAbort _ _ => true
  | .engineOffline _ _ _ => true
  | .tableWalk _ => true
  | .walkComplete _ => true
  | .tlbInvalidate _ _ _ => true
  | .tlbInvalidateDone _ => true
  | .bankGrant _ _ _ _ _ _ => true
  | .bankRequest _ _ => true
  | .bankStateChangeDone _ => true
  | .liftStart _ _ _ => true
  | .liftDescriptorFetch _ => true
  | .liftBlock _ => true
  | .liftChainDone _ => true
  | .liftResume _ _ => true
  | .liftAbort _ _ => true
  | .destructiveMarchSs _ _ => true
  | .preservingMarchSs _ _ => true
  | .groomerRow _ => true
  | .groomerCommandDone _ => true
  | .scrubRead _ _ _ => true
  | .noticeLowWrite _ _ _ => true
  | .postCommit _ _ _ => true
  | .noticeSnapshot _ _ => true
  | .noticeTake _ _ => true
  | .mailboxFlush _ _ => true
  | .doorbellSet _ _ _ => true
  | .doorbellClear _ _ _ => true
  | .msixUnmask _ => true
  | .lockAcquire _ _ => true
  | .lockRelease _ _ _ => true
  | .lockForce _ _ => true
  | .frameReceive _ f _ _ _ _ => !f.isEmpty
  | .macControlFrame _ _ _ => true
  | .pauseExpiry _ _ => true
  | .pauseRefresh _ => true
  | .egressSelection _ _ _ => true
  | .frameTransmit _ _ _ => true
  | .frameTransmitDone _ _ => true
  | .linkChange _ _ _ _ => true
  | .laneLockChange _ _ _ _ _ => true
  | .tphyRestart _ _ => true
  | .traverseFrame _ _ _ _ _ _ => true
  | .downFlush _ => true
  | .fdbAging _ => true
  | .dupEntryForget _ _ _ => true
  | .seqRecoveryReset _ => true
  | .tblRead _ _ => true
  | .tblWrite _ _ => true
  | .tblLookup _ _ => true
  | .tblInsert _ _ => true
  | .tblDelete _ _ => true
  | .tblDone => true
  | .copyDelivery _ _ => true
  | .copyRelease _ _ => true
  | .injectCommit _ _ => true
  | .injectionStart _ _ => true
  | .gclCycleStart _ => true
  | .gclEntryChange _ => true
  | .gclSwitchArm _ _ _ => true
  | .gclSwitch _ => true
  | .tbWrap _ => true
  | .tbSet _ _ _ => true
  | .tbStep _ _ _ => true
  | .tbRead _ _ => true
  | .tbCopyUpdate _ _ => true
  | .offsetSample _ _ _ => true
  | .servoSample _ _ _ => true
  | .holdTimeout _ => true
  | .timeInputEdge _ _ _ => true
  | .ref10WindowEnd => true
  | .timeOutputEdge _ => true
  | .txtsRead _ _ => true
  | .evtRead _ _ => true
  | .slmEnable _ _ => true
  | .slmDisable _ _ => true
  | .listenTimeout => true
  | .slalomCycleStart => true
  | .scheduleSwitchArm _ _ => true
  | .gatePickup _ => true
  | .gateSend _ _ => true
  | .slalomFrameReceive _ _ _ _ => true
  | .syncPoint => true
  | .dcbCommit _ _ => true
  | .dcbTake _ _ => true
  | .canEnable _ _ _ => true
  | .canDisable _ _ _ => true
  | .canIntegrationDone _ => true
  | .txRequest _ _ _ _ => true
  | .txCancel _ _ _ _ => true
  | .canFrameTransmit _ _ => true
  | .canFrameReceive _ f _ => f.wellFormed
  | .ringEntryWrite _ => true
  | .ringEnable _ _ _ => true
  | .canError _ _ _ _ => true
  | .busOffRecover _ _ => true
  | .recoveryDone _ => true
  | .basicCycleStart _ => true
  | .canGate _ _ _ => true
  | .bladeJmp _ _ _ => true
  | .bladeWait _ _ _ => true
  | .bladeIn _ _ _ => true
  | .bladeOut _ _ _ => true
  | .bladePush _ _ _ => true
  | .bladePull _ _ _ => true
  | .bladeMov _ _ _ => true
  | .bladeIrq _ _ _ => true
  | .bladeSet _ _ _ => true
  | .bladeAt _ _ _ => true
  | .atFire _ _ => true
  | .bladeIllegal _ _ => true
  | .txholdWrite _ _ _ _ => true
  | .rxholdRead _ _ _ => true
  | .flagSet _ _ _ => true
  | .flagClear _ _ _ => true
  | .bladeStop _ _ _ => true
  | .bladeResume _ _ _ => true
  | .programWordWrite _ _ _ _ => true
  | .restartArm _ _ _ => true
  | .bladeRestart _ => true
  | .bankLevelChange _ _ => true
  | .receiveDispatch _ _ _ => true
  | .ipv4Datagram _ _ _ => true
  | .stationInput _ _ _ _ _ _ _ => true
  | .stationLoss _ _ _ => true
  | .gatewayTransmit _ _ => true
  | .instanceRefuse _ _ => true
  | .goosePublish _ _ => true
  | .gooseRetransmit _ => true
  | .slotCommit _ _ => true
  | .lossReport _ _ => true
  | .slotForce _ _ => true
  | .slotRelease _ _ => true
  | .arithReport _ _ => true
  | .inputLatch _ => true
  | .taskRelease _ => true
  | .outputDeadline _ => true
  | .arm _ _ => true
  | .clrSafe _ _ => true
  | .pregaefNop _ => true
  | .pregaefLit _ => true
  | .pregaefLitc _ => true
  | .pregaefLitc2 _ => true
  | .pregaefLd _ => true
  | .pregaefSt _ => true
  | .pregaefLd2 _ => true
  | .pregaefSt2 _ => true
  | .pregaefIn _ => true
  | .pregaefOut _ => true
  | .pregaefStat _ => true
  | .pregaefTime _ => true
  | .pregaefDup _ => true
  | .pregaefDrop _ => true
  | .pregaefSwap _ => true
  | .pregaefDup2 _ => true
  | .pregaefAdd _ => true
  | .pregaefSub _ => true
  | .pregaefMul _ => true
  | .pregaefDiv _ => true
  | .pregaefMod _ => true
  | .pregaefNeg _ => true
  | .pregaefAbs _ => true
  | .pregaefMin _ => true
  | .pregaefMax _ => true
  | .pregaefAnd _ => true
  | .pregaefOr _ => true
  | .pregaefXor _ => true
  | .pregaefNot _ => true
  | .pregaefShl _ => true
  | .pregaefShr _ => true
  | .pregaefRol _ => true
  | .pregaefRor _ => true
  | .pregaefEq _ => true
  | .pregaefNe _ => true
  | .pregaefLt _ => true
  | .pregaefLe _ => true
  | .pregaefGt _ => true
  | .pregaefGe _ => true
  | .pregaefCvt _ => true
  | .pregaefSqrt _ => true
  | .pregaefTrunc _ => true
  | .pregaefJmp _ => true
  | .pregaefJmpc _ => true
  | .pregaefJmpcn _ => true
  | .pregaefCall _ => true
  | .pregaefRet _ => true
  | .pregaefEnd _ => true
  | .pregaefFb _ => true
  | .parEnable _ _ => true
  | .startWaitExpiry => true
  | .heartbeatSend => true
  | .tandemHeartbeat h _ => h.wellFormed
  | .networkHeartbeat h _ => h.wellFormed
  | .heartbeatMiss _ => true
  | .relinquish _ => true
  | .resync _ => true
  | .clrUnfit _ => true
  | .seqFrameReceive _ _ => true
  | .outFrameReceive _ data _ => data.length ≤ 1520
  | .pageFrameReceive _ data _ => data.length = 4096
  | .endFrameReceive _ => true
  | .copyWindowClose => true
  | .lockstepMismatch _ => true
  | .watchdogKick _ _ => true
  | .watchdogExpiry => true
  | .loadWindowEnd _ => true
  | .patrolQueuePush _ _ => true
  | .eventLogRecord _ _ _ => true
  | .pcieRead _ n => n ≤ 128
  | .pcieWrite _ l => l.length ≤ 64
  | .pciePerst _ => true
  | .spiWrite _ l _ => 1 ≤ l.length ∧ l.length ≤ 64
  | .spiRead _ _ _ => true
  | .getInfo => true
  | .getCounters _ => true
  | .readLog _ => true
  | .flashWrite _ => true
  | .flashVerify flash => flash.wellFormed
  | .exchangeLoad p _ => p.wellFormed
  | .exchangeArm _ _ => true
  | .force _ vals => (vals.getD []).length ≤ 1480
  | .provision _ _ => true
  | .reset => true
  | .holdEntry _ => true
  | .holdExit _ => true
  | .fwx _ _ => true
  | .domainRequest _ _ => true
  | .domainSwitchDone _ => true
  | .retentionEntry _ _ => true
  | .wakePin => true
  | .wakeTime => true
  | .resumeBoot => true
  | .pcieLinkChange up w v => !up || (1 ≤ w && w ≤ 2 && 1 ≤ v)
  | .ref10PresenceChange _ => true
  | .debugAccess _ _ => true

end Sys2Proof
end

