-- ==== Sys2Proof/Safety.lean ====
section
/-! DEFINITION. What counts as a safe run, and the conditions on a state in whose terms claims are made. -/

namespace Sys2Proof.Machine

/-- The memory and the register file are in canonical form: keys rising, no entry equal to what an unlisted key reads as. -/
def Dev.canonical (d : Dev) : Bool :=
  Sparse.wf (fun _ => (0#8 : Byte)) d.mem && Sparse.wf resetAt d.regs

/-- The state with another device and the same commands waiting. -/
def State.withDev (s : State) (d : Dev) : State := { s with dev := d }

/-- No store waits in the buffer of the agent's engine, and no load of it has its data still to come, as after every access that has awaited them (R24,
R27, R121). -/
def Dev.quiet (d : Dev) (who : Agent) : Bool :=
  match who.eng with
  | some ge => (d.engine ge).stores.isEmpty && (List.range 4).all fun i => (d.pendingLoads (ge * 4 + i)).2.isEmpty
  | none => true

/-- An agent's access to a register copy, made with no store or load of its engine waiting, reaches its block: the rights of R36 to R75 allow it, and
the page is on (R22). -/
abbrev Dev.reaches (d : Dev) (who : Agent) (r : Reg) (i j : Nat) (write : Bool) : Prop :=
  d.regMay who.mid (r.addr i j) write = true ∧ d.domOn (regDom r.info.blk (r.info.blk.pageOf i) (r.addr i j)) = true ∧ d.quiet who = true

/-- The engine of context `c` has chosen it (R88), and the word at its program counter belongs to row `op`. -/
abbrev Dev.issues (d : Dev) (c : Nat) (op : SkzOp) : Prop := d.chosen (engOf c) = some c ∧ d.opOf c (d.fetchWord c) = op

/-- What a word does that changes only its context: the engine's pointer moves past the context (R88), `f` changes the
context, and the program counter moves to the next word modulo the memory (R119). -/
def Dev.afterWord (c : Nat) (f : Ctx → Ctx) (d : Dev) : Dev := ((d.issued c).updCtx c f).nextWord c

/-- The runtime on context `c` stands at operation word `w` of opcode `op` in a run of task `t` that has begun, nothing holds it
back (R165, R427, R429), and the data that the operation loads come without an uncorrectable error (R435), which leaves the device `d'`. -/
abbrev Dev.stands (d : Dev) (c t op w : Nat) (d' : Dev) : Prop :=
  d.alive c = true ∧ (d.ctx c).st = .run ∧ (d.ctx c).stall = .none ∧ (d.ctx c).bound = t + 1 ∧ d.opWaits c t w = false ∧
    w = d.view (d.ctx c).pgPc 4 ∧ pgOp w = op ∧ (d.task t).stop = false ∧ (d.task t).fresh = false ∧
    (d.touch (midOf c) (d.opWords c t w)).pgReads c (d.opReads t w) = (false, d')

/-- An operation of a run is over: `pop` stack words have gone and `vals` (top first) have come, typed `tys`; the code pointer stands
at `pc`, the open calls are `frames`. -/
def Dev.pgDone (c t pop : Nat) (vals : List Nat) (tys : List Ty) (pc : Nat) (frames : List Nat) (d : Dev) : Dev :=
  (((d.stackDrop c pop).stackPut c vals).updCtx c fun x => { x with pgPc := pc }).updTask t fun x =>
    { x with tys := tys ++ x.tys.drop pop, frames := frames }

end Sys2Proof.Machine
end

