-- ==== Sys2Proof/Certificates/Slice0/Obligations.lean ====
section
/-! DEFINITION. The statements of this model for the provers, by the families of the operation table. -/

open Sys2Proof Sys2Proof.Machine

/-! ### The machine as a whole -/

/-- For every command c and every state whose queue begins with c, a step is exec of c on the state with the rest of the queue; on an empty
queue a step lets the clock tick (the model's choice, log entry 1), and leaves the queue empty. -/
def Obligations.StepRunsTheFrontCommand : Prop :=
  (∀ (s : State) (c : Instr) (rest : List Instr), s.pending = c :: rest → step s = exec c { s with pending := rest }) ∧
  ∀ s : State, s.pending = [] → step s = .next (s.withDev s.dev.tick)

/-- For every command, whatever its operands, and every state: exec answers a next state with the same commands waiting; nothing faults and
nothing is refused. So every step answers a next state, whose queue is the old one without its front. -/
def Obligations.EveryCommandRuns : Prop :=
  (∀ (i : Instr) (s : State), ∃ t, exec i s = .next t ∧ t.pending = s.pending) ∧
  ∀ s : State, ∃ t, step s = .next t ∧ t.pending = s.pending.drop 1

/-- In the state after reset power-on reset is asserted and nothing has started: no command waits, every byte of memory reads 0, no domain
is on, the boot output hold applies, no key is held and no context runs; every register reads the reset
value of its table; memory and register file are in canonical form. (The OTP contents, and what memory reads before anything is
written, are the model's choices, log entries 4 and 8.) -/
def Obligations.ResetState : Prop :=
  let d := State.reset.dev
  State.reset.pending = [] ∧ d.sys.resetRun = some .POR ∧ d.sys.fabOn = false ∧ d.sys.patOn = false ∧ d.sys.bootHold = true ∧
  d.sys.lockdown = false ∧ d.vlt.keyRegs = none ∧ d.canonical = true ∧ (∀ a, d.byte a = 0#8) ∧ (∀ c, d.alive c = false) ∧
  ∀ off, d.regWord off = resetAt off

/-- From every state, reachable or not, whose memory and register file are in canonical form (addresses strictly rising, no entry equal to
what an unlisted address reads as), every step answers a state of which the same holds: equal memories and equal registers are equal
data throughout every run. -/
def Obligations.StepKeepsCanonicalForm : Prop :=
  ∀ s t : State, s.dev.canonical = true → step s = .next t → t.dev.canonical = true

/-! ### Registers -/

/-- For every register of the register tables and every index that its row gives it, where the tables give that copy: the address computed
from offset and strides is an aligned offset of register space, lies in the page of the register's block (with the page number of the
first index where the block has several pages), and looking that address up finds exactly this register with exactly these indices. So no
two copies share an address and no access to one reaches another. -/
def Obligations.RegisterAddressesDecode : Prop :=
  ∀ (r : Reg) (i j k : Nat), let n := r.info.strides.map Prod.snd
    i < n.getD 0 1 → j < n.getD 1 1 → k < n.getD 2 1 → r.present i j = true →
    regAt (r.addr i j k) = some (r, i, j, k) ∧ blockAt (r.addr i j k) = some (r.info.blk, r.info.blk.pageOf i) ∧
    r.addr i j k % 4 = 0 ∧ r.addr i j k < 0x1000000

/-- For every register, every word it holds and every value written (no field being refused for a reason of its chapter), where some field
can be written: each field ends as its access rule says (read-write: the value written if legal, else as it was; read-only: as it was;
write-only: 0; set-by-one: the bits written are set; clear-by-one: the bits written are cleared; counter: 0 for 0, else as it was), bits
outside every field stay, and the violation is reported exactly where a field was refused or a reserved bit was written as 1. A register of
read-only fields alone keeps its word and reports. -/
def Obligations.WritesFollowFieldRules : Prop :=
  ∀ (r : Reg) (w v : Nat), w < 2 ^ 32 → v < 2 ^ 32 →
    let fs := r.info.fields
    let q := writeWord fs (fun _ => false) w v
    let bad (f : FieldInfo) : Prop := (f.acc = .rw ∨ f.acc = .wo) ∧ f.legal.ok (bits v f.hi f.lo) = false ∨ f.acc = .cnt ∧ bits v f.hi f.lo ≠ 0
    let reserved (n : Nat) : Prop := ∀ f ∈ fs, n < f.lo ∨ f.hi < n
    if ∀ f ∈ fs, f.acc = .ro then q = (w, true)
    else
      (∀ f ∈ fs, let old := bits w f.hi f.lo; let new := bits v f.hi f.lo
        bits q.1 f.hi f.lo = match f.acc with
          | .rw => if f.legal.ok new then new else old
          | .ro => old
          | .wo => 0
          | .w1s => old ||| new
          | .w1c => old &&& (2 ^ (f.hi + 1 - f.lo) - 1 - new)
          | .cnt => if new = 0 then 0 else old) ∧
      (∀ n, n < 32 → reserved n → bit q.1 n = bit w n) ∧
      (q.2 = true ↔ (∃ f ∈ fs, bad f) ∨ ∃ n, n < 32 ∧ reserved n ∧ bit v n = true)

/-- REGISTER_WRITE completes for a register of the VLT, SMF or PIN page, and COUNTER_WRITE for every counter of those and of the BOOT, PWR,
SYS and HST pages: once the stores that the agent's engine has waiting have left, the copy takes the value by its field rules, and a violation
is counted once. UNMAPPED_ACCESS and DOMAIN_OFF_ACCESS complete for every agent that may make the access: a read returns 0, and nothing
changes but SYS_DECODE_CNT or SYS_DOMAIN_OFF_CNT; a push to a rink that is off goes to the job router instead (R110). An access that has to
wait for what its engine has asked for before changes nothing yet. -/
def Obligations.RegisterRowsComplete : Prop :=
  (∀ (who : Agent) (off : BitVec 24) (v : Word) (s : State), s.dev.rowWaits who (regBase + off.toNat) = true →
    exec (.registerWrite who off v) s = .next s ∧ exec (.counterWrite who off v) s = .next s) ∧
  (∀ (who : Agent) (off : BitVec 24) (v : Word) (s : State) (r : Reg) (i j k : Nat), regAt off.toNat = some (r, i, j, k) →
    s.dev.rowWaits who (regBase + off.toNat) = false →
    let d := s.dev.settle who
    d.regGate who.mid off.toNat true = .page r.info.blk (r.info.blk.pageOf i) →
    (r.info.blk = .VLT ∨ r.info.blk = .SMF ∨ r.info.blk = .PIN → r.single = true →
      exec (.registerWrite who off v) s = .next (s.withDev (d.plain r v.toNat i j k))) ∧
    (r.info.blk ∈ [Block.VLT, .SMF, .PIN, .BOOT, .PWR, .SYS, .HST] → r.counter = true →
      exec (.counterWrite who off v) s = .next (s.withDev (d.plain r v.toNat i j k)))) ∧
  (∀ (who : Agent) (pa : BitVec 40) (w : Option Word) (s : State), rangeOf pa.toNat = .unmapped → s.dev.rowWaits who pa.toNat = false →
    let e := s.dev.settle who
    (who = .host → e.hostMay pa.toNat w.isSome = true) →
    exec (.unmappedAccess who pa w) s = .next (s.withDev (let d := e.count .SYS_DECODE_CNT
      if w.isSome then d else { d with rd := 0#32 }))) ∧
  ∀ (who : Agent) (off : BitVec 24) (w : Option Word) (s : State), off.toNat % 4 = 0 → s.dev.regGate who.mid off.toNat w.isSome = .off →
    s.dev.rowWaits who (regBase + off.toNat) = false →
    let e := s.dev.settle who
    e.regGate who.mid off.toNat w.isSome = .off →
    exec (.domainOffAccess who off w) s = .next (s.withDev (match w, regAt off.toNat with
      | some v, some (.RNK_PUSH, i, j, _) => e.pushWrite i j who.mid who.ctx v.toNat
      | some _, _ => e.count .SYS_DOMAIN_OFF_CNT
      | none, _ => { e.count .SYS_DOMAIN_OFF_CNT with rd := 0#32 }))

/-- For every 64-bit register that follows R8 alone, and every agent that may reach it, once the stores that its engine has waiting have left: REG64_LOW_READ returns the low word and latches
the high word for the master; REG64_HIGH_READ returns and releases the latch, or returns the register where none is held;
REG64_LOW_WRITE stages the word and changes no register; REG64_HIGH_WRITE commits the staged low word, or the current one, with the new high
word by the field rules, and the stage is empty. (Registers whose commit or read does more have statements of their own.) -/
def Obligations.WordPairsComplete : Prop :=
  ∀ (who : Agent) (s : State) (r hi : Reg) (i j : Nat) (lowAt highAt : BitVec 24) (v : Word), r.high? = some hi → r.isNotice = false →
    r ∉ [Reg.TMU_EVT_LOW, .TMU_TXTS_LOW, .TMU_TB_LOW, .LFT_DESC_LOW, .TMU_TB_STEP_LOW, .PAR_TRACK_LOW, .PAR_PAIR_MAC_LOW, .SLM_DA_LOW] →
    lowAt.toNat = r.addr i j → highAt.toNat = hi.addr i j → regAt lowAt.toNat = some (r, i, j, 0) → regAt highAt.toNat = some (hi, i, j, 0) →
    s.dev.rowWaits who (regBase + lowAt.toNat) = false → s.dev.rowWaits who (regBase + highAt.toNat) = false →
    let d := s.dev.settle who
    let key := pairKey who.mid (r.addr i j)
    let reach (off : BitVec 24) (w : Bool) : Prop := d.regGate who.mid off.toNat w = .page r.info.blk (r.info.blk.pageOf i)
    (reach lowAt false → exec (.reg64LowRead who lowAt) s = .next (s.withDev
      { d.setLatch key (some (word (d.reg hi i j))) with rd := word (d.reg r i j) })) ∧
    (reach highAt false → exec (.reg64HighRead who highAt) s = .next (s.withDev (match d.hiLatch.get key with
      | some h => { d.setLatch key none with rd := h }
      | none => { d with rd := word (d.reg hi i j) }))) ∧
    (reach lowAt true → r.readOnly = false → exec (.reg64LowWrite who lowAt v) s = .next (s.withDev (d.setStage key (some v)))) ∧
    (reach highAt true → hi.readOnly = false → exec (.reg64HighWrite who highAt v) s = .next (s.withDev
      ((d.setStage key none).pairPlain (fun _ => false) r hi (((d.loStage.get key).getD (word (d.reg r i j))).toNat) v.toNat i j)))

/-- For every grant table and every access of an engine to an offset of the VLT page: a read returns 0 and a write changes nothing, but for
SYS_DENY_CNT; and no engine reaches Patrol SRAM or the local memory of another rink by its physical address: such a read gives zeros and
such a write changes no byte. -/
def Obligations.EnginesReachNoVault : Prop :=
  (∀ (mid ctx off v : Nat) (d : Dev), mid < 0x40 → off / 0x10000 = 2 →
    d.regWrite mid ctx off v = d.count .SYS_DENY_CNT ∧ d.regRead mid ctx off = (0, d.count .SYS_DENY_CNT)) ∧
  ∀ (mid a n : Nat) (l : List Byte) (d : Dev), mid < 0x40 →
    (rangeOf a = .sram ∨ ∃ k off, rangeOf a = .local k off ∧ k ≠ mid / 8) →
    d.physWrite mid a l = d.count .SYS_DENY_CNT ∧ d.physRead mid a n = (⟨leBytes n 0, false⟩, d.count .SYS_DENY_CNT)

/-! ### Words of Skezia -/

/-- ADDI, ANDI, ORI, XORI, MULI, LUI, CMPI and SHIFTI complete wherever the engine has chosen the context and the word at its
program counter is theirs: rd receives the sum, AND, OR, exclusive OR or low product of ra and IMM15 (sign-extended for ADDI,
MULI and CMPI, zero-extended for the logical operations), or IMM20 shifted left by 12, and no flag changes; CMPI writes only the
flags of ra minus IMM15; SHIFTI gives the register shift of its KIND by IMM15[7:0], with flags where IMM15[11] is 1. -/
def Obligations.ImmediateWordsComplete : Prop :=
  ∀ (c : CtxId) (s : State) (w : Nat), w = s.dev.fetchWord c →
    let imm : BitVec 15 := BitVec.ofNat 15 w
    let rd := bits w 24 20
    let ra := bits w 19 15
    (s.dev.issues c .addi →
      exec (.addi c) s = .next (s.withDev (s.dev.afterWord c fun x => x.wr rd (x.rd ra + imm.signExtend 32)))) ∧
    (s.dev.issues c .andi →
      exec (.andi c) s = .next (s.withDev (s.dev.afterWord c fun x => x.wr rd (x.rd ra &&& imm.zeroExtend 32)))) ∧
    (s.dev.issues c .ori →
      exec (.ori c) s = .next (s.withDev (s.dev.afterWord c fun x => x.wr rd (x.rd ra ||| imm.zeroExtend 32)))) ∧
    (s.dev.issues c .xori →
      exec (.xori c) s = .next (s.withDev (s.dev.afterWord c fun x => x.wr rd (x.rd ra ^^^ imm.zeroExtend 32)))) ∧
    (s.dev.issues c .muli →
      exec (.muli c) s = .next (s.withDev (s.dev.afterWord c fun x => x.wr rd (x.rd ra * imm.signExtend 32)))) ∧
    (s.dev.issues c .lui →
      exec (.lui c) s = .next (s.withDev (s.dev.afterWord c fun x => x.wr rd (BitVec.ofNat 20 w ++ 0#12)))) ∧
    (s.dev.issues c .cmpi →
      exec (.cmpi c) s = .next (s.withDev (s.dev.afterWord c fun x =>
        { x with fl := x.fl.put (subRes (x.rd ra) (imm.signExtend 32) false) }))) ∧
    (s.dev.issues c .shifti → ∀ k, [Shift.shl, .shr, .sar, .rol, .ror][bits w 14 12]? = some k →
      exec (.shifti c) s = .next (s.withDev (s.dev.afterWord c fun x =>
        let r := shiftRes k (x.rd ra) (bits w 7 0)
        let y := x.wr rd r.val
        if bit w 11 then { y with fl := y.fl.put r } else y)))

/-- ALU completes for every FUNC with a result: rd receives the function's value for ra and rb, but CMP and TST write no register, and
the function's flags are written where S is 1, and always by CMP, TST, NEG and ABS. -/
def Obligations.AluWordCompletes : Prop :=
  ∀ (c : CtxId) (s : State) (w : Nat) (r : Res), w = s.dev.fetchWord c → s.dev.issues c .alu →
    let x := (s.dev.issued c).ctx c
    aluRes (bits w 4 0) (x.rd (bits w 19 15)) (x.rd (bits w 14 10)) x.fl.c = some r →
    exec (.alu c) s = .next (s.withDev (s.dev.afterWord c fun x =>
      let y := if bits w 4 0 = 0x15 ∨ bits w 4 0 = 0x16 then x else x.wr (bits w 24 20) r.val
      if bit w 9 ∨ bits w 4 0 ∈ [0x15, 0x16, 0x17, 0x19] then { y with fl := y.fl.put r } else y))

/-- For all operands a (rd) and b (rs) and every carry: each function of the table gives the value of its row, and writes exactly the
flags of its row: Z is the value's zero test and N its bit 31 in every row; C of ADD and ADC is the carry out, of SUB, SBC and NEG no
borrow, of MUL unsigned overflow; V is signed overflow of ADD, ADC, SUB, SBC, NEG, MUL, and for ABS its edge result. -/
def Obligations.FunctionTableHolds : Prop :=
  ∀ (a b : Word) (cin : Bool),
    let zn (v : Word) : Res := ⟨v, some (decide (v = 0#32)), some v.msb, none, none⟩
    let znv (v : Word) (c o : Bool) : Res := ⟨v, some (decide (v = 0#32)), some v.msb, some c, some o⟩
    let k : Word := if cin then 1#32 else 0#32
    let nk : Word := if cin then 0#32 else 1#32
    let inRange (i : Int) : Prop := -(2 ^ 31) ≤ i ∧ i < 2 ^ 31
    aluRes 0x00 a b cin = some (zn b) ∧
    aluRes 0x01 a b cin = some (znv (a + b) (decide (2 ^ 32 ≤ a.toNat + b.toNat)) (decide (¬ inRange (a.toInt + b.toInt)))) ∧
    aluRes 0x02 a b cin = some (znv (a + b + k) (decide (2 ^ 32 ≤ a.toNat + b.toNat + k.toNat)) (decide (¬ inRange (a.toInt + b.toInt + k.toNat)))) ∧
    aluRes 0x03 a b cin = some (znv (a - b) (decide (b.toNat ≤ a.toNat)) (decide (¬ inRange (a.toInt - b.toInt)))) ∧
    aluRes 0x04 a b cin = some (znv (a - b - nk) (decide (b.toNat + nk.toNat ≤ a.toNat)) (decide (¬ inRange (a.toInt - b.toInt - nk.toNat)))) ∧
    aluRes 0x05 a b cin = some (zn (a &&& b)) ∧ aluRes 0x06 a b cin = some (zn (a ||| b)) ∧
    aluRes 0x07 a b cin = some (zn (a ^^^ b)) ∧ aluRes 0x08 a b cin = some (zn (a &&& ~~~b)) ∧
    aluRes 0x0E a b cin = some (znv (a * b) (decide (2 ^ 32 ≤ a.toNat * b.toNat)) (decide (¬ inRange (a.toInt * b.toInt)))) ∧
    aluRes 0x0F a b cin = some (zn ((a.zeroExtend 64 * b.zeroExtend 64).extractLsb' 32 32)) ∧
    aluRes 0x10 a b cin = some (zn ((a.signExtend 64 * b.signExtend 64).extractLsb' 32 32)) ∧
    aluRes 0x11 a b cin = some (zn (if a.slt b then a else b)) ∧ aluRes 0x12 a b cin = some (zn (if a.slt b then b else a)) ∧
    aluRes 0x13 a b cin = some (zn (if a.ult b then a else b)) ∧ aluRes 0x14 a b cin = some (zn (if a.ult b then b else a)) ∧
    aluRes 0x15 a b cin = aluRes 0x03 a b cin ∧ aluRes 0x16 a b cin = aluRes 0x05 a b cin ∧
    aluRes 0x17 a b cin = some (znv (-b) (decide (b = 0#32)) (decide (b = 0x80000000#32))) ∧
    aluRes 0x18 a b cin = some (zn (~~~b)) ∧
    aluRes 0x19 a b cin = some ⟨if b.slt 0#32 then -b else b, some (decide (b = 0#32)), some (decide (b = 0x80000000#32)), none, some (decide (b = 0x80000000#32))⟩ ∧
    (∃ v : Word, aluRes 0x1A a b cin = some (zn v) ∧ v.toNat ≤ 32 ∧ b.toNat < 2 ^ (32 - v.toNat) ∧ (v.toNat < 32 → 2 ^ (31 - v.toNat) ≤ b.toNat)) ∧
    aluRes 0x1B a b cin = some (zn (BitVec.ofNat 32 ((List.range 32).countP fun i => b.getLsbD i))) ∧
    aluRes 0x1C a b cin = some (zn (b.extractLsb' 0 8 ++ b.extractLsb' 8 8 ++ b.extractLsb' 16 8 ++ b.extractLsb' 24 8)) ∧
    ∀ f, 0x1D ≤ f → aluRes f a b cin = none

/-- For every operand and amount, with n the low 8 bits of the amount: a logical shift gives the bits moved by n (0 from 32 on), an
arithmetic one copies of bit 31, a rotate the rotation by n modulo 32; C is the last bit shifted out for 1 to 32, 0 for a logical shift
beyond, bit 31 of the operand for an arithmetic shift from 32 on, bit 31 of the result of ROR or bit 0 of that of ROL for a non-zero
effective amount, and is unchanged for 0; V is never written. -/
def Obligations.ShiftsFollowTheAmount : Prop :=
  ∀ (a : Word) (amt : Nat), let n := amt % 256
    (shiftRes .shl a amt).val = a <<< n ∧ (shiftRes .shr a amt).val = a >>> n ∧ (shiftRes .sar a amt).val = a.sshiftRight n ∧
    (shiftRes .rol a amt).val = a.rotateLeft n ∧ (shiftRes .ror a amt).val = a.rotateRight n ∧
    (32 ≤ n → a <<< n = 0#32 ∧ a >>> n = 0#32 ∧ a.sshiftRight n = if a.msb then 0xFFFFFFFF#32 else 0#32) ∧
    (shiftRes .shl a amt).c = (if n = 0 then none else some (if n ≤ 32 then a.getLsbD (32 - n) else false)) ∧
    (shiftRes .shr a amt).c = (if n = 0 then none else some (if n ≤ 32 then a.getLsbD (n - 1) else false)) ∧
    (shiftRes .sar a amt).c = (if n = 0 then none else some (if n < 32 then a.getLsbD (n - 1) else a.msb)) ∧
    (shiftRes .rol a amt).c = (if n % 32 = 0 then none else some ((a.rotateLeft n).getLsbD 0)) ∧
    (shiftRes .ror a amt).c = (if n % 32 = 0 then none else some ((a.rotateRight n).msb)) ∧
    ∀ k, (shiftRes k a amt).z = some (decide ((shiftRes k a amt).val = 0#32)) ∧ (shiftRes k a amt).n = some (shiftRes k a amt).val.msb ∧
      (shiftRes k a amt).v = none

/-- DVS and DVU complete for all operands. There are a quotient q and a remainder r with rd = q and w(rd + 1) = r (the quotient
discarded for rd = 0); with a zero divisor q is 0, r the dividend and DZ is set; otherwise, in the signed case but for
0x8000_0000 ÷ 0xFFFF_FFFF, dividend = q × divisor + r as signed numbers, r below the divisor in magnitude and r zero or of the
dividend's sign; in that case q = 0x8000_0000, r = 0 and V is 1; in the unsigned case the same without signs. Z and N follow the
quotient, C is cleared, V is 0 but in the case named, DZ is otherwise kept. -/
def Obligations.DivisionWordsComplete : Prop :=
  ∀ (c : CtxId) (s : State) (w : Nat), w = s.dev.fetchWord c →
    let x := (s.dev.issued c).ctx c
    let a := x.rd (bits w 19 15)
    let b := x.rd (bits w 14 10)
    let after (q r : Word) (v : Bool) : Dev := s.dev.afterWord c fun x =>
      { (x.wr (bits w 24 20) q).wr (bits w 24 20 + 1) r with
        fl := ⟨decide (q = 0#32), q.msb, false, v, x.fl.dz || decide (b = 0#32)⟩ }
    (s.dev.issues c .dvs → ∃ q r v, exec (.dvs c) s = .next (s.withDev (after q r v)) ∧
      if b = 0#32 then q = 0#32 ∧ r = a ∧ v = false
      else if a = 0x80000000#32 ∧ b = 0xFFFFFFFF#32 then q = a ∧ r = 0#32 ∧ v = true
      else v = false ∧ a.toInt = q.toInt * b.toInt + r.toInt ∧ r.toInt.natAbs < b.toInt.natAbs ∧ (r = 0#32 ∨ r.msb = a.msb)) ∧
    (s.dev.issues c .dvu → ∃ q r v, exec (.dvu c) s = .next (s.withDev (after q r v)) ∧
      if b = 0#32 then q = 0#32 ∧ r = a ∧ v = false
      else v = false ∧ a.toNat = q.toNat * b.toNat + r.toNat ∧ r.toNat < b.toNat)

/-- A paired word whose halves make no access completes: both halves take their operands from the context before the word, the first
half's results are written, then the second's, so a register that both write holds the second half's value; a conflict is counted
once. -/
def Obligations.PairedWordCompletes : Prop :=
  ∀ (c : CtxId) (s : State) (w : Nat) (a b : OpOut), w = s.dev.fetchWord c → s.dev.issues c .paired →
    let x := (s.dev.issued c).ctx c
    shortOut (bits w 30 16) (bit w 15) .first x = a → shortOut (bits w 14 0) (bit w 15) .second x = b → bit w 31 = true →
    a.acc = none → b.acc = none →
    let d := (s.dev.issued c).updCtx c fun x => { b.apply 0 (a.apply 0 x) with stall := .none, walkFlt := [] }
    exec (.pairedWord c) s = .next (s.withDev ((if a.regs.any (b.regs.contains ·) then (if isPatrol c then d.count .PAT_PAIR_CONFLICT_CNT else d.count .RNK_PAIR_CONFLICT_CNT (rinkOf c))
        else d).nextWord c))

/-- ILLEGAL_WORD completes: the program counter advances by one word modulo the memory, SKZ_ILLEGAL_PC receives the word's index and
SKZ_ILLEGAL_CNT increments, saturating; registers, memory, every register and flag of every context, and the context's CRC and
bit-stuffing units stay as they are. -/
def Obligations.IllegalWordIsCounted : Prop :=
  ∀ (c : CtxId) (s : State), s.dev.issues c .illegal → ∃ t, exec (.illegalWord c) s = .next t ∧
    let e := s.dev.engine (engOf c)
    let e' := t.dev.engine (engOf c)
    (t.dev.ctx c).pc = ((s.dev.ctx c).pc + 1) % imemWords c ∧
    e'.illegalPc = (s.dev.ctx c).pc ∧ e'.illegalCnt = min (e.illegalCnt + 1) (2 ^ 32 - 1) ∧ e'.misuseCnt = e.misuseCnt ∧
    e'.stores = e.stores ∧ t.pending = s.pending ∧ t.dev.mem = s.dev.mem ∧ t.dev.regs = s.dev.regs ∧
    (∀ k : Nat, (t.dev.ctx k).w = (s.dev.ctx k).w ∧ (t.dev.ctx k).fl = (s.dev.ctx k).fl ∧ (t.dev.ctx k).crc = (s.dev.ctx k).crc ∧
      (t.dev.ctx k).stf = (s.dev.ctx k).stf ∧ (k ≠ c → t.dev.ctx k = s.dev.ctx k))

/-- Modulo addressing: for a ring of len bytes that starts at S, the multiple of the smallest power of two not below len, an access of
size bytes at b within the ring leaves the base at S + (b − S + size) mod len; with len 0 it is plain post-increment. Bit-reversed
addressing with INC = inc not below the access size 2^j, k the highest set bit of inc: the field [k:j] read with its bits reversed is
counted up by one modulo its range, and the bits outside it stay; with inc below the size it is post-increment. -/
def Obligations.RingAndReversedBases : Prop :=
  (∀ b len size p : Nat, len ≤ 2 ^ p → (p = 0 ∨ 2 ^ (p - 1) < len) → 0 < len → len < 65536 → size ≤ len → b - b % 2 ^ p + len ≤ 2 ^ 32 →
    b % 2 ^ p < len → modNext b len size = b - b % 2 ^ p + (b % 2 ^ p + size) % len) ∧
  (∀ b size : Nat, modNext b 0 size = (b + size) % 2 ^ 32) ∧
  (∀ b inc size : Nat, inc < size → revNext b inc size = (b + size) % 2 ^ 32) ∧
  ∀ b inc j : Nat, 2 ^ j ≤ inc → inc < 65536 →
    let k := Nat.log2 inc
    let n := k + 1 - j
    let b' := revNext b inc (2 ^ j)
    b' % 2 ^ j = b % 2 ^ j ∧ b' / 2 ^ (k + 1) = b / 2 ^ (k + 1) ∧
      revBits n (b' / 2 ^ j % 2 ^ n) = (revBits n (b / 2 ^ j % 2 ^ n) + 1) % 2 ^ n

/-- LOAD, STORE, LOADM and STOREM of an engine context complete at once for every aligned address below 0x0001_0000: the address is the
base plus DISP12, or the base itself for LOADM and STOREM; a load gives rt the byte, half-word or word, zero-extended or for TYPE 4
and 5 sign-extended, or both words of a double word to rt and w(rt + 1), after the base update, which is DISP10 for MODE 0 and the
modes of R143 to R145 otherwise; a store changes exactly the addressed bytes of the engine's data memory, and is counted as late where a
traverse frame has been sampled from them (R225). -/
def Obligations.OwnMemoryWordsComplete : Prop :=
  ∀ (c : CtxId) (s : State) (w size : Nat), w = s.dev.fetchWord c → c.val < 256 →
    let d := s.dev.issued c
    let x := d.ctx c
    let t := bits w 14 12
    let rt := bits w 24 20
    let ra := bits w 19 15
    let own := dmemBase (rinkOf c) (c.val / 4 % 8)
    let disp := (x.rd ra + (BitVec.ofNat 12 w).signExtend 32).toNat
    let at_ := (x.rd ra).toNat
    let next := if bits w 11 10 = 0 then x.rd ra + (BitVec.ofNat 10 w).signExtend 32 else baseNext x (bits w 11 10) ra size
    let good (va : Nat) : Prop := va < 0x10000 ∧ va % size = 0 ∧ x.walkFlt.lookup va = none
    let load (va : Nat) (y : Ctx) : Ctx :=
      let v := d.load (own + va) size
      { (if size = 8 then (y.wr rt (word v)).wr (rt + 1) (word (v / 2 ^ 32)) else y.wr rt (if 4 ≤ t then sxWord (8 * size) v else word v))
        with stall := .none, walkFlt := [] }
    let store (va : Nat) : Dev := (d.store (own + va) size
      ((x.rd rt).toNat % 2 ^ (8 * min size 4) + if size = 8 then (x.rd (rt + 1)).toNat * 2 ^ 32 else 0)).travWrote (own + va) size
    let done (f : Ctx → Ctx) (d : Dev) : State := s.withDev ((d.updCtx c f).nextWord c)
    [1, 2, 4, 8, 1, 2][t]? = some size →
      (s.dev.issues c .load → good disp → exec (.load c) s = .next (done (load disp) d)) ∧
      (s.dev.issues c .store → good disp → exec (.store c) s = .next (done (fun y => { y with stall := .none, walkFlt := [] }) (store disp))) ∧
      (s.dev.issues c .loadm → good at_ → exec (.loadm c) s = .next (done (fun y => load at_ (y.wr ra next)) d)) ∧
      (s.dev.issues c .storem → good at_ →
        exec (.storem c) s = .next (done (fun y => { y.wr ra next with stall := .none, walkFlt := [] }) (store at_)))

/-- LOAD, STORE, LOADM and STOREM with an address that is no multiple of the access size fault with code 5, HALF 0 and no store made,
whatever its translation would give; the context keeps its registers, flags and program counter, and no byte of memory changes. -/
def Obligations.MisalignedAccessFaults : Prop :=
  ∀ (c : CtxId) (s : State) (w size : Nat) (m st : Bool) (i : Instr), w = s.dev.fetchWord c →
    (i = .load c ∧ s.dev.issues c .load ∧ st = false ∧ m = false ∨ i = .store c ∧ s.dev.issues c .store ∧ st = true ∧ m = false ∨
     i = .loadm c ∧ s.dev.issues c .loadm ∧ st = false ∧ m = true ∨ i = .storem c ∧ s.dev.issues c .storem ∧ st = true ∧ m = true) →
    let d := s.dev.issued c
    let b := (d.ctx c).rd (bits w 19 15)
    let va := (if m then b else b + (BitVec.ofNat 12 w).signExtend 32).toNat
    [1, 2, 4, 8, 1, 2][bits w 14 12]? = some size → va % size ≠ 0 →
    exec i s = .next (s.withDev (d.faultCtx c 5 .long false st va)) ∧
      (d.faultCtx c 5 .long false st va).mem = s.dev.mem ∧
      ((d.faultCtx c 5 .long false st va).ctx c).w = (s.dev.ctx c).w ∧ ((d.faultCtx c 5 .long false st va).ctx c).fl = (s.dev.ctx c).fl ∧
      ((d.faultCtx c 5 .long false st va).ctx c).pc = (s.dev.ctx c).pc ∧ ((d.faultCtx c 5 .long false st va).ctx c).st = .faulted

/-- STORE_BUFFER_DRAIN completes: the context's oldest buffered store goes to its physical address and leaves the buffer, where nothing
holds it; a signal is held, and nothing changes, while an earlier store of any context of the engine waits, and so is any store while an earlier one of
the engine goes the same way (R24, R162). LOAD_DATA_RETURN completes for
a long load that waits for a word outside its engine, where no earlier store of the engine covers it or goes the same way, no earlier load goes
the same way and its bank is not leaving retention: the word read through the bus goes to the registers and the context moves to the next
word; an uncorrectable error faults the word with code 7 in its place. -/
def Obligations.StoresDrainAndDataReturns : Prop :=
  (∀ (c : CtxId) (s : State) (e : StoreE), (s.dev.engine (engOf c)).stores.find? (fun e => e.ctx == c.val) = some e →
    (s.dev.storeHeld c e = false → exec (.storeBufferDrain c) s = .next (s.withDev
      ((s.dev.updEng (engOf c) fun g => { g with stores := g.stores.erase e }).busWrite (midOf c) (ctxIn c) e.pa (leBytes e.size e.value)))) ∧
    (∀ x ∈ (s.dev.engine (engOf c)).stores, x.seq < e.seq → isSignal e.pa = true ∨ sameWay e.pa x.pa = true →
      exec (.storeBufferDrain c) s = .next s)) ∧
  ∀ (c : CtxId) (s : State) (w pa seq : Nat) (o : OpOut) (a : MemAcc), (s.dev.ctx c).stall = .data w [pa] 0 seq → s.dev.alive c = true →
    outsOf w (s.dev.ctx c) = [o] → o.acc = some a → a.store = false → localTo c pa = false → s.dev.covered c seq pa a.size = false →
    s.dev.behindLoad c seq pa = false → s.dev.bankWaits pa a.size = false →
    let q := s.dev.busRead (midOf c) (ctxIn c) pa a.size
    exec (.loadDataReturn c) s = .next (s.withDev (if q.1.ue then q.2.faultCtx c 7 a.half false false a.va
      else q.2.complete c [o] [leVal q.1.data]))

/-- BC, JAL, JR and DBNZ complete. BC goes to the program counter plus the signed OFF14 where COND holds and else to the next word; JAL
writes the index of the next word into rd and jumps; JR jumps to the low bits of ra; DBNZ writes ra − 1 and jumps unless that is 0.
Every target is taken modulo the size of the instruction memory, and no flag changes. -/
def Obligations.BranchesComplete : Prop :=
  ∀ (c : CtxId) (s : State) (w : Nat), w = s.dev.fetchWord c →
    let d := s.dev.issued c
    let x := d.ctx c
    let size : Nat := if c.val < 256 then 16384 else 524288
    let go (t : Int) (d : Dev) : State := s.withDev (d.updCtx c fun y => { y with pc := (t % size).toNat })
    let far : Int := x.pc + (BitVec.ofNat 14 w).toInt
    let next : Int := x.pc + 1
    let dec := x.rd (bits w 19 15) - 1#32
    (s.dev.issues c .bc → exec (.bc c) s = .next (go (if condHolds (bits w 24 21) x.fl then far else next) d)) ∧
    (s.dev.issues c .jal →
      exec (.jal c) s = .next (go far (d.updCtx c fun y => y.wr (bits w 24 20) (BitVec.ofNat 32 ((x.pc + 1) % size))))) ∧
    (s.dev.issues c .jr → exec (.jr c) s = .next (go (x.rd (bits w 19 15)).toNat d)) ∧
    (s.dev.issues c .dbnz →
      exec (.dbnz c) s = .next (go (if dec = 0#32 then next else far) (d.updCtx c fun y => y.wr (bits w 19 15) dec)))

/-- MFFL gives rd the five flags as a number, MTFL sets them from ra[4:0]; FENCE makes the context wait until the engine's stores have
left; YIELD only moves the engine's pointer past the context; SETSPACE changes the context's SPACE and empties its micro-TLB; RDCR gives
rd the control register that INDEX names and WRCR writes it. Each goes on to the next word. -/
def Obligations.ContextWordsComplete : Prop :=
  ∀ (c : CtxId) (s : State) (w : Nat), w = s.dev.fetchWord c →
    let d := s.dev.issued c
    let ra := bits w 19 15
    (s.dev.issues c .mffl → exec (.mffl c) s = .next (s.withDev (s.dev.afterWord c fun x =>
      x.wr (bits w 24 20) (BitVec.ofBool x.fl.dz ++ BitVec.ofBool x.fl.v ++ BitVec.ofBool x.fl.c ++ BitVec.ofBool x.fl.n ++ BitVec.ofBool x.fl.z).toNat))) ∧
    (s.dev.issues c .mtfl → exec (.mtfl c) s = .next (s.withDev (s.dev.afterWord c fun x =>
      let v := x.rd ra
      { x with fl := ⟨v.getLsbD 0, v.getLsbD 1, v.getLsbD 2, v.getLsbD 3, v.getLsbD 4⟩ }))) ∧
    (s.dev.issues c .fence → exec (.fence c) s = .next (s.withDev (s.dev.afterWord c fun x => { x with fence := true }))) ∧
    (s.dev.issues c .yield → exec (.yield c) s = .next (s.withDev (s.dev.afterWord c id))) ∧
    (s.dev.issues c .setspace → exec (.setspace c) s = .next (s.withDev (s.dev.afterWord c fun x =>
      { x with space := (x.rd ra).toNat % 16, micro := [] }))) ∧
    (s.dev.issues c .rdcr → exec (.rdcr c) s = .next (s.withDev
      (((d.crRead c (bits w 7 0)).2.updCtx c fun x => x.wr (bits w 24 20) (word (d.crRead c (bits w 7 0)).1)).nextWord c))) ∧
    (s.dev.issues c .wrcr → exec (.wrcr c) s = .next (s.withDev ((d.crWrite c (bits w 7 0) ((d.ctx c).rd ra).toNat).nextWord c)))

/-- WAITEV completes: SKZ_EVARM holds MASK and the program counter moves on; where JOB is armed and no lift is owned the context ends its job and
its priority is 0, and where JOB is armed and a lift is owned RNK_LIFT_HOLD_CNT counts. Where an armed event other than JOB is pending the
context is back in RUN, rd holds those events, and the TIMER and SOFT latches that they report are cleared; otherwise it is IDLE
where JOB is armed and no lift is owned, and else in WAIT. EVENT_WAKE completes for a waiting or idle context of an engine that is
online with such an event pending: the context runs with the events in rd of its WAITEV. TIMER_EXPIRY completes for an enabled timer
that has not fired and whose target is reached: the TIMER latch is set. -/
def Obligations.EventsCompleteAndWake : Prop :=
  (∀ (c : CtxId) (s : State) (w : Nat), w = s.dev.fetchWord c → s.dev.issues c .waitev → ∃ t, exec (.waitev c) s = .next t ∧
    let m := bits w 7 0
    let armed := s.dev.afterWord c fun x => { x with evRd := bits w 24 20, skz := { x.skz with armed := m } }
    let x := t.dev.ctx c
    x.skz.armed = m ∧ x.pc = ((s.dev.ctx c).pc + 1) % imemWords c ∧ t.pending = s.pending ∧
      (bit m 0 = true → armed.hasLift c = false → x.prio = 0 ∧ x.hasJob = false) ∧
      (bit m 0 = true → armed.hasLift c = true → c.val < 256 →
        t.dev.reg .RNK_LIFT_HOLD_CNT (rinkOf c) = (s.dev.count .RNK_LIFT_HOLD_CNT (rinkOf c)).reg .RNK_LIFT_HOLD_CNT (rinkOf c)) ∧
      if armed.evReady c ≠ 0 then x.st = .run ∧ x.rd (bits w 24 20) = (if bits w 24 20 = 0 then 0#32 else word (armed.evReady c)) ∧
        (bit (armed.evReady c) 4 = true → x.skz.timer = false) ∧ (bit (armed.evReady c) 5 = true → x.skz.soft = false)
      else if bit m 0 = true ∧ armed.hasLift c = false then x.st = .idle else x.st = .wait) ∧
  (∀ (c : CtxId) (s : State), s.dev.alive c = true → (s.dev.ctx c).st = .idle ∨ (s.dev.ctx c).st = .wait → s.dev.evReady c ≠ 0 →
    ∃ t, exec (.eventWake c) s = .next t ∧ (t.dev.ctx c).st = .run ∧
      ((s.dev.ctx c).evRd ≠ 0 → (t.dev.ctx c).rd (s.dev.ctx c).evRd = word (s.dev.evReady c)) ∧
      (t.dev.ctx c).skz.timer = ((s.dev.ctx c).skz.timer && !bit (s.dev.evReady c) 4) ∧
      (t.dev.ctx c).skz.soft = ((s.dev.ctx c).skz.soft && !bit (s.dev.evReady c) 5)) ∧
  ∀ (c : CtxId) (s : State), s.dev.alive c = true → bit (s.dev.ctx c).skz.tmrCfg 8 = true → (s.dev.ctx c).skz.fired = false →
    reached (s.dev.ctx c).skz.tmrNs (s.dev.engNs c ((s.dev.ctx c).skz.tmrCfg % 4)) = true →
    exec (.timerExpiry c) s = .next (s.withDev (s.dev.updCtx c fun x => { x with skz := { x.skz with timer := true, fired := true } }))

/-- The ten CP0 words complete. CRC.CFG takes POLY and CFG from ra and rb; CRC.SET sets ACC from ra within WIDTH; CRC.GET gives rd the
accumulator, bit-reversed over WIDTH with REFOUT; CRC.UB, UH and UW process one, two or four bytes of ra, lowest first; STF.CFG takes the
settings from ra and empties the buffer and run state; STF.PUT feeds its bits where the buffer holds at most 64, with C = 1 and V the
violation, and is refused with C = 0 otherwise; STF.GET takes its bits oldest first with C = 1, or nothing with C = 0; STF.CNT gives rd
the bits held. -/
def Obligations.CrcAndStuffingWordsComplete : Prop :=
  ∀ (c : CtxId) (s : State) (w : Nat), w = s.dev.fetchWord c →
    let rd := bits w 24 20
    let a (x : Ctx) : Nat := (x.rd (bits w 19 15)).toNat
    let b (x : Ctx) : Nat := (x.rd (bits w 14 10)).toNat
    let count (n : Nat) : Nat := if n = 0 ∨ 32 < n then 32 else n
    let byte (v i : Nat) : Nat := v / 2 ^ (8 * i) % 256
    let go (f : Ctx → Ctx) : Host.Outcome State Fault Refusal := .next (s.withDev (s.dev.afterWord c f))
    (s.dev.issues c .crcCfg → exec (.crcCfg c) s = go fun x =>
      { x with crc := { x.crc with poly := a x, width := bits (b x) 5 0, refIn := bit (b x) 8, refOut := bit (b x) 9 } }) ∧
    (s.dev.issues c .crcSet → exec (.crcSet c) s = go fun x => { x with crc := { x.crc with acc := a x % 2 ^ count x.crc.width } }) ∧
    (s.dev.issues c .crcGet → exec (.crcGet c) s = go fun x => x.wr rd (word
      (if x.crc.refOut then revBits (count x.crc.width) x.crc.acc else x.crc.acc % 2 ^ count x.crc.width))) ∧
    (s.dev.issues c .crcUb → exec (.crcUb c) s = go fun x => { x with crc := x.crc.byteIn (byte (a x) 0) }) ∧
    (s.dev.issues c .crcUh → exec (.crcUh c) s = go fun x => { x with crc := (x.crc.byteIn (byte (a x) 0)).byteIn (byte (a x) 1) }) ∧
    (s.dev.issues c .crcUw → exec (.crcUw c) s = go fun x => { x with crc :=
      (((x.crc.byteIn (byte (a x) 0)).byteIn (byte (a x) 1)).byteIn (byte (a x) 2)).byteIn (byte (a x) 3) }) ∧
    (s.dev.issues c .stfCfg → exec (.stfCfg c) s = go fun x => { x with stf := ⟨a x % 16, bit (a x) 4, bit (a x) 5, [], 0, false⟩ }) ∧
    (s.dev.issues c .stfPut → exec (.stfPut c) s = go fun x =>
      if 64 < x.stf.buf.length then { x with fl := { x.fl with c := false } }
      else
        let q := x.stf.put ((List.range (count (b x % 64))).map (bit (a x)))
        { x with stf := q.1, fl := { x.fl with c := true, v := q.2 } }) ∧
    (s.dev.issues c .stfGet → exec (.stfGet c) s = go fun x =>
      if x.stf.buf.length < count (b x % 64) then { x with fl := { x.fl with c := false } }
      else ({ x with stf := { x.stf with buf := x.stf.buf.drop (count (b x % 64)) }, fl := { x.fl with c := true } }).wr rd
        (word (fromBits (x.stf.buf.take (count (b x % 64)))))) ∧
    (s.dev.issues c .stfCnt → exec (.stfCnt c) s = go fun x => x.wr rd (word x.stf.buf.length))

/-- The sixteen CP2 words complete on single registers (major 0x38) or register pairs (major 0x39): rd receives the IEEE 754 result of
the operands rounded by SKZ_FPCSR.RM, whose sticky flags rise with the exceptions; FCMP writes the four flags alone; FABS and FNEG change
the sign bit and raise nothing; a conversion to an integer rounds by RM and saturates. (Where IEEE 754 leaves a choice, log entry 10 names
the model's.) -/
def Obligations.FloatWordsComplete : Prop :=
  ∀ (c : CtxId) (s : State) (w : Nat) (f from_ : Fmt), w = s.dev.fetchWord c →
    f = (if bits w 30 25 = 0x39 then fmt64 else fmt32) → from_ = (if f = fmt64 then fmt32 else fmt64) →
    let rd := bits w 24 20
    let a (x : Ctx) : Nat := x.frd f (bits w 19 15)
    let b (x : Ctx) : Nat := x.frd f (bits w 14 10)
    let rm (x : Ctx) : Nat := x.skz.fpcsr % 4
    let go (g : Ctx → Ctx) : Host.Outcome State Fault Refusal := .next (s.withDev (s.dev.afterWord c g))
    let put (g : Ctx → FRes) : Host.Outcome State Fault Refusal := go fun x => (x.fwr f rd (g x).val).raise (g x).fl
    let sign (v : Nat) (n : Bool) : Nat := putBit v (f.eb + f.mb) n
    (s.dev.issues c .fadd → exec (.fadd c) s = put fun x => f.arith (rm x) 0 (a x) (b x)) ∧
    (s.dev.issues c .fsub → exec (.fsub c) s = put fun x => f.arith (rm x) 1 (a x) (b x)) ∧
    (s.dev.issues c .fmul → exec (.fmul c) s = put fun x => f.arith (rm x) 2 (a x) (b x)) ∧
    (s.dev.issues c .fdiv → exec (.fdiv c) s = put fun x => f.arith (rm x) 3 (a x) (b x)) ∧
    (s.dev.issues c .fsqrt → exec (.fsqrt c) s = put fun x => f.sqrtV (rm x) (f.unpack (a x))) ∧
    (s.dev.issues c .fmin → exec (.fmin c) s = put fun x => f.minMax false (a x) (b x)) ∧
    (s.dev.issues c .fmax → exec (.fmax c) s = put fun x => f.minMax true (a x) (b x)) ∧
    (s.dev.issues c .fma → exec (.fma c) s = put fun x => f.fmaV (rm x) (f.unpack (a x)) (f.unpack (b x)) (f.unpack (x.frd f rd))) ∧
    (s.dev.issues c .fcmp → ∃ g : Ctx → FFlags, exec (.fcmp c) s = go fun x =>
      let p := f.unpack (a x)
      let q := f.unpack (b x)
      ({ x with fl :=
        if p.isNaN ∨ q.isNaN then { x.fl with z := false, n := false, c := false, v := true }
        else { x.fl with z := p.cmp q == Ordering.eq, n := p.cmp q == Ordering.lt, c := p.cmp q != Ordering.lt, v := false } }).raise (g x)) ∧
    (s.dev.issues c .fabs → exec (.fabs c) s = go fun x => x.fwr f rd (sign (a x) false)) ∧
    (s.dev.issues c .fneg → exec (.fneg c) s = go fun x => x.fwr f rd (sign (a x) !bit (a x) (f.eb + f.mb))) ∧
    (s.dev.issues c .fcvtW → exec (.fcvtW c) s = go fun x =>
      let q := (f.unpack (a x)).toIntSat (rm x) (-2147483648) 2147483647
      (x.wr rd (BitVec.ofInt 32 q.1)).raise q.2) ∧
    (s.dev.issues c .fcvtWu → exec (.fcvtWu c) s = go fun x =>
      let q := (f.unpack (a x)).toIntSat (rm x) 0 4294967295
      (x.wr rd (BitVec.ofInt 32 q.1)).raise q.2) ∧
    (s.dev.issues c .fcvtFw → exec (.fcvtFw c) s = put fun x => f.ofInt (rm x) (x.rd (bits w 19 15)).toInt) ∧
    (s.dev.issues c .fcvtFwu → exec (.fcvtFwu c) s = put fun x => f.ofInt (rm x) (x.rd (bits w 19 15)).toNat) ∧
    (s.dev.issues c .fcvtX → exec (.fcvtX c) s = put fun x => f.convert (rm x) (from_.unpack (x.frd from_ (bits w 19 15))))

/-- Every integer, flag, CRC, bit-stuffing and floating-point word, and FENCE, YIELD and SETSPACE, leaves everything outside its
context as it was: memory, every register of the register tables, every other block, queues, TLBs and store buffers, and every other
context. Of its own context every general register stays but rd, for DVS and DVU and for binary64 results also w(rd + 1); the flags stay
but for the words whose table names flags; the SPACE and micro-TLB stay but for SETSPACE; the state, priority, events other than
SKZ_FPCSR and the Pregaef binding stay. (PAIRED_WORD, loads, stores and branches have frames of their own.) -/
def Obligations.ContextWordFrame : Prop :=
  ∀ (c : CtxId) (s t : State) (i : Instr) (w : Nat), w = s.dev.fetchWord c →
    i ∈ [Instr.alu c, .addi c, .andi c, .ori c, .xori c, .cmpi c, .shifti c, .lui c, .muli c, .dvs c, .dvu c, .mffl c, .mtfl c, .fence c,
      .yield c, .setspace c, .crcCfg c, .crcSet c, .crcGet c, .crcUb c, .crcUh c, .crcUw c, .stfCfg c, .stfPut c, .stfGet c, .stfCnt c] ∨
    i ∈ [Instr.fadd c, .fsub c, .fmul c, .fdiv c, .fsqrt c, .fmin c, .fmax c, .fma c, .fcmp c, .fabs c, .fneg c, .fcvtW c, .fcvtWu c,
      .fcvtFw c, .fcvtFwu c, .fcvtX c] →
    exec i s = .next t →
    let x := s.dev.ctx c
    let y := t.dev.ctx c
    let two := i ∈ [Instr.dvs c, .dvu c, .fadd c, .fsub c, .fmul c, .fdiv c, .fsqrt c, .fmin c, .fmax c, .fma c, .fabs c, .fneg c, .fcvtFw c,
      .fcvtFwu c, .fcvtX c]
    t.pending = s.pending ∧ { t.dev with eng := s.dev.eng } = s.dev ∧
    { t.dev.eng with ctx := s.dev.eng.ctx, eng := s.dev.eng.eng } = s.dev.eng ∧
    (∀ k : Nat, k ≠ c → t.dev.ctx k = s.dev.ctx k) ∧
    (∀ k : Nat, { t.dev.engine k with rr := (s.dev.engine k).rr, cycle := (s.dev.engine k).cycle } = s.dev.engine k) ∧
    (∀ r, r ≠ bits w 24 20 → (two → r ≠ bits w 24 20 + 1) → y.rd r = x.rd r) ∧
    (i ∉ [Instr.alu c, .cmpi c, .shifti c, .dvs c, .dvu c, .mtfl c, .stfPut c, .stfGet c, .fcmp c] → y.fl = x.fl) ∧
    (i ∉ [Instr.dvs c, .dvu c, .mtfl c] → y.fl.dz = x.fl.dz) ∧
    (i ≠ .setspace c → y.space = x.space ∧ y.micro = x.micro) ∧
    { y.skz with fpcsr := x.skz.fpcsr } = x.skz ∧ y.st = x.st ∧ y.prio = x.prio ∧ y.hasJob = x.hasJob ∧ y.stall = x.stall ∧
    y.bound = x.bound ∧ y.pgPc = x.pgPc ∧ y.pgSp = x.pgSp ∧ y.pgBase = x.pgBase

/-- A LOAD or LOADM changes no byte of memory. A STORE or STOREM changes no byte but those at the physical address that the translation
of its address gives (base plus DISP12, or the base), as many as its TYPE has; it changes none where the access waits in the store
buffer, misses the TLBs or faults. The general registers stay, but the base register of LOADM and STOREM and the target of a load. -/
def Obligations.LoadStoreFrame : Prop :=
  ∀ (c : CtxId) (s t : State) (w : Nat), w = s.dev.fetchWord c →
    let d := s.dev.issued c
    let x := d.ctx c
    let rt := bits w 24 20
    let ra := bits w 19 15
    let va (m : Bool) : Nat := (if m then x.rd ra else x.rd ra + (BitVec.ofNat 12 w).signExtend 32).toNat
    let size := [1, 2, 4, 8, 1, 2].getD (bits w 14 12) 1
    (exec (.load c) s = .next t ∨ exec (.loadm c) s = .next t → t.dev.mem = s.dev.mem) ∧
    (∀ m, exec (if m then .storem c else .store c) s = .next t → ∀ a,
      (∀ pa, (d.translate c (va m) true).1 = .ok pa → ¬ (pa ≤ a ∧ a < pa + size)) → t.dev.byte a = s.dev.byte a) ∧
    (exec (.store c) s = .next t → ∀ r, (t.dev.ctx c).rd r = (s.dev.ctx c).rd r) ∧
    (exec (.storem c) s = .next t → ∀ r, r ≠ ra → (t.dev.ctx c).rd r = (s.dev.ctx c).rd r) ∧
    (exec (.load c) s = .next t → ∀ r, r ≠ rt → (size = 8 → r ≠ rt + 1) → (t.dev.ctx c).rd r = (s.dev.ctx c).rd r) ∧
    (exec (.loadm c) s = .next t → ∀ r, r ≠ ra → r ≠ rt → (size = 8 → r ≠ rt + 1) → (t.dev.ctx c).rd r = (s.dev.ctx c).rd r)

/-! ### The Pregaef unit and the operations of a program -/

/-- PGF.BIND binds the context to task ra[3:0] and loads code pointer, stack pointer and handler base of the task. On a bound context, in
a run that has begun (where the banks that it reads serve it at once): PGF.NEXT reads the instruction at the code pointer, gives rd its operand, advances that pointer and jumps to the
handler; PGF.POP and POP2 take one or two words from the stack into registers, PUSH and PUSH2 put them there; PGF.JMP sets the code
pointer; PGF.END, once the engine's stores have left, reports the end of the run and unbinds. On a context that is not bound the seven
words only count in SKZ_MISUSE_CNT and go on. -/
def Obligations.DispatchUnitCompletes : Prop :=
  ∀ (c : CtxId) (s : State) (w : Nat), w = s.dev.fetchWord c →
    let d := s.dev.issued c
    let x := d.ctx c
    let rd := bits w 24 20
    let ra := bits w 19 15
    let t := (x.rd ra).toNat % 16
    let out (d : Dev) : Host.Outcome State Fault Refusal := .next (s.withDev d)
    let hdr := [Dev.hdrRun (d.taskCode t), (d.taskCode t + 0x20, 4)]
    (s.dev.issues c .pgfBind → d.anyWaits hdr = false → exec (.pgfBind c) s = out (((d.touch (midOf c) hdr).updCtx c fun y => { y with
      bound := t + 1
      pgPc := d.taskCode t + (d.progHdr (d.taskCode t)).codeOff + 4 * d.view (d.taskCode t + 0x20) 4
      pgSp := d.fld .CTL_TASK_STACK_OFFSET t
      pgBase := d.fld .CTL_CFG_HBASE }).nextWord c)) ∧
    (∀ k, x.bound = k + 1 →
      (s.dev.issues c .pgfNext → (d.task k).stop = false → (d.task k).fresh = false → d.anyWaits [(x.pgPc, 4)] = false →
        let e := d.touch (midOf c) [(x.pgPc, 4)]
        let i := e.view (e.ctx c).pgPc 4
        exec (.pgfNext c) s = out ((e.updCtx c fun y => { y.wr rd (BitVec.ofInt 32 (pgArg i)) with pgPc := y.pgPc + 4 }).goto c
          ((e.ctx c).pgBase + 4 * pgOp i))) ∧
      (s.dev.issues c .pgfPop → exec (.pgfPop c) s = out ((((d.stackDrop c 1).retype k 1 0).updCtx c fun y =>
        y.wr rd (word ((d.stackTop c 1).getD 0 0))).nextWord c)) ∧
      (s.dev.issues c .pgfPop2 → exec (.pgfPop2 c) s = out ((((d.stackDrop c 2).retype k 2 0).updCtx c fun y =>
        (y.wr (rd + 1) (word ((d.stackTop c 2).getD 0 0))).wr rd (word ((d.stackTop c 2).getD 1 0))).nextWord c)) ∧
      (s.dev.issues c .pgfPush → exec (.pgfPush c) s = out (((d.stackPush c (x.rd ra).toNat).retype k 0 1).nextWord c)) ∧
      (s.dev.issues c .pgfPush2 → exec (.pgfPush2 c) s = out
        ((((d.stackPush c (x.rd ra).toNat).stackPush c (x.rd (ra + 1)).toNat).retype k 0 2).nextWord c)) ∧
      (s.dev.issues c .pgfJmp → exec (.pgfJmp c) s = out ((d.updCtx c fun y => { y with pgPc := (x.rd ra).toNat }).nextWord c)) ∧
      (s.dev.issues c .pgfEnd → (s.dev.engine (engOf c)).stores = [] → exec (.pgfEnd c) s = out
        (((d.runReport k).updCtx c fun y => { y with bound := 0, task := 0 }).nextWord c))) ∧
    (x.bound = 0 → ∀ i op, (i, op) ∈ [(Instr.pgfNext c, SkzOp.pgfNext), (.pgfPop c, .pgfPop), (.pgfPop2 c, .pgfPop2), (.pgfPush c, .pgfPush),
        (.pgfPush2 c, .pgfPush2), (.pgfJmp c, .pgfJmp)] → s.dev.issues c op → exec i s = out ((d.skzMisuse c).nextWord c)) ∧
    (x.bound = 0 → s.dev.issues c .pgfEnd → (s.dev.engine (engOf c)).stores = [] → exec (.pgfEnd c) s = out ((d.skzMisuse c).nextWord c))

/-- Each operation of a program that works on the stack alone (NOP, DUP, DROP, SWAP, DUP2, arithmetic, logic, shifts, comparisons,
conversions) completes on a context whose run stands at it, its own word read without an uncorrectable error: the words that its types name leave the stack, its result words come, the
code pointer moves to the next word; an integer division by zero also makes the ARITH report of the task. -/
def Obligations.StackOperationsComplete : Prop :=
  ∀ (c : CtxId) (s : State) (t op w : Nat) (i : Instr) (d : Dev), s.dev.stands c t op w d →
    (i, op) ∈ [(Instr.pregaefNop c, 0), (.pregaefDup c, 0xC), (.pregaefDrop c, 0xD), (.pregaefSwap c, 0xE), (.pregaefDup2 c, 0xF),
      (.pregaefAdd c, 0x10), (.pregaefSub c, 0x11), (.pregaefMul c, 0x12), (.pregaefDiv c, 0x13), (.pregaefMod c, 0x14), (.pregaefNeg c, 0x15),
      (.pregaefAbs c, 0x16), (.pregaefMin c, 0x17), (.pregaefMax c, 0x18), (.pregaefAnd c, 0x19), (.pregaefOr c, 0x1A), (.pregaefXor c, 0x1B),
      (.pregaefNot c, 0x1C), (.pregaefShl c, 0x1D), (.pregaefShr c, 0x1E), (.pregaefRol c, 0x1F), (.pregaefRor c, 0x20), (.pregaefEq c, 0x21),
      (.pregaefNe c, 0x22), (.pregaefLt c, 0x23), (.pregaefLe c, 0x24), (.pregaefGt c, 0x25), (.pregaefGe c, 0x26), (.pregaefCvt c, 0x27),
      (.pregaefSqrt c, 0x28), (.pregaefTrunc c, 0x29)] →
    let e := wordEffect (fun k => ioType (d.ioWord (d.taskCode t) k)) (fun k => (d.progSym (d.taskCode t) k).type) w (d.task t).tys
    let r := stackOp w (d.stackTop c e.1)
    exec i s = .next (s.withDev ((if r.2 then d.arithReport t else d).pgDone c t e.1 r.1 e.2 ((d.ctx c).pgPc + 4) (d.task t).frames))

/-- For every integer type of the type table and all operands: ADD, SUB and MUL give the exact result modulo 2 to the bits of the type;
DIV and MOD give the quotient rounded toward zero and its remainder, and nothing for a zero divisor; MIN and MAX one of the operands; a
conversion between integer types gives the value where the target type holds it and the nearest limit otherwise; a shift by the width
or more gives 0; the six comparisons hold as the order of the values says. -/
def Obligations.TypedArithmeticHolds : Prop :=
  ∀ t x y : Nat, 1 ≤ t → t ≤ 15 → tyFloat t = false →
    let a := tyVal t x
    let b := tyVal t y
    let val (o : Option Nat) : Option Int := o.map (tyVal t)
    let wrap (i : Int) : Int := tyVal t (unsign (tyBits t) i)
    (tyMin t ≤ a ∧ a ≤ tyMax t) ∧ (∀ i, tyMin t ≤ i → i ≤ tyMax t → wrap i = i) ∧ (∀ i, wrap i % 2 ^ tyBits t = i % 2 ^ tyBits t) ∧
    val (tyArith 0x10 t x y) = some (wrap (a + b)) ∧ val (tyArith 0x11 t x y) = some (wrap (a - b)) ∧
    val (tyArith 0x12 t x y) = some (wrap (a * b)) ∧
    (b = 0 → tyArith 0x13 t x y = none ∧ tyArith 0x14 t x y = none) ∧
    (b ≠ 0 → ∃ q r : Int, a = q * b + r ∧ r.natAbs < b.natAbs ∧ (r = 0 ∨ r.sign = a.sign) ∧
      val (tyArith 0x13 t x y) = some (wrap q) ∧ val (tyArith 0x14 t x y) = some r) ∧
    val (tyArith 0x17 t x y) = some (min a b) ∧ val (tyArith 0x18 t x y) = some (max a b) ∧
    (∀ u, 1 ≤ u → u ≤ 15 → tyFloat u = false → tyVal u (tyCvt 0 t u x) = max (tyMin u) (min (tyMax u) a)) ∧
    (∀ n, tyBits t ≤ n → tyShift 0x1D t x n = 0 ∧ tyShift 0x1E t x n = 0) ∧
    (cmpHolds 0x21 (tyOrder t x y) = decide (a = b)) ∧ (cmpHolds 0x22 (tyOrder t x y) = decide (a ≠ b)) ∧
    (cmpHolds 0x23 (tyOrder t x y) = decide (a < b)) ∧ (cmpHolds 0x24 (tyOrder t x y) = decide (a ≤ b)) ∧
    (cmpHolds 0x25 (tyOrder t x y) = decide (b < a)) ∧ (cmpHolds 0x26 (tyOrder t x y) = decide (b ≤ a))

/-- On a context whose run stands at the operation: LIT pushes its signed operand, LITC and LITC2 a constant of one or two words, TIME the
task time and STAT the latch table word of a slot; LD and LD2 push data words, ST and ST2 write them;
JMP, JMPC and JMPCN move the code pointer by their operand, the latter two by the truth of the word popped; CALL goes to the function of
its operand and keeps the return point, RET goes there (the words that they read come without an uncorrectable error). Each moves the code pointer to the next word where it does not branch. -/
def Obligations.DataAndJumpOperationsComplete : Prop :=
  ∀ (c : CtxId) (s : State) (t w : Nat) (d : Dev),
    let a := d.taskCode t
    let k := (pgArg w).toNat
    let pc := (d.ctx c).pgPc
    let fr := (d.task t).frames
    let on := (d.stackTop c 1).headD 0 % 2 = 1
    let rel := ((pc : Int) + 4 * pgArg w).toNat
    let const (i : Nat) : Nat := d.view (a + (d.progHdr a).constOff + 4 * i) 4
    let st (op : Nat) : Prop := s.dev.stands c t op w d
    let tys := (wordEffect (fun k => ioType (d.ioWord a k)) (fun k => (d.progSym a k).type) w (d.task t).tys).2
    let go (d : Dev) (pop : Nat) (l : List Nat) (pc : Nat) (fr : List Nat) : Host.Outcome State Fault Refusal :=
      .next (s.withDev (d.pgDone c t pop l tys pc fr))
    (st 1 → exec (.pregaefLit c) s = go d 0 [unsign 32 (pgArg w)] (pc + 4) fr) ∧
    (st 2 → exec (.pregaefLitc c) s = go d 0 [const k] (pc + 4) fr) ∧
    (st 3 → exec (.pregaefLitc2 c) s = go d 0 [const (k + 1), const k] (pc + 4) fr) ∧
    (st 0xA → exec (.pregaefStat c) s =
      go d 0 [d.view ((d.task t).latch + 4 * (d.mapSlots a).findIdx (· == ioSlot (d.ioWord a k))) 4] (pc + 4) fr) ∧
    (st 0xB → exec (.pregaefTime c) s = go d 0 [unsign 64 (d.ttOf a) / 2 ^ 32, unsign 64 (d.ttOf a) % 2 ^ 32] (pc + 4) fr) ∧
    (st 4 → exec (.pregaefLd c) s = go d 0 [d.view (d.dataAt a k) 4] (pc + 4) fr) ∧
    (st 6 →
      exec (.pregaefLd2 c) s = go d 0 [d.view (d.dataAt a (k + 1)) 4, d.view (d.dataAt a k) 4] (pc + 4) fr) ∧
    (st 5 → exec (.pregaefSt c) s =
      go (d.physWrite (midOf c) (d.dataAt a k) (leBytes 4 ((d.stackTop c 1).getD 0 0))) 1 [] (pc + 4) fr) ∧
    (st 7 → exec (.pregaefSt2 c) s = go (d.dataPut c a k (d.stackTop c 2).reverse) 2 [] (pc + 4) fr) ∧
    (st 0x30 → exec (.pregaefJmp c) s = go d 0 [] rel fr) ∧
    (st 0x31 → exec (.pregaefJmpc c) s = go d 1 [] (if on then rel else pc + 4) fr) ∧
    (st 0x32 → exec (.pregaefJmpcn c) s = go d 1 [] (if on then pc + 4 else rel) fr) ∧
    (st 0x33 → exec (.pregaefCall c) s = go d 0 [] (a + (d.progHdr a).codeOff + 4 * d.view (a + 0x20 + 4 * k) 4) ((pc + 4) :: fr)) ∧
    (st 0x34 → exec (.pregaefRet c) s = go d 0 [] (fr.headD (pc + 4)) fr.tail)

/-- IN pushes the value of its I/O entry from the latched copy; OUT converts the popped value to the entry's type and puts it into the output
image; FB runs its instance on the popped and stored words, pushes the results and stores the new words (a timer with a negative PT
apart, whose result the manual leaves open); each moves the code pointer to the next word. END writes every owned, existing output slot of
the task, in order, and then reports the end of the run, which clears RUN and unbinds the context. Reads without an uncorrectable error
are assumed. -/
def Obligations.InputOutputOperationsComplete : Prop :=
  ∀ (c : CtxId) (s : State) (t w : Nat) (d : Dev),
    let a := d.taskCode t
    let k := (pgArg w).toNat
    let pc := (d.ctx c).pgPc
    let fr := (d.task t).frames
    let st (op : Nat) : Prop := s.dev.stands c t op w d
    let eff := wordEffect (fun k => ioType (d.ioWord a k)) (fun k => (d.progSym a k).type) w (d.task t).tys
    let l := d.stackTop c eff.1
    let go (d : Dev) (v : List Nat) : Host.Outcome State Fault Refusal := .next (s.withDev (d.pgDone c t eff.1 v eff.2 (pc + 4) fr))
    let e := d.ioWord a k
    let y := d.progSym a k
    let fb := fbRun y.type (d.ttOf a) l (d.dataGet a y.off (symWords y.type))
    (st 8 → exec (.pregaefIn c) s = go d (tyPut (ioType e) (d.slotValue e (d.latchData t (ioSlot e))))) ∧
    (st 9 → exec (.pregaefOut c) s = go (d.dataPut c a (d.ioData a k)
      (tyPut (ioType e) (tyCvt 0 (outSrc (ioType e) (d.task t).tys) (ioType e) (tyTake (outSrc (ioType e) (d.task t).tys) l).1)).reverse) []) ∧
    (st 0x38 → oddTimer y.type l = false → exec (.pregaefFb c) s = go (d.dataPut c a y.off fb.1) fb.2) ∧
    (st 0x35 → exec (.pregaefEnd c) s = .next (s.withDev
      (let d' := d.pgDone c t eff.1 [] eff.2 (pc + 4) fr
       let d' := d'.each (d'.taskSlots t true) fun n d => d.slotOut c t n
       (d'.runReport t).updCtx c fun x => { x with bound := 0, task := 0 })))

/-- For non-negative PT and a task time not before the kept start: TON with IN = 0 gives Q = 0, ET = 0; with IN kept at 1, ET is the
smaller of the time since the start and PT, and Q is 1 from PT on. TOF with IN = 1 gives Q = 1, ET = 0; after the fall Q stays 1 until PT
has passed. TP once started runs for PT whatever IN does. -/
def Obligations.TimersFollowTheirInput : Prop :=
  ∀ (pt tt st et : Int) (in0 q0 : Bool), 0 ≤ pt → pt < 2 ^ 62 → 0 ≤ st → st ≤ tt → tt < 2 ^ 62 → 0 ≤ et → et < 2 ^ 62 →
    let w := [b2n in0, b2n q0] ++ timeWords st ++ timeWords et
    (timerFb 0x20 false pt tt w).2 = (false, 0) ∧
    (in0 = true → (timerFb 0x20 true pt tt w).2 = (decide (pt ≤ tt - st), min (tt - st) pt)) ∧
    (in0 = false → (timerFb 0x20 true pt tt w).2 = (decide (pt = 0), 0)) ∧
    (timerFb 0x21 true pt tt w).2 = (true, 0) ∧
    (in0 = true → q0 = true → (timerFb 0x21 false pt tt w).2 = (decide (0 < pt), 0)) ∧
    (in0 = false → q0 = true → (timerFb 0x21 false pt tt w).2 = (decide (tt - st < pt), min (tt - st) pt)) ∧
    (∀ b, q0 = true → (timerFb 0x22 b pt tt w).2 = (decide (tt - st < pt), min (tt - st) pt)) ∧
    (in0 = false → q0 = false → (timerFb 0x22 true pt tt w).2 = (decide (0 < pt), 0))

/-! ### Resets, boot and Vault -/

/-- POWER_ON_RESET starts a reset from its own beginning unless power-on reset runs already; PIN_RESET unless a POR or PIN reset runs;
SOFT_RESET, written by Patrol with the key 0x0000_A5C3, where no reset of the device runs and the device is not in Lockdown; while a reset of
equal or higher precedence runs each has no effect. SOFT_RESET with another key or by another agent only counts in SYS_MISUSE_CNT. While the OTP is being
programmed, a free value says whether the loss of power cuts that short, which leaves its mark there (R531). -/
def Obligations.ResetsStartByPrecedence : Prop :=
  ∀ s : State, let run := s.dev.sys.resetRun
    (let cut := Config.free s.dev.freeCnt
     let d := if s.dev.vlt.otp.prog = .none then s.dev
       else if bit cut 8 = true then s.dev.fresh.2.updVlt fun v => { v with otp := v.otp.cut (cut % 256) }
       else s.dev.fresh.2
     exec .powerOnReset s = .next (s.withDev (if run = some .POR then d else d.deviceReset .POR 0))) ∧
    (run ≠ some .POR → run ≠ some .PIN → exec .pinReset s = .next (s.withDev (s.dev.deviceReset .PIN 0))) ∧
    (run = some .POR ∨ run = some .PIN → exec .pinReset s = .next s) ∧
    ∀ (who : Agent) (v : Word), s.dev.reaches who .SYS_RESET 0 0 true →
      (who.mid = 0x40 → v = 0xA5C3#32 → run = none → s.dev.sys.lockdown = false →
        exec (.softReset who v) s = .next (s.withDev (s.dev.deviceReset .SOFT 1))) ∧
      (who.mid = 0x40 → v = 0xA5C3#32 → run ∈ [some ResetKind.POR, some .PIN, some .TAMP, some .WDOG, some .SOFT] →
        exec (.softReset who v) s = .next s) ∧
      (who.mid ≠ 0x40 ∨ v ≠ 0xA5C3#32 → exec (.softReset who v) s = .next (s.withDev (s.dev.count .SYS_MISUSE_CNT)))

/-- After the start of a POR, PIN, TAMP, WDOG or SOFT reset of a device in canonical form: every field of every register copy holds its
reset value unless its Kept-by list names the kind of reset, but for the registers that show OTP contents, fuses and unconfirmed boots;
memory is zero, but a TAMP reset leaves it to its zero-fill; Vault keys, ephemeral key, nonces and installed SAKs are gone while the OTP
contents stay; engines, queues, lifts, switch, ports, cyclic control, CAN, Blades, mailboxes and personalities are in their initial states;
time bases run on in the resets that keep PD_AON and start at 0 in the others; the reset runs and the boot output hold applies. -/
def Obligations.DeviceResetLeaves : Prop :=
  ∀ (d : Dev) (q : ResetKind) (cause : Nat), d.canonical = true → q ∈ [ResetKind.POR, .PIN, .TAMP, .WDOG, .SOFT] →
    let e := d.deviceReset q cause
    (∀ (r : Reg) (i j k : Nat), let n := r.info.strides.map Prod.snd
      i < n.getD 0 1 → j < n.getD 1 1 → k < n.getD 2 1 → r.present i j = true →
      r ∉ [Reg.VLT_STATUS, .VLT_ROLLBACK, .VLT_TAMPER_SRC, .VLT_TAMPER_EN, .SYS_SERIAL_LOW, .SYS_SERIAL_HIGH, .GRM_BANK, .BOOT_STATUS] →
      e.reg r i j k = resetFieldsBy q (r.resetWord i).toNat r.info.fields (d.reg r i j k)) ∧
    (q ≠ .TAMP → e.mem = []) ∧ (q = .TAMP → e.mem = d.mem) ∧ e.eng = default ∧ e.lft = [] ∧ e.mac = [] ∧ e.swc = default ∧ e.ctl = default ∧
    e.can = [] ∧ e.bld = [] ∧ e.mbx = default ∧ e.pers = default ∧ e.slm = default ∧ e.boot = default ∧
    e.vlt.keyRegs = none ∧ e.vlt.ephemeral = none ∧ e.vlt.nonce = none ∧ e.vlt.challenge = none ∧ e.vlt.sak = [] ∧ e.vlt.tandemSak = none ∧
    { e.vlt.otp with prog := d.vlt.otp.prog } = d.vlt.otp ∧ (∀ n, e.tbVal n = if q = .POR ∨ q = .PIN then 0 else d.tbVal n) ∧
    e.sys.resetRun = some q ∧ e.sys.bootHold = true ∧ e.sys.fabOn = false ∧ e.sys.patOn = false

/-- RINK_RESET of rink n by Patrol after the boot starts the RINK reset of a rink that is on and not in reset, with the engines named
failing; for a rink that is off or in reset, or during the boot, it is refused and counted in SYS_MISUSE_CNT. RINK_RESET_END ends the reset
of a rink that passes and has no kept record left: its firmware is loaded again, READY is 1 and its contexts start. PORT_RESET of a MAC whose
RESET bit is 0, after the boot, starts the PORT reset; PORT_RESET_END clears the bit, and TRAV_ACTIVE shows again whether the MAC is bound. RESET_END ends a POR, PIN, WDOG or SOFT reset: the
cause is shown, the straps are latched after POR and PIN alone, and the boot starts at phase 0. -/
def Obligations.RinkPortAndEndOfReset : Prop :=
  (∀ (who : Agent) (n : Fin 8) (fails : BitVec 8) (s : State), s.dev.reaches who .SYS_RINK_RST 0 0 true → who.mid = 0x40 →
    let d := s.dev
    (d.rinkOn n = true → d.inRinkReset n = false → d.sys.bootMode = .done →
      exec (.rinkReset who (BitVec.ofNat 32 n) fails) s = .next (s.withDev (d.rinkResetStart n fails.toNat))) ∧
    (d.rinkOn n = false ∨ d.inRinkReset n = true ∨ d.sys.bootMode ≠ .done →
      exec (.rinkReset who (BitVec.ofNat 32 n) fails) s = .next (s.withDev (d.count .SYS_MISUSE_CNT)))) ∧
  (∀ (n : Fin 8) (timeout : Bool) (s : State), s.dev.inRinkReset n = true → s.dev.rinkPasses n = true → s.dev.boot.rinkSeq.get n = [] →
    exec (.rinkResetEnd n timeout) s = .next (s.withDev
      (let d := (s.dev.updSys fun x => { x with rinkRst := putBit x.rinkRst n false }).updBoot fun b => { b with rinkSeq := b.rinkSeq.set n [] }
       (((d.zeroImem n).loadRink n d.fwCopies 0).setFlag .RNK_STATUS_READY true n).rinkStart n))) ∧
  (∀ (who : Agent) (n : Fin 28) (s : State), s.dev.reaches who .MAC_CTRL n 0 true → s.dev.sys.bootMode = .done →
    s.dev.flag .MAC_CTRL_RESET n = false → exec (.portReset who n) s = .next (s.withDev ((s.dev.plain .MAC_CTRL 1 n).portReset n))) ∧
  (∀ (n : Fin 28) (s : State), exec (.portResetEnd n) s = .next (s.withDev
    (((s.dev.setFlag .MAC_CTRL_RESET false n).setFlag .MAC_STATUS_TRAV_ACTIVE ((s.dev.setFlag .MAC_CTRL_RESET false n).traverse n) n).updSys fun x => { x with portRst := putBit x.portRst n false }))) ∧
  ∀ (sel : Fin 4) (rank : Bool) (s : State) (q : ResetKind) (code : Nat), s.dev.sys.resetRun = some q →
    (q, code) ∈ [(ResetKind.POR, 0), (.PIN, 1), (.WDOG, 2), (.SOFT, 3)] →
    let d := s.dev.updSys fun x => { x with resetRun := none }
    let d := if q = .POR ∨ q = .PIN then (d.latchStraps sel rank).leaveLockdown else d
    exec (.resetEnd sel rank) s = .next (s.withDev
      (((d.setFld .SYS_RESET_CAUSE_CAUSE code).setFld .PAT_STATUS_CAUSE d.sys.wdogCause).bootPhase0))

/-- KEY_DERIVATION_DONE completes on a device that is out of reset and whose seed is good: the Vault derives its keys. Where the boot stands
before its phase: MARCH_C_SELF_TEST tests every bank (normal start, no bank kept); IMAGE_READ accepts an image with no cause of rejection and
takes it to phase 3, or records its cause and counts the rejection; RESOURCE_CHECK powers and checks everything and goes on where the
minimums are met, rejecting the image with cause 0xB where they are not; PARTITION_APPLY assigns the banks and switches off the domains that
the image leaves off, or rejects an image whose process image does not fit; SECTION_LOAD, SECTION_APPLY and BOOT_RELEASE do the work of phases 6, 7 and 9, after which the device is out of the
boot output hold. POLL_TIMEOUT ends the boot in Hold with result 4. BOOT_CONFIRM sets CONFIRM, clears the count of unconfirmed boots and
raises the rollback counter to the image's, bit by bit, which the counter then shows unless it stood higher. -/
def Obligations.BootPhasesComplete : Prop :=
  ∀ s : State, let d := s.dev
    (d.sys.fabOn = true → d.sys.resetRun = none → d.sys.lockdown = false → d.vlt.seedBad = false →
      exec .keyDerivationDone s = .next (s.withDev ((d.updVlt fun v => { v with keyRegs := some d.bootKeys }).setFlag .VLT_STATUS_KEYS_READY true))) ∧
    (∀ fails, d.bootAt 1 = true → d.sys.bootMode = .start → d.sys.resume = false → d.fld .BOOT_STRAP_BOOT_SEL = 0 → ∃ t, exec (.marchCSelfTest fails) s = .next t ∧
      t.pending = s.pending ∧ t.dev.boot.next = 2 ∧ t.dev.sys.bootMode = .selfTest ∧ t.dev.vlt = d.vlt ∧ t.dev.eng = d.eng) ∧
    (∀ im, d.bootAt 2 = true → d.vlt.keys = true → ∃ t, exec (.imageRead im) s = .next t ∧ t.pending = s.pending ∧
      ((∃ x, im.image.clear d.vlt.kImg = some x ∧ t.dev.boot.image = some x ∧ t.dev.boot.next = 3) ∨ t.dev.boot.image = none ∧ t.dev.boot.rejected = d.boot.rejected + 1)) ∧
    (∀ im a b c, d.boot.image = some im → d.bootAt 3 = true →
      let p := (d.phase 3 4).resourcePower im a.toNat b.toNat c.toNat
      (p.resourceMet im = false → exec (.resourceCheck a b c) s = .next (s.withDev (p.reject 0xB))) ∧
      (p.resourceMet im = true → ∃ t, exec (.resourceCheck a b c) s = .next t ∧ t.pending = s.pending ∧ t.dev.boot.next = 4 ∧
        t.dev.boot.image = some im)) ∧
    (∀ im, d.boot.image = some im → d.bootAt 4 = true →
      let p := (d.phase 4 5).assignBanks im
      (p.piFits im = false → exec .partitionApply s = .next (s.withDev (p.reject 0xB))) ∧ (p.piFits im = true → ∃ t, exec .partitionApply s = .next t ∧ t.pending = s.pending ∧ t.dev.boot.next = 5 ∧ t.dev.boot.seq = im.seqs 5 ∧
        t.dev.boot.target = im.targetMode)) ∧
    (∀ im, d.boot.image = some im → d.bootAt 5 = true → d.boot.seq = [] → ∃ t, exec .sectionLoad s = .next t ∧ t.pending = s.pending ∧
      t.dev.boot.next = 7) ∧
    (∀ im, d.boot.image = some im → d.bootAt 7 = true → exec .sectionApply s = .next (s.withDev
      (let p := (d.phase 7 8).updPers fun x => { x with stations := im.stations.zipIdx.foldl (fun t p => t.set p.2 p.1) [] }
       let p := p.updPers fun x => { x with insts := im.insts }
       let p := p.each (im.ofType tSlalom).zipIdx fun x p => p.slalomApply x.1.data x.2
       let p := (p.each (im.ofType tCanmatrix) Dev.matrixApply).each (im.ofType tBlade) Dev.bladeApply
       let p := (p.piLay im).safeFill (im.dataOf tSafe).length (im.dataOf tSafe)
       (((p.windowsApply (im.dataOf tWindow)).grantsApply (im.dataOf tGrant)).slotsShow).updBoot fun b => { b with seq := im.seqs 8 }))) ∧
    (∀ us, d.bootAt 8 = true → d.boot.seq = [] → ∃ t, exec (.bootRelease us) s = .next t ∧ t.pending = s.pending ∧
      t.dev.sys.bootMode = .done ∧ t.dev.sys.bootHold = false ∧ t.dev.sys.phase9 = true) ∧
    (∀ r, d.seqHead none = some r → r.op = 3 → r.denied = false → exec .pollTimeout s = .next (s.withDev ((d.seqPhase none).bootStop 4))) ∧
    ∀ who, d.reaches who .BOOT_CTRL 0 0 true → exec (.bootConfirm who) s = .next (s.withDev
      (((((d.plain .BOOT_CTRL 1).setFlag .BOOT_CTRL_CONFIRM true).setFld .BOOT_STATUS_UNCONF 0).updVlt fun v =>
        { v with otp := v.otp.raise (min 255 d.boot.rollback) }).vltShow)) ∧
      ∀ v : VltSt, ({ v with otp := v.otp.raise (min 255 d.boot.rollback) } : VltSt).rollback = max v.rollback (min 255 d.boot.rollback)

/-- With a record of its opcode at the front of the boot's register sequence in phase 5 or 8, or of the records kept for a rink in RINK
reset: WRITE writes VALUE; MODIFY writes the old value with the bits of MASK taken from VALUE; a POLL goes on where the value read under MASK is
VALUE and stays otherwise; DELAY and END go on. WRITE, MODIFY and POLL at an address outside register space, in the VLT page or at SYS_RESET
are only counted in BOOT_REC_DENY_CNT, where the domain that holds it is on, and the sequence goes on. -/
def Obligations.RegisterSequenceCompletes : Prop :=
  ∀ (s : State) (n : Option (Fin 8)) (r : RegRec), let who := n.map Fin.val
    s.dev.seqHead who = some r →
    let d := s.dev.seqPhase who
    (r.denied = false →
      (r.op = 1 → exec (.regseqWrite n) s = .next (s.withDev ((d.bootStore r.addr r.value).seqNext who))) ∧
      (r.op = 2 → exec (.regseqModify n) s = .next (s.withDev
        (((d.bootLoad r.addr).2.bootStore r.addr (((d.bootLoad r.addr).1 &&& (2 ^ 32 - 1 - r.mask)) ||| (r.value &&& r.mask))).seqNext who))) ∧
      (r.op = 3 → (d.bootLoad r.addr).1 &&& r.mask = r.value → exec (.regseqPoll n) s = .next (s.withDev ((d.bootLoad r.addr).2.seqNext who))) ∧
      (r.op = 3 → (d.bootLoad r.addr).1 &&& r.mask ≠ r.value → exec (.regseqPoll n) s = .next (s.withDev (d.bootLoad r.addr).2))) ∧
    (r.denied = true → ∀ i op, (i, op) ∈ [(Instr.regseqWrite n, 1), (.regseqModify n, 2), (.regseqPoll n, 3)] → r.op = op →
      exec i s = .next (s.withDev ((d.when (d.domOn .hst) fun e => e.count .BOOT_REC_DENY_CNT).seqNext who))) ∧
    (r.op = 4 → exec (.regseqDelay n) s = .next (s.withDev (d.seqNext who))) ∧
    (r.op = 5 → exec (.regseqEnd n) s = .next (s.withDev (d.seqNext who)))

/-- In Provisioning, in BLANK, or in OWNED with a signature by an unrevoked slot that verifies over the request and the outstanding nonce, which a
new nonce then follows: GET_EPHEMERAL keeps a fresh P-384 key for SET_IMG_KEY and answers its public key; SET_KEY_SLOT programs an empty slot with its
key; REVOKE_SLOT revokes a slot where a live one remains; SET_IMG_KEY stores the image key that unwraps under the ephemeral key, wrapped with DUK, once;
SET_DEBUG_KEY stores the debug key once; SET_SENSORS sets bits of SENSOR_EN and TAMPER_LIMIT; SET_OWNED needs slot 0 and the image key;
SCRAP scraps. A request that is not admitted, or that the table refuses, is counted and changes nothing else. Whatever the request and the state, no
programmed OTP bit is ever cleared, no programmed key changes and the lifecycle never goes back (from BLANK, OWNED or SCRAPPED). -/
def Obligations.ProvisioningCompletes : Prop :=
  let row (sg : BitVec 768) (q : VltReq) : Instr := match q with
    | .getEphemeral => .getEphemeral sg
    | .setKeySlot n key => .setKeySlot sg (n, key)
    | .revokeSlot n => .revokeSlot sg n
    | .setImgKey sent => .setImgKey sg sent
    | .setDebugKey key => .setDebugKey (sg, key)
    | .setSensors e l => .setSensors sg e l
    | .setOwned => .setOwned sg
    | .scrap => .scrap sg
  (∀ (s : State) (sg : BitVec 768), let d := s.dev
    let v := d.vlt
    let o := v.otp
    let ok (q : VltReq) : Prop := v.lifecycle = 0 ∨ ∃ k, v.nonce = some k ∧ (v.verifier (q.digest k) sg.toNat).isSome = true
    let runs (q : VltReq) (e : Dev) : Prop :=
      ok q → exec (row sg q) s = .next (s.withDev (if v.lifecycle = 0 then e else e.newNonce))
    let prog (x : OtpField) (f : OtpSt → OtpSt) : Dev := d.otp (OtpSt.put x f)
    d.inMode [.provisioning] = true →
    (let k := Config.free d.freeCnt % (ecN - 1) + 1
     runs .getEphemeral (d.fresh.2.updVlt fun v => { v with ephemeral := some k, answer := (ecG.times k).out })) ∧
    (∀ (n : Fin 4) (key : BitVec 768), o.slotEmpty n = true → runs (.setKeySlot n key) (prog (.keySlot n) fun o =>
      { o with slots := putBit o.slots n true, slotKeys := o.slotKeys.set n key.toNat })) ∧
    (∀ n : Fin 4, v.live (2 ^ n.val) ≠ 0 → runs (.revokeSlot n) (prog .keyRevoke fun o => { o with revoke := putBit o.revoke n true })) ∧
    (∀ (sent : BitVec 768 × BitVec 480) (key : Nat) (r : KeyRegs), o.wimg = none → o.fails .wimg = false → v.keyRegs = some r →
      v.sentKey sent = some key → runs (.setImgKey sent) ((d.fresh.2.updVlt fun v => { v with ephemeral := none }).otp (OtpSt.put .wimg fun o =>
        { o with wimg := some (wrapKey r.duk (Config.free d.freeCnt % 2 ^ 96) key) }))) ∧
    (∀ key : BitVec 768, o.debugKey = none → o.fails .debugKey = false →
      runs (.setDebugKey key) (prog .debugKey fun o => { o with debugKey := some key.toNat })) ∧
    (∀ (en : BitVec 5) (lim : BitVec 6), en.toNat &&& o.sensors = o.sensors → lim.toNat &&& o.limit = o.limit →
      runs (.setSensors en lim) (d.otp (OtpSt.setSensors en.toNat lim.toNat))) ∧
    (bit o.slots 0 = true → v.wimg.isSome = true → runs .setOwned (prog .lifecycle fun o => { o with stage := max o.stage 1 })) ∧
    runs .scrap (prog .lifecycle fun o => { o with stage := 2 }) ∧
    ∀ q, ¬ ok q ∨ v.refuses q = true → exec (row sg q) s = .next (s.withDev (d.count .VLT_PROV_REFUSE_CNT))) ∧
  ∀ (s t : State) (sg : BitVec 768) (q : VltReq), s.dev.vlt.otp.stage ≤ 2 → exec (row sg q) s = .next t →
    let v := s.dev.vlt.otp
    let w := t.dev.vlt.otp
    (∀ n, bit v.slots n = true → bit w.slots n = true ∧ w.slotKeys.get n = v.slotKeys.get n) ∧
    (∀ n, bit v.revoke n = true → bit w.revoke n = true) ∧ (v.wimg.isSome = true → w.wimg = v.wimg) ∧
    (v.debugKey.isSome = true → w.debugKey = v.debugKey) ∧ s.dev.vlt.lifecycle ≤ t.dev.vlt.lifecycle ∧
    v.sensors &&& w.sensors = v.sensors ∧ v.limit &&& w.limit = v.limit ∧ v.seed = w.seed ∧ v.helper = w.helper ∧ v.bad = w.bad ∧
    v.rollSet = w.rollSet ∧ v.rollBad = w.rollBad ∧ v.tampSet = w.tampSet ∧ v.tampBad = w.tampBad

/-- With TRST_N high, no reset of the device and no Lockdown: DEBUG_CHALLENGE gives a fresh nonce with the serial number in OWNED below eight
failures (debug opens at once in BLANK); DEBUG_RESPONSE to an outstanding challenge opens debug where its signature over nonce and serial
number verifies by the stored DEBUG_KEY, and is counted otherwise; while debug is barred neither opens it. DEBUG_ACCESS, once debug is open, reads or writes the target; on
the TAP it also takes TRST_N, whose low level holds the TAP in Test-Logic-Reset with nothing driven, a clock of the TAP, and outside that
state boundary scan. TAMPER_RESPONSE, with an enabled sensor tripped (in a POR only sensor 0 trips: R507) and no response under way, locks
the device down, loses the keys and starts the TAMP reset unless a reset of higher precedence runs; LOCKDOWN_ENTRY ends the zero-fill with
every byte 0; TAMPER_COUNT_PROGRAM programs one further bit, to at most 63. TANDEM_LINK_START over a locked lane of MODE 8, with a START
frame whose tag verifies under the new key, equal images and differing rank straps, sets the tandem SAK and the strap's rank, and counts a frame whose tag
does not verify. SAK_INSTALL installs a fresh key of a MAC in a powered switch
where the Vault holds K_IMG. -/
def Obligations.VaultRowsComplete : Prop :=
  ∀ s : State, let d := s.dev
    let runs : Prop := d.sys.lockdown = false ∧ d.sys.resetRun = none
    let open_ : Prop := runs ∧ d.tap.trst = true
    (open_ → d.vlt.lifecycle = 1 → d.vlt.dbgFails < 8 → exec .debugChallenge s = .next (s.withDev
      (let k := Config.free d.freeCnt % 2 ^ 256
       d.fresh.2.updVlt fun v => { v with challenge := some k, answer := k + d.sys.serial * 2 ^ 256 }))) ∧
    (open_ → d.vlt.lifecycle = 0 → exec .debugChallenge s = .next (s.withDev (d.setFlag .VLT_STATUS_DEBUG_OPEN true))) ∧
    (∀ sg k, d.vlt.challenge = some k →
      let e := d.updVlt fun v => { v with challenge := none }
      let failed := (e.count .VLT_DBG_FAIL_CNT).updVlt fun v => { v with dbgFails := v.dbgFails + 1 }
      (open_ → d.vlt.lifecycle ≠ 2 →
        (∀ key, d.vlt.debugKey = some key → exec (.debugResponse sg) s = .next (s.withDev
          (if ecdsaOk key (debugDigest k d.sys.serial) sg.toNat then e.setFlag .VLT_STATUS_DEBUG_OPEN true else failed))) ∧
        (d.vlt.debugKey = none → exec (.debugResponse sg) s = .next (s.withDev failed))) ∧
      (d.debugBarred = true → exec (.debugResponse sg) s = .next (s.withDev e))) ∧
    (d.debugBarred = true → exec .debugChallenge s = .next s) ∧
    (∀ (g : DbgTarget) (v : Word), d.flag .VLT_STATUS_DEBUG_OPEN = true → d.tap.trst = true → d.sys.resetRun = none → (∀ off, g ≠ .register off) →
      exec (.debugAccess (.access g) (some v)) s = .next (s.withDev (d.debugPut v.toNat g)) ∧
      exec (.debugAccess (.access g) none) s = .next (s.withDev (d.updVlt fun x => { x with dbgData := word (d.debugValue g) }))) ∧
    (∀ (off : Nat) (v : Word), d.flag .VLT_STATUS_DEBUG_OPEN = true → d.tap.trst = true → d.sys.resetRun = none → off / 0x10000 ≠ 2 →
      exec (.debugAccess (.access (.register off)) (some v)) s = .next (s.withDev
        ((d.regWrite 0x40 0 off v.toNat).updVlt fun x => { x with dbgData := v })) ∧
      exec (.debugAccess (.access (.register off)) none) s = .next (s.withDev
        ((d.regRead 0x40 0 off).2.updVlt fun x => { x with dbgData := word (d.regRead 0x40 0 off).1 }))) ∧
    (∀ w, exec (.debugAccess (.trst true) w) s = .next (s.withDev (d.updTap fun t => { t with trst := true })) ∧
      exec (.debugAccess (.trst false) w) s = .next (s.withDev (d.updTap fun t => { t with trst := false, state := .reset, drives := [] })) ∧
      (d.tap.trst = false → ∀ op ∈ [TapOp.tck true, .tck false, .drive [], .undrive], exec (.debugAccess op w) s = .next s) ∧
      (d.tap.trst = true → ∀ tms, ∃ t, exec (.debugAccess (.tck tms) w) s = .next t ∧ t.dev.tap.state = d.tap.state.next tms ∧
        (t.dev.tap.state = .reset → t.dev.tap.drives = []) ∧ { t.dev with tap := d.tap } = d) ∧
      (d.tap.trst = true → d.tap.state ≠ .reset → ∀ l, exec (.debugAccess (.drive l) w) s = .next (s.withDev (d.updTap fun t =>
        { t with drives := l })))) ∧
    (∀ src : BitVec 5, (if d.sys.resetRun = some .POR then src.toNat % 2 else src.toNat) &&& d.fld .VLT_TAMPER_EN_EN ≠ 0 → d.sys.filling = false → d.sys.lockdown = false →
      ∃ t, exec (.tamperResponse src) s = .next t ∧ t.pending = s.pending ∧ t.dev.sys.lockdown = true ∧ t.dev.vlt.keyRegs = none ∧
        t.dev.vlt.sak = [] ∧ t.dev.vlt.tandemSak = none ∧ t.dev.sys.bootHold = true ∧ t.dev.sys.countDue = true ∧
        (d.sys.resetRun ≠ some .POR → d.sys.resetRun ≠ some .PIN → t.dev.sys.resetRun = some .TAMP)) ∧
    (d.sys.filling = true → exec .lockdownEntry s = .next (s.withDev
      (({ d with mem := [], sys := { d.sys with filling := false } } : Dev).setFlag .VLT_STATUS_LOCKDOWN true))) ∧
    (d.sys.countDue = true → exec .tamperCountProgram s = .next (s.withDev
      (((d.updSys fun x => { x with countDue := false }).updVlt fun v => { v with otp := v.otp.tick }).vltShow)) ∧
      (d.vlt.tamperCount ≤ 63 → ({ d.vlt with otp := d.vlt.otp.tick } : VltSt).tamperCount = min 63 (d.vlt.tamperCount + 1))) ∧
    (∀ img nonce f g, runs → d.txHeld = false → d.fld .PAR_STATUS_LANES ≠ 0 → d.tandemLane = true → d.vlt.kImg = some img →
      let k := d.sakTdm img nonce.toNat
      let own := k.ownStart
      let e := k.tandemSend false [own.bytes k.vlt.tandemNonce]
      (e.tandemOk (f.bytes nonce.toNat) g = true → e.tandemLoops = false → f.rank ≠ own.rank → f.buildId = own.buildId →
        f.rollback = own.rollback → f.digest = own.digest → exec (.tandemLinkStart nonce f g) s = .next (s.withDev
          (((e.updPar fun x => { x with linked := true, rxPn := g.pn.toNat }).setFlag .PAR_STATUS_RANK own.rank).updPar
            fun x => { x with imgDiffers := false }))) ∧
      (e.tandemOk (f.bytes nonce.toNat) g = false → exec (.tandemLinkStart nonce f g) s = .next (s.withDev
        ((e.updPar fun x => { x with linked := false, rxPn := 0 }).count .PAR_AUTH_CNT))) ∧
      k.vlt.tandemSak.isSome = true) ∧
    ∀ (n an : Fin 4) (img : Nat), runs → d.domOn .swc = true → d.vlt.kImg = some img →
      ∃ t, exec (.sakInstall n an) s = .next t ∧ t.pending = s.pending ∧ t.dev.vlt.sak.get (4 * n + an) =
          some ⟨Config.free d.freeCnt % 2 ^ 256, Config.free d.fresh.2.freeCnt % 2 ^ 96⟩ ∧
        (∀ k, k ≠ 4 * n.val + an.val → t.dev.vlt.sak.get k = d.vlt.sak.get k) ∧ t.dev.mem = d.mem ∧ t.dev.eng = d.eng

/-! ### Engines: queues, stealing, faults, TLBs -/

/-- PUSH_COMMIT of a rink that the router delivers to, for an engine that is online, has room and whose rink has loaded the firmware,
appends the staged descriptor to that engine's queue. QUEUE_ROOM_PUSH does the same for the push that waits first, counted in
RNK_QWAIT_CNT; a copy of the switch core that it announces is held by its port from then on. Each may make waiting contexts of other rinks ask. JOB_TAKE: among the jobs of the queue whose priority some idle context accepts, the highest priority, and of it the oldest
job, is handed to the lowest idle context that accepts it, and leaves the queue; Patrol (engine 64) likewise. -/
def Obligations.QueueRowsComplete : Prop :=
  ∀ s : State, let d := s.dev
    (∀ (who : Agent) (n : Fin 8) (v : Word), d.reaches who .RNK_PUSH n 7 true →
      let j := ((d.stagePush n 7 who.mid who.ctx v.toNat).takeStaged n who.mid who.ctx).1
      let e := ((d.stagePush n 7 who.mid who.ctx v.toNat).takeStaged n who.mid who.ctx).2
      d.routeFails n = false → d.engOnline n j.engine = true → bit (d.reg .RNK_FWMASK n) j.fwid = true →
      (d.queue (n * 8 + j.engine)).length < 64 →
      exec (.pushCommit who n v) s = .next (s.withDev ((e.enqueue (n * 8 + j.engine) j).noticed.reapRuns)) ∧
        e.queue (n * 8 + j.engine) = d.queue (n * 8 + j.engine)) ∧
    (∀ (e : Fin 64) (p : Producer) (j : Job) (mv : Bool) (l : List (Producer × Job × Bool)), d.eng.waiting.get e = (p, j, mv) :: l →
      d.routeFails (e / 8) = false →
      d.engOnline (e / 8) j.engine = true → bit (d.reg .RNK_FWMASK (e / 8)) j.fwid = true → (d.queue (e / 8 * 8 + j.engine)).length < 64 →
      exec (.queueRoomPush e) s = .next (s.withDev
        (((({ d with eng := { d.eng with waiting := d.eng.waiting.set e l } }).enqueue (e / 8 * 8 + j.engine) j).noticed.count
          .RNK_QWAIT_CNT (e / 8)).entered p j))) ∧
    ∀ (e : Fin 65) (x : Nat × Job) (k : Nat), x ∈ d.queue e → k ∈ d.idleCtx e → d.accepts k x.2.prio = true →
      ∃ l j r c, d.queue e = l ++ j :: r ∧ c ∈ d.idleCtx e ∧ d.accepts c j.2.prio = true ∧
        (∀ y ∈ d.queue e, ∀ b ∈ d.idleCtx e, d.accepts b y.2.prio = true → y.2.prio ≤ j.2.prio) ∧ (∀ y ∈ l, y.2.prio ≠ j.2.prio) ∧
        (∀ b ∈ d.idleCtx e, d.accepts b j.2.prio = true → c ≤ b) ∧
        exec (.jobTake e) s = .next (s.withDev ((d.setQueue e (l ++ r)).loadJob c j.2))

/-- LOCAL_STEAL by a context that seeks work takes the oldest stealable accepted job of the first engine in ring order that has one, and
counts it. STEAL_WINDOW_EXPIRY opens the later stages to an idle context of a rink, which sends its request where it has a victim to ask.
STEAL_REQUEST: a request on its way to a rink, or the one that the context sends now, or the one that it may have sent while it waited, arrives
whatever has become of that rink's jobs since, and the rink answers with its oldest stealable job of a priority that the request carries whose firmware the thief rink has loaded, or with an
empty reply; PATROL_STEAL_REQUEST does so with Patrol's queue. STEAL_REPLY: the context takes the job where it is still idle with no event
and accepts it; an empty reply counts as a miss, from Patrol closes that stage until its queue fills anew, and the context asks on. -/
def Obligations.StealRowsComplete : Prop :=
  ∀ (c : Fin 256) (s : State), let d := s.dev
    let n := rinkOf c
    (∀ v l j r, d.seeks c = true → d.localVictim c = some v → d.queue (n * 8 + v) = l ++ j :: r → (∀ x ∈ l, d.stealable c x = false) →
      d.stealable c j = true →
      exec (.localSteal c) s = .next (s.withDev (((d.setQueue (n * 8 + v) (l ++ r)).loadJob c j.2).count .RNK_STEAL_CNT n))) ∧
    ((d.ctx c).st = .idle → isPatrol c = false → exec (.stealWindowExpiry c) s = .next (s.withDev
      ((d.updCtx c fun x => { x with window := true }).sendAsk c))) ∧
    (∀ q : Ask, q.thief = c.val → (d.eng.asks.find? fun x => x.thief == c.val && x.sent) = some q ∨
        (∀ x ∈ d.eng.asks, x.thief = c.val → x.sent = false) ∧
          (d.asksNow c = true ∧ (d.crossVictim c = some q.victim ∨ d.crossVictim c = none ∧ d.patrolStage c = true ∧ q.victim = 8) ∧
            q = ⟨c, q.victim, [3, 2, 1, 0].filter (d.accepts c), true⟩ ∨
          (d.asksNow c = false ∨ d.crossVictim c = none ∧ d.patrolStage c = false) ∧ q ∈ d.eng.asks ∧ ∀ x ∈ d.eng.asks, x.thief = c.val → x = q) →
      let e : Dev := { d with eng := { d.eng with asks := d.eng.asks.filter (·.thief != c.val) } }
      let p (j : Nat × Job) : Bool := !j.2.pinned && q.prios.contains j.2.prio && bit (d.reg .RNK_FWMASK n) j.2.fwid
      (q.victim < 8 →
        (∀ k < 8, ∀ l j r, d.queue (q.victim * 8 + k) = l ++ j :: r → (∀ x ∈ l, p x = false) → p j = true →
          (∀ k' < 8, k' ≠ k → ∀ x ∈ d.queue (q.victim * 8 + k'), p x = true → j.1 < x.1) →
          exec (.stealRequest c) s = .next (s.withDev ((e.setQueue (q.victim * 8 + k) (l ++ r)).answerSteal c q.victim (some j.2)))) ∧
        ((∀ k < 8, ∀ x ∈ d.queue (q.victim * 8 + k), p x = false) →
          exec (.stealRequest c) s = .next (s.withDev (e.answerSteal c q.victim none)))) ∧
      (q.victim = 8 →
        (∀ l j r, d.eng.patQ = l ++ j :: r → (∀ x ∈ l, q.prios.contains x.2.prio = false) → q.prios.contains j.2.prio = true →
          exec (.patrolStealRequest c) s = .next (s.withDev ((e.setQueue 64 (l ++ r)).answerSteal c 8 (some j.2)))) ∧
        ((∀ x ∈ d.eng.patQ, q.prios.contains x.2.prio = false) →
          exec (.patrolStealRequest c) s = .next (s.withDev (e.answerSteal c 8 none))))) ∧
    ∀ l t r, d.eng.steals = l ++ t :: r → (∀ x ∈ l, x.thief ≠ c.val) → t.thief = c.val →
      let e : Dev := { d with eng := { d.eng with steals := l ++ r } }
      (∀ j, t.reply = some j →
        let e := e.count (if t.victim = 8 then .RNK_PSTEAL_CNT else .RNK_XSTEAL_CNT) n
        (e.ctx c).st = .idle → e.evReady c = 0 → e.accepts c j.prio = true →
        exec (.stealReply c) s = .next (s.withDev (e.loadJob c j))) ∧
      (t.reply = none → exec (.stealReply c) s = .next (s.withDev
        (let e := e.count .RNK_XSTEAL_MISS_CNT n
         (if t.victim = 8 then e.updCtx c fun x => { x with patEmpty := true } else e).sendAsk c)))

/-- CONTEXT_RESUME of a FAULTED context puts it in RUN at its word; CONTEXT_ABORT of one that owns no lift makes it IDLE without its
job. ENGINE_OFFLINE, by an uncorrectable memory error or by the write of an agent, leaves the engine offline with its four contexts STOPPED
without a job and its queue empty; a correctable memory error is counted and nothing else changes. TABLE_WALK starts the walk that a context waits for where fewer than four run in its rink. WALK_COMPLETE of a
translation found, of whose tables none lies in a bank that is leaving retention, fills the second-level TLB and the micro-TLB of the context. TLB_INVALIDATE removes exactly the selected translations
from the TLBs of the rink and no others, discards its walks and what failed walks left, and shows INV_BUSY, which TLB_INVALIDATE_DONE clears once those walks ended. -/
def Obligations.FaultLossAndTlbRowsComplete : Prop :=
  ∀ s : State, let d := s.dev
    (∀ (who : Agent) (c : CtxId), (if isPatrol c then d.reaches who .PAT_CTX_CTRL (c % 4) 0 true else
        d.reaches who .RNK_CTX_CTRL (rinkOf c) (c % 32) true) → (d.ctx c).st = .faulted →
      (∃ t, exec (.contextResume who c) s = .next t ∧ t.pending = s.pending ∧ (t.dev.ctx c).st = .run ∧ (t.dev.ctx c).pc = (d.ctx c).pc ∧
        (t.dev.ctx c).stall = .none ∧ t.dev.mem = d.mem ∧ ∀ k : Nat, k ≠ c → t.dev.ctx k = d.ctx k) ∧
      (d.hasLift c = false → ∃ t, exec (.contextAbort who c) s = .next t ∧ t.pending = s.pending ∧ (t.dev.ctx c).st = .idle ∧
        (t.dev.ctx c).hasJob = false ∧ t.dev.mem = d.mem ∧ ∀ k : Nat, k ≠ c → t.dev.ctx k = d.ctx k)) ∧
    (∀ (by_ : EngineLoss) (n e : Fin 8), by_ ≠ .correctable → d.engOnline n e = true →
      (by_ = .uncorrectable → d.rinkOn n = true ∧ d.inRinkReset n = false) →
      (∀ who, by_ = .offline who → d.reaches who .RNK_ENG_CFG n e true) →
      ∃ t, exec (.engineOffline by_ n e) s = .next t ∧ t.pending = s.pending ∧ t.dev.engOnline n e = false ∧ t.dev.queue (n * 8 + e) = [] ∧
        t.dev.mem = d.mem ∧ ∀ i < 4, (t.dev.ctx (n * 32 + e * 4 + i)).st = .stopped ∧ (t.dev.ctx (n * 32 + e * 4 + i)).hasJob = false) ∧
    (∀ n e : Fin 8, d.rinkOn n = true → d.inRinkReset n = false → d.engOnline n e = true →
      exec (.engineOffline .correctable n e) s = .next (s.withDev (d.count .RNK_LMEM_CE_CNT n))) ∧
    (∀ (c : CtxId) (va : Nat), (d.ctx c).stall = .walk va →
      isPatrol c = true ∨ (d.eng.walks.filter (·.rink == rinkOf c)).length < 4 →
      exec (.tableWalk c) s = .next (s.withDev ((({ d with eng := { d.eng with walks := d.eng.walks ++
        [({ owner := c, rink := rinkOf c, space := (d.ctx c).space, va := va, dead := false } : Walk)] } }).updCtx c fun x => { x with stall := .walking })))) ∧
    (∀ (c : CtxId) (w : Walk), (d.eng.walks.find? fun x => midOf x.owner == midOf c) = some w → w.owner = c → w.dead = false →
      (d.ctx c).stall = .walking →
      d.walkWaits w.va (d.rootOf w.rink w.space) = false →
      let e := ({ d with eng := { d.eng with walks := d.eng.walks.erase w } }).updCtx c fun x => { x with stall := .none }
      ∀ tr f, e.walk (midOf c) w.space w.va (e.rootOf w.rink w.space) = (.ok tr, f) →
        exec (.walkComplete c) s = .next (s.withDev (((if isPatrol c then f else f.fillL2 (rinkOf c) tr)).fillMicro c tr))) ∧
    (∀ (who : Agent) (n : Fin 8) (v : Word), d.reaches who .RNK_TLB_INV n 0 true →
      ∃ t, exec (.tlbInvalidate who n v) s = .next t ∧ t.pending = s.pending ∧ t.dev.flag .RNK_TLB_STATUS_INV_BUSY n = true ∧
        (∀ x, x ∈ t.dev.eng.tlb.get n ↔ x ∈ d.eng.tlb.get n ∧ invSelects v.toNat x = false) ∧
        (∀ k < 32, ∀ x, x ∈ (t.dev.ctx (n * 32 + k)).micro ↔ x ∈ (d.ctx (n * 32 + k)).micro ∧ invSelects v.toNat x = false) ∧
        (∀ w ∈ t.dev.eng.walks, w.rink = n → w.dead = true) ∧ (∀ k < 32, (t.dev.ctx (n * 32 + k)).walkFlt = []) ∧ (∀ k : Nat, k ≠ n → t.dev.eng.tlb.get k = d.eng.tlb.get k)) ∧
    ∀ n : Fin 8, (∀ w ∈ d.eng.walks, w.rink = n → w.dead = false) →
      exec (.tlbInvalidateDone n) s = .next (s.withDev (d.setFlag .RNK_TLB_STATUS_INV_BUSY false n))

/-- Where the two table reads of a walk give a translation, the root is enabled, the translation covers the address walked, its physical
address keeps the offset within the page (4 KiB, or 4 MiB for a level-1 leaf) and lies below 2^40; it allows an access only where every
level's entry allows it; an access that it does not allow faults with code 2 (read) or 3 (write), and no other. Without EN, or at an
entry that is not valid, the walk faults with code 1; with reserved bits set, with code 4; at a table outside the shared memory or read with
an uncorrectable error, with code 8. -/
def Obligations.WalksFollowTheTables : Prop :=
  ∀ (d : Dev) (mid space va : Nat) (root : Root), va < 2 ^ 32 →
    let r := d.walk mid space va root
    let a := d.readEntry mid (root.pa + bits va 31 22 * 8)
    (∀ t, r.1 = .ok t → root.en = true ∧ t.hits space va = true ∧ t.addr va % 4096 = va % 4096 ∧
      (t.big = true → t.addr va % 0x400000 = va % 0x400000) ∧ t.addr va < 2 ^ 40 ∧
      (∃ e, a.1 = some e ∧ bit e 0 = true ∧ t.big = bit e 3 ∧ (t.big = true → t.r = bit e 1 ∧ t.w = bit e 2 ∧ t.pa = bits e 39 12 * 4096) ∧
        (t.big = false → ∃ f, (a.2.readEntry mid (bits e 39 12 * 4096 + bits va 21 12 * 8)).1 = some f ∧ bit f 0 = true ∧
          t.r = (bit e 1 && bit f 1) ∧ t.w = (bit e 2 && bit f 2) ∧ t.pa = bits f 39 12 * 4096)) ∧
      (t.answer va false = .ok (t.addr va) ∧ t.r = true ∨ t.answer va false = .fault 2 ∧ t.r = false) ∧
      (t.answer va true = .ok (t.addr va) ∧ t.w = true ∨ t.answer va true = .fault 3 ∧ t.w = false)) ∧
    (root.en = false → r.1 = .error 1) ∧
    (root.en = true → a.1 = none → r.1 = .error 8) ∧
    (∀ e, root.en = true → a.1 = some e → bit e 0 = false → r.1 = .error 1) ∧
    (∀ e, root.en = true → a.1 = some e → bit e 0 = true → bits e 11 4 ≠ 0 ∨ bits e 63 40 ≠ 0 ∨ bit e 3 = true ∧ bits e 21 12 ≠ 0 →
      r.1 = .error 4)

/-! ### Shared memory, the Groomer, lifts -/

/-- BANK_GRANT at a bank that serves, to the port whose turn it is by the bank's round-robin pointer, which moves past it: a read gives the word, and keeps it; a write of bytes by mask changes exactly these bytes; one struck
bit is corrected, an uncorrectable word reads as an error and keeps its bytes but under a write of the whole word (three or more struck bits
are left open by R159, and then only the other words are said to stay). Where another port's turn comes first, or the bank is leaving retention,
the access waits; at a bank that does not serve, it is only counted. BANK_REQUEST starts the five transitions of a bank and is otherwise refused; BANK_STATE_CHANGE_DONE ends
each, zero-filled where contents are lost. DESTRUCTIVE_MARCH_SS starts on a reserve bank that is on, PRESERVING_MARCH_SS on any bank that is
on; GROOMER_ROW keeps contents and uses a spare row for a row that fails while one is left; GROOMER_COMMAND_DONE ends either test and shows
its result; SCRUB_READ, once its turn comes, corrects the word at the scrub position and moves on. -/
def Obligations.MemoryAndGroomerRowsComplete : Prop :=
  ∀ s : State, let d := s.dev
    (∀ (mid : BitVec 8) (w : BitVec 24) (op : BankOp) (upset : Fin 4) (x : BitVec 15 × BitVec 15) (y : BitVec 15),
      let a := w.toNat * 8
      let p := (portOf mid.toNat (bankOf a)).getD 15
      let e := if upset.val = 0 then d.errOf a else min 2 (max (d.errOf a) upset)
      d.errOf a ≤ 2 →
      (d.bankServes (bankOf a) = false → ∃ t, exec (.bankGrant mid w op upset x y) s = .next t ∧ t.dev.mem = d.mem ∧
        t.dev.reg .SMF_BANK_DENY_CNT = min (d.reg .SMF_BANK_DENY_CNT + 1) 0xFFFFFFFF) ∧
      (d.bankState (bankOf a) = 4 ∨ d.bankServes (bankOf a) = true ∧ d.grantTurn (bankOf a) p x.1.toNat = false →
        exec (.bankGrant mid w op upset x y) s = .next s) ∧
      (d.bankServes (bankOf a) = true → d.bankState (bankOf a) ≠ 4 → d.grantTurn (bankOf a) p x.1.toNat = true → ∃ t, exec (.bankGrant mid w op upset x y) s = .next t ∧ t.pending = s.pending ∧
        (∀ k, k < a ∨ a + 8 ≤ k → t.dev.byte k = d.byte k) ∧ (∀ k, k ≠ a / 8 → t.dev.errOf (k * 8) = d.errOf (k * 8)) ∧
        (p < 15 → t.dev.smf.rr.get (bankOf a) = (p + 1) % 15) ∧
        (upset.val < 3 → op = .read → t.dev.mem = d.mem ∧ t.dev.smf.rdata = d.load a 8 ∧ t.dev.smf.rerr = decide (e = 2) ∧
          t.dev.errOf a = if e = 1 ∧ d.flag .SMF_CFG_CE_WB = true then 0 else e) ∧
        ∀ m v, op = .write m v →
          (upset.val < 3 ∧ e < 2 ∨ m = 255#8 → t.dev.errOf a = 0 ∧
            ∀ i < 8, t.dev.byte (a + i) = if m.getLsbD i then BitVec.ofNat 8 (v.toNat / 256 ^ i) else d.byte (a + i)) ∧
          (upset.val < 3 → e = 2 → m ≠ 255#8 → t.dev.errOf a = 2 ∧ t.dev.mem = d.mem))) ∧
    (∀ (who : Agent) (v : Word) (k : Nat), d.reaches who .PWR_BANK_REQ 0 0 true →
      let b := bits v.toNat 7 0
      let change := (d.bankState b, bits v.toNat 9 8)
      ((change, k) ∈ [((1, 2), 3), ((2, 1), 4), ((1, 0), 5), ((2, 0), 5), ((0, 1), 6)] →
        exec (.bankRequest who v) s = .next (s.withDev ((d.plain .PWR_BANK_REQ v.toNat).setBankState b k))) ∧
      (change ∉ [(1, 2), (2, 1), (1, 0), (2, 0), (0, 1)] → bits v.toNat 9 8 ≠ 3 →
        exec (.bankRequest who v) s = .next (s.withDev ((d.plain .PWR_BANK_REQ v.toNat).count .PWR_REFUSE_CNT)))) ∧
    (∀ (b : Fin 256) (k : Nat), (d.bankState b, k) ∈ [(3, 2), (4, 1), (5, 0), (6, 1)] →
      exec (.bankStateChangeDone b) s = .next (s.withDev ((if d.bankState b < 5 then d else d.zeroBank b).setBankState b k))) ∧
    (∀ (who : Agent) (b : Fin 256), d.reaches who .GRM_CMD 0 0 true → d.flag .GRM_STATUS_BUSY = false → d.bankState b = 1 →
      (d.partOf b = 7 → ∃ t, exec (.destructiveMarchSs who b) s = .next t ∧ t.pending = s.pending ∧ t.dev.grm = .destructive ∧
        t.dev.bankState b = 7 ∧ t.dev.flag .GRM_STATUS_BUSY = true ∧ t.dev.fld .GRM_STATUS_BANK = b ∧ t.dev.mem = d.mem) ∧
      ∃ t, exec (.preservingMarchSs who b) s = .next t ∧ t.pending = s.pending ∧ t.dev.grm = .preserving 0 false false ∧
        t.dev.bankState b = 7 ∧ t.dev.bankServes b = true ∧ t.dev.flag .GRM_STATUS_BUSY = true ∧ t.dev.fld .GRM_STATUS_BANK = b ∧
        t.dev.mem = d.mem) ∧
    (∀ (k : Nat) (r u fails : Bool) (waits : List (BitVec 15)), d.grm = .preserving k r u →
      let b := d.fld .GRM_STATUS_BANK
      let used := d.fld .GRM_BANK_ROWS_USED b
      (k < 1024 → ∃ t, exec (.groomerRow (fails, waits)) s = .next t ∧ t.pending = s.pending ∧ t.dev.mem = d.mem ∧
        (fails = false → t.dev.grm = .preserving (k + 1) r u ∧ t.dev.smf = d.smf) ∧
        (fails = true → used < 8 → t.dev.grm = .preserving (k + 1) true u ∧ t.dev.smf.rows.get b = d.smf.rows.get b ++ [k] ∧
          t.dev.fld .GRM_BANK_ROWS_USED b = used + 1) ∧
        (fails = true → 8 ≤ used → t.dev.grm = .preserving (k + 1) r true ∧ t.dev.smf = d.smf ∧
          t.dev.flag .GRM_BANK_UNREPAIRED b = true)) ∧
      (k = 1024 → exec (.groomerCommandDone []) s = .next (s.withDev ((d.setBankState b 1).grmEnd (if u then 3 else if r then 2 else 1))))) ∧
    (∀ cells, d.grm = .destructive →
      let b := d.fld .GRM_STATUS_BANK
      let f := cellsOf cells
      d.fld .GRM_BANK_ROWS_USED b ≤ 8 → d.fld .GRM_BANK_COLS_USED b ≤ 2 →
      let p := d.repair b f
      (p.1 = 1 ↔ f = []) ∧ p.1 ∈ [1, 2, 4] ∧ p.2.fld .GRM_BANK_ROWS_USED b ≤ 8 ∧ p.2.fld .GRM_BANK_COLS_USED b ≤ 2 ∧
      (p.1 = 2 → ∀ c ∈ f, c.1 ∈ p.2.smf.rows.get b ∨ c.2 ∈ p.2.smf.cols.get b) ∧
      (p.1 = 4 → p.2.bankState b = 15 ∧ p.2.partOf b = 15 ∧ p.2.flag .GRM_BANK_MAPPED b = true) ∧
      exec (.groomerCommandDone cells) s = .next (s.withDev
        ((if p.1 = 4 then p.2.degrade .SYS_DEGRADED_BANK else (p.2.zeroBank b).setBankState b 1).grmEnd p.1))) ∧
    ∀ (upset : Fin 4) (x : BitVec 15 × BitVec 15) (y : BitVec 15), d.flag .GRM_SCRUB_CFG_EN = true → d.flag .GRM_STATUS_BUSY = false →
      d.bankState (d.fld .GRM_SCRUB_POS_BANK) = 1 → d.grantTurn (d.fld .GRM_SCRUB_POS_BANK) 14 x.1.toNat = true →
      d.fld .GRM_SCRUB_POS_WORD < 65535 →
      let a := d.fld .GRM_SCRUB_POS_BANK * 0x80000 + d.fld .GRM_SCRUB_POS_WORD * 8
      ∃ t, exec (.scrubRead upset x y) s = .next t ∧ t.pending = s.pending ∧ (upset.val < 3 → t.dev.mem = d.mem) ∧
        (∀ k, k < a ∨ a + 8 ≤ k → t.dev.byte k = d.byte k) ∧
        t.dev.fld .GRM_SCRUB_POS_WORD = d.fld .GRM_SCRUB_POS_WORD + 1 ∧ t.dev.fld .GRM_SCRUB_POS_BANK = d.fld .GRM_SCRUB_POS_BANK ∧
        (d.errOf a = 0 → upset.val ≤ 1 → t.dev.errOf a = 0) ∧ (d.errOf a = 1 → upset.val ≤ 1 → t.dev.errOf a = 0)

/-- LIFT_START of an idle lift by a master that may use it starts it at the descriptor address, with the writer as owner.
LIFT_DESCRIPTOR_FETCH of a running lift takes a legal descriptor with bytes left to its blocks, and one with none left to its end.
LIFT_BLOCK moves the bytes up to the next 64-byte boundary of the destination: by physical addresses in shared memory whose banks serve and
whose words hold no error, each destination byte becomes the source byte as read before, or the fill byte, every other byte stays, and
LFT_PROG goes up by as many. LIFT_CHAIN_DONE makes the lift idle and counts it. LIFT_RESUME sends a faulted lift back to its descriptor;
LIFT_ABORT makes a faulted lift idle at once and stops a running one at the end of its block. -/
def Obligations.LiftRowsComplete : Prop :=
  ∀ (l : Fin 40) (s : State), let d := s.dev
    let st := d.fld .LFT_STATUS_STATE l
    let x := d.lift l
    let off := d.fld .LFT_PROG_BYTES l
    (∀ (who : Agent) (v lo : Word), d.reaches who .LFT_DESC_HIGH l 0 true →
      d.loStage.get (pairKey who.mid (Reg.addr .LFT_DESC_LOW l)) = some lo → st = liftIdle → d.flag .LFT_STATUS_RING l = false →
      (if l.val < 32 then who.mid < 0x40 ∧ who.mid / 8 = l.val / 4 else who.mid = 0x40) →
      ∃ t, exec (.liftStart who l v) s = .next t ∧ t.pending = s.pending ∧ t.dev.fld .LFT_STATUS_STATE l = liftRunning ∧
        t.dev.fld .LFT_STATUS_OWNER_MID l = who.mid ∧ t.dev.fld .LFT_STATUS_OWNER_CTX l = who.ctx ∧ t.dev.fld .LFT_PROG_BYTES l = 0 ∧
        t.dev.reg64 .LFT_CUR_LOW .LFT_CUR_HIGH l = lo.toNat / 32 * 32 + v.toNat % 256 * 2 ^ 32 ∧ (t.dev.lift l).stage = .fetch ∧
        (t.dev.lift l).space = (if l.val < 32 then (d.ctx (ctxOf who.mid who.ctx)).space else 0) ∧ t.dev.mem = d.mem) ∧
    (st = liftRunning → x.stage = .fetch → d.flag .LFT_STATUS_RING l = false → d.bankWaits (d.reg64 .LFT_CUR_LOW .LFT_CUR_HIGH l) 32 = false →
      let r := d.physRead (liftMid l) (d.reg64 .LFT_CUR_LOW .LFT_CUR_HIGH l) 32
      let e := r.2.updLift l fun y => { y with desc := wordsOf 8 r.1.data, stage := .blocks }
      r.1.ue = false → e.descLegal l (e.lift l) = true →
      exec (.liftDescriptorFetch l) s = .next (s.withDev
        (if (e.lift l).len ≤ e.fld .LFT_PROG_BYTES l then e.liftDescEnd l else e).reapRuns)) ∧
    (st = liftRunning → x.stage = .blocks → x.srcPhys = true → x.dstPhys = true → x.op < 2 → off < x.len →
      let da := x.dst40 + off
      let sa := x.src40 + off
      let n := min (x.len - off) (64 - da % 64)
      let sound (a : Nat) : Prop := a < 0x8000000 ∧ d.bankServes (bankOf a) = true ∧ d.bankState (bankOf a) ≠ 4 ∧ d.errOf a = 0
      (∀ i < n, sound (da + i) ∧ (x.op = 0 → sound (sa + i))) →
      ∃ t, exec (.liftBlock l) s = .next t ∧ t.pending = s.pending ∧ (∀ a, a < da ∨ da + n ≤ a → t.dev.byte a = d.byte a) ∧
        (∀ i < n, t.dev.byte (da + i) = if x.op = 0 then d.byte (sa + i) else BitVec.ofNat 8 (x.word 5 / 256 ^ ((da + i) % 4))) ∧
        (off + n < x.len → t.dev.fld .LFT_PROG_BYTES l = off + n ∧ (t.dev.lift l).stage = .blocks) ∧
        (off + n = x.len → x.last = true → (t.dev.lift l).stage = .ended) ∧
        (off + n = x.len → x.last = false → (t.dev.lift l).stage = .fetch ∧ t.dev.fld .LFT_PROG_BYTES l = 0 ∧
          t.dev.reg64 .LFT_CUR_LOW .LFT_CUR_HIGH l = x.next40 / 32 * 32)) ∧
    (st = liftRunning → x.stage = .ended → ∃ t, exec (.liftChainDone l) s = .next t ∧ t.pending = s.pending ∧
      t.dev.fld .LFT_STATUS_STATE l = liftIdle ∧ t.dev.reg .LFT_DONE_CNT = min (d.reg .LFT_DONE_CNT + 1) 0xFFFFFFFF ∧ t.dev.mem = d.mem) ∧
    ∀ who : Agent, d.reaches who .LFT_CTRL l 0 true → d.liftMaster l who.mid who.ctx = true →
      (st = liftFaulted → ∃ t, exec (.liftResume who l) s = .next t ∧ t.pending = s.pending ∧
        t.dev.fld .LFT_STATUS_STATE l = liftRunning ∧ (t.dev.lift l).stage = .fetch ∧ t.dev.mem = d.mem) ∧
      (st = liftFaulted → ∃ t, exec (.liftAbort who l) s = .next t ∧ t.pending = s.pending ∧
        t.dev.fld .LFT_STATUS_STATE l = liftIdle ∧ t.dev.reg .LFT_ABORT_CNT = min (d.reg .LFT_ABORT_CNT + 1) 0xFFFFFFFF ∧ t.dev.mem = d.mem) ∧
      (st = liftRunning → x.stage ≠ .ended → ∃ t, exec (.liftAbort who l) s = .next t ∧ t.pending = s.pending ∧
        t.dev.fld .LFT_STATUS_STATE l = liftStopping ∧ t.dev.mem = d.mem)

/-! ### Mailboxes, doorbells, locks, MSI-X -/

/-- NOTICE_LOW_WRITE stages the word for its master and context. POST_COMMIT to a mailbox that is not FULL, with LEN not 0, stores the
staged word (0 where none is staged) and the high word as one notice with its poster, sets FULL, counts it and spends the staging; to a FULL
mailbox or with LEN 0 it is refused and the mailbox stays as it was; no other mailbox changes. The receiver's NOTICE_SNAPSHOT of a FULL
mailbox gives the low word and makes the snapshot; its NOTICE_TAKE with a snapshot gives the high word, clears FULL and ends the
snapshot; without one it gives 0 and takes nothing. MAILBOX_FLUSH by Patrol discards and counts the notice. DOORBELL_SET sets exactly the
bits named and counts those that were set, DOORBELL_CLEAR clears exactly those. MSIX_UNMASK sends the pending message of a vector whose
condition holds and drops that of one whose condition does not. LOCK_ACQUIRE of a free lock gives 0 and makes the reader's master the owner;
of a held one it gives the owner with bit 31 and changes no register; LOCK_RELEASE by the owner with 0 frees it, any other write is counted
and changes nothing else; LOCK_FORCE by Patrol frees a held lock. -/
def Obligations.MailboxRowsComplete : Prop :=
  ∀ (who : Agent) (m : Fin 256) (v : Word) (s : State), let d := s.dev
    let k := mbxKey who.mid who.ctx
    let run (i : Instr) (p : Dev → Prop) : Prop := ∃ t, exec i s = .next t ∧ t.pending = s.pending ∧ t.dev.mem = d.mem ∧ p t.dev
    let more (r : Reg) (n : Nat) (e : Dev) : Prop := e.reg r = min (d.reg r + n) 0xFFFFFFFF
    let others (e : Dev) : Prop := ∀ x < 256, x ≠ m.val → e.reg .MBX_NOTICE_LOW x = d.reg .MBX_NOTICE_LOW x ∧
      e.reg .MBX_NOTICE_HIGH x = d.reg .MBX_NOTICE_HIGH x ∧ e.reg .MBX_STATUS x = d.reg .MBX_STATUS x ∧ e.mbx.snap.get x = d.mbx.snap.get x
    (d.reaches who .MBX_NOTICE_LOW m 0 true → exec (.noticeLowWrite who m v) s = .next (s.withDev (d.mbxStage who.mid who.ctx v.toNat))) ∧
    (d.reaches who .MBX_NOTICE_HIGH m 0 true →
      (bits v.toNat 23 8 ≠ 0 → d.flag .MBX_STATUS_FULL m = false → run (.postCommit who m v) fun e =>
        e.reg .MBX_NOTICE_LOW m = ((d.mbx.low.get k).getD 0#32).toNat ∧ e.reg .MBX_NOTICE_HIGH m = v.toNat ∧
        e.flag .MBX_STATUS_FULL m = true ∧ e.fld .MBX_STATUS_SENDER_MID m = who.mid ∧ e.fld .MBX_STATUS_SENDER_CTX m = who.ctx ∧
        more .MBX_POST_CNT 1 e ∧ e.mbx.low.get k = none ∧ e.mbx.postRes.get k = 1 ∧ others e) ∧
      (bits v.toNat 23 8 = 0 ∨ d.flag .MBX_STATUS_FULL m = true → run (.postCommit who m v) fun e =>
        e.reg .MBX_NOTICE_LOW m = d.reg .MBX_NOTICE_LOW m ∧ e.reg .MBX_NOTICE_HIGH m = d.reg .MBX_NOTICE_HIGH m ∧
        e.reg .MBX_STATUS m = d.reg .MBX_STATUS m ∧ e.mbx.low.get k = none ∧
        e.mbx.postRes.get k = (if bits v.toNat 23 8 = 0 then 3 else 2) ∧ others e)) ∧
    (d.reaches who .MBX_NOTICE_LOW m 0 false → d.isReceiver m who.mid who.ctx = true → d.flag .MBX_STATUS_FULL m = true →
      exec (.noticeSnapshot who m) s = .next (s.withDev
        { d.mbxSnap m (.notice who.mid who.ctx) with rd := word (d.reg .MBX_NOTICE_LOW m) })) ∧
    (d.reaches who .MBX_NOTICE_HIGH m 0 false → d.isReceiver m who.mid who.ctx = true →
      (d.mbx.snap.get m = .notice who.mid who.ctx → run (.noticeTake who m) fun e => e.rd.toNat = d.reg .MBX_NOTICE_HIGH m ∧
        e.flag .MBX_STATUS_FULL m = false ∧ e.mbx.snap.get m = .none ∧ others e) ∧
      (d.mbx.snap.get m = .none → run (.noticeTake who m) fun e => e.rd = 0#32 ∧ more .MBX_MISUSE_CNT 1 e ∧
        e.reg .MBX_STATUS m = d.reg .MBX_STATUS m ∧ others e)) ∧
    (d.reaches who .MBX_FLUSH 0 0 true → who.mid = 0x40 → d.flag .MBX_STATUS_FULL m = true → run (.mailboxFlush who m) fun e =>
      e.flag .MBX_STATUS_FULL m = false ∧ e.mbx.snap.get m = .none ∧ more .MBX_FORCE_CNT 1 e ∧ others e) ∧
    (∀ t : Fin 32,
      (d.reaches who .MBX_DB_SET t 0 true → run (.doorbellSet who t v) fun e => e.reg .MBX_DB t = (d.reg .MBX_DB t ||| v.toNat) ∧
        (∀ x < 32, x ≠ t.val → e.reg .MBX_DB x = d.reg .MBX_DB x) ∧
        more .MBX_DB_COAL_CNT ((List.range 32).filter fun b => bit v.toNat b && bit (d.reg .MBX_DB t) b).length e) ∧
      (d.reaches who .MBX_DB t 0 true → run (.doorbellClear who t v) fun e => e.reg .MBX_DB t = (d.reg .MBX_DB t &&& (2 ^ 32 - 1 - v.toNat)) ∧
        (∀ x < 32, x ≠ t.val → e.reg .MBX_DB x = d.reg .MBX_DB x)) ∧
      (d.pcieUp = true → d.host.fnMask = false → bit d.host.pba t = true → (∀ x < 32, x ≠ t.val → bit d.host.pba x = false) →
        run (.msixUnmask (some t)) fun e => bit e.host.unmasked t = true ∧ bit e.host.pba t = false ∧
          more .HST_MSIX_CNT (b2n (d.msixCond t)) e) ∧
      (d.pcieUp = true → d.host.fnMask = true → bit d.host.pba t = true → bit d.host.unmasked t = true →
        (∀ x < 32, x ≠ t.val → bit d.host.pba x = false) →
        run (.msixUnmask none) fun e => e.host.fnMask = false ∧ bit e.host.pba t = false ∧ more .HST_MSIX_CNT (b2n (d.msixCond t)) e)) ∧
    (d.reaches who .MBX_LOCK m 0 false →
      (d.flag .MBX_LOCK_HELD m = false → run (.lockAcquire who m) fun e => e.rd = 0#32 ∧ e.flag .MBX_LOCK_HELD m = true ∧
        e.fld .MBX_LOCK_OWNER m = who.mid ∧ ∀ x < 256, x ≠ m.val → e.reg .MBX_LOCK x = d.reg .MBX_LOCK x) ∧
      (d.flag .MBX_LOCK_HELD m = true → exec (.lockAcquire who m) s = .next (s.withDev
        { d with rd := word (0x80000000 + d.fld .MBX_LOCK_OWNER m) }))) ∧
    (d.reaches who .MBX_LOCK m 0 true →
      let own := v = 0#32 ∧ d.flag .MBX_LOCK_HELD m = true ∧ d.fld .MBX_LOCK_OWNER m = who.mid
      (own → exec (.lockRelease who m v) s = .next (s.withDev (d.setReg .MBX_LOCK 0 m))) ∧
      (¬ own → exec (.lockRelease who m v) s = .next (s.withDev (d.count .MBX_LOCK_REFUSE_CNT)))) ∧
    (d.reaches who .MBX_LOCK_FORCE 0 0 true → who.mid = 0x40 → d.flag .MBX_LOCK_HELD m = true → run (.lockForce who m) fun e =>
      e.flag .MBX_LOCK_HELD m = false ∧ more .MBX_FORCE_CNT 1 e ∧ ∀ x < 256, x ≠ m.val → e.reg .MBX_LOCK x = d.reg .MBX_LOCK x)

/-! ### MACs, lanes, PHYs, traverse -/

/-- FRAME_RECEIVE on a MAC that receives: a frame of 64 bytes up to MAXLEN with a correct FCS and no length error counts in RX_OK and goes,
stamped, to the unit that takes it; a shorter, longer or damaged one only counts; in loopback the oldest frame of its own comes back. MAC_CONTROL_FRAME with RX_EN takes the
pause time of a PAUSE frame. PAUSE_EXPIRY ends it; PAUSE_REFRESH repeats the frame of an assertion. EGRESS_SELECTION takes the oldest copy of
the highest eligible class. FRAME_TRANSMIT of a selected copy sends the frame, read from its cells, with a new FCS; FRAME_TRANSMIT_DONE ends
the copy, counts it and lets the flow-control frames go that waited for it. LINK_CHANGE and LANE_LOCK_CHANGE show what the line does where
lane, PHY and MAC serve; a PHY keeps its link while its MAC is in PORT reset; TPHY_RESTART drops the link. TRAVERSE_FRAME: the SFD begins a
frame; its bytes come into the ring of the bound engine; a sample takes them from the ring, as the engine left them, or unchanged where the
engine does not run; at its end a good frame leaves on the port where its transmission began, else on the other of the pair, as sampled, with its own FCS or a
new one. -/
def Obligations.PortRowsComplete : Prop :=
  ∀ (n : Fin 28) (s : State), let d := s.dev
    let out (d : Dev) : Host.Outcome State Fault Refusal := .next (s.withDev d)
    let next (i : Instr) (p : Dev → Prop) : Prop := ∃ t, exec i s = .next t ∧ t.pending = s.pending ∧ p t.dev
    (∀ (f : List Byte) (cut : Bool) (sec : Option SecRx) (ago gap : BitVec 32), d.macReceives n = true →
      let max := d.fld .MAC_CFG_MAXLEN n
      let run := exec (.frameReceive n f cut sec ago gap) s
      (d.looped n = false →
        let g := (d.secLook n f sec).1
        let tag := (d.secLook n f sec).2
        (64 ≤ g.length → g.length ≤ max → cut = false → lineFcsOk g tag = true → tag.isSome = true ∨ Frame.lenError g = false →
          run = out ((d.count .MAC_RX_OK_CNT n).macAccept n g tag (d.ingressStamp n ago.toNat) ago.toNat gap.toNat)) ∧
        (g.length < 64 → run = out (d.count .MAC_RUNT_CNT n)) ∧ (64 ≤ g.length → max < g.length → run = out (d.count .MAC_GIANT_CNT n)) ∧
        (64 ≤ g.length → g.length ≤ max → cut = true ∨ lineFcsOk g tag = false → run = out (d.count .MAC_FCS_CNT n))) ∧
      (d.looped n = true → ((d.macSt n).loop = [] → run = .next s) ∧ ∀ x l, (d.macSt n).loop = x :: l →
        run = out ((d.updMac n fun m => { m with loop := l }).macTake n x.bytes x.err x.sec ago.toNat gap.toNat))) ∧
    (∀ (f : List Byte) (ago : BitVec 32), d.macReceives n = true → d.looped n = false → 64 ≤ f.length → f.length ≤ d.fld .MAC_CFG_MAXLEN n →
      Frame.fcsOk f = true → Frame.lenError f = false → Frame.etype f = 0x8808 → Frame.be f (Frame.typeAt f + 2) 2 = 1 →
      d.flag .MAC_FC_CFG_RX_EN n = true →
      let q := Frame.be f (Frame.typeAt f + 4) 2
      exec (.macControlFrame n f ago) s = out (((((d.count .MAC_RX_OK_CNT n).count .MAC_RX_PAUSE_CNT n).updMac n fun m =>
        { m with quanta := q }).setFlag .MAC_STATUS_PAUSED (q != 0) n).selStopped n)) ∧
    (exec (.pauseExpiry n none) s = out ((d.updMac n fun m => { m with quanta := 0 }).setFlag .MAC_STATUS_PAUSED false n)) ∧
    (∀ c : Fin 8, exec (.pauseExpiry n (some c)) s = out ((d.updMac n fun m => { m with pfcQuanta := m.pfcQuanta.set c 0 }).setFld
      .MAC_STATUS_PFC_PAUSED (putBit (d.fld .MAC_STATUS_PFC_PAUSED n) c false) n)) ∧
    (d.fld .MAC_FC_CFG_MODE n = 1 → d.flag .SWC_PORTBP_XOFF n = true →
      exec (.pauseRefresh n) s = out (d.sendPause n (d.fld .MAC_FC_TIME_QUANTA n))) ∧
    (∀ (lead dt : BitVec 32) (c : Nat) (k : Copy),
      let m := d.creditStep n dt.toNat
      let e := m.oversize n
      (m.macSt n).sel = none → m.macSends n = true → m.traverse n = false → lead.toNat ≤ m.fld .SWC_TXCFG_LEAD_NS → c < 8 →
      e.eligible n c lead.toNat = true → (∀ x, c < x → x < 8 → e.eligible n x lead.toNat = false) → e.headCopy n c = some k →
      (e.dequeue n k).txLen n k ≤ (e.dequeue n k).fld .MAC_CFG_MAXLEN n →
      exec (.egressSelection n lead dt) s = out ((e.dequeue n k).updMac n fun m => { m with sel := some k })) ∧
    (∀ (late : Bool) (dt : BitVec 32) (c : Copy),
      let m := d.creditStep n dt.toNat
      let e := m.updMac n fun m => { m with sel := none }
      let x := e.frame c.cell
      let r := Dev.readCells x.cells x.flen e
      (m.macSt n).sel = some c → (m.macSt n).tx = none → m.macSends n = true → d.traverse n = false → m.stopped n c.cls = false → r.1.ue = false →
      d.fld .TMU_PORT_TC_MODE n = 0 → d.flag .MAC_SEC_CFG_EN n = false → (∀ a, c.red ≠ .slmOwn a) → c.red ≠ .slmFwd →
      next (.frameTransmit n late dt) fun t => (t.macSt n).tx = some c ∧ (t.macSt n).sel = none ∧
        (t.macSt n).last = some ⟨(r.2.txBody n x c.red r.1.data).withFcs, none, false⟩ ∧ t.flag .MAC_STATUS_TX_IDLE n = false) ∧
    (∀ (dt : BitVec 32) (c : Copy),
      let m := d.creditStep n dt.toNat
      (m.macSt n).tx = some c → exec (.frameTransmitDone n dt) s = out
        (((((m.updMac n fun m => { m with tx := none }).setFlag .MAC_STATUS_TX_IDLE true n).endCopy c.cell n).count .MAC_TX_OK_CNT n).controlGo n)) ∧
    (∀ (up : Bool) (speed : Fin 8) (t : TphyLine),
      let line := if n.val < 20 then d.laneUp n && (!d.inBand n || up) else up && d.laneServes n && !bit d.sys.deadPhys (n - 20)
      let serves := line && !d.flag .MAC_CTRL_RESET n
      next (.linkChange n up speed t) fun e => e.flag .MAC_STATUS_LINK n = serves ∧
        (serves = true → e.fld .MAC_STATUS_SPEED n = d.lineSpeed n speed) ∧
        (serves ≠ d.flag .MAC_STATUS_LINK n → e.reg .MAC_LINK_CHG_CNT n = min (d.reg .MAC_LINK_CHG_CNT n + 1) 0xFFFFFFFF) ∧
        (20 ≤ n.val → e.flag .TPHY_STATUS_LINK (n - 20) = line)) ∧
    (∀ (l : Fin 10) (lock sync an : Bool) (errs : BitVec 32),
      let runs := d.fld .SDS_CFG_MODE l != 0 && !d.flag .SDS_CTRL_RESET l && !bit d.sys.deadLanes l
      next (.laneLockChange l lock sync an errs) fun e => e.flag .SDS_STATUS_LOCK l = (lock && runs) ∧
        e.flag .SDS_STATUS_SYNC l = (sync && runs) ∧
        (∀ k < 20, laneOf k = some l.val → (sync && runs) = false → e.flag .MAC_STATUS_LINK k = false) ∧
        (∀ k < 20, laneOf k = some l.val → (sync && runs) = true → d.laneServes k = true → d.inBand k = false →
          d.flag .MAC_CTRL_RESET k = false → d.fld .SDS_CFG_MODE l ≠ 1 ∨ d.flag .SDS_CFG_AN_EN l = false ∨ an = true →
          e.flag .MAC_STATUS_LINK k = true)) ∧
    (∀ (who : Agent) (k : Fin 8), d.reaches who .TPHY_CTRL k 0 true → d.flag .TPHY_CFG_EN k = true →
      next (.tphyRestart who k) fun e => e.flag .TPHY_STATUS_LINK k = false ∧ e.flag .MAC_STATUS_LINK (20 + k) = false) ∧
    let b := travBase n
    let r := d.travRing n
    let ring (k : Nat) : Nat := dmemBase r.1 r.2.1 + r.2.2 + k % 0x800
    d.looped n = false →
    (∀ ago : BitVec 32, d.traverse n = true → d.flag .MAC_CFG_EN_RX n = true → d.travUp n = true → d.flag .MAC_CTRL_RESET n = false →
      (d.macSt n).travOn = false → next (.traverseFrame n (some ago) [] 0 false false) fun e => (e.macSt n).travOn = true ∧ e.mem = d.mem ∧
        (e.macSt n).trav = some ⟨(d.macSt n).ringPos, d.ingressStamp n ago.toNat, d.fld .MAC_CFG_MAXLEN n, [], [], false, none⟩) ∧
    ∀ t : Trav, (d.macSt n).travOn = true → (d.macSt n).trav = some t →
      let i := t.out.length
      (∀ l : List Byte, d.rinkOn r.1 = true → t.rx.length + l.length ≤ t.maxlen → l.length ≤ 0x800 →
        next (.traverseFrame n none l 0 false false) fun e => (e.macSt n).trav = some { t with rx := t.rx ++ l } ∧
          (∀ k < l.length, e.byte (ring (t.start + t.rx.length + k)) = l.getD k 0#8) ∧ ∀ a, (∀ k, a ≠ ring k) → e.byte a = d.byte a) ∧
      (∀ k : BitVec 12, next (.traverseFrame n none [] k false false) fun e => e.mem = d.mem ∧
        (e.macSt n).trav = some { (if k = 0#12 ∨ t.begun = true then t else { t with begun := true, port := d.travPort n }) with out := t.out ++
        (if d.travRuns n = true then (List.range (min k.toNat (t.rx.length - i))).map fun j => d.byte (ring (t.start + i + j))
         else (t.rx.drop i).take k.toNat) }) ∧
      (∀ p, i = t.rx.length → 64 ≤ i → i ≤ t.maxlen → Frame.fcsOk t.rx = true → d.travUp p = true →
        t.begun = true ∧ t.port = some p ∨ t.begun = false ∧ p = 2 * b + 1 - n.val ∧ d.flag .MAC_CFG_EN_TX p = true ∧
          d.flag .MAC_CTRL_RESET p = false ∧ d.txHeld = false →
        next (.traverseFrame n none [] 0 true false) fun e => (e.macSt n).travOn = false ∧ (e.macSt p).last = some ⟨t.out.take (i - 4) ++
          (if d.flag .MAC_TRAV_FCS_REGEN b = true then leBytes 4 (crc32 (t.out.take (i - 4))) else t.rx.drop (i - 4)), none, false⟩)

/-! ### The switch core -/

/-- DOWN_FLUSH of a MAC without link ends its queued copies. FDB_AGING removes a dynamic entry and leaves a static one;
DUP_ENTRY_FORGET and SEQ_RECOVERY_RESET drop what they name. The five table commands, not BUSY, do what their OP says on the
table, index or key, and TBL_DONE shows result and index; a command while BUSY is counted and has no other effect. COPY_DELIVERY hands the oldest copy of a class
to a rink as a job or to Patrol or the host as a notice, and the port holds it, from the entry of its push on where that waits; COPY_RELEASE of a held copy ends it, of another is counted.
INJECT_COMMIT of a legal descriptor queues it; INJECTION_START reads the source and forwards the frame. GCL_CYCLE_START at its instant starts
the next cycle, unless a switch to the other bank falls due then; GCL_ENTRY_CHANGE shows the entry in force; GCL_SWITCH_ARM arms the other bank, which GCL_SWITCH makes the operating one. -/
def Obligations.SwitchRowsComplete : Prop :=
  ∀ (n : Fin 28) (who : Agent) (v : Word) (s : State), let d := s.dev
    let out (d : Dev) : Host.Outcome State Fault Refusal := .next (s.withDev d)
    let next (i : Instr) (p : Dev → Prop) : Prop := ∃ t, exec i s = .next t ∧ t.pending = s.pending ∧ p t.dev
    (d.flag .MAC_STATUS_LINK n = false → d.fld .SWC_CFG_DOWN_FLUSH_MS ≠ 0 → next (.downFlush n) fun e => e.swc.egr.get n = [] ∧
      (e.macSt n).sel = none) ∧
    (∀ i : BitVec 15, let e := d.swc.fdb.get i.toNat
      (e.valid = true → e.isStatic = false → d.fld .SWC_AGE_CFG_AGE_S ≠ 0 → exec (.fdbAging i) s = out (d.setFdb i.toNat default)) ∧
      (e.isStatic = true ∨ d.fld .SWC_AGE_CFG_AGE_S = 0 → exec (.fdbAging i) s = .next s)) ∧
    (∀ (r : Fin 4) (a : BitVec 48) (q : BitVec 16), exec (.dupEntryForget r a q) s =
      out (d.updSwc fun w => { w with dup := w.dup.upd r (·.erase (a.toNat * 2 ^ 16 + q.toNat)) })) ∧
    (∀ k : BitVec 10, exec (.seqRecoveryReset k) s = out (d.updSwc fun w => { w with rec_ := w.rec_.set k.toNat default })) ∧
    (d.reaches who .SWC_TBL_CMD 0 0 true →
      let p := d.plain .SWC_TBL_CMD v.toNat
      let t := bits v.toNat 2 0
      let i := bits v.toNat 31 16
      let op := bits v.toNat 5 3
      let keyed := t = 0 ∨ t = 3
      (∀ c k, (c, k) ∈ [(Instr.tblRead who v, 0), (.tblWrite who v, 1), (.tblLookup who v, 2), (.tblInsert who v, 3), (.tblDelete who v, 4)] →
        op = k → d.flag .SWC_TBL_STATUS_BUSY = true → exec c s = out
          (if bits v.toNat 15 6 = 0 then d.count .SWC_TBL_REFUSE_CNT else (d.count .SWC_TBL_REFUSE_CNT).refuseWrite .SWC_TBL_CMD)) ∧
      (d.flag .SWC_TBL_STATUS_BUSY = false → t < 4 →
        (op = 0 → i < tblSize t → exec (.tblRead who v) s = out ((p.tblShow (p.tblGet t i)).tblRun 0 i)) ∧
        (op = 1 → i < tblSize t → exec (.tblWrite who v) s = out ((p.tblSet t i p.tblData).tblRun 0 i)) ∧
        (∀ k, keyed → op = 2 → p.tblFind t p.tblData = some k → exec (.tblLookup who v) s = out ((p.tblShow (p.tblGet t k)).tblRun 0 k)) ∧
        (keyed → op = 2 → p.tblFind t p.tblData = none → exec (.tblLookup who v) s = out (p.tblRun 1 0)) ∧
        (∀ k, keyed → op = 3 → p.tblFind t p.tblData = some k → exec (.tblInsert who v) s = out ((p.tblSet t k p.tblData).tblRun 0 k)) ∧
        (∀ k e, keyed → op = 3 → p.tblFind t p.tblData = none → p.tblFree t p.tblData = (some k, e) →
          exec (.tblInsert who v) s = out ((e.tblSet t k e.tblData).tblRun 0 k)) ∧
        (∀ k, keyed → op = 4 → p.tblFind t p.tblData = some k → exec (.tblDelete who v) s = out ((p.tblSet t k default).tblRun 0 k)) ∧
        (keyed → op = 4 → p.tblFind t p.tblData = none → exec (.tblDelete who v) s = out (p.tblRun 1 0)))) ∧
    (d.flag .SWC_TBL_STATUS_BUSY = true → exec .tblDone s = out (((d.setFlag .SWC_TBL_STATUS_BUSY false).setFld .SWC_TBL_STATUS_RESULT
      d.swc.tblRes).setFld .SWC_TBL_STATUS_INDEX d.swc.tblIdx)) ∧
    (∀ (p : Fin 10) (cls : Fin 8) (c : Copy) (rest : List Copy), d.heldCells (28 + p) < d.fld .SWC_IPORT_HOLD_MAX p →
      d.portWaits (28 + p) = false → takeCopy cls (d.swc.egr.get (28 + p)) = some (c, rest) →
      let h : Held := ⟨c.cell, c.pm.isSome, none, []⟩
      (∀ e r, p.val < 8 → d.push p (d.copyJob (28 + p) c) (some (.swc (28 + p) c.pm.isSome)) = (r, e) → r ≠ .refused →
        exec (.copyDelivery p cls) s = out (e.updSwc fun w => { w with
          egr := w.egr.set (28 + p) rest, held := if r = .accepted then w.held.upd (28 + p) (· ++ [h]) else w.held })) ∧
      (∀ m, 8 ≤ p.val → (d.frame c.cell).flen < 0x4000 → d.freeMbox (28 + p) = some m → next (.copyDelivery p cls) fun e => e.flag .MBX_STATUS_FULL m = true ∧
        e.reg .MBX_NOTICE_LOW m = c.cell % 2 ^ 32 ∧ h ∈ e.swc.held.get (28 + p) ∧ e.swc.egr.get (28 + p) = rest)) ∧
    (d.reaches who .SWC_FREE 0 0 true →
      let f := d.plain .SWC_FREE v.toNat
      ∀ p, portOfMid who.mid = some p →
        let own (h : Held) : Bool := h.cell == bits v.toNat 26 0
        ((∃ h ∈ d.swc.held.get p, own h = true) → exec (.copyRelease who v) s = out ((f.updSwc fun w =>
          { w with held := w.held.upd p (List.eraseP own) }).endCopy (bits v.toNat 26 0) p)) ∧
        ((∀ h ∈ d.swc.held.get p, own h = false) → exec (.copyRelease who v) s = out (f.count .SWC_FREE_BAD_CNT))) ∧
    (d.reaches who .SWC_INJ 3 0 true → ∀ p a b c x, portOfMid who.mid = some p → d.swc.injStage.get (who.mid * 4 + who.ctx) = [a, b, c, x] →
      let j : InjD := ⟨a, b, c, v.toNat, tb40 (d.copyVal islSwitch 0)⟩
      injLegal p j = true → (d.swc.inj.get p).length < 64 → next (.injectCommit who v) fun e => e.swc.inj.get p = d.swc.inj.get p ++ [j] ∧
        e.swc.injRes.get (who.mid * 4 + who.ctx) = 1 ∧ e.mem = d.mem) ∧
    (∀ (p : Fin 10) (gap : BitVec 32) (j : InjD) (rest : List InjD), d.swc.inj.get (28 + p) = j :: rest →
      let len := bits j.w1 21 8
      let a := j.w0 + bits j.w1 7 0 * 2 ^ 32
      let r := (d.updSwc fun w => { w with inj := w.inj.set (28 + p) rest }).physRead 0x70 a len
      d.credit (28 + p) (bits j.w1 24 22) (cellsFor len) = true → rangeOf a = .shared → rangeOf (a + len - 1) = .shared →
      r.1.ue = false → bit j.w2 18 = false →
      exec (.injectionStart p gap) s = out (r.2.forward (28 + p) r.1.data (some j) j.ts 0 gap.toNat)) ∧
    (let g := d.swc.gcl.get n
     let b := d.fld .SWC_GCL_STAT_OPER_BANK n
     let at_ (t : Nat) : Prop := d.dueAt islSwitch (d.fld .SWC_GCL_CFG_TB n) t = .due
     (d.domOn .swc = true → d.flag .SWC_GCL_CFG_EN n = true → at_ g.next →
        d.flag .SWC_GCL_STAT_PENDING n = false ∨ g.switchAt ≠ g.next → next (.gclCycleStart n) fun e => e.swc.gcl.get n =
        { g with started := true, start := g.next, next := (g.next + d.reg .SWC_GCL_CYCLE n b) % 2 ^ 32 }) ∧
     (d.flag .SWC_GCL_CFG_EN n = true → g.started = true → exec (.gclEntryChange n) s =
        out (d.gclShow n (min (sub32 (d.gclNow n) g.start) (d.reg .SWC_GCL_CYCLE n b - 1)))) ∧
     (d.reaches who .SWC_GCL_SW n 0 true →
        (d.flag .SWC_GCL_CFG_EN n = false → next (.gclSwitchArm who n v) fun e => e.fld .SWC_GCL_STAT_OPER_BANK n = v.toNat % 2) ∧
        (d.flag .SWC_GCL_CFG_EN n = true → b ≠ v.toNat % 2 → next (.gclSwitchArm who n v) fun e =>
          e.flag .SWC_GCL_STAT_PENDING n = true ∧ e.fld .SWC_GCL_STAT_OPER_BANK n = b) ∧
        (d.flag .SWC_GCL_CFG_EN n = true → b = v.toNat % 2 → exec (.gclSwitchArm who n v) s = out (d.misuse .SWC))) ∧
     (d.flag .SWC_GCL_CFG_EN n = true → d.flag .SWC_GCL_STAT_PENDING n = true → at_ g.switchAt → next (.gclSwitch n) fun e =>
        e.fld .SWC_GCL_STAT_OPER_BANK n = 1 - b ∧ e.flag .SWC_GCL_STAT_PENDING n = false ∧ (e.swc.gcl.get n).start = g.switchAt))

/-- A frame that sequence recovery has taken is rejected when it arrives again at once, and so is one 32 or more numbers off; a frame
that an instance has let pass is a duplicate when it arrives again, and the duplicate table keeps at most 1,024 entries. A meter never lacks
more than its bucket holds, and takes a frame exactly when it has the tokens. A cell returns to headroom first, then to the pool, then to
guaranteed, and always exactly one of those held, and its class never holds more cells of the pool than cells. A table entry written reads back in the bits that the table has, and no other entry
changes. -/
def Obligations.SwitchAccountsHold : Prop :=
  (∀ (r : SeqRec) (q : Nat), q < 65536 → r.recSeq < 65536 → ((r.accept q).2 = true → ((r.accept q).1.accept q).2 = false) ∧
    (r.taken = true → 32 ≤ (q + 65536 - r.recSeq) % 65536 → (q + 65536 - r.recSeq) % 65536 ≤ 65536 - 32 → r.accept q = (r, false))) ∧
  (∀ (d : Dev) (r : Nat) (f : Frame) (q : Nat), r < 4 → d.redSeq r f = some q → (d.dupCheck r f).1 = false →
    ((d.dupCheck r f).2.dupCheck r f).1 = true ∧
    ((d.swc.dup.get r).length ≤ 1024 → ((d.dupCheck r f).2.swc.dup.get r).length ≤ 1024)) ∧
  (∀ (e : TblE) (lacks gap n : Nat),
    let full := e.cbs * 64 * 8 * 1000000
    let now := lacks - e.cir * 64 * gap
    (lacks ≤ full → (e.meterTake lacks gap n).1 ≤ full) ∧ ((e.meterTake lacks gap n).2 = true ↔ now + n * 8 * 1000000 ≤ full) ∧
    ((e.meterTake lacks gap n).2 = false → (e.meterTake lacks gap n).1 = now)) ∧
  (∀ (u : PortUse) (c : Nat), let x := u.freeCell c false
    (0 < u.hdrm → x.hdrm + 1 = u.hdrm ∧ x.pool = u.pool ∧ x.guar = u.guar) ∧
    (u.hdrm = 0 → 0 < u.pool → x.hdrm = 0 ∧ x.pool + 1 = u.pool ∧ x.guar = u.guar) ∧
    (u.hdrm = 0 → u.pool = 0 → 0 < u.guar → x.hdrm = 0 ∧ x.pool = 0 ∧ x.guar + 1 = u.guar) ∧ x.sched = u.sched ∧
    (0 < u.cls.get c → x.cls.get c + 1 = u.cls.get c) ∧ (∀ k, k ≠ c → x.cls.get k = u.cls.get k) ∧ (u.clsPool.get c ≤ u.cls.get c → x.clsPool.get c ≤ x.cls.get c)) ∧
  ∀ (d : Dev) (t i k : Nat) (e : TblE), t < 4 → let m := tblMask t
    (d.tblSet t i e).tblGet t i = ⟨e.d0 &&& m.d0, e.d1 &&& m.d1, e.d2 &&& m.d2, e.d3 &&& m.d3⟩ ∧
    (k ≠ i → (d.tblSet t i e).tblGet t k = d.tblGet t k) ∧ (∀ u < 4, u ≠ t → (d.tblSet t i e).tblGet u k = d.tblGet u k)

/-! ### Time bases, servos, time-stamps, time pins -/

/-- A step on the empty queue, outside a POR or PIN reset, advances every time base that no adjustment has advanced by INCR modulo 2^60, and
changes no memory where no capture record and no counter of firmware waits to be written. TB_WRAP is such a tick at which a time base
carries. TB_SET and TB_STEP put the time base at the staged value, or move it by it, count it and leave every copy of the islands as it was
until TB_COPY_UPDATE brings a copy the oldest change on its way; a second one in a tick waits for the next. TB_READ gives NS and latches
FRAC of the same instant. OFFSET_SAMPLE and SERVO_SAMPLE within the step threshold count, show the sample and set INCR within LIM of NOM;
HOLD_TIMEOUT goes to HOLDOVER once HOLD_MS has run with no accepted sample, and not before. TIME_INPUT_EDGE appends the capture, or counts it
where eight wait. EVT_READ and TXTS_READ take the oldest entry. REF10_WINDOW_END ends the window, and the next starts with the next edge;
TIME_OUTPUT_EDGE makes the edge whose target is reached, and the next target leaves out those passed by a step; REF10_PRESENCE_CHANGE shows it. -/
def Obligations.TimeRowsComplete : Prop :=
  ∀ (n : Fin 4) (who : Agent) (v : Word) (s : State), let d := s.dev
    let run (i : Instr) (p : Dev → Prop) : Prop := ∃ t, exec i s = .next t ∧ t.pending = s.pending ∧ t.dev.mem = d.mem ∧ p t.dev
    let incr := d.reg .TMU_TB_INCR n
    let kept (e : Dev) : Prop := ∀ isl < 11, e.copyVal isl n = d.copyVal isl n
    let stepped (e : Dev) : Prop := e.reg .TMU_STEP_CNT n = min (d.reg .TMU_STEP_CNT n + 1) 0xFFFFFFFF ∧ kept e
    let steered (th : Int) (e : Dev) : Prop := e.reg .TMU_SAMPLE_CNT n = min (d.reg .TMU_SAMPLE_CNT n + 1) 0xFFFFFFFF ∧
      e.reg .TMU_SRV_LAST n = unsign 32 th ∧ e.tbVal n = (d.tbVal n + incr) % 2 ^ 60 ∧
      ∃ adj : Int, adj.natAbs ≤ d.fld .TMU_SRV_LIM_LIM n ∧ e.reg .TMU_TB_INCR n = unsign 32 (d.reg .TMU_TB_NOM n + adj)
    let small (th : Int) : Prop := th.natAbs ≤ d.fld .TMU_SRV_THR_STEP_THR n * 256000
    let quiet : Prop := d.sys.resetRun ≠ some .POR ∧ d.sys.resetRun ≠ some .PIN ∧ d.tmu.defer = [] ∧ d.swc.capQ = [] ∧ d.pers.counts = []
    let ticked (e : Dev) : Prop := ∀ k < 4, e.tbVal k =
      if d.tmu.adv.get k = true then d.tbVal k else (d.tbVal k + d.reg .TMU_TB_INCR k) % 2 ^ 60
    (s.pending = [] → quiet → ∃ t, step s = .next t ∧ t.pending = [] ∧ t.dev.mem = d.mem ∧ ticked t.dev) ∧
    (d.tbCarries n = true → quiet → run (.tbWrap n) ticked) ∧
    (∀ lo : Word, d.reaches who .TMU_TB_HIGH n 0 true → d.loStage.get (pairKey who.mid (Reg.addr .TMU_TB_LOW n)) = some lo →
      (d.tmu.adv.get n = false → run (.tbSet who n v) fun e => e.tbVal n = lo.toNat * 2 ^ 28 + v.toNat % 256 * 2 ^ 20 ∧ stepped e) ∧
      (d.tmu.adv.get n = true → run (.tbSet who n v) fun e => e.tbVal n = d.tbVal n ∧
        e.tmu.defer = d.tmu.defer ++ [(n.val, .set lo.toNat (v.toNat % 256))])) ∧
    (∀ lo : Word, d.reaches who .TMU_TB_STEP_HIGH n 0 true → d.loStage.get (pairKey who.mid (Reg.addr .TMU_TB_STEP_LOW n)) = some lo →
      d.tmu.adv.get n = false → run (.tbStep who n v) fun e =>
        e.tbVal n = (d.tbVal n + incr + lo.toNat * 2 ^ 28 + v.toNat % 256 * 2 ^ 20) % 2 ^ 60 ∧ stepped e) ∧
    (d.reaches who .TMU_TB_LOW n 0 false → exec (.tbRead who n) s = .next (s.withDev
      { d.setLatch (pairKey who.mid (Reg.addr .TMU_TB_LOW n)) (some (word (tbFrac (d.tbVal n)))) with rd := word (tbNs (d.tbVal n)) })) ∧
    (∀ isl : Fin 11, (d.tmu.copies.get (isl * 4 + n) = [] → exec (.tbCopyUpdate isl n) s = .next s) ∧
      ∀ c l, d.tmu.copies.get (isl * 4 + n) = c :: l → run (.tbCopyUpdate isl n) fun e =>
        e.copyVal isl n = (match l with | [] => d.tbVal n | x :: _ => x.v) ∧ ∀ k, e.tbVal k = d.tbVal k) ∧
    (d.reaches who .TMU_TB_OFS n 0 true → d.tmu.adv.get n = false →
      (d.srvTakes n 1 = true → small (signed 32 v.toNat) → run (.offsetSample who n v) (steered (signed 32 v.toNat))) ∧
      (d.srvTakes n 1 = false → exec (.offsetSample who n v) s = .next (s.withDev (d.count .TMU_OFS_REFUSE_CNT n)))) ∧
    (∀ (src : Fin 8) (th : BitVec 40), d.srvTakes n src = true → d.tmu.adv.get n = false → small th.toInt →
      run (.servoSample n src th) (steered th.toInt)) ∧
    (let late : Prop := d.fld .TMU_SRV_CFG_HOLD_MS n * 500000 ≤ d.tmu.hold.get n
     d.fld .TMU_SRV_STAT_STATE n ∈ [srvAcq, srvLocked] →
      (late → d.tmu.adv.get n = false → run (.holdTimeout n) fun e => e.fld .TMU_SRV_STAT_STATE n = srvHold ∧ e.tbVal n = d.tbVal n ∧ kept e) ∧
      (¬ late → exec (.holdTimeout n) s = .next s)) ∧
    (∀ (rise : Bool) (w : BitVec 32), d.fld .TMU_EVT_CFG_MINW n ≤ w.toNat → bit (d.fld .TMU_EVT_CFG_EDGE n) (if rise then 0 else 1) = true →
      let x := d.tbVal (d.fld .TMU_EVT_CFG_TB n)
      run (.timeInputEdge n rise w) fun e => if (d.tmu.evt.get n).length < 8 then e.tmu.evt.get n = d.tmu.evt.get n ++ [⟨tbNs x, tbFrac x, rise⟩]
        else e.tmu.evt.get n = d.tmu.evt.get n ∧ e.reg .TMU_EVT_OVF_CNT n = min (d.reg .TMU_EVT_OVF_CNT n + 1) 0xFFFFFFFF) ∧
    (∀ x l, d.tmu.evt.get n = x :: l → d.reaches who .TMU_EVT_LOW n 0 false → run (.evtRead who n) fun e =>
      e.rd = word x.ns ∧ e.hiLatch.get (pairKey who.mid (Reg.addr .TMU_EVT_LOW n)) = some (word x.high) ∧ e.tmu.evt.get n = l) ∧
    (∀ (m : Fin 28) x l, d.tmu.txts.get m = x :: l → d.reaches who .TMU_TXTS_LOW m 0 false → run (.txtsRead who m) fun e =>
      e.rd = word x.ns ∧ e.hiLatch.get (pairKey who.mid (Reg.addr .TMU_TXTS_LOW m)) = some (word x.high) ∧ e.tmu.txts.get m = l) ∧
    (d.tmu.refRuns = true → d.flag .TMU_STATUS_REF10_PRESENT = true → (∀ k < 4, d.fld .TMU_SRV_CFG_SRC k ≠ 4) →
      exec .ref10WindowEnd s = .next (s.withDev
        { d with tmu := { d.tmu with refRuns := false, refWait := 50 } })) ∧
    (let o := d.tmu.outs.get n
     d.flag .TMU_OUT_CFG_EN n = true →
      (o.pulse = false → o.next ≤ 0 → exec (.timeOutputEdge n) s = .next (s.withDev (d.updOut n fun _ =>
        ⟨o.k + 1 + o.skips, true, o.next + (1 + o.skips) * d.outPer n, o.next + d.reg .TMU_OUT_HIGH n * 256, 0⟩))) ∧
      (o.pulse = true → o.fall ≤ 0 → exec (.timeOutputEdge n) s = .next (s.withDev (d.updOut n fun x => { x with pulse := false }))) ∧
      (0 < (if o.pulse = true then o.fall else o.next) → exec (.timeOutputEdge n) s = .next s)) ∧
    ∀ on, run (.ref10PresenceChange on) fun e => e.flag .TMU_STATUS_REF10_PRESENT = on ∧ e.tmu.refRuns = on

/-! ### The Slalom controller -/

/-- SLM_ENABLE and SLM_DISABLE go to LISTEN with ATTEMPT 0 and to OFF. LISTEN_TIMEOUT coldstarts with cycle 0 where that is allowed and else
counts the attempt modulo 10. SLALOM_CYCLE_START starts the next cycle number where the running one ends, on the armed bank where the switch
is due; an ACTIVE device mutes there instead where too few nodes have been accepted in as many consecutive cycles as LOSS_CYCLES says. SCHEDULE_SWITCH_ARM for a cycle ahead arms the other bank, any other is counted. GATE_PICKUP takes the payload of an own gate for the cycle, the running or the next, for which it is due;
GATE_SEND queues its frame once. SLALOM_FRAME_RECEIVE of a good frame takes it to the controller, which accepts a frame only within its
window, of the right schedule, gate, node and length, and of a gate not yet accepted. SYNC_POINT forms the mean of the deviations without
the k largest and smallest: if at most k of them are faulty, it lies within the range of the others. DCB_COMMIT and DCB_TAKE only permute the
three indices of a buffer, so reader and writer never share a copy. -/
def Obligations.SlalomRowsComplete : Prop :=
  ∀ s : State, let d := s.dev
    let out (d : Dev) : Host.Outcome State Fault Refusal := .next (s.withDev d)
    let next (i : Instr) (p : Dev → Prop) : Prop := ∃ t, exec i s = .next t ∧ t.pending = s.pending ∧ p t.dev
    let b := d.slmBank
    (∀ (who : Agent) (v : Word), d.reaches who .SLM_CFG 0 0 true →
      (d.flag .SLM_CFG_EN = false → bit v.toNat 0 = true → next (.slmEnable who v) fun e => e.slmState = slmListen ∧
        e.flag .SLM_CFG_EN = true ∧ e.fld .SLM_STATUS_ATTEMPT = 0 ∧ e.slm.own = false ∧ e.mem = d.mem) ∧
      (d.flag .SLM_CFG_EN = true → bit v.toNat 0 = false → next (.slmDisable who v) fun e => e.slmState = slmOff ∧
        e.flag .SLM_CFG_EN = false ∧ e.slm.own = false ∧ e.slm.picks = [] ∧ e.mem = d.mem)) ∧
    (d.slmState = slmListen →
      (d.flag .SLM_CFG_COLD_EN = true → d.inMode [.listen] = false → next .listenTimeout fun e => e.slmState = slmCold ∧ e.slmCycle = 0 ∧
        e.slm.own = true ∧ e.slm.prevOk = false) ∧
      (d.flag .SLM_CFG_COLD_EN = false ∨ d.inMode [.listen] = true →
        exec .listenTimeout s = out (d.setFld .SLM_STATUS_ATTEMPT ((d.fld .SLM_STATUS_ATTEMPT + 1) % 10)))) ∧
    (d.slmRuns = true → d.domOn .swc = true → d.slm.synced = true → come ((d.slm.start + d.bankLen b) % 2 ^ 40) d.slmNow = true →
      let mutes := d.slmState = slmActive ∧ d.slm.nodes.length < d.fld .SLM_SYNC_MIN_FRAMES ∧ d.fld .SLM_SYNC_LOSS_CYCLES ≤ d.slm.low + 1
      (mutes → next .slalomCycleStart fun e => e.slmState = slmListen ∧ e.fld .SLM_STATUS_MUTE_CAUSE = 2 ∧
        e.reg .SLM_MUTE_CNT = min (d.reg .SLM_MUTE_CNT + 1) 0xFFFFFFFF ∧ e.slm.own = false) ∧
      (¬ mutes → next .slalomCycleStart fun e => e.slmCycle = (d.slmCycle + 1) % 65536 ∧ e.slm.start = (d.slm.start + d.bankLen b) % 2 ^ 40 ∧
        e.slm.prevStart = d.slm.start ∧ e.slm.accPrev = d.slm.acc ∧ e.slm.acc = [] ∧ e.slmState = d.slmState ∧
        e.slmBank = if d.flag .SLM_STATUS_PENDING = true ∧ d.slm.swAt = (d.slmCycle + 1) % 65536 then 1 - b else b)) ∧
    (∀ (who : Agent) (v : Word), d.reaches who .SLM_SW 0 0 true →
      let ahead := (v.toNat / 65536 + 65536 - d.slmCycle) % 65536
      let good := 0 < ahead ∧ ahead < 32768 ∧ v.toNat % 2 ≠ b ∧ d.flag .SLM_STATUS_PENDING = false
      (good → slmListen < d.slmState → next (.scheduleSwitchArm who v) fun e => e.flag .SLM_STATUS_PENDING = true ∧
        e.slm.swAt = v.toNat / 65536 ∧ e.slmBank = b) ∧
      (good → d.slmState ≤ slmListen → next (.scheduleSwitchArm who v) fun e => e.flag .SLM_STATUS_PENDING = false ∧ e.slmBank = 1 - b) ∧
      (¬ good → exec (.scheduleSwitchArm who v) s = out ((d.plain .SLM_SW v.toNat).count .SLM_SW_REFUSE_CNT))) ∧
    (∀ g : Fin 256,
      let due (w : Nat × Nat × Nat) : Prop :=
        let first := min (d.gateOff w.1 g false) (d.gateOff w.1 g true)
        d.ownGate w.1 g = true ∧ (∀ k ∈ d.slm.picks.get g, k.cycle ≠ w.2.1) ∧
          come ((w.2.2 + first * 256 + 2 ^ 40 - 256000) % 2 ^ 40) d.slmNow = true ∧ (w.2.1 ≠ d.slmCycle ∨ d.slm.own = true)
      let start := (d.slm.start + d.bankLen b) % 2 ^ 40
      let num := (d.slmCycle + 1) % 65536
      let now := (b, d.slmCycle, d.slm.start)
      let then_ := (if d.flag .SLM_STATUS_PENDING = true ∧ d.slm.swAt = num then 1 - b else b, num, start)
      ∀ w, w = now ∧ due now ∨ w = then_ ∧ due then_ ∧ ¬ due now →
      let p := d.gatePayload w.1 g
      d.slmSends = true → exec (.gatePickup g) s = out (p.2.2.updSlm fun x => { x with
        picks := x.picks.upd g fun l => l.filter (fun k => k.cycle == p.2.2.slmCycle) ++ [⟨w.2.1, p.1, p.2.1, false, false⟩] })) ∧
    (∀ (g : Fin 256) (dir : Bool) (k : Pick), (d.slm.picks.get g).find? (fun k => k.cycle == d.slmCycle) = some k →
      (if dir then k.sentB else k.sentA) = false →
      d.slmSends = true → d.slm.own = true → d.ownGate b g = true → d.gateHas b g dir = true →
      let at_ := (d.slm.start + d.gateOff b g dir * 256) % 2 ^ 40
      let null := k.null || d.flag .CTL_STATUS_HOLD
      let e := d.updSlm fun x => { x with picks := x.picks.upd g (List.map fun p => if p.cycle == k.cycle then
        { k with sentA := k.sentA || !dir, sentB := k.sentB || dir } else p) }
      come at_ (d.egressStamp (d.ringPort dir)) = true → exec (.gateSend g dir) s = out (e.slmQueue (d.ringPort dir) at_
        (e.slmFrame b g dir null (if null then leBytes (d.fld .SLM_GATE_W0_LEN b g) 0 else k.data)))) ∧
    (∀ (n : Fin 28) (f : List Byte) (ago : BitVec 32), d.slmClaims n f = true → d.looped n = false → d.macReceives n = true → 64 ≤ f.length →
      f.length ≤ d.fld .MAC_CFG_MAXLEN n → Frame.fcsOk f = true → Frame.lenError f = false → d.flag .MAC_SEC_CFG_EN n = false →
      d.parClaims n f = false → Frame.etype f ≠ 0x8808 →
      exec (.slalomFrameReceive n f none ago) s = out ((d.count .MAC_RX_OK_CNT n).slmReceive n f (d.ingressStamp n ago.toNat) ago.toNat)) ∧
    (∀ h snd k e, d.slmCheck h snd = .ok k e → e.natAbs ≤ d.fld .SLM_RXWIN_WIN_NS * 256 ∧ h.len ≤ 1480 ∧
      h.len = d.fld .SLM_GATE_W0_LEN k h.gate ∧ h.sched = d.fld .SLM_BANK_INFO_SCHED_ID k ∧ h.gate < d.fld .SLM_BANK_INFO_GATES k ∧
      h.node = d.fld .SLM_GATE_W0_NODE k h.gate ∧
      (h.cycle = d.slmCycle ∧ k = b ∧ h.gate ∉ d.slm.acc ∨
        (h.cycle + 1) % 65536 = d.slmCycle ∧ d.slm.prevOk = true ∧ k = d.slm.prevBank ∧ h.gate ∉ d.slm.accPrev)) ∧
    (d.slmRuns = true → d.slm.synced = false → d.domOn .swc = true →
      come ((d.slm.start + min (d.reg .SLM_BANK_SYNC b * 256) (d.bankLen b)) % 2 ^ 40) d.slmNow = true →
      let th := ftMean (d.fld .SLM_SYNC_K) (d.slm.devs.map (·.2))
      exec .syncPoint s = out d.slmSync ∧ (∀ t m, th = some (t, m) → d.slmSync.reg .SLM_THETA = unsign 32 t) ∧
        (th = none → d.slmSync.reg .SLM_SYNC_LOW_CNT = min (d.reg .SLM_SYNC_LOW_CNT + 1) 0xFFFFFFFF)) ∧
    (∀ (k : Nat) (l faulty good : List Int) (lo hi : Int), l.Perm (faulty ++ good) → faulty.length ≤ k → (∀ x ∈ good, lo ≤ x ∧ x ≤ hi) →
      (ftMean k l = none ↔ l.length < 2 * k + 1) ∧ ∀ m n, ftMean k l = some (m, n) → lo ≤ m ∧ m ≤ hi ∧ n = l.length - 2 * k) ∧
    ∀ (who : Agent) (i : Fin 256), d.reaches who .SLM_DCB_CMD i 0 true →
      let same (e : Dev) (l : List Fld) : Prop := ∀ f ∈ l, e.fld f i = d.fld f i
      next (.dcbCommit who i) (fun e => e.fld .SLM_DCB_WBUF i = d.fld .SLM_DCB_NBUF i ∧ e.fld .SLM_DCB_NBUF i = d.fld .SLM_DCB_WBUF i ∧
        e.flag .SLM_DCB_NEW i = true ∧ e.flag .SLM_DCB_VALID i = true ∧ same e [.SLM_DCB_RBUF] ∧ e.mem = d.mem) ∧
      (d.flag .SLM_DCB_NEW i = true → next (.dcbTake who i) fun e => e.fld .SLM_DCB_RBUF i = d.fld .SLM_DCB_NBUF i ∧
        e.fld .SLM_DCB_NBUF i = d.fld .SLM_DCB_RBUF i ∧ e.flag .SLM_DCB_NEW i = false ∧ same e [.SLM_DCB_WBUF, .SLM_DCB_VALID] ∧
        e.mem = d.mem) ∧
      (d.flag .SLM_DCB_NEW i = false → next (.dcbTake who i) fun e =>
        same e [.SLM_DCB_RBUF, .SLM_DCB_NBUF, .SLM_DCB_WBUF, .SLM_DCB_NEW, .SLM_DCB_VALID] ∧ e.mem = d.mem)

/-! ### The CAN controllers -/

/-- CAN_ENABLE with a bit timing that allows it goes to INTEGRATING; CAN_DISABLE stops an idle controller at once, and lets a frame on the
bus complete first. CAN_INTEGRATION_DONE goes to error-active or error-passive by the counts; while RECOVERING, REC counts it, and the 128th
makes the controller error-active with both counts 0, as RECOVERY_DONE does. TX_REQUEST sets exactly the requests of legal buffers that it
names; TX_CANCEL clears pending ones with RESULT 4, but for one in transmission, which keeps its own. CAN_FRAME_TRANSMIT starts the pending
event buffer whose frame wins arbitration, the lowest-numbered among equal ones, and ends it sent, lost or in error. CAN_FRAME_RECEIVE takes
the stamp at the SOF and queues the frame for the ring; RING_ENTRY_WRITE writes the oldest entry and acknowledges it. RING_ENABLE takes and frees lift 39.
CAN_ERROR counts the error, and the counts decide error-passive and bus-off; BUS_OFF_RECOVER leads out of it. BASIC_CYCLE_START starts the
cycle due; CAN_GATE starts the pending buffer of an open window on an idle bus, waits within the slack on a busy one, the cycle ending or not, or records the miss. -/
def Obligations.CanRowsComplete : Prop :=
  ∀ (n : Fin 8) (s : State), let d := s.dev
    let out (d : Dev) : Host.Outcome State Fault Refusal := .next (s.withDev d)
    let next (i : Instr) (p : Dev → Prop) : Prop := ∃ t, exec i s = .next t ∧ t.pending = s.pending ∧ p t.dev
    let tec := d.tec n
    let err := d.rec_ n
    let level (t r : Nat) : Nat := if 255 < t then canBusOff else if 128 ≤ t ∨ 128 ≤ r then canPassive else canActive
    (∀ (who : Agent) (v : Word), d.reaches who .CAN_CFG n 0 true → (d.canSt n).leaving = false →
      (d.flag .CAN_CFG_EN n = false → bit v.toNat 0 = true → d.canTimed n = true → tec ≤ 255 → next (.canEnable who n v) fun e =>
        e.canState n = canIntegrating ∧ e.flag .CAN_CFG_EN n = true ∧ e.tec n = tec ∧ e.rec_ n = err) ∧
      (d.flag .CAN_CFG_EN n = true → bit v.toNat 0 = false → next (.canDisable who n v) fun e => e.flag .CAN_CFG_EN n = false ∧
        (d.canIdle n = true → e.canState n = canStopped) ∧
        (d.canIdle n = false → e.canState n = d.canState n ∧ (e.canSt n).leaving = true ∧ (e.canSt n).tx = (d.canSt n).tx))) ∧
    (d.canState n = canIntegrating → next (.canIntegrationDone n) fun e => e.canState n = (if 128 ≤ tec ∨ 128 ≤ err then canPassive else canActive)
      ∧ (e.canSt n).waits = false) ∧
    (d.canState n = canRecovering →
      (err < 127 → (next (.canIntegrationDone n) fun e => e.canState n = canRecovering ∧ e.rec_ n = err + 1) ∧ exec (.recoveryDone n) s = out d) ∧
      (127 ≤ err → ∀ c ∈ [Instr.canIntegrationDone n, .recoveryDone n], next c fun e => e.canState n = canActive ∧ e.tec n = 0 ∧ e.rec_ n = 0)) ∧
    (∀ (who : Agent) (k : Fin 2) (v : Word),
      (d.reaches who .CAN_TXREQ n k true → next (.txRequest who n k v) fun e => ∀ b < 32,
        e.canBit .CAN_TXREQ n (32 * k + b) = (d.canBit .CAN_TXREQ n (32 * k + b) || (bit v.toNat b && d.bufLegal n (32 * k + b)))) ∧
      (d.reaches who .CAN_TXCANCEL n k true → next (.txCancel who n k v) fun e => ∀ b < 32,
        let sends := (d.canSt n).tx.any (·.buf == 32 * k.val + b)
        e.canBit .CAN_TXREQ n (32 * k + b) = (d.canBit .CAN_TXREQ n (32 * k + b) && (!bit v.toNat b || sends)) ∧
        (bit v.toNat b = true → d.canBit .CAN_TXREQ n (32 * k + b) = true →
          (sends = false → e.bufWord n (32 * k + b) 2 = 4) ∧ (sends = true → (e.canSt n).tx.any (·.cancelled) = true)))) ∧
    (∀ b, d.eventPick n = some b → b ∈ d.eventBufs n ∧ (∀ x ∈ d.eventBufs n, (d.bufFrame n b).arb < (d.bufFrame n x).arb ∨
        (d.bufFrame n b).arb = (d.bufFrame n x).arb ∧ b ≤ x) ∧
      (d.canStarts n = true → d.mayStart n (d.bufFrame n b) = true → exec (.canFrameTransmit n .start) s = out (d.canStart n b false))) ∧
    (∀ t, (d.canSt n).tx = some t → t.buf < 64 → (d.canSt n).leaving = false → d.fld .CAN_CFG_MODE n ≠ 2 →
      (next (.canFrameTransmit n .sent) fun e => e.canBit .CAN_TXREQ n t.buf = false ∧ e.bufWord n t.buf 2 = 1 ∧ e.canBit .CAN_TXDONE n t.buf = true ∧
        e.reg .CAN_TX_OK_CNT n = min (d.reg .CAN_TX_OK_CNT n + 1) 0xFFFFFFFF ∧ e.canIdle n = true) ∧
      (let once := t.cancelled || (!t.gate && (d.bufOshot n t.buf || d.flag .CAN_CFG_ONESHOT n))
       let ended (r : Nat) (e : Dev) : Prop := e.canBit .CAN_TXREQ n t.buf = (d.canBit .CAN_TXREQ n t.buf && !once) ∧
         (once = true ∨ t.gate = true → e.bufWord n t.buf 2 = r)
       (next (.canFrameTransmit n .lost) fun e => ended 2 e ∧ (e.canSt n).tx = none ∧ (e.canSt n).rx = some t.sof ∧
         e.reg .CAN_ARB_LOST_CNT n = min (d.reg .CAN_ARB_LOST_CNT n + 1) 0xFFFFFFFF) ∧
       ∀ k sp edge, next (.canFrameTransmit n (.error k sp edge)) fun e => ended 3 e ∧ e.canIdle n = true)) ∧
    (d.canRuns n = true → (d.canSt n).waits = false → d.fld .CAN_CFG_MODE n ≠ 2 → d.canIdle n = true →
      ∀ f, exec (.canFrameReceive n f true) s = out (d.canBus n none (some (d.sofNow n)))) ∧
    (∀ (f : CanFrame) (sof : CanSof), (d.canSt n).rx = some sof → f.wellFormed = true →
      f.fdf = false ∨ f.resRecessive = false ∧ d.flag .CAN_CFG_FD_EN n = true →
      exec (.canFrameReceive n f false) s = out (((if d.canListens n then d else d.recDown n).ringStore n sof none f).canOver n none)) ∧
    (∀ e rest, (d.canSt n).ring = e :: rest → let at_ := d.reg64 .CAN_RING_BASE_LOW .CAN_RING_BASE_HIGH n + 80 * e.idx
      e.bytes.length = 80 → at_ + 80 ≤ 0x8000000 → d.bankWaits at_ 80 = false → next (.ringEntryWrite n) fun t => (t.canSt n).ring = rest ∧
      t.fld .CAN_RING_WR_INDEX n = (e.idx + 1) % (d.fld .CAN_RING_CFG_SIZE_M1 n + 1) ∧
      t.reg .CAN_RX_OK_CNT n = min (d.reg .CAN_RX_OK_CNT n + 1) 0xFFFFFFFF ∧ (∀ a, a < at_ ∨ at_ + 80 ≤ a → t.byte a = d.byte a) ∧
      ((∀ i < 80, d.bankServes (bankOf (at_ + i)) = true ∧ d.errOf (at_ + i) = 0) → ∀ i < 80, t.byte (at_ + i) = e.bytes.getD i 0#8)) ∧
    (∀ (who : Agent) (v : Word), d.reaches who .CAN_RING_CFG n 0 true →
      (d.flag .CAN_RING_CFG_EN n = false → bit v.toNat 31 = true →
        d.reg64 .CAN_RING_BASE_LOW .CAN_RING_BASE_HIGH n + 80 * (v.toNat % 65536 + 1) ≤ 0x8000000 → next (.ringEnable who n v) fun e =>
          e.flag .CAN_RING_CFG_EN n = true ∧ e.flag .LFT_STATUS_RING 39 = true) ∧
      (bit v.toNat 31 = false → d.flag .LFT_STATUS_RING 39 = true →
        (∀ k < 8, (k ≠ n.val → d.flag .CAN_RING_CFG_EN k = false) ∧ (d.canSt k).ring = []) →
        next (.ringEnable who n v) fun e => e.flag .LFT_STATUS_RING 39 = false ∧ e.fld .LFT_STATUS_STATE 39 = liftIdle)) ∧
    (∀ (k : CanErr), d.canRuns n = true → d.fld .CAN_CFG_MODE n ≠ 2 → d.canListens n = false → (d.canSt n).tx = none →
      (d.canSt n).leaving = false →
      (∀ edge, next (.canError n k true (false, edge)) fun e => e.tec n = min 511 (tec + 8) ∧ e.rec_ n = err ∧ e.canState n = level (min 511 (tec + 8)) err ∧
        e.reg k.counter n = min (d.reg k.counter n + 1) 0xFFFFFFFF) ∧
      ∀ sp edge, next (.canError n k false (sp, edge)) fun e => e.tec n = tec ∧ e.rec_ n = min 255 (err + if sp then 8 else 1) ∧
        e.canState n = level tec (min 255 (err + if sp then 8 else 1))) ∧
    (∀ who : Agent, d.reaches who .CAN_CTRL n 0 true →
      (d.canState n = canBusOff → next (.busOffRecover who n) fun e => e.canState n = canRecovering ∧ e.rec_ n = 0) ∧
      (d.canState n ≠ canBusOff → exec (.busOffRecover who n) s = out (d.misuse .CAN n))) ∧
    (let x := d.canSt n
     d.flag .CAN_MX_CFG_EN n = true → d.dueAt islCan (d.fld .CAN_CFG_TB n) x.next = .due → next (.basicCycleStart n) fun e =>
      (e.canSt n).started = true ∧ (e.canSt n).start = x.next ∧ (e.canSt n).opened = [] ∧
      (e.canSt n).gates = x.gates ∧ (x.started = true → e.fld .CAN_MX_STAT_COL n = (d.fld .CAN_MX_CFG_COLS n - 1) % 32) ∧
      e.fld .CAN_MX_STAT_BC n = x.nextIdx % 64 ∧
      (e.canSt n).next = (x.next + max 1 (d.reg .CAN_MX_BC n)) % 2 ^ 32) ∧
    ∀ (c : Fin 32) (bc : Fin 64) (g : CanGate), let x := d.canSt n
      let cell := d.mxCell n bc c
      let at_ := (x.start + d.reg .CAN_MX_START n c) % 2 ^ 32
      let waits := x.gates.find? fun g => g.col == c.val && g.bc == bc.val
      let e := d.updCan n fun x => if waits.isSome = true then { x with gates := x.gates.erase g } else { x with opened := c.val :: x.opened }
      let missed := d.canRuns n = false ∨ d.canListens n = true ∨ d.fld .CAN_CFG_MODE n ≠ 0 ∨ d.canLate n g.start = true
      (waits = some g ∨ waits = none ∧ g = ⟨c, bc, at_⟩ ∧ d.mxRuns n = true ∧ d.fld .CAN_MX_STAT_BC n = bc.val ∧ c.val < d.fld .CAN_MX_CFG_COLS n ∧
        c.val ∉ x.opened ∧ d.dueAt islCan (d.fld .CAN_CFG_TB n) at_ ≠ .ahead) →
      (cell.1 = 0 → exec (.canGate n c bc) s = out e) ∧
      (cell.1 ≠ 0 → d.bufSched n cell.2 = true → d.canBit .CAN_TXREQ n cell.2 = true →
        (missed → exec (.canGate n c bc) s = out (e.canMiss n cell.2)) ∧
        (¬ missed → d.canStarts n = true → exec (.canGate n c bc) s = out (e.canStart n cell.2 true)) ∧
        (¬ missed → d.canStarts n = false → exec (.canGate n c bc) s = out (e.updCan n fun x => { x with gates := x.gates ++ [g] })))

/-! ### The Blades -/

/-- For every running Blade whose word is legal, one step of the word's operation: a lead counts down first; then JMP, WAIT, IN, OUT, PUSH,
PULL, MOV, IRQ, SET and AT act as R356 says, and the word either completes (next PC: the value written, LOOP for B = 1, else PC + 1 modulo
48; 48 to 63 is taken as 0 and counted) or stalls with its code, keeping PC and word. AT_FIRE completes a waiting AT whose time has come.
An illegal word is counted and skipped. TXHOLD and RXHOLD, FLAG_SET and FLAG_CLEAR, BLADE_STOP and BLADE_RESUME, PROGRAM_WORD_WRITE,
RESTART_ARM, BLADE_RESTART and BANK_LEVEL_CHANGE have the effect of their rules. The levels of the pins are an operand, and PIN_LEVEL shows
those that came last; the pins of an absent bank read 0. -/
def Obligations.BladeRowsComplete : Prop :=
  ∀ (g : Fin 8) (b : Fin 4) (s : State), let d := s.dev
    let out (d : Dev) : Host.Outcome State Fault Refusal := .next (s.withDev d)
    let next (i : Instr) (p : Dev → Prop) : Prop := ∃ t, exec i s = .next t ∧ t.pending = s.pending ∧ p t.dev
    let w := d.bldWord g b
    let pc := d.fld .BLD_STATUS_PC g b
    let after := if bit w 8 then d.fld .BLD_PCFG_LOOP_CUR g b else (pc + 1) % 48
    let at_ (v : Nat) (t : Dev) : Prop := t.fld .BLD_STATUS_PC g b = v ∧ (t.blade g b).word = none ∧ t.fld .BLD_STATUS_STALL g b = 0
    let held (k : Nat) (t : Dev) : Prop := t.fld .BLD_STATUS_PC g b = pc ∧ (t.blade g b).word = some w ∧ t.fld .BLD_STATUS_STALL g b = k
    let C := d.reg .BLD_C g b
    let G := d.reg .BLD_G g b
    let now := d.bldNow (d.fld .BLD_CLK_TB g b)
    let flags := d.fld .BLD_FLAGS_FLAG g
    let f := d.flagOf g b w
    let n := bldCount w
    let txFull := d.flag .BLD_STATUS_TX_FULL g b
    let rxFull := d.flag .BLD_STATUS_RX_FULL g b
    let txBits := if d.fld .BLD_FORM_TXBITS g b = 0 then 32 else d.fld .BLD_FORM_TXBITS g b
    let rxBits := if d.fld .BLD_FORM_RXBITS g b = 0 then 32 else d.fld .BLD_FORM_RXBITS g b
    let tcnt := d.fld .BLD_STATUS_TCNT g b
    let rcnt := d.fld .BLD_STATUS_RCNT g b
    let runs (op : BldOp) : Prop := d.bldOn g b = true ∧ d.domOn .pio = true ∧ d.bldOk g b = true ∧ bits w 15 12 = op.code
    (∀ levels : BitVec 8,
      let e := (d.seePins g levels.toNat).bldFetch g b
      let x := e.blade g b
      (∀ i < 4, e.laneLevel g b i = ((d.laneCfg g b i).2.1 != 0 && d.bankDet g != 0 && bit levels.toNat (d.laneCfg g b i).1)) ∧
      (x.lead ≠ 0 → ∀ i ∈ [(BldOp.jmp, Instr.bladeJmp g b levels), (.wait, .bladeWait g b levels), (.in_, .bladeIn g b levels),
          (.out, .bladeOut g b levels), (.push, .bladePush g b levels), (.pull, .bladePull g b levels), (.mov, .bladeMov g b levels),
          (.irq, .bladeIrq g b levels), (.set, .bladeSet g b levels), (.at_, .bladeAt g b levels)],
        runs i.1 → next i.2 fun t => held 6 t ∧ (t.blade g b).lead = x.lead - 1) ∧
      (x.lead = 0 →
        (runs .jmp → next (.bladeJmp g b levels) fun t =>
          at_ (if bits w 7 6 = 0 ∨ bits w 7 6 = 1 ∧ C ≠ 0 ∨ bits w 7 6 = 2 ∧ e.laneLevel g b (d.fld .BLD_FORM_TEST_LANE g b) = true ∨
            bits w 7 6 = 3 ∧ txFull = true then bits w 5 0 else after) t ∧
          t.reg .BLD_C g b = if bits w 7 6 = 1 then C - 1 else C) ∧
        (runs .wait → next (.bladeWait g b levels) fun t =>
          let src := if bits w 6 5 = 0 then e.laneLevel g b (bits w 2 0) else if bits w 6 5 = 1 then bit flags f
            else d.bankDet g != 0 && bit levels.toNat (bits w 2 0)
          if src = bit w 7 then at_ after t ∧ t.fld .BLD_FLAGS_FLAG g = (if bits w 6 5 = 1 ∧ bit w 7 = true then putBit flags f false else flags)
          else held 1 t ∧ t.fld .BLD_FLAGS_FLAG g = flags) ∧
        (runs .in_ → bits w 7 6 ≠ 0 → next (.bladeIn g b levels) fun t => at_ after t ∧ t.fld .BLD_STATUS_RCNT g b = min 32 (rcnt + n)) ∧
        (runs .in_ → bits w 7 6 = 0 → next (.bladeIn g b levels) fun t =>
          if 1 < x.gap then held 7 t ∧ (t.blade g b).rsr = x.rsr ∧ (t.blade g b).gap = x.gap - 1
          else t.fld .BLD_STATUS_RCNT g b = min 32 (rcnt + 1) ∧ (if x.moved + 1 = n then at_ after t else held 7 t ∧ (t.blade g b).moved = x.moved + 1)) ∧
        (runs .out → bits w 7 6 = 0 → next (.bladeOut g b levels) fun t =>
          if 1 < x.gap then held 8 t ∧ (t.blade g b).tsr = x.tsr ∧ (t.blade g b).gap = x.gap - 1
          else t.fld .BLD_STATUS_TCNT g b = tcnt - 1 ∧ (if x.moved + 1 = n then at_ after t else held 8 t ∧ (t.blade g b).moved = x.moved + 1)) ∧
        (runs .out → bits w 7 6 ≠ 0 → next (.bladeOut g b levels) fun t => t.fld .BLD_STATUS_TCNT g b = tcnt - n ∧
          (bits w 7 6 ≠ 3 → at_ after t) ∧
          (d.flag .BLD_FORM_TX_MSB g b = false →
            (bits w 7 6 = 1 → t.reg .BLD_G g b = x.tsr % 2 ^ n) ∧
            (bits w 7 6 = 3 → let v := x.tsr % 2 ^ n % 64
              at_ (if 48 ≤ v then 0 else v) t ∧
              (48 ≤ v → t.reg .BLD_ILLEGAL_CNT g = min (d.reg .BLD_ILLEGAL_CNT g + 1) 0xFFFFFFFF)))) ∧
        (runs .push → next (.bladePush g b levels) fun t =>
          if bit w 6 = true ∧ rcnt < rxBits then at_ after t ∧ t.reg .BLD_RXHOLD g b = d.reg .BLD_RXHOLD g b
          else if rxFull = true ∧ bit w 7 = false then held 3 t
          else at_ after t ∧ t.reg .BLD_RXHOLD g b = x.rsr % 2 ^ 32 ∧ t.flag .BLD_STATUS_RX_FULL g b = true ∧ (t.blade g b).rsr = 0 ∧
            t.fld .BLD_STATUS_RCNT g b = 0 ∧
            (rxFull = true → t.reg .BLD_OVERRUN_CNT g b = min (d.reg .BLD_OVERRUN_CNT g b + 1) 0xFFFFFFFF)) ∧
        (runs .pull → next (.bladePull g b levels) fun t =>
          if bit w 6 = true ∧ tcnt ≠ 0 then at_ after t ∧ (t.blade g b).tsr = x.tsr
          else if txFull = false ∧ bit w 7 = false then held 2 t
          else at_ after t ∧ (t.blade g b).tsr = d.reg .BLD_TXHOLD g b ∧ t.flag .BLD_STATUS_TX_FULL g b = false ∧
            t.fld .BLD_STATUS_TCNT g b = txBits ∧
            (txFull = false → t.reg .BLD_UNDERRUN_CNT g b = min (d.reg .BLD_UNDERRUN_CNT g b + 1) 0xFFFFFFFF)) ∧
        (runs .mov → let src := match bits w 2 0 with
            | 0 => G
            | 1 => C
            | 2 => x.tsr
            | 3 => x.rsr
            | 4 => now
            | _ => ((List.range 4).map fun i => b2n (e.laneLevel g b i) * 2 ^ i).sum * if bits w 2 0 = 5 then 1 else 0
          let v := movOp (bits w 4 3) src
          next (.bladeMov g b levels) fun t => (bits w 7 5 ≠ 5 → at_ after t) ∧
            (bits w 7 5 = 0 → t.reg .BLD_G g b = v % 2 ^ 32) ∧ (bits w 7 5 = 1 → t.reg .BLD_C g b = v % 2 ^ 16) ∧
            (bits w 7 5 = 2 → (t.blade g b).tsr = v ∧ t.fld .BLD_STATUS_TCNT g b = txBits) ∧
            (bits w 7 5 = 3 → (t.blade g b).rsr = v ∧ t.fld .BLD_STATUS_RCNT g b = 0) ∧ (bits w 7 5 = 4 → t.reg .BLD_T g b = v % 2 ^ 32) ∧
            (bits w 7 5 = 5 → at_ (if 48 ≤ v % 64 then 0 else v % 64) t)) ∧
        (runs .irq →
          (bits w 7 6 = 0 → exec (.bladeIrq g b levels) s = out ((e.flagRise g f b (d.fld .BLD_CLK_TB g b)).bldDone g b none)) ∧
          (bits w 7 6 = 1 → next (.bladeIrq g b levels) fun t => at_ after t ∧ t.fld .BLD_FLAGS_FLAG g = putBit flags f false) ∧
          (bits w 7 6 = 2 → x.acted = false → exec (.bladeIrq g b levels) s =
            out (((e.flagRise g f b (d.fld .BLD_CLK_TB g b)).updBld g b fun x => { x with acted := true }).bldStall g b 4)) ∧
          (bits w 7 6 = 2 → x.acted = true → next (.bladeIrq g b levels) fun t =>
            (if bit flags f = true then held 4 t else at_ after t) ∧ t.fld .BLD_FLAGS_FLAG g = flags)) ∧
        (runs .set → next (.bladeSet g b levels) fun t => at_ after t ∧
          (bits w 7 6 = 1 → t.reg .BLD_C g b = bits w 5 0) ∧ (bits w 7 6 = 2 → t.reg .BLD_G g b = bits w 5 0) ∧
          (bits w 7 6 = 0 → let l := d.laneCfg g b (bits w 1 0)
            (l.2.1 = 2 ∨ l.2.1 = 3 → t.fld .BLD_PINSTATE_LEVEL g = putBit (d.fld .BLD_PINSTATE_LEVEL g) l.1 (bit w 2) ∧
              t.fld .BLD_PINSTATE_DRIVE g = putBit (d.fld .BLD_PINSTATE_DRIVE g) l.1 (l.2.1 == 2 || bit w 3)) ∧
            (l.2.1 < 2 → t.reg .BLD_PINSTATE g = d.reg .BLD_PINSTATE g))) ∧
        (runs .at_ → x.acted = false →
          let T := ((if bits w 7 6 = 0 then 0 else d.reg .BLD_T g b) + (if bits w 7 6 = 2 then d.reg .BLD_ATSTEP g b else G)) % 2 ^ 32
          next (.bladeAt g b levels) fun t => t.reg .BLD_T g b = T ∧ (if reached T now = true then at_ after t else held 5 t) ∧
            t.reg .BLD_LATE_CNT g b = if inPast T now = true then min (d.reg .BLD_LATE_CNT g b + 1) 0xFFFFFFFF else d.reg .BLD_LATE_CNT g b) ∧
        (runs .at_ → x.acted = true → next (.bladeAt g b levels) fun t => if reached (d.reg .BLD_T g b) now = true then at_ after t else
          t.blade g b = x ∧ t.reg .BLD_STATUS g b = d.reg .BLD_STATUS g b))) ∧
    (d.bldOn g b = true → (d.blade g b).acted = true → bits w 15 12 = 9 → reached (d.reg .BLD_T g b) now = true →
      next (.atFire g b) fun t => at_ after t ∧ t.reg .BLD_LATE_CNT g b = d.reg .BLD_LATE_CNT g b) ∧
    (d.bldOn g b = true → d.domOn .pio = true → d.bldOk g b = false → next (.bladeIllegal g b) fun t => at_ ((pc + 1) % 48) t ∧
      t.reg .BLD_ILLEGAL_CNT g = min (d.reg .BLD_ILLEGAL_CNT g + 1) 0xFFFFFFFF ∧ t.fld .BLD_ILLEGAL_PC_PC g = pc ∧ t.fld .BLD_ILLEGAL_PC_BLADE g = b.val) ∧
    (∀ (who : Agent) (v : Word), d.reaches who .BLD_TXHOLD g b true → next (.txholdWrite who g b v) fun t =>
      t.flag .BLD_STATUS_TX_FULL g b = true ∧ t.reg .BLD_TXHOLD g b = (if txFull then d.reg .BLD_TXHOLD g b else v.toNat) ∧
      t.reg .BLD_TXREFUSE_CNT g b = if txFull then min (d.reg .BLD_TXREFUSE_CNT g b + 1) 0xFFFFFFFF else d.reg .BLD_TXREFUSE_CNT g b) ∧
    (∀ who : Agent, d.reaches who .BLD_RXHOLD g b false → next (.rxholdRead who g b) fun t => t.rd = word (if rxFull then d.reg .BLD_RXHOLD g b else 0) ∧
      t.flag .BLD_STATUS_RX_FULL g b = false ∧ t.reg .BLD_RXHOLD g b = d.reg .BLD_RXHOLD g b) ∧
    (∀ (who : Agent) (k : Fin 8) (v : Word), d.reaches who .BLD_FLAGS_SET g 0 true → v.toNat = 2 ^ k.val →
      exec (.flagSet who g v) s = out (d.flagRise g k 0 0)) ∧
    (∀ k < 8, ∀ x y, bit flags k = true → d.flagRise g k x y = d) ∧
    (∀ k < 8, ∀ x y, bit flags k = false → d.flag .BLD_FLAG_CFG_JOB_EN g k = false → (d.flagRise g k x y).fld .BLD_FLAGS_FLAG g = putBit flags k true) ∧
    (∀ (who : Agent) (v : Word), d.reaches who .BLD_FLAGS g 0 true → next (.flagClear who g v) fun t =>
      ∀ k < 8, bit (t.fld .BLD_FLAGS_FLAG g) k = (bit flags k && !bit v.toNat k)) ∧
    (∀ who : Agent, d.reaches who .BLD_CTRL g 0 true →
      (next (.bladeStop who g b) fun t => t.bldOn g b = false ∧ (∀ k < 4, k ≠ b.val → t.bldOn g k = d.bldOn g k) ∧ t.blade g b = d.blade g b ∧
        t.fld .BLD_STATUS_PC g b = pc ∧ t.fld .BLD_STATUS_STATE g b = 0) ∧
      (next (.bladeResume who g b) fun t => t.bldOn g b = true ∧ (∀ k < 4, k ≠ b.val → t.bldOn g k = d.bldOn g k) ∧ t.blade g b = d.blade g b ∧
        t.fld .BLD_STATUS_PC g b = pc)) ∧
    (∀ (who : Agent) (k : Fin 48) (v : Word), d.reaches who .BLD_PROG g k true → next (.programWordWrite who g k v) fun t =>
      t.fld .BLD_PROG_WORD g k = v.toNat % 65536 ∧ (∀ j < 48, j ≠ k.val → t.reg .BLD_PROG g j = d.reg .BLD_PROG g j) ∧ t.bld = d.bld) ∧
    (∀ (who : Agent) (v : Word), d.reaches who .BLD_RESTART g 0 true →
      if d.flag .BLD_RESTART_STAT_PENDING g = true ∨ bits v.toNat 3 0 = 0 then exec (.restartArm who g v) s = out (d.misuse .BLD g)
      else next (.restartArm who g v) fun t => t.flag .BLD_RESTART_STAT_PENDING g = true ∧ t.fld .BLD_RESTART_STAT_MASK g = bits v.toNat 3 0) ∧
    (d.flag .BLD_RESTART_STAT_PENDING g = true → d.domOn .pio = true →
      ((d.grp.get g).timed = false ∨ reached (d.reg .BLD_RESTART_T g) (d.bldNow (d.grp.get g).tb) = true) →
      next (.bladeRestart g) fun t => t.flag .BLD_RESTART_STAT_PENDING g = false ∧
        (bit (d.fld .BLD_RESTART_STAT_MASK g) b = true → at_ (d.fld .BLD_PCFG_START g b) t ∧ t.blade g b = default ∧ t.bldOn g b = true ∧
          t.reg .BLD_C g b = 0 ∧ t.reg .BLD_G g b = 0 ∧ t.reg .BLD_T g b = 0 ∧ t.fld .BLD_PCFG_LOOP_CUR g b = d.fld .BLD_PCFG_LOOP g b ∧
          t.reg .BLD_TXHOLD g b = d.reg .BLD_TXHOLD g b) ∧
        (bit (d.fld .BLD_RESTART_STAT_MASK g) b = false → t.blade g b = d.blade g b ∧ t.reg .BLD_STATUS g b = d.reg .BLD_STATUS g b)) ∧
    ∀ (k : Fin 4) (det : Fin 4) (levels : BitVec 16), next (.bankLevelChange k (det, levels)) fun t => t.fld .PIN_BANK_DET k = det.val ∧
      (∀ p < 8, t.pinLevel (2 * k) p = (det.val != 0 && bit levels.toNat p) ∧
        t.pinLevel (2 * k + 1) p = (det.val != 0 && bit levels.toNat (8 + p))) ∧
      t.reg .PIN_BANK_CHG_CNT = if d.fld .PIN_BANK_DET k = det.val then d.reg .PIN_BANK_CHG_CNT else min (d.reg .PIN_BANK_CHG_CNT + 1) 0xFFFFFFFF

/-! ### The protocol personalities -/

/-- By firmware with no store waiting, after the counters that it had read are written: RECEIVE_DISPATCH hands a held frame, once, to the
personality of its EtherType where the rink holds it, and answers a violation of a running instance, else counts and releases it. IPV4_DATAGRAM
takes ARP, drops and counts a bad header, fragments and options and unowned ports, releases what is not for the port, answers an echo
request, opens at most 128 connections and delivers the rest to the owner. STATION_INPUT takes the data by its instance's route, writes the back copy
with the capture timestamp, commits the slot and notifies the gateways, or answers the violation that data, counters or handler show; STATION_LOSS
counts what has gone unanswered and reports a station lost once its criterion holds. GATEWAY_TRANSMIT, at a transmit instant, sends the station's
output slot or, for a gateway, by quality and personality the newest version of its source, the SAFE values, all ones or nothing, after the
address claim where there is one; a sentence on Ethernet behind its tag block. INSTANCE_REFUSE counts a record of an absent personality once, and
stops an instance whose limits cannot be met. GOOSE_PUBLISH sends changed data with a new stNum and sqNum 0; GOOSE_RETRANSMIT sends them
again, when that is due, with the next sqNum (numbers skip 0: log entry 19). What the standards decide comes as operands (log entry 3). -/
def Obligations.PersonalityRowsComplete : Prop :=
  ∀ (e : Fin 64) (i : BitVec 12) (s : State), let d := s.dev.countsOut
    let out (d : Dev) : Host.Outcome State Fault Refusal := .next (s.withDev d)
    let next (i : Instr) (p : Dev → Prop) : Prop := ∃ t, exec i s = .next t ∧ t.pending = s.pending ∧ p t.dev
    let n := e.val / 8
    let st := d.pers.stations.get i.toNat
    ((s.dev.engine e).stores = [] →
    (∀ (cell : BitVec 27) (port : Nat) (h : Held), d.handles e cell.toNat = some (port, h) →
      (h.pm = true ∨ h.pers.isSome = true → ∀ v, exec (.receiveDispatch e cell v) s = out d) ∧
      (h.pm = false → h.pers = none →
        let m := d.physRead e (cell.toNat + 16) 18
        let f : Frame := m.1.data
        let table : List (Nat × Nat) := [(0x88A4, 1), (0x8892, 2), (0x88AB, 4), (0x88B8, 7), (0x88BA, 7), (0xB62C, 0xC)]
        let give (p : Nat) : Dev := m.2.updHeld port cell.toNat fun h => { h with pers := some p }
        (∀ p, (f.etype, p) ∈ table → d.persIn p n = true →
          exec (.receiveDispatch e cell none) s = out (give p) ∧
          ∀ (k : BitVec 12) (r : InstRec) (v : Viol), d.pers.insts[k.toNat]? = some r → r.pers = p → (give p).recRuns k.toNat r = true →
            exec (.receiveDispatch e cell (some (k, v))) s = out (((give p).received e k.toNat r default v).freeCopy e cell.toNat)) ∧
        ((f.etype = 0x0800 ∨ f.etype = 0x0806) → d.ipRink = some n → exec (.receiveDispatch e cell none) s = out (give 0)) ∧
        ((∀ p, (f.etype, p) ∈ table → d.persIn p n = false) → (f.etype = 0x0800 ∨ f.etype = 0x0806 → d.ipRink ≠ some n) →
          ∀ v, exec (.receiveDispatch e cell v) s = out ((m.2.commonCount e 0 0).freeCopy e cell.toNat)))) ∧
    (∀ (cell : BitVec 27) (port : Nat) (held : Held) (w0 : Word) (conf : Option (BitVec 12)),
      d.handles e cell.toNat = some (port, held) → d.ipRink = some n → (held.pers = some 0 ∨ held.pm = true ∧ held.pers = none) →
      let x := d.frame cell.toNat
      let m := Dev.readCellsBy e x.cells x.flen d
      let f : Frame := m.1.data
      let a := m.2
      let h := f.typeAt + 2
      let ihl := f.be h 1 % 16 * 4
      let p := h + ihl
      let total := f.be (h + 2) 2
      let proto := f.be (h + 9) 1
      let src := f.be (h + 12) 4
      let dst := f.be (h + 16) 4
      let own := dst = (Config.ipOf x.port).toNat
      let bad := ipSum ((f.drop h).take ihl) ≠ 0xFFFF ∨ f.length < h + total
      let odd := 20 < ihl ∨ bits (f.be (h + 6) 2) 13 0 ≠ 0
      let run := exec (.ipv4Datagram e cell (w0, conf)) s
      let free (d : Dev) : Dev := d.freeCopy e cell.toNat
      let drop (w : Nat) : Dev := free (a.commonCount e 64 w)
      let sp := f.be p 2
      let dp := f.be (p + 2) 2
      let key : Conn := ⟨x.port, src, sp, dp⟩
      let opened (d : Dev) : Dev := d.updPers fun x => { x with conns := x.conns ++ [key] }
      let closed (d : Dev) : Dev := d.updPers fun x => { x with conns := x.conns.erase key }
      let rst : Dev → Dev := Dev.ipSend x.port src (.rst dst src dp sp)
      let fl := f.be (p + 13) 1
      let fresh := bit fl 1 = true ∧ key ∉ a.pers.conns
      let q := f.be (p + 12) 1 / 16 * 4
      let owner (tcp : Bool) : Option InstRec := a.ipOwner x.port tcp dp (conf.map BitVec.toNat)
      (f.etype ≠ 0x0800 ∧ f.etype ≠ 0x0806 ∨ x.ipVlan = false → run = out (free a)) ∧
      (x.ipVlan = true →
       (f.etype = 0x0806 → run = out (free (a.arpTake x.port f h))) ∧
       (f.etype = 0x0800 → (bad → run = out (drop 0)) ∧ (¬bad → ipFor x.port dst = false → run = out (free a)) ∧
        (¬bad → ipFor x.port dst = true → (odd → run = out (drop 1)) ∧ (¬odd →
          (proto = 1 → run = out (free (if own ∧ f.be p 1 = 8 then Dev.ipSend x.port src (.echo ((f.drop h).take total)) a else a))) ∧
          (proto = 17 → (owner false = none → run = out (drop 2)) ∧
            ∀ o, owner false = some o → run = out (a.ipGive port cell.toNat o w0.toNat (p + 8) (total - ihl - 8))) ∧
          (proto ≠ 1 → proto ≠ 17 → proto ≠ 6 ∨ ¬own → run = out (free a)) ∧
          (proto = 6 → own → (owner true = none → run = out (rst (drop 3))) ∧ ∀ o, owner true = some o →
            (fresh → bit fl 4 = false →
              (128 ≤ a.pers.conns.length → run = out (rst (drop 4))) ∧
              (a.pers.conns.length < 128 → run = out (if a.portFull x.port dp = true then rst (free a)
                else free (Dev.ipSend x.port src (.synAck dst src dp sp) (opened a))))) ∧
            (¬fresh ∨ bit fl 4 = true →
              let b := if fresh ∧ a.pers.conns.length < 128 then opened a else a
              run = out ((if bit fl 0 = true ∨ bit fl 2 = true then closed b else b).ipGive port cell.toNat o w0.toNat (p + q) (total - ihl - q))))))))) ∧
    (∀ k r, d.instRec st.pers st.inst = some (k, r) → d.persIn st.pers n = true →
      (d.instRuns st = true →
        (∀ (len : Nat) (src : PersSrc) (m : MsgInfo) (jobs : List Word),
          let run (v : Option Viol) := exec (.stationInput e i len src m v jobs) s
          let b := (d.captureOf e i.toNat r st src len).2
          ((d.captureOf e i.toNat r st src len).1 = none → ∀ v, run v = out b) ∧
          ∀ c, (d.captureOf e i.toNat r st src len).1 = some c →
            let l := if st.pers = 8 then sentenceOf c.data else c.data
            let row := (dataRow st src l).or (b.infoRow i.toNat r st m)
            let take (y : Dev) : Dev := (y.heardFrom e i.toNat r.tb m).inputCommit e i.toNat st { c with data := l } (jobs.map BitVec.toNat)
            let met (v : Viol) : Dev := if commitRow r.pers v.row = true then take (b.received e k r st v) else b.received e k r st v
            (row = none → (l.length ≤ msgMax r.pers r.role st → run none = out (take b)) ∧ (msgMax r.pers r.role st < l.length → run none = out b) ∧
              ∀ v, run (some v) = out (met v)) ∧
            ∀ w v, row = some w → run v = out (met ⟨w, false, 0⟩)) ∧
        (∀ (cell off len port : Nat) (h : Held), r.medium = some .mac → d.handles e cell = some (port, h) → i.toNat ∉ h.served →
          let y := d.frame cell
          let m := Dev.readCellsBy e y.cells y.flen d
          (∀ a ∈ y.cells, d.bankWaits a 256 = false) → m.1.ue = false → frameFor h st m.1.data = true → r.usesMac y.port = true →
          off + len ≤ y.flen → d.captureOf e i.toNat r st (.frame cell off) len = (some ⟨(m.1.data.drop off).take len, y.ts, y.tb⟩,
            m.2.updHeld port cell fun h => { h with served := h.served ++ [i.toNat] })) ∧
        (∀ (y : Dev) (c : Captured) (jobs : List Nat),
          let slot := 2 * i.toNat
          let a := y.copyAddr slot (y.fld .CTL_SLOT_B slot)
          let l := c.data.take st.inLen
          let z := (y.physWrite e a (slotBytes c.ts c.tb l)).slotCommit slot
          (y.slotValid slot = false → y.inputCommit e i.toNat st c jobs = y) ∧
          (y.slotValid slot = true → z.gatewaysOf i.toNat = [] → y.inputCommit e i.toNat st c jobs = z) ∧
          (∀ g kg rg, y.slotValid slot = true → z.gatewaysOf i.toNat = [g] →
            z.instRec (z.pers.stations.get g).pers (z.pers.stations.get g).inst = some (kg, rg) →
            y.inputCommit e i.toNat st c jobs = ((z.updPartner g fun p => { p with notified := true }).instPush rg
              (jobs.getD 0 (Config.notifyWord g)) a l.length g c.ts c.tb))) ∧
        (∀ v : Viol, let a := d.extNow n r.tb
          let row := (lossRow r st).getD 0
          let miss (d : Dev) : Dev := d.updPartner i.toNat fun p => { p with misses := p.misses + 1 }
          let hit : Dev → Dev := Dev.violation e k r ⟨row, false, v.arg⟩
          let b := if v.cond = true then (if missRow st.pers row = true then hit (miss a.2) else miss a.2) else a.2
          let gone := b.updPartner i.toNat fun p => { p with lost := true }
          ((b.partner i.toNat).lost = true ∨ b.lossDue i.toNat r st a.1 = false → exec (.stationLoss e i v) s = out b) ∧
          ((b.partner i.toNat).lost = false → b.lossDue i.toNat r st a.1 = true →
            let z := if missRow st.pers row = true then gone else hit gone
            exec (.stationLoss e i v) s = out (z.each (z.lostStations i.toNat st) fun j x => if x.slotValid (2 * j) then x.lossReport j else x)) ∧
          (st.pers ≠ 0xA → ∀ y : Dev, y.lostStations i.toNat st = [i.toNat]))) ∧
      (let a := d.takeOverSeq
       a.instSends st = true →
        (a.claims k r = true → exec (.gatewayTransmit e i) s = out (a.claim k r)) ∧
        (a.claims k r = false → st.pers = 7 → st.isSv = false → exec (.gatewayTransmit e i) s = out (a.goosePublish e i.toNat)) ∧
        (a.claims k r = false → st.pers ≠ 7 ∨ st.isSv = true →
          let b := a.extNow n r.tb
          let o := (b.2.txMark i.toNat r b.1).outputOf e i.toNat st
          (b.2.txDue i.toNat r st b.1 = false → exec (.gatewayTransmit e i) s = out b.2) ∧
          (b.2.txDue i.toNat r st b.1 = true → (o.1 = none → exec (.gatewayTransmit e i) s = out o.2) ∧
            ∀ l q, o.1 = some (l, q) →
              (st.pers ≠ 8 ∨ r.medium ≠ some .mac →
                exec (.gatewayTransmit e i) s = out (o.2.persSend r (.data i.toNat (o.2.ownAddr k r) st.dest l q))) ∧
              (st.pers = 8 → r.medium = some .mac → next (.gatewayTransmit e i) fun t => ∃ b : TagBlock,
                t.pers.sent = some (.udpbc i.toNat st.dest b l) ∧ b.s = st.param ∧ b.n = o.2.pers.lines.get k % 999 + 1 ∧
                  t.pers.lines.get k = b.n)))) ∧
      (∀ y : Dev, let slot := if st.gateway then 2 * st.src else 2 * i.toNat + 1
        let o := (y.outputOf e i.toNat st).1
        let q := y.fld .CTL_SLOT_QUAL slot
        let newest := (y.slotData e slot (y.fld .CTL_SLOT_LAST slot) (y.pers.stations.get st.src).inLen st.outLen).1
        (y.slotValid slot = false → o = none) ∧
        (y.slotValid slot = true → y.bankWaits (y.copyAddr slot (y.fld .CTL_SLOT_LAST slot)) (16 + st.outLen) = false →
          (st.gateway = false → o = some ((y.slotData e slot (y.fld .CTL_SLOT_LAST slot) st.outLen st.outLen).1, expressOf st.pers 0)) ∧
          (st.gateway = true →
            (st.pers = 8 → o = if q = 0 ∨ q = 3 then some (newest, .plain) else none) ∧
            (st.pers ∈ [1, 4, 5, 6, 0xA] → q = 2 → o = some (if y.slotValid (2 * i.toNat + 1) = true then
              (y.slotData e (2 * i.toNat + 1) 3 st.outLen st.outLen).1 else leBytes st.outLen 0, .plain)) ∧
            (st.pers = 9 ∨ st.pers = 0xB → q = 2 → o = some (List.replicate st.outLen 255#8, .plain)) ∧
            (st.pers ≠ 8 → q ≠ 2 ∨ st.pers ∉ [1, 4, 5, 6, 9, 0xA, 0xB] → o = some (newest, expressOf st.pers q)))))) ∧
    (∀ (l : Limit) (r : InstRec), d.pers.insts[i.toNat]? = some r →
      let run := exec (.instanceRefuse e (i, l)) s
      let c := (d.fresh.2.logRecord e d.fresh.1 [r.inst]).updPers fun x => { x with refused := instKey r.pers r.inst :: x.refused }
      (d.persLoaded r.pers = false →
        (d.firstPersIn n = true → i.toNat ∉ d.pers.skipped →
          run = out ((d.commonCount e 0 1).updPers fun x => { x with skipped := i.toNat :: x.skipped })) ∧
        (d.firstPersIn n = false ∨ i.toNat ∈ d.pers.skipped → run = out d)) ∧
      (d.persLoaded r.pers = true → d.persIn r.pers n = true → instKey r.pers r.inst ∉ d.pers.refused →
        (d.unmet i.toNat r l = true → run = out (if c.blockOk r = true then c.persCount e r.cntBase else c)) ∧
        (d.unmet i.toNat r l = false → run = out d)) ∧
      ∀ x : Station, x.pers = r.pers → x.inst = r.inst → c.instRuns x = false ∧ c.instSends x = false) ∧
    (st.pers = 7 → st.isSv = false → d.publishes st = true →
      let o := d.outputOf e i.toNat st
      (o.1 = none → exec (.goosePublish e i) s = out o.2) ∧
      ∀ l q, o.1 = some (l, q) →
        let p := o.2.pers.pubs.get i.toNat
        (l = Frame.padTo p.last st.outLen ∧ (q = p.quality ∨ p.stNum = 0) → exec (.goosePublish e i) s = out o.2) ∧
        (¬(l = Frame.padTo p.last st.outLen ∧ (q = p.quality ∨ p.stNum = 0)) → next (.goosePublish e i) fun t =>
          let u := t.pers.pubs.get i.toNat
          u.stNum ≠ 0 ∧ (p.stNum + 1 < 2 ^ 32 → u.stNum = p.stNum + 1) ∧ u.last = l ∧ u.quality = q ∧ u.sqNum = 0 ∧
          t.pers.sent = some (.goose i.toNat u.stNum 0 l q)))) ∧
    (let d := s.dev
     let st := d.pers.stations.get i.toNat
     st.pers = 7 → st.isSv = false → d.publishes st = true → let p := d.pers.pubs.get i.toNat
      (p.stNum ≠ 0 → reached p.due (d.pubNow st) = true → next (.gooseRetransmit i) fun t => let q := t.pers.pubs.get i.toNat
        q.last = p.last ∧ q.quality = p.quality ∧ q.stNum = p.stNum ∧ q.sqNum ≠ 0 ∧ (p.sqNum + 1 < 2 ^ 32 → q.sqNum = p.sqNum + 1) ∧
        q.step = min 4 (p.step + 1) ∧ q.due = (p.due + retransmitGap p.step) % 2 ^ 32 ∧
        t.pers.sent = some (.goose i.toNat p.stNum q.sqNum p.last p.quality)) ∧
      (p.stNum ≠ 0 → reached p.due (d.pubNow st) = false → exec (.gooseRetransmit i) s = .next s))

/-! ### Cyclic control -/

/-- SLOT_COMMIT swaps B and N of an input slot and sets PEND, rotates an unowned output slot, and is refused for an owned one. LOSS_REPORT
sets LOST. SLOT_FORCE and SLOT_RELEASE by Patrol set and clear FORCED. ARITH_REPORT counts. INPUT_LATCH takes T0: a skipped T0 is counted,
a T0 during a run latches nothing, any other applies an armed exchange and latches the task's input slots (new data move to F, the quality
follows LOST, FORCED and the stale count). An exchange logs PROG_ID. TASK_RELEASE, once the latch table is written, pushes the job, or counts its loss. OUTPUT_DEADLINE commits the
task's output slots when the run ended in time, else counts an overrun, and at OVR_LIMIT enters SAFE, where pick-ups read copy 3. ARM and
CLR_SAFE act as R440 and R429 say. -/
def Obligations.ControlRowsComplete : Prop :=
  ∀ (t : Fin 16) (s : State), let d := s.dev
    let out (d : Dev) : Host.Outcome State Fault Refusal := .next (s.withDev d)
    let next (i : Instr) (p : Dev → Prop) : Prop := ∃ t, exec i s = .next t ∧ t.pending = s.pending ∧ p t.dev
    let up (r : Reg) (k : Nat) (e : Dev) : Prop := e.reg r k = min (d.reg r k + 1) 0xFFFFFFFF
    let copies (d : Dev) (n : Nat) : Nat × Nat × Nat := (d.fld .CTL_SLOT_B n, d.fld .CTL_SLOT_N n, d.fld .CTL_SLOT_F n)
    let hold := d.flag .CTL_STATUS_HOLD
    (∀ (who : Agent) (n : BitVec 13), d.reaches who .CTL_COMMIT 0 0 true → let m := n.toNat
      let (b, k, f) := copies d m
      (d.slotValid m = false → next (.slotCommit who n) fun e => up .CTL_MISUSE_CNT 0 e ∧ e.reg .CTL_SLOT m = d.reg .CTL_SLOT m) ∧
      (d.slotValid m = true → isOut m = false → next (.slotCommit who n) fun e => copies e m = (k, b, f) ∧ e.flag .CTL_SLOT_PEND m = true ∧
        e.flag .CTL_SLOT_LOST m = false ∧ e.fld .CTL_SLOT_SEQ m = (d.fld .CTL_SLOT_SEQ m + 1) % 256 ∧
        e.fld .CTL_SLOT_LAST m = (if d.flag .CTL_SLOT_FORCED m then 3 else b) ∧ e.mem = d.mem) ∧
      (d.slotValid m = true → isOut m = true → d.slotOwned m = true → next (.slotCommit who n) fun e => up .CTL_COMMIT_REFUSE_CNT 0 e ∧
        e.reg .CTL_SLOT m = d.reg .CTL_SLOT m) ∧
      (d.slotValid m = true → isOut m = true → d.slotOwned m = false → next (.slotCommit who n) fun e => copies e m = (f, b, k) ∧
        e.fld .CTL_SLOT_SEQ m = (d.fld .CTL_SLOT_SEQ m + 1) % 256 ∧ e.fld .CTL_SLOT_LAST m = (if hold then 3 else b) ∧ e.mem = d.mem)) ∧
    (∀ (who : Agent) (i : BitVec 12), let m := 2 * i.toNat
      d.reaches who .CTL_LOSS 0 0 true → d.slotValid m = true → next (.lossReport who i) fun e => e.flag .CTL_SLOT_LOST m = true ∧
        copies e m = copies d m ∧ (d.flag .CTL_SLOT_LOST m = false → e.fld .CTL_SLOT_STALE_N m = 0)) ∧
    (∀ (who : Agent) (n : BitVec 13), d.reaches who .CTL_FORCE 0 0 true → let m := n.toNat
      if who.mid = 0x40 ∧ isOut m = false ∧ d.slotValid m = true then
        (next (.slotForce who n) fun e => e.flag .CTL_SLOT_FORCED m = true ∧ e.fld .CTL_SLOT_LAST m = 3 ∧ copies e m = copies d m) ∧
        next (.slotRelease who n) fun e => e.flag .CTL_SLOT_FORCED m = false ∧ copies e m = copies d m ∧ e.fld .CTL_SLOT_LAST m =
          if d.flag .CTL_SLOT_PEND m = true ∨ d.slotOwned m = false then d.fld .CTL_SLOT_N m else d.fld .CTL_SLOT_F m
      else ∀ c ∈ [Instr.slotForce who n, .slotRelease who n], next c fun e => up .CTL_MISUSE_CNT 0 e ∧ e.reg .CTL_SLOT m = d.reg .CTL_SLOT m) ∧
    (∀ who : Agent, d.reaches who .CTL_ARITH 0 0 true → next (.arithReport who t) fun e => e.flag .CTL_TASK_STAT_ARITH t = true ∧
      up .CTL_ARITH_CNT t e) ∧
    (∀ t0 rest, (d.task t).due = t0 :: rest → d.flag .CTL_TASK_CFG_EN t = true → d.domOn .swc = true →
      d.dueAt islSwitch (d.fld .CTL_TASK_CFG_TB t) t0 ≠ .ahead → t.val ≠ d.copyTask ∨ d.par.takeNext = false ∧ d.par.yieldSent = false →
      let skip := d.dueAt islSwitch (d.fld .CTL_TASK_CFG_TB t) t0 = .passed ∨ (d.task t).isOpen = true ∧
        reached t0 ((d.reg .CTL_TASK_T0 t + d.reg .CTL_TASK_DEADLINE t) % 2 ^ 32) = true ∨
        (d.task t).isOpen = false ∧ (d.task t).had = true ∧ sub32 t0 (d.reg .CTL_TASK_T0 t) ≤ d.reg .CTL_TASK_DEADLINE t
      (skip → next (.inputLatch t) fun e => up .CTL_SKIP_CNT t e ∧ e.reg .CTL_TASK_T0 t = d.reg .CTL_TASK_T0 t ∧
        (e.task t).isOpen = (d.task t).isOpen ∧ (e.task t).cycle = ((d.task t).cycle + 1) % 65536 ∧ (e.task t).lastT0 = some t0) ∧
      (¬skip → d.fld .CTL_TASK_STAT_RUN t ≠ 0 → next (.inputLatch t) fun e => e.reg .CTL_TASK_T0 t = t0 % 2 ^ 32 ∧ (e.task t).isOpen = true ∧
        (e.task t).inTime = false ∧ (e.task t).release = none ∧ (e.task t).cycle = ((d.task t).cycle + 1) % 65536 ∧ e.mem = d.mem) ∧
      (¬skip → d.fld .CTL_TASK_STAT_RUN t = 0 → ∃ e : Dev, exec (.inputLatch t) s = out ((e.exchangeAt t t0).latchTask t) ∧
        e.reg .CTL_TASK_T0 t = t0 % 2 ^ 32 ∧ (e.task t).isOpen = true ∧ e.mem = d.mem ∧ ∀ n < 8192, e.reg .CTL_SLOT n = d.reg .CTL_SLOT n)) ∧
    (∀ t0, let e := d.exchangeAt t t0
      if d.flag .CTL_TASK_CTRL_PENDING t = true ∧ reached (d.reg .CTL_XCHG_AT t) t0 = true then
        ∃ (f : Dev) (c : Nat), e = f.eventLog 0x40 c [f.view (f.taskCode t + 8) 4, t] ∧
          f.taskCode t = d.reg64 .CTL_XCHG_ADDR_LOW .CTL_XCHG_ADDR_HIGH t ∧ f.flag .CTL_TASK_CTRL_PENDING t = false ∧ (f.task t).ran = false ∧
          (f.task t).prev = d.taskCode t ∧ f.mem = d.mem
      else e = d) ∧
    (∀ n ∈ d.taskSlots t false, let (b, k, f) := copies d n
      let new := d.flag .CTL_SLOT_PEND n
      let lost := d.flag .CTL_SLOT_LOST n
      let stale := d.fld .CTL_SLOT_STALE_N n
      let e := (d.latchSlot t n).2
      (d.latchSlot t n).1 = new ∧ copies e n = (if new then (b, f, k) else (b, k, f)) ∧ e.flag .CTL_SLOT_PEND n = false ∧
        e.fld .CTL_SLOT_QUAL n = (if d.flag .CTL_SLOT_FORCED n then 3 else if !lost then 0 else if stale < d.fld .CTL_TASK_HOLD_HOLD_CYC t then 1 else 2) ∧
        e.fld .CTL_SLOT_STALE_N n = (if lost then min 15 (stale + 1) else stale) ∧
        e.fld .CTL_SLOT_LAST n = (if d.flag .CTL_SLOT_FORCED n then 3 else if new then k else f) ∧
        ∀ m < 8192, m ≠ n → e.reg .CTL_SLOT m = d.reg .CTL_SLOT m) ∧
    ((d.task t).table ≠ [] → d.tableWaits t = true → exec (.taskRelease t) s = out d) ∧
    (∀ size, (d.task t).release = some size → (d.task t).table = [] ∨ d.tableWaits t = false → let d := d.tableWrite t
      let x := d.task t
      let mid := d.fld .CTL_TASK_STAT_ENG t
      let j := ((jobWords (putBits (putBit (putBits (d.reg .CTL_TASK_JOB0 t) 15 14 3) 16 true) 20 18 (mid % 8)) x.latch size 0x51 0
        (d.reg .CTL_TASK_T0 t * 256) (d.fld .CTL_TASK_CFG_TB t) (t + b2n (!x.ran) * 16 + x.cycle * 2 ^ 16)).set 6 (word x.prev)).set 7
          (word (x.prev / 2 ^ 32))
      let p := (d.updTask t fun x => { x with release := none }).push (mid / 8) j (some (.ctl t))
      if p.1 = .refused then next (.taskRelease t) fun e => e.reg .CTL_JOB_DROP_CNT = min (p.2.reg .CTL_JOB_DROP_CNT + 1) 0xFFFFFFFF ∧
        (e.task t).release = (p.2.task t).release ∧ e.eng = p.2.eng
      else next (.taskRelease t) fun e => e.fld .CTL_TASK_STAT_RUN t = 1 ∧ (e.task t).ran = true ∧ (e.task t).runT0 = p.2.reg .CTL_TASK_T0 t ∧
        e.eng = p.2.eng) ∧
    (d.deadlineDue t = true → t.val ≠ d.copyTask ∨ d.parState ≠ parActive → let safe := d.flag .CTL_TASK_STAT_SAFE t
      let consec := min 255 (d.fld .CTL_TASK_STAT_CONSEC t + 1)
      ((d.task t).inTime = true → next (.outputDeadline t) fun e => up .CTL_RUN_CNT t e ∧ e.fld .CTL_TASK_STAT_CONSEC t = 0 ∧
        (e.task t).isOpen = false ∧ e.mem = d.mem ∧
        ∀ n ∈ d.taskSlots t true, let (b, k, f) := copies d n
          if d.parHolds t = true then e.reg .CTL_SLOT n = d.reg .CTL_SLOT n
          else copies e n = (f, b, k) ∧ e.fld .CTL_SLOT_LAST n = if hold || safe then 3 else b) ∧
      ((d.task t).inTime = false → next (.outputDeadline t) fun e => up .CTL_OVR_CNT t e ∧ e.fld .CTL_TASK_STAT_CONSEC t = consec ∧
        (e.task t).isOpen = false ∧ e.mem = d.mem ∧
        e.fld .CTL_TASK_STAT_RUN t = (if d.fld .CTL_TASK_STAT_RUN t = 1 then 2 else d.fld .CTL_TASK_STAT_RUN t) ∧
        (consec = d.fld .CTL_TASK_CFG_OVR_LIMIT t → e.flag .CTL_TASK_STAT_SAFE t = true ∧
          (d.parHolds t = false → ∀ n ∈ d.taskSlots t true, e.fld .CTL_SLOT_LAST n = 3) ∧
          (d.parHolds t = true → e.flag .PAR_STATUS_UNFIT = true)) ∧
        (consec ≠ d.fld .CTL_TASK_CFG_OVR_LIMIT t → e.flag .CTL_TASK_STAT_SAFE t = safe) ∧
        ∀ n ∈ d.taskSlots t true, copies e n = copies d n)) ∧
    ∀ who : Agent, d.reaches who .CTL_TASK_CTRL t 0 true →
      (if who.mid = 0x40 ∧ d.flag .CTL_TASK_CTRL_PENDING t = false ∧ d.view (d.reg64 .CTL_XCHG_ADDR_LOW .CTL_XCHG_ADDR_HIGH t + 6) 1 = t.val then
        next (.arm who t) fun e => e.flag .CTL_TASK_CTRL_PENDING t = true ∧ e.taskCode t = d.taskCode t
      else next (.arm who t) fun e => up .CTL_XCHG_REFUSE_CNT 0 e ∧ e.reg .CTL_TASK_CTRL t = d.reg .CTL_TASK_CTRL t) ∧
      next (.clrSafe who t) fun e => e.flag .CTL_TASK_STAT_SAFE t = false ∧ (e.task t).streak = 0

/-! ### Pairs -/

/-- PAR_ENABLE enters LISTEN; START_WAIT_EXPIRY without a heartbeat makes the unit ACTIVE. Heartbeats carry a rising COUNT; a valid tandem
heartbeat clears the misses, decides LISTEN and a double ACTIVE by rank, and starts SYNCING; a network heartbeat that is not newer, wrong or
not authentic is counted. When both paths have fallen silent a standby becomes ACTIVE, or OFF where it is UNFIT: an UNFIT unit never takes
over. RELINQUISH, RESYNC and CLR_UNFIT act where they may. SEQ, OUT, PAGE and END frames are taken by a standby alone: the last OUT
commits, a page goes to its own address, END with every tracked page since SYNCING began makes it SYNCED. At COPY_WINDOW_CLOSE without
END the standby is UNSYNCED, and it commits its own results where the copy's did not come. A yielding ACTIVE and a taking STANDBY change
roles at the T0 of COPY_TASK. A cycle without a copy whose run did not end in time is counted as not compared (log entry 26). -/
def Obligations.PairRowsComplete : Prop :=
  ∀ s : State, let d := s.dev
    let out (d : Dev) : Host.Outcome State Fault Refusal := .next (s.withDev d)
    let next (i : Instr) (p : Dev → Prop) : Prop := ∃ t, exec i s = .next t ∧ t.pending = s.pending ∧ p t.dev
    let up (r : Reg) (e : Dev) : Prop := e.reg r = min (d.reg r + 1) 0xFFFFFFFF
    let st := d.parState
    let sync := d.parSync
    let unfit := d.flag .PAR_STATUS_UNFIT
    let rank := d.flag .PAR_STATUS_RANK
    let lim := d.fld .PAR_CFG_MISS_LIMIT
    let netEn := d.flag .PAR_NETHB_EN
    let mine (h : Heartbeat) : Prop := h.pairId = d.fld .PAR_ID_PAIR_ID ∧ h.node = d.fld .PAR_NODE_PARTNER
    let good (b : List Byte) (x : TdmTag) : Prop := d.par.linked = true ∧ d.tandemLoops = false ∧ d.tandemOk b x = true
    let takes (b : List Byte) (x : TdmTag) : Prop := d.fld .PAR_STATUS_LANES ≠ 0 ∧ good b x ∧ d.par.rxPn < x.pn.toNat
    let seen (x : TdmTag) : Dev := d.updPar fun p => { p with rxPn := x.pn.toNat }
    let heard (h : Heartbeat) : Nat := if st = parListen then
        (if h.state = parActive then parStandby else if h.state = parListen ∧ rank = false then parActive else parListen) else st
    (∀ (who : Agent) (v : Word), d.reaches who .PAR_CFG 0 0 true → d.flag .PAR_CFG_EN = false → bit v.toNat 0 = true →
      next (.parEnable who v) fun e => e.parState = parListen ∧ e.flag .PAR_CFG_EN = true ∧ e.par.heard = false ∧ e.par.netCount = none ∧
        e.par.count % 2 ^ 32 = 0 ∧ e.fld .PAR_STATUS_TMISS = 0 ∧ e.fld .PAR_STATUS_NMISS = 0) ∧
    (if st = parListen ∧ d.par.heard = false then next .startWaitExpiry fun e => e.parState = parActive else exec .startWaitExpiry s = out d) ∧
    (if st = parOff ∨ d.txHeld = true then exec .heartbeatSend s = out d else next .heartbeatSend fun e =>
      let c := d.par.count / 2 ^ 32 * 2 ^ 32 + (d.par.count + 1) % 2 ^ 32
      e.par.count = c ∧ e.par.hbSent = some ⟨d.fld .PAR_ID_PAIR_ID, d.fld .PAR_NODE_NODE, st, rank, sync, unfit, d.par.yielding, c⟩ ∧
        e.regs = d.regs ∧ e.mem = d.mem ∧ e.par.yieldSent = (d.par.yieldSent || (d.par.yielding && d.par.linked)) ∧
        (d.par.linked = true → ∀ k, d.vlt.tandemSak = some k → e.par.txPn = d.par.txPn + 1 ∧
          e.par.wire = [tandemSeal k (d.fld .PAR_NODE_NODE) (d.fld .PAR_STATUS_LANES) (d.par.txPn + 1) d.ownHeartbeat.tandem]) ∧
        let n := d.fld .PAR_NETHB_PORT
        if netEn = true ∧ d.macSends n = true ∧ d.kHbn.isSome = true then ∃ x k, d.kHbn = some k ∧ (e.mac.get n).last = some x ∧
          x.bytes.take 14 = beBytes 6 (putBit (d.reg64 .PAR_PAIR_MAC_LOW .PAR_PAIR_MAC_HIGH) 40 true) ++ beBytes 6 (d.reg64 .MAC_SA_LOW .MAC_SA_HIGH n)
            ++ beBytes 2 (d.fld .PAR_NETHB_ETYPE) ∧ (x.bytes.drop 44).take 16 = beBytes 16 (Dev.netTag k d.ownHeartbeat)
        else e.mac = d.mac) ∧
    (∀ (h : Heartbeat) (x : TdmTag), h.wellFormed = true →
      (d.fld .PAR_STATUS_LANES = 0 → exec (.tandemHeartbeat h x) s = out d) ∧
      (d.fld .PAR_STATUS_LANES ≠ 0 → ¬good h.tandem x → exec (.tandemHeartbeat h x) s = out (d.count .PAR_AUTH_CNT)) ∧
      (d.fld .PAR_STATUS_LANES ≠ 0 → good h.tandem x → x.pn.toNat ≤ d.par.rxPn → exec (.tandemHeartbeat h x) s = out d) ∧
      (takes h.tandem x → st = parOff ∨ ¬mine h → exec (.tandemHeartbeat h x) s = out (seen x)) ∧
      (takes h.tandem x → st ≠ parOff → mine h → 0 < lim → next (.tandemHeartbeat h x) fun e =>
        let st' := if heard h = parActive ∧ h.state = parActive ∧ rank = true then parStandby else heard h
        let y := if st ≠ parStandby ∧ st' = parStandby then 0 else sync
        e.par.rxPn = x.pn.toNat ∧ e.fld .PAR_STATUS_TMISS = 0 ∧ e.flag .PAR_STATUS_PATH_T = true ∧ e.flag .PAR_STATUS_DETACHED = false ∧
        e.fld .PAR_STATUS_PARTNER_STATE = h.state ∧ e.flag .PAR_STATUS_PARTNER_UNFIT = h.unfit ∧ e.par.heard = true ∧ e.parState = st' ∧
        e.parSync = (if st' = parStandby ∧ y = 0 ∧ d.par.imgDiffers = false then 1 else y) ∧
        e.par.tandemFit = (h.sync == 2 && !h.unfit) ∧ e.flag .PAR_STATUS_UNFIT = unfit ∧
        (st = parActive → st' = parStandby → up .PAR_YIELD_CNT e) ∧
        (st = parStandby → e.par.takeNext = (d.par.takeNext || (h.yield && sync == 2 && !unfit))))) ∧
    (∀ (h : Heartbeat) (tag : BitVec 128), h.wellFormed = true →
      let tagOk := ∃ k, d.kHbn = some k ∧ Dev.netTag k h = tag.toNat
      (st = parOff ∨ netEn = false → exec (.networkHeartbeat h tag) s = out d) ∧
      (st ≠ parOff → netEn = true → ¬tagOk ∨ ¬mine h ∨ (∃ c, d.par.netCount = some c ∧ h.count ≤ c) →
        exec (.networkHeartbeat h tag) s = out (d.count .PAR_HB_BAD_CNT)) ∧
      (st ≠ parOff → netEn = true → tagOk → mine h → (∀ c, d.par.netCount = some c → c < h.count) →
        next (.networkHeartbeat h tag) fun e => e.par.netCount = (if lim = 0 then none else some h.count) ∧ e.fld .PAR_STATUS_NMISS = 0 ∧ e.par.heard = true ∧
          e.parState = heard h ∧ e.fld .PAR_STATUS_PARTNER_STATE = h.state ∧ e.flag .PAR_STATUS_UNFIT = unfit)) ∧
    (∀ net : Bool, st ≠ parOff → next (.heartbeatMiss net) fun e =>
      let tm := if net then d.fld .PAR_STATUS_TMISS else min 15 (d.fld .PAR_STATUS_TMISS + 1)
      let nm := if net then min 15 (d.fld .PAR_STATUS_NMISS + 1) else d.fld .PAR_STATUS_NMISS
      let silent := st = parStandby ∧ lim ≤ tm ∧ (netEn = false ∨ lim ≤ nm)
      up (if net then .PAR_NMISS_CNT else .PAR_TMISS_CNT) e ∧ e.fld .PAR_STATUS_TMISS = tm ∧ e.fld .PAR_STATUS_NMISS = nm ∧
      (silent → unfit = true → e.parState = parOff ∧ e.flag .PAR_CFG_EN = false ∧ e.reg .PAR_TAKEOVER_CNT = d.reg .PAR_TAKEOVER_CNT) ∧
      (silent → unfit = false → e.parState = parActive ∧ up .PAR_TAKEOVER_CNT e ∧
        e.flag .PAR_STATUS_COLD = !(sync == 2 && !d.flag .PAR_STATUS_DETACHED)) ∧
      (¬silent → e.parState = st ∧ e.flag .PAR_STATUS_PATH_T = decide (tm < lim) ∧ e.flag .PAR_STATUS_PATH_N = (netEn && decide (nm < lim)))) ∧
    (∀ who : Agent, d.reaches who .PAR_CTRL 0 0 true →
      (st = parActive → d.par.tandemFit = true → next (.relinquish who) fun e => e.par.yieldNext = true ∧ e.parState = parActive) ∧
      (st ≠ parActive ∨ d.par.tandemFit = false → next (.relinquish who) fun e => up .PAR_MISUSE_CNT e ∧ e.par = d.par) ∧
      (next (.resync who) fun e => e.parState = st ∧
        e.parSync = if st = parStandby ∧ sync = 0 ∧ d.par.imgDiffers = false then 1 else sync) ∧
      (who.mid = 0x40 → next (.clrUnfit who) fun e => e.flag .PAR_STATUS_UNFIT = false ∧ e.fld .PAR_DIV_SLOT_CONSEC = 0 ∧ e.parSync = 0 ∧
        e.parState = st) ∧
      (who.mid ≠ 0x40 → next (.clrUnfit who) fun e => up .PAR_MISUSE_CNT e ∧ e.flag .PAR_STATUS_UNFIT = unfit)) ∧
    (∀ x : TdmTag, st = parStandby →
      (∀ q : SeqF, takes (CopyF.seq q).bytes x → next (.seqFrameReceive q x) fun e => e.par.seq = some q ∧ e.par.rxPn = x.pn.toNat ∧ e.par.outs = [] ∧ e.mem = d.mem ∧
        (if ∃ c ∈ q.codes, d.taskCode c.1 ≠ c.2 then e.par.progDiffers = true ∧ e.parSync = 0 ∧ up .PAR_PROG_MISMATCH_CNT e
         else e.par.progDiffers = false ∧ e.parSync = sync)) ∧
      (∀ (q : SeqF) (n : BitVec 13) (data : List Byte), d.par.seq = some q → data.length ≤ 1520 → n.toNat ∈ d.pairSlots →
        takes (CopyF.out n.toNat data).bytes x → (∀ o ∈ d.par.outs, o.1 ≠ n.toNat) → let outs := d.par.outs ++ [(n.toNat, data)]
        let a := (seen x).updPar fun p => { p with outs := outs }
        (outs.length < d.pairSlots.length → exec (.outFrameReceive n data x) s = out a) ∧
        (d.pairSlots.length ≤ outs.length → exec (.outFrameReceive n data x) s = out ((((((a.compareCopy outs).each outs fun o s =>
          s.physWrite ctlMid (s.copyAddr o.1 (s.fld .CTL_SLOT_B o.1) + 16) o.2).commitPair (outs.map (·.1))).loadSeqrec q)).updPar fun x =>
            { x with outsDone := !x.late }))) ∧
      (∀ (p : BitVec 28) (data : List Byte), d.par.seq ≠ none → d.par.late = false → d.par.progDiffers = false → data.length = 4096 →
        takes (CopyF.page (p.toNat * 4096) data).bytes x →
        exec (.pageFrameReceive p data x) s = out (((seen x).physWrite ctlMid (p.toNat * 4096) data).updPar fun x =>
          { x with arrived := if x.arrived.contains p.toNat then x.arrived else p.toNat :: x.arrived })) ∧
      (∀ k : BitVec 32, d.par.seq ≠ none → takes (CopyF.fin k.toNat).bytes x → next (.endFrameReceive (k, x)) fun e => e.par.seq = none ∧ e.par.ended = !d.par.late ∧ e.parSync =
        if d.par.late = false ∧ d.par.progDiffers = false ∧ sync = 1 ∧ ∀ p ∈ d.trackedPages, p ∈ d.par.arrived then 2 else sync)) ∧
    (st ≠ parStandby → ∀ x, (∀ q, takes (CopyF.seq q).bytes x → exec (.seqFrameReceive q x) s = out (seen x)) ∧
      (∀ k : BitVec 32, takes (CopyF.fin k.toNat).bytes x → exec (.endFrameReceive (k, x)) s = out (seen x)) ∧
      ∀ (n : BitVec 13) data, data.length ≤ 1520 → takes (CopyF.out n.toNat data).bytes x → exec (.outFrameReceive n data x) s = out (seen x)) ∧
    (let t := d.copyTask
     st = parStandby → d.par.window = true → d.dueAt islSwitch (d.fld .CTL_TASK_CFG_TB t)
       ((d.reg .CTL_TASK_T0 t + d.reg .CTL_TASK_DEADLINE t + d.reg .PAR_COPY_WIN) % 2 ^ 32) ≠ .ahead →
     let own := !d.par.outsDone && !d.flag .PAR_STATUS_DETACHED
     next .copyWindowClose fun e => e.par.window = false ∧ e.parState = parStandby ∧ e.parSync = (if d.par.ended then sync else 0) ∧
      (if own || !d.par.ended then up .PAR_COPY_LATE_CNT e else e.reg .PAR_COPY_LATE_CNT = d.reg .PAR_COPY_LATE_CNT) ∧
      (if !d.par.outsDone && d.flag .PAR_CFG_CMP_EN && !d.pairTimely then up .PAR_CMP_SKIP_CNT e
       else e.reg .PAR_CMP_SKIP_CNT = d.reg .PAR_CMP_SKIP_CNT) ∧ e.mem = d.mem ∧
      ∀ n ∈ d.pairSlots, if own = true ∧ d.slotTask n ∈ d.par.inTime then
          e.fld .CTL_SLOT_N n = d.fld .CTL_SLOT_B n ∧ e.fld .CTL_SLOT_B n = d.fld .CTL_SLOT_F n ∧ e.fld .CTL_SLOT_F n = d.fld .CTL_SLOT_N n
        else e.reg .CTL_SLOT n = d.reg .CTL_SLOT n) ∧
    (∀ (t : Fin 16) (t0 : Nat) (rest : List Nat), t.val = d.copyTask → (d.task t).due = t0 :: rest → d.flag .CTL_TASK_CFG_EN t = true →
      d.domOn .swc = true → d.dueAt islSwitch (d.fld .CTL_TASK_CFG_TB t) t0 ≠ .ahead →
      (st = parStandby → d.par.takeNext = true → exec (.inputLatch t) s = out (d.parToActive.inputLatch t) ∧ d.parToActive.parState = parActive) ∧
      (st = parActive → d.par.yieldSent = true → exec (.inputLatch t) s = out (d.parToStandby.parSilence.inputLatch t) ∧
        d.parToStandby.parState = parStandby)) ∧
    ∀ t : Fin 16, t.val = d.copyTask → d.deadlineDue t = true → st = parActive → (d.task t).inTime = true →
      exec (.outputDeadline t) s = out (d.outputDeadline t).sendCopy

/-! ### Patrol -/

/-- A lockstep mismatch, an uncorrectable fetch and a watchdog count that has reached 0 start a WDOG reset, which shows its cause and loses
memory. Only 0x5A5A restarts the count; another value is counted. LOAD_WINDOW_END shows the load and moves LEVEL by at most one, up to 4 at
SHED_HI and down to 0 at SHED_LO. PATROL_QUEUE_PUSH by Patrol of a job that is not pinned, for FWID 15, enters the queue while it has room,
and is counted as refused otherwise. EVENT_LOG_RECORD writes time, source, code, number and data at WR, and then moves WR on. The rows of
modes and power complete: Patrol's write of SYS_MODE_CTRL sets HOLD or FWX, or clears HOLD where nothing keeps it; a request of one domain
starts its change, whose end is DOMAIN_SWITCH_DONE; Patrol's PWR_SLEEP.ENTER enters Retention, from which the pin and the time wake, and the
boot of a wake starts. -/
def Obligations.PatrolRowsComplete : Prop :=
  ∀ s : State, let d := s.dev
    let out (d : Dev) : Host.Outcome State Fault Refusal := .next (s.withDev d)
    let next (i : Instr) (p : Dev → Prop) : Prop := ∃ t, exec i s = .next t ∧ t.pending = s.pending ∧ p t.dev
    let up (r : Reg) (e : Dev) : Prop := e.reg r = min (d.reg r + 1) 0xFFFFFFFF
    let resets (i : Instr) (cause : Nat) : Prop := next i fun e => e.sys.resetRun = some .WDOG ∧ e.sys.wdogCause = cause ∧ e.mem = [] ∧
      e.sys.bootHold = true ∧ (∀ c, e.alive c = false) ∧ e.vlt.keyRegs = none
    (d.sys.patOn = true → d.sys.resetRun = none → d.sys.lockdown = false →
      resets (.lockstepMismatch false) 3 ∧ resets (.lockstepMismatch true) 4 ∧
      (d.flag .PAT_WDOG_CFG_EN = true → d.fld .PAT_WDOG_LEFT_MS = 0 → resets .watchdogExpiry 2)) ∧
    ((d.flag .PAT_WDOG_CFG_EN = false ∨ d.fld .PAT_WDOG_LEFT_MS ≠ 0 ∨ d.sys.lockdown = true) → exec .watchdogExpiry s = out d) ∧
    (∀ (who : Agent) (v : Word), d.reaches who .PAT_WDOG_KICK 0 0 true →
      (v = 0x5A5A#32 → d.flag .PAT_WDOG_CFG_EN = true → next (.watchdogKick who v) fun e =>
        e.fld .PAT_WDOG_LEFT_MS = d.fld .PAT_WDOG_CFG_TIMEOUT_MS ∧ e.sys.msTicks = 0) ∧
      (v = 0x5A5A#32 → d.flag .PAT_WDOG_CFG_EN = false → exec (.watchdogKick who v) s = out d) ∧
      (v ≠ 0x5A5A#32 → next (.watchdogKick who v) fun e => up .PAT_KICK_BAD_CNT e ∧ e.reg .PAT_WDOG_LEFT = d.reg .PAT_WDOG_LEFT ∧ e.sys = d.sys)) ∧
    (∀ busy : Fin 101, d.sys.patOn = true → next (.loadWindowEnd busy) fun e =>
      let l := d.fld .PAT_LOAD_LEVEL
      let hi := d.fld .PAT_LOAD_SHED_HI
      let lo := d.fld .PAT_LOAD_SHED_LO
      e.fld .PAT_LOAD_BUSY_PCT = busy.val ∧
      (hi ≤ busy.val → l < 4 → e.fld .PAT_LOAD_LEVEL = l + 1 ∧ up .PAT_SHED_CNT e) ∧ (hi ≤ busy.val → 4 ≤ l → e.fld .PAT_LOAD_LEVEL = l) ∧
      (busy.val < hi → busy.val ≤ lo → e.fld .PAT_LOAD_LEVEL = l - 1) ∧ (busy.val < hi → lo < busy.val → e.fld .PAT_LOAD_LEVEL = l)) ∧
    (∀ (who : Agent) (v : Word), d.reaches who .PAT_SQ_PUSH 7 0 true →
      let m := (d.stagePush 8 7 who.mid who.ctx v.toNat).takeStaged 8 who.mid who.ctx
      let q := d.eng.patQ.map (·.2)
      if d.eng.patQ.length < 64 ∧ m.1.pinned = false ∧ m.1.fwid = 15 ∧ who.mid = 0x40 then
        next (.patrolQueuePush who v) fun e => e.eng.patQ.map (·.2) = q ++ [m.1] ∧ (q = [] → ∀ c < 256, (e.ctx c).patEmpty = false)
      else exec (.patrolQueuePush who v) s = out (m.2.count .PAT_SQ_REFUSE_CNT)) ∧
    (∀ (who : Agent) (on : Bool), d.reaches who .SYS_MODE_CTRL 0 0 true → who.mid = 0x40 →
      (next (.holdEntry who) fun e => e.flag .SYS_MODE_CTRL_HOLD = true ∧ e.inMode [.lockdown, .retention, .start, .selfTest, .provisioning, .hold]) ∧
      (d.holdKept = false → next (.holdExit who) fun e => e.flag .SYS_MODE_CTRL_HOLD = false) ∧
      (next (.fwx who on) fun e => e.flag .SYS_MODE_CTRL_FWX = on ∧ e.flag .SYS_MODE_CTRL_HOLD = d.flag .SYS_MODE_CTRL_HOLD)) ∧
    (∀ (who : Agent) (b : Nat) (on : Bool), d.reaches who .PWR_DOM_CTRL 0 0 true → b < 13 → d.reg .PWR_DOM_CTRL < 2 ^ 13 →
      bit (d.reg .PWR_DOM_CTRL) b = !on → d.flag .PWR_DOM_STAT_BUSY = false → d.domBreaks b on = false → b ≠ 11 ∨ d.boot.target ≠ 2 →
      next (.domainRequest who (word (putBit (d.reg .PWR_DOM_CTRL) b on))) fun e => e.sys.domReq = some (b, on) ∧ e.flag .PWR_DOM_STAT_BUSY = true) ∧
    (∀ (b : Nat) (on : Bool) (fails : BitVec 8), d.sys.domReq = some (b, on) → b < 13 →
      next (.domainSwitchDone fails) fun e => e.sys.domReq = none ∧ e.flag .PWR_DOM_STAT_BUSY = false ∧ e.domOn (domOfBit b) = on) ∧
    (∀ (who : Agent) (v : Word), d.reaches who .PWR_SLEEP 0 0 true → who.mid = 0x40 → bit v.toNat 0 = true → bits v.toNat 2 1 ≠ 0 →
      d.inMode [.standalone, .hosted, .listen, .hold] = true → d.flag .PAR_CFG_EN = false → (∀ t < 16, d.flag .CTL_TASK_CTRL_PENDING t = false) →
      next (.retentionEntry who v) fun e => e.sys.retention = true ∧ e.sys.keptBanks = d.keepBanks) ∧
    (d.sys.retention = true →
      (d.flag .PWR_SLEEP_WAKE_PIN = true → next .wakePin fun e => e.sys.retention = false ∧ e.sys.resume = true) ∧
      (d.flag .PWR_SLEEP_WAKE_TIME = true → d.fld .PWR_WAKE_WRAPS_WRAPS ≤ d.sys.wraps →
        reached (d.reg .PWR_WAKE_AT) (tbNs (d.tbVal (d.fld .PWR_SLEEP_WAKE_TB))) = true →
        next .wakeTime fun e => e.sys.retention = false ∧ e.sys.resume = true)) ∧
    (d.sys.resume = true → d.sys.fabOn = false → next .resumeBoot fun e => e.sys.fabOn = true ∧ e.sys.patOn = true) ∧
    ∀ (source : BitVec 8) (code : BitVec 16) (data : List Word),
      (d.patrolRuns = false → exec (.eventLogRecord source code data) s = out d) ∧
      (∀ h a, d.patrolRuns = true → d.partAddr 5 0 = some h → d.host.logSeq ≠ 0 →
        let cap := (d.partBanks 5).length * 0x2000 - 1
        let m := d.physRead 0x40 h 4
        let wr := leVal m.1.data % cap
        let v := m.2.tbVal 0
        m.2.partAddr 5 (64 + 64 * wr) = some a →
        let words := [tbNs v, tbFrac v + source.toNat * 2 ^ 8 + code.toNat * 2 ^ 16, d.host.logSeq % 2 ^ 32] ++
          ((data.map BitVec.toNat) ++ List.replicate (13 - data.length) 0).take 13
        let e := (m.2.physWrite 0x40 a (wordBytes words)).physWrite 0x40 h (leBytes 4 ((wr + 1) % cap))
        words.length = 16 ∧ exec (.eventLogRecord source code data) s =
          out { e with host := { e.host with logSeq := e.host.logSeq + 1 } })

/-! ### The host interface -/

/-- PCIE_READ and PCIE_WRITE act word by word where the endpoint is up, nothing otherwise; a read that meets an uncorrectable error
completes poisoned. SPI transactions likewise, with STATUS; cut and unknown frames are counted. A word outside the windows reaches nothing
and is counted; a PCI Express read takes at most 128 words, a write 64, and link codes that R484 lacks the nearest (log entry 38). PCIE_PERST and PCIE_LINK_CHANGE act on the link. Each request row, where a complete request of its code waits inside the
windows, while no store of Patrol waits, clears the request mailbox, does its work and answers: GET_INFO, GET_COUNTERS and READ_LOG are BUSY from LEVEL 3 on; the others
answer OK or REFUSED with their effect on the block; RESET resets after the answer. A request outside the windows, incomplete, unreadable
or of an unknown code is answered as bad or unknown; in Provisioning no window is asked for (the model's choice: log entry 31). -/
def Obligations.HostRowsComplete : Prop :=
  ∀ s : State, let d := s.dev
    let out (d : Dev) : Host.Outcome State Fault Refusal := .next (s.withDev d)
    let next (i : Instr) (p : Dev → Prop) : Prop := ∃ t, exec i s = .next t ∧ t.pending = s.pending ∧ p t.dev
    let up (r : Reg) (e : Dev) : Prop := e.reg r = min (d.reg r + 1) 0xFFFFFFFF
    let pcieOn := d.domOn .hst && d.flag .HST_CFG_PCIE_EN && d.flag .HST_STATUS_LINK_UP && !d.host.perst
    let spiOn := d.domOn .hst && d.flag .HST_CFG_SPI_EN
    let zeros (n : Nat) : List Word := List.replicate n 0#32
    (∀ (a : BitVec 40) (n : Fin 1025), let k := min n.val 128
      let r := d.hostReads k a.toNat
      (pcieOn = false → exec (.pcieRead a n) s = out d) ∧
      (pcieOn = true → a.toNat % 4 = 0 → r.2.1 = false → exec (.pcieRead a n) s = out (r.2.2.updHost fun h => { h with pcieData := r.1, pcieEP := false })) ∧
      (pcieOn = true → a.toNat % 4 = 0 → r.2.1 = true → exec (.pcieRead a n) s =
        out ((r.2.2.count .HST_UE_CNT).updHost fun h => { h with pcieData := zeros k, pcieEP := true })) ∧
      (pcieOn = true → a.toNat % 4 ≠ 0 → next (.pcieRead a n) fun e => up .HST_MISUSE_CNT e ∧ e.host.pcieData = zeros k ∧ e.mem = d.mem)) ∧
    (∀ (a : BitVec 40) (l : List Word),
      (pcieOn = false → exec (.pcieWrite a l) s = out d) ∧
      (pcieOn = true → a.toNat % 4 = 0 → exec (.pcieWrite a l) s = out (d.hostWrites (l.take 64) a.toNat)) ∧
      (pcieOn = true → a.toNat % 4 ≠ 0 → exec (.pcieWrite a l) s = out (d.misuse .HST))) ∧
    (∀ a, d.hostMay a false = false → d.hostRead a = (true, ⟨leBytes 4 0, false⟩, d.count .SYS_DENY_CNT)) ∧
    (∀ a v, d.hostMay a true = false → d.hostWrite a v = d.count .SYS_DENY_CNT) ∧
    (∀ (a : BitVec 40) (l : List Word), 1 ≤ l.length → l.length ≤ 64 →
      (spiOn = false → ∀ how, exec (.spiWrite a l how) s = out d) ∧
      (spiOn = true → exec (.spiWrite a l .unknown) s = out (d.count .HST_SPI_FRAME_CNT)) ∧
      (spiOn = true → a.toNat % 4 = 0 → exec (.spiWrite a l .whole) s = out (d.hostWrites l a.toNat) ∧
        exec (.spiWrite a l .cut) s = out ((d.hostWrites l.dropLast a.toNat).count .HST_SPI_FRAME_CNT)) ∧
      (spiOn = true → a.toNat % 4 ≠ 0 → exec (.spiWrite a l .whole) s = out (d.misuse .HST))) ∧
    (∀ (a : BitVec 40) (n : Fin 64), let r := (d.spiActive true).hostRead a.toNat
      (spiOn = false → ∀ late, exec (.spiRead a n late) s = out d) ∧
      (spiOn = true → a.toNat % 4 = 0 → next (.spiRead a n true) fun e => up .HST_SPI_NOTREADY_CNT e ∧ e.host.spiStatus = 2 ∧ e.host.spiData = zeros (n + 1)) ∧
      (spiOn = true → a.toNat % 4 ≠ 0 → ∀ late, next (.spiRead a n late) fun e => e.host.spiStatus = 1 ∧ e.host.spiData = zeros (n + 1)) ∧
      (spiOn = true → a.toNat % 4 = 0 → r.1 = true → exec (.spiRead a n false) s = out (r.2.2.spiAnswer 1 (zeros (n + 1)))) ∧
      (spiOn = true → a.toNat % 4 = 0 → r.1 = false → let m := r.2.2.hostReads n.val (a.toNat + 4)
        let l := (if r.2.1.ue then 0#32 else word (leVal r.2.1.data)) :: m.1
        exec (.spiRead a n false) s = out (if r.2.1.ue || m.2.1 then (m.2.2.count .HST_UE_CNT).spiAnswer 3 l else m.2.2.spiAnswer 0 l))) ∧
    (next (.pciePerst false) fun e => e.host.perst = true ∧ (d.domOn .hst = true → e.flag .HST_STATUS_LINK_UP = false)) ∧
    (next (.pciePerst true) fun e => e.host.perst = false ∧ e.regs = d.regs) ∧
    (∀ w v : Fin 4, d.domOn .hst = true →
      (d.flag .HST_STATUS_LINK_UP = false → d.flag .HST_CFG_PCIE_EN = true → d.host.perst = false → next (.pcieLinkChange true w v) fun e =>
        e.flag .HST_STATUS_LINK_UP = true ∧ e.fld .HST_STATUS_WIDTH = max 1 (min 2 w.val) ∧ e.fld .HST_STATUS_SPEED = max 1 v.val) ∧
      (d.flag .HST_STATUS_LINK_UP = true → next (.pcieLinkChange false w v) fun e => e.flag .HST_STATUS_LINK_UP = false ∧ up .HST_LINK_DOWN_CNT e)) ∧
    let m := d.fld .HST_CFG_REQ_MBOX
    let ctx := d.fld .MBX_CFG_RECV_CTX m
    let hi := d.reg .MBX_NOTICE_HIGH m
    let ptr := d.reg .MBX_NOTICE_LOW m + bits hi 7 0 * 2 ^ 32
    let len := bits hi 23 8
    let tag := bits hi 31 24
    let block := max 16 (64 * len)
    let room := min (d.view (ptr + 8) 4) (block - 16)
    let c := d.view ptr 4 % 65536
    let taken := (((d.mbxReadLow m 0x40 ctx).2).mbxReadHigh m 0x40 ctx).2
    let header := taken.physRead 0x40 ptr 12
    let e := header.2
    let ans (e : Dev) (st : Nat) (l : List Nat) : Dev := e.hostAnswer ptr len tag room st (Config.hostResult c l)
    let waits := d.patrolRuns = true ∧ d.flag .MBX_STATUS_FULL m = true ∧ d.fld .MBX_CFG_RECV_MID m = 0x40 ∧
      d.flag .MBX_STATUS_FULL (d.fld .HST_CFG_RSP_MBOX) = false ∧ (d.engine 64).stores = []
    let inside := d.windowRW ptr block = true ∨ d.inMode [.provisioning] = true
    let whole := header.1.ue = false ∧ d.view (ptr + 8) 4 + 16 ≤ block
    let busy := 3 ≤ e.fld .PAT_LOAD_LEVEL
    (¬waits → exec .getInfo s = out d) ∧ ((d.engine 64).stores = [] → exec (.flashWrite true) s =
      if d.host.flashBusy = true then out ((d.updHost fun h => { h with flashBusy := false }).setFlag .BOOT_STATUS_XBUSY false) else out d) ∧
    (waits → ¬inside → exec .getInfo s = out (if d.window (ptr + 12) 1 && d.window (ptr + 15) 1 then taken.hostAnswer ptr len tag 0 3 []
      else taken.patrolPost (d.fld .HST_CFG_RSP_MBOX) ptr len tag)) ∧
    (waits → inside → ¬whole → c = 1 → exec .getInfo s = out (e.hostAnswer ptr len tag 0 3 [])) ∧
    (waits → inside → whole →
      (c ∉ [1, 2, 3, 0x10, 0x11, 0x20, 0x21, 0x30, 0x40, 0x50] → exec .getInfo s = out (e.hostAnswer ptr len tag 0 4 [])) ∧
      (c = 1 → ¬busy → exec .getInfo s = out (ans e 0 [e.reg .SYS_ID, e.reg .SYS_SERIAL_LOW, e.reg .SYS_SERIAL_HIGH, e.reg .SYS_MODE,
        e.reg .BOOT_STRAP, e.reg .BOOT_STATUS, e.reg .BOOT_CAUSE, e.reg .BOOT_TIME, e.reg .BOOT_CTRL, e.reg .BOOT_FAILOVER_CNT])) ∧
      (c = 1 → busy → exec .getInfo s = out (ans e 1 [])) ∧
      (c = 2 → ∀ b, busy → exec (.getCounters b) s = out (ans e 1 [])) ∧
      (c = 2 → ∀ b, ¬busy → let e := if b = .SMF then e.crowdCount else e
        ∃ l, exec (.getCounters b) s = out (ans e 0 l) ∧ ∀ r ∈ b.regs, (∃ f ∈ r.info.fields, f.acc = .cnt) → e.reg r ∈ l) ∧
      (c = 3 → ∀ q, busy → exec (.readLog q) s = out (ans e 1 [])) ∧
      (c = 3 → ∀ q, ¬busy → let l := e.logFrom q.toNat
        exec (.readLog q) s = out (ans (e.each (l.filterMap fun i => (e.partAddr 5 (64 + 64 * i)).map fun a => (a, 64))
          fun p s => (s.physRead 0x40 p.1 p.2).2) 0 (l.flatMap fun i => (List.range 16).map fun w => e.partView 5 (64 + 64 * i + 4 * w)))) ∧
      (c = 0x10 → e.host.flashBusy = false → exec (.flashWrite false) s = out (ans
        (((e.updHost fun h => { h with flashBusy := true }).setFld .BOOT_XSPI_CFG_CS e.otherChip).setFlag
          .BOOT_STATUS_XBUSY true) 0 [])) ∧
      (c = 0x10 → e.host.flashBusy = true → exec (.flashWrite false) s = out (ans e 2 [])) ∧
      (∀ flash : Flash, c = 0x11 → exec (.flashVerify flash) s = if e.host.flashBusy = true then out (ans e 2 [])
        else out (ans (e.setFld .BOOT_XSPI_CFG_CS e.otherChip) 0 [e.imageCause flash.image])) ∧
      (∀ (flash : Flash) (a : BitVec 21) (l : List (BitVec 21)), c = 0x20 → let p := flash.image
        let q := e.partPut 7 (64 * a.toNat) (flash.read 0 (min p.imageLen 0x2000000))
        (e.host.package = true → exec (.exchangeLoad flash (a, l)) s = out (ans e 2 [])) ∧
        (e.host.package = false → q.packageCause p ≠ 0 → exec (.exchangeLoad flash (a, l)) s =
          out (ans (q.fresh.2.logRecord 0x40 q.fresh.1 [q.packageCause p]) 2 [q.packageCause p])) ∧
        (∀ x, e.host.package = false → q.packageCause p = 0 → p.clear q.vlt.kImg = some x → exec (.exchangeLoad flash (a, l)) s =
          out (ans ((q.each ((x.ofType tPregaef).zip (l.map BitVec.toNat)) fun y s => s.partPut 1 (64 * y.2) y.1.data).updHost fun h =>
            { h with package := true, packageOk := true }) 0 [])) ∧
        (q.packageCause p = 0 → ∃ x, p.clear q.vlt.kImg = some x)) ∧
      (∀ (l : List (Fin 16 × BitVec 21)) (at_ : Word), c = 0x21 →
        (e.host.packageOk = false → exec (.exchangeArm l at_) s = out (ans e 2 [])) ∧
        (e.host.packageOk = true → exec (.exchangeArm l at_) s =
          out (ans ((e.each (l.map fun p => (p.1.val, p.2.toNat)) fun p s => s.armTask p.1 p.2 at_.toNat).updHost fun h =>
            { h with package := false, packageOk := false }) 0 []))) ∧
      (∀ n : BitVec 13, c = 0x30 → (n.toNat % 2 = 1 → ∀ v, exec (.force n v) s = out (ans e 2 [])) ∧
        (n.toNat % 2 = 0 → exec (.force n none) s = out (ans (e.slotForce n.toNat 0x40 false) 0 []) ∧
          ∀ l, let o := e.fresh
            let w := o.2.physWrite 0x40 (o.2.copyAddr n.toNat 3)
              (slotBytes (o.1 % 2 ^ 40) (o.1 / 2 ^ 40 % 4) (l.take (o.2.pers.stations.get (n.toNat / 2)).inLen))
            exec (.force n (some l)) s = out (ans ((if e.slotValid n.toNat = true then w else o.2).slotForce n.toNat 0x40 true) 0 []))) ∧
      (∀ (q : VltReq) (g : BitVec 768), c = 0x40 →
        (e.inMode [.provisioning] = false → exec (.provision q g) s = out (ans e 2 [])) ∧
        (e.inMode [.provisioning] = true → let t := e.provServed q g.toNat
          exec (.provision q g) s = out (ans t (if e.vlt.admits q g.toNat = false ∨ e.vlt.refuses q = true then 2 else 0)
            [t.vlt.answer, t.vlt.nonce.getD 0]))) ∧
      (c = 0x50 → exec .reset s = out ((ans e 0 []).softReset 0x40 0xA5C3)))

/-! ### Modes, Hold, power domains and Retention -/

/-- HOLD_ENTRY by Patrol sets HOLD; CTL shows copy 3 of every output slot, and Blade groups without HOLD_RUN stop with their pins at SAFE;
HOLD_EXIT returns, but is refused where the boot or the pair keeps Hold. FWX keeps HOLD. DOMAIN_REQUEST starts one change that R29 allows and
refuses others; DOMAIN_SWITCH_DONE ends it, and a domain that goes off loses its registers. RETENTION_ENTRY by Patrol is refused where R496 says
so, and otherwise keeps the memory of the kept banks alone, with keys and rinks gone. WAKE_PIN and WAKE_TIME wake where enabled, and
RESUME_BOOT starts the boot, keeping that memory. -/
def Obligations.PowerRowsComplete : Prop :=
  ∀ s : State, let d := s.dev
    let out (d : Dev) : Host.Outcome State Fault Refusal := .next (s.withDev d)
    let next (i : Instr) (p : Dev → Prop) : Prop := ∃ t, exec i s = .next t ∧ t.pending = s.pending ∧ p t.dev
    let up (r : Reg) (e : Dev) : Prop := e.reg r = min (d.reg r + 1) 0xFFFFFFFF
    let hold := d.flag .SYS_MODE_CTRL_HOLD
    let fwx := d.flag .SYS_MODE_CTRL_FWX
    (∀ who : Agent, d.reaches who .SYS_MODE_CTRL 0 0 true → if who.mid = 0x40 then
      (next (.holdEntry who) fun e => e.flag .SYS_MODE_CTRL_HOLD = true ∧ e.flag .SYS_MODE_CTRL_FWX = fwx ∧ e.mem = d.mem ∧
        (hold = false → e.flag .CTL_STATUS_HOLD = true ∧
          (∀ n < 8192, isOut n = true → d.slotValid n = true → e.fld .CTL_SLOT_LAST n = 3) ∧
          ∀ g < 8, d.flag .BLD_GCFG_HOLD_RUN g = false → e.fld .BLD_CTRL_EN g = 0 ∧ (e.grp.get g).safe = 0xFF)) ∧
      (hold = true → d.holdKept = false → next (.holdExit who) fun e => e.flag .SYS_MODE_CTRL_HOLD = false ∧ e.flag .CTL_STATUS_HOLD = false ∧
        ∀ n < 8192, isOut n = true → d.slotValid n = true → e.fld .CTL_SLOT_LAST n = if d.ctl.live.get n then d.fld .CTL_SLOT_N n else 3) ∧
      (hold = true → d.holdKept = true → next (.holdExit who) fun e => e.flag .SYS_MODE_CTRL_HOLD = true ∧ up .PWR_REFUSE_CNT e) ∧
      (hold = false → next (.holdExit who) fun e => e.flag .SYS_MODE_CTRL_HOLD = false ∧ e.reg .PWR_REFUSE_CNT = d.reg .PWR_REFUSE_CNT) ∧
      (∀ on, next (.fwx who on) fun e => e.flag .SYS_MODE_CTRL_FWX = on ∧
        e.flag .SYS_MODE_CTRL_HOLD = hold ∧ e.mem = d.mem)
      else ∀ i ∈ [Instr.holdEntry who, .holdExit who, .fwx who true, .fwx who false], exec i s = out (d.misuse .SYS)) ∧
    (∀ (who : Agent) (v : Word) (b : Nat), d.reaches who .PWR_DOM_CTRL 0 0 true → v.toNat < 2 ^ 13 → b < 13 →
      (∀ k < 13, bit v.toNat k ≠ bit (d.reg .PWR_DOM_CTRL) k ↔ k = b) → let on := bit v.toNat b
      let refused := d.flag .PWR_DOM_STAT_BUSY = true ∨ (b = 11 ∧ on = false ∧ d.boot.target = 2) ∨
        (on = true ∧ d.domOn (domOfBit b).needs = false) ∨ (on = false ∧ ∃ k < 13, d.domOn (domOfBit k) = true ∧ (domOfBit k).needs = domOfBit b)
      (refused → exec (.domainRequest who v) s = out (d.count .PWR_REFUSE_CNT)) ∧
      (¬refused → next (.domainRequest who v) fun e => e.sys.domReq = some (b, on) ∧ e.flag .PWR_DOM_STAT_BUSY = true ∧
        bit (e.reg .PWR_DOM_CTRL) b = on ∧ ∀ k < 13, e.domOn (domOfBit k) = d.domOn (domOfBit k))) ∧
    (∀ fails : BitVec 8,
      (d.sys.domReq = none → exec (.domainSwitchDone fails) s = out d) ∧
      (∀ b, d.sys.domReq = some (b, true) → 8 ≤ b → b < 13 → next (.domainSwitchDone fails) fun e => e.domOn (domOfBit b) = true ∧
        e.flag .PWR_DOM_STAT_BUSY = false ∧ e.sys.domReq = none ∧ ∀ k < 13, k ≠ b → e.domOn (domOfBit k) = d.domOn (domOfBit k)) ∧
      (∀ b, d.sys.domReq = some (b, true) → b < 8 → next (.domainSwitchDone fails) fun e => e.domOn (.rink b) = true ∧
        bit e.sys.rinkRst b = true ∧ e.sys.domReq = none) ∧
      (∀ b, d.sys.domReq = some (b, false) → b < 13 → next (.domainSwitchDone fails) fun e => e.domOn (domOfBit b) = false ∧
        e.flag .PWR_DOM_STAT_BUSY = false ∧ e.sys.domReq = none)) ∧
    (∀ (who : Agent) (v : Word), d.reaches who .PWR_SLEEP 0 0 true → bit v.toNat 0 = true → v.toNat < 32 →
      (who.mid ≠ 0x40 → next (.retentionEntry who v) fun e => up .PWR_MISUSE_CNT e ∧ e.sys = d.sys ∧ e.mem = d.mem) ∧
      (who.mid = 0x40 → d.inMode [.standalone, .hosted, .listen, .hold] = false ∨ d.flag .PAR_CFG_EN = true ∨
          (∃ t < 16, d.flag .CTL_TASK_CTRL_PENDING t = true) ∨ bits v.toNat 2 1 = 0 →
        next (.retentionEntry who v) fun e => up .PWR_REFUSE_CNT e ∧ e.sys = d.sys ∧ e.mem = d.mem) ∧
      (who.mid = 0x40 → d.inMode [.standalone, .hosted, .listen, .hold] = true → d.flag .PAR_CFG_EN = false →
          (∀ t < 16, d.flag .CTL_TASK_CTRL_PENDING t = false) → bits v.toNat 2 1 ≠ 0 →
        next (.retentionEntry who v) fun e => e.sys.retention = true ∧ e.sys.fabOn = false ∧ e.sys.patOn = false ∧ e.vlt.keyRegs = none ∧
          (∀ c, e.alive c = false) ∧ (∀ k < 13, e.domOn (domOfBit k) = false) ∧
          (∀ k, k ∈ e.sys.keptBanks ↔ k < 256 ∧ d.bankState k = 1 ∧ bit (d.reg .PWR_KEEP (k / 32)) (k % 32) = true) ∧
          ∀ a, e.byte a = if a < 0x8000000 ∧ bankOf a ∈ e.sys.keptBanks then d.byte a else 0#8)) ∧
    (d.sys.retention = true → d.flag .PWR_SLEEP_WAKE_PIN = true → next .wakePin fun e => e.sys.retention = false ∧ e.sys.resume = true ∧
      e.fld .PWR_WAKE_CAUSE_CAUSE = 1 ∧ e.mem = d.mem) ∧
    (d.sys.retention = true → d.flag .PWR_SLEEP_WAKE_TIME = true → d.fld .PWR_WAKE_WRAPS_WRAPS ≤ d.sys.wraps →
      reached (d.reg .PWR_WAKE_AT) (tbNs (d.tbVal (d.fld .PWR_SLEEP_WAKE_TB))) = true → next .wakeTime fun e => e.sys.retention = false ∧
        e.sys.resume = true ∧ e.fld .PWR_WAKE_CAUSE_CAUSE = 2 ∧ e.mem = d.mem) ∧
    (d.sys.retention = false → exec .wakePin s = out d ∧ exec .wakeTime s = out d) ∧
    (d.sys.resume = true → d.sys.fabOn = false → next .resumeBoot fun e => e.sys.fabOn = true ∧ e.sys.patOn = true ∧ e.sys.bootHold = true ∧
      e.fld .SYS_RESET_CAUSE_CAUSE = 4 ∧ e.fld .BOOT_STRAP_BOOT_SEL = d.fld .BOOT_STRAP_BOOT_SEL ∧ e.mem = d.mem) ∧
    (d.sys.resume = false → exec .resumeBoot s = out d)
end

