-- ==== Sys2Proof/Laws/Bits.lean ====
section
/-! SUPPORT. The laws of bit fields: what a field reads after it, or another field, has been written. -/

namespace Sys2Proof.Machine

theorem bits_lt (n hi lo : Nat) : bits n hi lo < 2 ^ (hi + 1 - lo) := Nat.mod_lt _ (Nat.two_pow_pos _)

/-- Bit `i` of a number is the bit that core Lean reads. -/
theorem bit_eq_testBit (n i : Nat) : bit n i = n.testBit i := by
  rw [bit, Nat.testBit_eq_decide_div_mod_eq]; rfl

theorem testBit_bits (n hi lo i : Nat) : (bits n hi lo).testBit i = (decide (i < hi + 1 - lo) && n.testBit (lo + i)) := by
  rw [bits, Nat.testBit_mod_two_pow, Nat.testBit_div_two_pow, Nat.add_comm i lo]

/-- The number that `putBits` gives, as parts: the bits above the field, the field, the bits below. -/
theorem putBits_parts {hi lo : Nat} (h : lo ≤ hi) (n v : Nat) :
    putBits n hi lo v = n / 2 ^ (hi + 1) * 2 ^ (hi + 1) + v % 2 ^ (hi + 1 - lo) * 2 ^ lo + n % 2 ^ lo := by
  have e : 2 ^ (hi + 1) = 2 ^ lo * 2 ^ (hi + 1 - lo) := by rw [← Nat.pow_add]; congr 1; omega
  have a : n = 2 ^ lo * (n / 2 ^ lo) + n % 2 ^ lo := (Nat.div_add_mod _ _).symm
  have b : n / 2 ^ lo = 2 ^ (hi + 1 - lo) * (n / 2 ^ lo / 2 ^ (hi + 1 - lo)) + n / 2 ^ lo % 2 ^ (hi + 1 - lo) :=
    (Nat.div_add_mod _ _).symm
  have c : n / 2 ^ (hi + 1) = n / 2 ^ lo / 2 ^ (hi + 1 - lo) := by rw [e, Nat.div_div_eq_div_mul]
  unfold putBits bits
  rw [c, e]
  generalize n / 2 ^ lo / 2 ^ (hi + 1 - lo) = q at *
  generalize n / 2 ^ lo % 2 ^ (hi + 1 - lo) = m at *
  generalize v % 2 ^ (hi + 1 - lo) = w
  generalize n % 2 ^ lo = r at *
  rw [a, b]
  generalize 2 ^ lo = L
  generalize 2 ^ (hi + 1 - lo) = M
  have : L * (M * q + m) + r - m * L = L * M * q + r := by
    have : L * (M * q + m) = L * M * q + m * L := by ring
    omega
  rw [this]; ring

theorem testBit_putBits {hi lo : Nat} (h : lo ≤ hi) (n v i : Nat) :
    (putBits n hi lo v).testBit i = if lo ≤ i ∧ i ≤ hi then v.testBit (i - lo) else n.testBit i := by
  have hv : v % 2 ^ (hi + 1 - lo) < 2 ^ (hi + 1 - lo) := Nat.mod_lt _ (Nat.two_pow_pos _)
  have hr : n % 2 ^ lo < 2 ^ lo := Nat.mod_lt _ (Nat.two_pow_pos _)
  have e : 2 ^ (hi + 1) = 2 ^ (hi + 1 - lo) * 2 ^ lo := by rw [← Nat.pow_add]; congr 1; omega
  have hs : v % 2 ^ (hi + 1 - lo) * 2 ^ lo + n % 2 ^ lo < 2 ^ (hi + 1) := by
    rw [e]
    calc v % 2 ^ (hi + 1 - lo) * 2 ^ lo + n % 2 ^ lo < v % 2 ^ (hi + 1 - lo) * 2 ^ lo + 2 ^ lo := by omega
      _ = (v % 2 ^ (hi + 1 - lo) + 1) * 2 ^ lo := by ring
      _ ≤ 2 ^ (hi + 1 - lo) * 2 ^ lo := Nat.mul_le_mul_right _ hv
  rw [putBits_parts h, Nat.add_assoc, Nat.mul_comm (n / _), Nat.testBit_two_pow_mul_add _ hs, Nat.mul_comm (v % _),
    Nat.testBit_two_pow_mul_add _ hr, Nat.testBit_mod_two_pow, Nat.testBit_mod_two_pow, Nat.testBit_div_two_pow]
  by_cases h1 : i < hi + 1
  · by_cases h2 : i < lo
    · rw [if_pos h1, if_pos h2, if_neg (by omega)]; simp [h2]
    · rw [if_pos h1, if_neg h2, if_pos (by omega)]; simp; omega
  · rw [if_neg h1, if_neg (by omega)]; congr 1; omega

/-- A field reads the value written to it. -/
theorem bits_putBits {hi lo : Nat} (h : lo ≤ hi) (n v : Nat) : bits (putBits n hi lo v) hi lo = v % 2 ^ (hi + 1 - lo) := by
  apply Nat.eq_of_testBit_eq
  intro i
  rw [testBit_bits, testBit_putBits h, Nat.testBit_mod_two_pow]
  by_cases g : i < hi + 1 - lo
  · rw [if_pos (by omega)]; simp [g]
  · simp [g]

/-- A write of one field leaves a field that shares no bit with it. -/
theorem bits_putBits_other {hi lo a b : Nat} (h : lo ≤ hi) (g : a < lo ∨ hi < b) (n v : Nat) :
    bits (putBits n hi lo v) a b = bits n a b := by
  apply Nat.eq_of_testBit_eq
  intro i
  rw [testBit_bits, testBit_bits, testBit_putBits h]
  by_cases k : i < a + 1 - b
  · rw [if_neg (by omega)]
  · simp [k]

/-- A field of a word of `w` bits keeps the word's width. -/
theorem putBits_lt {n hi lo w : Nat} (h : lo ≤ hi) (hw : hi < w) (hn : n < 2 ^ w) (v : Nat) : putBits n hi lo v < 2 ^ w := by
  apply Nat.lt_pow_two_of_testBit
  intro i hi'
  rw [testBit_putBits h, if_neg (by omega)]
  exact Nat.testBit_lt_two_pow (lt_of_lt_of_le hn (Nat.pow_le_pow_right (by decide) hi'))

theorem bit_putBit (n i j : Nat) (b : Bool) : bit (putBit n i b) j = if j = i then b else bit n j := by
  rw [bit_eq_testBit, bit_eq_testBit, putBit, testBit_putBits (Nat.le_refl i)]
  by_cases h : j = i
  · subst h; cases b <;> simp
  · rw [if_neg (by omega), if_neg h]

@[simp] theorem bit_putBit_same (n i : Nat) (b : Bool) : bit (putBit n i b) i = b := by simp [bit_putBit]

@[simp] theorem word_toNat (n : Nat) : (word n).toNat = n % 2 ^ 32 := rfl

@[simp] theorem word_of_toNat (w : Word) : word w.toNat = w := by apply BitVec.eq_of_toNat_eq; simp [word]

@[simp] theorem b2n_ne_zero (b : Bool) : (b2n b != 0) = b := by cases b <;> rfl

@[simp] theorem leBytes_length (k n : Nat) : (leBytes k n).length = k := by
  induction k generalizing n with
  | zero => rfl
  | succ k ih => simp [leBytes, ih]

/-- A little-endian list of bytes has the value it was made from. -/
theorem leVal_leBytes (k n : Nat) : leVal (leBytes k n) = n % 256 ^ k := by
  induction k generalizing n with
  | zero => simp [leBytes, leVal, Nat.mod_one]
  | succ k ih =>
    simp only [leBytes, leVal, ih, BitVec.toNat_ofNat]
    rw [show 256 ^ (k + 1) = 256 * 256 ^ k from Nat.pow_succ', Nat.mod_mul]

end Sys2Proof.Machine
end

