-- ==== Sys2Proof/Laws/Crypto.lean ====
section
/-! SUPPORT. What the cryptographic operations can do: lengths, bounds, and that what is sealed opens. -/

namespace Sys2Proof.Machine

@[simp] theorem beBytes_length (n v : Nat) : (beBytes n v).length = n := by simp [beBytes]

theorem beVal_beBytes (n v : Nat) : beVal (beBytes n v) = v % 256 ^ n := by simp [beVal, beBytes, leVal_leBytes]

theorem leBytes_leVal (l : List Byte) : leBytes l.length (leVal l) = l := by
  induction l with
  | nil => rfl
  | cons b t ih =>
    have hb := b.isLt
    simp only [List.length_cons, leBytes, leVal, List.cons.injEq]
    refine ⟨BitVec.eq_of_toNat_eq ?_, ?_⟩
    · simp; omega
    · rw [show (b.toNat + 256 * leVal t) / 256 = leVal t by omega, ih]

theorem beBytes_beVal (l : List Byte) (n : Nat) (h : l.length = n) : beBytes n (beVal l) = l := by
  subst h
  have h := leBytes_leVal l.reverse
  rw [List.length_reverse] at h
  simp [beBytes, beVal, h]

theorem gcmTag_lt (key iv : Nat) (aad text : List Byte) : gcmTag key iv aad text < 2 ^ 128 := Nat.mod_lt _ (by decide)

theorem gcmStream_length (ks : List (List Nat)) : ∀ (n ctr : Nat) (l : List Byte), l.length ≤ 16 * n → (gcmStream ks n ctr l).length = l.length
  | 0, _, l, h => by simp at h; simp [gcmStream, h]
  | n + 1, ctr, l, h => by
    rw [gcmStream, List.length_append, gcmStream_length ks n (ctr + 1) (l.drop 16) (by simp; omega)]
    simp; omega

@[simp] theorem gcmCrypt_length (key iv : Nat) (l : List Byte) : (gcmCrypt key iv l).length = l.length :=
  gcmStream_length _ _ _ _ (by omega)

theorem zipWith_xor_twice : ∀ a k : List Byte, a.length ≤ k.length → List.zipWith (· ^^^ ·) (List.zipWith (· ^^^ ·) a k) k = a
  | [], _, _ => by simp
  | a :: t, [], h => by simp at h
  | a :: t, b :: k, h => by
    simp only [List.zipWith_cons_cons, BitVec.xor_assoc, BitVec.xor_self, BitVec.xor_zero]
    rw [zipWith_xor_twice t k (by simpa using h)]

theorem gcmStream_twice (ks : List (List Nat)) : ∀ (n ctr : Nat) (l : List Byte), l.length ≤ 16 * n →
    gcmStream ks n ctr (gcmStream ks n ctr l) = l
  | 0, _, l, h => by simp at h; simp [gcmStream, h]
  | n + 1, ctr, l, h => by
    have hz : (List.zipWith (· ^^^ ·) (l.take 16) (beBytes 16 (aesBlock ks ctr))).length = min 16 l.length := by simp
    simp only [gcmStream]
    by_cases hl : 16 ≤ l.length
    · rw [List.take_append_of_le_length (by omega), List.take_of_length_le (by omega), List.drop_append_of_le_length (by omega),
        List.drop_of_length_le (by omega), List.nil_append, gcmStream_twice ks n _ _ (by simp; omega),
        zipWith_xor_twice _ _ (by simp), List.take_append_drop]
    · have hd : l.drop 16 = [] := List.drop_of_length_le (by omega)
      have hs : gcmStream ks n (ctr + 1) [] = [] := List.eq_nil_of_length_eq_zero (by rw [gcmStream_length _ _ _ _ (by simp)]; rfl)
      rw [hd, hs, List.append_nil, List.take_of_length_le (by omega), List.drop_of_length_le (by omega), hs, List.append_nil,
        zipWith_xor_twice _ _ (by simp), List.take_of_length_le (by omega)]

/-- Counter mode decrypts what it has encrypted. -/
theorem gcmCrypt_twice (key iv : Nat) (l : List Byte) : gcmCrypt key iv (gcmCrypt key iv l) = l := by
  have h := gcmStream_twice (aesKeys key) ((l.length + 15) / 16) (iv * 2 ^ 32 + 2) l (by omega)
  simpa [gcmCrypt, gcmStream_length _ _ _ l (show l.length ≤ 16 * ((l.length + 15) / 16) by omega)] using h

/-- What is sealed opens under the same key. -/
theorem gcmOpen_gcmSeal (key iv : Nat) (l : List Byte) (h : iv < 2 ^ 96) : gcmOpen key (gcmSeal key iv l) = some l := by
  have ht := gcmTag_lt key iv [] (gcmCrypt key iv l)
  have hi : beVal (beBytes 12 iv) = iv := by rw [beVal_beBytes]; exact Nat.mod_eq_of_lt (by simpa using h)
  have hg : beVal (beBytes 16 (gcmTag key iv [] (gcmCrypt key iv l))) = gcmTag key iv [] (gcmCrypt key iv l) := by
    rw [beVal_beBytes]; exact Nat.mod_eq_of_lt (by simpa using ht)
  have hn : (gcmSeal key iv l).length = l.length + 28 := by simp [gcmSeal]; omega
  have h1 : (gcmSeal key iv l).take 12 = beBytes 12 iv := by
    simp [gcmSeal, List.append_assoc]
  have h2 : ((gcmSeal key iv l).drop 12).take l.length = gcmCrypt key iv l := by
    simp [gcmSeal, List.append_assoc]
  have h3 : (gcmSeal key iv l).drop (l.length + 12) = beBytes 16 (gcmTag key iv [] (gcmCrypt key iv l)) := by
    exact List.drop_left' (by simp; omega)
  unfold gcmOpen
  simp only [hn, h1, hi, show l.length + 28 - 28 = l.length by omega, show l.length + 28 - 16 = l.length + 12 by omega, h2, h3, hg, gcmCrypt_twice]
  simp

/-- A key that has been wrapped unwraps under the same key (R66, R72). -/
theorem unwrapKey_wrapKey (k iv x : Nat) (h : iv < 2 ^ 96) : unwrapKey k (wrapKey k iv x) = some (x % 2 ^ 256) := by
  have hn : (gcmSeal k iv (beBytes 32 x)).length = 60 := by simp [gcmSeal]
  rw [unwrapKey, wrapKey, beBytes_beVal _ _ hn, gcmOpen_gcmSeal _ _ _ h]
  simp [beVal_beBytes]

theorem beVal_lt (l : List Byte) : beVal l < 256 ^ l.length := by
  have h : ∀ m : List Byte, leVal m < 256 ^ m.length := by
    intro m
    induction m with
    | nil => simp [leVal]
    | cons b t ih =>
      have hb := b.isLt
      simp only [leVal, List.length_cons, Nat.pow_succ]
      omega
  simpa [beVal] using h l.reverse

/-- A wrapped key takes 60 bytes. -/
theorem wrapKey_lt (k iv x : Nat) : wrapKey k iv x < 2 ^ 480 := by
  have h := beVal_lt (gcmSeal k iv (beBytes 32 x))
  have hn : (gcmSeal k iv (beBytes 32 x)).length = 60 := by simp [gcmSeal]
  rw [hn] at h
  exact Nat.lt_of_lt_of_eq h (by decide +kernel)

/-- A tandem frame with the tag of its sender's seal is taken as authentic (R77). -/
theorem Dev.tandemOk_seal (s : Dev) (b : List Byte) (pn : BitVec 64) (key : Nat) (h : s.vlt.tandemSak = some key) :
    s.tandemOk b ⟨pn, BitVec.ofNat 128 (tandemSeal key (s.fld .PAR_NODE_PARTNER) 3 pn.toNat b).tag⟩ = true := by
  have ht : (tandemSeal key (s.fld .PAR_NODE_PARTNER) 3 pn.toNat b).tag < 2 ^ 128 := gcmTag_lt _ _ _ _
  rw [Dev.tandemOk, h]
  simp only [BitVec.toNat_ofNat, Nat.mod_eq_of_lt ht, beq_self_eq_true]

end Sys2Proof.Machine
end

