-- ==== Sys2Proof/Laws/Sparse.lean ====
section
/-! SUPPORT. The laws of sparse tables: read after write, and that every write keeps the canonical form. -/

namespace Sys2Proof.Machine

namespace Sparse

variable {β : Type}

theorem get_erase_same (d : Nat → β) (k : Nat) (t : List (Nat × β)) : get d (erase k t) k = d k := by
  induction t with
  | nil => rfl
  | cons e t ih =>
    obtain ⟨a, v⟩ := e
    by_cases h : k = a
    · simpa [erase, h] using h ▸ ih
    · simpa [erase, get, h] using ih

theorem get_erase_other (d : Nat → β) {k j : Nat} (h : j ≠ k) (t : List (Nat × β)) :
    get d (erase k t) j = get d t j := by
  induction t with
  | nil => rfl
  | cons e t ih =>
    obtain ⟨a, v⟩ := e
    by_cases hk : k = a
    · have hj : ¬ j = a := fun e => h (e.trans hk.symm)
      simpa [erase, get, hk, hj] using hk ▸ ih
    · by_cases hj : j = a
      · simp [erase, get, hk, hj]
      · simpa [erase, get, hk, hj] using ih

theorem get_insert_other (d : Nat → β) {k j : Nat} (v : β) (h : j ≠ k) (t : List (Nat × β)) :
    get d (insert k v t) j = get d t j := by
  induction t with
  | nil => simp [insert, get, h]
  | cons e t ih =>
    obtain ⟨a, w⟩ := e
    by_cases hk : k < a
    · simp [insert, get, hk, h]
    · simp [insert, get, hk, ih]

theorem get_insert_erase (d : Nat → β) (k : Nat) (v : β) (t : List (Nat × β)) :
    get d (insert k v (erase k t)) k = v := by
  induction t with
  | nil => simp [erase, insert, get]
  | cons e t ih =>
    obtain ⟨a, w⟩ := e
    by_cases hk : k = a
    · subst hk; simpa [erase] using ih
    · by_cases hl : k < a
      · simp [erase, insert, get, hk, hl]
      · simpa [erase, insert, get, hk, hl] using ih

/-- A read after a write to the same key gives the value written. -/
@[simp] theorem get_set_same [DecidableEq β] (d : Nat → β) (t : List (Nat × β)) (k : Nat) (v : β) :
    get d (set d t k v) k = v := by
  unfold set
  split
  · next h => rw [get_erase_same, h]
  · exact get_insert_erase d k v t

/-- A write leaves every other key alone. -/
theorem get_set_other [DecidableEq β] (d : Nat → β) (t : List (Nat × β)) {k j : Nat} (v : β) (h : j ≠ k) :
    get d (set d t k v) j = get d t j := by
  unfold set
  split
  · exact get_erase_other d h t
  · rw [get_insert_other d v h, get_erase_other d h]

theorem get_set [DecidableEq β] (d : Nat → β) (t : List (Nat × β)) (k j : Nat) (v : β) :
    get d (set d t k v) j = if j = k then v else get d t j := by
  split
  · next h => subst h; simp
  · next h => exact get_set_other d t v h

theorem above_trans {a b : Nat} (h : a < b) {t : List (Nat × β)} (ht : above b t = true) : above a t = true := by
  cases t with
  | nil => rfl
  | cons e t => simp [above] at ht ⊢; omega

theorem erase_above_wf [DecidableEq β] (d : Nat → β) (k : Nat) (t : List (Nat × β)) (h : wf d t = true) :
    wf d (erase k t) = true ∧ ∀ a, above a t = true → above a (erase k t) = true := by
  induction t with
  | nil => exact ⟨rfl, fun _ _ => rfl⟩
  | cons e t ih =>
    obtain ⟨b, v⟩ := e
    simp only [wf, Bool.and_eq_true, decide_eq_true_eq] at h
    obtain ⟨⟨hv, hb⟩, ht⟩ := h
    obtain ⟨i1, i2⟩ := ih ht
    by_cases hk : k = b
    · refine ⟨by simpa [erase, hk] using hk ▸ i1, fun a ha => ?_⟩
      have : a < b := by simpa [above] using ha
      simpa [erase, hk] using hk ▸ i2 a (above_trans this hb)
    · refine ⟨by simp [erase, hk, wf, hv, i2 b hb, i1], fun a ha => by simpa [erase, hk, above] using ha⟩

theorem insert_above {a k : Nat} (h : a < k) (v : β) (t : List (Nat × β)) (ht : above a t = true) :
    above a (insert k v t) = true := by
  cases t with
  | nil => simp [insert, above, h]
  | cons e t =>
    obtain ⟨b, w⟩ := e
    by_cases hk : k < b
    · simp [insert, hk, above, h]
    · simpa [insert, hk, above] using ht

theorem insert_wf [DecidableEq β] (d : Nat → β) (k : Nat) (v : β) (hv : v ≠ d k) (t : List (Nat × β))
    (h : wf d t = true) (hk : ∀ e ∈ t, e.1 ≠ k) : wf d (insert k v t) = true := by
  induction t with
  | nil => simp [insert, wf, hv, above]
  | cons e t ih =>
    obtain ⟨b, w⟩ := e
    have hb : b ≠ k := hk (b, w) (by simp)
    have ht := fun e he => hk e (List.mem_cons_of_mem _ he)
    by_cases hl : k < b
    · have ha : above k ((b, w) :: t) = true := by simp [above, hl]
      have hw : decide (v ≠ d k) = true := by simpa using hv
      simp only [insert, hl, if_true]
      rw [wf, hw, ha, h]
      rfl
    · simp only [wf, Bool.and_eq_true, decide_eq_true_eq] at h
      simp [insert, hl, wf, h.1.1, insert_above (show b < k by omega) v t h.1.2, ih h.2 ht]

theorem not_mem_erase (k : Nat) (t : List (Nat × β)) : ∀ e ∈ erase k t, e.1 ≠ k := by
  induction t with
  | nil => simp [erase]
  | cons e t ih =>
    obtain ⟨a, v⟩ := e
    by_cases h : k = a
    · rw [erase, if_pos h]; exact ih
    · intro e he
      simp only [erase, h, if_false, List.mem_cons] at he
      rcases he with rfl | he
      · exact fun e => h e.symm
      · exact ih e he

/-- Every write keeps the canonical form. -/
theorem set_wf [DecidableEq β] (d : Nat → β) (t : List (Nat × β)) (k : Nat) (v : β) (h : wf d t = true) :
    wf d (set d t k v) = true := by
  unfold set
  split
  · exact (erase_above_wf d k t h).1
  · next hv => exact insert_wf d k v hv _ (erase_above_wf d k t h).1 (not_mem_erase k t)

end Sparse

namespace Tab

variable {β : Type} [DecidableEq β] [Inhabited β]

@[simp] theorem get_set_same (t : Tab β) (k : Nat) (v : β) : get (set t k v) k = v :=
  Sparse.get_set_same _ _ _ _

theorem get_set_other (t : Tab β) {k j : Nat} (v : β) (h : j ≠ k) : get (set t k v) j = get t j :=
  Sparse.get_set_other _ _ _ h

theorem get_set (t : Tab β) (k j : Nat) (v : β) : get (set t k v) j = if j = k then v else get t j :=
  Sparse.get_set _ _ _ _ _

@[simp] theorem get_upd_same (t : Tab β) (k : Nat) (f : β → β) : get (upd t k f) k = f (get t k) := by
  simp [upd]

theorem get_upd_other (t : Tab β) {k j : Nat} (f : β → β) (h : j ≠ k) : get (upd t k f) j = get t j :=
  get_set_other _ _ h

end Tab

end Sys2Proof.Machine
end

