-- ==== Sys2Proof/Laws/State.lean ====
section
/-! SUPPORT. What each update of the state leaves in each field: one lemma per field per update, so that no proof unfolds a
record update. Their proofs stand in brackets so that simp applies them as equations, one step each. -/

namespace Sys2Proof.Machine

variable (s : Dev) (t : State)

@[simp] theorem State.withDev_dev (d : Dev) : (t.withDev d).dev = d := (rfl)
@[simp] theorem State.withDev_pending (d : Dev) : (t.withDev d).pending = t.pending := (rfl)
@[simp] theorem State.withDev_withDev (d e : Dev) : (t.withDev d).withDev e = t.withDev e := (rfl)
@[simp] theorem State.withDev_self : t.withDev t.dev = t := (rfl)

/-- The shape of every meaning, as a next state. -/
theorem State.on_eq (f : Dev → Dev) : t.on f = .next (t.withDev (f t.dev)) := (rfl)

@[simp] theorem Dev.setRegWord_regs (off : Nat) (v : Word) : (s.setRegWord off v).regs = Sparse.set resetAt s.regs off v := (rfl)
@[simp] theorem Dev.setRegWord_mem (off : Nat) (v : Word) : (s.setRegWord off v).mem = s.mem := (rfl)
@[simp] theorem Dev.setRegWord_hiLatch (off : Nat) (v : Word) : (s.setRegWord off v).hiLatch = s.hiLatch := (rfl)
@[simp] theorem Dev.setRegWord_loStage (off : Nat) (v : Word) : (s.setRegWord off v).loStage = s.loStage := (rfl)
@[simp] theorem Dev.setRegWord_freeCnt (off : Nat) (v : Word) : (s.setRegWord off v).freeCnt = s.freeCnt := (rfl)
@[simp] theorem Dev.setRegWord_rd (off : Nat) (v : Word) : (s.setRegWord off v).rd = s.rd := (rfl)
@[simp] theorem Dev.setRegWord_sys (off : Nat) (v : Word) : (s.setRegWord off v).sys = s.sys := (rfl)
@[simp] theorem Dev.setRegWord_boot (off : Nat) (v : Word) : (s.setRegWord off v).boot = s.boot := (rfl)
@[simp] theorem Dev.setRegWord_vlt (off : Nat) (v : Word) : (s.setRegWord off v).vlt = s.vlt := (rfl)
@[simp] theorem Dev.setRegWord_eng (off : Nat) (v : Word) : (s.setRegWord off v).eng = s.eng := (rfl)
@[simp] theorem Dev.setRegWord_smf (off : Nat) (v : Word) : (s.setRegWord off v).smf = s.smf := (rfl)
@[simp] theorem Dev.setRegWord_grm (off : Nat) (v : Word) : (s.setRegWord off v).grm = s.grm := (rfl)
@[simp] theorem Dev.setRegWord_lft (off : Nat) (v : Word) : (s.setRegWord off v).lft = s.lft := (rfl)
@[simp] theorem Dev.setRegWord_tmu (off : Nat) (v : Word) : (s.setRegWord off v).tmu = s.tmu := (rfl)
@[simp] theorem Dev.setRegWord_mac (off : Nat) (v : Word) : (s.setRegWord off v).mac = s.mac := (rfl)
@[simp] theorem Dev.setRegWord_swc (off : Nat) (v : Word) : (s.setRegWord off v).swc = s.swc := (rfl)
@[simp] theorem Dev.setRegWord_ctl (off : Nat) (v : Word) : (s.setRegWord off v).ctl = s.ctl := (rfl)
@[simp] theorem Dev.setRegWord_slm (off : Nat) (v : Word) : (s.setRegWord off v).slm = s.slm := (rfl)
@[simp] theorem Dev.setRegWord_par (off : Nat) (v : Word) : (s.setRegWord off v).par = s.par := (rfl)
@[simp] theorem Dev.setRegWord_can (off : Nat) (v : Word) : (s.setRegWord off v).can = s.can := (rfl)
@[simp] theorem Dev.setRegWord_bld (off : Nat) (v : Word) : (s.setRegWord off v).bld = s.bld := (rfl)
@[simp] theorem Dev.setRegWord_grp (off : Nat) (v : Word) : (s.setRegWord off v).grp = s.grp := (rfl)
@[simp] theorem Dev.setRegWord_pers (off : Nat) (v : Word) : (s.setRegWord off v).pers = s.pers := (rfl)
@[simp] theorem Dev.setRegWord_mbx (off : Nat) (v : Word) : (s.setRegWord off v).mbx = s.mbx := (rfl)
@[simp] theorem Dev.setRegWord_host (off : Nat) (v : Word) : (s.setRegWord off v).host = s.host := (rfl)
@[simp] theorem Dev.setRegWord_tap (off : Nat) (v : Word) : (s.setRegWord off v).tap = s.tap := (rfl)

@[simp] theorem Dev.setReg_mem (r : Reg) (v i j k : Nat) : (s.setReg r v i j k).mem = s.mem := (rfl)
@[simp] theorem Dev.setReg_hiLatch (r : Reg) (v i j k : Nat) : (s.setReg r v i j k).hiLatch = s.hiLatch := (rfl)
@[simp] theorem Dev.setReg_loStage (r : Reg) (v i j k : Nat) : (s.setReg r v i j k).loStage = s.loStage := (rfl)
@[simp] theorem Dev.setReg_freeCnt (r : Reg) (v i j k : Nat) : (s.setReg r v i j k).freeCnt = s.freeCnt := (rfl)
@[simp] theorem Dev.setReg_rd (r : Reg) (v i j k : Nat) : (s.setReg r v i j k).rd = s.rd := (rfl)
@[simp] theorem Dev.setReg_sys (r : Reg) (v i j k : Nat) : (s.setReg r v i j k).sys = s.sys := (rfl)
@[simp] theorem Dev.setReg_boot (r : Reg) (v i j k : Nat) : (s.setReg r v i j k).boot = s.boot := (rfl)
@[simp] theorem Dev.setReg_vlt (r : Reg) (v i j k : Nat) : (s.setReg r v i j k).vlt = s.vlt := (rfl)
@[simp] theorem Dev.setReg_eng (r : Reg) (v i j k : Nat) : (s.setReg r v i j k).eng = s.eng := (rfl)
@[simp] theorem Dev.setReg_smf (r : Reg) (v i j k : Nat) : (s.setReg r v i j k).smf = s.smf := (rfl)
@[simp] theorem Dev.setReg_grm (r : Reg) (v i j k : Nat) : (s.setReg r v i j k).grm = s.grm := (rfl)
@[simp] theorem Dev.setReg_lft (r : Reg) (v i j k : Nat) : (s.setReg r v i j k).lft = s.lft := (rfl)
@[simp] theorem Dev.setReg_tmu (r : Reg) (v i j k : Nat) : (s.setReg r v i j k).tmu = s.tmu := (rfl)
@[simp] theorem Dev.setReg_mac (r : Reg) (v i j k : Nat) : (s.setReg r v i j k).mac = s.mac := (rfl)
@[simp] theorem Dev.setReg_swc (r : Reg) (v i j k : Nat) : (s.setReg r v i j k).swc = s.swc := (rfl)
@[simp] theorem Dev.setReg_ctl (r : Reg) (v i j k : Nat) : (s.setReg r v i j k).ctl = s.ctl := (rfl)
@[simp] theorem Dev.setReg_slm (r : Reg) (v i j k : Nat) : (s.setReg r v i j k).slm = s.slm := (rfl)
@[simp] theorem Dev.setReg_par (r : Reg) (v i j k : Nat) : (s.setReg r v i j k).par = s.par := (rfl)
@[simp] theorem Dev.setReg_can (r : Reg) (v i j k : Nat) : (s.setReg r v i j k).can = s.can := (rfl)
@[simp] theorem Dev.setReg_bld (r : Reg) (v i j k : Nat) : (s.setReg r v i j k).bld = s.bld := (rfl)
@[simp] theorem Dev.setReg_grp (r : Reg) (v i j k : Nat) : (s.setReg r v i j k).grp = s.grp := (rfl)
@[simp] theorem Dev.setReg_pers (r : Reg) (v i j k : Nat) : (s.setReg r v i j k).pers = s.pers := (rfl)
@[simp] theorem Dev.setReg_mbx (r : Reg) (v i j k : Nat) : (s.setReg r v i j k).mbx = s.mbx := (rfl)
@[simp] theorem Dev.setReg_host (r : Reg) (v i j k : Nat) : (s.setReg r v i j k).host = s.host := (rfl)
@[simp] theorem Dev.setReg_tap (r : Reg) (v i j k : Nat) : (s.setReg r v i j k).tap = s.tap := (rfl)

@[simp] theorem Dev.setFld_mem (f : Fld) (v i j k : Nat) : (s.setFld f v i j k).mem = s.mem := (rfl)
@[simp] theorem Dev.setFld_hiLatch (f : Fld) (v i j k : Nat) : (s.setFld f v i j k).hiLatch = s.hiLatch := (rfl)
@[simp] theorem Dev.setFld_loStage (f : Fld) (v i j k : Nat) : (s.setFld f v i j k).loStage = s.loStage := (rfl)
@[simp] theorem Dev.setFld_freeCnt (f : Fld) (v i j k : Nat) : (s.setFld f v i j k).freeCnt = s.freeCnt := (rfl)
@[simp] theorem Dev.setFld_rd (f : Fld) (v i j k : Nat) : (s.setFld f v i j k).rd = s.rd := (rfl)
@[simp] theorem Dev.setFld_sys (f : Fld) (v i j k : Nat) : (s.setFld f v i j k).sys = s.sys := (rfl)
@[simp] theorem Dev.setFld_boot (f : Fld) (v i j k : Nat) : (s.setFld f v i j k).boot = s.boot := (rfl)
@[simp] theorem Dev.setFld_vlt (f : Fld) (v i j k : Nat) : (s.setFld f v i j k).vlt = s.vlt := (rfl)
@[simp] theorem Dev.setFld_eng (f : Fld) (v i j k : Nat) : (s.setFld f v i j k).eng = s.eng := (rfl)
@[simp] theorem Dev.setFld_smf (f : Fld) (v i j k : Nat) : (s.setFld f v i j k).smf = s.smf := (rfl)
@[simp] theorem Dev.setFld_grm (f : Fld) (v i j k : Nat) : (s.setFld f v i j k).grm = s.grm := (rfl)
@[simp] theorem Dev.setFld_lft (f : Fld) (v i j k : Nat) : (s.setFld f v i j k).lft = s.lft := (rfl)
@[simp] theorem Dev.setFld_tmu (f : Fld) (v i j k : Nat) : (s.setFld f v i j k).tmu = s.tmu := (rfl)
@[simp] theorem Dev.setFld_mac (f : Fld) (v i j k : Nat) : (s.setFld f v i j k).mac = s.mac := (rfl)
@[simp] theorem Dev.setFld_swc (f : Fld) (v i j k : Nat) : (s.setFld f v i j k).swc = s.swc := (rfl)
@[simp] theorem Dev.setFld_ctl (f : Fld) (v i j k : Nat) : (s.setFld f v i j k).ctl = s.ctl := (rfl)
@[simp] theorem Dev.setFld_slm (f : Fld) (v i j k : Nat) : (s.setFld f v i j k).slm = s.slm := (rfl)
@[simp] theorem Dev.setFld_par (f : Fld) (v i j k : Nat) : (s.setFld f v i j k).par = s.par := (rfl)
@[simp] theorem Dev.setFld_can (f : Fld) (v i j k : Nat) : (s.setFld f v i j k).can = s.can := (rfl)
@[simp] theorem Dev.setFld_bld (f : Fld) (v i j k : Nat) : (s.setFld f v i j k).bld = s.bld := (rfl)
@[simp] theorem Dev.setFld_grp (f : Fld) (v i j k : Nat) : (s.setFld f v i j k).grp = s.grp := (rfl)
@[simp] theorem Dev.setFld_pers (f : Fld) (v i j k : Nat) : (s.setFld f v i j k).pers = s.pers := (rfl)
@[simp] theorem Dev.setFld_mbx (f : Fld) (v i j k : Nat) : (s.setFld f v i j k).mbx = s.mbx := (rfl)
@[simp] theorem Dev.setFld_host (f : Fld) (v i j k : Nat) : (s.setFld f v i j k).host = s.host := (rfl)
@[simp] theorem Dev.setFld_tap (f : Fld) (v i j k : Nat) : (s.setFld f v i j k).tap = s.tap := (rfl)

@[simp] theorem Dev.setFlag_mem (f : Fld) (b : Bool) (i j k : Nat) : (s.setFlag f b i j k).mem = s.mem := (rfl)
@[simp] theorem Dev.setFlag_hiLatch (f : Fld) (b : Bool) (i j k : Nat) : (s.setFlag f b i j k).hiLatch = s.hiLatch := (rfl)
@[simp] theorem Dev.setFlag_loStage (f : Fld) (b : Bool) (i j k : Nat) : (s.setFlag f b i j k).loStage = s.loStage := (rfl)
@[simp] theorem Dev.setFlag_freeCnt (f : Fld) (b : Bool) (i j k : Nat) : (s.setFlag f b i j k).freeCnt = s.freeCnt := (rfl)
@[simp] theorem Dev.setFlag_rd (f : Fld) (b : Bool) (i j k : Nat) : (s.setFlag f b i j k).rd = s.rd := (rfl)
@[simp] theorem Dev.setFlag_sys (f : Fld) (b : Bool) (i j k : Nat) : (s.setFlag f b i j k).sys = s.sys := (rfl)
@[simp] theorem Dev.setFlag_boot (f : Fld) (b : Bool) (i j k : Nat) : (s.setFlag f b i j k).boot = s.boot := (rfl)
@[simp] theorem Dev.setFlag_vlt (f : Fld) (b : Bool) (i j k : Nat) : (s.setFlag f b i j k).vlt = s.vlt := (rfl)
@[simp] theorem Dev.setFlag_eng (f : Fld) (b : Bool) (i j k : Nat) : (s.setFlag f b i j k).eng = s.eng := (rfl)
@[simp] theorem Dev.setFlag_smf (f : Fld) (b : Bool) (i j k : Nat) : (s.setFlag f b i j k).smf = s.smf := (rfl)
@[simp] theorem Dev.setFlag_grm (f : Fld) (b : Bool) (i j k : Nat) : (s.setFlag f b i j k).grm = s.grm := (rfl)
@[simp] theorem Dev.setFlag_lft (f : Fld) (b : Bool) (i j k : Nat) : (s.setFlag f b i j k).lft = s.lft := (rfl)
@[simp] theorem Dev.setFlag_tmu (f : Fld) (b : Bool) (i j k : Nat) : (s.setFlag f b i j k).tmu = s.tmu := (rfl)
@[simp] theorem Dev.setFlag_mac (f : Fld) (b : Bool) (i j k : Nat) : (s.setFlag f b i j k).mac = s.mac := (rfl)
@[simp] theorem Dev.setFlag_swc (f : Fld) (b : Bool) (i j k : Nat) : (s.setFlag f b i j k).swc = s.swc := (rfl)
@[simp] theorem Dev.setFlag_ctl (f : Fld) (b : Bool) (i j k : Nat) : (s.setFlag f b i j k).ctl = s.ctl := (rfl)
@[simp] theorem Dev.setFlag_slm (f : Fld) (b : Bool) (i j k : Nat) : (s.setFlag f b i j k).slm = s.slm := (rfl)
@[simp] theorem Dev.setFlag_par (f : Fld) (b : Bool) (i j k : Nat) : (s.setFlag f b i j k).par = s.par := (rfl)
@[simp] theorem Dev.setFlag_can (f : Fld) (b : Bool) (i j k : Nat) : (s.setFlag f b i j k).can = s.can := (rfl)
@[simp] theorem Dev.setFlag_bld (f : Fld) (b : Bool) (i j k : Nat) : (s.setFlag f b i j k).bld = s.bld := (rfl)
@[simp] theorem Dev.setFlag_grp (f : Fld) (b : Bool) (i j k : Nat) : (s.setFlag f b i j k).grp = s.grp := (rfl)
@[simp] theorem Dev.setFlag_pers (f : Fld) (b : Bool) (i j k : Nat) : (s.setFlag f b i j k).pers = s.pers := (rfl)
@[simp] theorem Dev.setFlag_mbx (f : Fld) (b : Bool) (i j k : Nat) : (s.setFlag f b i j k).mbx = s.mbx := (rfl)
@[simp] theorem Dev.setFlag_host (f : Fld) (b : Bool) (i j k : Nat) : (s.setFlag f b i j k).host = s.host := (rfl)
@[simp] theorem Dev.setFlag_tap (f : Fld) (b : Bool) (i j k : Nat) : (s.setFlag f b i j k).tap = s.tap := (rfl)

@[simp] theorem Dev.countBy_mem (n : Nat) (r : Reg) (i j k : Nat) : (s.countBy n r i j k).mem = s.mem := (rfl)
@[simp] theorem Dev.countBy_hiLatch (n : Nat) (r : Reg) (i j k : Nat) : (s.countBy n r i j k).hiLatch = s.hiLatch := (rfl)
@[simp] theorem Dev.countBy_loStage (n : Nat) (r : Reg) (i j k : Nat) : (s.countBy n r i j k).loStage = s.loStage := (rfl)
@[simp] theorem Dev.countBy_freeCnt (n : Nat) (r : Reg) (i j k : Nat) : (s.countBy n r i j k).freeCnt = s.freeCnt := (rfl)
@[simp] theorem Dev.countBy_rd (n : Nat) (r : Reg) (i j k : Nat) : (s.countBy n r i j k).rd = s.rd := (rfl)
@[simp] theorem Dev.countBy_sys (n : Nat) (r : Reg) (i j k : Nat) : (s.countBy n r i j k).sys = s.sys := (rfl)
@[simp] theorem Dev.countBy_boot (n : Nat) (r : Reg) (i j k : Nat) : (s.countBy n r i j k).boot = s.boot := (rfl)
@[simp] theorem Dev.countBy_vlt (n : Nat) (r : Reg) (i j k : Nat) : (s.countBy n r i j k).vlt = s.vlt := (rfl)
@[simp] theorem Dev.countBy_eng (n : Nat) (r : Reg) (i j k : Nat) : (s.countBy n r i j k).eng = s.eng := (rfl)
@[simp] theorem Dev.countBy_smf (n : Nat) (r : Reg) (i j k : Nat) : (s.countBy n r i j k).smf = s.smf := (rfl)
@[simp] theorem Dev.countBy_grm (n : Nat) (r : Reg) (i j k : Nat) : (s.countBy n r i j k).grm = s.grm := (rfl)
@[simp] theorem Dev.countBy_lft (n : Nat) (r : Reg) (i j k : Nat) : (s.countBy n r i j k).lft = s.lft := (rfl)
@[simp] theorem Dev.countBy_tmu (n : Nat) (r : Reg) (i j k : Nat) : (s.countBy n r i j k).tmu = s.tmu := (rfl)
@[simp] theorem Dev.countBy_mac (n : Nat) (r : Reg) (i j k : Nat) : (s.countBy n r i j k).mac = s.mac := (rfl)
@[simp] theorem Dev.countBy_swc (n : Nat) (r : Reg) (i j k : Nat) : (s.countBy n r i j k).swc = s.swc := (rfl)
@[simp] theorem Dev.countBy_ctl (n : Nat) (r : Reg) (i j k : Nat) : (s.countBy n r i j k).ctl = s.ctl := (rfl)
@[simp] theorem Dev.countBy_slm (n : Nat) (r : Reg) (i j k : Nat) : (s.countBy n r i j k).slm = s.slm := (rfl)
@[simp] theorem Dev.countBy_par (n : Nat) (r : Reg) (i j k : Nat) : (s.countBy n r i j k).par = s.par := (rfl)
@[simp] theorem Dev.countBy_can (n : Nat) (r : Reg) (i j k : Nat) : (s.countBy n r i j k).can = s.can := (rfl)
@[simp] theorem Dev.countBy_bld (n : Nat) (r : Reg) (i j k : Nat) : (s.countBy n r i j k).bld = s.bld := (rfl)
@[simp] theorem Dev.countBy_grp (n : Nat) (r : Reg) (i j k : Nat) : (s.countBy n r i j k).grp = s.grp := (rfl)
@[simp] theorem Dev.countBy_pers (n : Nat) (r : Reg) (i j k : Nat) : (s.countBy n r i j k).pers = s.pers := (rfl)
@[simp] theorem Dev.countBy_mbx (n : Nat) (r : Reg) (i j k : Nat) : (s.countBy n r i j k).mbx = s.mbx := (rfl)
@[simp] theorem Dev.countBy_host (n : Nat) (r : Reg) (i j k : Nat) : (s.countBy n r i j k).host = s.host := (rfl)
@[simp] theorem Dev.countBy_tap (n : Nat) (r : Reg) (i j k : Nat) : (s.countBy n r i j k).tap = s.tap := (rfl)

@[simp] theorem Dev.count_mem (r : Reg) (i j k : Nat) : (s.count r i j k).mem = s.mem := (rfl)
@[simp] theorem Dev.count_hiLatch (r : Reg) (i j k : Nat) : (s.count r i j k).hiLatch = s.hiLatch := (rfl)
@[simp] theorem Dev.count_loStage (r : Reg) (i j k : Nat) : (s.count r i j k).loStage = s.loStage := (rfl)
@[simp] theorem Dev.count_freeCnt (r : Reg) (i j k : Nat) : (s.count r i j k).freeCnt = s.freeCnt := (rfl)
@[simp] theorem Dev.count_rd (r : Reg) (i j k : Nat) : (s.count r i j k).rd = s.rd := (rfl)
@[simp] theorem Dev.count_sys (r : Reg) (i j k : Nat) : (s.count r i j k).sys = s.sys := (rfl)
@[simp] theorem Dev.count_boot (r : Reg) (i j k : Nat) : (s.count r i j k).boot = s.boot := (rfl)
@[simp] theorem Dev.count_vlt (r : Reg) (i j k : Nat) : (s.count r i j k).vlt = s.vlt := (rfl)
@[simp] theorem Dev.count_eng (r : Reg) (i j k : Nat) : (s.count r i j k).eng = s.eng := (rfl)
@[simp] theorem Dev.count_smf (r : Reg) (i j k : Nat) : (s.count r i j k).smf = s.smf := (rfl)
@[simp] theorem Dev.count_grm (r : Reg) (i j k : Nat) : (s.count r i j k).grm = s.grm := (rfl)
@[simp] theorem Dev.count_lft (r : Reg) (i j k : Nat) : (s.count r i j k).lft = s.lft := (rfl)
@[simp] theorem Dev.count_tmu (r : Reg) (i j k : Nat) : (s.count r i j k).tmu = s.tmu := (rfl)
@[simp] theorem Dev.count_mac (r : Reg) (i j k : Nat) : (s.count r i j k).mac = s.mac := (rfl)
@[simp] theorem Dev.count_swc (r : Reg) (i j k : Nat) : (s.count r i j k).swc = s.swc := (rfl)
@[simp] theorem Dev.count_ctl (r : Reg) (i j k : Nat) : (s.count r i j k).ctl = s.ctl := (rfl)
@[simp] theorem Dev.count_slm (r : Reg) (i j k : Nat) : (s.count r i j k).slm = s.slm := (rfl)
@[simp] theorem Dev.count_par (r : Reg) (i j k : Nat) : (s.count r i j k).par = s.par := (rfl)
@[simp] theorem Dev.count_can (r : Reg) (i j k : Nat) : (s.count r i j k).can = s.can := (rfl)
@[simp] theorem Dev.count_bld (r : Reg) (i j k : Nat) : (s.count r i j k).bld = s.bld := (rfl)
@[simp] theorem Dev.count_grp (r : Reg) (i j k : Nat) : (s.count r i j k).grp = s.grp := (rfl)
@[simp] theorem Dev.count_pers (r : Reg) (i j k : Nat) : (s.count r i j k).pers = s.pers := (rfl)
@[simp] theorem Dev.count_mbx (r : Reg) (i j k : Nat) : (s.count r i j k).mbx = s.mbx := (rfl)
@[simp] theorem Dev.count_host (r : Reg) (i j k : Nat) : (s.count r i j k).host = s.host := (rfl)
@[simp] theorem Dev.count_tap (r : Reg) (i j k : Nat) : (s.count r i j k).tap = s.tap := (rfl)

@[simp] theorem Dev.misuse_mem (b : Block) (n : Nat) : (s.misuse b n).mem = s.mem := (rfl)
@[simp] theorem Dev.misuse_hiLatch (b : Block) (n : Nat) : (s.misuse b n).hiLatch = s.hiLatch := (rfl)
@[simp] theorem Dev.misuse_loStage (b : Block) (n : Nat) : (s.misuse b n).loStage = s.loStage := (rfl)
@[simp] theorem Dev.misuse_freeCnt (b : Block) (n : Nat) : (s.misuse b n).freeCnt = s.freeCnt := (rfl)
@[simp] theorem Dev.misuse_rd (b : Block) (n : Nat) : (s.misuse b n).rd = s.rd := (rfl)
@[simp] theorem Dev.misuse_sys (b : Block) (n : Nat) : (s.misuse b n).sys = s.sys := (rfl)
@[simp] theorem Dev.misuse_boot (b : Block) (n : Nat) : (s.misuse b n).boot = s.boot := (rfl)
@[simp] theorem Dev.misuse_vlt (b : Block) (n : Nat) : (s.misuse b n).vlt = s.vlt := (rfl)
@[simp] theorem Dev.misuse_eng (b : Block) (n : Nat) : (s.misuse b n).eng = s.eng := (rfl)
@[simp] theorem Dev.misuse_smf (b : Block) (n : Nat) : (s.misuse b n).smf = s.smf := (rfl)
@[simp] theorem Dev.misuse_grm (b : Block) (n : Nat) : (s.misuse b n).grm = s.grm := (rfl)
@[simp] theorem Dev.misuse_lft (b : Block) (n : Nat) : (s.misuse b n).lft = s.lft := (rfl)
@[simp] theorem Dev.misuse_tmu (b : Block) (n : Nat) : (s.misuse b n).tmu = s.tmu := (rfl)
@[simp] theorem Dev.misuse_mac (b : Block) (n : Nat) : (s.misuse b n).mac = s.mac := (rfl)
@[simp] theorem Dev.misuse_swc (b : Block) (n : Nat) : (s.misuse b n).swc = s.swc := (rfl)
@[simp] theorem Dev.misuse_ctl (b : Block) (n : Nat) : (s.misuse b n).ctl = s.ctl := (rfl)
@[simp] theorem Dev.misuse_slm (b : Block) (n : Nat) : (s.misuse b n).slm = s.slm := (rfl)
@[simp] theorem Dev.misuse_par (b : Block) (n : Nat) : (s.misuse b n).par = s.par := (rfl)
@[simp] theorem Dev.misuse_can (b : Block) (n : Nat) : (s.misuse b n).can = s.can := (rfl)
@[simp] theorem Dev.misuse_bld (b : Block) (n : Nat) : (s.misuse b n).bld = s.bld := (rfl)
@[simp] theorem Dev.misuse_grp (b : Block) (n : Nat) : (s.misuse b n).grp = s.grp := (rfl)
@[simp] theorem Dev.misuse_pers (b : Block) (n : Nat) : (s.misuse b n).pers = s.pers := (rfl)
@[simp] theorem Dev.misuse_mbx (b : Block) (n : Nat) : (s.misuse b n).mbx = s.mbx := (rfl)
@[simp] theorem Dev.misuse_host (b : Block) (n : Nat) : (s.misuse b n).host = s.host := (rfl)
@[simp] theorem Dev.misuse_tap (b : Block) (n : Nat) : (s.misuse b n).tap = s.tap := (rfl)

@[simp] theorem Dev.setByte_regs (a : Nat) (b : Byte) : (s.setByte a b).regs = s.regs := (rfl)
@[simp] theorem Dev.setByte_mem (a : Nat) (b : Byte) : (s.setByte a b).mem = Sparse.set (fun _ => 0#8) s.mem a b := (rfl)
@[simp] theorem Dev.setByte_hiLatch (a : Nat) (b : Byte) : (s.setByte a b).hiLatch = s.hiLatch := (rfl)
@[simp] theorem Dev.setByte_loStage (a : Nat) (b : Byte) : (s.setByte a b).loStage = s.loStage := (rfl)
@[simp] theorem Dev.setByte_freeCnt (a : Nat) (b : Byte) : (s.setByte a b).freeCnt = s.freeCnt := (rfl)
@[simp] theorem Dev.setByte_rd (a : Nat) (b : Byte) : (s.setByte a b).rd = s.rd := (rfl)
@[simp] theorem Dev.setByte_sys (a : Nat) (b : Byte) : (s.setByte a b).sys = s.sys := (rfl)
@[simp] theorem Dev.setByte_boot (a : Nat) (b : Byte) : (s.setByte a b).boot = s.boot := (rfl)
@[simp] theorem Dev.setByte_vlt (a : Nat) (b : Byte) : (s.setByte a b).vlt = s.vlt := (rfl)
@[simp] theorem Dev.setByte_eng (a : Nat) (b : Byte) : (s.setByte a b).eng = s.eng := (rfl)
@[simp] theorem Dev.setByte_smf (a : Nat) (b : Byte) : (s.setByte a b).smf = s.smf := (rfl)
@[simp] theorem Dev.setByte_grm (a : Nat) (b : Byte) : (s.setByte a b).grm = s.grm := (rfl)
@[simp] theorem Dev.setByte_lft (a : Nat) (b : Byte) : (s.setByte a b).lft = s.lft := (rfl)
@[simp] theorem Dev.setByte_tmu (a : Nat) (b : Byte) : (s.setByte a b).tmu = s.tmu := (rfl)
@[simp] theorem Dev.setByte_mac (a : Nat) (b : Byte) : (s.setByte a b).mac = s.mac := (rfl)
@[simp] theorem Dev.setByte_swc (a : Nat) (b : Byte) : (s.setByte a b).swc = s.swc := (rfl)
@[simp] theorem Dev.setByte_ctl (a : Nat) (b : Byte) : (s.setByte a b).ctl = s.ctl := (rfl)
@[simp] theorem Dev.setByte_slm (a : Nat) (b : Byte) : (s.setByte a b).slm = s.slm := (rfl)
@[simp] theorem Dev.setByte_par (a : Nat) (b : Byte) : (s.setByte a b).par = s.par := (rfl)
@[simp] theorem Dev.setByte_can (a : Nat) (b : Byte) : (s.setByte a b).can = s.can := (rfl)
@[simp] theorem Dev.setByte_bld (a : Nat) (b : Byte) : (s.setByte a b).bld = s.bld := (rfl)
@[simp] theorem Dev.setByte_grp (a : Nat) (b : Byte) : (s.setByte a b).grp = s.grp := (rfl)
@[simp] theorem Dev.setByte_pers (a : Nat) (b : Byte) : (s.setByte a b).pers = s.pers := (rfl)
@[simp] theorem Dev.setByte_mbx (a : Nat) (b : Byte) : (s.setByte a b).mbx = s.mbx := (rfl)
@[simp] theorem Dev.setByte_host (a : Nat) (b : Byte) : (s.setByte a b).host = s.host := (rfl)
@[simp] theorem Dev.setByte_tap (a : Nat) (b : Byte) : (s.setByte a b).tap = s.tap := (rfl)

@[simp] theorem Dev.zeroRange_regs (a b : Nat) : (s.zeroRange a b).regs = s.regs := (rfl)
@[simp] theorem Dev.zeroRange_hiLatch (a b : Nat) : (s.zeroRange a b).hiLatch = s.hiLatch := (rfl)
@[simp] theorem Dev.zeroRange_loStage (a b : Nat) : (s.zeroRange a b).loStage = s.loStage := (rfl)
@[simp] theorem Dev.zeroRange_freeCnt (a b : Nat) : (s.zeroRange a b).freeCnt = s.freeCnt := (rfl)
@[simp] theorem Dev.zeroRange_rd (a b : Nat) : (s.zeroRange a b).rd = s.rd := (rfl)
@[simp] theorem Dev.zeroRange_sys (a b : Nat) : (s.zeroRange a b).sys = s.sys := (rfl)
@[simp] theorem Dev.zeroRange_boot (a b : Nat) : (s.zeroRange a b).boot = s.boot := (rfl)
@[simp] theorem Dev.zeroRange_vlt (a b : Nat) : (s.zeroRange a b).vlt = s.vlt := (rfl)
@[simp] theorem Dev.zeroRange_eng (a b : Nat) : (s.zeroRange a b).eng = s.eng := (rfl)
@[simp] theorem Dev.zeroRange_smf (a b : Nat) : (s.zeroRange a b).smf = s.smf := (rfl)
@[simp] theorem Dev.zeroRange_grm (a b : Nat) : (s.zeroRange a b).grm = s.grm := (rfl)
@[simp] theorem Dev.zeroRange_lft (a b : Nat) : (s.zeroRange a b).lft = s.lft := (rfl)
@[simp] theorem Dev.zeroRange_tmu (a b : Nat) : (s.zeroRange a b).tmu = s.tmu := (rfl)
@[simp] theorem Dev.zeroRange_mac (a b : Nat) : (s.zeroRange a b).mac = s.mac := (rfl)
@[simp] theorem Dev.zeroRange_swc (a b : Nat) : (s.zeroRange a b).swc = s.swc := (rfl)
@[simp] theorem Dev.zeroRange_ctl (a b : Nat) : (s.zeroRange a b).ctl = s.ctl := (rfl)
@[simp] theorem Dev.zeroRange_slm (a b : Nat) : (s.zeroRange a b).slm = s.slm := (rfl)
@[simp] theorem Dev.zeroRange_par (a b : Nat) : (s.zeroRange a b).par = s.par := (rfl)
@[simp] theorem Dev.zeroRange_can (a b : Nat) : (s.zeroRange a b).can = s.can := (rfl)
@[simp] theorem Dev.zeroRange_bld (a b : Nat) : (s.zeroRange a b).bld = s.bld := (rfl)
@[simp] theorem Dev.zeroRange_grp (a b : Nat) : (s.zeroRange a b).grp = s.grp := (rfl)
@[simp] theorem Dev.zeroRange_pers (a b : Nat) : (s.zeroRange a b).pers = s.pers := (rfl)
@[simp] theorem Dev.zeroRange_mbx (a b : Nat) : (s.zeroRange a b).mbx = s.mbx := (rfl)
@[simp] theorem Dev.zeroRange_host (a b : Nat) : (s.zeroRange a b).host = s.host := (rfl)
@[simp] theorem Dev.zeroRange_tap (a b : Nat) : (s.zeroRange a b).tap = s.tap := (rfl)

@[simp] theorem Dev.fresh_regs : (s.fresh.2).regs = s.regs := (rfl)
@[simp] theorem Dev.fresh_mem : (s.fresh.2).mem = s.mem := (rfl)
@[simp] theorem Dev.fresh_hiLatch : (s.fresh.2).hiLatch = s.hiLatch := (rfl)
@[simp] theorem Dev.fresh_loStage : (s.fresh.2).loStage = s.loStage := (rfl)
@[simp] theorem Dev.fresh_freeCnt : (s.fresh.2).freeCnt = s.freeCnt + 1 := (rfl)
@[simp] theorem Dev.fresh_rd : (s.fresh.2).rd = s.rd := (rfl)
@[simp] theorem Dev.fresh_sys : (s.fresh.2).sys = s.sys := (rfl)
@[simp] theorem Dev.fresh_boot : (s.fresh.2).boot = s.boot := (rfl)
@[simp] theorem Dev.fresh_vlt : (s.fresh.2).vlt = s.vlt := (rfl)
@[simp] theorem Dev.fresh_eng : (s.fresh.2).eng = s.eng := (rfl)
@[simp] theorem Dev.fresh_smf : (s.fresh.2).smf = s.smf := (rfl)
@[simp] theorem Dev.fresh_grm : (s.fresh.2).grm = s.grm := (rfl)
@[simp] theorem Dev.fresh_lft : (s.fresh.2).lft = s.lft := (rfl)
@[simp] theorem Dev.fresh_tmu : (s.fresh.2).tmu = s.tmu := (rfl)
@[simp] theorem Dev.fresh_mac : (s.fresh.2).mac = s.mac := (rfl)
@[simp] theorem Dev.fresh_swc : (s.fresh.2).swc = s.swc := (rfl)
@[simp] theorem Dev.fresh_ctl : (s.fresh.2).ctl = s.ctl := (rfl)
@[simp] theorem Dev.fresh_slm : (s.fresh.2).slm = s.slm := (rfl)
@[simp] theorem Dev.fresh_par : (s.fresh.2).par = s.par := (rfl)
@[simp] theorem Dev.fresh_can : (s.fresh.2).can = s.can := (rfl)
@[simp] theorem Dev.fresh_bld : (s.fresh.2).bld = s.bld := (rfl)
@[simp] theorem Dev.fresh_grp : (s.fresh.2).grp = s.grp := (rfl)
@[simp] theorem Dev.fresh_pers : (s.fresh.2).pers = s.pers := (rfl)
@[simp] theorem Dev.fresh_mbx : (s.fresh.2).mbx = s.mbx := (rfl)
@[simp] theorem Dev.fresh_host : (s.fresh.2).host = s.host := (rfl)
@[simp] theorem Dev.fresh_tap : (s.fresh.2).tap = s.tap := (rfl)

@[simp] theorem Dev.setLatch_regs (k : Nat) (v : Option Word) : (s.setLatch k v).regs = s.regs := (rfl)
@[simp] theorem Dev.setLatch_mem (k : Nat) (v : Option Word) : (s.setLatch k v).mem = s.mem := (rfl)
@[simp] theorem Dev.setLatch_hiLatch (k : Nat) (v : Option Word) : (s.setLatch k v).hiLatch = s.hiLatch.set k v := (rfl)
@[simp] theorem Dev.setLatch_loStage (k : Nat) (v : Option Word) : (s.setLatch k v).loStage = s.loStage := (rfl)
@[simp] theorem Dev.setLatch_freeCnt (k : Nat) (v : Option Word) : (s.setLatch k v).freeCnt = s.freeCnt := (rfl)
@[simp] theorem Dev.setLatch_rd (k : Nat) (v : Option Word) : (s.setLatch k v).rd = s.rd := (rfl)
@[simp] theorem Dev.setLatch_sys (k : Nat) (v : Option Word) : (s.setLatch k v).sys = s.sys := (rfl)
@[simp] theorem Dev.setLatch_boot (k : Nat) (v : Option Word) : (s.setLatch k v).boot = s.boot := (rfl)
@[simp] theorem Dev.setLatch_vlt (k : Nat) (v : Option Word) : (s.setLatch k v).vlt = s.vlt := (rfl)
@[simp] theorem Dev.setLatch_eng (k : Nat) (v : Option Word) : (s.setLatch k v).eng = s.eng := (rfl)
@[simp] theorem Dev.setLatch_smf (k : Nat) (v : Option Word) : (s.setLatch k v).smf = s.smf := (rfl)
@[simp] theorem Dev.setLatch_grm (k : Nat) (v : Option Word) : (s.setLatch k v).grm = s.grm := (rfl)
@[simp] theorem Dev.setLatch_lft (k : Nat) (v : Option Word) : (s.setLatch k v).lft = s.lft := (rfl)
@[simp] theorem Dev.setLatch_tmu (k : Nat) (v : Option Word) : (s.setLatch k v).tmu = s.tmu := (rfl)
@[simp] theorem Dev.setLatch_mac (k : Nat) (v : Option Word) : (s.setLatch k v).mac = s.mac := (rfl)
@[simp] theorem Dev.setLatch_swc (k : Nat) (v : Option Word) : (s.setLatch k v).swc = s.swc := (rfl)
@[simp] theorem Dev.setLatch_ctl (k : Nat) (v : Option Word) : (s.setLatch k v).ctl = s.ctl := (rfl)
@[simp] theorem Dev.setLatch_slm (k : Nat) (v : Option Word) : (s.setLatch k v).slm = s.slm := (rfl)
@[simp] theorem Dev.setLatch_par (k : Nat) (v : Option Word) : (s.setLatch k v).par = s.par := (rfl)
@[simp] theorem Dev.setLatch_can (k : Nat) (v : Option Word) : (s.setLatch k v).can = s.can := (rfl)
@[simp] theorem Dev.setLatch_bld (k : Nat) (v : Option Word) : (s.setLatch k v).bld = s.bld := (rfl)
@[simp] theorem Dev.setLatch_grp (k : Nat) (v : Option Word) : (s.setLatch k v).grp = s.grp := (rfl)
@[simp] theorem Dev.setLatch_pers (k : Nat) (v : Option Word) : (s.setLatch k v).pers = s.pers := (rfl)
@[simp] theorem Dev.setLatch_mbx (k : Nat) (v : Option Word) : (s.setLatch k v).mbx = s.mbx := (rfl)
@[simp] theorem Dev.setLatch_host (k : Nat) (v : Option Word) : (s.setLatch k v).host = s.host := (rfl)
@[simp] theorem Dev.setLatch_tap (k : Nat) (v : Option Word) : (s.setLatch k v).tap = s.tap := (rfl)

@[simp] theorem Dev.setStage_regs (k : Nat) (v : Option Word) : (s.setStage k v).regs = s.regs := (rfl)
@[simp] theorem Dev.setStage_mem (k : Nat) (v : Option Word) : (s.setStage k v).mem = s.mem := (rfl)
@[simp] theorem Dev.setStage_hiLatch (k : Nat) (v : Option Word) : (s.setStage k v).hiLatch = s.hiLatch := (rfl)
@[simp] theorem Dev.setStage_loStage (k : Nat) (v : Option Word) : (s.setStage k v).loStage = s.loStage.set k v := (rfl)
@[simp] theorem Dev.setStage_freeCnt (k : Nat) (v : Option Word) : (s.setStage k v).freeCnt = s.freeCnt := (rfl)
@[simp] theorem Dev.setStage_rd (k : Nat) (v : Option Word) : (s.setStage k v).rd = s.rd := (rfl)
@[simp] theorem Dev.setStage_sys (k : Nat) (v : Option Word) : (s.setStage k v).sys = s.sys := (rfl)
@[simp] theorem Dev.setStage_boot (k : Nat) (v : Option Word) : (s.setStage k v).boot = s.boot := (rfl)
@[simp] theorem Dev.setStage_vlt (k : Nat) (v : Option Word) : (s.setStage k v).vlt = s.vlt := (rfl)
@[simp] theorem Dev.setStage_eng (k : Nat) (v : Option Word) : (s.setStage k v).eng = s.eng := (rfl)
@[simp] theorem Dev.setStage_smf (k : Nat) (v : Option Word) : (s.setStage k v).smf = s.smf := (rfl)
@[simp] theorem Dev.setStage_grm (k : Nat) (v : Option Word) : (s.setStage k v).grm = s.grm := (rfl)
@[simp] theorem Dev.setStage_lft (k : Nat) (v : Option Word) : (s.setStage k v).lft = s.lft := (rfl)
@[simp] theorem Dev.setStage_tmu (k : Nat) (v : Option Word) : (s.setStage k v).tmu = s.tmu := (rfl)
@[simp] theorem Dev.setStage_mac (k : Nat) (v : Option Word) : (s.setStage k v).mac = s.mac := (rfl)
@[simp] theorem Dev.setStage_swc (k : Nat) (v : Option Word) : (s.setStage k v).swc = s.swc := (rfl)
@[simp] theorem Dev.setStage_ctl (k : Nat) (v : Option Word) : (s.setStage k v).ctl = s.ctl := (rfl)
@[simp] theorem Dev.setStage_slm (k : Nat) (v : Option Word) : (s.setStage k v).slm = s.slm := (rfl)
@[simp] theorem Dev.setStage_par (k : Nat) (v : Option Word) : (s.setStage k v).par = s.par := (rfl)
@[simp] theorem Dev.setStage_can (k : Nat) (v : Option Word) : (s.setStage k v).can = s.can := (rfl)
@[simp] theorem Dev.setStage_bld (k : Nat) (v : Option Word) : (s.setStage k v).bld = s.bld := (rfl)
@[simp] theorem Dev.setStage_grp (k : Nat) (v : Option Word) : (s.setStage k v).grp = s.grp := (rfl)
@[simp] theorem Dev.setStage_pers (k : Nat) (v : Option Word) : (s.setStage k v).pers = s.pers := (rfl)
@[simp] theorem Dev.setStage_mbx (k : Nat) (v : Option Word) : (s.setStage k v).mbx = s.mbx := (rfl)
@[simp] theorem Dev.setStage_host (k : Nat) (v : Option Word) : (s.setStage k v).host = s.host := (rfl)
@[simp] theorem Dev.setStage_tap (k : Nat) (v : Option Word) : (s.setStage k v).tap = s.tap := (rfl)

@[simp] theorem Dev.updSys_regs (f : SysSt → SysSt) : (s.updSys f).regs = s.regs := (rfl)
@[simp] theorem Dev.updSys_mem (f : SysSt → SysSt) : (s.updSys f).mem = s.mem := (rfl)
@[simp] theorem Dev.updSys_hiLatch (f : SysSt → SysSt) : (s.updSys f).hiLatch = s.hiLatch := (rfl)
@[simp] theorem Dev.updSys_loStage (f : SysSt → SysSt) : (s.updSys f).loStage = s.loStage := (rfl)
@[simp] theorem Dev.updSys_freeCnt (f : SysSt → SysSt) : (s.updSys f).freeCnt = s.freeCnt := (rfl)
@[simp] theorem Dev.updSys_rd (f : SysSt → SysSt) : (s.updSys f).rd = s.rd := (rfl)
@[simp] theorem Dev.updSys_sys (f : SysSt → SysSt) : (s.updSys f).sys = f s.sys := (rfl)
@[simp] theorem Dev.updSys_boot (f : SysSt → SysSt) : (s.updSys f).boot = s.boot := (rfl)
@[simp] theorem Dev.updSys_vlt (f : SysSt → SysSt) : (s.updSys f).vlt = s.vlt := (rfl)
@[simp] theorem Dev.updSys_eng (f : SysSt → SysSt) : (s.updSys f).eng = s.eng := (rfl)
@[simp] theorem Dev.updSys_smf (f : SysSt → SysSt) : (s.updSys f).smf = s.smf := (rfl)
@[simp] theorem Dev.updSys_grm (f : SysSt → SysSt) : (s.updSys f).grm = s.grm := (rfl)
@[simp] theorem Dev.updSys_lft (f : SysSt → SysSt) : (s.updSys f).lft = s.lft := (rfl)
@[simp] theorem Dev.updSys_tmu (f : SysSt → SysSt) : (s.updSys f).tmu = s.tmu := (rfl)
@[simp] theorem Dev.updSys_mac (f : SysSt → SysSt) : (s.updSys f).mac = s.mac := (rfl)
@[simp] theorem Dev.updSys_swc (f : SysSt → SysSt) : (s.updSys f).swc = s.swc := (rfl)
@[simp] theorem Dev.updSys_ctl (f : SysSt → SysSt) : (s.updSys f).ctl = s.ctl := (rfl)
@[simp] theorem Dev.updSys_slm (f : SysSt → SysSt) : (s.updSys f).slm = s.slm := (rfl)
@[simp] theorem Dev.updSys_par (f : SysSt → SysSt) : (s.updSys f).par = s.par := (rfl)
@[simp] theorem Dev.updSys_can (f : SysSt → SysSt) : (s.updSys f).can = s.can := (rfl)
@[simp] theorem Dev.updSys_bld (f : SysSt → SysSt) : (s.updSys f).bld = s.bld := (rfl)
@[simp] theorem Dev.updSys_grp (f : SysSt → SysSt) : (s.updSys f).grp = s.grp := (rfl)
@[simp] theorem Dev.updSys_pers (f : SysSt → SysSt) : (s.updSys f).pers = s.pers := (rfl)
@[simp] theorem Dev.updSys_mbx (f : SysSt → SysSt) : (s.updSys f).mbx = s.mbx := (rfl)
@[simp] theorem Dev.updSys_host (f : SysSt → SysSt) : (s.updSys f).host = s.host := (rfl)
@[simp] theorem Dev.updSys_tap (f : SysSt → SysSt) : (s.updSys f).tap = s.tap := (rfl)

@[simp] theorem Dev.updBoot_regs (f : BootSt → BootSt) : (s.updBoot f).regs = s.regs := (rfl)
@[simp] theorem Dev.updBoot_mem (f : BootSt → BootSt) : (s.updBoot f).mem = s.mem := (rfl)
@[simp] theorem Dev.updBoot_hiLatch (f : BootSt → BootSt) : (s.updBoot f).hiLatch = s.hiLatch := (rfl)
@[simp] theorem Dev.updBoot_loStage (f : BootSt → BootSt) : (s.updBoot f).loStage = s.loStage := (rfl)
@[simp] theorem Dev.updBoot_freeCnt (f : BootSt → BootSt) : (s.updBoot f).freeCnt = s.freeCnt := (rfl)
@[simp] theorem Dev.updBoot_rd (f : BootSt → BootSt) : (s.updBoot f).rd = s.rd := (rfl)
@[simp] theorem Dev.updBoot_sys (f : BootSt → BootSt) : (s.updBoot f).sys = s.sys := (rfl)
@[simp] theorem Dev.updBoot_boot (f : BootSt → BootSt) : (s.updBoot f).boot = f s.boot := (rfl)
@[simp] theorem Dev.updBoot_vlt (f : BootSt → BootSt) : (s.updBoot f).vlt = s.vlt := (rfl)
@[simp] theorem Dev.updBoot_eng (f : BootSt → BootSt) : (s.updBoot f).eng = s.eng := (rfl)
@[simp] theorem Dev.updBoot_smf (f : BootSt → BootSt) : (s.updBoot f).smf = s.smf := (rfl)
@[simp] theorem Dev.updBoot_grm (f : BootSt → BootSt) : (s.updBoot f).grm = s.grm := (rfl)
@[simp] theorem Dev.updBoot_lft (f : BootSt → BootSt) : (s.updBoot f).lft = s.lft := (rfl)
@[simp] theorem Dev.updBoot_tmu (f : BootSt → BootSt) : (s.updBoot f).tmu = s.tmu := (rfl)
@[simp] theorem Dev.updBoot_mac (f : BootSt → BootSt) : (s.updBoot f).mac = s.mac := (rfl)
@[simp] theorem Dev.updBoot_swc (f : BootSt → BootSt) : (s.updBoot f).swc = s.swc := (rfl)
@[simp] theorem Dev.updBoot_ctl (f : BootSt → BootSt) : (s.updBoot f).ctl = s.ctl := (rfl)
@[simp] theorem Dev.updBoot_slm (f : BootSt → BootSt) : (s.updBoot f).slm = s.slm := (rfl)
@[simp] theorem Dev.updBoot_par (f : BootSt → BootSt) : (s.updBoot f).par = s.par := (rfl)
@[simp] theorem Dev.updBoot_can (f : BootSt → BootSt) : (s.updBoot f).can = s.can := (rfl)
@[simp] theorem Dev.updBoot_bld (f : BootSt → BootSt) : (s.updBoot f).bld = s.bld := (rfl)
@[simp] theorem Dev.updBoot_grp (f : BootSt → BootSt) : (s.updBoot f).grp = s.grp := (rfl)
@[simp] theorem Dev.updBoot_pers (f : BootSt → BootSt) : (s.updBoot f).pers = s.pers := (rfl)
@[simp] theorem Dev.updBoot_mbx (f : BootSt → BootSt) : (s.updBoot f).mbx = s.mbx := (rfl)
@[simp] theorem Dev.updBoot_host (f : BootSt → BootSt) : (s.updBoot f).host = s.host := (rfl)
@[simp] theorem Dev.updBoot_tap (f : BootSt → BootSt) : (s.updBoot f).tap = s.tap := (rfl)

@[simp] theorem Dev.updVlt_regs (f : VltSt → VltSt) : (s.updVlt f).regs = s.regs := (rfl)
@[simp] theorem Dev.updVlt_mem (f : VltSt → VltSt) : (s.updVlt f).mem = s.mem := (rfl)
@[simp] theorem Dev.updVlt_hiLatch (f : VltSt → VltSt) : (s.updVlt f).hiLatch = s.hiLatch := (rfl)
@[simp] theorem Dev.updVlt_loStage (f : VltSt → VltSt) : (s.updVlt f).loStage = s.loStage := (rfl)
@[simp] theorem Dev.updVlt_freeCnt (f : VltSt → VltSt) : (s.updVlt f).freeCnt = s.freeCnt := (rfl)
@[simp] theorem Dev.updVlt_rd (f : VltSt → VltSt) : (s.updVlt f).rd = s.rd := (rfl)
@[simp] theorem Dev.updVlt_sys (f : VltSt → VltSt) : (s.updVlt f).sys = s.sys := (rfl)
@[simp] theorem Dev.updVlt_boot (f : VltSt → VltSt) : (s.updVlt f).boot = s.boot := (rfl)
@[simp] theorem Dev.updVlt_vlt (f : VltSt → VltSt) : (s.updVlt f).vlt = f s.vlt := (rfl)
@[simp] theorem Dev.updVlt_eng (f : VltSt → VltSt) : (s.updVlt f).eng = s.eng := (rfl)
@[simp] theorem Dev.updVlt_smf (f : VltSt → VltSt) : (s.updVlt f).smf = s.smf := (rfl)
@[simp] theorem Dev.updVlt_grm (f : VltSt → VltSt) : (s.updVlt f).grm = s.grm := (rfl)
@[simp] theorem Dev.updVlt_lft (f : VltSt → VltSt) : (s.updVlt f).lft = s.lft := (rfl)
@[simp] theorem Dev.updVlt_tmu (f : VltSt → VltSt) : (s.updVlt f).tmu = s.tmu := (rfl)
@[simp] theorem Dev.updVlt_mac (f : VltSt → VltSt) : (s.updVlt f).mac = s.mac := (rfl)
@[simp] theorem Dev.updVlt_swc (f : VltSt → VltSt) : (s.updVlt f).swc = s.swc := (rfl)
@[simp] theorem Dev.updVlt_ctl (f : VltSt → VltSt) : (s.updVlt f).ctl = s.ctl := (rfl)
@[simp] theorem Dev.updVlt_slm (f : VltSt → VltSt) : (s.updVlt f).slm = s.slm := (rfl)
@[simp] theorem Dev.updVlt_par (f : VltSt → VltSt) : (s.updVlt f).par = s.par := (rfl)
@[simp] theorem Dev.updVlt_can (f : VltSt → VltSt) : (s.updVlt f).can = s.can := (rfl)
@[simp] theorem Dev.updVlt_bld (f : VltSt → VltSt) : (s.updVlt f).bld = s.bld := (rfl)
@[simp] theorem Dev.updVlt_grp (f : VltSt → VltSt) : (s.updVlt f).grp = s.grp := (rfl)
@[simp] theorem Dev.updVlt_pers (f : VltSt → VltSt) : (s.updVlt f).pers = s.pers := (rfl)
@[simp] theorem Dev.updVlt_mbx (f : VltSt → VltSt) : (s.updVlt f).mbx = s.mbx := (rfl)
@[simp] theorem Dev.updVlt_host (f : VltSt → VltSt) : (s.updVlt f).host = s.host := (rfl)
@[simp] theorem Dev.updVlt_tap (f : VltSt → VltSt) : (s.updVlt f).tap = s.tap := (rfl)

@[simp] theorem Dev.updHost_regs (f : HostSt → HostSt) : (s.updHost f).regs = s.regs := (rfl)
@[simp] theorem Dev.updHost_mem (f : HostSt → HostSt) : (s.updHost f).mem = s.mem := (rfl)
@[simp] theorem Dev.updHost_hiLatch (f : HostSt → HostSt) : (s.updHost f).hiLatch = s.hiLatch := (rfl)
@[simp] theorem Dev.updHost_loStage (f : HostSt → HostSt) : (s.updHost f).loStage = s.loStage := (rfl)
@[simp] theorem Dev.updHost_freeCnt (f : HostSt → HostSt) : (s.updHost f).freeCnt = s.freeCnt := (rfl)
@[simp] theorem Dev.updHost_rd (f : HostSt → HostSt) : (s.updHost f).rd = s.rd := (rfl)
@[simp] theorem Dev.updHost_sys (f : HostSt → HostSt) : (s.updHost f).sys = s.sys := (rfl)
@[simp] theorem Dev.updHost_boot (f : HostSt → HostSt) : (s.updHost f).boot = s.boot := (rfl)
@[simp] theorem Dev.updHost_vlt (f : HostSt → HostSt) : (s.updHost f).vlt = s.vlt := (rfl)
@[simp] theorem Dev.updHost_eng (f : HostSt → HostSt) : (s.updHost f).eng = s.eng := (rfl)
@[simp] theorem Dev.updHost_smf (f : HostSt → HostSt) : (s.updHost f).smf = s.smf := (rfl)
@[simp] theorem Dev.updHost_grm (f : HostSt → HostSt) : (s.updHost f).grm = s.grm := (rfl)
@[simp] theorem Dev.updHost_lft (f : HostSt → HostSt) : (s.updHost f).lft = s.lft := (rfl)
@[simp] theorem Dev.updHost_tmu (f : HostSt → HostSt) : (s.updHost f).tmu = s.tmu := (rfl)
@[simp] theorem Dev.updHost_mac (f : HostSt → HostSt) : (s.updHost f).mac = s.mac := (rfl)
@[simp] theorem Dev.updHost_swc (f : HostSt → HostSt) : (s.updHost f).swc = s.swc := (rfl)
@[simp] theorem Dev.updHost_ctl (f : HostSt → HostSt) : (s.updHost f).ctl = s.ctl := (rfl)
@[simp] theorem Dev.updHost_slm (f : HostSt → HostSt) : (s.updHost f).slm = s.slm := (rfl)
@[simp] theorem Dev.updHost_par (f : HostSt → HostSt) : (s.updHost f).par = s.par := (rfl)
@[simp] theorem Dev.updHost_can (f : HostSt → HostSt) : (s.updHost f).can = s.can := (rfl)
@[simp] theorem Dev.updHost_bld (f : HostSt → HostSt) : (s.updHost f).bld = s.bld := (rfl)
@[simp] theorem Dev.updHost_grp (f : HostSt → HostSt) : (s.updHost f).grp = s.grp := (rfl)
@[simp] theorem Dev.updHost_pers (f : HostSt → HostSt) : (s.updHost f).pers = s.pers := (rfl)
@[simp] theorem Dev.updHost_mbx (f : HostSt → HostSt) : (s.updHost f).mbx = s.mbx := (rfl)
@[simp] theorem Dev.updHost_host (f : HostSt → HostSt) : (s.updHost f).host = f s.host := (rfl)
@[simp] theorem Dev.updHost_tap (f : HostSt → HostSt) : (s.updHost f).tap = s.tap := (rfl)

@[simp] theorem Dev.updCtx_regs (c : Nat) (f : Ctx → Ctx) : (s.updCtx c f).regs = s.regs := (rfl)
@[simp] theorem Dev.updCtx_mem (c : Nat) (f : Ctx → Ctx) : (s.updCtx c f).mem = s.mem := (rfl)
@[simp] theorem Dev.updCtx_hiLatch (c : Nat) (f : Ctx → Ctx) : (s.updCtx c f).hiLatch = s.hiLatch := (rfl)
@[simp] theorem Dev.updCtx_loStage (c : Nat) (f : Ctx → Ctx) : (s.updCtx c f).loStage = s.loStage := (rfl)
@[simp] theorem Dev.updCtx_freeCnt (c : Nat) (f : Ctx → Ctx) : (s.updCtx c f).freeCnt = s.freeCnt := (rfl)
@[simp] theorem Dev.updCtx_rd (c : Nat) (f : Ctx → Ctx) : (s.updCtx c f).rd = s.rd := (rfl)
@[simp] theorem Dev.updCtx_sys (c : Nat) (f : Ctx → Ctx) : (s.updCtx c f).sys = s.sys := (rfl)
@[simp] theorem Dev.updCtx_boot (c : Nat) (f : Ctx → Ctx) : (s.updCtx c f).boot = s.boot := (rfl)
@[simp] theorem Dev.updCtx_vlt (c : Nat) (f : Ctx → Ctx) : (s.updCtx c f).vlt = s.vlt := (rfl)
@[simp] theorem Dev.updCtx_eng (c : Nat) (f : Ctx → Ctx) : (s.updCtx c f).eng = { s.eng with ctx := s.eng.ctx.upd c f } := (rfl)
@[simp] theorem Dev.updCtx_smf (c : Nat) (f : Ctx → Ctx) : (s.updCtx c f).smf = s.smf := (rfl)
@[simp] theorem Dev.updCtx_grm (c : Nat) (f : Ctx → Ctx) : (s.updCtx c f).grm = s.grm := (rfl)
@[simp] theorem Dev.updCtx_lft (c : Nat) (f : Ctx → Ctx) : (s.updCtx c f).lft = s.lft := (rfl)
@[simp] theorem Dev.updCtx_tmu (c : Nat) (f : Ctx → Ctx) : (s.updCtx c f).tmu = s.tmu := (rfl)
@[simp] theorem Dev.updCtx_mac (c : Nat) (f : Ctx → Ctx) : (s.updCtx c f).mac = s.mac := (rfl)
@[simp] theorem Dev.updCtx_swc (c : Nat) (f : Ctx → Ctx) : (s.updCtx c f).swc = s.swc := (rfl)
@[simp] theorem Dev.updCtx_ctl (c : Nat) (f : Ctx → Ctx) : (s.updCtx c f).ctl = s.ctl := (rfl)
@[simp] theorem Dev.updCtx_slm (c : Nat) (f : Ctx → Ctx) : (s.updCtx c f).slm = s.slm := (rfl)
@[simp] theorem Dev.updCtx_par (c : Nat) (f : Ctx → Ctx) : (s.updCtx c f).par = s.par := (rfl)
@[simp] theorem Dev.updCtx_can (c : Nat) (f : Ctx → Ctx) : (s.updCtx c f).can = s.can := (rfl)
@[simp] theorem Dev.updCtx_bld (c : Nat) (f : Ctx → Ctx) : (s.updCtx c f).bld = s.bld := (rfl)
@[simp] theorem Dev.updCtx_grp (c : Nat) (f : Ctx → Ctx) : (s.updCtx c f).grp = s.grp := (rfl)
@[simp] theorem Dev.updCtx_pers (c : Nat) (f : Ctx → Ctx) : (s.updCtx c f).pers = s.pers := (rfl)
@[simp] theorem Dev.updCtx_mbx (c : Nat) (f : Ctx → Ctx) : (s.updCtx c f).mbx = s.mbx := (rfl)
@[simp] theorem Dev.updCtx_host (c : Nat) (f : Ctx → Ctx) : (s.updCtx c f).host = s.host := (rfl)
@[simp] theorem Dev.updCtx_tap (c : Nat) (f : Ctx → Ctx) : (s.updCtx c f).tap = s.tap := (rfl)

@[simp] theorem Dev.updEng_regs (e : Nat) (f : Eng → Eng) : (s.updEng e f).regs = s.regs := (rfl)
@[simp] theorem Dev.updEng_mem (e : Nat) (f : Eng → Eng) : (s.updEng e f).mem = s.mem := (rfl)
@[simp] theorem Dev.updEng_hiLatch (e : Nat) (f : Eng → Eng) : (s.updEng e f).hiLatch = s.hiLatch := (rfl)
@[simp] theorem Dev.updEng_loStage (e : Nat) (f : Eng → Eng) : (s.updEng e f).loStage = s.loStage := (rfl)
@[simp] theorem Dev.updEng_freeCnt (e : Nat) (f : Eng → Eng) : (s.updEng e f).freeCnt = s.freeCnt := (rfl)
@[simp] theorem Dev.updEng_rd (e : Nat) (f : Eng → Eng) : (s.updEng e f).rd = s.rd := (rfl)
@[simp] theorem Dev.updEng_sys (e : Nat) (f : Eng → Eng) : (s.updEng e f).sys = s.sys := (rfl)
@[simp] theorem Dev.updEng_boot (e : Nat) (f : Eng → Eng) : (s.updEng e f).boot = s.boot := (rfl)
@[simp] theorem Dev.updEng_vlt (e : Nat) (f : Eng → Eng) : (s.updEng e f).vlt = s.vlt := (rfl)
@[simp] theorem Dev.updEng_eng (e : Nat) (f : Eng → Eng) : (s.updEng e f).eng = { s.eng with eng := s.eng.eng.upd e f } := (rfl)
@[simp] theorem Dev.updEng_smf (e : Nat) (f : Eng → Eng) : (s.updEng e f).smf = s.smf := (rfl)
@[simp] theorem Dev.updEng_grm (e : Nat) (f : Eng → Eng) : (s.updEng e f).grm = s.grm := (rfl)
@[simp] theorem Dev.updEng_lft (e : Nat) (f : Eng → Eng) : (s.updEng e f).lft = s.lft := (rfl)
@[simp] theorem Dev.updEng_tmu (e : Nat) (f : Eng → Eng) : (s.updEng e f).tmu = s.tmu := (rfl)
@[simp] theorem Dev.updEng_mac (e : Nat) (f : Eng → Eng) : (s.updEng e f).mac = s.mac := (rfl)
@[simp] theorem Dev.updEng_swc (e : Nat) (f : Eng → Eng) : (s.updEng e f).swc = s.swc := (rfl)
@[simp] theorem Dev.updEng_ctl (e : Nat) (f : Eng → Eng) : (s.updEng e f).ctl = s.ctl := (rfl)
@[simp] theorem Dev.updEng_slm (e : Nat) (f : Eng → Eng) : (s.updEng e f).slm = s.slm := (rfl)
@[simp] theorem Dev.updEng_par (e : Nat) (f : Eng → Eng) : (s.updEng e f).par = s.par := (rfl)
@[simp] theorem Dev.updEng_can (e : Nat) (f : Eng → Eng) : (s.updEng e f).can = s.can := (rfl)
@[simp] theorem Dev.updEng_bld (e : Nat) (f : Eng → Eng) : (s.updEng e f).bld = s.bld := (rfl)
@[simp] theorem Dev.updEng_grp (e : Nat) (f : Eng → Eng) : (s.updEng e f).grp = s.grp := (rfl)
@[simp] theorem Dev.updEng_pers (e : Nat) (f : Eng → Eng) : (s.updEng e f).pers = s.pers := (rfl)
@[simp] theorem Dev.updEng_mbx (e : Nat) (f : Eng → Eng) : (s.updEng e f).mbx = s.mbx := (rfl)
@[simp] theorem Dev.updEng_host (e : Nat) (f : Eng → Eng) : (s.updEng e f).host = s.host := (rfl)
@[simp] theorem Dev.updEng_tap (e : Nat) (f : Eng → Eng) : (s.updEng e f).tap = s.tap := (rfl)

@[simp] theorem Dev.updLift_regs (l : Nat) (f : LiftSt → LiftSt) : (s.updLift l f).regs = s.regs := (rfl)
@[simp] theorem Dev.updLift_mem (l : Nat) (f : LiftSt → LiftSt) : (s.updLift l f).mem = s.mem := (rfl)
@[simp] theorem Dev.updLift_hiLatch (l : Nat) (f : LiftSt → LiftSt) : (s.updLift l f).hiLatch = s.hiLatch := (rfl)
@[simp] theorem Dev.updLift_loStage (l : Nat) (f : LiftSt → LiftSt) : (s.updLift l f).loStage = s.loStage := (rfl)
@[simp] theorem Dev.updLift_freeCnt (l : Nat) (f : LiftSt → LiftSt) : (s.updLift l f).freeCnt = s.freeCnt := (rfl)
@[simp] theorem Dev.updLift_rd (l : Nat) (f : LiftSt → LiftSt) : (s.updLift l f).rd = s.rd := (rfl)
@[simp] theorem Dev.updLift_sys (l : Nat) (f : LiftSt → LiftSt) : (s.updLift l f).sys = s.sys := (rfl)
@[simp] theorem Dev.updLift_boot (l : Nat) (f : LiftSt → LiftSt) : (s.updLift l f).boot = s.boot := (rfl)
@[simp] theorem Dev.updLift_vlt (l : Nat) (f : LiftSt → LiftSt) : (s.updLift l f).vlt = s.vlt := (rfl)
@[simp] theorem Dev.updLift_eng (l : Nat) (f : LiftSt → LiftSt) : (s.updLift l f).eng = s.eng := (rfl)
@[simp] theorem Dev.updLift_smf (l : Nat) (f : LiftSt → LiftSt) : (s.updLift l f).smf = s.smf := (rfl)
@[simp] theorem Dev.updLift_grm (l : Nat) (f : LiftSt → LiftSt) : (s.updLift l f).grm = s.grm := (rfl)
@[simp] theorem Dev.updLift_lft (l : Nat) (f : LiftSt → LiftSt) : (s.updLift l f).lft = s.lft.upd l f := (rfl)
@[simp] theorem Dev.updLift_tmu (l : Nat) (f : LiftSt → LiftSt) : (s.updLift l f).tmu = s.tmu := (rfl)
@[simp] theorem Dev.updLift_mac (l : Nat) (f : LiftSt → LiftSt) : (s.updLift l f).mac = s.mac := (rfl)
@[simp] theorem Dev.updLift_swc (l : Nat) (f : LiftSt → LiftSt) : (s.updLift l f).swc = s.swc := (rfl)
@[simp] theorem Dev.updLift_ctl (l : Nat) (f : LiftSt → LiftSt) : (s.updLift l f).ctl = s.ctl := (rfl)
@[simp] theorem Dev.updLift_slm (l : Nat) (f : LiftSt → LiftSt) : (s.updLift l f).slm = s.slm := (rfl)
@[simp] theorem Dev.updLift_par (l : Nat) (f : LiftSt → LiftSt) : (s.updLift l f).par = s.par := (rfl)
@[simp] theorem Dev.updLift_can (l : Nat) (f : LiftSt → LiftSt) : (s.updLift l f).can = s.can := (rfl)
@[simp] theorem Dev.updLift_bld (l : Nat) (f : LiftSt → LiftSt) : (s.updLift l f).bld = s.bld := (rfl)
@[simp] theorem Dev.updLift_grp (l : Nat) (f : LiftSt → LiftSt) : (s.updLift l f).grp = s.grp := (rfl)
@[simp] theorem Dev.updLift_pers (l : Nat) (f : LiftSt → LiftSt) : (s.updLift l f).pers = s.pers := (rfl)
@[simp] theorem Dev.updLift_mbx (l : Nat) (f : LiftSt → LiftSt) : (s.updLift l f).mbx = s.mbx := (rfl)
@[simp] theorem Dev.updLift_host (l : Nat) (f : LiftSt → LiftSt) : (s.updLift l f).host = s.host := (rfl)
@[simp] theorem Dev.updLift_tap (l : Nat) (f : LiftSt → LiftSt) : (s.updLift l f).tap = s.tap := (rfl)

@[simp] theorem Dev.updMac_regs (n : Nat) (f : MacSt → MacSt) : (s.updMac n f).regs = s.regs := (rfl)
@[simp] theorem Dev.updMac_mem (n : Nat) (f : MacSt → MacSt) : (s.updMac n f).mem = s.mem := (rfl)
@[simp] theorem Dev.updMac_hiLatch (n : Nat) (f : MacSt → MacSt) : (s.updMac n f).hiLatch = s.hiLatch := (rfl)
@[simp] theorem Dev.updMac_loStage (n : Nat) (f : MacSt → MacSt) : (s.updMac n f).loStage = s.loStage := (rfl)
@[simp] theorem Dev.updMac_freeCnt (n : Nat) (f : MacSt → MacSt) : (s.updMac n f).freeCnt = s.freeCnt := (rfl)
@[simp] theorem Dev.updMac_rd (n : Nat) (f : MacSt → MacSt) : (s.updMac n f).rd = s.rd := (rfl)
@[simp] theorem Dev.updMac_sys (n : Nat) (f : MacSt → MacSt) : (s.updMac n f).sys = s.sys := (rfl)
@[simp] theorem Dev.updMac_boot (n : Nat) (f : MacSt → MacSt) : (s.updMac n f).boot = s.boot := (rfl)
@[simp] theorem Dev.updMac_vlt (n : Nat) (f : MacSt → MacSt) : (s.updMac n f).vlt = s.vlt := (rfl)
@[simp] theorem Dev.updMac_eng (n : Nat) (f : MacSt → MacSt) : (s.updMac n f).eng = s.eng := (rfl)
@[simp] theorem Dev.updMac_smf (n : Nat) (f : MacSt → MacSt) : (s.updMac n f).smf = s.smf := (rfl)
@[simp] theorem Dev.updMac_grm (n : Nat) (f : MacSt → MacSt) : (s.updMac n f).grm = s.grm := (rfl)
@[simp] theorem Dev.updMac_lft (n : Nat) (f : MacSt → MacSt) : (s.updMac n f).lft = s.lft := (rfl)
@[simp] theorem Dev.updMac_tmu (n : Nat) (f : MacSt → MacSt) : (s.updMac n f).tmu = s.tmu := (rfl)
@[simp] theorem Dev.updMac_mac (n : Nat) (f : MacSt → MacSt) : (s.updMac n f).mac = s.mac.upd n f := (rfl)
@[simp] theorem Dev.updMac_swc (n : Nat) (f : MacSt → MacSt) : (s.updMac n f).swc = s.swc := (rfl)
@[simp] theorem Dev.updMac_ctl (n : Nat) (f : MacSt → MacSt) : (s.updMac n f).ctl = s.ctl := (rfl)
@[simp] theorem Dev.updMac_slm (n : Nat) (f : MacSt → MacSt) : (s.updMac n f).slm = s.slm := (rfl)
@[simp] theorem Dev.updMac_par (n : Nat) (f : MacSt → MacSt) : (s.updMac n f).par = s.par := (rfl)
@[simp] theorem Dev.updMac_can (n : Nat) (f : MacSt → MacSt) : (s.updMac n f).can = s.can := (rfl)
@[simp] theorem Dev.updMac_bld (n : Nat) (f : MacSt → MacSt) : (s.updMac n f).bld = s.bld := (rfl)
@[simp] theorem Dev.updMac_grp (n : Nat) (f : MacSt → MacSt) : (s.updMac n f).grp = s.grp := (rfl)
@[simp] theorem Dev.updMac_pers (n : Nat) (f : MacSt → MacSt) : (s.updMac n f).pers = s.pers := (rfl)
@[simp] theorem Dev.updMac_mbx (n : Nat) (f : MacSt → MacSt) : (s.updMac n f).mbx = s.mbx := (rfl)
@[simp] theorem Dev.updMac_host (n : Nat) (f : MacSt → MacSt) : (s.updMac n f).host = s.host := (rfl)
@[simp] theorem Dev.updMac_tap (n : Nat) (f : MacSt → MacSt) : (s.updMac n f).tap = s.tap := (rfl)

@[simp] theorem Dev.updSwc_regs (f : SwcSt → SwcSt) : (s.updSwc f).regs = s.regs := (rfl)
@[simp] theorem Dev.updSwc_mem (f : SwcSt → SwcSt) : (s.updSwc f).mem = s.mem := (rfl)
@[simp] theorem Dev.updSwc_hiLatch (f : SwcSt → SwcSt) : (s.updSwc f).hiLatch = s.hiLatch := (rfl)
@[simp] theorem Dev.updSwc_loStage (f : SwcSt → SwcSt) : (s.updSwc f).loStage = s.loStage := (rfl)
@[simp] theorem Dev.updSwc_freeCnt (f : SwcSt → SwcSt) : (s.updSwc f).freeCnt = s.freeCnt := (rfl)
@[simp] theorem Dev.updSwc_rd (f : SwcSt → SwcSt) : (s.updSwc f).rd = s.rd := (rfl)
@[simp] theorem Dev.updSwc_sys (f : SwcSt → SwcSt) : (s.updSwc f).sys = s.sys := (rfl)
@[simp] theorem Dev.updSwc_boot (f : SwcSt → SwcSt) : (s.updSwc f).boot = s.boot := (rfl)
@[simp] theorem Dev.updSwc_vlt (f : SwcSt → SwcSt) : (s.updSwc f).vlt = s.vlt := (rfl)
@[simp] theorem Dev.updSwc_eng (f : SwcSt → SwcSt) : (s.updSwc f).eng = s.eng := (rfl)
@[simp] theorem Dev.updSwc_smf (f : SwcSt → SwcSt) : (s.updSwc f).smf = s.smf := (rfl)
@[simp] theorem Dev.updSwc_grm (f : SwcSt → SwcSt) : (s.updSwc f).grm = s.grm := (rfl)
@[simp] theorem Dev.updSwc_lft (f : SwcSt → SwcSt) : (s.updSwc f).lft = s.lft := (rfl)
@[simp] theorem Dev.updSwc_tmu (f : SwcSt → SwcSt) : (s.updSwc f).tmu = s.tmu := (rfl)
@[simp] theorem Dev.updSwc_mac (f : SwcSt → SwcSt) : (s.updSwc f).mac = s.mac := (rfl)
@[simp] theorem Dev.updSwc_swc (f : SwcSt → SwcSt) : (s.updSwc f).swc = f s.swc := (rfl)
@[simp] theorem Dev.updSwc_ctl (f : SwcSt → SwcSt) : (s.updSwc f).ctl = s.ctl := (rfl)
@[simp] theorem Dev.updSwc_slm (f : SwcSt → SwcSt) : (s.updSwc f).slm = s.slm := (rfl)
@[simp] theorem Dev.updSwc_par (f : SwcSt → SwcSt) : (s.updSwc f).par = s.par := (rfl)
@[simp] theorem Dev.updSwc_can (f : SwcSt → SwcSt) : (s.updSwc f).can = s.can := (rfl)
@[simp] theorem Dev.updSwc_bld (f : SwcSt → SwcSt) : (s.updSwc f).bld = s.bld := (rfl)
@[simp] theorem Dev.updSwc_grp (f : SwcSt → SwcSt) : (s.updSwc f).grp = s.grp := (rfl)
@[simp] theorem Dev.updSwc_pers (f : SwcSt → SwcSt) : (s.updSwc f).pers = s.pers := (rfl)
@[simp] theorem Dev.updSwc_mbx (f : SwcSt → SwcSt) : (s.updSwc f).mbx = s.mbx := (rfl)
@[simp] theorem Dev.updSwc_host (f : SwcSt → SwcSt) : (s.updSwc f).host = s.host := (rfl)
@[simp] theorem Dev.updSwc_tap (f : SwcSt → SwcSt) : (s.updSwc f).tap = s.tap := (rfl)

@[simp] theorem Dev.updSlm_regs (f : SlmSt → SlmSt) : (s.updSlm f).regs = s.regs := (rfl)
@[simp] theorem Dev.updSlm_mem (f : SlmSt → SlmSt) : (s.updSlm f).mem = s.mem := (rfl)
@[simp] theorem Dev.updSlm_hiLatch (f : SlmSt → SlmSt) : (s.updSlm f).hiLatch = s.hiLatch := (rfl)
@[simp] theorem Dev.updSlm_loStage (f : SlmSt → SlmSt) : (s.updSlm f).loStage = s.loStage := (rfl)
@[simp] theorem Dev.updSlm_freeCnt (f : SlmSt → SlmSt) : (s.updSlm f).freeCnt = s.freeCnt := (rfl)
@[simp] theorem Dev.updSlm_rd (f : SlmSt → SlmSt) : (s.updSlm f).rd = s.rd := (rfl)
@[simp] theorem Dev.updSlm_sys (f : SlmSt → SlmSt) : (s.updSlm f).sys = s.sys := (rfl)
@[simp] theorem Dev.updSlm_boot (f : SlmSt → SlmSt) : (s.updSlm f).boot = s.boot := (rfl)
@[simp] theorem Dev.updSlm_vlt (f : SlmSt → SlmSt) : (s.updSlm f).vlt = s.vlt := (rfl)
@[simp] theorem Dev.updSlm_eng (f : SlmSt → SlmSt) : (s.updSlm f).eng = s.eng := (rfl)
@[simp] theorem Dev.updSlm_smf (f : SlmSt → SlmSt) : (s.updSlm f).smf = s.smf := (rfl)
@[simp] theorem Dev.updSlm_grm (f : SlmSt → SlmSt) : (s.updSlm f).grm = s.grm := (rfl)
@[simp] theorem Dev.updSlm_lft (f : SlmSt → SlmSt) : (s.updSlm f).lft = s.lft := (rfl)
@[simp] theorem Dev.updSlm_tmu (f : SlmSt → SlmSt) : (s.updSlm f).tmu = s.tmu := (rfl)
@[simp] theorem Dev.updSlm_mac (f : SlmSt → SlmSt) : (s.updSlm f).mac = s.mac := (rfl)
@[simp] theorem Dev.updSlm_swc (f : SlmSt → SlmSt) : (s.updSlm f).swc = s.swc := (rfl)
@[simp] theorem Dev.updSlm_ctl (f : SlmSt → SlmSt) : (s.updSlm f).ctl = s.ctl := (rfl)
@[simp] theorem Dev.updSlm_slm (f : SlmSt → SlmSt) : (s.updSlm f).slm = f s.slm := (rfl)
@[simp] theorem Dev.updSlm_par (f : SlmSt → SlmSt) : (s.updSlm f).par = s.par := (rfl)
@[simp] theorem Dev.updSlm_can (f : SlmSt → SlmSt) : (s.updSlm f).can = s.can := (rfl)
@[simp] theorem Dev.updSlm_bld (f : SlmSt → SlmSt) : (s.updSlm f).bld = s.bld := (rfl)
@[simp] theorem Dev.updSlm_grp (f : SlmSt → SlmSt) : (s.updSlm f).grp = s.grp := (rfl)
@[simp] theorem Dev.updSlm_pers (f : SlmSt → SlmSt) : (s.updSlm f).pers = s.pers := (rfl)
@[simp] theorem Dev.updSlm_mbx (f : SlmSt → SlmSt) : (s.updSlm f).mbx = s.mbx := (rfl)
@[simp] theorem Dev.updSlm_host (f : SlmSt → SlmSt) : (s.updSlm f).host = s.host := (rfl)
@[simp] theorem Dev.updSlm_tap (f : SlmSt → SlmSt) : (s.updSlm f).tap = s.tap := (rfl)

@[simp] theorem Dev.updTask_regs (t : Nat) (f : TaskSt → TaskSt) : (s.updTask t f).regs = s.regs := (rfl)
@[simp] theorem Dev.updTask_mem (t : Nat) (f : TaskSt → TaskSt) : (s.updTask t f).mem = s.mem := (rfl)
@[simp] theorem Dev.updTask_hiLatch (t : Nat) (f : TaskSt → TaskSt) : (s.updTask t f).hiLatch = s.hiLatch := (rfl)
@[simp] theorem Dev.updTask_loStage (t : Nat) (f : TaskSt → TaskSt) : (s.updTask t f).loStage = s.loStage := (rfl)
@[simp] theorem Dev.updTask_freeCnt (t : Nat) (f : TaskSt → TaskSt) : (s.updTask t f).freeCnt = s.freeCnt := (rfl)
@[simp] theorem Dev.updTask_rd (t : Nat) (f : TaskSt → TaskSt) : (s.updTask t f).rd = s.rd := (rfl)
@[simp] theorem Dev.updTask_sys (t : Nat) (f : TaskSt → TaskSt) : (s.updTask t f).sys = s.sys := (rfl)
@[simp] theorem Dev.updTask_boot (t : Nat) (f : TaskSt → TaskSt) : (s.updTask t f).boot = s.boot := (rfl)
@[simp] theorem Dev.updTask_vlt (t : Nat) (f : TaskSt → TaskSt) : (s.updTask t f).vlt = s.vlt := (rfl)
@[simp] theorem Dev.updTask_eng (t : Nat) (f : TaskSt → TaskSt) : (s.updTask t f).eng = s.eng := (rfl)
@[simp] theorem Dev.updTask_smf (t : Nat) (f : TaskSt → TaskSt) : (s.updTask t f).smf = s.smf := (rfl)
@[simp] theorem Dev.updTask_grm (t : Nat) (f : TaskSt → TaskSt) : (s.updTask t f).grm = s.grm := (rfl)
@[simp] theorem Dev.updTask_lft (t : Nat) (f : TaskSt → TaskSt) : (s.updTask t f).lft = s.lft := (rfl)
@[simp] theorem Dev.updTask_tmu (t : Nat) (f : TaskSt → TaskSt) : (s.updTask t f).tmu = s.tmu := (rfl)
@[simp] theorem Dev.updTask_mac (t : Nat) (f : TaskSt → TaskSt) : (s.updTask t f).mac = s.mac := (rfl)
@[simp] theorem Dev.updTask_swc (t : Nat) (f : TaskSt → TaskSt) : (s.updTask t f).swc = s.swc := (rfl)
@[simp] theorem Dev.updTask_ctl (t : Nat) (f : TaskSt → TaskSt) : (s.updTask t f).ctl = { s.ctl with task := s.ctl.task.upd t f } := (rfl)
@[simp] theorem Dev.updTask_slm (t : Nat) (f : TaskSt → TaskSt) : (s.updTask t f).slm = s.slm := (rfl)
@[simp] theorem Dev.updTask_par (t : Nat) (f : TaskSt → TaskSt) : (s.updTask t f).par = s.par := (rfl)
@[simp] theorem Dev.updTask_can (t : Nat) (f : TaskSt → TaskSt) : (s.updTask t f).can = s.can := (rfl)
@[simp] theorem Dev.updTask_bld (t : Nat) (f : TaskSt → TaskSt) : (s.updTask t f).bld = s.bld := (rfl)
@[simp] theorem Dev.updTask_grp (t : Nat) (f : TaskSt → TaskSt) : (s.updTask t f).grp = s.grp := (rfl)
@[simp] theorem Dev.updTask_pers (t : Nat) (f : TaskSt → TaskSt) : (s.updTask t f).pers = s.pers := (rfl)
@[simp] theorem Dev.updTask_mbx (t : Nat) (f : TaskSt → TaskSt) : (s.updTask t f).mbx = s.mbx := (rfl)
@[simp] theorem Dev.updTask_host (t : Nat) (f : TaskSt → TaskSt) : (s.updTask t f).host = s.host := (rfl)
@[simp] theorem Dev.updTask_tap (t : Nat) (f : TaskSt → TaskSt) : (s.updTask t f).tap = s.tap := (rfl)

@[simp] theorem Dev.updPar_regs (f : ParSt → ParSt) : (s.updPar f).regs = s.regs := (rfl)
@[simp] theorem Dev.updPar_mem (f : ParSt → ParSt) : (s.updPar f).mem = s.mem := (rfl)
@[simp] theorem Dev.updPar_hiLatch (f : ParSt → ParSt) : (s.updPar f).hiLatch = s.hiLatch := (rfl)
@[simp] theorem Dev.updPar_loStage (f : ParSt → ParSt) : (s.updPar f).loStage = s.loStage := (rfl)
@[simp] theorem Dev.updPar_freeCnt (f : ParSt → ParSt) : (s.updPar f).freeCnt = s.freeCnt := (rfl)
@[simp] theorem Dev.updPar_rd (f : ParSt → ParSt) : (s.updPar f).rd = s.rd := (rfl)
@[simp] theorem Dev.updPar_sys (f : ParSt → ParSt) : (s.updPar f).sys = s.sys := (rfl)
@[simp] theorem Dev.updPar_boot (f : ParSt → ParSt) : (s.updPar f).boot = s.boot := (rfl)
@[simp] theorem Dev.updPar_vlt (f : ParSt → ParSt) : (s.updPar f).vlt = s.vlt := (rfl)
@[simp] theorem Dev.updPar_eng (f : ParSt → ParSt) : (s.updPar f).eng = s.eng := (rfl)
@[simp] theorem Dev.updPar_smf (f : ParSt → ParSt) : (s.updPar f).smf = s.smf := (rfl)
@[simp] theorem Dev.updPar_grm (f : ParSt → ParSt) : (s.updPar f).grm = s.grm := (rfl)
@[simp] theorem Dev.updPar_lft (f : ParSt → ParSt) : (s.updPar f).lft = s.lft := (rfl)
@[simp] theorem Dev.updPar_tmu (f : ParSt → ParSt) : (s.updPar f).tmu = s.tmu := (rfl)
@[simp] theorem Dev.updPar_mac (f : ParSt → ParSt) : (s.updPar f).mac = s.mac := (rfl)
@[simp] theorem Dev.updPar_swc (f : ParSt → ParSt) : (s.updPar f).swc = s.swc := (rfl)
@[simp] theorem Dev.updPar_ctl (f : ParSt → ParSt) : (s.updPar f).ctl = s.ctl := (rfl)
@[simp] theorem Dev.updPar_slm (f : ParSt → ParSt) : (s.updPar f).slm = s.slm := (rfl)
@[simp] theorem Dev.updPar_par (f : ParSt → ParSt) : (s.updPar f).par = f s.par := (rfl)
@[simp] theorem Dev.updPar_can (f : ParSt → ParSt) : (s.updPar f).can = s.can := (rfl)
@[simp] theorem Dev.updPar_bld (f : ParSt → ParSt) : (s.updPar f).bld = s.bld := (rfl)
@[simp] theorem Dev.updPar_grp (f : ParSt → ParSt) : (s.updPar f).grp = s.grp := (rfl)
@[simp] theorem Dev.updPar_pers (f : ParSt → ParSt) : (s.updPar f).pers = s.pers := (rfl)
@[simp] theorem Dev.updPar_mbx (f : ParSt → ParSt) : (s.updPar f).mbx = s.mbx := (rfl)
@[simp] theorem Dev.updPar_host (f : ParSt → ParSt) : (s.updPar f).host = s.host := (rfl)
@[simp] theorem Dev.updPar_tap (f : ParSt → ParSt) : (s.updPar f).tap = s.tap := (rfl)

@[simp] theorem Dev.updCan_regs (n : Nat) (f : CanSt → CanSt) : (s.updCan n f).regs = s.regs := (rfl)
@[simp] theorem Dev.updCan_mem (n : Nat) (f : CanSt → CanSt) : (s.updCan n f).mem = s.mem := (rfl)
@[simp] theorem Dev.updCan_hiLatch (n : Nat) (f : CanSt → CanSt) : (s.updCan n f).hiLatch = s.hiLatch := (rfl)
@[simp] theorem Dev.updCan_loStage (n : Nat) (f : CanSt → CanSt) : (s.updCan n f).loStage = s.loStage := (rfl)
@[simp] theorem Dev.updCan_freeCnt (n : Nat) (f : CanSt → CanSt) : (s.updCan n f).freeCnt = s.freeCnt := (rfl)
@[simp] theorem Dev.updCan_rd (n : Nat) (f : CanSt → CanSt) : (s.updCan n f).rd = s.rd := (rfl)
@[simp] theorem Dev.updCan_sys (n : Nat) (f : CanSt → CanSt) : (s.updCan n f).sys = s.sys := (rfl)
@[simp] theorem Dev.updCan_boot (n : Nat) (f : CanSt → CanSt) : (s.updCan n f).boot = s.boot := (rfl)
@[simp] theorem Dev.updCan_vlt (n : Nat) (f : CanSt → CanSt) : (s.updCan n f).vlt = s.vlt := (rfl)
@[simp] theorem Dev.updCan_eng (n : Nat) (f : CanSt → CanSt) : (s.updCan n f).eng = s.eng := (rfl)
@[simp] theorem Dev.updCan_smf (n : Nat) (f : CanSt → CanSt) : (s.updCan n f).smf = s.smf := (rfl)
@[simp] theorem Dev.updCan_grm (n : Nat) (f : CanSt → CanSt) : (s.updCan n f).grm = s.grm := (rfl)
@[simp] theorem Dev.updCan_lft (n : Nat) (f : CanSt → CanSt) : (s.updCan n f).lft = s.lft := (rfl)
@[simp] theorem Dev.updCan_tmu (n : Nat) (f : CanSt → CanSt) : (s.updCan n f).tmu = s.tmu := (rfl)
@[simp] theorem Dev.updCan_mac (n : Nat) (f : CanSt → CanSt) : (s.updCan n f).mac = s.mac := (rfl)
@[simp] theorem Dev.updCan_swc (n : Nat) (f : CanSt → CanSt) : (s.updCan n f).swc = s.swc := (rfl)
@[simp] theorem Dev.updCan_ctl (n : Nat) (f : CanSt → CanSt) : (s.updCan n f).ctl = s.ctl := (rfl)
@[simp] theorem Dev.updCan_slm (n : Nat) (f : CanSt → CanSt) : (s.updCan n f).slm = s.slm := (rfl)
@[simp] theorem Dev.updCan_par (n : Nat) (f : CanSt → CanSt) : (s.updCan n f).par = s.par := (rfl)
@[simp] theorem Dev.updCan_can (n : Nat) (f : CanSt → CanSt) : (s.updCan n f).can = s.can.upd n f := (rfl)
@[simp] theorem Dev.updCan_bld (n : Nat) (f : CanSt → CanSt) : (s.updCan n f).bld = s.bld := (rfl)
@[simp] theorem Dev.updCan_grp (n : Nat) (f : CanSt → CanSt) : (s.updCan n f).grp = s.grp := (rfl)
@[simp] theorem Dev.updCan_pers (n : Nat) (f : CanSt → CanSt) : (s.updCan n f).pers = s.pers := (rfl)
@[simp] theorem Dev.updCan_mbx (n : Nat) (f : CanSt → CanSt) : (s.updCan n f).mbx = s.mbx := (rfl)
@[simp] theorem Dev.updCan_host (n : Nat) (f : CanSt → CanSt) : (s.updCan n f).host = s.host := (rfl)
@[simp] theorem Dev.updCan_tap (n : Nat) (f : CanSt → CanSt) : (s.updCan n f).tap = s.tap := (rfl)

@[simp] theorem Dev.updBld_regs (g b : Nat) (f : BldSt → BldSt) : (s.updBld g b f).regs = s.regs := (rfl)
@[simp] theorem Dev.updBld_mem (g b : Nat) (f : BldSt → BldSt) : (s.updBld g b f).mem = s.mem := (rfl)
@[simp] theorem Dev.updBld_hiLatch (g b : Nat) (f : BldSt → BldSt) : (s.updBld g b f).hiLatch = s.hiLatch := (rfl)
@[simp] theorem Dev.updBld_loStage (g b : Nat) (f : BldSt → BldSt) : (s.updBld g b f).loStage = s.loStage := (rfl)
@[simp] theorem Dev.updBld_freeCnt (g b : Nat) (f : BldSt → BldSt) : (s.updBld g b f).freeCnt = s.freeCnt := (rfl)
@[simp] theorem Dev.updBld_rd (g b : Nat) (f : BldSt → BldSt) : (s.updBld g b f).rd = s.rd := (rfl)
@[simp] theorem Dev.updBld_sys (g b : Nat) (f : BldSt → BldSt) : (s.updBld g b f).sys = s.sys := (rfl)
@[simp] theorem Dev.updBld_boot (g b : Nat) (f : BldSt → BldSt) : (s.updBld g b f).boot = s.boot := (rfl)
@[simp] theorem Dev.updBld_vlt (g b : Nat) (f : BldSt → BldSt) : (s.updBld g b f).vlt = s.vlt := (rfl)
@[simp] theorem Dev.updBld_eng (g b : Nat) (f : BldSt → BldSt) : (s.updBld g b f).eng = s.eng := (rfl)
@[simp] theorem Dev.updBld_smf (g b : Nat) (f : BldSt → BldSt) : (s.updBld g b f).smf = s.smf := (rfl)
@[simp] theorem Dev.updBld_grm (g b : Nat) (f : BldSt → BldSt) : (s.updBld g b f).grm = s.grm := (rfl)
@[simp] theorem Dev.updBld_lft (g b : Nat) (f : BldSt → BldSt) : (s.updBld g b f).lft = s.lft := (rfl)
@[simp] theorem Dev.updBld_tmu (g b : Nat) (f : BldSt → BldSt) : (s.updBld g b f).tmu = s.tmu := (rfl)
@[simp] theorem Dev.updBld_mac (g b : Nat) (f : BldSt → BldSt) : (s.updBld g b f).mac = s.mac := (rfl)
@[simp] theorem Dev.updBld_swc (g b : Nat) (f : BldSt → BldSt) : (s.updBld g b f).swc = s.swc := (rfl)
@[simp] theorem Dev.updBld_ctl (g b : Nat) (f : BldSt → BldSt) : (s.updBld g b f).ctl = s.ctl := (rfl)
@[simp] theorem Dev.updBld_slm (g b : Nat) (f : BldSt → BldSt) : (s.updBld g b f).slm = s.slm := (rfl)
@[simp] theorem Dev.updBld_par (g b : Nat) (f : BldSt → BldSt) : (s.updBld g b f).par = s.par := (rfl)
@[simp] theorem Dev.updBld_can (g b : Nat) (f : BldSt → BldSt) : (s.updBld g b f).can = s.can := (rfl)
@[simp] theorem Dev.updBld_bld (g b : Nat) (f : BldSt → BldSt) : (s.updBld g b f).bld = s.bld.upd (g * 4 + b) f := (rfl)
@[simp] theorem Dev.updBld_grp (g b : Nat) (f : BldSt → BldSt) : (s.updBld g b f).grp = s.grp := (rfl)
@[simp] theorem Dev.updBld_pers (g b : Nat) (f : BldSt → BldSt) : (s.updBld g b f).pers = s.pers := (rfl)
@[simp] theorem Dev.updBld_mbx (g b : Nat) (f : BldSt → BldSt) : (s.updBld g b f).mbx = s.mbx := (rfl)
@[simp] theorem Dev.updBld_host (g b : Nat) (f : BldSt → BldSt) : (s.updBld g b f).host = s.host := (rfl)
@[simp] theorem Dev.updBld_tap (g b : Nat) (f : BldSt → BldSt) : (s.updBld g b f).tap = s.tap := (rfl)

@[simp] theorem Dev.updGrp_regs (g : Nat) (f : BldGrp → BldGrp) : (s.updGrp g f).regs = s.regs := (rfl)
@[simp] theorem Dev.updGrp_mem (g : Nat) (f : BldGrp → BldGrp) : (s.updGrp g f).mem = s.mem := (rfl)
@[simp] theorem Dev.updGrp_hiLatch (g : Nat) (f : BldGrp → BldGrp) : (s.updGrp g f).hiLatch = s.hiLatch := (rfl)
@[simp] theorem Dev.updGrp_loStage (g : Nat) (f : BldGrp → BldGrp) : (s.updGrp g f).loStage = s.loStage := (rfl)
@[simp] theorem Dev.updGrp_freeCnt (g : Nat) (f : BldGrp → BldGrp) : (s.updGrp g f).freeCnt = s.freeCnt := (rfl)
@[simp] theorem Dev.updGrp_rd (g : Nat) (f : BldGrp → BldGrp) : (s.updGrp g f).rd = s.rd := (rfl)
@[simp] theorem Dev.updGrp_sys (g : Nat) (f : BldGrp → BldGrp) : (s.updGrp g f).sys = s.sys := (rfl)
@[simp] theorem Dev.updGrp_boot (g : Nat) (f : BldGrp → BldGrp) : (s.updGrp g f).boot = s.boot := (rfl)
@[simp] theorem Dev.updGrp_vlt (g : Nat) (f : BldGrp → BldGrp) : (s.updGrp g f).vlt = s.vlt := (rfl)
@[simp] theorem Dev.updGrp_eng (g : Nat) (f : BldGrp → BldGrp) : (s.updGrp g f).eng = s.eng := (rfl)
@[simp] theorem Dev.updGrp_smf (g : Nat) (f : BldGrp → BldGrp) : (s.updGrp g f).smf = s.smf := (rfl)
@[simp] theorem Dev.updGrp_grm (g : Nat) (f : BldGrp → BldGrp) : (s.updGrp g f).grm = s.grm := (rfl)
@[simp] theorem Dev.updGrp_lft (g : Nat) (f : BldGrp → BldGrp) : (s.updGrp g f).lft = s.lft := (rfl)
@[simp] theorem Dev.updGrp_tmu (g : Nat) (f : BldGrp → BldGrp) : (s.updGrp g f).tmu = s.tmu := (rfl)
@[simp] theorem Dev.updGrp_mac (g : Nat) (f : BldGrp → BldGrp) : (s.updGrp g f).mac = s.mac := (rfl)
@[simp] theorem Dev.updGrp_swc (g : Nat) (f : BldGrp → BldGrp) : (s.updGrp g f).swc = s.swc := (rfl)
@[simp] theorem Dev.updGrp_ctl (g : Nat) (f : BldGrp → BldGrp) : (s.updGrp g f).ctl = s.ctl := (rfl)
@[simp] theorem Dev.updGrp_slm (g : Nat) (f : BldGrp → BldGrp) : (s.updGrp g f).slm = s.slm := (rfl)
@[simp] theorem Dev.updGrp_par (g : Nat) (f : BldGrp → BldGrp) : (s.updGrp g f).par = s.par := (rfl)
@[simp] theorem Dev.updGrp_can (g : Nat) (f : BldGrp → BldGrp) : (s.updGrp g f).can = s.can := (rfl)
@[simp] theorem Dev.updGrp_bld (g : Nat) (f : BldGrp → BldGrp) : (s.updGrp g f).bld = s.bld := (rfl)
@[simp] theorem Dev.updGrp_grp (g : Nat) (f : BldGrp → BldGrp) : (s.updGrp g f).grp = s.grp.upd g f := (rfl)
@[simp] theorem Dev.updGrp_pers (g : Nat) (f : BldGrp → BldGrp) : (s.updGrp g f).pers = s.pers := (rfl)
@[simp] theorem Dev.updGrp_mbx (g : Nat) (f : BldGrp → BldGrp) : (s.updGrp g f).mbx = s.mbx := (rfl)
@[simp] theorem Dev.updGrp_host (g : Nat) (f : BldGrp → BldGrp) : (s.updGrp g f).host = s.host := (rfl)
@[simp] theorem Dev.updGrp_tap (g : Nat) (f : BldGrp → BldGrp) : (s.updGrp g f).tap = s.tap := (rfl)

@[simp] theorem Dev.updPers_regs (f : PersSt → PersSt) : (s.updPers f).regs = s.regs := (rfl)
@[simp] theorem Dev.updPers_mem (f : PersSt → PersSt) : (s.updPers f).mem = s.mem := (rfl)
@[simp] theorem Dev.updPers_hiLatch (f : PersSt → PersSt) : (s.updPers f).hiLatch = s.hiLatch := (rfl)
@[simp] theorem Dev.updPers_loStage (f : PersSt → PersSt) : (s.updPers f).loStage = s.loStage := (rfl)
@[simp] theorem Dev.updPers_freeCnt (f : PersSt → PersSt) : (s.updPers f).freeCnt = s.freeCnt := (rfl)
@[simp] theorem Dev.updPers_rd (f : PersSt → PersSt) : (s.updPers f).rd = s.rd := (rfl)
@[simp] theorem Dev.updPers_sys (f : PersSt → PersSt) : (s.updPers f).sys = s.sys := (rfl)
@[simp] theorem Dev.updPers_boot (f : PersSt → PersSt) : (s.updPers f).boot = s.boot := (rfl)
@[simp] theorem Dev.updPers_vlt (f : PersSt → PersSt) : (s.updPers f).vlt = s.vlt := (rfl)
@[simp] theorem Dev.updPers_eng (f : PersSt → PersSt) : (s.updPers f).eng = s.eng := (rfl)
@[simp] theorem Dev.updPers_smf (f : PersSt → PersSt) : (s.updPers f).smf = s.smf := (rfl)
@[simp] theorem Dev.updPers_grm (f : PersSt → PersSt) : (s.updPers f).grm = s.grm := (rfl)
@[simp] theorem Dev.updPers_lft (f : PersSt → PersSt) : (s.updPers f).lft = s.lft := (rfl)
@[simp] theorem Dev.updPers_tmu (f : PersSt → PersSt) : (s.updPers f).tmu = s.tmu := (rfl)
@[simp] theorem Dev.updPers_mac (f : PersSt → PersSt) : (s.updPers f).mac = s.mac := (rfl)
@[simp] theorem Dev.updPers_swc (f : PersSt → PersSt) : (s.updPers f).swc = s.swc := (rfl)
@[simp] theorem Dev.updPers_ctl (f : PersSt → PersSt) : (s.updPers f).ctl = s.ctl := (rfl)
@[simp] theorem Dev.updPers_slm (f : PersSt → PersSt) : (s.updPers f).slm = s.slm := (rfl)
@[simp] theorem Dev.updPers_par (f : PersSt → PersSt) : (s.updPers f).par = s.par := (rfl)
@[simp] theorem Dev.updPers_can (f : PersSt → PersSt) : (s.updPers f).can = s.can := (rfl)
@[simp] theorem Dev.updPers_bld (f : PersSt → PersSt) : (s.updPers f).bld = s.bld := (rfl)
@[simp] theorem Dev.updPers_grp (f : PersSt → PersSt) : (s.updPers f).grp = s.grp := (rfl)
@[simp] theorem Dev.updPers_pers (f : PersSt → PersSt) : (s.updPers f).pers = f s.pers := (rfl)
@[simp] theorem Dev.updPers_mbx (f : PersSt → PersSt) : (s.updPers f).mbx = s.mbx := (rfl)
@[simp] theorem Dev.updPers_host (f : PersSt → PersSt) : (s.updPers f).host = s.host := (rfl)
@[simp] theorem Dev.updPers_tap (f : PersSt → PersSt) : (s.updPers f).tap = s.tap := (rfl)

@[simp] theorem Dev.updTap_regs (f : TapSt → TapSt) : (s.updTap f).regs = s.regs := (rfl)
@[simp] theorem Dev.updTap_mem (f : TapSt → TapSt) : (s.updTap f).mem = s.mem := (rfl)
@[simp] theorem Dev.updTap_hiLatch (f : TapSt → TapSt) : (s.updTap f).hiLatch = s.hiLatch := (rfl)
@[simp] theorem Dev.updTap_loStage (f : TapSt → TapSt) : (s.updTap f).loStage = s.loStage := (rfl)
@[simp] theorem Dev.updTap_freeCnt (f : TapSt → TapSt) : (s.updTap f).freeCnt = s.freeCnt := (rfl)
@[simp] theorem Dev.updTap_rd (f : TapSt → TapSt) : (s.updTap f).rd = s.rd := (rfl)
@[simp] theorem Dev.updTap_sys (f : TapSt → TapSt) : (s.updTap f).sys = s.sys := (rfl)
@[simp] theorem Dev.updTap_boot (f : TapSt → TapSt) : (s.updTap f).boot = s.boot := (rfl)
@[simp] theorem Dev.updTap_vlt (f : TapSt → TapSt) : (s.updTap f).vlt = s.vlt := (rfl)
@[simp] theorem Dev.updTap_eng (f : TapSt → TapSt) : (s.updTap f).eng = s.eng := (rfl)
@[simp] theorem Dev.updTap_smf (f : TapSt → TapSt) : (s.updTap f).smf = s.smf := (rfl)
@[simp] theorem Dev.updTap_grm (f : TapSt → TapSt) : (s.updTap f).grm = s.grm := (rfl)
@[simp] theorem Dev.updTap_lft (f : TapSt → TapSt) : (s.updTap f).lft = s.lft := (rfl)
@[simp] theorem Dev.updTap_tmu (f : TapSt → TapSt) : (s.updTap f).tmu = s.tmu := (rfl)
@[simp] theorem Dev.updTap_mac (f : TapSt → TapSt) : (s.updTap f).mac = s.mac := (rfl)
@[simp] theorem Dev.updTap_swc (f : TapSt → TapSt) : (s.updTap f).swc = s.swc := (rfl)
@[simp] theorem Dev.updTap_ctl (f : TapSt → TapSt) : (s.updTap f).ctl = s.ctl := (rfl)
@[simp] theorem Dev.updTap_slm (f : TapSt → TapSt) : (s.updTap f).slm = s.slm := (rfl)
@[simp] theorem Dev.updTap_par (f : TapSt → TapSt) : (s.updTap f).par = s.par := (rfl)
@[simp] theorem Dev.updTap_can (f : TapSt → TapSt) : (s.updTap f).can = s.can := (rfl)
@[simp] theorem Dev.updTap_bld (f : TapSt → TapSt) : (s.updTap f).bld = s.bld := (rfl)
@[simp] theorem Dev.updTap_grp (f : TapSt → TapSt) : (s.updTap f).grp = s.grp := (rfl)
@[simp] theorem Dev.updTap_pers (f : TapSt → TapSt) : (s.updTap f).pers = s.pers := (rfl)
@[simp] theorem Dev.updTap_mbx (f : TapSt → TapSt) : (s.updTap f).mbx = s.mbx := (rfl)
@[simp] theorem Dev.updTap_host (f : TapSt → TapSt) : (s.updTap f).host = s.host := (rfl)
@[simp] theorem Dev.updTap_tap (f : TapSt → TapSt) : (s.updTap f).tap = f s.tap := (rfl)

@[simp] theorem Dev.updOut_regs (n : Nat) (f : OutSt → OutSt) : (s.updOut n f).regs = s.regs := (rfl)
@[simp] theorem Dev.updOut_mem (n : Nat) (f : OutSt → OutSt) : (s.updOut n f).mem = s.mem := (rfl)
@[simp] theorem Dev.updOut_hiLatch (n : Nat) (f : OutSt → OutSt) : (s.updOut n f).hiLatch = s.hiLatch := (rfl)
@[simp] theorem Dev.updOut_loStage (n : Nat) (f : OutSt → OutSt) : (s.updOut n f).loStage = s.loStage := (rfl)
@[simp] theorem Dev.updOut_freeCnt (n : Nat) (f : OutSt → OutSt) : (s.updOut n f).freeCnt = s.freeCnt := (rfl)
@[simp] theorem Dev.updOut_rd (n : Nat) (f : OutSt → OutSt) : (s.updOut n f).rd = s.rd := (rfl)
@[simp] theorem Dev.updOut_sys (n : Nat) (f : OutSt → OutSt) : (s.updOut n f).sys = s.sys := (rfl)
@[simp] theorem Dev.updOut_boot (n : Nat) (f : OutSt → OutSt) : (s.updOut n f).boot = s.boot := (rfl)
@[simp] theorem Dev.updOut_vlt (n : Nat) (f : OutSt → OutSt) : (s.updOut n f).vlt = s.vlt := (rfl)
@[simp] theorem Dev.updOut_eng (n : Nat) (f : OutSt → OutSt) : (s.updOut n f).eng = s.eng := (rfl)
@[simp] theorem Dev.updOut_smf (n : Nat) (f : OutSt → OutSt) : (s.updOut n f).smf = s.smf := (rfl)
@[simp] theorem Dev.updOut_grm (n : Nat) (f : OutSt → OutSt) : (s.updOut n f).grm = s.grm := (rfl)
@[simp] theorem Dev.updOut_lft (n : Nat) (f : OutSt → OutSt) : (s.updOut n f).lft = s.lft := (rfl)
@[simp] theorem Dev.updOut_tmu (n : Nat) (f : OutSt → OutSt) : (s.updOut n f).tmu = { s.tmu with outs := s.tmu.outs.upd n f } := (rfl)
@[simp] theorem Dev.updOut_mac (n : Nat) (f : OutSt → OutSt) : (s.updOut n f).mac = s.mac := (rfl)
@[simp] theorem Dev.updOut_swc (n : Nat) (f : OutSt → OutSt) : (s.updOut n f).swc = s.swc := (rfl)
@[simp] theorem Dev.updOut_ctl (n : Nat) (f : OutSt → OutSt) : (s.updOut n f).ctl = s.ctl := (rfl)
@[simp] theorem Dev.updOut_slm (n : Nat) (f : OutSt → OutSt) : (s.updOut n f).slm = s.slm := (rfl)
@[simp] theorem Dev.updOut_par (n : Nat) (f : OutSt → OutSt) : (s.updOut n f).par = s.par := (rfl)
@[simp] theorem Dev.updOut_can (n : Nat) (f : OutSt → OutSt) : (s.updOut n f).can = s.can := (rfl)
@[simp] theorem Dev.updOut_bld (n : Nat) (f : OutSt → OutSt) : (s.updOut n f).bld = s.bld := (rfl)
@[simp] theorem Dev.updOut_grp (n : Nat) (f : OutSt → OutSt) : (s.updOut n f).grp = s.grp := (rfl)
@[simp] theorem Dev.updOut_pers (n : Nat) (f : OutSt → OutSt) : (s.updOut n f).pers = s.pers := (rfl)
@[simp] theorem Dev.updOut_mbx (n : Nat) (f : OutSt → OutSt) : (s.updOut n f).mbx = s.mbx := (rfl)
@[simp] theorem Dev.updOut_host (n : Nat) (f : OutSt → OutSt) : (s.updOut n f).host = s.host := (rfl)
@[simp] theorem Dev.updOut_tap (n : Nat) (f : OutSt → OutSt) : (s.updOut n f).tap = s.tap := (rfl)

/-- Moving the time outputs changes nothing but them. -/
theorem Dev.outMove_frame (n : Nat) (d : Int) : s.outMove n d = { s with tmu := { s.tmu with outs := (s.outMove n d).tmu.outs } } := by
  have key : ∀ (l : List Nat) (s : Dev) (f : Nat → Dev → Dev), (∀ j s, f j s = { s with tmu := { s.tmu with outs := (f j s).tmu.outs } }) →
      s.each l f = { s with tmu := { s.tmu with outs := (s.each l f).tmu.outs } } := by
    intro l
    induction l with
    | nil => exact fun _ _ _ => rfl
    | cons a l ih =>
      intro s f hf
      have h1 : s.each (a :: l) f = (f a s).each l f := rfl
      rw [h1, ih (f a s) f hf, hf a s]
  refine key _ s _ fun j s => ?_
  split <;> rfl

/-- A new count of a time base changes that count and the distances of the time outputs. -/
theorem Dev.setTb_frame (n v : Nat) :
    s.setTb n v = { s with tmu := { s.tmu with tb := s.tmu.tb.set n (v % tbMod), outs := (s.setTb n v).tmu.outs } } := by
  have h := Dev.outMove_frame { s with tmu := { s.tmu with tb := s.tmu.tb.set n (v % tbMod) } } n (tbMoved (s.tbVal n) (v % tbMod))
  exact h

@[simp] theorem Dev.setTb_tb (n v : Nat) : (s.setTb n v).tmu.tb = s.tmu.tb.set n (v % tbMod) := by rw [Dev.setTb_frame]
@[simp] theorem Dev.setTb_regs (n v : Nat) : (s.setTb n v).regs = s.regs := by rw [Dev.setTb_frame]
@[simp] theorem Dev.setTb_mem (n v : Nat) : (s.setTb n v).mem = s.mem := by rw [Dev.setTb_frame]
@[simp] theorem Dev.setTb_hiLatch (n v : Nat) : (s.setTb n v).hiLatch = s.hiLatch := by rw [Dev.setTb_frame]
@[simp] theorem Dev.setTb_loStage (n v : Nat) : (s.setTb n v).loStage = s.loStage := by rw [Dev.setTb_frame]
@[simp] theorem Dev.setTb_freeCnt (n v : Nat) : (s.setTb n v).freeCnt = s.freeCnt := by rw [Dev.setTb_frame]
@[simp] theorem Dev.setTb_rd (n v : Nat) : (s.setTb n v).rd = s.rd := by rw [Dev.setTb_frame]
@[simp] theorem Dev.setTb_sys (n v : Nat) : (s.setTb n v).sys = s.sys := by rw [Dev.setTb_frame]
@[simp] theorem Dev.setTb_boot (n v : Nat) : (s.setTb n v).boot = s.boot := by rw [Dev.setTb_frame]
@[simp] theorem Dev.setTb_vlt (n v : Nat) : (s.setTb n v).vlt = s.vlt := by rw [Dev.setTb_frame]
@[simp] theorem Dev.setTb_eng (n v : Nat) : (s.setTb n v).eng = s.eng := by rw [Dev.setTb_frame]
@[simp] theorem Dev.setTb_smf (n v : Nat) : (s.setTb n v).smf = s.smf := by rw [Dev.setTb_frame]
@[simp] theorem Dev.setTb_grm (n v : Nat) : (s.setTb n v).grm = s.grm := by rw [Dev.setTb_frame]
@[simp] theorem Dev.setTb_lft (n v : Nat) : (s.setTb n v).lft = s.lft := by rw [Dev.setTb_frame]
@[simp] theorem Dev.setTb_mac (n v : Nat) : (s.setTb n v).mac = s.mac := by rw [Dev.setTb_frame]
@[simp] theorem Dev.setTb_swc (n v : Nat) : (s.setTb n v).swc = s.swc := by rw [Dev.setTb_frame]
@[simp] theorem Dev.setTb_ctl (n v : Nat) : (s.setTb n v).ctl = s.ctl := by rw [Dev.setTb_frame]
@[simp] theorem Dev.setTb_slm (n v : Nat) : (s.setTb n v).slm = s.slm := by rw [Dev.setTb_frame]
@[simp] theorem Dev.setTb_par (n v : Nat) : (s.setTb n v).par = s.par := by rw [Dev.setTb_frame]
@[simp] theorem Dev.setTb_can (n v : Nat) : (s.setTb n v).can = s.can := by rw [Dev.setTb_frame]
@[simp] theorem Dev.setTb_bld (n v : Nat) : (s.setTb n v).bld = s.bld := by rw [Dev.setTb_frame]
@[simp] theorem Dev.setTb_grp (n v : Nat) : (s.setTb n v).grp = s.grp := by rw [Dev.setTb_frame]
@[simp] theorem Dev.setTb_pers (n v : Nat) : (s.setTb n v).pers = s.pers := by rw [Dev.setTb_frame]
@[simp] theorem Dev.setTb_mbx (n v : Nat) : (s.setTb n v).mbx = s.mbx := by rw [Dev.setTb_frame]
@[simp] theorem Dev.setTb_host (n v : Nat) : (s.setTb n v).host = s.host := by rw [Dev.setTb_frame]
@[simp] theorem Dev.setTb_tap (n v : Nat) : (s.setTb n v).tap = s.tap := by rw [Dev.setTb_frame]

@[simp] theorem Dev.updFrame_regs (cell : Nat) (f : FrameSt → FrameSt) : (s.updFrame cell f).regs = s.regs := (rfl)
@[simp] theorem Dev.updFrame_mem (cell : Nat) (f : FrameSt → FrameSt) : (s.updFrame cell f).mem = s.mem := (rfl)
@[simp] theorem Dev.updFrame_hiLatch (cell : Nat) (f : FrameSt → FrameSt) : (s.updFrame cell f).hiLatch = s.hiLatch := (rfl)
@[simp] theorem Dev.updFrame_loStage (cell : Nat) (f : FrameSt → FrameSt) : (s.updFrame cell f).loStage = s.loStage := (rfl)
@[simp] theorem Dev.updFrame_freeCnt (cell : Nat) (f : FrameSt → FrameSt) : (s.updFrame cell f).freeCnt = s.freeCnt := (rfl)
@[simp] theorem Dev.updFrame_rd (cell : Nat) (f : FrameSt → FrameSt) : (s.updFrame cell f).rd = s.rd := (rfl)
@[simp] theorem Dev.updFrame_sys (cell : Nat) (f : FrameSt → FrameSt) : (s.updFrame cell f).sys = s.sys := (rfl)
@[simp] theorem Dev.updFrame_boot (cell : Nat) (f : FrameSt → FrameSt) : (s.updFrame cell f).boot = s.boot := (rfl)
@[simp] theorem Dev.updFrame_vlt (cell : Nat) (f : FrameSt → FrameSt) : (s.updFrame cell f).vlt = s.vlt := (rfl)
@[simp] theorem Dev.updFrame_eng (cell : Nat) (f : FrameSt → FrameSt) : (s.updFrame cell f).eng = s.eng := (rfl)
@[simp] theorem Dev.updFrame_smf (cell : Nat) (f : FrameSt → FrameSt) : (s.updFrame cell f).smf = s.smf := (rfl)
@[simp] theorem Dev.updFrame_grm (cell : Nat) (f : FrameSt → FrameSt) : (s.updFrame cell f).grm = s.grm := (rfl)
@[simp] theorem Dev.updFrame_lft (cell : Nat) (f : FrameSt → FrameSt) : (s.updFrame cell f).lft = s.lft := (rfl)
@[simp] theorem Dev.updFrame_tmu (cell : Nat) (f : FrameSt → FrameSt) : (s.updFrame cell f).tmu = s.tmu := (rfl)
@[simp] theorem Dev.updFrame_mac (cell : Nat) (f : FrameSt → FrameSt) : (s.updFrame cell f).mac = s.mac := (rfl)
@[simp] theorem Dev.updFrame_swc (cell : Nat) (f : FrameSt → FrameSt) : (s.updFrame cell f).swc = { s.swc with frames := s.swc.frames.upd cell f } := (rfl)
@[simp] theorem Dev.updFrame_ctl (cell : Nat) (f : FrameSt → FrameSt) : (s.updFrame cell f).ctl = s.ctl := (rfl)
@[simp] theorem Dev.updFrame_slm (cell : Nat) (f : FrameSt → FrameSt) : (s.updFrame cell f).slm = s.slm := (rfl)
@[simp] theorem Dev.updFrame_par (cell : Nat) (f : FrameSt → FrameSt) : (s.updFrame cell f).par = s.par := (rfl)
@[simp] theorem Dev.updFrame_can (cell : Nat) (f : FrameSt → FrameSt) : (s.updFrame cell f).can = s.can := (rfl)
@[simp] theorem Dev.updFrame_bld (cell : Nat) (f : FrameSt → FrameSt) : (s.updFrame cell f).bld = s.bld := (rfl)
@[simp] theorem Dev.updFrame_grp (cell : Nat) (f : FrameSt → FrameSt) : (s.updFrame cell f).grp = s.grp := (rfl)
@[simp] theorem Dev.updFrame_pers (cell : Nat) (f : FrameSt → FrameSt) : (s.updFrame cell f).pers = s.pers := (rfl)
@[simp] theorem Dev.updFrame_mbx (cell : Nat) (f : FrameSt → FrameSt) : (s.updFrame cell f).mbx = s.mbx := (rfl)
@[simp] theorem Dev.updFrame_host (cell : Nat) (f : FrameSt → FrameSt) : (s.updFrame cell f).host = s.host := (rfl)
@[simp] theorem Dev.updFrame_tap (cell : Nat) (f : FrameSt → FrameSt) : (s.updFrame cell f).tap = s.tap := (rfl)

@[simp] theorem Dev.updHeld_regs (p cell : Nat) (f : Held → Held) : (s.updHeld p cell f).regs = s.regs := (rfl)
@[simp] theorem Dev.updHeld_mem (p cell : Nat) (f : Held → Held) : (s.updHeld p cell f).mem = s.mem := (rfl)
@[simp] theorem Dev.updHeld_hiLatch (p cell : Nat) (f : Held → Held) : (s.updHeld p cell f).hiLatch = s.hiLatch := (rfl)
@[simp] theorem Dev.updHeld_loStage (p cell : Nat) (f : Held → Held) : (s.updHeld p cell f).loStage = s.loStage := (rfl)
@[simp] theorem Dev.updHeld_freeCnt (p cell : Nat) (f : Held → Held) : (s.updHeld p cell f).freeCnt = s.freeCnt := (rfl)
@[simp] theorem Dev.updHeld_rd (p cell : Nat) (f : Held → Held) : (s.updHeld p cell f).rd = s.rd := (rfl)
@[simp] theorem Dev.updHeld_sys (p cell : Nat) (f : Held → Held) : (s.updHeld p cell f).sys = s.sys := (rfl)
@[simp] theorem Dev.updHeld_boot (p cell : Nat) (f : Held → Held) : (s.updHeld p cell f).boot = s.boot := (rfl)
@[simp] theorem Dev.updHeld_vlt (p cell : Nat) (f : Held → Held) : (s.updHeld p cell f).vlt = s.vlt := (rfl)
@[simp] theorem Dev.updHeld_eng (p cell : Nat) (f : Held → Held) : (s.updHeld p cell f).eng = s.eng := (rfl)
@[simp] theorem Dev.updHeld_smf (p cell : Nat) (f : Held → Held) : (s.updHeld p cell f).smf = s.smf := (rfl)
@[simp] theorem Dev.updHeld_grm (p cell : Nat) (f : Held → Held) : (s.updHeld p cell f).grm = s.grm := (rfl)
@[simp] theorem Dev.updHeld_lft (p cell : Nat) (f : Held → Held) : (s.updHeld p cell f).lft = s.lft := (rfl)
@[simp] theorem Dev.updHeld_tmu (p cell : Nat) (f : Held → Held) : (s.updHeld p cell f).tmu = s.tmu := (rfl)
@[simp] theorem Dev.updHeld_mac (p cell : Nat) (f : Held → Held) : (s.updHeld p cell f).mac = s.mac := (rfl)
@[simp] theorem Dev.updHeld_swc (p cell : Nat) (f : Held → Held) : (s.updHeld p cell f).swc = { s.swc with held := s.swc.held.upd p (List.map fun h => if h.cell == cell then f h else h) } := (rfl)
@[simp] theorem Dev.updHeld_ctl (p cell : Nat) (f : Held → Held) : (s.updHeld p cell f).ctl = s.ctl := (rfl)
@[simp] theorem Dev.updHeld_slm (p cell : Nat) (f : Held → Held) : (s.updHeld p cell f).slm = s.slm := (rfl)
@[simp] theorem Dev.updHeld_par (p cell : Nat) (f : Held → Held) : (s.updHeld p cell f).par = s.par := (rfl)
@[simp] theorem Dev.updHeld_can (p cell : Nat) (f : Held → Held) : (s.updHeld p cell f).can = s.can := (rfl)
@[simp] theorem Dev.updHeld_bld (p cell : Nat) (f : Held → Held) : (s.updHeld p cell f).bld = s.bld := (rfl)
@[simp] theorem Dev.updHeld_grp (p cell : Nat) (f : Held → Held) : (s.updHeld p cell f).grp = s.grp := (rfl)
@[simp] theorem Dev.updHeld_pers (p cell : Nat) (f : Held → Held) : (s.updHeld p cell f).pers = s.pers := (rfl)
@[simp] theorem Dev.updHeld_mbx (p cell : Nat) (f : Held → Held) : (s.updHeld p cell f).mbx = s.mbx := (rfl)
@[simp] theorem Dev.updHeld_host (p cell : Nat) (f : Held → Held) : (s.updHeld p cell f).host = s.host := (rfl)
@[simp] theorem Dev.updHeld_tap (p cell : Nat) (f : Held → Held) : (s.updHeld p cell f).tap = s.tap := (rfl)

@[simp] theorem Dev.updPartner_regs (i : Nat) (f : Partner → Partner) : (s.updPartner i f).regs = s.regs := (rfl)
@[simp] theorem Dev.updPartner_mem (i : Nat) (f : Partner → Partner) : (s.updPartner i f).mem = s.mem := (rfl)
@[simp] theorem Dev.updPartner_hiLatch (i : Nat) (f : Partner → Partner) : (s.updPartner i f).hiLatch = s.hiLatch := (rfl)
@[simp] theorem Dev.updPartner_loStage (i : Nat) (f : Partner → Partner) : (s.updPartner i f).loStage = s.loStage := (rfl)
@[simp] theorem Dev.updPartner_freeCnt (i : Nat) (f : Partner → Partner) : (s.updPartner i f).freeCnt = s.freeCnt := (rfl)
@[simp] theorem Dev.updPartner_rd (i : Nat) (f : Partner → Partner) : (s.updPartner i f).rd = s.rd := (rfl)
@[simp] theorem Dev.updPartner_sys (i : Nat) (f : Partner → Partner) : (s.updPartner i f).sys = s.sys := (rfl)
@[simp] theorem Dev.updPartner_boot (i : Nat) (f : Partner → Partner) : (s.updPartner i f).boot = s.boot := (rfl)
@[simp] theorem Dev.updPartner_vlt (i : Nat) (f : Partner → Partner) : (s.updPartner i f).vlt = s.vlt := (rfl)
@[simp] theorem Dev.updPartner_eng (i : Nat) (f : Partner → Partner) : (s.updPartner i f).eng = s.eng := (rfl)
@[simp] theorem Dev.updPartner_smf (i : Nat) (f : Partner → Partner) : (s.updPartner i f).smf = s.smf := (rfl)
@[simp] theorem Dev.updPartner_grm (i : Nat) (f : Partner → Partner) : (s.updPartner i f).grm = s.grm := (rfl)
@[simp] theorem Dev.updPartner_lft (i : Nat) (f : Partner → Partner) : (s.updPartner i f).lft = s.lft := (rfl)
@[simp] theorem Dev.updPartner_tmu (i : Nat) (f : Partner → Partner) : (s.updPartner i f).tmu = s.tmu := (rfl)
@[simp] theorem Dev.updPartner_mac (i : Nat) (f : Partner → Partner) : (s.updPartner i f).mac = s.mac := (rfl)
@[simp] theorem Dev.updPartner_swc (i : Nat) (f : Partner → Partner) : (s.updPartner i f).swc = s.swc := (rfl)
@[simp] theorem Dev.updPartner_ctl (i : Nat) (f : Partner → Partner) : (s.updPartner i f).ctl = s.ctl := (rfl)
@[simp] theorem Dev.updPartner_slm (i : Nat) (f : Partner → Partner) : (s.updPartner i f).slm = s.slm := (rfl)
@[simp] theorem Dev.updPartner_par (i : Nat) (f : Partner → Partner) : (s.updPartner i f).par = s.par := (rfl)
@[simp] theorem Dev.updPartner_can (i : Nat) (f : Partner → Partner) : (s.updPartner i f).can = s.can := (rfl)
@[simp] theorem Dev.updPartner_bld (i : Nat) (f : Partner → Partner) : (s.updPartner i f).bld = s.bld := (rfl)
@[simp] theorem Dev.updPartner_grp (i : Nat) (f : Partner → Partner) : (s.updPartner i f).grp = s.grp := (rfl)
@[simp] theorem Dev.updPartner_pers (i : Nat) (f : Partner → Partner) : (s.updPartner i f).pers = { s.pers with partners := s.pers.partners.upd i f } := (rfl)
@[simp] theorem Dev.updPartner_mbx (i : Nat) (f : Partner → Partner) : (s.updPartner i f).mbx = s.mbx := (rfl)
@[simp] theorem Dev.updPartner_host (i : Nat) (f : Partner → Partner) : (s.updPartner i f).host = s.host := (rfl)
@[simp] theorem Dev.updPartner_tap (i : Nat) (f : Partner → Partner) : (s.updPartner i f).tap = s.tap := (rfl)

end Sys2Proof.Machine
end

