-- ==== Sys2Proof/Laws/Regs.lean ====
section
/-! SUPPORT. The laws of the register file: a read after a write, and that every write keeps the canonical form. -/

namespace Sys2Proof.Machine

variable (s : Dev)

/-! ### Words -/

theorem Dev.regWord_setRegWord (off o : Nat) (v : Word) :
    (s.setRegWord off v).regWord o = if o = off then v else s.regWord o := by
  simp [Dev.regWord, Sparse.get_set]

@[simp] theorem Dev.regWord_setRegWord_same (off : Nat) (v : Word) : (s.setRegWord off v).regWord off = v := by
  simp [Dev.regWord_setRegWord]

theorem Dev.regWord_setRegWord_other {off o : Nat} (h : o ≠ off) (v : Word) : (s.setRegWord off v).regWord o = s.regWord o := by
  simp [Dev.regWord_setRegWord, h]

/-- A change that leaves the register file leaves every register. -/
theorem Dev.regWord_congr {s t : Dev} (h : s.regs = t.regs) (o : Nat) : s.regWord o = t.regWord o := by
  simp [Dev.regWord, h]

theorem Dev.reg_congr {s t : Dev} (h : s.regs = t.regs) (r : Reg) (i j k : Nat) : s.reg r i j k = t.reg r i j k := by
  simp [Dev.reg, Dev.regWord_congr h]

theorem Dev.fld_congr {s t : Dev} (h : s.regs = t.regs) (f : Fld) (i j k : Nat) : s.fld f i j k = t.fld f i j k := by
  simp [Dev.fld, Dev.reg_congr h]

theorem Dev.flag_congr {s t : Dev} (h : s.regs = t.regs) (f : Fld) (i j k : Nat) : s.flag f i j k = t.flag f i j k := by
  simp [Dev.flag, Dev.fld_congr h]

/-! ### Registers -/

theorem Dev.reg_lt (r : Reg) (i j k : Nat) : s.reg r i j k < 2 ^ 32 := (s.regWord (r.addr i j k)).isLt

/-- A register reads the low 32 bits of what was written to it. -/
@[simp] theorem Dev.reg_setReg_same (r : Reg) (v i j k : Nat) : (s.setReg r v i j k).reg r i j k = v % 2 ^ 32 := by
  simp [Dev.reg, Dev.setReg]

/-- A write of one register copy leaves a copy at another address. -/
theorem Dev.reg_setReg_other {r q : Reg} {i j k a b c : Nat} (h : q.addr a b c ≠ r.addr i j k) (v : Nat) :
    (s.setReg r v i j k).reg q a b c = s.reg q a b c := by
  simp [Dev.reg, Dev.setReg, Dev.regWord_setRegWord, h]

theorem Dev.fld_setReg_other {r : Reg} {f : Fld} {i j k a b c : Nat} (h : f.reg.addr a b c ≠ r.addr i j k) (v : Nat) :
    (s.setReg r v i j k).fld f a b c = s.fld f a b c := by
  simp [Dev.fld, Dev.reg_setReg_other s h]

/-! ### Fields -/

theorem Dev.reg_setFld_same (f : Fld) (h : f.lo ≤ f.hi) (g : f.hi < 32) (v i j k : Nat) :
    (s.setFld f v i j k).reg f.reg i j k = putBits (s.reg f.reg i j k) f.hi f.lo v := by
  rw [Dev.setFld, Dev.reg_setReg_same, Nat.mod_eq_of_lt (putBits_lt h g (s.reg_lt _ _ _ _) v)]

/-- A field reads the value written to it, cut to its width. -/
theorem Dev.fld_setFld_same (f : Fld) (h : f.lo ≤ f.hi) (g : f.hi < 32) (v i j k : Nat) :
    (s.setFld f v i j k).fld f i j k = v % 2 ^ (f.hi + 1 - f.lo) := by
  rw [Dev.fld, Dev.reg_setFld_same s f h g, bits_putBits h]

/-- A write of one field leaves every field of the same register that shares no bit with it. -/
theorem Dev.fld_setFld_beside {f q : Fld} (h : f.lo ≤ f.hi) (g : f.hi < 32) (e : q.reg = f.reg) (d : q.hi < f.lo ∨ f.hi < q.lo)
    (v i j k : Nat) : (s.setFld f v i j k).fld q i j k = s.fld q i j k := by
  rw [Dev.fld, e, Dev.reg_setFld_same s f h g, bits_putBits_other h d, Dev.fld, e]

/-- A write of one field leaves every field of a register at another address. -/
theorem Dev.fld_setFld_other {f q : Fld} {i j k a b c : Nat} (h : q.reg.addr a b c ≠ f.reg.addr i j k) (v : Nat) :
    (s.setFld f v i j k).fld q a b c = s.fld q a b c := Dev.fld_setReg_other s h _

theorem Dev.reg_setFld_other {q : Reg} {f : Fld} {i j k a b c : Nat} (h : q.addr a b c ≠ f.reg.addr i j k) (v : Nat) :
    (s.setFld f v i j k).reg q a b c = s.reg q a b c := Dev.reg_setReg_other s h _

/-- A one-bit field reads the Boolean written to it. -/
theorem Dev.flag_setFlag_same (f : Fld) (h : f.lo = f.hi) (g : f.hi < 32) (b : Bool) (i j k : Nat) :
    (s.setFlag f b i j k).flag f i j k = b := by
  rw [Dev.flag, Dev.setFlag, Dev.fld_setFld_same s f (Nat.le_of_eq h) g, h, Nat.add_sub_cancel_left]
  cases b <;> rfl

/-! ### Counters -/

/-- A counter goes up by `n` and saturates (R13). -/
theorem Dev.reg_countBy_same (n : Nat) (r : Reg) (i j k : Nat) :
    (s.countBy n r i j k).reg r i j k = min (s.reg r i j k + n) (2 ^ 32 - 1) := by
  rw [Dev.countBy, Dev.reg_setReg_same, Nat.mod_eq_of_lt (by omega)]

@[simp] theorem Dev.reg_count_same (r : Reg) (i j k : Nat) :
    (s.count r i j k).reg r i j k = min (s.reg r i j k + 1) 0xFFFFFFFF := Dev.reg_countBy_same s 1 r i j k

theorem Dev.reg_count_other {r q : Reg} {i j k a b c : Nat} (h : q.addr a b c ≠ r.addr i j k) :
    (s.count r i j k).reg q a b c = s.reg q a b c := Dev.reg_setReg_other s h _

theorem Dev.fld_count_other {r : Reg} {f : Fld} {i j k a b c : Nat} (h : f.reg.addr a b c ≠ r.addr i j k) :
    (s.count r i j k).fld f a b c = s.fld f a b c := Dev.fld_setReg_other s h _

/-! ### Lists of changes -/

@[simp] theorem Dev.each_nil {α : Type} (f : α → Dev → Dev) : s.each [] f = s := rfl

@[simp] theorem Dev.each_cons {α : Type} (a : α) (l : List α) (f : α → Dev → Dev) : s.each (a :: l) f = (f a s).each l f := rfl

/-- What every change of a list keeps, the list keeps. -/
theorem Dev.each_keeps {α : Type} {P : Dev → Prop} {f : α → Dev → Dev} {l : List α} (h : ∀ a ∈ l, ∀ s, P s → P (f a s)) :
    ∀ s : Dev, P s → P (s.each l f) := by
  induction l with
  | nil => exact fun _ hs => hs
  | cons a l ih =>
    exact fun s hs => ih (fun b hb => h b (List.mem_cons_of_mem _ hb)) _ (h a (List.mem_cons_self ..) s hs)

/-- What no change of a list touches, the list does not touch. -/
theorem Dev.each_same {α β : Type} {g : Dev → β} {f : α → Dev → Dev} {l : List α} (h : ∀ a ∈ l, ∀ s, g (f a s) = g s) (s : Dev) :
    g (s.each l f) = g s :=
  Dev.each_keeps (P := fun t => g t = g s) (fun a ha t ht => (h a ha t).trans ht) s rfl

theorem Dev.when_keeps {P : Dev → Prop} {b : Bool} {f : Dev → Dev} (h : ∀ s, P s → P (f s)) (s : Dev) (hs : P s) : P (s.when b f) := by
  cases b
  · exact hs
  · exact h s hs

@[simp] theorem Dev.when_true (f : Dev → Dev) : s.when true f = f s := rfl

@[simp] theorem Dev.when_false (f : Dev → Dev) : s.when false f = s := rfl

/-! ### The canonical form -/

theorem Dev.canonical_iff :
    s.canonical = true ↔ Sparse.wf (fun _ => (0#8 : Byte)) s.mem = true ∧ Sparse.wf resetAt s.regs = true := by
  simp [Dev.canonical]

/-- A change of neither memory nor register file keeps the canonical form. -/
theorem Dev.canonical_congr {s t : Dev} (hm : t.mem = s.mem) (hr : t.regs = s.regs) : t.canonical = s.canonical := by
  simp [Dev.canonical, hm, hr]

variable {s}

theorem Dev.canonical_setRegWord (h : s.canonical = true) (off : Nat) (v : Word) : (s.setRegWord off v).canonical = true := by
  rw [Dev.canonical_iff] at *
  exact ⟨h.1, Sparse.set_wf _ _ _ _ h.2⟩

theorem Dev.canonical_setReg (h : s.canonical = true) (r : Reg) (v i j k : Nat) : (s.setReg r v i j k).canonical = true :=
  Dev.canonical_setRegWord h _ _

theorem Dev.canonical_setFld (h : s.canonical = true) (f : Fld) (v i j k : Nat) : (s.setFld f v i j k).canonical = true :=
  Dev.canonical_setReg h _ _ _ _ _

theorem Dev.canonical_setFlag (h : s.canonical = true) (f : Fld) (b : Bool) (i j k : Nat) : (s.setFlag f b i j k).canonical = true :=
  Dev.canonical_setFld h _ _ _ _ _

theorem Dev.canonical_countBy (h : s.canonical = true) (n : Nat) (r : Reg) (i j k : Nat) : (s.countBy n r i j k).canonical = true :=
  Dev.canonical_setReg h _ _ _ _ _

theorem Dev.canonical_count (h : s.canonical = true) (r : Reg) (i j k : Nat) : (s.count r i j k).canonical = true :=
  Dev.canonical_countBy h _ _ _ _ _

theorem Dev.canonical_misuse (h : s.canonical = true) (b : Block) (n : Nat) : (s.misuse b n).canonical = true :=
  Dev.canonical_count h _ _ _ _

theorem Dev.canonical_plainIf (h : s.canonical = true) (ill : FieldInfo → Bool) (r : Reg) (v i j k : Nat) :
    (s.plainIf ill r v i j k).canonical = true := by
  simp only [Dev.plainIf]
  split
  · exact Dev.canonical_misuse (Dev.canonical_setReg h _ _ _ _ _) _ _
  · exact Dev.canonical_setReg h _ _ _ _ _

theorem Dev.canonical_plain (h : s.canonical = true) (r : Reg) (v i j k : Nat) : (s.plain r v i j k).canonical = true :=
  Dev.canonical_plainIf h _ _ _ _ _ _

theorem Dev.canonical_each {α : Type} {f : α → Dev → Dev} {l : List α} (g : ∀ a s, s.canonical = true → (f a s).canonical = true)
    (h : s.canonical = true) : (s.each l f).canonical = true :=
  Dev.each_keeps (P := fun t => t.canonical = true) (fun a _ => g a) s h

theorem Dev.canonical_when {b : Bool} {f : Dev → Dev} (g : ∀ s, s.canonical = true → (f s).canonical = true)
    (h : s.canonical = true) : (s.when b f).canonical = true :=
  Dev.when_keeps (P := fun t => t.canonical = true) g s h

end Sys2Proof.Machine
end

