-- ==== Sys2Proof/Laws/Mem.lean ====
section
/-! SUPPORT. The laws of memory: a read after a write, what an access can change, and that every operation over memory keeps
the canonical form. -/

namespace Sys2Proof.Machine

variable (s : Dev)

/-! ### Bytes -/

theorem Dev.byte_setByte (a x : Nat) (b : Byte) : (s.setByte a b).byte x = if x = a then b else s.byte x := by
  simp [Dev.byte, Sparse.get_set]

@[simp] theorem Dev.byte_setByte_same (a : Nat) (b : Byte) : (s.setByte a b).byte a = b := by simp [Dev.byte_setByte]

theorem Dev.byte_congr {s t : Dev} (h : s.mem = t.mem) (a : Nat) : s.byte a = t.byte a := by simp [Dev.byte, h]

theorem Dev.bytes_congr {s t : Dev} (h : s.mem = t.mem) (a n : Nat) : s.bytes a n = t.bytes a n := by
  induction n generalizing a with
  | zero => rfl
  | succ n ih => simp [Dev.bytes, Dev.byte_congr h, ih]

theorem Dev.load_congr {s t : Dev} (h : s.mem = t.mem) (a n : Nat) : s.load a n = t.load a n := by
  simp [Dev.load, Dev.bytes_congr h]

@[simp] theorem Dev.bytes_length (a n : Nat) : (s.bytes a n).length = n := by
  induction n generalizing a with
  | zero => rfl
  | succ n ih => simp [Dev.bytes, ih]

/-- A write of bytes leaves every byte outside them. -/
theorem Dev.byte_setBytes_other (l : List Byte) (a x : Nat) (h : x < a ∨ a + l.length ≤ x) (s : Dev) : (s.setBytes a l).byte x = s.byte x := by
  induction l generalizing a s with
  | nil => rfl
  | cons b l ih =>
    have hx : x ≠ a := by simp at h; omega
    rw [Dev.setBytes, ih (a + 1) (by simp at h; omega), Dev.byte_setByte, if_neg hx]

/-- A read of the bytes just written gives them back. -/
theorem Dev.bytes_setBytes (l : List Byte) (a : Nat) (s : Dev) : (s.setBytes a l).bytes a l.length = l := by
  induction l generalizing a s with
  | nil => rfl
  | cons b l ih =>
    rw [List.length_cons, Dev.bytes, Dev.setBytes, ih, Dev.byte_setBytes_other l (a + 1) a (by omega), Dev.byte_setByte_same]

/-- A load after a store of the same width gives the value stored, cut to the width. -/
theorem Dev.load_store (a n v : Nat) : (s.store a n v).load a n = v % 256 ^ n := by
  have h := Dev.bytes_setBytes (leBytes n v) a s
  rw [leBytes_length] at h
  rw [Dev.load, Dev.store, h, leVal_leBytes]

/-! ### What a write of bytes leaves -/

/-- Nothing but the memory differs. -/
theorem Dev.setBytes_frame (l : List Byte) (a : Nat) (s : Dev) : s.setBytes a l = { s with mem := (s.setBytes a l).mem } := by
  induction l generalizing a s with
  | nil => rfl
  | cons b l ih => rw [Dev.setBytes, ih]; rfl

theorem Dev.setBytes_regs (l : List Byte) (a : Nat) (s : Dev) : (s.setBytes a l).regs = s.regs := by rw [Dev.setBytes_frame]

/-- `t` is `s` but for the register file, the memory and the errors that its words hold. -/
def Dev.memOnly (s t : Dev) : Prop := t = { s with regs := t.regs, mem := t.mem, smf := t.smf }

theorem Dev.memOnly.rfl' : s.memOnly s := rfl

theorem Dev.memOnly.trans {s t u : Dev} (h : s.memOnly t) (g : t.memOnly u) : s.memOnly u := by
  unfold Dev.memOnly at *; rw [g, h]

theorem Dev.memOnly.setReg (r : Reg) (v i j k : Nat) : s.memOnly (s.setReg r v i j k) := rfl

theorem Dev.memOnly.setBytes (a : Nat) (l : List Byte) : s.memOnly (s.setBytes a l) := by
  unfold Dev.memOnly; rw [Dev.setBytes_frame]

theorem Dev.memOnly.setErr (a e : Nat) : s.memOnly (s.setErr a e) := rfl

theorem Dev.memOnly.markDirty (a : Nat) : s.memOnly (s.markDirty a) := by unfold Dev.markDirty; split <;> rfl

theorem Dev.memOnly.setFld (f : Fld) (v i j k : Nat) : s.memOnly (s.setFld f v i j k) := rfl

theorem Dev.memOnly.setFlag (f : Fld) (b : Bool) (i j k : Nat) : s.memOnly (s.setFlag f b i j k) := rfl

theorem Dev.memOnly.count (r : Reg) (i j k : Nat) : s.memOnly (s.count r i j k) := rfl

theorem Dev.memOnly.meetUe (a mid kind : Nat) : s.memOnly (s.meetUe a mid kind) := by
  unfold Dev.meetUe Dev.latchUe
  split
  · exact .count ..
  · exact (((((Dev.memOnly.count s ..).trans (.setReg ..)).trans (.setReg ..)).trans (.setFld ..)).trans (.setFld ..)).trans (.setFlag ..)

theorem Dev.meetUe_mem (a mid kind : Nat) : (s.meetUe a mid kind).mem = s.mem := by
  unfold Dev.meetUe Dev.latchUe; split <;> simp

/-- A grant changes the bank's pointer alone. -/
theorem Dev.granted_frame (mid b : Nat) : s.granted mid b = { s with smf := (s.granted mid b).smf } := by
  unfold Dev.granted Dev.grantPass; dsimp only; split <;> rfl

theorem Dev.memOnly.granted (mid b : Nat) : s.memOnly (s.granted mid b) := by unfold Dev.memOnly; rw [Dev.granted_frame]

@[simp] theorem Dev.granted_mem (mid b : Nat) : (s.granted mid b).mem = s.mem := by rw [Dev.granted_frame]
@[simp] theorem Dev.granted_regs (mid b : Nat) : (s.granted mid b).regs = s.regs := by rw [Dev.granted_frame]

/-- A read within a word changes registers, word errors and the bank's pointer alone; never memory. -/
theorem Dev.wordRead_frame (mid a n : Nat) : s.memOnly (s.wordRead mid a n).2 ∧ (s.wordRead mid a n).2.mem = s.mem := by
  unfold Dev.wordRead Dev.bankDeny
  split
  · exact ⟨.count .., Dev.count_mem ..⟩
  · have hg := Dev.memOnly.granted s mid (bankOf a)
    have hm := Dev.granted_mem s mid (bankOf a)
    revert hg hm
    generalize s.granted mid (bankOf a) = t
    intro hg hm
    dsimp only
    split
    · exact ⟨hg, hm⟩
    · dsimp only
      split
      · exact ⟨hg.trans ((Dev.memOnly.count t ..).trans (.setErr ..)), (Dev.count_mem t .SMF_CE_CNT 0 0 0).trans hm⟩
      · exact ⟨hg.trans (.count ..), (Dev.count_mem ..).trans hm⟩
    · exact ⟨hg.trans (Dev.memOnly.meetUe t a mid 0), (Dev.meetUe_mem t a mid 0).trans hm⟩

theorem Dev.markDirty_byte (a x : Nat) : (s.markDirty a).byte x = s.byte x := by unfold Dev.markDirty; split <;> rfl

/-- A write within a word changes registers, word errors and the bytes written. -/
theorem Dev.wordWrite_frame (mid a : Nat) (l : List Byte) :
    s.memOnly (s.wordWrite mid a l) ∧ ∀ x, x < a ∨ a + l.length ≤ x → (s.wordWrite mid a l).byte x = s.byte x := by
  unfold Dev.wordWrite
  split
  · exact ⟨rfl, fun _ _ => rfl⟩
  · have hg := Dev.memOnly.granted s mid (bankOf a)
    have hm := Dev.granted_mem s mid (bankOf a)
    revert hg hm
    generalize s.granted mid (bankOf a) = t
    intro hg hm
    have hb (x : Nat) : t.byte x = s.byte x := Dev.byte_congr hm x
    dsimp only
    split
    · refine ⟨hg.trans (((Dev.memOnly.setBytes t a l).trans (Dev.memOnly.setErr _ a 0)).trans (Dev.memOnly.markDirty _ a)), fun x hx => ?_⟩
      rw [Dev.markDirty_byte]; exact (Dev.byte_setBytes_other l a x hx t).trans (hb x)
    · split
      · refine ⟨hg.trans ((Dev.memOnly.setBytes t a l).trans (Dev.memOnly.markDirty _ a)), fun x hx => ?_⟩
        rw [Dev.markDirty_byte]; exact (Dev.byte_setBytes_other l a x hx t).trans (hb x)
      · refine ⟨hg.trans ((((Dev.memOnly.setReg t _ _ _ _ _).trans (Dev.memOnly.setBytes _ a l)).trans (Dev.memOnly.setErr _ a 0)).trans
          (Dev.memOnly.markDirty _ a)), fun x hx => ?_⟩
        rw [Dev.markDirty_byte]
        exact ((Dev.byte_setBytes_other l a x hx (t.count .SMF_CE_CNT)).trans rfl).trans (hb x)
      · exact ⟨hg.trans (Dev.memOnly.meetUe t a mid 1), fun x _ => (Dev.byte_congr (Dev.meetUe_mem t a mid 1) x).trans (hb x)⟩

theorem Dev.sharedRead_frame (mid a n : Nat) : s.memOnly (s.sharedRead mid a n).2 ∧ (s.sharedRead mid a n).2.mem = s.mem := by
  unfold Dev.sharedRead
  generalize wordPieces n a n = l
  suffices h : ∀ (q : RdRes × Dev), s.memOnly q.2 → q.2.mem = s.mem →
      s.memOnly (l.foldl (fun (r, s) (p, k) => let (q, s) := s.wordRead mid p k; (⟨r.data ++ q.data, r.ue || q.ue⟩, s)) q).2 ∧
      (l.foldl (fun (r, s) (p, k) => let (q, s) := s.wordRead mid p k; (⟨r.data ++ q.data, r.ue || q.ue⟩, s)) q).2.mem = s.mem from
    h _ rfl rfl
  induction l with
  | nil => exact fun q h g => ⟨h, g⟩
  | cons p l ih =>
    intro q h g
    have w := Dev.wordRead_frame q.2 mid p.1 p.2
    exact ih _ (h.trans w.1) (w.2.trans g)

/-- The pieces of a range lie in it. -/
theorem wordPieces_mem (f a n : Nat) : ∀ p ∈ wordPieces f a n, a ≤ p.1 ∧ p.1 + p.2 ≤ a + n := by
  induction f generalizing a n with
  | zero => simp [wordPieces]
  | succ f ih =>
    cases n with
    | zero => simp [wordPieces]
    | succ n =>
      intro p hp
      simp only [wordPieces, List.mem_cons] at hp
      rcases hp with rfl | hp
      · exact ⟨Nat.le_refl _, by simp only []; omega⟩
      · have := ih _ _ p hp; omega

theorem Dev.sharedWrite_frame (mid a : Nat) (l : List Byte) :
    s.memOnly (s.sharedWrite mid a l) ∧ ∀ x, x < a ∨ a + l.length ≤ x → (s.sharedWrite mid a l).byte x = s.byte x := by
  unfold Dev.sharedWrite
  have hp := wordPieces_mem l.length a l.length
  revert hp
  generalize wordPieces l.length a l.length = ps
  generalize ha : l.length = n
  clear ha
  suffices h : ∀ (q : Dev × List Byte), (∀ p ∈ ps, a ≤ p.1 ∧ p.1 + p.2 ≤ a + n) → s.memOnly q.1 →
      (∀ x, x < a ∨ a + n ≤ x → q.1.byte x = s.byte x) →
      s.memOnly (ps.foldl (fun (s, l) (p, k) => (s.wordWrite mid p (l.take k), l.drop k)) q).1 ∧
      ∀ x, x < a ∨ a + n ≤ x → (ps.foldl (fun (s, l) (p, k) => (s.wordWrite mid p (l.take k), l.drop k)) q).1.byte x = s.byte x from
    fun hp => h _ hp rfl fun _ _ => rfl
  induction ps with
  | nil => exact fun q _ h g => ⟨h, g⟩
  | cons p ps ih =>
    intro q hp h g
    have w := Dev.wordWrite_frame q.1 mid p.1 (q.2.take p.2)
    refine ih _ (fun r hr => hp r (List.mem_cons_of_mem _ hr)) (h.trans w.1) fun x hx => ?_
    have hl : (q.2.take p.2).length ≤ p.2 := by simp
    have := hp p (List.mem_cons_self ..)
    rw [← g x hx]
    exact w.2 x (by omega)

/-- A read by physical address changes registers and word errors alone; never memory (R32 to R37). -/
theorem Dev.physRead_frame (mid a n : Nat) : s.memOnly (s.physRead mid a n).2 ∧ (s.physRead mid a n).2.mem = s.mem := by
  simp only [Dev.physRead]
  split
  · exact ⟨rfl, rfl⟩
  · split
    · exact ⟨rfl, rfl⟩
    · split
      · exact Dev.sharedRead_frame s mid a n
      · split <;> exact ⟨rfl, rfl⟩
      · exact ⟨rfl, rfl⟩
      · exact ⟨rfl, rfl⟩

/-- A write by physical address changes registers, word errors and, of memory, the bytes written alone. -/
theorem Dev.physWrite_frame (mid a : Nat) (l : List Byte) :
    s.memOnly (s.physWrite mid a l) ∧ ∀ x, x < a ∨ a + l.length ≤ x → (s.physWrite mid a l).byte x = s.byte x := by
  simp only [Dev.physWrite]
  split
  · exact ⟨rfl, fun _ _ => rfl⟩
  · split
    · exact ⟨rfl, fun _ _ => rfl⟩
    · split
      · exact Dev.sharedWrite_frame s mid a l
      · split
        · exact ⟨Dev.memOnly.setBytes s a l, fun x hx => Dev.byte_setBytes_other l a x hx s⟩
        · exact ⟨rfl, fun _ _ => rfl⟩
      · exact ⟨Dev.memOnly.setBytes s a l, fun x hx => Dev.byte_setBytes_other l a x hx s⟩
      · exact ⟨rfl, fun _ _ => rfl⟩

/-! ### The canonical form -/

variable {s}

theorem Dev.canonical_setByte (h : s.canonical = true) (a : Nat) (b : Byte) : (s.setByte a b).canonical = true := by
  rw [Dev.canonical_iff] at *
  exact ⟨Sparse.set_wf _ _ _ _ h.1, h.2⟩

theorem Dev.canonical_setBytes (l : List Byte) (a : Nat) {s : Dev} (h : s.canonical = true) : (s.setBytes a l).canonical = true := by
  induction l generalizing a s with
  | nil => exact h
  | cons b l ih => exact ih (a + 1) (Dev.canonical_setByte h a b)

theorem Dev.canonical_store (h : s.canonical = true) (a n v : Nat) : (s.store a n v).canonical = true :=
  Dev.canonical_setBytes _ _ h

/-- A canonical table from which entries are taken out is canonical. -/
theorem Sparse.filter_wf {β : Type} [DecidableEq β] (d : Nat → β) (p : Nat × β → Bool) (t : List (Nat × β)) (h : Sparse.wf d t = true) :
    Sparse.wf d (t.filter p) = true ∧ ∀ a, Sparse.above a t = true → Sparse.above a (t.filter p) = true := by
  induction t with
  | nil => exact ⟨rfl, fun _ _ => rfl⟩
  | cons e t ih =>
    obtain ⟨b, v⟩ := e
    simp only [Sparse.wf, Bool.and_eq_true, decide_eq_true_eq] at h
    obtain ⟨⟨hv, hb⟩, ht⟩ := h
    obtain ⟨i1, i2⟩ := ih ht
    by_cases hp : p (b, v) = true
    · rw [List.filter_cons_of_pos hp]
      exact ⟨by simp [Sparse.wf, hv, i2 b hb, i1], fun a ha => by simpa [Sparse.above] using ha⟩
    · rw [List.filter_cons_of_neg hp]
      refine ⟨i1, fun a ha => i2 a (Sparse.above_trans ?_ hb)⟩
      simpa [Sparse.above] using ha

theorem Dev.canonical_zeroRange (h : s.canonical = true) (a b : Nat) : (s.zeroRange a b).canonical = true := by
  rw [Dev.canonical_iff] at *
  exact ⟨(Sparse.filter_wf _ _ _ h.1).1, h.2⟩

theorem Dev.canonical_setErr (h : s.canonical = true) (a e : Nat) : (s.setErr a e).canonical = true := h

theorem Dev.canonical_markDirty (h : s.canonical = true) (a : Nat) : (s.markDirty a).canonical = true := by
  unfold Dev.markDirty; split <;> exact h

theorem Dev.canonical_meetUe (h : s.canonical = true) (a mid kind : Nat) : (s.meetUe a mid kind).canonical = true := by
  unfold Dev.meetUe Dev.latchUe
  have c := Dev.canonical_count h .SMF_UE_CNT 0 0 0
  split
  · exact c
  · exact Dev.canonical_setFlag (Dev.canonical_setFld (Dev.canonical_setFld (Dev.canonical_setReg (Dev.canonical_setReg c ..) ..) ..) ..) ..

theorem Dev.canonical_granted (h : s.canonical = true) (mid b : Nat) : (s.granted mid b).canonical = true := by
  rw [Dev.granted_frame]; exact h

theorem Dev.canonical_wordRead (h : s.canonical = true) (mid a n : Nat) : (s.wordRead mid a n).2.canonical = true := by
  unfold Dev.wordRead Dev.bankDeny
  split
  · exact Dev.canonical_count h ..
  · have g := Dev.canonical_granted h mid (bankOf a)
    revert g
    generalize s.granted mid (bankOf a) = t
    intro g
    dsimp only
    split
    · exact g
    · dsimp only
      split <;> exact Dev.canonical_count g ..
    · exact Dev.canonical_meetUe g ..

theorem Dev.canonical_wordWrite (h : s.canonical = true) (mid a : Nat) (l : List Byte) : (s.wordWrite mid a l).canonical = true := by
  unfold Dev.wordWrite Dev.bankDeny
  split
  · exact Dev.canonical_count h ..
  · have g := Dev.canonical_granted h mid (bankOf a)
    revert g
    generalize s.granted mid (bankOf a) = t
    intro g
    dsimp only
    split
    · exact Dev.canonical_markDirty (Dev.canonical_setErr (Dev.canonical_setBytes _ _ g) ..) _
    · split
      · exact Dev.canonical_markDirty (Dev.canonical_setBytes _ _ g) _
      · exact Dev.canonical_markDirty (Dev.canonical_setErr (Dev.canonical_setBytes _ _ (Dev.canonical_count g ..)) ..) _
      · exact Dev.canonical_meetUe g ..

theorem Dev.canonical_sharedRead (h : s.canonical = true) (mid a n : Nat) : (s.sharedRead mid a n).2.canonical = true := by
  unfold Dev.sharedRead
  generalize wordPieces n a n = l
  generalize hq : ((⟨[], false⟩ : RdRes), s) = q
  replace h : q.2.canonical = true := by rw [← hq]; exact h
  clear hq
  induction l generalizing q with
  | nil => exact h
  | cons p l ih => exact ih _ (Dev.canonical_wordRead h mid p.1 p.2)

theorem Dev.canonical_sharedWrite (h : s.canonical = true) (mid a : Nat) (l : List Byte) : (s.sharedWrite mid a l).canonical = true := by
  unfold Dev.sharedWrite
  generalize wordPieces l.length a l.length = ps
  generalize hq : (s, l) = q
  replace h : q.1.canonical = true := by rw [← hq]; exact h
  clear hq
  induction ps generalizing q with
  | nil => exact h
  | cons p ps ih => exact ih _ (Dev.canonical_wordWrite h mid p.1 (q.2.take p.2))

/-- Every access by physical address keeps the canonical form. -/
theorem Dev.canonical_physRead (h : s.canonical = true) (mid a n : Nat) : (s.physRead mid a n).2.canonical = true := by
  simp only [Dev.physRead]
  split
  · exact Dev.canonical_count h ..
  · split
    · exact Dev.canonical_count h ..
    · split
      · exact Dev.canonical_sharedRead h ..
      · split
        · exact h
        · exact Dev.canonical_count h ..
      · exact h
      · exact h

theorem Dev.canonical_physWrite (h : s.canonical = true) (mid a : Nat) (l : List Byte) : (s.physWrite mid a l).canonical = true := by
  simp only [Dev.physWrite]
  split
  · exact Dev.canonical_count h ..
  · split
    · exact Dev.canonical_count h ..
    · split
      · exact Dev.canonical_sharedWrite h ..
      · split
        · exact Dev.canonical_setBytes _ _ h
        · exact Dev.canonical_count h ..
      · exact Dev.canonical_setBytes _ _ h
      · exact h

end Sys2Proof.Machine
end

