-- ==== Sys2Proof/Laws/Row.lean ====
section
/-! SUPPORT. What the operations shared by many commands can do: an agent's access to a register, the issue of an engine word, a
reset of registers, a doorbell. -/

namespace Sys2Proof.Machine

/-- Equal devices are equal next states. -/
theorem next_congr {s : State} {a b : Dev} (h : a = b) :
    (Host.Outcome.next (s.withDev a) : Host.Outcome State Fault Refusal) = .next (s.withDev b) := by rw [h]

/-! ### An agent's access to a register -/

/-- An agent with no store or load waiting accesses at once. -/
theorem Dev.settled_quiet {d : Dev} {who : Agent} (h : d.quiet who = true) (a : Nat) (f : Dev → Dev) : d.settled who a f = f d := by
  have hw : d.rowWaits who a = false := by
    unfold Dev.quiet at h
    unfold Dev.rowWaits
    cases he : who.eng with
    | none => rfl
    | some ge =>
      simp only [he, Bool.and_eq_true, List.isEmpty_iff, List.all_eq_true, List.mem_range] at h
      simp only [h.1, List.any_nil, Bool.or_false, List.any_eq_false, List.mem_range]
      intro i hi
      simp [h.2 i hi]
  have hs : d.settle who = d := by cases who <;> simp_all [Dev.quiet, Dev.settle, Agent.eng]
  simp [Dev.settled, hw, hs]

theorem Dev.rowGate_reaches {d : Dev} {who : Agent} {r : Reg} {i j : Nat} {write : Bool} (h : d.reaches who r i j write) :
    d.rowGate who r i j write = .page r.info.blk (r.info.blk.pageOf i) := by
  simp [Dev.rowGate, h.1, h.2.1]

/-- A write that reaches its block is the block's own. -/
theorem Dev.rowWrite_reaches {d : Dev} {who : Agent} {r : Reg} {i j : Nat} (h : d.reaches who r i j true) (v : Nat) :
    d.rowWrite who r v i j = d.copyStore r i j 0 who.mid who.ctx v := by
  simp [Dev.rowWrite, Dev.settled_quiet h.2.2, Dev.rowGate_reaches h]

/-- A read that reaches its block gives its reader the block's word. -/
theorem Dev.rowRead_reaches {d : Dev} {who : Agent} {r : Reg} {i j : Nat} (h : d.reaches who r i j false) :
    d.rowRead who r i j =
      { (d.copyLoad r i j 0 who.mid who.ctx).2 with rd := word (d.copyLoad r i j 0 who.mid who.ctx).1 } := by
  simp [Dev.rowRead, Dev.settled_quiet h.2.2, Dev.rowGate_reaches h]

/-- Everything a write of an agent can do: it waits for what its engine has asked for before; or, once that has left, a denial is counted, or a domain
that is off (a push to a rink goes to the job router then), or it is the block's own effect. -/
theorem Dev.rowWrite_cases (d : Dev) (who : Agent) (r : Reg) (v i j : Nat) :
    (d.rowWaits who (regBase + r.addr i j) = true ∧ d.rowWrite who r v i j = d) ∨
      d.rowWrite who r v i j = (d.settle who).count .SYS_DENY_CNT ∨
      (d.rowWrite who r v i j = if r = .RNK_PUSH then (d.settle who).pushWrite i j who.mid who.ctx v
        else (d.settle who).count .SYS_DOMAIN_OFF_CNT) ∨
      (d.settle who).rowGate who r i j true = .page r.info.blk (r.info.blk.pageOf i) ∧
        d.rowWrite who r v i j = (d.settle who).copyStore r i j 0 who.mid who.ctx v := by
  by_cases w : d.rowWaits who (regBase + r.addr i j) = true
  · exact .inl ⟨w, by simp [Dev.rowWrite, Dev.settled, w]⟩
  · have e (f : Dev → Dev) : d.settled who (regBase + r.addr i j) f = f (d.settle who) := by simp [Dev.settled, w]
    refine .inr ?_
    simp only [Dev.rowWrite, e]
    by_cases h : (d.settle who).regMay who.mid (r.addr i j) true = true
    · by_cases g : (d.settle who).domOn (regDom r.info.blk (r.info.blk.pageOf i) (r.addr i j)) = true
      · exact .inr (.inr (by simp [Dev.rowGate, h, g]))
      · exact .inr (.inl (by simp [Dev.rowGate, h, g, Dev.gateCount]))
    · exact .inl (by simp [Dev.rowGate, h, Dev.gateCount])

/-- A register that is no word of a 64-bit pair is stored whole. -/
theorem Dev.copyStore_single (d : Dev) {r : Reg} (h : r.single = true) (i j k mid ctx v : Nat) :
    d.copyStore r i j k mid ctx v = d.regStore r i j k mid ctx v := by
  simp only [Reg.single, Bool.and_eq_true, Option.isNone_iff_eq_none] at h
  simp [Dev.copyStore, h.1, h.2]

theorem Dev.copyLoad_single (d : Dev) {r : Reg} (h : r.single = true) (i j k mid ctx : Nat) :
    d.copyLoad r i j k mid ctx = d.regLoad r i j k mid ctx := by
  simp only [Reg.single, Bool.and_eq_true, Option.isNone_iff_eq_none] at h
  simp [Dev.copyLoad, h.1, h.2]

/-! ### The issue of an engine word -/

/-- A word that its engine issues has its row's effect on the device that has issued it. -/
theorem Dev.issue_issues {d : Dev} {c : Nat} {op : SkzOp} (f : Nat → Dev → Dev) (h : d.issues c op) :
    Dev.issue c op f d = f (d.fetchWord c) (d.issued c) := by
  obtain ⟨h1, h2⟩ := h
  simp [Dev.issue, h1, h2]

/-- A row that the engine does not issue changes nothing. -/
theorem Dev.issue_else {d : Dev} {c : Nat} {op : SkzOp} (f : Nat → Dev → Dev) (h : ¬d.issues c op) : Dev.issue c op f d = d := by
  exact if_neg h

/-- A row whose word changes its context alone. -/
theorem Dev.issue_simple {d : Dev} {c : Nat} {op : SkzOp} (f : Nat → Ctx → Ctx) (g : Ctx → Ctx) (h : d.issues c op)
    (e : ∀ x, f (d.fetchWord c) x = g x) : Dev.issue c op (fun w => Dev.simple c (f w)) d = d.afterWord c g := by
  rw [Dev.issue_issues _ h, Dev.simple, Dev.afterWord]
  congr
  funext x
  exact e x

theorem Dev.ctx_updCtx (d : Dev) (c : Nat) (f : Ctx → Ctx) (k : Nat) :
    (d.updCtx c f).ctx k = if k = c then f (d.ctx c) else d.ctx k := by
  simp only [Dev.ctx, Dev.updCtx_eng, Tab.upd, Tab.get_set]

@[simp] theorem Dev.ctx_updCtx_same (d : Dev) (c : Nat) (f : Ctx → Ctx) : (d.updCtx c f).ctx c = f (d.ctx c) := by
  simp [Dev.ctx_updCtx]

theorem Dev.ctx_updCtx_other (d : Dev) {c k : Nat} (h : k ≠ c) (f : Ctx → Ctx) : (d.updCtx c f).ctx k = d.ctx k := by
  simp [Dev.ctx_updCtx, h]

/-- A word that changes its context alone leaves every other context, the registers and memory. -/
theorem Dev.simple_frame (d : Dev) (c : Nat) (f : Ctx → Ctx) :
    (d.simple c f).regs = d.regs ∧ (d.simple c f).mem = d.mem ∧ ∀ k, k ≠ c → (d.simple c f).ctx k = d.ctx k := by
  refine ⟨rfl, rfl, fun k h => ?_⟩
  rw [Dev.simple, Dev.nextWord, Dev.goto, Dev.ctx_updCtx_other _ h, Dev.ctx_updCtx_other _ h]

/-! ### Other units -/

theorem Dev.task_updTask (d : Dev) (t : Nat) (f : TaskSt → TaskSt) (k : Nat) :
    (d.updTask t f).task k = if k = t then f (d.task t) else d.task k := by
  simp only [Dev.task, Dev.updTask_ctl, Tab.upd, Tab.get_set]

@[simp] theorem Dev.task_updTask_same (d : Dev) (t : Nat) (f : TaskSt → TaskSt) : (d.updTask t f).task t = f (d.task t) := by
  simp [Dev.task_updTask]

theorem Dev.blade_updBld (d : Dev) (g b : Nat) (f : BldSt → BldSt) (k l : Nat) :
    (d.updBld g b f).blade k l = if k * 4 + l = g * 4 + b then f (d.blade g b) else d.blade k l := by
  simp only [Dev.blade, Dev.updBld_bld, Tab.upd, Tab.get_set]

@[simp] theorem Dev.blade_updBld_same (d : Dev) (g b : Nat) (f : BldSt → BldSt) : (d.updBld g b f).blade g b = f (d.blade g b) := by
  simp [Dev.blade_updBld]

theorem Dev.canSt_updCan (d : Dev) (n : Nat) (f : CanSt → CanSt) (k : Nat) :
    (d.updCan n f).canSt k = if k = n then f (d.canSt n) else d.canSt k := by
  simp only [Dev.canSt, Dev.updCan_can, Tab.upd, Tab.get_set]

@[simp] theorem Dev.canSt_updCan_same (d : Dev) (n : Nat) (f : CanSt → CanSt) : (d.updCan n f).canSt n = f (d.canSt n) := by
  simp [Dev.canSt_updCan]

/-! ### Resets of registers -/

/-- A reset of registers keeps the canonical form. -/
theorem Dev.canonical_resetRegs {s : Dev} (h : s.canonical = true) (q : ResetKind) (p : Nat → Bool) : (s.resetRegs q p).canonical = true := by
  rw [Dev.canonical_iff] at *
  refine ⟨h.1, ?_⟩
  have key : ∀ l : List (Nat × Word), Sparse.wf resetAt l = true → ∀ f : Nat × Word → Option (Nat × Word),
      (∀ e x, f e = some x → x.1 = e.1 ∧ (e.2 ≠ resetAt e.1 → x.2 ≠ resetAt x.1)) →
      Sparse.wf resetAt (l.filterMap f) = true ∧ ∀ a, Sparse.above a l = true → Sparse.above a (l.filterMap f) = true := by
    intro l hl f hf
    induction l with
    | nil => exact ⟨rfl, fun _ _ => rfl⟩
    | cons e t ih =>
      obtain ⟨b, v⟩ := e
      simp only [Sparse.wf, Bool.and_eq_true, decide_eq_true_eq] at hl
      obtain ⟨⟨hv, hb⟩, ht⟩ := hl
      obtain ⟨i1, i2⟩ := ih ht
      cases hx : f (b, v) with
      | none =>
        rw [List.filterMap_cons_none hx]
        refine ⟨i1, fun a ha => i2 a (Sparse.above_trans ?_ hb)⟩
        simpa [Sparse.above] using ha
      | some x =>
        obtain ⟨c, w⟩ := x
        obtain ⟨hc, hw⟩ := hf _ _ hx
        simp only at hc
        subst hc
        rw [List.filterMap_cons_some hx]
        exact ⟨by simp [Sparse.wf, hw hv, i2 c hb, i1], fun a ha => by simpa [Sparse.above] using ha⟩
  refine (key _ h.2 _ ?_).1
  intro e x hx
  obtain ⟨off, w⟩ := e
  simp only at hx
  split at hx
  · cases hx; exact ⟨rfl, id⟩
  · split at hx
    · cases hx
    · next r i _ _ hr =>
      split at hx
      · cases hx
      · next hne => cases hx; exact ⟨rfl, fun _ => by simpa [resetAt, hr] using hne⟩

/-! ### Doorbells -/

/-- A ring of doorbells changes registers and the pending bits of the host interface alone. -/
theorem Dev.ringMask_frame (s : Dev) (t mask : Nat) :
    s.ringMask t mask = { s with regs := (s.ringMask t mask).regs, host := (s.ringMask t mask).host } := by
  have hv : ∀ v (s : Dev), s.msixVector v = { s with regs := (s.msixVector v).regs, host := (s.msixVector v).host } := by
    intro v s
    simp only [Dev.msixVector]
    split
    · rfl
    · split
      · rfl
      · split <;> rfl
  have he : ∀ (l : List Nat) (s : Dev), s.each l Dev.msixVector =
      { s with regs := (s.each l Dev.msixVector).regs, host := (s.each l Dev.msixVector).host } := by
    intro l
    induction l with
    | nil => exact fun _ => rfl
    | cons a l ih => intro s; rw [Dev.each_cons, ih, hv]
  simp only [Dev.ringMask, Dev.msixUpdate]
  rw [he]
  rfl

theorem Dev.ringMask_mem (s : Dev) (t mask : Nat) : (s.ringMask t mask).mem = s.mem := by rw [Dev.ringMask_frame]

/-- A ring of doorbells keeps the canonical form. -/
theorem Dev.canonical_ringMask {s : Dev} (h : s.canonical = true) (t mask : Nat) : (s.ringMask t mask).canonical = true := by
  refine Dev.canonical_each (fun v s h => ?_) (Dev.canonical_setReg (Dev.canonical_countBy h ..) ..)
  simp only [Dev.msixVector]
  split
  · exact h
  · split
    · exact h
    · split
      · exact Dev.canonical_count (s := { s with host := _ }) h ..
      · exact h

end Sys2Proof.Machine
end

