-- ==== Sys2Proof/Tests/Slice0.lean ====
section
/-! SUPPORT. Small tests: the checks of well-formedness, Skezia words written from the encoding tables, the manual's own worked values,
and for each statement with hypotheses a state and operands that meet them. -/

namespace Sys2Proof.Tests

open Sys2Proof Sys2Proof.Machine

set_option maxRecDepth 100000
set_option Elab.async false

/-! ### Devices to test on -/

/-- A device out of reset with every domain on, booted. -/
def base : Dev := ((default : Dev).setFld .PWR_DOM_STAT_ON 0x1FFF).updSys fun x => { x with fabOn := true, patOn := true, bootMode := .done }

/-- The device with engine 0 of rink 0 online and its context 0 in RUN; w2 to w7 hold 3, 5, 7, 2, 9, 4. -/
def eng : Dev := (base.setFld .RNK_STATUS_ENG_ONLINE 1 0).updCtx 0 fun x =>
  { x with st := .run, w := [(2, 3#32), (3, 5#32), (4, 7#32), (5, 2#32), (6, 9#32), (7, 4#32)].foldl (fun t p => t.set p.1 p.2) x.w }

/-- That device with word `w` at the context's program counter. -/
def onWord (w : Nat) : Dev := eng.store 0x100000000 4 w

/-- A state with no command waiting. -/
def st (d : Dev) : State := ⟨d, []⟩

/-- What a command leaves of the device, judged by `p`; false where it answers no next state. -/
def after (i : Instr) (d : Dev) (p : Dev → Bool) : Bool :=
  match exec i (st d) with
  | .next t => p t.dev
  | _ => false

/-! ### Words of Skezia (R112 to R157), written from the encoding tables -/

/-- One word of every row of an engine: the fields of R115 around the major of R131 and the FUNC of R132 to R157. -/
def wordRows : List (Nat × SkzOp) := [
  (0xE0006000, .paired), (0x12000000, .illegal), (0x00531E01, .alu), (0x02117FFF, .addi), (0x04117FFF, .andi), (0x06110678, .ori),
  (0x08110001, .xori), (0x0A010005, .cmpi), (0x0C112820, .shifti), (0x0E112345, .lui), (0x10117FFD, .muli), (0x14221400, .dvs),
  (0x14221401, .dvu), (0x1830A004, .load), (0x1A30A004, .store), (0x1C309400, .loadm), (0x1E40B008, .storem), (0x21C03FFF, .bc),
  (0x22100005, .jal), (0x24010000, .jr), (0x26013FFE, .dbnz), (0x30300030, .waitev), (0x32100002, .rdcr), (0x34010010, .wrcr),
  (0x36100000, .mffl), (0x36010001, .mtfl), (0x36000002, .fence), (0x36000003, .yield), (0x60010C00, .crcCfg), (0x60010001, .crcSet),
  (0x60100002, .crcGet), (0x60010003, .crcUb), (0x60010004, .crcUh), (0x60010005, .crcUw), (0x60010006, .stfCfg), (0x60010C07, .stfPut),
  (0x60100C08, .stfGet), (0x60100009, .stfCnt), (0x70321400, .fadd), (0x70321401, .fsub), (0x70321402, .fmul), (0x70321403, .fdiv),
  (0x70320004, .fsqrt), (0x70321405, .fmin), (0x70321406, .fmax), (0x70321407, .fma), (0x70021408, .fcmp), (0x70320009, .fabs),
  (0x7032000A, .fneg), (0x7032000B, .fcvtW), (0x7032000C, .fcvtWu), (0x7032000D, .fcvtFw), (0x7032000E, .fcvtFwu), (0x7032000F, .fcvtX)]

/-- The words of a control engine's dispatch unit (R156). -/
def pgfRows : List (Nat × SkzOp) := [
  (0x68020000, .pgfBind), (0x68200001, .pgfNext), (0x68200002, .pgfPop), (0x68020003, .pgfPush), (0x68200004, .pgfPop2), (0x68020005, .pgfPush2),
  (0x68020006, .pgfJmp), (0x68000007, .pgfEnd)]

/-- Every word is chosen and read as its row (and meets the hypothesis of the completion statements of its row). -/
theorem test_words : ∀ p ∈ wordRows, (onWord p.1).issues 0 p.2 := by decide +kernel

/-- The same for the dispatch unit on a control engine, and for SETSPACE on Patrol. -/
theorem test_words_dispatch : ∀ p ∈ pgfRows, ((onWord p.1).updEng 0 fun e => { e with pgf := true }).issues 0 p.2 := by decide +kernel

theorem test_word_setspace : ((base.updCtx 256 fun x => { x with st := .run }).store 0x200000000 4 0x38010000).issues 256 .setspace := by decide +kernel

/-- Off a control engine the dispatch unit's words are illegal (R152). -/
theorem test_words_dispatch_illegal : ∀ p ∈ pgfRows, (onWord p.1).issues 0 .illegal := by decide +kernel

/-- Words with a reserved field of 1 are illegal (R116): ALU bit 5, CMPI rd, BC bit 14, JR OFF14, RDCR ra, DVS odd rd, MODE 2 on w16,
SETSPACE off Patrol. -/
theorem test_words_reserved : ∀ w ∈ [0x00531E21, 0x0A110005, 0x21C04000, 0x24010001, 0x32118002, 0x14321400, 0x1C382800, 0x38010000],
    (onWord w).issues 0 .illegal := by decide +kernel

/-- What context 0 holds in register `r`, and its flags Z N C V DZ, after a word. -/
def regAfter (i : Instr) (w r : Nat) : Option Nat :=
  match exec i (st (onWord w)) with
  | .next t => some ((t.dev.ctx 0).rd r).toNat
  | _ => none

def flagsAfter (i : Instr) (w : Nat) : List Bool :=
  match exec i (st (onWord w)) with
  | .next t => let f := (t.dev.ctx 0).fl; [f.z, f.n, f.c, f.v, f.dz]
  | _ => []

theorem test_alu_add : regAfter (.alu 0) 0x00531E01 5 = some 13 ∧ flagsAfter (.alu 0) 0x00531E01 = [false, false, false, false, false] := by decide +kernel
theorem test_addi : regAfter (.addi 0) 0x02117FFF 1 = some 2 := by decide +kernel
theorem test_andi_ori_xori : regAfter (.andi 0) 0x04117FFF 1 = some 3 ∧ regAfter (.ori 0) 0x06110678 1 = some 0x67B ∧
    regAfter (.xori 0) 0x08110001 1 = some 2 := by decide +kernel
theorem test_cmpi : flagsAfter (.cmpi 0) 0x0A010005 = [false, true, false, false, false] := by decide +kernel
theorem test_lui_muli : regAfter (.lui 0) 0x0E112345 1 = some 0x12345000 ∧ regAfter (.muli 0) 0x10117FFD 1 = some 0xFFFFFFF7 := by decide +kernel
theorem test_shifti_sar : regAfter (.shifti 0) 0x0C112820 1 = some 0 ∧ flagsAfter (.shifti 0) 0x0C112820 = [true, false, false, false, false] := by decide +kernel
theorem test_dvu : regAfter (.dvu 0) 0x14221401 2 = some 3 ∧ regAfter (.dvu 0) 0x14221401 3 = some 1 := by decide +kernel
theorem test_jal : regAfter (.jal 0) 0x22100005 1 = some 1 ∧ after (.jal 0) (onWord 0x22100005) (fun d => (d.ctx 0).pc == 5) := by decide +kernel
theorem test_bc_backward : after (.bc 0) (onWord 0x21C03FFF) (fun d => (d.ctx 0).pc == 16383) := by decide +kernel
theorem test_dbnz : regAfter (.dbnz 0) 0x26013FFE 2 = some 2 ∧ after (.dbnz 0) (onWord 0x26013FFE) (fun d => (d.ctx 0).pc == 16382) := by decide +kernel
theorem test_illegal_counts : after (.illegalWord 0) (onWord 0x12000000) (fun d => (d.engine 0).illegalCnt == 1 && (d.ctx 0).pc == 1) := by decide +kernel

/-- The worked cases of R126: ADD w2, w3 with MOV w3, w2; LD.B w4, [w1]+ with LD.B w6, [w1]+. -/
theorem test_paired_add_mov : regAfter (.pairedWord 0) 0x81230032 2 = some 8 ∧ regAfter (.pairedWord 0) 0x81230032 3 = some 3 := by decide +kernel
theorem test_paired_loads : after (.pairedWord 0) (onWord 0xC1414161)
    (fun d => ((d.ctx 0).rd 1).toNat == 1 && d.reg .RNK_PAIR_CONFLICT_CNT 0 == 1) := by decide +kernel

/-- R141: the exact results at the edges. -/
theorem test_edges_alu :
    aluRes 0x17 0#32 0x80000000#32 false = some ⟨0x80000000#32, some false, some true, some false, some true⟩ ∧
    aluRes 0x19 0#32 0x80000000#32 false = some ⟨0x80000000#32, some false, some true, none, some true⟩ ∧
    aluRes 0x1A 0#32 0#32 false = some ⟨32#32, some false, some false, none, none⟩ := by decide +kernel
theorem test_edges_add_sub_mul :
    aluRes 0x01 0x7FFFFFFF#32 1#32 false = some ⟨0x80000000#32, some false, some true, some false, some true⟩ ∧
    aluRes 0x03 0#32 1#32 false = some ⟨0xFFFFFFFF#32, some false, some true, some false, some false⟩ ∧
    aluRes 0x0E 0x10000#32 0x10000#32 false = some ⟨0#32, some true, some false, some true, some true⟩ ∧
    aluRes 0x10 0x80000000#32 0x80000000#32 false = some ⟨0x40000000#32, some false, some false, none, none⟩ ∧
    aluRes 0x0F 0xFFFFFFFF#32 0xFFFFFFFF#32 false = some ⟨0xFFFFFFFE#32, some false, some true, none, none⟩ := by decide +kernel
theorem test_edges_division :
    divRes true 0x80000000#32 0xFFFFFFFF#32 = (0x80000000#32, 0#32, true) ∧ divRes true (BitVec.ofInt 32 (-7)) 2#32 =
      (BitVec.ofInt 32 (-3), BitVec.ofInt 32 (-1), false) ∧ divRes true 7#32 (BitVec.ofInt 32 (-2)) = (BitVec.ofInt 32 (-3), 1#32, false) ∧
    divRes false 0xFFFFFFFF#32 2#32 = (0x7FFFFFFF#32, 1#32, false) ∧ divRes true 9#32 0#32 = (0#32, 9#32, false) := by decide +kernel
theorem test_edges_shift_rows :
    shiftRes .shl 0x80000001#32 0x120 = ⟨0#32, some true, some false, some true, none⟩ ∧
    shiftRes .sar 0x80000001#32 40 = ⟨0xFFFFFFFF#32, some false, some true, some true, none⟩ ∧
    shiftRes .ror 1#32 33 = ⟨0x80000000#32, some false, some true, some true, none⟩ := by decide +kernel
theorem test_edge_shift : shiftRes .sar 0x80000000#32 255 = ⟨0xFFFFFFFF#32, some false, some true, some true, none⟩ ∧
    (shiftRes .shl 1#32 32).c = some true ∧ (shiftRes .shl 1#32 33).c = some false ∧ (shiftRes .rol 1#32 32).c = none := by decide +kernel

/-- The worked bases of R144 and R145. -/
theorem test_modulo_worked : modNext 0x205F 96 1 = 0x2000 ∧ modNext 0x2058 96 1 = 0x2059 := by decide

/-! ### Ill-formed commands: each check of `Instr.wellFormed` refuses a term -/

/-- An image as it is read, whose PARTITION section asks for one bank of partition 2 and one of partition 3. -/
def image : Image := { (default : Image) with sections := [{ (default : Section) with type := tPartition, data := [0, 0, 0, 0, 1, 0, 1, 0, 0, 0, 0, 0, 0, 0] }] }

/-- Each check refuses its term, and takes what a sender can produce. -/
theorem test_ill_flash : (∀ i ∈ [Instr.imageRead ⟨false, [0#8]⟩, .flashVerify ⟨false, [0#8]⟩, .exchangeLoad ⟨false, [0#8]⟩ (0, [])], i.wellFormed = false) ∧
    ∀ l : List Byte, 0x2000000 < l.length → (Instr.imageRead ⟨true, l⟩).wellFormed = false :=
  ⟨by decide +kernel, fun l h => by simp [Instr.wellFormed, Flash.wellFormed]; omega⟩
theorem test_ill_frames : ∀ i ∈ [Instr.frameReceive 0 [] false none 0 0, .outFrameReceive 0 (List.replicate 1521 0#8) default, .pageFrameReceive 0 [0#8] default],
    i.wellFormed = false := by decide +kernel
theorem test_ill_can : ∀ f ∈ [{ (default : CanFrame) with dlc := 1 }, { (default : CanFrame) with id := 2 ^ 29 }, { (default : CanFrame) with brs := true }],
    (Instr.canFrameReceive 0 f false).wellFormed = false := by decide +kernel
theorem test_ill_heartbeats : (Instr.tandemHeartbeat { (default : Heartbeat) with node := 2048 } default).wellFormed = false ∧
    (Instr.networkHeartbeat { (default : Heartbeat) with sync := 4 } 0).wellFormed = false := by decide +kernel
theorem test_ill_host : ∀ i ∈ [Instr.pcieWrite 0 (List.replicate 65 0#32), .pcieRead 0 129, .pcieLinkChange true 0 1, .pcieLinkChange true 1 0,
    .pcieLinkChange true 3 1, .force 0 (some (List.replicate 1481 0#8)), .spiWrite 0 [] .whole, .spiWrite 0 (List.replicate 65 0#32) .whole],
    i.wellFormed = false := by decide +kernel
theorem test_well_formed : ∀ i ∈ [Instr.imageRead ⟨false, []⟩, .exchangeLoad ⟨true, [0#8]⟩ (0, []), .frameReceive 0 [0#8] false none 0 0, .canFrameReceive 0 default false,
    .tandemHeartbeat default default, .pageFrameReceive 0 (List.replicate 4096 0#8) default, .spiWrite 0 [0#32] .whole, .pcieWrite 0 [], .pcieRead 0 128,
    .pcieLinkChange true 2 3, .pcieLinkChange false 0 0, .force 0 none], i.wellFormed = true := by decide +kernel

/-! ### What each statement with hypotheses assumes is met: the machine and its registers -/

/-- Patrol's context 0 as the sender of register accesses, and the offset of a register copy. -/
def pat : Agent := .patrol 0
def at_ (r : Reg) (i j : Nat := 0) : BitVec 24 := BitVec.ofNat 24 (r.addr i j)

theorem test_meets_StepRunsTheFrontCommand : (⟨base, [.pinReset, .powerOnReset]⟩ : State).pending = .pinReset :: [.powerOnReset] ∧
    (st base).pending = [] := by decide
theorem test_meets_StepKeepsCanonicalForm : base.canonical = true ∧ ∃ t, step (st base) = .next t := by
  exact ⟨by decide +kernel, _, rfl⟩
theorem test_meets_RegisterAddressesDecode : Reg.present .RNK_ENG_STATUS 7 7 = true ∧ Reg.addr .RNK_ENG_STATUS 7 7 = 0x17007C := by
  decide +kernel
theorem test_meets_WritesFollowFieldRules : ((2 : Nat) < 2 ^ 32 ∧ (0xFFFFFFFF : Nat) < 2 ^ 32) ∧
    (∃ f ∈ Reg.info .RNK_ENG_CFG |>.fields, f.acc ≠ .ro) ∧ ∀ f ∈ Reg.info .RNK_ENG_STATUS |>.fields, f.acc = .ro := by decide +kernel
theorem test_meets_RegisterRowsComplete : let b := base.settle pat
    (((eng.setBankState 0 4).updEng 0 fun g => { g with stores := [⟨0, 0x1000, 4, 7, 1⟩] }).rowWaits (.engine 0 0) (regBase + (at_ .SMF_CFG).toNat) = true ∧
      (∀ a ∈ [regBase + (at_ .SMF_CFG).toNat, regBase + (at_ .SYS_DENY_CNT).toNat, 0xFF00000000, regBase + (at_ .CAN_CTRL 7).toNat], base.rowWaits pat a = false)) ∧
    (regAt (at_ .SMF_CFG).toNat = some (.SMF_CFG, 0, 0, 0) ∧ b.regGate pat.mid (at_ .SMF_CFG).toNat true = .page .SMF 0 ∧
      Reg.single .SMF_CFG = true) ∧
    (b.regGate pat.mid (at_ .SYS_DENY_CNT).toNat true = .page .SYS 0 ∧ Reg.counter .SYS_DENY_CNT = true) ∧
    rangeOf 0xFF00000000 = .unmapped ∧ ((at_ .CAN_CTRL 7).toNat % 4 = 0 ∧ let d := base.setFld .PWR_DOM_STAT_ON 0
      d.regGate pat.mid (at_ .CAN_CTRL 7).toNat true = .off ∧ (d.settle pat).regGate pat.mid (at_ .CAN_CTRL 7).toNat true = .off) := by decide +kernel
theorem test_meets_WordPairsComplete : Reg.high? .CAN_RING_BASE_LOW = some .CAN_RING_BASE_HIGH ∧ Reg.isNotice .CAN_RING_BASE_LOW = false ∧
    Reg.readOnly .CAN_RING_BASE_LOW = false ∧ Reg.readOnly .CAN_RING_BASE_HIGH = false ∧
    base.rowWaits pat (regBase + (at_ .CAN_RING_BASE_LOW).toNat) = false ∧ base.rowWaits pat (regBase + (at_ .CAN_RING_BASE_HIGH).toNat) = false ∧
    regAt (at_ .CAN_RING_BASE_LOW).toNat = some (.CAN_RING_BASE_LOW, 0, 0, 0) ∧ regAt (at_ .CAN_RING_BASE_HIGH).toNat = some (.CAN_RING_BASE_HIGH, 0, 0, 0) ∧
    ∀ w, let b := base.settle pat
      b.regGate pat.mid (at_ .CAN_RING_BASE_LOW).toNat w = .page .CAN 0 ∧ b.regGate pat.mid (at_ .CAN_RING_BASE_HIGH).toNat w = .page .CAN 0 := by
  decide +kernel
theorem test_meets_EnginesReachNoVault : (at_ .VLT_STATUS).toNat / 0x10000 = 2 ∧ rangeOf 0x200000000 = .sram ∧
    rangeOf 0x101010000 = .local 1 0x10000 := by decide +kernel

/-! ### Words -/

theorem test_meets_ImmediateWordsComplete : (∀ p ∈ [(0x02117FFF, SkzOp.addi), (0x04117FFF, .andi), (0x06110678, .ori), (0x08110001, .xori),
    (0x0A010005, .cmpi), (0x0C112820, .shifti), (0x0E112345, .lui), (0x10117FFD, .muli)], (onWord p.1).issues 0 p.2) ∧
    [Shift.shl, .shr, .sar, .rol, .ror][bits 0x0C112820 14 12]? = some .sar := by decide +kernel
theorem test_meets_AluWordCompletes : (onWord 0x00531E01).issues 0 .alu ∧ aluRes (bits 0x00531E01 4 0) 9#32 4#32 false ≠ none := by decide +kernel
theorem test_meets_FunctionTableHolds : aluRes 0x1D 0#32 0#32 false = none ∧ aluRes 0x1F 0#32 0#32 true = none := by decide
theorem test_meets_ShiftsFollowTheAmount : (32 : Nat) ≤ 255 % 256 ∧ (288 : Nat) % 256 = 32 := by decide
theorem test_meets_DivisionWordsComplete : (onWord 0x14221400).issues 0 .dvs ∧ (onWord 0x14221401).issues 0 .dvu := by decide +kernel
theorem test_meets_PairedWordCompletes : (onWord 0x81230032).issues 0 .paired ∧ bit 0x81230032 31 = true ∧
    let x := ((onWord 0x81230032).issued 0).ctx 0
    (shortOut (bits 0x81230032 30 16) false .first x).acc = none ∧ (shortOut (bits 0x81230032 14 0) false .second x).acc = none := by decide +kernel
theorem test_meets_IllegalWordIsCounted : (onWord 0x12000000).issues 0 .illegal := by decide +kernel
theorem test_meets_RingAndReversedBases : ((96 : Nat) ≤ 2 ^ 7 ∧ 2 ^ (7 - 1) < 96 ∧ 1 ≤ 96 ∧ 0x205F - 0x205F % 2 ^ 7 + 96 ≤ 2 ^ 32 ∧ 0x205F % 2 ^ 7 < 96) ∧
    ((3 : Nat) < 4) ∧ (2 ^ 2 ≤ 4 ∧ 4 < 65536) := by decide

/-- The base register w1 at 0 with each access form at a good address. -/
theorem test_meets_OwnMemoryWordsComplete :
    (∀ p ∈ [(0x1830A004, SkzOp.load), (0x1A30A004, .store), (0x1C309400, .loadm), (0x1E40B008, .storem)], (onWord p.1).issues 0 p.2 ∧
      let x := ((onWord p.1).issued 0).ctx 0
      ∀ va ∈ [(x.rd 1 + (BitVec.ofNat 12 p.1).signExtend 32).toNat, (x.rd 1).toNat], va < 0x10000 ∧ va % 4 = 0 ∧ x.walkFlt.lookup va = none) ∧
    [1, 2, 4, 8, 1, 2][bits 0x1830A004 14 12]? = some 4 ∧ [1, 2, 4, 8, 1, 2][bits 0x1C309400 14 12]? = some 2 ∧
    [1, 2, 4, 8, 1, 2][bits 0x1E40B008 14 12]? = some 8 := by decide +kernel
theorem test_meets_MisalignedAccessFaults :
    ∀ p ∈ [(0x1831A004, SkzOp.load), (0x1A31A004, .store), (0x1C319400, .loadm), (0x1E41A008, .storem)], (onWord p.1).issues 0 p.2 ∧
      [1, 2, 4, 8, 1, 2][bits p.1 14 12]? ≠ none ∧ (((onWord p.1).issued 0).ctx 0).rd 3 = 5#32 ∧ (5 + 4) % 4 ≠ 0 ∧ 5 % 2 ≠ 0 := by decide +kernel
theorem test_load_signed_byte : after (.load 0) ((eng.store 0x100010003 1 0x80).store 0x100000000 4 0x1890C000)
    (fun d => ((d.ctx 0).rd 9).toNat == 0) ∧ after (.load 0) ((eng.store 0x100010003 1 0x80).store 0x100000000 4 0x1890C003)
    (fun d => ((d.ctx 0).rd 9).toNat == 0xFFFFFF80) := by decide +kernel
theorem test_store_double : after (.storem 0) (onWord 0x1E40B008)
    (fun d => d.load 0x100010000 4 == 7 && d.load 0x100010004 4 == 2 && ((d.ctx 0).rd 1).toNat == 8) := by decide +kernel
theorem test_meets_StoresDrainAndDataReturns :
    (let d := eng.updEng 0 fun g => { g with stores := [⟨0, 0x1000, 4, 7, 1⟩] }
     ((d.engine 0).stores.find? fun e => e.ctx == 0) = some ⟨0, 0x1000, 4, 7, 1⟩ ∧ d.storeHeld 0 ⟨0, 0x1000, 4, 7, 1⟩ = false) ∧
    (let a := regBase + Reg.addr .CTL_COMMIT
     let d := eng.updEng 0 fun g => { g with stores := [⟨1, 0x1000, 4, 7, 1⟩, ⟨0, a, 4, 7, 2⟩] }
     ((d.engine 0).stores.find? fun e => e.ctx == 0) = some ⟨0, a, 4, 7, 2⟩ ∧ (⟨1, 0x1000, 4, 7, 1⟩ : StoreE) ∈ (d.engine 0).stores ∧ isSignal a = true) ∧
    let d := (onWord 0x1830A004).updCtx 0 fun x => { x with w := x.w.set 1 0x20000000#32, stall := .data 0x1830A004 [0x1000] 0 1 }
    d.alive 0 = true ∧ (d.ctx 0).stall = .data 0x1830A004 [0x1000] 0 1 ∧ ((outsOf 0x1830A004 (d.ctx 0)).map fun o => o.acc.map (·.store)) = [some false] ∧
      localTo 0 0x1000 = false ∧ d.covered 0 1 0x1000 4 = false ∧ rangeOf 0x1000 ≠ .regs ∧ d.bankWaits 0x1000 4 = false ∧
      rangeOf (regBase + 4) = .regs ∧ d.behindLoad 0 1 (regBase + 4) = false := by
  decide +kernel
theorem test_meets_BranchesComplete : (onWord 0x21C03FFF).issues 0 .bc ∧ (onWord 0x22100005).issues 0 .jal ∧ (onWord 0x24010000).issues 0 .jr ∧
    (onWord 0x26013FFE).issues 0 .dbnz := by decide +kernel
theorem test_meets_ContextWordsComplete : (∀ p ∈ [(0x36100000, SkzOp.mffl), (0x36010001, .mtfl), (0x36000002, .fence), (0x36000003, .yield),
    (0x32100002, .rdcr), (0x34010010, .wrcr)], (onWord p.1).issues 0 p.2) ∧
    ((base.updCtx 256 fun x => { x with st := .run }).store 0x200000000 4 0x38010000).issues 256 .setspace := by decide +kernel
theorem test_meets_EventsCompleteAndWake : (onWord 0x30300030).issues 0 .waitev ∧
    (let d := eng.updCtx 0 fun x => { x with st := .wait, evRd := 3, skz := { x.skz with armed := 0x10, timer := true } }
     d.alive 0 = true ∧ (d.ctx 0).st = .wait ∧ d.evReady 0 = 0x10) ∧
    let d := eng.updCtx 0 fun x => { x with skz := { x.skz with tmrCfg := 0x100, tmrNs := 0 } }
    d.alive 0 = true ∧ bit (d.ctx 0).skz.tmrCfg 8 = true ∧ (d.ctx 0).skz.fired = false ∧
      reached (d.ctx 0).skz.tmrNs (d.engNs 0 ((d.ctx 0).skz.tmrCfg % 4)) = true := by decide +kernel
theorem test_meets_CrcAndStuffingWordsComplete : ∀ p ∈ [(0x60010C00, SkzOp.crcCfg), (0x60010001, .crcSet), (0x60100002, .crcGet), (0x60010003, .crcUb),
    (0x60010004, .crcUh), (0x60010005, .crcUw), (0x60010006, .stfCfg), (0x60010C07, .stfPut), (0x60100C08, .stfGet), (0x60100009, .stfCnt)],
    (onWord p.1).issues 0 p.2 := by decide +kernel
theorem test_meets_FloatWordsComplete : (∀ p ∈ (List.range 16).zip [SkzOp.fadd, .fsub, .fmul, .fdiv, .fsqrt, .fmin, .fmax, .fma, .fcmp, .fabs, .fneg,
    .fcvtW, .fcvtWu, .fcvtFw, .fcvtFwu, .fcvtX], (onWord (0x70221800 + p.1)).issues 0 p.2 ∨ (onWord (0x70021800 + p.1)).issues 0 p.2) ∧
    (∀ w ∈ [0x72221800], (onWord w).issues 0 .fadd) := by decide +kernel
theorem test_meets_ContextWordFrame : after (.alu 0) (onWord 0x00531E01) (fun _ => true) ∧ after (.dvs 0) (onWord 0x14221400) (fun _ => true) := by
  decide +kernel
theorem test_meets_LoadStoreFrame : after (.load 0) (onWord 0x1830A004) (fun _ => true) ∧ after (.storem 0) (onWord 0x1E40B008) (fun _ => true) ∧
    (((onWord 0x1830A004).issued 0).translate 0 4 true).1 = .ok 0x100010004 := by decide +kernel

/-! ### Dispatch unit and programs -/

/-- Engine 0 as a control engine whose context 0 runs task 3, with operation word `w` at its code pointer, and bank 0 on. -/
def pgAt (w : Nat) : Dev := ((eng.setBankState 0 1).updCtx 0 fun x => { x with bound := 4, pgPc := 0x100000400, pgSp := 0x100, stall := .none })
  |>.updEng 0 (fun e => { e with pgf := true }) |>.store 0x100000400 4 w

/-- The run stands at operation word `w`, and its reads succeed. -/
abbrev standsAt (d : Dev) (op w : Nat) : Prop := d.stands 0 3 op w ((d.touch (midOf 0) (d.opWords 0 3 w)).pgReads 0 (d.opReads 3 w)).2

theorem test_meets_DispatchUnitCompletes : (∀ p ∈ pgfRows,
    let d := (pgAt 0).store 0x100000000 4 p.1
    d.issues 0 p.2 ∧ ((d.issued 0).ctx 0).bound = 3 + 1 ∧ ((d.issued 0).task 3).stop = false ∧ ((d.issued 0).task 3).fresh = false ∧
      (d.issued 0).anyWaits [(((d.issued 0).ctx 0).pgPc, 4)] = false ∧ (d.engine 0).stores = [] ∧
      (let t := (((d.issued 0).ctx 0).rd (bits p.1 19 15)).toNat % 16
       (d.issued 0).anyWaits [Dev.hdrRun ((d.issued 0).taskCode t), ((d.issued 0).taskCode t + 0x20, 4)] = false)) ∧
    ∀ p ∈ pgfRows, let d := ((pgAt 0).updCtx 0 fun x => { x with bound := 0 }).store 0x100000000 4 p.1
      d.issues 0 p.2 ∧ ((d.issued 0).ctx 0).bound = 0 := by decide +kernel
theorem test_meets_StackOperationsComplete : ∀ op ∈ [0, 0xC, 0xD, 0xE, 0xF, 0x10, 0x13, 0x1C, 0x20, 0x26, 0x29],
    standsAt (pgAt op) op op := by decide +kernel
theorem test_meets_TypedArithmeticHolds : ((1 : Nat) ≤ 1 ∧ (15 : Nat) ≤ 15 ∧ tyFloat 1 = false) ∧ tyVal 3 0xFFFFFFFF ≠ 0 ∧ tyVal 3 0 = 0 ∧
    tyBits 3 ≤ 64 := by decide
theorem test_meets_DataAndJumpOperationsComplete :
    ∀ op ∈ [1, 2, 3, 0xA, 0xB, 4, 6, 5, 7, 0x30, 0x31, 0x32, 0x33, 0x34], standsAt (pgAt op) op op := by decide +kernel
theorem test_meets_InputOutputOperationsComplete : ∀ op ∈ [8, 9, 0x38, 0x35],
    standsAt (pgAt op) op op ∧ oddTimer ((pgAt op).progSym ((pgAt op).taskCode 3) 0).type [] = false := by decide +kernel
theorem test_meets_TimersFollowTheirInput : ((0 : Int) ≤ 5 ∧ (5 : Int) < 2 ^ 62 ∧ (0 : Int) ≤ 10 ∧ (10 : Int) ≤ 15) := by decide
theorem test_pregaef_add_wraps : tyVal 1 ((tyArith 0x10 1 127 1).getD 0) = -128 ∨ tyVal 1 ((tyArith 0x10 1 127 1).getD 0) = 128 := by decide
theorem test_pregaef_jmp : after (.pregaefJmp 0) (pgAt 0xFFFFFE30) (fun d => (d.ctx 0).pgPc == 0x1000003F8) := by decide +kernel

/-! ### Resets, boot and Vault -/

/-- A device held by a reset of a kind. -/
def held (q : ResetKind) : Dev := base.updSys fun x => { x with resetRun := some q }

theorem test_meets_ResetsStartByPrecedence : base.sys.resetRun = none ∧ (held .POR).sys.resetRun = some .POR ∧ (held .PIN).sys.resetRun = some .PIN ∧
    base.reaches pat .SYS_RESET 0 0 true ∧ pat.mid = 0x40 ∧ base.sys.lockdown = false ∧ (held .SOFT).reaches pat .SYS_RESET 0 0 true ∧
    (let d := base.updBoot fun b => { b with grants := [0x1] }; d.reaches (.engine 0 0) .SYS_RESET 0 0 true ∧ (Agent.engine 0 0).mid ≠ 0x40) := by
  decide +kernel
theorem test_meets_DeviceResetLeaves : base.canonical = true ∧ ResetKind.TAMP ∈ [ResetKind.POR, .PIN, .TAMP, .WDOG, .SOFT] ∧
    Reg.present .MAC_CTRL 27 0 = true := by decide +kernel
theorem test_meets_RinkPortAndEndOfReset :
    (base.reaches pat .SYS_RINK_RST 0 0 true ∧ base.rinkOn 7 = true ∧ base.inRinkReset 7 = false ∧ base.sys.bootMode = .done) ∧
    ((base.setFld .PWR_DOM_STAT_ON 0).rinkOn 7 = false) ∧
    (let d := (base.setFld .RNK_STATUS_ENG_ONLINE 1 2).updSys fun x => { x with rinkRst := 4 }
     d.inRinkReset 2 = true ∧ d.rinkPasses 2 = true ∧ d.boot.rinkSeq.get 2 = []) ∧
    (base.reaches pat .MAC_CTRL 27 0 true ∧ base.flag .MAC_CTRL_RESET 27 = false) ∧ (held .WDOG).sys.resetRun = some .WDOG := by decide +kernel

/-- A device in its boot, the next phase being `n`. -/
def boot (n : Nat) : Dev := (base.updSys fun x => { x with bootMode := .start }).updBoot fun b => { b with next := n }

theorem test_meets_BootPhasesComplete :
    (base.sys.fabOn = true ∧ base.sys.resetRun = none ∧ base.sys.lockdown = false ∧ base.vlt.seedBad = false) ∧
    ((boot 1).bootAt 1 = true ∧ (boot 1).sys.bootMode = .start ∧ (boot 1).sys.resume = false ∧ (boot 1).fld .BOOT_STRAP_BOOT_SEL = 0) ∧
    (let d := ((boot 2).updVlt fun v => { v with keyRegs := some default }).updSys fun x => { x with bootMode := .selfTest }
     d.bootAt 2 = true ∧ d.vlt.keys = true) ∧
    (∀ n ∈ [3, 4, 5, 7, 8], let d := ((boot n).updBoot fun b => { b with image := some image }).updSys fun x => { x with bootMode := .selfTest }
      d.boot.image = some image ∧ d.bootAt n = true ∧ d.boot.seq = []) ∧
    (((boot 3).phase 3 4).resourcePower image 0 0 0).resourceMet image = false ∧
    ((((boot 3).setFld .SMF_STATUS_WORKING 2).phase 3 4).resourcePower image 0 0 0).resourceMet image = true ∧
    (((boot 4).phase 4 5).assignBanks image).piFits image = true ∧ (((boot 4).phase 4 5).assignBanks default).piFits default = false ∧
    base.reaches pat .BOOT_CTRL 0 0 true := by decide +kernel

/-- A device in phase 5 with one record of opcode `op` at address `a` to apply. -/
def seqAt (op a : Nat) : Dev := (boot 5).updBoot fun b => { b with image := some image, seq := [[⟨op, a, 0, 1, 1⟩]] }

theorem test_meets_RegisterSequenceCompletes :
    (∀ op ∈ [1, 2, 3], (seqAt op 0x1000040000).seqHead none = some ⟨op, 0x1000040000, 0, 1, 1⟩ ∧ RegRec.denied ⟨op, 0x1000040000, 0, 1, 1⟩ = false) ∧
    (seqAt 1 0x20).seqHead none = some ⟨1, 0x20, 0, 1, 1⟩ ∧ RegRec.denied ⟨1, 0x20, 0, 1, 1⟩ = true ∧
    (seqAt 4 0).seqHead none = some ⟨4, 0, 0, 1, 1⟩ ∧
    (let d := base.updSys fun x => { x with rinkRst := 4 }
     let d := d.updBoot fun b => { b with rinkSeq := b.rinkSeq.set 2 [⟨5, 0, 0, 0, 0⟩] }
     d.seqHead (some 2) = some ⟨5, 0, 0, 0, 0⟩) ∧
    ((seqAt 3 0x1000040000).seqPhase none |>.bootLoad 0x1000040000).1 &&& 1 = 1 := by decide +kernel


/-- A booted device waiting in Provisioning, with key slot 0 programmed and the keys derived; and the same in OWNED, a nonce outstanding. -/
def prov : Dev := (base.setFld .SYS_MODE_MODE Mode.provisioning.code).updVlt fun v =>
  { v with otp := { v.otp with slots := 1 }, keyRegs := some default, ephemeral := some 5 }
def owned : Dev := prov.updVlt fun v => { v with otp := { v.otp with stage := 1, wimg := some 9 }, nonce := some 7 }

/-- K_IMG 11 as a sender whose key pair is the base point sends it to the ephemeral key 5. -/
def sender : Nat := ecG.x * 2 ^ 384 + ecG.y
def sent : BitVec 768 × BitVec 480 := (BitVec.ofNat 768 sender, BitVec.ofNat 480 (wrapKey (sendKey 5 sender) 0 11))

theorem test_meets_ProvisioningCompletes : ((prov.inMode [.provisioning] = true ∧ prov.vlt.lifecycle = 0 ∧ prov.vlt.otp.slotEmpty 3 = true ∧
      prov.vlt.live (2 ^ 3) ≠ 0 ∧ prov.vlt.otp.wimg = none ∧ prov.vlt.otp.fails .wimg = false ∧ prov.vlt.ephemeral = some 5 ∧
      prov.vlt.keyRegs = some default ∧ prov.vlt.otp.debugKey = none ∧ prov.vlt.otp.fails .debugKey = false ∧ 31 &&& prov.vlt.otp.sensors = prov.vlt.otp.sensors ∧
      63 &&& prov.vlt.otp.limit = prov.vlt.otp.limit ∧ prov.vlt.otp.stage ≤ 2) ∧
    owned.inMode [.provisioning] = true ∧ owned.vlt.lifecycle ≠ 0 ∧ prov.vlt.nonce = none ∧ prov.vlt.refuses .setOwned = true ∧
      bit owned.vlt.otp.slots 0 = true ∧ owned.vlt.wimg.isSome = true) ∧ prov.vlt.sentKey sent = some 11 := by
  refine ⟨by decide +kernel, ?_⟩
  have hp : sent.1.toNat = sender := by decide +kernel
  have hs : sent.2.toNat = wrapKey (sendKey 5 sender) 0 11 := by
    rw [sent, BitVec.toNat_ofNat]; exact Nat.mod_eq_of_lt (wrapKey_lt _ _ _)
  have hv : ecValid sender = true := by decide +kernel
  have he : prov.vlt.ephemeral = some 5 := rfl
  simp only [VltSt.sentKey, he, hp, hs, hv, if_true, unwrapKey_wrapKey _ _ 11 (show 0 < 2 ^ 96 by decide)]
  rfl
theorem test_scrap : after (.scrap 0) prov (fun d => d.vlt.lifecycle == 2) := by decide +kernel
theorem test_meets_VaultRowsComplete :
    (let b := base.updTap fun t => { t with trst := true }
     b.sys.lockdown = false ∧ b.sys.resetRun = none ∧ b.tap.trst = true ∧ b.vlt.lifecycle = 0 ∧ b.tap.state = .reset ∧ base.tap.trst = false ∧
       base.debugBarred = true ∧
       (let d := b.updVlt fun v => { v with otp := { v.otp with stage := 1 }, challenge := some 3 }
        d.vlt.lifecycle = 1 ∧ d.vlt.lifecycle ≠ 2 ∧ d.vlt.dbgFails < 8 ∧ d.vlt.challenge = some 3) ∧
       (b.setFlag .VLT_STATUS_DEBUG_OPEN true).flag .VLT_STATUS_DEBUG_OPEN = true ∧ (b.updTap fun t => { t with state := .idle }).tap.state ≠ .reset) ∧
    (0x40000 / 0x10000 ≠ 2) ∧
    ((0x1F : Nat) &&& (base.setFld .VLT_TAMPER_EN_EN 0x1F).fld .VLT_TAMPER_EN_EN ≠ 0 ∧ base.sys.filling = false) ∧
    (base.updSys fun x => { x with filling := true, countDue := true }).sys.filling = true ∧ base.vlt.tamperCount ≤ 63 ∧
    (true ≠ base.flag .BOOT_STRAP_PAIR_RANK) ∧ base.domOn .swc = true ∧ base.txHeld = false ∧ (base.setFld .PAR_STATUS_LANES 1).fld .PAR_STATUS_LANES ≠ 0 ∧
    (base.updVlt fun v => { v with keyRegs := some { (default : KeyRegs) with img := some 4 } }).vlt.kImg = some 4 := by
  decide +kernel

/-- A unit with K_IMG 4 whose tandem lane 8 is locked in MODE 8. -/
def tandem : Dev := ((((base.setFld .PAR_STATUS_LANES 1).setFlag .SDS_STATUS_LOCK true 8).setFld .SDS_CFG_MODE 8 8).updVlt fun v =>
  { v with keyRegs := some { (default : KeyRegs) with img := some 4 } })

theorem test_meets_VaultRowsComplete_link : tandem.sys.lockdown = false ∧ tandem.sys.resetRun = none ∧ tandem.txHeld = false ∧
    tandem.fld .PAR_STATUS_LANES ≠ 0 ∧ tandem.tandemLane = true ∧ tandem.vlt.kImg = some 4 ∧
    let k := tandem.sakTdm 4 0
    let own := k.ownStart
    let e := k.tandemSend false [own.bytes k.vlt.tandemNonce]
    let f := { own with rank := !own.rank }
    e.tandemLoops = false ∧ f.rank ≠ own.rank ∧ f.buildId = own.buildId ∧ f.rollback = own.rollback ∧ f.digest = own.digest ∧
      ∃ g, e.tandemOk (f.bytes 0) g = true := by
  refine ⟨by decide +kernel, by decide +kernel, by decide +kernel, by decide +kernel, by decide +kernel, by decide +kernel, by decide +kernel, ?_, rfl, rfl, rfl, _,
    Dev.tandemOk_seal _ _ 1 _ rfl⟩
  simp

/-! ### Engines, tables, memory, lifts, mailboxes -/

/-- Rink 0 ready with engines 0 and 1, all its accept bits and firmware of every number; bank 0 on; context 0 in RUN. -/
def rnk : Dev := ((((eng.setFld .RNK_STATUS_ENG_ONLINE 3 0).setFlag .RNK_STATUS_READY true 0).setReg .RNK_FWMASK 0xFFFF 0).setFld .RNK_ENG_CFG_ACCEPT 0xFFFF 0 0)
  |>.setFld .RNK_ENG_CFG_ACCEPT 0xFFFF 0 1 |>.setBankState 0 1

theorem test_meets_QueueRowsComplete :
    (rnk.reaches pat .RNK_PUSH 0 7 true ∧ rnk.routeFails 0 = false ∧ rnk.engOnline 0 0 = true ∧ bit (rnk.reg .RNK_FWMASK 0) 0 = true ∧
      (rnk.queue 0).length < 64 ∧ ((rnk.stagePush 0 7 pat.mid pat.ctx 0).takeStaged 0 pat.mid pat.ctx).1.engine = 0 ∧
      ((rnk.stagePush 0 7 pat.mid pat.ctx 0).takeStaged 0 pat.mid pat.ctx).1.fwid = 0) ∧
    (let d : Dev := { rnk with eng := { rnk.eng with waiting := rnk.eng.waiting.set 0 [(.slm, [], false)] } }
     d.eng.waiting.get ((0 : Fin 64) : Nat) = (.slm, [], false) :: [] ∧ d.routeFails 0 = false ∧ d.engOnline 0 (Job.engine []) = true ∧
       bit (d.reg .RNK_FWMASK 0) (Job.fwid []) = true ∧ (d.queue 0).length < 64) ∧
    (let d : Dev := { rnk with eng := { rnk.eng with queue := rnk.eng.queue.set 0 [(0, [])] } }
     (0, []) ∈ d.queue ((0 : Fin 65) : Nat) ∧ 1 ∈ d.idleCtx 0 ∧ d.accepts 1 (Job.prio []) = true) := by decide +kernel

/-- Context 4 of engine 1 seeks work, its window open and every stage of stealing enabled; rink 1 is ready. -/
def thief : Dev := ((((rnk.setReg .RNK_CFG 0xFFFFFFFF 0).updCtx 4 fun x => { x with window := true }).setFld .RNK_STATUS_ENG_ONLINE 3 1).setFlag .RNK_STATUS_READY true 1)

theorem test_meets_StealRowsComplete :
    (let d := thief.setQueue 0 [(0, [])]
     d.seeks 4 = true ∧ d.localVictim 4 = some 0 ∧ d.queue 0 = [] ++ (0, []) :: [] ∧ d.stealable 4 (0, []) = true) ∧
    ((thief.ctx 4).st = .idle ∧ isPatrol 4 = false) ∧
    (let d : Dev := { thief with eng := { thief.eng with asks := [⟨4, 1, [0], false⟩] } }
     (∀ x ∈ d.eng.asks, x.thief = 4 → x.sent = false) ∧ d.crossVictim 4 = none ∧ d.patrolStage 4 = false ∧ ∀ x ∈ d.eng.asks, x.thief = 4 → x = ⟨4, 1, [0], false⟩) ∧
    (let d := thief.setQueue 13 [(0, [])]
     let q : Ask := ⟨4, 1, [3, 2, 1, 0].filter (d.accepts 4), true⟩
     (∀ x ∈ d.eng.asks, x.thief ≠ 4) ∧ d.asksNow 4 = true ∧ d.crossVictim 4 = some q.victim ∧ q.victim < 8 ∧ d.queue (1 * 8 + 5) = [] ++ (0, []) :: [] ∧
       Job.pinned [] = false ∧ q.prios.contains (Job.prio []) = true ∧ bit (d.reg .RNK_FWMASK 0) (Job.fwid []) = true ∧
       ∀ k < 8, k ≠ 5 → d.queue (1 * 8 + k) = []) ∧
    (let d : Dev := { thief with eng := { thief.eng with asks := [⟨4, 1, [0], true⟩] } }
     (d.eng.asks.find? fun x => x.thief == 4 && x.sent) = some ⟨4, 1, [0], true⟩ ∧ ∀ k < 8, d.queue (1 * 8 + k) = []) ∧
    (let d := thief.setQueue 64 [(0, [])]
     d.asksNow 4 = true ∧ d.crossVictim 4 = none ∧ d.patrolStage 4 = true ∧ d.eng.patQ = [] ++ (0, []) :: [] ∧
       ([3, 2, 1, 0].filter (d.accepts 4)).contains (Job.prio []) = true) ∧
    (let d : Dev := { thief with eng := { thief.eng with asks := [⟨4, 8, [0], true⟩] } }
     (d.eng.asks.find? fun x => x.thief == 4 && x.sent) = some ⟨4, 8, [0], true⟩ ∧ d.eng.patQ = []) ∧
    (let d : Dev := { thief with eng := { thief.eng with steals := [⟨4, 1, some []⟩] } }
     d.eng.steals = [] ++ ⟨4, 1, some []⟩ :: [] ∧ ((d.count .RNK_XSTEAL_CNT).ctx 4).st = .idle ∧ (d.count .RNK_XSTEAL_CNT).evReady 4 = 0 ∧
       (d.count .RNK_XSTEAL_CNT).accepts 4 (Job.prio []) = true) := by decide +kernel
theorem test_meets_FaultLossAndTlbRowsComplete :
    (let d := rnk.updCtx 0 fun x => { x with st := .faulted }
     d.reaches pat .RNK_CTX_CTRL (rinkOf 0) (0 % 32) true ∧ (d.ctx 0).st = .faulted ∧ d.hasLift 0 = false) ∧
    (let d := base.updCtx 256 fun x => { x with st := .faulted }
     d.reaches pat .PAT_CTX_CTRL (256 % 4) 0 true ∧ (d.ctx 256).st = .faulted) ∧
    (rnk.engOnline 0 1 = true ∧ rnk.rinkOn 0 = true ∧ rnk.inRinkReset 0 = false ∧ rnk.reaches pat .RNK_ENG_CFG 0 1 true) ∧
    (let d := rnk.updCtx 0 fun x => { x with stall := .walk 0x20000000 }
     (d.ctx 0).stall = .walk 0x20000000 ∧ (d.eng.walks.filter (·.rink == rinkOf 0)).length < 4) ∧
    rnk.reaches pat .RNK_TLB_INV 0 0 true ∧ ∀ w ∈ rnk.eng.walks, w.rink = 0 → w.dead = false := by decide +kernel

/-- Tables of SPACE 1 at 0x1000: 4 MiB leaves at index 0 (all rights) and 1 (reserved bit 4 set), nothing at index 2. -/
def tabs : Dev := ((rnk.setReg .RNK_SPACE_ROOT_LOW 0x1000 0 1).setReg .RNK_SPACE_ROOT_HIGH 0x100 0 1 |>.store 0x1000 8 0xF).store 0x1008 8 0x1F

/-- A walk that waits in those tables for context 0. -/
theorem test_meets_WalkComplete :
    let w : Walk := { owner := 0, rink := 0, space := 1, va := 0x10000, dead := false }
    let d := ({ tabs with eng := { tabs.eng with walks := [w] } } : Dev).updCtx 0 fun x => { x with stall := .walking }
    (d.eng.walks.find? fun x => midOf x.owner == midOf 0) = some w ∧ (d.ctx 0).stall = .walking ∧
    d.walkWaits w.va (d.rootOf w.rink w.space) = false ∧
    let e := ({ d with eng := { d.eng with walks := d.eng.walks.erase w } }).updCtx 0 fun x => { x with stall := .none }
    (match e.walk (midOf 0) w.space w.va (e.rootOf w.rink w.space) with
      | (.ok t, _) => t.big
      | _ => false) = true := by decide +kernel
theorem test_meets_WalksFollowTheTables : (0x10000 : Nat) < 2 ^ 32 ∧ (tabs.rootOf 0 1).en = true ∧ (tabs.rootOf 0 2).en = false ∧
    (match (tabs.walk 0 1 0x12345 (tabs.rootOf 0 1)).1 with
      | .ok t => t.addr 0x12345 == 0x12345
      | _ => false) = true ∧
    (tabs.readEntry 0 0x1008).1 = some 0x1F ∧ bits 0x1F 11 4 ≠ 0 ∧ (tabs.readEntry 0 0x1010).1 = some 0 ∧
    (tabs.readEntry 0 0x100001000).1 = none := by decide +kernel

/-- Bank 3 in another state, spare or under a test. -/
theorem test_meets_MemoryAndGroomerRowsComplete :
    (rnk.errOf 0 ≤ 2 ∧ rnk.bankServes 0 = true ∧ rnk.bankState 0 ≠ 4 ∧ rnk.grantTurn 0 3 0x18 = true ∧ rnk.grantTurn 0 4 0x18 = false ∧ rnk.bankServes 1 = false ∧
      (rnk.setBankState 0 4).bankState 0 = 4) ∧
    (rnk.reaches pat .PWR_BANK_REQ 0 0 true ∧ ((rnk.bankState 0, bits 0x200 9 8), 3) ∈ [(((1 : Nat), (2 : Nat)), 3)] ∧
      (rnk.bankState 1, bits 0x201 9 8) ∉ [(1, 2), (2, 1), (1, 0), (2, 0), (0, 1)] ∧ bits 0x201 9 8 ≠ 3) ∧
    (∀ p ∈ [(3, 2), (4, 1), (5, 0), (6, 1)], ((rnk.setBankState 255 p.1).bankState 255, p.2) = p) ∧
    (let d := (rnk.setBankState 3 1).setPart 3 7
     d.reaches pat .GRM_CMD 0 0 true ∧ d.flag .GRM_STATUS_BUSY = false ∧ d.bankState 3 = 1 ∧ d.partOf 3 = 7) ∧
    (rnk.fld .GRM_BANK_ROWS_USED 0 ≤ 8 ∧ rnk.fld .GRM_BANK_COLS_USED 0 ≤ 2 ∧ (rnk.setFld .GRM_BANK_ROWS_USED 8 0).fld .GRM_BANK_ROWS_USED 0 = 8) ∧
    let d := rnk.setFlag .GRM_SCRUB_CFG_EN true
    d.flag .GRM_SCRUB_CFG_EN = true ∧ d.flag .GRM_STATUS_BUSY = false ∧ d.bankState (d.fld .GRM_SCRUB_POS_BANK) = 1 ∧
      d.grantTurn (d.fld .GRM_SCRUB_POS_BANK) 14 0 = true ∧ d.fld .GRM_SCRUB_POS_WORD < 65535 ∧ d.errOf 0 = 0 := by decide +kernel
theorem test_meets_GroomerTests : ({ rnk with grm := .preserving 1024 true false } : Dev).grm = .preserving 1024 true false ∧
    ({ rnk with grm := .destructive } : Dev).grm = .destructive := ⟨rfl, rfl⟩

/-- Lift 0 in a state and stage, with a descriptor that copies 8 bytes from 0x200 to 0x100 by physical addresses and is the last. -/
def lifted (state : Nat) (stage : LiftStage) : Dev := (rnk.setFld .LFT_STATUS_STATE state 0).updLift 0 fun x =>
  { x with stage := stage, desc := [0x200#32, 0x300#32, 0x100#32, 0x100#32, 8#32, 0#32, 0#32, 0#32] }

theorem test_meets_LiftRowsComplete :
    (let d := (rnk.setStage (pairKey 0 (Reg.addr .LFT_DESC_LOW 0)) (some 0x40#32)).updBoot fun b => { b with grants := [0xFFFFFFFF] }
     d.reaches (.engine 0 0) .LFT_DESC_HIGH 0 0 true ∧ d.loStage.get (pairKey (Agent.engine 0 0).mid (Reg.addr .LFT_DESC_LOW 0)) = some 0x40#32 ∧
       d.fld .LFT_STATUS_STATE 0 = liftIdle ∧ d.flag .LFT_STATUS_RING 0 = false) ∧
    (let d := (((lifted liftRunning .fetch).store 0x40 4 0x200).store 0x44 4 0x300).store 0x4C 4 0x100 |>.setReg .LFT_CUR_LOW 0x40 0 |>.setReg .LFT_CFG 0xFF
     let r := d.physRead (liftMid 0) (d.reg64 .LFT_CUR_LOW .LFT_CUR_HIGH 0) 32
     let e := r.2.updLift 0 fun y => { y with desc := wordsOf 8 r.1.data, stage := .blocks }
     d.fld .LFT_STATUS_STATE 0 = liftRunning ∧ (d.lift 0).stage = .fetch ∧ d.flag .LFT_STATUS_RING 0 = false ∧ d.bankWaits 0x40 32 = false ∧ r.1.ue = false ∧ e.descLegal 0 (e.lift 0) = true) ∧
    (let d := lifted liftRunning .blocks
     let x := d.lift 0
     x.stage = .blocks ∧ x.srcPhys = true ∧ x.dstPhys = true ∧ x.op < 2 ∧ d.fld .LFT_PROG_BYTES 0 < x.len ∧ x.dst40 = 0x100 ∧ x.src40 = 0x200 ∧
       d.bankServes (bankOf 0x207) = true ∧ d.bankState 0 ≠ 4 ∧ d.errOf 0x207 = 0 ∧ x.last = true) ∧
    ((lifted liftRunning .ended).lift 0).stage = .ended ∧
    (∀ q ∈ [liftFaulted, liftRunning], (lifted q .blocks).reaches pat .LFT_CTRL 0 0 true ∧ (lifted q .blocks).liftMaster 0 pat.mid pat.ctx = true ∧
      (lifted q .blocks).fld .LFT_STATUS_STATE 0 = q) := by decide +kernel
theorem test_lift_block : after (.liftBlock 0) ((lifted liftRunning .blocks).store 0x200 8 0x1122334455667788) (fun d =>
    d.load 0x100 8 == 0x1122334455667788 && (d.lift 0).stage == .ended) := by decide +kernel

/-- Mailbox 3 full, held in a snapshot by Patrol, its lock held by Patrol. -/
def mbx : Dev := ((base.setFlag .MBX_STATUS_FULL true 3).mbxSnap 3 (.notice 0x40 0)).setReg .MBX_LOCK 0x80000040 3

theorem test_meets_MailboxRowsComplete :
    (∀ w, base.reaches pat .MBX_NOTICE_LOW 3 0 w ∧ base.reaches pat .MBX_NOTICE_HIGH 3 0 w ∧ base.reaches pat .MBX_LOCK 3 0 w) ∧
    (bits 0x100 23 8 ≠ 0 ∧ base.flag .MBX_STATUS_FULL 3 = false ∧ mbx.flag .MBX_STATUS_FULL 3 = true) ∧
    (let d := mbx.setReg .MBX_CFG 0x40 3
     d.isReceiver 3 pat.mid pat.ctx = true ∧ d.mbx.snap.get 3 = .notice pat.mid pat.ctx ∧ base.mbx.snap.get 3 = .none) ∧
    (base.reaches pat .MBX_FLUSH 0 0 true ∧ base.reaches pat .MBX_DB_SET 31 0 true ∧ base.reaches pat .MBX_DB 31 0 true ∧
      base.reaches pat .MBX_LOCK_FORCE 0 0 true ∧ pat.mid = 0x40) ∧
    (base.flag .MBX_LOCK_HELD 3 = false ∧ mbx.flag .MBX_LOCK_HELD 3 = true ∧ mbx.fld .MBX_LOCK_OWNER 3 = pat.mid) := by decide +kernel
theorem test_meets_MsixUnmask : let d : Dev := ((base.setFlag .HST_CFG_PCIE_EN true).setFlag .HST_STATUS_LINK_UP true).updHost fun h => { h with pba := 2 }
    d.pcieUp = true ∧ d.host.fnMask = false ∧ bit d.host.pba ((1 : Fin 32) : Nat) = true ∧ (∀ x < 32, x ≠ 1 → bit d.host.pba x = false) ∧
    let e := d.updHost fun h => { h with fnMask := true, unmasked := 2 }
    e.pcieUp = true ∧ e.host.fnMask = true ∧ bit e.host.unmasked 1 = true := by
  decide +kernel

/-! ### Ports, switch core, time, Slalom, CAN -/

/-- A good frame of 64 bytes: EtherType 0x0800 and zeros, with its FCS; and a PAUSE frame of 7 quanta. -/
def good : Frame := Frame.withFcs (List.replicate 12 0#8 ++ [8#8] ++ List.replicate 47 0#8)
def pause : Frame := Frame.withFcs (List.replicate 12 0#8 ++ [0x88#8, 0x08#8, 0#8, 1#8, 0#8, 7#8] ++ List.replicate 42 0#8)

/-- MACs 4 and 5 enabled with links at 1 Gbit/s, and a frame in cell 0 whose one copy waits in class 3 of MAC 4. -/
def port : Dev := ([4, 5].foldl (fun (d : Dev) n => ((((d.setFlag .MAC_CFG_EN_RX true n).setFlag .MAC_CFG_EN_TX true n).setFlag .MAC_STATUS_LINK true n).setFld
  .MAC_STATUS_SPEED 1 n).setFld .MAC_CFG_MAXLEN 1522 n) (base.setBankState 0 1))
def copy : Copy := ⟨0, 3, false, .none, none⟩
def queued : Dev := (port.updFrame 0 fun x => { x with cells := [0], refs := 1, flen := 60 }).updSwc fun w => { w with egr := w.egr.set 4 [copy] }

theorem test_meets_PortRowsComplete :
    (port.macReceives 4 = true ∧ port.looped 4 = false ∧ good.length = 64 ∧ 64 ≤ port.fld .MAC_CFG_MAXLEN 4 ∧ Frame.fcsOk good = true ∧ Frame.lenError good = false) ∧
    ((good.drop 1).length < 64 ∧ 64 ≤ (List.replicate 1523 0#8).length ∧ 1522 < (List.replicate 1523 0#8).length ∧
      Frame.fcsOk (List.replicate 64 0#8) = false) ∧
    (Frame.fcsOk pause = true ∧ Frame.etype pause = 0x8808 ∧ Frame.be pause (Frame.typeAt pause + 2) 2 = 1 ∧ pause.length = 64 ∧ Frame.lenError pause = false ∧ (port.setFlag .MAC_FC_CFG_RX_EN true 4).flag .MAC_FC_CFG_RX_EN 4 = true) ∧
    (let d := (port.setFld .MAC_FC_CFG_MODE 1 4).setFlag .SWC_PORTBP_XOFF true 4
     d.fld .MAC_FC_CFG_MODE 4 = 1 ∧ d.flag .SWC_PORTBP_XOFF 4 = true) ∧
    (let m := queued.creditStep 4 0
     let e := m.oversize 4
     (m.macSt 4).sel = none ∧ m.macSends 4 = true ∧ m.traverse 4 = false ∧ 0 ≤ m.fld .SWC_TXCFG_LEAD_NS ∧ e.eligible 4 3 0 = true ∧
       (∀ x, x < 8 → 3 < x → e.eligible 4 x 0 = false) ∧ e.headCopy 4 3 = some copy ∧
       (e.dequeue 4 copy).txLen 4 copy ≤ (e.dequeue 4 copy).fld .MAC_CFG_MAXLEN 4) ∧
    (let m := (queued.updMac 4 fun x => { x with sel := some copy }).creditStep 4 0
     let e := m.updMac 4 fun m => { m with sel := none }
     (m.macSt 4).sel = some copy ∧ (m.macSt 4).tx = none ∧ m.macSends 4 = true ∧ m.stopped 4 3 = false ∧
       (Dev.readCells (e.frame 0).cells (e.frame 0).flen e).1.ue = false ∧ queued.fld .TMU_PORT_TC_MODE 4 = 0 ∧ queued.flag .MAC_SEC_CFG_EN 4 = false ∧
       copy.red ≠ .slmFwd) ∧
    (((queued.updMac 4 fun x => { x with tx := some copy }).creditStep 4 0).macSt 4).tx = some copy ∧
    (base.reaches pat .TPHY_CTRL 7 0 true ∧ (base.setFlag .TPHY_CFG_EN true 7).flag .TPHY_CFG_EN 7 = true) ∧
    (let d := port.setFlag .MAC_TRAV_EN true 4
     d.traverse 4 = true ∧ d.flag .MAC_CFG_EN_RX 4 = true ∧ d.travUp 4 = true ∧ d.flag .MAC_CTRL_RESET 4 = false ∧ (d.macSt 4).travOn = false ∧
       d.travUp 5 = true ∧ d.flag .MAC_CFG_EN_TX 5 = true ∧ d.flag .MAC_CTRL_RESET 5 = false ∧ d.txHeld = false ∧ 2 * travBase 4 + 1 - 4 = 5 ∧
       d.rinkOn (d.travRing 4).1 = true ∧ d.looped 4 = false) := by decide +kernel
theorem test_meets_PortRowsComplete_lines :
    (let d := port.setFlag .MAC_TRAV_EN true 4
       ∀ x ∈ [((true, some 5) : Bool × Option Nat), (false, none)],
       let e := d.updMac 4 fun m => { m with travOn := true, trav := some ⟨0, 0, 1522, good, good, x.1, x.2⟩ }
       (e.macSt 4).travOn = true ∧ (e.macSt 4).trav = some ⟨0, 0, 1522, good, good, x.1, x.2⟩ ∧ good.length = 64 ∧ 64 ≤ 1522 ∧
         Frame.fcsOk good = true ∧ good.length + 3 ≤ 1522 ∧ d.looped 4 = false) ∧
    ((port.secLook 4 good none).1 = good ∧ (port.secLook 4 good none).2.isSome = false ∧ lineFcsOk good none = true ∧
      let d := port.setFld .SDS_CTRL_LOOP 1 (laneOf 4).get!
      d.macReceives 4 = true ∧ d.looped 4 = true ∧ (d.macSt 4).loop = []) := by decide +kernel
theorem test_frame_received : after (.frameReceive 4 good false none 0 0) port (fun d => d.reg .MAC_RX_OK_CNT 4 == 1) := by decide +kernel
theorem test_pause_taken : after (.macControlFrame 4 pause 0) (port.setFlag .MAC_FC_CFG_RX_EN true 4) (fun d => (d.macSt 4).quanta == 7) := by
  decide +kernel

/-- Table data words for an entry with every key bit 0. -/
theorem test_meets_SwitchRowsComplete :
    ((base.flag .MAC_STATUS_LINK 27 = false) ∧ (base.setFld .SWC_CFG_DOWN_FLUSH_MS 1).fld .SWC_CFG_DOWN_FLUSH_MS ≠ 0) ∧
    (base.reaches pat .SWC_TBL_CMD 0 0 true ∧ base.flag .SWC_TBL_STATUS_BUSY = false ∧
      (base.setFlag .SWC_TBL_STATUS_BUSY true).flag .SWC_TBL_STATUS_BUSY = true ∧ (0 : Nat) < tblSize 0 ∧ base.tblFind 0 base.tblData = none ∧
      bits 0 5 3 = 0) ∧
    (base.reaches pat .SWC_FREE 0 0 true ∧ portOfMid pat.mid = some 36 ∧ (base.updSwc fun w => { w with held := w.held.set 36 [⟨5, false, none, []⟩] }).swc.held.get 36 = [⟨5, false, none, []⟩] ∧
      bits 5 26 0 = 5) ∧
    (base.reaches pat .SWC_INJ 3 0 true ∧ injLegal 36 ⟨0, 64 * 256, 0, 0, 0⟩ = true ∧ (base.swc.inj.get 36).length < 64) ∧
    (base.domOn .swc = true ∧ (let d := base.setFlag .SWC_GCL_CFG_EN true 27
      d.flag .SWC_GCL_CFG_EN 27 = true ∧ d.dueAt islSwitch (d.fld .SWC_GCL_CFG_TB 27) (d.swc.gcl.get 27).next = .due ∧
        d.fld .SWC_GCL_STAT_OPER_BANK 27 = 0 ∧ d.reaches pat .SWC_GCL_SW 27 0 true) ∧ base.flag .SWC_GCL_CFG_EN 27 = false) := by decide +kernel
theorem test_meets_CopyDelivery :
    (let d := (base.updSwc fun w => { w with egr := w.egr.set 36 [copy] }).setReg .SWC_IPORT 0xFFFFFFFF 8
     d.heldCells 36 < d.fld .SWC_IPORT_HOLD_MAX 8 ∧ takeCopy 3 (d.swc.egr.get 36) = some (copy, []) ∧ d.portWaits 36 = false ∧ (d.frame 0).flen < 0x4000 ∧
       d.freeMbox 36 ≠ none) ∧
    (let d : Dev := ((base.setReg .SWC_IPORT 0xFFFFFFFF 0).setReg .SWC_PORTTH 0xFFFFFFFF 28).setBankState 0 1
     let d := d.updSwc fun w => { w with egr := w.egr.set 28 [copy], inj := w.inj.set 36 [⟨0, 64 * 256, 0, 0, 0⟩] }
     d.heldCells 28 < d.fld .SWC_IPORT_HOLD_MAX 0 ∧ (d.push 0 (d.copyJob 28 copy) (some (.swc 28 false))).1 = .refused ∧
       rangeOf 63 = .shared ∧ (d.physRead 0x70 0 64).1.ue = false) := by decide +kernel
theorem test_meets_SwitchAccountsHold : ((5 : Nat) < 65536 ∧ ((default : SeqRec).accept 5).2 = true ∧
      (⟨true, 100, 1⟩ : SeqRec).taken = true ∧ 32 ≤ ((200 : Nat) + 65536 - 100) % 65536) ∧
    (let d := base.setFld .SWC_RED_MODE 1 0
     d.redSeq 0 (good.dropLast ++ [0#8]) = none ∨ d.redSeq 0 (good.dropLast ++ [0#8]) ≠ none) ∧
    (0 < ({ (default : PortUse) with hdrm := 1, pool := 1 } : PortUse).hdrm) ∧ (3 : Nat) < 4 := by decide +kernel

theorem test_meets_TimeRowsComplete :
    (base.sys.resetRun ≠ some .POR ∧ base.sys.resetRun ≠ some .PIN ∧ base.tmu.defer = [] ∧ base.swc.capQ = [] ∧ base.pers.counts = []) ∧
    (let d : Dev := { base with tmu := { base.tmu with tb := base.tmu.tb.set 2 (tbMod - 1) } }
     d.tbCarries 2 = true ∧ d.tmu.adv.get 2 = false ∧ takeDefer 2 d.tmu.defer = none) ∧
    (let d := (base.setStage (pairKey 0x40 (Reg.addr .TMU_TB_LOW 3)) (some 9#32)).setStage (pairKey 0x40 (Reg.addr .TMU_TB_STEP_LOW 3)) (some 9#32)
     d.reaches pat .TMU_TB_HIGH 3 0 true ∧ d.loStage.get (pairKey pat.mid (Reg.addr .TMU_TB_LOW 3)) = some 9#32 ∧
       d.reaches pat .TMU_TB_STEP_HIGH 3 0 true ∧ d.loStage.get (pairKey pat.mid (Reg.addr .TMU_TB_STEP_LOW 3)) = some 9#32 ∧ d.tmu.adv.get 3 = false) ∧
    (base.reaches pat .TMU_TB_LOW 3 0 false ∧ base.reaches pat .TMU_TB_OFS 3 0 true) ∧
    (let d := base.setFld .TMU_SRV_CFG_SRC 1 3
     (d.setFlag .TMU_SRV_CFG_EN true 3).srvTakes 3 1 = true ∧ base.srvTakes 3 1 = false) ∧
    (let d := (base.setFld .TMU_SRV_STAT_STATE srvLocked 3).setFld .TMU_SRV_CFG_HOLD_MS 0 3
     d.fld .TMU_SRV_STAT_STATE 3 ∈ [srvAcq, srvLocked] ∧ d.fld .TMU_SRV_CFG_HOLD_MS 3 * 500000 ≤ d.tmu.hold.get 3 ∧ d.tmu.adv.get 3 = false ∧
       ¬ (d.setFld .TMU_SRV_CFG_HOLD_MS 1 3).fld .TMU_SRV_CFG_HOLD_MS 3 * 500000 ≤ d.tmu.hold.get 3) ∧
    (let d : Dev := { base with tmu := { base.tmu with copies := base.tmu.copies.set 7 [default] } }
     base.tmu.copies.get 7 = [] ∧ d.tmu.copies.get ((1 : Fin 11) * 4 + 3) = default :: []) ∧
    (let d : Dev := { base with tmu := { base.tmu with evt := base.tmu.evt.set 3 [⟨1, 2, true⟩], txts := base.tmu.txts.set 27 [default] } }
     d.tmu.evt.get 3 = ⟨1, 2, true⟩ :: [] ∧ d.tmu.txts.get 27 = default :: []) ∧
    (let d := base.setReg .TMU_EVT_CFG 0xFF 3
     d.fld .TMU_EVT_CFG_MINW 3 ≤ 2 ^ 32 - 1 ∧ bit ((base.setFld .TMU_EVT_CFG_EDGE 3 3).fld .TMU_EVT_CFG_EDGE 3) 1 = true) ∧
    (base.reaches pat .TMU_EVT_LOW 3 0 false ∧ base.reaches pat .TMU_TXTS_LOW 27 0 false) ∧
    (let d := (base.setFlag .TMU_STATUS_REF10_PRESENT true).setFlag .TMU_OUT_CFG_EN true 3
     d.flag .TMU_STATUS_REF10_PRESENT = true ∧ (∀ k < 4, d.fld .TMU_SRV_CFG_SRC k ≠ 4) ∧ d.flag .TMU_OUT_CFG_EN 3 = true ∧
       ({ d with tmu := { d.tmu with refRuns := true } } : Dev).tmu.refRuns = true ∧
       (d.tmu.outs.get 3).pulse = false ∧ (d.tmu.outs.get 3).next ≤ 0 ∧
       (let e := d.updOut 3 fun x => { x with pulse := true }
        (e.tmu.outs.get 3).pulse = true ∧ (e.tmu.outs.get 3).fall ≤ 0) ∧
       0 < ((d.updOut 3 fun x => { x with next := 5 }).tmu.outs.get 3).next) := by decide +kernel
theorem test_time_base_tick : (match step (st base) with
    | .next t => t.dev.tbVal 0 == base.reg .TMU_TB_INCR 0
    | _ => false) = true := by decide +kernel

/-- A controller in a Slalom state, in a cycle of bank 0 of one gate, its own, at offset 0. -/
def slm (state : Nat) : Dev := ((((base.setFld .SLM_STATUS_STATE state).setFlag .SLM_CFG_EN true).setReg .SLM_GATE_OFF_A 0 0 0).setFld .SLM_RXWIN_WIN_NS 100).updSlm
  fun x => { x with own := true }

/-- A good tagged frame of the Slalom EtherType with every header field 0, and MAC 0 to receive it. -/
def slmFrame : Frame := Frame.withFcs (List.replicate 12 0#8 ++ [0x81#8, 0#8, 0#8, 0#8] ++ beBytes 2 (base.fld .SLM_VLAN_ETYPE) ++ List.replicate 46 0#8)
def slmMac : Dev := (((slm slmActive).setFlag .MAC_CFG_EN_RX true 0).setFlag .MAC_STATUS_LINK true 0).setFld .MAC_CFG_MAXLEN 1522 0

theorem test_meets_SlalomRowsComplete :
    (base.reaches pat .SLM_CFG 0 0 true ∧ base.flag .SLM_CFG_EN = false ∧ (slm slmListen).flag .SLM_CFG_EN = true) ∧
    ((slm slmListen).slmState = slmListen ∧ (slm slmListen).inMode [.listen] = false ∧ ((slm slmListen).setFlag .SLM_CFG_COLD_EN true).flag .SLM_CFG_COLD_EN = true) ∧
    (let d := ((slm slmActive).setFld .SLM_BANK_CYCLE_CYCLE_NS 0 0).updSlm fun x => { x with synced := true }
     d.slmRuns = true ∧ d.domOn .swc = true ∧ d.slm.synced = true ∧ come ((d.slm.start + d.bankLen 0) % 2 ^ 40) d.slmNow = true ∧
       d.slmState = slmActive ∧ (d.setReg .SLM_SYNC 0).fld .SLM_SYNC_MIN_FRAMES ≤ d.slm.nodes.length ∧
       d.slm.nodes.length < (d.setFld .SLM_SYNC_MIN_FRAMES 1).fld .SLM_SYNC_MIN_FRAMES ∧ (d.setReg .SLM_SYNC 0).fld .SLM_SYNC_LOSS_CYCLES ≤ d.slm.low + 1) ∧
    (base.reaches pat .SLM_SW 0 0 true ∧ (0x10001 / 65536 + 65536 - (slm slmActive).slmCycle) % 65536 = 1 ∧ (slm slmActive).slmBank = 0 ∧
      slmListen < (slm slmActive).slmState) ∧
    (let d := slm slmActive
     let w : Nat × Nat × Nat := (0, 0, 0)
     w = (d.slmBank, d.slmCycle, d.slm.start) ∧ d.slmSends = true ∧ d.ownGate w.1 0 = true ∧ (∀ k ∈ d.slm.picks.get 0, k.cycle ≠ w.2.1) ∧
       come ((w.2.2 + min (d.gateOff 0 0 false) (d.gateOff 0 0 true) * 256 + 2 ^ 40 - 256000) % 2 ^ 40) d.slmNow = true ∧ d.slm.own = true) ∧
    (let d := (slm slmActive).updSlm fun x => { x with picks := x.picks.set 0 [⟨0, false, [], false, false⟩] }
     (d.slm.picks.get 0).find? (fun k => k.cycle == d.slmCycle) = some ⟨0, false, [], false, false⟩ ∧ d.slmCycle = 0 ∧ d.slmSends = true ∧ d.ownGate 0 0 = true ∧ d.gateHas 0 0 false = true ∧
       come 0 (d.egressStamp (d.ringPort false)) = true) ∧
    (slmMac.slmClaims 0 slmFrame = true ∧ slmMac.looped 0 = false ∧ slmMac.macReceives 0 = true ∧ slmFrame.length = 68 ∧ Frame.fcsOk slmFrame = true ∧
      Frame.lenError slmFrame = false ∧ slmMac.flag .MAC_SEC_CFG_EN 0 = false ∧ slmMac.parClaims 0 slmFrame = false ∧ Frame.etype slmFrame ≠ 0x8808) ∧
    (match slmMac.slmCheck slmFrame.slmHdr 0 with
      | .ok k e => k == 0 && e == 0
      | _ => false) = true ∧
    (let d := (slm slmActive).setReg .SLM_BANK_SYNC 0 0
     d.slmRuns = true ∧ d.slm.synced = false ∧ come ((d.slm.start + min (d.reg .SLM_BANK_SYNC 0 * 256) (d.bankLen 0)) % 2 ^ 40) d.slmNow = true ∧ d.domOn .swc = true) ∧
    (ftMean 1 [5, 7, 1000] = some (7, 1) ∧ ftMean 1 [5, 7] = none ∧ [(5 : Int), 7, 1000].Perm ([1000] ++ [5, 7])) ∧
    (base.reaches pat .SLM_DCB_CMD 255 0 true ∧ (base.setFlag .SLM_DCB_NEW true 255).flag .SLM_DCB_NEW 255 = true) := by decide +kernel

/-- CAN controller 7 enabled and error-active, with buffer 2 requested. -/
def can : Dev := ((base.setFlag .CAN_CFG_EN true 7).setFld .CAN_STATUS_STATE canActive 7).setReg .CAN_TXREQ 4 7 0

theorem test_meets_CanRowsComplete :
    (base.reaches pat .CAN_CFG 7 0 true ∧ base.flag .CAN_CFG_EN 7 = false ∧ base.tec 7 ≤ 255 ∧ can.flag .CAN_CFG_EN 7 = true ∧
      ((base.setReg .CAN_ARB_TIMING 0x01012828 7).setReg .CAN_FAST_TIMING 0x00011505 7).canTimed 7 = true) ∧
    ((can.setFld .CAN_STATUS_STATE canIntegrating 7).canState 7 = canIntegrating ∧ (can.setFld .CAN_STATUS_STATE canBusOff 7).canState 7 = canBusOff) ∧
    (base.reaches pat .CAN_TXREQ 7 1 true ∧ base.reaches pat .CAN_TXCANCEL 7 1 true ∧ base.reaches pat .CAN_RING_CFG 7 0 true ∧
      base.reaches pat .CAN_CTRL 7 0 true) ∧
    (can.canRuns 7 = true ∧ can.canListens 7 = false ∧ (can.canSt 7).waits = false ∧ can.fld .CAN_CFG_MODE 7 ≠ 2 ∧ can.eventPick 7 = some 2 ∧
      can.canStarts 7 = true ∧ can.canIdle 7 = true ∧ (can.canSt 7).tx = none ∧ (can.canSt 7).leaving = false ∧ can.mayStart 7 (can.bufFrame 7 2) = true) ∧
    (let d := can.updCan 7 fun x => { x with tx := some ⟨2, default, ⟨5, 0⟩, false, false⟩ }
     (d.canSt 7).tx = some ⟨2, default, ⟨5, 0⟩, false, false⟩ ∧ d.canIdle 7 = false ∧ (d.canSt 7).leaving = false ∧ d.canBit .CAN_TXREQ 7 2 = true) ∧
    (let d := can.updCan 7 fun x => { x with rx := some ⟨5, 0⟩ }
     (d.canSt 7).rx = some ⟨5, 0⟩ ∧ (default : CanFrame).fdf = false) ∧
    (∀ k ∈ [0, 126, 127], let d := (can.setFld .CAN_STATUS_STATE canRecovering 7).setFld .CAN_STATUS_REC k 7
     d.canState 7 = canRecovering ∧ d.rec_ 7 = k) ∧
    ((can.updCan 7 fun x => { x with ring := [⟨0, 0, 0, []⟩] }).canSt 7).ring = ⟨0, 0, 0, []⟩ :: [] := by decide +kernel

/-- The ring writer idle, and the matrix with one column of buffer 2 at its start. -/
theorem test_meets_CanMatrixRows :
    (let d := (can.setFlag .CAN_RING_CFG_EN true 7).setFlag .LFT_STATUS_RING true 39
     d.flag .LFT_STATUS_RING 39 = true ∧ ∀ k < 8, (k ≠ 7 → d.flag .CAN_RING_CFG_EN k = false) ∧ (d.canSt k).ring = []) ∧
    (let d := ((((can.setFlag .CAN_MX_CFG_EN true 7).setFld .CAN_MX_CFG_COLS 1 7).setReg .CAN_MX_CELL 9 7 0 0).setReg .CAN_BUF 0x40 7 2 1).updCan 7
       fun x => { x with started := true }
     d.mxRuns 7 = true ∧ d.fld .CAN_MX_STAT_BC 7 = 0 ∧ 0 < d.fld .CAN_MX_CFG_COLS 7 ∧ (d.canSt 7).opened = [] ∧ (d.mxCell 7 0 0).1 ≠ 0 ∧
       d.dueAt islCan (d.fld .CAN_CFG_TB 7) (((d.canSt 7).start + d.reg .CAN_MX_START 7 0) % 2 ^ 32) ≠ .ahead ∧
       d.bufSched 7 (d.mxCell 7 0 0).2 = true ∧ d.canBit .CAN_TXREQ 7 (d.mxCell 7 0 0).2 = true ∧
       d.fld .CAN_CFG_MODE 7 = 0 ∧ d.canLate 7 (((d.canSt 7).start + d.reg .CAN_MX_START 7 0) % 2 ^ 32) = false ∧ d.canStarts 7 = true ∧
       (d.updCan 7 fun x => { x with rx := some ⟨0, 0⟩ }).canStarts 7 = false) ∧
    ((default : CanFrame).wellFormed = true ∧ base.flag .CAN_RING_CFG_EN 7 = false ∧
      base.reg64 .CAN_RING_BASE_LOW .CAN_RING_BASE_HIGH 7 + 80 * (0 + 1) ≤ 0x8000000 ∧
      base.bankWaits (base.reg64 .CAN_RING_BASE_LOW .CAN_RING_BASE_HIGH 7) 80 = false ∧ (List.replicate 80 (0#8 : Byte)).length = 80) ∧
    (let x := can.updCan 7 fun x => { x with gates := [⟨3, 2, 9⟩] }
     ((x.canSt 7).gates.find? fun g => g.col == 3 && g.bc == 2) = some ⟨3, 2, 9⟩) ∧
    (let d := can.setFlag .CAN_MX_CFG_EN true 7
     d.flag .CAN_MX_CFG_EN 7 = true ∧ d.dueAt islCan (d.fld .CAN_CFG_TB 7) (d.canSt 7).next = .due) := by decide +kernel

/-! ### Blades, personalities, control, pairs, Patrol, host, power -/

/-- Blade 3 of group 7 enabled at word 0, which is `w`, its bank present. -/
def bld (w : Nat) : Dev := (((base.setFld .BLD_CTRL_EN 8 7).setFld .BLD_PROG_WORD w 7 0).setFld .PIN_BANK_DET 1 3).setFlag .BLD_CLK_MODE true 7 3

/-- JMP always, WAIT on a flag, IN, OUT, PUSH, PULL, MOV G, IRQ, SET C, AT G; and with a lead of 7 (R356). -/
theorem test_meets_BladeRowsComplete :
    (∀ w ∈ [0x002F, 0x10A0, 0x2041, 0x3041, 0x4000, 0x5000, 0x6001, 0x7000, 0x7080, 0x805F, 0x9000, 0x2001, 0x3000, 0x30C6, 0x60A0, 0x8002],
      (bld w).bldOn 7 3 = true ∧ (bld w).domOn .pio = true ∧ (bld w).bldOk 7 3 = true ∧ (bld w).bldWord 7 3 = w ∧
        (((bld w).seePins 7 255).bldFetch 7 3 |>.blade 7 3).lead = 0) ∧
    (bits 0x002F 15 12 = BldOp.jmp.code ∧ bits 0x10A0 15 12 = BldOp.wait.code ∧ bits 0x2041 15 12 = BldOp.in_.code ∧ bits 0x3041 15 12 = BldOp.out.code ∧
      bits 0x4000 15 12 = BldOp.push.code ∧ bits 0x5000 15 12 = BldOp.pull.code ∧ bits 0x6001 15 12 = BldOp.mov.code ∧
      bits 0x7000 15 12 = BldOp.irq.code ∧ bits 0x805F 15 12 = BldOp.set.code ∧ bits 0x9000 15 12 = BldOp.at_.code) ∧
    ((bld 0x0E2F).bldOk 7 3 = true ∧ (((bld 0x0E2F).seePins 7 0).bldFetch 7 3 |>.blade 7 3).lead = 7) ∧
    ((bld 0x0030).bldOk 7 3 = false) ∧
    (let d := (bld 0x9000).updBld 7 3 fun x => { x with acted := true }
     d.bldOn 7 3 = true ∧ (d.blade 7 3).acted = true ∧ reached (d.reg .BLD_T 7 3) (d.bldNow (d.fld .BLD_CLK_TB 7 3)) = true) ∧
    (base.reaches pat .BLD_TXHOLD 7 3 true ∧ base.reaches pat .BLD_RXHOLD 7 3 false ∧ base.reaches pat .BLD_FLAGS_SET 7 0 true ∧
      base.reaches pat .BLD_FLAGS 7 0 true ∧ base.reaches pat .BLD_CTRL 7 0 true ∧ base.reaches pat .BLD_PROG 7 47 true ∧ base.reaches pat .BLD_RESTART 7 0 true) ∧
    (let d := base.setFlag .BLD_RESTART_STAT_PENDING true 7
     d.flag .BLD_RESTART_STAT_PENDING 7 = true ∧ (d.grp.get 7).timed = false ∧ bit (base.fld .BLD_FLAGS_FLAG 7) 0 = false ∧
       base.flag .BLD_FLAG_CFG_JOB_EN 7 0 = false) := by decide +kernel
theorem test_blade_jmp : after (.bladeJmp 7 3 0) (bld 0x002F) (fun d => d.fld .BLD_STATUS_PC 7 3 == 47) := by decide +kernel

/-- The record of an enabled instance 0 of a personality at a port, on engine 0 of rink 0, with its counters behind the common blocks. -/
def irec (p role port : Nat) (blades : Nat := 0) : InstRec := ⟨p, 0, role, 1, port, 0xFF, blades, 0, 0, 0, 0, 0, 0x81000, 0, []⟩

/-- A station of instance 0 of a personality. -/
def stn (p : Nat) (inLen outLen : Nat := 0) : Station := ⟨p, 0, 0, 0, inLen, outLen, 0, 0, 0, 0, 0⟩

def fws : List Section := [0x100FF, 0x300FF, 0x700FF, 0x800FF].map fun t => { (default : Section) with target := t }

/-- Instances of Types 12 and 2, of IEC 61850 and of IEC 61162 on rink 0, and a record of Type 10, which is not loaded; station 2 publishes,
station 3 feeds the sentences of station 5; a frame in cell 0x100 came in on MAC 4. -/
def pers : Dev := (((((((base.setFld .RNK_STATUS_ENG_ONLINE 1 0).setPart 1 3).setBankState 0 1).setBankState 1 1).updBoot fun b => { b with fw := fws }).updSwc fun w => { w with held := w.held.set 28 [⟨0x100, false, none, []⟩] }).updPers
  fun x => { x with
    insts := [irec 1 1 4, irec 3 1 4, irec 7 1 4, irec 8 1 0x60 1, irec 2 1 4]
    stations := [(2, stn 7 0 4), (3, stn 1 4), (5, { stn 8 0 4 with flags := 3, src := 3, param := 9 })] }).updFrame 0x100 fun x =>
      { x with cells := [0x100], flen := 60, port := 4 }

/-- That device with slot 6, the input of station 3, and slot 5, the output of station 2, in the slot table. -/
def slotted : Dev := (pers.store (pers.piBase + 4 * 6) 4 0x08020010).store (pers.piBase + 4 * 5) 4 0x08020020

/-- That device with an IPv4 frame of 28 bytes to every station, from its own VLAN, given to the IPv4 service; `dp`: its destination port, `pr`: its protocol. -/
def ipDev (pr dp ck : Nat) : Dev := (((pers.store (0x100 + 16 + 12) 2 0x0008).store (0x100 + 16 + 14) 28
    (leVal ([0x45, 0, 0, 28, 0, 0, 0, 0, 0x40, pr, ck / 256, ck % 256, 10, 0, 0, 1, 255, 255, 255, 255, 0, 9, dp / 256, dp % 256, 0, 8, 0, 0].map (BitVec.ofNat 8)))).updFrame 0x100
      fun x => { x with tagged := true, vid := ((Config.ipVlan 4).getD 0).toNat }).updHeld 28 0x100 fun h => { h with pers := some 0 }

theorem test_own_vlan : ((ipDev 17 2222 0x70D1).frame 0x100).ipVlan = true := by
  have h : ((ipDev 17 2222 0x70D1).frame 0x100).tagged = true ∧ ((ipDev 17 2222 0x70D1).frame 0x100).port = 4 ∧
      ((ipDev 17 2222 0x70D1).frame 0x100).vid = ((Config.ipVlan 4).getD 0).toNat := ⟨by decide +kernel, by decide +kernel, by rfl⟩
  unfold FrameSt.ipVlan
  rw [h.2.1, h.1, h.2.2]
  cases Config.ipVlan 4 <;> simp

theorem test_broadcast_for (n : Nat) : ipFor n 0xFFFFFFFF = true := by simp [ipFor]

theorem test_meets_PersonalityDispatch :
    ((pers.engine 0).stores = [] ∧ pers.countsOut.handles 0 0x100 = some (28, ⟨0x100, false, none, []⟩) ∧ pers.persIn 1 0 = true ∧ pers.persIn 2 0 = false ∧
      Frame.etype ((pers.store (0x100 + 16 + 12) 2 0xA488).physRead 0 (0x100 + 16) 18).1.data = 0x88A4 ∧
      Frame.etype ((pers.store (0x100 + 16 + 12) 2 0x9288).physRead 0 (0x100 + 16) 18).1.data = 0x8892) ∧
    ((ipDev 17 2222 0x70D1).handles 0 0x100 = some (28, ⟨0x100, false, some 0, []⟩) ∧ ((pers.updHeld 28 0x100 fun h => { h with pm := true }).handles 0 0x100).any (·.2.pm) = true) ∧
    (pers.pers.insts[0]? = some (irec 1 1 4) ∧ (pers.updHeld 28 0x100 fun h => { h with pers := some 1 }).recRuns 0 (irec 1 1 4) = true) ∧
    ((pers.updBoot fun b => { b with fw := [] }).ipRink = none ∧ (ipDev 17 2222 0x70D1).ipRink = some 0) ∧
    (let f (d : Dev) : Frame := (Dev.readCellsBy 0 (d.frame 0x100).cells (d.frame 0x100).flen d).1.data
     let d := ipDev 17 2222 0x70D1
     (f d).etype = 0x0800 ∧ (f d).typeAt + 2 = 14 ∧ ipSum (((f d).drop 14).take 20) = 0xFFFF ∧ (f d).be 16 2 = 28 ∧ (f d).be 30 4 = 0xFFFFFFFF ∧
       (f d).be 23 1 = 17 ∧ (f d).be 36 2 = 2222 ∧ bits ((f d).be 20 2) 13 0 = 0 ∧ ipSum (((f (ipDev 17 9 0)).drop 14).take 20) ≠ 0xFFFF ∧
       (f (ipDev 1 0 0x70E1)).be 23 1 = 1 ∧ ipSum (((f (ipDev 1 0 0x70E1)).drop 14).take 20) = 0xFFFF ∧
       d.ipOwner 4 false 2222 none = some (irec 3 1 4) ∧ d.ipOwner 4 true 44818 none = some (irec 3 1 4) ∧ d.ipOwner 4 false 9 none = none ∧
       d.ipOwner 4 true 502 none = none ∧ d.ipOwner 4 false 9 (some 1) = some (irec 3 1 4)) := by decide +kernel

theorem test_meets_PersonalityRowsComplete :
    ((slotted.engine 0).stores = [] ∧ slotted.instRec 1 0 = some (0, irec 1 1 4) ∧ slotted.instRuns (stn 1 4) = true ∧ slotted.pers.stations.get 3 = stn 1 4 ∧ slotted.persIn 1 0 = true ∧
      (let d := slotted.updHeld 28 0x100 fun h => { h with pers := some 1 }
       (d.captureOf 0 3 (irec 1 1 4) (stn 1 4) (.frame 0x100 20) 4).1.isSome = true ∧ (d.captureOf 0 3 (irec 1 1 4) (stn 1 4) (.frame 0x100 57) 4).1.isNone = true ∧
         frameFor ⟨0x100, false, some 1, []⟩ (stn 1 4) [] = true ∧ (irec 1 1 4).usesMac 4 = true ∧ d.bankWaits 0x100 256 = false ∧
         d.handles 0 0x100 = some (28, ⟨0x100, false, some 1, []⟩)) ∧
      dataRow (stn 1 4) (.frame 0 0) [1#8] = none ∧ slotted.infoRow 3 (irec 3 1 4) (stn 3 4) ⟨(1, 0), (0, 0), 0⟩ = none ∧ 1 ≤ msgMax 1 1 (stn 1 4) ∧
      slotted.slotValid 6 = true ∧ slotted.slotValid 4 = false ∧ slotted.gatewaysOf 3 = [5] ∧ slotted.gatewaysOf 2 = [] ∧
      slotted.instRec 8 0 = some (3, irec 8 1 0x60 1)) ∧
    (commitRow 1 3 = false ∧ commitRow 7 4 = true ∧ dataRow (stn 8 4) (.frame 0 0) [1#8] = some 2 ∧ dataRow { stn 8 4 with pers := 0xA } (.can 0 [0]) [1#8] = some 1 ∧
      dataRow (stn 5 4) (.blade [1#8] 0) [1#8] = some 2 ∧ lossRow (irec 1 1 4) (stn 1 4) = some 2 ∧ missRow 1 2 = true ∧ lossRow (irec 5 1 4) (stn 5 4) = some 3 ∧
      (let d := slotted.updPartner 3 fun p => { p with misses := 3 }
       d.lossDue 3 (irec 5 1 4) (stn 5 4) 0 = true ∧ (d.partner 3).lost = false ∧ slotted.lossDue 3 (irec 5 1 4) (stn 5 4) 0 = false ∧
         slotted.lossDue 3 (irec 8 1 4) (stn 8 4) 3000000000 = true ∧ slotted.lossDue 3 (irec 8 1 4) (stn 8 4) 0 = false)) := by decide +kernel

theorem test_meets_PersonalityRowsComplete_sends :
    (let x := slotted.pers.stations.get 5
     x.gateway = true ∧ slotted.takeOverSeq.instSends x = true ∧ slotted.slotValid (2 * x.src) = true ∧ x.pers = 8 ∧
       (slotted.setFld .CTL_SLOT_QUAL 0 6).fld .CTL_SLOT_QUAL (2 * x.src) = 0 ∧ slotted.claims 3 (irec 8 1 0x60 1) = false ∧
       slotted.txDue 5 (irec 8 1 0x60 1) x 0 = true ∧ (slotted.updPartner 5 fun p => { p with mark := some 5 }).txDue 5 { irec 8 1 0x60 1 with cycle := 9 } x 0 = false ∧
       ((slotted.setFld .CTL_SLOT_QUAL 0 6).outputOf 0 5 x).1.isSome = true ∧ ((slotted.setFld .CTL_SLOT_QUAL 2 6).outputOf 0 5 x).1 = none ∧ slotted.claims 0 (irec 9 1 0x40) = true ∧
       (irec 8 1 0x60 1).medium = some .blade ∧ (irec 8 1 4).medium = some .mac ∧ slotted.bankWaits (slotted.copyAddr 6 3) (16 + 4) = false) ∧
    (pers.pers.insts[4]? = some (irec 2 1 4) ∧ pers.persLoaded 2 = false ∧ pers.firstPersIn 0 = true ∧ 4 ∉ pers.pers.skipped ∧
      pers.pers.insts[0]? = some (irec 1 1 4) ∧ pers.persLoaded 1 = true ∧ instKey 1 0 ∉ pers.pers.refused ∧ pers.unmet 0 (irec 1 1 4) (.frames 9) = true ∧
      pers.unmet 0 (irec 1 1 4) (.frames 8) = false ∧ pers.unmet 0 (irec 1 1 4) (.interval 1) = false) ∧
    (let x := slotted.pers.stations.get 2
     x.pers = 7 ∧ x.isSv = false ∧ slotted.publishes x = true ∧ (slotted.pers.pubs.get 2).stNum = 0 ∧
       (slotted.outputOf 0 2 x).1 == some (Frame.padTo (slotted.pers.pubs.get 2).last 4, .validGood) ∧ (pers.outputOf 0 2 x).1 == none) ∧
    (let d := slotted.updPers fun y => { y with pubs := y.pubs.set 2 ⟨[1#8], .validGood, 3, 0, 0, 0⟩ }
     ((d.outputOf 0 2 (d.pers.stations.get 2)).1.any fun o => o.1 != Frame.padTo (d.pers.pubs.get 2).last 4) = true ∧ (d.pers.pubs.get 2).stNum ≠ 0 ∧
       reached (d.pers.pubs.get 2).due (d.pubNow (d.pers.stations.get 2)) = true ∧
       reached 1000 (d.pubNow (d.pers.stations.get 2)) = false) := by decide +kernel

theorem test_meets_ControlRowsComplete :
    (base.reaches pat .CTL_COMMIT 0 0 true ∧ base.reaches pat .CTL_LOSS 0 0 true ∧ base.reaches pat .CTL_FORCE 0 0 true ∧
      base.reaches pat .CTL_ARITH 0 0 true ∧ base.reaches pat .CTL_TASK_CTRL 15 0 true ∧ base.slotValid 8191 = false) ∧
    (let d := (base.setFlag .CTL_TASK_CFG_EN true 15).updTask 15 fun x => { x with due := [0, 5] }
     (d.task 15).due = 0 :: [5] ∧ d.flag .CTL_TASK_CFG_EN 15 = true ∧ d.domOn .swc = true ∧ d.dueAt islSwitch (d.fld .CTL_TASK_CFG_TB 15) 0 = .due ∧
       d.par.takeNext = false ∧ d.par.yieldSent = false ∧ (d.task 15).isOpen = false ∧ (d.task 15).had = false ∧ d.fld .CTL_TASK_STAT_RUN 15 = 0 ∧
       (d.setFld .CTL_TASK_STAT_RUN 1 15).fld .CTL_TASK_STAT_RUN 15 ≠ 0 ∧
       ((d.updTask 15 fun x => { x with isOpen := true }).task 15).isOpen = true ∧ reached 0 ((d.reg .CTL_TASK_T0 15 + d.reg .CTL_TASK_DEADLINE 15) % 2 ^ 32) = true) ∧
    (let d := (base.setBankState 0 1).updTask 15 fun x => { x with release := some 64 }
     (d.task 15).release = some 64 ∧ (d.task 15).table = [] ∧
       let d := (d.setBankState 0 4).updTask 15 fun x => { x with table := [1] }
       (d.task 15).table ≠ [] ∧ d.tableWaits 15 = true) ∧
    (let d := (base.setFlag .CTL_TASK_CTRL_PENDING true 15).setReg .CTL_XCHG_AT 7 15
     d.flag .CTL_TASK_CTRL_PENDING 15 = true ∧ reached (d.reg .CTL_XCHG_AT 15) 7 = true) ∧
    (∀ b, let d := (base.setReg .CTL_TASK_DEADLINE 0 15).updTask 15 fun x => { x with isOpen := true, inTime := b }
      d.deadlineDue 15 = true ∧ d.parState ≠ parActive ∧ (d.task 15).inTime = b) ∧
    (let d := ((base.setBankState 0 1).store (base.piBase + 4 * 8190) 4 0x0FC00000).store (base.piBase + 4 * 8191) 4 0x0FC00000
     ∀ n ∈ [8190, 8191], d.slotValid n = true ∧ d.slotOwned n = true ∧ d.slotTask n = 15 ∧ isOut n = (n == 8191)) ∧
    base.flag .CTL_TASK_CTRL_PENDING 15 = false := by decide +kernel

/-- A unit of a pair in a state, its tandem lanes up and keyed. -/
def par (state : Nat) : Dev := (((((base.setFld .PAR_STATUS_STATE state).setFld .PAR_STATUS_LANES 1).setFlag .PAR_NETHB_EN true).setFld .PAR_CFG_MISS_LIMIT 3).updVlt
  fun v => { v with tandemSak := some 1 }).updPar fun x => { x with linked := true }

theorem test_meets_PairRowsComplete :
    (base.reaches pat .PAR_CFG 0 0 true ∧ base.flag .PAR_CFG_EN = false ∧ base.reaches pat .PAR_CTRL 0 0 true) ∧
    ((default : Heartbeat).wellFormed = true ∧ base.fld .PAR_STATUS_LANES = 0 ∧ (par parListen).tandemLoops = false ∧ (par parListen).par.rxPn = 0) ∧
    (∀ q ∈ [parListen, parStandby, parActive], let d := par q
      d.parState = q ∧ d.parState ≠ parOff ∧ d.fld .PAR_STATUS_LANES ≠ 0 ∧ d.par.linked = true ∧ d.vlt.tandemSak.isSome = true ∧ d.txHeld = false ∧ d.flag .PAR_NETHB_EN = true ∧
        0 < d.fld .PAR_CFG_MISS_LIMIT ∧ d.par.netCount = none ∧ d.fld .PAR_ID_PAIR_ID = 0 ∧ d.fld .PAR_NODE_PARTNER = 0) ∧
    (let d := (par parStandby).updPar fun x => { x with seq := some ⟨0, [], []⟩, outs := [] }
     d.par.seq = some ⟨0, [], []⟩ ∧ d.par.late = false ∧ d.par.progDiffers = false) ∧
    (let d := (par parStandby).updPar fun x => { x with window := true, takeNext := true }
     let d := (d.setFlag .CTL_TASK_CFG_EN true 0).updTask 0 fun x => { x with due := [0] }
     d.par.window = true ∧ d.copyTask = 0 ∧ d.dueAt islSwitch 0 ((d.reg .CTL_TASK_T0 0 + 0 + 0) % 2 ^ 32) ≠ .ahead ∧
       (d.task 0).due = 0 :: [] ∧ d.flag .CTL_TASK_CFG_EN 0 = true ∧ d.domOn .swc = true ∧ d.par.takeNext = true) ∧
    (((par parActive).updPar fun x => { x with yieldSent := true, tandemFit := true }).par.yieldSent = true) ∧
    (let d := (par parActive).updTask 0 fun x => { x with isOpen := true, inTime := true }
     (d.setReg .CTL_TASK_DEADLINE 0 0).deadlineDue 0 = true ∧ (d.task 0).inTime = true) ∧
    (let d := (((par parStandby).setBankState 0 1).setFld .PAR_COPY_CFG_TASKS 1).store (base.piBase + 4 * 8191) 4 0x0C000000
     let d := (d.setFlag .PAR_CFG_CMP_EN true).updPar fun x => { x with seq := some ⟨0, [], []⟩, inTime := [0] }
     isOut 8191 = true ∧ d.slotValid 8191 = true ∧ d.slotOwned 8191 = true ∧ d.slotTask 8191 ∈ d.pairTasks ∧ d.par.outs = [] ∧ d.par.outsDone = false ∧ d.slotTask 8191 ∈ d.par.inTime) := by decide +kernel

/-- The partner's tag on any frame is taken, and on a network heartbeat of a unit that has K_IMG. -/
theorem test_meets_PairRowsComplete_tags :
    (∀ b, ∃ x : TdmTag, x.pn.toNat = 1 ∧ (par parStandby).tandemOk b x = true) ∧
    let d := (par parListen).updVlt fun v => { v with keyRegs := some { (default : KeyRegs) with img := some 4 } }
    d.parState ≠ parOff ∧ d.flag .PAR_NETHB_EN = true ∧ ∀ h, ∃ (k : Nat) (tag : BitVec 128), d.kHbn = some k ∧ Dev.netTag k h = tag.toNat :=
  ⟨fun b => ⟨_, rfl, Dev.tandemOk_seal (par parStandby) b 1 1 rfl⟩, by decide +kernel, by decide +kernel,
    fun h => ⟨_, BitVec.ofNat 128 (Dev.netTag _ h), rfl, (Nat.mod_eq_of_lt (gcmTag_lt _ _ _ _)).symm⟩⟩

/-- The boot placed partition 5 in bank 2; the first record is written. -/
def logged : Dev := ((base.setPart 2 5).setBankState 2 1).updHost fun h => { h with logSeq := 1 }

theorem test_meets_PatrolRowsComplete :
    (base.sys.patOn = true ∧ base.sys.resetRun = none ∧ base.sys.lockdown = false) ∧
    (let d := (base.setFlag .PAT_WDOG_CFG_EN true).setFld .PAT_WDOG_LEFT_MS 0
     d.flag .PAT_WDOG_CFG_EN = true ∧ d.fld .PAT_WDOG_LEFT_MS = 0) ∧
    (base.flag .PAT_WDOG_CFG_EN = false ∧ base.reaches pat .PAT_WDOG_KICK 0 0 true ∧ base.reaches pat .PAT_SQ_PUSH 7 0 true) ∧
    (let d := { base with eng := { base.eng with staged := base.eng.staged.set ((8 * 256 + 0x40) * 4) (0x0F000000#32 :: List.replicate 7 0#32) } }
     base.eng.patQ.length < 64 ∧ pat.mid = 0x40 ∧
       ((d.stagePush 8 7 pat.mid pat.ctx 0).takeStaged 8 pat.mid pat.ctx).1.pinned = false ∧
       ((d.stagePush 8 7 pat.mid pat.ctx 0).takeStaged 8 pat.mid pat.ctx).1.fwid = 15) ∧
    (base.reaches pat .SYS_MODE_CTRL 0 0 true ∧ base.holdKept = false ∧ base.reaches pat .PWR_DOM_CTRL 0 0 true ∧ base.reg .PWR_DOM_CTRL < 2 ^ 13 ∧
      (∀ b < 13, bit ((base.setReg .PWR_DOM_CTRL 0x1FFE).reg .PWR_DOM_CTRL) b = !(b == 0)) ∧ base.flag .PWR_DOM_STAT_BUSY = false ∧
      base.domBreaks 0 true = false ∧ base.domBreaks 0 false = false ∧ base.boot.target ≠ 2 ∧
      (base.updSys fun x => { x with domReq := some (0, true) }).sys.domReq = some (0, true)) ∧
    ((base.updSys fun x => { x with patOn := false }).patrolRuns = false ∧ logged.patrolRuns = true ∧ logged.partAddr 5 0 = some 0x100000 ∧
      logged.host.logSeq ≠ 0 ∧ logged.partAddr 5 (64 + 64 * (leVal (logged.physRead 0x40 0x100000 4).1.data % 0x1FFF)) = some 0x100040) := by
  decide +kernel

/-- The host's interfaces up, a window over bank 0, and a request of code `c` waiting in mailbox 0 with its block at 0. -/
def hosted (c : Nat) : Dev := ((((base.setFlag .HST_CFG_PCIE_EN true).setFlag .HST_STATUS_LINK_UP true).setFlag .HST_CFG_SPI_EN true).updBoot fun b =>
    { b with windowsOn := true, windows := [(0, 0x80000, 3)] })
  |>.setBankState 0 1 |>.setFld .HST_CFG_REQ_MBOX 0 |>.setFld .HST_CFG_RSP_MBOX 1 |>.setReg .MBX_CFG 0x40 0 |>.setFlag .MBX_STATUS_FULL true 0
  |>.setReg .MBX_NOTICE_HIGH 0x100 0 |>.store 0 4 c

/-- A flash with an exchange package of one empty DATA section for partition 7, signed by the owner of the private key 1 (made outside the model). -/
def packed : Flash := ⟨true, ([0x4C, 0x4D, 0x44, 0x45, 3, 0, 0, 0, 0, 16, 0, 0, 1].map (BitVec.ofNat 8)) ++ List.replicate 51 0#8 ++
  [0xF#8, 0#8, 0#8, 0#8, 0x40#8, 4#8] ++ List.replicate 6 0#8 ++ [7#8] ++ List.replicate 3923 0#8 ++ beBytes 96
    0x11de24a2c251c777573cac5ea025e467f208e51dbff98fc54f6661cbe56583b037882f4a1ca297e60abcdbc3836d84bc3ec38bd0826929f96d9e5fff0f986f6eea8bca83e6250a4885bfdd7b783a0153f15dd23c5cfcec00963044ee0dbbfd02⟩

/-- That host's device with that owner's public key in key slot 0. -/
def keyed : Dev := (hosted 0x20).updVlt fun v => { v with otp := { v.otp with stage := 1, slots := 1, slotKeys := v.otp.slotKeys.set 0 sender } }

theorem test_meets_HostRowsComplete_package : keyed.host.package = false ∧ keyed.packageCause packed.image = 0 ∧
    ∃ x, packed.image.clear keyed.vlt.kImg = some x := by
  have h : keyed.host.package = false ∧ keyed.packageCause packed.image = 0 ∧ (packed.image.clear keyed.vlt.kImg).isSome = true := by decide +kernel
  exact ⟨h.1, h.2.1, Option.isSome_iff_exists.mp h.2.2⟩

theorem test_meets_HostRowsComplete :
    (base.domOn .hst = true ∧ (hosted 1).flag .HST_CFG_PCIE_EN = true ∧ (hosted 1).flag .HST_STATUS_LINK_UP = true ∧ (hosted 1).host.perst = false ∧
      (hosted 1).flag .HST_CFG_SPI_EN = true ∧ base.flag .HST_STATUS_LINK_UP = false) ∧
    ((hosted 1).hostMay 0x80000 false = false ∧ (hosted 1).hostMay 0x7FFFC true = true ∧ ((hosted 1).hostRead 0x80000).1 = true ∧
      ((hosted 1).hostRead 0).1 = false ∧ ((hosted 1).hostReads 2 0).2.1 = false) ∧
    (∀ c ∈ [1, 2, 3, 0x10, 0x11, 0x20, 0x21, 0x30, 0x40, 0x50, 0x99], let d := hosted c
      d.patrolRuns = true ∧ d.flag .MBX_STATUS_FULL (d.fld .HST_CFG_REQ_MBOX) = true ∧ d.fld .MBX_CFG_RECV_MID (d.fld .HST_CFG_REQ_MBOX) = 0x40 ∧
        d.flag .MBX_STATUS_FULL (d.fld .HST_CFG_RSP_MBOX) = false ∧ d.windowRW 0 64 = true ∧ bits (d.reg .MBX_NOTICE_HIGH 0) 23 8 = 1 ∧
        d.view 0 4 % 65536 = c ∧ d.view 8 4 + 16 ≤ 64 ∧ (d.store 8 4 49).view 8 4 + 16 > 64 ∧
        (((d.mbxReadLow 0 0x40 0).2.mbxReadHigh 0 0x40 0).2.physRead 0x40 0 12).1.ue = false) ∧
    (let d := ((hosted 0x40).updSys fun x => { x with bootMode := .provisioning }).setFld .SYS_MODE_MODE Mode.provisioning.code
     d.inMode [.provisioning] = true ∧ d.patrolRuns = true ∧ (hosted 0x40).inMode [.provisioning] = false ∧
       ((hosted 1).setReg .MBX_NOTICE_HIGH 0x200101 0).windowRW 0x100000000 64 = false) ∧
    ((hosted 1).host.package = false ∧ (hosted 1).host.flashBusy = false ∧ (hosted 1).packageCause default ≠ 0 ∧
      ((hosted 1).updHost fun h => { h with package := true, packageOk := true, flashBusy := true }).host.package = true) ∧
    (((hosted 1).engine 64).stores = [] ∧ bits 0x1FFF 0 0 = 1) ∧
    ((base.patrolRuns = true ∧ base.flag .MBX_STATUS_FULL (base.fld .HST_CFG_REQ_MBOX) = false)) := by decide +kernel

theorem test_meets_PowerRowsComplete :
    (base.reaches pat .SYS_MODE_CTRL 0 0 true ∧ pat.mid = 0x40 ∧ base.flag .SYS_MODE_CTRL_HOLD = false ∧ base.holdKept = false ∧
      (base.setFlag .SYS_MODE_CTRL_HOLD true).flag .SYS_MODE_CTRL_HOLD = true ∧ (base.setFld .BOOT_STATUS_RESULT 4).holdKept = true) ∧
    (let d := (base.setReg .PWR_DOM_CTRL 0x1FFF).setFld .PWR_DOM_STAT_ON 0x1FFF
     d.reaches pat .PWR_DOM_CTRL 0 0 true ∧ (∀ k < 13, bit 0x1FFE k ≠ bit (d.reg .PWR_DOM_CTRL) k ↔ k = 0) ∧ d.flag .PWR_DOM_STAT_BUSY = false ∧
       ¬ ∃ k < 13, d.domOn (domOfBit k) = true ∧ (domOfBit k).needs = domOfBit 0) ∧
    (base.sys.domReq = none ∧ (base.updSys fun x => { x with domReq := some (12, true) }).sys.domReq = some (12, true)) ∧
    (base.reaches pat .PWR_SLEEP 0 0 true ∧ bit 3 0 = true ∧ bits 3 2 1 ≠ 0 ∧ (let d := base.setFld .SYS_MODE_MODE Mode.standalone.code
      d.inMode [.standalone, .hosted, .listen, .hold] = true ∧ d.flag .PAR_CFG_EN = false ∧ ∀ t < 16, d.flag .CTL_TASK_CTRL_PENDING t = false) ∧
      base.inMode [.standalone, .hosted, .listen, .hold] = false) ∧
    (let d := ((base.updSys fun x => { x with retention := true, resume := true, fabOn := false }).setFlag .PWR_SLEEP_WAKE_PIN true).setFlag .PWR_SLEEP_WAKE_TIME true
     d.sys.retention = true ∧ d.flag .PWR_SLEEP_WAKE_PIN = true ∧ d.flag .PWR_SLEEP_WAKE_TIME = true ∧ d.fld .PWR_WAKE_WRAPS_WRAPS ≤ d.sys.wraps ∧
       reached (d.reg .PWR_WAKE_AT) (tbNs (d.tbVal (d.fld .PWR_SLEEP_WAKE_TB))) = true ∧ d.sys.resume = true ∧ d.sys.fabOn = false) ∧
    (base.sys.retention = false ∧ base.sys.resume = false) := by decide +kernel

end Sys2Proof.Tests
end

section
/-! SUPPORT. Every operation of the device keeps memory and register file in canonical form (R15, R32): one lemma per operation, in the
order of the definitions, and with them every command and every step. -/

namespace Sys2Proof.Machine

set_option Elab.async false

/-- Memory and register file are in canonical form, as a property whose lemmas are named after the operations that keep it: the proof of
`((s.foo a).bar b).Canon` from `h : s.Canon` is `h.foo.bar`. -/
def Dev.Canon (s : Dev) : Prop := s.canonical = true

theorem Dev.canon_iff {s : Dev} : s.Canon ↔ s.canonical = true := Iff.rfl

namespace Dev

variable {s : Dev}

theorem Canon.mem_wf (h : s.Canon) : Sparse.wf (fun _ => (0#8 : Byte)) s.mem = true := (s.canonical_iff.mp h).1

theorem Canon.regs_wf (h : s.Canon) : Sparse.wf resetAt s.regs = true := (s.canonical_iff.mp h).2

theorem Canon.of_wf (hm : Sparse.wf (fun _ => (0#8 : Byte)) s.mem = true) (hr : Sparse.wf resetAt s.regs = true) : s.Canon :=
  s.canonical_iff.mpr ⟨hm, hr⟩

/-- A change of neither memory nor register file. -/
theorem Canon.same {hiLatch loStage freeCnt rd sys boot vlt eng smf grm lft tmu mac swc ctl slm par can bld grp pers mbx host tap}
    (h : s.Canon) :
    (Dev.mk s.regs s.mem hiLatch loStage freeCnt rd sys boot vlt eng smf grm lft tmu mac swc ctl slm par can bld grp pers mbx host tap).Canon :=
  h

theorem Canon.ite {t} {c : Prop} [Decidable c] (hs : s.Canon) (ht : t.Canon) : (if c then s else t).Canon := by
  split <;> assumption

theorem Canon.iteSnd {α : Type} {c : Prop} [Decidable c] {p q : α × Dev} (hp : p.2.Canon) (hq : q.2.Canon) :
    (if c then p else q).2.Canon := by
  split <;> assumption

theorem Canon.iteSnd₂ {α β : Type} {c : Prop} [Decidable c] {p q : α × β × Dev} (hp : p.2.2.Canon) (hq : q.2.2.Canon) :
    (if c then p else q).2.2.Canon := by
  split <;> assumption

theorem Canon.foldl {α β : Type} {l : List α} {b : β} {f : β × Dev → α → β × Dev} (h : s.Canon)
    (g : ∀ b a s, s.Canon → (f (b, s) a).2.Canon) : (l.foldl f (b, s)).2.Canon := by
  induction l generalizing b s with
  | nil => exact h
  | cons a l ih => exact ih (g b a s h)

/-- The device of a pair that a match has taken apart. -/
theorem Canon.of_eq {t} {α : Type} {p : α × Dev} {a : α} (h : p.2.Canon) (e : p = (a, t) := by assumption) : t.Canon := by
  rwa [e] at h

theorem Canon.of_eq₂ {t} {α β : Type} {p : α × β × Dev} {a : α} {b : β} (h : p.2.2.Canon) (e : p = (a, b, t) := by assumption) :
    t.Canon := by
  rwa [e] at h

theorem Canon.each {α : Type} {l : List α} {f : α → Dev → Dev} (h : s.Canon) (g : ∀ a s, s.Canon → (f a s).Canon) : (s.each l f).Canon :=
  Dev.canonical_each g h

theorem Canon.when {b : Bool} {f : Dev → Dev} (h : s.Canon) (g : ∀ s, s.Canon → (f s).Canon) : (s.when b f).Canon :=
  Dev.canonical_when g h

/-! ### Registers, control and memory -/

theorem Canon.setRegWord {off v} (h : s.Canon) : (s.setRegWord off v).Canon := Dev.canonical_setRegWord h ..

theorem Canon.setReg {r v i j k} (h : s.Canon) : (s.setReg r v i j k).Canon := h.setRegWord

theorem Canon.setFld {f v i j k} (h : s.Canon) : (s.setFld f v i j k).Canon := h.setReg

theorem Canon.setFlag {f b i j k} (h : s.Canon) : (s.setFlag f b i j k).Canon := h.setFld

theorem Canon.countBy {n r i j k} (h : s.Canon) : (s.countBy n r i j k).Canon := h.setReg

theorem Canon.count {r i j k} (h : s.Canon) : (s.count r i j k).Canon := h.countBy

theorem Canon.misuse {b n} (h : s.Canon) : (s.misuse b n).Canon := h.count

theorem Canon.fresh (h : s.Canon) : s.fresh.2.Canon := h.same

theorem Canon.plainIf {ill r v i j k} (h : s.Canon) : (s.plainIf ill r v i j k).Canon := .ite h.setReg.misuse h.setReg

theorem Canon.plain {r v i j k} (h : s.Canon) : (s.plain r v i j k).Canon := h.plainIf

theorem Canon.refuseWrite {r i} (h : s.Canon) : (s.refuseWrite r i).Canon := h.misuse

theorem Canon.setByte {a b} (h : s.Canon) : (s.setByte a b).Canon := Dev.canonical_setByte h ..

theorem Canon.setBytes {a l} (h : s.Canon) : (s.setBytes a l).Canon := Dev.canonical_setBytes _ _ h

theorem Canon.store {a n v} (h : s.Canon) : (s.store a n v).Canon := h.setBytes

theorem Canon.zeroRange {a b} (h : s.Canon) : (s.zeroRange a b).Canon := Dev.canonical_zeroRange h ..

theorem Canon.msixVector {v} (h : s.Canon) : (s.msixVector v).Canon := .ite h (.ite h.same (.ite h.same.count h.same.same))

theorem Canon.msixUpdate (h : s.Canon) : s.msixUpdate.Canon := h.each fun _ _ h => h.msixVector

theorem Canon.ringMask {tgt mask} (h : s.Canon) : (s.ringMask tgt mask).Canon := Dev.canonical_ringMask h ..

/-! ### Physical memory and the Groomer's repairs -/

theorem Canon.setBankState {b st} (h : s.Canon) : (s.setBankState b st).Canon := h.setReg

theorem Canon.setPart {b p} (h : s.Canon) : (s.setPart b p).Canon := h.setReg

theorem Canon.zeroBank {b} (h : s.Canon) : (s.zeroBank b).Canon := h.zeroRange.same

theorem Canon.setErr {a e} (h : s.Canon) : (s.setErr a e).Canon := Dev.canonical_setErr h ..

theorem Canon.latchUe {a mid kind} (h : s.Canon) : (s.latchUe a mid kind).Canon := .ite h h.setReg.setReg.setFld.setFld.setFlag

theorem Canon.meetUe {a mid kind} (h : s.Canon) : (s.meetUe a mid kind).Canon := Dev.canonical_meetUe h ..

theorem Canon.bankDeny (h : s.Canon) : s.bankDeny.Canon := h.count

theorem Canon.grantPass {b p} (h : s.Canon) : (s.grantPass b p).Canon := .ite h h.same

theorem Canon.granted {mid b} (h : s.Canon) : (s.granted mid b).Canon := Dev.canonical_granted h ..

theorem Canon.wordRead {mid a n} (h : s.Canon) : (s.wordRead mid a n).2.Canon := Dev.canonical_wordRead h ..

theorem Canon.markDirty {a} (h : s.Canon) : (s.markDirty a).Canon := Dev.canonical_markDirty h ..

theorem Canon.wordWrite {mid a l} (h : s.Canon) : (s.wordWrite mid a l).Canon := Dev.canonical_wordWrite h ..

theorem Canon.sharedRead {mid a n} (h : s.Canon) : (s.sharedRead mid a n).2.Canon := Dev.canonical_sharedRead h ..

theorem Canon.sharedWrite {mid a l} (h : s.Canon) : (s.sharedWrite mid a l).Canon := Dev.canonical_sharedWrite h ..

theorem Canon.physRead {mid a n} (h : s.Canon) : (s.physRead mid a n).2.Canon := Dev.canonical_physRead h ..

theorem Canon.touch {mid l} (h : s.Canon) : (s.touch mid l).Canon := h.each fun _ _ h => h.physRead

theorem Canon.physWrite {mid a l} (h : s.Canon) : (s.physWrite mid a l).Canon := Dev.canonical_physWrite h ..

theorem Canon.crowdCount (h : s.Canon) : s.crowdCount.Canon := .ite h (h.same.each fun _ _ h => h.fresh.countBy)

theorem Canon.conflicts {mask} (h : s.Canon) : (s.conflicts mask).Canon := h.each fun _ _ h => h.count

theorem Canon.strike {a n} (h : s.Canon) : (s.strike a n).Canon := .ite h (.ite h.setErr h.fresh.setBytes.setErr)

theorem Canon.bankGrant {mid w op upset waits told waits2} (h : s.Canon) : (s.bankGrant mid w op upset waits told waits2).Canon := by
  unfold Dev.bankGrant
  dsimp only
  refine .ite h (.ite h.bankDeny (.ite h ?_))
  split
  · exact h.grantPass.strike.conflicts.wordRead.same.when fun _ h => h.conflicts
  · refine .ite h.grantPass.strike.conflicts.wordWrite.same ?_
    split
    · exact h.grantPass.strike.conflicts.conflicts.setBytes.markDirty
    · exact h.grantPass.strike.conflicts.conflicts.count.setBytes.setErr.markDirty
    · exact h.grantPass.strike.conflicts.conflicts.meetUe

theorem Canon.mapOut {b} (h : s.Canon) : (s.mapOut b).Canon := h.setBankState.setPart.setFlag.zeroBank.setFld

theorem Canon.repair {b f} (h : s.Canon) : (s.repair b f).2.Canon := .iteSnd h (.iteSnd h.mapOut h.setFld.setFld.same.countBy)

/-! ### Mode and Degraded condition -/

theorem Canon.modeUpdate (h : s.Canon) : s.modeUpdate.Canon := h.setFld.setFld.when fun _ h => h.ringMask

theorem Canon.degrade {f} (h : s.Canon) : (s.degrade f).Canon := .ite h (h.setFlag.when fun _ h => h.ringMask)

/-! ### Bank power and the Groomer -/

theorem Canon.bankRequest {b st} (h : s.Canon) : (s.bankRequest b st).Canon := by
  unfold Dev.bankRequest
  split
  · exact h.setBankState
  · exact h.count

theorem Canon.bankDone {b} (h : s.Canon) : (s.bankDone b).Canon := by
  unfold Dev.bankDone
  split
  · exact h.setBankState
  · exact h.setBankState
  · exact h.zeroBank.setBankState
  · exact h.zeroBank.setBankState
  · exact h

theorem Canon.grmCmd {v} (h : s.Canon) : (s.grmCmd v).Canon :=
  .ite h.plain (.ite h.plain.count h.plain.setFlag.setFld.setFld.setBankState.same)

theorem Canon.grmRow {fails waits} (h : s.Canon) : (s.grmRow fails waits).Canon := by
  unfold Dev.grmRow
  dsimp only
  split
  · exact .ite h (.ite (h.each fun _ _ h => h.conflicts).setFld.same (.ite (h.each fun _ _ h => h.conflicts).setFld.setFld.count.same
      (h.each fun _ _ h => h.conflicts).setFld.setFlag.same))
  · exact h

theorem Canon.grmEnd {res} (h : s.Canon) : (s.grmEnd res).Canon := h.setFld.setFlag.same.when fun _ h => h.ringMask

theorem Canon.grmDone {f} (h : s.Canon) : (s.grmDone f).Canon := by
  unfold Dev.grmDone
  dsimp only
  split
  · exact h
  · exact .ite h.repair.degrade.grmEnd h.repair.zeroBank.setBankState.grmEnd
  · exact .ite h h.setBankState.grmEnd

theorem Canon.scrubBank (h : s.Canon) : s.scrubBank.Canon := by
  unfold Dev.scrubBank
  dsimp only
  split
  · exact h
  · exact .ite h.setFld.setFld.count h.setFld.setFld

theorem Canon.scrubRead {upset waits told waits2} (h : s.Canon) : (s.scrubRead upset waits told waits2).Canon := by
  unfold Dev.scrubRead
  dsimp only
  refine .ite h (.ite (.ite h h.scrubBank) (.ite ?_ ?_))
  · exact Canon.scrubBank (by
      split
      · exact (Canon.ite h h.scrubBank).grantPass.strike.conflicts
      · exact (Canon.ite h h.scrubBank).grantPass.strike.conflicts.count.count.setErr.conflicts
      · exact (Canon.ite h h.scrubBank).grantPass.strike.conflicts.meetUe.count)
  · exact Canon.setFld (by
      split
      · exact (Canon.ite h h.scrubBank).grantPass.strike.conflicts
      · exact (Canon.ite h h.scrubBank).grantPass.strike.conflicts.count.count.setErr.conflicts
      · exact (Canon.ite h h.scrubBank).grantPass.strike.conflicts.meetUe.count)

theorem Canon.grmWrite {r i v} (h : s.Canon) : (s.grmWrite r i v).Canon := by
  unfold Dev.grmWrite
  split
  · exact h.grmCmd
  · exact h.plain

theorem Canon.smfRead {r i active} (h : s.Canon) : (s.smfRead r i active).2.Canon := by
  unfold Dev.smfRead
  dsimp only
  split
  · exact h
  · exact h.crowdCount
  · exact h

/-! ### Time bases, servos and time pins -/

theorem Canon.outMove {n d} (h : s.Canon) : (s.outMove n d).Canon := h.each fun _ _ h => .ite h h.same

theorem Canon.setTb {n v} (h : s.Canon) : (s.setTb n v).Canon := h.same.outMove

theorem Canon.copiesLag {n v incr slm} (h : s.Canon) : (s.copiesLag n v incr slm).Canon := h.same

theorem Canon.copyUpdate {isl n} (h : s.Canon) : (s.copyUpdate isl n).Canon := by
  unfold Dev.copyUpdate
  dsimp only
  split
  · exact h
  · exact .ite h.same (.ite h.same h.same)

theorem Canon.pastTick {n} (h : s.Canon) : (s.pastTick n).Canon := .ite h.same.same h.same

theorem Canon.tbBell {n f} (h : s.Canon) : (s.tbBell n f).Canon := h.when fun _ h => h.ringMask

theorem Canon.tbAdvance {n} (h : s.Canon) : (s.tbAdvance n).Canon := h.setTb.when fun _ h => (Canon.ite h.same h).tbBell

theorem Canon.updOut {j f} (h : s.Canon) : (s.updOut j f).Canon := h.same

theorem Canon.outSkip {n d} (h : s.Canon) : (s.outSkip n d).Canon := h.each fun _ _ h => .ite h h.updOut.countBy

theorem Canon.outStart {j} (h : s.Canon) : (s.outStart j).Canon := h.updOut

theorem Canon.outEdge {j} (h : s.Canon) : (s.outEdge j).Canon := .ite h (.ite (.ite h.updOut h) (.ite h.updOut h))

theorem Canon.setSrv {n st good} (h : s.Canon) : (s.setSrv n st good).Canon := h.setFld.setFld

theorem Canon.holdStart {n} (h : s.Canon) : (s.holdStart n).Canon := h.same

theorem Canon.srvStep {n} (h : s.Canon) : (s.srvStep n).Canon := .ite h.setSrv (.ite h.setSrv.holdStart h)

theorem Canon.adjusted {n v0 v slm} (h : s.Canon) : (s.adjusted n v0 v slm).Canon := h.copiesLag.setTb.outSkip.count.srvStep.tbBell

theorem Canon.srvAccept {n good} (h : s.Canon) : (s.srvAccept n good).Canon :=
  .ite (.ite h.holdStart.setSrv (.ite h.holdStart.setSrv h.holdStart.setSrv.tbBell)) (.ite (.ite h.holdStart h.holdStart.setSrv)
    (.ite h.holdStart.setSrv h.holdStart))

theorem Canon.setIncr {n i v0} (h : s.Canon) : (s.setIncr n i v0).Canon := .ite h h.copiesLag.setReg

theorem Canon.srvSample {n src th} (h : s.Canon) : (s.srvSample n src th).Canon :=
  .ite (.ite h.count.setReg.adjusted.srvAccept h.count.count.tbAdvance) (h.count.when fun _ h => h.count).setReg.setReg.tbAdvance.setIncr.srvAccept

theorem Canon.adjApply {n a} (h : s.Canon) : (s.adjApply n a).Canon := by
  unfold Dev.adjApply
  dsimp only
  split
  · exact h.adjusted.same
  · exact h.adjusted.same
  · exact h.adjusted.same
  · exact .ite h.srvSample.same (.ite h.count h)

theorem Canon.adjust {n a} (h : s.Canon) : (s.adjust n a).Canon := .ite h.same h.adjApply

theorem Canon.holdTimeout {n} (h : s.Canon) : (s.holdTimeout n).Canon := .ite h.setFld.setIncr h

theorem Canon.holdTick {n} (h : s.Canon) : (s.holdTick n).Canon := .ite h.same.holdTimeout h

theorem Canon.tbTick {n} (h : s.Canon) : (s.tbTick n).Canon := by
  unfold Dev.tbTick
  dsimp only
  split
  · exact (Canon.ite h.same h.tbAdvance).same.pastTick.holdTick.same.adjApply
  · exact (Canon.ite h.same h.tbAdvance).same.pastTick.holdTick

theorem Canon.srvSettings {n} (h : s.Canon) : (s.srvSettings n).Canon := .ite h.setSrv.setReg.holdStart (.ite h.setFld.setReg.setIncr h)

theorem Canon.setTxts {n l} (h : s.Canon) : (s.setTxts n l).Canon := h.same.setFld

theorem Canon.txtsAdd {n e} (h : s.Canon) : (s.txtsAdd n e).Canon := .ite h.count (h.setTxts.when fun _ h => h.ringMask)

theorem Canon.txtsPop {n} (h : s.Canon) : (s.txtsPop n).2.2.Canon := by
  unfold Dev.txtsPop
  split
  · exact h
  · exact h.setTxts

theorem Canon.evtPop {k} (h : s.Canon) : (s.evtPop k).2.2.Canon := by
  unfold Dev.evtPop
  dsimp only
  split
  · exact h
  · exact h.same

theorem Canon.theta {d} (h : s.Canon) : (s.theta d).2.Canon := .iteSnd h h.fresh

theorem Canon.ppsSamples {k} (h : s.Canon) : (s.ppsSamples k).Canon := by
  refine h.each fun _ _ h => .ite ?_ h
  extract_lets d s₁
  split
  exact (Canon.theta h.setReg).of_eq.adjust

theorem Canon.inputEdge {k rise width} (h : s.Canon) : (s.inputEdge k rise width).Canon :=
  .ite h (Canon.ite h.count (h.same.when fun _ h => h.ringMask)).ppsSamples

theorem Canon.refWindow (h : s.Canon) : s.refWindow.Canon := h.same

theorem Canon.refTick (h : s.Canon) : s.refTick.Canon := by
  unfold Dev.refTick
  dsimp only
  split
  · exact h
  · exact h.same.refWindow
  · exact h.same

theorem Canon.refEnd (h : s.Canon) : s.refEnd.Canon := by
  refine .ite h (Canon.each h fun _ _ h => .ite ?_ h).same
  extract_lets d
  split
  exact h.theta.of_eq.setReg.adjust

theorem Canon.refPresence {on} (h : s.Canon) : (s.refPresence on).Canon := .ite h.setFlag.refWindow h.setFlag.same

theorem Canon.tmuRead {r i} (h : s.Canon) : (s.tmuRead r i).2.Canon := by
  unfold Dev.tmuRead
  split <;> exact h

theorem Canon.tmuWrite {r i v} (h : s.Canon) : (s.tmuWrite r i v).Canon := by
  unfold Dev.tmuWrite
  dsimp only
  split
  · exact .ite h.adjust h.count
  · exact h.plainIf.srvSettings
  · exact h.plain.setIncr
  · exact .ite h.misuse h.plain
  · exact .ite h.misuse h.plain
  · exact .ite h.misuse h.plain
  · exact .ite h.misuse h.plain
  · exact .ite h.plainIf.outStart h.plainIf
  · exact h.plain

/-! ### Partitions and the event log -/

theorem Canon.partFill {n p off l} (h : s.Canon) : (s.partFill n p off l).Canon := by
  fun_induction Dev.partFill n p off l s with
  | case1 | case2 | case3 => exact h
  | case4 _ _ _ _ _ _ _ _ _ ih => exact ih h.setBytes

theorem Canon.partRead {f mid p off n} (h : s.Canon) : (s.partRead f mid p off n).2.Canon := by
  fun_induction Dev.partRead f mid p off n s with
  | case1 | case2 | case3 => exact h
  | case4 _ _ _ _ _ _ _ _ _ _ _ _ _ _ _ _ ih => exact (ih h.physRead.of_eq).of_eq

theorem Canon.logRecord {source code data} (h : s.Canon) : (s.logRecord source code data).Canon := by
  unfold Dev.logRecord
  dsimp only
  split
  · exact h
  · split
    · exact (Canon.ite h.physWrite h).physRead
    · exact (Canon.ite h.physWrite h).physRead.physWrite.physWrite.same

theorem Canon.eventLog {source code data} (h : s.Canon) : (s.eventLog source code data).Canon := .ite h.logRecord h

/-! ### Mailboxes, doorbells and locks -/

theorem Canon.mbxStage {mid ctx v} (h : s.Canon) : (s.mbxStage mid ctx v).Canon := h.same

theorem Canon.mbxResult {mid ctx r} (h : s.Canon) : (s.mbxResult mid ctx r).Canon := h.same

theorem Canon.mbxStore {m mid ctx lo hi} (h : s.Canon) : (s.mbxStore m mid ctx lo hi).Canon := h.setReg.setReg.setFlag.setFld.setFld

theorem Canon.mbxCommit {m mid ctx hi} (h : s.Canon) : (s.mbxCommit m mid ctx hi).Canon :=
  .ite h.misuse.mbxResult (.ite h.count.mbxResult h.mbxStore.count.mbxResult)

theorem Canon.mbxSnap {m x} (h : s.Canon) : (s.mbxSnap m x).Canon := h.same

theorem Canon.mbxReadLow {m mid ctx} (h : s.Canon) : (s.mbxReadLow m mid ctx).2.Canon := .iteSnd h.misuse (.iteSnd h.mbxSnap h.mbxSnap)

theorem Canon.takenRing {m} (h : s.Canon) : (s.takenRing m).Canon := h.when fun _ h => h.ringMask

theorem Canon.mbxReadHigh {m mid ctx} (h : s.Canon) : (s.mbxReadHigh m mid ctx).2.Canon := by
  unfold Dev.mbxReadHigh
  refine .iteSnd h.misuse ?_
  split
  · exact .iteSnd h.setFlag.mbxSnap.takenRing h.misuse
  · exact .iteSnd h.mbxSnap h.misuse
  · exact h.misuse

theorem Canon.mbxFlush {m} (h : s.Canon) : (s.mbxFlush m).Canon := .ite h.mbxSnap.setFlag.count h.mbxSnap

theorem Canon.lockRead {n mid} (h : s.Canon) : (s.lockRead n mid).2.Canon := .iteSnd h h.setReg

theorem Canon.lockWrite {n mid v} (h : s.Canon) : (s.lockWrite n mid v).Canon := .ite h.setReg h.count

theorem Canon.lockForce {n} (h : s.Canon) : (s.lockForce n).Canon := .ite h.setReg.count h

theorem Canon.mbxRead {r i mid ctx} (h : s.Canon) : (s.mbxRead r i mid ctx).2.Canon := by
  unfold Dev.mbxRead
  split
  · exact h.mbxReadLow
  · exact h.mbxReadHigh
  · exact h.lockRead
  · exact h
  · exact h
  · exact h

theorem Canon.mbxWrite {r i mid ctx v} (h : s.Canon) : (s.mbxWrite r i mid ctx v).Canon := by
  unfold Dev.mbxWrite
  split
  · exact h.mbxStage
  · exact h.mbxCommit
  · exact h.lockWrite
  · exact h.plain.msixUpdate
  · exact h.ringMask
  · exact .ite h.plain.lockForce h.refuseWrite
  · exact .ite h.plain.mbxFlush h.refuseWrite
  · exact h.plain

/-! ### Contexts -/

theorem Canon.updCtx {c f} (h : s.Canon) : (s.updCtx c f).Canon := h.same

theorem Canon.updEng {e f} (h : s.Canon) : (s.updEng e f).Canon := h.same

theorem Canon.skzMisuse {c} (h : s.Canon) : (s.skzMisuse c).Canon := h.updEng

theorem Canon.setOnline {n e b} (h : s.Canon) : (s.setOnline n e b).Canon := h.setFld.setFlag

theorem Canon.setQueue {ge q} (h : s.Canon) : (s.setQueue ge q).Canon := .ite h.same.setFld h.same.setFld

theorem Canon.enqueue {ge j} (h : s.Canon) : (s.enqueue ge j).Canon := h.same.setQueue

theorem Canon.showState {c} (h : s.Canon) : (s.showState c).Canon := .ite h h.setFld

theorem Canon.setSt {c t} (h : s.Canon) : (s.setSt c t).Canon := h.updCtx.showState

theorem Canon.loadJob {c j} (h : s.Canon) : (s.loadJob c j).Canon := h.updCtx.showState

theorem Canon.jobLost {n k} (h : s.Canon) : (s.jobLost n k).Canon := h.countBy

theorem Canon.wake {c} (h : s.Canon) : (s.wake c).Canon := h.updCtx.showState

theorem Canon.issued {c} (h : s.Canon) : (s.issued c).Canon := h.updEng.updCtx

theorem Canon.faultBell {n} (h : s.Canon) : (s.faultBell n).Canon := .ite (h.when fun _ h => h.ringMask) (h.when fun _ h => h.ringMask)

theorem Canon.faultCtx {c code half done store va} (h : s.Canon) : (s.faultCtx c code half done store va).Canon :=
  .ite h.updCtx.setSt.setReg.setReg.setReg.count.faultBell h.updCtx.setSt.setReg.setReg.setReg.count.faultBell

/-! ### Address translation -/

theorem Canon.readEntry {mid pa} (h : s.Canon) : (s.readEntry mid pa).2.Canon := .iteSnd h h.sharedRead

theorem Canon.walk {mid space va root} (h : s.Canon) : (s.walk mid space va root).2.Canon := by
  unfold Dev.walk
  dsimp only
  refine .iteSnd h ?_
  split
  · exact h.readEntry
  · refine .iteSnd h.readEntry (.iteSnd h.readEntry (.iteSnd (.iteSnd h.readEntry h.readEntry) (.iteSnd h.readEntry ?_)))
    split
    · exact h.readEntry.readEntry
    · exact .iteSnd h.readEntry.readEntry (.iteSnd h.readEntry.readEntry h.readEntry.readEntry)

theorem Canon.fillMicro {c e} (h : s.Canon) : (s.fillMicro c e).Canon := h.fresh.updCtx

theorem Canon.fillL2 {n e} (h : s.Canon) : (s.fillL2 n e).Canon := h.fresh.same

theorem Canon.translate {c va store} (h : s.Canon) : (s.translate c va store).2.Canon := by
  unfold Dev.translate
  dsimp only
  refine .iteSnd h (.iteSnd h (.iteSnd h ?_))
  split
  · exact h
  · refine .iteSnd h ?_
    split
    · exact h.fillMicro
    · exact h

theorem Canon.liftTranslate {n mid space va store} (h : s.Canon) : (s.liftTranslate n mid space va store).2.Canon := by
  unfold Dev.liftTranslate
  dsimp only
  refine .iteSnd h ?_
  split
  · split <;> exact h
  · split
    · exact h.walk.of_eq
    · split
      · exact h.walk.of_eq
      · exact h.walk.of_eq.fillL2

theorem Canon.tlbInvalidate {n v} (h : s.Canon) : (s.tlbInvalidate n v).Canon := (h.same.each fun _ _ h => h.updCtx).setFlag

theorem Canon.tlbInvDone {n} (h : s.Canon) : (s.tlbInvDone n).Canon := .ite h h.setFlag

theorem Canon.walkStart {c} (h : s.Canon) : (s.walkStart c).Canon := by
  unfold Dev.walkStart
  dsimp only
  split
  · exact .ite h.same.updCtx h
  · exact h

/-! ### Lifts -/

theorem Canon.updLift {l f} (h : s.Canon) : (s.updLift l f).Canon := h.same

theorem Canon.liftEvent {l i b} (h : s.Canon) : (s.liftEvent l i b).Canon := h.updCtx

theorem Canon.becomeIdle {c} (h : s.Canon) : (s.becomeIdle c).Canon := h.updCtx.setSt

theorem Canon.liftSettled {c} (h : s.Canon) : (s.liftSettled c).Canon := .ite h (.ite h.updCtx.becomeIdle (.ite h.becomeIdle h))

theorem Canon.liftStart {l mid ctx pa} (h : s.Canon) : (s.liftStart l mid ctx pa).Canon :=
  .ite h.count h.setFld.setFld.setFld.setFld.setReg.setReg.updLift

theorem Canon.liftStopped {l} (h : s.Canon) : (s.liftStopped l).Canon := h.setFld.count.liftSettled

theorem Canon.liftFault {l code side va} (h : s.Canon) : (s.liftFault l code side va).Canon :=
  .ite h.setReg.setReg.setFld.count.liftEvent.setReg.faultBell h.setReg.setReg.setFld.count.liftEvent.faultBell

theorem Canon.liftDescEnd {l} (h : s.Canon) : (s.liftDescEnd l).Canon := .ite h.updLift h.setReg.setReg.setFld.updLift

theorem Canon.liftFetch {l} (h : s.Canon) : (s.liftFetch l).Canon :=
  .ite h.liftStopped (.ite h (.ite h (.ite h.physRead.liftFault (.ite h.physRead.updLift.liftFault
    (.ite h.physRead.updLift.liftDescEnd h.physRead.updLift)))))

theorem Canon.deviceTranslate {l space va store} (h : s.Canon) : (s.deviceTranslate l space va store).2.Canon := by
  unfold Dev.deviceTranslate
  dsimp only
  refine .iteSnd h ?_
  split
  · refine .iteSnd h ?_
    split
    · exact h.walk.of_eq
    · exact h.walk.of_eq.updLift
  · split
    · exact h.walk.of_eq
    · exact h.walk.of_eq.updLift

theorem Canon.liftAddr {l phys store va} (h : s.Canon) : (s.liftAddr l phys store va).2.Canon :=
  .iteSnd h (.iteSnd h.liftTranslate h.deviceTranslate)

theorem Canon.liftAddrs {l phys store ps} (h : s.Canon) : (s.liftAddrs l phys store ps).2.Canon := by
  induction ps generalizing s with
  | nil => exact h
  | cons p ps ih =>
    unfold Dev.liftAddrs
    split
    · exact h.liftAddr.of_eq
    · split <;> exact (ih h.liftAddr.of_eq).of_eq

theorem Canon.liftRead {mid ps d} (h : s.Canon) : (s.liftRead mid ps d).2.Canon := by
  induction ps generalizing s d with
  | nil => exact h
  | cons p ps ih =>
    unfold Dev.liftRead
    dsimp only
    refine .iteSnd h.physRead ?_
    split <;> exact (ih h.physRead).of_eq

theorem Canon.liftWrite {mid ps l} (h : s.Canon) : (s.liftWrite mid ps l).Canon := by
  induction ps generalizing s l with
  | nil => exact h
  | cons _ _ ih => exact ih h.physWrite

theorem Canon.liftBlock {l} (h : s.Canon) : (s.liftBlock l).Canon := by
  unfold Dev.liftBlock
  dsimp only
  refine .ite h.liftStopped (.ite h (.ite h ?_))
  split
  · exact h.liftAddrs.of_eq.liftFault
  · split
    · exact h.liftAddrs.of_eq.liftAddrs.of_eq.liftFault
    · refine .ite h ?_
      split
      · exact h.liftAddrs.of_eq.liftAddrs.of_eq.liftRead.of_eq.liftFault
      · exact .ite h.liftAddrs.of_eq.liftAddrs.of_eq.liftRead.of_eq.liftWrite.setFld.liftDescEnd
          h.liftAddrs.of_eq.liftAddrs.of_eq.liftRead.of_eq.liftWrite.setFld

theorem Canon.liftDone {l} (h : s.Canon) : (s.liftDone l).Canon := .ite h (h.setFld.liftEvent.count.when fun _ h => h.ringMask).liftSettled

theorem Canon.liftResume {l} (h : s.Canon) : (s.liftResume l).Canon := h.setFld.liftEvent.updLift

theorem Canon.liftAbort {l} (h : s.Canon) : (s.liftAbort l).Canon := .ite h.liftStopped h.setFld

theorem Canon.liftCtrl {l mid ctx v} (h : s.Canon) : (s.liftCtrl l mid ctx v).Canon :=
  .ite h (.ite h.count (.ite (.ite h.liftResume h.count) (.ite h.liftAbort h.count)))

theorem Canon.abortOwned {c} (h : s.Canon) : (s.abortOwned c).Canon := h.each fun _ _ h => .ite h.liftAbort h

theorem Canon.lftWrite {r i mid ctx v} (h : s.Canon) : (s.lftWrite r i mid ctx v).Canon := by
  unfold Dev.lftWrite
  split
  · exact h.plain.liftCtrl
  · exact h.plain

/-! ### Job queues and stealing -/

theorem Canon.sendAsk {c} (h : s.Canon) : (s.sendAsk c).Canon := by
  unfold Dev.sendAsk
  dsimp only
  split
  · exact h.same
  · exact h

theorem Canon.noticed (h : s.Canon) : s.noticed.Canon := h.same

theorem Canon.offer {n e j hw moved front} (h : s.Canon) : (s.offer n e j hw moved front).2.Canon := by
  unfold Dev.offer
  dsimp only
  split
  · exact h.count
  · refine .iteSnd h.count (.iteSnd h.enqueue.noticed ?_)
    split
    · exact h.count
    · exact h.same

theorem Canon.push {n j hw moved front} (h : s.Canon) : (s.push n j hw moved front).2.Canon :=
  .iteSnd h.offer (.iteSnd h.offer (.ite h.count.count h.count))

theorem Canon.stagePush {win i mid ctx v} (h : s.Canon) : (s.stagePush win i mid ctx v).Canon := h.same

theorem Canon.takeStaged {win mid ctx} (h : s.Canon) : (s.takeStaged win mid ctx).2.Canon := h.same

theorem Canon.pushWrite {n i mid ctx v} (h : s.Canon) : (s.pushWrite n i mid ctx v).Canon := .ite h.stagePush.takeStaged.push h.stagePush

theorem Canon.patPushWrite {i mid ctx v} (h : s.Canon) : (s.patPushWrite i mid ctx v).Canon :=
  .ite (.ite h.stagePush.takeStaged.count (h.stagePush.takeStaged.enqueue.when fun _ h => h.each fun _ _ h => .ite h.updCtx h).noticed) h.stagePush

theorem Canon.jobTake {ge} (h : s.Canon) : (s.jobTake ge).Canon := by
  unfold Dev.jobTake
  dsimp only
  split
  · exact h
  · split
    · exact h.setQueue.loadJob
    · exact h

theorem Canon.localSteal {c} (h : s.Canon) : (s.localSteal c).Canon := by
  unfold Dev.localSteal
  dsimp only
  refine .ite h ?_
  split
  · exact h
  · split
    · exact h
    · exact h.setQueue.loadJob.count

theorem Canon.rinkTake {v p} (h : s.Canon) : (s.rinkTake v p).2.Canon := by
  unfold Dev.rinkTake
  split
  · exact h
  · split
    · exact h
    · exact h.setQueue

theorem Canon.answerSteal {c v j} (h : s.Canon) : (s.answerSteal c v j).Canon := h.same

theorem Canon.askArrives {q} (h : s.Canon) : (s.askArrives q).Canon := by
  unfold Dev.askArrives
  dsimp only
  refine .ite ?_ h.same.rinkTake.answerSteal
  split
  · exact h.same.setQueue.answerSteal
  · exact h.same.answerSteal

theorem Canon.stealRequest {c} (h : s.Canon) : (s.stealRequest c).Canon := by
  unfold Dev.stealRequest
  split
  · exact h.askArrives
  · exact h

theorem Canon.patStealRequest {c} (h : s.Canon) : (s.patStealRequest c).Canon := by
  unfold Dev.patStealRequest
  split
  · exact h.askArrives
  · exact h

theorem Canon.stealReply {c} (h : s.Canon) : (s.stealReply c).Canon := by
  unfold Dev.stealReply
  dsimp only
  split
  · exact h
  · split
    · exact (Canon.ite h.same.count.updCtx h.same.count).sendAsk
    · exact .ite h.same.count.loadJob h.same.count.offer

theorem Canon.windowExpiry {c} (h : s.Canon) : (s.windowExpiry c).Canon := .ite h.updCtx.sendAsk h

theorem Canon.ctxResume {c} (h : s.Canon) : (s.ctxResume c).Canon := h.updCtx.setSt

theorem Canon.ctxAbort {c} (h : s.Canon) : (s.ctxAbort c).Canon := (Canon.ite h h.jobLost).updCtx.abortOwned.liftSettled

theorem Canon.ctxCtrl {c v} (h : s.Canon) : (s.ctxCtrl c v).Canon := .ite h.ctxResume (.ite h.ctxAbort h)

theorem Canon.ctxStop {c} (h : s.Canon) : (s.ctxStop c).Canon := (Canon.ite h.jobLost h).abortOwned.updCtx.setSt

theorem Canon.engineOffline {n e} (h : s.Canon) : (s.engineOffline n e).Canon :=
  .ite h (Canon.ite (h.setOnline.each fun _ _ h => h.ctxStop).setQueue.setQueue.jobLost (h.setOnline.each fun _ _ h =>
    h.ctxStop).setQueue.jobLost).degrade

theorem Canon.resetRegs {q p} (h : s.Canon) : (s.resetRegs q p).Canon := Dev.canonical_resetRegs h ..

theorem Canon.rinkClear {n} (h : s.Canon) : (s.rinkClear n).Canon := h.countBy.same.resetRegs.setFld.each fun _ _ h => h.setSt

theorem Canon.rinkStart {n} (h : s.Canon) : (s.rinkStart n).Canon := h.each fun _ _ h => .ite h.updCtx.setSt h

theorem Canon.rnkWrite {r i j mid ctx v} (h : s.Canon) : (s.rnkWrite r i j mid ctx v).Canon := by
  unfold Dev.rnkWrite
  dsimp only
  split
  · exact h.pushWrite
  · exact h.plain.tlbInvalidate
  · exact .ite h.refuseWrite h.plain.ctxCtrl
  · exact .ite h.plain.engineOffline h.plain
  · exact h.plain

/-! ### The switch core -/

theorem Canon.updMac {n f} (h : s.Canon) : (s.updMac n f).Canon := h.same

theorem Canon.updSwc {f} (h : s.Canon) : (s.updSwc f).Canon := h.same

theorem Canon.updFrame {cell f} (h : s.Canon) : (s.updFrame cell f).Canon := h.updSwc

theorem Canon.sends {n x} (h : s.Canon) : (s.sends n x).Canon := h.updMac

theorem Canon.poolShow (h : s.Canon) : s.poolShow.Canon := h.setFld.setFld

theorem Canon.useShow {p} (h : s.Canon) : (s.useShow p).Canon := h.setFld.setFld.setFld.poolShow

theorem Canon.updUse {p f} (h : s.Canon) : (s.updUse p f).Canon := h.updSwc.useShow

theorem Canon.controlOut {n f} (h : s.Canon) : (s.controlOut n f).Canon := h.sends.count

theorem Canon.sendControl {n op params} (h : s.Canon) : (s.sendControl n op params).Canon := .ite h (.ite h.updMac h.controlOut)

theorem Canon.sendPause {n quanta} (h : s.Canon) : (s.sendPause n quanta).Canon := h.sendControl

theorem Canon.sendPfc {n c quanta} (h : s.Canon) : (s.sendPfc n c quanta).Canon := .ite h h.sendControl

theorem Canon.bpUpdate {p} (h : s.Canon) : (s.bpUpdate p).Canon :=
  .ite h ((Canon.ite h.setFlag.count.sendPause (.ite h.setFlag.sendPause h.setFlag)).each fun _ _ h => .ite h.setFld.count.sendPfc
    (.ite h.setFld.sendPfc h.setFld))

theorem Canon.bpAll (h : s.Canon) : s.bpAll.Canon := h.each fun _ _ h => h.bpUpdate

theorem Canon.of_some {t} (h : s.Canon) (e : some s = some t) : t.Canon := by
  cases e
  exact h

theorem Canon.chargeCell {t p c sched} (h : s.Canon) (e : s.chargeCell p c sched = some t) : t.Canon := by
  unfold Dev.chargeCell at e
  extract_lets u cls at e
  split at e
  · split at e
    · exact h.updUse.of_some e
    · cases e
  · split at e
    · exact h.updUse.bpUpdate.of_some e
    · split at e
      · exact h.updUse.bpAll.of_some e
      · split at e
        · exact h.updUse.bpUpdate.of_some e
        · cases e

theorem Canon.uncharge {p c sched k} (h : s.Canon) : (s.uncharge p c sched k).Canon := h.updUse.bpAll

theorem Canon.pickCell {cells} (h : s.Canon) : (s.pickCell cells).2.Canon := by
  unfold Dev.pickCell
  dsimp only
  split <;> exact h.fresh

theorem Canon.allocCells {p c sched k cells} (h : s.Canon) : (s.allocCells p c sched k cells).2.Canon := by
  induction k generalizing s cells with
  | zero => exact h
  | succ k ih =>
    unfold Dev.allocCells
    split
    · exact h.uncharge
    · next e =>
      have h := h.chargeCell e
      split
      · exact ih h.pickCell.of_eq
      · exact h.pickCell.of_eq.uncharge

theorem Canon.capLose (h : s.Canon) : s.capLose.Canon := h.updSwc.count

theorem Canon.capWrite (h : s.Canon) : s.capWrite.Canon := by
  unfold Dev.capWrite
  dsimp only
  split
  · exact h
  · exact h.physWrite.updSwc.setFld.count.when fun _ h => h.ringMask

theorem Canon.capture {x ue} (h : s.Canon) : (s.capture x ue).Canon := by
  unfold Dev.capture
  dsimp only
  refine .ite h ?_
  split
  · exact h.updSwc
  · exact .ite h.updSwc.capLose.count (.ite h.updSwc.capLose h.updSwc.updSwc)

theorem Canon.writeCells {x stored} (h : s.Canon) : (s.writeCells x stored).Canon := h.each fun _ _ h => h.physWrite

theorem Canon.readCellsBy {mid l n} (h : s.Canon) : (s.readCellsBy mid l n).2.Canon := by
  induction l generalizing s n with
  | nil => exact h
  | cons a l ih => exact ih h.physRead

theorem Canon.readCells {l n} (h : s.Canon) : (s.readCells l n).2.Canon := h.readCellsBy

theorem Canon.captureCopy {cell port dir reason} (h : s.Canon) : (s.captureCopy cell port dir reason).Canon := .ite h h.readCells.capture

theorem Canon.egrCells {p f} (h : s.Canon) : (s.egrCells p f).Canon := h.setFld

theorem Canon.endCopy {cell p} (h : s.Canon) : (s.endCopy cell p).Canon := .ite h.egrCells.updFrame h.egrCells.updFrame.uncharge

theorem Canon.notSent {n cell} (h : s.Canon) : (s.notSent n cell).Canon := by
  unfold Dev.notSent
  dsimp only
  split
  · exact h.txtsAdd
  · exact h

theorem Canon.dropCopy {cell p} (h : s.Canon) : (s.dropCopy cell p).Canon := (Canon.ite h.notSent h).endCopy

theorem Canon.creditStep {n dt} (h : s.Canon) : (s.creditStep n dt).Canon := .ite h.updMac h.updMac

theorem Canon.unselect {n} (h : s.Canon) : (s.unselect n).Canon := by
  unfold Dev.unselect
  split
  · exact h
  · exact h.updSwc.updMac

theorem Canon.queueCopy {q c} (h : s.Canon) : (s.queueCopy q c).Canon := (h.when fun _ h => h.creditStep).updFrame.egrCells.updSwc.count

theorem Canon.enqueueCopy {q c} (h : s.Canon) : (s.enqueueCopy q c).Canon :=
  .ite h (.ite h.count.captureCopy (.ite h.count.captureCopy h.queueCopy))

theorem Canon.flushPort {n} (h : s.Canon) : (s.flushPort n).Canon := h.updSwc.updMac.each fun _ _ h => h.captureCopy.dropCopy.count

theorem Canon.flushHeld {n} (h : s.Canon) : (s.flushHeld n).Canon := h.updSwc.each fun _ _ h => h.captureCopy.endCopy.count

theorem Canon.fdbFree {addr vid} (h : s.Canon) : (s.fdbFree addr vid).2.Canon := by
  unfold Dev.fdbFree
  dsimp only
  split
  · exact h
  · exact h.fresh

theorem Canon.setFdb {i e} (h : s.Canon) : (s.setFdb i e).Canon := h.updSwc

theorem Canon.learn {addr vid port} (h : s.Canon) : (s.learn addr vid port).Canon := by
  unfold Dev.learn
  dsimp only
  split
  · exact .ite h.setFdb.count (.ite h.count h)
  · split
    · exact h.fdbFree.of_eq.setFdb.count
    · exact h.fdbFree.of_eq.count

theorem Canon.fdbAge {i} (h : s.Canon) : (s.fdbAge i).Canon := .ite h.setFdb h

theorem Canon.tblSet {t i e} (h : s.Canon) : (s.tblSet t i e).Canon := h.updSwc

theorem Canon.tblShow {e} (h : s.Canon) : (s.tblShow e).Canon := h.setReg.setReg.setReg.setReg

theorem Canon.tblFree {t e} (h : s.Canon) : (s.tblFree t e).2.Canon := .iteSnd h.fdbFree h.fresh

theorem Canon.tblRun {res idx} (h : s.Canon) : (s.tblRun res idx).Canon := h.updSwc.setFlag

theorem Canon.tblExec {t op i} (h : s.Canon) : (s.tblExec t op i).Canon := by
  unfold Dev.tblExec
  split
  · exact .ite h.tblShow.tblRun h.tblRun
  · exact .ite h.tblSet.tblRun h.tblRun
  · split
    · exact h.tblShow.tblRun
    · exact h.tblRun
  · split
    · exact h.tblSet.tblRun
    · split
      · exact h.tblFree.of_eq.tblSet.tblRun
      · exact h.tblFree.of_eq.tblRun
  · split
    · exact h.tblSet.tblRun
    · exact h.tblRun

theorem Canon.tblCmd {v} (h : s.Canon) : (s.tblCmd v).Canon :=
  .ite (.ite h.count h.count.refuseWrite) (.ite h.plain.tblExec h.refuseWrite.setFld)

theorem Canon.tblDone (h : s.Canon) : s.tblDone.Canon := .ite h.setFlag.setFld.setFld h

theorem Canon.updHeld {p cell f} (h : s.Canon) : (s.updHeld p cell f).Canon := h.updSwc

theorem Canon.deliverCopy {p cls} (h : s.Canon) : (s.deliverCopy p cls).Canon := by
  unfold Dev.deliverCopy
  dsimp only
  refine .ite h ?_
  split
  · exact h
  · refine .ite ?_ ?_
    · split
      · exact h.push.of_eq.updSwc
      · exact (Canon.ite h.push.of_eq.updSwc.count h.push.of_eq.updSwc).count.captureCopy.endCopy
      · exact h.push.of_eq.updSwc
    · split
      · exact h
      · exact h.updSwc.updSwc.mbxStage.mbxCommit

theorem Canon.freeCopy {mid v} (h : s.Canon) : (s.freeCopy mid v).Canon := by
  unfold Dev.freeCopy
  dsimp only
  split
  · exact h.plain.count
  · exact .ite h.plain.updSwc.endCopy h.plain.count

theorem Canon.injWrite {i mid ctx v} (h : s.Canon) : (s.injWrite i mid ctx v).Canon := by
  unfold Dev.injWrite
  dsimp only
  refine .ite h.updSwc ?_
  split
  · exact h.refuseWrite.updSwc
  · exact .ite h.count.updSwc (.ite h.count.updSwc h.updSwc.updSwc)

theorem Canon.gclShow {n off} (h : s.Canon) : (s.gclShow n off).Canon := h.setFld.setFld

theorem Canon.gclStart {n} (h : s.Canon) : (s.gclStart n).Canon := h.updSwc

theorem Canon.gclStop {n} (h : s.Canon) : (s.gclStop n).Canon := (Canon.ite h.setFld.setFlag h).setFld.setFld.updSwc

theorem Canon.gclCycle {n} (h : s.Canon) : (s.gclCycle n).Canon := by
  unfold Dev.gclCycle
  obtain ⟨due, e⟩ : ∃ due, due = Dev.dueAt := ⟨_, rfl⟩
  rw [← e]
  dsimp only
  refine .ite h ?_
  split
  · exact h
  · exact h.updSwc.gclShow
  · exact h.updSwc.countBy

theorem Canon.gclEntry {n} (h : s.Canon) : (s.gclEntry n).Canon := .ite h h.gclShow

theorem Canon.gclArm {n v} (h : s.Canon) : (s.gclArm n v).Canon := .ite h.refuseWrite (.ite h.plain.setFld.setFlag h.plain.updSwc.setFlag)

theorem Canon.gclSwitch {n} (h : s.Canon) : (s.gclSwitch n).Canon := by
  unfold Dev.gclSwitch
  obtain ⟨due, e⟩ : ∃ due, due = Dev.dueAt := ⟨_, rfl⟩
  rw [← e]
  dsimp only
  refine .ite h ?_
  split
  · exact h
  · exact h.setFld.setFlag.updSwc.gclShow
  · exact h.updSwc.countBy

/-! ### Forwarding and transmission -/

theorem Canon.dupCheck {r f} (h : s.Canon) : (s.dupCheck r f).2.Canon := by
  unfold Dev.dupCheck
  dsimp only
  refine .iteSnd h ?_
  split
  · exact h
  · exact .iteSnd h (Canon.ite h.count h).updSwc

theorem Canon.dupForget {r key} (h : s.Canon) : (s.dupForget r key).Canon := h.updSwc

theorem Canon.redNext {r given} (h : s.Canon) : (s.redNext r given).2.Canon := by
  unfold Dev.redNext
  dsimp only
  split
  · exact h
  · exact h.setFld

theorem Canon.dupOnce {inst seen f} (h : s.Canon) : (s.dupOnce inst seen f).2.Canon := by
  unfold Dev.dupOnce
  split
  · exact h
  · exact h.dupCheck
  · exact h

theorem Canon.enqueueAll {x mask} (h : s.Canon) : (s.enqueueAll x mask).Canon := by
  unfold Dev.enqueueAll
  dsimp only
  exact (h.foldl fun _ _ _ h => h.redNext).each fun _ _ h => h.enqueueCopy

theorem Canon.discard {r reason x} (h : s.Canon) : (s.discard r reason x).Canon := h.count.capture

theorem Canon.steps {x i f vid len gap} (h : s.Canon) : (s.steps x i f vid len gap).Canon := by
  unfold Dev.steps
  extract_lets p vl st e k
  refine .ite h.discard (.ite h.discard ?_)
  split
  next m ok _ =>
  extract_lets s₁
  have h₁ : s₁.Canon := h.updSwc
  clear_value s₁
  refine .ite h₁.discard ?_
  split
  next r ok _ =>
  extract_lets s₂
  have h₂ : s₂.Canon := h₁.updSwc
  clear_value s₂
  refine .ite h₂.discard ?_
  split
  next dup s₃ _ =>
  have h₃ : s₃.Canon := h₂.dupOnce.of_eq
  refine .ite h₃.discard ?_
  extract_lets s₄
  have h₄ : s₄.Canon := .ite h₃.learn h₃
  clear_value s₄
  split
  exact (Canon.ite h₄.count h₄).enqueueAll

theorem Canon.releaseIdle {cell} (h : s.Canon) : (s.releaseIdle cell).Canon := .ite h.updFrame.uncharge h

theorem Canon.pmDeliver {x pm f} (h : s.Canon) : (s.pmDeliver x pm f).2.Canon := by
  unfold Dev.pmDeliver
  dsimp only
  split
  · exact h
  · exact .ite h.dupOnce h.dupOnce.queueCopy

theorem Canon.forwardSteps {x i f vid gap} (h : s.Canon) : (s.forwardSteps x i f vid gap).Canon :=
  .ite (h.pmDeliver.when fun _ h => h.discard) (.ite h.pmDeliver.count.steps (.ite h.pmDeliver.count
    (h.pmDeliver.count.when fun _ h => h.discard).discard))

theorem Canon.forward {p stored inj ts tb gap} (h : s.Canon) : (s.forward p stored inj ts tb gap).Canon := by
  unfold Dev.forward
  dsimp only
  split
  · exact .ite h.allocCells.of_eq.count h.allocCells.of_eq.discard
  · exact Canon.releaseIdle (by
      split
      · exact .ite h.allocCells.of_eq.capture.updFrame.writeCells.enqueueAll h.allocCells.of_eq.capture.updFrame.writeCells.forwardSteps
      · exact h.allocCells.of_eq.capture.updFrame.writeCells.forwardSteps)

theorem Canon.injectStart {p gap} (h : s.Canon) : (s.injectStart p gap).Canon := by
  unfold Dev.injectStart
  split
  · exact h
  · extract_lets len addr s₁ inside bell s₂
    have h₁ : s₁.Canon := h.updSwc
    have h₂ : s₂.Canon := .ite h₁ h₁.physRead
    have hb (s : Dev) (h : s.Canon) : (bell s).Canon := h.when fun _ h => h.ringMask
    clear_value s₂ s₁ bell
    refine .ite h (.ite (hb _ h₂.count) ?_)
    split
    next r s₃ _ =>
    have h₃ : s₃.Canon := h₁.physRead.of_eq
    exact .ite (hb _ h₃.count) (hb _ h₃.forward)

theorem Canon.dequeue {n c} (h : s.Canon) : (s.dequeue n c).Canon := h.updSwc

theorem Canon.oversize {n} (h : s.Canon) : (s.oversize n).Canon := by
  unfold Dev.oversize
  exact h.each fun _ _ h => by
    split
    · exact .ite h.captureCopy.dequeue.dropCopy.count h
    · exact h

theorem Canon.select {n lead dt} (h : s.Canon) : (s.select n lead dt).Canon := by
  unfold Dev.select
  extract_lets s₁ s₂
  have h₁ : s₁.Canon := h.creditStep
  have h₂ : s₂.Canon := h₁.oversize
  clear_value s₂ s₁
  refine .ite h₁ ?_
  split
  · exact h₂
  · split
    · exact h₂
    · exact .ite h₂.dequeue.dropCopy.count h₂.dequeue.updMac

theorem Canon.residence {n x stamp b} (h : s.Canon) : (s.residence n x stamp b).2.Canon := by
  unfold Dev.residence
  dsimp only
  refine .iteSnd h ?_
  split
  · exact h
  · exact .iteSnd h (.iteSnd h.count h)
  · exact .iteSnd h (.iteSnd h.count h)
  · exact .iteSnd h.count h

theorem Canon.linkBell {n} (h : s.Canon) : (s.linkBell n).Canon := h.when fun _ h => h.ringMask

theorem Canon.takePn {n} (h : s.Canon) : (s.takePn n).2.Canon := by
  unfold Dev.takePn
  dsimp only
  split
  · exact h.count
  · exact .ite h.setReg.setReg.setFlag.linkBell h.setReg.setReg

theorem Canon.slmSent {red stamp b} (h : s.Canon) : (s.slmSent red stamp b).Canon := by
  unfold Dev.slmSent
  dsimp only
  split
  · exact .ite (Canon.ite h.count.count h.count).count (.ite h.count.count h.count)
  · exact h.count
  · exact h

theorem Canon.transmit {n late dt} (h : s.Canon) : (s.transmit n late dt).Canon := by
  unfold Dev.transmit
  extract_lets s₁ s₂
  have h₁ : s₁.Canon := h.creditStep
  have h₂ : s₂.Canon := h₁.updMac
  clear_value s₂ s₁
  split
  · exact h₁
  · extract_lets x
    refine .ite h₁ ?_
    split
    next r s₃ _ =>
    have h₃ : s₃.Canon := h₂.readCells.of_eq
    extract_lets s₄ stamp
    have h₄ : s₄.Canon := h₃.when fun _ h => h.count
    clear_value s₄
    refine .ite h₃.captureCopy.dropCopy.count ?_
    split
    next b s₅ _ =>
    have h₅ : s₅.Canon := h₄.residence.of_eq
    extract_lets b'
    split
    next out s₆ e =>
    have h₆ : s₆.Canon := by
      split at e
      · split at e
        cases e
        exact h₅.takePn.of_eq
      · cases e
        exact h₅
    split
    · exact h₆.dropCopy
    · refine Canon.setFlag (Canon.sends (Canon.updMac (Canon.capture ?_)))
      split
      · exact h₆.slmSent.txtsAdd
      · exact h₆.slmSent

theorem Canon.controlGo {n} (h : s.Canon) : (s.controlGo n).Canon := h.updMac.each fun _ _ h => h.controlOut

theorem Canon.truncate {n} (h : s.Canon) : (s.truncate n).Canon := by
  unfold Dev.truncate
  split
  · exact h
  · exact h.updMac.setFlag.endCopy

theorem Canon.transmitDone {n dt} (h : s.Canon) : (s.transmitDone n dt).Canon := by
  unfold Dev.transmitDone
  dsimp only
  split
  · exact h.creditStep
  · exact h.creditStep.updMac.setFlag.endCopy.count.controlGo

/-! ### Flow control, links and traverse mode -/

theorem Canon.selStopped {n} (h : s.Canon) : (s.selStopped n).Canon := h.when fun _ h => h.unselect

theorem Canon.macControl {n f} (h : s.Canon) : (s.macControl n f).Canon :=
  .ite (.ite h.count h.count.updMac.setFlag.selStopped) (.ite (.ite h.count (h.count.each fun _ _ h => h.updMac.setFld).selStopped) h.count)

theorem Canon.pauseExpiry {n c} (h : s.Canon) : (s.pauseExpiry n c).Canon := by
  unfold Dev.pauseExpiry
  split
  · exact h.updMac.setFlag
  · exact h.updMac.setFld

theorem Canon.pauseRefresh {n} (h : s.Canon) : (s.pauseRefresh n).Canon := by
  unfold Dev.pauseRefresh
  dsimp only
  split
  · exact .ite h.sendPause h
  · exact h.each fun _ _ h => h.sendPfc
  · exact h

theorem Canon.setLink {n up} (h : s.Canon) : (s.setLink n up).Canon := .ite h h.setFlag.count.linkBell

theorem Canon.tphyLink {k up t} (h : s.Canon) : (s.tphyLink k up t).Canon :=
  .ite (Canon.ite h.countBy.count h.countBy).setFlag.setFlag (Canon.ite h.countBy.count h.countBy).setFlag.setFlag.setFlag.setFlag.setFld

theorem Canon.lineLink {n up speed} (h : s.Canon) : (s.lineLink n up speed).Canon := (h.when fun _ h => h.setFld).setLink

theorem Canon.linkChange {n up speed t} (h : s.Canon) : (s.linkChange n up speed t).Canon := (Canon.ite h.tphyLink h).lineLink

theorem Canon.laneChange {l lock sync an errs} (h : s.Canon) : (s.laneChange l lock sync an errs).Canon :=
  (Canon.ite (Canon.ite h.countBy.count h.countBy).setFlag.setFlag.setFlag.count (Canon.ite h.countBy.count h.countBy).setFlag.setFlag.setFlag).each
    fun _ _ h => .ite h h.lineLink

theorem Canon.travBreak {p} (h : s.Canon) : (s.travBreak p).Canon := by
  unfold Dev.travBreak
  exact h.each fun _ _ h => by
    split
    · exact .ite h h.updMac.updMac.setFlag
    · exact h

theorem Canon.travCut {n} (h : s.Canon) : (s.travCut n).Canon := (h.each fun _ _ h => h.travBreak).updMac

theorem Canon.sdsWrite {r l v} (h : s.Canon) : (s.sdsWrite r l v).Canon := by
  unfold Dev.sdsWrite
  dsimp only
  split
  · exact .ite (h.plainIf.each fun _ _ h => h.truncate.travBreak).laneChange (.ite (h.plainIf.each fun _ _ h => .ite h h.lineLink) h.plainIf)
  · exact .ite (Canon.ite h.plain (h.plain.each fun _ _ h => h.updMac)).laneChange (.ite h.plain (h.plain.each fun _ _ h => h.updMac))
  · exact h.plain

theorem Canon.tphyWrite {r k v} (h : s.Canon) : (s.tphyWrite r k v).Canon := .ite h.plain.tphyLink.setLink h.plain

theorem Canon.portReset {n} (h : s.Canon) : (s.portReset n).Canon :=
  (Canon.ite h.setLink.truncate.travBreak.travCut.unselect.updMac.same h.setLink.truncate.travBreak.travCut.unselect.updMac).resetRegs.setFlag.same

theorem Canon.portResetEnd {n} (h : s.Canon) : (s.portResetEnd n).Canon := h.setFlag.setFlag.same

theorem Canon.ringFill {base pos l} (h : s.Canon) : (s.ringFill base pos l).Canon := by
  induction l generalizing s pos with
  | nil => exact h
  | cons b l ih => exact ih h.setByte

theorem Canon.travSfd {n ago} (h : s.Canon) : (s.travSfd n ago).Canon := by
  unfold Dev.travSfd
  dsimp only
  refine .ite h (.ite ?_ (Canon.ite h.updMac.setFlag.count h.updMac.setFlag.count).count)
  split
  · exact h.updMac.setFlag.push.of_eq.count
  · exact h.updMac.setFlag.push.of_eq

theorem Canon.travBytes {n l} (h : s.Canon) : (s.travBytes n l).Canon := by
  unfold Dev.travBytes
  dsimp only
  split
  · exact (Canon.ite h.ringFill h.countBy).updMac
  · exact h

theorem Canon.travBegin {n} (h : s.Canon) : (s.travBegin n).Canon := by
  unfold Dev.travBegin
  dsimp only
  split
  · exact .ite h (h.each fun _ _ h => h.setFlag).updMac
  · exact h

theorem Canon.travSample {n k} (h : s.Canon) : (s.travSample n k).Canon := by
  unfold Dev.travSample
  dsimp only
  split
  · exact h.travBegin.updMac
  · exact h.travBegin

theorem Canon.travCount {n t cut} (h : s.Canon) : (s.travCount n t cut).Canon := .ite h.count (.ite h.count (.ite h.count (.ite h.count h)))

theorem Canon.travEnd {n cut} (h : s.Canon) : (s.travEnd n cut).Canon := by
  unfold Dev.travEnd
  dsimp only
  split
  · split
    · exact h.travSample.updMac.setFlag.travCount.when fun _ h => h.count
    · exact ((h.travSample.updMac.setFlag.travCount.when fun _ h => h.count).when fun _ h => h.sends).setFlag
  · exact h.travSample

theorem Canon.traverseFrame {n sfd rx k ends cut} (h : s.Canon) : (s.traverseFrame n sfd rx k ends cut).Canon := by
  unfold Dev.traverseFrame
  dsimp only
  exact (((Canon.when (by
    split
    · exact .ite h h.travSfd
    · exact h) fun _ h => h.updMac).when fun _ h => h.travBytes).when fun _ h => h.travSample).when fun _ h => h.travEnd

theorem Canon.travWrote {pa size} (h : s.Canon) : (s.travWrote pa size).Canon := h.each fun _ _ h => .ite h (h.when fun _ h => h.count)

theorem Canon.txpnRestart {n} (h : s.Canon) : (s.txpnRestart n).Canon := h.setReg.setReg.setFlag

theorem Canon.macWrite {r n j v} (h : s.Canon) : (s.macWrite r n j v).Canon := by
  unfold Dev.macWrite
  dsimp only
  split
  · exact h.plainIf
  · exact .ite h.plain.portReset h.plain
  · exact (h.plainIf.when fun _ h => h.each fun _ _ h => h.updMac).setFlag.setFlag
  · exact h.plain.bpUpdate
  · exact .ite h.plain h.plain.txpnRestart
  · exact h.plain

theorem Canon.swcWrite {r i j k mid ctx v} (h : s.Canon) : (s.swcWrite r i j k mid ctx v).Canon := by
  unfold Dev.swcWrite
  dsimp only
  split
  · exact h.tblCmd
  · exact h.freeCopy
  · exact h.injWrite
  · exact h.gclArm
  · exact .ite h.plain.gclStart (.ite h.plain.gclStop h.plain)
  · exact .ite h.refuseWrite h.plain
  · exact .ite h.refuseWrite h.plain
  · exact .ite h.refuseWrite h.plain
  · exact .ite h.refuseWrite h.plain
  · exact .ite h.refuseWrite h.plain
  · exact h.plain.bpAll
  · exact h.plainIf.bpAll
  · exact h.plainIf.bpUpdate
  · exact h.plainIf.poolShow.bpAll
  · exact h.plainIf.poolShow.bpAll
  · exact .ite h.plainIf.updSwc h.plainIf
  · exact h.plain

/-! ### Cyclic control -/

theorem Canon.updTask {t f} (h : s.Canon) : (s.updTask t f).Canon := h.same

theorem Canon.readEnts {l} (h : s.Canon) : (s.readEnts l).Canon := h.touch

theorem Canon.slotShow {n} (h : s.Canon) : (s.slotShow n).Canon := .ite h.setFld h.setFld.setFld

theorem Canon.slotsShow (h : s.Canon) : s.slotsShow.Canon := h.each fun _ _ h => h.slotShow

theorem Canon.ctlHold {on} (h : s.Canon) : (s.ctlHold on).Canon := h.setFlag.each fun _ _ h => h.slotShow

theorem Canon.slotSeq {n} (h : s.Canon) : (s.slotSeq n).Canon := h.setFld

theorem Canon.inCommit {n} (h : s.Canon) : (s.inCommit n).Canon := h.same.setFld.setFld.setFlag.setFlag.slotSeq.slotShow

theorem Canon.outCommit {live n} (h : s.Canon) : (s.outCommit live n).Canon := h.setFld.setFld.setFld.slotSeq.same.slotShow

theorem Canon.slotCommit {n} (h : s.Canon) : (s.slotCommit n).Canon := .ite h.misuse (.ite h.inCommit (.ite h.count h.outCommit))

theorem Canon.lossReport {i} (h : s.Canon) : (s.lossReport i).Canon := .ite h.misuse (.ite h h.setFlag.setFld.slotShow)

theorem Canon.slotForce {n mid en} (h : s.Canon) : (s.slotForce n mid en).Canon := .ite h.misuse h.setFlag.slotShow

theorem Canon.arithReport {t} (h : s.Canon) : (s.arithReport t).Canon := h.setFlag.count

theorem Canon.ctlBell {f} (h : s.Canon) : (s.ctlBell f).Canon := h.when fun _ h => h.ringMask

theorem Canon.taskCoast {t} (h : s.Canon) : (s.taskCoast t).Canon := .ite h.updTask h

theorem Canon.tasksCoast (h : s.Canon) : s.tasksCoast.Canon := h.each fun _ _ h => h.taskCoast

theorem Canon.ctlSlalom {num c} (h : s.Canon) : (s.ctlSlalom num c).Canon := h.each fun _ _ h => .ite h.updTask h

theorem Canon.ctlRelock (h : s.Canon) : s.ctlRelock.Canon := h.each fun _ _ h => .ite h.updTask h

theorem Canon.ctlGate {m c} (h : s.Canon) : (s.ctlGate m c).Canon := h.each fun _ _ h => .ite h.updTask h

theorem Canon.taskRetime {t} (h : s.Canon) : (s.taskRetime t).Canon := .ite h.updTask h

theorem Canon.taskEnable {t on} (h : s.Canon) : (s.taskEnable t on).Canon := .ite h.updTask.taskRetime h.updTask.updTask

theorem Canon.ctlPower (h : s.Canon) : s.ctlPower.Canon := h.each fun _ _ h => h.taskRetime

theorem Canon.latchSlot {t n} (h : s.Canon) : (s.latchSlot t n).2.Canon := (Canon.ite h.setFld.setFld.setFlag h).setFld.setFld.slotShow

theorem Canon.parTimely {t on} (h : s.Canon) : (s.parTimely t on).Canon := h.same

theorem Canon.tableWrite {t} (h : s.Canon) : (s.tableWrite t).Canon := .ite h (h.each fun _ _ h => h.physWrite).updTask

theorem Canon.latchTask {tsk} (h : s.Canon) : (s.latchTask tsk).Canon := by
  unfold Dev.latchTask
  dsimp only
  exact (h.foldl fun _ _ _ h => h.latchSlot).touch.readEnts.updTask.tableWrite

theorem Canon.exchangeAt {t t0} (h : s.Canon) : (s.exchangeAt t t0).Canon :=
  .ite h h.setReg.setReg.setFlag.setFlag.updTask.ctlBell.modeUpdate.fresh.eventLog

theorem Canon.inputLatch {t} (h : s.Canon) : (s.inputLatch t).Canon := by
  unfold Dev.inputLatch
  dsimp only
  split
  · exact h
  · exact .ite h (.ite h.updTask.count.taskCoast (.ite h.updTask.setReg.updTask.taskCoast.parTimely
      h.updTask.setReg.updTask.taskCoast.parTimely.exchangeAt.latchTask))

theorem Canon.taskRelease {t} (h : s.Canon) : (s.taskRelease t).Canon := by
  unfold Dev.taskRelease
  dsimp only
  split
  · exact h.tableWrite
  · split
    · exact h.tableWrite.updTask.push.of_eq.count
    · exact h.tableWrite.updTask.push.of_eq.setFld.updTask

theorem Canon.runReport {t} (h : s.Canon) : (s.runReport t).Canon := h.setFld.updTask

theorem Canon.runStopped {t} (h : s.Canon) : (s.runStopped t).Canon := h.setFld.updTask.count

theorem Canon.enterSafe {t} (h : s.Canon) : (s.enterSafe t).Canon :=
  .ite (Canon.ite h.setFlag.setFlag (h.setFlag.same.each fun _ _ h => h.slotShow)).ctlBell
    (Canon.ite h.setFlag.setFlag (h.setFlag.same.each fun _ _ h => h.slotShow)).ctlBell.updTask

theorem Canon.leaveSafe {t} (h : s.Canon) : (s.leaveSafe t).Canon := h.setFlag.updTask

theorem Canon.taskCommit {t} (h : s.Canon) : (s.taskCommit t).Canon :=
  .ite (Canon.ite h.parTimely (h.each fun _ _ h => h.outCommit)).count.setFld.updTask.leaveSafe
    (Canon.ite h.parTimely (h.each fun _ _ h => h.outCommit)).count.setFld.updTask

theorem Canon.taskOverrun {t} (h : s.Canon) : (s.taskOverrun t).Canon :=
  .ite (Canon.ite h.parTimely.count.setFld.ctlBell.updTask.setFld h.parTimely.count.setFld.ctlBell.updTask).enterSafe
    (.ite h.parTimely.count.setFld.ctlBell.updTask.setFld h.parTimely.count.setFld.ctlBell.updTask)

theorem Canon.outputDeadline {t} (h : s.Canon) : (s.outputDeadline t).Canon := .ite h (.ite h.updTask.taskCommit h.updTask.taskOverrun)

theorem Canon.reapRuns (h : s.Canon) : s.reapRuns.Canon := h.each fun _ _ h => .ite h (.ite h h.setFld.updTask)

theorem Canon.taskArm {t mid} (h : s.Canon) : (s.taskArm t mid).Canon := .ite h.touch.count h.touch.setFlag.setFlag.modeUpdate

theorem Canon.ctlWrite {r i mid v} (h : s.Canon) : (s.ctlWrite r i mid v).Canon := by
  unfold Dev.ctlWrite
  dsimp only
  split
  · exact .ite h.readEnts.plain.slotCommit h.readEnts.refuseWrite
  · exact .ite h.readEnts.plain.lossReport h.readEnts.refuseWrite
  · exact .ite h.readEnts.refuseWrite h.readEnts.plain.slotForce
  · exact h.plain.arithReport
  · exact .ite h.plainIf.taskEnable (.ite h.plainIf h.plainIf.updTask.taskRetime)
  · exact .ite h.plain.taskRetime h.plain
  · exact .ite h.plain.taskRetime h.plain
  · exact .ite h.refuseWrite h.plain
  · exact .ite (Canon.ite (Canon.ite h h.misuse).taskArm (.ite h h.misuse)).leaveSafe (.ite (Canon.ite h h.misuse).taskArm (.ite h h.misuse))
  · exact Canon.plain (by
      split
      · exact h.readEnts
      · exact h.readEnts
      · exact h.readEnts
      · exact h)

/-! ### The Slalom controller -/

theorem Canon.updSlm {f} (h : s.Canon) : (s.updSlm f).Canon := h.same

theorem Canon.slmArmNow (h : s.Canon) : s.slmArmNow.Canon := .ite h.setFld.setFlag h

theorem Canon.slmGo {st} (h : s.Canon) : (s.slmGo st).Canon :=
  .ite h (.ite (h.setFld.when fun _ h => h.ringMask).ctlRelock (.ite (h.setFld.when fun _ h => h.ringMask).tasksCoast
    (h.setFld.when fun _ h => h.ringMask)))

theorem Canon.slmStop {st} (h : s.Canon) : (s.slmStop st).Canon := h.updSlm.slmGo.slmArmNow

theorem Canon.slmAttempt (h : s.Canon) : s.slmAttempt.Canon := h.setFld

theorem Canon.slmEnable {on} (h : s.Canon) : (s.slmEnable on).Canon := .ite h.setFld.slmStop h.slmStop

theorem Canon.slmMute {cause} (h : s.Canon) : (s.slmMute cause).Canon := h.count.setFld.slmStop

theorem Canon.slmCollide {again} (h : s.Canon) : (s.slmCollide again).Canon := (Canon.ite h.count.slmAttempt h.count).slmStop

theorem Canon.slmBegin {num c} (h : s.Canon) : (s.slmBegin num c).Canon := h.updSlm.setFld.setReg.ctlSlalom

theorem Canon.listenTimeout (h : s.Canon) : s.listenTimeout.Canon := .ite h (.ite h.slmGo.updSlm.slmBegin h.slmAttempt)

theorem Canon.dcbCommit {d} (h : s.Canon) : (s.dcbCommit d).Canon := h.setFld.setFld.setFlag.setFlag.updSlm

theorem Canon.dcbTake {d} (h : s.Canon) : (s.dcbTake d).Canon := .ite h.setFld.setFld.setFlag h

theorem Canon.gatePayload {b g} (h : s.Canon) : (s.gatePayload b g).2.2.Canon :=
  .iteSnd₂ (.iteSnd₂ h.updSlm.dcbTake (.iteSnd₂ h.updSlm.dcbTake.physRead h.updSlm.dcbTake.physRead))
    (.iteSnd₂ h.updSlm (.iteSnd₂ h.updSlm.physRead h.updSlm.physRead))

theorem Canon.gatePickup {g} (h : s.Canon) : (s.gatePickup g).Canon := by
  unfold Dev.gatePickup
  dsimp only
  refine .ite h ?_
  split
  · exact h
  · exact h.gatePayload.updSlm

theorem Canon.startNow {p c} (h : s.Canon) : (s.startNow p c).Canon := .ite h (.ite h.select.transmit h)

theorem Canon.slmQueue {p at_ f} (h : s.Canon) : (s.slmQueue p at_ f).Canon := by
  unfold Dev.slmQueue
  dsimp only
  split
  · exact h.allocCells.of_eq.count
  · exact h.allocCells.of_eq.updFrame.writeCells.queueCopy.startNow.releaseIdle

theorem Canon.gateSend {g dir} (h : s.Canon) : (s.gateSend g dir).Canon := by
  unfold Dev.gateSend
  dsimp only
  split
  · exact h
  · exact .ite h h.updSlm.slmQueue

theorem Canon.slmNext (h : s.Canon) : s.slmNext.Canon :=
  (Canon.ite (Canon.ite h.updSlm.setFld.setFlag h.updSlm).updSlm (.ite h.updSlm.setFld.setFlag h.updSlm)).slmBegin

theorem Canon.slmArm {v} (h : s.Canon) : (s.slmArm v).Canon :=
  .ite h.plain.count (.ite h.plain.setFlag.updSlm.slmArmNow h.plain.setFlag.updSlm)

theorem Canon.slmSync (h : s.Canon) : s.slmSync.Canon := by
  unfold Dev.slmSync
  dsimp only
  split
  · refine .ite ?_ ?_
    · split
      · exact (h.updSlm.when fun _ h => h.ringMask).count
      · exact .ite (h.updSlm.when fun _ h => h.ringMask).setReg.setFld.adjust (h.updSlm.when fun _ h => h.ringMask).setReg.setFld
    · refine .ite ?_ ?_
      · refine .ite ?_ ?_
        · split
          · exact (h.updSlm.when fun _ h => h.ringMask).count
          · exact .ite (h.updSlm.when fun _ h => h.ringMask).setReg.setFld.adjust (h.updSlm.when fun _ h => h.ringMask).setReg.setFld
        · exact (Canon.setFld (by
            split
            · exact (h.updSlm.when fun _ h => h.ringMask).count
            · exact .ite (h.updSlm.when fun _ h => h.ringMask).setReg.setFld.adjust (h.updSlm.when fun _ h => h.ringMask).setReg.setFld)).updSlm.slmGo
      · exact Canon.slmStop (by
          split
          · exact (h.updSlm.when fun _ h => h.ringMask).count
          · exact .ite (h.updSlm.when fun _ h => h.ringMask).setReg.setFld.adjust (h.updSlm.when fun _ h => h.ringMask).setReg.setFld)
  · refine .ite ?_ ?_
    · exact (Canon.setFld (by
        split
        · exact (h.updSlm.when fun _ h => h.ringMask).count
        · exact .ite (h.updSlm.when fun _ h => h.ringMask).setReg.setFld.adjust (h.updSlm.when fun _ h => h.ringMask).setReg.setFld)).updSlm.slmGo
    · split
      · exact (h.updSlm.when fun _ h => h.ringMask).count
      · exact .ite (h.updSlm.when fun _ h => h.ringMask).setReg.setFld.adjust (h.updSlm.when fun _ h => h.ringMask).setReg.setFld
  · refine .ite ?_ ?_
    · exact Canon.slmMute (by
        split
        · exact (h.updSlm.when fun _ h => h.ringMask).count
        · exact .ite (h.updSlm.when fun _ h => h.ringMask).setReg.setFld.adjust (h.updSlm.when fun _ h => h.ringMask).setReg.setFld)
    · split
      · exact (h.updSlm.when fun _ h => h.ringMask).count
      · exact .ite (h.updSlm.when fun _ h => h.ringMask).setReg.setFld.adjust (h.updSlm.when fun _ h => h.ringMask).setReg.setFld
  · split
    · exact (h.updSlm.when fun _ h => h.ringMask).count
    · exact .ite (h.updSlm.when fun _ h => h.ringMask).setReg.setFld.adjust (h.updSlm.when fun _ h => h.ringMask).setReg.setFld

theorem Canon.slmCycleEnd (h : s.Canon) : s.slmCycleEnd.Canon := .ite h.setFld (.ite h.setFld.updSlm.slmMute h.setFld.updSlm)

theorem Canon.syncPoint (h : s.Canon) : s.syncPoint.Canon := .ite h h.slmSync

theorem Canon.slmCycleStart (h : s.Canon) : s.slmCycleStart.Canon :=
  .ite h (.ite (Canon.ite (Canon.ite h h.slmSync).slmCycleEnd (.ite h h.slmSync)).slmNext (.ite (Canon.ite h h.slmSync).slmCycleEnd
    (.ite h h.slmSync)))

theorem Canon.slmDeliver {b hd f ts tb} (h : s.Canon) : (s.slmDeliver b hd f ts tb).Canon := by
  unfold Dev.slmDeliver
  extract_lets pay buf
  split
  next addr st s₁ e =>
  have h₁ : s₁.Canon := by
    split at e
    · cases e
      exact h.physWrite.dcbCommit
    · cases e
      exact .ite h.physWrite.inCommit h
  refine .ite h₁ ?_
  split
  · exact h₁.push.of_eq.count
  · exact h₁.push.of_eq

theorem Canon.slmAccept {b e hd f ts tb} (h : s.Canon) : (s.slmAccept b e hd f ts tb).Canon :=
  .ite h.updSlm.updSlm.count (.ite h.updSlm.updSlm.count.slmDeliver h.updSlm.updSlm.count)

theorem Canon.slmTake {hd f snd ts tb} (h : s.Canon) : (s.slmTake hd f snd ts tb).Canon := by
  unfold Dev.slmTake
  split
  · exact h.slmAccept
  · exact h.count
  · exact h.count
  · exact h.count
  · exact h.count
  · exact h.count.updSlm
  · exact h.count.updSlm
  · exact h.count

theorem Canon.slmIntegrateOn {hd snd} (h : s.Canon) : (s.slmIntegrateOn hd snd).Canon :=
  (Canon.iteSnd h.updSlm.updSlm.adjust h.updSlm).updSlm.setFld.setReg.slmGo

theorem Canon.slmColdHdr {hd snd} (h : s.Canon) : (s.slmColdHdr hd snd).Canon := by
  unfold Dev.slmColdHdr
  split
  · exact h.count
  · exact h.count
  · exact h.count
  · exact h.count
  · exact h

theorem Canon.slmByState {n hd f ts ago tb} (h : s.Canon) : (s.slmByState n hd f ts ago tb).Canon := by
  unfold Dev.slmByState
  dsimp only
  split
  · exact .ite (.ite h.slmIntegrateOn.slmColdHdr.updSlm h.slmIntegrateOn.slmTake) (.ite h.count (.ite h.count h.count))
  · exact .ite (.ite h.slmColdHdr.slmCollide h.slmColdHdr) (.ite h.slmTake.slmCollide h.slmTake)
  · exact .ite h.slmColdHdr.count.updSlm h.slmTake
  · exact .ite h.slmColdHdr.count h.slmTake
  · exact h

theorem Canon.slmOwnNode {hd f} (h : s.Canon) : (s.slmOwnNode hd f).Canon := .ite h (.ite h.count.slmMute (.ite h.count.slmCollide h.count))

theorem Canon.slmForward {n cell hd} (h : s.Canon) : (s.slmForward n cell hd).Canon := .ite h h.queueCopy.startNow

theorem Canon.slmReceive {n f ts ago} (h : s.Canon) : (s.slmReceive n f ts ago).Canon := by
  unfold Dev.slmReceive
  dsimp only
  split
  · exact h.allocCells.of_eq.count
  · exact (Canon.ite (Canon.count (by
      split
      · exact h.allocCells.of_eq.capture.updFrame.writeCells.queueCopy
      · exact h.allocCells.of_eq.capture.updFrame.writeCells)) (.ite (Canon.count (by
      split
      · exact h.allocCells.of_eq.capture.updFrame.writeCells.queueCopy
      · exact h.allocCells.of_eq.capture.updFrame.writeCells)) (.ite (Canon.slmOwnNode (by
      split
      · exact h.allocCells.of_eq.capture.updFrame.writeCells.queueCopy
      · exact h.allocCells.of_eq.capture.updFrame.writeCells)) (Canon.slmForward (by
      split
      · exact h.allocCells.of_eq.capture.updFrame.writeCells.queueCopy
      · exact h.allocCells.of_eq.capture.updFrame.writeCells)).slmByState))).releaseIdle

theorem Canon.slmWrite {r i j v} (h : s.Canon) : (s.slmWrite r i j v).Canon := by
  unfold Dev.slmWrite
  dsimp only
  split
  · exact .ite h.plainIf h.plainIf.slmEnable
  · exact h.plainIf
  · exact h.slmArm
  · exact .ite h.refuseWrite h.plain
  · exact .ite h.refuseWrite h.plain
  · exact .ite h.refuseWrite h.plain
  · exact .ite h.refuseWrite h.plain
  · exact .ite h.refuseWrite h.plain
  · exact .ite h.refuseWrite h.plain
  · exact .ite h.refuseWrite h.plain
  · exact .ite h.plainIf (.ite h.plainIf.dcbCommit (.ite h.plainIf.dcbTake h.plainIf))
  · exact h.plain

/-! ### The CAN controllers -/

theorem Canon.updCan {n f} (h : s.Canon) : (s.updCan n f).Canon := h.same

theorem Canon.canBus {n tx rx} (h : s.Canon) : (s.canBus n tx rx).Canon := h.updCan.setFlag

theorem Canon.canBell {n f} (h : s.Canon) : (s.canBell n f).Canon := h.when fun _ h => h.ringMask

theorem Canon.canGo {n st} (h : s.Canon) : (s.canGo n st).Canon := .ite h h.setFld.canBell

theorem Canon.setCanBit {r n b v} (h : s.Canon) : (s.setCanBit r n b v).Canon := h.setReg

theorem Canon.bufResult {n b v} (h : s.Canon) : (s.bufResult n b v).Canon := h.setReg

theorem Canon.canRequest {n b} (h : s.Canon) : (s.canRequest n b).Canon := .ite h (.ite h.setCanBit h.count)

theorem Canon.canCancel {n b} (h : s.Canon) : (s.canCancel n b).Canon := by
  unfold Dev.canCancel
  refine .ite h ?_
  split
  · exact .ite h.updCan h.setCanBit.bufResult
  · exact h.setCanBit.bufResult

theorem Canon.ringLift (h : s.Canon) : s.ringLift.Canon := .ite (.ite h h.setFld.setFlag.setFld.setFld.updLift) (.ite h.setFld.setFlag h)

theorem Canon.ringStore {n sof echo f} (h : s.Canon) : (s.ringStore n sof echo f).Canon := .ite h (.ite h.count h.updCan)

theorem Canon.ringPush {n e} (h : s.Canon) : (s.ringPush n e).Canon := by
  unfold Dev.ringPush
  dsimp only
  refine .ite h.count (.ite h.same ?_)
  split
  · exact h.push.of_eq.count
  · exact h.push.of_eq

theorem Canon.ringAck {n} (h : s.Canon) : (s.ringAck n).Canon := by
  unfold Dev.ringAck
  dsimp only
  split
  · exact h
  · exact .ite h (h.physWrite.updCan.setFld.count.canBell.when fun _ h => h.ringPush).ringLift

theorem Canon.canConfine {n} (h : s.Canon) : (s.canConfine n).Canon := .ite h (.ite h.count.canGo h.canGo)

theorem Canon.canError {n k tx special} (h : s.Canon) : (s.canError n k tx special).Canon :=
  .ite h (.ite h.count (Canon.ite (.ite h.count h.count.setFld) h.count.setFld).canConfine)

theorem Canon.recDown {n} (h : s.Canon) : (s.recDown n).Canon := .ite h.fresh.setFld.canConfine h.setFld

theorem Canon.canStart {n b gate} (h : s.Canon) : (s.canStart n b gate).Canon := h.setReg.canBus

theorem Canon.canEdge {n f} (h : s.Canon) : (s.canEdge n f).Canon := .ite h.fresh.setFld h

theorem Canon.canOver {n rx} (h : s.Canon) : (s.canOver n rx).Canon := .ite h.canBus h.canBus.updCan.canGo

theorem Canon.canSent {n b f sof} (h : s.Canon) : (s.canSent n b f sof).Canon :=
  (Canon.ite h.canEdge.setCanBit.bufResult.setCanBit.count.canBell.setFld.canConfine.ringStore
    h.canEdge.setCanBit.bufResult.setCanBit.count.canBell.setFld.canConfine).when fun _ h => h.ringStore

theorem Canon.canOffer {n} (h : s.Canon) : (s.canOffer n).Canon := by
  unfold Dev.canOffer
  split
  · exact h
  · exact .ite h.canStart h

theorem Canon.canFailed {n t r} (h : s.Canon) : (s.canFailed n t r).Canon := .ite h.setCanBit.bufResult (.ite h.bufResult h)

theorem Canon.canEnd {n t o} (h : s.Canon) : (s.canEnd n t o).Canon := by
  unfold Dev.canEnd
  refine .ite h.canSent.canOver ?_
  split
  · exact h
  · exact h.canSent.canOver
  · exact h.count.canFailed.canOver
  · exact (h.when fun _ h => h.canEdge).canError.canFailed.canOver

theorem Canon.canMute {n} (h : s.Canon) : (s.canMute n).Canon := by
  unfold Dev.canMute
  split
  · exact .ite h.canFailed.canOver h
  · exact h

theorem Canon.canTransmit {n o} (h : s.Canon) : (s.canTransmit n o).Canon := by
  unfold Dev.canTransmit
  split
  · exact h.canOffer
  · exact h
  · exact h.canEnd
  · exact h

theorem Canon.canBusError {n k tx special edge} (h : s.Canon) : (s.canBusError n k tx special edge).Canon := by
  unfold Dev.canBusError
  dsimp only
  split
  · exact h.canEnd
  · exact h.canError
  · exact .ite h.canError h.canError.canOver

theorem Canon.canMiss {n b} (h : s.Canon) : (s.canMiss n b).Canon := h.bufResult.setCanBit.count

theorem Canon.canGate {n c bc} (h : s.Canon) : (s.canGate n c bc).Canon := by
  unfold Dev.canGate
  dsimp only
  split
  · exact h
  · exact .ite h.updCan (.ite h.updCan.canMiss (.ite h.updCan.canStart h.updCan.updCan))

theorem Canon.mxStart {n} (h : s.Canon) : (s.mxStart n).Canon := h.updCan

theorem Canon.mxCycle {n} (h : s.Canon) : (s.mxCycle n).Canon := by
  unfold Dev.mxCycle
  obtain ⟨due, e⟩ : ∃ due, due = Dev.dueAt := ⟨_, rfl⟩
  rw [← e]
  dsimp only
  refine .ite h ?_
  split
  · exact h
  · exact (h.when fun _ h => h.setFld).updCan.setFld
  · exact h.updCan.countBy

theorem Canon.canSof {n} (h : s.Canon) : (s.canSof n).Canon := .ite h h.canBus

theorem Canon.canFrameEnd {n sof f} (h : s.Canon) : (s.canFrameEnd n sof f).Canon :=
  .ite (.ite h.updCan.count h.canError) (Canon.ite h h.recDown).ringStore

theorem Canon.canReceive {n f sof} (h : s.Canon) : (s.canReceive n f sof).Canon := by
  unfold Dev.canReceive
  split
  · exact h.canSof
  · exact h.canFrameEnd.canOver
  · exact h

theorem Canon.canEnable {n on} (h : s.Canon) : (s.canEnable n on).Canon := .ite h (.ite (.ite h.updCan.canGo h.updCan) h.updCan.canGo)

theorem Canon.canRecovered {n} (h : s.Canon) : (s.canRecovered n).Canon := .ite h.setFld.setFld.canGo h

theorem Canon.canIntegrated {n} (h : s.Canon) : (s.canIntegrated n).Canon :=
  .ite (.ite h.updCan.canRecovered h.updCan.setFld) (.ite h.updCan h.updCan.canGo)

theorem Canon.canRecover {n} (h : s.Canon) : (s.canRecover n).Canon := .ite h.setFld.canGo h.misuse

theorem Canon.bufWrite {n b w v} (h : s.Canon) : (s.bufWrite n b w v).Canon := .ite h.misuse (.ite h.setReg h.setReg.misuse)

theorem Canon.canWrite {r n j k v} (h : s.Canon) : (s.canWrite r n j k v).Canon := by
  unfold Dev.canWrite
  dsimp only
  split
  · exact (Canon.ite h.plainIf h.plainIf.canEnable).canMute
  · exact .ite (Canon.ite h h.misuse).canRecover (.ite h h.misuse)
  · exact h.plainIf
  · exact h.plainIf
  · exact h.plainIf
  · exact h.plainIf
  · exact h.each fun _ _ h => h.canRequest
  · exact h.each fun _ _ h => h.canCancel
  · exact h.bufWrite
  · exact h.plainIf.ringLift
  · exact h.plainIf
  · exact .ite h.plainIf.mxStart (.ite h.plainIf.updCan.setFld h.plainIf)
  · exact h.plainIf
  · exact h.plainIf
  · exact h.plainIf
  · exact h.plainIf
  · exact .ite h.plainIf (.ite h.plain h.plain.misuse)
  · exact h.plain

/-! ### The Blades -/

theorem Canon.updBld {g b f} (h : s.Canon) : (s.updBld g b f).Canon := h.same

theorem Canon.updGrp {g f} (h : s.Canon) : (s.updGrp g f).Canon := h.same

theorem Canon.bldShow {g b} (h : s.Canon) : (s.bldShow g b).Canon := h.setFld

theorem Canon.bldStall {g b k} (h : s.Canon) : (s.bldStall g b k).Canon := h.setFld.bldShow

theorem Canon.bldBell {g b f} (h : s.Canon) : (s.bldBell g b f).Canon := h.when fun _ h => h.ringMask

theorem Canon.seePins {g levels} (h : s.Canon) : (s.seePins g levels).Canon := h.same

theorem Canon.pinWrite {g p v drv} (h : s.Canon) : (s.pinWrite g p v drv).Canon := by
  unfold Dev.pinWrite
  dsimp only
  exact Canon.updGrp (by
    split
    · exact h.setFld.setFld
    · exact h.setFld)

theorem Canon.laneWrite {g b i v drv} (h : s.Canon) : (s.laneWrite g b i v drv).Canon := .ite h.pinWrite (.ite h.pinWrite h)

theorem Canon.bankLevel {k det levels} (h : s.Canon) : (s.bankLevel k det levels).Canon :=
  .ite h.seePins.seePins h.seePins.seePins.setFld.count

theorem Canon.bldHold (h : s.Canon) : s.bldHold.Canon := h.each fun _ _ h => .ite h (h.setFld.updGrp.each fun _ _ h => h.bldShow)

theorem Canon.flagRise {g f b tb} (h : s.Canon) : (s.flagRise g f b tb).Canon := by
  unfold Dev.flagRise
  dsimp only
  refine .ite h (.ite (h.setFld.when fun _ h => h.ringMask) ?_)
  split
  · exact (h.setFld.when fun _ h => h.ringMask).push.of_eq.count
  · exact (h.setFld.when fun _ h => h.ringMask).push.of_eq

theorem Canon.flagClear {g mask} (h : s.Canon) : (s.flagClear g mask).Canon := h.setFld

theorem Canon.bldFetch {g b} (h : s.Canon) : (s.bldFetch g b).Canon := by
  unfold Dev.bldFetch
  dsimp only
  split
  · exact h
  · exact h.updBld

theorem Canon.setPc {g b v} (h : s.Canon) : (s.setPc g b v).Canon := h.setFld

theorem Canon.bldDone {g b pc} (h : s.Canon) : (s.bldDone g b pc).Canon := by
  unfold Dev.bldDone
  dsimp only
  exact (Canon.updBld (by
    split
    · exact .ite h.count.setPc h.setPc
    · exact .ite h.setPc h.setPc)).bldStall

theorem Canon.bldCollect {g b v} (h : s.Canon) : (s.bldCollect g b v).Canon := h.updBld.setFld

theorem Canon.bldTake {g b} (h : s.Canon) : (s.bldTake g b).2.Canon := h.updBld.setFld

theorem Canon.bldTakeN {g b n} (h : s.Canon) : (s.bldTakeN g b n).2.Canon := by
  induction n generalizing s with
  | zero => exact h
  | succ n ih =>
    unfold Dev.bldTakeN
    split
    split
    exact (ih h.bldTake.of_eq).of_eq

theorem Canon.bldSerial {g b n stall} {move : Dev → Dev} (h : s.Canon) (k : ∀ s, s.Canon → (move s).Canon) :
    (s.bldSerial g b n stall move).Canon :=
  .ite h.updBld.bldStall (.ite (k _ h).bldDone (k _ h).updBld.bldStall)

theorem Canon.bldJmp {g b w} (h : s.Canon) : (s.bldJmp g b w).Canon := by
  unfold Dev.bldJmp
  dsimp only
  split
  · exact h.bldDone
  · exact .ite h.bldDone h.setReg.bldDone
  · exact h.bldDone
  · exact h.bldDone

theorem Canon.bldWait {g b w} (h : s.Canon) : (s.bldWait g b w).Canon := .ite h.bldStall (Canon.ite h.flagClear h).bldDone

theorem Canon.bldIn {g b w} (h : s.Canon) : (s.bldIn g b w).Canon := by
  unfold Dev.bldIn
  dsimp only
  split
  · exact h.bldSerial fun _ h => h.bldCollect
  · exact (h.each fun _ _ h => h.bldCollect).bldDone
  · exact (h.each fun _ _ h => h.bldCollect).bldDone

theorem Canon.bldOut {g b w} (h : s.Canon) : (s.bldOut g b w).Canon := by
  unfold Dev.bldOut
  dsimp only
  split
  · exact h.bldSerial fun _ h => h.bldTake.laneWrite
  · exact h.bldTakeN.setReg.bldDone
  · exact h.bldTakeN.bldDone
  · exact h.bldTakeN.bldDone

theorem Canon.bldPush {g b w} (h : s.Canon) : (s.bldPush g b w).Canon :=
  .ite h.bldDone (.ite h.bldStall (Canon.ite (Canon.ite h.count h).setReg.setFlag.updBld.setFld
    (Canon.ite h.count h).setReg.setFlag.updBld.setFld.bldBell).bldDone)

theorem Canon.bldPull {g b w} (h : s.Canon) : (s.bldPull g b w).Canon :=
  .ite h.bldDone (.ite h.bldStall (Canon.ite h.updBld.setFld.setFlag.bldBell h.updBld.setFld.count).bldDone)

theorem Canon.bldMov {g b w} (h : s.Canon) : (s.bldMov g b w).Canon := by
  unfold Dev.bldMov
  dsimp only
  split
  · exact h.setReg.bldDone
  · exact h.setReg.bldDone
  · exact h.updBld.setFld.bldDone
  · exact h.updBld.setFld.bldDone
  · exact h.setReg.bldDone
  · exact h.bldDone
  · exact (h.each fun _ _ h => h.laneWrite).bldDone

theorem Canon.bldIrq {g b w} (h : s.Canon) : (s.bldIrq g b w).Canon := by
  unfold Dev.bldIrq
  dsimp only
  split
  · exact h.flagRise.bldDone
  · exact h.flagClear.bldDone
  · exact .ite h.flagRise.updBld.bldStall (.ite h.bldStall h.bldDone)

theorem Canon.bldSet {g b w} (h : s.Canon) : (s.bldSet g b w).Canon := by
  unfold Dev.bldSet
  dsimp only
  split
  · exact h.laneWrite.bldDone
  · exact h.setReg.bldDone
  · exact h.setReg.bldDone

theorem Canon.bldFire {g b} (h : s.Canon) : (s.bldFire g b).Canon := .ite h.bldDone h

theorem Canon.bldAt {g b w} (h : s.Canon) : (s.bldAt g b w).Canon :=
  .ite h.bldFire (.ite h.setReg.count.bldDone (.ite h.setReg.bldDone h.setReg.updBld.bldStall))

theorem Canon.bldStep {g b op levels} (h : s.Canon) : (s.bldStep g b op levels).Canon := by
  unfold Dev.bldStep
  dsimp only
  refine .ite h (.ite h.seePins.bldFetch.updBld.bldStall ?_)
  split
  · exact h.seePins.bldFetch.bldJmp
  · exact h.seePins.bldFetch.bldWait
  · exact h.seePins.bldFetch.bldIn
  · exact h.seePins.bldFetch.bldOut
  · exact h.seePins.bldFetch.bldPush
  · exact h.seePins.bldFetch.bldPull
  · exact h.seePins.bldFetch.bldMov
  · exact h.seePins.bldFetch.bldIrq
  · exact h.seePins.bldFetch.bldSet
  · exact h.seePins.bldFetch.bldAt

theorem Canon.bldIllegal {g b} (h : s.Canon) : (s.bldIllegal g b).Canon := .ite h h.count.setFld.setFld.setPc.updBld.bldStall

theorem Canon.txholdWrite {g b v} (h : s.Canon) : (s.txholdWrite g b v).Canon := .ite h.count h.setReg.setFlag

theorem Canon.rxholdRead {g b} (h : s.Canon) : (s.rxholdRead g b).2.Canon := .iteSnd h.setFlag h

theorem Canon.restartArm {g v} (h : s.Canon) : (s.restartArm g v).Canon :=
  .ite h.refuseWrite (.ite (h.plain.setFlag.setFld.updGrp.updGrp.each fun _ _ h => h.count) h.plain.setFlag.setFld.updGrp)

theorem Canon.bldRestartOne {g b} (h : s.Canon) : (s.bldRestartOne g b).Canon :=
  (h.setFld.setFld.setPc.setReg.setReg.setReg.setFld.setFld.updBld.each fun _ _ h => h.laneWrite).setFld.bldStall

theorem Canon.bldRestart {g} (h : s.Canon) : (s.bldRestart g).Canon := .ite h (h.setFlag.setFld.each fun _ _ h => h.bldRestartOne)

theorem Canon.bldRead {r i j} (h : s.Canon) : (s.bldRead r i j).2.Canon := by
  unfold Dev.bldRead
  split
  · exact h.rxholdRead
  · exact h
  · exact h

theorem Canon.bldWrite {r g j v} (h : s.Canon) : (s.bldWrite r g j v).Canon := by
  unfold Dev.bldWrite
  dsimp only
  split
  · exact h.plain.each fun _ _ h => h.bldShow
  · exact h.restartArm
  · exact .ite h.flagClear h.flagClear.misuse
  · exact .ite (h.each fun _ _ h => h.flagRise) (h.each fun _ _ h => h.flagRise).misuse
  · exact h.plainIf
  · exact h.plainIf
  · exact h.plainIf
  · exact h.txholdWrite
  · exact h.plain

/-! ### Hold -/

theorem Canon.holdEnter (h : s.Canon) : s.holdEnter.Canon := .ite h (h.setFlag.ctlHold.each fun _ _ h => h.canMute).bldHold.modeUpdate

theorem Canon.holdLeave (h : s.Canon) : s.holdLeave.Canon := .ite h (.ite h.count h.setFlag.ctlHold.modeUpdate)

theorem Canon.fwxSet {b} (h : s.Canon) : (s.fwxSet b).Canon := h.setFlag.modeUpdate

theorem Canon.modeCtrlWrite {mid v} (h : s.Canon) : (s.modeCtrlWrite mid v).Canon :=
  .ite h.misuse (.ite (Canon.ite h h.misuse).fwxSet.holdEnter (Canon.ite h h.misuse).fwxSet.holdLeave)

/-! ### The pairs unit -/

theorem Canon.updPar {f} (h : s.Canon) : (s.updPar f).Canon := h.same

theorem Canon.parBell {f} (h : s.Canon) : (s.parBell f).Canon := h.when fun _ h => h.ringMask

theorem Canon.setSync {n} (h : s.Canon) : (s.setSync n).Canon := h.setFld.updPar

theorem Canon.parGo {st} (h : s.Canon) : (s.parGo st).Canon := .ite h h.setFld.parBell.modeUpdate

theorem Canon.parToStandby (h : s.Canon) : s.parToStandby.Canon := h.setSync.updPar.parGo

theorem Canon.parToActive (h : s.Canon) : s.parToActive.Canon := h.updPar.parGo

theorem Canon.parToOff (h : s.Canon) : s.parToOff.Canon :=
  .ite h.setFlag.updPar.parGo.setFlag.setFlag.setFlag.holdEnter h.setFlag.updPar.parGo.setFlag.setFlag.setFlag

theorem Canon.parPaths (h : s.Canon) : s.parPaths.Canon := by
  unfold Dev.parPaths
  extract_lets lim s₁ t n d changed s₂ s₃
  have h₁ : s₁.Canon := .ite h.updPar h
  have h₂ : s₂.Canon := h₁.setFlag.setFlag.setFlag
  have h₃ : s₃.Canon := .ite h₂.setSync h₂
  exact .ite h₃.parBell h₃

theorem Canon.parEnable (h : s.Canon) : s.parEnable.Canon :=
  (Canon.ite h.fresh.updPar h.fresh.updPar.setFlag).setFld.setFld.setFlag.parGo.parPaths

theorem Canon.startWait (h : s.Canon) : s.startWait.Canon := .ite h.parToActive h

theorem Canon.parSilence (h : s.Canon) : s.parSilence.Canon := .ite h (.ite h.parToOff h.count.setFlag.parToActive)

theorem Canon.tandemSend {copy l} (h : s.Canon) : (s.tandemSend copy l).Canon := by
  unfold Dev.tandemSend
  dsimp only
  split
  · exact h
  · exact h.updPar

theorem Canon.sakTdm {img nonce} (h : s.Canon) : (s.sakTdm img nonce).Canon := h.fresh.same

theorem Canon.tandemStart {nonce f tag} (h : s.Canon) : (s.tandemStart nonce f tag).Canon := by
  unfold Dev.tandemStart
  refine .ite h ?_
  split
  · exact h.count
  · extract_lets s₁ own s₂ ok s₃ s₄ same s₅
    have h₃ : s₃.Canon := h.sakTdm.tandemSend.updPar
    have h₄ : s₄.Canon := .ite h₃.setFlag.count h₃.setFlag
    have h₅ : s₅.Canon := h₄.updPar
    exact .ite h₃.count (.ite h₅ h₅.count.setSync)

theorem Canon.parLanes (h : s.Canon) : s.parLanes.Canon := .ite h h.setFld.updPar.parBell

theorem Canon.tandemTakes {b t} (h : s.Canon) : (s.tandemTakes b t).2.Canon := .iteSnd h (.iteSnd h.count (.iteSnd h h.updPar))

theorem Canon.heartbeatSend (h : s.Canon) : s.heartbeatSend.Canon := by
  unfold Dev.heartbeatSend
  dsimp only
  refine .ite h ?_
  split
  · exact (h.updPar.when fun _ h => h.tandemSend).updPar
  · exact .ite (h.updPar.when fun _ h => h.tandemSend).updPar (h.updPar.when fun _ h => h.tandemSend).updPar.sends

theorem Canon.heartbeatTaken {hd} (h : s.Canon) : (s.heartbeatTaken hd).Canon :=
  .ite h.setFld.setFlag.updPar (.ite h.setFld.setFlag.updPar.parToStandby (.ite h.setFld.setFlag.updPar.parToActive h.setFld.setFlag.updPar))

theorem Canon.syncUp (h : s.Canon) : s.syncUp.Canon := .ite h.setSync h

theorem Canon.tandemHeartbeat {b tag} (h : s.Canon) : (s.tandemHeartbeat b tag).Canon := by
  unfold Dev.tandemHeartbeat
  split
  next ok s₁ _ =>
  have h₁ : s₁.Canon := h.tandemTakes.of_eq
  extract_lets s₂ s₃ s₄
  have h₃ : s₃.Canon := h₁.setFld.parPaths.updPar.heartbeatTaken
  have h₄ : s₄.Canon := .ite h₃.updPar (.ite h₃.count.parToStandby h₃)
  exact .ite h₁ h₄.syncUp

theorem Canon.networkHeartbeat {hd tag} (h : s.Canon) : (s.networkHeartbeat hd tag).Canon :=
  .ite h (.ite h.count h.updPar.setFld.parPaths.heartbeatTaken)

theorem Canon.heartbeatMiss {network} (h : s.Canon) : (s.heartbeatMiss network).Canon :=
  .ite h (Canon.ite h.count.setFld h.count.setFld).parPaths.parSilence

theorem Canon.relinquish (h : s.Canon) : s.relinquish.Canon := h.updPar

theorem Canon.autoYield (h : s.Canon) : s.autoYield.Canon := .ite h.updPar h

theorem Canon.resync (h : s.Canon) : s.resync.Canon := h.syncUp

theorem Canon.clrUnfit (h : s.Canon) : s.clrUnfit.Canon := h.setFlag.setFld.setSync

theorem Canon.readPages {l} (h : s.Canon) : (s.readPages l).2.Canon := h.foldl fun _ _ _ h => h.same.physRead

theorem Canon.sendCopy (h : s.Canon) : s.sendCopy.Canon := by
  unfold Dev.sendCopy
  refine .ite h ?_
  extract_lets sq
  split
  next outs s₁ e =>
  have h₁ : s₁.Canon := (h.foldl fun _ _ _ h => h.physRead.physRead).of_eq e
  extract_lets all
  split
  next dirty s₂ _ =>
  have h₂ : s₂.Canon := h₁.readPages.of_eq
  extract_lets k more
  split
  next bulk s₃ _ =>
  have h₃ : s₃.Canon := h₂.readPages.of_eq
  extract_lets body l
  split
  exact ((Canon.fresh h₃).of_eq.setReg.setReg.when fun _ h => h.tandemSend).updPar

theorem Canon.deadlineAll {t} (h : s.Canon) : (s.deadlineAll t).Canon :=
  .ite h.outputDeadline (.ite (.ite h.outputDeadline.sendCopy h.outputDeadline) (.ite h.outputDeadline.updPar h.outputDeadline))

theorem Canon.latchAll {t} (h : s.Canon) : (s.latchAll t).Canon :=
  (Canon.ite h (.ite h.parToActive (.ite h.parToStandby.parSilence h))).inputLatch

theorem Canon.commitPair {l} (h : s.Canon) : (s.commitPair l).Canon := h.each fun _ _ h => h.outCommit

theorem Canon.seqReceive {q t} (h : s.Canon) : (s.seqReceive q t).Canon :=
  .ite h.tandemTakes (.ite h.tandemTakes.updPar.count.setSync h.tandemTakes.updPar)

theorem Canon.firstDiff {l} (h : s.Canon) : (s.firstDiff l).2.Canon := h.foldl fun _ _ _ h => h.physRead

theorem Canon.compareCopy {l} (h : s.Canon) : (s.compareCopy l).Canon := by
  unfold Dev.compareCopy
  dsimp only
  refine .ite h (.ite h.count (.ite (.ite h h.count) (.ite h ?_)))
  split
  · exact h.firstDiff.of_eq.setFld
  · exact .ite h.firstDiff.of_eq.count.setFld.setFld.parBell.setFlag h.firstDiff.of_eq.count.setFld.setFld.parBell

theorem Canon.loadSeqrec {q} (h : s.Canon) : (s.loadSeqrec q).Canon := h.updPar.each fun _ _ h => h.setFld.setFlag

theorem Canon.outReceive {slot data t} (h : s.Canon) : (s.outReceive slot data t).Canon := by
  unfold Dev.outReceive
  dsimp only
  split
  · exact h.tandemTakes
  · exact .ite h.tandemTakes (.ite h.tandemTakes.updPar (h.tandemTakes.updPar.compareCopy.each fun _ _ h => h.physWrite).commitPair.loadSeqrec.updPar)

theorem Canon.pageReceive {addr data t} (h : s.Canon) : (s.pageReceive addr data t).Canon :=
  .ite h.tandemTakes h.tandemTakes.physWrite.updPar

theorem Canon.endReceive {frames t} (h : s.Canon) : (s.endReceive frames t).Canon :=
  .ite h.tandemTakes (.ite h.tandemTakes.updPar.setFld h.tandemTakes.updPar)

theorem Canon.seqOn (h : s.Canon) : s.seqOn.Canon := h.updPar

theorem Canon.windowClose (h : s.Canon) : s.windowClose.Canon := by
  unfold Dev.windowClose
  extract_lets t at_ own ended s₁ s₂ s₃ s₄
  have h₁ : s₁.Canon := .ite h.count h
  have h₂ : s₂.Canon := .ite h₁.commitPair.count.seqOn h₁
  have h₃ : s₃.Canon := h₂.setSync.updPar
  have h₄ : s₄.Canon := .ite h₂ (.ite h₃ h₃.count)
  exact .ite h h₄.updPar

theorem Canon.parWrite {r i mid v} (h : s.Canon) : (s.parWrite r i mid v).Canon := by
  unfold Dev.parWrite
  extract_lets en s₁ on yields clears s₂ s₃ s₄
  have h₂ : s₂.Canon := .ite h h.misuse
  have h₃ : s₃.Canon := .ite h₂.relinquish h₂
  have h₄ : s₄.Canon := .ite h₃.resync h₃
  split
  · exact .ite h.plain.parEnable (.ite h.plain.parToOff (.ite h.plain.parPaths.parSilence h.plain))
  iterate 5 · exact h.plainIf
  iterate 2 · exact h.plainIf
  · exact .ite h₄.clrUnfit h₄
  · exact h.plain

theorem Canon.trackWrite {i lo hi} (h : s.Canon) : (s.trackWrite i lo hi).Canon :=
  .ite h.setReg.setReg (.ite h.setReg.setReg.misuse h.misuse)

/-! ### Station records -/

theorem Canon.updPers {f} (h : s.Canon) : (s.updPers f).Canon := h.same

/-! ### The personalities -/

theorem Canon.persCount {mid a} (h : s.Canon) : (s.persCount mid a).Canon := h.physRead.updPers

theorem Canon.countsOut (h : s.Canon) : s.countsOut.Canon := h.updPers.each fun _ _ h => h.physWrite

theorem Canon.commonCount {mid off w} (h : s.Canon) : (s.commonCount mid off w).Canon := by
  unfold Dev.commonCount
  split
  · exact h.persCount
  · exact h

theorem Canon.answer {r a arg} (h : s.Canon) : (s.answer r a arg).Canon := .ite h h.updPers

theorem Canon.answered {k a arg} (h : s.Canon) : (s.answered k a arg).Canon := by
  unfold Dev.answered
  split
  · exact h.updPers
  · exact h.updPers
  · exact h

theorem Canon.violation {mid k r v} (h : s.Canon) : (s.violation mid k r v).Canon := by
  unfold Dev.violation
  dsimp only
  refine .ite h (.ite ?_ ?_)
  · exact Canon.updPers (by
      split
      · exact (Canon.ite h.persCount.fresh.logRecord h.persCount).answer.answered
      · exact .ite h.persCount.fresh.logRecord h.persCount)
  · split
    · exact (Canon.ite h.persCount.fresh.logRecord h.persCount).answer.answered
    · exact .ite h.persCount.fresh.logRecord h.persCount

theorem Canon.received {mid k r x v} (h : s.Canon) : (s.received mid k r x v).Canon := .ite h h.violation

theorem Canon.dispatchFrame {mid cell viol} (h : s.Canon) : (s.dispatchFrame mid cell viol).Canon := by
  unfold Dev.dispatchFrame
  extract_lets n s₁
  have h₁ : s₁.Canon := h.countsOut
  clear_value s₁
  split
  · exact h₁
  · refine .ite h₁ ?_
    split
    next r s₂ _ =>
    have h₂ : s₂.Canon := h₁.physRead.of_eq
    extract_lets f p
    clear_value p
    split
    · exact h₂.commonCount.freeCopy
    · extract_lets s₃
      have h₃ : s₃.Canon := h₂.updHeld
      clear_value s₃
      split
      · exact h₃
      · split
        · exact .ite h₃.received.freeCopy h₃
        · exact h₃

theorem Canon.instPush {r w0 arg len station ts tb} (h : s.Canon) : (s.instPush r w0 arg len station ts tb).Canon := h.push

theorem Canon.ipOut {m} (h : s.Canon) : (s.ipOut m).Canon := .ite h h.updPers

theorem Canon.ipSend {n dst m} (h : s.Canon) : (s.ipSend n dst m).Canon := h.ipOut

theorem Canon.arpTake {n f at_} (h : s.Canon) : (s.arpTake n f at_).Canon := h.updPers.when fun _ h => h.ipOut

theorem Canon.ipGive {port cell o w0 off len} (h : s.Canon) : (s.ipGive port cell o w0 off len).Canon := h.updHeld.instPush

theorem Canon.tcpTake {mid port cell w0 o f hd ihl total} (h : s.Canon) : (s.tcpTake mid port cell w0 o f hd ihl total).Canon :=
  .ite (.ite h.commonCount.freeCopy.ipSend (.ite h.freeCopy.ipSend h.updPers.ipSend.freeCopy))
    ((h.when fun _ h => h.updPers).when fun _ h => h.updPers).ipGive

theorem Canon.ipDatagram {mid cell w0 conf} (h : s.Canon) : (s.ipDatagram mid cell w0 conf).Canon := by
  unfold Dev.ipDatagram
  dsimp only
  split
  · exact h.countsOut
  · refine .ite h.countsOut (.ite h.countsOut.readCellsBy.freeCopy (.ite h.countsOut.readCellsBy.arpTake.freeCopy
      (.ite h.countsOut.readCellsBy.commonCount.freeCopy (.ite h.countsOut.readCellsBy.freeCopy
      (.ite h.countsOut.readCellsBy.commonCount.freeCopy (.ite (h.countsOut.readCellsBy.when fun _ h => h.ipSend).freeCopy (.ite ?_ ?_)))))))
    · split
      · exact h.countsOut.readCellsBy.commonCount.freeCopy
      · exact h.countsOut.readCellsBy.ipGive
    · refine .ite ?_ h.countsOut.readCellsBy.freeCopy
      split
      · exact h.countsOut.readCellsBy.commonCount.freeCopy.ipSend
      · exact h.countsOut.readCellsBy.tcpTake

theorem Canon.updPartner {i f} (h : s.Canon) : (s.updPartner i f).Canon := h.updPers

theorem Canon.extNow {rink tb} (h : s.Canon) : (s.extNow rink tb).2.Canon := h.updPers

theorem Canon.ringRead {mid n x l} (h : s.Canon) : (s.ringRead mid n x l).2.Canon := by
  induction l generalizing s with
  | nil => exact h
  | cons k l ih =>
    unfold Dev.ringRead
    dsimp only
    refine .iteSnd h (.iteSnd h.physRead ?_)
    split <;> exact (ih h.physRead).of_eq

theorem Canon.captureOf {mid i r x src len} (h : s.Canon) : (s.captureOf mid i r x src len).2.Canon := by
  unfold Dev.captureOf
  dsimp only
  split
  · split
    · exact h
    · exact .iteSnd h (.iteSnd h.readCellsBy h.readCellsBy.updHeld)
  · exact .iteSnd h h
  · refine .iteSnd h ?_
    split <;> exact h.ringRead.of_eq
  · exact h
  · exact h

theorem Canon.inputCommit {mid i x c jobs} (h : s.Canon) : (s.inputCommit mid i x c jobs).Canon := by
  unfold Dev.inputCommit
  dsimp only
  refine .ite h ?_
  exact h.physWrite.slotCommit.each fun _ _ h => by
    split
    · exact h.updPartner.instPush
    · exact h

theorem Canon.heardFrom {mid i tb m} (h : s.Canon) : (s.heardFrom mid i tb m).Canon := h.extNow.updPartner

theorem Canon.stationInput {mid i len src m viol jobs} (h : s.Canon) : (s.stationInput mid i len src m viol jobs).Canon := by
  unfold Dev.stationInput
  dsimp only
  split
  · exact h.countsOut
  · refine .ite h.countsOut ?_
    split
    · exact h.countsOut.captureOf.of_eq
    · split
      · exact .ite h.countsOut.captureOf.of_eq.received.heardFrom.inputCommit h.countsOut.captureOf.of_eq.received
      · exact .ite h.countsOut.captureOf.of_eq h.countsOut.captureOf.of_eq.heardFrom.inputCommit

theorem Canon.stationLoss {mid i v} (h : s.Canon) : (s.stationLoss mid i v).Canon := by
  unfold Dev.stationLoss
  extract_lets s₁ x
  have h₁ : s₁.Canon := h.countsOut
  clear_value s₁
  split
  · exact h₁
  · refine .ite h₁ ?_
    split
    next now s₂ _ =>
    have h₂ : s₂.Canon := h₁.extNow.of_eq
    extract_lets row s₃ s₄
    have h₃ : s₃.Canon := h₂.when fun _ h => h.updPartner.when fun _ h => h.violation
    have h₄ : s₄.Canon := h₃.updPartner.when fun _ h => h.violation
    exact .ite h₃ (h₄.each fun _ _ h => .ite h.lossReport h)

theorem Canon.slotData {mid slot c len n} (h : s.Canon) : (s.slotData mid slot c len n).2.Canon := h.physRead

theorem Canon.tagBlock {mid k r x} (h : s.Canon) : (s.tagBlock mid k r x).2.Canon := h.extNow.updPers

theorem Canon.outputOf {mid i x} (h : s.Canon) : (s.outputOf mid i x).2.Canon := by
  unfold Dev.outputOf
  dsimp only
  refine .iteSnd h (.iteSnd h.slotData ?_)
  split
  · exact h
  · exact .iteSnd (.iteSnd h.slotData h) h.slotData

theorem Canon.txMark {i r now} (h : s.Canon) : (s.txMark i r now).Canon := h.updPartner

theorem Canon.claim {k r} (h : s.Canon) : (s.claim k r).Canon := h.updPers

theorem Canon.takeOverSeq (h : s.Canon) : s.takeOverSeq.Canon := .ite h (h.updPar.each fun _ _ h => h.when fun _ h => h.setFld)

theorem Canon.persSend {r t} (h : s.Canon) : (s.persSend r t).Canon := by
  unfold Dev.persSend
  dsimp only
  refine .ite h.updPers ?_
  split
  · exact .ite h.updPers.updPar.updPers h.updPers.updPers
  · exact h.updPers.updPers

theorem Canon.goosePublish {mid i} (h : s.Canon) : (s.goosePublish mid i).Canon := by
  unfold Dev.goosePublish
  dsimp only
  refine .ite h.countsOut ?_
  split
  · exact h.countsOut.outputOf.of_eq
  · refine .ite h.countsOut.outputOf.of_eq ?_
    split
    · exact h.countsOut.outputOf.of_eq.updPers.persSend
    · exact h.countsOut.outputOf.of_eq.updPers

theorem Canon.gooseRetransmit {i} (h : s.Canon) : (s.gooseRetransmit i).Canon := by
  unfold Dev.gooseRetransmit
  dsimp only
  refine .ite h ?_
  split
  · exact h.updPers.persSend
  · exact h.updPers

theorem Canon.stationTransmit {mid i} (h : s.Canon) : (s.stationTransmit mid i).Canon := by
  unfold Dev.stationTransmit
  dsimp only
  split
  · exact h.countsOut.takeOverSeq
  · refine .ite h.countsOut.takeOverSeq (.ite h.countsOut.takeOverSeq.claim (.ite h.countsOut.takeOverSeq.goosePublish
      (.ite h.countsOut.takeOverSeq.extNow ?_)))
    split
    · exact h.countsOut.takeOverSeq.extNow.txMark.outputOf
    · exact .ite h.countsOut.takeOverSeq.extNow.txMark.outputOf.tagBlock.persSend h.countsOut.takeOverSeq.extNow.txMark.outputOf.persSend

theorem Canon.instanceRefuse {mid k l} (h : s.Canon) : (s.instanceRefuse mid k l).Canon := by
  unfold Dev.instanceRefuse
  dsimp only
  split
  · exact h.countsOut
  · exact .ite (.ite h.countsOut.commonCount.updPers h.countsOut) (.ite h.countsOut (.ite h.countsOut.fresh.logRecord.updPers.persCount
      h.countsOut.fresh.logRecord.updPers))

/-! ### Reception -/

theorem Canon.secReceive {n f sec} (h : s.Canon) : (s.secReceive n f sec).2.Canon := by
  unfold Dev.secReceive
  dsimp only
  split
  · refine .iteSnd h ?_
    split
    · exact h
    · exact h.count
    · exact h.count
  · split
    · exact h.count
    · exact .iteSnd h.count h.updMac

theorem Canon.macAccept {n f sec stamp ago gap} (h : s.Canon) : (s.macAccept n f sec stamp ago gap).Canon := by
  unfold Dev.macAccept
  dsimp only
  refine .ite h.macControl ?_
  split
  · exact h.secReceive
  · exact .ite h.secReceive.macControl (.ite h.secReceive (.ite h.secReceive.slmReceive h.secReceive.forward))

theorem Canon.macTake {n f cut sec ago gap} (h : s.Canon) : (s.macTake n f cut sec ago gap).Canon :=
  .ite h (.ite h.count (.ite h.count (.ite h.count (.ite (.ite h.count h.count.macAccept) h.count.macAccept))))

theorem Canon.macReceive {n f cut sec ago gap} (h : s.Canon) : (s.macReceive n f cut sec ago gap).Canon := by
  unfold Dev.macReceive
  refine .ite h.macTake ?_
  split
  · exact h
  · exact h.updMac.macTake

/-! ### Resets and power domains -/

theorem Canon.updSys {f} (h : s.Canon) : (s.updSys f).Canon := h.same

theorem Canon.updBoot {f} (h : s.Canon) : (s.updBoot f).Canon := h.same

theorem Canon.updVlt {f} (h : s.Canon) : (s.updVlt f).Canon := h.same

theorem Canon.vltShow (h : s.Canon) : s.vltShow.Canon := h.setFld.setFld.setFld

theorem Canon.sensorsLoad (h : s.Canon) : s.sensorsLoad.Canon := h.setFld

theorem Canon.factoryShow (h : s.Canon) : s.factoryShow.Canon := h.setReg.setReg.each fun _ _ h => h.setFld.setFld

/-- Memory with no byte listed. -/
theorem Canon.noMem (h : s.Canon) : ({ s with mem := [] } : Dev).Canon := .of_wf rfl h.regs_wf

theorem Canon.deviceReset {q cause} (h : s.Canon) : (s.deviceReset q cause).Canon := by
  have g : (Dev.resetRegs q (fun _ => true) (if q = .WDOG then s.setFld .BOOT_STATUS_UNCONF s.unconfNext else s)).Canon :=
    (Canon.ite h.setFld h).resetRegs
  refine Canon.factoryShow (Canon.sensorsLoad (Canon.vltShow (.of_wf ?_ g.regs_wf)))
  dsimp only
  split
  · exact g.mem_wf
  · rfl

theorem Canon.startReset {q cause} (h : s.Canon) : (s.startReset q cause).Canon := by
  unfold Dev.startReset
  split
  · exact .ite h.deviceReset h
  · exact .ite h h.deviceReset

theorem Canon.otpCut (h : s.Canon) : s.otpCut.Canon := by
  unfold Dev.otpCut
  dsimp only
  split
  · exact h
  · exact .ite h.fresh.updVlt h.fresh

theorem Canon.powerLoss (h : s.Canon) : s.powerLoss.Canon := h.otpCut.startReset

theorem Canon.lockedAtBoot (h : s.Canon) : s.lockedAtBoot.Canon := h.updSys.setFlag.modeUpdate

theorem Canon.bootPhase0 (h : s.Canon) : s.bootPhase0.Canon :=
  .ite h.updSys.updBoot.setFlag.setFld.lockedAtBoot h.updSys.updBoot.setFlag.setFld.modeUpdate

theorem Canon.latchStraps {sel rank} (h : s.Canon) : (s.latchStraps sel rank).Canon := h.setFld.setFlag

theorem Canon.leaveLockdown (h : s.Canon) : s.leaveLockdown.Canon := .ite h (.ite h.updSys.updVlt.vltShow h.updSys)

theorem Canon.resetEnd {sel rank} (h : s.Canon) : (s.resetEnd sel rank).Canon := by
  unfold Dev.resetEnd
  dsimp only
  split
  · exact h
  · exact h
  · exact h
  · exact h
  · exact (Canon.ite h.updSys h.updSys.latchStraps.leaveLockdown).setFld.setFld.bootPhase0

theorem Canon.tamperTrip {src} (h : s.Canon) : (s.tamperTrip src).Canon :=
  .ite h (h.setFld.each fun _ _ h => h.zeroBank).updSys.updVlt.startReset.updSys.setFlag.modeUpdate

theorem Canon.lockdownEntry (h : s.Canon) : s.lockdownEntry.Canon := .ite h h.noMem.same.setFlag

theorem Canon.tamperCountBit (h : s.Canon) : s.tamperCountBit.Canon := .ite h h.updSys.updVlt.vltShow

theorem Canon.selfCheck {n e fails} (h : s.Canon) : (s.selfCheck n e fails).Canon :=
  h.setOnline.setFlag.when fun _ h => h.each fun _ _ h => h.setSt

theorem Canon.selfChecks {n fails} (h : s.Canon) : (s.selfChecks n fails).Canon := h.each fun _ _ h => h.selfCheck

theorem Canon.reloadRead {off n} (h : s.Canon) : (s.reloadRead off n).2.Canon := h.partRead

theorem Canon.keptRecs (h : s.Canon) : s.keptRecs.2.Canon := h.reloadRead

theorem Canon.zeroDmem {n} (h : s.Canon) : (s.zeroDmem n).Canon := h.each fun _ _ h => h.zeroRange

theorem Canon.rinkResetStart {n fails} (h : s.Canon) : (s.rinkResetStart n fails).Canon := by
  unfold Dev.rinkResetStart
  extract_lets s₁ s₂ s₃ s₄
  have h₃ : s₃.Canon := h.rinkClear.flushHeld.zeroDmem.reapRuns.updSys.setFlag.selfChecks
  have h₄ : s₄.Canon := .ite h₃ h₃.degrade.autoYield
  clear_value s₄
  exact .ite h₄.updBoot h₄.keptRecs.updBoot

theorem Canon.loadRink {n l off} (h : s.Canon) : (s.loadRink n l off).Canon := by
  induction l generalizing s off with
  | nil => exact h
  | cons x l ih => exact .ite (ih (h.reloadRead.each fun _ _ h => h.setBytes).setReg) (ih h)

theorem Canon.zeroImem {n} (h : s.Canon) : (s.zeroImem n).Canon := h.each fun _ _ h => h.zeroRange

theorem Canon.rinkResetEnd {n timeout} (h : s.Canon) : (s.rinkResetEnd n timeout).Canon :=
  .ite h (.ite h (.ite h.updSys.updBoot.degrade h.updSys.updBoot.zeroImem.loadRink.setFlag.rinkStart))

theorem Canon.rinkReset {mid v fails} (h : s.Canon) : (s.rinkReset mid v fails).Canon := .ite h.misuse (Canon.ite h h.misuse).rinkResetStart

theorem Canon.domRequest {v} (h : s.Canon) : (s.domRequest v).Canon := by
  unfold Dev.domRequest
  dsimp only
  split
  · exact .ite h h.misuse
  · exact .ite (Canon.ite h h.misuse).count (Canon.ite h h.misuse).setReg.setFlag.updSys
  · exact .ite h h.misuse

theorem Canon.dropLinks {l} (h : s.Canon) : (s.dropLinks l).Canon := h.each fun _ _ h => h.setLink

theorem Canon.rinkLose {n} (h : s.Canon) : (s.rinkLose n).Canon :=
  .ite h.rinkClear.flushHeld.resetRegs.setFld.zeroRange.reapRuns.updSys.updBoot.degrade
    h.rinkClear.flushHeld.resetRegs.setFld.zeroRange.reapRuns.updSys.updBoot

theorem Canon.domLose {d} (h : s.Canon) : (s.domLose d).Canon := by
  unfold Dev.domLose
  dsimp only
  split
  · exact h.rinkLose
  · exact h.same.resetRegs
  · exact h.dropLinks.resetRegs.parLanes
  · exact h.dropLinks.resetRegs
  · exact h.same.resetRegs
  · exact h.same.resetRegs.ringLift
  · exact h

theorem Canon.swcShow (h : s.Canon) : s.swcShow.Canon := h.setFld.poolShow

theorem Canon.domPower {b} (h : s.Canon) : (s.domPower b).Canon := .ite h.setReg.swcShow.ctlPower h.setReg

theorem Canon.domDrop {b} (h : s.Canon) : (s.domDrop b).Canon := h.domLose.setReg

theorem Canon.domSwitchDone {fails} (h : s.Canon) : (s.domSwitchDone fails).Canon := by
  unfold Dev.domSwitchDone
  dsimp only
  split
  · exact h
  · exact .ite h.updSys.setFlag.domDrop (.ite h.updSys.setFlag.domPower.rinkResetStart h.updSys.setFlag.domPower)

/-! ### Retention -/

theorem Canon.retain (h : s.Canon) : s.retain.Canon := by
  refine Canon.modeUpdate (Canon.factoryShow (Canon.each (Canon.setFlag (Canon.setFlag (Canon.setFlag (Canon.setFld ?_)))) fun _ _ h =>
    h.setBankState))
  refine .of_wf (Sparse.filter_wf _ _ _ h.mem_wf).1 ?_
  dsimp only
  exact h.resetRegs.regs_wf

theorem Canon.sleepWrite {mid v} (h : s.Canon) : (s.sleepWrite mid v).Canon := .ite h.plainIf (.ite h.plainIf.count h.plainIf.retain)

theorem Canon.wakeUp {cause} (h : s.Canon) : (s.wakeUp cause).Canon := h.updSys.setFld.modeUpdate

theorem Canon.wakePin (h : s.Canon) : s.wakePin.Canon := .ite h.wakeUp h

theorem Canon.wakeTime (h : s.Canon) : s.wakeTime.Canon := .ite h.wakeUp h

theorem Canon.resumeBoot (h : s.Canon) : s.resumeBoot.Canon := .ite h h.resetRegs.latchStraps.setFld.fresh.setFld.setReg.setFld.bootPhase0

/-! ### Accesses to register space -/

theorem Canon.gateCount {g} (h : s.Canon) : (s.gateCount g).Canon := by
  unfold Dev.gateCount
  split
  · exact h.count
  · exact h.count
  · exact h.count
  · exact h.misuse

theorem Canon.setLatch {k v} (h : s.Canon) : (s.setLatch k v).Canon := h.same

theorem Canon.setStage {k v} (h : s.Canon) : (s.setStage k v).Canon := h.same

theorem Canon.pairLow {r hi i j mid} (h : s.Canon) : (s.pairLow r hi i j mid).2.Canon := by
  unfold Dev.pairLow
  dsimp only
  split
  · exact h.evtPop.setLatch
  · exact h.txtsPop.setLatch
  · exact h.setLatch
  · exact h.setLatch

theorem Canon.pairHigh {r lo i j mid} (h : s.Canon) : (s.pairHigh r lo i j mid).2.Canon := by
  unfold Dev.pairHigh
  dsimp only
  split
  · exact h.setLatch
  · split
    · exact h.tmuRead
    · exact h.tmuRead
    · exact h.tmuRead
    · exact h

theorem Canon.pairPlain {ill lo hi vl vh i j} (h : s.Canon) : (s.pairPlain ill lo hi vl vh i j).Canon :=
  .ite h.setReg.setReg.misuse h.setReg.setReg

theorem Canon.pairCommit {lo hi vl vh i j mid ctx} (h : s.Canon) : (s.pairCommit lo hi vl vh i j mid ctx).Canon := by
  unfold Dev.pairCommit
  dsimp only
  split
  · exact (Canon.ite h.misuse h).liftStart
  · exact (Canon.ite h.misuse h).adjust
  · exact (Canon.ite h.misuse h).adjust
  · exact h.trackWrite
  · exact h.pairPlain
  · exact h.pairPlain
  · exact h.pairPlain

theorem Canon.pairStage {r i j mid v} (h : s.Canon) : (s.pairStage r i j mid v).Canon := .ite h.misuse h.setStage

theorem Canon.pairWrite {r lo i j mid ctx v} (h : s.Canon) : (s.pairWrite r lo i j mid ctx v).Canon := .ite h.misuse h.setStage.pairCommit

theorem Canon.bootConfirm (h : s.Canon) : s.bootConfirm.Canon := h.setFlag.setFld.updVlt.vltShow

theorem Canon.bootWrite {r v} (h : s.Canon) : (s.bootWrite r v).Canon := by
  unfold Dev.bootWrite
  dsimp only
  split
  · exact .ite h.plain.bootConfirm h.plain
  · exact h.plain

theorem Canon.softReset {mid v} (h : s.Canon) : (s.softReset mid v).Canon := .ite h.misuse h.startReset

theorem Canon.sysWrite {r mid v} (h : s.Canon) : (s.sysWrite r mid v).Canon := by
  unfold Dev.sysWrite
  dsimp only
  split
  · exact h.softReset
  · exact h.fresh.rinkReset
  · exact h.modeCtrlWrite
  · exact h.plain

theorem Canon.bankReqWrite {v} (h : s.Canon) : (s.bankReqWrite v).Canon := .ite h.plainIf h.plainIf.bankRequest

theorem Canon.pwrWrite {r i mid v} (h : s.Canon) : (s.pwrWrite r i mid v).Canon := by
  unfold Dev.pwrWrite
  split
  · exact h.domRequest
  · exact h.bankReqWrite
  · exact h.sleepWrite
  · exact h.plain

theorem Canon.wdogKick {v} (h : s.Canon) : (s.wdogKick v).Canon := .ite h.count (.ite h.setFld.updSys h)

theorem Canon.wdogCfg {v} (h : s.Canon) : (s.wdogCfg v).Canon := .ite h.plainIf.wdogKick h.plainIf

theorem Canon.loadCfg {v} (h : s.Canon) : (s.loadCfg v).Canon := h.plainIf

theorem Canon.patWrite {r i mid ctx v} (h : s.Canon) : (s.patWrite r i mid ctx v).Canon := by
  unfold Dev.patWrite
  split
  · exact h.wdogCfg
  · exact h.wdogKick
  · exact h.loadCfg
  · exact h.patPushWrite
  · exact .ite h.refuseWrite h.plain.ctxCtrl
  · exact h.plain

theorem Canon.hstWrite {r i v} (h : s.Canon) : (s.hstWrite r i v).Canon := by
  unfold Dev.hstWrite
  split
  · exact h.plain.msixUpdate
  · exact h.plain.msixUpdate
  · exact h.plain

theorem Canon.rnkWriteAll {r i j mid ctx v} (h : s.Canon) : (s.rnkWriteAll r i j mid ctx v).Canon :=
  .ite h.rnkWrite.reapRuns h.rnkWrite.reapRuns.autoYield

theorem Canon.macWriteAll {r i j v} (h : s.Canon) : (s.macWriteAll r i j v).Canon := .ite h.misuse.macWrite h.macWrite

theorem Canon.regStore {r i j k mid ctx v} (h : s.Canon) : (s.regStore r i j k mid ctx v).Canon := by
  unfold Dev.regStore
  split
  · exact h.sysWrite
  · exact h.pwrWrite
  · exact h.bootWrite
  · exact h.grmWrite
  · exact h.lftWrite.reapRuns
  · exact h.mbxWrite
  · exact h.tmuWrite
  · exact h.slmWrite
  · exact h.parWrite
  · exact h.ctlWrite
  · exact h.patWrite
  · exact h.hstWrite
  · exact h.rnkWriteAll
  · exact h.swcWrite
  · exact h.macWriteAll
  · exact h.sdsWrite.parLanes
  · exact h.tphyWrite
  · exact h.canWrite
  · exact h.bldWrite
  · exact h.plain
  · exact h.plain
  · exact h.plain

theorem Canon.regLoad {r i j k mid ctx} (h : s.Canon) : (s.regLoad r i j k mid ctx).2.Canon := by
  unfold Dev.regLoad
  split
  · exact h.mbxRead
  · exact h.tmuRead
  · exact h
  · exact h
  · exact h.bldRead
  · exact h
  · exact h.smfRead
  · exact h

theorem Canon.copyStore {r i j k mid ctx v} (h : s.Canon) : (s.copyStore r i j k mid ctx v).Canon := by
  unfold Dev.copyStore
  refine .ite h.regStore ?_
  split
  · exact h.pairStage
  · exact h.pairWrite
  · exact h.regStore

theorem Canon.copyLoad {r i j k mid ctx} (h : s.Canon) : (s.copyLoad r i j k mid ctx).2.Canon := by
  unfold Dev.copyLoad
  refine .iteSnd h.regLoad ?_
  split
  · exact h.pairLow
  · exact h.pairHigh
  · exact h.regLoad

theorem Canon.regWrite {mid ctx off v} (h : s.Canon) : (s.regWrite mid ctx off v).Canon := by
  unfold Dev.regWrite
  split
  · split
    · exact h.misuse
    · exact h.copyStore
  · split
    · exact h.pushWrite
    · exact h.gateCount
  · exact h.gateCount

theorem Canon.regRead {mid ctx off} (h : s.Canon) : (s.regRead mid ctx off).2.Canon := by
  unfold Dev.regRead
  split
  · split
    · exact h
    · exact h.copyLoad
  · exact h.gateCount

theorem Canon.regBad {mid off write} (h : s.Canon) : (s.regBad mid off write).Canon := h.gateCount

theorem Canon.busRead {mid ctx a n} (h : s.Canon) : (s.busRead mid ctx a n).2.Canon := .iteSnd (.iteSnd h.regRead h.regBad) h.physRead

theorem Canon.busWrite {mid ctx a l} (h : s.Canon) : (s.busWrite mid ctx a l).Canon := .ite (.ite h.regWrite h.regBad) h.physWrite

theorem Canon.storeReach {c e} (h : s.Canon) : (s.storeReach c e).Canon := h.busWrite

theorem Canon.storesLeave {ge k} (h : s.Canon) : (s.storesLeave ge k).Canon := h.updEng.each fun _ _ h => h.storeReach

theorem Canon.settle {who} (h : s.Canon) : (s.settle who).Canon := by
  unfold Dev.settle
  split
  · exact .ite h h.storesLeave
  · exact h

/-! ### Boot -/

theorem Canon.phase {n next} (h : s.Canon) : (s.phase n next).Canon := .ite h.setFld.updBoot.updSys.modeUpdate h.setFld.updBoot

theorem Canon.bootStop {result} (h : s.Canon) : (s.bootStop result).Canon := h.setFld.updBoot.updSys.holdEnter.modeUpdate

theorem Canon.domBoot {b} (h : s.Canon) : (s.domBoot b).Canon := h.setReg.domPower

theorem Canon.domUnboot {b} (h : s.Canon) : (s.domUnboot b).Canon := h.setReg.when fun _ h => h.domDrop

theorem Canon.marchBank {b f} (h : s.Canon) : (s.marchBank b f).Canon :=
  .ite h.setFld.setFld.repair h.setFld.setFld.repair.zeroBank.setBankState

theorem Canon.newNonce (h : s.Canon) : s.newNonce.Canon := h.fresh.updVlt

theorem Canon.march {fails} (h : s.Canon) : (s.march fails).Canon := by
  unfold Dev.march
  extract_lets kept s₁ s₂ s₃ new s₄ s₅
  have h₃ : s₃.Canon := (h.phase.setFld.each fun _ _ h => h.setBankState).each fun _ _ h => h.marchBank
  have h₄ : s₄.Canon := .ite (h₃.each fun _ _ h => h.zeroBank).setFld.updSys h₃
  exact .ite h (.ite h₄.domBoot.setFld.updBoot.updSys.modeUpdate.newNonce h₄)

theorem Canon.keysDone (h : s.Canon) : s.keysDone.Canon := .ite h h.updVlt.setFlag

theorem Canon.setCause {chip code} (h : s.Canon) : (s.setCause chip code).Canon := .ite h.setFld h.setFld

theorem Canon.reject {code} (h : s.Canon) : (s.reject code).Canon :=
  .ite h.setCause.count.setFld.updBoot h.setCause.count.setFld.updBoot.bootStop

theorem Canon.imageTake {im} (h : s.Canon) : (s.imageTake im).Canon :=
  .ite h (.ite (Canon.ite h.phase.domBoot.setCause h.phase.domBoot).updBoot.reject (Canon.ite h.phase.domBoot.setCause
    h.phase.domBoot).updBoot.setCause.setFld.setFld.countBy.updVlt.updBoot)

theorem Canon.imageRead {flash} (h : s.Canon) : (s.imageRead flash).Canon := h.imageTake

theorem Canon.resourcePower {im engFail laneFail phyFail} (h : s.Canon) : (s.resourcePower im engFail laneFail phyFail).Canon :=
  ((h.each fun _ _ h => h.domBoot).each fun _ _ h => h.setFld.selfChecks).setFlag.updSys

theorem Canon.resourceCheck {engFail laneFail phyFail} (h : s.Canon) : (s.resourceCheck engFail laneFail phyFail).Canon := by
  unfold Dev.resourceCheck
  dsimp only
  split
  · exact h
  · exact .ite h (.ite h.phase.resourcePower.reject (.ite (h.phase.resourcePower.each fun _ _ h => h.domUnboot).degrade.setFlag
      (h.phase.resourcePower.each fun _ _ h => h.domUnboot)))

theorem Canon.assignBanks {im} (h : s.Canon) : (s.assignBanks im).Canon := h.each fun _ _ h => h.setPart

theorem Canon.keepImage {im} (h : s.Canon) : (s.keepImage im).Canon := h.updBoot

theorem Canon.partitionApply (h : s.Canon) : s.partitionApply.Canon := by
  unfold Dev.partitionApply
  dsimp only
  split
  · exact h
  · exact .ite h (.ite h.phase.assignBanks.reject (Canon.ite (h.phase.assignBanks.keepImage.each fun _ _ h => h.domUnboot).swcShow
      (h.phase.assignBanks.keepImage.each fun _ _ h => h.domUnboot)).updBoot)

theorem Canon.seqNext {who} (h : s.Canon) : (s.seqNext who).Canon := by
  unfold Dev.seqNext
  split <;> exact h.updBoot

theorem Canon.seqPhase {who} (h : s.Canon) : (s.seqPhase who).Canon := by
  unfold Dev.seqPhase
  split
  · exact h.phase
  · exact h

theorem Canon.seqApply {who op} {f : RegRec → Dev → Dev} (h : s.Canon) (g : ∀ r s, s.Canon → (f r s).Canon) : (s.seqApply who op f).Canon := by
  unfold Dev.seqApply
  split
  · exact h
  · exact .ite h (.ite (h.seqPhase.when fun _ h => h.count).seqNext (g _ _ h.seqPhase))

theorem Canon.bootStore {a v} (h : s.Canon) : (s.bootStore a v).Canon := .ite h.regWrite h.regBad

theorem Canon.bootLoad {a} (h : s.Canon) : (s.bootLoad a).2.Canon := .iteSnd h.regRead h.regBad

theorem Canon.seqWrite {who} (h : s.Canon) : (s.seqWrite who).Canon := h.seqApply fun _ _ h => h.bootStore.seqNext

theorem Canon.seqModify {who} (h : s.Canon) : (s.seqModify who).Canon := h.seqApply fun _ _ h => h.bootLoad.bootStore.seqNext

theorem Canon.seqPoll {who} (h : s.Canon) : (s.seqPoll who).Canon := h.seqApply fun _ _ h => .ite h.bootLoad.seqNext h.bootLoad

theorem Canon.seqDelay {who} (h : s.Canon) : (s.seqDelay who).Canon := h.seqApply fun _ _ h => h.seqNext

theorem Canon.seqEnd {who} (h : s.Canon) : (s.seqEnd who).Canon := h.seqApply fun _ _ h => h.seqNext

theorem Canon.pollTimeout (h : s.Canon) : s.pollTimeout.Canon := by
  unfold Dev.pollTimeout
  split
  · exact .ite h.seqPhase.bootStop h
  · exact h

theorem Canon.partPut {p off l} (h : s.Canon) : (s.partPut p off l).Canon := h.partFill

theorem Canon.reloadFill (h : s.Canon) : s.reloadFill.Canon := (h.each fun _ _ h => h.partPut).partPut

theorem Canon.progLoad {l off} (h : s.Canon) : (s.progLoad l off).Canon := by
  induction l generalizing s off with
  | nil => exact h
  | cons p l ih => exact ih h.partPut.setReg.setReg.setFld.setReg.updEng

theorem Canon.sectionLoad (h : s.Canon) : s.sectionLoad.Canon := by
  unfold Dev.sectionLoad
  dsimp only
  split
  · exact h
  · exact .ite h ((h.phase.setBytes.partPut.reloadFill.each fun _ _ h => h.partPut).progLoad.each fun _ _ h => h.zeroImem.loadRink.rinkStart)

theorem Canon.piLay {im} (h : s.Canon) : (s.piLay im).Canon :=
  (h.setReg.setReg.zeroRange.each fun _ _ h => h.store).each fun _ _ h => h.updTask

theorem Canon.safeFill {f l} (h : s.Canon) : (s.safeFill f l).Canon := by
  induction f generalizing s l with
  | zero => exact h
  | succ f ih =>
    unfold Dev.safeFill
    split
    · exact h
    · exact h
    · next e _ =>
      cases e
      exact ih (.ite h.setBytes h)

theorem Canon.windowsApply {l} (h : s.Canon) : (s.windowsApply l).Canon := h.countBy.setReg.updBoot

theorem Canon.grantsApply {l} (h : s.Canon) : (s.grantsApply l).Canon := h.countBy.updBoot

theorem Canon.storeAll {l} (h : s.Canon) : (s.storeAll l).Canon := h.each fun _ _ h => h.bootStore

theorem Canon.slalomApply {l b} (h : s.Canon) : (s.slalomApply l b).Canon := h.storeAll

theorem Canon.matrixApply {x} (h : s.Canon) : (s.matrixApply x).Canon := h.storeAll

theorem Canon.bladeApply {x} (h : s.Canon) : (s.bladeApply x).Canon := h.storeAll

theorem Canon.sectionApply (h : s.Canon) : s.sectionApply.Canon := by
  unfold Dev.sectionApply
  dsimp only
  split
  · exact h
  · exact .ite h (((h.phase.updPers.updPers.each fun _ _ h => h.slalomApply).each fun _ _ h => h.matrixApply).each fun _ _ h =>
      h.bladeApply).piLay.safeFill.windowsApply.grantsApply.slotsShow.updBoot

theorem Canon.patrolStart (h : s.Canon) : s.patrolStart.Canon := h.each fun _ _ h => h.updCtx.setSt

theorem Canon.bootRelease {us} (h : s.Canon) : (s.bootRelease us).Canon := by
  unfold Dev.bootRelease
  extract_lets listen s₁ s₂ s₃ s₄ s₅ s₆
  have h₄ : s₄.Canon := (h.phase.setReg.each fun _ _ h => h.setFlag).updSys.setFld
  have h₅ : s₅.Canon := .ite h₄.setFlag.parEnable h₄
  have h₆ : s₆.Canon := .ite h₅.holdEnter h₅
  exact .ite h h₆.patrolStart.modeUpdate

/-! ### The Vault -/

theorem Canon.otp {f} (h : s.Canon) : (s.otp f).Canon := h.updVlt.vltShow

theorem Canon.provRefuse (h : s.Canon) : s.provRefuse.Canon := h.count

theorem Canon.getEphemeral (h : s.Canon) : s.getEphemeral.Canon := h.fresh.updVlt

theorem Canon.setKeySlot {n key} (h : s.Canon) : (s.setKeySlot n key).Canon := h.otp

theorem Canon.revokeSlot {n} (h : s.Canon) : (s.revokeSlot n).Canon := h.otp

theorem Canon.setImgKey {sent} (h : s.Canon) : (s.setImgKey sent).Canon := h.fresh.updVlt.otp

theorem Canon.setDebugKey {key} (h : s.Canon) : (s.setDebugKey key).Canon := h.otp

theorem Canon.setOwned (h : s.Canon) : s.setOwned.Canon := h.otp

theorem Canon.scrap (h : s.Canon) : s.scrap.Canon := h.otp

theorem Canon.provDo {q} (h : s.Canon) : (s.provDo q).Canon := by
  unfold Dev.provDo
  split
  · exact h.getEphemeral
  · exact h.setKeySlot
  · exact h.revokeSlot
  · exact h.setImgKey
  · exact h.setDebugKey
  · exact h.otp
  · exact h.setOwned
  · exact h.scrap

theorem Canon.provServed {q sig} (h : s.Canon) : (s.provServed q sig).Canon := .ite h (.ite h.provRefuse (.ite h.provDo h.provDo.newNonce))

theorem Canon.debugChallenge (h : s.Canon) : s.debugChallenge.Canon := .ite h (.ite h.setFlag (.ite h h.fresh.updVlt))

theorem Canon.debugResponse {sig} (h : s.Canon) : (s.debugResponse sig).Canon := by
  unfold Dev.debugResponse
  dsimp only
  split
  · exact h
  · exact .ite h.updVlt (.ite h.updVlt.setFlag h.updVlt.count.updVlt)

theorem Canon.updTap {f} (h : s.Canon) : (s.updTap f).Canon := h.same

theorem Canon.sakInstall {n an} (h : s.Canon) : (s.sakInstall n an).Canon := by
  unfold Dev.sakInstall
  dsimp only
  split
  · exact h
  · exact .ite h (.ite h.fresh.fresh.updVlt.setFld.updMac.txpnRestart h.fresh.fresh.updVlt.setFld.updMac)

/-! ### The host interface -/

theorem Canon.updHost {f} (h : s.Canon) : (s.updHost f).Canon := h.same

theorem Canon.watchdogExpiry (h : s.Canon) : s.watchdogExpiry.Canon := .ite h.startReset h

theorem Canon.lockstep {fetch} (h : s.Canon) : (s.lockstep fetch).Canon := .ite h (.ite h.startReset h.count.startReset)

theorem Canon.loadWindow {busy} (h : s.Canon) : (s.loadWindow busy).Canon :=
  .ite h (.ite (.ite h.setFld.setFld.count h.setFld) (.ite h.setFld.setFld h.setFld))

theorem Canon.hostRead {a} (h : s.Canon) : (s.hostRead a).2.2.Canon := .iteSnd₂ h.count h.busRead

theorem Canon.hostWrite {a v} (h : s.Canon) : (s.hostWrite a v).Canon := .ite h.count h.busWrite

theorem Canon.hostReads {n a} (h : s.Canon) : (s.hostReads n a).2.2.Canon := by
  induction n generalizing s a with
  | zero => exact h
  | succ n ih => exact ih h.hostRead

theorem Canon.hostWrites {l a} (h : s.Canon) : (s.hostWrites l a).Canon := by
  induction l generalizing s a with
  | nil => exact h
  | cons v l ih => exact ih h.hostWrite

theorem Canon.pcieRead {a n} (h : s.Canon) : (s.pcieRead a n).Canon :=
  .ite h (.ite h.misuse.updHost (Canon.ite h.hostReads.count h.hostReads).updHost)

theorem Canon.pcieWrite {a l} (h : s.Canon) : (s.pcieWrite a l).Canon := .ite h (.ite h.misuse h.hostWrites)

theorem Canon.spiWrite {a l how} (h : s.Canon) : (s.spiWrite a l how).Canon := by
  unfold Dev.spiWrite
  dsimp only
  refine .ite h ?_
  split
  · exact h.count
  · exact .ite h.misuse h.hostWrites
  · exact (Canon.ite h.misuse h.hostWrites).count

theorem Canon.spiActive {on} (h : s.Canon) : (s.spiActive on).Canon := h.setFlag

theorem Canon.spiAnswer {status l} (h : s.Canon) : (s.spiAnswer status l).Canon := h.updHost.spiActive

theorem Canon.spiRead {a n late} (h : s.Canon) : (s.spiRead a n late).Canon :=
  .ite h (.ite h.misuse.spiAnswer (.ite h.count.spiAnswer (.ite h.spiActive.hostRead.spiAnswer
    (.ite h.spiActive.hostRead.hostReads.count.spiAnswer h.spiActive.hostRead.hostReads.spiAnswer))))

theorem Canon.msixRelease (h : s.Canon) : s.msixRelease.Canon := h.each fun _ _ h => .ite h.updHost.count h.updHost

theorem Canon.msixUnmask {v} (h : s.Canon) : (s.msixUnmask v).Canon := by
  unfold Dev.msixUnmask
  refine .ite h ?_
  split <;> exact h.updHost.msixRelease

theorem Canon.pcieLink {up width speed} (h : s.Canon) : (s.pcieLink up width speed).Canon :=
  .ite h (.ite h.setFlag.setFld.setFld h.setFlag.setFld.setFld.count)

theorem Canon.pciePerst {high} (h : s.Canon) : (s.pciePerst high).Canon := .ite h.updHost h.pcieLink.updHost

theorem Canon.patrolPost {m ptr len tag} (h : s.Canon) : (s.patrolPost m ptr len tag).Canon := h.mbxStore.count.mbxResult

theorem Canon.hostAnswer {ptr len tag payload status words} (h : s.Canon) : (s.hostAnswer ptr len tag payload status words).Canon :=
  (Canon.ite h h.physWrite).physWrite.patrolPost

theorem Canon.hostServe {code after} {serve : Dev → (Nat × List Nat) × Dev} (h : s.Canon) (g : ∀ s, s.Canon → (serve s).2.Canon)
    (k : ∀ s, s.Canon → (after s).Canon) : (s.hostServe code serve after).Canon := by
  unfold Dev.hostServe
  extract_lets m ctx hi ptr len tag block inside c payload full s₁ s₂
  have h₂ : s₂.Canon := h.mbxReadLow.mbxReadHigh
  clear_value s₂
  refine .ite h (.ite h (.ite (.ite h₂.hostAnswer h₂.patrolPost) ?_))
  split
  next r s₃ _ =>
  have h₃ : s₃.Canon := h₂.physRead.of_eq
  refine .ite h₃.hostAnswer (.ite h₃.hostAnswer ?_)
  split
  next st l s₄ e =>
  exact k _ ((g _ h₃).of_eq e).hostAnswer

theorem Canon.hostInfo {code words reads} (h : s.Canon) : (s.hostInfo code words reads).Canon :=
  h.hostServe (fun _ h => .iteSnd h (h.each fun _ _ h => h.physRead)) fun _ h => h

theorem Canon.getInfo (h : s.Canon) : s.getInfo.Canon := h.hostInfo

theorem Canon.getCounters {b} (h : s.Canon) : (s.getCounters b).Canon :=
  h.hostServe (fun _ h => .iteSnd h (.ite h.crowdCount h)) fun _ h => h

theorem Canon.readLog {seq} (h : s.Canon) : (s.readLog seq).Canon := h.hostInfo

theorem Canon.flashWrite {done} (h : s.Canon) : (s.flashWrite done).Canon :=
  .ite (.ite h.updHost.setFlag h) (h.hostServe (fun _ h => .iteSnd h h.updHost.setFld.setFlag) fun _ h => h)

theorem Canon.flashVerify {flash} (h : s.Canon) : (s.flashVerify flash).Canon := h.hostServe (fun _ h => .iteSnd h h.setFld) fun _ h => h

theorem Canon.exchangeTake {p bytes at_ places} (h : s.Canon) : (s.exchangeTake p bytes at_ places).Canon :=
  h.hostServe (fun _ h => .iteSnd h (.iteSnd h.partPut.fresh.logRecord (h.partPut.each fun _ _ h => h.partPut).updHost)) fun _ h => h

theorem Canon.exchangeLoad {flash at_ places} (h : s.Canon) : (s.exchangeLoad flash at_ places).Canon := h.exchangeTake

theorem Canon.armTask {t place at_} (h : s.Canon) : (s.armTask t place at_).Canon := h.setReg.setReg.setReg.taskArm

theorem Canon.exchangeArm {l at_} (h : s.Canon) : (s.exchangeArm l at_).Canon :=
  h.hostServe (fun _ h => .iteSnd h (h.each fun _ _ h => h.armTask).updHost) fun _ h => h

theorem Canon.hostForce {n vals} (h : s.Canon) : (s.hostForce n vals).Canon := by
  unfold Dev.hostForce
  dsimp only
  exact h.hostServe (fun _ h => .iteSnd h (by
    split
    · exact h.slotForce
    · exact (Canon.ite h.fresh.physWrite h.fresh).slotForce)) fun _ h => h

theorem Canon.provision {q sig} (h : s.Canon) : (s.provision q sig).Canon := h.hostServe (fun _ h => .iteSnd h h.provServed) fun _ h => h

theorem Canon.hostReset (h : s.Canon) : s.hostReset.Canon := h.hostServe (fun _ h => h) fun _ h => h.softReset

/-! ### Jobs -/

theorem Canon.returned {p j} (h : s.Canon) : (s.returned p j).Canon := by
  unfold Dev.returned
  dsimp only
  split
  · exact (Canon.ite h.count h).count.captureCopy.endCopy
  · exact h.count
  · exact h.count
  · exact h.count
  · exact h.count.setFld.updTask
  · exact h.count
  · exact h
  · exact h

theorem Canon.entered {p j} (h : s.Canon) : (s.entered p j).Canon := by
  unfold Dev.entered
  split
  · exact h.updSwc
  · exact h

theorem Canon.queueRoom {ge} (h : s.Canon) : (s.queueRoom ge).Canon := by
  unfold Dev.queueRoom
  dsimp only
  split
  · exact h
  · split
    · exact h.same.push.of_eq.count.entered
    · exact h.same.push.of_eq.returned
    · exact h

/-! ### Skezia -/

theorem Canon.issue {c op} {f : Nat → Dev → Dev} (h : s.Canon) (g : ∀ w s, s.Canon → (f w s).Canon) : (s.issue c op f).Canon :=
  .ite (g _ _ h.issued) h

theorem Canon.goto {c pc} (h : s.Canon) : (s.goto c pc).Canon := h.updCtx

theorem Canon.nextWord {c} (h : s.Canon) : (s.nextWord c).Canon := h.goto

theorem Canon.simple {c f} (h : s.Canon) : (s.simple c f).Canon := h.updCtx.nextWord

theorem Canon.bcWord {c w} (h : s.Canon) : (s.bcWord c w).Canon := .ite h.goto h.nextWord

theorem Canon.jalWord {c w} (h : s.Canon) : (s.jalWord c w).Canon := h.updCtx.goto

theorem Canon.jrWord {c w} (h : s.Canon) : (s.jrWord c w).Canon := h.goto

theorem Canon.dbnzWord {c w} (h : s.Canon) : (s.dbnzWord c w).Canon := .ite h.updCtx.nextWord h.updCtx.goto

theorem Canon.countConflict {c} (h : s.Canon) : (s.countConflict c).Canon := .ite h.count h.count

theorem Canon.complete {c outs vals} (h : s.Canon) : (s.complete c outs vals).Canon := (h.updCtx.when fun _ h => h.countConflict).nextWord

theorem Canon.makeStore {c a pa} (h : s.Canon) : (s.makeStore c a pa).Canon := .ite h.store.travWrote h.updEng

theorem Canon.lookAcc {c a} (h : s.Canon) : (s.lookAcc c a).2.Canon := by
  unfold Dev.lookAcc
  refine .iteSnd h ?_
  split
  · exact h
  · split
    · exact h.translate.of_eq
    · exact h.translate

theorem Canon.resolve {c l} (h : s.Canon) : (s.resolve c l).2.Canon := by
  unfold Dev.resolve
  dsimp only
  split
  · exact h
  · split <;> exact h.lookAcc.of_eq
  · split <;> exact h.lookAcc.lookAcc

theorem Canon.ownAll {c l} (h : s.Canon) : (s.ownAll c l).2.Canon := by
  induction l generalizing s with
  | nil => exact h
  | cons p l ih => exact .iteSnd (ih h.makeStore) (ih h)

theorem Canon.memWord {c w} (h : s.Canon) : (s.memWord c w).Canon := by
  unfold Dev.memWord
  dsimp only
  split
  · exact h.resolve.of_eq.faultCtx
  · exact h.resolve.of_eq.updCtx
  · exact .ite h.resolve.of_eq (.ite (h.resolve.of_eq.each fun _ _ h => h.makeStore).updEng.updCtx h.resolve.of_eq.ownAll.complete)

theorem Canon.makeAll {c l} (h : s.Canon) : (s.makeAll c l).2.Canon := by
  induction l generalizing s with
  | nil => exact h
  | cons p l ih => exact .iteSnd (ih h.makeStore) (.iteSnd (ih h) (ih h.busRead))

theorem Canon.dataReturn {c} (h : s.Canon) : (s.dataReturn c).Canon := by
  unfold Dev.dataReturn
  dsimp only
  split
  · refine .ite h ?_
    split
    · exact h.makeAll.complete
    · exact h.makeAll.faultCtx
  · exact h

theorem Canon.walkComplete {c} (h : s.Canon) : (s.walkComplete c).Canon := by
  unfold Dev.walkComplete
  dsimp only
  split
  · exact h
  · refine .ite h (.ite h.same (.ite h.same.updCtx ?_))
    split
    · split
      · exact h.same.updCtx.walk.of_eq.updCtx.resolve.of_eq.faultCtx
      · exact h.same.updCtx.walk.of_eq.updCtx.resolve.of_eq.updCtx
      · exact h.same.updCtx.walk.of_eq.updCtx.resolve.of_eq
    · exact (Canon.ite h.same.updCtx.walk.of_eq h.same.updCtx.walk.of_eq.fillL2).fillMicro

theorem Canon.storeDrain {c} (h : s.Canon) : (s.storeDrain c).Canon := by
  unfold Dev.storeDrain
  split
  · exact h
  · exact .ite h h.updEng.storeReach

theorem Canon.illegalWord {c} (h : s.Canon) : (s.illegalWord c).Canon := h.updEng.nextWord

theorem Canon.waitevWord {c w} (h : s.Canon) : (s.waitevWord c w).Canon :=
  .ite (Canon.ite h.simple.updCtx.becomeIdle (h.simple.when fun _ h => h.count).setSt).wake
    (.ite h.simple.updCtx.becomeIdle (h.simple.when fun _ h => h.count).setSt)

theorem Canon.eventWake {c} (h : s.Canon) : (s.eventWake c).Canon := .ite h.wake h

theorem Canon.timerExpiry {c} (h : s.Canon) : (s.timerExpiry c).Canon := .ite h.updCtx h

theorem Canon.crRead {c i} (h : s.Canon) : (s.crRead c i).2.Canon := by
  unfold Dev.crRead
  dsimp only
  split
  · exact h
  · exact h
  · exact h
  · exact h
  · exact h
  · exact h
  · exact h
  · exact h
  · exact h
  · exact h
  · exact h
  · exact h
  · exact h
  · exact h.fresh.updEng
  · exact h
  · exact h
  · exact .iteSnd h (.iteSnd h h.skzMisuse)

theorem Canon.rdcrWord {c w} (h : s.Canon) : (s.rdcrWord c w).Canon := h.crRead.simple

theorem Canon.updSkz {c f} (h : s.Canon) : (s.updSkz c f).Canon := h.updCtx

theorem Canon.strayCr {c v mask} (h : s.Canon) : (s.strayCr c v mask).Canon := .ite h h.skzMisuse

theorem Canon.crWrite {c i v} (h : s.Canon) : (s.crWrite c i v).Canon := by
  unfold Dev.crWrite
  split
  · exact h.strayCr.updSkz
  · exact h.updSkz
  · exact h.strayCr.updSkz
  · exact h.updSkz
  · exact h.strayCr.updSkz
  · exact h.strayCr.each fun _ _ h => h.updSkz
  · exact h.strayCr.updSkz
  · exact .ite h.updEng h.skzMisuse
  · exact .ite h.updEng h
  · exact h.skzMisuse

theorem Canon.wrcrWord {c w} (h : s.Canon) : (s.wrcrWord c w).Canon := h.crWrite.nextWord

/-! ### The Pregaef interpreter -/

theorem Canon.stackDrop {c n} (h : s.Canon) : (s.stackDrop c n).Canon := h.updCtx

theorem Canon.stackPush {c v} (h : s.Canon) : (s.stackPush c v).Canon := h.store.updCtx

theorem Canon.stackPut {c l} (h : s.Canon) : (s.stackPut c l).Canon := h.each fun _ _ h => h.stackPush

theorem Canon.dataPut {c a k l} (h : s.Canon) : (s.dataPut c a k l).Canon := h.each fun _ _ h => h.physWrite

theorem Canon.pgReads {c l} (h : s.Canon) : (s.pgReads c l).2.Canon := h.foldl fun _ _ _ h => h.physRead

theorem Canon.migrateSym {c new old k} (h : s.Canon) : (s.migrateSym c new old k).Canon := by
  unfold Dev.migrateSym
  dsimp only
  split
  · exact h.dataPut
  · exact .ite h.dataPut (h.each fun _ _ h => h.fresh.dataPut)

theorem Canon.pgFault {c} (h : s.Canon) : (s.pgFault c).Canon := h.fresh.faultCtx

theorem Canon.runBegin {c t} (h : s.Canon) : (s.runBegin c t).2.Canon :=
  .iteSnd h (.iteSnd h.touch.pgReads.pgFault (.ite h.touch.pgReads.updTask.physWrite
    (h.touch.pgReads.updTask.physWrite.each fun _ _ h => h.migrateSym)))

theorem Canon.unbind {c} (h : s.Canon) : (s.unbind c).Canon := h.updCtx

theorem Canon.stopRun {c t} (h : s.Canon) : (s.stopRun c t).Canon := h.runStopped.unbind

theorem Canon.endRun {c t} (h : s.Canon) : (s.endRun c t).Canon := h.runReport.unbind

theorem Canon.pgfBindWord {c w} (h : s.Canon) : (s.pgfBindWord c w).Canon := .ite h h.touch.simple

theorem Canon.cp1Word {c} {f : Nat → Dev → Dev} (h : s.Canon) (g : ∀ t s, s.Canon → (f t s).Canon) : (s.cp1Word c f).Canon :=
  .ite h.skzMisuse.nextWord (g _ _ h)

theorem Canon.pgfNextWord {c w} (h : s.Canon) : (s.pgfNextWord c w).Canon := by
  unfold Dev.pgfNextWord
  dsimp only
  exact h.cp1Word fun _ _ h => .ite h.stopRun.nextWord (.ite h (by
    split
    · exact h.runBegin.of_eq
    · exact h.runBegin.of_eq.touch.updCtx.goto))

theorem Canon.retype {t pop push} (h : s.Canon) : (s.retype t pop push).Canon := h.updTask

theorem Canon.pgfPopWord {n c w} (h : s.Canon) : (s.pgfPopWord n c w).Canon := h.cp1Word fun _ _ h => h.stackDrop.retype.updCtx.nextWord

theorem Canon.pgfPushWord {n c w} (h : s.Canon) : (s.pgfPushWord n c w).Canon :=
  h.cp1Word fun _ _ h => (h.each fun _ _ h => h.stackPush).retype.nextWord

theorem Canon.pgfJmpWord {c w} (h : s.Canon) : (s.pgfJmpWord c w).Canon := h.cp1Word fun _ _ h => h.simple

theorem Canon.pgfEndWord {c} (h : s.Canon) : (s.pgfEndWord c).Canon := h.cp1Word fun _ _ h => h.endRun.nextWord

theorem Canon.slotOut {c t n} (h : s.Canon) : (s.slotOut c t n).Canon := h.physWrite

theorem Canon.opWork {c t w tys l} (h : s.Canon) : (s.opWork c t w tys l).2.Canon := by
  unfold Dev.opWork
  dsimp only
  split
  · exact h
  · exact h
  · exact h
  · exact h
  · exact h.dataPut
  · exact h
  · exact h.dataPut
  · exact h
  · exact h.dataPut
  · exact h
  · exact h
  · exact .iteSnd h.fresh.fresh.dataPut h.dataPut
  · exact .ite h.arithReport h

theorem Canon.doPregaef {c t w} (h : s.Canon) : (s.doPregaef c t w).Canon := by
  unfold Dev.doPregaef
  dsimp only
  split
  · exact h.touch.pgReads.of_eq.pgFault
  · exact .ite (h.touch.pgReads.of_eq.opWork.stackDrop.stackPut.updCtx.updTask.each fun _ _ h => h.slotOut).endRun
      h.touch.pgReads.of_eq.opWork.stackDrop.stackPut.updCtx.updTask

theorem Canon.pregaef {c op} (h : s.Canon) : (s.pregaef c op).Canon := by
  unfold Dev.pregaef
  dsimp only
  refine .ite h (.ite h.stopRun ?_)
  split
  · exact h.runBegin.of_eq
  · exact h.runBegin.of_eq.doPregaef

/-! ### Register rows -/

theorem Canon.settled {who a} {f : Dev → Dev} (h : s.Canon) (g : ∀ s, s.Canon → (f s).Canon) : (s.settled who a f).Canon :=
  .ite h (g _ h.settle)

theorem Canon.signalRow {ge} {f : Dev → Dev} (h : s.Canon) (g : ∀ s, s.Canon → (f s).Canon) : (s.signalRow ge f).Canon :=
  .ite (g _ h) h

theorem Canon.agentWrite {who off v} (h : s.Canon) : (s.agentWrite who off v).Canon := h.settled fun _ h => h.regWrite

theorem Canon.agentRead {who off} (h : s.Canon) : (s.agentRead who off).Canon := h.settled fun _ h => h.regRead.same

theorem Canon.rowWrite {who r v i j} (h : s.Canon) : (s.rowWrite who r v i j).Canon := by
  unfold Dev.rowWrite
  exact h.settled fun _ h => by
    split
    · exact h.copyStore
    · exact .ite h.pushWrite h.gateCount
    · exact h.gateCount

theorem Canon.rowRead {who r i j} (h : s.Canon) : (s.rowRead who r i j).Canon := by
  unfold Dev.rowRead
  dsimp only
  exact h.settled fun _ h => by
    split
    · exact h.copyLoad.same
    · exact h.gateCount.same

theorem Canon.onReg {off p} {f : Dev → Dev} (h : s.Canon) (g : ∀ s, s.Canon → (f s).Canon) : (s.onReg off p f).Canon := by
  unfold Dev.onReg
  split
  · exact .ite (g s h) h
  · exact h

theorem Canon.rowAccess {who a w} (h : s.Canon) : (s.rowAccess who a w).Canon := by
  refine Canon.settled h fun s h => ?_
  split
  · exact .ite h.hostWrite h.busWrite
  · refine Canon.same (s := Prod.snd (if who = .host then _ else _)) ?_
    split
    · exact h.hostRead
    · exact h.busRead

theorem Canon.rinkRstRow {who v fails} (h : s.Canon) : (s.rinkRstRow who v fails).Canon := by
  unfold Dev.rinkRstRow
  exact h.settled fun _ h => by
    split
    · exact h.rinkReset
    · exact h.gateCount

theorem Canon.ctxCtrlRow {who c v} (h : s.Canon) : (s.ctxCtrlRow who c v).Canon := .ite h.rowWrite h.rowWrite

theorem Canon.lmemRow {n e} (h : s.Canon) : (s.lmemRow n e).Canon := .ite h h.setFlag.engineOffline.reapRuns.autoYield

theorem Canon.lmemCeRow {n e} (h : s.Canon) : (s.lmemCeRow n e).Canon := .ite h h.count

theorem Canon.offlineRow {who n e} (h : s.Canon) : (s.offlineRow who n e).Canon := h.rowWrite

theorem Canon.tblRow {who op v} (h : s.Canon) : (s.tblRow who op v).Canon := .ite h.rowWrite h

theorem Canon.gclRow {n} (h : s.Canon) : (s.gclRow n).Canon := .ite h.gclCycle.ctlGate h.gclCycle

theorem Canon.gclSwitchRow {n} (h : s.Canon) : (s.gclSwitchRow n).Canon := .ite h.gclSwitch.ctlGate h.gclSwitch

/-! ### The tick -/

theorem Canon.watchdogTick (h : s.Canon) : s.watchdogTick.Canon := .ite h (.ite h.updSys h.setFld.updSys)

theorem Canon.tick (h : s.Canon) : s.tick.Canon := by
  unfold Dev.tick
  split
  · exact h
  · exact h
  · exact ((h.each fun _ _ h => h.tbTick).each fun _ _ h => h.when fun _ h => h.creditStep).refTick.watchdogTick.capWrite.countsOut.updVlt

/-! ### The debugger -/

theorem Canon.debugReg {off w} (h : s.Canon) : (s.debugReg off w).2.Canon := by
  unfold Dev.debugReg
  dsimp only
  refine .iteSnd h.count ?_
  split
  · exact h.regWrite
  · exact h.regRead

theorem Canon.debugPut {v w} (h : s.Canon) : (s.debugPut v w).Canon := by
  unfold Dev.debugPut
  dsimp only
  split
  · exact h.updCtx
  · exact h.updCtx
  · exact h.updCtx
  · exact h.updCtx
  · exact h.crWrite
  · exact h.updCtx
  · exact h.updCtx
  · split
    · exact h.setSt
    · exact h.updCtx
  · exact h.same
  · exact h.updCtx
  · exact h.same
  · exact h.setQueue
  · exact h.updEng
  · split
    · exact h.store
    · exact h
  · exact h

theorem Canon.debugAccess {t w} (h : s.Canon) : (s.debugAccess t w).Canon := by
  unfold Dev.debugAccess
  dsimp only
  refine .ite h ?_
  split
  · exact h.debugReg.updVlt
  · split
    · exact h.debugPut
    · exact h.updVlt

theorem Canon.tapOp {op w} (h : s.Canon) : (s.tapOp op w).Canon := by
  unfold Dev.tapOp
  dsimp only
  split
  · exact h.updTap
  · exact h.updTap
  · exact h.updTap
  · exact h.updTap
  · split
    · exact h.updTap
    · exact h.fresh.updTap
  · exact h.debugAccess

end Dev

/-! ### Commands and steps -/

/-- The outcome is a next state in canonical form. -/
def NextCanon (o : Host.Outcome State Fault Refusal) : Prop := ∃ t, o = .next t ∧ t.dev.Canon

theorem NextCanon.next {s : State} (h : s.dev.Canon) : NextCanon (.next s) := ⟨_, rfl, h⟩

/-- Every command keeps the canonical form: row by row, the device operation that the row names does. -/
theorem Dev.Canon.exec {i} {s : State} (h : s.dev.Canon) : NextCanon (exec i s) := by
  cases i <;> refine .next ?_ <;> dsimp only
  case reg64LowRead => exact h.onReg fun _ h => h.agentRead
  case reg64HighRead => exact h.onReg fun _ h => h.agentRead
  case reg64LowWrite => exact h.onReg fun _ h => h.agentWrite
  case reg64HighWrite => exact h.onReg fun _ h => h.agentWrite
  case registerWrite => exact h.onReg fun _ h => h.agentWrite
  case counterWrite => exact h.onReg fun _ h => h.agentWrite
  case unmappedAccess => exact .ite h.rowAccess h
  case domainOffAccess => exact .ite h.rowAccess h
  case powerOnReset => exact h.powerLoss
  case pinReset => exact h.startReset
  case softReset => exact h.rowWrite
  case rinkReset => exact h.rinkRstRow
  case rinkResetEnd => exact h.rinkResetEnd
  case portReset => exact h.rowWrite
  case portResetEnd => exact h.portResetEnd
  case resetEnd => exact h.resetEnd
  case keyDerivationDone => exact h.keysDone
  case marchCSelfTest => exact h.march
  case imageRead => exact h.imageRead
  case resourceCheck => exact h.resourceCheck
  case partitionApply => exact h.partitionApply
  case sectionLoad => exact h.sectionLoad
  case sectionApply => exact h.sectionApply
  case bootRelease => exact h.bootRelease
  case regseqWrite => exact h.seqWrite
  case regseqModify => exact h.seqModify
  case regseqPoll => exact h.seqPoll
  case regseqDelay => exact h.seqDelay
  case regseqEnd => exact h.seqEnd
  case pollTimeout => exact h.pollTimeout
  case bootConfirm => exact h.rowWrite
  case getEphemeral => exact h.provServed
  case setKeySlot => exact h.provServed
  case revokeSlot => exact h.provServed
  case setImgKey => exact h.provServed
  case setDebugKey => exact h.provServed
  case setSensors => exact h.provServed
  case setOwned => exact h.provServed
  case scrap => exact h.provServed
  case debugChallenge => exact h.debugChallenge
  case debugResponse => exact h.debugResponse
  case tamperResponse => exact h.tamperTrip
  case lockdownEntry => exact h.lockdownEntry
  case tamperCountProgram => exact h.tamperCountBit
  case tandemLinkStart => exact h.tandemStart
  case sakInstall => exact h.sakInstall
  case pairedWord => exact h.issue fun _ _ h => h.memWord
  case illegalWord => exact h.issue fun _ _ h => h.illegalWord
  case alu => exact h.issue fun _ _ h => h.simple
  case addi => exact h.issue fun _ _ h => h.simple
  case andi => exact h.issue fun _ _ h => h.simple
  case ori => exact h.issue fun _ _ h => h.simple
  case xori => exact h.issue fun _ _ h => h.simple
  case cmpi => exact h.issue fun _ _ h => h.simple
  case shifti => exact h.issue fun _ _ h => h.simple
  case lui => exact h.issue fun _ _ h => h.simple
  case muli => exact h.issue fun _ _ h => h.simple
  case dvs => exact h.issue fun _ _ h => h.simple
  case dvu => exact h.issue fun _ _ h => h.simple
  case load => exact h.issue fun _ _ h => h.memWord
  case store => exact h.issue fun _ _ h => h.memWord
  case loadm => exact h.issue fun _ _ h => h.memWord
  case storem => exact h.issue fun _ _ h => h.memWord
  case loadDataReturn => exact h.dataReturn
  case storeBufferDrain => exact h.storeDrain
  case bc => exact h.issue fun _ _ h => h.bcWord
  case jal => exact h.issue fun _ _ h => h.jalWord
  case jr => exact h.issue fun _ _ h => h.jrWord
  case dbnz => exact h.issue fun _ _ h => h.dbnzWord
  case waitev => exact h.issue fun _ _ h => h.waitevWord
  case eventWake => exact h.eventWake
  case rdcr => exact h.issue fun _ _ h => h.rdcrWord
  case wrcr => exact h.issue fun _ _ h => h.wrcrWord
  case mffl => exact h.issue fun _ _ h => h.simple
  case mtfl => exact h.issue fun _ _ h => h.simple
  case fence => exact h.issue fun _ _ h => h.simple
  case yield => exact h.issue fun _ _ h => h.simple
  case setspace => exact h.issue fun _ _ h => h.simple
  case crcCfg => exact h.issue fun _ _ h => h.simple
  case crcSet => exact h.issue fun _ _ h => h.simple
  case crcGet => exact h.issue fun _ _ h => h.simple
  case crcUb => exact h.issue fun _ _ h => h.simple
  case crcUh => exact h.issue fun _ _ h => h.simple
  case crcUw => exact h.issue fun _ _ h => h.simple
  case stfCfg => exact h.issue fun _ _ h => h.simple
  case stfPut => exact h.issue fun _ _ h => h.simple
  case stfGet => exact h.issue fun _ _ h => h.simple
  case stfCnt => exact h.issue fun _ _ h => h.simple
  case pgfBind => exact h.issue fun _ _ h => h.pgfBindWord
  case pgfNext => exact h.issue fun _ _ h => h.pgfNextWord
  case pgfPop => exact h.issue fun _ _ h => h.pgfPopWord
  case pgfPush => exact h.issue fun _ _ h => h.pgfPushWord
  case pgfPop2 => exact h.issue fun _ _ h => h.pgfPopWord
  case pgfPush2 => exact h.issue fun _ _ h => h.pgfPushWord
  case pgfJmp => exact h.issue fun _ _ h => h.pgfJmpWord
  case pgfEnd => exact .ite h (h.issue fun _ _ h => h.pgfEndWord)
  case fadd => exact h.issue fun _ _ h => h.simple
  case fsub => exact h.issue fun _ _ h => h.simple
  case fmul => exact h.issue fun _ _ h => h.simple
  case fdiv => exact h.issue fun _ _ h => h.simple
  case fsqrt => exact h.issue fun _ _ h => h.simple
  case fmin => exact h.issue fun _ _ h => h.simple
  case fmax => exact h.issue fun _ _ h => h.simple
  case fma => exact h.issue fun _ _ h => h.simple
  case fcmp => exact h.issue fun _ _ h => h.simple
  case fabs => exact h.issue fun _ _ h => h.simple
  case fneg => exact h.issue fun _ _ h => h.simple
  case fcvtW => exact h.issue fun _ _ h => h.simple
  case fcvtWu => exact h.issue fun _ _ h => h.simple
  case fcvtFw => exact h.issue fun _ _ h => h.simple
  case fcvtFwu => exact h.issue fun _ _ h => h.simple
  case fcvtX => exact h.issue fun _ _ h => h.simple
  case timerExpiry => exact h.timerExpiry
  case pushCommit => exact h.rowWrite
  case queueRoomPush => exact h.queueRoom
  case jobTake => exact h.jobTake
  case localSteal => exact h.localSteal
  case stealWindowExpiry => exact h.windowExpiry
  case stealRequest => exact h.stealRequest
  case stealReply => exact h.stealReply
  case patrolStealRequest => exact h.patStealRequest
  case contextResume => exact h.ctxCtrlRow
  case contextAbort => exact h.ctxCtrlRow
  case engineOffline =>
    split
    · exact h.offlineRow
    · exact h.lmemRow
    · exact h.lmemCeRow
  case tableWalk => exact h.walkStart
  case walkComplete => exact h.walkComplete
  case tlbInvalidate => exact h.rowWrite
  case tlbInvalidateDone => exact h.tlbInvDone
  case bankGrant => exact h.bankGrant
  case bankRequest => exact h.rowWrite
  case bankStateChangeDone => exact h.bankDone
  case liftStart => exact h.rowWrite
  case liftDescriptorFetch => exact h.liftFetch.reapRuns
  case liftBlock => exact h.liftBlock.reapRuns
  case liftChainDone => exact h.liftDone.reapRuns
  case liftResume => exact h.rowWrite
  case liftAbort => exact h.rowWrite
  case destructiveMarchSs => exact h.rowWrite
  case preservingMarchSs => exact h.rowWrite
  case groomerRow => exact h.grmRow
  case groomerCommandDone => exact h.grmDone
  case scrubRead => exact h.scrubRead
  case noticeLowWrite => exact h.rowWrite
  case postCommit => exact h.rowWrite
  case noticeSnapshot => exact h.rowRead
  case noticeTake => exact h.rowRead
  case mailboxFlush => exact h.rowWrite
  case doorbellSet => exact h.rowWrite
  case doorbellClear => exact h.rowWrite
  case msixUnmask => exact h.msixUnmask
  case lockAcquire => exact h.rowRead
  case lockRelease => exact h.rowWrite
  case lockForce => exact h.rowWrite
  case frameReceive => exact h.macReceive
  case macControlFrame => exact .ite h.macReceive h
  case pauseExpiry => exact h.pauseExpiry
  case pauseRefresh => exact h.pauseRefresh
  case egressSelection => exact h.select
  case frameTransmit => exact h.transmit
  case frameTransmitDone => exact h.transmitDone
  case linkChange => exact h.linkChange
  case laneLockChange => exact h.laneChange.parLanes
  case tphyRestart => exact h.rowWrite
  case traverseFrame => exact h.traverseFrame
  case downFlush => exact .ite h.flushPort h
  case fdbAging => exact h.fdbAge
  case dupEntryForget => exact h.dupForget
  case seqRecoveryReset => exact h.updSwc
  case tblRead => exact h.tblRow
  case tblWrite => exact h.tblRow
  case tblLookup => exact h.tblRow
  case tblInsert => exact h.tblRow
  case tblDelete => exact h.tblRow
  case tblDone => exact h.tblDone
  case copyDelivery => exact h.deliverCopy
  case copyRelease => exact h.rowWrite
  case injectCommit => exact h.rowWrite
  case injectionStart => exact h.injectStart
  case gclCycleStart => exact h.gclRow
  case gclEntryChange => exact h.gclEntry
  case gclSwitchArm => exact h.rowWrite
  case gclSwitch => exact h.gclSwitchRow
  case tbWrap => exact .ite h.tick h
  case tbSet => exact h.rowWrite
  case tbStep => exact h.rowWrite
  case tbRead => exact h.rowRead
  case tbCopyUpdate => exact h.copyUpdate
  case offsetSample => exact h.rowWrite
  case servoSample => exact .ite h.adjust h
  case holdTimeout => exact h.holdTimeout
  case timeInputEdge => exact h.inputEdge
  case ref10WindowEnd => exact h.refEnd
  case timeOutputEdge => exact h.outEdge
  case txtsRead => exact h.rowRead
  case evtRead => exact h.rowRead
  case slmEnable => exact .ite h.rowWrite h
  case slmDisable => exact .ite h h.rowWrite
  case listenTimeout => exact h.listenTimeout
  case slalomCycleStart => exact h.slmCycleStart
  case scheduleSwitchArm => exact h.rowWrite
  case gatePickup => exact h.gatePickup
  case gateSend => exact h.gateSend
  case slalomFrameReceive => exact .ite h.macReceive h
  case syncPoint => exact h.syncPoint
  case dcbCommit => exact h.rowWrite
  case dcbTake => exact h.rowWrite
  case canEnable => exact .ite h.rowWrite h
  case canDisable => exact .ite h h.rowWrite
  case canIntegrationDone => exact h.canIntegrated
  case txRequest => exact h.rowWrite
  case txCancel => exact h.rowWrite
  case canFrameTransmit => exact h.canTransmit
  case canFrameReceive => exact h.canReceive
  case ringEntryWrite => exact h.ringAck
  case ringEnable => exact h.rowWrite
  case canError => exact h.canBusError
  case busOffRecover => exact h.rowWrite
  case recoveryDone => exact h.canRecovered
  case basicCycleStart => exact h.mxCycle
  case canGate => exact h.canGate
  case bladeJmp => exact h.bldStep
  case bladeWait => exact h.bldStep
  case bladeIn => exact h.bldStep
  case bladeOut => exact h.bldStep
  case bladePush => exact h.bldStep
  case bladePull => exact h.bldStep
  case bladeMov => exact h.bldStep
  case bladeIrq => exact h.bldStep
  case bladeSet => exact h.bldStep
  case bladeAt => exact h.bldStep
  case atFire => exact h.bldFire
  case bladeIllegal => exact h.bldIllegal
  case txholdWrite => exact h.rowWrite
  case rxholdRead => exact h.rowRead
  case flagSet => exact h.rowWrite
  case flagClear => exact h.rowWrite
  case bladeStop => exact h.rowWrite
  case bladeResume => exact h.rowWrite
  case programWordWrite => exact h.rowWrite
  case restartArm => exact h.rowWrite
  case bladeRestart => exact h.bldRestart
  case bankLevelChange => exact h.bankLevel
  case receiveDispatch => exact h.signalRow fun _ h => h.dispatchFrame
  case ipv4Datagram => exact h.signalRow fun _ h => h.ipDatagram
  case stationInput => exact h.signalRow fun _ h => h.stationInput
  case stationLoss => exact h.signalRow fun _ h => h.stationLoss
  case gatewayTransmit => exact h.signalRow fun _ h => h.stationTransmit
  case instanceRefuse => exact h.signalRow fun _ h => h.instanceRefuse
  case goosePublish => exact h.signalRow fun _ h => h.goosePublish
  case gooseRetransmit => exact h.gooseRetransmit
  case slotCommit => exact h.rowWrite
  case lossReport => exact h.rowWrite
  case slotForce => exact h.rowWrite
  case slotRelease => exact h.rowWrite
  case arithReport => exact h.rowWrite
  case inputLatch => exact h.latchAll
  case taskRelease => exact h.taskRelease
  case outputDeadline => exact h.deadlineAll
  case arm => exact h.rowWrite
  case clrSafe => exact h.rowWrite
  case pregaefNop => exact h.pregaef
  case pregaefLit => exact h.pregaef
  case pregaefLitc => exact h.pregaef
  case pregaefLitc2 => exact h.pregaef
  case pregaefLd => exact h.pregaef
  case pregaefSt => exact h.pregaef
  case pregaefLd2 => exact h.pregaef
  case pregaefSt2 => exact h.pregaef
  case pregaefIn => exact h.pregaef
  case pregaefOut => exact h.pregaef
  case pregaefStat => exact h.pregaef
  case pregaefTime => exact h.pregaef
  case pregaefDup => exact h.pregaef
  case pregaefDrop => exact h.pregaef
  case pregaefSwap => exact h.pregaef
  case pregaefDup2 => exact h.pregaef
  case pregaefAdd => exact h.pregaef
  case pregaefSub => exact h.pregaef
  case pregaefMul => exact h.pregaef
  case pregaefDiv => exact h.pregaef
  case pregaefMod => exact h.pregaef
  case pregaefNeg => exact h.pregaef
  case pregaefAbs => exact h.pregaef
  case pregaefMin => exact h.pregaef
  case pregaefMax => exact h.pregaef
  case pregaefAnd => exact h.pregaef
  case pregaefOr => exact h.pregaef
  case pregaefXor => exact h.pregaef
  case pregaefNot => exact h.pregaef
  case pregaefShl => exact h.pregaef
  case pregaefShr => exact h.pregaef
  case pregaefRol => exact h.pregaef
  case pregaefRor => exact h.pregaef
  case pregaefEq => exact h.pregaef
  case pregaefNe => exact h.pregaef
  case pregaefLt => exact h.pregaef
  case pregaefLe => exact h.pregaef
  case pregaefGt => exact h.pregaef
  case pregaefGe => exact h.pregaef
  case pregaefCvt => exact h.pregaef
  case pregaefSqrt => exact h.pregaef
  case pregaefTrunc => exact h.pregaef
  case pregaefJmp => exact h.pregaef
  case pregaefJmpc => exact h.pregaef
  case pregaefJmpcn => exact h.pregaef
  case pregaefCall => exact h.pregaef
  case pregaefRet => exact h.pregaef
  case pregaefEnd => exact h.pregaef
  case pregaefFb => exact h.pregaef
  case parEnable => exact .ite h.rowWrite h
  case startWaitExpiry => exact h.startWait
  case heartbeatSend => exact h.heartbeatSend
  case tandemHeartbeat => exact h.tandemHeartbeat
  case networkHeartbeat => exact h.networkHeartbeat
  case heartbeatMiss => exact h.heartbeatMiss
  case relinquish => exact h.rowWrite
  case resync => exact h.rowWrite
  case clrUnfit => exact h.rowWrite
  case seqFrameReceive => exact h.seqReceive
  case outFrameReceive => exact h.outReceive
  case pageFrameReceive => exact h.pageReceive
  case endFrameReceive => exact h.endReceive
  case copyWindowClose => exact h.windowClose
  case lockstepMismatch => exact h.lockstep
  case watchdogKick => exact h.rowWrite
  case watchdogExpiry => exact h.watchdogExpiry
  case loadWindowEnd => exact h.loadWindow
  case patrolQueuePush => exact h.rowWrite
  case eventLogRecord => exact h.eventLog
  case pcieRead => exact h.pcieRead
  case pcieWrite => exact h.pcieWrite
  case pciePerst => exact h.pciePerst
  case spiWrite => exact h.spiWrite
  case spiRead => exact h.spiRead
  case getInfo => exact h.signalRow fun _ h => h.getInfo
  case getCounters => exact h.signalRow fun _ h => h.getCounters
  case readLog => exact h.signalRow fun _ h => h.readLog
  case flashWrite => exact h.signalRow fun _ h => h.flashWrite
  case flashVerify => exact h.signalRow fun _ h => h.flashVerify
  case exchangeLoad => exact h.signalRow fun _ h => h.exchangeLoad
  case exchangeArm => exact h.signalRow fun _ h => h.exchangeArm
  case force => exact h.signalRow fun _ h => h.hostForce
  case provision => exact h.signalRow fun _ h => h.provision
  case reset => exact h.signalRow fun _ h => h.hostReset
  case holdEntry => exact h.rowWrite
  case holdExit => exact h.rowWrite
  case fwx => exact h.rowWrite
  case domainRequest => exact h.rowWrite
  case domainSwitchDone => exact h.domSwitchDone
  case retentionEntry => exact h.rowWrite
  case wakePin => exact h.wakePin
  case wakeTime => exact h.wakeTime
  case resumeBoot => exact h.resumeBoot
  case pcieLinkChange => exact h.pcieLink
  case ref10PresenceChange => exact h.refPresence
  case debugAccess => exact h.tapOp

/-- Settles O4: a step is a tick or the front command, and each keeps the canonical form. -/
theorem stepKeepsCanonicalForm : Obligations.StepKeepsCanonicalForm := by
  intro s t h e
  unfold step at e
  split at e
  · cases e
    exact Dev.Canon.tick h
  · next c rest _ =>
    obtain ⟨u, hu, hc⟩ := Dev.Canon.exec (i := c) (s := { s with pending := rest }) h
    rw [hu] at e
    cases e
    exact hc

end Sys2Proof.Machine
end

section
/-! O35: what a reset of the device leaves. A reset shows the factory fuses again (R188): it writes the FACT fields of GRM_BANK at the index of every
bank that the table of fuses lists. Canonical form bounds the addresses of neither memory nor fuses, and an index beyond the 256 banks stands at
the offset of another register. -/

namespace Sys2Proof.Machine
set_option Elab.async false

/-- A device with reset registers and empty memory whose table of factory fuses lists bank 65280, beyond the 256 banks, with one spare row
and no spare column in use. A copy of GRM_BANK with that index would stand at 0x90000, where SLM_CFG stands. -/
def fuseBeyondBanks : Dev := { (default : Dev) with sys := { (default : SysSt) with fuses := [(65280, (1, 0))] } }

theorem canonical_fuseBeyondBanks : fuseBeyondBanks.canonical = true := rfl

theorem addr_grmBank_beyond : Reg.GRM_BANK.addr 65280 = Reg.SLM_CFG.addr := rfl

/-- The POR reset shows the spare row in bits 9 to 6 of SLM_CFG and no spare column in bits 11 and 10. -/
theorem slmCfg_after_reset_fuseBeyondBanks : (fuseBeyondBanks.deviceReset .POR 0).reg .SLM_CFG = 0x3F0040 := by decide

/-- What the fields of SLM_CFG hold after a POR by their Kept-by lists: the reset value. -/
theorem slmCfg_resetFieldsBy_por : resetFieldsBy .POR (Reg.SLM_CFG.resetWord 0).toNat Reg.SLM_CFG.info.fields
    (fuseBeyondBanks.reg .SLM_CFG) = 0x3F0800 := by decide

/-- Refutes O35: the statement takes any device in canonical form, and that form says nothing of the table of factory fuses. In
`fuseBeyondBanks` the table lists a bank that does not exist, and showing its fuses after a POR writes SLM_CFG, which then does not
hold its reset value. (With fuses of the 256 banks alone this write stays within GRM_BANK, which the statement leaves out.) -/
theorem not_deviceResetLeaves : ¬ Obligations.DeviceResetLeaves := by
  unfold Obligations.DeviceResetLeaves
  intro h
  obtain ⟨hregs, -⟩ := h fuseBeyondBanks .POR 0 canonical_fuseBeyondBanks (by simp)
  have hslm := hregs .SLM_CFG 0 0 0 (by decide) (by decide) (by decide) (by decide) (by decide)
  rw [slmCfg_after_reset_fuseBeyondBanks, slmCfg_resetFieldsBy_por] at hslm
  exact absurd hslm (by decide)

end Sys2Proof.Machine
end

section
/-! O8: the four rows of a 64-bit register that follows R8 alone. An access whose gate is a page reaches the register that the address decode
gives; the pair's operations then are the plain ones, and the rows are the read or write of an agent whose engine has nothing waiting. -/

namespace Sys2Proof.Machine
set_option Elab.async false

/-! ### The words of a pair -/

/-- The high word of a pair is no low word, names its low word, and belongs to a mailbox as the low word does. -/
theorem Reg.high?_eq_some {r hi : Reg} (h : r.high? = some hi) : hi.high? = none ∧ hi.low? = some r ∧ hi.isNotice = r.isNotice := by
  unfold Reg.high? at h
  split at h <;> cases h <;> exact ⟨rfl, rfl, rfl⟩

/-- A low word whose read or commit does more than R8 says: time unit, lift descriptor, pair and SLM registers. -/
def Reg.pairActs (r : Reg) : Bool :=
  r ∈ [Reg.TMU_EVT_LOW, .TMU_TXTS_LOW, .TMU_TB_LOW, .LFT_DESC_LOW, .TMU_TB_STEP_LOW, .PAR_TRACK_LOW, .PAR_PAIR_MAC_LOW, .SLM_DA_LOW]

theorem Reg.lowWord_of_high? {r hi : Reg} (h : r.high? = some hi) (n : r.isNotice = false) : r.lowWord = true := by
  simp [Reg.lowWord, h, n]

theorem Reg.highWord_of_high? {r hi : Reg} (h : r.high? = some hi) (n : r.isNotice = false) : hi.highWord = true := by
  obtain ⟨-, hlow, hnotice⟩ := Reg.high?_eq_some h
  simp [Reg.highWord, hlow, hnotice, n]

namespace Dev

theorem toNat_word_reg (s : Dev) (r : Reg) (i j k : Nat) : (word (s.reg r i j k)).toNat = s.reg r i j k := by
  rw [word_toNat, Nat.mod_eq_of_lt (s.reg_lt r i j k)]

/-! ### The operations of a pair that follows R8 alone -/

theorem pairLow_plain {r : Reg} (h : r.pairActs = false) (s : Dev) (hi : Reg) (i j mid : Nat) :
    s.pairLow r hi i j mid = (s.reg r i j, s.setLatch (pairKey mid (r.addr i j)) (some (word (s.reg hi i j)))) := by
  unfold Dev.pairLow
  extract_lets k
  split
  case h_4 => rfl
  all_goals cases h

theorem pairHigh_latched {s : Dev} {r : Reg} {i j mid : Nat} {v : Word} (hk : s.hiLatch.get (pairKey mid (r.addr i j)) = some v) (hi : Reg) :
    s.pairHigh hi r i j mid = (v.toNat, s.setLatch (pairKey mid (r.addr i j)) none) := by
  simp only [Dev.pairHigh, hk]

theorem pairHigh_unlatched {s : Dev} {r hi : Reg} {i j mid : Nat} (hr : r.high? = some hi) (h : r.pairActs = false)
    (hk : s.hiLatch.get (pairKey mid (r.addr i j)) = none) : s.pairHigh hi r i j mid = (s.reg hi i j, s) := by
  obtain ⟨-, hlow, -⟩ := Reg.high?_eq_some hr
  simp only [Dev.pairHigh, hk]
  split
  case h_4 => rfl
  all_goals
    obtain rfl := Option.some.inj hlow
    cases h

theorem pairCommit_plain {r : Reg} (h : r.pairActs = false) (s : Dev) (hi : Reg) (vl vh i j mid ctx : Nat) :
    s.pairCommit r hi vl vh i j mid ctx = s.pairPlain (fun _ => false) r hi vl vh i j := by
  unfold Dev.pairCommit
  extract_lets s1
  split
  case h_7 => rfl
  all_goals cases h

theorem pairStage_writable {r : Reg} (h : r.readOnly = false) (s : Dev) (i j mid v : Nat) :
    s.pairStage r i j mid v = s.setStage (pairKey mid (r.addr i j)) (some (word v)) := by
  simp [Dev.pairStage, h]

/-- The low word that a commit takes: the staged one, or the register's. -/
theorem pairWrite_plain {r hi : Reg} (hw : hi.readOnly = false) (h : r.pairActs = false) (s : Dev) (i j mid ctx v : Nat) :
    s.pairWrite hi r i j mid ctx v = (s.setStage (pairKey mid (r.addr i j)) none).pairPlain (fun _ => false) r hi
      (((s.loStage.get (pairKey mid (r.addr i j))).getD (word (s.reg r i j))).toNat) v i j := by
  have htb : r ≠ .TMU_TB_LOW := by rintro rfl; cases h
  simp only [Dev.pairWrite, hw, pairCommit_plain h, htb]
  cases s.loStage.get (pairKey mid (r.addr i j)) with
  | some w => rfl
  | none => rw [Option.getD_none, toNat_word_reg]; rfl

/-! ### The way from an agent to the copy -/

/-- The page that an access reaches is that of the block whose page holds the offset. -/
theorem blockAt_of_regGate_page {s : Dev} {mid off n : Nat} {w : Bool} {b : Block} (h : s.regGate mid off w = .page b n) :
    blockAt off = some (b, n) := by
  unfold Dev.regGate at h
  split at h
  · cases h
  · split at h
    · cases h
    · next b' n' hb =>
      split at h
      · cases h; exact hb
      · cases h

theorem findReg_of_regGate_page {s : Dev} {mid off n : Nat} {w : Bool} {b : Block} (h : s.regGate mid off w = .page b n) :
    findReg b.regs off = regAt off := by
  simp only [regAt, blockAt_of_regGate_page h]

theorem regRead_page {s : Dev} {mid off n i j k : Nat} {b : Block} {r : Reg} (hg : s.regGate mid off false = .page b n)
    (hr : regAt off = some (r, i, j, k)) (ctx : Nat) : s.regRead mid ctx off = s.copyLoad r i j k mid ctx := by
  simp only [Dev.regRead, hg, findReg_of_regGate_page hg, hr]

theorem regWrite_page {s : Dev} {mid off n i j k : Nat} {b : Block} {r : Reg} (hg : s.regGate mid off true = .page b n)
    (hr : regAt off = some (r, i, j, k)) (ctx v : Nat) : s.regWrite mid ctx off v = s.copyStore r i j k mid ctx v := by
  simp only [Dev.regWrite, hg, findReg_of_regGate_page hg, hr]

theorem onReg_of_regAt {off : Nat} {r : Reg} {x : Nat × Nat × Nat} {p : Reg → Bool} (hr : regAt off = some (r, x)) (hp : p r = true)
    (f : Dev → Dev) (s : Dev) : Dev.onReg off p f s = f s := by
  simp only [Dev.onReg, hr, hp, if_true]

theorem agentRead_of_not_rowWaits {s : Dev} {who : Agent} {off : Nat} (h : s.rowWaits who (regBase + off) = false) :
    Dev.agentRead who off s = { ((s.settle who).regRead who.mid who.ctx off).2 with rd := word ((s.settle who).regRead who.mid who.ctx off).1 } := by
  simp [Dev.agentRead, Dev.settled, h]

theorem agentWrite_of_not_rowWaits {s : Dev} {who : Agent} {off : Nat} (h : s.rowWaits who (regBase + off) = false) (v : Nat) :
    Dev.agentWrite who off v s = (s.settle who).regWrite who.mid who.ctx off v := by
  simp [Dev.agentWrite, Dev.settled, h]

/-! ### A word of a pair is loaded and stored by the pair's operations -/

section
variable {r hi : Reg} (hr : r.high? = some hi) (hn : r.isNotice = false)
include hr hn

theorem copyLoad_low (s : Dev) (i j k mid ctx : Nat) : s.copyLoad r i j k mid ctx = s.pairLow r hi i j mid := by
  simp [Dev.copyLoad, hn, hr]

theorem copyLoad_high (s : Dev) (i j k mid ctx : Nat) : s.copyLoad hi i j k mid ctx = s.pairHigh hi r i j mid := by
  obtain ⟨hhigh, hlow, hnotice⟩ := Reg.high?_eq_some hr
  simp [Dev.copyLoad, hnotice, hn, hhigh, hlow]

theorem copyStore_low (s : Dev) (i j k mid ctx v : Nat) : s.copyStore r i j k mid ctx v = s.pairStage r i j mid v := by
  simp [Dev.copyStore, hn, hr]

theorem copyStore_high (s : Dev) (i j k mid ctx v : Nat) : s.copyStore hi i j k mid ctx v = s.pairWrite hi r i j mid ctx v := by
  obtain ⟨hhigh, hlow, hnotice⟩ := Reg.high?_eq_some hr
  simp [Dev.copyStore, hnotice, hn, hhigh, hlow]

end

end Dev

/-! ### The rows -/

theorem exec_reg64LowRead_eq (who : Agent) (off : BitVec 24) (s : State) : exec (.reg64LowRead who off) s =
    .next (s.withDev (Dev.onReg off.toNat Reg.lowWord (Dev.agentRead who off.toNat) s.dev)) := rfl

theorem exec_reg64HighRead_eq (who : Agent) (off : BitVec 24) (s : State) : exec (.reg64HighRead who off) s =
    .next (s.withDev (Dev.onReg off.toNat Reg.highWord (Dev.agentRead who off.toNat) s.dev)) := rfl

theorem exec_reg64LowWrite_eq (who : Agent) (off : BitVec 24) (v : Word) (s : State) : exec (.reg64LowWrite who off v) s =
    .next (s.withDev (Dev.onReg off.toNat Reg.lowWord (Dev.agentWrite who off.toNat v.toNat) s.dev)) := rfl

theorem exec_reg64HighWrite_eq (who : Agent) (off : BitVec 24) (v : Word) (s : State) : exec (.reg64HighWrite who off v) s =
    .next (s.withDev (Dev.onReg off.toNat Reg.highWord (Dev.agentWrite who off.toNat v.toNat) s.dev)) := rfl

/-- Settles O8: the gate and the address decode lead each of the four accesses to the pair's operation on its copy, which for a register that
follows R8 alone is the latch, its release, the stage and the commit by the field rules. -/
theorem wordPairsComplete : Obligations.WordPairsComplete := by
  unfold Obligations.WordPairsComplete
  intro who s r hi i j lowAt highAt v hr hn hacts hlowAt hhighAt hlow hhigh hwlow hwhigh d key reach
  have hplain : r.pairActs = false := decide_eq_false hacts
  have hlowWord := Reg.lowWord_of_high? hr hn
  have hhighWord := Reg.highWord_of_high? hr hn
  refine ⟨fun hg => ?lowRead, fun hg => ?highRead, fun hg hw => ?lowWrite, fun hg hw => ?highWrite⟩
  case lowRead =>
    rw [exec_reg64LowRead_eq, Dev.onReg_of_regAt hlow hlowWord, Dev.agentRead_of_not_rowWaits hwlow, Dev.regRead_page hg hlow,
      Dev.copyLoad_low hr hn, Dev.pairLow_plain hplain]
  case highRead =>
    rw [exec_reg64HighRead_eq, Dev.onReg_of_regAt hhigh hhighWord, Dev.agentRead_of_not_rowWaits hwhigh, Dev.regRead_page hg hhigh,
      Dev.copyLoad_high hr hn]
    cases hk : d.hiLatch.get key with
    | some h => rw [Dev.pairHigh_latched hk, word_of_toNat]
    | none => rw [Dev.pairHigh_unlatched hr hplain hk]
  case lowWrite =>
    rw [exec_reg64LowWrite_eq, Dev.onReg_of_regAt hlow hlowWord, Dev.agentWrite_of_not_rowWaits hwlow, Dev.regWrite_page hg hlow,
      Dev.copyStore_low hr hn, Dev.pairStage_writable hw, word_of_toNat]
  case highWrite =>
    rw [exec_reg64HighWrite_eq, Dev.onReg_of_regAt hhigh hhighWord, Dev.agentWrite_of_not_rowWaits hwhigh, Dev.regWrite_page hg hhigh,
      Dev.copyStore_high hr hn, Dev.pairWrite_plain hw hplain]

end Sys2Proof.Machine
end

section
/-! O6: the field rules of a write (R9 to R13). The fields of a register are fields of a 32-bit word that share no bit. In a list of such fields a
write passes over every other field, so each field ends as its own rule says, and the bits that no field covers stay. -/

namespace Sys2Proof.Machine
set_option Elab.async false

/-! ### Fields of a word -/

/-- The field covers bit `n`. -/
def FieldInfo.Covers (f : FieldInfo) (n : Nat) : Prop := f.lo ≤ n ∧ n ≤ f.hi

/-- The fields share no bit. -/
def FieldInfo.Apart (f g : FieldInfo) : Prop := g.hi < f.lo ∨ f.hi < g.lo

/-- The field is one of a 32-bit word. -/
def FieldInfo.InWord (f : FieldInfo) : Prop := f.lo ≤ f.hi ∧ f.hi < 32

/-- Fields of a 32-bit word, no two of which share a bit. -/
def FieldsFit : List FieldInfo → Prop
  | [] => True
  | f :: t => f.InWord ∧ (∀ g ∈ t, f.Apart g) ∧ FieldsFit t

/-- `FieldsFit` as a program. -/
def fieldsFit : List FieldInfo → Bool
  | [] => true
  | f :: t => (decide (f.lo ≤ f.hi) && decide (f.hi < 32)) && (t.all fun g => decide (g.hi < f.lo) || decide (f.hi < g.lo)) && fieldsFit t

theorem fieldsFit_iff (fs : List FieldInfo) : fieldsFit fs = true ↔ FieldsFit fs := by
  induction fs with
  | nil => simp [fieldsFit, FieldsFit]
  | cons f t ih => simp [fieldsFit, FieldsFit, FieldInfo.InWord, FieldInfo.Apart, ih, and_assoc]

/-- The register tables give every register fields that fit a word. -/
theorem Reg.fieldsFit (r : Reg) : FieldsFit r.info.fields := (fieldsFit_iff _).mp (by cases r <;> rfl)

theorem FieldsFit.inWord {fs : List FieldInfo} (h : FieldsFit fs) : ∀ f ∈ fs, f.InWord := by
  induction fs with
  | nil => simp
  | cons g t ih =>
    obtain ⟨hg, -, ht⟩ := h
    simpa [hg] using ih ht

theorem FieldInfo.Apart.symm {f g : FieldInfo} (h : f.Apart g) : g.Apart f := Or.symm h

/-! ### The bits that a list of fields covers -/

theorem putBits_of_bits_eq_zero {n hi lo : Nat} (h : bits n hi lo = 0) : putBits n hi lo (2 ^ (hi + 1 - lo) - 1) =
    (2 ^ (hi + 1 - lo) - 1) * 2 ^ lo + n := by
  have := Nat.two_pow_pos (hi + 1 - lo)
  rw [putBits, h, Nat.mod_eq_of_lt (by omega)]
  omega

theorem bits_eq_zero_of_testBit {n hi lo : Nat} (h : ∀ i, lo ≤ i → i ≤ hi → n.testBit i = false) : bits n hi lo = 0 := by
  apply Nat.eq_of_testBit_eq
  intro i
  rw [testBit_bits, Nat.zero_testBit]
  by_cases hi' : i < hi + 1 - lo
  · rw [h (lo + i) (by omega) (by omega), Bool.and_false]
  · simp [hi']

theorem testBit_fieldMask {fs : List FieldInfo} (h : FieldsFit fs) (n : Nat) : (fieldMask fs).testBit n = true ↔ ∃ f ∈ fs, f.Covers n := by
  induction fs generalizing n with
  | nil => simp [fieldMask]
  | cons f t ih =>
    obtain ⟨⟨hlo, -⟩, hapart, ht⟩ := h
    have free : bits (fieldMask t) f.hi f.lo = 0 := by
      refine bits_eq_zero_of_testBit fun i h1 h2 => ?_
      rw [Bool.eq_false_iff, Ne, ih ht]
      rintro ⟨g, hg, hc1, hc2⟩
      rcases hapart g hg with ha | ha <;> omega
    have put : fieldMask (f :: t) = putBits (fieldMask t) f.hi f.lo (2 ^ (f.hi + 1 - f.lo) - 1) := (putBits_of_bits_eq_zero free).symm
    rw [put, testBit_putBits hlo]
    by_cases hc : f.lo ≤ n ∧ n ≤ f.hi
    · rw [if_pos hc, Nat.testBit_two_pow_sub_one]
      simp only [List.mem_cons, exists_eq_or_imp, decide_eq_true_eq]
      exact ⟨fun _ => .inl hc, fun _ => by omega⟩
    · rw [if_neg hc, ih ht]
      simp [FieldInfo.Covers, hc]

theorem fieldMask_lt {fs : List FieldInfo} (h : FieldsFit fs) : fieldMask fs < 2 ^ 32 := by
  refine Nat.lt_pow_two_of_testBit _ fun i hi => ?_
  rw [Bool.eq_false_iff, Ne, testBit_fieldMask h]
  rintro ⟨f, hf, -, hc⟩
  have := (h.inWord f hf).2
  omega

/-- A value has bits outside the fields exactly where one of its bits of the word is covered by none. -/
theorem stray_ne_zero_iff {fs : List FieldInfo} (h : FieldsFit fs) (v : Nat) :
    (v &&& (2 ^ 32 - 1 - fieldMask fs)) ≠ 0 ↔ ∃ n, n < 32 ∧ (∀ f ∈ fs, ¬f.Covers n) ∧ bit v n = true := by
  have tb (n : Nat) : (v &&& (2 ^ 32 - 1 - fieldMask fs)).testBit n = true ↔ n < 32 ∧ (∀ f ∈ fs, ¬f.Covers n) ∧ bit v n = true := by
    have e : 2 ^ 32 - 1 - fieldMask fs = 2 ^ 32 - (fieldMask fs + 1) := by omega
    rw [Nat.testBit_and, e, Nat.testBit_two_pow_sub_succ (fieldMask_lt h), bit_eq_testBit]
    have := not_congr (testBit_fieldMask h n)
    simp only [Bool.and_eq_true, Bool.not_eq_true', decide_eq_true_eq, ← Bool.not_eq_true, this, not_exists, not_and]
    tauto
  constructor
  · intro hne
    obtain ⟨n, hn⟩ := Nat.exists_testBit_of_ne_zero hne
    exact ⟨n, (tb n).mp hn⟩
  · rintro ⟨n, hn⟩ h0
    have := (tb n).mpr hn
    rw [h0, Nat.zero_testBit] at this
    cases this

/-! ### The effect of a write on one field -/

/-- The new value of a field by its access rule, where its chapter refuses nothing (R9, R11, R13). -/
def FieldInfo.after (f : FieldInfo) (old new : Nat) : Nat :=
  match f.acc with
  | .rw => if f.legal.ok new then new else old
  | .ro => old
  | .wo => 0
  | .w1s => old ||| new
  | .w1c => old &&& (2 ^ (f.hi + 1 - f.lo) - 1 - new)
  | .cnt => if new = 0 then 0 else old

/-- The write of a field that its access rule refuses: an illegal value, or a counter set to another value than 0 (R11, R13). -/
def FieldInfo.Refuses (f : FieldInfo) (new : Nat) : Prop :=
  (f.acc = .rw ∨ f.acc = .wo) ∧ f.legal.ok new = false ∨ f.acc = .cnt ∧ new ≠ 0

theorem FieldInfo.write_fst (f : FieldInfo) (old new : Nat) : (f.write old new false).1 = f.after old new := by
  unfold FieldInfo.write FieldInfo.after
  cases f.acc with
  | rw | cnt => dsimp only; split <;> simp_all
  | ro | wo | w1s | w1c => simp

theorem FieldInfo.write_snd (f : FieldInfo) (old new : Nat) : (f.write old new false).2 = true ↔ f.Refuses new := by
  unfold FieldInfo.write FieldInfo.Refuses
  cases f.acc with
  | rw | cnt => dsimp only; split <;> simp_all
  | ro | wo | w1s | w1c => simp

theorem FieldInfo.after_lt {f : FieldInfo} {old new : Nat} (ho : old < 2 ^ (f.hi + 1 - f.lo)) (hn : new < 2 ^ (f.hi + 1 - f.lo)) :
    f.after old new < 2 ^ (f.hi + 1 - f.lo) := by
  unfold FieldInfo.after
  cases f.acc with
  | rw | cnt => dsimp only; split <;> omega
  | ro => exact ho
  | wo => exact Nat.two_pow_pos _
  | w1s => exact Nat.or_lt_two_pow ho hn
  | w1c => exact Nat.lt_of_le_of_lt Nat.and_le_left ho

/-! ### The effect of a write on the fields of a word -/

/-- The word in which a field has taken what a write of `v` leaves of it. -/
def FieldInfo.put (f : FieldInfo) (v w : Nat) : Nat := putBits w f.hi f.lo (f.after (bits w f.hi f.lo) (bits v f.hi f.lo))

theorem writeFields_cons (f : FieldInfo) (t : List FieldInfo) (v w : Nat) : writeFields (fun _ => false) v (f :: t) w =
    ((writeFields (fun _ => false) v t (f.put v w)).1,
      (f.write (bits w f.hi f.lo) (bits v f.hi f.lo) false).2 || (writeFields (fun _ => false) v t (f.put v w)).2) := by
  simp only [writeFields, FieldInfo.put, FieldInfo.write_fst]

theorem FieldInfo.InWord.bits_put {f : FieldInfo} (h : f.InWord) (v w : Nat) :
    bits (f.put v w) f.hi f.lo = f.after (bits w f.hi f.lo) (bits v f.hi f.lo) := by
  rw [FieldInfo.put, bits_putBits h.1, Nat.mod_eq_of_lt (FieldInfo.after_lt (bits_lt ..) (bits_lt ..))]

theorem FieldInfo.InWord.bits_put_apart {f g : FieldInfo} (h : f.InWord) (a : f.Apart g) (v w : Nat) :
    bits (f.put v w) g.hi g.lo = bits w g.hi g.lo := bits_putBits_other h.1 a w _

theorem FieldInfo.InWord.bit_put {f : FieldInfo} (h : f.InWord) {n : Nat} (c : ¬f.Covers n) (v w : Nat) : bit (f.put v w) n = bit w n := by
  rw [bit_eq_testBit, bit_eq_testBit, FieldInfo.put, testBit_putBits h.1]
  exact if_neg c

theorem bits_writeFields_apart {fs : List FieldInfo} (h : FieldsFit fs) {g : FieldInfo} (a : ∀ f ∈ fs, f.Apart g) (v w : Nat) :
    bits (writeFields (fun _ => false) v fs w).1 g.hi g.lo = bits w g.hi g.lo := by
  induction fs generalizing w with
  | nil => rfl
  | cons f t ih =>
    obtain ⟨hf, -, ht⟩ := h
    rw [writeFields_cons, ih ht fun x hx => a x (List.mem_cons_of_mem f hx), hf.bits_put_apart (a f List.mem_cons_self)]

/-- Every field ends as its own access rule says. -/
theorem bits_writeFields {fs : List FieldInfo} (h : FieldsFit fs) {g : FieldInfo} (hg : g ∈ fs) (v w : Nat) :
    bits (writeFields (fun _ => false) v fs w).1 g.hi g.lo = g.after (bits w g.hi g.lo) (bits v g.hi g.lo) := by
  induction fs generalizing w with
  | nil => cases hg
  | cons f t ih =>
    obtain ⟨hf, ha, ht⟩ := h
    rw [writeFields_cons]
    rcases List.mem_cons.mp hg with rfl | hgt
    · rw [bits_writeFields_apart ht fun x hx => (ha x hx).symm, hf.bits_put]
    · rw [ih ht hgt, hf.bits_put_apart (ha g hgt)]

theorem bit_writeFields_reserved {fs : List FieldInfo} (h : FieldsFit fs) {n : Nat} (c : ∀ f ∈ fs, ¬f.Covers n) (v w : Nat) :
    bit (writeFields (fun _ => false) v fs w).1 n = bit w n := by
  induction fs generalizing w with
  | nil => rfl
  | cons f t ih =>
    obtain ⟨hf, -, ht⟩ := h
    rw [writeFields_cons, ih ht fun x hx => c x (List.mem_cons_of_mem f hx), hf.bit_put (c f List.mem_cons_self)]

/-- A write reports exactly where a field refuses its part of the value. -/
theorem writeFields_snd (fs : List FieldInfo) (v w : Nat) :
    (writeFields (fun _ => false) v fs w).2 = true ↔ ∃ f ∈ fs, f.Refuses (bits v f.hi f.lo) := by
  induction fs generalizing w with
  | nil => simp [writeFields]
  | cons f t ih => simp [writeFields_cons, FieldInfo.write_snd, ih]

/-! ### The effect of a write on a word -/

theorem writeWord_readOnly {fs : List FieldInfo} (h : ∀ f ∈ fs, f.acc = .ro) (ill : FieldInfo → Bool) (w v : Nat) :
    writeWord fs ill w v = (w, true) := by
  rw [writeWord, if_pos (by simpa using h)]

theorem writeWord_writable {fs : List FieldInfo} (h : ¬∀ f ∈ fs, f.acc = .ro) (ill : FieldInfo → Bool) (w v : Nat) :
    writeWord fs ill w v = ((writeFields ill v fs w).1, (writeFields ill v fs w).2 || (v &&& (2 ^ 32 - 1 - fieldMask fs)) != 0) := by
  rw [writeWord, if_neg (by simpa using h)]

theorem FieldInfo.not_covers_iff (f : FieldInfo) (n : Nat) : ¬f.Covers n ↔ n < f.lo ∨ f.hi < n := by
  unfold FieldInfo.Covers
  omega

/-- Settles O6, by induction on the fields of the word, which share no bit in any register of the tables. -/
theorem writesFollowFieldRules : Obligations.WritesFollowFieldRules := by
  unfold Obligations.WritesFollowFieldRules
  intro r w v _ _ fs q bad reserved
  have hfit : FieldsFit fs := r.fieldsFit
  have hreserved (n : Nat) : reserved n ↔ ∀ f ∈ fs, ¬f.Covers n := by simp only [reserved, FieldInfo.not_covers_iff]
  split
  · next hro => exact writeWord_readOnly hro _ w v
  · next hrw =>
    have hq : q = _ := writeWord_writable hrw (fun _ => false) w v
    refine ⟨fun f hf => ?_, fun n _ hn => ?_, ?_⟩
    · rw [hq]
      exact bits_writeFields hfit hf v w
    · rw [hq]
      exact bit_writeFields_reserved hfit ((hreserved n).mp hn) v w
    · rw [hq, Bool.or_eq_true, writeFields_snd, bne_iff_ne, stray_ne_zero_iff hfit]
      simp only [hreserved]
      rfl

end Sys2Proof.Machine
end

section
/-! O9: an engine reaches neither the Vault's page, nor Patrol SRAM, nor the local memory of another rink (R36, R37, R76). The rights refuse each
such access before anything else is looked at, so it comes to no more than its count. -/

namespace Sys2Proof.Machine

/-! ### Rights of an engine -/

section
variable {mid : Nat} (hmid : mid < 0x40)
include hmid

theorem midRink_engine : midRink mid = some (mid / 8) := if_pos hmid

theorem mayReach_sram_engine : mayReach mid .sram = false := by
  simp only [mayReach, beq_eq_false_iff_ne]
  omega

theorem mayReach_local_engine {k off : Nat} (hk : k ≠ mid / 8) : mayReach mid (.local k off) = false := by
  have hrink : (midRink mid == some k) = false := by simpa [midRink_engine hmid] using hk.symm
  have hlift : ¬0x68 ≤ mid := by omega
  have hpatrol : mid ≠ 0x40 := by omega
  simp [mayReach, hrink, hlift, hpatrol]

theorem Dev.regMay_vault_engine (d : Dev) {off : Nat} (hoff : off / 0x10000 = 2) (write : Bool) : d.regMay mid off write = false := by
  simp [Dev.regMay, hmid, hoff]

end

/-! ### What a refused access comes to (R37) -/

namespace Dev
variable {d : Dev} {mid off : Nat}

theorem regGate_of_not_regMay {write : Bool} (h : d.regMay mid off write = false) : d.regGate mid off write = .denied := by
  simp [Dev.regGate, h]

theorem regWrite_denied (h : d.regGate mid off true = .denied) (ctx v : Nat) : d.regWrite mid ctx off v = d.count .SYS_DENY_CNT := by
  simp only [Dev.regWrite, h, Dev.gateCount]

theorem regRead_denied (h : d.regGate mid off false = .denied) (ctx : Nat) : d.regRead mid ctx off = (0, d.count .SYS_DENY_CNT) := by
  simp only [Dev.regRead, h, Dev.gateCount]

variable {a : Nat} (hmap : rangeOf a ≠ .unmapped) (hmay : mayReach mid (rangeOf a) = false)
include hmap hmay

theorem physWrite_denied (l : List Byte) : d.physWrite mid a l = d.count .SYS_DENY_CNT := by
  simp [Dev.physWrite, hmap, hmay]

theorem physRead_denied (n : Nat) : d.physRead mid a n = (⟨leBytes n 0, false⟩, d.count .SYS_DENY_CNT) := by
  simp [Dev.physRead, hmap, hmay]

end Dev

/-- Settles O9: the rights of R36 refuse the access whatever the grants, and a refused access counts in SYS_DENY_CNT alone. -/
theorem enginesReachNoVault : Obligations.EnginesReachNoVault := by
  unfold Obligations.EnginesReachNoVault
  constructor
  · intro mid ctx off v d hmid hoff
    have hgate (write : Bool) : d.regGate mid off write = .denied := Dev.regGate_of_not_regMay (d.regMay_vault_engine hmid hoff write)
    exact ⟨Dev.regWrite_denied (hgate true) ctx v, Dev.regRead_denied (hgate false) ctx⟩
  · intro mid a n l d hmid hrange
    have hdenied : rangeOf a ≠ .unmapped ∧ mayReach mid (rangeOf a) = false := by
      rcases hrange with hsram | ⟨k, off, hlocal, hk⟩
      · simp [hsram, mayReach_sram_engine hmid]
      · simp [hlocal, mayReach_local_engine hmid hk]
    obtain ⟨hmap, hmay⟩ := hdenied
    exact ⟨Dev.physWrite_denied hmap hmay l, Dev.physRead_denied hmap hmay n⟩

end Sys2Proof.Machine
end

section
/-! O5: the decode of register addresses (R21). The copies of a register stand on a grid: an offset and nested strides, each reaching past
all of the strides below it, so that division recovers the indices. Two grids share no address where one ends before the other begins, or
where both have the same first stride and their grids within it share none; the register tables pass this test for every two registers of
a block, and every register's grid lies in the pages of its block. -/

namespace Sys2Proof.Machine

/-! ### Grids of copies -/

/-- The distance of the last copy from the first. -/
def strideSpan : List (Nat × Nat) → Nat
  | [] => 0
  | (st, c) :: t => st * (c - 1) + strideSpan t

/-- The distance of the copy with the given indices from the first. -/
def strideDist (l : List (Nat × Nat)) (xs : List Nat) : Nat := ((l.zip xs).map fun (p, x) => p.1 * x).sum

/-- Every stride reaches past all the copies that the strides after it give. -/
def stridesNest : List (Nat × Nat) → Bool
  | [] => true
  | (st, _) :: t => decide (strideSpan t < st) && stridesNest t

/-- Each stride has an index below its count. -/
def InCounts : List (Nat × Nat) → List Nat → Prop
  | [], _ => True
  | _ :: _, [] => False
  | (_, c) :: t, x :: xs => x < c ∧ InCounts t xs

theorem strideDist_cons (st c x : Nat) (t : List (Nat × Nat)) (xs : List Nat) :
    strideDist ((st, c) :: t) (x :: xs) = st * x + strideDist t xs := by
  simp [strideDist]

theorem stridesNest_cons (st c : Nat) (t : List (Nat × Nat)) :
    stridesNest ((st, c) :: t) = true ↔ strideSpan t < st ∧ stridesNest t = true := by
  simp [stridesNest]

theorem splitIdx_cons_eq_some {st c d : Nat} {t : List (Nat × Nat)} {ys : List Nat} :
    splitIdx ((st, c) :: t) d = some ys ↔ d / st < c ∧ ∃ zs, splitIdx t (d % st) = some zs ∧ ys = d / st :: zs := by
  by_cases hc : d / st < c
  · cases hz : splitIdx t (d % st) <;> simp [splitIdx, hc, hz, eq_comm]
  · simp [splitIdx, hc]

theorem strideDist_le_span {l : List (Nat × Nat)} {xs : List Nat} (h : InCounts l xs) : strideDist l xs ≤ strideSpan l := by
  induction l generalizing xs with
  | nil => simp [strideDist]
  | cons p t ih =>
    obtain ⟨st, c⟩ := p
    cases xs with
    | nil => exact h.elim
    | cons x xs =>
      obtain ⟨hx, ht⟩ := h
      have hhead : st * x ≤ st * (c - 1) := Nat.mul_le_mul_left st (by omega)
      have htail := ih ht
      rw [strideDist_cons, strideSpan]
      omega

/-- The indices come back from the distance, since what the later strides add stays below each stride. -/
theorem splitIdx_strideDist {l : List (Nat × Nat)} {xs : List Nat} (hl : stridesNest l = true) (h : InCounts l xs) :
    splitIdx l (strideDist l xs) = some (xs.take l.length) := by
  induction l generalizing xs with
  | nil => simp [splitIdx, strideDist]
  | cons p t ih =>
    obtain ⟨st, c⟩ := p
    cases xs with
    | nil => exact h.elim
    | cons x xs =>
      obtain ⟨hx, ht⟩ := h
      obtain ⟨hst, hnest⟩ := (stridesNest_cons ..).mp hl
      have hlt : strideDist t xs < st := Nat.lt_of_le_of_lt (strideDist_le_span ht) hst
      have hdiv : (st * x + strideDist t xs) / st = x := by
        rw [Nat.mul_add_div (by omega), Nat.div_eq_of_lt hlt, Nat.add_zero]
      have hmod : (st * x + strideDist t xs) % st = strideDist t xs := by rw [Nat.mul_add_mod, Nat.mod_eq_of_lt hlt]
      rw [strideDist_cons, splitIdx_cons_eq_some, hdiv, hmod]
      exact ⟨hx, _, ih hnest ht, rfl⟩

theorem le_span_of_splitIdx {l : List (Nat × Nat)} {d : Nat} {ys : List Nat} (h : splitIdx l d = some ys) : d ≤ strideSpan l := by
  induction l generalizing d ys with
  | nil =>
    by_cases hd : d = 0
    · simp [hd]
    · simp [splitIdx, hd] at h
  | cons p t ih =>
    obtain ⟨st, c⟩ := p
    obtain ⟨hc, zs, hz, -⟩ := splitIdx_cons_eq_some.mp h
    have hhead : st * (d / st) ≤ st * (c - 1) := Nat.mul_le_mul_left st (by omega)
    have htail := ih hz
    have hsplit := Nat.div_add_mod d st
    rw [strideSpan]
    omega

/-! ### Grids that share no address -/

/-- The address `a` is that of a copy on the grid which begins at `o`. -/
def OnGrid (o : Nat) (l : List (Nat × Nat)) (a : Nat) : Prop := o ≤ a ∧ ∃ ys, splitIdx l (a - o) = some ys

/-- One grid ends before the other begins. -/
def spansApart (o : Nat) (l : List (Nat × Nat)) (o' : Nat) (l' : List (Nat × Nat)) : Bool :=
  decide (o + strideSpan l < o') || decide (o' + strideSpan l' < o)

/-- A test that two grids share no address: their spans are apart, or they have the same first stride, neither wraps round it, and their
remainders by it are apart. -/
def gridsApart : Nat → List (Nat × Nat) → Nat → List (Nat × Nat) → Bool
  | o, (st, c) :: t, o', (st', c') :: t' =>
    spansApart o ((st, c) :: t) o' ((st', c') :: t') ||
      (st == st' && decide (o % st + strideSpan t < st) && decide (o' % st + strideSpan t' < st) && gridsApart (o % st) t (o' % st) t')
  | o, l, o', l' => spansApart o l o' l'

theorem OnGrid.le_span {o a : Nat} {l : List (Nat × Nat)} (h : OnGrid o l a) : a ≤ o + strideSpan l := by
  obtain ⟨ho, ys, hys⟩ := h
  have := le_span_of_splitIdx hys
  omega

theorem OnGrid.mod {o a st c : Nat} {t : List (Nat × Nat)} (h : OnGrid o ((st, c) :: t) a) (hst : o % st + strideSpan t < st) :
    OnGrid (o % st) t (a % st) := by
  obtain ⟨ho, ys, hys⟩ := h
  obtain ⟨-, zs, hzs, -⟩ := splitIdx_cons_eq_some.mp hys
  have hle := le_span_of_splitIdx hzs
  have hmod : a % st = o % st + (a - o) % st := by
    rw [← Nat.mod_eq_of_lt (show o % st + (a - o) % st < st by omega), ← Nat.add_mod, Nat.add_sub_cancel' ho]
  exact ⟨by omega, zs, by rwa [hmod, Nat.add_sub_cancel_left]⟩

theorem OnGrid.not_spansApart {o o' a : Nat} {l l' : List (Nat × Nat)} (h : OnGrid o l a) (h' : OnGrid o' l' a) :
    spansApart o l o' l' = false := by
  have hle := h.le_span
  have hle' := h'.le_span
  have hge := h.1
  have hge' := h'.1
  simp only [spansApart, Bool.or_eq_false_iff, decide_eq_false_iff_not]
  omega

theorem OnGrid.not_gridsApart {o o' a : Nat} {l l' : List (Nat × Nat)} (h : OnGrid o l a) (h' : OnGrid o' l' a) :
    gridsApart o l o' l' = false := by
  induction l generalizing o o' a l' with
  | nil => simpa [gridsApart] using h.not_spansApart h'
  | cons p t ih =>
    cases l' with
    | nil => simpa [gridsApart] using h.not_spansApart h'
    | cons p' t' =>
      rw [Bool.eq_false_iff]
      intro hapart
      simp only [gridsApart, h.not_spansApart h', Bool.false_or, Bool.and_eq_true, beq_iff_eq, decide_eq_true_eq] at hapart
      obtain ⟨⟨⟨hst, hwrap⟩, hwrap'⟩, hrest⟩ := hapart
      obtain ⟨st, c⟩ := p
      obtain ⟨st', c'⟩ := p'
      obtain rfl : st = st' := hst
      rw [ih (h.mod hwrap) (h'.mod hwrap')] at hrest
      cases hrest

/-! ### The copies of a register -/

/-- The row of the register gives a copy these indices. -/
def Reg.HasCopy (r : Reg) (i j k : Nat) : Prop :=
  let n := r.info.strides.map Prod.snd
  i < n.getD 0 1 ∧ j < n.getD 1 1 ∧ k < n.getD 2 1

theorem Reg.addr_eq (r : Reg) (i j k : Nat) : r.addr i j k = r.info.off + strideDist r.info.strides [i, j, k] := rfl

theorem Reg.copyAt_eq_some {r : Reg} {a i j k : Nat} : r.copyAt a = some (i, j, k) ↔
    r.info.off ≤ a ∧ ∃ ys, splitIdx r.info.strides (a - r.info.off) = some ys ∧ ys.getD 0 0 = i ∧ ys.getD 1 0 = j ∧ ys.getD 2 0 = k := by
  by_cases ha : a < r.info.off
  · simp [Reg.copyAt, ha]
  · have hle : r.info.off ≤ a := Nat.le_of_not_lt ha
    cases hys : splitIdx r.info.strides (a - r.info.off) <;> simp [Reg.copyAt, ha, hle, hys]

theorem Reg.onGrid_of_copyAt {r : Reg} {a : Nat} {x : Nat × Nat × Nat} (h : r.copyAt a = some x) :
    OnGrid r.info.off r.info.strides a := by
  obtain ⟨ho, ys, hys, -⟩ := Reg.copyAt_eq_some.mp h
  exact ⟨ho, ys, hys⟩

/-- Every register is one of its block's list. -/
theorem Reg.mem_regs (r : Reg) : r ∈ r.info.blk.regs := by
  have h : r.info.blk.regs.contains r = true := by cases r <;> rfl
  simpa using h

/-- What holds of every register of every block's list holds of every register. -/
theorem Reg.of_regs {p : Reg → Prop} (h : ∀ b : Block, ∀ r ∈ b.regs, p r) (r : Reg) : p r := h _ r r.mem_regs

theorem Reg.length_strides_le : ∀ r : Reg, r.info.strides.length ≤ 3 := Reg.of_regs fun b => by cases b <;> decide +kernel

theorem Reg.strides_nest : ∀ r : Reg, stridesNest r.info.strides = true := Reg.of_regs fun b => by cases b <;> decide +kernel

/-- A copy has an index for every stride, and 0 where its row has no stride. -/
theorem Reg.HasCopy.inCounts {r : Reg} {i j k : Nat} (h : r.HasCopy i j k) : InCounts r.info.strides [i, j, k] ∧
    let xs := [i, j, k].take r.info.strides.length
    xs.getD 0 0 = i ∧ xs.getD 1 0 = j ∧ xs.getD 2 0 = k := by
  have hlen := r.length_strides_le
  unfold Reg.HasCopy at h
  match hs : r.info.strides with
  | [] | [_] | [_, _] | [_, _, _] => simp_all [InCounts]
  | _ :: _ :: _ :: _ :: _ =>
    simp only [hs, List.length_cons] at hlen
    omega

theorem Reg.HasCopy.copyAt_addr {r : Reg} {i j k : Nat} (h : r.HasCopy i j k) : r.copyAt (r.addr i j k) = some (i, j, k) := by
  obtain ⟨hcounts, hget⟩ := h.inCounts
  rw [Reg.copyAt_eq_some, Reg.addr_eq, Nat.add_sub_cancel_left, splitIdx_strideDist r.strides_nest hcounts]
  exact ⟨Nat.le_add_right .., _, rfl, hget⟩

/-! ### No two registers of a block share an address -/

/-- No address is that of a copy of both registers. -/
def Reg.Apart (r r' : Reg) : Prop := ∀ a, r.copyAt a = none ∨ r'.copyAt a = none

theorem Reg.apart_of_gridsApart {r r' : Reg} (h : gridsApart r.info.off r.info.strides r'.info.off r'.info.strides = true) : r.Apart r' := by
  intro a
  cases hr : r.copyAt a with
  | none => exact .inl rfl
  | some x =>
    cases hr' : r'.copyAt a with
    | none => exact .inr rfl
    | some x' => simp [(Reg.onGrid_of_copyAt hr).not_gridsApart (Reg.onGrid_of_copyAt hr')] at h

/-- The register tables pass the test for every two registers of a block. -/
theorem Block.regs_pairwise_gridsApart (b : Block) :
    (b.regs.map Reg.info).Pairwise fun x y => gridsApart x.off x.strides y.off y.strides = true := by
  cases b <;> decide +kernel

theorem Block.regs_pairwise_apart (b : Block) : b.regs.Pairwise Reg.Apart :=
  (List.pairwise_map.mp b.regs_pairwise_gridsApart).imp Reg.apart_of_gridsApart

theorem Block.regs_apart {b : Block} {r r' : Reg} (hr : r ∈ b.regs) (hr' : r' ∈ b.regs) (hne : r ≠ r') : r.Apart r' :=
  have : Std.Symm Reg.Apart := ⟨fun _ _ h a => (h a).symm⟩
  b.regs_pairwise_apart.forall hr hr' hne

/-- A search of a list finds the register whose copy is at the address, where no other of the list has one there. -/
theorem findReg_of_copyAt {l : List Reg} {r : Reg} {a i j k : Nat} (hr : r ∈ l) (hcopy : r.copyAt a = some (i, j, k))
    (hpresent : r.present i j = true) (hothers : ∀ r' ∈ l, r' ≠ r → r'.copyAt a = none) : findReg l a = some (r, i, j, k) := by
  induction l with
  | nil => cases hr
  | cons r' t ih =>
    by_cases h : r' = r
    · subst h
      simp [findReg, hcopy, hpresent]
    · have hskip : r'.copyAt a = none := hothers r' List.mem_cons_self h
      have hrt : r ∈ t := (List.mem_cons.mp hr).resolve_left (Ne.symm h)
      have hfound := ih hrt fun x hx => hothers x (List.mem_cons_of_mem r' hx)
      simp [findReg, hskip, hfound]

theorem Reg.HasCopy.findReg_addr {r : Reg} {i j k : Nat} (h : r.HasCopy i j k) (hpresent : r.present i j = true) :
    findReg r.info.blk.regs (r.addr i j k) = some (r, i, j, k) := by
  refine findReg_of_copyAt r.mem_regs h.copyAt_addr hpresent fun r' hr' hne => ?_
  have hapart := Block.regs_apart hr' r.mem_regs hne (r.addr i j k)
  simpa [h.copyAt_addr] using hapart

/-! ### The pages of a block (R21) -/

/-- The first page of a block in register space. -/
def Block.firstPage : Block → Nat
  | .SYS => 0
  | .PWR => 1
  | .VLT => 2
  | .BOOT => 3
  | .SMF => 4
  | .GRM => 5
  | .LFT => 6
  | .MBX => 7
  | .TMU => 8
  | .SLM => 9
  | .PAR => 0xA
  | .CTL => 0xB
  | .PAT => 0xC
  | .HST => 0xD
  | .RNK => 0x10
  | .SWC => 0x20
  | .MAC => 0x30
  | .SDS => 0x50
  | .TPHY => 0x60
  | .CAN => 0x70
  | .BLD => 0x80
  | .PIN => 0x90

/-- The number of a block's pages. -/
def Block.pageCount : Block → Nat
  | .RNK | .TPHY | .CAN | .BLD => 8
  | .SWC => 16
  | .MAC => 28
  | .SDS => 10
  | _ => 1

theorem blockAt_page (a : Nat) : blockAt (a / 0x10000 * 0x10000) = blockAt a := by
  simp only [blockAt, Nat.mul_div_cancel _ (show 0 < 0x10000 by decide)]

/-- Page `q` of a block is found as the block's, under the number that an access to copy `q` reaches. -/
theorem blockAt_of_page {b : Block} {a q : Nat} (ha : a / 0x10000 = b.firstPage + q) (hq : q < b.pageCount) :
    blockAt a = some (b, b.pageOf q) := by
  have hpages : ∀ q < b.pageCount, blockAt ((b.firstPage + q) * 0x10000) = some (b, b.pageOf q) := by cases b <;> decide
  rw [← blockAt_page, ha, hpages q hq]

/-- The block has several pages with a number each, that of the first index. -/
abbrev Block.NumbersPages (b : Block) : Prop := b.pageOf 1 = 1

theorem Block.pageOf_eq (b : Block) (i : Nat) : b.pageOf i = if b.NumbersPages then i else 0 := by cases b <;> rfl

theorem Reg.firstPage_le : ∀ r : Reg, r.info.blk.firstPage * 0x10000 ≤ r.info.off :=
  Reg.of_regs fun b => by cases b <;> decide +kernel

/-- In a block with numbered pages the first stride of each row leads from page to page, and the rest of the row stays in a page. -/
theorem Reg.numbered_inPages : ∀ r : Reg, r.info.blk.NumbersPages → r.info.strides.head? = some (0x10000, r.info.blk.pageCount) ∧
    r.info.off + strideSpan r.info.strides.tail < (r.info.blk.firstPage + 1) * 0x10000 :=
  Reg.of_regs fun b => by cases b <;> decide +kernel

/-- In any other block the whole row stays in the block's pages. -/
theorem Reg.unnumbered_inPages : ∀ r : Reg, ¬r.info.blk.NumbersPages →
    r.info.off + strideSpan r.info.strides < (r.info.blk.firstPage + r.info.blk.pageCount) * 0x10000 :=
  Reg.of_regs fun b => by cases b <;> decide +kernel

theorem Reg.HasCopy.blockAt_addr {r : Reg} {i j k : Nat} (h : r.HasCopy i j k) :
    blockAt (r.addr i j k) = some (r.info.blk, r.info.blk.pageOf i) := by
  obtain ⟨hcounts, -⟩ := h.inCounts
  have hfirst := r.firstPage_le
  by_cases hnum : r.info.blk.NumbersPages
  · obtain ⟨hhead, hspan⟩ := r.numbered_inPages hnum
    obtain ⟨t, hs⟩ := List.head?_eq_some_iff.mp hhead
    rw [hs, List.tail_cons] at hspan
    rw [hs] at hcounts
    obtain ⟨hi, ht⟩ := hcounts
    have hrest := strideDist_le_span ht
    have haddr : r.addr i j k = r.info.off + (0x10000 * i + strideDist t [j, k]) := by rw [Reg.addr_eq, hs, strideDist_cons]
    exact blockAt_of_page (by omega) hi
  · have hspan := r.unnumbered_inPages hnum
    have hdist := strideDist_le_span hcounts
    have haddr := r.addr_eq i j k
    have hpage : r.addr i j k / 0x10000 = r.info.blk.firstPage + (r.addr i j k / 0x10000 - r.info.blk.firstPage) := by omega
    have hzero (n : Nat) : r.info.blk.pageOf n = 0 := (r.info.blk.pageOf_eq n).trans (if_neg hnum)
    rw [blockAt_of_page hpage (by omega), hzero, hzero]

/-! ### Alignment -/

theorem strideDist_dvd {m : Nat} {l : List (Nat × Nat)} (h : ∀ p ∈ l, m ∣ p.1) (xs : List Nat) : m ∣ strideDist l xs := by
  refine List.dvd_sum fun y hy => ?_
  obtain ⟨⟨p, x⟩, hp, rfl⟩ := List.mem_map.mp hy
  exact (h p (List.of_mem_zip hp).1).mul_right x

theorem Reg.off_aligned : ∀ r : Reg, 4 ∣ r.info.off := Reg.of_regs fun b => by cases b <;> decide +kernel

theorem Reg.strides_aligned : ∀ r : Reg, ∀ p ∈ r.info.strides, 4 ∣ p.1 := Reg.of_regs fun b => by cases b <;> decide +kernel

theorem Reg.addr_aligned (r : Reg) (i j k : Nat) : r.addr i j k % 4 = 0 :=
  Nat.mod_eq_zero_of_dvd (Nat.dvd_add r.off_aligned (strideDist_dvd r.strides_aligned _))

/-- Register space ends after page 0xFF, and no block has pages beyond PIN's. -/
theorem lt_of_blockAt_eq_some {a : Nat} {x : Block × Nat} (h : blockAt a = some x) : a < 0x1000000 := by
  by_contra hge
  have hp : 0x100 ≤ a / 0x10000 := by omega
  have hnone : blockAt a = none := by simp (disch := omega) only [blockAt, if_neg]
  simp [hnone] at h

/-- Settles O5: a copy's address lies in a page of its block, where the search of the block's registers passes over every other register,
since no two of them share an address, and division by the strides recovers the indices. -/
theorem registerAddressesDecode : Obligations.RegisterAddressesDecode := by
  unfold Obligations.RegisterAddressesDecode
  intro r i j k n hi hj hk hpresent
  have hcopy : r.HasCopy i j k := ⟨hi, hj, hk⟩
  have hblock := hcopy.blockAt_addr
  refine ⟨?_, hblock, r.addr_aligned i j k, lt_of_blockAt_eq_some hblock⟩
  simp only [regAt, hblock, hcopy.findReg_addr hpresent]

end Sys2Proof.Machine
end

section
/-! O38: the records of a register sequence (R59 to R61, R109). Each record goes one way: a denied access is only counted, and every other record
at the front is applied; a row of another opcode leaves it alone. -/

namespace Sys2Proof.Machine

/-! ### The record at the front -/

namespace Dev
variable {s : Dev} {who : Option Nat} {r : RegRec} (hhead : s.seqHead who = some r) {op : Nat} (hop : r.op = op)
include hhead hop

theorem seqApply_applied (h : 3 < op ∨ r.denied = false) (f : RegRec → Dev → Dev) : s.seqApply who op f = f r (s.seqPhase who) := by
  have hrec : ¬(op ≤ 3 ∧ r.denied = true) := by
    rintro ⟨hle, hden⟩
    rcases h with hgt | hadm
    · omega
    · simp [hadm] at hden
  simp only [Dev.seqApply, hhead, hop, ne_eq, not_true_eq_false, if_false, hrec]

theorem seqApply_denied (hle : op ≤ 3) (hden : r.denied = true) (f : RegRec → Dev → Dev) : s.seqApply who op f =
    ((s.seqPhase who).when ((s.seqPhase who).domOn .hst) fun e => e.count .BOOT_REC_DENY_CNT).seqNext who := by
  simp only [Dev.seqApply, hhead, hop, ne_eq, not_true_eq_false, if_false, hle, hden, and_self, if_true]

end Dev

/-! ### What an applied record does -/

namespace Dev
variable {s : Dev} {who : Option Nat} {r : RegRec} (hhead : s.seqHead who = some r)
include hhead

theorem seqWrite_applied (hop : r.op = 1) (h : r.denied = false) : s.seqWrite who =
    ((s.seqPhase who).bootStore r.addr r.value).seqNext who :=
  seqApply_applied hhead hop (.inr h) _

/-- The bits of MASK come from VALUE, the others from the value read (R59). -/
theorem seqModify_applied (hop : r.op = 2) (h : r.denied = false) : s.seqModify who =
    let p := (s.seqPhase who).bootLoad r.addr
    (p.2.bootStore r.addr ((p.1 &&& (2 ^ 32 - 1 - r.mask)) ||| (r.value &&& r.mask))).seqNext who :=
  seqApply_applied hhead hop (.inr h) _

theorem seqPoll_applied (hop : r.op = 3) (h : r.denied = false) : s.seqPoll who =
    let p := (s.seqPhase who).bootLoad r.addr
    if p.1 &&& r.mask = r.value then p.2.seqNext who else p.2 :=
  seqApply_applied hhead hop (.inr h) _

theorem seqDelay_applied (hop : r.op = 4) : s.seqDelay who = (s.seqPhase who).seqNext who :=
  seqApply_applied hhead hop (.inl (by decide)) _

theorem seqEnd_applied (hop : r.op = 5) : s.seqEnd who = (s.seqPhase who).seqNext who :=
  seqApply_applied hhead hop (.inl (by decide)) _

end Dev

/-! ### The rows -/

section
variable (n : Option (Fin 8)) (s : State)

theorem exec_regseqWrite_eq : exec (.regseqWrite n) s = .next (s.withDev (s.dev.seqWrite (n.map Fin.val))) := rfl

theorem exec_regseqModify_eq : exec (.regseqModify n) s = .next (s.withDev (s.dev.seqModify (n.map Fin.val))) := rfl

theorem exec_regseqPoll_eq : exec (.regseqPoll n) s = .next (s.withDev (s.dev.seqPoll (n.map Fin.val))) := rfl

theorem exec_regseqDelay_eq : exec (.regseqDelay n) s = .next (s.withDev (s.dev.seqDelay (n.map Fin.val))) := rfl

theorem exec_regseqEnd_eq : exec (.regseqEnd n) s = .next (s.withDev (s.dev.seqEnd (n.map Fin.val))) := rfl

end

/-- The rows of the records that access a register are applications of that opcode's record. -/
theorem exec_regseqAccess_eq {n : Option (Fin 8)} {i : Instr} {op : Nat}
    (h : (i, op) ∈ [(Instr.regseqWrite n, 1), (.regseqModify n, 2), (.regseqPoll n, 3)]) (s : State) :
    op ≤ 3 ∧ ∃ f, exec i s = .next (s.withDev (s.dev.seqApply (n.map Fin.val) op f)) := by
  simp only [List.mem_cons, Prod.mk.injEq, List.not_mem_nil, or_false] at h
  rcases h with ⟨rfl, rfl⟩ | ⟨rfl, rfl⟩ | ⟨rfl, rfl⟩ <;> exact ⟨by decide, _, rfl⟩

/-- Settles O38: the record at the front is applied by the row of its opcode, and a denied access counts instead, whatever its opcode. -/
theorem registerSequenceCompletes : Obligations.RegisterSequenceCompletes := by
  unfold Obligations.RegisterSequenceCompletes
  intro s n r who hhead d
  refine ⟨fun hadm => ⟨fun hop => ?write, fun hop => ?modify, fun hop hmatch => ?pollMatch, fun hop hmatch => ?pollStay⟩,
    fun hden i op hi hop => ?denied, fun hop => ?delay, fun hop => ?fin⟩
  case write => rw [exec_regseqWrite_eq, Dev.seqWrite_applied hhead hop hadm]
  case modify => rw [exec_regseqModify_eq, Dev.seqModify_applied hhead hop hadm]
  case pollMatch => rw [exec_regseqPoll_eq, Dev.seqPoll_applied hhead hop hadm, if_pos hmatch]
  case pollStay => rw [exec_regseqPoll_eq, Dev.seqPoll_applied hhead hop hadm, if_neg hmatch]
  case denied =>
    obtain ⟨hle, f, hexec⟩ := exec_regseqAccess_eq hi s
    rw [hexec, Dev.seqApply_denied hhead hop hle hden]
  case delay => rw [exec_regseqDelay_eq, Dev.seqDelay_applied hhead hop]
  case fin => rw [exec_regseqEnd_eq, Dev.seqEnd_applied hhead hop]

end Sys2Proof.Machine
end

section
/-! O7: register accesses that reach a copy with no effect of its own, and accesses that reach no block (R7, R13, R22, R35, R63, R110). A row waits for
what its engine has asked for before; then the access is made on the device that these stores leave. A copy of a VLT, SMF or PIN page, and a counter of
the BOOT, PWR, SYS and HST pages, takes the value by its field rules alone. An access by physical address goes over the bus; it comes to the gate
of register space, or to no range at all. -/

namespace Sys2Proof.Machine

/-! ### The copy at an offset -/

theorem copyAt_of_findReg {l : List Reg} {off : Nat} {r : Reg} {i j k : Nat} (h : findReg l off = some (r, i, j, k)) :
    r.copyAt off = some (i, j, k) := by
  induction l with
  | nil => cases h
  | cons q t ih =>
    rw [findReg] at h
    split at h
    · next i' j' k' hq =>
      split at h
      · cases h; exact hq
      · exact ih h
    · exact ih h

theorem copyAt_of_regAt {off : Nat} {r : Reg} {i j k : Nat} (h : regAt off = some (r, i, j, k)) : r.copyAt off = some (i, j, k) := by
  unfold regAt at h
  split at h
  · exact copyAt_of_findReg h
  · cases h

theorem Reg.indices_of_strides_nil {r : Reg} (hr : r.info.strides = []) {off i j k : Nat} (h : r.copyAt off = some (i, j, k)) :
    i = 0 ∧ j = 0 ∧ k = 0 := by
  obtain ⟨-, ys, hys, rfl, rfl, rfl⟩ := Reg.copyAt_eq_some.mp h
  rw [hr, splitIdx] at hys
  split at hys
  · cases hys
    exact ⟨rfl, rfl, rfl⟩
  · cases hys

/-! ### Writes that follow the field rules alone -/

/-- A word of a pair is no counter. -/
theorem Reg.single_of_counter : ∀ r : Reg, r.counter = true → r.single = true :=
  Reg.of_regs fun b => by cases b <;> decide +kernel

/-- Each counter of these pages stands once. -/
theorem Reg.strides_counter : ∀ b ∈ [Block.BOOT, .PWR, .SYS, .HST], ∀ r ∈ b.regs, r.counter = true → r.info.strides = [] := by decide +kernel

namespace Dev
variable (s : Dev) {r : Reg} (mid ctx v : Nat)

theorem regStore_plainPage (hb : r.info.blk = .VLT ∨ r.info.blk = .SMF ∨ r.info.blk = .PIN) (i j k : Nat) :
    s.regStore r i j k mid ctx v = s.plain r v i j k := by
  rcases hb with hb | hb | hb <;> simp only [Dev.regStore, hb]

section
variable (hc : r.counter = true)
include hc

theorem bootWrite_counter : s.bootWrite r v = s.plain r v := by
  unfold Dev.bootWrite
  split
  · cases hc
  · rfl

theorem sysWrite_counter : s.sysWrite r mid v = s.plain r v := by
  unfold Dev.sysWrite
  split
  case h_4 => rfl
  all_goals cases hc

theorem pwrWrite_counter (i : Nat) : s.pwrWrite r i mid v = s.plain r v i := by
  unfold Dev.pwrWrite
  split
  case h_4 => rfl
  all_goals cases hc

theorem hstWrite_counter (i : Nat) : s.hstWrite r i v = s.plain r v i := by
  unfold Dev.hstWrite
  split
  case h_3 => rfl
  all_goals cases hc

theorem regStore_counter (hb : r.info.blk ∈ [Block.VLT, .SMF, .PIN, .BOOT, .PWR, .SYS, .HST]) {off i j k : Nat}
    (h : r.copyAt off = some (i, j, k)) : s.regStore r i j k mid ctx v = s.plain r v i j k := by
  by_cases hplain : r.info.blk = .VLT ∨ r.info.blk = .SMF ∨ r.info.blk = .PIN
  · exact s.regStore_plainPage mid ctx v hplain i j k
  · have hown : r.info.blk ∈ [Block.BOOT, .PWR, .SYS, .HST] := by simp_all
    obtain ⟨rfl, rfl, rfl⟩ := Reg.indices_of_strides_nil (Reg.strides_counter _ hown r r.mem_regs hc) h
    simp only [List.mem_cons, List.not_mem_nil, or_false] at hown
    rcases hown with hb | hb | hb | hb <;>
      simp only [Dev.regStore, hb, s.bootWrite_counter v hc, s.sysWrite_counter mid v hc, s.pwrWrite_counter mid v hc,
        s.hstWrite_counter v hc]

end

/-! ### An access by physical address -/

variable {s mid ctx v}

/-- The rights of the host on register space are its rights by physical address (R73). -/
theorem hostMay_of_regGate_off {off : Nat} {write : Bool} (h : s.regGate Agent.host.mid off write = .off) :
    s.hostMay (regBase + off) write = true := by
  cases hmay : s.regMay Agent.host.mid off write with
  | false =>
    rw [regGate_of_not_regMay hmay] at h
    cases h
  | true => simpa [Dev.regMay, Agent.mid] using hmay

section
variable {who : Agent} {a : Nat} (hw : s.rowWaits who a = false)
include hw

/-- The host's window lets its write through, and then the host is one master of the bus as any other. -/
theorem rowAccess_write (hmay : who = .host → (s.settle who).hostMay a true = true) (w : Word) :
    s.rowAccess who a (some w) = (s.settle who).busWrite who.mid who.ctx a (leBytes 4 w.toNat) := by
  by_cases hhost : who = .host
  · subst hhost
    simp [Dev.rowAccess, Dev.settled, hw, Dev.hostWrite, hmay, Agent.mid, Agent.ctx]
  · simp [Dev.rowAccess, Dev.settled, hw, hhost]

theorem rowAccess_read (hmay : who = .host → (s.settle who).hostMay a false = true) :
    s.rowAccess who a none = { ((s.settle who).busRead who.mid who.ctx a 4).2 with
      rd := word (leVal ((s.settle who).busRead who.mid who.ctx a 4).1.data) } := by
  by_cases hhost : who = .host
  · subst hhost
    simp [Dev.rowAccess, Dev.settled, hw, Dev.hostRead, hmay, Agent.mid, Agent.ctx]
  · simp [Dev.rowAccess, Dev.settled, hw, hhost]

/-- Where nothing answers, the reader is given 0. -/
theorem rowAccess_read_zero (hmay : who = .host → (s.settle who).hostMay a false = true) {d : Dev}
    (hbus : (s.settle who).busRead who.mid who.ctx a 4 = (⟨leBytes 4 0, false⟩, d)) : s.rowAccess who a none = { d with rd := 0#32 } := by
  rw [rowAccess_read hw hmay, hbus]
  rfl

end

section
variable {a : Nat} (h : rangeOf a = .unmapped)
include h

theorem busWrite_unmapped (l : List Byte) : s.busWrite mid ctx a l = s.count .SYS_DECODE_CNT := by
  simp [Dev.busWrite, Dev.physWrite, h]

theorem busRead_unmapped (n : Nat) : s.busRead mid ctx a n = (⟨leBytes n 0, false⟩, s.count .SYS_DECODE_CNT) := by
  simp [Dev.busRead, Dev.physRead, h]

end

theorem rangeOf_register {off : Nat} (h : off < 0x1000000) : rangeOf (regBase + off) = .regs := by
  simp (disch := (simp only [regBase]; omega)) only [rangeOf, if_neg, if_pos]

section
variable {off : Nat} (hlt : off < 0x1000000) (hal : off % 4 = 0)
include hlt hal

theorem busWrite_register (w : Word) : s.busWrite mid ctx (regBase + off) (leBytes 4 w.toNat) = s.regWrite mid ctx off w.toNat := by
  have halign : (regBase + off) % 4 = 0 := by simp only [regBase]; omega
  have hval : leVal (leBytes 4 w.toNat) = w.toNat := (leVal_leBytes 4 _).trans (Nat.mod_eq_of_lt w.isLt)
  simp [Dev.busWrite, rangeOf_register hlt, halign, hval]

theorem busRead_register : s.busRead mid ctx (regBase + off) 4 =
    (⟨leBytes 4 (s.regRead mid ctx off).1, false⟩, (s.regRead mid ctx off).2) := by
  have halign : (regBase + off) % 4 = 0 := by simp only [regBase]; omega
  simp [Dev.busRead, rangeOf_register hlt, halign]

/-! ### A page whose domain is off -/

/-- A read of a page that is off gives zeros and is counted (R22). -/
theorem busRead_register_off (h : s.regGate mid off false = .off) : s.busRead mid ctx (regBase + off) 4 =
    (⟨leBytes 4 0, false⟩, s.count .SYS_DOMAIN_OFF_CNT) := by
  rw [busRead_register hlt hal]
  simp only [Dev.regRead, h, Dev.gateCount]

end

section
variable {off : Nat}

/-- A push to a rink that is off goes to the job router (R110). -/
theorem regWrite_off_push (h : s.regGate mid off true = .off) {i j k : Nat} (hr : regAt off = some (.RNK_PUSH, i, j, k)) :
    s.regWrite mid ctx off v = s.pushWrite i j mid ctx v := by
  simp only [Dev.regWrite, h, hr]

/-- Every other write is counted (R22). -/
theorem regWrite_off_other (h : s.regGate mid off true = .off) (hr : ∀ i j k, regAt off ≠ some (.RNK_PUSH, i, j, k)) :
    s.regWrite mid ctx off v = s.count .SYS_DOMAIN_OFF_CNT := by
  simp only [Dev.regWrite, h, Dev.gateCount]

end

end Dev

/-! ### The rows -/

theorem Dev.onReg_self (off : Nat) (p : Reg → Bool) {f : Dev → Dev} {s : Dev} (h : f s = s) : Dev.onReg off p f s = s := by
  unfold Dev.onReg
  split
  · split
    · exact h
    · rfl
  · rfl

theorem Dev.agentWrite_of_rowWaits {s : Dev} {who : Agent} {off : Nat} (h : s.rowWaits who (regBase + off) = true) (v : Nat) :
    Dev.agentWrite who off v s = s := by
  simp [Dev.agentWrite, Dev.settled, h]

section
variable (who : Agent) (s : State)

theorem exec_registerWrite_eq (off : BitVec 24) (v : Word) : exec (.registerWrite who off v) s =
    .next (s.withDev (Dev.onReg off.toNat Reg.single (Dev.agentWrite who off.toNat v.toNat) s.dev)) := rfl

theorem exec_counterWrite_eq (off : BitVec 24) (v : Word) : exec (.counterWrite who off v) s =
    .next (s.withDev (Dev.onReg off.toNat Reg.counter (Dev.agentWrite who off.toNat v.toNat) s.dev)) := rfl

theorem exec_unmappedAccess_eq {pa : BitVec 40} (h : rangeOf pa.toNat = .unmapped) (w : Option Word) :
    exec (.unmappedAccess who pa w) s = .next (s.withDev (s.dev.rowAccess who pa.toNat w)) :=
  next_congr (if_pos h)

theorem exec_domainOffAccess_eq {off : BitVec 24} (hal : off.toNat % 4 = 0) {w : Option Word}
    (h : s.dev.regGate who.mid off.toNat w.isSome = .off) :
    exec (.domainOffAccess who off w) s = .next (s.withDev (s.dev.rowAccess who (regBase + off.toNat) w)) := by
  have hword : off.toNat / 4 * 4 = off.toNat := Nat.div_mul_cancel (Nat.dvd_of_mod_eq_zero hal)
  have hoff : s.dev.offPage who off.toNat w.isSome = true := by simp [Dev.offPage, h]
  exact next_congr ((if_pos hoff).trans (by rw [hword]))

end

/-- Settles O7: an access that waits changes nothing; one that does not reaches its copy through the gate, where the field rules alone apply, or
goes over the bus to an address or page that answers nothing. -/
theorem registerRowsComplete : Obligations.RegisterRowsComplete := by
  unfold Obligations.RegisterRowsComplete
  refine ⟨?waiting, ?writes, ?unmapped, ?domainOff⟩
  case waiting =>
    intro who off v s hw
    have hself := Dev.agentWrite_of_rowWaits hw v.toNat
    rw [exec_registerWrite_eq, exec_counterWrite_eq, Dev.onReg_self _ _ hself, Dev.onReg_self _ _ hself, State.withDev_self]
    exact ⟨rfl, rfl⟩
  case writes =>
    intro who off v s r i j k hr hw d hg
    have hwrite {p : Reg → Bool} (hp : p r = true) (hs : r.single = true) :
        Dev.onReg off.toNat p (Dev.agentWrite who off.toNat v.toNat) s.dev = d.regStore r i j k who.mid who.ctx v.toNat := by
      rw [Dev.onReg_of_regAt hr hp, Dev.agentWrite_of_not_rowWaits hw, Dev.regWrite_page hg hr, Dev.copyStore_single _ hs]
    constructor
    · intro hb hs
      rw [exec_registerWrite_eq, hwrite hs hs, Dev.regStore_plainPage _ _ _ _ hb]
    · intro hb hc
      rw [exec_counterWrite_eq, hwrite hc (Reg.single_of_counter r hc), Dev.regStore_counter _ _ _ _ hc hb (copyAt_of_regAt hr)]
  case unmapped =>
    intro who pa w s hrange hw e hmay
    rw [exec_unmappedAccess_eq who s hrange]
    cases w with
    | some v => rw [Dev.rowAccess_write hw hmay, Dev.busWrite_unmapped hrange]; rfl
    | none => rw [Dev.rowAccess_read_zero hw hmay (Dev.busRead_unmapped hrange 4)]; rfl
  case domainOff =>
    intro who off w s hal hoff hw e hg
    have hmay (hhost : who = .host) : e.hostMay (regBase + off.toNat) w.isSome = true := by
      subst hhost
      exact Dev.hostMay_of_regGate_off hg
    rw [exec_domainOffAccess_eq who s hal hoff]
    cases w with
    | some v =>
      rw [Dev.rowAccess_write hw hmay, Dev.busWrite_register off.isLt hal]
      split
      · next hv hpush => cases hv; rw [Dev.regWrite_off_push hg hpush]
      · next hother => rw [Dev.regWrite_off_other hg hother]
      · next hv => cases hv
    | none => rw [Dev.rowAccess_read_zero hw hmay (Dev.busRead_register_off off.isLt hal hg)]

end Sys2Proof.Machine
end

section
/-! O39: Provisioning (R71, R72). A request in Provisioning goes one of two ways: it is served where it is admitted and the table does not refuse
it, and counted otherwise. Whatever a served request programs, what the OTP holds only grows. -/

namespace Sys2Proof.Machine

/-! ### The two ways of a request -/

theorem VltSt.admits_iff (v : VltSt) (q : VltReq) (sig : Nat) : v.admits q sig = true ↔
    v.lifecycle = 0 ∨ ∃ k, v.nonce = some k ∧ (v.verifier (q.digest k) sig).isSome = true := by
  cases h : v.nonce <;> simp [VltSt.admits, h]

namespace Dev
variable {s : Dev} {q : VltReq} {sig : Nat}

theorem provServed_outside (hmode : s.inMode [.provisioning] = false) : s.provServed q sig = s := by
  simp [Dev.provServed, hmode]

theorem provServed_refused (hmode : s.inMode [.provisioning] = true) (h : ¬s.vlt.admits q sig = true ∨ s.vlt.refuses q = true) :
    s.provServed q sig = s.count .VLT_PROV_REFUSE_CNT := by
  simp only [Bool.not_eq_true] at h
  simp [Dev.provServed, Dev.provRefuse, hmode, h]

theorem provServed_granted (hmode : s.inMode [.provisioning] = true) (hadm : s.vlt.admits q sig = true)
    (href : s.vlt.refuses q = false) :
    s.provServed q sig = if s.vlt.lifecycle = 0 then s.provDo q else (s.provDo q).newNonce := by
  simp [Dev.provServed, hmode, hadm, href]

@[simp] theorem newNonce_otp (s : Dev) : s.newNonce.vlt.otp = s.vlt.otp := rfl

theorem otp_otp (s : Dev) (f : OtpSt → OtpSt) : (s.otp f).vlt.otp = f s.vlt.otp := rfl

/-- What the OTP holds after any request: what it held, or what the effect of a request that the table does not refuse leaves. -/
theorem provServed_otp (s : Dev) (q : VltReq) (sig : Nat) : (s.provServed q sig).vlt.otp = s.vlt.otp ∨
    s.vlt.refuses q = false ∧ (s.provServed q sig).vlt.otp = (s.provDo q).vlt.otp := by
  by_cases hmode : s.inMode [.provisioning] = true
  · by_cases h : ¬s.vlt.admits q sig = true ∨ s.vlt.refuses q = true
    · exact .inl (by rw [provServed_refused hmode h, Dev.count_vlt])
    · obtain ⟨hadm, href⟩ := not_or.mp h
      rw [Bool.not_eq_true] at href
      refine .inr ⟨href, ?_⟩
      rw [provServed_granted hmode (not_not.mp hadm) href]
      split
      · rfl
      · exact newNonce_otp _
  · exact .inl (by rw [provServed_outside (Bool.eq_false_of_not_eq_true hmode)])

end Dev

/-! ### What the OTP holds only grows -/

/-- `p` holds what the OTP `o` held, and perhaps more: no programmed bit is cleared, no programmed key changes, LIFECYCLE does not go back. -/
structure OtpSt.Grows (o p : OtpSt) : Prop where
  stage : o.stage ≤ p.stage
  slots : ∀ n, bit o.slots n = true → bit p.slots n = true ∧ p.slotKeys.get n = o.slotKeys.get n
  revoke : ∀ n, bit o.revoke n = true → bit p.revoke n = true
  wimg : o.wimg.isSome = true → p.wimg = o.wimg
  debugKey : o.debugKey.isSome = true → p.debugKey = o.debugKey
  sensors : o.sensors &&& p.sensors = o.sensors
  limit : o.limit &&& p.limit = o.limit
  seed : o.seed = p.seed
  helper : o.helper = p.helper
  bad : o.bad = p.bad
  rollSet : o.rollSet = p.rollSet
  rollBad : o.rollBad = p.rollBad
  tampSet : o.tampSet = p.tampSet
  tampBad : o.tampBad = p.tampBad

theorem OtpSt.Grows.refl (o : OtpSt) : o.Grows o where
  stage := Nat.le_refl _
  slots _ h := ⟨h, rfl⟩
  revoke _ := id
  wimg _ := rfl
  debugKey _ := rfl
  sensors := Nat.and_self _
  limit := Nat.and_self _
  seed := rfl
  helper := rfl
  bad := rfl
  rollSet := rfl
  rollBad := rfl
  tampSet := rfl
  tampBad := rfl

/-- The lifecycle does not go back while the programmed one does not and the same checks hold. -/
theorem OtpSt.Grows.lifecycle_le {v w : VltSt} (h : v.otp.Grows w.otp) : v.lifecycle ≤ w.lifecycle := by
  have hcheck : w.otp.fails .lifecycle = v.otp.fails .lifecycle := congrArg (List.contains · _) h.bad.symm
  simp only [VltSt.lifecycle, hcheck]
  split
  · exact Nat.le_refl 2
  · exact h.stage

/-- The effect of a request that the table does not refuse lets the OTP grow: a slot or key that it programs was empty, and the bits of SENSOR_EN and
TAMPER_LIMIT that it programs include those that are set. -/
theorem Dev.provDo_grows {s : Dev} {q : VltReq} (hstage : s.vlt.otp.stage ≤ 2) (href : s.vlt.refuses q = false) :
    s.vlt.otp.Grows (s.provDo q).vlt.otp := by
  have same := OtpSt.Grows.refl s.vlt.otp
  cases q with
  | getEphemeral => exact same
  | setKeySlot n key =>
    have hempty : bit s.vlt.otp.slots n = false := by
      simp only [VltSt.refuses, OtpSt.slotEmpty, Bool.not_eq_false', Bool.and_eq_true, Bool.not_eq_true'] at href
      obtain ⟨hempty, -⟩ := href
      exact hempty
    have hslots (k : Nat) (hk : bit s.vlt.otp.slots k = true) :
        bit (putBit s.vlt.otp.slots n true) k = true ∧ (s.vlt.otp.slotKeys.set n key.toNat).get k = s.vlt.otp.slotKeys.get k := by
      have hne : k ≠ n := by
        rintro rfl
        simp [hempty] at hk
      exact ⟨by rw [bit_putBit, if_neg hne, hk], Tab.get_set_other _ _ hne⟩
    exact { same with slots := hslots }
  | revokeSlot n =>
    have hrevoke (k : Nat) (hk : bit s.vlt.otp.revoke k = true) : bit (putBit s.vlt.otp.revoke n true) k = true := by
      rw [bit_putBit]
      split
      · rfl
      · exact hk
    exact { same with revoke := hrevoke }
  | setImgKey sent =>
    have hnone : s.vlt.otp.wimg.isSome = false := by
      simp only [VltSt.refuses, Bool.or_eq_false_iff] at href
      obtain ⟨⟨⟨hnone, -⟩, -⟩, -⟩ := href
      exact hnone
    exact { same with wimg := fun h => absurd h (by simp [hnone]) }
  | setDebugKey key =>
    have hnone : s.vlt.otp.debugKey.isSome = false := by
      simp only [VltSt.refuses, Bool.or_eq_false_iff] at href
      obtain ⟨hnone, -⟩ := href
      exact hnone
    exact { same with debugKey := fun h => absurd h (by simp [hnone]) }
  | setSensors en lim =>
    simp only [VltSt.refuses, Bool.or_eq_false_iff, bne_eq_false_iff_eq] at href
    obtain ⟨hen, hlim⟩ := href
    exact { same with sensors := (Nat.and_comm _ _).trans hen, limit := (Nat.and_comm _ _).trans hlim }
  | setOwned => exact { same with stage := Nat.le_max_left _ _ }
  | scrap => exact { same with stage := hstage }

theorem Dev.provServed_grows {s : Dev} (hstage : s.vlt.otp.stage ≤ 2) (q : VltReq) (sig : Nat) :
    s.vlt.otp.Grows (s.provServed q sig).vlt.otp := by
  rcases s.provServed_otp q sig with hsame | ⟨href, hdone⟩
  · rw [hsame]
    exact .refl _
  · rw [hdone]
    exact provDo_grows hstage href

/-! ### What the table does not refuse -/

namespace VltSt
variable {v : VltSt}

theorem refuses_setKeySlot {n : Fin 4} (hempty : v.otp.slotEmpty n = true) (key : BitVec 768) : v.refuses (.setKeySlot n key) = false := by
  rw [VltSt.refuses, hempty, Bool.not_true]

theorem refuses_revokeSlot {n : Fin 4} (hlive : v.live (2 ^ n.val) ≠ 0) : v.refuses (.revokeSlot n) = false := beq_false_of_ne hlive

theorem refuses_setImgKey {sent : BitVec 768 × BitVec 480} {key : Nat} {r : KeyRegs} (hnone : v.otp.wimg = none)
    (hcheck : v.otp.fails .wimg = false) (hkeys : v.keyRegs = some r) (hsent : v.sentKey sent = some key) :
    v.refuses (.setImgKey sent) = false := by
  simp [VltSt.refuses, hnone, hcheck, hkeys, hsent]

theorem refuses_setDebugKey (hnone : v.otp.debugKey = none) (hcheck : v.otp.fails .debugKey = false) (key : BitVec 768) :
    v.refuses (.setDebugKey key) = false := by
  simp [VltSt.refuses, hnone, hcheck]

theorem refuses_setSensors {en : BitVec 5} {lim : BitVec 6} (hen : en.toNat &&& v.otp.sensors = v.otp.sensors)
    (hlim : lim.toNat &&& v.otp.limit = v.otp.limit) : v.refuses (.setSensors en lim) = false := by
  simp [VltSt.refuses, hen, hlim]

/-- SET_OWNED looks at OTP_WIMG whether its check holds or not: one that reads as programmed is programmed. -/
theorem refuses_setOwned (hslot : bit v.otp.slots 0 = true) (himg : v.wimg.isSome = true) : v.refuses .setOwned = false := by
  have hprog : v.otp.wimg.isSome = true := by
    unfold VltSt.wimg at himg
    split at himg
    · exact absurd himg Bool.false_ne_true
    · exact himg
  simp [VltSt.refuses, hslot, hprog]

end VltSt

/-! ### The effect of each request -/

/-- SET_IMG_KEY programs the image key that was sent, wrapped with the DUK of the key registers. -/
theorem Dev.setImgKey_eq {s : Dev} {sent : BitVec 768 × BitVec 480} {key : Nat} {r : KeyRegs} (hkeys : s.vlt.keyRegs = some r)
    (hsent : s.vlt.sentKey sent = some key) :
    s.setImgKey sent = (s.fresh.2.updVlt fun v => { v with ephemeral := none }).otp (OtpSt.put .wimg fun o =>
      { o with wimg := some (wrapKey r.duk (Config.free s.freeCnt % 2 ^ 96) key) }) := by
  simp only [Dev.setImgKey, hkeys, hsent]
  rfl

/-- Settles O39: each request's hypotheses are those under which the table does not refuse it, and a request that is served lets the OTP grow. -/
theorem provisioningCompletes : Obligations.ProvisioningCompletes := by
  unfold Obligations.ProvisioningCompletes
  intro row
  have hrow (s : State) (sg : BitVec 768) (q : VltReq) :
      exec (row sg q) s = .next (s.withDev (s.dev.provServed q sg.toNat)) := by cases q <;> rfl
  refine ⟨fun s sg => ?_, fun s t sg q hstage hexec => ?grows⟩
  case grows =>
    rw [hrow, Host.Outcome.next.injEq] at hexec
    subst hexec
    have g := Dev.provServed_grows hstage q sg.toNat
    exact ⟨g.slots, g.revoke, g.wimg, g.debugKey, g.lifecycle_le, g.sensors, g.limit, g.seed, g.helper, g.bad, g.rollSet, g.rollBad,
      g.tampSet, g.tampBad⟩
  intro d v o ok runs prog hmode
  have hruns (q : VltReq) (e : Dev) (hdo : d.provDo q = e) (href : v.refuses q = false) : runs q e := by
    intro hok
    rw [hrow, Dev.provServed_granted hmode ((v.admits_iff q _).mpr hok) href, hdo]
  refine ⟨hruns _ _ rfl rfl, fun n key hempty => hruns _ _ rfl (VltSt.refuses_setKeySlot hempty key),
    fun n hlive => hruns _ _ rfl (VltSt.refuses_revokeSlot hlive),
    fun sent key r hnone hcheck hkeys hsent => hruns _ _ (Dev.setImgKey_eq hkeys hsent) (VltSt.refuses_setImgKey hnone hcheck hkeys hsent),
    fun key hnone hcheck => hruns _ _ rfl (VltSt.refuses_setDebugKey hnone hcheck key),
    fun en lim hen hlim => hruns _ _ rfl (VltSt.refuses_setSensors hen hlim),
    fun hslot himg => hruns _ _ rfl (VltSt.refuses_setOwned hslot himg), hruns _ _ rfl rfl, fun q h => ?refused⟩
  case refused => rw [hrow, Dev.provServed_refused hmode (h.imp_left (mt (v.admits_iff q _).mp))]

end Sys2Proof.Machine
end

section
/-! O40: debug, boundary scan, the tamper response and the installation of keys (R77 to R83, R446, R507, R522, R531). -/

namespace Sys2Proof.Machine

/-! ### Challenge and response of the debugger (R79) -/

namespace Dev
variable {s : Dev}

theorem debugBarred_eq_false (hlife : s.vlt.lifecycle ≠ 2) (hlock : s.sys.lockdown = false) (hrun : s.sys.resetRun = none)
    (htrst : s.tap.trst = true) : s.debugBarred = false := by
  simp [Dev.debugBarred, hlife, hlock, hrun, htrst]

theorem debugChallenge_barred (hbar : s.debugBarred = true) : s.debugChallenge = s := if_pos hbar

theorem debugChallenge_blank (hbar : s.debugBarred = false) (hlife : s.vlt.lifecycle = 0) :
    s.debugChallenge = s.setFlag .VLT_STATUS_DEBUG_OPEN true := by
  simp [Dev.debugChallenge, hbar, hlife]

theorem debugChallenge_owned (hbar : s.debugBarred = false) (hlife : s.vlt.lifecycle = 1) (hfails : s.vlt.dbgFails < 8) :
    let k := Config.free s.freeCnt % 2 ^ 256
    s.debugChallenge = s.fresh.2.updVlt fun v => { v with challenge := some k, answer := k + s.sys.serial * 2 ^ 256 } := by
  simp only [Dev.debugChallenge, hbar, hlife, Nat.not_le.mpr hfails, Bool.false_eq_true, one_ne_zero, if_false]
  rfl

/-- What a response leaves of its challenge: a nonce serves once. -/
theorem debugResponse_barred {k : Nat} (hnonce : s.vlt.challenge = some k) (hbar : s.debugBarred = true) (sig : Nat) :
    s.debugResponse sig = s.updVlt fun v => { v with challenge := none } := by
  simp only [Dev.debugResponse, hnonce]
  exact if_pos hbar

theorem debugResponse_unbarred {k : Nat} (hnonce : s.vlt.challenge = some k) (hbar : s.debugBarred = false) (sig : Nat) :
    let e := s.updVlt fun v => { v with challenge := none }
    s.debugResponse sig = if s.debugOk k sig then e.setFlag .VLT_STATUS_DEBUG_OPEN true
      else (e.count .VLT_DBG_FAIL_CNT).updVlt fun v => { v with dbgFails := v.dbgFails + 1 } := by
  simp only [Dev.debugResponse, hnonce]
  exact if_neg (ne_true_of_eq_false hbar)

theorem debugOk_of_key {key : Nat} (hkey : s.vlt.debugKey = some key) (nonce sig : Nat) :
    s.debugOk nonce sig = ecdsaOk key (debugDigest nonce s.sys.serial) sig := by
  simp only [Dev.debugOk, hkey]

theorem debugOk_of_noKey (hkey : s.vlt.debugKey = none) (nonce sig : Nat) : s.debugOk nonce sig = false := by
  simp only [Dev.debugOk, hkey]

end Dev

/-! ### Accesses of the debugger (R79) -/

namespace Dev
variable {s : Dev} (hopen : s.flag .VLT_STATUS_DEBUG_OPEN = true) (htrst : s.tap.trst = true) (hrun : s.sys.resetRun = none)
include hopen htrst hrun

theorem debugAccess_gate : (!s.flag .VLT_STATUS_DEBUG_OPEN || !s.tap.trst || s.sys.resetRun.isSome) = false := by simp [hopen, htrst, hrun]

theorem debugAccess_write {g : DbgTarget} (hg : ∀ off, g ≠ .register off) (v : Word) :
    s.debugAccess g (some v) = s.debugPut v.toNat g := by
  simp only [Dev.debugAccess, debugAccess_gate hopen htrst hrun, Bool.false_eq_true, if_false]

theorem debugAccess_read {g : DbgTarget} (hg : ∀ off, g ≠ .register off) :
    s.debugAccess g none = s.updVlt fun x => { x with dbgData := word (s.debugValue g) } := by
  simp only [Dev.debugAccess, debugAccess_gate hopen htrst hrun, Bool.false_eq_true, if_false]

/-- An access to a register is one as Patrol's, outside the VLT page. -/
theorem debugAccess_registerWrite {off : Nat} (hpage : off / 0x10000 ≠ 2) (v : Word) :
    s.debugAccess (.register off) (some v) = (s.regWrite 0x40 0 off v.toNat).updVlt fun x => { x with dbgData := v } := by
  simp only [Dev.debugAccess, debugAccess_gate hopen htrst hrun, Dev.debugReg, hpage, Bool.false_eq_true, if_false]

theorem debugAccess_registerRead {off : Nat} (hpage : off / 0x10000 ≠ 2) :
    s.debugAccess (.register off) none =
      (s.regRead 0x40 0 off).2.updVlt fun x => { x with dbgData := word (s.regRead 0x40 0 off).1 } := by
  simp only [Dev.debugAccess, debugAccess_gate hopen htrst hrun, Dev.debugReg, hpage, Bool.false_eq_true, if_false]

end Dev

/-! ### The test access port (R83, R522) -/

namespace TapSt
variable {t : TapSt}

theorem clock_held (htrst : t.trst = false) (tms : Bool) : t.clock tms = t := by simp [TapSt.clock, htrst]

theorem scanOut_held (htrst : t.trst = false) (l : List (ScanPin × Bool)) : t.scanOut l = t := by simp [TapSt.scanOut, htrst]

theorem clock_state (htrst : t.trst = true) (tms : Bool) : (t.clock tms).state = t.state.next tms := by simp [TapSt.clock, htrst]

theorem clock_drives (htrst : t.trst = true) {tms : Bool} (hreset : (t.clock tms).state = .reset) : (t.clock tms).drives = [] := by
  rw [clock_state htrst] at hreset
  simp [TapSt.clock, htrst, hreset]

theorem scanOut_scanning (htrst : t.trst = true) (hstate : t.state ≠ .reset) (l : List (ScanPin × Bool)) :
    t.scanOut l = { t with drives := l } := by
  simp [TapSt.scanOut, htrst, hstate]

end TapSt

theorem Dev.updTap_congr {s : Dev} {f g : TapSt → TapSt} (h : f s.tap = g s.tap) : s.updTap f = s.updTap g := by
  rw [Dev.updTap, Dev.updTap, h]

theorem Dev.updTap_self {s : Dev} {f : TapSt → TapSt} (h : f s.tap = s.tap) : s.updTap f = s := by rw [Dev.updTap, h]

/-- TRST_N low holds the TAP against its clock and against boundary scan. -/
theorem Dev.tapOp_held {s : Dev} (htrst : s.tap.trst = false) (w : Option Word) {op : TapOp}
    (hop : op ∈ [TapOp.tck true, .tck false, .drive [], .undrive]) : s.tapOp op w = s := by
  simp only [List.mem_cons, List.not_mem_nil, or_false] at hop
  rcases hop with rfl | rfl | rfl | rfl
  · exact updTap_self (TapSt.clock_held htrst _)
  · exact updTap_self (TapSt.clock_held htrst _)
  · exact updTap_self (TapSt.scanOut_held htrst _)
  · exact updTap_self (TapSt.scanOut_held htrst _)

/-! ### What the shows and the mode leave alone -/

namespace Dev
variable (s : Dev)

theorem ringMask_sys (t mask : Nat) : (s.ringMask t mask).sys = s.sys := by rw [Dev.ringMask_frame]

theorem ringMask_vlt (t mask : Nat) : (s.ringMask t mask).vlt = s.vlt := by rw [Dev.ringMask_frame]

@[simp] theorem modeUpdate_sys : s.modeUpdate.sys = s.sys := by
  unfold Dev.modeUpdate
  exact Dev.when_keeps (P := fun e => e.sys = s.sys) (fun e he => (e.ringMask_sys _ _).trans he) _ rfl

@[simp] theorem modeUpdate_vlt : s.modeUpdate.vlt = s.vlt := by
  unfold Dev.modeUpdate
  exact Dev.when_keeps (P := fun e => e.vlt = s.vlt) (fun e he => (e.ringMask_vlt _ _).trans he) _ rfl

@[simp] theorem factoryShow_sys : s.factoryShow.sys = s.sys := by
  unfold Dev.factoryShow
  refine (Dev.each_same (g := Dev.sys) ?_ _).trans rfl
  exact fun _ _ _ => rfl

@[simp] theorem factoryShow_vlt : s.factoryShow.vlt = s.vlt := by
  unfold Dev.factoryShow
  refine (Dev.each_same (g := Dev.vlt) ?_ _).trans rfl
  exact fun _ _ _ => rfl

end Dev

/-! ### The tamper response (R80, R81, R531) -/

/-- What the tamper response brings about and its reset keeps: Lockdown, no keys, the boot output hold, and a TAMPER_COUNT bit that is due. -/
structure Dev.Zeroised (s : Dev) : Prop where
  lockdown : s.sys.lockdown = true
  keyRegs : s.vlt.keyRegs = none
  sak : s.vlt.sak = []
  tandemSak : s.vlt.tandemSak = none
  bootHold : s.sys.bootHold = true
  countDue : s.sys.countDue = true

namespace Dev
variable {s : Dev}

theorem Zeroised.deviceReset_tamp (h : s.Zeroised) (cause : Nat) : (s.deviceReset .TAMP cause).Zeroised where
  lockdown := (congrArg SysSt.lockdown (factoryShow_sys _)).trans h.lockdown
  keyRegs := congrArg VltSt.keyRegs (factoryShow_vlt _)
  sak := congrArg VltSt.sak (factoryShow_vlt _)
  tandemSak := congrArg VltSt.tandemSak (factoryShow_vlt _)
  bootHold := congrArg SysSt.bootHold (factoryShow_sys _)
  countDue := (congrArg SysSt.countDue (factoryShow_sys _)).trans ((Bool.and_true _).trans h.countDue)

theorem deviceReset_resetRun (s : Dev) (q : ResetKind) (cause : Nat) : (s.deviceReset q cause).sys.resetRun = some q :=
  congrArg SysSt.resetRun (factoryShow_sys _)

/-- A TAMP reset starts unless a reset of the same or a higher precedence runs (R491), in Lockdown as well. -/
theorem startReset_tamp (s : Dev) (cause : Nat) :
    s.startReset .TAMP cause = s ∧ (∃ r, s.sys.resetRun = some r ∧ ¬r.rank < ResetKind.TAMP.rank) ∨
      s.startReset .TAMP cause = s.deviceReset .TAMP cause := by
  unfold Dev.startReset
  cases hrun : s.sys.resetRun with
  | none => exact .inr (if_neg (by simp))
  | some r =>
    by_cases hrank : r.rank < ResetKind.TAMP.rank
    · exact .inr (if_pos hrank)
    · exact .inl ⟨if_neg hrank, r, rfl, hrank⟩

theorem Zeroised.startReset_tamp (h : s.Zeroised) (cause : Nat) : (s.startReset .TAMP cause).Zeroised := by
  rcases s.startReset_tamp cause with ⟨hstays, -⟩ | hstarts
  · rwa [hstays]
  · rw [hstarts]
    exact h.deviceReset_tamp cause

theorem startReset_tamp_resetRun (hpor : s.sys.resetRun ≠ some .POR) (hpin : s.sys.resetRun ≠ some .PIN) (cause : Nat) :
    (s.startReset .TAMP cause).sys.resetRun = some .TAMP := by
  rcases s.startReset_tamp cause with ⟨hstays, r, hrun, hrank⟩ | hstarts
  · rw [hstays, hrun]
    cases r with
    | TAMP => rfl
    | POR => exact absurd hrun hpor
    | PIN => exact absurd hrun hpin
    | _ => exact absurd (by decide) hrank
  · rw [hstarts, deviceReset_resetRun]

theorem Zeroised.congr {t : Dev} (h : s.Zeroised) (hvlt : t.vlt = s.vlt) (f : Bool) (hsys : t.sys = { s.sys with filling := f }) :
    t.Zeroised where
  lockdown := by rw [hsys]; exact h.lockdown
  keyRegs := by rw [hvlt]; exact h.keyRegs
  sak := by rw [hvlt]; exact h.sak
  tandemSak := by rw [hvlt]; exact h.tandemSak
  bootHold := by rw [hsys]; exact h.bootHold
  countDue := by rw [hsys]; exact h.countDue

section
variable {src : Nat} (htrip : (if s.sys.resetRun = some .POR then src % 2 else src) &&& s.fld .VLT_TAMPER_EN_EN ≠ 0)
  (hfill : s.sys.filling = false) (hlock : s.sys.lockdown = false)
include htrip hfill hlock

/-- What an enabled sensor that trips does before its TAMP reset, and what follows the reset. -/
theorem tamperTrip_starts : ∃ (e : Dev) (f : Bool), e.Zeroised ∧ e.sys.resetRun = s.sys.resetRun ∧
      s.tamperTrip src = (((e.startReset .TAMP 0).updSys fun x => { x with filling := f }).setFlag .VLT_STATUS_KEYS_READY false).modeUpdate := by
  have hkeep (l : List Nat) (d : Dev) : (d.each l Dev.zeroBank).sys = d.sys := Dev.each_same (g := Dev.sys) (f := Dev.zeroBank) (fun _ _ _ => rfl) d
  refine ⟨_, _, ?_, ?_, if_neg (by simp [htrip, hfill, hlock])⟩
  · constructor <;> rfl
  · simp [hkeep]

theorem tamperTrip_zeroised : (s.tamperTrip src).Zeroised := by
  obtain ⟨e, f, hzero, -, htamper⟩ := tamperTrip_starts htrip hfill hlock
  exact (hzero.startReset_tamp 0).congr (by simp [htamper]) f (by simp [htamper])

theorem tamperTrip_resetRun (hpor : s.sys.resetRun ≠ some .POR) (hpin : s.sys.resetRun ≠ some .PIN) :
    (s.tamperTrip src).sys.resetRun = some .TAMP := by
  obtain ⟨e, f, -, hrun, htamper⟩ := tamperTrip_starts htrip hfill hlock
  rw [← hrun] at hpor hpin
  simpa [htamper] using startReset_tamp_resetRun hpor hpin 0

end

theorem lockdownEntry_filling (hfill : s.sys.filling = true) : s.lockdownEntry =
    ({ s with mem := [], sys := { s.sys with filling := false } } : Dev).setFlag .VLT_STATUS_LOCKDOWN true := by
  simp only [Dev.lockdownEntry, hfill, Bool.not_true, Bool.false_eq_true, if_false]

end Dev

/-! ### The count of tamper responses (R531) -/

theorem lt_two_pow_thermo (set bad : Nat) : set ||| bad < 2 ^ thermo set bad := by
  unfold thermo
  split
  · next h => rw [h]; decide
  · exact Nat.lt_log2_self

/-- A thermometer field counts one more when the bit above its highest bit that counts is set. -/
theorem thermo_or_two_pow (set bad : Nat) : thermo (set ||| 2 ^ thermo set bad) bad = thermo set bad + 1 := by
  have hlt := lt_two_pow_thermo set bad
  generalize thermo set bad = c at hlt ⊢
  have hge : 2 ^ c ≤ (set ||| bad) ||| 2 ^ c := Nat.right_le_or
  have hne : (set ||| bad) ||| 2 ^ c ≠ 0 := Nat.ne_of_gt (Nat.lt_of_lt_of_le (Nat.two_pow_pos c) hge)
  have hlog : Nat.log2 ((set ||| bad) ||| 2 ^ c) = c :=
    (Nat.log2_eq_iff hne).mpr ⟨hge, Nat.or_lt_two_pow (hlt.trans (Nat.pow_lt_pow_succ (by decide))) (Nat.pow_lt_pow_succ (by decide))⟩
  rw [thermo, Nat.or_right_comm, if_neg hne, hlog]

theorem OtpSt.thermo_tick {o : OtpSt} (h : thermo o.tampSet o.tampBad ≤ 63) :
    thermo o.tick.tampSet o.tick.tampBad = min 63 (thermo o.tampSet o.tampBad + 1) := by
  simp only [OtpSt.tick]
  split
  · rw [thermo_or_two_pow]; omega
  · omega

theorem Dev.tamperCountBit_due {s : Dev} (hdue : s.sys.countDue = true) : s.tamperCountBit =
    ((s.updSys fun x => { x with countDue := false }).updVlt fun v => { v with otp := v.otp.tick }).vltShow := by
  simp only [Dev.tamperCountBit, hdue, Bool.not_true, Bool.false_eq_true, if_false]

/-! ### The tandem link (R77, R446) -/

namespace Dev
variable {s : Dev} (hlock : s.sys.lockdown = false) (hrun : s.sys.resetRun = none) (hheld : s.txHeld = false)
  (hlanes : s.fld .PAR_STATUS_LANES ≠ 0) (hlane : s.tandemLane = true) {img : Nat} (himg : s.vlt.kImg = some img) {nonce : Nat} {f : StartF}
  {g : TdmTag}
include hlock hrun hheld hlanes hlane himg

theorem tandemStart_up :
    let own := (s.sakTdm img nonce).ownStart
    let e := (s.sakTdm img nonce).tandemSend false [own.bytes (s.sakTdm img nonce).vlt.tandemNonce]
    e.tandemOk (f.bytes nonce) g = true → e.tandemLoops = false → f.rank ≠ own.rank → f.buildId = own.buildId →
      f.rollback = own.rollback → f.digest = own.digest → s.tandemStart nonce f g =
        ((e.updPar fun x => { x with linked := true, rxPn := g.pn.toNat }).setFlag .PAR_STATUS_RANK own.rank).updPar
          fun x => { x with imgDiffers := false } := by
  intro own e hok hloops hrank hbuild hroll hdigest
  simp only [e, own] at hok hloops hrank hbuild hroll hdigest
  simp [Dev.tandemStart, hlock, hrun, hheld, hlane, himg, hlanes, hok, hloops, hrank, hbuild, hroll, hdigest, e, own]

theorem tandemStart_down :
    let own := (s.sakTdm img nonce).ownStart
    let e := (s.sakTdm img nonce).tandemSend false [own.bytes (s.sakTdm img nonce).vlt.tandemNonce]
    e.tandemOk (f.bytes nonce) g = false → s.tandemStart nonce f g =
      (e.updPar fun x => { x with linked := false, rxPn := 0 }).count .PAR_AUTH_CNT := by
  intro own e hok
  simp only [e, own] at hok
  simp [Dev.tandemStart, hlock, hrun, hheld, hlane, himg, hlanes, hok, e, own]

end Dev

/-! ### The keys of the MACs (R78) -/

/-- A SAK is installed with a fresh key and a fresh salt in its own slot; other slots, memory and the engines stay as they were. -/
theorem Dev.sakInstall_installs {s : Dev} (hlock : s.sys.lockdown = false) (hrun : s.sys.resetRun = none) (hdom : s.domOn .swc = true)
    {img : Nat} (himg : s.vlt.kImg = some img) (n an : Nat) :
    (s.sakInstall n an).vlt.sak = s.vlt.sak.set (4 * n + an)
        (some ⟨Config.free s.freeCnt % 2 ^ 256, Config.free s.fresh.2.freeCnt % 2 ^ 96⟩) ∧
      (s.sakInstall n an).mem = s.mem ∧ (s.sakInstall n an).eng = s.eng := by
  simp only [Dev.sakInstall, himg, hdom, hlock, hrun, Bool.not_true, Bool.or_self, Option.isSome_none, Bool.false_eq_true, if_false]
  split <;> exact ⟨rfl, rfl, rfl⟩

/-! ### The rows -/

section
variable (s : State)

theorem exec_debugChallenge_eq : exec .debugChallenge s = .next (s.withDev s.dev.debugChallenge) := rfl

theorem exec_debugResponse_eq (sig : BitVec 768) : exec (.debugResponse sig) s = .next (s.withDev (s.dev.debugResponse sig.toNat)) := rfl

theorem exec_debugAccess_eq (op : TapOp) (w : Option Word) : exec (.debugAccess op w) s = .next (s.withDev (s.dev.tapOp op w)) := rfl

theorem exec_tamperResponse_eq (src : BitVec 5) : exec (.tamperResponse src) s = .next (s.withDev (s.dev.tamperTrip src.toNat)) := rfl

theorem exec_lockdownEntry_eq : exec .lockdownEntry s = .next (s.withDev s.dev.lockdownEntry) := rfl

theorem exec_tamperCountProgram_eq : exec .tamperCountProgram s = .next (s.withDev s.dev.tamperCountBit) := rfl

theorem exec_tandemLinkStart_eq (nonce : BitVec 256) (f : StartF) (g : TdmTag) :
    exec (.tandemLinkStart nonce f g) s = .next (s.withDev (s.dev.tandemStart nonce.toNat f g)) := rfl

theorem exec_sakInstall_eq (n an : Fin 4) : exec (.sakInstall n an) s = .next (s.withDev (s.dev.sakInstall n an)) := rfl

end

/-- Settles O40: each row has the effect that its function's lemma gives under the row's conditions. -/
theorem vaultRowsComplete : Obligations.VaultRowsComplete := by
  unfold Obligations.VaultRowsComplete
  intro s d runs open_
  refine ⟨?challengeOwned, ?challengeBlank, ?response, ?challengeBarred, ?access, ?register, ?tap, ?tamper, ?lockdown, ?count, ?link, ?sak⟩
  case challengeOwned =>
    rintro ⟨⟨hlock, hrun⟩, htrst⟩ hlife hfails
    have hbar := Dev.debugBarred_eq_false (s := d) (by omega) hlock hrun htrst
    rw [exec_debugChallenge_eq, Dev.debugChallenge_owned hbar hlife hfails]
  case challengeBlank =>
    rintro ⟨⟨hlock, hrun⟩, htrst⟩ hlife
    have hbar := Dev.debugBarred_eq_false (s := d) (by omega) hlock hrun htrst
    rw [exec_debugChallenge_eq, Dev.debugChallenge_blank hbar hlife]
  case response =>
    intro sg k hnonce e failed
    refine ⟨?_, fun hbar => by rw [exec_debugResponse_eq, Dev.debugResponse_barred hnonce hbar]⟩
    rintro ⟨⟨hlock, hrun⟩, htrst⟩ hlife
    have hbar := Dev.debugBarred_eq_false (s := d) hlife hlock hrun htrst
    rw [exec_debugResponse_eq, Dev.debugResponse_unbarred hnonce hbar]
    exact ⟨fun key hkey => by rw [Dev.debugOk_of_key hkey], fun hkey => by rw [Dev.debugOk_of_noKey hkey]; rfl⟩
  case challengeBarred =>
    intro hbar
    rw [exec_debugChallenge_eq, Dev.debugChallenge_barred hbar, State.withDev_self]
  case access =>
    intro g v hopen htrst hrun hg
    exact ⟨next_congr (Dev.debugAccess_write hopen htrst hrun hg v), next_congr (Dev.debugAccess_read hopen htrst hrun hg)⟩
  case register =>
    intro off v hopen htrst hrun hpage
    exact ⟨next_congr (Dev.debugAccess_registerWrite hopen htrst hrun hpage v), next_congr (Dev.debugAccess_registerRead hopen htrst hrun hpage)⟩
  case tap =>
    intro w
    refine ⟨rfl, rfl, fun htrst op hop => ?_, fun htrst tms => ?_, fun htrst hstate l => ?_⟩
    · rw [exec_debugAccess_eq, Dev.tapOp_held htrst w hop, State.withDev_self]
    · exact ⟨_, exec_debugAccess_eq s (.tck tms) w, TapSt.clock_state htrst tms, TapSt.clock_drives htrst, rfl⟩
    · exact next_congr (Dev.updTap_congr (TapSt.scanOut_scanning htrst hstate l))
  case tamper =>
    intro src htrip hfill hlock
    have h := Dev.tamperTrip_zeroised htrip hfill hlock
    exact ⟨_, exec_tamperResponse_eq s src, rfl, h.lockdown, h.keyRegs, h.sak, h.tandemSak, h.bootHold, h.countDue,
      Dev.tamperTrip_resetRun htrip hfill hlock⟩
  case lockdown =>
    intro hfill
    rw [exec_lockdownEntry_eq, Dev.lockdownEntry_filling hfill]
  case count =>
    intro hdue
    exact ⟨by rw [exec_tamperCountProgram_eq, Dev.tamperCountBit_due hdue], OtpSt.thermo_tick⟩
  case link =>
    rintro img nonce f g ⟨hlock, hrun⟩ hheld hlanes hlane himg k own e
    refine ⟨fun hok hloops hrank hbuild hroll hdigest => ?_, fun hok => ?_, rfl⟩
    · exact next_congr (Dev.tandemStart_up hlock hrun hheld hlanes hlane himg hok hloops hrank hbuild hroll hdigest)
    · exact next_congr (Dev.tandemStart_down hlock hrun hheld hlanes hlane himg hok)
  case sak =>
    rintro n an img ⟨hlock, hrun⟩ hdom himg
    obtain ⟨hsak, hmem, heng⟩ := Dev.sakInstall_installs hlock hrun hdom himg n an
    refine ⟨_, exec_sakInstall_eq s n an, rfl, ?_, fun k hk => ?_, hmem, heng⟩
    · rw [State.withDev_dev, hsak, Tab.get_set_same]
    · rw [State.withDev_dev, hsak, Tab.get_set_other _ _ hk]

end Sys2Proof.Machine
end

section
/-! O18 and O27: a long load or store (R86, R102, R121, R136). Its word is one operation with one access. What the word comes to follows what the
translation of that access comes to: a fault, a missed translation, or an address in the engine's own memory or outside it. Below 0x0001_0000 the
translation of an engine's context is the address in its own memory. -/

namespace Sys2Proof.Machine

/-! ### The four rows of a long load or store -/

/-- The row of a long load or store (`st`), with a base update (`m`) or with DISP12. -/
def memOp : Bool → Bool → SkzOp
  | false, false => .load
  | true, false => .store
  | false, true => .loadm
  | true, true => .storem

/-- The command of that row. -/
def memInstr (c : CtxId) : Bool → Bool → Instr
  | false, false => .load c
  | true, false => .store c
  | false, true => .loadm c
  | true, true => .storem c

theorem exec_memInstr_eq (c : CtxId) (st m : Bool) (s : State) :
    exec (memInstr c st m) s = .next (s.withDev (Dev.issue c (memOp st m) (Dev.memWord c) s.dev)) := by
  cases st <;> cases m <;> rfl

/-- The major of a row of long loads and stores (R131). -/
def SkzOp.memMajor : SkzOp → Option Nat
  | .load => some 0xC
  | .store => some 0xD
  | .loadm => some 0xE
  | .storem => some 0xF
  | _ => none

theorem memMajor_memOp (st m : Bool) : (memOp st m).memMajor = some (0xC + b2n st + 2 * b2n m) := by
  cases st <;> cases m <;> rfl

theorem memMajor_opIf (ok : Bool) (op : SkzOp) : (opIf ok op).memMajor = if ok then op.memMajor else none := by
  cases ok <;> rfl

theorem memMajor_miscOp (w : Nat) : (miscOp w).memMajor = none := by
  unfold miscOp opIf
  extract_lets
  repeat' split
  all_goals rfl

theorem memMajor_cp0Op (n : Nat) : (cp0Op n).memMajor = none := by
  unfold cp0Op
  split <;> rfl

theorem memMajor_cp1Op (w : Nat) : (cp1Op w).memMajor = none := by
  unfold cp1Op
  repeat' split
  all_goals rfl

theorem memMajor_cp2Op (w : Nat) : (cp2Op w).memMajor = none := by
  unfold cp2Op
  split
  · rfl
  · split <;> rfl

/-- Only its own major leads to a row of long loads and stores. -/
theorem fMajor_of_longOp {pat pgf : Bool} {w n : Nat} (h : (longOp pat pgf w).memMajor = some n) : fMajor w = n := by
  unfold longOp at h
  split at h
  case h_11 hmajor | h_12 hmajor | h_13 hmajor | h_14 hmajor =>
    rw [hmajor]
    rw [memMajor_opIf, Option.ite_none_right_eq_some] at h
    exact Option.some.inj h.2
  case h_2 | h_3 | h_4 | h_5 | h_8 | h_9 | h_28 => cases h
  all_goals
    simp only [memMajor_opIf, memMajor_miscOp, memMajor_cp0Op, memMajor_cp1Op, memMajor_cp2Op, apply_ite SkzOp.memMajor, ite_self] at h
    simp [SkzOp.memMajor] at h

/-- A word of such a row is one operation, its access. -/
theorem outsOf_of_opOf {d : Dev} {c w : Nat} {st m : Bool} (h : d.opOf c w = memOp st m) (x : Ctx) : outsOf w x = [longMem st m w x] := by
  unfold Dev.opOf skzOp at h
  split at h
  · have hnone := congrArg SkzOp.memMajor h
    rw [memMajor_opIf, memMajor_memOp, Option.ite_none_right_eq_some] at hnone
    cases hnone.2
  · next hbit =>
    have hmajor := fMajor_of_longOp ((congrArg SkzOp.memMajor h).trans (memMajor_memOp st m))
    simp only [outsOf, hbit, hmajor]
    cases st <;> cases m <;> rfl

/-! ### One access -/

/-- The access of a long load or store. -/
def longAcc (st m : Bool) (w : Nat) (x : Ctx) : MemAcc where
  half := .long
  store := st
  va := (if m then x.rd (fRa w) else x.rd (fRa w) + sxWord 12 (bits w 11 0)).toNat
  size := typeSize (fType w)
  val := if st then storeVal x (fRd w) (typeSize (fType w)) else 0
  rt := fRd w
  sx := decide (4 ≤ fType w)

theorem longMem_acc (st m : Bool) (w : Nat) (x : Ctx) : (longMem st m w x).acc = some (longAcc st m w x) := rfl

namespace Dev
variable {s t : Dev} {c w pa : Nat} {o : OpOut} {a : MemAcc}

theorem resolve_one (s : Dev) (c : Nat) (a : MemAcc) : s.resolve c [a] =
    match s.lookAcc c a with
    | (.ok p, t) => (.ok [p], t)
    | (.miss, t) => (.miss a.va, t)
    | (.fault k, t) => (.fault k a.half a.store a.va, t) := rfl

section
variable (ho : outsOf w (s.ctx c) = [o]) (ha : o.acc = some a)
include ho ha

theorem memWord_fault {k : Nat} (h : s.lookAcc c a = (.fault k, t)) : s.memWord c w = t.faultCtx c k a.half false a.store a.va := by
  simp [Dev.memWord, ho, ha, resolve_one, h]

theorem memWord_miss (h : s.lookAcc c a = (.miss, t)) : s.memWord c w = t.updCtx c fun x => { x with stall := .walk a.va } := by
  simp [Dev.memWord, ho, ha, resolve_one, h]

theorem memWord_loadLocal (h : s.lookAcc c a = (.ok pa, t)) (hst : a.store = false) (hl : localTo c pa = true) :
    s.memWord c w = t.complete c [o] [t.ownLoad a pa] := by
  simp [Dev.memWord, ho, ha, resolve_one, h, hst, hl, Dev.ownAll, spread]

theorem memWord_loadFar (h : s.lookAcc c a = (.ok pa, t)) (hst : a.store = false) (hl : localTo c pa = false) :
    s.memWord c w = (t.updEng (engOf c) fun e => { e with seq := (t.engine (engOf c)).seq + 1 }).updCtx c fun x =>
      { x with stall := .data w [pa] 0 (t.engine (engOf c)).seq } := by
  simp [Dev.memWord, ho, ha, resolve_one, h, hst, hl]

theorem memWord_storeLocal (h : s.lookAcc c a = (.ok pa, t)) (hst : a.store = true) (hl : localTo c pa = true) :
    s.memWord c w = (t.makeStore c a pa).complete c [o] [0] := by
  simp [Dev.memWord, ho, ha, resolve_one, h, hst, hl, Dev.ownAll, spread]

theorem memWord_storeFar (h : s.lookAcc c a = (.ok pa, t)) (hst : a.store = true) (hl : localTo c pa = false) :
    s.memWord c w = if 8 < t.buffered c + 1 then t else (t.makeStore c a pa).complete c [o] [0] := by
  simp [Dev.memWord, ho, ha, resolve_one, h, hst, hl, Dev.ownAll, spread]

end

/-! ### The end of a word of one operation -/

theorem complete_one (s : Dev) (c : Nat) (o : OpOut) (v : Nat) : s.complete c [o] [v] =
    (s.updCtx c fun y => { o.apply v y with stall := .none, walkFlt := [] }).nextWord c := rfl

/-! ### The own data memory -/

section
variable {va : Nat} (hc : c < 256) (hva : va < 0x10000)
include hc hva

theorem translate_own (s : Dev) (st : Bool) : s.translate c va st = (.ok (dmemBase (rinkOf c) (c / 4 % 8) + va), s) := by
  have hpat : isPatrol c = false := decide_eq_false (by omega)
  simp [Dev.translate, hpat, hva]

theorem localTo_own : localTo c (dmemBase (rinkOf c) (c / 4 % 8) + va) = true := by
  have hpat : isPatrol c = false := decide_eq_false (by omega)
  simp [localTo, hpat, hva]

end

theorem lookAcc_own (hc : c < 256) (hlong : a.half = .long) (hva : a.va < 0x10000) (hal : a.va % a.size = 0)
    (hflt : (s.ctx c).walkFlt.lookup a.va = none) : s.lookAcc c a = (.ok (dmemBase (rinkOf c) (c / 4 % 8) + a.va), s) := by
  simp [Dev.lookAcc, hal, hflt, translate_own hc hva, hlong]

end Dev

/-- The displacement of a word, sign-extended. -/
theorem sxWord_bits (k n : Nat) : sxWord (k + 1) (bits n k 0) = (BitVec.ofNat (k + 1) n).signExtend 32 := by
  have hmod : bits n k 0 % 2 ^ (k + 1) = n % 2 ^ (k + 1) := by simp [bits]
  rw [sxWord, BitVec.signExtend, signed, hmod, BitVec.toInt_eq_toNat_cond, BitVec.toNat_ofNat, Nat.add_sub_cancel, Nat.pow_succ]
  congr 1
  simp only [Nat.mul_comm 2, Nat.mul_lt_mul_right (show 0 < 2 by decide)]

theorem typeSize_of_getElem? {t size : Nat} (h : [1, 2, 4, 8, 1, 2][t]? = some size) : typeSize t = size := by
  rw [typeSize, List.getD_eq_getElem?_getD, h, Option.getD_some]

/-- The base register after LOADM or STOREM (R143 to R145). -/
def longNext (w : Nat) (x : Ctx) : Word :=
  if fMode w = 0 then x.rd (fRa w) + sxWord 10 (bits w 9 0) else baseNext x (fMode w) (fRa w) (typeSize (fType w))

/-- The registers after the base update. -/
def longBase (m : Bool) (w : Nat) (x y : Ctx) : Ctx := if m then y.wr (fRa w) (longNext w x) else y

theorem longMem_apply_store (m : Bool) (w v : Nat) (x y : Ctx) : (longMem true m w x).apply v y = longBase m w x y := by
  cases m <;> rfl

theorem longMem_apply_load (m : Bool) (w v : Nat) (x y : Ctx) : (longMem false m w x).apply v y =
    let y := longBase m w x y
    if typeSize (fType w) = 8 then (y.wr (fRd w) (word v)).wr (fRd w + 1) (word (v / 2 ^ 32))
    else y.wr (fRd w) (if 4 ≤ fType w then sxWord (8 * typeSize (fType w)) v else word v) := by
  have hload : (longAcc false m w x).loaded v = if typeSize (fType w) = 8 then [(fRd w, word v), (fRd w + 1, word (v / 2 ^ 32))]
      else [(fRd w, if 4 ≤ fType w then sxWord (8 * typeSize (fType w)) v else word v)] := by
    simp [MemAcc.loaded, longAcc]
  have happly : (longMem false m w x).apply v y = ((longAcc false m w x).loaded v).foldl (fun x p => x.wr p.1 p.2) (longBase m w x y) := by
    cases m <;> rfl
  rw [happly, hload]
  split <;> rfl

namespace Dev
variable {s : Dev} {c w : Nat} {st m : Bool}

/-- A long load from the engine's own memory completes at once. -/
theorem memWord_ownLoad (hop : outsOf w (s.ctx c) = [longMem false m w (s.ctx c)]) (hc : c < 256) {va : Nat}
    (hva : (longAcc false m w (s.ctx c)).va = va) (hlt : va < 0x10000) (hal : va % typeSize (fType w) = 0)
    (hflt : (s.ctx c).walkFlt.lookup va = none) :
    s.memWord c w = s.complete c [longMem false m w (s.ctx c)] [s.load (dmemBase (rinkOf c) (c / 4 % 8) + va) (typeSize (fType w))] := by
  subst hva
  have hlook := lookAcc_own (a := longAcc false m w (s.ctx c)) hc rfl hlt hal hflt
  rw [memWord_loadLocal hop (longMem_acc ..) hlook rfl (localTo_own hc hlt)]
  rfl

/-- A long store to the engine's own memory completes at once. -/
theorem memWord_ownStore (hop : outsOf w (s.ctx c) = [longMem true m w (s.ctx c)]) (hc : c < 256) {va : Nat}
    (hva : (longAcc true m w (s.ctx c)).va = va) (hlt : va < 0x10000) (hal : va % typeSize (fType w) = 0)
    (hflt : (s.ctx c).walkFlt.lookup va = none) :
    let pa := dmemBase (rinkOf c) (c / 4 % 8) + va
    s.memWord c w = ((s.store pa (typeSize (fType w)) (storeVal (s.ctx c) (fRd w) (typeSize (fType w)))).travWrote pa
      (typeSize (fType w))).complete c [longMem true m w (s.ctx c)] [0] := by
  subst hva
  intro pa
  have hlook := lookAcc_own (a := longAcc true m w (s.ctx c)) hc rfl hlt hal hflt
  rw [memWord_storeLocal hop (longMem_acc ..) hlook rfl (localTo_own hc hlt), Dev.makeStore, if_pos (localTo_own hc hlt)]
  rfl

end Dev

/-! ### Words on the own data memory complete -/

/-- Settles O18: the access is translated to the engine's own memory, so the word makes it and completes at once. -/
theorem ownMemoryWordsComplete : Obligations.OwnMemoryWordsComplete := by
  unfold Obligations.OwnMemoryWordsComplete
  intro c s w size hw hc d x t rt ra own disp at_ next good load store done hsize
  obtain rfl : typeSize (fType w) = size := typeSize_of_getElem? hsize
  have hexec {st m : Bool} (h : s.dev.issues c (memOp st m)) :
      outsOf w x = [longMem st m w x] ∧ exec (memInstr c st m) s = .next (s.withDev (d.memWord c w)) := by
    subst hw
    exact ⟨outsOf_of_opOf h.2 x, by rw [exec_memInstr_eq, Dev.issue_issues _ h]⟩
  have hnext : longNext w x = next := by
    simp only [longNext, sxWord_bits 9]
    rfl
  have hdisp (st : Bool) : (longAcc st false w x).va = disp := by
    simp only [longAcc, sxWord_bits 11]
    rfl
  have hloads {m : Bool} {va : Nat} (h : s.dev.issues c (memOp false m)) (hva : (longAcc false m w x).va = va) (hgood : good va) :
      exec (memInstr c false m) s = .next (done (fun y => load va (if m then y.wr ra next else y)) d) := by
    obtain ⟨hout, he⟩ := hexec h
    obtain ⟨hlt, hal, hflt⟩ := hgood
    rw [he, Dev.memWord_ownLoad hout hc hva hlt hal hflt, Dev.complete_one]
    simp only [longMem_apply_load, longBase]
    rw [hnext]
    rfl
  have hstores {m : Bool} {va : Nat} (h : s.dev.issues c (memOp true m)) (hva : (longAcc true m w x).va = va) (hgood : good va) :
      exec (memInstr c true m) s = .next (done (fun y => { (if m then y.wr ra next else y) with stall := .none, walkFlt := [] }) (store va)) := by
    obtain ⟨hout, he⟩ := hexec h
    obtain ⟨hlt, hal, hflt⟩ := hgood
    rw [he, Dev.memWord_ownStore hout hc hva hlt hal hflt, Dev.complete_one]
    simp only [longMem_apply_store, longBase]
    rw [hnext]
    rfl
  exact ⟨fun h => hloads (m := false) h (hdisp false), fun h => hstores (m := false) h (hdisp true), fun h => hloads (m := true) h rfl,
    fun h => hstores (m := true) h rfl⟩

/-! ### What a word leaves: memory and general registers -/

theorem Ctx.rd_congr {x y : Ctx} (h : x.w = y.w) (r : Nat) : x.rd r = y.rd r := by simp only [Ctx.rd, h]

theorem Ctx.rd_wr_other (x : Ctx) {r k : Nat} (h : k ≠ r) (v : Word) : (x.wr r v).rd k = x.rd k := by
  by_cases hr : r = 0
  · rw [Ctx.wr, if_pos hr]
  · simp only [Ctx.wr, Ctx.rd, if_neg hr, Tab.get_set_other x.w v h]

theorem longBase_rd {m : Bool} {w r : Nat} (h : m = true → r ≠ fRa w) (x y : Ctx) : (longBase m w x y).rd r = y.rd r := by
  cases m with
  | false => rfl
  | true => exact Ctx.rd_wr_other y (h rfl) _

/-- A load writes rt, w(rt + 1) for a double word, and the base that it updates. -/
theorem longMem_apply_load_rd {m : Bool} {w r : Nat} (hbase : m = true → r ≠ fRa w) (ht : r ≠ fRd w)
    (ht' : typeSize (fType w) = 8 → r ≠ fRd w + 1) (v : Nat) (x y : Ctx) : ((longMem false m w x).apply v y).rd r = y.rd r := by
  rw [longMem_apply_load]
  dsimp only
  split
  · next h8 => rw [Ctx.rd_wr_other _ (ht' h8), Ctx.rd_wr_other _ ht, longBase_rd hbase]
  · rw [Ctx.rd_wr_other _ ht, longBase_rd hbase]

/-- Neither memory nor a general register of a context differs. -/
def Dev.SameData (s t : Dev) : Prop := t.mem = s.mem ∧ ∀ k, (t.ctx k).w = (s.ctx k).w

namespace Dev
variable {s t u : Dev} {c w pa : Nat} {o : OpOut} {a : MemAcc}

theorem SameData.refl (s : Dev) : s.SameData s := ⟨rfl, fun _ => rfl⟩

theorem SameData.trans (h : s.SameData t) (g : t.SameData u) : s.SameData u := ⟨g.1.trans h.1, fun k => (g.2 k).trans (h.2 k)⟩

theorem SameData.of_eng (hm : t.mem = s.mem) (he : t.eng = s.eng) : s.SameData t := ⟨hm, fun k => by simp only [Dev.ctx, he]⟩

theorem SameData.updCtx {f : Ctx → Ctx} (h : s.SameData t) (hf : ∀ x, (f x).w = x.w) : s.SameData (t.updCtx c f) := by
  refine h.trans ⟨rfl, fun k => ?_⟩
  rw [Dev.ctx_updCtx]
  split
  · next hk => rw [hf, hk]
  · rfl

theorem SameData.updEng {e : Nat} {f : Eng → Eng} (h : s.SameData t) : s.SameData (t.updEng e f) := h.trans ⟨rfl, fun _ => rfl⟩

theorem SameData.rd (h : s.SameData t) (k r : Nat) : (t.ctx k).rd r = (s.ctx k).rd r := Ctx.rd_congr (h.2 k) r

theorem sameData_issued (s : Dev) (c : Nat) : s.SameData (s.issued c) := (SameData.refl s).updEng.updCtx fun _ => rfl

theorem sameData_fillMicro (s : Dev) (c : Nat) (e : TlbE) : s.SameData (s.fillMicro c e) :=
  SameData.updCtx (.of_eng rfl rfl) fun _ => rfl

theorem sameData_translate (s : Dev) (c va : Nat) (st : Bool) : s.SameData (s.translate c va st).2 := by
  have hrefl := SameData.refl s
  unfold Dev.translate
  dsimp only
  split
  · exact hrefl
  split
  · exact hrefl
  split
  · exact hrefl
  split
  · exact hrefl
  split
  · exact hrefl
  split
  · exact sameData_fillMicro ..
  · exact hrefl

theorem sameData_lookAcc (s : Dev) (c : Nat) (a : MemAcc) : s.SameData (s.lookAcc c a).2 := by
  have htrans := sameData_translate s c a.va a.store
  unfold Dev.lookAcc
  split
  · exact .refl s
  split
  · exact .refl s
  split
  · next heq => rwa [heq] at htrans
  · exact htrans

/-- An access whose address comes out is translated to that address. -/
theorem translate_of_lookAcc_ok (h : (s.lookAcc c a).1 = .ok pa) : (s.translate c a.va a.store).1 = .ok pa := by
  unfold Dev.lookAcc at h
  split at h
  · cases h
  split at h
  · cases h
  split at h
  · next heq =>
    rw [heq]
    dsimp only at h ⊢
    split at h
    · cases h
    · exact h
  · exact h

theorem sameData_ringMask (s : Dev) (n mask : Nat) : s.SameData (s.ringMask n mask) := by
  rw [Dev.ringMask_frame]
  exact .of_eng rfl rfl

theorem sameData_faultBell (s : Dev) (n : Nat) : s.SameData (s.faultBell n) := by
  unfold Dev.faultBell
  split <;> exact Dev.when_keeps (P := s.SameData) (fun t h => h.trans (sameData_ringMask ..)) s (.refl s)

theorem sameData_showState (s : Dev) (c : Nat) : s.SameData (s.showState c) := by
  unfold Dev.showState
  split
  · exact .refl s
  · exact .of_eng rfl rfl

theorem sameData_setSt (s : Dev) (c : Nat) (x : CtxSt) : s.SameData (s.setSt c x) := by
  have hupd : s.SameData (s.updCtx c fun y => { y with st := x }) := (SameData.refl s).updCtx fun _ => rfl
  exact hupd.trans (sameData_showState ..)

theorem sameData_faultCtx (s : Dev) (c code : Nat) (half : Half) (done store : Bool) (va : Nat) :
    s.SameData (s.faultCtx c code half done store va) := by
  have hupd : s.SameData (s.updCtx c fun x => { x with stall := .none, walkFlt := [] }) := (SameData.refl s).updCtx fun _ => rfl
  have hst := hupd.trans (sameData_setSt _ c .faulted)
  unfold Dev.faultCtx
  dsimp only
  split <;> exact (hst.trans (.of_eng rfl rfl)).trans (sameData_faultBell ..)

/-! ### What a word of one access can do -/

section
variable (ho : outsOf w (s.ctx c) = [o]) (ha : o.acc = some a)
include ho ha

/-- A word with a load keeps all data, or completes with a value for the load. -/
theorem memWord_load_cases (hst : a.store = false) : s.SameData (s.memWord c w) ∨
    ∃ t v, s.SameData t ∧ s.memWord c w = t.complete c [o] [v] := by
  have hsame := sameData_lookAcc s c a
  match hl : s.lookAcc c a with
  | (.fault k, t) =>
    rw [hl] at hsame
    exact .inl (by rw [memWord_fault ho ha hl]; exact hsame.trans (sameData_faultCtx ..))
  | (.miss, t) =>
    rw [hl] at hsame
    exact .inl (by rw [memWord_miss ho ha hl]; exact hsame.updCtx fun _ => rfl)
  | (.ok pa, t) =>
    rw [hl] at hsame
    cases hlocal : localTo c pa with
    | true => exact .inr ⟨t, _, hsame, memWord_loadLocal ho ha hl hst hlocal⟩
    | false => exact .inl (by rw [memWord_loadFar ho ha hl hst hlocal]; exact hsame.updEng.updCtx fun _ => rfl)

/-- A word with a store keeps all data, or makes the store at the translated address and completes. -/
theorem memWord_store_cases (hst : a.store = true) : s.SameData (s.memWord c w) ∨
    ∃ t pa, s.SameData t ∧ (s.translate c a.va true).1 = .ok pa ∧ s.memWord c w = (t.makeStore c a pa).complete c [o] [0] := by
  have hsame := sameData_lookAcc s c a
  match hl : s.lookAcc c a with
  | (.fault k, t) =>
    rw [hl] at hsame
    exact .inl (by rw [memWord_fault ho ha hl]; exact hsame.trans (sameData_faultCtx ..))
  | (.miss, t) =>
    rw [hl] at hsame
    exact .inl (by rw [memWord_miss ho ha hl]; exact hsame.updCtx fun _ => rfl)
  | (.ok pa, t) =>
    have hpa : (s.translate c a.va true).1 = .ok pa := hst ▸ translate_of_lookAcc_ok (by rw [hl])
    rw [hl] at hsame
    cases hlocal : localTo c pa with
    | true => exact .inr ⟨t, pa, hsame, hpa, memWord_storeLocal ho ha hl hst hlocal⟩
    | false =>
      rw [memWord_storeFar ho ha hl hst hlocal]
      split
      · exact .inl hsame
      · exact .inr ⟨t, pa, hsame, hpa, rfl⟩

end

theorem travWrote_same (s : Dev) (pa n : Nat) : (s.travWrote pa n).mem = s.mem ∧ (s.travWrote pa n).eng = s.eng := by
  refine Dev.each_keeps (P := fun t => t.mem = s.mem ∧ t.eng = s.eng) (fun k _ t h => ?_) s ⟨rfl, rfl⟩
  split
  · exact h
  · exact Dev.when_keeps (P := fun t => t.mem = s.mem ∧ t.eng = s.eng) (f := fun s => s.count .MAC_TRAV_LATE_CNT k) (fun _ h => h) t h

theorem makeStore_byte (s : Dev) (c : Nat) (a : MemAcc) (pa x : Nat) (h : ¬(pa ≤ x ∧ x < pa + a.size)) :
    (s.makeStore c a pa).byte x = s.byte x := by
  unfold Dev.makeStore
  split
  · rw [Dev.byte_congr (travWrote_same ..).1]
    exact Dev.byte_setBytes_other _ _ _ (by rw [leBytes_length]; omega) s
  · rfl

theorem makeStore_ctx (s : Dev) (c : Nat) (a : MemAcc) (pa : Nat) (k : Nat) : (s.makeStore c a pa).ctx k = s.ctx k := by
  have hstore : (s.store pa a.size a.val).eng = s.eng := by rw [Dev.store, Dev.setBytes_frame]
  unfold Dev.makeStore
  split
  · simp only [Dev.ctx, (travWrote_same ..).2, hstore]
  · rfl

theorem complete_one_mem (s : Dev) (c : Nat) (o : OpOut) (v : Nat) : (s.complete c [o] [v]).mem = s.mem := rfl

theorem complete_one_rd (s : Dev) (c : Nat) (o : OpOut) (v r : Nat) :
    ((s.complete c [o] [v]).ctx c).rd r = (o.apply v (s.ctx c)).rd r := by
  rw [complete_one, Dev.nextWord, Dev.goto, Dev.ctx_updCtx_same, Dev.ctx_updCtx_same]
  rfl

end Dev

/-! ### What the command leaves -/

/-- A command of these rows has its word's effect on the device that has issued it, or none. -/
theorem memInstr_cases {c : CtxId} {st m : Bool} {s t : State} (h : exec (memInstr c st m) s = .next t) :
    t = s ∨ ∃ w d, w = s.dev.fetchWord c ∧ d = s.dev.issued c ∧ outsOf w (d.ctx c) = [longMem st m w (d.ctx c)] ∧ t = s.withDev (d.memWord c w) := by
  rw [exec_memInstr_eq] at h
  cases h
  by_cases hi : s.dev.issues c (memOp st m)
  · exact .inr ⟨_, _, rfl, rfl, outsOf_of_opOf hi.2 _, by rw [Dev.issue_issues _ hi]⟩
  · exact .inl (by rw [Dev.issue_else _ hi, State.withDev_self])

/-- A load keeps memory, and every register that it does not name. -/
theorem memInstr_load_frame {c : CtxId} {m : Bool} {s t : State} (h : exec (memInstr c false m) s = .next t) :
    let w := s.dev.fetchWord c
    t.dev.mem = s.dev.mem ∧ ∀ r, (m = true → r ≠ fRa w) → r ≠ fRd w → (typeSize (fType w) = 8 → r ≠ fRd w + 1) →
      (t.dev.ctx c).rd r = (s.dev.ctx c).rd r := by
  rcases memInstr_cases h with rfl | ⟨w, d, rfl, rfl, hout, rfl⟩
  · exact ⟨rfl, fun _ _ _ _ => rfl⟩
  · have hissued := Dev.sameData_issued s.dev c
    rcases Dev.memWord_load_cases hout (longMem_acc ..) rfl with hsame | ⟨d', v, hsame, hword⟩
    · exact ⟨(hissued.trans hsame).1, fun r _ _ _ => (hissued.trans hsame).rd c r⟩
    · have hdata := hissued.trans hsame
      refine ⟨?_, fun r hbase ht ht' => ?_⟩
      · rw [State.withDev_dev, hword, Dev.complete_one_mem, hdata.1]
      · rw [State.withDev_dev, hword, Dev.complete_one_rd, longMem_apply_load_rd hbase ht ht', hdata.rd]

/-- A store keeps every byte but those at its translated address, and every register but a base that it updates. -/
theorem memInstr_store_frame {c : CtxId} {m : Bool} {s t : State} (h : exec (memInstr c true m) s = .next t) :
    let w := s.dev.fetchWord c
    let d := s.dev.issued c
    (∀ a, (∀ pa, (d.translate c (longAcc true m w (d.ctx c)).va true).1 = .ok pa → ¬(pa ≤ a ∧ a < pa + typeSize (fType w))) →
      t.dev.byte a = s.dev.byte a) ∧ ∀ r, (m = true → r ≠ fRa w) → (t.dev.ctx c).rd r = (s.dev.ctx c).rd r := by
  rcases memInstr_cases h with rfl | ⟨w, d, rfl, rfl, hout, rfl⟩
  · exact ⟨fun _ _ => rfl, fun _ _ => rfl⟩
  · have hissued := Dev.sameData_issued s.dev c
    rcases Dev.memWord_store_cases hout (longMem_acc ..) rfl with hsame | ⟨d', pa, hsame, hpa, hword⟩
    · exact ⟨fun a _ => Dev.byte_congr (hissued.trans hsame).1 a, fun r _ => (hissued.trans hsame).rd c r⟩
    · have hdata := hissued.trans hsame
      refine ⟨fun a ha => ?_, fun r hbase => ?_⟩
      · rw [State.withDev_dev, hword, Dev.byte_congr (Dev.complete_one_mem ..), Dev.makeStore_byte _ _ _ _ _ (ha pa hpa),
          Dev.byte_congr hdata.1]
      · rw [State.withDev_dev, hword, Dev.complete_one_rd, longMem_apply_store, longBase_rd hbase, Dev.makeStore_ctx, hdata.rd]

/-- Settles O27: the one store that a word makes is at its translated address, and a completed word writes its base and the target of its load. -/
theorem loadStoreFrame : Obligations.LoadStoreFrame := by
  unfold Obligations.LoadStoreFrame
  intro c s t w hw d x rt ra va size
  subst hw
  refine ⟨?loadMem, fun m h a hpa => ?storeMem, fun h r => ?store, fun h r hr => ?storem, fun h r hrt hrt' => ?load,
    fun h r hra hrt hrt' => ?loadm⟩
  case loadMem =>
    rintro (h | h)
    · exact (memInstr_load_frame (m := false) h).1
    · exact (memInstr_load_frame (m := true) h).1
  case storeMem =>
    have hva : (longAcc true m (s.dev.fetchWord c) x).va = va m := by
      simp only [longAcc, sxWord_bits 11]
      rfl
    have hexec : exec (memInstr c true m) s = .next t := by cases m <;> exact h
    exact (memInstr_store_frame hexec).1 a fun pa h => hpa pa (hva ▸ h)
  case store => exact (memInstr_store_frame (m := false) h).2 r nofun
  case storem => exact (memInstr_store_frame (m := true) h).2 r fun _ => hr
  case load => exact (memInstr_load_frame (m := false) h).2 r nofun hrt hrt'
  case loadm => exact (memInstr_load_frame (m := true) h).2 r (fun _ => hra) hrt hrt'

end Sys2Proof.Machine
end

section
/-! What the operations of the engines leave of the registers: a write of one register leaves every copy of another; the runs that are lost with a job
(R428) and the part of the pair that yields (R453) leave the engines. -/

namespace Sys2Proof.Machine

/-- Copies of two registers stand at different addresses. -/
theorem Reg.HasCopy.addr_ne {q r : Reg} {a b c i j k : Nat} (hq : q.HasCopy a b c) (hr : r.HasCopy i j k) (hne : q ≠ r) :
    q.addr a b c ≠ r.addr i j k := by
  intro haddr
  have hblk := hq.blockAt_addr
  rw [haddr, hr.blockAt_addr] at hblk
  obtain ⟨hsame, -⟩ := Prod.mk.inj (Option.some.inj hblk)
  have hcopy := hq.copyAt_addr
  rcases Block.regs_apart q.mem_regs (hsame ▸ r.mem_regs) hne (q.addr a b c) with hnone | hnone
  · rw [hcopy] at hnone
    cases hnone
  · rw [haddr, hr.copyAt_addr] at hnone
    cases hnone

namespace Dev
variable (s : Dev)

theorem reg_setReg_apart {q r : Reg} {a b c i j k : Nat} (hq : q.HasCopy a b c) (hr : r.HasCopy i j k) (hne : q ≠ r) (v : Nat) :
    (s.setReg r v i j k).reg q a b c = s.reg q a b c := s.reg_setReg_other (hq.addr_ne hr hne) v

/-! ### Runs that are lost, and the part that yields -/

theorem reapRuns_keeps {P : Dev → Prop} (hfld : ∀ s, ∀ t < 16, P s → P (s.setFld .CTL_TASK_STAT_RUN 0 t))
    (htask : ∀ s t f, P s → P (s.updTask t f)) (h : P s) : P s.reapRuns := by
  refine Dev.each_keeps (fun t ht s hs => ?_) s h
  dsimp only
  split
  · exact hs
  split
  · exact hs
  · exact htask _ _ _ (hfld s t (List.mem_range.mp ht) hs)

theorem reapRuns_mem : s.reapRuns.mem = s.mem := s.reapRuns_keeps (P := fun t => t.mem = s.mem) (fun _ _ _ h => h) (fun _ _ _ h => h) rfl

theorem reapRuns_eng : s.reapRuns.eng = s.eng := s.reapRuns_keeps (P := fun t => t.eng = s.eng) (fun _ _ _ h => h) (fun _ _ _ h => h) rfl

theorem reapRuns_reg {q : Reg} {a b c : Nat} (hq : q.HasCopy a b c) (hne : q ≠ .CTL_TASK_STAT) : s.reapRuns.reg q a b c = s.reg q a b c := by
  refine s.reapRuns_keeps (P := fun t => t.reg q a b c = s.reg q a b c) (fun u t ht h => ?_) (fun _ _ _ h => h) rfl
  have hcopy : Reg.CTL_TASK_STAT.HasCopy t 0 0 := ⟨ht, by decide, by decide⟩
  exact (u.reg_setReg_apart hq hcopy hne _).trans h

theorem autoYield_frame : s.autoYield = { s with par := s.autoYield.par } := by
  unfold Dev.autoYield
  split <;> rfl

/-! ### Writes of the pages of a rink -/

theorem copyStore_rnk {r : Reg} (hs : r.single = true) (hb : r.info.blk = .RNK) (i j mid ctx v : Nat) :
    s.copyStore r i j 0 mid ctx v = s.rnkWriteAll r i j mid ctx v := by
  rw [Dev.copyStore_single _ hs, Dev.regStore, hb]

/-- A write that takes no engine offline. -/
theorem rnkWriteAll_online {r : Reg} {i j mid ctx v : Nat} (hi : i < 8)
    (h : (s.rnkWrite r i j mid ctx v).reg .RNK_STATUS i = s.reg .RNK_STATUS i) :
    s.rnkWriteAll r i j mid ctx v = (s.rnkWrite r i j mid ctx v).reapRuns := by
  have hcopy : Reg.RNK_STATUS.HasCopy i 0 0 := ⟨hi, by decide, by decide⟩
  have hfld : (s.rnkWrite r i j mid ctx v).reapRuns.fld .RNK_STATUS_ENG_ONLINE i = s.fld .RNK_STATUS_ENG_ONLINE i := by
    rw [Dev.fld, Dev.fld]
    exact congrArg (bits · _ _) ((reapRuns_reg _ hcopy (by decide)).trans h)
  exact if_pos hfld

end Dev

end Sys2Proof.Machine
end

section
/-! O41: jobs enter and leave the queues (R90, R92, R110). A push to an engine that is online, with room and firmware, joins that engine's queue. The
selection of R92 is two searches of ordered lists: of the priorities from the highest, and of the idle contexts from the lowest. -/

namespace Sys2Proof.Machine

/-! ### Searches -/

/-- In a list ordered by `R`, the first element that `p` selects is before every other one. -/
theorem exists_find?_of_pairwise {α : Type} {R : α → α → Prop} {l : List α} (hl : l.Pairwise R) {p : α → Bool} {x : α} (hx : x ∈ l)
    (hp : p x = true) : ∃ y, l.find? p = some y ∧ y ∈ l ∧ p y = true ∧ ∀ z ∈ l, p z = true → z = y ∨ R y z := by
  obtain ⟨y, hy⟩ := Option.isSome_iff_exists.mp (List.find?_isSome.mpr ⟨x, hx, hp⟩)
  obtain ⟨hpy, as, bs, rfl, has⟩ := List.find?_eq_some_iff_append.mp hy
  refine ⟨y, hy, by simp, hpy, fun z hz hpz => ?_⟩
  rcases List.mem_append.mp hz with hz | hz
  · have hnot := has z hz
    simp [hpz] at hnot
  · obtain ⟨-, htail, -⟩ := List.pairwise_append.mp hl
    exact (List.mem_cons.mp hz).imp_right (List.rel_of_pairwise_cons htail)

theorem takeFirst_append {p : Nat × Job → Bool} {l : List (Nat × Job)} (hl : ∀ x ∈ l, p x = false) {j : Nat × Job} (hj : p j = true)
    (r : List (Nat × Job)) : takeFirst p (l ++ j :: r) = some (j.2, l ++ r) := by
  induction l with
  | nil => simp [takeFirst, hj]
  | cons x l ih =>
    have htail := ih fun y hy => hl y (List.mem_cons_of_mem x hy)
    simp [takeFirst, hl x List.mem_cons_self, htail]

/-- A list with an element that `p` selects, split at the first of them. -/
theorem exists_split_of_mem {α : Type} {p : α → Bool} {q : List α} {x : α} (hx : x ∈ q) (hp : p x = true) :
    ∃ l j r, q = l ++ j :: r ∧ p j = true ∧ ∀ y ∈ l, p y = false := by
  obtain ⟨j, hj⟩ := Option.isSome_iff_exists.mp (List.find?_isSome.mpr ⟨x, hx, hp⟩)
  obtain ⟨hpj, l, r, hq, hl⟩ := List.find?_eq_some_iff_append.mp hj
  exact ⟨l, j, r, hq, hpj, fun y hy => by simpa using hl y hy⟩

/-! ### A push that is taken -/

namespace Dev
variable {s : Dev}

section
variable {n : Nat} {j : Job} (honline : s.engOnline n j.engine = true) (hfw : bit (s.reg .RNK_FWMASK n) j.fwid = true)
  (hroom : (s.queue (n * 8 + j.engine)).length < 64)
include honline hfw hroom

theorem offer_accepted {hw : Option Producer} {front : Bool} (hfront : hw = none ∨ front = true) (moved : Bool) :
    s.offer n j.engine j hw moved front = (.accepted, (s.enqueue (n * 8 + j.engine) j).noticed) := by
  have hbehind : (hw.isSome && !front && !(s.eng.waiting.get (n * 8 + j.engine)).isEmpty) = false := by
    rcases hfront with rfl | rfl <;> simp
  simp only [Dev.offer, honline, hfw, hroom, hbehind, if_true, Bool.not_true, Bool.false_eq_true, if_false, decide_true, Bool.and_self,
    Bool.not_false]

theorem push_accepted (hroute : s.routeFails n = false) {hw : Option Producer} {front : Bool} (hfront : hw = none ∨ front = true)
    (moved : Bool) : s.push n j hw moved front = (.accepted, (s.enqueue (n * 8 + j.engine) j).noticed) := by
  rw [Dev.push, hroute, Bool.not_false, if_pos rfl, offer_accepted honline hfw hroom hfront]

end

theorem setQueue_rink (s : Dev) {ge : Nat} (h : ge ≠ 64) (q : List (Nat × Job)) : s.setQueue ge q =
    ({ s with eng := { s.eng with queue := s.eng.queue.set ge q } }).setFld .RNK_ENG_STATUS_QDEPTH q.length (ge / 8) (ge % 8) := if_neg h

/-- A job that joins a queue leaves the status of every rink. -/
theorem enqueue_status (s : Dev) {ge n : Nat} (hge : ge < 64) (hn : n < 8) (j : Job) :
    (s.enqueue ge j).reg .RNK_STATUS n = s.reg .RNK_STATUS n := by
  have hstatus : Reg.RNK_STATUS.HasCopy n 0 0 := ⟨hn, by decide, by decide⟩
  have hdepth : Reg.RNK_ENG_STATUS.HasCopy (ge / 8) (ge % 8) 0 := ⟨Nat.div_lt_of_lt_mul hge, Nat.mod_lt _ (by decide), by decide⟩
  rw [Dev.enqueue, setQueue_rink _ (by omega)]
  exact reg_setReg_apart _ hstatus hdepth (by decide) _

theorem noticed_regs (s : Dev) : s.noticed.regs = s.regs := rfl

end Dev

theorem Job.engine_lt (j : Job) : j.engine < 8 := bits_lt ..

theorem Job.prio_lt (j : Job) : j.prio < 4 := bits_lt ..

namespace Dev
variable {s : Dev}

/-- The staged descriptor and the device without it, once word 7 of a push window is written. -/
def committed (s : Dev) (n mid ctx v : Nat) : Job × Dev := (s.stagePush n 7 mid ctx v).takeStaged n mid ctx

theorem committed_frame (s : Dev) (n mid ctx v : Nat) :
    (s.committed n mid ctx v).2 = { s with eng := { s.eng with staged := (s.committed n mid ctx v).2.eng.staged } } := rfl

theorem rowWrite_push {who : Agent} {n : Nat} (hn : n < 8) {v : Nat} (hreach : s.reaches who .RNK_PUSH n 7 true) {j : Job} {e : Dev}
    (hje : s.committed n who.mid who.ctx v = (j, e)) (hroute : e.routeFails n = false) (honline : e.engOnline n j.engine = true)
    (hfw : bit (e.reg .RNK_FWMASK n) j.fwid = true) (hroom : (e.queue (n * 8 + j.engine)).length < 64) :
    s.rowWrite who .RNK_PUSH v n 7 = (e.enqueue (n * 8 + j.engine) j).noticed.reapRuns := by
  have hwrite : s.rnkWrite .RNK_PUSH n 7 who.mid who.ctx v = (e.enqueue (n * 8 + j.engine) j).noticed := by
    have htake : (s.stagePush n 7 who.mid who.ctx v).takeStaged n who.mid who.ctx = (j, e) := hje
    simp only [Dev.rnkWrite, Dev.pushWrite, if_true, htake, push_accepted honline hfw hroom hroute (.inl rfl)]
  have hreg : e.reg .RNK_STATUS n = s.reg .RNK_STATUS n := by
    have he : e = _ := (congrArg Prod.snd hje).symm.trans (committed_frame ..)
    rw [he]
    rfl
  have := j.engine_lt
  rw [Dev.rowWrite_reaches hreach, copyStore_rnk s rfl rfl, rnkWriteAll_online s hn, hwrite]
  rw [hwrite, Dev.reg_congr (noticed_regs _), enqueue_status e (by omega) hn, hreg]

/-- The push that waits first at a queue with room is taken again, since no push stands before it. -/
theorem queueRoom_accepted {ge : Nat} {p : Producer} {j : Job} {moved : Bool} {l : List (Producer × Job × Bool)}
    (hwait : s.eng.waiting.get ge = (p, j, moved) :: l) (hroute : s.routeFails (ge / 8) = false) (honline : s.engOnline (ge / 8) j.engine = true)
    (hfw : bit (s.reg .RNK_FWMASK (ge / 8)) j.fwid = true) (hroom : (s.queue (ge / 8 * 8 + j.engine)).length < 64) :
    s.queueRoom ge = ((Dev.enqueue (ge / 8 * 8 + j.engine) j { s with eng := { s.eng with waiting := s.eng.waiting.set ge l } }).noticed.count
      .RNK_QWAIT_CNT (ge / 8)).entered p j := by
  have hpush := push_accepted (s := { s with eng := { s.eng with waiting := s.eng.waiting.set ge l } }) honline hfw hroom hroute
    (hw := some p) (front := true) (.inr rfl) moved
  simp only [Dev.queueRoom, hwait, hpush]

/-! ### The job that is taken -/

/-- A job of priority `p` waits at a queue for an idle context that accepts it. -/
def takesAt (s : Dev) (ge p : Nat) : Bool := (s.queue ge).any (fun j => j.2.prio == p) && (s.idleCtx ge).any fun c => s.accepts c p

theorem takePrio_eq (s : Dev) (ge : Nat) : s.takePrio ge (s.idleCtx ge) = [3, 2, 1, 0].find? (s.takesAt ge) := rfl

theorem takesAt_iff {ge p : Nat} : s.takesAt ge p = true ↔ (∃ j ∈ s.queue ge, j.2.prio = p) ∧ ∃ c ∈ s.idleCtx ge, s.accepts c p = true := by
  simp only [takesAt, Bool.and_eq_true, List.any_eq_true, beq_iff_eq]

/-- The selected priority is the highest at which a job can be taken (R92). -/
theorem takePrio_of_takesAt {ge q : Nat} (hq : q < 4) (h : s.takesAt ge q = true) :
    ∃ p, s.takePrio ge (s.idleCtx ge) = some p ∧ s.takesAt ge p = true ∧ ∀ z < 4, s.takesAt ge z = true → z ≤ p := by
  have hmem {z : Nat} (hz : z < 4) : z ∈ [3, 2, 1, 0] := by
    simp only [List.mem_cons, List.not_mem_nil, or_false]
    omega
  have hdesc : [3, 2, 1, 0].Pairwise fun a b : Nat => b < a := by decide
  obtain ⟨p, hfind, -, hp, hmax⟩ := exists_find?_of_pairwise hdesc (hmem hq) h
  refine ⟨p, hfind, hp, fun z hz hzp => ?_⟩
  rcases hmax z (hmem hz) hzp with rfl | hlt
  · exact Nat.le_refl _
  · exact Nat.le_of_lt hlt

theorem idleCtx_pairwise (s : Dev) (ge : Nat) : (s.idleCtx ge).Pairwise (· < ·) :=
  (List.pairwise_map.mpr (List.pairwise_lt_range.imp fun h => Nat.add_lt_add_left h _)).filter _

theorem jobTake_of_mem {ge k : Nat} {x : Nat × Job} (hx : x ∈ s.queue ge) (hk : k ∈ s.idleCtx ge) (hacc : s.accepts k x.2.prio = true) :
    ∃ l j r c, s.queue ge = l ++ j :: r ∧ c ∈ s.idleCtx ge ∧ s.accepts c j.2.prio = true ∧
      (∀ y ∈ s.queue ge, ∀ b ∈ s.idleCtx ge, s.accepts b y.2.prio = true → y.2.prio ≤ j.2.prio) ∧ (∀ y ∈ l, y.2.prio ≠ j.2.prio) ∧
      (∀ b ∈ s.idleCtx ge, s.accepts b j.2.prio = true → c ≤ b) ∧ s.jobTake ge = (s.setQueue ge (l ++ r)).loadJob c j.2 := by
  obtain ⟨p, hprio, hp, hmax⟩ := takePrio_of_takesAt x.2.prio_lt (takesAt_iff.mpr ⟨⟨x, hx, rfl⟩, k, hk, hacc⟩)
  obtain ⟨⟨x', hx', hxp⟩, k', hk', hkp⟩ := takesAt_iff.mp hp
  obtain ⟨l, j, r, hq, hj, hl⟩ := exists_split_of_mem (p := fun j => j.2.prio == p) hx' (by simpa using hxp)
  obtain ⟨c, hfind, hc, hcp, hmin⟩ := exists_find?_of_pairwise (s.idleCtx_pairwise ge) (p := fun c => s.accepts c p) hk' hkp
  obtain rfl : j.2.prio = p := by simpa using hj
  refine ⟨l, j, r, c, hq, hc, hcp, fun y hy b hb hby => hmax _ y.2.prio_lt (takesAt_iff.mpr ⟨⟨y, hy, rfl⟩, b, hb, hby⟩),
    fun y hy => by simpa using hl y hy, fun b hb hbp => ?_, ?_⟩
  · rcases hmin b hb hbp with rfl | hlt
    · exact Nat.le_refl _
    · exact Nat.le_of_lt hlt
  · have htake := takeFirst_append hl hj r
    rw [← hq] at htake
    simp only [Dev.jobTake, hprio, htake, hfind]

end Dev

/-! ### The rows -/

section
variable (s : State)

theorem exec_pushCommit_eq (who : Agent) (n : Fin 8) (v : Word) :
    exec (.pushCommit who n v) s = .next (s.withDev (s.dev.rowWrite who .RNK_PUSH v.toNat n 7)) := rfl

theorem exec_queueRoomPush_eq (e : Fin 64) : exec (.queueRoomPush e) s = .next (s.withDev (s.dev.queueRoom e)) := rfl

theorem exec_jobTake_eq (e : Fin 65) : exec (.jobTake e) s = .next (s.withDev (s.dev.jobTake e)) := rfl

end

/-- Settles O41: a push that the router delivers is accepted, and the job taken is the first of the highest priority that an idle context accepts. -/
theorem queueRowsComplete : Obligations.QueueRowsComplete := by
  unfold Obligations.QueueRowsComplete
  intro s d
  refine ⟨?commit, ?room, fun e x k hx hk hacc => ?take⟩
  case commit =>
    intro who n v hreach j e hroute honline hfw hroom
    refine ⟨?_, rfl⟩
    rw [exec_pushCommit_eq, Dev.rowWrite_push (e := e) (j := j) n.isLt hreach rfl hroute honline hfw hroom]
  case room =>
    intro e p j mv l hwait hroute honline hfw hroom
    rw [exec_queueRoomPush_eq, Dev.queueRoom_accepted hwait hroute honline hfw hroom]
  case take =>
    obtain ⟨l, j, r, c, hq, hc, hcj, hmax, hl, hmin, htake⟩ := Dev.jobTake_of_mem hx hk hacc
    exact ⟨l, j, r, c, hq, hc, hcj, hmax, hl, hmin, by rw [exec_jobTake_eq, htake]⟩

end Sys2Proof.Machine
end

section
/-! O42: stealing (R93 to R95). A thief takes the first job that it may take of a queue; a rink answers a request from the queue whose first such job
arrived before those of the others; Patrol answers from its one queue. -/

namespace Sys2Proof.Machine

/-! ### Searches -/

theorem takeFirst_none {p : Nat × Job → Bool} {l : List (Nat × Job)} (hl : ∀ x ∈ l, p x = false) : takeFirst p l = none := by
  induction l with
  | nil => rfl
  | cons x l ih =>
    have htail := ih fun y hy => hl y (List.mem_cons_of_mem x hy)
    simp [takeFirst, hl x List.mem_cons_self, htail]

theorem takeSteal_append {c : Nat} {l : List Steal} (hl : ∀ x ∈ l, x.thief ≠ c) {t : Steal} (ht : t.thief = c) (r : List Steal) :
    takeSteal c (l ++ t :: r) = some (t, l ++ r) := by
  induction l with
  | nil => simp [takeSteal, ht]
  | cons x l ih =>
    have htail := ih fun y hy => hl y (List.mem_cons_of_mem x hy)
    simp [takeSteal, hl x List.mem_cons_self, htail]

/-- A fold that keeps the element of the lower number ends at an element of the lowest number. -/
theorem foldl_lower (t : List (Nat × Nat)) (a : Nat × Nat) :
    t.foldl (fun b x => if x.1 < b.1 then x else b) a ∈ a :: t ∧
      ∀ x ∈ a :: t, (t.foldl (fun b x => if x.1 < b.1 then x else b) a).1 ≤ x.1 := by
  induction t generalizing a with
  | nil => simp
  | cons y t ih =>
    obtain ⟨hmem, hle⟩ := ih (if y.1 < a.1 then y else a)
    rw [List.foldl_cons]
    have hfirst := hle _ List.mem_cons_self
    refine ⟨?_, fun x hx => ?_⟩
    · rcases List.mem_cons.mp hmem with h | h
      · rw [h]
        split <;> simp
      · exact List.mem_cons_of_mem _ (List.mem_cons_of_mem _ h)
    · rcases List.mem_cons.mp hx with rfl | hx
      · refine hfirst.trans ?_
        split <;> omega
      · rcases List.mem_cons.mp hx with rfl | hx
        · refine hfirst.trans ?_
          split <;> omega
        · exact hle x (List.mem_cons_of_mem _ hx)

namespace Dev
variable {s : Dev}

/-! ### The oldest job of a rink -/

section
variable {v : Nat} {p : Nat × Job → Bool}

/-- The arrival number of the oldest selected job of each queue of a rink that has one, with its engine. -/
def heads (s : Dev) (v : Nat) (p : Nat × Job → Bool) : List (Nat × Nat) :=
  (List.range 8).filterMap fun e => ((s.queue (v * 8 + e)).find? p).map fun j => (j.1, e)

theorem mem_heads {x : Nat × Nat} : x ∈ s.heads v p ↔ x.2 < 8 ∧ ∃ j, (s.queue (v * 8 + x.2)).find? p = some j ∧ j.1 = x.1 := by
  obtain ⟨m, e⟩ := x
  simp only [heads, List.mem_filterMap, List.mem_range, Option.map_eq_some_iff, Prod.mk.injEq]
  constructor
  · rintro ⟨e', he, j, hj, hm, rfl⟩
    exact ⟨he, j, hj, hm⟩
  · rintro ⟨he, j, hj, hm⟩
    exact ⟨e, he, j, hj, hm, rfl⟩

theorem oldestOf_heads (s : Dev) (v : Nat) (p : Nat × Job → Bool) : s.oldestOf v p = match s.heads v p with
    | [] => none
    | a :: t => some (t.foldl (fun b x => if x.1 < b.1 then x else b) a).2 := rfl

theorem oldestOf_none (h : ∀ k < 8, ∀ x ∈ s.queue (v * 8 + k), p x = false) : s.oldestOf v p = none := by
  have hnil : s.heads v p = [] := by
    refine List.eq_nil_iff_forall_not_mem.mpr fun x hx => ?_
    obtain ⟨he, j, hj, -⟩ := mem_heads.mp hx
    have hsel := List.find?_some hj
    rw [h x.2 he j (List.mem_of_find?_eq_some hj)] at hsel
    cases hsel
  rw [oldestOf_heads, hnil]

/-- The queue whose first selected job arrived before every selected job of the other queues. -/
theorem oldestOf_eq {k : Nat} (hk : k < 8) {j : Nat × Job} (hj : (s.queue (v * 8 + k)).find? p = some j)
    (hothers : ∀ k' < 8, k' ≠ k → ∀ x ∈ s.queue (v * 8 + k'), p x = true → j.1 < x.1) : s.oldestOf v p = some k := by
  have hmem : (j.1, k) ∈ s.heads v p := mem_heads.mpr ⟨hk, j, hj, rfl⟩
  rw [oldestOf_heads]
  match hheads : s.heads v p with
  | [] =>
    rw [hheads] at hmem
    cases hmem
  | a :: t =>
    rw [hheads] at hmem
    obtain ⟨hin, hlow⟩ := foldl_lower t a
    dsimp only
    generalize t.foldl _ a = b at hin hlow ⊢
    by_contra hne
    obtain ⟨hb, j', hj', hb1⟩ := mem_heads.mp (hheads ▸ hin)
    have hlt := hothers b.2 hb (fun h => hne (congrArg some h)) j' (List.mem_of_find?_eq_some hj') (List.find?_some hj')
    have := hlow _ hmem
    omega

theorem rinkTake_none (h : ∀ k < 8, ∀ x ∈ s.queue (v * 8 + k), p x = false) : s.rinkTake v p = (none, s) := by
  simp only [Dev.rinkTake, oldestOf_none h]

theorem rinkTake_eq {k : Nat} (hk : k < 8) {l r : List (Nat × Job)} {j : Nat × Job} (hq : s.queue (v * 8 + k) = l ++ j :: r)
    (hl : ∀ x ∈ l, p x = false) (hj : p j = true)
    (hothers : ∀ k' < 8, k' ≠ k → ∀ x ∈ s.queue (v * 8 + k'), p x = true → j.1 < x.1) :
    s.rinkTake v p = (some j.2, s.setQueue (v * 8 + k) (l ++ r)) := by
  have hfind : (s.queue (v * 8 + k)).find? p = some j := by
    rw [hq]
    exact List.find?_eq_some_iff_append.mpr ⟨hj, l, r, rfl, fun x hx => by rw [hl x hx]; rfl⟩
  have htake := takeFirst_append hl hj r
  rw [← hq] at htake
  simp only [Dev.rinkTake, oldestOf_eq hk hfind hothers, htake]

end

/-! ### The request that arrives -/

section
variable {c : Nat} {q : Ask} {p : Nat → Bool}

theorem askFor_sent (h : (s.eng.asks.find? fun x => x.thief == c && x.sent) = some q) (hp : p q.victim = true) : s.askFor c p = some q := by
  simp only [Dev.askFor, h, hp, if_true]

theorem find?_sent_eq_none (h : ∀ x ∈ s.eng.asks, x.thief = c → x.sent = false) :
    (s.eng.asks.find? fun x => x.thief == c && x.sent) = none := by
  refine List.find?_eq_none.mpr fun x hx hsent => ?_
  simp only [Bool.and_eq_true, beq_iff_eq] at hsent
  rw [h x hx hsent.1] at hsent
  cases hsent.2

theorem askFor_now (hnone : ∀ x ∈ s.eng.asks, x.thief = c → x.sent = false) (hask : s.asksNow c = true) {v : Nat}
    (htarget : s.askTarget c = some v) (hp : p v = true) : s.askFor c p = some (s.askOf c v) := by
  simp only [Dev.askFor, find?_sent_eq_none hnone, hask, if_true, htarget, hp]

theorem askFor_before (hnone : ∀ x ∈ s.eng.asks, x.thief = c → x.sent = false) (hask : s.asksNow c = false ∨ s.askTarget c = none)
    (hq : q ∈ s.eng.asks) (hc : q.thief = c) (hall : ∀ x ∈ s.eng.asks, x.thief = c → x = q) (hp : p q.victim = true) :
    s.askFor c p = some q := by
  have hnow : (if s.asksNow c then s.askTarget c else none) = none := by
    rcases hask with h | h <;> simp [h]
  obtain ⟨x, hx⟩ := Option.isSome_iff_exists.mp
    (List.find?_isSome (p := fun x : Ask => x.thief == c && p x.victim).mpr ⟨q, hq, by simp [hc, hp]⟩)
  have hsel := List.find?_some hx
  simp only [Bool.and_eq_true, beq_iff_eq] at hsel
  obtain rfl := hall x (List.mem_of_find?_eq_some hx) hsel.1
  simp only [Dev.askFor, find?_sent_eq_none hnone, hnow, hx]

theorem askTarget_cross {v : Nat} (h : s.crossVictim c = some v) : s.askTarget c = some v := by simp only [Dev.askTarget, h]

theorem askTarget_patrol (h : s.crossVictim c = none) (hp : s.patrolStage c = true) : s.askTarget c = some 8 := by
  simp only [Dev.askTarget, h, hp, if_true]

theorem askTarget_none (h : s.crossVictim c = none) (hp : s.patrolStage c = false) : s.askTarget c = none := by
  simp only [Dev.askTarget, h, hp, Bool.false_eq_true, if_false]

end

/-! ### The answer of the victim -/

/-- The device without the requests of a context. -/
def unasked (s : Dev) (c : Nat) : Dev := { s with eng := { s.eng with asks := s.eng.asks.filter (·.thief != c) } }

section
variable {q : Ask}

theorem askArrives_patrol_job (hv : q.victim = 8) {l r : List (Nat × Job)} {j : Nat × Job} (hq : s.eng.patQ = l ++ j :: r)
    (hl : ∀ x ∈ l, q.prios.contains x.2.prio = false) (hj : q.prios.contains j.2.prio = true) :
    s.askArrives q = ((s.unasked q.thief).setQueue 64 (l ++ r)).answerSteal q.thief 8 (some j.2) := by
  have htake := takeFirst_append (p := fun j => q.prios.contains j.2.prio) hl hj r
  rw [← hq] at htake
  simp only [Dev.askArrives, hv, if_true, htake, unasked]

theorem askArrives_patrol_empty (hv : q.victim = 8) (hl : ∀ x ∈ s.eng.patQ, q.prios.contains x.2.prio = false) :
    s.askArrives q = (s.unasked q.thief).answerSteal q.thief 8 none := by
  have htake := takeFirst_none (p := fun j => q.prios.contains j.2.prio) hl
  simp only [Dev.askArrives, hv, if_true, htake, unasked]

theorem askArrives_rink (hv : q.victim < 8) : s.askArrives q =
    (((s.unasked q.thief).rinkTake q.victim (s.asked q)).2.answerSteal q.thief q.victim
      ((s.unasked q.thief).rinkTake q.victim (s.asked q)).1) := by
  simp only [Dev.askArrives, if_neg (show q.victim ≠ 8 by omega)]
  rfl

end

/-! ### Steps of a thief -/

theorem localSteal_takes {c v : Nat} (hseeks : s.seeks c = true) (hvictim : s.localVictim c = some v) {l r : List (Nat × Job)} {j : Nat × Job}
    (hq : s.queue (rinkOf c * 8 + v) = l ++ j :: r) (hl : ∀ x ∈ l, s.stealable c x = false) (hj : s.stealable c j = true) :
    s.localSteal c = ((s.setQueue (rinkOf c * 8 + v) (l ++ r)).loadJob c j.2).count .RNK_STEAL_CNT (rinkOf c) := by
  have htake := takeFirst_append hl hj r
  rw [← hq] at htake
  simp only [Dev.localSteal, hseeks, hvictim, htake, Bool.not_true, Bool.false_eq_true, if_false]

theorem windowExpiry_idle {c : Nat} (hidle : (s.ctx c).st = .idle) (hrink : isPatrol c = false) :
    s.windowExpiry c = (s.updCtx c fun x => { x with window := true }).sendAsk c := by
  simp [Dev.windowExpiry, hidle, hrink]

section
variable {c : Nat} {l r : List Steal} {t : Steal} (hq : s.eng.steals = l ++ t :: r) (hl : ∀ x ∈ l, x.thief ≠ c) (ht : t.thief = c)
include hq hl ht

theorem takeSteal_first : takeSteal c s.eng.steals = some (t, l ++ r) := by rw [hq, takeSteal_append hl ht]

theorem stealReply_job {j : Job} (hreply : t.reply = some j) {e : Dev}
    (he : e = Dev.count { s with eng := { s.eng with steals := l ++ r } } (if t.victim = 8 then .RNK_PSTEAL_CNT else .RNK_XSTEAL_CNT) (rinkOf c))
    (hidle : (e.ctx c).st = .idle) (hev : e.evReady c = 0) (hacc : e.accepts c j.prio = true) : s.stealReply c = e.loadJob c j := by
  subst he
  simp only [Dev.stealReply, takeSteal_first hq hl ht, hreply, hidle, hev, hacc, beq_self_eq_true, Bool.and_self, if_true]

theorem stealReply_empty (hreply : t.reply = none) {e : Dev}
    (he : e = Dev.count { s with eng := { s.eng with steals := l ++ r } } .RNK_XSTEAL_MISS_CNT (rinkOf c)) :
    s.stealReply c = (if t.victim = 8 then e.updCtx c fun x => { x with patEmpty := true } else e).sendAsk c := by
  subst he
  simp only [Dev.stealReply, takeSteal_first hq hl ht, hreply]

end

end Dev

/-! ### The rows -/

section
variable (c : Fin 256) (s : State)

theorem exec_localSteal_eq : exec (.localSteal c) s = .next (s.withDev (s.dev.localSteal c)) := rfl

theorem exec_stealWindowExpiry_eq : exec (.stealWindowExpiry c) s = .next (s.withDev (s.dev.windowExpiry c)) := rfl

theorem exec_stealRequest_eq {q : Ask} (h : s.dev.askFor c (· < 8) = some q) :
    exec (.stealRequest c) s = .next (s.withDev (s.dev.askArrives q)) :=
  next_congr (by simp only [Dev.stealRequest, h])

theorem exec_patrolStealRequest_eq {q : Ask} (h : s.dev.askFor c (· == 8) = some q) :
    exec (.patrolStealRequest c) s = .next (s.withDev (s.dev.askArrives q)) :=
  next_congr (by simp only [Dev.patStealRequest, h])

theorem exec_stealReply_eq : exec (.stealReply c) s = .next (s.withDev (s.dev.stealReply c)) := rfl

end

/-- Settles O42: the request that arrives is the one of the three origins that the state leaves, and the victim's answer is its oldest such job. -/
theorem stealRowsComplete : Obligations.StealRowsComplete := by
  unfold Obligations.StealRowsComplete
  intro c s d n
  refine ⟨?localSteal, ?window, ?request, ?reply⟩
  case localSteal =>
    intro v l j r hseeks hvictim hq hl hj
    rw [exec_localSteal_eq, Dev.localSteal_takes hseeks hvictim hq hl hj]
  case window =>
    intro hidle hrink
    rw [exec_stealWindowExpiry_eq, Dev.windowExpiry_idle hidle hrink]
  case request =>
    intro q hthief hpending e p
    have hask {f : Nat → Bool} (hf : f q.victim = true) : d.askFor c f = some q := by
      rcases hpending with hsent | ⟨hnone, ⟨hnow, htarget, hq⟩ | ⟨hnot, hq, hall⟩⟩
      · exact Dev.askFor_sent hsent hf
      · have hto : d.askTarget c = some q.victim := by
          rcases htarget with hcross | ⟨hcross, hstage, hpat⟩
          · exact Dev.askTarget_cross hcross
          · exact hpat ▸ Dev.askTarget_patrol hcross hstage
        rw [Dev.askFor_now hnone hnow hto hf, hq]
        rfl
      · exact Dev.askFor_before hnone (hnot.imp_right fun h => Dev.askTarget_none h.1 h.2) hq hthief hall hf
    have he : e = d.unasked q.thief := by rw [hthief]; rfl
    have hp : d.asked q = p := by
      have hn : n = q.thief / 32 := by rw [hthief]; exact if_pos c.isLt
      simp only [p, hn]
      rfl
    refine ⟨fun hv => ⟨?job, ?empty⟩, fun hv => ⟨?patJob, ?patEmpty⟩⟩
    case job =>
      intro k hk l j r hq hl hj hothers
      have htake : (d.unasked q.thief).rinkTake q.victim (d.asked q) = _ := Dev.rinkTake_eq hk hq (hp ▸ hl) (hp ▸ hj) (hp ▸ hothers)
      rw [exec_stealRequest_eq c s (hask (decide_eq_true hv)), Dev.askArrives_rink hv, htake, ← he, hthief]
    case empty =>
      intro hl
      have htake : (d.unasked q.thief).rinkTake q.victim (d.asked q) = _ := Dev.rinkTake_none (hp ▸ hl)
      rw [exec_stealRequest_eq c s (hask (decide_eq_true hv)), Dev.askArrives_rink hv, htake, ← he, hthief]
    case patJob =>
      intro l j r hq hl hj
      rw [exec_patrolStealRequest_eq c s (hask (beq_iff_eq.mpr hv)), Dev.askArrives_patrol_job hv hq hl hj, ← he, hthief]
    case patEmpty =>
      intro hl
      rw [exec_patrolStealRequest_eq c s (hask (beq_iff_eq.mpr hv)), Dev.askArrives_patrol_empty hv hl, ← he, hthief]
  case reply =>
    intro l t r hq hl ht e
    refine ⟨fun j hreply => ?_, fun hreply => ?_⟩
    · intro e' hidle hev hacc
      rw [exec_stealReply_eq, Dev.stealReply_job hq hl ht hreply rfl hidle hev hacc]
    · rw [exec_stealReply_eq, Dev.stealReply_empty hq hl ht hreply rfl]

end Sys2Proof.Machine
end

section
/-! Rules for O43: changes made one after the other for a list of contexts, and what a write of a register and a ring of a doorbell leave. -/

namespace Sys2Proof.Machine

namespace Dev
variable (s : Dev)

/-! ### Lists of changes -/

/-- What each change of a list brings about for its own element, and no change takes away, holds for every element afterwards. -/
theorem each_forall {α : Type} {f : α → Dev → Dev} {Q : α → Dev → Prop} {l : List α} (hset : ∀ a ∈ l, ∀ s, Q a (f a s))
    (hkeep : ∀ a ∈ l, ∀ b s, Q b s → Q b (f a s)) : ∀ b ∈ l, Q b (s.each l f) := by
  induction l generalizing s with
  | nil => exact fun _ hb => nomatch hb
  | cons a l ih =>
    obtain ⟨ha, hl⟩ := List.forall_mem_cons.mp hset
    obtain ⟨-, hkl⟩ := List.forall_mem_cons.mp hkeep
    intro b hb
    rcases List.mem_cons.mp hb with rfl | hb
    · exact Dev.each_keeps (P := Q b) (fun c hc u hu => hkl c hc b u hu) (f b s) (ha s)
    · exact ih (f a s) hl hkl b hb

theorem each_updCtx_ctx_other {b k : Nat} {l : List Nat} (hk : k ∉ l) (f : Ctx → Ctx) :
    (s.each l fun i s => s.updCtx (b + i) f).ctx (b + k) = s.ctx (b + k) := by
  refine Dev.each_same (g := fun s => s.ctx (b + k)) (fun i hi u => ?_) s
  have hne : b + k ≠ b + i := fun h => hk (Nat.add_left_cancel h ▸ hi)
  exact ctx_updCtx_other u hne f

/-- The same change of each of several contexts. -/
theorem each_updCtx_ctx {b k : Nat} {l : List Nat} (hl : l.Nodup) (hk : k ∈ l) (f : Ctx → Ctx) :
    (s.each l fun i s => s.updCtx (b + i) f).ctx (b + k) = f (s.ctx (b + k)) := by
  induction l generalizing s with
  | nil => cases hk
  | cons i l ih =>
    obtain ⟨hi, hl⟩ := List.nodup_cons.mp hl
    rw [Dev.each_cons]
    rcases List.mem_cons.mp hk with rfl | hk
    · rw [each_updCtx_ctx_other _ hi, ctx_updCtx_same]
    · have hne : b + k ≠ b + i := fun h => hi (Nat.add_left_cancel h ▸ hk)
      rw [ih _ hl hk, ctx_updCtx_other _ hne]

/-! ### Writes of registers -/

theorem plain_frame (r : Reg) (v i j k : Nat) : s.plain r v i j k = { s with regs := (s.plain r v i j k).regs } := by
  unfold Dev.plain Dev.plainIf
  dsimp only
  split <;> rfl

@[simp] theorem plain_mem (r : Reg) (v i j k : Nat) : (s.plain r v i j k).mem = s.mem := by rw [plain_frame]

@[simp] theorem plain_eng (r : Reg) (v i j k : Nat) : (s.plain r v i j k).eng = s.eng := by rw [plain_frame]

/-- A write by the field rules alone leaves every copy but those of its register and of the violation counter. -/
theorem plain_reg {q r : Reg} {a b c i j k : Nat} (hq : q.HasCopy a b c) (hr : r.HasCopy i j k)
    (hm : r.info.blk.misuse.HasCopy (r.info.blk.pageOf i) 0 0) (hne : q ≠ r) (hne' : q ≠ r.info.blk.misuse) (v : Nat) :
    (s.plain r v i j k).reg q a b c = s.reg q a b c := by
  unfold Dev.plain Dev.plainIf
  dsimp only
  split
  · exact (reg_setReg_apart _ hq hm hne' _).trans (s.reg_setReg_apart hq hr hne _)
  · exact s.reg_setReg_apart hq hr hne _

/-- Beside its own effect a write of the pages of a rink ends runs, and the pair may yield. -/
theorem rnkWriteAll_frame (r : Reg) (i j mid ctx v : Nat) :
    ∃ p, s.rnkWriteAll r i j mid ctx v = { (s.rnkWrite r i j mid ctx v).reapRuns with par := p } := by
  unfold Dev.rnkWriteAll
  dsimp only
  split
  · exact ⟨_, rfl⟩
  · exact ⟨_, autoYield_frame _⟩

theorem rnkWriteAll_mem (r : Reg) (i j mid ctx v : Nat) : (s.rnkWriteAll r i j mid ctx v).mem = (s.rnkWrite r i j mid ctx v).mem := by
  obtain ⟨p, h⟩ := s.rnkWriteAll_frame r i j mid ctx v
  rw [h]
  exact reapRuns_mem _

theorem rnkWriteAll_eng (r : Reg) (i j mid ctx v : Nat) : (s.rnkWriteAll r i j mid ctx v).eng = (s.rnkWrite r i j mid ctx v).eng := by
  obtain ⟨p, h⟩ := s.rnkWriteAll_frame r i j mid ctx v
  rw [h]
  exact reapRuns_eng _

theorem rnkWriteAll_reg (r : Reg) (i j mid ctx v : Nat) {q : Reg} {a b c : Nat} (hq : q.HasCopy a b c) (hne : q ≠ .CTL_TASK_STAT) :
    (s.rnkWriteAll r i j mid ctx v).reg q a b c = (s.rnkWrite r i j mid ctx v).reg q a b c := by
  obtain ⟨p, h⟩ := s.rnkWriteAll_frame r i j mid ctx v
  rw [h]
  exact reapRuns_reg _ hq hne

/-- A ring of doorbells writes the target, the count of coalesced rings and the count of messages. -/
theorem ringMask_reg {t : Nat} (ht : t < 32) (mask : Nat) {q : Reg} {a b c : Nat} (hq : q.HasCopy a b c) (hdb : q ≠ .MBX_DB)
    (hcoal : q ≠ .MBX_DB_COAL_CNT) (hmsix : q ≠ .HST_MSIX_CNT) : (s.ringMask t mask).reg q a b c = s.reg q a b c := by
  have hvector (v : Nat) (u : Dev) : (u.msixVector v).reg q a b c = u.reg q a b c := by
    have hcopy : Reg.HST_MSIX_CNT.HasCopy 0 0 0 := ⟨by decide, by decide, by decide⟩
    unfold Dev.msixVector
    dsimp only
    split
    · rfl
    split
    · rfl
    split
    · exact reg_setReg_apart _ hq hcopy hmsix _
    · rfl
  have hcopy : Reg.MBX_DB.HasCopy t 0 0 := ⟨ht, by decide, by decide⟩
  have hcopy' : Reg.MBX_DB_COAL_CNT.HasCopy 0 0 0 := ⟨by decide, by decide, by decide⟩
  refine (Dev.each_same (g := fun u => u.reg q a b c) (fun v _ => hvector v) _).trans ?_
  exact (reg_setReg_apart _ hq hcopy hdb _).trans (s.reg_setReg_apart hq hcopy' hcoal _)

end Dev

end Sys2Proof.Machine
end

section
/-! An engine that is lost (R87, R108). Each change on the way leaves what the earlier ones brought about (`Dev.Leaves`): the end of a context's lifts
and job, of its run, and the degradation that is shown keep a STOPPED context stopped, an emptied queue empty and the engine offline. -/

namespace Sys2Proof.Machine

/-! ### The end of contexts -/

theorem rinkOf_lt {c : Nat} (hc : c < 256) : rinkOf c < 8 := by
  rw [rinkOf, if_pos hc]
  omega

theorem lt_of_not_isPatrol {c : Nat} (h : ¬isPatrol c = true) : c < 256 := by simpa [isPatrol] using h

theorem Reg.hasCopy_rnkStatus {n : Nat} (hn : n < 8) : Reg.RNK_STATUS.HasCopy n 0 0 := ⟨hn, by decide, by decide⟩

/-- The context is STOPPED and holds no job. -/
def Dev.Halted (s : Dev) (k : Nat) : Prop := (s.ctx k).st = .stopped ∧ (s.ctx k).hasJob = false

/-- What the end of contexts, lifts and jobs leaves: memory, the queues, the status of every rink, and every context that is STOPPED. -/
structure Dev.Leaves (s t : Dev) : Prop where
  mem : t.mem = s.mem
  queue : ∀ e, t.queue e = s.queue e
  status : ∀ n < 8, t.reg .RNK_STATUS n = s.reg .RNK_STATUS n
  halted : ∀ k, s.Halted k → t.Halted k

namespace Dev
variable {s t u : Dev}

theorem Leaves.refl (s : Dev) : s.Leaves s := ⟨rfl, fun _ => rfl, fun _ _ => rfl, fun _ h => h⟩

theorem Leaves.trans (h : s.Leaves t) (g : t.Leaves u) : s.Leaves u :=
  ⟨g.mem.trans h.mem, fun e => (g.queue e).trans (h.queue e), fun n hn => (g.status n hn).trans (h.status n hn),
    fun k hk => g.halted k (h.halted k hk)⟩

/-- A change of neither memory nor engines. -/
theorem Leaves.of_eng (hm : t.mem = s.mem) (he : t.eng = s.eng) (hr : ∀ n < 8, t.reg .RNK_STATUS n = s.reg .RNK_STATUS n) : s.Leaves t :=
  ⟨hm, fun e => by simp only [Dev.queue, he], hr, fun k h => by simpa only [Dev.Halted, Dev.ctx, he] using h⟩

theorem Leaves.setReg {r : Reg} {i j k : Nat} (hr : r.HasCopy i j k) (hne : Reg.RNK_STATUS ≠ r) (v : Nat) : s.Leaves (s.setReg r v i j k) :=
  .of_eng rfl rfl fun _ hn => s.reg_setReg_apart (Reg.hasCopy_rnkStatus hn) hr hne v

/-- A change of a context that is not STOPPED, or that leaves it so. -/
theorem Leaves.updCtx {c : Nat} {f : Ctx → Ctx} (h : s.Halted c → (f (s.ctx c)).st = .stopped ∧ (f (s.ctx c)).hasJob = false) :
    s.Leaves (s.updCtx c f) := by
  refine ⟨rfl, fun _ => rfl, fun _ _ => rfl, fun k hk => ?_⟩
  unfold Dev.Halted
  rw [Dev.ctx_updCtx]
  split
  · next hkc => exact h (hkc ▸ hk)
  · exact hk

theorem Leaves.when {b : Bool} {f : Dev → Dev} (h : ∀ u : Dev, u.Leaves (f u)) (s : Dev) : s.Leaves (s.when b f) :=
  Dev.when_keeps (P := s.Leaves) (fun u hu => hu.trans (h u)) s (.refl s)

theorem leaves_showState (s : Dev) (c : Nat) : s.Leaves (s.showState c) := by
  unfold Dev.showState
  split
  · exact .refl s
  · next hpat =>
    exact .setReg ⟨rinkOf_lt (lt_of_not_isPatrol hpat), Nat.mod_lt _ (by decide), by decide⟩ (by decide) _

theorem leaves_jobLost {n : Nat} (hn : n < 8) (k : Nat) : s.Leaves (s.jobLost n k) := .setReg ⟨hn, by decide, by decide⟩ (by decide) _

theorem leaves_becomeIdle {c : Nat} (h : (s.ctx c).st ≠ .stopped) : s.Leaves (s.becomeIdle c) := by
  have hidle : s.Leaves (s.updCtx c fun x => { x with hasJob := false, window := false, patEmpty := false }) := .updCtx fun hc => absurd hc.1 h
  have hst : (s.updCtx c fun x => { x with hasJob := false, window := false, patEmpty := false }).Leaves
      (Dev.updCtx c (fun x => { x with st := .idle }) (s.updCtx c fun x => { x with hasJob := false, window := false, patEmpty := false })) :=
    .updCtx fun hc => absurd hc.1 (by rw [ctx_updCtx_same]; exact h)
  exact (hidle.trans hst).trans (leaves_showState ..)

theorem leaves_liftSettled (s : Dev) (c : Nat) : s.Leaves (s.liftSettled c) := by
  unfold Dev.liftSettled
  split
  · exact .refl s
  dsimp only
  split
  · next hst =>
    simp only [Bool.and_eq_true, beq_iff_eq] at hst
    have hne : (s.ctx c).st ≠ .stopped := by
      rw [hst.1]
      decide
    refine (Leaves.updCtx fun hc => absurd hc.1 hne).trans (leaves_becomeIdle ?_)
    rw [ctx_updCtx_same]
    exact hne
  split
  · next hst =>
    simp only [Bool.and_eq_true, beq_iff_eq] at hst
    refine leaves_becomeIdle ?_
    rw [hst.1.1]
    decide
  · exact .refl s

theorem leaves_liftAbort {l : Nat} (hl : l < 40) : s.Leaves (s.liftAbort l) := by
  have hcopy : Reg.LFT_STATUS.HasCopy l 0 0 := ⟨hl, by decide, by decide⟩
  unfold Dev.liftAbort
  split
  · have hcount : Reg.LFT_ABORT_CNT.HasCopy 0 0 0 := ⟨by decide, by decide, by decide⟩
    exact ((Leaves.setReg hcopy (by decide) _).trans (.setReg hcount (by decide) _)).trans (leaves_liftSettled ..)
  · exact .setReg hcopy (by decide) _

theorem liftsOf_lt {c l : Nat} (h : l ∈ liftsOf c) : l < 40 := by
  unfold liftsOf at h
  split at h
  · simp only [List.mem_map, List.mem_range] at h
    omega
  · next hpat =>
    have hrink := rinkOf_lt (lt_of_not_isPatrol hpat)
    simp only [List.mem_map, List.mem_range] at h
    omega

theorem leaves_abortOwned (s : Dev) (c : Nat) : s.Leaves (s.abortOwned c) := by
  refine Dev.each_keeps (P := s.Leaves) (fun l hl u hu => ?_) s (.refl s)
  split
  · exact hu.trans (leaves_liftAbort (liftsOf_lt (List.mem_filter.mp hl).1))
  · exact hu

theorem setSt_ctx (s : Dev) (c : Nat) (x : CtxSt) (k : Nat) : (s.setSt c x).ctx k = if k = c then { s.ctx c with st := x } else s.ctx k := by
  have hshow (u : Dev) : (u.showState c).ctx k = u.ctx k := by
    unfold Dev.showState
    split <;> rfl
  rw [Dev.setSt, hshow, Dev.ctx_updCtx]

theorem leaves_setSt_stopped (s : Dev) (c : Nat) : s.Leaves (s.setSt c .stopped) := (Leaves.updCtx fun h => ⟨rfl, h.2⟩).trans (leaves_showState ..)

/-- A context stops with its engine, and the end of its lifts leaves it stopped. -/
theorem ctxStop_halts (s : Dev) {c : Nat} (hc : c < 256) : s.Leaves (s.ctxStop c) ∧ (s.ctxStop c).Halted c := by
  unfold Dev.ctxStop
  dsimp only
  refine ⟨Leaves.trans ?job (.trans (leaves_abortOwned _ c) (.trans (.updCtx fun h => ⟨h.1, rfl⟩) (leaves_setSt_stopped _ c))), ?_⟩
  case job =>
    split
    · exact leaves_jobLost (rinkOf_lt hc) 1
    · exact .refl s
  · unfold Dev.Halted
    rw [setSt_ctx, if_pos rfl, ctx_updCtx_same]
    exact ⟨rfl, rfl⟩

/-! ### An engine goes offline -/

theorem leaves_degrade_engine (s : Dev) : s.Leaves (s.degrade .SYS_DEGRADED_ENGINE) := by
  have hcopy : Reg.SYS_DEGRADED.HasCopy 0 0 0 := ⟨by decide, by decide, by decide⟩
  have hflag : s.Leaves (s.setFlag .SYS_DEGRADED_ENGINE true) := Leaves.setReg hcopy (by decide) _
  unfold Dev.degrade
  split
  · exact .refl s
  · refine hflag.trans (.when (fun u => ?_) _)
    refine .of_eng (ringMask_mem ..) (by rw [ringMask_frame]) fun n hn => ?_
    exact ringMask_reg u (bits_lt _ 4 0) _ (Reg.hasCopy_rnkStatus hn) (by decide) (by decide) (by decide)

theorem leaves_reapRuns (s : Dev) : s.Leaves s.reapRuns :=
  .of_eng (reapRuns_mem s) (reapRuns_eng s) fun _ hn => reapRuns_reg s (Reg.hasCopy_rnkStatus hn) (by decide)

theorem leaves_autoYield (s : Dev) : s.Leaves s.autoYield := by
  rw [autoYield_frame]
  exact .of_eng rfl rfl fun _ _ => rfl

theorem engOnline_congr {n : Nat} (e : Nat) (h : u.reg .RNK_STATUS n = t.reg .RNK_STATUS n) : u.engOnline n e = t.engOnline n e := by
  have hfld : u.fld .RNK_STATUS_ENG_ONLINE n = t.fld .RNK_STATUS_ENG_ONLINE n := congrArg (bits · _ _) h
  rw [Dev.engOnline, Dev.engOnline, hfld]

theorem halted_congr {k : Nat} (h : u.ctx k = t.ctx k) : u.Halted k ↔ t.Halted k := by
  rw [Dev.Halted, Dev.Halted, h]

theorem leaves_rnkWriteAll (s : Dev) (r : Reg) (i j mid ctx v : Nat) :
    (s.rnkWrite r i j mid ctx v).Leaves (s.rnkWriteAll r i j mid ctx v) :=
  .of_eng (rnkWriteAll_mem ..) (rnkWriteAll_eng ..) fun _ hn => rnkWriteAll_reg s r i j mid ctx v (Reg.hasCopy_rnkStatus hn) (by decide)

/-- What the loss of engine `e` of rink `n` brings about. -/
structure EngineLost (n e : Nat) (s t : Dev) : Prop where
  mem : t.mem = s.mem
  offline : t.engOnline n e = false
  queue : t.queue (n * 8 + e) = []
  halted : ∀ i < 4, t.Halted (n * 32 + e * 4 + i)

theorem EngineLost.leaves {n e : Nat} (hn : n < 8) (h : EngineLost n e s t) (g : t.Leaves u) : EngineLost n e s u where
  mem := g.mem.trans h.mem
  offline := (engOnline_congr e (g.status n hn)).trans h.offline
  queue := (g.queue _).trans h.queue
  halted i hi := g.halted _ (h.halted i hi)

theorem setOnline_offline (s : Dev) {n e : Nat} (hn : n < 8) (he : e < 8) : (s.setOnline n e false).engOnline n e = false := by
  have hcopy : Reg.RNK_ENG_STATUS.HasCopy n e 0 := ⟨hn, he, by decide⟩
  unfold Dev.setOnline Dev.engOnline Dev.setFlag
  rw [Dev.fld_setFld_other _ ((Reg.hasCopy_rnkStatus hn).addr_ne hcopy (by decide)), Dev.fld_setFld_same _ _ (by decide) (by decide),
    bit_eq_testBit, Nat.testBit_mod_two_pow, ← bit_eq_testBit, bit_putBit_same, Bool.and_false]

theorem setQueue_frame (s : Dev) {ge : Nat} (hge : ge < 64) (q : List (Nat × Job)) :
    (s.setQueue ge q).mem = s.mem ∧ (∀ k, (s.setQueue ge q).ctx k = s.ctx k) ∧
      (∀ n < 8, (s.setQueue ge q).reg .RNK_STATUS n = s.reg .RNK_STATUS n) ∧
      ∀ e, (s.setQueue ge q).queue e = if e = ge then q else s.queue e := by
  have hcopy : Reg.RNK_ENG_STATUS.HasCopy (ge / 8) (ge % 8) 0 := ⟨show ge / 8 < 8 by omega, Nat.mod_lt _ (by decide), by decide⟩
  rw [setQueue_rink s (Nat.ne_of_lt hge)]
  refine ⟨rfl, fun _ => rfl, fun n hn => reg_setReg_apart _ (Reg.hasCopy_rnkStatus hn) hcopy (by decide) _, fun e => ?_⟩
  simp only [Dev.queue, setFld_eng, Tab.get_set]
  split
  · next he => rw [if_neg (by omega)]
  · rfl

/-- Another engine's queue takes jobs. -/
theorem EngineLost.setQueue {n e ge : Nat} (hn : n < 8) (h : EngineLost n e s t) (hge : ge < 64) (hne : n * 8 + e ≠ ge)
    (q : List (Nat × Job)) : EngineLost n e s (t.setQueue ge q) := by
  obtain ⟨hmem, hctx, hstatus, hqueue⟩ := setQueue_frame t hge q
  refine ⟨hmem.trans h.mem, (engOnline_congr e (hstatus n hn)).trans h.offline, ?_, fun i hi => (halted_congr (hctx _)).mpr (h.halted i hi)⟩
  rw [hqueue, if_neg hne]
  exact h.queue

/-- The four contexts of an engine stop. -/
theorem ctxStops_halt (s : Dev) {b : Nat} (hb : b + 4 ≤ 256) :
    s.Leaves (s.each (List.range 4) fun i s => s.ctxStop (b + i)) ∧
      ∀ i < 4, (s.each (List.range 4) fun i s => s.ctxStop (b + i)).Halted (b + i) := by
  have hstop : ∀ i ∈ List.range 4, ∀ u : Dev, u.Leaves (u.ctxStop (b + i)) ∧ (u.ctxStop (b + i)).Halted (b + i) := fun i hi u =>
    ctxStop_halts u (by have := List.mem_range.mp hi; omega)
  refine ⟨Dev.each_keeps (P := s.Leaves) (fun i hi u hu => hu.trans (hstop i hi u).1) s (.refl s), fun i hi => ?_⟩
  exact each_forall s (Q := fun i u => u.Halted (b + i)) (fun i hi u => (hstop i hi u).2)
    (fun i hi j u hj => (hstop i hi u).1.halted _ hj) i (List.mem_range.mpr hi)

theorem engineOffline_lost {n e : Nat} (hn : n < 8) (he : e < 8) (h : s.engOnline n e = true) :
    EngineLost n e s (s.engineOffline n e) := by
  have hoff := setOnline_offline s hn he
  have hmem₀ : (s.setOnline n e false).mem = s.mem := by
    rw [Dev.setOnline, Dev.setFlag, setFld_mem, setFld_mem]
  obtain ⟨hstop, hhalt⟩ := ctxStops_halt (s.setOnline n e false) (b := n * 32 + e * 4) (by omega)
  unfold Dev.engineOffline
  simp only [h, Bool.not_true, Bool.false_eq_true, if_false]
  set u := (s.setOnline n e false).each (List.range 4) fun i s => s.ctxStop (n * 32 + e * 4 + i)
  have hlost : EngineLost n e s (u.setQueue (n * 8 + e) []) := by
    obtain ⟨hmem, hctx, hstatus, hqueue⟩ := setQueue_frame u (by omega : n * 8 + e < 64) []
    refine ⟨(hmem.trans hstop.mem).trans hmem₀, ?_, by rw [hqueue, if_pos rfl], fun i hi => (halted_congr (hctx _)).mpr (hhalt i hi)⟩
    exact (engOnline_congr e ((hstatus n hn).trans (hstop.status n hn))).trans hoff
  set a := u.fld .RNK_ENG_CFG_ALT_ENG n e
  have ha : a < 8 := bits_lt _ 18 16
  refine EngineLost.leaves hn ?_ (leaves_degrade_engine _)
  split
  · next hmove =>
    refine EngineLost.leaves hn (hlost.setQueue hn (by omega) (fun heq => ?_) _) (leaves_jobLost hn _)
    have hae : a = e := by omega
    rw [hae, hlost.offline, Bool.and_false] at hmove
    cases hmove
  · exact hlost.leaves hn (leaves_jobLost hn _)

/-- The rows that take an engine offline. -/
theorem lmemRow_lost {n e : Nat} (hn : n < 8) (he : e < 8) (hon : s.rinkOn n = true) (h : s.engOnline n e = true) :
    EngineLost n e s (s.lmemRow n e) := by
  have hcopy : Reg.RNK_ENG_STATUS.HasCopy n e 0 := ⟨hn, he, by decide⟩
  have hue : s.Leaves (s.setFlag .RNK_ENG_STATUS_LMEM_UE true n e) := Leaves.setReg hcopy (by decide) _
  have hlost := engineOffline_lost hn he ((engOnline_congr e (hue.status n hn)).trans h)
  unfold Dev.lmemRow
  simp only [hon, h, Bool.not_true, Bool.or_self, Bool.false_eq_true, if_false]
  refine EngineLost.leaves hn (EngineLost.leaves hn ?_ (leaves_reapRuns _)) (leaves_autoYield _)
  exact ⟨hlost.mem.trans hue.mem, hlost.offline, hlost.queue, hlost.halted⟩

theorem offlineRow_lost {who : Agent} {n e : Nat} (hn : n < 8) (he : e < 8) (hwho : s.reaches who .RNK_ENG_CFG n e true)
    (h : s.engOnline n e = true) : EngineLost n e s (s.offlineRow who n e) := by
  have hcopy : Reg.RNK_ENG_CFG.HasCopy n e 0 := ⟨hn, he, by decide⟩
  have hmisuse : Reg.RNK_MISUSE_CNT.HasCopy n 0 0 := ⟨hn, by decide, by decide⟩
  set v := s.reg .RNK_ENG_CFG n e ||| 2 ^ 20 with hv
  have hplain : s.Leaves (s.plain .RNK_ENG_CFG v n e) := .of_eng (plain_mem ..) (plain_eng ..) fun m hm =>
    plain_reg s (Reg.hasCopy_rnkStatus hm) hcopy hmisuse (by decide) (by decide) v
  have hlost := engineOffline_lost hn he ((engOnline_congr e (hplain.status n hn)).trans h)
  have hbit : bit v 20 = true := by rw [bit_eq_testBit, hv, Nat.testBit_or, Nat.testBit_two_pow_self, Bool.or_true]
  have hwrite : s.rnkWrite .RNK_ENG_CFG n e who.mid who.ctx v = (s.plain .RNK_ENG_CFG v n e).engineOffline n e := if_pos hbit
  rw [Dev.offlineRow, Dev.rowWrite_reaches hwho, copyStore_rnk _ rfl rfl]
  refine EngineLost.leaves hn ?_ (leaves_rnkWriteAll ..)
  rw [hwrite]
  exact ⟨hlost.mem.trans hplain.mem, hlost.offline, hlost.queue, hlost.halted⟩

end Dev

end Sys2Proof.Machine
end

section
/-! O43: RESUME and ABORT (R104, R471), the loss of an engine, and walks with the invalidation of the TLBs (R99, R101). -/

namespace Sys2Proof.Machine

namespace Dev
variable {s t : Dev}

/-! ### RESUME and ABORT -/

/-- Two devices whose memory, contexts and lifts are the same. -/
structure SameContexts (s t : Dev) : Prop where
  mem : t.mem = s.mem
  eng : t.eng = s.eng
  lifts : ∀ l < 40, t.reg .LFT_STATUS l = s.reg .LFT_STATUS l

theorem SameContexts.ctx (h : SameContexts s t) (k : Nat) : t.ctx k = s.ctx k := by simp only [Dev.ctx, h.eng]

theorem SameContexts.ownsLift (h : SameContexts s t) (c : Nat) {l : Nat} (hl : l < 40) : t.ownsLift c l = s.ownsLift c l := by
  have hfld (f : Fld) (hf : f.reg = .LFT_STATUS) : t.fld f l = s.fld f l := by rw [Dev.fld, Dev.fld, hf, h.lifts l hl]
  rw [Dev.ownsLift, Dev.ownsLift, Dev.flag, Dev.flag, hfld _ rfl, hfld _ rfl, hfld _ rfl, hfld _ rfl]

theorem hasLift_eq_false {c : Nat} : s.hasLift c = false ↔ ∀ l ∈ liftsOf c, s.ownsLift c l = false := by
  simp [Dev.hasLift]

theorem SameContexts.hasLift (h : SameContexts s t) {c : Nat} (hs : s.hasLift c = false) : t.hasLift c = false :=
  hasLift_eq_false.mpr fun l hl => (h.ownsLift c (liftsOf_lt hl)).trans (hasLift_eq_false.mp hs l hl)

theorem SameContexts.plain {r : Reg} {i j k : Nat} (hr : r.HasCopy i j k) (hm : r.info.blk.misuse.HasCopy (r.info.blk.pageOf i) 0 0)
    (hne : Reg.LFT_STATUS ≠ r) (hne' : Reg.LFT_STATUS ≠ r.info.blk.misuse) (v : Nat) : SameContexts s (s.plain r v i j k) :=
  ⟨plain_mem .., plain_eng .., fun _ hl => plain_reg s ⟨hl, by decide, by decide⟩ hr hm hne hne' v⟩

/-- A write of CTX_CTRL of a FAULTED context that asks for one thing alone is obeyed. -/
theorem ctxCtrlRow_obeyed {who : Agent} {c : CtxId} (hwho : if isPatrol c then s.reaches who .PAT_CTX_CTRL (c % 4) 0 true else
      s.reaches who .RNK_CTX_CTRL (rinkOf c) (c % 32) true) (hst : (s.ctx c).st = .faulted) {v : Nat} (hv : v = 1 ∨ v = 2) :
    ∃ u, SameContexts s u ∧ (s.ctxCtrlRow who c v).mem = (u.ctxCtrl c v).mem ∧ (s.ctxCtrlRow who c v).eng = (u.ctxCtrl c v).eng := by
  have hobeyed : s.ctxRefused c v = false := by
    unfold Dev.ctxRefused
    rcases hv with rfl | rfl <;> simp [hst, bit]
  have hc := c.isLt
  unfold Dev.ctxCtrlRow
  split
  · next hpat =>
    rw [if_pos hpat] at hwho
    have hctx : 256 + c.val % 4 = c.val := by
      simp only [isPatrol, decide_eq_true_eq] at hpat
      omega
    have hwrite : s.copyStore .PAT_CTX_CTRL (c.val % 4) 0 0 who.mid who.ctx v =
        (s.plain .PAT_CTX_CTRL v (c.val % 4)).ctxCtrl c v := by
      rw [Dev.copyStore_single _ rfl]
      change (if s.ctxRefused (256 + c.val % 4) v then _ else (s.plain _ v (c.val % 4)).ctxCtrl (256 + c.val % 4) v) = _
      rw [hctx, hobeyed, if_neg Bool.false_ne_true]
    have hcopy : Reg.PAT_CTX_CTRL.HasCopy (c.val % 4) 0 0 := ⟨Nat.mod_lt _ (by decide), by decide, by decide⟩
    have hmisuse : Reg.PAT_MISUSE_CNT.HasCopy 0 0 0 := ⟨by decide, by decide, by decide⟩
    rw [Dev.rowWrite_reaches hwho, hwrite]
    exact ⟨_, .plain hcopy hmisuse (by decide) (by decide) v, rfl, rfl⟩
  · next hpat =>
    rw [if_neg hpat] at hwho
    have hlt := lt_of_not_isPatrol hpat
    have hn := rinkOf_lt hlt
    have hrink : rinkOf c = c.val / 32 := if_pos hlt
    have hctx : rinkOf c * 32 + c.val % 32 = c.val := by omega
    have hwrite : s.rnkWrite .RNK_CTX_CTRL (rinkOf c) (c.val % 32) who.mid who.ctx v =
        (s.plain .RNK_CTX_CTRL v (rinkOf c) (c.val % 32)).ctxCtrl c v := by
      change (if s.ctxRefused (rinkOf c * 32 + c.val % 32) v then _ else (s.plain _ v (rinkOf c) (c.val % 32)).ctxCtrl (rinkOf c * 32 + c.val % 32) v) = _
      rw [hctx, hobeyed, if_neg Bool.false_ne_true]
    have hcopy : Reg.RNK_CTX_CTRL.HasCopy (rinkOf c) (c.val % 32) 0 := ⟨hn, Nat.mod_lt _ (by decide), by decide⟩
    have hmisuse : Reg.RNK_MISUSE_CNT.HasCopy (rinkOf c) 0 0 := ⟨hn, by decide, by decide⟩
    rw [Dev.rowWrite_reaches hwho, copyStore_rnk _ rfl rfl, rnkWriteAll_mem, rnkWriteAll_eng, hwrite]
    exact ⟨_, .plain hcopy hmisuse (by decide) (by decide) v, rfl, rfl⟩

theorem setSt_mem (s : Dev) (c : Nat) (x : CtxSt) : (s.setSt c x).mem = s.mem := by
  unfold Dev.setSt Dev.showState
  split <;> rfl

theorem updCtx_setSt_ctx (s : Dev) (c : Nat) (f : Ctx → Ctx) (x : CtxSt) (k : Nat) :
    ((s.updCtx c f).setSt c x).ctx k = if k = c then { f (s.ctx c) with st := x } else s.ctx k := by
  rw [setSt_ctx, Dev.ctx_updCtx_same]
  split
  · rfl
  · next hk => exact Dev.ctx_updCtx_other s hk f

theorem ctxResume_ctx (s : Dev) (c k : Nat) : (s.ctxResume c).ctx k =
    if k = c then { s.ctx c with st := .run, stall := .none, walkFlt := [], aborting := false } else s.ctx k :=
  updCtx_setSt_ctx ..

theorem ctxResume_mem (s : Dev) (c : Nat) : (s.ctxResume c).mem = s.mem := setSt_mem ..

theorem abortOwned_none {c : Nat} (h : s.hasLift c = false) : s.abortOwned c = s := by
  have hnone : (liftsOf c).filter (s.ownsLift c) = [] :=
    List.filter_eq_nil_iff.mpr fun l hl => Bool.eq_false_iff.mp (hasLift_eq_false.mp h l hl)
  rw [Dev.abortOwned, hnone, Dev.each_nil]

theorem becomeIdle_ctx (s : Dev) (c k : Nat) : (s.becomeIdle c).ctx k =
    if k = c then { s.ctx c with st := .idle, hasJob := false, window := false, patEmpty := false } else s.ctx k :=
  updCtx_setSt_ctx ..

theorem becomeIdle_mem (s : Dev) (c : Nat) : (s.becomeIdle c).mem = s.mem := setSt_mem ..

/-- A FAULTED context without a lift is idle at once. -/
theorem ctxAbort_settled {c : Nat} (hst : (s.ctx c).st = .faulted) (hlift : s.hasLift c = false) :
    (s.ctxAbort c).mem = s.mem ∧ ((s.ctxAbort c).ctx c).st = .idle ∧ ((s.ctxAbort c).ctx c).hasJob = false ∧
      ∀ k, k ≠ c → (s.ctxAbort c).ctx k = s.ctx k := by
  set t := if isPatrol c then s else s.jobLost (rinkOf c) 1 with ht
  have hsame : SameContexts s t := by
    rw [ht]
    split
    · exact ⟨rfl, rfl, fun _ _ => rfl⟩
    · next hpat =>
      have hcopy : Reg.RNK_JOBLOST_CNT.HasCopy (rinkOf c) 0 0 := ⟨rinkOf_lt (lt_of_not_isPatrol hpat), by decide, by decide⟩
      exact ⟨rfl, rfl, fun _ hl => s.reg_setReg_apart ⟨hl, by decide, by decide⟩ hcopy (by decide) _⟩
  set u := t.updCtx c fun x => { x with aborting := true } with hu
  have hnone : u.hasLift c = false := hsame.hasLift hlift
  have hctx : u.ctx c = { s.ctx c with aborting := true } := by rw [hu, Dev.ctx_updCtx_same, hsame.ctx]
  have hx : ((u.ctx c).st == .faulted && (u.ctx c).aborting) = true := by rw [hctx]; simp [hst]
  have habort : s.ctxAbort c =
      (u.updCtx c fun x => { x with aborting := false, skz := { x.skz with armed := 1 } }).becomeIdle c := by
    unfold Dev.ctxAbort
    dsimp only
    rw [← ht, ← hu, abortOwned_none hnone, Dev.liftSettled, if_neg (by simp [hnone])]
    dsimp only
    rw [if_pos hx]
  rw [habort]
  refine ⟨(becomeIdle_mem ..).trans hsame.mem, ?_, ?_, fun k hk => ?_⟩
  · rw [becomeIdle_ctx, if_pos rfl]
  · rw [becomeIdle_ctx, if_pos rfl]
  · rw [becomeIdle_ctx, if_neg hk, Dev.ctx_updCtx_other _ hk, hu, Dev.ctx_updCtx_other _ hk, hsame.ctx]

/-! ### Walks and the TLBs -/

theorem walkStart_eq {c va : Nat} (hstall : (s.ctx c).stall = .walk va)
    (hroom : isPatrol c = true ∨ (s.eng.walks.filter (·.rink == rinkOf c)).length < 4) :
    s.walkStart c = ({ s with eng := { s.eng with walks := s.eng.walks ++
      [({ owner := c, rink := rinkOf c, space := (s.ctx c).space, va := va, dead := false } : Walk)] } }).updCtx c
        fun x => { x with stall := .walking } := by
  have hmay : (isPatrol c || !s.walksFull (rinkOf c)) = true := by
    rcases hroom with hpat | hlt
    · rw [hpat, Bool.true_or]
    · simp [Dev.walksFull, hlt]
  unfold Dev.walkStart
  simp only [hstall, hmay, if_true]

/-- A walk that ends for the context that waits for it, with a translation. -/
theorem walkComplete_found {c : Nat} {w : Walk} (hw : (s.eng.walks.find? fun x => midOf x.owner == midOf c) = some w) (howner : w.owner = c)
    (hlive : w.dead = false) (hstall : (s.ctx c).stall = .walking) (hbank : s.walkWaits w.va (s.rootOf w.rink w.space) = false)
    {e f : Dev} (he : e = ({ s with eng := { s.eng with walks := s.eng.walks.erase w } }).updCtx c fun x => { x with stall := .none })
    {tr : TlbE} (hwalk : e.walk (midOf c) w.space w.va (e.rootOf w.rink w.space) = (.ok tr, f)) :
    s.walkComplete c = (if isPatrol c then f else f.fillL2 (rinkOf c) tr).fillMicro c tr := by
  have hstall' : (Dev.ctx { s with eng := { s.eng with walks := s.eng.walks.erase w } } c).stall = .walking := hstall
  have hgo : ¬(w.owner ≠ c || (!w.dead && (s.ctx c).stall == .walking && s.walkWaits w.va (s.rootOf w.rink w.space))) = true := by
    simp [howner, hbank]
  unfold Dev.walkComplete
  simp only [hw]
  rw [if_neg hgo, if_neg (not_not_intro hstall'), hlive, if_neg Bool.false_ne_true, ← he, hwalk]

theorem each_updCtx_tlb_walks (s : Dev) (l : List Nat) (b : Nat) (f : Ctx → Ctx) :
    (s.each l fun i s => s.updCtx (b + i) f).eng.tlb = s.eng.tlb ∧ (s.each l fun i s => s.updCtx (b + i) f).eng.walks = s.eng.walks :=
  Dev.each_keeps (P := fun u => u.eng.tlb = s.eng.tlb ∧ u.eng.walks = s.eng.walks) (f := fun i s => s.updCtx (b + i) f)
    (fun _ _ _ h => h) s ⟨rfl, rfl⟩

/-! What a write of TLB_INVALIDATE leaves in the TLBs and walks of a rink. -/

theorem tlbInvalidate_ctx (s : Dev) (n v : Nat) {k : Nat} (hk : k < 32) : (s.tlbInvalidate n v).ctx (n * 32 + k) =
    { s.ctx (n * 32 + k) with micro := (s.ctx (n * 32 + k)).micro.filter (!invSelects v ·), walkFlt := [] } :=
  (each_updCtx_ctx _ List.nodup_range (List.mem_range.mpr hk) _).trans rfl

theorem tlbInvalidate_tlb (s : Dev) (n v : Nat) : (s.tlbInvalidate n v).eng.tlb = s.eng.tlb.upd n (·.filter (!invSelects v ·)) := by
  unfold Dev.tlbInvalidate Dev.setFlag
  dsimp only
  rw [setFld_eng, (each_updCtx_tlb_walks ..).1]

theorem tlbInvalidate_walks (s : Dev) (n v : Nat) : (s.tlbInvalidate n v).eng.walks =
    s.eng.walks.map fun w => if w.rink = n then { w with dead := true } else w := by
  unfold Dev.tlbInvalidate Dev.setFlag
  dsimp only
  rw [setFld_eng, (each_updCtx_tlb_walks ..).2]

theorem tlbInvalidate_busy (s : Dev) (n v : Nat) : (s.tlbInvalidate n v).flag .RNK_TLB_STATUS_INV_BUSY n = true :=
  Dev.flag_setFlag_same _ _ rfl (by decide) true n 0 0

theorem dead_of_tlbInvalidate (s : Dev) {n v : Nat} {w : Walk} (hw : w ∈ (s.tlbInvalidate n v).eng.walks) (hn : w.rink = n) : w.dead = true := by
  rw [tlbInvalidate_walks] at hw
  obtain ⟨x, -, rfl⟩ := List.mem_map.mp hw
  by_cases hx : x.rink = n
  · rw [if_pos hx]
  · rw [if_neg hx] at hn
    exact absurd hn hx

theorem mem_filter_invSelects {l : List TlbE} {v : Nat} {x : TlbE} :
    x ∈ l.filter (!invSelects v ·) ↔ x ∈ l ∧ invSelects v x = false := by simp

theorem mem_tlb_tlbInvalidate (s : Dev) (n v : Nat) (x : TlbE) :
    x ∈ (s.tlbInvalidate n v).eng.tlb.get n ↔ x ∈ s.eng.tlb.get n ∧ invSelects v x = false := by
  rw [tlbInvalidate_tlb, Tab.get_upd_same, mem_filter_invSelects]

theorem mem_micro_tlbInvalidate (s : Dev) (n v : Nat) {k : Nat} (hk : k < 32) (x : TlbE) :
    x ∈ ((s.tlbInvalidate n v).ctx (n * 32 + k)).micro ↔ x ∈ (s.ctx (n * 32 + k)).micro ∧ invSelects v x = false := by
  rw [tlbInvalidate_ctx s n v hk, mem_filter_invSelects]

/-- A write of TLB_INVALIDATE that reaches its rink. -/
theorem tlbInvalidate_row {who : Agent} {n : Nat} (hn : n < 8) (hwho : s.reaches who .RNK_TLB_INV n 0 true) (v : Nat) :
    ∃ u : Dev, u.eng = s.eng ∧ (s.rowWrite who .RNK_TLB_INV v n).eng = (u.tlbInvalidate n v).eng ∧
      (s.rowWrite who .RNK_TLB_INV v n).flag .RNK_TLB_STATUS_INV_BUSY n = true := by
  have hwrite : s.rnkWrite .RNK_TLB_INV n 0 who.mid who.ctx v = (s.plain .RNK_TLB_INV v n).tlbInvalidate n v := rfl
  have hcopy : Reg.RNK_TLB_STATUS.HasCopy n 0 0 := ⟨hn, by decide, by decide⟩
  rw [Dev.rowWrite_reaches hwho, copyStore_rnk _ rfl rfl]
  refine ⟨_, plain_eng .., (rnkWriteAll_eng ..).trans (congrArg Dev.eng hwrite), ?_⟩
  have hreg := rnkWriteAll_reg s .RNK_TLB_INV n 0 who.mid who.ctx v hcopy (by decide)
  exact (congrArg (fun x => bits x _ _ != 0) hreg).trans (tlbInvalidate_busy ..)

theorem tlbInvDone_eq {n : Nat} (h : ∀ w ∈ s.eng.walks, w.rink = n → w.dead = false) :
    s.tlbInvDone n = s.setFlag .RNK_TLB_STATUS_INV_BUSY false n := by
  have hnone : (s.eng.walks.any fun w => w.rink == n && w.dead) = false := by
    simpa using h
  rw [Dev.tlbInvDone, hnone, if_neg Bool.false_ne_true]

end Dev

/-! ### The rows -/

section
variable (s : State)

theorem exec_contextResume_eq (who : Agent) (c : CtxId) : exec (.contextResume who c) s = .next (s.withDev (s.dev.ctxCtrlRow who c 1)) := rfl

theorem exec_contextAbort_eq (who : Agent) (c : CtxId) : exec (.contextAbort who c) s = .next (s.withDev (s.dev.ctxCtrlRow who c 2)) := rfl

theorem exec_tableWalk_eq (c : CtxId) : exec (.tableWalk c) s = .next (s.withDev (s.dev.walkStart c)) := rfl

theorem exec_walkComplete_eq (c : CtxId) : exec (.walkComplete c) s = .next (s.withDev (s.dev.walkComplete c)) := rfl

theorem exec_tlbInvalidate_eq (who : Agent) (n : Fin 8) (v : Word) :
    exec (.tlbInvalidate who n v) s = .next (s.withDev (s.dev.rowWrite who .RNK_TLB_INV v.toNat n)) := rfl

theorem exec_tlbInvalidateDone_eq (n : Fin 8) : exec (.tlbInvalidateDone n) s = .next (s.withDev (s.dev.tlbInvDone n)) := rfl

theorem exec_engineOffline_agent (who : Agent) (n e : Fin 8) :
    exec (.engineOffline (.offline who) n e) s = .next (s.withDev (s.dev.offlineRow who n e)) := rfl

theorem exec_engineOffline_uncorrectable (n e : Fin 8) :
    exec (.engineOffline .uncorrectable n e) s = .next (s.withDev (s.dev.lmemRow n e)) := rfl

theorem exec_engineOffline_correctable (n e : Fin 8) :
    exec (.engineOffline .correctable n e) s = .next (s.withDev (s.dev.lmemCeRow n e)) := rfl

end

/-- Settles O43: an engine's end is a chain of changes each of which leaves what the earlier ones stopped, and an invalidation filters the TLBs. -/
theorem faultLossAndTlbRowsComplete : Obligations.FaultLossAndTlbRowsComplete := by
  unfold Obligations.FaultLossAndTlbRowsComplete
  intro s d
  refine ⟨?faulted, ?lost, ?correctable, ?walkStarts, ?walkEnds, ?invalidate, ?done⟩
  case faulted =>
    intro who c hwho hst
    refine ⟨?_, fun hlift => ?_⟩
    · obtain ⟨u, hsame, hmem, heng⟩ := Dev.ctxCtrlRow_obeyed hwho hst (.inl rfl)
      have hctx (k : Nat) : (d.ctxCtrlRow who c 1).ctx k = (u.ctxResume c).ctx k := congrArg (·.ctx.get k) heng
      have hself := (hctx c).trans ((Dev.ctxResume_ctx ..).trans (if_pos rfl))
      refine ⟨_, exec_contextResume_eq s who c, rfl, ?_, ?_, ?_, hmem.trans ((Dev.ctxResume_mem ..).trans hsame.mem), fun k hk => ?_⟩
      · exact congrArg Ctx.st hself
      · exact (congrArg Ctx.pc hself).trans (congrArg (·.pc) (hsame.ctx c) :)
      · exact congrArg Ctx.stall hself
      · exact (hctx k).trans ((Dev.ctxResume_ctx ..).trans ((if_neg hk).trans (hsame.ctx k)))
    · obtain ⟨u, hsame, hmem, heng⟩ := Dev.ctxCtrlRow_obeyed hwho hst (.inr rfl)
      have hctx (k : Nat) : (d.ctxCtrlRow who c 2).ctx k = (u.ctxAbort c).ctx k := congrArg (·.ctx.get k) heng
      obtain ⟨hmem', hidle, hjob, hothers⟩ :=
        Dev.ctxAbort_settled (s := u) ((congrArg Ctx.st (hsame.ctx c)).trans hst) (hsame.hasLift hlift)
      refine ⟨_, exec_contextAbort_eq s who c, rfl, ?_, ?_, hmem.trans (hmem'.trans hsame.mem), fun k hk => ?_⟩
      · exact (congrArg Ctx.st (hctx c)).trans hidle
      · exact (congrArg Ctx.hasJob (hctx c)).trans hjob
      · exact (hctx k).trans ((hothers k hk).trans (hsame.ctx k))
  case lost =>
    intro loss n e hne hon hue hoff
    suffices ∃ t, exec (.engineOffline loss n e) s = .next (s.withDev t) ∧ Dev.EngineLost n e d t by
      obtain ⟨t, hexec, hlost⟩ := this
      exact ⟨_, hexec, rfl, hlost.offline, hlost.queue, hlost.mem, hlost.halted⟩
    cases loss with
    | offline who => exact ⟨_, exec_engineOffline_agent s who n e, Dev.offlineRow_lost n.isLt e.isLt (hoff who rfl) hon⟩
    | uncorrectable => exact ⟨_, exec_engineOffline_uncorrectable s n e, Dev.lmemRow_lost n.isLt e.isLt (hue rfl).1 hon⟩
    | correctable => exact absurd rfl hne
  case correctable =>
    intro n e hon hreset heng
    rw [exec_engineOffline_correctable, Dev.lmemCeRow]
    simp only [d] at hon hreset heng
    rw [hon, hreset, heng]
    rfl
  case walkStarts =>
    intro c va hstall hroom
    rw [exec_tableWalk_eq, Dev.walkStart_eq hstall hroom]
  case walkEnds =>
    intro c w hw howner hlive hstall hbank e tr f hwalk
    rw [exec_walkComplete_eq, Dev.walkComplete_found hw howner hlive hstall hbank rfl hwalk]
  case invalidate =>
    intro who n v hwho
    obtain ⟨u, hu, hrow, hbusy⟩ := Dev.tlbInvalidate_row n.isLt hwho v.toNat
    let t := s.withDev (d.rowWrite who .RNK_TLB_INV v.toNat n)
    have heng : t.dev.eng = (u.tlbInvalidate n v.toNat).eng := hrow
    have hctx (k : Nat) : t.dev.ctx k = (u.tlbInvalidate n v.toNat).ctx k := congrArg (·.ctx.get k) heng
    have hctx' (k : Nat) : u.ctx k = d.ctx k := congrArg (·.ctx.get k) hu
    refine ⟨t, exec_tlbInvalidate_eq s who n v, rfl, hbusy, fun x => ?_, fun k hk x => ?_, fun w hw hrink => ?_, fun k hk => ?_, fun k hk => ?_⟩
    · rw [heng, Dev.mem_tlb_tlbInvalidate, hu]
    · rw [hctx, Dev.mem_micro_tlbInvalidate u n _ hk, hctx']
    · exact Dev.dead_of_tlbInvalidate u (heng ▸ hw) hrink
    · rw [hctx, Dev.tlbInvalidate_ctx u n _ hk]
    · rw [heng, Dev.tlbInvalidate_tlb, Tab.get_upd_other _ _ hk, hu]
  case done =>
    intro n hlive
    rw [exec_tlbInvalidateDone_eq, Dev.tlbInvDone_eq hlive]

end Sys2Proof.Machine
end

section
/-! Rules for the words of a context (R86, R88, R117 to R119): registers and flags after a write, the device that has issued a word, and the two shapes
that a word's row has: any change of the device that has issued it (`exec_issued`), or a change of its context alone (`exec_word`). -/

namespace Sys2Proof.Machine

/-! ### Registers and flags of a context -/

@[simp] theorem Ctx.wr_fl (x : Ctx) (r : Nat) (v : Word) : (x.wr r v).fl = x.fl := by
  unfold Ctx.wr
  split <;> rfl

@[simp] theorem Ctx.wr_pc (x : Ctx) (r : Nat) (v : Word) : (x.wr r v).pc = x.pc := by
  unfold Ctx.wr
  split <;> rfl

/-- A register reads what was written to it, and w0 reads 0 (R117). -/
theorem Ctx.rd_wr_same (x : Ctx) (r : Nat) (v : Word) : (x.wr r v).rd r = if r = 0 then 0#32 else v := by
  by_cases h : r = 0
  · rw [if_pos h, Ctx.rd, if_pos h]
  · simp only [Ctx.wr, Ctx.rd, if_neg h, Tab.get_set_same]

/-! ### The device that has issued a word -/

namespace Dev
variable (s : Dev) (c : Nat)

variable {s c} in
/-- A change of a context is what it makes of the context there. -/
theorem updCtx_congr {f g : Ctx → Ctx} (h : f (s.ctx c) = g (s.ctx c)) : s.updCtx c f = s.updCtx c g := by
  have htab : s.eng.ctx.upd c f = s.eng.ctx.upd c g := congrArg (Tab.set s.eng.ctx c) h
  rw [Dev.updCtx, htab]
  rfl

theorem engine_updCtx (f : Ctx → Ctx) (k : Nat) : (s.updCtx c f).engine k = s.engine k := rfl

theorem engine_updEng (e : Nat) (f : Eng → Eng) (k : Nat) :
    (s.updEng e f).engine k = if k = e then f (s.engine e) else s.engine k := by
  simp only [Dev.engine, Dev.updEng_eng, Tab.upd, Tab.get_set]

theorem issued_frame : s.issued c = { s with eng := (s.issued c).eng } := rfl

theorem issued_ctx (k : Nat) : (s.issued c).ctx k = if k = c then { s.ctx c with fence := false } else s.ctx k := ctx_updCtx ..

theorem issued_engine (k : Nat) : (s.issued c).engine k =
    if k = engOf c then { s.engine k with rr := (ctxIn c + 1) % 4, cycle := ((s.engine k).cycle + 1) % 2 ^ 32 } else s.engine k := by
  rw [Dev.issued, engine_updCtx, engine_updEng]
  split
  · next h => rw [h]
  · rfl

theorem nextWord_ctx (k : Nat) : (s.nextWord c).ctx k =
    if k = c then { s.ctx c with pc := ((s.ctx c).pc + 1) % imemWords c } else s.ctx k := by
  have hpc : (((s.ctx c).pc + 1 : Int) % (imemWords c : Int)).toNat = ((s.ctx c).pc + 1) % imemWords c := Int.toNat_natCast _
  rw [Dev.nextWord, Dev.goto, hpc, ctx_updCtx]

section
variable (f : Ctx → Ctx)

theorem simple_ctx (k : Nat) : (s.simple c f).ctx k =
    if k = c then { f (s.ctx c) with pc := ((f (s.ctx c)).pc + 1) % imemWords c } else s.ctx k := by
  rw [Dev.simple, nextWord_ctx, ctx_updCtx_same]
  split
  · rfl
  · next hk => exact s.ctx_updCtx_other hk f

theorem simple_engine (k : Nat) : (s.simple c f).engine k = s.engine k := rfl

theorem afterWord_ctx : (s.afterWord c f).ctx c =
    let x := f { s.ctx c with fence := false }
    { x with pc := (x.pc + 1) % imemWords c } := by
  have hctx := (s.issued c).simple_ctx c f c
  rw [if_pos rfl, issued_ctx, if_pos rfl] at hctx
  exact hctx

end

end Dev

/-! ### The rows of words -/

/-- A row that its engine issues has its effect on the device that has issued it. -/
theorem exec_issued {i : Instr} {c : CtxId} {op : SkzOp} {f : Nat → Dev → Dev} {s : State} (hi : exec i s = s.on (Dev.issue c op f))
    (h : s.dev.issues c op) : exec i s = .next (s.withDev (f (s.dev.fetchWord c) (s.dev.issued c))) := by
  rw [hi, State.on_eq, Dev.issue_issues _ h]

/-- A row whose word changes its context alone has that effect where its engine issues it. -/
theorem exec_word {i : Instr} {c : CtxId} {op : SkzOp} {f : Nat → Ctx → Ctx} {g : Ctx → Ctx} {s : State}
    (hi : exec i s = s.on (Dev.issue c op fun w => Dev.simple c (f w))) (h : s.dev.issues c op)
    (e : f (s.dev.fetchWord c) ((s.dev.issued c).ctx c) = g ((s.dev.issued c).ctx c)) :
    exec i s = .next (s.withDev (s.dev.afterWord c g)) := by
  rw [exec_issued hi h, Dev.simple, Dev.updCtx_congr e]
  rfl

end Sys2Proof.Machine
end

section
/-! O13 and O17: shifts and rotates (R140), and the base registers of modulo and bit-reversed addressing (R144, R145). -/

namespace Sys2Proof.Machine

theorem shiftRes_shl_val (a : Word) (amt : Nat) : (shiftRes .shl a amt).val = a <<< (amt % 256) := by
  apply BitVec.eq_of_toNat_eq
  rw [BitVec.toNat_shiftLeft, Nat.shiftLeft_eq]
  rfl

theorem shiftRes_shr_val (a : Word) (amt : Nat) : (shiftRes .shr a amt).val = a >>> (amt % 256) := by
  apply BitVec.eq_of_toNat_eq
  rw [BitVec.toNat_ushiftRight, Nat.shiftRight_eq_div_pow]
  exact Nat.mod_eq_of_lt ((Nat.div_le_self ..).trans_lt a.isLt)

theorem shiftRes_rol_val (a : Word) (amt : Nat) : (shiftRes .rol a amt).val = a.rotateLeft (amt % 256) :=
  BitVec.rotateLeft_mod_eq_rotateLeft

theorem shiftRes_ror_val (a : Word) (amt : Nat) : (shiftRes .ror a amt).val = a.rotateRight (amt % 256) :=
  BitVec.rotateRight_mod_eq_rotateRight

/-- An arithmetic shift by the width or more leaves copies of the sign. -/
theorem sshiftRight_of_le {a : Word} {n : Nat} (h : 32 ≤ n) : a.sshiftRight n = if a.msb then 0xFFFFFFFF#32 else 0#32 := by
  apply BitVec.eq_of_getLsbD_eq
  intro i hi
  have hout : ¬n + i < 32 := by omega
  rw [BitVec.getLsbD_sshiftRight]
  cases a.msb
  · simp [hi, hout]
  · have hones : (0xFFFFFFFF#32).getLsbD i = decide (i < 32) := BitVec.getLsbD_allOnes
    rw [if_pos rfl, hones]
    simp [hi, hout]

theorem bit_toNat (a : Word) (i : Nat) : bit a.toNat i = a.getLsbD i := bit_eq_testBit ..

/-- Settles O13: each value is the library's shift or rotate of words, and the carry is a bit of the operand or of the result. -/
theorem shiftsFollowTheAmount : Obligations.ShiftsFollowTheAmount := by
  unfold Obligations.ShiftsFollowTheAmount
  intro a amt n
  refine ⟨shiftRes_shl_val a amt, shiftRes_shr_val a amt, rfl, shiftRes_rol_val a amt, shiftRes_ror_val a amt, fun h => ?beyond, ?shl, ?shr,
    ?sar, ?rol, ?ror, fun k => ?flags⟩
  case beyond => exact ⟨BitVec.shiftLeft_eq_zero h, BitVec.ushiftRight_eq_zero h, sshiftRight_of_le h⟩
  case shl | shr => simp only [shiftRes, bit_toNat]; by_cases h : n ≤ 32 <;> simp [n, h]
  case sar => simp only [shiftRes, bit_toNat, n]
  case rol => rw [← shiftRes_rol_val a amt, ← bit_toNat]; rfl
  case ror => rw [← shiftRes_ror_val a amt]; rfl
  case flags => cases k <;> exact ⟨rfl, rfl, rfl⟩

/-! ### A ring of bytes -/

/-- The alignment of a ring is the smallest power of two that is not below its length. -/
theorem ringAlign_eq {len p : Nat} (hle : len ≤ 2 ^ p) (hmin : p = 0 ∨ 2 ^ (p - 1) < len) :
    (if len ≤ 1 then 1 else 2 ^ (Nat.log2 (len - 1) + 1)) = 2 ^ p := by
  match p with
  | 0 => exact if_pos hle
  | q + 1 =>
    have hlt : 2 ^ q < len := hmin.resolve_left q.succ_ne_zero
    have hone : ¬len ≤ 1 := fun h => absurd (Nat.one_le_two_pow (n := q)) (by omega)
    have hlog : Nat.log2 (len - 1) = q := (Nat.log2_eq_iff (by omega)).mpr (by omega)
    rw [if_neg hone, hlog]

theorem modNext_zero (b size : Nat) : modNext b 0 size = (b + size) % 2 ^ 32 := rfl

theorem modNext_ring {b len size p : Nat} (hle : len ≤ 2 ^ p) (hmin : p = 0 ∨ 2 ^ (p - 1) < len) (hlen : 0 < len) (hsize : size ≤ len)
    (hend : b - b % 2 ^ p + len ≤ 2 ^ 32) (hin : b % 2 ^ p < len) :
    modNext b len size = b - b % 2 ^ p + (b % 2 ^ p + size) % len := by
  have hstart : b % 2 ^ p ≤ b := Nat.mod_le ..
  simp only [modNext, ringAlign_eq hle hmin, if_neg hlen.ne']
  generalize b % 2 ^ p = r at *
  by_cases hwrap : len ≤ r + size
  · rw [if_pos (by omega), Nat.mod_eq_sub_mod hwrap, Nat.mod_eq_of_lt (show r + size - len < len by omega)]
    omega
  · rw [if_neg (by omega), Nat.mod_eq_of_lt (show r + size < len by omega)]
    omega

/-! ### Bits in reverse order -/

theorem revBits_lt (n x : Nat) : revBits n x < 2 ^ n := by
  induction n generalizing x with
  | zero => exact Nat.one_pos
  | succ n ih =>
    have hlow := ih (x / 2)
    rw [revBits, Nat.pow_succ]
    cases bit x 0 <;> simp only [b2n, if_true, if_false, Bool.false_eq_true] <;> omega

theorem testBit_revBits (n x i : Nat) : (revBits n x).testBit i = (decide (i < n) && x.testBit (n - 1 - i)) := by
  induction n generalizing x with
  | zero => simp [revBits]
  | succ n ih =>
    rw [revBits, Nat.mul_comm, Nat.testBit_two_pow_mul_add _ (revBits_lt ..), ih, Nat.testBit_div_two]
    rcases Nat.lt_trichotomy i n with hlt | rfl | hgt
    · have hpos : n - 1 - i + 1 = n - i := by omega
      simp [hlt, hlt.trans n.lt_succ_self, hpos]
    · rw [if_neg (Nat.lt_irrefl i), Nat.sub_self, bit_eq_testBit]
      cases h : x.testBit 0 <;> simp [b2n, h]
    · have hout : ¬i < n + 1 := by omega
      obtain ⟨k, hk⟩ : ∃ k, i - n = k + 1 := ⟨i - n - 1, by omega⟩
      cases bit x 0 <;> simp [b2n, hgt.not_gt, hout, hk, Nat.testBit_succ]

theorem revBits_revBits {n x : Nat} (h : x < 2 ^ n) : revBits n (revBits n x) = x := by
  apply Nat.eq_of_testBit_eq
  intro i
  rw [testBit_revBits, testBit_revBits]
  by_cases hi : i < n
  · have hback : n - 1 - (n - 1 - i) = i := by omega
    have hlt : n - 1 - i < n := by omega
    simp [hi, hback, hlt]
  · have hout : x.testBit i = false := Nat.testBit_lt_two_pow (h.trans_le (Nat.pow_le_pow_right (by decide) (Nat.le_of_not_lt hi)))
    simp [hi, hout]

/-! ### Bits outside a field that is written -/

theorem putBits_mod {hi lo : Nat} (h : lo ≤ hi) (n v : Nat) : putBits n hi lo v % 2 ^ lo = n % 2 ^ lo := by
  apply Nat.eq_of_testBit_eq
  intro i
  rw [Nat.testBit_mod_two_pow, Nat.testBit_mod_two_pow, testBit_putBits h]
  by_cases hi : i < lo
  · rw [if_neg (by omega)]
  · simp [hi]

theorem putBits_div {hi lo : Nat} (h : lo ≤ hi) (n v : Nat) : putBits n hi lo v / 2 ^ (hi + 1) = n / 2 ^ (hi + 1) := by
  apply Nat.eq_of_testBit_eq
  intro i
  rw [Nat.testBit_div_two_pow, Nat.testBit_div_two_pow, testBit_putBits h, if_neg (by omega)]

/-! ### Bit-reversed addressing -/

theorem revNext_plain {b inc size : Nat} (h : inc < size) : revNext b inc size = (b + size) % 2 ^ 32 := if_pos h

theorem revNext_field {b inc j : Nat} (h : 2 ^ j ≤ inc) :
    let k := Nat.log2 inc
    let n := k + 1 - j
    revNext b inc (2 ^ j) = putBits b k j (revBits n ((revBits n (bits b k j) + 1) % 2 ^ n)) := by
  simp only [revNext, if_neg h.not_gt, Nat.log2_two_pow, revField]

/-- Settles O17: within a ring the base wraps at most once, and the reversal of a field undoes itself. -/
theorem ringAndReversedBases : Obligations.RingAndReversedBases := by
  unfold Obligations.RingAndReversedBases
  refine ⟨fun b len size p hle hmin hlen _ hsize hend hin => modNext_ring hle hmin hlen hsize hend hin, modNext_zero,
    fun b inc size h => revNext_plain h, ?_⟩
  intro b inc j h _ k n b'
  have hjk : j ≤ k := (Nat.le_log2 (Nat.two_pow_pos j |>.trans_le h).ne').mpr h
  have hb' : b' = putBits b k j (revBits n ((revBits n (bits b k j) + 1) % 2 ^ n)) := revNext_field h
  have hfield : b' / 2 ^ j % 2 ^ n = revBits n ((revBits n (bits b k j) + 1) % 2 ^ n) := by
    rw [hb']
    exact (bits_putBits hjk ..).trans (Nat.mod_eq_of_lt (revBits_lt ..))
  refine ⟨by rw [hb', putBits_mod hjk], by rw [hb', putBits_div hjk], ?_⟩
  rw [hfield, revBits_revBits (Nat.mod_lt _ (Nat.two_pow_pos n))]
  rfl

end Sys2Proof.Machine
end

section
/-! O10, O11 and O14: the integer words (R131 to R135). Each changes its context alone, so its row is a function of the context (`exec_word`). -/

namespace Sys2Proof.Machine

/-! ### Immediate words -/

theorem immWord_signed (g : Word → Word → Word) (w : Nat) (x : Ctx) :
    immWord g true w x = x.wr (bits w 24 20) (g (x.rd (bits w 19 15)) ((BitVec.ofNat 15 w).signExtend 32)) := by
  rw [← sxWord_bits 14]
  rfl

theorem word_fImm15 (w : Nat) : word (fImm15 w) = (BitVec.ofNat 15 w).zeroExtend 32 := by
  apply BitVec.eq_of_toNat_eq
  rw [BitVec.toNat_setWidth, BitVec.toNat_ofNat, word_toNat, fImm15, bits, Nat.pow_zero, Nat.div_one]

theorem immWord_unsigned (g : Word → Word → Word) (w : Nat) (x : Ctx) :
    immWord g false w x = x.wr (bits w 24 20) (g (x.rd (bits w 19 15)) ((BitVec.ofNat 15 w).zeroExtend 32)) := by
  rw [← word_fImm15]
  rfl

theorem word_imm20 (w : Nat) : word (bits w 19 0 * 4096) = BitVec.ofNat 20 w ++ 0#12 := by
  apply BitVec.eq_of_toNat_eq
  have hlt : w % 2 ^ 20 * 4096 < 2 ^ 32 := by omega
  rw [BitVec.toNat_append, BitVec.toNat_ofNat, word_toNat, bits, Nat.pow_zero, Nat.div_one, Nat.mod_eq_of_lt hlt, Nat.shiftLeft_eq]
  exact (Nat.or_zero _).symm

theorem shiftKind_of_getElem? {t : Nat} {k : Shift} (h : [Shift.shl, .shr, .sar, .rol, .ror][t]? = some k) : shiftKind t = k := by
  match t with
  | 0 | 1 | 2 | 3 | 4 => exact Option.some.inj h
  | n + 5 => cases h

/-- Settles O10: each immediate word is its function of ra and the immediate, extended as its row says. -/
theorem immediateWordsComplete : Obligations.ImmediateWordsComplete := by
  unfold Obligations.ImmediateWordsComplete
  intro c s w hw imm rd ra
  subst hw
  refine ⟨fun h => ?addi, fun h => ?andi, fun h => ?ori, fun h => ?xori, fun h => ?muli, fun h => ?lui, fun h => ?cmpi, fun h k hk => ?shifti⟩
  case addi | muli => exact exec_word rfl h (immWord_signed ..)
  case andi | ori | xori => exact exec_word rfl h (immWord_unsigned ..)
  case lui => exact exec_word rfl h (congrArg _ (word_imm20 _))
  case cmpi => exact exec_word rfl h (by rw [← sxWord_bits 14]; rfl)
  case shifti => exact exec_word rfl h (by rw [← shiftKind_of_getElem? hk]; rfl)

/-! ### ALU words -/

theorem aluNoReg_iff (f : Nat) : aluNoReg f = true ↔ f = 0x15 ∨ f = 0x16 := by simp [aluNoReg]

theorem aluAlways_iff (f : Nat) : aluAlways f = true ↔ f ∈ [0x15, 0x16, 0x17, 0x19] := by simp [aluAlways, or_assoc]

theorem doAluWord_some {w : Nat} {x : Ctx} {r : Res} (h : aluRes (bits w 4 0) (x.rd (bits w 19 15)) (x.rd (bits w 14 10)) x.fl.c = some r) :
    doAluWord w x =
      let y := if bits w 4 0 = 0x15 ∨ bits w 4 0 = 0x16 then x else x.wr (bits w 24 20) r.val
      if bit w 9 ∨ bits w 4 0 ∈ [0x15, 0x16, 0x17, 0x19] then { y with fl := y.fl.put r } else y := by
  have hreg : x.wr (if aluNoReg (fFunc5 w) then 0 else fRd w) r.val =
      if bits w 4 0 = 0x15 ∨ bits w 4 0 = 0x16 then x else x.wr (bits w 24 20) r.val := by
    simp only [← aluNoReg_iff]
    exact (apply_ite (x.wr · r.val) ..)
  have hres : doAluWord w x = x.result (if aluNoReg (fFunc5 w) then 0 else fRd w) (fS w || aluAlways (fFunc5 w)) r := by
    simp only [doAluWord, fFunc5, fRa, fRb, h]
  rw [hres, Ctx.result, hreg]
  simp only [Bool.or_eq_true, aluAlways_iff]
  rfl

/-- Settles O11: the function's result goes to rd and its flags are written as S and the function say. -/
theorem aluWordCompletes : Obligations.AluWordCompletes := by
  unfold Obligations.AluWordCompletes
  intro c s w r hw h x hres
  subst hw
  exact exec_word rfl h (doAluWord_some hres)

/-! ### Division words -/

theorem divRes_unsigned {a b : Word} (hb : b ≠ 0#32) : ∃ q r, divRes false a b = (q, r, false) ∧
    a.toNat = q.toNat * b.toNat + r.toNat ∧ r.toNat < b.toNat := by
  refine ⟨a / b, a % b, ?_, ?_, BitVec.umod_lt a (b.pos_iff_ne_zero.mpr hb)⟩
  · rw [divRes, if_neg hb, if_neg Bool.false_ne_true, ← BitVec.toNat_udiv, ← BitVec.toNat_umod, BitVec.ofNat_toNat, BitVec.ofNat_toNat,
      BitVec.setWidth_eq, BitVec.setWidth_eq]
  · rw [BitVec.toNat_udiv, BitVec.toNat_umod, Nat.div_add_mod']

theorem divRes_signed {a b : Word} (hb : b ≠ 0#32) (hedge : ¬(a = 0x80000000#32 ∧ b = 0xFFFFFFFF#32)) :
    ∃ q r, divRes true a b = (q, r, false) ∧ a.toInt = q.toInt * b.toInt + r.toInt ∧ r.toInt.natAbs < b.toInt.natAbs ∧
      (r = 0#32 ∨ r.msb = a.msb) := by
  have hne : a ≠ BitVec.intMin 32 ∨ b ≠ -1#32 := by
    rw [← not_and_or]
    exact hedge
  have hq := BitVec.toInt_sdiv_of_ne_or_ne a b hne
  have hr := BitVec.toInt_srem a b
  refine ⟨a.sdiv b, a.srem b, ?_, ?_, ?_, ?_⟩
  · have hv : (a == 0x80000000#32 && b == 0xFFFFFFFF#32) = false := by simpa using hedge
    rw [divRes, if_neg hb, if_pos rfl, ← hq, ← hr, BitVec.ofInt_toInt, BitVec.ofInt_toInt, hv]
  · rw [hq, hr, Int.tdiv_mul_add_tmod]
  · rw [hr, Int.natAbs_tmod]
    exact Nat.mod_lt _ (Int.natAbs_pos.mpr fun h => hb (BitVec.eq_of_toInt_eq h))
  · rw [BitVec.msb_srem]
    by_cases h : a.srem b = 0#32 <;> simp [h]

theorem divWord_eq {sgn v : Bool} {w : Nat} {x : Ctx} {q r : Word} (h : divRes sgn (x.rd (bits w 19 15)) (x.rd (bits w 14 10)) = (q, r, v)) :
    divWord sgn w x = { (x.wr (bits w 24 20) q).wr (bits w 24 20 + 1) r with
      fl := ⟨decide (q = 0#32), q.msb, false, v, x.fl.dz || decide (x.rd (bits w 14 10) = 0#32)⟩ } := by
  simp only [divWord, fRa, fRb, h, Ctx.wr_fl]
  rfl

/-- Settles O14: the quotient and the remainder are the library's, rounded toward zero, apart from a zero divisor and the quotient 2³¹. -/
theorem divisionWordsComplete : Obligations.DivisionWordsComplete := by
  unfold Obligations.DivisionWordsComplete
  intro c s w hw x a b after
  subst hw
  have hexec {i : Instr} {op : SkzOp} {sgn v : Bool} {q r : Word} (h : s.dev.issues c op)
      (hi : exec i s = s.on (Dev.issue c op fun w => Dev.simple c (divWord sgn w))) (hres : divRes sgn a b = (q, r, v)) :
      exec i s = .next (s.withDev (after q r v)) := exec_word hi h (divWord_eq hres)
  have hzero (sgn : Bool) (hb : b = 0#32) : divRes sgn a b = (0#32, a, false) := if_pos hb
  refine ⟨fun h => ?dvs, fun h => ?dvu⟩
  case dvs =>
    by_cases hb : b = 0#32
    · exact ⟨0#32, a, false, hexec h rfl (hzero true hb), by simp [hb]⟩
    by_cases hedge : a = 0x80000000#32 ∧ b = 0xFFFFFFFF#32
    · have hres : divRes true a b = (a, 0#32, true) := by rw [hedge.1, hedge.2]; decide
      exact ⟨a, 0#32, true, hexec h rfl hres, by simp [hedge]⟩
    · obtain ⟨q, r, hres, hspec⟩ := divRes_signed hb hedge
      exact ⟨q, r, false, hexec h rfl hres, by rw [if_neg hb, if_neg hedge]; exact ⟨rfl, hspec⟩⟩
  case dvu =>
    by_cases hb : b = 0#32
    · exact ⟨0#32, a, false, hexec h rfl (hzero false hb), by simp [hb]⟩
    · obtain ⟨q, r, hres, hspec⟩ := divRes_unsigned (a := a) hb
      exact ⟨q, r, false, hexec h rfl hres, by rw [if_neg hb]; exact ⟨rfl, hspec⟩⟩

end Sys2Proof.Machine
end

section
/-! O21, O22, O24 and O25: branches (R137), flags and control registers (R139, R150, R153), and the words of the coprocessors CP0 and CP2 (R155,
R157). -/

namespace Sys2Proof.Machine

/-! ### Branches -/

theorem fOff14_toInt (w : Nat) : fOff14 w = (BitVec.ofNat 14 w).toInt := by
  rw [fOff14, signed, BitVec.toInt_eq_toNat_cond, BitVec.toNat_ofNat]
  by_cases h : w % 2 ^ 14 < 2 ^ 13
  · rw [if_pos h, if_pos (by omega)]
  · rw [if_neg h, if_neg (by omega)]

theorem imemWords_eq (c : Nat) : imemWords c = if c < 256 then 16384 else 524288 := by
  by_cases h : c < 256 <;> simp [imemWords, isPatrol, h]

theorem Dev.bcWord_eq (c w : Nat) (s : Dev) : s.bcWord c w =
    s.goto c (if condHolds (bits w 24 21) (s.ctx c).fl then (s.ctx c).pc + fOff14 w else (s.ctx c).pc + 1) :=
  (apply_ite (fun t => s.goto c t) ..).symm

theorem Dev.dbnzWord_eq (c w : Nat) (s : Dev) : let v := (s.ctx c).rd (fRa w) - 1#32
    s.dbnzWord c w =
      (s.updCtx c fun x => x.wr (fRa w) v).goto c (if v = 0#32 then (s.ctx c).pc + 1 else (s.ctx c).pc + fOff14 w) := by
  intro v
  have hpc : ((s.updCtx c fun x => x.wr (fRa w) v).ctx c).pc = (s.ctx c).pc := by rw [Dev.ctx_updCtx_same, Ctx.wr_pc]
  have hnext : (s.updCtx c fun x => x.wr (fRa w) v).nextWord c = (s.updCtx c fun x => x.wr (fRa w) v).goto c ((s.ctx c).pc + 1) := by
    rw [Dev.nextWord, hpc]
  rw [apply_ite (fun t : Int => (s.updCtx c fun x => x.wr (fRa w) v).goto c t), ← hnext]
  rfl

/-- Settles O21: every branch ends in `Dev.goto`, which takes its target modulo the instruction memory. -/
theorem branchesComplete : Obligations.BranchesComplete := by
  unfold Obligations.BranchesComplete
  intro c s w hw d x size go far next dec
  subst hw
  have hsize : imemWords c = size := imemWords_eq c
  have hgo (t : Int) (e : Dev) : s.withDev (e.goto c t) = go t e := by rw [Dev.goto, hsize]
  have hfar : (x.pc : Int) + fOff14 (s.dev.fetchWord c) = far := by rw [fOff14_toInt]
  refine ⟨fun h => ?bc, fun h => ?jal, fun h => ?jr, fun h => ?dbnz⟩
  case bc => rw [exec_issued rfl h, Dev.bcWord_eq, hgo, hfar]
  case jal => rw [exec_issued rfl h, Dev.jalWord, hgo, hfar, hsize]; rfl
  case jr => rw [exec_issued rfl h, Dev.jrWord, hgo]; rfl
  case dbnz => rw [exec_issued rfl h, Dev.dbnzWord_eq, hgo, hfar]; rfl

/-! ### Flags, FENCE, SETSPACE and control registers -/

theorem FlagSet.code_eq (f : FlagSet) : f.code =
    (BitVec.ofBool f.dz ++ BitVec.ofBool f.v ++ BitVec.ofBool f.c ++ BitVec.ofBool f.n ++ BitVec.ofBool f.z).toNat := by
  obtain ⟨z, n, c, v, dz⟩ := f
  revert z n c v dz
  decide

theorem flagsOf_toNat (v : Word) :
    flagsOf v.toNat = ⟨v.getLsbD 0, v.getLsbD 1, v.getLsbD 2, v.getLsbD 3, v.getLsbD 4⟩ := by
  simp only [flagsOf, bit_eq_testBit]
  rfl

/-- Settles O22: the number of the flags has them as its bits, and the other words do what their rows say. -/
theorem contextWordsComplete : Obligations.ContextWordsComplete := by
  unfold Obligations.ContextWordsComplete
  intro c s w hw d ra
  subst hw
  refine ⟨fun h => ?mffl, fun h => ?mtfl, fun h => ?fence, fun h => ?yield, fun h => ?setspace, fun h => ?rdcr, fun h => ?wrcr⟩
  case mffl => exact exec_word rfl h (by rw [← FlagSet.code_eq]; rfl)
  case mtfl => exact exec_word rfl h (by rw [flagsOf_toNat]; rfl)
  case fence | yield | setspace => exact exec_word rfl h rfl
  case rdcr | wrcr => rw [exec_issued rfl h]; rfl

/-! ### CRC and bit stuffing -/

/-- Settles O24: each word's effect on its context is the one that its row states. -/
theorem crcAndStuffingWordsComplete : Obligations.CrcAndStuffingWordsComplete := by
  unfold Obligations.CrcAndStuffingWordsComplete
  intro c s w hw rd a b count byte go
  subst hw
  refine ⟨fun h => ?crcCfg, fun h => ?crcSet, fun h => ?crcGet, fun h => ?crcUb, fun h => ?crcUh, fun h => ?crcUw, fun h => ?stfCfg,
    fun h => ?stfPut, fun h => ?stfGet, fun h => ?stfCnt⟩
  case crcCfg | crcSet | crcGet | crcUb | crcUh | crcUw | stfCfg | stfPut | stfGet | stfCnt => exact exec_word rfl h rfl

/-! ### Floating point -/

theorem fcvtIntWord_eq (sgn : Bool) (w : Nat) (x : Ctx) :
    let q := ((fmtOf w).unpack (x.frd (fmtOf w) (fRa w))).toIntSat x.rm (if sgn then -2147483648 else 0) (if sgn then 2147483647 else 4294967295)
    fcvtIntWord sgn w x = (x.wr (fRd w) (BitVec.ofInt 32 q.1)).raise q.2 := by
  have hword (i : Int) : word (unsign 32 i) = BitVec.ofInt 32 i := by
    apply BitVec.eq_of_toNat_eq
    rw [word_toNat, unsign, BitVec.toNat_ofInt, Nat.mod_eq_of_lt (by omega)]
  intro q
  rw [← hword]
  rfl

/-- The exceptions that FCMP raises. -/
def fcmpRaised (w : Nat) (x : Ctx) : FFlags :=
  let a := (fmtOf w).unpack (x.frd (fmtOf w) (fRa w))
  let b := (fmtOf w).unpack (x.frd (fmtOf w) (fRb w))
  { nv := a == FVal.nan true || b == FVal.nan true || (Config.fcmpSignals && (a.isNaN || b.isNaN)) }

theorem fcmpWord_eq (w : Nat) (x : Ctx) :
    let a := (fmtOf w).unpack (x.frd (fmtOf w) (fRa w))
    let b := (fmtOf w).unpack (x.frd (fmtOf w) (fRb w))
    fcmpWord w x = ({ x with fl :=
      if a.isNaN ∨ b.isNaN then { x.fl with z := false, n := false, c := false, v := true }
      else { x.fl with z := a.cmp b == Ordering.eq, n := a.cmp b == Ordering.lt, c := a.cmp b != Ordering.lt, v := false } }).raise
        (fcmpRaised w x) := by
  intro a b
  have hfl : (if a.isNaN || b.isNaN then { x.fl with z := false, n := false, c := false, v := true }
      else match a.cmp b with
        | .eq => { x.fl with z := true, n := false, c := true, v := false }
        | .lt => { x.fl with z := false, n := true, c := false, v := false }
        | .gt => { x.fl with z := false, n := false, c := true, v := false } : FlagSet) =
      if a.isNaN ∨ b.isNaN then { x.fl with z := false, n := false, c := false, v := true }
      else { x.fl with z := a.cmp b == Ordering.eq, n := a.cmp b == Ordering.lt, c := a.cmp b != Ordering.lt, v := false } := by
    simp only [Bool.or_eq_true]
    cases a.cmp b <;> rfl
  rw [← hfl]
  rfl

/-- Settles O25: FCMP's flags are the order of its operands, and a conversion to an integer is cut to 32 bits as a two's complement. -/
theorem floatWordsComplete : Obligations.FloatWordsComplete := by
  unfold Obligations.FloatWordsComplete
  intro c s w f from_ hw hf hfrom rd a b rm go put sign
  subst hw hf hfrom
  refine ⟨fun h => ?fadd, fun h => ?fsub, fun h => ?fmul, fun h => ?fdiv, fun h => ?fsqrt, fun h => ?fmin, fun h => ?fmax, fun h => ?fma,
    fun h => ?fcmp, fun h => ?fabs, fun h => ?fneg, fun h => ?fcvtW, fun h => ?fcvtWu, fun h => ?fcvtFw, fun h => ?fcvtFwu, fun h => ?fcvtX⟩
  case fcmp => exact ⟨fcmpRaised _, exec_word rfl h (fcmpWord_eq ..)⟩
  case fcvtW | fcvtWu => exact exec_word rfl h (fcvtIntWord_eq ..)
  case fadd | fsub | fmul | fdiv | fsqrt | fmin | fmax | fma | fabs | fneg | fcvtFw | fcvtFwu | fcvtX => exact exec_word rfl h rfl

end Sys2Proof.Machine
end

section
/-! O15, O16, O19 and O20: paired and illegal words (R122, R152), misaligned accesses (R142), the store buffer and returning data (R103, R121). -/

namespace Sys2Proof.Machine

namespace Dev
variable (s : Dev) (c : Nat)

theorem illegalWord_frame : s.illegalWord c = { s with eng := (s.illegalWord c).eng } := rfl

theorem illegalWord_engine : (s.illegalWord c).engine (engOf c) =
    { s.engine (engOf c) with illegalPc := (s.ctx c).pc, illegalCnt := min ((s.engine (engOf c)).illegalCnt + 1) (2 ^ 32 - 1) } := by
  rw [Dev.illegalWord, Dev.nextWord, Dev.goto, engine_updCtx, engine_updEng, if_pos rfl]

theorem illegalWord_ctx (k : Nat) : (s.illegalWord c).ctx k =
    if k = c then { s.ctx c with pc := ((s.ctx c).pc + 1) % imemWords c } else s.ctx k := by
  rw [Dev.illegalWord, nextWord_ctx]
  rfl

end Dev

/-- Settles O16: the word changes its context's program counter and two numbers of its engine. -/
theorem illegalWordIsCounted : Obligations.IllegalWordIsCounted := by
  unfold Obligations.IllegalWordIsCounted
  intro c s h
  refine ⟨_, exec_issued (f := fun _ => Dev.illegalWord c) rfl h, ?_⟩
  intro e e'
  have hself := (s.dev.issued_ctx c c).trans (if_pos rfl)
  have heng : e' = _ := (s.dev.issued c).illegalWord_engine c
  rw [Dev.issued_engine, if_pos rfl, hself] at heng
  refine ⟨?_, by rw [heng], by rw [heng], by rw [heng], by rw [heng], State.withDev_pending .., ?_, ?_, fun k => ?_⟩
  · rw [State.withDev_dev, Dev.illegalWord_ctx, if_pos rfl, hself]
  · rw [State.withDev_dev, Dev.illegalWord_frame, Dev.issued_frame]
  · rw [State.withDev_dev, Dev.illegalWord_frame, Dev.issued_frame]
  · rw [State.withDev_dev, Dev.illegalWord_ctx, hself]
    by_cases hk : k = c
    · rw [if_pos hk, hk]
      exact ⟨rfl, rfl, rfl, rfl, fun h => absurd rfl h⟩
    · rw [if_neg hk, Dev.issued_ctx, if_neg hk]
      exact ⟨rfl, rfl, rfl, rfl, fun _ => rfl⟩

/-! ### Paired words -/

theorem Dev.memWord_noAccess {c w : Nat} {s : Dev} {a b : OpOut} (hout : outsOf w (s.ctx c) = [a, b]) (ha : a.acc = none) (hb : b.acc = none) :
    s.memWord c w = s.complete c [a, b] [0, 0] := by
  simp [Dev.memWord, hout, ha, hb, Dev.resolve, Dev.ownAll, spread]

/-- Settles O15: the two operations come from one context, and their results are written one after the other. -/
theorem pairedWordCompletes : Obligations.PairedWordCompletes := by
  unfold Obligations.PairedWordCompletes
  intro c s w a b hw h x ha hb hpair hacc hacc' d
  subst hw
  have hout : outsOf (s.dev.fetchWord c) x = [a, b] := by
    rw [outsOf, if_pos hpair, ← ha, ← hb]
    rfl
  rw [exec_issued rfl h, Dev.memWord_noAccess hout hacc hacc']
  rfl

/-! ### Misaligned accesses -/

theorem Dev.lookAcc_misaligned {s : Dev} {c : Nat} {a : MemAcc} (h : a.va % a.size ≠ 0) : s.lookAcc c a = (.fault fltAlign, s) := if_pos h

namespace Dev
variable (s : Dev) (c : Nat)

theorem ringMask_eng (n mask : Nat) : (s.ringMask n mask).eng = s.eng := by rw [Dev.ringMask_frame]

theorem faultBell_eng (n : Nat) : (s.faultBell n).eng = s.eng := by
  unfold Dev.faultBell
  split <;> exact Dev.when_keeps (P := fun t => t.eng = s.eng) (fun t h => (t.ringMask_eng ..).trans h) s rfl

/-- A fault leaves its context FAULTED, with its word and its registers. -/
theorem faultCtx_ctx (code : Nat) (half : Half) (done store : Bool) (va : Nat) :
    (s.faultCtx c code half done store va).ctx c = { s.ctx c with stall := .none, walkFlt := [], st := .faulted } := by
  have hfault := s.updCtx_setSt_ctx c (fun x => { x with stall := .none, walkFlt := [] }) .faulted c
  rw [if_pos rfl] at hfault
  have heng : (s.faultCtx c code half done store va).eng =
      ((s.updCtx c fun x => { x with stall := .none, walkFlt := [] }).setSt c .faulted).eng := by
    unfold Dev.faultCtx
    dsimp only
    split <;> exact faultBell_eng ..
  rw [Dev.ctx, heng]
  exact hfault

end Dev

/-- Settles O19: alignment is looked at before any translation, so the word faults and its access is not made. -/
theorem misalignedAccessFaults : Obligations.MisalignedAccessFaults := by
  unfold Obligations.MisalignedAccessFaults
  intro c s w size m st i hw hi d b va hsize hodd
  subst hw
  obtain ⟨rfl, h⟩ : i = memInstr c st m ∧ s.dev.issues c (memOp st m) := by
    rcases hi with ⟨rfl, h, rfl, rfl⟩ | ⟨rfl, h, rfl, rfl⟩ | ⟨rfl, h, rfl, rfl⟩ | ⟨rfl, h, rfl, rfl⟩ <;> exact ⟨rfl, h⟩
  obtain rfl : typeSize (fType (s.dev.fetchWord c)) = size := typeSize_of_getElem? hsize
  let acc := longAcc st m (s.dev.fetchWord c) (d.ctx c)
  have hva : acc.va = va := by
    simp only [acc, longAcc, sxWord_bits 11]
    rfl
  have hlook : d.lookAcc c acc = (.fault fltAlign, d) := Dev.lookAcc_misaligned (hva ▸ hodd)
  have hdata := (Dev.sameData_issued s.dev c).trans (d.sameData_faultCtx c 5 .long false st va)
  have hctx := d.faultCtx_ctx c 5 .long false st va
  have hself : d.ctx c = { s.dev.ctx c with fence := false } := (Dev.issued_ctx ..).trans (if_pos rfl)
  refine ⟨?_, hdata.1, hdata.2 c, by rw [hctx, hself], by rw [hctx, hself], by rw [hctx]⟩
  rw [exec_memInstr_eq, Dev.issue_issues _ h, Dev.memWord_fault (outsOf_of_opOf h.2 _) (longMem_acc ..) hlook, ← hva]
  rfl

/-! ### The store buffer and returning data -/

namespace Dev
variable {s : Dev} {c : Nat}

theorem storeDrain_held {e : StoreE} (he : ((s.engine (engOf c)).stores.find? fun e => e.ctx == c) = some e) (h : s.storeHeld c e = true) :
    s.storeDrain c = s := by
  simp only [Dev.storeDrain, he, h, if_true]

theorem storeDrain_leaves {e : StoreE} (he : ((s.engine (engOf c)).stores.find? fun e => e.ctx == c) = some e) (h : s.storeHeld c e = false) :
    s.storeDrain c = (s.updEng (engOf c) fun g => { g with stores := g.stores.erase e }).storeReach c e := by
  simp only [Dev.storeDrain, he, h, if_false, Bool.false_eq_true]

/-- A signal waits for every earlier store of the engine, any store for an earlier one the same way. -/
theorem storeHeld_of_earlier {e x : StoreE} (hx : x ∈ (s.engine (engOf c)).stores) (hseq : x.seq < e.seq)
    (h : isSignal e.pa = true ∨ sameWay e.pa x.pa = true) : s.storeHeld c e = true := by
  have hany : ((s.engine (engOf c)).stores.any fun x => x.seq < e.seq && (isSignal e.pa || sameWay e.pa x.pa)) = true :=
    List.any_eq_true.mpr ⟨x, hx, by simpa [hseq] using h⟩
  rw [Dev.storeHeld, hany]
  rfl

section
variable {w pa seq : Nat} {o : OpOut} {a : MemAcc} (hstall : (s.ctx c).stall = .data w [pa] 0 seq) (hout : outsOf w (s.ctx c) = [o])
  (hacc : o.acc = some a) (hload : a.store = false) (hfar : localTo c pa = false)
include hstall hout hacc hload hfar

theorem pendingLoads_one : s.pendingLoads c = (seq, [(pa, a.size)]) := by
  simp [Dev.pendingLoads, hstall, hout, hacc, hload, hfar]

/-- The data of a word with one load return where nothing holds the load. -/
theorem dataReturn_one (halive : s.alive c = true) (hcov : s.covered c seq pa a.size = false) (hbehind : s.behindLoad c seq pa = false)
    (hbank : s.bankWaits pa a.size = false) :
    let q := s.busRead (midOf c) (ctxIn c) pa a.size
    s.dataReturn c = if q.1.ue then q.2.faultCtx c fltData a.half false false a.va else q.2.complete c [o] [leVal q.1.data] := by
  intro q
  have hmade : s.makeAll c [(a, pa)] = ([(leVal q.1.data, q.1.ue)], q.2) := by
    simp only [Dev.makeAll, hload, hfar, Bool.false_eq_true, if_false]
    rfl
  have hpend := pendingLoads_one hstall hout hacc hload hfar
  simp only [Dev.dataReturn, hstall, hpend, hout]
  cases hue : q.1.ue <;> simp [hacc, halive, hcov, hbehind, hbank, hmade, hue, hload, spread]

end

end Dev

/-- Settles O20: the drain and the return of one load's data each turn on what holds the access. -/
theorem storesDrainAndDataReturns : Obligations.StoresDrainAndDataReturns := by
  unfold Obligations.StoresDrainAndDataReturns
  refine ⟨fun c s e he => ⟨fun hfree => ?leaves, fun x hx hseq hway => ?held⟩, ?returns⟩
  case leaves => exact next_congr (Dev.storeDrain_leaves he hfree)
  case held => exact next_congr (Dev.storeDrain_held he (Dev.storeHeld_of_earlier hx hseq hway))
  case returns =>
    intro c s w pa seq o a hstall halive hout hacc hload hfar hcov hbehind hbank q
    exact next_congr (Dev.dataReturn_one hstall hout hacc hload hfar halive hcov hbehind hbank)

end Sys2Proof.Machine
end

section
/-! O26: the frame of the words that change their context alone. `WordFrame` says what such a word may change of its context; each word's function
keeps to it (`contextRow_integer`, `contextRow_float`), and issuing the word changes two numbers of the engine beside (R88). -/

namespace Sys2Proof.Machine

/-- What a word may change of its context: the register `rd`, with `two` also w(rd + 1); with `fl` flags, with `dz` DZ; with `sp` SPACE and the
micro-TLB; the program counter, FENCE, the CRC and bit-stuffing units, and SKZ_FPCSR. -/
structure WordFrame (rd : Nat) (two fl dz sp : Prop) (x y : Ctx) : Prop where
  regs : ∀ r, r ≠ rd → (two → r ≠ rd + 1) → y.rd r = x.rd r
  flags : ¬fl → y.fl = x.fl
  divZero : ¬dz → y.fl.dz = x.fl.dz
  space : ¬sp → y.space = x.space ∧ y.micro = x.micro
  rest : { y with
    w := x.w, fl := x.fl, space := x.space, micro := x.micro, pc := x.pc, fence := x.fence, crc := x.crc, stf := x.stf
    skz := { y.skz with fpcsr := x.skz.fpcsr } } = x

namespace WordFrame
variable {rd : Nat} {two fl dz sp : Prop} {x y z : Ctx}

theorem refl (x : Ctx) : WordFrame rd two fl dz sp x x := ⟨fun _ _ _ => rfl, fun _ => rfl, fun _ => rfl, fun _ => ⟨rfl, rfl⟩, rfl⟩

theorem trans (h : WordFrame rd two fl dz sp x y) (g : WordFrame rd two fl dz sp y z) : WordFrame rd two fl dz sp x z where
  regs r hr hr' := (g.regs r hr hr').trans (h.regs r hr hr')
  flags hfl := (g.flags hfl).trans (h.flags hfl)
  divZero hdz := (g.divZero hdz).trans (h.divZero hdz)
  space hsp := ⟨(g.space hsp).1.trans (h.space hsp).1, (g.space hsp).2.trans (h.space hsp).2⟩
  rest := by
    rw [← h.rest, ← g.rest]

theorem kept (h : WordFrame rd two fl dz sp x y) : { y.skz with fpcsr := x.skz.fpcsr } = x.skz ∧ y.st = x.st ∧ y.prio = x.prio ∧
    y.hasJob = x.hasJob ∧ y.stall = x.stall ∧ y.bound = x.bound ∧ y.pgPc = x.pgPc ∧ y.pgSp = x.pgSp ∧ y.pgBase = x.pgBase :=
  ⟨(congrArg Ctx.skz h.rest :), (congrArg Ctx.st h.rest :), (congrArg Ctx.prio h.rest :), (congrArg Ctx.hasJob h.rest :),
    (congrArg Ctx.stall h.rest :), (congrArg Ctx.bound h.rest :), (congrArg Ctx.pgPc h.rest :), (congrArg Ctx.pgSp h.rest :),
    (congrArg Ctx.pgBase h.rest :)⟩

/-- A write of a register that the word names. -/
theorem wr (h : WordFrame rd two fl dz sp x y) {r : Nat} (hr : r = rd ∨ two ∧ r = rd + 1) (v : Word) :
    WordFrame rd two fl dz sp x (y.wr r v) := by
  by_cases hzero : r = 0
  · rwa [Ctx.wr, if_pos hzero]
  · refine h.trans ⟨fun k hk hk' => Ctx.rd_wr_other y (fun e => ?_) v, ?_, ?_, ?_, ?_⟩
    · rcases hr with hrd | ⟨htwo, hsucc⟩
      · exact hk (e.trans hrd)
      · exact hk' htwo (e.trans hsucc)
    all_goals
      rw [Ctx.wr, if_neg hzero]
    · exact fun _ => rfl
    · exact fun _ => rfl
    · exact fun _ => ⟨rfl, rfl⟩

/-- A write of flags. -/
theorem setFl (h : WordFrame rd two fl dz sp x y) (hfl : fl) {g : FlagSet} (hdz : dz ∨ g.dz = y.fl.dz) :
    WordFrame rd two fl dz sp x { y with fl := g } :=
  h.trans ⟨fun _ _ _ => rfl, fun hn => absurd hfl hn, fun hn => hdz.resolve_left hn, fun _ => ⟨rfl, rfl⟩, rfl⟩

theorem crc (h : WordFrame rd two fl dz sp x y) (u : Crc) : WordFrame rd two fl dz sp x { y with crc := u } :=
  h.trans ⟨fun _ _ _ => rfl, fun _ => rfl, fun _ => rfl, fun _ => ⟨rfl, rfl⟩, rfl⟩

theorem stf (h : WordFrame rd two fl dz sp x y) (u : Stf) : WordFrame rd two fl dz sp x { y with stf := u } :=
  h.trans ⟨fun _ _ _ => rfl, fun _ => rfl, fun _ => rfl, fun _ => ⟨rfl, rfl⟩, rfl⟩

theorem stfFl (h : WordFrame rd two fl dz sp x y) (hfl : fl) (u : Stf) {g : FlagSet} (hdz : g.dz = y.fl.dz) :
    WordFrame rd two fl dz sp x { y with stf := u, fl := g } := (h.stf u).setFl hfl (.inr hdz)

theorem setFence (h : WordFrame rd two fl dz sp x y) (b : Bool) : WordFrame rd two fl dz sp x { y with fence := b } :=
  h.trans ⟨fun _ _ _ => rfl, fun _ => rfl, fun _ => rfl, fun _ => ⟨rfl, rfl⟩, rfl⟩

theorem setPc (h : WordFrame rd two fl dz sp x y) (n : Nat) : WordFrame rd two fl dz sp x { y with pc := n } :=
  h.trans ⟨fun _ _ _ => rfl, fun _ => rfl, fun _ => rfl, fun _ => ⟨rfl, rfl⟩, rfl⟩

theorem raise (h : WordFrame rd two fl dz sp x y) (g : FFlags) : WordFrame rd two fl dz sp x (y.raise g) :=
  h.trans ⟨fun _ _ _ => rfl, fun _ => rfl, fun _ => rfl, fun _ => ⟨rfl, rfl⟩, rfl⟩

theorem result (h : WordFrame rd two fl dz sp x y) (hfl : fl) {r : Nat} (hr : r = 0 ∨ r = rd) (b : Bool) (q : Res) :
    WordFrame rd two fl dz sp x (y.result r b q) := by
  have hwr : WordFrame rd two fl dz sp x (y.wr r q.val) := by
    rcases hr with rfl | rfl
    · exact h
    · exact h.wr (.inl rfl) _
  unfold Ctx.result
  split
  · exact hwr.setFl hfl (.inr rfl)
  · exact hwr

/-- A floating-point result in a register or a pair. -/
theorem fres (h : WordFrame rd two fl dz sp x y) (htwo : two) (f : Fmt) (v : Nat) : WordFrame rd two fl dz sp x (y.fwr f rd v) := by
  have hlow := h.wr (.inl rfl) (word v)
  unfold Ctx.fwr
  split
  · exact hlow.wr (.inr ⟨htwo, rfl⟩) _
  · exact hlow

end WordFrame

/-! ### The frame of each word -/

section
variable {two fl dz sp : Prop} (w : Nat) (x : Ctx)

theorem doAluWord_frame (hfl : fl) : WordFrame (bits w 24 20) two fl dz sp x (doAluWord w x) := by
  unfold doAluWord
  dsimp only
  split
  · refine .result (.refl x) hfl ?_ _ _
    split
    · exact .inl rfl
    · exact .inr rfl
  · exact .refl x

theorem divWord_frame (htwo : two) (hfl : fl) (hdz : dz) (sgn : Bool) : WordFrame (bits w 24 20) two fl dz sp x (divWord sgn w x) :=
  (((WordFrame.refl x).wr (.inl rfl) _).wr (.inr ⟨htwo, rfl⟩) _).setFl hfl (.inl hdz)

theorem setspaceWord_frame (hsp : sp) : WordFrame (bits w 24 20) two fl dz sp x (setspaceWord w x) :=
  ⟨fun _ _ _ => rfl, fun _ => rfl, fun _ => rfl, fun h => absurd hsp h, rfl⟩

theorem stfPutWord_frame (hfl : fl) : WordFrame (bits w 24 20) two fl dz sp x (stfPutWord w x) := by
  unfold stfPutWord
  split
  · exact .setFl (.refl x) hfl (.inr rfl)
  · exact .stfFl (.refl x) hfl _ rfl

theorem stfGetWord_frame (hfl : fl) : WordFrame (bits w 24 20) two fl dz sp x (stfGetWord w x) := by
  unfold stfGetWord
  dsimp only
  split
  · exact .setFl (.refl x) hfl (.inr rfl)
  · refine .wr (.stfFl (.refl x) hfl _ ?_) (.inl rfl) _
    rfl

theorem fcmpWord_frame (hfl : fl) : WordFrame (bits w 24 20) two fl dz sp x (fcmpWord w x) := by
  rw [fcmpWord_eq]
  refine (WordFrame.setFl (.refl x) hfl (.inr ?_)).raise _
  split <;> rfl

end

/-! ### The rows -/

/-- The rows that write w(rd + 1) beside rd. -/
def pairRows (c : CtxId) : List Instr :=
  [.dvs c, .dvu c, .fadd c, .fsub c, .fmul c, .fdiv c, .fsqrt c, .fmin c, .fmax c, .fma c, .fabs c, .fneg c, .fcvtFw c, .fcvtFwu c, .fcvtX c]
/-- The rows whose table names flags. -/
def flagRows (c : CtxId) : List Instr := [.alu c, .cmpi c, .shifti c, .dvs c, .dvu c, .mtfl c, .stfPut c, .stfGet c, .fcmp c]
/-- The rows that write DZ. -/
def divZeroRows (c : CtxId) : List Instr := [.dvs c, .dvu c, .mtfl c]

/-- The frame of the word of a command. -/
abbrev RowFrame (c : CtxId) (i : Instr) (w : Nat) : Ctx → Ctx → Prop :=
  WordFrame (bits w 24 20) (i ∈ pairRows c) (i ∈ flagRows c) (i ∈ divZeroRows c) (i = .setspace c)

/-- A command whose word changes its context alone, within its frame. -/
def ContextRow (c : CtxId) (i : Instr) : Prop :=
  ∃ (op : SkzOp) (f : Nat → Ctx → Ctx), (∀ s, exec i s = s.on (Dev.issue c op fun w => Dev.simple c (f w))) ∧ ∀ w x, RowFrame c i w x (f w x)

theorem ContextRow.of_word {c : CtxId} {i : Instr} {op : SkzOp} {f : Nat → Ctx → Ctx}
    (hi : ∀ s, exec i s = s.on (Dev.issue c op fun w => Dev.simple c (f w))) (h : ∀ w x, RowFrame c i w x (f w x)) : ContextRow c i := ⟨op, f, hi, h⟩

theorem contextRow_integer (c : CtxId) : ∀ i ∈ [Instr.alu c, .addi c, .andi c, .ori c, .xori c, .cmpi c, .shifti c, .lui c, .muli c, .dvs c,
    .dvu c, .mffl c, .mtfl c, .fence c, .yield c, .setspace c, .crcCfg c, .crcSet c, .crcGet c, .crcUb c, .crcUh c, .crcUw c, .stfCfg c,
    .stfPut c, .stfGet c, .stfCnt c], ContextRow c i := by
  have hrd {i : Instr} {x : Ctx} (w : Nat) (v : Word) : RowFrame c i w x (x.wr (bits w 24 20) v) := (WordFrame.refl x).wr (.inl rfl) v
  simp only [List.forall_mem_cons]
  refine ⟨?alu, ?addi, ?andi, ?ori, ?xori, ?cmpi, ?shifti, ?lui, ?muli, ?dvs, ?dvu, ?mffl, ?mtfl, ?fence, ?yield, ?setspace, ?crcCfg, ?crcSet,
    ?crcGet, ?crcUb, ?crcUh, ?crcUw, ?stfCfg, ?stfPut, ?stfGet, ?stfCnt, List.forall_mem_nil _⟩
  case alu => exact .of_word (fun _ => rfl) fun w x => doAluWord_frame w x (by simp [flagRows])
  case cmpi => exact .of_word (fun _ => rfl) fun w x => .result (.refl x) (by simp [flagRows]) (.inl rfl) _ _
  case shifti => exact .of_word (fun _ => rfl) fun w x => .result (.refl x) (by simp [flagRows]) (.inr rfl) _ _
  case addi | andi | ori | xori | muli | lui | mffl | crcGet | stfCnt => exact .of_word (fun _ => rfl) fun w _ => hrd w _
  case dvs | dvu => exact .of_word (fun _ => rfl) fun w x => divWord_frame w x (by simp [pairRows]) (by simp [flagRows]) (by simp [divZeroRows]) _
  case mtfl => exact .of_word (fun _ => rfl) fun w x => .setFl (.refl x) (by simp [flagRows]) (.inl (by simp [divZeroRows]))
  case fence => exact .of_word (fun _ => rfl) fun w x => .setFence (.refl x) true
  case yield => exact .of_word (fun _ => rfl) fun w x => .refl x
  case setspace => exact .of_word (fun _ => rfl) fun w x => setspaceWord_frame w x rfl
  case crcCfg | crcSet | crcUb | crcUh | crcUw => exact .of_word (fun _ => rfl) fun w x => .crc (.refl x) _
  case stfCfg => exact .of_word (fun _ => rfl) fun w x => .stf (.refl x) _
  case stfPut => exact .of_word (fun _ => rfl) fun w x => stfPutWord_frame w x (by simp [flagRows])
  case stfGet => exact .of_word (fun _ => rfl) fun w x => stfGetWord_frame w x (by simp [flagRows])

theorem contextRow_float (c : CtxId) : ∀ i ∈ [Instr.fadd c, .fsub c, .fmul c, .fdiv c, .fsqrt c, .fmin c, .fmax c, .fma c, .fcmp c, .fabs c,
    .fneg c, .fcvtW c, .fcvtWu c, .fcvtFw c, .fcvtFwu c, .fcvtX c], ContextRow c i := by
  have hfres {i : Instr} {x : Ctx} (hi : i ∈ pairRows c) (w : Nat) (q : FRes) : RowFrame c i w x (x.fres (fmtOf w) (bits w 24 20) q) :=
    ((WordFrame.refl x).fres hi _ _).raise _
  simp only [List.forall_mem_cons]
  refine ⟨?fadd, ?fsub, ?fmul, ?fdiv, ?fsqrt, ?fmin, ?fmax, ?fma, ?fcmp, ?fabs, ?fneg, ?fcvtW, ?fcvtWu, ?fcvtFw, ?fcvtFwu, ?fcvtX,
    List.forall_mem_nil _⟩
  case fadd | fsub | fmul | fdiv | fsqrt | fmin | fmax | fma | fcvtFw | fcvtFwu | fcvtX =>
    exact .of_word (fun _ => rfl) fun w x => hfres (by simp [pairRows]) w _
  case fcmp => exact .of_word (fun _ => rfl) fun w x => fcmpWord_frame w x (by simp [flagRows])
  case fabs | fneg => exact .of_word (fun _ => rfl) fun w x => .fres (.refl x) (by simp [pairRows]) _ _
  case fcvtW | fcvtWu => exact .of_word (fun _ => rfl) fun w x => ((WordFrame.refl x).wr (.inl rfl) _).raise _

/-! ### What the command leaves -/

namespace Dev
variable (s : Dev) (c : Nat) (f : Ctx → Ctx)

/-- Nothing differs but contexts and the numbers of the engines. -/
def ContextsOnly (s t : Dev) : Prop := t = { s with eng := { s.eng with ctx := t.eng.ctx, eng := t.eng.eng } }

variable {s} in
theorem ContextsOnly.trans {t u : Dev} (h : s.ContextsOnly t) (g : t.ContextsOnly u) : s.ContextsOnly u := by
  rw [ContextsOnly, g, h]

theorem contextsOnly_issued : s.ContextsOnly (s.issued c) := rfl

theorem contextsOnly_simple : s.ContextsOnly (s.simple c f) := rfl

variable {s} in
theorem ContextsOnly.rest {t : Dev} (h : s.ContextsOnly t) :
    { t with eng := s.eng } = s ∧ { t.eng with ctx := s.eng.ctx, eng := s.eng.eng } = s.eng := by
  rw [h]
  exact ⟨rfl, rfl⟩

end Dev

theorem ContextRow.cases {c : CtxId} {i : Instr} (h : ContextRow c i) {s t : State} (hexec : exec i s = .next t) :
    t = s ∨ ∃ f : Ctx → Ctx, (∀ x, RowFrame c i (s.dev.fetchWord c) x (f x)) ∧ t = s.withDev ((s.dev.issued c).simple c f) := by
  obtain ⟨op, f, hi, hf⟩ := h
  rw [hi, State.on_eq] at hexec
  cases hexec
  by_cases h : s.dev.issues c op
  · exact .inr ⟨f (s.dev.fetchWord c), hf _, by rw [Dev.issue_issues _ h]⟩
  · exact .inl (by rw [Dev.issue_else _ h, State.withDev_self])

/-- Settles O26: a command of these rows does nothing, or its engine issues the word and the context changes within the word's frame. -/
theorem contextWordFrame : Obligations.ContextWordFrame := by
  unfold Obligations.ContextWordFrame
  intro c s t i w hw hi hexec x y two
  subst hw
  have hrow : ContextRow c i := hi.elim (contextRow_integer c i) (contextRow_float c i)
  suffices h : (t.pending = s.pending ∧ { t.dev with eng := s.dev.eng } = s.dev ∧
      { t.dev.eng with ctx := s.dev.eng.ctx, eng := s.dev.eng.eng } = s.dev.eng ∧ (∀ k : Nat, k ≠ c → t.dev.ctx k = s.dev.ctx k) ∧
      ∀ k : Nat, { t.dev.engine k with rr := (s.dev.engine k).rr, cycle := (s.dev.engine k).cycle } = s.dev.engine k) ∧
      RowFrame c i (s.dev.fetchWord c) x y by
    obtain ⟨⟨hpend, hdev, heng, hctx, hengine⟩, hframe⟩ := h
    exact ⟨hpend, hdev, heng, hctx, hengine, hframe.regs, hframe.flags, hframe.divZero, hframe.space, hframe.kept⟩
  rcases hrow.cases hexec with rfl | ⟨f, hf, rfl⟩
  · exact ⟨⟨rfl, rfl, rfl, fun _ _ => rfl, fun _ => rfl⟩, .refl _⟩
  · obtain ⟨hdev, heng⟩ := ((s.dev.contextsOnly_issued c).trans ((s.dev.issued c).contextsOnly_simple c f)).rest
    refine ⟨⟨State.withDev_pending .., hdev, heng, fun k hk => ?ctx, fun k => ?engine⟩, ?frame⟩
    case ctx => rw [State.withDev_dev, Dev.simple_ctx, if_neg hk, Dev.issued_ctx, if_neg hk]
    case engine =>
      rw [State.withDev_dev, Dev.simple_engine, Dev.issued_engine]
      split <;> rfl
    case frame =>
      have hy : y = { f { x with fence := false } with pc := ((f { x with fence := false }).pc + 1) % imemWords c } := s.dev.afterWord_ctx c f
      rw [hy]
      exact (((WordFrame.refl x).setFence false).trans (hf _)).setPc _

end Sys2Proof.Machine
end

section
/-! O23: WAITEV, the wake and the timer (R87, R146 to R149). The events that wake a context do not depend on what it does to its job: JOB is not among
them, and neither its state nor RNK_LIFT_HOLD_CNT is a source of another (`SameEvents`). -/

namespace Sys2Proof.Machine

namespace Dev
variable {s t u : Dev} {c : Nat}

/-! ### The events that wake a context -/

/-- The pending events other than JOB, INBOX lowest. -/
def otherEvents (s : Dev) (c : Nat) : Nat :=
  let k := (s.ctx c).skz
  b2n (s.inboxPending (midOf c) (ctxIn c)) + 2 * b2n (s.dbPending c) + 4 * b2n (k.liftEv != 0) + 8 * b2n k.timer + 16 * b2n k.soft

theorem evPend_eq (s : Dev) (c : Nat) : ∃ job, s.evPend c = b2n job + 2 * s.otherEvents c := by
  refine ⟨s.ownJob c || (s.localVictim c).isSome || (s.crossVictim c).isSome || s.patrolStage c, ?_⟩
  simp only [Dev.evPend, otherEvents]
  omega

/-- The events that wake a context do not depend on the jobs that it could take. -/
theorem evReady_eq (s : Dev) (c : Nat) : s.evReady c = 2 * (s.otherEvents c &&& (s.ctx c).skz.armed / 2) := by
  obtain ⟨job, hpend⟩ := s.evPend_eq c
  have hhalf : s.evPend c / 2 = s.otherEvents c := by cases job <;> simp [b2n] at hpend <;> omega
  rw [← hhalf, ← Nat.and_div_two, Dev.evReady]
  omega

/-- The latches of the context's events and the registers that its events are read from stay. -/
structure SameEvents (c : Nat) (s t : Dev) : Prop where
  skz : (t.ctx c).skz = (s.ctx c).skz
  regs : ∀ q ∈ [Reg.MBX_CFG, .MBX_STATUS, .MBX_DB], ∀ i, q.HasCopy i 0 0 → t.reg q i = s.reg q i

theorem SameEvents.refl (s : Dev) : SameEvents c s s := ⟨rfl, fun _ _ _ _ => rfl⟩

theorem SameEvents.trans (h : SameEvents c s t) (g : SameEvents c t u) : SameEvents c s u :=
  ⟨g.skz.trans h.skz, fun q hq i hi => (g.regs q hq i hi).trans (h.regs q hq i hi)⟩

theorem SameEvents.inboxPending (h : SameEvents c s t) (mid ctx : Nat) : t.inboxPending mid ctx = s.inboxPending mid ctx := by
  rw [Bool.eq_iff_iff, Dev.inboxPending, Dev.inboxPending, List.any_eq_true, List.any_eq_true]
  refine exists_congr fun m => and_congr_right fun hm => ?_
  have hlt : m < 256 := List.mem_range.mp hm
  have hcfg : t.reg .MBX_CFG m = s.reg .MBX_CFG m := h.regs _ (by decide) m ⟨hlt, by decide, by decide⟩
  have hstatus : t.reg .MBX_STATUS m = s.reg .MBX_STATUS m := h.regs _ (by decide) m ⟨hlt, by decide, by decide⟩
  have hfld (f : Fld) (hf : f.reg = .MBX_CFG) : t.fld f m = s.fld f m := by rw [Dev.fld, Dev.fld, hf, hcfg]
  have hfull : t.flag .MBX_STATUS_FULL m = s.flag .MBX_STATUS_FULL m := congrArg (bits · 0 0 != 0) hstatus
  rw [Dev.isReceiver, Dev.isReceiver, hfld _ rfl, hfld _ rfl, hfull]

theorem SameEvents.evReady (h : SameEvents c s t) : t.evReady c = s.evReady c := by
  have hdb : t.dbPending c = s.dbPending c := by
    have hreg : t.reg .MBX_DB (bits (s.ctx c).skz.dbsel 4 0) = s.reg .MBX_DB (bits (s.ctx c).skz.dbsel 4 0) :=
      h.regs _ (by decide) _ ⟨bits_lt .., by decide, by decide⟩
    rw [Dev.dbPending, Dev.dbPending, h.skz, hreg]
  rw [evReady_eq, evReady_eq, otherEvents, otherEvents, h.inboxPending, hdb, h.skz]

theorem SameEvents.setReg (s : Dev) {r : Reg} {i j k : Nat} (hr : r.HasCopy i j k) (hne : r ∉ [Reg.MBX_CFG, .MBX_STATUS, .MBX_DB]) (v : Nat) :
    SameEvents c s (s.setReg r v i j k) :=
  ⟨rfl, fun _ hq _ hi => s.reg_setReg_apart hi hr (fun e => hne (e ▸ hq)) v⟩

theorem SameEvents.updCtx (s : Dev) {f : Ctx → Ctx} (hf : (f (s.ctx c)).skz = (s.ctx c).skz) : SameEvents c s (s.updCtx c f) :=
  ⟨by rw [ctx_updCtx_same, hf], fun _ _ _ _ => rfl⟩

/-! ### The state of a context as its rink shows it -/

theorem hasCopy_engStatus {c : Nat} (h : ¬isPatrol c = true) : Reg.RNK_ENG_STATUS.HasCopy (rinkOf c) (c / 4 % 8) 0 :=
  ⟨rinkOf_lt (lt_of_not_isPatrol h), Nat.mod_lt _ (by decide), by decide⟩

theorem SameEvents.showState (s : Dev) (k : Nat) : SameEvents c s (s.showState k) := by
  unfold Dev.showState
  split
  · exact .refl s
  · next hpat => exact .setReg s (hasCopy_engStatus hpat) (by decide) _

theorem showState_reg (s : Dev) (k : Nat) {q : Reg} {i j l : Nat} (hq : q.HasCopy i j l) (hne : q ≠ .RNK_ENG_STATUS) :
    (s.showState k).reg q i j l = s.reg q i j l := by
  unfold Dev.showState
  split
  · rfl
  · next hpat => exact s.reg_setReg_apart hq (hasCopy_engStatus hpat) hne _

theorem showState_ctx (s : Dev) (c k : Nat) : (s.showState c).ctx k = s.ctx k := by
  unfold Dev.showState
  split <;> rfl

theorem SameEvents.setSt (s : Dev) (st : CtxSt) : SameEvents c s (s.setSt c st) := (SameEvents.updCtx s rfl).trans (.showState _ c)

theorem wake_ctx (s : Dev) (c : Nat) : (s.wake c).ctx c =
    let m := s.evReady c
    let x := s.ctx c
    { x with
      w := (x.wr x.evRd (word m)).w, st := .run, window := false, patEmpty := false
      skz := { x.skz with timer := x.skz.timer && !bit m 4, soft := x.skz.soft && !bit m 5 } } := by
  rw [Dev.wake, showState_ctx, ctx_updCtx_same]
  dsimp only
  unfold Ctx.wr
  split <;> rfl

/-- The register that WAITEV names receives the events (R147). -/
theorem wake_rd (s : Dev) (c : Nat) : ((s.wake c).ctx c).rd (s.ctx c).evRd = if (s.ctx c).evRd = 0 then 0#32 else word (s.evReady c) := by
  rw [wake_ctx]
  exact Ctx.rd_wr_same ..

theorem wake_reg (s : Dev) (c : Nat) {q : Reg} {i j l : Nat} (hq : q.HasCopy i j l) (hne : q ≠ .RNK_ENG_STATUS) :
    (s.wake c).reg q i j l = s.reg q i j l := showState_reg _ c hq hne

/-! ### WAITEV -/

/-- The device after WAITEV has armed its events: the job ends, or the context waits (R87, R106). -/
def parked (c m : Nat) (s : Dev) : Dev :=
  if bit m 0 && !s.hasLift c then (s.updCtx c fun x => { x with prio := 0 }).becomeIdle c
  else (s.when (bit m 0 && !isPatrol c) fun s => s.count .RNK_LIFT_HOLD_CNT (rinkOf c)).setSt c .wait

/-- An armed event that is pending already wakes the context at once. -/
def roused (c : Nat) (s : Dev) : Dev := if s.evReady c ≠ 0 then s.wake c else s

theorem waitevWord_eq (s : Dev) (c w : Nat) : s.waitevWord c w =
    ((s.simple c fun x => { x with evRd := fRd w, skz := { x.skz with armed := fIndex w } }).parked c (fIndex w)).roused c := rfl

theorem parked_idle {m : Nat} (hjob : bit m 0 = true) (hlift : s.hasLift c = false) : SameEvents c s (s.parked c m) ∧
    (s.parked c m).ctx c = { s.ctx c with prio := 0, hasJob := false, window := false, patEmpty := false, st := .idle } := by
  have hparked : s.parked c m = (s.updCtx c fun x => { x with prio := 0 }).becomeIdle c := if_pos (by rw [hjob, hlift]; rfl)
  rw [hparked]
  refine ⟨?_, ?_⟩
  · exact ((SameEvents.updCtx s rfl).trans (.updCtx _ rfl)).trans (.setSt _ .idle)
  · rw [becomeIdle_ctx, if_pos rfl, ctx_updCtx_same]

theorem parked_wait {m : Nat} (h : ¬(bit m 0 = true ∧ s.hasLift c = false)) : SameEvents c s (s.parked c m) ∧
    (s.parked c m).ctx c = { s.ctx c with st := .wait } := by
  have hparked : s.parked c m = _ := if_neg (by simpa using h)
  rw [hparked]
  have hcount : SameEvents c s (s.when (bit m 0 && !isPatrol c) fun s => s.count .RNK_LIFT_HOLD_CNT (rinkOf c)) := by
    by_cases hpat : isPatrol c = true
    · rw [hpat, Bool.not_true, Bool.and_false, when_false]
      exact .refl s
    · have hcopy : Reg.RNK_LIFT_HOLD_CNT.HasCopy (rinkOf c) 0 0 := ⟨rinkOf_lt (lt_of_not_isPatrol hpat), by decide, by decide⟩
      exact when_keeps (P := SameEvents c s) (fun t ht => ht.trans (.setReg t hcopy (by decide) _)) s (.refl s)
  refine ⟨hcount.trans (.setSt _ .wait), ?_⟩
  have hctx : (s.when (bit m 0 && !isPatrol c) fun s => s.count .RNK_LIFT_HOLD_CNT (rinkOf c)).ctx c = s.ctx c :=
    when_keeps (P := fun t => t.ctx c = s.ctx c) (f := fun s => s.count .RNK_LIFT_HOLD_CNT (rinkOf c)) (fun _ ht => ht) s rfl
  rw [setSt_ctx, if_pos rfl, hctx]

/-- Whether the context ends its job or waits, the sources of its events stay. -/
theorem parked_cases (s : Dev) (c m : Nat) : SameEvents c s (s.parked c m) ∧ (s.parked c m).ctx c =
    if bit m 0 = true ∧ s.hasLift c = false then
      { s.ctx c with prio := 0, hasJob := false, window := false, patEmpty := false, st := .idle }
    else { s.ctx c with st := .wait } := by
  split
  · next hidle => exact parked_idle hidle.1 hidle.2
  · next hwait => exact parked_wait hwait

/-- A job that ends while its context owns a lift is counted (R106). -/
theorem parked_holds {m : Nat} (hjob : bit m 0 = true) (hlift : s.hasLift c = true) (hc : c < 256) :
    (s.parked c m).reg .RNK_LIFT_HOLD_CNT (rinkOf c) = (s.count .RNK_LIFT_HOLD_CNT (rinkOf c)).reg .RNK_LIFT_HOLD_CNT (rinkOf c) := by
  have hpat : isPatrol c = false := decide_eq_false (by omega)
  have hparked : s.parked c m = (s.count .RNK_LIFT_HOLD_CNT (rinkOf c)).setSt c .wait := by
    rw [parked, hjob, hlift, hpat]
    rfl
  rw [hparked]
  exact showState_reg _ _ ⟨rinkOf_lt hc, by decide, by decide⟩ (by decide)

theorem roused_keeps (s : Dev) (c : Nat) : let x := s.ctx c
    let y := (s.roused c).ctx c
    y.skz.armed = x.skz.armed ∧ y.pc = x.pc ∧ y.prio = x.prio ∧ y.hasJob = x.hasJob := by
  unfold roused
  split
  · rw [wake_ctx]
    exact ⟨rfl, rfl, rfl, rfl⟩
  · exact ⟨rfl, rfl, rfl, rfl⟩

theorem roused_reg (s : Dev) (c : Nat) {q : Reg} {i j l : Nat} (hq : q.HasCopy i j l) (hne : q ≠ .RNK_ENG_STATUS) :
    (s.roused c).reg q i j l = s.reg q i j l := by
  unfold roused
  split
  · exact s.wake_reg c hq hne
  · rfl

theorem roused_ready (h : s.evReady c ≠ 0) : let x := s.ctx c
    let y := (s.roused c).ctx c
    y.st = .run ∧ y.rd x.evRd = (if x.evRd = 0 then 0#32 else word (s.evReady c)) ∧
      (bit (s.evReady c) 4 = true → y.skz.timer = false) ∧ (bit (s.evReady c) 5 = true → y.skz.soft = false) := by
  have hroused : s.roused c = s.wake c := if_pos h
  have hrd := s.wake_rd c
  rw [← hroused] at hrd
  intro x y
  refine ⟨?_, hrd, fun hbit => ?_, fun hbit => ?_⟩
  all_goals
    simp only [y, hroused, wake_ctx]
  · rw [hbit, Bool.not_true, Bool.and_false]
  · rw [hbit, Bool.not_true, Bool.and_false]

end Dev

/-- Settles O23: what WAITEV does to its context's job leaves the events that wake it, so it wakes at once exactly where one is pending. -/
theorem eventsCompleteAndWake : Obligations.EventsCompleteAndWake := by
  unfold Obligations.EventsCompleteAndWake
  refine ⟨?waitev, ?eventWake, ?timerExpiry⟩
  case waitev =>
    intro c s w hw h
    subst hw
    refine ⟨_, exec_issued rfl h, ?_⟩
    intro m armed x
    let u := armed.parked c m
    have hx : x = (u.roused c).ctx c := rfl
    obtain ⟨hsame, hu⟩ := armed.parked_cases c m
    obtain ⟨harmed, hpc, hprio, hjob⟩ := u.roused_keeps c
    rw [← hx] at harmed hpc hprio hjob
    refine ⟨?armed, ?pc, State.withDev_pending .., fun hbit hlift => ?ends, fun hbit hlift hc => ?holds, ?state⟩
    case armed =>
      rw [harmed, hu]
      split <;> rw [Dev.afterWord_ctx]
    case pc =>
      rw [hpc, hu]
      split <;> rw [Dev.afterWord_ctx]
    case ends =>
      rw [hprio, hjob, hu, if_pos ⟨hbit, hlift⟩]
      exact ⟨rfl, rfl⟩
    case holds =>
      have hcopy : Reg.RNK_LIFT_HOLD_CNT.HasCopy (rinkOf c) 0 0 := ⟨rinkOf_lt hc, by decide, by decide⟩
      have hregs : armed.regs = s.dev.regs := (Dev.simple_frame ..).1
      refine (u.roused_reg c hcopy (by decide)).trans ((Dev.parked_holds hbit hlift hc).trans ?_)
      rw [Dev.reg_count_same, Dev.reg_count_same, Dev.reg_congr hregs]
    case state =>
      rw [hx, ← hsame.evReady]
      by_cases hready : u.evReady c ≠ 0
      · have hrd : (u.ctx c).evRd = bits (s.dev.fetchWord c) 24 20 := by
          rw [hu]
          split <;> rw [Dev.afterWord_ctx]
        rw [if_pos hready, ← hrd]
        exact Dev.roused_ready hready
      · have hroused : u.roused c = u := if_neg hready
        rw [if_neg hready, hroused, hu]
        split <;> rfl
  case eventWake =>
    intro c s halive hst hready
    have hcond : (s.dev.alive c && ((s.dev.ctx c).st == .idle || (s.dev.ctx c).st == .wait) && s.dev.evReady c != 0) = true := by
      simpa [halive, hready] using hst
    have hctx := s.dev.wake_ctx c
    refine ⟨s.withDev (s.dev.wake c), next_congr (if_pos hcond), ?_⟩
    rw [State.withDev_dev]
    exact ⟨by rw [hctx], fun hrd => (s.dev.wake_rd c).trans (if_neg hrd), by rw [hctx], by rw [hctx]⟩
  case timerExpiry =>
    intro c s halive hen hfired hreached
    exact next_congr (if_pos (by rw [halive, hen, hfired, hreached]; rfl))

end Sys2Proof.Machine
end

section
/-! O28: the words of the dispatch unit (R156). -/

namespace Sys2Proof.Machine

namespace Dev
variable {s : Dev} {c : Nat}

theorem pgfBindWord_eq {w : Nat} (h : s.anyWaits [Dev.hdrRun (s.taskCode (((s.ctx c).rd (fRa w)).toNat % 16)),
      (s.taskCode (((s.ctx c).rd (fRa w)).toNat % 16) + 0x20, 4)] = false) :
    let t := ((s.ctx c).rd (fRa w)).toNat % 16
    let a := s.taskCode t
    s.pgfBindWord c w = (s.touch (midOf c) [Dev.hdrRun a, (a + 0x20, 4)]).simple c fun x => { x with
      bound := t + 1
      pgPc := a + (s.progHdr a).codeOff + 4 * s.view (a + 0x20) 4
      pgSp := s.fld .CTL_TASK_STACK_OFFSET t
      pgBase := s.fld .CTL_CFG_HBASE } :=
  if_neg (ne_true_of_eq_false h)

theorem cp1Word_unbound (h : (s.ctx c).bound = 0) (f : Nat → Dev → Dev) : s.cp1Word c f = (s.skzMisuse c).nextWord c := if_pos h

theorem cp1Word_bound {k : Nat} (h : (s.ctx c).bound = k + 1) (f : Nat → Dev → Dev) : s.cp1Word c f = f k s := by
  rw [Dev.cp1Word, if_neg (by omega), h]
  rfl

/-- In a run that has begun PGF.NEXT reads the instruction alone. -/
theorem pgfNextWord_begun {w k : Nat} (h : (s.ctx c).bound = k + 1) (hstop : (s.task k).stop = false) (hfresh : (s.task k).fresh = false)
    (hbank : s.anyWaits [((s.ctx c).pgPc, 4)] = false) :
    let e := s.touch (midOf c) [((s.ctx c).pgPc, 4)]
    let i := e.view (e.ctx c).pgPc 4
    s.pgfNextWord c w =
      (e.updCtx c fun x => { x.wr (fRd w) (BitVec.ofInt 32 (pgArg i)) with pgPc := x.pgPc + 4 }).goto c ((e.ctx c).pgBase + 4 * pgOp i) := by
  have hbegin : s.runBegin c k = (true, s) := by simp [Dev.runBegin, hfresh]
  have hreads : ((s.ctx c).pgPc, 4) :: s.beginReads k ++ s.beginWords k = [((s.ctx c).pgPc, 4)] := by
    simp [Dev.beginReads, Dev.beginWords, hfresh]
  intro e i
  rw [Dev.pgfNextWord, cp1Word_bound h]
  simp only [hstop, hreads, hbank, hbegin, Bool.false_eq_true, if_false]
  rfl

end Dev

theorem exec_pgfEnd_eq {c : CtxId} {s : State} (h : s.dev.issues c .pgfEnd) (hstores : (s.dev.engine (engOf c)).stores = []) :
    exec (.pgfEnd c) s = .next (s.withDev ((s.dev.issued c).pgfEndWord c)) := by
  have hrow : exec (.pgfEnd c) s = s.on (Dev.issue c .pgfEnd fun _ => Dev.pgfEndWord c) :=
    next_congr (if_neg (by rw [hstores]; decide))
  rw [exec_issued hrow h]

/-- Settles O28: a bound context gives each word its task, and an unbound one only counts (`Dev.cp1Word`). -/
theorem dispatchUnitCompletes : Obligations.DispatchUnitCompletes := by
  unfold Obligations.DispatchUnitCompletes
  intro c s w hw d x rd ra t out hdr
  subst hw
  refine ⟨fun h hbank => ?bind, fun k hbound => ⟨fun h hstop hfresh hbank => ?next, fun h => ?pop, fun h => ?pop2, fun h => ?push,
    fun h => ?push2, fun h => ?jmp, fun h hstores => ?stop⟩, fun hbound i op hi h => ?unbound, fun hbound h hstores => ?unboundEnd⟩
  case bind => rw [exec_issued rfl h, Dev.pgfBindWord_eq hbank]; rfl
  case next => rw [exec_issued rfl h, Dev.pgfNextWord_begun hbound hstop hfresh hbank]; rfl
  case pop | pop2 => rw [exec_issued rfl h, Dev.pgfPopWord, Dev.cp1Word_bound hbound]; rfl
  case push | push2 => rw [exec_issued rfl h, Dev.pgfPushWord, Dev.cp1Word_bound hbound]; rfl
  case jmp =>
    rw [exec_issued rfl h, Dev.pgfJmpWord, Dev.cp1Word_bound hbound]
    exact next_congr (congrArg (Dev.nextWord c) (Dev.updCtx_congr rfl))
  case stop => rw [exec_pgfEnd_eq h hstores, Dev.pgfEndWord, Dev.cp1Word_bound hbound]; rfl
  case unbound =>
    have hrow {g f : Nat → Dev → Dev} (hi : exec i s = s.on (Dev.issue c op g)) (hg : g (s.dev.fetchWord c) d = d.cp1Word c f) :
        exec i s = out ((d.skzMisuse c).nextWord c) := by rw [exec_issued hi h, hg, Dev.cp1Word_unbound hbound]
    simp only [List.mem_cons, List.not_mem_nil, or_false, Prod.mk.injEq] at hi
    rcases hi with ⟨rfl, rfl⟩ | ⟨rfl, rfl⟩ | ⟨rfl, rfl⟩ | ⟨rfl, rfl⟩ | ⟨rfl, rfl⟩ | ⟨rfl, rfl⟩ <;> exact hrow rfl rfl
  case unboundEnd => rw [exec_pgfEnd_eq h hstores, Dev.pgfEndWord, Dev.cp1Word_unbound hbound]

end Sys2Proof.Machine
end

section
/-! Rules for shared memory, the Groomer and the lifts (O45, O46): which registers an operation writes. `Dev.RegsBut l s t` says that `t` reads as `s`
in every copy of every register outside the list `l`; the rule of an operation takes what holds of the device before it to the device after it. -/

namespace Sys2Proof.Machine

namespace Dev

/-- Every copy of a register outside the list reads in `t` as it does in `s`. -/
structure RegsBut (l : List Reg) (s t : Dev) : Prop where
  reg : ∀ q a b c, q.HasCopy a b c → q ∉ l → t.reg q a b c = s.reg q a b c

variable {l : List Reg} {s t u : Dev}

namespace RegsBut

theorem of_regs (h : t.regs = s.regs) : RegsBut l s t := ⟨fun _ _ _ _ _ _ => reg_congr h ..⟩

theorem refl (s : Dev) : RegsBut l s s := of_regs rfl

section
variable (h : RegsBut l s t)
include h

theorem fld {f : Fld} {i j k : Nat} (hf : f.reg.HasCopy i j k) (hl : f.reg ∉ l) : t.fld f i j k = s.fld f i j k :=
  congrArg (bits · f.hi f.lo) (h.reg _ _ _ _ hf hl)

theorem flag {f : Fld} {i j k : Nat} (hf : f.reg.HasCopy i j k) (hl : f.reg ∉ l) : t.flag f i j k = s.flag f i j k :=
  congrArg (· != 0) (h.fld hf hl)

theorem mono {m : List Reg} (hlm : l ⊆ m) : RegsBut m s t := ⟨fun q _ _ _ hq hne => h.reg q _ _ _ hq fun hl => hne (hlm hl)⟩

theorem trans (g : RegsBut l t u) : RegsBut l s u :=
  ⟨fun q _ _ _ hq hne => (g.reg q _ _ _ hq hne).trans (h.reg q _ _ _ hq hne)⟩

theorem setReg {r : Reg} {v i j k : Nat} (hr : r.HasCopy i j k) (hl : r ∈ l) : RegsBut l s (t.setReg r v i j k) :=
  h.trans ⟨fun _ _ _ _ hq hne => t.reg_setReg_apart hq hr (fun hqr => hne (hqr ▸ hl)) v⟩

theorem setFld {f : Fld} {v i j k : Nat} (hf : f.reg.HasCopy i j k) (hl : f.reg ∈ l) : RegsBut l s (t.setFld f v i j k) := h.setReg hf hl

theorem setFlag {f : Fld} {b : Bool} {i j k : Nat} (hf : f.reg.HasCopy i j k) (hl : f.reg ∈ l) : RegsBut l s (t.setFlag f b i j k) :=
  h.setFld hf hl

theorem countBy {r : Reg} {n i j k : Nat} (hr : r.HasCopy i j k) (hl : r ∈ l) : RegsBut l s (t.countBy n r i j k) := h.setReg hr hl

theorem count {r : Reg} {i j k : Nat} (hr : r.HasCopy i j k) (hl : r ∈ l) : RegsBut l s (t.count r i j k) := h.setReg hr hl

theorem each {α : Type} {f : α → Dev → Dev} {as : List α} (hf : ∀ a ∈ as, ∀ t, RegsBut l s t → RegsBut l s (f a t)) : RegsBut l s (t.each as f) :=
  each_keeps hf t h

theorem when {b : Bool} {f : Dev → Dev} (hf : ∀ t, RegsBut l s t → RegsBut l s (f t)) : RegsBut l s (t.when b f) := when_keeps hf t h

theorem plain {r : Reg} {v i j k : Nat} (hr : r.HasCopy i j k) (hm : r.info.blk.misuse.HasCopy (r.info.blk.pageOf i) 0 0)
    (hl : r ∈ l) (hml : r.info.blk.misuse ∈ l) : RegsBut l s (t.plain r v i j k) :=
  h.trans ⟨fun _ _ _ _ hq hne => plain_reg t hq hr hm (fun hqr => hne (hqr ▸ hl)) (fun hqm => hne (hqm ▸ hml)) v⟩

theorem ringMask {n mask : Nat} (hn : n < 32) (hl : [Reg.MBX_DB, .MBX_DB_COAL_CNT, .HST_MSIX_CNT] ⊆ l) : RegsBut l s (t.ringMask n mask) :=
  h.trans ⟨fun _ _ _ _ hq hne => ringMask_reg t hn mask hq (fun hqr => hne (hl (by simp [hqr]))) (fun hqr => hne (hl (by simp [hqr])))
    fun hqr => hne (hl (by simp [hqr]))⟩

theorem showState {c : Nat} (hl : .RNK_ENG_STATUS ∈ l) : RegsBut l s (t.showState c) :=
  h.trans ⟨fun _ _ _ _ hq hne => showState_reg t c hq fun hqr => hne (hqr ▸ hl)⟩

theorem reapRuns (hl : .CTL_TASK_STAT ∈ l) : RegsBut l s t.reapRuns :=
  h.trans ⟨fun _ _ _ _ hq hne => reapRuns_reg t hq fun hqr => hne (hqr ▸ hl)⟩

end

end RegsBut

end Dev

end Sys2Proof.Machine
end

section
/-! Rules for memory (O45, O46): bytes of lists, the state of a bank, the word of an address, and what the access to one word leaves of the others. -/

namespace Sys2Proof.Machine

/-! ### Bytes -/

theorem getD_leBytes {i k : Nat} (h : i < k) (n : Nat) : (leBytes k n).getD i 0#8 = BitVec.ofNat 8 (n / 256 ^ i) := by
  induction k generalizing i n with
  | zero => cases h
  | succ k ih =>
    cases i with
    | zero => simp [leBytes]
    | succ i => rw [leBytes, List.getD_cons_succ, ih (Nat.lt_of_succ_lt_succ h), Nat.div_div_eq_div_mul, ← Nat.pow_succ']

/-- The word of an address after its byte `i`. -/
theorem word_add_div {i : Nat} (w : Nat) (h : i < 8) : (w * 8 + i) / 8 = w := by omega

namespace Dev
variable {s t u : Dev}

theorem getD_bytes {i n : Nat} (h : i < n) (s : Dev) (a : Nat) : (s.bytes a n).getD i 0#8 = s.byte (a + i) := by
  induction n generalizing a i with
  | zero => cases h
  | succ n ih =>
    cases i with
    | zero => rfl
    | succ i => rw [Dev.bytes, List.getD_cons_succ, ih (Nat.lt_of_succ_lt_succ h), Nat.add_right_comm, Nat.add_assoc]

theorem bytes_add (s : Dev) (a k n : Nat) : s.bytes a (k + n) = s.bytes a k ++ s.bytes (a + k) n := by
  induction k generalizing a with
  | zero => simp [Dev.bytes]
  | succ k ih => rw [Nat.succ_add, Dev.bytes, ih, Dev.bytes, List.cons_append, Nat.add_right_comm, Nat.add_assoc]

theorem byte_setBytes {i : Nat} {l : List Byte} (h : i < l.length) (s : Dev) (a : Nat) : (s.setBytes a l).byte (a + i) = l.getD i 0#8 := by
  rw [← getD_bytes h, bytes_setBytes]

theorem setBytes_smf (s : Dev) (a : Nat) (l : List Byte) : (s.setBytes a l).smf = s.smf := by rw [setBytes_frame]

theorem setBytes_grm (s : Dev) (a : Nat) (l : List Byte) : (s.setBytes a l).grm = s.grm := by rw [setBytes_frame]

/-! ### Banks -/

theorem bankOf_lt {a : Nat} (h : a < 0x8000000) : bankOf a < 256 := by
  unfold bankOf
  omega

/-- All bytes of a word lie in one bank. -/
theorem bankOf_word {a k : Nat} (h : k / 8 = a / 8) : bankOf k = bankOf a := by
  unfold bankOf
  omega

theorem bankState_congr {b : Nat} (h : t.reg .SMF_BANK_STAT (b / 8) = s.reg .SMF_BANK_STAT (b / 8)) : t.bankState b = s.bankState b :=
  congrArg (bits · _ _) h

theorem bankServes_congr {b : Nat} (h : t.reg .SMF_BANK_STAT (b / 8) = s.reg .SMF_BANK_STAT (b / 8)) (hg : t.grm = s.grm) :
    t.bankServes b = s.bankServes b := by
  rw [Dev.bankServes, Dev.bankServes, bankState_congr h, hg]

theorem hasCopy_bankStat {b : Nat} (h : b < 256) : Reg.SMF_BANK_STAT.HasCopy (b / 8) 0 0 := ⟨show b / 8 < 32 by omega, by decide, by decide⟩

theorem RegsBut.bankState {l : List Reg} {b : Nat} (h : RegsBut l s t) (hl : Reg.SMF_BANK_STAT ∉ l) (hb : b < 256) : t.bankState b = s.bankState b :=
  bankState_congr (h.reg _ _ _ _ (hasCopy_bankStat hb) hl)

/-- Whether an access waits depends on banks alone that exist. -/
theorem RegsBut.bankWaits {l : List Reg} (h : RegsBut l s t) (hl : Reg.SMF_BANK_STAT ∉ l) (a n : Nat) : t.bankWaits a n = s.bankWaits a n := by
  have hat (k : Nat) : (rangeOf k == .shared && t.bankState (bankOf k) == 4) = (rangeOf k == .shared && s.bankState (bankOf k) == 4) := by
    by_cases hk : k < 0x8000000
    · rw [h.bankState hl (bankOf_lt hk)]
    · have hrange : (rangeOf k == .shared) = false := by
        rw [rangeOf, if_neg hk]
        split_ifs <;> rfl
      simp [hrange]
  simp only [Dev.bankWaits, List.any_cons, List.any_nil, hat]

theorem bankWaits_eq_false {a n : Nat} (hfirst : s.bankState (bankOf a) ≠ 4) (hlast : s.bankState (bankOf (a + n - 1)) ≠ 4) :
    s.bankWaits a n = false := by
  simp [Dev.bankWaits, hfirst, hlast]

/-- An access to a word of shared memory waits where its bank is leaving retention. -/
theorem bankWaits_word {w : Nat} (hw : w < 2 ^ 24) (s : Dev) : s.bankWaits (w * 8) 8 = (s.bankState (bankOf (w * 8)) == 4) := by
  have hbank : bankOf (w * 8 + 8 - 1) = bankOf (w * 8) := bankOf_word (by omega)
  have hshared (a : Nat) (ha : a < 0x8000000) : rangeOf a = .shared := if_pos ha
  simp only [Dev.bankWaits, List.any_cons, List.any_nil, hbank, hshared (w * 8) (by omega), hshared (w * 8 + 8 - 1) (by omega), beq_self_eq_true,
    Bool.true_and, Bool.or_false, Bool.or_self]

theorem bankServes_leaving {b : Nat} (h : s.bankState b = 4) : s.bankServes b = true := by simp [Dev.bankServes, h]

/-! ### Errors of words -/

theorem errOf_setErr (s : Dev) (a e k : Nat) : (s.setErr a e).errOf k = if k / 8 = a / 8 then e else s.errOf k := Tab.get_set ..

@[simp] theorem errOf_setErr_same (s : Dev) (a e : Nat) : (s.setErr a e).errOf a = e := by simp [errOf_setErr]

theorem errOf_congr (h : t.smf.errs = s.smf.errs) (k : Nat) : t.errOf k = s.errOf k := by
  rw [Dev.errOf, Dev.errOf, h]

theorem setBytes_errOf (s : Dev) (a : Nat) (l : List Byte) (k : Nat) : (s.setBytes a l).errOf k = s.errOf k :=
  errOf_congr (by rw [setBytes_smf]) k

theorem markDirty_errOf (s : Dev) (a k : Nat) : (s.markDirty a).errOf k = s.errOf k := by unfold Dev.markDirty; split <;> rfl

/-! ### What the access to one word leaves -/

/-- The counters and latches of ECC errors and of waiting ports. -/
def accessRegs : List Reg :=
  [.SMF_CONF_CNT, .SMF_CE_CNT, .SMF_UE_CNT, .SMF_ERR_ADDR_LOW, .SMF_ERR_ADDR_HIGH, .SMF_ERR_INFO, .GRM_SCRUB_CE_CNT, .GRM_SCRUB_UE_CNT]

/-- The pointer of a bank has moved past a port. -/
def Passed (b p : Nat) (s : Dev) : Prop := p < 15 → s.smf.rr.get b = (p + 1) % 15

/-- What the access of port `p` to the word of an address leaves: registers but those of errors and conflicts, the Groomer's command, every
other word, and the bank's pointer once it has passed the port. -/
structure WordAccess (p a : Nat) (s t : Dev) : Prop where
  regs : RegsBut accessRegs s t
  grm : t.grm = s.grm
  byte : ∀ k, k / 8 ≠ a / 8 → t.byte k = s.byte k
  err : ∀ k, k / 8 ≠ a / 8 → t.errOf k = s.errOf k
  turn : Passed (bankOf a) p s → Passed (bankOf a) p t

variable {p a : Nat}

namespace WordAccess

theorem refl (s : Dev) : WordAccess p a s s := ⟨.refl s, rfl, fun _ _ => rfl, fun _ _ => rfl, id⟩

theorem trans (h : WordAccess p a s t) (g : WordAccess p a t u) : WordAccess p a s u :=
  ⟨h.regs.trans g.regs, g.grm.trans h.grm, fun k hk => (g.byte k hk).trans (h.byte k hk), fun k hk => (g.err k hk).trans (h.err k hk),
    g.turn ∘ h.turn⟩

/-- A change of the registers of errors and conflicts alone. -/
theorem of_regs (h : RegsBut accessRegs s t) (hmem : t.mem = s.mem) (hsmf : t.smf = s.smf) (hgrm : t.grm = s.grm) : WordAccess p a s t :=
  ⟨h, hgrm, fun k _ => byte_congr hmem k, fun k _ => errOf_congr (by rw [hsmf]) k, fun hp => by rwa [Passed, hsmf]⟩

theorem count {r : Reg} {i : Nat} (hr : r.HasCopy i 0 0) (hl : r ∈ accessRegs) (s : Dev) : WordAccess p a s (s.count r i) :=
  of_regs (.count (.refl s) hr hl) rfl rfl rfl

theorem setErr (s : Dev) (e : Nat) : WordAccess p a s (s.setErr a e) :=
  ⟨.of_regs rfl, rfl, fun _ _ => rfl, fun k hk => by rw [errOf_setErr, if_neg hk], id⟩

/-- A write of bytes within the word. -/
theorem setBytes {k : Nat} {l : List Byte} (hk : k / 8 = a / 8) (hl : k % 8 + l.length ≤ 8) (s : Dev) : WordAccess p a s (s.setBytes k l) :=
  ⟨.of_regs (setBytes_regs ..), setBytes_grm .., fun x hx => byte_setBytes_other l k x (by omega) s, fun x _ => setBytes_errOf s k l x,
    fun hp => by rwa [Passed, setBytes_smf]⟩

theorem markDirty (s : Dev) (k : Nat) : WordAccess p a s (s.markDirty k) := by
  unfold Dev.markDirty
  split
  · exact ⟨.of_regs rfl, rfl, fun _ _ => rfl, fun _ _ => rfl, id⟩
  · exact refl s

theorem conflicts (s : Dev) (mask : Nat) : WordAccess p a s (s.conflicts mask) := by
  refine each_keeps (P := WordAccess p a s) (fun q hq t ht => ht.trans (count ⟨?_, by decide, by decide⟩ (by decide) t)) s (refl s)
  exact List.mem_range.mp (List.mem_filter.mp hq).1

theorem meetUe (s : Dev) (k mid kind : Nat) : WordAccess p a s (s.meetUe k mid kind) := by
  have hcount : RegsBut accessRegs s (s.count .SMF_UE_CNT) := .count (.refl s) ⟨by decide, by decide, by decide⟩ (by decide)
  have hlow : Reg.SMF_ERR_ADDR_LOW.HasCopy 0 0 0 := ⟨by decide, by decide, by decide⟩
  have hhigh : Reg.SMF_ERR_ADDR_HIGH.HasCopy 0 0 0 := ⟨by decide, by decide, by decide⟩
  have hinfo : Reg.SMF_ERR_INFO.HasCopy 0 0 0 := ⟨by decide, by decide, by decide⟩
  unfold Dev.meetUe Dev.latchUe
  split
  · exact of_regs hcount rfl rfl rfl
  · exact of_regs (((((hcount.setReg hlow (by decide)).setReg hhigh (by decide)).setFld hinfo (by decide)).setFld hinfo (by decide)).setFlag
      hinfo (by decide)) (by simp) (by simp) (by simp)

end WordAccess

end Dev

end Sys2Proof.Machine
end

section
/-! Accesses to shared memory that meet neither an error nor a bank out of service (O46, R158 to R165): a read gives the bytes, a write changes exactly
the bytes written, and both leave the register file and the errors of all words. -/

namespace Sys2Proof.Machine

/-! ### The pieces of a range -/

/-- The bound on the pieces is of no account where it suffices. -/
theorem wordPieces_bound {f g n : Nat} (hf : n ≤ f) (hg : n ≤ g) (a : Nat) : wordPieces f a n = wordPieces g a n := by
  induction f generalizing g a n with
  | zero =>
    obtain rfl : n = 0 := Nat.le_zero.mp hf
    cases g <;> rfl
  | succ f ih =>
    obtain _ | n := n
    · cases g <;> rfl
    obtain _ | g := g
    · cases hg
    rw [wordPieces, wordPieces]
    exact congrArg (_ :: ·) (ih (by omega) (by omega) _)
    all_goals exact nofun

theorem wordPieces_step {n : Nat} (hn : 0 < n) (a : Nat) : let k := min n (8 - a % 8)
    wordPieces n a n = (a, k) :: wordPieces (n - k) (a + k) (n - k) := by
  intro k
  obtain _ | n := n
  · cases hn
  rw [wordPieces]
  · exact congrArg (_ :: ·) (wordPieces_bound (by omega) (Nat.le_refl _) _)
  · exact nofun

namespace Dev
variable {s t u : Dev}

theorem bytes_congr_of_byte {a n : Nat} (h : ∀ i < n, t.byte (a + i) = s.byte (a + i)) : t.bytes a n = s.bytes a n := by
  induction n generalizing a with
  | zero => rfl
  | succ n ih =>
    have hrest : ∀ i < n, t.byte (a + 1 + i) = s.byte (a + 1 + i) := fun i hi => by
      rw [Nat.add_assoc, Nat.add_comm 1]
      exact h (i + 1) (Nat.succ_lt_succ hi)
    rw [Dev.bytes, Dev.bytes, ih hrest]
    exact congrArg (· :: _) (h 0 (Nat.succ_pos n))

/-- The read of one piece after those before it. -/
def readPiece (mid : Nat) (q : RdRes × Dev) (p : Nat × Nat) : RdRes × Dev :=
  let x := q.2.wordRead mid p.1 p.2
  (⟨q.1.data ++ x.1.data, q.1.ue || x.1.ue⟩, x.2)

theorem sharedRead_eq (s : Dev) (mid a n : Nat) : s.sharedRead mid a n = (wordPieces n a n).foldl (readPiece mid) (⟨[], false⟩, s) := rfl

theorem foldl_readPiece (mid : Nat) (l : List (Nat × Nat)) (r : RdRes) (s : Dev) : let x := l.foldl (readPiece mid) (⟨[], false⟩, s)
    l.foldl (readPiece mid) (r, s) = (⟨r.data ++ x.1.data, r.ue || x.1.ue⟩, x.2) := by
  induction l generalizing r s with
  | nil => simp
  | cons p l ih =>
    rw [List.foldl_cons, List.foldl_cons, readPiece, readPiece, ih, ih ⟨_ ++ _, _⟩]
    simp only [List.nil_append, Bool.false_or, List.append_assoc, Bool.or_assoc]

theorem sharedRead_step {n : Nat} (hn : 0 < n) (s : Dev) (mid a : Nat) : let k := min n (8 - a % 8)
    let p := s.wordRead mid a k
    let q := p.2.sharedRead mid (a + k) (n - k)
    s.sharedRead mid a n = (⟨p.1.data ++ q.1.data, p.1.ue || q.1.ue⟩, q.2) := by
  intro k p q
  rw [sharedRead_eq, wordPieces_step hn, List.foldl_cons]
  exact foldl_readPiece ..

theorem sharedWrite_step {l : List Byte} (hl : 0 < l.length) (s : Dev) (mid a : Nat) : let k := min l.length (8 - a % 8)
    s.sharedWrite mid a l = (s.wordWrite mid a (l.take k)).sharedWrite mid (a + k) (l.drop k) := by
  intro k
  unfold Dev.sharedWrite
  rw [wordPieces_step hl, List.foldl_cons, List.length_drop]

/-! ### The registers that a read writes -/

/-- The counters of accesses that are made nowhere, and the counters and latches of accesses to words. -/
def readRegs : List Reg := [.SYS_DECODE_CNT, .SYS_DENY_CNT, .SYS_DOMAIN_OFF_CNT, .SMF_BANK_DENY_CNT] ++ accessRegs

theorem wordRead_regs (s : Dev) (mid a n : Nat) : RegsBut readRegs s (s.wordRead mid a n).2 := by
  have hsub : accessRegs ⊆ readRegs := List.subset_append_right ..
  have hgranted : RegsBut readRegs s (s.granted mid (bankOf a)) := .of_regs (granted_regs ..)
  have hce : Reg.SMF_CE_CNT.HasCopy 0 0 0 := ⟨by decide, by decide, by decide⟩
  unfold Dev.wordRead Dev.bankDeny
  split
  · exact .count (.refl s) ⟨by decide, by decide, by decide⟩ (by decide)
  generalize s.granted mid (bankOf a) = t at hgranted
  dsimp only
  split
  · exact hgranted
  · dsimp only
    split
    · exact (hgranted.count hce (by decide)).trans (.of_regs rfl)
    · exact hgranted.count hce (by decide)
  · exact hgranted.trans ((WordAccess.meetUe (p := 15) (a := a) t a mid 0).regs.mono hsub)

theorem sharedRead_regs (s : Dev) (mid a n : Nat) : RegsBut readRegs s (s.sharedRead mid a n).2 := by
  have hfold (ps : List (Nat × Nat)) (q : RdRes × Dev) : RegsBut readRegs q.2 (ps.foldl (readPiece mid) q).2 := by
    induction ps generalizing q with
    | nil => exact .refl _
    | cons p ps ih => exact (wordRead_regs q.2 mid p.1 p.2).trans (ih (readPiece mid q p))
  exact sharedRead_eq s mid a n ▸ hfold _ (⟨[], false⟩, s)

theorem physRead_regs (s : Dev) (mid a n : Nat) : RegsBut readRegs s (s.physRead mid a n).2 := by
  have hcount {r : Reg} (hr : r.HasCopy 0 0 0) (hl : r ∈ readRegs) : RegsBut readRegs s (s.count r) := .count (.refl s) hr hl
  simp only [Dev.physRead]
  split
  · exact hcount ⟨by decide, by decide, by decide⟩ (by decide)
  split
  · exact hcount ⟨by decide, by decide, by decide⟩ (by decide)
  split
  · exact sharedRead_regs s mid a n
  · split
    · exact .refl s
    · exact hcount ⟨by decide, by decide, by decide⟩ (by decide)
  · exact .refl s
  · exact .refl s

/-! ### Accesses without errors -/

/-- The register file, the Groomer's command and the errors of all words stay. -/
structure NoError (s t : Dev) : Prop where
  regs : t.regs = s.regs
  grm : t.grm = s.grm
  err : ∀ k, t.errOf k = s.errOf k

theorem NoError.refl (s : Dev) : NoError s s := ⟨rfl, rfl, fun _ => rfl⟩

theorem NoError.trans (h : NoError s t) (g : NoError t u) : NoError s u :=
  ⟨g.regs.trans h.regs, g.grm.trans h.grm, fun k => (g.err k).trans (h.err k)⟩

/-- The bytes of a range lie in banks that serve, in words without error. -/
def Sound (s : Dev) (a n : Nat) : Prop := ∀ i < n, s.bankServes (bankOf (a + i)) = true ∧ s.errOf (a + i) = 0

theorem NoError.sound {a n : Nat} (h : NoError s t) (hs : s.Sound a n) : t.Sound a n := fun i hi =>
  ⟨(bankServes_congr (reg_congr h.regs ..) h.grm).trans (hs i hi).1, (h.err _).trans (hs i hi).2⟩

theorem Sound.tail {a n k : Nat} (h : s.Sound a n) : s.Sound (a + k) (n - k) := fun i hi => by
  rw [Nat.add_assoc]
  exact h (k + i) (by omega)

theorem Sound.first {a n : Nat} (h : s.Sound a n) (hn : 0 < n) : s.bankServes (bankOf a) = true ∧ s.errOf a = 0 := h 0 hn

theorem granted_noError (s : Dev) (mid b : Nat) : NoError s (s.granted mid b) := by
  have hpass (p : Nat) : NoError s (s.grantPass b p) := by
    unfold Dev.grantPass
    split
    · exact .refl s
    · exact ⟨rfl, rfl, fun _ => rfl⟩
  exact (hpass _).trans ⟨rfl, rfl, fun _ => rfl⟩

theorem wordRead_sound {a : Nat} (hb : s.bankServes (bankOf a) = true) (he : s.errOf a = 0) (mid n : Nat) :
    s.wordRead mid a n = (⟨s.bytes a n, false⟩, s.granted mid (bankOf a)) := by
  have hgranted : (s.granted mid (bankOf a)).errOf a = 0 := ((granted_noError s mid (bankOf a)).err a).trans he
  have hbytes : (s.granted mid (bankOf a)).bytes a n = s.bytes a n := bytes_congr (granted_mem ..) ..
  simp [Dev.wordRead, hb, hgranted, hbytes]

theorem markDirty_noError (s : Dev) (a : Nat) : NoError s (s.markDirty a) ∧ (s.markDirty a).mem = s.mem := by
  unfold Dev.markDirty
  split
  · exact ⟨⟨rfl, rfl, fun _ => rfl⟩, rfl⟩
  · exact ⟨.refl s, rfl⟩

theorem setBytes_noError (s : Dev) (a : Nat) (l : List Byte) : NoError s (s.setBytes a l) :=
  ⟨setBytes_regs .., setBytes_grm .., setBytes_errOf s a l⟩

theorem setErr_noError {a : Nat} (h : s.errOf a = 0) : NoError s (s.setErr a 0) := by
  refine ⟨rfl, rfl, fun k => ?_⟩
  rw [errOf_setErr]
  split
  · next hk => rw [Dev.errOf, hk, ← h, Dev.errOf]
  · rfl

theorem wordWrite_sound {a : Nat} (hb : s.bankServes (bankOf a) = true) (he : s.errOf a = 0) (mid : Nat) (l : List Byte) :
    NoError s (s.wordWrite mid a l) ∧ (s.wordWrite mid a l).bytes a l.length = l := by
  have hg := granted_noError s mid (bankOf a)
  have hgranted := (hg.err a).trans he
  simp only [Dev.wordWrite, hb, Bool.not_true, Bool.false_eq_true, if_false, hgranted]
  generalize s.granted mid (bankOf a) = t at hg hgranted ⊢
  have hset := setBytes_noError t a l
  obtain ⟨u, hu⟩ : ∃ u, u = t.setBytes a l := ⟨_, rfl⟩
  have hbytes : u.bytes a l.length = l := hu ▸ bytes_setBytes l a t
  rw [← hu] at hset ⊢
  split
  · have herr := setErr_noError ((hset.err a).trans hgranted)
    obtain ⟨hmark, hmem⟩ := markDirty_noError (u.setErr a 0) a
    exact ⟨((hg.trans hset).trans herr).trans hmark, (bytes_congr hmem ..).trans ((bytes_congr (s := u.setErr a 0) (t := u) rfl ..).trans hbytes)⟩
  · obtain ⟨hmark, hmem⟩ := markDirty_noError u a
    exact ⟨(hg.trans hset).trans hmark, (bytes_congr hmem ..).trans hbytes⟩

theorem sharedRead_sound (mid : Nat) {a n : Nat} (hs : s.Sound a n) :
    (s.sharedRead mid a n).1 = ⟨s.bytes a n, false⟩ ∧ NoError s (s.sharedRead mid a n).2 := by
  induction n using Nat.strong_induction_on generalizing s a with
  | _ n ih =>
    rcases Nat.eq_zero_or_pos n with rfl | hn
    · exact ⟨rfl, .refl s⟩
    obtain ⟨hb, he⟩ := hs.first hn
    have hg := granted_noError s mid (bankOf a)
    obtain ⟨hdata, hrest⟩ := ih (n - min n (8 - a % 8)) (by omega) (hg.sound (hs.tail (k := min n (8 - a % 8))))
    rw [sharedRead_step hn, wordRead_sound hb he]
    simp only [hdata, bytes_congr (granted_mem s mid (bankOf a)), ← bytes_add, Bool.or_self]
    exact ⟨by rw [Nat.add_sub_cancel' (Nat.min_le_left ..)], hg.trans hrest⟩

theorem sharedWrite_sound (mid : Nat) {a : Nat} {l : List Byte} (hs : s.Sound a l.length) :
    NoError s (s.sharedWrite mid a l) ∧ (s.sharedWrite mid a l).bytes a l.length = l := by
  induction hn : l.length using Nat.strong_induction_on generalizing s a l with
  | _ n ih =>
    subst hn
    rcases Nat.eq_zero_or_pos l.length with hz | hn
    · obtain rfl := List.length_eq_zero_iff.mp hz
      exact ⟨.refl s, rfl⟩
    set k := min l.length (8 - a % 8) with hk
    obtain ⟨hb, he⟩ := hs.first hn
    have htake : (l.take k).length = k := by rw [List.length_take]; omega
    have hdrop : (l.drop k).length = l.length - k := List.length_drop
    obtain ⟨hw, hbytes⟩ := wordWrite_sound hb he mid (l.take k)
    have hsound : (s.wordWrite mid a (l.take k)).Sound (a + k) (l.drop k).length := by rw [hdrop]; exact hw.sound hs.tail
    obtain ⟨hrest, htail⟩ := ih (l.drop k).length (by omega) hsound rfl
    rw [sharedWrite_step hn]
    refine ⟨hw.trans hrest, ?_⟩
    have hhead : ((s.wordWrite mid a (l.take k)).sharedWrite mid (a + k) (l.drop k)).bytes a k = l.take k := by
      refine (bytes_congr_of_byte fun i hi => ?_).trans (htake ▸ hbytes)
      exact (sharedWrite_frame _ mid (a + k) (l.drop k)).2 (a + i) (.inl (by omega))
    have hsplit : l.length = k + (l.drop k).length := by omega
    rw [← hk, hsplit, bytes_add, hhead, htail, List.take_append_drop]

end Dev

end Sys2Proof.Machine
end

section
/-! The registers of the lifts (O46, R171, R174, R176): what a start, the end of a chain, RESUME and ABORT leave in them. -/

namespace Sys2Proof.Machine

theorem Agent.ctx_lt (who : Agent) : who.ctx < 4 := by
  cases who with
  | engine e c => exact c.isLt
  | patrol c => exact c.isLt
  | host => exact Nat.zero_lt_succ _

theorem Reg.hasCopy_lftStatus {l : Nat} (hl : l < 40) : Reg.LFT_STATUS.HasCopy l 0 0 := ⟨hl, by decide, by decide⟩

theorem Reg.hasCopy_lftProg {l : Nat} (hl : l < 40) : Reg.LFT_PROG.HasCopy l 0 0 := ⟨hl, by decide, by decide⟩

theorem Reg.hasCopy_lftCurLow {l : Nat} (hl : l < 40) : Reg.LFT_CUR_LOW.HasCopy l 0 0 := ⟨hl, by decide, by decide⟩

theorem Reg.hasCopy_lftCurHigh {l : Nat} (hl : l < 40) : Reg.LFT_CUR_HIGH.HasCopy l 0 0 := ⟨hl, by decide, by decide⟩

theorem Reg.hasCopy_lftDoneCnt : Reg.LFT_DONE_CNT.HasCopy 0 0 0 := ⟨by decide, by decide, by decide⟩

theorem Reg.hasCopy_lftAbortCnt : Reg.LFT_ABORT_CNT.HasCopy 0 0 0 := ⟨by decide, by decide, by decide⟩

/-- The low and the high word of an address of 40 bits, cut to 32 bytes, make up the address. -/
theorem bits_address {a : Nat} (h : a < 2 ^ 40) : bits a 31 5 * 32 % 2 ^ 32 + 2 ^ 32 * (bits a 39 32 % 2 ^ 32) = a / 32 * 32 := by
  unfold bits
  omega

namespace Dev
variable {s t : Dev} {l : Nat}

@[simp] theorem lift_updLift_same (s : Dev) (l : Nat) (f : LiftSt → LiftSt) : (s.updLift l f).lift l = f (s.lift l) := Tab.get_upd_same ..

theorem reapRuns_lft (s : Dev) : s.reapRuns.lft = s.lft := s.reapRuns_keeps (P := fun t => t.lft = s.lft) (fun _ _ _ h => h) (fun _ _ _ h => h) rfl

theorem lift_congr (h : t.lft = s.lft) (l : Nat) : t.lift l = s.lift l := by rw [Dev.lift, Dev.lift, h]

/-- The address of the descriptor is written in two words. -/
theorem reg64_cur (hl : l < 40) (s : Dev) {a : Nat} (ha : a < 2 ^ 40) :
    ((s.setReg .LFT_CUR_LOW (bits a 31 5 * 32) l).setReg .LFT_CUR_HIGH (bits a 39 32) l).reg64 .LFT_CUR_LOW .LFT_CUR_HIGH l = a / 32 * 32 := by
  rw [Dev.reg64, reg_setReg_same, reg_setReg_apart _ (Reg.hasCopy_lftCurLow hl) (Reg.hasCopy_lftCurHigh hl) (by decide), reg_setReg_same,
    bits_address ha]

/-! ### The end of a lift's ownership -/

theorem RegsBut.updCtx {m : List Reg} (h : RegsBut m s t) (c : Nat) (f : Ctx → Ctx) : RegsBut m s (t.updCtx c f) := h.trans (.of_regs rfl)

theorem RegsBut.becomeIdle {m : List Reg} (h : RegsBut m s t) (c : Nat) (hm : .RNK_ENG_STATUS ∈ m) : RegsBut m s (t.becomeIdle c) :=
  RegsBut.showState ((h.updCtx c _).updCtx c _) hm

theorem RegsBut.liftSettled {m : List Reg} {c : Nat} (h : RegsBut m s t) (hm : .RNK_ENG_STATUS ∈ m) : RegsBut m s (t.liftSettled c) := by
  unfold Dev.liftSettled
  dsimp only
  split
  · exact h
  split
  · exact (h.updCtx c _).becomeIdle c hm
  split
  · exact h.becomeIdle c hm
  · exact h

theorem liftSettled_mem (s : Dev) (c : Nat) : (s.liftSettled c).mem = s.mem := (leaves_liftSettled s c).mem

theorem liftStopped_state (hl : l < 40) (s : Dev) : (s.liftStopped l).fld .LFT_STATUS_STATE l = liftIdle := by
  have hset : (s.setFld .LFT_STATUS_STATE liftIdle l).fld .LFT_STATUS_STATE l = liftIdle := fld_setFld_same _ _ (by decide) (by decide) ..
  have hrest : RegsBut [.LFT_ABORT_CNT, .RNK_ENG_STATUS] (s.setFld .LFT_STATUS_STATE liftIdle l) (s.liftStopped l) :=
    (RegsBut.count (.refl _) Reg.hasCopy_lftAbortCnt (by decide)).liftSettled (by decide)
  exact (hrest.fld (Reg.hasCopy_lftStatus hl) (by decide)).trans hset

theorem liftStopped_counts (hl : l < 40) (s : Dev) :
    (s.liftStopped l).reg .LFT_ABORT_CNT = min (s.reg .LFT_ABORT_CNT + 1) 0xFFFFFFFF := by
  have hset : RegsBut [.LFT_STATUS] s (s.setFld .LFT_STATUS_STATE liftIdle l) := .setFld (.refl _) (Reg.hasCopy_lftStatus hl) (by decide)
  have hrest : RegsBut [.RNK_ENG_STATUS] ((s.setFld .LFT_STATUS_STATE liftIdle l).count .LFT_ABORT_CNT) (s.liftStopped l) :=
    .liftSettled (.refl _) (by decide)
  rw [hrest.reg _ _ _ _ Reg.hasCopy_lftAbortCnt (by decide), reg_count_same, hset.reg _ _ _ _ Reg.hasCopy_lftAbortCnt (by decide)]

/-! ### LIFT_START -/

/-- The lift starts for its writer. -/
theorem liftStart_eq {mid ctx : Nat} (hst : s.fld .LFT_STATUS_STATE l = liftIdle) (hring : s.flag .LFT_STATUS_RING l = false)
    (hmay : if l < 32 then mid < 0x40 ∧ mid / 8 = l / 4 else mid = 0x40) (pa : Nat) :
    let own := (((s.setFld .LFT_STATUS_STATE liftRunning l).setFld .LFT_STATUS_OWNER_MID mid l).setFld .LFT_STATUS_OWNER_CTX ctx l).setFld
      .LFT_PROG_BYTES 0 l
    s.liftStart l mid ctx pa = ((own.setReg .LFT_CUR_LOW (bits pa 31 5 * 32) l).setReg .LFT_CUR_HIGH (bits pa 39 32) l).updLift l fun _ =>
      ⟨if l < 32 then (s.ctx (ctxOf mid ctx)).space else 0, .fetch, [], none, none⟩ := by
  intro own
  refine if_neg ?_
  split at hmay <;> simp [*]

/-- What the start of a lift leaves. -/
structure LiftStarted (l mid ctx pa : Nat) (s t : Dev) : Prop where
  state : t.fld .LFT_STATUS_STATE l = liftRunning
  ownerMid : t.fld .LFT_STATUS_OWNER_MID l = mid
  ownerCtx : t.fld .LFT_STATUS_OWNER_CTX l = ctx
  prog : t.fld .LFT_PROG_BYTES l = 0
  cur : t.reg64 .LFT_CUR_LOW .LFT_CUR_HIGH l = pa / 32 * 32
  stage : (t.lift l).stage = .fetch
  space : (t.lift l).space = if l < 32 then (s.ctx (ctxOf mid ctx)).space else 0
  mem : t.mem = s.mem

theorem liftOwned_fields (s : Dev) (l : Nat) {mid ctx : Nat} (hmid : mid < 256) (hctx : ctx < 4) :
    let own := ((s.setFld .LFT_STATUS_STATE liftRunning l).setFld .LFT_STATUS_OWNER_MID mid l).setFld .LFT_STATUS_OWNER_CTX ctx l
    own.fld .LFT_STATUS_STATE l = liftRunning ∧ own.fld .LFT_STATUS_OWNER_MID l = mid ∧ own.fld .LFT_STATUS_OWNER_CTX l = ctx := by
  intro own
  set running := s.setFld .LFT_STATUS_STATE liftRunning l
  set owned := running.setFld .LFT_STATUS_OWNER_MID mid l
  have hctxBeside (q : Fld) (hq : q.reg = .LFT_STATUS) (hlo : 9 < q.lo ∨ q.hi < 8) : own.fld q l = owned.fld q l :=
    fld_setFld_beside owned (f := .LFT_STATUS_OWNER_CTX) (by decide) (by decide) hq hlo.symm ctx l 0 0
  have hstate : running.fld .LFT_STATUS_STATE l = liftRunning := fld_setFld_same s .LFT_STATUS_STATE (by decide) (by decide) ..
  have hmidBeside : owned.fld .LFT_STATUS_STATE l = running.fld .LFT_STATUS_STATE l :=
    fld_setFld_beside running (f := .LFT_STATUS_OWNER_MID) (q := .LFT_STATUS_STATE) (by decide) (by decide) rfl (by decide) ..
  have hownMid : owned.fld .LFT_STATUS_OWNER_MID l = mid % 256 := fld_setFld_same running .LFT_STATUS_OWNER_MID (by decide) (by decide) ..
  have hownCtx : own.fld .LFT_STATUS_OWNER_CTX l = ctx % 4 := fld_setFld_same owned .LFT_STATUS_OWNER_CTX (by decide) (by decide) ..
  refine ⟨(hctxBeside _ rfl (by decide)).trans (hmidBeside.trans hstate), ?_, hownCtx.trans (Nat.mod_eq_of_lt hctx)⟩
  exact (hctxBeside _ rfl (by decide)).trans (hownMid.trans (Nat.mod_eq_of_lt hmid))

theorem liftStart_started (hl : l < 40) {mid ctx pa : Nat} (hst : s.fld .LFT_STATUS_STATE l = liftIdle)
    (hring : s.flag .LFT_STATUS_RING l = false) (hmay : if l < 32 then mid < 0x40 ∧ mid / 8 = l / 4 else mid = 0x40) (hctx : ctx < 4)
    (hpa : pa < 2 ^ 40) : LiftStarted l mid ctx pa s (s.liftStart l mid ctx pa) := by
  have hmid : mid < 256 := by split at hmay <;> omega
  obtain ⟨hstate, hownMid, hownCtx⟩ := liftOwned_fields s l hmid hctx
  rw [liftStart_eq hst hring hmay]
  have hmem : (((s.setFld .LFT_STATUS_STATE liftRunning l).setFld .LFT_STATUS_OWNER_MID mid l).setFld .LFT_STATUS_OWNER_CTX ctx l).mem = s.mem := rfl
  generalize (((s.setFld .LFT_STATUS_STATE liftRunning l).setFld .LFT_STATUS_OWNER_MID mid l).setFld .LFT_STATUS_OWNER_CTX ctx l) = own at *
  set t := (own.setFld .LFT_PROG_BYTES 0 l).setReg .LFT_CUR_LOW (bits pa 31 5 * 32) l with ht
  have hcur : RegsBut [.LFT_CUR_LOW, .LFT_CUR_HIGH] (own.setFld .LFT_PROG_BYTES 0 l) (t.setReg .LFT_CUR_HIGH (bits pa 39 32) l) :=
    (RegsBut.setReg (.refl _) (Reg.hasCopy_lftCurLow hl) (by decide)).setReg (Reg.hasCopy_lftCurHigh hl) (by decide)
  have hprog : RegsBut [.LFT_PROG] own (own.setFld .LFT_PROG_BYTES 0 l) := .setFld (.refl _) (Reg.hasCopy_lftProg hl) (by decide)
  have hstatus (f : Fld) (hf : f.reg = .LFT_STATUS) : (t.setReg .LFT_CUR_HIGH (bits pa 39 32) l).fld f l = own.fld f l :=
    (hcur.fld (hf ▸ Reg.hasCopy_lftStatus hl) (hf ▸ by decide)).trans (hprog.fld (hf ▸ Reg.hasCopy_lftStatus hl) (hf ▸ by decide))
  refine ⟨(hstatus _ rfl).trans hstate, (hstatus _ rfl).trans hownMid, (hstatus _ rfl).trans hownCtx, ?_, ?_, ?_, ?_, hmem⟩
  · exact (hcur.fld (Reg.hasCopy_lftProg hl) (by decide)).trans (fld_setFld_same _ _ (by decide) (by decide) ..)
  · exact reg64_cur hl _ hpa
  · rw [lift_updLift_same]
  · rw [lift_updLift_same]

/-- The commit of a descriptor's address starts the lift; of reserved bits one violation is counted. -/
theorem copyStore_liftDesc {mid : Nat} {lo : Word} (hlo : s.loStage.get (pairKey mid (Reg.addr .LFT_DESC_LOW l)) = some lo)
    (ctx v : Nat) : ∃ u, s.copyStore .LFT_DESC_HIGH l 0 0 mid ctx v = u.liftStart l mid ctx (lo.toNat + bits v 7 0 * 2 ^ 32) ∧
      RegsBut [.LFT_MISUSE_CNT] s u ∧ u.eng = s.eng ∧ u.mem = s.mem := by
  have hmisuse : Reg.LFT_MISUSE_CNT.HasCopy 0 0 0 := ⟨by decide, by decide, by decide⟩
  have hwrite : s.copyStore .LFT_DESC_HIGH l 0 0 mid ctx v =
      (s.setStage (pairKey mid (Reg.addr .LFT_DESC_LOW l)) none).pairCommit .LFT_DESC_LOW .LFT_DESC_HIGH lo.toNat v l 0 mid ctx := by
    have hpair := copyStore_high (r := .LFT_DESC_LOW) (hi := .LFT_DESC_HIGH) rfl rfl s l 0 0 mid ctx v
    have hrw : Reg.readOnly .LFT_DESC_HIGH = false := by decide
    rw [hpair]
    simp only [Dev.pairWrite, hrw, Bool.false_eq_true, if_false, hlo]
  rw [hwrite]
  set u := s.setStage (pairKey mid (Reg.addr .LFT_DESC_LOW l)) none
  have hu : RegsBut [.LFT_MISUSE_CNT] s u := .of_regs rfl
  refine ⟨if Reg.strayBits .LFT_DESC_LOW lo.toNat || Reg.strayBits .LFT_DESC_HIGH v then u.misuse .LFT 0 else u, rfl, ?_⟩
  split
  · exact ⟨hu.count hmisuse (by decide), rfl, rfl⟩
  · exact ⟨hu, rfl, rfl⟩

/-! ### The end of a chain -/

theorem liftDone_eq (hst : s.fld .LFT_STATUS_STATE l = liftRunning) (hstage : (s.lift l).stage = .ended) :
    let rung := (((s.setFld .LFT_STATUS_STATE liftIdle l).liftEvent l (liftBit l) true).count .LFT_DONE_CNT).when (bit ((s.lift l).word 3) 9)
      fun u => u.ringMask (bits ((s.lift l).word 3) 14 10) (2 ^ bits ((s.lift l).word 3) 19 15)
    s.liftDone l = rung.liftSettled (s.liftOwner l) := if_neg (by simp [hst, hstage])

theorem liftDone_idle (hl : l < 40) (hst : s.fld .LFT_STATUS_STATE l = liftRunning) (hstage : (s.lift l).stage = .ended) :
    (s.liftDone l).fld .LFT_STATUS_STATE l = liftIdle ∧ (s.liftDone l).reg .LFT_DONE_CNT = min (s.reg .LFT_DONE_CNT + 1) 0xFFFFFFFF ∧
      (s.liftDone l).mem = s.mem := by
  rw [liftDone_eq hst hstage]
  set idle := s.setFld .LFT_STATUS_STATE liftIdle l
  have hidle : idle.fld .LFT_STATUS_STATE l = liftIdle := fld_setFld_same _ _ (by decide) (by decide) ..
  have hset : RegsBut [.LFT_STATUS] s idle := .setFld (.refl _) (Reg.hasCopy_lftStatus hl) (by decide)
  set seen := idle.liftEvent l (liftBit l) true
  have hseen : RegsBut [] idle seen := .of_regs rfl
  have hend (ring : Bool) (n mask : Nat) (hn : n < 32) (c : Nat) (m : List Reg)
      (hm : [Reg.MBX_DB, .MBX_DB_COAL_CNT, .HST_MSIX_CNT, .RNK_ENG_STATUS] ⊆ m) (u : Dev) :
      RegsBut m u ((u.when ring fun u => u.ringMask n mask).liftSettled c) ∧
        ((u.when ring fun u => u.ringMask n mask).liftSettled c).mem = u.mem := by
    refine ⟨.liftSettled (.when (.refl u) fun _ h => h.ringMask hn fun q hq => hm ?_) (hm (by simp)), ?_⟩
    · simp only [List.mem_cons, List.not_mem_nil, or_false] at hq ⊢
      tauto
    · rw [liftSettled_mem]
      exact when_keeps (P := fun t => t.mem = u.mem) (fun t ht => (ringMask_mem ..).trans ht) u rfl
  obtain ⟨hregs, hmem⟩ := hend (bit ((s.lift l).word 3) 9) (bits ((s.lift l).word 3) 14 10) (2 ^ bits ((s.lift l).word 3) 19 15) (bits_lt ..)
    (s.liftOwner l) _ (List.Subset.refl _) (seen.count .LFT_DONE_CNT)
  refine ⟨?_, ?_, hmem⟩
  · rw [hregs.fld (Reg.hasCopy_lftStatus hl) (by decide), ← hidle]
    exact fld_setReg_other _ ((Reg.hasCopy_lftStatus hl).addr_ne Reg.hasCopy_lftDoneCnt (by decide)) _
  · rw [hregs.reg _ _ _ _ Reg.hasCopy_lftDoneCnt (by decide), reg_count_same, hseen.reg _ _ _ _ Reg.hasCopy_lftDoneCnt (by decide),
      hset.reg _ _ _ _ Reg.hasCopy_lftDoneCnt (by decide)]

/-! ### RESUME and ABORT -/

theorem copyStore_liftCtrl (s : Dev) (l mid ctx v : Nat) :
    s.copyStore .LFT_CTRL l 0 0 mid ctx v = ((s.plain .LFT_CTRL v l).liftCtrl l mid ctx v).reapRuns := copyStore_single _ rfl ..

theorem plain_liftCtrl (hl : l < 40) (s : Dev) (v : Nat) : RegsBut [.LFT_CTRL, .LFT_MISUSE_CNT] s (s.plain .LFT_CTRL v l) :=
  have hmisuse : Reg.LFT_MISUSE_CNT.HasCopy 0 0 0 := ⟨by decide, by decide, by decide⟩
  .plain (.refl s) ⟨hl, by decide, by decide⟩ hmisuse (by decide) (by decide)

theorem plain_lift (s : Dev) (r : Reg) (v i l : Nat) : (s.plain r v i).lift l = s.lift l := lift_congr (by rw [plain_frame]) l

theorem RegsBut.liftMaster {m : List Reg} (h : RegsBut m s t) (hm : .LFT_STATUS ∉ m) (hl : l < 40) (mid ctx : Nat) :
    t.liftMaster l mid ctx = s.liftMaster l mid ctx := by
  have hcopy := Reg.hasCopy_lftStatus hl
  rw [Dev.liftMaster, Dev.liftMaster, h.flag hcopy hm, h.fld hcopy hm, h.fld hcopy hm]

theorem liftCtrl_resume {mid ctx : Nat} (h : s.liftMaster l mid ctx = true) (hst : s.fld .LFT_STATUS_STATE l = liftFaulted) :
    s.liftCtrl l mid ctx 1 = s.liftResume l := by
  simp [Dev.liftCtrl, bit, h, hst]

theorem liftCtrl_abort {mid ctx : Nat} (h : s.liftMaster l mid ctx = true) (ha : s.liftAbortable l = true) :
    s.liftCtrl l mid ctx 2 = s.liftAbort l := by
  simp [Dev.liftCtrl, bit, h, ha]

theorem liftResume_runs (s : Dev) (l : Nat) : (s.liftResume l).fld .LFT_STATUS_STATE l = liftRunning ∧
    ((s.liftResume l).lift l).stage = .fetch ∧ (s.liftResume l).mem = s.mem := by
  refine ⟨?_, by rw [Dev.liftResume, lift_updLift_same], rfl⟩
  exact fld_setFld_same s .LFT_STATUS_STATE (by decide) (by decide) liftRunning l 0 0

theorem liftAbort_faulted (h : s.fld .LFT_STATUS_STATE l = liftFaulted) : s.liftAbort l = s.liftStopped l := if_pos h

theorem liftAbort_running (h : s.fld .LFT_STATUS_STATE l = liftRunning) : s.liftAbort l = s.setFld .LFT_STATUS_STATE liftStopping l :=
  if_neg (by rw [h]; decide)

theorem liftAbortable_iff : s.liftAbortable l = true ↔
    s.fld .LFT_STATUS_STATE l = liftFaulted ∨ s.fld .LFT_STATUS_STATE l = liftRunning ∧ (s.lift l).stage ≠ .ended := by
  simp [Dev.liftAbortable]

end Dev

end Sys2Proof.Machine
end

section
/-! O46: lifts start, fetch their descriptors, move their blocks, end, resume and abort (R170 to R176). A block by physical addresses reads its source
page by page and then writes its destination, which lies within one line of 64 bytes. -/

namespace Sys2Proof.Machine

namespace Dev
variable {s t : Dev} {l : Nat}

/-! ### Memory by physical address -/

/-- The bytes of a range lie in shared memory, in banks that serve and do not leave retention, in words without error. -/
def Clear (s : Dev) (a n : Nat) : Prop :=
  ∀ i < n, a + i < 0x8000000 ∧ s.bankServes (bankOf (a + i)) = true ∧ s.bankState (bankOf (a + i)) ≠ 4 ∧ s.errOf (a + i) = 0

theorem Clear.sound {a n : Nat} (h : s.Clear a n) : s.Sound a n := fun i hi => ⟨(h i hi).2.1, (h i hi).2.2.2⟩

theorem Clear.shared {a n : Nat} (h : s.Clear a n) (hn : 0 < n) : rangeOf a = .shared := if_pos (h 0 hn).1

theorem Clear.sub {a n m k : Nat} (h : s.Clear a n) (hk : k + m ≤ n) : s.Clear (a + k) m := fun i hi => by
  rw [Nat.add_assoc]
  exact h (k + i) (by omega)

theorem NoError.clear {a n : Nat} (h : NoError s t) (hs : s.Clear a n) : t.Clear a n := fun i hi => by
  obtain ⟨hlt, hserves, hstate, herr⟩ := hs i hi
  have hreg := reg_congr h.regs .SMF_BANK_STAT (bankOf (a + i) / 8) 0 0
  exact ⟨hlt, (bankServes_congr hreg h.grm).trans hserves, (bankState_congr hreg).symm ▸ hstate, (h.err _).trans herr⟩

theorem Clear.not_waits {a n : Nat} (h : s.Clear a n) (hn : 0 < n) : s.bankWaits a n = false := by
  obtain ⟨-, -, hfirst, -⟩ := h 0 hn
  obtain ⟨-, -, hlast, -⟩ := h (n - 1) (by omega)
  rw [← Nat.add_sub_assoc hn] at hlast
  exact bankWaits_eq_false hfirst hlast

theorem physRead_clear {a n : Nat} (h : s.Clear a n) (hn : 0 < n) (mid : Nat) :
    (s.physRead mid a n).1 = ⟨s.bytes a n, false⟩ ∧ NoError s (s.physRead mid a n).2 := by
  have hread : s.physRead mid a n = s.sharedRead mid a n := by simp [Dev.physRead, h.shared hn, mayReach]
  rw [hread]
  exact sharedRead_sound mid h.sound

theorem physWrite_clear {a : Nat} {b : List Byte} (h : s.Clear a b.length) (hb : 0 < b.length) (mid : Nat) :
    NoError s (s.physWrite mid a b) ∧ (s.physWrite mid a b).bytes a b.length = b := by
  have hwrite : s.physWrite mid a b = s.sharedWrite mid a b := by simp [Dev.physWrite, h.shared hb, mayReach]
  rw [hwrite]
  exact sharedWrite_sound mid h.sound

/-! ### The source of a block -/

/-- Pieces that are not empty and lie in memory without faults. -/
def ClearPieces (s : Dev) (ps : List (Nat × Nat)) : Prop := ∀ p ∈ ps, 0 < p.2 ∧ s.Clear p.1 p.2

theorem liftRead_clear (mid : Nat) {ps : List (Nat × Nat)} (h : s.ClearPieces ps) (d : Nat) :
    (s.liftRead mid ps d).1 = .ok (ps.flatMap fun p => s.bytes p.1 p.2) ∧ NoError s (s.liftRead mid ps d).2 ∧
      s.memOnly (s.liftRead mid ps d).2 ∧ (s.liftRead mid ps d).2.mem = s.mem := by
  induction ps generalizing s d with
  | nil => exact ⟨rfl, .refl s, rfl, rfl⟩
  | cons p ps ih =>
    obtain ⟨⟨hpos, hclear⟩, hps⟩ := List.forall_mem_cons.mp h
    obtain ⟨hdata, herr⟩ := physRead_clear hclear hpos mid
    obtain ⟨honly, hmem⟩ := s.physRead_frame mid p.1 p.2
    obtain ⟨hok, herrs, honlys, hmems⟩ := ih (fun q hq => ⟨(hps q hq).1, herr.clear (hps q hq).2⟩) (d + p.2)
    have hread : s.liftRead mid (p :: ps) d =
        (.ok (s.bytes p.1 p.2 ++ ps.flatMap fun p => s.bytes p.1 p.2), ((s.physRead mid p.1 p.2).2.liftRead mid ps (d + p.2)).2) := by
      have hbytes (q : Nat × Nat) : (s.physRead mid p.1 p.2).2.bytes q.1 q.2 = s.bytes q.1 q.2 := bytes_congr hmem ..
      simp only [hbytes] at hok
      rw [Dev.liftRead]
      simp only [hdata, Bool.false_eq_true, if_false]
      rw [← Prod.eta (Dev.liftRead mid ps (d + p.2) _), hok]
    rw [hread, List.flatMap_cons]
    exact ⟨rfl, herr.trans herrs, honly.trans honlys, hmems.trans hmem⟩

theorem clearPieces_pagePieces {a n : Nat} (h : s.Clear a n) : s.ClearPieces (pagePieces a n) := by
  unfold Dev.ClearPieces pagePieces
  split
  · simp
  · next hn =>
    split
    · simp only [List.mem_singleton, forall_eq]
      exact ⟨Nat.pos_of_ne_zero hn, h⟩
    · simp only [List.forall_mem_cons, List.not_mem_nil, false_imp_iff, implies_true, and_true]
      exact ⟨⟨by omega, h.sub (k := 0) (by omega)⟩, by omega, h.sub (by omega)⟩

theorem bytes_pagePieces (s : Dev) (a n : Nat) : ((pagePieces a n).flatMap fun p => s.bytes p.1 p.2) = s.bytes a n := by
  unfold pagePieces
  split
  · next hn => rw [hn]; rfl
  split
  · simp
  · next hn => simp [← bytes_add, Nat.add_sub_cancel' (show 4096 - a % 4096 ≤ n by omega)]

/-! ### LIFT_BLOCK -/

theorem liftAddrs_physical (s : Dev) (l : Nat) (store : Bool) (ps : List (Nat × Nat)) : s.liftAddrs l true store ps = (.ok ps, s) := by
  induction ps with
  | nil => rfl
  | cons p ps ih => simp [Dev.liftAddrs, Dev.liftAddr, ih]

/-- The bytes that a block writes: those read, or the fill word's. -/
def blockData (x : LiftSt) (da n : Nat) (data : List Byte) : List Byte :=
  if x.op = 1 then (List.range n).map fun i => BitVec.ofNat 8 (x.word 5 / 256 ^ ((da + i) % 4)) else data

/-- A block by physical addresses, whose memory keeps nothing waiting and reads without error. -/
theorem liftBlock_physical (hst : s.fld .LFT_STATUS_STATE l = liftRunning) (hstage : (s.lift l).stage = .blocks)
    (hsrc : (s.lift l).srcPhys = true) (hdst : (s.lift l).dstPhys = true) {da sa off n : Nat} (hoff : s.fld .LFT_PROG_BYTES l = off)
    (hda : ((s.lift l).dst40 + off) % 2 ^ 40 = da) (hsa : ((s.lift l).src40 + off) % 2 ^ 40 = sa)
    (hn : min ((s.lift l).len - off) (64 - da % 64) = n) {srcs : List (Nat × Nat)}
    (hsrcs : (if (s.lift l).op = 1 then [] else pagePieces sa n) = srcs) (hwaits : (srcs ++ [(da, n)]).any (fun p => s.bankWaits p.1 p.2) = false)
    {data : List Byte} (hread : s.liftRead (liftMid l) srcs 0 = (.ok data, t)) :
    s.liftBlock l = let e := (t.liftWrite (liftMid l) [(da, n)] (blockData (s.lift l) da n data)).setFld .LFT_PROG_BYTES (off + n) l
      if off + n = (s.lift l).len then e.liftDescEnd l else e := by
  have hstopping : s.fld .LFT_STATUS_STATE l ≠ liftStopping := by rw [hst]; decide
  have hgoes : ¬(s.fld .LFT_STATUS_STATE l ≠ liftRunning ∨ (s.lift l).stage ≠ .blocks) := by simp [hst, hstage]
  have hnoWalk : (srcs.any fun _ => false) = false := by simp
  unfold Dev.liftBlock
  simp only [if_neg hstopping, if_neg hgoes, hsrc, hdst, if_true, hoff, hda, hsa, hn, hsrcs, Bool.not_true, Bool.false_and, hnoWalk,
    Bool.or_self, Bool.false_eq_true, if_false, liftAddrs_physical, hwaits, hread]
  rfl

theorem blockData_length {x : LiftSt} {da n : Nat} {data : List Byte} (h : x.op ≠ 1 → data.length = n) : (blockData x da n data).length = n := by
  unfold blockData
  split
  · simp
  · next hop => exact h hop

theorem getD_blockData {x : LiftSt} {da i n : Nat} (hi : i < n) (data : List Byte) : (blockData x da n data).getD i 0#8 =
    if x.op = 1 then BitVec.ofNat 8 (x.word 5 / 256 ^ ((da + i) % 4)) else data.getD i 0#8 := by
  unfold blockData
  split
  · simp [hi]
  · rfl

theorem liftDescEnd_mem (s : Dev) (l : Nat) : (s.liftDescEnd l).mem = s.mem := by
  unfold Dev.liftDescEnd
  dsimp only
  split
  · rw [updLift_mem]
  · rw [updLift_mem, setFld_mem, setReg_mem, setReg_mem]

theorem liftDescEnd_last (h : (s.lift l).last = true) : ((s.liftDescEnd l).lift l).stage = .ended := by
  rw [Dev.liftDescEnd, if_pos h, lift_updLift_same]

theorem next40_lt (x : LiftSt) : x.next40 < 2 ^ 40 := by
  have hlow : x.word 6 < 2 ^ 32 := (x.desc.getD 6 0#32).isLt
  have hhigh : bits (x.word 7) 7 0 < 2 ^ 8 := bits_lt ..
  unfold LiftSt.next40
  omega

theorem liftDescEnd_next (hl : l < 40) (h : (s.lift l).last = false) : ((s.liftDescEnd l).lift l).stage = .fetch ∧
    (s.liftDescEnd l).fld .LFT_PROG_BYTES l = 0 ∧
    (s.liftDescEnd l).reg64 .LFT_CUR_LOW .LFT_CUR_HIGH l = (s.lift l).next40 / 32 * 32 := by
  have hnext : s.liftDescEnd l = (((s.setReg .LFT_CUR_LOW (bits (s.lift l).next40 31 5 * 32) l).setReg .LFT_CUR_HIGH
      (bits (s.lift l).next40 39 32) l).setFld .LFT_PROG_BYTES 0 l).updLift l fun x => { x with stage := .fetch } := if_neg (by simp [h])
  have hcur := reg64_cur hl s (next40_lt (s.lift l))
  rw [hnext]
  generalize (s.setReg .LFT_CUR_LOW (bits (s.lift l).next40 31 5 * 32) l).setReg .LFT_CUR_HIGH (bits (s.lift l).next40 39 32) l = t at *
  have hprog : RegsBut [.LFT_PROG] t ((t.setFld .LFT_PROG_BYTES 0 l).updLift l fun x => { x with stage := .fetch }) :=
    (RegsBut.setFld (.refl t) (Reg.hasCopy_lftProg hl) (by decide)).trans (.of_regs (updLift_regs ..))
  refine ⟨by rw [lift_updLift_same], ?_, ?_⟩
  · rw [fld_congr (updLift_regs ..), fld_setFld_same t .LFT_PROG_BYTES (by decide) (by decide)]
    rfl
  rw [← hcur, Dev.reg64, Dev.reg64, hprog.reg _ _ _ _ (Reg.hasCopy_lftCurLow hl) (by decide),
    hprog.reg _ _ _ _ (Reg.hasCopy_lftCurHigh hl) (by decide)]

/-- What a block of `n` bytes to `da` leaves, of a descriptor of which `off` bytes were moved before. -/
structure BlockMoved (l off da sa n : Nat) (s t : Dev) : Prop where
  outside : ∀ a, a < da ∨ da + n ≤ a → t.byte a = s.byte a
  inside : ∀ i < n, t.byte (da + i) =
    if (s.lift l).op = 1 then BitVec.ofNat 8 ((s.lift l).word 5 / 256 ^ ((da + i) % 4)) else s.byte (sa + i)
  more : off + n < (s.lift l).len → t.fld .LFT_PROG_BYTES l = off + n ∧ (t.lift l).stage = .blocks
  last : off + n = (s.lift l).len → (s.lift l).last = true → (t.lift l).stage = .ended
  next : off + n = (s.lift l).len → (s.lift l).last = false → (t.lift l).stage = .fetch ∧ t.fld .LFT_PROG_BYTES l = 0 ∧
    t.reg64 .LFT_CUR_LOW .LFT_CUR_HIGH l = (s.lift l).next40 / 32 * 32

/-- The progress is shown, and at its last byte the descriptor ends. -/
theorem blockMoved_of_written (hl : l < 40) {off da sa n : Nat} (hstage : (s.lift l).stage = .blocks) (hlift : t.lift l = s.lift l)
    (hlen : off + n ≤ (s.lift l).len) (houtside : ∀ a, a < da ∨ da + n ≤ a → t.byte a = s.byte a)
    (hinside : ∀ i < n, t.byte (da + i) =
      if (s.lift l).op = 1 then BitVec.ofNat 8 ((s.lift l).word 5 / 256 ^ ((da + i) % 4)) else s.byte (sa + i)) :
    BlockMoved l off da sa n s (let e := t.setFld .LFT_PROG_BYTES (off + n) l
      if off + n = (s.lift l).len then e.liftDescEnd l else e) := by
  have hprog : (t.setFld .LFT_PROG_BYTES (off + n) l).fld .LFT_PROG_BYTES l = off + n := by
    have hlt : (s.lift l).len < 2 ^ 24 := bits_lt ..
    exact (fld_setFld_same t .LFT_PROG_BYTES (by decide) (by decide) (off + n) l 0 0).trans (Nat.mod_eq_of_lt (Nat.lt_of_le_of_lt hlen hlt))
  have hlift' : (t.setFld .LFT_PROG_BYTES (off + n) l).lift l = s.lift l := hlift
  have hmem : (t.setFld .LFT_PROG_BYTES (off + n) l).mem = t.mem := rfl
  generalize t.setFld .LFT_PROG_BYTES (off + n) l = e at *
  dsimp only
  split
  · next hend =>
    have hbyte (a : Nat) : (e.liftDescEnd l).byte a = t.byte a := byte_congr ((liftDescEnd_mem e l).trans hmem) a
    refine ⟨fun a ha => (hbyte a).trans (houtside a ha), fun i hi => (hbyte _).trans (hinside i hi), fun h => absurd hend (by omega),
      fun _ hlast => liftDescEnd_last (hlift' ▸ hlast), fun _ hlast => ?_⟩
    rw [← hlift'] at hlast ⊢
    exact liftDescEnd_next hl hlast
  · next hend =>
    have hbyte (a : Nat) : e.byte a = t.byte a := byte_congr hmem a
    exact ⟨fun a ha => (hbyte a).trans (houtside a ha), fun i hi => (hbyte _).trans (hinside i hi), fun _ => ⟨hprog, hlift' ▸ hstage⟩,
      fun h => absurd h hend, fun h => absurd h hend⟩

theorem liftBlock_moves (hl : l < 40) (hst : s.fld .LFT_STATUS_STATE l = liftRunning) (hstage : (s.lift l).stage = .blocks)
    (hsrc : (s.lift l).srcPhys = true) (hdst : (s.lift l).dstPhys = true) {da sa off n : Nat} (hoff : s.fld .LFT_PROG_BYTES l = off)
    (hlt : off < (s.lift l).len) (hda : (s.lift l).dst40 + off = da) (hsa : (s.lift l).src40 + off = sa)
    (hn : min ((s.lift l).len - off) (64 - da % 64) = n) (hto : s.Clear da n) (hfrom : (s.lift l).op ≠ 1 → s.Clear sa n) :
    BlockMoved l off da sa n s (s.liftBlock l) := by
  have hpos : 0 < n := by omega
  have hwrap {a : Nat} (h : s.Clear a n) : a % 2 ^ 40 = a := Nat.mod_eq_of_lt (Nat.lt_trans (h 0 hpos).1 (by decide))
  set srcs := if (s.lift l).op = 1 then [] else pagePieces (sa % 2 ^ 40) n with hsrcs
  set data := srcs.flatMap fun p => s.bytes p.1 p.2 with hdata
  have hpieces : s.ClearPieces srcs := by
    rw [hsrcs]
    split
    · exact nofun
    · next hop => rw [hwrap (hfrom hop)]; exact clearPieces_pagePieces (hfrom hop)
  have hbytes (hop : (s.lift l).op ≠ 1) : data = s.bytes sa n := by
    rw [hdata, hsrcs, if_neg hop, hwrap (hfrom hop), bytes_pagePieces]
  obtain ⟨hok, herr, honly, hmem⟩ := liftRead_clear (liftMid l) hpieces 0
  set t := (s.liftRead (liftMid l) srcs 0).2
  have hwaits : (srcs ++ [(da, n)]).any (fun p => s.bankWaits p.1 p.2) = false := by
    rw [List.any_eq_false]
    refine List.forall_mem_append.mpr ⟨fun p hp => ?_, by simp [hto.not_waits hpos]⟩
    rw [(hpieces p hp).2.not_waits (hpieces p hp).1]
    decide
  rw [liftBlock_physical hst hstage hsrc hdst hoff (hda ▸ hwrap (hda ▸ hto)) (hsa ▸ rfl) hn hsrcs.symm hwaits (Prod.ext hok rfl : _ = (_, t))]
  set b := blockData (s.lift l) da n data
  have hlen : b.length = n := blockData_length fun hop => by rw [hbytes hop, bytes_length]
  obtain ⟨hwrote, hback⟩ := physWrite_clear (hlen ▸ herr.clear hto) (hlen ▸ hpos) (liftMid l) (b := b)
  obtain ⟨honly', houtside⟩ := t.physWrite_frame (liftMid l) da b
  have hwrite : t.liftWrite (liftMid l) [(da, n)] b = t.physWrite (liftMid l) da b := by
    rw [Dev.liftWrite, Dev.liftWrite, List.take_of_length_le (Nat.le_of_eq hlen)]
  rw [hwrite]
  refine blockMoved_of_written hl hstage (lift_congr ?_ l) (by omega) (fun a ha => ?_) fun i hi => ?_
  · rw [honly.trans honly']
  · exact (houtside a (hlen ▸ ha)).trans (byte_congr hmem a)
  · have hgot := getD_bytes hi (t.physWrite (liftMid l) da b) da
    rw [hlen] at hback
    rw [← hgot, hback, getD_blockData hi]
    split
    · rfl
    · next hop => rw [hbytes hop, getD_bytes hi]

/-! ### LIFT_DESCRIPTOR_FETCH -/

theorem liftFetch_legal (hst : s.fld .LFT_STATUS_STATE l = liftRunning) (hstage : (s.lift l).stage = .fetch)
    (hring : s.flag .LFT_STATUS_RING l = false) {pa : Nat} (hpa : s.reg64 .LFT_CUR_LOW .LFT_CUR_HIGH l = pa)
    (hwaits : (s.physRead (liftMid l) pa 32).2.bankWaits pa 32 = false) (hue : (s.physRead (liftMid l) pa 32).1.ue = false) :
    let e := (s.physRead (liftMid l) pa 32).2.updLift l fun y => { y with desc := wordsOf 8 (s.physRead (liftMid l) pa 32).1.data, stage := .blocks }
    e.descLegal l (e.lift l) = true →
    s.liftFetch l = if (e.lift l).len ≤ e.fld .LFT_PROG_BYTES l then e.liftDescEnd l else e := by
  intro e hlegal
  have hstopping : s.fld .LFT_STATUS_STATE l ≠ liftStopping := by rw [hst]; decide
  have hgoes : ¬(s.fld .LFT_STATUS_STATE l ≠ liftRunning ∨ (s.lift l).stage ≠ .fetch ∨ s.flag .LFT_STATUS_RING l = true) := by
    simp [hst, hstage, hring]
  unfold Dev.liftFetch
  simp only [if_neg hstopping, if_neg hgoes, hpa, hwaits, hue, Bool.false_eq_true, if_false]
  exact if_neg (Bool.eq_false_iff.mp (congrArg not hlegal))

end Dev

/-! ### The rows -/

section
variable (who : Agent) (l : Fin 40) (s : State)

theorem exec_liftStart_eq (v : Word) : exec (.liftStart who l v) s = .next (s.withDev (s.dev.rowWrite who .LFT_DESC_HIGH v.toNat l)) := rfl

theorem exec_liftDescriptorFetch_eq : exec (.liftDescriptorFetch l) s = .next (s.withDev (s.dev.liftFetch l).reapRuns) := rfl

theorem exec_liftBlock_eq : exec (.liftBlock l) s = .next (s.withDev (s.dev.liftBlock l).reapRuns) := rfl

theorem exec_liftChainDone_eq : exec (.liftChainDone l) s = .next (s.withDev (s.dev.liftDone l).reapRuns) := rfl

theorem exec_liftResume_eq : exec (.liftResume who l) s = .next (s.withDev (s.dev.rowWrite who .LFT_CTRL 1 l)) := rfl

theorem exec_liftAbort_eq : exec (.liftAbort who l) s = .next (s.withDev (s.dev.rowWrite who .LFT_CTRL 2 l)) := rfl

end

/-- A write of LFT_CTRL by a master of the lift obeys on a device whose lift is as before. -/
theorem Dev.rowWrite_liftCtrl {d : Dev} {who : Agent} {l : Nat} (hl : l < 40) (hreach : d.reaches who .LFT_CTRL l 0 true)
    (hmaster : d.liftMaster l who.mid who.ctx = true) (v : Nat) :
    ∃ u, d.rowWrite who .LFT_CTRL v l = (u.liftCtrl l who.mid who.ctx v).reapRuns ∧ Dev.RegsBut [.LFT_CTRL, .LFT_MISUSE_CNT] d u ∧ u.mem = d.mem ∧
      u.lift l = d.lift l ∧ u.liftMaster l who.mid who.ctx = true := by
  have hplain := Dev.plain_liftCtrl hl d v
  refine ⟨d.plain .LFT_CTRL v l, ?_, hplain, Dev.plain_mem .., Dev.plain_lift .., ?_⟩
  · rw [Dev.rowWrite_reaches hreach, Dev.copyStore_liftCtrl]
  · rw [hplain.liftMaster (by decide) hl, hmaster]

/-- Settles O46: each row leaves what the operation of the lift leaves, and the runs that are lost with a job beside it. -/
theorem liftRowsComplete : Obligations.LiftRowsComplete := by
  unfold Obligations.LiftRowsComplete
  intro l s d st x off
  have hl := l.isLt
  have hreap (u : Dev) : Dev.RegsBut [.CTL_TASK_STAT] u u.reapRuns := .reapRuns (.refl u) (by decide)
  have hstatus {m : List Reg} {u t : Dev} (h : Dev.RegsBut m u t) (hm : .LFT_STATUS ∉ m) : t.fld .LFT_STATUS_STATE l = u.fld .LFT_STATUS_STATE l :=
    h.fld (Reg.hasCopy_lftStatus hl) hm
  refine ⟨?start, ?fetch, ?block, ?done, fun who hreach hmaster => ⟨?resume, ?abort, ?stop⟩⟩
  case start =>
    intro who v lo hreach hlo hidle hring hmay
    obtain ⟨u, hwrite, hregs, heng, hmem⟩ := Dev.copyStore_liftDesc hlo who.ctx v.toNat
    have hpa : lo.toNat + bits v.toNat 7 0 * 2 ^ 32 < 2 ^ 40 := by
      have hlow := lo.isLt
      have hhigh : bits v.toNat 7 0 < 2 ^ 8 := bits_lt ..
      omega
    have hstarted := Dev.liftStart_started hl ((hstatus hregs (by decide)).trans hidle)
      ((hregs.flag (Reg.hasCopy_lftStatus hl) (by decide)).trans hring) hmay who.ctx_lt hpa
    have haddr : (lo.toNat + bits v.toNat 7 0 * 2 ^ 32) / 32 * 32 = lo.toNat / 32 * 32 + v.toNat % 256 * 2 ^ 32 := by
      unfold bits
      omega
    have hspace (k : Nat) : (u.ctx k).space = (d.ctx k).space := by rw [Dev.ctx, heng]; rfl
    refine ⟨_, exec_liftStart_eq who l s v, rfl, ?_⟩
    rw [State.withDev_dev, Dev.rowWrite_reaches hreach, hwrite]
    exact ⟨hstarted.state, hstarted.ownerMid, hstarted.ownerCtx, hstarted.prog, hstarted.cur.trans haddr, hstarted.stage,
      hspace _ ▸ hstarted.space, hstarted.mem.trans hmem⟩
  case fetch =>
    intro hst hstage hring hwaits r e hue hlegal
    have hbank : r.2.bankWaits (d.reg64 .LFT_CUR_LOW .LFT_CUR_HIGH l) 32 = false := ((Dev.physRead_regs ..).bankWaits (by decide) ..).trans hwaits
    rw [exec_liftDescriptorFetch_eq]
    exact next_congr (congrArg Dev.reapRuns (Dev.liftFetch_legal hst hstage hring rfl hbank hue hlegal))
  case block =>
    intro hst hstage hsrc hdst hop hlt da sa n sound hsound
    have hfill : x.op ≠ 1 ↔ x.op = 0 := by omega
    have hmoved := Dev.liftBlock_moves hl hst hstage hsrc hdst rfl hlt rfl rfl rfl (fun i hi => (hsound i hi).1)
      fun h i hi => (hsound i hi).2 (hfill.mp h)
    refine ⟨_, exec_liftBlock_eq l s, rfl, ?_⟩
    rw [State.withDev_dev]
    have hbyte (a : Nat) : (d.liftBlock l).reapRuns.byte a = (d.liftBlock l).byte a := Dev.byte_congr (Dev.reapRuns_mem _) a
    have hlift : (d.liftBlock l).reapRuns.lift l = (d.liftBlock l).lift l := Dev.lift_congr (Dev.reapRuns_lft _) l
    have hprog := (hreap (d.liftBlock l)).fld (f := .LFT_PROG_BYTES) (Reg.hasCopy_lftProg hl) (by decide)
    have hcur : (d.liftBlock l).reapRuns.reg64 .LFT_CUR_LOW .LFT_CUR_HIGH l = (d.liftBlock l).reg64 .LFT_CUR_LOW .LFT_CUR_HIGH l := by
      rw [Dev.reg64, (hreap _).reg _ _ _ _ (Reg.hasCopy_lftCurLow hl) (by decide), (hreap _).reg _ _ _ _ (Reg.hasCopy_lftCurHigh hl) (by decide),
        Dev.reg64]
    refine ⟨fun a ha => (hbyte a).trans (hmoved.outside a ha), fun i hi => ?_, ?_, ?_, ?_⟩
    · rw [hbyte, hmoved.inside i hi]
      by_cases h : x.op = 0
      · rw [if_pos h, if_neg (hfill.mpr h)]
      · rw [if_neg h, if_pos (Decidable.not_not.mp (mt hfill.mp h))]
    · rw [hprog, hlift]
      exact hmoved.more
    · rw [hlift]
      exact hmoved.last
    · rw [hprog, hlift, hcur]
      exact hmoved.next
  case done =>
    intro hst hstage
    obtain ⟨hidle, hcount, hmem⟩ := Dev.liftDone_idle hl hst hstage
    refine ⟨_, exec_liftChainDone_eq l s, rfl, (hstatus (hreap _) (by decide)).trans hidle, ?_, (Dev.reapRuns_mem _).trans hmem⟩
    exact ((hreap _).reg _ _ _ _ Reg.hasCopy_lftDoneCnt (by decide)).trans hcount
  case resume =>
    intro hst
    obtain ⟨u, hwrite, hregs, hmem, -, hmaster⟩ := Dev.rowWrite_liftCtrl hl hreach hmaster 1
    obtain ⟨hruns, hfetch, hmem'⟩ := Dev.liftResume_runs u l
    refine ⟨_, exec_liftResume_eq who l s, rfl, ?_⟩
    rw [State.withDev_dev, hwrite, Dev.liftCtrl_resume hmaster ((hstatus hregs (by decide)).trans hst)]
    rw [Dev.lift_congr (Dev.reapRuns_lft _)]
    exact ⟨(hstatus (hreap _) (by decide)).trans hruns, hfetch, (Dev.reapRuns_mem _).trans (hmem'.trans hmem)⟩
  case abort =>
    intro hst
    obtain ⟨u, hwrite, hregs, hmem, -, hmaster⟩ := Dev.rowWrite_liftCtrl hl hreach hmaster 2
    have hfaulted := (hstatus hregs (by decide)).trans hst
    have hcount := hregs.reg _ _ _ _ Reg.hasCopy_lftAbortCnt (by decide)
    refine ⟨_, exec_liftAbort_eq who l s, rfl, ?_⟩
    rw [State.withDev_dev, hwrite, Dev.liftCtrl_abort hmaster (Dev.liftAbortable_iff.mpr (.inl hfaulted)), Dev.liftAbort_faulted hfaulted]
    refine ⟨(hstatus (hreap _) (by decide)).trans (Dev.liftStopped_state hl u), ?_, ?_⟩
    · rw [(hreap _).reg _ _ _ _ Reg.hasCopy_lftAbortCnt (by decide), Dev.liftStopped_counts hl, hcount]
    · rw [Dev.reapRuns_mem, Dev.liftStopped, Dev.liftSettled_mem]
      exact hmem
  case stop =>
    intro hst hstage
    obtain ⟨u, hwrite, hregs, hmem, hlift, hmaster⟩ := Dev.rowWrite_liftCtrl hl hreach hmaster 2
    have hruns := (hstatus hregs (by decide)).trans hst
    refine ⟨_, exec_liftAbort_eq who l s, rfl, ?_⟩
    rw [State.withDev_dev, hwrite, Dev.liftCtrl_abort hmaster (Dev.liftAbortable_iff.mpr (.inr ⟨hruns, hlift ▸ hstage⟩)), Dev.liftAbort_running hruns]
    refine ⟨(hstatus (hreap _) (by decide)).trans ?_, (Dev.reapRuns_mem _).trans hmem⟩
    exact Dev.fld_setFld_same u .LFT_STATUS_STATE (by decide) (by decide) liftStopping l 0 0

end Sys2Proof.Machine
end

section
/-! A granted access to one word of shared memory, and a scrub read (O45, R158 to R163, R186). Both first move the bank's pointer past the port and bring
to light the errors that have struck the word (`Dev.struck`); then follows what the error of the word lets them do. -/

namespace Sys2Proof.Machine

namespace Dev
variable {s t : Dev} {p a : Nat}

/-! ### The word that is granted -/

theorem conflicts_mem (s : Dev) (mask : Nat) : (s.conflicts mask).mem = s.mem :=
  each_same (g := Dev.mem) (f := fun q s => s.count .SMF_CONF_CNT q) (fun _ _ _ => rfl) s

theorem conflicts_smf (s : Dev) (mask : Nat) : (s.conflicts mask).smf = s.smf :=
  each_same (g := Dev.smf) (f := fun q s => s.count .SMF_CONF_CNT q) (fun _ _ _ => rfl) s

theorem conflicts_errOf (s : Dev) (mask k : Nat) : (s.conflicts mask).errOf k = s.errOf k := errOf_congr (by rw [conflicts_smf]) k

theorem grantPass_passed (s : Dev) (b p : Nat) : Passed b p (s.grantPass b p) := by
  intro hp
  rw [Dev.grantPass, if_neg (Nat.not_le.mpr hp)]
  exact Tab.get_set_same ..

/-- The pointer of the word's bank moves. -/
theorem WordAccess.grantPass (s : Dev) (p a : Nat) : WordAccess p a s (s.grantPass (bankOf a) p) := by
  have hpassed := grantPass_passed s (bankOf a) p
  unfold Dev.grantPass at *
  split
  · exact .refl s
  · next hp =>
    rw [if_neg hp] at hpassed
    exact ⟨.of_regs rfl, rfl, fun _ _ => rfl, fun _ _ => rfl, fun _ => hpassed⟩

theorem WordAccess.granted (s : Dev) (mid a : Nat) : WordAccess ((portOf mid (bankOf a)).getD 15) a s (s.granted mid (bankOf a)) :=
  (WordAccess.grantPass s _ a).trans ⟨.of_regs rfl, rfl, fun _ _ => rfl, fun _ _ => rfl, id⟩

theorem WordAccess.strike (ha : a % 8 = 0) (s : Dev) (n : Nat) : WordAccess p a s (s.strike a n) := by
  unfold Dev.strike
  split
  · exact .refl s
  split
  · exact .setErr s _
  · have hfresh : WordAccess p a s s.fresh.2 := ⟨.of_regs rfl, rfl, fun _ _ => rfl, fun _ _ => rfl, id⟩
    exact (hfresh.trans (.setBytes rfl (by rw [leBytes_length]; omega) _)).trans (.setErr _ _)

/-- The error of a word after one or two bits, or none, have been struck. -/
theorem strike_errOf {n : Nat} (hn : n < 3) (s : Dev) (a : Nat) :
    (s.strike a n).errOf a = if n = 0 then s.errOf a else min 2 (max (s.errOf a) n) := by
  unfold Dev.strike
  rw [if_pos hn]
  split
  · rfl
  · exact errOf_setErr_same ..

theorem strike_mem {n : Nat} (hn : n < 3) (s : Dev) (a : Nat) : (s.strike a n).mem = s.mem := by
  unfold Dev.strike
  rw [if_pos hn]
  split <;> rfl

/-- The device in which a bank has chosen the port, the errors that struck the word have come to light, and the ports of a mask have waited. -/
def struck (p a upset mask : Nat) (s : Dev) : Dev := ((s.grantPass (bankOf a) p).strike a upset).conflicts mask

theorem struck_access (ha : a % 8 = 0) (s : Dev) (p upset mask : Nat) : WordAccess p a s (s.struck p a upset mask) :=
  ((WordAccess.grantPass s p a).trans (.strike ha _ upset)).trans (.conflicts _ mask)

theorem struck_passed (ha : a % 8 = 0) (s : Dev) (p upset mask : Nat) : Passed (bankOf a) p (s.struck p a upset mask) :=
  ((WordAccess.strike ha _ upset).trans (.conflicts _ mask)).turn (grantPass_passed s (bankOf a) p)

section
variable {upset : Nat} (hupset : upset < 3) (s : Dev) (p a mask : Nat)
include hupset

theorem struck_errOf : (s.struck p a upset mask).errOf a = if upset = 0 then s.errOf a else min 2 (max (s.errOf a) upset) := by
  have hpass : (s.grantPass (bankOf a) p).errOf a = s.errOf a := by
    unfold Dev.grantPass
    split <;> rfl
  rw [Dev.struck, conflicts_errOf, strike_errOf hupset, hpass]

theorem struck_mem : (s.struck p a upset mask).mem = s.mem := by
  have hpass : (s.grantPass (bankOf a) p).mem = s.mem := by
    unfold Dev.grantPass
    split <;> rfl
  rw [Dev.struck, conflicts_mem, strike_mem hupset, hpass]

end

theorem WordAccess.bankServes (h : WordAccess p a s t) {b : Nat} (hb : b < 256) : t.bankServes b = s.bankServes b :=
  bankServes_congr (h.regs.reg _ _ _ _ (hasCopy_bankStat hb) (by decide)) h.grm

/-! ### Reads -/

/-- One struck bit is corrected on the way, and in the word where SMF_CFG says so. -/
theorem wordRead_corrected (hb : s.bankServes (bankOf a) = true) (he : s.errOf a = 1) (mid n : Nat) : s.wordRead mid a n =
    let u := (s.granted mid (bankOf a)).count .SMF_CE_CNT
    (⟨s.bytes a n, false⟩, if u.flag .SMF_CFG_CE_WB then u.setErr a 0 else u) := by
  have hgranted := ((granted_noError s mid (bankOf a)).err a).trans he
  have hbytes : ((s.granted mid (bankOf a)).count .SMF_CE_CNT).bytes a n = s.bytes a n := bytes_congr ((count_mem ..).trans (granted_mem ..)) ..
  simp [Dev.wordRead, hb, hgranted, hbytes]

theorem wordRead_uncorrectable (hb : s.bankServes (bankOf a) = true) (he : s.errOf a = 2) (mid n : Nat) :
    s.wordRead mid a n = (⟨s.bytes a n, true⟩, (s.granted mid (bankOf a)).meetUe a mid 0) := by
  have hgranted := ((granted_noError s mid (bankOf a)).err a).trans he
  have hbytes : (s.granted mid (bankOf a)).bytes a n = s.bytes a n := bytes_congr (granted_mem ..) ..
  simp [Dev.wordRead, hb, hgranted, hbytes]

theorem setErr_byte (s : Dev) (a e k : Nat) : (s.setErr a e).byte k = s.byte k := rfl

theorem meetUe_errOf (s : Dev) (k mid kind x : Nat) : (s.meetUe k mid kind).errOf x = s.errOf x := by
  unfold Dev.meetUe Dev.latchUe
  split <;> exact errOf_congr (by simp) x

/-- What a read of a word gives and leaves, by the error that the word holds. -/
theorem wordRead_word (hb : s.bankServes (bankOf a) = true) (he : s.errOf a ≤ 2) (mid n : Nat) :
    (s.wordRead mid a n).1 = ⟨s.bytes a n, decide (s.errOf a = 2)⟩ ∧
      (s.wordRead mid a n).2.errOf a = (if s.errOf a = 1 ∧ s.flag .SMF_CFG_CE_WB = true then 0 else s.errOf a) := by
  have hgerr := (granted_noError s mid (bankOf a)).err a
  have hce : Reg.SMF_CE_CNT.HasCopy 0 0 0 := ⟨by decide, by decide, by decide⟩
  have hcfg : Reg.SMF_CFG.HasCopy 0 0 0 := ⟨by decide, by decide, by decide⟩
  obtain he | he | he : s.errOf a = 0 ∨ s.errOf a = 1 ∨ s.errOf a = 2 := by omega
  · rw [wordRead_sound hb he, he]
    exact ⟨rfl, hgerr.trans he⟩
  · have hcount : RegsBut [.SMF_CE_CNT] s ((s.granted mid (bankOf a)).count .SMF_CE_CNT) := .count (.of_regs (granted_regs ..)) hce (by decide)
    have herr : ((s.granted mid (bankOf a)).count .SMF_CE_CNT).errOf a = s.errOf a := hgerr
    rw [wordRead_corrected hb he, ← hcount.flag hcfg (by decide)]
    generalize (s.granted mid (bankOf a)).count .SMF_CE_CNT = u at *
    refine ⟨by rw [he]; rfl, ?_⟩
    dsimp only
    split
    · next h => rw [errOf_setErr_same, if_pos ⟨he, h⟩]
    · next h => rw [if_neg (fun hand => h hand.2), herr]
  · rw [wordRead_uncorrectable hb he, he]
    exact ⟨rfl, (meetUe_errOf ..).trans (hgerr.trans he)⟩

/-- The reader is told what it has read. -/
def told (q : RdRes) (crowd : Bool) (s : Dev) : Dev := { s with smf := { s.smf with rdata := leVal q.data, rerr := q.ue, crowd := crowd } }

theorem told_errOf (q : RdRes) (crowd : Bool) (s : Dev) (k : Nat) : (s.told q crowd).errOf k = s.errOf k := errOf_congr rfl k

theorem told_access (q : RdRes) (crowd : Bool) (s : Dev) : WordAccess p a s (s.told q crowd) :=
  ⟨.of_regs rfl, rfl, fun _ _ => rfl, fun k _ => told_errOf q crowd s k, id⟩

/-- A granted read: the reader is told the word, and a write-back lets ports wait once more. -/
def readGranted (mid a waits2 : Nat) (again : Bool) (s : Dev) : Dev :=
  ((s.wordRead mid a 8).2.told (s.wordRead mid a 8).1 s.smf.crowd).when again fun s => s.conflicts waits2

/-- What a granted read gives and leaves. -/
theorem readGranted_word (hb : s.bankServes (bankOf a) = true) (he : s.errOf a ≤ 2) (mid waits2 : Nat) (again : Bool) :
    let t := s.readGranted mid a waits2 again
    t.mem = s.mem ∧ t.smf.rdata = s.load a 8 ∧ t.smf.rerr = decide (s.errOf a = 2) ∧
      t.errOf a = (if s.errOf a = 1 ∧ s.flag .SMF_CFG_CE_WB = true then 0 else s.errOf a) := by
  obtain ⟨hdata, herr⟩ := wordRead_word hb he mid 8
  have hmem := (s.wordRead_frame mid a 8).2
  have htold := told_errOf (s.wordRead mid a 8).1 s.smf.crowd (s.wordRead mid a 8).2 a
  have hagain (u : Dev) : (u.when again fun s => s.conflicts waits2).mem = u.mem ∧ (u.when again fun s => s.conflicts waits2).smf = u.smf := by
    cases again
    · exact ⟨rfl, rfl⟩
    · exact ⟨conflicts_mem .., conflicts_smf ..⟩
  obtain ⟨hmemAgain, hsmfAgain⟩ := hagain ((s.wordRead mid a 8).2.told (s.wordRead mid a 8).1 s.smf.crowd)
  intro t
  refine ⟨hmemAgain.trans hmem, ?_, ?_, (errOf_congr (congrArg SmfSt.errs hsmfAgain) a).trans (htold.trans herr)⟩
  · exact (congrArg SmfSt.rdata hsmfAgain).trans (congrArg (fun r : RdRes => leVal r.data) hdata)
  · exact (congrArg SmfSt.rerr hsmfAgain).trans (congrArg RdRes.ue hdata)

theorem wordRead_access (hb : s.bankServes (bankOf a) = true) (mid n : Nat) :
    WordAccess ((portOf mid (bankOf a)).getD 15) a s (s.wordRead mid a n).2 := by
  have hg := WordAccess.granted s mid a
  have hce : Reg.SMF_CE_CNT.HasCopy 0 0 0 := ⟨by decide, by decide, by decide⟩
  simp only [Dev.wordRead, hb, Bool.not_true, Bool.false_eq_true, if_false]
  generalize s.granted mid (bankOf a) = u at hg
  split
  · exact hg
  · dsimp only
    split
    · exact (hg.trans (.count hce (by decide) u)).trans (.setErr _ 0)
    · exact hg.trans (.count hce (by decide) u)
  · exact hg.trans (.meetUe u a mid 0)

theorem readGranted_access (hb : s.bankServes (bankOf a) = true) (mid waits2 : Nat) (again : Bool) :
    WordAccess ((portOf mid (bankOf a)).getD 15) a s (s.readGranted mid a waits2 again) := by
  exact when_keeps (fun u hu => hu.trans (.conflicts u waits2)) _ ((wordRead_access hb mid 8).trans (told_access ..))

/-! ### Writes -/

theorem WordAccess.wordWrite (ha : a % 8 = 0) {b : List Byte} (hlen : b.length ≤ 8) (hb : s.bankServes (bankOf a) = true) (mid : Nat) :
    WordAccess ((portOf mid (bankOf a)).getD 15) a s (s.wordWrite mid a b) := by
  have hg := WordAccess.granted s mid a
  have hce : Reg.SMF_CE_CNT.HasCopy 0 0 0 := ⟨by decide, by decide, by decide⟩
  have hfits : a % 8 + b.length ≤ 8 := by omega
  simp only [Dev.wordWrite, hb, Bool.not_true, Bool.false_eq_true, if_false]
  generalize s.granted mid (bankOf a) = u at hg
  split
  · exact hg.trans ((WordAccess.setBytes rfl hfits u).trans ((WordAccess.setErr _ 0).trans (.markDirty _ a)))
  split
  · exact hg.trans ((WordAccess.setBytes rfl hfits u).trans (.markDirty _ a))
  · exact hg.trans ((WordAccess.count hce (by decide) u).trans ((WordAccess.setBytes rfl hfits _).trans ((WordAccess.setErr _ 0).trans (.markDirty _ a))))
  · exact hg.trans (.meetUe u a mid 1)

/-- A write of a whole word needs no sound word before it. -/
theorem wordWrite_whole (hb : s.bankServes (bankOf a) = true) (ha : a % 8 = 0) {b : List Byte} (hlen : b.length = 8) (mid : Nat) :
    (s.wordWrite mid a b).errOf a = 0 ∧ ∀ i < 8, (s.wordWrite mid a b).byte (a + i) = b.getD i 0#8 := by
  simp only [Dev.wordWrite, hb, Bool.not_true, Bool.false_eq_true, if_false, hlen, ha, and_self, if_true]
  generalize s.granted mid (bankOf a) = u
  refine ⟨(markDirty_errOf ..).trans (errOf_setErr_same ..), fun i hi => ?_⟩
  rw [markDirty_byte, setErr_byte, byte_setBytes (hlen ▸ hi)]

theorem getD_maskedWrite {i : Nat} (hi : i < 8) (m : Nat) (old new : List Byte) :
    (maskedWrite m old new).getD i 0#8 = if bit m i then new.getD i 0#8 else old.getD i 0#8 := by
  simp [maskedWrite, hi]

theorem maskedWrite_length (m : Nat) (old new : List Byte) : (maskedWrite m old new).length = 8 := by simp [maskedWrite]

/-- A granted write of some bytes of a word: a read-modify-write, in whose second clock ports wait once more. -/
def partGranted (mid a m v waits2 : Nat) (s : Dev) : Dev :=
  let s := s.conflicts waits2
  match s.errOf a with
  | 0 => (s.setBytes a (maskedWrite m (s.bytes a 8) (leBytes 8 v))).markDirty a
  | 1 => (((s.count .SMF_CE_CNT).setBytes a (maskedWrite m (s.bytes a 8) (leBytes 8 v))).setErr a 0).markDirty a
  | _ => s.meetUe a mid 1

theorem partGranted_access (ha : a % 8 = 0) (s : Dev) (mid m v waits2 : Nat) : WordAccess p a s (s.partGranted mid a m v waits2) := by
  have hce : Reg.SMF_CE_CNT.HasCopy 0 0 0 := ⟨by decide, by decide, by decide⟩
  have hwait : WordAccess p a s (s.conflicts waits2) := .conflicts s waits2
  unfold Dev.partGranted
  generalize s.conflicts waits2 = u at hwait
  have hset (d : Dev) : WordAccess p a d (d.setBytes a (maskedWrite m (u.bytes a 8) (leBytes 8 v))) :=
    .setBytes rfl (by rw [maskedWrite_length]; omega) d
  dsimp only
  split
  · exact hwait.trans ((hset u).trans (.markDirty _ a))
  · exact hwait.trans ((WordAccess.count hce (by decide) u).trans ((hset _).trans ((WordAccess.setErr _ 0).trans (.markDirty _ a))))
  · exact hwait.trans (.meetUe u a mid 1)

/-- A sound or correctable word takes the bytes of the mask and keeps the others. -/
theorem partGranted_word (he : s.errOf a < 2) (mid m v waits2 : Nat) :
    (s.partGranted mid a m v waits2).errOf a = 0 ∧ ∀ i < 8, (s.partGranted mid a m v waits2).byte (a + i) =
      if bit m i then (leBytes 8 v).getD i 0#8 else s.byte (a + i) := by
  have hold : (s.conflicts waits2).bytes a 8 = s.bytes a 8 := bytes_congr (conflicts_mem ..) ..
  have herr := conflicts_errOf s waits2 a
  unfold Dev.partGranted
  generalize s.conflicts waits2 = u at *
  have hbyte (d : Dev) {i : Nat} (hi : i < 8) : (d.setBytes a (maskedWrite m (u.bytes a 8) (leBytes 8 v))).byte (a + i) =
      if bit m i then (leBytes 8 v).getD i 0#8 else s.byte (a + i) := by
    rw [byte_setBytes (by rw [maskedWrite_length]; exact hi), getD_maskedWrite hi, hold, getD_bytes hi]
  dsimp only
  obtain he | he : s.errOf a = 0 ∨ s.errOf a = 1 := by omega
  · simp only [herr, he]
    exact ⟨(markDirty_errOf ..).trans ((setBytes_errOf ..).trans (herr.trans he)), fun i hi => (markDirty_byte ..).trans (hbyte u hi)⟩
  · simp only [herr, he]
    refine ⟨(markDirty_errOf ..).trans (errOf_setErr_same ..), fun i hi => ?_⟩
    rw [markDirty_byte, setErr_byte, hbyte _ hi]

/-- A word with an uncorrectable error keeps it, and its bytes. -/
theorem partGranted_uncorrectable (he : s.errOf a = 2) (mid m v waits2 : Nat) :
    (s.partGranted mid a m v waits2).errOf a = 2 ∧ (s.partGranted mid a m v waits2).mem = s.mem := by
  have herr := (conflicts_errOf s waits2 a).trans he
  have hmem := conflicts_mem s waits2
  unfold Dev.partGranted
  generalize s.conflicts waits2 = u at *
  simp only [herr]
  exact ⟨(meetUe_errOf ..).trans herr, (meetUe_mem ..).trans hmem⟩

/-! ### BANK_GRANT -/

/-- The device with the note of whether ports wait. -/
def crowded (crowd : Bool) (s : Dev) : Dev := { s with smf := { s.smf with crowd := crowd } }

theorem crowded_errOf (crowd : Bool) (s : Dev) (k : Nat) : (s.crowded crowd).errOf k = s.errOf k := errOf_congr rfl k

theorem crowded_byte (crowd : Bool) (s : Dev) (k : Nat) : (s.crowded crowd).byte k = s.byte k := byte_congr rfl k

theorem crowded_access (crowd : Bool) (s : Dev) : WordAccess p a s (s.crowded crowd) :=
  ⟨.of_regs rfl, rfl, fun k _ => crowded_byte crowd s k, fun k _ => crowded_errOf crowd s k, id⟩

section
variable {mid w waits : Nat} (hw : s.bankWaits (w * 8) 8 = false) (hb : s.bankServes (bankOf (w * 8)) = true)
  (hturn : s.grantTurn (bankOf (w * 8)) ((portOf mid (bankOf (w * 8))).getD 15) waits = true)
include hw hb hturn

theorem bankGrant_read (upset told waits2 : Nat) : ∃ mask again, s.bankGrant mid w .read upset waits told waits2 =
    (s.struck ((portOf mid (bankOf (w * 8))).getD 15) (w * 8) upset mask).readGranted mid (w * 8) waits2 again := by
  simp only [Dev.bankGrant, hw, hb, hturn, Bool.not_true, Bool.false_eq_true, if_false]
  exact ⟨_, _, rfl⟩

theorem bankGrant_whole (v : BitVec 64) (upset told waits2 : Nat) : ∃ mask, s.bankGrant mid w (.write 255#8 v) upset waits told waits2 =
    let t := s.struck ((portOf mid (bankOf (w * 8))).getD 15) (w * 8) upset mask
    (t.wordWrite mid (w * 8) (leBytes 8 v.toNat)).crowded t.smf.crowd := by
  simp only [Dev.bankGrant, hw, hb, hturn, Bool.not_true, Bool.false_eq_true, if_false, if_true]
  exact ⟨_, rfl⟩

theorem bankGrant_part {m : BitVec 8} (hm : m ≠ 255#8) (v : BitVec 64) (upset told waits2 : Nat) :
    ∃ mask, s.bankGrant mid w (.write m v) upset waits told waits2 =
      (s.struck ((portOf mid (bankOf (w * 8))).getD 15) (w * 8) upset mask).partGranted mid (w * 8) m.toNat v.toNat waits2 := by
  simp only [Dev.bankGrant, hw, hb, hturn, Bool.not_true, Bool.false_eq_true, if_false, if_neg hm]
  exact ⟨_, rfl⟩

end

/-- Beside its own word a granted access leaves every word, and the bank's pointer moves past its port. -/
theorem bankGrant_access {mid w waits : Nat} (hlt : w < 2 ^ 24) (hw : s.bankWaits (w * 8) 8 = false)
    (hb : s.bankServes (bankOf (w * 8)) = true) (hturn : s.grantTurn (bankOf (w * 8)) ((portOf mid (bankOf (w * 8))).getD 15) waits = true)
    (op : BankOp) (upset told waits2 : Nat) : let p := (portOf mid (bankOf (w * 8))).getD 15
    WordAccess p (w * 8) s (s.bankGrant mid w op upset waits told waits2) ∧
      Passed (bankOf (w * 8)) p (s.bankGrant mid w op upset waits told waits2) := by
  intro p
  have ha : w * 8 % 8 = 0 := Nat.mul_mod_left ..
  have hfrom (mask : Nat) {e : Dev} (he : WordAccess p (w * 8) (s.struck p (w * 8) upset mask) e) :
      WordAccess p (w * 8) s e ∧ Passed (bankOf (w * 8)) p e :=
    ⟨(struck_access ha s p upset mask).trans he, he.turn (struck_passed ha s p upset mask)⟩
  have hserves (mask : Nat) : (s.struck p (w * 8) upset mask).bankServes (bankOf (w * 8)) = true := by
    rw [(struck_access ha s p upset mask).bankServes (bankOf_lt (by omega)), hb]
  cases op with
  | read =>
    obtain ⟨mask, again, heq⟩ := bankGrant_read hw hb hturn upset told waits2
    rw [heq]
    exact hfrom mask (readGranted_access (hserves mask) mid waits2 again)
  | write m v =>
    by_cases hm : m = 255#8
    · obtain ⟨mask, heq⟩ := bankGrant_whole hw hb hturn v upset told waits2
      rw [hm, heq]
      have hwrite := WordAccess.wordWrite ha (b := leBytes 8 v.toNat) (Nat.le_of_eq (leBytes_length ..)) (hserves mask) mid
      exact hfrom mask (hwrite.trans (crowded_access ..))
    · obtain ⟨mask, heq⟩ := bankGrant_part hw hb hturn hm v upset told waits2
      rw [heq]
      exact hfrom mask (partGranted_access ha _ mid m.toNat v.toNat waits2)

/-! ### SCRUB_READ -/

/-- What the Groomer does with the word that a scrub read gives it. -/
def scrubbed (a waits2 : Nat) (s : Dev) : Dev :=
  match s.errOf a with
  | 0 => s
  | 1 => (((s.count .SMF_CE_CNT).count .GRM_SCRUB_CE_CNT).setErr a 0).conflicts waits2
  | _ => (s.meetUe a 0x42 2).count .GRM_SCRUB_UE_CNT

theorem scrubbed_access (s : Dev) (a waits2 : Nat) : WordAccess p a s (s.scrubbed a waits2) ∧ (s.scrubbed a waits2).mem = s.mem := by
  have hce : Reg.SMF_CE_CNT.HasCopy 0 0 0 := ⟨by decide, by decide, by decide⟩
  have hsce : Reg.GRM_SCRUB_CE_CNT.HasCopy 0 0 0 := ⟨by decide, by decide, by decide⟩
  have hsue : Reg.GRM_SCRUB_UE_CNT.HasCopy 0 0 0 := ⟨by decide, by decide, by decide⟩
  unfold Dev.scrubbed
  split
  · exact ⟨.refl s, rfl⟩
  · refine ⟨(WordAccess.count hce (by decide) s).trans ((WordAccess.count hsce (by decide) _).trans ((WordAccess.setErr _ 0).trans (.conflicts _ waits2))), ?_⟩
    exact (conflicts_mem ..).trans rfl
  · exact ⟨(WordAccess.meetUe s a 0x42 2).trans (.count hsue (by decide) _), (count_mem ..).trans (meetUe_mem ..)⟩

/-- The Groomer leaves no single-bit error. -/
theorem scrubbed_errOf (h : s.errOf a < 2) (waits2 : Nat) : (s.scrubbed a waits2).errOf a = 0 := by
  obtain he | he : s.errOf a = 0 ∨ s.errOf a = 1 := by omega
  · simp only [Dev.scrubbed, he]
  · simp only [Dev.scrubbed, he]
    rw [conflicts_errOf, errOf_setErr_same]

theorem scrubRead_eq {w b waits : Nat} (hen : s.flag .GRM_SCRUB_CFG_EN = true) (hidle : s.flag .GRM_STATUS_BUSY = false)
    (hb : s.fld .GRM_SCRUB_POS_BANK = b) (hw : s.fld .GRM_SCRUB_POS_WORD = w) (hlt : w < 65535) (hon : s.bankState b = 1)
    (hturn : s.grantTurn b 14 waits = true) (upset told waits2 : Nat) : ∃ mask, s.scrubRead upset waits told waits2 =
      ((s.struck 14 (b * 0x80000 + w * 8) upset mask).scrubbed (b * 0x80000 + w * 8) waits2).setFld .GRM_SCRUB_POS_WORD (w + 1) := by
  have hblt : b < 256 := hb ▸ bits_lt _ 23 16
  have hnext : (s.nextOn 256).isNone = false := by
    have hnone : ((List.range 256).find? fun k => 256 < k && s.bankState k == 1) = none := by
      rw [List.find?_eq_none]
      intro k hk
      have := List.mem_range.mp hk
      simp only [Bool.and_eq_true, decide_eq_true_eq, not_and]
      omega
    have hsome : ((List.range 256).find? fun k => s.bankState k == 1).isSome = true := by
      rw [List.find?_isSome]
      exact ⟨b, List.mem_range.mpr hblt, by simp [hon]⟩
    simp only [Dev.nextOn, hnone, Option.isNone_map]
    rw [← Option.not_isSome, hsome]
    rfl
  have hbank : bankOf (b * 0x80000 + w * 8) = b := by
    unfold bankOf
    omega
  simp only [Dev.scrubRead, hen, hidle, hnext, hb, hw, hon, hturn, Bool.not_true, Bool.or_self, Bool.false_eq_true, if_false, if_true,
    if_neg (Nat.ne_of_lt hlt)]
  refine ⟨othersOf 14 waits &&& (2 ^ 15 - 1 - told % 2 ^ 15), ?_⟩
  rw [Dev.struck, hbank]
  rfl

end Dev

end Sys2Proof.Machine
end

section
/-! The power states of a bank and the commands of the Groomer (O45, R164, R179 to R185, R530). -/

namespace Sys2Proof.Machine

theorem Reg.hasCopy_grmBank {b : Nat} (h : b < 256) : Reg.GRM_BANK.HasCopy b 0 0 := ⟨h, by decide, by decide⟩
theorem Reg.hasCopy_grmStatus : Reg.GRM_STATUS.HasCopy 0 0 0 := ⟨by decide, by decide, by decide⟩
theorem Reg.hasCopy_partMap {b : Nat} (h : b < 256) : Reg.SMF_PART_MAP.HasCopy (b / 8) 0 0 := ⟨show b / 8 < 32 by omega, by decide, by decide⟩

/-! ### Bank power -/

theorem bankChange_of_mem {m n k : Nat} (h : ((m, n), k) ∈ [((1, 2), 3), ((2, 1), 4), ((1, 0), 5), ((2, 0), 5), ((0, 1), 6)]) :
    bankChange m n = some k := by
  simp only [List.mem_cons, List.not_mem_nil, or_false, Prod.mk.injEq] at h
  rcases h with ⟨⟨rfl, rfl⟩, rfl⟩ | ⟨⟨rfl, rfl⟩, rfl⟩ | ⟨⟨rfl, rfl⟩, rfl⟩ | ⟨⟨rfl, rfl⟩, rfl⟩ | ⟨⟨rfl, rfl⟩, rfl⟩ <;> rfl

/-- A change goes to one of three states. -/
theorem bankChange_named {m n k : Nat} (h : bankChange m n = some k) : n ≠ 3 := by
  rintro rfl
  unfold bankChange at h
  split at h <;> simp_all

theorem bankChange_eq_none {m n : Nat} (h : (m, n) ∉ [(1, 2), (2, 1), (1, 0), (2, 0), (0, 1)]) : bankChange m n = none := by
  unfold bankChange
  split
  case h_6 => rfl
  all_goals exact absurd (by decide) h

namespace Dev
variable {s t : Dev} {b k v : Nat}

theorem bankRequest_change {n : Nat} (h : bankChange (s.bankState b) n = some k) : s.bankRequest b n = s.setBankState b k := by
  rw [Dev.bankRequest, h]

theorem bankRequest_refused {n : Nat} (h : bankChange (s.bankState b) n = none) : s.bankRequest b n = s.count .PWR_REFUSE_CNT := by
  rw [Dev.bankRequest, h]

/-- A write that names one of the three states follows the field rules and requests it; the request sees the bank as it was. -/
theorem rowWrite_bankReq {who : Agent} (h : s.reaches who .PWR_BANK_REQ 0 0 true) (hv : bits v 9 8 ≠ 3) :
    s.rowWrite who .PWR_BANK_REQ v = (s.plain .PWR_BANK_REQ v).bankRequest (bits v 7 0) (bits v 9 8) ∧
      (s.plain .PWR_BANK_REQ v).bankState (bits v 7 0) = s.bankState (bits v 7 0) := by
  have hreq : Reg.PWR_BANK_REQ.HasCopy 0 0 0 := ⟨by decide, by decide, by decide⟩
  have hmisuse : Reg.PWR_MISUSE_CNT.HasCopy 0 0 0 := ⟨by decide, by decide, by decide⟩
  have hplain : RegsBut [.PWR_BANK_REQ, .PWR_MISUSE_CNT] s (s.plain .PWR_BANK_REQ v) := .plain (.refl s) hreq hmisuse (by decide) (by decide)
  have hstore : s.bankReqWrite v = (s.plain .PWR_BANK_REQ v).bankRequest (bits v 7 0) (bits v 9 8) := by
    simp only [Dev.bankReqWrite, beq_eq_false_iff_ne.mpr hv, Bool.and_false, if_neg hv, Dev.plain]
  rw [rowWrite_reaches h, copyStore_single _ rfl]
  exact ⟨hstore, hplain.bankState (by decide) (bits_lt _ 7 0)⟩

/-- Each of the four changes ends in its state, with the contents where they were kept. -/
theorem bankDone_of_mem (h : (s.bankState b, k) ∈ [(3, 2), (4, 1), (5, 0), (6, 1)]) :
    s.bankDone b = (if s.bankState b < 5 then s else s.zeroBank b).setBankState b k := by
  simp only [List.mem_cons, List.not_mem_nil, or_false, Prod.mk.injEq] at h
  rcases h with ⟨h, rfl⟩ | ⟨h, rfl⟩ | ⟨h, rfl⟩ | ⟨h, rfl⟩ <;> simp [Dev.bankDone, h]

/-! ### The registers of a bank -/

theorem bankState_setBankState (s : Dev) (b k : Nat) : (s.setBankState b k).bankState b = k % 16 := by
  have hlt : b % 8 * 4 + 3 < 32 := by omega
  have hwidth : b % 8 * 4 + 3 + 1 - b % 8 * 4 = 4 := by omega
  rw [Dev.bankState, Dev.setBankState, reg_setReg_same, Nat.mod_eq_of_lt (putBits_lt (by omega) hlt (s.reg_lt ..) k), bits_putBits (by omega), hwidth]
  rfl

theorem partOf_setPart (s : Dev) (b k : Nat) : (s.setPart b k).partOf b = k % 16 := by
  have hlt : b % 8 * 4 + 3 < 32 := by omega
  have hwidth : b % 8 * 4 + 3 + 1 - b % 8 * 4 = 4 := by omega
  rw [Dev.partOf, Dev.setPart, reg_setReg_same, Nat.mod_eq_of_lt (putBits_lt (by omega) hlt (s.reg_lt ..) k), bits_putBits (by omega), hwidth]
  rfl

theorem RegsBut.partOf {l : List Reg} (h : RegsBut l s t) (hl : Reg.SMF_PART_MAP ∉ l) (hb : b < 256) : t.partOf b = s.partOf b :=
  congrArg (bits · _ _) (h.reg _ _ _ _ (Reg.hasCopy_partMap hb) hl)

theorem RegsBut.setBankState {l : List Reg} (h : RegsBut l s t) (hb : b < 256) (hl : Reg.SMF_BANK_STAT ∈ l) : RegsBut l s (t.setBankState b k) :=
  h.setReg (hasCopy_bankStat hb) hl

theorem zeroBank_regs (s : Dev) (b : Nat) : (s.zeroBank b).regs = s.regs := rfl

/-! ### GRM_CMD -/

/-- A test has started: GRM_STATUS shows its bank, which is in state 7. -/
def testing (g : GrmCmd) (b : Nat) (s : Dev) : Dev :=
  { (((s.setFlag .GRM_STATUS_BUSY true).setFld .GRM_STATUS_BANK b).setFld .GRM_STATUS_ROW 0).setBankState b 7 with grm := g }

theorem testing_shown (hb : b < 256) (g : GrmCmd) (s : Dev) : (s.testing g b).bankState b = 7 ∧ (s.testing g b).flag .GRM_STATUS_BUSY = true ∧
    (s.testing g b).fld .GRM_STATUS_BANK = b ∧ (s.testing g b).mem = s.mem := by
  have hstatus (f : Fld) (hf : f.reg = .GRM_STATUS) (hrow : f.hi < 16 ∨ 25 < f.lo) : (s.testing g b).fld f =
      ((s.setFlag .GRM_STATUS_BUSY true).setFld .GRM_STATUS_BANK b).fld f := by
    have hrest (u : Dev) : RegsBut [.SMF_BANK_STAT] u { u.setBankState b 7 with grm := g } :=
      ((RegsBut.refl u).setBankState hb (by decide)).trans (.of_regs rfl)
    rw [Dev.testing, (hrest _).fld (hf ▸ Reg.hasCopy_grmStatus) (by rw [hf]; decide),
      fld_setFld_beside (f := .GRM_STATUS_ROW) (q := f) _ (by decide) (by decide) hf hrow]
  refine ⟨bankState_setBankState _ b 7, ?_, ?_, rfl⟩
  · rw [Dev.flag, hstatus .GRM_STATUS_BUSY rfl (by decide),
      fld_setFld_beside (f := .GRM_STATUS_BANK) (q := .GRM_STATUS_BUSY) _ (by decide) (by decide) rfl (by decide)]
    exact flag_setFlag_same s .GRM_STATUS_BUSY rfl (by decide) true 0 0 0
  · rw [hstatus .GRM_STATUS_BANK rfl (by decide), fld_setFld_same _ .GRM_STATUS_BANK (by decide) (by decide)]
    exact Nat.mod_eq_of_lt hb

/-- A bank in a test that keeps its contents serves. -/
theorem bankServes_testing {done : Nat} {rep unrep : Bool} (h : s.bankState b = 7) (hgrm : s.grm = .preserving done rep unrep) :
    s.bankServes b = true := by
  simp [Dev.bankServes, h, hgrm]

/-- A command for a test that may start starts it. -/
theorem rowWrite_grmCmd {who : Agent} (h : s.reaches who .GRM_CMD 0 0 true) (hidle : s.flag .GRM_STATUS_BUSY = false) {n : Nat}
    (hv : bits v 7 0 = b) (hn : bits v 9 8 = n) (hon : s.bankState b = 1) (htest : n = 1 ∧ s.partOf b = 7 ∨ n = 2) :
    s.rowWrite who .GRM_CMD v = (s.plain .GRM_CMD v).testing (if n = 1 then .destructive else .preserving 0 false false) b := by
  have hb : b < 256 := hv ▸ bits_lt _ 7 0
  have hcmd : Reg.GRM_CMD.HasCopy 0 0 0 := ⟨by decide, by decide, by decide⟩
  have hmisuse : Reg.GRM_MISUSE_CNT.HasCopy 0 0 0 := ⟨by decide, by decide, by decide⟩
  have hplain : RegsBut [.GRM_CMD, .GRM_MISUSE_CNT] s (s.plain .GRM_CMD v) := .plain (.refl s) hcmd hmisuse (by decide) (by decide)
  have hbusy : (s.plain .GRM_CMD v).flag .GRM_STATUS_BUSY = s.flag .GRM_STATUS_BUSY := hplain.flag Reg.hasCopy_grmStatus (by decide)
  have hnamed : ¬(n = 0 ∨ n = 3) := by omega
  have hmay : ¬(s.flag .GRM_STATUS_BUSY = true ∨ s.bankState b ≠ 1 ∨ n = 1 ∧ s.partOf b ≠ 7) := by
    rw [hidle, hon]
    rintro (h | h | h)
    · cases h
    · exact h rfl
    · omega
  have hstart : s.grmCmd v = (s.plain .GRM_CMD v).testing (if n = 1 then .destructive else .preserving 0 false false) b := by
    rw [Dev.grmCmd]
    simp only [hv, hn, hbusy, hplain.bankState (by decide) hb, hplain.partOf (by decide) hb,
      if_neg hnamed, if_neg hmay]
    rfl
  rw [rowWrite_reaches h, copyStore_single _ rfl]
  exact hstart

/-! ### GROOMER_ROW -/

/-- A row has been tested, while ports waited for its bank. -/
def rowTested (done : Nat) (waits : List Nat) (s : Dev) : Dev :=
  (s.each waits fun m s => s.conflicts (othersOf 14 m)).setFld .GRM_STATUS_ROW done

section
variable (s) (done : Nat) (waits : List Nat)

theorem rowTested_mem : (s.rowTested done waits).mem = s.mem := each_same (g := Dev.mem) (fun _ _ s => conflicts_mem s _) s

theorem rowTested_smf : (s.rowTested done waits).smf = s.smf := each_same (g := Dev.smf) (fun _ _ s => conflicts_smf s _) s

theorem rowTested_regs : RegsBut (.GRM_STATUS :: accessRegs) s (s.rowTested done waits) := by
  have hwaits : RegsBut accessRegs s (s.each waits fun m s => s.conflicts (othersOf 14 m)) :=
    (RegsBut.refl s).each fun m _ u hu => hu.trans (WordAccess.conflicts (p := 0) (a := 0) u _).regs
  exact (hwaits.mono (List.subset_cons_self ..)).setFld Reg.hasCopy_grmStatus (by decide)

theorem rowTested_used (hb : b < 256) : (s.rowTested done waits).fld .GRM_BANK_ROWS_USED b = s.fld .GRM_BANK_ROWS_USED b :=
  (rowTested_regs s done waits).fld (Reg.hasCopy_grmBank hb) (by decide)

end

/-- A failing row takes a spare row. -/
def rowRepaired (done : Nat) (unrep : Bool) (b : Nat) (s : Dev) : Dev :=
  let t := (s.setFld .GRM_BANK_ROWS_USED (s.fld .GRM_BANK_ROWS_USED b + 1) b).count .GRM_REPAIR_CNT
  { t with grm := .preserving (done + 1) true unrep, smf := { t.smf with rows := t.smf.rows.upd b (· ++ [done]) } }

/-- A failing row that finds no spare row stays. -/
def rowUnrepaired (done : Nat) (rep : Bool) (b : Nat) (s : Dev) : Dev :=
  { s.setFlag .GRM_BANK_UNREPAIRED true b with grm := .preserving (done + 1) rep true }

section
variable (s : Dev) (done b : Nat) (rep : Bool)

theorem rowRepaired_mem : (s.rowRepaired done rep b).mem = s.mem := rfl

/-- What an unrepaired row leaves is what its flag leaves. -/
theorem rowUnrepaired_kept : let t := s.setFlag .GRM_BANK_UNREPAIRED true b
    (s.rowUnrepaired done rep b).mem = t.mem ∧ (s.rowUnrepaired done rep b).smf = t.smf ∧ (s.rowUnrepaired done rep b).regs = t.regs := by
  unfold Dev.rowUnrepaired
  generalize s.setFlag .GRM_BANK_UNREPAIRED true b = t
  exact ⟨rfl, rfl, rfl⟩

theorem rowUnrepaired_mem : (s.rowUnrepaired done rep b).mem = s.mem := by
  obtain ⟨hmem, -, -⟩ := rowUnrepaired_kept s done b rep
  exact hmem.trans (setFlag_mem ..)

theorem rowUnrepaired_smf : (s.rowUnrepaired done rep b).smf = s.smf := by
  obtain ⟨-, hsmf, -⟩ := rowUnrepaired_kept s done b rep
  exact hsmf.trans (setFlag_smf ..)

theorem rowUnrepaired_shown : (s.rowUnrepaired done rep b).flag .GRM_BANK_UNREPAIRED b = true := by
  obtain ⟨-, -, hregs⟩ := rowUnrepaired_kept s done b rep
  exact (flag_congr hregs ..).trans (flag_setFlag_same s .GRM_BANK_UNREPAIRED rfl (by decide) true b 0 0)

end

theorem rowRepaired_used (hb : b < 256) (h : s.fld .GRM_BANK_ROWS_USED b < 8) (done : Nat) (unrep : Bool) :
    (s.rowRepaired done unrep b).fld .GRM_BANK_ROWS_USED b = s.fld .GRM_BANK_ROWS_USED b + 1 := by
  have hcnt : Reg.GRM_REPAIR_CNT.HasCopy 0 0 0 := ⟨by decide, by decide, by decide⟩
  have hcount (u : Dev) : RegsBut [.GRM_REPAIR_CNT] u (u.count .GRM_REPAIR_CNT) := .count (.refl u) hcnt (by decide)
  have hfld := fld_setFld_same s .GRM_BANK_ROWS_USED (by decide) (by decide) (s.fld .GRM_BANK_ROWS_USED b + 1) b 0 0
  refine ((hcount _).fld (Reg.hasCopy_grmBank hb) (by decide)).trans (hfld.trans (Nat.mod_eq_of_lt ?_))
  exact Nat.lt_of_le_of_lt (Nat.succ_le_of_lt h) (by decide)

theorem rowRepaired_rows (s : Dev) (done : Nat) (unrep : Bool) (b : Nat) :
    (s.rowRepaired done unrep b).smf.rows.get b = s.smf.rows.get b ++ [done] :=
  Tab.get_upd_same s.smf.rows b (· ++ [done])

section
variable {rep unrep : Bool} (hgrm : s.grm = .preserving k rep unrep) (hk : k < 1024) (waits : List Nat)
include hgrm hk

theorem grmRow_passes : s.grmRow false waits = { s.rowTested k waits with grm := .preserving (k + 1) rep unrep } := by
  simp only [Dev.grmRow, hgrm, if_neg (Nat.not_le.mpr hk), Bool.not_false, if_true]
  rfl

variable (hb : s.fld .GRM_STATUS_BANK = b)
include hb

theorem grmRow_repairs (h : s.fld .GRM_BANK_ROWS_USED b < 8) : s.grmRow true waits = (s.rowTested k waits).rowRepaired k unrep b := by
  have hused := rowTested_used s k waits (hb ▸ bits_lt _ 15 8 : b < 256)
  rw [Dev.rowTested] at hused
  simp only [Dev.grmRow, hgrm, if_neg (Nat.not_le.mpr hk), hb, hused, Bool.not_true, Bool.false_eq_true, if_false, if_pos h]
  rw [Dev.rowRepaired, Dev.rowTested, hused]

theorem grmRow_unrepaired (h : 8 ≤ s.fld .GRM_BANK_ROWS_USED b) : s.grmRow true waits = (s.rowTested k waits).rowUnrepaired k rep b := by
  have hused := rowTested_used s k waits (hb ▸ bits_lt _ 15 8 : b < 256)
  rw [Dev.rowTested] at hused
  simp only [Dev.grmRow, hgrm, if_neg (Nat.not_le.mpr hk), hb, hused, Bool.not_true, Bool.false_eq_true, if_false, if_neg (Nat.not_lt.mpr h)]
  rfl

end

/-! ### Repair -/

theorem needed_cols_length (f : Fails) (n : Nat) : (needed f n).1.length ≤ n := List.length_take_le ..

/-- Each failing cell lies in a row or in a column that gets a spare. -/
theorem needed_covers {f : Fails} {c : Nat × Nat} (h : c ∈ f) (n : Nat) : c.1 ∈ (needed f n).2 ∨ c.2 ∈ (needed f n).1 := by
  by_cases hcol : c.2 ∈ (needed f n).1
  · exact .inr hcol
  · refine .inl (List.mem_eraseDups.mpr (List.mem_map_of_mem (List.mem_filter.mpr ⟨h, ?_⟩)))
    simpa [needed] using hcol

/-- Spare rows and columns go into use. -/
def spared (b : Nat) (rows cols : List Nat) (s : Dev) : Dev :=
  let s := s.setFld .GRM_BANK_ROWS_USED (s.fld .GRM_BANK_ROWS_USED b + rows.length) b
  let s := s.setFld .GRM_BANK_COLS_USED (s.fld .GRM_BANK_COLS_USED b + cols.length) b
  let s := { s with smf := { s.smf with rows := s.smf.rows.upd b (· ++ rows), cols := s.smf.cols.upd b (· ++ cols) } }
  s.countBy (rows.length + cols.length) .GRM_REPAIR_CNT

theorem spared_rows (s : Dev) (b : Nat) (rows cols : List Nat) : (s.spared b rows cols).smf.rows.get b = s.smf.rows.get b ++ rows :=
  Tab.get_upd_same s.smf.rows b (· ++ rows)

theorem spared_cols (s : Dev) (b : Nat) (rows cols : List Nat) : (s.spared b rows cols).smf.cols.get b = s.smf.cols.get b ++ cols :=
  Tab.get_upd_same s.smf.cols b (· ++ cols)

section
variable {f : Fails}

theorem repair_mapped (hf : f ≠ []) (h : 8 - s.fld .GRM_BANK_ROWS_USED b < (needed f (2 - s.fld .GRM_BANK_COLS_USED b)).2.length) :
    s.repair b f = (4, s.mapOut b) := by
  simp only [Dev.repair, if_neg hf, gt_iff_lt, if_pos h]

theorem repair_spared (hf : f ≠ []) (h : (needed f (2 - s.fld .GRM_BANK_COLS_USED b)).2.length ≤ 8 - s.fld .GRM_BANK_ROWS_USED b) :
    s.repair b f = (2, let n := needed f (2 - s.fld .GRM_BANK_COLS_USED b); s.spared b n.2 n.1) := by
  simp only [Dev.repair, if_neg hf, gt_iff_lt, if_neg (Nat.not_lt.mpr h)]
  rfl

end

/-- A bank that is mapped out shows it, and uses the spares that it had. -/
theorem mapOut_shown (hb : b < 256) (s : Dev) : (s.mapOut b).bankState b = 15 ∧ (s.mapOut b).partOf b = 15 ∧
    (s.mapOut b).flag .GRM_BANK_MAPPED b = true ∧ (s.mapOut b).fld .GRM_BANK_ROWS_USED b = s.fld .GRM_BANK_ROWS_USED b ∧
    (s.mapOut b).fld .GRM_BANK_COLS_USED b = s.fld .GRM_BANK_COLS_USED b := by
  have hsmf : Reg.SMF_STATUS.HasCopy 0 0 0 := ⟨by decide, by decide, by decide⟩
  have hlast (u : Dev) (n : Nat) : RegsBut [.SMF_STATUS] u ((u.zeroBank b).setFld .SMF_STATUS_WORKING n) :=
    (RegsBut.of_regs (zeroBank_regs u b)).setFld hsmf (by decide)
  have hflag (u : Dev) : RegsBut [.GRM_BANK] u (u.setFlag .GRM_BANK_MAPPED true b) := .setFlag (.refl u) (Reg.hasCopy_grmBank hb) (by decide)
  have hpart (u : Dev) : RegsBut [.SMF_PART_MAP] u (u.setPart b 15) := .setReg (.refl u) (Reg.hasCopy_partMap hb) (by decide)
  have hstate (u : Dev) : RegsBut [.SMF_BANK_STAT] u (u.setBankState b 15) := .setBankState (.refl u) hb (by decide)
  have hused (f : Fld) (hf : f.reg = .GRM_BANK) (hhi : f.hi < 13) : (s.mapOut b).fld f b = s.fld f b := by
    have hcopy : f.reg.HasCopy b 0 0 := hf ▸ Reg.hasCopy_grmBank hb
    rw [Dev.mapOut, (hlast _ _).fld hcopy (by rw [hf]; decide), Dev.setFlag,
      fld_setFld_beside (f := .GRM_BANK_MAPPED) (q := f) _ (by decide) (by decide) hf (.inl hhi), (hpart _).fld hcopy (by rw [hf]; decide),
      (hstate _).fld hcopy (by rw [hf]; decide)]
  refine ⟨?_, ?_, ?_, hused .GRM_BANK_ROWS_USED rfl (by decide), hused .GRM_BANK_COLS_USED rfl (by decide)⟩
  · rw [Dev.mapOut, (hlast _ _).bankState (by decide) hb, (hflag _).bankState (by decide) hb, (hpart _).bankState (by decide) hb,
      bankState_setBankState]
  · rw [Dev.mapOut, (hlast _ _).partOf (by decide) hb, (hflag _).partOf (by decide) hb, partOf_setPart]
  · rw [Dev.mapOut, (hlast _ _).flag (Reg.hasCopy_grmBank hb) (by decide)]
    exact flag_setFlag_same _ .GRM_BANK_MAPPED rfl (by decide) true b 0 0

/-- A bank has no more spare rows and columns in use than it has. -/
theorem spared_used {rows cols : List Nat} (hb : b < 256) (hrows : s.fld .GRM_BANK_ROWS_USED b + rows.length ≤ 8)
    (hcols : s.fld .GRM_BANK_COLS_USED b + cols.length ≤ 2) :
    (s.spared b rows cols).fld .GRM_BANK_ROWS_USED b ≤ 8 ∧ (s.spared b rows cols).fld .GRM_BANK_COLS_USED b ≤ 2 := by
  have hcnt : Reg.GRM_REPAIR_CNT.HasCopy 0 0 0 := ⟨by decide, by decide, by decide⟩
  have hbeside {q f : Fld} (hq : q.reg = f.reg) (hlo : f.lo ≤ f.hi) (hhi : f.hi < 32) (hne : q.hi < f.lo ∨ f.hi < q.lo) (u : Dev) (n : Nat) :
      (u.setFld f n b).fld q b = u.fld q b := fld_setFld_beside u hlo hhi hq hne n b 0 0
  have hcount (u : Dev) (m : SmfSt) (n : Nat) : RegsBut [.GRM_REPAIR_CNT] u (({ u with smf := m } : Dev).countBy n .GRM_REPAIR_CNT) :=
    (RegsBut.of_regs (s := u) (t := { u with smf := m }) rfl).countBy hcnt (by decide)
  rw [Dev.spared, (hcount _ _ _).fld (Reg.hasCopy_grmBank hb) (by decide), (hcount _ _ _).fld (Reg.hasCopy_grmBank hb) (by decide),
    hbeside (q := .GRM_BANK_ROWS_USED) (f := .GRM_BANK_COLS_USED) rfl (by decide) (by decide) (by decide),
    fld_setFld_same _ .GRM_BANK_ROWS_USED (by decide) (by decide), fld_setFld_same _ .GRM_BANK_COLS_USED (by decide) (by decide),
    hbeside (q := .GRM_BANK_COLS_USED) (f := .GRM_BANK_ROWS_USED) rfl (by decide) (by decide) (by decide)]
  exact ⟨(Nat.mod_le ..).trans hrows, (Nat.mod_le ..).trans hcols⟩

/-- The three outcomes of a repair. -/
structure Repaired (b : Nat) (f : Fails) (p : Nat × Dev) : Prop where
  passed : p.1 = 1 ↔ f = []
  result : p.1 ∈ [1, 2, 4]
  rows : p.2.fld .GRM_BANK_ROWS_USED b ≤ 8
  cols : p.2.fld .GRM_BANK_COLS_USED b ≤ 2
  covered : p.1 = 2 → ∀ c ∈ f, c.1 ∈ p.2.smf.rows.get b ∨ c.2 ∈ p.2.smf.cols.get b
  mapped : p.1 = 4 → p.2.bankState b = 15 ∧ p.2.partOf b = 15 ∧ p.2.flag .GRM_BANK_MAPPED b = true

theorem repair_repaired (hb : b < 256) (hrows : s.fld .GRM_BANK_ROWS_USED b ≤ 8) (hcols : s.fld .GRM_BANK_COLS_USED b ≤ 2) (f : Fails) :
    Repaired b f (s.repair b f) := by
  have hcolumns := needed_cols_length f (2 - s.fld .GRM_BANK_COLS_USED b)
  by_cases hf : f = []
  · subst hf
    exact ⟨⟨fun _ => rfl, fun _ => rfl⟩, List.mem_cons_self .., hrows, hcols, fun _ _ h => absurd h List.not_mem_nil, fun (h : 1 = 4) => absurd h (by decide)⟩
  by_cases h : (needed f (2 - s.fld .GRM_BANK_COLS_USED b)).2.length ≤ 8 - s.fld .GRM_BANK_ROWS_USED b
  · rw [repair_spared hf h]
    have hcovers (c : Nat × Nat) (hc : c ∈ f) := needed_covers hc (2 - s.fld .GRM_BANK_COLS_USED b)
    generalize needed f (2 - s.fld .GRM_BANK_COLS_USED b) = n at *
    obtain ⟨hrows, hcols⟩ := spared_used (s := s) (rows := n.2) (cols := n.1) hb (by omega) (by omega)
    refine ⟨by simp [hf], by simp, hrows, hcols, fun _ c hc => ?_, fun h => absurd h (by simp)⟩
    dsimp only
    rw [spared_rows, spared_cols]
    exact (hcovers c hc).imp (List.mem_append_right _) (List.mem_append_right _)
  · rw [repair_mapped hf (Nat.not_le.mp h)]
    obtain ⟨hstate, hpart, hmapped, husedRows, husedCols⟩ := mapOut_shown hb s
    exact ⟨by simp [hf], by simp, husedRows.trans_le hrows, husedCols.trans_le hcols, fun h => absurd h (by simp), fun _ => ⟨hstate, hpart, hmapped⟩⟩

/-! ### GROOMER_COMMAND_DONE -/

theorem grmDone_preserving {rep unrep : Bool} (h : s.grm = .preserving 1024 rep unrep) (f : Fails) :
    s.grmDone f = (s.setBankState (s.fld .GRM_STATUS_BANK) 1).grmEnd (if unrep then 3 else if rep then 2 else 1) := by
  simp only [Dev.grmDone, h, Nat.lt_irrefl, if_false]

theorem grmDone_destructive (h : s.grm = .destructive) (f : Fails) :
    s.grmDone f = let p := s.repair (s.fld .GRM_STATUS_BANK) f
      (if p.1 = 4 then p.2.degrade .SYS_DEGRADED_BANK else (p.2.zeroBank (s.fld .GRM_STATUS_BANK)).setBankState (s.fld .GRM_STATUS_BANK) 1).grmEnd p.1 := by
  simp only [Dev.grmDone, h]
  split <;> rfl

end Dev

end Sys2Proof.Machine
end

section
/-! O45: granted words follow ECC, banks change state, the Groomer tests, repairs and scrubs. -/

namespace Sys2Proof.Machine

/-- The error of a word in which bits have been struck: 1 is corrected, 2 is not. -/
def struckErr (e n : Nat) : Nat := if n = 0 then e else min 2 (max e n)

theorem struckErr_le {e : Nat} (h : e ≤ 2) (n : Nat) : struckErr e n ≤ 2 := by
  unfold struckErr
  split
  · exact h
  · exact Nat.min_le_left ..

/-- At most one struck bit is corrected. -/
theorem struckErr_lt_two {e n : Nat} (he : e ≤ 1) (hn : n ≤ 1) : struckErr e n < 2 := by
  unfold struckErr
  split <;> omega

namespace Dev
variable {s : Dev}

/-! ### An access that is not granted -/

section
variable {mid w waits : Nat} (op : BankOp) (upset told waits2 : Nat)

theorem bankGrant_denied (hlt : w < 2 ^ 24) (hb : s.bankServes (bankOf (w * 8)) = false) :
    s.bankGrant mid w op upset waits told waits2 = s.bankDeny := by
  have hstate : (s.bankState (bankOf (w * 8)) == 4) = false :=
    beq_eq_false_iff_ne.mpr fun h => Bool.false_ne_true (hb.symm.trans (bankServes_leaving h))
  simp only [Dev.bankGrant, bankWaits_word hlt, hstate, hb, Bool.false_eq_true, if_false, Bool.not_false, if_true]

theorem bankGrant_leaving (hlt : w < 2 ^ 24) (h : s.bankState (bankOf (w * 8)) = 4) : s.bankGrant mid w op upset waits told waits2 = s := by
  simp only [Dev.bankGrant, bankWaits_word hlt, h, beq_self_eq_true, if_true]

theorem bankGrant_other_turn (hb : s.bankServes (bankOf (w * 8)) = true)
    (hturn : s.grantTurn (bankOf (w * 8)) ((portOf mid (bankOf (w * 8))).getD 15) waits = false) :
    s.bankGrant mid w op upset waits told waits2 = s := by
  simp only [Dev.bankGrant, hb, hturn, Bool.not_true, Bool.not_false, Bool.false_eq_true, if_false, if_true, ite_self]

end

/-! ### What a granted access gives -/

section
variable {mid w waits : Nat} (hlt : w < 2 ^ 24) (hw : s.bankWaits (w * 8) 8 = false) (hb : s.bankServes (bankOf (w * 8)) = true)
  (hturn : s.grantTurn (bankOf (w * 8)) ((portOf mid (bankOf (w * 8))).getD 15) waits = true)

section
include hlt hb

theorem struck_serves (p upset mask : Nat) : (s.struck p (w * 8) upset mask).bankServes (bankOf (w * 8)) = true :=
  ((struck_access (Nat.mul_mod_left ..) s p upset mask).bankServes (bankOf_lt (by omega))).trans hb

end

section
include hlt hw hb hturn

/-- A granted read, whatever has struck the word. -/
theorem bankGrant_read_gives {upset : Nat} (hupset : upset < 3) (he : s.errOf (w * 8) ≤ 2) (told waits2 : Nat) :
    let t := s.bankGrant mid w .read upset waits told waits2
    let e := struckErr (s.errOf (w * 8)) upset
    t.mem = s.mem ∧ t.smf.rdata = s.load (w * 8) 8 ∧ t.smf.rerr = decide (e = 2) ∧
      t.errOf (w * 8) = (if e = 1 ∧ s.flag .SMF_CFG_CE_WB = true then 0 else e) := by
  obtain ⟨mask, again, heq⟩ := bankGrant_read hw hb hturn upset told waits2
  have hserves := struck_serves hlt hb ((portOf mid (bankOf (w * 8))).getD 15) upset mask
  have herr := struck_errOf hupset s ((portOf mid (bankOf (w * 8))).getD 15) (w * 8) mask
  have hmem := struck_mem hupset s ((portOf mid (bankOf (w * 8))).getD 15) (w * 8) mask
  have hcfg : Reg.SMF_CFG.HasCopy 0 0 0 := ⟨by decide, by decide, by decide⟩
  have hflag : (s.struck ((portOf mid (bankOf (w * 8))).getD 15) (w * 8) upset mask).flag .SMF_CFG_CE_WB = s.flag .SMF_CFG_CE_WB :=
    (struck_access (Nat.mul_mod_left ..) s _ upset mask).regs.flag hcfg (by decide)
  rw [heq]
  obtain ⟨hkept, hdata, hue, hleft⟩ := readGranted_word hserves (herr.trans_le (struckErr_le he upset)) mid waits2 again
  rw [herr] at hue hleft
  exact ⟨hkept.trans hmem, hdata.trans (load_congr hmem ..), hue, hflag ▸ hleft⟩

/-- A write of the whole word, whatever has struck it. -/
theorem bankGrant_whole_writes (upset : Nat) (v : BitVec 64) (told waits2 : Nat) :
    let t := s.bankGrant mid w (.write 255#8 v) upset waits told waits2
    t.errOf (w * 8) = 0 ∧ ∀ i < 8, t.byte (w * 8 + i) = BitVec.ofNat 8 (v.toNat / 256 ^ i) := by
  obtain ⟨mask, heq⟩ := bankGrant_whole hw hb hturn v upset told waits2
  have hserves := struck_serves hlt hb ((portOf mid (bankOf (w * 8))).getD 15) upset mask
  obtain ⟨hleft, hbyte⟩ := wordWrite_whole hserves (Nat.mul_mod_left ..) (leBytes_length 8 v.toNat) mid
  rw [heq]
  refine ⟨(crowded_errOf ..).trans hleft, fun i hi => (crowded_byte ..).trans ((hbyte i hi).trans (getD_leBytes hi _))⟩

end

section
include hw hb hturn

/-- A write of some bytes to a word that is sound or corrected. -/
theorem bankGrant_part_writes {m : BitVec 8} (hm : m ≠ 255#8) {upset : Nat} (hupset : upset < 3) (he : struckErr (s.errOf (w * 8)) upset < 2)
    (v : BitVec 64) (told waits2 : Nat) : let t := s.bankGrant mid w (.write m v) upset waits told waits2
    t.errOf (w * 8) = 0 ∧ ∀ i < 8, t.byte (w * 8 + i) =
      if m.getLsbD i then BitVec.ofNat 8 (v.toNat / 256 ^ i) else s.byte (w * 8 + i) := by
  obtain ⟨mask, heq⟩ := bankGrant_part hw hb hturn hm v upset told waits2
  have herr := struck_errOf hupset s ((portOf mid (bankOf (w * 8))).getD 15) (w * 8) mask
  have hmem := struck_mem hupset s ((portOf mid (bankOf (w * 8))).getD 15) (w * 8) mask
  rw [heq]
  obtain ⟨hleft, hbyte⟩ := partGranted_word (herr.trans_lt he) mid m.toNat v.toNat waits2
  refine ⟨hleft, fun i hi => (hbyte i hi).trans ?_⟩
  rw [bit_eq_testBit, BitVec.testBit_toNat, getD_leBytes hi, byte_congr hmem]

/-- A write of some bytes to a word with an uncorrectable error. -/
theorem bankGrant_part_keeps {m : BitVec 8} (hm : m ≠ 255#8) {upset : Nat} (hupset : upset < 3) (he : struckErr (s.errOf (w * 8)) upset = 2)
    (v : BitVec 64) (told waits2 : Nat) : let t := s.bankGrant mid w (.write m v) upset waits told waits2
    t.errOf (w * 8) = 2 ∧ t.mem = s.mem := by
  obtain ⟨mask, heq⟩ := bankGrant_part hw hb hturn hm v upset told waits2
  have herr := struck_errOf hupset s ((portOf mid (bankOf (w * 8))).getD 15) (w * 8) mask
  rw [heq]
  obtain ⟨hleft, hmem⟩ := partGranted_uncorrectable (herr.trans he) mid m.toNat v.toNat waits2
  exact ⟨hleft, hmem.trans (struck_mem hupset ..)⟩

end

end

theorem getLsbD_allOnes {i : Nat} (hi : i < 8) : (255#8).getLsbD i = true := by
  rw [show (255#8) = BitVec.allOnes 8 from rfl, BitVec.getLsbD_allOnes]
  exact decide_eq_true hi

/-- A byte outside the word of an address lies in another word. -/
theorem word_ne_of_outside {a k : Nat} (ha : a % 8 = 0) (hk : k < a ∨ a + 8 ≤ k) : k / 8 ≠ a / 8 := by omega

/-! ### What a scrub read leaves -/

section
variable {w b waits : Nat} (hen : s.flag .GRM_SCRUB_CFG_EN = true) (hidle : s.flag .GRM_STATUS_BUSY = false)
  (hb : s.fld .GRM_SCRUB_POS_BANK = b) (hw : s.fld .GRM_SCRUB_POS_WORD = w) (hlt : w < 65535) (hon : s.bankState b = 1)
  (hturn : s.grantTurn b 14 waits = true) (upset told waits2 : Nat)
include hen hidle hb hw hlt hon hturn

theorem scrubRead_leaves : let t := s.scrubRead upset waits told waits2
    let a := b * 0x80000 + w * 8
    (upset < 3 → t.mem = s.mem) ∧ (∀ k, k < a ∨ a + 8 ≤ k → t.byte k = s.byte k) ∧ t.fld .GRM_SCRUB_POS_WORD = w + 1 ∧
      t.fld .GRM_SCRUB_POS_BANK = b ∧ (s.errOf a ≤ 1 → upset ≤ 1 → t.errOf a = 0) := by
  obtain ⟨mask, heq⟩ := scrubRead_eq hen hidle hb hw hlt hon hturn upset told waits2
  intro t a
  have ha : a % 8 = 0 := by omega
  have hstruck := struck_access ha s 14 upset mask
  have herr (h : upset < 3) := struck_errOf h s 14 a mask
  have hstruckMem (h : upset < 3) := struck_mem h s 14 a mask
  have hpos : Reg.GRM_SCRUB_POS.HasCopy 0 0 0 := ⟨by decide, by decide, by decide⟩
  have ht : t = ((s.struck 14 a upset mask).scrubbed a waits2).setFld .GRM_SCRUB_POS_WORD (w + 1) := heq
  generalize s.struck 14 a upset mask = u at *
  obtain ⟨hscrubbed, hmem⟩ := scrubbed_access (p := 14) u a waits2
  have hleft := scrubbed_errOf (s := u) (a := a) (waits2 := waits2)
  generalize u.scrubbed a waits2 = r at *
  rw [ht]
  have hbank : r.fld .GRM_SCRUB_POS_BANK = b := ((hstruck.trans hscrubbed).regs.fld hpos (by decide)).trans hb
  refine ⟨fun h => (setFld_mem ..).trans (hmem.trans (hstruckMem h)), fun k hk => ?_, ?_, ?_, fun he hu => ?_⟩
  · exact (byte_congr (setFld_mem ..) k).trans ((hstruck.trans hscrubbed).byte k (word_ne_of_outside ha hk))
  · rw [fld_setFld_same r .GRM_SCRUB_POS_WORD (by decide) (by decide)]
    exact Nat.mod_eq_of_lt (Nat.succ_lt_succ hlt)
  · rw [fld_setFld_beside (f := .GRM_SCRUB_POS_WORD) (q := .GRM_SCRUB_POS_BANK) r (by decide) (by decide) rfl (by decide), hbank]
  · exact (errOf_congr (by rw [setFld_smf]) a).trans (hleft ((herr (by omega)).trans_lt (struckErr_lt_two he hu)))

end

end Dev

/-! ### The rows -/

section
variable (s : State) (who : Agent) (b : Fin 256)

theorem exec_bankGrant_eq (mid : BitVec 8) (w : BitVec 24) (op : BankOp) (upset : Fin 4) (x : BitVec 15 × BitVec 15) (y : BitVec 15) :
    exec (.bankGrant mid w op upset x y) s =
      .next (s.withDev (s.dev.bankGrant mid.toNat w.toNat op upset x.1.toNat x.2.toNat y.toNat)) := rfl

theorem exec_bankRequest_eq (v : Word) : exec (.bankRequest who v) s = .next (s.withDev (s.dev.rowWrite who .PWR_BANK_REQ v.toNat)) := rfl

theorem exec_bankStateChangeDone_eq : exec (.bankStateChangeDone b) s = .next (s.withDev (s.dev.bankDone b)) := rfl

theorem exec_destructiveMarchSs_eq : exec (.destructiveMarchSs who b) s = .next (s.withDev (s.dev.rowWrite who .GRM_CMD (b + 0x100))) := rfl

theorem exec_preservingMarchSs_eq : exec (.preservingMarchSs who b) s = .next (s.withDev (s.dev.rowWrite who .GRM_CMD (b + 0x200))) := rfl

theorem exec_groomerRow_eq (fails : Bool) (waits : List (BitVec 15)) :
    exec (.groomerRow (fails, waits)) s = .next (s.withDev (s.dev.grmRow fails (waits.map BitVec.toNat))) := rfl

theorem exec_groomerCommandDone_eq (cells : List (Fin 1024 × Fin 72)) :
    exec (.groomerCommandDone cells) s = .next (s.withDev (s.dev.grmDone (cellsOf cells))) := rfl

theorem exec_scrubRead_eq (upset : Fin 4) (x : BitVec 15 × BitVec 15) (y : BitVec 15) :
    exec (.scrubRead upset x y) s = .next (s.withDev (s.dev.scrubRead upset x.1.toNat x.2.toNat y.toNat)) := rfl

end

/-- Settles O45: a granted access and a scrub read reach their word after what has struck it, and each command of banks and Groomer is one of the
changes above. -/
theorem memoryAndGroomerRowsComplete : Obligations.MemoryAndGroomerRowsComplete := by
  unfold Obligations.MemoryAndGroomerRowsComplete
  intro s d
  refine ⟨?grants, ?requests, fun b k h => next_congr (Dev.bankDone_of_mem h), ?tests, ?rows, ?ends, ?scrubs⟩
  case grants =>
    intro mid w op upset x y a p e he
    have hrow := exec_bankGrant_eq s mid w op upset x y
    refine ⟨fun hb => ⟨_, hrow, ?_⟩, fun h => hrow.trans ?_, fun hb hstate hturn => ⟨_, hrow, rfl, ?_⟩⟩
    · rw [State.withDev_dev, Dev.bankGrant_denied op upset x.2.toNat y.toNat w.isLt hb]
      exact ⟨rfl, Dev.reg_count_same ..⟩
    · rcases h with hleaving | ⟨hb, hturn⟩
      · rw [Dev.bankGrant_leaving op upset x.2.toNat y.toNat w.isLt hleaving, State.withDev_self]
      · rw [Dev.bankGrant_other_turn op upset x.2.toNat y.toNat hb hturn, State.withDev_self]
    · have hw : d.bankWaits a 8 = false := (Dev.bankWaits_word w.isLt d).trans (beq_eq_false_iff_ne.mpr hstate)
      have ha : a % 8 = 0 := Nat.mul_mod_left ..
      obtain ⟨haccess, hpassed⟩ := Dev.bankGrant_access w.isLt hw hb hturn op upset x.2.toNat y.toNat
      refine ⟨fun k hk => haccess.byte k (Dev.word_ne_of_outside ha hk), fun k hk => haccess.err _ ?_, hpassed, fun hupset hop => ?_,
        fun m v hop => ⟨fun h => ?_, fun hupset he2 hm => ?_⟩⟩
      · rwa [Nat.mul_div_cancel _ (by decide)]
      · subst hop
        exact Dev.bankGrant_read_gives w.isLt hw hb hturn hupset he x.2.toNat y.toNat
      · subst hop
        by_cases hm : m = 255#8
        · subst hm
          obtain ⟨herr, hbyte⟩ := Dev.bankGrant_whole_writes w.isLt hw hb hturn upset v x.2.toNat y.toNat
          exact ⟨herr, fun i hi => (hbyte i hi).trans (if_pos (Dev.getLsbD_allOnes hi)).symm⟩
        · obtain ⟨hupset, he2⟩ := h.resolve_right hm
          exact Dev.bankGrant_part_writes hw hb hturn hm hupset he2 v x.2.toNat y.toNat
      · subst hop
        exact Dev.bankGrant_part_keeps hw hb hturn hm hupset he2 v x.2.toNat y.toNat
  case requests =>
    intro who v k hreach b change
    refine ⟨fun h => ?_, fun h hnamed => ?_⟩
    · have hchange : bankChange (d.bankState b) (bits v.toNat 9 8) = some k := bankChange_of_mem h
      obtain ⟨hwrite, hsame⟩ := Dev.rowWrite_bankReq hreach (bankChange_named hchange)
      exact next_congr (hwrite.trans (Dev.bankRequest_change (hsame ▸ hchange)))
    · obtain ⟨hwrite, hsame⟩ := Dev.rowWrite_bankReq hreach hnamed
      exact next_congr (hwrite.trans (Dev.bankRequest_refused (hsame ▸ bankChange_eq_none h)))
  case tests =>
    intro who b hreach hidle hon
    have hlt := b.isLt
    have htest (n : Nat) : bits (b + n * 0x100) 7 0 = b ∧ (n < 4 → bits (b + n * 0x100) 9 8 = n) := by
      unfold bits
      omega
    refine ⟨fun hpart => ⟨_, exec_destructiveMarchSs_eq s who b, rfl, ?_⟩, ⟨_, exec_preservingMarchSs_eq s who b, rfl, ?_⟩⟩
    · have hwrite := Dev.rowWrite_grmCmd hreach hidle (htest 1).1 ((htest 1).2 (by decide)) hon (.inl ⟨rfl, hpart⟩)
      obtain ⟨hstate, hbusy, hbank, hmem⟩ := Dev.testing_shown hlt .destructive (d.plain .GRM_CMD (b + 0x100))
      rw [State.withDev_dev, hwrite]
      exact ⟨rfl, hstate, hbusy, hbank, hmem.trans (Dev.plain_mem ..)⟩
    · have hwrite := Dev.rowWrite_grmCmd hreach hidle (htest 2).1 ((htest 2).2 (by decide)) hon (.inr rfl)
      obtain ⟨hstate, hbusy, hbank, hmem⟩ := Dev.testing_shown hlt (.preserving 0 false false) (d.plain .GRM_CMD (b + 0x200))
      rw [State.withDev_dev, hwrite]
      exact ⟨rfl, hstate, Dev.bankServes_testing hstate rfl, hbusy, hbank, hmem.trans (Dev.plain_mem ..)⟩
  case rows =>
    intro k r u fails waits hgrm b used
    refine ⟨fun hk => ⟨_, exec_groomerRow_eq s fails waits, rfl, ?_⟩, fun hk => next_congr (Dev.grmDone_preserving (hk ▸ hgrm) _)⟩
    have hb : b < 256 := bits_lt _ 15 8
    have hmem := Dev.rowTested_mem d k (waits.map BitVec.toNat)
    have hsmf := Dev.rowTested_smf d k (waits.map BitVec.toNat)
    have hused := Dev.rowTested_used d k (waits.map BitVec.toNat) hb
    rw [State.withDev_dev]
    cases fails with
    | false =>
      rw [Dev.grmRow_passes hgrm hk]
      exact ⟨hmem, fun _ => ⟨rfl, hsmf⟩, fun h => absurd h (by decide), fun h => absurd h (by decide)⟩
    | true =>
      by_cases h : used < 8
      · rw [Dev.grmRow_repairs hgrm hk _ rfl h]
        refine ⟨(Dev.rowRepaired_mem ..).trans hmem, fun h => absurd h (by decide), fun _ _ => ⟨rfl, ?_, ?_⟩, fun _ h' => absurd h (Nat.not_lt.mpr h')⟩
        · rw [Dev.rowRepaired_rows, hsmf]
        · rw [Dev.rowRepaired_used hb (hused.trans_lt h), hused]
      · rw [Dev.grmRow_unrepaired hgrm hk _ rfl (Nat.not_lt.mp h)]
        exact ⟨(Dev.rowUnrepaired_mem ..).trans hmem, fun h => absurd h (by decide), fun _ h' => absurd h' h,
          fun _ _ => ⟨rfl, (Dev.rowUnrepaired_smf ..).trans hsmf, Dev.rowUnrepaired_shown ..⟩⟩
  case ends =>
    intro cells hgrm b f hrows hcols p
    have hrepaired := Dev.repair_repaired (bits_lt _ 15 8 : b < 256) hrows hcols f
    exact ⟨hrepaired.passed, hrepaired.result, hrepaired.rows, hrepaired.cols, hrepaired.covered, hrepaired.mapped,
      next_congr (Dev.grmDone_destructive hgrm _)⟩
  case scrubs =>
    intro upset x y hen hidle hon hturn hlt a
    obtain ⟨hmem, hbyte, hword, hbank, herr⟩ := Dev.scrubRead_leaves hen hidle rfl rfl hlt hon hturn upset x.2.toNat y.toNat
    exact ⟨_, exec_scrubRead_eq s upset x y, rfl, hmem, hbyte, hword, hbank, fun h => herr (h ▸ Nat.zero_le 1), fun h => herr (Nat.le_of_eq h)⟩

end Sys2Proof.Machine
end

section
/-! Rules for the mailbox block and the doorbells (O47): which copies an operation writes. `Dev.CopiesBut rs m s t` says that every copy but copy `m` of
the registers `rs` reads in `t` as in `s`; `Dev.OtherMailboxes m s t` says it of the registers of a mailbox, and of the snapshots. -/

namespace Sys2Proof.Machine

theorem Agent.mid_lt (who : Agent) : who.mid < 256 := by
  cases who with
  | engine e c => exact e.isLt.trans (by decide)
  | patrol c => exact (by decide : 0x40 < 256)
  | host => exact (by decide : 0x41 < 256)

/-- A number that fits a field at bit 0 is read whole. -/
theorem bits_of_lt {n hi : Nat} (h : n < 2 ^ (hi + 1)) : bits n hi 0 = n := by
  rw [bits, Nat.pow_zero, Nat.div_one, Nat.sub_zero, Nat.mod_eq_of_lt h]

theorem putBits_word {n v : Nat} (hn : n < 2 ^ 32) (hv : v < 2 ^ 32) : putBits n 31 0 v = v := by
  have hread : bits (putBits n 31 0 v) 31 0 = v := (bits_putBits (by decide) n v).trans (Nat.mod_eq_of_lt hv)
  rwa [bits_of_lt (putBits_lt (by decide) (by decide) hn v)] at hread

/-! ### Copies of one register -/

/-- Two copies of a register stand at different addresses. -/
theorem Reg.HasCopy.addr_ne_of_index {r : Reg} {a b c i j k : Nat} (ha : r.HasCopy a b c) (hi : r.HasCopy i j k) (hne : a ≠ i) :
    r.addr a b c ≠ r.addr i j k := by
  intro haddr
  have hcopy := ha.copyAt_addr
  rw [haddr, hi.copyAt_addr] at hcopy
  cases hcopy
  exact hne rfl

namespace Dev
variable {s t u : Dev}

/-- Every copy but copy `m` of the registers `rs` reads in `t` as it does in `s`. -/
structure CopiesBut (rs : List Reg) (m : Nat) (s t : Dev) : Prop where
  reg : ∀ r ∈ rs, ∀ x, r.HasCopy x 0 0 → x ≠ m → t.reg r x = s.reg r x

namespace CopiesBut
variable {rs : List Reg} {m : Nat}

theorem of_regsBut {l : List Reg} (h : RegsBut l s t) (hl : ∀ r ∈ rs, r ∉ l) : CopiesBut rs m s t :=
  ⟨fun r hr _ hx _ => h.reg r _ _ _ hx (hl r hr)⟩

theorem of_regs (h : t.regs = s.regs) : CopiesBut rs m s t := ⟨fun _ _ _ _ _ => reg_congr h ..⟩

theorem refl (s : Dev) : CopiesBut rs m s s := of_regs rfl

section
variable (h : CopiesBut rs m s t)
include h

theorem trans (g : CopiesBut rs m t u) : CopiesBut rs m s u :=
  ⟨fun r hr x hx hne => (g.reg r hr x hx hne).trans (h.reg r hr x hx hne)⟩

theorem setReg {r : Reg} {v : Nat} (hr : r.HasCopy m 0 0) : CopiesBut rs m s (t.setReg r v m) := by
  refine h.trans ⟨fun q _ x hx hne => ?_⟩
  by_cases hqr : q = r
  · subst hqr
    exact t.reg_setReg_other (hx.addr_ne_of_index hr hne) v
  · exact t.reg_setReg_apart hx hr hqr v

theorem setFld {f : Fld} {v : Nat} (hf : f.reg.HasCopy m 0 0) : CopiesBut rs m s (t.setFld f v m) := h.setReg hf

theorem setFlag {f : Fld} {b : Bool} (hf : f.reg.HasCopy m 0 0) : CopiesBut rs m s (t.setFlag f b m) := h.setFld hf

end

end CopiesBut

/-! ### A write by the field rules -/

/-- A write by the field rules leaves the word that they give. -/
theorem plain_reg_same (s : Dev) {r : Reg} {i j k : Nat} (hr : r.HasCopy i j k) (hm : r.info.blk.misuse.HasCopy (r.info.blk.pageOf i) 0 0)
    (hne : r ≠ r.info.blk.misuse) (v : Nat) :
    (s.plain r v i j k).reg r i j k = (writeWord r.info.fields (fun _ => false) (s.reg r i j k) v).1 % 2 ^ 32 := by
  unfold Dev.plain Dev.plainIf
  dsimp only
  split
  · exact (reg_setReg_apart _ hr hm hne _).trans (s.reg_setReg_same ..)
  · exact s.reg_setReg_same ..

theorem CopiesBut.plain {rs : List Reg} {m : Nat} (h : CopiesBut rs m s t) {r : Reg} {v : Nat} (hr : r.HasCopy m 0 0)
    (hm : r.info.blk.misuse.HasCopy (r.info.blk.pageOf m) 0 0) (hrs : r.info.blk.misuse ∉ rs) : CopiesBut rs m s (t.plain r v m) := by
  unfold Dev.plain Dev.plainIf
  dsimp only
  split
  · exact (h.setReg hr).trans (.of_regsBut (.count (.refl _) hm List.mem_cons_self) fun q hq hqm => hrs (List.mem_singleton.mp hqm ▸ hq))
  · exact h.setReg hr

/-! ### An access to the MBX page -/

section
variable {who : Agent} {r : Reg} {i : Nat} (hb : r.info.blk = .MBX) (hr : (r.isNotice || r.single) = true)
include hb hr

/-- The registers of the page, those of a notice among them, do not follow R8 (R194). -/
theorem rowWrite_mbx (h : s.reaches who r i 0 true) (v : Nat) : s.rowWrite who r v i = s.mbxWrite r i who.mid who.ctx v := by
  have hstore : s.copyStore r i 0 0 who.mid who.ctx v = s.regStore r i 0 0 who.mid who.ctx v := by
    by_cases hn : r.isNotice = true
    · exact if_pos hn
    · exact s.copyStore_single (((Bool.or_eq_true ..).mp hr).resolve_left hn) ..
  rw [rowWrite_reaches h, hstore, Dev.regStore, hb]

theorem rowRead_mbx (h : s.reaches who r i 0 false) :
    s.rowRead who r i = { (s.mbxRead r i who.mid who.ctx).2 with rd := word (s.mbxRead r i who.mid who.ctx).1 } := by
  have hload : s.copyLoad r i 0 0 who.mid who.ctx = s.regLoad r i 0 0 who.mid who.ctx := by
    by_cases hn : r.isNotice = true
    · exact if_pos hn
    · exact s.copyLoad_single (((Bool.or_eq_true ..).mp hr).resolve_left hn) ..
  rw [rowRead_reaches h, hload, Dev.regLoad, hb]

end

end Dev

/-! ### The copies of the page -/

section
variable {m : Nat} (hm : m < 256)
include hm

theorem Reg.hasCopy_noticeLow : Reg.MBX_NOTICE_LOW.HasCopy m 0 0 := ⟨hm, by decide, by decide⟩
theorem Reg.hasCopy_noticeHigh : Reg.MBX_NOTICE_HIGH.HasCopy m 0 0 := ⟨hm, by decide, by decide⟩
theorem Reg.hasCopy_mbxStatus : Reg.MBX_STATUS.HasCopy m 0 0 := ⟨hm, by decide, by decide⟩
theorem Reg.hasCopy_mbxLock : Reg.MBX_LOCK.HasCopy m 0 0 := ⟨hm, by decide, by decide⟩

end

theorem Reg.hasCopy_mbxDb {t : Nat} (ht : t < 32) : Reg.MBX_DB.HasCopy t 0 0 := ⟨ht, by decide, by decide⟩
theorem Reg.hasCopy_mbxFlush : Reg.MBX_FLUSH.HasCopy 0 0 0 := ⟨by decide, by decide, by decide⟩
theorem Reg.hasCopy_mbxLockForce : Reg.MBX_LOCK_FORCE.HasCopy 0 0 0 := ⟨by decide, by decide, by decide⟩
theorem Reg.hasCopy_mbxPostCnt : Reg.MBX_POST_CNT.HasCopy 0 0 0 := ⟨by decide, by decide, by decide⟩
theorem Reg.hasCopy_mbxPostRefuseCnt : Reg.MBX_POST_REFUSE_CNT.HasCopy 0 0 0 := ⟨by decide, by decide, by decide⟩
theorem Reg.hasCopy_mbxDbCoalCnt : Reg.MBX_DB_COAL_CNT.HasCopy 0 0 0 := ⟨by decide, by decide, by decide⟩
theorem Reg.hasCopy_mbxForceCnt : Reg.MBX_FORCE_CNT.HasCopy 0 0 0 := ⟨by decide, by decide, by decide⟩
theorem Reg.hasCopy_mbxMisuseCnt : Reg.MBX_MISUSE_CNT.HasCopy 0 0 0 := ⟨by decide, by decide, by decide⟩
theorem Reg.hasCopy_hstMsixCnt : Reg.HST_MSIX_CNT.HasCopy 0 0 0 := ⟨by decide, by decide, by decide⟩

/-! ### The other mailboxes -/

/-- The registers that hold a mailbox's notice. -/
def mailboxRegs : List Reg := [.MBX_NOTICE_LOW, .MBX_NOTICE_HIGH, .MBX_STATUS]

namespace Dev
variable {s t u : Dev}

/-- Every mailbox but `m` holds what it held, and its snapshot stands. -/
structure OtherMailboxes (m : Nat) (s t : Dev) : Prop where
  copies : CopiesBut mailboxRegs m s t
  snap : ∀ x, x ≠ m → t.mbx.snap.get x = s.mbx.snap.get x

theorem OtherMailboxes.mailbox {m x : Nat} (h : OtherMailboxes m s t) (hx : x < 256) (hne : x ≠ m) :
    t.reg .MBX_NOTICE_LOW x = s.reg .MBX_NOTICE_LOW x ∧ t.reg .MBX_NOTICE_HIGH x = s.reg .MBX_NOTICE_HIGH x ∧
      t.reg .MBX_STATUS x = s.reg .MBX_STATUS x ∧ t.mbx.snap.get x = s.mbx.snap.get x :=
  ⟨h.copies.reg _ (by decide) x (Reg.hasCopy_noticeLow hx) hne, h.copies.reg _ (by decide) x (Reg.hasCopy_noticeHigh hx) hne,
    h.copies.reg _ (by decide) x (Reg.hasCopy_mbxStatus hx) hne, h.snap x hne⟩

theorem OtherMailboxes.of_regsBut {m : Nat} {l : List Reg} (h : RegsBut l s t) (hl : ∀ r ∈ mailboxRegs, r ∉ l) (hmbx : t.mbx.snap = s.mbx.snap) :
    OtherMailboxes m s t := ⟨.of_regsBut h hl, fun x _ => by rw [hmbx]⟩

theorem OtherMailboxes.trans {m : Nat} (h : OtherMailboxes m s t) (g : OtherMailboxes m t u) : OtherMailboxes m s u :=
  ⟨h.copies.trans g.copies, fun x hne => (g.snap x hne).trans (h.snap x hne)⟩

/-! ### MSI-X vectors follow the doorbells -/

/-- What a change of the host interface and a count of messages keep, the vectors keep when they follow their conditions (R479). -/
theorem msixUpdate_keeps {P : Dev → Prop} (hhost : ∀ s h, P s → P { s with host := h }) (hcount : ∀ s, P s → P (s.count .HST_MSIX_CNT)) (hs : P s) :
    P s.msixUpdate := by
  refine each_keeps (fun v _ u hu => ?_) s hs
  unfold Dev.msixVector
  dsimp only
  split
  · exact hu
  split
  · exact hhost _ _ hu
  split
  · exact hcount _ (hhost _ _ hu)
  · exact hhost _ _ (hhost _ _ hu)

theorem RegsBut.msixUpdate {l : List Reg} (h : RegsBut l s t) (hl : .HST_MSIX_CNT ∈ l) : RegsBut l s t.msixUpdate :=
  msixUpdate_keeps (fun _ _ h => h.trans (.of_regs rfl)) (fun _ h => h.count Reg.hasCopy_hstMsixCnt hl) h

theorem msixUpdate_mem (s : Dev) : s.msixUpdate.mem = s.mem := msixUpdate_keeps (P := fun t => t.mem = s.mem) (fun _ _ h => h) (fun _ h => h) rfl

end Dev

end Sys2Proof.Machine
end

section
/-! Posts, takes and flushes of notices (O47, R192 to R198). -/

namespace Sys2Proof.Machine

namespace Dev
variable {s t : Dev} {m mid ctx : Nat}

/-! ### Posts -/

theorem mbxCommit_accepts {hi : Nat} (hlen : bits hi 23 8 ≠ 0) (hfull : s.flag .MBX_STATUS_FULL m = false) : s.mbxCommit m mid ctx hi =
    ((s.mbxStore m mid ctx ((s.mbx.low.get (mbxKey mid ctx)).getD 0#32).toNat hi).count .MBX_POST_CNT).mbxResult mid ctx 1 := by
  rw [Dev.mbxCommit, if_neg hlen, hfull, if_neg Bool.false_ne_true]

/-- A refused commit counts and spends the staged low word (R193). -/
theorem mbxCommit_refuses {hi : Nat} (h : bits hi 23 8 = 0 ∨ s.flag .MBX_STATUS_FULL m = true) : ∃ r ∈ [Reg.MBX_MISUSE_CNT, .MBX_POST_REFUSE_CNT],
    s.mbxCommit m mid ctx hi = (s.count r).mbxResult mid ctx (if bits hi 23 8 = 0 then 3 else 2) := by
  by_cases hlen : bits hi 23 8 = 0
  · refine ⟨.MBX_MISUSE_CNT, by decide, ?_⟩
    rw [Dev.mbxCommit, if_pos hlen, if_pos hlen]
    rfl
  · refine ⟨.MBX_POST_REFUSE_CNT, by decide, ?_⟩
    rw [Dev.mbxCommit, if_neg hlen, if_neg hlen, if_pos (h.resolve_left hlen)]

theorem mbxResult_low (s : Dev) (mid ctx r : Nat) : (s.mbxResult mid ctx r).mbx.low.get (mbxKey mid ctx) = none :=
  Tab.get_set_same s.mbx.low (mbxKey mid ctx) none

theorem mbxResult_postRes (s : Dev) (mid ctx r : Nat) : (s.mbxResult mid ctx r).mbx.postRes.get (mbxKey mid ctx) = r :=
  Tab.get_set_same s.mbx.postRes _ _

/-- Mailbox `m` holds this notice of this poster. -/
structure Holds (m mid ctx lo hi : Nat) (t : Dev) : Prop where
  low : t.reg .MBX_NOTICE_LOW m = lo
  high : t.reg .MBX_NOTICE_HIGH m = hi
  full : t.flag .MBX_STATUS_FULL m = true
  senderMid : t.fld .MBX_STATUS_SENDER_MID m = mid
  senderCtx : t.fld .MBX_STATUS_SENDER_CTX m = ctx

theorem Holds.of_regsBut {l : List Reg} {lo hi : Nat} (h : Holds m mid ctx lo hi s) (hst : RegsBut l s t) (hm : m < 256)
    (hl : ∀ r ∈ mailboxRegs, r ∉ l) : Holds m mid ctx lo hi t := by
  have hstatus : .MBX_STATUS ∉ l := hl _ (by decide)
  exact ⟨(hst.reg _ _ _ _ (Reg.hasCopy_noticeLow hm) (hl _ (by decide))).trans h.low,
    (hst.reg _ _ _ _ (Reg.hasCopy_noticeHigh hm) (hl _ (by decide))).trans h.high,
    (hst.flag (Reg.hasCopy_mbxStatus hm) hstatus).trans h.full,
    (hst.fld (Reg.hasCopy_mbxStatus hm) hstatus).trans h.senderMid, (hst.fld (Reg.hasCopy_mbxStatus hm) hstatus).trans h.senderCtx⟩

theorem mbxStore_holds (s : Dev) (hm : m < 256) (hmid : mid < 256) (hctx : ctx < 4) {lo hi : Nat} (hlo : lo < 2 ^ 32) (hhi : hi < 2 ^ 32) :
    Holds m mid ctx lo hi (s.mbxStore m mid ctx lo hi) := by
  have hstatus := Reg.hasCopy_mbxStatus hm
  unfold Dev.mbxStore
  set words := (s.setReg .MBX_NOTICE_LOW lo m).setReg .MBX_NOTICE_HIGH hi m
  set full := words.setFlag .MBX_STATUS_FULL true m
  set posted := full.setFld .MBX_STATUS_SENDER_MID mid m
  have hwords : RegsBut [.MBX_STATUS] words (posted.setFld .MBX_STATUS_SENDER_CTX ctx m) :=
    (((RegsBut.refl _).setFlag hstatus (by decide)).setFld hstatus (by decide)).setFld hstatus (by decide)
  have hctxBeside (q : Fld) (hq : q.reg = .MBX_STATUS) (hlo : 9 < q.lo ∨ q.hi < 8) :
      (posted.setFld .MBX_STATUS_SENDER_CTX ctx m).fld q m = posted.fld q m :=
    fld_setFld_beside posted (f := .MBX_STATUS_SENDER_CTX) (by decide) (by decide) hq hlo.symm ctx m 0 0
  have hmidBeside : posted.fld .MBX_STATUS_FULL m = full.fld .MBX_STATUS_FULL m :=
    fld_setFld_beside full (f := .MBX_STATUS_SENDER_MID) (q := .MBX_STATUS_FULL) (by decide) (by decide) rfl (by decide) ..
  have hfull : full.flag .MBX_STATUS_FULL m = true := flag_setFlag_same words .MBX_STATUS_FULL rfl (by decide) ..
  have hsenderMid : posted.fld .MBX_STATUS_SENDER_MID m = mid % 256 := fld_setFld_same full .MBX_STATUS_SENDER_MID (by decide) (by decide) ..
  have hsenderCtx : (posted.setFld .MBX_STATUS_SENDER_CTX ctx m).fld .MBX_STATUS_SENDER_CTX m = ctx % 4 :=
    fld_setFld_same posted .MBX_STATUS_SENDER_CTX (by decide) (by decide) ..
  refine ⟨?_, ?_, ?_, ?_, hsenderCtx.trans (Nat.mod_eq_of_lt hctx)⟩
  · rw [hwords.reg _ _ _ _ (Reg.hasCopy_noticeLow hm) (by decide),
      reg_setReg_apart _ (Reg.hasCopy_noticeLow hm) (Reg.hasCopy_noticeHigh hm) (by decide), reg_setReg_same, Nat.mod_eq_of_lt hlo]
  · rw [hwords.reg _ _ _ _ (Reg.hasCopy_noticeHigh hm) (by decide), reg_setReg_same, Nat.mod_eq_of_lt hhi]
  · rwa [Dev.flag, hctxBeside .MBX_STATUS_FULL rfl (by decide), hmidBeside]
  · rw [hctxBeside .MBX_STATUS_SENDER_MID rfl (by decide), hsenderMid, Nat.mod_eq_of_lt hmid]

theorem regsBut_mbxStore (s : Dev) (hm : m < 256) (lo hi : Nat) : RegsBut mailboxRegs s (s.mbxStore m mid ctx lo hi) :=
  have hstatus := Reg.hasCopy_mbxStatus hm
  (((((RegsBut.refl s).setReg (Reg.hasCopy_noticeLow hm) (by decide)).setReg (Reg.hasCopy_noticeHigh hm) (by decide)).setFlag hstatus
    (by decide)).setFld hstatus (by decide)).setFld hstatus (by decide)

theorem otherMailboxes_mbxStore (s : Dev) (hm : m < 256) (lo hi : Nat) : OtherMailboxes m s (s.mbxStore m mid ctx lo hi) :=
  have hstatus := Reg.hasCopy_mbxStatus hm
  ⟨((((CopiesBut.refl s).setReg (Reg.hasCopy_noticeLow hm)).setReg (Reg.hasCopy_noticeHigh hm)).setFlag hstatus).setFld hstatus |>.setFld hstatus,
    fun _ _ => rfl⟩

/-- What an accepted post leaves (R192). -/
structure Posted (m mid ctx hi : Nat) (s t : Dev) : Prop where
  holds : Holds m mid ctx ((s.mbx.low.get (mbxKey mid ctx)).getD 0#32).toNat hi t
  counted : t.reg .MBX_POST_CNT = min (s.reg .MBX_POST_CNT + 1) 0xFFFFFFFF
  spent : t.mbx.low.get (mbxKey mid ctx) = none
  result : t.mbx.postRes.get (mbxKey mid ctx) = 1
  others : OtherMailboxes m s t
  mem : t.mem = s.mem

theorem mbxCommit_posted {hi : Nat} (hlen : bits hi 23 8 ≠ 0) (hfull : s.flag .MBX_STATUS_FULL m = false) (hm : m < 256) (hmid : mid < 256)
    (hctx : ctx < 4) (hhi : hi < 2 ^ 32) : Posted m mid ctx hi s (s.mbxCommit m mid ctx hi) := by
  have hapart : ∀ r ∈ mailboxRegs, r ∉ [Reg.MBX_POST_CNT] := by decide
  rw [mbxCommit_accepts hlen hfull]
  set lo := ((s.mbx.low.get (mbxKey mid ctx)).getD 0#32).toNat
  have hholds := mbxStore_holds s hm hmid hctx (lo := lo) (BitVec.isLt _) hhi
  have hbefore := (regsBut_mbxStore s hm lo hi (mid := mid) (ctx := ctx)).reg _ _ _ _ Reg.hasCopy_mbxPostCnt (by decide)
  have hothers := otherMailboxes_mbxStore s hm lo hi (mid := mid) (ctx := ctx)
  have hmem : (s.mbxStore m mid ctx lo hi).mem = s.mem := rfl
  generalize s.mbxStore m mid ctx lo hi = stored at *
  have hcount : RegsBut [.MBX_POST_CNT] stored ((stored.count .MBX_POST_CNT).mbxResult mid ctx 1) :=
    (RegsBut.count (.refl _) Reg.hasCopy_mbxPostCnt (by decide)).trans (.of_regs rfl)
  have hcounted : (stored.count .MBX_POST_CNT).reg .MBX_POST_CNT = min (s.reg .MBX_POST_CNT + 1) 0xFFFFFFFF := by rw [reg_count_same, hbefore]
  exact {
    holds := hholds.of_regsBut hcount hm hapart
    counted := hcounted
    spent := mbxResult_low ..
    result := mbxResult_postRes ..
    others := hothers.trans (.of_regsBut hcount hapart rfl)
    mem := hmem }

/-- What a refused post leaves: its mailbox as it was (R193). -/
structure PostRefused (mid ctx r : Nat) (s t : Dev) : Prop where
  regs : RegsBut [.MBX_MISUSE_CNT, .MBX_POST_REFUSE_CNT] s t
  spent : t.mbx.low.get (mbxKey mid ctx) = none
  result : t.mbx.postRes.get (mbxKey mid ctx) = r
  snap : t.mbx.snap = s.mbx.snap
  mem : t.mem = s.mem

theorem mbxCommit_postRefused {hi : Nat} (h : bits hi 23 8 = 0 ∨ s.flag .MBX_STATUS_FULL m = true) :
    PostRefused mid ctx (if bits hi 23 8 = 0 then 3 else 2) s (s.mbxCommit m mid ctx hi) := by
  obtain ⟨r, hr, hcommit⟩ := mbxCommit_refuses (mid := mid) (ctx := ctx) h
  have hcopy : r.HasCopy 0 0 0 := by
    rcases List.mem_pair.mp hr with rfl | rfl
    · exact Reg.hasCopy_mbxMisuseCnt
    · exact Reg.hasCopy_mbxPostRefuseCnt
  rw [hcommit]
  exact ⟨((RegsBut.refl s).count hcopy hr).trans (.of_regs rfl), mbxResult_low .., mbxResult_postRes .., rfl, rfl⟩

/-! ### Takes -/

theorem mbxReadLow_full (hrecv : s.isReceiver m mid ctx = true) (hfull : s.flag .MBX_STATUS_FULL m = true) :
    s.mbxReadLow m mid ctx = (s.reg .MBX_NOTICE_LOW m, s.mbxSnap m (.notice mid ctx)) := by
  simp [Dev.mbxReadLow, hrecv, hfull]

theorem mbxReadHigh_snapshot (hrecv : s.isReceiver m mid ctx = true) (hsnap : s.mbx.snap.get m = .notice mid ctx) :
    s.mbxReadHigh m mid ctx = (s.reg .MBX_NOTICE_HIGH m, ((s.setFlag .MBX_STATUS_FULL false m).mbxSnap m .none).takenRing m) := by
  simp [Dev.mbxReadHigh, hrecv, hsnap]

theorem mbxReadHigh_none (hrecv : s.isReceiver m mid ctx = true) (hsnap : s.mbx.snap.get m = .none) :
    s.mbxReadHigh m mid ctx = (0, s.misuse .MBX) := by
  simp [Dev.mbxReadHigh, hrecv, hsnap]

/-- Mailbox `m` is empty, no snapshot of it stands, and no other mailbox has changed. -/
structure Emptied (m : Nat) (s t : Dev) : Prop where
  empty : t.flag .MBX_STATUS_FULL m = false
  snap : t.mbx.snap.get m = .none
  others : OtherMailboxes m s t
  mem : t.mem = s.mem

theorem emptied_of_clear (s : Dev) (hm : m < 256) : Emptied m s ((s.setFlag .MBX_STATUS_FULL false m).mbxSnap m .none) where
  empty := flag_setFlag_same s .MBX_STATUS_FULL rfl (by decide) ..
  snap := Tab.get_set_same s.mbx.snap m Snap.none
  others := ⟨((CopiesBut.refl s).setFlag (Reg.hasCopy_mbxStatus hm)).trans (.of_regs rfl), fun _ hne => Tab.get_set_other s.mbx.snap Snap.none hne⟩
  mem := rfl

theorem Emptied.of_regsBut {l : List Reg} {u : Dev} (h : Emptied m s t) (hm : m < 256) (htu : RegsBut l t u) (hl : ∀ r ∈ mailboxRegs, r ∉ l)
    (hmbx : u.mbx = t.mbx) (hmem : u.mem = t.mem) : Emptied m s u where
  empty := (htu.flag (Reg.hasCopy_mbxStatus hm) (hl _ (by decide))).trans h.empty
  snap := hmbx ▸ h.snap
  others := h.others.trans (.of_regsBut htu hl (congrArg (·.snap) hmbx))
  mem := hmem.trans h.mem

theorem Emptied.after {u : Dev} (h : Emptied m t u) (hst : OtherMailboxes m s t) (hmem : t.mem = s.mem) : Emptied m s u where
  empty := h.empty
  snap := h.snap
  others := hst.trans h.others
  mem := h.mem.trans hmem

theorem regsBut_clear (s : Dev) (hm : m < 256) : RegsBut [.MBX_STATUS] s ((s.setFlag .MBX_STATUS_FULL false m).mbxSnap m .none) :=
  ((RegsBut.refl s).setFlag (Reg.hasCopy_mbxStatus hm) (by decide)).trans (.of_regs rfl)

theorem ringMask_mbx (s : Dev) (t mask : Nat) : (s.ringMask t mask).mbx = s.mbx := by rw [Dev.ringMask_frame]

/-- The TAKEN doorbell leaves the mailboxes (R195). -/
theorem Emptied.takenRing (h : Emptied m s t) (hm : m < 256) : Emptied m s (t.takenRing m) :=
  when_keeps (fun u hu => hu.of_regsBut hm ((RegsBut.refl u).ringMask (bits_lt _ 14 10) (List.Subset.refl _)) (by decide) (ringMask_mbx ..)
    (ringMask_mem ..)) t h

/-! ### Flushes -/

/-- Patrol's write of MBX_FLUSH empties a full mailbox and is counted (R198). -/
theorem mbxWrite_flush (hm : m < 256) (hfull : s.flag .MBX_STATUS_FULL m = true) :
    Emptied m s (s.mbxWrite .MBX_FLUSH 0 0x40 ctx m) ∧
      (s.mbxWrite .MBX_FLUSH 0 0x40 ctx m).reg .MBX_FORCE_CNT = min (s.reg .MBX_FORCE_CNT + 1) 0xFFFFFFFF := by
  set named := s.plain .MBX_FLUSH m with hnamed
  have hplain : RegsBut [.MBX_FLUSH, .MBX_MISUSE_CNT] s named :=
    (RegsBut.refl s).plain Reg.hasCopy_mbxFlush Reg.hasCopy_mbxMisuseCnt (by decide) (by decide)
  have hmbx : named.mbx = s.mbx := by rw [hnamed, plain_frame]
  have hfull' : (named.mbxSnap m .none).flag .MBX_STATUS_FULL m = true := (hplain.flag (Reg.hasCopy_mbxStatus hm) (by decide)).trans hfull
  have hflush : s.mbxWrite .MBX_FLUSH 0 0x40 ctx m = ((named.setFlag .MBX_STATUS_FULL false m).mbxSnap m .none).count .MBX_FORCE_CNT := by
    change named.mbxFlush (bits m 7 0) = _
    rw [bits_of_lt hm, Dev.mbxFlush]
    exact if_pos hfull'
  have hcleared := (emptied_of_clear named hm)
  have hcount := (regsBut_clear named hm).reg _ _ _ _ Reg.hasCopy_mbxForceCnt (by decide)
  rw [hflush]
  generalize (named.setFlag .MBX_STATUS_FULL false m).mbxSnap m .none = cleared at *
  have hcounted : RegsBut [.MBX_FORCE_CNT] cleared (cleared.count .MBX_FORCE_CNT) := .count (.refl _) Reg.hasCopy_mbxForceCnt (by decide)
  refine ⟨(hcleared.of_regsBut hm hcounted (by decide) rfl rfl).after ?_ ?_, ?_⟩
  · exact .of_regsBut hplain (by decide) (congrArg (·.snap) hmbx)
  · exact plain_mem ..
  · rw [reg_count_same, hcount, hplain.reg _ _ _ _ Reg.hasCopy_mbxForceCnt (by decide)]

end Dev

end Sys2Proof.Machine
end

section
/-! Doorbells, MSI-X messages and locks (O47, R199 to R204, R479). -/

namespace Sys2Proof.Machine

namespace Dev
variable {s t : Dev}

/-! ### Doorbells -/

/-- The bits named are rung at one target, and those that were 1 are counted (R199). -/
theorem ringMask_rings {n : Nat} (hn : n < 32) (s : Dev) {mask : Nat} (hmask : mask < 2 ^ 32) :
    (s.ringMask n mask).reg .MBX_DB n = s.reg .MBX_DB n ||| mask ∧ CopiesBut [.MBX_DB] n s (s.ringMask n mask) ∧
      (s.ringMask n mask).reg .MBX_DB_COAL_CNT =
        min (s.reg .MBX_DB_COAL_CNT + ((List.range 32).filter fun b => bit mask b && bit (s.reg .MBX_DB n) b).length) 0xFFFFFFFF := by
  have hdb := Reg.hasCopy_mbxDb hn
  have hor : s.reg .MBX_DB n ||| mask < 2 ^ 32 := Nat.or_lt_two_pow (s.reg_lt ..) hmask
  unfold Dev.ringMask
  extract_lets old coal
  set counted := s.countBy coal .MBX_DB_COAL_CNT
  have hcount : RegsBut [.MBX_DB_COAL_CNT] s counted := .countBy (.refl s) Reg.hasCopy_mbxDbCoalCnt (by decide)
  have hcoal : counted.reg .MBX_DB_COAL_CNT = min (s.reg .MBX_DB_COAL_CNT + coal) 0xFFFFFFFF := s.reg_countBy_same ..
  have hmsix : RegsBut [.HST_MSIX_CNT] (counted.setReg .MBX_DB (old ||| mask) n) (counted.setReg .MBX_DB (old ||| mask) n).msixUpdate :=
    .msixUpdate (.refl _) (by decide)
  refine ⟨?_, ?_, ?_⟩
  · rw [hmsix.reg _ _ _ _ hdb (by decide), reg_setReg_same, Nat.mod_eq_of_lt hor]
  · exact ((CopiesBut.of_regsBut hcount (by decide)).setReg hdb).trans (.of_regsBut hmsix (by decide))
  · rw [hmsix.reg _ _ _ _ Reg.hasCopy_mbxDbCoalCnt (by decide), reg_setReg_apart _ Reg.hasCopy_mbxDbCoalCnt hdb (by decide), hcoal]

/-- A word of one field that a 1 clears. -/
theorem writeWord_w1c (f : FieldInfo) (hacc : f.acc = .w1c) (hhi : f.hi = 31) (hlo : f.lo = 0) {w v : Nat} (hw : w < 2 ^ 32) (hv : v < 2 ^ 32) :
    (writeWord [f] (fun _ => false) w v).1 = w &&& (2 ^ 32 - 1 - v) := by
  have hwritable : ¬∀ g ∈ [f], g.acc = .ro := by simp [hacc]
  have hand : w &&& (2 ^ 32 - 1 - v) < 2 ^ 32 := Nat.lt_of_le_of_lt Nat.and_le_left hw
  rw [writeWord_writable hwritable, writeFields_cons]
  simp only [writeFields, FieldInfo.put, FieldInfo.after, hacc, hhi, hlo, bits_of_lt hw, bits_of_lt hv]
  exact putBits_word hw hand

/-- The bits written as 1 are cleared at one target (R199). -/
theorem mbxWrite_doorbell {n : Nat} (hn : n < 32) (s : Dev) (mid ctx : Nat) {v : Nat} (hv : v < 2 ^ 32) :
    (s.mbxWrite .MBX_DB n mid ctx v).reg .MBX_DB n = s.reg .MBX_DB n &&& (2 ^ 32 - 1 - v) ∧
      CopiesBut [.MBX_DB] n s (s.mbxWrite .MBX_DB n mid ctx v) ∧ (s.mbxWrite .MBX_DB n mid ctx v).mem = s.mem := by
  have hdb := Reg.hasCopy_mbxDb hn
  have hmsix : RegsBut [.HST_MSIX_CNT] (s.plain .MBX_DB v n) (s.mbxWrite .MBX_DB n mid ctx v) := .msixUpdate (.refl _) (by decide)
  have hword := writeWord_w1c ⟨31, 0, .w1c, 0, 48, .any⟩ rfl rfl rfl (s.reg_lt .MBX_DB n 0 0) hv
  have hand : s.reg .MBX_DB n &&& (2 ^ 32 - 1 - v) < 2 ^ 32 := Nat.lt_of_le_of_lt Nat.and_le_left (s.reg_lt ..)
  refine ⟨?_, ?_, (msixUpdate_mem _).trans (plain_mem ..)⟩
  · rw [hmsix.reg _ _ _ _ hdb (by decide), plain_reg_same s hdb Reg.hasCopy_mbxMisuseCnt (by decide)]
    exact (congrArg (· % 2 ^ 32) hword).trans (Nat.mod_eq_of_lt hand)
  · exact ((CopiesBut.refl s).plain hdb Reg.hasCopy_mbxMisuseCnt (by decide)).trans (.of_regsBut hmsix (by decide))

/-! ### MSI-X messages -/

/-- The pending bit of a vector is cleared. -/
def pendingCleared (n : Nat) (s : Dev) : Dev := s.updHost fun h => { h with pba := putBit h.pba n false }

/-- The one pending vector that is not masked sends its message, or drops it where its condition has gone (R479). -/
theorem msixRelease_one {n : Nat} (hn : n < 32) (hpending : bit s.host.pba n = true) (honly : ∀ x < 32, x ≠ n → bit s.host.pba x = false)
    (hvec : bit s.host.unmasked n = true) (hfn : s.host.fnMask = false) : s.msixRelease =
      if s.msixCond n then (s.pendingCleared n).count .HST_MSIX_CNT else s.pendingCleared n := by
  have hone : ((List.range 32).filter fun v => bit s.host.pba v && bit s.host.unmasked v && !s.host.fnMask) = [n] := by
    have hcongr : ∀ x ∈ List.range 32, (bit s.host.pba x && bit s.host.unmasked x && !s.host.fnMask) = (x == n) := by
      intro x hx
      by_cases hxn : x = n
      · simp [hxn, hpending, hvec, hfn]
      · simp [hxn, honly x (List.mem_range.mp hx) hxn]
    rw [List.filter_congr hcongr, List.filter_beq, List.count_eq_one_of_mem List.nodup_range (List.mem_range.mpr hn)]
    rfl
  rw [Dev.msixRelease, hone]
  rfl

/-- What the release of vector `n` leaves. -/
structure Released (n : Nat) (s t : Dev) : Prop where
  pending : bit t.host.pba n = false
  unmasked : t.host.unmasked = s.host.unmasked
  fnMask : t.host.fnMask = s.host.fnMask
  counted : t.reg .HST_MSIX_CNT = min (s.reg .HST_MSIX_CNT + b2n (s.msixCond n)) 0xFFFFFFFF
  mem : t.mem = s.mem

theorem msixRelease_released {n : Nat} (hn : n < 32) (hpending : bit s.host.pba n = true) (honly : ∀ x < 32, x ≠ n → bit s.host.pba x = false)
    (hvec : bit s.host.unmasked n = true) (hfn : s.host.fnMask = false) : Released n s s.msixRelease := by
  rw [msixRelease_one hn hpending honly hvec hfn]
  have hbit : bit (s.pendingCleared n).host.pba n = false := bit_putBit_same ..
  cases hcond : s.msixCond n with
  | true => exact ⟨hbit, rfl, rfl, by rw [hcond]; exact (s.pendingCleared n).reg_count_same .., rfl⟩
  | false => exact ⟨hbit, rfl, rfl, by rw [hcond]; exact (Nat.min_eq_left (Nat.le_of_lt_succ (s.reg_lt ..))).symm, rfl⟩

/-! ### Locks -/

theorem lockRead_held {n mid : Nat} (h : s.flag .MBX_LOCK_HELD n = true) :
    s.lockRead n mid = (0x80000000 + s.fld .MBX_LOCK_OWNER n, s) := if_pos h

theorem lockRead_free {n mid : Nat} (h : s.flag .MBX_LOCK_HELD n = false) :
    s.lockRead n mid = (0, s.setReg .MBX_LOCK (0x80000000 + mid) n) := if_neg (by simp [h])

/-- A lock that is taken has its owner (R201). -/
theorem lock_owned (s : Dev) (n : Nat) {mid : Nat} (hmid : mid < 256) :
    let t := s.setReg .MBX_LOCK (0x80000000 + mid) n
    t.flag .MBX_LOCK_HELD n = true ∧ t.fld .MBX_LOCK_OWNER n = mid := by
  intro t
  have hreg : t.reg .MBX_LOCK n = 0x80000000 + mid := (s.reg_setReg_same ..).trans (Nat.mod_eq_of_lt (by omega))
  have hheld : bits (0x80000000 + mid) 31 31 = 1 := by unfold bits; omega
  have howner : bits (0x80000000 + mid) 7 0 = mid := by unfold bits; omega
  exact ⟨(congrArg (bits · 31 31 != 0) hreg).trans (by rw [hheld]; rfl), (congrArg (bits · 7 0) hreg).trans howner⟩

theorem lock_free (s : Dev) (n : Nat) : (s.setReg .MBX_LOCK 0 n).flag .MBX_LOCK_HELD n = false :=
  congrArg (bits · 31 31 != 0) (s.reg_setReg_same .MBX_LOCK 0 n 0 0)

/-- Patrol's write of MBX_LOCK_FORCE frees a held lock and is counted (R204). -/
theorem mbxWrite_lockForce {n ctx : Nat} (hn : n < 256) (hheld : s.flag .MBX_LOCK_HELD n = true) :
    let t := s.mbxWrite .MBX_LOCK_FORCE 0 0x40 ctx n
    t.flag .MBX_LOCK_HELD n = false ∧ t.reg .MBX_FORCE_CNT = min (s.reg .MBX_FORCE_CNT + 1) 0xFFFFFFFF ∧ CopiesBut [.MBX_LOCK] n s t ∧
      t.mem = s.mem := by
  intro t
  have hlock := Reg.hasCopy_mbxLock hn
  set named := s.plain .MBX_LOCK_FORCE n with hnamed
  have hplain : RegsBut [.MBX_LOCK_FORCE, .MBX_MISUSE_CNT] s named :=
    (RegsBut.refl s).plain Reg.hasCopy_mbxLockForce Reg.hasCopy_mbxMisuseCnt (by decide) (by decide)
  have hforce : t = (named.setReg .MBX_LOCK 0 n).count .MBX_FORCE_CNT := by
    change named.lockForce (bits n 7 0) = _
    rw [bits_of_lt hn]
    exact if_pos ((hplain.flag hlock (by decide)).trans hheld)
  have hcount : RegsBut [.MBX_FORCE_CNT] (named.setReg .MBX_LOCK 0 n) t :=
    hforce ▸ RegsBut.count (.refl _) Reg.hasCopy_mbxForceCnt (by decide)
  refine ⟨?_, ?_, ?_, ?_⟩
  · exact (hcount.flag hlock (by decide)).trans (named.lock_free n)
  · rw [hforce, reg_count_same, reg_setReg_apart _ Reg.hasCopy_mbxForceCnt hlock (by decide),
      hplain.reg _ _ _ _ Reg.hasCopy_mbxForceCnt (by decide)]
  · exact ((CopiesBut.of_regsBut hplain (by decide)).setReg hlock).trans (.of_regsBut hcount (by decide))
  · rw [hforce]
    exact plain_mem ..

end Dev

/-! ### The rows -/

section
variable (s : State) (who : Agent) (m : Fin 256) (n : Fin 32) (v : Word)

theorem exec_noticeLowWrite_eq : exec (.noticeLowWrite who m v) s = .next (s.withDev (s.dev.rowWrite who .MBX_NOTICE_LOW v.toNat m)) := rfl

theorem exec_postCommit_eq : exec (.postCommit who m v) s = .next (s.withDev (s.dev.rowWrite who .MBX_NOTICE_HIGH v.toNat m)) := rfl

theorem exec_noticeSnapshot_eq : exec (.noticeSnapshot who m) s = .next (s.withDev (s.dev.rowRead who .MBX_NOTICE_LOW m)) := rfl

theorem exec_noticeTake_eq : exec (.noticeTake who m) s = .next (s.withDev (s.dev.rowRead who .MBX_NOTICE_HIGH m)) := rfl

theorem exec_mailboxFlush_eq : exec (.mailboxFlush who m) s = .next (s.withDev (s.dev.rowWrite who .MBX_FLUSH m)) := rfl

theorem exec_doorbellSet_eq : exec (.doorbellSet who n v) s = .next (s.withDev (s.dev.rowWrite who .MBX_DB_SET v.toNat n)) := rfl

theorem exec_doorbellClear_eq : exec (.doorbellClear who n v) s = .next (s.withDev (s.dev.rowWrite who .MBX_DB v.toNat n)) := rfl

theorem exec_msixUnmask_eq (x : Option (Fin 32)) : exec (.msixUnmask x) s = .next (s.withDev (s.dev.msixUnmask (x.map Fin.val))) := rfl

theorem exec_lockAcquire_eq : exec (.lockAcquire who m) s = .next (s.withDev (s.dev.rowRead who .MBX_LOCK m)) := rfl

theorem exec_lockRelease_eq : exec (.lockRelease who m v) s = .next (s.withDev (s.dev.rowWrite who .MBX_LOCK v.toNat m)) := rfl

theorem exec_lockForce_eq : exec (.lockForce who m) s = .next (s.withDev (s.dev.rowWrite who .MBX_LOCK_FORCE m)) := rfl

end

/-- Settles O47: each row that reaches the MBX page is the page's own operation, which changes the named mailbox, target or lock alone, and the
release of an unmasked vector is that of the one pending bit. -/
theorem mailboxRowsComplete : Obligations.MailboxRowsComplete := by
  unfold Obligations.MailboxRowsComplete
  intro who m v s d k run more others
  have hm := m.isLt
  have hmid := who.mid_lt
  refine ⟨?stage, ?post, ?snapshot, ?take, ?flush, fun t => ⟨?ring, ?clear, ?vector, ?function⟩, ?acquire, ?release, ?force⟩
  case stage =>
    intro hwho
    exact (exec_noticeLowWrite_eq s who m v).trans (next_congr (Dev.rowWrite_mbx rfl rfl hwho _))
  case post =>
    intro hwho
    have hexec := (exec_postCommit_eq s who m v).trans (next_congr (Dev.rowWrite_mbx rfl rfl hwho _))
    refine ⟨fun hlen hfull => ?_, fun href => ?_⟩
    · have hposted := Dev.mbxCommit_posted hlen hfull hm hmid who.ctx_lt v.isLt
      have hholds := hposted.holds
      exact ⟨_, hexec, rfl, hposted.mem, hholds.low, hholds.high, hholds.full, hholds.senderMid, hholds.senderCtx, hposted.counted, hposted.spent,
        hposted.result, fun _ hx hne => hposted.others.mailbox hx hne⟩
    · have hrefused := Dev.mbxCommit_postRefused (mid := who.mid) (ctx := who.ctx) href
      have hsame := hrefused.regs
      have hkept : Dev.OtherMailboxes m d _ := .of_regsBut hsame (by decide) hrefused.snap
      exact ⟨_, hexec, rfl, hrefused.mem, hsame.reg _ _ _ _ (Reg.hasCopy_noticeLow hm) (by decide),
        hsame.reg _ _ _ _ (Reg.hasCopy_noticeHigh hm) (by decide), hsame.reg _ _ _ _ (Reg.hasCopy_mbxStatus hm) (by decide), hrefused.spent,
        hrefused.result, fun _ hx hne => hkept.mailbox hx hne⟩
  case snapshot =>
    intro hwho hrecv hfull
    have hread : d.mbxRead .MBX_NOTICE_LOW m who.mid who.ctx = _ := Dev.mbxReadLow_full hrecv hfull
    exact (exec_noticeSnapshot_eq s who m).trans (next_congr ((Dev.rowRead_mbx rfl rfl hwho).trans (by rw [hread])))
  case take =>
    intro hwho hrecv
    have hexec := (exec_noticeTake_eq s who m).trans (next_congr (Dev.rowRead_mbx rfl rfl hwho))
    refine ⟨fun hsnap => ?_, fun hsnap => ?_⟩
    · have hread : d.mbxRead .MBX_NOTICE_HIGH m who.mid who.ctx = _ := Dev.mbxReadHigh_snapshot hrecv hsnap
      have htaken := (Dev.emptied_of_clear d hm).takenRing hm
      rw [hread] at hexec
      exact ⟨_, hexec, rfl, htaken.mem, d.toNat_word_reg .., htaken.empty, htaken.snap, fun _ hx hne => htaken.others.mailbox hx hne⟩
    · have hread : d.mbxRead .MBX_NOTICE_HIGH m who.mid who.ctx = _ := Dev.mbxReadHigh_none hrecv hsnap
      have hmisuse : Dev.RegsBut [.MBX_MISUSE_CNT] d (d.misuse .MBX) := .count (.refl d) Reg.hasCopy_mbxMisuseCnt (by decide)
      have hkept : Dev.OtherMailboxes m d (d.misuse .MBX) := .of_regsBut hmisuse (by decide) rfl
      rw [hread] at hexec
      exact ⟨_, hexec, rfl, rfl, rfl, d.reg_count_same .., hmisuse.reg _ _ _ _ (Reg.hasCopy_mbxStatus hm) (by decide),
        fun _ hx hne => hkept.mailbox hx hne⟩
  case flush =>
    intro hwho hpat hfull
    obtain ⟨hemptied, hcounted⟩ := Dev.mbxWrite_flush (ctx := who.ctx) hm hfull
    have hexec := (exec_mailboxFlush_eq s who m).trans (next_congr (Dev.rowWrite_mbx rfl rfl hwho _))
    rw [hpat] at hexec
    exact ⟨_, hexec, rfl, hemptied.mem, hemptied.empty, hemptied.snap, hcounted, fun _ hx hne => hemptied.others.mailbox hx hne⟩
  case ring =>
    intro hwho
    obtain ⟨hrung, hkept, hcounted⟩ := Dev.ringMask_rings t.isLt d v.isLt
    exact ⟨_, (exec_doorbellSet_eq s who t v).trans (next_congr (Dev.rowWrite_mbx rfl rfl hwho _)), rfl, Dev.ringMask_mem .., hrung,
      fun x hx hne => hkept.reg _ List.mem_cons_self x (Reg.hasCopy_mbxDb hx) hne, hcounted⟩
  case clear =>
    intro hwho
    obtain ⟨hcleared, hkept, hmem⟩ := Dev.mbxWrite_doorbell t.isLt d who.mid who.ctx v.isLt
    exact ⟨_, (exec_doorbellClear_eq s who t v).trans (next_congr (Dev.rowWrite_mbx rfl rfl hwho _)), rfl, hmem, hcleared,
      fun x hx hne => hkept.reg _ List.mem_cons_self x (Reg.hasCopy_mbxDb hx) hne⟩
  case vector =>
    intro hup hfn hpending honly
    set e := d.updHost fun h => { h with unmasked := putBit h.unmasked t true }
    have hunmask : d.msixUnmask (some t.val) = e.msixRelease := if_neg (by simp [hup])
    have hbit : bit e.host.unmasked t = true := bit_putBit_same ..
    have hrel : Dev.Released t e e.msixRelease := Dev.msixRelease_released t.isLt hpending honly hbit hfn
    exact ⟨_, (exec_msixUnmask_eq s (some t)).trans (next_congr hunmask), rfl, hrel.mem,
      (congrArg (bit · t) hrel.unmasked).trans hbit, hrel.pending, hrel.counted⟩
  case function =>
    intro hup _ hpending hvec honly
    set e := d.updHost fun h => { h with fnMask := false }
    have hunmask : d.msixUnmask none = e.msixRelease := if_neg (by simp [hup])
    have hrel : Dev.Released t e e.msixRelease := Dev.msixRelease_released t.isLt hpending honly hvec rfl
    exact ⟨_, (exec_msixUnmask_eq s none).trans (next_congr hunmask), rfl, hrel.mem, hrel.fnMask, hrel.pending, hrel.counted⟩
  case acquire =>
    intro hwho
    have hexec := (exec_lockAcquire_eq s who m).trans (next_congr (Dev.rowRead_mbx rfl rfl hwho))
    refine ⟨fun hfree => ?_, fun hheld => ?_⟩
    · have hread : d.mbxRead .MBX_LOCK m who.mid who.ctx = _ := Dev.lockRead_free hfree
      have hlock := Reg.hasCopy_mbxLock hm
      have hkept : Dev.CopiesBut [.MBX_LOCK] m d (d.setReg .MBX_LOCK (0x80000000 + who.mid) m) := .setReg (.refl d) hlock
      obtain ⟨hheld, howner⟩ := Dev.lock_owned d m hmid
      rw [hread] at hexec
      exact ⟨_, hexec, rfl, rfl, rfl, hheld, howner, fun x hx hne => hkept.reg _ List.mem_cons_self x (Reg.hasCopy_mbxLock hx) hne⟩
    · have hread : d.mbxRead .MBX_LOCK m who.mid who.ctx = _ := Dev.lockRead_held hheld
      rw [hexec, hread]
  case release =>
    intro hwho own
    have hexec := (exec_lockRelease_eq s who m v).trans (next_congr (Dev.rowWrite_mbx rfl rfl hwho _))
    have hzero : v.toNat = 0 ↔ v = 0#32 := BitVec.toNat_inj (y := 0#32)
    have hown : (v.toNat = 0 ∧ d.flag .MBX_LOCK_HELD m = true ∧ d.fld .MBX_LOCK_OWNER m = who.mid) ↔ own :=
      and_congr_left' hzero
    exact ⟨fun h => hexec.trans (next_congr (if_pos (hown.mpr h))), fun h => hexec.trans (next_congr (if_neg (hown.not.mpr h)))⟩
  case force =>
    intro hwho hpat hheld
    obtain ⟨hfree, hcounted, hkept, hmem⟩ := Dev.mbxWrite_lockForce (ctx := who.ctx) hm hheld
    have hexec := (exec_lockForce_eq s who m).trans (next_congr (Dev.rowWrite_mbx rfl rfl hwho _))
    rw [hpat] at hexec
    exact ⟨_, hexec, rfl, hmem, hfree, hcounted, fun x hx hne => hkept.reg _ List.mem_cons_self x (Reg.hasCopy_mbxLock hx) hne⟩

end Sys2Proof.Machine
end

section
/-! Rules for the ports (O48): the copies of the registers of MACs, lanes and PHYs, and how LINK follows the line (R207 to R210, R220). -/

namespace Sys2Proof.Machine

/-! ### Copies of registers -/

theorem Reg.hasCopy_row {r : Reg} {st c n : Nat} (h : r.info.strides = [(st, c)]) (hn : n < c) : r.HasCopy n 0 0 := by
  simpa [Reg.HasCopy, h] using hn

theorem Reg.hasCopy_alone {r : Reg} (h : r.info.strides = []) : r.HasCopy 0 0 0 := by simp [Reg.HasCopy, h]

theorem laneOf_of_le {n : Nat} (h : 20 ≤ n) : laneOf n = none := by simp (disch := omega) only [laneOf, if_neg]

theorem laneOf_eq_some {n l : Nat} : laneOf n = some l ↔ n < 4 ∧ n = l ∨ 4 ≤ n ∧ n < 20 ∧ n / 4 + 3 = l := by
  unfold laneOf
  split
  · simp only [Option.some.injEq]
    omega
  split
  · simp only [Option.some.injEq]
    omega
  · simp only [reduceCtorEq, false_iff]
    omega

theorem laneOf_lt {n l : Nat} (h : laneOf n = some l) : l < 10 := by
  rw [laneOf_eq_some] at h
  omega

/-- The MACs of a lane are those that it carries. -/
theorem mem_macsOf {n l : Nat} : n ∈ macsOf l ↔ laneOf n = some l := by
  rw [laneOf_eq_some]
  unfold macsOf
  split
  · rw [List.mem_singleton]
    omega
  split
  · simp only [List.mem_map, List.mem_range]
    constructor
    · rintro ⟨a, ha, rfl⟩
      omega
    · intro h
      exact ⟨n % 4, by omega, by omega⟩
  · simp only [List.not_mem_nil, false_iff]
    omega

namespace Dev
variable {s t u : Dev}

/-- A write of one field leaves the flags of its register that share no bit with it. -/
theorem flag_setFld_beside (s : Dev) {f q : Fld} (h : f.lo ≤ f.hi) (g : f.hi < 32) (e : q.reg = f.reg) (d : q.hi < f.lo ∨ f.hi < q.lo)
    (v i j k : Nat) : (s.setFld f v i j k).flag q i j k = s.flag q i j k :=
  congrArg (· != 0) (s.fld_setFld_beside h g e d v i j k)

/-- A change that every device of a list's course allows, and that its element makes, stands at the end. -/
theorem each_reaches {α : Type} {P Q : Dev → Prop} {f : α → Dev → Dev} {a : α} {l : List α} (ha : a ∈ l)
    (hP : ∀ b ∈ l, ∀ s, P s → P (f b s)) (hmake : ∀ s, P s → Q (f a s)) (hkeep : ∀ b ∈ l, ∀ s, P s → Q s → Q (f b s)) :
    ∀ s, P s → Q (s.each l f) := by
  obtain ⟨l₁, l₂, rfl⟩ := List.append_of_mem ha
  intro s hs
  have hfirst : P (s.each l₁ f) := each_keeps (fun b hb => hP b (by simp [hb])) s hs
  have hboth : P (f a (s.each l₁ f)) ∧ Q (f a (s.each l₁ f)) := ⟨hP a (by simp) _ hfirst, hmake _ hfirst⟩
  have hsplit : s.each (l₁ ++ a :: l₂) f = (f a (s.each l₁ f)).each l₂ f := by simp [Dev.each]
  rw [hsplit]
  refine (each_keeps (P := fun t => P t ∧ Q t) (fun b hb t ht => ?_) _ hboth).2
  have hmem : b ∈ l₁ ++ a :: l₂ := by simp [hb]
  exact ⟨hP b hmem t ht.1, hkeep b hmem t ht.1 ht.2⟩

/-! ### LINK of a MAC (R220) -/

/-- The registers that a ring of a doorbell writes. -/
def bellRegs : List Reg := [.MBX_DB, .MBX_DB_COAL_CNT, .HST_MSIX_CNT]

/-- The registers that a change of LINK writes. -/
def linkRegs : List Reg := [.MAC_STATUS, .MAC_LINK_CHG_CNT] ++ bellRegs

theorem linkBell_regs (s : Dev) (n : Nat) : RegsBut bellRegs s (s.linkBell n) :=
  .when (.refl s) fun _ h => h.ringMask (bits_lt ..) (List.Subset.refl _)

theorem linkBell_sys (s : Dev) (n : Nat) : (s.linkBell n).sys = s.sys :=
  when_keeps (P := fun t => t.sys = s.sys) (fun t h => (ringMask_sys t ..).trans h) s rfl

theorem setLink_same {n : Nat} {up : Bool} (h : s.flag .MAC_STATUS_LINK n = up) : s.setLink n up = s := if_pos (beq_iff_eq.mpr h)

theorem setLink_change {n : Nat} {up : Bool} (h : s.flag .MAC_STATUS_LINK n ≠ up) :
    s.setLink n up = ((s.setFlag .MAC_STATUS_LINK up n).count .MAC_LINK_CHG_CNT n).linkBell n := if_neg (by simpa using h)

theorem setLink_sys (s : Dev) (n : Nat) (up : Bool) : (s.setLink n up).sys = s.sys := by
  by_cases h : s.flag .MAC_STATUS_LINK n = up
  · rw [setLink_same h]
  · rw [setLink_change h, linkBell_sys]
    rfl

section
variable {n : Nat} (hn : n < 28) (s : Dev)
include hn

theorem setLink_link (up : Bool) : (s.setLink n up).flag .MAC_STATUS_LINK n = up := by
  by_cases h : s.flag .MAC_STATUS_LINK n = up
  · rw [setLink_same h, h]
  · rw [setLink_change h]
    have hstatus : Reg.MAC_STATUS.HasCopy n 0 0 := Reg.hasCopy_row rfl hn
    have hcount : RegsBut [.MAC_LINK_CHG_CNT] (s.setFlag .MAC_STATUS_LINK up n) ((s.setFlag .MAC_STATUS_LINK up n).count .MAC_LINK_CHG_CNT n) :=
      .count (.refl _) (Reg.hasCopy_row rfl hn) (by decide)
    rw [(linkBell_regs _ n).flag hstatus (by decide), hcount.flag hstatus (by decide)]
    exact s.flag_setFlag_same _ rfl (by decide) up n 0 0

theorem setLink_speed (up : Bool) : (s.setLink n up).fld .MAC_STATUS_SPEED n = s.fld .MAC_STATUS_SPEED n := by
  by_cases h : s.flag .MAC_STATUS_LINK n = up
  · rw [setLink_same h]
  · rw [setLink_change h]
    have hstatus : Reg.MAC_STATUS.HasCopy n 0 0 := Reg.hasCopy_row rfl hn
    have hcount : RegsBut [.MAC_LINK_CHG_CNT] (s.setFlag .MAC_STATUS_LINK up n) ((s.setFlag .MAC_STATUS_LINK up n).count .MAC_LINK_CHG_CNT n) :=
      .count (.refl _) (Reg.hasCopy_row rfl hn) (by decide)
    rw [(linkBell_regs _ n).fld hstatus (by decide), hcount.fld hstatus (by decide)]
    exact s.fld_setFld_beside (f := .MAC_STATUS_LINK) (q := .MAC_STATUS_SPEED) (by decide) (by decide) rfl (by decide) _ n 0 0

theorem setLink_count {up : Bool} (h : s.flag .MAC_STATUS_LINK n ≠ up) :
    (s.setLink n up).reg .MAC_LINK_CHG_CNT n = min (s.reg .MAC_LINK_CHG_CNT n + 1) 0xFFFFFFFF := by
  have hcnt : Reg.MAC_LINK_CHG_CNT.HasCopy n 0 0 := Reg.hasCopy_row rfl hn
  rw [setLink_change h, (linkBell_regs _ n).reg _ _ _ _ hcnt (by decide), reg_count_same]
  rw [show (s.setFlag .MAC_STATUS_LINK up n).reg .MAC_LINK_CHG_CNT n = _ from reg_setReg_apart s hcnt (Reg.hasCopy_row rfl hn) (by decide) _]

theorem setLink_regs (up : Bool) : RegsBut linkRegs s (s.setLink n up) := by
  by_cases h : s.flag .MAC_STATUS_LINK n = up
  · rw [setLink_same h]
    exact .refl s
  · rw [setLink_change h]
    have hset : RegsBut linkRegs s ((s.setFlag .MAC_STATUS_LINK up n).count .MAC_LINK_CHG_CNT n) :=
      ((RegsBut.refl s).setFlag (f := .MAC_STATUS_LINK) (Reg.hasCopy_row rfl hn) (by decide)).count (Reg.hasCopy_row rfl hn) (by decide)
    exact hset.trans ((linkBell_regs _ n).mono (List.subset_append_right ..))

/-- LINK of another MAC stays. -/
theorem setLink_other (up : Bool) : CopiesBut [.MAC_STATUS] n s (s.setLink n up) := by
  by_cases h : s.flag .MAC_STATUS_LINK n = up
  · rw [setLink_same h]
    exact .refl s
  · rw [setLink_change h]
    have hset : CopiesBut [.MAC_STATUS] n s ((s.setFlag .MAC_STATUS_LINK up n).count .MAC_LINK_CHG_CNT n) :=
      ((CopiesBut.refl s).setFlag (f := .MAC_STATUS_LINK) (Reg.hasCopy_row rfl hn)).setReg (Reg.hasCopy_row rfl hn)
    exact hset.trans (.of_regsBut (linkBell_regs _ n) (by decide))

end

/-! ### LINK follows the line (R207, R220, R221) -/

theorem lineLink_eq (s : Dev) (n : Nat) (up : Bool) (speed : Nat) : s.lineLink n up speed =
    (s.when (up && !s.flag .MAC_CTRL_RESET n) fun s => s.setFld .MAC_STATUS_SPEED (s.lineSpeed n speed) n).setLink n
      (up && !s.flag .MAC_CTRL_RESET n) := rfl

theorem lineSpeed_lt (s : Dev) (n speed : Nat) : s.lineSpeed n speed < 8 := by
  unfold Dev.lineSpeed
  split
  · decide
  · split <;> omega

theorem lineLink_sys (s : Dev) (n : Nat) (up : Bool) (speed : Nat) : (s.lineLink n up speed).sys = s.sys := by
  rw [lineLink_eq, setLink_sys]
  cases up && !s.flag .MAC_CTRL_RESET n <;> rfl

section
variable {n : Nat} (hn : n < 28) (s : Dev)
include hn

theorem lineLink_link (up : Bool) (speed : Nat) : (s.lineLink n up speed).flag .MAC_STATUS_LINK n = (up && !s.flag .MAC_CTRL_RESET n) :=
  setLink_link hn ..

theorem lineLink_speed {up : Bool} (speed : Nat) (h : (up && !s.flag .MAC_CTRL_RESET n) = true) :
    (s.lineLink n up speed).fld .MAC_STATUS_SPEED n = s.lineSpeed n speed := by
  have hfit : s.lineSpeed n speed % 2 ^ 3 = s.lineSpeed n speed := Nat.mod_eq_of_lt (s.lineSpeed_lt n speed)
  rw [lineLink_eq, setLink_speed hn, h, when_true]
  exact (s.fld_setFld_same _ (by decide) (by decide) ..).trans hfit

theorem lineLink_count {up : Bool} (speed : Nat) (h : (up && !s.flag .MAC_CTRL_RESET n) ≠ s.flag .MAC_STATUS_LINK n) :
    (s.lineLink n up speed).reg .MAC_LINK_CHG_CNT n = min (s.reg .MAC_LINK_CHG_CNT n + 1) 0xFFFFFFFF := by
  rw [lineLink_eq]
  cases hup : (up && !s.flag .MAC_CTRL_RESET n)
  · exact setLink_count hn s fun heq => h (hup.trans heq.symm)
  · have hlink : (s.setFld .MAC_STATUS_SPEED (s.lineSpeed n speed) n).flag .MAC_STATUS_LINK n = s.flag .MAC_STATUS_LINK n :=
      s.flag_setFld_beside (f := .MAC_STATUS_SPEED) (q := .MAC_STATUS_LINK) (by decide) (by decide) rfl (by decide) ..
    have hcnt : (s.setFld .MAC_STATUS_SPEED (s.lineSpeed n speed) n).reg .MAC_LINK_CHG_CNT n = s.reg .MAC_LINK_CHG_CNT n :=
      reg_setReg_apart s (Reg.hasCopy_row rfl hn) (Reg.hasCopy_row rfl hn) (by decide) _
    rw [when_true, setLink_count hn _ fun heq => h (hup.trans (heq.symm.trans hlink)), hcnt]

theorem lineLink_regs (up : Bool) (speed : Nat) : RegsBut linkRegs s (s.lineLink n up speed) := by
  have hspeed : RegsBut linkRegs s (s.when (up && !s.flag .MAC_CTRL_RESET n) fun s => s.setFld .MAC_STATUS_SPEED (s.lineSpeed n speed) n) :=
    .when (.refl s) fun _ h => h.setFld (Reg.hasCopy_row rfl hn) (by decide)
  exact hspeed.trans (setLink_regs hn ..)

theorem lineLink_other (up : Bool) (speed : Nat) : CopiesBut [.MAC_STATUS] n s (s.lineLink n up speed) := by
  have hspeed : CopiesBut [.MAC_STATUS] n s (s.when (up && !s.flag .MAC_CTRL_RESET n) fun s => s.setFld .MAC_STATUS_SPEED (s.lineSpeed n speed) n) :=
    when_keeps (fun _ h => h.setFld (Reg.hasCopy_row rfl hn)) s (.refl s)
  exact hspeed.trans (setLink_other hn ..)

end

/-! ### What lane and PHY say of the link (R208, R209) -/

/-- What the lane `l` of a MAC says of its link, where it shows SYNC and AN_DONE as given. -/
def laneSays (s : Dev) (l n : Nat) (sync an : Bool) : Bool := s.laneServes n && sync && !bit s.sys.deadLanes l &&
  (s.fld .SDS_CFG_MODE l != 1 || !s.flag .SDS_CFG_AN_EN l || an)

theorem laneUp_lane {l n : Nat} (hlane : laneOf n = some l) (s : Dev) :
    s.laneUp n = s.laneSays l n (s.flag .SDS_STATUS_SYNC l) (s.flag .SDS_STATUS_AN_DONE l) := by
  simp only [Dev.laneUp, hlane, Dev.laneSays]

section
variable {l : List Reg} (h : RegsBut l s t) (hl : ∀ r ∈ [Reg.SDS_CFG, .SDS_CTRL, .TPHY_CFG], r ∉ l)
include h hl

theorem RegsBut.laneMode {k : Nat} (hk : k < 10) : t.fld .SDS_CFG_MODE k = s.fld .SDS_CFG_MODE k :=
  h.fld (Reg.hasCopy_row rfl hk) (hl _ (by decide))

theorem RegsBut.inBand (n : Nat) : t.inBand n = s.inBand n := by
  unfold Dev.inBand
  cases hlane : laneOf n with
  | none => rfl
  | some k => simp only [h.laneMode hl (laneOf_lt hlane)]

theorem RegsBut.lineSpeed (n speed : Nat) : t.lineSpeed n speed = s.lineSpeed n speed := by
  unfold Dev.lineSpeed
  cases hlane : laneOf n with
  | none => rfl
  | some k => simp only [h.laneMode hl (laneOf_lt hlane)]

theorem RegsBut.laneServes {n : Nat} (hn : n < 28) : t.laneServes n = s.laneServes n := by
  unfold Dev.laneServes
  cases hlane : laneOf n with
  | none => exact h.flag (Reg.hasCopy_row rfl (show n - 20 < 8 by omega)) (hl _ (by decide))
  | some k =>
    have hreset : t.flag .SDS_CTRL_RESET k = s.flag .SDS_CTRL_RESET k := h.flag (Reg.hasCopy_row rfl (laneOf_lt hlane)) (hl _ (by decide))
    simp only [h.laneMode hl (laneOf_lt hlane), hreset]

theorem RegsBut.laneSays {k n : Nat} (hk : k < 10) (hn : n < 28) (hsys : t.sys = s.sys) (sync an : Bool) :
    t.laneSays k n sync an = s.laneSays k n sync an := by
  have han : t.flag .SDS_CFG_AN_EN k = s.flag .SDS_CFG_AN_EN k := h.flag (Reg.hasCopy_row rfl hk) (hl _ (by decide))
  simp only [Dev.laneSays, h.laneServes hl hn, h.laneMode hl hk, han, hsys]

end

/-! ### A PHY's link (R210, R236) -/

/-- The registers that the link of a PHY writes. -/
def tphyRegs : List Reg := [.TPHY_SYMERR_CNT, .TPHY_LINK_LOSS_CNT, .TPHY_STATUS]

section
variable {k : Nat} (hk : k < 8) (s : Dev) (up : Bool) (x : TphyLine)
include hk

/-- After its counts the link of a PHY writes LINK and other fields of its status alone. -/
theorem tphyLink_eq : ∃ e, RegsBut tphyRegs s e ∧
    let shown := (e.setFlag .TPHY_STATUS_LINK up k).setFlag .TPHY_STATUS_AN_DONE (up && e.flag .TPHY_CFG_AN_EN k) k
    (s.tphyLink k up x = shown ∨ ∃ amp role sqi, s.tphyLink k up x =
      ((shown.setFlag .TPHY_STATUS_AMP_ACTIVE amp k).setFlag .TPHY_STATUS_ROLE_ACTIVE role k).setFld .TPHY_STATUS_SQI sqi k) := by
  have herrs : RegsBut tphyRegs s (s.countBy x.symErrs .TPHY_SYMERR_CNT k) := .countBy (.refl s) (Reg.hasCopy_row rfl hk) (by decide)
  have hcounts : RegsBut tphyRegs s (if s.flag .TPHY_STATUS_LINK k && !up then (s.countBy x.symErrs .TPHY_SYMERR_CNT k).count .TPHY_LINK_LOSS_CNT k
      else s.countBy x.symErrs .TPHY_SYMERR_CNT k) := by
    split
    · exact herrs.count (Reg.hasCopy_row rfl hk) (by decide)
    · exact herrs
  refine ⟨_, hcounts, ?_⟩
  cases up
  · exact .inl rfl
  · exact .inr ⟨_, _, _, rfl⟩

theorem tphyLink_regs : RegsBut tphyRegs s (s.tphyLink k up x) := by
  have hset {t : Dev} (h : RegsBut tphyRegs s t) (f : Fld) (hf : f.reg = .TPHY_STATUS) (v : Nat) : RegsBut tphyRegs s (t.setFld f v k) :=
    h.setFld (hf ▸ Reg.hasCopy_row rfl hk) (hf ▸ by decide)
  obtain ⟨e, hregs, heq⟩ := tphyLink_eq hk s up x
  have hshown := hset (hset hregs .TPHY_STATUS_LINK rfl (b2n up)) .TPHY_STATUS_AN_DONE rfl (b2n (up && e.flag .TPHY_CFG_AN_EN k))
  rcases heq with h | ⟨amp, role, sqi, h⟩
  · exact h ▸ hshown
  · exact h ▸ hset (hset (hset hshown .TPHY_STATUS_AMP_ACTIVE rfl (b2n amp)) .TPHY_STATUS_ROLE_ACTIVE rfl (b2n role)) .TPHY_STATUS_SQI rfl sqi

theorem tphyLink_link : (s.tphyLink k up x).flag .TPHY_STATUS_LINK k = up := by
  have hbeside (t : Dev) (f : Fld) (hf : f.reg = .TPHY_STATUS ∧ 0 < f.lo ∧ f.lo ≤ f.hi ∧ f.hi < 32) (v : Nat) :
      (t.setFld f v k).flag .TPHY_STATUS_LINK k = t.flag .TPHY_STATUS_LINK k :=
    have ⟨hreg, hlo, hle, hhi⟩ := hf
    t.flag_setFld_beside hle hhi hreg.symm (.inl hlo) v k 0 0
  obtain ⟨e, -, heq⟩ := tphyLink_eq hk s up x
  have hlink : (e.setFlag .TPHY_STATUS_LINK up k).flag .TPHY_STATUS_LINK k = up := e.flag_setFlag_same _ rfl (by decide) ..
  have hshown := (hbeside _ .TPHY_STATUS_AN_DONE (by decide) (b2n (up && e.flag .TPHY_CFG_AN_EN k))).trans hlink
  rcases heq with h | ⟨amp, role, sqi, h⟩
  · exact h ▸ hshown
  · have hamp := (hbeside _ .TPHY_STATUS_AMP_ACTIVE (by decide) (b2n amp)).trans hshown
    have hrole := (hbeside _ .TPHY_STATUS_ROLE_ACTIVE (by decide) (b2n role)).trans hamp
    exact h ▸ (hbeside _ .TPHY_STATUS_SQI (by decide) sqi).trans hrole

end

/-! ### A line comes up or goes down (R208 to R210, R220) -/

/-- What the line of a MAC says once it has changed: `up` is the PHY's report, or the in-band word of the port. -/
def lineUp (s : Dev) (n : Nat) (up : Bool) : Bool :=
  if n < 20 then s.laneUp n && (!s.inBand n || up) else up && s.laneServes n && !bit s.sys.deadPhys (n - 20)

theorem linkChange_lane {n : Nat} (h : n < 20) (s : Dev) (up : Bool) (speed : Nat) (x : TphyLine) :
    s.linkChange n up speed x = s.lineLink n (s.lineUp n up) speed := by
  have hphy : ¬20 ≤ n := by omega
  simp only [Dev.linkChange, Dev.lineUp, hphy, h, if_true, if_false]

theorem linkChange_phy {n : Nat} (h : 20 ≤ n) (hn : n < 28) (s : Dev) (up : Bool) (speed : Nat) (x : TphyLine) :
    s.linkChange n up speed x = (s.tphyLink (n - 20) (s.lineUp n up) x).lineLink n (s.lineUp n up) speed := by
  have hlane := laneOf_of_le h
  have hline : s.lineUp n up = (up && s.laneServes n && !bit s.sys.deadPhys (n - 20)) := if_neg (by omega)
  have hup (t : Dev) : t.laneUp n = t.flag .TPHY_STATUS_LINK (n - 20) := by simp only [Dev.laneUp, hlane]
  have hband (t : Dev) : t.inBand n = false := by simp only [Dev.inBand, hlane]
  simp only [Dev.linkChange, h, if_true, ← hline, hup, hband, tphyLink_link (show n - 20 < 8 by omega), Bool.not_false, Bool.true_or, Bool.and_true]

/-- The line's change is that of LINK on a device whose lanes and MACs are the same. -/
theorem linkChange_eq {n : Nat} (hn : n < 28) (s : Dev) (up : Bool) (speed : Nat) (x : TphyLine) :
    ∃ e, RegsBut tphyRegs s e ∧ s.linkChange n up speed x = e.lineLink n (s.lineUp n up) speed ∧
      (20 ≤ n → e.flag .TPHY_STATUS_LINK (n - 20) = s.lineUp n up) := by
  rcases Nat.lt_or_ge n 20 with h | h
  · exact ⟨s, .refl s, linkChange_lane h s up speed x, fun h' => absurd h' (by omega)⟩
  · have hk : n - 20 < 8 := by omega
    exact ⟨_, tphyLink_regs hk s _ x, linkChange_phy h hn s up speed x, fun _ => tphyLink_link hk s _ x⟩

theorem linkChange_shows {n : Nat} (hn : n < 28) (s : Dev) (up : Bool) (speed : Nat) (x : TphyLine) :
    let serves := s.lineUp n up && !s.flag .MAC_CTRL_RESET n
    let t := s.linkChange n up speed x
    t.flag .MAC_STATUS_LINK n = serves ∧ (serves = true → t.fld .MAC_STATUS_SPEED n = s.lineSpeed n speed) ∧
      (serves ≠ s.flag .MAC_STATUS_LINK n → t.reg .MAC_LINK_CHG_CNT n = min (s.reg .MAC_LINK_CHG_CNT n + 1) 0xFFFFFFFF) ∧
      (20 ≤ n → t.flag .TPHY_STATUS_LINK (n - 20) = s.lineUp n up) := by
  intro serves t
  obtain ⟨e, hregs, heq, hphy⟩ := linkChange_eq hn s up speed x
  have ht : t = e.lineLink n (s.lineUp n up) speed := heq
  have hreset : e.flag .MAC_CTRL_RESET n = s.flag .MAC_CTRL_RESET n := hregs.flag (Reg.hasCopy_row rfl hn) (by decide)
  have hlink : e.flag .MAC_STATUS_LINK n = s.flag .MAC_STATUS_LINK n := hregs.flag (Reg.hasCopy_row rfl hn) (by decide)
  have hcnt : e.reg .MAC_LINK_CHG_CNT n = s.reg .MAC_LINK_CHG_CNT n := hregs.reg _ _ _ _ (Reg.hasCopy_row rfl hn) (by decide)
  have hserves : (s.lineUp n up && !e.flag .MAC_CTRL_RESET n) = serves := by rw [hreset]
  rw [ht]
  refine ⟨(lineLink_link hn ..).trans hserves, fun h => ?_, fun h => ?_, fun h => ?_⟩
  · rw [lineLink_speed hn e speed (hserves.trans h), hregs.lineSpeed (by decide)]
  · rw [lineLink_count hn e speed (hserves.trans_ne (hlink.symm ▸ h)), hcnt]
  · exact ((lineLink_regs hn e ..).flag (Reg.hasCopy_row rfl (show n - 20 < 8 by omega)) (by decide)).trans (hphy h)

/-! ### A lane gains or loses LOCK and SYNC (R209, R235, R448) -/

/-- The lane works at all. -/
def laneRuns (s : Dev) (l : Nat) : Bool := s.fld .SDS_CFG_MODE l != 0 && !s.flag .SDS_CTRL_RESET l && !bit s.sys.deadLanes l

/-- The registers of a lane that its change writes. -/
def laneRegs : List Reg := [.SDS_CODE_ERR_CNT, .SDS_LOCK_LOSS_CNT, .SDS_STATUS, .PAR_LANE_LOSS_CNT]

/-- LINK of a MAC follows its lane: in modes 2 and 4 it comes with the in-band word alone. -/
def laneFollow (n : Nat) (s : Dev) : Dev := if s.inBand n && s.laneUp n then s else s.lineLink n (s.laneUp n) 0

/-- The status of a lane. -/
def laneStatus (l : Nat) (lock sync an : Bool) (s : Dev) : Dev :=
  ((s.setFlag .SDS_STATUS_LOCK lock l).setFlag .SDS_STATUS_SYNC sync l).setFlag .SDS_STATUS_AN_DONE an l

theorem laneStatus_flags (l : Nat) (lock sync an : Bool) (s : Dev) : let t := s.laneStatus l lock sync an
    t.flag .SDS_STATUS_LOCK l = lock ∧ t.flag .SDS_STATUS_SYNC l = sync ∧ t.flag .SDS_STATUS_AN_DONE l = an := by
  have hbeside (t : Dev) (f q : Fld) (h : f.lo ≤ f.hi ∧ f.hi < 32 ∧ q.reg = f.reg ∧ q.hi < f.lo) (b : Bool) :
      (t.setFlag f b l).flag q l = t.flag q l :=
    have ⟨hle, hhi, hreg, hapart⟩ := h
    t.flag_setFld_beside hle hhi hreg (.inl hapart) (b2n b) l 0 0
  refine ⟨?_, ?_, flag_setFlag_same _ _ rfl (by decide) ..⟩
  · exact (hbeside _ .SDS_STATUS_AN_DONE _ (by decide) an).trans ((hbeside _ .SDS_STATUS_SYNC _ (by decide) sync).trans
      (flag_setFlag_same _ _ rfl (by decide) ..))
  · exact (hbeside _ .SDS_STATUS_AN_DONE _ (by decide) an).trans (flag_setFlag_same _ _ rfl (by decide) ..)

/-- The counts of a lane that changes, and its new status. -/
def laneShown (l : Nat) (lock sync an : Bool) (errs : Nat) (lost lostLock : Bool) (s : Dev) : Dev :=
  (((s.countBy errs .SDS_CODE_ERR_CNT l).when lost fun s => s.count .SDS_LOCK_LOSS_CNT l).laneStatus l lock sync an).when lostLock fun s =>
    s.count .PAR_LANE_LOSS_CNT

section
variable {l : Nat} (hl : l < 10) (s : Dev) (lock sync an : Bool) (errs : Nat) (lost lostLock : Bool)
include hl

theorem laneShown_regs : RegsBut laneRegs s (s.laneShown l lock sync an errs lost lostLock) := by
  have hset {t : Dev} (h : RegsBut laneRegs s t) (f : Fld) (hf : f.reg = .SDS_STATUS) (b : Bool) : RegsBut laneRegs s (t.setFlag f b l) :=
    h.setFlag (hf ▸ Reg.hasCopy_row rfl hl) (hf ▸ by decide)
  have hcounted : RegsBut laneRegs s ((s.countBy errs .SDS_CODE_ERR_CNT l).when lost fun s => s.count .SDS_LOCK_LOSS_CNT l) :=
    .when (.countBy (.refl s) (Reg.hasCopy_row rfl hl) (by decide)) fun _ h => h.count (Reg.hasCopy_row rfl hl) (by decide)
  have hstatus := hset (hset (hset hcounted .SDS_STATUS_LOCK rfl lock) .SDS_STATUS_SYNC rfl sync) .SDS_STATUS_AN_DONE rfl an
  exact hstatus.when fun _ h => h.count (Reg.hasCopy_alone rfl) (by decide)

theorem laneShown_flags : let t := s.laneShown l lock sync an errs lost lostLock
    t.flag .SDS_STATUS_LOCK l = lock ∧ t.flag .SDS_STATUS_SYNC l = sync ∧ t.flag .SDS_STATUS_AN_DONE l = an := by
  have hkept (t : Dev) : RegsBut [.PAR_LANE_LOSS_CNT] t (t.when lostLock fun s => s.count .PAR_LANE_LOSS_CNT) :=
    .when (.refl t) fun _ h => h.count (Reg.hasCopy_alone rfl) (by decide)
  have hstatus : Reg.SDS_STATUS.HasCopy l 0 0 := Reg.hasCopy_row rfl hl
  have hflag (t : Dev) (f : Fld) (hf : f.reg = .SDS_STATUS) := (hkept t).flag (f := f) (hf ▸ hstatus) (hf ▸ by decide)
  dsimp only [laneShown]
  rw [hflag _ _ rfl, hflag _ _ rfl, hflag _ _ rfl]
  exact laneStatus_flags ..

end

theorem laneShown_sys (s : Dev) (l : Nat) (lock sync an : Bool) (errs : Nat) (lost lostLock : Bool) :
    (s.laneShown l lock sync an errs lost lostLock).sys = s.sys := by
  cases lost <;> cases lostLock <;> rfl

/-- A lane that changes shows its status; then LINK of its MACs follows. -/
theorem laneChange_eq (s : Dev) (l : Nat) (lock sync an : Bool) (errs : Nat) : ∃ lost lostLock, s.laneChange l lock sync an errs =
    (s.laneShown l (lock && s.laneRuns l) (sync && s.laneRuns l) (an && s.laneRuns l) errs lost lostLock).each (macsOf l) laneFollow :=
  ⟨_, _, rfl⟩

theorem laneFollow_keeps {e : Dev} {n : Nat} (hn : n < 28) (h : RegsBut linkRegs e s ∧ s.sys = e.sys) :
    RegsBut linkRegs e (laneFollow n s) ∧ (laneFollow n s).sys = e.sys := by
  obtain ⟨hregs, hsys⟩ := h
  unfold laneFollow
  split
  · exact ⟨hregs, hsys⟩
  · exact ⟨hregs.trans (lineLink_regs hn ..), (lineLink_sys ..).trans hsys⟩

theorem macsOf_lt {n l : Nat} (h : n ∈ macsOf l) : n < 28 := by
  have := laneOf_eq_some.mp (mem_macsOf.mp h)
  omega

theorem each_laneFollow_regs (e : Dev) (l : Nat) : RegsBut linkRegs e (e.each (macsOf l) laneFollow) :=
  (each_keeps (P := fun t => RegsBut linkRegs e t ∧ t.sys = e.sys) (fun _ hn _ => laneFollow_keeps (macsOf_lt hn)) e ⟨.refl e, rfl⟩).1

/-- Every MAC of a lane has its LINK by what the lane says, but for one that waits for its in-band word. -/
theorem each_laneFollow_link {e : Dev} {l k : Nat} (hk : laneOf k = some l) (hband : (e.inBand k && e.laneUp k) = false) :
    (e.each (macsOf l) laneFollow).flag .MAC_STATUS_LINK k = (e.laneUp k && !e.flag .MAC_CTRL_RESET k) := by
  have hk28 := macsOf_lt (mem_macsOf.mpr hk)
  have hmade (t : Dev) (h : RegsBut linkRegs e t ∧ t.sys = e.sys) :
      (laneFollow k t).flag .MAC_STATUS_LINK k = (e.laneUp k && !e.flag .MAC_CTRL_RESET k) := by
    obtain ⟨hregs, hsys⟩ := h
    have hup : t.laneUp k = e.laneUp k := by
      have hsync : t.flag .SDS_STATUS_SYNC l = e.flag .SDS_STATUS_SYNC l := hregs.flag (Reg.hasCopy_row rfl (laneOf_lt hk)) (by decide)
      have han : t.flag .SDS_STATUS_AN_DONE l = e.flag .SDS_STATUS_AN_DONE l := hregs.flag (Reg.hasCopy_row rfl (laneOf_lt hk)) (by decide)
      rw [laneUp_lane hk, laneUp_lane hk, hregs.laneSays (by decide) (laneOf_lt hk) hk28 hsys, hsync, han]
    have hreset : t.flag .MAC_CTRL_RESET k = e.flag .MAC_CTRL_RESET k := hregs.flag (Reg.hasCopy_row rfl hk28) (by decide)
    rw [laneFollow, hregs.inBand (by decide), hup, hband, if_neg Bool.false_ne_true, lineLink_link hk28, hreset]
  refine each_reaches (P := fun t => RegsBut linkRegs e t ∧ t.sys = e.sys)
    (Q := fun t => t.flag .MAC_STATUS_LINK k = (e.laneUp k && !e.flag .MAC_CTRL_RESET k)) (mem_macsOf.mpr hk)
    (fun n hn t => laneFollow_keeps (macsOf_lt hn)) hmade (fun n hn t ht hlink => ?_) e ⟨.refl e, rfl⟩
  by_cases hne : k = n
  · exact hne ▸ hmade t ht
  · have hother : CopiesBut [.MAC_STATUS] n t (laneFollow n t) := by
      unfold laneFollow
      split
      · exact .refl t
      · exact lineLink_other (macsOf_lt hn) ..
    have hreg := hother.reg .MAC_STATUS (by decide) k (Reg.hasCopy_row rfl hk28) hne
    exact (congrArg (fun w => bits w 0 0 != 0) hreg).trans hlink

/-! ### The tandem link follows lanes 8 and 9 (R448) -/

theorem parLanes_regs (s : Dev) : RegsBut (.PAR_STATUS :: bellRegs) s s.parLanes := by
  have hset (v : Nat) (f : ParSt → ParSt) : RegsBut (.PAR_STATUS :: bellRegs) s ((s.setFld .PAR_STATUS_LANES v).updPar f) :=
    .trans (.setFld (.refl s) (Reg.hasCopy_alone rfl) (by decide)) (.of_regs rfl)
  unfold Dev.parLanes Dev.parBell
  dsimp only
  split
  · exact .refl s
  · exact .when (hset ..) fun _ h => h.ringMask (bits_lt ..) (List.subset_cons_self ..)

section
variable {l : Nat} (hl : l < 10) (s : Dev) (lock sync an : Bool) (errs : Nat)
include hl

theorem laneChange_status : let t := (s.laneChange l lock sync an errs).parLanes
    t.flag .SDS_STATUS_LOCK l = (lock && s.laneRuns l) ∧ t.flag .SDS_STATUS_SYNC l = (sync && s.laneRuns l) := by
  obtain ⟨lost, lostLock, heq⟩ := laneChange_eq s l lock sync an errs
  obtain ⟨hlock, hsync, -⟩ := laneShown_flags hl s (lock && s.laneRuns l) (sync && s.laneRuns l) (an && s.laneRuns l) errs lost lostLock
  have hstatus : Reg.SDS_STATUS.HasCopy l 0 0 := Reg.hasCopy_row rfl hl
  have hkept {f : Fld} (hf : f.reg = .SDS_STATUS) (e : Dev) : (e.each (macsOf l) laneFollow).parLanes.flag f l = e.flag f l :=
    ((parLanes_regs _).flag (hf ▸ hstatus) (hf ▸ by decide)).trans ((each_laneFollow_regs e l).flag (hf ▸ hstatus) (hf ▸ by decide))
  rw [heq]
  exact ⟨(hkept rfl _).trans hlock, (hkept rfl _).trans hsync⟩

theorem laneChange_link {k : Nat} (hk : laneOf k = some l)
    (hband : (s.inBand k && s.laneSays l k (sync && s.laneRuns l) (an && s.laneRuns l)) = false) :
    (s.laneChange l lock sync an errs).parLanes.flag .MAC_STATUS_LINK k =
      (s.laneSays l k (sync && s.laneRuns l) (an && s.laneRuns l) && !s.flag .MAC_CTRL_RESET k) := by
  have hk28 := macsOf_lt (mem_macsOf.mpr hk)
  obtain ⟨lost, lostLock, heq⟩ := laneChange_eq s l lock sync an errs
  have hregs := laneShown_regs hl s (lock && s.laneRuns l) (sync && s.laneRuns l) (an && s.laneRuns l) errs lost lostLock
  obtain ⟨-, hsync, han⟩ := laneShown_flags hl s (lock && s.laneRuns l) (sync && s.laneRuns l) (an && s.laneRuns l) errs lost lostLock
  have hsys := laneShown_sys s l (lock && s.laneRuns l) (sync && s.laneRuns l) (an && s.laneRuns l) errs lost lostLock
  rw [heq]
  generalize s.laneShown l _ _ _ errs lost lostLock = e at *
  have hup : e.laneUp k = s.laneSays l k (sync && s.laneRuns l) (an && s.laneRuns l) := by
    rw [laneUp_lane hk, hsync, han, hregs.laneSays (by decide) hl hk28 hsys]
  have hreset : e.flag .MAC_CTRL_RESET k = s.flag .MAC_CTRL_RESET k := hregs.flag (Reg.hasCopy_row rfl hk28) (by decide)
  rw [(parLanes_regs _).flag (Reg.hasCopy_row rfl hk28) (by decide), each_laneFollow_link hk (by rw [hregs.inBand (by decide), hup, hband]), hup,
    hreset]

end

/-! ### A PHY restarts (R236) -/

theorem rowWrite_tphy {who : Agent} {r : Reg} {k : Nat} (hb : r.info.blk = .TPHY) (hr : r.single = true) (h : s.reaches who r k 0 true) (v : Nat) :
    s.rowWrite who r v k = s.tphyWrite r k v := by
  rw [rowWrite_reaches h, copyStore_single _ hr, Dev.regStore, hb]

theorem tphyWrite_restart {k : Nat} (hk : k < 8) (h : s.flag .TPHY_CFG_EN k = true) : s.tphyWrite .TPHY_CTRL k 1 =
    ((s.plain .TPHY_CTRL 1 k).tphyLink k false default).setLink (20 + k) false := by
  have hplain : RegsBut [.TPHY_CTRL, .TPHY_MISUSE_CNT] s (s.plain .TPHY_CTRL 1 k) :=
    .plain (.refl s) (Reg.hasCopy_row rfl hk) (Reg.hasCopy_row (r := .TPHY_MISUSE_CNT) rfl hk) (by decide) (by decide)
  have hen : (s.plain .TPHY_CTRL 1 k).flag .TPHY_CFG_EN k = true := (hplain.flag (Reg.hasCopy_row rfl hk) (by decide)).trans h
  exact if_pos hen

theorem tphyWrite_restart_links {k : Nat} (hk : k < 8) (h : s.flag .TPHY_CFG_EN k = true) :
    (s.tphyWrite .TPHY_CTRL k 1).flag .TPHY_STATUS_LINK k = false ∧ (s.tphyWrite .TPHY_CTRL k 1).flag .MAC_STATUS_LINK (20 + k) = false := by
  have hn : 20 + k < 28 := by omega
  rw [tphyWrite_restart hk h, (setLink_regs hn _ false).flag (Reg.hasCopy_row rfl hk) (by decide)]
  exact ⟨tphyLink_link hk .., setLink_link hn ..⟩

end Dev
end Sys2Proof.Machine
end

section
/-! Rules for the frames of a MAC (O48): what reception, flow control, selection and transmission do (R211 to R219, R241, R259). -/

namespace Sys2Proof.Machine

/-- A search from the highest class down finds the highest that `p` takes. -/
theorem find?_highest {p : Nat → Bool} {c : Nat} (hc : c < 8) (hp : p c = true) (hhigher : ∀ x, c < x → x < 8 → p x = false) :
    [7, 6, 5, 4, 3, 2, 1, 0].find? p = some c := by
  have hdesc : [7, 6, 5, 4, 3, 2, 1, 0].Pairwise fun a b : Nat => b < a := by decide
  have hmem : c ∈ [7, 6, 5, 4, 3, 2, 1, 0] := by
    simp only [List.mem_cons, List.not_mem_nil, or_false]
    omega
  obtain ⟨x, hfind, hx, hpx, hmax⟩ := exists_find?_of_pairwise hdesc hmem hp
  have hx8 : x < 8 := by
    simp only [List.mem_cons, List.not_mem_nil, or_false] at hx
    omega
  rcases hmax c hmem hp with rfl | hlt
  · exact hfind
  · simp [hhigher x hlt hx8] at hpx

namespace Dev
variable {s t : Dev}

/-! ### A MAC's own state -/

theorem macSt_updMac (s : Dev) (n : Nat) (f : MacSt → MacSt) (k : Nat) : (s.updMac n f).macSt k = if k = n then f (s.macSt n) else s.macSt k := by
  simp only [Dev.macSt, Dev.updMac_mac, Tab.upd, Tab.get_set]

@[simp] theorem macSt_updMac_same (s : Dev) (n : Nat) (f : MacSt → MacSt) : (s.updMac n f).macSt n = f (s.macSt n) := by simp [macSt_updMac]

theorem macSt_congr (h : t.mac = s.mac) (n : Nat) : t.macSt n = s.macSt n := by rw [Dev.macSt, h, Dev.macSt]

theorem traverse_congr (h : t.regs = s.regs) (n : Nat) : t.traverse n = s.traverse n := by simp only [Dev.traverse, flag_congr h]

/-! ### Reception (R211 to R213, R235) -/

section
variable {n : Nat} (f : Frame) (cut : Bool) (sec : Option SecRx) (ago gap : Nat)

theorem macReceive_line (h : s.looped n = false) : s.macReceive n f cut sec ago gap = s.macTake n f cut sec ago gap := by
  rw [Dev.macReceive, h, Bool.not_false, if_pos rfl]

theorem macReceive_loop_empty (h : s.looped n = true) (hl : (s.macSt n).loop = []) : s.macReceive n f cut sec ago gap = s := by
  simp only [Dev.macReceive, h, hl, Bool.not_true, Bool.false_eq_true, if_false]

theorem macReceive_loop_cons {x : Sent} {l : List Sent} (h : s.looped n = true) (hl : (s.macSt n).loop = x :: l) :
    s.macReceive n f cut sec ago gap = (s.updMac n fun m => { m with loop := l }).macTake n x.bytes x.err x.sec ago gap := by
  simp only [Dev.macReceive, h, hl, Bool.not_true, Bool.false_eq_true, if_false]

section
variable (h : s.macReceives n = true) {g : Frame} {tag : Option SecRx} (hlook : s.secLook n f sec = (g, tag))
include h hlook

theorem macTake_runt (hlen : g.length < 64) : s.macTake n f cut sec ago gap = s.count .MAC_RUNT_CNT n := by
  simp only [Dev.macTake, hlook, h, hlen, Bool.not_true, Bool.false_eq_true, if_false, if_true]

variable (hmin : 64 ≤ g.length)
include hmin

theorem macTake_giant (hmax : s.fld .MAC_CFG_MAXLEN n < g.length) : s.macTake n f cut sec ago gap = s.count .MAC_GIANT_CNT n := by
  simp only [Dev.macTake, hlook, h, hmin.not_gt, hmax, Bool.not_true, Bool.false_eq_true, if_false, if_true]

variable (hmax : g.length ≤ s.fld .MAC_CFG_MAXLEN n)
include hmax

theorem macTake_damaged (hbad : cut = true ∨ lineFcsOk g tag = false) : s.macTake n f cut sec ago gap = s.count .MAC_FCS_CNT n := by
  have hbad' : cut = true ∨ (!lineFcsOk g tag) = true := hbad.imp_right (by simp)
  simp only [Dev.macTake, hlook, h, hmin.not_gt, hmax.not_gt, hbad', Bool.not_true, Bool.false_eq_true, if_false, if_true]

theorem macTake_good (hfcs : lineFcsOk g tag = true) (hlen : tag.isSome = true ∨ Frame.lenError g = false) :
    s.macTake n f false sec ago gap = (s.count .MAC_RX_OK_CNT n).macAccept n g tag (s.ingressStamp n ago) ago gap := by
  have hok : (tag.isNone && g.lenError) = false := by
    rcases hlen with hlen | hlen
    · cases tag <;> simp_all
    · rw [hlen, Bool.and_false]
  simp only [Dev.macTake, hlook, h, hmin.not_gt, hmax.not_gt, hfcs, hok, Bool.not_true, Bool.false_eq_true, or_false, if_false]

end

end

/-! ### Flow control (R217 to R219) -/

/-- A PAUSE frame that the MAC honours gives it its quanta. -/
theorem macControl_pause {n : Nat} {f : Frame} (hop : Frame.be f (Frame.typeAt f + 2) 2 = 1) (hrx : s.flag .MAC_FC_CFG_RX_EN n = true) :
    s.macControl n f = (((s.count .MAC_RX_PAUSE_CNT n).updMac n fun m => { m with quanta := Frame.be f (Frame.typeAt f + 4) 2 }).setFlag
      .MAC_STATUS_PAUSED (Frame.be f (Frame.typeAt f + 4) 2 != 0) n).selStopped n := by
  simp only [Dev.macControl, hop, hrx, if_true, Bool.not_true, Bool.false_eq_true, if_false, Nat.add_assoc]

theorem macAccept_control {n : Nat} {f : Frame} (h : f.etype = 0x8808) (stamp ago gap : Nat) : s.macAccept n f none stamp ago gap = s.macControl n f := by
  simp [Dev.macAccept, h]

theorem pauseRefresh_pause {n : Nat} (hmode : s.fld .MAC_FC_CFG_MODE n = 1) (hxoff : s.flag .SWC_PORTBP_XOFF n = true) :
    s.pauseRefresh n = s.sendPause n (s.fld .MAC_FC_TIME_QUANTA n) := by
  simp only [Dev.pauseRefresh, hmode, hxoff, if_true]

/-! ### Selection (R259) -/

/-- The oldest copy of the highest eligible class is selected, where it is no longer than MAXLEN. -/
theorem select_highest {n lead dt c : Nat} {k : Copy} {m e : Dev} (hm : s.creditStep n dt = m) (he : m.oversize n = e)
    (hsel : (m.macSt n).sel = none) (hsends : m.macSends n = true) (htrav : m.traverse n = false) (hlead : lead ≤ m.fld .SWC_TXCFG_LEAD_NS)
    (hc : c < 8) (helig : e.eligible n c lead = true) (hhigher : ∀ x, c < x → x < 8 → e.eligible n x lead = false)
    (hhead : e.headCopy n c = some k) (hlen : (e.dequeue n k).txLen n k ≤ (e.dequeue n k).fld .MAC_CFG_MAXLEN n) :
    s.select n lead dt = (e.dequeue n k).updMac n fun m => { m with sel := some k } := by
  have hfind : [7, 6, 5, 4, 3, 2, 1, 0].find? (fun c => e.eligible n c lead) = some c := find?_highest hc helig hhigher
  simp only [Dev.select, hm, he, hsel, hsends, htrav, hlead.not_gt, hfind, hhead, hlen.not_gt, Option.isSome_none, Bool.not_true, decide_false,
    Bool.or_self, Bool.false_eq_true, if_false]

/-! ### The end of a transmission (R219, R241) -/

theorem transmitDone_eq {n dt : Nat} {c : Copy} (htx : ((s.creditStep n dt).macSt n).tx = some c) : s.transmitDone n dt =
    ((((((s.creditStep n dt).updMac n fun m => { m with tx := none }).setFlag .MAC_STATUS_TX_IDLE true n).endCopy c.cell n).count
      .MAC_TX_OK_CNT n).controlGo n) := by
  simp only [Dev.transmitDone, htx]

/-! ### The start of a transmission (R216, R231, R259, R290, R305) -/

theorem creditStep_frame (s : Dev) (n dt : Nat) : s.creditStep n dt = { s with mac := (s.creditStep n dt).mac } := by
  unfold Dev.creditStep
  split <;> rfl

theorem creditStep_regs (s : Dev) (n dt : Nat) : (s.creditStep n dt).regs = s.regs := by rw [creditStep_frame]

theorem readCells_frame (l : List Nat) (k : Nat) (s : Dev) : s.memOnly (Dev.readCells l k s).2 ∧ RegsBut readRegs s (Dev.readCells l k s).2 := by
  unfold Dev.readCells
  induction l generalizing k s with
  | nil => exact ⟨.rfl' s, .refl s⟩
  | cons a l ih =>
    obtain ⟨honly, hregs⟩ := ih (k - min k 240) (s.physRead 0x70 (a + 16) (min k 240)).2
    exact ⟨(physRead_frame s ..).1.trans honly, (physRead_regs s ..).trans hregs⟩

theorem memOnly.mac (h : s.memOnly t) : t.mac = s.mac := by rw [h]

theorem txBody_congr (h : t.swc = s.swc) (n : Nat) (x : FrameSt) (red : RedTx) (f : Frame) : t.txBody n x red f = s.txBody n x red f := by
  simp only [Dev.txBody, h]

/-- A MAC that makes no residence correction sends the body as it is. -/
theorem residence_off {n : Nat} (h : s.fld .TMU_PORT_TC_MODE n = 0) (x : FrameSt) (stamp : Nat) (b : Frame) : s.residence n x stamp b = (b, s) := by
  simp only [Dev.residence, h, true_or, if_true]

section
variable {red : RedTx} (hown : ∀ a, red ≠ .slmOwn a) (hfwd : red ≠ .slmFwd)
include hown hfwd

theorem slmLeave_other (s : Dev) (x : FrameSt) (stamp : Nat) (b : Frame) : s.slmLeave x red stamp b = b := by
  cases red with
  | slmOwn a => exact absurd rfl (hown a)
  | slmFwd => exact absurd rfl hfwd
  | none => rfl
  | prp => rfl
  | hsr => rfl

theorem slmSent_other (s : Dev) (stamp : Nat) (b : Frame) : s.slmSent red stamp b = s := by
  cases red with
  | slmOwn a => exact absurd rfl (hown a)
  | slmFwd => exact absurd rfl hfwd
  | none => rfl
  | prp => rfl
  | hsr => rfl

end

theorem txtsAdd_mac (s : Dev) (n : Nat) (e : TxtsE) : (s.txtsAdd n e).mac = s.mac := by
  unfold Dev.txtsAdd
  dsimp only
  split
  · rfl
  · exact when_keeps (P := fun t => t.mac = s.mac) (fun t h => (by rw [ringMask_frame]; exact h)) _ rfl

theorem capture_mac (s : Dev) (x : CapInfo) (ue : Bool) : (s.capture x ue).mac = s.mac := by
  unfold Dev.capture
  dsimp only
  repeat' split
  all_goals rfl

/-- A selected copy whose cells can be read, on a MAC without residence correction and MACsec, leaves with a new FCS, once the time-stamp
and the capture are made. -/
theorem transmit_plain {n : Nat} (hn : n < 28) {late : Bool} {dt : Nat} {c : Copy} (hsel : ((s.creditStep n dt).macSt n).sel = some c)
    (htx : ((s.creditStep n dt).macSt n).tx = none) (hsends : (s.creditStep n dt).macSends n = true) (htrav : s.traverse n = false)
    (hstop : (s.creditStep n dt).stopped n c.cls = false) (hmode : s.fld .TMU_PORT_TC_MODE n = 0) (hsec : s.flag .MAC_SEC_CFG_EN n = false)
    (hown : ∀ a, c.red ≠ .slmOwn a) (hfwd : c.red ≠ .slmFwd) :
    let e := (s.creditStep n dt).updMac n fun m => { m with sel := none }
    ∀ {r : RdRes} {t : Dev}, Dev.readCells (e.frame c.cell).cells (e.frame c.cell).flen e = (r, t) → r.ue = false →
      ∃ u : Dev, u.mac = e.mac ∧ s.transmit n late dt = ((u.updMac n fun m => { m with tx := some c }).sends n
        ⟨(t.txBody n (e.frame c.cell) c.red r.data).withFcs, none, false⟩).setFlag .MAC_STATUS_TX_IDLE false n := by
  intro e r t hcells hue
  obtain ⟨honly, hread⟩ := readCells_frame (e.frame c.cell).cells (e.frame c.cell).flen e
  rw [hcells] at honly hread
  set q := t.when late fun s => s.count .SWC_TX_LATE_CNT n with hq
  have hstart : RegsBut (.SWC_TX_LATE_CNT :: readRegs) s e := .of_regs (creditStep_regs s n dt)
  have hregs : RegsBut (.SWC_TX_LATE_CNT :: readRegs) s q :=
    .when (hstart.trans (hread.mono (List.subset_cons_self ..))) fun _ h => h.count (Reg.hasCopy_row rfl (show n < 38 by omega)) (by decide)
  have hmode' : q.fld .TMU_PORT_TC_MODE n = 0 := (hregs.fld (Reg.hasCopy_row rfl hn) (by decide)).trans hmode
  have hsec' : q.flag .MAC_SEC_CFG_EN n = false := (hregs.flag (Reg.hasCopy_row rfl hn) (by decide)).trans hsec
  have hmac : q.mac = e.mac := by cases late <;> exact honly.mac
  have hswc : q.swc = t.swc := by cases late <;> rfl
  have hbody := txBody_congr hswc n (e.frame c.cell) c.red r.data
  have hplain (b : Frame) : q.protects n b = false := by simp only [Dev.protects, hsec', Bool.and_false, Bool.false_and]
  have htrav' : (s.creditStep n dt).traverse n = false := (traverse_congr (creditStep_regs s n dt) n).trans htrav
  simp only [Dev.transmit, hsel, htx, hsends, htrav', hstop, Option.isSome_none, Bool.not_true, Bool.or_self, Bool.false_eq_true, if_false]
  simp only [show ((s.creditStep n dt).updMac n fun m => { m with sel := none }) = e from rfl, hcells, hue, Bool.false_eq_true, if_false, ← hq,
    residence_off hmode', slmLeave_other hown hfwd, slmSent_other hown hfwd, hplain, hbody]
  refine ⟨_, ?_, rfl⟩
  rw [capture_mac]
  split
  · exact (txtsAdd_mac ..).trans hmac
  · exact hmac

/-- What a MAC shows once it has begun to send a copy. -/
theorem begun_shows {u e : Dev} {n : Nat} (hmac : u.mac = (e.updMac n fun m => { m with sel := none }).mac) (c : Copy) (y : Sent) :
    let t := ((u.updMac n fun m => { m with tx := some c }).sends n y).setFlag .MAC_STATUS_TX_IDLE false n
    (t.macSt n).tx = some c ∧ (t.macSt n).sel = none ∧ (t.macSt n).last = some y ∧ t.flag .MAC_STATUS_TX_IDLE n = false := by
  intro t
  have hu : u.macSt n = { e.macSt n with sel := none } := (macSt_congr hmac n).trans (macSt_updMac_same ..)
  have hsends : ((u.updMac n fun m => { m with tx := some c }).sends n y).macSt n = t.macSt n := rfl
  rw [← hsends, Dev.sends, macSt_updMac_same, macSt_updMac_same, hu]
  exact ⟨rfl, rfl, rfl, flag_setFlag_same _ _ rfl (by decide) ..⟩

end Dev
end Sys2Proof.Machine
end

section
/-! Rules for traverse mode (O48): how a frame on a bound port passes through the ring of its engine (R222 to R227). -/

namespace Sys2Proof.Machine

namespace Dev
variable {s t : Dev}

/-! ### The course of a frame is in parts -/

/-- The start of a frame without loopback. -/
theorem traverseFrame_sfd {n : Nat} (h : s.looped n = false) (ago : Nat) : s.traverseFrame n (some ago) [] 0 false false = s.travSfd n ago := by
  have hrx (b : Bool) (l : List Byte) (c : Bool) : ((if b then (l.take ([] : List Byte).length, c) else ([], false)).1).isEmpty = true := by cases b <;> rfl
  simp only [Dev.traverseFrame, h, Bool.false_and, Bool.false_eq_true, if_false, hrx, Bool.and_false, Bool.not_true, when_false, bne_self_eq_false]

/-- The bytes, the samples and the end of a frame without loopback. -/
theorem traverseFrame_line {n : Nat} (h : s.looped n = false) (rx : List Byte) (k : Nat) (ends cut : Bool) : s.traverseFrame n none rx k ends cut =
    ((s.when (!rx.isEmpty) (travBytes n rx)).when (k != 0) (travSample n k)).when ends (travEnd n cut) := by
  simp only [Dev.traverseFrame, h, Bool.false_and, Bool.false_eq_true, if_false, when_false]

/-! ### A push leaves the MACs and memory (R90, R110) -/

theorem setQueue_keeps (s : Dev) (ge : Nat) (q : List (Nat × Job)) : (s.setQueue ge q).mac = s.mac ∧ (s.setQueue ge q).mem = s.mem := by
  unfold Dev.setQueue
  split <;> exact ⟨rfl, rfl⟩

theorem offer_keeps (n e : Nat) (j : Job) (hw : Option Producer) (s : Dev) (moved front : Bool) :
    (s.offer n e j hw moved front).2.mac = s.mac ∧ (s.offer n e j hw moved front).2.mem = s.mem := by
  unfold Dev.offer
  dsimp only
  split
  · exact ⟨rfl, rfl⟩
  split
  · exact ⟨rfl, rfl⟩
  split
  · exact setQueue_keeps ..
  split <;> exact ⟨rfl, rfl⟩

theorem push_keeps (n : Nat) (j : Job) (hw : Option Producer) (s : Dev) (moved front : Bool) :
    (s.push n j hw moved front).2.mac = s.mac ∧ (s.push n j hw moved front).2.mem = s.mem := by
  unfold Dev.push
  dsimp only
  split
  · exact offer_keeps ..
  split
  · exact offer_keeps ..
  split <;> exact ⟨rfl, rfl⟩

theorem keeps_of_push {n : Nat} {j : Job} {hw : Option Producer} {r : PushRes} (h : s.push n j hw = (r, t)) : t.mac = s.mac ∧ t.mem = s.mem := by
  have hkeeps := s.push_keeps n j hw false false
  rwa [h] at hkeeps

/-! ### The start of a frame (R224, R227) -/

theorem travSfd_starts {n ago : Nat} (htrav : s.traverse n = true) (hen : s.flag .MAC_CFG_EN_RX n = true) (hup : s.travUp n = true)
    (hreset : s.flag .MAC_CTRL_RESET n = false) (hon : (s.macSt n).travOn = false) :
    ((s.travSfd n ago).macSt n).travOn = true ∧ (s.travSfd n ago).mem = s.mem ∧ ((s.travSfd n ago).macSt n).trav =
      some ⟨(s.macSt n).ringPos, s.ingressStamp n ago, s.fld .MAC_CFG_MAXLEN n, [], [], false, none⟩ := by
  set e := s.updMac n fun m => { m with
    trav := some ⟨(s.macSt n).ringPos, s.ingressStamp n ago, s.fld .MAC_CFG_MAXLEN n, [], [], false, none⟩, travOn := true } with he
  have hkeeps : (s.travSfd n ago).mac = e.mac ∧ (s.travSfd n ago).mem = e.mem := by
    simp only [Dev.travSfd, htrav, hen, hup, hreset, hon, Bool.not_true, Bool.or_self, Bool.false_eq_true, if_false, ← he]
    split
    · split
      · next hpush =>
        have hkeeps := keeps_of_push hpush
        exact hkeeps
      · next hpush =>
        have hkeeps := keeps_of_push hpush
        exact hkeeps
    · split <;> exact ⟨rfl, rfl⟩
  obtain ⟨hmac, hmem⟩ := hkeeps
  rw [macSt_congr hmac n, macSt_updMac_same]
  exact ⟨rfl, hmem, rfl⟩

/-! ### The ring (R224) -/

theorem ringFill_frame (base pos : Nat) (l : List Byte) (s : Dev) : Dev.ringFill base pos l s = { s with mem := (Dev.ringFill base pos l s).mem } := by
  induction l generalizing pos s with
  | nil => rfl
  | cons b l ih => rw [Dev.ringFill, ih]; rfl

theorem ringFill_other {base pos a : Nat} {l : List Byte} (h : ∀ k < l.length, a ≠ base + (pos + k) % 0x800) (s : Dev) :
    (Dev.ringFill base pos l s).byte a = s.byte a := by
  induction l generalizing pos s with
  | nil => rfl
  | cons b l ih =>
    have hhead : a ≠ base + pos % 0x800 := h 0 (Nat.succ_pos _)
    have htail : ∀ k < l.length, a ≠ base + (pos + 1 + k) % 0x800 := fun k hk => by
      have := h (k + 1) (Nat.succ_lt_succ hk)
      rwa [Nat.add_right_comm, Nat.add_assoc]
    rw [Dev.ringFill, ih htail, byte_setByte, if_neg hhead]

/-- The bytes of a run that does not pass round the ring are read where they have been put. -/
theorem ringFill_byte {base pos k : Nat} {l : List Byte} (hl : l.length ≤ 0x800) (hk : k < l.length) (s : Dev) :
    (Dev.ringFill base pos l s).byte (base + (pos + k) % 0x800) = l.getD k 0#8 := by
  induction l generalizing pos k s with
  | nil => cases hk
  | cons b l ih =>
    rw [List.length_cons] at hl hk
    cases k with
    | zero =>
      have htail : ∀ j < l.length, base + pos % 0x800 ≠ base + (pos + 1 + j) % 0x800 := fun j hj => by omega
      rw [Nat.add_zero, Dev.ringFill, ringFill_other htail, byte_setByte_same]
      rfl
    | succ k =>
      rw [Dev.ringFill, show pos + (k + 1) = pos + 1 + k by omega, ih (by omega) (by omega), List.getD_cons_succ]

/-- The address of byte `k` of the stream of a bound MAC in its ring. -/
def travAddr (s : Dev) (n k : Nat) : Nat := dmemBase (s.travRing n).1 (s.travRing n).2.1 + (s.travRing n).2.2 + k % 0x800

theorem travBytes_arrive {n : Nat} {t : Trav} {l : List Byte} (hon : (s.macSt n).travOn = true) (htrav : (s.macSt n).trav = some t)
    (hrink : s.rinkOn (s.travRing n).1 = true) (hmax : t.rx.length + l.length ≤ t.maxlen) (hl : l.length ≤ 0x800) :
    let e := s.when (!l.isEmpty) (travBytes n l)
    (e.macSt n).trav = some { t with rx := t.rx ++ l } ∧ (∀ k < l.length, e.byte (s.travAddr n (t.start + t.rx.length + k)) = l.getD k 0#8) ∧
      ∀ a, (∀ k, a ≠ s.travAddr n k) → e.byte a = s.byte a := by
  cases l with
  | nil =>
    refine ⟨?_, fun k hk => absurd hk (Nat.not_lt_zero k), fun a _ => rfl⟩
    rw [List.append_nil]
    exact htrav
  | cons b l =>
    have htake : (b :: l).take (t.maxlen + 1 - t.rx.length) = b :: l := List.take_of_length_le (by omega)
    set base := dmemBase (s.travRing n).1 (s.travRing n).2.1 + (s.travRing n).2.2 with hbase
    set e := Dev.ringFill base (t.start + t.rx.length) (b :: l) s with he
    have hmac : e.mac = s.mac := by rw [he, ringFill_frame]
    have hexec : travBytes n (b :: l) s = e.updMac n fun m => { m with
        trav := some { t with rx := t.rx ++ b :: l }, ringPos := (t.start + t.rx.length + (b :: l).length) % 0x800,
        ringUsed := min 0x800 (m.ringUsed + (b :: l).length) } := by
      simp only [Dev.travBytes, hon, htrav, htake, hrink, if_true, ← hbase, ← he]
    rw [List.isEmpty_cons, Bool.not_false, when_true, hexec]
    refine ⟨?_, fun k hk => ?_, fun a ha => ?_⟩
    · rw [macSt_updMac_same]
    · exact ringFill_byte hl hk s
    · exact ringFill_other (fun k _ => ha _) s

/-! ### The status of a MAC and the other registers -/

theorem addr_macStatus (p : Nat) : Reg.MAC_STATUS.addr p = 0x300008 + 0x10000 * p := rfl

/-- No copy of MAC_STATUS stands at the address. -/
def OffStatus (a : Nat) : Prop := ∀ p, a ≠ Reg.MAC_STATUS.addr p

theorem offStatus_of_mod {a : Nat} (h : a % 0x10000 ≠ 8) : OffStatus a := fun p => by
  rw [addr_macStatus]
  omega

/-- A register with one copy on each page, at another offset than MAC_STATUS. -/
theorem offStatus_of_page {r : Reg} {c : Nat} (h : r.info.strides = [(0x10000, c)]) (hoff : r.info.off % 0x10000 ≠ 8) (i : Nat) :
    OffStatus (r.addr i) := by
  refine offStatus_of_mod ?_
  have haddr : r.addr i = r.info.off + 0x10000 * i := by simp [Reg.addr_eq, h, strideDist]
  omega

/-- `t` differs from `s` in the idle bits of MACs alone, as far as traverse mode looks at registers. -/
structure IdleOnly (s t : Dev) : Prop where
  reg : ∀ q a b c, OffStatus (q.addr a b c) → t.reg q a b c = s.reg q a b c
  up : ∀ p, t.travUp p = s.travUp p

namespace IdleOnly

theorem refl (s : Dev) : IdleOnly s s := ⟨fun _ _ _ _ _ => rfl, fun _ => rfl⟩

theorem of_regs (h : t.regs = s.regs) : IdleOnly s t :=
  ⟨fun _ _ _ _ _ => reg_congr h .., fun _ => by simp only [Dev.travUp, flag_congr h, fld_congr h]⟩

section
variable (h : IdleOnly s t)
include h

theorem trans {u : Dev} (g : IdleOnly t u) : IdleOnly s u :=
  ⟨fun q a b c hq => (g.reg q a b c hq).trans (h.reg q a b c hq), fun p => (g.up p).trans (h.up p)⟩

theorem fld {f : Fld} {i : Nat} (hf : OffStatus (f.reg.addr i)) : t.fld f i = s.fld f i := congrArg (bits · f.hi f.lo) (h.reg _ _ _ _ hf)

theorem flag {f : Fld} {i : Nat} (hf : OffStatus (f.reg.addr i)) : t.flag f i = s.flag f i := congrArg (· != 0) (h.fld hf)

theorem updMac {n : Nat} {f : MacSt → MacSt} : IdleOnly s (t.updMac n f) := h.trans (.of_regs rfl)

theorem setFlag {f : Fld} (hf : f = .MAC_STATUS_RX_IDLE ∨ f = .MAC_STATUS_TX_IDLE) {b : Bool} {m : Nat} : IdleOnly s (t.setFlag f b m) := by
  obtain ⟨hreg, hlo, hle, hhi⟩ : f.reg = .MAC_STATUS ∧ 3 < f.lo ∧ f.lo ≤ f.hi ∧ f.hi < 32 := by rcases hf with rfl | rfl <;> decide
  have hfld (q : Fld) (hq : q.reg = .MAC_STATUS ∧ q.hi ≤ 3) (p : Nat) : (t.setFlag f b m).fld q p = t.fld q p := by
    by_cases hp : p = m
    · subst hp
      exact t.fld_setFld_beside hle hhi (hq.1.trans hreg.symm) (.inl (Nat.lt_of_le_of_lt hq.2 hlo)) _ p 0 0
    · refine t.fld_setFld_other ?_ _
      rw [hq.1, hreg, addr_macStatus, addr_macStatus]
      omega
  refine h.trans ⟨fun q a b c hq => t.reg_setFld_other (f := f) (hreg ▸ hq m) _, fun p => ?_⟩
  rw [Dev.travUp, Dev.flag, hfld .MAC_STATUS_LINK (by decide), hfld .MAC_STATUS_SPEED (by decide)]
  rfl

end

end IdleOnly

section
variable (h : IdleOnly s t)
include h

theorem IdleOnly.travRing (n : Nat) : t.travRing n = s.travRing n := by
  have hmid : t.fld .MAC_TRAV_MID (travBase n) = s.fld .MAC_TRAV_MID (travBase n) := h.fld (offStatus_of_page rfl (by decide) _)
  have hwin : t.fld .MAC_TRAV_WIN (travBase n) = s.fld .MAC_TRAV_WIN (travBase n) := h.fld (offStatus_of_page rfl (by decide) _)
  simp only [Dev.travRing, hmid, hwin]

theorem IdleOnly.travRuns (hsys : t.sys = s.sys) (n : Nat) : t.travRuns n = s.travRuns n := by
  have hdom : t.reg .PWR_DOM_STAT = s.reg .PWR_DOM_STAT := h.reg _ _ _ _ fun p => by
    rw [addr_macStatus]
    show 0x10004 ≠ _
    omega
  have hready (r : Nat) : t.flag .RNK_STATUS_READY r = s.flag .RNK_STATUS_READY r := h.flag (offStatus_of_page rfl (by decide) _)
  have honline (r : Nat) : t.fld .RNK_STATUS_ENG_ONLINE r = s.fld .RNK_STATUS_ENG_ONLINE r := h.fld (offStatus_of_page rfl (by decide) _)
  simp only [Dev.travRuns, h.travRing, Dev.rinkOn, hdom, Dev.inRinkReset, hsys, hready, Dev.engOnline, honline]

end

end Dev

/-! ### The transmission of a frame begins (R216, R223, R227) -/

/-- The frame once its transmission has begun on port `p`, if anywhere. -/
def Trav.begins (t : Trav) (p : Option Nat) : Trav := if t.begun = true then t else { t with begun := true, port := p }

theorem Trav.begins_rest (t : Trav) (p : Option Nat) :
    (t.begins p).start = t.start ∧ (t.begins p).rx = t.rx ∧ (t.begins p).out = t.out ∧ (t.begins p).maxlen = t.maxlen := by
  unfold Trav.begins
  split <;> exact ⟨rfl, rfl, rfl, rfl⟩

namespace Dev
variable {s t : Dev} {n : Nat} {x : Trav}

/-- `t` is `s` but for the frame that passes on MAC `n` and the idle bits of MACs: what a step of that frame leaves. -/
structure Passes (n : Nat) (x : Trav) (s t : Dev) : Prop where
  on : (t.macSt n).travOn = true
  trav : (t.macSt n).trav = some x
  mem : t.mem = s.mem
  sys : t.sys = s.sys
  idle : IdleOnly s t

theorem travBegin_passes (hon : (s.macSt n).travOn = true) (htrav : (s.macSt n).trav = some x) :
    Passes n (x.begins (s.travPort n)) s (s.travBegin n) := by
  have hexec : s.travBegin n = if x.begun = true then s else
      (s.each (s.travPort n).toList fun p s => s.setFlag .MAC_STATUS_TX_IDLE false p).updMac n fun m =>
        { m with trav := some { x with begun := true, port := s.travPort n } } := by
    simp only [Dev.travBegin, hon, htrav]
  rw [hexec, Trav.begins]
  split
  · exact ⟨hon, htrav, rfl, rfl, .refl s⟩
  · cases s.travPort n with
    | none => exact ⟨(congrArg MacSt.travOn (macSt_updMac_same ..)).trans hon, congrArg MacSt.trav (macSt_updMac_same ..), rfl, rfl, .of_regs rfl⟩
    | some p => exact ⟨(congrArg MacSt.travOn (macSt_updMac_same ..)).trans hon, congrArg MacSt.trav (macSt_updMac_same ..), rfl, rfl,
      .updMac (.setFlag (.refl s) (.inr rfl))⟩

/-! ### Samples (R225, R227) -/

/-- The next `k` bytes that are sampled: from the ring, or unchanged where the engine does not run. -/
def travNext (s : Dev) (n k : Nat) (x : Trav) : List Byte :=
  if s.travRuns n = true then (List.range (min k (x.rx.length - x.out.length))).map fun j => s.byte (s.travAddr n (x.start + x.out.length + j))
  else (x.rx.drop x.out.length).take k

theorem map_getD_range {α : Type} (l : List α) (d : α) (i k : Nat) : (List.range (min k (l.length - i))).map (fun j => l.getD (i + j) d) =
    (l.drop i).take k := by
  refine List.ext_getElem (by simp) fun j hj _ => ?_
  rw [List.length_map, List.length_range] at hj
  have hlt : i + j < l.length := by omega
  simp only [List.getElem_map, List.getElem_range, List.getElem_take, List.getElem_drop, List.getD_eq_getElem _ _ hlt]

theorem travSample_passes (hon : (s.macSt n).travOn = true) (htrav : (s.macSt n).trav = some x) (k : Nat) :
    Passes n { x.begins (s.travPort n) with out := x.out ++ s.travNext n k x } s (s.travSample n k) := by
  have hbegun := travBegin_passes hon htrav
  obtain ⟨hstart, hrx, hout, -⟩ := x.begins_rest (s.travPort n)
  have hring := hbegun.idle.travRing n
  have hruns := hbegun.idle.travRuns hbegun.sys n
  have hbytes : (List.range (min k (x.rx.length - x.out.length))).map (fun j => if (s.travBegin n).travRuns n = true
      then ((s.travBegin n).bytes (dmemBase ((s.travBegin n).travRing n).1 ((s.travBegin n).travRing n).2.1 + ((s.travBegin n).travRing n).2.2 +
        (x.start + x.out.length + j) % 0x800) 1).headD 0#8 else x.rx.getD (x.out.length + j) 0#8) = s.travNext n k x := by
    have hbyte (a : Nat) : ((s.travBegin n).bytes a 1).headD 0#8 = s.byte a := byte_congr hbegun.mem a
    simp only [hring, hruns, hbyte, travNext]
    split
    · rfl
    · exact map_getD_range ..
  have hexec : s.travSample n k = (s.travBegin n).updMac n fun m =>
      { m with trav := some { x.begins (s.travPort n) with out := x.out ++ s.travNext n k x } } := by
    simp only [Dev.travSample, hbegun.on, hbegun.trav, hstart, hrx, hout, hbytes]
  rw [hexec]
  exact ⟨(congrArg MacSt.travOn (macSt_updMac_same ..)).trans hbegun.on, congrArg MacSt.trav (macSt_updMac_same ..), hbegun.mem, hbegun.sys,
    hbegun.idle.updMac⟩

/-- No sample is left of a frame all of whose bytes have been sampled. -/
theorem travNext_all (h : x.out.length = x.rx.length) (s : Dev) (n k : Nat) : s.travNext n k x = [] := by
  unfold travNext
  split <;> simp [h]

/-- A step of `k` samples, where no sample is no step. -/
theorem when_travSample_passes (hon : (s.macSt n).travOn = true) (htrav : (s.macSt n).trav = some x) (k : Nat) :
    Passes n { (if k = 0 ∨ x.begun = true then x else { x with begun := true, port := s.travPort n }) with out := x.out ++ s.travNext n k x } s
      (s.when (k != 0) (travSample n k)) := by
  by_cases hk : k = 0
  · have hnone : s.travNext n 0 x = [] := by simp [travNext]
    subst hk
    rw [hnone, List.append_nil]
    exact ⟨hon, htrav, rfl, rfl, .refl s⟩
  · have hpass := travSample_passes hon htrav k
    rw [Trav.begins] at hpass
    simpa only [hk, false_or, bne_iff_ne.mpr hk, when_true] using hpass

/-! ### The end of a frame (R225, R226) -/

/-- The other MAC of the pair takes the frame where it is up and may transmit. -/
theorem travPort_other {p : Nat} (hp : p = 2 * travBase n + 1 - n) (hup : s.travUp p = true) (hen : s.flag .MAC_CFG_EN_TX p = true)
    (hreset : s.flag .MAC_CTRL_RESET p = false) (hheld : s.txHeld = false) : s.travPort n = some p := by
  subst hp
  simp only [Dev.travPort, hup, if_true, Option.filter, hen, hheld, hreset, Bool.not_false, Bool.and_self]

/-- A good frame leaves as it has been sampled, with its own FCS or a new one. -/
theorem travOut_good {f sampled : Frame} {maxlen : Nat} (hmin : 64 ≤ f.length) (hmax : f.length ≤ maxlen) (hfcs : f.fcsOk = true) (regen : Bool) :
    travOut f sampled maxlen false regen = (sampled.take (f.length - 4) ++
      (if regen = true then leBytes 4 (crc32 (sampled.take (f.length - 4))) else f.drop (f.length - 4)), false) := by
  simp only [travOut, hmin.not_gt, hmax.not_gt, hfcs, Bool.false_eq_true, or_self, if_false, if_true]

/-- A good frame counts at most the length error that is its only fault (R212). -/
theorem travCount_good (hmin : 64 ≤ x.rx.length) (hmax : x.rx.length ≤ x.maxlen) (hfcs : Frame.fcsOk x.rx = true) (s : Dev) :
    s.travCount n x false = s.when (Frame.lenError x.rx) fun s => s.count .MAC_LEN_CNT n := by
  simp only [Dev.travCount, hmin.not_gt, hmax.not_gt, hfcs, Bool.not_true, Bool.or_self, Bool.false_eq_true, if_false, Dev.when]

theorem travUp_lenCount (s : Dev) (n p : Nat) : (s.count .MAC_LEN_CNT n).travUp p = s.travUp p := by
  have hreg : (s.count .MAC_LEN_CNT n).reg .MAC_STATUS p = s.reg .MAC_STATUS p := s.reg_count_other fun h => by
    have haddr : 0x300008 + 0x10000 * p = 0x300094 + 0x10000 * n := h
    omega
  simp only [Dev.travUp, Dev.flag, Dev.fld, show Fld.MAC_STATUS_LINK.reg = .MAC_STATUS from rfl, show Fld.MAC_STATUS_SPEED.reg = .MAC_STATUS from rfl,
    hreg]

theorem sends_last (s : Dev) (p : Nat) (y : Sent) : ((s.sends p y).macSt p).last = some y := congrArg MacSt.last (macSt_updMac_same ..)

theorem sends_travOn (s : Dev) (n p : Nat) (y : Sent) : ((s.sends p y).macSt n).travOn = (s.macSt n).travOn := by
  rw [Dev.sends, macSt_updMac]
  split
  · next h => rw [h]
  · rfl

theorem when_count_mac (s : Dev) (b : Bool) (r : Reg) (i : Nat) : (s.when b fun s => s.count r i).mac = s.mac := by cases b <;> rfl

theorem travBase_lt (hn : n < 28) : travBase n < 28 := Nat.lt_of_le_of_lt (Nat.sub_le ..) hn

/-- What a good frame leaves on the line of the MAC where it leaves. -/
def travSent (s : Dev) (n : Nat) (x : Trav) : Sent := ⟨x.out.take (x.rx.length - 4) ++ (if s.flag .MAC_TRAV_FCS_REGEN (travBase n) = true then
  leBytes 4 (crc32 (x.out.take (x.rx.length - 4))) else x.rx.drop (x.rx.length - 4)), none, false⟩

theorem travEnd_of_passes {p : Nat} (hn : n < 28) (hpass : Passes n x s (s.travSample n 0x4000)) (hmin : 64 ≤ x.rx.length)
    (hmax : x.rx.length ≤ x.maxlen) (hfcs : Frame.fcsOk x.rx = true) (hport : x.port = some p) (hup : s.travUp p = true) :
    ((s.travEnd n false).macSt n).travOn = false ∧ ((s.travEnd n false).macSt p).last = some (s.travSent n x) := by
  generalize hv : s.travSample n 0x4000 = v at hpass
  set e := (v.updMac n fun m => { m with travOn := false }).setFlag .MAC_STATUS_RX_IDLE true n with he
  set u := e.when (Frame.lenError x.rx) fun s => s.count .MAC_LEN_CNT n with hu
  have hidle : IdleOnly s e := hpass.idle.updMac.setFlag (.inl rfl)
  have hup' : u.travUp p = true := by
    rw [hu, Dev.when]
    split
    · rw [travUp_lenCount, hidle.up, hup]
    · rw [hidle.up, hup]
  have hregen : u.flag .MAC_TRAV_FCS_REGEN (travBase n) = s.flag .MAC_TRAV_FCS_REGEN (travBase n) := by
    have hcopy : RegsBut [.MAC_LEN_CNT] e u := .when (.refl e) fun _ h => h.count (Reg.hasCopy_row rfl hn) (by decide)
    exact (hcopy.flag (Reg.hasCopy_row rfl (travBase_lt hn)) (by decide)).trans (hidle.flag (offStatus_of_page rfl (by decide) _))
  have hon : (u.macSt n).travOn = false := by
    have hmac : u.mac = (v.updMac n fun m => { m with travOn := false }).mac := when_count_mac ..
    rw [macSt_congr hmac, macSt_updMac_same]
  have hgood : (decide (x.maxlen < x.rx.length) || decide (x.rx.length < 64)) = false := by
    rw [decide_eq_false hmax.not_gt, decide_eq_false hmin.not_gt]
    rfl
  have hexec : s.travEnd n false = (u.sends p (s.travSent n x)).setFlag .MAC_STATUS_TX_IDLE true p := by
    simp only [Dev.travEnd, hv, hpass.on, hpass.trav, hport, ← he, travCount_good hmin hmax hfcs, ← hu, Bool.false_or, hgood, hfcs, Bool.not_true,
      when_false, hup', when_true, hregen, travOut_good hmin hmax hfcs, travSent]
  rw [hexec]
  exact ⟨(sends_travOn ..).trans hon, sends_last ..⟩

/-- The end of a good frame that has been sampled whole. -/
theorem travEnd_good {p : Nat} (hn : n < 28) (hon : (s.macSt n).travOn = true) (htrav : (s.macSt n).trav = some x)
    (hall : x.out.length = x.rx.length) (hmin : 64 ≤ x.rx.length) (hmax : x.rx.length ≤ x.maxlen) (hfcs : Frame.fcsOk x.rx = true)
    (hport : (x.begins (s.travPort n)).port = some p) (hup : s.travUp p = true) :
    ((s.travEnd n false).macSt n).travOn = false ∧ ((s.travEnd n false).macSt p).last = some (s.travSent n x) := by
  obtain ⟨-, hrx, -, hmaxlen⟩ := x.begins_rest (s.travPort n)
  have hpass := travSample_passes hon htrav 0x4000
  rw [travNext_all hall, List.append_nil] at hpass
  have hend := travEnd_of_passes hn hpass (by rwa [hrx]) (by rwa [hrx, hmaxlen]) (by rwa [hrx]) hport hup
  rwa [travSent, hrx] at hend

end Dev
end Sys2Proof.Machine
end

section
/-! O48: frames are received, checked and sent; flow control, links, lanes, PHYs and traverse (R205 to R236, R259). -/

namespace Sys2Proof.Machine

/-! ### The rows -/

section
variable (n : Fin 28) (s : State)

theorem exec_frameReceive_eq (f : List Byte) (cut : Bool) (sec : Option SecRx) (ago gap : BitVec 32) :
    exec (.frameReceive n f cut sec ago gap) s = .next (s.withDev (s.dev.macReceive n f cut sec ago.toNat gap.toNat)) := rfl

theorem exec_macControlFrame_eq {f : List Byte} (h : Frame.etype f = 0x8808) (ago : BitVec 32) :
    exec (.macControlFrame n f ago) s = .next (s.withDev (s.dev.macReceive n f false none ago.toNat 0)) := next_congr (if_pos h)

theorem exec_pauseRefresh_eq : exec (.pauseRefresh n) s = .next (s.withDev (s.dev.pauseRefresh n)) := rfl

theorem exec_egressSelection_eq (lead dt : BitVec 32) :
    exec (.egressSelection n lead dt) s = .next (s.withDev (s.dev.select n lead.toNat dt.toNat)) := rfl

theorem exec_frameTransmit_eq (late : Bool) (dt : BitVec 32) :
    exec (.frameTransmit n late dt) s = .next (s.withDev (s.dev.transmit n late dt.toNat)) := rfl

theorem exec_frameTransmitDone_eq (dt : BitVec 32) :
    exec (.frameTransmitDone n dt) s = .next (s.withDev (s.dev.transmitDone n dt.toNat)) := rfl

theorem exec_linkChange_eq (up : Bool) (speed : Fin 8) (t : TphyLine) :
    exec (.linkChange n up speed t) s = .next (s.withDev (s.dev.linkChange n up speed t)) := rfl

theorem exec_laneLockChange_eq (l : Fin 10) (lock sync an : Bool) (errs : BitVec 32) :
    exec (.laneLockChange l lock sync an errs) s = .next (s.withDev (s.dev.laneChange l lock sync an errs.toNat).parLanes) := rfl

theorem exec_tphyRestart_eq (who : Agent) (k : Fin 8) :
    exec (.tphyRestart who k) s = .next (s.withDev (s.dev.rowWrite who .TPHY_CTRL 1 k)) := rfl

variable {n s} (hloop : s.dev.looped n = false)
include hloop

theorem exec_traverseFrame_sfd (ago : BitVec 32) :
    exec (.traverseFrame n (some ago) [] 0 false false) s = .next (s.withDev (s.dev.travSfd n ago.toNat)) :=
  next_congr (Dev.traverseFrame_sfd hloop ago.toNat)

theorem exec_traverseFrame_line (rx : List Byte) (k : BitVec 12) (ends cut : Bool) : exec (.traverseFrame n none rx k ends cut) s =
    .next (s.withDev (((s.dev.when (!rx.isEmpty) (Dev.travBytes n rx)).when (k.toNat != 0) (Dev.travSample n k.toNat)).when ends (Dev.travEnd n cut))) :=
  next_congr (Dev.traverseFrame_line hloop rx k.toNat ends cut)

end

/-- Settles O48: each row's operation is the rule of its part: reception by the look at the frame, LINK by what the line says, and traverse by the
frame that passes. -/
theorem portRowsComplete : Obligations.PortRowsComplete := by
  unfold Obligations.PortRowsComplete
  intro n s d out next
  have hn := n.isLt
  refine ⟨?receive, ?control, rfl, fun _ => rfl, ?refresh, ?select, ?transmit, ?done, ?link, ?lane, ?restart, ?traverse⟩
  case receive =>
    intro f cut sec ago gap hrx max run
    have hrun : run = out (d.macReceive n f cut sec ago.toNat gap.toNat) := exec_frameReceive_eq ..
    refine ⟨?_, fun hloop => ⟨fun hempty => ?_, fun x l hl => ?_⟩⟩
    · intro hloop g tag
      have hlook : d.secLook n f sec = (g, tag) := rfl
      rw [Dev.macReceive_line f cut sec _ _ hloop] at hrun
      refine ⟨fun hmin hmax hcut hfcs hlen => ?_, fun hlen => ?_, fun hmin hmax => ?_, fun hmin hmax hbad => ?_⟩
      · subst hcut
        exact hrun.trans (next_congr (Dev.macTake_good f sec _ _ hrx hlook hmin hmax hfcs hlen))
      · exact hrun.trans (next_congr (Dev.macTake_runt f cut sec _ _ hrx hlook hlen))
      · exact hrun.trans (next_congr (Dev.macTake_giant f cut sec _ _ hrx hlook hmin hmax))
      · exact hrun.trans (next_congr (Dev.macTake_damaged f cut sec _ _ hrx hlook hmin hmax hbad))
    · exact hrun.trans (next_congr (Dev.macReceive_loop_empty f cut sec _ _ hloop hempty))
    · exact hrun.trans (next_congr (Dev.macReceive_loop_cons f cut sec _ _ hloop hl))
  case control =>
    intro f ago hrx hloop hmin hmax hfcs hlen htype hop hen q
    have hlook : d.secLook n f none = (f, none) := rfl
    have hen' : (d.count .MAC_RX_OK_CNT n).flag .MAC_FC_CFG_RX_EN n = true :=
      ((Dev.RegsBut.refl d).count (l := [.MAC_RX_OK_CNT]) (Reg.hasCopy_row rfl hn) (by decide)).flag (Reg.hasCopy_row rfl hn) (by decide) |>.trans hen
    rw [exec_macControlFrame_eq n s htype, Dev.macReceive_line _ _ _ _ _ hloop, Dev.macTake_good f none _ _ hrx hlook hmin hmax hfcs (.inr hlen),
      Dev.macAccept_control htype, Dev.macControl_pause hop hen']
  case refresh =>
    intro hmode hxoff
    exact (exec_pauseRefresh_eq n s).trans (next_congr (Dev.pauseRefresh_pause hmode hxoff))
  case select =>
    intro lead dt c k m e hsel hsends htrav hlead hc helig hhigher hhead hlen
    exact (exec_egressSelection_eq n s lead dt).trans
      (next_congr (Dev.select_highest (m := m) (e := e) rfl rfl hsel hsends htrav hlead hc helig hhigher hhead hlen))
  case transmit =>
    intro late dt c m e x r hsel htx hsends htrav hstop hue hmode hsec hown hfwd
    obtain ⟨u, hmac, hexec⟩ := Dev.transmit_plain hn (late := late) hsel htx hsends htrav hstop hmode hsec hown hfwd
      (show Dev.readCells x.cells x.flen e = (r.1, r.2) from rfl) hue
    refine ⟨_, (exec_frameTransmit_eq n s late dt).trans (next_congr hexec), rfl, Dev.begun_shows hmac c _⟩
  case done =>
    intro dt c m htx
    exact (exec_frameTransmitDone_eq n s dt).trans (next_congr (Dev.transmitDone_eq htx))
  case link =>
    intro up speed t line serves
    exact ⟨_, exec_linkChange_eq n s up speed t, rfl, Dev.linkChange_shows hn d up speed t⟩
  case lane =>
    intro l lock sync an errs runs
    obtain ⟨hlock, hsync⟩ := Dev.laneChange_status l.isLt d lock sync an errs.toNat
    refine ⟨_, exec_laneLockChange_eq s l lock sync an errs, rfl, hlock, hsync, fun k _ hk hdown => ?_,
      fun k _ hk hup hlane hband hreset hmode => ?_⟩
    · have hsays : d.laneSays l k (sync && d.laneRuns l) (an && d.laneRuns l) = false := by
        rw [Dev.laneSays, show (sync && d.laneRuns l) = false from hdown, Bool.and_false, Bool.false_and, Bool.false_and]
      have hlink := Dev.laneChange_link l.isLt d lock sync an errs.toNat hk (by rw [hsays, Bool.and_false])
      rwa [hsays] at hlink
    · have hruns : d.laneRuns l = true := ((Bool.and_eq_true ..).mp hup).2
      have hlive : bit d.sys.deadLanes l = false := by simpa using ((Bool.and_eq_true ..).mp hruns).2
      have hsays : d.laneSays l k (sync && d.laneRuns l) (an && d.laneRuns l) = true := by
        rw [Dev.laneSays, hlane, show (sync && d.laneRuns l) = true from hup, hlive, hruns]
        simpa [or_assoc] using hmode
      have hlink := Dev.laneChange_link l.isLt d lock sync an errs.toNat hk (by rw [hband, Bool.false_and])
      rw [hsays, hreset] at hlink
      exact hlink
  case restart =>
    intro who k hreach hen
    have hwrite := Dev.rowWrite_tphy (r := .TPHY_CTRL) rfl rfl hreach 1
    exact ⟨_, (exec_tphyRestart_eq s who k).trans (next_congr hwrite), rfl, Dev.tphyWrite_restart_links k.isLt hen⟩
  case traverse =>
    intro b r ring hloop
    refine ⟨fun ago htrav hen hup hreset hon => ?_, fun t hon htrav => ?_⟩
    · obtain ⟨hstarts, hmem, hpass⟩ := Dev.travSfd_starts (ago := ago.toNat) htrav hen hup hreset hon
      exact ⟨_, exec_traverseFrame_sfd hloop ago, rfl, hstarts, hmem, hpass⟩
    intro i
    refine ⟨fun l hrink hmax hl => ?_, fun k => ?_, fun p hall hmin hmax hfcs hup hport => ?_⟩
    · have harrive := Dev.travBytes_arrive hon htrav hrink hmax hl
      exact ⟨_, exec_traverseFrame_line hloop l 0 false false, rfl, harrive⟩
    · have hpass := Dev.when_travSample_passes hon htrav k.toNat
      have hzero : k.toNat = 0 ↔ k = 0#12 := BitVec.toNat_inj (y := 0#12)
      refine ⟨_, exec_traverseFrame_line hloop [] k false false, rfl, hpass.mem, hpass.trav.trans ?_⟩
      simp only [hzero]
      rfl
    · have hbegins : (t.begins (d.travPort n)).port = some p := by
        rcases hport with ⟨hbegun, hp⟩ | ⟨hbegun, hp, hen, hreset, hheld⟩
        · rw [Trav.begins, if_pos hbegun, hp]
        · rw [Trav.begins, if_neg (by simp [hbegun]), Dev.travPort_other hp hup hen hreset hheld]
      have hend := Dev.travEnd_good hn hon htrav hall (hall ▸ hmin) (hall ▸ hmax) hfcs hbegins hup
      rw [Dev.travSent, ← hall] at hend
      exact ⟨_, exec_traverseFrame_line hloop [] 0 true false, rfl, hend⟩

end Sys2Proof.Machine
end

section
/-! O50: sequence recovery, duplicates, meters, cell accounts and table entries of the switch core (R245, R252, R264 to R266). -/

namespace Sys2Proof.Machine

/-! ### Sequence recovery (R265) -/

namespace SeqRec

/-- A number that a recovery does not take: the last one, one 32 or more off, or one of the history. -/
def Knows (r : SeqRec) (q : Nat) : Prop :=
  let up := (q + 65536 - r.recSeq) % 65536
  r.taken = true ∧ (up = 0 ∨ 32 ≤ up ∧ (32 ≤ 65536 - up ∨ bit r.hist (65536 - up) = true))

theorem accept_of_knows {r : SeqRec} {q : Nat} (h : r.Knows q) : r.accept q = (r, false) := by
  obtain ⟨htaken, hup⟩ := h
  unfold SeqRec.accept
  rw [htaken]
  rcases hup with hsame | ⟨hfar, hold⟩
  · simp only [Bool.not_true, Bool.false_eq_true, if_false, hsame, if_true]
  · have hsame : (q + 65536 - r.recSeq) % 65536 ≠ 0 := by omega
    simp only [Bool.not_true, Bool.false_eq_true, if_false, if_neg hsame, if_neg (Nat.not_lt.mpr hfar)]
    rcases hold with hbehind | hseen
    · rw [if_pos hbehind]
    · rw [if_pos hseen, ite_self]

/-- What has been taken last is known. -/
theorem knows_last (q hist : Nat) : (⟨true, q, hist⟩ : SeqRec).Knows q :=
  ⟨rfl, .inl (by rw [Nat.add_sub_cancel_left])⟩

theorem knows_of_accept {r : SeqRec} {q : Nat} (h : (r.accept q).2 = true) : (r.accept q).1.Knows q := by
  unfold SeqRec.accept at h ⊢
  dsimp only at h ⊢
  split
  case isTrue => exact knows_last ..
  case isFalse hfirst =>
  rw [if_neg hfirst] at h
  split
  case isTrue hsame => simp [hsame] at h
  case isFalse hsame =>
  rw [if_neg hsame] at h
  split
  case isTrue => exact knows_last ..
  case isFalse hfar =>
  rw [if_neg hfar] at h
  split
  case isTrue hdown => simp [hdown] at h
  case isFalse hdown =>
  rw [if_neg hdown] at h
  split
  case isTrue hold => simp [hold] at h
  case isFalse => exact ⟨by simpa using hfirst, .inr ⟨Nat.not_lt.mp hfar, .inr (bit_putBit_same ..)⟩⟩

end SeqRec

/-! ### Duplicates (R266) -/

namespace Dev

theorem redSeq_congr {s t : Dev} {r : Nat} (h : t.fld .SWC_RED_MODE r = s.fld .SWC_RED_MODE r) (f : Frame) : t.redSeq r f = s.redSeq r f := by
  rw [Dev.redSeq, Dev.redSeq, h]

theorem dupCheck_of_mem {s : Dev} {r : Nat} {f : Frame} {q : Nat} (hq : s.redSeq r f = some q) (h : f.sa * 2 ^ 16 + q ∈ s.swc.dup.get r) :
    (s.dupCheck r f).1 = true := by
  unfold Dev.dupCheck
  split
  · rfl
  · simp only [hq, List.contains_iff_mem.mpr h, if_true]

/-- A frame that is let pass joins the table of what has been seen, in the place of the oldest entry where that is full. -/
theorem dupCheck_passed {s : Dev} {r : Nat} {f : Frame} {q : Nat} (hq : s.redSeq r f = some q) (h : (s.dupCheck r f).1 = false) :
    let t := s.swc.dup.get r
    (s.dupCheck r f).2 = (s.when (decide (1024 ≤ t.length)) fun s => s.count .SWC_DUPTBL_OVF_CNT).updSwc fun w =>
      { w with dup := w.dup.set r ((if 1024 ≤ t.length then t.drop 1 else t) ++ [f.sa * 2 ^ 16 + q]) } := by
  unfold Dev.dupCheck at h ⊢
  split at h
  case isTrue => cases h
  case isFalse hown =>
  rw [if_neg hown]
  simp only [hq] at h ⊢
  split at h
  case isTrue => cases h
  case isFalse hnew =>
  rw [if_neg hnew]
  by_cases hfull : 1024 ≤ (s.swc.dup.get r).length <;> simp only [hfull, if_true, if_false, decide_true, decide_false, when_true, when_false]

end Dev

/-! ### Cell accounts (R252, R253) -/

namespace PortUse

theorem poolFit_frame (u : PortUse) (c : Nat) : u.poolFit c = { u with clsPool := (u.poolFit c).clsPool } := by
  unfold PortUse.poolFit
  split
  · rfl
  · split <;> rfl

theorem poolFit_fits (u : PortUse) (c : Nat) : (u.poolFit c).clsPool.get c ≤ u.cls.get c := by
  unfold PortUse.poolFit
  split
  case isTrue hfits => exact hfits
  case isFalse hover =>
  split
  case h_1 k hk =>
    have hroom : u.clsPool.get k < u.cls.get k := by simpa using List.find?_some hk
    have hck : c ≠ k := fun h => hover (h ▸ hroom.le)
    simp only [Tab.get_set_other _ _ hck, Tab.get_set_same, le_refl]
  case h_2 => simp only [Tab.get_set_same, le_refl]

/-- The account without a cell of class `c`, before the cell's source is settled. -/
def lessCell (u : PortUse) (c : Nat) : PortUse := { u with cls := u.cls.set c (u.cls.get c - 1) }

theorem freeCell_headroom {u : PortUse} (h : 0 < u.hdrm) (c : Nat) :
    u.freeCell c false = { u.lessCell c with hdrm := u.hdrm - 1 }.poolFit c := by
  simp only [PortUse.freeCell, Bool.false_eq_true, if_false]
  exact if_pos h.ne'

theorem freeCell_pool {u : PortUse} (hhdrm : u.hdrm = 0) (h : 0 < u.pool) (c : Nat) : u.freeCell c false =
    let k := u.poolClass c
    { u.lessCell c with pool := u.pool - 1, clsPool := u.clsPool.set k (u.clsPool.get k - 1) } := by
  simp only [PortUse.freeCell, Bool.false_eq_true, if_false]
  exact (if_neg (not_not_intro hhdrm)).trans (if_pos h.ne')

theorem freeCell_guaranteed {u : PortUse} (hhdrm : u.hdrm = 0) (hpool : u.pool = 0) (c : Nat) :
    u.freeCell c false = { u.lessCell c with guar := u.guar - 1 }.poolFit c := by
  simp only [PortUse.freeCell, Bool.false_eq_true, if_false]
  exact (if_neg (not_not_intro hhdrm)).trans (if_neg (not_not_intro hpool))

/-- A returned cell comes from one source of its port, and of its class's cells. -/
theorem freeCell_cases {u x : PortUse} {c : Nat} (h : u.freeCell c false = x) :
    x.sched = u.sched ∧ x.cls = u.cls.set c (u.cls.get c - 1) ∧
      (0 < u.hdrm ∧ x.hdrm = u.hdrm - 1 ∧ x.pool = u.pool ∧ x.guar = u.guar ∨
        u.hdrm = 0 ∧ 0 < u.pool ∧ x.hdrm = 0 ∧ x.pool = u.pool - 1 ∧ x.guar = u.guar ∨
        u.hdrm = 0 ∧ u.pool = 0 ∧ x.hdrm = 0 ∧ x.pool = 0 ∧ x.guar = u.guar - 1) := by
  rcases Nat.eq_zero_or_pos u.hdrm with hhdrm | hhdrm
  · rcases Nat.eq_zero_or_pos u.pool with hpool | hpool
    · rw [← h, freeCell_guaranteed hhdrm hpool, poolFit_frame]
      exact ⟨rfl, rfl, .inr (.inr ⟨hhdrm, hpool, hhdrm, hpool, rfl⟩)⟩
    · rw [← h, freeCell_pool hhdrm hpool]
      exact ⟨rfl, rfl, .inr (.inl ⟨hhdrm, hpool, hhdrm, rfl, rfl⟩)⟩
  · rw [← h, freeCell_headroom hhdrm, poolFit_frame]
    exact ⟨rfl, rfl, .inl ⟨hhdrm, rfl, rfl, rfl⟩⟩

/-- A class that gives up a cell of the pool gives up one of its own where it has any. -/
theorem poolClass_clsPool_le {u : PortUse} {c : Nat} (h : u.clsPool.get c ≤ u.cls.get c) :
    (u.clsPool.set (u.poolClass c) (u.clsPool.get (u.poolClass c) - 1)).get c ≤ u.cls.get c - 1 := by
  rw [Tab.get_set]
  by_cases hown : u.clsPool.get c ≠ 0
  · rw [PortUse.poolClass, if_pos hown, if_pos rfl]
    omega
  · split
    case isTrue hc => rw [← hc]; omega
    case isFalse => omega

theorem freeCell_clsPool_le {u : PortUse} {c : Nat} (h : u.clsPool.get c ≤ u.cls.get c) :
    (u.freeCell c false).clsPool.get c ≤ u.cls.get c - 1 := by
  have hcls : (u.lessCell c).cls.get c = u.cls.get c - 1 := Tab.get_set_same ..
  rcases Nat.eq_zero_or_pos u.hdrm with hhdrm | hhdrm
  · rcases Nat.eq_zero_or_pos u.pool with hpool | hpool
    · rw [freeCell_guaranteed hhdrm hpool]
      exact (poolFit_fits ..).trans_eq hcls
    · rw [freeCell_pool hhdrm hpool]
      exact poolClass_clsPool_le h
  · rw [freeCell_headroom hhdrm]
    exact (poolFit_fits ..).trans_eq hcls

end PortUse

/-! ### Table entries (R245) -/

/-- The bits of an entry that table `t` has. -/
def TblE.inTable (t : Nat) (e : TblE) : TblE :=
  let m := tblMask t
  ⟨e.d0 &&& m.d0, e.d1 &&& m.d1, e.d2 &&& m.d2, e.d3 &&& m.d3⟩

theorem Dev.tblGet_tblSet {t u : Nat} (ht : t < 4) (hu : u < 4) (s : Dev) (i k : Nat) (e : TblE) :
    (s.tblSet t i e).tblGet u k = if u = t ∧ k = i then e.inTable t else s.tblGet u k := by
  have htable (t : Nat) (ht : t < 4) : t = 0 ∨ t = 1 ∨ t = 2 ∨ t = 3 := by omega
  rcases htable t ht with rfl | rfl | rfl | rfl <;> rcases htable u hu with rfl | rfl | rfl | rfl <;>
    simp [Dev.tblSet, Dev.tblGet, TblE.inTable, Tab.get_set]

/-- Settles O50: what a recovery takes it knows, what has been let pass stands in the duplicate table, and a returned cell comes from one source of
its port and leaves its class within its cells. -/
theorem switchAccountsHold : Obligations.SwitchAccountsHold := by
  unfold Obligations.SwitchAccountsHold
  refine ⟨?recovery, ?duplicate, ?meter, ?cell, ?table⟩
  case recovery =>
    intro r q hq hr
    refine ⟨fun h => by rw [SeqRec.accept_of_knows (SeqRec.knows_of_accept h)], fun htaken hup hdown => SeqRec.accept_of_knows ⟨htaken, .inr ?_⟩⟩
    exact ⟨hup, .inl (by omega)⟩
  case duplicate =>
    intro d r f q hr hq hpass
    rw [Dev.dupCheck_passed hq hpass]
    refine ⟨Dev.dupCheck_of_mem (q := q) ?_ ?_, fun hlen => ?_⟩
    · refine (Dev.redSeq_congr ?_ f).trans hq
      have hregs : Dev.RegsBut [.SWC_DUPTBL_OVF_CNT] d (d.when (decide (1024 ≤ (d.swc.dup.get r).length)) fun s => s.count .SWC_DUPTBL_OVF_CNT) :=
        .when (.refl d) fun t h => h.count (Reg.hasCopy_alone rfl) (by decide)
      exact hregs.fld (f := .SWC_RED_MODE) (Reg.hasCopy_row rfl hr) (by decide)
    · rw [Dev.updSwc_swc, Tab.get_set_same]
      exact List.mem_append_right _ (List.mem_singleton_self _)
    · rw [Dev.updSwc_swc, Tab.get_set_same, List.length_append, List.length_singleton]
      split
      · rw [List.length_drop]
        omega
      · omega
  case meter =>
    intro e lacks gap n full now
    by_cases htokens : now + n * 8 * 1000000 ≤ full
    · have htakes : e.meterTake lacks gap n = (now + n * 8 * 1000000, true) := if_pos htokens
      rw [htakes]
      exact ⟨fun _ => htokens, iff_of_true rfl htokens, fun h => absurd h.symm Bool.false_ne_true⟩
    · have hlacks : e.meterTake lacks gap n = (now, false) := if_neg htokens
      rw [hlacks]
      exact ⟨(Nat.sub_le ..).trans, iff_of_false Bool.false_ne_true htokens, fun _ => rfl⟩
  case cell =>
    intro u c x
    have hx : u.freeCell c false = x := rfl
    clear_value x
    obtain ⟨hsched, hcls, hsource⟩ := PortUse.freeCell_cases hx
    have hclass : x.cls.get c = u.cls.get c - 1 := by rw [hcls, Tab.get_set_same]
    refine ⟨?_, ?_, ?_, hsched, ?_, fun k hk => by rw [hcls, Tab.get_set_other _ _ hk], fun h => ?_⟩
    · omega
    · omega
    · omega
    · omega
    · rw [hclass, ← hx]
      exact PortUse.freeCell_clsPool_le h
  case table =>
    intro d t i k e ht m
    refine ⟨?_, fun hk => ?_, fun u hu hut => ?_⟩
    · rw [Dev.tblGet_tblSet ht ht, if_pos ⟨rfl, rfl⟩]
      rfl
    · rw [Dev.tblGet_tblSet ht ht, if_neg fun h => hk h.2]
    · rw [Dev.tblGet_tblSet ht hu, if_neg fun h => hut h.1]

end Sys2Proof.Machine
end

section
/-! Rules for the queues of the switch core (O49): what charges, captures and ends copies leaves every egress queue and every selected copy
(R241, R246, R252, R253). -/

namespace Sys2Proof.Machine

namespace Dev
variable {s t u : Dev}

/-- Every egress queue, and the copy that each MAC has selected, stand in `t` as they do in `s`. -/
structure QueuesKept (s t : Dev) : Prop where
  egr : t.swc.egr = s.swc.egr
  sel : ∀ k, (t.macSt k).sel = (s.macSt k).sel

namespace QueuesKept

theorem refl (s : Dev) : QueuesKept s s := ⟨rfl, fun _ => rfl⟩

theorem ite {c : Prop} [Decidable c] (ht : QueuesKept s t) (hu : QueuesKept s u) : QueuesKept s (if c then t else u) := by
  split <;> assumption

section
variable (h : QueuesKept s t)
include h

theorem same (hegr : u.swc.egr = t.swc.egr) (hmac : u.mac = t.mac) : QueuesKept s u :=
  ⟨hegr.trans h.egr, fun k => (congrArg MacSt.sel (macSt_congr hmac k)).trans (h.sel k)⟩

theorem each {α : Type} {f : α → Dev → Dev} {l : List α} (hf : ∀ a t, QueuesKept s t → QueuesKept s (f a t)) : QueuesKept s (t.each l f) :=
  each_keeps (fun a _ => hf a) t h

theorem updMac {n : Nat} {f : MacSt → MacSt} (hf : ∀ m, (f m).sel = m.sel) : QueuesKept s (t.updMac n f) :=
  ⟨h.egr, fun k => by
    rw [macSt_updMac]
    split
    case isTrue hk => rw [hf, ← hk, h.sel]
    case isFalse => exact h.sel k⟩

theorem setFld {f : Fld} {v i : Nat} : QueuesKept s (t.setFld f v i) := h.same rfl rfl

theorem setFlag {f : Fld} {b : Bool} {i : Nat} : QueuesKept s (t.setFlag f b i) := h.same rfl rfl

theorem count {r : Reg} {i : Nat} : QueuesKept s (t.count r i) := h.same rfl rfl

theorem updSwc {f : SwcSt → SwcSt} (hf : ∀ w, (f w).egr = w.egr) : QueuesKept s (t.updSwc f) := h.same (hf _) rfl

theorem poolShow : QueuesKept s t.poolShow := h.setFld.setFld

theorem useShow {p : Nat} : QueuesKept s (t.useShow p) := h.setFld.setFld.setFld.poolShow

theorem updUse {p : Nat} {f : PortUse → PortUse} : QueuesKept s (t.updUse p f) :=
  (h.updSwc (f := fun x => { x with use := x.use.upd p f }) fun _ => rfl).useShow

theorem sends {n : Nat} {x : Sent} : QueuesKept s (t.sends n x) := h.updMac fun _ => rfl

theorem egrCells {p : Nat} {f : Nat → Nat} : QueuesKept s (t.egrCells p f) := h.setFld

theorem updFrame {cell : Nat} {f : FrameSt → FrameSt} : QueuesKept s (t.updFrame cell f) := h.updSwc fun _ => rfl

theorem sendControl {n op : Nat} {params : List Byte} : QueuesKept s (t.sendControl n op params) :=
  .ite h (.ite (h.updMac fun _ => rfl) (h.sends).count)

theorem sendPause {n quanta : Nat} : QueuesKept s (t.sendPause n quanta) := h.sendControl

theorem sendPfc {n c quanta : Nat} : QueuesKept s (t.sendPfc n c quanta) := .ite h h.sendControl

theorem bpUpdate {p : Nat} : QueuesKept s (t.bpUpdate p) :=
  .ite h ((QueuesKept.ite h.setFlag.count.sendPause (.ite h.setFlag.sendPause h.setFlag)).each fun _ _ h =>
    .ite h.setFld.count.sendPfc (.ite h.setFld.sendPfc h.setFld))

theorem uncharge {p c k : Nat} {sched : Bool} : QueuesKept s (t.uncharge p c sched k) :=
  h.updUse.each fun _ _ h => h.bpUpdate

theorem endCopy {cell p : Nat} : QueuesKept s (t.endCopy cell p) :=
  .ite h.egrCells.updFrame h.egrCells.updFrame.uncharge

theorem txtsAdd {n : Nat} {e : TxtsE} : QueuesKept s (t.txtsAdd n e) :=
  .ite h.count (when_keeps (P := QueuesKept s) (fun u hu => hu.same (by rw [ringMask_frame]) (by rw [ringMask_frame])) _ (h.same rfl rfl))

theorem dropCopy {cell p : Nat} : QueuesKept s (t.dropCopy cell p) := by
  have hsent : QueuesKept s (t.notSent p cell) := by
    unfold Dev.notSent
    split
    · exact h.txtsAdd
    · exact h
  exact (QueuesKept.ite hsent h).endCopy

theorem capture {x : CapInfo} {ue : Bool} : QueuesKept s (t.capture x ue) := by
  unfold Dev.capture
  dsimp only
  refine .ite h ?_
  split
  · exact h.same rfl rfl
  · exact .ite (h.same rfl rfl) (.ite (h.same rfl rfl) (h.same rfl rfl))

theorem captureCopy {cell port dir reason : Nat} : QueuesKept s (t.captureCopy cell port dir reason) := by
  have hread (l : List Nat) (n : Nat) : QueuesKept s (Dev.readCells l n t).2 := by
    obtain ⟨honly, -⟩ := readCells_frame l n t
    exact h.same (by rw [honly]) honly.mac
  exact .ite h (hread ..).capture

end

end QueuesKept

/-- A MAC that is flushed has nothing queued and nothing selected (R246). -/
theorem flushPort_empties (s : Dev) (n : Nat) : (s.flushPort n).swc.egr.get n = [] ∧ ((s.flushPort n).macSt n).sel = none := by
  set taken := (s.updSwc fun w => { w with egr := w.egr.set n [] }).updMac n fun m => { m with sel := none }
  have hkept : QueuesKept taken (s.flushPort n) := (QueuesKept.refl taken).each fun _ _ h => h.captureCopy.dropCopy.count
  have hegr : taken.swc.egr.get n = [] := Tab.get_set_same s.swc.egr n []
  have hsel : (taken.macSt n).sel = none := congrArg MacSt.sel (macSt_updMac_same ..)
  exact ⟨(congrArg (Tab.get · n) hkept.egr).trans hegr, (hkept.sel n).trans hsel⟩

end Dev

end Sys2Proof.Machine
end

section
/-! Rules for the tables of the switch core (O49): the commands of SWC_TBL_CMD (R245). -/

namespace Sys2Proof.Machine

namespace Dev
variable {s : Dev}

/-- A register of the pages of the switch core is written by the core's rules. -/
theorem rowWrite_swc {who : Agent} {r : Reg} {i j : Nat} (hb : r.info.blk = .SWC) (hr : r.single = true) (h : s.reaches who r i j true) (v : Nat) :
    s.rowWrite who r v i j = s.swcWrite r i j 0 who.mid who.ctx v := by
  rw [rowWrite_reaches h, copyStore_single _ hr, Dev.regStore, hb]

theorem plain_swc (r : Reg) (v i j k : Nat) : (s.plain r v i j k).swc = s.swc := by rw [plain_frame]

/-! ### What a command is taken for -/

theorem tblRow_reaches {who : Agent} (h : s.reaches who .SWC_TBL_CMD 0 0 true) {op v : Nat} (hop : bits v 5 3 = op) :
    s.tblRow who op v = s.tblCmd v :=
  (if_pos hop).trans (rowWrite_swc rfl rfl h v)

theorem tblCmd_busy (h : s.flag .SWC_TBL_STATUS_BUSY = true) (v : Nat) : s.tblCmd v =
    if bits v 15 6 = 0 then s.count .SWC_TBL_REFUSE_CNT else (s.count .SWC_TBL_REFUSE_CNT).refuseWrite .SWC_TBL_CMD := if_pos h

/-- The commands that a table has: reads and writes by index, and the operations by key where its entries have keys. -/
theorem tblCmd_legal (h : s.flag .SWC_TBL_STATUS_BUSY = false) {v : Nat} (ht : bits v 2 0 < 4)
    (hop : bits v 5 3 ≤ 1 ∨ bits v 5 3 ≤ 4 ∧ (bits v 2 0 = 0 ∨ bits v 2 0 = 3)) :
    s.tblCmd v = (s.plain .SWC_TBL_CMD v).tblExec (bits v 2 0) (bits v 5 3) (bits v 31 16) := by
  have hok : (decide (bits v 2 0 ≤ 3) && (decide (bits v 5 3 ≤ 1) || (decide (bits v 5 3 ≤ 4) && (bits v 2 0 == 0 || bits v 2 0 == 3)))) = true := by
    simpa using ⟨Nat.le_of_lt_succ ht, hop⟩
  unfold Dev.tblCmd
  rw [if_neg (by simp [h])]
  exact if_pos hok

/-! ### What a command does -/

section
variable {t i k : Nat}

theorem tblExec_read (h : i < tblSize t) : s.tblExec t 0 i = (s.tblShow (s.tblGet t i)).tblRun 0 i := if_pos h

theorem tblExec_write (h : i < tblSize t) : s.tblExec t 1 i = (s.tblSet t i s.tblData).tblRun 0 i := if_pos h

theorem tblExec_lookup_found (h : s.tblFind t s.tblData = some k) : s.tblExec t 2 i = (s.tblShow (s.tblGet t k)).tblRun 0 k := by
  simp only [Dev.tblExec, h]

theorem tblExec_lookup_missing (h : s.tblFind t s.tblData = none) : s.tblExec t 2 i = s.tblRun 1 0 := by simp only [Dev.tblExec, h]

theorem tblExec_insert_found (h : s.tblFind t s.tblData = some k) : s.tblExec t 3 i = (s.tblSet t k s.tblData).tblRun 0 k := by
  simp only [Dev.tblExec, h]

theorem tblExec_insert_free {e : Dev} (h : s.tblFind t s.tblData = none) (hfree : s.tblFree t s.tblData = (some k, e)) :
    s.tblExec t 3 i = (e.tblSet t k e.tblData).tblRun 0 k := by simp only [Dev.tblExec, h, hfree]

theorem tblExec_delete_found (h : s.tblFind t s.tblData = some k) : s.tblExec t 4 i = (s.tblSet t k default).tblRun 0 k := by
  simp only [Dev.tblExec, h]

theorem tblExec_delete_missing (h : s.tblFind t s.tblData = none) : s.tblExec t 4 i = s.tblRun 1 0 := by simp only [Dev.tblExec, h]

end

end Dev

/-! ### Aging (R244) -/

namespace Dev
variable {s : Dev} {i : Nat}

theorem fdbAge_dynamic (hvalid : (s.swc.fdb.get i).valid = true) (hstatic : (s.swc.fdb.get i).isStatic = false) (hage : s.fld .SWC_AGE_CFG_AGE_S ≠ 0) :
    s.fdbAge i = s.setFdb i default := if_pos (by simp [hvalid, hstatic, hage])

theorem fdbAge_kept (h : (s.swc.fdb.get i).isStatic = true ∨ s.fld .SWC_AGE_CFG_AGE_S = 0) : s.fdbAge i = s :=
  if_neg (by rcases h with h | h <;> simp [h])

end Dev

end Sys2Proof.Machine
end

section
/-! Rules for the internal ports of the switch core (O49): delivery, release and injection of frames (R248 to R250, R254). -/

namespace Sys2Proof.Machine

theorem findCyclic_some {ok : Nat → Bool} {n k i j : Nat} (h : findCyclic ok n k i = some j) : ok j = true := by
  induction k generalizing i with
  | zero => cases h
  | succ k ih =>
    unfold findCyclic at h
    split at h
    case isTrue hok => exact Option.some.inj h ▸ hok
    case isFalse => exact ih h

/-- The notice of a frame gives the length that is written. -/
theorem bits_noticeHigh {len : Nat} (h : len < 2 ^ 16) (ptr tag : Nat) : bits (noticeHigh ptr len tag) 23 8 = len := by
  have hptr : bits ptr 39 32 < 2 ^ 8 := bits_lt ..
  unfold noticeHigh
  generalize bits ptr 39 32 = high at *
  unfold bits
  omega

namespace Dev
variable {s t : Dev}

/-! ### Delivery (R248, R249) -/

/-- The oldest copy of a class has left the queue of port `p` and is held by the port. -/
def copyHeld (p : Nat) (c : Copy) (rest : List Copy) (s : Dev) : Dev :=
  s.updSwc fun w => { w with egr := w.egr.set p rest, held := w.held.upd p (· ++ [⟨c.cell, c.pm.isSome, none, []⟩]) }

theorem copyHeld_lists (s : Dev) (p : Nat) (c : Copy) (rest : List Copy) :
    (⟨c.cell, c.pm.isSome, none, []⟩ : Held) ∈ (s.copyHeld p c rest).swc.held.get p ∧ (s.copyHeld p c rest).swc.egr.get p = rest := by
  simp [copyHeld]

section
variable {p cls : Nat} {c : Copy} {rest : List Copy} (hroom : s.heldCells p < s.fld .SWC_IPORT_HOLD_MAX (p - 28)) (hwait : s.portWaits p = false)
  (htake : takeCopy cls (s.swc.egr.get p) = some (c, rest))
include hroom hwait htake

/-- A copy whose push to a rink is not refused leaves its queue; it is held where the push has been accepted. -/
theorem deliverCopy_rink (hp : p < 36) {r : PushRes} (hpush : s.push (p - 28) (s.copyJob p c) (some (.swc p c.pm.isSome)) = (r, t))
    (hr : r ≠ .refused) : s.deliverCopy p cls = t.updSwc fun w => { w with
      egr := w.egr.set p rest, held := if r = .accepted then w.held.upd p (· ++ [⟨c.cell, c.pm.isSome, none, []⟩]) else w.held } := by
  have hgo : (decide (s.fld .SWC_IPORT_HOLD_MAX (p - 28) ≤ s.heldCells p) || s.portWaits p) = false := by simpa [hwait] using hroom
  simp only [Dev.deliverCopy, hgo, Bool.false_eq_true, if_false, htake, if_pos hp, hpush]
  cases r with
  | accepted => rfl
  | waiting => rfl
  | refused => exact absurd rfl hr

/-- A copy for Patrol or the host is held, and a notice of it is posted to the next mailbox. -/
theorem deliverCopy_notice (hp : 36 ≤ p) {m : Nat} (hm : s.freeMbox p = some m) : ∃ turn, s.deliverCopy p cls =
    ((((s.copyHeld p c rest).updSwc fun w => { w with mboxNext := turn }).mbxStage 0x70 0 c.cell).mbxCommit m 0x70 0
      (noticeHigh c.cell ((16 + (s.frame c.cell).flen + 63) / 64) (s.frame c.cell).port)) := by
  have hgo : (decide (s.fld .SWC_IPORT_HOLD_MAX (p - 28) ≤ s.heldCells p) || s.portWaits p) = false := by simpa [hwait] using hroom
  simp only [Dev.deliverCopy, hgo, Bool.false_eq_true, if_false, htake, if_neg (Nat.not_lt.mpr hp), hm]
  exact ⟨_, rfl⟩

end

theorem freeMbox_some {p m : Nat} (h : s.freeMbox p = some m) : m < 256 ∧ s.flag .MBX_STATUS_FULL m = false := by
  obtain ⟨i, hi, rfl⟩ := Option.map_eq_some_iff.mp h
  exact ⟨Nat.mod_lt _ (by decide), by simpa using findCyclic_some hi⟩

theorem mbxCommit_swc (s : Dev) (m mid ctx hi : Nat) : (s.mbxCommit m mid ctx hi).swc = s.swc := by
  unfold Dev.mbxCommit
  split
  · rfl
  split <;> rfl

/-- A commit takes the low 32 bits of its word. -/
theorem mbxCommit_mod (s : Dev) (m mid ctx hi : Nat) : s.mbxCommit m mid ctx (hi % 2 ^ 32) = s.mbxCommit m mid ctx hi := by
  have hlen : bits (hi % 2 ^ 32) 23 8 = bits hi 23 8 := by
    unfold bits
    omega
  have hword : word (hi % 2 ^ 32) = word hi := BitVec.eq_of_toNat_eq (by simp [word])
  simp only [Dev.mbxCommit, Dev.mbxStore, Dev.setReg, hlen, hword]

/-- A notice staged and committed to a mailbox that is not full stands there. -/
theorem notice_posted {m : Nat} (hm : m < 256) (hfull : s.flag .MBX_STATUS_FULL m = false) {len : Nat} (hpos : 0 < len) (hlen : len < 2 ^ 16)
    (ptr tag : Nat) : let t := (s.mbxStage 0x70 0 ptr).mbxCommit m 0x70 0 (noticeHigh ptr len tag)
    t.flag .MBX_STATUS_FULL m = true ∧ t.reg .MBX_NOTICE_LOW m = ptr % 2 ^ 32 ∧ t.swc = s.swc := by
  intro t
  have hhigh : bits (noticeHigh ptr len tag % 2 ^ 32) 23 8 ≠ 0 := by
    have hmod : bits (noticeHigh ptr len tag % 2 ^ 32) 23 8 = bits (noticeHigh ptr len tag) 23 8 := by
      unfold bits
      omega
    rw [hmod, bits_noticeHigh hlen]
    exact hpos.ne'
  have hposted := mbxCommit_posted (s := s.mbxStage 0x70 0 ptr) (mid := 0x70) (ctx := 0) hhigh hfull hm (by decide) (by decide) (Nat.mod_lt _ (by decide))
  rw [mbxCommit_mod] at hposted
  refine ⟨hposted.holds.full, hposted.holds.low.trans ?_, mbxCommit_swc ..⟩
  simp [Dev.mbxStage, word]

/-! ### Release (R248) -/

section
variable {mid p v : Nat} (hp : portOfMid mid = some p)
include hp

theorem freeCopy_held (h : ∃ x ∈ s.swc.held.get p, (x.cell == bits v 26 0) = true) : s.freeCopy mid v =
    ((s.plain .SWC_FREE v).updSwc fun w => { w with held := w.held.upd p (List.eraseP fun x => x.cell == bits v 26 0) }).endCopy (bits v 26 0) p := by
  have hholds : ((s.plain .SWC_FREE v).holds p (bits v 26 0)).isSome = true := by simpa [Dev.holds, plain_swc] using h
  simp only [Dev.freeCopy, hp, hholds, if_true]

theorem freeCopy_other (h : ∀ x ∈ s.swc.held.get p, (x.cell == bits v 26 0) = false) :
    s.freeCopy mid v = (s.plain .SWC_FREE v).count .SWC_FREE_BAD_CNT := by
  have hholds : ((s.plain .SWC_FREE v).holds p (bits v 26 0)).isSome = false := by simpa [Dev.holds, plain_swc] using h
  simp only [Dev.freeCopy, hp, hholds, Bool.false_eq_true, if_false]

end

/-! ### Injection (R250, R254) -/

theorem injWrite_accepted {mid ctx p a b c x v : Nat} (hp : portOfMid mid = some p) (hstage : s.swc.injStage.get (mid * 4 + ctx) = [a, b, c, x])
    (hlegal : injLegal p ⟨a, b, c, v, tb40 (s.copyVal islSwitch 0)⟩ = true) (hroom : (s.swc.inj.get p).length < 64) :
    s.injWrite 3 mid ctx v = s.updSwc fun w => { w with
      inj := w.inj.upd p (· ++ [⟨a, b, c, v, tb40 (s.copyVal islSwitch 0)⟩])
      injStage := w.injStage.set (mid * 4 + ctx) [], injRes := w.injRes.set (mid * 4 + ctx) 1 } := by
  have hwords : ([a, b, c, x].set 3 v) = [a, b, c, v] := rfl
  simp only [Dev.injWrite, hstage, reduceCtorEq, if_false, hwords, ne_eq, not_true_eq_false, hp, List.getD_cons_zero, List.getD_cons_succ, hlegal,
    Bool.not_true, Bool.false_eq_true, Nat.not_le.mpr hroom]
  rfl

/-- The source of a descriptor without doorbell is read whole, and its frame is forwarded. -/
theorem injectStart_reads {p gap len a : Nat} {j : InjD} {rest : List InjD} {r : RdRes × Dev} (hq : s.swc.inj.get p = j :: rest)
    (hlen : bits j.w1 21 8 = len) (ha : j.w0 + bits j.w1 7 0 * 2 ^ 32 = a) (hbell : bit j.w2 18 = false)
    (hcredit : s.credit p (bits j.w1 24 22) (cellsFor len) = true) (hfirst : rangeOf a = .shared) (hlast : rangeOf (a + len - 1) = .shared)
    (hread : (s.updSwc fun w => { w with inj := w.inj.set p rest }).physRead 0x70 a len = r) (hue : r.1.ue = false) :
    s.injectStart p gap = r.2.forward p r.1.data (some j) j.ts 0 gap := by
  obtain ⟨q, t⟩ := r
  have hgo : ¬(!s.credit p (bits j.w1 24 22) (cellsFor len)) = true := by simp [hcredit]
  have hinside : ¬(!(rangeOf a == .shared && rangeOf (a + len - 1) == .shared)) = true := by simp [hfirst, hlast]
  subst hlen ha
  unfold Dev.injectStart
  rw [hq]
  refine (if_neg hgo).trans ((if_neg hinside).trans ?_)
  rw [hread]
  exact (if_neg (by simpa using hue)).trans (if_neg (by simp [hbell]))

end Dev

end Sys2Proof.Machine
end

section
/-! Rules for the gate lists of the switch core (O49, R260 to R262). -/

namespace Sys2Proof.Machine

namespace Dev
variable {s : Dev} {n : Nat}

/-! ### What a change of the shown entry and the start of control tasks leave -/

/-- GATES and ENTRY stand beside OPER_BANK and PENDING. -/
theorem gclShow_fld {q : Fld} (hq : q.reg = .SWC_GCL_STAT) (hhi : q.hi < 8) (off : Nat) (s : Dev) : (s.gclShow n off).fld q n = s.fld q n := by
  unfold Dev.gclShow
  dsimp only
  rw [fld_setFld_beside _ (f := .SWC_GCL_STAT_GATES) (by decide) (by decide) hq (.inl hhi),
    fld_setFld_beside _ (f := .SWC_GCL_STAT_ENTRY) (by decide) (by decide) hq (.inl (hhi.trans (by decide)))]

theorem gclShow_swc (off : Nat) (s : Dev) : (s.gclShow n off).swc = s.swc := rfl

theorem ctlGate_keeps (m c : Nat) (s : Dev) : (s.ctlGate m c).regs = s.regs ∧ (s.ctlGate m c).swc = s.swc := by
  refine each_keeps (P := fun t => t.regs = s.regs ∧ t.swc = s.swc) (fun k _ t ht => ?_) s ⟨rfl, rfl⟩
  dsimp only
  split
  · exact ht
  · exact ht

theorem when_ctlGate_keeps (b : Bool) (m c : Nat) (s : Dev) :
    (if b = true then s.ctlGate m c else s).regs = s.regs ∧ (if b = true then s.ctlGate m c else s).swc = s.swc := by
  cases b
  · exact ⟨rfl, rfl⟩
  · exact ctlGate_keeps ..

/-! ### A cycle starts (R260) -/

theorem gclCycle_due {g : GclSt} (hg : s.swc.gcl.get n = g) (hen : s.flag .SWC_GCL_CFG_EN n = true)
    (hdue : s.dueAt islSwitch (s.fld .SWC_GCL_CFG_TB n) g.next = .due) (hkeep : s.flag .SWC_GCL_STAT_PENDING n = false ∨ g.switchAt ≠ g.next) :
    s.gclCycle n = (s.updSwc fun w => { w with gcl := w.gcl.set n { g with
      started := true, start := g.next
      next := (g.next + s.reg .SWC_GCL_CYCLE n (s.fld .SWC_GCL_STAT_OPER_BANK n)) % 2 ^ 32 } }).gclShow n 0 := by
  have hgo : (!s.flag .SWC_GCL_CFG_EN n || (s.flag .SWC_GCL_STAT_PENDING n && g.switchAt == g.next)) = false := by
    rcases hkeep with hnone | hlater
    · simp [hen, hnone]
    · simp [hen, hlater]
  simp only [Dev.gclCycle, hg, hgo, Bool.false_eq_true, if_false, hdue]

theorem gclRow_starts {g : GclSt} (hg : s.swc.gcl.get n = g) (hen : s.flag .SWC_GCL_CFG_EN n = true)
    (hdue : s.dueAt islSwitch (s.fld .SWC_GCL_CFG_TB n) g.next = .due) (hkeep : s.flag .SWC_GCL_STAT_PENDING n = false ∨ g.switchAt ≠ g.next) :
    (s.gclRow n).swc.gcl.get n = { g with
      started := true, start := g.next
      next := (g.next + s.reg .SWC_GCL_CYCLE n (s.fld .SWC_GCL_STAT_OPER_BANK n)) % 2 ^ 32 } := by
  have hrow : (s.gclRow n).swc = (s.gclCycle n).swc := (when_ctlGate_keeps ..).2
  rw [hrow, gclCycle_due hg hen hdue hkeep, gclShow_swc, updSwc_swc, Tab.get_set_same]

theorem gclEntry_started (hen : s.flag .SWC_GCL_CFG_EN n = true) (hstarted : (s.swc.gcl.get n).started = true) : s.gclEntry n =
    s.gclShow n (min (sub32 (s.gclNow n) (s.swc.gcl.get n).start) (s.reg .SWC_GCL_CYCLE n (s.fld .SWC_GCL_STAT_OPER_BANK n) - 1)) :=
  if_neg (by simp [hen, hstarted])

/-! ### A switch is armed (R262) -/

theorem bits_zero (v : Nat) : bits v 0 0 = v % 2 := by simp [bits]

theorem gclArm_stopped (hen : s.flag .SWC_GCL_CFG_EN n = false) (v : Nat) :
    (s.gclArm n v).fld .SWC_GCL_STAT_OPER_BANK n = v % 2 := by
  simp only [Dev.gclArm, hen, Bool.false_and, Bool.false_eq_true, if_false, Bool.not_false, if_true]
  rw [Dev.setFlag, fld_setFld_beside _ (f := .SWC_GCL_STAT_PENDING) (q := .SWC_GCL_STAT_OPER_BANK) (by decide) (by decide) rfl (by decide),
    fld_setFld_same _ _ (by decide) (by decide), bits_zero]
  exact Nat.mod_mod v 2

theorem gclArm_other (hn : n < 28) (hen : s.flag .SWC_GCL_CFG_EN n = true) {v : Nat} (hv : s.fld .SWC_GCL_STAT_OPER_BANK n ≠ v % 2) :
    (s.gclArm n v).flag .SWC_GCL_STAT_PENDING n = true ∧ (s.gclArm n v).fld .SWC_GCL_STAT_OPER_BANK n = s.fld .SWC_GCL_STAT_OPER_BANK n := by
  have hother : (true && bits v 0 0 == s.fld .SWC_GCL_STAT_OPER_BANK n) = false := by
    rw [bits_zero, Bool.true_and]
    exact beq_eq_false_iff_ne.mpr hv.symm
  have hplain : RegsBut [.SWC_GCL_SW, .SWC_MISUSE_CNT] s (s.plain .SWC_GCL_SW v n) :=
    .plain (.refl s) (Reg.hasCopy_row rfl hn) (Reg.hasCopy_alone rfl) (by decide) (by decide)
  simp only [Dev.gclArm, hen, hother, Bool.false_eq_true, if_false, Bool.not_true]
  refine ⟨flag_setFlag_same _ _ rfl (by decide) .., ?_⟩
  rw [Dev.setFlag, fld_setFld_beside _ (f := .SWC_GCL_STAT_PENDING) (q := .SWC_GCL_STAT_OPER_BANK) (by decide) (by decide) rfl (by decide),
    fld_congr (updSwc_regs ..)]
  exact hplain.fld (Reg.hasCopy_row rfl hn) (by decide)

theorem gclArm_same (hen : s.flag .SWC_GCL_CFG_EN n = true) {v : Nat} (hv : s.fld .SWC_GCL_STAT_OPER_BANK n = v % 2) :
    s.gclArm n v = s.misuse .SWC := if_pos (by simp [hen, bits_zero, hv])

/-! ### The armed bank takes over (R262) -/

theorem gclSwitch_due (hen : s.flag .SWC_GCL_CFG_EN n = true) (hpend : s.flag .SWC_GCL_STAT_PENDING n = true)
    (hdue : s.dueAt islSwitch (s.fld .SWC_GCL_CFG_TB n) (s.swc.gcl.get n).switchAt = .due) :
    (s.gclSwitch n).fld .SWC_GCL_STAT_OPER_BANK n = 1 - s.fld .SWC_GCL_STAT_OPER_BANK n ∧
      (s.gclSwitch n).flag .SWC_GCL_STAT_PENDING n = false ∧ ((s.gclSwitch n).swc.gcl.get n).start = (s.swc.gcl.get n).switchAt := by
  simp only [Dev.gclSwitch, hen, hpend, Bool.not_true, Bool.or_self, Bool.false_eq_true, if_false, hdue]
  refine ⟨?_, ?_, ?_⟩
  · rw [gclShow_fld rfl (by decide), fld_congr (updSwc_regs ..), Dev.setFlag,
      fld_setFld_beside _ (f := .SWC_GCL_STAT_PENDING) (q := .SWC_GCL_STAT_OPER_BANK) (by decide) (by decide) rfl (by decide),
      fld_setFld_same _ _ (by decide) (by decide)]
    exact Nat.mod_eq_of_lt (Nat.lt_of_le_of_lt (Nat.sub_le ..) (by decide))
  · rw [Dev.flag, gclShow_fld rfl (by decide), fld_congr (updSwc_regs ..)]
    exact flag_setFlag_same _ _ rfl (by decide) ..
  · rw [gclShow_swc, updSwc_swc, Tab.get_set_same]

theorem gclSwitchRow_keeps (s : Dev) (n : Nat) : (s.gclSwitchRow n).regs = (s.gclSwitch n).regs ∧ (s.gclSwitchRow n).swc = (s.gclSwitch n).swc :=
  when_ctlGate_keeps ..

theorem gclSwitchRow_takesOver (hen : s.flag .SWC_GCL_CFG_EN n = true) (hpend : s.flag .SWC_GCL_STAT_PENDING n = true)
    (hdue : s.dueAt islSwitch (s.fld .SWC_GCL_CFG_TB n) (s.swc.gcl.get n).switchAt = .due) :
    (s.gclSwitchRow n).fld .SWC_GCL_STAT_OPER_BANK n = 1 - s.fld .SWC_GCL_STAT_OPER_BANK n ∧
      (s.gclSwitchRow n).flag .SWC_GCL_STAT_PENDING n = false ∧ ((s.gclSwitchRow n).swc.gcl.get n).start = (s.swc.gcl.get n).switchAt := by
  obtain ⟨hregs, hswc⟩ := gclSwitchRow_keeps s n
  rw [fld_congr hregs, flag_congr hregs, hswc]
  exact gclSwitch_due hen hpend hdue

end Dev

end Sys2Proof.Machine
end

section
/-! O49: tables, aging, delivery, release, injection and gate lists of the switch core (R244 to R250, R254, R260 to R266). -/

namespace Sys2Proof.Machine

/-! ### The rows -/

section
variable (n : Fin 28) (who : Agent) (v : Word) (s : State)

theorem exec_downFlush_eq (hdown : s.dev.flag .MAC_STATUS_LINK n = false) (hms : s.dev.fld .SWC_CFG_DOWN_FLUSH_MS ≠ 0) :
    exec (.downFlush n) s = .next (s.withDev (s.dev.flushPort n)) := next_congr (if_pos (by simp [hdown, hms]))

theorem exec_fdbAging_eq (i : BitVec 15) : exec (.fdbAging i) s = .next (s.withDev (s.dev.fdbAge i.toNat)) := rfl

/-- The five table commands, each with its OP. -/
theorem exec_tblCommand_eq {c : Instr} {op : Nat}
    (h : (c, op) ∈ [(Instr.tblRead who v, 0), (.tblWrite who v, 1), (.tblLookup who v, 2), (.tblInsert who v, 3), (.tblDelete who v, 4)]) :
    exec c s = .next (s.withDev (s.dev.tblRow who op v.toNat)) := by
  simp only [List.mem_cons, Prod.mk.injEq, List.not_mem_nil, or_false] at h
  rcases h with ⟨rfl, rfl⟩ | ⟨rfl, rfl⟩ | ⟨rfl, rfl⟩ | ⟨rfl, rfl⟩ | ⟨rfl, rfl⟩ <;> rfl

theorem exec_tblDone_eq (h : s.dev.flag .SWC_TBL_STATUS_BUSY = true) : exec .tblDone s = .next (s.withDev
    (((s.dev.setFlag .SWC_TBL_STATUS_BUSY false).setFld .SWC_TBL_STATUS_RESULT s.dev.swc.tblRes).setFld .SWC_TBL_STATUS_INDEX s.dev.swc.tblIdx)) :=
  next_congr (if_pos h)

theorem exec_copyDelivery_eq (p : Fin 10) (cls : Fin 8) :
    exec (.copyDelivery p cls) s = .next (s.withDev (s.dev.deliverCopy (28 + p) cls)) := rfl

theorem exec_copyRelease_eq (h : s.dev.reaches who .SWC_FREE 0 0 true) :
    exec (.copyRelease who v) s = .next (s.withDev (s.dev.freeCopy who.mid v.toNat)) := next_congr (Dev.rowWrite_swc rfl rfl h _)

theorem exec_injectCommit_eq (h : s.dev.reaches who .SWC_INJ 3 0 true) :
    exec (.injectCommit who v) s = .next (s.withDev (s.dev.injWrite 3 who.mid who.ctx v.toNat)) := next_congr (Dev.rowWrite_swc rfl rfl h _)

theorem exec_injectionStart_eq (p : Fin 10) (gap : BitVec 32) :
    exec (.injectionStart p gap) s = .next (s.withDev (s.dev.injectStart (28 + p) gap.toNat)) := rfl

theorem exec_gclCycleStart_eq : exec (.gclCycleStart n) s = .next (s.withDev (s.dev.gclRow n)) := rfl

theorem exec_gclEntryChange_eq : exec (.gclEntryChange n) s = .next (s.withDev (s.dev.gclEntry n)) := rfl

theorem exec_gclSwitchArm_eq (h : s.dev.reaches who .SWC_GCL_SW n 0 true) :
    exec (.gclSwitchArm who n v) s = .next (s.withDev (s.dev.gclArm n v.toNat)) := next_congr (Dev.rowWrite_swc rfl rfl h _)

theorem exec_gclSwitch_eq : exec (.gclSwitch n) s = .next (s.withDev (s.dev.gclSwitchRow n)) := rfl

end

/-- Settles O49: a command reaches the core's own operation, and each operation has the rule of its case. -/
theorem switchRowsComplete : Obligations.SwitchRowsComplete := by
  unfold Obligations.SwitchRowsComplete
  intro n who v s d out next
  have hn := n.isLt
  have hnext {i : Instr} {e : Dev} {p : Dev → Prop} (hexec : exec i s = .next (s.withDev e)) (he : p e) : next i p :=
    ⟨s.withDev e, hexec, s.withDev_pending e, by rwa [State.withDev_dev]⟩
  clear_value next
  refine ⟨?flush, ?aging, fun _ _ _ => rfl, fun _ => rfl, ?table, exec_tblDone_eq s, ?delivery, ?release, ?commit, ?start, ?gates⟩
  case flush =>
    intro hdown hms
    exact hnext (exec_downFlush_eq n s hdown hms) (Dev.flushPort_empties ..)
  case aging =>
    intro i e
    exact ⟨fun hvalid hstatic hage => (exec_fdbAging_eq s i).trans (next_congr (Dev.fdbAge_dynamic hvalid hstatic hage)),
      fun h => (exec_fdbAging_eq s i).trans (next_congr (Dev.fdbAge_kept h))⟩
  case table =>
    intro hreach p t i op keyed
    refine ⟨fun c k hc hop hbusy => ?_, fun hidle ht => ?_⟩
    · exact (exec_tblCommand_eq who v s hc).trans (next_congr ((Dev.tblRow_reaches hreach hop).trans (Dev.tblCmd_busy hbusy _)))
    have hcommand {c : Instr} {k : Nat}
        (hc : (c, k) ∈ [(Instr.tblRead who v, 0), (.tblWrite who v, 1), (.tblLookup who v, 2), (.tblInsert who v, 3), (.tblDelete who v, 4)])
        (hop : op = k) (hlegal : k ≤ 1 ∨ k ≤ 4 ∧ keyed) {e : Dev} (he : p.tblExec t k i = e) : exec c s = out e := by
      subst hop
      exact (exec_tblCommand_eq who v s hc).trans
        (next_congr ((Dev.tblRow_reaches hreach rfl).trans ((Dev.tblCmd_legal hidle ht hlegal).trans he)))
    refine ⟨fun hop hi => ?_, fun hop hi => ?_, fun k hkey hop hfind => ?_, fun hkey hop hfind => ?_, fun k hkey hop hfind => ?_,
      fun k e hkey hop hfind hfree => ?_, fun k hkey hop hfind => ?_, fun hkey hop hfind => ?_⟩
    · exact hcommand (by simp) hop (.inl (by decide)) (Dev.tblExec_read hi)
    · exact hcommand (by simp) hop (.inl (by decide)) (Dev.tblExec_write hi)
    · exact hcommand (by simp) hop (.inr ⟨by decide, hkey⟩) (Dev.tblExec_lookup_found hfind)
    · exact hcommand (by simp) hop (.inr ⟨by decide, hkey⟩) (Dev.tblExec_lookup_missing hfind)
    · exact hcommand (by simp) hop (.inr ⟨by decide, hkey⟩) (Dev.tblExec_insert_found hfind)
    · exact hcommand (by simp) hop (.inr ⟨by decide, hkey⟩) (Dev.tblExec_insert_free hfind hfree)
    · exact hcommand (by simp) hop (.inr ⟨by decide, hkey⟩) (Dev.tblExec_delete_found hfind)
    · exact hcommand (by simp) hop (.inr ⟨by decide, hkey⟩) (Dev.tblExec_delete_missing hfind)
  case delivery =>
    intro p cls c rest hroom hwait htake h
    have hport : 28 + p.val - 28 = p.val := Nat.add_sub_cancel_left ..
    have hroom' : d.heldCells (28 + p) < d.fld .SWC_IPORT_HOLD_MAX (28 + p - 28) := by rwa [hport]
    refine ⟨fun e r hp hpush hr => ?_, fun m hp hlen hm => ?_⟩
    · rw [← hport] at hpush
      exact (exec_copyDelivery_eq s p cls).trans (next_congr (Dev.deliverCopy_rink hroom' hwait htake (by omega) (by rwa [hport] at hpush ⊢) hr))
    · obtain ⟨turn, hdeliver⟩ := Dev.deliverCopy_notice hroom' hwait htake (by omega) hm
      obtain ⟨hm256, hfull⟩ := Dev.freeMbox_some hm
      obtain ⟨hstands, hlow, hswc⟩ := Dev.notice_posted (s := (d.copyHeld (28 + p) c rest).updSwc fun w => { w with mboxNext := turn })
        hm256 hfull (len := (16 + (d.frame c.cell).flen + 63) / 64) (by omega) (by omega) c.cell (d.frame c.cell).port
      obtain ⟨hheld, hegr⟩ := d.copyHeld_lists (28 + p) c rest
      rw [← hdeliver] at hstands hlow hswc
      exact hnext (exec_copyDelivery_eq s p cls) ⟨hstands, hlow, by rwa [hswc], by rwa [hswc]⟩
  case release =>
    intro hreach f p hp own
    have hexec := exec_copyRelease_eq who v s hreach
    exact ⟨fun h => hexec.trans (next_congr (Dev.freeCopy_held hp h)), fun h => hexec.trans (next_congr (Dev.freeCopy_other hp h))⟩
  case commit =>
    intro hreach p a b c x hp hstage j hlegal hroom
    refine hnext ((exec_injectCommit_eq who v s hreach).trans (next_congr (Dev.injWrite_accepted hp hstage hlegal hroom))) ⟨?_, ?_, rfl⟩
    · rw [Dev.updSwc_swc, Tab.get_upd_same]
    · rw [Dev.updSwc_swc, Tab.get_set_same]
  case start =>
    intro p gap j rest hq len a r hcredit hfirst hlast hue hbell
    exact (exec_injectionStart_eq s p gap).trans (next_congr (Dev.injectStart_reads hq rfl rfl hbell hcredit hfirst hlast rfl hue))
  case gates =>
    intro g b at_
    refine ⟨fun _ hen hdue hkeep => ?_, fun hen hstarted => ?_, fun hreach => ⟨fun hen => ?_, fun hen hv => ?_, fun hen hv => ?_⟩,
      fun hen hpend hdue => ?_⟩
    · exact hnext (exec_gclCycleStart_eq n s) (Dev.gclRow_starts rfl hen hdue hkeep)
    · exact (exec_gclEntryChange_eq n s).trans (next_congr (Dev.gclEntry_started hen hstarted))
    · exact hnext (exec_gclSwitchArm_eq n who v s hreach) (Dev.gclArm_stopped hen _)
    · exact hnext (exec_gclSwitchArm_eq n who v s hreach) (Dev.gclArm_other hn hen hv)
    · exact (exec_gclSwitchArm_eq n who v s hreach).trans (next_congr (Dev.gclArm_same hen hv))
    · exact hnext (exec_gclSwitch_eq n s) (Dev.gclSwitchRow_takesOver hen hpend hdue)

end Sys2Proof.Machine
end

section
/-! Rules for the time unit (O51): what an operation leaves of the registers and of the clocks. `Dev.TimeView` is what the rows of the time unit speak of
beside its registers; `Dev.ClocksKept l s t` says that `t` has the view of `s` and reads as `s` in every register outside the list `l`. -/

namespace Sys2Proof.Machine

/-- Memory and what waits to be written to it, the captures, and the clocks. -/
structure TimeView where
  mem : List Host.Cell
  capQ : List (List Byte)
  counts : List (Nat × Nat × Nat)
  evt : Tab (List EvtE)
  tb : Tab Nat
  adv : Tab Bool
  copies : Tab (List TimeCopy)
  defer : List (Nat × Adj)

/-- The view without the clocks. -/
def TimeView.aside (x : TimeView) : TimeView := { x with tb := [], adv := [], copies := [], defer := [] }

namespace Dev
variable {s t u : Dev} {l : List Reg} {n : Nat}

/-- The view of a device. -/
def timeView (s : Dev) : TimeView := ⟨s.mem, s.swc.capQ, s.pers.counts, s.tmu.evt, s.tmu.tb, s.tmu.adv, s.tmu.copies, s.tmu.defer⟩

theorem timeView_copies (s : Dev) : s.timeView.copies = s.tmu.copies := rfl

theorem setReg_timeView (s : Dev) (r : Reg) (v i j k : Nat) : (s.setReg r v i j k).timeView = s.timeView := rfl

theorem count_timeView (s : Dev) (r : Reg) (i : Nat) : (s.count r i).timeView = s.timeView := rfl

/-- Every register outside the list, and the whole view, stand in `t` as they do in `s`. -/
structure ClocksKept (l : List Reg) (s t : Dev) : Prop where
  regs : RegsBut l s t
  view : t.timeView = s.timeView

namespace ClocksKept

theorem refl (s : Dev) : ClocksKept l s s := ⟨.refl s, rfl⟩

theorem ite {c : Prop} [Decidable c] (ht : ClocksKept l s t) (hu : ClocksKept l s u) : ClocksKept l s (if c then t else u) := by
  split <;> assumption

section
variable (h : ClocksKept l s t)
include h

theorem trans (g : ClocksKept l t u) : ClocksKept l s u := ⟨h.regs.trans g.regs, g.view.trans h.view⟩

/-- A change of neither registers nor clocks. -/
theorem same (hregs : u.regs = t.regs) (hview : u.timeView = t.timeView) : ClocksKept l s u :=
  h.trans ⟨.of_regs hregs, hview⟩

theorem setReg {r : Reg} {v i j k : Nat} (hr : r.HasCopy i j k) (hl : r ∈ l) : ClocksKept l s (t.setReg r v i j k) :=
  ⟨h.regs.setReg hr hl, h.view⟩

theorem setFld {f : Fld} {v i j k : Nat} (hf : f.reg.HasCopy i j k) (hl : f.reg ∈ l) : ClocksKept l s (t.setFld f v i j k) := h.setReg hf hl

theorem countBy {r : Reg} {c i j k : Nat} (hr : r.HasCopy i j k) (hl : r ∈ l) : ClocksKept l s (t.countBy c r i j k) := h.setReg hr hl

theorem count {r : Reg} {i j k : Nat} (hr : r.HasCopy i j k) (hl : r ∈ l) : ClocksKept l s (t.count r i j k) := h.countBy hr hl

theorem when {b : Bool} {f : Dev → Dev} (hf : ∀ t, ClocksKept l s t → ClocksKept l s (f t)) : ClocksKept l s (t.when b f) := when_keeps hf t h

theorem each {α : Type} {f : α → Dev → Dev} {as : List α} (hf : ∀ a ∈ as, ∀ t, ClocksKept l s t → ClocksKept l s (f a t)) :
    ClocksKept l s (t.each as f) := each_keeps hf t h

theorem ringMask {k mask : Nat} (hk : k < 32) (hl : [Reg.MBX_DB, .MBX_DB_COAL_CNT, .HST_MSIX_CNT] ⊆ l) : ClocksKept l s (t.ringMask k mask) :=
  ⟨h.regs.ringMask hk hl, Eq.trans (by rw [ringMask_frame]; rfl) h.view⟩

end

end ClocksKept

/-! ### What the servos, the outputs and the doorbells leave -/

/-- The registers that a change of a servo's state writes. -/
def servoRegs : List Reg := .TMU_SRV_STAT :: bellRegs

theorem bellRegs_subset_servoRegs : bellRegs ⊆ servoRegs := List.subset_cons_self ..

namespace ClocksKept

theorem tbBell (h : ClocksKept l s t) (hl : bellRegs ⊆ l) {f : Fld} : ClocksKept l s (t.tbBell n f) :=
  h.when fun _ h => h.ringMask (bits_lt _ 4 0) hl

section
variable (h : ClocksKept l s t)
include h

theorem updOut {j : Nat} {f : OutSt → OutSt} : ClocksKept l s (t.updOut j f) := h.same rfl rfl

theorem holdStart : ClocksKept l s (t.holdStart n) := h.same rfl rfl

theorem outSkip {d : Int} (hl : .TMU_OUT_SKIP_CNT ∈ l) : ClocksKept l s (t.outSkip n d) :=
  h.each fun _ hj _ h => .ite h (h.updOut.countBy (Reg.hasCopy_row rfl (List.mem_range.mp hj)) hl)

variable (hn : n < 4)
include hn

theorem setSrv {st good : Nat} (hl : .TMU_SRV_STAT ∈ l) : ClocksKept l s (t.setSrv n st good) :=
  (h.setFld (f := .TMU_SRV_STAT_STATE) (Reg.hasCopy_row rfl hn) hl).setFld (f := .TMU_SRV_STAT_GOOD) (Reg.hasCopy_row rfl hn) hl

theorem srvStep (hl : .TMU_SRV_STAT ∈ l) : ClocksKept l s (t.srvStep n) := .ite (h.setSrv hn hl) (.ite (h.setSrv hn hl).holdStart h)

theorem srvAccept {good : Bool} (hl : servoRegs ⊆ l) : ClocksKept l s (t.srvAccept n good) := by
  have hstat : .TMU_SRV_STAT ∈ l := hl List.mem_cons_self
  have hset {st g : Nat} : ClocksKept l s ((t.holdStart n).setSrv n st g) := h.holdStart.setSrv hn hstat
  refine .ite (.ite hset (.ite hset (hset.tbBell (List.Subset.trans bellRegs_subset_servoRegs hl)))) (.ite (.ite h.holdStart hset) (.ite hset h.holdStart))

end

end ClocksKept

/-! ### The count of a time base and its copies -/

theorem setTb_view (s : Dev) (n v : Nat) : (s.setTb n v).timeView = { s.timeView with tb := s.timeView.tb.set n (v % tbMod) } := by
  rw [setTb_frame]
  rfl

/-- An advance sets the count, and may ring (R276, R280). -/
theorem tbAdvance_kept (s : Dev) (n : Nat) : ClocksKept bellRegs (s.setTb n (s.tbVal n + s.reg .TMU_TB_INCR n)) (s.tbAdvance n) := by
  unfold Dev.tbAdvance
  dsimp only
  generalize s.setTb n (s.tbVal n + s.reg .TMU_TB_INCR n) = t
  refine (ClocksKept.refl t).when fun e he => ClocksKept.tbBell (ClocksKept.ite ?_ he) (List.Subset.refl _)
  exact he.same rfl rfl

theorem tbAdvance_view (s : Dev) (n : Nat) :
    (s.tbAdvance n).timeView = { s.timeView with tb := s.timeView.tb.set n ((s.tbVal n + s.reg .TMU_TB_INCR n) % tbMod) } :=
  (tbAdvance_kept s n).view.trans (setTb_view ..)

theorem tbAdvance_regs (s : Dev) (n : Nat) : RegsBut bellRegs s (s.tbAdvance n) :=
  (RegsBut.of_regs (setTb_regs ..)).trans (tbAdvance_kept s n).regs

theorem copiesLag_regs (s : Dev) (n v incr : Nat) (slm : Bool) : (s.copiesLag n v incr slm).regs = s.regs := by
  unfold Dev.copiesLag
  rfl

theorem copiesLag_view (s : Dev) (n v incr : Nat) (slm : Bool) :
    (s.copiesLag n v incr slm).timeView = { s.timeView with copies := (s.copiesLag n v incr slm).timeView.copies } := by
  unfold Dev.copiesLag timeView
  dsimp only

theorem unsign_lt (w : Nat) (i : Int) : unsign w i < 2 ^ w := by
  have hpos : (0 : Int) < (2 ^ w : Nat) := by exact_mod_cast Nat.two_pow_pos w
  have hlt := Int.emod_lt_of_pos i hpos
  have hge := Int.emod_nonneg i hpos.ne'
  unfold unsign
  omega

theorem setIncr_same {i : Int} (h : unsign 32 i = s.reg .TMU_TB_INCR n) (v0 : Nat) : s.setIncr n i v0 = s := if_pos h

theorem setIncr_changed {i : Int} (h : unsign 32 i ≠ s.reg .TMU_TB_INCR n) (v0 : Nat) :
    s.setIncr n i v0 = (s.copiesLag n v0 (s.reg .TMU_TB_INCR n) false).setReg .TMU_TB_INCR (unsign 32 i) n := if_neg h

/-- A new increment stands in its register, whether it is a change or not (R283). -/
theorem setIncr_reg (s : Dev) (n : Nat) (i : Int) (v0 : Nat) : (s.setIncr n i v0).reg .TMU_TB_INCR n = unsign 32 i := by
  by_cases h : unsign 32 i = s.reg .TMU_TB_INCR n
  · rw [setIncr_same h, h]
  · rw [setIncr_changed h]
    exact (reg_setReg_same ..).trans (Nat.mod_eq_of_lt (unsign_lt ..))

theorem setIncr_regs (hn : n < 4) (i : Int) (v0 : Nat) : RegsBut [.TMU_TB_INCR] s (s.setIncr n i v0) := by
  by_cases h : unsign 32 i = s.reg .TMU_TB_INCR n
  · rw [setIncr_same h]
    exact .refl s
  · rw [setIncr_changed h]
    exact (RegsBut.of_regs (copiesLag_regs ..)).setReg (Reg.hasCopy_row rfl hn) List.mem_cons_self

theorem setIncr_view (s : Dev) (n : Nat) (i : Int) (v0 : Nat) : ∃ c, (s.setIncr n i v0).timeView = { s.timeView with copies := c } := by
  by_cases h : unsign 32 i = s.reg .TMU_TB_INCR n
  · exact ⟨s.tmu.copies, by rw [setIncr_same h]; rfl⟩
  · exact ⟨_, (congrArg timeView (setIncr_changed h v0)).trans ((setReg_timeView ..).trans (copiesLag_view ..))⟩

end Dev

/-- Changes of units with different numbers each take effect on their own. -/
theorem Tab.get_foldl_upd {β : Type} [DecidableEq β] [Inhabited β] {key : Nat → Nat} (hkey : Function.Injective key) (f : β → β)
    {l : List Nat} (hl : l.Nodup) (t : Tab β) (i : Nat) : Tab.get (l.foldl (fun t j => t.upd (key j) f) t) (key i) =
      if i ∈ l then f (t.get (key i)) else t.get (key i) := by
  induction l generalizing t with
  | nil => rfl
  | cons j l ih =>
    obtain ⟨hj, hl⟩ := List.nodup_cons.mp hl
    rw [List.foldl_cons, ih hl]
    rcases eq_or_ne i j with rfl | hne
    · simp [hj]
    · simp [hne, Tab.get_upd_other t f fun h => hne (hkey h)]

namespace Dev
variable {s t u : Dev} {n : Nat}

theorem copiesLag_get {isl : Nat} (hisl : isl < 11) (v incr : Nat) (slm : Bool) :
    (s.copiesLag n v incr slm).tmu.copies.get (isl * 4 + n) = s.tmu.copies.get (isl * 4 + n) ++ [⟨v, incr, slm⟩] := by
  have hinj : Function.Injective fun i => i * 4 + n := fun a b h => by
    have hab : a * 4 + n = b * 4 + n := h
    omega
  have hget := Tab.get_foldl_upd hinj (· ++ [(⟨v, incr, slm⟩ : TimeCopy)]) (List.nodup_range (n := 11)) s.tmu.copies isl
  rw [if_pos (List.mem_range.mpr hisl)] at hget
  unfold Dev.copiesLag
  dsimp only
  exact hget

/-- The copies go on from the count that the time base had, so they show what they showed (R283). -/
theorem copyVal_lags {incr : Nat} {slm : Bool} (h : t.timeView.copies = (s.copiesLag n (s.tbVal n) incr slm).timeView.copies) {isl : Nat}
    (hisl : isl < 11) : t.copyVal isl n = s.copyVal isl n := by
  rw [timeView_copies, timeView_copies] at h
  unfold Dev.copyVal
  rw [h, copiesLag_get hisl]
  cases s.tmu.copies.get (isl * 4 + n) with
  | nil => rfl
  | cons c rest => rfl

/-- A new increment leaves what the copies show. -/
theorem copyVal_setIncr (i : Int) {isl : Nat} (hisl : isl < 11) : (s.setIncr n i (s.tbVal n)).copyVal isl n = s.copyVal isl n := by
  by_cases h : unsign 32 i = s.reg .TMU_TB_INCR n
  · rw [setIncr_same h]
  · rw [setIncr_changed h]
    exact copyVal_lags (by rw [setReg_timeView]) hisl

end Dev

end Sys2Proof.Machine
end

section
/-! Rules for adjustments and samples (O51, R279, R283 to R286, R529). -/

namespace Sys2Proof.Machine

namespace Dev
variable {s t u : Dev} {n : Nat}

theorem tbVal_view (h : t.timeView.tb = s.timeView.tb) (k : Nat) : t.tbVal k = s.tbVal k := congrArg (Tab.get · k) h

/-! ### Sets and steps (R279) -/

section
variable (hn : n < 4) (v0 v : Nat) (slm : Bool)
include hn

/-- A set or step moves the count and counts; the outputs skip what it passes, the servo may leave LOCKED and a doorbell may ring. -/
theorem adjusted_course : ∃ m, ClocksKept [.TMU_OUT_SKIP_CNT] ((s.copiesLag n v0 (s.reg .TMU_TB_INCR n) slm).setTb n v) m ∧
    ClocksKept servoRegs (m.count .TMU_STEP_CNT n) (s.adjusted n v0 v slm) := by
  unfold Dev.adjusted
  dsimp only
  generalize (s.copiesLag n v0 (s.reg .TMU_TB_INCR n) slm).setTb n v = m
  exact ⟨_, (ClocksKept.refl m).outSkip (by decide), ((ClocksKept.refl _).srvStep hn (by decide)).tbBell bellRegs_subset_servoRegs⟩

theorem adjusted_view : (s.adjusted n v0 v slm).timeView =
    { s.timeView with tb := s.timeView.tb.set n (v % tbMod), copies := (s.copiesLag n v0 (s.reg .TMU_TB_INCR n) slm).timeView.copies } := by
  obtain ⟨m, hmoved, hrest⟩ := adjusted_course (s := s) hn v0 v slm
  rw [hrest.view, count_timeView, hmoved.view, setTb_view, copiesLag_view]

theorem adjusted_regs : RegsBut (.TMU_STEP_CNT :: .TMU_OUT_SKIP_CNT :: servoRegs) s (s.adjusted n v0 v slm) := by
  obtain ⟨m, hmoved, hrest⟩ := adjusted_course (s := s) hn v0 v slm
  have hstart : RegsBut [.TMU_OUT_SKIP_CNT] s m := (RegsBut.of_regs ((setTb_regs ..).trans (copiesLag_regs ..))).trans hmoved.regs
  exact ((hstart.mono (by simp)).count (Reg.hasCopy_row rfl hn) (by simp)).trans (hrest.regs.mono (by simp))

theorem adjusted_stepCnt : (s.adjusted n v0 v slm).reg .TMU_STEP_CNT n = min (s.reg .TMU_STEP_CNT n + 1) 0xFFFFFFFF := by
  obtain ⟨m, hmoved, hrest⟩ := adjusted_course (s := s) hn v0 v slm
  have hcnt : Reg.TMU_STEP_CNT.HasCopy n 0 0 := Reg.hasCopy_row rfl hn
  rw [hrest.regs.reg _ _ _ _ hcnt (by decide), reg_count_same, hmoved.regs.reg _ _ _ _ hcnt (by decide),
    reg_congr ((setTb_regs ..).trans (copiesLag_regs ..))]

end

/-- The current tick's advance of a time base has been made. -/
def advMade (n : Nat) (s : Dev) : Dev := { s with tmu := { s.tmu with adv := s.tmu.adv.set n true } }

theorem advMade_regs (s : Dev) (n : Nat) : (s.advMade n).regs = s.regs := rfl

theorem advMade_view (s : Dev) (n : Nat) : (s.advMade n).timeView = { s.timeView with adv := s.tmu.adv.set n true } := rfl

/-- A set or step puts the count at its new value, counts, and leaves what the copies show (R279, R283). -/
theorem adjusted_stepped (hn : n < 4) (v : Nat) (slm : Bool) : let e := (s.adjusted n (s.tbVal n) v slm).advMade n
    e.mem = s.mem ∧ e.tbVal n = v % tbMod ∧ e.reg .TMU_STEP_CNT n = min (s.reg .TMU_STEP_CNT n + 1) 0xFFFFFFFF ∧
      ∀ isl < 11, e.copyVal isl n = s.copyVal isl n := by
  intro e
  have hregs : e.regs = (s.adjusted n (s.tbVal n) v slm).regs := advMade_regs ..
  have hview : e.timeView = _ := advMade_view ..
  rw [adjusted_view hn] at hview
  clear_value e
  refine ⟨congrArg TimeView.mem hview, ?_, (reg_congr hregs ..).trans (adjusted_stepCnt hn _ v slm), fun _ => copyVal_lags (by rw [hview])⟩
  exact (congrArg (fun x => x.tb.get n) hview).trans (Tab.get_set_same ..)

/-! ### The first of a tick takes effect in it (R279) -/

section
variable (hadv : s.tmu.adv.get n = false)
include hadv

theorem adjust_set (ns frac : Nat) :
    s.adjust n (.set ns frac) = (s.adjusted n (s.tbVal n) (ns * nsUnit + frac * 2 ^ 20) false).advMade n := if_neg (by simp [hadv])

theorem adjust_step (ns frac : Nat) : s.adjust n (.step ns frac) =
    (s.adjusted n (s.tbVal n) (s.tbVal n + s.reg .TMU_TB_INCR n + ns * nsUnit + frac * 2 ^ 20) false).advMade n := if_neg (by simp [hadv])

theorem adjust_sample {src : Nat} (h : s.srvTakes n src = true) (th : Int) :
    s.adjust n (.sample src th) = (s.srvSample n src th).advMade n := (if_neg (by simp [hadv])).trans (if_pos h)

end

theorem adjust_deferred (hadv : s.tmu.adv.get n = true) (a : Adj) :
    s.adjust n a = { s with tmu := { s.tmu with defer := s.tmu.defer ++ [(n, a)] } } := if_pos hadv

/-! ### A sample that steers (R285, R286) -/

/-- The last part of a sample within the step threshold: the advance, the new increment, the servo's state. -/
def steer (n : Nat) (adj : Int) (v0 : Nat) (good : Bool) (s : Dev) : Dev :=
  ((s.tbAdvance n).setIncr n ((s.tbAdvance n).reg .TMU_TB_NOM n + adj) v0).srvAccept n good

section
variable (hn : n < 4) (adj : Int) (v0 : Nat) (good : Bool)
include hn

theorem steer_kept : ClocksKept servoRegs ((s.tbAdvance n).setIncr n ((s.tbAdvance n).reg .TMU_TB_NOM n + adj) v0) (s.steer n adj v0 good) :=
  (ClocksKept.refl _).srvAccept hn (List.Subset.refl _)

theorem steer_regs : RegsBut (.TMU_TB_INCR :: servoRegs) s (s.steer n adj v0 good) :=
  (((tbAdvance_regs s n).mono (List.subset_cons_of_subset _ bellRegs_subset_servoRegs)).trans ((setIncr_regs hn _ v0).mono (by simp))).trans
    ((steer_kept hn adj v0 good).regs.mono (List.subset_cons_self ..))

theorem steer_incr : (s.steer n adj v0 good).reg .TMU_TB_INCR n = unsign 32 (s.reg .TMU_TB_NOM n + adj) := by
  rw [(steer_kept hn adj v0 good).regs.reg _ _ _ _ (Reg.hasCopy_row rfl hn) (by decide), setIncr_reg,
    (tbAdvance_regs s n).reg _ _ _ _ (Reg.hasCopy_row rfl hn) (by decide)]

theorem steer_view : ∃ c, (s.steer n adj v0 good).timeView =
    { s.timeView with tb := s.timeView.tb.set n ((s.tbVal n + s.reg .TMU_TB_INCR n) % tbMod), copies := c } := by
  obtain ⟨c, hc⟩ := setIncr_view (s.tbAdvance n) n ((s.tbAdvance n).reg .TMU_TB_NOM n + adj) v0
  exact ⟨c, by rw [(steer_kept hn adj v0 good).view, hc, tbAdvance_view]⟩

end

theorem clampI_natAbs_le (x : Int) (lim : Nat) : (clampI x lim).natAbs ≤ lim := by
  unfold clampI
  omega

/-- What a sample within the step threshold notes before it steers. -/
def sampleRegs : List Reg := [.TMU_SAMPLE_CNT, .TMU_CLAMP_CNT, .TMU_SRV_LAST, .TMU_SRV_INTEG]

/-- The threshold beyond which a sample of a source is stepped or discarded, and the absolute value that is compared with it. -/
theorem stepThr_iff (hn : n < 4) (th : Int) : ((s.count .TMU_SAMPLE_CNT n).fld .TMU_SRV_THR_STEP_THR n * 256000 : Int) < (if th < 0 then -th else th) ↔
    s.fld .TMU_SRV_THR_STEP_THR n * 256000 < th.natAbs := by
  have hthr : (s.count .TMU_SAMPLE_CNT n).fld .TMU_SRV_THR_STEP_THR n = s.fld .TMU_SRV_THR_STEP_THR n :=
    ((RegsBut.refl s).count (l := [.TMU_SAMPLE_CNT]) (Reg.hasCopy_row rfl hn) (by decide)).fld (Reg.hasCopy_row rfl hn) (by decide)
  rw [hthr]
  split <;> omega

section
variable (hn : n < 4) {src : Nat} {th : Int}
include hn

/-- A sample within the step threshold is counted and shown, and steers within LIM. -/
theorem srvSample_within (hsmall : src = 4 ∨ th.natAbs ≤ s.fld .TMU_SRV_THR_STEP_THR n * 256000) : ∃ m adj good,
    ClocksKept sampleRegs s m ∧ m.reg .TMU_SAMPLE_CNT n = min (s.reg .TMU_SAMPLE_CNT n + 1) 0xFFFFFFFF ∧ m.reg .TMU_SRV_LAST n = unsign 32 th ∧
      adj.natAbs ≤ s.fld .TMU_SRV_LIM_LIM n ∧ s.srvSample n src th = m.steer n adj (s.tbVal n) good := by
  have hcnt : Reg.TMU_SAMPLE_CNT.HasCopy n 0 0 := Reg.hasCopy_row rfl hn
  have hlast : Reg.TMU_SRV_LAST.HasCopy n 0 0 := Reg.hasCopy_row rfl hn
  have hinteg : Reg.TMU_SRV_INTEG.HasCopy n 0 0 := Reg.hasCopy_row rfl hn
  have hlim : (s.count .TMU_SAMPLE_CNT n).fld .TMU_SRV_LIM_LIM n = s.fld .TMU_SRV_LIM_LIM n :=
    ((RegsBut.refl s).count (l := [.TMU_SAMPLE_CNT]) hcnt (by decide)).fld (Reg.hasCopy_row rfl hn) (by decide)
  unfold Dev.srvSample
  extract_lets v0 c thr a v stepped lim p raw integ adj clamped m advanced steered
  rw [if_neg fun h => by have hbig := (stepThr_iff hn th).mp h.2; omega]
  refine ⟨m, adj, _, ?kept, ?counted, ?shown, ?limited, rfl⟩
  case kept =>
    have hclamped : ClocksKept sampleRegs s clamped :=
      ((ClocksKept.refl s).count hcnt (by decide)).when fun _ h => h.count (Reg.hasCopy_row rfl hn) (by decide)
    exact (hclamped.setReg hlast (by decide)).setReg hinteg (by decide)
  case counted =>
    have hrest : ClocksKept [.TMU_CLAMP_CNT, .TMU_SRV_LAST, .TMU_SRV_INTEG] c m :=
      (((ClocksKept.refl c).when fun _ h => h.count (Reg.hasCopy_row rfl hn) (by decide)).setReg hlast (by decide)).setReg hinteg (by decide)
    exact (hrest.regs.reg _ _ _ _ hcnt (by decide)).trans (reg_count_same ..)
  case shown =>
    exact (reg_setReg_apart _ hlast hinteg (by decide) _).trans ((reg_setReg_same ..).trans (Nat.mod_eq_of_lt (unsign_lt ..)))
  case limited => exact (clampI_natAbs_le ..).trans_eq hlim

/-- A sample beyond the step threshold makes a step, or is discarded. -/
theorem srvSample_beyond (hlarge : ¬ (src = 4 ∨ th.natAbs ≤ s.fld .TMU_SRV_THR_STEP_THR n * 256000)) :
    (∃ v, s.srvSample n src th =
      (((s.count .TMU_SAMPLE_CNT n).setReg .TMU_SRV_LAST (unsign 32 th) n).adjusted n (s.tbVal n) v false).srvAccept n false) ∨
      s.srvSample n src th = ((s.count .TMU_SAMPLE_CNT n).count .TMU_OUTLIER_CNT n).tbAdvance n := by
  obtain ⟨hsrc, hth⟩ := not_or.mp hlarge
  unfold Dev.srvSample
  extract_lets v0 c thr a v stepped lim p raw integ adj clamped m advanced steered
  rw [if_pos ⟨hsrc, (stepThr_iff hn th).mpr (Nat.lt_of_not_le hth)⟩]
  split
  · exact .inl ⟨_, rfl⟩
  · exact .inr rfl

/-- A sample within the step threshold counts, shows, and sets the increment within LIM of NOM beside the tick's advance (R285). -/
theorem srvSample_steered (hsmall : th.natAbs ≤ s.fld .TMU_SRV_THR_STEP_THR n * 256000) : let e := (s.srvSample n src th).advMade n
    e.mem = s.mem ∧ e.reg .TMU_SAMPLE_CNT n = min (s.reg .TMU_SAMPLE_CNT n + 1) 0xFFFFFFFF ∧ e.reg .TMU_SRV_LAST n = unsign 32 th ∧
      e.tbVal n = (s.tbVal n + s.reg .TMU_TB_INCR n) % tbMod ∧
      ∃ adj : Int, adj.natAbs ≤ s.fld .TMU_SRV_LIM_LIM n ∧ e.reg .TMU_TB_INCR n = unsign 32 (s.reg .TMU_TB_NOM n + adj) := by
  obtain ⟨m, adj, good, hkept, hcount, hshow, hlim, hsample⟩ := srvSample_within (s := s) (src := src) hn (.inr hsmall)
  intro e
  have hregs : e.regs = (m.steer n adj (s.tbVal n) good).regs := (advMade_regs ..).trans (congrArg Dev.regs hsample)
  have hview : e.timeView = _ := advMade_view ..
  obtain ⟨c, hsteer⟩ := steer_view (s := m) hn adj (s.tbVal n) good
  rw [hsample, hsteer, hkept.view] at hview
  clear_value e
  have hrest {r : Reg} (hr : r.HasCopy n 0 0) (hl : r ∉ .TMU_TB_INCR :: servoRegs) : e.reg r n = m.reg r n :=
    (reg_congr hregs ..).trans ((steer_regs hn ..).reg _ _ _ _ hr hl)
  have hincr : m.reg .TMU_TB_INCR n = s.reg .TMU_TB_INCR n := hkept.regs.reg _ _ _ _ (Reg.hasCopy_row rfl hn) (by decide)
  have hnom : m.reg .TMU_TB_NOM n = s.reg .TMU_TB_NOM n := hkept.regs.reg _ _ _ _ (Reg.hasCopy_row rfl hn) (by decide)
  refine ⟨congrArg TimeView.mem hview, (hrest (Reg.hasCopy_row rfl hn) (by decide)).trans hcount,
    (hrest (Reg.hasCopy_row rfl hn) (by decide)).trans hshow, ?_, adj, hlim, ?_⟩
  · rw [← tbVal_view (congrArg TimeView.tb hkept.view), ← hincr]
    exact (congrArg (fun x => x.tb.get n) hview).trans (Tab.get_set_same ..)
  · rw [reg_congr hregs, steer_incr hn, hnom]

end

end Dev

end Sys2Proof.Machine
end

section
/-! Rules for what an adjustment leaves aside, whatever it comes to, and for captures (O51, R279, R284, R285, R296). -/

namespace Sys2Proof.Machine

/-- The registers that adjustments and samples write. -/
def adjustRegs : List Reg := [.TMU_TB_INCR, .TMU_SAMPLE_CNT, .TMU_STEP_CNT, .TMU_OUTLIER_CNT, .TMU_CLAMP_CNT, .TMU_SRV_LAST, .TMU_SRV_INTEG,
  .TMU_OUT_SKIP_CNT, .TMU_OFS_REFUSE_CNT, .TMU_TB_PPSEXP] ++ Dev.servoRegs

namespace Dev
variable {s t u : Dev} {n : Nat}

/-- Memory and captures, and every register that no adjustment writes, stand in `t` as they do in `s`. -/
structure AdjustKept (s t : Dev) : Prop where
  regs : RegsBut adjustRegs s t
  aside : t.timeView.aside = s.timeView.aside

namespace AdjustKept

theorem of_clocksKept {l : List Reg} (h : ClocksKept l s t) (hl : l ⊆ adjustRegs) : AdjustKept s t :=
  ⟨h.regs.mono hl, congrArg TimeView.aside h.view⟩

theorem refl (s : Dev) : AdjustKept s s := ⟨.refl s, rfl⟩

theorem ite {c : Prop} [Decidable c] (ht : AdjustKept s t) (hu : AdjustKept s u) : AdjustKept s (if c then t else u) := by
  split <;> assumption

theorem trans (h : AdjustKept s t) (g : AdjustKept t u) : AdjustKept s u := ⟨h.regs.trans g.regs, g.aside.trans h.aside⟩

end AdjustKept

theorem advMade_adjustKept (s : Dev) (n : Nat) : AdjustKept s (s.advMade n) := ⟨.of_regs (advMade_regs ..), rfl⟩

theorem tbAdvance_adjustKept (s : Dev) (n : Nat) : AdjustKept s (s.tbAdvance n) :=
  ⟨(tbAdvance_regs s n).mono (by decide), by rw [tbAdvance_view]; rfl⟩

theorem theta_adjustKept (s : Dev) (d : Int) : AdjustKept s (s.theta d).2 := by
  unfold Dev.theta
  split
  · exact .refl s
  · exact ⟨.of_regs rfl, rfl⟩

theorem count_adjustKept {r : Reg} (hr : r.HasCopy n 0 0) (hl : r ∈ adjustRegs) (s : Dev) : AdjustKept s (s.count r n) :=
  .of_clocksKept ((ClocksKept.refl s).count hr hl) (List.Subset.refl _)

section
variable (hn : n < 4)
include hn

theorem adjusted_adjustKept (s : Dev) (v0 v : Nat) (slm : Bool) : AdjustKept s (s.adjusted n v0 v slm) :=
  ⟨(adjusted_regs hn v0 v slm).mono (by decide), by rw [adjusted_view hn]; rfl⟩

theorem srvSample_adjustKept (s : Dev) (src : Nat) (th : Int) : AdjustKept s (s.srvSample n src th) := by
  have hcount : AdjustKept s (s.count .TMU_SAMPLE_CNT n) := count_adjustKept (Reg.hasCopy_row rfl hn) (by decide) s
  by_cases hsmall : src = 4 ∨ th.natAbs ≤ s.fld .TMU_SRV_THR_STEP_THR n * 256000
  · obtain ⟨m, adj, good, hkept, -, -, -, hsample⟩ := srvSample_within (s := s) hn hsmall
    obtain ⟨c, hsteer⟩ := steer_view (s := m) hn adj (s.tbVal n) good
    rw [hsample]
    exact (AdjustKept.of_clocksKept hkept (by decide)).trans ⟨(steer_regs hn ..).mono (by decide), by rw [hsteer]; rfl⟩
  · rcases srvSample_beyond hn hsmall with ⟨v, hsample⟩ | hsample
    · rw [hsample]
      have hshown := (ClocksKept.refl (s.count .TMU_SAMPLE_CNT n)).setReg (l := adjustRegs) (r := .TMU_SRV_LAST) (v := unsign 32 th)
        (Reg.hasCopy_row rfl hn) (by decide)
      exact ((hcount.trans (.of_clocksKept hshown (List.Subset.refl _))).trans (adjusted_adjustKept hn ..)).trans
        (.of_clocksKept ((ClocksKept.refl _).srvAccept hn (List.Subset.refl _)) (by decide))
    · rw [hsample]
      exact (hcount.trans (count_adjustKept (Reg.hasCopy_row rfl hn) (by decide) _)).trans (tbAdvance_adjustKept ..)

theorem adjApply_adjustKept (s : Dev) (a : Adj) : AdjustKept s (s.adjApply n a) := by
  cases a with
  | set ns frac => exact (adjusted_adjustKept hn s ..).trans (advMade_adjustKept ..)
  | step ns frac => exact (adjusted_adjustKept hn s ..).trans (advMade_adjustKept ..)
  | align ns frac => exact (adjusted_adjustKept hn s ..).trans (advMade_adjustKept ..)
  | sample src th =>
    exact .ite ((srvSample_adjustKept hn s ..).trans (advMade_adjustKept ..))
      (.ite (count_adjustKept (Reg.hasCopy_row rfl hn) (by decide) s) (.refl s))

theorem adjust_adjustKept (s : Dev) (a : Adj) : AdjustKept s (s.adjust n a) := .ite ⟨.of_regs rfl, rfl⟩ (adjApply_adjustKept hn s a)

end

/-- PPS samples of a capture are adjustments (R284). -/
theorem ppsSamples_adjustKept (s : Dev) (k : Nat) : AdjustKept s (s.ppsSamples k) := by
  refine each_keeps (P := AdjustKept s) (fun n hn t ht => .ite ?_ ht) s (.refl s)
  replace hn := List.mem_range.mp hn
  extract_lets d e
  have hnext : AdjustKept t e :=
    .of_clocksKept ((ClocksKept.refl t).setReg (l := adjustRegs) (Reg.hasCopy_row rfl hn) (by decide)) (List.Subset.refl _)
  have htheta := theta_adjustKept e (signed 40 d)
  generalize e.theta (signed 40 d) = q at htheta ⊢
  obtain ⟨th, u⟩ := q
  exact ((ht.trans hnext).trans htheta).trans (adjust_adjustKept hn ..)

/-! ### Captures (R296) -/

/-- An edge of a pulse that is long enough, on an input that takes such edges, is captured, or counted where eight captures wait. -/
theorem inputEdge_captures (hn : n < 4) (rise : Bool) {width : Nat} (hwidth : s.fld .TMU_EVT_CFG_MINW n ≤ width)
    (hedge : bit (s.fld .TMU_EVT_CFG_EDGE n) (if rise then 0 else 1) = true) : let x := s.tbVal (s.fld .TMU_EVT_CFG_TB n)
    let e := s.inputEdge n rise width
    e.mem = s.mem ∧ if (s.tmu.evt.get n).length < 8 then e.tmu.evt.get n = s.tmu.evt.get n ++ [⟨tbNs x, tbFrac x, rise⟩]
      else e.tmu.evt.get n = s.tmu.evt.get n ∧ e.reg .TMU_EVT_OVF_CNT n = min (s.reg .TMU_EVT_OVF_CNT n + 1) 0xFFFFFFFF := by
  have hgo : ¬ (width < s.fld .TMU_EVT_CFG_MINW n ∨ (!(if rise then bit (s.fld .TMU_EVT_CFG_EDGE n) 0 else bit (s.fld .TMU_EVT_CFG_EDGE n) 1)) = true) := by
    have hsel : (if rise then bit (s.fld .TMU_EVT_CFG_EDGE n) 0 else bit (s.fld .TMU_EVT_CFG_EDGE n) 1) = true := by
      cases rise <;> exact hedge
    rw [hsel]
    simpa using hwidth
  intro x e
  have hcourse : e = _ := if_neg hgo
  clear_value e
  subst hcourse
  dsimp only
  split
  case isTrue hfull =>
    have hpps := ppsSamples_adjustKept (s.count .TMU_EVT_OVF_CNT n) n
    rw [if_neg (Nat.not_lt.mpr hfull)]
    exact ⟨congrArg TimeView.mem hpps.aside, congrArg (fun x => x.evt.get n) hpps.aside,
      (hpps.regs.reg _ _ _ _ (Reg.hasCopy_row rfl hn) (by decide)).trans (reg_count_same ..)⟩
  case isFalse hroom =>
    rw [if_pos (Nat.lt_of_not_le hroom)]
    generalize hcaptured : ({ s with tmu := { s.tmu with evt := _ } } : Dev) = captured
    have hevt : captured.timeView = { s.timeView with evt := s.tmu.evt.set n (s.tmu.evt.get n ++ [⟨tbNs x, tbFrac x, rise⟩]) } := by
      rw [← hcaptured]
      rfl
    have hbell : AdjustKept captured (captured.when (s.flag .TMU_EVT_CFG_DB_EN n) fun s =>
        s.ringMask (s.fld .TMU_EVT_CFG_TARGET n) (2 ^ s.fld .TMU_EVT_CFG_BIT n)) :=
      .of_clocksKept ((ClocksKept.refl captured).when (l := bellRegs) fun _ h => h.ringMask (bits_lt _ 20 16) (List.Subset.refl _)) (by decide)
    have haside := (hbell.trans (ppsSamples_adjustKept _ n)).aside
    rw [hevt] at haside
    exact ⟨congrArg TimeView.mem haside, (congrArg (fun x => x.evt.get n) haside).trans (Tab.get_set_same ..)⟩

end Dev

end Sys2Proof.Machine
end

section
/-! Rules for the hold timer, the copies of the islands and a tick (O51, R276, R283, R286, R529). -/

namespace Sys2Proof.Machine

namespace Dev
variable {s t u : Dev} {n : Nat}

/-- A change of the copies leaves the counts. -/
theorem tbVal_of_copies (h : ∃ c, t.timeView = { s.timeView with copies := c }) (k : Nat) : t.tbVal k = s.tbVal k := by
  obtain ⟨c, hview⟩ := h
  exact tbVal_view ((congrArg TimeView.tb hview).trans rfl) k

/-! ### The hold timer (R286, R529) -/

theorem holdTimeout_early (h : ¬ s.fld .TMU_SRV_CFG_HOLD_MS n * 500000 ≤ s.tmu.hold.get n) : s.holdTimeout n = s := if_neg fun hlate => h hlate.2

/-- A timeout changes the servo's state, and the increment to what the integrator gives. -/
theorem holdTimeout_cases (s : Dev) (n : Nat) :
    s.holdTimeout n = s ∨ ∃ i, s.holdTimeout n = (s.setFld .TMU_SRV_STAT_STATE srvHold n).setIncr n i (s.tbBefore n) := by
  unfold Dev.holdTimeout
  dsimp only
  split
  · exact .inr ⟨_, rfl⟩
  · exact .inl rfl

theorem holdTimeout_late (hstate : s.fld .TMU_SRV_STAT_STATE n ∈ [srvAcq, srvLocked])
    (hlate : s.fld .TMU_SRV_CFG_HOLD_MS n * 500000 ≤ s.tmu.hold.get n) (hadv : s.tmu.adv.get n = false) :
    ∃ i, s.holdTimeout n = (s.setFld .TMU_SRV_STAT_STATE srvHold n).setIncr n i (s.tbVal n) := by
  have hbefore : s.tbBefore n = s.tbVal n := if_neg (by simp [hadv])
  unfold Dev.holdTimeout
  dsimp only
  rw [if_pos ⟨by simpa using hstate, hlate⟩, hbefore]
  exact ⟨_, rfl⟩

/-- A servo in HOLDOVER: its time base and what the copies show stand as they did. -/
theorem holdTimeout_holdover (hn : n < 4) (hstate : s.fld .TMU_SRV_STAT_STATE n ∈ [srvAcq, srvLocked])
    (hlate : s.fld .TMU_SRV_CFG_HOLD_MS n * 500000 ≤ s.tmu.hold.get n) (hadv : s.tmu.adv.get n = false) : let e := s.holdTimeout n
    e.mem = s.mem ∧ e.fld .TMU_SRV_STAT_STATE n = srvHold ∧ e.tbVal n = s.tbVal n ∧ ∀ isl < 11, e.copyVal isl n = s.copyVal isl n := by
  intro e
  obtain ⟨i, he⟩ := holdTimeout_late hstate hlate hadv
  replace he : e = _ := he
  clear_value e
  subst he
  have hview : ∃ c, _ = { s.timeView with copies := c } := setIncr_view (s.setFld .TMU_SRV_STAT_STATE srvHold n) n i (s.tbVal n)
  refine ⟨?_, ?_, tbVal_of_copies hview n, fun isl hisl => ?_⟩
  · obtain ⟨c, hview⟩ := hview
    exact congrArg TimeView.mem hview
  · rw [(setIncr_regs hn i (s.tbVal n)).fld (Reg.hasCopy_row rfl hn) (by decide)]
    exact fld_setFld_same _ _ (by decide) (by decide) ..
  · exact copyVal_setIncr (s := s.setFld .TMU_SRV_STAT_STATE srvHold n) i hisl

/-! ### The copies of the islands (R283) -/

theorem copyUpdate_none {isl : Nat} (h : s.tmu.copies.get (isl * 4 + n) = []) : s.copyUpdate isl n = s := by
  unfold Dev.copyUpdate
  rw [h]

theorem copyUpdate_view {isl : Nat} {c : TimeCopy} {rest : List TimeCopy} (h : s.tmu.copies.get (isl * 4 + n) = c :: rest) :
    (s.copyUpdate isl n).timeView = { s.timeView with copies := s.timeView.copies.set (isl * 4 + n) rest } := by
  unfold Dev.copyUpdate
  rw [h]
  dsimp only
  split
  · rfl
  split
  · rfl
  · rfl

/-- A copy that has received the oldest change shows the clock before the next one, or the time base. -/
theorem copyUpdate_shows {isl : Nat} {c : TimeCopy} {rest : List TimeCopy} (h : s.tmu.copies.get (isl * 4 + n) = c :: rest) :
    (s.copyUpdate isl n).copyVal isl n = (rest.head?.map TimeCopy.v).getD (s.tbVal n) := by
  have hview := copyUpdate_view h
  have hget : (s.copyUpdate isl n).tmu.copies.get (isl * 4 + n) = rest :=
    (congrArg (fun x => x.copies.get (isl * 4 + n)) hview).trans (Tab.get_set_same ..)
  unfold Dev.copyVal
  rw [hget]
  cases rest with
  | nil => exact tbVal_of_copies ⟨_, hview⟩ n
  | cons x _ => rfl

/-! ### A tick of one time base (R276) -/

/-- The count of a time base after a tick: one that an adjustment has advanced already stands. -/
def tickVal (s : Dev) (k : Nat) : Nat := if s.tmu.adv.get k = true then s.tbVal k else (s.tbVal k + s.reg .TMU_TB_INCR k) % tbMod

/-- The advance with which a tick of a time base begins, unless an adjustment has made it. -/
def tickStart (n : Nat) (s : Dev) : Dev :=
  if s.tmu.adv.get n = true then { s with tmu := { s.tmu with adv := s.tmu.adv.set n false } } else s.tbAdvance n

/-- The device with other copies on their way. -/
def withCopies (c : Tab (List TimeCopy)) (s : Dev) : Dev := { s with tmu := { s.tmu with copies := c } }

/-- The ticks of the clocks that the copies of a time base show or will show. -/
def copiesTick (n : Nat) (s : Dev) : Dev :=
  s.withCopies ((List.range 11).foldl (fun t i => t.upd (i * 4 + n) (List.map TimeCopy.tick)) s.tmu.copies)

/-- The clocks of the other time bases, memory and captures, and what waits for the next tick, stand in `t` as they do in `s`. -/
structure OtherClocks (n : Nat) (s t : Dev) : Prop where
  aside : t.timeView.aside = s.timeView.aside
  defer : t.timeView.defer = s.timeView.defer
  tb : ∀ k, k ≠ n → t.timeView.tb.get k = s.timeView.tb.get k
  adv : ∀ k, k ≠ n → t.timeView.adv.get k = s.timeView.adv.get k
  incr : CopiesBut [.TMU_TB_INCR] n s t

namespace OtherClocks

theorem trans (h : OtherClocks n s t) (g : OtherClocks n t u) : OtherClocks n s u :=
  ⟨g.aside.trans h.aside, g.defer.trans h.defer, fun k hk => (g.tb k hk).trans (h.tb k hk), fun k hk => (g.adv k hk).trans (h.adv k hk),
    h.incr.trans g.incr⟩

theorem of_copies (hincr : CopiesBut [.TMU_TB_INCR] n s t) (h : ∃ c, t.timeView = { s.timeView with copies := c }) : OtherClocks n s t := by
  obtain ⟨c, hview⟩ := h
  exact ⟨(congrArg TimeView.aside hview).trans rfl, (congrArg TimeView.defer hview).trans rfl, fun k _ => (congrArg (fun x => x.tb.get k) hview).trans rfl,
    fun k _ => (congrArg (fun x => x.adv.get k) hview).trans rfl, hincr⟩

theorem tickVal {k : Nat} (h : OtherClocks n s t) (hk : k < 4) (hne : k ≠ n) : t.tickVal k = s.tickVal k := by
  have htb : t.tbVal k = s.tbVal k := h.tb k hne
  have hadv : t.tmu.adv.get k = s.tmu.adv.get k := h.adv k hne
  unfold Dev.tickVal
  rw [htb, hadv, h.incr.reg _ (by decide) k (Reg.hasCopy_row rfl hk) hne]

end OtherClocks

theorem tickStart_others (s : Dev) (n : Nat) : OtherClocks n s (s.tickStart n) := by
  unfold tickStart
  split
  · have hspent (k : Nat) (hk : k ≠ n) : (s.tmu.adv.set n false).get k = s.tmu.adv.get k := Tab.get_set_other _ _ hk
    exact ⟨rfl, rfl, fun _ _ => rfl, hspent, .of_regs rfl⟩
  · have hview := tbAdvance_view s n
    exact ⟨(congrArg TimeView.aside hview).trans rfl, (congrArg TimeView.defer hview).trans rfl,
      fun k hk => (congrArg (fun x => x.tb.get k) hview).trans (Tab.get_set_other _ _ hk), fun k _ => (congrArg (fun x => x.adv.get k) hview).trans rfl,
      .of_regsBut (tbAdvance_regs s n) (by decide)⟩

theorem tickStart_tbVal (s : Dev) (n : Nat) : (s.tickStart n).tbVal n = s.tickVal n := by
  unfold tickStart tickVal
  split
  · rfl
  · exact (congrArg (fun x => x.tb.get n) (tbAdvance_view s n)).trans (Tab.get_set_same ..)

theorem withCopies_others (s : Dev) (n : Nat) (c : Tab (List TimeCopy)) : OtherClocks n s (s.withCopies c) := .of_copies (.of_regs rfl) ⟨c, rfl⟩

theorem withCopies_tbVal (s : Dev) (c : Tab (List TimeCopy)) (k : Nat) : (s.withCopies c).tbVal k = s.tbVal k := rfl

theorem pastTick_kept (s : Dev) (n : Nat) : ClocksKept [] s (s.pastTick n) := by
  unfold Dev.pastTick
  dsimp only
  split
  · exact (ClocksKept.refl s).same rfl rfl
  · exact (ClocksKept.refl s).same rfl rfl

theorem setIncr_others (hn : n < 4) (i : Int) (v0 : Nat) : CopiesBut [.TMU_TB_INCR] n s (s.setIncr n i v0) := by
  by_cases h : unsign 32 i = s.reg .TMU_TB_INCR n
  · rw [setIncr_same h]
    exact .refl s
  · rw [setIncr_changed h]
    exact (CopiesBut.of_regs (copiesLag_regs ..)).setReg (Reg.hasCopy_row rfl hn)

theorem holdTimeout_others (hn : n < 4) (s : Dev) : OtherClocks n s (s.holdTimeout n) ∧ (s.holdTimeout n).tbVal n = s.tbVal n := by
  rcases s.holdTimeout_cases n with h | ⟨i, h⟩
  · rw [h]
    exact ⟨.of_copies (.refl s) ⟨_, rfl⟩, rfl⟩
  · rw [h]
    have hview : ∃ c, _ = { s.timeView with copies := c } := setIncr_view (s.setFld .TMU_SRV_STAT_STATE srvHold n) n i (s.tbBefore n)
    have hset : CopiesBut [.TMU_TB_INCR] n s (s.setFld .TMU_SRV_STAT_STATE srvHold n) := (CopiesBut.refl s).setFld (Reg.hasCopy_row rfl hn)
    exact ⟨.of_copies (hset.trans (setIncr_others hn i _)) hview, tbVal_of_copies hview n⟩

theorem holdTick_others (hn : n < 4) (s : Dev) : OtherClocks n s (s.holdTick n) ∧ (s.holdTick n).tbVal n = s.tbVal n := by
  unfold Dev.holdTick
  dsimp only
  split
  · have hcounted : OtherClocks n s { s with tmu := { s.tmu with hold := s.tmu.hold.upd n (· + 1) } } := .of_copies (.of_regs rfl) ⟨_, rfl⟩
    obtain ⟨hothers, hval⟩ := holdTimeout_others hn { s with tmu := { s.tmu with hold := s.tmu.hold.upd n (· + 1) } }
    exact ⟨hcounted.trans hothers, hval⟩
  · exact ⟨.of_copies (.refl s) ⟨_, rfl⟩, rfl⟩

/-- A tick of a time base for which nothing waits is made of the advance, the copies, what the copies remember and the hold timer. -/
theorem tbTick_undeferred (h : ((((s.tickStart n).copiesTick n).pastTick n).holdTick n).tmu.defer = []) :
    s.tbTick n = (((s.tickStart n).copiesTick n).pastTick n).holdTick n := by
  unfold tickStart copiesTick withCopies at h ⊢
  unfold Dev.tbTick
  dsimp only at h ⊢
  rw [h]
  rfl

/-- With nothing deferred a tick of a time base is its own affair, and leaves the count that its advance gives. -/
theorem tbTick_others (hn : n < 4) (hdefer : s.tmu.defer = []) : OtherClocks n s (s.tbTick n) ∧ (s.tbTick n).tbVal n = s.tickVal n := by
  have hcopies : OtherClocks n (s.tickStart n) ((s.tickStart n).copiesTick n) := withCopies_others ..
  have hval : ((s.tickStart n).copiesTick n).tbVal n = s.tickVal n := (withCopies_tbVal ..).trans (tickStart_tbVal s n)
  have hundeferred := tbTick_undeferred (s := s) (n := n)
  generalize (s.tickStart n).copiesTick n = t at *
  have hpast := pastTick_kept t n
  obtain ⟨hhold, hhold_val⟩ := holdTick_others hn (t.pastTick n)
  have hothers := (((tickStart_others s n).trans hcopies).trans (.of_copies (.of_regsBut hpast.regs (by decide)) ⟨_, hpast.view⟩)).trans hhold
  rw [hundeferred (hothers.defer.trans hdefer)]
  exact ⟨hothers, hhold_val.trans ((tbVal_view (congrArg TimeView.tb hpast.view) n).trans hval)⟩

end Dev

end Sys2Proof.Machine
end

section
/-! Rules for a tick of the device, the time pins and the reads of the queues (O51, R276, R278, R290, R291, R296 to R299). -/

namespace Sys2Proof.Machine

namespace Dev
variable {s t u : Dev} {n : Nat}

/-! ### A tick of the device (R276) -/

/-- With nothing deferred, the tick of each of several time bases is its own. -/
theorem each_tbTick {l : List Nat} (hl : l.Nodup) (hlt : ∀ k ∈ l, k < 4) (hdefer : s.tmu.defer = []) :
    (s.each l Dev.tbTick).timeView.aside = s.timeView.aside ∧
      ∀ k < 4, (s.each l Dev.tbTick).tbVal k = if k ∈ l then s.tickVal k else s.tbVal k := by
  induction l generalizing s with
  | nil => exact ⟨rfl, fun _ _ => rfl⟩
  | cons a l ih =>
    obtain ⟨ha, hl⟩ := List.nodup_cons.mp hl
    obtain ⟨ha4, hlt⟩ := List.forall_mem_cons.mp hlt
    obtain ⟨hothers, hown⟩ := tbTick_others ha4 hdefer
    obtain ⟨haside, hval⟩ := ih hl hlt (hothers.defer.trans hdefer)
    rw [each_cons]
    refine ⟨haside.trans hothers.aside, fun k hk => (hval k hk).trans ?_⟩
    rcases eq_or_ne k a with rfl | hne
    · simpa [ha] using hown
    · have htb : (s.tbTick a).tbVal k = s.tbVal k := hothers.tb k hne
      simp [hne, htb, hothers.tickVal hk hne]

theorem refTick_view (s : Dev) : s.refTick.timeView = s.timeView := by
  unfold Dev.refTick
  split <;> rfl

theorem watchdogTick_view (s : Dev) : s.watchdogTick.timeView = s.timeView := by
  unfold Dev.watchdogTick
  dsimp only
  split
  · rfl
  split <;> rfl

theorem credits_view (l : List Nat) (s : Dev) :
    (s.each l fun n s => s.when (s.fld .SWC_GCL_CFG_CBS_EN n != 0) (Dev.creditStep n 2)).timeView = s.timeView :=
  each_same (fun n _ u => when_keeps (P := fun t => t.timeView = u.timeView) (fun t ht => by rw [creditStep_frame]; exact ht) u rfl) s

theorem capWrite_none (h : s.swc.capQ = []) : s.capWrite = s := by
  unfold Dev.capWrite
  rw [h]

theorem countsOut_none (h : s.pers.counts = []) : s.countsOut.timeView = s.timeView := by
  unfold Dev.countsOut
  rw [h, each_nil, timeView, timeView, h]
  rfl

theorem tick_running (hpor : s.sys.resetRun ≠ some .POR) (hpin : s.sys.resetRun ≠ some .PIN) : s.tick =
    (((s.each (List.range 4) Dev.tbTick).each (List.range 28) fun n s =>
      s.when (s.fld .SWC_GCL_CFG_CBS_EN n != 0) (Dev.creditStep n 2)).refTick.watchdogTick.capWrite.countsOut).updVlt
        fun v => { v with otp := v.otp.done } := by
  unfold Dev.tick
  split
  next h => exact absurd h hpor
  next h => exact absurd h hpin
  next => rfl

/-- A tick with nothing deferred and nothing to write advances the time bases and leaves memory. -/
theorem tick_ticked (hpor : s.sys.resetRun ≠ some .POR) (hpin : s.sys.resetRun ≠ some .PIN) (hdefer : s.tmu.defer = []) (hcap : s.swc.capQ = [])
    (hcounts : s.pers.counts = []) : s.tick.mem = s.mem ∧ ∀ k < 4, s.tick.tbVal k = s.tickVal k := by
  obtain ⟨haside, hval⟩ := each_tbTick (List.nodup_range (n := 4)) (fun k hk => List.mem_range.mp hk) hdefer
  have hview : s.tick.timeView = (s.each (List.range 4) Dev.tbTick).timeView := by
    rw [tick_running hpor hpin]
    generalize s.each (List.range 4) Dev.tbTick = t at haside ⊢
    have hcredits := (watchdogTick_view _).trans ((refTick_view _).trans (credits_view (List.range 28) t))
    generalize (Dev.refTick _).watchdogTick = u at hcredits ⊢
    have hcapQ : u.swc.capQ = [] := (congrArg TimeView.capQ hcredits).trans ((congrArg TimeView.capQ haside).trans hcap)
    have hnone : u.pers.counts = [] := (congrArg TimeView.counts hcredits).trans ((congrArg TimeView.counts haside).trans hcounts)
    rw [capWrite_none hcapQ]
    exact (countsOut_none hnone).trans hcredits
  exact ⟨(congrArg TimeView.mem hview).trans (congrArg TimeView.mem haside),
    fun k hk => (tbVal_view (congrArg TimeView.tb hview) k).trans ((hval k hk).trans (if_pos (List.mem_range.mpr hk)))⟩

/-! ### Time outputs (R297) -/

section
variable (hen : s.flag .TMU_OUT_CFG_EN n = true)
include hen

theorem outEdge_rises (hidle : (s.tmu.outs.get n).pulse = false) (hdue : (s.tmu.outs.get n).next ≤ 0) :
    s.outEdge n = s.updOut n fun o => ⟨o.k + 1 + o.skips, true, o.next + (1 + o.skips) * s.outPer n, o.next + s.reg .TMU_OUT_HIGH n * 256, 0⟩ := by
  unfold Dev.outEdge
  dsimp only
  rw [if_neg (by simp [hen]), if_neg (by simp [hidle]), if_pos hdue]

theorem outEdge_falls (hpulse : (s.tmu.outs.get n).pulse = true) (hdue : (s.tmu.outs.get n).fall ≤ 0) :
    s.outEdge n = s.updOut n fun o => { o with pulse := false } := by
  unfold Dev.outEdge
  dsimp only
  rw [if_neg (by simp [hen]), if_pos hpulse, if_pos hdue]

theorem outEdge_ahead (h : 0 < if (s.tmu.outs.get n).pulse = true then (s.tmu.outs.get n).fall else (s.tmu.outs.get n).next) : s.outEdge n = s := by
  unfold Dev.outEdge
  dsimp only
  rw [if_neg (by simp [hen])]
  split
  case isTrue hpulse =>
    rw [if_pos hpulse] at h
    exact if_neg (Int.not_le.mpr h)
  case isFalse hidle =>
    rw [if_neg hidle] at h
    exact if_neg (Int.not_le.mpr h)

end

/-! ### TP_REF10 (R299) -/

/-- A window that ends gives no sample where no time base takes one. -/
theorem refEnd_unsampled (hruns : s.tmu.refRuns = true) (hpresent : s.flag .TMU_STATUS_REF10_PRESENT = true)
    (hsrc : ∀ k < 4, s.fld .TMU_SRV_CFG_SRC k ≠ 4) : s.refEnd = { s with tmu := { s.tmu with refRuns := false, refWait := 50 } } := by
  unfold Dev.refEnd
  extract_lets sample sampled
  have hsampled : sampled = s := by
    refine each_keeps (P := fun t => t = s) (fun k hk t ht => ?_) s rfl
    unfold sample
    rw [ht, if_neg (hsrc k (List.mem_range.mp hk))]
  rw [if_neg (by simp [hruns, hpresent])]
  clear_value sampled
  subst hsampled
  rfl

theorem refPresence_shows (s : Dev) (on : Bool) : (s.refPresence on).mem = s.mem ∧
    (s.refPresence on).flag .TMU_STATUS_REF10_PRESENT = on ∧ (s.refPresence on).tmu.refRuns = on := by
  have hflag : (s.setFlag .TMU_STATUS_REF10_PRESENT on).flag .TMU_STATUS_REF10_PRESENT = on := flag_setFlag_same _ _ rfl (by decide) ..
  cases on
  · exact ⟨rfl, hflag, rfl⟩
  · exact ⟨rfl, hflag, rfl⟩

/-! ### Reads (R278, R291, R296) -/

section
variable {who : Agent}

theorem rowRead_tb (h : s.reaches who .TMU_TB_LOW n 0 false) : s.rowRead who .TMU_TB_LOW n =
    { s.setLatch (pairKey who.mid (Reg.addr .TMU_TB_LOW n)) (some (word (tbFrac (s.tbVal n)))) with rd := word (tbNs (s.tbVal n)) } := by
  rw [rowRead_reaches h, copyLoad_low (hi := .TMU_TB_HIGH) rfl rfl]
  rfl

theorem setLatch_get (s : Dev) (k : Nat) (w : Option Word) : (s.setLatch k w).hiLatch.get k = w := by rw [setLatch_hiLatch, Tab.get_set_same]

/-- A read takes the oldest capture and latches its high word. -/
theorem rowRead_evt {x : EvtE} {l : List EvtE} (hq : s.tmu.evt.get n = x :: l) (h : s.reaches who .TMU_EVT_LOW n 0 false) :
    let e := s.rowRead who .TMU_EVT_LOW n
    e.mem = s.mem ∧ e.rd = word x.ns ∧ e.hiLatch.get (pairKey who.mid (Reg.addr .TMU_EVT_LOW n)) = some (word x.high) ∧ e.tmu.evt.get n = l := by
  have hpop : s.evtPop n = (x.ns, x.high, { s with tmu := { s.tmu with evt := s.tmu.evt.set n l } }) := by
    unfold Dev.evtPop
    rw [hq]
  have htaken : (s.tmu.evt.set n l).get n = l := Tab.get_set_same ..
  rw [rowRead_reaches h, copyLoad_low (hi := .TMU_EVT_HIGH) rfl rfl]
  unfold Dev.pairLow
  dsimp only
  rw [hpop]
  exact ⟨rfl, rfl, setLatch_get .., htaken⟩

/-- A read takes the oldest transmit stamp and latches its high word. -/
theorem rowRead_txts {x : TxtsE} {l : List TxtsE} (hq : s.tmu.txts.get n = x :: l) (h : s.reaches who .TMU_TXTS_LOW n 0 false) :
    let e := s.rowRead who .TMU_TXTS_LOW n
    e.mem = s.mem ∧ e.rd = word x.ns ∧ e.hiLatch.get (pairKey who.mid (Reg.addr .TMU_TXTS_LOW n)) = some (word x.high) ∧ e.tmu.txts.get n = l := by
  have hpop : s.txtsPop n = (x.ns, x.high, s.setTxts n l) := by
    unfold Dev.txtsPop
    rw [hq]
  have htaken : (s.setTxts n l).tmu.txts.get n = l := Tab.get_set_same s.tmu.txts n l
  rw [rowRead_reaches h, copyLoad_low (hi := .TMU_TXTS_HIGH) rfl rfl]
  unfold Dev.pairLow
  dsimp only
  rw [hpop]
  exact ⟨rfl, rfl, setLatch_get .., htaken⟩

end

/-! ### Commits (R279, R284) -/

theorem copyVal_view (h : t.timeView = s.timeView) (isl k : Nat) : t.copyVal isl k = s.copyVal isl k := by
  have hcopies : t.tmu.copies = s.tmu.copies := congrArg TimeView.copies h
  unfold Dev.copyVal
  rw [hcopies, tbVal_view (congrArg TimeView.tb h)]

/-- A pair is committed with the low word that its writer has staged (R8). -/
theorem pairWrite_staged {r lo : Reg} (hr : r.readOnly = false) {i j mid : Nat} {w : Word} (h : s.loStage.get (pairKey mid (lo.addr i j)) = some w)
    (ctx v : Nat) : s.pairWrite r lo i j mid ctx v = (s.setStage (pairKey mid (lo.addr i j)) none).pairCommit lo r w.toNat v i j mid ctx := by
  unfold Dev.pairWrite
  dsimp only
  rw [if_neg (by simp [hr]), h]

/-- A commit with bits that no field covers counts a violation beside its effect (R9). -/
theorem strayCommit_kept (lo hi : Reg) (vl vh k : Nat) : ClocksKept [.TMU_MISUSE_CNT] s
    (if (lo.strayBits vl || hi.strayBits vh) = true then (s.setStage k none).misuse .TMU else s.setStage k none) := by
  have hstage : ClocksKept [.TMU_MISUSE_CNT] s (s.setStage k none) := (ClocksKept.refl s).same rfl rfl
  exact .ite (hstage.count (Reg.hasCopy_alone rfl) (by decide)) hstage

section
variable {who : Agent} {lo : Word}

theorem rowWrite_tbSet (h : s.reaches who .TMU_TB_HIGH n 0 true) (hlo : s.loStage.get (pairKey who.mid (Reg.addr .TMU_TB_LOW n)) = some lo) (v : Nat) :
    ∃ u, ClocksKept [.TMU_MISUSE_CNT] s u ∧ s.rowWrite who .TMU_TB_HIGH v n = u.adjust n (.set lo.toNat (bits v 7 0)) := by
  refine ⟨_, strayCommit_kept .TMU_TB_LOW .TMU_TB_HIGH lo.toNat v (pairKey who.mid (Reg.addr .TMU_TB_LOW n)), ?_⟩
  rw [rowWrite_reaches h, copyStore_high (r := .TMU_TB_LOW) rfl rfl, pairWrite_staged (by decide) hlo]
  rfl

theorem rowWrite_tbStep (h : s.reaches who .TMU_TB_STEP_HIGH n 0 true)
    (hlo : s.loStage.get (pairKey who.mid (Reg.addr .TMU_TB_STEP_LOW n)) = some lo) (v : Nat) :
    ∃ u, ClocksKept [.TMU_MISUSE_CNT] s u ∧ s.rowWrite who .TMU_TB_STEP_HIGH v n = u.adjust n (.step lo.toNat (bits v 7 0)) := by
  refine ⟨_, strayCommit_kept .TMU_TB_STEP_LOW .TMU_TB_STEP_HIGH lo.toNat v (pairKey who.mid (Reg.addr .TMU_TB_STEP_LOW n)), ?_⟩
  rw [rowWrite_reaches h, copyStore_high (r := .TMU_TB_STEP_LOW) rfl rfl, pairWrite_staged (by decide) hlo]
  rfl

theorem rowWrite_offset (h : s.reaches who .TMU_TB_OFS n 0 true) (v : Nat) : s.rowWrite who .TMU_TB_OFS v n =
    if s.srvTakes n 1 = true then s.adjust n (.sample 1 (signed 32 v)) else s.count .TMU_OFS_REFUSE_CNT n := by
  rw [rowWrite_reaches h, copyStore_single _ rfl]
  rfl

end

/-- A commit leaves the clocks, so what a set or step makes of them it makes of those before the write. -/
theorem adjusted_stepped_of_kept (hkept : ClocksKept [.TMU_MISUSE_CNT] s u) (hn : n < 4) (v : Nat) (slm : Bool) :
    let e := (u.adjusted n (u.tbVal n) v slm).advMade n
    e.mem = s.mem ∧ e.tbVal n = v % tbMod ∧ e.reg .TMU_STEP_CNT n = min (s.reg .TMU_STEP_CNT n + 1) 0xFFFFFFFF ∧
      ∀ isl < 11, e.copyVal isl n = s.copyVal isl n := by
  intro e
  obtain ⟨hmem, hval, hcount, hcopies⟩ := adjusted_stepped (s := u) hn v slm
  rw [hkept.regs.reg _ _ _ _ (Reg.hasCopy_row rfl hn) (by decide)] at hcount
  exact ⟨hmem.trans (congrArg TimeView.mem hkept.view), hval, hcount, fun isl hisl => (hcopies isl hisl).trans (copyVal_view hkept.view ..)⟩

end Dev

end Sys2Proof.Machine
end

section
/-! O51: time bases, servos, time inputs and outputs (R276 to R299, R529). -/

namespace Sys2Proof.Machine

/-! ### The rows -/

section
variable (who : Agent) (n : Fin 4) (v : Word) (s : State)

theorem exec_tbWrap_eq (h : s.dev.tbCarries n = true) : exec (.tbWrap n) s = .next (s.withDev s.dev.tick) := next_congr (if_pos h)

theorem exec_tbSet_eq : exec (.tbSet who n v) s = .next (s.withDev (s.dev.rowWrite who .TMU_TB_HIGH v.toNat n)) := rfl

theorem exec_tbStep_eq : exec (.tbStep who n v) s = .next (s.withDev (s.dev.rowWrite who .TMU_TB_STEP_HIGH v.toNat n)) := rfl

theorem exec_tbRead_eq : exec (.tbRead who n) s = .next (s.withDev (s.dev.rowRead who .TMU_TB_LOW n)) := rfl

theorem exec_tbCopyUpdate_eq (isl : Fin 11) : exec (.tbCopyUpdate isl n) s = .next (s.withDev (s.dev.copyUpdate isl n)) := rfl

theorem exec_offsetSample_eq : exec (.offsetSample who n v) s = .next (s.withDev (s.dev.rowWrite who .TMU_TB_OFS v.toNat n)) := rfl

theorem exec_servoSample_eq {src : Fin 8} (h : s.dev.srvTakes n src = true) (th : BitVec 40) :
    exec (.servoSample n src th) s = .next (s.withDev (s.dev.adjust n (.sample src th.toInt))) := next_congr (if_pos h)

theorem exec_holdTimeout_eq : exec (.holdTimeout n) s = .next (s.withDev (s.dev.holdTimeout n)) := rfl

theorem exec_timeInputEdge_eq (rise : Bool) (w : BitVec 32) :
    exec (.timeInputEdge n rise w) s = .next (s.withDev (s.dev.inputEdge n rise w.toNat)) := rfl

theorem exec_evtRead_eq : exec (.evtRead who n) s = .next (s.withDev (s.dev.rowRead who .TMU_EVT_LOW n)) := rfl

theorem exec_txtsRead_eq (m : Fin 28) : exec (.txtsRead who m) s = .next (s.withDev (s.dev.rowRead who .TMU_TXTS_LOW m)) := rfl

theorem exec_ref10WindowEnd_eq : exec .ref10WindowEnd s = .next (s.withDev s.dev.refEnd) := rfl

theorem exec_timeOutputEdge_eq : exec (.timeOutputEdge n) s = .next (s.withDev (s.dev.outEdge n)) := rfl

theorem exec_ref10PresenceChange_eq (on : Bool) : exec (.ref10PresenceChange on) s = .next (s.withDev (s.dev.refPresence on)) := rfl

end

theorem step_idle {s : State} (h : s.pending = []) : step s = .next (s.withDev s.dev.tick) := by
  cases s
  cases h
  rfl

theorem bits_low_byte (v : Nat) : bits v 7 0 = v % 256 := by simp [bits]

/-- A count from a staged word and a fraction lies within the range of a time base. -/
theorem stagedCount_mod (lo : Word) {f : Nat} (hf : f < 256) : (lo.toNat * nsUnit + f * 2 ^ 20) % tbMod = lo.toNat * 2 ^ 28 + f * 2 ^ 20 := by
  have hlo := lo.isLt
  unfold nsUnit tbMod
  omega

/-- Settles O51: a command reaches the time unit's own operation, and each operation has the rule of its case. -/
theorem timeRowsComplete : Obligations.TimeRowsComplete := by
  unfold Obligations.TimeRowsComplete
  intro n who v s d run incr kept stepped steered small quiet ticked
  have hn := n.isLt
  have hrun {i : Instr} {e : Dev} {p : Dev → Prop} (hexec : exec i s = .next (s.withDev e)) (hmem : e.mem = d.mem) (he : p e) : run i p :=
    ⟨s.withDev e, hexec, s.withDev_pending e, hmem, he⟩
  clear_value run
  have hsame {i : Instr} {e : Dev} (hexec : exec i s = .next (s.withDev e)) (he : e = d) : exec i s = .next s := hexec.trans (next_congr he)
  have htick : quiet → d.tick.mem = d.mem ∧ ticked d.tick := fun ⟨hpor, hpin, hdefer, hcap, hcounts⟩ => Dev.tick_ticked hpor hpin hdefer hcap hcounts
  refine ⟨?idle, ?wrap, ?set, ?step, ?read, ?copy, ?offset, ?sample, ?hold, ?input, ?evt, ?txts, ?window, ?output, ?presence⟩
  case idle =>
    intro hpending hquiet
    obtain ⟨hmem, hticked⟩ := htick hquiet
    exact ⟨_, step_idle hpending, hpending, hmem, hticked⟩
  case wrap =>
    intro hcarry hquiet
    obtain ⟨hmem, hticked⟩ := htick hquiet
    exact hrun (exec_tbWrap_eq n s hcarry) hmem hticked
  case set =>
    intro lo hreach hlo
    obtain ⟨u, hkept, hwrite⟩ := Dev.rowWrite_tbSet hreach hlo v.toNat
    rw [bits_low_byte] at hwrite
    have hadv' : u.tmu.adv = d.tmu.adv := congrArg TimeView.adv hkept.view
    have hexec := (exec_tbSet_eq who n v s).trans (next_congr hwrite)
    refine ⟨fun hadv => ?now, fun hadv => ?later⟩
    case now =>
      rw [Dev.adjust_set (by rwa [hadv'])] at hexec
      obtain ⟨hmem, hval, hstepped⟩ := Dev.adjusted_stepped_of_kept hkept hn (lo.toNat * nsUnit + v.toNat % 256 * 2 ^ 20) false
      exact hrun hexec hmem ⟨hval.trans (stagedCount_mod lo (Nat.mod_lt _ (by decide))), hstepped⟩
    case later =>
      rw [Dev.adjust_deferred (by rwa [hadv'])] at hexec
      have hdefer : u.tmu.defer = d.tmu.defer := congrArg TimeView.defer hkept.view
      exact hrun hexec (congrArg TimeView.mem hkept.view) ⟨Dev.tbVal_view (congrArg TimeView.tb hkept.view) n, by rw [hdefer]⟩
  case step =>
    intro lo hreach hlo hadv
    obtain ⟨u, hkept, hwrite⟩ := Dev.rowWrite_tbStep hreach hlo v.toNat
    have hadv' : u.tmu.adv = d.tmu.adv := congrArg TimeView.adv hkept.view
    have hincr : u.reg .TMU_TB_INCR n = incr := hkept.regs.reg _ _ _ _ (Reg.hasCopy_row rfl hn) (by decide)
    rw [bits_low_byte, Dev.adjust_step (by rwa [hadv']), hincr] at hwrite
    obtain ⟨hmem, hval, hstepped⟩ := Dev.adjusted_stepped_of_kept hkept hn (u.tbVal n + incr + lo.toNat * nsUnit + v.toNat % 256 * 2 ^ 20) false
    have htb : u.tbVal n = d.tbVal n := Dev.tbVal_view (congrArg TimeView.tb hkept.view) n
    exact hrun ((exec_tbStep_eq who n v s).trans (next_congr hwrite)) hmem ⟨hval.trans (by rw [htb]; rfl), hstepped⟩
  case read =>
    intro hreach
    exact (exec_tbRead_eq who n s).trans (next_congr (Dev.rowRead_tb hreach))
  case copy =>
    intro isl
    refine ⟨fun hnone => hsame (exec_tbCopyUpdate_eq n s isl) (Dev.copyUpdate_none hnone), fun c l hcopies => ?_⟩
    have hview := Dev.copyUpdate_view hcopies
    refine hrun (exec_tbCopyUpdate_eq n s isl) (congrArg TimeView.mem hview) ⟨(Dev.copyUpdate_shows hcopies).trans ?_, Dev.tbVal_of_copies ⟨_, hview⟩⟩
    cases l with
    | nil => rfl
    | cons x _ => rfl
  case offset =>
    intro hreach hadv
    have hexec := (exec_offsetSample_eq who n v s).trans (next_congr (Dev.rowWrite_offset hreach v.toNat))
    refine ⟨fun htakes hsmall => ?_, fun hrefused => ?_⟩
    · rw [if_pos htakes, Dev.adjust_sample hadv htakes] at hexec
      obtain ⟨hmem, hsteered⟩ := Dev.srvSample_steered (src := 1) hn hsmall
      exact hrun hexec hmem hsteered
    · exact hexec.trans (next_congr (if_neg (by simp [d, hrefused])))
  case sample =>
    intro src th htakes hadv hsmall
    obtain ⟨hmem, hsteered⟩ := Dev.srvSample_steered (src := src) hn hsmall
    exact hrun ((exec_servoSample_eq n s htakes th).trans (next_congr (Dev.adjust_sample hadv htakes _))) hmem hsteered
  case hold =>
    intro late hstate
    refine ⟨fun hlate hadv => ?_, fun hearly => hsame (exec_holdTimeout_eq n s) (Dev.holdTimeout_early hearly)⟩
    obtain ⟨hmem, hholdover⟩ := Dev.holdTimeout_holdover hn hstate hlate hadv
    exact hrun (exec_holdTimeout_eq n s) hmem hholdover
  case input =>
    intro rise w hwidth hedge x
    obtain ⟨hmem, hcaptured⟩ := Dev.inputEdge_captures hn rise hwidth hedge
    exact hrun (exec_timeInputEdge_eq n s rise w) hmem hcaptured
  case evt =>
    intro x l hqueue hreach
    obtain ⟨hmem, htaken⟩ := Dev.rowRead_evt hqueue hreach
    exact hrun (exec_evtRead_eq who n s) hmem htaken
  case txts =>
    intro m x l hqueue hreach
    obtain ⟨hmem, htaken⟩ := Dev.rowRead_txts hqueue hreach
    exact hrun (exec_txtsRead_eq who s m) hmem htaken
  case window =>
    intro hruns hpresent hsrc
    exact (exec_ref10WindowEnd_eq s).trans (next_congr (Dev.refEnd_unsampled hruns hpresent hsrc))
  case output =>
    intro o hen
    have hexec := exec_timeOutputEdge_eq n s
    refine ⟨fun hidle hdue => ?_, fun hpulse hdue => hexec.trans (next_congr (Dev.outEdge_falls hen hpulse hdue)),
      fun hahead => hsame hexec (Dev.outEdge_ahead hen hahead)⟩
    exact hexec.trans (next_congr (Dev.outEdge_rises hen hidle hdue))
  case presence =>
    intro on
    obtain ⟨hmem, hshown⟩ := s.dev.refPresence_shows on
    exact hrun (exec_ref10PresenceChange_eq s on) hmem hshown

end Sys2Proof.Machine
end

section
/-! What a register, a field or a flag reads after a write of another one, and after a write by the field rules (R9 to R13). The registers differ by
name, or the fields by place, so `simp +decide` reads through a course of writes once it is told which copies there are. -/

namespace Sys2Proof.Machine

/-- A register of one row of `c` copies has copy `n`. -/
theorem Reg.hasCopy_of_row {r : Reg} {c n : Nat} (hn : n < c) (h : r.info.strides.map Prod.snd = [c]) : r.HasCopy n 0 0 := by
  simpa [Reg.HasCopy, h] using hn

/-- A register of rows of `c` copies in `m` pages has copy `j` of page `i`. -/
theorem Reg.hasCopy_of_table {r : Reg} {c m i j : Nat} (hi : i < m) (hj : j < c) (h : r.info.strides.map Prod.snd = [m, c]) : r.HasCopy i j 0 := by
  simp [Reg.HasCopy, h, hi, hj]

namespace Dev

section
variable (s : Dev) {f g : Fld} {q r : Reg} {a b c i j k : Nat}

@[simp] theorem reg_setReg_of_apart (hq : q.HasCopy a b c) (hr : r.HasCopy i j k) (hne : q ≠ r) (v : Nat) :
    (s.setReg r v i j k).reg q a b c = s.reg q a b c := reg_setReg_apart s hq hr hne v

@[simp] theorem reg_setFld_of_apart (hq : q.HasCopy a b c) (hf : f.reg.HasCopy i j k) (hne : q ≠ f.reg) (v : Nat) :
    (s.setFld f v i j k).reg q a b c = s.reg q a b c := reg_setReg_apart s hq hf hne _

@[simp] theorem reg_countBy_of_apart (hq : q.HasCopy a b c) (hr : r.HasCopy i j k) (hne : q ≠ r) (n : Nat) :
    (s.countBy n r i j k).reg q a b c = s.reg q a b c := reg_setReg_apart s hq hr hne _

@[simp] theorem fld_setReg_of_apart (hg : g.reg.HasCopy a b c) (hr : r.HasCopy i j k) (hne : g.reg ≠ r) (v : Nat) :
    (s.setReg r v i j k).fld g a b c = s.fld g a b c := s.fld_setReg_other (hg.addr_ne hr hne) v

@[simp] theorem fld_setFld_of_apart (hg : g.reg.HasCopy a b c) (hf : f.reg.HasCopy i j k) (hne : g.reg ≠ f.reg) (v : Nat) :
    (s.setFld f v i j k).fld g a b c = s.fld g a b c := s.fld_setFld_other (hg.addr_ne hf hne) v

@[simp] theorem fld_countBy_of_apart (hg : g.reg.HasCopy a b c) (hr : r.HasCopy i j k) (hne : g.reg ≠ r) (n : Nat) :
    (s.countBy n r i j k).fld g a b c = s.fld g a b c := s.fld_setReg_other (hg.addr_ne hr hne) _

@[simp] theorem flag_setReg_of_apart (hg : g.reg.HasCopy a b c) (hr : r.HasCopy i j k) (hne : g.reg ≠ r) (v : Nat) :
    (s.setReg r v i j k).flag g a b c = s.flag g a b c := congrArg (· != 0) (fld_setReg_of_apart s hg hr hne v)

@[simp] theorem flag_setFld_of_apart (hg : g.reg.HasCopy a b c) (hf : f.reg.HasCopy i j k) (hne : g.reg ≠ f.reg) (v : Nat) :
    (s.setFld f v i j k).flag g a b c = s.flag g a b c := congrArg (· != 0) (fld_setFld_of_apart s hg hf hne v)

@[simp] theorem flag_countBy_of_apart (hg : g.reg.HasCopy a b c) (hr : r.HasCopy i j k) (hne : g.reg ≠ r) (n : Nat) :
    (s.countBy n r i j k).flag g a b c = s.flag g a b c := congrArg (· != 0) (fld_countBy_of_apart s hg hr hne n)

end

section
variable (s : Dev) {f g : Fld} {i j k : Nat}

@[simp] theorem fld_setFld_of_beside (h : f.lo ≤ f.hi ∧ f.hi < 32) (hreg : g.reg = f.reg) (hbits : g.hi < f.lo ∨ f.hi < g.lo) (v : Nat) :
    (s.setFld f v i j k).fld g i j k = s.fld g i j k := s.fld_setFld_beside h.1 h.2 hreg hbits v i j k

@[simp] theorem flag_setFld_of_beside (h : f.lo ≤ f.hi ∧ f.hi < 32) (hreg : g.reg = f.reg) (hbits : g.hi < f.lo ∨ f.hi < g.lo) (v : Nat) :
    (s.setFld f v i j k).flag g i j k = s.flag g i j k := s.flag_setFld_beside h.1 h.2 hreg hbits v i j k

/-- A field reads the value written where the field is wide enough for it. -/
@[simp] theorem fld_setFld_of_fits {v : Nat} (h : f.lo ≤ f.hi ∧ f.hi < 32) (hv : v < 2 ^ (f.hi + 1 - f.lo)) : (s.setFld f v i j k).fld f i j k = v := by
  rw [s.fld_setFld_same f h.1 h.2, Nat.mod_eq_of_lt hv]

@[simp] theorem flag_setFld_b2n (h : f.lo = f.hi ∧ f.hi < 32) (b : Bool) : (s.setFld f (b2n b) i j k).flag f i j k = b :=
  s.flag_setFlag_same f h.1 h.2 b i j k

end

/-- A field holds no more than its width. -/
theorem fld_lt (s : Dev) (f : Fld) (i j k : Nat) : s.fld f i j k < 2 ^ (f.hi + 1 - f.lo) := bits_lt ..

/-! ### A write by the field rules -/

variable {s t : Dev} {ill : FieldInfo → Bool} {r : Reg} {v i j k : Nat}

theorem plainIf_frame (s : Dev) (ill : FieldInfo → Bool) (r : Reg) (v i j k : Nat) :
    s.plainIf ill r v i j k = { s with regs := (s.plainIf ill r v i j k).regs } := by
  unfold Dev.plainIf
  dsimp only
  split <;> rfl

theorem RegsBut.plainIf {l : List Reg} (h : RegsBut l s t) (hr : r.HasCopy i j k) (hm : r.info.blk.misuse.HasCopy (r.info.blk.pageOf i) 0 0)
    (hl : r ∈ l) (hml : r.info.blk.misuse ∈ l) : RegsBut l s (t.plainIf ill r v i j k) := by
  have hset := h.setReg (v := (writeWord r.info.fields ill (t.reg r i j k) v).1) hr hl
  unfold Dev.plainIf
  dsimp only
  split
  · exact hset.count hm hml
  · exact hset

/-- A write by the field rules leaves the word that they give, whatever the chapter refuses. -/
theorem plainIf_reg_same (s : Dev) (hr : r.HasCopy i j k) (hm : r.info.blk.misuse.HasCopy (r.info.blk.pageOf i) 0 0) (hne : r ≠ r.info.blk.misuse) :
    (s.plainIf ill r v i j k).reg r i j k = (writeWord r.info.fields ill (s.reg r i j k) v).1 % 2 ^ 32 := by
  unfold Dev.plainIf
  dsimp only
  split
  · exact (reg_setReg_apart _ hr hm hne _).trans (s.reg_setReg_same ..)
  · exact s.reg_setReg_same ..

end Dev

/-! ### Fields whose value is refused by their chapter -/

theorem FieldInfo.write_lt {f : FieldInfo} {old new : Nat} (ill : Bool) (ho : old < 2 ^ (f.hi + 1 - f.lo)) (hn : new < 2 ^ (f.hi + 1 - f.lo)) :
    (f.write old new ill).1 < 2 ^ (f.hi + 1 - f.lo) := by
  unfold FieldInfo.write
  cases f.acc with
  | rw => dsimp only; split <;> assumption
  | cnt => dsimp only; split <;> [exact Nat.two_pow_pos _; exact ho]
  | ro => exact ho
  | wo => exact Nat.two_pow_pos _
  | w1s => dsimp only; split <;> [exact ho; exact Nat.or_lt_two_pow ho hn]
  | w1c => exact Nat.lt_of_le_of_lt Nat.and_le_left ho

theorem bits_writeFields_beside {fs : List FieldInfo} (h : FieldsFit fs) {g : FieldInfo} (ha : ∀ f ∈ fs, f.Apart g) (ill : FieldInfo → Bool) (v w : Nat) :
    bits (writeFields ill v fs w).1 g.hi g.lo = bits w g.hi g.lo := by
  induction fs generalizing w with
  | nil => rfl
  | cons f t ih =>
    obtain ⟨hf, -, ht⟩ := h
    exact (ih ht (fun x hx => ha x (List.mem_cons_of_mem f hx)) _).trans (bits_putBits_other hf.1 (ha f List.mem_cons_self) w _)

/-- Every field of a word ends as its own rule says, with what the chapter refuses. -/
theorem bits_writeFields_of_mem {fs : List FieldInfo} (h : FieldsFit fs) {g : FieldInfo} (hg : g ∈ fs) (ill : FieldInfo → Bool) (v w : Nat) :
    bits (writeFields ill v fs w).1 g.hi g.lo = (g.write (bits w g.hi g.lo) (bits v g.hi g.lo) (ill g)).1 := by
  induction fs generalizing w with
  | nil => cases hg
  | cons f t ih =>
    obtain ⟨hf, ha, ht⟩ := h
    rcases List.mem_cons.mp hg with rfl | hgt
    · refine (bits_writeFields_beside ht (fun x hx => (ha x hx).symm) ..).trans ?_
      rw [bits_putBits hf.1, Nat.mod_eq_of_lt (FieldInfo.write_lt _ (bits_lt ..) (bits_lt ..))]
    · refine (ih ht hgt _).trans ?_
      rw [bits_putBits_other hf.1 (ha g hgt)]

theorem writeFields_lt {fs : List FieldInfo} (h : FieldsFit fs) (ill : FieldInfo → Bool) (v : Nat) {w : Nat} (hw : w < 2 ^ 32) :
    (writeFields ill v fs w).1 < 2 ^ 32 := by
  induction fs generalizing w with
  | nil => exact hw
  | cons f t ih =>
    obtain ⟨hf, -, ht⟩ := h
    exact ih ht (putBits_lt hf.1 hf.2 hw _)

namespace Dev

/-- What a field of a register reads after a write by the field rules (R9 to R13). -/
theorem fld_plainIf (s : Dev) {f : Fld} {g : FieldInfo} {v i j k : Nat} (ill : FieldInfo → Bool)
    (hg : g ∈ f.reg.info.fields ∧ g.hi = f.hi ∧ g.lo = f.lo) (hr : f.reg.HasCopy i j k)
    (hm : f.reg.info.blk.misuse.HasCopy (f.reg.info.blk.pageOf i) 0 0) (hne : f.reg ≠ f.reg.info.blk.misuse) :
    (s.plainIf ill f.reg v i j k).fld f i j k = (g.write (s.fld f i j k) (bits v f.hi f.lo) (ill g)).1 := by
  obtain ⟨hmem, hhi, hlo⟩ := hg
  unfold Dev.fld
  rw [plainIf_reg_same s hr hm hne, ← hhi, ← hlo]
  by_cases hro : ∀ x ∈ f.reg.info.fields, x.acc = .ro
  · rw [writeWord_readOnly hro, Nat.mod_eq_of_lt (s.reg_lt ..)]
    simp [FieldInfo.write, hro g hmem]
  · rw [writeWord_writable hro, Nat.mod_eq_of_lt (writeFields_lt f.reg.fieldsFit _ _ (s.reg_lt ..))]
    exact bits_writeFields_of_mem f.reg.fieldsFit hmem ..

/-- A read-write field takes the value written, where its chapter does not refuse it. -/
theorem fld_plainIf_rw (s : Dev) {f : Fld} {g : FieldInfo} {v i j k : Nat} {ill : FieldInfo → Bool}
    (hg : g ∈ f.reg.info.fields ∧ g.hi = f.hi ∧ g.lo = f.lo) (hr : f.reg.HasCopy i j k)
    (hm : f.reg.info.blk.misuse.HasCopy (f.reg.info.blk.pageOf i) 0 0) (hne : f.reg ≠ f.reg.info.blk.misuse) (hacc : g.acc = .rw)
    (hlegal : g.legal.ok (bits v f.hi f.lo) = true) (hill : ill g = false) :
    (s.plainIf ill f.reg v i j k).fld f i j k = bits v f.hi f.lo := by
  rw [fld_plainIf s ill hg hr hm hne]
  simp [FieldInfo.write, hacc, hlegal, hill]

end Dev

end Sys2Proof.Machine
end

section
/-! O1 and O2: commands run one after the other, and each of them runs. -/

namespace Sys2Proof.Machine

theorem step_front {s : State} {c : Instr} {rest : List Instr} (h : s.pending = c :: rest) : step s = exec c { s with pending := rest } := by
  unfold step
  rw [h]

/-- Settles O1: the queue decides between the front command and a tick. -/
theorem stepRunsTheFrontCommand : Obligations.StepRunsTheFrontCommand := ⟨fun _ _ _ => step_front, fun _ => step_idle⟩

/-- A command is a change of the device: every arm of `exec` is `State.on` of an operation. -/
theorem exec_changesDevice (i : Instr) (s : State) : ∃ d, exec i s = .next (s.withDev d) := by
  cases i <;> exact ⟨_, rfl⟩

theorem exec_runs (i : Instr) (s : State) : ∃ t, exec i s = .next t ∧ t.pending = s.pending := by
  obtain ⟨d, hexec⟩ := exec_changesDevice i s
  exact ⟨s.withDev d, hexec, s.withDev_pending d⟩

/-- Settles O2: a command changes the device alone, so the commands that wait stay, and a step takes the front one away. -/
theorem everyCommandRuns : Obligations.EveryCommandRuns := by
  refine ⟨exec_runs, fun s => ?_⟩
  cases hqueue : s.pending with
  | nil => exact ⟨_, step_idle hqueue, hqueue⟩
  | cons c rest =>
    rw [step_front hqueue]
    exact exec_runs c { s with pending := rest }

end Sys2Proof.Machine
end

section
/-! O3: the state after reset (R490, R492). -/

namespace Sys2Proof.Machine

namespace Dev

theorem reset_canonical : Dev.reset.canonical = true := rfl

theorem reset_byte (a : Nat) : Dev.reset.byte a = 0#8 := rfl

theorem reset_regWord (off : Nat) : Dev.reset.regWord off = resetAt off := rfl

theorem reset_rinkOff (n : Nat) : Dev.reset.rinkOn n = false := by
  have hdomains : Dev.reset.reg .PWR_DOM_STAT = 0 := rfl
  unfold rinkOn
  rw [hdomains]
  simp [Machine.bit]

/-- No context runs: neither the rinks nor Patrol are on. -/
theorem reset_alive (c : Nat) : Dev.reset.alive c = false := by
  unfold alive
  split
  · rfl
  · simp [reset_rinkOff]

end Dev

/-- Settles O3: the device at reset is the initial one with a POR started on it. -/
theorem resetState : Obligations.ResetState :=
  ⟨rfl, rfl, rfl, rfl, rfl, rfl, rfl, Dev.reset_canonical, Dev.reset_byte, Dev.reset_alive, Dev.reset_regWord⟩

end Sys2Proof.Machine
end

section
/-! O34 and O36: the resets of the device by precedence, of a rink and of a port, and the end of a reset (R490, R491, R531, R109, R221, R527). -/

namespace Sys2Proof.Machine

namespace Dev

variable {s : Dev} {q : ResetKind} {cause : Nat}

/-! ### The reset controller (R491) -/

theorem startReset_over {r : ResetKind} (h : s.sys.resetRun = some r) : s.startReset q cause = if r.rank < q.rank then s.deviceReset q cause else s := by
  unfold startReset
  rw [h]

theorem startReset_free (h : s.sys.resetRun = none) (hq : s.sys.lockdown = false ∨ ResetKind.TAMP.rank ≤ q.rank) :
    s.startReset q cause = s.deviceReset q cause := by
  unfold startReset
  rw [h]
  obtain hopen | hrank := hq
  · simp [hopen]
  · simp [Nat.not_lt.mpr hrank]

/-- The two highest resets start unless one of equal or higher precedence runs. -/
theorem startReset_unless (hq : ResetKind.TAMP.rank ≤ q.rank) :
    s.startReset q cause = if ∃ r, s.sys.resetRun = some r ∧ q.rank ≤ r.rank then s else s.deviceReset q cause := by
  cases h : s.sys.resetRun with
  | none => rw [startReset_free h (.inr hq), if_neg (by simp)]
  | some r =>
    rw [startReset_over h]
    by_cases hr : r.rank < q.rank
    · rw [if_pos hr, if_neg (by simpa using hr)]
    · rw [if_neg hr, if_pos ⟨r, rfl, Nat.le_of_not_lt hr⟩]

theorem absorbed_by_POR (run : Option ResetKind) : (∃ r, run = some r ∧ ResetKind.POR.rank ≤ r.rank) ↔ run = some .POR := by
  constructor
  · rintro ⟨r, rfl, hr⟩
    cases r <;> simp [ResetKind.rank] at hr ⊢
  · rintro rfl
    exact ⟨_, rfl, Nat.le_refl _⟩

theorem absorbed_by_PIN (run : Option ResetKind) : (∃ r, run = some r ∧ ResetKind.PIN.rank ≤ r.rank) ↔ run = some .POR ∨ run = some .PIN := by
  constructor
  · rintro ⟨r, rfl, hr⟩
    cases r <;> simp [ResetKind.rank] at hr ⊢
  · rintro (rfl | rfl) <;> exact ⟨_, rfl, by decide⟩

/-! ### The loss of power (R531) -/

/-- A programming of the OTP meets a loss of power, and a free value says whether it is cut short. -/
theorem otpCut_programming (h : s.vlt.otp.prog ≠ .none) :
    s.otpCut = if bit (Config.free s.freeCnt) 8 = true
      then s.fresh.2.updVlt fun v => { v with otp := v.otp.cut (Config.free s.freeCnt % 256) } else s.fresh.2 := by
  unfold otpCut
  split
  case h_1 hnone => exact absurd hnone h
  case h_2 => rfl

theorem otpCut_sys : s.otpCut.sys = s.sys := by
  by_cases h : s.vlt.otp.prog = .none
  · unfold otpCut
    rw [h]
  · rw [otpCut_programming h]
    split <;> rfl

theorem otpCut_eq : s.otpCut = if s.vlt.otp.prog = .none then s
    else if bit (Config.free s.freeCnt) 8 = true
      then s.fresh.2.updVlt fun v => { v with otp := v.otp.cut (Config.free s.freeCnt % 256) } else s.fresh.2 := by
  by_cases h : s.vlt.otp.prog = .none
  · rw [if_pos h]
    unfold otpCut
    rw [h]
  · rw [if_neg h, otpCut_programming h]

theorem powerLoss_eq : s.powerLoss = if s.sys.resetRun = some .POR then s.otpCut else s.otpCut.deviceReset .POR 0 := by
  unfold powerLoss
  rw [startReset_unless (by decide), otpCut_sys]
  simp only [absorbed_by_POR]

theorem pinReset_eq : s.startReset .PIN 0 = if s.sys.resetRun = some .POR ∨ s.sys.resetRun = some .PIN then s else s.deviceReset .PIN 0 := by
  rw [startReset_unless (by decide)]
  simp only [absorbed_by_PIN]

/-! ### The reset that Patrol asks for -/

section
variable {who : Agent}

/-- A write of a register that is no word of a pair reaches its block. -/
theorem rowWrite_single {r : Reg} {i j : Nat} (hr : r.single = true) (h : s.reaches who r i j true) (v : Nat) :
    s.rowWrite who r v i j = s.regStore r i j 0 who.mid who.ctx v := by rw [rowWrite_reaches h, copyStore_single _ hr]

theorem rowWrite_softReset (h : s.reaches who .SYS_RESET 0 0 true) (v : Nat) :
    s.rowWrite who .SYS_RESET v = if who.mid ≠ 0x40 ∨ v ≠ 0xA5C3 then s.count .SYS_MISUSE_CNT else s.startReset .SOFT 1 :=
  rowWrite_single rfl h v

/-- Whatever reset of the device runs absorbs a SOFT reset. -/
theorem softReset_absorbed (h : s.sys.resetRun ∈ [some ResetKind.POR, some .PIN, some .TAMP, some .WDOG, some .SOFT]) :
    s.startReset .SOFT 1 = s := by
  simp only [List.mem_cons, List.not_mem_nil, or_false] at h
  obtain h | h | h | h | h := h <;> rw [startReset_over h, if_neg (by decide)]

/-! ### A rink (R109, R527) -/

theorem rinkRstRow_reaches (h : s.reaches who .SYS_RINK_RST 0 0 true) (v fails : Nat) :
    s.rinkRstRow who v fails = s.rinkReset who.mid v fails := by
  unfold rinkRstRow
  rw [settled_quiet h.2.2]
  simp only [rowGate_reaches h]

theorem rinkReset_refused {mid v fails : Nat} (h : s.rinkOn (v % 8) = false ∨ s.inRinkReset (v % 8) = true ∨ s.sys.bootMode ≠ .done) :
    s.rinkReset mid v fails = s.count .SYS_MISUSE_CNT := by
  unfold rinkReset
  refine if_pos (.inr ?_)
  simpa using h

theorem rinkReset_starts {n fails : Nat} (hn : n < 8) (hon : s.rinkOn n = true) (hrun : s.inRinkReset n = false) (hboot : s.sys.bootMode = .done) :
    s.rinkReset 0x40 n fails = s.rinkResetStart n fails := by
  unfold rinkReset
  dsimp only
  rw [Nat.mod_eq_of_lt hn, if_neg (by simp [hon, hrun, hboot]), if_pos (by omega)]

theorem rinkResetEnd_passes {n : Nat} {timeout : Bool} (hrun : s.inRinkReset n = true) (hpass : s.rinkPasses n = true)
    (hseq : s.boot.rinkSeq.get n = []) : s.rinkResetEnd n timeout =
      (let d := (s.updSys fun x => { x with rinkRst := putBit x.rinkRst n false }).updBoot fun b => { b with rinkSeq := b.rinkSeq.set n [] }
       (((d.zeroImem n).loadRink n d.fwCopies 0).setFlag .RNK_STATUS_READY true n).rinkStart n) := by
  unfold rinkResetEnd
  simp [hrun, hpass, hseq]

/-! ### A port (R221) -/

theorem rowWrite_portReset {n : Nat} (h : s.reaches who .MAC_CTRL n 0 true) (hboot : s.sys.bootMode = .done)
    (hidle : s.flag .MAC_CTRL_RESET n = false) : s.rowWrite who .MAC_CTRL 1 n = (s.plain .MAC_CTRL 1 n).portReset n := by
  have hset : bit 1 0 = true := rfl
  have hstore : s.rowWrite who .MAC_CTRL 1 n = s.macWriteAll .MAC_CTRL n 0 1 := rowWrite_single rfl h 1
  rw [hstore]
  unfold macWriteAll macWrite
  simp [hboot, hidle, hset]

end

/-- A RESET bit that clears is none of the settings by which a MAC is bound. -/
theorem traverse_setReset (b : Bool) {n : Nat} (hn : n < 28) : (s.setFlag .MAC_CTRL_RESET b n).traverse n = s.traverse n := by
  have hbase : travBase n < 28 := Nat.lt_of_le_of_lt (Nat.sub_le ..) hn
  unfold traverse
  rw [setFlag, flag_setFld_of_apart s (Reg.hasCopy_row rfl hbase) (Reg.hasCopy_row rfl hn) (by decide)]

theorem portResetEnd_eq {n : Nat} (hn : n < 28) : s.portResetEnd n =
    ((s.setFlag .MAC_CTRL_RESET false n).setFlag .MAC_STATUS_TRAV_ACTIVE ((s.setFlag .MAC_CTRL_RESET false n).traverse n) n).updSys
      fun x => { x with portRst := putBit x.portRst n false } := by
  rw [traverse_setReset false hn]
  rfl

/-! ### The end of a reset (R43, R44, R490) -/

theorem resetEnd_eq {code sel : Nat} {rank : Bool} (hrun : s.sys.resetRun = some q)
    (hq : (q, code) ∈ [(ResetKind.POR, 0), (.PIN, 1), (.WDOG, 2), (.SOFT, 3)]) : s.resetEnd sel rank =
      (let d := s.updSys fun x => { x with resetRun := none }
       let d := if q = .POR ∨ q = .PIN then (d.latchStraps sel rank).leaveLockdown else d
       ((d.setFld .SYS_RESET_CAUSE_CAUSE code).setFld .PAT_STATUS_CAUSE d.sys.wdogCause).bootPhase0) := by
  simp only [List.mem_cons, Prod.mk.injEq, List.not_mem_nil, or_false] at hq
  obtain ⟨rfl, rfl⟩ | ⟨rfl, rfl⟩ | ⟨rfl, rfl⟩ | ⟨rfl, rfl⟩ := hq <;> (unfold resetEnd; rw [hrun]; rfl)

end Dev

/-- Settles O34: the reset controller compares precedences, and SOFT_RESET goes through Patrol's right and key first. -/
theorem resetsStartByPrecedence : Obligations.ResetsStartByPrecedence := by
  intro s run
  have hpin : exec .pinReset s = .next (s.withDev (s.dev.startReset .PIN 0)) := rfl
  refine ⟨?power, fun hpor hrun => ?pinStarts, fun hrun => ?pinAbsorbed, fun who v hreach => ?soft⟩
  case power =>
    intro cut d
    have hcut : d = s.dev.otpCut := Dev.otpCut_eq.symm
    rw [hcut]
    exact next_congr Dev.powerLoss_eq
  case pinStarts => rw [hpin, Dev.pinReset_eq, if_neg (not_or.mpr ⟨hpor, hrun⟩)]
  case pinAbsorbed =>
    rw [hpin, Dev.pinReset_eq, if_pos hrun]
    rfl
  case soft =>
    have hsoft : exec (.softReset who v) s = .next (s.withDev (s.dev.rowWrite who .SYS_RESET v.toNat)) := rfl
    rw [Dev.rowWrite_softReset hreach] at hsoft
    have hkey : v.toNat = 0xA5C3 ↔ v = 0xA5C3#32 := ⟨fun h => BitVec.eq_of_toNat_eq h, fun h => by rw [h]; rfl⟩
    refine ⟨fun hmid hv hfree hopen => ?_, fun hmid hv habsorb => ?_, fun hrefused => ?_⟩
    · rw [hsoft, if_neg (by simp [hmid, hkey.mpr hv]), Dev.startReset_free hfree (.inl hopen)]
    · rw [hsoft, if_neg (by simp [hmid, hkey.mpr hv]), Dev.softReset_absorbed habsorb]
      rfl
    · rw [hsoft, if_pos (hrefused.imp_right fun hv h => hv (hkey.mp h))]

/-- Settles O36: each row reaches the reset's own operation, whose condition is the row's. -/
theorem rinkPortAndEndOfReset : Obligations.RinkPortAndEndOfReset := by
  refine ⟨fun who n fails s hreach hmid => ?rink, fun n timeout s hrun hpass hseq => next_congr (Dev.rinkResetEnd_passes hrun hpass hseq),
    fun who n s hreach hboot hidle => next_congr (Dev.rowWrite_portReset hreach hboot hidle), fun n s => next_congr (Dev.portResetEnd_eq n.isLt),
    fun sel rank s q code hrun hq => next_congr (Dev.resetEnd_eq hrun hq)⟩
  case rink =>
    intro d
    have hn : (BitVec.ofNat 32 n).toNat = n := by simp; omega
    have hexec : exec (.rinkReset who (BitVec.ofNat 32 n) fails) s = .next (s.withDev (d.rinkReset who.mid n fails.toNat)) := by
      refine next_congr ((Dev.rinkRstRow_reaches hreach _ _).trans ?_)
      rw [hn]
    rw [hexec]
    refine ⟨fun hon hrun hboot => ?_, fun hrefused => ?_⟩
    · rw [hmid, Dev.rinkReset_starts n.isLt hon hrun hboot]
    · rw [Dev.rinkReset_refused (by rwa [Nat.mod_eq_of_lt n.isLt])]

end Sys2Proof.Machine
end

section
/-! Rules for the Slalom controller (R302 to R325): what its changes of state keep, and what a cycle's start and its own frames make of it. -/

namespace Sys2Proof.Machine

theorem bits_one (v i : Nat) : bits v i i = b2n (bit v i) := by
  unfold bits bit b2n
  rw [Nat.add_sub_cancel_left, Nat.pow_one]
  obtain h | h := Nat.mod_two_eq_zero_or_one (v / 2 ^ i) <;> simp [h]

theorem putBits_bits {hi lo : Nat} (h : lo ≤ hi) (w : Nat) : putBits w hi lo (bits w hi lo) = w := by
  apply Nat.eq_of_testBit_eq
  intro i
  rw [testBit_putBits h]
  split
  · next hi' =>
    rw [testBit_bits, Nat.add_sub_cancel' hi'.1]
    simp only [Bool.and_eq_right_iff_imp, decide_eq_true_eq]
    omega
  · rfl

/-- What the controller keeps of its cycles in LISTEN and OFF: nothing but what its buffers and pick-ups count. -/
def SlmSt.stopped (x : SlmSt) : SlmSt :=
  { x.newCycle with own := false, full := false, low := 0, prevOk := false, acc := [], accPrev := [], picks := [] }

/-- The record of a cycle on bank `b` that ends as the next one starts at `c`. -/
def SlmSt.followed (x : SlmSt) (b c : Nat) (own : Bool) : SlmSt :=
  { x.newCycle with prevOk := true, prevStart := x.start, prevBank := b, accPrev := x.acc, acc := [], full := true, own := own, start := c }

namespace Dev
variable {s t u : Dev}

/-- A field that is written with what it holds leaves every register. -/
theorem RegsBut.setFld_self {l : List Reg} (s : Dev) (f : Fld) (h : f.lo ≤ f.hi) (i j k : Nat) : RegsBut l (s.setFld f (s.fld f i j k) i j k) s := by
  refine ⟨fun q a b c _ _ => ?_⟩
  by_cases haddr : q.addr a b c = f.reg.addr i j k
  · unfold Dev.setFld Dev.fld Dev.reg Dev.setReg
    rw [haddr, putBits_bits h, Dev.regWord_setRegWord, if_pos rfl, word_of_toNat]
  · exact (s.reg_setFld_other haddr _).symm

/-- A register that the list leaves out aside, the Slalom controller and memory stand in `t` as they do in `s`. -/
structure SlmKept (l : List Reg) (s t : Dev) : Prop where
  regs : RegsBut l s t
  slm : t.slm = s.slm
  mem : t.mem = s.mem

namespace SlmKept
variable {l : List Reg}

theorem refl (s : Dev) : SlmKept l s s := ⟨.refl s, rfl, rfl⟩

section
variable (h : SlmKept l s t)
include h

theorem trans (g : SlmKept l t u) : SlmKept l s u := ⟨h.regs.trans g.regs, g.slm.trans h.slm, g.mem.trans h.mem⟩

theorem mono {m : List Reg} (hlm : l ⊆ m) : SlmKept m s t := ⟨h.regs.mono hlm, h.slm, h.mem⟩

theorem setFld {f : Fld} {v i j k : Nat} (hf : f.reg.HasCopy i j k) (hl : f.reg ∈ l) : SlmKept l s (t.setFld f v i j k) :=
  ⟨h.regs.setFld hf hl, h.slm, h.mem⟩

theorem setReg {r : Reg} {v i j k : Nat} (hr : r.HasCopy i j k) (hl : r ∈ l) : SlmKept l s (t.setReg r v i j k) :=
  ⟨h.regs.setReg hr hl, h.slm, h.mem⟩

theorem count {r : Reg} {i j k : Nat} (hr : r.HasCopy i j k) (hl : r ∈ l) : SlmKept l s (t.count r i j k) := ⟨h.regs.count hr hl, h.slm, h.mem⟩

end

theorem ringMask {n mask : Nat} (hn : n < 32) (s : Dev) : SlmKept bellRegs s (s.ringMask n mask) :=
  ⟨(RegsBut.refl s).ringMask hn (List.Subset.refl _), by rw [ringMask_frame], ringMask_mem ..⟩

theorem ite {c : Prop} [Decidable c] (ht : SlmKept l s t) (hu : SlmKept l s u) : SlmKept l s (if c then t else u) := by
  split <;> assumption

theorem each {α : Type} {as : List α} {f : α → Dev → Dev} (hf : ∀ a ∈ as, ∀ t, SlmKept l t (f a t)) (s : Dev) : SlmKept l s (s.each as f) :=
  each_keeps (P := SlmKept l s) (fun a ha t ht => ht.trans (hf a ha t)) s (.refl s)

/-- The tasks are no part of the Slalom controller. -/
theorem updTask (s : Dev) (n : Nat) (f : TaskSt → TaskSt) : SlmKept l s (s.updTask n f) := ⟨.of_regs rfl, rfl, rfl⟩

end SlmKept

/-! ### Tasks that follow the controller -/

theorem ctlSlalom_kept (s : Dev) (num c : Nat) : SlmKept [] s (s.ctlSlalom num c) := .each (fun _ _ t => .ite (.updTask t ..) (.refl t)) s

theorem ctlRelock_kept (s : Dev) : SlmKept [] s s.ctlRelock := .each (fun _ _ t => .ite (.updTask t ..) (.refl t)) s

theorem tasksCoast_kept (s : Dev) : SlmKept [] s s.tasksCoast := .each (fun _ _ t => .ite (.updTask t ..) (.refl t)) s

/-! ### A change of state (R315) -/

theorem slmBell_kept (s : Dev) (f : Fld) :
    SlmKept bellRegs s (s.when (s.flag f) fun s => s.ringMask (s.fld .SLM_DB_TARGET) (2 ^ s.fld .SLM_DB_BIT)) := by
  unfold Dev.when
  exact .ite (.ringMask (s.fld_lt .SLM_DB_TARGET ..) s) (.refl s)

/-- The state aside, a change of state rings at most. -/
theorem slmGo_kept (s : Dev) (st : Nat) : SlmKept bellRegs (s.setFld .SLM_STATUS_STATE st) (s.slmGo st) := by
  unfold slmGo
  extract_lets old ran u v
  split
  · next hsame =>
    refine ⟨?_, rfl, rfl⟩
    rw [← hsame]
    exact .setFld_self s .SLM_STATUS_STATE (by decide) 0 0 0
  · have hbell : SlmKept bellRegs u v := slmBell_kept u .SLM_DB_EV_STATE
    exact .ite (hbell.trans ((ctlRelock_kept v).mono (by simp))) (.ite (hbell.trans ((tasksCoast_kept v).mono (by simp))) hbell)

theorem slmGo_state (s : Dev) {st : Nat} (hst : st < 8) : (s.slmGo st).slmState = st := by
  unfold slmState
  rw [(slmGo_kept s st).regs.fld (Reg.hasCopy_alone rfl) (by decide), fld_setFld_of_fits s (by decide) hst]

@[simp] theorem slmGo_slm (s : Dev) (st : Nat) : (s.slmGo st).slm = s.slm := (slmGo_kept s st).slm

@[simp] theorem slmGo_mem (s : Dev) (st : Nat) : (s.slmGo st).mem = s.mem := (slmGo_kept s st).mem

theorem slmGo_regs (s : Dev) (st : Nat) : RegsBut (.SLM_STATUS :: bellRegs) s (s.slmGo st) :=
  ((RegsBut.refl s).setFld (Reg.hasCopy_alone rfl) (by decide)).trans ((slmGo_kept s st).regs.mono (by simp))

/-- The other fields of SLM_STATUS stay through a change of state. -/
theorem slmGo_fld (s : Dev) (st : Nat) {f : Fld} (hreg : f.reg = .SLM_STATUS) (hlo : 2 < f.lo) : (s.slmGo st).fld f = s.fld f := by
  rw [(slmGo_kept s st).regs.fld (hreg ▸ Reg.hasCopy_alone rfl) (by rw [hreg]; decide),
    fld_setFld_of_beside s (by decide) (hreg.trans rfl) (.inr hlo)]

/-! ### An armed bank (R323) -/

theorem slmArmNow_kept (s : Dev) : SlmKept [.SLM_STATUS] s s.slmArmNow :=
  .ite (((SlmKept.refl s).setFld (Reg.hasCopy_alone rfl) (by decide)).setFld (Reg.hasCopy_alone rfl) (by decide)) (.refl s)

/-- Fields of SLM_STATUS but OPER_BANK and PENDING stay when an armed bank operates. -/
theorem slmArmNow_fld (s : Dev) {f : Fld} (hreg : f.reg = .SLM_STATUS) (hbits : f.hi < 3 ∨ 4 < f.lo) : s.slmArmNow.fld f = s.fld f := by
  have hpend : f.hi < 4 ∨ 4 < f.lo := hbits.imp_left fun h => h.trans (by decide)
  have hbank : f.hi < 3 ∨ 3 < f.lo := hbits.imp_right fun h => Nat.lt_of_succ_lt h
  unfold slmArmNow
  split
  · rw [setFlag, fld_setFld_of_beside _ (by decide) (hreg.trans rfl) hpend, fld_setFld_of_beside _ (by decide) (hreg.trans rfl) hbank]
  · rfl

theorem slmArmNow_of_pending (h : s.flag .SLM_STATUS_PENDING = true) :
    s.slmArmNow = (s.setFld .SLM_STATUS_OPER_BANK (1 - s.slmBank)).setFlag .SLM_STATUS_PENDING false := if_pos h

/-! ### The end of the part in the cycles (R315, R320) -/

theorem slmStop_eq (s : Dev) (st : Nat) : s.slmStop st = ((s.updSlm SlmSt.stopped).slmGo st).slmArmNow := rfl

@[simp] theorem slmStop_slm (s : Dev) (st : Nat) : (s.slmStop st).slm = s.slm.stopped := by
  rw [slmStop_eq, (slmArmNow_kept _).slm, slmGo_slm, updSlm_slm]

@[simp] theorem slmStop_mem (s : Dev) (st : Nat) : (s.slmStop st).mem = s.mem := by rw [slmStop_eq, (slmArmNow_kept _).mem, slmGo_mem, updSlm_mem]

theorem slmStop_regs (s : Dev) (st : Nat) : RegsBut (.SLM_STATUS :: bellRegs) s (s.slmStop st) :=
  ((RegsBut.of_regs rfl : RegsBut _ s (s.updSlm SlmSt.stopped)).trans (slmGo_regs _ st)).trans ((slmArmNow_kept _).regs.mono (by simp))

theorem slmStop_state (s : Dev) {st : Nat} (hst : st < 8) : (s.slmStop st).slmState = st :=
  (slmArmNow_fld _ rfl (.inl (by decide))).trans (slmGo_state _ hst)

/-- MUTE_CAUSE, ATTEMPT and CYCLE stay through the stop. -/
theorem slmStop_fld (s : Dev) (st : Nat) {f : Fld} (hreg : f.reg = .SLM_STATUS) (hlo : 4 < f.lo) : (s.slmStop st).fld f = s.fld f :=
  (slmArmNow_fld _ hreg (.inr hlo)).trans ((slmGo_fld _ st hreg (by omega)).trans (fld_congr rfl ..))

/-! ### Mute (R320) -/

theorem slmMute_state (s : Dev) (cause : Nat) : (s.slmMute cause).slmState = slmListen := slmStop_state _ (by decide)

theorem slmMute_slm (s : Dev) (cause : Nat) : (s.slmMute cause).slm = s.slm.stopped := slmStop_slm ..

theorem slmMute_cause (s : Dev) {cause : Nat} (h : cause < 4) : (s.slmMute cause).fld .SLM_STATUS_MUTE_CAUSE = cause := by
  unfold slmMute
  rw [slmStop_fld _ _ rfl (by decide), fld_setFld_of_fits _ (by decide) h]

theorem slmMute_counted (s : Dev) (cause : Nat) : (s.slmMute cause).reg .SLM_MUTE_CNT = min (s.reg .SLM_MUTE_CNT + 1) 0xFFFFFFFF := by
  unfold slmMute
  rw [(slmStop_regs ..).reg _ _ _ _ (Reg.hasCopy_alone rfl) (by decide),
    reg_setFld_of_apart _ (Reg.hasCopy_alone rfl) (Reg.hasCopy_alone rfl) (by decide), reg_count_same]

theorem slmMute_regs (s : Dev) (cause : Nat) : RegsBut (.SLM_MUTE_CNT :: .SLM_STATUS :: bellRegs) s (s.slmMute cause) :=
  (((RegsBut.refl s).count (Reg.hasCopy_alone rfl) (by decide)).setFld (Reg.hasCopy_alone rfl) (by decide)).trans
    ((slmStop_regs ..).mono (by simp))

/-! ### A cycle starts (R304, R323) -/

theorem slmBegin_kept (s : Dev) (num c : Nat) : SlmKept [] (((s.updSlm fun x => { x.newCycle with start := c }).setFld .SLM_STATUS_CYCLE num).setReg
    .SLM_CSTART (c / 256)) (s.slmBegin num c) := ctlSlalom_kept ..

@[simp] theorem slmBegin_slm (s : Dev) (num c : Nat) : (s.slmBegin num c).slm = { s.slm.newCycle with start := c } := (slmBegin_kept ..).slm

theorem slmBegin_cycle (s : Dev) {num : Nat} (h : num < 65536) (c : Nat) : (s.slmBegin num c).slmCycle = num := by
  unfold slmCycle
  rw [(slmBegin_kept ..).regs.fld (Reg.hasCopy_alone rfl) (by decide),
    fld_setReg_of_apart _ (Reg.hasCopy_alone rfl) (Reg.hasCopy_alone rfl) (by decide), fld_setFld_of_fits _ (by decide) h]

/-- The fields of SLM_STATUS below CYCLE stay when a cycle starts. -/
theorem slmBegin_fld (s : Dev) (num c : Nat) {f : Fld} (hreg : f.reg = .SLM_STATUS) (hhi : f.hi < 16) : (s.slmBegin num c).fld f = s.fld f := by
  have hcopy : f.reg.HasCopy 0 0 0 := hreg ▸ Reg.hasCopy_alone rfl
  rw [(slmBegin_kept ..).regs.fld hcopy (by simp), fld_setReg_of_apart _ hcopy (Reg.hasCopy_alone rfl) (by rw [hreg]; decide),
    fld_setFld_of_beside _ (by decide) (hreg.trans rfl) (.inl hhi)]
  exact fld_congr rfl ..

section
variable (s : Dev)

/-- The bank of the next cycle: the armed one where the switch is due (R323). -/
def nextBank : Nat := if s.flag .SLM_STATUS_PENDING = true ∧ s.slm.swAt = (s.slmCycle + 1) % 65536 then 1 - s.slmBank else s.slmBank

/-- The device whose next cycle starts, with the switch made where it is due. -/
def bankSwitched : Dev :=
  if s.flag .SLM_STATUS_PENDING && s.slm.swAt == (s.slmCycle + 1) % 65536 then
    (s.setFld .SLM_STATUS_OPER_BANK (1 - s.slmBank)).setFlag .SLM_STATUS_PENDING false
  else s

theorem bankSwitched_slm : s.bankSwitched.slm = s.slm := by
  unfold bankSwitched
  split <;> rfl

theorem bankSwitched_state : s.bankSwitched.slmState = s.slmState := by
  unfold bankSwitched slmState
  split
  · simp +decide [setFlag]
  · rfl

theorem slmBank_lt : s.slmBank < 2 := s.fld_lt .SLM_STATUS_OPER_BANK ..

theorem bankSwitched_bank : s.bankSwitched.slmBank = s.nextBank := by
  have hbank : 1 - s.slmBank < 2 := by omega
  unfold bankSwitched nextBank
  by_cases hdue : s.flag .SLM_STATUS_PENDING = true ∧ s.slm.swAt = (s.slmCycle + 1) % 65536
  · rw [if_pos hdue, if_pos (by simpa using hdue), slmBank]
    rw [setFlag, fld_setFld_of_beside _ (by decide) (by decide) (by decide), fld_setFld_of_fits s (by decide) hbank]
  · rw [if_neg hdue, if_neg (by simpa using hdue)]

/-- One cycle start: the record of the cycle that ends becomes that of the previous one. -/
theorem slmNext_slm : ∃ own, s.slmNext.slm = s.slm.followed s.slmBank ((s.slm.start + s.bankLen s.slmBank) % 2 ^ 40) own := by
  unfold slmNext
  extract_lets b c num u v w
  have hv : v.slm = u.slm := bankSwitched_slm u
  have hw : ∃ own, w.slm = { u.slm with own := own } := by
    unfold w
    split
    · exact ⟨true, by rw [updSlm_slm, hv]⟩
    · exact ⟨_, hv⟩
  obtain ⟨own, hw⟩ := hw
  exact ⟨own, by rw [slmBegin_slm, hw]; rfl⟩

theorem slmNext_cycle : s.slmNext.slmCycle = (s.slmCycle + 1) % 65536 := slmBegin_cycle _ (Nat.mod_lt _ (by decide)) _

/-- STATE and OPER_BANK of the next cycle. -/
theorem slmNext_status : s.slmNext.slmState = s.slmState ∧ s.slmNext.slmBank = s.nextBank := by
  unfold slmNext
  extract_lets b c num u v w
  have hw : w.regs = v.regs := by
    unfold w
    split <;> rfl
  refine ⟨?_, ?_⟩
  · exact (slmBegin_fld w num c rfl (by decide)).trans ((fld_congr hw ..).trans (bankSwitched_state u))
  · exact (slmBegin_fld w num c rfl (by decide)).trans ((fld_congr hw ..).trans (bankSwitched_bank u))

end

/-! ### The end of a cycle (R320, R325) -/

/-- An ACTIVE device has had too few nodes in as many cycles as LOSS_CYCLES says, the ending one included (R320). -/
def Mutes (s : Dev) : Prop :=
  s.slmState = slmActive ∧ s.slm.nodes.length < s.fld .SLM_SYNC_MIN_FRAMES ∧ s.fld .SLM_SYNC_LOSS_CYCLES ≤ s.slm.low + 1

theorem slmFew_iff : s.slmFew = true ↔ s.slm.nodes.length < s.fld .SLM_SYNC_MIN_FRAMES := by simp [slmFew]

/-- What the end of a cycle shows. -/
def cycleShown (s : Dev) : Dev := s.setFld .SLM_SYNC_STAT_SEEN (min 63 s.slm.nodes.length)

theorem cycleShown_state : s.cycleShown.slmState = s.slmState :=
  fld_setFld_of_apart s (Reg.hasCopy_alone rfl) (Reg.hasCopy_alone rfl) (by decide) _

theorem cycleShown_loss : s.cycleShown.fld .SLM_SYNC_LOSS_CYCLES = s.fld .SLM_SYNC_LOSS_CYCLES :=
  fld_setFld_of_apart s (Reg.hasCopy_alone rfl) (Reg.hasCopy_alone rfl) (by decide) _

theorem slmCycleEnd_mutes (h : s.Mutes) : s.slmCycleEnd = (s.cycleShown.updSlm fun x => { x with low := s.slm.low + 1 }).slmMute 2 := by
  obtain ⟨hactive, hfew, hloss⟩ := h
  replace hfew : s.slmFew = true := slmFew_iff.mpr hfew
  have hloss' : (s.cycleShown.updSlm fun x => { x with low := s.slm.low + 1 }).fld .SLM_SYNC_LOSS_CYCLES ≤ s.slm.low + 1 :=
    (cycleShown_loss (s := s)).le.trans hloss
  unfold slmCycleEnd
  extract_lets few shown low u
  have hshown : shown.slmState = slmActive := cycleShown_state.trans hactive
  rw [if_neg (not_not.mpr hshown)]
  have hlow : low = s.slm.low + 1 := if_pos hfew
  unfold u
  rw [hlow]
  exact if_pos ⟨hfew, hloss'⟩

theorem slmCycleEnd_goes_on (h : ¬ s.Mutes) : ∃ low, s.slmCycleEnd = s.cycleShown.updSlm fun x => { x with low := low } := by
  unfold slmCycleEnd
  extract_lets few shown low u
  by_cases hactive : s.slmState = slmActive
  · have hshown : shown.slmState = slmActive := cycleShown_state.trans hactive
    rw [if_neg (not_not.mpr hshown)]
    refine ⟨low, if_neg fun ⟨hfew, hloss⟩ => h ⟨hactive, slmFew_iff.mp hfew, ?_⟩⟩
    have hlow : low = s.slm.low + 1 := if_pos hfew
    rw [hlow] at hloss
    exact (cycleShown_loss (s := s)).ge.trans hloss
  · exact ⟨s.slm.low, if_pos fun hshown => hactive (cycleShown_state.symm.trans hshown)⟩

theorem slmRuns_iff : s.slmRuns = true ↔ 2 ≤ s.slmState ∧ s.slmState ≤ 4 := by simp [slmRuns, slmState]

section
variable (hruns : s.slmRuns = true) (hon : s.domOn .swc = true) (hsynced : s.slm.synced = true)
  (hcome : come ((s.slm.start + s.bankLen s.slmBank) % 2 ^ 40) s.slmNow = true)
include hruns hon hsynced hcome

theorem slmCycleStart_due : s.slmCycleStart = if s.slmCycleEnd.slmRuns = true then s.slmCycleEnd.slmNext else s.slmCycleEnd := by
  unfold slmCycleStart
  rw [if_neg (by rw [hruns, hon, hcome]; decide)]
  simp only [hsynced, hruns, if_true]

theorem slmCycleStart_mutes (h : s.Mutes) : s.slmCycleStart = (s.cycleShown.updSlm fun x => { x with low := s.slm.low + 1 }).slmMute 2 := by
  have hend := slmCycleEnd_mutes h
  rw [slmCycleStart_due hruns hon hsynced hcome, hend, if_neg]
  rw [slmRuns_iff, slmMute_state]
  decide

theorem slmCycleStart_next (h : ¬ s.Mutes) : ∃ low, s.slmCycleStart = (s.cycleShown.updSlm fun x => { x with low := low }).slmNext := by
  obtain ⟨low, hend⟩ := slmCycleEnd_goes_on h
  refine ⟨low, ?_⟩
  rw [slmCycleStart_due hruns hon hsynced hcome, hend, if_pos]
  rw [slmRuns_iff] at hruns ⊢
  have hstate : (s.cycleShown.updSlm fun x => { x with low := low }).slmState = s.slmState := (fld_congr rfl ..).trans cycleShown_state
  rwa [hstate]

end

end Dev

end Sys2Proof.Machine
end

section
/-! The fault-tolerant mean (R313): of a sorted list, the middle without the `k` largest and smallest holds no value beyond the good ones where at most
`k` are faulty, as one beyond would have `k` others beyond it. -/

namespace Sys2Proof.Machine

theorem insInt_eq (x : Int) (l : List Int) : insInt x l = List.orderedInsert (· ≤ ·) x l := by
  induction l with
  | nil => rfl
  | cons y t ih => simp [insInt, ih]

theorem foldr_insInt (l : List Int) : l.foldr insInt [] = List.insertionSort (· ≤ ·) l := by
  induction l with
  | nil => rfl
  | cons x t ih => rw [List.foldr_cons, ih, insInt_eq, List.insertionSort_cons]

section
variable {m : List Int} {k : Nat} (hsorted : m.Pairwise (· ≤ ·))
include hsorted

/-- Behind `k` values of a sorted list none is below a bound that at most `k` are below. -/
theorem le_of_mem_drop {lo : Int} (hfew : m.countP (· < lo) ≤ k) {x : Int} (hx : x ∈ m.drop k) : lo ≤ x := by
  by_contra hlow
  have hparts : m.take k ++ m.drop k = m := List.take_append_drop k m
  rw [← hparts, List.pairwise_append] at hsorted
  have hfront : (m.take k).countP (· < lo) = (m.take k).length :=
    List.countP_eq_length.mpr fun y hy => by simpa using lt_of_le_of_lt (hsorted.2.2 y hy x hx) (not_le.mp hlow)
  have hback : 0 < (m.drop k).countP (· < lo) := List.countP_pos_iff.mpr ⟨x, hx, by simpa using hlow⟩
  have hcount : m.countP (· < lo) = (m.take k).countP (· < lo) + (m.drop k).countP (· < lo) := by rw [← List.countP_append, hparts]
  have hlen : (m.take k).length = k := List.length_take_of_le (by have := List.length_pos_of_mem hx; rw [List.length_drop] at this; omega)
  omega

/-- Before the last `k` values of a sorted list none is above a bound that at most `k` are above. -/
theorem le_of_mem_take {hi : Int} (hfew : m.countP (hi < ·) ≤ k) (hk : k ≤ m.length) {x : Int} (hx : x ∈ m.take (m.length - k)) : x ≤ hi := by
  by_contra hhigh
  have hparts : m.take (m.length - k) ++ m.drop (m.length - k) = m := List.take_append_drop ..
  rw [← hparts, List.pairwise_append] at hsorted
  have hback : (m.drop (m.length - k)).countP (hi < ·) = (m.drop (m.length - k)).length :=
    List.countP_eq_length.mpr fun y hy => by simpa using lt_of_lt_of_le (not_le.mp hhigh) (hsorted.2.2 x hx y hy)
  have hfront : 0 < (m.take (m.length - k)).countP (hi < ·) := List.countP_pos_iff.mpr ⟨x, hx, by simpa using hhigh⟩
  have hcount : m.countP (hi < ·) = (m.take (m.length - k)).countP (hi < ·) + (m.drop (m.length - k)).countP (hi < ·) := by
    rw [← List.countP_append, hparts]
  have hlen : (m.drop (m.length - k)).length = k := by rw [List.length_drop]; omega
  omega

end

/-- Only faulty values lie beyond bounds that hold the good ones. -/
theorem countP_le_faulty {l faulty good : List Int} (hperm : l.Perm (faulty ++ good)) {p : Int → Bool} (hgood : ∀ x ∈ good, p x = false) :
    l.countP p ≤ faulty.length := by
  have hnone : good.countP p = 0 := List.countP_eq_zero.mpr fun x hx => by simp [hgood x hx]
  rw [hperm.countP_eq, List.countP_append, hnone]
  exact List.countP_le_length

/-- The mean of values within bounds lies within them. -/
theorem tdiv_mean_bounds {m : List Int} {lo hi : Int} (hne : m ≠ []) (h : ∀ x ∈ m, lo ≤ x ∧ x ≤ hi) :
    lo ≤ m.sum.tdiv m.length ∧ m.sum.tdiv m.length ≤ hi := by
  have hpos : (0 : Int) < m.length := by exact_mod_cast List.length_pos_iff.mpr hne
  have hlow : m.length • lo ≤ m.sum := m.card_nsmul_le_sum lo fun x hx => (h x hx).1
  have hhigh : m.sum ≤ m.length • hi := m.sum_le_card_nsmul hi fun x hx => (h x hx).2
  rw [nsmul_eq_mul, mul_comm] at hlow hhigh
  constructor
  · calc lo = (lo * m.length).tdiv m.length := (Int.mul_tdiv_cancel lo hpos.ne').symm
      _ ≤ m.sum.tdiv m.length := Int.tdiv_le_tdiv hpos hlow
  · calc m.sum.tdiv m.length ≤ (hi * m.length).tdiv m.length := Int.tdiv_le_tdiv hpos hhigh
      _ = hi := Int.mul_tdiv_cancel hi hpos.ne'

/-- The values of which the mean is formed: those of a list without the `k` largest and smallest. -/
def trimmed (k : Nat) (l : List Int) : List Int := ((l.foldr insInt []).drop k).take (l.length - 2 * k)

theorem trimmed_length (k : Nat) (l : List Int) : (trimmed k l).length = l.length - 2 * k := by
  simp only [trimmed, foldr_insInt, List.length_take, List.length_drop, List.length_insertionSort]
  omega

theorem trimmed_bounds {k : Nat} {l faulty good : List Int} {lo hi : Int} (hperm : l.Perm (faulty ++ good)) (hk : faulty.length ≤ k)
    (hgood : ∀ x ∈ good, lo ≤ x ∧ x ≤ hi) : ∀ x ∈ trimmed k l, lo ≤ x ∧ x ≤ hi := by
  intro x hx
  rw [trimmed, foldr_insInt] at hx
  have hlength : (List.insertionSort (· ≤ ·) l).length = l.length := List.length_insertionSort ..
  have hsorted : (List.insertionSort (· ≤ ·) l).Pairwise (· ≤ ·) := List.pairwise_insertionSort ..
  have hperm' := (List.perm_insertionSort (· ≤ ·) l).trans hperm
  generalize List.insertionSort (· ≤ ·) l = m at hx hlength hsorted hperm'
  have hlow : m.countP (· < lo) ≤ k := (countP_le_faulty hperm' fun x hx => by simpa using (hgood x hx).1).trans hk
  have hhigh : m.countP (hi < ·) ≤ k := (countP_le_faulty hperm' fun x hx => by simpa using (hgood x hx).2).trans hk
  have hpos := List.length_pos_of_mem hx
  rw [List.length_take, List.length_drop] at hpos
  refine ⟨le_of_mem_drop hsorted hlow (List.mem_of_mem_take hx), le_of_mem_take hsorted hhigh (by omega) ?_⟩
  rw [List.take_drop] at hx
  have hend : k + (l.length - 2 * k) = m.length - k := by omega
  exact hend ▸ List.mem_of_mem_drop hx

theorem ftMean_eq_none_iff {k : Nat} {l : List Int} : ftMean k l = none ↔ l.length < 2 * k + 1 := by simp [ftMean]

theorem ftMean_eq_some {k n : Nat} {l : List Int} {t : Int} (h : ftMean k l = some (t, n)) :
    2 * k < l.length ∧ n = l.length - 2 * k ∧ t = (trimmed k l).sum.tdiv (trimmed k l).length := by
  unfold ftMean at h
  split at h
  · cases h
  · next hlen =>
    cases h
    exact ⟨by omega, trimmed_length k l, rfl⟩

/-- The fault-tolerant mean lies within the range of the good values (R313). -/
theorem ftMean_bounds {k n : Nat} {l faulty good : List Int} {lo hi t : Int} (hperm : l.Perm (faulty ++ good)) (hk : faulty.length ≤ k)
    (hgood : ∀ x ∈ good, lo ≤ x ∧ x ≤ hi) (h : ftMean k l = some (t, n)) : lo ≤ t ∧ t ≤ hi ∧ n = l.length - 2 * k := by
  obtain ⟨hlen, hn, rfl⟩ := ftMean_eq_some h
  have hne : trimmed k l ≠ [] := List.ne_nil_of_length_pos (by rw [trimmed_length]; omega)
  obtain ⟨hlow, hhigh⟩ := tdiv_mean_bounds hne (trimmed_bounds hperm hk hgood)
  exact ⟨hlow, hhigh, hn⟩

end Sys2Proof.Machine
end

section
/-! Rules for the Slalom controller's own gates, buffers, checks and sync point (R305 to R307, R310, R312, R313). -/

namespace Sys2Proof.Machine

namespace Dev
variable {s t : Dev}

/-! ### A write of EN (R315, R322) -/

section
variable {who : Agent}

/-- What the description of SLM_CFG refuses while the controller is on, and of ports that the device has not or that are one (R322). -/
def slmCfgRefuses (s : Dev) (v : Nat) (fi : FieldInfo) : Bool :=
  let en := s.flag .SLM_CFG_EN
  let a := bits v 10 6
  let b := bits v 15 11
  let a' := if 27 < a then s.fld .SLM_CFG_PORT_A else a
  (fi.is .SLM_CFG_PORT_A && (en || 27 < a)) || (fi.is .SLM_CFG_PORT_B && (en || 27 < b || b == a')) || (fi.is .SLM_CFG_TB && en)

/-- SLM_CFG as the write leaves it. -/
def slmCfgWritten (s : Dev) (v : Nat) : Dev := s.plainIf (s.slmCfgRefuses v) .SLM_CFG v

theorem slmCfgWritten_en (s : Dev) (v : Nat) : (s.slmCfgWritten v).flag .SLM_CFG_EN = bit v 0 := by
  have hfield : (s.slmCfgWritten v).fld .SLM_CFG_EN = bits v 0 0 :=
    fld_plainIf_rw s (f := .SLM_CFG_EN) (g := ⟨0, 0, .rw, 0, 48, .any⟩) (by decide) (Reg.hasCopy_alone rfl) (Reg.hasCopy_alone rfl) (by decide)
      rfl rfl rfl
  rw [Dev.flag, hfield, bits_one, b2n_ne_zero]

theorem slmCfgWritten_frame (s : Dev) (v : Nat) : s.slmCfgWritten v = { s with regs := (s.slmCfgWritten v).regs } := plainIf_frame ..

theorem rowWrite_slmCfg (h : s.reaches who .SLM_CFG 0 0 true) (v : Nat) : s.rowWrite who .SLM_CFG v =
    if bit v 0 = s.flag .SLM_CFG_EN then s.slmCfgWritten v else (s.slmCfgWritten v).slmEnable (bit v 0) := by
  have hstore : s.rowWrite who .SLM_CFG v = if ((s.slmCfgWritten v).flag .SLM_CFG_EN == s.flag .SLM_CFG_EN) = true then s.slmCfgWritten v
    else (s.slmCfgWritten v).slmEnable ((s.slmCfgWritten v).flag .SLM_CFG_EN) := rowWrite_single rfl h v
  rw [hstore, slmCfgWritten_en]
  simp only [beq_iff_eq]

end

theorem slmEnable_on (s : Dev) : s.slmEnable true = (s.setFld .SLM_STATUS_ATTEMPT 0).slmStop slmListen := rfl

theorem slmEnable_off (s : Dev) : s.slmEnable false = s.slmStop slmOff := rfl

/-- EN stays through a stop of the controller. -/
theorem slmStop_en (s : Dev) (st : Nat) : (s.slmStop st).flag .SLM_CFG_EN = s.flag .SLM_CFG_EN :=
  (slmStop_regs s st).flag (Reg.hasCopy_alone rfl) (by decide)

/-! ### A switch is armed (R323) -/

theorem bits_high_half (v : Word) : bits v.toNat 31 16 = v.toNat / 65536 := by
  have hv := v.isLt
  unfold bits
  omega

/-- The fields of SLM_STATUS stay through a write by the field rules of SLM_SW. -/
theorem plainSw_fld (s : Dev) (v : Nat) {f : Fld} (hreg : f.reg = .SLM_STATUS) : (s.plain .SLM_SW v).fld f = s.fld f :=
  ((RegsBut.refl s).plain (l := [.SLM_SW, .SLM_MISUSE_CNT]) (Reg.hasCopy_alone rfl) (Reg.hasCopy_alone rfl) (by decide) (by decide)).fld
    (hreg ▸ Reg.hasCopy_alone rfl) (by rw [hreg]; decide)

theorem plainSw_pending (s : Dev) (v : Nat) : (s.plain .SLM_SW v).flag .SLM_STATUS_PENDING = s.flag .SLM_STATUS_PENDING :=
  congrArg (· != 0) (plainSw_fld s v rfl)

/-- A write of SLM_SW names a cycle ahead and the bank that does not operate, and no switch waits (R323). -/
def Arms (s : Dev) (v : Nat) : Prop :=
  let ahead := (v / 65536 + 65536 - s.slmCycle) % 65536
  0 < ahead ∧ ahead < 32768 ∧ v % 2 ≠ s.slmBank ∧ s.flag .SLM_STATUS_PENDING = false

/-- The device with the switch of a write of SLM_SW armed. -/
def armed (s : Dev) (v : Nat) : Dev := ((s.plain .SLM_SW v).setFlag .SLM_STATUS_PENDING true).updSlm fun x => { x with swAt := v / 65536 }

section
variable (s : Dev) (v : Nat)

theorem armed_pending : (s.armed v).flag .SLM_STATUS_PENDING = true := flag_setFld_b2n (s.plain .SLM_SW v) (by decide) true

theorem armed_state : (s.armed v).slmState = s.slmState :=
  (fld_setFld_of_beside (s.plain .SLM_SW v) (by decide) (by decide) (by decide) _).trans (plainSw_fld s v rfl)

theorem armed_bank : (s.armed v).slmBank = s.slmBank :=
  (fld_setFld_of_beside (s.plain .SLM_SW v) (by decide) (by decide) (by decide) _).trans (plainSw_fld s v rfl)

/-- In OFF and LISTEN the armed bank operates at once. -/
theorem armed_now : (s.armed v).slmArmNow.flag .SLM_STATUS_PENDING = false ∧ (s.armed v).slmArmNow.slmBank = 1 - s.slmBank := by
  have hbank : 1 - s.slmBank < 2 := by omega
  rw [slmArmNow_of_pending (armed_pending s v), armed_bank]
  refine ⟨flag_setFld_b2n _ (by decide) false, ?_⟩
  rw [slmBank, setFlag, fld_setFld_of_beside _ (by decide) (by decide) (by decide), fld_setFld_of_fits _ (by decide) hbank]

end

/-- What the model refuses is what does not arm. -/
theorem swRefused_iff (s : Dev) (v : Word) : ((v.toNat / 65536 + 65536 - s.slmCycle) % 65536 = 0 ∨
    32768 ≤ (v.toNat / 65536 + 65536 - s.slmCycle) % 65536 ∨ bits v.toNat 0 0 = (s.plain .SLM_SW v.toNat).slmBank ∨
      (s.plain .SLM_SW v.toNat).flag .SLM_STATUS_PENDING = true) ↔ ¬ s.Arms v.toNat := by
  have hbank : (s.plain .SLM_SW v.toNat).slmBank = s.slmBank := plainSw_fld s _ rfl
  rw [bits_zero, hbank, plainSw_pending]
  simp only [Arms, not_and_or, Nat.not_lt, Nat.le_zero, not_not, Bool.not_eq_false]

theorem slmArm_arms {v : Word} (h : s.Arms v.toNat) :
    s.slmArm v.toNat = if s.slmState ≤ slmListen then (s.armed v.toNat).slmArmNow else s.armed v.toNat := by
  have hstate := armed_state s v.toNat
  unfold armed at hstate
  unfold slmArm
  dsimp only
  rw [bits_high_half, if_neg fun hrefused => (swRefused_iff s v).mp hrefused h, hstate]
  rfl

theorem slmArm_refused {v : Word} (h : ¬ s.Arms v.toNat) : s.slmArm v.toNat = (s.plain .SLM_SW v.toNat).count .SLM_SW_REFUSE_CNT := by
  unfold slmArm
  dsimp only
  rw [bits_high_half, if_pos ((swRefused_iff s v).mpr h)]

/-! ### Own gates (R305) -/

/-- What a gate needs for its pick-up for a cycle `w` (bank, number and start) to be due. -/
theorem pickDue_iff {g : Nat} {w : Nat × Nat × Nat} : s.pickDue g w = true ↔
    s.ownGate w.1 g = true ∧ (∀ k ∈ s.slm.picks.get g, k.cycle ≠ w.2.1) ∧
      come ((w.2.2 + min (s.gateOff w.1 g false) (s.gateOff w.1 g true) * 256 + 2 ^ 40 - 256000) % 2 ^ 40) s.slmNow = true ∧
      (w.2.1 ≠ s.slmCycle ∨ s.slm.own = true) := by
  obtain ⟨b, num, c⟩ := w
  simp only [pickDue, Bool.and_eq_true, Bool.or_eq_true, Bool.not_eq_true', List.any_eq_false, beq_iff_eq, bne_iff_ne, and_assoc]

theorem gatePickup_due {g : Nat} {w : Nat × Nat × Nat} (hsends : s.slmSends = true) (h : s.pickFor g = some w) : s.gatePickup g =
    (let p := s.gatePayload w.1 g
     p.2.2.updSlm fun x => { x with
       picks := x.picks.upd g fun l => l.filter (fun k => k.cycle == p.2.2.slmCycle) ++ [⟨w.2.1, p.1, p.2.1, false, false⟩] }) := by
  unfold gatePickup
  rw [if_neg (by simp [hsends]), h]

/-- The running cycle is looked at before the next one. -/
theorem pickFor_eq (g : Nat) : s.pickFor g =
    (let now := (s.slmBank, s.slmCycle, s.slm.start)
     let then_ := (s.nextBank, (s.slmCycle + 1) % 65536, (s.slm.start + s.bankLen s.slmBank) % 2 ^ 40)
     if s.pickDue g now = true then some now else if s.pickDue g then_ = true then some then_ else none) := by
  have hcycles : s.pickCycles = [(s.slmBank, s.slmCycle, s.slm.start),
      (s.nextBank, (s.slmCycle + 1) % 65536, (s.slm.start + s.bankLen s.slmBank) % 2 ^ 40)] := by
    simp only [pickCycles, nextBank, Bool.and_eq_true, beq_iff_eq]
  unfold pickFor
  rw [hcycles]
  simp only [List.find?_cons, List.find?_nil]
  cases s.pickDue g (s.slmBank, s.slmCycle, s.slm.start) <;>
    cases s.pickDue g (s.nextBank, (s.slmCycle + 1) % 65536, (s.slm.start + s.bankLen s.slmBank) % 2 ^ 40) <;> rfl

theorem gateSend_due {g : Nat} {dir : Bool} {k : Pick} (hpick : (s.slm.picks.get g).find? (fun k => k.cycle == s.slmCycle) = some k)
    (hfirst : (if dir then k.sentB else k.sentA) = false) (hsends : s.slmSends = true) (hown : s.slm.own = true)
    (hgate : s.ownGate s.slmBank g = true) (hhas : s.gateHas s.slmBank g dir = true)
    (hcome : come ((s.slm.start + s.gateOff s.slmBank g dir * 256) % 2 ^ 40) (s.egressStamp (s.ringPort dir)) = true) : s.gateSend g dir =
      (let null := k.null || s.flag .CTL_STATUS_HOLD
       let e := s.updSlm fun x => { x with picks := x.picks.upd g (List.map fun p => if p.cycle == k.cycle then
         { k with sentA := k.sentA || !dir, sentB := k.sentB || dir } else p) }
       e.slmQueue (s.ringPort dir) ((s.slm.start + s.gateOff s.slmBank g dir * 256) % 2 ^ 40)
         (e.slmFrame s.slmBank g dir null (if null then leBytes (s.fld .SLM_GATE_W0_LEN s.slmBank g) 0 else k.data))) := by
  have hmarked : (if dir then { k with sentB := true } else { k with sentA := true }) = { k with sentA := k.sentA || !dir, sentB := k.sentB || dir } := by
    cases dir <;> simp
  unfold gateSend
  dsimp only
  rw [hpick]
  dsimp only
  rw [if_neg (by rw [hfirst, hsends, hown, hgate, hhas, hcome]; decide), hmarked]

/-! ### Frames (R302, R310) -/

theorem secReceive_plain {n : Nat} (f : Frame) (h : s.flag .MAC_SEC_CFG_EN n = false) : s.secReceive n f none = (some f, s) := by
  simp [secReceive, h]

theorem macAccept_slalom {n : Nat} {f : Frame} (stamp ago gap : Nat) (htype : f.etype ≠ 0x8808) (hsec : s.flag .MAC_SEC_CFG_EN n = false)
    (hpar : s.parClaims n f = false) (hslm : s.slmClaims n f = true) : s.macAccept n f none stamp ago gap = s.slmReceive n f stamp ago := by
  simp [macAccept, htype, secReceive_plain f hsec, hpar, hslm]

/-- The count of a good frame changes nothing by which it is claimed. -/
theorem claims_counted {n : Nat} (hn : n < 28) (f : Frame) : (s.count .MAC_RX_OK_CNT n).slmClaims n f = s.slmClaims n f ∧
    (s.count .MAC_RX_OK_CNT n).parClaims n f = s.parClaims n f := by
  have hcopy : Reg.MAC_RX_OK_CNT.HasCopy n 0 0 := Reg.hasCopy_row rfl hn
  simp +decide [slmClaims, parClaims, ringPort, slmNode, count, Reg.hasCopy_alone, hcopy]

theorem macReceive_slalom {n : Nat} {f : Frame} (ago : Nat) (hn : n < 28) (hslm : s.slmClaims n f = true) (hloop : s.looped n = false)
    (hrx : s.macReceives n = true) (hmin : 64 ≤ f.length) (hmax : f.length ≤ s.fld .MAC_CFG_MAXLEN n) (hfcs : f.fcsOk = true)
    (hlen : f.lenError = false) (hsec : s.flag .MAC_SEC_CFG_EN n = false) (hpar : s.parClaims n f = false) (htype : f.etype ≠ 0x8808) :
    s.macReceive n f false none ago 0 = (s.count .MAC_RX_OK_CNT n).slmReceive n f (s.ingressStamp n ago) ago := by
  obtain ⟨hslm', hpar'⟩ := claims_counted (s := s) hn f
  have hsec' : (s.count .MAC_RX_OK_CNT n).flag .MAC_SEC_CFG_EN n = false := by
    rwa [count, flag_countBy_of_apart s (Reg.hasCopy_row rfl hn) (Reg.hasCopy_row rfl hn) (by decide)]
  have hlook : s.secLook n f none = (f, none) := rfl
  rw [macReceive_line _ _ _ _ _ hloop, macTake_good _ _ _ _ hrx hlook hmin hmax hfcs (.inr hlen),
    macAccept_slalom _ _ _ htype hsec' (hpar'.trans hpar) (hslm'.trans hslm)]

/-- A frame is accepted only within its window, of the schedule, gate, node and length, and of a gate not yet accepted (R310). -/
theorem slmCheck_ok {h : SlmHdr} {snd k : Nat} {e : Int} (hok : s.slmCheck h snd = .ok k e) :
    e.natAbs ≤ s.fld .SLM_RXWIN_WIN_NS * 256 ∧ h.len ≤ 1480 ∧ h.len = s.fld .SLM_GATE_W0_LEN k h.gate ∧
      h.sched = s.fld .SLM_BANK_INFO_SCHED_ID k ∧ h.gate < s.fld .SLM_BANK_INFO_GATES k ∧ h.node = s.fld .SLM_GATE_W0_NODE k h.gate ∧
      (h.cycle = s.slmCycle ∧ k = s.slmBank ∧ h.gate ∉ s.slm.acc ∨
        (h.cycle + 1) % 65536 = s.slmCycle ∧ s.slm.prevOk = true ∧ k = s.slm.prevBank ∧ h.gate ∉ s.slm.accPrev) := by
  unfold slmCheck at hok
  extract_lets cur prev b win d at hok
  generalize hseen : (if cur = true then s.slm.acc else s.slm.accPrev) = seen at hok
  split at hok
  · cases hok
  split at hok
  · cases hok
  split at hok
  · cases hok
  split at hok
  · cases hok
  split at hok
  · cases hok
  split at hok
  · cases hok
  split at hok
  · cases hok
  split at hok
  · cases hok
  next hshort hcycle hsched hgate hlen hearly hlate hdup =>
  obtain ⟨hb, hd⟩ := SlmVerdict.ok.inj hok
  subst hb hd
  simp only [Bool.or_eq_true, decide_eq_true_eq, bne_iff_ne, not_or, not_not, Nat.not_le] at hgate
  obtain ⟨hgates, hnode⟩ := hgate
  refine ⟨?_, Nat.not_lt.mp hshort, not_not.mp hlen, not_not.mp hsched, hgates, hnode.symm, ?_⟩
  · have hwin : win = ((s.fld .SLM_RXWIN_WIN_NS * 256 : Nat) : Int) := by simp [win]
    clear_value win d
    omega
  · by_cases hcur : cur = true
    · rw [← hseen, if_pos hcur] at hdup
      exact .inl ⟨beq_iff_eq.mp hcur, if_pos hcur, by simpa using hdup⟩
    · have hprev : prev = true := by
        revert hcycle
        simp [Bool.eq_false_of_not_eq_true hcur]
      obtain ⟨hok, hnum⟩ : s.slm.prevOk = true ∧ (h.cycle + 1) % 65536 = s.slmCycle := by simpa [prev] using hprev
      rw [← hseen, if_neg hcur] at hdup
      exact .inr ⟨hnum, hok, if_neg hcur, by simpa using hdup⟩

/-! ### The sync point (R313, R314, R318, R320) -/

/-- The device with the mean of the sync point shown, or counted as missing. -/
def meanShown (r : Option (Int × Nat)) (s : Dev) : Dev :=
  match r with
  | none => s.count .SLM_SYNC_LOW_CNT
  | some (t, n) =>
    let s := (s.setReg .SLM_THETA (unsign 32 t)).setFld .SLM_SYNC_STAT_USED n
    if s.flag .SLM_CFG_SYNC_IN then s.adjust (s.fld .SLM_CFG_TB) (.sample 2 t) else s

/-- What the state of the controller makes of the cycle `x` with the mean `th`. -/
def cycleJudged (x : SlmSt) (th : Option Int) (s : Dev) : Dev :=
  match s.slmState with
  | 3 =>
    if !x.full then s
    else if (!s.slmFew || x.cold) && !x.bad && s.thetaOk th then
      if s.inMode [.listen] then s
      else ((s.setFld .SLM_STATUS_ATTEMPT 0).updSlm fun x => { x with own := false, low := 0 }).slmGo slmActive
    else s.slmStop slmListen
  | 2 => if x.data then ((s.setFld .SLM_STATUS_ATTEMPT 0).updSlm fun x => { x with low := 0 }).slmGo slmActive else s
  | 4 => if !s.thetaOk th then s.slmMute 1 else s
  | _ => s

/-- The device with the sync point of the cycle past and its doorbell rung. -/
def syncRung (s : Dev) : Dev :=
  let s := s.updSlm fun x => { x with synced := true }
  s.when (s.flag .SLM_DB_EV_CYCLE) fun s => s.ringMask (s.fld .SLM_DB_TARGET) (2 ^ s.fld .SLM_DB_BIT)

theorem slmSync_eq (s : Dev) :
    let r := ftMean (s.fld .SLM_SYNC_K) (s.slm.devs.map (·.2))
    s.slmSync = cycleJudged s.slm (r.map (·.1)) (meanShown r s.syncRung) := rfl

theorem cycleJudged_regs (x : SlmSt) (th : Option Int) (s : Dev) : RegsBut (.SLM_MUTE_CNT :: .SLM_STATUS :: bellRegs) s (cycleJudged x th s) := by
  have hgo (f : SlmSt → SlmSt) : RegsBut (.SLM_MUTE_CNT :: .SLM_STATUS :: bellRegs) s (((s.setFld .SLM_STATUS_ATTEMPT 0).updSlm f).slmGo slmActive) := by
    have hcount : RegsBut (.SLM_MUTE_CNT :: .SLM_STATUS :: bellRegs) s ((s.setFld .SLM_STATUS_ATTEMPT 0).updSlm f) :=
      ((RegsBut.refl s).setFld (f := .SLM_STATUS_ATTEMPT) (Reg.hasCopy_alone rfl) (by decide)).trans (.of_regs rfl)
    exact hcount.trans ((slmGo_regs ..).mono (by simp))
  unfold cycleJudged
  split
  · split
    · exact .refl s
    · split
      · split
        · exact .refl s
        · exact hgo _
      · exact (slmStop_regs ..).mono (by simp)
  · split
    · exact hgo _
    · exact .refl s
  · split
    · exact slmMute_regs ..
    · exact .refl s
  · exact .refl s

theorem syncRung_regs (s : Dev) : RegsBut bellRegs s s.syncRung :=
  (RegsBut.of_regs rfl : RegsBut _ s (s.updSlm fun x => { x with synced := true })).trans (slmBell_kept _ .SLM_DB_EV_CYCLE).regs

theorem meanShown_theta (s : Dev) (t : Int) (m : Nat) : (meanShown (some (t, m)) s).reg .SLM_THETA = unsign 32 t := by
  have hshown : ((s.setReg .SLM_THETA (unsign 32 t)).setFld .SLM_SYNC_STAT_USED m).reg .SLM_THETA = unsign 32 t := by
    rw [reg_setFld_of_apart _ (Reg.hasCopy_alone rfl) (Reg.hasCopy_alone rfl) (by decide), reg_setReg_same, Nat.mod_eq_of_lt (unsign_lt ..)]
  unfold meanShown
  dsimp only
  split
  · exact ((adjust_adjustKept (fld_lt _ .SLM_CFG_TB ..) _ _).regs.reg _ _ _ _ (Reg.hasCopy_alone rfl) (by decide)).trans hshown
  · exact hshown

/-- SLM_THETA shows the mean of the sync point. -/
theorem slmSync_theta {t : Int} {m : Nat} (h : ftMean (s.fld .SLM_SYNC_K) (s.slm.devs.map (·.2)) = some (t, m)) :
    s.slmSync.reg .SLM_THETA = unsign 32 t := by
  rw [slmSync_eq, (cycleJudged_regs ..).reg _ _ _ _ (Reg.hasCopy_alone rfl) (by decide), h, meanShown_theta]

/-- A sync point with too few deviations is counted. -/
theorem slmSync_low (h : ftMean (s.fld .SLM_SYNC_K) (s.slm.devs.map (·.2)) = none) :
    s.slmSync.reg .SLM_SYNC_LOW_CNT = min (s.reg .SLM_SYNC_LOW_CNT + 1) 0xFFFFFFFF := by
  rw [slmSync_eq, (cycleJudged_regs ..).reg _ _ _ _ (Reg.hasCopy_alone rfl) (by decide), h, meanShown, reg_count_same,
    s.syncRung_regs.reg _ _ _ _ (Reg.hasCopy_alone rfl) (by decide)]

theorem syncPoint_due (hruns : s.slmRuns = true) (hsynced : s.slm.synced = false) (hon : s.domOn .swc = true)
    (hcome : come ((s.slm.start + min (s.reg .SLM_BANK_SYNC s.slmBank * 256) (s.bankLen s.slmBank)) % 2 ^ 40) s.slmNow = true) :
    s.syncPoint = s.slmSync := by
  unfold syncPoint
  exact if_neg (by rw [hruns, hsynced, hon, hcome]; decide)

/-! ### Decoupling buffers (R307) -/

section
variable {who : Agent} {i : Nat}

theorem rowWrite_dcbCommit (h : s.reaches who .SLM_DCB_CMD i 0 true) : s.rowWrite who .SLM_DCB_CMD 1 i = (s.plain .SLM_DCB_CMD 1 i).dcbCommit i :=
  rowWrite_single rfl h 1

theorem rowWrite_dcbTake (h : s.reaches who .SLM_DCB_CMD i 0 true) : s.rowWrite who .SLM_DCB_CMD 2 i = (s.plain .SLM_DCB_CMD 2 i).dcbTake i :=
  rowWrite_single rfl h 2

theorem plainDcb_fld (hi : i < 256) (v : Nat) {f : Fld} (hreg : f.reg = .SLM_DCB) : (s.plain .SLM_DCB_CMD v i).fld f i = s.fld f i :=
  ((RegsBut.refl s).plain (l := [.SLM_DCB_CMD, .SLM_MISUSE_CNT]) (Reg.hasCopy_row rfl hi) (Reg.hasCopy_alone rfl) (by decide) (by decide)).fld
    (hreg ▸ Reg.hasCopy_row rfl hi) (by rw [hreg]; decide)

/-- COMMIT swaps the writer's copy and the newest one (R307). -/
theorem dcbCommit_swaps (s : Dev) (i : Nat) : let e := s.dcbCommit i
    e.fld .SLM_DCB_WBUF i = s.fld .SLM_DCB_NBUF i ∧ e.fld .SLM_DCB_NBUF i = s.fld .SLM_DCB_WBUF i ∧ e.flag .SLM_DCB_NEW i = true ∧
      e.flag .SLM_DCB_VALID i = true ∧ e.fld .SLM_DCB_RBUF i = s.fld .SLM_DCB_RBUF i ∧ e.mem = s.mem := by
  have hn : s.fld .SLM_DCB_NBUF i < 2 ^ (Fld.SLM_DCB_WBUF.hi + 1 - Fld.SLM_DCB_WBUF.lo) := s.fld_lt ..
  have hw : s.fld .SLM_DCB_WBUF i < 2 ^ (Fld.SLM_DCB_NBUF.hi + 1 - Fld.SLM_DCB_NBUF.lo) := s.fld_lt ..
  intro e
  have he : e.regs = _ := updSlm_regs ..
  simp only [fld_congr he, flag_congr he]
  simp +decide [setFlag, hn, hw]
  rfl

/-- TAKE swaps the reader's copy and the newest one, where there is a new one (R307). -/
theorem dcbTake_swaps (h : s.flag .SLM_DCB_NEW i = true) : let e := s.dcbTake i
    e.fld .SLM_DCB_RBUF i = s.fld .SLM_DCB_NBUF i ∧ e.fld .SLM_DCB_NBUF i = s.fld .SLM_DCB_RBUF i ∧ e.flag .SLM_DCB_NEW i = false ∧
      e.fld .SLM_DCB_WBUF i = s.fld .SLM_DCB_WBUF i ∧ e.fld .SLM_DCB_VALID i = s.fld .SLM_DCB_VALID i ∧ e.mem = s.mem := by
  have hn : s.fld .SLM_DCB_NBUF i < 2 ^ (Fld.SLM_DCB_RBUF.hi + 1 - Fld.SLM_DCB_RBUF.lo) := s.fld_lt ..
  have hr : s.fld .SLM_DCB_RBUF i < 2 ^ (Fld.SLM_DCB_NBUF.hi + 1 - Fld.SLM_DCB_NBUF.lo) := s.fld_lt ..
  unfold dcbTake
  rw [if_pos h]
  simp +decide [setFlag, hn, hr]

theorem dcbTake_none (h : s.flag .SLM_DCB_NEW i = false) : s.dcbTake i = s := if_neg (by simp [h])

end

end Dev

end Sys2Proof.Machine
end

section
/-! O52: the Slalom controller (R302 to R325). -/

namespace Sys2Proof.Machine

namespace Dev
variable {s : Dev}

/-! ### The listen timer (R316) -/

theorem listenTimeout_colds (hstate : s.slmState = slmListen) (hcold : s.flag .SLM_CFG_COLD_EN = true) (hmode : s.inMode [.listen] = false) :
    let e := s.listenTimeout
    e.slmState = slmCold ∧ e.slmCycle = 0 ∧ e.slm.own = true ∧ e.slm.prevOk = false := by
  intro e
  have he : e = (((s.slmGo slmCold).updSlm fun x => { x with own := true, prevOk := false }).slmBegin 0
      ((s.slmGo slmCold).updSlm fun x => { x with own := true, prevOk := false }).slmNow) := by
    unfold e listenTimeout
    rw [if_neg (not_not.mpr hstate), if_pos (by simp [hcold, hmode])]
  rw [he, slmBegin_slm]
  exact ⟨(slmBegin_fld _ _ _ rfl (by decide)).trans ((fld_congr rfl ..).trans (slmGo_state s (by decide))), slmBegin_cycle _ (by decide) _, rfl, rfl⟩

theorem listenTimeout_waits (hstate : s.slmState = slmListen) (h : s.flag .SLM_CFG_COLD_EN = false ∨ s.inMode [.listen] = true) :
    s.listenTimeout = s.slmAttempt := by
  unfold listenTimeout
  rw [if_neg (not_not.mpr hstate), if_neg (by simpa [or_iff_not_imp_left] using h)]

end Dev

/-! ### The rows -/

section
variable (who : Agent) (v : Word) (s : State)

theorem exec_slmEnable_eq (h : bit v.toNat 0 = true) : exec (.slmEnable who v) s = .next (s.withDev (s.dev.rowWrite who .SLM_CFG v.toNat)) :=
  next_congr (if_pos h)

theorem exec_slmDisable_eq (h : bit v.toNat 0 = false) : exec (.slmDisable who v) s = .next (s.withDev (s.dev.rowWrite who .SLM_CFG v.toNat)) :=
  next_congr (if_neg (by simp [h]))

theorem exec_listenTimeout_eq : exec .listenTimeout s = .next (s.withDev s.dev.listenTimeout) := rfl

theorem exec_slalomCycleStart_eq : exec .slalomCycleStart s = .next (s.withDev s.dev.slmCycleStart) := rfl

theorem exec_scheduleSwitchArm_eq (h : s.dev.reaches who .SLM_SW 0 0 true) :
    exec (.scheduleSwitchArm who v) s = .next (s.withDev (s.dev.slmArm v.toNat)) := next_congr (Dev.rowWrite_single rfl h v.toNat)

theorem exec_gatePickup_eq (g : Fin 256) : exec (.gatePickup g) s = .next (s.withDev (s.dev.gatePickup g)) := rfl

theorem exec_slalomFrameReceive_eq {n : Fin 28} {f : List Byte} (h : s.dev.slmClaims n f = true) (ago : BitVec 32) :
    exec (.slalomFrameReceive n f none ago) s = .next (s.withDev (s.dev.macReceive n f false none ago.toNat 0)) := next_congr (if_pos h)

theorem exec_dcbCommit_eq (i : Fin 256) : exec (.dcbCommit who i) s = .next (s.withDev (s.dev.rowWrite who .SLM_DCB_CMD 1 i)) := rfl

theorem exec_dcbTake_eq (i : Fin 256) : exec (.dcbTake who i) s = .next (s.withDev (s.dev.rowWrite who .SLM_DCB_CMD 2 i)) := rfl

end

/-- Settles O52: each row comes to the controller's own operation, and each operation has the rule of its case. The sync point rests on the bounds of
the fault-tolerant mean. -/
theorem slalomRowsComplete : Obligations.SlalomRowsComplete := by
  intro s d out next b
  have hnext {i : Instr} {e : Dev} {p : Dev → Prop} (hexec : exec i s = .next (s.withDev e)) (he : p e) : next i p :=
    ⟨s.withDev e, hexec, s.withDev_pending e, he⟩
  clear_value next
  refine ⟨fun who v hreach => ⟨fun hoff hset => ?enable, fun hon hclear => ?disable⟩,
    fun hlisten => ⟨fun hcold hmode => hnext (exec_listenTimeout_eq s) (Dev.listenTimeout_colds hlisten hcold hmode),
      fun hwait => next_congr (Dev.listenTimeout_waits hlisten hwait)⟩,
    fun hruns hon hsynced hcome => ⟨fun hmutes => ?mutes, fun hstays => ?starts⟩, fun who v hreach => ?arm, fun g => ?pickup,
    fun g dir k hpick hfirst hsends hown hgate hhas hcome => next_congr (Dev.gateSend_due hpick hfirst hsends hown hgate hhas hcome),
    fun n f ago hclaims hloop hrx hmin hmax hfcs hlen hsec hpar htype => ?receive, fun h snd k e hok => Dev.slmCheck_ok hok,
    fun hruns hsynced hon hcome => ⟨next_congr (Dev.syncPoint_due hruns hsynced hon hcome), fun t m hth => Dev.slmSync_theta hth,
      fun hth => Dev.slmSync_low hth⟩,
    fun k l faulty good lo hi hperm hk hgood => ⟨ftMean_eq_none_iff, fun m n hmean => ftMean_bounds hperm hk hgood hmean⟩,
    fun who i hreach => ?buffer⟩
  case enable =>
    have hwrite := Dev.rowWrite_slmCfg hreach v.toNat
    rw [if_neg (by rw [hset]; simpa using hoff), hset, Dev.slmEnable_on] at hwrite
    refine hnext ((exec_slmEnable_eq who v s hset).trans (next_congr hwrite)) ⟨Dev.slmStop_state _ (by decide), ?_, ?_, ?_, ?_⟩
    · rw [Dev.slmStop_en, Dev.flag_setFld_of_apart _ (Reg.hasCopy_alone rfl) (Reg.hasCopy_alone rfl) (by decide), Dev.slmCfgWritten_en, hset]
    · rw [Dev.slmStop_fld _ _ rfl (by decide), Dev.fld_setFld_of_fits _ (by decide) (by decide)]
    · rw [Dev.slmStop_slm]
      rfl
    · rw [Dev.slmStop_mem, Dev.setFld_mem, Dev.slmCfgWritten_frame]
  case disable =>
    have hwrite := Dev.rowWrite_slmCfg hreach v.toNat
    rw [if_neg (by rw [hclear]; simpa using hon), hclear, Dev.slmEnable_off] at hwrite
    refine hnext ((exec_slmDisable_eq who v s hclear).trans (next_congr hwrite)) ⟨Dev.slmStop_state _ (by decide), ?_, ?_, ?_, ?_⟩
    · rw [Dev.slmStop_en, Dev.slmCfgWritten_en, hclear]
    · rw [Dev.slmStop_slm]
      rfl
    · rw [Dev.slmStop_slm]
      rfl
    · rw [Dev.slmStop_mem, Dev.slmCfgWritten_frame]
  case mutes =>
    refine hnext ((exec_slalomCycleStart_eq s).trans (next_congr (Dev.slmCycleStart_mutes hruns hon hsynced hcome hmutes)))
      ⟨Dev.slmMute_state .., Dev.slmMute_cause _ (by decide), ?_, by rw [Dev.slmMute_slm]; rfl⟩
    rw [Dev.slmMute_counted]
    exact congrArg (fun n => min (n + 1) 0xFFFFFFFF) (Dev.reg_setFld_of_apart _ (Reg.hasCopy_alone rfl) (Reg.hasCopy_alone rfl) (by decide) _)
  case starts =>
    obtain ⟨low, hstart⟩ := Dev.slmCycleStart_next hruns hon hsynced hcome hstays
    have hkept : Dev.RegsBut [.SLM_SYNC_STAT] d (d.cycleShown.updSlm fun x => { x with low := low }) :=
      ((Dev.RegsBut.refl d).setFld (f := .SLM_SYNC_STAT_SEEN) (Reg.hasCopy_alone rfl) (by decide)).trans (.of_regs rfl)
    have hslm : (d.cycleShown.updSlm fun x => { x with low := low }).slm = { d.slm with low := low } := rfl
    refine hnext ((exec_slalomCycleStart_eq s).trans (next_congr hstart)) ?_
    generalize d.cycleShown.updSlm (fun x => { x with low := low }) = e at hkept hslm
    have hbank : e.slmBank = b := hkept.fld (Reg.hasCopy_alone rfl) (by decide)
    have hcycle : e.slmCycle = d.slmCycle := hkept.fld (Reg.hasCopy_alone rfl) (by decide)
    have hstate : e.slmState = d.slmState := hkept.fld (Reg.hasCopy_alone rfl) (by decide)
    have hpending : e.flag .SLM_STATUS_PENDING = d.flag .SLM_STATUS_PENDING := hkept.flag (Reg.hasCopy_alone rfl) (by decide)
    have hlen : e.bankLen b = d.bankLen b :=
      congrArg (· * 256) (hkept.fld (Reg.hasCopy_of_row d.slmBank_lt (by decide)) (by decide))
    obtain ⟨own, hnextSlm⟩ := e.slmNext_slm
    rw [hbank, hlen, hslm] at hnextSlm
    obtain ⟨hstate', hbank'⟩ := e.slmNext_status
    rw [Dev.nextBank, hpending, hslm, hcycle, hbank] at hbank'
    rw [hnextSlm, hstate', hbank', hstate, Dev.slmNext_cycle, hcycle]
    exact ⟨rfl, rfl, rfl, rfl, rfl, rfl, rfl⟩
  case arm =>
    intro ahead good
    have hgood : good ↔ d.Arms v.toNat := Iff.rfl
    have hexec := exec_scheduleSwitchArm_eq who v s hreach
    refine ⟨fun harms hstate => ?_, fun harms hstate => ?_, fun hrefused => ?_⟩
    · rw [Dev.slmArm_arms (hgood.mp harms), if_neg (Nat.not_le.mpr hstate)] at hexec
      exact hnext hexec ⟨Dev.armed_pending .., rfl, Dev.armed_bank ..⟩
    · rw [Dev.slmArm_arms (hgood.mp harms), if_pos hstate] at hexec
      exact hnext hexec (Dev.armed_now ..)
    · exact hexec.trans (next_congr (Dev.slmArm_refused (hgood.not.mp hrefused)))
  case pickup =>
    intro due start num now then_ w hw p hsends
    have hdue (x : Nat × Nat × Nat) : due x ↔ d.pickDue g x = true := Dev.pickDue_iff.symm
    have hpick : d.pickFor g = some w := by
      rw [Dev.pickFor_eq]
      obtain ⟨rfl, hnow⟩ | ⟨rfl, hthen, hnow⟩ := hw
      · exact if_pos ((hdue _).mp hnow)
      · exact (if_neg ((hdue _).not.mp hnow)).trans (if_pos ((hdue _).mp hthen))
    exact (exec_gatePickup_eq s g).trans (next_congr (Dev.gatePickup_due hsends hpick))
  case receive =>
    exact (exec_slalomFrameReceive_eq s hclaims ago).trans
      (next_congr (Dev.macReceive_slalom ago.toNat n.isLt hclaims hloop hrx hmin hmax hfcs hlen hsec hpar htype))
  case buffer =>
    intro same
    have hkept (k : Nat) {f : Fld} (hf : f.reg = .SLM_DCB) : (d.plain .SLM_DCB_CMD k i).fld f i = d.fld f i := Dev.plainDcb_fld i.isLt k hf
    have hnew : (d.plain .SLM_DCB_CMD 2 i).flag .SLM_DCB_NEW i = d.flag .SLM_DCB_NEW i := congrArg (· != 0) (hkept 2 rfl)
    have htake := (exec_dcbTake_eq who s i).trans (next_congr (Dev.rowWrite_dcbTake hreach))
    refine ⟨hnext ((exec_dcbCommit_eq who s i).trans (next_congr (Dev.rowWrite_dcbCommit hreach))) ?_, fun h => hnext htake ?_, fun h => ?_⟩
    · obtain ⟨hw, hn, hset, hvalid, hr, hmem⟩ := Dev.dcbCommit_swaps (d.plain .SLM_DCB_CMD 1 i) i
      rw [hkept 1 rfl] at hw hn hr
      refine ⟨hw, hn, hset, hvalid, fun f hf => ?_, hmem.trans (Dev.plain_mem ..)⟩
      obtain rfl := List.mem_singleton.mp hf
      exact hr
    · obtain ⟨hr, hn, hclear, hw, hvalid, hmem⟩ := Dev.dcbTake_swaps (hnew.trans h)
      rw [hkept 2 rfl] at hr hn hw hvalid
      refine ⟨hr, hn, hclear, fun f hf => ?_, hmem.trans (Dev.plain_mem ..)⟩
      simp only [List.mem_cons, List.not_mem_nil, or_false] at hf
      obtain rfl | rfl := hf
      · exact hw
      · exact hvalid
    · rw [Dev.dcbTake_none (hnew.trans h)] at htake
      refine hnext htake ⟨fun f hf => hkept 2 ?_, Dev.plain_mem ..⟩
      simp only [List.mem_cons, List.not_mem_nil, or_false] at hf
      obtain rfl | rfl | rfl | rfl | rfl := hf <;> rfl

end Sys2Proof.Machine
end

section
/-! O30: typed integers (R432, R436). The value of a typed integer is the one of its type's range that agrees with its words modulo two to the bits of the
type, which settles every clause about results. -/

namespace Sys2Proof.Machine

/-! ### Numbers of a width -/

theorem two_pow_pred {w : Nat} (h : 1 ≤ w) : (2 : Int) ^ w = 2 * 2 ^ (w - 1) := by
  rw [← pow_succ', Nat.sub_add_cancel h]

theorem signed_eq (w n : Nat) : signed w n = if (n : Int) % 2 ^ w < 2 ^ (w - 1) then (n : Int) % 2 ^ w else (n : Int) % 2 ^ w - 2 ^ w := by
  have hcast : ((n % 2 ^ w : Nat) : Int) = (n : Int) % 2 ^ w := by push_cast; rfl
  have hlt : n % 2 ^ w < 2 ^ (w - 1) ↔ (n : Int) % 2 ^ w < 2 ^ (w - 1) := by rw [← hcast]; exact_mod_cast Iff.rfl
  unfold signed
  rw [hcast]
  simp only [hlt]
  push_cast
  rfl

theorem signed_emod (w n : Nat) : signed w n % 2 ^ w = (n : Int) % 2 ^ w := by
  rw [signed_eq]
  split <;> simp

theorem signed_range {w : Nat} (h : 1 ≤ w) (n : Nat) : -(2 ^ (w - 1)) ≤ signed w n ∧ signed w n < 2 ^ (w - 1) := by
  have hpos : (0 : Int) < 2 ^ w := by positivity
  have hge := Int.emod_nonneg (n : Int) hpos.ne'
  have hlt := Int.emod_lt_of_pos (n : Int) hpos
  have htwo := two_pow_pred h
  rw [signed_eq]
  split <;> omega

theorem unsign_cast (w : Nat) (i : Int) : ((unsign w i : Nat) : Int) = i % 2 ^ w := by
  have hpos : (0 : Int) < 2 ^ w := by positivity
  unfold unsign
  rw [Int.toNat_of_nonneg (Int.emod_nonneg _ (by exact_mod_cast hpos.ne'))]
  push_cast
  rfl

/-- Two numbers of one range that agree modulo its size are one. -/
theorem eq_of_emod_eq {a b lo : Int} {n : Nat} (ha : lo ≤ a ∧ a < lo + 2 ^ n) (hb : lo ≤ b ∧ b < lo + 2 ^ n) (h : a % 2 ^ n = b % 2 ^ n) : a = b := by
  have hdvd : (2 : Int) ^ n ∣ b - a := Int.emod_eq_emod_iff_emod_sub_eq_zero.mp h.symm |> Int.dvd_of_emod_eq_zero
  obtain ⟨k, hk⟩ := hdvd
  have hpos : (0 : Int) < 2 ^ n := by positivity
  have hlow : -1 < k := by by_contra hk'; nlinarith [not_lt.mp hk']
  have hhigh : k < 1 := by by_contra hk'; nlinarith [not_lt.mp hk']
  have hzero : k = 0 := by omega
  rw [hzero, mul_zero] at hk
  omega

theorem signed_unsign {w : Nat} (h : 1 ≤ w) {i : Int} (hi : -(2 ^ (w - 1)) ≤ i ∧ i < 2 ^ (w - 1)) : signed w (unsign w i) = i := by
  have hrange := signed_range h (unsign w i)
  have htwo := two_pow_pred h
  refine eq_of_emod_eq (lo := -(2 ^ (w - 1))) (n := w) (by omega) (by omega) ?_
  rw [signed_emod, unsign_cast, Int.emod_emod_of_dvd _ (dvd_refl _)]

/-! ### The values of a type -/

theorem tyBits_pos (t : Nat) : 1 ≤ tyBits t := by
  by_cases h : t < 16
  · interval_cases t <;> decide
  · unfold tyBits
    rw [List.getD_eq_default _ _ (by simpa using h)]
    decide

theorem tyBits_le_words (t : Nat) : tyBits t ≤ 32 * tyWords t := by
  by_cases h : t < 16
  · interval_cases t <;> decide
  · unfold tyWords tyBits
    rw [List.getD_eq_default _ _ (by simpa using h)]
    decide

theorem tyMax_eq (t : Nat) : tyMax t = tyMin t + 2 ^ tyBits t - 1 := by
  have htwo := two_pow_pred (tyBits_pos t)
  unfold tyMax tyMin
  split <;> push_cast <;> omega

/-- A value is one of its type, and agrees with the words that hold it. -/
theorem tyVal_range (t n : Nat) : tyMin t ≤ tyVal t n ∧ tyVal t n ≤ tyMax t := by
  unfold tyVal tyMin tyMax
  split
  · have hrange := signed_range (tyBits_pos t) n
    push_cast
    omega
  · have hlt : n % 2 ^ tyBits t < 2 ^ tyBits t := Nat.mod_lt _ (by positivity)
    omega

theorem tyVal_emod (t n : Nat) : tyVal t n % 2 ^ tyBits t = (n : Int) % 2 ^ tyBits t := by
  unfold tyVal
  split
  · exact signed_emod ..
  · push_cast
    exact Int.emod_emod_of_dvd _ (dvd_refl _)

/-- The value of words is the one of the type that agrees with them. -/
theorem tyVal_unique {t n : Nat} {i : Int} (hlo : tyMin t ≤ i) (hhi : i ≤ tyMax t) (h : i % 2 ^ tyBits t = (n : Int) % 2 ^ tyBits t) : tyVal t n = i := by
  obtain ⟨hge, hle⟩ := tyVal_range t n
  rw [tyMax_eq] at hhi hle
  exact eq_of_emod_eq (lo := tyMin t) (n := tyBits t) (by omega) (by omega) ((tyVal_emod t n).trans h.symm)

theorem tyVal_congr {t m n : Nat} (h : (m : Int) % 2 ^ tyBits t = (n : Int) % 2 ^ tyBits t) : tyVal t m = tyVal t n :=
  tyVal_unique (tyVal_range t n).1 (tyVal_range t n).2 ((tyVal_emod t n).trans h.symm)

/-- The words of a result agree with it modulo two to the bits of its type. -/
theorem tyRaw_emod (t : Nat) (i : Int) : (tyRaw t i : Int) % 2 ^ tyBits t = i % 2 ^ tyBits t := by
  have hm : ((unsign (tyBits t) i : Nat) : Int) % 2 ^ tyBits t = i % 2 ^ tyBits t := by rw [unsign_cast, Int.emod_emod_of_dvd _ (dvd_refl _)]
  unfold tyRaw
  dsimp only
  split
  · rw [unsign_cast, Int.emod_emod_of_dvd _ (pow_dvd_pow 2 (tyBits_le_words t)), signed_emod, hm]
  · exact hm

theorem tyVal_tyRaw (t : Nat) (i : Int) : tyVal t (tyRaw t i) = tyVal t (unsign (tyBits t) i) :=
  tyVal_congr (by rw [tyRaw_emod, unsign_cast, Int.emod_emod_of_dvd _ (dvd_refl _)])

/-- A result that its type holds stays itself. -/
theorem tyVal_unsign_of_range {t : Nat} {i : Int} (hlo : tyMin t ≤ i) (hhi : i ≤ tyMax t) : tyVal t (unsign (tyBits t) i) = i :=
  tyVal_unique hlo hhi (by rw [unsign_cast, Int.emod_emod_of_dvd _ (dvd_refl _)])

theorem tyVal_tyRaw_of_range {t : Nat} {i : Int} (hlo : tyMin t ≤ i) (hhi : i ≤ tyMax t) : tyVal t (tyRaw t i) = i :=
  (tyVal_tyRaw t i).trans (tyVal_unsign_of_range hlo hhi)

theorem tyMin_nonpos (t : Nat) : tyMin t ≤ 0 := by
  unfold tyMin
  split
  · exact Int.neg_nonpos_of_nonneg (Int.natCast_nonneg _)
  · exact le_refl 0

theorem tyMax_nonneg (t : Nat) : 0 ≤ tyMax t := by
  have hone : ∀ k, 1 ≤ 2 ^ k := fun k => Nat.one_le_two_pow
  have hpred := hone (tyBits t - 1)
  have hfull := hone (tyBits t)
  unfold tyMax
  split <;> omega

/-- The remainder of a value is a value. -/
theorem tmod_range {t : Nat} {a b : Int} (ha : tyMin t ≤ a ∧ a ≤ tyMax t) : tyMin t ≤ a.tmod b ∧ a.tmod b ≤ tyMax t := by
  have hmin := tyMin_nonpos t
  have hmax := tyMax_nonneg t
  obtain hnonneg | hneg := Int.le_total 0 a
  · have hlow := Int.tmod_nonneg b hnonneg
    have hhigh : a.tmod b ≤ a := by
      have hle := Nat.mod_le a.natAbs b.natAbs
      have habs : (a.tmod b).natAbs = a.natAbs % b.natAbs := Int.natAbs_tmod ..
      omega
    omega
  · have habs : (a.tmod b).natAbs = a.natAbs % b.natAbs := Int.natAbs_tmod ..
    have hle := Nat.mod_le a.natAbs b.natAbs
    have hsign : a.tmod b ≤ 0 := by
      have hflip := Int.tmod_nonneg b (Int.neg_nonneg_of_nonpos hneg)
      rw [Int.neg_tmod] at hflip
      omega
    omega

theorem tmod_sign {a b : Int} (h : a.tmod b ≠ 0) : (a.tmod b).sign = a.sign := by
  obtain hpos | rfl | hneg := lt_trichotomy 0 a
  · have hr : 0 < a.tmod b := lt_of_le_of_ne (Int.tmod_nonneg b hpos.le) h.symm
    rw [Int.sign_eq_one_of_pos hr, Int.sign_eq_one_of_pos hpos]
  · exact absurd (Int.zero_tmod b) h
  · have hflip := Int.tmod_nonneg b (Int.neg_nonneg_of_nonpos hneg.le)
    rw [Int.neg_tmod] at hflip
    have hr : a.tmod b < 0 := lt_of_le_of_ne (by omega) h
    rw [Int.sign_eq_neg_one_of_neg hr, Int.sign_eq_neg_one_of_neg hneg]

/-! ### Comparisons -/

/-- The comparisons of two integers by the opcodes of R436. -/
theorem cmpHolds_compare (a b : Int) :
    cmpHolds 0x21 (some (compare a b)) = decide (a = b) ∧ cmpHolds 0x22 (some (compare a b)) = decide (a ≠ b) ∧
    cmpHolds 0x23 (some (compare a b)) = decide (a < b) ∧ cmpHolds 0x24 (some (compare a b)) = decide (a ≤ b) ∧
    cmpHolds 0x25 (some (compare a b)) = decide (b < a) ∧ cmpHolds 0x26 (some (compare a b)) = decide (b ≤ a) := by
  obtain hlt | rfl | hgt := lt_trichotomy a b
  · rw [compare_lt_iff_lt.mpr hlt]
    simp [cmpHolds, hlt, hlt.le, hlt.ne, hlt.not_ge, hlt.not_gt]
  · rw [compare_eq_iff_eq.mpr rfl]
    simp [cmpHolds]
  · rw [compare_gt_iff_gt.mpr hgt]
    simp [cmpHolds, hgt, hgt.le, hgt.ne', hgt.not_ge, hgt.not_gt]

section
variable {t : Nat} (hint : tyFloat t = false) (x y : Nat)
include hint

/-! ### Operations on integers, by opcode -/

theorem tyArith_add : tyArith 0x10 t x y = some (tyRaw t (tyVal t x + tyVal t y)) := by simp [tyArith, hint]

theorem tyArith_sub : tyArith 0x11 t x y = some (tyRaw t (tyVal t x - tyVal t y)) := by simp [tyArith, hint]

theorem tyArith_mul : tyArith 0x12 t x y = some (tyRaw t (tyVal t x * tyVal t y)) := by simp [tyArith, hint]

theorem tyArith_div : tyArith 0x13 t x y = if tyVal t y = 0 then none else some (tyRaw t ((tyVal t x).tdiv (tyVal t y))) := by simp [tyArith, hint]

theorem tyArith_mod : tyArith 0x14 t x y = if tyVal t y = 0 then none else some (tyRaw t ((tyVal t x).tmod (tyVal t y))) := by simp [tyArith, hint]

theorem tyArith_min : tyArith 0x17 t x y = some (tyRaw t (min (tyVal t x) (tyVal t y))) := by simp [tyArith, hint]

theorem tyArith_max : tyArith 0x18 t x y = some (tyRaw t (max (tyVal t x) (tyVal t y))) := by simp [tyArith, hint]

theorem tyOrder_int : tyOrder t x y = some (compare (tyVal t x) (tyVal t y)) := by simp [tyOrder, hint]

theorem tyCvt_int {u : Nat} (hu : tyFloat u = false) : tyCvt 0 t u x = tyRaw u (max (tyMin u) (min (tyMax u) (tyVal t x))) := by simp [tyCvt, hint, hu]

end

theorem tyRaw_zero (t : Nat) : tyRaw t 0 = 0 := by
  have hzero : unsign (tyBits t) 0 = 0 := by simp [unsign]
  have hsigned : signed (tyBits t) 0 = 0 := by simp [signed]
  have hwide : unsign (32 * tyWords t) 0 = 0 := by simp [unsign]
  simp [tyRaw, hzero, hsigned, hwide]

theorem tyShift_out {t x n : Nat} (h : tyBits t ≤ n) : tyShift 0x1D t x n = 0 ∧ tyShift 0x1E t x n = 0 := by
  simp [tyShift, h, tyRaw_zero]

/-- Settles O30: the words of a result agree with it modulo two to the bits of the type, and a value of the type that does so is the only one. -/
theorem typedArithmeticHolds : Obligations.TypedArithmeticHolds := by
  intro t x y _ _ hint a b val wrap
  have ha : tyMin t ≤ a ∧ a ≤ tyMax t := tyVal_range t x
  have hb : tyMin t ≤ b ∧ b ≤ tyMax t := tyVal_range t y
  have hraw (i : Int) : val (some (tyRaw t i)) = some (wrap i) := congrArg some (tyVal_tyRaw t i)
  have hwrap {i : Int} (hlo : tyMin t ≤ i) (hhi : i ≤ tyMax t) : wrap i = i := tyVal_unsign_of_range hlo hhi
  obtain ⟨heq, hne, hlt, hle, hgt, hge⟩ := cmpHolds_compare a b
  rw [tyOrder_int hint]
  refine ⟨ha, fun i => hwrap, fun i => ?_, ?_, ?_, ?_, fun hzero => ?_, fun hzero => ⟨a.tdiv b, a.tmod b, ?_, ?_, ?_, ?_, ?_⟩, ?_, ?_,
    fun u _ _ hu => ?_, fun n => tyShift_out, heq, hne, hlt, hle, hgt, hge⟩
  · exact (tyVal_emod ..).trans (by rw [unsign_cast, Int.emod_emod_of_dvd _ (dvd_refl _)])
  · rw [tyArith_add hint, hraw]
  · rw [tyArith_sub hint, hraw]
  · rw [tyArith_mul hint, hraw]
  · rw [tyArith_div hint, tyArith_mod hint, if_pos hzero, if_pos hzero]
    exact ⟨rfl, rfl⟩
  · rw [mul_comm, Int.mul_tdiv_add_tmod]
  · rw [Int.natAbs_tmod]
    exact Nat.mod_lt _ (Int.natAbs_pos.mpr hzero)
  · exact (eq_or_ne _ _).imp_right tmod_sign
  · rw [tyArith_div hint, if_neg hzero, hraw]
  · rw [tyArith_mod hint, if_neg hzero, hraw, hwrap (tmod_range ha).1 (tmod_range ha).2]
  · rw [tyArith_min hint, hraw, hwrap (le_min ha.1 hb.1) ((min_le_left a b).trans ha.2)]
  · rw [tyArith_max hint, hraw, hwrap (ha.1.trans (le_max_left a b)) (max_le ha.2 hb.2)]
  · rw [tyCvt_int hint x hu, tyVal_tyRaw_of_range (le_max_left ..)]
    exact max_le ((tyMin_nonpos u).trans (tyMax_nonneg u)) (min_le_left ..)

end Sys2Proof.Machine
end

section
/-! O33: the timers (R438) over the words that keep IN, Q, the start and ET. -/

namespace Sys2Proof.Machine

/-- A time within 63 bits comes back from its words. -/
theorem timeOf_timeWords {i : Int} (hlo : 0 ≤ i) (hhi : i < 2 ^ 62) : timeOf ((timeWords i).getD 0 0) ((timeWords i).getD 1 0) = i := by
  have hsplit : unsign 64 i % 2 ^ 32 + 2 ^ 32 * (unsign 64 i / 2 ^ 32) = unsign 64 i := Nat.mod_add_div ..
  unfold timeOf timeWords
  simp only [List.getD_cons_zero, List.getD_cons_succ, hsplit]
  exact signed_unsign (by decide) (by constructor <;> norm_num <;> omega)

/-- The words that a timer keeps. -/
def timerWords (in0 q0 : Bool) (st et : Int) : List Nat := [b2n in0, b2n q0] ++ timeWords st ++ timeWords et

section
variable {in0 q0 : Bool} {st et : Int} (pt tt : Int) (hst : 0 ≤ st ∧ st < 2 ^ 62)
include hst

/-- TON, TOF and TP by the manual, over what the words keep. -/
theorem timerFb_ton (inp : Bool) : (timerFb 0x20 inp pt tt (timerWords in0 q0 st et)).2 =
    if inp = false then (false, 0) else
      (decide (pt ≤ tt - if in0 = true then st else tt), min (tt - if in0 = true then st else tt) pt) := by
  have hstart := timeOf_timeWords hst.1 hst.2
  cases inp <;> simp_all [timerFb, timerWords, timeWords]

theorem timerFb_tof (inp : Bool) (hq : q0 = true) : (timerFb 0x21 inp pt tt (timerWords in0 q0 st et)).2 =
    if inp = true then (true, 0) else
      (decide (tt - (if in0 = true then tt else st) < pt), min (tt - if in0 = true then tt else st) pt) := by
  have hstart := timeOf_timeWords hst.1 hst.2
  cases inp <;> simp_all [timerFb, timerWords, timeWords]

theorem timerFb_tp (inp : Bool) (hruns : q0 = true ∨ inp = true ∧ in0 = false) : (timerFb 0x22 inp pt tt (timerWords in0 q0 st et)).2 =
    (decide (tt - (if q0 = true then st else tt) < pt), min (tt - if q0 = true then st else tt) pt) := by
  have hstart := timeOf_timeWords hst.1 hst.2
  obtain rfl | ⟨rfl, rfl⟩ := hruns
  · simp_all [timerFb, timerWords, timeWords]
  · simp_all [timerFb, timerWords, timeWords]

end

theorem timerFb_tof_on (pt tt : Int) (w : List Nat) : (timerFb 0x21 true pt tt w).2 = (true, 0) := rfl

/-- Settles O33: by the case of each timer, whose start is the kept one or the task time. -/
theorem timersFollowTheirInput : Obligations.TimersFollowTheirInput := by
  intro pt tt st et in0 q0 hpt hpt' hst hle htt het het' w
  have hkept : 0 ≤ st ∧ st < 2 ^ 62 := ⟨hst, hle.trans_lt htt⟩
  have hw : w = timerWords in0 q0 st et := rfl
  rw [hw, timerFb_ton pt tt hkept, timerFb_ton pt tt hkept]
  have hnow : min (tt - tt) pt = 0 := by omega
  refine ⟨rfl, ?_, ?_, timerFb_tof_on .., ?_, ?_, fun b hq => ?_, ?_⟩
  · rintro rfl
    rfl
  · rintro rfl
    have hdone : pt ≤ 0 ↔ pt = 0 := by omega
    simp [hdone, hpt]
  · rintro rfl rfl
    rw [timerFb_tof pt tt hkept false rfl]
    simp [hpt]
  · rintro rfl rfl
    rw [timerFb_tof pt tt hkept false rfl]
    rfl
  · subst hq
    rw [timerFb_tp pt tt hkept b (.inl rfl)]
    rfl
  · rintro rfl rfl
    rw [timerFb_tp pt tt hkept true (.inr ⟨rfl, rfl⟩)]
    simp [hpt]

end Sys2Proof.Machine
end

section
/-! Rules for an operation of a Pregaef program (R427, R433 to R438): what it does to data leaves contexts and tasks alone, so that the end of an
operation is one of its words, its results and its next code word. -/

namespace Sys2Proof.Machine

namespace Dev
variable {s d e : Dev} {c t op w : Nat}

/-! ### What stays -/

theorem memOnly.ctx (h : d.memOnly e) (k : Nat) : e.ctx k = d.ctx k := by
  rw [h]
  rfl

theorem memOnly.task (h : d.memOnly e) (k : Nat) : e.task k = d.task k := by
  rw [h]
  rfl

theorem dataPut_memOnly (s : Dev) (c a k : Nat) (l : List Nat) : s.memOnly (s.dataPut c a k l) :=
  each_keeps (P := s.memOnly) (fun _ _ _ h => h.trans (physWrite_frame ..).1) s (.rfl' s)

theorem arithReport_memOnly (s : Dev) (t : Nat) : s.memOnly (s.arithReport t) :=
  (memOnly.setFlag s .CTL_TASK_STAT_ARITH true t 0 0).trans (memOnly.count _ ..)

/-! ### The operation as a whole -/

/-- What the word of an operation does to the types of the stack. -/
def opEffect (d : Dev) (t w : Nat) : Nat × List Ty :=
  wordEffect (fun k => ioType (d.ioWord (d.taskCode t) k)) (fun k => (d.progSym (d.taskCode t) k).type) w (d.task t).tys

/-- The device after the work of an operation on the words that it pops, its results and its next code word. -/
def opDone (d : Dev) (c t w : Nat) : Dev :=
  let l := d.stackTop c (d.opEffect t w).1
  let r := d.opWork c t w (d.task t).tys l
  let q := r.2.opNext t w (r.2.ctx c).pgPc l
  r.2.pgDone c t (d.opEffect t w).1 r.1 (d.opEffect t w).2 q.1 q.2

theorem pregaef_of_stands (h : s.stands c t op w d) : s.pregaef c op = s.doPregaef c t w := by
  obtain ⟨halive, hrun, hstall, hbound, hwaits, hw, hop, hstop, hfresh, -⟩ := h
  have htask : (s.ctx c).bound - 1 = t := by omega
  have hready : (!s.alive c || (s.ctx c).st != .run || (s.ctx c).stall != .none || (s.ctx c).bound == 0 || pgOp w != op || s.opWaits c t w) = false := by
    simp [halive, hrun, hstall, hbound, hwaits, hop]
  unfold pregaef
  dsimp only
  rw [htask, ← hw, if_neg (by rw [hready]; decide), if_neg (by simp [hstop])]
  unfold runBegin
  dsimp only
  rw [if_pos (by simp [hfresh])]
  dsimp only
  rw [← hw]

theorem doPregaef_of_reads (h : (s.touch (midOf c) (s.opWords c t w)).pgReads c (s.opReads t w) = (false, d)) :
    s.doPregaef c t w = if pgOp w = 0x35 then
        (((d.opDone c t w).each ((d.opDone c t w).taskSlots t true) fun n s => s.slotOut c t n).runReport t).updCtx c fun x => { x with bound := 0, task := 0 }
      else d.opDone c t w := by
  unfold doPregaef
  rw [h]
  rfl

/-- An operation at which a run stands, other than END, is done. -/
theorem pregaef_done (h : s.stands c t op w d) (hend : op ≠ 0x35) : s.pregaef c op = d.opDone c t w := by
  obtain ⟨-, -, -, -, -, -, hop, -, -, hreads⟩ := id h
  rw [pregaef_of_stands h, doPregaef_of_reads hreads, if_neg (hop ▸ hend)]

/-! ### The next code word -/

theorem opNext_straight (h : pgOp w ∉ [0x30, 0x31, 0x32, 0x33, 0x34]) (s : Dev) (t pc : Nat) (l : List Nat) :
    s.opNext t w pc l = (pc + 4, (s.task t).frames) := by
  unfold opNext
  dsimp only
  split <;> simp_all

/-- An operation that does not branch moves the code pointer to the next word. -/
theorem opDone_straight {vals : List Nat} (hop : pgOp w ∉ [0x30, 0x31, 0x32, 0x33, 0x34])
    (hwork : d.opWork c t w (d.task t).tys (d.stackTop c (d.opEffect t w).1) = (vals, e)) (hkept : d.memOnly e) :
    d.opDone c t w = e.pgDone c t (d.opEffect t w).1 vals (d.opEffect t w).2 ((d.ctx c).pgPc + 4) (d.task t).frames := by
  unfold opDone
  dsimp only
  rw [hwork]
  dsimp only
  rw [opNext_straight hop, hkept.ctx, hkept.task]

/-- Operations without work on data: those on the stack, jumps, calls and ends. -/
theorem opWork_stack (hop : pgOp w ∉ [1, 2, 3, 4, 5, 6, 7, 8, 9, 0xA, 0xB, 0x38]) (tys : List Ty) (l : List Nat) :
    d.opWork c t w tys l = ((stackOp w l).1, if (stackOp w l).2 = true then d.arithReport t else d) := by
  unfold opWork
  dsimp only
  split <;> simp_all

theorem opDone_stack (hnext : pgOp w ∉ [0x30, 0x31, 0x32, 0x33, 0x34]) (hwork : pgOp w ∉ [1, 2, 3, 4, 5, 6, 7, 8, 9, 0xA, 0xB, 0x38]) :
    d.opDone c t w = (let r := stackOp w (d.stackTop c (d.opEffect t w).1)
      (if r.2 then d.arithReport t else d).pgDone c t (d.opEffect t w).1 r.1 (d.opEffect t w).2 ((d.ctx c).pgPc + 4) (d.task t).frames) := by
  refine opDone_straight hnext (opWork_stack hwork _ _) ?_
  split
  · exact arithReport_memOnly ..
  · exact .rfl' d

/-- A branch changes nothing of the stack but the words popped. -/
theorem opDone_branch (hop : pgOp w ∈ [0x30, 0x31, 0x32, 0x33, 0x34]) :
    d.opDone c t w = (let q := d.opNext t w (d.ctx c).pgPc (d.stackTop c (d.opEffect t w).1)
      d.pgDone c t (d.opEffect t w).1 [] (d.opEffect t w).2 q.1 q.2) := by
  have hstack (l : List Nat) : stackOp w l = ([], false) := by
    simp only [List.mem_cons, List.not_mem_nil, or_false] at hop
    obtain h | h | h | h | h := hop <;> simp [stackOp, h]
  have hwork : pgOp w ∉ [1, 2, 3, 4, 5, 6, 7, 8, 9, 0xA, 0xB, 0x38] := by
    simp only [List.mem_cons, List.not_mem_nil, or_false] at hop
    obtain h | h | h | h | h := hop <;> simp [h]
  unfold opDone
  dsimp only
  rw [opWork_stack hwork, hstack]
  rfl

end Dev

end Sys2Proof.Machine
end

section
/-! O29: operations on the stack alone (R433, R436). -/

namespace Sys2Proof.Machine

/-- The rows of the operations on the stack alone, with their opcodes. -/
def StackRow (c : CtxId) (i : Instr) (op : Nat) : Prop :=
  (i, op) ∈ [(Instr.pregaefNop c, 0), (.pregaefDup c, 0xC), (.pregaefDrop c, 0xD), (.pregaefSwap c, 0xE), (.pregaefDup2 c, 0xF),
    (.pregaefAdd c, 0x10), (.pregaefSub c, 0x11), (.pregaefMul c, 0x12), (.pregaefDiv c, 0x13), (.pregaefMod c, 0x14), (.pregaefNeg c, 0x15),
    (.pregaefAbs c, 0x16), (.pregaefMin c, 0x17), (.pregaefMax c, 0x18), (.pregaefAnd c, 0x19), (.pregaefOr c, 0x1A), (.pregaefXor c, 0x1B),
    (.pregaefNot c, 0x1C), (.pregaefShl c, 0x1D), (.pregaefShr c, 0x1E), (.pregaefRol c, 0x1F), (.pregaefRor c, 0x20), (.pregaefEq c, 0x21),
    (.pregaefNe c, 0x22), (.pregaefLt c, 0x23), (.pregaefLe c, 0x24), (.pregaefGt c, 0x25), (.pregaefGe c, 0x26), (.pregaefCvt c, 0x27),
    (.pregaefSqrt c, 0x28), (.pregaefTrunc c, 0x29)]

/-- Each of them is an operation of the runtime, and none branches, ends a run or works on data. -/
theorem StackRow.spec {c : CtxId} {i : Instr} {op : Nat} (h : StackRow c i op) : (∀ s, exec i s = .next (s.withDev (s.dev.pregaef c op))) ∧
    op ≠ 0x35 ∧ op ∉ [0x30, 0x31, 0x32, 0x33, 0x34] ∧ op ∉ [1, 2, 3, 4, 5, 6, 7, 8, 9, 0xA, 0xB, 0x38] := by
  simp only [StackRow, List.mem_cons, Prod.mk.injEq, List.not_mem_nil, or_false] at h
  iterate 30
    obtain ⟨rfl, rfl⟩ | h := h
    · exact ⟨fun _ => rfl, by decide, by decide, by decide⟩
  obtain ⟨rfl, rfl⟩ := h
  exact ⟨fun _ => rfl, by decide, by decide, by decide⟩

/-- Settles O29: the run stands at the operation, whose work is on the stack. -/
theorem stackOperationsComplete : Obligations.StackOperationsComplete := by
  intro c s t op w i d hstands hrow e r
  obtain ⟨-, -, -, -, -, -, rfl, -⟩ := id hstands
  obtain ⟨hexec, hend, hnext, hwork⟩ := StackRow.spec hrow
  refine (hexec s).trans (next_congr ?_)
  rw [Dev.pregaef_done hstands hend]
  exact Dev.opDone_stack hnext hwork

end Sys2Proof.Machine
end

section
/-! O31 and O32: literals, data, jumps, calls, inputs, outputs, function blocks and the end of a run (R427, R433, R437, R438). -/

namespace Sys2Proof.Machine

namespace Dev
variable {s d e : Dev} {c t w : Nat}

/-! ### The work of each operation -/

section
variable (tys : List Ty) (l : List Nat)

theorem opWork_lit (h : pgOp w = 1) : d.opWork c t w tys l = ([unsign 32 (pgArg w)], d) := by simp [opWork, h]

theorem opWork_litc (h : pgOp w = 2) : d.opWork c t w tys l =
    ([d.view (d.taskCode t + (d.progHdr (d.taskCode t)).constOff + 4 * (pgArg w).toNat) 4], d) := by simp [opWork, h]

theorem opWork_litc2 (h : pgOp w = 3) : d.opWork c t w tys l =
    ([d.view (d.taskCode t + (d.progHdr (d.taskCode t)).constOff + 4 * ((pgArg w).toNat + 1)) 4,
      d.view (d.taskCode t + (d.progHdr (d.taskCode t)).constOff + 4 * (pgArg w).toNat) 4], d) := by simp [opWork, h]

theorem opWork_ld (h : pgOp w = 4) : d.opWork c t w tys l = ([d.view (d.dataAt (d.taskCode t) (pgArg w).toNat) 4], d) := by
  simp [opWork, h, dataGet]

theorem opWork_st (h : pgOp w = 5) : d.opWork c t w tys l = ([], d.dataPut c (d.taskCode t) (pgArg w).toNat l) := by simp [opWork, h]

theorem opWork_ld2 (h : pgOp w = 6) : d.opWork c t w tys l =
    ([d.view (d.dataAt (d.taskCode t) ((pgArg w).toNat + 1)) 4, d.view (d.dataAt (d.taskCode t) (pgArg w).toNat) 4], d) := by
  simp [opWork, h, dataGet, List.range_succ]

theorem opWork_st2 (h : pgOp w = 7) : d.opWork c t w tys l = ([], d.dataPut c (d.taskCode t) (pgArg w).toNat l.reverse) := by simp [opWork, h]

theorem opWork_in (h : pgOp w = 8) : d.opWork c t w tys l =
    (let x := d.ioWord (d.taskCode t) (pgArg w).toNat
     (tyPut (ioType x) (d.slotValue x (d.latchData t (ioSlot x))), d)) := by simp [opWork, h]

theorem opWork_out (h : pgOp w = 9) : d.opWork c t w tys l =
    (let dst := ioType (d.ioWord (d.taskCode t) (pgArg w).toNat)
     let src := outSrc dst tys
     ([], d.dataPut c (d.taskCode t) (d.ioData (d.taskCode t) (pgArg w).toNat) (tyPut dst (tyCvt 0 src dst (tyTake src l).1)).reverse)) := by
  simp [opWork, h]

theorem opWork_stat (h : pgOp w = 0xA) : d.opWork c t w tys l =
    ([d.view ((d.task t).latch + 4 * (d.mapSlots (d.taskCode t)).findIdx (· == ioSlot (d.ioWord (d.taskCode t) (pgArg w).toNat))) 4], d) := by
  simp [opWork, h]

theorem opWork_time (h : pgOp w = 0xB) : d.opWork c t w tys l =
    ([unsign 64 (d.ttOf (d.taskCode t)) / 2 ^ 32, unsign 64 (d.ttOf (d.taskCode t)) % 2 ^ 32], d) := by
  have hhigh : unsign 64 (d.ttOf (d.taskCode t)) / 2 ^ 32 < 2 ^ 32 := by
    have hlt := unsign_lt 64 (d.ttOf (d.taskCode t))
    omega
  have hwords : tyWords tyTime = 2 := rfl
  simp only [opWork, h, tyPut, hwords, if_true, Nat.mod_eq_of_lt hhigh]

theorem opWork_fb (h : pgOp w = 0x38) (hodd : oddTimer (d.progSym (d.taskCode t) (pgArg w).toNat).type l = false) : d.opWork c t w tys l =
    (let y := d.progSym (d.taskCode t) (pgArg w).toNat
     let fb := fbRun y.type (d.ttOf (d.taskCode t)) l (d.dataGet (d.taskCode t) y.off (symWords y.type))
     (fb.2, d.dataPut c (d.taskCode t) y.off fb.1)) := by
  simp [opWork, h, hodd]

end

/-! ### How many words they pop -/

/-- Opcodes that always pop so many words. -/
def fixedPops : List (Nat × Nat) :=
  [(1, 0), (2, 0), (3, 0), (4, 0), (5, 1), (6, 0), (7, 2), (8, 0), (0xA, 0), (0xB, 0), (0x30, 0), (0x31, 1), (0x32, 1), (0x33, 0), (0x34, 0),
    (0x35, 0)]

theorem opEffect_pops {n : Nat} (h : (pgOp w, n) ∈ fixedPops) : (d.opEffect t w).1 = n := by
  simp only [fixedPops, List.mem_cons, Prod.mk.injEq, List.not_mem_nil, or_false] at h
  iterate 15
    obtain ⟨hop, rfl⟩ | h := h
    · simp only [opEffect, wordEffect, hop]
  obtain ⟨hop, rfl⟩ := h
  simp only [opEffect, wordEffect, hop]

/-! ### The end of each operation -/

section
variable {op : Nat} (hstands : s.stands c t op w d)
include hstands

theorem pregaef_straight (hop : op ∉ [0x35, 0x30, 0x31, 0x32, 0x33, 0x34]) {n : Nat} (hpop : (d.opEffect t w).1 = n) {vals : List Nat}
    (hwork : d.opWork c t w (d.task t).tys (d.stackTop c n) = (vals, e)) (hkept : d.memOnly e) :
    s.pregaef c op = e.pgDone c t n vals (d.opEffect t w).2 ((d.ctx c).pgPc + 4) (d.task t).frames := by
  obtain ⟨-, -, -, -, -, -, rfl, -⟩ := id hstands
  obtain ⟨hend, hnext⟩ := not_or.mp (List.mem_cons.not.mp hop)
  rw [pregaef_done hstands hend]
  subst hpop
  exact opDone_straight hnext hwork hkept

theorem pregaef_branch (hop : op ∈ [0x30, 0x31, 0x32, 0x33, 0x34]) {n : Nat} (hpop : (d.opEffect t w).1 = n) :
    s.pregaef c op = (let q := d.opNext t w (d.ctx c).pgPc (d.stackTop c n)
      d.pgDone c t n [] (d.opEffect t w).2 q.1 q.2) := by
  have hend : op ≠ 0x35 := by
    rintro rfl
    revert hop
    decide
  obtain ⟨-, -, -, -, -, -, rfl, -⟩ := id hstands
  rw [pregaef_done hstands hend]
  subst hpop
  exact opDone_branch hop

end

/-- END writes the output slots and reports (R427). -/
theorem pregaef_end (hstands : s.stands c t 0x35 w d) : s.pregaef c 0x35 =
    (let d' := d.pgDone c t (d.opEffect t w).1 [] (d.opEffect t w).2 ((d.ctx c).pgPc + 4) (d.task t).frames
     let d' := d'.each (d'.taskSlots t true) fun n d => d.slotOut c t n
     (d'.runReport t).updCtx c fun x => { x with bound := 0, task := 0 }) := by
  obtain ⟨-, -, -, -, -, -, hop, -, -, hreads⟩ := id hstands
  have hwork (tys : List Ty) (l : List Nat) : d.opWork c t w tys l = ([], d) := by
    rw [opWork_stack (by simp [hop])]
    simp [stackOp, hop]
  rw [pregaef_of_stands hstands, doPregaef_of_reads hreads, if_pos hop, opDone_straight (by simp [hop]) (hwork _ _) (.rfl' d)]

/-! ### Branches -/

section
variable (pc : Nat) (l : List Nat)

theorem opNext_jmp (h : pgOp w = 0x30) : d.opNext t w pc l = (((pc : Int) + 4 * pgArg w).toNat, (d.task t).frames) := by simp [opNext, h]

theorem opNext_jmpc (h : pgOp w = 0x31) :
    d.opNext t w pc l = (if l.headD 0 % 2 = 1 then ((pc : Int) + 4 * pgArg w).toNat else pc + 4, (d.task t).frames) := by simp [opNext, h]

theorem opNext_jmpcn (h : pgOp w = 0x32) :
    d.opNext t w pc l = (if l.headD 0 % 2 = 1 then pc + 4 else ((pc : Int) + 4 * pgArg w).toNat, (d.task t).frames) := by simp [opNext, h]

theorem opNext_call (h : pgOp w = 0x33) : d.opNext t w pc l =
    (d.taskCode t + (d.progHdr (d.taskCode t)).codeOff + 4 * d.view (d.taskCode t + 0x20 + 4 * (pgArg w).toNat) 4, (pc + 4) :: (d.task t).frames) := by
  simp [opNext, h]

theorem opNext_ret (h : pgOp w = 0x34) : d.opNext t w pc l = ((d.task t).frames.headD (pc + 4), (d.task t).frames.tail) := by simp [opNext, h]

end

/-! ### Stored words -/

theorem stackTop_one (d : Dev) (c : Nat) : d.stackTop c 1 = [(d.stackTop c 1).getD 0 0] := by simp [stackTop]

theorem dataPut_one (d : Dev) (c a k v : Nat) : d.dataPut c a k [v] = d.physWrite (midOf c) (d.dataAt a k) (leBytes 4 v) := by simp [dataPut]

end Dev

/-- Settles O31: each operation has its work, or branches, where the run stands at it. -/
theorem dataAndJumpOperationsComplete : Obligations.DataAndJumpOperationsComplete := by
  intro c s t w d a k pc fr on rel const st tys go
  have hstraight {op n : Nat} {vals : List Nat} {e : Dev} (h : st op) (hop : op ∉ [0x35, 0x30, 0x31, 0x32, 0x33, 0x34])
      (hpop : (pgOp w, n) ∈ Dev.fixedPops) (hwork : d.opWork c t w (d.task t).tys (d.stackTop c n) = (vals, e)) (hkept : d.memOnly e) :
      .next (s.withDev (s.dev.pregaef c op)) = go e n vals (pc + 4) fr :=
    next_congr (Dev.pregaef_straight h hop (Dev.opEffect_pops hpop) hwork hkept)
  have hbranch {op n pc' : Nat} {fr' : List Nat} (h : st op) (hop : op ∈ [0x30, 0x31, 0x32, 0x33, 0x34])
      (hpop : (pgOp w, n) ∈ Dev.fixedPops) (hnext : d.opNext t w pc (d.stackTop c n) = (pc', fr')) :
      .next (s.withDev (s.dev.pregaef c op)) = go d n [] pc' fr' := by
    refine next_congr ((Dev.pregaef_branch h hop (Dev.opEffect_pops hpop)).trans ?_)
    rw [hnext]
    rfl
  have hcode {op : Nat} (h : st op) : pgOp w = op := by
    obtain ⟨-, -, -, -, -, -, hop, -⟩ := h
    exact hop
  have hsame : d.memOnly d := .rfl' d
  refine ⟨fun h => ?_, fun h => ?_, fun h => ?_, fun h => ?_, fun h => ?_, fun h => ?_, fun h => ?_, fun h => ?_, fun h => ?_, fun h => ?_,
    fun h => ?_, fun h => ?_, fun h => ?_, fun h => ?_⟩ <;> have hop := hcode h
  · exact hstraight h (by decide) (by simp [Dev.fixedPops, hop]) (Dev.opWork_lit _ _ hop) hsame
  · exact hstraight h (by decide) (by simp [Dev.fixedPops, hop]) (Dev.opWork_litc _ _ hop) hsame
  · exact hstraight h (by decide) (by simp [Dev.fixedPops, hop]) (Dev.opWork_litc2 _ _ hop) hsame
  · exact hstraight h (by decide) (by simp [Dev.fixedPops, hop]) (Dev.opWork_stat _ _ hop) hsame
  · exact hstraight h (by decide) (by simp [Dev.fixedPops, hop]) (Dev.opWork_time _ _ hop) hsame
  · exact hstraight h (by decide) (by simp [Dev.fixedPops, hop]) (Dev.opWork_ld _ _ hop) hsame
  · exact hstraight h (by decide) (by simp [Dev.fixedPops, hop]) (Dev.opWork_ld2 _ _ hop) hsame
  · refine hstraight h (by decide) (by simp [Dev.fixedPops, hop]) ((Dev.opWork_st _ _ hop).trans ?_) (Dev.physWrite_frame ..).1
    rw [Dev.stackTop_one, Dev.dataPut_one]
    rfl
  · exact hstraight h (by decide) (by simp [Dev.fixedPops, hop]) (Dev.opWork_st2 _ _ hop) (Dev.dataPut_memOnly ..)
  · exact hbranch h (by decide) (by simp [Dev.fixedPops, hop]) (Dev.opNext_jmp _ _ hop)
  · exact hbranch h (by decide) (by simp [Dev.fixedPops, hop]) (Dev.opNext_jmpc _ _ hop)
  · exact hbranch h (by decide) (by simp [Dev.fixedPops, hop]) (Dev.opNext_jmpcn _ _ hop)
  · exact hbranch h (by decide) (by simp [Dev.fixedPops, hop]) (Dev.opNext_call _ _ hop)
  · exact hbranch h (by decide) (by simp [Dev.fixedPops, hop]) (Dev.opNext_ret _ _ hop)

/-- Settles O32: IN, OUT and FB have their work where the run stands at them, and END its own end. -/
theorem inputOutputOperationsComplete : Obligations.InputOutputOperationsComplete := by
  intro c s t w d a k pc fr st eff l go e y fb
  have hcode {op : Nat} (h : st op) : pgOp w = op := by
    obtain ⟨-, -, -, -, -, -, hop, -⟩ := h
    exact hop
  refine ⟨fun h => next_congr ?_, fun h => next_congr ?_, fun h hodd => next_congr ?_, fun h => next_congr (Dev.pregaef_end h)⟩
  · exact Dev.pregaef_straight h (by decide) rfl (Dev.opWork_in _ _ (hcode h)) (.rfl' d)
  · exact Dev.pregaef_straight h (by decide) rfl (Dev.opWork_out _ _ (hcode h)) (Dev.dataPut_memOnly ..)
  · exact Dev.pregaef_straight h (by decide) rfl (Dev.opWork_fb _ _ (hcode h) hodd) (Dev.dataPut_memOnly ..)

end Sys2Proof.Machine
end

section
/-! Operations that change registers alone: reads of memory, doorbells and the display of the mode are among them, so that what memory shows, and the
state of every block, is the same after them. -/

namespace Sys2Proof.Machine

namespace Dev

/-- Registers of a list aside, and what the host interface and shared memory keep of interrupts and accesses, `t` stands as `s` does. -/
structure RegsOnly (l : List Reg) (s t : Dev) : Prop where
  regs : RegsBut l s t
  rest : t = { s with regs := t.regs, host := t.host, smf := t.smf }

variable {l m : List Reg} {s t u : Dev} {i j k v : Nat}

namespace RegsOnly

theorem refl (s : Dev) : RegsOnly l s s := ⟨.refl s, rfl⟩

section
variable (h : RegsOnly l s t)
include h

theorem trans (g : RegsOnly l t u) : RegsOnly l s u := ⟨h.regs.trans g.regs, by rw [g.rest, h.rest]⟩

theorem mono (hlm : l ⊆ m) : RegsOnly m s t := ⟨h.regs.mono hlm, h.rest⟩

theorem then_regs {regs : List (Nat × Word)} (hregs : RegsBut l s { t with regs := regs }) : RegsOnly l s { t with regs := regs } :=
  ⟨hregs, by rw [h.rest]⟩

theorem setReg {r : Reg} (hr : r.HasCopy i j k) (hl : r ∈ l) : RegsOnly l s (t.setReg r v i j k) := h.then_regs (h.regs.setReg hr hl)

theorem setFld {f : Fld} (hf : f.reg.HasCopy i j k) (hl : f.reg ∈ l) : RegsOnly l s (t.setFld f v i j k) := h.setReg hf hl

theorem setFlag {f : Fld} {b : Bool} (hf : f.reg.HasCopy i j k) (hl : f.reg ∈ l) : RegsOnly l s (t.setFlag f b i j k) := h.setFld hf hl

theorem countBy {r : Reg} {n : Nat} (hr : r.HasCopy i j k) (hl : r ∈ l) : RegsOnly l s (t.countBy n r i j k) := h.setReg hr hl

theorem count {r : Reg} (hr : r.HasCopy i j k) (hl : r ∈ l) : RegsOnly l s (t.count r i j k) := h.setReg hr hl

theorem plainIf {ill : FieldInfo → Bool} {r : Reg} (hr : r.HasCopy i j k) (hm : r.info.blk.misuse.HasCopy (r.info.blk.pageOf i) 0 0)
    (hl : r ∈ l) (hml : r.info.blk.misuse ∈ l) : RegsOnly l s (t.plainIf ill r v i j k) := by
  have hregs := h.regs.plainIf (ill := ill) (v := v) hr hm hl hml
  rw [plainIf_frame] at hregs ⊢
  exact h.then_regs hregs

theorem plain {r : Reg} (hr : r.HasCopy i j k) (hm : r.info.blk.misuse.HasCopy (r.info.blk.pageOf i) 0 0)
    (hl : r ∈ l) (hml : r.info.blk.misuse ∈ l) : RegsOnly l s (t.plain r v i j k) := h.plainIf hr hm hl hml

theorem ringMask {n mask : Nat} (hn : n < 32) (hl : bellRegs ⊆ l) : RegsOnly l s (t.ringMask n mask) :=
  ⟨h.regs.ringMask hn hl, by rw [ringMask_frame, h.rest]⟩

theorem each {α : Type} {f : α → Dev → Dev} {as : List α} (hf : ∀ a ∈ as, ∀ t, RegsOnly l s t → RegsOnly l s (f a t)) : RegsOnly l s (t.each as f) :=
  each_keeps hf t h

theorem when {b : Bool} {f : Dev → Dev} (hf : ∀ t, RegsOnly l s t → RegsOnly l s (f t)) : RegsOnly l s (t.when b f) := when_keeps hf t h

theorem modeUpdate (hl : .SYS_MODE :: bellRegs ⊆ l) : RegsOnly l s t.modeUpdate := by
  have hmode : Reg.SYS_MODE ∈ l := hl List.mem_cons_self
  have hbell : bellRegs ⊆ l := fun q hq => hl (List.mem_cons_of_mem _ hq)
  unfold Dev.modeUpdate
  extract_lets old shown
  have hshown : RegsOnly l s shown := (h.setFld (Reg.hasCopy_alone rfl) hmode).setFld (Reg.hasCopy_alone rfl) hmode
  exact hshown.when fun _ h => h.ringMask (bits_lt ..) hbell

theorem physRead {mid a n : Nat} (hl : readRegs ⊆ l) : RegsOnly l s (t.physRead mid a n).2 := by
  obtain ⟨honly, hmem⟩ := physRead_frame t mid a n
  refine h.trans ⟨(physRead_regs t mid a n).mono hl, ?_⟩
  rw [honly, hmem]

theorem touch {mid : Nat} {as : List (Nat × Nat)} (hl : readRegs ⊆ l) : RegsOnly l s (t.touch mid as) := h.each fun _ _ _ h => h.physRead hl

theorem mem : t.mem = s.mem := by rw [h.rest]
theorem grm : t.grm = s.grm := by rw [h.rest]
theorem eng : t.eng = s.eng := by rw [h.rest]
theorem ctl : t.ctl = s.ctl := by rw [h.rest]
theorem par : t.par = s.par := by rw [h.rest]
theorem sys : t.sys = s.sys := by rw [h.rest]
theorem boot : t.boot = s.boot := by rw [h.rest]
theorem tmu : t.tmu = s.tmu := by rw [h.rest]
theorem mac : t.mac = s.mac := by rw [h.rest]
theorem slm : t.slm = s.slm := by rw [h.rest]
theorem can : t.can = s.can := by rw [h.rest]
theorem bld : t.bld = s.bld := by rw [h.rest]
theorem grp : t.grp = s.grp := by rw [h.rest]
theorem pers : t.pers = s.pers := by rw [h.rest]
theorem vlt : t.vlt = s.vlt := by rw [h.rest]
theorem lft : t.lft = s.lft := by rw [h.rest]
theorem freeCnt : t.freeCnt = s.freeCnt := by rw [h.rest]

end

theorem ite {c : Prop} [Decidable c] (ht : RegsOnly l s t) (hu : RegsOnly l s u) : RegsOnly l s (if c then t else u) := by
  split <;> assumption

end RegsOnly

/-- What memory shows rests on its bytes, on the states of its banks and on the Groomer. -/
theorem RegsBut.viewBytes (h : RegsBut l s t) (hl : .SMF_BANK_STAT ∉ l) (hmem : t.mem = s.mem) (hgrm : t.grm = s.grm) (a n : Nat) :
    t.viewBytes a n = s.viewBytes a n := by
  have hserves : (rangeOf a == .shared && !t.bankServes (bankOf a)) = (rangeOf a == .shared && !s.bankServes (bankOf a)) := by
    by_cases ha : a < 0x8000000
    · rw [bankServes_congr (h.reg _ _ _ _ (hasCopy_bankStat (bankOf_lt ha)) hl) hgrm]
    · have hrange : (rangeOf a == .shared) = false := by
        rw [rangeOf, if_neg ha]
        split_ifs <;> rfl
      simp [hrange]
  unfold Dev.viewBytes
  rw [hserves, bytes_congr hmem]

theorem RegsOnly.view (h : RegsOnly l s t) (hl : .SMF_BANK_STAT ∉ l) (a n : Nat) : t.view a n = s.view a n :=
  congrArg leVal (h.regs.viewBytes hl h.mem h.grm a n)

/-- A field as wide as another one takes what that one holds. -/
@[simp] theorem fld_setFld_fld (s u : Dev) {f g : Fld} {a b c : Nat} (h : f.lo ≤ f.hi ∧ f.hi < 32) (hw : g.hi + 1 - g.lo ≤ f.hi + 1 - f.lo) :
    (s.setFld f (u.fld g a b c) i j k).fld f i j k = u.fld g a b c :=
  fld_setFld_of_fits s h (Nat.lt_of_lt_of_le (u.fld_lt ..) (Nat.pow_le_pow_right (by decide) hw))

/-- A walk through a list without doubles works on its element once: what stands before, the element's work makes what stands after. -/
theorem each_at {α : Type} {P Q : Dev → Prop} {f : α → Dev → Dev} {a : α} {as : List α} (hnodup : as.Nodup) (ha : a ∈ as)
    (hP : ∀ b ∈ as, b ≠ a → ∀ s, P s → P (f b s)) (hmake : ∀ s, P s → Q (f a s)) (hQ : ∀ b ∈ as, b ≠ a → ∀ s, Q s → Q (f b s)) :
    ∀ s, P s → Q (s.each as f) := by
  obtain ⟨as₁, as₂, rfl⟩ := List.append_of_mem ha
  obtain ⟨-, hsecond, hdisj⟩ := List.nodup_append.mp hnodup
  have hne₁ (b : α) (hb : b ∈ as₁) : b ≠ a := hdisj b hb a List.mem_cons_self
  have hne₂ (b : α) (hb : b ∈ as₂) : b ≠ a := fun h => (List.nodup_cons.mp hsecond).1 (h ▸ hb)
  intro s hs
  have hbefore : P (s.each as₁ f) := each_keeps (fun b hb => hP b (by simp [hb]) (hne₁ b hb)) s hs
  have hsplit : s.each (as₁ ++ a :: as₂) f = (f a (s.each as₁ f)).each as₂ f := by simp [Dev.each]
  rw [hsplit]
  exact each_keeps (fun b hb => hQ b (by simp [hb]) (hne₂ b hb)) _ (hmake _ hbefore)

end Dev

end Sys2Proof.Machine
end

section
/-! The process image (R413 to R423): what a commit, a latch and the display of a slot make of the register of that slot, which alone changes. -/

namespace Sys2Proof.Machine

namespace Dev
variable {l : List Reg} {s t u : Dev} {m n : Nat}

/-! ### The slot table -/

/-- The slot table says the same where its registers and memory stand as they did. -/
theorem RegsBut.slotEnt (h : RegsBut l s t) (hl : ∀ r ∈ [Reg.SMF_BANK_STAT, .CTL_PI_BASE_LOW, .CTL_PI_BASE_HIGH], r ∉ l) (hmem : t.mem = s.mem)
    (hgrm : t.grm = s.grm) : t.slotEnt = s.slotEnt := by
  have hbase : t.piBase = s.piBase := by
    unfold piBase reg64
    rw [h.reg .CTL_PI_BASE_LOW 0 0 0 (Reg.hasCopy_alone rfl) (hl _ (by simp)), h.reg .CTL_PI_BASE_HIGH 0 0 0 (Reg.hasCopy_alone rfl) (hl _ (by simp))]
  funext n
  unfold Dev.slotEnt view
  rw [hbase, h.viewBytes (hl _ (by simp)) hmem hgrm]

theorem RegsOnly.slotEnt (h : RegsOnly l s t) (hl : ∀ r ∈ [Reg.SMF_BANK_STAT, .CTL_PI_BASE_LOW, .CTL_PI_BASE_HIGH], r ∉ l) : t.slotEnt = s.slotEnt :=
  h.regs.slotEnt hl h.mem h.grm

theorem slotValid_congr (h : t.slotEnt = s.slotEnt) (n : Nat) : t.slotValid n = s.slotValid n := by rw [slotValid, slotValid, h]

theorem slotOwned_congr (h : t.slotEnt = s.slotEnt) (n : Nat) : t.slotOwned n = s.slotOwned n := by rw [slotOwned, slotOwned, h]

theorem taskSlots_congr (h : t.slotEnt = s.slotEnt) (k : Nat) (out : Bool) : t.taskSlots k out = s.taskSlots k out := by
  unfold taskSlots slotValid slotOwned slotTask
  rw [h]

theorem mem_taskSlots {k : Nat} {out : Bool} : n ∈ s.taskSlots k out ↔
    n < 8192 ∧ isOut n = out ∧ s.slotValid n = true ∧ s.slotOwned n = true ∧ s.slotTask n = k := by
  simp [taskSlots, and_assoc]

theorem taskSlots_nodup (s : Dev) (k : Nat) (out : Bool) : (s.taskSlots k out).Nodup := List.nodup_range.filter _

theorem hasCopy_slot (h : n < 8192) : Reg.CTL_SLOT.HasCopy n 0 0 := Reg.hasCopy_of_row h (by decide)

/-! ### A change of one slot -/

/-- The register of slot `n` aside, and what CTL keeps of commits, `t` stands as `s` does. -/
structure SlotOnly (n : Nat) (s t : Dev) : Prop where
  regs : RegsBut [.CTL_SLOT] s t
  other : ∀ m < 8192, m ≠ n → t.reg .CTL_SLOT m = s.reg .CTL_SLOT m
  rest : t = { s with regs := t.regs, ctl := { s.ctl with live := t.ctl.live, commits := t.ctl.commits } }

namespace SlotOnly

theorem refl (s : Dev) : SlotOnly n s s := ⟨.refl s, fun _ _ _ => rfl, rfl⟩

section
variable (h : SlotOnly n s t)
include h

theorem trans (g : SlotOnly n t u) : SlotOnly n s u :=
  ⟨h.regs.trans g.regs, fun m hm hne => (g.other m hm hne).trans (h.other m hm hne), by rw [g.rest, h.rest]⟩

theorem setFld {f : Fld} (hn : n < 8192) (hf : f.reg = .CTL_SLOT) (v : Nat) : SlotOnly n s (t.setFld f v n) := by
  have hcopy : f.reg.HasCopy n 0 0 := hf ▸ hasCopy_slot hn
  refine ⟨h.regs.setFld hcopy (by simp [hf]), fun m hm hne => ?_, ?_⟩
  · refine (reg_setReg_other _ ?_ _).trans (h.other m hm hne)
    rw [hf]
    exact (hasCopy_slot hm).addr_ne_of_index (hasCopy_slot hn) hne
  · have hframe : t.setFld f v n = { t with regs := (t.setFld f v n).regs } := rfl
    generalize (t.setFld f v n).regs = regs at hframe
    rw [hframe, h.rest]

theorem setFlag {f : Fld} (hn : n < 8192) (hf : f.reg = .CTL_SLOT) (b : Bool) : SlotOnly n s (t.setFlag f b n) := h.setFld hn hf _

theorem mem : t.mem = s.mem := by rw [h.rest]
theorem grm : t.grm = s.grm := by rw [h.rest]
theorem task (k : Nat) : t.task k = s.task k := by rw [h.rest]; rfl

theorem slotEnt : t.slotEnt = s.slotEnt := h.regs.slotEnt (by decide) h.mem h.grm

theorem reg {r : Reg} {i : Nat} (hr : r.HasCopy i 0 0) (hne : r ≠ .CTL_SLOT) : t.reg r i = s.reg r i := h.regs.reg _ _ _ _ hr (by simpa using hne)

theorem fld {f : Fld} {i : Nat} (hr : f.reg.HasCopy i 0 0) (hne : f.reg ≠ .CTL_SLOT) : t.fld f i = s.fld f i := h.regs.fld hr (by simpa using hne)

theorem flag {f : Fld} {i : Nat} (hr : f.reg.HasCopy i 0 0) (hne : f.reg ≠ .CTL_SLOT) : t.flag f i = s.flag f i := h.regs.flag hr (by simpa using hne)

end

theorem counted (s : Dev) (c : CtlSt) (h : c = { s.ctl with live := c.live, commits := c.commits }) : SlotOnly n s { s with ctl := c } :=
  ⟨.of_regs rfl, fun _ _ _ => rfl, by rw [h]⟩

end SlotOnly

/-! ### What a slot shows (R420, R421) -/

theorem slotShow_eq (n : Nat) (s : Dev) : s.slotShow n =
    if isOut n || (s.setFld .CTL_SLOT_LAST (s.lastOf n) n).slotOwned n then s.setFld .CTL_SLOT_LAST (s.lastOf n) n
    else (s.setFld .CTL_SLOT_LAST (s.lastOf n) n).setFld .CTL_SLOT_QUAL (if s.flag .CTL_SLOT_FORCED n then 3 else if s.flag .CTL_SLOT_LOST n then 2 else 0) n := by
  unfold slotShow
  extract_lets shown
  have hforced : shown.flag .CTL_SLOT_FORCED n = s.flag .CTL_SLOT_FORCED n := flag_setFld_of_beside s (by decide) (by decide) (by decide) _
  have hlost : shown.flag .CTL_SLOT_LOST n = s.flag .CTL_SLOT_LOST n := flag_setFld_of_beside s (by decide) (by decide) (by decide) _
  rw [hforced, hlost]

theorem slotShow_only (hn : n < 8192) (s : Dev) : SlotOnly n s (s.slotShow n) := by
  rw [slotShow_eq]
  split
  · exact (SlotOnly.refl s).setFld hn rfl _
  · exact ((SlotOnly.refl s).setFld hn rfl _).setFld hn rfl _

/-- The display of a slot leaves the fields below its quality, those between and those above. -/
theorem slotShow_fld (s : Dev) {f : Fld} (hreg : f.reg = .CTL_SLOT) (hlast : f.hi < 24 ∨ 25 < f.lo) (hqual : f.hi < 8 ∨ 9 < f.lo) :
    (s.slotShow n).fld f n = s.fld f n := by
  have hbeside : (s.setFld .CTL_SLOT_LAST (s.lastOf n) n).fld f n = s.fld f n := fld_setFld_of_beside s (by decide) hreg hlast _
  rw [slotShow_eq]
  split
  · exact hbeside
  · exact (fld_setFld_of_beside _ (by decide) hreg hqual _).trans hbeside

theorem slotShow_flag (s : Dev) {f : Fld} (hreg : f.reg = .CTL_SLOT) (hlast : f.hi < 24 ∨ 25 < f.lo) (hqual : f.hi < 8 ∨ 9 < f.lo) :
    (s.slotShow n).flag f n = s.flag f n := congrArg (· != 0) (slotShow_fld s hreg hlast hqual)

theorem lastOf_lt (s : Dev) (n : Nat) : s.lastOf n < 4 := by
  have hlate : s.fld .CTL_SLOT_N n < 4 := s.fld_lt ..
  have hfront : s.fld .CTL_SLOT_F n < 4 := s.fld_lt ..
  unfold lastOf
  split_ifs <;> omega

theorem slotShow_last (s : Dev) (n : Nat) : (s.slotShow n).fld .CTL_SLOT_LAST n = s.lastOf n := by
  have hshown : (s.setFld .CTL_SLOT_LAST (s.lastOf n) n).fld .CTL_SLOT_LAST n = s.lastOf n := fld_setFld_of_fits s (by decide) (lastOf_lt s n)
  rw [slotShow_eq]
  split
  · exact hshown
  · exact (fld_setFld_of_beside _ (by decide) (by decide) (by decide) _).trans hshown

/-- The quality of an owned slot is its latch's. -/
theorem slotShow_qual (h : s.slotOwned n = true) (hn : n < 8192) : (s.slotShow n).fld .CTL_SLOT_QUAL n = s.fld .CTL_SLOT_QUAL n := by
  have howned : (s.setFld .CTL_SLOT_LAST (s.lastOf n) n).slotOwned n = true :=
    (slotOwned_congr ((SlotOnly.refl s).setFld hn rfl _).slotEnt n).trans h
  rw [slotShow_eq, howned, Bool.or_true, if_pos rfl]
  exact fld_setFld_of_beside s (by decide) (by decide) (by decide) _

theorem lastOf_out (h : isOut n = true) : s.lastOf n = if s.flag .CTL_STATUS_HOLD = true ∨ s.ctl.live.get n = false then 3 else s.fld .CTL_SLOT_N n := by
  simp [lastOf, h]

theorem lastOf_in (h : isOut n = false) : s.lastOf n = if s.flag .CTL_SLOT_FORCED n then 3
    else if s.flag .CTL_SLOT_PEND n = true ∨ s.slotOwned n = false then s.fld .CTL_SLOT_N n else s.fld .CTL_SLOT_F n := by
  simp [lastOf, h]

/-! ### Commits (R417, R419) -/

/-- The three copies of a slot. -/
def copies (s : Dev) (n : Nat) : Nat × Nat × Nat := (s.fld .CTL_SLOT_B n, s.fld .CTL_SLOT_N n, s.fld .CTL_SLOT_F n)

theorem slotSeq_seq (s : Dev) (n : Nat) : (s.slotSeq n).fld .CTL_SLOT_SEQ n = (s.fld .CTL_SLOT_SEQ n + 1) % 256 :=
  fld_setFld_of_fits s (by decide) (Nat.mod_lt _ (by decide))

theorem slotSeq_fld (s : Dev) {f : Fld} (hreg : f.reg = .CTL_SLOT) (hbits : f.hi < 16 ∨ 23 < f.lo) : (s.slotSeq n).fld f n = s.fld f n :=
  fld_setFld_of_beside s (by decide) hreg hbits _

theorem slotSeq_flag (s : Dev) {f : Fld} (hreg : f.reg = .CTL_SLOT) (hbits : f.hi < 16 ∨ 23 < f.lo) : (s.slotSeq n).flag f n = s.flag f n :=
  congrArg (· != 0) (slotSeq_fld s hreg hbits)

/-- The device that a commit of an input slot shows: B and N swapped, PEND set, LOST cleared, SEQ moved on. -/
def inSwapped (n : Nat) (s : Dev) : Dev :=
  (((({ s with ctl := { s.ctl with commits := s.ctl.commits.upd n (· + 1) } } : Dev).setFld .CTL_SLOT_B (s.fld .CTL_SLOT_N n) n).setFld .CTL_SLOT_N
    (s.fld .CTL_SLOT_B n) n).setFlag .CTL_SLOT_PEND true n).setFlag .CTL_SLOT_LOST false n |>.slotSeq n

theorem inCommit_eq (n : Nat) (s : Dev) : s.inCommit n = (s.inSwapped n).slotShow n := rfl

theorem inSwapped_copies (s : Dev) (n : Nat) : (s.inSwapped n).copies n = (s.fld .CTL_SLOT_N n, s.fld .CTL_SLOT_B n, s.fld .CTL_SLOT_F n) := by
  unfold copies inSwapped
  rw [slotSeq_fld _ rfl (by decide), slotSeq_fld _ rfl (by decide), slotSeq_fld _ rfl (by decide)]
  simp +decide [setFlag]
  rfl

theorem inSwapped_flags (s : Dev) (n : Nat) : (s.inSwapped n).flag .CTL_SLOT_PEND n = true ∧ (s.inSwapped n).flag .CTL_SLOT_LOST n = false ∧
    (s.inSwapped n).flag .CTL_SLOT_FORCED n = s.flag .CTL_SLOT_FORCED n ∧ (s.inSwapped n).fld .CTL_SLOT_SEQ n = (s.fld .CTL_SLOT_SEQ n + 1) % 256 := by
  unfold inSwapped
  rw [slotSeq_flag _ rfl (by decide), slotSeq_flag _ rfl (by decide), slotSeq_flag _ rfl (by decide), slotSeq_seq]
  simp +decide [setFlag]
  exact ⟨rfl, rfl⟩

theorem inSwapped_only (hn : n < 8192) (s : Dev) : SlotOnly n s (s.inSwapped n) :=
  (((((SlotOnly.counted s _ rfl).setFld hn rfl _).setFld hn rfl _).setFlag hn rfl _).setFlag hn rfl _).setFld hn rfl _

theorem inCommit_only (hn : n < 8192) (s : Dev) : SlotOnly n s (s.inCommit n) := (inSwapped_only hn s).trans (slotShow_only hn _)

theorem slotShow_copies (s : Dev) (n : Nat) : (s.slotShow n).copies n = s.copies n := by
  unfold copies
  rw [slotShow_fld s rfl (by decide) (by decide), slotShow_fld s rfl (by decide) (by decide), slotShow_fld s rfl (by decide) (by decide)]

/-- The commit of an input slot (R417). -/
theorem inCommit_commits (s : Dev) (h : isOut n = false) : let e := s.inCommit n
    e.copies n = (s.fld .CTL_SLOT_N n, s.fld .CTL_SLOT_B n, s.fld .CTL_SLOT_F n) ∧ e.flag .CTL_SLOT_PEND n = true ∧ e.flag .CTL_SLOT_LOST n = false ∧
      e.fld .CTL_SLOT_SEQ n = (s.fld .CTL_SLOT_SEQ n + 1) % 256 ∧
      e.fld .CTL_SLOT_LAST n = if s.flag .CTL_SLOT_FORCED n then 3 else s.fld .CTL_SLOT_B n := by
  obtain ⟨hpend, hlost, hforced, hseq⟩ := inSwapped_flags s n
  have hcopies := inSwapped_copies s n
  have hlate : (s.inSwapped n).fld .CTL_SLOT_N n = s.fld .CTL_SLOT_B n := congrArg (·.2.1) hcopies
  simp only [inCommit_eq]
  refine ⟨(slotShow_copies ..).trans hcopies, ?_, ?_, ?_, ?_⟩
  · rw [slotShow_flag _ rfl (by decide) (by decide), hpend]
  · rw [slotShow_flag _ rfl (by decide) (by decide), hlost]
  · rw [slotShow_fld _ rfl (by decide) (by decide), hseq]
  · rw [slotShow_last, lastOf_in h, hforced, hpend, hlate, if_pos (Or.inl rfl)]

/-- The device that a commit of an output slot shows: N to F, B to N, F to B; `live` whether pick-ups then read copy N. -/
def outTurned (live : Bool) (n : Nat) (s : Dev) : Dev :=
  let d := (((s.setFld .CTL_SLOT_F (s.fld .CTL_SLOT_N n) n).setFld .CTL_SLOT_N (s.fld .CTL_SLOT_B n) n).setFld .CTL_SLOT_B (s.fld .CTL_SLOT_F n) n).slotSeq n
  { d with ctl := { d.ctl with live := d.ctl.live.set n live, commits := d.ctl.commits.upd n (· + 1) } }

theorem outCommit_eq (live : Bool) (n : Nat) (s : Dev) : s.outCommit live n = (s.outTurned live n).slotShow n := rfl

theorem outTurned_only (live : Bool) (hn : n < 8192) (s : Dev) : SlotOnly n s (s.outTurned live n) :=
  ((((SlotOnly.refl s).setFld hn rfl _).setFld hn rfl _).setFld hn rfl _).setFld hn rfl _ |>.trans (.counted _ _ rfl)

theorem outCommit_only (live : Bool) (hn : n < 8192) (s : Dev) : SlotOnly n s (s.outCommit live n) :=
  (outTurned_only live hn s).trans (slotShow_only hn _)

theorem outTurned_copies (live : Bool) (s : Dev) (n : Nat) :
    (s.outTurned live n).copies n = (s.fld .CTL_SLOT_F n, s.fld .CTL_SLOT_B n, s.fld .CTL_SLOT_N n) := by
  have hturned : (s.outTurned live n).copies n = ((((s.setFld .CTL_SLOT_F (s.fld .CTL_SLOT_N n) n).setFld .CTL_SLOT_N (s.fld .CTL_SLOT_B n) n).setFld
    .CTL_SLOT_B (s.fld .CTL_SLOT_F n) n).slotSeq n).copies n := rfl
  rw [hturned]
  unfold copies
  rw [slotSeq_fld _ rfl (by decide), slotSeq_fld _ rfl (by decide), slotSeq_fld _ rfl (by decide)]
  simp +decide

theorem outTurned_seq (live : Bool) (s : Dev) (n : Nat) : (s.outTurned live n).fld .CTL_SLOT_SEQ n = (s.fld .CTL_SLOT_SEQ n + 1) % 256 := by
  refine (slotSeq_seq _ n).trans ?_
  simp +decide

theorem outTurned_live (live : Bool) (s : Dev) (n : Nat) : (s.outTurned live n).ctl.live.get n = live := Tab.get_set_same ..

/-- The commit of an output slot (R419). -/
theorem outCommit_commits (live : Bool) (s : Dev) (h : isOut n = true) (hn : n < 8192) : let e := s.outCommit live n
    e.copies n = (s.fld .CTL_SLOT_F n, s.fld .CTL_SLOT_B n, s.fld .CTL_SLOT_N n) ∧ e.fld .CTL_SLOT_SEQ n = (s.fld .CTL_SLOT_SEQ n + 1) % 256 ∧
      e.fld .CTL_SLOT_LAST n = if s.flag .CTL_STATUS_HOLD = true ∨ live = false then 3 else s.fld .CTL_SLOT_B n := by
  have hcopies := outTurned_copies live s n
  have hlate : (s.outTurned live n).fld .CTL_SLOT_N n = s.fld .CTL_SLOT_B n := congrArg (·.2.1) hcopies
  have hhold : (s.outTurned live n).flag .CTL_STATUS_HOLD = s.flag .CTL_STATUS_HOLD :=
    (outTurned_only live hn s).flag (Reg.hasCopy_alone rfl) (by decide)
  simp only [outCommit_eq]
  refine ⟨(slotShow_copies ..).trans hcopies, ?_, ?_⟩
  · rw [slotShow_fld _ rfl (by decide) (by decide), outTurned_seq]
  · rw [slotShow_last, lastOf_out h, hhold, outTurned_live, hlate]

/-! ### The latch of a slot (R418, R421) -/

/-- The copies of an input slot at its latch: new data move to F. -/
def latchMoved (n : Nat) (s : Dev) : Dev :=
  if s.flag .CTL_SLOT_PEND n then
    ((s.setFld .CTL_SLOT_F (s.fld .CTL_SLOT_N n) n).setFld .CTL_SLOT_N (s.fld .CTL_SLOT_F n) n).setFlag .CTL_SLOT_PEND false n
  else s

/-- The quality of an input slot at its latch by the table of R421. -/
def latchQual (t n : Nat) (s : Dev) : Nat :=
  if s.flag .CTL_SLOT_FORCED n then 3 else if !s.flag .CTL_SLOT_LOST n then 0
  else if s.fld .CTL_SLOT_STALE_N n < s.fld .CTL_TASK_HOLD_HOLD_CYC t then 1 else 2

/-- The latches since the loss of an input slot's station. -/
def latchStale (n : Nat) (s : Dev) : Nat :=
  if s.flag .CTL_SLOT_LOST n then min 15 (s.fld .CTL_SLOT_STALE_N n + 1) else s.fld .CTL_SLOT_STALE_N n

theorem latchSlot_eq (t n : Nat) (s : Dev) : s.latchSlot t n = (s.flag .CTL_SLOT_PEND n, (((s.latchMoved n).setFld .CTL_SLOT_QUAL
    ((s.latchMoved n).latchQual t n) n).setFld .CTL_SLOT_STALE_N ((s.latchMoved n).latchStale n) n).slotShow n) := rfl

theorem latchMoved_only (hn : n < 8192) (s : Dev) : SlotOnly n s (s.latchMoved n) := by
  unfold latchMoved
  split
  · exact (((SlotOnly.refl s).setFld hn rfl _).setFld hn rfl _).setFlag hn rfl _
  · exact .refl s

theorem latchMoved_fld (s : Dev) (n : Nat) {f : Fld} (hreg : f.reg = .CTL_SLOT) (hlo : 6 < f.lo) : (s.latchMoved n).fld f n = s.fld f n := by
  unfold latchMoved
  split
  · have hfront := fld_setFld_of_beside s (f := .CTL_SLOT_F) (i := n) (j := 0) (k := 0) (by decide) hreg (.inr (Nat.lt_trans (by decide) hlo)) (s.fld .CTL_SLOT_N n)
    exact ((fld_setFld_of_beside _ (by decide) hreg (.inr hlo) _).trans
      (fld_setFld_of_beside _ (by decide) hreg (.inr (Nat.lt_trans (by decide) hlo)) _)).trans hfront
  · rfl

theorem latchMoved_copies (s : Dev) (n : Nat) : (s.latchMoved n).copies n =
    (if s.flag .CTL_SLOT_PEND n then (s.fld .CTL_SLOT_B n, s.fld .CTL_SLOT_F n, s.fld .CTL_SLOT_N n) else s.copies n) ∧
      (s.latchMoved n).flag .CTL_SLOT_PEND n = false := by
  unfold latchMoved
  split
  · unfold copies
    simp +decide [setFlag]
  · next hpend => exact ⟨rfl, by simpa using hpend⟩

end Dev

end Sys2Proof.Machine
end

section
/-! The latch of a slot, and the writes of the CTL page that change one slot (R417, R418, R421, R422). -/

namespace Sys2Proof.Machine

namespace Dev
variable {l : List Reg} {s t u : Dev} {n : Nat} {who : Agent}

/-! ### The latch -/

/-- A register of the tasks has a copy for each of them. -/
theorem hasCopy_task {r : Reg} {k : Nat} (hk : k < 16) (h : r.info.strides.map Prod.snd = [16]) : r.HasCopy k 0 0 := Reg.hasCopy_of_row hk h

/-- The device in which the latch of a slot has moved its copies and set its quality and count. -/
def latchSet (k n : Nat) (s : Dev) : Dev := ((s.latchMoved n).setFld .CTL_SLOT_QUAL (s.latchQual k n) n).setFld .CTL_SLOT_STALE_N (s.latchStale n) n

theorem latchSlot_snd {k : Nat} (hk : k < 16) (hn : n < 8192) (s : Dev) : (s.latchSlot k n).2 = (s.latchSet k n).slotShow n := by
  have hforced : (s.latchMoved n).flag .CTL_SLOT_FORCED n = s.flag .CTL_SLOT_FORCED n := congrArg (· != 0) (latchMoved_fld s n rfl (by decide))
  have hlost : (s.latchMoved n).flag .CTL_SLOT_LOST n = s.flag .CTL_SLOT_LOST n := congrArg (· != 0) (latchMoved_fld s n rfl (by decide))
  have hstale : (s.latchMoved n).fld .CTL_SLOT_STALE_N n = s.fld .CTL_SLOT_STALE_N n := latchMoved_fld s n rfl (by decide)
  have hhold : (s.latchMoved n).fld .CTL_TASK_HOLD_HOLD_CYC k = s.fld .CTL_TASK_HOLD_HOLD_CYC k :=
    (latchMoved_only hn s).fld (hasCopy_task hk (by decide)) (by decide)
  rw [latchSlot_eq]
  unfold latchSet latchQual latchStale
  rw [hforced, hlost, hstale, hhold]

theorem latchSet_only (k : Nat) (hn : n < 8192) (s : Dev) : SlotOnly n s (s.latchSet k n) :=
  ((latchMoved_only hn s).setFld hn rfl _).setFld hn rfl _

theorem latchSlot_only {k : Nat} (hk : k < 16) (hn : n < 8192) (s : Dev) : SlotOnly n s (s.latchSlot k n).2 := by
  rw [latchSlot_snd hk hn]
  exact (latchSet_only k hn s).trans (slotShow_only hn _)

theorem latchQual_lt (s : Dev) (k n : Nat) : s.latchQual k n < 4 := by
  unfold latchQual
  split_ifs <;> decide

theorem latchStale_lt (s : Dev) (n : Nat) : s.latchStale n < 16 := by
  have hstale : s.fld .CTL_SLOT_STALE_N n < 16 := s.fld_lt ..
  unfold latchStale
  split_ifs <;> omega

/-- Fields that share no bit with the quality and the stale count are as the moves have left them. -/
theorem latchSet_fld (s : Dev) (k n : Nat) {f : Fld} (hreg : f.reg = .CTL_SLOT) (hqual : f.hi < 8 ∨ 9 < f.lo) (hstale : f.hi < 11 ∨ 14 < f.lo) :
    (s.latchSet k n).fld f n = (s.latchMoved n).fld f n :=
  (fld_setFld_of_beside _ (by decide) hreg hstale _).trans (fld_setFld_of_beside _ (by decide) hreg hqual _)

theorem latchSet_copies (s : Dev) (k n : Nat) : (s.latchSet k n).copies n = (s.latchMoved n).copies n := by
  unfold copies
  rw [latchSet_fld s k n rfl (by decide) (by decide), latchSet_fld s k n rfl (by decide) (by decide), latchSet_fld s k n rfl (by decide) (by decide)]

theorem latchSet_quality (s : Dev) (k n : Nat) :
    (s.latchSet k n).fld .CTL_SLOT_QUAL n = s.latchQual k n ∧ (s.latchSet k n).fld .CTL_SLOT_STALE_N n = s.latchStale n :=
  ⟨(fld_setFld_of_beside _ (by decide) (by decide) (by decide) _).trans (fld_setFld_of_fits _ (by decide) (latchQual_lt ..)),
    fld_setFld_of_fits _ (by decide) (latchStale_lt ..)⟩

/-- The latch of an input slot of a task (R418, R421): new data move to F, the quality follows LOST, FORCED and the stale count. -/
theorem latchSlot_latches {k : Nat} (hk : k < 16) (hn : n < 8192) (hin : isOut n = false) (howned : s.slotOwned n = true) :
    let e := (s.latchSlot k n).2
    e.copies n = (if s.flag .CTL_SLOT_PEND n then (s.fld .CTL_SLOT_B n, s.fld .CTL_SLOT_F n, s.fld .CTL_SLOT_N n) else s.copies n) ∧
      e.flag .CTL_SLOT_PEND n = false ∧ e.fld .CTL_SLOT_QUAL n = s.latchQual k n ∧ e.fld .CTL_SLOT_STALE_N n = s.latchStale n ∧
      e.fld .CTL_SLOT_LAST n = (if s.flag .CTL_SLOT_FORCED n then 3 else if s.flag .CTL_SLOT_PEND n then s.fld .CTL_SLOT_N n else s.fld .CTL_SLOT_F n) := by
  obtain ⟨hmoved, hpend⟩ := latchMoved_copies s n
  have hcopies := (latchSet_copies s k n).trans hmoved
  obtain ⟨hqual, hstale⟩ := latchSet_quality s k n
  have hpend : (s.latchSet k n).flag .CTL_SLOT_PEND n = false := (congrArg (· != 0) (latchSet_fld s k n rfl (by decide) (by decide))).trans hpend
  have hforced : (s.latchSet k n).flag .CTL_SLOT_FORCED n = s.flag .CTL_SLOT_FORCED n :=
    (congrArg (· != 0) (latchSet_fld s k n rfl (by decide) (by decide))).trans (congrArg (· != 0) (latchMoved_fld s n rfl (by decide)))
  have howned : (s.latchSet k n).slotOwned n = true := (slotOwned_congr (latchSet_only k hn s).slotEnt n).trans howned
  have hfront : (s.latchSet k n).fld .CTL_SLOT_F n = if s.flag .CTL_SLOT_PEND n then s.fld .CTL_SLOT_N n else s.fld .CTL_SLOT_F n := by
    refine (congrArg (·.2.2) hcopies).trans ?_
    split <;> rfl
  simp only [latchSlot_snd hk hn]
  refine ⟨(slotShow_copies ..).trans hcopies, ?_, ?_, ?_, ?_⟩
  · rw [slotShow_flag _ rfl (by decide) (by decide), hpend]
  · rw [slotShow_qual howned hn, hqual]
  · rw [slotShow_fld _ rfl (by decide) (by decide), hstale]
  · rw [slotShow_last, lastOf_in hin, hforced, hpend, howned, hfront]
    simp

/-! ### Losses and forces (R421, R422) -/

theorem lossReport_lost {i : Nat} (hvalid : s.slotValid (2 * i) = true) : let e := s.lossReport i
    e.flag .CTL_SLOT_LOST (2 * i) = true ∧ e.copies (2 * i) = s.copies (2 * i) ∧
      (s.flag .CTL_SLOT_LOST (2 * i) = false → e.fld .CTL_SLOT_STALE_N (2 * i) = 0) := by
  unfold lossReport
  simp only [hvalid, Bool.not_true, Bool.false_eq_true, if_false]
  split
  · next hlost => exact ⟨hlost, rfl, by simp [hlost]⟩
  · refine ⟨?_, ?_, fun _ => ?_⟩
    · rw [slotShow_flag _ rfl (by decide) (by decide)]
      simp +decide [setFlag]
    · rw [slotShow_copies]
      unfold copies
      simp +decide [setFlag]
    · rw [slotShow_fld _ rfl (by decide) (by decide)]
      simp +decide

/-- FORCED of an input slot is written by Patrol. -/
theorem slotForce_forces (hn : n < 8192) (hin : isOut n = false) (hvalid : s.slotValid n = true) (en : Bool) : let e := s.slotForce n 0x40 en
    e.flag .CTL_SLOT_FORCED n = en ∧ e.copies n = s.copies n ∧ e.fld .CTL_SLOT_LAST n =
      if en then 3 else if s.flag .CTL_SLOT_PEND n = true ∨ s.slotOwned n = false then s.fld .CTL_SLOT_N n else s.fld .CTL_SLOT_F n := by
  have hforce : s.slotForce n 0x40 en = (s.setFlag .CTL_SLOT_FORCED en n).slotShow n := by simp [slotForce, hin, hvalid]
  have howned : (s.setFlag .CTL_SLOT_FORCED en n).slotOwned n = s.slotOwned n :=
    slotOwned_congr ((SlotOnly.refl s).setFlag (f := .CTL_SLOT_FORCED) hn rfl en).slotEnt n
  simp only [hforce]
  refine ⟨?_, ?_, ?_⟩
  · rw [slotShow_flag _ rfl (by decide) (by decide)]
    simp +decide [setFlag]
  · rw [slotShow_copies]
    unfold copies
    simp +decide [setFlag]
  · rw [slotShow_last, lastOf_in hin, howned]
    simp +decide [setFlag]

/-! ### The writes of the page -/

/-- What CTL reads of the slot table, and what a write leaves of its own register, changes no slot. -/
def slotRowRegs : List Reg := .CTL_COMMIT :: .CTL_LOSS :: .CTL_FORCE :: .CTL_ARITH :: .CTL_MISUSE_CNT :: readRegs

theorem readEnts_only (s : Dev) (as : List Nat) : RegsOnly slotRowRegs s (s.readEnts as) := (RegsOnly.refl s).touch (by decide)

theorem readEnts_plain_only (s : Dev) (as : List Nat) {r : Reg} (v : Nat) (hr : r ∈ [Reg.CTL_COMMIT, .CTL_LOSS, .CTL_FORCE]) :
    RegsOnly slotRowRegs s ((s.readEnts as).plain r v) := by
  simp only [List.mem_cons, List.not_mem_nil, or_false] at hr
  obtain rfl | rfl | rfl := hr <;>
    exact (readEnts_only s as).plain (Reg.hasCopy_alone rfl) (Reg.hasCopy_alone rfl) (by decide) (by decide)

theorem RegsOnly.copies (h : RegsOnly l s t) (hn : n < 8192) (hl : .CTL_SLOT ∉ l) : t.copies n = s.copies n := by
  unfold Dev.copies
  rw [h.regs.fld (f := .CTL_SLOT_B) (hasCopy_slot hn) hl, h.regs.fld (f := .CTL_SLOT_N) (hasCopy_slot hn) hl,
    h.regs.fld (f := .CTL_SLOT_F) (hasCopy_slot hn) hl]

theorem rowWrite_commit (h : s.reaches who .CTL_COMMIT 0 0 true) {v : Nat} (hv : v < 8192) :
    s.rowWrite who .CTL_COMMIT v = if s.slotValid v then ((s.readEnts [v]).plain .CTL_COMMIT v).slotCommit v else (s.readEnts [v]).count .CTL_MISUSE_CNT := by
  have hbits : bits v 12 0 = v := bits_of_lt hv
  have hvalid := slotValid_congr ((readEnts_only s [v]).slotEnt (by decide)) v
  rw [rowWrite_single rfl h]
  change (if (s.readEnts [bits v 12 0]).slotValid (bits v 12 0) then _ else _) = _
  rw [hbits, hvalid]
  rfl

theorem rowWrite_loss (h : s.reaches who .CTL_LOSS 0 0 true) {v : Nat} (hv : v < 4096) (hvalid : s.slotValid (2 * v) = true) :
    s.rowWrite who .CTL_LOSS v = ((s.readEnts [2 * v]).plain .CTL_LOSS v).lossReport v := by
  have hbits : bits v 11 0 = v := bits_of_lt hv
  have hentry : (s.readEnts [2 * v]).slotValid (2 * v) = true := (slotValid_congr ((readEnts_only s [2 * v]).slotEnt (by decide)) _).trans hvalid
  rw [rowWrite_single rfl h]
  change (if (s.readEnts [2 * bits v 11 0]).slotValid (2 * bits v 11 0) then ((s.readEnts [2 * bits v 11 0]).plain .CTL_LOSS v).lossReport (bits v 11 0) else _) = _
  rw [hbits, if_pos hentry]

theorem rowWrite_force (h : s.reaches who .CTL_FORCE 0 0 true) {v : Nat} (hn : bits v 12 0 = n) :
    s.rowWrite who .CTL_FORCE v = if who.mid ≠ 0x40 ∨ isOut n = true ∨ s.slotValid n = false then (s.readEnts [n]).count .CTL_MISUSE_CNT
      else ((s.readEnts [n]).plain .CTL_FORCE v).slotForce n who.mid (bit v 13) := by
  have hvalid := slotValid_congr ((readEnts_only s [n]).slotEnt (by decide)) n
  rw [rowWrite_single rfl h]
  change (if who.mid ≠ 0x40 ∨ isOut (bits v 12 0) = true ∨ (!(s.readEnts [bits v 12 0]).slotValid (bits v 12 0)) = true then _ else
    ((s.readEnts [bits v 12 0]).plain .CTL_FORCE v).slotForce (bits v 12 0) who.mid (bit v 13)) = _
  simp only [hn, hvalid, Bool.not_eq_true']
  rfl

theorem rowWrite_arith (h : s.reaches who .CTL_ARITH 0 0 true) {v : Nat} (hv : v < 16) :
    s.rowWrite who .CTL_ARITH v = (s.plain .CTL_ARITH v).arithReport v := by
  have hbits : bits v 3 0 = v := bits_of_lt hv
  rw [rowWrite_single rfl h]
  change (s.plain .CTL_ARITH v).arithReport (bits v 3 0) = _
  rw [hbits]

end Dev

end Sys2Proof.Machine
end

section
/-! The cycle of a control task: its T0 with the exchange of its program, its release, its deadline (R418, R419, R424 to R429, R440). -/

namespace Sys2Proof.Machine

namespace Dev
variable {l : List Reg} {s t u : Dev} {k n t0 : Nat} {who : Agent}

@[simp] theorem updTask_reg (s : Dev) (k : Nat) (f : TaskSt → TaskSt) (r : Reg) (a b c : Nat) : (s.updTask k f).reg r a b c = s.reg r a b c := rfl
@[simp] theorem updTask_fld (s : Dev) (k : Nat) (f : TaskSt → TaskSt) (g : Fld) (a b c : Nat) : (s.updTask k f).fld g a b c = s.fld g a b c := rfl
@[simp] theorem updTask_flag (s : Dev) (k : Nat) (f : TaskSt → TaskSt) (g : Fld) (a b c : Nat) : (s.updTask k f).flag g a b c = s.flag g a b c := rfl
@[simp] theorem task_setReg (s : Dev) (k : Nat) (r : Reg) (v a b c : Nat) : (s.setReg r v a b c).task k = s.task k := rfl
@[simp] theorem task_setFld (s : Dev) (k : Nat) (g : Fld) (v a b c : Nat) : (s.setFld g v a b c).task k = s.task k := rfl
@[simp] theorem task_countBy (s : Dev) (k : Nat) (r : Reg) (v a b c : Nat) : (s.countBy v r a b c).task k = s.task k := rfl

theorem RegsOnly.task (h : RegsOnly l s t) (k : Nat) : t.task k = s.task k := congrArg (·.task.get k) h.ctl

theorem ctlBell_only (s : Dev) (f : Fld) : RegsOnly bellRegs s (s.ctlBell f) :=
  (RegsOnly.refl s).when fun _ h => h.ringMask (bits_lt ..) (List.Subset.refl _)

/-! ### T0 -/

/-- A task that coasts takes its next T0 from its last one, and nothing else changes. -/
theorem taskCoast_task (s : Dev) (k : Nat) : ∃ due, (s.taskCoast k).task k = { s.task k with due := due } := by
  unfold taskCoast
  split
  · exact ⟨_, task_updTask_same ..⟩
  · exact ⟨_, rfl⟩

theorem taskCoast_regs (s : Dev) (k : Nat) : (s.taskCoast k).regs = s.regs := by
  unfold taskCoast
  split <;> rfl

theorem taskCoast_mem (s : Dev) (k : Nat) : (s.taskCoast k).mem = s.mem := by
  unfold taskCoast
  split <;> rfl

/-- A T0 of a task arrives. -/
def t0Due (s : Dev) (k t0 : Nat) : Prop :=
  s.dueAt islSwitch (s.fld .CTL_TASK_CFG_TB k) t0 ≠ .ahead ∧ s.flag .CTL_TASK_CFG_EN k = true ∧ s.domOn .swc = true

/-- A T0 that arrives is skipped (R425). -/
def t0Skipped (s : Dev) (k t0 : Nat) : Prop := s.dueAt islSwitch (s.fld .CTL_TASK_CFG_TB k) t0 = .passed ∨ s.beforeDeadline k t0 = true

/-- A task has taken its next T0 from the queue. -/
def t0Taken (s : Dev) (k t0 : Nat) (rest : List Nat) : Dev :=
  s.updTask k fun x => { x with
    due := if bits (s.reg .CTL_TASK_CFG k) 2 1 = 0 then [(t0 + s.reg .CTL_TASK_PERIOD k) % 2 ^ 32] else rest
    cycle := (x.cycle + 1) % 65536, lastT0 := some t0 }

/-- The cycle of a T0 that is not skipped has opened. -/
def t0Opened (s : Dev) (k t0 : Nat) (rest : List Nat) : Dev :=
  ((((s.t0Taken k t0 rest).setReg .CTL_TASK_T0 t0 k).updTask k fun x => { x with isOpen := true, inTime := false, release := none, had := true }).taskCoast
    k).parTimely k false

theorem inputLatch_due {rest : List Nat} (hqueue : (s.task k).due = t0 :: rest) (hdue : s.t0Due k t0) : s.inputLatch k =
    if s.dueAt islSwitch (s.fld .CTL_TASK_CFG_TB k) t0 = .passed || s.beforeDeadline k t0 then ((s.t0Taken k t0 rest).count .CTL_SKIP_CNT k).taskCoast k
    else if (s.t0Opened k t0 rest).fld .CTL_TASK_STAT_RUN k ≠ 0 then s.t0Opened k t0 rest
    else ((s.t0Opened k t0 rest).exchangeAt k t0).latchTask k := by
  obtain ⟨hahead, hen, hon⟩ := hdue
  unfold inputLatch
  rw [hqueue]
  dsimp only
  rw [if_neg (by simp [hahead, hen, hon])]
  rfl

theorem inputLatch_skips {rest : List Nat} (hqueue : (s.task k).due = t0 :: rest) (hdue : s.t0Due k t0) (hskip : s.t0Skipped k t0) :
    s.inputLatch k = ((s.t0Taken k t0 rest).count .CTL_SKIP_CNT k).taskCoast k := by
  rw [inputLatch_due hqueue hdue, if_pos (by simpa [t0Skipped] using hskip)]

theorem inputLatch_opens {rest : List Nat} (hqueue : (s.task k).due = t0 :: rest) (hdue : s.t0Due k t0) (hskip : ¬ s.t0Skipped k t0) :
    s.inputLatch k = if (s.t0Opened k t0 rest).fld .CTL_TASK_STAT_RUN k ≠ 0 then s.t0Opened k t0 rest
      else ((s.t0Opened k t0 rest).exchangeAt k t0).latchTask k := by
  rw [inputLatch_due hqueue hdue, if_neg (by simpa [t0Skipped] using hskip)]

/-- A skipped T0 is counted and leaves the cycle as it is. -/
theorem skipped_task (s : Dev) (hk : k < 16) (t0 : Nat) (rest : List Nat) : let e := ((s.t0Taken k t0 rest).count .CTL_SKIP_CNT k).taskCoast k
    e.reg .CTL_SKIP_CNT k = min (s.reg .CTL_SKIP_CNT k + 1) 0xFFFFFFFF ∧ e.reg .CTL_TASK_T0 k = s.reg .CTL_TASK_T0 k ∧
      (e.task k).isOpen = (s.task k).isOpen ∧ (e.task k).cycle = ((s.task k).cycle + 1) % 65536 ∧ (e.task k).lastT0 = some t0 := by
  obtain ⟨due, htask⟩ := taskCoast_task ((s.t0Taken k t0 rest).count .CTL_SKIP_CNT k) k
  have hregs := taskCoast_regs ((s.t0Taken k t0 rest).count .CTL_SKIP_CNT k) k
  have hskips := hasCopy_task (r := .CTL_SKIP_CNT) hk (by decide)
  have ht0 := hasCopy_task (r := .CTL_TASK_T0) hk (by decide)
  refine ⟨(reg_congr hregs ..).trans (reg_count_same ..), (reg_congr hregs ..).trans ?_, ?_, ?_, ?_⟩
  · exact reg_countBy_of_apart (s.t0Taken k t0 rest) ht0 hskips (by decide) 1
  all_goals
    rw [htask]
    simp [t0Taken, count]

/-- The opening of a cycle latches T0 and changes no slot and no byte. -/
theorem t0Opened_task (s : Dev) (t0 : Nat) (rest : List Nat) : let e := s.t0Opened k t0 rest
    e.reg .CTL_TASK_T0 k = t0 % 2 ^ 32 ∧ (e.task k).isOpen = true ∧ (e.task k).inTime = false ∧ (e.task k).release = none ∧
      (e.task k).cycle = ((s.task k).cycle + 1) % 65536 := by
  let opened := ((s.t0Taken k t0 rest).setReg .CTL_TASK_T0 t0 k).updTask k fun x => { x with isOpen := true, inTime := false, release := none, had := true }
  obtain ⟨due, htask⟩ := taskCoast_task opened k
  have hregs : (s.t0Opened k t0 rest).regs = opened.regs := taskCoast_regs opened k
  have htask : (s.t0Opened k t0 rest).task k = { opened.task k with due := due } := htask
  refine ⟨(reg_congr hregs ..).trans (reg_setReg_same ..), ?_⟩
  simp only [htask]
  simp [opened, t0Taken]

theorem t0Opened_mem (s : Dev) (t0 : Nat) (rest : List Nat) : (s.t0Opened k t0 rest).mem = s.mem := taskCoast_mem ..

theorem t0Opened_regs (s : Dev) (hk : k < 16) (t0 : Nat) (rest : List Nat) : RegsBut [.CTL_TASK_T0] s (s.t0Opened k t0 rest) :=
  (RegsBut.setReg (.of_regs rfl) (hasCopy_task (r := .CTL_TASK_T0) hk (by decide)) List.mem_cons_self).trans (.of_regs (taskCoast_regs ..))

/-- Where PAR changes no roles at a T0, CTL latches alone (R452). -/
theorem latchAll_eq (h : k ≠ s.copyTask ∨ s.par.takeNext = false ∧ s.par.yieldSent = false) : s.latchAll k = s.inputLatch k := by
  unfold latchAll
  dsimp only
  congr 1
  obtain hother | ⟨htake, hyield⟩ := h
  · simp [hother]
  · simp [htake, hyield]

/-! ### The exchange of a program (R440) -/

/-- The device in which an exchange has taken place, before PROG_ID goes into the event log. -/
def exchanged (k : Nat) (s : Dev) : Dev :=
  (((((((s.setReg .CTL_TASK_CODE_LOW (s.reg .CTL_XCHG_ADDR_LOW k) k).setReg .CTL_TASK_CODE_HIGH (s.reg .CTL_XCHG_ADDR_HIGH k) k).setFlag
    .CTL_TASK_CTRL_PENDING false k).setFlag .CTL_TASK_CTRL_ARM false k).updTask k fun x => { x with ran := false, prev := s.taskCode k }).ctlBell
    .CTL_DB_EV_XCHG).modeUpdate)

theorem exchangeAt_exchanges (hpend : s.flag .CTL_TASK_CTRL_PENDING k = true) (hat : reached (s.reg .CTL_XCHG_AT k) t0 = true) :
    s.exchangeAt k t0 = (s.exchanged k).fresh.2.eventLog 0x40 (s.exchanged k).fresh.1
      [(s.exchanged k).fresh.2.view ((s.exchanged k).fresh.2.taskCode k + 8) 4, k] := by
  unfold exchangeAt
  rw [if_neg (by simp [hpend, hat])]
  dsimp only
  rfl

theorem exchangeAt_waits (h : ¬ (s.flag .CTL_TASK_CTRL_PENDING k = true ∧ reached (s.reg .CTL_XCHG_AT k) t0 = true)) : s.exchangeAt k t0 = s := by
  unfold exchangeAt
  rw [if_pos]
  cases hpend : s.flag .CTL_TASK_CTRL_PENDING k
  · rfl
  · simpa [hpend] using h

/-- The device whose program registers an exchange has written, before its doorbell and the mode. -/
def codeExchanged (k : Nat) (s : Dev) : Dev :=
  (((((s.setReg .CTL_TASK_CODE_LOW (s.reg .CTL_XCHG_ADDR_LOW k) k).setReg .CTL_TASK_CODE_HIGH (s.reg .CTL_XCHG_ADDR_HIGH k) k).setFlag
    .CTL_TASK_CTRL_PENDING false k).setFlag .CTL_TASK_CTRL_ARM false k).updTask k fun x => { x with ran := false, prev := s.taskCode k })

theorem exchanged_only (s : Dev) (k : Nat) : RegsOnly (.SYS_MODE :: bellRegs) (s.codeExchanged k) (s.exchanged k) :=
  (ctlBell_only ..).mono (List.subset_cons_self ..) |>.modeUpdate (List.Subset.refl _)

theorem exchanged_task (s : Dev) (hk : k < 16) : let f := s.exchanged k
    f.taskCode k = s.reg64 .CTL_XCHG_ADDR_LOW .CTL_XCHG_ADDR_HIGH k ∧ f.flag .CTL_TASK_CTRL_PENDING k = false ∧ (f.task k).ran = false ∧
      (f.task k).prev = s.taskCode k ∧ f.mem = s.mem := by
  have honly := exchanged_only s k
  have hlow := hasCopy_task (r := .CTL_TASK_CODE_LOW) hk (by decide)
  have hhigh := hasCopy_task (r := .CTL_TASK_CODE_HIGH) hk (by decide)
  have hpend : Fld.CTL_TASK_CTRL_PENDING.reg.HasCopy k 0 0 := hasCopy_task hk (by decide)
  have harm : Fld.CTL_TASK_CTRL_ARM.reg.HasCopy k 0 0 := hasCopy_task hk (by decide)
  have hword (r : Reg) : s.reg r k % 4294967296 = s.reg r k := Nat.mod_eq_of_lt (s.reg_lt ..)
  refine ⟨?_, ?_, ?_, ?_, honly.mem⟩
  · unfold taskCode reg64
    rw [honly.regs.reg _ _ _ _ hlow (by decide), honly.regs.reg _ _ _ _ hhigh (by decide)]
    simp +decide [codeExchanged, setFlag, hlow, hhigh, hpend, harm, hword]
  · rw [honly.regs.flag hpend (by decide)]
    simp +decide [codeExchanged, setFlag]
  · rw [honly.task]
    simp [codeExchanged]
  · rw [honly.task]
    simp [codeExchanged]

/-! ### The release of a run (R423, R426) -/

theorem tableWrite_idle (h : (s.task k).table = [] ∨ s.tableWaits k = true) : s.tableWrite k = s := by
  unfold tableWrite
  obtain h | h := h <;> simp [h]

theorem taskRelease_waits (htable : (s.task k).table ≠ []) (hwaits : s.tableWaits k = true) : s.taskRelease k = s := by
  unfold taskRelease
  dsimp only
  rw [tableWrite_idle (.inr hwaits), if_neg (by simpa using htable)]

/-- Once nothing of the latch table waits, its words stand in memory. -/
theorem tableWrite_task (h : (s.task k).table = [] ∨ s.tableWaits k = false) :
    ((s.tableWrite k).task k).table = [] ∧ ((s.tableWrite k).task k).release = (s.task k).release := by
  by_cases htable : (s.task k).table = []
  · rw [tableWrite_idle (.inl htable)]
    exact ⟨htable, rfl⟩
  · have hwritten : s.memOnly (s.each (List.range (s.task k).table.length) fun i d =>
        d.physWrite ctlMid ((s.task k).latch + 4 * i) (leBytes 4 ((s.task k).table.getD i 0))) :=
      each_keeps (P := s.memOnly) (fun _ _ _ h => h.trans (physWrite_frame ..).1) s (.rfl' s)
    unfold tableWrite
    dsimp only
    rw [if_neg (by simp [htable, h.resolve_left htable]), task_updTask_same, hwritten.task k]
    exact ⟨rfl, rfl⟩

/-- The push of a job of a task that CTL releases: the words of the job, and the device with the run taken from its release. -/
def releasePush (k size : Nat) (s : Dev) : PushRes × Dev :=
  let x := s.task k
  let mid := s.fld .CTL_TASK_STAT_ENG k
  let j := ((jobWords (putBits (putBit (putBits (s.reg .CTL_TASK_JOB0 k) 15 14 3) 16 true) 20 18 (mid % 8)) x.latch size 0x51 0
    (s.reg .CTL_TASK_T0 k * 256) (s.fld .CTL_TASK_CFG_TB k) (k + b2n (!x.ran) * 16 + x.cycle * 2 ^ 16)).set 6 (word x.prev)).set 7
      (word (x.prev / 2 ^ 32))
  (s.updTask k fun x => { x with release := none }).push (mid / 8) j (some (.ctl k))

theorem taskRelease_pushes {size : Nat} (hrelease : (s.task k).release = some size) (h : (s.task k).table = [] ∨ s.tableWaits k = false) :
    let p := (s.tableWrite k).releasePush k size
    s.taskRelease k = if p.1 = .refused then p.2.count .CTL_JOB_DROP_CNT
      else (p.2.setFld .CTL_TASK_STAT_RUN 1 k).updTask k fun x => { x with
        ran := true, prev := 0, runT0 := p.2.reg .CTL_TASK_T0 k, mig := x.prev, fresh := true,
        frames := [], tys := [] } := by
  obtain ⟨htable, hkept⟩ := tableWrite_task h
  have hnow : (if ((s.tableWrite k).task k).table.isEmpty = true then ((s.tableWrite k).task k).release else none) = some size := by
    rw [htable, hkept, hrelease]
    rfl
  unfold taskRelease
  dsimp only
  rw [hnow]
  dsimp only
  change (match (s.tableWrite k).releasePush k size with | (.refused, s) => _ | (_, s) => _) = _
  generalize (s.tableWrite k).releasePush k size = p
  obtain ⟨res, d⟩ := p
  cases res <;> rfl

end Dev

end Sys2Proof.Machine
end

section
/-! The deadline of a control task (R419, R427 to R429), the arming of an exchange and the end of SAFE (R429, R440). -/

namespace Sys2Proof.Machine

/-- The tables of live copies in which a list of slots is no longer live. -/
theorem Tab.get_foldl_set_false (as : List Nat) (n : Nat) (t : Tab Bool) :
    (as.foldl (fun t m => t.set m false) t).get n = if n ∈ as then false else t.get n := by
  induction as generalizing t with
  | nil => rfl
  | cons m as ih =>
    rw [List.foldl_cons, ih]
    by_cases hn : n = m
    · subst hn
      simp
    · simp [Tab.get_set_other _ _ hn, hn]

namespace Dev
variable {l : List Reg} {s t u : Dev} {k n : Nat} {who : Agent}

/-! ### The commit of a cycle that ended in time -/

theorem fld_of_reg {f : Fld} {a b c : Nat} (h : t.reg f.reg a b c = s.reg f.reg a b c) : t.fld f a b c = s.fld f a b c :=
  congrArg (bits · f.hi f.lo) h

theorem copies_of_reg (h : t.reg .CTL_SLOT n = s.reg .CTL_SLOT n) : t.copies n = s.copies n := by
  unfold copies
  rw [fld_of_reg (f := .CTL_SLOT_B) h, fld_of_reg (f := .CTL_SLOT_N) h, fld_of_reg (f := .CTL_SLOT_F) h]

theorem slotShow_ctl (s : Dev) (n : Nat) : (s.slotShow n).ctl = s.ctl := by
  rw [slotShow_eq]
  split <;> simp

/-- A walk through slots whose step changes one slot at a time. -/
theorem each_slot_kept {f : Nat → Dev → Dev} {as : List Nat} (hf : ∀ n ∈ as, ∀ d, SlotOnly n d (f n d)) (s : Dev) :
    RegsBut [.CTL_SLOT] s (s.each as f) ∧ (s.each as f).mem = s.mem ∧ ∀ k, (s.each as f).task k = s.task k := by
  refine each_keeps (P := fun d => RegsBut [.CTL_SLOT] s d ∧ d.mem = s.mem ∧ ∀ k, d.task k = s.task k) (fun n hn d hd => ?_) s ⟨.refl s, rfl, fun _ => rfl⟩
  obtain ⟨hregs, hmem, htask⟩ := hd
  have honly := hf n hn d
  exact ⟨hregs.trans honly.regs, honly.mem.trans hmem, fun k => (honly.task k).trans (htask k)⟩

/-- The commit of output slots (R419). -/
theorem each_outCommit {as : List Nat} (hnodup : as.Nodup) (hout : ∀ m ∈ as, m < 8192 ∧ isOut m = true) (live : Bool) (h : n ∈ as) (s : Dev) :
    let e := s.each as fun n d => d.outCommit live n
    e.copies n = (s.fld .CTL_SLOT_F n, s.fld .CTL_SLOT_B n, s.fld .CTL_SLOT_N n) ∧
      e.fld .CTL_SLOT_LAST n = if s.flag .CTL_STATUS_HOLD = true ∨ live = false then 3 else s.fld .CTL_SLOT_B n := by
  obtain ⟨hn, hodd⟩ := hout n h
  refine each_at (P := fun d => d.reg .CTL_SLOT n = s.reg .CTL_SLOT n ∧ d.flag .CTL_STATUS_HOLD = s.flag .CTL_STATUS_HOLD)
    (Q := fun e => e.copies n = (s.fld .CTL_SLOT_F n, s.fld .CTL_SLOT_B n, s.fld .CTL_SLOT_N n) ∧
      e.fld .CTL_SLOT_LAST n = if s.flag .CTL_STATUS_HOLD = true ∨ live = false then 3 else s.fld .CTL_SLOT_B n)
    hnodup h ?_ ?_ ?_ s ⟨rfl, rfl⟩
  · rintro m hm hne d ⟨hslot, hhold⟩
    have honly := outCommit_only live (hout m hm).1 d
    exact ⟨(honly.other n hn hne.symm).trans hslot, (honly.flag (Reg.hasCopy_alone rfl) (by decide)).trans hhold⟩
  · rintro d ⟨hslot, hhold⟩
    obtain ⟨hcopies, -, hlast⟩ := outCommit_commits live d hodd hn
    have hback : d.fld .CTL_SLOT_B n = s.fld .CTL_SLOT_B n := fld_of_reg hslot
    have hlate : d.fld .CTL_SLOT_N n = s.fld .CTL_SLOT_N n := fld_of_reg hslot
    have hfront : d.fld .CTL_SLOT_F n = s.fld .CTL_SLOT_F n := fld_of_reg hslot
    rw [hcopies, hlast, hback, hlate, hfront, hhold]
    exact ⟨rfl, rfl⟩
  · rintro m hm hne d ⟨hcopies, hlast⟩
    have hslot := (outCommit_only live (hout m hm).1 d).other n hn hne.symm
    exact ⟨(copies_of_reg hslot).trans hcopies, (fld_of_reg hslot).trans hlast⟩

/-- The display of output slots of which no copy is live (R420, R429). -/
theorem each_slotShow {as : List Nat} (hnodup : as.Nodup) (hout : ∀ m ∈ as, m < 8192 ∧ isOut m = true) (s : Dev) :
    (∀ m < 8192, (s.each as slotShow).copies m = s.copies m) ∧
      ∀ m ∈ as, s.ctl.live.get m = false → (s.each as slotShow).fld .CTL_SLOT_LAST m = 3 := by
  refine ⟨fun m hm => ?_, fun m hm hlive => ?_⟩
  · refine each_keeps (P := fun d => d.copies m = s.copies m) (fun n hn d hd => ?_) s rfl
    by_cases hne : m = n
    · subst hne
      exact (slotShow_copies ..).trans hd
    · exact (copies_of_reg ((slotShow_only (hout n hn).1 d).other m hm hne)).trans hd
  · obtain ⟨hlt, hodd⟩ := hout m hm
    refine each_at (P := fun d => d.ctl.live.get m = false) (Q := fun e => e.fld .CTL_SLOT_LAST m = 3) hnodup hm ?_ ?_ ?_ s hlive
    · intro n _ _ d hd
      rw [slotShow_ctl, hd]
    · intro d hd
      rw [slotShow_last, lastOf_out hodd, if_pos (.inr hd)]
    · intro n hn hne d hd
      exact (fld_of_reg ((slotShow_only (hout n hn).1 d).other m hlt hne.symm)).trans hd

/-- A task whose cycle is over. -/
def closed (k : Nat) (s : Dev) : Dev := s.updTask k fun x => { x with isOpen := false, inTime := false, release := none }

/-- The output slots of a task at a commit: PAR takes them, or CTL turns each. -/
def slotsTurned (k : Nat) (s : Dev) : Dev :=
  if s.parHolds k then s.parTimely k true else s.each (s.taskSlots k true) fun n d => d.outCommit (!s.flag .CTL_TASK_STAT_SAFE k) n

/-- A cycle that ended in time has been counted. -/
def runCounted (k : Nat) (s : Dev) : Dev :=
  (((s.slotsTurned k).count .CTL_RUN_CNT k).setFld .CTL_TASK_STAT_CONSEC 0 k).updTask k fun x => { x with streak := x.streak + 1 }

theorem taskCommit_eq (k : Nat) (s : Dev) : s.taskCommit k = s.runCounted k ∨ s.taskCommit k = (s.runCounted k).leaveSafe k := by
  unfold taskCommit
  extract_lets safe turned counted done
  split
  · exact .inr rfl
  · exact .inl rfl

theorem mem_taskSlots_lt {out : Bool} (h : n ∈ s.taskSlots k out) : n < 8192 := (mem_taskSlots.mp h).1

theorem taskSlots_out (s : Dev) (k : Nat) : ∀ m ∈ s.taskSlots k true, m < 8192 ∧ isOut m = true := fun _ hm =>
  ⟨(mem_taskSlots.mp hm).1, (mem_taskSlots.mp hm).2.1⟩

theorem slotsTurned_kept (s : Dev) (k : Nat) :
    RegsBut [.CTL_SLOT] s (s.slotsTurned k) ∧ (s.slotsTurned k).mem = s.mem ∧ (s.slotsTurned k).task k = s.task k := by
  have hout := taskSlots_out s k
  unfold slotsTurned
  generalize s.taskSlots k true = as at hout ⊢
  split
  · exact ⟨.of_regs rfl, rfl, rfl⟩
  · obtain ⟨hregs, hmem, htask⟩ := each_slot_kept (fun n hn d => outCommit_only (!s.flag .CTL_TASK_STAT_SAFE k) (hout n hn).1 d) s
    exact ⟨hregs, hmem, htask k⟩

theorem slotsTurned_slot (h : n ∈ s.taskSlots k true) (hpar : s.parHolds k = false) : let e := s.slotsTurned k
    e.copies n = (s.fld .CTL_SLOT_F n, s.fld .CTL_SLOT_B n, s.fld .CTL_SLOT_N n) ∧
      e.fld .CTL_SLOT_LAST n = if s.flag .CTL_STATUS_HOLD = true ∨ s.flag .CTL_TASK_STAT_SAFE k = true then 3 else s.fld .CTL_SLOT_B n := by
  have hturn := each_outCommit (taskSlots_nodup s k true) (taskSlots_out s k) (!s.flag .CTL_TASK_STAT_SAFE k) h s
  unfold slotsTurned
  rw [if_neg (by simp [hpar])]
  simpa only [Bool.not_eq_false'] using hturn

/-- What stands of a slot or of another register than that of the task's state after a commit, its turn of the slots has made. -/
theorem taskCommit_reg (s : Dev) (hk : k < 16) {r : Reg} {a : Nat} (hr : r.HasCopy a 0 0) (hne : r ≠ .CTL_RUN_CNT ∧ r ≠ .CTL_TASK_STAT) :
    (s.taskCommit k).reg r a = (s.slotsTurned k).reg r a := by
  have hcount := hasCopy_task (r := .CTL_RUN_CNT) hk (by decide)
  have hstat : Fld.CTL_TASK_STAT_CONSEC.reg.HasCopy k 0 0 := hasCopy_task hk (by decide)
  have hcounted : (s.runCounted k).reg r a = (s.slotsTurned k).reg r a :=
    (reg_setFld_of_apart ((s.slotsTurned k).count .CTL_RUN_CNT k) hr hstat hne.2 0).trans (reg_countBy_of_apart _ hr hcount hne.1 1)
  obtain h | h := taskCommit_eq k s <;> rw [h]
  · exact hcounted
  · exact (reg_setFld_of_apart (s.runCounted k) (f := .CTL_TASK_STAT_SAFE) hr hstat hne.2 0).trans hcounted

theorem taskCommit_counts (s : Dev) (hk : k < 16) : let e := s.taskCommit k
    e.reg .CTL_RUN_CNT k = min (s.reg .CTL_RUN_CNT k + 1) 0xFFFFFFFF ∧ e.fld .CTL_TASK_STAT_CONSEC k = 0 ∧ (e.task k).isOpen = (s.task k).isOpen ∧
      e.mem = s.mem := by
  obtain ⟨hregs, hmem, htask⟩ := slotsTurned_kept s k
  have hcount := hasCopy_task (r := .CTL_RUN_CNT) hk (by decide)
  have hconsec : Fld.CTL_TASK_STAT_CONSEC.reg.HasCopy k 0 0 := hasCopy_task hk (by decide)
  have hsafe : Fld.CTL_TASK_STAT_SAFE.reg.HasCopy k 0 0 := hconsec
  have hruns : (s.runCounted k).reg .CTL_RUN_CNT k = min (s.reg .CTL_RUN_CNT k + 1) 0xFFFFFFFF := by
    rw [← hregs.reg _ _ _ _ hcount (by decide)]
    exact (reg_setFld_of_apart _ hcount hconsec (by decide) _).trans (reg_count_same ..)
  have hzero : (s.runCounted k).fld .CTL_TASK_STAT_CONSEC k = 0 := fld_setFld_of_fits _ (by decide) (by decide)
  have hopen : ((s.runCounted k).task k).isOpen = (s.task k).isOpen := by
    rw [← htask]
    simp [runCounted, count]
  obtain h | h := taskCommit_eq k s <;> simp only [h]
  · exact ⟨hruns, hzero, hopen, hmem⟩
  · refine ⟨(reg_setFld_of_apart (s.runCounted k) hcount hsafe (by decide) 0).trans hruns, ?_, ?_, hmem⟩
    · exact (fld_setFld_of_beside (s.runCounted k) (by decide) (by decide) (by decide) 0).trans hzero
    · rw [← hopen]
      simp [leaveSafe, setFlag]

/-! ### SAFE (R429) -/

/-- The device in which no copy of the slots of a list is live. -/
def silenced (as : List Nat) (s : Dev) : Dev := { s with ctl := { s.ctl with live := as.foldl (fun l n => l.set n false) s.ctl.live } }

/-- The output slots of a task in SAFE: pick-ups read copy 3, or PAR is unfit. -/
def slotsSafe (k : Nat) (s : Dev) : Dev :=
  if s.parHolds k then s.setFlag .PAR_STATUS_UNFIT true else (s.silenced (s.taskSlots k true)).each (s.taskSlots k true) slotShow

theorem slotsSafe_kept (s : Dev) (k : Nat) :
    RegsBut [.CTL_SLOT, .PAR_STATUS] s (s.slotsSafe k) ∧ (s.slotsSafe k).mem = s.mem ∧ (s.slotsSafe k).task k = s.task k ∧
      (s.slotsSafe k).parState = s.parState := by
  have hout := taskSlots_out s k
  unfold slotsSafe
  generalize s.taskSlots k true = as at hout ⊢
  split
  · refine ⟨(RegsBut.refl s).setFlag (Reg.hasCopy_alone rfl) (by decide), rfl, rfl, ?_⟩
    exact fld_setFld_of_beside s (by decide) (by decide) (by decide) _
  · obtain ⟨hregs, hmem, htask⟩ := each_slot_kept (fun n hn d => slotShow_only (hout n hn).1 d) (s.silenced as)
    exact ⟨(RegsBut.of_regs (s := s) (t := s.silenced as) rfl).trans (hregs.mono (m := [.CTL_SLOT, .PAR_STATUS]) (by decide)), hmem, htask k, hregs.fld (Reg.hasCopy_alone rfl) (by decide)⟩

theorem slotsSafe_copies (s : Dev) (k : Nat) (hn : n < 8192) : (s.slotsSafe k).copies n = s.copies n := by
  have hout := taskSlots_out s k
  have hnodup := taskSlots_nodup s k true
  unfold slotsSafe
  generalize s.taskSlots k true = as at hout hnodup ⊢
  split
  · exact copies_of_reg (reg_setFld_of_apart s (hasCopy_slot hn) (Reg.hasCopy_alone rfl) (by decide) _)
  · exact (each_slotShow hnodup hout (s.silenced as)).1 n hn

theorem slotsSafe_last (h : n ∈ s.taskSlots k true) (hpar : s.parHolds k = false) : (s.slotsSafe k).fld .CTL_SLOT_LAST n = 3 := by
  have hout := taskSlots_out s k
  have hnodup := taskSlots_nodup s k true
  unfold slotsSafe
  generalize s.taskSlots k true = as at h hout hnodup ⊢
  rw [if_neg (by simp [hpar])]
  exact (each_slotShow hnodup hout (s.silenced as)).2 n h ((Tab.get_foldl_set_false ..).trans (if_pos h))

/-- A task that has entered SAFE, with its doorbell. -/
def safeRung (k : Nat) (s : Dev) : Dev := ((s.setFlag .CTL_TASK_STAT_SAFE true k).slotsSafe k).ctlBell .CTL_DB_EV_SAFE

theorem parHolds_congr (h : RegsBut l s t) (hl : .PAR_STATUS ∉ l ∧ .PAR_COPY_CFG ∉ l) (k : Nat) : t.parHolds k = s.parHolds k := by
  unfold parHolds
  rw [h.fld (Reg.hasCopy_alone rfl) hl.1, h.fld (Reg.hasCopy_alone rfl) hl.2]

section
variable (s) (hk : k < 16)
include hk

theorem safeFlag_only : RegsOnly [.CTL_TASK_STAT] s (s.setFlag .CTL_TASK_STAT_SAFE true k) :=
  (RegsOnly.refl s).setFlag (hasCopy_task hk (by decide)) (by decide)

theorem enterSafe_rung : ((s.enterSafe k).regs = (s.safeRung k).regs ∧ (s.enterSafe k).mem = (s.safeRung k).mem) ∧
    ((s.enterSafe k).task k).isOpen = ((s.safeRung k).task k).isOpen := by
  have hslots : s.taskSlots k true = (s.setFlag .CTL_TASK_STAT_SAFE true k).taskSlots k true :=
    (taskSlots_congr ((safeFlag_only s hk).slotEnt (by decide)) k true).symm
  unfold enterSafe
  dsimp only
  rw [hslots]
  change (Dev.regs (if (s.safeRung k).fld .CTL_TASK_STAT_RUN k = 0 then s.safeRung k else (s.safeRung k).updTask k fun x => { x with stop := true }) = _ ∧
    Dev.mem (if (s.safeRung k).fld .CTL_TASK_STAT_RUN k = 0 then s.safeRung k else (s.safeRung k).updTask k fun x => { x with stop := true }) = _) ∧
    TaskSt.isOpen (Dev.task (if (s.safeRung k).fld .CTL_TASK_STAT_RUN k = 0 then s.safeRung k else (s.safeRung k).updTask k fun x => { x with stop := true }) k) = _
  split
  · exact ⟨⟨rfl, rfl⟩, rfl⟩
  · exact ⟨⟨rfl, rfl⟩, by rw [task_updTask_same]⟩

theorem safeRung_regs : RegsBut (.CTL_TASK_STAT :: .CTL_SLOT :: .PAR_STATUS :: bellRegs) s (s.safeRung k) := by
  have hflag := (safeFlag_only s hk).regs
  have hslots := (slotsSafe_kept (s.setFlag .CTL_TASK_STAT_SAFE true k) k).1
  have hbell := (ctlBell_only ((s.setFlag .CTL_TASK_STAT_SAFE true k).slotsSafe k) .CTL_DB_EV_SAFE).regs
  exact ((hflag.mono (by decide)).trans (hslots.mono (by decide))).trans (hbell.mono (by decide))

/-- What SAFE does to the task, its slots and the pair (R429, R454). -/
theorem enterSafe_safe : let e := s.enterSafe k
    RegsBut (.CTL_TASK_STAT :: .CTL_SLOT :: .PAR_STATUS :: bellRegs) s e ∧ e.mem = s.mem ∧ (e.task k).isOpen = (s.task k).isOpen ∧
      e.parState = s.parState ∧ e.flag .CTL_TASK_STAT_SAFE k = true ∧
      (∀ f : Fld, f.reg = .CTL_TASK_STAT → f.hi < 2 ∨ 2 < f.lo → e.fld f k = s.fld f k) ∧ (∀ n < 8192, e.copies n = s.copies n) ∧
      (s.parHolds k = false → ∀ n ∈ s.taskSlots k true, e.fld .CTL_SLOT_LAST n = 3) ∧ (s.parHolds k = true → e.flag .PAR_STATUS_UNFIT = true) := by
  obtain ⟨⟨hregs, hmem⟩, hopen⟩ := enterSafe_rung s hk
  have hflag := safeFlag_only s hk
  obtain ⟨hkept, hkeptMem, hkeptTask, hkeptState⟩ := slotsSafe_kept (s.setFlag .CTL_TASK_STAT_SAFE true k) k
  have hbell := ctlBell_only ((s.setFlag .CTL_TASK_STAT_SAFE true k).slotsSafe k) .CTL_DB_EV_SAFE
  have hstat (f : Fld) (hf : f.reg = .CTL_TASK_STAT) : f.reg.HasCopy k 0 0 := hf ▸ hasCopy_task hk (by decide)
  have hshown (f : Fld) (hf : f.reg = .CTL_TASK_STAT) : (s.enterSafe k).fld f k = (s.setFlag .CTL_TASK_STAT_SAFE true k).fld f k :=
    (fld_of_reg (reg_congr hregs ..)).trans ((hbell.regs.fld (hstat f hf) (by rw [hf]; decide)).trans (hkept.fld (hstat f hf) (by rw [hf]; decide)))
  have hslot (m : Nat) (hm : m < 8192) : (s.enterSafe k).reg .CTL_SLOT m = ((s.setFlag .CTL_TASK_STAT_SAFE true k).slotsSafe k).reg .CTL_SLOT m :=
    (reg_congr hregs ..).trans (hbell.regs.reg _ _ _ _ (hasCopy_slot hm) (by decide))
  have hholds : (s.setFlag .CTL_TASK_STAT_SAFE true k).parHolds k = s.parHolds k := parHolds_congr hflag.regs (by decide) k
  refine ⟨(safeRung_regs s hk).trans (.of_regs hregs), hmem.trans (hbell.mem.trans hkeptMem), ?_, ?_, ?_, ?_, ?_, ?_, ?_⟩
  · rw [hopen, show (s.safeRung k).task k = _ from hbell.task k, hkeptTask, hflag.task]
  · exact (fld_of_reg (reg_congr hregs ..)).trans ((hbell.regs.fld (Reg.hasCopy_alone rfl) (by decide)).trans
      (hkeptState.trans (hflag.regs.fld (Reg.hasCopy_alone rfl) (by decide))))
  · exact (congrArg (· != 0) (hshown .CTL_TASK_STAT_SAFE rfl)).trans (s.flag_setFld_b2n (by decide) true)
  · intro f hf hbits
    exact (hshown f hf).trans (fld_setFld_of_beside s (by decide) hf hbits _)
  · intro m hm
    rw [copies_of_reg (hslot m hm), slotsSafe_copies _ k hm, hflag.copies hm (by decide)]
  · intro hpar m hm
    rw [fld_of_reg (f := .CTL_SLOT_LAST) (hslot m (mem_taskSlots_lt hm))]
    exact slotsSafe_last ((taskSlots_congr (hflag.slotEnt (by decide)) k true).symm ▸ hm) (hholds.trans hpar)
  · intro hpar
    have hunfit : (s.enterSafe k).flag .PAR_STATUS_UNFIT = ((s.setFlag .CTL_TASK_STAT_SAFE true k).slotsSafe k).flag .PAR_STATUS_UNFIT :=
      congrArg (· != 0) ((fld_of_reg (reg_congr hregs ..)).trans (hbell.regs.fld (Reg.hasCopy_alone rfl) (by decide)))
    rw [hunfit]
    unfold slotsSafe
    rw [if_pos (hholds.trans hpar)]
    exact flag_setFld_b2n _ (by decide) true

end

end Dev

end Sys2Proof.Machine
end

section
/-! O56: an overrun, the deadline as a whole, the writes of CTL_TASK_CTRL, and the rows of cyclic control (R417 to R440). -/

namespace Sys2Proof.Machine

namespace Dev
variable {s t : Dev} {k n : Nat} {who : Agent}

/-! ### An overrun (R428) -/

/-- Consecutive overruns of a task with the present one. -/
def overruns (s : Dev) (k : Nat) : Nat := min 255 (s.fld .CTL_TASK_STAT_CONSEC k + 1)

/-- An overrun has been counted, with its doorbell. -/
def overrunRung (k : Nat) (s : Dev) : Dev :=
  (((s.parTimely k false).count .CTL_OVR_CNT k).setFld .CTL_TASK_STAT_CONSEC (s.overruns k) k).ctlBell .CTL_DB_EV_OVR

/-- The run of an overrun is late, where it goes on. -/
def overrun (k : Nat) (s : Dev) : Dev :=
  let d := (s.overrunRung k).updTask k fun x => { x with streak := 0 }
  if d.fld .CTL_TASK_STAT_RUN k = 1 then d.setFld .CTL_TASK_STAT_RUN 2 k else d

theorem taskOverrun_eq (k : Nat) (s : Dev) : s.taskOverrun k =
    if s.overruns k = (s.overrun k).fld .CTL_TASK_CFG_OVR_LIMIT k then (s.overrun k).enterSafe k else s.overrun k := rfl

section
variable (s) (hk : k < 16)
include hk

theorem overrunRung_kept : RegsBut (.CTL_OVR_CNT :: .CTL_TASK_STAT :: bellRegs) s (s.overrunRung k) ∧ (s.overrunRung k).mem = s.mem ∧
    (s.overrunRung k).grm = s.grm ∧ (s.overrunRung k).task k = s.task k := by
  have hbell := ctlBell_only (((s.parTimely k false).count .CTL_OVR_CNT k).setFld .CTL_TASK_STAT_CONSEC (s.overruns k) k) .CTL_DB_EV_OVR
  refine ⟨?_, hbell.mem, hbell.grm, hbell.task k⟩
  refine RegsBut.trans ?_ (hbell.regs.mono (by decide))
  exact ((RegsBut.of_regs (s := s) (t := s.parTimely k false) rfl).count (hasCopy_task (r := .CTL_OVR_CNT) hk (by decide)) (by decide)).setFld
    (f := .CTL_TASK_STAT_CONSEC) (hasCopy_task hk (by decide)) (by decide)

theorem overrunRung_counts : (s.overrunRung k).reg .CTL_OVR_CNT k = min (s.reg .CTL_OVR_CNT k + 1) 0xFFFFFFFF ∧
    (s.overrunRung k).fld .CTL_TASK_STAT_CONSEC k = s.overruns k ∧
    ∀ f : Fld, f.reg = .CTL_TASK_STAT → f.hi < 8 ∨ 15 < f.lo → (s.overrunRung k).fld f k = s.fld f k := by
  have hovr := hasCopy_task (r := .CTL_OVR_CNT) hk (by decide)
  have hstat : Fld.CTL_TASK_STAT_CONSEC.reg.HasCopy k 0 0 := hasCopy_task hk (by decide)
  have hbell := ctlBell_only (((s.parTimely k false).count .CTL_OVR_CNT k).setFld .CTL_TASK_STAT_CONSEC (s.overruns k) k) .CTL_DB_EV_OVR
  have hfits : s.overruns k < 256 := by
    unfold overruns
    omega
  refine ⟨?_, ?_, fun f hf hbits => ?_⟩
  · exact (hbell.regs.reg _ _ _ _ hovr (by decide)).trans
      ((reg_setFld_of_apart _ hovr hstat (by decide) _).trans (reg_count_same (s.parTimely k false) ..))
  · exact (hbell.regs.fld hstat (by decide)).trans (fld_setFld_of_fits _ (by decide) hfits)
  · have hcopy : f.reg.HasCopy k 0 0 := hf ▸ hstat
    exact (hbell.regs.fld hcopy (by rw [hf]; decide)).trans ((fld_setFld_of_beside _ (by decide) hf hbits _).trans
      (fld_countBy_of_apart (s.parTimely k false) hcopy hovr (by rw [hf]; decide) 1))

theorem overrun_kept : RegsBut (.CTL_OVR_CNT :: .CTL_TASK_STAT :: bellRegs) s (s.overrun k) ∧ (s.overrun k).mem = s.mem ∧
    (s.overrun k).grm = s.grm ∧ ((s.overrun k).task k).isOpen = (s.task k).isOpen := by
  obtain ⟨hregs, hmem, hgrm, htask⟩ := overrunRung_kept s hk
  have hopen : (((s.overrunRung k).updTask k fun x => { x with streak := 0 }).task k).isOpen = (s.task k).isOpen := by
    rw [task_updTask_same, ← htask]
  have hunset : RegsBut (.CTL_OVR_CNT :: .CTL_TASK_STAT :: bellRegs) s ((s.overrunRung k).updTask k fun x => { x with streak := 0 }) :=
    hregs.trans (.of_regs rfl)
  unfold overrun
  dsimp only
  split
  · exact ⟨hunset.setFld (f := .CTL_TASK_STAT_RUN) (hasCopy_task hk (by decide)) (by decide), hmem, hgrm, hopen⟩
  · exact ⟨hunset, hmem, hgrm, hopen⟩

theorem overrun_counts : (s.overrun k).reg .CTL_OVR_CNT k = min (s.reg .CTL_OVR_CNT k + 1) 0xFFFFFFFF ∧
    (s.overrun k).fld .CTL_TASK_STAT_CONSEC k = s.overruns k ∧ (s.overrun k).flag .CTL_TASK_STAT_SAFE k = s.flag .CTL_TASK_STAT_SAFE k ∧
    (s.overrun k).fld .CTL_TASK_STAT_RUN k = if s.fld .CTL_TASK_STAT_RUN k = 1 then 2 else s.fld .CTL_TASK_STAT_RUN k := by
  obtain ⟨hovr, hconsec, hrest⟩ := overrunRung_counts s hk
  have hrun := hrest .CTL_TASK_STAT_RUN rfl (by decide)
  have hsafe : (s.overrunRung k).flag .CTL_TASK_STAT_SAFE k = s.flag .CTL_TASK_STAT_SAFE k := congrArg (· != 0) (hrest .CTL_TASK_STAT_SAFE rfl (by decide))
  have hstat : Fld.CTL_TASK_STAT_RUN.reg.HasCopy k 0 0 := hasCopy_task hk (by decide)
  unfold overrun
  dsimp only
  rw [updTask_fld, hrun]
  by_cases hlate : s.fld .CTL_TASK_STAT_RUN k = 1
  · rw [if_pos hlate, if_pos hlate]
    refine ⟨(reg_setFld_of_apart _ (hasCopy_task hk (by decide)) hstat (by decide) _).trans hovr,
      (fld_setFld_of_beside _ (by decide) (by decide) (by decide) _).trans hconsec,
      (flag_setFld_of_beside _ (by decide) (by decide) (by decide) _).trans hsafe, fld_setFld_of_fits _ (by decide) (by decide)⟩
  · rw [if_neg hlate, if_neg hlate]
    exact ⟨hovr, hconsec, hsafe, hrun⟩

/-- An overrun (R428), and SAFE where there have been as many in a row as OVR_LIMIT says (R429). -/
theorem taskOverrun_counts : let e := s.taskOverrun k
    let safe := s.overruns k = s.fld .CTL_TASK_CFG_OVR_LIMIT k
    e.reg .CTL_OVR_CNT k = min (s.reg .CTL_OVR_CNT k + 1) 0xFFFFFFFF ∧ e.fld .CTL_TASK_STAT_CONSEC k = s.overruns k ∧
      (e.task k).isOpen = (s.task k).isOpen ∧ e.mem = s.mem ∧ e.parState = s.parState ∧
      e.fld .CTL_TASK_STAT_RUN k = (if s.fld .CTL_TASK_STAT_RUN k = 1 then 2 else s.fld .CTL_TASK_STAT_RUN k) ∧
      (safe → e.flag .CTL_TASK_STAT_SAFE k = true ∧ (s.parHolds k = false → ∀ n ∈ s.taskSlots k true, e.fld .CTL_SLOT_LAST n = 3) ∧
        (s.parHolds k = true → e.flag .PAR_STATUS_UNFIT = true)) ∧
      (¬ safe → e.flag .CTL_TASK_STAT_SAFE k = s.flag .CTL_TASK_STAT_SAFE k) ∧ ∀ n ∈ s.taskSlots k true, e.copies n = s.copies n := by
  obtain ⟨hregs, hmem, hgrm, hopen⟩ := overrun_kept s hk
  obtain ⟨hovr, hconsec, hsafe, hrun⟩ := overrun_counts s hk
  have hlimit : (s.overrun k).fld .CTL_TASK_CFG_OVR_LIMIT k = s.fld .CTL_TASK_CFG_OVR_LIMIT k := hregs.fld (hasCopy_task hk (by decide)) (by decide)
  have hstate : (s.overrun k).parState = s.parState := hregs.fld (Reg.hasCopy_alone rfl) (by decide)
  have hcopies (m : Nat) (hm : m < 8192) : (s.overrun k).copies m = s.copies m := copies_of_reg (hregs.reg _ _ _ _ (hasCopy_slot hm) (by decide))
  have hslots : (s.overrun k).taskSlots k true = s.taskSlots k true := taskSlots_congr (hregs.slotEnt (by decide) hmem hgrm) k true
  have hholds : (s.overrun k).parHolds k = s.parHolds k := parHolds_congr hregs (by decide) k
  simp only [taskOverrun_eq, hlimit]
  split
  · next heq =>
    obtain ⟨hregs', hmem', hopen', hstate', hset, hfld, hcopies', hlast, hunfit⟩ := enterSafe_safe (s.overrun k) hk
    refine ⟨?_, ?_, hopen'.trans hopen, hmem'.trans hmem, hstate'.trans hstate, ?_, fun _ => ⟨hset, ?_, ?_⟩, fun hne => absurd heq hne, ?_⟩
    · exact (hregs'.reg _ _ _ _ (hasCopy_task hk (by decide)) (by decide)).trans hovr
    · exact (hfld .CTL_TASK_STAT_CONSEC rfl (by decide)).trans hconsec
    · exact (hfld .CTL_TASK_STAT_RUN rfl (by decide)).trans hrun
    · rw [hholds, hslots] at hlast
      exact hlast
    · rw [hholds] at hunfit
      exact hunfit
    · intro m hm
      exact (hcopies' m (mem_taskSlots_lt hm)).trans (hcopies m (mem_taskSlots_lt hm))
  · next hne =>
    exact ⟨hovr, hconsec, hopen, hmem, hstate, hrun, fun heq => absurd heq hne, fun _ => hsafe, fun m hm => hcopies m (mem_taskSlots_lt hm)⟩

end

/-! ### The deadline -/

theorem outputDeadline_due (h : s.deadlineDue k = true) :
    s.outputDeadline k = if (s.task k).inTime then (s.closed k).taskCommit k else (s.closed k).taskOverrun k := by
  unfold outputDeadline
  rw [h]
  rfl

/-- What PAR adds to a deadline, where the unit sends no copy: at most that it opens the window of the copy. -/
theorem deadlineAll_eq (h : k ≠ s.copyTask ∨ (s.outputDeadline k).parState ≠ parActive) :
    s.deadlineAll k = s.outputDeadline k ∨ s.deadlineAll k = (s.outputDeadline k).updPar fun x => { x with window := true } := by
  unfold deadlineAll
  dsimp only
  split
  · exact .inl rfl
  · next hdue =>
    have hcopy : k = s.copyTask := by
      have hboth : s.deadlineDue k = true ∧ k = s.copyTask := by simpa using hdue
      exact hboth.2
    rw [if_neg (h.resolve_left fun hne => hne hcopy)]
    split
    · exact .inr rfl
    · exact .inl rfl

theorem taskCommit_parState (s : Dev) (hk : k < 16) : (s.taskCommit k).parState = s.parState :=
  (fld_of_reg (taskCommit_reg s hk (Reg.hasCopy_alone rfl) (by decide))).trans ((slotsTurned_kept s k).1.fld (Reg.hasCopy_alone rfl) (by decide))

/-- The deadline of an ended run (R419, R428). -/
theorem taskCommit_slot (hk : k < 16) (h : n ∈ s.taskSlots k true) : let e := s.taskCommit k
    if s.parHolds k = true then e.reg .CTL_SLOT n = s.reg .CTL_SLOT n
    else e.copies n = (s.fld .CTL_SLOT_F n, s.fld .CTL_SLOT_B n, s.fld .CTL_SLOT_N n) ∧
      e.fld .CTL_SLOT_LAST n = if s.flag .CTL_STATUS_HOLD = true ∨ s.flag .CTL_TASK_STAT_SAFE k = true then 3 else s.fld .CTL_SLOT_B n := by
  have hslot := taskCommit_reg s hk (hasCopy_slot (mem_taskSlots_lt h)) (by decide)
  dsimp only
  split
  · next hpar =>
    rw [hslot]
    unfold slotsTurned
    rw [if_pos hpar]
    rfl
  · next hpar =>
    rw [copies_of_reg hslot, fld_of_reg (f := .CTL_SLOT_LAST) hslot]
    exact slotsTurned_slot h (by simpa using hpar)

/-! ### CTL_TASK_CTRL (R429, R440) -/

theorem rowWrite_arm (h : s.reaches who .CTL_TASK_CTRL k 0 true) : s.rowWrite who .CTL_TASK_CTRL 1 k = s.taskArm k who.mid := by
  rw [rowWrite_single rfl h]
  rfl

theorem rowWrite_clrSafe (h : s.reaches who .CTL_TASK_CTRL k 0 true) : s.rowWrite who .CTL_TASK_CTRL 2 k = s.leaveSafe k := by
  rw [rowWrite_single rfl h]
  rfl

/-- CTL has read the header of the program to come. -/
def armRead (k : Nat) (s : Dev) : Dev := s.touch ctlMid [(s.reg64 .CTL_XCHG_ADDR_LOW .CTL_XCHG_ADDR_HIGH k + 6, 1)]

theorem armRead_only (k : Nat) (s : Dev) : RegsOnly readRegs s (s.armRead k) := (RegsOnly.refl s).touch (List.Subset.refl _)

theorem leaveSafe_leaves (s : Dev) (k : Nat) : (s.leaveSafe k).flag .CTL_TASK_STAT_SAFE k = false ∧ ((s.leaveSafe k).task k).streak = 0 :=
  ⟨flag_setFld_b2n s (by decide) false, congrArg TaskSt.streak (task_updTask_same ..)⟩

/-- A task may arm an exchange (R440). -/
def ArmsExchange (s : Dev) (k mid : Nat) : Prop :=
  mid = 0x40 ∧ s.flag .CTL_TASK_CTRL_PENDING k = false ∧ s.view (s.reg64 .CTL_XCHG_ADDR_LOW .CTL_XCHG_ADDR_HIGH k + 6) 1 = k

section
variable (s) (hk : k < 16)
include hk

theorem armRead_same : (s.armRead k).flag .CTL_TASK_CTRL_PENDING k = s.flag .CTL_TASK_CTRL_PENDING k ∧
    (s.armRead k).view (s.reg64 .CTL_XCHG_ADDR_LOW .CTL_XCHG_ADDR_HIGH k + 6) 1 = s.view (s.reg64 .CTL_XCHG_ADDR_LOW .CTL_XCHG_ADDR_HIGH k + 6) 1 :=
  ⟨(armRead_only k s).regs.flag (hasCopy_task hk (by decide)) (by decide), (armRead_only k s).view (by decide) _ _⟩

theorem taskArm_refuses {mid : Nat} (h : ¬ s.ArmsExchange k mid) : s.taskArm k mid = (s.armRead k).count .CTL_XCHG_REFUSE_CNT := by
  obtain ⟨hpend, hview⟩ := armRead_same s hk
  unfold taskArm
  dsimp only
  refine if_pos ?_
  rw [show (s.touch ctlMid _).flag .CTL_TASK_CTRL_PENDING k = _ from hpend, show (s.touch ctlMid _).view _ 1 = _ from hview]
  unfold ArmsExchange at h
  by_contra hno
  push Not at hno
  exact h ⟨hno.1, by simpa using hno.2.1, hno.2.2⟩

theorem taskArm_arms {mid : Nat} (h : s.ArmsExchange k mid) :
    s.taskArm k mid = (((s.armRead k).setFlag .CTL_TASK_CTRL_ARM true k).setFlag .CTL_TASK_CTRL_PENDING true k).modeUpdate := by
  obtain ⟨hpend, hview⟩ := armRead_same s hk
  obtain ⟨hmid, hfree, htask⟩ := h
  unfold taskArm
  dsimp only
  refine if_neg ?_
  rw [show (s.touch ctlMid _).flag .CTL_TASK_CTRL_PENDING k = _ from hpend, show (s.touch ctlMid _).view _ 1 = _ from hview]
  simp [hmid, hfree, htask]

theorem taskArm_refused {mid : Nat} (h : ¬ s.ArmsExchange k mid) :
    (s.taskArm k mid).reg .CTL_XCHG_REFUSE_CNT = min (s.reg .CTL_XCHG_REFUSE_CNT + 1) 0xFFFFFFFF ∧
      (s.taskArm k mid).reg .CTL_TASK_CTRL k = s.reg .CTL_TASK_CTRL k := by
  have hread := (armRead_only k s).regs
  rw [taskArm_refuses s hk h, reg_count_same, hread.reg _ _ _ _ (Reg.hasCopy_alone rfl) (by decide)]
  refine ⟨rfl, ?_⟩
  exact (reg_countBy_of_apart _ (hasCopy_task hk (by decide)) (Reg.hasCopy_alone rfl) (by decide) 1).trans
    (hread.reg _ _ _ _ (hasCopy_task hk (by decide)) (by decide))

theorem taskArm_pends {mid : Nat} (h : s.ArmsExchange k mid) :
    (s.taskArm k mid).flag .CTL_TASK_CTRL_PENDING k = true ∧ (s.taskArm k mid).taskCode k = s.taskCode k := by
  have hctrl : Fld.CTL_TASK_CTRL_PENDING.reg.HasCopy k 0 0 := hasCopy_task hk (by decide)
  have harm : RegsOnly (.CTL_TASK_CTRL :: readRegs) s (((s.armRead k).setFlag .CTL_TASK_CTRL_ARM true k).setFlag .CTL_TASK_CTRL_PENDING true k) :=
    (((armRead_only k s).mono (List.subset_cons_self ..)).setFlag (f := .CTL_TASK_CTRL_ARM) hctrl List.mem_cons_self).setFlag
      (f := .CTL_TASK_CTRL_PENDING) hctrl List.mem_cons_self
  have hmode := (RegsOnly.refl (((s.armRead k).setFlag .CTL_TASK_CTRL_ARM true k).setFlag .CTL_TASK_CTRL_PENDING true k)).modeUpdate (List.Subset.refl _)
  have hword {r : Reg} (hr : r.HasCopy k 0 0) (hl : r ∉ Reg.CTL_TASK_CTRL :: readRegs) (hl' : r ∉ Reg.SYS_MODE :: bellRegs) :
      (s.taskArm k mid).reg r k = s.reg r k := by
    rw [taskArm_arms s hk h]
    exact (hmode.regs.reg _ _ _ _ hr hl').trans (harm.regs.reg _ _ _ _ hr hl)
  refine ⟨?_, ?_⟩
  · rw [taskArm_arms s hk h]
    exact (hmode.regs.flag hctrl (by decide)).trans (flag_setFld_b2n _ (by decide) true)
  · unfold taskCode reg64
    rw [hword (hasCopy_task hk (by decide)) (by decide) (by decide), hword (hasCopy_task hk (by decide)) (by decide) (by decide)]

/-- The ARITH report of a task (R436). -/
theorem rowWrite_arith_counts (h : s.reaches who .CTL_ARITH 0 0 true) : let e := s.rowWrite who .CTL_ARITH k
    e.flag .CTL_TASK_STAT_ARITH k = true ∧ e.reg .CTL_ARITH_CNT k = min (s.reg .CTL_ARITH_CNT k + 1) 0xFFFFFFFF := by
  have hcount : Reg.CTL_ARITH_CNT.HasCopy k 0 0 := hasCopy_task hk (by decide)
  have hstat : Fld.CTL_TASK_STAT_ARITH.reg.HasCopy k 0 0 := hasCopy_task hk (by decide)
  have hplain : (s.plain .CTL_ARITH k).reg .CTL_ARITH_CNT k = s.reg .CTL_ARITH_CNT k :=
    plain_reg s hcount (Reg.hasCopy_alone rfl) (Reg.hasCopy_alone rfl) (by decide) (by decide) k
  simp only [rowWrite_arith h hk]
  refine ⟨(flag_countBy_of_apart _ hstat hcount (by decide) 1).trans (flag_setFld_b2n _ (by decide) true), ?_⟩
  rw [← hplain, ← reg_setFld_of_apart (s.plain .CTL_ARITH k) (f := .CTL_TASK_STAT_ARITH) hcount hstat (by decide) (b2n true)]
  exact reg_count_same ..

end

/-! ### Commits, losses and forces as rows -/

/-- A write that is refused after the entry of its slot has been read. -/
theorem readEnts_misuse (s : Dev) (hn : n < 8192) : let e := (s.readEnts [n]).count .CTL_MISUSE_CNT
    e.reg .CTL_MISUSE_CNT = min (s.reg .CTL_MISUSE_CNT + 1) 0xFFFFFFFF ∧ e.reg .CTL_SLOT n = s.reg .CTL_SLOT n := by
  have hread := (RegsOnly.refl s).touch (l := readRegs) (mid := ctlMid) (as := [n].map fun n => (s.piBase + 4 * n, 4)) (List.Subset.refl _)
  have hcount : (s.readEnts [n]).reg .CTL_MISUSE_CNT = s.reg .CTL_MISUSE_CNT := hread.regs.reg _ _ _ _ (Reg.hasCopy_alone rfl) (by decide)
  exact ⟨(reg_count_same ..).trans (by rw [hcount]),
    (reg_countBy_of_apart _ (hasCopy_slot hn) (Reg.hasCopy_alone rfl) (by decide) 1).trans (hread.regs.reg _ _ _ _ (hasCopy_slot hn) (by decide))⟩

/-- What a write of the page finds of a slot, its entry read and its own register written. -/
structure SlotRead (n : Nat) (s t : Dev) : Prop where
  only : RegsOnly slotRowRegs s t
  slot : t.reg .CTL_SLOT n = s.reg .CTL_SLOT n
  ent : t.slotEnt = s.slotEnt

theorem slotRead (s : Dev) (hn : n < 8192) (as : List Nat) {r : Reg} (v : Nat) (hr : r ∈ [Reg.CTL_COMMIT, .CTL_LOSS, .CTL_FORCE]) :
    SlotRead n s ((s.readEnts as).plain r v) :=
  have honly := readEnts_plain_only s as v hr
  ⟨honly, honly.regs.reg _ _ _ _ (hasCopy_slot hn) (by decide), honly.slotEnt (by decide)⟩

namespace SlotRead
variable (h : SlotRead n s t)
include h

theorem fld {f : Fld} (hf : f.reg = .CTL_SLOT) : t.fld f n = s.fld f n := fld_of_reg (by rw [hf]; exact h.slot)

theorem flag {f : Fld} (hf : f.reg = .CTL_SLOT) : t.flag f n = s.flag f n := congrArg (· != 0) (h.fld hf)

theorem copies : t.copies n = s.copies n := copies_of_reg h.slot

theorem hold : t.flag .CTL_STATUS_HOLD = s.flag .CTL_STATUS_HOLD := h.only.regs.flag (Reg.hasCopy_alone rfl) (by decide)

end SlotRead

theorem slotCommit_in (hvalid : s.slotValid n = true) (hin : isOut n = false) : s.slotCommit n = s.inCommit n := by
  simp [slotCommit, hvalid, hin]

theorem slotCommit_owned (hvalid : s.slotValid n = true) (hout : isOut n = true) (howned : s.slotOwned n = true) :
    s.slotCommit n = s.count .CTL_COMMIT_REFUSE_CNT := by simp [slotCommit, hvalid, hout, howned]

theorem slotCommit_out (hvalid : s.slotValid n = true) (hout : isOut n = true) (howned : s.slotOwned n = false) :
    s.slotCommit n = s.outCommit true n := by simp [slotCommit, hvalid, hout, howned]

section
variable (hn : n < 8192) (hvalid : s.slotValid n = true) (hreach : s.reaches who .CTL_COMMIT 0 0 true)
include hn hvalid hreach

theorem rowWrite_commit_in (hin : isOut n = false) : let e := s.rowWrite who .CTL_COMMIT n
    e.copies n = (s.fld .CTL_SLOT_N n, s.fld .CTL_SLOT_B n, s.fld .CTL_SLOT_F n) ∧ e.flag .CTL_SLOT_PEND n = true ∧ e.flag .CTL_SLOT_LOST n = false ∧
      e.fld .CTL_SLOT_SEQ n = (s.fld .CTL_SLOT_SEQ n + 1) % 256 ∧
      e.fld .CTL_SLOT_LAST n = (if s.flag .CTL_SLOT_FORCED n then 3 else s.fld .CTL_SLOT_B n) ∧ e.mem = s.mem := by
  have hread := slotRead s hn [n] (r := .CTL_COMMIT) n (by decide)
  obtain ⟨hcopies, hpend, hlost, hseq, hlast⟩ := inCommit_commits ((s.readEnts [n]).plain .CTL_COMMIT n) hin
  rw [hread.fld rfl, hread.fld rfl, hread.fld rfl] at hcopies
  rw [hread.fld rfl] at hseq
  rw [hread.flag rfl, hread.fld rfl] at hlast
  simp only [rowWrite_commit hreach hn, hvalid, if_true, slotCommit_in ((slotValid_congr hread.ent n).trans hvalid) hin]
  exact ⟨hcopies, hpend, hlost, hseq, hlast, (inCommit_only hn _).mem.trans hread.only.mem⟩

theorem rowWrite_commit_owned (hout : isOut n = true) (howned : s.slotOwned n = true) : let e := s.rowWrite who .CTL_COMMIT n
    e.reg .CTL_COMMIT_REFUSE_CNT = min (s.reg .CTL_COMMIT_REFUSE_CNT + 1) 0xFFFFFFFF ∧ e.reg .CTL_SLOT n = s.reg .CTL_SLOT n := by
  have hread := slotRead s hn [n] (r := .CTL_COMMIT) n (by decide)
  have hcount : ((s.readEnts [n]).plain .CTL_COMMIT n).reg .CTL_COMMIT_REFUSE_CNT = s.reg .CTL_COMMIT_REFUSE_CNT :=
    hread.only.regs.reg _ _ _ _ (Reg.hasCopy_alone rfl) (by decide)
  simp only [rowWrite_commit hreach hn, hvalid, if_true,
    slotCommit_owned ((slotValid_congr hread.ent n).trans hvalid) hout ((slotOwned_congr hread.ent n).trans howned)]
  exact ⟨(reg_count_same ..).trans (by rw [hcount]),
    (reg_countBy_of_apart _ (hasCopy_slot hn) (Reg.hasCopy_alone rfl) (by decide) 1).trans hread.slot⟩

theorem rowWrite_commit_out (hout : isOut n = true) (howned : s.slotOwned n = false) : let e := s.rowWrite who .CTL_COMMIT n
    e.copies n = (s.fld .CTL_SLOT_F n, s.fld .CTL_SLOT_B n, s.fld .CTL_SLOT_N n) ∧ e.fld .CTL_SLOT_SEQ n = (s.fld .CTL_SLOT_SEQ n + 1) % 256 ∧
      e.fld .CTL_SLOT_LAST n = (if s.flag .CTL_STATUS_HOLD then 3 else s.fld .CTL_SLOT_B n) ∧ e.mem = s.mem := by
  have hread := slotRead s hn [n] (r := .CTL_COMMIT) n (by decide)
  obtain ⟨hcopies, hseq, hlast⟩ := outCommit_commits true ((s.readEnts [n]).plain .CTL_COMMIT n) hout hn
  rw [hread.fld rfl, hread.fld rfl, hread.fld rfl] at hcopies
  rw [hread.fld rfl] at hseq
  rw [hread.hold, hread.fld rfl] at hlast
  simp only [rowWrite_commit hreach hn, hvalid, if_true,
    slotCommit_out ((slotValid_congr hread.ent n).trans hvalid) hout ((slotOwned_congr hread.ent n).trans howned)]
  exact ⟨hcopies, hseq, hlast.trans (by simp), (outCommit_only true hn _).mem.trans hread.only.mem⟩

end

theorem rowWrite_loss_lost {i : Nat} (hi : i < 4096) (h : s.reaches who .CTL_LOSS 0 0 true) (hvalid : s.slotValid (2 * i) = true) :
    let e := s.rowWrite who .CTL_LOSS i
    e.flag .CTL_SLOT_LOST (2 * i) = true ∧ e.copies (2 * i) = s.copies (2 * i) ∧
      (s.flag .CTL_SLOT_LOST (2 * i) = false → e.fld .CTL_SLOT_STALE_N (2 * i) = 0) := by
  have hread := slotRead s (n := 2 * i) (by omega) [2 * i] (r := .CTL_LOSS) i (by decide)
  obtain ⟨hlost, hcopies, hstale⟩ := lossReport_lost (s := (s.readEnts [2 * i]).plain .CTL_LOSS i) ((slotValid_congr hread.ent _).trans hvalid)
  simp only [rowWrite_loss h hi hvalid]
  exact ⟨hlost, hcopies.trans hread.copies, fun hno => hstale ((hread.flag rfl).trans hno)⟩

/-- A write of CTL_FORCE by Patrol for an input slot; `v` names the slot and the value of EN. -/
theorem rowWrite_force_forces (hn : n < 8192) (h : s.reaches who .CTL_FORCE 0 0 true) {v : Nat} (hv : bits v 12 0 = n)
    (hlegal : who.mid = 0x40 ∧ isOut n = false ∧ s.slotValid n = true) : let e := s.rowWrite who .CTL_FORCE v
    e.flag .CTL_SLOT_FORCED n = bit v 13 ∧ e.copies n = s.copies n ∧ e.fld .CTL_SLOT_LAST n =
      if bit v 13 then 3 else if s.flag .CTL_SLOT_PEND n = true ∨ s.slotOwned n = false then s.fld .CTL_SLOT_N n else s.fld .CTL_SLOT_F n := by
  obtain ⟨hmid, hin, hvalid⟩ := hlegal
  have hread := slotRead s hn [n] (r := .CTL_FORCE) v (by decide)
  obtain ⟨hforced, hcopies, hlast⟩ := slotForce_forces (s := (s.readEnts [n]).plain .CTL_FORCE v) hn hin ((slotValid_congr hread.ent n).trans hvalid) (bit v 13)
  rw [hread.flag rfl, hread.fld rfl, hread.fld rfl, slotOwned_congr hread.ent n] at hlast
  simp only [rowWrite_force h hv, hmid, hin, hvalid, ne_eq, not_true_eq_false, Bool.false_eq_true, Bool.true_eq_false, or_self, if_false]
  exact ⟨hforced, hcopies.trans hread.copies, hlast⟩

theorem rowWrite_force_refused (h : s.reaches who .CTL_FORCE 0 0 true) {v : Nat} (hv : bits v 12 0 = n)
    (hill : ¬ (who.mid = 0x40 ∧ isOut n = false ∧ s.slotValid n = true)) : s.rowWrite who .CTL_FORCE v = (s.readEnts [n]).count .CTL_MISUSE_CNT := by
  rw [rowWrite_force h hv, if_pos]
  by_contra hno
  push Not at hno
  exact hill ⟨hno.1, by simpa using hno.2.1, by simpa using hno.2.2⟩

end Dev

/-- A force names its slot in bits 12 to 0, and EN in bit 13. -/
theorem force_word {n : Nat} (hn : n < 8192) (en : Bool) : bits (n + b2n en * 0x2000) 12 0 = n ∧ bit (n + b2n en * 0x2000) 13 = en := by
  cases en <;> simp [bits, bit, b2n] <;> omega

end Sys2Proof.Machine
end

section
/-! O56: the rows of cyclic control. -/

namespace Sys2Proof.Machine

section
variable (who : Agent) (k : Fin 16) (s : State)

theorem exec_slotCommit_eq (n : BitVec 13) : exec (.slotCommit who n) s = .next (s.withDev (s.dev.rowWrite who .CTL_COMMIT n.toNat)) := rfl

theorem exec_lossReport_eq (i : BitVec 12) : exec (.lossReport who i) s = .next (s.withDev (s.dev.rowWrite who .CTL_LOSS i.toNat)) := rfl

theorem exec_slotForce_eq (n : BitVec 13) : exec (.slotForce who n) s = .next (s.withDev (s.dev.rowWrite who .CTL_FORCE (n.toNat + 0x2000))) := rfl

theorem exec_slotRelease_eq (n : BitVec 13) : exec (.slotRelease who n) s = .next (s.withDev (s.dev.rowWrite who .CTL_FORCE n.toNat)) := rfl

theorem exec_arithReport_eq : exec (.arithReport who k) s = .next (s.withDev (s.dev.rowWrite who .CTL_ARITH k)) := rfl

theorem exec_inputLatch_eq : exec (.inputLatch k) s = .next (s.withDev (s.dev.latchAll k)) := rfl

theorem exec_taskRelease_eq : exec (.taskRelease k) s = .next (s.withDev (s.dev.taskRelease k)) := rfl

theorem exec_outputDeadline_eq : exec (.outputDeadline k) s = .next (s.withDev (s.dev.deadlineAll k)) := rfl

theorem exec_arm_eq : exec (.arm who k) s = .next (s.withDev (s.dev.rowWrite who .CTL_TASK_CTRL 1 k)) := rfl

theorem exec_clrSafe_eq : exec (.clrSafe who k) s = .next (s.withDev (s.dev.rowWrite who .CTL_TASK_CTRL 2 k)) := rfl

end

namespace Dev
variable {s : Dev} {k : Nat}

/-- A T0 is skipped that has passed or falls at or before the deadline of the cycle before (R425). -/
theorem t0Skipped_iff (s : Dev) (k t0 : Nat) : s.t0Skipped k t0 ↔ s.dueAt islSwitch (s.fld .CTL_TASK_CFG_TB k) t0 = .passed ∨
    (s.task k).isOpen = true ∧ reached t0 ((s.reg .CTL_TASK_T0 k + s.reg .CTL_TASK_DEADLINE k) % 2 ^ 32) = true ∨
    (s.task k).isOpen = false ∧ (s.task k).had = true ∧ sub32 t0 (s.reg .CTL_TASK_T0 k) ≤ s.reg .CTL_TASK_DEADLINE k := by
  unfold t0Skipped beforeDeadline
  cases hopen : (s.task k).isOpen <;> simp [hopen]

theorem closed_taskSlots (s : Dev) (k : Nat) : (s.closed k).taskSlots k true = s.taskSlots k true := taskSlots_congr rfl k true

theorem outputDeadline_parState (hk : k < 16) (hdue : s.deadlineDue k = true) : (s.outputDeadline k).parState = s.parState := by
  rw [outputDeadline_due hdue]
  split
  · exact taskCommit_parState _ hk
  · obtain ⟨-, -, -, -, hstate, -⟩ := taskOverrun_counts (s.closed k) hk
    exact hstate

/-- What a deadline leaves of registers, memory and tasks is CTL's alone, where the unit sends no copy. -/
theorem deadlineAll_shows (hk : k < 16) (hdue : s.deadlineDue k = true) (h : k ≠ s.copyTask ∨ s.parState ≠ parActive) :
    let e := s.deadlineAll k
    let d := s.outputDeadline k
    (∀ r n, e.reg r n = d.reg r n) ∧ (∀ f n, e.fld f n = d.fld f n) ∧ (∀ f n, e.flag f n = d.flag f n) ∧ e.mem = d.mem ∧ e.task = d.task := by
  have hall : s.deadlineAll k = s.outputDeadline k ∨ _ := deadlineAll_eq (by rwa [outputDeadline_parState hk hdue])
  generalize s.deadlineAll k = e at hall ⊢
  generalize s.outputDeadline k = d at hall ⊢
  obtain rfl | rfl := hall <;> exact ⟨fun _ _ => rfl, fun _ _ => rfl, fun _ _ => rfl, rfl, rfl⟩

end Dev

/-- Settles O56: the rows that name a slot change its register alone; a T0, a release and a deadline follow the state of the task's cycle. -/
theorem controlRowsComplete : Obligations.ControlRowsComplete := by
  intro k s d out next up copies hold
  have hk : k.val < 16 := k.isLt
  have hnext {i : Instr} {e : Dev} {p : Dev → Prop} (hexec : exec i s = .next (s.withDev e)) (he : p e) : next i p :=
    ⟨s.withDev e, hexec, s.withDev_pending e, he⟩
  clear_value next
  refine ⟨fun who n hreach => ?commit, fun who i => ?loss, fun who n hreach => ?force, fun who hreach => ?arith,
    fun t0 rest hqueue hen hon hcome hroles => ?latch, fun t0 => ?exchange, fun n hn => ?slot, fun htable hwaits => ?waits,
    fun size hrelease htable => ?release, fun hdue hcopy => ?deadline, fun who hreach => ?control⟩
  case commit =>
    have hn : n.toNat < 8192 := n.isLt
    have hexec := exec_slotCommit_eq who s n
    refine ⟨fun hvalid => hnext hexec ?_, fun hvalid hin => hnext hexec (Dev.rowWrite_commit_in hn hvalid hreach hin),
      fun hvalid hout howned => hnext hexec (Dev.rowWrite_commit_owned hn hvalid hreach hout howned),
      fun hvalid hout howned => hnext hexec (Dev.rowWrite_commit_out hn hvalid hreach hout howned)⟩
    rw [Dev.rowWrite_commit hreach hn, hvalid]
    exact Dev.readEnts_misuse s.dev hn
  case loss =>
    intro m hreach hvalid
    exact hnext (exec_lossReport_eq who s i) (Dev.rowWrite_loss_lost i.isLt hreach hvalid)
  case force =>
    have hn : n.toNat < 8192 := n.isLt
    obtain ⟨hset, hsetEn⟩ := force_word hn true
    obtain ⟨hclear, hclearEn⟩ := force_word hn false
    intro m
    split
    · next hlegal =>
      have hforce := Dev.rowWrite_force_forces hn hreach hset hlegal
      have hfree := Dev.rowWrite_force_forces hn hreach hclear hlegal
      rw [hsetEn] at hforce
      rw [hclearEn] at hfree
      obtain ⟨hforced, hcopies, hlast⟩ := hforce
      obtain ⟨hfreed, hcopies', hlast'⟩ := hfree
      exact ⟨hnext (exec_slotForce_eq who s n) ⟨hforced, hlast, hcopies⟩, hnext (exec_slotRelease_eq who s n) ⟨hfreed, hcopies', hlast'⟩⟩
    · next hill =>
      intro c hc
      simp only [List.mem_cons, List.not_mem_nil, or_false] at hc
      obtain rfl | rfl := hc
      · exact hnext ((exec_slotForce_eq who s n).trans (next_congr (Dev.rowWrite_force_refused hreach hset hill))) (Dev.readEnts_misuse s.dev hn)
      · exact hnext ((exec_slotRelease_eq who s n).trans (next_congr (Dev.rowWrite_force_refused hreach hclear hill))) (Dev.readEnts_misuse s.dev hn)
  case arith => exact hnext (exec_arithReport_eq who k s) (Dev.rowWrite_arith_counts d hk hreach)
  case latch =>
    intro skip
    have hexec := (exec_inputLatch_eq k s).trans (next_congr (Dev.latchAll_eq hroles))
    have hcomes : d.t0Due k t0 := ⟨hcome, hen, hon⟩
    have hskip : skip ↔ d.t0Skipped k t0 := (Dev.t0Skipped_iff d k t0).symm
    obtain ⟨ht0, hopen, hlate, hreleased, hcycle⟩ := Dev.t0Opened_task (k := k) d t0 rest
    have hregs := Dev.t0Opened_regs d hk t0 rest
    have hrun : (d.t0Opened k t0 rest).fld .CTL_TASK_STAT_RUN k = d.fld .CTL_TASK_STAT_RUN k := hregs.fld (Dev.hasCopy_task hk (by decide)) (by decide)
    refine ⟨fun h => ?_, fun h hbusy => ?_, fun h hidle => ?_⟩
    · rw [Dev.inputLatch_skips hqueue hcomes (hskip.mp h)] at hexec
      exact hnext hexec (Dev.skipped_task d hk t0 rest)
    · rw [Dev.inputLatch_opens hqueue hcomes fun g => h (hskip.mpr g), hrun, if_pos hbusy] at hexec
      exact hnext hexec ⟨ht0, hopen, hlate, hreleased, hcycle, Dev.t0Opened_mem d t0 rest⟩
    · rw [Dev.inputLatch_opens hqueue hcomes fun g => h (hskip.mpr g), hrun, if_neg (not_not_intro hidle)] at hexec
      exact ⟨d.t0Opened k t0 rest, hexec, ht0, hopen, Dev.t0Opened_mem d t0 rest, fun n hn => hregs.reg _ _ _ _ (Dev.hasCopy_slot hn) (by decide)⟩
  case exchange =>
    intro e
    split
    · next hdue =>
      obtain ⟨hcode, hpend, hran, hprev, hmem⟩ := Dev.exchanged_task d hk
      exact ⟨(d.exchanged k).fresh.2, _, Dev.exchangeAt_exchanges hdue.1 hdue.2, hcode, hpend, hran, hprev, hmem⟩
    · next hwait => exact Dev.exchangeAt_waits hwait
  case slot =>
    obtain ⟨hlt, hin, -, howned, -⟩ := Dev.mem_taskSlots.mp hn
    obtain ⟨hcopies, hpend, hqual, hstale, hlast⟩ := Dev.latchSlot_latches (s := d) hk hlt hin howned
    exact ⟨rfl, hcopies, hpend, hqual, hstale, hlast, (Dev.latchSlot_only hk hlt d).other⟩
  case waits => exact (exec_taskRelease_eq k s).trans (next_congr (Dev.taskRelease_waits htable hwaits))
  case release =>
    have hexec := (exec_taskRelease_eq k s).trans (next_congr (Dev.taskRelease_pushes hrelease htable))
    intro d' x mid j p
    have hp : p = d'.releasePush k size := rfl
    split
    · next href =>
      rw [← hp, if_pos href] at hexec
      exact hnext hexec ⟨Dev.reg_count_same .., rfl, rfl⟩
    · next hpush =>
      rw [← hp, if_neg hpush] at hexec
      refine hnext hexec ⟨Dev.fld_setFld_of_fits _ (by decide) (by decide), ?_, ?_, rfl⟩ <;> rw [Dev.task_updTask_same]
  case deadline =>
    intro safe consec
    obtain ⟨hreg, hfld, hflag, hmem, htask⟩ := Dev.deadlineAll_shows hk hdue hcopy
    have hexec : exec (.outputDeadline k) s = .next (s.withDev (d.deadlineAll k)) := exec_outputDeadline_eq k s
    have hclosed : ((d.closed k).task k).isOpen = false := congrArg TaskSt.isOpen (Dev.task_updTask_same ..)
    have hdone := Dev.outputDeadline_due hdue
    refine ⟨fun hin => hnext hexec ?_, fun hlate => hnext hexec ?_⟩
    · rw [hin, if_pos rfl] at hdone
      obtain ⟨hruns, hzero, hopen, hbytes⟩ := Dev.taskCommit_counts (d.closed k) hk
      simp only [up, hreg, hfld, hmem, htask, hdone]
      refine ⟨hruns, hzero, hopen.trans hclosed, hbytes, fun n hn => ?_⟩
      have hslot := Dev.taskCommit_slot (s := d.closed k) hk ((Dev.closed_taskSlots d k).symm ▸ hn)
      have hlast : ∀ v : Nat, (if (hold || safe) = true then 3 else v) = if hold = true ∨ safe = true then 3 else v := fun v => by simp
      dsimp only [copies] at hslot ⊢
      simp only [hfld, hdone, hlast]
      exact hslot
    · rw [hlate, if_neg (by decide)] at hdone
      obtain ⟨hovr, hconsec, hopen, hbytes, -, hrun, hsafe, hunsafe, hslots⟩ := Dev.taskOverrun_counts (d.closed k) hk
      rw [Dev.closed_taskSlots] at hsafe hslots
      simp only [up, hreg, hfld, hflag, hmem, htask, hdone]
      refine ⟨hovr, hconsec, hopen.trans hclosed, hbytes, hrun, hsafe, hunsafe, fun n hn => ?_⟩
      dsimp only [copies]
      simp only [hfld, hdone]
      exact hslots n hn
  case control =>
    have harm := (exec_arm_eq who k s).trans (next_congr (Dev.rowWrite_arm hreach))
    have hclear := (exec_clrSafe_eq who k s).trans (next_congr (Dev.rowWrite_clrSafe hreach))
    refine ⟨?_, hnext hclear (Dev.leaveSafe_leaves ..)⟩
    split
    · next hlegal => exact hnext harm (Dev.taskArm_pends d hk hlegal)
    · next hill => exact hnext harm (Dev.taskArm_refused d hk hill)

end Sys2Proof.Machine
end

section
/-! Hold writes registers of CTL, CAN and Blades, which lie from 0xB0000 up, and rings doorbells: what such changes do not touch stands after it
(R430, R487, R488). -/

namespace Sys2Proof.Machine

namespace Dev

/-- The property survives writes of registers of CTL and the blocks above it, doorbells, and what CAN and Blades keep. -/
structure Lasts (P : Dev → Prop) : Prop where
  setReg : ∀ {t : Dev} {q : Reg} {i j k : Nat} (v : Nat), 0xB0000 ≤ q.info.off → P t → P (t.setReg q v i j k)
  ringMask : ∀ {t : Dev} {n : Nat} (mask : Nat), n < 32 → P t → P (t.ringMask n mask)
  updCan : ∀ {t : Dev} (n : Nat) (f : CanSt → CanSt), P t → P (t.updCan n f)
  updGrp : ∀ {t : Dev} (n : Nat) (f : BldGrp → BldGrp), P t → P (t.updGrp n f)

namespace Lasts
variable {P : Dev → Prop} {s : Dev} {n : Nat} (hP : Lasts P)
include hP

theorem setFld {f : Fld} {i j k : Nat} (hf : 0xB0000 ≤ f.reg.info.off) (v : Nat) (h : P s) : P (s.setFld f v i j k) := hP.setReg _ hf h

omit hP in
theorem ite {c : Prop} [Decidable c] {t : Dev} (ht : P t) (hs : P s) : P (if c then t else s) := by
  split <;> assumption

theorem slotShow (n : Nat) (h : P s) : P (s.slotShow n) := by
  rw [slotShow_eq]
  exact ite (hP.setFld (by decide) _ h) (hP.setFld (by decide) _ (hP.setFld (by decide) _ h))

theorem ctlHold (on : Bool) (h : P s) : P (s.ctlHold on) :=
  each_keeps (P := P) (fun n _ _ => hP.slotShow n) _ (hP.setFld (f := .CTL_STATUS_HOLD) (by decide) _ h)

theorem canBell (f : Fld) (h : P s) : P (s.canBell n f) := by
  have htarget (t : Dev) : t.fld .CAN_DB_TARGET n < 32 := bits_lt _ 4 0
  exact when_keeps (P := P) (fun t => hP.ringMask _ (htarget t)) _ h

theorem canGo (st : Nat) (h : P s) : P (s.canGo n st) :=
  ite h (hP.canBell _ (hP.setFld (f := .CAN_STATUS_STATE) (by decide) _ h))

theorem setCanBit {r : Reg} (hr : 0xB0000 ≤ r.info.off) (b : Nat) (v : Bool) (h : P s) : P (s.setCanBit r n b v) := hP.setReg _ hr h

theorem bufResult (b r : Nat) (h : P s) : P (s.bufResult n b r) := hP.setReg (q := .CAN_BUF) _ (by decide) h

theorem canFailed (t : CanTx) (r : Nat) (h : P s) : P (s.canFailed n t r) :=
  ite (hP.bufResult _ _ (hP.setCanBit (by decide) _ _ h)) (ite (hP.bufResult _ _ h) h)

theorem canBus (tx : Option CanTx) (rx : Option CanSof) (h : P s) : P (s.canBus n tx rx) :=
  hP.setFld (f := .CAN_STATUS_BUSY) (by decide) _ (hP.updCan _ _ h)

theorem canOver (rx : Option CanSof) (h : P s) : P (s.canOver n rx) :=
  ite (hP.canBus none rx h) (hP.canGo _ (hP.updCan _ _ (hP.canBus none rx h)))

theorem canMute (n : Nat) (h : P s) : P (s.canMute n) := by
  unfold Dev.canMute
  split
  · exact ite (hP.canOver none (hP.canFailed _ _ h)) h
  · exact h

theorem bldHold (h : P s) : P s.bldHold := by
  refine each_keeps (P := P) (fun g _ t ht => ite ht ?_) s h
  have hstop : P ((t.setFld .BLD_CTRL_EN 0 g).updGrp g fun x => { x with safe := 0xFF }) := hP.updGrp _ _ (hP.setFld (by decide) _ ht)
  exact each_keeps (P := P) (fun b _ _ => hP.setFld (f := .BLD_STATUS_STATE) (by decide) _) _ hstop

/-- What the units do when Hold begins, before the mode follows. -/
theorem holdUnits (h : P (s.setFlag .SYS_MODE_CTRL_HOLD true)) :
    P ((((s.setFlag .SYS_MODE_CTRL_HOLD true).ctlHold true).each (List.range 8) Dev.canMute).bldHold) :=
  hP.bldHold (each_keeps (P := P) (fun n _ _ => hP.canMute n) _ (hP.ctlHold true h))

end Lasts

end Dev

end Sys2Proof.Machine
end

section
/-! The state of the pairs unit as its operations see it: the fields of PAR_STATUS, the settings, the counters and what the unit keeps. Doorbells, the
mode and the Hold that follow a change of role leave it as it is (R445 to R453). -/

namespace Sys2Proof.Machine

/-- What the roles, heartbeats and paths of a pair rest on. -/
structure PairView where
  state : Nat
  sync : Nat
  unfit : Bool
  detached : Bool
  cold : Bool
  rank : Bool
  lanes : Nat
  pathT : Bool
  pathN : Bool
  partner : Nat
  partnerUnfit : Bool
  tmiss : Nat
  nmiss : Nat
  en : Bool
  lim : Nat
  netEn : Bool
  evRole : Bool
  pairId : Nat
  partnerNode : Nat
  tmissCnt : Nat
  nmissCnt : Nat
  takeoverCnt : Nat
  yieldCnt : Nat
  par : ParSt

/-- The registers of which the view shows fields. -/
def pairRegs : List Reg :=
  [.PAR_STATUS, .PAR_CFG, .PAR_NETHB, .PAR_DB, .PAR_ID, .PAR_NODE, .PAR_TMISS_CNT, .PAR_NMISS_CNT, .PAR_TAKEOVER_CNT, .PAR_YIELD_CNT]

namespace Dev

def pairView (s : Dev) : PairView where
  state := s.parState
  sync := s.parSync
  unfit := s.flag .PAR_STATUS_UNFIT
  detached := s.flag .PAR_STATUS_DETACHED
  cold := s.flag .PAR_STATUS_COLD
  rank := s.flag .PAR_STATUS_RANK
  lanes := s.fld .PAR_STATUS_LANES
  pathT := s.flag .PAR_STATUS_PATH_T
  pathN := s.flag .PAR_STATUS_PATH_N
  partner := s.fld .PAR_STATUS_PARTNER_STATE
  partnerUnfit := s.flag .PAR_STATUS_PARTNER_UNFIT
  tmiss := s.fld .PAR_STATUS_TMISS
  nmiss := s.fld .PAR_STATUS_NMISS
  en := s.flag .PAR_CFG_EN
  lim := s.fld .PAR_CFG_MISS_LIMIT
  netEn := s.flag .PAR_NETHB_EN
  evRole := s.flag .PAR_DB_EV_ROLE
  pairId := s.fld .PAR_ID_PAIR_ID
  partnerNode := s.fld .PAR_NODE_PARTNER
  tmissCnt := s.reg .PAR_TMISS_CNT
  nmissCnt := s.reg .PAR_NMISS_CNT
  takeoverCnt := s.reg .PAR_TAKEOVER_CNT
  yieldCnt := s.reg .PAR_YIELD_CNT
  par := s.par

variable {l : List Reg} {s t u : Dev}

/-! ### What leaves the view -/

/-- The registers of the view and what the unit keeps stand in `t` as in `s`. -/
structure PairSame (s t : Dev) : Prop where
  regs : ∀ r ∈ pairRegs, t.reg r = s.reg r
  par : t.par = s.par

namespace PairSame

theorem refl (s : Dev) : PairSame s s := ⟨fun _ _ => rfl, rfl⟩

theorem trans (h : PairSame s t) (g : PairSame t u) : PairSame s u := ⟨fun r hr => (g.regs r hr).trans (h.regs r hr), g.par.trans h.par⟩

theorem each {α : Type} {f : α → Dev → Dev} {as : List α} (hf : ∀ a ∈ as, ∀ d, PairSame d (f a d)) (s : Dev) : PairSame s (s.each as f) :=
  each_keeps (P := PairSame s) (fun a ha d hd => hd.trans (hf a ha d)) s (.refl s)

theorem of_regsBut (h : RegsBut l s t) (hl : ∀ r ∈ pairRegs, r ∉ l) (hpar : t.par = s.par) : PairSame s t :=
  ⟨fun r hr => h.reg r 0 0 0 (Reg.hasCopy_alone ((by decide : ∀ r ∈ pairRegs, r.info.strides = []) r hr)) (hl r hr), hpar⟩

theorem of_regsOnly (h : RegsOnly l s t) (hl : ∀ r ∈ pairRegs, r ∉ l) : PairSame s t := .of_regsBut h.regs hl h.par

theorem setReg {q : Reg} {i j k : Nat} (hq : 0xB0000 ≤ q.info.off) (v : Nat) : PairSame s (s.setReg q v i j k) := by
  refine ⟨fun r hr => reg_setReg_other _ ?_ _, rfl⟩
  have hlow : r.addr < 0xB0000 := (by decide : ∀ r ∈ pairRegs, r.addr < 0xB0000) r hr
  have hhigh : q.info.off ≤ q.addr i j k := Nat.le_add_right ..
  exact fun h => absurd (h ▸ hlow) (by omega)

theorem setFld {f : Fld} {i j k : Nat} (hf : 0xB0000 ≤ f.reg.info.off) (v : Nat) : PairSame s (s.setFld f v i j k) := setReg hf _

theorem ite {c : Prop} [Decidable c] (ht : PairSame s t) (hu : PairSame s u) : PairSame s (if c then t else u) := by
  split <;> assumption

theorem view (h : PairSame s t) : t.pairView = s.pairView := by
  have hfld (f : Fld) (hf : f.reg ∈ pairRegs) : t.fld f = s.fld f := congrArg (bits · f.hi f.lo) (h.regs _ hf)
  have hflag (f : Fld) (hf : f.reg ∈ pairRegs) : t.flag f = s.flag f := congrArg (· != 0) (hfld f hf)
  unfold pairView parState parSync
  rw [hfld .PAR_STATUS_STATE (by decide), hfld .PAR_STATUS_SYNC (by decide), hflag .PAR_STATUS_UNFIT (by decide), hflag .PAR_STATUS_DETACHED (by decide),
    hflag .PAR_STATUS_COLD (by decide), hflag .PAR_STATUS_RANK (by decide), hfld .PAR_STATUS_LANES (by decide), hflag .PAR_STATUS_PATH_T (by decide),
    hflag .PAR_STATUS_PATH_N (by decide), hfld .PAR_STATUS_PARTNER_STATE (by decide), hflag .PAR_STATUS_PARTNER_UNFIT (by decide),
    hfld .PAR_STATUS_TMISS (by decide), hfld .PAR_STATUS_NMISS (by decide), hflag .PAR_CFG_EN (by decide), hfld .PAR_CFG_MISS_LIMIT (by decide),
    hflag .PAR_NETHB_EN (by decide), hflag .PAR_DB_EV_ROLE (by decide), hfld .PAR_ID_PAIR_ID (by decide), hfld .PAR_NODE_PARTNER (by decide),
    h.regs .PAR_TMISS_CNT (by decide), h.regs .PAR_NMISS_CNT (by decide), h.regs .PAR_TAKEOVER_CNT (by decide), h.regs .PAR_YIELD_CNT (by decide), h.par]

end PairSame

theorem parBell_same (s : Dev) (f : Fld) : PairSame s (s.parBell f) :=
  .of_regsOnly ((RegsOnly.refl s).when (l := bellRegs) fun _ h => h.ringMask (bits_lt ..) (List.Subset.refl _)) (by decide)

theorem modeUpdate_same (s : Dev) : PairSame s s.modeUpdate := .of_regsOnly ((RegsOnly.refl s).modeUpdate (List.Subset.refl _)) (by decide)

/-! ### Hold -/

theorem same_lasts (s : Dev) : Lasts (PairSame s) where
  setReg v hq h := h.trans (.setReg hq v)
  ringMask mask hn h := h.trans (.of_regsOnly ((RegsOnly.refl _).ringMask (l := bellRegs) hn (List.Subset.refl _)) (by decide))
  updCan _ _ h := ⟨h.regs, h.par⟩
  updGrp _ _ h := ⟨h.regs, h.par⟩

theorem holdEnter_same (s : Dev) : PairSame s s.holdEnter := by
  have hflag : PairSame s (s.setFlag .SYS_MODE_CTRL_HOLD true) :=
    .of_regsOnly ((RegsOnly.refl s).setFlag (l := [.SYS_MODE_CTRL]) (Reg.hasCopy_alone rfl) (by decide)) (by decide)
  exact .ite (.refl s) (((same_lasts s).holdUnits hflag).trans (modeUpdate_same _))

end Dev

end Sys2Proof.Machine
end

section
/-! The roles, paths and heartbeats of a pair on its view: each operation is a function of the view (R449 to R453, R460). -/

namespace Sys2Proof.Machine

namespace PairView

/-- SYNC becomes UNSYNCED or SYNCING; pages count from the start of SYNCING. -/
def setSync (n : Nat) (v : PairView) : PairView := { v with sync := n, par := if n = 1 then { v.par with arrived := [] } else v.par }

def toStandby (v : PairView) : PairView :=
  { v with
    state := parStandby, sync := 0
    par := { v.par with
      yieldNext := false, yielding := false, yieldSent := false, takeNext := false, took := false, window := false, seq := none, outs := [], outsDone := false,
      ended := false, late := false } }

def toActive (v : PairView) : PairView :=
  { v with
    state := parActive
    par := { v.par with
      takeNext := false, yieldNext := false, yielding := false, yieldSent := false, took := v.state == parStandby && v.evRole } }

def toOff (v : PairView) : PairView :=
  { v with
    state := parOff, en := false, pathT := false, pathN := false, detached := false
    par := { v.par with yieldNext := false, yielding := false, yieldSent := false, takeNext := false, took := false } }

/-- DETACHED by the paths: none over the tandem link, and one over the network, or none since it was the last. -/
def detaches (v : PairView) : Bool := if v.tmiss < v.lim then false else v.detached || (v.netEn && v.nmiss < v.lim)

def paths (v : PairView) : PairView :=
  { v with
    pathT := v.tmiss < v.lim, pathN := v.netEn && v.nmiss < v.lim, detached := v.detaches
    sync := if v.detaches && v.state == parStandby then 0 else v.sync
    par := if v.lim ≤ v.nmiss then { v.par with netCount := none } else v.par }

def silence (v : PairView) : PairView :=
  if v.state ≠ parStandby || v.pathT || v.pathN then v
  else if v.unfit then v.toOff
  else { v with takeoverCnt := min (v.takeoverCnt + 1) 0xFFFFFFFF, cold := v.sync != 2 }.toActive

def taken (h : Heartbeat) (v : PairView) : PairView :=
  let v := { v with partner := h.state, partnerUnfit := h.unfit, par := { v.par with heard := true, partnerSync := h.sync } }
  if v.state ≠ parListen then v
  else if h.state = parActive then v.toStandby
  else if h.state = parListen && !v.rank then v.toActive
  else v

def syncUp (v : PairView) : PairView := if v.state == parStandby && v.sync == 0 && !v.par.imgDiffers then v.setSync 1 else v

end PairView

namespace Dev
variable {s t : Dev}

/-! ### Writes of single fields -/

section
variable (s : Dev)

theorem view_setState {st : Nat} (h : st < 4) : (s.setFld .PAR_STATUS_STATE st).pairView = { s.pairView with state := st } := by
  have hst : (s.setFld .PAR_STATUS_STATE st).fld .PAR_STATUS_STATE = st := fld_setFld_of_fits s (by decide) h
  simp +decide [pairView, parState, parSync, Reg.hasCopy_alone, hst]

theorem view_setSyncFld {n : Nat} (h : n < 4) : (s.setFld .PAR_STATUS_SYNC n).pairView = { s.pairView with sync := n } := by
  have hn : (s.setFld .PAR_STATUS_SYNC n).fld .PAR_STATUS_SYNC = n := fld_setFld_of_fits s (by decide) h
  simp +decide [pairView, parState, parSync, Reg.hasCopy_alone, hn]

theorem view_setDetached (b : Bool) : (s.setFlag .PAR_STATUS_DETACHED b).pairView = { s.pairView with detached := b } := by
  simp +decide [pairView, parState, parSync, setFlag, Reg.hasCopy_alone]

theorem view_setPathT (b : Bool) : (s.setFlag .PAR_STATUS_PATH_T b).pairView = { s.pairView with pathT := b } := by
  simp +decide [pairView, parState, parSync, setFlag, Reg.hasCopy_alone]

theorem view_setPathN (b : Bool) : (s.setFlag .PAR_STATUS_PATH_N b).pairView = { s.pairView with pathN := b } := by
  simp +decide [pairView, parState, parSync, setFlag, Reg.hasCopy_alone]

theorem view_setCold (b : Bool) : (s.setFlag .PAR_STATUS_COLD b).pairView = { s.pairView with cold := b } := by
  simp +decide [pairView, parState, parSync, setFlag, Reg.hasCopy_alone]

theorem view_setRank (b : Bool) : (s.setFlag .PAR_STATUS_RANK b).pairView = { s.pairView with rank := b } := by
  simp +decide [pairView, parState, parSync, setFlag, Reg.hasCopy_alone]

theorem view_setUnfit (b : Bool) : (s.setFlag .PAR_STATUS_UNFIT b).pairView = { s.pairView with unfit := b } := by
  simp +decide [pairView, parState, parSync, setFlag, Reg.hasCopy_alone]

theorem view_setPartner {st : Nat} (h : st < 4) : (s.setFld .PAR_STATUS_PARTNER_STATE st).pairView = { s.pairView with partner := st } := by
  have hst : (s.setFld .PAR_STATUS_PARTNER_STATE st).fld .PAR_STATUS_PARTNER_STATE = st := fld_setFld_of_fits s (by decide) h
  simp +decide [pairView, parState, parSync, Reg.hasCopy_alone, hst]

theorem view_setPartnerUnfit (b : Bool) : (s.setFlag .PAR_STATUS_PARTNER_UNFIT b).pairView = { s.pairView with partnerUnfit := b } := by
  simp +decide [pairView, parState, parSync, setFlag, Reg.hasCopy_alone]

theorem view_setTmiss {n : Nat} (h : n < 16) : (s.setFld .PAR_STATUS_TMISS n).pairView = { s.pairView with tmiss := n } := by
  have hn : (s.setFld .PAR_STATUS_TMISS n).fld .PAR_STATUS_TMISS = n := fld_setFld_of_fits s (by decide) h
  simp +decide [pairView, parState, parSync, Reg.hasCopy_alone, hn]

theorem view_setNmiss {n : Nat} (h : n < 16) : (s.setFld .PAR_STATUS_NMISS n).pairView = { s.pairView with nmiss := n } := by
  have hn : (s.setFld .PAR_STATUS_NMISS n).fld .PAR_STATUS_NMISS = n := fld_setFld_of_fits s (by decide) h
  simp +decide [pairView, parState, parSync, Reg.hasCopy_alone, hn]

theorem view_setEn (b : Bool) : (s.setFlag .PAR_CFG_EN b).pairView = { s.pairView with en := b } := by
  simp +decide [pairView, parState, parSync, setFlag, Reg.hasCopy_alone]

theorem view_countTmiss : (s.count .PAR_TMISS_CNT).pairView = { s.pairView with tmissCnt := min (s.reg .PAR_TMISS_CNT + 1) 0xFFFFFFFF } := by
  have hcount := reg_count_same s .PAR_TMISS_CNT 0 0 0
  simp +decide [pairView, parState, parSync, count, Reg.hasCopy_alone] at hcount ⊢
  exact hcount

theorem view_countNmiss : (s.count .PAR_NMISS_CNT).pairView = { s.pairView with nmissCnt := min (s.reg .PAR_NMISS_CNT + 1) 0xFFFFFFFF } := by
  have hcount := reg_count_same s .PAR_NMISS_CNT 0 0 0
  simp +decide [pairView, parState, parSync, count, Reg.hasCopy_alone] at hcount ⊢
  exact hcount

theorem view_countTakeover : (s.count .PAR_TAKEOVER_CNT).pairView = { s.pairView with takeoverCnt := min (s.reg .PAR_TAKEOVER_CNT + 1) 0xFFFFFFFF } := by
  have hcount := reg_count_same s .PAR_TAKEOVER_CNT 0 0 0
  simp +decide [pairView, parState, parSync, count, Reg.hasCopy_alone] at hcount ⊢
  exact hcount

theorem view_countYield : (s.count .PAR_YIELD_CNT).pairView = { s.pairView with yieldCnt := min (s.reg .PAR_YIELD_CNT + 1) 0xFFFFFFFF } := by
  have hcount := reg_count_same s .PAR_YIELD_CNT 0 0 0
  simp +decide [pairView, parState, parSync, count, Reg.hasCopy_alone] at hcount ⊢
  exact hcount

theorem view_updPar (f : ParSt → ParSt) : (s.updPar f).pairView = { s.pairView with par := f s.par } := rfl

end

/-! ### The operations -/

section
variable (s : Dev)

theorem view_parGo {st : Nat} (h : st < 4) : (s.parGo st).pairView = { s.pairView with state := st } := by
  unfold parGo
  split
  · next hsame =>
    rw [← hsame]
    rfl
  · rw [((parBell_same _ _).trans (modeUpdate_same _)).view, view_setState s h]

theorem view_setSync {n : Nat} (h : n < 4) : (s.setSync n).pairView = s.pairView.setSync n := by
  unfold setSync
  rw [view_updPar, view_setSyncFld s h]
  rfl

theorem view_parToStandby : s.parToStandby.pairView = s.pairView.toStandby := by
  unfold parToStandby
  rw [view_parGo _ (by decide), view_updPar, view_setSync s (by decide)]
  rfl

theorem view_parToActive : s.parToActive.pairView = s.pairView.toActive := by
  unfold parToActive
  rw [view_parGo _ (by decide), view_updPar]
  rfl

theorem view_parToOff : s.parToOff.pairView = s.pairView.toOff := by
  unfold parToOff
  extract_lets off shown
  have hoff : off.pairView = { s.pairView with
      state := parOff, en := false
      par := { s.par with yieldNext := false, yielding := false, yieldSent := false, takeNext := false, took := false } } := by
    rw [view_parGo _ (by decide), view_updPar, view_setEn]
    rfl
  have hshown : shown.pairView = s.pairView.toOff := by
    rw [view_setDetached, view_setPathN, view_setPathT, hoff]
    rfl
  split
  · rw [(holdEnter_same _).view, hshown]
  · exact hshown

/-- The paths as PAR_STATUS shows them, before a change rings. -/
theorem view_parPaths : s.parPaths.pairView = s.pairView.paths := by
  unfold parPaths
  extract_lets lim forgot tpath npath det changed shown synced
  have hforgot : forgot.pairView = { s.pairView with par := if s.pairView.lim ≤ s.pairView.nmiss then { s.par with netCount := none } else s.par } := by
    unfold forgot
    by_cases h : lim ≤ s.fld .PAR_STATUS_NMISS
    · rw [if_pos h, view_updPar, if_pos (show s.pairView.lim ≤ s.pairView.nmiss from h)]
    · rw [if_neg h, if_neg (show ¬ s.pairView.lim ≤ s.pairView.nmiss from h)]
      rfl
  have htpath : tpath = (s.pairView.tmiss < s.pairView.lim) := congrArg (fun v : PairView => v.tmiss < lim) hforgot
  have hnpath : npath = (s.pairView.netEn && decide (s.pairView.nmiss < s.pairView.lim)) :=
    congrArg (fun v : PairView => v.netEn && decide (v.nmiss < lim)) hforgot
  have hdet : det = s.pairView.detaches := by
    have hflag : forgot.flag .PAR_STATUS_DETACHED = s.pairView.detached := congrArg PairView.detached hforgot
    unfold det PairView.detaches
    simp only [htpath, hnpath, hflag]
  have hshown : shown.pairView = { forgot.pairView with pathT := decide tpath, pathN := npath, detached := det } := by
    unfold shown
    rw [view_setDetached, view_setPathN, view_setPathT]
  have hsynced : synced.pairView = s.pairView.paths := by
    have hstate : shown.parState = s.pairView.state := by
      have hstate := congrArg PairView.state hshown
      rw [hforgot] at hstate
      exact hstate
    unfold synced PairView.paths
    simp only [hstate, hdet]
    by_cases h : (s.pairView.detaches && s.pairView.state == parStandby) = true
    · rw [if_pos h, if_pos h, view_setSync _ (by decide), hshown, hforgot]
      simp only [htpath, hnpath, hdet]
      rfl
    · rw [if_neg h, if_neg h, hshown, hforgot]
      simp only [htpath, hnpath, hdet]
      rfl
  split
  · rw [(parBell_same _ _).view, hsynced]
  · exact hsynced

theorem view_parSilence : s.parSilence.pairView = s.pairView.silence := by
  unfold parSilence PairView.silence
  by_cases hstay : (decide (s.parState ≠ parStandby) || s.flag .PAR_STATUS_PATH_T || s.flag .PAR_STATUS_PATH_N) = true
  · rw [if_pos hstay, if_pos (show (decide (s.pairView.state ≠ parStandby) || s.pairView.pathT || s.pairView.pathN) = true from hstay)]
  · rw [if_neg hstay, if_neg (show ¬ (decide (s.pairView.state ≠ parStandby) || s.pairView.pathT || s.pairView.pathN) = true from hstay)]
    by_cases hunfit : s.flag .PAR_STATUS_UNFIT = true
    · rw [if_pos hunfit, if_pos (show s.pairView.unfit = true from hunfit), view_parToOff]
    · rw [if_neg hunfit, if_neg (show ¬ s.pairView.unfit = true from hunfit), view_parToActive, view_setCold, view_countTakeover]
      rfl

theorem view_heartbeatTaken {h : Heartbeat} (hstate : h.state < 4) : (s.heartbeatTaken h).pairView = s.pairView.taken h := by
  unfold heartbeatTaken
  extract_lets shown heard
  have hheard : heard.pairView = { s.pairView with
      partner := h.state, partnerUnfit := h.unfit, par := { s.par with heard := true, partnerSync := h.sync } } := by
    unfold heard shown
    rw [view_updPar, view_setPartnerUnfit, view_setPartner s hstate]
    rfl
  have hst : heard.parState = s.pairView.state := congrArg PairView.state hheard
  have hrank : heard.flag .PAR_STATUS_RANK = s.pairView.rank := congrArg PairView.rank hheard
  unfold PairView.taken
  dsimp only
  rw [hst, hrank, ← show s.pairView.par = s.par from rfl] at *
  split_ifs
  · exact hheard
  · rw [view_parToStandby, hheard]
  · rw [view_parToActive, hheard]
  · exact hheard

theorem view_syncUp : s.syncUp.pairView = s.pairView.syncUp := by
  unfold syncUp PairView.syncUp
  by_cases h : (s.parState == parStandby && s.parSync == 0 && !s.par.imgDiffers) = true
  · rw [if_pos h, if_pos (show (s.pairView.state == parStandby && s.pairView.sync == 0 && !s.pairView.par.imgDiffers) = true from h), view_setSync s (by decide)]
  · rw [if_neg h, if_neg (show ¬ (s.pairView.state == parStandby && s.pairView.sync == 0 && !s.pairView.par.imgDiffers) = true from h)]

end

end Dev

end Sys2Proof.Machine
end

section
/-! Heartbeats, their misses and the writes of PAR_CFG and PAR_CTRL, on the view of the pair (R449 to R453, R460, R466). -/

namespace Sys2Proof.Machine

namespace PairView

/-- A tandem heartbeat that is valid. -/
def heartbeat (h : Heartbeat) (v : PairView) : PairView :=
  let v := { v with tmiss := 0 }.paths
  let v := { v with par := { v.par with tandemFit := h.sync == 2 && !h.unfit } }.taken h
  (if v.state == parStandby && h.yield && v.sync == 2 && !v.unfit then { v with par := { v.par with takeNext := true } }
    else if v.state == parActive && h.state == parActive && v.rank then { v with yieldCnt := min (v.yieldCnt + 1) 0xFFFFFFFF }.toStandby
    else v).syncUp

/-- A network heartbeat that is valid. -/
def networkHeartbeat (h : Heartbeat) (v : PairView) : PairView :=
  { v with nmiss := 0, par := { v.par with netCount := some h.count } }.paths.taken h

/-- A period without a heartbeat on a path. -/
def missed (net : Bool) (v : PairView) : PairView :=
  (if net then { v with nmissCnt := min (v.nmissCnt + 1) 0xFFFFFFFF, nmiss := min 15 (v.nmiss + 1) }
    else { v with tmissCnt := min (v.tmissCnt + 1) 0xFFFFFFFF, tmiss := min 15 (v.tmiss + 1) }).paths.silence

/-- The state after the rows of LISTEN (R452). -/
def heardState (v : PairView) (h : Heartbeat) : Nat :=
  if v.state = parListen then (if h.state = parActive then parStandby else if h.state = parListen ∧ v.rank = false then parActive else parListen) else v.state

/-- The state after a tandem heartbeat: of two ACTIVE units the one of rank 1 yields. -/
def tandemState (v : PairView) (h : Heartbeat) : Nat :=
  if v.heardState h = parActive ∧ h.state = parActive ∧ v.rank = true then parStandby else v.heardState h

variable {v : PairView} {h : Heartbeat}

/-- Where the tandem path lives, a unit is not detached. -/
theorem paths_alive (hlive : v.tmiss < v.lim) : v.paths = { v with
    pathT := true, pathN := v.netEn && v.nmiss < v.lim, detached := false, par := if v.lim ≤ v.nmiss then { v.par with netCount := none } else v.par } := by
  simp [paths, detaches, hlive]

theorem taken_state (v : PairView) (h : Heartbeat) : (v.taken h).state = v.heardState h := by
  unfold taken heardState
  dsimp only
  by_cases hlisten : v.state = parListen
  · by_cases hactive : h.state = parActive
    · simp [hlisten, hactive, toStandby]
    · by_cases hboth : h.state = parListen ∧ v.rank = false
      · simp [hlisten, hboth, toActive, parListen, parActive]
      · simp [hlisten, hactive, hboth]
  · simp [hlisten]

/-- What a valid heartbeat leaves, whatever the unit's state. -/
theorem taken_kept (v : PairView) (h : Heartbeat) : let w := v.taken h
    w.partner = h.state ∧ w.partnerUnfit = h.unfit ∧ w.par.heard = true ∧ w.unfit = v.unfit ∧ w.tmiss = v.tmiss ∧ w.nmiss = v.nmiss ∧
      w.pathT = v.pathT ∧ w.detached = v.detached ∧ w.par.tandemFit = v.par.tandemFit ∧ w.par.netCount = v.par.netCount ∧ w.par.rxPn = v.par.rxPn ∧
      w.par.imgDiffers = v.par.imgDiffers ∧ w.yieldCnt = v.yieldCnt ∧ w.rank = v.rank := by
  unfold taken toStandby toActive
  dsimp only
  split_ifs <;> simp

/-- SYNC falls where a unit becomes a standby. -/
theorem taken_sync (v : PairView) (h : Heartbeat) : (v.taken h).sync = if v.state ≠ parStandby ∧ v.heardState h = parStandby then 0 else v.sync := by
  unfold taken heardState
  dsimp only
  by_cases hlisten : v.state = parListen
  · by_cases hactive : h.state = parActive
    · simp [hlisten, hactive, toStandby, parListen, parStandby]
    · by_cases hboth : h.state = parListen ∧ v.rank = false
      · simp [hlisten, hboth, toActive, parListen, parActive, parStandby]
      · simp [hlisten, hactive, hboth, (by decide : parListen ≠ parStandby)]
  · simp [hlisten]

theorem taken_takeNext (hst : v.state = parStandby) : (v.taken h).par.takeNext = v.par.takeNext := by
  simp [taken, hst, parListen, parStandby]

/-- A standby in UNSYNCED starts SYNCING, and nothing else changes but its pages. -/
theorem syncUp_does (v : PairView) : let w := v.syncUp
    w.sync = (if v.state = parStandby ∧ v.sync = 0 ∧ v.par.imgDiffers = false then 1 else v.sync) ∧ w.state = v.state ∧ w.tmiss = v.tmiss ∧
      w.pathT = v.pathT ∧ w.detached = v.detached ∧ w.partner = v.partner ∧ w.partnerUnfit = v.partnerUnfit ∧ w.unfit = v.unfit ∧
      w.yieldCnt = v.yieldCnt ∧ w.par.heard = v.par.heard ∧ w.par.tandemFit = v.par.tandemFit ∧ w.par.rxPn = v.par.rxPn ∧
      w.par.takeNext = v.par.takeNext := by
  unfold syncUp setSync
  by_cases hsync : v.state = parStandby ∧ v.sync = 0 ∧ v.par.imgDiffers = false
  · simp [hsync]
  · have hstay : ¬ (v.state == parStandby && v.sync == 0 && !v.par.imgDiffers) = true := by simpa [and_assoc] using hsync
    rw [if_neg hstay]
    simp [hsync]

/-- A valid tandem heartbeat (R451 to R453, R460). -/
theorem heartbeat_does (hlive : 0 < v.lim) : let w := v.heartbeat h
    let y := if v.state ≠ parStandby ∧ v.tandemState h = parStandby then 0 else v.sync
    w.tmiss = 0 ∧ w.pathT = true ∧ w.detached = false ∧ w.partner = h.state ∧ w.partnerUnfit = h.unfit ∧ w.par.heard = true ∧
      w.state = v.tandemState h ∧ w.sync = (if v.tandemState h = parStandby ∧ y = 0 ∧ v.par.imgDiffers = false then 1 else y) ∧
      w.par.tandemFit = (h.sync == 2 && !h.unfit) ∧ w.unfit = v.unfit ∧ w.par.rxPn = v.par.rxPn ∧
      (v.state = parActive → v.tandemState h = parStandby → w.yieldCnt = min (v.yieldCnt + 1) 0xFFFFFFFF) ∧
      (v.state = parStandby → w.par.takeNext = (v.par.takeNext || (h.yield && v.sync == 2 && !v.unfit))) := by
  let u : PairView := { { v with tmiss := 0 }.paths with par := { { v with tmiss := 0 }.paths.par with tandemFit := h.sync == 2 && !h.unfit } }
  have hu : u.state = v.state ∧ u.sync = v.sync ∧ u.unfit = v.unfit ∧ u.rank = v.rank ∧ u.tmiss = 0 ∧ u.pathT = true ∧ u.detached = false ∧
      u.yieldCnt = v.yieldCnt ∧ u.par.tandemFit = (h.sync == 2 && !h.unfit) ∧ u.par.rxPn = v.par.rxPn ∧ u.par.imgDiffers = v.par.imgDiffers ∧
      u.par.takeNext = v.par.takeNext := by
    have hpaths := paths_alive (v := { v with tmiss := 0 }) hlive
    simp only [u, hpaths]
    split_ifs <;> simp
  obtain ⟨hstate, hsync, hunfit, hrank, htmiss, hpathT, hdet, hyield, hfit, hrx, himg, htake⟩ := hu
  have hheard : u.heardState h = v.heardState h := by simp only [heardState, hstate, hrank]
  have hstate' := (taken_state u h).trans hheard
  have hsync' := taken_sync u h
  rw [hheard, hstate, hsync] at hsync'
  obtain ⟨hpartner, hpartnerUnfit, hheardNow, hunfit', htmiss', -, hpathT', hdet', hfit', -, hrx', himg', hyield', hrank'⟩ := taken_kept u h
  have htake' : v.state = parStandby → (u.taken h).par.takeNext = v.par.takeNext := fun hst => (taken_takeNext (hstate.trans hst)).trans htake
  rw [hunfit] at hunfit'
  rw [htmiss] at htmiss'
  rw [hpathT] at hpathT'
  rw [hdet] at hdet'
  rw [hfit] at hfit'
  rw [hrx] at hrx'
  rw [himg] at himg'
  rw [hyield] at hyield'
  rw [hrank] at hrank'
  have hwhole : v.heartbeat h = PairView.syncUp (if (u.taken h).state == parStandby && h.yield && (u.taken h).sync == 2 && !(u.taken h).unfit then
      { u.taken h with par := { (u.taken h).par with takeNext := true } }
    else if (u.taken h).state == parActive && h.state == parActive && (u.taken h).rank then
      { u.taken h with yieldCnt := min ((u.taken h).yieldCnt + 1) 0xFFFFFFFF }.toStandby else u.taken h) := rfl
  generalize u.taken h = w at *
  clear_value u
  dsimp only
  by_cases htakes : w.state = parStandby ∧ h.yield = true ∧ w.sync = 2 ∧ w.unfit = false
  · obtain ⟨hw, hy, h2, hf⟩ := htakes
    have hst : v.state = parStandby := by
      by_contra hne
      rw [hsync', if_pos ⟨hne, hstate'.symm.trans hw⟩] at h2
      exact absurd h2 (by decide)
    have htandem : v.tandemState h = parStandby := by
      have hheardSt : v.heardState h = parStandby := hstate'.symm.trans hw
      simp [tandemState, hheardSt]
    rw [if_pos (by simp [hw, hy, h2, hf])] at hwhole
    obtain ⟨esync, est, etm, ept, edet, ep, epu, eu, eyc, eh, ef, er, et⟩ := syncUp_does { w with par := { w.par with takeNext := true } }
    rw [← hwhole] at esync est etm ept edet ep epu eu eyc eh ef er et
    have hv2 : v.sync = 2 := by simpa [hst, h2] using hsync'.symm
    refine ⟨etm.trans htmiss', ept.trans hpathT', edet.trans hdet', ep.trans hpartner, epu.trans hpartnerUnfit, eh.trans hheardNow,
      est.trans (hw.trans htandem.symm), ?_, ef.trans hfit', eu.trans hunfit', er.trans hrx', fun hactive => ?_, fun _ => ?_⟩
    · rw [esync]
      simp [hw, h2, hst, hv2]
    · exact absurd (hst.symm.trans hactive) (by decide)
    · rw [et]
      simp [hy, hv2, ← hunfit', hf]
  · rw [if_neg (by simpa [and_assoc] using htakes)] at hwhole
    by_cases hyields : w.state = parActive ∧ h.state = parActive ∧ w.rank = true
    · obtain ⟨hw, hh, hr⟩ := hyields
      have hheardSt : v.heardState h = parActive := hstate'.symm.trans hw
      have htandem : v.tandemState h = parStandby := by simp [tandemState, hheardSt, hh, ← hrank', hr]
      have hst : v.state ≠ parStandby := fun hst => by simp [heardState, hst, parListen, parStandby, parActive] at hheardSt
      rw [if_pos (by simp [hw, hh, hr])] at hwhole
      obtain ⟨esync, est, etm, ept, edet, ep, epu, eu, eyc, eh, ef, er, et⟩ :=
        syncUp_does { w with yieldCnt := min (w.yieldCnt + 1) 0xFFFFFFFF }.toStandby
      rw [← hwhole] at esync est etm ept edet ep epu eu eyc eh ef er et
      refine ⟨etm.trans htmiss', ept.trans hpathT', edet.trans hdet', ep.trans hpartner, epu.trans hpartnerUnfit, eh.trans hheardNow,
        est.trans htandem.symm, ?_, ef.trans hfit', eu.trans hunfit', er.trans hrx', fun _ _ => ?_, fun hst' => absurd hst' hst⟩
      · rw [esync]
        simp [toStandby, htandem, hst, himg']
      · rw [eyc, ← hyield']
        rfl
    · rw [if_neg (by simpa [and_assoc] using hyields)] at hwhole
      have htandem : v.tandemState h = v.heardState h := by
        refine if_neg fun hno => hyields ⟨hstate'.trans hno.1, hno.2.1, hrank'.trans hno.2.2⟩
      obtain ⟨esync, est, etm, ept, edet, ep, epu, eu, eyc, eh, ef, er, et⟩ := syncUp_does w
      rw [← hwhole] at esync est etm ept edet ep epu eu eyc eh ef er et
      refine ⟨etm.trans htmiss', ept.trans hpathT', edet.trans hdet', ep.trans hpartner, epu.trans hpartnerUnfit, eh.trans hheardNow,
        est.trans (hstate'.trans htandem.symm), ?_, ef.trans hfit', eu.trans hunfit', er.trans hrx', fun hactive hstandby => ?_, fun hst => ?_⟩
      · rw [esync, hstate', hsync', himg', htandem]
      · have hheardSt : v.heardState h = parActive := by simp [heardState, hactive, parListen, parActive]
        exact absurd (hheardSt.symm.trans (htandem.symm.trans hstandby)) (by decide)
      · rw [et, htake' hst]
        have hw : w.state = parStandby := by rw [hstate']; simp [heardState, hst, parListen, parStandby]
        have hws : w.sync = v.sync := by rw [hsync']; simp [hst]
        have hno : ¬ (h.yield = true ∧ v.sync = 2 ∧ v.unfit = false) := fun hno =>
          htakes ⟨hw, hno.1, hws.trans hno.2.1, hunfit'.trans hno.2.2⟩
        have hbool : (h.yield && v.sync == 2 && !v.unfit) = false := by simpa [and_assoc] using hno
        rw [hbool, Bool.or_false]

/-- What the paths leave of the view. -/
theorem paths_kept (v : PairView) : v.paths.state = v.state ∧ v.paths.rank = v.rank ∧ v.paths.unfit = v.unfit ∧ v.paths.nmiss = v.nmiss ∧
    v.paths.tmiss = v.tmiss ∧ v.paths.par.netCount = if v.lim ≤ v.nmiss then none else v.par.netCount := by
  refine ⟨rfl, rfl, rfl, rfl, rfl, ?_⟩
  unfold paths
  dsimp only
  split_ifs <;> rfl

/-- A valid network heartbeat (R450 to R452). -/
theorem networkHeartbeat_does (v : PairView) (h : Heartbeat) : let w := v.networkHeartbeat h
    w.par.netCount = (if v.lim = 0 then none else some h.count) ∧ w.nmiss = 0 ∧ w.par.heard = true ∧ w.state = v.heardState h ∧
      w.partner = h.state ∧ w.unfit = v.unfit := by
  let u : PairView := { v with nmiss := 0, par := { v.par with netCount := some h.count } }
  obtain ⟨hstate, hrank, hunfit, hnmiss, -, hcount⟩ := paths_kept u
  obtain ⟨hpartner, -, hheard, hunfit', -, hnmiss', -, -, -, hcount', -⟩ := taken_kept u.paths h
  refine ⟨?_, hnmiss'.trans hnmiss, hheard, ?_, hpartner, hunfit'.trans hunfit⟩
  · refine (hcount'.trans hcount).trans ?_
    simp [u]
  · refine (taken_state u.paths h).trans ?_
    simp only [heardState, hstate, hrank, u]

/-- The view when a period has been counted. -/
def counted (net : Bool) (v : PairView) : PairView :=
  if net then { v with nmissCnt := min (v.nmissCnt + 1) 0xFFFFFFFF, nmiss := min 15 (v.nmiss + 1) }
  else { v with tmissCnt := min (v.tmissCnt + 1) 0xFFFFFFFF, tmiss := min 15 (v.tmiss + 1) }

/-- A standby hears nothing on both paths. -/
def Silent (v : PairView) : Prop := v.state = parStandby ∧ v.lim ≤ v.tmiss ∧ (v.netEn = false ∨ v.lim ≤ v.nmiss)

theorem silence_speaks (h : ¬ v.Silent) : v.paths.silence = v.paths := by
  have hpath : (decide (v.paths.state ≠ parStandby) || v.paths.pathT || v.paths.pathN) = true := by
    by_contra hno
    simp only [paths, Bool.or_eq_true, decide_eq_true_eq, Bool.and_eq_true, not_or, not_and, not_not, not_lt] at hno
    obtain ⟨⟨hst, ht⟩, hn⟩ := hno
    refine h ⟨hst, ht, ?_⟩
    cases hnet : v.netEn
    · exact .inl rfl
    · exact .inr (hn hnet)
  unfold silence
  rw [if_pos hpath]

theorem silence_silent (h : v.Silent) : v.paths.silence = if v.unfit then v.paths.toOff
    else { v.paths with takeoverCnt := min (v.takeoverCnt + 1) 0xFFFFFFFF, cold := v.paths.sync != 2 }.toActive := by
  obtain ⟨hst, ht, hn⟩ := h
  have hpath : (decide (v.paths.state ≠ parStandby) || v.paths.pathT || v.paths.pathN) = false := by
    obtain hn | hn := hn <;> simp [paths, hst, ht, hn]
  unfold silence
  rw [hpath, if_neg (by decide)]
  rfl

/-- The take-over of a silent standby finds the copy fresh where it is SYNCED and not detached (R452). -/
theorem paths_sync_silent (h : v.Silent) : (v.paths.sync != 2) = !(v.sync == 2 && !v.detached) := by
  obtain ⟨hst, ht, hn⟩ := h
  have hdet : v.detaches = v.detached := by
    obtain hn | hn := hn <;> simp [detaches, Nat.not_lt.mpr ht, hn, Nat.not_lt.mpr]
  unfold paths
  dsimp only
  rw [hdet, hst]
  cases v.detached <;> simp [bne]

/-- What a period without a heartbeat leaves of counts, whatever follows. -/
theorem silence_kept (v : PairView) : v.silence.tmiss = v.tmiss ∧ v.silence.nmiss = v.nmiss ∧ v.silence.tmissCnt = v.tmissCnt ∧
    v.silence.nmissCnt = v.nmissCnt := by
  unfold silence
  split_ifs <;> exact ⟨rfl, rfl, rfl, rfl⟩

theorem missed_eq (net : Bool) (v : PairView) : v.missed net = (v.counted net).paths.silence := rfl

end PairView

namespace Dev
variable {s : Dev}

/-! ### The operations on the view -/

/-- A packet number that has been taken. -/
def pnTaken (x : TdmTag) (s : Dev) : Dev := s.updPar fun p => { p with rxPn := x.pn.toNat }

/-- The tandem link is up, and a frame with these bytes authenticates. -/
def TandemGood (s : Dev) (b : List Byte) (x : TdmTag) : Prop := s.par.linked = true ∧ s.tandemLoops = false ∧ s.tandemOk b x = true

section
variable {b : List Byte} {x : TdmTag}

theorem tandemTakes_down (h : s.fld .PAR_STATUS_LANES = 0) : s.tandemTakes b x = (false, s) := by
  unfold tandemTakes
  rw [if_pos h]

theorem tandemTakes_bad (hup : s.fld .PAR_STATUS_LANES ≠ 0) (h : ¬ s.TandemGood b x) : s.tandemTakes b x = (false, s.count .PAR_AUTH_CNT) := by
  have hbad : (!s.par.linked || s.tandemLoops || !s.tandemOk b x) = true := by
    by_contra hno
    exact h (by simpa [TandemGood, and_assoc] using hno)
  unfold tandemTakes
  rw [if_neg hup, if_pos hbad]

theorem tandemTakes_good (hup : s.fld .PAR_STATUS_LANES ≠ 0) (h : s.TandemGood b x) :
    s.tandemTakes b x = if x.pn.toNat ≤ s.par.rxPn then (false, s) else (true, s.pnTaken x) := by
  obtain ⟨hlink, hloop, hok⟩ := h
  unfold tandemTakes
  rw [if_neg hup, if_neg (by simp [hlink, hloop, hok])]
  rfl

/-- A frame that is taken: new, and good on a link that is up. -/
def TandemTaken (s : Dev) (b : List Byte) (x : TdmTag) : Prop := s.fld .PAR_STATUS_LANES ≠ 0 ∧ s.TandemGood b x ∧ s.par.rxPn < x.pn.toNat

theorem tandemTakes_new (h : s.TandemTaken b x) : s.tandemTakes b x = (true, s.pnTaken x) := by
  obtain ⟨hup, hgood, hnew⟩ := h
  rw [tandemTakes_good hup hgood, if_neg (Nat.not_le.mpr hnew)]

end

section
variable {h : Heartbeat} {x : TdmTag}

/-- A heartbeat of the partner of the pair. -/
def OfPartner (s : Dev) (h : Heartbeat) : Prop := h.pairId = s.fld .PAR_ID_PAIR_ID ∧ h.node = s.fld .PAR_NODE_PARTNER

theorem tandemHeartbeat_untaken {d : Dev} (htakes : s.tandemTakes h.tandem x = (false, d)) : s.tandemHeartbeat h x = d := by
  unfold tandemHeartbeat
  rw [htakes]
  rfl

theorem tandemHeartbeat_other (htakes : s.TandemTaken h.tandem x) (hother : s.parState = parOff ∨ ¬ s.OfPartner h) :
    s.tandemHeartbeat h x = s.pnTaken x := by
  unfold tandemHeartbeat
  rw [tandemTakes_new htakes]
  dsimp only
  refine if_pos ?_
  change (!true || s.parState == parOff || h.pairId != s.fld .PAR_ID_PAIR_ID || h.node != s.fld .PAR_NODE_PARTNER) = true
  by_contra hno
  have hall : (¬ s.parState = parOff ∧ h.pairId = s.fld .PAR_ID_PAIR_ID) ∧ h.node = s.fld .PAR_NODE_PARTNER := by simpa using hno
  obtain ⟨⟨hst, hid⟩, hnode⟩ := hall
  exact hother.elim hst fun hno => hno ⟨hid, hnode⟩

/-- What a standby that its partner asks, and of two ACTIVE units the one of rank 1, do about their roles (R452, R453). -/
def rolesDecided (h : Heartbeat) (s : Dev) : Dev :=
  if s.parState == parStandby && h.yield && s.parSync == 2 && !s.flag .PAR_STATUS_UNFIT then s.updPar fun x => { x with takeNext := true }
  else if s.parState == parActive && h.state == parActive && s.flag .PAR_STATUS_RANK then (s.count .PAR_YIELD_CNT).parToStandby
  else s

theorem view_rolesDecided (h : Heartbeat) (s : Dev) : (s.rolesDecided h).pairView =
    if s.pairView.state == parStandby && h.yield && s.pairView.sync == 2 && !s.pairView.unfit then
      { s.pairView with par := { s.pairView.par with takeNext := true } }
    else if s.pairView.state == parActive && h.state == parActive && s.pairView.rank then
      { s.pairView with yieldCnt := min (s.pairView.yieldCnt + 1) 0xFFFFFFFF }.toStandby
    else s.pairView := by
  unfold rolesDecided
  change (pairView (if (s.pairView.state == parStandby && h.yield && s.pairView.sync == 2 && !s.pairView.unfit) = true then _
    else if (s.pairView.state == parActive && h.state == parActive && s.pairView.rank) = true then _ else _)) = _
  split_ifs
  · rfl
  · rw [view_parToStandby, view_countYield]
    rfl
  · rfl

theorem view_tandemHeartbeat (hstate : h.state < 4) (htakes : s.TandemTaken h.tandem x) (hon : s.parState ≠ parOff) (hmine : s.OfPartner h) :
    (s.tandemHeartbeat h x).pairView = (s.pnTaken x).pairView.heartbeat h := by
  obtain ⟨hid, hnode⟩ := hmine
  unfold tandemHeartbeat
  rw [tandemTakes_new htakes]
  have hopen : ¬ (!true || (s.pnTaken x).parState == parOff || h.pairId != (s.pnTaken x).fld .PAR_ID_PAIR_ID
      || h.node != (s.pnTaken x).fld .PAR_NODE_PARTNER) = true := by
    change ¬ (!true || s.parState == parOff || h.pairId != s.fld .PAR_ID_PAIR_ID || h.node != s.fld .PAR_NODE_PARTNER) = true
    simp [hon, hid, hnode]
  dsimp only
  rw [if_neg hopen]
  change ((((((s.pnTaken x).setFld .PAR_STATUS_TMISS 0).parPaths.updPar fun p => { p with tandemFit := h.sync == 2 && !h.unfit }).heartbeatTaken
    h).rolesDecided h).syncUp).pairView = _
  rw [view_syncUp, view_rolesDecided, view_heartbeatTaken _ hstate, view_updPar]
  have hpaths : ((s.pnTaken x).setFld .PAR_STATUS_TMISS 0).parPaths.pairView = { (s.pnTaken x).pairView with tmiss := 0 }.paths := by
    rw [view_parPaths, view_setTmiss _ (by decide)]
  rw [hpaths, show ((s.pnTaken x).setFld .PAR_STATUS_TMISS 0).parPaths.par = _ from congrArg PairView.par hpaths]
  rfl

/-- Whether a network heartbeat is newer than the last one accepted. -/
def netNewer (s : Dev) (h : Heartbeat) : Bool :=
  match s.par.netCount with
  | some c => c < h.count
  | none => true

theorem netNewer_iff : s.netNewer h = true ↔ ∀ c, s.par.netCount = some c → c < h.count := by
  unfold netNewer
  cases s.par.netCount <;> simp

theorem networkHeartbeat_eq (tag : Nat) : s.networkHeartbeat h tag =
    if s.parState == parOff || !s.flag .PAR_NETHB_EN then s
    else if !s.netTagOk h tag || h.pairId != s.fld .PAR_ID_PAIR_ID || h.node != s.fld .PAR_NODE_PARTNER || !s.netNewer h then s.count .PAR_HB_BAD_CNT
    else (((s.updPar fun x => { x with netCount := some h.count }).setFld .PAR_STATUS_NMISS 0).parPaths).heartbeatTaken h := rfl

theorem networkHeartbeat_idle {tag : Nat} (hidle : s.parState = parOff ∨ s.flag .PAR_NETHB_EN = false) : s.networkHeartbeat h tag = s := by
  rw [networkHeartbeat_eq, if_pos]
  obtain hidle | hidle := hidle <;> simp [hidle]

theorem networkHeartbeat_bad {tag : Nat} (hon : s.parState ≠ parOff) (hnet : s.flag .PAR_NETHB_EN = true)
    (hbad : ¬ (s.netTagOk h tag = true ∧ s.OfPartner h ∧ s.netNewer h = true)) : s.networkHeartbeat h tag = s.count .PAR_HB_BAD_CNT := by
  rw [networkHeartbeat_eq, if_neg (by simp [hon, hnet]), if_pos]
  by_contra hno
  simp only [Bool.or_eq_true, Bool.not_eq_true', bne_iff_ne, ne_eq, not_or, Bool.not_eq_false, not_not] at hno
  obtain ⟨⟨⟨htag, hid⟩, hnode⟩, hnew⟩ := hno
  exact hbad ⟨htag, ⟨hid, hnode⟩, hnew⟩

theorem view_networkHeartbeat {tag : Nat} (hstate : h.state < 4) (hon : s.parState ≠ parOff) (hnet : s.flag .PAR_NETHB_EN = true)
    (htag : s.netTagOk h tag = true) (hmine : s.OfPartner h) (hnew : s.netNewer h = true) :
    (s.networkHeartbeat h tag).pairView = s.pairView.networkHeartbeat h := by
  obtain ⟨hid, hnode⟩ := hmine
  rw [networkHeartbeat_eq, if_neg (by simp [hon, hnet]), if_neg (by simp [htag, hid, hnode, hnew]), view_heartbeatTaken _ hstate, view_parPaths,
    view_setNmiss _ (by decide), view_updPar]
  rfl

theorem view_heartbeatMiss (net : Bool) (hon : s.parState ≠ parOff) : (s.heartbeatMiss net).pairView = s.pairView.missed net := by
  have hfits (n : Nat) : min 15 (n + 1) < 16 := by omega
  unfold heartbeatMiss
  rw [if_neg hon]
  dsimp only
  rw [view_parSilence, view_parPaths]
  unfold PairView.missed
  cases net
  · rw [if_neg (by decide), if_neg (by decide), view_setTmiss _ (hfits _), view_countTmiss]
    rfl
  · rw [if_pos rfl, if_pos rfl, view_setNmiss _ (hfits _), view_countNmiss]
    rfl

end

end Dev

end Sys2Proof.Machine
end

section
/-! The own heartbeat, the writes of PAR_CFG and PAR_CTRL, and the start timer (R449, R452, R453, R460, R466). -/

namespace Sys2Proof.Machine

namespace Dev
variable {s : Dev} {who : Agent}

/-! ### PAR_CFG (R452) -/

theorem plainCfg_en (s : Dev) (v : Nat) : (s.plain .PAR_CFG v).flag .PAR_CFG_EN = bit v 0 := by
  have hfld : (s.plain .PAR_CFG v).fld .PAR_CFG_EN = bits v 0 0 :=
    fld_plainIf_rw s (f := .PAR_CFG_EN) (g := ⟨0, 0, .rw, 0, 48, .any⟩) (by decide) (Reg.hasCopy_alone rfl) (Reg.hasCopy_alone rfl) (by decide) rfl rfl rfl
  rw [Dev.flag, hfld, bits_one]
  cases bit v 0 <;> rfl

theorem rowWrite_parEnable (h : s.reaches who .PAR_CFG 0 0 true) (hoff : s.flag .PAR_CFG_EN = false) {v : Nat} (hv : bit v 0 = true) :
    s.rowWrite who .PAR_CFG v = (s.plain .PAR_CFG v).parEnable := by
  have hen := (plainCfg_en s v).trans hv
  have hpage : s.rowWrite who .PAR_CFG v = s.parWrite .PAR_CFG 0 who.mid v := rowWrite_single rfl h v
  rw [hpage]
  unfold parWrite
  dsimp only
  rw [hen, hoff, if_pos (by decide)]

/-- A unit that has not heard its partner since EN, its COUNT fresh above and 0 below. -/
def unheard (s : Dev) : Dev :=
  s.fresh.2.updPar fun x => { x with
    count := Config.free s.freeCnt % 2 ^ 32 * 2 ^ 32, netCount := none, tandemFit := false, heard := false, partnerSync := 0 }

/-- The rank by the strap, where no link start has set it. -/
def rankedBy (strap : Bool) (s : Dev) : Dev := if s.par.linked then s else s.setFlag .PAR_STATUS_RANK strap

theorem parEnable_eq (s : Dev) : s.parEnable = ((((((s.unheard.rankedBy (s.unheard.flag .BOOT_STRAP_PAIR_RANK)).setFld .PAR_STATUS_TMISS 0).setFld
    .PAR_STATUS_NMISS 0).setFlag .PAR_STATUS_DETACHED false).parGo parListen).parPaths) := rfl

theorem view_rankedBy (strap : Bool) (s : Dev) : ∃ r, (s.rankedBy strap).pairView = { s.pairView with rank := r } := by
  unfold rankedBy
  split
  · exact ⟨s.pairView.rank, rfl⟩
  · exact ⟨strap, view_setRank ..⟩

/-- The pair as EN finds it: LISTEN (R449, R452). -/
theorem parEnable_listens (s : Dev) : let w := s.parEnable.pairView
    w.state = parListen ∧ w.en = s.flag .PAR_CFG_EN ∧ w.par.heard = false ∧ w.par.netCount = none ∧ w.par.count % 2 ^ 32 = 0 ∧ w.tmiss = 0 ∧ w.nmiss = 0 := by
  obtain ⟨rank, hranked⟩ := view_rankedBy (s.unheard.flag .BOOT_STRAP_PAIR_RANK) s.unheard
  have hcount : s.unheard.pairView.par.count % 2 ^ 32 = 0 := Nat.mul_mod_left ..
  dsimp only
  rw [parEnable_eq, view_parPaths, view_parGo _ (by decide), view_setDetached, view_setNmiss _ (by decide), view_setTmiss _ (by decide), hranked]
  unfold PairView.paths
  dsimp only
  split_ifs <;> exact ⟨rfl, rfl, rfl, rfl, hcount, rfl, rfl⟩

/-! ### The start timer -/

theorem startWait_active (h : s.parState = parListen ∧ s.par.heard = false) : s.startWait.parState = parActive := by
  have hstart : s.startWait = s.parToActive := by simp [startWait, h]
  rw [hstart]
  exact congrArg PairView.state (view_parToActive s)

theorem startWait_idle (h : ¬ (s.parState = parListen ∧ s.par.heard = false)) : s.startWait = s := by
  unfold startWait
  rw [if_neg (by simpa using h)]

/-! ### The own heartbeat (R448, R449) -/

/-- The frame of a heartbeat on the network path (R449). -/
def netFrame (s : Dev) (key : Nat) : Frame :=
  beBytes 6 (putBit (s.reg64 .PAR_PAIR_MAC_LOW .PAR_PAIR_MAC_HIGH) 40 true)
    ++ beBytes 6 (s.reg64 .MAC_SA_LOW .MAC_SA_HIGH (s.fld .PAR_NETHB_PORT))
    ++ beBytes 2 (s.fld .PAR_NETHB_ETYPE) ++ fitTo 30 (Config.heartbeatBytes s.ownHeartbeat.fields) ++ beBytes 16 (Dev.netTag key s.ownHeartbeat)

/-- The unit has counted its heartbeat, and has sent it on the tandem link. -/
def heartbeatCounted (s : Dev) : Dev :=
  (((s.updPar fun x => { x with count := s.ownHeartbeat.count, hbSent := some s.ownHeartbeat }).when s.par.linked
    (Dev.tandemSend false [s.ownHeartbeat.tandem])).updPar fun x => { x with yieldSent := x.yieldSent || (s.ownHeartbeat.yield && x.linked) })

theorem heartbeatSend_held (h : s.parState = parOff ∨ s.txHeld = true) : s.heartbeatSend = s := by
  unfold heartbeatSend
  rw [if_pos (by simpa using h)]

/-- A frame on the tandem link changes what PAR keeps of the link alone. -/
theorem tandemSend_frame (s : Dev) (copy : Bool) (l : List (List Byte)) : ∃ tx w, s.tandemSend copy l = s.updPar fun x => { x with txPn := tx, wire := w } := by
  unfold tandemSend
  dsimp only
  split
  · exact ⟨s.par.txPn, s.par.wire, rfl⟩
  · exact ⟨_, _, rfl⟩

theorem heartbeatCounted_frame (s : Dev) : s.heartbeatCounted = { s with par := s.heartbeatCounted.par } := by
  unfold heartbeatCounted when
  split
  · obtain ⟨tx, w, hsend⟩ := tandemSend_frame (s.updPar fun x => { x with count := s.ownHeartbeat.count, hbSent := some s.ownHeartbeat }) false
      [s.ownHeartbeat.tandem]
    rw [hsend]
    rfl
  · rfl

/-- What PAR keeps of its heartbeat: COUNT, the heartbeat itself, and that a YIELD has left. -/
theorem heartbeatCounted_par (s : Dev) : s.heartbeatCounted.par.count = s.ownHeartbeat.count ∧ s.heartbeatCounted.par.hbSent = some s.ownHeartbeat ∧
    s.heartbeatCounted.par.yieldSent = (s.par.yieldSent || (s.par.yielding && s.par.linked)) := by
  unfold heartbeatCounted when
  split
  · obtain ⟨tx, w, hsend⟩ := tandemSend_frame (s.updPar fun x => { x with count := s.ownHeartbeat.count, hbSent := some s.ownHeartbeat }) false
      [s.ownHeartbeat.tandem]
    rw [hsend]
    exact ⟨rfl, rfl, rfl⟩
  · exact ⟨rfl, rfl, rfl⟩

/-- On a link that is up the heartbeat leaves with the next packet number (R448). -/
theorem heartbeatCounted_wire (hlink : s.par.linked = true) {key : Nat} (hkey : s.vlt.tandemSak = some key) :
    s.heartbeatCounted.par.txPn = s.par.txPn + 1 ∧
      s.heartbeatCounted.par.wire = [tandemSeal key (s.fld .PAR_NODE_NODE) (s.fld .PAR_STATUS_LANES) (s.par.txPn + 1) s.ownHeartbeat.tandem] := by
  unfold heartbeatCounted when tandemSend
  rw [if_pos hlink]
  dsimp only
  rw [show (s.updPar _).vlt.tandemSak = some key from hkey]
  exact ⟨rfl, rfl⟩

theorem heartbeatSend_eq (hon : s.parState ≠ parOff) (hheld : s.txHeld = false) : s.heartbeatSend =
    match s.kHbn with
    | none => s.heartbeatCounted
    | some key => if !s.flag .PAR_NETHB_EN || !s.macSends (s.fld .PAR_NETHB_PORT) then s.heartbeatCounted
      else s.heartbeatCounted.sends (s.fld .PAR_NETHB_PORT) ⟨(s.netFrame key).withFcs, none, false⟩ := by
  have hopen : ¬ (decide (s.parState = parOff) || s.txHeld) = true := by simp [hon, hheld]
  have hframe := heartbeatCounted_frame s
  unfold heartbeatSend
  rw [if_neg hopen]
  change (match s.heartbeatCounted.kHbn with
    | none => s.heartbeatCounted
    | some key => if !s.heartbeatCounted.flag .PAR_NETHB_EN || !s.heartbeatCounted.macSends (s.heartbeatCounted.fld .PAR_NETHB_PORT) then s.heartbeatCounted
      else s.heartbeatCounted.sends (s.heartbeatCounted.fld .PAR_NETHB_PORT) ⟨Frame.withFcs (beBytes 6 (putBit (s.heartbeatCounted.reg64 .PAR_PAIR_MAC_LOW .PAR_PAIR_MAC_HIGH) 40 true)
        ++ beBytes 6 (s.heartbeatCounted.reg64 .MAC_SA_LOW .MAC_SA_HIGH (s.heartbeatCounted.fld .PAR_NETHB_PORT))
        ++ beBytes 2 (s.heartbeatCounted.fld .PAR_NETHB_ETYPE) ++ fitTo 30 (Config.heartbeatBytes s.ownHeartbeat.fields)
        ++ beBytes 16 (Dev.netTag key s.ownHeartbeat)), none, false⟩) = _
  generalize s.heartbeatCounted = e at hframe ⊢
  rw [hframe]
  rfl

theorem fitTo_length (n : Nat) (l : List Byte) : (fitTo n l).length = n := by
  unfold fitTo
  split
  · assumption
  · simp
    omega

/-- The head and the tag of the frame (R449). -/
theorem netFrame_parts (s : Dev) (key : Nat) : let b := (s.netFrame key).withFcs
    b.take 14 = beBytes 6 (putBit (s.reg64 .PAR_PAIR_MAC_LOW .PAR_PAIR_MAC_HIGH) 40 true)
        ++ beBytes 6 (s.reg64 .MAC_SA_LOW .MAC_SA_HIGH (s.fld .PAR_NETHB_PORT)) ++ beBytes 2 (s.fld .PAR_NETHB_ETYPE) ∧
      (b.drop 44).take 16 = beBytes 16 (Dev.netTag key s.ownHeartbeat) := by
  unfold netFrame Frame.withFcs
  generalize s.ownHeartbeat = h
  refine ⟨?_, ?_⟩
  · simp [List.take_append, List.take_of_length_le]
  · simp [List.drop_append, fitTo_length, List.drop_eq_nil_of_le]

/-! ### PAR_CTRL (R453, R460, R466) -/

section
variable (hreach : s.reaches who .PAR_CTRL 0 0 true)
include hreach

theorem rowWrite_relinquish : s.rowWrite who .PAR_CTRL 1 = if s.mayYield = true then s.relinquish else s.misuse .PAR := by
  have hpage : s.rowWrite who .PAR_CTRL 1 = s.parWrite .PAR_CTRL 0 who.mid 1 := rowWrite_single rfl hreach 1
  rw [hpage]
  unfold parWrite
  cases s.mayYield <;> simp [bit]

theorem rowWrite_resync : s.rowWrite who .PAR_CTRL 2 = s.syncUp := by
  have hpage : s.rowWrite who .PAR_CTRL 2 = s.parWrite .PAR_CTRL 0 who.mid 2 := rowWrite_single rfl hreach 2
  rw [hpage]
  unfold parWrite
  simp [bit, resync]

theorem rowWrite_clrUnfit : s.rowWrite who .PAR_CTRL 4 = if who.mid = 0x40 then s.clrUnfit else s.misuse .PAR := by
  have hpage : s.rowWrite who .PAR_CTRL 4 = s.parWrite .PAR_CTRL 0 who.mid 4 := rowWrite_single rfl hreach 4
  rw [hpage]
  unfold parWrite
  by_cases hmid : who.mid = 0x40 <;> simp [bit, hmid]

end

theorem view_clrUnfit (s : Dev) : s.clrUnfit.pairView = { s.pairView with unfit := false }.setSync 0 := by
  unfold clrUnfit
  have hdiv : PairSame (s.setFlag .PAR_STATUS_UNFIT false) ((s.setFlag .PAR_STATUS_UNFIT false).setFld .PAR_DIV_SLOT_CONSEC 0) :=
    .of_regsOnly ((RegsOnly.refl _).setFld (l := [.PAR_DIV_SLOT]) (Reg.hasCopy_alone rfl) (by decide)) (by decide)
  rw [view_setSync _ (by decide), hdiv.view, view_setUnfit]

theorem clrUnfit_consec (s : Dev) : s.clrUnfit.fld .PAR_DIV_SLOT_CONSEC = 0 := by
  have hset : ((s.setFlag .PAR_STATUS_UNFIT false).setFld .PAR_DIV_SLOT_CONSEC 0).fld .PAR_DIV_SLOT_CONSEC = 0 := fld_setFld_of_fits _ (by decide) (by decide)
  exact (fld_setFld_of_apart _ (f := .PAR_STATUS_SYNC) (Reg.hasCopy_alone rfl) (Reg.hasCopy_alone rfl) (by decide) 0).trans hset

end Dev

end Sys2Proof.Machine
end

section
/-! The copy on the standby and the close of its window (R457 to R461, R465). -/

namespace Sys2Proof.Machine

namespace Dev
variable {s : Dev} {n : Nat} {x : TdmTag}

/-! ### The frames of a copy -/

theorem seqReceive_taken {q : SeqF} (htakes : s.TandemTaken (CopyF.seq q).bytes x) (hst : s.parState = parStandby) :
    s.seqReceive q x =
      let differs := q.codes.any fun c => s.taskCode c.1 != c.2
      let d := s.updPar fun p => { p with
        rxPn := x.pn.toNat, seq := some q, outs := [], outsDone := false, ended := false, progDiffers := differs, late := p.late && !p.window }
      if differs then (d.count .PAR_PROG_MISMATCH_CNT).setSync 0 else d := by
  have hopen : ¬ (!true || (s.pnTaken x).parState != parStandby) = true := by
    change ¬ (!true || s.parState != parStandby) = true
    simp [hst]
  unfold seqReceive
  rw [tandemTakes_new htakes]
  dsimp only
  rw [if_neg hopen]
  rfl

theorem seqReceive_other {q : SeqF} (htakes : s.TandemTaken (CopyF.seq q).bytes x) (hst : s.parState ≠ parStandby) : s.seqReceive q x = s.pnTaken x := by
  unfold seqReceive
  rw [tandemTakes_new htakes]
  dsimp only
  refine if_pos ?_
  change (!true || s.parState != parStandby) = true
  simp [hst]

/-- SEQ on a standby: the copy begins, and the programs are compared (R461). -/
theorem seqReceive_begins {q : SeqF} (htakes : s.TandemTaken (CopyF.seq q).bytes x) (hst : s.parState = parStandby) : let e := s.seqReceive q x
    e.par.seq = some q ∧ e.par.rxPn = x.pn.toNat ∧ e.par.outs = [] ∧ e.mem = s.mem ∧
      if ∃ c ∈ q.codes, s.taskCode c.1 ≠ c.2 then
        e.par.progDiffers = true ∧ e.parSync = 0 ∧ e.reg .PAR_PROG_MISMATCH_CNT = min (s.reg .PAR_PROG_MISMATCH_CNT + 1) 0xFFFFFFFF
      else e.par.progDiffers = false ∧ e.parSync = s.parSync := by
  have hdiffers : (q.codes.any fun c => s.taskCode c.1 != c.2) = true ↔ ∃ c ∈ q.codes, s.taskCode c.1 ≠ c.2 := by simp
  rw [seqReceive_taken htakes hst]
  dsimp only
  by_cases h : ∃ c ∈ q.codes, s.taskCode c.1 ≠ c.2
  · rw [if_pos (hdiffers.mpr h), if_pos h, hdiffers.mpr h]
    refine ⟨rfl, rfl, rfl, rfl, rfl, fld_setFld_of_fits _ (by decide) (by decide), ?_⟩
    exact (reg_setFld_of_apart _ (f := .PAR_STATUS_SYNC) (Reg.hasCopy_alone rfl) (Reg.hasCopy_alone rfl) (by decide) 0).trans (reg_count_same ..)
  · have hno : (q.codes.any fun c => s.taskCode c.1 != c.2) = false := Bool.eq_false_iff.mpr fun hany => h (hdiffers.mp hany)
    rw [if_neg h, hno, if_neg (by decide)]
    exact ⟨rfl, rfl, rfl, rfl, rfl, rfl⟩

/-- The device with the data of one more output slot received. -/
def outAdded (x : TdmTag) (slot : Nat) (data : List Byte) (s : Dev) : Dev :=
  (s.pnTaken x).updPar fun p => { p with outs := s.par.outs ++ [(slot, data)] }

theorem outReceive_taken {q : SeqF} {slot : Nat} {data : List Byte} (htakes : s.TandemTaken (CopyF.out slot data).bytes x) (hst : s.parState = parStandby)
    (hseq : s.par.seq = some q) (hslot : slot ∈ s.pairSlots) (hnew : ∀ o ∈ s.par.outs, o.1 ≠ slot) :
    s.outReceive slot data x =
      let outs := s.par.outs ++ [(slot, data)]
      let a := s.outAdded x slot data
      if outs.length < s.pairSlots.length then a
      else ((((a.compareCopy outs).each outs fun o s => s.physWrite ctlMid (s.copyAddr o.1 (s.fld .CTL_SLOT_B o.1) + 16) o.2).commitPair
        (outs.map (·.1))).loadSeqrec q).updPar fun x => { x with outsDone := !x.late } := by
  have hopen : ¬ (!true || (s.pnTaken x).parState != parStandby || !(s.pnTaken x).pairSlots.contains slot
      || (s.pnTaken x).par.outs.any (fun o => o.1 == slot)) = true := by
    change ¬ (!true || s.parState != parStandby || !s.pairSlots.contains slot || s.par.outs.any (fun o => o.1 == slot)) = true
    have hfirst : s.par.outs.any (fun o => o.1 == slot) = false := by
      rw [List.any_eq_false]
      exact fun o ho => by simpa using hnew o ho
    rw [hfirst]
    simp [hst, hslot]
  unfold outReceive
  rw [tandemTakes_new htakes]
  dsimp only
  rw [show (s.pnTaken x).par.seq = some q from hseq]
  dsimp only
  rw [if_neg hopen]
  rfl

theorem outReceive_other {slot : Nat} {data : List Byte} (htakes : s.TandemTaken (CopyF.out slot data).bytes x) (hst : s.parState ≠ parStandby) :
    s.outReceive slot data x = s.pnTaken x := by
  have hclosed (slots : Bool) (outs : Bool) : (!true || (s.pnTaken x).parState != parStandby || slots || outs) = true := by
    change (!true || s.parState != parStandby || slots || outs) = true
    simp [hst]
  unfold outReceive
  rw [tandemTakes_new htakes]
  dsimp only
  split
  · rfl
  · exact if_pos (hclosed ..)

theorem pageReceive_taken {pg : Nat} {data : List Byte} (htakes : s.TandemTaken (CopyF.page (pg * 4096) data).bytes x) (hst : s.parState = parStandby)
    (hseq : s.par.seq ≠ none) (hlate : s.par.late = false) (hprog : s.par.progDiffers = false) :
    s.pageReceive (pg * 4096) data x = ((s.pnTaken x).physWrite ctlMid (pg * 4096) data).updPar fun p =>
      { p with arrived := if p.arrived.contains pg then p.arrived else pg :: p.arrived } := by
  have hopen : ¬ (!true || (s.pnTaken x).parState != parStandby || (s.pnTaken x).par.seq.isNone || (s.pnTaken x).par.late
      || (s.pnTaken x).par.progDiffers) = true := by
    change ¬ (!true || s.parState != parStandby || s.par.seq.isNone || s.par.late || s.par.progDiffers) = true
    simp [hst, hseq, hlate, hprog]
  unfold pageReceive
  rw [tandemTakes_new htakes]
  dsimp only
  rw [if_neg hopen, Nat.mul_div_cancel pg (by decide : 0 < 4096)]

theorem endReceive_other {k : Nat} (htakes : s.TandemTaken (CopyF.fin k).bytes x) (hst : s.parState ≠ parStandby) : s.endReceive k x = s.pnTaken x := by
  unfold endReceive
  rw [tandemTakes_new htakes]
  dsimp only
  refine if_pos ?_
  change (!true || s.parState != parStandby || s.par.seq.isNone) = true
  simp [hst]

/-- END: a whole copy with every tracked page since SYNCING began makes a standby SYNCED (R460). -/
theorem endReceive_ends {k : Nat} (htakes : s.TandemTaken (CopyF.fin k).bytes x) (hst : s.parState = parStandby) (hseq : s.par.seq ≠ none) :
    let e := s.endReceive k x
    e.par.seq = none ∧ e.par.ended = !s.par.late ∧ e.parSync =
      if s.par.late = false ∧ s.par.progDiffers = false ∧ s.parSync = 1 ∧ ∀ p ∈ s.trackedPages, p ∈ s.par.arrived then 2 else s.parSync := by
  have hopen : ¬ (!true || (s.pnTaken x).parState != parStandby || (s.pnTaken x).par.seq.isNone) = true := by
    change ¬ (!true || s.parState != parStandby || s.par.seq.isNone) = true
    simp [hst, hseq]
  have hend : s.endReceive k x = if (!s.par.late && !s.par.progDiffers) && s.parSync == 1 && s.trackedPages.all (s.par.arrived.contains ·) then
      ((s.pnTaken x).updPar fun p => { p with ended := !p.late, seq := none }).setFld .PAR_STATUS_SYNC 2
    else (s.pnTaken x).updPar fun p => { p with ended := !p.late, seq := none } := by
    unfold endReceive
    rw [tandemTakes_new htakes]
    dsimp only
    rw [if_neg hopen]
    rfl
  rw [hend]
  dsimp only
  have hwhole : ((!s.par.late && !s.par.progDiffers) && s.parSync == 1 && s.trackedPages.all (s.par.arrived.contains ·)) = true ↔
      s.par.late = false ∧ s.par.progDiffers = false ∧ s.parSync = 1 ∧ ∀ p ∈ s.trackedPages, p ∈ s.par.arrived := by
    simp [and_assoc]
  by_cases h : s.par.late = false ∧ s.par.progDiffers = false ∧ s.parSync = 1 ∧ ∀ p ∈ s.trackedPages, p ∈ s.par.arrived
  · rw [if_pos (hwhole.mpr h), if_pos h]
    exact ⟨rfl, rfl, fld_setFld_of_fits _ (by decide) (by decide)⟩
  · rw [if_neg fun hall => h (hwhole.mp hall), if_neg h]
    exact ⟨rfl, rfl, rfl⟩

/-! ### The slots of a pair -/

theorem mem_pairSlots (h : n ∈ s.pairSlots) : n < 8192 ∧ isOut n = true := by
  obtain ⟨k, -, hn⟩ := List.mem_flatMap.mp h
  exact ⟨(mem_taskSlots.mp hn).1, (mem_taskSlots.mp hn).2.1⟩

/-- A slot belongs to one task. -/
theorem pairSlots_nodup (s : Dev) : s.pairSlots.Nodup := by
  refine List.nodup_flatMap.mpr ⟨fun k _ => taskSlots_nodup s k true, ?_⟩
  have hne : s.pairTasks.Nodup := List.nodup_range.filter _
  refine hne.imp fun {i j} hij n hi hj => hij ?_
  obtain ⟨-, -, -, -, hi⟩ := mem_taskSlots.mp hi
  obtain ⟨-, -, -, -, hj⟩ := mem_taskSlots.mp hj
  exact hi.symm.trans hj

theorem each_slot_par {f : Nat → Dev → Dev} {as : List Nat} (hf : ∀ n ∈ as, ∀ d, SlotOnly n d (f n d)) (s : Dev) :
    (s.each as f).par = s.par ∧ ∀ m < 8192, m ∉ as → (s.each as f).reg .CTL_SLOT m = s.reg .CTL_SLOT m := by
  refine each_keeps (P := fun d => d.par = s.par ∧ ∀ m < 8192, m ∉ as → d.reg .CTL_SLOT m = s.reg .CTL_SLOT m) (fun n hn d hd => ?_) s
    ⟨rfl, fun _ _ _ => rfl⟩
  obtain ⟨hpar, hslots⟩ := hd
  have honly := hf n hn d
  have hkept : (f n d).par = d.par := by rw [honly.rest]
  exact ⟨hkept.trans hpar, fun m hm hno => (honly.other m hm fun hmn => hno (hmn ▸ hn)).trans (hslots m hm hno)⟩

/-! ### The close of the window (R458, R459, R465) -/

/-- The standby commits its own results: the copy's did not come, and the partner is there. -/
def ownCommits (s : Dev) : Bool := !s.par.outsDone && !s.flag .PAR_STATUS_DETACHED

/-- The slots of the tasks whose run has ended in time. -/
def timelySlots (s : Dev) : List Nat := s.pairSlots.filter fun n => s.par.inTime.contains (s.slotTask n)

/-- A cycle without a copy that cannot be compared is counted. -/
def windowSkipped (s : Dev) : Dev :=
  if !s.par.outsDone && s.flag .PAR_CFG_CMP_EN && !s.pairTimely then s.count .PAR_CMP_SKIP_CNT else s

/-- The own results of the cycle are committed, where that is due. -/
def windowOwn (own : Bool) (s : Dev) : Dev := if own then ((s.commitPair s.timelySlots).count .PAR_COPY_LATE_CNT).seqOn else s

/-- A cycle whose copy has not ended leaves the standby UNSYNCED. -/
def windowEnded (own ended : Bool) (s : Dev) : Dev :=
  if ended then s
  else if own then (s.setSync 0).updPar fun x => { x with late := true } else ((s.setSync 0).updPar fun x => { x with late := true }).count .PAR_COPY_LATE_CNT

theorem windowClose_due (hst : s.parState = parStandby) (hwin : s.par.window = true)
    (hcome : s.dueAt islSwitch (s.fld .CTL_TASK_CFG_TB s.copyTask)
      ((s.reg .CTL_TASK_T0 s.copyTask + s.reg .CTL_TASK_DEADLINE s.copyTask + s.reg .PAR_COPY_WIN) % 2 ^ 32) ≠ .ahead) :
    s.windowClose = ((s.windowSkipped.windowOwn s.ownCommits).windowEnded s.ownCommits s.par.ended).updPar fun x =>
      { x with window := false, outsDone := false, ended := false } := by
  unfold windowClose
  dsimp only
  rw [if_neg (by rw [beq_false_of_ne hcome]; simp [hst, hwin])]
  rfl

theorem windowSkipped_only (s : Dev) : RegsOnly [.PAR_CMP_SKIP_CNT] s s.windowSkipped :=
  .ite ((RegsOnly.refl s).count (Reg.hasCopy_alone rfl) (by decide)) (.refl s)

theorem windowSkipped_slots (s : Dev) : s.windowSkipped.timelySlots = s.timelySlots ∧ s.windowSkipped.pairSlots = s.pairSlots := by
  have honly := windowSkipped_only s
  have hent := honly.slotEnt (by decide)
  have hcfg : s.windowSkipped.fld .PAR_COPY_CFG_TASKS = s.fld .PAR_COPY_CFG_TASKS := honly.regs.fld (Reg.hasCopy_alone rfl) (by decide)
  have hslots : s.windowSkipped.pairSlots = s.pairSlots := by
    unfold pairSlots pairTasks
    simp only [hcfg, taskSlots_congr hent]
  refine ⟨?_, hslots⟩
  unfold timelySlots slotTask
  rw [hslots, honly.par, hent]

/-- What the commit of the own results leaves, and makes of the slots. -/
theorem windowOwn_does (own : Bool) (s : Dev) : let e := s.windowOwn own
    RegsBut [.CTL_SLOT, .PAR_COPY_LATE_CNT] s e ∧ e.mem = s.mem ∧
      e.reg .PAR_COPY_LATE_CNT = (if own then min (s.reg .PAR_COPY_LATE_CNT + 1) 0xFFFFFFFF else s.reg .PAR_COPY_LATE_CNT) ∧
      ∀ n ∈ s.pairSlots, if own = true ∧ n ∈ s.timelySlots then e.copies n = (s.fld .CTL_SLOT_F n, s.fld .CTL_SLOT_B n, s.fld .CTL_SLOT_N n)
        else e.reg .CTL_SLOT n = s.reg .CTL_SLOT n := by
  cases own
  · exact ⟨.refl s, rfl, rfl, fun n _ => by rw [if_neg (by simp)]; rfl⟩
  · have hout : ∀ m ∈ s.timelySlots, m < 8192 ∧ isOut m = true := fun m hm => mem_pairSlots (List.mem_of_mem_filter hm)
    have hnodup : s.timelySlots.Nodup := (pairSlots_nodup s).filter _
    have hone : ∀ m ∈ s.timelySlots, ∀ d : Dev, SlotOnly m d (d.outCommit true m) := fun m hm d => outCommit_only true (hout m hm).1 d
    obtain ⟨hregs, hmem, -⟩ := each_slot_kept hone s
    obtain ⟨-, hothers⟩ := each_slot_par hone s
    have hlate : Reg.PAR_COPY_LATE_CNT.HasCopy 0 0 0 := Reg.hasCopy_alone rfl
    have hslot (m : Nat) (hm : m < 8192) : (s.windowOwn true).reg .CTL_SLOT m = (s.commitPair s.timelySlots).reg .CTL_SLOT m :=
      reg_countBy_of_apart (s.commitPair s.timelySlots) (hasCopy_slot hm) hlate (by decide) 1
    refine ⟨?_, hmem, ?_, fun n hn => ?_⟩
    · exact ((hregs.mono (m := [.CTL_SLOT, .PAR_COPY_LATE_CNT]) (by decide)).count hlate (by decide)).trans (.of_regs rfl)
    · exact (reg_count_same (s.commitPair s.timelySlots) ..).trans (congrArg (fun v => min (v + 1) 0xFFFFFFFF)
        (hregs.reg _ _ _ _ hlate (by decide)))
    · split
      · next h =>
        rw [copies_of_reg (hslot n (mem_pairSlots hn).1)]
        exact (each_outCommit hnodup hout true h.2 s).1
      · next h => exact (hslot n (mem_pairSlots hn).1).trans (hothers n (mem_pairSlots hn).1 fun hin => h ⟨rfl, hin⟩)

/-- What the end of a cycle without END leaves. -/
theorem windowEnded_does (own ended : Bool) (s : Dev) : let e := s.windowEnded own ended
    RegsBut [.PAR_STATUS, .PAR_COPY_LATE_CNT] s e ∧ e.mem = s.mem ∧ e.parState = s.parState ∧ e.parSync = (if ended then s.parSync else 0) ∧
      e.reg .PAR_COPY_LATE_CNT = (if own || ended then s.reg .PAR_COPY_LATE_CNT else min (s.reg .PAR_COPY_LATE_CNT + 1) 0xFFFFFFFF) := by
  have hlate : Reg.PAR_COPY_LATE_CNT.HasCopy 0 0 0 := Reg.hasCopy_alone rfl
  have hsync : Fld.PAR_STATUS_SYNC.reg.HasCopy 0 0 0 := Reg.hasCopy_alone rfl
  have hunsynced : RegsBut [.PAR_STATUS, .PAR_COPY_LATE_CNT] s (s.setFld .PAR_STATUS_SYNC 0) := (RegsBut.refl s).setFld hsync (by decide)
  have hstate : (s.setFld .PAR_STATUS_SYNC 0).parState = s.parState := fld_setFld_of_beside s (by decide) (by decide) (by decide) 0
  have hzero : (s.setFld .PAR_STATUS_SYNC 0).parSync = 0 := fld_setFld_of_fits s (by decide) (by decide)
  have hcount : (s.setFld .PAR_STATUS_SYNC 0).reg .PAR_COPY_LATE_CNT = s.reg .PAR_COPY_LATE_CNT := reg_setFld_of_apart s hlate hsync (by decide) 0
  cases ended
  · cases own
    · refine ⟨(hunsynced.trans (u := (s.setSync 0).updPar fun x => { x with late := true }) (.of_regs rfl)).count (t := (s.setSync 0).updPar fun x => { x with late := true }) hlate (by decide), rfl, ?_, ?_, ?_⟩
      · exact (fld_countBy_of_apart ((s.setSync 0).updPar fun x => { x with late := true }) (g := .PAR_STATUS_STATE) (Reg.hasCopy_alone rfl) hlate
          (by decide) 1).trans hstate
      · exact (fld_countBy_of_apart ((s.setSync 0).updPar fun x => { x with late := true }) hsync hlate (by decide) 1).trans hzero
      · exact (reg_count_same ((s.setSync 0).updPar fun x => { x with late := true }) ..).trans (congrArg (fun v => min (v + 1) 0xFFFFFFFF) hcount)
    · exact ⟨hunsynced.trans (u := (s.setSync 0).updPar fun x => { x with late := true }) (.of_regs rfl), rfl, hstate, hzero, hcount⟩
  · refine ⟨.refl s, rfl, rfl, rfl, ?_⟩
    rw [Bool.or_true]
    rfl

end Dev

end Sys2Proof.Machine
end

section
/-! The rows of pairs: each command runs its operation, and the obligation. -/

namespace Sys2Proof.Machine

section
variable (who : Agent) (s : State) (x : TdmTag)

theorem exec_parEnable_eq (v : Word) : exec (.parEnable who v) s =
    .next (s.withDev (if bit v.toNat 0 then s.dev.rowWrite who .PAR_CFG v.toNat else s.dev)) := rfl

theorem exec_startWaitExpiry_eq : exec .startWaitExpiry s = .next (s.withDev s.dev.startWait) := rfl

theorem exec_heartbeatSend_eq : exec .heartbeatSend s = .next (s.withDev s.dev.heartbeatSend) := rfl

theorem exec_tandemHeartbeat_eq (h : Heartbeat) : exec (.tandemHeartbeat h x) s = .next (s.withDev (s.dev.tandemHeartbeat h.asRead x)) := rfl

theorem exec_networkHeartbeat_eq (h : Heartbeat) (tag : BitVec 128) :
    exec (.networkHeartbeat h tag) s = .next (s.withDev (s.dev.networkHeartbeat h.asRead tag.toNat)) := rfl

theorem exec_heartbeatMiss_eq (net : Bool) : exec (.heartbeatMiss net) s = .next (s.withDev (s.dev.heartbeatMiss net)) := rfl

theorem exec_relinquish_eq : exec (.relinquish who) s = .next (s.withDev (s.dev.rowWrite who .PAR_CTRL 1)) := rfl

theorem exec_resync_eq : exec (.resync who) s = .next (s.withDev (s.dev.rowWrite who .PAR_CTRL 2)) := rfl

theorem exec_clrUnfit_eq : exec (.clrUnfit who) s = .next (s.withDev (s.dev.rowWrite who .PAR_CTRL 4)) := rfl

theorem exec_seqFrameReceive_eq (q : SeqF) : exec (.seqFrameReceive q x) s = .next (s.withDev (s.dev.seqReceive q x)) := rfl

theorem exec_outFrameReceive_eq (n : BitVec 13) {data : List Byte} (hlen : data.length ≤ 1520) :
    exec (.outFrameReceive n data x) s = .next (s.withDev (s.dev.outReceive n.toNat data x)) := by
  change Host.Outcome.next (s.withDev (s.dev.outReceive n.toNat (data.take 1520) x)) = _
  rw [List.take_of_length_le hlen]

theorem exec_pageFrameReceive_eq (p : BitVec 28) {data : List Byte} (hlen : data.length = 4096) :
    exec (.pageFrameReceive p data x) s = .next (s.withDev (s.dev.pageReceive (p.toNat * 4096) data x)) := by
  have hfit : fitTo 4096 data = data := if_pos hlen
  change Host.Outcome.next (s.withDev (s.dev.pageReceive (p.toNat * 4096) (fitTo 4096 data) x)) = _
  rw [hfit]

theorem exec_endFrameReceive_eq (k : BitVec 32) : exec (.endFrameReceive (k, x)) s = .next (s.withDev (s.dev.endReceive k.toNat x)) := rfl

theorem exec_copyWindowClose_eq : exec .copyWindowClose s = .next (s.withDev s.dev.windowClose) := rfl

end

/-- A well-formed heartbeat is read as it is (R449). -/
theorem asRead_of_wellFormed {h : Heartbeat} (hwf : h.wellFormed = true) : h.asRead = h ∧ h.state < 4 := by
  simp only [Heartbeat.wellFormed, Bool.and_eq_true, decide_eq_true_eq] at hwf
  obtain ⟨⟨⟨⟨hid, hnode⟩, hstate⟩, hsync⟩, hcount⟩ := hwf
  refine ⟨?_, hstate⟩
  unfold Heartbeat.asRead
  rw [Nat.mod_eq_of_lt hid, Nat.mod_eq_of_lt hnode, Nat.mod_eq_of_lt hstate, Nat.mod_eq_of_lt hsync, Nat.mod_eq_of_lt hcount]

namespace Dev
variable {s : Dev} {who : Agent}

theorem netTagOk_iff {h : Heartbeat} {tag : Nat} : s.netTagOk h tag = true ↔ ∃ k, s.kHbn = some k ∧ netTag k h = tag := by
  unfold netTagOk
  cases s.kHbn <;> simp

/-- A unit that has just entered LISTEN (R449, R452). -/
def Listens (s : Dev) : Prop := s.parState = parListen ∧ s.flag .PAR_CFG_EN = true ∧ s.par.heard = false ∧ s.par.netCount = none ∧
  s.par.count % 2 ^ 32 = 0 ∧ s.fld .PAR_STATUS_TMISS = 0 ∧ s.fld .PAR_STATUS_NMISS = 0

theorem listens_of_view {v : PairView} (hview : s.pairView = v) (hst : v.state = parListen) (hen : v.en = true) (hheard : v.par.heard = false)
    (hnet : v.par.netCount = none) (hcount : v.par.count % 2 ^ 32 = 0) (htmiss : v.tmiss = 0) (hnmiss : v.nmiss = 0) : s.Listens := by
  subst hview
  exact ⟨hst, hen, hheard, hnet, hcount, htmiss, hnmiss⟩

/-- The write of PAR_CFG that sets EN (R452). -/
theorem rowWrite_listens (h : s.reaches who .PAR_CFG 0 0 true) (hoff : s.flag .PAR_CFG_EN = false) {v : Nat} (hv : bit v 0 = true) :
    (s.rowWrite who .PAR_CFG v).Listens := by
  obtain ⟨hst, hen, hheard, hnet, hcount, htmiss, hnmiss⟩ := parEnable_listens (s.plain .PAR_CFG v)
  rw [rowWrite_parEnable h hoff hv]
  exact listens_of_view rfl hst (hen.trans ((plainCfg_en s v).trans hv)) hheard hnet hcount htmiss hnmiss

/-- The heartbeat on the network path (R449). -/
theorem heartbeatSend_network (hon : s.parState ≠ parOff) (hheld : s.txHeld = false) :
    if s.flag .PAR_NETHB_EN = true ∧ s.macSends (s.fld .PAR_NETHB_PORT) = true ∧ s.kHbn.isSome = true then
      ∃ x k, s.kHbn = some k ∧ (s.heartbeatSend.mac.get (s.fld .PAR_NETHB_PORT)).last = some x ∧ x.bytes = (s.netFrame k).withFcs
    else s.heartbeatSend.mac = s.mac := by
  have hframe := heartbeatCounted_frame s
  have hmac : s.heartbeatCounted.mac = s.mac := by rw [hframe]
  rw [heartbeatSend_eq hon hheld]
  cases hkey : s.kHbn with
  | none =>
    rw [if_neg (by simp)]
    exact hmac
  | some k =>
    by_cases hsends : s.flag .PAR_NETHB_EN = true ∧ s.macSends (s.fld .PAR_NETHB_PORT) = true
    · obtain ⟨hen, hmay⟩ := hsends
      rw [if_pos ⟨hen, hmay, rfl⟩]
      dsimp only
      rw [if_neg (by simp [hen, hmay])]
      exact ⟨_, k, rfl, sends_last .., rfl⟩
    · rw [if_neg fun hno => hsends ⟨hno.1, hno.2.1⟩]
      dsimp only
      rw [if_pos (by simpa [← Bool.not_eq_true, or_iff_not_imp_left] using hsends)]
      exact hmac

/-- Beside the network path the heartbeat changes what PAR keeps alone. -/
theorem heartbeatSend_kept (hon : s.parState ≠ parOff) (hheld : s.txHeld = false) : s.heartbeatSend.par = s.heartbeatCounted.par ∧
    s.heartbeatSend.regs = s.regs ∧ s.heartbeatSend.mem = s.mem := by
  have hcounted : s.heartbeatCounted.regs = s.regs ∧ s.heartbeatCounted.mem = s.mem := by
    rw [heartbeatCounted_frame s]
    exact ⟨rfl, rfl⟩
  rw [heartbeatSend_eq hon hheld]
  split
  · exact ⟨rfl, hcounted⟩
  · split
    · exact ⟨rfl, hcounted⟩
    · exact ⟨rfl, hcounted⟩

/-! ### A period without a heartbeat (R451, R452) -/

theorem heartbeatMiss_silent {net : Bool} (hon : s.parState ≠ parOff) (h : (s.pairView.counted net).Silent) :
    (s.flag .PAR_STATUS_UNFIT = true → (s.heartbeatMiss net).parState = parOff ∧ (s.heartbeatMiss net).flag .PAR_CFG_EN = false ∧
      (s.heartbeatMiss net).reg .PAR_TAKEOVER_CNT = s.reg .PAR_TAKEOVER_CNT) ∧
    (s.flag .PAR_STATUS_UNFIT = false → (s.heartbeatMiss net).parState = parActive ∧
      (s.heartbeatMiss net).reg .PAR_TAKEOVER_CNT = min (s.reg .PAR_TAKEOVER_CNT + 1) 0xFFFFFFFF ∧
      (s.heartbeatMiss net).flag .PAR_STATUS_COLD = !(s.parSync == 2 && !s.flag .PAR_STATUS_DETACHED)) := by
  have hview := (view_heartbeatMiss net hon).trans ((PairView.missed_eq net s.pairView).trans (PairView.silence_silent h))
  have hsync := PairView.paths_sync_silent h
  have hkept : (s.pairView.counted net).unfit = s.flag .PAR_STATUS_UNFIT ∧ (s.pairView.counted net).takeoverCnt = s.reg .PAR_TAKEOVER_CNT ∧
      (s.pairView.counted net).sync = s.parSync ∧ (s.pairView.counted net).detached = s.flag .PAR_STATUS_DETACHED := by
    cases net <;> exact ⟨rfl, rfl, rfl, rfl⟩
  obtain ⟨hunfit, hcnt, hsyncKept, hdet⟩ := hkept
  rw [hsyncKept, hdet] at hsync
  rw [hunfit] at hview
  refine ⟨fun hyes => ?_, fun hno => ?_⟩
  · rw [hyes, if_pos rfl] at hview
    exact ⟨congrArg PairView.state hview, congrArg PairView.en hview, (congrArg PairView.takeoverCnt hview).trans hcnt⟩
  · rw [hno, if_neg (by decide), hsync, hcnt] at hview
    exact ⟨congrArg PairView.state hview, congrArg PairView.takeoverCnt hview, congrArg PairView.cold hview⟩

theorem heartbeatMiss_heard {net : Bool} (hon : s.parState ≠ parOff) (h : ¬ (s.pairView.counted net).Silent) :
    (s.heartbeatMiss net).pairView = (s.pairView.counted net).paths :=
  (view_heartbeatMiss net hon).trans ((PairView.missed_eq net s.pairView).trans (PairView.silence_speaks h))

theorem heartbeatMiss_counts (net : Bool) (hon : s.parState ≠ parOff) : let v := s.pairView.counted net
    (s.heartbeatMiss net).fld .PAR_STATUS_TMISS = v.tmiss ∧ (s.heartbeatMiss net).fld .PAR_STATUS_NMISS = v.nmiss ∧
      (s.heartbeatMiss net).reg .PAR_TMISS_CNT = v.tmissCnt ∧ (s.heartbeatMiss net).reg .PAR_NMISS_CNT = v.nmissCnt := by
  have hview := (view_heartbeatMiss net hon).trans (PairView.missed_eq net s.pairView)
  obtain ⟨ht, hn, htc, hnc⟩ := PairView.silence_kept (s.pairView.counted net).paths
  exact ⟨(congrArg PairView.tmiss hview).trans ht, (congrArg PairView.nmiss hview).trans hn, (congrArg PairView.tmissCnt hview).trans htc,
    (congrArg PairView.nmissCnt hview).trans hnc⟩

/-! ### The close of the window and the T0 of COPY_TASK -/

/-- The window closes on a standby (R458, R465). -/
theorem windowClose_does (hst : s.parState = parStandby) (hwin : s.par.window = true)
    (hcome : s.dueAt islSwitch (s.fld .CTL_TASK_CFG_TB s.copyTask)
      ((s.reg .CTL_TASK_T0 s.copyTask + s.reg .CTL_TASK_DEADLINE s.copyTask + s.reg .PAR_COPY_WIN) % 2 ^ 32) ≠ .ahead) : let e := s.windowClose
    e.par.window = false ∧ e.parState = parStandby ∧ e.parSync = (if s.par.ended then s.parSync else 0) ∧
      (if s.ownCommits || !s.par.ended then e.reg .PAR_COPY_LATE_CNT = min (s.reg .PAR_COPY_LATE_CNT + 1) 0xFFFFFFFF
        else e.reg .PAR_COPY_LATE_CNT = s.reg .PAR_COPY_LATE_CNT) ∧
      (if !s.par.outsDone && s.flag .PAR_CFG_CMP_EN && !s.pairTimely then e.reg .PAR_CMP_SKIP_CNT = min (s.reg .PAR_CMP_SKIP_CNT + 1) 0xFFFFFFFF
        else e.reg .PAR_CMP_SKIP_CNT = s.reg .PAR_CMP_SKIP_CNT) ∧
      e.mem = s.mem ∧
      ∀ n ∈ s.pairSlots, if s.ownCommits = true ∧ s.slotTask n ∈ s.par.inTime then e.copies n = (s.fld .CTL_SLOT_F n, s.fld .CTL_SLOT_B n, s.fld .CTL_SLOT_N n)
        else e.reg .CTL_SLOT n = s.reg .CTL_SLOT n := by
  have hskip := windowSkipped_only s
  have hskipped : if !s.par.outsDone && s.flag .PAR_CFG_CMP_EN && !s.pairTimely
      then s.windowSkipped.reg .PAR_CMP_SKIP_CNT = min (s.reg .PAR_CMP_SKIP_CNT + 1) 0xFFFFFFFF
      else s.windowSkipped.reg .PAR_CMP_SKIP_CNT = s.reg .PAR_CMP_SKIP_CNT := by
    unfold windowSkipped
    split
    · exact reg_count_same ..
    · rfl
  obtain ⟨htimely, hslots⟩ := windowSkipped_slots s
  obtain ⟨hown, hownMem, hownLate, hownSlots⟩ := windowOwn_does s.ownCommits s.windowSkipped
  obtain ⟨hend, hendMem, hendState, hendSync, hendLate⟩ := windowEnded_does s.ownCommits s.par.ended (s.windowSkipped.windowOwn s.ownCommits)
  have hlateCnt : Reg.PAR_COPY_LATE_CNT.HasCopy 0 0 0 := Reg.hasCopy_alone rfl
  have hskipCnt : Reg.PAR_CMP_SKIP_CNT.HasCopy 0 0 0 := Reg.hasCopy_alone rfl
  have hstatus : Reg.PAR_STATUS.HasCopy 0 0 0 := Reg.hasCopy_alone rfl
  have hstate : (s.windowSkipped.windowOwn s.ownCommits).parState = s.parState :=
    (hown.fld (f := .PAR_STATUS_STATE) hstatus (by decide)).trans (hskip.regs.fld (f := .PAR_STATUS_STATE) hstatus (by decide))
  have hsync : (s.windowSkipped.windowOwn s.ownCommits).parSync = s.parSync :=
    (hown.fld (f := .PAR_STATUS_SYNC) hstatus (by decide)).trans (hskip.regs.fld (f := .PAR_STATUS_SYNC) hstatus (by decide))
  have hlate : s.windowSkipped.reg .PAR_COPY_LATE_CNT = s.reg .PAR_COPY_LATE_CNT := hskip.regs.reg _ _ _ _ hlateCnt (by decide)
  rw [windowClose_due hst hwin hcome]
  generalize hu : s.windowSkipped.windowOwn s.ownCommits = u at *
  generalize u.windowEnded s.ownCommits s.par.ended = e at *
  refine ⟨rfl, hendState.trans (hstate.trans hst), hendSync.trans (by rw [hsync]), ?_, ?_, hendMem.trans (hownMem.trans hskip.mem), fun n hn => ?_⟩
  · rw [hlate] at hownLate
    rw [hownLate] at hendLate
    generalize s.ownCommits = own at hendLate ⊢
    generalize s.par.ended = ended at hendLate ⊢
    cases own <;> cases ended <;> exact hendLate
  · have hkept : e.reg .PAR_CMP_SKIP_CNT = s.windowSkipped.reg .PAR_CMP_SKIP_CNT :=
      (hend.reg _ _ _ _ hskipCnt (by decide)).trans (hown.reg _ _ _ _ hskipCnt (by decide))
    exact hkept ▸ hskipped
  · have hlt := (mem_pairSlots hn).1
    have hlast : e.reg .CTL_SLOT n = u.reg .CTL_SLOT n := hend.reg _ _ _ _ (hasCopy_slot hlt) (by decide)
    have hfirst : s.windowSkipped.reg .CTL_SLOT n = s.reg .CTL_SLOT n := hskip.regs.reg _ _ _ _ (hasCopy_slot hlt) (by decide)
    have hmem : n ∈ s.windowSkipped.timelySlots ↔ s.slotTask n ∈ s.par.inTime := by
      rw [htimely]
      simp [timelySlots, hn]
    have hslot := hownSlots n (hslots.symm ▸ hn)
    simp only [hmem, hfirst, fld_of_reg (s := s) (f := .CTL_SLOT_F) hfirst, fld_of_reg (s := s) (f := .CTL_SLOT_B) hfirst,
      fld_of_reg (s := s) (f := .CTL_SLOT_N) hfirst, ← hlast, ← copies_of_reg hlast] at hslot
    exact hslot

theorem latchAll_due {k t0 : Nat} {rest : List Nat} (hcopy : k = s.copyTask) (hqueue : (s.task k).due = t0 :: rest) (hen : s.flag .CTL_TASK_CFG_EN k = true)
    (hon : s.domOn .swc = true) (hcome : s.dueAt islSwitch (s.fld .CTL_TASK_CFG_TB k) t0 ≠ .ahead) : s.latchAll k =
      Dev.inputLatch k (if s.parState == parStandby && s.par.takeNext then s.parToActive
        else if s.parState == parActive && s.par.yieldSent then s.parToStandby.parSilence else s) := by
  unfold latchAll
  rw [hqueue]
  dsimp only
  rw [hen, hon, bne_iff_ne.mpr hcome, if_neg (by simp [hcopy])]

theorem deadlineAll_copies {k : Nat} (hk : k < 16) (hcopy : k = s.copyTask) (hdue : s.deadlineDue k = true) (hst : s.parState = parActive)
    (htime : (s.task k).inTime = true) : s.deadlineAll k = (s.outputDeadline k).sendCopy := by
  have hstate := (outputDeadline_parState hk hdue).trans hst
  unfold deadlineAll
  dsimp only
  rw [hdue, htime, if_neg (by simp [hcopy]), if_pos hstate, if_pos rfl]

end Dev

/-- Settles O57: roles, heartbeats and paths are a function of the pair's view; a silent standby that is UNFIT leaves to OFF. -/
theorem pairRowsComplete : Obligations.PairRowsComplete := by
  intro s d out next up st sync unfit rank lim netEn mine good takes seen heard
  have hnext {i : Instr} {e : Dev} {p : Dev → Prop} (hexec : exec i s = .next (s.withDev e)) (he : p e) : next i p :=
    ⟨s.withDev e, hexec, s.withDev_pending e, he⟩
  clear_value next
  refine ⟨fun who v hreach hoff hv => ?enable, ?start, ?send, fun h x hwf => ?tandem, fun h tag hwf => ?network, fun net hon => ?miss,
    fun who hreach => ?control, fun x hst => ?standby, fun hst x => ?other, ?window, fun t t0 rest hcopy hqueue hen hon hcome => ?latch,
    fun t hcopy hdue hst htime => ?deadline⟩
  case enable =>
    have hlistens {e : Dev} (hexec : exec (.parEnable who v) s = .next (s.withDev e)) (he : e.Listens) := hnext hexec he
    exact hlistens ((exec_parEnable_eq who s v).trans (next_congr (if_pos hv))) (Dev.rowWrite_listens hreach hoff hv)
  case start =>
    have hexec := exec_startWaitExpiry_eq s
    split
    · next h => exact hnext hexec (Dev.startWait_active h)
    · next h => exact hexec.trans (next_congr (Dev.startWait_idle h))
  case send =>
    have hexec := exec_heartbeatSend_eq s
    split
    · next h => exact hexec.trans (next_congr (Dev.heartbeatSend_held h))
    · next h =>
      obtain ⟨hon, hheld⟩ := not_or.mp h
      have hheld : d.txHeld = false := Bool.eq_false_iff.mpr hheld
      obtain ⟨hpar, hregs, hmem⟩ := Dev.heartbeatSend_kept hon hheld
      obtain ⟨hcount, hsent, hyield⟩ := Dev.heartbeatCounted_par d
      refine hnext hexec ⟨(congrArg ParSt.count hpar).trans hcount, (congrArg ParSt.hbSent hpar).trans hsent, hregs, hmem,
        (congrArg ParSt.yieldSent hpar).trans hyield, fun hlink k hkey => ?_, ?_⟩
      · obtain ⟨htx, hwire⟩ := Dev.heartbeatCounted_wire hlink hkey
        exact ⟨(congrArg ParSt.txPn hpar).trans htx, (congrArg ParSt.wire hpar).trans hwire⟩
      · have hnet := Dev.heartbeatSend_network hon hheld
        intro n
        split at hnet
        · next hmay =>
          obtain ⟨x, k, hkey, hlast, hbytes⟩ := hnet
          obtain ⟨hhead, htag⟩ := Dev.netFrame_parts d k
          rw [← hbytes] at hhead htag
          rw [if_pos hmay]
          exact ⟨x, k, hkey, hlast, hhead, htag⟩
        · next hmay =>
          rw [if_neg hmay]
          exact hnet
  case tandem =>
    obtain ⟨hread, hstate⟩ := asRead_of_wellFormed hwf
    have hexec := exec_tandemHeartbeat_eq s x h
    rw [hread] at hexec
    refine ⟨fun hdown => ?_, fun hup hbad => ?_, fun hup hgood hold => ?_, fun htakes hno => ?_, fun htakes hon hmine hlive => hnext hexec ?_⟩
    · exact hexec.trans (next_congr (Dev.tandemHeartbeat_untaken (Dev.tandemTakes_down hdown)))
    · exact hexec.trans (next_congr (Dev.tandemHeartbeat_untaken (Dev.tandemTakes_bad hup hbad)))
    · exact hexec.trans (next_congr (Dev.tandemHeartbeat_untaken ((Dev.tandemTakes_good hup hgood).trans (if_pos hold))))
    · exact hexec.trans (next_congr (Dev.tandemHeartbeat_other htakes hno))
    · have hview := Dev.view_tandemHeartbeat hstate htakes hon hmine
      have hdoes := PairView.heartbeat_does (v := (d.pnTaken x).pairView) (h := h) hlive
      rw [← hview] at hdoes
      obtain ⟨htmiss, hpath, hdet, hpartner, hpunfit, hheard, hst, hsync, hfit, hunfit, hrx, hyield, htake⟩ := hdoes
      exact ⟨hrx, htmiss, hpath, hdet, hpartner, hpunfit, hheard, hst, hsync, hfit, hunfit, hyield, htake⟩
  case network =>
    obtain ⟨hread, hstate⟩ := asRead_of_wellFormed hwf
    have hexec := exec_networkHeartbeat_eq s h tag
    rw [hread] at hexec
    intro tagOk
    have htagOk : d.netTagOk h tag.toNat = true ↔ tagOk := Dev.netTagOk_iff
    refine ⟨fun hidle => ?_, fun hon hnet hbad => ?_, fun hon hnet htag hmine hnew => hnext hexec ?_⟩
    · exact hexec.trans (next_congr (Dev.networkHeartbeat_idle hidle))
    · refine hexec.trans (next_congr (Dev.networkHeartbeat_bad hon hnet fun hall => ?_))
      obtain ⟨htag, hmine, hnew⟩ := hall
      obtain hno | hno | ⟨c, hc, hle⟩ := hbad
      · exact hno (htagOk.mp htag)
      · exact hno hmine
      · exact absurd (Dev.netNewer_iff.mp hnew c hc) (Nat.not_lt.mpr hle)
    · have hview := Dev.view_networkHeartbeat hstate hon hnet (htagOk.mpr htag) hmine (Dev.netNewer_iff.mpr hnew)
      have hdoes := PairView.networkHeartbeat_does d.pairView h
      rw [← hview] at hdoes
      exact hdoes
  case miss =>
    have hcounts := Dev.heartbeatMiss_counts net hon
    have hsilent : (d.pairView.counted net).Silent ↔ st = parStandby ∧ lim ≤ (if net then d.fld .PAR_STATUS_TMISS else min 15 (d.fld .PAR_STATUS_TMISS + 1)) ∧
        (netEn = false ∨ lim ≤ if net then min 15 (d.fld .PAR_STATUS_NMISS + 1) else d.fld .PAR_STATUS_NMISS) := by
      cases net <;> exact Iff.rfl
    obtain ⟨htmiss, hnmiss, htcnt, hncnt⟩ := hcounts
    refine hnext (exec_heartbeatMiss_eq s net) ?_
    intro tm nm silent
    refine ⟨?_, ?_, ?_, fun hs => (Dev.heartbeatMiss_silent hon (hsilent.mpr hs)).1, fun hs => (Dev.heartbeatMiss_silent hon (hsilent.mpr hs)).2, fun hs => ?_⟩
    · cases net
      · exact htcnt
      · exact hncnt
    · cases net <;> exact htmiss
    · cases net <;> exact hnmiss
    · have hview := Dev.heartbeatMiss_heard hon fun hno => hs (hsilent.mp hno)
      cases net <;> exact ⟨congrArg PairView.state hview, congrArg PairView.pathT hview, congrArg PairView.pathN hview⟩
  case control =>
    have hyield := (exec_relinquish_eq who s).trans (next_congr (Dev.rowWrite_relinquish hreach))
    have hresync := (exec_resync_eq who s).trans (next_congr (Dev.rowWrite_resync hreach))
    have hclear := (exec_clrUnfit_eq who s).trans (next_congr (Dev.rowWrite_clrUnfit hreach))
    refine ⟨fun hst hfit => ?_, fun hno => ?_, ?_, fun hmid => ?_, fun hmid => ?_⟩
    · have hmay : d.mayYield = true := by
        change (st == parActive && d.par.tandemFit) = true
        simp [hst, hfit]
      rw [hmay, if_pos rfl] at hyield
      exact hnext hyield ⟨rfl, hst⟩
    · have hmay : ¬ d.mayYield = true := by
        change ¬ (st == parActive && d.par.tandemFit) = true
        obtain hno | hno := hno <;> simp [hno]
      rw [if_neg hmay] at hyield
      exact hnext hyield ⟨Dev.reg_count_same .., rfl⟩
    · have hview := Dev.view_syncUp d
      obtain ⟨hsync, hst, -⟩ := PairView.syncUp_does d.pairView
      rw [← hview] at hsync hst
      exact hnext hresync ⟨hst, hsync⟩
    · rw [if_pos hmid] at hclear
      have hview := Dev.view_clrUnfit d
      exact hnext hclear ⟨congrArg PairView.unfit hview, Dev.clrUnfit_consec d, congrArg PairView.sync hview, congrArg PairView.state hview⟩
    · rw [if_neg hmid] at hclear
      exact hnext hclear ⟨Dev.reg_count_same .., Dev.flag_countBy_of_apart d (Reg.hasCopy_alone rfl) (Reg.hasCopy_alone rfl) (by decide) 1⟩
  case standby =>
    refine ⟨fun q htakes => hnext (exec_seqFrameReceive_eq s x q) (Dev.seqReceive_begins htakes hst), ?_,
      fun p data hseq hlate hprog hlen htakes => ?_, fun k hseq htakes => hnext (exec_endFrameReceive_eq s x k) (Dev.endReceive_ends htakes hst hseq)⟩
    · intro q n data hseq hlen hslot htakes hnew outs a
      have hexec := (exec_outFrameReceive_eq s x n hlen).trans (next_congr (Dev.outReceive_taken htakes hst hseq hslot hnew))
      refine ⟨fun hfew => hexec.trans (next_congr (if_pos hfew)), fun hall => hexec.trans (next_congr (if_neg (Nat.not_lt.mpr hall)))⟩
    · exact (exec_pageFrameReceive_eq s x p hlen).trans (next_congr (Dev.pageReceive_taken htakes hst hseq hlate hprog))
  case other =>
    refine ⟨fun q htakes => ?_, fun k htakes => ?_, fun n data hlen htakes => ?_⟩
    · exact (exec_seqFrameReceive_eq s x q).trans (next_congr (Dev.seqReceive_other htakes hst))
    · exact (exec_endFrameReceive_eq s x k).trans (next_congr (Dev.endReceive_other htakes hst))
    · exact (exec_outFrameReceive_eq s x n hlen).trans (next_congr (Dev.outReceive_other htakes hst))
  case window =>
    intro t hst hwin hcome own
    obtain ⟨hclosed, hstate, hsync, hlate, hskip, hmem, hslots⟩ := Dev.windowClose_does hst hwin hcome
    refine hnext (exec_copyWindowClose_eq s) ⟨hclosed, hstate, hsync, hlate, hskip, hmem, fun n hn => ?_⟩
    have hslot := hslots n hn
    change if d.ownCommits = true ∧ d.slotTask n ∈ d.par.inTime then _ else _
    split at hslot
    · next h =>
      rw [if_pos h]
      obtain ⟨hback, hnext⟩ := Prod.mk.inj hslot
      obtain ⟨hnew, hfront⟩ := Prod.mk.inj hnext
      exact ⟨hnew, hback, hfront⟩
    · next h =>
      rw [if_neg h]
      exact hslot
  case latch =>
    have hexec := (exec_inputLatch_eq t s).trans (next_congr (Dev.latchAll_due hcopy hqueue hen hon hcome))
    refine ⟨fun hst htake => ⟨hexec.trans (next_congr ?_), congrArg PairView.state (Dev.view_parToActive d)⟩,
      fun hst hyield => ⟨hexec.trans (next_congr ?_), congrArg PairView.state (Dev.view_parToStandby d)⟩⟩
    · rw [if_pos (by simp [show s.dev.parState = parStandby from hst, show s.dev.par.takeNext = true from htake])]
    · rw [if_neg (by simp [show s.dev.parState = parActive from hst, parActive, parStandby]),
        if_pos (by simp [show s.dev.parState = parActive from hst, show s.dev.par.yieldSent = true from hyield])]
  case deadline => exact (exec_outputDeadline_eq t s).trans (next_congr (Dev.deadlineAll_copies t.isLt hcopy hdue hst htime))

end Sys2Proof.Machine
end

section
/-! What the switching of a power domain leaves: PWR_DOM_STAT, SYS_MODE_CTRL and the request that is being served (R485, R494). -/

namespace Sys2Proof.Machine

namespace Dev
variable {s t u : Dev} {n : Nat}

/-- PWR_DOM_STAT, SYS_MODE_CTRL and the request of a domain stand in `t` as in `s`. -/
structure PowerKept (s t : Dev) : Prop where
  stat : t.reg .PWR_DOM_STAT = s.reg .PWR_DOM_STAT
  ctrl : t.reg .SYS_MODE_CTRL = s.reg .SYS_MODE_CTRL
  req : t.sys.domReq = s.sys.domReq

namespace PowerKept

theorem refl (s : Dev) : PowerKept s s := ⟨rfl, rfl, rfl⟩

theorem ite {c : Prop} [Decidable c] (ht : PowerKept s t) (hu : PowerKept s u) : PowerKept s (if c then t else u) := by
  split <;> assumption

section
variable (h : PowerKept s t)
include h

theorem trans (g : PowerKept t u) : PowerKept s u := ⟨g.stat.trans h.stat, g.ctrl.trans h.ctrl, g.req.trans h.req⟩

theorem same (hregs : u.regs = t.regs) (hreq : u.sys.domReq = t.sys.domReq) : PowerKept s u :=
  h.trans ⟨by simp only [reg, regWord, hregs], by simp only [reg, regWord, hregs], hreq⟩

theorem regsOnly {l : List Reg} (g : RegsOnly l t u) (hstat : .PWR_DOM_STAT ∉ l) (hctrl : .SYS_MODE_CTRL ∉ l) : PowerKept s u :=
  h.trans ⟨g.regs.reg _ _ _ _ (Reg.hasCopy_alone rfl) hstat, g.regs.reg _ _ _ _ (Reg.hasCopy_alone rfl) hctrl, congrArg SysSt.domReq g.sys⟩

theorem each {α : Type} {f : α → Dev → Dev} {as : List α} (hf : ∀ a t, PowerKept s t → PowerKept s (f a t)) : PowerKept s (t.each as f) :=
  each_keeps (fun a _ => hf a) t h

theorem when {b : Bool} {f : Dev → Dev} (hf : ∀ t, PowerKept s t → PowerKept s (f t)) : PowerKept s (t.when b f) := when_keeps hf t h

/-- The pages of the other blocks lie above SYS and the head of PWR. -/
theorem setReg {r : Reg} {v i j k : Nat} (hr : 0x10004 < r.info.off) : PowerKept s (t.setReg r v i j k) := by
  have hhigh : r.info.off ≤ r.addr i j k := Nat.le_add_right ..
  have hne {q : Reg} (hq : q.addr ≤ 0x10004) : q.addr ≠ r.addr i j k := fun heq => by omega
  exact h.trans ⟨reg_setReg_other _ (hne (by decide)) _, reg_setReg_other _ (hne (by decide)) _, rfl⟩

theorem setFld {f : Fld} {v i j k : Nat} (hf : 0x10004 < f.reg.info.off) : PowerKept s (t.setFld f v i j k) := h.setReg hf

theorem setFlag {f : Fld} {b : Bool} {i j k : Nat} (hf : 0x10004 < f.reg.info.off) : PowerKept s (t.setFlag f b i j k) := h.setReg hf

theorem countBy {r : Reg} {m i j k : Nat} (hr : 0x10004 < r.info.off) : PowerKept s (t.countBy m r i j k) := h.setReg hr

theorem count {r : Reg} {i j k : Nat} (hr : 0x10004 < r.info.off) : PowerKept s (t.count r i j k) := h.setReg hr

theorem ringMask {m mask : Nat} (hm : m < 32) : PowerKept s (t.ringMask m mask) :=
  h.regsOnly ((RegsOnly.refl t).ringMask (l := bellRegs) hm (List.Subset.refl _)) (by decide) (by decide)

theorem modeUpdate : PowerKept s t.modeUpdate :=
  h.regsOnly ((RegsOnly.refl t).modeUpdate (l := .SYS_MODE :: bellRegs) (List.Subset.refl _)) (by decide) (by decide)

theorem physRead {mid a k : Nat} : PowerKept s (t.physRead mid a k).2 :=
  h.regsOnly ((RegsOnly.refl t).physRead (l := readRegs) (List.Subset.refl _)) (by decide) (by decide)

theorem degrade {f : Fld} (hf : f.reg = .SYS_DEGRADED) : PowerKept s (t.degrade f) := by
  have hset : PowerKept s (t.setFlag f true) :=
    h.regsOnly ((RegsOnly.refl t).setFlag (l := [.SYS_DEGRADED]) (by rw [hf]; exact Reg.hasCopy_alone rfl) (by simp [hf])) (by decide) (by decide)
  have htarget (u : Dev) : u.fld .SYS_DB_TARGET < 32 := bits_lt _ 4 0
  exact .ite h (hset.when fun u hu => hu.ringMask (htarget u))

/-- A reset of registers leaves those that it does not select. -/
theorem resetRegs {q : ResetKind} {p : Nat → Bool} (hstat : p (Reg.addr .PWR_DOM_STAT) = false) (hctrl : p (Reg.addr .SYS_MODE_CTRL) = false) :
    PowerKept s (t.resetRegs q p) := by
  have hkept (off : Nat) (hoff : p off = false) : (t.resetRegs q p).regWord off = t.regWord off := by
    unfold Dev.resetRegs regWord
    dsimp only
    induction t.regs with
    | nil => rfl
    | cons e l ih =>
      obtain ⟨a, w⟩ := e
      by_cases ha : off = a
      · simp [← ha, hoff, Sparse.get]
      · rw [List.filterMap_cons, show Sparse.get resetAt ((a, w) :: l) off = Sparse.get resetAt l off from if_neg ha]
        split
        · exact ih
        · next heq =>
          have hkey : ∀ b, (some b : Option (Nat × Word)) = (if (!p a) = true then some (a, w) else
              match regAt a with
              | none => none
              | some (r, i, _, _) => if word (resetFieldsBy q (r.resetWord i).toNat r.info.fields w.toNat) = r.resetWord i then none
                  else some (a, word (resetFieldsBy q (r.resetWord i).toNat r.info.fields w.toNat))) → b.1 = a := by
            intro b hb
            split at hb
            · exact congrArg Prod.fst (Option.some.inj hb)
            · split at hb
              · cases hb
              · split at hb
                · cases hb
                · exact congrArg Prod.fst (Option.some.inj hb)
          exact (if_neg fun hno => ha (hno.trans (hkey _ heq.symm))).trans ih
  exact h.trans ⟨congrArg BitVec.toNat (hkept _ hstat), congrArg BitVec.toNat (hkept _ hctrl), rfl⟩

/-! ### A rink -/

theorem showState {c : Nat} : PowerKept s (t.showState c) := .ite h (h.setFld (by decide))

theorem setSt {c : Nat} {x : CtxSt} : PowerKept s (t.setSt c x) :=
  (h.same (u := t.updCtx c fun y => { y with st := x }) rfl rfl).showState

theorem rinkClear (hn : n < 8) : PowerKept s (t.rinkClear n) := by
  have hrink : ∀ n < 8, rinkRegs n (Reg.addr .PWR_DOM_STAT) = false ∧ rinkRegs n (Reg.addr .SYS_MODE_CTRL) = false := by decide
  obtain ⟨hstat, hctrl⟩ := hrink n hn
  have hcleared (u : Dev) (e : EngSt) (l : Tab LiftSt) (hu : PowerKept s u) : PowerKept s { u with eng := e, lft := l } := hu.same rfl rfl
  unfold Dev.rinkClear
  dsimp only
  refine PowerKept.each (PowerKept.setFld (f := .RNK_STATUS_CLK_MHZ) (PowerKept.resetRegs (hcleared _ _ _ ?_) hstat hctrl) (by decide)) fun _ _ h => h.setSt
  exact h.countBy (by decide)

theorem readCellsBy (mid : Nat) (l : List Nat) (k : Nat) : PowerKept s (Dev.readCellsBy mid l k t).2 := by
  induction l generalizing t k with
  | nil => exact h
  | cons a l ih => exact ih h.physRead _

theorem capture {x : CapInfo} {ue : Bool} : PowerKept s (t.capture x ue) := by
  have hswc (f : SwcSt → SwcSt) {u : Dev} (hu : PowerKept s u) : PowerKept s (u.updSwc f) := hu.same rfl rfl
  have hlose {u : Dev} (hu : PowerKept s u) : PowerKept s u.capLose := (hswc _ hu).count (by decide)
  unfold Dev.capture
  dsimp only
  refine .ite h ?_
  split
  · exact hswc _ h
  · exact .ite ((hlose (hswc _ h)).count (by decide)) (.ite (hlose (hswc _ h)) (hswc _ (hswc _ h)))

theorem captureCopy {cell port dir reason : Nat} : PowerKept s (t.captureCopy cell port dir reason) := .ite h (h.readCellsBy ..).capture

theorem poolShow : PowerKept s t.poolShow := (h.setFld (f := .SWC_POOL_SIZE_SIZE) (by decide)).setFld (by decide)

theorem updUse {p : Nat} {f : PortUse → PortUse} : PowerKept s (t.updUse p f) := by
  have hused : PowerKept s (t.updSwc fun x => { x with use := x.use.upd p f }) := h.same rfl rfl
  exact (((hused.setFld (f := .SWC_PORTUSE_CELLS) (by decide)).setFld (f := .SWC_PORTUSE2_HDRM_USED) (by decide)).setFld
    (f := .SWC_PORTUSE2_SCHED_USED) (by decide)).poolShow

theorem sendControl {m op : Nat} {params : List Byte} : PowerKept s (t.sendControl m op params) := by
  have hmac (f : MacSt → MacSt) : PowerKept s (t.updMac m f) := h.same rfl rfl
  have hout (f : Frame) : PowerKept s (t.controlOut m f) := (hmac _).count (by decide)
  exact .ite h (.ite (hmac _) (hout _))

theorem sendPfc {m c quanta : Nat} : PowerKept s (t.sendPfc m c quanta) := .ite h h.sendControl

theorem bpUpdate {p : Nat} : PowerKept s (t.bpUpdate p) := by
  have hclass {c : Nat} {x x' m q : Bool} {k v : Nat} {u : Dev} (hu : PowerKept s u) : PowerKept s (u.setFld .SWC_PORTBP_XOFF_CLASS v p) := hu.setFld (by decide)
  have hport (b : Bool) : PowerKept s (t.setFlag .SWC_PORTBP_XOFF b p) := h.setFlag (by decide)
  refine .ite h (PowerKept.each ?_ fun c u hu => ?_)
  · exact .ite ((hport _).count (by decide)).sendControl (.ite (hport _).sendControl (hport _))
  · have hset (v : Nat) : PowerKept s (u.setFld .SWC_PORTBP_XOFF_CLASS v p) := hu.setFld (by decide)
    exact .ite ((hset _).count (by decide)).sendPfc (.ite (hset _).sendPfc (hset _))

theorem endCopy {cell p : Nat} : PowerKept s (t.endCopy cell p) := by
  have hcells (f : Nat → Nat) : PowerKept s (t.egrCells p f) := h.setFld (by decide)
  have hframe (f : FrameSt → FrameSt) {u : Dev} (hu : PowerKept s u) : PowerKept s (u.updFrame cell f) := hu.same rfl rfl
  exact .ite (hframe _ (hcells _)) ((hframe _ (hcells _)).updUse.each fun _ _ h => h.bpUpdate)

theorem flushHeld : PowerKept s (t.flushHeld n) := by
  have hheld (f : SwcSt → SwcSt) : PowerKept s (t.updSwc f) := h.same rfl rfl
  exact (hheld _).each fun _ _ h => h.captureCopy.endCopy.count (by decide)

theorem reapRuns : PowerKept s t.reapRuns :=
  reapRuns_keeps t (P := PowerKept s) (fun _ _ _ h => h.setFld (by decide)) (fun _ _ _ h => h.same rfl rfl) h

theorem rinkLose (hn : n < 8) : PowerKept s (t.rinkLose n) := by
  have hrink : ∀ n < 8, rinkRegs n (Reg.addr .PWR_DOM_STAT) = false ∧ rinkRegs n (Reg.addr .SYS_MODE_CTRL) = false := by decide
  obtain ⟨hstat, hctrl⟩ := hrink n hn
  unfold Dev.rinkLose
  extract_lets cleared emptied stopped forgot
  have hcleared : PowerKept s cleared := ((h.rinkClear hn).flushHeld.resetRegs hstat hctrl).setFld (f := .RNK_STATUS_CLK_MHZ) (by decide)
  have hemptied : PowerKept s emptied := (hcleared.same (u := cleared.zeroRange _ _) rfl rfl).reapRuns
  have hforgot : PowerKept s forgot := hemptied.same rfl rfl
  exact .ite (hforgot.degrade rfl) hforgot

theorem selfCheck {e : Nat} {fails : Bool} : PowerKept s (t.selfCheck n e fails) := by
  have honline (b : Bool) : PowerKept s (t.setOnline n e b) := (h.setFld (f := .RNK_STATUS_ENG_ONLINE) (by decide)).setFlag (by decide)
  exact ((honline _).setFlag (f := .RNK_ENG_STATUS_SELF_FAIL) (by decide)).when fun _ h => h.each fun _ _ h => h.setSt

theorem partRead (f mid p off k : Nat) : PowerKept s (Dev.partRead f mid p off k t).2 := by
  induction f generalizing t off k with
  | zero => exact h
  | succ f ih =>
    cases k with
    | zero => exact h
    | succ k =>
      cases hpart : t.partAddr p off with
      | none =>
        have hend : (Dev.partRead (f + 1) mid p off (k + 1) t).2 = t := by simp [Dev.partRead, hpart]
        rw [hend]
        exact h
      | some a =>
        set m := min (k + 1) (0x80000 - off % 0x80000) with hm
        have hgo : (Dev.partRead (f + 1) mid p off (k + 1) t).2 = (Dev.partRead f mid p (off + m) (k + 1 - m) (t.physRead mid a m).2).2 := by
          simp [Dev.partRead, hpart, hm]
        rw [hgo]
        exact ih h.physRead ..

theorem rinkResetStart {fails : Nat} (hn : n < 8) : PowerKept s (t.rinkResetStart n fails) := by
  unfold Dev.rinkResetStart
  extract_lets cleared started checked degraded
  have hzeroed : PowerKept s (((t.rinkClear n).flushHeld n).zeroDmem n) := (h.rinkClear hn).flushHeld.each fun _ _ h => h.same rfl rfl
  have hstarted : PowerKept s started := (hzeroed.reapRuns.same (u := cleared.updSys _) rfl rfl).setFlag (by decide)
  have hchecked : PowerKept s checked := hstarted.each fun _ _ h => h.selfCheck
  have hdegraded : PowerKept s degraded := by
    refine .ite hchecked ((hchecked.degrade (f := .SYS_DEGRADED_ENGINE) rfl).same ?_ ?_) <;> rw [autoYield_frame]
  refine .ite (hdegraded.same rfl rfl) ?_
  have hread : PowerKept s degraded.keptRecs.2 := hdegraded.partRead ..
  exact hread.same rfl rfl

/-! ### The other domains -/

theorem dropLinks {l : List Nat} : PowerKept s (t.dropLinks l) := by
  refine h.each fun m u hu => ?_
  have htarget (u : Dev) : u.fld .MAC_LINK_DB_TARGET m < 32 := bits_lt _ 4 0
  exact .ite hu (((hu.setFlag (f := .MAC_STATUS_LINK) (by decide)).count (by decide)).when fun u hu => hu.ringMask (htarget u))

theorem parLanes : PowerKept s t.parLanes := by
  have htarget (u : Dev) : u.fld .PAR_DB_TARGET < 32 := bits_lt _ 4 0
  unfold Dev.parLanes
  extract_lets v
  refine .ite h (PowerKept.when ?_ fun u hu => hu.ringMask (htarget u))
  exact (h.setFld (f := .PAR_STATUS_LANES) (v := v) (by decide)).same rfl rfl

theorem ringLift : PowerKept s t.ringLift := by
  have hlift (f : LiftSt → LiftSt) {u : Dev} (hu : PowerKept s u) : PowerKept s (u.updLift 39 f) := hu.same rfl rfl
  have hstate (v : Nat) : PowerKept s (t.setFld .LFT_STATUS_STATE v 39) := h.setFld (by decide)
  have hring (v : Nat) (b : Bool) : PowerKept s ((t.setFld .LFT_STATUS_STATE v 39).setFlag .LFT_STATUS_RING b 39) := (hstate v).setFlag (by decide)
  unfold Dev.ringLift
  refine .ite (.ite h (hlift _ ?_)) (.ite (hring ..) h)
  exact ((hring ..).setFld (f := .LFT_STATUS_OWNER_MID) (by decide)).setFld (by decide)

theorem domLose {b : Nat} (hb : b < 13) : PowerKept s (t.domLose (domOfBit b)) := by
  have hregs : ∀ d ∈ [Dom.swc, .sds, .tphy, .pio], domRegs d (Reg.addr .PWR_DOM_STAT) = false ∧ domRegs d (Reg.addr .SYS_MODE_CTRL) = false := by decide
  have hreset {d : Dom} (hd : d ∈ [Dom.swc, .sds, .tphy, .pio]) {u : Dev} (hu : PowerKept s u) : PowerKept s (u.resetRegs .POR (domRegs d)) :=
    hu.resetRegs (hregs d hd).1 (hregs d hd).2
  obtain hlt | rfl | rfl | rfl | rfl | rfl : b < 8 ∨ b = 8 ∨ b = 9 ∨ b = 10 ∨ b = 11 ∨ b = 12 := by omega
  · have hdom : ∀ b < 8, domOfBit b = .rink b := by decide
    rw [hdom b hlt]
    exact h.rinkLose hlt
  · exact hreset (d := .swc) (by decide) (h.same rfl rfl)
  · exact (hreset (d := .sds) (by decide) h.dropLinks).parLanes
  · exact hreset (d := .tphy) (by decide) h.dropLinks
  · refine PowerKept.resetRegs (p := hostRegs) ?_ (by decide) (by decide)
    exact h.same rfl rfl
  · refine PowerKept.ringLift (hreset (d := .pio) (by decide) ?_)
    exact h.same rfl rfl

end

end PowerKept

/-! ### Switching a domain (R494) -/

theorem domBit {b : Nat} (hb : b < 13) : (domOfBit b).bit = b := by
  have hall : ∀ b < 13, (domOfBit b).bit = b := by decide
  exact hall b hb

theorem domOn_domOfBit (s : Dev) {b : Nat} (hb : b < 13) : s.domOn (domOfBit b) = bit (s.reg .PWR_DOM_STAT) b := by
  have hall : ∀ b < 13, domOfBit b ≠ .aon ∧ domOfBit b ≠ .fab ∧ domOfBit b ≠ .pat := by decide
  obtain ⟨haon, hfab, hpat⟩ := hall b hb
  have hbit := domBit hb
  unfold domOn
  split
  · next h => exact absurd h haon
  · next h => exact absurd h hfab
  · next h => exact absurd h hpat
  · rw [hbit]

/-- The bit of a domain in PWR_DOM_STAT, beside BUSY. -/
theorem setDomStat (s : Dev) {b : Nat} (hb : b < 13) (on : Bool) : let e := s.setReg .PWR_DOM_STAT (putBit (s.reg .PWR_DOM_STAT) b on)
    e.domOn (domOfBit b) = on ∧ e.flag .PWR_DOM_STAT_BUSY = s.flag .PWR_DOM_STAT_BUSY := by
  have hlt : putBit (s.reg .PWR_DOM_STAT) b on < 2 ^ 32 := putBits_lt (Nat.le_refl b) (by omega) (s.regWord _).isLt _
  have hreg : (s.setReg .PWR_DOM_STAT (putBit (s.reg .PWR_DOM_STAT) b on)).reg .PWR_DOM_STAT = putBit (s.reg .PWR_DOM_STAT) b on :=
    (reg_setReg_same ..).trans (Nat.mod_eq_of_lt hlt)
  refine ⟨(domOn_domOfBit _ hb).trans ((congrArg (bit · b) hreg).trans (bit_putBit_same ..)), congrArg (· != 0) ?_⟩
  exact (congrArg (bits · 16 16) hreg).trans (bits_putBits_other (Nat.le_refl b) (.inr (show b < 16 by omega)) ..)

end Dev

end Sys2Proof.Machine
end

section
/-! Patrol's resets, watchdog, load and queue, and the switching of domains (R469, R472, R473, R475, R494). -/

namespace Sys2Proof.Machine

namespace Sparse
variable {β : Type} {d : Nat → β} {Q : β → Prop} {k : Nat}

/-- What the default of a key and every entry of it satisfy, the value of the key does. -/
theorem get_of_forall (hd : Q (d k)) {t : List (Nat × β)} (ht : ∀ v, (k, v) ∈ t → Q v) : Q (get d t k) := by
  induction t with
  | nil => exact hd
  | cons e t ih =>
    obtain ⟨a, w⟩ := e
    unfold get
    split
    · next hk => exact ht w (hk ▸ List.mem_cons_self)
    · exact ih fun v hv => ht v (List.mem_cons_of_mem _ hv)

end Sparse

namespace Dev
variable {s t : Dev} {who : Agent} {b : Nat} {on : Bool}

theorem flag_updSys (s : Dev) (f : SysSt → SysSt) (g : Fld) (i j k : Nat) : (s.updSys f).flag g i j k = s.flag g i j k := rfl

/-! ### A domain is switched (R29, R494) -/

namespace PowerKept

theorem busy (h : PowerKept s t) : t.flag .PWR_DOM_STAT_BUSY = s.flag .PWR_DOM_STAT_BUSY := congrArg (fun v => bits v 16 16 != 0) h.stat

theorem domOn (h : PowerKept s t) (hb : b < 13) : t.domOn (domOfBit b) = s.domOn (domOfBit b) := by
  rw [domOn_domOfBit t hb, domOn_domOfBit s hb, h.stat]

theorem domPower (s : Dev) (b : Nat) : PowerKept (s.setReg .PWR_DOM_STAT (putBit (s.reg .PWR_DOM_STAT) b true)) (s.domPower b) := by
  refine .ite (PowerKept.each ?_ fun k u hu => .ite (hu.same rfl rfl) hu) (.refl _)
  exact ((PowerKept.refl _).setFld (f := .SWC_BUF_STATUS_TOTAL) (by decide)).poolShow

end PowerKept

theorem domSwitchDone_does (hb : b < 13) (hreq : s.sys.domReq = some (b, on)) (fails : Nat) : let e := s.domSwitchDone fails
    e.sys.domReq = none ∧ e.flag .PWR_DOM_STAT_BUSY = false ∧ e.domOn (domOfBit b) = on := by
  let r := (s.updSys fun x => { x with domReq := none }).setFlag .PWR_DOM_STAT_BUSY false
  have hbusy : r.flag .PWR_DOM_STAT_BUSY = false := flag_setFld_b2n _ (by decide) false
  have hdone : s.domSwitchDone fails = if !on then r.domDrop b else if b < 8 then (r.domPower b).rinkResetStart b fails else r.domPower b := by
    unfold domSwitchDone
    rw [hreq]
  have hnone : r.sys.domReq = none := rfl
  clear_value r
  dsimp only
  cases on
  · have hkept := (PowerKept.refl r).domLose hb
    have hdrop : r.domDrop b = (r.domLose (domOfBit b)).setReg .PWR_DOM_STAT (putBit ((r.domLose (domOfBit b)).reg .PWR_DOM_STAT) b false) := by
      rw [hkept.stat]
      rfl
    rw [hdone.trans (if_pos rfl), hdrop]
    obtain ⟨hoff, hfree⟩ := setDomStat (r.domLose (domOfBit b)) hb false
    exact ⟨hkept.req.trans hnone, hfree.trans (hkept.busy.trans hbusy), hoff⟩
  · rw [hdone.trans (if_neg (by decide))]
    obtain ⟨hon, hfree⟩ := setDomStat r hb true
    have hpower := PowerKept.domPower r b
    have hkept : PowerKept (r.setReg .PWR_DOM_STAT (putBit (r.reg .PWR_DOM_STAT) b true))
        (if b < 8 then (r.domPower b).rinkResetStart b fails else r.domPower b) := by
      split
      · next hrink => exact hpower.rinkResetStart hrink
      · exact hpower
    exact ⟨hkept.req.trans hnone, hkept.busy.trans (hfree.trans hbusy), (hkept.domOn hb).trans hon⟩

/-- A request that changes the bit of one domain. -/
theorem domDiff {v : Nat} (hb : b < 13) (h : bit v b = !on) : domBits.filter (fun k => bit (putBit v b on) k != bit v k) = [b] := by
  have hbit : (fun k => bit (putBit v b on) k != bit v k) = fun k => k == b := by
    funext k
    rw [bit_putBit]
    by_cases hk : k = b
    · cases on <;> simp [hk, h]
    · simp [hk]
  have hall : ∀ b < 13, domBits.filter (fun k => k == b) = [b] := by decide
  rw [hbit]
  exact hall b hb

theorem rowWrite_domRequest (h : s.reaches who .PWR_DOM_CTRL 0 0 true) (hb : b < 13) (hold : s.reg .PWR_DOM_CTRL < 2 ^ 13)
    (hbit : bit (s.reg .PWR_DOM_CTRL) b = !on) (hfree : s.flag .PWR_DOM_STAT_BUSY = false) (hlegal : s.domBreaks b on = false)
    (hhost : b ≠ 11 ∨ s.boot.target ≠ 2) : let e := s.rowWrite who .PWR_DOM_CTRL (word (putBit (s.reg .PWR_DOM_CTRL) b on)).toNat
    e.sys.domReq = some (b, on) ∧ e.flag .PWR_DOM_STAT_BUSY = true := by
  have hlt : putBit (s.reg .PWR_DOM_CTRL) b on < 2 ^ 13 := putBits_lt (Nat.le_refl b) hb hold _
  have hword : (word (putBit (s.reg .PWR_DOM_CTRL) b on)).toNat = putBit (s.reg .PWR_DOM_CTRL) b on :=
    Nat.mod_eq_of_lt (Nat.lt_trans hlt (by decide))
  have hpage : s.rowWrite who .PWR_DOM_CTRL (word (putBit (s.reg .PWR_DOM_CTRL) b on)).toNat =
      s.domRequest (word (putBit (s.reg .PWR_DOM_CTRL) b on)).toNat := rowWrite_single rfl h _
  have hzero : putBit (s.reg .PWR_DOM_CTRL) b on / 2 ^ 13 = 0 := Nat.div_eq_of_lt hlt
  have hon : bit (putBit (s.reg .PWR_DOM_CTRL) b on) b = on := bit_putBit_same ..
  have hone : (decide (putBit (s.reg .PWR_DOM_CTRL) b on / 2 ^ 13 = 0) && decide ([b].length ≤ 1)) = true := by
    rw [hzero]
    rfl
  have hopen : ¬ (s.flag .PWR_DOM_STAT_BUSY || s.domBreaks b on || (b == 11 && !on && s.boot.target == 2)) = true := by
    obtain hhost | hhost := hhost <;> simp [hfree, hlegal, hhost]
  have hgo : s.domRequest (putBit (s.reg .PWR_DOM_CTRL) b on) = ((s.setReg .PWR_DOM_CTRL (putBit (s.reg .PWR_DOM_CTRL) b on)).setFlag .PWR_DOM_STAT_BUSY
      true).updSys fun x => { x with domReq := some (b, on) } := by
    unfold domRequest
    dsimp only
    rw [domDiff hb hbit, if_pos hone]
    dsimp only
    rw [hon, if_neg hopen]
  dsimp only
  rw [hpage, hword, hgo]
  exact ⟨rfl, (flag_updSys ..).trans (flag_setFld_b2n (s.setReg .PWR_DOM_CTRL _) (by decide) true)⟩

/-! ### The resets by lockstep and watchdog (R469, R472, R492) -/

/-- Nothing runs on the device, whose memory is lost. -/
structure Reset (cause : Nat) (e : Dev) : Prop where
  run : e.sys.resetRun = some .WDOG
  shown : e.sys.wdogCause = cause
  mem : e.mem = []
  hold : e.sys.bootHold = true
  idle : ∀ c, e.alive c = false
  keys : e.vlt.keyRegs = none

/-- No rink is on after a reset of the registers. -/
theorem resetRegs_rinkOff (s : Dev) {n : Nat} (hn : n < 8) : (s.resetRegs .WDOG fun _ => true).rinkOn n = false := by
  have haddr : Reg.addr .PWR_DOM_STAT = 0x10004 := rfl
  have hat : regAt 0x10004 = some (.PWR_DOM_STAT, 0, 0, 0) := by decide
  have hfields (w : Nat) : bit (resetFieldsBy .WDOG 0 Reg.PWR_DOM_STAT.info.fields w) n = false := by
    have hfold : resetFieldsBy .WDOG 0 Reg.PWR_DOM_STAT.info.fields w = putBits (putBits w 12 0 0) 16 16 0 := rfl
    rw [hfold, bit_eq_testBit, testBit_putBits (by decide), if_neg (by omega), testBit_putBits (by decide), if_pos (by omega), Nat.zero_testBit]
  have hall : ∀ n < 8, bit (resetAt 0x10004).toNat n = false := by decide
  have hword : bit ((s.resetRegs .WDOG fun _ => true).regWord 0x10004).toNat n = false := by
    refine Sparse.get_of_forall (Q := fun v : Word => bit v.toNat n = false) (hall n hn) fun v hv => ?_
    obtain ⟨⟨off, w⟩, -, hmap⟩ := List.mem_filterMap.mp hv
    simp only [Bool.not_true, Bool.false_eq_true, if_false] at hmap
    by_cases hoff : off = 0x10004
    · subst hoff
      rw [hat] at hmap
      dsimp only at hmap
      split at hmap
      · cases hmap
      · obtain rfl : _ = v := congrArg Prod.snd (Option.some.inj hmap)
        rw [← hfields w.toNat, bit_eq_testBit, bit_eq_testBit]
        exact (Nat.testBit_mod_two_pow ..).trans (by simp [show n < 32 by omega]; rfl)
    · exfalso
      cases hreg : regAt off with
      | none => simp [hreg] at hmap
      | some r =>
        rw [hreg] at hmap
        dsimp only at hmap
        split at hmap
        · cases hmap
        · exact hoff (congrArg Prod.fst (Option.some.inj hmap))
  rw [rinkOn, reg, haddr, hword]

/-- A reset of the registers, and what the OTP and the fuses show after it, leave no rink on. -/
theorem deviceReset_stat (s : Dev) (cause : Nat) : ∃ u : Dev, (s.deviceReset .WDOG cause).reg .PWR_DOM_STAT = (u.resetRegs .WDOG fun _ => true).reg .PWR_DOM_STAT := by
  have hshown (d : Dev) : PowerKept d d.vltShow.sensorsLoad.factoryShow := by
    have hvlt : PowerKept d d.vltShow.sensorsLoad := ((((PowerKept.refl d).setFld (f := .VLT_STATUS_LIFECYCLE) (by decide)).setFld (f := .VLT_ROLLBACK_COUNTER)
      (by decide)).setFld (f := .VLT_TAMPER_SRC_COUNT) (by decide)).setFld (f := .VLT_TAMPER_EN_EN) (by decide)
    have hserial (u : Dev) (v w : Nat) : RegsOnly [.SYS_SERIAL_LOW, .SYS_SERIAL_HIGH] u ((u.setReg .SYS_SERIAL_LOW v).setReg .SYS_SERIAL_HIGH w) :=
      ((RegsOnly.refl u).setReg (Reg.hasCopy_alone rfl) (by decide)).setReg (Reg.hasCopy_alone rfl) (by decide)
    exact (hvlt.regsOnly (hserial ..) (by decide) (by decide)).each fun p _ h =>
      (h.setFld (f := .GRM_BANK_FACT_ROWS) (by decide)).setFld (f := .GRM_BANK_FACT_COLS) (by decide)
  refine ⟨s.setFld .BOOT_STATUS_UNCONF s.unconfNext, ?_⟩
  unfold deviceReset
  exact (hshown _).stat

theorem factoryShow_mem (s : Dev) : s.factoryShow.mem = s.mem := by
  unfold factoryShow
  refine (each_same (g := Dev.mem) ?_ _).trans rfl
  exact fun _ _ _ => rfl

theorem deviceReset_resets (s : Dev) (cause : Nat) : (s.deviceReset .WDOG cause).Reset cause := by
  have hsys : (s.deviceReset .WDOG cause).sys.patOn = false := congrArg SysSt.patOn (factoryShow_sys _)
  obtain ⟨u, hstat⟩ := deviceReset_stat s cause
  refine ⟨deviceReset_resetRun .., congrArg SysSt.wdogCause (factoryShow_sys _), ?_, congrArg SysSt.bootHold (factoryShow_sys _), fun c => ?_,
    congrArg VltSt.keyRegs (factoryShow_vlt _)⟩
  · exact factoryShow_mem _
  · unfold alive
    split
    · exact hsys
    · next hpat =>
      have hrink : rinkOf c < 8 := rinkOf_lt (lt_of_not_isPatrol hpat)
      have hoff : (s.deviceReset .WDOG cause).rinkOn (rinkOf c) = false := (congrArg (bit · (rinkOf c)) hstat).trans (resetRegs_rinkOff u hrink)
      rw [hoff]
      rfl

theorem startReset_wdog (hrun : s.sys.resetRun = none) (hopen : s.sys.lockdown = false) (cause : Nat) : (s.startReset .WDOG cause).Reset cause := by
  rw [startReset_free hrun (.inl hopen)]
  exact deviceReset_resets s cause

theorem lockstep_resets (hpat : s.sys.patOn = true) (hrun : s.sys.resetRun = none) (hopen : s.sys.lockdown = false) (fetch : Bool) :
    (s.lockstep fetch).Reset (if fetch then 4 else 3) := by
  have hgo : ¬ (!s.sys.patOn || s.sys.resetRun.isSome || s.sys.lockdown) = true := by simp [hpat, hrun, hopen]
  unfold lockstep
  rw [if_neg hgo]
  cases fetch
  · exact startReset_wdog (s := s.count .PAT_LOCKSTEP_CNT) hrun hopen 3
  · exact startReset_wdog hrun hopen 4

theorem watchdogExpiry_resets (hpat : s.sys.patOn = true) (hrun : s.sys.resetRun = none) (hopen : s.sys.lockdown = false)
    (hen : s.flag .PAT_WDOG_CFG_EN = true) (hleft : s.fld .PAT_WDOG_LEFT_MS = 0) : s.watchdogExpiry.Reset 2 := by
  unfold watchdogExpiry
  rw [if_pos (by simp [hpat, hrun, hen, hleft])]
  exact startReset_wdog hrun hopen 2

theorem watchdogExpiry_idle (h : s.flag .PAT_WDOG_CFG_EN = false ∨ s.fld .PAT_WDOG_LEFT_MS ≠ 0 ∨ s.sys.lockdown = true) : s.watchdogExpiry = s := by
  unfold watchdogExpiry
  split
  · next hgo =>
    simp only [Bool.and_eq_true, beq_iff_eq, Option.isNone_iff_eq_none] at hgo
    obtain ⟨⟨⟨hen, hleft⟩, -⟩, hrun⟩ := hgo
    obtain h | h | h := h
    · rw [hen] at h
      cases h
    · exact absurd hleft h
    · unfold startReset
      rw [hrun]
      exact if_pos (by rw [h]; rfl)
  · rfl

/-! ### The watchdog's count and the load (R472, R473) -/

section
variable (h : s.reaches who .PAT_WDOG_KICK 0 0 true)
include h

theorem rowWrite_kick (v : Nat) : s.rowWrite who .PAT_WDOG_KICK v = s.wdogKick v := rowWrite_single rfl h v

theorem rowWrite_kick_restarts (hen : s.flag .PAT_WDOG_CFG_EN = true) : let e := s.rowWrite who .PAT_WDOG_KICK 0x5A5A
    e.fld .PAT_WDOG_LEFT_MS = s.fld .PAT_WDOG_CFG_TIMEOUT_MS ∧ e.sys.msTicks = 0 := by
  have hkick : s.wdogKick 0x5A5A = (s.setFld .PAT_WDOG_LEFT_MS (s.fld .PAT_WDOG_CFG_TIMEOUT_MS)).updSys fun x => { x with msTicks := 0 } := by
    unfold wdogKick
    rw [if_neg (by decide), if_pos hen]
  dsimp only
  rw [rowWrite_kick h, hkick]
  exact ⟨fld_setFld_of_fits s (by decide) (s.fld_lt ..), rfl⟩

theorem rowWrite_kick_idle (hen : s.flag .PAT_WDOG_CFG_EN = false) : s.rowWrite who .PAT_WDOG_KICK 0x5A5A = s := by
  rw [rowWrite_kick h]
  unfold wdogKick
  rw [if_neg (by decide), if_neg (by simp [hen])]

theorem rowWrite_kick_bad {v : Nat} (hv : v ≠ 0x5A5A) : let e := s.rowWrite who .PAT_WDOG_KICK v
    e.reg .PAT_KICK_BAD_CNT = min (s.reg .PAT_KICK_BAD_CNT + 1) 0xFFFFFFFF ∧ e.reg .PAT_WDOG_LEFT = s.reg .PAT_WDOG_LEFT ∧ e.sys = s.sys := by
  have hkick : s.wdogKick v = s.count .PAT_KICK_BAD_CNT := if_pos hv
  dsimp only
  rw [rowWrite_kick h, hkick]
  exact ⟨reg_count_same .., reg_countBy_of_apart s (Reg.hasCopy_alone rfl) (Reg.hasCopy_alone rfl) (by decide) 1, rfl⟩

end

theorem loadWindow_does (hpat : s.sys.patOn = true) {busy : Nat} (hbusy : busy < 101) : let e := s.loadWindow busy
    let l := s.fld .PAT_LOAD_LEVEL
    let hi := s.fld .PAT_LOAD_SHED_HI
    let lo := s.fld .PAT_LOAD_SHED_LO
    e.fld .PAT_LOAD_BUSY_PCT = busy ∧
      (hi ≤ busy → l < 4 → e.fld .PAT_LOAD_LEVEL = l + 1 ∧ e.reg .PAT_SHED_CNT = min (s.reg .PAT_SHED_CNT + 1) 0xFFFFFFFF) ∧
      (hi ≤ busy → 4 ≤ l → e.fld .PAT_LOAD_LEVEL = l) ∧
      (busy < hi → busy ≤ lo → e.fld .PAT_LOAD_LEVEL = l - 1) ∧ (busy < hi → lo < busy → e.fld .PAT_LOAD_LEVEL = l) := by
  let u := s.setFld .PAT_LOAD_BUSY_PCT busy
  have hpct : u.fld .PAT_LOAD_BUSY_PCT = busy := fld_setFld_of_fits s (by decide) (Nat.lt_trans hbusy (by decide))
  have hlevel : u.fld .PAT_LOAD_LEVEL = s.fld .PAT_LOAD_LEVEL := fld_setFld_of_beside s (by decide) (by decide) (by decide) busy
  have hhi : u.fld .PAT_LOAD_SHED_HI = s.fld .PAT_LOAD_SHED_HI := fld_setFld_of_beside s (by decide) (by decide) (by decide) busy
  have hlo : u.fld .PAT_LOAD_SHED_LO = s.fld .PAT_LOAD_SHED_LO := fld_setFld_of_beside s (by decide) (by decide) (by decide) busy
  have hshed : u.reg .PAT_SHED_CNT = s.reg .PAT_SHED_CNT :=
    reg_setFld_of_apart s (f := .PAT_LOAD_BUSY_PCT) (Reg.hasCopy_alone rfl) (Reg.hasCopy_alone rfl) (by decide) busy
  have hdone : s.loadWindow busy = if s.fld .PAT_LOAD_SHED_HI ≤ busy then
        if s.fld .PAT_LOAD_LEVEL < 4 then (u.setFld .PAT_LOAD_LEVEL (s.fld .PAT_LOAD_LEVEL + 1)).count .PAT_SHED_CNT else u
      else if busy ≤ s.fld .PAT_LOAD_SHED_LO then u.setFld .PAT_LOAD_LEVEL (s.fld .PAT_LOAD_LEVEL - 1) else u := by
    rw [← hhi, ← hlo, ← hlevel]
    unfold loadWindow
    rw [if_neg (by simp [hpat])]
  have hset (v : Nat) : (u.setFld .PAT_LOAD_LEVEL v).fld .PAT_LOAD_BUSY_PCT = busy :=
    (fld_setFld_of_beside u (by decide) (by decide) (by decide) v).trans hpct
  have hfits : s.fld .PAT_LOAD_LEVEL < 8 := bits_lt _ 10 8
  have hcnt (v : Nat) {f : Fld} (hf : f.reg = .PAT_LOAD) : ((u.setFld .PAT_LOAD_LEVEL v).count .PAT_SHED_CNT).fld f = (u.setFld .PAT_LOAD_LEVEL v).fld f :=
    fld_countBy_of_apart _ (by rw [hf]; exact Reg.hasCopy_alone rfl) (Reg.hasCopy_alone rfl) (by rw [hf]; decide) 1
  have hsets {v : Nat} (hv : v < 8) : (u.setFld .PAT_LOAD_LEVEL v).fld .PAT_LOAD_LEVEL = v := fld_setFld_of_fits u (by decide) hv
  clear_value u
  dsimp only
  rw [hdone]
  by_cases hhigh : s.fld .PAT_LOAD_SHED_HI ≤ busy
  · rw [if_pos hhigh]
    by_cases hl : s.fld .PAT_LOAD_LEVEL < 4
    · rw [if_pos hl]
      refine ⟨(hcnt _ rfl).trans (hset _), fun _ _ => ⟨(hcnt _ rfl).trans (hsets (by omega)), ?_⟩, fun _ h => absurd hl (by omega),
        fun h => absurd hhigh (by omega), fun h => absurd hhigh (by omega)⟩
      have hkept := reg_setFld_of_apart u (f := .PAT_LOAD_LEVEL) (q := .PAT_SHED_CNT) (Reg.hasCopy_alone rfl) (Reg.hasCopy_alone rfl) (by decide)
        (s.fld .PAT_LOAD_LEVEL + 1)
      rw [reg_count_same, hkept, hshed]
    · rw [if_neg hl]
      exact ⟨hpct, fun _ h => absurd h hl, fun _ _ => hlevel, fun h => absurd hhigh (by omega), fun h => absurd hhigh (by omega)⟩
  · rw [if_neg hhigh]
    by_cases hlow : busy ≤ s.fld .PAT_LOAD_SHED_LO
    · rw [if_pos hlow]
      exact ⟨hset _, fun h => absurd h hhigh, fun h => absurd h hhigh, fun _ _ => hsets (by omega), fun _ h => absurd hlow (by omega)⟩
    · rw [if_neg hlow]
      exact ⟨hpct, fun h => absurd h hhigh, fun h => absurd h hhigh, fun _ h => absurd h hlow, fun _ _ => hlevel⟩

/-! ### The stealable queue (R475) -/

/-- The descriptor that word 7 commits, and the device without it. -/
def patCommitted (s : Dev) (who : Agent) (v : Nat) : Job × Dev := (s.stagePush 8 7 who.mid who.ctx v).takeStaged 8 who.mid who.ctx

/-- A context that has found Patrol's queue empty may look again. -/
def looksAgain (c : Nat) (s : Dev) : Dev := if (s.ctx c).patEmpty then s.updCtx c fun x => { x with patEmpty := false } else s

theorem looksAgain_patQ (c : Nat) (s : Dev) : (s.looksAgain c).eng.patQ = s.eng.patQ := by
  unfold looksAgain
  split <;> rfl

theorem looksAgain_patEmpty (c b : Nat) (s : Dev) : ((s.looksAgain c).ctx b).patEmpty = if b = c then false else (s.ctx b).patEmpty := by
  unfold looksAgain
  by_cases hempty : (s.ctx c).patEmpty = true
  · rw [if_pos hempty, ctx_updCtx]
    split <;> rfl
  · rw [if_neg hempty]
    split
    · next hb =>
      rw [hb]
      exact Bool.eq_false_iff.mpr hempty
    · rfl

theorem each_looksAgain (l : List Nat) (s : Dev) : (s.each l looksAgain).eng.patQ = s.eng.patQ ∧
    ∀ c ∈ l, ((s.each l looksAgain).ctx c).patEmpty = false := by
  refine ⟨each_same (g := fun d : Dev => d.eng.patQ) (fun c _ d => looksAgain_patQ c d) s, fun c hc => ?_⟩
  refine each_forall s (Q := fun c d => (d.ctx c).patEmpty = false) (fun a _ d => ?_) (fun a _ b d hd => ?_) c hc
  · rw [looksAgain_patEmpty, if_pos rfl]
  · rw [looksAgain_patEmpty, hd, ite_self]

theorem rowWrite_patPush (h : s.reaches who .PAT_SQ_PUSH 7 0 true) (v : Nat) : s.rowWrite who .PAT_SQ_PUSH v 7 =
    let m := s.patCommitted who v
    if 64 ≤ s.eng.patQ.length ∨ m.1.pinned ∨ m.1.fwid ≠ 15 ∨ who.mid ≠ 0x40 then m.2.count .PAT_SQ_REFUSE_CNT
    else ((m.2.enqueue 64 m.1).when s.eng.patQ.isEmpty fun s => s.each (List.range 256) looksAgain).noticed := rowWrite_single rfl h v

/-- A job enters Patrol's queue; where it is the first, the contexts that found it empty may look again. -/
theorem patPush_enters (s : Dev) (j : Job) (first : Bool) (l : List Nat) : let e := ((s.enqueue 64 j).when first fun s => s.each l looksAgain).noticed
    e.eng.patQ.map (·.2) = s.eng.patQ.map (·.2) ++ [j] ∧ (first = true → ∀ c ∈ l, (e.ctx c).patEmpty = false) := by
  have hqueue : (s.enqueue 64 j).eng.patQ = s.eng.patQ ++ [(s.eng.arrivals, j)] := rfl
  generalize s.enqueue 64 j = u at hqueue ⊢
  obtain ⟨hsame, hempty⟩ := each_looksAgain l u
  have hnoticed (w : Dev) : w.noticed.eng.patQ = w.eng.patQ ∧ ∀ c, w.noticed.ctx c = w.ctx c := ⟨rfl, fun _ => rfl⟩
  unfold when
  cases first
  · obtain ⟨hpatQ, -⟩ := hnoticed u
    exact ⟨by rw [if_neg (by decide), hpatQ, hqueue, List.map_append, List.map_singleton], fun h => nomatch h⟩
  · obtain ⟨hpatQ, hctx⟩ := hnoticed (u.each l looksAgain)
    refine ⟨by rw [if_pos rfl, hpatQ, hsame, hqueue, List.map_append, List.map_singleton], fun _ c hc => ?_⟩
    rw [if_pos rfl, hctx]
    exact hempty c hc

end Dev

end Sys2Proof.Machine
end

section
/-! The modes, Retention and the event log (R476, R485 to R488, R496 to R498). -/

namespace Sys2Proof.Machine

namespace Dev
variable {s t u : Dev} {who : Agent} {v : Nat}

/-! ### What SYS_MODE shows (R485) -/

theorem code_lt (m : Mode) : m.code < 16 := by cases m <;> decide

theorem modeUpdate_mode (s : Dev) : s.modeUpdate.fld .SYS_MODE_MODE = (s.modeNow false).code := by
  unfold modeUpdate
  extract_lets old shown
  have hshown : shown.fld .SYS_MODE_MODE = (s.modeNow false).code :=
    (fld_setFld_of_beside (s.setFld .SYS_MODE_MODE (s.modeNow false).code) (f := .SYS_MODE_RETURN) (by decide) (by decide) (by decide) _).trans
      (fld_setFld_of_fits s (by decide) (code_lt _))
  have hring : RegsOnly bellRegs shown (shown.when (shown.fld .SYS_MODE_MODE != old && shown.flag .SYS_DB_EV_MODE) fun s =>
      s.ringMask (s.fld .SYS_DB_TARGET) (2 ^ s.fld .SYS_DB_BIT)) :=
    (RegsOnly.refl shown).when fun d h => h.ringMask (bits_lt _ 4 0) (List.Subset.refl _)
  exact (hring.regs.fld (f := .SYS_MODE_MODE) (Reg.hasCopy_alone rfl) (by decide)).trans hshown

/-- The modes that the device may show while HOLD is 1. -/
def heldModes : List Mode := [.lockdown, .retention, .start, .selfTest, .provisioning, .hold]

theorem modeNow_held (h : s.flag .SYS_MODE_CTRL_HOLD = true) : s.modeNow false ∈ heldModes := by
  unfold modeNow
  by_cases hlock : s.sys.lockdown = true
  · rw [if_pos hlock]
    decide
  · rw [if_neg hlock]
    by_cases hret : s.sys.retention = true
    · rw [if_pos hret]
      decide
    · rw [if_neg hret, h]
      cases s.sys.bootMode <;> simp [heldModes]

theorem modeUpdate_held (h : s.flag .SYS_MODE_CTRL_HOLD = true) : s.modeUpdate.inMode heldModes = true :=
  List.any_eq_true.mpr ⟨_, modeNow_held h, by rw [modeUpdate_mode]; exact beq_self_eq_true _⟩

/-! ### Hold and Exchange (R485, R487, R488) -/

namespace PowerKept

theorem hold (h : PowerKept s t) : t.flag .SYS_MODE_CTRL_HOLD = s.flag .SYS_MODE_CTRL_HOLD := congrArg (fun v => bits v 0 0 != 0) h.ctrl

theorem fwx (h : PowerKept s t) : t.flag .SYS_MODE_CTRL_FWX = s.flag .SYS_MODE_CTRL_FWX := congrArg (fun v => bits v 1 1 != 0) h.ctrl

theorem lasts (s : Dev) : Lasts (PowerKept s) where
  setReg _ hq h := h.setReg (Nat.lt_of_lt_of_le (by decide) hq)
  ringMask _ hn h := h.ringMask hn
  updCan _ _ h := h.same rfl rfl
  updGrp _ _ h := h.same rfl rfl

end PowerKept

theorem setHold_flags (s : Dev) (b : Bool) : (s.setFlag .SYS_MODE_CTRL_HOLD b).flag .SYS_MODE_CTRL_HOLD = b ∧
    (s.setFlag .SYS_MODE_CTRL_HOLD b).flag .SYS_MODE_CTRL_FWX = s.flag .SYS_MODE_CTRL_FWX :=
  ⟨flag_setFld_b2n s (by decide) b, flag_setFld_of_beside s (by decide) (by decide) (by decide) _⟩

theorem fwxSet_flags (s : Dev) (b : Bool) : (s.fwxSet b).flag .SYS_MODE_CTRL_FWX = b ∧
    (s.fwxSet b).flag .SYS_MODE_CTRL_HOLD = s.flag .SYS_MODE_CTRL_HOLD := by
  have hmode := (PowerKept.refl (s.setFlag .SYS_MODE_CTRL_FWX b)).modeUpdate
  exact ⟨hmode.fwx.trans (flag_setFld_b2n s (by decide) b), hmode.hold.trans (flag_setFld_of_beside s (by decide) (by decide) (by decide) _)⟩

theorem holdEnter_holds (s : Dev) (b : Bool) : let e := (s.fwxSet b).holdEnter
    e.flag .SYS_MODE_CTRL_HOLD = true ∧ e.flag .SYS_MODE_CTRL_FWX = b ∧ e.inMode heldModes = true := by
  obtain ⟨hfwx, hhold⟩ := fwxSet_flags s b
  by_cases hheld : ((s.fwxSet b).flag .SYS_MODE_CTRL_HOLD && (s.fwxSet b).flag .CTL_STATUS_HOLD) = true
  · have hstay : (s.fwxSet b).holdEnter = s.fwxSet b := if_pos hheld
    obtain ⟨hon, -⟩ := (Bool.and_eq_true ..).mp hheld
    have hset : (s.setFlag .SYS_MODE_CTRL_FWX b).flag .SYS_MODE_CTRL_HOLD = true :=
      ((PowerKept.refl (s.setFlag .SYS_MODE_CTRL_FWX b)).modeUpdate.hold.symm.trans hon)
    rw [hstay]
    exact ⟨hon, hfwx, modeUpdate_held hset⟩
  · let w := ((((s.fwxSet b).setFlag .SYS_MODE_CTRL_HOLD true).ctlHold true).each (List.range 8) canMute).bldHold
    have henter : (s.fwxSet b).holdEnter = w.modeUpdate := if_neg hheld
    have hkept : PowerKept ((s.fwxSet b).setFlag .SYS_MODE_CTRL_HOLD true) w := (PowerKept.lasts _).holdUnits (.refl _)
    obtain ⟨hset, hsame⟩ := setHold_flags (s.fwxSet b) true
    have hw := hkept.modeUpdate
    rw [henter]
    exact ⟨hw.hold.trans hset, hw.fwx.trans (hsame.trans hfwx), modeUpdate_held (hkept.hold.trans hset)⟩

theorem holdLeave_leaves (hkept : s.holdKept = false) : s.holdLeave.flag .SYS_MODE_CTRL_HOLD = false := by
  unfold holdLeave
  by_cases hhold : s.flag .SYS_MODE_CTRL_HOLD = true
  · rw [if_neg (by simp [hhold]), if_neg (by simp [hkept])]
    obtain ⟨hset, -⟩ := setHold_flags s false
    have hdone : PowerKept (s.setFlag .SYS_MODE_CTRL_HOLD false) ((s.setFlag .SYS_MODE_CTRL_HOLD false).ctlHold false) :=
      (PowerKept.lasts _).ctlHold false (.refl _)
    exact hdone.modeUpdate.hold.trans hset
  · rw [if_pos (by simpa using hhold)]
    exact Bool.eq_false_iff.mpr hhold

theorem RegsOnly.holdKept {l : List Reg} (h : RegsOnly l s t) (hboot : .BOOT_STATUS ∉ l) (hpar : .PAR_STATUS ∉ l) : t.holdKept = s.holdKept := by
  unfold Dev.holdKept
  rw [h.regs.fld (f := .BOOT_STATUS_RESULT) (Reg.hasCopy_alone rfl) hboot, h.regs.fld (f := .PAR_STATUS_STATE) (Reg.hasCopy_alone rfl) hpar, h.boot]

/-- Patrol's write of SYS_MODE_CTRL, behind the count of its reserved bits. -/
theorem rowWrite_modeCtrl (h : s.reaches who .SYS_MODE_CTRL 0 0 true) (hmid : who.mid = 0x40) (v : Nat) : ∃ u, RegsOnly [.SYS_MISUSE_CNT] s u ∧
    s.rowWrite who .SYS_MODE_CTRL v = if bit v 0 then (u.fwxSet (bit v 1)).holdEnter else (u.fwxSet (bit v 1)).holdLeave := by
  refine ⟨if v / 4 = 0 then s else s.misuse .SYS, .ite (.refl s) ((RegsOnly.refl s).count (Reg.hasCopy_alone rfl) (by decide)), ?_⟩
  have hpage : s.rowWrite who .SYS_MODE_CTRL v = s.modeCtrlWrite who.mid v := rowWrite_single rfl h v
  rw [hpage]
  unfold modeCtrlWrite
  rw [if_neg (by simp [hmid])]

section
variable (h : s.reaches who .SYS_MODE_CTRL 0 0 true) (hmid : who.mid = 0x40)
include h hmid

theorem rowWrite_holdEntry : let e := s.rowWrite who .SYS_MODE_CTRL (s.reg .SYS_MODE_CTRL ||| 1)
    e.flag .SYS_MODE_CTRL_HOLD = true ∧ e.inMode heldModes = true := by
  obtain ⟨u, -, hwrite⟩ := rowWrite_modeCtrl h hmid (s.reg .SYS_MODE_CTRL ||| 1)
  have hbit : bit (s.reg .SYS_MODE_CTRL ||| 1) 0 = true := by rw [bit_eq_testBit, Nat.testBit_or]; simp
  obtain ⟨hhold, -, hmode⟩ := holdEnter_holds u (bit (s.reg .SYS_MODE_CTRL ||| 1) 1)
  rw [hwrite, if_pos hbit]
  exact ⟨hhold, hmode⟩

theorem rowWrite_holdExit (hkept : s.holdKept = false) :
    (s.rowWrite who .SYS_MODE_CTRL (putBit (s.reg .SYS_MODE_CTRL) 0 false)).flag .SYS_MODE_CTRL_HOLD = false := by
  obtain ⟨u, honly, hwrite⟩ := rowWrite_modeCtrl h hmid (putBit (s.reg .SYS_MODE_CTRL) 0 false)
  have hfwx : RegsOnly (.SYS_MISUSE_CNT :: .SYS_MODE_CTRL :: .SYS_MODE :: bellRegs) s (u.fwxSet (bit (putBit (s.reg .SYS_MODE_CTRL) 0 false) 1)) :=
    ((honly.mono (by decide)).setFlag (Reg.hasCopy_alone rfl) (by decide)).modeUpdate (by decide)
  rw [hwrite, if_neg (by rw [bit_putBit_same]; decide)]
  exact holdLeave_leaves ((hfwx.holdKept (by decide) (by decide)).trans hkept)

theorem rowWrite_fwx (on : Bool) : let e := s.rowWrite who .SYS_MODE_CTRL (putBit (s.reg .SYS_MODE_CTRL) 1 on)
    e.flag .SYS_MODE_CTRL_FWX = on ∧ e.flag .SYS_MODE_CTRL_HOLD = s.flag .SYS_MODE_CTRL_HOLD := by
  obtain ⟨u, honly, hwrite⟩ := rowWrite_modeCtrl h hmid (putBit (s.reg .SYS_MODE_CTRL) 1 on)
  have hold : u.flag .SYS_MODE_CTRL_HOLD = s.flag .SYS_MODE_CTRL_HOLD := honly.regs.flag (Reg.hasCopy_alone rfl) (by decide)
  have hbit : bit (putBit (s.reg .SYS_MODE_CTRL) 1 on) 0 = s.flag .SYS_MODE_CTRL_HOLD := by
    have hfld : s.fld .SYS_MODE_CTRL_HOLD = b2n (bit (s.reg .SYS_MODE_CTRL) 0) := bits_one ..
    rw [bit_putBit, if_neg (by decide), flag, hfld]
    cases bit (s.reg .SYS_MODE_CTRL) 0 <;> rfl
  obtain ⟨hfwx, hsame⟩ := fwxSet_flags u on
  dsimp only
  rw [hwrite, bit_putBit_same, hbit]
  by_cases hheld : s.flag .SYS_MODE_CTRL_HOLD = true
  · obtain ⟨hhold, hkeeps, -⟩ := holdEnter_holds u on
    rw [if_pos hheld]
    exact ⟨hkeeps, hhold.trans hheld.symm⟩
  · have hfree : (u.fwxSet on).flag .SYS_MODE_CTRL_HOLD = false := hsame.trans (hold.trans (Bool.eq_false_iff.mpr hheld))
    have hstay : (u.fwxSet on).holdLeave = u.fwxSet on := if_pos (by simp [hfree])
    rw [if_neg hheld, hstay]
    exact ⟨hfwx, hsame.trans hold⟩

end

/-! ### Retention and the wake (R496 to R498) -/

theorem keepBanks_congr (h : RegsOnly [.PWR_SLEEP, .PWR_MISUSE_CNT] s t) : t.keepBanks = s.keepBanks := by
  refine List.filter_congr fun b hb => ?_
  have hlt : b < 256 := List.mem_range.mp hb
  have hkeep : Reg.PWR_KEEP.HasCopy (b / 32) 0 0 := Reg.hasCopy_row rfl (show b / 32 < 8 by omega)
  have hstate : t.bankState b = s.bankState b := congrArg (bits · _ _) (h.regs.reg _ _ _ _ (hasCopy_bankStat hlt) (by decide))
  rw [hstate, h.regs.reg _ _ _ _ hkeep (by decide)]

theorem each_setBankState_sys (l : List Nat) (f : Nat → Nat) (s : Dev) : (s.each l fun b s => s.setBankState b (f b)).sys = s.sys :=
  each_same (g := Dev.sys) (f := fun b s => s.setBankState b (f b)) (fun _ _ _ => rfl) s

theorem retain_sys (s : Dev) : s.retain.sys.retention = true ∧ s.retain.sys.keptBanks = s.keepBanks := by
  unfold retain
  dsimp only
  rw [modeUpdate_sys, factoryShow_sys]
  exact ⟨congrArg SysSt.retention (each_setBankState_sys ..), congrArg SysSt.keptBanks (each_setBankState_sys ..)⟩

theorem sleepWrite_retains (h : s.reaches who .PWR_SLEEP 0 0 true) (hmid : who.mid = 0x40) (henter : bit v 0 = true) (hwake : bits v 2 1 ≠ 0)
    (hmode : s.inMode [.standalone, .hosted, .listen, .hold] = true) (hpar : s.flag .PAR_CFG_EN = false)
    (hxchg : ∀ t < 16, s.flag .CTL_TASK_CTRL_PENDING t = false) : let e := s.rowWrite who .PWR_SLEEP v
    e.sys.retention = true ∧ e.sys.keptBanks = s.keepBanks := by
  let u := s.plainIf (fun fi => fi.is .PWR_SLEEP_ENTER && bit v 0 && who.mid != 0x40) .PWR_SLEEP v
  have honly : RegsOnly [.PWR_SLEEP, .PWR_MISUSE_CNT] s u := (RegsOnly.refl s).plainIf (Reg.hasCopy_alone rfl) (Reg.hasCopy_alone rfl) (by decide) (by decide)
  have hill (fi : FieldInfo) : (fi.is .PWR_SLEEP_ENTER && bit v 0 && who.mid != 0x40) = false := by simp [hmid]
  have hpin : u.fld .PWR_SLEEP_WAKE_PIN = bits v 1 1 :=
    fld_plainIf_rw s (f := .PWR_SLEEP_WAKE_PIN) (g := ⟨1, 1, .rw, 0, 62, .any⟩) (by decide) (Reg.hasCopy_alone rfl) (Reg.hasCopy_alone rfl) (by decide) rfl rfl
      (hill _)
  have htime : u.fld .PWR_SLEEP_WAKE_TIME = bits v 2 2 :=
    fld_plainIf_rw s (f := .PWR_SLEEP_WAKE_TIME) (g := ⟨2, 2, .rw, 0, 62, .any⟩) (by decide) (Reg.hasCopy_alone rfl) (Reg.hasCopy_alone rfl) (by decide) rfl rfl
      (hill _)
  have hsource : (u.flag .PWR_SLEEP_WAKE_PIN || u.flag .PWR_SLEEP_WAKE_TIME) = true := by
    rw [flag, flag, hpin, htime]
    simp only [bits] at hwake ⊢
    simp
    omega
  have hmode' : u.inMode [.standalone, .hosted, .listen, .hold] = true := by
    unfold inMode
    rw [honly.regs.fld (f := .SYS_MODE_MODE) (Reg.hasCopy_alone rfl) (by decide)]
    exact hmode
  have hpar' : u.flag .PAR_CFG_EN = false := (honly.regs.flag (Reg.hasCopy_alone rfl) (by decide)).trans hpar
  have hxchg' : ((List.range 16).any fun t => u.flag .CTL_TASK_CTRL_PENDING t) = false := by
    refine List.any_eq_false.mpr fun t ht => ?_
    have hlt : t < 16 := List.mem_range.mp ht
    rw [honly.regs.flag (f := .CTL_TASK_CTRL_PENDING) (Reg.hasCopy_row rfl hlt) (by decide), hxchg t hlt]
    decide
  have hgo : u.sleepRefused = false := by
    unfold sleepRefused
    rw [hmode', hpar', hxchg', hsource]
    rfl
  have hpage : s.rowWrite who .PWR_SLEEP v = s.sleepWrite who.mid v := rowWrite_single rfl h v
  have hwrite : s.sleepWrite who.mid v = u.retain := by
    unfold sleepWrite
    rw [if_neg (by simp [henter, hmid])]
    exact if_neg (by simpa using hgo)
  dsimp only
  rw [hpage, hwrite, ← keepBanks_congr honly]
  exact retain_sys u

theorem wakeUp_wakes (s : Dev) (cause : Nat) : (s.wakeUp cause).sys.retention = false ∧ (s.wakeUp cause).sys.resume = true := by
  unfold wakeUp
  rw [modeUpdate_sys]
  exact ⟨rfl, rfl⟩

theorem wakePin_wakes (hret : s.sys.retention = true) (hpin : s.flag .PWR_SLEEP_WAKE_PIN = true) : s.wakePin = s.wakeUp 1 := by
  unfold wakePin
  rw [if_pos (by simp [hret, hpin])]

theorem wakeTime_wakes (hret : s.sys.retention = true) (htime : s.flag .PWR_SLEEP_WAKE_TIME = true) (hwraps : s.fld .PWR_WAKE_WRAPS_WRAPS ≤ s.sys.wraps)
    (hat : reached (s.reg .PWR_WAKE_AT) (tbNs (s.tbVal (s.fld .PWR_SLEEP_WAKE_TB))) = true) : s.wakeTime = s.wakeUp 2 := by
  unfold wakeTime
  rw [if_pos (by simp [hret, htime, hwraps, hat])]

theorem bootPhase0_powers (s : Dev) : s.bootPhase0.sys.fabOn = true ∧ s.bootPhase0.sys.patOn = true := by
  unfold bootPhase0
  extract_lets on booted shown
  have hshown : shown.sys = on.sys := rfl
  split
  · unfold lockedAtBoot
    rw [modeUpdate_sys]
    exact ⟨rfl, rfl⟩
  · rw [modeUpdate_sys]
    exact ⟨rfl, rfl⟩

theorem resumeBoot_powers (hresume : s.sys.resume = true) (hoff : s.sys.fabOn = false) : s.resumeBoot.sys.fabOn = true ∧ s.resumeBoot.sys.patOn = true := by
  unfold resumeBoot
  rw [if_neg (by simp [hresume, hoff])]
  exact bootPhase0_powers _

/-! ### The event log (R476) -/

theorem eventLog_idle (h : s.patrolRuns = false) (source code : Nat) (data : List Nat) : s.eventLog source code data = s := by
  unfold eventLog
  rw [h, if_neg (by decide)]

/-- The words of a record: time, source and code, number, thirteen words of data. -/
def recordWords (s : Dev) (source code seq : Nat) (data : List Nat) : List Nat :=
  [tbNs (s.tbVal 0), tbFrac (s.tbVal 0) + source * 2 ^ 8 + code * 2 ^ 16, seq % 2 ^ 32] ++ (data ++ List.replicate (13 - data.length) 0).take 13

theorem recordWords_length (s : Dev) (source code seq : Nat) (data : List Nat) : (s.recordWords source code seq data).length = 16 := by
  simp [recordWords]
  omega

/-- A record that is not the first of a boot. -/
theorem eventLog_record (hrun : s.patrolRuns = true) {h a : Nat} (hlog : s.partAddr 5 0 = some h) (hseq : s.host.logSeq ≠ 0) {source code : Nat}
    (hsource : source < 256) (hcode : code < 65536) (data : List Nat) : let cap := (s.partBanks 5).length * 0x2000 - 1
    let m := s.physRead 0x40 h 4
    let wr := leVal m.1.data % cap
    m.2.partAddr 5 (64 + 64 * wr) = some a →
    let e := (m.2.physWrite 0x40 a (wordBytes (m.2.recordWords source code s.host.logSeq data))).physWrite 0x40 h (leBytes 4 ((wr + 1) % cap))
    s.eventLog source code data = { e with host := { e.host with logSeq := e.host.logSeq + 1 } } := by
  intro cap m wr hslot e
  have hnum : m.2.host.logSeq = s.host.logSeq := by rw [(physRead_frame s 0x40 h 4).1]
  have hgo : s.eventLog source code data = s.logRecord source code data := if_pos hrun
  rw [hgo]
  unfold logRecord
  rw [hlog]
  dsimp only
  rw [if_neg hseq, if_neg hseq, show (s.physRead 0x40 h 4).2.partAddr 5 (64 + 64 * (leVal (s.physRead 0x40 h 4).1.data % ((s.partBanks 5).length * 0x2000 - 1))) =
    some a from hslot, Nat.mod_eq_of_lt hsource, Nat.mod_eq_of_lt hcode, hnum]
  rfl

end Dev

end Sys2Proof.Machine
end

section
/-! The rows of Patrol, modes and power: each command runs its operation, and the obligation. -/

namespace Sys2Proof.Machine

section
variable (who : Agent) (s : State)

theorem exec_lockstepMismatch_eq (fetch : Bool) : exec (.lockstepMismatch fetch) s = .next (s.withDev (s.dev.lockstep fetch)) := rfl

theorem exec_watchdogKick_eq (v : Word) : exec (.watchdogKick who v) s = .next (s.withDev (s.dev.rowWrite who .PAT_WDOG_KICK v.toNat)) := rfl

theorem exec_watchdogExpiry_eq : exec .watchdogExpiry s = .next (s.withDev s.dev.watchdogExpiry) := rfl

theorem exec_loadWindowEnd_eq (busy : Fin 101) : exec (.loadWindowEnd busy) s = .next (s.withDev (s.dev.loadWindow busy)) := rfl

theorem exec_patrolQueuePush_eq (v : Word) : exec (.patrolQueuePush who v) s = .next (s.withDev (s.dev.rowWrite who .PAT_SQ_PUSH v.toNat 7)) := rfl

theorem exec_holdEntry_eq : exec (.holdEntry who) s =
    .next (s.withDev (s.dev.rowWrite who .SYS_MODE_CTRL (s.dev.reg .SYS_MODE_CTRL ||| 1))) := rfl

theorem exec_holdExit_eq : exec (.holdExit who) s =
    .next (s.withDev (s.dev.rowWrite who .SYS_MODE_CTRL (putBit (s.dev.reg .SYS_MODE_CTRL) 0 false))) := rfl

theorem exec_fwx_eq (on : Bool) : exec (.fwx who on) s =
    .next (s.withDev (s.dev.rowWrite who .SYS_MODE_CTRL (putBit (s.dev.reg .SYS_MODE_CTRL) 1 on))) := rfl

theorem exec_domainRequest_eq (v : Word) : exec (.domainRequest who v) s = .next (s.withDev (s.dev.rowWrite who .PWR_DOM_CTRL v.toNat)) := rfl

theorem exec_domainSwitchDone_eq (fails : BitVec 8) : exec (.domainSwitchDone fails) s = .next (s.withDev (s.dev.domSwitchDone fails.toNat)) := rfl

theorem exec_retentionEntry_eq (v : Word) : exec (.retentionEntry who v) s = .next (s.withDev (s.dev.rowWrite who .PWR_SLEEP v.toNat)) := rfl

theorem exec_wakePin_eq : exec .wakePin s = .next (s.withDev s.dev.wakePin) := rfl

theorem exec_wakeTime_eq : exec .wakeTime s = .next (s.withDev s.dev.wakeTime) := rfl

theorem exec_resumeBoot_eq : exec .resumeBoot s = .next (s.withDev s.dev.resumeBoot) := rfl

theorem exec_eventLogRecord_eq (source : BitVec 8) (code : BitVec 16) (data : List Word) : exec (.eventLogRecord source code data) s =
    .next (s.withDev (s.dev.eventLog source.toNat code.toNat (data.map BitVec.toNat))) := rfl

end

/-- Settles O58: a WDOG reset leaves nothing running; a mode shown under HOLD is one of the held ones; a domain's change keeps the request's registers. -/
theorem patrolRowsComplete : Obligations.PatrolRowsComplete := by
  intro s d out next up resets
  have hnext {i : Instr} {e : Dev} {p : Dev → Prop} (hexec : exec i s = .next (s.withDev e)) (he : p e) : next i p :=
    ⟨s.withDev e, hexec, s.withDev_pending e, he⟩
  have hresets {i : Instr} {e : Dev} {cause : Nat} (hexec : exec i s = .next (s.withDev e)) (he : e.Reset cause) : resets i cause :=
    ⟨s.withDev e, hexec, s.withDev_pending e, he.run, he.shown, he.mem, he.hold, he.idle, he.keys⟩
  clear_value next resets
  refine ⟨fun hpat hrun hopen => ⟨?mismatch, ?fetch, fun hen hleft => ?expiry⟩, fun hidle => ?idle, fun who v hreach => ?kick, fun busy hpat => ?load,
    fun who v hreach => ?push, fun who on hreach hmid => ?mode, fun who b on hreach hb hold hbit hfree hlegal hhost => ?request,
    fun b on fails hreq hb => ?done, fun who v hreach hmid henter hwake hmode hpar hxchg => ?sleep, fun hret => ⟨fun hpin => ?pin, fun htime hwraps hat => ?time⟩,
    fun hresume hoff => ?resume, fun source code data => ?log⟩
  case mismatch => exact hresets (exec_lockstepMismatch_eq s false) (Dev.lockstep_resets hpat hrun hopen false)
  case fetch => exact hresets (exec_lockstepMismatch_eq s true) (Dev.lockstep_resets hpat hrun hopen true)
  case expiry => exact hresets (exec_watchdogExpiry_eq s) (Dev.watchdogExpiry_resets hpat hrun hopen hen hleft)
  case idle => exact (exec_watchdogExpiry_eq s).trans (next_congr (Dev.watchdogExpiry_idle hidle))
  case kick =>
    have hexec := exec_watchdogKick_eq who s v
    refine ⟨fun hv hen => ?_, fun hv hen => ?_, fun hv => ?_⟩
    · subst hv
      exact hnext hexec (Dev.rowWrite_kick_restarts hreach hen)
    · subst hv
      exact hexec.trans (next_congr (Dev.rowWrite_kick_idle hreach hen))
    · exact hnext hexec (Dev.rowWrite_kick_bad hreach fun h => hv (BitVec.eq_of_toNat_eq h))
  case load => exact hnext (exec_loadWindowEnd_eq s busy) (Dev.loadWindow_does hpat busy.isLt)
  case push =>
    intro m q
    have hexec := (exec_patrolQueuePush_eq who s v).trans (next_congr (Dev.rowWrite_patPush hreach v.toNat))
    dsimp only at hexec
    split
    · next hlegal =>
      obtain ⟨hroom, hpin, hfw, hmid⟩ := hlegal
      have hpin' : (d.patCommitted who v.toNat).1.pinned = false := hpin
      rw [if_neg (by simp [Nat.not_le.mpr hroom, hpin', show (d.patCommitted who v.toNat).1.fwid = 15 from hfw, hmid])] at hexec
      obtain ⟨hq, hempty⟩ := Dev.patPush_enters (d.patCommitted who v.toNat).2 m.1 d.eng.patQ.isEmpty (List.range 256)
      refine hnext hexec ⟨hq, fun hnone c hc => hempty ?_ c (List.mem_range.mpr hc)⟩
      exact List.isEmpty_iff.mpr (List.map_eq_nil_iff.mp hnone)
    · next hill =>
      rw [if_pos] at hexec
      · exact hexec
      · by_contra hno
        simp only [not_or, not_not] at hno
        obtain ⟨hroom, hpin, hfw, hmid⟩ := hno
        exact hill ⟨Nat.lt_of_not_le hroom, Bool.eq_false_iff.mpr hpin, hfw, hmid⟩
  case mode =>
    exact ⟨hnext (exec_holdEntry_eq who s) (Dev.rowWrite_holdEntry hreach hmid),
      fun hkept => hnext (exec_holdExit_eq who s) (Dev.rowWrite_holdExit hreach hmid hkept),
      hnext (exec_fwx_eq who s on) (Dev.rowWrite_fwx hreach hmid on)⟩
  case request => exact hnext (exec_domainRequest_eq who s _) (Dev.rowWrite_domRequest hreach hb hold hbit hfree hlegal hhost)
  case done => exact hnext (exec_domainSwitchDone_eq s fails) (Dev.domSwitchDone_does hb hreq fails.toNat)
  case sleep => exact hnext (exec_retentionEntry_eq who s v) (Dev.sleepWrite_retains hreach hmid henter hwake hmode hpar hxchg)
  case pin => exact hnext ((exec_wakePin_eq s).trans (next_congr (Dev.wakePin_wakes hret hpin))) (Dev.wakeUp_wakes d 1)
  case time => exact hnext ((exec_wakeTime_eq s).trans (next_congr (Dev.wakeTime_wakes hret htime hwraps hat))) (Dev.wakeUp_wakes d 2)
  case resume => exact hnext (exec_resumeBoot_eq s) (Dev.resumeBoot_powers hresume hoff)
  case log =>
    have hexec := exec_eventLogRecord_eq s source code data
    refine ⟨fun hstill => hexec.trans (next_congr (Dev.eventLog_idle hstill ..)), fun h a hrun hlog hseq => ?_⟩
    intro cap m wr v hslot words e
    refine ⟨?_, ?_⟩
    · have hlen := Dev.recordWords_length m.2 source.toNat code.toNat d.host.logSeq (data.map BitVec.toNat)
      rwa [Dev.recordWords, List.length_map] at hlen
    · have hrecord := Dev.eventLog_record hrun hlog hseq source.isLt code.isLt (data.map BitVec.toNat) hslot
      rw [Dev.recordWords, List.length_map] at hrecord
      exact hexec.trans (next_congr hrecord)

end Sys2Proof.Machine
end

section
/-! O59: accesses of the host over PCI Express and SPI, and the link (R478, R480, R484, R521). -/

namespace Sys2Proof.Machine

namespace Dev

variable {s : Dev} {a n v : Nat}

theorem hostRead_denied (h : s.hostMay a false = false) : s.hostRead a = (true, ⟨leBytes 4 0, false⟩, s.count .SYS_DENY_CNT) := by
  simp [Dev.hostRead, h]

theorem hostWrite_denied {v : Word} (h : s.hostMay a true = false) : s.hostWrite a v = s.count .SYS_DENY_CNT := by
  simp [Dev.hostWrite, h]

/-! ### PCI Express -/

theorem pcieRead_down (h : s.pcieUp = false) : s.pcieRead a n = s := by simp [Dev.pcieRead, h]

theorem pcieRead_misaligned (h : s.pcieUp = true) (ha : a % 4 ≠ 0) :
    s.pcieRead a n = (s.misuse .HST).updHost fun h => { h with pcieData := List.replicate n 0#32, pcieEP := false } := by
  simp [Dev.pcieRead, h, ha]

theorem pcieRead_completes (h : s.pcieUp = true) (ha : a % 4 = 0) (hue : (s.hostReads n a).2.1 = false) :
    s.pcieRead a n = (s.hostReads n a).2.2.updHost fun h => { h with pcieData := (s.hostReads n a).1, pcieEP := false } := by
  simp [Dev.pcieRead, h, ha, hue]

theorem pcieRead_poisoned (h : s.pcieUp = true) (ha : a % 4 = 0) (hue : (s.hostReads n a).2.1 = true) :
    s.pcieRead a n = ((s.hostReads n a).2.2.count .HST_UE_CNT).updHost fun h => { h with pcieData := List.replicate n 0#32, pcieEP := true } := by
  simp [Dev.pcieRead, h, ha, hue]

theorem pcieWrite_eq (l : List Word) : s.pcieWrite a l =
    if s.pcieUp = false then s else if a % 4 ≠ 0 then s.misuse .HST else s.hostWrites l a := by
  cases h : s.pcieUp <;> simp [Dev.pcieWrite, h]

/-! ### SPI -/

theorem spiWrite_down {l : List Word} {how : SpiEnd} (h : s.spiUp = false) : s.spiWrite a l how = s := by simp [Dev.spiWrite, h]

theorem spiWrite_unknown {l : List Word} (h : s.spiUp = true) : s.spiWrite a l .unknown = s.count .HST_SPI_FRAME_CNT := by
  simp [Dev.spiWrite, h]

theorem spiWrite_whole {l : List Word} (h : s.spiUp = true) :
    s.spiWrite a l .whole = if a % 4 ≠ 0 then s.misuse .HST else s.hostWrites l a := by
  simp [Dev.spiWrite, h]

theorem spiWrite_cut {l : List Word} (h : s.spiUp = true) (ha : a % 4 = 0) :
    s.spiWrite a l .cut = (s.hostWrites l.dropLast a).count .HST_SPI_FRAME_CNT := by
  simp [Dev.spiWrite, h, ha]

theorem spiRead_down {late : Bool} (h : s.spiUp = false) : s.spiRead a n late = s := by simp [Dev.spiRead, h]

theorem spiRead_misaligned {late : Bool} (h : s.spiUp = true) (ha : a % 4 ≠ 0) :
    s.spiRead a n late = (s.misuse .HST).spiAnswer 1 (List.replicate n 0#32) := by
  simp [Dev.spiRead, h, ha]

theorem spiRead_late (h : s.spiUp = true) (ha : a % 4 = 0) :
    s.spiRead a n true = (s.count .HST_SPI_NOTREADY_CNT).spiAnswer 2 (List.replicate n 0#32) := by
  simp [Dev.spiRead, h, ha]

theorem spiRead_bad (h : s.spiUp = true) (ha : a % 4 = 0) (hbad : ((s.spiActive true).hostRead a).1 = true) :
    s.spiRead a n false = ((s.spiActive true).hostRead a).2.2.spiAnswer 1 (List.replicate n 0#32) := by
  simp [Dev.spiRead, h, ha, hbad]

theorem spiRead_answers (h : s.spiUp = true) (ha : a % 4 = 0) (hgood : ((s.spiActive true).hostRead a).1 = false) :
    let r := (s.spiActive true).hostRead a
    let m := r.2.2.hostReads n (a + 4)
    let l := (if r.2.1.ue then 0#32 else word (leVal r.2.1.data)) :: m.1
    s.spiRead a (n + 1) false = if r.2.1.ue || m.2.1 then (m.2.2.count .HST_UE_CNT).spiAnswer 3 l else m.2.2.spiAnswer 0 l := by
  simp [Dev.spiRead, h, ha, hgood]

/-- The answer of an SPI read stands, beside the registers of the host block alone. -/
theorem spiAnswer_counted (s : Dev) (st : Nat) (l : List Word) :
    let e := (s.count .HST_SPI_NOTREADY_CNT).spiAnswer st l
    e.reg .HST_SPI_NOTREADY_CNT = min (s.reg .HST_SPI_NOTREADY_CNT + 1) 0xFFFFFFFF ∧ e.host.spiStatus = st ∧ e.host.spiData = l := by
  refine ⟨?_, rfl, rfl⟩
  have hreg := reg_setFld_of_apart ((s.count .HST_SPI_NOTREADY_CNT).updHost fun h => { h with spiStatus := st, spiData := l })
    (q := .HST_SPI_NOTREADY_CNT) (a := 0) (b := 0) (c := 0) (f := .HST_STATUS_SPI_ACTIVE) (i := 0) (j := 0) (k := 0)
    (Reg.hasCopy_alone rfl) (Reg.hasCopy_alone rfl) (by decide) (b2n false)
  exact hreg.trans (s.reg_count_same ..)

/-! ### The link -/

theorem pcieLink_up {width speed : Nat} (hon : s.domOn .hst = true) (hdown : s.flag .HST_STATUS_LINK_UP = false) (hen : s.flag .HST_CFG_PCIE_EN = true)
    (hfree : s.host.perst = false) (hwidth : width < 4) (hspeed : speed < 4) : let e := s.pcieLink true width speed
    e.flag .HST_STATUS_LINK_UP = true ∧ e.fld .HST_STATUS_WIDTH = width ∧ e.fld .HST_STATUS_SPEED = speed := by
  have hlink : s.pcieLink true width speed =
      ((s.setFld .HST_STATUS_LINK_UP (b2n true)).setFld .HST_STATUS_WIDTH width).setFld .HST_STATUS_SPEED speed := by
    simp [Dev.pcieLink, hon, hdown, hen, hfree, Dev.setFlag]
  rw [hlink]
  refine ⟨?_, ?_, ?_⟩
  · simp +decide
  · rw [fld_setFld_of_beside _ (by decide) (by decide) (by decide), fld_setFld_of_fits _ (by decide) hwidth]
  · exact fld_setFld_of_fits _ (by decide) hspeed

theorem pcieLink_lost {width speed : Nat} (hon : s.domOn .hst = true) (hup : s.flag .HST_STATUS_LINK_UP = true) :
    let e := s.pcieLink false width speed
    e.flag .HST_STATUS_LINK_UP = false ∧ e.reg .HST_LINK_DOWN_CNT = min (s.reg .HST_LINK_DOWN_CNT + 1) 0xFFFFFFFF := by
  have hlink : s.pcieLink false width speed =
      (((s.setFld .HST_STATUS_LINK_UP (b2n false)).setFld .HST_STATUS_WIDTH 0).setFld .HST_STATUS_SPEED 0).count .HST_LINK_DOWN_CNT := by
    simp [Dev.pcieLink, hon, hup, Dev.setFlag]
  rw [hlink]
  refine ⟨?_, ?_⟩
  · simp +decide [count, Reg.hasCopy_alone]
  · exact (reg_count_same ..).trans (by simp +decide [Reg.hasCopy_alone])

theorem pcieLink_down_of_on {width speed : Nat} (hon : s.domOn .hst = true) : (s.pcieLink false width speed).flag .HST_STATUS_LINK_UP = false := by
  cases hup : s.flag .HST_STATUS_LINK_UP
  · rw [Dev.pcieLink, if_pos (by simp [hup])]
    exact hup
  · exact (pcieLink_lost hon hup).1

end Dev

end Sys2Proof.Machine
end

section
/-! O59: a request of the host waits in its mailbox, is taken and answered (R481, R482). The block that it names and its parts are given by name, so
that each request row is a case of `Dev.hostServe`. -/

namespace Sys2Proof.Machine

namespace Dev

/-! ### The request that waits -/

section
variable (s : Dev)

def reqBox : Nat := s.fld .HST_CFG_REQ_MBOX
def reqCtx : Nat := s.fld .MBX_CFG_RECV_CTX s.reqBox
def reqHigh : Nat := s.reg .MBX_NOTICE_HIGH s.reqBox
def reqPtr : Nat := s.reg .MBX_NOTICE_LOW s.reqBox + bits s.reqHigh 7 0 * 2 ^ 32
def reqLen : Nat := bits s.reqHigh 23 8
def reqTag : Nat := bits s.reqHigh 31 24
def reqBlock : Nat := max 16 (64 * s.reqLen)
def reqCode : Nat := s.view s.reqPtr 4 % 65536
def reqRoom : Nat := min (s.view (s.reqPtr + 8) 4) (s.reqBlock - 16)

/-- The block lies where the host may have it served. -/
def reqInside : Prop := s.windowRW s.reqPtr s.reqBlock = true ∨ s.inMode [.provisioning] = true

/-- The mailbox is read by Patrol: the notice is taken. -/
def reqTaken : Dev := (((s.mbxReadLow s.reqBox 0x40 s.reqCtx).2).mbxReadHigh s.reqBox 0x40 s.reqCtx).2

/-- Patrol reads the header of the block. -/
def reqHeader : RdRes × Dev := s.reqTaken.physRead 0x40 s.reqPtr 12

/-- The header reads without an uncorrectable error, and the block holds the payload that it gives. -/
def ReqWhole : Prop := s.reqHeader.1.ue = false ∧ s.view (s.reqPtr + 8) 4 + 16 ≤ s.reqBlock

/-- The answer to the request, with the result words of its code. -/
def reqAnswer (e : Dev) (st : Nat) (l : List Nat) : Dev := e.hostAnswer s.reqPtr s.reqLen s.reqTag s.reqRoom st (Config.hostResult s.reqCode l)

/-- A request waits for Patrol, which runs, and the mailbox of the answers is empty. -/
structure ReqWaits : Prop where
  runs : s.patrolRuns = true
  full : s.flag .MBX_STATUS_FULL s.reqBox = true
  mine : s.fld .MBX_CFG_RECV_MID s.reqBox = 0x40
  empty : s.flag .MBX_STATUS_FULL (s.fld .HST_CFG_RSP_MBOX) = false

end

variable {s : Dev} {code : Nat} {serve : Dev → (Nat × List Nat) × Dev} {after : Dev → Dev}

theorem hostServe_eq : s.hostServe code serve after =
    if !s.patrolRuns || !s.flag .MBX_STATUS_FULL s.reqBox || s.fld .MBX_CFG_RECV_MID s.reqBox != 0x40
      || s.flag .MBX_STATUS_FULL (s.fld .HST_CFG_RSP_MBOX) then s
    else if (s.windowRW s.reqPtr s.reqBlock || s.inMode [.provisioning]) && s.reqCode != code && hostCodes.contains s.reqCode then s
    else if !(s.windowRW s.reqPtr s.reqBlock || s.inMode [.provisioning]) then
      if s.reqTaken.window (s.reqPtr + 12) 1 && s.reqTaken.window (s.reqPtr + 15) 1 then s.reqTaken.hostAnswer s.reqPtr s.reqLen s.reqTag 0 stBad []
      else s.reqTaken.patrolPost (s.reqTaken.fld .HST_CFG_RSP_MBOX) s.reqPtr s.reqLen s.reqTag
    else if s.reqHeader.1.ue || !decide (s.view (s.reqPtr + 8) 4 + 16 ≤ s.reqBlock) then s.reqHeader.2.hostAnswer s.reqPtr s.reqLen s.reqTag 0 stBad []
    else if s.reqCode ≠ code then s.reqHeader.2.hostAnswer s.reqPtr s.reqLen s.reqTag 0 stUnknown []
    else after ((serve s.reqHeader.2).2.hostAnswer s.reqPtr s.reqLen s.reqTag s.reqRoom (serve s.reqHeader.2).1.1
      (Config.hostResult code (serve s.reqHeader.2).1.2)) := by
  unfold Dev.hostServe
  extract_lets m ctx hi ptr len tag block inside c payload full read taken
  subst full
  obtain ⟨hm, hctx, hhi⟩ : m = s.reqBox ∧ ctx = s.reqCtx ∧ hi = s.reqHigh := ⟨rfl, rfl, rfl⟩
  obtain ⟨hptr, hlen, htag⟩ : ptr = s.reqPtr ∧ len = s.reqLen ∧ tag = s.reqTag := ⟨rfl, rfl, rfl⟩
  obtain ⟨hblock, hc, hpayload⟩ : block = s.reqBlock ∧ c = s.reqCode ∧ payload = s.reqRoom := ⟨rfl, rfl, rfl⟩
  obtain ⟨hinside, htaken⟩ : inside = (s.windowRW s.reqPtr s.reqBlock || s.inMode [.provisioning]) ∧ taken = s.reqTaken := ⟨rfl, rfl⟩
  clear_value m ctx hi ptr len tag block inside c payload read taken
  subst hm hctx hhi hptr hlen htag hblock hc hpayload hinside htaken
  rcases hheader : s.reqHeader with ⟨r, e⟩
  rcases hserve : serve e with ⟨⟨st, l⟩, t⟩
  have hread : s.reqTaken.physRead 0x40 s.reqPtr 12 = (r, e) := hheader
  rw [hread]
  dsimp only
  rw [hserve]

theorem hostServe_idle (h : ¬s.ReqWaits) : s.hostServe code serve after = s := by
  rw [hostServe_eq, if_pos]
  by_contra hno
  simp only [Bool.or_eq_true, Bool.not_eq_true', bne_iff_ne, not_or, Bool.not_eq_false, not_not, Bool.not_eq_true] at hno
  obtain ⟨⟨⟨hruns, hfull⟩, hmine⟩, hempty⟩ := hno
  exact h ⟨hruns, hfull, hmine, hempty⟩

section
variable (h : s.ReqWaits)
include h

theorem ReqWaits.gate : ¬((!s.patrolRuns || !s.flag .MBX_STATUS_FULL s.reqBox || s.fld .MBX_CFG_RECV_MID s.reqBox != 0x40
    || s.flag .MBX_STATUS_FULL (s.fld .HST_CFG_RSP_MBOX)) = true) := by
  simp [h.runs, h.full, h.mine, h.empty]

/-! ### What stays when the notice is taken -/

/-- Patrol is the receiver. -/
theorem ReqWaits.receives : s.isReceiver s.reqBox 0x40 s.reqCtx = true := by simp [Dev.isReceiver, h.mine, reqCtx]

theorem ReqWaits.taken_eq : s.reqTaken =
    (((s.mbxSnap s.reqBox (.notice 0x40 s.reqCtx)).setFlag .MBX_STATUS_FULL false s.reqBox).mbxSnap s.reqBox .none).takenRing s.reqBox := by
  have hread : (s.mbxReadLow s.reqBox 0x40 s.reqCtx).2 = s.mbxSnap s.reqBox (.notice 0x40 s.reqCtx) := by
    rw [mbxReadLow_full h.receives h.full]
  have hrecv : (s.mbxSnap s.reqBox (.notice 0x40 s.reqCtx)).isReceiver s.reqBox 0x40 s.reqCtx = true := h.receives
  have hsnap : (s.mbxSnap s.reqBox (.notice 0x40 s.reqCtx)).mbx.snap.get s.reqBox = .notice 0x40 s.reqCtx :=
    Tab.get_set_same s.mbx.snap s.reqBox (.notice 0x40 s.reqCtx)
  rw [reqTaken, hread, mbxReadHigh_snapshot hrecv hsnap]

theorem ReqWaits.taken_boot : s.reqTaken.boot = s.boot := by
  rw [h.taken_eq, takenRing, Dev.when]
  split
  · rw [ringMask_frame]; rfl
  · rfl

theorem ReqWaits.taken_answerBox : s.reqTaken.fld .HST_CFG_RSP_MBOX = s.fld .HST_CFG_RSP_MBOX := by
  have hbox : s.reqBox < 256 := bits_lt _ 15 8
  have hsnap : RegsBut (.MBX_STATUS :: bellRegs) s (s.mbxSnap s.reqBox (.notice 0x40 s.reqCtx)) := .of_regs rfl
  have hset := hsnap.setFlag (f := .MBX_STATUS_FULL) (b := false) (Reg.hasCopy_mbxStatus hbox) List.mem_cons_self
  have htarget (t : Dev) : t.fld .MBX_CFG_TKN_TARGET s.reqBox < 32 := bits_lt _ 14 10
  have htaken : RegsBut (.MBX_STATUS :: bellRegs) s s.reqTaken := by
    rw [h.taken_eq]
    exact when_keeps (P := RegsBut _ s) (fun t ht => ht.ringMask (htarget _) (List.subset_cons_self ..)) _ (hset.trans (.of_regs rfl))
  exact htaken.fld (Reg.hasCopy_alone rfl) (by decide)

/-! ### How a request is answered -/

theorem ReqWaits.serve_outside (hout : ¬s.reqInside) : s.hostServe code serve after =
    if s.window (s.reqPtr + 12) 1 && s.window (s.reqPtr + 15) 1 then s.reqTaken.hostAnswer s.reqPtr s.reqLen s.reqTag 0 3 []
    else s.reqTaken.patrolPost (s.fld .HST_CFG_RSP_MBOX) s.reqPtr s.reqLen s.reqTag := by
  have hin : (s.windowRW s.reqPtr s.reqBlock || s.inMode [.provisioning]) = false := by
    simpa [reqInside] using hout
  have hwindow (a r : Nat) : s.reqTaken.window a r = s.window a r := by rw [Dev.window, Dev.window, h.taken_boot]
  rw [hostServe_eq, if_neg h.gate, hin, if_neg (by simp), if_pos Bool.not_false, hwindow, hwindow, h.taken_answerBox]
  rfl

section
variable (hin : s.reqInside)
include hin

theorem ReqWaits.serve_inside (hcode : s.reqCode = code ∨ s.reqCode ∉ hostCodes) : s.hostServe code serve after =
    if s.reqHeader.1.ue || !decide (s.view (s.reqPtr + 8) 4 + 16 ≤ s.reqBlock) then s.reqHeader.2.hostAnswer s.reqPtr s.reqLen s.reqTag 0 stBad []
    else if s.reqCode ≠ code then s.reqHeader.2.hostAnswer s.reqPtr s.reqLen s.reqTag 0 stUnknown []
    else after ((serve s.reqHeader.2).2.hostAnswer s.reqPtr s.reqLen s.reqTag s.reqRoom (serve s.reqHeader.2).1.1
      (Config.hostResult code (serve s.reqHeader.2).1.2)) := by
  have hin' : (s.windowRW s.reqPtr s.reqBlock || s.inMode [.provisioning]) = true := by
    simpa [reqInside] using hin
  have hmine : ¬((s.reqCode != code && hostCodes.contains s.reqCode) = true) := by
    rcases hcode with heq | hnot
    · simp [heq]
    · simp [hnot]
  rw [hostServe_eq, if_neg h.gate, hin', if_neg (by simpa using hmine), if_neg (by simp)]

theorem ReqWaits.serve_bad (hbad : ¬s.ReqWhole) (hcode : s.reqCode = code) :
    s.hostServe code serve after = s.reqHeader.2.hostAnswer s.reqPtr s.reqLen s.reqTag 0 3 [] := by
  rw [h.serve_inside hin (.inl hcode), if_pos]
  · rfl
  · by_contra hno
    simp only [Bool.or_eq_true, Bool.not_eq_true', decide_eq_false_iff_not, not_or, Bool.not_eq_true, not_not] at hno
    exact hbad hno

section
variable (hwhole : s.ReqWhole)
include hwhole

omit h hin in
theorem ReqWhole.gate : ¬((s.reqHeader.1.ue || !decide (s.view (s.reqPtr + 8) 4 + 16 ≤ s.reqBlock)) = true) := by
  obtain ⟨hue, hfit⟩ := hwhole
  simp [hue, hfit]

theorem ReqWaits.serve_unknown (hcode : s.reqCode ∉ hostCodes) (hknown : code ∈ hostCodes) :
    s.hostServe code serve after = s.reqHeader.2.hostAnswer s.reqPtr s.reqLen s.reqTag 0 4 [] := by
  have hne : s.reqCode ≠ code := fun heq => hcode (heq ▸ hknown)
  rw [h.serve_inside hin (.inr hcode), if_neg hwhole.gate, if_pos hne]
  rfl

theorem ReqWaits.serve_known (hcode : s.reqCode = code) :
    s.hostServe code serve after = after (s.reqAnswer (serve s.reqHeader.2).2 (serve s.reqHeader.2).1.1 (serve s.reqHeader.2).1.2) := by
  rw [h.serve_inside hin (.inl hcode), if_neg hwhole.gate, if_neg (not_not.mpr hcode), reqAnswer, hcode]

end

end

end

end Dev

end Sys2Proof.Machine
end

section
/-! O59: what each request does once Patrol serves it (R439, R440, R474, R482). -/

namespace Sys2Proof.Machine

/-! ### The counters of a block -/

theorem zero_mem_strideOffs {l : List (Nat × Nat)} (h : ∀ p ∈ l, 0 < p.2) : 0 ∈ strideOffs l := by
  induction l with
  | nil => exact List.mem_singleton_self 0
  | cons p t ih =>
    have htail := ih fun q hq => h q (List.mem_cons_of_mem _ hq)
    exact List.mem_flatMap.mpr ⟨0, List.mem_range.mpr (h p List.mem_cons_self), List.mem_map.mpr ⟨0, htail, by simp⟩⟩

theorem Reg.strides_pos : ∀ r : Reg, ∀ p ∈ r.info.strides, 0 < p.2 := Reg.of_regs fun b => by cases b <;> decide +kernel

theorem strideDist_zero (l : List (Nat × Nat)) : strideDist l [0, 0, 0] = 0 := by
  rcases l with _ | ⟨p, _ | ⟨q, _ | ⟨r, t⟩⟩⟩ <;> simp [strideDist]

theorem Reg.addr_zero (r : Reg) : r.addr 0 0 0 = r.info.off := by rw [Reg.addr_eq, strideDist_zero, Nat.add_zero]

namespace Dev

/-- The words that GET_COUNTERS answers with. -/
def counterWords (e : Dev) (b : Block) : List Nat :=
  (b.regs.filter fun r => r.info.fields.any fun f => f.acc == .cnt).flatMap fun r =>
    (strideOffs r.info.strides).map fun o => (e.regWord (r.info.off + o)).toNat

theorem reg_mem_counterWords (e : Dev) {b : Block} {r : Reg} (hr : r ∈ b.regs) (hcnt : ∃ f ∈ r.info.fields, f.acc = .cnt) :
    e.reg r ∈ e.counterWords b := by
  have hcounts : (r.info.fields.any fun f => f.acc == .cnt) = true := by
    obtain ⟨f, hf, hacc⟩ := hcnt
    exact List.any_eq_true.mpr ⟨f, hf, by rw [hacc]; rfl⟩
  refine List.mem_flatMap.mpr ⟨r, List.mem_filter.mpr ⟨hr, hcounts⟩, List.mem_map.mpr ⟨0, zero_mem_strideOffs r.strides_pos, ?_⟩⟩
  rw [Dev.reg, Reg.addr_zero, Nat.add_zero]

/-- A package whose signature and places pass has been decrypted. -/
theorem packageCause_clear {p : Image} {s : Dev} (h : s.packageCause p = 0) : ∃ x, p.clear s.vlt.kImg = some x := by
  cases hclear : p.clear s.vlt.kImg with
  | some x => exact ⟨x, rfl⟩
  | none =>
    rw [Dev.packageCause, hclear] at h
    split_ifs at h

/-! ### The rows of firmware wait for its stores -/

variable {s : Dev} {ge code : Nat} {f : Dev → Dev}

theorem signalRow_ready (h : (s.engine ge).stores = []) : s.signalRow ge f = f s := by simp [Dev.signalRow, h]

theorem signalRow_idle (h : (s.engine ge).stores = [] → f s = s) : s.signalRow ge f = s := by
  unfold Dev.signalRow
  split
  · next hempty => exact h (List.isEmpty_iff.mp hempty)
  · rfl

/-! ### A request of a code -/

/-- A request of the code waits, and Patrol serves it. -/
structure Served (s : Dev) (code : Nat) : Prop where
  waits : s.ReqWaits
  inside : s.reqInside
  whole : s.ReqWhole
  code : s.reqCode = code

theorem Served.serve (h : s.Served code) {serve : Dev → (Nat × List Nat) × Dev} {after : Dev → Dev} {e t : Dev} {st : Nat} {l : List Nat}
    (he : s.reqHeader.2 = e) (hserve : serve e = ((st, l), t)) : s.hostServe code serve after = after (s.reqAnswer t st l) := by
  rw [h.waits.serve_known h.inside h.whole h.code, he, hserve]

section
variable {e : Dev} (he : s.reqHeader.2 = e)
include he

theorem Served.info_busy (h : s.Served code) {words : Dev → List Nat} {reads : Dev → List (Nat × Nat)} (hbusy : 3 ≤ e.fld .PAT_LOAD_LEVEL) :
    s.hostInfo code words reads = s.reqAnswer e 1 [] :=
  h.serve he (if_pos hbusy)

theorem Served.info_answers (h : s.Served code) {words : Dev → List Nat} {reads : Dev → List (Nat × Nat)} (hidle : ¬3 ≤ e.fld .PAT_LOAD_LEVEL) :
    s.hostInfo code words reads = s.reqAnswer (e.each (reads e) fun p s => (s.physRead 0x40 p.1 p.2).2) 0 (words e) :=
  h.serve he (if_neg hidle)

theorem Served.getCounters_busy (h : s.Served 2) (b : Block) (hbusy : 3 ≤ e.fld .PAT_LOAD_LEVEL) : s.getCounters b = s.reqAnswer e 1 [] :=
  h.serve he (if_pos hbusy)

theorem Served.getCounters_answers (h : s.Served 2) (b : Block) (hidle : ¬3 ≤ e.fld .PAT_LOAD_LEVEL) :
    let e := if b = .SMF then e.crowdCount else e
    s.getCounters b = s.reqAnswer e 0 (e.counterWords b) :=
  h.serve he (if_neg hidle)

theorem Served.flashWrite_begins (h : s.Served 0x10) (hfree : e.host.flashBusy = false) : s.flashWrite false = s.reqAnswer
    (((e.updHost fun h => { h with flashBusy := true }).setFld .BOOT_XSPI_CFG_CS e.otherChip).setFlag .BOOT_STATUS_XBUSY true) 0 [] := by
  rw [Dev.flashWrite, if_neg Bool.false_ne_true]
  exact h.serve he (if_neg (by simp [hfree]))

theorem Served.flashWrite_refused (h : s.Served 0x10) (hbusy : e.host.flashBusy = true) : s.flashWrite false = s.reqAnswer e 2 [] := by
  rw [Dev.flashWrite, if_neg Bool.false_ne_true]
  exact h.serve he (if_pos hbusy)

theorem Served.flashVerify_eq (h : s.Served 0x11) (flash : Flash) : s.flashVerify flash = if e.host.flashBusy = true then s.reqAnswer e 2 []
    else s.reqAnswer (e.setFld .BOOT_XSPI_CFG_CS e.otherChip) 0 [e.imageCause flash.image] := by
  split
  · next hbusy => exact h.serve he (if_pos hbusy)
  · next hfree => exact h.serve he (if_neg hfree)

section
variable (h : s.Served 0x20) {p : Image} {bytes : List Byte} {at_ : Nat} {places : List Nat}
include h

theorem Served.exchangeTake_second (hold : e.host.package = true) : s.exchangeTake p bytes at_ places = s.reqAnswer e 2 [] :=
  h.serve he (if_pos hold)

variable (hfree : e.host.package = false) {q : Dev} (hput : e.partPut 7 (64 * at_) bytes = q)
include hfree hput

theorem Served.exchangeTake_rejected (hcause : q.packageCause p ≠ 0) : s.exchangeTake p bytes at_ places =
    s.reqAnswer (q.fresh.2.logRecord 0x40 q.fresh.1 [q.packageCause p]) 2 [q.packageCause p] := by
  subst hput
  refine h.serve he ((if_neg (by simp [hfree])).trans ?_)
  exact if_pos hcause

theorem Served.exchangeTake_placed (hcause : q.packageCause p = 0) {x : Image} (hclear : p.clear q.vlt.kImg = some x) :
    s.exchangeTake p bytes at_ places = s.reqAnswer ((q.each ((x.ofType tPregaef).zip places) fun y s => s.partPut 1 (64 * y.2) y.1.data).updHost
      fun h => { h with package := true, packageOk := true }) 0 [] := by
  subst hput
  refine h.serve he ((if_neg (by simp [hfree])).trans ?_)
  simp only [hcause, ne_eq, not_true_eq_false, if_false, hclear, Option.map_some, Option.getD_some, stOk]

end

theorem Served.exchangeArm_refused (h : s.Served 0x21) {l : List (Nat × Nat)} {at_ : Nat} (hno : e.host.packageOk = false) :
    s.exchangeArm l at_ = s.reqAnswer e 2 [] :=
  h.serve he (if_pos (by simp [hno]))

theorem Served.exchangeArm_arms (h : s.Served 0x21) {l : List (Nat × Nat)} {at_ : Nat} (hok : e.host.packageOk = true) :
    s.exchangeArm l at_ = s.reqAnswer ((e.each l fun p s => s.armTask p.1 p.2 at_).updHost fun h => { h with package := false, packageOk := false }) 0 [] :=
  h.serve he (if_neg (by simp [hok]))

section
variable (h : s.Served 0x30) {n : Nat}
include h

theorem Served.hostForce_output (hn : n % 2 = 1) (v : Option (List Byte)) : s.hostForce n v = s.reqAnswer e 2 [] :=
  h.serve he (if_pos (by simp [isOut, hn]))

theorem Served.hostForce_releases (hn : n % 2 = 0) : s.hostForce n none = s.reqAnswer (e.slotForce n 0x40 false) 0 [] :=
  h.serve he (if_neg (by simp [isOut, hn]))

theorem Served.hostForce_forces (hn : n % 2 = 0) (l : List Byte) : let o := e.fresh
    let w := o.2.physWrite 0x40 (o.2.copyAddr n 3) (slotBytes (o.1 % 2 ^ 40) (o.1 / 2 ^ 40 % 4) (l.take (o.2.pers.stations.get (n / 2)).inLen))
    s.hostForce n (some l) = s.reqAnswer ((if e.slotValid n = true then w else o.2).slotForce n 0x40 true) 0 [] :=
  h.serve he (if_neg (by simp [isOut, hn]))

end

section
variable (h : s.Served 0x40) {q : VltReq} {sig : Nat}
include h

theorem Served.provision_refused (hmode : e.inMode [.provisioning] = false) : s.provision q sig = s.reqAnswer e 2 [] :=
  h.serve he (if_pos (by simp [hmode]))

theorem Served.provision_answers (hmode : e.inMode [.provisioning] = true) : let t := e.provServed q sig
    s.provision q sig = s.reqAnswer t (if e.vlt.admits q sig = false ∨ e.vlt.refuses q = true then 2 else 0) [t.vlt.answer, t.vlt.nonce.getD 0] := by
  refine h.serve he ((if_neg (by simp [hmode])).trans ?_)
  simp only [Bool.or_eq_true, Bool.not_eq_true', stRefused, stOk]

end

theorem Served.hostReset_eq (h : s.Served 0x50) : s.hostReset = (s.reqAnswer e 0 []).softReset 0x40 0xA5C3 :=
  h.serve he rfl

end

end Dev

end Sys2Proof.Machine
end

section
/-! O59: the rows of the host. -/

namespace Sys2Proof.Machine

section
variable (s : State)

theorem exec_pcieRead_eq (a : BitVec 40) (n : Fin 1025) : exec (.pcieRead a n) s = .next (s.withDev (s.dev.pcieRead a.toNat (min n.val 128))) := rfl

theorem exec_pcieWrite_eq (a : BitVec 40) (l : List Word) : exec (.pcieWrite a l) s = .next (s.withDev (s.dev.pcieWrite a.toNat (l.take 64))) := rfl

theorem exec_pciePerst_eq (high : Bool) : exec (.pciePerst high) s = .next (s.withDev (s.dev.pciePerst high)) := rfl

theorem exec_pcieLinkChange_eq (up : Bool) (w v : Fin 4) : exec (.pcieLinkChange up w v) s =
    .next (s.withDev (s.dev.pcieLink up (max 1 (min 2 w.val)) (max 1 v.val))) := rfl

theorem exec_spiWrite_eq {l : List Word} (hl : l.length ≤ 64) (a : BitVec 40) (how : SpiEnd) :
    exec (.spiWrite a l how) s = .next (s.withDev (s.dev.spiWrite a.toNat l how)) :=
  (show exec (.spiWrite a l how) s = .next (s.withDev (s.dev.spiWrite a.toNat (l.take 64) how)) from rfl).trans (by rw [List.take_of_length_le hl])

theorem exec_spiRead_eq (a : BitVec 40) (n : Fin 64) (late : Bool) : exec (.spiRead a n late) s =
    .next (s.withDev (s.dev.spiRead a.toNat (n.val + 1) late)) := rfl

theorem exec_getInfo_eq : exec .getInfo s = .next (s.withDev (s.dev.signalRow 64 Dev.getInfo)) := rfl

theorem exec_getCounters_eq (b : Block) : exec (.getCounters b) s = .next (s.withDev (s.dev.signalRow 64 (Dev.getCounters b))) := rfl

theorem exec_readLog_eq (q : Word) : exec (.readLog q) s = .next (s.withDev (s.dev.signalRow 64 (Dev.readLog q.toNat))) := rfl

theorem exec_flashWrite_eq (done : Bool) : exec (.flashWrite done) s = .next (s.withDev (s.dev.signalRow 64 (Dev.flashWrite done))) := rfl

theorem exec_flashVerify_eq (flash : Flash) : exec (.flashVerify flash) s = .next (s.withDev (s.dev.signalRow 64 (Dev.flashVerify flash))) := rfl

theorem exec_exchangeLoad_eq (flash : Flash) (a : BitVec 21) (l : List (BitVec 21)) : exec (.exchangeLoad flash (a, l)) s =
    .next (s.withDev (s.dev.signalRow 64 (Dev.exchangeLoad flash a.toNat (l.map BitVec.toNat)))) := rfl

theorem exec_exchangeArm_eq (l : List (Fin 16 × BitVec 21)) (v : Word) : exec (.exchangeArm l v) s =
    .next (s.withDev (s.dev.signalRow 64 (Dev.exchangeArm (l.map fun p => (p.1.val, p.2.toNat)) v.toNat))) := rfl

theorem exec_force_eq (n : BitVec 13) (v : Option (List Byte)) : exec (.force n v) s =
    .next (s.withDev (s.dev.signalRow 64 (Dev.hostForce n.toNat v))) := rfl

theorem exec_provision_eq (q : VltReq) (g : BitVec 768) : exec (.provision q g) s =
    .next (s.withDev (s.dev.signalRow 64 (Dev.provision q g.toNat))) := rfl

theorem exec_reset_eq : exec .reset s = .next (s.withDev (s.dev.signalRow 64 Dev.hostReset)) := rfl

end

namespace Dev

theorem flashWrite_ends (s : Dev) : s.flashWrite true =
    if s.host.flashBusy = true then (s.updHost fun h => { h with flashBusy := false }).setFlag .BOOT_STATUS_XBUSY false else s := rfl

section
variable {s : Dev}

theorem getInfo_idle (h : ¬s.ReqWaits) : s.getInfo = s := by rw [Dev.getInfo, Dev.hostInfo, hostServe_idle h]

section
variable (h : s.ReqWaits)
include h

theorem ReqWaits.getInfo_outside (hout : ¬s.reqInside) : s.getInfo =
    if s.window (s.reqPtr + 12) 1 && s.window (s.reqPtr + 15) 1 then s.reqTaken.hostAnswer s.reqPtr s.reqLen s.reqTag 0 3 []
    else s.reqTaken.patrolPost (s.fld .HST_CFG_RSP_MBOX) s.reqPtr s.reqLen s.reqTag := by
  rw [Dev.getInfo, Dev.hostInfo, h.serve_outside hout]

variable (hin : s.reqInside) {e : Dev} (he : s.reqHeader.2 = e)
include hin he

theorem ReqWaits.getInfo_bad (hbad : ¬s.ReqWhole) (hcode : s.reqCode = 1) : s.getInfo = e.hostAnswer s.reqPtr s.reqLen s.reqTag 0 3 [] := by
  rw [Dev.getInfo, Dev.hostInfo, h.serve_bad hin hbad hcode, he]

theorem ReqWaits.getInfo_unknown (hwhole : s.ReqWhole) (hcode : s.reqCode ∉ hostCodes) :
    s.getInfo = e.hostAnswer s.reqPtr s.reqLen s.reqTag 0 4 [] := by
  rw [Dev.getInfo, Dev.hostInfo, h.serve_unknown hin hwhole hcode (by decide), he]

end

theorem Served.getInfo_answers (h : s.Served 1) {e : Dev} (he : s.reqHeader.2 = e) (hidle : ¬3 ≤ e.fld .PAT_LOAD_LEVEL) :
    s.getInfo = s.reqAnswer e 0 [e.reg .SYS_ID, e.reg .SYS_SERIAL_LOW, e.reg .SYS_SERIAL_HIGH, e.reg .SYS_MODE, e.reg .BOOT_STRAP, e.reg .BOOT_STATUS,
      e.reg .BOOT_CAUSE, e.reg .BOOT_TIME, e.reg .BOOT_CTRL, e.reg .BOOT_FAILOVER_CNT] := by
  rw [Dev.getInfo, h.info_answers he hidle]
  rfl

end

theorem pciePerst_low (s : Dev) : let e := s.pciePerst false
    e.host.perst = true ∧ (s.domOn .hst = true → e.flag .HST_STATUS_LINK_UP = false) :=
  ⟨rfl, fun hon => pcieLink_down_of_on (width := 0) (speed := 0) hon⟩

end Dev

/-- Settles O59: accesses and the link by the state of the port; a request by its code, once it waits, lies inside the windows and is whole. -/
theorem hostRowsComplete : Obligations.HostRowsComplete := by
  intro s d out next up pcieOn spiOn zeros
  have hnext {i : Instr} {e : Dev} {p : Dev → Prop} (hexec : exec i s = .next (s.withDev e)) (he : p e) : next i p :=
    ⟨s.withDev e, hexec, s.withDev_pending e, he⟩
  have hpcie : d.pcieUp = pcieOn := rfl
  have hspi : d.spiUp = spiOn := rfl
  clear_value next pcieOn spiOn
  subst hpcie hspi
  refine ⟨?pcieRead, ?pcieWrite, fun a => Dev.hostRead_denied, fun a v => Dev.hostWrite_denied, ?spiWrite, ?spiRead,
    hnext (exec_pciePerst_eq s false) (Dev.pciePerst_low d), hnext (exec_pciePerst_eq s true) ⟨rfl, rfl⟩, ?link, ?requests⟩
  case pcieRead =>
    intro a n k r
    have hexec {e : Dev} (he : d.pcieRead a.toNat k = e) : exec (.pcieRead a n) s = .next (s.withDev e) :=
      (exec_pcieRead_eq s a n).trans (next_congr he)
    refine ⟨fun h => hexec (Dev.pcieRead_down h), fun h ha hue => hexec (Dev.pcieRead_completes h ha hue),
      fun h ha hue => hexec (Dev.pcieRead_poisoned h ha hue), fun h ha => hnext (hexec (Dev.pcieRead_misaligned h ha)) ?_⟩
    exact ⟨d.reg_count_same .., rfl, rfl⟩
  case pcieWrite =>
    intro a l
    have hexec := (exec_pcieWrite_eq s a l).trans (next_congr (Dev.pcieWrite_eq _))
    refine ⟨fun h => ?_, fun h ha => ?_, fun h ha => ?_⟩
    · exact hexec.trans (next_congr (if_pos h))
    · exact hexec.trans (next_congr ((if_neg (by simp [show s.dev.pcieUp = true from h])).trans (if_neg (by simp [ha]))))
    · exact hexec.trans (next_congr ((if_neg (by simp [show s.dev.pcieUp = true from h])).trans (if_pos ha)))
  case spiWrite =>
    intro a l _ hl
    have hexec {how : SpiEnd} {e : Dev} (he : d.spiWrite a.toNat l how = e) : exec (.spiWrite a l how) s = .next (s.withDev e) :=
      (exec_spiWrite_eq s hl a how).trans (next_congr he)
    exact ⟨fun h _ => hexec (Dev.spiWrite_down h), fun h => hexec (Dev.spiWrite_unknown h),
      fun h ha => ⟨hexec ((Dev.spiWrite_whole h).trans (if_neg (by simp [ha]))), hexec (Dev.spiWrite_cut h ha)⟩,
      fun h ha => hexec ((Dev.spiWrite_whole h).trans (if_pos ha))⟩
  case spiRead =>
    intro a n r
    have hexec {late : Bool} {e : Dev} (he : d.spiRead a.toNat (n.val + 1) late = e) : exec (.spiRead a n late) s = .next (s.withDev e) :=
      (exec_spiRead_eq s a n late).trans (next_congr he)
    exact ⟨fun h _ => hexec (Dev.spiRead_down h), fun h ha => hnext (hexec (Dev.spiRead_late h ha)) (d.spiAnswer_counted 2 _),
      fun h ha _ => hnext (hexec (Dev.spiRead_misaligned h ha)) ⟨rfl, rfl⟩, fun h ha hbad => hexec (Dev.spiRead_bad h ha hbad),
      fun h ha hgood => hexec (Dev.spiRead_answers h ha hgood)⟩
  case link =>
    intro w v hon
    exact ⟨fun hdown hen hfree => hnext (exec_pcieLinkChange_eq s true w v) (Dev.pcieLink_up hon hdown hen hfree (by omega) (by omega)),
      fun hup => hnext (exec_pcieLinkChange_eq s false w v) (Dev.pcieLink_lost hon hup)⟩
  case requests =>
    intro m ctx hi ptr len tag block room c taken header e ans waits inside whole busy
    have hans : ans = d.reqAnswer := rfl
    have hheader : header = d.reqHeader := rfl
    have hwaits : waits ↔ d.ReqWaits ∧ (d.engine 64).stores = [] :=
      ⟨fun ⟨hruns, hfull, hmine, hempty, hready⟩ => ⟨⟨hruns, hfull, hmine, hempty⟩, hready⟩,
        fun ⟨⟨hruns, hfull, hmine, hempty⟩, hready⟩ => ⟨hruns, hfull, hmine, hempty, hready⟩⟩
    have hinside : inside ↔ d.reqInside := Iff.rfl
    have hwhole : whole ↔ header.1.ue = false ∧ d.view (d.reqPtr + 8) 4 + 16 ≤ d.reqBlock := Iff.rfl
    have hbusy : busy = (3 ≤ e.fld .PAT_LOAD_LEVEL) := rfl
    have he : e = header.2 := rfl
    obtain ⟨hptr, hlen, htag, htaken⟩ : ptr = d.reqPtr ∧ len = d.reqLen ∧ tag = d.reqTag ∧ taken = d.reqTaken := ⟨rfl, rfl, rfl, rfl⟩
    have hc : c = d.reqCode := rfl
    clear_value ans waits inside whole busy e header taken c ptr len tag
    subst hans hptr hlen htag htaken hc hbusy hheader
    replace he : d.reqHeader.2 = e := he.symm
    replace hwhole : whole ↔ d.ReqWhole := hwhole
    clear room block hi ctx m
    have hrow {i : Instr} {f : Dev → Dev} {t : Dev} (hexec : exec i s = .next (s.withDev (d.signalRow 64 f))) (hw : waits) (ht : f d = t) :
        exec i s = out t := hexec.trans (next_congr ((Dev.signalRow_ready (hwaits.mp hw).2).trans ht))
    refine ⟨fun hno => ?_, fun hready => ?_, fun hw hout => ?_, fun hw hin hbad hcode => ?_, fun hw hin hwh => ?_⟩
    · refine (exec_getInfo_eq s).trans (next_congr (Dev.signalRow_idle fun hready => Dev.getInfo_idle fun hw => hno (hwaits.mpr ⟨hw, hready⟩)))
    · rw [exec_flashWrite_eq, Dev.signalRow_ready hready, Dev.flashWrite_ends]
      split <;> rfl
    · exact hrow (exec_getInfo_eq s) hw ((hwaits.mp hw).1.getInfo_outside (mt hinside.mpr hout))
    · exact hrow (exec_getInfo_eq s) hw ((hwaits.mp hw).1.getInfo_bad (hinside.mp hin) he (mt hwhole.mpr hbad) hcode)
    have hserved {code : Nat} (hcode : d.reqCode = code) : d.Served code := ⟨(hwaits.mp hw).1, hinside.mp hin, hwhole.mp hwh, hcode⟩
    refine ⟨fun hcode => ?_, fun hcode hidle => ?_, fun hcode hbusy => ?_, fun hcode b hbusy => ?_, fun hcode b hidle => ?_, fun hcode q hbusy => ?_,
      fun hcode q hidle => ?_, fun hcode hfree => ?_, fun hcode hbusy => ?_, fun flash hcode => ?_, fun flash a l hcode => ?_, fun l at_ hcode => ?_,
      fun n hcode => ?_, fun q g hcode => ?_, fun hcode => ?_⟩
    · exact hrow (exec_getInfo_eq s) hw ((hwaits.mp hw).1.getInfo_unknown (hinside.mp hin) he (hwhole.mp hwh) hcode)
    · exact hrow (exec_getInfo_eq s) hw ((hserved hcode).getInfo_answers he hidle)
    · exact hrow (exec_getInfo_eq s) hw ((hserved hcode).info_busy he hbusy)
    · exact hrow (exec_getCounters_eq s b) hw ((hserved hcode).getCounters_busy he b hbusy)
    · intro e
      exact ⟨e.counterWords b, hrow (exec_getCounters_eq s b) hw ((hserved hcode).getCounters_answers he b hidle),
        fun r hr hcnt => e.reg_mem_counterWords hr hcnt⟩
    · exact hrow (exec_readLog_eq s q) hw ((hserved hcode).info_busy he hbusy)
    · exact hrow (exec_readLog_eq s q) hw ((hserved hcode).info_answers he hidle)
    · exact hrow (exec_flashWrite_eq s false) hw ((hserved hcode).flashWrite_begins he hfree)
    · exact hrow (exec_flashWrite_eq s false) hw ((hserved hcode).flashWrite_refused he hbusy)
    · have hexec := hrow (exec_flashVerify_eq s flash) hw ((hserved hcode).flashVerify_eq he flash)
      rw [hexec]
      split <;> rfl
    · intro p q
      have hload := exec_exchangeLoad_eq s flash a l
      exact ⟨fun hold => hrow hload hw ((hserved hcode).exchangeTake_second he hold),
        fun hfree hcause => hrow hload hw ((hserved hcode).exchangeTake_rejected he hfree rfl hcause),
        fun x hfree hcause hclear => hrow hload hw ((hserved hcode).exchangeTake_placed he hfree rfl hcause hclear), Dev.packageCause_clear⟩
    · exact ⟨fun hno => hrow (exec_exchangeArm_eq s l at_) hw ((hserved hcode).exchangeArm_refused he hno),
        fun hok => hrow (exec_exchangeArm_eq s l at_) hw ((hserved hcode).exchangeArm_arms he hok)⟩
    · exact ⟨fun hn v => hrow (exec_force_eq s n v) hw ((hserved hcode).hostForce_output he hn v),
        fun hn => ⟨hrow (exec_force_eq s n none) hw ((hserved hcode).hostForce_releases he hn),
          fun l => hrow (exec_force_eq s n (some l)) hw ((hserved hcode).hostForce_forces he hn l)⟩⟩
    · exact ⟨fun hmode => hrow (exec_provision_eq s q g) hw ((hserved hcode).provision_refused he hmode),
        fun hmode => hrow (exec_provision_eq s q g) hw ((hserved hcode).provision_answers he hmode)⟩
    · exact hrow (exec_reset_eq s) hw ((hserved hcode).hostReset_eq he)

end Sys2Proof.Machine
end

section
/-! O53 does not hold: its clause on CAN_DISABLE lets a frame on the bus complete, and that is so only while the write leaves the controller its right to
drive dominant bits. The write is one of the whole of CAN_CFG, and its HOLD_TX is a field of the same word: under Hold a write that clears both EN and
HOLD_TX mutes the controller, which breaks off its frame and stops at once (R327, R331, R335). -/

namespace Sys2Proof.Machine
set_option Elab.async false

/-- Under Hold controller 0 sends buffer 0, as HOLD_TX lets it: EN and HOLD_TX are 1, and the power domains are on. -/
def heldSender : Dev :=
  ((({ (default : Dev) with can := (default : Dev).can.set 0 { (default : CanSt) with tx := some ⟨0, default, default, false, false⟩ } } : Dev).setReg
    .PWR_DOM_STAT 0x1FFF).setReg .CTL_STATUS 1).setReg .CAN_CFG 0x81 0

/-- Patrol reaches CAN_CFG of the controller, which is not leaving and is not muted. -/
theorem heldSender_sends : heldSender.reaches (.patrol 0) .CAN_CFG 0 0 true ∧ (heldSender.canSt 0).leaving = false ∧
    heldSender.flag .CAN_CFG_EN 0 = true ∧ heldSender.canIdle 0 = false ∧ heldSender.canMuted 0 = false := by decide

/-- The write of 0 to CAN_CFG has left nothing to complete. -/
theorem heldSender_stopped : ((heldSender.rowWrite (.patrol 0) .CAN_CFG 0 0).canSt 0).leaving = false := by decide

theorem exec_canDisable_even (s : State) (who : Agent) (n : Fin 8) :
    exec (.canDisable who n 0#32) s = .next (s.withDev (s.dev.rowWrite who .CAN_CFG 0 n)) := rfl

/-- Refutes O53: in `heldSender` a write of CAN_CFG with EN = 0 and HOLD_TX = 0 mutes controller 0 in the middle of its frame, which is broken off; the
statement has the controller wait for the end of the frame. -/
theorem not_canRowsComplete : ¬ Obligations.CanRowsComplete := by
  unfold Obligations.CanRowsComplete
  intro h
  obtain ⟨hreach, hstays, hen, hbusy, -⟩ := heldSender_sends
  obtain ⟨hable, -⟩ := h 0 ⟨heldSender, []⟩
  obtain ⟨-, hdisable⟩ := hable (.patrol 0) 0#32 hreach hstays
  obtain ⟨t, hexec, -, -, -, hcompletes⟩ := hdisable hen rfl
  obtain ⟨-, hleaving, -⟩ := hcompletes hbusy
  rw [exec_canDisable_even] at hexec
  cases hexec
  exact absurd (hleaving.symm.trans heldSender_stopped) (by decide)

end Sys2Proof.Machine
end

section
/-! O54: the word in progress of a Blade and its end. A step of a Blade changes its status word last; what the word did before that is read through the
end, which keeps every other register and the shifters (R354, R356, R372). -/

namespace Sys2Proof.Machine

/-- The groups have four Blades each. -/
theorem Reg.hasCopy_blade {r : Reg} {g b : Nat} (hg : g < 8) (hb : b < 4) (h : r.info.strides.map Prod.snd = [8, 4]) : r.HasCopy g b 0 :=
  Reg.hasCopy_of_table hg hb h

theorem Reg.hasCopy_group {r : Reg} {g : Nat} (hg : g < 8) (h : r.info.strides.map Prod.snd = [8]) : r.HasCopy g 0 0 := Reg.hasCopy_of_row hg h

/-- What a Blade keeps when its word is over: the shifters. -/
def BldSt.over (x : BldSt) : BldSt := { x with word := none, lead := 0, moved := 0, gap := 0, acted := false }

namespace Dev

variable {s t u : Dev} {g b w : Nat}

/-! ### A Blade among the others -/

theorem blade_updBld_other (s : Dev) {h c : Nat} (hb : b < 4) (hc : c < 4) (hne : h ≠ g ∨ c ≠ b) (f : BldSt → BldSt) :
    (s.updBld g b f).blade h c = s.blade h c := Tab.get_upd_other _ _ (by omega)

@[simp] theorem blade_setReg (r : Reg) (v i j k : Nat) : (s.setReg r v i j k).blade g b = s.blade g b := rfl

@[simp] theorem blade_setFld (f : Fld) (v i j k : Nat) : (s.setFld f v i j k).blade g b = s.blade g b := rfl

@[simp] theorem blade_countBy (r : Reg) (n i j k : Nat) : (s.countBy n r i j k).blade g b = s.blade g b := rfl

@[simp] theorem reg_updBld (f : BldSt → BldSt) (r : Reg) (i j k c d : Nat) : (s.updBld c d f).reg r i j k = s.reg r i j k := rfl

@[simp] theorem fld_updBld (f : BldSt → BldSt) (l : Fld) (i j k c d : Nat) : (s.updBld c d f).fld l i j k = s.fld l i j k := rfl

@[simp] theorem flag_updBld (f : BldSt → BldSt) (l : Fld) (i j k c d : Nat) : (s.updBld c d f).flag l i j k = s.flag l i j k := rfl

/-! ### The status word -/

/-- The fields of BLD_STATUS beside STATE and STALL. -/
def shiftFlds : List Fld := [.BLD_STATUS_PC, .BLD_STATUS_TX_FULL, .BLD_STATUS_RX_FULL, .BLD_STATUS_RCNT, .BLD_STATUS_TCNT]

/-- The Blade has come to a stall with a code, or to none with code 0; nothing else is new. -/
structure Stalled (g b k : Nat) (s t : Dev) : Prop where
  code : t.fld .BLD_STATUS_STALL g b = k
  kept : ∀ f ∈ shiftFlds, t.fld f g b = s.fld f g b
  blade : ∀ h c, t.blade h c = s.blade h c
  regs : RegsBut [.BLD_STATUS] s t

section
variable (hg : g < 8) (hb : b < 4)
include hg hb

theorem bldStall_stalled {k : Nat} (hk : k < 16) : Stalled g b k s (s.bldStall g b k) := by
  have hcopy : Reg.BLD_STATUS.HasCopy g b 0 := Reg.hasCopy_blade hg hb rfl
  have hset : s.bldStall g b k = (s.setFld .BLD_STATUS_STALL k g b).setFld .BLD_STATUS_STATE
      (if !(s.setFld .BLD_STATUS_STALL k g b).bldOn g b then 0 else if (s.setFld .BLD_STATUS_STALL k g b).fld .BLD_STATUS_STALL g b = 0 then 1
        else if (s.setFld .BLD_STATUS_STALL k g b).fld .BLD_STATUS_STALL g b ≤ 5 then 2 else 3) g b := rfl
  rw [hset]
  refine ⟨?_, fun f hf => ?_, fun _ _ => rfl, ?_⟩
  · rw [fld_setFld_of_beside _ (by decide) (by decide) (by decide), fld_setFld_of_fits _ (by decide) hk]
  · have hbeside : f.reg = .BLD_STATUS ∧ (f.hi < 11 ∨ 14 < f.lo) ∧ (f.hi < 8 ∨ 10 < f.lo) := by revert f; decide
    obtain ⟨hreg, hstall, hstate⟩ := hbeside
    rw [fld_setFld_of_beside _ (by decide) hreg hstate, fld_setFld_of_beside _ (by decide) hreg hstall]
  · exact ((RegsBut.refl s).setFld hcopy (by decide)).setFld hcopy (by decide)

end

/-- A word's end: the new program counter, no word in progress, no stall. -/
structure Ended (g b pc : Nat) (s t : Dev) : Prop where
  pc : t.fld .BLD_STATUS_PC g b = pc
  stall : t.fld .BLD_STATUS_STALL g b = 0
  kept : ∀ f ∈ shiftFlds, f ≠ .BLD_STATUS_PC → t.fld f g b = s.fld f g b
  blade : t.blade g b = (s.blade g b).over
  regs : RegsBut [.BLD_STATUS, .BLD_ILLEGAL_CNT] s t

/-- Where a word leaves the program counter that does not write it. -/
def nextPc (s : Dev) (g b w : Nat) : Nat := if bit w 8 then s.fld .BLD_PCFG_LOOP_CUR g b else (s.fld .BLD_STATUS_PC g b + 1) % 48

section
variable (hg : g < 8) (hb : b < 4)
include hg hb

/-- The end of a word whose program counter has been set. -/
theorem over_ended {v : Nat} (hv : v < 64) (hu : RegsBut [.BLD_STATUS, .BLD_ILLEGAL_CNT] s u) (hkept : ∀ f ∈ shiftFlds, f ≠ .BLD_STATUS_PC → u.fld f g b = s.fld f g b)
    (hblade : u.blade g b = s.blade g b) : Ended g b v s (((u.setPc g b v).updBld g b BldSt.over).bldStall g b 0) := by
  have hcopy : Reg.BLD_STATUS.HasCopy g b 0 := Reg.hasCopy_blade hg hb rfl
  obtain ⟨hcode, hstatus, hkeep, hregs⟩ := bldStall_stalled (s := (u.setPc g b v).updBld g b BldSt.over) hg hb (k := 0) (by decide)
  refine ⟨?_, hcode, fun f hf hne => ?_, ?_, ?_⟩
  · exact (hstatus _ (by decide)).trans (fld_setFld_of_fits _ (by decide) hv)
  · have hbeside : f.reg = .BLD_STATUS ∧ (f.hi < 0 ∨ 5 < f.lo) := by revert f; decide
    obtain ⟨hreg, hpc⟩ := hbeside
    exact (hstatus f hf).trans ((fld_setFld_of_beside u (by decide) hreg hpc _).trans (hkept f hf hne))
  · exact (hkeep g b).trans ((blade_updBld_same ..).trans (congrArg _ hblade))
  · refine RegsBut.trans (t := (u.setPc g b v).updBld g b BldSt.over) ?_ (hregs.mono (by decide))
    exact (hu.setFld (f := .BLD_STATUS_PC) hcopy (by decide)).trans (.of_regs rfl)

theorem bldDone_next (hw : s.bldWord g b = w) : Ended g b (s.nextPc g b w) s (s.bldDone g b none) := by
  have hdone : s.bldDone g b none = ((s.setPc g b (s.nextPc g b w)).updBld g b BldSt.over).bldStall g b 0 := by
    rw [← hw]
    unfold Dev.bldDone nextPc
    dsimp only
    split <;> rfl
  have hpc : s.nextPc g b w < 64 := by
    have hloop : s.fld .BLD_PCFG_LOOP_CUR g b < 64 := s.fld_lt ..
    unfold nextPc
    split <;> omega
  rw [hdone]
  exact over_ended hg hb hpc (.refl s) (fun _ _ _ => rfl) rfl

theorem bldDone_to {v : Nat} (hv : v < 64) : let t := s.bldDone g b (some v)
    Ended g b (if 48 ≤ v then 0 else v) s t ∧
      t.reg .BLD_ILLEGAL_CNT g = if 48 ≤ v then min (s.reg .BLD_ILLEGAL_CNT g + 1) 0xFFFFFFFF else s.reg .BLD_ILLEGAL_CNT g := by
  intro t
  have hcount : Reg.BLD_ILLEGAL_CNT.HasCopy g 0 0 := Reg.hasCopy_group hg rfl
  have hstatus : Reg.BLD_STATUS.HasCopy g b 0 := Reg.hasCopy_blade hg hb rfl
  have hkeeps (u : Dev) (n : Nat) : (((u.setPc g b n).updBld g b BldSt.over).bldStall g b 0).reg .BLD_ILLEGAL_CNT g = u.reg .BLD_ILLEGAL_CNT g :=
    ((bldStall_stalled hg hb (k := 0) (by decide)).regs.reg _ _ _ _ hcount (by decide)).trans (reg_setFld_of_apart u hcount hstatus (by decide) _)
  by_cases h48 : 48 ≤ v
  · have ht : t = (((s.count .BLD_ILLEGAL_CNT g).setPc g b 0).updBld g b BldSt.over).bldStall g b 0 := by
      unfold t Dev.bldDone
      dsimp only
      rw [if_pos h48]
      rfl
    rw [ht, if_pos h48, if_pos h48]
    refine ⟨over_ended hg hb (by decide) ((RegsBut.refl s).count hcount (by decide)) (fun f hf _ => ?_) rfl, ?_⟩
    · have hreg : f.reg = .BLD_STATUS := by revert f; decide
      exact fld_countBy_of_apart s (by rw [hreg]; exact hstatus) hcount (by rw [hreg]; decide) 1
    · exact (hkeeps _ 0).trans (s.reg_count_same ..)
  · have ht : t = ((s.setPc g b v).updBld g b BldSt.over).bldStall g b 0 := by
      unfold t Dev.bldDone
      dsimp only
      rw [if_neg h48]
      rfl
    rw [ht, if_neg h48, if_neg h48]
    exact ⟨over_ended hg hb hv (.refl s) (fun _ _ _ => rfl) rfl, hkeeps s v⟩

end

/-! ### What a step reports -/

/-- The Blade stands before its next word at a program counter. -/
def BldStands (g b v : Nat) (t : Dev) : Prop := t.fld .BLD_STATUS_PC g b = v ∧ (t.blade g b).word = none ∧ t.fld .BLD_STATUS_STALL g b = 0

/-- The Blade keeps program counter and word, with a stall code. -/
def BldHeld (g b pc w k : Nat) (t : Dev) : Prop := t.fld .BLD_STATUS_PC g b = pc ∧ (t.blade g b).word = some w ∧ t.fld .BLD_STATUS_STALL g b = k

theorem Ended.stands {pc : Nat} (h : Ended g b pc s t) : BldStands g b pc t := ⟨h.pc, by rw [h.blade]; rfl, h.stall⟩

theorem Stalled.holds {k : Nat} (h : Stalled g b k s t) (hw : (s.blade g b).word = some w) : BldHeld g b (s.fld .BLD_STATUS_PC g b) w k t :=
  ⟨h.kept _ (by decide), by rw [h.blade]; exact hw, h.code⟩

theorem Ended.reg {pc : Nat} (h : Ended g b pc s t) {r : Reg} {i j k : Nat} (hr : r.HasCopy i j k) (hne : r ∉ [Reg.BLD_STATUS, .BLD_ILLEGAL_CNT]) :
    t.reg r i j k = s.reg r i j k := h.regs.reg _ _ _ _ hr hne

theorem Ended.fld {pc : Nat} (h : Ended g b pc s t) {f : Fld} {i j k : Nat} (hr : f.reg.HasCopy i j k) (hne : f.reg ∉ [Reg.BLD_STATUS, .BLD_ILLEGAL_CNT]) :
    t.fld f i j k = s.fld f i j k := h.regs.fld hr hne

end Dev

end Sys2Proof.Machine
end

section
/-! O54: jumps, waits and serial words of a Blade (R356, R357). -/

namespace Sys2Proof.Machine

/-! ### Flags as bits of a field -/

theorem bit_and_flagMask (x m k : Nat) : bit (x &&& (255 - m % 256)) k = (bit x k && (decide (k < 8) && !bit (m % 256) k)) := by
  have hm : m % 256 < 2 ^ 8 := Nat.mod_lt _ (by decide)
  rw [bit_eq_testBit, bit_eq_testBit, bit_eq_testBit, Nat.testBit_and, ← Nat.testBit_two_pow_sub_succ hm]
  congr 2
  omega

theorem bit_mod_256 (m : Nat) {k : Nat} (hk : k < 8) : bit (m % 256) k = bit m k := by
  rw [bit_eq_testBit, bit_eq_testBit, show 256 = 2 ^ 8 from rfl, Nat.testBit_mod_two_pow, decide_eq_true hk, Bool.true_and]

/-- One flag among eight goes. -/
theorem and_flagMask_pow {x f : Nat} (hx : x < 256) (hf : f < 8) : x &&& (255 - 2 ^ f % 256) = putBit x f false := by
  refine Nat.eq_of_testBit_eq fun i => ?_
  rw [← bit_eq_testBit, ← bit_eq_testBit, bit_and_flagMask, bit_putBit]
  have hbit : bit (2 ^ f % 256) i = decide (f = i) := by
    rw [Nat.mod_eq_of_lt (Nat.pow_lt_pow_right (n := 8) (by decide) hf), bit_eq_testBit, Nat.testBit_two_pow]
  by_cases hi : i = f
  · subst hi
    simp [hbit]
  · by_cases h8 : i < 8
    · simp [hbit, hi, h8, Ne.symm hi]
    · have hxi : bit x i = false := by
        rw [bit_eq_testBit]
        exact Nat.testBit_lt_two_pow (Nat.lt_of_lt_of_le hx (Nat.pow_le_pow_right (n := 2) (by decide) (by omega : 8 ≤ i)))
      simp [hi, hxi]

namespace Dev

variable {s t u : Dev} {g b w : Nat}

/-! ### The end of a word that has changed other things -/

theorem bldWord_of_latched (h : (s.blade g b).word = some w) : s.bldWord g b = w := by rw [Dev.bldWord, h]

/-- Registers and shifters have changed, but neither the word in progress nor the program counter and what gives the next one. -/
structure Acts (g b : Nat) (s u : Dev) : Prop where
  pc : u.fld .BLD_STATUS_PC g b = s.fld .BLD_STATUS_PC g b
  loop : u.fld .BLD_PCFG_LOOP_CUR g b = s.fld .BLD_PCFG_LOOP_CUR g b
  word : (u.blade g b).word = (s.blade g b).word

namespace Acts

theorem refl (s : Dev) : Acts g b s s := ⟨rfl, rfl, rfl⟩

theorem trans (h : Acts g b s t) (k : Acts g b t u) : Acts g b s u := ⟨k.pc.trans h.pc, k.loop.trans h.loop, k.word.trans h.word⟩

theorem nextPc (h : Acts g b s u) (w : Nat) : u.nextPc g b w = s.nextPc g b w := by rw [Dev.nextPc, Dev.nextPc, h.pc, h.loop]

theorem of_regsBut {l : List Reg} (h : RegsBut l s u) (hg : g < 8) (hb : b < 4) (hstatus : Reg.BLD_STATUS ∉ l) (hpcfg : Reg.BLD_PCFG ∉ l)
    (hword : (u.blade g b).word = (s.blade g b).word) : Acts g b s u :=
  ⟨h.fld (Reg.hasCopy_blade hg hb rfl) hstatus, h.fld (Reg.hasCopy_blade hg hb rfl) hpcfg, hword⟩

end Acts

section
variable (hg : g < 8) (hb : b < 4)
include hg hb

theorem bldDone_acts (h : Acts g b s u) (hw : (s.blade g b).word = some w) : Ended g b (s.nextPc g b w) u (u.bldDone g b none) := by
  rw [← h.nextPc w]
  exact bldDone_next hg hb (bldWord_of_latched (h.word.trans hw))

theorem bldDone_jump {a : Nat} (ha : a ≤ 47) : Ended g b a s (s.bldDone g b (some a)) := by
  have hto := (bldDone_to (s := s) hg hb (v := a) (by omega)).1
  rwa [if_neg (by omega)] at hto

theorem bldDone_if {a : Nat} (ha : a ≤ 47) (h : Acts g b s u) (hw : (s.blade g b).word = some w) (c : Bool) :
    Ended g b (if c = true then a else s.nextPc g b w) u (u.bldDone g b (if c = true then some a else none)) := by
  cases c
  · exact bldDone_acts hg hb h hw
  · exact bldDone_jump hg hb ha

theorem bldStall_acts {k pc : Nat} (hk : k < 16) (h : Acts g b s u) (hw : (s.blade g b).word = some w) (hpc : s.fld .BLD_STATUS_PC g b = pc) :
    BldHeld g b pc w k (u.bldStall g b k) := by
  have hheld := (bldStall_stalled (s := u) hg hb hk).holds (h.word.trans hw)
  rwa [h.pc, hpc] at hheld

theorem acts_setReg {r : Reg} {v : Nat} (hr : r.HasCopy g b 0) (hne : r ∉ [Reg.BLD_STATUS, .BLD_PCFG]) : Acts g b s (s.setReg r v g b) :=
  .of_regsBut (l := [r]) ((RegsBut.refl s).setReg hr List.mem_cons_self) hg hb (by simp at hne ⊢; exact Ne.symm hne.1)
    (by simp at hne ⊢; exact Ne.symm hne.2) rfl

/-! ### JMP and WAIT -/

theorem bldJmp_does (hw : (s.blade g b).word = some w) (ha : bits w 5 0 ≤ 47) : let C := s.reg .BLD_C g b
    let t := s.bldJmp g b w
    BldStands g b (if bits w 7 6 = 0 ∨ bits w 7 6 = 1 ∧ C ≠ 0 ∨ bits w 7 6 = 2 ∧ s.laneLevel g b (s.fld .BLD_FORM_TEST_LANE g b) = true ∨
      bits w 7 6 = 3 ∧ s.flag .BLD_STATUS_TX_FULL g b = true then bits w 5 0 else s.nextPc g b w) t ∧
    t.reg .BLD_C g b = if bits w 7 6 = 1 then C - 1 else C := by
  intro C t
  have hcopy : Reg.BLD_C.HasCopy g b 0 := Reg.hasCopy_blade hg hb rfl
  have hkeep {pc : Nat} {u t : Dev} (h : Ended g b pc u t) : t.reg .BLD_C g b = u.reg .BLD_C g b := h.reg hcopy (by decide)
  have hcases : bits w 7 6 < 4 := bits_lt w 7 6
  have hif (c : Bool) := bldDone_if hg hb ha (.refl s) hw c
  obtain h | h | h | h : bits w 7 6 = 0 ∨ bits w 7 6 = 1 ∨ bits w 7 6 = 2 ∨ bits w 7 6 = 3 := by omega
  · have ht : t = s.bldDone g b (if true = true then some (bits w 5 0) else none) := by unfold t Dev.bldJmp; simp only [h]
    rw [ht]
    simpa [h] using And.intro (hif true).stands (hkeep (hif true))
  · by_cases hC : C = 0
    · have ht : t = s.bldDone g b (if false = true then some (bits w 5 0) else none) := by unfold t Dev.bldJmp; simp only [h]; exact if_pos hC
      rw [ht]
      simpa [h, hC] using And.intro (hif false).stands ((hkeep (hif false)).trans hC)
    · have ht : t = (s.setReg .BLD_C (C - 1) g b).bldDone g b (if true = true then some (bits w 5 0) else none) := by
        unfold t Dev.bldJmp; simp only [h]; exact if_neg hC
      have hdone := bldDone_if hg hb ha (acts_setReg hg hb (v := C - 1) hcopy (by decide)) hw true
      have hlt : C < 2 ^ 32 := (s.regWord _).isLt
      have hset : (s.setReg .BLD_C (C - 1) g b).reg .BLD_C g b = C - 1 := by rw [reg_setReg_same, Nat.mod_eq_of_lt (by omega)]
      rw [ht]
      simpa [h, hC] using And.intro hdone.stands ((hkeep hdone).trans hset)
  · have ht : t = s.bldDone g b (if s.laneLevel g b (s.fld .BLD_FORM_TEST_LANE g b) = true then some (bits w 5 0) else none) := by
      unfold t Dev.bldJmp; simp only [h]
    rw [ht]
    simpa [h] using And.intro (hif (s.laneLevel g b (s.fld .BLD_FORM_TEST_LANE g b))).stands (hkeep (hif _))
  · have ht : t = s.bldDone g b (if s.flag .BLD_STATUS_TX_FULL g b = true then some (bits w 5 0) else none) := by
      unfold t Dev.bldJmp; simp only [h]
    rw [ht]
    simpa [h] using And.intro (hif (s.flag .BLD_STATUS_TX_FULL g b)).stands (hkeep (hif _))

omit hg hb in
theorem flagClear_fld (mask : Nat) : (s.flagClear g mask).fld .BLD_FLAGS_FLAG g = s.fld .BLD_FLAGS_FLAG g &&& (255 - mask % 256) :=
  fld_setFld_of_fits s (by decide) (Nat.lt_of_le_of_lt Nat.and_le_left (s.fld_lt ..))

omit hg hb in
theorem flagClear_one {f : Nat} (hf : f < 8) : (s.flagClear g (2 ^ f)).fld .BLD_FLAGS_FLAG g = putBit (s.fld .BLD_FLAGS_FLAG g) f false :=
  (flagClear_fld _).trans (and_flagMask_pow (s.fld_lt ..) hf)

omit hb in
theorem flagClear_regs (mask : Nat) : RegsBut [.BLD_FLAGS] s (s.flagClear g mask) :=
  (RegsBut.refl s).setFld (f := .BLD_FLAGS_FLAG) (Reg.hasCopy_group hg rfl) (by decide)

theorem flagClear_acts (mask : Nat) : Acts g b s (s.flagClear g mask) := .of_regsBut (flagClear_regs hg mask) hg hb (by decide) (by decide) rfl

omit hg hb in
theorem flagOf_lt (s : Dev) (g b w : Nat) : s.flagOf g b w < 8 := Nat.mod_lt _ (by decide)

/-- What a WAIT waits for. -/
def waitSrc (s : Dev) (g b w : Nat) : Bool :=
  if bits w 6 5 = 0 then s.laneLevel g b (bits w 2 0) else if bits w 6 5 = 1 then bit (s.fld .BLD_FLAGS_FLAG g) (s.flagOf g b w)
  else s.pinLevel g (bits w 2 0)

theorem bldWait_does (hw : (s.blade g b).word = some w) : let flags := s.fld .BLD_FLAGS_FLAG g
    let t := s.bldWait g b w
    if s.waitSrc g b w = bit w 7 then BldStands g b (s.nextPc g b w) t ∧
      t.fld .BLD_FLAGS_FLAG g = (if bits w 6 5 = 1 ∧ bit w 7 = true then putBit flags (s.flagOf g b w) false else flags)
    else BldHeld g b (s.fld .BLD_STATUS_PC g b) w 1 t ∧ t.fld .BLD_FLAGS_FLAG g = flags := by
  intro flags t
  have hflags : Reg.BLD_FLAGS.HasCopy g 0 0 := Reg.hasCopy_group hg rfl
  have ht : t = if s.waitSrc g b w != bit w 7 then s.bldStall g b stWait
      else (if bits w 6 5 = 1 ∧ bit w 7 then s.flagClear g (2 ^ s.flagOf g b w) else s).bldDone g b none := by
    have hsrc : (match bits w 6 5 with
      | 0 => s.laneLevel g b (bits w 2 0)
      | 1 => bit (s.fld .BLD_FLAGS_FLAG g) (s.flagOf g b w)
      | _ => s.pinLevel g (bits w 2 0)) = s.waitSrc g b w := by
      unfold waitSrc
      split
      · next h => rw [if_pos h]
      · next h => rw [if_neg (by omega), if_pos h]
      · next h0 h1 => rw [if_neg h0, if_neg h1]
    rw [← hsrc]
    rfl
  rw [ht]
  by_cases hsrc : s.waitSrc g b w = bit w 7
  · rw [if_pos hsrc, if_neg (by simp [hsrc])]
    by_cases htake : bits w 6 5 = 1 ∧ bit w 7 = true
    · rw [if_pos htake, if_pos htake]
      have hdone := bldDone_acts hg hb (flagClear_acts hg hb (2 ^ s.flagOf g b w)) hw
      exact ⟨hdone.stands, (hdone.fld hflags (by decide)).trans (flagClear_one (flagOf_lt ..))⟩
    · rw [if_neg htake, if_neg htake]
      have hdone := bldDone_acts hg hb (.refl s) hw
      exact ⟨hdone.stands, hdone.fld hflags (by decide)⟩
  · rw [if_neg hsrc, if_pos (by simpa using hsrc)]
    exact ⟨bldStall_acts hg hb (by decide) (.refl s) hw rfl, (bldStall_stalled hg hb (by decide)).regs.fld hflags (by decide)⟩

end

end Dev

end Sys2Proof.Machine
end

section
/-! O54: the shifters of a Blade: IN, OUT, PUSH and PULL (R357, R363, R364). -/

namespace Sys2Proof.Machine

namespace Dev

variable {s t u : Dev} {g b w : Nat}

/-! ### Bits that move -/

/-- Bits have moved between the shifters, the pins and the counts; nothing else is new. -/
structure Shifts (g b : Nat) (s u : Dev) : Prop where
  regs : RegsBut [.BLD_STATUS, .BLD_PINSTATE] s u
  pc : u.fld .BLD_STATUS_PC g b = s.fld .BLD_STATUS_PC g b
  word : (u.blade g b).word = (s.blade g b).word

namespace Shifts

theorem refl (s : Dev) : Shifts g b s s := ⟨.refl s, rfl, rfl⟩

theorem trans (h : Shifts g b s t) (k : Shifts g b t u) : Shifts g b s u := ⟨h.regs.trans k.regs, k.pc.trans h.pc, k.word.trans h.word⟩

theorem acts (h : Shifts g b s u) (hg : g < 8) (hb : b < 4) : Acts g b s u := ⟨h.pc, h.regs.fld (Reg.hasCopy_blade hg hb rfl) (by decide), h.word⟩

end Shifts

theorem word_updBld {c : BldSt → BldSt} (hc : ∀ x, (c x).word = x.word) : ((s.updBld g b c).blade g b).word = (s.blade g b).word :=
  (congrArg BldSt.word (blade_updBld_same ..)).trans (hc _)

/-- What is left of TSR when a bit has been taken. -/
def takenTsr (s : Dev) (g b : Nat) (x : BldSt) : BldSt := { x with tsr := if s.flag .BLD_FORM_TX_MSB g b then x.tsr * 2 % 2 ^ 32 else x.tsr / 2 }

section
variable (hg : g < 8) (hb : b < 4)
include hg hb

/-- A shifter and a count of BLD_STATUS are written. -/
theorem shifts_count {f : Fld} (hf : f = .BLD_STATUS_RCNT ∨ f = .BLD_STATUS_TCNT) {k : Nat} {c : BldSt → BldSt} (hc : ∀ x, (c x).word = x.word) :
    Shifts g b s ((s.updBld g b c).setFld f k g b) := by
  have hcopy : Reg.BLD_STATUS.HasCopy g b 0 := Reg.hasCopy_blade hg hb rfl
  have hreg : f.reg = .BLD_STATUS ∧ (Fld.BLD_STATUS_PC.hi < f.lo) := by rcases hf with rfl | rfl <;> decide
  have hrange : f.lo ≤ f.hi ∧ f.hi < 32 := by rcases hf with rfl | rfl <;> decide
  have hupd : RegsBut [.BLD_STATUS, .BLD_PINSTATE] s (s.updBld g b c) := .of_regs rfl
  refine ⟨hupd.setFld (by rw [hreg.1]; exact hcopy) (by rw [hreg.1]; decide), ?_, ?_⟩
  · exact fld_setFld_of_beside (s.updBld g b c) hrange hreg.1.symm (.inl hreg.2) k
  · exact word_updBld hc

/-! ### IN -/

theorem bldCollect_shifts (v : Bool) : let t := s.bldCollect g b v
    Shifts g b s t ∧ t.fld .BLD_STATUS_RCNT g b = min 32 (s.fld .BLD_STATUS_RCNT g b + 1) :=
  ⟨shifts_count hg hb (.inl rfl) fun _ => rfl, fld_setFld_of_fits _ (by decide) (Nat.lt_of_le_of_lt (Nat.min_le_left ..) (by decide))⟩

theorem bldCollect_each {α : Type} (f : α → Bool) (l : List α) (s : Dev) : let t := s.each l fun i s => s.bldCollect g b (f i)
    Shifts g b s t ∧ (l ≠ [] → t.fld .BLD_STATUS_RCNT g b = min 32 (s.fld .BLD_STATUS_RCNT g b + l.length)) := by
  induction l generalizing s with
  | nil => exact ⟨.refl s, fun h => absurd rfl h⟩
  | cons i l ih =>
    obtain ⟨hone, hcount⟩ := bldCollect_shifts (s := s) hg hb (f i)
    obtain ⟨hrest, hcounts⟩ := ih (s.bldCollect g b (f i))
    refine ⟨hone.trans hrest, fun _ => ?_⟩
    by_cases hl : l = []
    · subst hl
      exact hcount
    · refine (hcounts hl).trans ?_
      rw [hcount, List.length_cons]
      omega

omit hg hb in
theorem bldCount_pos (w : Nat) : 0 < bldCount w := by
  unfold bldCount
  split <;> omega

theorem bldIn_collects (hw : (s.blade g b).word = some w) (hsrc : bits w 7 6 ≠ 0) : let t := s.bldIn g b w
    BldStands g b (s.nextPc g b w) t ∧ t.fld .BLD_STATUS_RCNT g b = min 32 (s.fld .BLD_STATUS_RCNT g b + bldCount w) := by
  intro t
  obtain ⟨f, hf⟩ : ∃ f : Nat → Bool, t = (s.each (List.range (bldCount w)) fun i s => s.bldCollect g b (f i)).bldDone g b none := by
    unfold t Dev.bldIn
    dsimp only
    split
    · next h => exact absurd h hsrc
    · exact ⟨fun i => bit (s.reg .BLD_G g b) i, rfl⟩
    · exact ⟨fun _ => false, rfl⟩
  obtain ⟨hshift, hcount⟩ := bldCollect_each hg hb f (List.range (bldCount w)) s
  have hdone := bldDone_acts hg hb (hshift.acts hg hb) hw
  have hne : List.range (bldCount w) ≠ [] := by
    rw [Ne, List.range_eq_nil]
    exact (bldCount_pos w).ne'
  rw [hf]
  refine ⟨hdone.stands, (hdone.kept _ (by decide) (by decide)).trans ?_⟩
  rw [hcount hne, List.length_range]

/-! ### OUT -/

omit hg hb in
theorem takenTsr_lsb (hlsb : s.flag .BLD_FORM_TX_MSB g b = false) (x : BldSt) : (s.takenTsr g b x).tsr = x.tsr / 2 := by simp [takenTsr, hlsb]

omit hg hb in
theorem bldTake_eq (s : Dev) : s.bldTake g b =
    (if s.flag .BLD_FORM_TX_MSB g b then bit (s.blade g b).tsr (s.txBits g b - 1) else bit (s.blade g b).tsr 0,
      (s.updBld g b (s.takenTsr g b)).setFld .BLD_STATUS_TCNT ((s.updBld g b (s.takenTsr g b)).fld .BLD_STATUS_TCNT g b - 1) g b) := by
  unfold Dev.bldTake takenTsr
  rfl

/-- A bit that is taken is the least significant one, where TX_MSB is 0. -/
theorem bldTake_shifts (s : Dev) : let t := s.bldTake g b
    Shifts g b s t.2 ∧ t.2.fld .BLD_STATUS_TCNT g b = s.fld .BLD_STATUS_TCNT g b - 1 ∧
    (s.flag .BLD_FORM_TX_MSB g b = false → t.1 = bit (s.blade g b).tsr 0 ∧ (t.2.blade g b).tsr = (s.blade g b).tsr / 2) := by
  rw [bldTake_eq]
  dsimp only
  rw [fld_updBld]
  refine ⟨shifts_count hg hb (.inr rfl) fun _ => rfl, fld_setFld_of_fits _ (by decide) (Nat.lt_of_le_of_lt (Nat.sub_le ..) (fld_lt ..)),
    fun hlsb => ⟨by simp [hlsb], by rw [blade_setFld, blade_updBld_same, takenTsr_lsb hlsb]⟩⟩

omit hg hb in
theorem b2n_bit_zero (n : Nat) : b2n (bit n 0) = n % 2 := by
  rcases Nat.mod_two_eq_zero_or_one n with h | h <;> simp [bit, h, b2n]

omit hg hb in
theorem bldTakeN_succ (n : Nat) (s : Dev) : s.bldTakeN g b (n + 1) =
    (b2n (s.bldTake g b).1 + 2 * ((s.bldTake g b).2.bldTakeN g b n).1, ((s.bldTake g b).2.bldTakeN g b n).2) := by
  rcases hone : s.bldTake g b with ⟨v, e⟩
  rcases hrest : e.bldTakeN g b n with ⟨r, f⟩
  rw [Dev.bldTakeN, hone]
  dsimp only
  rw [hrest]

theorem bldTakeN_shifts (n : Nat) (s : Dev) : let t := s.bldTakeN g b n
    Shifts g b s t.2 ∧ t.2.fld .BLD_STATUS_TCNT g b = s.fld .BLD_STATUS_TCNT g b - n ∧
    (s.flag .BLD_FORM_TX_MSB g b = false → t.1 = (s.blade g b).tsr % 2 ^ n) := by
  induction n generalizing s with
  | zero => exact ⟨.refl s, rfl, fun _ => (Nat.mod_one _).symm⟩
  | succ n ih =>
    obtain ⟨hone, hcount, hbit⟩ := bldTake_shifts hg hb s
    obtain ⟨hrest, hcounts, hbits⟩ := ih (s.bldTake g b).2
    have hform : (s.bldTake g b).2.flag .BLD_FORM_TX_MSB g b = s.flag .BLD_FORM_TX_MSB g b :=
      hone.regs.flag (Reg.hasCopy_blade hg hb rfl) (by decide)
    have htake := bldTakeN_succ (g := g) (b := b) n s
    rw [htake]
    refine ⟨hone.trans hrest, ?_, fun hlsb => ?_⟩
    · refine hcounts.trans ?_
      rw [hcount]
      omega
    · obtain ⟨hv, htsr⟩ := hbit hlsb
      rw [hbits (hform.trans hlsb), hv, htsr, b2n_bit_zero, Nat.pow_succ, Nat.mul_comm (2 ^ n) 2, Nat.mod_mul]

theorem bldOut_takes (hw : (s.blade g b).word = some w) (hdst : bits w 7 6 ≠ 0) (hn : bits w 5 0 ≤ 32) : let n := bldCount w
    let x := s.blade g b
    let t := s.bldOut g b w
    t.fld .BLD_STATUS_TCNT g b = s.fld .BLD_STATUS_TCNT g b - n ∧ (bits w 7 6 ≠ 3 → BldStands g b (s.nextPc g b w) t) ∧
    (s.flag .BLD_FORM_TX_MSB g b = false →
      (bits w 7 6 = 1 → t.reg .BLD_G g b = x.tsr % 2 ^ n) ∧
      (bits w 7 6 = 3 → let v := x.tsr % 2 ^ n % 64
        BldStands g b (if 48 ≤ v then 0 else v) t ∧
        (48 ≤ v → t.reg .BLD_ILLEGAL_CNT g = min (s.reg .BLD_ILLEGAL_CNT g + 1) 0xFFFFFFFF))) := by
  intro n x t
  have hG : Reg.BLD_G.HasCopy g b 0 := Reg.hasCopy_blade hg hb rfl
  obtain ⟨hshift, hcount, hbits⟩ := bldTakeN_shifts hg hb n s
  have hacts := hshift.acts hg hb
  have hcases : bits w 7 6 < 4 := bits_lt w 7 6
  obtain h | h | h : bits w 7 6 = 1 ∨ bits w 7 6 = 2 ∨ bits w 7 6 = 3 := by omega
  · have ht : t = ((s.bldTakeN g b n).2.setReg .BLD_G (s.bldTakeN g b n).1 g b).bldDone g b none := by unfold t Dev.bldOut; simp only [h]; rfl
    have hdone := bldDone_acts hg hb (hacts.trans (acts_setReg hg hb (r := .BLD_G) (v := (s.bldTakeN g b n).1) hG (by decide))) hw
    rw [ht]
    refine ⟨(hdone.kept _ (by decide) (by decide)).trans ((fld_setReg_of_apart _ (Reg.hasCopy_blade hg hb rfl) hG (by decide) _).trans hcount),
      fun _ => hdone.stands, fun hlsb => ⟨fun _ => (hdone.reg hG (by decide)).trans ?_, fun h3 => absurd (h.symm.trans h3) (by decide)⟩⟩
    have hn32 : n ≤ 32 := by
      show bldCount w ≤ 32
      unfold bldCount
      split <;> omega
    have hfits : x.tsr % 2 ^ n < 2 ^ 32 := Nat.lt_of_lt_of_le (Nat.mod_lt _ (Nat.two_pow_pos n)) (Nat.pow_le_pow_right (by decide) hn32)
    rw [reg_setReg_same, hbits hlsb, Nat.mod_eq_of_lt hfits]
  · have ht : t = (s.bldTakeN g b n).2.bldDone g b none := by unfold t Dev.bldOut; simp only [h]; rfl
    have hdone := bldDone_acts hg hb hacts hw
    rw [ht]
    exact ⟨(hdone.kept _ (by decide) (by decide)).trans hcount, fun _ => hdone.stands,
      fun _ => ⟨fun h1 => absurd (h.symm.trans h1) (by decide), fun h3 => absurd (h.symm.trans h3) (by decide)⟩⟩
  · have ht : t = (s.bldTakeN g b n).2.bldDone g b (some ((s.bldTakeN g b n).1 % 64)) := by unfold t Dev.bldOut; simp only [h]; rfl
    obtain ⟨hdone, hill⟩ := bldDone_to (s := (s.bldTakeN g b n).2) hg hb (v := (s.bldTakeN g b n).1 % 64) (Nat.mod_lt _ (by decide))
    rw [ht]
    refine ⟨(hdone.kept _ (by decide) (by decide)).trans hcount, fun hno => absurd h hno, fun hlsb => ⟨fun h1 => absurd (h.symm.trans h1) (by decide), fun _ => ?_⟩⟩
    intro v
    have hv : (s.bldTakeN g b n).1 % 64 = v := congrArg (· % 64) (hbits hlsb)
    rw [hv] at hdone hill ⊢
    refine ⟨hdone.stands, fun h48 => ?_⟩
    rw [hill, if_pos h48, hshift.regs.reg .BLD_ILLEGAL_CNT g 0 0 (Reg.hasCopy_group hg rfl) (by decide)]

/-! ### Serial transfers -/

/-- One step of a serial transfer whose bit moves by `m`. -/
theorem bldSerial_does {n k : Nat} (hk : k < 16) {m : Dev → Dev} (hw : (s.blade g b).word = some w) (hm : Shifts g b s (m s)) :
    let x := s.blade g b
    let t := s.bldSerial g b n k m
    if 1 < x.gap then BldHeld g b (s.fld .BLD_STATUS_PC g b) w k t ∧ t.blade g b = { x with gap := x.gap - 1 }
    else (∀ f ∈ [Fld.BLD_STATUS_RCNT, .BLD_STATUS_TCNT], t.fld f g b = (m s).fld f g b) ∧
      (if x.moved + 1 = n then BldStands g b (s.nextPc g b w) t
       else BldHeld g b (s.fld .BLD_STATUS_PC g b) w k t ∧ (t.blade g b).moved = x.moved + 1) := by
  intro x t
  by_cases hgap : 1 < x.gap
  · have ht : t = (s.updBld g b fun x => { x with gap := x.gap - 1 }).bldStall g b k := if_pos hgap
    have hacts : Acts g b s (s.updBld g b fun x => { x with gap := x.gap - 1 }) := ⟨rfl, rfl, word_updBld fun _ => rfl⟩
    rw [if_pos hgap, ht]
    exact ⟨bldStall_acts hg hb hk hacts hw rfl, ((bldStall_stalled hg hb hk).blade g b).trans (blade_updBld_same ..)⟩
  · rw [if_neg hgap]
    by_cases hlast : x.moved + 1 = n
    · have ht : t = (m s).bldDone g b none := (if_neg hgap).trans (if_pos hlast)
      have hdone := bldDone_acts hg hb (hm.acts hg hb) hw
      rw [if_pos hlast, ht]
      exact ⟨fun f hf => hdone.kept f (by revert f; decide) (by revert f; decide), hdone.stands⟩
    · have ht : t = ((m s).updBld g b fun y => { y with moved := x.moved + 1, gap := (m s).fld .BLD_FORM_BITSTEPS g b }).bldStall g b k :=
        (if_neg hgap).trans (if_neg hlast)
      have hacts : Acts g b s ((m s).updBld g b fun y => { y with moved := x.moved + 1, gap := (m s).fld .BLD_FORM_BITSTEPS g b }) :=
        (hm.acts hg hb).trans ⟨rfl, rfl, word_updBld fun _ => rfl⟩
      have hstall := bldStall_stalled (s := (m s).updBld g b fun y => { y with moved := x.moved + 1, gap := (m s).fld .BLD_FORM_BITSTEPS g b }) hg hb hk
      rw [if_neg hlast, ht]
      refine ⟨fun f hf => hstall.kept f (by revert f; decide), bldStall_acts hg hb hk hacts hw rfl, ?_⟩
      rw [hstall.blade, blade_updBld_same]

theorem bldIn_serial (hw : (s.blade g b).word = some w) (hsrc : bits w 7 6 = 0) : let x := s.blade g b
    let t := s.bldIn g b w
    if 1 < x.gap then BldHeld g b (s.fld .BLD_STATUS_PC g b) w 7 t ∧ (t.blade g b).rsr = x.rsr ∧ (t.blade g b).gap = x.gap - 1
    else t.fld .BLD_STATUS_RCNT g b = min 32 (s.fld .BLD_STATUS_RCNT g b + 1) ∧
      (if x.moved + 1 = bldCount w then BldStands g b (s.nextPc g b w) t
       else BldHeld g b (s.fld .BLD_STATUS_PC g b) w 7 t ∧ (t.blade g b).moved = x.moved + 1) := by
  intro x t
  have ht : t = s.bldSerial g b (bldCount w) stIn fun s => s.bldCollect g b (s.laneLevel g b (s.fld .BLD_FORM_IN_LANE g b)) := by
    unfold t Dev.bldIn; simp only [hsrc]
  obtain ⟨hshift, hcount⟩ := bldCollect_shifts (s := s) hg hb (s.laneLevel g b (s.fld .BLD_FORM_IN_LANE g b))
  have hserial := bldSerial_does hg hb (n := bldCount w) (k := stIn) (by decide)
    (m := fun s => s.bldCollect g b (s.laneLevel g b (s.fld .BLD_FORM_IN_LANE g b))) hw hshift
  rw [← ht] at hserial
  by_cases hgap : 1 < x.gap
  · rw [if_pos hgap]
    obtain ⟨hheld, hblade⟩ := (if_pos hgap).mp hserial
    exact ⟨hheld, by rw [hblade], by rw [hblade]⟩
  · rw [if_neg hgap]
    obtain ⟨hcounts, hend⟩ := (if_neg hgap).mp hserial
    exact ⟨(hcounts _ (by decide)).trans hcount, hend⟩

/-! ### Lanes -/

omit hb in
theorem pinWrite_regs (p : Nat) (v : Bool) (drv : Option Bool) : RegsBut [.BLD_PINSTATE] s (s.pinWrite g p v drv) := by
  have hcopy : Reg.BLD_PINSTATE.HasCopy g 0 0 := Reg.hasCopy_group hg rfl
  have hlevel := (RegsBut.refl (l := [.BLD_PINSTATE]) s).setFld (f := .BLD_PINSTATE_LEVEL) (v := putBit (s.fld .BLD_PINSTATE_LEVEL g) p v) hcopy (by decide)
  cases drv with
  | none => exact hlevel.trans (.of_regs rfl)
  | some d => exact (hlevel.setFld (f := .BLD_PINSTATE_DRIVE) hcopy (by decide)).trans (.of_regs rfl)

omit hb in
theorem laneWrite_regs (i : Nat) (v : Bool) (drv : Option Bool) : RegsBut [.BLD_PINSTATE] s (s.laneWrite g b i v drv) := by
  unfold Dev.laneWrite
  dsimp only
  split_ifs
  · exact pinWrite_regs hg ..
  · exact pinWrite_regs hg ..
  · exact .refl s

omit hg hb in
theorem laneWrite_bld (s : Dev) (i : Nat) (v : Bool) (drv : Option Bool) : (s.laneWrite g b i v drv).bld = s.bld := by
  unfold Dev.laneWrite Dev.pinWrite
  dsimp only
  split_ifs
  · rfl
  · cases drv <;> rfl
  · rfl

omit hg hb in
theorem blade_congr (h : t.bld = s.bld) (g b : Nat) : t.blade g b = s.blade g b := by rw [Dev.blade, Dev.blade, h]

theorem laneWrite_shifts (i : Nat) (v : Bool) (drv : Option Bool) : Shifts g b s (s.laneWrite g b i v drv) :=
  ⟨(laneWrite_regs hg ..).mono (by decide), (laneWrite_regs hg ..).fld (Reg.hasCopy_blade hg hb rfl) (by decide),
    congrArg BldSt.word (blade_congr (laneWrite_bld ..) ..)⟩

theorem bldOut_serial (hw : (s.blade g b).word = some w) (hdst : bits w 7 6 = 0) : let x := s.blade g b
    let t := s.bldOut g b w
    if 1 < x.gap then BldHeld g b (s.fld .BLD_STATUS_PC g b) w 8 t ∧ (t.blade g b).tsr = x.tsr ∧ (t.blade g b).gap = x.gap - 1
    else t.fld .BLD_STATUS_TCNT g b = s.fld .BLD_STATUS_TCNT g b - 1 ∧
      (if x.moved + 1 = bldCount w then BldStands g b (s.nextPc g b w) t
       else BldHeld g b (s.fld .BLD_STATUS_PC g b) w 8 t ∧ (t.blade g b).moved = x.moved + 1) := by
  intro x t
  have ht : t = s.bldSerial g b (bldCount w) stOut fun s =>
      (s.bldTake g b).2.laneWrite g b ((s.bldTake g b).2.fld .BLD_FORM_OUT_LANE g b) (s.bldTake g b).1 none := by
    unfold t Dev.bldOut; simp only [hdst]
  obtain ⟨hshift, hcount, -⟩ := bldTake_shifts hg hb s
  have hlane := laneWrite_regs (s := (s.bldTake g b).2) (b := b) hg ((s.bldTake g b).2.fld .BLD_FORM_OUT_LANE g b) (s.bldTake g b).1 none
  have hserial := bldSerial_does hg hb (n := bldCount w) (k := stOut) (by decide)
    (m := fun s => (s.bldTake g b).2.laneWrite g b ((s.bldTake g b).2.fld .BLD_FORM_OUT_LANE g b) (s.bldTake g b).1 none) hw
    (hshift.trans (laneWrite_shifts hg hb ..))
  rw [← ht] at hserial
  by_cases hgap : 1 < x.gap
  · rw [if_pos hgap]
    obtain ⟨hheld, hblade⟩ := (if_pos hgap).mp hserial
    exact ⟨hheld, by rw [hblade], by rw [hblade]⟩
  · rw [if_neg hgap]
    obtain ⟨hcounts, hend⟩ := (if_neg hgap).mp hserial
    exact ⟨(hcounts _ (by decide)).trans ((hlane.fld (Reg.hasCopy_blade hg hb rfl) (by decide)).trans hcount), hend⟩

end

end Dev

end Sys2Proof.Machine
end

section
/-! O54: PUSH, PULL, MOV, IRQ, SET and AT of a Blade (R356, R361, R363, R364). -/

namespace Sys2Proof.Machine

/-- What lies in the past has been reached. -/
theorem reached_of_inPast {t now : Nat} (h : inPast t now = true) : reached t now = true := by
  rw [reached, Bool.or_eq_true]
  exact .inr h

namespace Dev

variable {s t u : Dev} {g b w : Nat}

theorem RegsBut.updBld {l : List Reg} {f : BldSt → BldSt} (h : RegsBut l s t) : RegsBut l s (t.updBld g b f) := h.trans (.of_regs rfl)

theorem Ended.tsr {pc : Nat} (h : Ended g b pc s t) : (t.blade g b).tsr = (s.blade g b).tsr := (congrArg BldSt.tsr h.blade).trans rfl

theorem Ended.rsr {pc : Nat} (h : Ended g b pc s t) : (t.blade g b).rsr = (s.blade g b).rsr := (congrArg BldSt.rsr h.blade).trans rfl

section
variable (hg : g < 8) (hb : b < 4)

theorem bldBell_regs (f : Fld) : RegsBut bellRegs s (s.bldBell g b f) := by
  have htarget (t : Dev) : t.fld .BLD_DB_TARGET g b < 32 := bits_lt _ 4 0
  exact when_keeps (P := RegsBut bellRegs s) (fun t ht => ht.ringMask (htarget _) (List.Subset.refl _)) _ (.refl s)

theorem bldBell_bld (f : Fld) : (s.bldBell g b f).bld = s.bld := by
  unfold Dev.bldBell Dev.when
  split
  · show (s.ringMask _ _).bld = s.bld
    rw [ringMask_frame]
  · rfl

include hg hb

theorem bldBell_acts (f : Fld) : Acts g b s (s.bldBell g b f) :=
  .of_regsBut (bldBell_regs f) hg hb (by decide) (by decide) (congrArg BldSt.word (blade_congr (bldBell_bld f) ..))

theorem bldDone_stays (hw : (s.blade g b).word = some w) : Ended g b (s.nextPc g b w) s (s.bldDone g b none) := bldDone_acts hg hb (.refl s) hw

theorem count_acts {r : Reg} (hr : r.HasCopy g b 0) (hne : r ∉ [Reg.BLD_STATUS, .BLD_PCFG]) : Acts g b s (s.count r g b) := acts_setReg hg hb hr hne

/-! ### PUSH -/

omit hg hb in
/-- RXHOLD takes RSR, which empties. -/
def rxMove (g b : Nat) (s : Dev) : Dev :=
  (((s.setReg .BLD_RXHOLD (s.blade g b).rsr g b).setFlag .BLD_STATUS_RX_FULL true g b).updBld g b fun x => { x with rsr := 0 }).setFld
    .BLD_STATUS_RCNT 0 g b

theorem rxMove_does : let t := s.rxMove g b
    Acts g b s t ∧ t.reg .BLD_RXHOLD g b = (s.blade g b).rsr % 2 ^ 32 ∧ t.flag .BLD_STATUS_RX_FULL g b = true ∧ t.fld .BLD_STATUS_RCNT g b = 0 ∧
      (t.blade g b).rsr = 0 ∧ RegsBut [.BLD_STATUS, .BLD_RXHOLD] s t := by
  have hstatus : Reg.BLD_STATUS.HasCopy g b 0 := Reg.hasCopy_blade hg hb rfl
  have hhold : Reg.BLD_RXHOLD.HasCopy g b 0 := Reg.hasCopy_blade hg hb rfl
  have hpcfg : Reg.BLD_PCFG.HasCopy g b 0 := Reg.hasCopy_blade hg hb rfl
  have hregs : RegsBut [.BLD_STATUS, .BLD_RXHOLD] s (s.rxMove g b) :=
    ((((RegsBut.refl s).setReg hhold (by decide)).setFlag (f := .BLD_STATUS_RX_FULL) hstatus (by decide)).updBld).setFld
      (f := .BLD_STATUS_RCNT) hstatus (by decide)
  refine ⟨⟨?_, hregs.fld hpcfg (by decide), by rw [rxMove, blade_setFld, blade_updBld_same, setFlag, blade_setFld, blade_setReg]⟩, ?_, ?_, ?_, ?_, hregs⟩
  · rw [rxMove, setFlag, fld_setFld_of_beside _ (by decide) (by decide) (by decide), fld_updBld,
      fld_setFld_of_beside _ (by decide) (by decide) (by decide), fld_setReg_of_apart _ hstatus hhold (by decide)]
  · rw [rxMove, setFlag, reg_setFld_of_apart _ hhold hstatus (by decide), reg_updBld, reg_setFld_of_apart _ hhold hstatus (by decide), reg_setReg_same]
  · rw [rxMove, setFlag, flag_setFld_of_beside _ (by decide) (by decide) (by decide), flag_updBld, flag_setFld_b2n _ (by decide)]
  · rw [rxMove, fld_setFld_of_fits _ (by decide) (by decide)]
  · rw [rxMove, blade_setFld, blade_updBld_same]

theorem bldPush_does (hw : (s.blade g b).word = some w) : let full := s.flag .BLD_STATUS_RX_FULL g b
    let t := s.bldPush g b w
    if bit w 6 = true ∧ s.fld .BLD_STATUS_RCNT g b < s.rxBits g b then BldStands g b (s.nextPc g b w) t ∧ t.reg .BLD_RXHOLD g b = s.reg .BLD_RXHOLD g b
    else if full = true ∧ bit w 7 = false then BldHeld g b (s.fld .BLD_STATUS_PC g b) w 3 t
    else BldStands g b (s.nextPc g b w) t ∧ t.reg .BLD_RXHOLD g b = (s.blade g b).rsr % 2 ^ 32 ∧ t.flag .BLD_STATUS_RX_FULL g b = true ∧
      (t.blade g b).rsr = 0 ∧ t.fld .BLD_STATUS_RCNT g b = 0 ∧
      (full = true → t.reg .BLD_OVERRUN_CNT g b = min (s.reg .BLD_OVERRUN_CNT g b + 1) 0xFFFFFFFF) := by
  intro full t
  have hstatus : Reg.BLD_STATUS.HasCopy g b 0 := Reg.hasCopy_blade hg hb rfl
  have hhold : Reg.BLD_RXHOLD.HasCopy g b 0 := Reg.hasCopy_blade hg hb rfl
  have hover : Reg.BLD_OVERRUN_CNT.HasCopy g b 0 := Reg.hasCopy_blade hg hb rfl
  split
  · next hauto =>
    have ht : t = s.bldDone g b none := if_pos (by simp [hauto])
    have hdone := bldDone_stays hg hb hw
    rw [ht]
    exact ⟨hdone.stands, hdone.reg hhold (by decide)⟩
  next hauto =>
  have hauto' : ¬((bit w 6 && decide (s.fld .BLD_STATUS_RCNT g b < s.rxBits g b)) = true) := by simpa using hauto
  split
  · next hblock =>
    have ht : t = s.bldStall g b stPush := (if_neg hauto').trans (if_pos (by simp [show s.flag .BLD_STATUS_RX_FULL g b = true from hblock.1, hblock.2]))
    rw [ht]
    exact bldStall_acts hg hb (by decide) (.refl s) hw rfl
  next hblock =>
  have hblock' : ¬((s.flag .BLD_STATUS_RX_FULL g b && !bit w 7) = true) := by simpa using hblock
  cases hfull : s.flag .BLD_STATUS_RX_FULL g b
  · obtain ⟨hacts, hdata, hset, hcnt, hrsr, -⟩ := rxMove_does (s := s) hg hb
    have ht : t = ((s.rxMove g b).bldBell g b .BLD_DB_EV_RX).bldDone g b none := by
      unfold t Dev.bldPush
      dsimp only
      rw [if_neg hauto', if_neg hblock', hfull]
      simp only [Bool.false_eq_true, if_false]
      rfl
    have hbell := bldBell_regs (s := s.rxMove g b) (g := g) (b := b) .BLD_DB_EV_RX
    have hdone := bldDone_acts hg hb (hacts.trans (bldBell_acts hg hb .BLD_DB_EV_RX)) hw
    rw [ht]
    refine ⟨hdone.stands, (hdone.reg hhold (by decide)).trans ((hbell.reg _ _ _ _ hhold (by decide)).trans hdata), ?_, ?_, ?_, fun h => absurd (h.symm.trans hfull) (by decide)⟩
    · exact (congrArg (· != 0) ((hdone.kept _ (by decide) (by decide)).trans (hbell.fld hstatus (by decide)))).trans hset
    · rw [hdone.rsr, blade_congr (bldBell_bld _), hrsr]
    · exact (hdone.kept _ (by decide) (by decide)).trans ((hbell.fld hstatus (by decide)).trans hcnt)
  · obtain ⟨hacts, hdata, hset, hcnt, hrsr, hregs⟩ := rxMove_does (s := s.count .BLD_OVERRUN_CNT g b) hg hb
    have hdone := bldDone_acts hg hb ((count_acts hg hb hover (by decide)).trans hacts) hw
    have ht : t = ((s.count .BLD_OVERRUN_CNT g b).rxMove g b).bldDone g b none := by
      unfold t Dev.bldPush
      dsimp only
      rw [if_neg hauto', if_neg hblock', hfull]
      simp only [if_true]
      rfl
    rw [ht]
    refine ⟨hdone.stands, (hdone.reg hhold (by decide)).trans hdata, ?_, ?_, (hdone.kept _ (by decide) (by decide)).trans hcnt, fun _ => ?_⟩
    · exact (congrArg (· != 0) (hdone.kept _ (by decide) (by decide))).trans hset
    · rw [hdone.rsr, hrsr]
    · exact (hdone.reg hover (by decide)).trans ((hregs.reg _ _ _ _ hover (by decide)).trans (reg_count_same ..))

/-! ### PULL -/

omit hg hb in
/-- TSR takes TXHOLD, with the count of its bits. -/
def txMove (g b : Nat) (s : Dev) : Dev :=
  (s.updBld g b fun x => { x with tsr := s.reg .BLD_TXHOLD g b }).setFld .BLD_STATUS_TCNT (s.txBits g b) g b

omit hg hb in
theorem txBits_lt (s : Dev) (g b : Nat) : s.txBits g b < 64 := by
  have hform : s.fld .BLD_FORM_TXBITS g b < 32 := s.fld_lt ..
  unfold Dev.txBits
  split <;> omega

theorem txMove_does : let t := s.txMove g b
    Acts g b s t ∧ t.fld .BLD_STATUS_TCNT g b = s.txBits g b ∧ (t.blade g b).tsr = s.reg .BLD_TXHOLD g b ∧
      t.flag .BLD_STATUS_TX_FULL g b = s.flag .BLD_STATUS_TX_FULL g b ∧ RegsBut [.BLD_STATUS] s t := by
  have hstatus : Reg.BLD_STATUS.HasCopy g b 0 := Reg.hasCopy_blade hg hb rfl
  have hpcfg : Reg.BLD_PCFG.HasCopy g b 0 := Reg.hasCopy_blade hg hb rfl
  have hregs : RegsBut [.BLD_STATUS] s (s.txMove g b) :=
    (RegsBut.refl s).updBld.setFld (f := .BLD_STATUS_TCNT) hstatus (by decide)
  refine ⟨⟨?_, hregs.fld hpcfg (by decide), by rw [txMove, blade_setFld, blade_updBld_same]⟩,
    fld_setFld_of_fits _ (by decide) (txBits_lt ..), ?_, ?_, hregs⟩
  · rw [txMove, fld_setFld_of_beside _ (by decide) (by decide) (by decide), fld_updBld]
  · rw [txMove, blade_setFld, blade_updBld_same]
  · rw [txMove, flag_setFld_of_beside _ (by decide) (by decide) (by decide), flag_updBld]

theorem bldPull_does (hw : (s.blade g b).word = some w) : let full := s.flag .BLD_STATUS_TX_FULL g b
    let t := s.bldPull g b w
    if bit w 6 = true ∧ s.fld .BLD_STATUS_TCNT g b ≠ 0 then BldStands g b (s.nextPc g b w) t ∧ (t.blade g b).tsr = (s.blade g b).tsr
    else if full = false ∧ bit w 7 = false then BldHeld g b (s.fld .BLD_STATUS_PC g b) w 2 t
    else BldStands g b (s.nextPc g b w) t ∧ (t.blade g b).tsr = s.reg .BLD_TXHOLD g b ∧ t.flag .BLD_STATUS_TX_FULL g b = false ∧
      t.fld .BLD_STATUS_TCNT g b = s.txBits g b ∧
      (full = false → t.reg .BLD_UNDERRUN_CNT g b = min (s.reg .BLD_UNDERRUN_CNT g b + 1) 0xFFFFFFFF) := by
  intro full t
  have hstatus : Reg.BLD_STATUS.HasCopy g b 0 := Reg.hasCopy_blade hg hb rfl
  have hpcfg : Reg.BLD_PCFG.HasCopy g b 0 := Reg.hasCopy_blade hg hb rfl
  have hunder : Reg.BLD_UNDERRUN_CNT.HasCopy g b 0 := Reg.hasCopy_blade hg hb rfl
  split
  · next hauto =>
    have ht : t = s.bldDone g b none := if_pos (by simp [hauto])
    have hdone := bldDone_stays hg hb hw
    rw [ht]
    exact ⟨hdone.stands, hdone.tsr⟩
  next hauto =>
  have hauto' : ¬((bit w 6 && s.fld .BLD_STATUS_TCNT g b != 0) = true) := by simpa using hauto
  split
  · next hblock =>
    have ht : t = s.bldStall g b stPull := (if_neg hauto').trans (if_pos (by simp [show s.flag .BLD_STATUS_TX_FULL g b = false from hblock.1, hblock.2]))
    rw [ht]
    exact bldStall_acts hg hb (by decide) (.refl s) hw rfl
  next hblock =>
  have hblock' : ¬((!s.flag .BLD_STATUS_TX_FULL g b && !bit w 7) = true) := by simpa using hblock
  obtain ⟨hacts, hcnt, htsr, hkeep, hregs⟩ := txMove_does (s := s) hg hb
  cases hfull : s.flag .BLD_STATUS_TX_FULL g b
  · have hdone := bldDone_acts hg hb (hacts.trans (count_acts hg hb hunder (by decide))) hw
    have hstat (f : Fld) (hf : f.reg = .BLD_STATUS) : ((s.txMove g b).count .BLD_UNDERRUN_CNT g b).fld f g b = (s.txMove g b).fld f g b :=
      fld_countBy_of_apart _ (by rw [hf]; exact hstatus) hunder (by rw [hf]; decide) 1
    have ht : t = ((s.txMove g b).count .BLD_UNDERRUN_CNT g b).bldDone g b none := by
      unfold t Dev.bldPull
      dsimp only
      rw [if_neg hauto', if_neg hblock', hfull]
      simp only [Bool.false_eq_true, if_false]
      rfl
    rw [ht]
    refine ⟨hdone.stands, ?_, ?_, (hdone.kept _ (by decide) (by decide)).trans ((hstat _ rfl).trans hcnt), fun _ => ?_⟩
    · rw [hdone.tsr, count, blade_countBy, htsr]
    · exact (congrArg (· != 0) ((hdone.kept _ (by decide) (by decide)).trans (hstat _ rfl))).trans (hkeep.trans hfull)
    · exact (hdone.reg hunder (by decide)).trans ((reg_count_same ..).trans (by rw [hregs.reg _ _ _ _ hunder (by decide)]))
  · have hset : Acts g b (s.txMove g b) ((s.txMove g b).setFld .BLD_STATUS_TX_FULL (b2n false) g b) :=
      ⟨by simp +decide, fld_setFld_of_apart _ hpcfg hstatus (by decide) _, congrArg BldSt.word (blade_setFld ..)⟩
    have hbell := bldBell_regs (s := (s.txMove g b).setFld .BLD_STATUS_TX_FULL (b2n false) g b) (g := g) (b := b) .BLD_DB_EV_TX
    have hdone := bldDone_acts hg hb ((hacts.trans hset).trans (bldBell_acts hg hb .BLD_DB_EV_TX)) hw
    have hstat (f : Fld) (hf : f ∈ shiftFlds) (hne : f ≠ .BLD_STATUS_PC) := (hdone.kept f hf hne).trans
      (hbell.fld (by rw [show f.reg = .BLD_STATUS by revert f; decide]; exact hstatus) (by rw [show f.reg = .BLD_STATUS by revert f; decide]; decide))
    have ht : t = (((s.txMove g b).setFld .BLD_STATUS_TX_FULL (b2n false) g b).bldBell g b .BLD_DB_EV_TX).bldDone g b none := by
      unfold t Dev.bldPull
      dsimp only
      rw [if_neg hauto', if_neg hblock', hfull]
      simp only [if_true]
      rfl
    rw [ht]
    refine ⟨hdone.stands, ?_, ?_, ?_, fun h => absurd (h.symm.trans hfull) (by decide)⟩
    · rw [hdone.tsr, blade_congr (bldBell_bld _), blade_setFld, htsr]
    · exact (congrArg (· != 0) (hstat _ (by decide) (by decide))).trans (flag_setFld_b2n _ (by decide) false)
    · exact (hstat _ (by decide) (by decide)).trans ((fld_setFld_of_beside _ (by decide) (by decide) (by decide) _).trans hcnt)

end

end Dev

end Sys2Proof.Machine
end

section
/-! O54: MOV, IRQ, SET, AT and illegal words of a Blade (R356, R358, R361). -/

namespace Sys2Proof.Machine

namespace Dev

variable {s t u : Dev} {g b w : Nat}

/-- The source of a MOV. -/
def movFrom (s : Dev) (g b w : Nat) : Nat :=
  if bits w 2 0 = 0 then s.reg .BLD_G g b else if bits w 2 0 = 1 then s.reg .BLD_C g b else if bits w 2 0 = 2 then (s.blade g b).tsr
  else if bits w 2 0 = 3 then (s.blade g b).rsr else if bits w 2 0 = 4 then s.bldNow (s.fld .BLD_CLK_TB g b)
  else ((List.range 4).map fun i => b2n (s.laneLevel g b i) * 2 ^ i).sum * if bits w 2 0 = 5 then 1 else 0

/-- The destination of a MOV takes a value. -/
def movTo (s : Dev) (g b w v : Nat) : Dev :=
  match bits w 7 5 with
  | 0 => (s.setReg .BLD_G v g b).bldDone g b none
  | 1 => (s.setReg .BLD_C (v % 65536) g b).bldDone g b none
  | 2 => ((s.updBld g b fun x => { x with tsr := v }).setFld .BLD_STATUS_TCNT (s.txBits g b) g b).bldDone g b none
  | 3 => ((s.updBld g b fun x => { x with rsr := v }).setFld .BLD_STATUS_RCNT 0 g b).bldDone g b none
  | 4 => (s.setReg .BLD_T v g b).bldDone g b none
  | 5 => s.bldDone g b (some (v % 64))
  | _ => (s.each (List.range 4) fun i s => s.laneWrite g b i (bit v i) none).bldDone g b none

theorem bldMov_eq (s : Dev) (g b w : Nat) : s.bldMov g b w = s.movTo g b w (movOp (bits w 4 3) (s.movFrom g b w)) := by
  have hsrc : (match bits w 2 0 with
      | 0 => s.reg .BLD_G g b
      | 1 => s.reg .BLD_C g b
      | 2 => (s.blade g b).tsr
      | 3 => (s.blade g b).rsr
      | 4 => s.bldNow (s.fld .BLD_CLK_TB g b)
      | 5 => b2n (s.laneLevel g b 0) + 2 * b2n (s.laneLevel g b 1) + 4 * b2n (s.laneLevel g b 2) + 8 * b2n (s.laneLevel g b 3)
      | _ => 0) = s.movFrom g b w := by
    unfold movFrom
    split
    · next h => rw [if_pos h]
    · next h => rw [if_neg (by omega), if_pos h]
    · next h => rw [if_neg (by omega), if_neg (by omega), if_pos h]
    · next h => rw [if_neg (by omega), if_neg (by omega), if_neg (by omega), if_pos h]
    · next h => rw [if_neg (by omega), if_neg (by omega), if_neg (by omega), if_neg (by omega), if_pos h]
    · next h =>
      rw [if_neg (by omega), if_neg (by omega), if_neg (by omega), if_neg (by omega), if_neg (by omega), if_pos h]
      simp only [List.range_succ, List.range_zero, List.nil_append, List.cons_append, List.map_cons, List.map_nil, List.sum_cons, List.sum_nil]
      ring
    · next h0 h1 h2 h3 h4 h5 => rw [if_neg h0, if_neg h1, if_neg h2, if_neg h3, if_neg h4, if_neg h5, Nat.mul_zero]
  rw [← hsrc]
  rfl

section
variable (hg : g < 8) (hb : b < 4)
include hg hb

theorem movTo_reg {r : Reg} {v : Nat} (hr : r.HasCopy g b 0) (hne : r ∉ [Reg.BLD_STATUS, .BLD_PCFG, .BLD_ILLEGAL_CNT]) (hw : (s.blade g b).word = some w) :
    let t := (s.setReg r v g b).bldDone g b none
    BldStands g b (s.nextPc g b w) t ∧ t.reg r g b = v % 2 ^ 32 := by
  have hne' : r ≠ .BLD_STATUS ∧ r ≠ .BLD_PCFG ∧ r ≠ .BLD_ILLEGAL_CNT := by simpa using hne
  obtain ⟨hstatus, hpcfg, hill⟩ := hne'
  have hdone := bldDone_acts hg hb (acts_setReg hg hb (v := v) hr (by simp [hstatus, hpcfg])) hw
  exact ⟨hdone.stands, (hdone.reg hr (by simp [hstatus, hill])).trans (reg_setReg_same ..)⟩

theorem movTo_shift {f : Fld} (hf : f = .BLD_STATUS_RCNT ∨ f = .BLD_STATUS_TCNT) {k : Nat} (hk : k < 64) {c : BldSt → BldSt} (hc : ∀ x, (c x).word = x.word)
    (hw : (s.blade g b).word = some w) : let t := ((s.updBld g b c).setFld f k g b).bldDone g b none
    BldStands g b (s.nextPc g b w) t ∧ t.fld f g b = k ∧ t.blade g b = (c (s.blade g b)).over := by
  have hdone := bldDone_acts hg hb ((shifts_count (k := k) hg hb hf hc).acts hg hb) hw
  have hmem : f ∈ shiftFlds ∧ f ≠ .BLD_STATUS_PC := by rcases hf with rfl | rfl <;> decide
  have hfits : (f.lo ≤ f.hi ∧ f.hi < 32) ∧ 64 ≤ 2 ^ (f.hi + 1 - f.lo) := by rcases hf with rfl | rfl <;> decide
  refine ⟨hdone.stands, (hdone.kept f hmem.1 hmem.2).trans (fld_setFld_of_fits _ hfits.1 (Nat.lt_of_lt_of_le hk hfits.2)), ?_⟩
  rw [hdone.blade, blade_setFld, blade_updBld_same]

theorem laneWrites_shifts (f : Nat → Bool) (l : List Nat) (s : Dev) : Shifts g b s (s.each l fun i s => s.laneWrite g b i (f i) none) := by
  induction l generalizing s with
  | nil => exact .refl s
  | cons i l ih => exact (laneWrite_shifts hg hb ..).trans (ih _)

theorem movTo_does {v : Nat} (hw : (s.blade g b).word = some w) (hdst : bits w 7 5 ≠ 7) : let t := s.movTo g b w v
    (bits w 7 5 ≠ 5 → BldStands g b (s.nextPc g b w) t) ∧
    (bits w 7 5 = 0 → t.reg .BLD_G g b = v % 2 ^ 32) ∧ (bits w 7 5 = 1 → t.reg .BLD_C g b = v % 2 ^ 16) ∧
    (bits w 7 5 = 2 → (t.blade g b).tsr = v ∧ t.fld .BLD_STATUS_TCNT g b = s.txBits g b) ∧
    (bits w 7 5 = 3 → (t.blade g b).rsr = v ∧ t.fld .BLD_STATUS_RCNT g b = 0) ∧ (bits w 7 5 = 4 → t.reg .BLD_T g b = v % 2 ^ 32) ∧
    (bits w 7 5 = 5 → BldStands g b (if 48 ≤ v % 64 then 0 else v % 64) t) := by
  have hlt : bits w 7 5 < 8 := bits_lt w 7 5
  have hcopy {r : Reg} (h : r.info.strides.map Prod.snd = [8, 4]) : r.HasCopy g b 0 := Reg.hasCopy_blade hg hb h
  unfold movTo
  obtain h | h | h | h | h | h | h : bits w 7 5 = 0 ∨ bits w 7 5 = 1 ∨ bits w 7 5 = 2 ∨ bits w 7 5 = 3 ∨ bits w 7 5 = 4 ∨ bits w 7 5 = 5 ∨ bits w 7 5 = 6 := by
    omega
  all_goals simp only [h, ne_eq, not_false_eq_true, not_true_eq_false, forall_const, false_imp_iff, true_and, and_true,
    Nat.reduceEqDiff, OfNat.ofNat_ne_zero, OfNat.ofNat_ne_one, OfNat.zero_ne_ofNat, OfNat.one_ne_ofNat, Nat.zero_ne_one, Nat.one_ne_zero]
  · exact movTo_reg hg hb (hcopy rfl) (by decide) hw
  · obtain ⟨hstands, hval⟩ := movTo_reg (s := s) (v := v % 65536) hg hb (r := .BLD_C) (hcopy rfl) (by decide) hw
    refine ⟨hstands, hval.trans ?_⟩
    exact Nat.mod_eq_of_lt (Nat.lt_trans (Nat.mod_lt v (by decide : 0 < 65536)) (by decide))
  · obtain ⟨hstands, hcnt, hblade⟩ := movTo_shift (s := s) hg hb (.inr rfl) (txBits_lt s g b) (c := fun x => { x with tsr := v }) (fun _ => rfl) hw
    exact ⟨hstands, by rw [hblade]; rfl, hcnt⟩
  · obtain ⟨hstands, hcnt, hblade⟩ := movTo_shift (s := s) hg hb (.inl rfl) (k := 0) (by decide) (c := fun x => { x with rsr := v }) (fun _ => rfl) hw
    exact ⟨hstands, by rw [hblade]; rfl, hcnt⟩
  · exact movTo_reg hg hb (hcopy rfl) (by decide) hw
  · exact (bldDone_to hg hb (Nat.mod_lt v (by decide : 0 < 64))).1.stands
  · exact (bldDone_acts hg hb ((laneWrites_shifts hg hb _ _ s).acts hg hb) hw).stands

/-! ### IRQ -/

omit hg hb in
theorem bldIrq_raises (h : bits w 7 6 = 0) : s.bldIrq g b w = (s.flagRise g (s.flagOf g b w) b (s.fld .BLD_CLK_TB g b)).bldDone g b none := by
  simp only [Dev.bldIrq, h]

theorem bldIrq_clears (hw : (s.blade g b).word = some w) (h : bits w 7 6 = 1) : let t := s.bldIrq g b w
    BldStands g b (s.nextPc g b w) t ∧ t.fld .BLD_FLAGS_FLAG g = putBit (s.fld .BLD_FLAGS_FLAG g) (s.flagOf g b w) false := by
  have hirq : s.bldIrq g b w = (s.flagClear g (2 ^ s.flagOf g b w)).bldDone g b none := by simp only [Dev.bldIrq, h]
  have hdone := bldDone_acts hg hb (flagClear_acts hg hb (2 ^ s.flagOf g b w)) hw
  rw [hirq]
  exact ⟨hdone.stands, (hdone.fld (Reg.hasCopy_group hg rfl) (by decide)).trans (flagClear_one (flagOf_lt ..))⟩

omit hg hb in
theorem bldIrq_waits (h : bits w 7 6 = 2) (hacted : (s.blade g b).acted = false) : s.bldIrq g b w =
    ((s.flagRise g (s.flagOf g b w) b (s.fld .BLD_CLK_TB g b)).updBld g b fun x => { x with acted := true }).bldStall g b 4 := by
  simp only [Dev.bldIrq, h, hacted]
  rfl

theorem bldIrq_acted (hw : (s.blade g b).word = some w) (h : bits w 7 6 = 2) (hacted : (s.blade g b).acted = true) : let t := s.bldIrq g b w
    (if bit (s.fld .BLD_FLAGS_FLAG g) (s.flagOf g b w) = true then BldHeld g b (s.fld .BLD_STATUS_PC g b) w 4 t else BldStands g b (s.nextPc g b w) t) ∧
      t.fld .BLD_FLAGS_FLAG g = s.fld .BLD_FLAGS_FLAG g := by
  have hflags : Reg.BLD_FLAGS.HasCopy g 0 0 := Reg.hasCopy_group hg rfl
  have hirq : s.bldIrq g b w = if bit (s.fld .BLD_FLAGS_FLAG g) (s.flagOf g b w) = true then s.bldStall g b stIrq else s.bldDone g b none := by
    simp only [Dev.bldIrq, h, hacted, Bool.not_true, Bool.false_eq_true, if_false]
  rw [hirq]
  split
  · exact ⟨bldStall_acts hg hb (by decide) (.refl s) hw rfl, (bldStall_stalled hg hb (by decide)).regs.fld hflags (by decide)⟩
  · have hdone := bldDone_stays hg hb hw
    exact ⟨hdone.stands, hdone.fld hflags (by decide)⟩

/-! ### SET -/

omit hg hb in
theorem laneCfg_fst_lt (s : Dev) (g b i : Nat) : (s.laneCfg g b i).1 < 8 := bits_lt _ 2 0

omit hg hb in
theorem laneWrite_shows (i : Nat) (v d : Bool) : let l := s.laneCfg g b i
    let t := s.laneWrite g b i v (some d)
    (l.2.1 = 2 ∨ l.2.1 = 3 → t.fld .BLD_PINSTATE_LEVEL g = putBit (s.fld .BLD_PINSTATE_LEVEL g) l.1 v ∧
      t.fld .BLD_PINSTATE_DRIVE g = putBit (s.fld .BLD_PINSTATE_DRIVE g) l.1 (l.2.1 == 2 || d)) ∧
    (l.2.1 < 2 → t.reg .BLD_PINSTATE g = s.reg .BLD_PINSTATE g) := by
  intro l t
  have hpin (d : Bool) : (s.pinWrite g l.1 v (some d)).fld .BLD_PINSTATE_LEVEL g = putBit (s.fld .BLD_PINSTATE_LEVEL g) l.1 v ∧
      (s.pinWrite g l.1 v (some d)).fld .BLD_PINSTATE_DRIVE g = putBit (s.fld .BLD_PINSTATE_DRIVE g) l.1 d := by
    have hl : l.1 < 8 := laneCfg_fst_lt ..
    have hlevel : putBit (s.fld .BLD_PINSTATE_LEVEL g) l.1 v < 2 ^ 8 := putBits_lt (Nat.le_refl _) hl (s.fld_lt ..) _
    have hdrive : putBit (s.fld .BLD_PINSTATE_DRIVE g) l.1 d < 2 ^ 8 := putBits_lt (Nat.le_refl _) hl (s.fld_lt ..) _
    have hwrite : s.pinWrite g l.1 v (some d) = ((s.setFld .BLD_PINSTATE_LEVEL (putBit (s.fld .BLD_PINSTATE_LEVEL g) l.1 v) g).setFld .BLD_PINSTATE_DRIVE
        (putBit ((s.setFld .BLD_PINSTATE_LEVEL (putBit (s.fld .BLD_PINSTATE_LEVEL g) l.1 v) g).fld .BLD_PINSTATE_DRIVE g) l.1 d) g).updGrp g
          fun x => { x with safe := putBit x.safe l.1 false } := rfl
    have hgrp (u : Dev) (f : BldGrp → BldGrp) (k : Fld) : (u.updGrp g f).fld k g = u.fld k g := rfl
    rw [hwrite, hgrp, hgrp, fld_setFld_of_beside s (g := .BLD_PINSTATE_DRIVE) (by decide) (by decide) (by decide)]
    refine ⟨?_, fld_setFld_of_fits _ (by decide) hdrive⟩
    rw [fld_setFld_of_beside _ (by decide) (by decide) (by decide), fld_setFld_of_fits _ (by decide) hlevel]
  refine ⟨fun hout => ?_, fun hin => ?_⟩
  · rcases hout with h2 | h3
    · have ht : t = s.pinWrite g l.1 v (some true) := if_pos h2
      rw [ht, h2]
      exact hpin true
    · have hne : l.2.1 ≠ 2 := by omega
      have ht : t = s.pinWrite g l.1 v (some d) := (if_neg hne).trans (if_pos h3)
      rw [ht, h3]
      exact hpin d
  · have hne : l.2.1 ≠ 2 ∧ l.2.1 ≠ 3 := by omega
    have ht : t = s := (if_neg hne.1).trans (if_neg hne.2)
    rw [ht]

theorem bldSet_does (hw : (s.blade g b).word = some w) (h3 : bits w 7 6 ≠ 3) : let t := s.bldSet g b w
    BldStands g b (s.nextPc g b w) t ∧
    (bits w 7 6 = 1 → t.reg .BLD_C g b = bits w 5 0) ∧ (bits w 7 6 = 2 → t.reg .BLD_G g b = bits w 5 0) ∧
    (bits w 7 6 = 0 → let l := s.laneCfg g b (bits w 1 0)
      (l.2.1 = 2 ∨ l.2.1 = 3 → t.fld .BLD_PINSTATE_LEVEL g = putBit (s.fld .BLD_PINSTATE_LEVEL g) l.1 (bit w 2) ∧
        t.fld .BLD_PINSTATE_DRIVE g = putBit (s.fld .BLD_PINSTATE_DRIVE g) l.1 (l.2.1 == 2 || bit w 3)) ∧
      (l.2.1 < 2 → t.reg .BLD_PINSTATE g = s.reg .BLD_PINSTATE g)) := by
  intro t
  have hlt : bits w 7 6 < 4 := bits_lt w 7 6
  have hdata : bits w 5 0 < 2 ^ 32 := Nat.lt_trans (bits_lt w 5 0) (by decide)
  have hpins : Reg.BLD_PINSTATE.HasCopy g 0 0 := Reg.hasCopy_group hg rfl
  obtain h | h | h : bits w 7 6 = 0 ∨ bits w 7 6 = 1 ∨ bits w 7 6 = 2 := by omega
  · have hsub : bits (bits w 5 0) 1 0 = bits w 1 0 ∧ bit (bits w 5 0) 2 = bit w 2 ∧ bit (bits w 5 0) 3 = bit w 3 := by
      refine ⟨?_, ?_, ?_⟩ <;> simp only [bits, bit, beq_eq_beq] <;> omega
    obtain ⟨hlane, hlevel, hdrive⟩ := hsub
    have ht : t = (s.laneWrite g b (bits w 1 0) (bit w 2) (some (bit w 3))).bldDone g b none := by
      unfold t Dev.bldSet
      simp only [h, hlane, hlevel, hdrive]
    have hdone := bldDone_acts hg hb ((laneWrite_shifts (s := s) hg hb (bits w 1 0) (bit w 2) (some (bit w 3))).acts hg hb) hw
    obtain ⟨hout, hin⟩ := laneWrite_shows (s := s) (g := g) (b := b) (bits w 1 0) (bit w 2) (bit w 3)
    rw [ht]
    refine ⟨hdone.stands, fun h1 => absurd (h.symm.trans h1) (by decide), fun h2 => absurd (h.symm.trans h2) (by decide), fun _ => ?_⟩
    intro l
    refine ⟨fun hk => ?_, fun hk => (hdone.reg hpins (by decide)).trans (hin hk)⟩
    exact ⟨(hdone.fld hpins (by decide)).trans (hout hk).1, (hdone.fld hpins (by decide)).trans (hout hk).2⟩
  · have ht : t = (s.setReg .BLD_C (bits w 5 0) g b).bldDone g b none := by unfold t Dev.bldSet; simp only [h]
    obtain ⟨hstands, hval⟩ := movTo_reg (s := s) (v := bits w 5 0) hg hb (r := .BLD_C) (Reg.hasCopy_blade hg hb rfl) (by decide) hw
    rw [ht]
    exact ⟨hstands, fun _ => hval.trans (Nat.mod_eq_of_lt hdata), fun h2 => absurd (h.symm.trans h2) (by decide), fun h0 => absurd (h.symm.trans h0) (by decide)⟩
  · have ht : t = (s.setReg .BLD_G (bits w 5 0) g b).bldDone g b none := by unfold t Dev.bldSet; simp only [h]
    obtain ⟨hstands, hval⟩ := movTo_reg (s := s) (v := bits w 5 0) hg hb (r := .BLD_G) (Reg.hasCopy_blade hg hb rfl) (by decide) hw
    rw [ht]
    exact ⟨hstands, fun h1 => absurd (h.symm.trans h1) (by decide), fun _ => hval.trans (Nat.mod_eq_of_lt hdata), fun h0 => absurd (h.symm.trans h0) (by decide)⟩

end

end Dev

end Sys2Proof.Machine
end

section
/-! O54: AT, illegal words and the step of a Blade, which sees the pins and latches its word first (R358 to R361, R369). -/

namespace Sys2Proof.Machine

namespace Dev

variable {s t u : Dev} {g b w : Nat}

section
variable (hg : g < 8) (hb : b < 4)
include hg hb

/-! ### AT -/

/-- The target of an AT. -/
def atTarget (s : Dev) (g b w : Nat) : Nat :=
  ((if bits w 7 6 = 0 then 0 else s.reg .BLD_T g b) + (if bits w 7 6 = 2 then s.reg .BLD_ATSTEP g b else s.reg .BLD_G g b)) % 2 ^ 32

omit hg hb in
theorem bldAt_eq (h3 : bits w 7 6 ≠ 3) (hacted : (s.blade g b).acted = false) : let now := s.bldNow (s.fld .BLD_CLK_TB g b)
    let u := s.setReg .BLD_T (s.atTarget g b w) g b
    s.bldAt g b w = if inPast (s.atTarget g b w) now = true then (u.count .BLD_LATE_CNT g b).bldDone g b none
      else if reached (s.atTarget g b w) now = true then u.bldDone g b none
      else (u.updBld g b fun x => { x with acted := true }).bldStall g b stAt := by
  have hlt : bits w 7 6 < 4 := bits_lt w 7 6
  have htarget : (match bits w 7 6 with
      | 0 => s.reg .BLD_G g b
      | 1 => s.reg .BLD_T g b + s.reg .BLD_G g b
      | _ => s.reg .BLD_T g b + s.reg .BLD_ATSTEP g b) % 2 ^ 32 = s.atTarget g b w := by
    unfold atTarget
    obtain h | h | h : bits w 7 6 = 0 ∨ bits w 7 6 = 1 ∨ bits w 7 6 = 2 := by omega
    all_goals simp [h]
  intro now u
  rw [Dev.bldAt, hacted, if_neg Bool.false_ne_true]
  simp only [u, now, ← htarget] <;> rfl

theorem bldAt_does (hw : (s.blade g b).word = some w) (h3 : bits w 7 6 ≠ 3) (hacted : (s.blade g b).acted = false) :
    let now := s.bldNow (s.fld .BLD_CLK_TB g b)
    let T := s.atTarget g b w
    let t := s.bldAt g b w
    t.reg .BLD_T g b = T ∧ (if reached T now = true then BldStands g b (s.nextPc g b w) t else BldHeld g b (s.fld .BLD_STATUS_PC g b) w 5 t) ∧
      t.reg .BLD_LATE_CNT g b = if inPast T now = true then min (s.reg .BLD_LATE_CNT g b + 1) 0xFFFFFFFF else s.reg .BLD_LATE_CNT g b := by
  intro now T t
  have hT : Reg.BLD_T.HasCopy g b 0 := Reg.hasCopy_blade hg hb rfl
  have hlate : Reg.BLD_LATE_CNT.HasCopy g b 0 := Reg.hasCopy_blade hg hb rfl
  have hset : Acts g b s (s.setReg .BLD_T T g b) := acts_setReg hg hb hT (by decide)
  have hval : (s.setReg .BLD_T T g b).reg .BLD_T g b = T := (reg_setReg_same ..).trans (Nat.mod_mod _ _)
  have hcnt : (s.setReg .BLD_T T g b).reg .BLD_LATE_CNT g b = s.reg .BLD_LATE_CNT g b := reg_setReg_of_apart s hlate hT (by decide) _
  have ht := bldAt_eq (s := s) (g := g) (b := b) h3 hacted
  by_cases hpast : inPast T now = true
  · have ht' : t = ((s.setReg .BLD_T T g b).count .BLD_LATE_CNT g b).bldDone g b none := ht.trans (if_pos hpast)
    have hdone := bldDone_acts hg hb (hset.trans (count_acts hg hb hlate (by decide))) hw
    rw [ht', if_pos hpast, if_pos (reached_of_inPast hpast)]
    refine ⟨(hdone.reg hT (by decide)).trans ((reg_countBy_of_apart _ hT hlate (by decide) 1).trans hval), hdone.stands, ?_⟩
    rw [hdone.reg hlate (by decide), reg_count_same, hcnt]
  rw [if_neg hpast]
  by_cases hreached : reached T now = true
  · have ht' : t = (s.setReg .BLD_T T g b).bldDone g b none := ht.trans ((if_neg hpast).trans (if_pos hreached))
    have hdone := bldDone_acts hg hb hset hw
    rw [ht', if_pos hreached]
    exact ⟨(hdone.reg hT (by decide)).trans hval, hdone.stands, (hdone.reg hlate (by decide)).trans hcnt⟩
  · have ht' : t = ((s.setReg .BLD_T T g b).updBld g b fun x => { x with acted := true }).bldStall g b stAt :=
      ht.trans ((if_neg hpast).trans (if_neg hreached))
    have hacts : Acts g b s ((s.setReg .BLD_T T g b).updBld g b fun x => { x with acted := true }) :=
      hset.trans ⟨fld_updBld .., fld_updBld .., word_updBld fun _ => rfl⟩
    have hstall := bldStall_stalled (s := (s.setReg .BLD_T T g b).updBld g b fun x => { x with acted := true }) hg hb (k := stAt) (by decide)
    rw [ht', if_neg hreached]
    exact ⟨(hstall.regs.reg _ _ _ _ hT (by decide)).trans hval, bldStall_acts hg hb (by decide) hacts hw rfl,
      (hstall.regs.reg _ _ _ _ hlate (by decide)).trans hcnt⟩

omit hg hb in
theorem bldAt_acted (hon : s.bldOn g b = true) (hacted : (s.blade g b).acted = true) (hop : bits (s.bldWord g b) 15 12 = 9) : s.bldAt g b w =
    if reached (s.reg .BLD_T g b) (s.bldNow (s.fld .BLD_CLK_TB g b)) = true then s.bldDone g b none else s := by
  rw [Dev.bldAt, hacted, if_pos rfl, Dev.bldFire, hon, hacted, hop]
  simp only [Bool.true_and, beq_self_eq_true]

omit hg hb in
theorem bldFire_fires (hon : s.bldOn g b = true) (hacted : (s.blade g b).acted = true) (hop : bits (s.bldWord g b) 15 12 = 9)
    (hnow : reached (s.reg .BLD_T g b) (s.bldNow (s.fld .BLD_CLK_TB g b)) = true) : s.bldFire g b = s.bldDone g b none := by
  rw [Dev.bldFire, hon, hacted, hop, hnow]
  rfl

/-! ### Illegal words -/

/-- The place of an illegal word is kept. -/
def bldNote (g b v : Nat) (s : Dev) : Dev := ((s.count .BLD_ILLEGAL_CNT g).setFld .BLD_ILLEGAL_PC_PC v g).setFld .BLD_ILLEGAL_PC_BLADE b g

theorem bldNote_shows {v : Nat} (hv : v < 2 ^ 6) : (s.bldNote g b v).reg .BLD_ILLEGAL_CNT g = min (s.reg .BLD_ILLEGAL_CNT g + 1) 0xFFFFFFFF ∧
    (s.bldNote g b v).fld .BLD_ILLEGAL_PC_PC g = v ∧ (s.bldNote g b v).fld .BLD_ILLEGAL_PC_BLADE g = b := by
  have hcnt : Reg.BLD_ILLEGAL_CNT.HasCopy g 0 0 := Reg.hasCopy_group hg rfl
  have hpc : Reg.BLD_ILLEGAL_PC.HasCopy g 0 0 := Reg.hasCopy_group hg rfl
  refine ⟨?_, ?_, fld_setFld_of_fits _ (by decide) hb⟩
  · exact (reg_setFld_of_apart _ hcnt hpc (by decide) _).trans ((reg_setFld_of_apart _ hcnt hpc (by decide) _).trans (reg_count_same ..))
  · exact (fld_setFld_of_beside _ (by decide) (by decide) (by decide) _).trans (fld_setFld_of_fits _ (by decide) hv)

theorem bldIllegal_does (hon : s.bldOn g b = true) (hdom : s.domOn .pio = true) (hbad : s.bldOk g b = false) : let pc := s.fld .BLD_STATUS_PC g b
    let t := s.bldIllegal g b
    BldStands g b ((pc + 1) % 48) t ∧ t.reg .BLD_ILLEGAL_CNT g = min (s.reg .BLD_ILLEGAL_CNT g + 1) 0xFFFFFFFF ∧ t.fld .BLD_ILLEGAL_PC_PC g = pc ∧
      t.fld .BLD_ILLEGAL_PC_BLADE g = b := by
  intro pc t
  have hcnt : Reg.BLD_ILLEGAL_CNT.HasCopy g 0 0 := Reg.hasCopy_group hg rfl
  have hpc : Reg.BLD_ILLEGAL_PC.HasCopy g 0 0 := Reg.hasCopy_group hg rfl
  have hstatus : Reg.BLD_STATUS.HasCopy g b 0 := Reg.hasCopy_blade hg hb rfl
  have hfits : pc < 2 ^ 6 := s.fld_lt ..
  obtain ⟨hnoted, hplace, hblade⟩ := bldNote_shows (s := s) hg hb hfits
  obtain ⟨u, hu⟩ : ∃ u, s.bldNote g b pc = u := ⟨_, rfl⟩
  rw [hu] at hnoted hplace hblade
  have ht : t = ((u.setPc g b ((pc + 1) % 48)).updBld g b BldSt.over).bldStall g b 0 := by
    rw [← hu]
    exact if_neg (by simp [hon, hdom, hbad])
  have hstall := bldStall_stalled (s := (u.setPc g b ((pc + 1) % 48)).updBld g b BldSt.over) hg hb (k := 0) (by decide)
  clear_value pc
  rw [ht]
  refine ⟨⟨(hstall.kept _ (by decide)).trans ?_, ?_, hstall.code⟩, (hstall.regs.reg _ _ _ _ hcnt (by decide)).trans ?_,
    (hstall.regs.fld hpc (by decide)).trans ?_, (hstall.regs.fld hpc (by decide)).trans ?_⟩
  · have hnext : (pc + 1) % 48 < 2 ^ 6 := Nat.lt_trans (Nat.mod_lt _ (by decide)) (by decide : 48 < 64)
    rw [fld_updBld, setPc, fld_setFld_of_fits u (by decide) hnext]
  · rw [hstall.blade, blade_updBld_same]
    rfl
  · rw [reg_updBld, setPc, reg_setFld_of_apart u (f := .BLD_STATUS_PC) hcnt hstatus (by decide), hnoted]
  · rw [fld_updBld, setPc, fld_setFld_of_apart u (g := .BLD_ILLEGAL_PC_PC) (f := .BLD_STATUS_PC) hpc hstatus (by decide), hplace]
  · rw [fld_updBld, setPc, fld_setFld_of_apart u (g := .BLD_ILLEGAL_PC_BLADE) (f := .BLD_STATUS_PC) hpc hstatus (by decide), hblade]

end

/-! ### The step -/

/-- The Blade as it stands when its word acts: the pins are seen, and the word is latched. -/
structure Latched (g b levels : Nat) (d e : Dev) : Prop where
  regs : e.regs = d.regs
  now : ∀ tb, e.bldNow tb = d.bldNow tb
  pins : e.sys.pads.get g = levels % 256
  word : (e.blade g b).word = some (d.bldWord g b)

theorem bldFetch_latched (d : Dev) (g b levels : Nat) : Latched g b levels d ((d.seePins g levels).bldFetch g b) := by
  unfold Dev.bldFetch
  split
  · next v hv =>
    refine ⟨rfl, fun _ => rfl, Tab.get_set_same .., ?_⟩
    have hword : (d.blade g b).word = some v := hv
    rw [bldWord_of_latched hword]
    exact hv
  · exact ⟨rfl, fun _ => rfl, Tab.get_set_same .., by rw [blade_updBld_same]; rfl⟩

namespace Latched
variable {levels : Nat} {d e : Dev} (h : Latched g b levels d e)
include h

theorem reg (r : Reg) (i j k : Nat) : e.reg r i j k = d.reg r i j k := reg_congr h.regs ..

theorem fld (f : Fld) (i j k : Nat) : e.fld f i j k = d.fld f i j k := congrArg (bits · f.hi f.lo) (h.reg ..)

theorem flag (f : Fld) (i j k : Nat) : e.flag f i j k = d.flag f i j k := congrArg (· != 0) (h.fld ..)

theorem pin (p : Nat) (hp : p < 8) : e.pinLevel g p = (d.bankDet g != 0 && bit levels p) := by
  have hdet : e.bankDet g = d.bankDet g := h.fld ..
  rw [Dev.pinLevel, Dev.grpLevels, hdet, h.pins]
  by_cases h0 : d.bankDet g = 0
  · rw [if_pos h0, h0]
    simp [bit]
  · rw [if_neg h0, bit_mod_256 _ hp]
    simp [h0]

theorem lane (i : Nat) : e.laneLevel g b i = ((d.laneCfg g b i).2.1 != 0 && d.bankDet g != 0 && bit levels (d.laneCfg g b i).1) := by
  have hcfg : e.laneCfg g b i = d.laneCfg g b i := by rw [Dev.laneCfg, Dev.laneCfg, h.reg]
  have hlane : e.laneLevel g b i = ((e.laneCfg g b i).2.1 != 0 && e.pinLevel g (e.laneCfg g b i).1) := rfl
  rw [hlane, hcfg, h.pin _ (laneCfg_fst_lt ..), Bool.and_assoc]

theorem flagOf (w : Nat) : e.flagOf g b w = d.flagOf g b w := by rw [Dev.flagOf, Dev.flagOf, h.fld]

theorem laneCfg (i : Nat) : e.laneCfg g b i = d.laneCfg g b i := by rw [Dev.laneCfg, Dev.laneCfg, h.reg]

theorem bldOn : e.bldOn g b = d.bldOn g b := by rw [Dev.bldOn, Dev.bldOn, h.fld]

end Latched

/-- What the word of an operation does. -/
def bldAct (g b w : Nat) (op : BldOp) (s : Dev) : Dev :=
  match op with
  | .jmp => s.bldJmp g b w
  | .wait => s.bldWait g b w
  | .in_ => s.bldIn g b w
  | .out => s.bldOut g b w
  | .push => s.bldPush g b w
  | .pull => s.bldPull g b w
  | .mov => s.bldMov g b w
  | .irq => s.bldIrq g b w
  | .set => s.bldSet g b w
  | .at_ => s.bldAt g b w

/-- The Blade runs a legal word of the operation. -/
def BldRuns (d : Dev) (g b : Nat) (op : BldOp) : Prop :=
  d.bldOn g b = true ∧ d.domOn .pio = true ∧ d.bldOk g b = true ∧ bits (d.bldWord g b) 15 12 = op.code

theorem bldStep_eq {d : Dev} {op : BldOp} (hruns : d.BldRuns g b op) (levels : Nat) : let e := (d.seePins g levels).bldFetch g b
    let x := e.blade g b
    d.bldStep g b op levels = if x.lead ≠ 0 then (e.updBld g b fun y => { y with lead := x.lead - 1 }).bldStall g b stLead
      else e.bldAct g b (d.bldWord g b) op := by
  intro e x
  obtain ⟨hon, hdom, hok, hop⟩ := hruns
  have hword : e.bldWord g b = d.bldWord g b := bldWord_of_latched (bldFetch_latched d g b levels).word
  rw [← hword]
  refine (if_neg ?_).trans rfl
  simp [hon, hdom, hok, hop]

section
variable {d e : Dev} {op : BldOp} {levels : Nat} (hruns : d.BldRuns g b op) (he : (d.seePins g levels).bldFetch g b = e)
include hruns he

theorem bldStep_leads (hg : g < 8) (hb : b < 4) (hlead : (e.blade g b).lead ≠ 0) : let t := d.bldStep g b op levels
    BldHeld g b (d.fld .BLD_STATUS_PC g b) (d.bldWord g b) 6 t ∧ (t.blade g b).lead = (e.blade g b).lead - 1 := by
  have hlatched : Latched g b levels d e := he ▸ bldFetch_latched d g b levels
  have hstep : d.bldStep g b op levels = (e.updBld g b fun y => { y with lead := (e.blade g b).lead - 1 }).bldStall g b stLead := by
    rw [← he] at hlead ⊢
    exact (bldStep_eq hruns levels).trans (if_pos hlead)
  have hacts : Acts g b e (e.updBld g b fun y => { y with lead := (e.blade g b).lead - 1 }) :=
    ⟨fld_updBld .., fld_updBld .., word_updBld (c := fun y => { y with lead := (e.blade g b).lead - 1 }) fun _ => rfl⟩
  have hstall := bldStall_stalled (s := e.updBld g b fun y => { y with lead := (e.blade g b).lead - 1 }) hg hb (k := stLead) (by decide)
  rw [hstep]
  refine ⟨bldStall_acts hg hb (by decide) hacts hlatched.word (hlatched.fld ..), ?_⟩
  rw [hstall.blade, blade_updBld_same]

theorem bldStep_acts (hlead : (e.blade g b).lead = 0) : d.bldStep g b op levels = e.bldAct g b (d.bldWord g b) op := by
  rw [← he] at hlead ⊢
  exact (bldStep_eq hruns levels).trans (if_neg (not_not.mpr hlead))

end

end Dev

end Sys2Proof.Machine
end

section
/-! O54: the registers of a group and of its Blades, restarts and the levels of the banks (R351, R362 to R370). -/

namespace Sys2Proof.Machine

/-- Copies of a register with different indices stand at different addresses. -/
theorem Reg.HasCopy.addr_ne_of_second {r : Reg} {a b c i j k : Nat} (ha : r.HasCopy a b c) (hi : r.HasCopy i j k) (hne : b ≠ j) :
    r.addr a b c ≠ r.addr i j k := by
  intro haddr
  have hcopy := ha.copyAt_addr
  rw [haddr, hi.copyAt_addr] at hcopy
  cases hcopy
  exact hne rfl

theorem bit_bits_low (n k hi : Nat) (hk : k ≤ hi) : bit (bits n hi 0) k = bit n k := by
  rw [bit_eq_testBit, bit_eq_testBit, testBit_bits, Nat.zero_add, decide_eq_true (by omega), Bool.true_and]

/-- A register that each Blade has. -/
def Reg.ofBlade (r : Reg) : Prop := r.info.strides.map Prod.snd = [8, 4]

/-- A register that each group has. -/
def Reg.ofGroup (r : Reg) : Prop := r.info.strides.map Prod.snd = [8]

theorem Reg.ofBlade.ne_of_ofGroup {q r : Reg} (hq : q.ofBlade) (hr : r.ofGroup) : q ≠ r := by
  rintro rfl
  exact absurd (hq.symm.trans hr) (by decide)

namespace Dev

variable {s t u d : Dev} {g b c v k : Nat} {who : Agent}

/-! ### What one Blade sees of the work of another -/

/-- A Blade's registers, its word and shifters and its EN bit are as they were. -/
structure BladeKept (g b : Nat) (s t : Dev) : Prop where
  reg : ∀ q : Reg, q.ofBlade → t.reg q g b = s.reg q g b
  blade : t.blade g b = s.blade g b
  on : t.bldOn g b = s.bldOn g b

namespace BladeKept

theorem refl (s : Dev) : BladeKept g b s s := ⟨fun _ _ => rfl, rfl, rfl⟩

theorem trans (h : BladeKept g b s t) (k : BladeKept g b t u) : BladeKept g b s u :=
  ⟨fun q hq => (k.reg q hq).trans (h.reg q hq), k.blade.trans h.blade, k.on.trans h.on⟩

theorem fld (h : BladeKept g b s t) {f : Fld} (hf : f.reg.ofBlade) : t.fld f g b = s.fld f g b := congrArg (bits · f.hi f.lo) (h.reg _ hf)

end BladeKept

section
variable (hg : g < 8) (hb : b < 4)
include hg hb

theorem bladeKept_setReg {r : Reg} (hr : r.ofBlade) (hc : c < 4) (hne : c ≠ b) (v : Nat) : BladeKept g b s (s.setReg r v g c) := by
  have hcopy : r.HasCopy g c 0 := Reg.hasCopy_blade hg hc hr
  refine ⟨fun q hq => ?_, rfl, ?_⟩
  · have hq' : q.HasCopy g b 0 := Reg.hasCopy_blade hg hb hq
    by_cases hqr : q = r
    · subst hqr
      exact s.reg_setReg_other (hq'.addr_ne_of_second hcopy (Ne.symm hne)) v
    · exact reg_setReg_of_apart s hq' hcopy hqr v
  · have hctrl : Reg.BLD_CTRL.ofGroup := rfl
    exact congrArg (bit · b) (fld_setReg_of_apart s (g := .BLD_CTRL_EN) (Reg.hasCopy_group hg hctrl) hcopy (hr.ne_of_ofGroup hctrl).symm v)

theorem bladeKept_setFld {f : Fld} (hr : f.reg.ofBlade) (hc : c < 4) (hne : c ≠ b) (v : Nat) : BladeKept g b s (s.setFld f v g c) :=
  bladeKept_setReg hg hb hr hc hne _

omit hg in
theorem bladeKept_updBld (hc : c < 4) (hne : c ≠ b) (f : BldSt → BldSt) : BladeKept g b s (s.updBld g c f) :=
  ⟨fun _ _ => rfl, blade_updBld_other s hc hb (.inr (Ne.symm hne)) f, rfl⟩

theorem bladeKept_regs {r : Reg} (hr : r.ofGroup) (hne : r ≠ .BLD_CTRL) (h : RegsBut [r] s t) (hbld : t.bld = s.bld) : BladeKept g b s t := by
  have hctrl : Reg.BLD_CTRL.ofGroup := rfl
  refine ⟨fun q hq => h.reg _ _ _ _ (Reg.hasCopy_blade hg hb hq) (by simpa using hq.ne_of_ofGroup hr), blade_congr hbld .., ?_⟩
  exact congrArg (bit · b) (h.fld (f := .BLD_CTRL_EN) (Reg.hasCopy_group hg hctrl)
    (show Reg.BLD_CTRL ∉ [r] by simpa using Ne.symm hne))

theorem bladeKept_bldStall (hc : c < 4) (hne : c ≠ b) (k : Nat) : BladeKept g b s (s.bldStall g c k) :=
  (bladeKept_setFld hg hb (f := .BLD_STATUS_STALL) rfl hc hne k).trans (bladeKept_setFld hg hb (f := .BLD_STATUS_STATE) rfl hc hne _)

/-! ### Holding registers -/

theorem txholdWrite_does (hv : v < 2 ^ 32) : let full := s.flag .BLD_STATUS_TX_FULL g b
    let t := s.txholdWrite g b v
    t.flag .BLD_STATUS_TX_FULL g b = true ∧ t.reg .BLD_TXHOLD g b = (if full = true then s.reg .BLD_TXHOLD g b else v) ∧
      t.reg .BLD_TXREFUSE_CNT g b = if full = true then min (s.reg .BLD_TXREFUSE_CNT g b + 1) 0xFFFFFFFF else s.reg .BLD_TXREFUSE_CNT g b := by
  intro full t
  have hstatus : Reg.BLD_STATUS.HasCopy g b 0 := Reg.hasCopy_blade hg hb rfl
  have hhold : Reg.BLD_TXHOLD.HasCopy g b 0 := Reg.hasCopy_blade hg hb rfl
  have hcnt : Reg.BLD_TXREFUSE_CNT.HasCopy g b 0 := Reg.hasCopy_blade hg hb rfl
  by_cases hfull : s.flag .BLD_STATUS_TX_FULL g b = true
  · have ht : t = s.countBy 1 .BLD_TXREFUSE_CNT g b := if_pos hfull
    rw [ht, if_pos hfull, if_pos hfull]
    exact ⟨(flag_countBy_of_apart s hstatus hcnt (by decide) 1).trans hfull, reg_countBy_of_apart s hhold hcnt (by decide) 1, reg_count_same ..⟩
  · have ht : t = (s.setReg .BLD_TXHOLD v g b).setFld .BLD_STATUS_TX_FULL (b2n true) g b := if_neg hfull
    rw [ht, if_neg hfull, if_neg hfull]
    refine ⟨flag_setFld_b2n _ (by decide) true, (reg_setFld_of_apart _ hhold hstatus (by decide) _).trans ?_,
      (reg_setFld_of_apart _ hcnt hstatus (by decide) _).trans (reg_setReg_of_apart s hcnt hhold (by decide) v)⟩
    rw [reg_setReg_same, Nat.mod_eq_of_lt hv]

theorem rxholdRead_does : let full := s.flag .BLD_STATUS_RX_FULL g b
    let r := s.rxholdRead g b
    r.1 = (if full = true then s.reg .BLD_RXHOLD g b else 0) ∧ r.2.flag .BLD_STATUS_RX_FULL g b = false ∧ r.2.reg .BLD_RXHOLD g b = s.reg .BLD_RXHOLD g b := by
  intro full r
  have hstatus : Reg.BLD_STATUS.HasCopy g b 0 := Reg.hasCopy_blade hg hb rfl
  have hhold : Reg.BLD_RXHOLD.HasCopy g b 0 := Reg.hasCopy_blade hg hb rfl
  by_cases hfull : s.flag .BLD_STATUS_RX_FULL g b = true
  · have hr : r = (s.reg .BLD_RXHOLD g b, s.setFld .BLD_STATUS_RX_FULL (b2n false) g b) := if_pos hfull
    rw [hr, if_pos hfull]
    exact ⟨rfl, flag_setFld_b2n _ (by decide) false, reg_setFld_of_apart s hhold hstatus (by decide) _⟩
  · have hr : r = (0, s) := if_neg hfull
    rw [hr, if_neg hfull]
    exact ⟨rfl, Bool.eq_false_iff.mpr hfull, rfl⟩

omit hg hb in
theorem rowRead_rxhold (h : s.reaches who .BLD_RXHOLD g b false) :
    s.rowRead who .BLD_RXHOLD g b = { (s.rxholdRead g b).2 with rd := word (s.rxholdRead g b).1 } := by
  rw [rowRead_reaches h, copyLoad_single _ rfl]
  rfl

/-! ### EN bits -/

theorem bldShow_fld {f : Fld} (hf : f.reg = .BLD_STATUS) (hbits : f.hi < 8 ∨ 10 < f.lo) (hc : c < 4) : (s.bldShow g c).fld f g b = s.fld f g b := by
  by_cases hcb : c = b
  · subst hcb
    exact fld_setFld_of_beside s (by decide) hf hbits _
  · exact (bladeKept_setFld (s := s) hg hb (f := .BLD_STATUS_STATE) rfl hc hcb _).fld (by rw [hf]; rfl)

omit hb in
theorem bldShow_regs (hc : c < 4) : RegsBut [.BLD_STATUS] s (s.bldShow g c) :=
  (RegsBut.refl s).setFld (f := .BLD_STATUS_STATE) (Reg.hasCopy_blade hg hc rfl) (by decide)

theorem ctrl_shown (s : Dev) : let t := s.each (List.range 4) fun b s => s.bldShow g b
    RegsBut [.BLD_STATUS] s t ∧ t.bld = s.bld ∧ t.fld .BLD_STATUS_PC g b = s.fld .BLD_STATUS_PC g b := by
  refine each_keeps (P := fun t => RegsBut [.BLD_STATUS] s t ∧ t.bld = s.bld ∧ t.fld .BLD_STATUS_PC g b = s.fld .BLD_STATUS_PC g b)
    (fun c hc t ht => ?_) s ⟨.refl s, rfl, rfl⟩
  obtain ⟨hregs, hbld, hpc⟩ := ht
  have hc4 : c < 4 := List.mem_range.mp hc
  exact ⟨hregs.trans (bldShow_regs hg hc4), hbld, (bldShow_fld hg hb (by decide) (by decide) hc4).trans hpc⟩

theorem ctrl_state (hoff : s.bldOn g b = false) : (s.each (List.range 4) fun b s => s.bldShow g b).fld .BLD_STATUS_STATE g b = 0 := by
  have hctrl {t : Dev} (c : Nat) (hc : c ∈ List.range 4) : (t.bldShow g c).bldOn g b = t.bldOn g b :=
    congrArg (bit · b) ((bldShow_regs hg (List.mem_range.mp hc)).fld (f := .BLD_CTRL_EN) (Reg.hasCopy_group hg rfl) (by decide))
  refine each_at (P := fun t => t.bldOn g b = false) (Q := fun t => t.fld .BLD_STATUS_STATE g b = 0) List.nodup_range (List.mem_range.mpr hb)
    (fun c hc _ t ht => (hctrl c hc).trans ht) (fun t ht => ?_) (fun c hc hne t ht => ?_) s hoff
  · have hshow : t.bldShow g b = t.setFld .BLD_STATUS_STATE 0 g b := by
      unfold Dev.bldShow
      simp only [ht, Bool.not_false, if_true]
    rw [hshow]
    exact fld_setFld_of_fits t (by decide) (by decide)
  · exact ((bladeKept_setFld (s := t) hg hb (f := .BLD_STATUS_STATE) rfl (List.mem_range.mp hc) hne _).fld (f := .BLD_STATUS_STATE) rfl).trans ht

theorem bldWrite_ctrl (on : Bool) : let t := s.bldWrite .BLD_CTRL g 0 (putBit (s.reg .BLD_CTRL g) b on)
    t.bldOn g b = on ∧ (∀ k < 4, k ≠ b → t.bldOn g k = s.bldOn g k) ∧ t.blade g b = s.blade g b ∧
      t.fld .BLD_STATUS_PC g b = s.fld .BLD_STATUS_PC g b ∧ (on = false → t.fld .BLD_STATUS_STATE g b = 0) := by
  intro t
  have hcopy : Reg.BLD_CTRL.HasCopy g 0 0 := Reg.hasCopy_group hg rfl
  have hmis : Reg.BLD_MISUSE_CNT.HasCopy g 0 0 := Reg.hasCopy_group hg rfl
  obtain ⟨u, hu⟩ : ∃ u, s.plain .BLD_CTRL (putBit (s.reg .BLD_CTRL g) b on) g = u := ⟨_, rfl⟩
  have ht : t = u.each (List.range 4) fun b s => s.bldShow g b := by rw [← hu]; rfl
  have hregs : RegsBut [.BLD_CTRL, .BLD_MISUSE_CNT] s u := by
    rw [← hu]
    exact (RegsBut.refl s).plainIf hcopy hmis (by decide) (by decide)
  have hbld : u.bld = s.bld := by rw [← hu, Dev.plain, plainIf_frame]
  have hen : u.fld .BLD_CTRL_EN g = bits (putBit (s.reg .BLD_CTRL g) b on) 3 0 := by
    rw [← hu]
    exact fld_plainIf_rw s (f := .BLD_CTRL_EN) (g := ⟨3, 0, .rw, 0, 48, .any⟩) (by decide) hcopy hmis (by decide) rfl rfl rfl
  have hbit (k : Nat) (hk : k < 4) : u.bldOn g k = if k = b then on else s.bldOn g k := by
    have hold : s.bldOn g k = bit (s.reg .BLD_CTRL g) k := bit_bits_low _ k 3 (by omega)
    rw [Dev.bldOn, hen, bit_bits_low _ k 3 (by omega), bit_putBit, hold]
  obtain ⟨hshown, hkeep, hpc⟩ := ctrl_shown hg hb u
  have hon (k : Nat) : t.bldOn g k = u.bldOn g k := by
    rw [ht]
    exact congrArg (bit · k) (hshown.fld (f := .BLD_CTRL_EN) hcopy (by decide))
  refine ⟨(hon b).trans ((hbit b hb).trans (if_pos rfl)), fun k hk hne => (hon k).trans ((hbit k hk).trans (if_neg hne)), ?_, ?_, fun hoff => ?_⟩
  · rw [ht]
    exact blade_congr (hkeep.trans hbld) ..
  · rw [ht]
    exact hpc.trans (hregs.fld (Reg.hasCopy_blade hg hb rfl) (by decide))
  · rw [ht]
    exact ctrl_state hg hb ((hbit b hb).trans ((if_pos rfl).trans hoff))

end

/-! ### Flags -/

section
variable (hg : g < 8)
include hg

omit hg in
theorem bldWrite_flagsSet {f : Nat} (hf : f < 8) (hv : v = 2 ^ f) : s.bldWrite .BLD_FLAGS_SET g 0 v = s.flagRise g f 0 0 := by
  have hsingle : ∀ f : Fin 8, (List.range 8).filter (bit (2 ^ f.val)) = [f.val] := by decide
  have hlt : v < 256 := by
    rw [hv]
    exact Nat.pow_lt_pow_right (n := 8) (by decide) hf
  have hwrite : s.bldWrite .BLD_FLAGS_SET g 0 v = s.each ((List.range 8).filter (bit v)) fun f s => s.flagRise g f 0 0 := if_pos hlt
  rw [hwrite, hv, hsingle ⟨f, hf⟩]
  rfl

omit hg in
theorem flagRise_risen {f x y : Nat} (h : bit (s.fld .BLD_FLAGS_FLAG g) f = true) : s.flagRise g f x y = s := if_pos h

theorem flagRise_rises {f x y : Nat} (hf : f < 8) (h : bit (s.fld .BLD_FLAGS_FLAG g) f = false) (hjob : s.flag .BLD_FLAG_CFG_JOB_EN g f = false) :
    (s.flagRise g f x y).fld .BLD_FLAGS_FLAG g = putBit (s.fld .BLD_FLAGS_FLAG g) f true := by
  have hflags : Reg.BLD_FLAGS.HasCopy g 0 0 := Reg.hasCopy_group hg rfl
  have hcfg : Reg.BLD_FLAG_CFG.HasCopy g f 0 := Reg.hasCopy_of_table hg hf rfl
  have hput : putBit (s.fld .BLD_FLAGS_FLAG g) f true < 2 ^ 8 := putBits_lt (Nat.le_refl _) hf (s.fld_lt ..) _
  have htarget (t : Dev) : t.fld .BLD_FLAG_CFG_TARGET g f < 32 := bits_lt _ 4 0
  obtain ⟨u, hu⟩ : ∃ u, s.setFld .BLD_FLAGS_FLAG (putBit (s.fld .BLD_FLAGS_FLAG g) f true) g = u := ⟨_, rfl⟩
  have hset : u.fld .BLD_FLAGS_FLAG g = putBit (s.fld .BLD_FLAGS_FLAG g) f true := by
    rw [← hu]
    exact fld_setFld_of_fits s (by decide) hput
  have hno : u.flag .BLD_FLAG_CFG_JOB_EN g f = false := by
    rw [← hu]
    exact (flag_setFld_of_apart s (g := .BLD_FLAG_CFG_JOB_EN) hcfg hflags (by decide) _).trans hjob
  obtain ⟨w, hw⟩ : ∃ w, (u.when (u.flag .BLD_FLAG_CFG_DB_EN g f) fun s => s.ringMask (s.fld .BLD_FLAG_CFG_TARGET g f) (2 ^ s.fld .BLD_FLAG_CFG_BIT g f)) = w :=
    ⟨_, rfl⟩
  have hrung : RegsBut bellRegs u w := by
    rw [← hw]
    exact when_keeps (P := RegsBut bellRegs u) (fun t ht => ht.ringMask (htarget _) (List.Subset.refl _)) _ (.refl u)
  have hrise : s.flagRise g f x y = w := by
    have hnow : w.flag .BLD_FLAG_CFG_JOB_EN g f = false := (hrung.flag hcfg (by decide)).trans hno
    unfold Dev.flagRise
    dsimp only
    rw [if_neg (by simp [h]), hu, hw, if_pos (by simp [hnow])]
  rw [hrise, hrung.fld hflags (by decide), hset]

theorem bldWrite_flags : let t := s.bldWrite .BLD_FLAGS g 0 v
    ∀ k < 8, bit (t.fld .BLD_FLAGS_FLAG g) k = (bit (s.fld .BLD_FLAGS_FLAG g) k && !bit v k) := by
  intro t k hk
  have hflags : Reg.BLD_FLAGS.HasCopy g 0 0 := Reg.hasCopy_group hg rfl
  have hmis : Reg.BLD_MISUSE_CNT.HasCopy g 0 0 := Reg.hasCopy_group hg rfl
  have ht : t.fld .BLD_FLAGS_FLAG g = (s.flagClear g v).fld .BLD_FLAGS_FLAG g := by
    by_cases hv : v < 256
    · exact congrArg (fun u : Dev => u.fld .BLD_FLAGS_FLAG g) (show t = s.flagClear g v from if_pos hv)
    · have ht : t = (s.flagClear g v).countBy 1 .BLD_MISUSE_CNT g := if_neg hv
      rw [ht]
      exact fld_countBy_of_apart _ hflags hmis (by decide) 1
  rw [ht, flagClear_fld, bit_and_flagMask, bit_mod_256 _ hk, decide_eq_true hk, Bool.true_and]

/-! ### Program words and restarts -/

theorem bldWrite_prog (hk : k < 48) : let t := s.bldWrite .BLD_PROG g k v
    t.fld .BLD_PROG_WORD g k = v % 65536 ∧ (∀ j < 48, j ≠ k → t.reg .BLD_PROG g j = s.reg .BLD_PROG g j) ∧ t.bld = s.bld := by
  intro t
  have hcopy {j : Nat} (hj : j < 48) : Reg.BLD_PROG.HasCopy g j 0 := Reg.hasCopy_of_table hg hj rfl
  have hmis : Reg.BLD_MISUSE_CNT.HasCopy g 0 0 := Reg.hasCopy_group hg rfl
  have ht : t = s.plainIf (fun _ => false) .BLD_PROG v g k := rfl
  refine ⟨?_, fun j hj hne => ?_, by rw [ht, plainIf_frame]⟩
  · rw [ht]
    refine (fld_plainIf_rw s (f := .BLD_PROG_WORD) (g := ⟨15, 0, .rw, 0, 48, .any⟩) (by decide) (hcopy hk) hmis (by decide) rfl rfl rfl).trans ?_
    simp [bits, Fld.BLD_PROG_WORD]
  · rw [ht]
    have haddr := (hcopy hj).addr_ne_of_second (hcopy hk) hne
    unfold Dev.plainIf
    dsimp only
    split
    · exact (reg_setReg_of_apart _ (hcopy hj) hmis (by decide) _).trans (s.reg_setReg_other haddr _)
    · exact s.reg_setReg_other haddr _

omit hg in
theorem restartArm_refused (h : s.flag .BLD_RESTART_STAT_PENDING g = true ∨ bits v 3 0 = 0) : s.restartArm g v = s.misuse .BLD g :=
  if_pos (by simpa using h)

theorem restartArm_arms (h : ¬(s.flag .BLD_RESTART_STAT_PENDING g = true ∨ bits v 3 0 = 0)) : let t := s.restartArm g v
    t.flag .BLD_RESTART_STAT_PENDING g = true ∧ t.fld .BLD_RESTART_STAT_MASK g = bits v 3 0 := by
  intro t
  have hstat : Reg.BLD_RESTART_STAT.HasCopy g 0 0 := Reg.hasCopy_group hg rfl
  have hmask : bits v 3 0 < 2 ^ 4 := bits_lt ..
  obtain ⟨u, hu⟩ : ∃ u, ((s.plain .BLD_RESTART v g).setFlag .BLD_RESTART_STAT_PENDING true g).setFld .BLD_RESTART_STAT_MASK (bits v 3 0) g = u := ⟨_, rfl⟩
  have hshown : u.flag .BLD_RESTART_STAT_PENDING g = true ∧ u.fld .BLD_RESTART_STAT_MASK g = bits v 3 0 := by
    rw [← hu]
    refine ⟨?_, fld_setFld_of_fits _ (by decide) hmask⟩
    exact (flag_setFld_of_beside _ (by decide) (by decide) (by decide) _).trans (flag_setFld_b2n _ (by decide) true)
  have hregs : RegsBut [.BLD_LATE_CNT] u t := by
    have ht : t = if bit v 4 && inPast ((u.updGrp g fun x => { x with timed := bit v 4, tb := bits v 6 5 }).reg .BLD_RESTART_T g)
          ((u.updGrp g fun x => { x with timed := bit v 4, tb := bits v 6 5 }).bldNow (bits v 6 5)) then
        ((u.updGrp g fun x => { x with timed := bit v 4, tb := bits v 6 5 }).updGrp g fun x => { x with timed := false }).each
          ((List.range 4).filter (bit (bits v 3 0))) fun b s => s.count .BLD_LATE_CNT g b
      else u.updGrp g fun x => { x with timed := bit v 4, tb := bits v 6 5 } := by
      unfold t Dev.restartArm
      dsimp only
      rw [if_neg (by simpa using h), hu]
    rw [ht]
    split
    · refine each_keeps (P := RegsBut [.BLD_LATE_CNT] u) (fun b hb t ht => ?_) _ (.of_regs rfl)
      exact ht.count (Reg.hasCopy_blade hg (List.mem_range.mp (List.mem_filter.mp hb).1) rfl) (by decide)
    · exact .of_regs rfl
  exact ⟨(hregs.flag hstat (by decide)).trans hshown.1, (hregs.fld hstat (by decide)).trans hshown.2⟩

end

/-! ### The banks -/

theorem bankLevel_does {n det levels : Nat} (hn : n < 4) (hdet : det < 4) : let t := s.bankLevel n det levels
    t.fld .PIN_BANK_DET n = det ∧
    (∀ p < 8, t.pinLevel (2 * n) p = (det != 0 && bit levels p) ∧ t.pinLevel (2 * n + 1) p = (det != 0 && bit levels (8 + p))) ∧
    t.reg .PIN_BANK_CHG_CNT = if s.fld .PIN_BANK_DET n = det then s.reg .PIN_BANK_CHG_CNT else min (s.reg .PIN_BANK_CHG_CNT + 1) 0xFFFFFFFF := by
  intro t
  have hbank : Reg.PIN_BANK.HasCopy n 0 0 := Reg.hasCopy_row (r := .PIN_BANK) rfl hn
  have hcnt : Reg.PIN_BANK_CHG_CNT.HasCopy 0 0 0 := Reg.hasCopy_alone rfl
  obtain ⟨u, hu⟩ : ∃ u, (s.seePins (2 * n) levels).seePins (2 * n + 1) (levels / 256) = u := ⟨_, rfl⟩
  have hregs : u.regs = s.regs := by rw [← hu]; rfl
  have hpads : u.sys.pads.get (2 * n) = levels % 256 ∧ u.sys.pads.get (2 * n + 1) = levels / 256 % 256 := by
    rw [← hu]
    refine ⟨(Tab.get_set_other _ _ (by omega)).trans (Tab.get_set_same ..), Tab.get_set_same ..⟩
  have hold : u.fld .PIN_BANK_DET n = s.fld .PIN_BANK_DET n := congrArg (bits · 1 0) (reg_congr hregs ..)
  have ht : t = if u.fld .PIN_BANK_DET n = det then u else (u.setFld .PIN_BANK_DET det n).count .PIN_BANK_CHG_CNT := by rw [← hu]; rfl
  have hshown : t.fld .PIN_BANK_DET n = det := by
    rw [ht]
    split
    · next h => exact h
    · exact (fld_countBy_of_apart _ hbank hcnt (by decide) 1).trans (fld_setFld_of_fits u (by decide) hdet)
  have hsys : t.sys = u.sys := by
    rw [ht]
    split <;> rfl
  have hlevel (x y m p : Nat) (hm : m / 2 = n) (hp : p < 8) (hpad : u.sys.pads.get m = x % 256) (hy : bit x p = bit levels y) :
      t.pinLevel m p = (det != 0 && bit levels y) := by
    have hbankdet : t.bankDet m = det := by rw [Dev.bankDet, hm, hshown]
    rw [Dev.pinLevel, Dev.grpLevels, hbankdet, hsys, hpad]
    by_cases h0 : det = 0
    · rw [if_pos h0, h0]
      simp [bit]
    · rw [if_neg h0, bit_mod_256 _ hp, hy]
      simp [h0]
  have hhigh (p : Nat) : bit (levels / 256) p = bit levels (8 + p) := by
    rw [bit_eq_testBit, bit_eq_testBit, show 256 = 2 ^ 8 from rfl, Nat.testBit_div_two_pow, Nat.add_comm]
  refine ⟨hshown, fun p hp => ⟨hlevel levels p _ p (by omega) hp hpads.1 rfl, hlevel (levels / 256) (8 + p) _ p (by omega) hp hpads.2 (hhigh p)⟩, ?_⟩
  rw [ht, hold]
  split
  · exact reg_congr hregs ..
  · refine (reg_count_same ..).trans ?_
    rw [reg_setFld_of_apart u (f := .PIN_BANK_DET) hcnt hbank (by decide), reg_congr hregs]

end Dev

end Sys2Proof.Machine
end

section
/-! O54: the restart of Blades (R370). -/

namespace Sys2Proof.Machine

namespace Dev

variable {s t u d : Dev} {g b c : Nat}

/-- What a restart writes of the Blade itself: its program counter and settings, its registers and counts, its shifters. -/
def restartBlade (g b : Nat) (s : Dev) : Dev :=
  let start := s.fld .BLD_PCFG_START g b
  let s := (s.setFld .BLD_PCFG_START_CUR start g b).setFld .BLD_PCFG_LOOP_CUR (s.fld .BLD_PCFG_LOOP g b) g b
  let s := (((s.setPc g b start).setReg .BLD_C 0 g b).setReg .BLD_G 0 g b).setReg .BLD_T 0 g b
  ((s.setFld .BLD_STATUS_TCNT 0 g b).setFld .BLD_STATUS_RCNT 0 g b).updBld g b fun _ => default

/-- A restart writes the idle levels of the lanes. -/
def restartLanes (g b : Nat) (s : Dev) : Dev :=
  s.each (List.range 4) fun i s => s.laneWrite g b i (s.laneCfg g b i).2.2 (some ((s.laneCfg g b i).2.1 == 2))

/-- A restart sets EN. -/
def restartOn (g b : Nat) (s : Dev) : Dev := s.setFld .BLD_CTRL_EN (putBit (s.fld .BLD_CTRL_EN g) b true) g

theorem bldRestartOne_eq (s : Dev) (g b : Nat) : s.bldRestartOne g b = (((s.restartBlade g b).restartLanes g b).restartOn g b).bldStall g b 0 := by
  unfold Dev.bldRestartOne restartOn restartLanes restartBlade
  rfl

section
variable (hg : g < 8) (hb : b < 4)
include hg hb

omit hb in
theorem restartLanes_regs (s : Dev) : RegsBut [.BLD_PINSTATE] s (s.restartLanes g b) ∧ (s.restartLanes g b).bld = s.bld :=
  each_keeps (P := fun t => RegsBut [.BLD_PINSTATE] s t ∧ t.bld = s.bld)
    (fun _ _ _ ht => ⟨ht.1.trans (laneWrite_regs hg ..), (laneWrite_bld ..).trans ht.2⟩) s ⟨.refl s, rfl⟩

omit hg hb in
theorem restartOn_en (hc : c < 4) (s : Dev) (k : Nat) : (s.restartOn g c).bldOn g k = if k = c then true else s.bldOn g k := by
  have hput : putBit (s.fld .BLD_CTRL_EN g) c true < 2 ^ 4 := putBits_lt (Nat.le_refl _) hc (s.fld_lt ..) _
  have hen : (s.restartOn g c).fld .BLD_CTRL_EN g = putBit (s.fld .BLD_CTRL_EN g) c true := fld_setFld_of_fits s (by decide) hput
  rw [Dev.bldOn, hen, bit_putBit, Dev.bldOn]

omit hb in
theorem restartOn_regs (s : Dev) : RegsBut [.BLD_CTRL] s (s.restartOn g c) :=
  (RegsBut.refl s).setFld (f := .BLD_CTRL_EN) (Reg.hasCopy_group hg rfl) (by decide)

/-! ### A Blade while another one restarts -/

theorem bldRestartOne_other (hc : c < 4) (hne : c ≠ b) (s : Dev) : BladeKept g b s (s.bldRestartOne g c) := by
  have hfld {t : Dev} {f : Fld} (hf : f.reg.ofBlade) (v : Nat) : BladeKept g b t (t.setFld f v g c) := bladeKept_setFld hg hb hf hc hne v
  have hreg {t : Dev} {r : Reg} (hr : r.ofBlade) (v : Nat) : BladeKept g b t (t.setReg r v g c) := bladeKept_setReg hg hb hr hc hne v
  have hself : BladeKept g b s (s.restartBlade g c) := by
    unfold restartBlade
    extract_lets start s₁ s₂
    have h₁ : BladeKept g b s s₁ := (hfld (f := .BLD_PCFG_START_CUR) rfl _).trans (hfld (f := .BLD_PCFG_LOOP_CUR) rfl _)
    have h₂ : BladeKept g b s₁ s₂ := (((hfld (f := .BLD_STATUS_PC) rfl _).trans (hreg (r := .BLD_C) rfl _)).trans
      (hreg (r := .BLD_G) rfl _)).trans (hreg (r := .BLD_T) rfl _)
    exact (h₁.trans h₂).trans (((hfld (f := .BLD_STATUS_TCNT) rfl _).trans (hfld (f := .BLD_STATUS_RCNT) rfl _)).trans (bladeKept_updBld hb hc hne _))
  obtain ⟨hlanes, hbld⟩ := restartLanes_regs (b := c) hg (s.restartBlade g c)
  have hlane : BladeKept g b (s.restartBlade g c) ((s.restartBlade g c).restartLanes g c) := bladeKept_regs hg hb (r := .BLD_PINSTATE) rfl (by decide) hlanes hbld
  obtain ⟨t, ht⟩ : ∃ t, (s.restartBlade g c).restartLanes g c = t := ⟨_, rfl⟩
  have hon : BladeKept g b t (t.restartOn g c) := by
    refine ⟨fun q hq => (restartOn_regs hg t).reg _ _ _ _ (Reg.hasCopy_blade hg hb hq) ?_, rfl, (restartOn_en hc t b).trans (if_neg (Ne.symm hne))⟩
    simpa using hq.ne_of_ofGroup (r := .BLD_CTRL) rfl
  rw [bldRestartOne_eq, ht]
  rw [ht] at hlane
  exact ((hself.trans hlane).trans hon).trans (bladeKept_bldStall hg hb hc hne 0)

omit hb in
/-- A register of the group stays, but for BLD_CTRL and BLD_PINSTATE. -/
theorem bldRestartOne_group (hc : c < 4) {f : Fld} (hf : f.reg.ofGroup) (hctrl : f.reg ≠ .BLD_CTRL) (hpin : f.reg ≠ .BLD_PINSTATE) (s : Dev) :
    (s.bldRestartOne g c).flag f g = s.flag f g := by
  have hcopy : f.reg.HasCopy g 0 0 := Reg.hasCopy_group hg hf
  have hapart {q : Reg} (hq : q.ofBlade) : f.reg ≠ q := (hq.ne_of_ofGroup hf).symm
  have hfld {t : Dev} {l : Fld} (hl : l.reg.ofBlade) (v : Nat) : (t.setFld l v g c).flag f g = t.flag f g :=
    flag_setFld_of_apart t hcopy (Reg.hasCopy_blade hg hc hl) (hapart hl) v
  have hreg {t : Dev} {r : Reg} (hr : r.ofBlade) (v : Nat) : (t.setReg r v g c).flag f g = t.flag f g :=
    flag_setReg_of_apart t hcopy (Reg.hasCopy_blade hg hc hr) (hapart hr) v
  have hself : (s.restartBlade g c).flag f g = s.flag f g := by
    unfold restartBlade
    extract_lets start s₁ s₂
    have h₁ : s₁.flag f g = s.flag f g := (hfld (l := .BLD_PCFG_LOOP_CUR) rfl _).trans (hfld (l := .BLD_PCFG_START_CUR) rfl _)
    have h₂ : s₂.flag f g = s₁.flag f g := (hreg (r := .BLD_T) rfl _).trans ((hreg (r := .BLD_G) rfl _).trans ((hreg (r := .BLD_C) rfl _).trans
      (hfld (l := .BLD_STATUS_PC) rfl _)))
    exact (flag_updBld ..).trans ((hfld (l := .BLD_STATUS_RCNT) rfl _).trans ((hfld (l := .BLD_STATUS_TCNT) rfl _).trans (h₂.trans h₁)))
  have hlanes := (restartLanes_regs (b := c) hg (s.restartBlade g c)).1
  have hen := restartOn_regs (c := c) hg ((s.restartBlade g c).restartLanes g c)
  have hstall := (bldStall_stalled (s := ((s.restartBlade g c).restartLanes g c).restartOn g c) hg hc (k := 0) (by decide)).regs
  rw [bldRestartOne_eq, hstall.flag hcopy (by simpa using hapart (q := .BLD_STATUS) rfl), hen.flag hcopy (by simpa using hctrl),
    hlanes.flag hcopy (by simpa using hpin), hself]

/-! ### The Blade that restarts -/

/-- A Blade has restarted, at the start and loop of its settings as they stood. -/
structure Restarted (g b start loop hold : Nat) (t : Dev) : Prop where
  stands : BldStands g b start t
  blade : t.blade g b = default
  on : t.bldOn g b = true
  regC : t.reg .BLD_C g b = 0
  regG : t.reg .BLD_G g b = 0
  regT : t.reg .BLD_T g b = 0
  loop : t.fld .BLD_PCFG_LOOP_CUR g b = loop
  hold : t.reg .BLD_TXHOLD g b = hold

omit hg hb in
theorem Restarted.kept {start loop hold : Nat} (h : Restarted g b start loop hold s) (k : BladeKept g b s t) : Restarted g b start loop hold t := by
  obtain ⟨⟨hpc, hword, hstall⟩, hblade, hon, hc, hg, ht, hloop, hhold⟩ := h
  exact ⟨⟨(k.fld (f := .BLD_STATUS_PC) rfl).trans hpc, (congrArg BldSt.word k.blade).trans hword, (k.fld (f := .BLD_STATUS_STALL) rfl).trans hstall⟩,
    k.blade.trans hblade, k.on.trans hon, (k.reg .BLD_C rfl).trans hc, (k.reg .BLD_G rfl).trans hg, (k.reg .BLD_T rfl).trans ht,
    (k.fld (f := .BLD_PCFG_LOOP_CUR) rfl).trans hloop, (k.reg .BLD_TXHOLD rfl).trans hhold⟩

theorem restartBlade_does (s : Dev) : let t := s.restartBlade g b
    t.fld .BLD_STATUS_PC g b = s.fld .BLD_PCFG_START g b ∧ t.blade g b = default ∧ t.reg .BLD_C g b = 0 ∧ t.reg .BLD_G g b = 0 ∧
      t.reg .BLD_T g b = 0 ∧ t.fld .BLD_PCFG_LOOP_CUR g b = s.fld .BLD_PCFG_LOOP g b ∧ t.reg .BLD_TXHOLD g b = s.reg .BLD_TXHOLD g b := by
  have hstatus : Reg.BLD_STATUS.HasCopy g b 0 := Reg.hasCopy_blade hg hb rfl
  have hpcfg : Reg.BLD_PCFG.HasCopy g b 0 := Reg.hasCopy_blade hg hb rfl
  have hC : Reg.BLD_C.HasCopy g b 0 := Reg.hasCopy_blade hg hb rfl
  have hG : Reg.BLD_G.HasCopy g b 0 := Reg.hasCopy_blade hg hb rfl
  have hT : Reg.BLD_T.HasCopy g b 0 := Reg.hasCopy_blade hg hb rfl
  have hhold : Reg.BLD_TXHOLD.HasCopy g b 0 := Reg.hasCopy_blade hg hb rfl
  have hstart : s.fld .BLD_PCFG_START g b < 2 ^ 6 := s.fld_lt ..
  have hloop : s.fld .BLD_PCFG_LOOP g b < 2 ^ 6 := s.fld_lt ..
  obtain ⟨u, hu⟩ : ∃ u, (s.setFld .BLD_PCFG_START_CUR (s.fld .BLD_PCFG_START g b) g b).setFld .BLD_PCFG_LOOP_CUR
    (s.fld .BLD_PCFG_LOOP g b) g b = u := ⟨_, rfl⟩
  have hset : u.fld .BLD_PCFG_LOOP_CUR g b = s.fld .BLD_PCFG_LOOP g b ∧ u.reg .BLD_TXHOLD g b = s.reg .BLD_TXHOLD g b := by
    rw [← hu]
    constructor
    · rw [fld_setFld_of_fits _ (f := .BLD_PCFG_LOOP_CUR) (by decide) hloop]
    · rw [reg_setFld_of_apart _ (f := .BLD_PCFG_LOOP_CUR) hhold hpcfg (by decide), reg_setFld_of_apart _ (f := .BLD_PCFG_START_CUR) hhold hpcfg (by decide)]
  have ht : s.restartBlade g b = ((((((u.setFld .BLD_STATUS_PC (s.fld .BLD_PCFG_START g b) g b).setReg .BLD_C 0 g b).setReg .BLD_G 0 g b).setReg
      .BLD_T 0 g b).setFld .BLD_STATUS_TCNT 0 g b).setFld .BLD_STATUS_RCNT 0 g b).updBld g b fun _ => default := by
    rw [← hu, restartBlade, Dev.setPc]
  generalize s.fld .BLD_PCFG_START g b = start at *
  rw [ht]
  refine ⟨?_, blade_updBld_same .., ?_, ?_, ?_, ?_, ?_⟩
  · rw [fld_updBld, fld_setFld_of_beside _ (by decide) (by decide) (by decide), fld_setFld_of_beside _ (by decide) (by decide) (by decide),
      fld_setReg_of_apart _ (g := .BLD_STATUS_PC) hstatus hT (by decide), fld_setReg_of_apart _ (g := .BLD_STATUS_PC) hstatus hG (by decide),
      fld_setReg_of_apart _ (g := .BLD_STATUS_PC) hstatus hC (by decide), fld_setFld_of_fits _ (by decide) hstart]
  · rw [reg_updBld, reg_setFld_of_apart _ (f := .BLD_STATUS_RCNT) hC hstatus (by decide), reg_setFld_of_apart _ (f := .BLD_STATUS_TCNT) hC hstatus (by decide),
      reg_setReg_of_apart _ hC hT (by decide), reg_setReg_of_apart _ hC hG (by decide), reg_setReg_same]; rfl
  · rw [reg_updBld, reg_setFld_of_apart _ (f := .BLD_STATUS_RCNT) hG hstatus (by decide), reg_setFld_of_apart _ (f := .BLD_STATUS_TCNT) hG hstatus (by decide),
      reg_setReg_of_apart _ hG hT (by decide), reg_setReg_same]; rfl
  · rw [reg_updBld, reg_setFld_of_apart _ (f := .BLD_STATUS_RCNT) hT hstatus (by decide), reg_setFld_of_apart _ (f := .BLD_STATUS_TCNT) hT hstatus (by decide), reg_setReg_same]; rfl
  · rw [fld_updBld, fld_setFld_of_apart _ (g := .BLD_PCFG_LOOP_CUR) (f := .BLD_STATUS_RCNT) hpcfg hstatus (by decide),
      fld_setFld_of_apart _ (g := .BLD_PCFG_LOOP_CUR) (f := .BLD_STATUS_TCNT) hpcfg hstatus (by decide),
      fld_setReg_of_apart _ (g := .BLD_PCFG_LOOP_CUR) hpcfg hT (by decide), fld_setReg_of_apart _ (g := .BLD_PCFG_LOOP_CUR) hpcfg hG (by decide),
      fld_setReg_of_apart _ (g := .BLD_PCFG_LOOP_CUR) hpcfg hC (by decide),
      fld_setFld_of_apart _ (g := .BLD_PCFG_LOOP_CUR) (f := .BLD_STATUS_PC) hpcfg hstatus (by decide), hset.1]
  · rw [reg_updBld, reg_setFld_of_apart _ (f := .BLD_STATUS_RCNT) hhold hstatus (by decide), reg_setFld_of_apart _ (f := .BLD_STATUS_TCNT) hhold hstatus (by decide),
      reg_setReg_of_apart _ hhold hT (by decide), reg_setReg_of_apart _ hhold hG (by decide), reg_setReg_of_apart _ hhold hC (by decide),
      reg_setFld_of_apart _ (f := .BLD_STATUS_PC) hhold hstatus (by decide), hset.2]

theorem bldRestartOne_self (s : Dev) : Restarted g b (s.fld .BLD_PCFG_START g b) (s.fld .BLD_PCFG_LOOP g b) (s.reg .BLD_TXHOLD g b) (s.bldRestartOne g b) := by
  obtain ⟨hpc, hblade, hC, hG, hT, hloop, hhold⟩ := restartBlade_does hg hb s
  obtain ⟨hlanes, hbld⟩ := restartLanes_regs (b := b) hg (s.restartBlade g b)
  have hlane : BladeKept g b (s.restartBlade g b) ((s.restartBlade g b).restartLanes g b) :=
    bladeKept_regs hg hb (r := .BLD_PINSTATE) rfl (by decide) hlanes hbld
  obtain ⟨t, ht⟩ : ∃ t, (s.restartBlade g b).restartLanes g b = t := ⟨_, rfl⟩
  rw [bldRestartOne_eq, ht]
  rw [ht] at hlane
  have hen := restartOn_regs (c := b) hg t
  have hstall := bldStall_stalled (s := t.restartOn g b) hg hb (k := 0) (by decide)
  have hreg {r : Reg} (hr : r.ofBlade) (hne : r ≠ .BLD_STATUS) : ((t.restartOn g b).bldStall g b 0).reg r g b = (s.restartBlade g b).reg r g b := by
    have hcopy : r.HasCopy g b 0 := Reg.hasCopy_blade hg hb hr
    have hctrl : r ∉ [Reg.BLD_CTRL] := by simpa using hr.ne_of_ofGroup (r := .BLD_CTRL) rfl
    exact (hstall.regs.reg _ _ _ _ hcopy (by simpa using hne)).trans ((hen.reg _ _ _ _ hcopy hctrl).trans (hlane.reg r hr))
  have hnow : ((t.restartOn g b).bldStall g b 0).blade g b = default := (hstall.blade g b).trans (hlane.blade.trans hblade)
  have hstatus : Reg.BLD_STATUS.HasCopy g b 0 := Reg.hasCopy_blade hg hb rfl
  refine ⟨⟨?_, congrArg BldSt.word hnow, hstall.code⟩, hnow, ?_, (hreg (r := .BLD_C) rfl (by decide)).trans hC, (hreg (r := .BLD_G) rfl (by decide)).trans hG,
    (hreg (r := .BLD_T) rfl (by decide)).trans hT, ?_, (hreg (r := .BLD_TXHOLD) rfl (by decide)).trans hhold⟩
  · exact (hstall.kept _ (by decide)).trans ((hen.fld (f := .BLD_STATUS_PC) hstatus (by decide)).trans ((hlane.fld (f := .BLD_STATUS_PC) rfl).trans hpc))
  · have hon := (restartOn_en (g := g) hb t b).trans (if_pos rfl)
    exact (congrArg (bit · b) (hstall.regs.fld (f := .BLD_CTRL_EN) (Reg.hasCopy_group hg rfl) (by decide))).trans hon
  · exact (congrArg (bits · 29 24) (hreg (r := .BLD_PCFG) rfl (by decide))).trans hloop

/-! ### The armed restart -/

theorem bldRestart_does (hpend : s.flag .BLD_RESTART_STAT_PENDING g = true) (hdom : s.domOn .pio = true)
    (hdue : (s.grp.get g).timed = false ∨ reached (s.reg .BLD_RESTART_T g) (s.bldNow (s.grp.get g).tb) = true) : let t := s.bldRestart g
    t.flag .BLD_RESTART_STAT_PENDING g = false ∧
    (bit (s.fld .BLD_RESTART_STAT_MASK g) b = true →
      Restarted g b (s.fld .BLD_PCFG_START g b) (s.fld .BLD_PCFG_LOOP g b) (s.reg .BLD_TXHOLD g b) t) ∧
    (bit (s.fld .BLD_RESTART_STAT_MASK g) b = false → BladeKept g b s t) := by
  intro t
  have hstat : Reg.BLD_RESTART_STAT.HasCopy g 0 0 := Reg.hasCopy_group hg rfl
  obtain ⟨mask, hmask⟩ : ∃ mask, s.fld .BLD_RESTART_STAT_MASK g = mask := ⟨_, rfl⟩
  obtain ⟨u, hu⟩ : ∃ u, (s.setFlag .BLD_RESTART_STAT_PENDING false g).setFld .BLD_RESTART_STAT_MASK 0 g = u := ⟨_, rfl⟩
  have ht : t = u.each ((List.range 4).filter (bit mask)) fun b s => s.bldRestartOne g b := by
    have hgo : ¬((!s.flag .BLD_RESTART_STAT_PENDING g || !s.domOn .pio || ((s.grp.get g).timed && !reached (s.reg .BLD_RESTART_T g)
        (s.bldNow (s.grp.get g).tb))) = true) := by
      rcases hdue with h | h <;> simp [hpend, hdom, h]
    unfold t Dev.bldRestart
    dsimp only
    rw [if_neg hgo, hmask, hu]
  have hcleared : RegsBut [.BLD_RESTART_STAT] s u := by
    rw [← hu]
    exact ((RegsBut.refl s).setFlag (f := .BLD_RESTART_STAT_PENDING) hstat (by decide)).setFld (f := .BLD_RESTART_STAT_MASK) hstat (by decide)
  have hkept : BladeKept g b s u := bladeKept_regs hg hb (r := .BLD_RESTART_STAT) rfl (by decide) hcleared (by rw [← hu]; rfl)
  have hmem {c : Nat} (hc : c ∈ (List.range 4).filter (bit mask)) : c < 4 ∧ bit mask c = true := by
    obtain ⟨hrange, hbit⟩ := List.mem_filter.mp hc
    exact ⟨List.mem_range.mp hrange, hbit⟩
  rw [hmask, ht]
  refine ⟨?_, fun hin => ?_, fun hout => ?_⟩
  · have hoff : u.flag .BLD_RESTART_STAT_PENDING g = false := by
      rw [← hu]
      exact (flag_setFld_of_beside _ (by decide) (by decide) (by decide) _).trans (flag_setFld_b2n s (by decide) false)
    refine each_keeps (P := fun t => t.flag .BLD_RESTART_STAT_PENDING g = false) (fun c hc t hoff => ?_) u hoff
    exact (bldRestartOne_group (f := .BLD_RESTART_STAT_PENDING) hg (hmem hc).1 rfl (by decide) (by decide) t).trans hoff
  · refine each_at (P := BladeKept g b s) (List.nodup_range.filter _) (List.mem_filter.mpr ⟨List.mem_range.mpr hb, hin⟩)
      (fun c hc hne t ht => ht.trans (bldRestartOne_other hg hb (hmem hc).1 hne t)) (fun t ht => ?_)
      (fun c hc hne t ht => ht.kept (bldRestartOne_other hg hb (hmem hc).1 hne t)) u hkept
    have hself := bldRestartOne_self hg hb t
    rwa [ht.fld (f := .BLD_PCFG_START) rfl, ht.fld (f := .BLD_PCFG_LOOP) rfl, ht.reg .BLD_TXHOLD rfl] at hself
  · refine each_keeps (P := BladeKept g b s) (fun c hc t ht => ?_) u hkept
    refine ht.trans (bldRestartOne_other hg hb (hmem hc).1 (fun hcb => ?_) t)
    rw [← hcb, (hmem hc).2] at hout
    cases hout

end

end Dev

end Sys2Proof.Machine
end

section
/-! O54: what an operation does, read before the step, and the rows of the Blades. -/

namespace Sys2Proof.Machine

namespace Dev

variable {d e : Dev} {g b levels : Nat}

theorem Latched.nextPc (h : Latched g b levels d e) (w : Nat) : e.nextPc g b w = d.nextPc g b w := by rw [Dev.nextPc, Dev.nextPc, h.fld, h.fld]

theorem Latched.rxBits (h : Latched g b levels d e) : e.rxBits g b = d.rxBits g b := by rw [Dev.rxBits, Dev.rxBits, h.fld]

theorem Latched.txBits (h : Latched g b levels d e) : e.txBits g b = d.txBits g b := by rw [Dev.txBits, Dev.txBits, h.fld]

theorem Latched.bankDet (h : Latched g b levels d e) : e.bankDet g = d.bankDet g := h.fld ..

theorem Latched.bldWord (h : Latched g b levels d e) : e.bldWord g b = d.bldWord g b := bldWord_of_latched h.word

/-! ### What a legal word keeps to -/

theorem BldRuns.legal {op : BldOp} (h : d.BldRuns g b op) : bldLegal (d.bldWord g b) (d.flag .BLD_CLK_MODE g b) = true := h.2.2.1

theorem BldRuns.jmp (h : d.BldRuns g b .jmp) : bits (d.bldWord g b) 5 0 ≤ 47 := by
  have hlegal := h.legal
  obtain ⟨-, -, -, hop⟩ := h
  simpa [bldLegal, hop, BldOp.code] using hlegal

theorem BldRuns.wait (h : d.BldRuns g b .wait) : bits (d.bldWord g b) 6 5 ≠ 3 := by
  have hlegal := h.legal
  obtain ⟨-, -, -, hop⟩ := h
  simp only [bldLegal, hop, BldOp.code, Bool.and_eq_true, decide_eq_true_eq] at hlegal
  exact hlegal.1.1

theorem BldRuns.out (h : d.BldRuns g b .out) : bits (d.bldWord g b) 5 0 ≤ 32 := by
  have hlegal := h.legal
  obtain ⟨-, -, -, hop⟩ := h
  simpa [bldLegal, hop, BldOp.code] using hlegal

theorem BldRuns.mov (h : d.BldRuns g b .mov) : bits (d.bldWord g b) 7 5 ≠ 7 := by
  have hlegal := h.legal
  obtain ⟨-, -, -, hop⟩ := h
  simp only [bldLegal, hop, BldOp.code, Bool.and_eq_true, decide_eq_true_eq] at hlegal
  exact hlegal.1

theorem BldRuns.set (h : d.BldRuns g b .set) : bits (d.bldWord g b) 7 6 ≠ 3 := by
  have hlegal := h.legal
  obtain ⟨-, -, -, hop⟩ := h
  simp only [bldLegal, hop, BldOp.code, Bool.and_eq_true, decide_eq_true_eq] at hlegal
  exact hlegal.1

theorem BldRuns.at_ (h : d.BldRuns g b .at_) : bits (d.bldWord g b) 7 6 ≠ 3 := by
  have hlegal := h.legal
  obtain ⟨-, -, -, hop⟩ := h
  simp only [bldLegal, hop, BldOp.code, Bool.and_eq_true, decide_eq_true_eq] at hlegal
  exact hlegal.1.1

/-! ### The registers -/

section
variable {who : Agent} {v : Nat}

theorem rowWrite_txhold (h : d.reaches who .BLD_TXHOLD g b true) : d.rowWrite who .BLD_TXHOLD v g b = d.txholdWrite g b v := rowWrite_single rfl h v

theorem rowWrite_flagsSet (h : d.reaches who .BLD_FLAGS_SET g 0 true) : d.rowWrite who .BLD_FLAGS_SET v g = d.bldWrite .BLD_FLAGS_SET g 0 v :=
  rowWrite_single rfl h v

theorem rowWrite_flags (h : d.reaches who .BLD_FLAGS g 0 true) : d.rowWrite who .BLD_FLAGS v g = d.bldWrite .BLD_FLAGS g 0 v := rowWrite_single rfl h v

theorem rowWrite_bldCtrl (h : d.reaches who .BLD_CTRL g 0 true) : d.rowWrite who .BLD_CTRL v g = d.bldWrite .BLD_CTRL g 0 v := rowWrite_single rfl h v

theorem rowWrite_prog {k : Nat} (h : d.reaches who .BLD_PROG g k true) : d.rowWrite who .BLD_PROG v g k = d.bldWrite .BLD_PROG g k v :=
  rowWrite_single rfl h v

theorem rowWrite_restart (h : d.reaches who .BLD_RESTART g 0 true) : d.rowWrite who .BLD_RESTART v g = d.restartArm g v := rowWrite_single rfl h v

end

end Dev

section
variable (g : Fin 8) (b : Fin 4) (levels : BitVec 8) (who : Agent) (v : Word) (s : State)

theorem exec_bladeJmp_eq : exec (.bladeJmp g b levels) s = .next (s.withDev (s.dev.bldStep g b .jmp levels.toNat)) := rfl

theorem exec_bladeWait_eq : exec (.bladeWait g b levels) s = .next (s.withDev (s.dev.bldStep g b .wait levels.toNat)) := rfl

theorem exec_bladeIn_eq : exec (.bladeIn g b levels) s = .next (s.withDev (s.dev.bldStep g b .in_ levels.toNat)) := rfl

theorem exec_bladeOut_eq : exec (.bladeOut g b levels) s = .next (s.withDev (s.dev.bldStep g b .out levels.toNat)) := rfl

theorem exec_bladePush_eq : exec (.bladePush g b levels) s = .next (s.withDev (s.dev.bldStep g b .push levels.toNat)) := rfl

theorem exec_bladePull_eq : exec (.bladePull g b levels) s = .next (s.withDev (s.dev.bldStep g b .pull levels.toNat)) := rfl

theorem exec_bladeMov_eq : exec (.bladeMov g b levels) s = .next (s.withDev (s.dev.bldStep g b .mov levels.toNat)) := rfl

theorem exec_bladeIrq_eq : exec (.bladeIrq g b levels) s = .next (s.withDev (s.dev.bldStep g b .irq levels.toNat)) := rfl

theorem exec_bladeSet_eq : exec (.bladeSet g b levels) s = .next (s.withDev (s.dev.bldStep g b .set levels.toNat)) := rfl

theorem exec_bladeAt_eq : exec (.bladeAt g b levels) s = .next (s.withDev (s.dev.bldStep g b .at_ levels.toNat)) := rfl

theorem exec_atFire_eq : exec (.atFire g b) s = .next (s.withDev (s.dev.bldFire g b)) := rfl

theorem exec_bladeIllegal_eq : exec (.bladeIllegal g b) s = .next (s.withDev (s.dev.bldIllegal g b)) := rfl

theorem exec_txholdWrite_eq : exec (.txholdWrite who g b v) s = .next (s.withDev (s.dev.rowWrite who .BLD_TXHOLD v.toNat g b)) := rfl

theorem exec_rxholdRead_eq : exec (.rxholdRead who g b) s = .next (s.withDev (s.dev.rowRead who .BLD_RXHOLD g b)) := rfl

theorem exec_flagSet_eq : exec (.flagSet who g v) s = .next (s.withDev (s.dev.rowWrite who .BLD_FLAGS_SET v.toNat g)) := rfl

theorem exec_flagClear_eq : exec (.flagClear who g v) s = .next (s.withDev (s.dev.rowWrite who .BLD_FLAGS v.toNat g)) := rfl

theorem exec_bladeStop_eq : exec (.bladeStop who g b) s =
    .next (s.withDev (s.dev.rowWrite who .BLD_CTRL (putBit (s.dev.reg .BLD_CTRL g) b false) g)) := rfl

theorem exec_bladeResume_eq : exec (.bladeResume who g b) s =
    .next (s.withDev (s.dev.rowWrite who .BLD_CTRL (putBit (s.dev.reg .BLD_CTRL g) b true) g)) := rfl

theorem exec_programWordWrite_eq (k : Fin 48) : exec (.programWordWrite who g k v) s =
    .next (s.withDev (s.dev.rowWrite who .BLD_PROG v.toNat g k)) := rfl

theorem exec_restartArm_eq : exec (.restartArm who g v) s = .next (s.withDev (s.dev.rowWrite who .BLD_RESTART v.toNat g)) := rfl

theorem exec_bladeRestart_eq : exec (.bladeRestart g) s = .next (s.withDev (s.dev.bldRestart g)) := rfl

theorem exec_bankLevelChange_eq (k det : Fin 4) (levels : BitVec 16) : exec (.bankLevelChange k (det, levels)) s =
    .next (s.withDev (s.dev.bankLevel k det levels.toNat)) := rfl

end

/-- Settles O54: a step of a Blade sees the pins and latches its word, and what the operation reads of the group is as it stood before. -/
theorem bladeRowsComplete : Obligations.BladeRowsComplete := by
  intro g b s d out next w pc after at_ held C G now flags f n txFull rxFull txBits rxBits tcnt rcnt runs
  have hnext {i e p} (hexec : exec i s = .next (s.withDev e)) (he : p e) : next i p := ⟨s.withDev e, hexec, s.withDev_pending e, he⟩
  clear_value next
  have hg : g.val < 8 := g.isLt
  have hb : b.val < 4 := b.isLt
  refine ⟨fun levels => ?levels, ?fire, ?illegal, ?txhold, ?rxhold, ?flagSet, ?risen, ?rises, ?flagClear, ?ctrl, ?prog, ?arm, ?restart, ?bank⟩
  case levels =>
    intro e x
    have hlatched : Dev.Latched g b levels.toNat d e := Dev.bldFetch_latched d g b levels.toNat
    have he : (d.seePins g levels.toNat).bldFetch g b = e := rfl
    clear_value e
    refine ⟨fun i _ => hlatched.lane i, fun hlead i hi hruns => ?leads, fun hlead => ?acts⟩
    case leads =>
      have hstep := Dev.bldStep_leads hruns he hg hb hlead
      simp only [List.mem_cons, List.not_mem_nil, or_false] at hi
      obtain rfl | rfl | rfl | rfl | rfl | rfl | rfl | rfl | rfl | rfl := hi
      · exact hnext (exec_bladeJmp_eq g b levels s) hstep
      · exact hnext (exec_bladeWait_eq g b levels s) hstep
      · exact hnext (exec_bladeIn_eq g b levels s) hstep
      · exact hnext (exec_bladeOut_eq g b levels s) hstep
      · exact hnext (exec_bladePush_eq g b levels s) hstep
      · exact hnext (exec_bladePull_eq g b levels s) hstep
      · exact hnext (exec_bladeMov_eq g b levels s) hstep
      · exact hnext (exec_bladeIrq_eq g b levels s) hstep
      · exact hnext (exec_bladeSet_eq g b levels s) hstep
      · exact hnext (exec_bladeAt_eq g b levels s) hstep
    case acts =>
      have hacts {i : Instr} {op : BldOp} {p : Dev → Prop} (hexec : exec i s = .next (s.withDev (d.bldStep g b op levels.toNat))) (hruns : runs op)
          (hp : p (e.bldAct g b w op)) : next i p :=
        hnext hexec (by rwa [Dev.bldStep_acts hruns he hlead])
      have hw : (e.blade g b).word = some w := hlatched.word
      have hafter : e.nextPc g b w = after := hlatched.nextPc w
      have hf : e.flagOf g b w = f := hlatched.flagOf w
      refine ⟨?jmp, ?wait, ?inCollects, ?inSerial, ?outSerial, ?outTakes, ?push, ?pull, ?mov, ?irq, ?set, ?at_, ?atActed⟩
      case jmp =>
        intro hruns
        have h := Dev.bldJmp_does hg hb hw (Dev.BldRuns.jmp hruns)
        simp only [hlatched.reg, hlatched.fld, hlatched.flag, hafter] at h
        exact hacts (exec_bladeJmp_eq g b levels s) hruns h
      case wait =>
        intro hruns
        have h := Dev.bldWait_does hg hb hw
        simp only [Dev.waitSrc, hlatched.pin _ (bits_lt w 2 0), hlatched.fld, hf, hafter] at h
        exact hacts (exec_bladeWait_eq g b levels s) hruns h
      case inCollects =>
        intro hruns hsrc
        have h := Dev.bldIn_collects hg hb hw hsrc
        simp only [hlatched.fld, hafter] at h
        exact hacts (exec_bladeIn_eq g b levels s) hruns h
      case inSerial =>
        intro hruns hsrc
        have h := Dev.bldIn_serial hg hb hw hsrc
        simp only [hlatched.fld, hafter] at h
        exact hacts (exec_bladeIn_eq g b levels s) hruns h
      case outSerial =>
        intro hruns hdst
        have h := Dev.bldOut_serial hg hb hw hdst
        simp only [hlatched.fld, hafter] at h
        exact hacts (exec_bladeOut_eq g b levels s) hruns h
      case outTakes =>
        intro hruns hdst
        have h := Dev.bldOut_takes hg hb hw hdst (Dev.BldRuns.out hruns)
        simp only [hlatched.reg, hlatched.fld, hlatched.flag, hafter] at h
        exact hacts (exec_bladeOut_eq g b levels s) hruns h
      case push =>
        intro hruns
        have h := Dev.bldPush_does hg hb hw
        simp only [hlatched.reg, hlatched.fld, hlatched.flag, hlatched.rxBits, hafter] at h
        exact hacts (exec_bladePush_eq g b levels s) hruns h
      case pull =>
        intro hruns
        have h := Dev.bldPull_does hg hb hw
        simp only [hlatched.reg, hlatched.fld, hlatched.flag, hlatched.txBits, hafter] at h
        exact hacts (exec_bladePull_eq g b levels s) hruns h
      case mov =>
        intro hruns src v
        have hv : movOp (bits w 4 3) (e.movFrom g b w) = v := by
          refine congrArg (movOp (bits w 4 3)) ?_
          simp only [Dev.movFrom, hlatched.reg, hlatched.fld, hlatched.now]
          unfold src
          generalize bits w 2 0 = k
          match k with
          | 0 | 1 | 2 | 3 | 4 => rfl
          | k + 5 => simp
        have h := Dev.movTo_does (v := v) hg hb hw (Dev.BldRuns.mov hruns)
        rw [← hv, ← Dev.bldMov_eq, hv] at h
        simp only [hlatched.txBits, hafter] at h
        exact hacts (exec_bladeMov_eq g b levels s) hruns h
      case irq =>
        intro hruns
        have hexec : exec (.bladeIrq g b levels) s = out (e.bldIrq g b w) :=
          (exec_bladeIrq_eq g b levels s).trans (congrArg out (Dev.bldStep_acts hruns he hlead))
        refine ⟨fun h0 => ?_, fun h1 => ?_, fun h2 hnew => ?_, fun h2 hold => ?_⟩
        · rw [hexec, Dev.bldIrq_raises h0, hf, hlatched.fld]
        · have h := Dev.bldIrq_clears hg hb hw h1
          simp only [hlatched.fld, hf, hafter] at h
          exact hacts (exec_bladeIrq_eq g b levels s) hruns h
        · rw [hexec, Dev.bldIrq_waits h2 hnew, hf, hlatched.fld]
        · have h := Dev.bldIrq_acted hg hb hw h2 hold
          simp only [hlatched.fld, hf, hafter] at h
          exact hacts (exec_bladeIrq_eq g b levels s) hruns h
      case set =>
        intro hruns
        have h := Dev.bldSet_does hg hb hw (Dev.BldRuns.set hruns)
        simp only [hlatched.reg, hlatched.fld, hlatched.laneCfg, hafter] at h
        exact hacts (exec_bladeSet_eq g b levels s) hruns h
      case at_ =>
        intro hruns hnew T
        have h := Dev.bldAt_does hg hb hw (Dev.BldRuns.at_ hruns) hnew
        simp only [Dev.atTarget, hlatched.reg, hlatched.fld, hlatched.now, hafter] at h
        exact hacts (exec_bladeAt_eq g b levels s) hruns h
      case atActed =>
        intro hruns hold
        have hcode : bits (e.bldWord g b) 15 12 = 9 := hlatched.bldWord ▸ hruns.2.2.2
        have h := Dev.bldAt_acted (w := w) (hlatched.bldOn.trans hruns.1) hold hcode
        simp only [hlatched.reg, hlatched.fld, hlatched.now] at h
        refine hacts (exec_bladeAt_eq g b levels s) hruns ?_
        split
        · next hnow =>
          rw [if_pos hnow] at h
          have hdone := (Dev.bldDone_stays hg hb hw).stands
          rw [← h, hafter] at hdone
          exact hdone
        · next hwait =>
          rw [if_neg hwait] at h
          exact ⟨congrArg (Dev.blade · g b) h, (congrArg (Dev.reg · .BLD_STATUS g b) h).trans (hlatched.reg ..)⟩
  case fire =>
    intro hon hacted hop hnow
    have hdone := Dev.bldDone_next (s := d) hg hb (w := w) rfl
    refine hnext (exec_atFire_eq g b s) ?_
    rw [Dev.bldFire_fires hon hacted hop hnow]
    exact ⟨hdone.stands, hdone.reg (Reg.hasCopy_blade hg hb rfl) (by decide)⟩
  case illegal =>
    intro hon hdom hbad
    exact hnext (exec_bladeIllegal_eq g b s) (Dev.bldIllegal_does hg hb hon hdom hbad)
  case txhold =>
    intro who v hreaches
    have hexec := exec_txholdWrite_eq g b who v s
    rw [Dev.rowWrite_txhold hreaches] at hexec
    exact hnext hexec (Dev.txholdWrite_does hg hb v.isLt)
  case rxhold =>
    intro who hreaches
    have hexec := exec_rxholdRead_eq g b who s
    rw [Dev.rowRead_rxhold hreaches] at hexec
    obtain ⟨hword, hempty, hkept⟩ := Dev.rxholdRead_does (s := d) hg hb
    exact hnext hexec ⟨congrArg word hword, hempty, hkept⟩
  case flagSet =>
    intro who k v hreaches hv
    have hexec := exec_flagSet_eq g who v s
    rw [Dev.rowWrite_flagsSet hreaches, Dev.bldWrite_flagsSet k.isLt hv] at hexec
    exact hexec
  case risen => exact fun k _ x y hset => Dev.flagRise_risen hset
  case rises => exact fun k hk x y hclear hjob => Dev.flagRise_rises hg hk hclear hjob
  case flagClear =>
    intro who v hreaches
    have hexec := exec_flagClear_eq g who v s
    rw [Dev.rowWrite_flags hreaches] at hexec
    exact hnext hexec (Dev.bldWrite_flags hg)
  case ctrl =>
    intro who hreaches
    have hstop := exec_bladeStop_eq g b who s
    have hresume := exec_bladeResume_eq g b who s
    rw [Dev.rowWrite_bldCtrl hreaches] at hstop hresume
    obtain ⟨hoff, hother, hblade, hpc, hstate⟩ := Dev.bldWrite_ctrl (s := d) hg hb false
    obtain ⟨hon, hother', hblade', hpc', -⟩ := Dev.bldWrite_ctrl (s := d) hg hb true
    exact ⟨hnext hstop ⟨hoff, hother, hblade, hpc, hstate rfl⟩, hnext hresume ⟨hon, hother', hblade', hpc'⟩⟩
  case prog =>
    intro who k v hreaches
    have hexec := exec_programWordWrite_eq g who v s k
    rw [Dev.rowWrite_prog hreaches] at hexec
    exact hnext hexec (Dev.bldWrite_prog hg k.isLt)
  case arm =>
    intro who v hreaches
    have hexec := exec_restartArm_eq g who v s
    rw [Dev.rowWrite_restart hreaches] at hexec
    split
    · next hrefused => exact hexec.trans (next_congr (Dev.restartArm_refused hrefused))
    · next harms => exact hnext hexec (Dev.restartArm_arms hg harms)
  case restart =>
    intro hpend hdom hdue
    obtain ⟨hdone, hin, hout⟩ := Dev.bldRestart_does hg hb hpend hdom hdue
    refine hnext (exec_bladeRestart_eq g s) ⟨hdone, fun h => ?_, fun h => ⟨(hout h).blade, (hout h).reg .BLD_STATUS rfl⟩⟩
    obtain ⟨hstands, hblade, hon, hC, hG, hT, hloop, hhold⟩ := hin h
    exact ⟨hstands, hblade, hon, hC, hG, hT, hloop, hhold⟩
  case bank =>
    intro k det levels
    exact hnext (exec_bankLevelChange_eq s k det levels) (Dev.bankLevel_does k.isLt det.isLt)

end Sys2Proof.Machine
end

section
/-! O55: what firmware reads leaves of the device, and the dispatch of received frames (R378, R379). -/

namespace Sys2Proof.Machine

namespace Dev

variable {s t d : Dev} {mid cell port n p : Nat} {h : Held}

/-! ### Reads of memory -/

theorem memOnly.pers (h : s.memOnly t) : t.pers = s.pers := by rw [h]

theorem memOnly.boot (h : s.memOnly t) : t.boot = s.boot := by rw [h]

theorem memOnly.swc (h : s.memOnly t) : t.swc = s.swc := by rw [h]

theorem readCellsBy_memOnly (mid : Nat) (l : List Nat) (k : Nat) (s : Dev) : s.memOnly (Dev.readCellsBy mid l k s).2 := by
  induction l generalizing k s with
  | nil => exact .rfl' s
  | cons a l ih => exact (physRead_frame s ..).1.trans (ih ..)

theorem persIn_congr (h : t.boot = s.boot) (p n : Nat) : t.persIn p n = s.persIn p n := by rw [Dev.persIn, Dev.persIn, h]

theorem ipRink_congr (h : t.boot = s.boot) : t.ipRink = s.ipRink := by simp only [Dev.ipRink, persIn_congr h]

/-! ### The personality that takes a frame -/

theorem etypePers_iff {e : Nat} :
    etypePers e = some p ↔ (e, p) ∈ [(0x88A4, 1), (0x8892, 2), (0x88AB, 4), (0x88B8, 7), (0x88BA, 7), (0xB62C, 0xC)] := by
  simp only [List.mem_cons, Prod.mk.injEq, List.not_mem_nil, or_false]
  unfold etypePers
  split
  · simp [eq_comm]
  · simp [eq_comm]
  · simp [eq_comm]
  · simp [eq_comm]
  · simp [eq_comm]
  · simp [eq_comm]
  · next h1 h2 h3 h4 h5 h6 =>
    simp only [reduceCtorEq, false_iff]
    rintro (⟨he, -⟩ | ⟨he, -⟩ | ⟨he, -⟩ | ⟨he, -⟩ | ⟨he, -⟩ | ⟨he, -⟩)
    exacts [h1 he, h2 he, h3 he, h4 he, h5 he, h6 he]

/-- The handler that rink `n` has for an EtherType: 0 is the IPv4 service. -/
def frameTaker (s : Dev) (n e : Nat) : Option Nat :=
  match etypePers e with
  | some p => if s.persIn p n then some p else none
  | none => if (e == 0x0800 || e == 0x0806) && s.ipRink == some n then some 0 else none

theorem frameTaker_congr (h : t.boot = s.boot) (n e : Nat) : t.frameTaker n e = s.frameTaker n e := by
  simp only [frameTaker, persIn_congr h, ipRink_congr h]

theorem frameTaker_pers {e : Nat} (he : etypePers e = some p) (hin : s.persIn p n = true) : s.frameTaker n e = some p := by
  rw [frameTaker, he]
  exact if_pos hin

theorem frameTaker_ip {e : Nat} (he : e = 0x0800 ∨ e = 0x0806) (hrink : s.ipRink = some n) : s.frameTaker n e = some 0 := by
  have hnone : etypePers e = none := by rcases he with rfl | rfl <;> rfl
  rw [frameTaker, hnone]
  exact if_pos (by simp [he, hrink])

theorem frameTaker_none {e : Nat} (hpers : ∀ p, etypePers e = some p → s.persIn p n = false) (hip : e = 0x0800 ∨ e = 0x0806 → s.ipRink ≠ some n) :
    s.frameTaker n e = none := by
  unfold frameTaker
  split
  · next p he => exact if_neg (by simp [hpers p he])
  · refine if_neg ?_
    simp only [Bool.and_eq_true, Bool.or_eq_true, beq_iff_eq, not_and]
    exact hip

section
variable (hd : s.countsOut = d) (hh : d.handles mid cell = some (port, h))
include hd hh

theorem dispatchFrame_given (hgiven : h.pm = true ∨ h.pers.isSome = true) (viol : Option (Nat × Viol)) : s.dispatchFrame mid cell viol = d := by
  have hor : (h.pm || h.pers.isSome) = true := by simpa using hgiven
  simp only [Dev.dispatchFrame, hd, hh, hor, if_true]

variable (hpm : h.pm = false) (hpers : h.pers = none)
include hpm hpers

theorem dispatchFrame_eq (viol : Option (Nat × Viol)) : let m := d.physRead mid (cell + 16) 18
    s.dispatchFrame mid cell viol = match d.frameTaker (mid / 8) (Frame.etype m.1.data) with
      | none => (m.2.commonCount mid 0 0).freeCopy mid cell
      | some p =>
        let s := m.2.updHeld port cell fun h => { h with pers := some p }
        match viol with
        | none => s
        | some (k, v) =>
          match s.pers.insts[k]? with
          | some r => if r.pers = p ∧ s.recRuns k r then (s.received mid k r default v).freeCopy mid cell else s
          | none => s := by
  intro m
  have hboot : m.2.boot = d.boot := (physRead_frame d ..).1.boot
  have hor : ¬((h.pm || h.pers.isSome) = true) := by simp [hpm, hpers]
  have hread : d.physRead mid (cell + 16) 18 = m := rfl
  clear_value m
  obtain ⟨r, u⟩ := m
  rw [← frameTaker_congr hboot, Dev.dispatchFrame, hd, hh]
  dsimp only
  rw [if_neg hor, hread]
  rfl

theorem dispatchFrame_none {viol : Option (Nat × Viol)} (htaker : d.frameTaker (mid / 8) (Frame.etype (d.physRead mid (cell + 16) 18).1.data) = none) :
    s.dispatchFrame mid cell viol = ((d.physRead mid (cell + 16) 18).2.commonCount mid 0 0).freeCopy mid cell := by
  rw [dispatchFrame_eq hd hh hpm hpers, htaker]

variable (htaker : d.frameTaker (mid / 8) (Frame.etype (d.physRead mid (cell + 16) 18).1.data) = some p)
include htaker

theorem dispatchFrame_gives :
    s.dispatchFrame mid cell none = (d.physRead mid (cell + 16) 18).2.updHeld port cell fun h => { h with pers := some p } := by
  rw [dispatchFrame_eq hd hh hpm hpers, htaker]

theorem dispatchFrame_violated {k : Nat} {r : InstRec} {v : Viol} (hrec : d.pers.insts[k]? = some r) (hp : r.pers = p) :
    let u := (d.physRead mid (cell + 16) 18).2.updHeld port cell fun h => { h with pers := some p }
    u.recRuns k r = true → s.dispatchFrame mid cell (some (k, v)) = (u.received mid k r default v).freeCopy mid cell := by
  intro u hruns
  have hinsts : u.pers.insts[k]? = some r := (congrArg (·.insts[k]?) ((updHeld_pers ..).trans (physRead_frame d ..).1.pers)).trans hrec
  rw [dispatchFrame_eq hd hh hpm hpers, htaker]
  dsimp only
  rw [hinsts]
  exact if_pos ⟨hp, hruns⟩

end

end Dev

end Sys2Proof.Machine
end

section
/-! O55: the IPv4 service (R380, R381). -/

namespace Sys2Proof.Machine

namespace Dev

variable {s a d : Dev} {mid cell port w0 : Nat} {conf : Option Nat} {held : Held}

/-- What the service does by the protocol of a datagram for its port, that is neither a fragment nor carries options. -/
def ipProto (mid port cell w0 : Nat) (conf : Option Nat) (x : FrameSt) (f : Frame) (s : Dev) : Dev :=
  let h := f.typeAt + 2
  let ihl := f.be h 1 % 16 * 4
  let total := f.be (h + 2) 2
  let proto := f.be (h + 9) 1
  let src := f.be (h + 12) 4
  let dst := f.be (h + 16) 4
  let p := h + ihl
  let own := dst == (Config.ipOf x.port).toNat
  if proto = 1 then
    (s.when (own && f.be p 1 == 8) (Dev.ipSend x.port src (.echo ((f.drop h).take total)))).freeCopy mid cell
  else if proto = 17 then
    match s.ipOwner x.port false (f.be (p + 2) 2) conf with
    | none => (s.commonCount mid 64 2).freeCopy mid cell
    | some o => s.ipGive port cell o w0 (p + 8) (total - ihl - 8)
  else if proto = 6 ∧ own then
    match s.ipOwner x.port true (f.be (p + 2) 2) conf with
    | none => ((s.commonCount mid 64 3).freeCopy mid cell).ipSend x.port src (.rst dst src (f.be (p + 2) 2) (f.be p 2))
    | some o => s.tcpTake mid port cell w0 o f h ihl total
  else s.freeCopy mid cell

/-- What the service does with the bytes of a frame. -/
def ipServe (mid port cell w0 : Nat) (conf : Option Nat) (x : FrameSt) (f : Frame) (s : Dev) : Dev :=
  let h := f.typeAt + 2
  let ihl := f.be h 1 % 16 * 4
  if (f.etype ≠ 0x0800 ∧ f.etype ≠ 0x0806) ∨ !x.ipVlan then s.freeCopy mid cell
  else if f.etype = 0x0806 then (s.arpTake x.port f h).freeCopy mid cell
  else if ipSum ((f.drop h).take ihl) ≠ 0xFFFF ∨ f.length < h + f.be (h + 2) 2 then (s.commonCount mid 64 0).freeCopy mid cell
  else if !ipFor x.port (f.be (h + 16) 4) then s.freeCopy mid cell
  else if 20 < ihl ∨ bits (f.be (h + 6) 2) 13 0 ≠ 0 then (s.commonCount mid 64 1).freeCopy mid cell
  else s.ipProto mid port cell w0 conf x f

theorem ipDatagram_serves (hd : s.countsOut = d) (hh : d.handles mid cell = some (port, held)) (hrink : d.ipRink = some (mid / 8))
    (hheld : held.pers = some 0 ∨ held.pm = true ∧ held.pers = none) : let x := d.frame cell
    let m := Dev.readCellsBy mid x.cells x.flen d
    s.ipDatagram mid cell w0 conf = m.2.ipServe mid port cell w0 conf x m.1.data := by
  intro x m
  have hread : Dev.readCellsBy mid x.cells x.flen d = m := rfl
  clear_value m
  obtain ⟨r, a⟩ := m
  have htakes : ¬((d.ipRink != some (mid / 8) || !(held.pers == some 0 || (held.pm && held.pers.isNone))) = true) := by
    rcases hheld with h | ⟨hpm, h⟩ <;> simp [*]
  rw [Dev.ipDatagram, hd, hh]
  dsimp only
  rw [if_neg htakes, show d.frame cell = x from rfl, hread]
  rfl

section
variable {x : FrameSt} {f : Frame}

theorem ipServe_other (h : f.etype ≠ 0x0800 ∧ f.etype ≠ 0x0806 ∨ x.ipVlan = false) : a.ipServe mid port cell w0 conf x f = a.freeCopy mid cell :=
  if_pos (by simpa using h)

section
variable (hvlan : x.ipVlan = true)
include hvlan

theorem ipServe_arp (he : f.etype = 0x0806) :
    a.ipServe mid port cell w0 conf x f = (a.arpTake x.port f (f.typeAt + 2)).freeCopy mid cell :=
  (if_neg (by simp [he, hvlan])).trans (if_pos he)

variable (he : f.etype = 0x0800)
include he

/-- A datagram is checked before its protocol counts. -/
theorem ipServe_checks : let h := f.typeAt + 2
    let ihl := f.be h 1 % 16 * 4
    a.ipServe mid port cell w0 conf x f =
      if ipSum ((f.drop h).take ihl) ≠ 0xFFFF ∨ f.length < h + f.be (h + 2) 2 then (a.commonCount mid 64 0).freeCopy mid cell
      else if ipFor x.port (f.be (h + 16) 4) = false then a.freeCopy mid cell
      else if 20 < ihl ∨ bits (f.be (h + 6) 2) 13 0 ≠ 0 then (a.commonCount mid 64 1).freeCopy mid cell
      else a.ipProto mid port cell w0 conf x f := by
  intro h ihl
  refine (if_neg (by simp [he, hvlan])).trans ((if_neg (by simp [he])).trans ?_)
  simp only [Bool.not_eq_true']
  rfl

end

/-! ### TCP -/

/-- What stands in a segment about its connection. -/
def segConn (port : Nat) (f : Frame) (h ihl : Nat) : Conn := ⟨port, f.be (h + 12) 4, f.be (h + ihl) 2, f.be (h + ihl + 2) 2⟩

def connOpened (key : Conn) (s : Dev) : Dev := s.updPers fun x => { x with conns := x.conns ++ [key] }

def connClosed (key : Conn) (s : Dev) : Dev := s.updPers fun x => { x with conns := x.conns.erase key }

section
variable {o : InstRec} {h ihl total n : Nat} (hn : (a.frame cell).port = n)
include hn

theorem tcpTake_request (hsyn : bit (f.be (h + ihl + 13) 1) 1 = true) (hnew : segConn n f h ihl ∉ a.pers.conns)
    (hack : bit (f.be (h + ihl + 13) 1) 4 = false) :
    let src := f.be (h + 12) 4
    let dst := f.be (h + 16) 4
    let sp := f.be (h + ihl) 2
    let dp := f.be (h + ihl + 2) 2
    let rst : Dev → Dev := Dev.ipSend n src (.rst dst src dp sp)
    (128 ≤ a.pers.conns.length → a.tcpTake mid port cell w0 o f h ihl total = rst ((a.commonCount mid 64 4).freeCopy mid cell)) ∧
    (a.pers.conns.length < 128 → a.tcpTake mid port cell w0 o f h ihl total = if a.portFull n dp = true then rst (a.freeCopy mid cell)
      else (Dev.ipSend n src (.synAck dst src dp sp) (a.connOpened (segConn n f h ihl))).freeCopy mid cell) := by
  intro src dst sp dp rst
  have hfresh : (bit (f.be (h + ihl + 13) 1) 1 && !a.pers.conns.contains (segConn n f h ihl) && !bit (f.be (h + ihl + 13) 1) 4) = true := by
    simp [hsyn, hnew, hack]
  subst hn
  refine ⟨fun hfull => ?_, fun hroom => ?_⟩
  · exact (if_pos hfresh).trans (if_pos (by simpa using hfull))
  · exact (if_pos hfresh).trans (if_neg (by simpa using hroom))

theorem tcpTake_segment (hseg : ¬(bit (f.be (h + ihl + 13) 1) 1 = true ∧ segConn n f h ihl ∉ a.pers.conns) ∨ bit (f.be (h + ihl + 13) 1) 4 = true) :
    let fl := f.be (h + ihl + 13) 1
    let q := f.be (h + ihl + 12) 1 / 16 * 4
    let key := segConn n f h ihl
    let b := if (bit fl 1 = true ∧ key ∉ a.pers.conns) ∧ a.pers.conns.length < 128 then a.connOpened key else a
    a.tcpTake mid port cell w0 o f h ihl total =
      (if bit fl 0 = true ∨ bit fl 2 = true then b.connClosed key else b).ipGive port cell o w0 (h + ihl + q) (total - ihl - q) := by
  intro fl q key b
  have hold : ¬((bit fl 1 && !a.pers.conns.contains key && !bit fl 4) = true) := by
    rcases hseg with h | h
    · intro hfresh
      simp only [Bool.and_eq_true, Bool.not_eq_true', List.contains_eq_mem, decide_eq_false_iff_not] at hfresh
      exact h hfresh.1
    · simp [fl, h]
  have hopen : a.when (bit fl 1 && !a.pers.conns.contains key && decide (a.pers.conns.length < 128)) (connOpened key) = b := by
    simp [Dev.when, b]
  have hclose : b.when (bit fl 0 || bit fl 2) (connClosed key) = if bit fl 0 = true ∨ bit fl 2 = true then b.connClosed key else b := by
    simp [Dev.when]
  subst hn
  rw [← hclose, ← hopen]
  exact if_neg hold

end

/-! ### The protocols -/

section
variable {proto : Nat} (hproto : f.be (f.typeAt + 2 + 9) 1 = proto)
include hproto

theorem ipProto_icmp (h1 : proto = 1) : let h := f.typeAt + 2
    let own := f.be (h + 16) 4 = (Config.ipOf x.port).toNat
    a.ipProto mid port cell w0 conf x f = Dev.freeCopy mid cell (if own ∧ f.be (h + f.be h 1 % 16 * 4) 1 = 8 then
      Dev.ipSend x.port (f.be (h + 12) 4) (.echo ((f.drop h).take (f.be (h + 2) 2))) a else a) := by
  intro h own
  rw [ipProto, if_pos (hproto.trans h1)]
  simp only [Dev.when, Bool.and_eq_true, beq_iff_eq]
  rfl

theorem ipProto_udp (h17 : proto = 17) : let h := f.typeAt + 2
    let ihl := f.be h 1 % 16 * 4
    let owner := a.ipOwner x.port false (f.be (h + ihl + 2) 2) conf
    (owner = none → a.ipProto mid port cell w0 conf x f = (a.commonCount mid 64 2).freeCopy mid cell) ∧
    ∀ o, owner = some o → a.ipProto mid port cell w0 conf x f = a.ipGive port cell o w0 (h + ihl + 8) (f.be (h + 2) 2 - ihl - 8) := by
  intro h ihl owner
  have hudp : a.ipProto mid port cell w0 conf x f = match owner with
      | none => (a.commonCount mid 64 2).freeCopy mid cell
      | some o => a.ipGive port cell o w0 (h + ihl + 8) (f.be (h + 2) 2 - ihl - 8) := by
    rw [ipProto, if_neg (by omega), if_pos (hproto.trans h17)]
  rw [hudp]
  exact ⟨fun h => by rw [h], fun o h => by rw [h]⟩

theorem ipProto_tcp (h6 : proto = 6) (hown : f.be (f.typeAt + 2 + 16) 4 = (Config.ipOf x.port).toNat) : let h := f.typeAt + 2
    let ihl := f.be h 1 % 16 * 4
    let owner := a.ipOwner x.port true (f.be (h + ihl + 2) 2) conf
    (owner = none → a.ipProto mid port cell w0 conf x f = ((a.commonCount mid 64 3).freeCopy mid cell).ipSend x.port (f.be (h + 12) 4)
      (.rst (f.be (h + 16) 4) (f.be (h + 12) 4) (f.be (h + ihl + 2) 2) (f.be (h + ihl) 2))) ∧
    ∀ o, owner = some o → a.ipProto mid port cell w0 conf x f = a.tcpTake mid port cell w0 o f h ihl (f.be (h + 2) 2) := by
  intro h ihl owner
  have htcp : a.ipProto mid port cell w0 conf x f = match owner with
      | none => ((a.commonCount mid 64 3).freeCopy mid cell).ipSend x.port (f.be (h + 12) 4)
        (.rst (f.be (h + 16) 4) (f.be (h + 12) 4) (f.be (h + ihl + 2) 2) (f.be (h + ihl) 2))
      | some o => a.tcpTake mid port cell w0 o f h ihl (f.be (h + 2) 2) := by
    rw [ipProto, if_neg (by omega), if_neg (by omega), if_pos ⟨hproto.trans h6, by simpa using hown⟩]
  rw [htcp]
  exact ⟨fun h => by rw [h], fun o h => by rw [h]⟩

theorem ipProto_other (h1 : proto ≠ 1) (h17 : proto ≠ 17) (h : proto ≠ 6 ∨ ¬f.be (f.typeAt + 2 + 16) 4 = (Config.ipOf x.port).toNat) :
    a.ipProto mid port cell w0 conf x f = a.freeCopy mid cell := by
  rw [ipProto, if_neg (by omega), if_neg (by omega), if_neg]
  rintro ⟨h6, hown⟩
  exact h.elim (fun h => h (hproto.symm.trans h6)) (fun h => h (by simpa using hown))

end

end

end Dev

end Sys2Proof.Machine
end

section
/-! O55: station inputs and losses (R382 to R385, R388 to R410). -/

namespace Sys2Proof.Machine

namespace Dev

variable {s y d b : Dev} {mid i k len : Nat} {st : Station} {r : InstRec} {src : PersSrc} {m : MsgInfo} {jobs : List Nat} {c : Captured}

/-- The data that count of what has been captured. -/
def inputData (st : Station) (c : Captured) : List Byte := if st.pers = 8 then sentenceOf c.data else c.data

/-- An input is taken. -/
def inputTaken (mid i : Nat) (st : Station) (r : InstRec) (m : MsgInfo) (c : Captured) (jobs : List Nat) (s : Dev) : Dev :=
  (s.heardFrom mid i r.tb m).inputCommit mid i st { c with data := inputData st c } jobs

/-- A violation is met, after which the input counts all the same where its row says so. -/
def inputMet (mid i k : Nat) (st : Station) (r : InstRec) (m : MsgInfo) (c : Captured) (jobs : List Nat) (v : Viol) (s : Dev) : Dev :=
  if commitRow r.pers v.row = true then (s.received mid k r st v).inputTaken mid i st r m c jobs else s.received mid k r st v

section
variable (hd : s.countsOut = d) (hst : d.pers.stations.get i = st) (hrec : d.instRec st.pers st.inst = some (k, r)) (hruns : d.instRuns st = true)
  (hin : d.persIn st.pers (mid / 8) = true)
include hd hst hrec hruns hin

theorem stationInput_nothing (hcap : d.captureOf mid i r st src len = (none, b)) (viol : Option Viol) : s.stationInput mid i len src m viol jobs = b := by
  have hgo : ¬((!d.instRuns st || !d.persIn st.pers (mid / 8)) = true) := by simp [hruns, hin]
  rw [Dev.stationInput, hd, hst, hrec]
  dsimp only
  rw [if_neg hgo, hcap]

theorem stationInput_captured (hcap : d.captureOf mid i r st src len = (some c, b)) (viol : Option Viol) :
    s.stationInput mid i len src m viol jobs =
      match (match (dataRow st src (inputData st c)).or (b.infoRow i r st m) with
        | some row => some ⟨row, false, 0⟩
        | none => viol) with
      | some v => b.inputMet mid i k st r m c jobs v
      | none => if msgMax r.pers r.role st < (inputData st c).length then b else b.inputTaken mid i st r m c jobs := by
  have hgo : ¬((!d.instRuns st || !d.persIn st.pers (mid / 8)) = true) := by simp [hruns, hin]
  have hdata : (if st.pers = 8 then { c with data := sentenceOf c.data } else c) = { c with data := inputData st c } := by
    unfold inputData
    split <;> rfl
  rw [Dev.stationInput, hd, hst, hrec]
  dsimp only
  rw [if_neg hgo, hcap]
  dsimp only
  rw [hdata]
  rfl

theorem stationInput_shown {w : Nat} (hcap : d.captureOf mid i r st src len = (some c, b))
    (hrow : (dataRow st src (inputData st c)).or (b.infoRow i r st m) = some w) (viol : Option Viol) :
    s.stationInput mid i len src m viol jobs = b.inputMet mid i k st r m c jobs ⟨w, false, 0⟩ := by
  rw [stationInput_captured hd hst hrec hruns hin hcap, hrow]

theorem stationInput_unshown (hcap : d.captureOf mid i r st src len = (some c, b))
    (hrow : (dataRow st src (inputData st c)).or (b.infoRow i r st m) = none) :
    ((inputData st c).length ≤ msgMax r.pers r.role st → s.stationInput mid i len src m none jobs = b.inputTaken mid i st r m c jobs) ∧
    (msgMax r.pers r.role st < (inputData st c).length → s.stationInput mid i len src m none jobs = b) ∧
    ∀ v, s.stationInput mid i len src m (some v) jobs = b.inputMet mid i k st r m c jobs v := by
  have hinput (viol : Option Viol) := stationInput_captured (m := m) (jobs := jobs) hd hst hrec hruns hin hcap viol
  simp only [hrow] at hinput
  exact ⟨fun hfits => (hinput none).trans (if_neg (Nat.not_lt.mpr hfits)), fun hlong => (hinput none).trans (if_pos hlong), fun v => hinput (some v)⟩

end

/-- An input comes from a frame that a port holds for the station. -/
theorem captureOf_frame {cell off port : Nat} {h : Held} (hmac : r.medium = some .mac) (hh : d.handles mid cell = some (port, h)) (hnew : i ∉ h.served) :
    let x := d.frame cell
    let m := Dev.readCellsBy mid x.cells x.flen d
    (∀ a ∈ x.cells, d.bankWaits a 256 = false) → m.1.ue = false → frameFor h st m.1.data = true → r.usesMac x.port = true → off + len ≤ x.flen →
      d.captureOf mid i r st (.frame cell off) len = (some ⟨(m.1.data.drop off).take len, x.ts, x.tb⟩,
        m.2.updHeld port cell fun h => { h with served := h.served ++ [i] }) := by
  intro x m hready hue hfor hport hlen
  have hread : Dev.readCellsBy mid x.cells x.flen d = m := rfl
  clear_value m
  obtain ⟨q, a⟩ := m
  dsimp only at hue hfor
  have hfree : ¬((h.served.contains i || x.cells.any fun a => d.bankWaits a 256) = true) := by simpa [hnew] using hready
  have hgood : ¬((q.ue || !frameFor h st q.data || !r.usesMac x.port || decide (x.flen < off + len)) = true) := by simp [hue, hfor, hport, hlen]
  unfold Dev.captureOf
  rw [hmac]
  dsimp only
  rw [hh]
  dsimp only
  rw [show d.frame cell = x from rfl, if_neg hfree, hread]
  exact if_neg hgood

/-! ### The commit of an input -/

theorem inputCommit_eq (hvalid : y.slotValid (2 * i) = true) : let slot := 2 * i
    let a := y.copyAddr slot (y.fld .CTL_SLOT_B slot)
    let l := c.data.take st.inLen
    let z := (y.physWrite mid a (slotBytes c.ts c.tb l)).slotCommit slot
    y.inputCommit mid i st c jobs = z.each (z.gatewaysOf i).zipIdx fun (g, k) s =>
      match s.instRec (s.pers.stations.get g).pers (s.pers.stations.get g).inst with
      | some (_, r) =>
        (s.updPartner g fun p => { p with notified := true }).instPush r (jobs.getD k (Config.notifyWord g)) a l.length g c.ts c.tb
      | none => s :=
  if_neg (by simp [hvalid])

theorem inputCommit_absent (h : y.slotValid (2 * i) = false) : y.inputCommit mid i st c jobs = y := if_pos (by simp [h])

/-! ### Losses -/

section
variable {v : Viol}

/-- A row of the response table is hit. -/
def lossHit (mid k : Nat) (r : InstRec) (st : Station) (v : Viol) (s : Dev) : Dev := s.violation mid k r ⟨(lossRow r st).getD 0, false, v.arg⟩

/-- A poll or frame has gone without its answer. -/
def lossMissed (mid i k : Nat) (r : InstRec) (st : Station) (v : Viol) (s : Dev) : Dev :=
  let s := s.updPartner i fun p => { p with misses := p.misses + 1 }
  if missRow st.pers ((lossRow r st).getD 0) = true then s.lossHit mid k r st v else s

/-- The station is lost. -/
def lossMet (mid i k : Nat) (r : InstRec) (st : Station) (v : Viol) (s : Dev) : Dev :=
  let s := s.updPartner i fun p => { p with lost := true }
  if missRow st.pers ((lossRow r st).getD 0) = true then s else s.lossHit mid k r st v

theorem stationLoss_eq (hd : s.countsOut = d) (hst : d.pers.stations.get i = st) (hrec : d.instRec st.pers st.inst = some (k, r))
    (hruns : d.instRuns st = true) (hin : d.persIn st.pers (mid / 8) = true) : let a := d.extNow (mid / 8) r.tb
    let b := if v.cond = true then a.2.lossMissed mid i k r st v else a.2
    s.stationLoss mid i v = if ((b.partner i).lost || !b.lossDue i r st a.1) = true then b
      else
        let z := b.lossMet mid i k r st v
        z.each (z.lostStations i st) fun j x => if x.slotValid (2 * j) then x.lossReport j else x := by
  intro a b
  have hread : d.extNow (mid / 8) r.tb = a := rfl
  have hb : b = if v.cond = true then a.2.lossMissed mid i k r st v else a.2 := rfl
  clear_value a
  obtain ⟨now, u⟩ := a
  have hgo : ¬((!d.instRuns st || !d.persIn st.pers (mid / 8)) = true) := by simp [hruns, hin]
  have hmissed : (u.when v.cond fun s => (s.updPartner i fun p => { p with misses := p.misses + 1 }).when (missRow st.pers ((lossRow r st).getD 0))
      (Dev.violation mid k r ⟨(lossRow r st).getD 0, false, v.arg⟩)) = b := hb.symm
  have hmet : ((b.updPartner i fun p => { p with lost := true }).when (!missRow st.pers ((lossRow r st).getD 0))
      (Dev.violation mid k r ⟨(lossRow r st).getD 0, false, v.arg⟩)) = b.lossMet mid i k r st v := by
    unfold lossMet Dev.when lossHit
    cases missRow st.pers ((lossRow r st).getD 0) <;> rfl
  rw [Dev.stationLoss, hd, hst, hrec]
  dsimp only
  rw [if_neg hgo, hread]
  dsimp only
  rw [hmissed, hmet]

theorem lostStations_one (h : st.pers ≠ 0xA) (y : Dev) : y.lostStations i st = [i] := if_neg h

end

end Dev

end Sys2Proof.Machine
end

section
/-! O55: transmission (R385, R386, R401, R403, R463). -/

namespace Sys2Proof.Machine

namespace Dev

variable {s y a d : Dev} {mid i k : Nat} {st : Station} {r : InstRec}

theorem instRec_congr {t : Dev} (h : t.pers.insts = s.pers.insts) (p i : Nat) : t.instRec p i = s.instRec p i := by
  rw [Dev.instRec, Dev.instRec, h]

/-! ### What a transmission leaves -/

theorem takeOverSeq_keeps (s : Dev) : s.takeOverSeq.pers = s.pers ∧ s.takeOverSeq.boot = s.boot := by
  unfold Dev.takeOverSeq
  split
  · exact ⟨rfl, rfl⟩
  · refine each_keeps (P := fun t => t.pers = s.pers ∧ t.boot = s.boot) (fun r _ t ht => ?_) _ ⟨rfl, rfl⟩
    unfold Dev.when
    split
    · exact ht
    · exact ht

theorem slotData_memOnly (s : Dev) (mid slot c len n : Nat) : s.memOnly (s.slotData mid slot c len n).2 := (physRead_frame s ..).1

theorem outputOf_memOnly (s : Dev) (mid i : Nat) (x : Station) : s.memOnly (s.outputOf mid i x).2 := by
  unfold Dev.outputOf
  extract_lets slot q
  clear_value slot q
  split
  · exact .rfl' s
  split
  · exact slotData_memOnly ..
  split
  · exact .rfl' s
  dsimp only
  split
  · split
    · exact slotData_memOnly ..
    · exact .rfl' s
  · exact slotData_memOnly ..

theorem persSend_shows (s : Dev) (r : InstRec) (m : PersTx) : (s.persSend r m).pers.sent = some m ∧ (s.persSend r m).pers.lines = s.pers.lines ∧
    (s.persSend r m).pers.pubs = s.pers.pubs := by
  unfold Dev.persSend
  dsimp only
  split_ifs
  · exact ⟨rfl, rfl, rfl⟩
  · split
    · split_ifs <;> exact ⟨rfl, rfl, rfl⟩
    · exact ⟨rfl, rfl, rfl⟩

/-! ### The transmit instant -/

/-- A message with a station's data leaves: a sentence on Ethernet behind its tag block. -/
def sendOutput (mid i k : Nat) (r : InstRec) (st : Station) (l : List Byte) (q : Express) (s : Dev) : Dev :=
  if st.pers = 8 ∧ r.medium = some .mac then
    (s.tagBlock mid k r st).2.persSend r (.udpbc i st.dest (s.tagBlock mid k r st).1 l)
  else s.persSend r (.data i (s.ownAddr k r) st.dest l q)

section
variable (hd : s.countsOut = d) (ha : d.takeOverSeq = a) (hst : d.pers.stations.get i = st) (hrec : d.instRec st.pers st.inst = some (k, r))
  (hin : d.persIn st.pers (mid / 8) = true) (hsends : a.instSends st = true)
include hd ha hst hrec hin hsends

theorem stationTransmit_eq : s.stationTransmit mid i =
    if a.claims k r = true then a.claim k r
    else if st.pers = 7 ∧ st.isSv = false then a.goosePublish mid i
    else
      let b := a.extNow (mid / 8) r.tb
      if b.2.txDue i r st b.1 = false then b.2
      else match ((b.2.txMark i r b.1).outputOf mid i st).1 with
        | none => ((b.2.txMark i r b.1).outputOf mid i st).2
        | some (l, q) => ((b.2.txMark i r b.1).outputOf mid i st).2.sendOutput mid i k r st l q := by
  obtain ⟨hpers, hboot⟩ := takeOverSeq_keeps d
  rw [ha] at hpers hboot
  have hst' : a.pers.stations.get i = st := by rw [hpers, hst]
  have hrec' : a.instRec st.pers st.inst = some (k, r) := (instRec_congr (congrArg PersSt.insts hpers) ..).trans hrec
  have hgo : ¬((!a.instSends st || !a.persIn st.pers (mid / 8)) = true) := by
    rw [persIn_congr hboot]
    simp [hsends, hin]
  rw [Dev.stationTransmit, hd, ha, hst', hrec']
  dsimp only
  rw [if_neg hgo]
  simp only [Bool.not_eq_true']
  rfl

theorem stationTransmit_claims (hclaims : a.claims k r = true) : s.stationTransmit mid i = a.claim k r := by
  rw [stationTransmit_eq hd ha hst hrec hin hsends, if_pos hclaims]

variable (hclaimed : a.claims k r = false)
include hclaimed

theorem stationTransmit_goose (h7 : st.pers = 7) (hsv : st.isSv = false) : s.stationTransmit mid i = a.goosePublish mid i := by
  rw [stationTransmit_eq hd ha hst hrec hin hsends, if_neg (by simp [hclaimed]), if_pos ⟨h7, hsv⟩]

variable (hcyclic : st.pers ≠ 7 ∨ st.isSv = true)
include hcyclic

theorem stationTransmit_cyclic : let b := a.extNow (mid / 8) r.tb
    s.stationTransmit mid i = if b.2.txDue i r st b.1 = false then b.2
      else match ((b.2.txMark i r b.1).outputOf mid i st).1 with
        | none => ((b.2.txMark i r b.1).outputOf mid i st).2
        | some (l, q) => ((b.2.txMark i r b.1).outputOf mid i st).2.sendOutput mid i k r st l q := by
  have hother : ¬(st.pers = 7 ∧ st.isSv = false) := by rcases hcyclic with h | h <;> simp [h]
  rw [stationTransmit_eq hd ha hst hrec hin hsends, if_neg (by simp [hclaimed]), if_neg hother]

theorem stationTransmit_early : let b := a.extNow (mid / 8) r.tb
    b.2.txDue i r st b.1 = false → s.stationTransmit mid i = b.2 := by
  intro b hearly
  rw [stationTransmit_cyclic hd ha hst hrec hin hsends hclaimed hcyclic]
  exact if_pos hearly

variable {u : Dev} (hdue : (a.extNow (mid / 8) r.tb).2.txDue i r st (a.extNow (mid / 8) r.tb).1 = true)
include hdue

theorem stationTransmit_nothing (ho : ((a.extNow (mid / 8) r.tb).2.txMark i r (a.extNow (mid / 8) r.tb).1).outputOf mid i st = (none, u)) :
    s.stationTransmit mid i = u := by
  rw [stationTransmit_cyclic hd ha hst hrec hin hsends hclaimed hcyclic, if_neg (by simp [hdue]), ho]

theorem stationTransmit_sends {l : List Byte} {q : Express}
    (ho : ((a.extNow (mid / 8) r.tb).2.txMark i r (a.extNow (mid / 8) r.tb).1).outputOf mid i st = (some (l, q), u)) :
    s.stationTransmit mid i = u.sendOutput mid i k r st l q := by
  rw [stationTransmit_cyclic hd ha hst hrec hin hsends hclaimed hcyclic, if_neg (by simp [hdue]), ho]

end

/-- The tag block of a sentence carries the talker and the next line count, which stays. -/
theorem tagBlock_sent (s : Dev) (mid k i : Nat) (r : InstRec) (x : Station) (l : List Byte) : let b := (s.tagBlock mid k r x).1
    let t := (s.tagBlock mid k r x).2.persSend r (.udpbc i x.dest b l)
    t.pers.sent = some (.udpbc i x.dest b l) ∧ b.s = x.param ∧ b.n = s.pers.lines.get k % 999 + 1 ∧ t.pers.lines.get k = b.n := by
  intro b t
  obtain ⟨hsent, hlines, -⟩ := persSend_shows (s.tagBlock mid k r x).2 r (.udpbc i x.dest b l)
  have hset : (s.tagBlock mid k r x).2.pers.lines = s.pers.lines.set k b.n := rfl
  exact ⟨hsent, rfl, rfl, by rw [hlines, hset, Tab.get_set_same]⟩

/-! ### What a station sends -/

theorem expressOf_plain {p : Nat} (h2 : p ≠ 2) (h3 : p ≠ 3) (h7 : p ≠ 7) (hC : p ≠ 0xC) (q : Nat) : expressOf p q = .plain := by
  unfold expressOf
  split <;> simp_all

/-- What a gateway station sends for a quality of its source. -/
def gatewayOutput (st : Station) (q : Nat) (newest safe : List Byte) : Option (List Byte × Express) :=
  (gatewaySends st.pers q).map fun b =>
    (if q = 2 ∧ (st.pers = 9 ∨ st.pers = 0xB) then List.replicate st.outLen 255#8 else if b = true then safe else newest, expressOf st.pers q)

theorem gatewayOutput_shows (st : Station) (q : Nat) (newest safe : List Byte) : let o := gatewayOutput st q newest safe
    (st.pers = 8 → o = if q = 0 ∨ q = 3 then some (newest, .plain) else none) ∧
    (st.pers ∈ [1, 4, 5, 6, 0xA] → q = 2 → o = some (safe, .plain)) ∧
    (st.pers = 9 ∨ st.pers = 0xB → q = 2 → o = some (List.replicate st.outLen 255#8, .plain)) ∧
    (st.pers ≠ 8 → q ≠ 2 ∨ st.pers ∉ [1, 4, 5, 6, 9, 0xA, 0xB] → o = some (newest, expressOf st.pers q)) := by
  intro o
  have ho : o = gatewayOutput st q newest safe := rfl
  rw [gatewayOutput] at ho
  clear_value o
  refine ⟨fun h8 => ?_, fun hsafe h2 => ?_, fun hones h2 => ?_, fun h8 hother => ?_⟩
  · rw [ho, gatewaySends, if_pos h8, h8, expressOf_plain (by decide) (by decide) (by decide) (by decide)]
    by_cases hq : q = 0 ∨ q = 3
    · rw [if_pos hq, if_pos hq]
      simp
    · rw [if_neg hq, if_neg hq]
      rfl
  · have h8 : st.pers ≠ 8 := by rintro h; simp [h] at hsafe
    have h9 : ¬(st.pers = 9 ∨ st.pers = 0xB) := by rintro (h | h) <;> simp [h] at hsafe
    have hplain : expressOf st.pers q = .plain := by
      refine expressOf_plain ?_ ?_ ?_ ?_ q <;> rintro h <;> simp [h] at hsafe
    have hsends : gatewaySends st.pers q = some true := by
      rw [gatewaySends, if_neg h8, if_pos ⟨h2, by simpa using hsafe⟩]
    rw [ho, hsends, hplain]
    simp [h9]
  · have hplain : expressOf st.pers q = .plain := by
      rcases hones with h | h <;> rw [h] <;> exact expressOf_plain (by decide) (by decide) (by decide) (by decide) q
    have hsends : gatewaySends st.pers q = some false := by rcases hones with h | h <;> simp [gatewaySends, h]
    rw [ho, hsends, hplain]
    simp [h2, hones]
  · have hsends : gatewaySends st.pers q = some false := by
      rw [gatewaySends, if_neg h8, if_neg]
      rintro ⟨h2, hsafe⟩
      rcases hother with h | h
      · exact h h2
      · simp at h hsafe
        omega
    have hnew : ¬(q = 2 ∧ (st.pers = 9 ∨ st.pers = 0xB)) := by
      rintro ⟨h2, hones⟩
      rcases hother with h | h
      · exact h h2
      · simp at h
        omega
    rw [ho, hsends]
    simp [hnew]

theorem outputOf_absent {slot : Nat} (hslot : (if st.gateway = true then 2 * st.src else 2 * i + 1) = slot) (h : y.slotValid slot = false) :
    y.outputOf mid i st = (none, y) := by
  unfold Dev.outputOf
  dsimp only
  rw [hslot, if_pos (by simp [h])]

section
variable {slot : Nat} (hslot : (if st.gateway = true then 2 * st.src else 2 * i + 1) = slot) (hvalid : y.slotValid slot = true)
  (hready : y.bankWaits (y.copyAddr slot (y.fld .CTL_SLOT_LAST slot)) (16 + st.outLen) = false)
include hslot hvalid hready

theorem outputOf_own (hown : st.gateway = false) :
    (y.outputOf mid i st).1 = some ((y.slotData mid slot (y.fld .CTL_SLOT_LAST slot) st.outLen st.outLen).1, expressOf st.pers 0) := by
  unfold Dev.outputOf
  dsimp only
  rw [hslot, if_neg (by simp [hvalid, hready]), if_pos (by simp [hown])]

/-- A gateway station goes by the quality of its source. -/
theorem outputOf_gateway (hgate : st.gateway = true) : (y.outputOf mid i st).1 = gatewayOutput st (y.fld .CTL_SLOT_QUAL slot)
    (y.slotData mid slot (y.fld .CTL_SLOT_LAST slot) (y.pers.stations.get st.src).inLen st.outLen).1
    (if y.slotValid (2 * i + 1) = true then (y.slotData mid (2 * i + 1) 3 st.outLen st.outLen).1 else leBytes st.outLen 0) := by
  unfold Dev.outputOf gatewayOutput
  dsimp only
  rw [hslot, if_neg (by simp [hvalid, hready]), if_neg (by simp [hgate])]
  generalize y.fld .CTL_SLOT_QUAL slot = q
  cases gatewaySends st.pers q with
  | none => rfl
  | some b =>
    refine congrArg (fun l => some (if q = 2 ∧ (st.pers = 9 ∨ st.pers = 0xB) then List.replicate st.outLen 255#8 else l, expressOf st.pers q)) ?_
    split
    · split <;> rfl
    · rfl

end

end Dev

end Sys2Proof.Machine
end

section
/-! O55: refused records and GOOSE (R376, R377, R399). -/

namespace Sys2Proof.Machine

/-- A publication as it stands after a retransmission. -/
def Pub.again (p : Pub) : Pub :=
  { p with sqNum := gooseNext p.sqNum, step := min 4 (p.step + 1), due := (p.due + retransmitGap p.step) % 2 ^ 32 }

namespace Dev

variable {s d : Dev} {mid i k : Nat} {r : InstRec} {l : Limit} {st : Station}

/-! ### Instance records -/

/-- A record is refused and logged. -/
def refuse (mid : Nat) (r : InstRec) (s : Dev) : Dev :=
  (s.fresh.2.logRecord mid s.fresh.1 [r.inst]).updPers fun x => { x with refused := instKey r.pers r.inst :: x.refused }

/-- What a refused record names neither runs nor sends. -/
theorem refuse_stops (s : Dev) (mid : Nat) (r : InstRec) {x : Station} (hp : x.pers = r.pers) (hi : x.inst = r.inst) :
    (s.refuse mid r).instRuns x = false ∧ (s.refuse mid r).instSends x = false := by
  have hrefused : (s.refuse mid r).pers.refused.contains (instKey r.pers r.inst) = true := by simp [refuse, Dev.updPers]
  generalize s.refuse mid r = t at hrefused
  have hruns : t.instRuns x = false := by
    unfold Dev.instRuns
    cases hrec : t.instRec x.pers x.inst with
    | none => rfl
    | some e =>
      obtain ⟨q, hfind, he⟩ := Option.map_eq_some_iff.mp hrec
      have hkey := List.find?_some hfind
      simp only [Bool.and_eq_true, beq_iff_eq] at hkey
      rw [← he, Option.any_some, Dev.recRuns, hkey.1, hkey.2, hp, hi, hrefused]
      simp
  exact ⟨hruns, by simp [Dev.instSends, hruns]⟩

section
variable (hd : s.countsOut = d) (hrec : d.pers.insts[k]? = some r)
include hd hrec

theorem instanceRefuse_absent (habsent : d.persLoaded r.pers = false) :
    (d.firstPersIn (mid / 8) = true → k ∉ d.pers.skipped →
      s.instanceRefuse mid k l = (d.commonCount mid 0 1).updPers fun x => { x with skipped := k :: x.skipped }) ∧
    (d.firstPersIn (mid / 8) = false ∨ k ∈ d.pers.skipped → s.instanceRefuse mid k l = d) := by
  have hrefuse : s.instanceRefuse mid k l = if d.firstPersIn (mid / 8) && !d.pers.skipped.contains k then
      (d.commonCount mid 0 1).updPers fun x => { x with skipped := k :: x.skipped } else d := by
    rw [Dev.instanceRefuse, hd]
    dsimp only
    rw [hrec]
    exact if_pos (by simp [habsent])
  rw [hrefuse]
  exact ⟨fun hfirst hnew => if_pos (by simp [hfirst, hnew]), fun hnot => if_neg (by rcases hnot with h | h <;> simp [h])⟩

theorem instanceRefuse_loaded (hloaded : d.persLoaded r.pers = true) (hin : d.persIn r.pers (mid / 8) = true)
    (hnew : instKey r.pers r.inst ∉ d.pers.refused) :
    (d.unmet k r l = true → s.instanceRefuse mid k l =
      if (d.refuse mid r).blockOk r = true then (d.refuse mid r).persCount mid r.cntBase else d.refuse mid r) ∧
    (d.unmet k r l = false → s.instanceRefuse mid k l = d) := by
  have hrefuse : s.instanceRefuse mid k l = if !d.persIn r.pers (mid / 8) || d.pers.refused.contains (instKey r.pers r.inst) || !d.unmet k r l then d
      else if (d.refuse mid r).blockOk r = true then (d.refuse mid r).persCount mid r.cntBase else d.refuse mid r := by
    rw [Dev.instanceRefuse, hd]
    dsimp only
    rw [hrec]
    exact if_neg (by simp [hloaded])
  rw [hrefuse]
  exact ⟨fun hunmet => if_neg (by simp [hin, hnew, hunmet]), fun hmet => if_pos (by simp [hmet])⟩

end

/-! ### GOOSE -/

theorem gooseNext_ne_zero (n : Nat) : gooseNext n ≠ 0 := by
  unfold gooseNext
  split <;> omega

theorem gooseNext_succ {n : Nat} (h : n + 1 < 2 ^ 32) : gooseNext n = n + 1 := if_neg (by omega)

theorem publishes_rec (h : d.publishes st = true) : ∃ k r, d.instRec st.pers st.inst = some (k, r) := by
  simp only [Dev.publishes, Bool.and_eq_true, Option.any_eq_true] at h
  obtain ⟨-, ⟨k, r⟩, hrec, -⟩ := h
  exact ⟨k, r, hrec⟩

section
variable (hd : s.countsOut = d) (hst : d.pers.stations.get i = st) (h7 : st.pers = 7) (hsv : st.isSv = false) (hpub : d.publishes st = true)
  {u : Dev}
include hd hst h7 hsv hpub

theorem goosePublish_nothing (ho : d.outputOf mid i st = (none, u)) : s.goosePublish mid i = u := by
  rw [Dev.goosePublish, hd, hst]
  dsimp only
  rw [if_neg (by simp [h7, hsv, hpub]), ho]

variable {b : List Byte} {q : Express}

theorem goosePublish_same (ho : d.outputOf mid i st = (some (b, q), u)) (hsame : b = Frame.padTo (u.pers.pubs.get i).last st.outLen ∧
    (q = (u.pers.pubs.get i).quality ∨ (u.pers.pubs.get i).stNum = 0)) : s.goosePublish mid i = u := by
  rw [Dev.goosePublish, hd, hst]
  dsimp only
  rw [if_neg (by simp [h7, hsv, hpub]), ho]
  exact if_pos hsame

/-- A publication takes the data, with the next state number and sequence number 0. -/
def published (i : Nat) (st : Station) (b : List Byte) (q : Express) (s : Dev) : Dev :=
  s.updPers fun y => { y with pubs := y.pubs.set i ⟨b, q, gooseNext (s.pers.pubs.get i).stNum, 0, 0, (s.pubNow st + 1000000) % 2 ^ 32⟩ }

theorem goosePublish_new (ho : d.outputOf mid i st = (some (b, q), u)) (hnew : ¬(b = Frame.padTo (u.pers.pubs.get i).last st.outLen ∧
    (q = (u.pers.pubs.get i).quality ∨ (u.pers.pubs.get i).stNum = 0))) :
    ∃ r, s.goosePublish mid i = (u.published i st b q).persSend r (.goose i (gooseNext (u.pers.pubs.get i).stNum) 0 b q) := by
  obtain ⟨k, r, hrec⟩ := publishes_rec hpub
  have hpers : u.pers = d.pers := by
    have honly := (outputOf_memOnly d mid i st).pers
    rwa [ho] at honly
  have hrec' : (u.published i st b q).instRec st.pers st.inst = some (k, r) :=
    (instRec_congr (s := d) (t := u.published i st b q) (congrArg PersSt.insts hpers :) ..).trans hrec
  refine ⟨r, ?_⟩
  rw [Dev.goosePublish, hd, hst]
  dsimp only
  rw [if_neg (by simp [h7, hsv, hpub]), ho]
  dsimp only
  rw [if_neg hnew]
  unfold published at hrec' ⊢
  rw [hrec']

end

section
variable (hst : d.pers.stations.get i = st) (h7 : st.pers = 7) (hsv : st.isSv = false) (hpub : d.publishes st = true)
include hst

theorem gooseRetransmit_early (hearly : reached (d.pers.pubs.get i).due (d.pubNow st) = false) : d.gooseRetransmit i = d := by
  rw [Dev.gooseRetransmit, hst]
  exact if_pos (by simp [hearly])

include h7 hsv hpub

theorem gooseRetransmit_sends (hnum : (d.pers.pubs.get i).stNum ≠ 0) (hdue : reached (d.pers.pubs.get i).due (d.pubNow st) = true) :
    let p := d.pers.pubs.get i
    ∃ r, d.gooseRetransmit i = (d.updPers fun y => { y with pubs := y.pubs.set i p.again }).persSend r
      (.goose i p.stNum p.again.sqNum p.last p.quality) := by
  intro p
  obtain ⟨k, r, hrec⟩ := publishes_rec hpub
  have hrec' : (d.updPers fun y => { y with pubs := y.pubs.set i p.again }).instRec st.pers st.inst = some (k, r) := hrec
  refine ⟨r, ?_⟩
  rw [Dev.gooseRetransmit, hst]
  dsimp only
  rw [if_neg (by simp [h7, hsv, hpub, hnum, hdue])]
  unfold Pub.again at hrec' ⊢
  rw [hrec']

end

end Dev

end Sys2Proof.Machine
end

section
/-! O55: the rows of the personalities. -/

namespace Sys2Proof.Machine

section
variable {e : Fin 64} {s : State} (h : (s.dev.engine e).stores = []) (cell : BitVec 27) (i : BitVec 12)
include h

theorem exec_receiveDispatch_eq (viol : Option (BitVec 12 × Viol)) : exec (.receiveDispatch e cell viol) s =
    .next (s.withDev (s.dev.dispatchFrame e cell.toNat (viol.map fun p => (p.1.toNat, p.2)))) := next_congr (Dev.signalRow_ready h)

theorem exec_ipv4Datagram_eq (owner : Word × Option (BitVec 12)) : exec (.ipv4Datagram e cell owner) s =
    .next (s.withDev (s.dev.ipDatagram e cell.toNat owner.1.toNat (owner.2.map BitVec.toNat))) := next_congr (Dev.signalRow_ready h)

theorem exec_stationInput_eq (len : Nat) (src : PersSrc) (m : MsgInfo) (viol : Option Viol) (jobs : List Word) :
    exec (.stationInput e i len src m viol jobs) s =
      .next (s.withDev (s.dev.stationInput e i.toNat len src m viol (jobs.map BitVec.toNat))) := next_congr (Dev.signalRow_ready h)

theorem exec_stationLoss_eq (v : Viol) : exec (.stationLoss e i v) s = .next (s.withDev (s.dev.stationLoss e i.toNat v)) :=
  next_congr (Dev.signalRow_ready h)

theorem exec_gatewayTransmit_eq : exec (.gatewayTransmit e i) s = .next (s.withDev (s.dev.stationTransmit e i.toNat)) :=
  next_congr (Dev.signalRow_ready h)

theorem exec_instanceRefuse_eq (l : Limit) : exec (.instanceRefuse e (i, l)) s = .next (s.withDev (s.dev.instanceRefuse e i.toNat l)) :=
  next_congr (Dev.signalRow_ready h)

theorem exec_goosePublish_eq : exec (.goosePublish e i) s = .next (s.withDev (s.dev.goosePublish e i.toNat)) := next_congr (Dev.signalRow_ready h)

end

theorem exec_gooseRetransmit_eq (i : BitVec 12) (s : State) : exec (.gooseRetransmit i) s = .next (s.withDev (s.dev.gooseRetransmit i.toNat)) := rfl

/-- Settles O55: each row does what its operation does on the device whose counters have been written. -/
theorem personalityRowsComplete : Obligations.PersonalityRowsComplete := by
  intro e i s d out next n st
  have hnext {i e p} (hexec : exec i s = .next (s.withDev e)) (he : p e) : next i p := ⟨s.withDev e, hexec, s.withDev_pending e, he⟩
  have hout {i : Instr} {x y : Dev} (hexec : exec i s = .next (s.withDev x)) (hx : x = y) : exec i s = out y := hexec.trans (congrArg out hx)
  clear_value next
  have hd : s.dev.countsOut = d := rfl
  have hst : d.pers.stations.get i.toNat = st := rfl
  refine ⟨fun hstores => ⟨?dispatch, ?ipv4, ?station, ?refuse, ?goose⟩, ?retransmit⟩
  case dispatch =>
    intro cell port h hh
    have hrun (v : Option (BitVec 12 × Viol)) := exec_receiveDispatch_eq hstores cell v
    refine ⟨fun hgiven v => hout (hrun v) (Dev.dispatchFrame_given hd hh hgiven _), fun hpm hpers => ?_⟩
    intro m f table give
    refine ⟨fun p hmem hin => ?_, fun hip hrink => ?_, fun hpers' hip v => ?_⟩
    · have htaker := Dev.frameTaker_pers (Dev.etypePers_iff.mpr hmem) hin
      exact ⟨hout (hrun none) (Dev.dispatchFrame_gives hd hh hpm hpers htaker), fun k r v hrec hp hruns =>
        hout (hrun (some (k, v))) (Dev.dispatchFrame_violated hd hh hpm hpers htaker hrec hp hruns)⟩
    · exact hout (hrun none) (Dev.dispatchFrame_gives hd hh hpm hpers (Dev.frameTaker_ip hip hrink))
    · exact hout (hrun v) (Dev.dispatchFrame_none hd hh hpm hpers
        (Dev.frameTaker_none (fun p hp => hpers' p (Dev.etypePers_iff.mp hp)) hip))
  case ipv4 =>
    intro cell port held w0 conf hh hrink hheld x m f a h ihl p total proto src dst own bad odd run free drop sp dp key opened closed rst fl fresh q owner
    have hserves : run = out (a.ipServe e port cell.toNat w0.toNat (conf.map BitVec.toNat) x f) :=
      hout (exec_ipv4Datagram_eq hstores cell (w0, conf)) (Dev.ipDatagram_serves hd hh hrink hheld)
    have hframe : (a.frame cell.toNat).port = x.port := congrArg (fun w : SwcSt => (w.frames.get cell.toNat).port) (Dev.readCellsBy_memOnly ..).swc
    clear_value run a f x
    refine ⟨fun hother => hserves.trans (congrArg out (Dev.ipServe_other hother)), fun hvlan =>
      ⟨fun he => hserves.trans (congrArg out (Dev.ipServe_arp hvlan he)), fun he => ?_⟩⟩
    rw [Dev.ipServe_checks hvlan he] at hserves
    refine ⟨fun hbad => hserves.trans (congrArg out (if_pos hbad)), fun hgood hnot => hserves.trans (congrArg out ((if_neg hgood).trans (if_pos hnot))),
      fun hgood hfor => ?_⟩
    have hfor' : ¬(ipFor x.port (f.be (f.typeAt + 2 + 16) 4) = false) := by simpa using hfor
    rw [if_neg hgood, if_neg hfor'] at hserves
    refine ⟨fun hodd => hserves.trans (congrArg out (if_pos hodd)), fun heven => ?_⟩
    rw [if_neg heven] at hserves
    have hproto : f.be (f.typeAt + 2 + 9) 1 = proto := rfl
    refine ⟨fun h1 => hserves.trans (congrArg out (Dev.ipProto_icmp hproto h1)), fun h17 => ?_, fun h1 h17 hother =>
      hserves.trans (congrArg out (Dev.ipProto_other hproto h1 h17 hother)), fun h6 hown => ?_⟩
    · obtain ⟨hnone, hsome⟩ := Dev.ipProto_udp (a := a) (mid := e) (port := port) (cell := cell.toNat) (w0 := w0.toNat) (conf := conf.map BitVec.toNat)
        (x := x) hproto h17
      exact ⟨fun ho => hserves.trans (congrArg out (hnone ho)), fun o ho => hserves.trans (congrArg out (hsome o ho))⟩
    · obtain ⟨hnone, hsome⟩ := Dev.ipProto_tcp (a := a) (mid := e) (port := port) (cell := cell.toNat) (w0 := w0.toNat) (conf := conf.map BitVec.toNat)
        (x := x) hproto h6 hown
      refine ⟨fun ho => hserves.trans (congrArg out (hnone ho)), fun o ho => ?_⟩
      rw [hsome o ho] at hserves
      refine ⟨fun hfresh hack => ?_, fun hseg => ?_⟩
      · obtain ⟨hfull, hroom⟩ := Dev.tcpTake_request (mid := e) (port := port) (w0 := w0.toNat) (o := o) (total := total) hframe hfresh.1 hfresh.2 hack
        exact ⟨fun hlen => hserves.trans (congrArg out (hfull hlen)), fun hlen => hserves.trans (congrArg out (hroom hlen))⟩
      · exact hserves.trans (congrArg out (Dev.tcpTake_segment hframe hseg))
  case station =>
    intro k r hrec hin
    refine ⟨fun hruns => ⟨?input, ?capture, ?commit, ?loss⟩, ?transmit, ?output⟩
    case input =>
      intro len src m jobs run b
      have hrun (v : Option Viol) := exec_stationInput_eq hstores i len src m v jobs
      refine ⟨fun hnone v => ?_, fun c hsome => ?_⟩
      · exact hout (hrun v) (Dev.stationInput_nothing hd hst hrec hruns hin (Prod.ext hnone rfl) v)
      · intro l row take met
        have hcap : d.captureOf e i.toNat r st src len = (some c, b) := Prod.ext hsome rfl
        refine ⟨fun hrow => ?_, fun w v hrow => hout (hrun v) (Dev.stationInput_shown hd hst hrec hruns hin hcap hrow v)⟩
        obtain ⟨hfits, hlong, hmet⟩ := Dev.stationInput_unshown (m := m) (jobs := jobs.map BitVec.toNat) hd hst hrec hruns hin hcap hrow
        exact ⟨fun hlen => hout (hrun none) (hfits hlen), fun hlen => hout (hrun none) (hlong hlen), fun v => hout (hrun (some v)) (hmet v)⟩
    case capture => exact fun cell off len port h hmac hh hnew hready hue hfor hport hlen => Dev.captureOf_frame hmac hh hnew hready hue hfor hport hlen
    case commit =>
      intro y c jobs slot a l z
      refine ⟨Dev.inputCommit_absent, fun hvalid hnone => ?_, fun g kg rg hvalid hone hrec' => ?_⟩
      · have hcommit : y.inputCommit e i.toNat st c jobs = _ := Dev.inputCommit_eq hvalid
        dsimp only at hcommit
        rw [hcommit, show Dev.gatewaysOf _ i.toNat = [] from hnone]
        rfl
      · have hcommit : y.inputCommit e i.toNat st c jobs = _ := Dev.inputCommit_eq hvalid
        dsimp only at hcommit
        rw [hcommit, show Dev.gatewaysOf _ i.toNat = [g] from hone]
        change (match z.instRec (z.pers.stations.get g).pers (z.pers.stations.get g).inst with
          | some (_, r) => _
          | none => z) = _
        rw [hrec']
    case loss =>
      intro v a row miss hit b gone
      have hloss := hout (exec_stationLoss_eq hstores i v) (Dev.stationLoss_eq hd hst hrec hruns hin)
      have hkeeps : (b.partner i.toNat).lost = true ∨ b.lossDue i.toNat r st a.1 = false →
          ((b.partner i.toNat).lost || !b.lossDue i.toNat r st a.1) = true := by simp
      refine ⟨fun hkept => hloss.trans (congrArg out (if_pos (hkeeps hkept))), fun hheard hdue => hloss.trans (congrArg out (if_neg ?_)), Dev.lostStations_one⟩
      simpa using ⟨hheard, hdue⟩
    case transmit =>
      intro a hsends
      have ha : d.takeOverSeq = a := rfl
      have hrun := exec_gatewayTransmit_eq hstores i
      refine ⟨fun hclaims => hout hrun (Dev.stationTransmit_claims hd ha hst hrec hin hsends hclaims), fun hclaimed h7 hsv =>
        hout hrun (Dev.stationTransmit_goose hd ha hst hrec hin hsends hclaimed h7 hsv), fun hclaimed hcyclic => ?_⟩
      intro b o
      refine ⟨fun hearly => hout hrun (Dev.stationTransmit_early hd ha hst hrec hin hsends hclaimed hcyclic hearly), fun hdue =>
        ⟨fun hnone => hout hrun (Dev.stationTransmit_nothing hd ha hst hrec hin hsends hclaimed hcyclic hdue (Prod.ext hnone rfl)), fun l q hsome => ?_⟩⟩
      have hsent := Dev.stationTransmit_sends hd ha hst hrec hin hsends hclaimed hcyclic hdue (Prod.ext hsome rfl : o = (some (l, q), o.2))
      refine ⟨fun hplain => hout hrun (hsent.trans (if_neg ?_)), fun h8 hmac => ?_⟩
      · rintro ⟨h8, hmac⟩
        exact hplain.elim (fun h => h h8) (fun h => h hmac)
      · rw [hsent, Dev.sendOutput, if_pos ⟨h8, hmac⟩] at hrun
        exact hnext hrun ⟨_, Dev.tagBlock_sent ..⟩
    case output =>
      intro y slot o q newest
      have hslot : (if st.gateway = true then 2 * st.src else 2 * i.toNat + 1) = slot := rfl
      refine ⟨fun habsent => congrArg Prod.fst (Dev.outputOf_absent hslot habsent), fun hvalid hready =>
        ⟨fun hown => Dev.outputOf_own hslot hvalid hready hown, fun hgate => ?_⟩⟩
      have ho : o = Dev.gatewayOutput st q newest _ := Dev.outputOf_gateway hslot hvalid hready hgate
      rw [ho]
      exact Dev.gatewayOutput_shows ..
  case refuse =>
    intro l r hrec run c
    have hrun := exec_instanceRefuse_eq hstores i l
    refine ⟨fun habsent => ?_, fun hloaded hin hnew => ?_, fun x hp hi => Dev.refuse_stops d e r hp hi⟩
    · obtain ⟨hcounted, hkept⟩ := Dev.instanceRefuse_absent (mid := e) (l := l) hd hrec habsent
      exact ⟨fun hfirst hnew => hout hrun (hcounted hfirst hnew), fun hnot => hout hrun (hkept hnot)⟩
    · obtain ⟨hrefused, hkept⟩ := Dev.instanceRefuse_loaded (mid := e) (l := l) hd hrec hloaded hin hnew
      exact ⟨fun hunmet => hout hrun (hrefused hunmet), fun hmet => hout hrun (hkept hmet)⟩
  case goose =>
    intro h7 hsv hpub o
    have hrun := exec_goosePublish_eq hstores i
    refine ⟨fun hnone => hout hrun (Dev.goosePublish_nothing hd hst h7 hsv hpub (Prod.ext hnone rfl)), fun l q hsome => ?_⟩
    intro p
    have ho : o = (some (l, q), o.2) := Prod.ext hsome rfl
    refine ⟨fun hsame => hout hrun (Dev.goosePublish_same hd hst h7 hsv hpub ho hsame), fun hnew => ?_⟩
    obtain ⟨r, hgoose⟩ := Dev.goosePublish_new hd hst h7 hsv hpub ho hnew
    rw [hgoose] at hrun
    obtain ⟨hsent, -, hpubs⟩ := Dev.persSend_shows (o.2.published i.toNat st l q) r (.goose i.toNat (gooseNext p.stNum) 0 l q)
    have hpubl : (o.2.published i.toNat st l q).pers.pubs.get i.toNat = ⟨l, q, gooseNext p.stNum, 0, 0, (o.2.pubNow st + 1000000) % 2 ^ 32⟩ :=
      Tab.get_set_same ..
    refine hnext hrun ?_
    dsimp only
    rw [hpubs, hpubl]
    exact ⟨Dev.gooseNext_ne_zero _, Dev.gooseNext_succ, rfl, rfl, rfl, hsent⟩
  case retransmit =>
    intro d st h7 hsv hpub p
    have hrun := exec_gooseRetransmit_eq i s
    refine ⟨fun hnum hdue => ?_, fun _ hearly => hrun.trans (next_congr (Dev.gooseRetransmit_early rfl hearly))⟩
    obtain ⟨r, hgoose⟩ := Dev.gooseRetransmit_sends (i := i.toNat) rfl h7 hsv hpub hnum hdue
    rw [hgoose] at hrun
    obtain ⟨hsent, -, hpubs⟩ := Dev.persSend_shows (d.updPers fun y => { y with pubs := y.pubs.set i.toNat p.again }) r
      (.goose i.toNat p.stNum p.again.sqNum p.last p.quality)
    have hagain : (d.updPers fun y => { y with pubs := y.pubs.set i.toNat p.again }).pers.pubs.get i.toNat = p.again := Tab.get_set_same ..
    refine hnext hrun ?_
    dsimp only
    rw [hpubs, hagain]
    exact ⟨rfl, rfl, rfl, Dev.gooseNext_ne_zero _, Dev.gooseNext_succ, rfl, rfl, hsent⟩

end Sys2Proof.Machine
end
